-- ==== Sys2Proof/Word.lean ====
section
/-! DEFINITION. The words of the machine: 32-bit registers, 64-bit pairs and bytes. -/
namespace Sys2Proof

/-- A register word (R688). -/
abbrev Word := BitVec 32

/-- A 64-bit pair (R6). -/
abbrev DWord := BitVec 64

/-- A byte of memory, of a parcel or of a datagram. -/
abbrev Byte := BitVec 8

end Sys2Proof
end

