-- ==== Sys2Proof/Syntax/Types.lean ====
section
/-! DEFINITION. The operands of the commands: dies, paths, ports, parcels, and what the outside brings. -/
namespace Sys2Proof

/-! ### Dies, paths and ports (chapters 00, 01, 24) -/

/-- The dies of the part, Table 1.1 (R14).  In the BX7710 `cd1` and `cd3` are not fitted (R32). -/
inductive Die where
  | svc | eye | cd0 | cd1 | cd2 | cd3
deriving DecidableEq, Repr, Inhabited

/-- Die ID code of Table 1.1 (R14). -/
def Die.code : Die → Nat
  | .svc => 0x0 | .eye => 0x1 | .cd0 => 0x4 | .cd1 => 0x5 | .cd2 => 0x6 | .cd3 => 0x7

/-- The die with a die ID code; codes of no die of the part answer none (R15). -/
def Die.ofCode : Nat → Option Die
  | 0x0 => some .svc | 0x1 => some .eye | 0x4 => some .cd0 | 0x5 => some .cd1
  | 0x6 => some .cd2 | 0x7 => some .cd3 | _ => none

/-- Position of a die in the model's per-die vectors. -/
def Die.idx : Die → Nat
  | .svc => 0 | .eye => 1 | .cd0 => 2 | .cd1 => 3 | .cd2 => 4 | .cd3 => 5

/-- Number of a compute die, `CDn` of Table 24.1; none for SVC and the EYE. -/
def Die.cdIdx : Die → Option Nat
  | .cd0 => some 0 | .cd1 => some 1 | .cd2 => some 2 | .cd3 => some 3 | _ => none

/-- Compute die n. -/
def Die.ofCd : Nat → Die
  | 0 => .cd0 | 1 => .cd1 | 2 => .cd2 | _ => .cd3

/-- Is the die one of CD0 to CD3? -/
def Die.isCd : Die → Bool
  | .cd0 | .cd1 | .cd2 | .cd3 => true | _ => false

/-- All dies, in die ID order. -/
def Die.all : List Die := [.svc, .eye, .cd0, .cd1, .cd2, .cd3]

/-- The dies other than SVC, in die ID order. -/
def Die.others : List Die := [.eye, .cd0, .cd1, .cd2, .cd3]

/-- The four access paths of a register (chapter 00, Registers and access). -/
inductive Path where
  | core | bcp | i2c | jtag
deriving DecidableEq, Repr, Inhabited

/-- Position of a path; also the coding of CV_STATUS.PATH (Table of CV_STATUS). -/
def Path.idx : Path → Nat
  | .core => 0 | .bcp => 1 | .i2c => 2 | .jtag => 3

/-- The two parts of Table 0.1 (R1). -/
inductive Part where
  | bx7720 | bx7710
deriving DecidableEq, Repr, Inhabited

/-- One EDL port: a die and its port number.  SVC 0 (CD2), 1 (EYE); EYE 0–3 (CD0–CD3), 4 (SVC);
compute die 0 INNER, 1 CW, 2 CCW, 3 OUTER (Table 24.5). -/
structure PortId where
  die : Die
  port : Nat
deriving DecidableEq, Repr, Inhabited

/-- How many EDL ports a die has. -/
def Die.portCount : Die → Nat
  | .svc => 2 | .eye => 5 | _ => 4

/-- Position of a port in the model's vector of 23 ports. -/
def PortId.idx (p : PortId) : Nat :=
  match p.die with
  | .svc => p.port
  | .eye => 2 + p.port
  | .cd0 => 7 + p.port
  | .cd1 => 11 + p.port
  | .cd2 => 15 + p.port
  | .cd3 => 19 + p.port

/-- Does the port exist on its die? -/
def PortId.valid (p : PortId) : Bool := p.port < p.die.portCount

/-- The two bundles, or the two HK converters, where a chapter calls them A and B. -/
inductive Bank where
  | a | b
deriving DecidableEq, Repr, Inhabited

def Bank.idx : Bank → Nat
  | .a => 0 | .b => 1

/-- An event as the trouble log receives it (Table 20.2, R613, R614, R619).  `args` holds ARGS
bytes 0–11, byte k in bits 8k+7..8k. -/
structure Event where
  ltime : DWord := 0
  die : Die := .svc
  unit : Nat := 0
  sub : Nat := 0
  code : Nat := 0
  sev : Nat := 0
  fwd : Bool := false
  health : Bool := false
  coalesced : Bool := false
  unsync : Bool := false
  freeze : Bool := false
  rep : Nat := 1
  args : BitVec 96 := 0
deriving DecidableEq, Repr, Inhabited

/-! ### Parcels and link frames (chapters 05, 06) -/

/-- A parcel without its trailer: the header fields of Table 6.1 and the payload bytes (R169). -/
structure Parcel where
  src : Nat
  dst : Nat
  vc : Nat
  cls : Nat
  kind : Nat
  gen : Nat := 0
  tag : Nat := 0
  ep : Nat := 0
  last : Bool := true
  comp : Bool := false
  spec : Bool := false
  plen : Nat := 0
  arg : Nat := 0
  payload : List Byte := []
deriving DecidableEq, Repr, Inhabited

/-- The trailer fields of Table 6.2, CRC apart. -/
structure Trailer where
  seq : Nat
  ack : Nat
  av : Bool
  nak : Bool
  u : Bool
  cvc : Nat
  cnt : Nat
deriving DecidableEq, Repr, Inhabited

/-- A CRC-good parcel as it arrives at a port (R170, R179). -/
structure LinkRx where
  port : PortId
  p : Parcel
  t : Trailer
deriving DecidableEq, Repr, Inhabited

/-- What the receiver of one bundle finds in training (R153, R155): failing DATA and SPARE wires, FRAME,
CLK (count or wire), wires that fail the first VERIFY, whether a second VERIFY or FRAMED fails, whether
STEER_ACK differs three times, and the narrowest eye (Table 5.10). -/
structure BundleObs where
  data : BitVec 64
  spare : BitVec 4
  frame : Bool
  clk : Bool
  verify : BitVec 64
  verifyAgain : Bool
  framed : Bool
  mismatch : Bool
  eye : Nat
  eyeWire : Nat
  vref : Nat
deriving DecidableEq, Repr, Inhabited

/-- The whole of a training or retrain as a port end sees it (R153, R154): presence, the sideband, the
steps' reports answered, and its receive bundles. -/
structure TrainObs where
  present : Bool
  sbUp : Bool
  reportOk : Bool
  rx0 : BundleObs
  rx1 : BundleObs
  /-- States and maps of the transmit bundles as the partner steered them: 0 OFF, 1 FULL, 2 HALF_LO, 3 HALF_HI. -/
  tx0 : Nat
  tx1 : Nat
  txMap0 : Word
  txMap1 : Word
deriving DecidableEq, Repr, Inhabited

/-- The negotiation payload of Table 6.8 as received in a CAP or AGREE. -/
structure Caps where
  spec : Nat
  seen : Bool
  die : Nat
  port : Nat
  bundles : Nat
  txw : Nat
  rxw : Nat
  vcs : BitVec 6
  credit : List Nat
  maxRate : Nat
  comp : BitVec 2
  rcache : BitVec 3
  tags : Nat
  classes : BitVec 6
  replay : Nat
  vendor : Nat
  product : Nat
deriving DecidableEq, Repr, Inhabited

/-! ### Epochs, launches and time (chapter 02) -/

/-- A launch-table entry, Table 2.2 (R47).  `dieByte`, `unit`, `action` and `flags` are kept as the bytes
of the entry, so that the checks of R48 see reserved bits. -/
structure LaunchEntry where
  offset : Word
  dieByte : Nat
  unit : Nat
  action : Nat
  flags : Nat
  slack : Word
  arg : Word
deriving DecidableEq, Repr, Inhabited

/-- A sideband frame as it arrives at a port: the three copies of its 48-bit word (R149, Table 2.5,
Table 5.6).  A token for a unit of SVC itself does not cross a link and comes with three equal copies
on SVC port 0. -/
structure SbFrame where
  port : PortId
  w0 : BitVec 48
  w1 : BitVec 48
  w2 : BitVec 48
deriving DecidableEq, Repr, Inhabited

/-- The announced data set of a master (R452), in the standard's comparison order. -/
structure MasterData where
  priority1 : Nat
  clockClass : Nat
  accuracy : Nat
  variance : Nat
  priority2 : Nat
  identity : DWord
  stepsRemoved : Nat
deriving DecidableEq, Repr, Inhabited

/-! ### Start-up, images and flash (chapter 03) -/

/-- What causes a cold reset (Table 3.2, Table 3.13).  `pin` carries how long RESET_N was low, in ns. -/
inductive ColdCause where
  | por | pin (lowNs : Nat) | cmd | wdtEscalated | thermalStop | vcoreLoss
deriving DecidableEq, Repr, Inhabited

/-- What causes a warm reset (Table 3.2, Table 3.13). -/
inductive WarmCause where
  | cmd | wdt | slotRetry | coreLockup
deriving DecidableEq, Repr, Inhabited

/-- A valid boot descriptor copy (Table 3.5, R87).  Slot states: 0 EMPTY, 1 STAGED, 2 CONFIRMED, 3 FAILED. -/
structure BootDesc where
  gen : Nat
  flash : Word
  slotSizeA : Nat
  slotSizeB : Nat
  preferred : Nat
  stateA : Nat
  stateB : Nat
  attempts : Nat
  confirmS : Nat
  hcpSize : Nat
deriving DecidableEq, Repr, Inhabited

/-- The key store beside a configuration copy as it stands in flash (Table 15.9); `tagOk` says that
TAG checks under the part's KWRAP, and the keys are given unwrapped. -/
structure KeyStore where
  tagOk : Bool
  kgen : Nat
  store : Option (BitVec 256)
  service : Option (BitVec 256)
deriving DecidableEq, Repr, Inhabited

/-- A valid configuration block copy (Table 3.6, R88) with the key store beside it (R467). -/
structure CfgCopy where
  gen : Nat
  entries : List (Word × Word)
  keys : Option KeyStore
deriving DecidableEq, Repr, Inhabited

/-- The compatibility descriptor of a component, Table 3.8 (R92). -/
structure Compat where
  parts : Nat
  flMin : Nat
  stepMin : Nat
  stepMax : Nat
  ownAbi : Nat
  peer1Min : Nat
  peer1Max : Nat
  peer2Min : Nat
  peer2Max : Nat
  rollback : Nat
deriving DecidableEq, Repr, Inhabited

/-- A group descriptor of a placement, Table 10.4 (R297).  `dieByte`, `clusters` and `flags` are the whole
bytes, so that the checks of R298 see the bits that must be 0. -/
structure GroupDesc where
  index : Nat
  dieByte : Nat
  clusters : Nat
  flags : Nat
  bandFirst : Nat
  bandLast : Nat
  inKind : Nat
  inTag : Nat
  inSrc : Nat
  outKind : Nat
  outDst : Nat
  outTag : Nat
  prog : Nat
  inbuf : Nat
  inbufLen : Nat
  steps : Nat
  outBytes : Nat
deriving DecidableEq, Repr, Inhabited

/-- A range of ledger lines copied at a placement change (R306): source line, destination line, count. -/
structure HandRange where
  src : Nat
  dst : Nat
  count : Nat
deriving DecidableEq, Repr, Inhabited

/-- A resident segment that the image places on a die (R221): die number, base, length, CRC-32C. -/
structure SegDef where
  cd : Nat
  base : Nat
  len : Nat
  crc : Word
  /-- A segment of bank F (R305). -/
  bankF : Bool
deriving DecidableEq, Repr, Inhabited

/-- The Harvest block of an image, Table 14.1 (R420); `segA` and `segB` index the die's segment table, and
the FP32 defaults are their bits. -/
structure HarvestBlock where
  dieCode : Nat
  r : Nat
  k : Nat
  base : Nat
  storeCluster : Nat
  storeOff : Nat
  headA : Nat
  headB : Nat
  capture : Nat
  train : Nat
  validate : Nat
  adopt : Nat
  stopOffset : Nat
  lr : Word
  beta1 : Word
  beta2 : Word
  eps : Word
  wd : Word
  steps : Nat
  passes : Nat
  batch : Nat
  capMax : Nat
deriving DecidableEq, Repr, Inhabited

/-- What the SQI metadata declares, as far as the chapters name it (R91, R46, R298, R306, R512, R518,
R305, R341, R420). -/
structure SqiMeta where
  launchA : List LaunchEntry
  launchF : Option (List LaunchEntry)
  groupsA : List GroupDesc
  groupsF : List GroupDesc
  segs : List SegDef
  handover : List HandRange
  chunks : Nat
  minPeriod : Nat
  embId : Word
  peerDie : Nat
  peerBase : Nat
  peerSlots : Nat
  adaptBase : Nat
  minVcoreA : Nat
  minVcoreF : Nat
  /-- The Harvest block, or none when the image carries none (R420). -/
  harvest : Option HarvestBlock
  /-- The ports, by compute-die number and port, across which its placements read (R193). -/
  usesRemote : List (Nat × Nat)
  /-- QMON_CFG of monitoring slots, by compute-die number and slot (R346). -/
  qmon : List (Nat × Nat × Word)
deriving DecidableEq, Repr, Inhabited

/-- What reading a slot in flash shows (Tables 3.7–3.9): the values each check takes.  Digests are given
beside the HASH fields they are compared with; `badChunk` names a weight chunk whose hash mismatches. -/
structure SlotFacts where
  magicOk : Bool
  headerOk : Bool
  keyIndex : Nat
  pubX : BitVec 256
  pubY : BitVec 256
  sigR : BitVec 256
  sigS : BitVec 256
  headerHash : BitVec 256
  fw : Compat
  sqi : Compat
  fwHash : BitVec 256
  fwDigest : BitVec 256
  metaHash : BitVec 256
  metaDigest : BitVec 256
  image : SqiMeta
  recPresent : Bool
  recog : Compat
  recHash : BitVec 256
  recDigest : BitVec 256
  /-- Phrase IDs and default thresholds of the recogniser (Table 17.2). -/
  phrases : List (Nat × Nat)
  badChunk : Option Nat
deriving DecidableEq, Repr, Inhabited

/-- The analog side of an OTP operation (R126–R130): the conditions of R130, after how many bits they
fail, which bits fail all pulses, which weak bits stay weak, which spares do not verify, and the
pulses used. -/
structure OtpAnalog where
  vsysOk : Bool
  tempOk : Bool
  pumpOk : Bool
  stopAfter : Option Nat
  failing : BitVec 64
  stillWeak : BitVec 64
  badSpares : BitVec 16
  pulses : Nat
deriving DecidableEq, Repr, Inhabited

/-- What a completed start-up step brought (Table 3.1), by step. -/
inductive StepInfo where
  /-- Step 1: BOOT_STRAP[1:0]. -/
  | strap (b : Nat)
  /-- Step 2: the analog side of completion and margin check, one for every row touched. -/
  | otp (a : OtpAnalog)
  /-- Steps 3, 9, 10, 11, 15 and 16 bring nothing. -/
  | plain
  /-- Step 4: the regulator acknowledged and reports POWER_GOOD. -/
  | power (good : Bool)
  /-- Step 5: SFDP read. -/
  | sfdp (ok : Bool)
  /-- Step 6: both descriptor copies, none when not valid. -/
  | desc (c0 c1 : Option BootDesc)
  /-- Step 7: both configuration copies, none when not valid. -/
  | cfg (c0 c1 : Option CfgCopy)
  /-- Step 8: what both slots hold. -/
  | slots (a b : SlotFacts)
  /-- Step 12: SITE and MIRRORED_DIE as CD0–CD3 read them, and the outcome of the guard's self-test. -/
  | links (sites : List (Nat × Bool)) (guardOk : Bool)
  /-- Step 13: the recogniser of the running slot was read. -/
  | recog (f : SlotFacts)
  /-- Step 14: weights loaded; the first bad chunk, if any. -/
  | weights (badChunk : Option Nat)
  /-- Step 10: PHYs enabled. -/
  | phys (ok : Bool)
deriving DecidableEq, Repr, Inhabited

/-! ### Compute dies (chapters 10–12) -/

/-- A layer job as a group program issues it (R292, R343, R352): the offsets, in each named cluster's SRAM region, of its
layer parameter block, of the input rows it holds, of its weights and of its output rows, and which map rows those are. -/
structure LayerJob where
  lpb : Nat
  input : Nat
  inRow : Nat
  inRows : Nat
  weights : Nat
  output : Nat
  outRow : Nat
  outRows : Nat
  /-- First accumulator entry used. -/
  acc : Nat
  /-- Offsets of the outlier side buffer and of its FP16 weights (R329), and of row scales computed on the fly (R335). -/
  outlX : Nat
  outlW : Nat
  rsOut : Nat
  /-- Where this layer writes outlier channels of its consumer a second time, and which (R329). -/
  side : Option (Nat × List Nat)
  /-- Every consumer of the output runs on the same die (R341, R342). -/
  consumersLocal : Bool
  /-- Planned steps of the wide variant for the band (R342). -/
  wideSteps : Nat
deriving DecidableEq, Repr, Inhabited

/-- How a group program fails at a band (Table 10.10). -/
inductive ProgFault where
  | none | badInstruction | badAddress | ecc
deriving DecidableEq, Repr, Inhabited

/-! ### Harvest (chapter 14) -/

/-- An exemplar as the CAPTURE program forms it (Table 14.2): feature codes, feature scale, label, track. -/
structure Exemplar where
  x : List Byte
  xs : Byte
  label : Nat
  track : Word
deriving DecidableEq, Repr, Inhabited

/-- What a Harvest program brings when its entry runs: how many optimiser steps start before STOP_OFFSET
(R428), and the exemplars captured (R425). -/
structure HvInput where
  steps : Nat
  captured : List Exemplar
deriving DecidableEq, Repr, Inhabited

/-! ### Network and BCP (chapter 15) -/

/-- What a received BCP request datagram shows beside its payload (Tables 15.4, 15.5).  `headerOk` is
false when MAGIC, LENGTH or the reserved bits are wrong or the datagram is a fragment, `lenOk` when
LENGTH does not match its type's layout.  `phy` is the port it arrived on. -/
structure BcpEnv where
  ip : Word
  port : Nat
  phy : Nat
  headerOk : Bool
  version : Nat
  lenOk : Bool
  auth : Bool
  skey : Bool
  tag : BitVec 128
  seq : Word
  sender : Word
deriving DecidableEq, Repr, Inhabited

/-- An Ethernet frame as the switch sees it (R449, R450).  `inPort` and the egress ports are 0 P0, 1 P1,
2 the internal port I. -/
structure Frame where
  inPort : Nat
  src : BitVec 48
  dst : BitVec 48
  ptp : Bool
  ptpEvent : Bool
  ptpSync : Bool
  udpSrc : Option Nat
  vlanPcp : Option Nat
  len : Nat
  fcsOk : Bool
  /-- Residence time in the switch, ns (R453). -/
  residence : Nat
  /-- Was there room in the shared packet memory? (NET_ERR [15:0]) -/
  room : Bool
deriving DecidableEq, Repr, Inhabited

/-- A DHCP lease (R455). -/
structure Lease where
  ip : Word
  mask : Word
  gw : Word
deriving DecidableEq, Repr, Inhabited

/-! ### Records and peers (chapter 16) -/

/-- What a received peer datagram shows beside its payload: the header of Table 16.7, the sender's
address, and whether its tag checks (R511).  `wellFormed` is false for a malformed datagram (R524). -/
structure PeerMsg where
  mac : BitVec 48
  zone : Nat
  ip : Word
  auth : Bool
  tagOk : Bool
  wellFormed : Bool
deriving DecidableEq, Repr, Inhabited

/-- The ANNOUNCE payload of R512. -/
structure Announce where
  epochPeriod : Word
  epochNow : Word
  timeValid : Bool
  embAccept : Bool
  noSend : Bool
  season : Nat
  ownAbi : Nat
  embId : Word
  zones : List Nat
deriving DecidableEq, Repr, Inhabited

/-! ### Field outputs and buses (chapter 19) -/

/-- The field-output faults of Table 19.9 that latch. -/
inductive FoFault where
  | shortHi | shortLo | contention | pair | thermal
deriving DecidableEq, Repr, Inhabited

/-- How an I²C controller transaction ends (R587, R588): `lost` carries the byte's address and the bit index
of the lost bit, and whether the lost byte was an address equal to the device's own. -/
inductive I2cResult where
  | ok (rx : List Byte)
  | nackAddr
  | nackData
  | lost (bit : Nat) (own : Bool)
deriving DecidableEq, Repr, Inhabited

end Sys2Proof
end

