-- ==== Sys2Proof/Syntax.lean ====
section
/-! DEFINITION. The commands of the block: one constructor per row of spec/opcode_table.json. -/
namespace Sys2Proof

/-- A command of the BX7720 as its opcode table lists it; the operands are what the outside brings. -/
inductive Instr where
  -- Register access (chapters 00, 24)
  | registerWrite (path : Path) (addr v : Word)
  | pairLoRead (path : Path) (addr : Word)
  | pairLoWrite (path : Path) (addr v : Word)
  | pairHiWrite (path : Path) (addr v : Word)
  -- Time, launches and the equinox (chapter 02)
  | ptpSyncReceive (port : Nat) (domain : Nat) (offset : Int) (logInterval : Int)
  | syncTimeout
  | announceReceive (port : Nat) (domain : Nat) (md : MasterData)
  | announceReceiptTimeout
  | peerDelayMeasure (port : Nat) (ns : Word)
  | syncInEdge (highNs : Nat) (err : Int)
  | syncInMissing
  | syncOutPulse
  | acqTimeoutExpire
  | sequencerArm
  | latencyMeasure (die : Die) (primary alternate : List Nat)
  | echo (f : SbFrame)
  | timeUnlockedReport
  | launchSend (entry : Nat)
  | launchDequeue (die : Die) (unit : Nat) (vpixOk : Bool)
  | latenessExceedsSlack (die : Die) (unit : Nat)
  | softEvent (f : SbFrame)
  | mark (f : SbFrame)
  | equinoxDeadline
  | killDrain (f : SbFrame)
  | killForce (f : SbFrame)
  | epochDoneSend (die : Die)
  | epochDone (r : LinkRx)
  | drained (r : LinkRx)
  | drainStuck (die : Die)
  | commitFence
  | equinoxSend
  | equinox (f : SbFrame)
  | equinoxDiscard (f : SbFrame)
  | committed (r : LinkRx)
  | equinoxResend (die : Die)
  | ledgerLocalWrite (die : Die) (line off : Nat) (bytes : List Byte)
  | ledgerWrite (r : LinkRx)
  | handoverClear (r : LinkRx)
  -- Start-up and resets (chapter 03)
  | coldReset (cause : ColdCause) (logHeaderOk : Bool)
  | warmReset (cause : WarmCause)
  | startupSequence (pgIn : Bool)
  | startupStepComplete (info : StepInfo)
  | startupStepTimeout
  | dormantReport
  | watchdogExpiry
  | wdtKick (path : Path) (v : Word)
  | dieHoldSet (path : Path) (die : Die)
  | dieHoldRelease (path : Path) (die : Die) (site : Nat) (mirrored : Bool) (guardOk : Bool)
  | dieReset (path : Path) (cd : Nat) (site : Nat) (mirrored : Bool)
  | sinkEnd (cd : Nat)
  | dieReady (r : LinkRx)
  | firstEpoch
  | slotConfirm
  -- One-time-programmable memory (chapter 04)
  | programRow (path : Path) (cmd : Word) (a : OtpAnalog)
  | reinforceRow (path : Path) (cmd : Word) (a : OtpAnalog)
  | marginRow (path : Path) (cmd : Word)
  | scan (path : Path) (cmd : Word) (a : OtpAnalog)
  | lcAdvance (path : Path) (cmd : Word) (a : OtpAnalog)
  | rollbackRaise (path : Path) (cmd : Word) (a : OtpAnalog)
  | policyLock (path : Path) (cmd : Word) (a : OtpAnalog)
  | kwrapGen (path : Path) (cmd : Word) (a : OtpAnalog)
  | otpLockSet (path : Path) (v : Word)
  | debugDisableEffect
  -- Die links, physical (chapter 05)
  | linkTrain (port : PortId) (o : TrainObs)
  | trainStepTimeout (port : PortId)
  | lmwHello (f : SbFrame)
  | lmwStep (f : SbFrame)
  | lmwFail (f : SbFrame)
  | lmwSteer (f : SbFrame)
  | lmwSteerAck (f : SbFrame)
  | lmwRetrain (f : SbFrame)
  | lmwResend (port : PortId)
  | retrainRequest (path : Path) (port : PortId)
  | sbLost (port : PortId)
  | sbRetry (port : PortId)
  | bundleClkLost (port : PortId) (bundle : Nat)
  | linkSupplyFault (port : PortId)
  -- Die links, protocol (chapter 06)
  | parcelSlot (port : PortId)
  | parcelCrcFail (port : PortId)
  | nul (r : LinkRx) (freed : List Nat)
  | nulDue (port : PortId)
  | replayTimeout (port : PortId)
  | resume (r : LinkRx)
  | resumeTimeout (port : PortId)
  | portIsolate (path : Path) (port : PortId)
  | isolationDetect (port : PortId)
  | cap (port : PortId) (c : Caps)
  | agree (port : PortId) (c : Caps)
  | soak (port : PortId) (crcOk : Bool) (wrong : BitVec 512)
  | soakEnd (port : PortId)
  | init (port : PortId) (soakSeen : Nat)
  | negTimeout (port : PortId)
  | negotiationResend (port : PortId)
  | regReq (r : LinkRx)
  | regResp (r : LinkRx)
  | regAccessTimeout
  -- Memory, remote reads and master control (chapter 07)
  | vc5Write (r : LinkRx)
  | vc5Read (r : LinkRx)
  | vc5ReadResp (r : LinkRx)
  | remoteLoad (cd : Nat) (src : Word) (lines : Nat) (dst : Word) (nc : Bool)
  | readRequest (r : LinkRx)
  | readResponse (r : LinkRx)
  | readTimeout (cd : Nat) (tag : Nat)
  | masterEnWrite (path : Path) (cd : Nat) (v : Word)
  | stuckTimeout (cd : Nat)
  | remoteCacheDisable (path : Path) (cd : Nat)
  | scrubRead (cd : Nat)
  | weightChunkRewrite (cd : Nat) (seg : Nat) (chunks : List (List Byte × Bool))
  | eccUncorrectable (cd : Nat) (cluster : Nat) (addr : Word)
  -- The EYE: exposure and readout (chapter 08)
  | expose (f : SbFrame) (vpixOk : Bool)
  | exposeHdr (f : SbFrame) (vpixOk : Bool)
  | sensorCalDone (aOk bOk : Bool)
  | calTimeout
  | exposureEnd
  | bankPowerUp
  | rowConverted (long short : List Nat)
  | vpixFault
  | seqClockLost
  | seqClockRelock
  -- The EYE: image pipeline (chapter 09)
  | ispStart (f : SbFrame)
  | ispRowProcess (len index : Nat) (frameEnd lineEcc toneEcc : Bool)
  | frameTimeout
  -- Compute dies, bands and halos (chapters 10–12)
  | runGroup (f : SbFrame)
  | stream (r : LinkRx)
  | frameAbort (r : LinkRx)
  | groupBandProcess (cd cluster : Nat) (jobs wide : List LayerJob) (fault : ProgFault) (hv : HvInput)
  | halo (r : LinkRx)
  | commit (f : SbFrame)
  | revoke (f : SbFrame)
  | clusterStall (cd cluster : Nat)
  | speedMonitorSample (cd : Nat) (msteps : List Nat)
  | speedLow (cd cluster : Nat)
  -- Detection, tracking, crops and the egress guard (chapter 13)
  | detect (f : SbFrame)
  | detectStart (cd : Nat)
  | detectStall (cd : Nat)
  | track (f : SbFrame)
  | roiWindow (f : SbFrame)
  | roiWindowClose
  | cropRequest (r : LinkRx)
  | cropProcess
  | roiResult (r : LinkRx)
  | egressBudget (r : LinkRx)
  -- Harvest (chapter 14)
  | hvStart (path : Path) (v : Word)
  | hvCancel (path : Path) (v : Word)
  | hvRevertBaseline (path : Path) (v : Word)
  | harvestCheckpointWrite (flashOk : Bool)
  -- Network, BCP and ownership (chapter 15)
  | hello (m : BcpEnv) (host : DWord) (hnonce : BitVec 128)
  | read (m : BcpEnv) (addr : Word) (count : Nat)
  | write (m : BcpEnv) (addr : Word) (words : List Word)
  | read64 (m : BcpEnv) (addr : Word) (count : Nat)
  | claim (m : BcpEnv) (priority : Nat)
  | heartbeat (m : BcpEnv)
  | release (m : BcpEnv) (successor : DWord)
  | ownerQuery (m : BcpEnv)
  | contestEnd
  | leaseExpire
  | successionEnd
  | sessionTimeout (host : DWord)
  | stageBegin (m : BcpEnv) (slot : Nat) (size : Nat) (sha : BitVec 256)
  | stageData (m : BcpEnv) (offset : Nat) (data : List Byte) (flashOk : Bool)
  | stageEnd (m : BcpEnv)
  | stageCheckDone (hashOk : Bool) (facts : SlotFacts)
  | switch (m : BcpEnv) (slot mode : Nat) (e : Word)
  | switchReady (chunkOk : Bool)
  | switchCancel (m : BcpEnv)
  | configCommit (m : BcpEnv) (mode : Nat) (flashOk : Bool)
  | setKey (m : BcpEnv) (slot op : Nat) (key : BitVec 256) (flashOk : Bool)
  | keystoreBadReport
  | logRead (m : BcpEnv) (start : Word) (count : Nat)
  | logStatus (m : BcpEnv)
  | logClear (m : BcpEnv)
  | logUnfreeze (m : BcpEnv)
  | phyLinkChange (port : Nat) (up fdx : Bool)
  | portHoldEnd (port : Nat)
  | frameForward (f : Frame)
  | dhcpLeaseBound (l : Lease)
  | dhcpTimeout (expired : Bool)
  | dhcpRenew (rebind : Bool) (answer : Option Lease)
  | leaseRetry
  | addrConflict
  | addressTableAgeing (mac : BitVec 48)
  -- Records and peers (chapter 16)
  | flush (f : SbFrame)
  | recordParcel (r : LinkRx)
  | roiEncode
  | datagramTimeout
  | datagramSend
  | statusReport
  | announceSend
  | peerAnnounce (p : PeerMsg) (a : Announce)
  | peerEmbed (p : PeerMsg) (items : List (List Byte))
  | peerBye (p : PeerMsg)
  | peerAgeOut (mac : BitVec 48)
  -- Microphones and acoustic wake (chapter 17)
  | audioFrame (x0 x1 : List Int) (scores : List Nat) (bias0 bias1 : Nat) (recogEcc : Bool)
  | listenerStartDone
  | listenerSelftest (path : Path) (v : Word)
  | selftestDone (level0 level1 : Int)
  | micBiasShort (mic : Nat)
  | micBiasRetry (mic : Nat)
  | micOpen (mic : Nat)
  | micOpenCleared (mic : Nat)
  | micSilent (mic : Nat)
  | modClockLost
  | listenerWatchdog
  -- Housekeeping converters (chapter 18)
  | adcScan (f : SbFrame)
  | hkCalibrate (conv : Bank) (ok : Bool)
  | hkRefresh (conv : Bank) (drifted : Option Nat)
  | hkConversion (conv : Bank) (x : Int)
  | hkUrgent (path : Path) (v : Word)
  | hkQRead (path : Path)
  | hkMmClr (path : Path) (v : Word)
  | xcPair (a b : Int)
  | hkClockLost
  -- Field outputs, tamper sense and local buses (chapter 19)
  | foPulse (f : SbFrame)
  | foSet (f : SbFrame)
  | foClear (f : SbFrame)
  | foPulseEnd (out : Nat)
  | foOutWrite (path : Path) (v : Word)
  | foFaultLatch (kind : FoFault) (out other : Nat)
  | foOpenLoad (out : Nat)
  | foRetry (out : Nat)
  | foRetryRestore (out : Nat)
  | foFaultClear (path : Path) (v : Word)
  | foThermalRelease (out : Nat)
  | foUvlo
  | foUvloRecover
  | tamperSample (e : Nat) (c : Nat) (inRange : Bool)
  | persistentOcclusion (e : Nat)
  | tamperRebaseline (path : Path) (v : Word)
  | tamperFault (e : Nat)
  | shieldFault
  | i2cTargetTransaction (dev : Nat) (addr : Word) (data : List Byte) (readWords : Nat)
  | i2cControllerXfer (path : Path) (v : Word) (busFree : Bool) (r : I2cResult)
  | i2cBusFree (r : I2cResult)
  | i2cArbRetry (r : I2cResult)
  | i2cBusStuck (freed : Bool)
  | pmAlert (status : Nat) (busOk : Bool)
  | vcoreTelemetry (vout iout pout : Option Nat)
  | gpioEdge (pin : Nat) (rising : Bool)
  | flashBusyTimeout
  -- Check units and the trouble log (chapter 20)
  | cvStart (path : Path) (ctx : Nat) (ctrl : Word)
  | cvDataWrite (path : Path) (ctx : Nat) (bytes : Nat) (v : Word)
  | cvStateWrite (path : Path) (ctx : Nat) (v : Word)
  | cvDmaGo (path : Path) (ctx : Nat) (ctrl : Word)
  | cvDmaDone (ctx : Nat) (eccError : Bool)
  | cvFinish (path : Path) (ctx : Nat) (ctrl : Word)
  | checkEngineWatchdog
  | logEvent (e : Event)
  | logWrite
  | logCmdClear (path : Path) (v : Word)
  | logCmdUnfreeze (path : Path) (v : Word)
  | logRdDataRead (path : Path) (w : Nat) (eccError : Bool)
  | logWriterWatchdog
  | event (r : LinkRx)
  -- Power, seasons and heat (chapters 21, 22)
  | thermalSample (temps : List Int)
  | thermalStopExit
  | powerLevelEval
  | seasonCmdWinter (path : Path) (v : Word)
  | seasonCmdLeave (path : Path) (v : Word)
  | springBringup
  | wakeHoldExpire
  | winterWindowClose
  | vcoreFault
  | railFault (vana : Bool)
  | vsysBrownout
  | domainPowerFault (d : Nat)
  | clockLossHalt
deriving DecidableEq, Repr

end Sys2Proof
end

