-- ==== Sys2Proof/Decode.lean ====
section
/-! DEFINITION. The command a word spells.  The table of commands gives no row any bits (every row's fields
are empty), so no word spells a command. -/
namespace Sys2Proof

/-- The command that a word of nbits bits spells by the table's bits: none, for the table gives none. -/
def decodeTableWord (_nbits _w : Nat) : Option Instr := none

end Sys2Proof
end

