-- ==== Sys2Proof/Machine/Bits.lean ====
section
/-! DEFINITION. Bit fields, byte order and the sparse maps that memory and register files are kept in. -/
namespace Sys2Proof.Machine

/-- Bits hi..lo of a number. -/
def bits (v hi lo : Nat) : Nat := v / 2 ^ lo % 2 ^ (hi - lo + 1)

/-- Bits hi..lo of a register word. -/
def wbits (v : Word) (hi lo : Nat) : Nat := bits v.toNat hi lo

/-- One bit of a number. -/
def nbit (v i : Nat) : Bool := v / 2 ^ i % 2 == 1

/-- One bit of a register word. -/
def wbit (v : Word) (i : Nat) : Bool := nbit v.toNat i

/-- A Bool as a bit. -/
def b2n (b : Bool) : Nat := if b then 1 else 0

/-- A number as a register word. -/
def toWord (n : Nat) : Word := BitVec.ofNat 32 n

/-- A signed number in w bits, two's complement. -/
def ofSigned (w : Nat) (x : Int) : Nat := (x % (2 ^ w : Nat)).toNat

/-- The signed value of the low w bits. -/
def toSigned (w x : Nat) : Int :=
  let y := x % 2 ^ w
  if 2 * y < 2 ^ w then (y : Int) else (y : Int) - (2 ^ w : Nat)

/-- Addition that stops at a largest value. -/
def satAdd (top a b : Nat) : Nat := min top (a + b)

/-- A number clamped to a range of integers. -/
def clampInt (lo hi x : Int) : Int := max lo (min hi x)

/-- Rounded quotient, halves up, of an integer by a positive number. -/
def divHalfUp (a : Int) (d : Nat) : Int := (2 * a + d) / (2 * d)

/-- The low n bytes of a number, least significant first. -/
def leBytes : Nat → Nat → List Byte
  | 0, _ => []
  | n + 1, x => BitVec.ofNat 8 x :: leBytes n (x / 256)

/-- Bytes as a number, least significant first. -/
def leNat : List Byte → Nat
  | [] => 0
  | b :: bs => b.toNat + 256 * leNat bs

/-- The low n bytes of a number, most significant first. -/
def beBytes (n x : Nat) : List Byte := (leBytes n x).reverse

/-- Bytes as a number, most significant first. -/
def beNat (bs : List Byte) : Nat := leNat bs.reverse

/-- Bytes o .. o+n-1 of a list as a number, least significant first; bytes beyond its end read 0. -/
def leAt (bs : List Byte) (o n : Nat) : Nat := leNat ((bs.drop o).take n)

/-- A list cut or filled with zero bytes to n bytes. -/
def padTo (n : Nat) (bs : List Byte) : List Byte := bs.take n ++ List.replicate (n - bs.length) 0

/-- The ASCII bytes of a string. -/
def ascii (t : String) : List Byte := t.toList.map fun c => BitVec.ofNat 8 c.toNat

/-- The element at an index of a vector, or its default. -/
def vget [Inhabited α] (v : Vector α n) (i : Nat) : α := v[i]?.getD default

/-- A vector with the element at an index changed; an index beyond its end changes nothing. -/
def vmod [Inhabited α] (v : Vector α n) (i : Nat) (f : α → α) : Vector α n :=
  v.setIfInBounds i (f (vget v i))

/-- The value of a sparse map at a key; an unlisted key reads the default. -/
def mget (d : α) : List (Nat × α) → Nat → α
  | [], _ => d
  | (k, v) :: m, i => if k = i then v else mget d m i

/-- The listed value at a key. -/
def mfind : List (Nat × α) → Nat → Option α
  | [], _ => none
  | (k, v) :: m, i => if k = i then some v else mfind m i

/-- The map without a key. -/
def merase : List (Nat × α) → Nat → List (Nat × α)
  | [], _ => []
  | (k, v) :: m, i => if k = i then m else (k, v) :: merase m i

/-- The map with a key set, its keys rising. -/
def mput : List (Nat × α) → Nat → α → List (Nat × α)
  | [], i, x => [(i, x)]
  | (k, v) :: m, i, x =>
    if i < k then (i, x) :: (k, v) :: m
    else if k = i then (i, x) :: m
    else (k, v) :: mput m i x

/-- The map with a key set in canonical form: writing the default removes the entry. -/
def mset [DecidableEq α] (d : α) (m : List (Nat × α)) (i : Nat) (x : α) : List (Nat × α) :=
  if x = d then merase m i else mput m i x

/-- Keys strictly rising from a bound on, and no entry equal to the default. -/
def mwfFrom [DecidableEq α] (d : α) : Nat → List (Nat × α) → Bool
  | _, [] => true
  | b, (k, v) :: m => decide (b ≤ k) && decide (v ≠ d) && mwfFrom d (k + 1) m

/-- The canonical form of a sparse map. -/
def mwf [DecidableEq α] (d : α) (m : List (Nat × α)) : Bool := mwfFrom d 0 m

/-- The element of a list at an index, or a default. -/
def lget (d : α) : List α → Nat → α
  | [], _ => d
  | x :: _, 0 => x
  | _ :: xs, n + 1 => lget d xs n

/-- n-fold application. -/
def iter (f : α → α) : Nat → α → α
  | 0, x => x
  | n + 1, x => iter f n (f x)

/-- Insertion by a rank, before every element of the same or a higher rank. -/
def insertBy (r : α → Nat) (x : α) : List α → List α
  | [] => [x]
  | y :: ys => if r y < r x then y :: insertBy r x ys else x :: y :: ys

/-- A stable sort by rank. -/
def sortBy (r : α → Nat) : List α → List α
  | [] => []
  | x :: xs => insertBy r x (sortBy r xs)

end Sys2Proof.Machine
end

