-- ==== Sys2Proof/Machine/Crypto.lean ====
section
/-! DEFINITION. The published checks the part computes: the CRCs of Table 20.1, SHA-256, HMAC-SHA-256 and
ECDSA P-256 verification (R10; the constants of the standards are PRESUMED, log entry 7). -/
namespace Sys2Proof.Machine

/-! ### Check algorithms (Table 20.1) -/

/-- One bit of a reflected CRC; `poly` is the reversed polynomial. -/
def crcBitR (poly v : Nat) : Nat := if v % 2 = 1 then (v / 2) ^^^ poly else v / 2

/-- One byte into a reflected CRC. -/
def crcByteR (poly v : Nat) (b : Byte) : Nat := iter (crcBitR poly) 8 (v ^^^ b.toNat)

/-- One bit of a non-reflected CRC of width w. -/
def crcBit (w poly v : Nat) : Nat :=
  if nbit v (w - 1) then ((2 * v) % 2 ^ w) ^^^ poly else (2 * v) % 2 ^ w

/-- One byte into a non-reflected CRC of width w. -/
def crcByte (w poly v : Nat) (b : Byte) : Nat := iter (crcBit w poly) 8 (v ^^^ (b.toNat * 2 ^ (w - 8)))

/-- Width of algorithm ALG. -/
def crcWidth (alg : Nat) : Nat := match alg with | 0 | 1 => 32 | 2 => 16 | _ => 8

/-- Initial value of algorithm ALG. -/
def crcInit (alg : Nat) : Nat := match alg with | 0 | 1 => 0xFFFFFFFF | 2 => 0xFFFF | _ => 0

/-- XOROUT of algorithm ALG. -/
def crcXorOut (alg : Nat) : Nat := match alg with | 0 | 1 => 0xFFFFFFFF | _ => 0

/-- One byte into the running value of algorithm ALG (R607); reflected algorithms hold it reflected. -/
def crcFeed (alg v : Nat) (b : Byte) : Nat :=
  match alg with
  | 0 => crcByteR 0xEDB88320 v b
  | 1 => crcByteR 0x82F63B78 v b
  | 2 => crcByte 16 0x1021 v b
  | _ => crcByte 8 0x07 v b

/-- The result of algorithm ALG over bytes. -/
def crcOf (alg : Nat) (bs : List Byte) : Nat := bs.foldl (crcFeed alg) (crcInit alg) ^^^ crcXorOut alg

/-- CRC-32C (R170). [PRESUMED: log 7] -/
def crc32c (bs : List Byte) : Nat := crcOf 1 bs

/-- CRC-8, the CHK of R50 and the PEC of R590. [PRESUMED: log 7] -/
def crc8 (bs : List Byte) : Nat := crcOf 3 bs

/-! ### SHA-256 (FIPS 180-4) -/

/-- Round constants 0–15. -/
def sha256K0 : List Nat := [
  0x428A2F98, 0x71374491, 0xB5C0FBCF, 0xE9B5DBA5, 0x3956C25B, 0x59F111F1, 0x923F82A4, 0xAB1C5ED5,
  0xD807AA98, 0x12835B01, 0x243185BE, 0x550C7DC3, 0x72BE5D74, 0x80DEB1FE, 0x9BDC06A7, 0xC19BF174 ]

/-- Round constants 16–31. -/
def sha256K1 : List Nat := [
  0xE49B69C1, 0xEFBE4786, 0x0FC19DC6, 0x240CA1CC, 0x2DE92C6F, 0x4A7484AA, 0x5CB0A9DC, 0x76F988DA,
  0x983E5152, 0xA831C66D, 0xB00327C8, 0xBF597FC7, 0xC6E00BF3, 0xD5A79147, 0x06CA6351, 0x14292967 ]

/-- Round constants 32–47. -/
def sha256K2 : List Nat := [
  0x27B70A85, 0x2E1B2138, 0x4D2C6DFC, 0x53380D13, 0x650A7354, 0x766A0ABB, 0x81C2C92E, 0x92722C85,
  0xA2BFE8A1, 0xA81A664B, 0xC24B8B70, 0xC76C51A3, 0xD192E819, 0xD6990624, 0xF40E3585, 0x106AA070 ]

/-- Round constants 48–63. -/
def sha256K3 : List Nat := [
  0x19A4C116, 0x1E376C08, 0x2748774C, 0x34B0BCB5, 0x391C0CB3, 0x4ED8AA4A, 0x5B9CCA4F, 0x682E6FF3,
  0x748F82EE, 0x78A5636F, 0x84C87814, 0x8CC70208, 0x90BEFFFA, 0xA4506CEB, 0xBEF9A3F7, 0xC67178F2 ]

/-- The round constants. [PRESUMED: log 7] -/
def sha256K : List Nat := sha256K0 ++ sha256K1 ++ sha256K2 ++ sha256K3

/-- The initial hash value. [PRESUMED: log 7] -/
def sha256H : List Nat := [0x6A09E667, 0xBB67AE85, 0x3C6EF372, 0xA54FF53A,
  0x510E527F, 0x9B05688C, 0x1F83D9AB, 0x5BE0CD19]

/-- Rotation of a 32-bit word right. -/
def rotr (x n : Nat) : Nat := x / 2 ^ n + (x % 2 ^ n) * 2 ^ (32 - n)

/-- The message schedule, newest word first, from the 16 words of a block. -/
def sha256Extend : Nat → List Nat → List Nat
  | 0, w => w
  | n + 1, w =>
    let g := fun k => lget 0 w (k - 1)
    let s1 := rotr (g 2) 17 ^^^ rotr (g 2) 19 ^^^ (g 2 / 2 ^ 10)
    let s0 := rotr (g 15) 7 ^^^ rotr (g 15) 18 ^^^ (g 15 / 2 ^ 3)
    sha256Extend n ((s1 + g 7 + s0 + g 16) % 2 ^ 32 :: w)

/-- One round on the eight working variables. -/
def sha256Round (v : List Nat) (kw : Nat × Nat) : List Nat :=
  match v with
  | [a, b, c, d, e, f, g, h] =>
    let s1 := rotr e 6 ^^^ rotr e 11 ^^^ rotr e 25
    let ch := (e &&& f) ^^^ ((2 ^ 32 - 1 - e) &&& g)
    let t1 := h + s1 + ch + kw.1 + kw.2
    let s0 := rotr a 2 ^^^ rotr a 13 ^^^ rotr a 22
    let maj := (a &&& b) ^^^ (a &&& c) ^^^ (b &&& c)
    [(t1 + s0 + maj) % 2 ^ 32, a, b, c, (d + t1) % 2 ^ 32, e, f, g]
  | v => v

/-- A block of 64 bytes into the hash value. -/
def sha256Block (h : List Nat) (block : List Byte) : List Nat :=
  let w16 := (List.range 16).map fun i => beNat ((block.drop (4 * i)).take 4)
  let w := (sha256Extend 48 w16.reverse).reverse
  let v := (sha256K.zip w).foldl sha256Round h
  (h.zip v).map fun p => (p.1 + p.2) % 2 ^ 32

/-- The blocks of a padded message. -/
def sha256Blocks : Nat → List Nat → List Byte → List Nat
  | 0, h, _ => h
  | n + 1, h, bs => sha256Blocks n (sha256Block h (bs.take 64)) (bs.drop 64)

/-- SHA-256 of a message, 32 bytes in output order. -/
def sha256 (m : List Byte) : List Byte :=
  let n := m.length
  let padded := m ++ [0x80] ++ List.replicate ((119 - n % 64) % 64) 0 ++ beBytes 8 (8 * n)
  ((sha256Blocks (padded.length / 64) sha256H padded).map (beBytes 4)).flatten

/-- HMAC-SHA-256 (RFC 2104). -/
def hmac (key m : List Byte) : List Byte :=
  let k := padTo 64 (if key.length > 64 then sha256 key else key)
  let opad := k.map (· ^^^ 0x5C)
  let ipad := k.map (· ^^^ 0x36)
  sha256 (opad ++ sha256 (ipad ++ m))

/-- An HMAC tag truncated to 128 bits, as a number of 16 bytes in output order. [PRESUMED: log 7] -/
def hmac128 (key m : List Byte) : BitVec 128 := BitVec.ofNat 128 (beNat ((hmac key m).take 16))

/-- A 256-bit key as its bytes. -/
def keyBytes (k : BitVec 256) : List Byte := beBytes 32 k.toNat

/-! ### ECDSA on P-256 (FIPS 186-4) -/

/-- The field prime. [PRESUMED: log 7] -/
def p256p : Nat := 2 ^ 256 - 2 ^ 224 + 2 ^ 192 + 2 ^ 96 - 1

/-- The group order. [PRESUMED: log 7] -/
def p256n : Nat := 0xFFFFFFFF00000000FFFFFFFFFFFFFFFFBCE6FAADA7179E84F3B9CAC2FC632551

/-- The curve coefficient b; a is -3. [PRESUMED: log 7] -/
def p256b : Nat := 0x5AC635D8AA3A93E7B3EBBD55769886BC651D06B0CC53B0F63BCE3C3E27D2604B

/-- The base point. [PRESUMED: log 7] -/
def p256G : Nat × Nat × Nat :=
  (0x6B17D1F2E12C4247F8BCE6E563A440F277037D812DEB33A0F4A13945D898C296,
   0x4FE342E2FE1A7F9B8EE7EB4A7C0F9E162BCE33576B315ECECBB6406837BF51F5, 1)

/-- Modular power, by n bits of the exponent. -/
def powMod (m : Nat) : Nat → Nat → Nat → Nat
  | 0, _, _ => 1
  | n + 1, b, e =>
    let r := powMod m n (b * b % m) (e / 2)
    if e % 2 = 1 then r * b % m else r

/-- Modular inverse for a prime modulus. -/
def invMod (m x : Nat) : Nat := powMod m 256 (x % m) (m - 2)

/-- A difference in the field. -/
def fsub (a b : Nat) : Nat := (a + p256p - b % p256p) % p256p

/-- Doubling of a point in Jacobian coordinates; Z = 0 is the point at infinity. -/
def ecDouble (P : Nat × Nat × Nat) : Nat × Nat × Nat :=
  let (x, y, z) := P
  if z = 0 then P else
  let d := z * z % p256p
  let g := y * y % p256p
  let b := x * g % p256p
  let al := 3 * (fsub x d * ((x + d) % p256p)) % p256p
  let x3 := fsub (al * al) (8 * b)
  let z3 := 2 * y * z % p256p
  (x3, fsub (al * fsub (4 * b) x3) (8 * (g * g % p256p)), z3)

/-- Addition of points in Jacobian coordinates. -/
def ecAdd (P Q : Nat × Nat × Nat) : Nat × Nat × Nat :=
  let (x1, y1, z1) := P
  let (x2, y2, z2) := Q
  if z1 = 0 then Q else if z2 = 0 then P else
  let z11 := z1 * z1 % p256p
  let z22 := z2 * z2 % p256p
  let u1 := x1 * z22 % p256p
  let u2 := x2 * z11 % p256p
  let s1 := y1 * (z2 * z22 % p256p) % p256p
  let s2 := y2 * (z1 * z11 % p256p) % p256p
  if u1 = u2 then (if s1 = s2 then ecDouble P else (1, 1, 0)) else
  let h := fsub u2 u1
  let r := fsub s2 s1
  let h2 := h * h % p256p
  let h3 := h * h2 % p256p
  let v := u1 * h2 % p256p
  let x3 := fsub (r * r) (h3 + 2 * v)
  (x3, fsub (r * fsub v x3) (s1 * h3), h * z1 * z2 % p256p)

/-- A multiple of a point, by n bits of the multiplier. -/
def ecMul : Nat → Nat → Nat × Nat × Nat → Nat × Nat × Nat
  | 0, _, _ => (1, 1, 0)
  | n + 1, k, P =>
    let r := ecMul n (k / 2) (ecDouble P)
    if k % 2 = 1 then ecAdd r P else r

/-- ECDSA P-256 verification of a digest under a public key (R10, R94). -/
def ecdsaVerify (px py r s digest : Nat) : Bool :=
  let onCurve := px < p256p && py < p256p &&
    py * py % p256p == (fsub (px * px % p256p * px) (3 * px) + p256b) % p256p
  let ranges := 0 < r && r < p256n && 0 < s && s < p256n
  let w := invMod p256n s
  let (x, _, z) := ecAdd (ecMul 256 (digest * w % p256n) p256G) (ecMul 256 (r * w % p256n) (px, py, 1))
  onCurve && ranges && z != 0 && x * invMod p256p (z * z % p256p) % p256p % p256n == r

end Sys2Proof.Machine
end

