-- ==== Sys2Proof/Machine/Codes.lean ====
section
/-! DEFINITION. The trouble-log codes (Table 20.4, R616), numbered within each group in the order listed:
codes that raise HEALTH from 0x001, log-only codes from 0x100.  Group 0xC is numbered in the order of Table 21.14. -/
namespace Sys2Proof.Machine.Code

def bootReport : Nat := 0x0001
def bootFallback : Nat := 0x0002
def dormant : Nat := 0x0003
def configDefaulted : Nat := 0x0004
def configAdjusted : Nat := 0x0005
def recogniserDisabled : Nat := 0x0006
def noCompute : Nat := 0x0007
def status : Nat := 0x0008
def cfgEntryBad : Nat := 0x0100
def strapIgnored : Nat := 0x0101
def siteBad : Nat := 0x0102
/-- [DESIGN CHOICE: log 48] -/
def siteMismatch : Nat := 0x0103
def wdtKickBad : Nat := 0x0104
def regRefused : Nat := 0x0105
def timeHoldover : Nat := 0x1001
def syncLost : Nat := 0x1002
def timeStep : Nat := 0x1003
def epochPeriod : Nat := 0x1004
def epochSummary : Nat := 0x1005
def timeUnlocked : Nat := 0x1006
/-- [DESIGN CHOICE: log 48] -/
def tokenBad : Nat := 0x1100
def launchStale : Nat := 0x1101
def launchOverrun : Nat := 0x1102
def drainStuck : Nat := 0x1103
def peerStageFull : Nat := 0x1104
def mark : Nat := 0x1105
def linkStart : Nat := 0x2001
def linkChange : Nat := 0x2002
def negLimit : Nat := 0x2003
def laneDrift : Nat := 0x2100
def lanemapDup : Nat := 0x2101
def sbLost : Nat := 0x2102
def voteFail : Nat := 0x2103
def sbDead : Nat := 0x2104
def linkSupply : Nat := 0x2105
def classDrop : Nat := 0x2106
def lecWarn : Nat := 0x2107
def linkIsolated : Nat := 0x2108
/-- [DEDUCED: log 63] -/
def noRoute : Nat := 0x2109
def creditErr : Nat := 0x210A
/-- [DESIGN CHOICE: log 48] -/
def negFail : Nat := 0x210B
def soakFail : Nat := 0x210C
def linkDead : Nat := 0x210D
def weightScrub : Nat := 0x3001
def speedLow : Nat := 0x3002
def placementChange : Nat := 0x3003
def memUncorr : Nat := 0x3100
def remoteErr : Nat := 0x3101
def remoteLost : Nat := 0x3102
def stuckReq : Nat := 0x3103
def remoteHeldWrite : Nat := 0x3104
def residentWrite : Nat := 0x3105
def weightScrubFail : Nat := 0x3106
def tagUnknown : Nat := 0x3107
def streamUnknown : Nat := 0x3108
def clusterStall : Nat := 0x3109
def progErr : Nat := 0x310A
def scaleRange : Nat := 0x310B
def sqnrLow : Nat := 0x310C
def codebookBad : Nat := 0x310D
def adaptBad : Nat := 0x310E
def opBad : Nat := 0x310F
def compBad : Nat := 0x3110
def haloShort : Nat := 0x3111
def headBad : Nat := 0x3112
def frameMissing : Nat := 0x4001
def egressBlock : Nat := 0x4002
def egressFault : Nat := 0x4003
def exposeClamped : Nat := 0x4100
def defectBad : Nat := 0x4101
def defectOverflow : Nat := 0x4102
def pixelSupply : Nat := 0x4103
def blRangeFault : Nat := 0x4104
def ispNoFrame : Nat := 0x4105
def toneEcc : Nat := 0x4106
def roiRefused : Nat := 0x4107
def phyFail : Nat := 0x5001
def linkDown : Nat := 0x5002
def addrLinkLocal : Nat := 0x5003
def keystoreBad : Nat := 0x5004
def switched : Nat := 0x5005
def switchCancelled : Nat := 0x5006
def recNoKey : Nat := 0x5007
def ownerChange : Nat := 0x5100
def stageAbandoned : Nat := 0x5101
def portFlap : Nat := 0x5102
def authFlood : Nat := 0x5103
def addrConflict : Nat := 0x5104
def recBad : Nat := 0x5105
def roiTooBig : Nat := 0x5106
def roiShort : Nat := 0x5107
def peerAddrChange : Nat := 0x5108
def peerSelf : Nat := 0x5109
def harvestUnsupported : Nat := 0x6001
def harvestFlash : Nat := 0x6002
def harvestNan : Nat := 0x6100
def ckptBad : Nat := 0x6101
def headCrcBad : Nat := 0x6102
def hvCmdBad : Nat := 0x6103
/-- [DESIGN CHOICE: log 98] -/
def micFault : Nat := 0x7001
def adcLimit : Nat := 0x7002
def adcPlausibility : Nat := 0x7003
def adcFault : Nat := 0x7004
def adcSlice : Nat := 0x7005
def adcReference : Nat := 0x7006
def adcNotPaced : Nat := 0x7100
def urgentBusy : Nat := 0x7101
def adcQOverflow : Nat := 0x7102
def foShortHi : Nat := 0x8001
def foShortLo : Nat := 0x8002
def foContention : Nat := 0x8003
def foPair : Nat := 0x8004
def foThermal : Nat := 0x8005
def foOpen : Nat := 0x8006
def foExhausted : Nat := 0x8007
def tamperNoFactory : Nat := 0x8008
def tamperFault : Nat := 0x8009
def vfldLow : Nat := 0x800A
def i2cStuck : Nat := 0x9001
def i2cArbLost : Nat := 0x9100
def pmbusFault : Nat := 0x9101
def otpHealth : Nat := 0xA001
def trimBad : Nat := 0xA002
def lanemapBad : Nat := 0xA003
def otpWeak : Nat := 0xA100
def otpRedirect : Nat := 0xA101
def otpSparesExhausted : Nat := 0xA102
def lcGap : Nat := 0xA103
def policyDisagree : Nat := 0xA104
def otpDefer : Nat := 0xA105
def logFrozen : Nat := 0xB001
/-- [DESIGN CHOICE: log 35] -/
def logReset : Nat := 0xB100
def logLost : Nat := 0xB101
def logCleared : Nat := 0xB102
def logUnfrozen : Nat := 0xB103
def logCorrupt : Nat := 0xB104
def checkMismatch : Nat := 0xB105
def cvPath : Nat := 0xB106
def seasonChange : Nat := 0xC001
def thermalStopped : Nat := 0xC002
def powerLimit : Nat := 0xC003
def vcoreFault : Nat := 0xC004
def sensorFault : Nat := 0xC005
def railFault : Nat := 0xC006
def floorAboveCap : Nat := 0xC007
def vcoreStep : Nat := 0xC100
def slackAtCap : Nat := 0xC101
def winterDeferred : Nat := 0xC102
def thermalLevel : Nat := 0xC103
def domainFault : Nat := 0xC104

end Sys2Proof.Machine.Code
end

