-- ==== Sys2Proof/Config.lean ====
section
/-! DEFINITION. What an implementation fixes and the spec leaves open: constants without a body.
No proof can see their values, so a claim holds whatever they are. -/
namespace Sys2Proof.Config

/-- The free value of index i, taken wherever the spec states no value (the model's `State.freeIdx` numbers
them). [DESIGN CHOICE: log 5] -/
opaque freeNat : Nat → Nat

/-- Where a group program keeps byte n of band b of its input, as an offset in its input buffer (R299: "at
the position the group program defines"); arguments: PROG, band, byte number, buffer length. [DESIGN CHOICE: log 66, 76] -/
opaque inputPos : Nat → Nat → Nat → Nat → Nat

/-- What a group program defines of its compressed input (R376, R378): whether its codes are S8, and its zero code; argument:
PROG. [DESIGN CHOICE: log 76] -/
opaque inputSigned : Nat → Bool
/-- [DESIGN CHOICE: log 76] -/
opaque inputZero : Nat → Nat

/-- e^x on FP32 bits; the spec states no rounding for it (R390, R428). [DESIGN CHOICE: log 72] -/
opaque expF32 : Word → Word

/-- log2 of an FP32 value, on FP32 bits (R430). [DESIGN CHOICE: log 72] -/
opaque log2F32 : Word → Word

/-- Results of the Harvest programs' passes, whose windows, rounding points and scales the spec leaves to the programs (R428,
R432, R434): a logit from BF16 weights, bias, features and scale; one class of a softmax; a gradient from E5M2 codes, their row
scale and a column of features; an FP32 mean; beta^t; byte i of a head quantised from R × (K+1) BF16 weights; a logit of a
quantised head for a class; and a bias of a quantised head as BF16. [DESIGN CHOICE: log 82] -/
opaque headLogit : List Nat → Nat → List Byte → Byte → Nat
/-- [DESIGN CHOICE: log 82] -/
opaque softmax : List Nat → Nat → Nat
/-- [DESIGN CHOICE: log 82] -/
opaque gradSum : List Nat → Nat → List Byte → Nat
/-- [DESIGN CHOICE: log 82] -/
opaque meanF32 : List Nat → Nat
/-- [DESIGN CHOICE: log 82] -/
opaque powF32 : Nat → Nat → Nat
/-- [DESIGN CHOICE: log 82] -/
opaque quantHead : Nat → Nat → List Nat → Nat → Byte
/-- [DESIGN CHOICE: log 82] -/
opaque quantLogit : List Byte → Nat → List Byte → Byte → Int
/-- [DESIGN CHOICE: log 82] -/
opaque headBias : List Byte → Nat → Nat

/-- Byte i of the head segment that the running image of a TAG carries in flash (R434). [DESIGN CHOICE: log 82] -/
opaque imageHead : Nat → Nat → Byte

/-- What the detect unit and the tracker library leave open: the value of a NaN code in a head tensor, as FP32 (R389); the FP32
cosine of two embeddings of codes and scale (R398); byte i of a blended embedding, 96 codes and its scale, from EMB_ALPHA and the
old and new ones (R398); and a velocity over no epochs (R398). [DEDUCED, DESIGN CHOICE: log 77, 72] -/
opaque nanTerm : Nat → Nat
/-- [DEDUCED: log 79] -/
opaque cosine : List Byte → List Byte → Nat
/-- [DEDUCED: log 79] -/
opaque blend : Nat → List Byte → List Byte → Nat → Byte
/-- [DESIGN CHOICE: log 78] -/
opaque velocity : Int → Int

/-- A corrected junction temperature that lies between two steps of 1/4 °C, from 1024 times its value in 1/4 °C: R639 does not
say how it is rounded. [DESIGN CHOICE: log 109] -/
opaque tjRound : Int → Int

/-- The quantised DCT coefficients of an 8 × 8 block of samples, 64 samples and 64 quantisers in, 64 out in row
order; ISO/IEC 10918-1 fixes their accuracy, not their bits (R508). [PRESUMED: log 93] -/
opaque fdctQuant : List Int → List Nat → List Int

/-- A 4:2:0 chrominance sample from the four of its square; R508 does not state how it is formed. [PRESUMED: log 93] -/
opaque chroma : List Nat → Nat

/-- Minus the exponent of the attached regulator's VOUT_MODE, read at step 4: 8 to 16 (R591). [DESIGN CHOICE: log 109] -/
opaque voutShift : Nat

/-- Rate correction of the PTP servo from the offset in ns, in 2^-32 ns per tick (R43: the spec gives the
servo no gains). [DESIGN CHOICE: log 16] -/
opaque servoRate : Int → Int → Int

end Sys2Proof.Config
end

