-- ==== Sys2Proof/Machine/Units.lean ====
section
/-! DEFINITION. The units of the part as plain data: what State is made of. -/
namespace Sys2Proof.Machine

/-! ### Check contexts and the trouble log (chapter 20) -/

/-- What a check context holds beside its registers CV_EXPECT, CV_SRC and CV_LEN (R607–R611). -/
structure CvCtx where
  /-- CV_CTRL.ALG as taken at START (R608). -/
  alg : Nat := 0
  bound : Option Path := none
  value : Word := 0
  bytes : Word := 0
  busy : Bool := false
  done : Bool := false
  mismatch : Bool := false
  pathErr : Bool := false
  dmaErr : Bool := false
  mismatches : Nat := 0
  /-- Source and length of the run under way, taken at DMA_GO, and its DMA_FINISH. -/
  runSrc : Nat := 0
  runLen : Nat := 0
deriving DecidableEq, Repr, Inhabited

/-- A record of the ring: the event with its INDEX (Table 20.2, R613). -/
structure LogRecord where
  index : Word
  ev : Event
deriving DecidableEq, Repr, Inhabited

/-- The open gap of a full queue (R619). -/
structure Gap where
  count : Nat
  first : DWord
  last : DWord
deriving DecidableEq, Repr, Inhabited

/-- The trouble log (R613–R630).  `ring` is newest first and holds at most 4096 records. -/
structure LogSt where
  total : Word := 0
  base : Word := 0
  ring : List LogRecord := []
  intake : List Event := []
  fatal : List Event := []
  /-- LOG_RESET, LOG_CLEARED and LOG_UNFROZEN, written ahead of every queued entry (R621, R625, R630). -/
  special : List Event := []
  gap : Option Gap := none
  frozen : Bool := false
  /-- After the freezing record: how many further records are still to be written (R621). -/
  post : Option Nat := none
  freezeIdx : Word := 0
  frozenDrop : Nat := 0
  dropped : Nat := 0
  filtered : Nat := 0
  hdrCleared : Bool := false
deriving DecidableEq, Repr, Inhabited

/-- A die's event outbox of 8 entries with its gap (R617). -/
structure Outbox where
  entries : List Event := []
  gap : Option Gap := none
deriving DecidableEq, Repr, Inhabited

/-! ### Record builder and peers (chapter 16) -/

/-- The bodies of Table 16.4 (R496).  TRACK, ZONE and PRODUCT bodies are kept as the bytes the
compute die sent (R499, R500); the others as their fields. -/
inductive RecBody where
  | track (body : List Byte)
  | zone (body : List Byte)
  | product (body : List Byte)
  | roi (crop seg segs q : Nat) (track : Word) (x y w h jpegLen : Nat) (data : List Byte)
  | audioWake (phrase mic : Nat) (level : Int) (season : Nat)
  | tamper (event electrode : Nat) (delta : Int) (baseline duration : Nat)
  | health (code sev die unit : Nat) (args : BitVec 96)
  | retract (track epoch : Word) (seq : Nat) (seqValid bySvc : Bool)
  | overflow (drops : List Nat) (bytes : Nat) (budget queue arrival link : Bool)
  | harvest (event outcome slot season : Nat) (session step : Word) (cand ref headSel : Nat)
      (train valid windowEnd : Word)
deriving DecidableEq, Repr

/-- A record in the builder (Tables 16.2, 16.3). -/
structure Record where
  body : RecBody
  tentative : Bool := false
  partialEp : Bool := false
  degraded : Bool := false
  unsync : Bool := false
  epoch : Word
  ltime : DWord
deriving DecidableEq, Repr

/-- Drops counted for one epoch since its last OVERFLOW (R507). -/
structure DropCount where
  epoch : Word
  byType : List Nat
  bytes : Nat
  budget : Bool
  queue : Bool
  arrival : Bool
  link : Bool
deriving DecidableEq, Repr

/-- A TENTATIVE TRACK record sent (R501). -/
structure TentEntry where
  track : Word
  epoch : Word
  seq : Nat
deriving DecidableEq, Repr

/-- A redacted crop as it arrives at SVC (R406, R508). -/
structure CropIn where
  crop : Nat
  track : Word
  x : Nat
  y : Nat
  w : Nat
  h : Nat
  /-- Interleaved R, G, B in row order, received so far, and the parcels they came in. -/
  bytes : List Byte
  parcels : Nat
  complete : Bool
  epoch : Word
  ltime : DWord
deriving DecidableEq, Repr

/-- The record builder (R488–R510). -/
structure RecSt where
  /-- Queued records in order (R504). -/
  queue : List Record := []
  /-- The last epoch whose held records were released (R504). -/
  released : Option Word := none
  /-- Records of the open datagram, in order; `closed` once a closing case of R489 holds. -/
  dgram : List Record := []
  closed : Bool := false
  /-- Image-built bodies and EMBED items being assembled, by 256 × TAG + source (R498, R500). -/
  part : List (Nat × List Byte) := []
  tent : List TentEntry := []
  drops : List DropCount := []
  seq : Nat := 0
  used : Nat := 0
  /-- Class 1–3 bytes of the epoch before, for its records still being built. -/
  usedPrev : Nat := 0
  arrived : Nat := 0
  budgetHit : Bool := false
  arrivalHit : Bool := false
  linkDrop : Bool := false
  sent : DWord := 0
  dropped : Word := 0
  /-- Records dropped since the last STATUS (R497). -/
  droppedSec : Nat := 0
  dgrams : Word := 0
  noKeyRaised : Bool := false
  crops : List CropIn := []
  /-- EMBED items of the epoch waiting for release, R516. -/
  embeds : List (List Byte) := []
  embedsSent : Nat := 0
deriving DecidableEq, Repr

/-- A peer-table entry (R513, PEER_TAB of Table 16.9). -/
structure PeerEntry where
  mac : BitVec 48
  zone : Nat
  ip : Word
  heard : Nat
  embId : Word
  embAccept : Bool
deriving DecidableEq, Repr

/-- SVC's shadow index of one peer-area entry (R518): which item it holds, when it was received and
its place in the order of receipt. -/
structure PeerSlot where
  mac : BitVec 48
  track : Word
  received : Nat
  order : Nat
deriving DecidableEq, Repr

/-- A staged EMBED item with its time and order of receipt (R62, R517). -/
structure Staged where
  bytes : List Byte
  received : Nat
  order : Nat
deriving DecidableEq, Repr

/-- Peer exchange (R511–R518). -/
structure PeerSt where
  table : List PeerEntry := []
  slots : List (Nat × PeerSlot) := []
  staged : List Staged := []
  order : Nat := 0
  stageFull : Nat := 0
  stagedEpoch : Nat := 0
  /-- Items of a lower order merge at this equinox (R36). -/
  upTo : Nat := 0
  /-- The shadow index as last committed, and entries still to be cleared in guard intervals (R518, R523). -/
  slotsOld : List (Nat × PeerSlot) := []
  clearing : List Nat := []
  drop : Nat := 0
  rx : Word := 0
  tx : Nat := 0
  txOver : Nat := 0
  /-- The content of the last ANNOUNCE, EPOCH_NOW apart, and how many start-up ANNOUNCEs are due (R512, R525). -/
  lastAnnounce : Option Announce := none
  startDue : Nat := 3
  selfSeen : Option Nat := none
deriving DecidableEq, Repr

/-! ### Network, BCP and ownership (chapter 15) -/

/-- How the address in use was come by (NET_STATUS.ADDR). -/
inductive AddrKind where
  | none | dhcp | linkLocal | static
deriving DecidableEq, Repr, Inhabited

/-- A switch address-table entry (R449). -/
structure AddrEntry where
  mac : BitVec 48
  port : Nat
deriving DecidableEq, Repr

/-- The two PHYs, the switch, PTP ports and addressing (R449–R455). -/
structure NetSt where
  linkP0 : Bool := false
  fdxP0 : Bool := false
  linkP1 : Bool := false
  fdxP1 : Bool := false
  /-- Instants of the link changes of each port in the last 60 s, and whether it is held down (R485). -/
  chg0 : List Nat := []
  chg1 : List Nat := []
  held0 : Bool := false
  held1 : Bool := false
  everLinked : Bool := false
  /-- PHYs and switch are on: from step 10 on, kept through a warm reset (R451). -/
  on : Bool := false
  table : List AddrEntry := []
  rx0 : Word := 0
  rx1 : Word := 0
  rx2 : Word := 0
  overflowDrops : Nat := 0
  refusedFrames : Nat := 0
  linkChg0 : Nat := 0
  linkChg1 : Nat := 0
  addr : AddrKind := .none
  ip : Word := 0
  mask : Word := 0
  gw : Word := 0
  master0 : Option MasterData := none
  master1 : Option MasterData := none
  syncLog0 : Int := 0
  slave : Option Nat := none
  pdelay0 : Word := 0
  pdelay1 : Word := 0
deriving DecidableEq, Repr

/-- A BCP session (R459, R460).  `kept` holds the responses to the 8 highest SEQ values. -/
structure Session where
  host : DWord
  nonce : BitVec 128
  level : Nat
  ip : Word
  port : Nat
  highest : Word
  kept : List (Word × List Byte)
  lastHeard : Nat
  second : Nat
  inSecond : Nat
deriving DecidableEq, Repr

/-- A claim held in CONTEST or SUCCESSION (R468). -/
structure HeldClaim where
  host : DWord
  level : Nat
  priority : Nat
  m : BcpEnv
deriving DecidableEq, Repr

/-- The owner, by host ID and the level and priority of its claim (R468). -/
structure Owner where
  host : DWord
  level : Nat
  priority : Nat
deriving DecidableEq, Repr

/-- The election of Table 15.10. -/
inductive Election where
  | openSt | contest | owned | succession
deriving DecidableEq, Repr, Inhabited

/-- A BCP request waiting for a die register access (R464, R690): the words done so far and what is left. -/
structure BcpAccess where
  m : BcpEnv
  host : DWord
  typ : Nat
  start : Word
  count : Nat
  got : List Word
  left : List Word
  /-- The tag of the die access it waits for. -/
  tag : Nat
deriving DecidableEq, Repr

/-- Sessions, ownership, keys, runtime entries, staging and switch-over (R456–R487). -/
structure BcpSt where
  sessions : List Session := []
  election : Election := .openSt
  owner : Option Owner := none
  /-- The owner that released, during SUCCESSION. -/
  prev : Option Owner := none
  leaseEnd : Nat := 0
  successor : DWord := 0
  held : List HeldClaim := []
  msgs : Word := 0
  authFail : Word := 0
  rateDrops : Nat := 0
  malformed : Nat := 0
  changes : Word := 0
  second : Nat := 0
  inSecond : Nat := 0
  lastFlood : Option Nat := none
  storeKey : Option (BitVec 256) := none
  serviceKey : Option (BitVec 256) := none
  kgen : Nat := 0
  keystoreBad : Bool := false
  /-- Runtime entries in the order of their first write (R472). -/
  runtime : List (Word × Word) := []
  configFull : Bool := false
  access : Option BcpAccess := none
deriving DecidableEq, Repr

/-- Image staging (R473, R474).  `units` are the 1024-byte units received. -/
structure StageSt where
  status : Nat := 0
  slot : Nat := 0
  size : Nat := 0
  sha : BitVec 256 := 0
  units : List Nat := []
  lastCause : Nat := 0
  /-- How the check of STAGE_END ended, as a status of Table 15.8. -/
  result : Nat := 0
deriving DecidableEq, Repr

/-- A scheduled switch-over (R475–R479). -/
structure SwitchSt where
  state : Nat := 0
  live : Bool := false
  slot : Nat := 0
  e : Word := 0
  lastCancel : Nat := 0
  chunks : Nat := 0
  /-- The new image's segments and bank F are in place: the switch takes effect at this equinox and can no longer be cancelled. -/
  applied : Bool := false
deriving DecidableEq, Repr

/-! ### Time, launches and the equinox (chapter 02) -/

/-- The timebase states of Table 2.1 (R44). -/
inductive TbState where
  | free | acquire | locked | holdover | syncLocked | syncLost
deriving DecidableEq, Repr, Inhabited

/-- The timebase (R41–R45, R64). -/
structure TbSt where
  ltime : DWord := 0
  /-- Fraction of LTIME, in 2^-32 ns. -/
  frac : BitVec 32 := 0
  /-- Rate correction per 8 ns tick, in 2^-32 ns. -/
  rate : Int := 0
  state : TbState := .free
  everLocked : Bool := false
  inBand : Nat := 0
  outBand : Nat := 0
  /-- The last 16 rate corrections made in LOCKED, newest first. -/
  corrections : List Int := []
  offset : Int := 0
  /-- The step, in ns, that waits for the next equinox (R45, R71). -/
  stepPending : Option Int := none
  /-- What is left to slew, in 2^-32 ns. -/
  slew : Int := 0
  missing : Nat := 0
  edgesIgnored : Nat := 0
  /-- Errors of the last consecutive edges outside the window, newest first (R72). -/
  outside : List Int := []
  acqExpired : Bool := false
deriving DecidableEq, Repr

/-- A launch that occupies or waits for a unit (R54, R55). -/
structure Launched where
  act : Nat
  entry : Nat
  arg : Word
  slack : Word
  arrived : Nat
  late : Bool
deriving DecidableEq, Repr

/-- A launch unit of a die: its running entry and its queue of depth one (R54). -/
structure UnitSt where
  busy : Option Launched := none
  queued : Option Launched := none
deriving DecidableEq, Repr, Inhabited

/-- What every die keeps for the epoch (R52, R54–R58). -/
structure DieSt where
  /-- DIE_STATE code of Table 3.13. -/
  state : Nat := 0
  ep : Nat := 0
  units : Vector UnitSt 16 := Vector.replicate 16 default
  /-- Set by KILL: further LAUNCH tokens of the epoch are refused. -/
  refusing : Bool := false
  doneSent : Bool := false
  drainedSent : Bool := false
  late : Nat := 0
  missed : Nat := 0
  ratio : Nat := 0
  /-- SVC's view of the die: EPOCH_DONE and DRAINED received, COMMITTED received, EQUINOX resends. -/
  doneSeen : Bool := false
  drainedSeen : Bool := false
  committedSeen : Bool := false
  discardSeen : Bool := false
  resends : Nat := 0
  /-- The die missed an EQUINOX or was reset, and rejoins at the next equinox after it is ready (R72). -/
  out : Bool := false
deriving DecidableEq, Repr, Inhabited

/-- A line of the carry ledger (R61): its two banks, byte k in bits 8k+7..8k, and its flag bits.
`sel` false names bank 0 as the one that holds the committed value. -/
structure LedgerLine where
  bank0 : BitVec 512 := 0
  bank1 : BitVec 512 := 0
  sel : Bool := false
  dl : Bool := false
  dp : Bool := false
  dx : Bool := false
  mm : BitVec 64 := 0
deriving DecidableEq, Repr, Inhabited

/-- The flags and counts of an epoch, as EPOCH_STATUS and EPOCH_SUMMARY give them (Table 2.14, R59). -/
structure EpochFlags where
  degraded : Bool := false
  partialEp : Bool := false
  skipped : Bool := false
  eqxMiss : Bool := false
  stepped : Bool := false
  late : Nat := 0
  missed : Nat := 0
  ratio : Nat := 0
  /-- Dies drained by force and dies concerned, bit c for die ID code c. -/
  forcedDies : Nat := 0
  dies : Nat := 0
deriving DecidableEq, Repr, Inhabited

/-- A change of placement bank and its hand-over (R306): the banks after and before, the cause of Table 20.12, the destination, the
ranges copied so far as first line and count on the destination, and the lines handed over and not. -/
structure HandOver where
  bank : Nat
  before : Nat
  cause : Nat
  dst : Die
  copied : List (Nat × Nat) := []
  handed : Nat := 0
  notHanded : Nat := 0
  /-- The EQUINOX token of the change has been sent. -/
  sent : Bool := false
deriving DecidableEq, Repr

/-- The launch sequencer (R47–R60, R73). -/
structure SeqSt where
  bankA : List LaunchEntry := []
  bankB : List LaunchEntry := []
  bankF : List LaunchEntry := []
  /-- LT_BANK: 0 A, 1 B, 2 F; `back` is the bank that returns when F is left. -/
  bank : Nat := 0
  back : Nat := 0
  released : Bool := false
  armed : Bool := false
  /-- Armed on unlocked time, and the timebase has not been LOCKED since (R72). -/
  unlocked : Bool := false
  /-- An epoch has been run since the reset. -/
  ran : Bool := false
  /-- The sequencer issues no entries: RESTART switch-over, WINTER or SPRING. -/
  stopped : Bool := false
  epoch : Word := 0
  /-- Idle until this epoch number after a backward step (R71). -/
  idleUntil : Option Word := none
  issued : Nat := 0
  cur : EpochFlags := {}
  last : EpochFlags := {}
  lateCount : Word := 0
  degradedCount : Word := 0
  partialCount : Word := 0
  /-- LAT_COMP per die index: primary and alternate, 0xFFF not measured (R53). -/
  lat : Vector (Nat × Nat) 6 := Vector.replicate 6 (0, 0)
  /-- Peer merge is open: after the last DRAINED, until the commit fence (R60). -/
  merging : Bool := false
  killed : Bool := false
  remeasure : Bool := false
  /-- Items merged into a die's ledger this guard interval, until its COMMITTED (R63). -/
  merged : List (Die × Staged) := []
  /-- FRAME_MISSING has been raised for the epoch, and an EXPOSE entry of it was issued (R705). -/
  frameReported : Bool := false
  exposeIssued : Bool := false
  /-- The EPOCH_SUMMARY of the last epoch awaits the end of the EQUINOX resends. -/
  summaryDue : Bool := false
  /-- The epoch that the last EQUINOX closed (R63). -/
  closed : Word := 0
  /-- AUTUMN decimation is in force in this epoch (Table 21.7). -/
  decimate : Bool := false
  /-- The work of this guard interval, after the last DRAINED, has been done (R658). -/
  guardDone : Bool := false
  /-- The change of placement bank under way, and the ledger ranges to be cleared in the next guard interval (R306). -/
  hand : Option HandOver := none
  owed : List (Die × Nat × Nat) := []
deriving DecidableEq, Repr

/-! ### Start-up and flash (chapter 03) -/

/-- Start-up and boot (R76–R106). -/
structure BootSt where
  phase : Nat := 0
  /-- BOOT_STATUS.SLOT: 0 A, 1 B, 3 none. -/
  slot : Nat := 3
  cfgDefaulted : Bool := false
  causeA : Nat := 0
  causeB : Nat := 0
  strap : Nat := 0
  descCopy : Nat := 0
  cfgCopy : Nat := 0
  dormantCause : Nat := 0
  resetCause : Word := 0
  site : Vector (Nat × Bool) 4 := Vector.replicate 4 (0, false)
  /-- LINK_SUMMARY, by link of Table 1.2. -/
  links : Vector Nat 10 := Vector.replicate 10 0
  fwAbi : Nat := 0
  sqiAbi : Nat := 0
  recAbi : Nat := 0
  recEnabled : Bool := false
  recCause : Nat := 0
  fwRollback : Nat := 0
  sqiRollback : Nat := 0
  bootTimeMs : Word := 0
  /-- When the RESET_N edge came, for BOOT_TIME_MS. -/
  started : Nat := 0
  pmRetried : Bool := false
  /-- Which of steps 12–15, which run in parallel, have completed (R76). -/
  stepsDone : List Nat := []
  /-- The watchdog: when it was last restarted, and the instants of recent watchdog resets (R80). -/
  wdtKicked : Nat := 0
  wdtResets : List Nat := []
  /-- Since when the running slot has run without a reset, for R106. -/
  runSince : Option Nat := none
  firstDone : Bool := false
  /-- ALERT_N is driven low (R77). -/
  alert : Bool := false
deriving DecidableEq, Repr

/-- What SVC knows of the attached flash: the valid descriptor and configuration copies, and which is in
use (R86–R88). -/
structure FlashSt where
  sfdp : Bool := false
  desc0 : Option BootDesc := none
  desc1 : Option BootDesc := none
  cfg0 : Option CfgCopy := none
  cfg1 : Option CfgCopy := none
  /-- What the running slot and the staged slot hold. -/
  slotA : Option SlotFacts := none
  slotB : Option SlotFacts := none
deriving DecidableEq, Repr

/-- The running image: the slot's facts, and the compute-die part of the configuration entries that
SVC SRAM keeps (R89). -/
structure ImageSt where
  facts : Option SlotFacts := none
  dieEntries : List (Word × Word) := []
deriving DecidableEq, Repr

/-! ### One-time-programmable memory (chapter 04) -/

/-- A redirection entry, stored three times (R108, Table 4.1). -/
structure Redir where
  c0 : BitVec 16 := 0
  c1 : BitVec 16 := 0
  c2 : BitVec 16 := 0
deriving DecidableEq, Repr, Inhabited

/-- The OTP macro (R107–R139).  Rows are sparse, an unlisted row reading 0; `weak` are the bits of a row
that read 1 at REF_N and 0 at REF_T, of main rows and, from 512 on, of spares. -/
structure OtpSt where
  rows : List (Nat × BitVec 64) := []
  spares : Vector (BitVec 64) 16 := Vector.replicate 16 0
  redir : Vector Redir 16 := Vector.replicate 16 {}
  weak : List (Nat × BitVec 64) := []
  /-- The mirror, as decoded at REF_N through redirection (R134). -/
  mirror : List (Nat × BitVec 64) := []
  lcCompleted : Bool := false
  weakBoot : Nat := 0
  wl : BitVec 8 := 0
  rl : BitVec 8 := 0
  done : Bool := false
  error : Bool := false
  result : Nat := 0
  pulses : Nat := 0
  weakMask : BitVec 64 := 0
  vsysOk : Bool := false
  tempOk : Bool := false
  pumpReady : Bool := false
  policyEff : Nat := 0
  exhaustedLogged : Bool := false
  debugEffective : Bool := false
deriving DecidableEq, Repr

/-! ### EDL ports and routes (chapters 05, 06) -/

/-- EDL_PHY_STATUS.STATE (R158). -/
inductive PhyState where
  | down | up | absent | training | retraining
deriving DecidableEq, Repr, Inhabited

/-- EDL_LINK_STATUS.PSTATE (R195). -/
inductive PState where
  | down | negotiating | up | retraining | isolated | dead | absent | sink
deriving DecidableEq, Repr, Inhabited

/-- A bundle's state (R147). -/
inductive BState where
  | off | full | halfLo | halfHi
deriving DecidableEq, Repr, Inhabited

/-- A receive bundle: its state, live map, fail set since the reset, failed aux wires and eye (Table 5.10). -/
structure RxBundle where
  state : BState := .off
  map : Word := 0
  fail : BitVec 64 := 0
  /-- DATA wires that failed a test since the last reset, OTP assignments apart (R154). -/
  failedEver : BitVec 64 := 0
  aux : BitVec 6 := 0
  eye : Nat := 0
  eyeWire : Nat := 0
  vref : Nat := 0
  /-- Wires and spares for which LANE_DRIFT was logged (R157). -/
  drift : BitVec 64 := 0
  driftSpare : BitVec 4 := 0
deriving DecidableEq, Repr, Inhabited

/-- A transmit bundle: state and live map (R160). -/
structure TxBundle where
  state : BState := .off
  map : Word := 0
  failData : BitVec 64 := 0
  failAux : BitVec 6 := 0
  mismatches : Nat := 0
deriving DecidableEq, Repr, Inhabited

/-- The agreement of N2 (R192). -/
structure Agreement where
  major : Nat := 0
  minor : Nat := 0
  vcs : BitVec 6 := 0
  comp : BitVec 2 := 0
  rcache : BitVec 3 := 0
  tags : Nat := 0
  classes : BitVec 6 := 0
  replay : Nat := 512
  maxRate : Nat := 400
  bundles : Nat := 0
  /-- The partner's advertised credits. -/
  credit : List Nat := []
  compTx : Bool := false
  compRx : Bool := false
  readsOut : Bool := false
  readsIn : Bool := false
deriving DecidableEq, Repr, Inhabited

/-- One EDL port end (chapters 05 and 06). -/
structure EdlPort where
  phy : PhyState := .down
  rx0 : RxBundle := {}
  rx1 : RxBundle := {}
  tx0 : TxBundle := {}
  tx1 : TxBundle := {}
  sbUp : Bool := false
  step : Nat := 0
  trainCount : Nat := 0
  lastFail : Nat := 0
  /-- The LMW sent that awaits its answer, and how often it was sent (R152). -/
  lmw : Option (BitVec 48) := none
  lmwSends : Nat := 0
  helloSeen : Bool := false
  voteFails : Nat := 0
  voteRun : Nat := 0
  sbDead : Bool := false
  chkFails : Nat := 0
  retries : Nat := 0
  retrainDue : Bool := false
  /-- Has the port been powered off until the next reset (R164)? -/
  poweredOff : Bool := false
  pstate : PState := .down
  lec : Nat := 0
  lecMax : Nat := 0
  warnArmed : Bool := false
  rtArmed : Bool := false
  lecWarn : Bool := false
  good : Nat := 0
  expected : Nat := 0
  acceptedAny : Bool := false
  nakPending : Bool := false
  nakDue : Bool := false
  ackDue : Bool := false
  nulDue : Bool := false
  nextSeq : Nat := 0
  replayBuf : List (Nat × Parcel) := []
  /-- What is still to be replayed, and from which point a replay runs (R181). -/
  replayQ : List (Nat × Parcel) := []
  replayPoint : Option Nat := none
  txq : Vector (List Parcel) 6 := Vector.replicate 6 []
  /-- Sent counts, partner's freed counts as last reported, own freed counts and those last reported (R176, R177). -/
  sentCnt : Vector (BitVec 16) 6 := Vector.replicate 6 0
  freedIn : Vector (BitVec 16) 6 := Vector.replicate 6 0
  freedOut : Vector (BitVec 16) 6 := Vector.replicate 6 0
  reported : Vector (BitVec 16) 6 := Vector.replicate 6 0
  reportNext : Nat := 0
  /-- Slots since VC5 last had one while ready (R175). -/
  vc5Wait : Nat := 0
  partner : Option Caps := none
  ag : Agreement := {}
  agreeTries : Nat := 0
  negStep : Nat := 0
  /-- Has the partner's AGREE, INIT or RESUME of the current step been received? -/
  answered : Bool := false
  soakFails : Nat := 0
  soakWrong : BitVec 512 := 0
  soakFailed : Nat := 0
  crcFail : Word := 0
  replayTos : Word := 0
  naks : Word := 0
  dropLo : Nat := 0
  dropHi : Nat := 0
  goodTotal : DWord := 0
  sentTotal : DWord := 0
deriving DecidableEq, Repr, Inhabited

/-- A die register access under way over a die link (R690): its request tag, path, address and operation. -/
structure DieAccess where
  tag : Nat
  die : Die
  path : Path
  addr : Word
  op : Nat
  v : Word
deriving DecidableEq, Repr, Inhabited

/-! ### Compute-die fabric (chapter 07) -/

/-- One set of the remote cache: eight ways of line address and data, and the seven tree bits of its
pseudo-LRU (R212). -/
structure RcSet where
  ways : Vector (Option (Nat × BitVec 512)) 8 := Vector.replicate 8 none
  plru : BitVec 7 := 0
deriving DecidableEq, Repr, Inhabited

/-- A destination waiting for a line of a read: where the line goes (R212). -/
structure Waiter where
  line : Nat
  dst : Nat
  /-- The number of its transfer, by which the transfer is ended. -/
  xfer : Nat
deriving DecidableEq, Repr, Inhabited

/-- A request tag that is not in the pool (R209, R211, R216, R218). -/
structure ReadTag where
  tag : Nat
  gen : Nat
  addr : Nat
  lines : Nat
  nc : Bool
  target : Die
  port : Nat
  waiters : List Waiter
  issued : Nat
  /-- Responses are discarded without writing: MASTER_ACTIVE was cleared, or the drain was by force. -/
  discard : Bool := false
  /-- Lost: quarantined until the next EQUINOX token. -/
  lost : Bool := false
  /-- Of a generation before a die reset. -/
  old : Bool := false
deriving DecidableEq, Repr, Inhabited

/-- The fabric of a compute die (R208–R231). -/
structure Fabric where
  masterActive : Bool := false
  stuck : Bool := false
  gen : Nat := 0
  tags : List ReadTag := []
  /-- Reads that wait for a tag of the pool or of their port, oldest first, and the next transfer's number (R209). -/
  waitq : List ReadTag := []
  xferNext : Nat := 0
  /-- 8-byte words with a double-bit error, by address (R206). -/
  poison : List Nat := []
  cache : List (Nat × RcSet) := []
  /-- Addresses of HELD lines, rising (R214). -/
  held : List Nat := []
  hit : DWord := 0
  miss : DWord := 0
  discards : Nat := 0
  lostCount : Nat := 0
  heldViol : Nat := 0
  heldAddr : Word := 0
  eccCorr : Nat := 0
  eccUnc : Nat := 0
  /-- The scrub unit: segment in progress, bytes of it read, running CRC, and its results (R222, R223). -/
  scrubSeg : Nat := 0
  scrubPos : Nat := 0
  scrubCrc : Word := 0xFFFFFFFF
  scrubFail : Bool := false
  scrubFailSeg : Nat := 0
  scrubPasses : Nat := 0
  /-- Bytes the scrub unit has read in this epoch. -/
  scrubUsed : Nat := 0
  /-- The failed segment has been rewritten and is checked first in the next epoch (R223). -/
  scrubRecheck : Bool := false
  /-- VC0 and VC5 parcels held in SINK, in arrival order (Table 7.4). -/
  sinkHeld : List LinkRx := []
  /-- LEDGER_EPOCH: the epoch closed by the last EQUINOX token (R63). -/
  ledgerEpoch : Word := 0
deriving DecidableEq, Repr, Inhabited

/-! ### The EYE sensor and image pipeline (chapters 08, 09) -/

/-- The exposure sequencer's states (Table 8.3). -/
inductive SensState where
  | off | cal | standby | exposing | reading | fault
deriving DecidableEq, Repr, Inhabited

/-- The exposure of the frame in hand (R236, R237): dual or single, the applied times and k.  `phase` counts
the transfers done. -/
structure ExpPlan where
  hdr : Bool
  timeNs : Nat
  shortUs : Nat
  k : Nat
  phase : Nat
  /-- When the token was received, and when the exposure begins (R235). -/
  received : Nat
  begins : DWord
deriving DecidableEq, Repr, Inhabited

/-- The sensor (R232–R255). -/
structure EyeSt where
  state : SensState := .off
  hdrActive : Bool := false
  clamped : Bool := false
  bankA : Bool := false
  bankB : Bool := false
  tempDefects : Bool := false
  /-- TEMP state that the next equinox applies (R245). -/
  tempNext : Bool := false
  faultCause : Nat := 0
  lastMissing : Nat := 0
  defectsUsed : Nat := 0
  plan : Option ExpPlan := none
  /-- The window has ended and the banks are still powering up (R251). -/
  bankWait : Bool := false
  /-- Rows converted of the frame in hand (R240). -/
  rows : Nat := 0
  relocking : Bool := false
  clkLosses : List Nat := []
  expLast : Nat := 0
  expLastHdr : Nat := 0
  frames : Word := 0
  missing : Word := 0
  defectBad : Nat := 0
  defectOver : Nat := 0
  /-- The OTP defect entries firmware wrote in step 14 (R245, R254). -/
  otpDefects : List (BitVec 28) := []
  /-- No EQUINOX token since the release from hold: shadowed writes also take effect at once (R247, R287). -/
  fresh : Bool := true
  /-- The frame of this epoch: an EXPOSE was received, its LTIME of exposure start, and whether it is missing. -/
  exposed : Bool := false
  exposedAt : DWord := 0
  frameMissing : Bool := false
  /-- The defect entries in use (R245). -/
  defects : List (BitVec 28) := []
deriving DecidableEq, Repr

/-! ### Image pipeline and statistics (chapter 09) -/

/-- ISP_STATUS.STATE (R279). -/
inductive IspState where
  | idle | armed | running | done | aborted
deriving DecidableEq, Repr, Inhabited

/-- A statistics set (Table 9.4).  `hist` has key 256·h + bin for h = 0 R, 1 G, 2 B, 3 Y; `zone` key
4·z + k holds the sums of R, G, B and Y of zone z, `sat` its saturated pixels; unlisted counts are 0. -/
structure StatSet where
  epoch : Word := 0
  valid : Bool := false
  skipped : Bool := false
  partialSet : Bool := false
  src : Nat := 0
  hdr : Bool := false
  blFallback : Bool := false
  pixels : Nat := 0
  frameLevel : List Nat := []
  hist : List (Nat × Nat) := []
  zone : List (Nat × Nat) := []
  sat : List (Nat × Nat) := []
deriving DecidableEq, Repr, Inhabited

/-- The ISP and statistics islands (R256–R288). -/
structure IspSt where
  state : IspState := .idle
  /-- Last band emitted, last missing-frame cause (Table 9.9), and the flags of the last frame. -/
  band : Nat := 0
  cause : Nat := 0
  blFallback : Bool := false
  toneBypass : Bool := false
  /-- Array rows processed of the frame, and active rows emitted. -/
  next : Nat := 0
  emitted : Nat := 0
  /-- The black level of the frame: r0_c and the row filters r_c, 1/16 DN, by colour R, Gr, Gb, B (R260). -/
  rowStart : List Int := [0, 0, 0, 0]
  rowNow : List Int := [0, 0, 0, 0]
  /-- The line buffer: black-corrected active rows, newest first (R266). -/
  lines : List (Nat × Array Nat) := []
  /-- BL16 of the row's R or Gb pixels' colours, by array row, first the even columns' (R404). -/
  blRows : List (Nat × List Int) := []
  /-- Streams whose route is lost for the frame (R284), and a tone table with an uncorrectable error (R286). -/
  noRoute0 : Bool := false
  noRoute1 : Bool := false
  toneBad : Bool := false
  /-- Counts of the frame in hand, and those of the last frame as the registers show them (R288). -/
  dynNow : Nat := 0
  unfixedNow : Nat := 0
  dynCount : Nat := 0
  dpcUnfixed : Nat := 0
  blMeas : List Nat := [0, 0, 0, 0]
  blNow : List Nat := [0, 0, 0, 0]
  bandCount : Word := 0
  holdSkips : Word := 0
  /-- The set being gathered and the visible set. -/
  stat : StatSet := {}
  shown : StatSet := {}
deriving DecidableEq, Repr, Inhabited

/-! ### Clusters, monitoring slots and halos (chapters 10–12) -/

/-- CL_STATUS.STATE (R309). -/
inductive ClState where
  | off | idle | running | waitInput | waitOutput | disabled | failed
deriving DecidableEq, Repr, Inhabited

/-- A cluster (R289–R317, R336, R345). -/
structure Cluster where
  state : ClState := .off
  group : Nat := 0
  lastErr : Nat := 0
  stalls : Nat := 0
  /-- Instants of its stalls, for the third within 600 s. -/
  stallTimes : List Nat := []
  steps : DWord := 0
  speed : Nat := 0
  /-- Band the running program takes next, and when the entry started. -/
  band : Nat := 0
  started : Nat := 0
  /-- The entry's lateness so far, ns. -/
  late : Nat := 0
  /-- Busy and waiting time of this epoch in ns, highest lateness; and the last epoch's as registers show them. -/
  busyNow : Nat := 0
  waitNow : Nat := 0
  lateNow : Nat := 0
  waitFrom : Nat := 0
  epBusy : Nat := 0
  epWait : Nat := 0
  epLate : Nat := 0
  accSat : Word := 0
  /-- Accumulator memory (R292): key 64·entry + lane; an unlisted accumulator holds 0. -/
  acc : List (Nat × Int) := []
  expHi : Nat := 0
  expLo : Nat := 0
  xnan : Word := 0
  outSat : Word := 0
  /-- The LFSR of R336 and the vector steps taken by the running job. -/
  lfsr : Word := 1
deriving DecidableEq, Repr, Inhabited

/-- What a monitoring slot gathers in an epoch, or showed for the last one (R337–R340, R345). -/
structure QSlot where
  samples : Nat := 0
  /-- Elements numbered so far in the epoch, and the band's own counts for RERUN. -/
  elems : Nat := 0
  err : Nat := 0
  sig : Nat := 0
  bandErr : Nat := 0
  bandSig : Nat := 0
  bandSamples : Nat := 0
  maxPos : Nat := 0
  maxNeg : Nat := 0
  satSamples : Nat := 0
  reruns : Nat := 0
  below : Bool := false
  adapted : Bool := false
  adaptNone : Bool := false
  rerunDone : Bool := false
  rerunSkipped : Bool := false
  countSat : Bool := false
  nanSeen : Bool := false
  aborted : Bool := false
  /-- Reported SQNR as 16 bits; 0x8000 with no samples. -/
  sqnr : BitVec 16 := 0x8000
deriving DecidableEq, Repr, Inhabited

/-- A band of input received in an epoch (R299): by descriptor, how many bytes, and whether LAST came. -/
structure InBand where
  desc : Nat
  band : Nat
  bytes : Nat
  last : Bool
deriving DecidableEq, Repr, Inhabited

/-- A halo version at its consumer (R370–R372). -/
structure HaloVer where
  tag : Nat
  src : Nat
  band : Nat
  version : Nat
  bytes : Nat := 0
  parcels : Nat := 0
  last : Bool := false
  spec : Bool := false
  /-- A COMMIT has come before LAST (R371). -/
  commitSeen : Bool := false
  committed : Bool := false
  revoked : Bool := false
deriving DecidableEq, Repr, Inhabited

/-- A halo band as its producer counts it: sends so far and the last version sent (R367, R372). -/
structure HaloTx where
  tag : Nat
  band : Nat
  sends : Nat
  version : Nat
  final : Bool
deriving DecidableEq, Repr, Inhabited

/-- The epoch values of Table 12.4. -/
structure HaloCounts where
  sent : Word := 0
  commits : Word := 0
  implicit : Word := 0
  revokes : Word := 0
  discard : Word := 0
  blocks : DWord := 0
  maxErr : Nat := 0
  bad : Nat := 0
deriving DecidableEq, Repr, Inhabited

/-- The placement side of a compute die. -/
structure Compute where
  clusters : Vector Cluster 4 := Vector.replicate 4 {}
  bank : Nat := 0
  groups : Nat := 0
  /-- Bank F segments of the segment table that have passed their first check (R305). -/
  fChecked : List Nat := []
  aborted : Bool := false
  aborts : Word := 0
  handoverGot : Nat := 0
  handoverNot : Nat := 0
  inputs : List InBand := []
  halos : List HaloVer := []
  haloTx : List HaloTx := []
  /-- Held rows, per descriptor index (R370). -/
  heldRows : List (Nat × Nat) := []
  waitBand : Nat := 0
  waiting : Bool := false
  countNow : HaloCounts := {}
  count : HaloCounts := {}
  slots : Vector QSlot 64 := Vector.replicate 64 {}
  slotsShown : Vector QSlot 64 := Vector.replicate 64 {}
deriving DecidableEq, Repr

/-! ### Detect unit and egress guard (chapter 13) -/

/-- DET_STATUS.STATE (R412). -/
inductive DetState where
  | off | idle | waitHead | decode | suppress | write
deriving DecidableEq, Repr, Inhabited

/-- The detect unit of a compute die with its tracker results (R388–R401, Table 13.10). -/
structure DetSt where
  state : DetState := .off
  preOverflow : Bool := false
  keepOverflow : Bool := false
  lastErr : Nat := 0
  /-- Descriptor of the running entry. -/
  desc : Nat := 0
  ranked : Nat := 0
  kept : Nat := 0
  zeroArea : Nat := 0
  beyondPre : Nat := 0
  steps : Nat := 0
  lists : Word := 0
  live : Nat := 0
  started : Nat := 0
  ended : Nat := 0
  fullDrops : Nat := 0
  nextId : Word := 0
  /-- Values of the epoch in hand that the registers show after the equinox (R413, R419). -/
  rankedNow : Nat := 0
  keptNow : Nat := 0
  zeroNow : Nat := 0
  beyondNow : Nat := 0
  liveNow : Nat := 0
  startedNow : Nat := 0
  endedNow : Nat := 0
  fullNow : Nat := 0
  nextIdNow : Word := 0
deriving DecidableEq, Repr, Inhabited

/-- A crop request (R402): the request fields and the mask received so far. -/
structure CropReq where
  index : Nat
  src : Nat
  masked : Bool
  x : Nat
  y : Nat
  w : Nat
  h : Nat
  track : Word
  mask : List Byte := []
  maskLast : Bool := false
deriving DecidableEq, Repr, Inhabited

/-- The egress guard and the ROI cropper (R402–R419). -/
structure GuardSt where
  crops : Nat := 0
  windowOpen : Bool := false
  /-- ROI_WINDOW's ARG offset in µs for this epoch. -/
  windowArg : Nat := 0
  budgetHit : Bool := false
  selftestFail : Bool := false
  used : Nat := 0
  cropsRefused : Nat := 0
  parcelsRefused : Nat := 0
  budgetDrop : Word := 0
  delivered : Word := 0
  lastCause : Nat := 0
  lastIndex : Nat := 0
  /-- Requests whose mask is incomplete, crops accepted and not yet processed, indices accepted this epoch. -/
  waiting : List CropReq := []
  accepted : List CropReq := []
  indices : List Nat := []
  /-- REDACTED parcels that each crop of the epoch may still send, by index (R406, R408). -/
  passed : List (Nat × Nat) := []
  /-- CROP_CUT and SIZE_CUT of POLICY as applied at the last equinox. -/
  cropCut : Nat := 0
  sizeCut : Nat := 0
  blockRaised : Bool := false
deriving DecidableEq, Repr, Inhabited

/-! ### Harvest (chapter 14) -/

/-- The Harvest states of Table 14.5 (R438). -/
inductive HvState where
  | off | collect | train | validate | checkpoint | adopt | rollback | suspended | done
deriving DecidableEq, Repr, Inhabited

/-- A checkpoint slot in flash (R435, R436): 0 EMPTY, 1 CANDIDATE, 2 VALIDATED; its header fields, the
region's lines and the head segment. -/
structure Ckpt where
  state : Nat := 0
  session : Word := 0
  tag : Word := 0
  step : Nat := 0
  cand : Nat := 0
  ref : Nat := 0
  lines : List (BitVec 512) := []
  head : List Byte := []
  seeds : List Word := []
deriving DecidableEq, Repr, Inhabited

/-- A Harvest record waiting for the equinox that commits it (R439). -/
structure HvEvent where
  event : Nat
  outcome : Nat := 0
  slot : Nat := 3
deriving DecidableEq, Repr, Inhabited

/-- Harvest as SVC runs it (R420–R448). -/
structure HarvestSt where
  state : HvState := .off
  outcome : Nat := 0
  windowOpen : Bool := false
  /-- How the window ends: an instant of LTIME (configured) or an epoch number (scheduled). -/
  windowUntil : Option DWord := none
  windowEpoch : Option Word := none
  offCause : Nat := 0
  before : HvState := .off
  startPending : Bool := false
  cancelPending : Bool := false
  revertPending : Bool := false
  headSel : Bool := false
  ckpt0 : Ckpt := {}
  ckpt1 : Ckpt := {}
  /-- Bytes of the checkpoint in hand already programmed, which slot, and whether as VALIDATED. -/
  writing : Option (Nat × Nat × Bool) := none
  trainEpochs : Nat := 0
  passesDone : Nat := 0
  cand : Nat := 0
  ref : Nat := 0
  exTotal : Word := 0
  step : Word := 0
  clipV : Nat := 0
  clipM : Nat := 0
  session : Word := 0
  seeds : List Word := []
  /-- The last VALIDATE passed; the ADOPT program has written the segment; the region awaits restoring. -/
  passed : Option Bool := none
  adoptWritten : Bool := false
  flashRetries : Nat := 0
  /-- Exemplar slots flushed to the log, and the log's bytes by store offset (R435). -/
  flushed : Nat := 0
  exLog : List (Nat × Byte) := []
  /-- A step left a value that is not finite (R446). -/
  nan : Bool := false
  /-- Bytes programmed in the area in this epoch, and of the log chunk in hand; the three retries have failed (R437, R446). -/
  epochBytes : Nat := 0
  logPos : Nat := 0
  flashFailed : Bool := false
  /-- Records that the next equinox raises (R439). -/
  events : List HvEvent := []
deriving DecidableEq, Repr, Inhabited

/-! ### Listener (chapter 17) -/

/-- The listener states of Table 17.3 (R538). -/
inductive LstState where
  | off | start | arming | running | test | fault
deriving DecidableEq, Repr, Inhabited

/-- One microphone input (R527–R544).  `status` is LST_STATUS.MICm: 0 OK, 1 OPEN, 2 SHORT, 3 CLIP. -/
structure Mic where
  status : Nat := 0
  silent : Bool := false
  biasOff : Bool := false
  biasGone : Bool := false
  retries : Nat := 0
  current : Nat := 0
  /-- The floor F in 1/256 dBFS, frames and sum of E gathered while arming. -/
  floor : Int := 0
  frames : Nat := 0
  sum : Int := 0
  level : Int := 0
  loudRun : Nat := 0
  loudMax : Int := 0
  /-- Frames to leave out after a bias change (R531), and gain code in effect. -/
  skip : Nat := 0
  gain : Nat := 8
  bias : Nat := 7
  biasEn : Bool := true
  clipRun : Nat := 0
  clearRun : Nat := 0
  refractUntil : Nat := 0
  /-- E of the last 150 frames, newest first (R533). -/
  history : List Int := []
deriving DecidableEq, Repr, Inhabited

/-- The listener (R528–R545). -/
structure ListenSt where
  state : LstState := .off
  mic0 : Mic := {}
  mic1 : Mic := {}
  frames : Nat := 0
  matchRunning : Bool := false
  /-- Phrase IDs and default thresholds of the loaded recogniser (Table 17.2). -/
  phrases : List (Nat × Nat) := []
  matchUntil : Nat := 0
  matchRefract : Nat := 0
  wakePending : Bool := false
  policyOff : Bool := false
  wakes : Word := 0
  suppressed : Word := 0
  test0 : Int := 0
  test1 : Int := 0
  shorts : Nat := 0
  opens : Nat := 0
  clips : Nat := 0
  silences : Nat := 0
  clkLosses : List Nat := []
deriving DecidableEq, Repr, Inhabited

/-! ### Housekeeping converters (chapter 18) -/

/-- The converter states of Table 18.4 (R560). -/
inductive HkState where
  | off | cal | continuous | idle | starting | scanning | fault
deriving DecidableEq, Repr, Inhabited

/-- One converter (R546–R569). -/
structure HkConv where
  state : HkState := .off
  fault : Nat := 0
  /-- Slices 0–3 excluded (Table 18.9), and the slice the next slot goes to. -/
  sliceOut : BitVec 4 := 0
  slice : Nat := 0
  /-- Channels still to convert of the running pass, passes left after it, and the set. -/
  chans : List Nat := []
  passes : Nat := 0
  set : Nat := 0
  burst : Nat := 0
  urgent : Option Nat := none
  refreshed : Nat := 0
  clkLosses : List Nat := []
deriving DecidableEq, Repr, Inhabited

/-- The housekeeping block (R546–R569). -/
structure HkSt where
  a : HkConv := {}
  b : HkConv := {}
  last : Vector Word 24 := Vector.replicate 24 0
  count : Vector (BitVec 48) 24 := Vector.replicate 24 0
  minmax : Vector Word 24 := Vector.replicate 24 0x0FFF
  hit : BitVec 24 := 0
  queue : List (Word × Word) := []
  qDrop : Nat := 0
  urgentRes : Word := 0
  xcFault : Bool := false
  xcRun : Nat := 0
  xcMismatch : Nat := 0
  xcPairs : Nat := 0
  xcA : Nat := 0
  xcB : Nat := 0
  trimBad : Bool := false
  /-- When HEALTH ADC_REFERENCE was last raised. -/
  refRaised : Option Nat := none
deriving DecidableEq, Repr

/-! ### Field outputs, tamper sense and local buses (chapter 19) -/

/-- One field output (R570–R573, R602–R604).  `faults` holds FO_FAULT bits 8n to 8n+6 of the output. -/
structure FoOut where
  cmd : Bool := false
  /-- A scheduled end of pulse: the instant, in ns (R571). -/
  pulseEnd : Option Nat := none
  latched : Bool := false
  thermal : Bool := false
  latchedAt : Nat := 0
  faults : BitVec 7 := 0
  used : Nat := 0
  /-- Retried since its retries were last restored: the next latch is a recurrence. -/
  retrying : Bool := false
deriving DecidableEq, Repr, Inhabited

/-- The field-output bank. -/
structure FoSt where
  outs : Vector FoOut 4 := Vector.replicate 4 {}
  /-- The bank is enabled (step 10) and its domain on (R573). -/
  enabled : Bool := false
  uvlo : Bool := false
  lockouts : Nat := 0
  latches : Nat := 0
deriving DecidableEq, Repr

/-- The electrode states of Table 19.3 (R581). -/
inductive TeState where
  | off | start | normal | occludedAtStart | occluded | fault
deriving DecidableEq, Repr, Inhabited

/-- One tamper electrode (R575–R583).  `base` is B_e in 1/256 count; `samples` are the last 16, newest
first; `window` the samples of a clearing run. -/
structure Electrode where
  state : TeState := .off
  c : Nat := 0
  base : Int := 0
  samples : List Nat := []
  occRun : Nat := 0
  clearRun : Nat := 0
  clearSum : Nat := 0
  inRun : Nat := 0
  since : Nat := 0
  /-- PERSISTENT_OCCLUSION records raised in the present occluded state (R579). -/
  persist : Nat := 0
deriving DecidableEq, Repr, Inhabited

/-- The tamper unit. -/
structure TamperSt where
  te0 : Electrode := {}
  te1 : Electrode := {}
  shield : Bool := false
  fbInvalid : Bool := false
  events : Word := 0
  noFactory : Bool := false
deriving DecidableEq, Repr, Inhabited

/-- An I²C controller transaction (R587). -/
structure I2cXfer where
  addr : Nat
  read : Bool
  wlen : Nat
  rlen : Nat
  losses : Nat
  waiting : Bool
deriving DecidableEq, Repr, Inhabited

/-- A transaction that the I²C target serves and that waits for a die register access: address of the word in hand, words still to
write, words still to read after it, bytes read so far, and the tag of the access (R585, R690). -/
structure I2cServe where
  addr : Word
  left : List Word
  reads : Nat
  got : List Byte
  tag : Nat
deriving DecidableEq, Repr, Inhabited

/-- I²C, PMBus, QSPI and GPIO (R584–R596). -/
structure BusSt where
  target : Option I2cServe := none
  xfer : Option I2cXfer := none
  result : Nat := 0
  lastLosses : Nat := 0
  losses : Nat := 0
  rx : Vector Word 8 := Vector.replicate 8 0
  pmStatus : Nat := 0
  pmAlert : Bool := false
  pmErrors : Nat := 0
  /-- PMBus has failed after its retries (R604, R656). -/
  pmFailed : Bool := false
  qspiInfo : Word := 0
  flashFail : Nat := 0
  flashBusy : Nat := 0
  gpioIn : BitVec 8 := 0
  gpioEvt : BitVec 8 := 0
  gpioLost : Nat := 0
  gpioTs : Vector DWord 8 := Vector.replicate 8 0
deriving DecidableEq, Repr

/-! ### Power and seasons (chapter 21) -/

/-- SEASON_STATUS.SEASON (R642, R651). -/
inductive Season where
  | winter | spring | summer | a1 | a2 | a3 | dormant | thermalStop
deriving DecidableEq, Repr, Inhabited

/-- One junction sensor (R639, R656): last corrected reading in 1/4 °C, samples since it changed. -/
structure TjSensor where
  t : Int := 0
  valid : Bool := false
  fault : Bool := false
  same : Nat := 0
deriving DecidableEq, Repr, Inhabited

/-- Power, thermal monitor and slack controller (R632–R658). -/
structure PowerSt where
  season : Season := .spring
  /-- The season that the next EQUINOX token brings (R642), and the WINTER request pending. -/
  next : Option Season := none
  winterReq : Bool := false
  deferred : Bool := false
  windowOpen : Bool := false
  /-- The window was left by SEASON_CMD LEAVE: no entry until its next opening (R645). -/
  windowLeft : Bool := false
  wakeHold : Option Nat := none
  tLevel : Nat := 0
  pLevel : Nat := 0
  tmax : Int := 0
  hot : Nat := 0
  sensors : Vector TjSensor 6 := Vector.replicate 6 {}
  /-- Consecutive samples at or above each entry threshold 1–3 and stop, and below each exit threshold. -/
  riseRun : List Nat := [0, 0, 0, 0]
  fallRun : List Nat := [0, 0, 0]
  stopClear : Nat := 0
  /-- The level is held at least this until cold reset after sensor exclusions (Table 21.14). -/
  heldLevel : Nat := 0
  /-- The AUTUMN level that the cap follows: it rises at once and falls at an equinox (R642). -/
  capLevel : Nat := 0
  vcoreSent : Nat := 0
  vcoreSet : Nat := 750
  vout : Nat := 0
  iout : Nat := 0
  pout : Nat := 0
  energyEst : Bool := false
  energy : BitVec 48 := 0
  /-- Energy added in the second in hand, µJ, and its 10 ms steps. -/
  secondUj : Nat := 0
  secondSteps : Nat := 0
  pwr1s : Nat := 0
  overRun : Nat := 0
  underRun : Nat := 0
  downRun : Nat := 0
  floorAboveCap : Bool := false
  slackAtCap : Option Nat := none
  voutBad : Bool := false
  tjPeak : Int := 0
  tjPeakDie : Nat := 0
  thermalStopped : Bool := false
  changes : Word := 0
  autumnEpochs : Vector Word 3 := Vector.replicate 3 0
  raises : Nat := 0
  lowerings : Nat := 0
  /-- PD_FAULT by domain number (R637); PD_STATE follows from the units. -/
  pdFault : BitVec 76 := 0
  railFault : Bool := false
  halted : Bool := false
deriving DecidableEq, Repr

/-! ### What leaves the part -/

/-- How a register access ends on its path (R4, R464, R689, R690): carried out, refused by the register,
not mapped, not reachable in the die's state, not done in time, not open to its path, or against the policy. -/
inductive AccStatus where
  | ok | refused | badAddr | state | busy | path | policy
deriving DecidableEq, Repr, Inhabited

/-- A flash write of SVC's own (R593): the descriptor copy, a configuration copy with its key store, staged
image data, the erasure of a staged slot's 64 KiB region, or checkpoint bytes. -/
inductive FlashWrite where
  | desc (copy : Nat) (d : BootDesc)
  | cfg (copy : Nat) (c : CfgCopy)
  | stage (slot offset : Nat) (data : List Byte)
  | erase (slot region : Nat)
  | checkpoint (slot offset len : Nat)
  | area (slot state : Nat)
deriving DecidableEq, Repr

/-- What leaves the part, in the order in which it leaves: the trace a test bench sees. -/
inductive Output where
  /-- The answer to a register access on the core, I²C or JTAG path. -/
  | answer (path : Path) (addr : Word) (st : AccStatus) (lo hi : Word)
  /-- A UDP datagram from a port of the device to an address and port. -/
  | udp (src : Nat) (ip : Word) (port : Nat) (bytes : List Byte)
  /-- A frame forwarded by the switch to the egress ports named, its PTP correction raised by so many ns. -/
  | frame (egress : List Nat) (queue : Nat) (f : Frame) (corrected : Nat)
  /-- A parcel that leaves an EDL port. -/
  | parcel (port : PortId) (p : Parcel) (t : Trailer)
  /-- A NUL, CAP, AGREE, SOAK, INIT or RESUME parcel, by KIND number of its chapter. -/
  | linkParcel (port : PortId) (what : Nat) (t : Trailer) (freed : List Nat)
  /-- A sideband frame, by its voted word. -/
  | token (port : PortId) (w : BitVec 48)
  | syncOut
  | fo (out : Nat) (level : Nat)
  | alertN (low : Bool)
  | pmbus (cmd v : Nat)
  | flash (op : FlashWrite)
  | i2cController (addr : Nat) (bytes : List Byte) (rlen : Nat)
  | i2cTarget (ack : Bool) (bytes : List Byte)
  | i2cClocks
  | softEvent (arg : Nat)
  | interrupt (mask : Nat)
  | arp (ip : Word)
  | dhcp (renew rebind : Bool)
deriving DecidableEq, Repr

/-- The trouble-log read side of a path (R622): its index and the record snapshotted at word 0. -/
structure LogReader where
  idx : Word := 0
  snap : Option LogRecord := none
deriving DecidableEq, Repr, Inhabited

end Sys2Proof.Machine
end

