-- ==== Sys2Proof/Machine/State.lean ====
section
/-! DEFINITION. The state of the block, why a command may stop, and the state after reset. -/
namespace Sys2Proof.Machine

/-- Why a command faults. -/
inductive Fault where
  /-- The command names a die, cluster, port, bundle, input, converter, output, electrode, pin, domain or
  check context that the part does not have (Table 1.1, Table 1.9, R204).  Raised by the meanings that take
  such a number; safe: the part has nothing there that could act. -/
  | noSuchUnit
deriving DecidableEq, Repr

/-- Why a command is refused. -/
inductive Refusal where
  /-- The command has no meaning in this model yet.  Raised by arms of exec alone; safe. -/
  | notModelled (mnemonic : String)
deriving DecidableEq, Repr

/-- The state of the block: the queue of waiting commands, what the model keeps of time and of free values,
the register file with its shadows, and every unit. -/
structure State where
  /-- The commands that wait, first in, first out. -/
  pending : List Instr
  /-- Which part this is (Table 0.1). -/
  part : Part
  /-- The model's clock in nanoseconds, for windows of time: a reset keeps it, each idle step adds 8. -/
  now : Nat
  /-- The model's own counter of free values: the next value left open by the spec takes this index. -/
  freeIdx : Nat
  /-- Register values in force, by global address, rising; an unlisted register holds its reset value. -/
  regs : List (Nat × Word)
  /-- Writes that wait in shadows for the equinox, by address, rising (R33, R279, R346, R381). -/
  shadow : List (Nat × Word)
  /-- High words snapshotted by LO reads, and LO words staged by LO writes, by path and address (R6, R8, R11). -/
  loRead : List (Nat × Word)
  loStaged : List (Nat × Word)
  /-- The log read side of each path (R622). -/
  logRd : Vector LogReader 4
  /-- What has left the part, oldest first. -/
  out : List Output
  /-- The timebase (R41). -/
  tb : TbSt
  /-- The launch sequencer (R47). -/
  seqr : SeqSt
  /-- What each die keeps for the epoch, by die index (R52). -/
  dies : Vector DieSt 6
  /-- The carry ledgers of CD0–CD3: sparse lines, every unlisted line all zero (R61, R74). -/
  ledgers : Vector (List (Nat × LedgerLine)) 4
  /-- Start-up (R76). -/
  boot : BootSt
  /-- The attached flash as SVC knows it (R86). -/
  flash : FlashSt
  /-- The running image (R90). -/
  img : ImageSt
  /-- The OTP macro (R107). -/
  otp : OtpSt
  /-- The 23 EDL port ends, by `PortId.idx` (Table 1.2, Table 24.5). -/
  ports : Vector EdlPort 23
  /-- The die register accesses SVC has under way, and the next request tag (R173, R690). -/
  accesses : List DieAccess
  accessTag : Nat
  /-- The fabrics of CD0–CD3 (chapter 07). -/
  fabs : Vector Fabric 4
  /-- SVC SRAM, cluster SRAM and the EYE frame buffer by global byte address: strictly rising, no entry 0,
  every unlisted byte reading 0 (Table 7.1, R230). -/
  mem : List Host.Cell
  /-- The EYE sensor (R232). -/
  eye : EyeSt
  /-- The ISP and the statistics engine (R256). -/
  isp : IspSt
  /-- Clusters, placement, halos and monitoring slots of CD0–CD3 (chapters 10–12). -/
  comp : Vector Compute 4
  /-- The detect units of CD0–CD3 (R388). -/
  det : Vector DetSt 4
  /-- The egress guard and ROI cropper (R402). -/
  guard : GuardSt
  /-- Harvest (R420). -/
  hv : HarvestSt
  /-- Ports, switch and addressing (R449–R455). -/
  net : NetSt
  /-- Sessions and ownership (R456–R472). -/
  bcp : BcpSt
  /-- Image staging (R473). -/
  stage : StageSt
  /-- The switch-over (R475). -/
  sw : SwitchSt
  /-- The record builder (R488). -/
  recs : RecSt
  /-- Peer exchange (R511). -/
  peers : PeerSt
  /-- The listener (R528). -/
  lst : ListenSt
  /-- The housekeeping converters (R546). -/
  hk : HkSt
  /-- Field outputs (R570). -/
  fo : FoSt
  /-- Tamper sense (R575). -/
  tamper : TamperSt
  /-- Local buses and GPIO (R584). -/
  bus : BusSt
  /-- The four check contexts (R607). -/
  cv : Vector CvCtx 4
  /-- The trouble log (R613). -/
  log : LogSt
  /-- The event outboxes, by die index (R617). -/
  outboxes : Vector Outbox 6
  /-- Power, heat and seasons (R632). -/
  power : PowerSt
deriving DecidableEq, Repr

/-- The machine right after reset: every register at its reset value, nothing trained, nothing loaded,
the queue empty (R79, R102, Table 3.2). [DESIGN CHOICE where the spec gives no value: log 3, 4, 5, 6] -/
def State.reset : State where
  pending := []
  part := .bx7720
  now := 0
  freeIdx := 0
  regs := []
  shadow := []
  loRead := []
  loStaged := []
  logRd := Vector.replicate 4 {}
  out := []
  tb := {}
  seqr := {}
  dies := Vector.replicate 6 {}
  ledgers := Vector.replicate 4 []
  boot := {}
  flash := {}
  img := {}
  otp := {}
  ports := Vector.replicate 23 {}
  accesses := []
  accessTag := 0
  fabs := Vector.replicate 4 {}
  mem := []
  eye := {}
  isp := {}
  comp := Vector.replicate 4 {}
  det := Vector.replicate 4 {}
  guard := {}
  hv := {}
  net := {}
  bcp := {}
  stage := {}
  sw := {}
  recs := {}
  peers := {}
  lst := {}
  hk := {}
  fo := {}
  tamper := {}
  bus := {}
  cv := Vector.replicate 4 {}
  log := {}
  outboxes := Vector.replicate 6 {}
  power := {}

end Sys2Proof.Machine
end

