-- ==== Sys2Proof/Machine/RegMap.lean ====
section
/-! DEFINITION. The register index (chapter 24): every register with its fields, access codes, reset values
and writable ranges, as the chapters' field tables and register tables give them. -/
namespace Sys2Proof.Machine

/-- The access codes of Table 0.4; no register of stepping B0 is RWL (R693). -/
inductive Acc where
  | ro | rw | w1c | w1s | wo | rs
deriving DecidableEq, Repr

/-- A field: its bits, access code, reset value, the ranges a write must lie in (none: every value), and the
number a written value must be a multiple of. -/
structure FieldDef where
  hi : Nat
  lo : Nat
  acc : Acc
  reset : Nat
  ranges : List (Nat × Nat) := []
  mult : Nat := 1
deriving DecidableEq, Repr

/-- Which half of a pair a register is (R6–R9). -/
inductive PairKind where
  | single | lo | hi | rwLo | rwHi
deriving DecidableEq, Repr

/-- A register or an array of registers. -/
structure RegDef where
  base : Nat
  stride : Nat
  count : Nat
  name : String
  fields : List FieldDef
  pair : PairKind := .single
deriving DecidableEq, Repr

/-! Field makers, by access code: bits hi and lo, reset value, ranges, multiple. -/

def ro (hi lo rst : Nat) : FieldDef := ⟨hi, lo, .ro, rst, [], 1⟩
def rw (hi lo rst : Nat) : FieldDef := ⟨hi, lo, .rw, rst, [], 1⟩
def rwr (hi lo rst : Nat) (ranges : List (Nat × Nat)) : FieldDef := ⟨hi, lo, .rw, rst, ranges, 1⟩
def rwm (hi lo rst mult : Nat) (ranges : List (Nat × Nat)) : FieldDef := ⟨hi, lo, .rw, rst, ranges, mult⟩
def wo (hi lo : Nat) : FieldDef := ⟨hi, lo, .wo, 0, [], 1⟩
def w1c (hi lo rst : Nat) : FieldDef := ⟨hi, lo, .w1c, rst, [], 1⟩
def w1s (hi lo rst : Nat) : FieldDef := ⟨hi, lo, .w1s, rst, [], 1⟩
def rs (hi lo rst : Nat) : FieldDef := ⟨hi, lo, .rs, rst, [], 1⟩

/-- One register. -/
def reg (a : Nat) (name : String) (fs : List FieldDef) : RegDef := ⟨a, 4, 1, name, fs, .single⟩
/-- An array of registers. -/
def regs (a stride count : Nat) (name : String) (fs : List FieldDef) : RegDef := ⟨a, stride, count, name, fs, .single⟩
def pairLo (a stride count : Nat) (name : String) : RegDef := ⟨a, stride, count, name, [rs 31 0 0], .lo⟩
def pairHi (a stride count : Nat) (name : String) : RegDef := ⟨a, stride, count, name, [ro 31 0 0], .hi⟩
def pairRwLo (a stride count : Nat) (name : String) : RegDef := ⟨a, stride, count, name, [rw 31 0 0], .rwLo⟩
def pairRwHi (a stride count : Nat) (name : String) : RegDef := ⟨a, stride, count, name, [rw 31 0 0], .rwHi⟩

/-- Reset/boot and OTP, 0x0001_0000 and 0x0002_0000 (Tables 3.12–3.14, the tables of R132 and Table 4.11).
DIE_HOLD's reset value and writable bits follow the part (R102). -/
def regsBoot : List RegDef :=
  [ reg 0x00000000 "CHIP_ID" [ro 31 0 0],
    reg 0x00010000 "BOOT_STATUS" [ro 31 0 0],
    reg 0x00010004 "RESET_CAUSE" [w1c 9 0 0],
    reg 0x00010008 "RESET_CTRL" [wo 31 0],
    reg 0x0001000C "BOOT_SKIP" [rw 0 0 0, rw 1 1 0],
    reg 0x00010010 "DIE_STATE" [ro 31 0 0],
    reg 0x00010014 "SITE_READ" [ro 15 0 0],
    reg 0x00010018 "LINK_SUMMARY" [ro 29 0 0],
    reg 0x0001001C "DIE_HOLD" [rw 1 1 1, rw 4 4 1, rw 5 5 1, rw 6 6 1, rw 7 7 1],
    reg 0x00010020 "ACTIVE_IMAGE" [ro 31 0 0],
    reg 0x00010024 "ACTIVE_REC" [ro 16 0 0, ro 31 24 0],
    reg 0x00010028 "ACTIVE_ROLLBACK" [ro 31 0 0],
    reg 0x0001002C "BOOT_TIME_MS" [ro 31 0 0],
    reg 0x00010030 "WDT_CTRL" [rwr 15 0 0x7D0 [(100, 10000)], rw 16 16 0],
    reg 0x00010034 "WDT_KICK" [wo 31 0],
    reg 0x00010038 "WDT_RECENT" [ro 1 0 0],
    reg 0x00020000 "LC_STATUS" [ro 5 0 0, ro 12 8 16, ro 23 16 0],
    reg 0x00020004 "OTP_LOCK" [w1s 2 0 0, w1s 5 4 0, w1s 7 7 0, w1s 12 12 0, w1s 15 15 0],
    reg 0x00020008 "OTP_CMD" [wo 31 0],
    pairRwLo 0x0002000C 8 1 "OTP_DATA_LO", pairRwHi 0x00020010 8 1 "OTP_DATA_HI",
    reg 0x00020014 "OTP_STATUS" [ro 0 0 0, w1c 1 1 0, w1c 2 2 0, ro 15 8 0, ro 23 16 0],
    pairLo 0x00020018 8 1 "OTP_WEAK_LO", pairHi 0x0002001C 8 1 "OTP_WEAK_HI",
    reg 0x00020020 "OTP_COND" [ro 2 0 0],
    reg 0x00020024 "ROLLBACK_STATUS" [ro 26 0 0],
    reg 0x00020028 "ROLLBACK_CTRL" [rw 0 0 1],
    reg 0x0002002C "POLICY_EFF" [ro 9 0 0],
    regs 0x00020040 4 16 "OTP_REDIR" [ro 11 0 0],
    pairLo 0x00021000 8 512 "OTP_ROW_LO", pairHi 0x00021004 8 512 "OTP_ROW_HI" ]

/-- Power and seasons, 0x0003_0000 (Tables of SEASON_STATUS and SLACK_CTRL, Table 21.11). -/
def regsPower : List RegDef :=
  [ reg 0x00030000 "SEASON_STATUS" [ro 2 0 1, ro 13 3 0, ro 27 16 0],
    reg 0x00030004 "SLACK_CTRL" [rw 0 0 1, rwr 15 8 64 [(1, 128)], rwm 23 16 20 5 [(5, 50)], rwm 31 24 5 5 [(5, 25)]],
    reg 0x00030008 "SEASON_CMD" [wo 31 0],
    reg 0x0003000C "VCORE_SET" [rwm 9 0 750 5 [(500, 850)]],
    reg 0x00030010 "VCORE_CAP" [rwr 9 0 850 [(600, 850)]],
    reg 0x00030014 "VCORE_FLOOR" [rwr 9 0 600 [(500, 750)]],
    reg 0x00030018 "VCORE_WINTER" [rwr 9 0 550 [(500, 650)]],
    reg 0x0003001C "DOWN_EPOCHS" [rwr 31 0 250 [(10, 65535)]],
    reg 0x00030020 "VCORE_NOW" [ro 9 0 0, ro 25 16 0],
    reg 0x00030024 "VCORE_IOUT" [ro 31 0 0],
    reg 0x00030028 "PWR_VCORE" [ro 31 0 0],
    reg 0x0003002C "PWR_1S" [ro 31 0 0],
    reg 0x00030030 "PWR_CAP" [rwr 31 0 0 [(0, 0), (5000, 40000)]],
    reg 0x00030034 "AUX_MW" [rw 15 0 700, rw 31 16 300],
    pairLo 0x00030038 8 1 "ENERGY_LO", pairHi 0x0003003C 8 1 "ENERGY_HI",
    regs 0x00030040 4 8 "TJ" [ro 15 0 0, ro 17 16 0],
    reg 0x00030060 "TJ_PEAK" [ro 15 0 0, ro 19 16 0],
    reg 0x00030064 "WINTER_WIN" [rwr 10 0 0 [(0, 1439)], rwr 26 16 0 [(10, 1439)], rw 31 31 0],
    reg 0x00030068 "WAKE_HOLD_MIN" [rwr 31 0 15 [(1, 255)]],
    reg 0x0003006C "SEASON_CHANGES" [ro 31 0 0],
    regs 0x00030070 4 3 "AUTUMN_EPOCHS" [ro 31 0 0],
    reg 0x0003007C "VCORE_STEPS" [ro 31 0 0],
    regs 0x00030080 4 3 "PD_STATE" [ro 31 0 0],
    regs 0x00030090 4 3 "PD_FAULT" [ro 31 0 0] ]

/-- Timebase and launch, 0x0004_0000 (Tables 2.12–2.15); the launch banks at +0x8000 are read through
`launchBankWord` (R68). -/
def regsTimebase : List RegDef :=
  [ reg 0x00040000 "TB_CTRL" [rwr 1 0 0 [(0, 2)], rw 2 2 0, rw 3 3 1, rwr 15 8 30 [(1, 255)]],
    reg 0x00040004 "TB_STATUS" [ro 6 0 0],
    pairLo 0x00040008 8 1 "LTIME_LO", pairHi 0x0004000C 8 1 "LTIME_HI",
    pairLo 0x00040010 8 1 "PTP_OFFSET_LO", pairHi 0x00040014 8 1 "PTP_OFFSET_HI",
    reg 0x00040018 "TB_RATE" [ro 31 0 0],
    reg 0x0004001C "TB_STEP_THRESH" [rwr 31 0 1000 [(10, 1000000)]],
    reg 0x00040020 "TB_SLEW_MAX" [rwr 31 0 100 [(1, 500)]],
    reg 0x00040024 "EPOCH_PERIOD" [rwr 31 0 40000 [(16667, 1000000)]],
    reg 0x00040028 "EQX_GUARD" [rwr 31 0 1000 [(200, 5000)]],
    reg 0x0004002C "EPOCH_NOW" [ro 31 0 0],
    reg 0x00040030 "EPOCH_STATUS" [ro 4 0 0, ro 31 16 0],
    reg 0x00040034 "LATE_COUNT" [ro 31 0 0],
    reg 0x00040038 "DEGRADED_COUNT" [ro 31 0 0],
    reg 0x0004003C "PARTIAL_COUNT" [ro 31 0 0],
    regs 0x00040040 4 16 "LAT_COMP" [ro 11 0 0, ro 27 16 0],
    reg 0x00040080 "LT_BANK" [ro 1 0 0],
    reg 0x00040084 "LT_SWITCH_EPOCH" [rw 31 0 0],
    reg 0x00040088 "SYNC_DELAY" [rw 15 0 0] ]

/-- Harvest registers, 0x0004_0400 (Tables of HV_CTRL, HV_STATUS, HV_CMD and Table 14.9).  A reset of
HV_STEPS, HV_PASSES and HV_BATCH is the image's value; 0 here stands for it (R442). -/
def regsHarvest : List RegDef :=
  [ reg 0x00040400 "HV_CTRL" [rw 0 0 0, rw 1 1 0, rw 2 2 1, rw 3 3 0, rw 4 4 1, rw 5 5 1],
    reg 0x00040404 "HV_STATUS" [ro 9 0 0, ro 11 10 3, ro 15 12 0],
    reg 0x00040408 "HV_CMD" [wo 31 0],
    reg 0x0004040C "HV_WIN" [rwr 10 0 0 [(0, 1439)], rwr 26 16 0 [(10, 720)]],
    reg 0x00040410 "HV_SCHED" [rw 31 0 0],
    reg 0x00040414 "HV_SCHED_LEN" [rwr 31 0 90000 [(250, 1080000)]],
    reg 0x00040418 "HV_MARGIN" [rwr 31 0 50 [(0, 1000)]],
    reg 0x0004041C "HV_STEPS" [rwr 31 0 0 [(1, 255)]],
    reg 0x00040420 "HV_PASSES" [rwr 31 0 0 [(1, 1000)]],
    reg 0x00040424 "HV_BATCH" [rwm 31 0 0 32 [(32, 1024)]],
    reg 0x00040428 "HV_MIN_EX" [rwr 31 0 4096 [(512, 65536)]],
    reg 0x0004042C "HV_VAL_STRIDE" [rwr 31 0 8 [(4, 64)]],
    reg 0x00040430 "HV_CKPT_EPOCHS" [rwr 31 0 250 [(50, 65535)]],
    regs 0x00040434 4 5 "HV_LR, _BETA1, _BETA2, _EPS, _WD" [rw 31 0 0],
    reg 0x00040448 "HV_TOP1" [ro 31 0 0],
    reg 0x0004044C "HV_EX_TOTAL" [ro 31 0 0],
    reg 0x00040450 "HV_STEP" [ro 31 0 0],
    reg 0x00040454 "HV_CLIP" [ro 31 0 0],
    reg 0x00040458 "HV_SESSION" [ro 31 0 0] ]

/-- Network and BCP, 0x0005_0000 and 0x0006_0000 (Tables of NET_CTRL, NET_STATUS, OWNER_STATUS and
Table 15.12). -/
def regsNetwork : List RegDef :=
  [ reg 0x00050000 "NET_CTRL" [rw 0 0 0, rw 1 1 1, rw 2 2 1, rw 3 3 1, rw 4 4 1, rw 5 5 1, rw 6 6 1, rw 7 7 0, rw 14 8 0],
    reg 0x00050004 "NET_STATUS" [ro 0 0 0, ro 1 1 0, ro 2 2 0, ro 3 3 0, ro 5 4 0, ro 7 6 3],
    regs 0x00050008 4 3 "NET_IP, NET_MASK, NET_GW" [ro 31 0 0],
    regs 0x00050014 4 3 "NET_STATIC_IP, _MASK, _GW" [rw 31 0 0],
    pairLo 0x00050020 8 1 "NET_MAC_LO", pairHi 0x00050024 8 1 "NET_MAC_HI",
    regs 0x00050028 4 3 "NET_PVID" [rwr 11 0 1 [(1, 4094)]],
    regs 0x00050040 4 3 "NET_RX" [ro 31 0 0],
    reg 0x00050050 "NET_ERR" [ro 31 0 0],
    reg 0x00050054 "NET_LINKCHG" [ro 31 0 0],
    reg 0x00050060 "PTP_PORTS" [ro 3 0 0, ro 15 8 0],
    regs 0x00050064 4 2 "PTP_PDELAY" [ro 31 0 0],
    pairLo 0x00050070 8 1 "PTP_GM_LO", pairHi 0x00050074 8 1 "PTP_GM_HI",
    reg 0x00060000 "BCP_CTRL" [rw 0 0 1],
    reg 0x00060004 "OWNER_STATUS" [ro 21 0 0],
    pairLo 0x00060008 8 1 "OWNER_ID_LO", pairHi 0x0006000C 8 1 "OWNER_ID_HI",
    reg 0x00060010 "OWNER_LEASE" [ro 31 0 0],
    pairLo 0x00060014 8 1 "SUCCESSOR_LO", pairHi 0x00060018 8 1 "SUCCESSOR_HI",
    reg 0x0006001C "BCP_MSGS" [ro 31 0 0],
    reg 0x00060020 "BCP_AUTH_FAIL" [ro 31 0 0],
    reg 0x00060024 "BCP_DROPS" [ro 31 0 0],
    reg 0x00060028 "OWNER_CHANGES" [ro 31 0 0],
    reg 0x0006002C "CFG_RUNTIME" [ro 11 0 0],
    reg 0x00060040 "SWITCH_STATUS" [ro 31 0 0],
    reg 0x00060044 "STAGE_STATUS" [ro 31 0 0] ]

/-- Record builder and peers, 0x0007_0000 (Tables of REC_CTRL, REC_STATUS, PEER_CTRL and Table 16.9). -/
def regsRecords : List RegDef :=
  [ reg 0x00070000 "REC_CTRL" [rw 0 0 1, rw 1 1 0, rw 2 2 1, rw 3 3 1, rw 4 4 1, rwr 14 8 75 [(1, 100)], rwr 23 16 1 [(1, 255)]],
    reg 0x00070004 "REC_STATUS" [ro 12 0 0],
    reg 0x00070008 "REC_GROUP" [rw 31 0 0xEFFF4D14],
    regs 0x0007000C 4 2 "REC_UNICAST" [rw 31 0 0],
    reg 0x00070014 "REC_BUDGET" [rwr 31 0 65536 [(4096, 65536)]],
    reg 0x00070018 "ROI_MAX_BYTES" [rwr 31 0 16384 [(2048, 32768)]],
    reg 0x0007001C "REC_GAP" [rwr 31 0 150 [(50, 10000)]],
    reg 0x00070020 "REC_SEQ" [ro 15 0 0],
    reg 0x00070024 "REC_USED" [ro 31 0 0],
    reg 0x00070028 "REC_ARRIVED" [ro 31 0 0],
    pairLo 0x00070030 8 1 "REC_SENT_LO", pairHi 0x00070034 8 1 "REC_SENT_HI",
    reg 0x00070038 "REC_DROPPED" [ro 31 0 0],
    reg 0x0007003C "REC_DGRAMS" [ro 31 0 0],
    reg 0x00070100 "PEER_CTRL" [rw 0 0 1, rw 1 1 0, rwr 15 8 5 [(1, 60)], rwr 23 16 30 [(10, 255)], rwr 31 24 32 [(0, 64)]],
    reg 0x00070104 "PEER_ZONE" [rw 15 0 0],
    regs 0x00070108 4 4 "PEER_ACCEPT" [rw 15 0 0, rw 31 16 0],
    reg 0x00070118 "PEER_GROUP" [rw 31 0 0xEFFF4D15],
    reg 0x0007011C "PEER_STATUS" [ro 6 0 0, ro 14 8 0, ro 31 16 0],
    reg 0x00070120 "PEER_DROP" [ro 15 0 0, ro 31 16 0],
    reg 0x00070124 "PEER_RX" [ro 31 0 0],
    reg 0x00070128 "PEER_TX" [ro 23 0 0, ro 31 24 0],
    regs 0x00071000 4 256 "PEER_TAB" [ro 31 0 0] ]

/-- Audio and listener, 0x0008_0000 (Tables of LST_CTRL, LST_STATUS, MICB_CTRL, ENERGY_CFG and
Table 17.4). -/
def regsAudio : List RegDef :=
  [ reg 0x00080000 "LST_CTRL" [rw 0 0 0, rw 1 1 1, rw 2 2 0, rw 3 3 1, rw 4 4 1, rw 5 5 1, rw 6 6 0, rw 7 7 1, rw 8 8 1, w1s 9 9 0, rw 14 10 0x1F],
    reg 0x00080004 "LST_STATUS" [ro 11 0 0],
    reg 0x00080008 "MICB_CTRL" [rwr 3 0 7 [(0, 13)], rw 4 4 1, rwr 11 8 7 [(0, 13)], rw 12 12 0, rw 19 16 3],
    reg 0x0008000C "PGA_GAIN" [rwr 3 0 8 [(0, 12)], rwr 11 8 8 [(0, 12)]],
    reg 0x00080010 "ENERGY_CFG" [rwr 5 0 18 [(3, 40)], rwr 15 8 20 [(1, 120)], rwr 19 16 3 [(1, 16)], rwr 31 24 5 [(1, 255)]],
    regs 0x00080020 4 4 "PHRASE_THRESH" [rw 7 0 0],
    regs 0x00080030 4 2 "LST_FLOOR" [ro 15 0 0],
    regs 0x00080038 4 2 "LST_LEVEL" [ro 15 0 0],
    regs 0x00080040 4 2 "MICB_I" [ro 11 0 0],
    reg 0x00080048 "LST_WAKES" [ro 31 0 0],
    reg 0x0008004C "LST_SUPPRESSED" [ro 31 0 0],
    reg 0x00080050 "LST_TEST_LEVEL" [ro 31 0 0],
    reg 0x00080054 "LST_FAULTS" [ro 31 0 0] ]

/-- Housekeeping converters, 0x0009_0000 (Tables of HK_CTRL, HK_STATUS, HK_XC_CFG and Table 18.6). -/
def regsHk : List RegDef :=
  [ reg 0x00090000 "HK_CTRL" [rwr 1 0 0 [(0, 2)], rw 2 2 0, rw 3 3 0, rw 4 4 0, rw 5 5 0, rw 6 6 1, rw 10 8 0, rw 14 12 0, rwr 20 16 0 [(0, 23)], rwr 28 24 10 [(0, 23)]],
    reg 0x00090004 "HK_STATUS" [ro 5 0 0, w1c 6 6 0, ro 30 7 0],
    reg 0x00090008 "HK_XC_CFG" [rwr 15 0 1000 [(1, 65535)], rwr 23 16 8 [(1, 255)], rwr 27 24 3 [(1, 15)]],
    reg 0x0009000C "HK_IL_COUNT" [rwr 6 0 64 [(1, 64)]],
    reg 0x00090010 "HK_QMASK" [rw 23 0 0],
    reg 0x00090014 "HK_URGENT" [wo 31 0],
    reg 0x00090018 "HK_URGENT_RES" [ro 31 0 0],
    pairLo 0x0009001C 8 1 "HK_Q_LO", pairHi 0x00090020 8 1 "HK_Q_HI",
    reg 0x00090024 "HK_Q_DROP" [ro 15 0 0],
    reg 0x00090028 "HK_XC_COUNT" [ro 31 0 0],
    reg 0x0009002C "HK_XC_LAST" [ro 11 0 0, ro 27 16 0],
    regs 0x00090040 4 8 "HK_SCANSET_A" [rw 23 0 0, rw 27 24 0],
    regs 0x00090060 4 8 "HK_SCANSET_B" [rw 23 0 0, rw 27 24 0],
    regs 0x00090100 4 24 "HK_LAST" [ro 14 0 0],
    pairLo 0x00090200 8 24 "HK_COUNT_LO", pairHi 0x00090204 8 24 "HK_COUNT_HI",
    regs 0x00090300 4 24 "HK_LIMIT" [rw 11 0 0, rw 27 16 0, rw 31 31 0],
    regs 0x00090380 4 24 "HK_MINMAX" [ro 27 0 0xFFF],
    reg 0x000903F0 "HK_MM_CLR" [wo 31 0],
    reg 0x000903F4 "HK_LIMIT_HIT" [w1c 23 0 0],
    regs 0x00090400 4 48 "HK_TRIM_OVR" [rw 7 0 0, rw 15 8 0, rw 16 16 0] ]

/-- Field outputs, tamper and buses, 0x000A_0000, 0x000B_0000 and 0x000C_0000 (Tables of FO_FAULT and
TMP_STATUS, Table 19.7). -/
def regsField : List RegDef :=
  [ regs 0x000A0000 4 4 "FO_CFG" [rw 0 0 1, rw 4 1 0, rw 5 5 0],
    reg 0x000A0010 "FO_PAIR" [rw 1 0 0],
    reg 0x000A0014 "FO_OUT" [rw 3 0 0],
    reg 0x000A0018 "FO_PIN" [ro 15 0 0],
    reg 0x000A001C "FO_FAULT" [w1c 6 0 0, w1c 14 8 0, w1c 22 16 0, w1c 30 24 0],
    reg 0x000A0020 "FO_UVLO" [ro 0 0 0, ro 31 16 0],
    reg 0x000A0024 "FO_LATCHES" [ro 7 0 0, ro 31 16 0],
    reg 0x000B0000 "TMP_CTRL" [rw 0 0 1, rw 1 1 1, rw 2 2 1, rw 3 3 1],
    reg 0x000B0004 "TMP_STATUS" [ro 7 0 0],
    reg 0x000B0008 "TMP_CMD" [wo 31 0],
    reg 0x000B000C "TMP_THRESH" [rwr 15 0 50 [(10, 10000)], rwr 31 16 25 [(5, 9999)]],
    reg 0x000B0010 "TMP_TIME" [rwr 7 0 10 [(1, 255)], rwr 31 16 600 [(60, 3600)]],
    regs 0x000B0020 4 2 "TMP_C" [ro 31 0 0],
    regs 0x000B0028 4 2 "TMP_B" [ro 31 0 0],
    regs 0x000B0030 4 2 "TMP_MODOFF" [rw 31 0 0],
    regs 0x000B0038 4 2 "TMP_OCC_S" [ro 31 0 0],
    reg 0x000B0040 "TMP_EVENTS" [ro 31 0 0],
    reg 0x000C0000 "I2C_CFG" [rwr 6 0 0x3A [(0x08, 0x77)], rw 7 7 1, rwr 9 8 0 [(0, 2)], rw 10 10 0],
    reg 0x000C0004 "I2CM_XFER" [wo 31 0],
    reg 0x000C0008 "I2CM_STATUS" [ro 7 0 0, ro 31 16 0],
    regs 0x000C0010 4 8 "I2CM_TX" [rw 31 0 0],
    regs 0x000C0030 4 8 "I2CM_RX" [ro 31 0 0],
    reg 0x000C0100 "PM_CFG" [rwr 1 0 1 [(0, 2)], rw 2 2 1],
    reg 0x000C0104 "PM_STATUS" [ro 16 0 0, ro 31 24 0],
    reg 0x000C0200 "QSPI_INFO" [ro 23 0 0],
    reg 0x000C0204 "QSPI_ERR" [ro 31 0 0],
    regs 0x000C0300 4 8 "GPIO_CFG" [rwr 1 0 0 [(0, 2)], rwr 3 2 0 [(0, 2)], rw 5 4 0, rw 6 6 0],
    reg 0x000C0320 "GPIO_OUT" [rw 7 0 0],
    reg 0x000C0324 "GPIO_IN" [ro 7 0 0],
    reg 0x000C0328 "GPIO_EVT" [w1c 7 0 0, ro 31 16 0],
    pairLo 0x000C0340 8 8 "GPIO_TS_LO", pairHi 0x000C0344 8 8 "GPIO_TS_HI" ]

/-- Check units and trouble log, 0x000D_0000 and 0x000E_0000 (Tables of CV_CTRL, CV_STATUS,
LOG_CTRL, LOG_STATUS and Table 20.7). -/
def regsCheckLog : List RegDef :=
  [ regs 0x000D0000 0x100 4 "CV_CTRL" [rw 1 0 0, rw 2 2 0, rw 3 3 0, wo 4 4, wo 5 5, wo 6 6, rw 7 7 0],
    regs 0x000D0004 0x100 4 "CV_STATUS" [ro 0 0 0, w1c 1 1 0, w1c 2 2 0, ro 4 3 0, w1c 5 5 0, w1c 6 6 0],
    regs 0x000D0008 0x100 4 "CV_STATE" [rw 31 0 0],
    regs 0x000D000C 0x100 4 "CV_RESULT" [ro 31 0 0],
    regs 0x000D0010 0x100 4 "CV_EXPECT" [rw 31 0 0],
    regs 0x000D0014 0x100 4 "CV_DATA8" [wo 31 0],
    regs 0x000D0018 0x100 4 "CV_DATA16" [wo 31 0],
    regs 0x000D001C 0x100 4 "CV_DATA32" [wo 31 0],
    regs 0x000D0020 0x100 4 "CV_SRC" [rw 31 0 0],
    regs 0x000D0024 0x100 4 "CV_LEN" [rwr 22 0 0 [(1, 0x400000)]],
    regs 0x000D0028 0x100 4 "CV_BYTES" [ro 31 0 0],
    regs 0x000D002C 0x100 4 "CV_MISMATCHES" [ro 15 0 0],
    reg 0x000D0400 "CV_IRQ" [w1c 3 0 0],
    reg 0x000E0000 "LOG_CTRL" [rw 0 0 0, rw 2 1 0, rw 15 8 16],
    reg 0x000E0004 "LOG_STATUS" [ro 10 0 0],
    reg 0x000E0008 "LOG_TOTAL" [ro 31 0 0],
    reg 0x000E000C "LOG_OLDEST" [ro 31 0 0],
    reg 0x000E0010 "LOG_DROPPED" [ro 31 0 0],
    reg 0x000E0014 "LOG_FILTERED" [ro 31 0 0],
    reg 0x000E0018 "LOG_FREEZE_IDX" [ro 31 0 0],
    reg 0x000E001C "LOG_FROZEN_DROP" [ro 31 0 0],
    reg 0x000E0020 "LOG_CMD" [wo 31 0],
    reg 0x000E0024 "LOG_RD_IDX" [rw 31 0 0],
    regs 0x000E0040 4 8 "LOG_RD_DATA" [rs 31 0 0] ]

/-- One EDL port block, by offset (Table 24.5; the tables of R158, R160, R195, R197). -/
def regsPort : List RegDef :=
  [ reg 0x000 "EDL_PHY_STATUS" [ro 31 0 0],
    reg 0x004 "EDL_PHY_CTRL" [wo 0 0, rw 1 1 0],
    regs 0x010 4 2 "EDL_MAP_TX" [ro 31 0 0],
    regs 0x018 4 2 "EDL_MAP_RX" [ro 31 0 0],
    pairLo 0x020 8 2 "EDL_FAIL_RX_LO", pairHi 0x024 8 2 "EDL_FAIL_RX_HI",
    regs 0x030 4 2 "EDL_FAIL_AUX_RX" [ro 5 0 0],
    regs 0x038 4 2 "EDL_EYE_RX" [ro 7 0 0, ro 14 8 0, ro 23 16 0],
    reg 0x040 "SB_STATUS" [ro 15 0 0, ro 17 16 0, ro 18 18 0, ro 31 24 0],
    reg 0x100 "EDL_LINK_STATUS" [ro 31 0 0],
    reg 0x104 "EDL_LINK_CTRL" [wo 0 0, rwr 13 8 8 [(2, 63)]],
    reg 0x108 "EDL_PARTNER" [ro 31 0 0],
    regs 0x110 4 6 "EDL_CREDIT" [ro 23 0 0],
    reg 0x130 "EDL_CRC_FAIL" [ro 31 0 0],
    reg 0x134 "EDL_REPLAY_TO_COUNT" [ro 31 0 0],
    reg 0x138 "EDL_NAK_COUNT" [ro 31 0 0],
    reg 0x13C "EDL_DROP" [ro 31 0 0],
    pairLo 0x140 8 1 "EDL_GOOD_LO", pairHi 0x144 8 1 "EDL_GOOD_HI",
    pairLo 0x148 8 1 "EDL_SENT_LO", pairHi 0x14C 8 1 "EDL_SENT_HI",
    reg 0x150 "EDL_UNACKED" [ro 9 0 0],
    reg 0x154 "EDL_LEC_MAX" [ro 8 0 0] ]

/-- EDL_ROUTE[d] (Table 6.11), by offset from the die's route table. -/
def regsRoute : List RegDef :=
  [ regs 0x000 4 16 "EDL_ROUTE" [rw 2 0 0, rw 3 3 0, rw 6 4 0, rw 7 7 0, ro 8 8 0] ]

/-- EYE sensor, 0x0100_0000 (Tables 8.7–8.9). -/
def regsSensor : List RegDef :=
  [ reg 0x01000000 "SENS_CTRL" [rw 0 0 0, rw 1 1 0, rw 3 2 0, rwr 6 4 0 [(0, 4)], rw 7 7 1, rw 8 8 1],
    reg 0x01000004 "SENS_STATUS" [ro 24 0 0],
    reg 0x01000008 "EXP_TIME" [rwr 31 0 4000000 [(10000, 100000000)]],
    reg 0x0100000C "EXP_HDR" [rw 15 0 4000, rw 31 16 500],
    reg 0x01000010 "EXP_MAX" [rwr 31 0 10000 [(200, 100000)]],
    reg 0x01000014 "READOUT_CLKS" [rwr 31 0 384000 [(381920, 1000000)]],
    reg 0x01000018 "READOUT_CLKS_HDR" [rwr 31 0 768000 [(763840, 2000000)]],
    reg 0x0100001C "HDR_KNEE" [rwr 11 0 3840 [(1024, 4095)]],
    reg 0x01000020 "HDR_PEDESTAL" [rwr 11 0 64 [(0, 255)]],
    reg 0x01000024 "EXP_LAST" [ro 31 0 0],
    reg 0x01000028 "EXP_LAST_HDR" [ro 15 0 0, ro 18 16 0],
    reg 0x0100002C "FRAME_COUNT" [ro 31 0 0],
    reg 0x01000030 "MISSING_COUNT" [ro 31 0 0],
    reg 0x01000034 "TEMP_DEFECT_TJ" [rwr 31 0 85 [(40, 105)]],
    reg 0x01000038 "DEFECT_DROP" [ro 31 0 0],
    regs 0x01000100 4 64 "FIELD_DEFECT" [rw 27 0 0] ]

/-- ISP and statistics, 0x0101_0000 and 0x0102_0000 (Tables of ISP_CTRL, ISP_STATUS, STREAM_CFG and
Table 9.6).  The tone tables at 0x0101_1000 have their reset from R269. -/
def regsIsp : List RegDef :=
  [ reg 0x01010000 "ISP_CTRL" [rwr 1 0 2 [(0, 2)], rw 2 2 1, rw 3 3 1, rw 4 4 1, rw 5 5 1, rw 6 6 1, rw 7 7 1, rw 8 8 0, rw 31 31 0],
    reg 0x01010004 "ISP_STATUS" [ro 14 0 0],
    reg 0x01010008 "FRAME_TIMEOUT" [rwr 31 0 20000 [(5000, 100000)]],
    reg 0x0101000C "ROW_SHIFT" [rw 2 0 4],
    regs 0x01010010 4 4 "BL_FIXED" [rw 15 0 0x400],
    reg 0x01010020 "BL_RANGE" [rw 11 0 0x10, rw 27 16 0x100],
    reg 0x01010024 "DYN_THRESH" [rw 15 0 4096],
    reg 0x01010028 "EDGE_T" [rw 15 0 256],
    regs 0x01010030 4 3 "WB_GAIN" [rw 15 0 0x1000],
    regs 0x01010040 16 3 "CCM (diagonal)" [rw 15 0 0x1000],
    regs 0x01010044 4 3 "CCM" [rw 15 0 0],
    regs 0x01010054 4 3 "CCM" [rw 15 0 0],
    regs 0x01010070 4 3 "CCM_OFF" [rw 15 0 0],
    reg 0x01010080 "STREAM_CFG[0]" [rw 0 0 1, rwr 3 1 4 [(0, 4)], rwr 5 4 2 [(0, 2)], rwr 11 8 4 [(0, 0), (4, 7)], rw 23 16 0],
    reg 0x01010084 "STREAM_CFG[1]" [rw 0 0 0, rwr 3 1 4 [(0, 4)], rwr 5 4 2 [(0, 2)], rwr 11 8 4 [(0, 0), (4, 7)], rw 23 16 1],
    regs 0x01010090 4 4 "BL_MEAS" [ro 15 0 0],
    reg 0x010100A0 "DYN_COUNT" [ro 31 0 0],
    reg 0x010100A4 "DPC_UNFIXED" [ro 31 0 0],
    reg 0x010100A8 "BAND_COUNT" [ro 31 0 0],
    reg 0x010100AC "HOLD_SKIPS" [ro 31 0 0],
    regs 0x01011000 4 512 "TONE_LUT[0]" [rw 15 0 0, rw 31 16 0],
    regs 0x01012000 4 512 "TONE_LUT[1]" [rw 15 0 0, rw 31 16 0],
    regs 0x01013000 4 512 "TONE_LUT[2]" [rw 15 0 0, rw 31 16 0],
    regs 0x01011800 0x1000 3 "TONE_LUT (entry 1024)" [rw 15 0 0],
    reg 0x01020000 "STAT_CTRL" [rw 0 0 1, rwr 2 1 0 [(0, 2)]],
    reg 0x01020004 "STAT_SAT" [rw 15 0 65024] ]

/-- One cluster block, by offset from CDn + k·0x0010_0000 (Tables 10.7, 11.5 and CL_CTRL). -/
def regsCluster : List RegDef :=
  [ reg 0x000 "CL_CTRL" [rw 0 0 1, rw 1 1 1, rwr 31 16 200 [(20, 10000)]],
    reg 0x004 "CL_STATUS" [ro 23 0 0],
    pairLo 0x008 8 1 "CL_STEPS_LO", pairHi 0x00C 8 1 "CL_STEPS_HI",
    reg 0x010 "CL_SPEED" [ro 31 0 0],
    reg 0x014 "CL_EP_BUSY" [ro 31 0 0],
    reg 0x018 "CL_EP_WAIT" [ro 31 0 0],
    reg 0x01C "CL_EP_LATE" [ro 31 0 0],
    reg 0x020 "CL_ACC_SAT" [ro 31 0 0],
    reg 0x040 "LFSR_SEED" [rwr 31 0 1 [(1, 0xFFFFFFFF)]],
    reg 0x044 "XCLIP" [ro 31 0 0],
    reg 0x048 "XNAN" [ro 31 0 0],
    reg 0x04C "OUT_SAT" [ro 31 0 0] ]

/-- Placement, halo, compression and monitoring registers of a compute die, by offset from CDn
(Tables 10.7, 11.5 and 12.4). -/
def regsPlacement : List RegDef :=
  [ reg 0x00400200 "PLC_STATUS" [ro 11 0 0],
    reg 0x00400204 "PLC_ABORTS" [ro 31 0 0],
    reg 0x00400208 "PLC_HANDOVER" [ro 31 0 0],
    reg 0x00400300 "HALO_STATUS" [ro 21 0 0],
    regs 0x00400304 4 5 "HALO_SENT, _COMMITS, _IMPLICIT, _REVOKES, _DISCARD" [ro 31 0 0],
    pairLo 0x00400318 8 1 "COMP_BLOCKS_LO", pairHi 0x0040031C 8 1 "COMP_BLOCKS_HI",
    reg 0x00400320 "COMP_MAXERR" [ro 31 0 0],
    reg 0x00400324 "COMP_CTRL" [rw 0 0 1, rw 1 1 1],
    reg 0x00400800 "Q_CTRL" [rw 0 0 1, rw 1 1 1, rw 2 2 1, rw 15 8 4],
    regs 0x00401000 32 64 "QMON_CFG" [rw 0 0 0, rwr 4 1 0 [(0, 8)], rw 6 5 0, rw 15 8 0, rw 31 16 0],
    regs 0x00401004 32 64 "QMON_SQNR" [ro 31 0 0x8000],
    pairLo 0x00401008 32 64 "QMON_ERR_LO", pairHi 0x0040100C 32 64 "QMON_ERR_HI",
    pairLo 0x00401010 32 64 "QMON_SIG_LO", pairHi 0x00401014 32 64 "QMON_SIG_HI",
    regs 0x00401018 32 64 "QMON_MAX" [ro 31 0 0],
    regs 0x0040101C 32 64 "QMON_EVT" [ro 31 0 0] ]

/-- Fabric and scrub registers of a compute die, by offset from CDn (the tables of R224 and Table 7.5). -/
def regsFabric : List RegDef :=
  [ reg 0x00400000 "FAB_CTRL" [rw 0 0 0, rw 1 1 1, rw 2 2 1],
    reg 0x00400004 "FAB_RESET" [wo 0 0, wo 31 16],
    reg 0x00400008 "FAB_STATUS" [ro 0 0 0, ro 1 1 1, ro 25 2 0],
    reg 0x0040000C "FAB_READ_TO" [rwr 7 0 20 [(2, 255)]],
    pairLo 0x00400010 8 1 "RC_HIT_LO", pairHi 0x00400014 8 1 "RC_HIT_HI",
    pairLo 0x00400018 8 1 "RC_MISS_LO", pairHi 0x0040001C 8 1 "RC_MISS_HI",
    reg 0x00400020 "FAB_DISCARD" [ro 31 0 0],
    reg 0x00400024 "FAB_LOST" [ro 31 0 0],
    reg 0x00400028 "FAB_HELD_VIOL" [ro 31 0 0],
    reg 0x0040002C "FAB_HELD_ADDR" [ro 31 0 0],
    reg 0x00400030 "FAB_ECC" [ro 31 0 0],
    reg 0x00400100 "SCRUB_CTRL" [rw 0 0 0, rw 1 1 0, rwr 31 16 64 [(1, 65535)]],
    reg 0x00400104 "SCRUB_STATUS" [ro 6 0 0, ro 13 8 0, ro 31 16 0],
    regs 0x00400400 16 64 "SEG_BASE" [rwm 31 0 0 64 []],
    regs 0x00400404 16 64 "SEG_LEN" [rwm 27 0 0 64 [], rw 30 30 0, rw 31 31 0],
    regs 0x00400408 16 64 "SEG_CRC" [rw 31 0 0] ]

/-- Detect unit registers, by offset from CDn (R412, Table 13.10). -/
def regsDetect : List RegDef :=
  [ reg 0x00600000 "DET_CTRL" [rw 0 0 1],
    reg 0x00600004 "DET_STATUS" [ro 7 0 0],
    reg 0x00600008 "DET_COUNTS" [ro 31 0 0],
    reg 0x0060000C "DET_DROP" [ro 31 0 0],
    reg 0x00600010 "DET_STEPS" [ro 31 0 0],
    reg 0x00600014 "DET_LISTS" [ro 31 0 0],
    reg 0x00600020 "TRK_STATUS" [ro 31 0 0],
    reg 0x00600024 "TRK_NEXT_ID" [ro 31 0 0] ]

/-- Egress guard, 0x0103_0000 (R412, Table 13.10). -/
def regsGuard : List RegDef :=
  [ reg 0x01030000 "EG_CTRL" [rw 0 0 1, rw 1 1 1, rwr 4 2 4 [(0, 4)], rw 6 5 0],
    reg 0x01030004 "EG_STATUS" [ro 18 0 0],
    reg 0x01030008 "EG_BUDGET" [rwr 31 0 65536 [(0, 65536)]],
    reg 0x0103000C "EG_USED" [ro 31 0 0],
    reg 0x01030010 "EG_REDACT" [rw 23 0 0x808080],
    reg 0x01030014 "EG_REFUSED" [ro 31 0 0],
    reg 0x01030018 "EG_BUDGET_DROP" [ro 31 0 0],
    reg 0x0103001C "EG_CROPS" [ro 31 0 0],
    reg 0x01030020 "ROI_LAST" [ro 5 0 0] ]

/-- The ledger registers of a compute die, by offset from CDn (Table 2.15). -/
def regsLedger : List RegDef :=
  [ reg 0x00700000 "LEDGER_EPOCH" [ro 31 0 0],
    reg 0x00700004 "LEDGER_DIRTY" [ro 11 0 0] ]

/-! ### Finding a register by its address (Table 24.1) -/

/-- The index of an offset in a register array. -/
def RegDef.index? (d : RegDef) (off : Nat) : Option Nat :=
  if d.base ≤ off && (off - d.base) % d.stride == 0 && decide ((off - d.base) / d.stride < d.count)
  then some ((off - d.base) / d.stride) else none

/-- The first register of a table that holds an offset, with its index. -/
def findReg : List RegDef → Nat → Option (RegDef × Nat)
  | [], _ => none
  | d :: ds, off => match d.index? off with
    | some i => some (d, i)
    | none => findReg ds off

/-- The table and the offset in it of an SVC address. -/
def svcTable (a : Nat) : List RegDef × Nat :=
  match a / 0x10000 with
  | 0 | 1 | 2 => (regsBoot, a)
  | 3 => (regsPower, a)
  | 4 => (regsTimebase ++ regsHarvest, a)
  | 5 | 6 => (regsNetwork, a)
  | 7 => (regsRecords, a)
  | 8 => (regsAudio, a)
  | 9 => (regsHk, a)
  | 0xA | 0xB | 0xC => (regsField, a)
  | 0xD | 0xE => (regsCheckLog, a)
  | 0xF => if a % 0x10000 < 0x2000 then (regsPort, a % 0x1000)
           else if 0x8000 ≤ a % 0x10000 then (regsRoute, a % 0x8000) else ([], a)
  | _ => ([], a)

/-- The table and the offset in it of an EYE address. -/
def eyeTable (a : Nat) : List RegDef × Nat :=
  match a / 0x10000 with
  | 0x100 => (regsSensor, a)
  | 0x101 | 0x102 => (regsIsp, a)
  | 0x103 => (regsGuard, a)
  | 0x104 => if a % 0x10000 < 0x5000 then (regsPort, a % 0x1000)
             else if 0x8000 ≤ a % 0x10000 then (regsRoute, a % 0x8000) else ([], a)
  | _ => ([], a)

/-- The table and the offset in it of an offset from CDn. -/
def cdTable (off : Nat) : List RegDef × Nat :=
  match off / 0x100000 with
  | 0 | 1 | 2 | 3 => (regsCluster, off % 0x100000)
  | 4 => (regsFabric ++ regsPlacement, off)
  | 5 => if off % 0x100000 < 0x4000 then (regsPort, off % 0x1000)
         else if 0x8000 ≤ off % 0x100000 && off % 0x100000 < 0x8040 then (regsRoute, off % 0x8000) else ([], off)
  | 6 => (regsDetect, off)
  | 7 => (regsLedger, off)
  | _ => ([], off)

/-- The die whose register blocks an address lies in, below the SRAM windows (Table 24.1). -/
def addrDie (a : Nat) : Option Die :=
  if a < 0x01000000 then some .svc
  else if a < 0x02000000 then some .eye
  else if 0x10000000 ≤ a && a < 0x14000000 then some (Die.ofCd ((a - 0x10000000) / 0x01000000))
  else none

/-- Is a die fitted to a part (R32, Table 1.9)? -/
def dieFitted (p : Part) (d : Die) : Bool :=
  match p, d with
  | .bx7710, .cd1 | .bx7710, .cd3 => false
  | _, _ => true

/-- The register at an address with its index in its array; none for an unmapped address (R689, R694). -/
def regAt (p : Part) (a : Nat) : Option (RegDef × Nat) :=
  match addrDie a with
  | none => none
  | some d =>
    if !dieFitted p d then none else
    let t := match d with
      | .svc => svcTable a
      | .eye => eyeTable a
      | _ => cdTable (a % 0x01000000)
    findReg t.1 t.2

/-- A field's value in place. -/
def FieldDef.place (f : FieldDef) (v : Nat) : Nat := (v % 2 ^ (f.hi - f.lo + 1)) * 2 ^ f.lo

/-- The reset word that a register's fields give. -/
def RegDef.resetWord (d : RegDef) : Nat := (d.fields.map fun f => f.place f.reset).sum

/-- The reset value of a register: the fields', but for DIE_HOLD (R102) and the tone tables (R269), whose
entry i is i × 63.75 rounded half up. [DESIGN CHOICE: log 4] -/
def regDefault (p : Part) (a : Nat) : Nat :=
  if a == 0x0001001C && p == .bx7710 then 0x52
  else if 0x01011000 ≤ a && a < 0x01014000 then
    let i := 2 * (a % 0x1000 / 4)
    (i * 255 + 2) / 4 + (if i < 1024 then (((i + 1) * 255 + 2) / 4) * 2 ^ 16 else 0)
  else match regAt p a with
    | some (d, _) => d.resetWord
    | none => 0

/-- Does a field of this access code take part in a write (R4)? -/
def Acc.writable : Acc → Bool
  | .rw | .w1c | .w1s | .wo => true
  | _ => false

/-- Does a value lie in a field's ranges? -/
def FieldDef.inRange (f : FieldDef) (x : Nat) : Bool :=
  f.acc != .rw || ((f.ranges == [] || f.ranges.any fun r => decide (r.1 ≤ x) && decide (x ≤ r.2)) && x % f.mult == 0)

/-- The range check of R4 over a whole word: every writable field in its range. -/
def RegDef.accepts (d : RegDef) (v : Word) : Bool :=
  d.fields.all fun f => f.inRange (wbits v f.hi f.lo)

/-- Does a register have a writable field? -/
def RegDef.writable (d : RegDef) : Bool := d.fields.any fun f => f.acc.writable

/-- The word a register holds after an accepted write: RW fields take the written bits, W1C bits written 1
clear, W1S bits written 1 set, and the others keep theirs (Table 0.4). -/
def RegDef.written (d : RegDef) (old v : Word) : Word :=
  toWord ((d.fields.map fun f =>
    let o := wbits old f.hi f.lo
    let x := wbits v f.hi f.lo
    f.place (match f.acc with
      | .rw => x
      | .w1c => o &&& (2 ^ (f.hi - f.lo + 1) - 1 - x)
      | .w1s => o ||| x
      | _ => o)).sum)

/-- The bits of a register that a read shows: those of its fields, WO fields and reserved bits reading 0
(R3, Table 0.4). -/
def RegDef.shown (d : RegDef) (v : Word) : Word :=
  toWord ((d.fields.map fun f => if f.acc == .wo then 0 else f.place (wbits v f.hi f.lo)).sum)

end Sys2Proof.Machine
end

