-- ==== Sys2Proof/Machine/Ops.lean ====
section
/-! DEFINITION. The named operations every meaning is made of: outcomes, register fields, memory, free values,
outputs, and updates of one unit of State. -/
namespace Sys2Proof.Machine

/-- What a meaning answers. -/
abbrev Res := Host.Outcome State Fault Refusal

/-- The effect of a command whose unit exists; a command that names a unit the part does not have faults. [DESIGN CHOICE: log 2] -/
def onUnit (ok : Bool) (s : State) : Res := if ok then .next s else .fault .noSuchUnit

/-! ### Register fields -/

/-- The value in force of a register, by global address; an unlisted register holds its reset value. -/
def rget (s : State) (a : Nat) : Word := mget (toWord (regDefault s.part a)) s.regs a

/-- The value in force of a register, as a number. -/
def rnat (s : State) (a : Nat) : Nat := (rget s a).toNat

/-- Bits hi..lo of a register in force. -/
def rf (s : State) (a hi lo : Nat) : Nat := wbits (rget s a) hi lo

/-- One bit of a register in force. -/
def rb (s : State) (a i : Nat) : Bool := wbit (rget s a) i

/-- The state with a register in force set. -/
def rput (s : State) (a : Nat) (v : Word) : State :=
  { s with regs := mset (toWord (regDefault s.part a)) s.regs a v }

/-- The state with bits hi..lo of a register in force set. -/
def rputf (s : State) (a hi lo v : Nat) : State :=
  let w := (rget s a).toNat
  rput s a (toWord (w - bits w hi lo * 2 ^ lo + v % 2 ^ (hi - lo + 1) * 2 ^ lo))

/-- The registers whose addresses lie in a range go back to their reset values. -/
def rclear (s : State) (lo hi : Nat) : State :=
  { s with regs := s.regs.filter (fun e => decide (e.1 < lo) || decide (hi ≤ e.1)),
           shadow := s.shadow.filter (fun e => decide (e.1 < lo) || decide (hi ≤ e.1)) }

/-- The value that a register will have when its shadow applies. -/
def rnext (s : State) (a : Nat) : Word :=
  match mfind s.shadow a with
  | some v => v
  | none => rget s a

/-- A write that waits for the equinox. -/
def rshadow (s : State) (a : Nat) (v : Word) : State := { s with shadow := mput s.shadow a v }

/-- The shadows whose addresses lie in a range come into force (R63). -/
def rapply (s : State) (lo hi : Nat) : State :=
  let s' := (s.shadow.filter fun e => decide (lo ≤ e.1) && decide (e.1 < hi)).foldl (fun t e => rput t e.1 e.2) s
  { s' with shadow := s'.shadow.filter fun e => decide (e.1 < lo) || decide (hi ≤ e.1) }

/-! ### Dies and their addresses -/

/-- Is a die fitted (R32)? [DESIGN CHOICE: log 2] -/
def fitted (s : State) (d : Die) : Bool := dieFitted s.part d

/-- Does a compute-die number name a fitted die? [DESIGN CHOICE: log 2] -/
def cdOk (s : State) (cd : Nat) : Bool := decide (cd < 4) && fitted s (Die.ofCd cd)

/-- Does a port exist on a fitted die? [DESIGN CHOICE: log 2] -/
def portOk (s : State) (p : PortId) : Bool := p.valid && fitted s p.die

/-- The base of CDn (Table 24.1). -/
def cdBase (cd : Nat) : Nat := 0x10000000 + cd * 0x01000000

/-- The base of an EDL port block (Table 24.5). -/
def portBase (p : PortId) : Nat :=
  match p.die with
  | .svc => 0x000F0000 + 0x1000 * p.port
  | .eye => 0x01040000 + 0x1000 * p.port
  | d => cdBase (d.cdIdx.getD 0) + 0x00500000 + 0x1000 * p.port

/-- The base of a die's route table (Table 24.5). -/
def routeBase (d : Die) : Nat :=
  match d with
  | .svc => 0x000F8000
  | .eye => 0x01048000
  | _ => cdBase (d.cdIdx.getD 0) + 0x00508000

/-! ### Free values and outputs -/

/-- A value the spec leaves open: the next free value, and the state with the counter moved on. [DESIGN CHOICE: log 5, 15] -/
def fresh (s : State) : Nat × State := (Config.freeNat s.freeIdx, { s with freeIdx := s.freeIdx + 1 })

/-- Something leaves the part. -/
def emit (s : State) (o : Output) : State := { s with out := s.out ++ [o] }

/-- The answer to a register access on the core, I²C or JTAG path; over BCP the request's response carries it. -/
def answer (s : State) (path : Path) (addr : Nat) (st : AccStatus) (lo hi : Word := 0) : State :=
  if path == .bcp then s else emit s (.answer path (toWord addr) st lo hi)

/-! ### Shadows of 64-bit pairs (R6, R8) -/

/-- The place of a path's shadow of a pair, by the address of its LO word. -/
def pairKey (path : Path) (lo : Nat) : Nat := path.idx * 2 ^ 32 + lo

/-- A LO read copies the high word into the path's shadow (R6). -/
def setHiShadow (s : State) (path : Path) (lo : Nat) (hi : Word) : State := { s with loRead := mset 0 s.loRead (pairKey path lo) hi }

/-- What a HI read returns: the path's shadow, 0 with no LO read since reset (R6). -/
def hiShadow (s : State) (path : Path) (lo : Nat) : Word := mget 0 s.loRead (pairKey path lo)

/-! ### Memory (Table 7.1, R230) -/

/-- The canonical form of memory: addresses strictly rising, no entry 0. [DESIGN CHOICE: log 3] -/
abbrev Memory.wf (m : List Host.Cell) : Prop := mwf (0 : Byte) m = true

/-- One byte of memory; an unlisted byte reads 0. [DESIGN CHOICE: log 3] -/
def byteAt (m : List Host.Cell) (a : Nat) : Byte := mget 0 m a

/-- n bytes of memory from an address on. -/
def bytesAt (m : List Host.Cell) : Nat → Nat → List Byte
  | _, 0 => []
  | a, n + 1 => byteAt m a :: bytesAt m (a + 1) n

/-- Memory with bytes stored from an address on. -/
def storeBytes (m : List Host.Cell) : Nat → List Byte → List Host.Cell
  | _, [] => m
  | a, b :: bs => storeBytes (mset 0 m a b) (a + 1) bs

/-- Memory with a range cleared. -/
def clearBytes (m : List Host.Cell) (lo hi : Nat) : List Host.Cell :=
  m.filter fun e => decide (e.1 < lo) || decide (hi ≤ e.1)

/-- n bytes of the part's memory as a little-endian number. -/
def memNat (s : State) (a n : Nat) : Nat := leNat (bytesAt s.mem a n)

/-- The part's memory with bytes stored. -/
def memPut (s : State) (a : Nat) (bs : List Byte) : State := { s with mem := storeBytes s.mem a bs }

/-! ### One unit of State -/

def State.die (s : State) (d : Die) : DieSt := vget s.dies d.idx
def modDie (s : State) (d : Die) (f : DieSt → DieSt) : State := { s with dies := vmod s.dies d.idx f }
def State.port (s : State) (p : PortId) : EdlPort := vget s.ports p.idx
def modPort (s : State) (p : PortId) (f : EdlPort → EdlPort) : State := { s with ports := vmod s.ports p.idx f }
def State.fab (s : State) (cd : Nat) : Fabric := vget s.fabs cd
def modFab (s : State) (cd : Nat) (f : Fabric → Fabric) : State := { s with fabs := vmod s.fabs cd f }
def State.cdie (s : State) (cd : Nat) : Compute := s.comp[cd]?.getD (s.comp[0]'(by decide))
def modComp (s : State) (cd : Nat) (f : Compute → Compute) : State :=
  { s with comp := s.comp.setIfInBounds cd (f (s.cdie cd)) }
def State.cl (s : State) (cd cl : Nat) : Cluster := vget (s.cdie cd).clusters cl
def modCl (s : State) (cd cl : Nat) (f : Cluster → Cluster) : State :=
  modComp s cd fun c => { c with clusters := vmod c.clusters cl f }
def State.detUnit (s : State) (cd : Nat) : DetSt := vget s.det cd
def modDet (s : State) (cd : Nat) (f : DetSt → DetSt) : State := { s with det := vmod s.det cd f }
def State.ledger (s : State) (cd : Nat) : List (Nat × LedgerLine) := vget s.ledgers cd
def modLedger (s : State) (cd : Nat) (f : List (Nat × LedgerLine) → List (Nat × LedgerLine)) : State :=
  { s with ledgers := vmod s.ledgers cd f }
def modEye (s : State) (f : EyeSt → EyeSt) : State := { s with eye := f s.eye }
def modIsp (s : State) (f : IspSt → IspSt) : State := { s with isp := f s.isp }
def modGuard (s : State) (f : GuardSt → GuardSt) : State := { s with guard := f s.guard }
def modHv (s : State) (f : HarvestSt → HarvestSt) : State := { s with hv := f s.hv }
def modNet (s : State) (f : NetSt → NetSt) : State := { s with net := f s.net }
def modBcp (s : State) (f : BcpSt → BcpSt) : State := { s with bcp := f s.bcp }
def modRecs (s : State) (f : RecSt → RecSt) : State := { s with recs := f s.recs }
def modPeers (s : State) (f : PeerSt → PeerSt) : State := { s with peers := f s.peers }
def modLst (s : State) (f : ListenSt → ListenSt) : State := { s with lst := f s.lst }
def modHk (s : State) (f : HkSt → HkSt) : State := { s with hk := f s.hk }
def modFo (s : State) (f : FoSt → FoSt) : State := { s with fo := f s.fo }
def modTmp (s : State) (f : TamperSt → TamperSt) : State := { s with tamper := f s.tamper }
def modBus (s : State) (f : BusSt → BusSt) : State := { s with bus := f s.bus }
def modCv (s : State) (c : Nat) (f : CvCtx → CvCtx) : State := { s with cv := vmod s.cv c f }
def modLog (s : State) (f : LogSt → LogSt) : State := { s with log := f s.log }
def modPower (s : State) (f : PowerSt → PowerSt) : State := { s with power := f s.power }
def modTb (s : State) (f : TbSt → TbSt) : State := { s with tb := f s.tb }
def modSeq (s : State) (f : SeqSt → SeqSt) : State := { s with seqr := f s.seqr }
def modBoot (s : State) (f : BootSt → BootSt) : State := { s with boot := f s.boot }
def modFlash (s : State) (f : FlashSt → FlashSt) : State := { s with flash := f s.flash }
def modStage (s : State) (f : StageSt → StageSt) : State := { s with stage := f s.stage }
def modSwitch (s : State) (f : SwitchSt → SwitchSt) : State := { s with sw := f s.sw }
def modImg (s : State) (f : ImageSt → ImageSt) : State := { s with img := f s.img }
def modAccesses (s : State) (f : List DieAccess → List DieAccess) : State := { s with accesses := f s.accesses }
def modOtp (s : State) (f : OtpSt → OtpSt) : State := { s with otp := f s.otp }

/-- QSPI_ERR counts a program or erase that failed (Table 19.7). -/
def flashFailed (s : State) : State := modBus s fun b => { b with flashFail := satAdd 65535 b.flashFail 1 }

/-- The dies of the part. -/
def fittedDies (s : State) : List Die := Die.all.filter (fitted s)

/-- The compute dies of the part, by number. -/
def fittedCds (s : State) : List Nat := [0, 1, 2, 3].filter (cdOk s)

/-! ### Time -/

/-- TB_STATUS.TIME_VALID: the timebase is LOCKED or in HOLDOVER, or locked to SYNC_IN (Table 2.1). -/
def timeValid (s : State) : Bool :=
  match s.tb.state with
  | .locked | .holdover => true
  | _ => false

/-- A number of milliseconds, seconds or minutes on the model's clock. -/
def msNs (n : Nat) : Nat := n * 1000000
def secNs (n : Nat) : Nat := n * 1000000000

end Sys2Proof.Machine
end

