-- ==== Sys2Proof/Machine/LogOps.lean ====
section
/-! DEFINITION. The trouble log: arguments, intake, gaps, outboxes, the writer and the freeze (R613–R630). -/
namespace Sys2Proof.Machine

/-- Packs values of 4 or 8 bytes into ARGS in the order named; a value that does not fit whole and all after it
are dropped (R614). -/
def packFrom (room : Nat) : List (Nat × Nat) → Nat
  | [] => 0
  | (v, n) :: vs => if n ≤ room then v % 2 ^ (8 * n) + 2 ^ (8 * n) * packFrom (room - n) vs else 0

/-- ARGS of values given with their byte counts (R614, Table 20.12). -/
def packArgs (vs : List (Nat × Nat)) : BitVec 96 := BitVec.ofNat 96 (packFrom 12 vs)

/-- ARGS of 4-byte values (R614). -/
def args4 (vs : List Nat) : BitVec 96 := packArgs (vs.map fun v => (v, 4))

/-- A value that stops at the largest its field of n bytes holds (R707). -/
def sat8 (n v : Nat) : Nat := min v (2 ^ (8 * n) - 1)

/-- Adds to a 32-bit counter that saturates (R626). -/
def satW (w : Word) (n : Nat) : Word := toWord (min 0xFFFFFFFF (w.toNat + n))

/-- OLDEST of R620. -/
def LogSt.oldest (l : LogSt) : Word :=
  let d := (l.total - l.base).toNat
  l.total - toWord (min d 4096)

/-- Is an index held (R620)? -/
def LogSt.held (l : LogSt) (i : Word) : Bool :=
  let k := (l.total - i).toNat
  decide (1 ≤ k) && decide (k ≤ (l.total - l.oldest).toNat)

/-- The record of an index, if it is held. -/
def LogSt.find (l : LogSt) (i : Word) : Option LogRecord := if l.held i then l.ring.find? (fun r => r.index == i) else none

/-- FLAGS of a record (Table 20.2). -/
def flagsOf (e : Event) : Nat :=
  b2n e.fwd + 2 * b2n e.health + 4 * b2n e.coalesced + 8 * b2n e.unsync + 16 * b2n e.freeze

/-- The 32 bytes of a record (Table 20.2). -/
def LogRecord.toBytes (r : LogRecord) : List Byte :=
  leBytes 8 r.ev.ltime.toNat ++ leBytes 4 r.index.toNat ++ leBytes 1 r.ev.die.code ++
  leBytes 1 (r.ev.unit + 16 * r.ev.sub) ++ leBytes 2 r.ev.code ++ leBytes 1 r.ev.sev ++ leBytes 1 (flagsOf r.ev) ++
  leBytes 2 r.ev.rep ++ leBytes 12 r.ev.args.toNat

/-- The gap taken further by n events at an instant (R619). -/
def extendGap (g : Option Gap) (n : Nat) (t : DWord) : Gap :=
  match g with
  | none => ⟨n, t, t⟩
  | some g => { g with count := g.count + n, last := t }

/-- Are two events alike for coalescing (R619)? -/
def alike (x e : Event) : Bool := x.die == e.die && x.unit == e.unit && x.sub == e.sub && x.code == e.code

/-- Takes an event into a full queue: the queue, the gap, and how many events were dropped (R619). -/
def coalesce (q : List Event) (g : Option Gap) (e : Event) : List Event × Option Gap × Nat :=
  match q.getLast? with
  | some x =>
    if alike x e && decide (x.rep < 65535) then
      let rep := min 65535 (x.rep + e.rep)
      let left := x.rep + e.rep - rep
      (q.dropLast ++ [{ x with rep := rep, coalesced := true }],
       if left == 0 then g else some (extendGap g left e.ltime), left)
    else (q, some (extendGap g e.rep e.ltime), e.rep)
  | none => (q, some (extendGap g e.rep e.ltime), e.rep)

/-- The LOG_LOST record of a gap (R619): severity 1, the gap's first LTIME, the count and the last LTIME. -/
def lostOf (g : Gap) (unsync : Bool) : Event :=
  { ltime := g.first, die := .svc, unit := 0xB, code := Code.logLost, sev := 1, unsync := unsync,
    args := packArgs [(g.count, 4), (g.last.toNat, 8)] }

/-- Stamps an event on its arrival at the intake (Table 20.2). [DESIGN CHOICE: log 108] -/
def stamp (s : State) (e : Event) : Event := { e with ltime := s.tb.ltime, unsync := !timeValid s }

/-- The intake: dropped while frozen, filtered below MIN_SEV, to the fatal queue at severity 3 while it has
room, else queued, coalesced or into the gap (R618, R619, R621). -/
def logArrive (s : State) (e : Event) : State :=
  let e := stamp s e
  let l := s.log
  if l.frozen then modLog s fun l => { l with frozenDrop := satAdd 0xFFFFFFFF l.frozenDrop e.rep }
  else if e.code != Code.logLost && decide (e.sev < rf s 0x000E0000 2 1) then
    modLog s fun l => { l with filtered := satAdd 0xFFFFFFFF l.filtered e.rep }
  else if e.sev == 3 && decide (l.fatal.length < 4) then modLog s fun l => { l with fatal := l.fatal ++ [e] }
  else if l.intake.length < 16 then modLog s fun l => { l with intake := l.intake ++ [e] }
  else
    let r := coalesce l.intake l.gap e
    modLog s fun l => { l with intake := r.1, gap := r.2.1, dropped := satAdd 0xFFFFFFFF l.dropped r.2.2 }

/-- LOG_RESET, LOG_CLEARED and LOG_UNFROZEN: never filtered, written ahead of every queued entry even while
frozen (R618, R621, R625, R630). -/
def logSpecial (s : State) (code : Nat) (args : BitVec 96) : State :=
  let e := stamp s { die := .svc, unit := 0xB, code := code, sev := 0, args := args }
  modLog s fun l => { l with special := e :: l.special }

/-- An event of a die other than SVC enters its outbox of 8 entries (R617). [DESIGN CHOICE: log 108] -/
def outboxArrive (s : State) (d : Die) (e : Event) : State :=
  let e := stamp s e
  let b := vget s.outboxes d.idx
  let b' : Outbox :=
    if b.entries.length < 8 then { b with entries := b.entries ++ [e] }
    else let r := coalesce b.entries b.gap e; { entries := r.1, gap := r.2.1 }
  { s with outboxes := s.outboxes.setIfInBounds d.idx b' }

/-- Takes the next entry from an outbox; a gap left open enters the freed entry as a LOST entry of the outbox
with 0 in both LTIME arguments (R617, R619). [DESIGN CHOICE: log 108] -/
def outboxTake (s : State) (d : Die) : Option (Event × State) :=
  let b := vget s.outboxes d.idx
  match b.entries with
  | [] => none
  | e :: es =>
    let b' : Outbox := match b.gap with
      | none => { b with entries := es }
      | some g => { entries := es ++ [{ ltime := 0, die := d, unit := 0xB, code := Code.logLost, sev := 1, args := args4 [g.count] }], gap := none }
    some (e, { s with outboxes := s.outboxes.setIfInBounds d.idx b' })

/-- Writes one record with the next INDEX; the ring keeps the last 4096 (R613, R618). -/
def writeRecord (l : LogSt) (e : Event) : LogSt :=
  { l with ring := ({ index := l.total, ev := e } :: l.ring).take 4096, total := l.total + 1 }

/-- The next entry the writer takes: special records, then, unless frozen, the fatal queue, then the intake,
whose freed entry takes LOG_LOST while a gap is open (R618, R619). -/
def logTake (s : State) : Option (Event × State) :=
  match s.log.special with
  | e :: es => some (e, modLog s fun l => { l with special := es })
  | [] =>
    if s.log.frozen then none else
    match s.log.fatal with
    | e :: es => some (e, modLog s fun l => { l with fatal := es })
    | [] => match s.log.intake with
      | [] => none
      | e :: es => some (e, modLog s fun l => match l.gap with
        | none => { l with intake := es }
        | some g => { l with intake := es ++ [lostOf g (!timeValid s)], gap := none })

/-- The events that a list of entries stands for. -/
def repSum (es : List Event) : Nat := (es.map (·.rep)).sum

/-- The writer stops: FROZEN is set, and entries still queued are discarded and counted (R621). [DEDUCED: log 107] -/
def logStop (l : LogSt) : LogSt :=
  { l with frozen := true, post := none, frozenDrop := satAdd 0xFFFFFFFF l.frozenDrop (repSum l.intake + repSum l.fatal),
           intake := [], fatal := [], gap := none }

/-- The LOG_FROZEN event (R621): severity 2 (Table 20.11), raised with HEALTH. [DEDUCED: log 107] -/
def frozenEvent (s : State) : Event :=
  stamp s { die := .svc, unit := 0xB, code := Code.logFrozen, sev := 2, health := true }

/-- Writes a taken entry.  A severity-3 record with FREEZE_EN freezes the log: it gets FREEZE, and after
FREEZE_POST further records LOG_FROZEN is the next and the last (R621).  The Bool says that HEALTH LOG_FROZEN
is raised now. -/
def logPut (s : State) (e : Event) : State × Bool :=
  let l := s.log
  let fz := e.sev == 3 && l.post.isNone && !l.frozen && rb s 0x000E0000 0
  let e := if fz then { e with freeze := true } else e
  let l1 := writeRecord l e
  let l2 := if fz then { l1 with freezeIdx := l.total, post := some (rf s 0x000E0000 15 8) }
    else { l1 with post := l1.post.map (· - 1) }
  if e.code == Code.logFrozen && e.die == .svc && e.health then (modLog s fun _ => logStop l2, false)
  else if l2.post == some 0 then
    (modLog s fun _ => { l2 with post := none, special := frozenEvent s :: l2.special }, true)
  else (modLog s fun _ => l2, false)

/-- LOG_CLEAR between records: the base becomes TOTAL, and LOG_CLEARED is written next with the previous OLDEST and
TOTAL (R625). [DEDUCED: log 107] -/
def logClearNow (s : State) : State :=
  let args := args4 [s.log.oldest.toNat, s.log.total.toNat]
  logSpecial (modLog s fun l => { l with base := l.total }) Code.logCleared args

/-- The end of a freeze: LOG_UNFROZEN is written with LOG_FROZEN_DROP, and the writer resumes (R621). -/
def logUnfreezeNow (s : State) : State :=
  logSpecial (modLog s fun l => { l with frozen := false }) Code.logUnfrozen (args4 [s.log.frozenDrop])

/-- One byte of SVC SRAM: the log ring lies in it at 0x006C_0000, record i at 32 × (i mod 4096) (R613). -/
def svcByte (s : State) (a : Nat) : Byte :=
  if 0x006C0000 ≤ a && a < 0x006E0000 then
    let k := (a - 0x006C0000) / 32
    match s.log.ring.find? (fun r => r.index.toNat % 4096 == k) with
    | some r => r.toBytes.getD (a % 32) 0
    | none => 0
  else byteAt s.mem a

/-- n bytes of SVC SRAM. [DESIGN CHOICE: log 11] -/
def svcBytes (s : State) (a n : Nat) : List Byte := (List.range n).map fun i => svcByte s (a + i)

/-- The log at a cold or warm reset: queued entries are discarded, ring and header kept unless the header is
lost; LOG_RESET is the first record after it (R630). [DESIGN CHOICE: log 35] -/
def logReset (s : State) (cause : Nat) (lost : Bool) (cold : Bool) : State :=
  let l := s.log
  let n := l.intake.length + l.fatal.length
  let l' : LogSt := { total := if lost then 0 else l.total, base := if lost then 0 else l.base,
                      ring := if lost then [] else l.ring,
                      frozen := !lost && l.frozen, freezeIdx := if lost then 0 else l.freezeIdx,
                      hdrCleared := if cold then lost else l.hdrCleared }
  logSpecial { s with log := l', outboxes := Vector.replicate 6 {} } Code.logReset (args4 [cause, n, l.total.toNat])

end Sys2Proof.Machine
end

