-- ==== Sys2Proof/Machine/RecOps.lean ====
section
/-! DEFINITION. The record builder's queue, hold, budget and drops (R491–R507), and how an event is raised: into
the trouble log, a die's outbox, and a HEALTH record (R616, R617). -/
namespace Sys2Proof.Machine

/-! ### Record bodies (Tables 16.3, 16.4) -/

/-- TYPE of Table 16.3. -/
def RecBody.typ : RecBody → Nat
  | .track _ => 1 | .zone _ => 2 | .product _ => 3 | .roi .. => 4 | .audioWake .. => 5 | .tamper .. => 6
  | .health .. => 7 | .retract .. => 8 | .overflow .. => 9 | .harvest .. => 10

/-- The priority class of Table 16.3. -/
def RecBody.cls : RecBody → Nat
  | .track _ => 1 | .zone _ => 2 | .product _ => 2 | .roi .. => 3 | _ => 0

/-- The body bytes of Table 16.4. -/
def RecBody.toBytes : RecBody → List Byte
  | .track b => b
  | .zone b => b
  | .product b => b
  | .roi crop seg segs q tr x y w h jpegLen data =>
    leBytes 1 crop ++ leBytes 1 seg ++ leBytes 1 segs ++ leBytes 1 q ++ leBytes 4 tr.toNat ++ leBytes 2 x ++ leBytes 2 y ++
    leBytes 2 w ++ leBytes 2 h ++ leBytes 4 jpegLen ++ leBytes 2 data.length ++ leBytes 2 0 ++ data
  | .audioWake phrase mic level season =>
    leBytes 1 phrase ++ leBytes 1 mic ++ leBytes 2 (ofSigned 16 level) ++ leBytes 1 season ++ leBytes 3 0
  | .tamper event electrode delta baseline duration =>
    leBytes 1 event ++ leBytes 1 electrode ++ leBytes 2 0 ++ leBytes 4 (ofSigned 32 delta) ++ leBytes 4 baseline ++ leBytes 4 duration
  | .health code sev die unit args =>
    leBytes 2 code ++ leBytes 1 sev ++ leBytes 1 (die % 16 + 16 * unit) ++ leBytes 12 args.toNat
  | .retract tr epoch seq seqValid bySvc =>
    leBytes 4 tr.toNat ++ leBytes 4 epoch.toNat ++ leBytes 2 seq ++ leBytes 1 (b2n seqValid + 2 * b2n bySvc) ++ leBytes 1 0
  | .overflow drops bytes budget queue arrival link =>
    (List.range 10).flatMap (fun i => leBytes 2 (min 65535 (lget 0 drops i))) ++ leBytes 4 bytes ++
    leBytes 1 (b2n budget + 2 * b2n queue + 4 * b2n arrival + 8 * b2n link) ++ leBytes 3 0
  | .harvest event outcome slot season session step cand ref headSel train valid windowEnd =>
    leBytes 1 event ++ leBytes 1 outcome ++ leBytes 1 slot ++ leBytes 1 season ++ leBytes 4 session.toNat ++
    leBytes 4 step.toNat ++ leBytes 2 cand ++ leBytes 2 ref ++ leBytes 1 headSel ++ leBytes 3 0 ++ leBytes 4 train.toNat ++
    leBytes 4 valid.toNat ++ leBytes 4 windowEnd.toNat

/-- LENGTH of a record: header and body, padded to a multiple of 4 (R491). -/
def Record.len (r : Record) : Nat := 16 + (r.body.toBytes.length + 3) / 4 * 4

/-- The bytes of a record with its SEQ (Tables 16.2, 16.4). -/
def Record.toBytes (r : Record) (seq : Nat) : List Byte :=
  leBytes 1 r.body.typ ++ leBytes 1 (b2n r.tentative + 2 * b2n r.partialEp + 4 * b2n r.degraded + 8 * b2n r.unsync) ++
  leBytes 2 r.len ++ leBytes 2 seq ++ leBytes 2 0 ++ leBytes 4 r.epoch.toNat ++ leBytes 4 r.ltime.toNat ++
  padTo (r.len - 16) r.body.toBytes

/-! ### Drops (R505–R507) -/

/-- Why records are dropped: the flags of an OVERFLOW record. -/
structure DropWhy where
  budget : Bool := false
  queue : Bool := false
  arrival : Bool := false
  link : Bool := false

/-- Adds drops of one type and so many bytes to the counts of an epoch. -/
def addDrop (ds : List DropCount) (ep : Word) (typ n bytes : Nat) (w : DropWhy) : List DropCount :=
  let old := (ds.find? fun d => d.epoch == ep).getD
    { epoch := ep, byType := List.replicate 10 0, bytes := 0, budget := false, queue := false, arrival := false, link := false }
  let d : DropCount := { old with
    byType := old.byType.modify (typ - 1) (· + n), bytes := old.bytes + bytes
    budget := old.budget || w.budget, queue := old.queue || w.queue
    arrival := old.arrival || w.arrival, link := old.link || w.link }
  ds.filter (fun x => x.epoch != ep) ++ [d]

/-- Counts dropped records: for OVERFLOW by epoch and type, in REC_DROPPED, and for STATUS. -/
def dropRecords (s : State) (rs : List Record) (w : DropWhy) : State :=
  modRecs s fun b => { b with
    drops := rs.foldl (fun ds r => addDrop ds r.epoch r.body.typ 1 r.len w) b.drops,
    dropped := b.dropped + toWord rs.length, droppedSec := b.droppedSec + rs.length,
    budgetHit := b.budgetHit || w.budget, linkDrop := b.linkDrop || (w.link && rs != []) }

/-! ### Hold and datagrams (R489, R504) -/

/-- Is a record held: class 1 to 3, HOLD set, of the current epoch, and its epoch not released (R504)? -/
def recHeld (s : State) (r : Record) : Bool :=
  r.body.cls != 0 && rb s 0x00070000 3 && r.epoch == s.seqr.epoch && s.recs.released != some r.epoch

/-- The first released record of the queue, with the queue without it. [DEDUCED: log 94] -/
def takeReleased (s : State) : List Record → Option (Record × List Record)
  | [] => none
  | r :: rs => if recHeld s r then (takeReleased s rs).map fun x => (x.1, r :: x.2) else some (r, rs)

/-- Bytes of the records in a datagram. -/
def dgramLen (rs : List Record) : Nat := (rs.map Record.len).sum

/-- May a record join the datagram: at most 90 records, 1440 bytes, one LTIME_HI (R488, R489)? -/
def dgramFits (rs : List Record) (r : Record) : Bool :=
  decide (rs.length < 90) && decide (dgramLen rs + r.len ≤ 1440) &&
  (match rs.head? with | none => true | some x => decide (x.ltime.toNat / 2 ^ 32 = r.ltime.toNat / 2 ^ 32))

/-- Places released records, in queue order, into the open datagram until one does not fit, which closes it. -/
def fillDgramN : Nat → State → State
  | 0, s => s
  | n + 1, s =>
    if s.recs.closed then s else
    match takeReleased s s.recs.queue with
    | none => s
    | some (r, q) =>
      if dgramFits s.recs.dgram r then fillDgramN n (modRecs s fun b => { b with queue := q, dgram := b.dgram ++ [r] })
      else modRecs s fun b => { b with closed := true }

/-- Fills the open datagram (R489). -/
def fillDgram (s : State) : State := fillDgramN 91 s

/-! ### Admission (R505, R506) -/

/-- Class 1–3 bytes admitted of an epoch. -/
def recUsed (s : State) (ep : Word) : Nat := if ep == s.seqr.epoch then s.recs.used else s.recs.usedPrev

/-- Adds to, or takes from, the bytes admitted of an epoch. -/
def recUse (s : State) (ep : Word) (f : Nat → Nat) : State :=
  if ep == s.seqr.epoch then modRecs s fun b => { b with used := f b.used }
  else modRecs s fun b => { b with usedPrev := f b.usedPrev }

/-- Are two records segments of one crop (R510)? -/
def sameCrop (a b : Record) : Bool :=
  a.epoch == b.epoch &&
  match a.body, b.body with
  | .roi c .., .roi d .. => c == d
  | _, _ => false

/-- The last record of a queue for which p holds. -/
def lastWhere (p : Record → Bool) (q : List Record) : Option Record := (q.filter p).getLast?

/-- A queue without the last occurrence of a record. -/
def dropLastOf (r : Record) (q : List Record) : List Record := (q.reverse.erase r).reverse

/-- Evicts the newest record for which p holds of the highest class number from 3 down to lowest; the segments
of a crop go together (R505, R506).  Answers what goes and what stays. [DEDUCED: log 94] -/
def evictFrom (p : Record → Bool) (lowest : Nat) (q : List Record) : Nat → Option (List Record × List Record)
  | 0 => none
  | c + 1 =>
    if c + 1 < lowest then none else
    match lastWhere (fun r => r.body.cls == c + 1 && p r) q with
    | some r =>
      if r.body.typ == 4 then some (q.filter (sameCrop r), q.filter fun x => !sameCrop r x)
      else some ([r], dropLastOf r q)
    | none => evictFrom p lowest q c

/-- Evicts until so many bytes are freed, or answers none (R505). -/
def evictBytes (p : Record → Bool) (lowest : Nat) : Nat → Nat → List Record → Option (List Record × List Record)
  | _, 0, q => some ([], q)
  | 0, _, _ => none
  | n + 1, need, q =>
    match evictFrom p lowest q 3 with
    | none => none
    | some (gone, rest) => (evictBytes p lowest n (need - dgramLen gone) rest).map fun x => (gone ++ x.1, x.2)

/-- Records that count against the 255 places of the queue (R504). -/
def queueCount (q : List Record) : Nat := (q.filter fun r => r.body.typ != 9).length

/-- Queues records that are admitted. [DEDUCED: log 94] -/
def enqueue (s : State) (rs : List Record) : State := fillDgram (modRecs s fun b => { b with queue := b.queue ++ rs })

/-- Admission of a class-0 record: with the queue full it evicts the newest record of the highest class
number, or is dropped (R506); OVERFLOW has its own place (R504, R507). -/
def admitZero (s : State) (r : Record) : State :=
  if r.body.typ == 9 || decide (queueCount s.recs.queue < 255) then enqueue s [r]
  else match evictFrom (fun _ => true) 1 s.recs.queue 3 with
    | none => dropRecords s [r] { queue := true }
    | some (gone, rest) =>
      enqueue (gone.foldl (fun t g => recUse t g.epoch (· - g.len))
        (dropRecords (modRecs s fun b => { b with queue := rest }) gone { queue := true })) [r]

/-- Admission of records of class 1 to 3 that stay together, all of one epoch and class (R505, R506). -/
def admitGroup (s : State) (rs : List Record) : State :=
  match rs with
  | [] => s
  | r :: _ =>
    if 255 < queueCount s.recs.queue + rs.length then dropRecords s rs { queue := true } else
    let need := recUsed s r.epoch + dgramLen rs - rnat s 0x00070014
    match evictBytes (fun x => x.epoch == r.epoch && recHeld s x) (r.body.cls + 1) 256 need s.recs.queue with
    | none => dropRecords s rs { budget := true }
    | some (gone, rest) =>
      let s1 := if gone.isEmpty then s else dropRecords (modRecs s fun b => { b with queue := rest }) gone { budget := true }
      enqueue (recUse s1 r.epoch fun u => u + dgramLen rs - dgramLen gone) rs

/-! ### Flags of a record -/

/-- Is a link of Table 1.2 lost: ISOLATED or FAILED in LINK_SUMMARY? -/
def linkLost (s : State) (i : Nat) : Bool := let x := s.boot.links[i]?.getD 0; x == 3 || x == 5

/-- Do records built now carry DEGRADED: the epoch is DEGRADED (R55), a resident segment has failed its scrub
(R223), or a link of SVC is isolated (Table 1.11)? [DESIGN CHOICE: log 95] -/
def degradedNow (s : State) : Bool :=
  s.seqr.cur.degraded || (fittedCds s).any (fun cd => (s.fab cd).scrubFail) || linkLost s 8 || linkLost s 9

/-- The epoch is DEGRADED from now on, a die being concerned (R55). -/
def markDegraded (s : State) (d : Die) : State :=
  modSeq s fun q => { q with cur := { q.cur with degraded := true, dies := q.cur.dies ||| 2 ^ d.code } }

/-- Admits a record if the builder runs: REC_CTRL.EN; in WINTER class 0 only, in DORMANT HEALTH only (R523, R98). -/
def takeRecords (s : State) (rs : List Record) : State :=
  match rs with
  | [] => s
  | r :: _ =>
    if !rb s 0x00070000 0 then s
    else if s.power.season == .winter && r.body.cls != 0 then s
    else if s.power.season == .dormant && r.body.typ != 7 then s
    else if r.body.cls == 0 then rs.foldl admitZero s
    else admitGroup s rs

/-- A record of SVC's own, of the epoch and LTIME at which it is raised (R492). -/
def ownRecord (s : State) (b : RecBody) : Record :=
  { body := b, degraded := degradedNow s, unsync := !timeValid s, epoch := s.seqr.epoch, ltime := s.tb.ltime }

/-- Raises a record of SVC's own. -/
def raiseRecord (s : State) (b : RecBody) : State := takeRecords s [ownRecord s b]

/-! ### Raising an event -/

/-- Does a code raise HEALTH: an index below 0x100 in its group (R616)? -/
def raisesHealth (code : Nat) : Bool := decide (code % 0x1000 < 0x100)

/-- Builds the HEALTH record of an event, for an epoch (R492, R496, R615). [DEDUCED: log 94] -/
def raiseHealth (s : State) (e : Event) (ep : Word) : State :=
  takeRecords s [{ ownRecord s (.health e.code e.sev e.die.code e.unit e.args) with epoch := ep }]

/-- Raises an event at SVC, with the HEALTH record of its code, for an epoch. -/
def raiseFor (s : State) (ep : Word) (unit sub code sev : Nat) (args : BitVec 96) : State :=
  let e : Event := { die := .svc, unit := unit, sub := sub, code := code, sev := sev, args := args, health := raisesHealth code }
  let s1 := logArrive s e
  if raisesHealth code then raiseHealth s1 e ep else s1

/-- Raises an event at SVC. [DESIGN CHOICE: log 15] -/
def raise (s : State) (unit sub code sev : Nat) (args : BitVec 96 := 0) : State :=
  raiseFor s s.seqr.epoch unit sub code sev args

/-- Raises an event that SVC logs with another die as its source (R72, R78). -/
def raiseFrom (s : State) (d : Die) (unit sub code sev : Nat) (args : BitVec 96 := 0) : State :=
  let e : Event := { die := d, unit := unit, sub := sub, code := code, sev := sev, args := args, health := raisesHealth code }
  let s1 := logArrive s e
  if raisesHealth code then raiseHealth s1 e s.seqr.epoch else s1

/-- Raises an event on a die: at SVC into the log, elsewhere into the die's outbox (R617). -/
def raiseOn (s : State) (d : Die) (unit sub code sev : Nat) (args : BitVec 96 := 0) : State :=
  if d == .svc then raise s unit sub code sev args
  else outboxArrive s d { die := d, unit := unit, sub := sub, code := code, sev := sev, args := args, health := raisesHealth code }

/-- Logs an event of a die without a HEALTH record, whatever its code. [DESIGN CHOICE: log 15] -/
def logOnly (s : State) (d : Die) (unit sub code sev : Nat) (args : BitVec 96 := 0) : State :=
  let e : Event := { die := d, unit := unit, sub := sub, code := code, sev := sev, args := args }
  if d == .svc then logArrive s e else outboxArrive s d e

/-- One LOG_WRITE: the writer takes one entry and writes it; the freeze raises HEALTH LOG_FROZEN (R618, R621). [DEDUCED: log 107] -/
def logWriteOne (s : State) : State :=
  match logTake s with
  | none => s
  | some (e, s1) =>
    let r := logPut s1 e
    if r.2 then raiseHealth r.1 (frozenEvent s1) s.seqr.epoch else r.1

end Sys2Proof.Machine
end

