-- ==== Sys2Proof/Machine/OtpOps.lean ====
section
/-! DEFINITION. The OTP macro: reads through redirection, decoding, margin checks, programming and its
operations (chapter 04). -/
namespace Sys2Proof.Machine

/-! ### Reading and redirection (R107, R108) -/

/-- The majority of a redirection entry's three copies. -/
def Redir.val (r : Redir) : Nat := ((r.c0 &&& r.c1) ||| (r.c0 &&& r.c2) ||| (r.c1 &&& r.c2)).toNat

/-- ROW, VALID and RETIRED of entry s (Table 4.1). -/
def redirRow (o : OtpSt) (s : Nat) : Nat := bits (vget o.redir s).val 8 0
def redirValid (o : OtpSt) (s : Nat) : Bool := nbit (vget o.redir s).val 9
def redirRetired (o : OtpSt) (s : Nat) : Bool := nbit (vget o.redir s).val 10

/-- The spare that serves a row: the highest-numbered entry that is valid, not retired and names it (R108). -/
def serving (o : OtpSt) (r : Nat) : Option Nat :=
  ((List.range 16).filter fun s => redirValid o s && !redirRetired o s && redirRow o s == r).getLast?

/-- The physical place of a row: itself, or 512 + s for spare s. -/
def physOf (o : OtpSt) (r : Nat) : Nat := match serving o r with | some s => 512 + s | none => r

/-- The bits of a physical row. -/
def physBits (o : OtpSt) (p : Nat) : BitVec 64 := if p < 512 then mget 0 o.rows p else vget o.spares (p - 512)

/-- A row read at REF_N through redirection (R134). -/
def otpRead (o : OtpSt) (r : Nat) : BitVec 64 := physBits o (physOf o r)

/-- The physical row with bits added. -/
def physSet (o : OtpSt) (p : Nat) (v : BitVec 64) : OtpSt :=
  if p < 512 then { o with rows := mset 0 o.rows p (mget 0 o.rows p ||| v) }
  else { o with spares := vmod o.spares (p - 512) (· ||| v) }

/-- Burns bits into all three copies of a redirection entry. -/
def burnRedir (o : OtpSt) (s v : Nat) : OtpSt :=
  let b := BitVec.ofNat 16 v
  { o with redir := vmod o.redir s fun e => ⟨e.c0 ||| b, e.c1 ||| b, e.c2 ||| b⟩ }

/-- Is a spare free: not valid, not retired, blank (R126, R127)? -/
def spareFree (o : OtpSt) (s : Nat) : Bool := !redirValid o s && !redirRetired o s && vget o.spares s == 0

/-- SPARES_FREE of LC_STATUS. -/
def sparesFree (o : OtpSt) : Nat := ((List.range 16).filter (spareFree o)).length

/-- The mirror as decoded at REF_N through redirection (R134): the rows that read other than 0. -/
def mirrorOf (o : OtpSt) : List (Nat × BitVec 64) :=
  (List.range 512).filterMap fun r => let v := otpRead o r; if v == 0 then none else some (r, v)

/-- A row of the mirror. -/
def mrow (s : State) (r : Nat) : BitVec 64 := mget 0 s.otp.mirror r

/-! ### Decoding (R112–R115) -/

/-- A row is taken when any of its bits reads 1 (R112). -/
def taken (s : State) (r : Nat) : Bool := mrow s r != 0

/-- The life-cycle state: 0 BLANK to 5 DECOMMISSIONED (R112). -/
def lcState (s : State) : Nat :=
  if taken s 0x14 then 5 else if taken s 0x13 then 4 else if taken s 0x12 then 3 else if taken s 0x11 then 2
  else if taken s 0x10 then 1 else 0

/-- Is the part in FIELD or later? -/
def inField (s : State) : Bool := decide (4 ≤ lcState s)

/-- DEBUG_DISABLED (R112). [DESIGN CHOICE: log 46] -/
def debugDisabled (s : State) : Bool := taken s 0x15 || inField s

/-- LC_GAP: an untaken transition row lies below a taken one. -/
def lcGap (s : State) : Bool := (List.range (lcState s)).any fun i => !taken s (0x10 + i)

/-- The bytes of mirror rows r .. r+n-1, each row least significant byte first (R110). -/
def rowBytes (s : State) (r n : Nat) : List Byte := (List.range n).flatMap fun i => leBytes 8 (mrow s (r + i)).toNat

/-- Digest k: present, valid, revoked (R113, R115). -/
def digestPresent (s : State) (k : Nat) : Bool := (List.range 4).any fun i => taken s (0x140 + 4 * k + i)
def digestValid (s : State) (k : Nat) : Bool :=
  digestPresent s k && crc32c (rowBytes s (0x140 + 4 * k) 4) ==
    bits (mrow s (0x150 + k / 2)).toNat (32 * (k % 2) + 31) (32 * (k % 2))

/-- KWRAP: present, valid (R113). -/
def kwrapPresent (s : State) : Bool := (List.range 4).any fun i => taken s (0x154 + i)
def kwrapValid (s : State) : Bool :=
  kwrapPresent s && leNat ((sha256 (rowBytes s 0x154 4)).take 4) == bits (mrow s 0x158).toNat 31 0

/-- 1 plus the index of the highest 1 among n bits of mirror rows from r on, or 0 (R115). -/
def highestBit (v : Nat → Bool) : Nat → Nat
  | 0 => 0
  | n + 1 => if v n then n + 1 else highestBit v n

/-- Bit b of a counter at rows r on. -/
def counterBit (s : State) (r b : Nat) : Bool := nbit (mrow s (r + b / 64)).toNat (b % 64)

/-- The firmware and SQI counters (R115). -/
def fwCounter (s : State) : Nat := highestBit (counterBit s 0x180) 1536
def sqiCounter (s : State) : Nat := highestBit (counterBit s 0x198) 1536

/-- KEY_FLOOR (R115). -/
def keyFloor (s : State) : Nat := highestBit (fun g => bits (mrow s 0x1B0).toNat (16 * g + 15) (16 * g) != 0) 4

/-- A digest is usable: valid and not revoked (R115). -/
def digestUsable (s : State) (k : Nat) : Bool := digestValid s k && decide (keyFloor s ≤ k)

/-- 2-of-3 majority of three rows (R114). -/
def maj3 (s : State) (r : Nat) : Nat :=
  let a := mrow s r; let b := mrow s (r + 1); let c := mrow s (r + 2)
  ((a &&& b) ||| (a &&& c) ||| (b &&& c)).toNat

/-- The effective restriction word (R114). -/
def restriction (s : State) : Nat := (maj3 s 0x160 ||| maj3 s 0x170) % 1024

/-- The restrictions now applied, POLICY_EFF (Table 4.4). -/
def policyBit (s : State) (i : Nat) : Bool := nbit s.otp.policyEff i
def noHarvest (s : State) : Bool := policyBit s 6
def noAcoustic (s : State) : Bool := policyBit s 7
def noPeerEmbed (s : State) : Bool := policyBit s 8
def noI2cTarget (s : State) : Bool := policyBit s 9

/-- The device's MAC address (R454). -/
def ownMac (s : State) : BitVec 48 :=
  if mrow s 0x001 == 0 then BitVec.ofNat 48 (0x024C52 * 2 ^ 24 + bits (mrow s 0x000).toNat 23 0) else (mrow s 0x001).setWidth 48

/-- LC_STATUS (R132). -/
def lcStatus (s : State) : Nat :=
  lcState s + 8 * b2n (debugDisabled s) + 16 * b2n s.otp.lcCompleted + 32 * b2n (lcGap s) + 2 ^ 8 * sparesFree s.otp +
  2 ^ 16 * min 255 s.otp.weakBoot

/-- The check words of IDENT, TRIM and LANEMAP match (R110, Table 4.14). -/
def identOk (s : State) : Bool := crc32c (rowBytes s 0x000 15) == bits (mrow s 0x00F).toNat 31 0
def trimOk (s : State) : Bool := crc32c (rowBytes s 0x020 31) == bits (mrow s 0x03F).toNat 31 0
def lanemapOk (s : State) : Bool :=
  crc32c (rowBytes s 0x120 20) == bits (mrow s 0x134).toNat 31 0 && bits (mrow s 0x134).toNat 39 32 == 1

/-! ### Programming, margin checks and redirection (R126–R130) -/

/-- An OTP operation under way: the analog side, how many bits may still be programmed before the conditions
of R130 fail, and the result so far. -/
structure OtpRun where
  s : State
  a : OtpAnalog
  left : Option Nat
  res : Nat := 0

/-- How many 1 bits a row has. -/
def popcount (v : BitVec 64) : Nat := ((List.range 64).filter fun i => nbit v.toNat i).length

/-- The lowest n 1 bits of a row. -/
def lowestOnes (v : BitVec 64) (n : Nat) : BitVec 64 :=
  ((List.range 64).filter fun i => nbit v.toNat i).take n |>.foldl (fun w i => w ||| BitVec.ofNat 64 (2 ^ i)) 0

/-- The stop that the conditions of R130 give before any bit: COND, PUMP, or none. -/
def condStop (a : OtpAnalog) : Nat := if !a.vsysOk || !a.tempOk then 3 else if !a.pumpOk then 4 else 0

/-- An operation at its start. [DESIGN CHOICE: log 43] -/
def otpBegin (s : State) (a : OtpAnalog) : OtpRun := { s := s, a := a, left := a.stopAfter, res := condStop a }

/-- Has the operation stopped with COND or PUMP? -/
def OtpRun.stopped (u : OtpRun) : Bool := u.res == 3 || u.res == 4

/-- Programs a spare with a row's bits: the first free one that verifies takes the row; one that does not is
retired (R126, R127). -/
def redirectFrom (u : OtpRun) (r : Nat) (n : BitVec 64) : List Nat → OtpRun
  | [] =>
    let s1 := if u.s.otp.exhaustedLogged then u.s else
      raise (raise u.s 0xC 0 Code.otpSparesExhausted 2 (args4 [r])) 0xC 0 Code.otpHealth 2
        (packArgs [(4, 1), (0xFF, 1), (r, 2), (0, 1), (lcState u.s, 1)])
    { u with s := modOtp s1 fun o => { o with exhaustedLogged := true }, res := 8 }
  | k :: ks =>
    if !redirValid u.s.otp k && !redirRetired u.s.otp k && vget u.s.otp.spares k != 0 then
      redirectFrom { u with s := modOtp u.s fun o => burnRedir o k 0x400 } r n ks
    else if !spareFree u.s.otp k then redirectFrom u r n ks
    else
      let o1 := physSet u.s.otp (512 + k) n
      if u.a.badSpares.getLsbD k then
        redirectFrom { u with s := modOtp u.s fun _ => burnRedir o1 k 0x400 } r n ks
      else
        let older := (List.range 16).filter fun j => j != k && redirValid o1 j && redirRow o1 j == r
        let o2 := older.foldl (fun o j => burnRedir o j 0x400) (burnRedir o1 k (r + 0x200))
        { u with s := raise (modOtp u.s fun _ => o2) 0xC 0 Code.otpRedirect 1 (args4 [r, k]), res := if u.res == 8 then 8 else 7 }

/-- Redirects a row with its intended value (R126). -/
def redirectRow (u : OtpRun) (r : Nat) (n : BitVec 64) : OtpRun := redirectFrom u r n (List.range 16)

/-- Programs the bits of a row that are 1 in v and read 0, in ascending order; a bit that fails all pulses
redirects the row (R129, R130). -/
def programBits (u : OtpRun) (r : Nat) (v : BitVec 64) : OtpRun :=
  if u.stopped then u else
  let p := physOf u.s.otp r
  let cur := physBits u.s.otp p
  let todo := v &&& ~~~cur
  let n := popcount todo
  let now := match u.left with | none => todo | some k => lowestOnes todo k
  let short := match u.left with | none => false | some k => decide (k < n)
  let u1 := { u with left := u.left.map (· - n), s := modOtp u.s fun o => physSet o p (now &&& ~~~u.a.failing) }
  if now &&& u.a.failing != 0 then redirectRow u1 r (cur ||| v)
  else if short then { u1 with res := 3 }
  else u1

/-- The weak bits of a row: those of its physical row that read 1 at REF_N (R107). -/
def weakOf (o : OtpSt) (r : Nat) : BitVec 64 := mget 0 o.weak (physOf o r) &&& otpRead o r

/-- A margin check alone: the weak mask is formed and logged (R126). -/
def marginMask (s : State) (r : Nat) : State :=
  let w := weakOf s.otp r
  let s1 := modOtp s fun o => { o with weakMask := w, weakBoot := o.weakBoot + popcount w }
  if w == 0 then s1 else raise s1 0xC 0 Code.otpWeak 1 (packArgs [(r, 4), (w.toNat, 8)])

/-- A margin check with reinforcement: a row still weak after the third pulse is redirected (R126). [DEDUCED: log 45] -/
def marginRow (u : OtpRun) (r : Nat) : OtpRun :=
  let w := weakOf u.s.otp r
  let u1 := { u with s := marginMask u.s r }
  if w == 0 then u1
  else if condStop u.a != 0 then { u1 with res := condStop u.a }
  else
    let p := physOf u.s.otp r
    let w' := w &&& u.a.stillWeak
    let u2 := { u1 with s := modOtp u1.s fun o => { o with weak := mset 0 o.weak p ((mget 0 o.weak p &&& ~~~w) ||| w') } }
    if w' == 0 then u2 else redirectRow u2 r (otpRead u2.s.otp r)

/-- Margin checks of several rows. -/
def marginRows (u : OtpRun) (rs : List Nat) : OtpRun := rs.foldl marginRow u

/-- The programmed rows: those that read other than 0. -/
def programmedRows (o : OtpSt) : List Nat := (mirrorOf o).map (·.1)

/-- Every result but OK and REDIRECTED is a failure. [DESIGN CHOICE: log 44] -/
def resultBad (res : Nat) : Bool := res != 0 && res != 7

/-- The operation ends: the mirror is loaded again, and OTP_STATUS shows the result (R134). [DEDUCED, DESIGN CHOICE: log 42, 43] -/
def otpEnd (u : OtpRun) : State :=
  modOtp u.s fun o => { o with
    mirror := mirrorOf o, done := true, error := resultBad u.res, result := u.res, pulses := min 255 u.a.pulses,
    vsysOk := u.a.vsysOk, tempOk := u.a.tempOk, pumpReady := u.a.pumpOk }

/-- A refused operation shows its result code (Table 4.10). [DEDUCED: log 42] -/
def otpRefuse (s : State) (res : Nat) : State :=
  modOtp s fun o => { o with done := false, error := true, result := res, pulses := 0 }

/-! ### What permits an operation (R119–R122, R130, Table 4.6) -/

/-- May a path write OTP_CMD (R120)? -/
def otpPathOk (s : State) : Path → Bool
  | .core => true
  | .bcp => true
  | _ => !inField s

/-- The region bit of a row in OTP_LOCK (Table 4.2). -/
def regionOf (r : Nat) : Nat :=
  if r < 0x10 then 0 else if r < 0x20 then 3 else if r < 0x120 then 1 else if r < 0x140 then 2
  else if r < 0x160 then 4 else if r < 0x180 then 5 else if r < 0x1C0 then 6 else 7

/-- Is a row reserved, of LIFECYCLE or ROLLBACK, or one that only another operation programs (R119, Table 4.3)? -/
def rowBarred (s : State) (r : Nat) : Bool :=
  (decide (0x00A ≤ r) && decide (r ≤ 0x00E)) || regionOf r == 3 || regionOf r == 6 ||
  (decide (0x03C ≤ r) && decide (r ≤ 0x03E)) || (decide (0x135 ≤ r) && decide (r ≤ 0x13F)) ||
  (decide (0x152 ≤ r) && decide (r ≤ 0x15F)) || (decide (0x163 ≤ r) && decide (r ≤ 0x17F)) ||
  (decide (0x1F0 ≤ r) && inField s)

/-- The states in which PROGRAM_ROW may program a row's region (Table 4.6). -/
def programStates (r : Nat) : List Nat :=
  match regionOf r with
  | 0 | 1 => [1, 2]
  | 2 => [2]
  | 4 => [2, 3]
  | 5 => [3]
  | 7 => [2, 3]
  | _ => []

/-- The checks common to OTP commands: path, GUARD, and that the state is not DECOMMISSIONED; the result code
of the first that fails. [DEDUCED: log 42] -/
def otpGate (s : State) (path : Path) (cmd : Word) (guarded : Bool) : Option Nat :=
  if !otpPathOk s path then some 0x0D
  else if guarded && wbits cmd 31 16 != 0x0C7B then some 0x0C
  else if lcState s == 5 then some 0x01
  else none

/-- OTP_DATA, both halves. -/
def otpData (s : State) : BitVec 64 := BitVec.ofNat 64 (rnat s 0x0002000C + 2 ^ 32 * rnat s 0x00020010)

/-- PROGRAM_ROW (R129). -/
def otpProgramRow (s : State) (path : Path) (cmd : Word) (a : OtpAnalog) : State :=
  let r := wbits cmd 12 4
  match otpGate s path cmd true with
  | some e => otpRefuse s e
  | none =>
    if rowBarred s r then otpRefuse s 0x0A
    else if !(programStates r).contains (lcState s) then otpRefuse s 0x01
    else if s.otp.wl.getLsbD (regionOf r) then otpRefuse s 0x02
    else if condStop a != 0 then otpRefuse s (condStop a)
    else
      let u := programBits (otpBegin s a) r (otpData s)
      otpEnd (if u.stopped then u else marginRow u r)

/-- REINFORCE_ROW (R126, R128). -/
def otpReinforceRow (s : State) (path : Path) (cmd : Word) (a : OtpAnalog) : State :=
  match otpGate s path cmd true with
  | some e => otpRefuse s e
  | none => if condStop a != 0 then otpRefuse s (condStop a) else otpEnd (marginRow (otpBegin s a) (wbits cmd 12 4))

/-- MARGIN_ROW (R126): forms the weak mask; KWRAP rows, and private rows under a read lock off the core path,
read 0 (R121, R123). [DEDUCED: log 45] -/
def otpMarginRow (s : State) (path : Path) (cmd : Word) : State :=
  let r := wbits cmd 12 4
  match otpGate s path cmd false with
  | some e => otpRefuse s e
  | none =>
    let s1 := marginMask s r
    let hide := (decide (0x154 ≤ r) && decide (r ≤ 0x157)) || (decide (0x1F0 ≤ r) && s.otp.rl.getLsbD 7 && path != .core)
    modOtp s1 fun o => { o with
      weakMask := if hide then 0 else o.weakMask, done := true, error := false, result := 0, pulses := 0 }

/-- SCAN (R128). -/
def otpScan (s : State) (path : Path) (cmd : Word) (a : OtpAnalog) : State :=
  match otpGate s path cmd true with
  | some e => otpRefuse s e
  | none =>
    if condStop a != 0 then otpRefuse s (condStop a)
    else otpEnd (marginRows (otpBegin s a) (programmedRows s.otp))

/-- All 64 bits. -/
def ones64 : BitVec 64 := BitVec.allOnes 64

/-- May the state advance to t (Table 4.5)? -/
def lcStepOk (st t : Nat) : Bool :=
  (t == 5 && decide (1 ≤ st) && decide (st ≤ 4)) || (t == st + 1 && decide (t ≤ 4))

/-- The exit condition of the state for an advance to t (Table 4.5). -/
def lcExitOk (s : State) (t : Nat) : Bool :=
  match t with
  | 2 => taken s 0x000 && taken s 0x002
  | 3 => identOk s && trimOk s && lanemapOk s
  | 4 => ((List.range 4).any fun k => digestUsable s k) && kwrapValid s
  | _ => true

/-- The owner's claim holds the SERVICE level (R120). -/
def ownerIsService (s : State) : Bool := match s.bcp.owner with | some o => o.level == 2 | none => false

/-- LC_ADVANCE (R116, R117, R133), the cold reset of DECOMMISSIONED apart. -/
def otpLcAdvance (s : State) (path : Path) (cmd : Word) (a : OtpAnalog) : State :=
  let t := wbits cmd 15 13
  match otpGate s path cmd true with
  | some e => otpRefuse s e
  | none =>
    if rnat s 0x0002000C != 0x4C430000 + t then otpRefuse s 0x0C
    else if t == 5 && path == .bcp && !ownerIsService s then otpRefuse s 0x0D
    else if !lcStepOk (lcState s) t then otpRefuse s 0x01
    else if !lcExitOk s t then otpRefuse s 0x09
    else if condStop a != 0 then otpRefuse s (condStop a)
    else if t == 4 then
      let u := programBits (programBits (otpBegin s a) 0x15 ones64) 0x13 ones64
      otpEnd (if u.stopped then u else marginRows u (programmedRows u.s.otp))
    else otpEnd (programBits (otpBegin s a) (0x0F + t) ones64)

/-- The rows and bits that fill a counter at rows base on, from bit lo up to bit hi (hi not included). -/
def fillRows (base lo hi : Nat) : List (Nat × BitVec 64) :=
  (List.range 24).filterMap fun i =>
    let m := ((List.range 64).filter fun b => decide (lo ≤ 64 * i + b) && decide (64 * i + b < hi)).foldl
      (fun w b => w ||| BitVec.ofNat 64 (2 ^ b)) (0 : BitVec 64)
    if m == 0 then none else some (base + i, m)

/-- Programs several rows in turn. -/
def programAll (u : OtpRun) (ps : List (Nat × BitVec 64)) : OtpRun := ps.foldl (fun u p => programBits u p.1 p.2) u

/-- Raises a counter or KEY_FLOOR to v from its value old, the top first (R124). -/
def raiseRun (u : OtpRun) (which v old : Nat) : OtpRun :=
  if which == 2 then
    programAll u ((0x1B0, BitVec.ofNat 64 (0xFFFF * 2 ^ (16 * (v - 1)))) ::
      ((List.range (v - 1)).filter fun g => decide (old ≤ g) || decide (v ≤ old)).map fun g =>
        (0x1B0, BitVec.ofNat 64 (0xFFFF * 2 ^ (16 * g))))
  else
    let base := if which == 0 then 0x180 else 0x198
    programAll u ((base + (v - 1) / 64, BitVec.ofNat 64 (2 ^ ((v - 1) % 64))) ::
      fillRows base (if v ≤ old then 0 else old) (v - 1))

/-- The value of counter 0 firmware, 1 SQI, 2 KEY_FLOOR. -/
def counterOf (s : State) (which : Nat) : Nat :=
  if which == 0 then fwCounter s else if which == 1 then sqiCounter s else keyFloor s

/-- Are all bits of a counter below v programmed? -/
def counterFilled (s : State) (which v : Nat) : Bool :=
  if which == 2 then (List.range v).all fun g => bits (mrow s 0x1B0).toNat (16 * g + 15) (16 * g) == 0xFFFF
  else (List.range v).all fun b => counterBit s (if which == 0 then 0x180 else 0x198) b

/-- The raise would leave the running slot failing check 0x0B, or revoke every valid digest (R124). [DEDUCED: log 45] -/
def raiseBarred (s : State) (which v : Nat) : Bool :=
  if which == 2 then
    ((List.range 4).any (digestValid s)) && ((List.range 4).all fun k => !digestValid s k || decide (k < v))
  else s.boot.slot != 3 && decide ((if which == 0 then s.boot.fwRollback else s.boot.sqiRollback) < v)

/-- ROLLBACK_RAISE (R124, R133). [DESIGN CHOICE: log 44] -/
def otpRollbackRaise (s : State) (path : Path) (cmd : Word) (a : OtpAnalog) : State :=
  let which := wbits cmd 15 13
  let v := bits (rnat s 0x0002000C) 11 0
  match otpGate s path cmd true with
  | some e => otpRefuse s e
  | none =>
    if lcState s == 0 then otpRefuse s 0x01
    else if 3 ≤ which then let f := fresh s; otpRefuse f.2 (f.1 % 256)
    else if (if which == 2 then 4 else 1536) < v then otpRefuse s 0x06
    else if v < counterOf s which || (v == counterOf s which && counterFilled s which v) then otpRefuse s 0x05
    else if raiseBarred s which v then otpRefuse s 0x09
    else if condStop a != 0 then otpRefuse s (condStop a)
    else otpEnd (raiseRun (otpBegin s a) which v (counterOf s which))

/-- POLICY_LOCK (R133). [DEDUCED: log 45] -/
def otpPolicyLock (s : State) (path : Path) (cmd : Word) (a : OtpAnalog) : State :=
  match otpGate s path cmd true with
  | some e => otpRefuse s e
  | none =>
    if lcState s != 4 then otpRefuse s 0x01
    else if taken s 0x173 then otpRefuse s 0x02
    else if condStop a != 0 then otpRefuse s (condStop a)
    else
      let w := BitVec.ofNat 64 (bits (rnat s 0x0002000C) 9 0)
      otpEnd (programAll (otpBegin s a) [(0x170, w), (0x171, w), (0x172, w), (0x173, ones64)])

/-- KWRAP_GEN (R123): the key is the security engine's own random value. [DEDUCED: log 45] -/
def otpKwrapGen (s : State) (path : Path) (cmd : Word) (a : OtpAnalog) : State :=
  match otpGate s path cmd true with
  | some e => otpRefuse s e
  | none =>
    if lcState s != 3 || kwrapPresent s then otpRefuse s 0x01
    else if condStop a != 0 then otpRefuse s (condStop a)
    else
      let k0 := fresh s; let k1 := fresh k0.2; let k2 := fresh k1.2; let k3 := fresh k2.2
      let ws := [k0.1, k1.1, k2.1, k3.1].map (BitVec.ofNat 64)
      let chk := BitVec.ofNat 64 (leNat ((sha256 (ws.flatMap fun w => leBytes 8 w.toNat)).take 4))
      let u := programAll (otpBegin k3.2 a) ((ws.zipIdx.map fun x => (0x154 + x.2, x.1)) ++ [(0x158, chk)])
      otpEnd { u with s := modOtp u.s fun o => { o with rl := o.rl ||| 0x10 } }

/-- The lock bits that firmware can write (R132): WL but bits 3 and 6, RL of KEYS and CUSTOMER. -/
def lockMask : Nat := 0x90B7

/-- OTP_LOCK as read. -/
def otpLock (s : State) : Nat := s.otp.wl.toNat + 2 ^ 8 * s.otp.rl.toNat

/-- Sets sticky lock bits (R121). -/
def lockSet (s : State) (v : Nat) : State :=
  let x := v &&& lockMask
  modOtp s fun o => { o with wl := o.wl ||| BitVec.ofNat 8 x, rl := o.rl ||| BitVec.ofNat 8 (x / 256) }

/-- The locks that boot ROM sets in step 9 for the state (Table 4.7). [DESIGN CHOICE: log 38] -/
def bootLocks (s : State) : Nat :=
  let st := lcState s
  (if st == 3 || st == 4 then 0x07 else 0) + (if st == 4 then 0xB0 else 0) + (if kwrapPresent s then 0x1000 else 0) +
  (if 2 ≤ st then 0x8000 else 0)

/-! ### Step 2 of start-up (R138) -/

/-- The rows that step 2 completes: taken rows among the transition rows and DEBUG_DISABLE, and the FIELD row
when DEBUG_DISABLE is taken over PROVISIONED; DEBUG_DISABLE itself in FIELD or later. -/
def completeRows (s : State) : List Nat :=
  [0x10, 0x11, 0x12, 0x13, 0x14, 0x15].filter fun r =>
    taken s r || (r == 0x13 && taken s 0x15 && lcState s == 3) || (r == 0x15 && inField s)

/-- A row holds fewer than 64 bits at REF_T. -/
def notFull (s : State) (r : Nat) : Bool := otpRead s.otp r &&& ~~~weakOf s.otp r != ones64

/-- Completion of step 2.3 (R138): what is deferred is logged OTP_DEFER. -/
def completeRun (s : State) (a : OtpAnalog) : OtpRun :=
  let rows := (completeRows s).filter (notFull s)
  if rows == [] then otpBegin s a else
  let u := programAll (otpBegin s a) (rows.map fun r => (r, ones64))
  if u.stopped then { u with s := raise u.s 0xC 0 Code.otpDefer 1 }
  else { u with s := modOtp u.s fun o => { o with lcCompleted := true } }

/-- Margin checks of LIFECYCLE, KEYS and LANEMAP with at most 2 redirections (R128, R135). -/
def bootMargins (u : OtpRun) : List Nat → Nat → OtpRun
  | [], _ => u
  | r :: rs, room =>
    let w := weakOf u.s.otp r
    if room == 0 then bootMargins { u with s := marginMask u.s r } rs room
    else
      let before := sparesFree u.s.otp
      let u1 := marginRow u r
      let u2 := if w != 0 && condStop u.a != 0 then { u1 with s := raise u1.s 0xC 0 Code.otpDefer 1 } else u1
      bootMargins u2 rs (if sparesFree u2.s.otp < before then room - 1 else room)

/-- Loads the mirror. -/
def loadMirror (s : State) : State := modOtp s fun o => { o with mirror := mirrorOf o }

/-- The faults of Table 4.14 that step 2 raises and goes on from. -/
def otpFaults (s : State) : State :=
  let st := lcState s
  let health (s : State) (cause dig : Nat) : State :=
    raise s 0xC 0 Code.otpHealth 2 (packArgs [(cause, 1), (dig, 1), (0, 2), (sparesFree s.otp, 1), (st, 1)])
  let bad := (List.range 4).filter fun k => digestPresent s k && !digestValid s k
  let s := bad.foldl (fun s k => health s 1 k) s
  let s := if (st == 2 || st == 3) && !((List.range 4).any (digestValid s)) then health s 2 0xFF else s
  let s := if (st == 2 || st == 3) && kwrapPresent s && !kwrapValid s then health s 3 0xFF else s
  let s := if lcGap s then raise s 0xC 0 Code.lcGap 2 else s
  let s := modHk s fun h => { h with trimBad := !trimOk s }
  let s := if !trimOk s then raise s 0xC 0 Code.trimBad 2 else s
  let s := if !lanemapOk s then raise s 0xC 0 Code.lanemapBad 2 else s
  let disagree (r : Nat) : Bool := mrow s r != mrow s (r + 1) || mrow s r != mrow s (r + 2)
  if disagree 0x160 || disagree 0x170 then raise s 0xC 0 Code.policyDisagree 1 else s

/-- Does step 2 end in HALT_OTP (Table 4.14, R118)? -/
def otpHalts (s : State) : Bool :=
  (decide (2 ≤ lcState s) && !identOk s) ||
  (lcState s == 4 && ((kwrapPresent s && !kwrapValid s) || !((List.range 4).any (digestValid s)))) || lcState s == 5

/-- Step 2: mirror, decoding, completion, margin checks and faults (R138). -/
def otpLoad (s : State) (a : OtpAnalog) : State :=
  let u := completeRun (loadMirror s) a
  let v := bootMargins { u with res := 0 }
    (((List.range 16).map (0x10 + ·)) ++ ((List.range 32).map (0x140 + ·)) ++ (List.range 32).map (0x120 + ·)) 2
  let t := loadMirror v.s
  let t := modOtp t fun o => { o with policyEff := restriction t, debugEffective := debugDisabled t }
  otpFaults t

end Sys2Proof.Machine
end

