-- ==== Sys2Proof/Machine/EdlOps.lean ====
section
/-! DEFINITION. The die links: which port meets which, routes, the sideband, spare steering, the link error
counter, isolation, and sending and receiving parcels (chapters 05 and 06). -/
namespace Sys2Proof.Machine

/-! ### Topology (Tables 1.2, 1.9, 24.5) -/

/-- The two ends of link i of Table 1.2; in the BX7710, links 0, 2, 4, 8 and 9 alone, link 4 joining CD0 CW and
CD2 CCW (R111, R164). -/
def linkEnds (p : Part) (i : Nat) : Option (PortId × PortId) :=
  match p, i with
  | .bx7720, 0 | .bx7710, 0 => some (⟨.eye, 0⟩, ⟨.cd0, 0⟩)
  | .bx7720, 1 => some (⟨.eye, 1⟩, ⟨.cd1, 0⟩)
  | .bx7720, 2 | .bx7710, 2 => some (⟨.eye, 2⟩, ⟨.cd2, 0⟩)
  | .bx7720, 3 => some (⟨.eye, 3⟩, ⟨.cd3, 0⟩)
  | .bx7720, 4 => some (⟨.cd0, 1⟩, ⟨.cd1, 2⟩)
  | .bx7710, 4 => some (⟨.cd0, 1⟩, ⟨.cd2, 2⟩)
  | .bx7720, 5 => some (⟨.cd1, 1⟩, ⟨.cd2, 2⟩)
  | .bx7720, 6 => some (⟨.cd2, 1⟩, ⟨.cd3, 2⟩)
  | .bx7720, 7 => some (⟨.cd3, 1⟩, ⟨.cd0, 2⟩)
  | .bx7720, 8 | .bx7710, 8 => some (⟨.cd2, 3⟩, ⟨.svc, 0⟩)
  | .bx7720, 9 | .bx7710, 9 => some (⟨.eye, 4⟩, ⟨.svc, 1⟩)
  | _, _ => none

/-- The link a port belongs to, and whether the port is at its first-named end. -/
def portLink (part : Part) (p : PortId) : Option (Nat × Bool) :=
  (List.range 10).findSome? fun i => match linkEnds part i with
    | some (a, b) => if a == p then some (i, true) else if b == p then some (i, false) else none
    | none => none

/-- The port at the other end. -/
def peerPort (part : Part) (p : PortId) : Option PortId :=
  match portLink part p with
  | some (i, fst) => (linkEnds part i).map fun e => if fst then e.2 else e.1
  | none => none

/-- May a register access reach a die: SVC always, another die in LOADING, READY, RUNNING or SINK (R690)? -/
def dieOpen (s : State) (d : Die) : Bool :=
  d == .svc || (let x := (s.die d).state; x == 3 || x == 4 || x == 5 || x == 7)

/-- The unit that logs for a die's EDL ports (Table 20.3). -/
def edlUnit : Nat := 0xF

/-! ### LINK_SUMMARY (R161) -/

/-- LINK_SUMMARY as a word. -/
def linkSummary (s : State) : Nat := ((List.range 10).map fun i => (s.boot.links[i]?.getD 0) * 2 ^ (3 * i)).sum

/-- The width code of a direction from its two bundles (Table 5.5): 0 none, 1 W32, 2 W64, 3 W128. -/
def widthOf (b0 b1 : BState) : Nat :=
  match b0, b1 with
  | .off, .off => 0
  | .full, .full => 3
  | .full, _ | _, .full => 2
  | .off, _ | _, .off => 1
  | _, _ => 2

/-- TX_WIDTH and RX_WIDTH of a port end. -/
def txWidth (e : EdlPort) : Nat := widthOf e.tx0.state e.tx1.state
def rxWidth (e : EdlPort) : Nat := widthOf e.rx0.state e.rx1.state

/-- Sets a link's LINK_SUMMARY state and raises HEALTH LINK_CHANGE with the layout of Table 20.12. -/
def linkChange (s : State) (i new cause : Nat) : State :=
  let before := s.boot.links[i]?.getD 0
  let s1 := modBoot s fun b => { b with links := b.links.setIfInBounds i new }
  let e := match linkEnds s.part i with | some (a, _) => s.port a | none => default
  raise s1 edlUnit 0 Code.linkChange 2
    (packArgs [(i, 1), (new, 1), (before, 1), (cause, 1), (txWidth e, 1), (rxWidth e, 1), (0, 2), (linkSummary s1, 4)])

/-- As `linkChange`, once: nothing when the link is already in the state. -/
def linkChangeOnce (s : State) (p : PortId) (new cause : Nat) : State :=
  match portLink s.part p with
  | some (i, _) => if s.boot.links[i]?.getD 0 == new then s else linkChange s i new cause
  | none => s

/-! ### The sideband (R149–R152, R50) -/

/-- The 48-bit word of a link-management word or token from its upper 40 bits: CHK is CRC-8 over bits 47..8,
from bit 47 downward (R50, R152). -/
def withChk (upper : Nat) : BitVec 48 := BitVec.ofNat 48 (upper * 256 + crc8 (beBytes 5 upper))

/-- An LMW (Table 5.6). -/
def lmwWord (op arg data : Nat) : BitVec 48 := withChk (op * 2 ^ 36 + arg * 2 ^ 32 + data)

/-- A class-0 token (Table 2.5). -/
def tokenWord (typ dest src unit act entry ep : Nat) : BitVec 48 :=
  withChk (typ * 2 ^ 36 + dest * 2 ^ 32 + src * 2 ^ 28 + unit * 2 ^ 20 + act * 2 ^ 12 + entry * 8 + ep)

/-- Does the CHK of a voted word match (R50)? -/
def chkOk (w : BitVec 48) : Bool := (withChk (w.toNat / 256)) == w

/-- The fields of a token. -/
def tokType (w : BitVec 48) : Nat := bits w.toNat 47 44
def tokDest (w : BitVec 48) : Nat := bits w.toNat 43 40
def tokSrc (w : BitVec 48) : Nat := bits w.toNat 39 36
def tokUnit (w : BitVec 48) : Nat := bits w.toNat 35 28
def tokAct (w : BitVec 48) : Nat := bits w.toNat 27 20
def tokEntry (w : BitVec 48) : Nat := bits w.toNat 19 11
def tokEp (w : BitVec 48) : Nat := bits w.toNat 10 8

/-- Sends a word on a port's sideband. [DESIGN CHOICE: log 49] -/
def sendSb (s : State) (p : PortId) (w : BitVec 48) : State := emit s (.token p w)

/-! ### Routes (R187) -/

/-- The route entry of a destination on a die. -/
def routeAddr (d : Die) (dst : Nat) : Nat := routeBase d + 4 * dst

/-- The port an entry names now: ALT once it has switched, else PRI, if valid. [DESIGN CHOICE: log 49] -/
def routePort (s : State) (d : Die) (dst : Nat) : Option PortId :=
  let a := routeAddr d dst
  if rb s a 8 then (if rb s a 7 then some ⟨d, rf s a 6 4⟩ else none)
  else if rb s a 3 then some ⟨d, rf s a 2 0⟩ else none

/-- One entry after the loss of port n of its die (R187). -/
def routeAfterLoss (w n : Nat) : Nat :=
  let altHit := nbit w 7 && bits w 6 4 == n
  let w1 := if altHit then w - 128 else w
  if nbit w 3 && bits w 2 0 == n && !nbit w 8 then
    (if nbit w1 7 then w1 + 256 else w1 - 8)
  else w1

/-- All entries of a die after the loss of a port. -/
def switchRoutes (s : State) (p : PortId) : State :=
  (List.range 16).foldl (fun s d =>
    let a := routeAddr p.die d
    rput s a (toWord (routeAfterLoss (rnat s a) p.port))) s

/-- An entry of a default route table: destination, PRI, ALT (8 for no valid port). -/
def routeEntry (pri alt : Nat) : Nat :=
  (if pri < 8 then pri + 8 else 0) + (if alt < 8 then 16 * alt + 128 else 0)

/-- The default route tables of Tables 6.9 and 6.17 (R187, R704): die, destination code, PRI, ALT. -/
def defaultRoutes : Part → List (Die × Nat × Nat × Nat)
  | .bx7720 =>
    [(.cd0, 5, 1, 2), (.cd0, 6, 1, 2), (.cd0, 7, 2, 1), (.cd0, 1, 0, 8), (.cd0, 0, 1, 2),
     (.cd1, 6, 1, 2), (.cd1, 7, 1, 2), (.cd1, 4, 2, 1), (.cd1, 1, 0, 8), (.cd1, 0, 1, 2),
     (.cd2, 7, 1, 2), (.cd2, 4, 1, 2), (.cd2, 5, 2, 1), (.cd2, 1, 0, 8), (.cd2, 0, 3, 0),
     (.cd3, 4, 1, 2), (.cd3, 5, 1, 2), (.cd3, 6, 2, 1), (.cd3, 1, 0, 8), (.cd3, 0, 2, 1),
     (.eye, 0, 4, 2), (.eye, 4, 0, 8), (.eye, 5, 1, 8), (.eye, 6, 2, 8), (.eye, 7, 3, 8),
     (.svc, 1, 1, 0), (.svc, 6, 0, 1), (.svc, 4, 1, 0), (.svc, 5, 1, 0), (.svc, 7, 1, 0)]
  | .bx7710 =>
    [(.cd0, 6, 1, 8), (.cd0, 1, 0, 8), (.cd0, 0, 1, 0), (.cd2, 4, 2, 8), (.cd2, 1, 0, 8), (.cd2, 0, 3, 0),
     (.eye, 0, 4, 2), (.eye, 4, 0, 8), (.eye, 6, 2, 8), (.svc, 1, 1, 0), (.svc, 6, 0, 1), (.svc, 4, 1, 0)]

/-- Is a port's link in use: neither ABSENT, FAILED nor ISOLATED in LINK_SUMMARY? -/
def linkUsable (s : State) (p : PortId) : Bool :=
  match portLink s.part p with
  | some (i, _) => let x := s.boot.links[i]?.getD 0; x == 1 || x == 2
  | none => false

/-- Firmware loads the route tables of a die and takes every failed link as isolated (R85, R187, R201). -/
def loadRoutesOf (s : State) (d : Die) : State :=
  let s1 := (defaultRoutes s.part).foldl (fun s e =>
    if e.1 == d then rput s (routeAddr d e.2.1) (toWord (routeEntry e.2.2.1 e.2.2.2)) else s) s
  (List.range d.portCount).foldl (fun s n => if linkUsable s ⟨d, n⟩ then s else switchRoutes s ⟨d, n⟩) s1

/-- Firmware loads all route tables. -/
def loadRoutes (s : State) : State := (fittedDies s).foldl loadRoutesOf s

/-! ### Sending parcels (R169, R187) -/

/-- Marks the epoch PARTIAL, a die being concerned (R59). -/
def markPartial (s : State) (d : Die) : State :=
  modSeq s fun q => { q with cur := { q.cur with partialEp := true, dies := q.cur.dies ||| 2 ^ d.code } }

/-- Queues a parcel at a port, behind the parcels of its VC. -/
def enqueueParcel (s : State) (p : PortId) (x : Parcel) : State :=
  modPort s p fun e => { e with txq := vmod e.txq x.vc (· ++ [x]) }

/-- A parcel at a die leaves by the route of its destination; with no route it is discarded and NO_ROUTE logged
(R187). -/
def routeParcel (s : State) (d : Die) (x : Parcel) : State :=
  match routePort s d x.dst with
  | some p => enqueueParcel s p x
  | none => raiseOn s d edlUnit 0 Code.noRoute 2 (args4 [x.src, x.dst])

/-- A parcel that a die originates: SRC and EP are its own (R169). -/
def sendParcel (s : State) (d : Die) (x : Parcel) : State :=
  routeParcel s d { x with src := d.code, ep := (s.die d).ep, plen := x.payload.length }

/-- A VC0 control message (Table 6.16). -/
def msgParcel (dst : Die) (code : Nat) (payload : List Byte) : Parcel :=
  { src := 0, dst := dst.code, vc := 0, cls := 0, kind := 8, arg := code, payload := payload }

/-- A die sends a control message to another (R173). -/
def sendMsg (s : State) (src dst : Die) (code : Nat) (payload : List Byte) : State :=
  sendParcel s src (msgParcel dst code payload)

/-- A LEDGER_WRITE parcel for a whole line (R173). -/
def ledgerParcel (dst : Die) (line : Nat) (data : BitVec 512) : Parcel :=
  { src := 0, dst := dst.code, vc := 0, cls := 0, kind := 9, arg := line, payload := leBytes 64 data.toNat }

/-! ### Loss of a port (R186–R188) -/

/-- What a lost port's transmitter does: unacknowledged VC0 and VC5 parcels are re-issued by the new route ahead
of new ones, VC1–VC4 parcels are discarded and make the epoch PARTIAL; parcels waiting take the new route (R188). -/
def reissue (s : State) (p : PortId) : State :=
  let e := s.port p
  let kept := (e.replayBuf.map (·.2)).filter fun x => x.vc == 0 || x.vc == 5
  let lost := (e.replayBuf.map (·.2)).any fun x => x.vc != 0 && x.vc != 5
  let s1 := modPort s p fun e => { e with replayBuf := [], replayQ := [], replayPoint := none, txq := Vector.replicate 6 [] }
  let s2 := kept.reverse.foldl (fun s x => match routePort s p.die x.dst with
    | some q => modPort s q fun e => { e with txq := vmod e.txq x.vc (x :: ·) }
    | none => raiseOn s p.die edlUnit 0 Code.noRoute 2 (args4 [x.src, x.dst])) s1
  let s3 := e.txq.toList.flatten.foldl (fun s x => routeParcel s p.die x) s2
  if lost then markPartial s3 p.die else s3

/-- Routes switch away from a lost port, and its parcels take the new routes; SVC measures LAT_COMP again at the
next equinox (R53), and in the BX7710 the loss of the link CD0–CD2 makes the epoch PARTIAL (R198). -/
def portLost (s : State) (p : PortId) : State :=
  let s1 := modSeq (reissue (switchRoutes s p) p) fun q => { q with remeasure := true }
  if s.part == .bx7710 && (portLink s.part p).map (·.1) == some 4 then markPartial s1 p.die else s1

/-- Isolation of a port (R186); during negotiation the port is FAILED instead (Table 6.13). -/
def isolatePort (s : State) (p : PortId) : State :=
  match (s.port p).pstate with
  | .isolated | .dead | .absent | .down => s
  | .negotiating => linkChangeOnce (portLost (modPort s p fun e => { e with pstate := .down }) p) p 5 3
  | _ =>
    let s1 := modPort s p fun e => { e with
      pstate := .isolated, phy := if e.phy == .retraining then .up else e.phy, retrainDue := false, nakPending := false }
    let s2 := raiseOn s1 p.die edlUnit p.port Code.linkIsolated 2
    linkChangeOnce (portLost s2 p) p 3 1

/-- A port becomes DEAD: STATE reads DOWN, its bundles are gated, and LAST_FAIL names the cause (R703). [DESIGN CHOICE: log 48] -/
def deadPort (s : State) (p : PortId) (cause : Nat) : State :=
  let s1 := modPort s p fun e => { e with pstate := .dead, phy := .down, lastFail := cause, retrainDue := false,
                                          rx0 := { e.rx0 with state := .off }, rx1 := { e.rx1 with state := .off },
                                          tx0 := { e.tx0 with state := .off }, tx1 := { e.tx1 with state := .off } }
  linkChangeOnce (portLost s1 p) p 5 2

/-- A port goes DOWN in operation with a cause, to be retried (Table 5.12). -/
def downPort (s : State) (p : PortId) (cause code : Nat) : State :=
  let s1 := modPort s p fun e => { e with pstate := .down, phy := .down, sbUp := false, lastFail := cause, retries := 0,
                                          retrainDue := false }
  linkChangeOnce (portLost (raiseOn s1 p.die edlUnit p.port code 2) p) p 5 3

/-- A port is FAILED by training or negotiation: DOWN, its link FAILED in LINK_SUMMARY (R161, R191, R200). [DESIGN CHOICE: log 48] -/
def failPort (s : State) (p : PortId) (lastFail : Nat) : State :=
  let s1 := modPort s p fun e => { e with pstate := .down, phy := .down, sbUp := false, poweredOff := true,
                                          lastFail := if lastFail == 0 then e.lastFail else lastFail }
  let s2 := match portLink s.part p with
    | some (i, _) => modBoot s1 fun b => { b with links := b.links.setIfInBounds i 5 }
    | none => s1
  portLost s2 p

/-! ### Retrains and the link error counter (R182–R184) -/

/-- Starts a retrain of an UP port: the RETRAIN word goes to the partner (R154, R184); between T_D and the EQUINOX
token it is deferred (Table 5.11). -/
def startRetrain (s : State) (p : PortId) : State :=
  let e := s.port p
  if e.pstate != .up && e.pstate != .sink then s
  else if s.seqr.killed then modPort s p fun e => { e with retrainDue := true }
  else
    let w := lmwWord 6 0 0
    sendSb (modPort s p fun e => { e with
      pstate := .retraining, phy := .retraining, step := 3, retrainDue := false, answered := false, lmw := some w,
      lmwSends := 1 }) p w

/-- Adds to a port's LEC and acts at the thresholds of Table 6.7. -/
def lecAdd (s : State) (p : PortId) (n : Nat) : State :=
  let e := s.port p
  let lec := min 511 (e.lec + n)
  let s1 := modPort s p fun e => { e with lec := lec, lecMax := max e.lecMax lec }
  if 384 ≤ lec then isolatePort s1 p else
  let s2 := if 128 ≤ lec && e.warnArmed then
      raiseOn (modPort s1 p fun e => { e with warnArmed := false, lecWarn := true }) p.die edlUnit p.port Code.lecWarn 1
    else s1
  if 256 ≤ lec && e.rtArmed then startRetrain (modPort s2 p fun e => { e with rtArmed := false }) p else s2

/-- Counts a CRC-good parcel: every 256th lowers LEC by 1, which may re-arm (R182, R183). -/
def goodParcel (e : EdlPort) : EdlPort :=
  let g := e.good + 1
  let lec := if g % 256 == 0 then e.lec - 1 else e.lec
  { e with good := g % 256, goodTotal := e.goodTotal + 1, lec := lec, warnArmed := e.warnArmed || decide (lec < 96),
           lecWarn := e.lecWarn && !decide (lec < 96), rtArmed := e.rtArmed || decide (lec < 192) }

/-! ### The sideband receiver (R150, R50) -/

/-- The bitwise 2-of-3 majority of a frame's copies. -/
def voted (f : SbFrame) : BitVec 48 := (f.w0 &&& f.w1) ||| (f.w0 &&& f.w2) ||| (f.w1 &&& f.w2)

/-- The vote fails when no two copies are equal. -/
def voteFails (f : SbFrame) : Bool := f.w0 != f.w1 && f.w0 != f.w2 && f.w1 != f.w2

/-- SB_DEAD: the port is DEAD at once, logged at severity 3 (R200). -/
def sbDie (s : State) (p : PortId) : State :=
  let s1 := modPort s p fun e => { e with sbDead := true }
  let s2 := raiseOn s1 p.die edlUnit p.port Code.sbDead 3
  deadPort s2 p 6

/-- Takes a frame: vote, VOTE_FAIL, SB_DEAD at the third failure in a row, and CHK; the word, if its CHK passes
(R150). -/
def sbTake (s : State) (f : SbFrame) : Option (BitVec 48) × State :=
  let p := f.port
  let w := voted f
  let s1 := if voteFails f then
      let t := raiseOn (modPort s p fun e => { e with voteFails := satAdd 65535 e.voteFails 1, voteRun := min 3 (e.voteRun + 1) })
        p.die edlUnit p.port Code.voteFail 1
      if (t.port p).voteRun == 3 && !(t.port p).sbDead then sbDie t p else t
    else modPort s p fun e => { e with voteRun := 0 }
  if chkOk w then (some w, s1)
  else (none, modPort s1 p fun e => { e with chkFails := satAdd 255 e.chkFails 1 })

/-- A discarded token is logged TOKEN_BAD by the die that received it (R50, R51). [DESIGN CHOICE: log 48] -/
def tokenBad (s : State) (p : PortId) : State := raiseOn s p.die edlUnit p.port Code.tokenBad 1

/-- The port by which a class-0 token for a die leaves another die: by the route in use (R53); where the route has
no valid port, by the default port while that is isolated, for its sideband stays in use (R186). -/
def relayPort (s : State) (d : Die) (dst : Nat) : Option PortId :=
  match routePort s d dst with
  | some q => some q
  | none => (defaultRoutes s.part).findSome? fun e =>
      if e.1 == d && e.2.1 == dst && (s.port ⟨d, e.2.2.1⟩).pstate == .isolated then some ⟨d, e.2.2.1⟩ else none

/-- Takes a class-0 token: relayed when it is for another die (R149, chapter 02), else delivered to its die. -/
def takeToken (s : State) (f : SbFrame) : Option (BitVec 48) × State :=
  match sbTake s f with
  | (none, s1) => (none, tokenBad s1 f.port)
  | (some w, s1) =>
    if tokType w == 0 || decide (7 ≤ tokType w) then (none, tokenBad s1 f.port)
    else if tokDest w == f.port.die.code then (some w, s1)
    else match relayPort s1 f.port.die (tokDest w) with
      | some q => (none, sendSb s1 q w)
      | none => (none, raiseOn s1 f.port.die edlUnit 0 Code.noRoute 2 (args4 [tokSrc w, tokDest w]))

/-- SVC sends a class-0 token to a die. -/
def svcToken (s : State) (dst : Die) (typ unit act entry ep : Nat) : State :=
  if dst == .svc then s else
  match relayPort s .svc dst.code with
  | some p => sendSb s p (tokenWord typ dst.code 0 unit act entry ep)
  | none => s

/-! ### Receiving parcels (R170–R181) -/

/-- Frees the replay entries up to an ACK (R181). -/
def ackFree (e : EdlPort) (a : Nat) : EdlPort :=
  let gone (x : Nat) : Bool := decide ((a + 1024 - x) % 1024 < 512)
  { e with replayBuf := e.replayBuf.filter fun x => !gone x.1, replayQ := e.replayQ.filter fun x => !gone x.1 }

/-- A NAK replays every entry after its ACK, unless a replay from that point runs (R181, Table 6.13). -/
def nakReplay (e : EdlPort) (a : Nat) : EdlPort :=
  if e.replayPoint == some a && e.replayQ != [] then e else { e with replayQ := e.replayBuf, replayPoint := some a }

/-- Available credit of a VC: initial minus sent plus freed, modulo 2^16 (R177). -/
def creditOf (e : EdlPort) (v : Nat) : Nat :=
  (lget 0 e.ag.credit v + 65536 - (vget e.sentCnt v).toNat + (vget e.freedIn v).toNat) % 65536

/-- Takes a freed count of a VC; one that would raise available credit above the advertised value sets it to
that value (R177, Table 6.13).  The Bool says that CREDIT_ERR arose. -/
def takeFreed (e : EdlPort) (v : Nat) (x : BitVec 16) : EdlPort × Bool :=
  let e1 := { e with freedIn := e.freedIn.setIfInBounds v x }
  if creditOf e1 v ≤ lget 0 e.ag.credit v then (e1, false)
  else ({ e with freedIn := e.freedIn.setIfInBounds v (vget e.sentCnt v) }, true)

/-- A CREDIT_ERR is logged and adds 8 to LEC (Table 6.13). -/
def creditErr (s : State) (p : PortId) (bad : Bool) : State :=
  if bad then lecAdd (raiseOn s p.die edlUnit p.port Code.creditErr 2) p 8 else s

/-- Uses the ACK, NAK and credit report of a CRC-good parcel (R177, R179, R181). -/
def takeTrailer (s : State) (p : PortId) (t : Trailer) : State :=
  let e := goodParcel (s.port p)
  let e1 := if t.av then ackFree e t.ack else e
  let e2 := if t.nak then nakReplay e1 t.ack else e1
  let old := vget e2.freedIn t.cvc
  let x := old + BitVec.ofNat 16 ((t.cnt + 16 - old.toNat % 16) % 16)
  let r := if t.cvc < 6 then takeFreed e2 t.cvc x else (e2, false)
  creditErr (modPort s p fun _ => r.1) p r.2

/-- Is a KIND defined on a VC (Table 6.4)? -/
def kindDefined (vc kind : Nat) : Bool :=
  match vc with
  | 0 => decide (kind ≤ 5) || (decide (8 ≤ kind) && decide (kind ≤ 10))
  | 1 | 2 | 3 | 4 => kind == 0
  | 5 => decide (kind ≤ 2)
  | _ => false

/-- May a class travel on a VC (Table 6.3)? -/
def classOnVc (cls vc : Nat) : Bool :=
  match vc with
  | 0 => cls == 0
  | 1 => decide (1 ≤ cls) && decide (cls ≤ 4)
  | 2 => cls == 0
  | 3 => cls == 0 || cls == 1
  | 4 => cls == 1
  | 5 => cls == 5
  | _ => false

/-- Does compute die n's route to SVC pass through the EYE, so that its INNER direction runs in relay mode (R189)? -/
def relayMode (s : State) (cd : Nat) : Bool := routePort s (Die.ofCd cd) 0 == some ⟨Die.ofCd cd, 0⟩

/-- May a class enter a die by a port (Table 1.6, R189)? -/
def classOnLink (s : State) (p : PortId) (x : Parcel) : Bool :=
  match p.die with
  | .svc =>
    if p.port == 0 then x.cls == 0 || x.cls == 4 || x.cls == 5
    else x.cls == 0 || x.cls == 3 || x.cls == 4 || x.cls == 5
  | .eye =>
    if p.port < 4 then x.cls == 0 || x.cls == 1 || x.cls == 5 || (x.cls == 4 && x.dst == 0 && relayMode s p.port)
    else x.cls == 0 || x.cls == 5
  | _ =>
    if p.port == 0 then x.cls == 0 || x.cls == 2 || x.cls == 5
    else if p.port == 3 then x.cls == 0 || x.cls == 5
    else x.cls == 0 || x.cls == 1 || x.cls == 2 || x.cls == 4 || x.cls == 5

/-- The PLEN of a message code; none for an undefined code (Table 6.16). -/
def msgLen : Nat → Option Nat
  | 1 => some 12 | 2 => some 12 | 3 => some 8 | 4 => some 8 | 5 => some 8 | 6 => some 12 | 7 => some 4 | 8 => some 16
  | 9 => some 16 | 10 => some 8 | _ => none

/-- Is a parcel free of class violations (R171–R173)? -/
def parcelOk (s : State) (p : PortId) (x : Parcel) : Bool :=
  decide (x.vc < 6) && decide (x.cls < 6) && classOnVc x.cls x.vc && classOnLink s p x && kindDefined x.vc x.kind &&
  (x.vc != 0 || x.kind != 8 || msgLen x.arg == some x.plen) &&
  (x.vc != 0 || x.kind != 9 || (x.plen == 64 && decide (x.arg < 2048)))

/-- A buffer of a VC is freed (R176). [DESIGN CHOICE: log 49] -/
def freeBuffer (s : State) (p : PortId) (vc : Nat) : State :=
  modPort s p fun e => { e with freedOut := vmod e.freedOut vc (· + 1) }

/-- Adds to one half of EDL_DROP (Table 6.11). -/
def dropLow (e : EdlPort) : EdlPort := { e with dropLo := satAdd 65535 e.dropLo 1 }
def dropHigh (e : EdlPort) : EdlPort := { e with dropHi := satAdd 65535 e.dropHi 1 }

/-- A NAK becomes due (R179). -/
def nakNow (e : EdlPort) : EdlPort :=
  if e.nakPending then e else { e with nakPending := true, nakDue := true, nulDue := true, naks := e.naks + 1 }

/-- Has the die sent DRAINED in this epoch, so that VC1–VC4 parcels are discarded until the equinox (R58)? -/
def drainedNow (s : State) (d : Die) : Bool := (s.die d).drainedSent

/-- An in-order parcel after the sequence check: class violations, stale EP and drained dies are discarded, a
parcel for another die is forwarded; what is left is for this die (R58, R171, R174, R187). [DESIGN CHOICE: log 51] -/
def sortParcel (s : State) (p : PortId) (x : Parcel) : Option Parcel × State :=
  let s1 := freeBuffer s p x.vc
  if !parcelOk s p x then
    (none, raiseOn (modPort s1 p dropLow) p.die edlUnit p.port Code.classDrop 1 (args4 [x.src, x.vc, x.cls]))
  else if decide (1 ≤ x.vc) && decide (x.vc ≤ 4) && (x.ep != (s.die p.die).ep || drainedNow s p.die) then
    (none, modPort s1 p dropHigh)
  else if x.dst == p.die.code then (some x, s1)
  else if p.die == .svc then (none, modPort s1 p dropLow)
  else match routePort s1 p.die x.dst with
    | some q => (none, enqueueParcel s1 q x)
    | none => (none, raiseOn (modPort s1 p dropLow) p.die edlUnit p.port Code.noRoute 2 (args4 [x.src, x.dst]))

/-- In SINK a compute die holds VC0 and VC5 parcels with their credit, discards VC1 and VC4 ones, takes VC2 and VC3 ones,
and forwards those for another die (Table 7.4). [DESIGN CHOICE: log 51] -/
def sinkTake (s : State) (r : LinkRx) : Option Parcel × State :=
  if r.p.dst != r.port.die.code || r.p.vc == 2 || r.p.vc == 3 then sortParcel s r.port r.p
  else if r.p.vc == 0 || r.p.vc == 5 then
    (none, match r.port.die.cdIdx with
      | some cd => modFab s cd fun f => { f with sinkHeld := f.sinkHeld ++ [r] }
      | none => s)
  else (none, modPort (freeBuffer s r.port r.p.vc) r.port dropHigh)

/-- Receives a sequenced CRC-good parcel at a port (Table 6.6): the parcel, if it is accepted in order and is for
this die, and the state after. [DESIGN CHOICE: log 49] -/
def linkReceive (s : State) (r : LinkRx) : Option Parcel × State :=
  let p := r.port
  let e := s.port p
  if e.pstate != .up && e.pstate != .sink then (none, s) else
  let s1 := takeTrailer s p r.t
  if r.t.u then (none, s1) else
  let d := (r.t.seq + 1024 - e.expected) % 1024
  if d == 0 then
    let s2 := modPort s1 p fun e => { e with expected := (e.expected + 1) % 1024, acceptedAny := true, ackDue := true,
                                             nakPending := false, nakDue := false }
    if e.pstate == .sink then sinkTake s2 r else sortParcel s2 p r.p
  else if 512 ≤ d then (none, modPort s1 p fun e => { e with ackDue := true, nulDue := true })
  else (none, modPort s1 p nakNow)

/-- Receives a parcel and, when it is for this die and of the kind the command names, runs its effect; any other
parcel is taken by the link layer alone. [DEDUCED: log 50] -/
def onParcel (s : State) (r : LinkRx) (vc kind : Nat) (f : State → Parcel → State) : Res :=
  onUnit (portOk s r.port) (match linkReceive s r with
    | (some x, s1) => if x.vc == vc && x.kind == kind then f s1 x else s1
    | (none, s1) => s1)

/-- Receives a control message of one code. [DEDUCED: log 50] -/
def onMsg (s : State) (r : LinkRx) (code : Nat) (f : State → Parcel → State) : Res :=
  onParcel s r 0 8 fun s x => if x.arg == code then f s x else s

/-- Receives a token of one type at its die. -/
def onToken (s : State) (t : SbFrame) (typ : Nat) (f : State → BitVec 48 → State) : Res :=
  onUnit (portOk s t.port) (match takeToken s t with
    | (some w, s1) => if tokType w == typ then f s1 w else s1
    | (none, s1) => s1)

end Sys2Proof.Machine
end

