-- ==== Sys2Proof/Machine/Check.lean ====
section
/-! DEFINITION. The check contexts and the commands of the trouble log (chapter 20). -/
namespace Sys2Proof.Machine

/-- How a register write ended, with the state after it. -/
abbrev WriteRes := State × AccStatus

/-- The answer to a register write on its path. [DESIGN CHOICE: log 14] -/
def answerWrite (path : Path) (addr : Nat) (r : WriteRes) : State := answer r.1 path addr r.2

/-! ### Check contexts (R607–R612) -/

/-- The registers of context c. -/
def cvBase (c : Nat) : Nat := 0x000D0000 + 0x100 * c

/-- May a path write the check contexts (R627)?  Over BCP a write comes from the owner. -/
def cvPathOk (s : State) : Path → Bool
  | .core => true
  | .bcp | .jtag => !inField s
  | .i2c => false

/-- The check context's result: the running value XOR XOROUT (R607). -/
def cvResult (x : CvCtx) : Nat := x.value.toNat ^^^ crcXorOut x.alg

/-- Finishes a context: DONE, and with CMP_EN the compare (R611). [DEDUCED: log 106] -/
def cvFinishNow (s : State) (c : Nat) : State :=
  let s1 := modCv s c fun x => { x with done := true }
  let x := vget s.cv c
  let want := rnat s (cvBase c + 0x10)
  if !rb s (cvBase c) 2 || cvResult x == want % 2 ^ crcWidth x.alg then s1 else
  let s2 := modCv s1 c fun x => { x with mismatch := true, mismatches := satAdd 65535 x.mismatches 1 }
  let s3 := raise s2 0xA 0 Code.checkMismatch 1 (args4 [c, want, cvResult x])
  if rb s (cvBase c) 3 then
    let irq := rnat s3 0x000D0400 ||| 2 ^ c
    emit (rput s3 0x000D0400 (toWord irq)) (.interrupt irq)
  else s3

/-- Feeds bytes into a context (R608). -/
def cvFeed (s : State) (c : Nat) (bs : List Byte) : State :=
  modCv s c fun x => { x with value := toWord (bs.foldl (crcFeed x.alg) x.value.toNat), bytes := x.bytes + toWord bs.length }

/-- START: the initial value, the counts cleared, the path bound; a run under way ends (R608, Table 20.9). -/
def cvStartNow (s : State) (path : Path) (c : Nat) : State :=
  let alg := rf s (cvBase c) 1 0
  modCv s c fun x => { x with alg := alg, bound := some path, value := toWord (crcInit alg), bytes := 0, busy := false,
                              done := false, mismatch := false }

/-- A data write, state write or DMA start refused for its path: PATH_ERR and CV_PATH (R608). -/
def cvRefuse (s : State) (c : Nat) : State :=
  raise (modCv s c fun x => { x with pathErr := true }) 0xA 0 Code.cvPath 1

/-- DMA_GO: the run begins if its source is aligned and in SVC SRAM (R610). [DEDUCED: log 106] -/
def cvDmaNow (s : State) (c : Nat) : State :=
  let src := rnat s (cvBase c + 0x20)
  let len := rf s (cvBase c + 0x24) 22 0
  if (vget s.cv c).busy then s
  else if src % 4 != 0 || len == 0 || decide (src < 0x00400000) || decide (0x00800000 < src + len) then
    modCv s c fun x => { x with dmaErr := true }
  else modCv s c fun x => { x with busy := true, runSrc := src, runLen := len }

/-- A write of CV_CTRL: the fields are stored, then START, DMA_GO and FINISH act in that order (R608, R610, R611). [DEDUCED: log 106] -/
def cvCtrlWrite (s : State) (path : Path) (c : Nat) (v : Word) : WriteRes :=
  if !cvPathOk s path then (s, .path)
  else if wbit v 6 && !wbit v 4 && (vget s.cv c).bound != some path then (cvRefuse s c, .refused)
  else
    let s1 := rput s (cvBase c) (v &&& 0x8F)
    let s2 := if wbit v 4 then cvStartNow s1 path c else s1
    let s3 := if wbit v 6 then cvDmaNow s2 c else s2
    (if wbit v 5 then cvFinishNow s3 c else s3, .ok)

/-- Is a data or state write taken; if not, the state after its refusal (R608, Table 20.9)? [DEDUCED: log 106] -/
def cvGate (s : State) (path : Path) (c : Nat) : Option State :=
  if (vget s.cv c).bound != some path then some (cvRefuse s c)
  else if (vget s.cv c).busy then some (raise s 0xA 0 Code.cvPath 1)
  else none

/-- A write of CV_DATA8, CV_DATA16 or CV_DATA32: n bytes, least significant first (R608). -/
def cvDataWriteReg (s : State) (path : Path) (c n : Nat) (v : Word) : WriteRes :=
  if !cvPathOk s path then (s, .path) else
  match cvGate s path c with
  | some s1 => (s1, .refused)
  | none => (cvFeed s c (leBytes n v.toNat), .ok)

/-- A write of CV_STATE (R609): the low WIDTH bits replace the running value. -/
def cvStateWriteReg (s : State) (path : Path) (c : Nat) (v : Word) : WriteRes :=
  if !cvPathOk s path then (s, .path) else
  match cvGate s path c with
  | some s1 => (s1, .refused)
  | none => (modCv s c fun x => { x with value := toWord (v.toNat % 2 ^ crcWidth x.alg) }, .ok)

/-- CV_DATA8, CV_DATA16 and CV_DATA32 by the bytes they feed. -/
def cvDataAddr (c bytes : Nat) : Nat := cvBase c + (if bytes == 1 then 0x14 else if bytes == 2 then 0x18 else 0x1C)

/-- CV_START (R608). -/
def execCvStart (path : Path) (ctx : Nat) (ctrl : Word) (s : State) : Res :=
  onUnit (decide (ctx < 4)) (answerWrite path (cvBase ctx) (cvCtrlWrite s path ctx (ctrl ||| 0x10)))

/-- CV_DATA_WRITE (R608): the register is the one that feeds so many bytes. -/
def execCvDataWrite (path : Path) (ctx : Nat) (bytes : Nat) (v : Word) (s : State) : Res :=
  onUnit (decide (ctx < 4)) (answerWrite path (cvDataAddr ctx bytes)
    (cvDataWriteReg s path ctx (if bytes == 1 then 1 else if bytes == 2 then 2 else 4) v))

/-- CV_STATE_WRITE (R609). -/
def execCvStateWrite (path : Path) (ctx : Nat) (v : Word) (s : State) : Res :=
  onUnit (decide (ctx < 4)) (answerWrite path (cvBase ctx + 0x08) (cvStateWriteReg s path ctx v))

/-- CV_DMA_GO (R610). -/
def execCvDmaGo (path : Path) (ctx : Nat) (ctrl : Word) (s : State) : Res :=
  onUnit (decide (ctx < 4)) (answerWrite path (cvBase ctx) (cvCtrlWrite s path ctx (ctrl ||| 0x40)))

/-- The end of a run: its bytes are fed, and with DMA_FINISH the context finishes; an uncorrectable error ends it
after a number of bytes that the spec leaves open (R610, R629). [DEDUCED: log 106] -/
def cvDmaEnd (s : State) (c : Nat) (eccError : Bool) : State :=
  let x := vget s.cv c
  if !x.busy then s
  else if eccError then
    let f := fresh (modCv s c fun x => { x with busy := false, dmaErr := true })
    raise (cvFeed f.2 c (svcBytes s x.runSrc (f.1 % x.runLen))) 0xA 0 Code.memUncorr 2 (args4 [x.runSrc + f.1 % x.runLen])
  else
    let s1 := cvFeed (modCv s c fun x => { x with busy := false }) c (svcBytes s x.runSrc x.runLen)
    if rb s (cvBase c) 7 then cvFinishNow s1 c else s1

/-- CV_DMA_DONE (R610). -/
def execCvDmaDone (ctx : Nat) (eccError : Bool) (s : State) : Res :=
  onUnit (decide (ctx < 4)) (cvDmaEnd s ctx eccError)

/-- CV_FINISH (R611). -/
def execCvFinish (path : Path) (ctx : Nat) (ctrl : Word) (s : State) : Res :=
  onUnit (decide (ctx < 4)) (answerWrite path (cvBase ctx) (cvCtrlWrite s path ctx (ctrl ||| 0x20)))

/-- Every context returns to its reset values (R612, R630). -/
def cvClear (s : State) : State := rclear { s with cv := Vector.replicate 4 {} } 0x000D0000 0x000D0401

/-- CHECK_ENGINE_WATCHDOG (R629): contexts and bindings are lost, runs end with DMA_ERR; the event's code is one
that the spec does not state. -/
def execCheckEngineWatchdog (s : State) : Res :=
  let busy := s.cv.map fun x => x.busy
  let s1 := rclear { s with cv := busy.map fun b => { dmaErr := b } } 0x000D0000 0x000D0400
  let f := fresh s1
  .next (logOnly f.2 .svc 0xA 0 (f.1 % 65536) 2)

/-! ### The trouble log's commands (R617–R630) -/

/-- May a path write LOG_CTRL and LOG_CMD (R627)? -/
def logPathOk (s : State) : Path → Bool
  | .core | .bcp => true
  | .i2c | .jtag => !inField s

/-- LOG_EVENT (R618). -/
def execLogEvent (e : Event) (s : State) : Res := onUnit (fitted s e.die) (logArrive s e)

/-- LOG_WRITE (R618). -/
def execLogWrite (s : State) : Res := .next (logWriteOne s)

/-- A write of LOG_CMD: acted on only with [31:16] = 0x10C6 (Table 20.7). -/
def logCmdWrite (s : State) (path : Path) (v : Word) : WriteRes :=
  if !logPathOk s path then (s, .path)
  else if wbits v 31 16 != 0x10C6 then (s, .ok)
  else if wbits v 1 0 == 1 then (logClearNow s, .ok)
  else if wbits v 1 0 == 2 && s.log.frozen then (logUnfreezeNow s, .ok)
  else (s, .ok)

/-- LOG_CMD_CLEAR (R625). -/
def execLogCmdClear (path : Path) (v : Word) (s : State) : Res :=
  .next (answerWrite path 0x000E0020 (logCmdWrite s path (v &&& 0xFFFFFFFC ||| 1)))

/-- LOG_CMD_UNFREEZE (R621). -/
def execLogCmdUnfreeze (path : Path) (v : Word) (s : State) : Res :=
  .next (answerWrite path 0x000E0020 (logCmdWrite s path (v &&& 0xFFFFFFFC ||| 2)))

/-- The record that a snapshot of an index takes: all zeros when it is not held (none), and INDEX and LOG_CORRUPT
alone for one with an uncorrectable error (R622, R629). -/
def logSnap (s : State) (i : Word) (eccError : Bool) : Option LogRecord :=
  match s.log.find i with
  | some r => some (if eccError then { index := r.index, ev := { code := Code.logCorrupt, rep := 0 } } else r)
  | none => none

/-- A read of LOG_RD_DATA[w] on a path: word 0 snapshots, word 7 advances the path's index (R622). -/
def logRdData (s : State) (path : Path) (w : Nat) (eccError : Bool) : Word × State :=
  let rd := vget s.logRd path.idx
  let rd := if w == 0 then { rd with snap := logSnap s rd.idx eccError } else rd
  let v := match rd.snap with
    | some r => leAt r.toBytes (4 * w) 4
    | none => 0
  let rd := if w == 7 then { rd with idx := rd.idx + 1 } else rd
  (toWord v, { s with logRd := s.logRd.setIfInBounds path.idx rd })

/-- LOG_RD_DATA_READ (R622). -/
def execLogRdDataRead (path : Path) (w : Nat) (eccError : Bool) (s : State) : Res :=
  onUnit (decide (w < 8)) (let r := logRdData s path w eccError
    answer r.2 path (0x000E0040 + 4 * w) .ok r.1)

/-- The earliest LTIME of queued entries and an open gap. -/
def earliest (t : DWord) (l : LogSt) : DWord :=
  let ts := (l.special ++ l.fatal ++ l.intake).map (·.ltime) ++ (match l.gap with | some g => [g.first] | none => [])
  ts.foldl (fun a b => if b.toNat < a.toNat then b else a) t

/-- LOG_WRITER_WATCHDOG (R629): what was queued is counted into one LOG_LOST, which is written first. [DEDUCED: log 107] -/
def execLogWriterWatchdog (s : State) : Res :=
  let l := s.log
  let n := repSum (l.special ++ l.fatal ++ l.intake) + (match l.gap with | some g => g.count | none => 0)
  let e := lostOf ⟨n, earliest s.tb.ltime l, s.tb.ltime⟩ (!timeValid s)
  .next (if l.frozen && l.special.isEmpty then s
    else modLog s fun l => { l with special := [e], fatal := [], intake := [], gap := none })

/-- A forwarded event reaches the intake: FWD is set, and its HEALTH record is built (R492, R617). -/
def takeForwarded (s : State) (e : Event) : State :=
  let s1 := logArrive s { e with fwd := true }
  if e.health then raiseHealth s1 e s.seqr.epoch else s1

/-- The entry of an EVENT payload: record bytes 12–31 (R617); a source that is no die of the part reads as SVC. [DEDUCED: log 50] -/
def eventOf (b : List Byte) : Event :=
  { die := (Die.ofCode (leAt b 0 1 % 16)).getD .svc, unit := leAt b 1 1 % 16, sub := leAt b 1 1 / 16, code := leAt b 2 2,
    sev := leAt b 4 1 % 4, health := nbit (leAt b 5 1) 1, coalesced := nbit (leAt b 5 1) 2, rep := leAt b 6 2,
    args := BitVec.ofNat 96 (leAt b 8 12) }

/-- EVENT (R617). -/
def execEvent (r : LinkRx) (s : State) : Res := onParcel s r 0 0xA fun s x => takeForwarded s (eventOf x.payload)

end Sys2Proof.Machine
end

