-- ==== Sys2Proof/Machine/LedgerOps.lean ====
section
/-! DEFINITION. The carry ledger (R61–R63). -/
namespace Sys2Proof.Machine

/-- The committed value of a line: the bank that SEL names. -/
def committedOf (l : LedgerLine) : BitVec 512 := if l.sel then l.bank1 else l.bank0

/-- The pending value of a line. -/
def pendingOf (l : LedgerLine) : BitVec 512 := if l.sel then l.bank0 else l.bank1

/-- A line with its pending value replaced. -/
def setPending (l : LedgerLine) (v : BitVec 512) : LedgerLine := if l.sel then { l with bank0 := v } else { l with bank1 := v }

/-- The first write of an epoch, and the first to a line marked for discard, starts from the committed line (R61). -/
def startLine (l : LedgerLine) : LedgerLine :=
  if l.dx then { setPending l (committedOf l) with dx := false, dl := false }
  else if l.dl || l.dp then l
  else setPending l (committedOf l)

/-- The bits of bytes off to off+n-1 of a line. -/
def byteBits (off n : Nat) : BitVec 512 := BitVec.ofNat 512 ((2 ^ (8 * n) - 1) * 2 ^ (8 * off))

/-- A value with bytes merged over it from an offset on. -/
def mergeBytes (v : BitVec 512) (off : Nat) (bs : List Byte) : BitVec 512 :=
  (v &&& ~~~(byteBits off bs.length)) ||| (BitVec.ofNat 512 (leNat bs * 2 ^ (8 * off)) &&& byteBits off bs.length)

/-- A local write: DL is set (R61). -/
def localWrite (l : LedgerLine) (off : Nat) (bs : List Byte) : LedgerLine :=
  let l1 := startLine l
  { setPending l1 (mergeBytes (pendingOf l1) off bs) with dl := true }

/-- A merge write of a whole line: DP and every MM bit are set (R61, R173). -/
def mergeLine (l : LedgerLine) (v : BitVec 512) : LedgerLine :=
  { setPending (startLine l) v with dp := true, mm := BitVec.allOnes 64 }

/-- The bits of a line's bytes whose MM bit is set. -/
def maskBits (mm : BitVec 64) : BitVec 512 :=
  BitVec.ofNat 512 (((List.range 64).map fun k => if nbit mm.toNat k then 255 * 2 ^ (8 * k) else 0).sum)

/-- Marks a pending local write for discard: DX, or on a line with DP the pending line is rebuilt (R61). -/
def markLine (l : LedgerLine) : LedgerLine :=
  if !l.dl then l
  else if !l.dp then { l with dx := true }
  else { setPending l ((pendingOf l &&& maskBits l.mm) ||| (committedOf l &&& ~~~(maskBits l.mm))) with dl := false }

/-- A line at an EQUINOX token with ACT bit 0 clear (R63). -/
def commitLine (l : LedgerLine) : LedgerLine :=
  { l with sel := if (l.dl && !l.dx) || l.dp then !l.sel else l.sel, dl := false, dp := false, dx := false, mm := 0 }

/-- A line at an EQUINOX token with ACT bit 0 set: no SEL inverts (R63). -/
def discardLine (l : LedgerLine) : LedgerLine := { l with dl := false, dp := false, dx := false, mm := 0 }

/-- Is a line pending: DL or DP set? -/
def linePending (l : LedgerLine) : Bool := l.dl || l.dp

/-- One line of a die's ledger. -/
def ledgerLine (s : State) (cd line : Nat) : LedgerLine := mget {} (s.ledger cd) line

/-- One line of a die's ledger changed. -/
def modLine (s : State) (cd line : Nat) (f : LedgerLine → LedgerLine) : State :=
  modLedger s cd fun m => mset {} m line (f (mget {} m line))

/-- Every listed line changed, lines that become all zero leaving the list. -/
def mapLines (f : LedgerLine → LedgerLine) (m : List (Nat × LedgerLine)) : List (Nat × LedgerLine) :=
  (m.map fun e => (e.1, f e.2)).filter fun e => e.2 != {}

/-- Marks all pending local writes of a die for discard: how many lines, and the state after (R61). -/
def ledgerMark (s : State) (cd : Nat) : Nat × State :=
  (((s.ledger cd).filter fun e => e.2.dl && !e.2.dx).length, modLedger s cd (mapLines markLine))

/-- Lines that a commit would invert. -/
def ledgerInverted (s : State) (cd : Nat) : Nat :=
  ((s.ledger cd).filter fun e => (e.2.dl && !e.2.dx) || e.2.dp).length

/-- The ledger commits (R63). -/
def ledgerCommit (s : State) (cd : Nat) : State := modLedger s cd (mapLines commitLine)

/-- The ledger discards every pending write (R63). -/
def ledgerDiscard (s : State) (cd : Nat) : State := modLedger s cd (mapLines discardLine)

/-- A local unit's write to bytes of a line. -/
def ledgerLocal (s : State) (cd line off : Nat) (bs : List Byte) : State := modLine s cd line fun l => localWrite l off bs

/-- A unit's write of bytes that run over several lines. -/
def ledgerStore (s : State) (cd : Nat) : Nat → Nat → List Byte → State
  | _, _, [] => s
  | line, off, b :: bs =>
    let s1 := ledgerLocal s cd line off [b]
    if off == 63 then ledgerStore s1 cd (line + 1) 0 bs else ledgerStore s1 cd line (off + 1) bs

/-- A range of lines becomes pending zeros; lines beyond 2047 are ignored (R173). -/
def ledgerClear (s : State) (cd first count : Nat) : State :=
  ((List.range count).filter fun i => decide (first + i < 2048)).foldl
    (fun t i => modLine t cd (first + i) fun l => mergeLine l 0) s

/-- One byte of the committed ledger view (Table 7.1). -/
def ledgerByte (s : State) (cd off : Nat) : Byte :=
  BitVec.ofNat 8 ((committedOf (ledgerLine s cd (off / 64))).toNat / 2 ^ (8 * (off % 64)))

/-- LEDGER_LOCAL_WRITE (R61). -/
def execLedgerLocalWrite (die : Die) (line off : Nat) (bytes : List Byte) (s : State) : Res :=
  onUnit (die.isCd && fitted s die && decide (line < 2048)) (ledgerLocal s (die.cdIdx.getD 0) line off (bytes.take (64 - off)))

/-- A VC0 parcel that a compute die takes. -/
def onCd (r : LinkRx) (s : State) (f : State → Nat → State) : State :=
  match r.port.die.cdIdx with
  | some cd => f s cd
  | none => s

/-- LEDGER_WRITE (R61, R173): the payload replaces the whole pending line, as a merge write. -/
def execLedgerWrite (r : LinkRx) (s : State) : Res :=
  onParcel s r 0 9 fun s x => onCd r s fun s cd =>
    modLine s cd (x.arg % 2048) fun l => mergeLine l (BitVec.ofNat 512 (leNat x.payload))

/-- HANDOVER_CLEAR (R173). -/
def execHandoverClear (r : LinkRx) (s : State) : Res :=
  onMsg s r 0xA fun s x => onCd r s fun s cd => ledgerClear s cd (leAt x.payload 0 2) (leAt x.payload 2 2)

end Sys2Proof.Machine
end

