-- ==== Sys2Proof/Machine/Jpeg.lean ====
section
/-! DEFINITION. The baseline JPEG encoder of the record builder (R508, ISO/IEC 10918-1). -/
namespace Sys2Proof.Machine

/-! ### Colour and quantisation (R508) -/

/-- Y, Cb and Cr of an RGB pixel, each shift arithmetic. -/
def yccOf (r g b : Nat) : Nat × Nat × Nat :=
  ((77 * r + 150 * g + 29 * b + 128) / 256,
   ((-43 * (r : Int) - 85 * g + 128 * b + 128) / 256 + 128).toNat,
   ((128 * (r : Int) - 107 * g - 21 * b + 128) / 256 + 128).toNat)

/-- The Annex K luminance and chrominance quantisation tables, in row order. -/
def quantLuma : List Nat :=
  [16, 11, 10, 16, 24, 40, 51, 61, 12, 12, 14, 19, 26, 58, 60, 55, 14, 13, 16, 24, 40, 57, 69, 56,
   14, 17, 22, 29, 51, 87, 80, 62, 18, 22, 37, 56, 68, 109, 103, 77, 24, 35, 55, 64, 81, 104, 113, 92,
   49, 64, 78, 87, 103, 121, 120, 101, 72, 92, 95, 98, 112, 100, 103, 99]
def quantChroma : List Nat :=
  [17, 18, 24, 47, 99, 99, 99, 99, 18, 21, 26, 66, 99, 99, 99, 99, 24, 26, 56, 99, 99, 99, 99, 99,
   47, 66, 99, 99, 99, 99, 99, 99] ++ List.replicate 32 99

/-- A quantisation table scaled by Q. -/
def quantScaled (base : List Nat) (q : Nat) : List Nat :=
  let s := if q < 50 then 5000 / q else 200 - 2 * q
  base.map fun x => max 1 (min 255 ((x * s + 50) / 100))

/-- The zigzag order: position k of the scan is element `zigzag[k]` in row order. -/
def zigzag : List Nat :=
  [0, 1, 8, 16, 9, 2, 3, 10, 17, 24, 32, 25, 18, 11, 4, 5, 12, 19, 26, 33, 40, 48, 41, 34, 27, 20, 13, 6, 7, 14, 21, 28,
   35, 42, 49, 56, 57, 50, 43, 36, 29, 22, 15, 23, 30, 37, 44, 51, 58, 59, 52, 45, 38, 31, 39, 46, 53, 60, 61, 54, 47, 55, 62, 63]

/-! ### The Annex K Huffman tables: how many codes of each length 1 to 16, and their symbols -/

def dcLumaBits : List Nat := [0, 1, 5, 1, 1, 1, 1, 1, 1, 0, 0, 0, 0, 0, 0, 0]
def dcChromaBits : List Nat := [0, 3, 1, 1, 1, 1, 1, 1, 1, 1, 1, 0, 0, 0, 0, 0]
def dcSymbols : List Nat := List.range 12
def acLumaBits : List Nat := [0, 2, 1, 3, 3, 2, 4, 3, 5, 5, 4, 4, 0, 0, 1, 0x7D]
def acChromaBits : List Nat := [0, 2, 1, 2, 4, 4, 3, 4, 7, 5, 4, 4, 0, 1, 2, 0x77]

/-- Symbols r0 + 16·i for the codes of 16 bits that follow the short ones: lo to 10 of each run from first to 15. -/
def acTail (runs : List (Nat × Nat)) : List Nat :=
  runs.flatMap fun r => (List.range (11 - r.2)).map fun k => 16 * r.1 + r.2 + k

def acLumaSymbols : List Nat :=
  [0x01, 0x02, 0x03, 0x00, 0x04, 0x11, 0x05, 0x12, 0x21, 0x31, 0x41, 0x06, 0x13, 0x51, 0x61, 0x07,
   0x22, 0x71, 0x14, 0x32, 0x81, 0x91, 0xA1, 0x08, 0x23, 0x42, 0xB1, 0xC1, 0x15, 0x52, 0xD1, 0xF0,
   0x24, 0x33, 0x62, 0x72, 0x82] ++
  acTail [(0, 9), (1, 6), (2, 5), (3, 4), (4, 3), (5, 3), (6, 3), (7, 3), (8, 3), (9, 2), (10, 2), (11, 2), (12, 2), (13, 2),
          (14, 1), (15, 1)]

def acChromaSymbols : List Nat :=
  [0x00, 0x01, 0x02, 0x03, 0x11, 0x04, 0x05, 0x21, 0x31, 0x06, 0x12, 0x41, 0x51, 0x07, 0x61, 0x71,
   0x13, 0x22, 0x32, 0x81, 0x08, 0x14, 0x42, 0x91, 0xA1, 0xB1, 0xC1, 0x09, 0x23, 0x33, 0x52, 0xF0,
   0x15, 0x62, 0x72, 0xD1, 0x0A, 0x16, 0x24, 0x34, 0xE1, 0x25, 0xF1] ++
  acTail [(1, 7), (2, 6), (3, 5), (4, 3), (5, 3), (6, 3), (7, 3), (8, 2), (9, 2), (10, 2), (11, 2), (12, 2), (13, 2),
          (14, 2), (15, 2)]

/-- Code words of a table: symbol, code and length. -/
def huffCodes : Nat → Nat → List Nat → List Nat → List (Nat × Nat × Nat)
  | _, _, [], _ => []
  | code, len, n :: ns, syms =>
    ((syms.take n).mapIdx fun i x => (x, code + i, len)) ++ huffCodes (2 * (code + n)) (len + 1) ns (syms.drop n)

/-- The bits of a number, most significant first. -/
def msbBits (v : Nat) : Nat → List Bool
  | 0 => []
  | n + 1 => nbit v n :: msbBits v n

/-- The code word of a symbol. -/
def huffOf (t : List (Nat × Nat × Nat)) (x : Nat) : List Bool :=
  match t.find? fun e => e.1 == x with
  | some (_, c, n) => msbBits c n
  | none => []

/-! ### Entropy coding -/

/-- The size category of a value, and its extra bits. -/
def jpegSize (v : Int) : Nat := if v == 0 then 0 else Nat.log2 v.natAbs + 1
def jpegExtra (v : Int) : List Bool :=
  let n := jpegSize v
  msbBits (if 0 ≤ v then v.natAbs else 2 ^ n - 1 - v.natAbs) n

/-- The AC coefficients of a block after so many zeros. -/
def acBits (t : List (Nat × Nat × Nat)) : Nat → List Int → List Bool
  | 0, [] => []
  | _ + 1, [] => huffOf t 0
  | r, c :: cs =>
    if c == 0 then acBits t (r + 1) cs
    else (List.replicate (r / 16) (huffOf t 0xF0)).flatten ++ huffOf t (16 * (r % 16) + jpegSize c) ++ jpegExtra c ++ acBits t 0 cs

/-- One block: its bits, and its DC for the next difference. -/
def blockBits (dc ac : List (Nat × Nat × Nat)) (quant : List Nat) (pred : Int) (px : List Int) : List Bool × Int :=
  let c := (Config.fdctQuant px quant).map fun x => clampInt (-1023) 1023 x
  let z := zigzag.map fun i => lget 0 c i
  let d := lget 0 z 0
  (huffOf dc (jpegSize (d - pred)) ++ jpegExtra (d - pred) ++ acBits ac 0 z.tail, d)

/-- The scan of one MCU: four luminance blocks, then Cb and Cr. -/
def mcuBits (px : Nat → Nat → Nat × Nat × Nat) (q : Nat) (mx my : Nat) (preds : Int × Int × Int) : List Bool × (Int × Int × Int) :=
  let dcl := huffCodes 0 1 dcLumaBits dcSymbols
  let acl := huffCodes 0 1 acLumaBits acLumaSymbols
  let dcc := huffCodes 0 1 dcChromaBits dcSymbols
  let acc := huffCodes 0 1 acChromaBits acChromaSymbols
  let yBlock (bx bY : Nat) : List Int :=
    (List.range 64).map fun i => ((px (16 * mx + 8 * bx + i % 8) (16 * my + 8 * bY + i / 8)).1 : Int) - 128
  let cBlock (f : Nat × Nat × Nat → Nat) : List Int :=
    (List.range 64).map fun i =>
      let x := 16 * mx + 2 * (i % 8)
      let y := 16 * my + 2 * (i / 8)
      (Config.chroma [f (px x y), f (px (x + 1) y), f (px x (y + 1)), f (px (x + 1) (y + 1))] : Int) - 128
  let ql := quantScaled quantLuma q
  let qc := quantScaled quantChroma q
  let y0 := blockBits dcl acl ql preds.1 (yBlock 0 0)
  let y1 := blockBits dcl acl ql y0.2 (yBlock 1 0)
  let y2 := blockBits dcl acl ql y1.2 (yBlock 0 1)
  let y3 := blockBits dcl acl ql y2.2 (yBlock 1 1)
  let cb := blockBits dcc acc qc preds.2.1 (cBlock fun p => p.2.1)
  let cr := blockBits dcc acc qc preds.2.2 (cBlock fun p => p.2.2)
  (y0.1 ++ y1.1 ++ y2.1 ++ y3.1 ++ cb.1 ++ cr.1, (y3.2, cb.2, cr.2))

/-- Bits packed into bytes, the last filled with ones, a zero byte after every 0xFF. -/
def stuffBits : Nat → List Bool → List Byte
  | 0, _ => []
  | _ + 1, [] => []
  | n + 1, bs =>
    let o := (bs.take 8 ++ List.replicate (8 - bs.length) true).foldl (fun v b => 2 * v + b2n b) 0
    (if o == 255 then [255, 0] else [BitVec.ofNat 8 o]) ++ stuffBits n (bs.drop 8)

/-! ### Marker segments -/

/-- A marker segment: its marker, then its length and content. -/
def jpegSeg (marker : Nat) (body : List Byte) : List Byte := beBytes 2 marker ++ beBytes 2 (body.length + 2) ++ body

def natBytes (xs : List Nat) : List Byte := xs.map fun x => BitVec.ofNat 8 x

/-- The JFIF 1.02 APP0 segment: no unit, aspect 1:1, no thumbnail. [PRESUMED: log 93] -/
def jpegApp0 : List Byte := jpegSeg 0xFFE0 (ascii "JFIF" ++ [0, 1, 2, 0, 0, 1, 0, 1, 0, 0])

/-- A quantisation table, in zigzag order. -/
def jpegDqt (id : Nat) (t : List Nat) : List Byte := jpegSeg 0xFFDB (BitVec.ofNat 8 id :: natBytes (zigzag.map fun i => lget 0 t i))

/-- The frame header: baseline, 8 bits, Y at 2 × 2 and the chrominances at 1 × 1. -/
def jpegSof (w h : Nat) : List Byte :=
  jpegSeg 0xFFC0 ([8] ++ beBytes 2 h ++ beBytes 2 w ++ [3, 1, 0x22, 0, 2, 0x11, 1, 3, 0x11, 1])

/-- A Huffman table. [PRESUMED: log 93] -/
def jpegDht (id : Nat) (counts syms : List Nat) : List Byte := jpegSeg 0xFFC4 (BitVec.ofNat 8 id :: natBytes counts ++ natBytes syms)

/-- The scan header. -/
def jpegSos : List Byte := jpegSeg 0xFFDA [3, 1, 0, 2, 0x11, 3, 0x11, 0, 63, 0]

/-- All MCUs in order. -/
def scanBits (px : Nat → Nat → Nat × Nat × Nat) (q w : Nat) : Nat → Nat → Int × Int × Int → List Bool
  | 0, _, _ => []
  | n + 1, k, preds =>
    let r := mcuBits px q (k % (w / 16)) (k / (w / 16)) preds
    r.1 ++ scanBits px q w n (k + 1) r.2

/-- A crop as baseline sequential JPEG: W and H multiples of 16, interleaved R, G, B in row order. [PRESUMED: log 93] -/
def jpegEncode (w h q : Nat) (rgb : List Byte) : List Byte :=
  let a := rgb.toArray
  let px (x y : Nat) : Nat × Nat × Nat :=
    let i := 3 * (y * w + x)
    yccOf (a.getD i 0).toNat (a.getD (i + 1) 0).toNat (a.getD (i + 2) 0).toNat
  let bs := scanBits px q w (w / 16 * (h / 16)) 0 (0, 0, 0)
  [0xFF, 0xD8] ++ jpegApp0 ++ jpegDqt 0 (quantScaled quantLuma q) ++ jpegDqt 1 (quantScaled quantChroma q) ++ jpegSof w h ++
  jpegDht 0x00 dcLumaBits dcSymbols ++ jpegDht 0x10 acLumaBits acLumaSymbols ++
  jpegDht 0x01 dcChromaBits dcSymbols ++ jpegDht 0x11 acChromaBits acChromaSymbols ++ jpegSos ++
  stuffBits (bs.length + 1) bs ++ [0xFF, 0xD9]

end Sys2Proof.Machine
end

