-- ==== Sys2Proof/Machine/PeerOps.lean ====
section
/-! DEFINITION. Datagrams of records and peers, the peer table, and the merge of staged items (chapter 16). -/
namespace Sys2Proof.Machine

/-! ### What the image and the settings say -/

/-- The running image's metadata, if an image runs. -/
def imageOf (s : State) : Option SqiMeta := s.img.facts.map (·.image)

/-- EMB_ID of the running image; 0 means none (R512). -/
def embId (s : State) : Word := match imageOf s with | some m => m.embId | none => 0

/-- EMB_ACCEPT: PEER_CTRL.EN with an embedder (R517). -/
def embAccept (s : State) : Bool := rb s 0x00070100 0 && embId s != 0

/-- The season as records and SEASON_STATUS code it (R496, R651). [DESIGN CHOICE: log 95] -/
def seasonCode : Season → Nat
  | .winter => 0 | .spring => 1 | .summer => 2 | .a1 => 3 | .a2 => 4 | .a3 => 5 | .dormant => 6 | .thermalStop => 7

/-- Is an address in use? -/
def addressed (s : State) : Bool := s.net.addr != .none

/-- Has a PHY link? -/
def linked (s : State) : Bool := s.net.linkP0 || s.net.linkP1

/-- Is peer exchange possible: enabled, addressed, and not in DORMANT or WINTER (R514, R523)? -/
def peersOn (s : State) : Bool := rb s 0x00070100 0 && addressed s && s.power.season != .dormant && s.power.season != .winter

/-! ### Datagrams (R488, R490, R511) -/

/-- A key derived from the store key for a use (R490, R511). -/
def storeDerived (s : State) (use : String) : Option (List Byte) := s.bcp.storeKey.map fun k => hmac (keyBytes k) (ascii use)

/-- A datagram with its tag when AUTH is set and a store key is held; `mk` takes the AUTH flag. [DEDUCED: log 94] -/
def tagged (s : State) (auth : Bool) (use : String) (mk : Bool → List Byte) : List Byte :=
  match auth, storeDerived s use with
  | true, some k => mk true ++ (hmac k (mk true)).take 16
  | _, _ => mk false

/-- A MAC address as a byte string, first octet first (R454). -/
def macBytes (m : BitVec 48) : List Byte := beBytes 6 m.toNat

/-- The header and records of a record datagram (Table 16.1); SEQ runs on from the first. [DEDUCED: log 94] -/
def recordDgram (s : State) (rs : List Record) (auth : Bool) : List Byte :=
  ascii "BR" ++ [1, BitVec.ofNat 8 (b2n auth)] ++ macBytes (ownMac s) ++ leBytes 1 rs.length ++ [0] ++
  leBytes 4 ((rs.head?.map fun r => r.ltime.toNat / 2 ^ 32).getD 0) ++
  (rs.mapIdx fun i r => r.toBytes ((s.recs.seq + i) % 65536)).flatten

/-- The destinations of a record datagram (R488). -/
def recordDests (s : State) : List Word :=
  rget s 0x00070008 :: ([rget s 0x0007000C, rget s 0x00070010].filter (· != 0))

/-- The TENTATIVE table with the entries of a transmitted datagram: two epochs, 256 entries (R501). -/
def tentAfter (s : State) (rs : List Record) : List TentEntry :=
  let new : List TentEntry := (rs.mapIdx fun i r => (r, (s.recs.seq + i) % 65536)).filterMap fun x => match x.1.body with
    | .track b => if x.1.tentative then some ⟨toWord (leAt b 0 4), x.1.epoch, x.2⟩ else none
    | _ => none
  let keep := (s.recs.tent ++ new).filter fun (e : TentEntry) => e.epoch == s.seqr.epoch || e.epoch + 1 == s.seqr.epoch
  keep.drop (keep.length - 256)

/-- A closed datagram is transmitted, or with no PHY link its records are discarded (R489, R494, R506). -/
def sendDgram (s : State) : State :=
  let rs := s.recs.dgram
  if !s.recs.closed || !addressed s || !rb s 0x00070000 0 then s else
  let s0 := modRecs s fun b => { b with dgram := [], closed := false }
  if !linked s then fillDgram (dropRecords s0 rs { link := true }) else
  let auth := rb s 0x00070000 1
  let s1 := if auth && s.bcp.storeKey.isNone && !s.recs.noKeyRaised then
      raise (modRecs s0 fun b => { b with noKeyRaised := true }) 0 0 Code.recNoKey 1 else s0
  let bytes := tagged s auth "BX7720-REC" (recordDgram s rs)
  let s2 := (recordDests s).foldl (fun t ip => emit t (.udp 48721 ip 48721 bytes)) s1
  fillDgram (modRecs s2 fun b => { b with
    seq := (b.seq + rs.length) % 65536, sent := b.sent + BitVec.ofNat 64 rs.length, dgrams := b.dgrams + 1,
    tent := tentAfter s rs })

/-- The open datagram closes (R489). -/
def closeDgram (s : State) : State := modRecs s fun b => { b with closed := b.dgram != [] }

/-- A peer datagram: header, payload, tag (R511, Table 16.7). -/
def peerDgram (s : State) (typ count : Nat) (payload : List Byte) : List Byte :=
  tagged s (rb s 0x00070100 1) "BX7720-PEER" fun auth =>
    ascii "BP" ++ [1, BitVec.ofNat 8 typ, BitVec.ofNat 8 (b2n auth), BitVec.ofNat 8 count] ++ leBytes 2 payload.length ++
    macBytes (ownMac s) ++ leBytes 2 (rf s 0x00070104 15 0) ++ payload

/-- A peer datagram leaves for PEER_GROUP, if a PHY has link. -/
def sendPeer (s : State) (typ count : Nat) (payload : List Byte) : State :=
  if linked s then emit s (.udp 48721 (rget s 0x00070118) 48721 (peerDgram s typ count payload)) else s

/-- BYE (R514). -/
def sendBye (s : State) : State := if peersOn s then sendPeer s 3 0 [] else s

/-! ### The peer table (R512–R514) -/

/-- The accepted zones of PEER_ACCEPT, in place order (R512). -/
def acceptZones (s : State) : List Nat :=
  (List.range 4).flatMap fun j => [rf s (0x00070108 + 4 * j) 15 0, rf s (0x00070108 + 4 * j) 31 16]

/-- The fields of the device's own ANNOUNCE (R512). -/
def ownAnnounce (s : State) : Announce :=
  { epochPeriod := rget s 0x00040024, epochNow := s.seqr.epoch, timeValid := timeValid s, embAccept := embAccept s,
    noSend := noPeerEmbed s, season := seasonCode s.power.season, ownAbi := s.boot.sqiAbi, embId := embId s, zones := acceptZones s }

/-- The ANNOUNCE payload (R512). -/
def announceBytes (a : Announce) : List Byte :=
  leBytes 4 a.epochPeriod.toNat ++ leBytes 4 a.epochNow.toNat ++ leBytes 1 (b2n a.timeValid + 2 * b2n a.embAccept + 4 * b2n a.noSend) ++
  leBytes 1 a.season ++ leBytes 2 a.ownAbi ++ leBytes 4 a.embId.toNat ++ a.zones.flatMap (leBytes 2)

/-- Does a sender's zone let it in to the table (R513)? -/
def zoneAccepted (s : State) (z : Nat) : Bool := z != 0 && (z == rf s 0x00070104 15 0 || (acceptZones s).contains z)

/-- Is a table entry compatible (R513)? -/
def compatible (s : State) (e : PeerEntry) : Bool := e.embAccept && embId s != 0 && e.embId == embId s

/-- Counts a datagram of a sender that is not in the table or not compatible, or is malformed (R513, R524). [DESIGN CHOICE: log 96] -/
def peerDrop (s : State) : State := modPeers s fun p => { p with drop := satAdd 65535 p.drop 1 }

/-- Checks every received peer datagram passes: form, tag, and not the device's own MAC (R511, R513, R524). -/
def peerGate (s : State) (p : PeerMsg) (f : State → State) : State :=
  if !rb s 0x00070100 0 || s.power.season == .dormant then s
  else if !p.wellFormed || (rb s 0x00070100 1 && !(p.auth && p.tagOk)) then peerDrop s
  else if p.mac == ownMac s then
    match s.peers.selfSeen with
    | some t => if s.now < t + secNs 60 then s else raise (modPeers s fun q => { q with selfSeen := some s.now }) 0 0 Code.peerSelf 1
    | none => raise (modPeers s fun q => { q with selfSeen := some s.now }) 0 0 Code.peerSelf 1
  else f s

/-- The table entry of a MAC. -/
def peerOf (s : State) (mac : BitVec 48) : Option PeerEntry := s.peers.table.find? fun e => e.mac == mac

/-- Removes a MAC from the table. -/
def peerRemove (s : State) (mac : BitVec 48) : State :=
  modPeers s fun p => { p with table := p.table.filter fun e => e.mac != mac }

/-- A table peer's datagram refreshes its entry; a new address is kept and logged (R513, R523). -/
def peerRefresh (s : State) (p : PeerMsg) : State :=
  match peerOf s p.mac with
  | none => s
  | some e =>
    let s1 := modPeers s fun q => { q with table := q.table.map fun x => if x.mac == p.mac then { x with heard := s.now, ip := p.ip } else x }
    if e.ip == p.ip then s1 else raise s1 0 0 Code.peerAddrChange 0

/-- A received ANNOUNCE (R513). [DESIGN CHOICE: log 96] -/
def takeAnnounce (s : State) (p : PeerMsg) (a : Announce) : State :=
  if !zoneAccepted s p.zone then peerDrop (peerRemove s p.mac)
  else match peerOf s p.mac with
    | some _ => modPeers (peerRefresh s p) fun q => { q with table := q.table.map fun x =>
        if x.mac == p.mac then { x with zone := p.zone, embId := a.embId, embAccept := a.embAccept } else x }
    | none =>
      if s.peers.table.length < 64 then
        modPeers s fun q => { q with table := q.table ++ [{ mac := p.mac, zone := p.zone, ip := p.ip, heard := s.now, embId := a.embId, embAccept := a.embAccept }] }
      else peerDrop s

/-! ### EMBED items (R515–R518) -/

/-- An item with the sender's MAC in bytes 24–29 (R517). -/
def stampMac (item : List Byte) (mac : BitVec 48) : List Byte := item.take 24 ++ macBytes mac ++ item.drop 30

/-- Stages an item: 64 KiB hold 512 items; one that finds no room is dropped, counted and logged (R62). -/
def stageItem (s : State) (item : List Byte) : State :=
  if 512 ≤ s.peers.staged.length then
    raise (modPeers s fun p => { p with stageFull := satAdd 65535 p.stageFull 1 }) 0 0 Code.peerStageFull 1
  else modPeers s fun p => { p with
    staged := p.staged ++ [{ bytes := item, received := s.now, order := p.order }], order := p.order + 1,
    stagedEpoch := p.stagedEpoch + 1, rx := p.rx + 1 }

/-- May EMBED items be sent now (R516)? -/
def embedSendOk (s : State) : Bool :=
  !noPeerEmbed s && peersOn s && embId s != 0 && s.peers.table.any (compatible s)

/-- Datagrams of up to 11 items. -/
def embedDgrams : Nat → State → List (List Byte) → State
  | 0, s, _ => s
  | _, s, [] => s
  | n + 1, s, items => embedDgrams n (sendPeer s 2 (items.take 11).length (items.take 11).flatten) (items.drop 11)

/-- Sends the items of the epoch that wait, up to EMB_MAX of the epoch; the rest are dropped and counted (R516). -/
def sendEmbeds (s : State) : State :=
  let items := s.recs.embeds
  let s1 := modRecs s fun b => { b with embeds := [] }
  if items == [] || !embedSendOk s then s1 else
  let room := rf s 0x00070100 31 24 - s.recs.embedsSent
  let go := items.take room
  let s2 := embedDgrams (go.length + 1) s1 go
  modPeers (modRecs s2 fun b => { b with embedsSent := b.embedsSent + go.length }) fun p =>
    { p with tx := (p.tx + go.length) % 2 ^ 24, txOver := satAdd 255 p.txOver (items.length - go.length) }

/-- The held records of the epoch and its EMBED items are released (R504, R516). -/
def releaseRecords (s : State) : State :=
  if s.recs.released == some s.seqr.epoch then s
  else sendEmbeds (fillDgram (modRecs s fun b => { b with released := some s.seqr.epoch }))

/-- FLUSH: the epoch's records are released, and the open datagram closes (R489, R504). [DEDUCED: log 94] -/
def flushNow (s : State) : State := closeDgram (releaseRecords s)

/-! ### The peer merge (R62, R518) -/

/-- The fields of an item: TRACK_ID, KIND and MAC. -/
def itemTrack (b : List Byte) : Word := toWord (leAt b 0 4)
def itemKind (b : List Byte) : Nat := leAt b 6 1
def itemMac (b : List Byte) : BitVec 48 := BitVec.ofNat 48 (beNat ((b.drop 24).take 6))

/-- The entry of the shadow index of a MAC and TRACK_ID. -/
def slotOf (p : PeerSt) (mac : BitVec 48) (tr : Word) : Option Nat :=
  (p.slots.find? fun e => e.2.mac == mac && e.2.track == tr).map (·.1)

/-- The lowest empty entry of so many. -/
def emptySlot (p : PeerSt) (n : Nat) : Option Nat := (List.range n).find? fun i => (mfind p.slots i).isNone

/-- The entry received longest ago, the lower index winning a tie. -/
def oldestSlot (p : PeerSt) : Option Nat :=
  (p.slots.foldl (fun (a : Option (Nat × PeerSlot)) e => match a with
    | none => some e
    | some x => if e.2.received < x.2.received then some e else some x) none).map (·.1)

/-- Writes an entry of the peer area on its die, as two whole lines (R173, R518). -/
def writeEntry (s : State) (d : Die) (base e : Nat) (b : List Byte) : State :=
  let put (s : State) (line : Nat) (bs : List Byte) : State :=
    sendParcel s .svc (ledgerParcel d line (BitVec.ofNat 512 (leNat bs)))
  put (put s (base + 2 * e) (b.take 64)) (base + 2 * e + 1) (b.drop 64)

/-- Merges one item (R518): the entry written, if any, and the shadow index after. -/
def mergeItem (s : State) (d : Die) (m : SqiMeta) (x : Staged) : State :=
  let p := s.peers
  let hit := slotOf p (itemMac x.bytes) (itemTrack x.bytes)
  let s1 := modSeq s fun q => { q with merged := q.merged ++ [(d, x)] }
  if itemKind x.bytes == 2 then
    match hit with
    | none => s1
    | some e => writeEntry (modPeers s1 fun p => { p with slots := merase p.slots e }) d m.peerBase e (List.replicate 128 0)
  else
    match hit <|> emptySlot p m.peerSlots <|> oldestSlot p with
    | none => s1
    | some e =>
      let slot : PeerSlot := { mac := itemMac x.bytes, track := itemTrack x.bytes, received := x.received, order := x.order }
      writeEntry (modPeers s1 fun p => { p with slots := mput p.slots e slot }) d m.peerBase e (padTo 128 x.bytes)

/-- The die of the peer area: the one that the image names, or with bank F active CD0 (R62, R306). -/
def peerDieOf (s : State) (m : SqiMeta) : Option Die := if s.seqr.bank == 2 then some .cd0 else Die.ofCode m.peerDie

/-- While the merge is open and the port to the peer area's die holds no ledger write, the next entry to clear, else
the next item staged before T_D, is written (R36, R60, R526). [DESIGN CHOICE: log 96] -/
def feedMerge (s : State) (p : PortId) : State :=
  match imageOf s with
  | none => s
  | some m =>
    match peerDieOf s m with
    | none => s
    | some d =>
      if !s.seqr.merging || p.die != .svc || routePort s .svc d.code != some p || (vget (s.port p).txq 0).any (fun x => x.kind == 9) then s
      else match s.peers.clearing with
        | e :: es => writeEntry (modPeers s fun q => { q with clearing := es, slots := merase q.slots e }) d m.peerBase e (List.replicate 128 0)
        | [] => match s.peers.staged with
          | x :: xs => if x.order < s.peers.upTo then mergeItem (modPeers s fun q => { q with staged := xs }) d m x else s
          | [] => s

/-- The merge opens: entries received more than AGE_S seconds ago are to be cleared first (R60, R518). -/
def openMerge (s : State) : State :=
  let age := secNs (rf s 0x00070100 23 16)
  let old := (s.peers.slots.filter fun e => decide (age < s.now - e.2.received)).map (·.1)
  modPeers (modSeq s fun q => { q with merging := true }) fun p =>
    { p with clearing := p.clearing ++ old.filter fun e => !p.clearing.contains e }

/-- Every entry of a new image's peer area is to be cleared, and the shadow index is empty (R523). -/
def clearPeerArea (s : State) (m : SqiMeta) : State :=
  modPeers s fun p => { p with clearing := List.range m.peerSlots, slots := [], slotsOld := [] }

/-- A die committed its ledger: the items written to it are merged for good (R63). -/
def mergeCommitted (s : State) (d : Die) : State :=
  modPeers (modSeq s fun q => { q with merged := q.merged.filter fun x => x.1 != d }) fun p => { p with slotsOld := p.slots }

/-- A die discarded its ledger writes: its items merge again at the following equinox, ahead of later ones (R63). [DESIGN CHOICE: log 96] -/
def mergeDiscarded (s : State) (d : Die) : State :=
  let back := (s.seqr.merged.filter fun x => x.1 == d).map (·.2)
  modPeers (modSeq s fun q => { q with merged := q.merged.filter fun x => x.1 != d }) fun p =>
    { p with staged := back ++ p.staged, slots := p.slotsOld }

end Sys2Proof.Machine
end

