-- ==== Sys2Proof/Machine/LaunchOps.lean ====
section
/-! DEFINITION. Launch tokens, the units they start, lateness, missed entries, and the drain of a die (R47–R58). -/
namespace Sys2Proof.Machine

/-! ### The launch table in force (R47, R297) -/

/-- The table of the active bank: 0 A, 1 B, 2 F. -/
def activeTable (s : State) : List LaunchEntry :=
  match s.seqr.bank with
  | 0 => s.seqr.bankA
  | 1 => s.seqr.bankB
  | _ => s.seqr.bankF

/-- An entry of the active table. [DESIGN CHOICE: log 22] -/
def entryOf (s : State) (i : Nat) : Option LaunchEntry := (activeTable s)[i]?

/-- PLC_STATUS.F_READY (R305): every bank F segment is loaded on CD0 and has passed its first check. -/
def fReady (s : State) : Bool :=
  match s.img.facts with
  | none => false
  | some f =>
    let x := (s.die .cd0).state
    (x == 4 || x == 5) && (((f.image.segs.filter fun g => g.cd == 0).zipIdx).all fun g => !g.1.bankF || (s.cdie 0).fChecked.contains g.2)

/-! ### Missed and late entries (R52, R54–R56) -/

/-- An entry of a die is missed: it is counted, and the epoch is DEGRADED (R55). [DESIGN CHOICE: log 23] -/
def missEntry (s : State) (d : Die) : State := markDegraded (modDie s d fun x => { x with missed := satAdd 65535 x.missed 1 }) d

/-- The lateness-to-slack ratio of an entry, in 1/256 (R56). -/
def lateRatio (late slack : Nat) : Nat :=
  if late == 0 then 0 else if slack == 0 then 256 else min 65535 ((256 * late + slack - 1) / slack)

/-- The lateness of an entry raises its die's highest ratio. -/
def noteLateness (s : State) (d : Die) (late slack : Nat) : State :=
  modDie s d fun x => { x with ratio := max x.ratio (lateRatio late slack) }

/-- An entry's lateness has exceeded its slack: counted, and the epoch is DEGRADED (R55). -/
def lateEntry (s : State) (d : Die) : State :=
  let s1 := modDie s d fun x => { x with late := satAdd 65535 x.late 1 }
  markDegraded (modSeq s1 fun q => { q with lateCount := q.lateCount + 1 }) d

/-- The unit under which a die logs its launches: its fabric, and on SVC timebase and launch (Table 20.3). [DESIGN CHOICE: log 23] -/
def launchLogUnit (d : Die) : Nat := if d.isCd then 4 else 5

/-! ### Units (R54) -/

/-- One launch unit of a die. -/
def unitOf (s : State) (d : Die) (u : Nat) : UnitSt := vget (s.die d).units u

/-- One launch unit changed. -/
def modUnit (s : State) (d : Die) (u : Nat) (f : UnitSt → UnitSt) : State := modDie s d fun x => { x with units := vmod x.units u f }

/-- The entry a unit runs has finished. -/
def unitDone (s : State) (d : Die) (u : Nat) : State := modUnit s d u fun x => { x with busy := none }

/-- Starts an entry on a unit: lateness is taken from its arrival, and the action begins (R54, R55). -/
def startEntry (s : State) (d : Die) (u : Nat) (l : Launched) (start : State → Die → Nat → Launched → State) : State :=
  let late := s.now - l.arrived
  let ovr := !l.late && decide (l.slack.toNat < late)
  let s1 := modUnit s d u fun x => { x with busy := some { l with late := l.late || ovr } }
  let s2 := noteLateness s1 d late l.slack.toNat
  start (if ovr then lateEntry s2 d else s2) d u l

/-- An entry reaches a unit: it starts, or is queued while the unit is busy; the Bool says that the queue was full
(R54). [DESIGN CHOICE: log 22] -/
def launchOne (s : State) (d : Die) (l : Launched) (start : State → Die → Nat → Launched → State) (u : Nat) : Bool × State :=
  let x := unitOf s d u
  match x.busy, x.queued with
  | none, none => (false, startEntry s d u l start)
  | _, none => (false, modUnit s d u fun x => { x with queued := some l })
  | _, some _ => (true, s)

/-- An entry reaches its units in turn; an overrun on any of them counts the entry once. -/
def launchAll (s : State) (d : Die) (l : Launched) (start : State → Die → Nat → Launched → State) : List Nat → Bool → State
  | [], ovr => if ovr then missEntry (raiseOn s d (launchLogUnit d) 0 Code.launchOverrun 1) d else s
  | u :: us, ovr => let r := launchOne s d l start u; launchAll r.2 d l start us (ovr || r.1)

/-- The launch units that a UNIT number names on a die: 0x0F is all four clusters (Table 2.3). -/
def unitsNamed (d : Die) (u : Nat) : List Nat := if d.isCd && u == 0xF then [0, 1, 2, 3] else [u % 16]

/-- Does a die take launches: SVC always, others READY or RUNNING and not out of the epoch (R72)? [DESIGN CHOICE: log 23] -/
def takesLaunches (s : State) (d : Die) : Bool :=
  d == .svc || (((s.die d).state == 4 || (s.die d).state == 5) && !(s.die d).out)

/-- A LAUNCH token at its die (R52, R54, R57). -/
def takeLaunch (s : State) (d : Die) (w : BitVec 48) (okUnit : Nat → Bool) (start : State → Die → Nat → Launched → State) : State :=
  if tokEp w != (s.die d).ep % 8 then missEntry (raiseOn s d (launchLogUnit d) 0 Code.launchStale 1) d
  else if !takesLaunches s d || (s.die d).refusing then missEntry s d
  else if !okUnit (tokUnit w) then s
  else match entryOf s (tokEntry w) with
    | none => s
    | some e =>
      let l : Launched := { act := tokAct w, entry := tokEntry w, arg := e.arg, slack := e.slack, arrived := s.now, late := false }
      launchAll s d l start (unitsNamed d (tokUnit w)) false

/-- Receives a LAUNCH token of one action at one of the dies that take it. -/
def onLaunch (s : State) (f : SbFrame) (act : Nat) (okDie : Die → Bool) (okUnit : Nat → Bool)
    (start : State → Die → Nat → Launched → State) : Res :=
  onToken s f 1 fun s w => if tokAct w == act && okDie f.port.die then takeLaunch s f.port.die w okUnit start else s

/-- Is a launch unit of a die free, with nothing queued? -/
def unitIdle (x : UnitSt) : Bool := x.busy.isNone && x.queued.isNone

/-- Has a die no entry running or queued (R57)? [DESIGN CHOICE: log 24] -/
def dieIdle (s : State) (d : Die) : Bool := (s.die d).units.toList.all unitIdle

/-! ### The drain of a die (Table 2.7) -/

/-- The ports of a die. -/
def portsOf (d : Die) : List PortId := (List.range d.portCount).map fun n => ⟨d, n⟩

/-- Outbound parcels of VC1 to VC4 of a port that have not been sent. -/
def outboundOf (e : EdlPort) : Nat := ([1, 2, 3, 4].map fun v => (vget e.txq v).length).sum

/-- Outbound parcels of VC1 to VC4 of a die. -/
def outbound (s : State) (d : Die) : Nat := ((portsOf d).map fun p => outboundOf (s.port p)).sum

/-- Discards the outbound VC1 to VC4 queues of a die (step 5 of FORCE). -/
def dropOutbound (s : State) (d : Die) : State :=
  (portsOf d).foldl (fun t p => modPort t p fun e =>
    { e with txq := [1, 2, 3, 4].foldl (fun q v => q.setIfInBounds v []) e.txq }) s

/-- Reads of a compute die that await their responses. -/
def readsWaiting (s : State) (d : Die) : Nat :=
  match d.cdIdx with
  | some cd => ((s.fab cd).tags.filter fun t => !t.lost && !t.old).length + (s.fab cd).waitq.length
  | none => 0

/-- Step 6: the remote cache is invalidated. -/
def dropCache (s : State) (d : Die) : State :=
  match d.cdIdx with
  | some cd => modFab s cd fun f => { f with cache := [] }
  | none => s

/-- The DRAINED message (Table 6.16). -/
def sendDrained (s : State) (d : Die) (forced : Bool) (marked dropped : Nat) : State :=
  let s1 := modDie s d fun x => { x with drainedSent := true }
  sendMsg s1 d .svc 2 (leBytes 4 s.seqr.epoch.toNat ++ leBytes 1 (b2n forced) ++ [0] ++ leBytes 2 marked ++ leBytes 4 dropped)

/-- An orderly drain ends once reads are answered and the outbound queues are sent (steps 4 to 8 of DRAIN). -/
def drainCheck (s : State) (d : Die) : State :=
  let x := s.die d
  if d == .svc || !x.refusing || x.drainedSent || outbound s d != 0 || readsWaiting s d != 0 then s
  else sendDrained (dropCache s d) d false 0 0

/-- Step 1: launches are refused from now on. -/
def refuseLaunches (s : State) (d : Die) : State := modDie s d fun x => { x with refusing := true }

/-- Step 1 of FORCE: queued tokens are discarded and counted as missed. -/
def dropQueued (s : State) (d : Die) : State :=
  (List.range 16).foldl (fun t u => if (unitOf t d u).queued.isSome then missEntry (modUnit t d u fun x => { x with queued := none }) d else t) s

end Sys2Proof.Machine
end

