-- ==== Sys2Proof/Machine/EyeOps.lean ====
section
/-! DEFINITION. The sensor: defect table, exposure times, companding, RAW12 packing, missing frames and what happens to
the sensor at a kill, a hold and an equinox (chapter 08). -/
namespace Sys2Proof.Machine

/-! ### The defect table (R244, R245) -/

/-- Fields of a defect entry (Table 8.5). -/
def defCol (e : BitVec 28) : Nat := bits e.toNat 12 0
def defRow (e : BitVec 28) : Nat := bits e.toNat 24 13
def defType (e : BitVec 28) : Nat := bits e.toNat 27 25

/-- Is an entry a column or row entry? -/
def defLine (e : BitVec 28) : Bool := defType e == 4 || defType e == 5

/-- Is an entry valid: no reserved type, no coordinate outside the array, no unused field set (R245)? -/
def defValid (e : BitVec 28) : Bool :=
  let r := defRow e
  let c := defCol e
  match defType e with
  | 7 => false
  | 2 => decide (r < 3080) && decide (c + 2 < 4112)
  | 3 => decide (r + 2 < 3080) && decide (c < 4112)
  | 4 => r == 0 && decide (c < 4112)
  | 5 => c == 0 && decide (r < 3080)
  | _ => decide (r < 3080) && decide (c < 4112)

/-- Does an entry name an array pixel, TEMP entries counting while they are active? -/
def defNames (temp : Bool) (e : BitVec 28) (r c : Nat) : Bool :=
  match defType e with
  | 1 => defRow e == r && defCol e == c
  | 2 => defRow e == r && (defCol e == c || defCol e + 2 == c)
  | 3 => defCol e == c && (defRow e == r || defRow e + 2 == r)
  | 4 => defCol e == c
  | 5 => defRow e == r
  | 6 => temp && defRow e == r && defCol e == c
  | _ => false

/-- Is an array pixel a mapped defect? -/
def defMapped (s : State) (r c : Nat) : Bool := s.eye.defects.any fun e => defNames s.eye.tempDefects e r c

/-- The entries offered to the table, OTP first, as the enables say. -/
def defOffered (s : State) : List (BitVec 28) :=
  ((if rb s 0x01000000 7 then s.eye.otpDefects else []) ++
   (if rb s 0x01000000 8 then (List.range 64).map fun i => BitVec.ofNat 28 (rnat s (0x01000100 + 4 * i)) else [])).filter
    fun e => defType e != 0

/-- Takes one entry: a bad one and a COLUMN or ROW entry beyond the sixteenth are ignored and logged. [DEDUCED: log 60] -/
def defTake (s : State) (e : BitVec 28) : State :=
  if !defValid e then
    logOnly (modEye s fun y => { y with defectBad := satAdd 65535 y.defectBad 1 }) .eye 0 0 Code.defectBad 1
  else if defLine e && decide (16 ≤ (s.eye.defects.filter defLine).length) then
    logOnly (modEye s fun y => { y with defectOver := satAdd 65535 y.defectOver 1 }) .eye 0 0 Code.defectOverflow 1
  else modEye s fun y => { y with defects := y.defects ++ [e] }

/-- The defect table is loaded from the entries in force. [DEDUCED: log 60] -/
def loadDefects (s : State) : State := (defOffered s).foldl defTake (modEye s fun y => { y with defects := [] })

/-- Do the shadows of a range hold a change of the defect table? -/
def defectsPending (s : State) : Bool :=
  s.shadow.any fun e => (e.1 == 0x01000000 || (decide (0x01000100 ≤ e.1) && decide (e.1 < 0x01000200))) && rget s e.1 != e.2

/-! ### Missing and aborted frames (R253, R285) -/

/-- The frame-abort message to each stream destination and to SVC (Table 6.16). [DEDUCED: log 63] -/
def sendFrameAbort (s : State) (dst : Die) (cause : Nat) : State :=
  let last := if s.isp.emitted < 128 then 0xFFFF else s.isp.emitted / 128 - 1
  sendMsg s .eye dst 4 (leBytes 4 s.seqr.epoch.toNat ++ leBytes 1 cause ++ leBytes 1 Die.eye.code ++ leBytes 2 last)

/-- The compute dies that the enabled streams are sent to. -/
def streamDests (s : State) : List Die :=
  let of (i : Nat) : List Die := if rb s (0x01010080 + 4 * i) 0 then ((Die.ofCode (rf s (0x01010080 + 4 * i) 11 8)).toList.filter Die.isCd) else []
  (of 0 ++ (of 1).filter fun d => !(of 0).contains d)

/-- The ISP entry ends; an armed or running ISP is aborted. -/
def ispAborted (s : State) : State :=
  unitDone (modIsp s fun i => { i with state := if i.state == .armed || i.state == .running then .aborted else i.state }) .eye 1

/-- The frame is missing for a cause of Table 9.9: steps 1 to 5 of R285; `sensor` is the LAST_MISSING cause. [DESIGN CHOICE: log 64] -/
def abortFrame (s : State) (cause sensor : Nat) : State :=
  let s1 := unitDone (modEye s fun y => { y with
    state := if y.state == .exposing || y.state == .reading then .standby else y.state
    plan := none, bankWait := false, frameMissing := true, lastMissing := sensor, missing := y.missing + 1 }) .eye 0
  let s2 := ispAborted (modIsp s1 fun i => { i with cause := cause })
  (streamDests s2 ++ [Die.svc]).foldl (fun t d => sendFrameAbort t d cause) s2

/-- The frame is missing for a sensor cause (R253). -/
def sensorMissing (s : State) (c : Nat) : State := abortFrame s 5 c

/-- Is a frame in hand? -/
def frameBusy (s : State) : Bool := s.eye.state == .exposing || s.eye.state == .reading

/-! ### Exposure times (R236, R237) -/

/-- W_MAX in sixths of a nanosecond, for a readout of so many sequencer periods of 125/6 ns. [DEDUCED: log 58] -/
def wMax (s : State) (rc : Nat) : Nat :=
  min (6000 * rnat s 0x01000010) (6000 * rnat s 0x01010008 - 125 * rc - 6000000)

/-- A single exposure that fits, from a requested time in ns: the applied time in ns, and whether it was clamped. [DEDUCED: log 58] -/
def singleTime (w ns : Nat) : Option (Nat × Bool) :=
  if w < 60000 then none
  else
    let x := max 60000 (min (6 * ns) w)
    some (((x + 62) / 125 * 125 + 3) / 6, x != 6 * ns)

/-- A dual exposure that fits, from the requested short and long times in µs: the applied short time and k, and whether
steps 2 and 3 changed anything. [DEDUCED: log 58] -/
def dualTime (w s0 l0 : Nat) : Option (Nat × Nat × Bool) :=
  let s1 := max 10 s0
  let k := max 1 (min 4 (Nat.log2 (l0 / s1)))
  let l1 := s1 * 2 ^ k
  let s2 := if w < 6000 * (l1 + 2 + s1) then (w - 12000) / (6000 * (2 ^ k + 1)) else s1
  if s2 < 10 then none else some (s2, k, l1 != l0 || s2 != s1)

/-- The exposure begins 1 µs after the token is received (R235). -/
def beginExposure (s : State) (p : ExpPlan) (clamped : Bool) (args : BitVec 96) : State :=
  let s1 := modEye s fun y => { y with
    state := .exposing, plan := some p, hdrActive := p.hdr, clamped := clamped, bankWait := false, rows := 0
    expLast := if p.hdr then y.expLast else p.timeNs
    expLastHdr := if p.hdr then p.shortUs % 65536 + 65536 * p.k else y.expLastHdr }
  if clamped then logOnly s1 .eye 0 0 Code.exposeClamped 1 args else s1

/-- Why an exposure is refused, as a sensor cause, if it is (R253, R254). [DEDUCED: log 58] -/
def exposeRefusal (s : State) (vpixOk : Bool) : Option Nat :=
  match s.eye.state with
  | .off | .cal | .fault => some 5
  | _ => if s.eye.relocking then some 4 else if !vpixOk then some 3 else none

/-- EXPOSE and EXPOSE_HDR as the exposure sequencer starts them. [DEDUCED: log 58] -/
def startExpose (hdr vpixOk : Bool) (s : State) (_ : Die) (_ : Nat) (l : Launched) : State :=
  let s1 := modEye s fun y => { y with exposed := true, exposedAt := s.tb.ltime + 1000, frameMissing := false }
  match exposeRefusal s vpixOk with
  | some c => sensorMissing (if c == 3 then logOnly s1 .eye 0 0 Code.pixelSupply 2 else s1) c
  | none =>
    let fromReg := rb s 0x01000000 0
    if hdr then
      let a := if fromReg then rget s 0x0100000C else l.arg
      match dualTime (wMax s (rnat s 0x01000018)) (wbits a 31 16) (wbits a 15 0) with
      | none => sensorMissing s1 1
      | some (sh, k, c) =>
        beginExposure s1 { hdr := true, timeNs := 0, shortUs := sh, k := k, phase := 0, received := s.now, begins := s.tb.ltime + 1000 }
          c (args4 [a.toNat, sh, sh * 2 ^ k])
    else
      let a := if fromReg then rnat s 0x01000008 else l.arg.toNat
      match singleTime (wMax s (rnat s 0x01000014)) a with
      | none => sensorMissing s1 1
      | some (t, c) =>
        beginExposure s1 { hdr := false, timeNs := t, shortUs := 0, k := 0, phase := 0, received := s.now, begins := s.tb.ltime + 1000 }
          c (args4 [a, t])

/-- The exposure window of a plan in ns, without the final transfer (R236, R237). -/
def ExpPlan.windowNs (p : ExpPlan) : Nat := if p.hdr then 1000 * (p.shortUs * 2 ^ p.k + 2 + p.shortUs) else p.timeNs

/-- Does the window end, transfer included, before the banks are up 40 µs after the token (R251)? -/
def waitsForBanks (s : State) (p : ExpPlan) : Bool := rb s 0x01000000 1 && decide (1000 + p.windowNs + 2000 < 40000)

/-! ### Companding and RAW12 (R241, R242) -/

/-- The linear value of a long and a short code. -/
def hdrMerge (knee ped k l sh : Nat) : Nat := min 65535 (if l < knee then l else (sh - ped) * 2 ^ k + ped)

/-- The companded code of a linear value (Table 8.4). -/
def compand (v : Nat) : Nat :=
  if v < 1024 then v else if v < 3072 then 1024 + (v - 1024) / 2
  else if v < 11264 then 2048 + (v - 3072) / 8 else 3072 + (v - 11264) / 64

/-- The linear value of a companded code, at the middle of its step (R258). -/
def expand (c : Nat) : Nat :=
  if c < 1024 then c else if c < 2048 then 1024 + 2 * (c - 1024) + 1
  else if c < 3072 then 3072 + 8 * (c - 2048) + 4 else min 65535 (11264 + 64 * (c - 3072) + 32)

/-- RAW12 bytes of a row of codes, pair by pair. -/
def packRaw12 : List Nat → List Byte
  | p0 :: p1 :: ps =>
    BitVec.ofNat 8 p0 :: BitVec.ofNat 8 (p0 / 256 % 16 + 16 * (p1 % 16)) :: BitVec.ofNat 8 (p1 / 16) :: packRaw12 ps
  | _ => []

/-- The frame-buffer address of an array row. -/
def rowAddr (r : Nat) : Nat := 0x01800000 + 6168 * r

/-- The stored code of an array pixel. [DESIGN CHOICE: log 57] -/
def rawCode (s : State) (r c : Nat) : Nat :=
  let x := leNat (bytesAt s.mem (rowAddr r + 3 * (c / 2)) 3)
  if c % 2 == 0 then x % 4096 else x / 4096

/-- So many free 12-bit codes, for test patterns whose values the spec does not give (Table 8.7). [DESIGN CHOICE: log 57] -/
def freeCodes (s : State) (n : Nat) : List Nat × State :=
  ((List.range n).map fun i => Config.freeNat (s.freeIdx + i) % 4096, { s with freeIdx := s.freeIdx + n })

/-- The codes a conversion delivers: the samples, saturated at 4095, or the test pattern in their place. [DESIGN CHOICE: log 57] -/
def deliverCodes (s : State) (xs : List Nat) : List Nat × State :=
  match rf s 0x01000000 6 4 with
  | 0 => (xs.map (min 4095), s)
  | 3 => (xs.map fun _ => 2048, s)
  | _ => freeCodes s xs.length

/-- One converted row is stored; the last row ends the frame (R240, R243, R255). [DESIGN CHOICE: log 57] -/
def convertRow (s : State) (long short : List Nat) : State :=
  let a := deliverCodes s (long.take 4112)
  let b := deliverCodes a.2 (short.take 4112)
  let codes := match s.eye.plan with
    | some p => if p.hdr then
        List.zipWith (fun l sh => compand (hdrMerge (rf s 0x0100001C 11 0) (rf s 0x01000020 11 0) p.k l sh)) a.1 b.1
      else a.1
    | none => a.1
  let s1 := memPut (if s.eye.hdrActive then b.2 else a.2) (rowAddr s.eye.rows) (packRaw12 codes)
  if s.eye.rows + 1 < 3080 then modEye s1 fun y => { y with rows := y.rows + 1 }
  else unitDone (modEye s1 fun y => { y with rows := 3080, state := .standby, plan := none, frames := y.frames + 1 }) .eye 0

/-! ### Kill, hold and release (Table 8.3, R254) -/

/-- What a KILL token does to the sensor (Table 8.11). -/
def eyeKill (s : State) : State := if frameBusy s then sensorMissing s 2 else s

/-- The sensor off: a reset, a hold, WINTER or a thermal stop; a frame in hand is lost. -/
def eyeOff (s : State) : State :=
  let s1 := unitDone (unitDone s .eye 0) .eye 1
  modIsp (modEye s1 fun y => { y with
    state := .off, plan := none, bankWait := false, relocking := false, bankA := false, bankB := false
    frameMissing := y.frameMissing || frameBusy s }) fun i => { i with state := if i.state == .armed || i.state == .running then .aborted else i.state }

/-- Release from hold in SPRING: every register of the sensor, ISP and statistics blocks has its reset value, and the
sensor calibrates (R254, R287). -/
def eyeRelease (s : State) : State :=
  { rclear s 0x01000000 0x01030000 with
    eye := { state := .cal, tempNext := s.eye.tempNext }, isp := {} }

end Sys2Proof.Machine
end

