-- ==== Sys2Proof/Machine/IspOps.lean ====
section
/-! DEFINITION. The image pipeline stage by stage, the tap formats, band emission and the statistics (chapter 09). -/
namespace Sys2Proof.Machine

/-! ### Colours and edges (R233, R257) -/

/-- Colour of a pixel by the parity of its row and column: 0 R, 1 Gr, 2 Gb, 3 B. -/
def bayer (r c : Nat) : Nat := 2 * (r % 2) + c % 2

/-- A coordinate mirrored about the edge pixel of 0 .. n-1. -/
def mirror (n : Nat) (i : Int) : Nat := if i < 0 then (-i).toNat else if (n : Int) ≤ i then (2 * (n - 1) - i).toNat else i.toNat

/-- The value of an active-area function at an offset from a pixel, mirrored at the edges. -/
def near (f : Nat → Nat → α) (y x : Nat) (dy dx : Int) : α := f (mirror 3072 (y + dy)) (mirror 4096 (x + dx))

/-- Rounded quotient, halves up. -/
def roundDiv (a d : Nat) : Nat := (2 * a + d) / (2 * d)

def clip16 (x : Int) : Nat := (clampInt 0 65535 x).toNat

/-! ### Black level (R259–R262) -/

/-- The linear values of the pixels of a colour in some rows and columns, mapped defects left out. -/
def obPixels (s : State) (colour : Nat) (rows cols : List Nat) : List Nat :=
  rows.flatMap fun r => (cols.filter fun c => bayer r c == colour && !defMapped s r c).map fun c =>
    if s.eye.hdrActive then expand (rawCode s r c) else rawCode s r c

/-- A mean in 1/16 DN, rounded half up, of at least one pixel. [DEDUCED: log 62] -/
def mean16 (xs : List Nat) : Option Nat := if xs == [] then none else some (roundDiv (16 * xs.sum) xs.length)

/-- A mean in 1/16 DN; with no pixel left the spec states none. [DEDUCED: log 62] -/
def meanOrFree (s : State) (xs : List Nat) : Nat × State :=
  match mean16 xs with
  | some m => (m, s)
  | none => fresh s

/-- The frame levels and the start of the row filters, from array rows 0–7 (R259, R260). -/
def frameLevels (s : State) : State :=
  (List.range 4).foldl (fun t c =>
    let f := meanOrFree t (obPixels t c (List.range 8) ((List.range 4096).map (· + 16)))
    let r := meanOrFree f.2 (obPixels f.2 c (List.range 8) (List.range 16))
    modIsp r.2 fun i => { i with blNow := i.blNow.set c f.1, rowStart := i.rowStart.set c r.1, rowNow := i.rowNow.set c r.1 }) s

/-- Does the mean of the four frame levels lie outside BL_RANGE (R262)? [DEDUCED: log 62] -/
def outsideRange (s : State) : Bool :=
  decide (s.isp.blNow.sum < 64 * rf s 0x01010020 11 0) || decide (64 * rf s 0x01010020 27 16 < s.isp.blNow.sum)

/-- The frame levels are known: the range check of R262. -/
def levelsKnown (s : State) : State :=
  let s1 := frameLevels s
  let s2 := modIsp s1 fun i => { i with stat := { i.stat with frameLevel := i.blNow } }
  if outsideRange s2 then
    logOnly (modIsp s2 fun i => { i with blFallback := true, stat := { i.stat with blFallback := true } }) .eye 1 0 Code.blRangeFault 1
  else s2

/-- The black-level mode of the frame (R262). -/
def blMode (s : State) : Nat :=
  if s.isp.blFallback || rf s 0x01000000 6 4 != 0 then 0 else rf s 0x01010000 1 0

/-- The row filters take an array row (R260). -/
def filterRow (s : State) (r : Nat) : State :=
  modIsp s fun i => { i with rowNow := (List.range 4).map fun c =>
    let now := lget 0 i.rowNow c
    (mean16 (obPixels s c [r] (List.range 16))).elim now fun m => now + ((m : Int) - now) / (2 ^ rf s 0x0101000C 2 0 : Nat) }

/-- BL16 of a colour (R261). -/
def blackOf (s : State) (c : Nat) : Int :=
  match blMode s with
  | 0 => rf s (0x01010010 + 4 * c) 15 0
  | 1 => (lget 0 s.isp.blNow c : Nat)
  | _ => ((lget 0 s.isp.blNow c : Nat) : Int) + lget 0 s.isp.rowNow c - lget 0 s.isp.rowStart c

/-- A black-corrected value X from a linear value V (R261). -/
def blackCorrect (hdr : Bool) (v : Nat) (bl : Int) : Nat :=
  let d := (v : Int) * 16 - bl
  clip16 ((d * (if hdr then 1 else 16) + 8) / 16)

/-- BL16 of the two colours of an array row, the even columns' first. -/
def blackPair (s : State) (r : Nat) : List Int := [blackOf s (bayer r 0), blackOf s (bayer r 1)]

/-- The black-corrected active row of an array row, with its BL16 pair. -/
def blackRowWith (s : State) (r : Nat) (bl : List Int) : Array Nat :=
  ((List.range 4096).map fun x =>
    let v := if s.eye.hdrActive then expand (rawCode s r (x + 16)) else rawCode s r (x + 16)
    blackCorrect s.eye.hdrActive v (lget 0 bl (x % 2))).toArray

/-- The black-corrected active row of an array row. -/
def blackRow (s : State) (r : Nat) : Array Nat := blackRowWith s r (blackPair s r)

/-! ### Defect correction (R263, R264) -/

/-- A value from the neighbours that remain: 4 the mean of the middle two, 3 the median, 2 their mean, 1 that value. -/
def fromNeighbours (xs : List Nat) : Option Nat :=
  match sortBy id xs with
  | [a] => some a
  | [a, b] => some (roundDiv (a + b) 2)
  | [_, b, _] => some b
  | [_, b, c, _] => some (roundDiv (b + c) 2)
  | _ => none

/-- What defect correction does to a pixel: its value, whether it is a mapped pixel left unchanged, and whether it was
replaced dynamically. -/
structure DefectOut where
  x : Nat
  unfixed : Bool := false
  dyn : Bool := false

/-- Defect correction of one active pixel; the map is in active coordinates. [DEDUCED: log 62] -/
def correctPixel (dpc dyn : Bool) (thresh : Nat) (mapped : Nat → Nat → Bool) (t0 : Nat → Nat → Nat) (y x : Nat) : DefectOut :=
  let good := [(-2, 0), (2, 0), (0, 2), (0, -2)].filter fun (o : Int × Int) => !near mapped y x o.1 o.2
  let repl := fromNeighbours (good.map fun o => near t0 y x o.1 o.2)
  let v := t0 y x
  if mapped y x then
    if dpc then (match repl with | some r => { x := r } | none => { x := v, unfixed := true }) else { x := v }
  else if dyn then
    let ns := [(-2, -2), (-2, 0), (-2, 2), (0, -2), (0, 2), (2, -2), (2, 0), (2, 2)].map fun (o : Int × Int) => near t0 y x o.1 o.2
    if ns.foldl max 0 + thresh < v || v + thresh < ns.foldl min 65535 then
      (match repl with | some r => { x := r, dyn := true } | none => { x := v })
    else { x := v }
  else { x := v }

/-! ### Demosaic (R265, R266) -/

/-- An RGB pixel. -/
structure Rgb where
  r : Nat
  g : Nat
  b : Nat
deriving DecidableEq, Repr

/-- The rounded mean of the values of a function at offsets from a pixel. -/
def meanAt (f : Nat → Nat → Nat) (y x : Nat) (os : List (Int × Int)) : Nat :=
  roundDiv (os.map fun o => near f y x o.1 o.2).sum os.length

def along : List (Int × Int) := [(0, -1), (0, 1)]
def down : List (Int × Int) := [(-1, 0), (1, 0)]
def diag : List (Int × Int) := [(-1, -1), (-1, 1), (1, -1), (1, 1)]

/-- Bilinear interpolation (R265). -/
def bilinear (f : Nat → Nat → Nat) (y x : Nat) : Rgb :=
  match bayer y x with
  | 0 => ⟨f y x, meanAt f y x (along ++ down), meanAt f y x diag⟩
  | 1 => ⟨meanAt f y x along, f y x, meanAt f y x down⟩
  | 2 => ⟨meanAt f y x down, f y x, meanAt f y x along⟩
  | _ => ⟨meanAt f y x diag, meanAt f y x (along ++ down), f y x⟩

/-- g' at an R or B pixel (R266). -/
def edgeGreen (edgeT : Nat) (f : Nat → Nat → Nat) (y x : Nat) : Nat :=
  let at_ (dy dx : Int) : Int := ((near f y x dy dx : Nat) : Int)
  let ch := 2 * at_ 0 0 - at_ 0 (-2) - at_ 0 2
  let cv := 2 * at_ 0 0 - at_ (-2) 0 - at_ 2 0
  let gh := ((at_ 0 (-1) - at_ 0 1).natAbs + ch.natAbs)
  let gv := ((at_ (-1) 0 - at_ 1 0).natAbs + cv.natAbs)
  let eh := divHalfUp (at_ 0 (-1) + at_ 0 1) 2 + divHalfUp ch 4
  let ev := divHalfUp (at_ (-1) 0 + at_ 1 0) 2 + divHalfUp cv 4
  clip16 (if gh + edgeT < gv then eh else if gv + edgeT < gh then ev else divHalfUp (eh + ev) 2)

/-- The edge-directed method (R266). [DEDUCED: log 62] -/
def edgeDirected (edgeT : Nat) (f : Nat → Nat → Nat) (y x : Nat) : Rgb :=
  let g := edgeGreen edgeT f
  let diff (os : List (Int × Int)) : Int := (os.map fun o => ((near f y x o.1 o.2 : Nat) : Int) - (near g y x o.1 o.2 : Nat)).sum
  let chroma (os : List (Int × Int)) (base : Nat) : Nat := clip16 (base + divHalfUp (diff os) os.length)
  match bayer y x with
  | 0 => let v := g y x; ⟨f y x, v, chroma diag v⟩
  | 1 => ⟨chroma along (f y x), f y x, chroma down (f y x)⟩
  | 2 => ⟨chroma down (f y x), f y x, chroma along (f y x)⟩
  | _ => let v := g y x; ⟨chroma diag v, v, f y x⟩

/-! ### White balance, matrix and tone (R267–R269) -/

/-- One channel through its white-balance gain. -/
def wbGain (g x : Nat) : Nat := min 65535 ((x * g + 2048) / 4096)

/-- One output of the colour matrix. -/
def ccmOut (m : List Int) (off : Int) (p : Rgb) : Nat :=
  clip16 ((lget 0 m 0 * p.r + lget 0 m 1 * p.g + lget 0 m 2 * p.b + 2048) / 4096 + off)

/-- The whole part of a square root below 2^n. -/
def sqrtBits : Nat → Nat → Nat → Nat
  | 0, _, r => r
  | n + 1, x, r => sqrtBits n x (if (r + 2 ^ n) * (r + 2 ^ n) ≤ x then r + 2 ^ n else r)

/-- A tone curve of entries L applied to a value. -/
def toneOut (entry : Nat → Nat) (x : Nat) : Nat :=
  let t := sqrtBits 18 (x * 2 ^ 20) 0
  let i := t / 256
  let y : Int := entry i + (((entry (i + 1) : Int) - entry i) * (t % 256 : Nat) + 128) / 256
  (min 255 ((y + 128) / 256)).toNat

/-- An entry of a channel's tone table. -/
def toneEntry (s : State) (ch i : Nat) : Nat :=
  let a := 0x01011000 + 0x1000 * ch + 4 * (i / 2)
  if i % 2 == 0 then rf s a 15 0 else rf s a 31 16

/-! ### The pipeline at one pixel -/

/-- The line buffer as a function of the active pixel. -/
def t0At (i : IspSt) (y x : Nat) : Nat := match i.lines.find? fun l => l.1 == y with | some l => l.2[x]?.getD 0 | none => 0

/-- Defect correction at an active pixel. -/
def correctedAt (s : State) (y x : Nat) : DefectOut :=
  correctPixel (rb s 0x01010000 2) (rb s 0x01010000 3) (rf s 0x01010024 15 0) (fun r c => defMapped s (r + 8) (c + 16)) (t0At s.isp) y x

def t1At (s : State) (y x : Nat) : Nat := (correctedAt s y x).x

/-- T2: after demosaic. -/
def t2At (s : State) (y x : Nat) : Rgb :=
  if rb s 0x01010000 4 then edgeDirected (rf s 0x01010028 15 0) (t1At s) y x else bilinear (t1At s) y x

/-- T3: after white balance and colour matrix. -/
def t3Of (s : State) (p : Rgb) : Rgb :=
  let w := if rb s 0x01010000 5 then
      (⟨wbGain (rf s 0x01010030 15 0) p.r, wbGain (rf s 0x01010034 15 0) p.g, wbGain (rf s 0x01010038 15 0) p.b⟩ : Rgb) else p
  let row (i : Nat) := (List.range 3).map fun j => toSigned 16 (rf s (0x01010040 + 4 * (3 * i + j)) 15 0)
  let off (i : Nat) := toSigned 16 (rf s (0x01010070 + 4 * i) 15 0)
  if rb s 0x01010000 6 then ⟨ccmOut (row 0) (off 0) w, ccmOut (row 1) (off 1) w, ccmOut (row 2) (off 2) w⟩ else w

/-- T4: after the tone curves; with TONE_EN 0 or a bad table, X >> 8 (R256, R286). -/
def t4Of (s : State) (p : Rgb) : Rgb :=
  if rb s 0x01010000 7 && !s.isp.toneBad then
    let table (ch : Nat) := if rb s 0x01010000 8 then 1 else ch
    ⟨toneOut (toneEntry s (table 0)) p.r, toneOut (toneEntry s (table 1)) p.g, toneOut (toneEntry s (table 2)) p.b⟩
  else ⟨p.r / 256, p.g / 256, p.b / 256⟩

/-! ### Tap formats (R270) -/

/-- A whole number below 2^17 in FP16, rounded to nearest even, at most 65,504. -/
def fp16OfNat (x : Nat) : Nat :=
  if x == 0 then 0 else
    let e := Nat.log2 x
    if e ≤ 10 then (e + 15) * 1024 + (x * 2 ^ (10 - e) - 1024)
    else
      let d := 2 ^ (e - 10)
      let q := x / d
      let q1 := if 2 * (x % d) > d || (2 * (x % d) == d && q % 2 == 1) then q + 1 else q
      min 0x7BFF ((e + 15) * 1024 + (q1 - 1024))

/-- One value in a tap's format: 0 S16, 1 FP16, 2 U8. -/
def tapValue (fmt x : Nat) : List Byte :=
  match fmt with
  | 0 => leBytes 2 (x / 2)
  | 1 => leBytes 2 (fp16OfNat x)
  | _ => leBytes 1 x

/-- The bytes of an RGB pixel. -/
def rgbBytes (fmt : Nat) (p : Rgb) : List Byte := tapValue fmt p.r ++ tapValue fmt p.g ++ tapValue fmt p.b

/-- The bytes of an active row at a tap (Table 9.2). -/
def tapRow (s : State) (tap fmt y : Nat) : List Byte :=
  (List.range 4096).flatMap fun x =>
    match tap with
    | 0 => tapValue fmt (t0At s.isp y x)
    | 1 => tapValue fmt (t1At s y x)
    | 2 => rgbBytes fmt (t2At s y x)
    | 3 => rgbBytes fmt (t3Of s (t2At s y x))
    | _ => rgbBytes fmt (t4Of s (t3Of s (t2At s y x)))

/-! ### Band emission (R271, R272) -/

/-- A list in pieces of 64. -/
def pieces64 : Nat → List Byte → List (List Byte)
  | 0, _ => []
  | n + 1, bs => bs.take 64 :: pieces64 n (bs.drop 64)

/-- STREAM_CFG of a stream. -/
def streamCfg (i : Nat) : Nat := 0x01010080 + 4 * i

/-- Is a stream on; an export only while DEBUG_DISABLED is 0 (R272). -/
def streamOn (s : State) (i : Nat) : Bool := rb s (streamCfg i) 0 && (rf s (streamCfg i) 11 8 != 0 || !s.otp.debugEffective)

/-- The route of a stream's destination is gone (Table 9.8). [DEDUCED: log 63] -/
def streamLost (s : State) (dst : Nat) : Bool := (routePort s .eye dst).isNone

/-- A stream whose route is gone: its bands are discarded, and the frame is reported once with cause NO_ROUTE. [DEDUCED: log 63] -/
def noRoute (s : State) (i : Nat) : State :=
  let seen := if i == 0 then s.isp.noRoute0 else s.isp.noRoute1
  if seen then s else
    let s1 := modIsp s fun x => { x with cause := 6, noRoute0 := x.noRoute0 || i == 0, noRoute1 := x.noRoute1 || i == 1 }
    sendFrameAbort (modEye s1 fun y => { y with missing := y.missing + 1, lastMissing := 0 }) .svc 6

/-- One active row of one stream. [DEDUCED: log 61] -/
def emitRow (s : State) (i y : Nat) : State :=
  let c := streamCfg i
  let dst := rf s c 11 8
  if !streamOn s i then s
  else if streamLost s dst then noRoute s i
  else
    let bs := tapRow s (rf s c 3 1) (rf s c 5 4) y
    let n := bs.length / 64
    ((pieces64 n bs).zipIdx).foldl (fun t p => sendParcel t .eye
      { src := 0, dst := dst, vc := if dst == 0 then 5 else 1, cls := if dst == 0 then 5 else 2, kind := 0
        tag := rf s c 23 16, last := y % 128 == 127 && p.2 + 1 == n, arg := y / 128, payload := p.1 }) s

/-! ### Statistics (R275, R276) -/

/-- A count raised. -/
def bump (m : List (Nat × Nat)) (k n : Nat) : List (Nat × Nat) := mset 0 m k (mget 0 m k + n)

/-- Y of the statistics (R275). -/
def statY (p : Rgb) : Nat := (77 * p.r + 150 * p.g + 29 * p.b + 128) / 256

/-- One pixel counted; `t4` says that the source is T4. [DEDUCED: log 62] -/
def countPixel (t4 : Bool) (satAt : Nat) (y x : Nat) (p : Rgb) (st : StatSet) : StatSet :=
  let vs := [p.r, p.g, p.b, statY p]
  let z := 16 * (y / 256) + x / 256
  let k := if t4 then 256 else 1
  { st with
    pixels := st.pixels + 1
    hist := vs.zipIdx.foldl (fun h v => bump h (256 * v.2 + (if t4 then v.1 else v.1 / 256)) 1) st.hist
    zone := vs.zipIdx.foldl (fun h v => bump h (4 * z + v.2) (k * v.1)) st.zone
    sat := if satAt ≤ k * p.r || satAt ≤ k * p.g || satAt ≤ k * p.b then bump st.sat z 1 else st.sat }

/-- An active row counted. -/
def countRow (s : State) (y : Nat) : State :=
  if !rb s 0x01020000 0 then s else
  modIsp s fun i => { i with stat := (List.range 4096).foldl (fun st x =>
    let p := t2At s y x
    let q := match st.src with | 0 => p | 1 => t3Of s p | _ => t4Of s (t3Of s p)
    countPixel (st.src == 2) (rf s 0x01020004 15 0) y x q st) i.stat }

/-- An active row that every stage has finished with: counted and emitted. -/
def finishRow (s : State) (y : Nat) : State :=
  let outs := (List.range 4096).map (correctedAt s y)
  let s1 := modIsp s fun i => { i with
    unfixedNow := i.unfixedNow + (outs.filter (·.unfixed)).length, dynNow := i.dynNow + (outs.filter (·.dyn)).length }
  let s2 := countRow s1 y
  let s3 := emitRow (emitRow s2 0 y) 1 y
  modIsp s3 fun i => { i with
    emitted := y + 1, band := if y % 128 == 127 then y / 128 else i.band
    bandCount := if y % 128 == 127 && (streamOn s 0 || streamOn s 1) then i.bandCount + 1 else i.bandCount }

/-! ### Rows of a frame (R257, R273, R285) -/

/-- The ISP starts on a frame: the filters and counts restart (R288). -/
def frameStart (s : State) : State :=
  modIsp s fun i => { i with
    state := .armed, next := 0, emitted := 0, blFallback := false, toneBypass := false, toneBad := false
    noRoute0 := false, noRoute1 := false, dynNow := 0, unfixedNow := 0, lines := [], blRows := []
    stat := { src := rf s 0x01020000 2 1, hdr := i.stat.hdr } }

/-- ISP_START as a launch action (R273). -/
def startIsp (s : State) (_ : Die) (_ : Nat) (_ : Launched) : State :=
  if !s.eye.exposed && (unitOf s .eye 0).queued.isNone then unitDone (logOnly s .eye 1 0 Code.ispNoFrame 1) .eye 1
  else if s.eye.frameMissing then unitDone (modIsp s fun i => { i with state := .aborted }) .eye 1
  else frameStart s

/-- Active rows that can be finished once array row r has been processed: all that lie 5 rows above it, and the rest at the
last row. [DEDUCED: log 61] -/
def rowsReady (s : State) (r : Nat) : List Nat :=
  let upTo := if r == 3079 then 3072 else r - 12
  (List.range (upTo - s.isp.emitted)).map (· + s.isp.emitted)

/-- One array row through the stages (R257–R271). [DEDUCED, DESIGN CHOICE: log 61, 64] -/
def processRow (s : State) (r : Nat) : State :=
  let s1 := modIsp s fun i => { i with state := .running, next := r + 1, stat := { i.stat with hdr := s.eye.hdrActive } }
  if r < 7 then s1
  else if r == 7 then levelsKnown s1
  else
    let s2 := filterRow s1 r
    let s3 := modIsp s2 fun i => { i with lines := ((r - 8, blackRow s2 r) :: i.lines).take 11, blRows := i.blRows ++ [(r, blackPair s2 r)] }
    let s4 := (rowsReady s3 r).foldl finishRow s3
    if r == 3079 then unitDone (modIsp s4 fun i => { i with state := .done }) .eye 1 else s4

/-- The first cause of Table 9.9 that a delivered row shows. [DESIGN CHOICE: log 65] -/
def rowCause (s : State) (len index : Nat) (frameEnd lineEcc : Bool) : Option Nat :=
  if len != 4112 then some 2
  else if frameEnd && decide (index < 3079) then some 3
  else if index != s.isp.next || decide (3079 < index) then some 4
  else if lineEcc then some 7
  else none

/-! ### The equinox in the EYE's image path (R247, R255, R279, R288) -/

/-- The statistics set as it becomes visible (R277, R278). -/
def latchedSet (s : State) (epoch : Word) : StatSet :=
  { s.isp.stat with
    epoch := epoch, valid := s.isp.stat.pixels == 12582912
    partialSet := s.isp.stat.pixels != 12582912 && s.isp.stat.pixels != 0, skipped := !s.eye.exposed }

/-- The sensor, ISP and statistics at an EQUINOX token that ends an epoch. -/
def imageEquinox (s : State) (epoch : Word) : State :=
  let changed := defectsPending s
  let s1 := rapply s 0x01000000 0x01010000
  let hold := rb s 0x01010000 31
  let s2 := if hold then modIsp s1 fun i => { i with holdSkips := i.holdSkips + 1 } else rapply s1 0x01010000 0x01030000
  let s3 := modIsp s2 fun i => { i with
    shown := latchedSet s2 epoch, stat := {}, blMeas := i.blNow, dynCount := i.dynNow, dpcUnfixed := i.unfixedNow, state := .idle }
  let s4 := modEye s3 fun y => { y with
    exposed := false, frameMissing := false, tempDefects := y.tempNext, fresh := false }
  let s5 := if changed then loadDefects s4 else s4
  modEye s5 fun y => { y with defectsUsed := y.defects.length }

end Sys2Proof.Machine
end

