-- ==== Sys2Proof/Machine/FabOps.lean ====
section
/-! DEFINITION. Compute-die memory: address windows, writes under HELD and WPROT, the remote cache, remote reads, master
control and the weight-scrub unit (chapter 07). -/
namespace Sys2Proof.Machine

/-! ### Windows (Table 7.1) -/

/-- A register of a compute die's fabric block. -/
def fabReg (cd off : Nat) : Nat := cdBase cd + 0x00400000 + off

/-- The first address of a cluster's SRAM. -/
def sramBase (cd cl : Nat) : Nat := 0x80000000 + cd * 0x04000000 + cl * 0x01000000

/-- What a range of n bytes from an address lies in. -/
inductive MemWindow where
  | sram (cd cl : Nat) | ledger (cd : Nat) | stats | frame | svc | none
deriving DecidableEq, Repr

/-- The window that holds a whole range; none for a range that no window of Table 7.1 holds. -/
def windowOf (s : State) (a n : Nat) : MemWindow :=
  let e := a + n
  if 0x80000000 ≤ a && a < 0x90000000 then
    let cd := (a - 0x80000000) / 0x04000000
    let cl := (a - 0x80000000) / 0x01000000 % 4
    if cdOk s cd && decide (e ≤ sramBase cd cl + 0xC00000) then .sram cd cl else .none
  else if 0x10000000 ≤ a && a < 0x14000000 then
    let cd := (a - 0x10000000) / 0x01000000
    if cdOk s cd && decide (cdBase cd + 0x00780000 ≤ a) && decide (e ≤ cdBase cd + 0x007A0000) then .ledger cd else .none
  else if 0x01028000 ≤ a && e ≤ 0x01030000 then .stats
  else if 0x01800000 ≤ a && e ≤ 0x03000000 then .frame
  else if 0x00400000 ≤ a && e ≤ 0x00800000 then .svc
  else .none

/-- The die whose window holds a range. -/
def MemWindow.die : MemWindow → Option Die
  | .sram cd _ | .ledger cd => some (Die.ofCd cd)
  | .stats | .frame => some .eye
  | .svc => some .svc
  | .none => Option.none

/-! ### The statistics results window (Table 9.4) -/

/-- A zone's mean of one channel (R276). -/
def zoneMean (t : StatSet) (z k : Nat) : Nat := (mget 0 t.zone (4 * z + k) + 32768) / 65536

/-- One word of the results window. -/
def statWord (t : StatSet) (off : Nat) : Nat :=
  if off == 0 || off == 0x2000 then t.epoch.toNat
  else if off == 4 then b2n t.valid + 2 * b2n t.skipped + 4 * b2n t.partialSet + 8 * t.src + 32 * b2n t.hdr + 64 * b2n t.blFallback
  else if off == 8 then t.pixels
  else if 0x10 ≤ off && off < 0x20 then lget 0 t.frameLevel ((off - 0x10) / 4) % 65536
  else if 0x400 ≤ off && off < 0x1400 then mget 0 t.hist ((off - 0x400) / 4) % 2 ^ 24
  else if 0x1400 ≤ off && off < 0x1400 + 16 * 192 then
    let z := (off - 0x1400) / 16
    match (off - 0x1400) / 4 % 4 with
    | 0 => zoneMean t z 0 + 65536 * zoneMean t z 1
    | 1 => zoneMean t z 2 + 65536 * zoneMean t z 3
    | 2 => mget 0 t.sat z
    | _ => 0
  else 0

/-- One byte of a window. -/
def windowByte (s : State) (a : Nat) : Byte :=
  match windowOf s a 1 with
  | .ledger cd => ledgerByte s cd (a - cdBase cd - 0x00780000)
  | .stats => BitVec.ofNat 8 (statWord s.isp.shown ((a - 0x01028000) / 4 * 4) / 2 ^ (8 * (a % 4)))
  | .svc => svcByte s a
  | _ => byteAt s.mem a

/-- n bytes of the windows from an address on. -/
def windowBytes (s : State) (a n : Nat) : List Byte := (List.range n).map fun i => windowByte s (a + i)

/-! ### Writes into cluster SRAM (R206, R214, R221) -/

/-- The writers that REMOTE_HELD_WRITE and RESIDENT_WRITE name. -/
inductive Writer where
  | stream | halo | engine | dma
deriving DecidableEq, Repr

/-- [DESIGN CHOICE: log 53] -/
def Writer.code : Writer → Nat
  | .stream => 0 | .halo => 1 | .engine => 2 | .dma => 3

/-- The 64-byte lines that n bytes from an address touch. -/
def linesOf (a n : Nat) : List Nat := if n == 0 then [] else (List.range ((a + n - 1) / 64 - a / 64 + 1)).map fun i => 64 * (a / 64 + i)

/-- Is a line HELD, with HELD_CHECK on? -/
def heldLine (s : State) (cd line : Nat) : Bool := rb s (fabReg cd 0) 2 && (s.fab cd).held.contains line

/-- Segment i of a die: base, length, UPD and VALID (Table 7.5). -/
structure Segment where
  base : Nat
  len : Nat
  upd : Bool
  valid : Bool
  crc : Word

def segment (s : State) (cd i : Nat) : Segment :=
  let l := rget s (fabReg cd (0x404 + 16 * i))
  ⟨rnat s (fabReg cd (0x400 + 16 * i)), wbits l 27 0, wbit l 30, wbit l 31, rget s (fabReg cd (0x408 + 16 * i))⟩

/-- Does a write of n bytes touch a protected segment (R221)? -/
def protectedAt (s : State) (cd a n : Nat) : Bool :=
  rb s (fabReg cd 0x100) 1 &&
  (List.range 64).any fun i => let g := segment s cd i
    g.valid && !g.upd && decide (a < g.base + g.len) && decide (g.base < a + n)

/-- A refused write: counted, logged, and the epoch DEGRADED (Table 7.3, R221). [DESIGN CHOICE: log 53] -/
def refuseWrite (s : State) (cd a : Nat) (w : Writer) (resident : Bool) : State :=
  let d := Die.ofCd cd
  let s1 := modFab s cd fun f => { f with heldViol := satAdd 0xFFFFFFFF f.heldViol 1, heldAddr := toWord a }
  let s2 := if resident then logOnly s1 d 4 0 Code.residentWrite 1 (args4 [a, w.code])
    else logOnly s1 d 4 0 Code.remoteHeldWrite 2 (args4 [a, w.code])
  markDegraded s2 d

/-- Bytes into SRAM, with the ECC of the words they cover renewed (R206). [DESIGN CHOICE: log 55] -/
def sramPut (s : State) (cd a : Nat) (bs : List Byte) : State :=
  modFab (memPut s a bs) cd fun f => { f with poison := f.poison.filter fun p => !(decide (a ≤ p) && decide (p + 8 ≤ a + bs.length)) }

/-- A parcel's payload into SRAM: refused whole when a line it covers is HELD or protected (R214). -/
def sramParcel (s : State) (cd a : Nat) (bs : List Byte) (w : Writer) : State :=
  if (linesOf a bs.length).any (heldLine s cd) then refuseWrite s cd a w false
  else if protectedAt s cd a bs.length then refuseWrite s cd a w true
  else sramPut s cd a bs

/-- The part of n bytes from an address that lies in one line. -/
def lineSlice (a : Nat) (bs : List Byte) (line : Nat) : Nat × List Byte :=
  let lo := max a line
  (lo, (bs.drop (lo - a)).take (min (line + 64) (a + bs.length) - lo))

/-- A result of an engine or of the DMA mover into SRAM: each line that is HELD or protected is left out, and the job
continues (R214). [DESIGN CHOICE: log 56] -/
def sramEngine (s : State) (cd a : Nat) (bs : List Byte) (w : Writer) : State :=
  (linesOf a bs.length).foldl (fun t l =>
    let p := lineSlice a bs l
    if heldLine t cd l then refuseWrite t cd p.1 w false
    else if protectedAt t cd p.1 p.2.length then refuseWrite t cd p.1 w true
    else sramPut t cd p.1 p.2) s

/-! ### The remote cache (R212, R213) -/

/-- The set of a line address: bits 17:6. -/
def rcSet (a : Nat) : Nat := a / 64 % 4096

/-- The pseudo-LRU bits after an access to a way: each node on its path points away from it. -/
def plruTouch (p : BitVec 7) (way : Nat) : BitVec 7 :=
  let b0 := way / 4 % 2
  let b1 := way / 2 % 2
  let b2 := way % 2
  let put (x : BitVec 7) (i : Nat) (v : Bool) : BitVec 7 := if v then x ||| BitVec.ofNat 7 (2 ^ i) else x &&& ~~~(BitVec.ofNat 7 (2 ^ i))
  put (put (put p 0 (b0 == 0)) (1 + b0) (b1 == 0)) (3 + 2 * b0 + b1) (b2 == 0)

/-- The victim the tree points at. [DESIGN CHOICE: log 52] -/
def plruVictim (p : BitVec 7) : Nat :=
  let b0 := b2n (nbit p.toNat 0)
  let b1 := b2n (nbit p.toNat (1 + b0))
  4 * b0 + 2 * b1 + b2n (nbit p.toNat (3 + 2 * b0 + b1))

/-- The way that holds a line. -/
def rcWay (t : RcSet) (a : Nat) : Option Nat := (List.range 8).find? fun w => match vget t.ways w with | some l => l.1 == a | none => false

/-- A line's data in the cache. -/
def rcFind (f : Fabric) (a : Nat) : Option (BitVec 512) :=
  let t := mget {} f.cache (rcSet a)
  (rcWay t a).bind fun w => (vget t.ways w).map (·.2)

/-- A hit makes the line the most recently used. -/
def rcTouch (f : Fabric) (a : Nat) : Fabric :=
  let t := mget {} f.cache (rcSet a)
  match rcWay t a with
  | some w => { f with cache := mset {} f.cache (rcSet a) { t with plru := plruTouch t.plru w } }
  | none => f

/-- A fill: into an invalid way if there is one, else over the victim. -/
def rcFill (f : Fabric) (a : Nat) (v : BitVec 512) : Fabric :=
  let t := mget {} f.cache (rcSet a)
  let w := (rcWay t a).getD (((List.range 8).find? fun w => (vget t.ways w).isNone).getD (plruVictim t.plru))
  { f with cache := mset {} f.cache (rcSet a) { ways := t.ways.setIfInBounds w (some (a, v)), plru := plruTouch t.plru w } }

/-! ### Remote reads (R208–R212, R215, R216) -/

/-- Is a tag counted in OUTSTANDING: of the current generation and not quarantined? -/
def tagOut (t : ReadTag) : Bool := !t.lost && !t.old
def outstanding (f : Fabric) : Nat := (f.tags.filter tagOut).length
def oldOutstanding (f : Fabric) : Nat := (f.tags.filter (·.old)).length
def quiesced (f : Fabric) : Bool := !f.masterActive && outstanding f == 0

/-- The port by which a die's reads of another die leave, and how many it may have outstanding there (R209). -/
def readPort (s : State) (cd : Nat) (target : Die) : Nat := match routePort s (Die.ofCd cd) target.code with | some p => p.port | none => 0
/-- [DESIGN CHOICE: log 52] -/
def portTags (s : State) (cd port : Nat) : Nat := let e := s.port ⟨Die.ofCd cd, port⟩; if e.ag.readsOut then e.ag.tags else 0

/-- The lowest tag of the pool. [DESIGN CHOICE: log 52] -/
def freeTag (f : Fabric) : Option Nat := (List.range 256).find? fun i => !(f.tags.any fun t => t.tag == i && !t.old)

/-- A READ leaves the die (R208). -/
def sendRead (s : State) (cd : Nat) (t : ReadTag) : State :=
  let body := leBytes 4 t.addr ++ leBytes 1 t.lines
  sendParcel s (Die.ofCd cd) { src := 0, dst := t.target.code, vc := 2, cls := 0, kind := 0, gen := t.gen, tag := t.tag, payload := body }

/-- A waiting read is issued if the pool and its port have room. -/
def issueOne (s : State) (cd : Nat) (t : ReadTag) : State :=
  let f := s.fab cd
  let port := readPort s cd t.target
  let used := (f.tags.filter fun x => tagOut x && x.port == port).length
  match freeTag f with
  | some n =>
    if used < portTags s cd port then
      let t1 := { t with tag := n, gen := f.gen, port := port, issued := s.now }
      sendRead (modFab s cd fun f => { f with tags := f.tags ++ [t1] }) cd t1
    else modFab s cd fun f => { f with waitq := f.waitq ++ [t] }
  | none => modFab s cd fun f => { f with waitq := f.waitq ++ [t] }

/-- Issues the reads that wait, in order. [DESIGN CHOICE: log 52] -/
def issueReads (s : State) (cd : Nat) : State :=
  (s.fab cd).waitq.foldl (fun t r => issueOne t cd r) (modFab s cd fun f => { f with waitq := [] })

/-- A transfer ends: nothing waits for its lines any more, and the epoch is PARTIAL. -/
def endTransfer (s : State) (cd : Nat) (xs : List Nat) : State :=
  let drop (t : ReadTag) : ReadTag := { t with waiters := t.waiters.filter fun w => !xs.contains w.xfer }
  markPartial (modFab s cd fun f => { f with tags := f.tags.map drop, waitq := (f.waitq.map drop).filter fun t => t.waiters != [] })
    (Die.ofCd cd)

/-- MASTER_ACTIVE follows a MASTER_EN of 1 once no read is outstanding (R215). -/
def masterFollow (s : State) (cd : Nat) : State :=
  if rb s (fabReg cd 0) 0 && outstanding (s.fab cd) == 0 then modFab s cd fun f => { f with masterActive := true } else s

/-- MASTER_ACTIVE clears at once: responses will be discarded, and transfers waiting end with REMOTE_BLOCKED (R216). [DESIGN CHOICE: log 53] -/
def masterClear (s : State) (cd : Nat) : State :=
  let f := s.fab cd
  let waiting := f.tags.any (fun t => t.waiters != []) || f.waitq != []
  let s1 := modFab s cd fun f => { f with
    masterActive := false, stuck := false, waitq := [], tags := f.tags.map fun t => { t with discard := true, waiters := [] } }
  if waiting then markPartial s1 (Die.ofCd cd) else s1

/-- A write of MASTER_EN (R215). -/
def masterEn (s : State) (cd : Nat) (on : Bool) : State := if on then masterFollow s cd else masterClear s cd

/-- The whole remote cache is invalidated (R213). -/
def rcInvalidate (s : State) (cd : Nat) : State := modFab s cd fun f => { f with cache := [] }

/-- A write of FAB_CTRL as the die takes it; HELD_CHECK is clearable only before FIELD (R224). -/
def fabCtrl (s : State) (cd : Nat) (v : Word) : State :=
  let s1 := rput s (fabReg cd 0) (toWord (wbits v 2 0))
  let s2 := if wbit v 1 then s1 else rcInvalidate s1 cd
  masterEn s2 cd (wbit v 0)

/-- Are lines served through the cache? -/
def rcUsed (s : State) (cd : Nat) (nc : Bool) : Bool := !nc && rb s (fabReg cd 0) 1

/-- A line joins a read that is outstanding or waiting for it. -/
def joinRead (f : Fabric) (w : Waiter) : Option Fabric :=
  let has (t : ReadTag) : Bool := !t.nc && !t.discard && !t.lost && !t.old && decide (t.addr ≤ w.line) && decide (w.line < t.addr + 64 * t.lines)
  let add (t : ReadTag) : ReadTag := if has t then { t with waiters := t.waiters ++ [w] } else t
  if f.tags.any has || f.waitq.any has then some { f with tags := f.tags.map add, waitq := f.waitq.map add } else none

/-- A line is requested: as one more line of the last waiting read of its transfer when that ends just before it, of at
most 16 lines and one window, else by a read of its own (R208). [DESIGN CHOICE: log 52] -/
def requestLine (s : State) (cd : Nat) (w : Waiter) (nc : Bool) (target : Die) : State :=
  modFab s cd fun f =>
    let f1 := { f with miss := f.miss + 1 }
    match f1.waitq.getLast? with
    | some t =>
      if t.nc == nc && t.addr + 64 * t.lines == w.line && decide (t.lines < 16) && t.target == target &&
         (t.waiters.any fun x => x.xfer == w.xfer) && windowOf s t.addr (64 * (t.lines + 1)) != .none then
        { f1 with waitq := f1.waitq.dropLast ++ [{ t with lines := t.lines + 1, waiters := t.waiters ++ [w] }] }
      else { f1 with waitq := f1.waitq ++ [{ tag := 0, gen := 0, addr := w.line, lines := 1, nc := nc, target := target, port := 0, waiters := [w], issued := 0 }] }
    | none => { f1 with waitq := [{ tag := 0, gen := 0, addr := w.line, lines := 1, nc := nc, target := target, port := 0, waiters := [w], issued := 0 }] }

/-- One line of a remote load; the Bool says that the load goes on. [DESIGN CHOICE: log 56] -/
def loadLine (cd : Nat) (nc : Bool) (target : Die) (st : Bool × State) (w : Waiter) : Bool × State :=
  let s := st.2
  if !st.1 then st
  else
    let used := rcUsed s cd nc
    match (if used then rcFind (s.fab cd) w.line else none) with
    | some v =>
      let s1 := modFab s cd fun f => { rcTouch f w.line with hit := f.hit + 1 }
      (true, sramEngine s1 cd w.dst (leBytes 64 v.toNat) .dma)
    | none =>
      if !(s.fab cd).masterActive then (false, endTransfer s cd [w.xfer])
      else match (if used then joinRead (s.fab cd) w else none) with
        | some f => (true, modFab s cd fun _ => f)
        | none => (true, requestLine s cd w (!used) target)

/-- A remote load of so many lines (R212). -/
def remoteLoad (s : State) (cd src lines dst : Nat) (nc : Bool) : State :=
  let a := src / 64 * 64
  match (windowOf s a 64).die with
  | none => markPartial (logOnly s (Die.ofCd cd) 4 0 Code.remoteErr 2 (args4 [a])) (Die.ofCd cd)
  | some target =>
    if target == Die.ofCd cd then s else
    let x := (s.fab cd).xferNext
    let s1 := modFab s cd fun f => { f with xferNext := f.xferNext + 1 }
    let ws := (List.range lines).map fun i => ({ line := a + 64 * i, dst := dst + 64 * i, xfer := x } : Waiter)
    issueReads (ws.foldl (loadLine cd nc target) (true, s1)).2 cd

/-! ### Responders (R208, R210, R214) -/

/-- Is any word of n bytes from an address poisoned? -/
def poisonedAt (s : State) (cd a n : Nat) : Bool := (s.fab cd).poison.any fun p => decide (p < a + n) && decide (a < p + 8)

/-- May a READ of a range be served by a die: in one window of its own that VC2 reaches, and not poisoned? -/
def readServed (s : State) (d : Die) (a n : Nat) (vc5 : Bool) : Bool :=
  match windowOf s a n with
  | .sram cd _ => d == Die.ofCd cd && !poisonedAt s cd a n
  | .ledger cd => d == Die.ofCd cd
  | .stats => d == .eye
  | .frame => vc5 && d == .eye
  | _ => false

/-- A line becomes HELD (R214). -/
def holdLine (f : Fabric) (line : Nat) : Fabric :=
  if f.held.contains line then f else { f with held := insertBy id line f.held }

/-- A responder's answer to a READ on VC2 or VC5: one parcel per line, or a single error (R210). -/
def serveRead (s : State) (d : Die) (x : Parcel) (vc kind : Nat) : State :=
  let a := leAt x.payload 0 4
  let n := leAt x.payload 4 1
  let vc5 := vc == 5
  let cls := if vc5 then 5 else match windowOf s a (64 * n) with | .sram .. => 1 | _ => 0
  let base : Parcel := { src := 0, dst := x.src, vc := vc, cls := cls, kind := kind, gen := x.gen, tag := x.tag }
  if a % 64 == 0 && decide (1 ≤ n) && decide (n ≤ 16) && readServed s d a (64 * n) vc5 then
    (List.range n).foldl (fun t i =>
      let line := a + 64 * i
      let t1 := sendParcel t d { base with last := i + 1 == n, arg := 2 * i, payload := windowBytes t line 64 }
      match vc5, windowOf t line 64 with
      | false, .sram cd _ => modFab t1 cd fun f => holdLine f line
      | _, _ => t1) s
  else sendParcel s d { base with last := true, arg := 1, payload := [] }

/-! ### Responses (R209–R211, R216, R219) -/

/-- Response lines discarded are counted. -/
def discardLineCount (s : State) (cd : Nat) : State := modFab s cd fun f => { f with discards := satAdd 0xFFFFFFFF f.discards 1 }

/-- A tag changed, or returned to the pool. -/
def setTag (s : State) (cd : Nat) (t : ReadTag) (f : ReadTag → Option ReadTag) : State :=
  modFab s cd fun b => { b with tags := b.tags.filterMap fun x => if x.tag == t.tag && x.gen == t.gen then f x else some x }

/-- After a read ends: waiting reads are issued, and the die's master state and drain follow. -/
def readEnded (s : State) (cd : Nat) : State := drainCheck (issueReads (masterFollow s cd) cd) (Die.ofCd cd)

/-- The lines of a read that arrive at their destinations and in the cache. -/
def fillLine (s : State) (cd : Nat) (t : ReadTag) (line : Nat) (bs : List Byte) : State :=
  let s1 := if t.nc || !rb s (fabReg cd 0) 1 then s else modFab s cd fun f => rcFill f line (BitVec.ofNat 512 (leNat bs))
  let s2 := (t.waiters.filter fun w => w.line == line).foldl (fun u w => sramEngine u cd w.dst bs .dma) s1
  setTag s2 cd t fun x => some { x with waiters := x.waiters.filter fun w => w.line != line }

/-- A RESP at its requester. -/
def takeResponse (s : State) (cd : Nat) (x : Parcel) : State :=
  match (s.fab cd).tags.find? fun t => t.tag == x.tag && t.gen == x.gen && t.target.code == x.src with
  | none =>
    let s1 := discardLineCount s cd
    if x.gen == (s.fab cd).gen then logOnly s1 (Die.ofCd cd) 4 0 Code.tagUnknown 1 else s1
  | some t =>
    if t.lost then discardLineCount s cd
    else
      let s1 :=
        if t.old || t.discard then discardLineCount s cd
        else if x.arg % 2 == 1 then
          endTransfer (logOnly s (Die.ofCd cd) 4 0 Code.remoteErr 2 (args4 [t.addr])) cd (t.waiters.map (·.xfer))
        else fillLine s cd t (t.addr + 64 * (x.arg / 2 % 16)) (padTo 64 x.payload)
      if x.last then readEnded (setTag s1 cd t fun _ => none) cd else s1

/-- A read outstanding past READ_TO is lost (R211). -/
def loseRead (s : State) (cd tag : Nat) : State :=
  match (s.fab cd).tags.find? fun t => t.tag == tag && tagOut t with
  | none => s
  | some t =>
    let s1 := modFab s cd fun f => { f with lostCount := satAdd 0xFFFFFFFF f.lostCount 1 }
    let s2 := logOnly s1 (Die.ofCd cd) 4 0 Code.remoteLost 1 (args4 [t.addr])
    let s3 := endTransfer s2 cd (t.waiters.map (·.xfer))
    readEnded (setTag s3 cd t fun x => some { x with lost := true }) cd

/-- A drain by force: responses are discarded and waiting reads dropped (Table 7.7). -/
def forceReads (s : State) (cd : Nat) : State :=
  modFab s cd fun f => { f with waitq := [], tags := f.tags.map fun t => { t with discard := true, waiters := [] } }

/-! ### The weight-scrub unit (R222, R223) -/

/-- The segments that the unit covers: valid, with UPD 0. -/
def scrubSegs (s : State) (cd : Nat) : List Nat := (List.range 64).filter fun i => let g := segment s cd i; g.valid && !g.upd && g.len != 0

/-- How many bytes the unit may read in an epoch. -/
def scrubShare (s : State) (cd : Nat) : Nat :=
  let total := ((scrubSegs s cd).map fun i => (segment s cd i).len).sum
  let n := 64 * max 1 (rf s (fabReg cd 0x100) 31 16)
  (total + n - 1) / n * 64

/-- The unit's next segment after one, or none when the pass ends. -/
def scrubNext (s : State) (cd i : Nat) : Option Nat := (scrubSegs s cd).find? fun j => decide (i < j)

/-- A mismatch: FAIL, the log, HEALTH WEIGHT_SCRUB; the second makes the die unusable (R223). -/
def scrubMismatch (s : State) (cd i : Nat) (again : Bool) : State :=
  let d := Die.ofCd cd
  let s1 := modFab s cd fun f => { f with scrubFail := true, scrubFailSeg := i, scrubRecheck := false }
  let s2 := logOnly s1 d 7 0 Code.weightScrubFail (if again then 3 else 2) (args4 [i])
  let s3 := raiseFrom s2 d 7 0 Code.weightScrub 1 (args4 [i])
  if again then modDie s3 d fun x => { x with state := 6 } else s3

/-- A segment has been read to its end. -/
def scrubEnd (s : State) (cd i : Nat) (crc : Word) (bad : Bool) : State :=
  let f := s.fab cd
  let again := f.scrubRecheck && f.scrubFailSeg == i
  if bad || (crc ^^^ 0xFFFFFFFF) != (segment s cd i).crc then scrubMismatch s cd i again
  else
    let s1 := modComp s cd fun c => { c with fChecked := if c.fChecked.contains i then c.fChecked else c.fChecked ++ [i] }
    if again then modFab s1 cd fun f => { f with scrubFail := false, scrubRecheck := false } else s1

/-- Reads up to so many bytes on, at most one pass. [DESIGN CHOICE: log 54] -/
def scrubRun : Nat → State → Nat → Nat → State
  | 0, s, _, _ => s
  | n + 1, s, cd, left =>
    let f := s.fab cd
    let i := f.scrubSeg
    let g := segment s cd i
    if !g.valid || g.upd || g.len == 0 then
      match scrubNext s cd i with
      | some j => scrubRun n (modFab s cd fun f => { f with scrubSeg := j, scrubPos := 0, scrubCrc := 0xFFFFFFFF }) cd left
      | none => modFab s cd fun f => { f with scrubSeg := ((scrubSegs s cd).head?).getD 0, scrubPos := 0, scrubCrc := 0xFFFFFFFF }
    else if left == 0 then s
    else
      let m := min left (g.len - f.scrubPos)
      let crc := toWord ((windowBytes s (g.base + f.scrubPos) m).foldl (crcFeed 1) f.scrubCrc.toNat)
      let s1 := modFab s cd fun f => { f with scrubPos := f.scrubPos + m, scrubCrc := crc, scrubUsed := f.scrubUsed + m }
      if f.scrubPos + m < g.len then s1
      else
        let s2 := scrubEnd s1 cd i crc (poisonedAt s cd g.base g.len)
        match scrubNext s cd i with
        | some j => scrubRun n (modFab s2 cd fun f => { f with scrubSeg := j, scrubPos := 0, scrubCrc := 0xFFFFFFFF }) cd (left - m)
            | none => modFab s2 cd fun f => { f with
            scrubSeg := ((scrubSegs s cd).head?).getD 0, scrubPos := 0, scrubCrc := 0xFFFFFFFF
            scrubPasses := (f.scrubPasses + 1) % 65536, scrubUsed := scrubShare s cd }

/-- The unit's reads of an epoch; a segment that was rewritten comes first. [DESIGN CHOICE: log 54] -/
def scrubEpoch (s : State) (cd : Nat) : State :=
  let s1 := if (s.fab cd).scrubRecheck && (s.fab cd).scrubUsed == 0 then
      modFab s cd fun f => { f with scrubSeg := f.scrubFailSeg, scrubPos := 0, scrubCrc := 0xFFFFFFFF } else s
  scrubRun 130 s1 cd (scrubShare s cd - (s.fab cd).scrubUsed)

/-! ### Maintenance writes (R173, Table 7.1) -/

/-- A VC5 WRITE at a die: cluster SRAM, unchecked against HELD, or the EYE's frame buffer. [DESIGN CHOICE: log 55] -/
def takeMaint (s : State) (d : Die) (x : Parcel) : State :=
  let a := leAt x.payload 0 4
  let bs := x.payload.drop 4
  match windowOf s a (max 1 bs.length) with
  | .sram cd _ => if d == Die.ofCd cd then sramPut s cd a bs else s
  | .frame => if d == .eye then memPut s a bs else s
  | _ => s

/-- SVC sends bytes to a die's memory over VC5, 60 to a parcel (R78). -/
def sendMaint (s : State) (dst : Die) : Nat → Nat → List Byte → State
  | 0, _, _ => s
  | n + 1, a, bs =>
    if bs == [] then s
    else
      let t := sendParcel s .svc { src := 0, dst := dst.code, vc := 5, cls := 5, kind := 0, payload := leBytes 4 a ++ bs.take 60 }
      sendMaint t dst n (a + 60) (bs.drop 60)

/-! ### The equinox in the fabric (R231) -/

/-- HELD bits clear, quarantined tags return to the pool, and the scrub unit may read again. -/
def fabEquinox (s : State) (cd : Nat) : State :=
  modFab s cd fun f => { f with held := [], tags := f.tags.filter fun t => !t.lost, scrubUsed := 0 }

end Sys2Proof.Machine
end

