-- ==== Sys2Proof/Machine/Fabric.lean ====
section
/-! DEFINITION. The commands of the fabric: maintenance parcels, remote reads, master control and scrubbing (chapter 07). -/
namespace Sys2Proof.Machine

/-- VC5_WRITE (R173, R214). -/
def execVc5Write (r : LinkRx) (s : State) : Res := onParcel s r 5 0 fun s x => takeMaint s r.port.die x

/-- VC5_READ (R173). -/
def execVc5Read (r : LinkRx) (s : State) : Res := onParcel s r 5 1 fun s x => serveRead s r.port.die x 5 2

/-- REMOTE_LOAD (R212, R216). -/
def execRemoteLoad (cd : Nat) (src : Word) (lines : Nat) (dst : Word) (nc : Bool) (s : State) : Res :=
  onUnit (cdOk s cd) (remoteLoad s cd src.toNat lines dst.toNat nc)

/-- READ_REQUEST (R210, R214): SVC serves no VC2 reads (Table 7.1). -/
def execReadRequest (r : LinkRx) (s : State) : Res :=
  onParcel s r 2 0 fun s x => if r.port.die == .svc then s else serveRead s r.port.die x 3 0

/-- READ_RESPONSE (R209–R212). -/
def execReadResponse (r : LinkRx) (s : State) : Res := onParcel s r 3 0 fun s x => onCd r s fun s cd => takeResponse s cd x

/-- READ_TIMEOUT (R211). -/
def execReadTimeout (cd : Nat) (tag : Nat) (s : State) : Res := onUnit (cdOk s cd) (loseRead s cd tag)

/-- May a path write FAB_CTRL, FAB_RESET and FAB_READ_TO (R226)? -/
def fabPathOk (s : State) : Path → Bool
  | .core | .bcp => true
  | .i2c | .jtag => !inField s

/-- A write of FAB_CTRL as a path brings it; HELD_CHECK cannot be cleared from FIELD on (R224, R693). -/
def fabCtrlReg (s : State) (cd : Nat) (path : Path) (v : Word) : WriteRes :=
  if !dieOpen s (Die.ofCd cd) then (s, .state)
  else if !fabPathOk s path then (s, .path)
  else if inField s && rb s (fabReg cd 0) 2 && !wbit v 2 then (s, .refused) else (fabCtrl s cd v, .ok)

/-- MASTER_EN_WRITE (R215, R216). -/
def execMasterEnWrite (path : Path) (cd : Nat) (v : Word) (s : State) : Res :=
  onUnit (cdOk s cd) (answerWrite path (fabReg cd 0) (fabCtrlReg s cd path v))

/-- STUCK_TIMEOUT (R217): logged once for each port that still has reads outstanding. -/
def execStuckTimeout (cd : Nat) (s : State) : Res :=
  onUnit (cdOk s cd) (
    let f := s.fab cd
    if f.masterActive || quiesced f || f.stuck then s else
    (List.range 4).foldl (fun t p =>
      let n := (f.tags.filter fun x => tagOut x && x.port == p).length
      if n == 0 then t else logOnly t (Die.ofCd cd) 4 0 Code.stuckReq 2 (args4 [p, n]))
      (modFab s cd fun f => { f with stuck := true }))

/-- REMOTE_CACHE_DISABLE (R213): a write of FAB_CTRL that clears RC_EN and keeps the rest. -/
def execRemoteCacheDisable (path : Path) (cd : Nat) (s : State) : Res :=
  onUnit (cdOk s cd) (answerWrite path (fabReg cd 0) (fabCtrlReg s cd path (rget s (fabReg cd 0) &&& ~~~2)))

/-- SCRUB_READ (R222): between an EQUINOX token and the next T_D, in a die that runs. -/
def execScrubRead (cd : Nat) (s : State) : Res :=
  onUnit (cdOk s cd) (
    if rb s (fabReg cd 0x100) 0 && !s.seqr.killed && takesLaunches s (Die.ofCd cd) && scrubSegs s cd != [] then scrubEpoch s cd else s)

/-- WEIGHT_CHUNK_REWRITE (R223): in the guard interval, after the last DRAINED and before the commit fence, the chunks of a
failed segment whose hashes check are written over VC5. [DESIGN CHOICE: log 54] -/
def execWeightChunkRewrite (cd : Nat) (seg : Nat) (chunks : List (List Byte × Bool)) (s : State) : Res :=
  onUnit (cdOk s cd && decide (seg < 64)) (
    let f := s.fab cd
    if !s.seqr.merging || !(f.scrubFail && f.scrubFailSeg == seg) || chunks.any (fun c => !c.2) then s else
    let g := segment s cd seg
    let s1 := (chunks.zipIdx).foldl (fun t c => sendMaint t (Die.ofCd cd) 1093 (g.base + 65536 * c.2) (c.1.1.take 65536)) s
    modFab s1 cd fun f => { f with scrubRecheck := true })

end Sys2Proof.Machine
end

