-- ==== Sys2Proof/Machine/Hk.lean ====
section
/-! DEFINITION. The housekeeping converters (chapter 18). -/
namespace Sys2Proof.Machine

/-! ### Converters and settings -/

/-- A converter's state, changed. -/
def hkConv (s : State) (k : Bank) : HkConv := match k with | .a => s.hk.a | .b => s.hk.b
def modConv (s : State) (k : Bank) (f : HkConv → HkConv) : State :=
  modHk s fun h => match k with | .a => { h with a := f h.a } | .b => { h with b := f h.b }

/-- The SVC unit of a converter (Table 20.3). -/
def hkUnit (k : Bank) : Nat := 1 + k.idx

/-- Fields of HK_CTRL. -/
def hkMode (s : State) : Nat := rf s 0x00090000 1 0
def hkEn (s : State) (k : Bank) : Bool := rb s 0x00090000 (2 + k.idx)
def hkPaced (s : State) (k : Bank) : Bool := rb s 0x00090000 (4 + k.idx)
def hkContSet (s : State) (k : Bank) : Nat := match k with | .a => rf s 0x00090000 10 8 | .b => rf s 0x00090000 14 12

/-- In INTERLEAVED the pair runs by A_RUN (R558). -/
def hkRunsPaced (s : State) (k : Bank) : Bool := if hkMode s == 1 then hkPaced s .a else hkPaced s k

/-- May the converters be on: not in WINTER, DORMANT or thermal stop (Table 18.4)? -/
def hkPowered (s : State) : Bool :=
  s.power.season != .winter && s.power.season != .dormant && s.power.season != .thermalStop && !s.power.halted

/-- Is a channel fitted: 3 and 5 are not in the BX7710 (R565)? -/
def hkChannel (s : State) (ch : Nat) : Bool := decide (ch < 24) && !(s.part == .bx7710 && (ch == 3 || ch == 5))

/-- The scan-set register of a converter. -/
def hkSetWord (s : State) (k : Bank) (set : Nat) : Word := rget s (0x00090040 + 0x20 * k.idx + 4 * (set % 8))

/-- The channels of a set in ascending order, and its passes (R551). -/
def hkSetChans (s : State) (k : Bank) (set : Nat) : List Nat := (List.range 24).filter (wbit (hkSetWord s k set))
def hkSetPasses (s : State) (k : Bank) (set : Nat) : Nat := wbits (hkSetWord s k set) 27 24 + 1

/-- Slices in use. -/
def slicesIn (c : HkConv) : Nat := 4 - bitsOf c.sliceOut.toNat
where bitsOf (v : Nat) : Nat := ((List.range 4).filter (nbit v)).length

/-- The slice after one, among those in use. -/
def nextSlice (c : HkConv) (i : Nat) : Nat :=
  (((List.range 4).map fun n => (i + 1 + n) % 4).find? fun j => !nbit c.sliceOut.toNat j).getD ((i + 1) % 4)

/-! ### Faults and states (R560, R567) -/

/-- The plausibility fault of CROSS-CHECK, with both codes (R559). -/
def hkPlausibility (s : State) : State :=
  if s.hk.xcFault then s
  else raise (modHk s fun h => { h with xcFault := true }) 1 0 Code.adcPlausibility 2 (args4 [s.hk.xcA, s.hk.xcB])

/-- A converter goes to FAULT: no conversions; in CROSS-CHECK the pairs end with the plausibility fault. [DESIGN CHOICE: log 99] -/
def hkFault (s : State) (k : Bank) (cause : Nat) : State :=
  let s1 := modConv s k fun c => { c with state := .fault, fault := cause, chans := [], passes := 0, burst := 0 }
  let s2 := raise (unitDone s1 .svc (hkUnit k)) (hkUnit k) 0 Code.adcFault 2
  if hkMode s == 2 then hkPlausibility s2 else s2

/-- The state a converter that is ready takes: CONTINUOUS by RUN, else STARTING for a scan or an urgent request
that waits, else IDLE (Table 18.4). -/
def hkReady (s : State) (k : Bank) : HkState :=
  let c := hkConv s k
  if !hkRunsPaced s k then .continuous
  else if c.urgent.isSome || c.chans != [] || c.burst != 0 then .starting
  else .idle

/-- A converter goes to the state it is ready for; a start begins at slice 0. -/
def hkSettle (s : State) (k : Bank) : State :=
  let st := hkReady s k
  modConv s k fun c => { c with state := st, slice := if st == .starting then 0 else c.slice }

/-- HK_CALIBRATE (R548, Table 18.4). -/
def execHkCalibrate (conv : Bank) (ok : Bool) (s : State) : Res :=
  .next (if (hkConv s conv).state != .cal then s
    else if ok then hkSettle (modConv s conv fun c => { c with refreshed := s.now, slice := 0, sliceOut := 0, fault := 0 }) conv
    else hkFault s conv 1)

/-- Does a converter convert? -/
def hkConverting (c : HkConv) : Bool := c.state == .continuous || c.state == .starting || c.state == .scanning

/-- HK_REFRESH (R548, Table 18.9): a slice that drifts is excluded, and a second one gives FAULT. -/
def execHkRefresh (conv : Bank) (drifted : Option Nat) (s : State) : Res :=
  .next (
    let c := hkConv s conv
    if !hkConverting c then s else
    let s1 := modConv s conv fun c => { c with refreshed := s.now }
    match drifted with
    | none => s1
    | some k =>
      if 4 ≤ k || nbit c.sliceOut.toNat k then s1 else
      let s2 := raise (modConv s1 conv fun c => { c with sliceOut := c.sliceOut ||| BitVec.ofNat 4 (2 ^ k) }) (hkUnit conv) 0 Code.adcSlice 2
      if c.sliceOut == 0 then s2 else hkFault s2 conv 3)

/-- A converter off, its scan and burst dropped (Table 18.4); results and queue stay. -/
def hkOff (s : State) (k : Bank) : State :=
  unitDone (modConv s k fun c => { c with state := .off, fault := 0, chans := [], passes := 0, burst := 0, sliceOut := 0 }) .svc (hkUnit k)

/-- A converter on from OFF: CAL (Table 18.4). -/
def hkOn (s : State) (k : Bank) : State :=
  if (hkConv s k).state == .off && hkPowered s then modConv s k fun c => { c with state := .cal } else s

/-- The converters as HK_CTRL and the season say. -/
def hkApply (s : State) (k : Bank) : State :=
  if !hkEn s k || !hkPowered s then hkOff s k
  else match (hkConv s k).state with
    | .off => hkOn s k
    | .continuous => if hkRunsPaced s k then modConv s k fun c => { c with state := .idle, chans := [], passes := 0 } else s
    | .idle => if hkRunsPaced s k then s else modConv s k fun c => { c with state := .continuous, chans := [], passes := 0 }
    | _ => s

/-- Both converters. -/
def hkApplyBoth (s : State) : State := hkApply (hkApply s .a) .b

/-- May a path write the block (R563)? -/
def hkPathOk (s : State) : Path → Bool
  | .core | .bcp => true
  | .i2c | .jtag => !inField s

/-- Does a value of HK_CTRL keep the rules of R558, R565 and Table 18.8? -/
def hkCtrlOk (s : State) (v : Word) : Bool :=
  let busy (k : Bank) : Bool := (hkConv s k).state == .starting || (hkConv s k).state == .scanning
  (wbits v 1 0 != 2 || wbits v 5 2 == 3) && hkChannel s (wbits v 28 24) &&
  (wbits v 1 0 == hkMode s || !(busy .a || busy .b))

/-- A write of HK_CTRL whose fields are in range (R561). -/
def hkCtrlWrite (s : State) (v : Word) : WriteRes :=
  if !hkCtrlOk s v then (s, .refused) else (hkApplyBoth (rput s 0x00090000 v), .ok)

/-! ### Conversions (R549, R556, R557) -/

/-- A signed 8-bit trim value. -/
def hkTrimWord (s : State) (k : Bank) (ch : Nat) : Nat :=
  let i := 24 * k.idx + ch
  let ovr := rget s (0x00090400 + 4 * i)
  if wbit ovr 16 then wbits ovr 15 0
  else if s.hk.trimBad then 0
  else bits (mrow s (0x028 + i / 4)).toNat (16 * (i % 4) + 15) (16 * (i % 4))

/-- The corrected code y and CLIP, from a slice-corrected code (R549). -/
def hkCorrect (s : State) (k : Bank) (ch : Nat) (x : Int) : Nat × Bool :=
  let t := hkTrimWord s k ch
  let y := if rb s 0x00090000 6 then ((x - toSigned 8 t) * (4096 + toSigned 8 (t / 256)) + 2048) / 4096 else x
  ((clampInt 0 4095 y).toNat, decide (y < 0) || decide (4095 < y))

/-- Does a code lie outside the limits of its channel (R556)? -/
def hkLimit (s : State) (ch y : Nat) : Bool :=
  let l := rget s (0x00090300 + 4 * ch)
  wbit l 31 && (decide (y < wbits l 11 0) || decide (wbits l 27 16 < y))

/-- Places an entry in the queue (R557). -/
def hkQueuePut (s : State) (k : Bank) (w0 w1 : Word) : State :=
  if 64 ≤ s.hk.queue.length then modHk s fun h => { h with qDrop := satAdd 65535 h.qDrop 1 }
  else
    let s1 := modHk s fun h => { h with queue := h.queue ++ [(w0, w1)] }
    if s1.hk.queue.length == 64 then raise s1 (hkUnit k) 0 Code.adcQOverflow 1 else s1

/-- A new minimum and maximum (HK_MINMAX). -/
def hkMinMax (w : Word) (y : Nat) : Word := toWord (min (wbits w 11 0) y + 2 ^ 16 * max (wbits w 27 16) y)

/-- The reference channels' check: HEALTH ADC_REFERENCE once per 10 s (Table 18.9). -/
def hkReference (s : State) (k : Bank) (ch y : Nat) : State :=
  let bad := (ch == 10 && (decide (y < 3379) || decide (3447 < y))) || (ch == 18 && decide (8 < y))
  let due := match s.hk.refRaised with | none => true | some t => decide (t + secNs 10 ≤ s.now)
  if bad && due then raise (modHk s fun h => { h with refRaised := some s.now }) (hkUnit k) 0 Code.adcReference 2 else s

/-- The effects of one conversion (R556): the corrected code is y. -/
def hkResult (s : State) (k : Bank) (ch : Nat) (y : Nat) (clip urgent pair : Bool) : State :=
  let lim := hkLimit s ch y
  let first := lim && !nbit s.hk.hit.toNat ch
  let s1 := modHk s fun h => { h with
    last := h.last.setIfInBounds ch (toWord (y + 2 ^ 12 * b2n clip + 2 ^ 13 * k.idx + 2 ^ 14 * b2n lim))
    count := vmod h.count ch (· + 1)
    minmax := vmod h.minmax ch (hkMinMax · y)
    hit := if lim then h.hit ||| BitVec.ofNat 24 (2 ^ ch) else h.hit
    urgentRes := if urgent then toWord (y + 2 ^ 12 * b2n clip + 2 ^ 16 * ch + 2 ^ 21 * k.idx + 2 ^ 31) else h.urgentRes }
  let s2 := if first then raise s1 (hkUnit k) 0 Code.adcLimit 1 (args4 [ch, y]) else s1
  let w0 := y + 2 ^ 12 * b2n clip + 2 ^ 13 * b2n urgent + 2 ^ 14 * b2n pair + 2 ^ 15 * b2n lim + 2 ^ 16 * ch + 2 ^ 21 * k.idx + 2 ^ 31
  let s3 := if urgent || wbit (rget s 0x00090010) ch then hkQueuePut s2 k (toWord w0) (toWord s.tb.ltime.toNat) else s2
  hkReference s3 k ch y

/-- One conversion of a channel from its slice-corrected code. [DESIGN CHOICE: log 99] -/
def hkSample (s : State) (k : Bank) (ch : Nat) (x : Int) (urgent pair : Bool) : State :=
  let r := hkCorrect s k ch x
  hkResult s k ch r.1 r.2 urgent pair

/-- After a conversion of a paced converter: the next pass, or the end of the scan (R553). -/
def hkAfter (s : State) (k : Bank) : State :=
  let c := hkConv s k
  if c.state == .continuous then s
  else if c.chans != [] then s
  else if c.passes != 0 then modConv s k fun c => { c with chans := hkSetChans s k c.set, passes := c.passes - 1 }
  else if c.urgent.isSome then s
  else modConv (unitDone s .svc (hkUnit k)) k fun c => { c with state := .idle }

/-- The next conversion of a converter that scans: an urgent request on slice 0 first, else the next channel of the
pass (R552, R553, R555). -/
def hkScanStep (s : State) (k : Bank) (x : Int) : State :=
  let s := if (hkConv s k).state == .starting then modConv s k fun c => { c with state := .scanning } else s
  let c := hkConv s k
  let next (t : State) : State := modConv t k fun c => { c with slice := nextSlice c c.slice }
  let zero := c.slice == 0 || nbit c.sliceOut.toNat 0
  match c.urgent with
  | some ch =>
    if zero then hkAfter (hkSample (next (modConv s k fun c => { c with urgent := none })) k ch x true false) k
    else hkScan next c s
  | none => hkScan next c s
where
  hkScan (next : State → State) (c : HkConv) (s : State) : State :=
    let chans := if c.chans == [] && c.state == .continuous then hkSetChans s k (hkContSet s k) else c.chans
    match chans with
    | [] => next s
    | ch :: rest => hkAfter (hkSample (next (modConv s k fun c => { c with chans := rest })) k ch x false false) k

/-- The next conversion of the INTERLEAVED pair: channel IL_CH, its results with PAIR; a burst ends with its last
sample (R558). [DESIGN CHOICE: log 99] -/
def hkPairStep (s : State) (k : Bank) (x : Int) : State :=
  let s1 := hkSample s k (rf s 0x00090000 20 16) x false true
  if (hkConv s .a).state == .continuous then s1
  else
    let n := (hkConv s .a).burst - 1
    let st : HkState := if n == 0 then .idle else .scanning
    let s2 := modConv (modConv s1 .a fun c => { c with burst := n, state := st }) .b fun c =>
      { c with state := if c.state == .fault || c.state == .off then c.state else st }
    if n == 0 then unitDone s2 .svc 1 else s2

/-- HK_CONVERSION (R556): one completed conversion of a converter; x is its slice-corrected code. -/
def execHkConversion (conv : Bank) (x : Int) (s : State) : Res :=
  .next (if !hkConverting (hkConv s conv) then s
    else if hkMode s == 1 then hkPairStep s conv x
    else hkScanStep s conv x)

/-! ### Scans and urgent requests -/

/-- The ADC_SCAN action: refused unless the converter is PACED and on, else its set or burst is taken (R553, R558). [DESIGN CHOICE: log 99] -/
def startAdcScan (s : State) (d : Die) (u : Nat) (l : Launched) : State :=
  let k : Bank := if u == 1 then .a else .b
  let c := hkConv s k
  if !hkRunsPaced s k || c.state == .off || c.state == .fault || (hkMode s == 1 && u == 2) then
    unitDone (raise (missEntry s d) (hkUnit k) 0 Code.adcNotPaced 1) d u
  else
    let set := l.arg.toNat % 8
    let s1 :=
      if hkMode s == 1 then modConv s .a fun c => { c with burst := rf s 0x0009000C 6 0 }
      else modConv s k fun c => { c with set := set, chans := hkSetChans s k set, passes := hkSetPasses s k set - 1 }
    if hkMode s != 1 && hkSetChans s k set == [] then unitDone (modConv s1 k fun c => { c with passes := 0 }) d u
    else if c.state == .idle then
      let s2 := modConv s1 k fun c => { c with state := .starting, slice := 0 }
      if hkMode s == 1 then modConv s2 .b fun c => { c with state := if c.state == .idle then .starting else c.state, slice := 0 } else s2
    else s1

/-- ADC_SCAN (R553). -/
def execAdcScan (f : SbFrame) (s : State) : Res := onLaunch s f 0x30 (· == .svc) (fun u => u == 1 || u == 2) startAdcScan

/-- A write of HK_URGENT (R555): acted on only with [31:16] = 0x0A9C; each converter holds one request. [DESIGN CHOICE: log 99] -/
def hkUrgentWrite (s : State) (path : Path) (v : Word) : WriteRes :=
  let ch := wbits v 4 0
  let k : Bank := if wbit v 5 then .b else .a
  if !hkPathOk s path then (s, .path)
  else if !hkChannel s ch then (s, .refused)
  else if wbits v 31 16 != 0x0A9C then (s, .ok)
  else if (hkConv s k).urgent.isSome || hkMode s == 1 then (raise s (hkUnit k) 0 Code.urgentBusy 1, .refused)
  else
    let s1 := modHk (modConv s k fun c => { c with urgent := some ch }) fun h => { h with urgentRes := h.urgentRes &&& 0x7FFFFFFF }
    (if (hkConv s k).state == .idle then modConv s1 k fun c => { c with state := .starting, slice := 0 } else s1, .ok)

/-- HK_URGENT (R555). -/
def execHkUrgent (path : Path) (v : Word) (s : State) : Res := .next (answerWrite path 0x00090014 (hkUrgentWrite s path v))

/-- Takes the oldest queue entry, zeros when the queue is empty (R557). -/
def hkPop (s : State) : (Word × Word) × State :=
  match s.hk.queue with
  | [] => ((0, 0), s)
  | e :: es => (e, modHk s fun h => { h with queue := es })

/-- A LO read of the queue on a path: word 1 goes to the path's shadow (R557). -/
def hkQLo (s : State) (path : Path) : Word × State :=
  let r := hkPop s
  (r.1.1, setHiShadow r.2 path 0x0009001C r.1.2)

/-- HK_Q_READ (R557). -/
def execHkQRead (path : Path) (s : State) : Res :=
  let r := hkQLo s path
  .next (answer r.2 path 0x0009001C .ok r.1)

/-- A write of HK_MM_CLR (R556). -/
def hkMmClrWrite (s : State) (path : Path) (v : Word) : WriteRes :=
  if !hkPathOk s path then (s, .path)
  else (modHk s fun h => { h with minmax := h.minmax.mapFinIdx fun i w _ => if wbit v i then 0x0FFF else w }, .ok)

/-- HK_MM_CLR (R556). -/
def execHkMmClr (path : Path) (v : Word) (s : State) : Res := .next (answerWrite path 0x000903F0 (hkMmClrWrite s path v))

/-! ### CROSS-CHECK pairs and the slot clock -/

/-- XC_PAIR (R558, R559). -/
def execXcPair (a b : Int) (s : State) : Res :=
  .next (
    if hkMode s != 2 || !hkConverting s.hk.a || !hkConverting s.hk.b then s else
    let ch := rf s 0x00090000 28 24
    let ya := hkCorrect s .a ch a
    let yb := hkCorrect s .b ch b
    let bad := decide (rf s 0x00090008 23 16 < ((ya.1 : Int) - yb.1).natAbs)
    let s1 := hkResult (hkResult s .a ch ya.1 ya.2 false true) .b ch yb.1 yb.2 false true
    let s2 := modHk s1 fun h => { h with
      xcA := ya.1, xcB := yb.1, xcPairs := satAdd 65535 h.xcPairs 1
      xcMismatch := if bad then satAdd 65535 h.xcMismatch 1 else h.xcMismatch
      xcRun := if bad then h.xcRun + 1 else 0 }
    if bad && decide (rf s 0x00090008 27 24 ≤ s2.hk.xcRun) then hkPlausibility s2 else s2)

/-- A converter that loses its slot clock restarts through CAL; the third loss within 60 s gives FAULT (Table 18.9). [DESIGN CHOICE: log 99] -/
def hkLoseClock (s : State) (k : Bank) : State :=
  let c := hkConv s k
  if c.state == .off || c.state == .fault then s else
  let ls := (s.now :: c.clkLosses).filter fun t => decide (s.now < t + secNs 60)
  let s1 := modConv s k fun c => { c with clkLosses := ls }
  if 3 ≤ ls.length then hkFault s1 k 2
  else
    let f := fresh s1
    let s2 := modConv (unitDone f.2 .svc (hkUnit k)) k fun c => { c with state := .cal, chans := [], passes := 0, burst := 0 }
    logOnly s2 .svc (hkUnit k) 0 (f.1 % 65536) 2

/-- HK_CLOCK_LOST (R567): both converters take their slot clock from one synthesiser. -/
def execHkClockLost (s : State) : Res := .next (hkLoseClock (hkLoseClock s .a) .b)

/-- The block at a cold or warm reset (R568); TRIM_BAD follows the OTP load. -/
def hkReset (s : State) : State := rclear (modHk s fun h => { trimBad := h.trimBad }) 0x00090000 0x000A0000

end Sys2Proof.Machine
end

