-- ==== Sys2Proof/Machine/FieldOps.lean ====
section
/-! DEFINITION. Field outputs, their pins and protection, and the tamper electrodes (R570–R583, R602–R604). -/
namespace Sys2Proof.Machine

/-! ### Field outputs (R570–R573, R602, R603) -/

/-- One output. -/
def foOut (s : State) (n : Nat) : FoOut := vget s.fo.outs n
def modOut (s : State) (n : Nat) (f : FoOut → FoOut) : State := modFo s fun x => { x with outs := vmod x.outs n f }

/-- Is the field-output domain on: from step 10, and not in WINTER, DORMANT, a halt or thermal stop (R573)? -/
def foOn (s : State) : Bool := s.fo.enabled && hkPowered s

/-- Does FO_PAIR pair an output (R572)? -/
def foPaired (s : State) (n : Nat) : Bool := rb s 0x000A0010 (n / 2)

/-- The other output of a pair. -/
def foMate (n : Nat) : Nat := if n % 2 == 0 then n + 1 else n - 1

/-- An output, with the other of its pair (R572). [DEDUCED: log 100] -/
def foGroup (s : State) (n : Nat) : List Nat := if foPaired s n then [n, foMate n] else [n]

/-- The outputs that a mask names; a mask naming one of a pair is taken as naming both (R572). -/
def foNamed (s : State) (mask : Nat) : List Nat :=
  (List.range 4).filter fun n => nbit mask n || (foPaired s n && nbit mask (foMate n))

/-- The pin of an output: 0 LOW, 1 HIGH, 2 OFF; OFF comes only from a latch or undervoltage (R602, R604). -/
def foLevel (s : State) (n : Nat) : Nat :=
  if (foOut s n).latched || s.fo.uvlo then 2
  else if !foOn s || !rb s (0x000A0000 + 4 * n) 0 then 0
  else b2n (foOut s n).cmd

/-- The pins that a change has moved are driven. [DESIGN CHOICE: log 101] -/
def foDrive (s0 s : State) : State :=
  (List.range 4).foldl (fun t n => if foLevel s0 n == foLevel s n then t else emit t (.fo n (foLevel s n))) s

/-- A change of the commanded state, while the domain is on (R571, R573). -/
def foCommand (s : State) (ns : List Nat) (cmd : Bool) (pulseEnd : Option Nat) : State :=
  if !foOn s then s
  else foDrive s (ns.foldl (fun t n => modOut t n fun o => { o with cmd := cmd, pulseEnd := pulseEnd }) s)

/-- The field outputs follow their domain: with it off every command and scheduled end is gone (R573). -/
def foFollow (s0 s : State) : State :=
  let s1 := if foOn s then s else modFo s fun x => { x with outs := x.outs.map fun o => { o with cmd := false, pulseEnd := none } }
  foDrive s0 s1

/-- A write of FO_OUT: each output to its bit, both of a pair HIGH when either bit is 1; a scheduled end is
cancelled (R571, R572). [DEDUCED: log 100] -/
def foOutNow (s : State) (v : Word) : State :=
  let high := foNamed s (wbits v 3 0)
  foCommand (foCommand s ((List.range 4).filter fun n => !high.contains n) false none) high true none

/-- RETRIES of an output. -/
def foRetries (s : State) (n : Nat) : Nat := rf s (0x000A0000 + 4 * n) 4 1

/-- A latch on one output: OFF, its fault bit set; a recurrence uses a retry, and the last retry sets EXHAUSTED
(R602, R603). [DESIGN CHOICE: log 101] -/
def foLatchOne (s : State) (bit : Nat) (n : Nat) : State :=
  let o := foOut s n
  let used := if o.retrying then o.used + 1 else o.used
  let out := o.retrying && foRetries s n != 0 && decide (foRetries s n ≤ used)
  let s1 := modOut s n fun o => { o with
    latched := true, latchedAt := s.now, used := used, thermal := o.thermal || bit == 4
    faults := o.faults ||| BitVec.ofNat 7 (2 ^ bit + (if out then 64 else 0)) }
  if out then raise s1 3 0 Code.foExhausted 1 else s1

/-- The latch of an event on the outputs named: logged at severity 2, with HEALTH at the first latch of an output
since its bit was last clear (R602). [DEDUCED: log 100] -/
def foLatch (s : State) (bit code : Nat) (ns : List Nat) : State :=
  let first := ns.any fun n => !nbit (foOut s n).faults.toNat bit
  let s1 := modFo s fun x => { x with latches := satAdd 65535 x.latches 1 }
  let s2 := if first then raise s1 3 0 code 2 else logOnly s1 .svc 3 0 code 2
  foDrive s (ns.foldl (fun t n => foLatchOne t bit n) s2)

/-- May a latched output be retried: retries are left, and its stage has cooled (R603)? -/
def foRetryOk (s : State) (n : Nat) : Bool :=
  !(foOut s n).latched || ((foOut s n).used < foRetries s n && !(foOut s n).thermal)

/-- A retry of a latched output with the other of its pair: the present commanded state is driven (R603). [DESIGN CHOICE: log 101] -/
def foRetryNow (s : State) (n : Nat) : State :=
  let g := foGroup s n
  if !(foOut s n).latched || !g.all (foRetryOk s) then s
  else foDrive s (g.foldl (fun t k => modOut t k fun o => if o.latched then { o with latched := false, retrying := true } else o) s)

/-- A write of FO_FAULT: a latched bit that is cleared releases its output and restores its retries (R603). [DEDUCED: log 100] -/
def foFaultWrite (s : State) (v : Word) : State :=
  foDrive s ((List.range 4).foldl (fun t n => modOut t n fun o =>
    let m := wbits v (8 * n + 6) (8 * n)
    let hit := (o.faults.toNat &&& m) % 32 != 0
    let o1 := { o with faults := o.faults &&& ~~~BitVec.ofNat 7 m }
    if hit then { o1 with latched := false, thermal := false, used := 0, retrying := false } else o1) s)

/-- The field outputs at a cold or warm reset (R573, R605); latch events count from the cold reset. -/
def foReset (s : State) (cold : Bool) : State :=
  let keep := if cold then 0 else s.fo.latches
  let s1 := rclear (modFo s fun f => { uvlo := f.uvlo, lockouts := f.lockouts, latches := keep }) 0x000A0000 0x000B0000
  foDrive s s1

/-! ### Tamper electrodes (R575–R583) -/

/-- One electrode. -/
def teOf (s : State) (e : Nat) : Electrode := if e == 0 then s.tamper.te0 else s.tamper.te1
def modTe (s : State) (e : Nat) (f : Electrode → Electrode) : State :=
  modTmp s fun t => if e == 0 then { t with te0 := f t.te0 } else { t with te1 := f t.te1 }

/-- Does an electrode take samples: EN and its own bit, the OTP loaded, and tamper sense powered (R581, R605,
Table 21.8)? -/
def teOn (s : State) (e : Nat) : Bool :=
  rb s 0x000B0000 0 && rb s 0x000B0000 (1 + e) && decide (3 ≤ s.boot.phase) && !s.power.halted && s.power.season != .thermalStop

/-- FB_e, and whether F_e is valid (R576). -/
def teFactory (s : State) (e : Nat) : Nat := bits (mrow s (0x034 + e)).toNat 23 0
def teValid (s : State) (e : Nat) : Bool := !s.hk.trimBad && teFactory s e != 0

/-- F_e, in counts (R576). -/
def teF (s : State) (e : Nat) : Int := teFactory s e + toSigned 32 (rnat s (0x000B0030 + 4 * e))

/-- An electrode begins START; an invalid F_e is reported once (R576, R581). [DESIGN CHOICE: log 102] -/
def teStart (s : State) (e : Nat) : State :=
  let s1 := modTe s e fun _ => { state := .start }
  if teValid s e then s1
  else
    let s2 := modTmp s1 fun t => { t with fbInvalid := true, noFactory := true }
    if s.tamper.noFactory then s2 else raise s2 8 0 Code.tamperNoFactory 1

/-- The electrodes as TMP_CTRL and the power say. -/
def teFollow (s : State) (e : Nat) : State :=
  if !teOn s e then modTe s e fun _ => {}
  else if (teOf s e).state == .off then teStart s e else s
/-- [DESIGN CHOICE: log 102] -/
def tmpFollow (s : State) : State := teFollow (teFollow s 0) 1

/-- Step 9 applies TMP_MODOFF: START runs again (R605). -/
def tmpRestart (s : State) : State :=
  [0, 1].foldl (fun t e => if (teOf t e).state == .off || (teOf t e).state == .fault then t else teStart t e) s

/-- Thresholds, in 1/256 count. -/
def teOccl (s : State) : Int := 256 * (rf s 0x000B000C 15 0 : Int)
def teClear (s : State) : Int := 256 * (rf s 0x000B000C 31 16 : Int)

/-- Whole counts of a value in 1/256 count. -/
def teCounts (x : Int) : Int := x / 256

/-- Whole seconds since an electrode entered its occluded state. [DESIGN CHOICE: log 102] -/
def teSeconds (s : State) (x : Electrode) : Nat :=
  if x.state == .occluded || x.state == .occludedAtStart then (s.now - x.since) / secNs 1 else 0

/-- A TAMPER record (R582): d is D_e in 1/256 count. -/
def tamperRecord (s : State) (event e : Nat) (d : Int) (duration : Nat) : State :=
  raiseRecord (modTmp s fun t => { t with events := t.events + 1 })
    (.tamper event e (teCounts d) (ofSigned 32 (teCounts (teOf s e).base)) duration)

end Sys2Proof.Machine
end

