-- ==== Sys2Proof/Machine/ListenOps.lean ====
section
/-! DEFINITION. The listener: levels, floors, detectors and states (R528–R545). -/
namespace Sys2Proof.Machine

/-- One input. -/
def micOf (s : State) (m : Nat) : Mic := if m == 0 then s.lst.mic0 else s.lst.mic1
def modMic (s : State) (m : Nat) (f : Mic → Mic) : State :=
  modLst s fun l => if m == 0 then { l with mic0 := f l.mic0 } else { l with mic1 := f l.mic1 }

/-- Settings of an input: in use, gain code, bias code, bias on. -/
def micUsed (s : State) (m : Nat) : Bool := rb s 0x00080000 (1 + m)
def micGain (s : State) (m : Nat) : Nat := rf s 0x0008000C (8 * m + 3) (8 * m)
def micBias (s : State) (m : Nat) : Nat := rf s 0x00080008 (8 * m + 3) (8 * m)
def micBiasEn (s : State) (m : Nat) : Bool := rb s 0x00080008 (8 * m + 4)

/-- Is an input SHORT or OPEN? -/
def micFaulty (x : Mic) : Bool := x.status == 1 || x.status == 2

/-! ### Level of a frame (R528) -/

/-- Σ x² of a frame. [DESIGN CHOICE: log 97] -/
def frameSum (xs : List Int) : Nat := (xs.map fun x => x.natAbs * x.natAbs).sum

/-- Is E at least n/16 dBFS, n ≤ 0, before clamping: 160 log10(q) ≥ n − 1/2 with q = Σ x² ÷ (160 × 2^30)? -/
def levelAtLeast (sum : Nat) (n : Nat) : Bool := decide ((160 * 2 ^ 30) ^ 320 ≤ sum ^ 320 * 10 ^ (1 + 2 * n))

/-- The smallest n in lo .. lo + 2^k − 1 for which the level is at least −n. -/
def levelSearch (sum : Nat) : Nat → Nat → Nat
  | 0, lo => lo
  | k + 1, lo => if levelAtLeast sum (lo + 2 ^ k - 1) then levelSearch sum k lo else levelSearch sum k (lo + 2 ^ k)

/-- E of a frame in 1/16 dBFS: rounded half up, clamped to −1600 to 0 (R528). -/
def frameLevel (xs : List Int) : Int := -(min 1600 (levelSearch (frameSum xs) 11 0) : Nat)

/-! ### States (Table 17.3) -/

/-- Does the listener run: EN, no NO_ACOUSTIC, from step 10 on, outside DORMANT, a halt and thermal stop? -/
def lstOn (s : State) : Bool :=
  rb s 0x00080000 0 && !s.lst.policyOff && decide (10 ≤ s.boot.phase) && !s.power.halted &&
  s.power.season != .dormant && s.power.season != .thermalStop

/-- An input as START finds it: its bias fault is kept, everything learned is gone. -/
def micFresh (x : Mic) : Mic :=
  { status := if micFaulty x then x.status else 0, biasOff := x.biasOff, biasGone := x.biasGone, retries := x.retries,
    current := x.current, gain := x.gain, bias := x.bias, biasEn := x.biasEn }

/-- The listener restarts from START. -/
def lstRestart (s : State) : State :=
  modLst s fun l => { l with
    state := .start, mic0 := micFresh l.mic0, mic1 := micFresh l.mic1, frames := 0, matchUntil := 0, matchRefract := 0 }

/-- OFF: the AFE and the listener are off, the biases at 0 V. -/
def lstOff (s : State) : State :=
  modLst s fun l => { l with state := .off, mic0 := {}, mic1 := {}, frames := 0, matchUntil := 0, matchRefract := 0, clkLosses := [] }

/-- The listener as EN, the policy and the season say. [DESIGN CHOICE: log 97] -/
def lstFollow (s : State) : State :=
  if !lstOn s then lstOff s
  else if s.lst.state == .off then
    lstRestart (modLst s fun l => { l with
      mic0 := { gain := micGain s 0, bias := micBias s 0, biasEn := micBiasEn s 0 }
      mic1 := { gain := micGain s 1, bias := micBias s 1, biasEn := micBiasEn s 1 } })
  else s

/-- NO_ACOUSTIC is taken: at the equinox at which POLICY_EFF changes, in WINTER at the next season (Table 17.7). -/
def lstPolicy (s : State) : State := lstFollow (modLst s fun l => { l with policyOff := noAcoustic s })

/-- HEALTH MIC_FAULT with the input and the cause, whose coding the spec leaves open (R544). [DESIGN CHOICE: log 98] -/
def micFault (s : State) (m sev : Nat) : State :=
  let f := fresh s
  raise f.2 7 0 Code.micFault sev (args4 [m, f.1])

/-- Inputs in use. -/
def micsUsed (s : State) : List Nat := [0, 1].filter (micUsed s)

/-- Every input in use SHORT or OPEN: FAULT, severity 2 (Table 17.8). -/
def lstFaultCheck (s : State) (m : Nat) : State :=
  if s.lst.state == .running && micsUsed s != [] && (micsUsed s).all fun k => micFaulty (micOf s k) then
    micFault (modLst s fun l => { l with state := .fault }) m 2
  else s

/-- An input that recovers takes a listener in FAULT back to ARMING (Table 17.3). -/
def lstRecover (s : State) (m : Nat) : State :=
  if s.lst.state == .fault && micUsed s m then
    modLst s fun l => { l with state := .arming, mic0 := micFresh l.mic0, mic1 := micFresh l.mic1 }
  else s

/-- The listener at a cold or warm reset (R545); what the recogniser left is loaded again in step 13. -/
def lstReset (s : State) : State := rclear (modLst s fun l => { policyOff := l.policyOff }) 0x00080000 0x00090000

end Sys2Proof.Machine
end

