-- ==== Sys2Proof/Machine/PowerOps.lean ====
section
/-! DEFINITION. VCORE, the AUTUMN level and its cap, and the change of season (R634, R640–R648). -/
namespace Sys2Proof.Machine

/-- Is the season one with epochs? -/
def summerOrAutumn : Season → Bool
  | .summer | .a1 | .a2 | .a3 => true
  | _ => false

/-- The thermal level with the level held after sensor exclusions (R640, Table 21.14). -/
def thermalLevel (s : State) : Nat := max s.power.tLevel s.power.heldLevel

/-- VCORE_CAP, held to 0.68 V at an AUTUMN level of 1 and up (R647). -/
def capAt (s : State) (level : Nat) : Nat :=
  let c := rf s 0x00030010 9 0
  if level == 0 then c else min c 680

/-- The AUTUMN level; while a cap cannot be sent the part takes the next level as well (R641, Table 21.13). -/
def autumnLevel (s : State) : Nat :=
  let l := max (thermalLevel s) s.power.pLevel
  if l != 0 && s.bus.pmFailed && decide (capAt s l < s.power.vcoreSent) then min 3 (l + 1) else l

/-- CAP of R647: a rise of the level applies at once, a fall at the equinox (R642). [DESIGN CHOICE: log 110] -/
def capNow (s : State) : Nat := capAt s (max s.power.capLevel (max (thermalLevel s) s.power.pLevel))

/-- FLOOR of R647: VCORE_FLOOR and the minimum the image declares for its active bank. -/
def floorNow (s : State) : Nat :=
  let m := match imageOf s with
    | none => 0
    | some m => if s.seqr.bank == 2 then m.minVcoreF else m.minVcoreA
  max (rf s 0x00030014 9 0) m

/-- The window of R647; CAP wins over FLOOR. -/
def clampVcore (s : State) (mv : Nat) : Nat := min (capNow s) (max (floorNow s) mv)

/-- VOUT_COMMAND's ULINEAR16 value of a setting; where the exponent divides no exact value, it is left open. [DESIGN CHOICE: log 109] -/
def voutCode (s : State) (mv : Nat) : Nat × State :=
  let x := mv * 2 ^ Config.voutShift
  if x % 1000 == 0 then (x / 1000, s) else fresh s

/-- Sends a setting to the regulator; with PMBus failed the regulator keeps its last (R634, Table 21.14). -/
def sendVcore (s : State) (mv : Nat) : State :=
  if s.bus.pmFailed || mv == s.power.vcoreSent then s
  else
    let c := voutCode s mv
    emit (modPower c.2 fun p => { p with vcoreSent := mv }) (.pmbus 0x21 c.1)

/-- The setting that a season asks for (Table 21.7). -/
def vcoreWanted (s : State) : Nat :=
  match s.power.season with
  | .winter => rf s 0x00030018 9 0
  | .thermalStop => 500
  | .spring | .dormant => 750
  | _ => s.power.vcoreSet

/-- A cap below VCORE_SET becomes VCORE_SET and is sent at once (R648). -/
def applyCap (s : State) : State :=
  let c := capNow s
  let s1 := if c < s.power.vcoreSet then modPower s fun p => { p with vcoreSet := c } else s
  if s.power.vcoreSent == 0 then s1 else sendVcore s1 (vcoreWanted s1)

/-- Every unit follows its domain in the season (Table 21.8). -/
def followSeason (s0 s : State) : State := lstPolicy (tmpFollow (foFollow s0 (hkApplyBoth s)))

/-- The season changes (R642): counted, HEALTH SEASON_CHANGE raised, domains and VCORE following. [DESIGN CHOICE: log 111] -/
def seasonTo (s : State) (x : Season) : State :=
  if s.power.season == x then s
  else
    let s1 := followSeason s (modPower s fun p => { p with season := x, changes := p.changes + 1 })
    let s2 := if x == .thermalStop then s1 else raise s1 0xE 0 Code.seasonChange 1
    if s.power.vcoreSent == 0 then s2 else sendVcore s2 (vcoreWanted s2)

/-- The wake hold that starts now (R645). [DESIGN CHOICE: log 111] -/
def wakeHoldFrom (s : State) : Option Nat :=
  if s.power.windowOpen then some (s.now + 60 * secNs 1 * rnat s 0x00030068) else none

/-- A wake from the listener, an electrode or a pin: WINTER ends into SPRING; with the window open the wake hold
starts, or starts again (R645). [DESIGN CHOICE: log 111] -/
def winterWake (s : State) : State :=
  if s.power.season == .winter then
    seasonTo (modPower s fun p => { p with wakeHold := wakeHoldFrom s, winterReq := false, next := none }) .spring
  else if s.power.wakeHold.isSome then modPower s fun p => { p with wakeHold := wakeHoldFrom s }
  else s

end Sys2Proof.Machine
end

