-- ==== Sys2Proof/Machine/Listener.lean ====
section
/-! DEFINITION. The commands of the listener (chapter 17). -/
namespace Sys2Proof.Machine

/-! ### One frame of one input (R528–R531, Table 17.8) -/

/-- PGA and bias settings take effect at a frame boundary: F is moved by the gain change, a bias change leaves out 5
frames, and either ends the loud run (R531). -/
def micSettings (s : State) (m : Nat) : State :=
  modMic s m fun x =>
    let dg : Int := (micGain s m : Int) - x.gain
    let x1 := if dg == 0 then x else
      { x with gain := micGain s m, floor := x.floor + 768 * dg, sum := x.sum + 48 * dg * (x.frames : Int), loudRun := 0 }
    if micBias s m == x.bias && micBiasEn s m == x.biasEn then x1
    else { x1 with bias := micBias s m, biasEn := micBiasEn s m, skip := 5, loudRun := 0 }

/-- Clipping: more than half the samples at ±32,767 in 100 consecutive frames sets CLIP, 100 frames below that clear it. -/
def micClip (s : State) (m : Nat) (xs : List Int) : State :=
  let ovr := decide (80 < (xs.filter fun x => decide (32767 ≤ x.natAbs)).length)
  let x := micOf s m
  if ovr then
    let n := x.clipRun + 1
    if x.status == 0 && decide (100 ≤ n) then
      micFault (modLst (modMic s m fun x => { x with status := 3, clipRun := 0, clearRun := 0, loudRun := 0 }) fun l => { l with clips := satAdd 255 l.clips 1 }) m 1
    else modMic s m fun x => { x with clipRun := n, clearRun := 0 }
  else if x.status == 3 then
    if 100 ≤ x.clearRun + 1 then modMic s m fun x => { x with status := 0, clearRun := 0, clipRun := 0 }
    else modMic s m fun x => { x with clearRun := x.clearRun + 1, clipRun := 0 }
  else modMic s m fun x => { x with clipRun := 0 }

/-- THRESH in 1/256 dB, TAU's code, HOLD and REFRACT in frames (R529, R530). -/
def lstThresh (s : State) : Int := 256 * (rf s 0x00080010 5 0 : Int)
def lstTau (s : State) : Nat := rf s 0x00080010 15 8
def lstHold (s : State) : Nat := rf s 0x00080010 19 16
def lstRefract (s : State) : Nat := 100 * rf s 0x00080010 31 24

/-- F moved towards E by 0.01 ÷ TAU, TAU in seconds being half its code, rounded half up (R529). [DESIGN CHOICE: log 97] -/
def floorMove (f e : Int) (tau : Nat) : Int := f + divHalfUp (16 * e - f) (50 * tau)

/-- A frame of an armed detector: quiet or loud. -/
def micDetect (s : State) (m : Nat) (e : Int) : State :=
  modMic s m fun x =>
    if 16 * e < x.floor + lstThresh s then { x with floor := floorMove x.floor e (lstTau s), loudRun := 0 }
    else
      let n := x.loudRun + 1
      { x with
        loudRun := n, loudMax := if x.loudRun == 0 then e else max x.loudMax e
        floor := if 200 < n then floorMove x.floor e (lstTau s) else x.floor }

/-- A frame that gathers the first floor: the 100th sets it to the mean (R529). [DESIGN CHOICE: log 97] -/
def micGather (s : State) (m : Nat) (e : Int) : State :=
  modMic s m fun x =>
    let n := x.frames + 1
    { x with frames := n, sum := x.sum + e, floor := if n == 100 then divHalfUp (16 * (x.sum + e)) 100 else x.floor, loudRun := 0 }

/-- One frame of one input in ARMING or RUNNING. -/
def micFrame (s : State) (m : Nat) (xs : List Int) : State :=
  let s1 := micSettings s m
  let e := frameLevel xs
  let s2 := micClip (modMic s1 m fun x => { x with
    level := e, silent := x.silent && decide (e ≤ -1440), history := (e :: x.history).take 150 }) m xs
  let x := micOf s2 m
  if x.skip != 0 then modMic s2 m fun x => { x with skip := x.skip - 1, loudRun := 0 }
  else if x.status != 0 then modMic s2 m fun x => { x with loudRun := 0 }
  else if x.frames < 100 then micGather s2 m e
  else micDetect s2 m e

/-! ### Firing, matching and waking (R530, R533–R536) -/

/-- Does the detector of an input reach its HOLD-th loud frame? -/
def micHits (s : State) (m : Nat) : Bool := rb s 0x00080000 3 && micUsed s m && (micOf s m).loudRun == lstHold s

/-- An AUDIO_WAKE record, with the wake it may be in WINTER (R535, R536). [DESIGN CHOICE: log 97] -/
def audioWake (s : State) (phrase m : Nat) (level : Int) : State :=
  let s1 := raiseRecord (modLst s fun l => { l with wakes := l.wakes + 1 }) (.audioWake phrase m level (seasonCode s.power.season))
  if rb s 0x00080000 8 && rb s 0x00080000 (10 + phrase) then
    if s.power.season == .winter && !s.lst.wakePending then winterWake (modLst s1 fun l => { l with wakePending := true })
    else winterWake s1
  else s1

/-- The energy detectors at the end of a frame: one record for both, from the louder (R530, Table 17.7). -/
def fireEnergy (s : State) : State :=
  let hits := [0, 1].filter (micHits s)
  let open_ := hits.filter fun m => decide ((micOf s m).refractUntil ≤ s.lst.frames)
  let sup := hits.length - open_.length
  let s1 := modLst s fun l => { l with suppressed := l.suppressed + toWord sup }
  match open_ with
  | [] => s1
  | m :: ms =>
    let best := match ms with
      | [] => m
      | k :: _ => if (micOf s m).loudMax < (micOf s k).loudMax then k else m
    let s2 := open_.foldl (fun t m => modMic t m fun x => { x with refractUntil := s.lst.frames + lstRefract s }) s1
    audioWake s2 0 best (micOf s best).loudMax

/-- MATCH_MIC. -/
def matchMic (s : State) : Nat := rf s 0x00080000 6 6

/-- Does the matcher run in this frame (R534)? -/
def matcherOn (s : State) : Bool :=
  rb s 0x00080000 4 && s.boot.recEnabled && s.lst.matchRunning && micUsed s (matchMic s) &&
  (micOf s (matchMic s)).status == 0 && (!rb s 0x00080000 5 || decide (s.lst.frames ≤ s.lst.matchUntil))

/-- The threshold of a phrase (R533). -/
def phraseThresh (s : State) (p dflt : Nat) : Nat :=
  let v := rf s (0x00080020 + 4 * p) 7 0
  if v == 0 then dflt else v

/-- The lowest phrase that matches, by its ID. -/
def matchOf (s : State) (scores : List Nat) : Option Nat :=
  ((List.range s.lst.phrases.length).find? fun p =>
    match s.lst.phrases[p]?, scores[p]? with
    | some ph, some sc => decide (phraseThresh s p ph.2 ≤ sc)
    | _, _ => false).map fun p => ((s.lst.phrases[p]?.map (·.1)).getD 0)

/-- The phrase matcher at the end of a frame (R533, R534). [DESIGN CHOICE: log 97] -/
def matchFrame (s : State) (scores : List Nat) : State :=
  let m := matchMic s
  let s1 := if (micOf s m).loudRun == 0 then s else modLst s fun l => { l with matchUntil := l.frames + 150 }
  if !matcherOn s1 then s1 else
  match matchOf s1 scores with
  | none => s1
  | some ph =>
    if s.lst.frames < s.lst.matchRefract then modLst s1 fun l => { l with suppressed := l.suppressed + 1 }
    else
      let level := ((micOf s m).history.foldl max (-1600))
      audioWake (modLst s1 fun l => { l with matchRefract := l.frames + lstRefract s }) ph m level

/-- ARMING ends once every input in use that works has its floor (R529). -/
def armDone (s : State) : Bool :=
  let ms := (micsUsed s).filter fun m => !micFaulty (micOf s m)
  ms != [] && ms.all fun m => decide (100 ≤ (micOf s m).frames)

/-- An uncorrectable error in the recogniser region stops the matcher (Table 17.8). -/
def recogError (s : State) : State :=
  if s.lst.matchRunning then micFault (modLst s fun l => { l with matchRunning := false }) (matchMic s) 1 else s

/-- AUDIO_FRAME (R528): one 10 ms frame of both inputs, with the recogniser's scores and the bias currents. -/
def execAudioFrame (x0 x1 : List Int) (scores : List Nat) (bias0 bias1 : Nat) (recogEcc : Bool) (s : State) : Res :=
  .next (
    if s.lst.state == .off then s else
    let s1 := modMic (modMic s 0 fun x => { x with current := min bias0 4095 }) 1 fun x => { x with current := min bias1 4095 }
    let s2 := if recogEcc then recogError s1 else s1
    if s.lst.state == .arming || s.lst.state == .running then
      let s3 := (micsUsed s).foldl (fun t m => micFrame t m (if m == 0 then x0 else x1)) (modLst s2 fun l => { l with frames := l.frames + 1 })
      if s.lst.state == .arming then (if armDone s3 then modLst s3 fun l => { l with state := .running } else s3)
      else matchFrame (fireEnergy s3) scores
    else s2)

/-! ### States -/

/-- LISTENER_START_DONE (R538). -/
def execListenerStartDone (s : State) : Res :=
  .next (if s.lst.state == .start then modLst s fun l => { l with state := .arming } else s)

/-- May a path write the block (R540)? -/
def lstPathOk (s : State) : Path → Bool
  | .core | .bcp => true
  | .i2c | .jtag => !inField s

/-- A write of LST_CTRL: EN starts or stops the listener, SELFTEST in RUNNING starts TEST (R538). -/
def lstCtrlNow (s : State) (v : Word) : State :=
  let s1 := lstFollow (rput s 0x00080000 (v &&& 0x7DFF))
  if wbit v 9 && s1.lst.state == .running then
    modLst s1 fun l => { l with state := .test, mic0 := { l.mic0 with loudRun := 0 }, mic1 := { l.mic1 with loudRun := 0 } }
  else s1

/-- A write of LST_CTRL on a path. -/
def lstCtrlReg (s : State) (path : Path) (v : Word) : WriteRes :=
  if !lstPathOk s path then (s, .path) else (lstCtrlNow s v, .ok)

/-- LISTENER_SELFTEST (R538): LST_CTRL written with SELFTEST = 1. -/
def execListenerSelftest (path : Path) (v : Word) (s : State) : Res :=
  .next (answerWrite path 0x00080000 (lstCtrlReg s path (v ||| 0x200)))

/-- SELFTEST_DONE (R538): the levels of the inputs in use, and ARMING again. -/
def execSelftestDone (level0 level1 : Int) (s : State) : Res :=
  .next (
    if s.lst.state != .test then s else
    modLst s fun l => { l with
      state := .arming, mic0 := micFresh l.mic0, mic1 := micFresh l.mic1
      test0 := if micUsed s 0 then level0 else l.test0, test1 := if micUsed s 1 then level1 else l.test1 })

/-! ### Faults (R544) -/

/-- Is a bias on: enabled, the listener on, and not switched off by a short? -/
def micBiased (s : State) (m : Nat) : Bool := s.lst.state != .off && micBiasEn s m && !(micOf s m).biasOff

/-- MIC_BIAS_SHORT: the bias goes off; with the retries used up it stays off. -/
def execMicBiasShort (mic : Nat) (s : State) : Res :=
  onUnit (mic < 2) (
    if !micBiased s mic then s else
    let gone := decide (rf s 0x00080008 19 16 ≤ (micOf s mic).retries)
    let s1 := modMic s mic fun x => { x with status := 2, biasOff := true, biasGone := gone, loudRun := 0 }
    lstFaultCheck (micFault (modLst s1 fun l => { l with shorts := satAdd 255 l.shorts 1 }) mic 1) mic)

/-- MIC_BIAS_RETRY: the bias comes on again; 5 frames are left out (R531). -/
def execMicBiasRetry (mic : Nat) (s : State) : Res :=
  onUnit (mic < 2) (
    if s.lst.state == .off || !(micOf s mic).biasOff || (micOf s mic).biasGone then s
    else lstRecover (modMic s mic fun x => { x with status := 0, biasOff := false, retries := x.retries + 1, skip := 5, loudRun := 0 }) mic)

/-- MIC_OPEN. -/
def execMicOpen (mic : Nat) (s : State) : Res :=
  onUnit (mic < 2) (
    if !micBiased s mic || (micOf s mic).status == 1 then s else
    let s1 := modMic s mic fun x => { x with status := 1, loudRun := 0 }
    lstFaultCheck (micFault (modLst s1 fun l => { l with opens := satAdd 255 l.opens 1 }) mic 1) mic)

/-- MIC_OPEN_CLEARED. -/
def execMicOpenCleared (mic : Nat) (s : State) : Res :=
  onUnit (mic < 2) (
    if (micOf s mic).status != 1 then s else lstRecover (modMic s mic fun x => { x with status := 0 }) mic)

/-- MIC_SILENT: a report only. -/
def execMicSilent (mic : Nat) (s : State) : Res :=
  onUnit (mic < 2) (
    if s.lst.state == .off || (micOf s mic).silent then s else
    micFault (modLst (modMic s mic fun x => { x with silent := true }) fun l => { l with silences := satAdd 255 l.silences 1 }) mic 1)

/-- MOD_CLOCK_LOST: a restart from START; the third loss in 60 s gives FAULT. [DESIGN CHOICE: log 98] -/
def execModClockLost (s : State) : Res :=
  .next (
    if s.lst.state == .off then s else
    let ls := (s.now :: s.lst.clkLosses).filter fun t => decide (s.now < t + secNs 60)
    let s1 := modLst s fun l => { l with clkLosses := ls }
    let f := fresh s1
    if 3 ≤ ls.length then micFault (modLst f.2 fun l => { l with state := .fault }) f.1 2
    else micFault (lstRestart f.2) f.1 1)

/-- LISTENER_WATCHDOG: the listener island is reset and restarts from START, severity 2. [DESIGN CHOICE: log 98] -/
def execListenerWatchdog (s : State) : Res :=
  .next (
    if s.lst.state == .off then s else
    let f := fresh s
    micFault (lstRestart f.2) f.1 2)

end Sys2Proof.Machine
end

