-- ==== Sys2Proof/Machine/Records.lean ====
section
/-! DEFINITION. The commands of the record builder and of peer exchange (chapter 16). -/
namespace Sys2Proof.Machine

/-! ### RECORD parcels (R498–R501) -/

/-- A malformed or unknown RECORD payload is discarded and logged (R498, R500, R524). -/
def recBad (s : State) : State := raise s 0 0 Code.recBad 1

/-- The LTIME at which the exposure of the epoch's frame began; with no exposure in the epoch the spec states none. [DESIGN CHOICE: log 95] -/
def frameTime (s : State) : DWord × State :=
  if s.eye.exposed then (s.eye.exposedAt, s) else let f := fresh s; (BitVec.ofNat 64 f.1, f.2)

/-- A record of the frame of the epoch (R492). -/
def frameRecord (s : State) (b : RecBody) (tentative : Bool) : Record × State :=
  let f := frameTime s
  ({ ownRecord s b with ltime := f.1, tentative := tentative }, f.2)

/-- The newest TENTATIVE record sent of a track (R501). -/
def tentOf (s : State) (tr : Word) : Option TentEntry := (s.recs.tent.filter fun e => e.track == tr).getLast?

/-- The record a tracker item becomes, if any (R499, R501, R503): none when TENTATIVE_EN drops it or KIND is unknown.
An epoch that no entry of the table names is not stated. -/
def itemRecord (s : State) (b : List Byte) : Option Record × State :=
  let tentOn := rb s 0x00070000 2
  match leAt b 7 1 with
  | 0 =>
    let tent := leAt b 5 1 == 1
    if tent && !tentOn then (none, s)
    else let r := frameRecord s (.track (b.take 7 ++ [0] ++ b.drop 8)) tent; (some r.1, r.2)
  | 1 =>
    if !tentOn then (none, s) else
    let tr := toWord (leAt b 0 4)
    match tentOf s tr with
    | some e => let r := frameRecord s (.retract tr e.epoch e.seq true false) false; (some r.1, r.2)
    | none =>
      let f := fresh s
      let r := frameRecord f.2 (.retract tr (toWord f.1) 0 false false) false
      (some r.1, r.2)
  | _ => (none, recBad s)

/-- What is done with a record that a RECORD parcel gives: admitted, or dropped for the arrival limit (R24, R498). -/
def takeRecord (s : State) (ovr : Bool) (r : Record) : State :=
  if ovr then dropRecords s [r] { arrival := true } else takeRecords s [r]

/-- Tracker items, one or two of 32 bytes (Table 16.5). -/
def takeItems (s : State) (ovr : Bool) : List (List Byte) → State
  | [] => s
  | b :: bs => let r := itemRecord s b
    takeItems (match r.1 with | some x => takeRecord r.2 ovr x | none => r.2) ovr bs

/-- The bytes assembled so far of a TAG and source. -/
def partOf (s : State) (x : Parcel) : List Byte := mget [] s.recs.part (256 * x.tag + x.src)

/-- Keeps the bytes assembled so far. -/
def setPart (s : State) (x : Parcel) (bs : List Byte) : State :=
  modRecs s fun b => { b with part := mset [] b.part (256 * x.tag + x.src) bs }

/-- A whole image-built body with its prefix (R500). -/
def takeBody (s : State) (ovr : Bool) (b : List Byte) : State :=
  let body := b.drop 4
  let ok (n : Nat) : Bool := leAt b 1 1 == 0 && leAt b 2 2 == n && body.length == n
  if leAt b 0 1 == 2 && ok 16 then let r := frameRecord s (.zone body) false; takeRecord r.2 ovr r.1
  else if leAt b 0 1 == 3 && ok 20 then let r := frameRecord s (.product body) false; takeRecord r.2 ovr r.1
  else recBad s

/-- Whole EMBED items of 128 bytes of a byte string, and what is left. -/
def splitItems : Nat → List Byte → List (List Byte) × List Byte
  | 0, b => ([], b)
  | n + 1, b => if b.length < 128 then ([], b) else
    let r := splitItems n (b.drop 128); (b.take 128 :: r.1, r.2)

/-- Items of an epoch already released go at once (R504, R516). -/
def takeEmbeds (s : State) (items : List (List Byte)) : State :=
  let s1 := modRecs s fun b => { b with embeds := b.embeds ++ items }
  if !rb s 0x00070000 3 || s.recs.released == some s.seqr.epoch then sendEmbeds s1 else s1

/-- A RECORD parcel at SVC (R24, R498). -/
def takeRecordParcel (s : State) (x : Parcel) : State :=
  let n := s.recs.arrived + x.payload.length
  let ovr := decide (65536 < n)
  let s1 := modRecs s fun b => { b with arrived := n, arrivalHit := b.arrivalHit || ovr }
  let s2 := if ovr then modRecs s1 fun b => { b with drops := addDrop b.drops s.seqr.epoch 1 0 0 { arrival := true } } else s1
  match x.tag with
  | 0 =>
    if x.payload.length == 32 then takeItems s2 ovr [x.payload]
    else if x.payload.length == 64 then takeItems s2 ovr [x.payload.take 32, x.payload.drop 32]
    else recBad s2
  | 1 =>
    let b := partOf s2 x ++ x.payload
    if x.last then takeBody (setPart s2 x []) ovr b else setPart s2 x b
  | 2 =>
    let b := partOf s2 x ++ x.payload
    let r := splitItems (b.length / 128) b
    let s3 := setPart s2 x (if x.last then [] else r.2)
    let s4 := if ovr then s3 else takeEmbeds s3 r.1
    if x.last && r.2 != [] then recBad s4 else s4
  | _ => recBad s2

/-- RECORD_PARCEL (R498). -/
def execRecordParcel (r : LinkRx) (s : State) : Res :=
  onParcel s r 1 0 fun s x => if x.cls == 4 && r.port.die == .svc then takeRecordParcel s x else s

/-! ### Crops (R406, R508–R510) -/

/-- A crop that is dropped counts as one ROI (R509, R524). -/
def dropCrop (s : State) (c : CropIn) : State :=
  modRecs s fun b => { b with drops := addDrop b.drops c.epoch 4 1 0 {}, dropped := b.dropped + 1, droppedSec := b.droppedSec + 1 }

/-- A crop with too few parcels (R524). -/
def cropShort (s : State) (c : CropIn) : State := raise (dropCrop s c) 0 0 Code.roiShort 1

/-- A REDACTED parcel at SVC: the header opens a crop, the rows extend it, LAST ends it (R406). -/
def takeCropParcel (s : State) (x : Parcel) : State :=
  let i := x.tag - 0xE0
  let here (c : CropIn) : Bool := c.crop == i && !c.complete
  match s.recs.crops.find? here with
  | none =>
    let f := frameTime s
    let c : CropIn := { crop := i, track := toWord (leAt x.payload 16 4), x := leAt x.payload 8 2, y := leAt x.payload 10 2,
                        w := leAt x.payload 12 2, h := leAt x.payload 14 2, bytes := [], parcels := 1, complete := false,
                        epoch := toWord (leAt x.payload 0 4), ltime := f.1 }
    if x.last then cropShort f.2 c else modRecs f.2 fun b => { b with crops := b.crops ++ [c] }
  | some c =>
    let c1 := { c with bytes := c.bytes ++ x.payload, parcels := c.parcels + 1, complete := x.last }
    let whole := c1.parcels == 1 + c.h * ((3 * c.w + 63) / 64) && c1.bytes.length == 3 * c.w * c.h
    if x.last && !whole then cropShort (modRecs s fun b => { b with crops := b.crops.erase c }) c
    else modRecs s fun b => { b with crops := b.crops.map fun y => if y == c then c1 else y }

/-- At T_D a crop whose last parcel has not come is dropped (R524). -/
def cropsAtDeadline (s : State) : State :=
  let short := s.recs.crops.filter fun c => !c.complete
  short.foldl cropShort (modRecs s fun b => { b with crops := b.crops.filter fun c => c.complete })

/-- The ROI records of an encoded crop (R510). -/
def roiRecords (s : State) (c : CropIn) (q : Nat) (jpeg : List Byte) : List Record :=
  let segs := (jpeg.length + 1399) / 1400
  (List.range segs).map fun i =>
    { ownRecord s (.roi c.crop i segs q c.track c.x c.y c.w c.h jpeg.length ((jpeg.drop (1400 * i)).take 1400)) with
      epoch := c.epoch, ltime := c.ltime }

/-- The encoder takes the first complete crop (R508, R509). -/
def encodeCrop (s : State) : State :=
  match s.recs.crops.find? fun c => c.complete with
  | none => s
  | some c =>
    let s1 := modRecs s fun b => { b with crops := b.crops.erase c }
    let q := rf s 0x00070000 14 8
    let top := rnat s 0x00070018
    let j1 := jpegEncode c.w c.h q c.bytes
    if j1.length ≤ top then takeRecords s1 (roiRecords s c q j1)
    else
      let q2 := max 10 (q / 2)
      let j2 := jpegEncode c.w c.h q2 c.bytes
      if j2.length ≤ top then takeRecords s1 (roiRecords s c q2 j2)
      else raise (dropCrop s1 c) 0 0 Code.roiTooBig 1

/-- ROI_ENCODE (R508). -/
def execRoiEncode (s : State) : Res := .next (encodeCrop s)

/-! ### Datagrams and STATUS -/

/-- DATAGRAM_TIMEOUT (R489): 1 ms has passed since the first record was placed. -/
def execDatagramTimeout (s : State) : Res := .next (closeDgram s)

/-- DATAGRAM_SEND (R489): REC_GAP has passed since the last start. -/
def execDatagramSend (s : State) : Res := .next (sendDgram s)

/-- ARGS of HEALTH STATUS (R497). [DESIGN CHOICE: log 95] -/
def statusArgs (s : State) : BitVec 96 :=
  packArgs [(seasonCode s.power.season, 1), (ofSigned 8 (s.power.tmax / 4), 1), (s.power.vcoreSet, 2), (s.seqr.epoch.toNat, 4),
            (sat8 2 s.recs.droppedSec, 2), (s.peers.table.length, 2)]

/-- STATUS_REPORT (R497): the one HEALTH record that is not logged (R616). -/
def execStatusReport (s : State) : Res :=
  .next (if !rb s 0x00070000 4 then s else
    let e : Event := { die := .svc, unit := 0, code := Code.status, sev := 0, args := statusArgs s }
    modRecs (raiseHealth s e s.seqr.epoch) fun b => { b with droppedSec := 0 })

/-! ### Peers -/

/-- ANNOUNCE_SEND (R512, R525). -/
def execAnnounceSend (s : State) : Res :=
  .next (if !peersOn s then s else
    let a := ownAnnounce s
    modPeers (sendPeer s 1 0 (announceBytes a)) fun p => { p with lastAnnounce := some a, startDue := p.startDue - 1 })

/-- PEER_ANNOUNCE (R513). -/
def execPeerAnnounce (p : PeerMsg) (a : Announce) (s : State) : Res := .next (peerGate s p fun s => takeAnnounce s p a)

/-- PEER_EMBED (R517): items of 128 bytes from a compatible table peer are stamped and staged. -/
def execPeerEmbed (p : PeerMsg) (items : List (List Byte)) (s : State) : Res :=
  .next (peerGate s p fun s =>
    if items.any (fun i => i.length != 128) || decide (11 < items.length) then peerDrop s else
    match peerOf s p.mac with
    | none => peerDrop s
    | some e =>
      let s1 := peerRefresh s p
      if !compatible s e || !embAccept s then peerDrop s1
      else items.foldl (fun t i => stageItem t (stampMac i p.mac)) s1)

/-- PEER_BYE (R514). -/
def execPeerBye (p : PeerMsg) (s : State) : Res :=
  .next (peerGate s p fun s => if (peerOf s p.mac).isSome then peerRemove s p.mac else peerDrop s)

/-- PEER_AGE_OUT (R513): AGE_S has passed since the peer was last heard. -/
def execPeerAgeOut (mac : BitVec 48) (s : State) : Res := .next (peerRemove s mac)

/-! ### The builder in the guard interval (R507, R523, R526) -/

/-- The OVERFLOW record of one epoch's drops (Table 16.4). -/
def overflowRecord (s : State) (d : DropCount) : Record :=
  { ownRecord s (.overflow d.byType d.bytes d.budget d.queue d.arrival d.link) with epoch := d.epoch }

/-- SVC raises OVERFLOW for every epoch with drops not yet reported (R507). -/
def raiseOverflow (s : State) : State :=
  s.recs.drops.foldl (fun t d => takeRecords t [overflowRecord s d]) (modRecs s fun b => { b with drops := [] })

/-- The builder's per-epoch values start afresh (R526). -/
def recordsNewEpoch (s : State) : State :=
  modPeers (modRecs s fun b => { b with
    usedPrev := b.used, used := 0, arrived := 0, budgetHit := false, arrivalHit := false, embedsSent := 0, embeds := [], part := [] })
    fun p => { p with stagedEpoch := 0 }

/-- A FORCE drain: records of the epoch still queued gain PARTIAL_EPOCH (R59). -/
def markQueuedPartial (s : State) : State :=
  let f (r : Record) : Record := if r.epoch == s.seqr.epoch then { r with partialEp := true } else r
  modRecs s fun b => { b with queue := b.queue.map f, dgram := b.dgram.map f }

/-- The TENTATIVE records of the epoch that still wait, by track. -/
def tentWaiting (s : State) : List Word :=
  (s.recs.dgram ++ s.recs.queue).filterMap fun r => match r.body with
    | .track b => if r.tentative && r.epoch == s.seqr.epoch then some (toWord (leAt b 0 4)) else none
    | _ => none

/-- A FORCE drain of the tracker's die after TENTATIVE records of the epoch: a RETRACT with BY_SVC for each, with the
SEQ of those already sent (R416, R501). [DESIGN CHOICE: log 95] -/
def retractTentative (s : State) : State :=
  let sent := (s.recs.tent.filter fun e => e.epoch == s.seqr.epoch).map fun e => RecBody.retract e.track e.epoch e.seq true true
  let waiting := (tentWaiting s).map fun tr => RecBody.retract tr s.seqr.epoch 0 false true
  (sent ++ waiting).foldl raiseRecord s

end Sys2Proof.Machine
end

