-- ==== Sys2Proof/Machine/Formats.lean ====
section
/-! DEFINITION. Number formats: codes as exact values, rounding into every format, FP32 arithmetic, the working format and
the alignment of products (chapter 11). -/
namespace Sys2Proof.Machine

/-! ### Exact fractions -/

/-- An exact fraction num ÷ den; den is never 0. -/
structure Frac where
  num : Int
  den : Nat
deriving DecidableEq, Repr

/-- 2^e. -/
def pow2 (e : Int) : Frac := if 0 ≤ e then ⟨2 ^ e.toNat, 1⟩ else ⟨1, 2 ^ (-e).toNat⟩

def Frac.ofInt (x : Int) : Frac := ⟨x, 1⟩
def Frac.mul (a b : Frac) : Frac := ⟨a.num * b.num, a.den * b.den⟩
def Frac.add (a b : Frac) : Frac := ⟨a.num * b.den + b.num * a.den, a.den * b.den⟩
def Frac.sub (a b : Frac) : Frac := ⟨a.num * b.den - b.num * a.den, a.den * b.den⟩

/-- Quotient; by 0 the numerator's denominator stays 1 and the value is 0, which no caller reads. -/
def Frac.div (a b : Frac) : Frac :=
  if b.num == 0 then ⟨0, 1⟩ else ⟨(if b.num < 0 then -1 else 1) * a.num * b.den, a.den * b.num.natAbs⟩

def Frac.lt (a b : Frac) : Bool := decide (a.num * b.den < b.num * a.den)

/-- A quotient of natural numbers rounded to nearest, ties to even. -/
def divRne (a d : Nat) : Nat :=
  let q := a / d
  let r := a % d
  if 2 * r > d || (2 * r == d && q % 2 == 1) then q + 1 else q

/-- An exact fraction rounded to an integer, ties to even. -/
def Frac.rne (a : Frac) : Int := if a.num < 0 then -(divRne a.num.natAbs a.den : Int) else (divRne a.num.natAbs a.den : Int)

/-- floor(log2 (a ÷ d)) of positive numbers. -/
def log2Frac (a d : Nat) : Int :=
  let e : Int := (Nat.log2 a : Int) - Nat.log2 d
  let ge (e : Int) : Bool := if 0 ≤ e then decide (d * 2 ^ e.toNat ≤ a) else decide (d ≤ a * 2 ^ (-e).toNat)
  if ge e then e else e - 1

/-! ### Float formats (Table 11.1) -/

/-- A float format: exponent bits, fraction bits, bias, and whether its top exponent holds values (E4M3). -/
structure FloatFmt where
  eb : Nat
  fb : Nat
  bias : Nat
  topUsed : Bool := false
deriving DecidableEq, Repr

def e4m3 : FloatFmt := ⟨4, 3, 7, true⟩
def e5m2 : FloatFmt := ⟨5, 2, 15, false⟩
def fp16 : FloatFmt := ⟨5, 10, 15, false⟩
def bf16 : FloatFmt := ⟨8, 7, 127, false⟩
def fp32 : FloatFmt := ⟨8, 23, 127, false⟩

/-- What a float code stands for: a finite value ± g × 2^(u − fb), an infinity, or NaN. -/
inductive FVal where
  | fin (neg : Bool) (g : Nat) (u : Int)
  | inf (neg : Bool)
  | nan
deriving DecidableEq, Repr

/-- The value of a float code (R320). -/
def FloatFmt.decode (f : FloatFmt) (code : Nat) : FVal :=
  let frac := code % 2 ^ f.fb
  let e := code / 2 ^ f.fb % 2 ^ f.eb
  let neg := nbit code (f.eb + f.fb)
  let top := 2 ^ f.eb - 1
  if f.topUsed then
    if e == top && frac == 2 ^ f.fb - 1 then .nan
    else if e == 0 then .fin neg frac (1 - (f.bias : Int)) else .fin neg (2 ^ f.fb + frac) ((e : Int) - f.bias)
  else if e == top then (if frac == 0 then .inf neg else .nan)
  else if e == 0 then .fin neg frac (1 - (f.bias : Int)) else .fin neg (2 ^ f.fb + frac) ((e : Int) - f.bias)

/-- A finite value as a fraction; infinities and NaN read as 0. -/
def FVal.frac (f : FloatFmt) : FVal → Frac
  | .fin neg g u => (Frac.ofInt (if neg then -(g : Int) else g)).mul (pow2 (u - f.fb))
  | _ => ⟨0, 1⟩

/-- Is a value finite? -/
def FVal.finite : FVal → Bool
  | .fin .. => true
  | _ => false

/-- The largest finite magnitude code, and the code of infinity of formats that have one. -/
def FloatFmt.maxCode (f : FloatFmt) : Nat := if f.topUsed then 2 ^ (f.eb + f.fb) - 2 else (2 ^ f.eb - 1) * 2 ^ f.fb - 1
def FloatFmt.signBit (f : FloatFmt) : Nat := 2 ^ (f.eb + f.fb)

/-- A magnitude rounded into a format by a rule for q = a ÷ quantum, before the range check. -/
def FloatFmt.magnitude (f : FloatFmt) (round : Nat → Nat → Nat) (a d : Nat) : Nat :=
  if a == 0 then 0 else
    let e := max (log2Frac a d) (1 - (f.bias : Int))
    let x : Int := e - f.fb
    let q := if 0 ≤ x then round a (d * 2 ^ x.toNat) else round (a * 2 ^ (-x).toNat) d
    (e + f.bias - 1).toNat * 2 ^ f.fb + q

/-- A magnitude beyond the largest finite value follows OVF (R334); the Bool says that it did. -/
def FloatFmt.limit (f : FloatFmt) (ovf neg : Bool) (m : Nat) : Nat × Bool :=
  let sgn := if neg then f.signBit else 0
  if m ≤ f.maxCode then (sgn + m, false)
  else (sgn + (if ovf && !f.topUsed then f.maxCode + 1 else f.maxCode), true)

/-- A fraction converted into a format, to nearest, ties to even (R334). -/
def FloatFmt.encode (f : FloatFmt) (ovf : Bool) (x : Frac) : Nat × Bool :=
  f.limit ovf (decide (x.num < 0)) (f.magnitude divRne x.num.natAbs x.den)

/-! ### FP32 arithmetic, rounding to nearest, ties to even -/

def f32 (bits : Nat) : Frac := (fp32.decode bits).frac fp32
def toF32 (x : Frac) : Nat := (fp32.encode true x).1
def f32Mul (a b : Nat) : Nat := toF32 ((f32 a).mul (f32 b))
def f32Div (a b : Nat) : Nat := toF32 ((f32 a).div (f32 b))
def f32Add (a b : Nat) : Nat := toF32 ((f32 a).add (f32 b))
def f32Sub (a b : Nat) : Nat := toF32 ((f32 a).sub (f32 b))
def f32Fma (a b c : Nat) : Nat := toF32 (((f32 a).mul (f32 b)).add (f32 c))

/-- Is an FP32 value positive, finite and normal (R330, R349)? -/
def f32PosNormal (x : Nat) : Bool := decide (0x00800000 ≤ x) && decide (x < 0x7F800000)

/-- Is an FP32 value finite? -/
def f32Finite (x : Nat) : Bool := (fp32.decode x).finite

/-! ### Format codes -/

/-- The stored bits of a format; 0 for the block formats and the reserved code. -/
def fmtBits (f : Nat) : Nat :=
  match f with
  | 0 => 12 | 1 | 2 | 6 | 7 | 0xC => 8 | 3 | 0xB => 4 | 4 | 8 | 9 => 16 | 5 | 0xA => 32 | _ => 0

/-- The float format of a format code. -/
def floatOf (f : Nat) : Option FloatFmt :=
  match f with
  | 6 => some e4m3 | 7 => some e5m2 | 8 => some fp16 | 9 => some bf16 | 0xA => some fp32 | _ => none

/-- The signed or unsigned integer value of a code of an integer format. -/
def intOf (f code : Nat) : Int :=
  match f with
  | 2 => toSigned 8 code | 3 => toSigned 4 code | 4 => toSigned 16 code | 5 => toSigned 32 code | _ => code

/-- Roles of Table 11.1. -/
def fmtInput (f : Nat) : Bool := [1, 2, 3, 4, 6, 7, 8, 9, 0xD, 0xE].contains f
def fmtWeight (f : Nat) : Bool := [2, 3, 6, 7, 8, 9, 0xB, 0xC, 0xD, 0xE].contains f
def fmtOutput (f : Nat) : Bool := [1, 2, 3, 4, 5, 6, 7, 8, 9].contains f
def fmtVector (f : Nat) : Bool := f != 3 && f != 0xF

/-- Is a format one of 4-bit codes (Table 10.2)? -/
def fmt4 (f : Nat) : Bool := f == 3 || f == 0xB || f == 0xD

/-- The range of an integer output format. -/
def intRange (f : Nat) (symmetric : Bool) : Int × Int :=
  match f with
  | 1 => (0, 255)
  | 2 => (if symmetric then -127 else -128, 127)
  | 3 => (if symmetric then -7 else -8, 7)
  | 4 => (-32768, 32767)
  | _ => (-2147483648, 2147483647)

/-! ### Packed layouts (R319) -/

/-- The stored code of element i of a packed tensor read through a byte function, and the scale byte of its block, 127 where
the format has none. -/
def packedCode (rd : Nat → Nat → Nat) (f base i : Nat) : Nat × Nat :=
  match f with
  | 0 => (rd (base + 3 * (i / 2)) 3 / (if i % 2 == 0 then 1 else 4096) % 4096, 127)
  | 3 | 0xB => (rd (base + i / 2) 1 / (if i % 2 == 0 then 1 else 16) % 16, 127)
  | 0xD => let o := base + 17 * (i / 32); (rd (o + i % 32 / 2) 1 / (if i % 2 == 0 then 1 else 16) % 16, rd (o + 16) 1)
  | 0xE => let o := base + 33 * (i / 32); (rd (o + i % 32) 1, rd (o + 32) 1)
  | _ => let n := fmtBits f / 8; (rd (base + n * i) n, 127)

/-- How many bytes n elements take. -/
def packedBytes (f n : Nat) : Nat :=
  match f with
  | 0xD => 17 * ((n + 31) / 32)
  | 0xE => 33 * ((n + 31) / 32)
  | 0 => 3 * ((n + 1) / 2)
  | _ => (n * fmtBits f + 7) / 8

/-! ### The working format (R321–R326) -/

/-- A working value without its base: sign, significand m and exponent e. -/
structure Wv where
  neg : Bool
  m : Nat
  e : Nat
deriving DecidableEq, Repr

/-- An expanded operand: one value a pass, and what was counted. -/
structure Expanded where
  vals : List Wv
  hi : Bool := false
  lo : Bool := false
  nan : Bool := false
deriving DecidableEq, Repr

/-- The window clamps of R322. -/
def clampWv (neg : Bool) (m : Nat) (e : Int) : Expanded :=
  if m == 0 then { vals := [⟨neg, 0, 0⟩] }
  else if 31 < e then { vals := [⟨neg, 255, 31⟩], hi := true }
  else if e < 0 then { vals := [⟨neg, divRne m (2 ^ (-e).toNat), 0⟩], lo := m % 2 ^ (-e).toNat != 0 }
  else { vals := [⟨neg, m, e.toNat⟩] }

/-- Two passes of one operand (R325). -/
def Expanded.both (a b : Expanded) : Expanded := { vals := a.vals ++ b.vals, hi := a.hi || b.hi, lo := a.lo || b.lo }

/-- A NaN or infinite operand expands as zero (R326). -/
def nanWv : Expanded := { vals := [⟨false, 0, 0⟩], nan := true }

/-- A float code whose significand fits 8 bits (R322). -/
def expandFloat (f : FloatFmt) (xb : Int) (code : Nat) : Expanded :=
  match f.decode code with
  | .fin neg g u => clampWv neg (g * 2 ^ (7 - f.fb)) (u - xb)
  | _ => nanWv

/-- An integer value (R323). -/
def expandInt (xb : Int) (v : Int) : Expanded := clampWv (decide (v < 0)) v.natAbs (7 - xb)

/-- A block-scaled element (R324). -/
def expandBlock (xb : Int) (c : Int) (scale : Nat) : Expanded :=
  if scale == 0xFF then nanWv else clampWv (decide (c < 0)) c.natAbs (7 + ((scale : Int) - 127) - xb)

/-- An input operand (R322–R325). -/
def expandInput (f : Nat) (zp : Nat) (xb : Int) (code scale : Nat) : Expanded :=
  match f with
  | 1 => expandInt xb ((code : Int) - zp)
  | 2 => expandInt xb (toSigned 8 code - toSigned 8 zp)
  | 3 => expandInt xb (toSigned 4 code)
  | 4 =>
    let h := toSigned 16 code / 256
    (clampWv (decide (h < 0)) h.natAbs (15 - xb)).both (clampWv false (code % 256) (7 - xb))
  | 8 => (match fp16.decode code with
    | .fin neg g u => (clampWv neg (g / 8) (u - xb)).both (clampWv neg (g % 8) (u - 3 - xb))
    | _ => { nanWv with vals := [⟨false, 0, 0⟩, ⟨false, 0, 0⟩] })
  | 0xD => expandBlock xb (toSigned 4 code) scale
  | 0xE => expandBlock xb (toSigned 8 code) scale
  | _ => (match floatOf f with
    | some g => expandFloat g xb code
    | none => nanWv)

/-- A weight operand; `entry` is the BF16 table entry of a codebook index (R324, R325). -/
def expandWeight (f : Nat) (xb : Int) (code scale entry : Nat) : Expanded :=
  match f with
  | 2 => expandInt xb (toSigned 8 code)
  | 3 => expandInt xb (toSigned 4 code)
  | 8 => (match fp16.decode code with
    | .fin neg g u =>
      let r := divRne g 8
      if r == 256 then clampWv neg 128 (u + 1 - xb) else clampWv neg r (u - xb)
    | _ => nanWv)
  | 0xB | 0xC => expandFloat bf16 xb entry
  | 0xD => expandBlock xb (toSigned 4 code) scale
  | 0xE => expandBlock xb (toSigned 8 code) scale
  | _ => (match floatOf f with
    | some g => expandFloat g xb code
    | none => nanWv)

/-! ### Alignment and accumulation (R327, R328) -/

/-- The largest accumulator magnitude. -/
def accMax : Int := 2 ^ 47 - 1

/-- A product as it enters the accumulator; the Bool says that it counts as a saturation. [DEDUCED: log 70] -/
def product (xb1 xb2 ea : Int) (a b : Wv) : Int × Bool :=
  let p : Int := a.e + b.e + xb1 + xb2 - 14 - ea
  let m := a.m * b.m
  let sg (n : Nat) : Int := if a.neg != b.neg then -(n : Int) else n
  if 31 < p then (if m == 0 then (0, false) else (sg (2 ^ 47 - 1), true))
  else if 0 ≤ p then (sg (m * 2 ^ p.toNat), false)
  else if -16 ≤ p then (sg (m / 2 ^ (-p).toNat), false)
  else (0, false)

/-- An accumulator: its integer, and whether it has saturated. -/
structure Acc48 where
  a : Int
  sat : Bool := false
deriving DecidableEq, Repr

/-- A step's sum into an accumulator, which holds a limit once it has reached it. -/
def Acc48.step (x : Acc48) (sum : Int) : Acc48 :=
  if x.sat then x
  else
    let y := x.a + sum
    if accMax < y then ⟨accMax, true⟩ else if y < -(2 ^ 47) then ⟨-(2 ^ 47), true⟩ else ⟨y, false⟩

/-! ### Rescale (R331–R333) -/

/-- floor(log2 C) and the significand of a positive FP32 factor: C = g × 2^(u − 23). -/
def f32Parts (c : Nat) : Nat × Int := match fp32.decode c with | .fin _ g u => (g, u) | _ => (0, 0)

/-- M and sh of a combined factor, sh = top − floor(log2 C); none when C is not positive and finite. -/
def rescaleOf (top : Int) (c : Nat) : Option (Nat × Int) :=
  let p := f32Parts c
  if !f32Finite c || p.1 == 0 then none
  else
    let l := log2Frac p.1 (2 ^ 23) + p.2
    let sh := top - l
    let x := ((Frac.ofInt p.1).mul (pow2 (p.2 - 23 + sh)))
    some ((x.num / (x.den : Int)).toNat, sh)

/-- y from the accumulator (R333). -/
def rescale (rnd : Bool) (a : Int) (m sh : Nat) : Int :=
  if sh == 0 then a * m
  else if rnd then (Frac.mk (a * m) (2 ^ sh)).rne
  else (a * m + 2 ^ (sh - 1)) / (2 ^ sh : Nat)

/-! ### Stochastic rounding (R336) -/

/-- One shift of the Galois register. [DEDUCED: log 70] -/
def lfsrShift (x : Nat) : Nat := if x % 2 == 1 then (x / 2) ^^^ 0x80200003 else x / 2

/-- A quotient truncated after a random value is added to the dropped bits of the magnitude. [DEDUCED: log 70] -/
def divStoch (random : Nat) (a d : Nat) : Nat :=
  let bits := Nat.log2 d
  let add := if bits ≤ 16 then random % 2 ^ bits else random % 65536 * 2 ^ (bits - 16)
  (a + add) / d

/-! ### Conversions of an exact value (R334, R335) -/

/-- A value converted into an output format with a rounding for magnitudes: its code, and whether it saturated. -/
def convert (f : Nat) (ovf symmetric : Bool) (zp : Int) (round : Nat → Nat → Nat) (x : Frac) : Nat × Bool :=
  match floatOf f with
  | some g => g.limit ovf (decide (x.num < 0)) (g.magnitude round x.num.natAbs x.den)
  | none =>
    let q : Int := round x.num.natAbs x.den
    let y := (if x.num < 0 then -q else q) + zp
    let r := intRange f symmetric
    (ofSigned (fmtBits f) (clampInt r.1 r.2 y), decide (y < r.1) || decide (r.2 < y))

/-- The smallest normal E4M3 value at or above a fraction, within 2^-6 to 448 (R335). -/
def rowScaleUp (x : Frac) : Nat :=
  ((List.range 119).map (· + 8)).find? (fun c => !(((e4m3.decode c).frac e4m3).lt x)) |>.getD 0x7E

/-- A stored row scale as used: the code and whether it was replaced by 2^-6 (R330). -/
def rowScaleUsed (c : Nat) : Nat × Bool := if c < 8 || 0x7F ≤ c then (8, true) else (c, false)

end Sys2Proof.Machine
end

