-- ==== Sys2Proof/Machine/LayerOps.lean ====
section
/-! DEFINITION. A layer job: its parameter block, its operator block and their checks, and the value of one output element
under every operator (chapters 11 and 12). -/
namespace Sys2Proof.Machine

/-! ### The blocks (Tables 11.4, 12.1) -/

/-- The layer parameter block and the operator block of a job, with the bytes they came from: `rd` reads so many bytes of the
cluster's SRAM at an offset, little-endian. -/
structure Layer where
  rd : Nat → Nat → Nat
  at_ : Nat

/-- Byte i of the parameter block, and of the operator block 64 bytes on. -/
def Layer.lb (l : Layer) (i : Nat) : Nat := l.rd (l.at_ + i) 1
def Layer.ob (l : Layer) (i : Nat) : Nat := l.rd (l.at_ + 64 + i) 1
def Layer.lw (l : Layer) (i n : Nat) : Nat := l.rd (l.at_ + i) n
def Layer.ow (l : Layer) (i n : Nat) : Nat := l.rd (l.at_ + 64 + i) n

namespace Layer
variable (l : Layer)

def fmtIn : Nat := l.lb 0 % 16
def fmtW : Nat := l.lb 0 / 16
def fmtOut : Nat := l.lb 1 % 16
def rnd : Bool := nbit (l.lb 1) 4
def ovf : Bool := nbit (l.lb 1) 5
def inScales : Bool := nbit (l.lb 1) 6
def outScales : Bool := nbit (l.lb 1) 7
def xbIn : Int := toSigned 8 (l.lb 2)
def xbW : Int := toSigned 8 (l.lb 3)
def ea : Int := toSigned 8 (l.lb 4)
def bsh : Nat := l.lb 5 % 32
def hasBias : Bool := nbit (l.lb 5) 5
def stochastic : Bool := nbit (l.lb 5) 6
def isWeight : Bool := nbit (l.lb 5) 7
def zpIn : Nat := l.lb 6
/-- ZP_OUT is used by U8 and S8 outputs alone (R333). -/
def zpOut : Int := if l.fmtOut == 1 then l.lb 7 else if l.fmtOut == 2 then toSigned 8 (l.lb 7) else 0
def outX : Int := toSigned 8 (l.lb 8)
def slot : Nat := l.lb 9 % 64
def monitored : Bool := nbit (l.lb 9) 7
def outlN : Nat := l.lb 10 % 16
def cbGroups : Bool := nbit (l.lb 10) 4
def sIn : Nat := l.lw 12 4
def tW : Nat := l.lw 16 4
def sOut : Nat := l.lw 20 4
def outlK : Nat := l.lw 24 4
def rsW : Nat := l.lw 28 4
def rsIn : Nat := l.lw 32 4
def bias : Nat := l.lw 36 4
def cb : Nat := l.lw 40 4
def outlCh (j : Nat) : Nat := bits (l.lw 44 12) (12 * j + 11) (12 * j)
def wide : Nat := l.lw 56 4
def inSlot : Option Nat := if nbit (l.lb 60) 7 then some (l.lb 60 % 64) else none

def op : Nat := l.ob 0
def kh : Nat := l.ob 1
def kw : Nat := l.ob 2
def sx : Nat := l.ob 3 % 16
def sy : Nat := l.ob 3 / 16
def dx : Nat := l.ob 4 % 16
def dy : Nat := l.ob 4 / 16
def padMode : Nat := l.ob 5 % 4
def avgExcl : Bool := nbit (l.ob 5) 2
def isBilinear : Bool := nbit (l.ob 5) 3
def isGlobal : Bool := nbit (l.ob 5) 4
def pt : Nat := l.ob 6
def pb : Nat := l.ob 7
def pl : Nat := l.ob 8
def pr : Nat := l.ob 9
def padValue : Nat := l.ow 10 2
def groups : Nat := l.ow 12 2
def fx : Nat := l.ob 14 % 16
def fy : Nat := l.ob 14 / 16
def cut : Nat := l.ob 15
def cin : Nat := l.ow 16 2
def cout : Nat := l.ow 18 2
def win : Nat := l.ow 20 2
def hin : Nat := l.ow 22 2
def haloRows : Nat := l.ob 24
def haloTag : Nat := l.ob 25
def haloConsume : Bool := nbit (l.ob 26) 0
def haloProduce : Bool := nbit (l.ob 26) 1
def haloSpec : Bool := nbit (l.ob 26) 2
def heldRows : Nat := l.ob 27
def compMode : Nat := l.ob 28

/-- The operators: convolutions, pooling, and those that only move codes. -/
def isConv : Bool := decide (l.op ≤ 2)
def isPool : Bool := l.op == 3 || l.op == 4
def moves : Bool := l.op == 3 || (l.op == 5 && !l.isBilinear) || l.op == 7 || l.op == 8
def weighted : Bool := l.isConv || l.op == 6

/-! ### Output size (R355, R359–R361) -/

/-- The output size of a window operator along an axis; 0 where it would be below 1. -/
def windowOut (n a b d k s : Nat) : Nat := if n + a + b < d * (k - 1) + 1 then 0 else (n + a + b - d * (k - 1) - 1) / (max 1 s) + 1

/-- The output size of a transposed convolution along an axis; 0 where it would be below 1. -/
def transOut (n a b k s o : Nat) : Nat := (n - 1) * s + k + o - a - b

def wOut : Nat :=
  match l.op with
  | 5 => l.win * l.fx
  | 6 => transOut l.win l.pl l.pr l.kw l.sx l.fx
  | 7 => l.win / max 1 l.fx
  | 8 => l.win * l.fx
  | _ => if l.isGlobal then 1 else windowOut l.win l.pl l.pr l.dx l.kw l.sx

def hOut : Nat :=
  match l.op with
  | 5 => l.hin * l.fy
  | 6 => transOut l.hin l.pt l.pb l.kh l.sy l.fy
  | 7 => l.hin / max 1 l.fy
  | 8 => l.hin * l.fy
  | _ => if l.isGlobal then 1 else windowOut l.hin l.pt l.pb l.dy l.kh l.sy

/-! ### Cuts (R362, R363) -/

/-- Width of strips 0 to n−2. -/
def stripW (n : Nat) : Nat := ((l.wOut + n - 1) / n + 7) / 8 * 8

/-- The output columns of a cluster of rank r among n. -/
def columns (n r : Nat) : List Nat :=
  match l.cut with
  | 0 =>
    let lo := r * l.stripW n
    let hi := if r + 1 == n then l.wOut else min l.wOut (lo + l.stripW n)
    (List.range (hi - lo)).map (· + lo)
  | 2 => if r == 0 then List.range l.wOut else []
  | _ => List.range l.wOut

/-- The output channels of a cluster of rank r among n. -/
def channels (n r : Nat) : List Nat :=
  match l.cut with
  | 1 =>
    let per := 64 * (((l.cout + 63) / 64 + n - 1) / n)
    let lo := min l.cout (r * per)
    let hi := if r + 1 == n then l.cout else min l.cout (lo + per)
    (List.range (hi - lo)).map (· + lo)
  | _ => List.range l.cout

/-! ### Checks (R343, R353) -/

/-- May a job use its formats: an accepted input, weight and output for the operator's path? -/
def formatsOk : Bool :=
  fmtOutput l.fmtOut &&
  (if l.weighted then fmtInput l.fmtIn && fmtWeight l.fmtW
   else if l.moves then l.fmtIn == l.fmtOut && fmtVector l.fmtIn || l.fmtIn == 3 && l.fmtOut == 3
   else fmtInput l.fmtIn) &&
  (!l.inScales || (l.fmtIn == 2 || l.fmtIn == 3 || l.fmtIn == 6)) &&
  (!l.outScales || (l.fmtOut == 2 || l.fmtOut == 3 || l.fmtOut == 6 || l.fmtOut == 7))

/-- Are the parameter block's fields in range? -/
def paramsOk : Bool :=
  l.formatsOk && decide (l.bsh ≤ 16) && decide (l.outlN ≤ 8) && decide (l.lb 10 / 32 = 0) && l.lb 11 == 0 && !nbit (l.lb 9) 6 &&
  !nbit (l.lb 60) 6 && l.lb 61 == 0 && l.lb 62 == 0 && l.lb 63 == 0

/-- The first byte of the operator block that a check refuses, for a group of n clusters. -/
def opBad (n : Nat) : Option Nat :=
  let within (x lo hi : Nat) : Bool := decide (lo ≤ x) && decide (x ≤ hi)
  let window := l.isConv || l.isPool
  let plain := !window && l.op != 6
  let checks : List (Nat × Bool) :=
    [ (0, decide (l.op ≤ 8)),
      (1, within l.kh 1 (if l.op == 6 then 8 else 15) && (l.op != 5 || l.kh == 1)),
      (2, within l.kw 1 (if l.op == 6 then 8 else 15) && (l.op != 5 || l.kw == 1)),
      (3, within l.sx 1 8 && within l.sy 1 8 && (l.op != 5 || (l.sx == 1 && l.sy == 1))),
      (4, within l.dx 1 8 && within l.dy 1 8 && (l.isConv || (l.dx == 1 && l.dy == 1))),
      (5, decide (l.ob 5 < 32) && (!l.avgExcl || l.op == 4) && (!l.isBilinear || l.op == 5) && (!l.isGlobal || l.isPool)),
      (6, decide (l.pt ≤ 15) && (!plain || l.pt == 0) && (l.padMode != 2 || decide (l.pt < l.hin))),
      (7, decide (l.pb ≤ 15) && (!plain || l.pb == 0) && (l.padMode != 2 || decide (l.pb < l.hin))),
      (8, decide (l.pl ≤ 15) && (!plain || l.pl == 0) && (l.padMode != 2 || decide (l.pl < l.win))),
      (9, decide (l.pr ≤ 15) && (!plain || l.pr == 0) && (l.padMode != 2 || decide (l.pr < l.win))),
      (12, within l.groups 1 4096 && l.cin % max 1 l.groups == 0 && l.cout % max 1 l.groups == 0 &&
        (l.op == 1 || l.op == 2 || l.groups == 1) && (l.op != 1 || (l.groups == l.cin && l.groups == l.cout)) &&
        (l.op != 2 || decide (2 ≤ l.cin / max 1 l.groups))),
      (14, (l.op != 5 || (within l.fx 1 8 && within l.fy 1 8)) &&
        ((l.op != 7 && l.op != 8) || (l.fx == l.fy && (l.fx == 2 || l.fx == 4 || l.fx == 8))) &&
        (l.op != 6 || (decide (l.fx < l.sx) && decide (l.fy < l.sy)))),
      (15, decide (l.cut ≤ 2) && (!l.isGlobal || l.cut != 0)),
      (16, within l.cin 1 4096),
      (18, within l.cout 1 4096 && ((!l.isPool && l.op != 5) || l.cout == l.cin) && (l.op != 7 || l.cout == l.cin * l.fx * l.fx) &&
        (l.op != 8 || l.cout * l.fx * l.fx == l.cin)),
      (20, within l.win 1 4096 && decide (1 ≤ l.wOut) && (l.op != 7 || l.win % max 1 l.fx == 0) &&
        (l.cut != 0 || n ≤ 1 || decide ((n - 1) * l.stripW n < l.wOut))),
      (22, within l.hin 1 3072 && decide (1 ≤ l.hOut) && (l.op != 7 || l.hin % max 1 l.fy == 0) &&
        (if l.isGlobal then l.hin % 24 == 0 else l.hOut % 24 == 0)),
      (24, decide (l.haloRows ≤ 63)),
      (26, decide (l.ob 26 ≤ 7)),
      (27, decide (l.heldRows ≤ 63)),
      (28, decide (l.compMode ≤ 2)),
      (29, l.ow 29 3 == 0) ]
  (checks.find? fun c => !c.2).map (·.1)

/-- Combinations that no rule defines: row scales of a window wider than one pixel, or of an operator without a rescale. [DEDUCED: log 71] -/
def combosOk : Bool := !l.inScales || (l.isConv && l.kh == 1 && l.kw == 1)

end Layer

/-! ### Reading elements -/

/-- What a read along an axis of a map returns (R354). -/
inductive PadRead where
  | real (i : Nat) | const | zero
deriving DecidableEq, Repr

/-- Index i of an axis of size n under a padding mode. -/
def padIndex (mode n : Nat) (i : Int) : PadRead :=
  if 0 ≤ i && i < (n : Int) then .real i.toNat
  else match mode with
    | 0 => .zero
    | 1 => .const
    | 2 => .real (if i < 0 then (-i).toNat else (2 * (n : Int) - 2 - i).toNat)
    | _ => .real (if i < 0 then 0 else n - 1)

/-- An input code with its block scale; `real` says that it lies in the map, and none that zero padding skips it. -/
structure InCode where
  code : Nat
  scale : Nat
  real : Bool

/-- The stored code of a map element. -/
def mapCode (l : Layer) (j : LayerJob) (y x c : Nat) : Nat × Nat :=
  let px := (y - j.inRow) * l.win + x
  if l.fmtIn == 0xD || l.fmtIn == 0xE then packedCode l.rd l.fmtIn (j.input + px * packedBytes l.fmtIn l.cin) c
  else packedCode l.rd l.fmtIn j.input (px * l.cin + c)

/-- A read at a position that may lie in the padding. -/
def readIn (l : Layer) (j : LayerJob) (mode : Nat) (y x : Int) (c : Nat) : Option InCode :=
  match padIndex mode l.hin y, padIndex mode l.win x with
  | .real y, .real x => let r := mapCode l j y x c; some ⟨r.1, r.2, true⟩
  | .zero, _ | _, .zero => none
  | _, _ => some ⟨l.padValue % 2 ^ (if l.fmtIn == 0xD then 4 else if l.fmtIn == 0xE then 8 else fmtBits l.fmtIn), 127, false⟩

/-- The working values of an input. -/
def Layer.expandIn (l : Layer) (v : InCode) : List Wv := (expandInput l.fmtIn l.zpIn l.xbIn v.code v.scale).vals

/-- The weight of output channel o at tap (jy, jx) for input channel c of its group: code, block scale and table entry. -/
def weightCode (l : Layer) (j : LayerJob) (o jy jx c : Nat) : Nat × Nat × Nat :=
  let cg := l.cin / max 1 l.groups
  let k := l.kh * l.kw * cg
  let i := (jy * l.kw + jx) * cg + c
  let r := if l.fmtW == 0xD || l.fmtW == 0xE then packedCode l.rd l.fmtW (j.weights + o * packedBytes l.fmtW k) i
    else packedCode l.rd l.fmtW j.weights (o * k + i)
  let e := if l.fmtW == 0xB then l.rd (l.cb + 32 * (if l.cbGroups then o / 64 else 0) + 2 * r.1) 2
    else if l.fmtW == 0xC then l.rd (l.cb + 2 * r.1) 2 else 0
  (r.1, r.2, e)

/-- The working value of a weight. -/
def weightWv (l : Layer) (j : LayerJob) (o jy jx c : Nat) : Wv :=
  let w := weightCode l j o jy jx c
  ((expandWeight l.fmtW l.xbW w.1 w.2.1 w.2.2).vals.head?).getD ⟨false, 0, 0⟩

/-! ### Accumulation (R327–R329, R356–R360) -/

/-- Sums in order into an accumulator; each step is a list of products. -/
def addSteps (a : Acc48 × Bool) (steps : List (List (Int × Bool))) : Acc48 × Bool :=
  steps.foldl (fun x ps => (x.1.step (ps.map (·.1)).sum, x.2 || ps.any (·.2))) a

/-- A list in pieces of n. -/
def piecesOf (n : Nat) : Nat → List α → List (List α)
  | 0, _ => []
  | fuel + 1, xs => if xs.isEmpty then [] else xs.take n :: piecesOf n fuel (xs.drop n)

/-- An accumulator at job start (R328). -/
def accStart (l : Layer) (o : Nat) : Acc48 :=
  if l.hasBias then (⟨0, false⟩ : Acc48).step (toSigned 32 (l.rd (l.bias + 4 * o) 4) * (2 ^ l.bsh : Nat)) else ⟨0, false⟩

/-- The lanes of a matrix step's reduction (R356). -/
def Layer.lanes (l : Layer) : Nat := if fmt4 l.fmtIn && fmt4 l.fmtW then 128 else 64

/-- Does the operator run on the vector engine's depth-wise path (R357)? -/
def Layer.depthwise (l : Layer) : Bool := l.op == 1 || (l.op == 2 && decide (l.cin / max 1 l.groups ≤ 16))

/-- The input position of a tap of a window operator. -/
def Layer.tapY (l : Layer) (y jy : Nat) : Int := (y * l.sy : Nat) - (l.pt : Int) + (jy * l.dy : Nat)
def Layer.tapX (l : Layer) (x jx : Nat) : Int := (x * l.sx : Nat) - (l.pl : Int) + (jx * l.dx : Nat)

/-- The taps of a window. -/
def Layer.taps (l : Layer) : List (Nat × Nat) := (List.range l.kh).flatMap fun jy => (List.range l.kw).map fun jx => (jy, jx)

/-- The products of one pass of one tap for one output over a list of input channels of its group. -/
def tapProducts (l : Layer) (j : LayerJob) (y x o : Nat) (t : Nat × Nat) (cs : List Nat) (pass : Nat) : List (Int × Bool) :=
  let g := o / (l.cout / max 1 l.groups)
  let cg := l.cin / max 1 l.groups
  cs.filterMap fun c =>
    (readIn l j l.padMode (l.tapY y t.1) (l.tapX x t.2) (g * cg + c)).bind fun v =>
      ((l.expandIn v)[pass]?).map fun w => product l.xbIn l.xbW l.ea w (weightWv l j o t.1 t.2 c)

/-- The passes an input operand takes (Table 10.2). -/
def Layer.passes (l : Layer) : Nat := if l.fmtIn == 4 || l.fmtIn == 8 then 2 else 1

/-- A convolution at one output element. [DEDUCED: log 71] -/
def convAcc (l : Layer) (j : LayerJob) (y x o : Nat) : Acc48 × Bool :=
  let cs := List.range (l.cin / max 1 l.groups)
  if l.depthwise then
    let ps := (List.range l.passes).flatMap fun p => l.taps.flatMap fun t => tapProducts l j y x o t cs p
    addSteps (accStart l o, false) (piecesOf 16 (ps.length + 1) ps)
  else
    addSteps (accStart l o, false) (l.taps.flatMap fun t =>
      (piecesOf l.lanes (cs.length + 1) cs).flatMap fun blk =>
        (List.range l.passes).map fun p => tapProducts l j y x o t blk p)

/-- A transposed convolution at one output element: the input positions and taps that reach it, in scatter order (R360). -/
def transAcc (l : Layer) (j : LayerJob) (y x o : Nat) : Acc48 × Bool :=
  let reach (n s p k out : Nat) : List (Nat × Nat) := (List.range n).filterMap fun i =>
    if i * s ≤ out + p && out + p - i * s < k then some (i, out + p - i * s) else none
  let ys := reach l.hin l.sy l.pt l.kh y
  let xs := reach l.win l.sx l.pl l.kw x
  let prods := ys.flatMap fun a => xs.flatMap fun b => (List.range l.cin).flatMap fun c =>
    let r := mapCode l j a.1 b.1 c
    (l.expandIn ⟨r.1, r.2, true⟩).map fun v => [product l.xbIn l.xbW l.ea v (weightWv l j o a.2 b.2 c)]
  addSteps (accStart l o, false) prods

/-- A weight of one, for sums on the vector engine. -/
def oneWv : Wv := ⟨false, 1, 7⟩

/-- An input summed with an integer weight. -/
def sumProducts (l : Layer) (v : InCode) (w : Nat) : List (Int × Bool) :=
  (l.expandIn v).map fun x => let p := product l.xbIn 0 l.ea x oneWv; (p.1 * w, p.2)

/-- The window of a pooling operator at one output element. [DEDUCED: log 70] -/
def poolReads (l : Layer) (j : LayerJob) (y x c : Nat) : List InCode :=
  l.taps.filterMap fun t => readIn l j l.padMode (l.tapY y t.1) (l.tapX x t.2) c

/-- An average's sum and its number of positions (R358). [DEDUCED: log 71] -/
def avgAcc (l : Layer) (j : LayerJob) (y x c : Nat) : (Acc48 × Bool) × Nat :=
  let rs := poolReads l j y x c
  (addSteps (accStart l c, false) (rs.map fun v => sumProducts l v 1), if l.avgExcl then (rs.filter (·.real)).length else l.kh * l.kw)

/-- The two samples and integer weights of bilinear enlargement along an axis, weights summing to 2F (R359). -/
def bilinearTaps (f n o : Nat) : List (Nat × Nat) :=
  let q : Int := 2 * (o : Int) + 1 - f
  let i0 := q / (2 * f : Nat)
  let w := (q % (2 * f : Nat)).toNat
  let at_ (i : Int) : Nat := (clampInt 0 ((n : Int) - 1) i).toNat
  [(at_ i0, 2 * f - w), (at_ (i0 + 1), w)]

/-- Bilinear enlargement at one output element. -/
def bilinearAcc (l : Layer) (j : LayerJob) (y x c : Nat) : Acc48 × Bool :=
  let prods := (bilinearTaps l.fy l.hin y).flatMap fun a => (bilinearTaps l.fx l.win x).map fun b =>
    let r := mapCode l j a.1 b.1 c
    sumProducts l ⟨r.1, r.2, true⟩ (a.2 * b.2)
  addSteps (accStart l c, false) [prods.flatten]

/-- The outlier channels' share of an output, as an integer (R329). [DEDUCED: log 71] -/
def outlierSum (l : Layer) (j : LayerJob) (y x o : Nat) : Int :=
  let reads := l.taps.zipIdx.flatMap fun t =>
    match padIndex l.padMode l.hin (l.tapY y t.1.1), padIndex l.padMode l.win (l.tapX x t.1.2) with
    | .real iy, .real ix => (List.range l.outlN).map fun k =>
        (l.rd (j.outlX + 2 * (((iy - j.inRow) * l.win + ix) * l.outlN + k)) 2, l.rd (j.outlW + 2 * ((o * l.kh * l.kw + t.2) * l.outlN + k)) 2)
    | _, _ => []
  let widen (h : Nat) : Nat := toF32 ((fp16.decode h).frac fp16)
  let s := reads.foldl (fun a p => f32Fma (widen p.1) (widen p.2) a) 0
  (f32 (f32Mul s (if f32Finite l.outlK then l.outlK else 0))).rne

/-! ### The combined factor (R331, R332, R358, R359) -/

/-- C of an output channel: q_w × T_w, then × S_in, then ÷ S_out, and for averages and bilinear sums × 1/n. -/
def combined (l : Layer) (sIn sOut o n : Nat) : Nat :=
  let q := if l.rsW == 0 || !l.weighted then toF32 ⟨1, 1⟩ else toF32 ((e4m3.decode (rowScaleUsed (l.rd (l.rsW + o) 1)).1).frac e4m3)
  let c := f32Div (f32Mul (f32Mul q l.tW) sIn) sOut
  if n ≤ 1 then c else f32Mul c (toF32 ⟨1, n⟩)

/-- The row scale of an input pixel: E and F of its E4M3 code as used. [DEDUCED: log 71] -/
def rowScaleAt (l : Layer) (j : LayerJob) (y x : Nat) : Nat :=
  (rowScaleUsed (l.rd (l.rsIn + (y - j.inRow) * l.win + x) 1)).1

/-- M and sh for an output element, and whether sh was clamped (R332); none when the job must end with SCALE_RANGE. -/
def factorAt (l : Layer) (j : LayerJob) (sIn sOut y x o n : Nat) : Option (Nat × Nat × Bool) :=
  let c := combined l sIn sOut o n
  if l.inScales then
    (rescaleOf 26 c).map fun r =>
      let q := rowScaleAt l j (y * l.sy) (x * l.sx)
      let sh : Int := r.2 + 10 - (q / 8 % 16 : Nat)
      (r.1 * (8 + q % 8), (clampInt 0 63 sh).toNat, decide (sh < 0) || decide (63 < sh))
  else
    (rescaleOf 30 c).bind fun r => if 0 ≤ r.2 && r.2 ≤ 63 then some (r.1, r.2.toNat, false) else none

/-! ### One output element -/

/-- An output element: its code, its accumulator and rescale, and what is counted. -/
structure OutElem where
  code : Nat
  acc : Int := 0
  m : Nat := 0
  sh : Nat := 0
  y : Int := 0
  /-- The output saturated, and its accumulator did. -/
  sat : Bool := false
  accSat : Bool := false
  /-- It came through the rescale. -/
  rescaled : Bool := false
deriving Inhabited

/-- The real value of a code for comparison (R358); NaN has none. -/
def realOf (f zp code scale : Nat) : Option Frac :=
  match floatOf f with
  | some g => (match g.decode code with
    | .nan => none
    | .inf neg => some ⟨if neg then -(2 ^ 200) else 2 ^ 200, 1⟩
    | v => some (v.frac g))
  | none =>
    if f == 0xD || f == 0xE then (if scale == 0xFF then none else
      some ((Frac.ofInt (toSigned (if f == 0xD then 4 else 8) code)).mul (pow2 ((scale : Int) - 127))))
    else some (Frac.ofInt (intOf f code - (if f == 1 then (zp : Int) else 0)))

/-- The larger of two codes, a NaN giving way. -/
def maxCodeOf (f zp : Nat) (a b : InCode) : InCode :=
  match realOf f zp a.code a.scale, realOf f zp b.code b.scale with
  | none, _ => b
  | some _, none => a
  | some x, some y => if x.lt y then b else a

/-- The zero code of an input format: the code whose real value is 0 (R354). -/
def zeroCode (f zp : Nat) : Nat := if f == 1 || f == 2 then zp else 0

/-- The code that a moving operator puts at an output element. -/
def movedCode (l : Layer) (j : LayerJob) (y x o : Nat) : Nat :=
  match l.op with
  | 3 => (match poolReads l j y x o with
    | [] => zeroCode l.fmtIn l.zpIn
    | v :: vs => (vs.foldl (maxCodeOf l.fmtIn l.zpIn) v).code)
  | 5 => (mapCode l j (y / l.fy) (x / l.fx) o).1
  | 7 =>
    let c := o % l.cin
    let d := o / l.cin
    (mapCode l j (l.fy * y + d / l.fx) (l.fx * x + d % l.fx) c).1
  | _ => (mapCode l j (y / l.fy) (x / l.fx) ((y % l.fy * l.fx + x % l.fx) * l.cout + o)).1

/-- The accumulator of an output element and the divisor of its average or bilinear sum. -/
def elemAcc (l : Layer) (j : LayerJob) (y x o : Nat) : (Acc48 × Bool) × Nat :=
  match l.op with
  | 4 => avgAcc l j y x o
  | 5 => (bilinearAcc l j y x o, 4 * l.fx * l.fy)
  | 6 => (transAcc l j y x o, 1)
  | _ => (convAcc l j y x o, 1)

/-- An accumulator rescaled into the output format (R333). -/
def rescaled (l : Layer) (a : Acc48 × Bool) (m sh : Nat) (clamped : Bool) : OutElem :=
  let y := rescale l.rnd a.1.a m sh
  let r := match floatOf l.fmtOut with
    | some _ => convert l.fmtOut l.ovf false 0 divRne ((Frac.ofInt y).mul (pow2 l.outX))
    | none => convert l.fmtOut l.ovf l.isWeight l.zpOut divRne (Frac.ofInt y)
  { code := r.1, acc := a.1.a, m := m, sh := sh, y := y, sat := r.2 || clamped, accSat := a.1.sat || a.2, rescaled := true }

/-- An output element; none when the job must end with SCALE_RANGE. -/
def outElem (l : Layer) (j : LayerJob) (sIn sOut y x o : Nat) : Option OutElem :=
  if l.moves then some { code := movedCode l j y x o }
  else
    let a := elemAcc l j y x o
    let b : Acc48 × Bool := if l.isConv && l.outlN != 0 then (a.1.1.step (outlierSum l j y x o), a.1.2) else a.1
    (factorAt l j sIn sOut y x o a.2).map fun f => rescaled l b f.1 f.2.1 f.2.2

/-! ### Rows of on-the-fly scales (R335) -/

/-- The FP32 value of an output element that a row is held in. -/
def heldValue (sOut : Nat) (e : OutElem) : Nat := toF32 ((Frac.mk (e.acc * e.m) (2 ^ e.sh)).mul (f32 sOut))

/-- QMAX of a row-scaled format. -/
def qMax (f : Nat) : Nat := match f with | 3 => 7 | 2 => 127 | 6 => 448 | _ => 57344

/-- The row scale of a pixel's values (R335). -/
def onTheFlyScale (l : Layer) (sOut : Nat) (vals : List Nat) : Nat :=
  let top := vals.foldl (fun a v => let x := (f32 v); let y : Frac := ⟨x.num.natAbs, x.den⟩; if a.lt y then y else a) ⟨0, 1⟩
  if top.num == 0 then 0x38 else rowScaleUp (top.div ((Frac.ofInt (qMax l.fmtOut)).mul (f32 sOut)))

/-- An element converted under a row scale, with the job's rounding. -/
def scaledCode (l : Layer) (sOut q v : Nat) (round : Nat → Nat → Nat) : Nat × Bool :=
  let d := f32Mul (toF32 ((e4m3.decode q).frac e4m3)) sOut
  convert l.fmtOut l.ovf l.isWeight 0 round (f32 (f32Div v d))

end Sys2Proof.Machine
end

