-- ==== Sys2Proof/Machine/HaloOps.lean ====
section
/-! DEFINITION. Placements, band streams and their compression, and halos with their commit and revoke (chapters 10, 12). -/
namespace Sys2Proof.Machine

/-! ### The placement in force (R297) -/

/-- The descriptors of a bank of the running image: banks A and B run placement A. -/
def placementOf (s : State) (bank : Nat) : List GroupDesc :=
  match s.img.facts with
  | some f => if bank == 2 then f.image.groupsF else f.image.groupsA
  | none => []

/-- The active placement of a compute die. -/
def placement (s : State) (cd : Nat) : List GroupDesc := placementOf s (s.cdie cd).bank

/-- A descriptor of a compute die by its index. -/
def groupOf (s : State) (cd i : Nat) : Option GroupDesc := (placement s cd).find? fun g => g.index == i

/-- Does a descriptor name a compute die? -/
def groupOn (g : GroupDesc) (cd : Nat) : Bool := g.dieByte % 16 == (Die.ofCd cd).code

/-- The clusters a descriptor names. -/
def groupNamed (g : GroupDesc) : List Nat := (List.range 4).filter (nbit g.clusters)

/-! ### Fixed-rate compression (R375–R378) -/

/-- The coder's shift: the smallest s with R >> s ≤ 2^N − 1. -/
def compShift (n r : Nat) : Nat := ((List.range 9).find? fun s => decide (r / 2 ^ s < 2 ^ n)).getD 8

/-- A block of up to 32 bytes coded with N bits an element: its bytes and its largest error. -/
def compBlock (signed : Bool) (n : Nat) (bs : List Byte) : List Byte × Nat :=
  let xs := bs.map fun b => if signed then b.toNat ^^^ 0x80 else b.toNat
  let mn := xs.foldl min 255
  let sh := compShift n (xs.foldl max 0 - mn)
  let qs := xs.map fun x => (x - mn) / 2 ^ sh
  let h := if sh == 0 then 0 else 2 ^ (sh - 1)
  let errs := (xs.zip qs).map fun p => let y := min 255 (mn + p.2 * 2 ^ sh + h); (p.1 - y) + (y - p.1)
  (leBytes 1 mn ++ leBytes 1 (sh + 16 * n) ++ leBytes (4 * n) ((qs.zipIdx.map fun q => q.1 * 2 ^ (n * q.2)).sum), errs.foldl max 0)

/-- A block decoded: its 32 codes; none when its header is invalid. [DESIGN CHOICE: log 76] -/
def decompBlock (signed : Bool) (bs : List Byte) : Option (List Byte) :=
  let mn := leAt bs 0 1
  let sh := leAt bs 1 1 % 16
  let n := leAt bs 1 1 / 16
  if !((n == 4 && decide (sh ≤ 4)) || (n == 3 && decide (sh ≤ 5))) then none
  else
    let body := leNat (bs.drop 2)
    let h := if sh == 0 then 0 else 2 ^ (sh - 1)
    some ((List.range 32).map fun i =>
      let x := min 255 (mn + body / 2 ^ (n * i) % 2 ^ n * 2 ^ sh + h)
      BitVec.ofNat 8 (if signed then x ^^^ 0x80 else x))

/-- The payload of a compressed parcel decoded for a group program: its codes and how many blocks were invalid. -/
def decompPayload (prog : Nat) (bs : List Byte) : List Byte × Nat :=
  let size := if leAt bs 1 1 / 16 == 4 then 18 else if leAt bs 1 1 / 16 == 3 then 14 else if bs.length % 18 == 0 then 18 else 14
  (piecesOf size (bs.length + 1) bs).foldl (fun a b => match decompBlock (Config.inputSigned prog) b with
    | some xs => (a.1 ++ xs, a.2)
    | none => (a.1 ++ List.replicate 32 (BitVec.ofNat 8 (Config.inputZero prog)), a.2 + 1)) ([], 0)

/-! ### Sending rows (R271, R301, R367, R375) -/

/-- The output port of a die toward another and its agreement. -/
def firstHop (s : State) (cd dst : Nat) : Option Agreement := (routePort s (Die.ofCd cd) dst).map fun p => (s.port p).ag

/-- N of the compression a group's rows travel under; 0 for none. [DESIGN CHOICE: log 76] -/
def compBits (s : State) (cd : Nat) (g : GroupDesc) (mode fmt rowBytes : Nat) : Nat :=
  let ok := nbit g.flags 2 && mode != 0 && rb s (fabReg cd 0x324) 0 && (fmt == 1 || fmt == 2) && rowBytes % 32 == 0 &&
    (match firstHop s cd (g.outDst % 16) with | some a => a.compTx | none => false)
  if !ok then 0 else if mode == 2 && rb s (fabReg cd 0x324) 1 then 3 else 4

/-- A row as parcel payloads, and the coder's largest error and number of blocks. -/
def rowPayloads (n fmt : Nat) (row : List Byte) : List (List Byte) × Nat × Nat :=
  if n == 0 then (piecesOf 64 (row.length + 1) row, 0, 0)
  else
    let blocks := (piecesOf 32 (row.length + 1) row).map (compBlock (fmt == 2) n)
    let per := if n == 4 then 3 else 4
    ((piecesOf per (blocks.length + 1) blocks).map fun bs => bs.flatMap (·.1), (blocks.map (·.2)).foldl max 0, blocks.length)

/-- Sends rows to a die, each row starting a new parcel, LAST on the final one. -/
def sendRows (s : State) (cd : Nat) (base : Parcel) (n fmt : Nat) (rows : List (List Byte)) : State :=
  let ps := rows.map (rowPayloads n fmt)
  let parcels := ps.flatMap (·.1)
  let s1 := modComp s cd fun c => { c with countNow := { c.countNow with
    blocks := c.countNow.blocks + BitVec.ofNat 64 ((ps.map (·.2.2)).sum)
    maxErr := (ps.map (·.2.1)).foldl max c.countNow.maxErr } }
  parcels.zipIdx.foldl (fun t p => sendParcel t (Die.ofCd cd)
    { base with comp := n != 0, last := p.2 + 1 == parcels.length, payload := p.1 }) s1

/-! ### Input buffers (R299) -/

/-- The descriptor that an arriving stream matches. -/
def streamMatch (s : State) (cd src tag : Nat) : Option GroupDesc :=
  (placement s cd).find? fun g => groupOn g cd && (g.inKind == 0 || g.inKind == 1) && g.inTag == tag && g.inSrc % 16 == src

/-- The descriptor whose first layer takes a producer's halo. [DEDUCED: log 75] -/
def haloMatch (s : State) (cd src tag : Nat) : Option GroupDesc :=
  let gs := (placement s cd).filter fun g => groupOn g cd && g.inKind == 1 && g.inSrc % 16 == src
  match gs.find? fun g => g.inTag == tag with
  | some g => some g
  | none => gs.head?

/-- Bytes of a band into the input buffer of every cluster a descriptor names, from byte n of the band on. [DESIGN CHOICE: log 68] -/
def storeInput (s : State) (cd : Nat) (g : GroupDesc) (band n : Nat) (bs : List Byte) (w : Writer) : State :=
  let off := g.inbuf + Config.inputPos g.prog band n g.inbufLen % max 1 g.inbufLen
  (groupNamed g).foldl (fun t k => if off + bs.length ≤ 0xC00000 then sramParcel t cd (sramBase cd k + off) bs w else t) s

/-- The payload of a parcel as codes; invalid blocks are logged and mark the epoch DEGRADED (R378). -/
def inputBytes (s : State) (cd : Nat) (g : GroupDesc) (x : Parcel) : List Byte × State :=
  if !x.comp then (x.payload, s)
  else
    let r := decompPayload g.prog x.payload
    if r.2 == 0 then (r.1, s)
    else
      let s1 := modComp s cd fun c => { c with countNow := { c.countNow with bad := satAdd 65535 c.countNow.bad r.2 } }
      (r.1, markDegraded (logOnly s1 (Die.ofCd cd) 4 0 Code.compBad 2) (Die.ofCd cd))

/-- What has arrived of a band of a descriptor. -/
def inBandOf (c : Compute) (desc band : Nat) : Option InBand := c.inputs.find? fun b => b.desc == desc && b.band == band

/-- An arrival counted for a band. -/
def countInput (c : Compute) (desc band n : Nat) (last : Bool) : Compute :=
  let old := (inBandOf c desc band).getD { desc := desc, band := band, bytes := 0, last := false }
  { c with inputs := (c.inputs.filter fun b => !(b.desc == desc && b.band == band)) ++ [{ old with bytes := old.bytes + n, last := old.last || last }] }

/-! ### Halo versions at the consumer (R370–R372) -/

/-- The halo a version belongs to. -/
def HaloVer.same (h : HaloVer) (src tag band : Nat) : Bool := h.src == src && h.tag == tag && h.band == band

/-- The version of the newest halo of a band, revoked or not. -/
def newestOf (c : Compute) (src tag band : Nat) : Option Nat :=
  ((c.halos.filter fun h => h.same src tag band).map (·.version)).max?

/-- Versions chosen become committed; counted in HALO_COMMITS or, by a VC1 band, in HALO_IMPLICIT. -/
def commitHalos (c : Compute) (p : HaloVer → Bool) (implicit : Bool) : Compute :=
  let due (h : HaloVer) : Bool := p h && !h.committed && !h.revoked && h.last
  let n := (c.halos.filter due).length
  { c with
    halos := c.halos.map fun h => if due h then { h with committed := true } else h
    countNow := if implicit then { c.countNow with implicit := c.countNow.implicit + toWord n }
                else { c.countNow with commits := c.countNow.commits + toWord n } }

/-- Versions chosen are revoked; rows held from them are invalid (R372). -/
def revokeHalos (c : Compute) (p : HaloVer → Bool) (desc : Option Nat) : Compute :=
  let due (h : HaloVer) : Bool := p h && !h.committed && !h.revoked
  let n := (c.halos.filter due).length
  { c with
    halos := c.halos.map fun h => if due h then { h with revoked := true } else h
    heldRows := if n == 0 then c.heldRows else c.heldRows.filter fun e => some e.1 != desc
    countNow := { c.countNow with revokes := c.countNow.revokes + toWord n } }

/-- Rows held for a descriptor are released once its halo is committed. -/
def releaseHeld (c : Compute) (desc : Nat) : Compute := { c with heldRows := c.heldRows.filter fun e => e.1 != desc }

/-- A halo parcel is discarded and counted. [DEDUCED: log 75] -/
def discardHalo (s : State) (cd n : Nat) : State :=
  modComp s cd fun c => { c with countNow := { c.countNow with discard := c.countNow.discard + toWord n } }

/-- A HALO parcel at its consumer. [DEDUCED: log 75] -/
def takeHalo (s : State) (cd : Nat) (x : Parcel) : State :=
  let ver := x.arg % 256
  let band := x.arg / 256
  match haloMatch s cd x.src x.tag with
  | none => logOnly s (Die.ofCd cd) 4 0 Code.streamUnknown 1 (args4 [x.tag, x.src])
  | some g =>
    let c := s.cdie cd
    if c.halos.any fun h => h.tag == x.tag && h.band == band && h.src != x.src then
      logOnly (discardHalo s cd 1) (Die.ofCd cd) 4 0 Code.streamUnknown 1 (args4 [x.tag, x.src])
    else if c.aborted then discardHalo s cd 1
    else
      let old := c.halos.find? fun h => h.same x.src x.tag band && h.version == ver
      let newest := (newestOf c x.src x.tag band).getD 0
      if ver < newest || (match old with | some h => h.revoked || h.last | none => false) then discardHalo s cd 1
      else
        let h0 := old.getD { tag := x.tag, src := x.src, band := band, version := ver, spec := x.spec }
        let r := inputBytes s cd g x
        let s1 := storeInput r.2 cd g band h0.bytes r.1 .halo
        let h1 := { h0 with bytes := h0.bytes + r.1.length, parcels := h0.parcels + 1, last := h0.last || x.last }
        modComp s1 cd fun c =>
          let c1 := revokeHalos c (fun h => h.same x.src x.tag band && decide (h.version < ver)) (some g.index)
          let c2 := { c1 with halos := (c1.halos.filter fun h => !(h.same x.src x.tag band && h.version == ver)) ++ [h1] }
          if h1.last && (h1.commitSeen || !h1.spec) then
            if h1.commitSeen then releaseHeld (commitHalos c2 (fun h => h.same x.src x.tag band && h.version == ver) false) g.index
            else { releaseHeld c2 g.index with halos := c2.halos.map fun h => if h.same x.src x.tag band && h.version == ver then { h with committed := true } else h }
          else c2

/-- A COMMIT token at its consumer (R371). [DEDUCED: log 75] -/
def takeCommit (s : State) (cd src tag ver : Nat) : State :=
  let p (h : HaloVer) : Bool := h.src == src && h.tag == tag && h.version == ver
  modComp s cd fun c =>
    let c1 := { c with halos := if c.halos.any p then c.halos.map fun h => if p h then { h with commitSeen := true } else h
                                else c.halos ++ [{ tag := tag, src := src, band := ver / 8, version := ver, spec := true, commitSeen := true }] }
    let c2 := commitHalos c1 p false
    if c2.halos.any fun h => p h && h.committed then
      match haloMatch s cd src tag with | some g => releaseHeld c2 g.index | none => c2
    else c2

/-- A REVOKE token at its consumer (R372): parcels of the version that arrive later are discarded. -/
def takeRevoke (s : State) (cd src tag ver : Nat) : State :=
  let p (h : HaloVer) : Bool := h.src == src && h.tag == tag && h.version == ver
  modComp s cd fun c =>
    let c1 := { c with halos := if c.halos.any p then c.halos
                                else c.halos ++ [{ tag := tag, src := src, band := ver / 8, version := ver, spec := true }] }
    revokeHalos c1 p ((haloMatch s cd src tag).map (·.index))

/-- The first VC1 parcel of a band commits the newest unrevoked version of its halo, once its LAST has come (R371). [DEDUCED: log 75] -/
def implicitCommit (s : State) (cd src band : Nat) (g : GroupDesc) : State :=
  modComp s cd fun c =>
    let mine (h : HaloVer) : Bool := h.src == src && h.band == band && !h.revoked
    let top := ((c.halos.filter mine).map (·.version)).foldl max 0
    let c1 := commitHalos c (fun h => mine h && h.version == top) true
    if c1.halos.any fun h => mine h && h.version == top && h.committed then releaseHeld c1 g.index else c1

/-- A STREAM parcel at a compute die (R299, R304). -/
def takeStream (s : State) (cd : Nat) (x : Parcel) : State :=
  match streamMatch s cd x.src x.tag with
  | none => logOnly s (Die.ofCd cd) 4 0 Code.streamUnknown 1 (args4 [x.tag, x.src])
  | some g =>
    if (s.cdie cd).aborted then s
    else
      let band := x.arg
      let n := match inBandOf (s.cdie cd) g.index band with | some b => b.bytes | none => 0
      let r := inputBytes s cd g x
      let s1 := storeInput r.2 cd g band n r.1 .stream
      let s2 := modComp s1 cd fun c => countInput c g.index band r.1.length x.last
      if g.inKind == 1 then implicitCommit s2 cd x.src band g else s2

/-- Held rows and speculative halos are discarded: drain step 3, an abort, a die reset (Table 2.7). -/
def dropHalos (s : State) (cd : Nat) : State :=
  let gone := (s.cdie cd).halos.filter fun h => !h.committed && !h.revoked
  modComp (discardHalo s cd ((gone.map (·.parcels)).sum)) cd fun c => { c with halos := c.halos.filter (·.committed), heldRows := [], waiting := false }

/-! ### Halo versions at the producer (R367, R368, R371, R372) -/

/-- May halos cross the first hop: VC4 is agreed there (R193)? -/
def haloAgreed (s : State) (cd dst : Nat) : Bool := match firstHop s cd dst with | some a => nbit a.vcs.toNat 4 | none => false

/-- A token from a compute die to another. -/
def cdToken (s : State) (cd dst typ unit act entry : Nat) : State :=
  match relayPort s (Die.ofCd cd) dst with
  | some p => sendSb s p (tokenWord typ dst (Die.ofCd cd).code unit act entry ((s.die (Die.ofCd cd)).ep % 8))
  | none => s

/-- What the producer has sent of a band's halo. -/
def haloTxOf (c : Compute) (tag band : Nat) : HaloTx :=
  (c.haloTx.find? fun h => h.tag == tag && h.band == band).getD { tag := tag, band := band, sends := 0, version := 0, final := false }

/-- Sends a halo's rows as its next version, unless it has been sent eight times; a version still open is revoked first. -/
def sendHalo (s : State) (cd : Nat) (g : GroupDesc) (tag band n fmt entry : Nat) (spec : Bool) (rows : List (List Byte)) : State :=
  let dst := g.outDst % 16
  let h := haloTxOf (s.cdie cd) tag band
  let s0 := if h.sends != 0 then cdToken s cd dst 4 tag h.version entry else s
  if 8 ≤ h.sends then s0
  else
    let ver := 8 * band + h.sends
    let base : Parcel := { src := 0, dst := dst, vc := 4, cls := 1, kind := 0, tag := tag, spec := spec, arg := ver + 256 * band }
    let s1 := sendRows s0 cd base n fmt rows
    modComp s1 cd fun c => { c with
      haloTx := (c.haloTx.filter fun h => !(h.tag == tag && h.band == band)) ++ [{ tag := tag, band := band, sends := h.sends + 1, version := ver, final := !spec }]
      countNow := { c.countNow with sent := c.countNow.sent + 1 } }

/-- The band is final: COMMIT goes out for a speculative version (R371). -/
def commitTx (s : State) (cd : Nat) (g : GroupDesc) (tag band entry : Nat) : State :=
  let h := haloTxOf (s.cdie cd) tag band
  if h.sends == 0 || h.final then s else cdToken s cd (g.outDst % 16) 3 tag h.version entry

end Sys2Proof.Machine
end

