-- ==== Sys2Proof/Machine/Time.lean ====
section
/-! DEFINITION. The timebase, arming, launches sent, latency and the plain control tokens (chapter 02). -/
namespace Sys2Proof.Machine

/-! ### LTIME (R41–R45) -/

/-- One tick of 8 ns: LTIME advances by 8 ns, the rate correction and the slew, all in 2^-32 ns (R41, R45). [DESIGN CHOICE: log 1] -/
def tickTb (s : State) : TbSt :=
  let t := s.tb
  let top : Int := 8 * 2 ^ 32 * (rnat s 0x00040020 : Int) / 1000000
  let step := clampInt (-top) top t.slew
  let total := (8 * 2 ^ 32 + t.rate + step + (t.frac.toNat : Int)).toNat
  { t with ltime := t.ltime + BitVec.ofNat 64 (total / 2 ^ 32), frac := BitVec.ofNat 32 (total % 2 ^ 32), slew := t.slew - step }

/-- What passes while no command waits: one tick of the timebase clock. [DESIGN CHOICE: log 1] -/
def tick (s : State) : State := { s with tb := tickTb s, now := s.now + 8 }

/-- LTIME moved by a step of so many ns. [DEDUCED: log 17] -/
def stepTime (s : State) (ns : Int) : State := modTb s fun t => { t with ltime := BitVec.ofInt 64 (t.ltime.toNat + ns), slew := 0 }

/-- Removes an offset, LTIME minus master in ns: by a step before arming, by a slew up to TB_STEP_THRESH, else by a
step that waits for the next equinox; a step that waits takes the offset found last (R45, R71). [DEDUCED: log 17] -/
def removeOffset (s : State) (off : Int) : State :=
  if s.tb.stepPending.isSome then modTb s fun t => { t with stepPending := some (-off) }
  else if off.natAbs ≤ rnat s 0x0004001C * 1000 then modTb s fun t => { t with slew := -off * 2 ^ 32 }
  else if s.seqr.armed then modTb s fun t => { t with stepPending := some (-off), slew := 0 }
  else stepTime s (-off)

/-- The mean of the rate corrections made in LOCKED (Table 2.1). -/
def meanRate (t : TbSt) : Int := if t.corrections == [] then t.rate else t.corrections.sum / (t.corrections.length : Int)

/-- HOLDOVER begins (Table 2.1). -/
def enterHoldover (s : State) : State :=
  raise (modTb s fun t => { t with state := .holdover, rate := meanRate t, slew := 0, inBand := 0, outBand := 0 }) 5 0 Code.timeHoldover 1

/-- FREE begins: LTIME runs on with the rate correction cleared (Table 2.1). -/
def enterFree (s : State) : State :=
  modTb s fun t => { t with state := .free, rate := 0, slew := 0, inBand := 0, outBand := 0 }

/-- LOCKED begins; HEALTH TIME_UNLOCKED ends (R72). -/
def enterLocked (s : State) : State :=
  modSeq (modTb s fun t => { t with state := .locked, everLocked := true, inBand := 0, outBand := 0 }) fun q => { q with unlocked := false }

/-- The servo's rate from an offset; in LOCKED it is one of the corrections that HOLDOVER averages. [DESIGN CHOICE: log 16] -/
def servo (s : State) (off : Int) : State :=
  modTb s fun t =>
    let r := Config.servoRate off t.rate
    { t with rate := r, offset := off, corrections := if t.state == .locked then (r :: t.corrections).take 16 else t.corrections }

/-- An accepted Sync (Table 2.1, R45). [DESIGN CHOICE: log 16] -/
def takeSync (s : State) (off : Int) : State :=
  let s1 := removeOffset (servo s off) off
  match s.tb.state with
  | .locked =>
    let n := if 10000 < off.natAbs then s.tb.outBand + 1 else 0
    if 4 ≤ n then modTb s1 fun t => { t with state := .acquire, inBand := 0, outBand := 0 } else modTb s1 fun t => { t with outBand := n }
  | .acquire =>
    let n := if off.natAbs ≤ 250 then s.tb.inBand + 1 else 0
    if 16 ≤ n then enterLocked s1 else modTb s1 fun t => { t with inBand := n }
  | _ => modTb s1 fun t => { t with state := .acquire, inBand := if off.natAbs ≤ 250 then 1 else 0 }

/-- PTP_SYNC_RECEIVE (R44, R452): accepted from the slave port, in the domain, with PTP chosen and enabled and an
interval of 2^-7 s to 2 s. -/
def execPtpSyncReceive (port : Nat) (domain : Nat) (offset : Int) (logInterval : Int) (s : State) : Res :=
  onUnit (decide (port < 2)) (
    if rf s 0x00040000 1 0 == 1 && rb s 0x00050000 5 && domain == rf s 0x00050000 14 8 && s.net.slave == some port &&
       decide (-7 ≤ logInterval) && decide (logInterval ≤ 1)
    then takeSync (modNet s fun n => { n with syncLog0 := logInterval }) offset else s)

/-- SYNC_TIMEOUT (R44): no Sync for 3 Sync intervals. -/
def execSyncTimeout (s : State) : Res :=
  .next (match s.tb.state with
    | .locked => enterHoldover s
    | .acquire => if s.tb.everLocked then enterHoldover s else enterFree s
    | _ => s)

/-- The period in force, in ns. -/
def periodNs (s : State) : Nat := rnat s 0x00040024 * 1000

/-- The offset of LTIME from the whole multiple of the period, plus SYNC_DELAY, that is nearest to it (R64). [DEDUCED: log 18] -/
def syncPhase (s : State) : Int :=
  let x : Int := (s.tb.ltime.toNat : Int) - rf s 0x00040088 15 0
  x - divHalfUp x (periodNs s) * periodNs s

/-- A valid SYNC_IN edge whose error from the expected instant is so many ns (R44, R64, R72). [DEDUCED: log 18] -/
def takeEdge (s : State) (err : Int) : State :=
  match s.tb.state with
  | .syncLocked | .syncLost =>
    if err.natAbs ≤ 50000 then
      removeOffset (servo (modTb s fun t => { t with state := .syncLocked, missing := 0, outside := [] }) err) err
    else
      let es := (err :: s.tb.outside).take 3
      let s1 := modTb s fun t => { t with edgesIgnored := t.edgesIgnored + 1, outside := es }
      let near := es.all fun e => decide ((e - err).natAbs * 1000 ≤ periodNs s)
      if es.length == 3 && near then modTb s1 fun t => { t with stepPending := some (-err), outside := [] } else s1
  | _ =>
    let s1 := modTb s fun t => { t with state := .syncLocked, missing := 0, outside := [] }
    if s.seqr.armed then removeOffset s1 (syncPhase s) else stepTime s1 (-syncPhase s)

/-- SYNC_IN_EDGE (R64): valid once the input stays high for 2 µs. -/
def execSyncInEdge (highNs : Nat) (err : Int) (s : State) : Res :=
  .next (if rf s 0x00040000 1 0 == 2 && decide (2000 ≤ highNs) then takeEdge s err else s)

/-- SYNC_IN_MISSING (R44): three consecutive expected edges are missing. -/
def execSyncInMissing (s : State) : Res :=
  .next (if s.tb.state == .syncLocked then raise (modTb s fun t => { t with state := .syncLost, missing := 3, slew := 0 }) 5 0 Code.syncLost 1 else s)

/-- SYNC_OUT_PULSE (R64). -/
def execSyncOutPulse (s : State) : Res := .next (if rb s 0x00040000 2 && s.seqr.ran then emit s .syncOut else s)

/-! ### Arming (R73) -/

/-- ACQ_TIMEOUT_EXPIRE (R73). -/
def execAcqTimeoutExpire (s : State) : Res := .next (modTb s fun t => { t with acqExpired := true })

/-- The number of the first epoch that starts at or after an instant. [DESIGN CHOICE: log 19] -/
def firstEpochFrom (s : State) (t : Nat) : Nat := (t + periodNs s - 1) / periodNs s

/-- Do the conditions of arming hold (R73)? -/
def mayArm (s : State) : Bool :=
  s.seqr.released && !s.seqr.armed &&
  (s.tb.state == .locked || s.tb.state == .syncLocked || (s.tb.acqExpired && rb s 0x00040000 3))

/-- SEQUENCER_ARM (R73): the first epoch run is the first that starts at least 2 ms after arming. -/
def execSequencerArm (s : State) : Res :=
  .next (if mayArm s then
      let n := firstEpochFrom s (s.tb.ltime.toNat + 2000000)
      modSeq s fun q => { q with armed := true, epoch := toWord n - 1, unlocked := !(s.tb.state == .locked || s.tb.state == .syncLocked) }
    else s)

/-- TIME_UNLOCKED_REPORT (R72): 10 s have passed. -/
def execTimeUnlockedReport (s : State) : Res :=
  .next (if s.seqr.armed && s.seqr.unlocked then raise s 5 0 Code.timeUnlocked 1 else s)

/-! ### Latency (R53) -/

/-- LAT_COMP of one path from its round trips, in ns; 0xFFF when not measured. [DEDUCED: log 20] -/
def latOf (rtts : List Nat) : Nat := if rtts.length < 16 then 0xFFF else min 0xFFE ((rtts.take 16).sum / 32)

/-- LATENCY_MEASURE (R53). -/
def execLatencyMeasure (die : Die) (primary alternate : List Nat) (s : State) : Res :=
  onUnit (fitted s die && die != .svc)
    (modSeq s fun q => { q with lat := q.lat.setIfInBounds die.idx (latOf primary, latOf alternate), remeasure := false })

/-- ECHO (R51): a die returns the token with DEST and SRC swapped; at SVC the round trip ends. -/
def execEcho (f : SbFrame) (s : State) : Res :=
  onToken s f 6 fun s w =>
    let d := f.port.die
    if d == .svc then s else
    match relayPort s d (tokSrc w) with
    | some p => sendSb s p (tokenWord 6 (tokSrc w) d.code (tokUnit w) (tokAct w) (tokEntry w) (tokEp w))
    | none => s

/-! ### Launches (R49, R55) -/

/-- Does an entry issue in the epoch in hand (Table 2.2, R71)?  Bank F runs no inference while it is not ready (Table 10.10). -/
def entryIssues (s : State) (e : LaunchEntry) : Bool :=
  let odd := nbit s.seqr.epoch.toNat 0
  nbit e.flags 0 && !(nbit e.flags 1 && odd) && !(nbit e.flags 2 && !odd) && !(s.seqr.decimate && odd) &&
  !(s.seqr.bank == 2 && !fReady s && decide (0x10 ≤ e.action) && decide (e.action ≤ 0x12))

/-- Does the sequencer issue entries now: armed, in an epoch, not stopped, idle or past T_D (R57, R71)? -/
def issuing (s : State) : Bool :=
  s.seqr.armed && s.seqr.ran && !s.seqr.stopped && !s.seqr.killed && s.seqr.idleUntil.isNone

/-- LAT_COMP of the path that a die's route uses now (R53). [DEDUCED: log 20] -/
def latNow (s : State) (d : Die) : Nat :=
  let x := s.seqr.lat[d.idx]?.getD (0, 0)
  if rb s (routeAddr .svc d.code) 8 then x.2 else x.1

/-- Sends the LAUNCH token of an entry; a die that is out, or that no measured path reaches, misses it. -/
def sendLaunch (s : State) (i : Nat) (e : LaunchEntry) : State :=
  let s1 := modSeq s fun q => { q with issued := q.issued + 1 }
  match Die.ofCode (e.dieByte % 16) with
  | none => s
  | some d =>
    if d == .svc then s1
    else if (s.die d).out || latNow s d == 0xFFF || (relayPort s .svc d.code).isNone then missEntry s1 d
    else svcToken (modSeq s1 fun q => { q with exposeIssued := q.exposeIssued || e.action == 1 || e.action == 2 }) d 1 e.unit e.action i
      (s.seqr.epoch.toNat % 8)

/-- LAUNCH_SEND (R49): the entry's send instant has come. -/
def execLaunchSend (entry : Nat) (s : State) : Res :=
  .next (match entryOf s entry with
    | some e => if issuing s && entryIssues s e then sendLaunch s entry e else s
    | none => s)

/-- LATENESS_EXCEEDS_SLACK (R55): of the queued entry, else of the running one. -/
def execLatenessExceedsSlack (die : Die) (unit : Nat) (s : State) : Res :=
  onUnit (fitted s die && decide (unit < 16)) (
    let x := unitOf s die unit
    match x.queued, x.busy with
    | some l, _ => if l.late then s else lateEntry (modUnit s die unit fun x => { x with queued := some { l with late := true } }) die
    | none, some l => if l.late then s else lateEntry (modUnit s die unit fun x => { x with busy := some { l with late := true } }) die
    | none, none => s)

/-- The SOFT_EVENT action: its ARG goes to the firmware event handler, and its entry ends (Table 2.4). -/
def startSoftEvent (s : State) (d : Die) (u : Nat) (l : Launched) : State := unitDone (emit s (.softEvent l.arg.toNat)) d u

/-- SOFT_EVENT (R47). -/
def execSoftEvent (f : SbFrame) (s : State) : Res := onLaunch s f 0x41 (· == .svc) (· == 4) startSoftEvent

/-- The MARK action: logged, and its entry ends (Table 2.4). -/
def startMark (s : State) (d : Die) (u : Nat) (_ : Launched) : State :=
  unitDone (raiseOn s d (u % 16) 0 Code.mark 0) d u

/-- MARK (R47). -/
def execMark (f : SbFrame) (s : State) : Res := onLaunch s f 0x7F (fun _ => true) (fun _ => true) startMark

/-- The FLUSH action: the epoch's records are released, and its entry ends (R504). -/
def startFlush (s : State) (d : Die) (u : Nat) (_ : Launched) : State := unitDone (flushNow s) d u

/-- FLUSH (R504). -/
def execFlush (f : SbFrame) (s : State) : Res := onLaunch s f 0x40 (· == .svc) (· == 0) startFlush

end Sys2Proof.Machine
end

