-- ==== Sys2Proof/Machine/JobOps.lean ====
section
/-! DEFINITION. Layer jobs on the clusters of a die: checks, results written, statistics and their actions (R290–R293,
R337–R343, R349, R353, R365). -/
namespace Sys2Proof.Machine

/-! ### The adapted-scale table (R341) -/

/-- TAG of the running image: the first four bytes of the SHA-256 of its metadata, as a little-endian word. -/
def runningTag (s : State) : Nat :=
  match s.img.facts with
  | some f => leNat ((beBytes 32 f.metaDigest.toNat).take 4)
  | none => 0

/-- The first ledger line of the adapted-scale table. -/
def adaptBase (s : State) : Nat := match imageOf s with | some m => m.adaptBase | none => 0

/-- A committed little-endian word of a die's ledger. -/
def ledgerWord (s : State) (cd line off n : Nat) : Nat := leNat ((List.range n).map fun i => ledgerByte s cd (64 * line + off + i))

/-- The table entry of a slot: its scale, when its TAG is the running image's and its scale not 0. -/
def adaptedEntry (s : State) (cd slot : Nat) : Option Nat :=
  let line := adaptBase s + slot / 8
  let off := 8 * (slot % 8)
  let v := ledgerWord s cd line off 4
  if ledgerWord s cd line (off + 4) 4 == runningTag s && v != 0 then some v else none

/-- A scale in effect: the adapted one where it is usable, else the default (R340, R349). -/
def scaleInEffect (s : State) (cd : Nat) (slot : Option Nat) (dflt : Nat) : Nat :=
  match slot.bind (adaptedEntry s cd) with
  | some v => if f32PosNormal v then v else dflt
  | none => dflt

/-- An entry with the matching TAG and an unusable scale (R349). -/
def adaptedBad (s : State) (cd : Nat) (slot : Option Nat) : Bool :=
  match slot.bind (adaptedEntry s cd) with
  | some v => !f32PosNormal v
  | none => false

/-! ### A layer on a cluster -/

/-- The Harvest block of the running image, and its compute die (R420). -/
def hvBlock (s : State) : Option HarvestBlock := (imageOf s).bind (·.harvest)
def hvCd (s : State) : Option Nat := (hvBlock s).bind fun b => (Die.ofCode b.dieCode).bind (·.cdIdx)

/-- The committed HEAD_SEL of the Harvest header (Table 14.3). -/
def hvSel (s : State) (b : HarvestBlock) (cd : Nat) : Bool := nbit (ledgerByte s cd (64 * b.base)).toNat 4

/-- The bases of the two head segments and the one in service, for a die that carries the Harvest head (R421). -/
def headBases (s : State) (cd : Nat) : Option (HarvestBlock × Nat × Nat) :=
  (hvBlock s).bind fun b => if hvCd s == some cd then
    let a := (segment s cd b.headA).base
    some (b, a, if hvSel s b cd then (segment s cd b.headB).base else a) else none

/-- A read of a cluster's SRAM by a job: the head layer, whose weights lie in HEAD_A, reads the head segment in service, and takes
its tensor scale from there (R421). -/
def jobRead (s : State) (cd k : Nat) (j : LayerJob) (off n : Nat) : Nat :=
  let a := sramBase cd k + off
  match headBases s cd with
  | some (b, head, live) =>
    if sramBase cd k + j.weights != head then memNat s a n
    else if off == j.lpb + 16 && n == 4 then memNat s (live + b.r * b.k + b.r) 4
    else if head ≤ a && a < head + (segment s cd b.headA).len then memNat s (live + (a - head)) n
    else memNat s a n
  | none => memNat s a n

/-- The layer of a job as a cluster of a die reads it. -/
def layerAt (s : State) (cd k : Nat) (j : LayerJob) : Layer := ⟨jobRead s cd k j, j.lpb⟩

/-- The slot whose adapted scale a layer takes as S_OUT: its own, when it is monitored. -/
def Layer.ownSlot (l : Layer) : Option Nat := if l.monitored then some l.slot else none

def jobSIn (s : State) (cd : Nat) (l : Layer) : Nat := scaleInEffect s cd l.inSlot l.sIn
def jobSOut (s : State) (cd : Nat) (l : Layer) : Nat := scaleInEffect s cd l.ownSlot l.sOut

/-- Bytes that px pixels of c elements take in a format. -/
def mapBytes (f px c : Nat) : Nat := if f == 0xD || f == 0xE then px * packedBytes f c else (px * c * fmtBits f + 7) / 8

/-- Bits of a weight code. -/
def weightBytes (l : Layer) : Nat :=
  let k := l.kh * l.kw * (l.cin / max 1 l.groups)
  if l.fmtW == 0xD || l.fmtW == 0xE then l.cout * packedBytes l.fmtW k else (l.cout * k * fmtBits l.fmtW + 7) / 8

/-- The number of codebook tables a layer reads, and the entries of each. -/
def codebooks (l : Layer) : Nat × Nat :=
  if !l.weighted then (0, 0)
  else if l.fmtW == 0xB then (if l.cbGroups then (l.cout + 63) / 64 else 1, 16)
  else if l.fmtW == 0xC then (1, 256) else (0, 0)

/-- The ranges of its SRAM that a job reads, and those it writes. -/
def jobReads (l : Layer) (j : LayerJob) : List (Nat × Nat) :=
  let cb := codebooks l
  [(j.lpb, 96), (j.input, mapBytes l.fmtIn (j.inRows * l.win) l.cin)] ++
  (if l.weighted then [(j.weights, weightBytes l), (l.rsW, if l.rsW == 0 then 0 else l.cout), (l.cb, 2 * cb.1 * cb.2)] else []) ++
  (if l.inScales then [(l.rsIn, j.inRows * l.win)] else []) ++
  (if l.hasBias then [(l.bias, 4 * l.cout)] else []) ++
  (if l.outlN != 0 then [(j.outlX, 2 * j.inRows * l.win * l.outlN), (j.outlW, 2 * l.cout * l.kh * l.kw * l.outlN)] else [])

def jobWrites (l : Layer) (j : LayerJob) : List (Nat × Nat) :=
  [(j.output, mapBytes l.fmtOut (j.outRows * l.wOut) l.cout)] ++
  (if l.outScales then [(j.rsOut, j.outRows * l.wOut)] else []) ++
  (match j.side with | some p => [(p.1, 2 * j.outRows * l.wOut * p.2.length)] | none => [])

/-- The real input rows that an output row reads. -/
def rowsRead (l : Layer) (y : Nat) : List Nat :=
  let window := (List.range l.kh).filterMap fun jy =>
    match padIndex l.padMode l.hin (l.tapY y jy) with | .real i => some i | _ => none
  match l.op with
  | 5 => if l.isBilinear then (bilinearTaps l.fy l.hin y).map (·.1) else [y / max 1 l.fy]
  | 6 => (List.range l.hin).filter fun i => decide (i * l.sy ≤ y + l.pt) && decide (y + l.pt - i * l.sy < l.kh)
  | 7 => (List.range l.fy).map fun d => l.fy * y + d
  | 8 => [y / max 1 l.fy]
  | _ => if l.isGlobal then [] else window

/-- The output rows of a job. -/
def jobRows (j : LayerJob) : List Nat := (List.range j.outRows).map (· + j.outRow)

/-- Does a job stay within its cluster's SRAM, its map and its accumulators, with the rows it reads present (R300, R365)? -/
def jobInRange (l : Layer) (j : LayerJob) : Bool :=
  ((jobReads l j ++ jobWrites l j).all fun r => decide (r.1 + r.2 ≤ 0xC00000)) &&
  decide (j.inRow + j.inRows ≤ l.hin) && decide (j.outRow + j.outRows ≤ l.hOut) &&
  decide (j.acc + (l.cout + 63) / 64 ≤ 1024) &&
  ((jobRows j).all fun y => (rowsRead l y).all fun i => decide (j.inRow ≤ i) && decide (i < j.inRow + j.inRows))

/-- Why a job ends its cluster's entry: LAST_ERR, and a further log entry. -/
structure JobErr where
  err : Nat
  log : Option (Nat × BitVec 96) := none
  /-- The address of an uncorrectable error (R206). -/
  addr : Nat := 0

/-- The checks of a job on a cluster of a group of n (R343, R349, R353); the first that fails. -/
def jobCheck (s : State) (cd n k : Nat) (j : LayerJob) : Option JobErr :=
  let l := layerAt s cd k j
  let cb := codebooks l
  let base := sramBase cd k
  if poisonedAt s cd (base + j.lpb) 96 then some ⟨3, none, base + j.lpb⟩
  else if !l.paramsOk then some ⟨2, none, 0⟩
  else match l.opBad n with
    | some i => some ⟨2, some (Code.opBad, args4 [i]), 0⟩
    | none =>
      if !l.combosOk then some ⟨2, some (Code.opBad, args4 [0]), 0⟩
      else if !l.moves && !(f32PosNormal (jobSIn s cd l) && f32PosNormal l.tW && f32PosNormal (jobSOut s cd l)) then
        some ⟨2, some (Code.scaleRange, args4 []), 0⟩
      else if decide (16 < cb.1) then some ⟨2, some (Code.codebookBad, args4 []), 0⟩
      else if !jobInRange l j then some ⟨2, none, 0⟩
      else if (List.range (cb.1 * cb.2)).any fun i => !(bf16.decode (l.rd (l.cb + 2 * i) 2)).finite then some ⟨2, some (Code.codebookBad, args4 []), 0⟩
      else ((jobReads l j).find? fun r => decide (0 < r.2) && poisonedAt s cd (base + r.1) r.2).map fun r => ⟨3, none, base + r.1⟩

/-! ### The elements of a job -/

/-- One output element with the rank of the cluster that made it. -/
structure Cell where
  rank : Nat
  y : Nat
  x : Nat
  o : Nat
  e : OutElem
  /-- The cluster's LFSR for this element (R336). -/
  rand : Nat := 0

/-- The output positions of a cluster in the order it makes them. -/
def positions (l : Layer) (j : LayerJob) (n r : Nat) : List (Nat × Nat × Nat) :=
  (jobRows j).flatMap fun y => (l.columns n r).flatMap fun x => (l.channels n r).map fun o => (y, x, o)

/-- The elements of a cluster; none when a shift is out of range (R331). -/
def clusterCells (l : Layer) (j : LayerJob) (sIn sOut n r : Nat) : Option (List Cell) :=
  (positions l j n r).foldr (fun p acc => acc.bind fun cs => (outElem l j sIn sOut p.1 p.2.1 p.2.2).map fun e => ⟨r, p.1, p.2.1, p.2.2, e, 0⟩ :: cs)
    (some [])

/-- The channels of the whole map under GLOBAL pooling, whose sums a cluster carries (R358). -/
def globalKey (j : LayerJob) (o : Nat) : Nat := 64 * (j.acc + o / 64) + o % 64

/-- The input codes of one channel of a job's rows. -/
def channelCodes (l : Layer) (j : LayerJob) (c : Nat) : List InCode :=
  (List.range j.inRows).flatMap fun y => (List.range l.win).map fun x => let r := mapCode l j (j.inRow + y) x c; ⟨r.1, r.2, true⟩

/-- The carried value of a channel after a job's rows: for an average its sum, for a maximum its code plus 1. -/
def globalCarry (l : Layer) (j : LayerJob) (old : Int) (c : Nat) : Int :=
  if l.op == 3 then
    let best (a : Option InCode) (v : InCode) : Option InCode := some (match a with | none => v | some b => maxCodeOf l.fmtIn l.zpIn b v)
    match (channelCodes l j c).foldl best (if old ≤ 0 then none else some ⟨(old - 1).toNat, 127, true⟩) with
    | some v => (v.code : Int) + 1
    | none => old
  else (addSteps (⟨old, false⟩, false) ((channelCodes l j c).map fun v => sumProducts l v 1)).1.a

/-- The output element of a channel once the last row is in. -/
def globalElem (l : Layer) (j : LayerJob) (sIn sOut c : Nat) (v : Int) : Option OutElem :=
  if l.op == 3 then some { code := if v ≤ 0 then zeroCode l.fmtIn l.zpIn else (v - 1).toNat }
  else (factorAt l j sIn sOut 0 0 c (l.hin * l.win)).map fun f => rescaled l (⟨v, decide (accMax ≤ v.natAbs)⟩, false) f.1 f.2.1 f.2.2

/-- A GLOBAL pooling job on a cluster: its accumulators carry on, and after the last row its elements come out. -/
def globalRun (s : State) (cd k : Nat) (l : Layer) (j : LayerJob) (sIn sOut n r : Nat) : State × Option (List Cell) :=
  let cs := l.channels n r
  let old (o : Nat) : Int := if j.inRow == 0 then (if l.op == 3 then 0 else (accStart l o).a) else mget 0 (s.cl cd k).acc (globalKey j o)
  let vs := if (l.columns n r).isEmpty then [] else cs.map fun o => (o, globalCarry l j (old o) o)
  let s1 := modCl s cd k fun c => { c with acc := vs.foldl (fun m v => mset 0 m (globalKey j v.1) v.2) c.acc }
  let fin := j.inRow + j.inRows == l.hin
  (s1, if !fin then some []
       else vs.foldr (fun v acc => acc.bind fun cs => (globalElem l j sIn sOut v.1 v.2).map fun e => ⟨r, 0, 0, v.1, e, 0⟩ :: cs) (some []))

/-! ### Counters (R292, R322, R326, R333, Table 10.7) -/

/-- Operands of a job that were clamped or not numbers: EXP_HI, EXP_LO and XNAN, one count for an input element of the
job's rows and for a weight of the cluster's channels. [DEDUCED: log 73] -/
def operandCounts (l : Layer) (j : LayerJob) (n r : Nat) : Nat × Nat × Nat :=
  let ins := if l.moves then [] else (List.range j.inRows).flatMap fun y => (List.range l.win).flatMap fun x => (List.range l.cin).map fun c =>
    let v := mapCode l j (j.inRow + y) x c; expandInput l.fmtIn l.zpIn l.xbIn v.1 v.2
  let ws := if !l.weighted then [] else (l.channels n r).flatMap fun o => l.taps.flatMap fun t => (List.range (l.cin / max 1 l.groups)).map fun c =>
    let w := weightCode l j o t.1 t.2 c; expandWeight l.fmtW l.xbW w.1 w.2.1 w.2.2
  let scales := (if l.inScales then (List.range (j.inRows * l.win)).filter fun i => (rowScaleUsed (l.rd (l.rsIn + i) 1)).2 else []).length +
    (if l.rsW != 0 && l.weighted then (l.channels n r).filter fun o => (rowScaleUsed (l.rd (l.rsW + o) 1)).2 else []).length
  let es := ins ++ ws
  ((es.filter (·.hi)).length, (es.filter (·.lo)).length, (es.filter (·.nan)).length + scales)

/-- Matrix steps of a cluster's share: taps that are not skipped × channel blocks × passes (R356). -/
def matrixSteps (l : Layer) (n r : Nat) (rows : List Nat) : Nat :=
  if !l.isConv || l.depthwise then 0
  else
    let cg := l.cin / max 1 l.groups
    let blocks := ((cg + l.lanes - 1) / l.lanes) * (((l.channels n r).length + 63) / 64) * l.passes
    let live (p : PadRead) : Bool := match p with | .zero => false | _ => true
    let rowsLive := (rows.map fun y => ((List.range l.kh).filter fun jy => live (padIndex l.padMode l.hin (l.tapY y jy))).length).sum
    let colsLive := ((l.columns n r).map fun x => ((List.range l.kw).filter fun jx => live (padIndex l.padMode l.win (l.tapX x jx))).length).sum
    rowsLive * colsLive * blocks

/-- The counters of a cluster after its share of a job. -/
def countShare (c : Cluster) (l : Layer) (j : LayerJob) (n r : Nat) (cells : List Cell) : Cluster :=
  let o := operandCounts l j n r
  { c with
    steps := c.steps + BitVec.ofNat 64 (matrixSteps l n r (jobRows j))
    accSat := satW c.accSat ((cells.filter fun x => x.e.accSat).length)
    outSat := satW c.outSat ((cells.filter fun x => x.e.sat).length)
    expHi := satAdd 65535 c.expHi o.1, expLo := satAdd 65535 c.expLo o.2.1, xnan := satW c.xnan o.2.2 }

/-! ### Results written -/

/-- Codes laid out in a format: whole bytes little-endian, 4-bit codes two to a byte, the first in the low half. -/
def packCodes (f : Nat) (cs : List Nat) : List Byte :=
  if fmtBits f == 4 then (piecesOf 2 (cs.length + 1) cs).map fun p => BitVec.ofNat 8 (p.getD 0 0 % 16 + 16 * (p.getD 1 0 % 16))
  else cs.flatMap fun c => leBytes (fmtBits f / 8) c

/-- Values of a job's elements by place in its output rows. -/
def grid (l : Layer) (j : LayerJob) (rows : Nat) (cells : List Cell) (v : Cell → Nat) : List Nat :=
  (cells.foldl (fun (a : Array Nat) c => a.setIfInBounds (((c.y - j.outRow) * l.wOut + c.x) * l.cout + c.o) (v c))
    (Array.replicate (rows * l.wOut * l.cout) 0)).toList

/-- Bytes written to the same place of every named cluster's SRAM (R363, R364). -/
def putAll (s : State) (cd : Nat) (ks : List Nat) (off : Nat) (bs : List Byte) : State :=
  ks.foldl (fun t k => sramEngine t cd (sramBase cd k + off) bs .engine) s

/-- The state of a Galois register after n shifts. [DEDUCED, DESIGN CHOICE: log 73, 85] -/
def lfsrAfter : Nat → Nat → Nat
  | 0, x => x
  | n + 1, x => lfsrAfter n (lfsrShift x)

/-- The elements of a cluster with their random values: element i takes the register after 32 (i + 1) shifts (R336). -/
def withRands (seed : Nat) (cells : List Cell) : List Cell :=
  (cells.foldl (fun (t : List Cell × Nat) c => let r := lfsrAfter 32 t.2; ({ c with rand := r } :: t.1, r)) ([], seed)).1.reverse

/-- One pixel of row-scaled output: its scale and codes with their saturations (R335). -/
def scaledPixel (l : Layer) (sOut : Nat) (vals rands : List Nat) : Nat × List (Nat × Bool) :=
  let q := onTheFlyScale l sOut vals
  (q, (vals.zip rands).map fun v => scaledCode l sOut q v.1 (if l.stochastic then divStoch v.2 else divRne))

/-- The output codes of a job, with the row scales when they are computed on the fly and how many codes those saturated. -/
def jobCodes (l : Layer) (j : LayerJob) (sOut rows : Nat) (cells : List Cell) : List Nat × List Nat × Nat :=
  if l.outScales then
    let vals := grid l j rows cells fun c => heldValue sOut c.e
    let rands := grid l j rows cells fun c => c.rand
    let px := ((piecesOf l.cout (vals.length + 1) vals).zip (piecesOf l.cout (rands.length + 1) rands)).map fun p => scaledPixel l sOut p.1 p.2
    (px.flatMap fun p => p.2.map (·.1), px.map (·.1), ((px.flatMap (·.2)).filter (·.2)).length)
  else (grid l j rows cells fun c => c.e.code, [], 0)

/-- The side buffer of a consumer's outlier channels: y × S_OUT in FP16 (R329). -/
def sideBytes (l : Layer) (j : LayerJob) (sOut rows : Nat) (cells : List Cell) (chs : List Nat) : List Byte :=
  let vals := grid l j rows cells fun c => (fp16.encode true ((Frac.mk (c.e.acc * c.e.m) (2 ^ c.e.sh)).mul (f32 sOut))).1
  (piecesOf l.cout (vals.length + 1) vals).flatMap fun p => chs.flatMap fun o => leBytes 2 (p.getD o 0)

/-! ### Statistics (R337, R338) -/

/-- VALID of a slot's configuration word. -/
def slotValid (w : Nat) : Bool := nbit w 0
/-- The configuration word of a slot, and its threshold. -/
def slotCfg (s : State) (cd slot : Nat) : Nat := rnat s (fabReg cd (0x1000 + 32 * slot))
def slotThresh (w : Nat) : Int := toSigned 16 (bits w 31 16)

/-- REF16 of an element (R337). -/
def refOf (l : Layer) (e : OutElem) : Int :=
  clampInt (-65535) 65535 (match floatOf l.fmtOut with
    | some _ => 16 * e.y
    | none => if 4 ≤ e.sh then e.acc * e.m / (2 ^ (e.sh - 4) : Nat) else e.acc * e.m * (2 ^ (4 - e.sh) : Nat))

/-- OUT16 of an element. -/
def outOf (l : Layer) (e : OutElem) : Int :=
  match floatOf l.fmtOut with
  | some f =>
    let v := ((f.decode e.code).frac f).mul (pow2 (4 - l.outX))
    if v.num < 0 then -((v.num.natAbs / v.den : Nat) : Int) else ((v.num.natAbs / v.den : Nat) : Int)
  | none => 16 * (intOf l.fmtOut e.code - l.zpOut)

/-- Adds to a 48-bit counter that saturates. -/
def sat48 (a b : Nat) : Nat := min (2 ^ 48 - 1) (a + b)

/-- One sampled element. -/
def sampleInto (l : Layer) (q : QSlot) (e : OutElem) : QSlot :=
  let r := refOf l e
  let err := (outOf l e - r).natAbs ^ 2
  let sig := r.natAbs ^ 2
  { q with
    samples := q.samples + 1, err := sat48 q.err err, sig := sat48 q.sig sig
    bandSamples := q.bandSamples + 1, bandErr := sat48 q.bandErr err, bandSig := sat48 q.bandSig sig
    maxPos := if 0 < r then max q.maxPos r.natAbs else q.maxPos
    maxNeg := if r < 0 then max q.maxNeg r.natAbs else q.maxNeg
    satSamples := if e.sat then satAdd 65535 q.satSamples 1 else q.satSamples }

/-- The elements of a monitored layer numbered and sampled, in cluster order. [DEDUCED: log 73] -/
def sampleAll (l : Layer) (k : Nat) (q : QSlot) (cells : List Cell) : QSlot :=
  cells.foldl (fun q c =>
    let q1 := if q.elems % 2 ^ k == 0 && c.e.rescaled then sampleInto l q c.e else q
    { q1 with elems := q1.elems + 1 }) q

/-- The samples of a job enter its slot. -/
def monitor (s : State) (cd : Nat) (l : Layer) (cells : List Cell) (nan : Bool) : State :=
  let w := slotCfg s cd l.slot
  if !l.monitored || !slotValid w then s
  else modComp s cd fun c => { c with slots := vmod c.slots l.slot fun q =>
    let q1 := if rb s (fabReg cd 0x800) 0 && !l.outScales then sampleAll l (bits w 4 1) q cells else q
    { q1 with nanSeen := q1.nanSeen || nan } }

/-- Is 10^n at most (sig ÷ err)^160, for a signed n? -/
def dbAtMost (sig err : Nat) (n : Int) : Bool :=
  if 0 ≤ n then decide (10 ^ n.toNat * err ^ 160 ≤ sig ^ 160) else decide (err ^ 160 ≤ sig ^ 160 * 10 ^ (-n).toNat)

/-- The largest n between lo and lo + 2^fuel − 1 that `dbAtMost` holds of, when it holds of lo. -/
def dbSearch (sig err : Nat) : Nat → Int → Int
  | 0, lo => lo
  | fuel + 1, lo => let mid := lo + (2 ^ fuel : Nat); dbSearch sig err fuel (if dbAtMost sig err mid then mid else lo)

/-- SQNR in 1/16 dB as 16 bits, to within one unit, with the free value that decides the rest (R338). [DESIGN CHOICE: log 72] -/
def sqnrOf (samples sig err free : Nat) : BitVec 16 :=
  if samples == 0 then 0x8000
  else if err == 0 && sig != 0 then 0x7FFF
  else if sig == 0 then BitVec.ofNat 16 free
  else BitVec.ofInt 16 (dbSearch sig err 13 (-4096) + (free % 2 : Nat))

def sqnrSigned (q : BitVec 16) : Int := toSigned 16 q.toNat

/-! ### Running the jobs of a band -/

/-- A cluster's entry ends in error: logged, the epoch PARTIAL, the cluster idle (Table 10.10). -/
def jobFails (s : State) (cd k : Nat) (e : JobErr) : State :=
  let d := Die.ofCd cd
  let g := (s.cl cd k).group
  let s1 := if e.err == 3 then logOnly s d k 0 Code.memUncorr 2 (args4 [e.addr]) else logOnly s d k 0 Code.progErr 2 (args4 [g])
  let s2 := match e.log with | some l => logOnly s1 d k 0 l.1 1 l.2 | none => s1
  markPartial (unitDone (modCl s2 cd k fun c => { c with
    state := .idle, lastErr := e.err, busyNow := c.busyNow + (s.now - c.started), lateNow := max c.lateNow c.late }) d k) d

/-- One job on the named clusters: the clusters that fail with the state, or the state after it. [DESIGN CHOICE: log 74] -/
def runJob (s : State) (cd : Nat) (ks : List Nat) (j : LayerJob) : State × Bool :=
  let n := ks.length
  let d := Die.ofCd cd
  let bad := ks.filterMap fun k => (jobCheck s cd n k j).map fun e => (k, e)
  if !bad.isEmpty then (bad.foldl (fun t b => jobFails t cd b.1 b.2) s, false)
  else
    let l0 := layerAt s cd (ks.headD 0) j
    let s0 := if adaptedBad s cd l0.inSlot || adaptedBad s cd l0.ownSlot then logOnly s d 4 0 Code.adaptBad 1 else s
    let sIn := jobSIn s cd l0
    let sOut := jobSOut s cd l0
    let run := ks.zipIdx.foldl (fun (t : State × List (Nat × Option (List Cell))) k =>
      let l := layerAt s cd k.1 j
      if l.isGlobal then let r := globalRun t.1 cd k.1 l j sIn sOut n k.2; (r.1, t.2 ++ [(k.1, r.2)])
      else (t.1, t.2 ++ [(k.1, clusterCells l j sIn sOut n k.2)])) (s0, [])
    let failed := run.2.filter fun p => p.2.isNone
    if !failed.isEmpty then
      (failed.foldl (fun t p => jobFails t cd p.1 ⟨2, some (Code.scaleRange, args4 []), 0⟩) run.1, false)
    else
      let lanes := l0.stochastic && l0.outScales
      let shares := run.2.map fun p => (p.1, if lanes then withRands (s.cl cd p.1).lfsr.toNat (p.2.getD []) else p.2.getD [])
      let cells := shares.flatMap (·.2)
      let rows := if l0.isGlobal then (if cells.isEmpty then 0 else 1) else j.outRows
      let out := jobCodes l0 j sOut rows cells
      let s1 := shares.zipIdx.foldl (fun t p =>
        modCl t cd p.1.1 fun c =>
          let c1 := countShare c (layerAt s cd p.1.1 j) j n p.2 p.1.2
          if lanes then { c1 with lfsr := toWord (lfsrAfter (2048 * ((p.1.2.length + 63) / 64)) c.lfsr.toNat) } else c1) run.1
      let s2 := if rows == 0 then s1 else putAll s1 cd ks j.output (packCodes l0.fmtOut out.1)
      let s3 := if l0.outScales then
          let t := putAll s2 cd ks j.rsOut (out.2.1.map (BitVec.ofNat 8))
          modCl t cd (ks.headD 0) fun c => { c with outSat := satW c.outSat out.2.2 }
        else s2
      let s4 := match j.side with
        | some p => if l0.moves then s3 else putAll s3 cd ks p.1 (sideBytes l0 j sOut rows cells p.2)
        | none => s3
      let nan := shares.zipIdx.any fun p => (operandCounts (layerAt s cd p.1.1 j) j n p.2).2.2 != 0
      (monitor s4 cd l0 cells nan, true)

/-- The jobs of a band in their order; the Bool says that all ran. [DESIGN CHOICE: log 66] -/
def runJobs (s : State) (cd : Nat) (ks : List Nat) : List LayerJob → State × Bool
  | [] => (s, true)
  | j :: js => let r := runJob s cd ks j; if r.2 then runJobs r.1 cd ks js else r

/-! ### Actions (R339, R340, R342) -/

/-- SQNR_LOW: die, slot, SQNR and sample count (R339). -/
def logSqnrLow (s : State) (cd slot : Nat) (sqnr : BitVec 16) (samples : Nat) : State :=
  logOnly s (Die.ofCd cd) 4 0 Code.sqnrLow 1 (packArgs [((Die.ofCd cd).code, 1), (slot, 1), (sqnr.toNat, 2), (min samples 0xFFFFFFFF, 4)])

/-- QPOS and QNEG of a layer (R340). -/
def adaptRanges (l : Layer) : Frac × Frac :=
  match floatOf l.fmtOut with
  | some f => let m := ((f.decode f.maxCode).frac f).div (pow2 l.outX); (m, m)
  | none => let r := intRange l.fmtOut l.isWeight; (Frac.ofInt (r.2 - l.zpOut), Frac.ofInt (l.zpOut - r.1))

/-- ρ of a slot: the larger of the two sides' (R340). -/
def rhoOf (l : Layer) (q : QSlot) : Frac :=
  let side (mx : Nat) (r : Frac) : Frac := if r.num == 0 then ⟨0, 1⟩ else (Frac.ofInt mx).div ((Frac.ofInt 16).mul r)
  let a := side q.maxPos (adaptRanges l).1
  let b := side q.maxNeg (adaptRanges l).2
  if a.lt b then b else a

/-- The new output scale, or none where none is needed (R340). -/
def adaptScale (sOut : Nat) (rho : Frac) : Option Nat :=
  if !((⟨1, 1⟩ : Frac).lt rho) && !(rho.lt ⟨1, 4⟩) then none
  else
    let so := f32 sOut
    let v := (so.mul rho).mul ⟨17, 16⟩
    let lo := so.mul ⟨1, 16⟩
    let hi := so.mul ⟨16, 1⟩
    some (toF32 (if v.lt lo then lo else if hi.lt v then hi else v))

/-- ADAPT: the new scale goes to the slot's entry as a local ledger write (R340, R341). [DEDUCED: log 73] -/
def adaptNow (s : State) (cd : Nat) (l : Layer) (q : QSlot) : State :=
  match adaptScale (jobSOut s cd l) (rhoOf l q) with
  | none => modComp s cd fun c => { c with slots := vmod c.slots l.slot fun x => { x with adaptNone := true } }
  | some v =>
    modComp (ledgerLocal s cd (adaptBase s + l.slot / 8) (8 * (l.slot % 8)) (leBytes 4 v ++ leBytes 4 (runningTag s))) cd fun c =>
      { c with slots := vmod c.slots l.slot fun x => { x with adapted := true } }

/-- The slot of a job as its lowest cluster names it, when it is monitored and in use. -/
def jobSlot (s : State) (cd k : Nat) (j : LayerJob) : Option (Layer × Nat) :=
  let l := layerAt s cd k j
  let w := slotCfg s cd l.slot
  if l.monitored && slotValid w then some (l, w) else none

/-- A saturated count: the action is REPORT whatever the slot names (R338). -/
def satCount (q : QSlot) : Bool := q.err == 2 ^ 48 - 1 || q.sig == 2 ^ 48 - 1

/-- Evaluates a monitored layer at the end of its last entry: ADAPT, or REPORT where that is what applies (R339). -/
def evalAtEnd (s : State) (cd k : Nat) (j : LayerJob) : State :=
  match jobSlot s cd k j with
  | none => s
  | some (l, w) =>
    let q := vget (s.cdie cd).slots l.slot
    let f := fresh s
    let v := sqnrOf q.samples q.sig q.err f.1
    let s1 := modComp f.2 cd fun c => { c with slots := vmod c.slots l.slot fun x => { x with sqnr := v, countSat := x.countSat || satCount q } }
    if q.samples == 0 || !decide (sqnrSigned v < slotThresh w) || (s.cdie cd).aborted then s1
    else
      let act := bits w 6 5
      let s2 := modComp s1 cd fun c => { c with slots := vmod c.slots l.slot fun x => { x with below := true } }
      if act == 3 then s2
      else
        let s3 := if act == 2 && rb s (fabReg cd 0x800) 2 && !satCount q then s2 else logSqnrLow s2 cd l.slot v q.samples
        if act == 1 && rb s (fabReg cd 0x800) 1 && !satCount q && j.consumersLocal then adaptNow s3 cd l q else s3

/-- Is a band to be repeated for a layer: its band's SQNR is below the threshold (R339)? -/
def rerunWanted (s : State) (cd k : Nat) (j : LayerJob) : Option (Layer × BitVec 16 × QSlot) :=
  match jobSlot s cd k j with
  | none => none
  | some (l, w) =>
    let q := vget (s.cdie cd).slots l.slot
    let v := sqnrOf q.bandSamples q.bandSig q.bandErr (Config.freeNat s.freeIdx)
    if bits w 6 5 == 2 && rb s (fabReg cd 0x800) 2 && q.bandSamples != 0 && decide (sqnrSigned v < slotThresh w) then some (l, v, q) else none

/-- The conditions of a rerun (R342, R348). -/
def rerunAllowed (s : State) (cd k : Nat) (j : LayerJob) (l : Layer) (q : QSlot) (wide : List LayerJob) : Bool :=
  let x := unitOf s (Die.ofCd cd) k
  let slack := match x.busy with | some b => b.slack.toNat | none => 0
  let c := s.cl cd k
  l.wide != 0 && wide != [] && j.consumersLocal && decide (q.reruns < rf s (fabReg cd 0x800) 15 8) &&
  !(s.die (Die.ofCd cd)).refusing && !satCount q && decide (c.late ≤ slack) && c.speed != 0 &&
  decide (j.wideSteps * 1000 ≤ (slack - c.late) * c.speed)

/-- Evaluates RERUN for the layers of a band: whether the band is repeated, and the slots with their reports (R339, R342). [DEDUCED: log 73] -/
def evalReruns (s : State) (cd k : Nat) (wide : List LayerJob) (jobs : List LayerJob) : State × Bool :=
  let r := jobs.foldl (fun (t : State × Bool) j =>
    match rerunWanted s cd k j with
    | none => t
    | some (l, v, q) =>
      let ok := rerunAllowed s cd k j l q wide
      let s1 := logSqnrLow t.1 cd l.slot v q.bandSamples
      (modComp s1 cd fun c => { c with slots := vmod c.slots l.slot fun x =>
        if ok then { x with below := true, reruns := satAdd 255 x.reruns 1, rerunDone := true } else { x with below := true, rerunSkipped := true } },
       t.2 || ok)) (s, false)
  ((fresh r.1).2, r.2)

/-- A band's own counts restart. -/
def clearBandCounts (s : State) (cd : Nat) : State :=
  modComp s cd fun c => { c with slots := c.slots.map fun q => { q with bandErr := 0, bandSig := 0, bandSamples := 0 } }

end Sys2Proof.Machine
end

