-- ==== Sys2Proof/Machine/HvOps.lean ====
section
/-! DEFINITION. The Harvest region and the Harvest programs: capture, training, validation, adoption (chapter 14). -/
namespace Sys2Proof.Machine

/-! ### The Harvest region (Table 14.3) -/

/-- The parameter count of a head. -/
def headParams (b : HarvestBlock) : Nat := b.r * (b.k + 1)

/-- Ledger lines that n bytes take. -/
def linesFor (n : Nat) : Nat := (n + 63) / 64

/-- The first lines of the sections: header, master weights, first moment, its scales, second moment; and the end. -/
def hvMaster (b : HarvestBlock) : Nat := b.base + 1
def hvFirst (b : HarvestBlock) : Nat := hvMaster b + linesFor (2 * headParams b)
def hvScales (b : HarvestBlock) : Nat := hvFirst b + linesFor (headParams b)
def hvSecond (b : HarvestBlock) : Nat := hvScales b + linesFor (b.r + 4)
def hvEnd (b : HarvestBlock) : Nat := hvSecond b + linesFor (headParams b)

/-- Offsets of the header's fields after STATE and HEAD_SEL in byte 0, in the order of Table 14.3; the last two are the model's
own, the offset of the pass and the steps of the session. -/
def hvTagOff : Nat := 4
def hvSessionOff : Nat := 8
def hvTotalOff : Nat := 12
def hvStepOff : Nat := 16
def hvTmOff : Nat := 20
def hvTvOff : Nat := 24
def hvCrcOff : Nat := 28
def hvOutcomeOff : Nat := 36
def hvPassOff : Nat := 40
def hvDoneOff : Nat := 44

/-- A committed word of the header. -/
def hvWord (s : State) (b : HarvestBlock) (cd off : Nat) : Nat := ledgerWord s cd b.base off 4

/-- A program's write of a header word (R61). [DESIGN CHOICE: log 81] -/
def hvPut (s : State) (b : HarvestBlock) (cd off v : Nat) : State := ledgerLocal s cd b.base off (leBytes 4 v)

/-- Committed bytes of the ledger from a line on. -/
def ledgerBytes (s : State) (cd line n : Nat) : List Byte := (List.range n).map fun i => ledgerByte s cd (64 * line + i)

/-- The codes of the region as a program works on them. -/
structure HvRegion where
  w : List Nat
  m : List Nat
  ms : List Nat
  v : List Nat
  tM : Nat
  tV : Nat
  t : Nat

/-- The committed region. -/
def hvRegion (s : State) (b : HarvestBlock) (cd : Nat) : HvRegion :=
  let p := headParams b
  { w := (List.range p).map fun i => ledgerWord s cd (hvMaster b) (2 * i) 2
    m := (ledgerBytes s cd (hvFirst b) p).map (·.toNat)
    ms := (ledgerBytes s cd (hvScales b) b.r).map (·.toNat)
    v := (ledgerBytes s cd (hvSecond b) p).map (·.toNat)
    tM := hvWord s b cd hvTmOff, tV := hvWord s b cd hvTvOff, t := hvWord s b cd hvStepOff }

/-- The whole region written back as local writes (R428). -/
def hvStore (s : State) (b : HarvestBlock) (cd : Nat) (g : HvRegion) : State :=
  let s1 := ledgerStore s cd (hvMaster b) 0 (g.w.flatMap (leBytes 2))
  let s2 := ledgerStore s1 cd (hvFirst b) 0 (g.m.map (BitVec.ofNat 8))
  let s3 := ledgerStore s2 cd (hvScales b) 0 (g.ms.map (BitVec.ofNat 8) ++ leBytes 4 g.tM)
  let s4 := ledgerStore s3 cd (hvSecond b) 0 (g.v.map (BitVec.ofNat 8))
  hvPut (hvPut (hvPut s4 b cd hvStepOff g.t) b cd hvTmOff g.tM) b cd hvTvOff g.tV

/-! ### The exemplar store (R424–R426) -/

/-- The address of an exemplar slot. -/
def exAddr (b : HarvestBlock) (cd i : Nat) : Nat := sramBase cd b.storeCluster + b.storeOff + 144 * i

/-- An exemplar's bytes (Table 14.2). -/
def exBytes (b : HarvestBlock) (e : Exemplar) (epoch : Word) : List Byte :=
  let x := (e.x.take b.k) ++ List.replicate (128 - min b.k e.x.length) 0
  x ++ [e.xs, BitVec.ofNat 8 (e.label % max 1 b.r), 0, 0] ++ leBytes 4 epoch.toNat ++ leBytes 4 e.track.toNat ++ leBytes 4 0

/-- Filled slots. -/
def exFilled (total : Nat) : Nat := min 65536 total

/-- The validation and training slots (R426). -/
def valSlots (s : State) (total : Nat) : List Nat := (List.range (exFilled total)).filter fun i => i % max 1 (rnat s 0x0004042C) == 0
def trainSlots (s : State) (total : Nat) : List Nat := (List.range (exFilled total)).filter fun i => i % max 1 (rnat s 0x0004042C) != 0

/-- A stored exemplar: features, feature scale, label. -/
structure ExSlot where
  x : List Byte
  xs : Byte
  label : Nat

def exRead (s : State) (b : HarvestBlock) (cd i : Nat) : ExSlot :=
  let a := exAddr b cd i
  { x := bytesAt s.mem a b.k, xs := byteAt s.mem (a + 128), label := (byteAt s.mem (a + 129)).toNat }

/-- CAPTURE: at most CAP_MAX exemplars, then EX_TOTAL (R424, R425). -/
def hvCapture (s : State) (b : HarvestBlock) (cd : Nat) (es : List Exemplar) : State :=
  let total := hvWord s b cd hvTotalOff
  let mine := es.take (min 8 b.capMax)
  let s1 := mine.zipIdx.foldl (fun t e =>
    sramEngine t cd (exAddr b cd ((total + e.2) % 65536)) (exBytes b e.1 s.seqr.epoch) .engine) s
  if mine.isEmpty then s else hvPut s1 b cd hvTotalOff ((total + mine.length) % 2 ^ 32)

/-! ### FP32 values that may cease to be finite -/

/-- A result; none when it is not finite. -/
def fin32 (x : Nat) : Option Nat := if f32Finite x then some x else none

def mul32 (a b : Nat) : Option Nat := fin32 (f32Mul a b)
def add32 (a b : Nat) : Option Nat := fin32 (f32Add a b)
def sub32 (a b : Nat) : Option Nat := fin32 (f32Sub a b)
def div32 (a b : Nat) : Option Nat := if (f32 b).num == 0 then none else fin32 (f32Div a b)

/-- Square root in FP32, to nearest. -/
def sqrt32 (a : Nat) : Option Nat :=
  match fp32.decode a with
  | .fin neg g u =>
    if g == 0 then some 0 else if neg then none
    else
      let e : Int := u - 23 - 64
      let up : Nat := if e % 2 == 0 then 64 else 63
      let x := g * 2 ^ up
      let r := sqrtBits 46 x 0
      let half : Int := (u - 23 - (up : Nat)) / 2
      let odd := if r * r == x then 0 else 1
      some (toF32 ((Frac.mk ((2 * r + odd : Nat) : Int) 2).mul (pow2 half)))
  | _ => none

/-- 1.0 in FP32. -/
def one32 : Nat := 0x3F800000

/-- The smallest power of two at or above a positive FP32 value, as FP32; 0 for 0. -/
def powAbove (x : Frac) : Nat :=
  if x.num == 0 then 0
  else
    let e := log2Frac x.num.natAbs x.den
    if (pow2 e).lt x then toF32 (pow2 (e + 1)) else toF32 (pow2 e)

/-- The larger of two magnitudes. -/
def maxMag (a : Frac) (x : Nat) : Frac := let y := f32 x; let z : Frac := ⟨y.num.natAbs, y.den⟩; if a.lt z then z else a

/-! ### A training step (R428–R431) -/

/-- The hyperparameters: a register that holds 0 selects the image's default (R442). -/
structure HvHyper where
  lr : Nat
  beta1 : Nat
  beta2 : Nat
  eps : Nat
  wd : Nat
  srW : Bool
  srM : Bool
  srV : Bool

def hvHyper (s : State) (b : HarvestBlock) : HvHyper :=
  let ovr (i : Nat) (d : Word) : Nat := let v := rget s (0x00040434 + 4 * i); (if v == 0 then d else v).toNat
  { lr := ovr 0 b.lr, beta1 := ovr 1 b.beta1, beta2 := ovr 2 b.beta2, eps := ovr 3 b.eps, wd := ovr 4 b.wd
    srW := rb s 0x00040400 2, srM := rb s 0x00040400 3, srV := rb s 0x00040400 4 }

/-- Optimiser steps an epoch, passes and batch: a register never written holds the image's value. -/
def hvSteps (s : State) (b : HarvestBlock) : Nat := let v := rnat s 0x0004041C; if v == 0 then b.steps else v
def hvPasses (s : State) (b : HarvestBlock) : Nat := let v := rnat s 0x00040420; if v == 0 then b.passes else v
def hvBatch (s : State) (b : HarvestBlock) : Nat := let v := rnat s 0x00040424; if v == 0 then b.batch else v

/-- The second-moment codebook (R430). -/
def codebookV (i : Nat) : Nat :=
  if i == 0 then 0
  else
    let e : Int := (i : Int) - 255
    -- 2^(e/8): the exact power of two times the eighth root, rounded to BF16 through its 8th power
    let k := e / 8
    let f := (e % 8).toNat
    let mant := ((List.range 128).find? fun c => decide (2 ^ f * 2 ^ (8 * 8) < (2 * c + 1 + 256) ^ 8)).getD 128
    (toF32 ((Frac.mk ((128 + mant : Nat) : Int) 128).mul (pow2 k)))

/-- A first-moment value: code × q × T_M. -/
def momentOne (g : HvRegion) (cols i : Nat) : Nat :=
  toF32 (((Frac.ofInt (toSigned 8 (g.m.getD i 0))).mul ((e4m3.decode (g.ms.getD (i / cols) 0)).frac e4m3)).mul (f32 g.tM))

/-- A second-moment value: entry × T_V. -/
def momentTwo (g : HvRegion) (i : Nat) : Nat := f32Mul (codebookV (g.v.getD i 0)) g.tV

/-- A parameter updated: its moments and its value; none when one is not finite. [DESIGN CHOICE: log 82] -/
def updateParam (h : HvHyper) (t : Nat) (w m v g : Nat) : Option (Nat × Nat × Nat) := do
  let m1 ← add32 (← mul32 h.beta1 m) (← mul32 (← sub32 one32 h.beta1) g)
  let v1 ← add32 (← mul32 h.beta2 v) (← mul32 (← mul32 (← sub32 one32 h.beta2) g) g)
  let mh ← div32 m1 (← sub32 one32 (Config.powF32 h.beta1 t))
  let vh ← div32 v1 (← sub32 one32 (Config.powF32 h.beta2 t))
  let q ← div32 mh (← add32 (← sqrt32 vh) h.eps)
  let w1 ← sub32 w (← mul32 h.lr (← add32 q (← mul32 h.wd w)))
  pure (w1, m1, v1)

/-- The gradients of a batch in parameter order: row r holds its K weights' and then its bias's (R428). -/
def gradients (b : HarvestBlock) (g : HvRegion) (batch : List ExSlot) : List Nat :=
  let cols := b.k + 1
  let row (r : Nat) : List Nat := (g.w.drop (r * cols)).take b.k
  let probs := batch.map fun e =>
    let zs := (List.range b.r).map fun r => Config.headLogit (row r) (g.w.getD (r * cols + b.k) 0) e.x e.xs
    (List.range b.r).map fun r => f32Sub (Config.softmax zs r) (if e.label == r then one32 else 0)
  let bf := toF32 ⟨batch.length, 1⟩
  (List.range b.r).flatMap fun r =>
    let dy := probs.map fun p => p.getD r 0
    let a := (dy.zip batch).map fun p => f32Div (f32Mul p.1 (toF32 ((e4m3.decode p.2.xs.toNat).frac e4m3))) bf
    let top := a.foldl maxMag ⟨0, 1⟩
    let t : Nat := toF32 (pow2 (-16))
    let q := if top.num == 0 then 0x38 else rowScaleUp (top.div ((Frac.ofInt 57344).mul (f32 t)))
    let d := f32Mul (toF32 ((e4m3.decode q).frac e4m3)) t
    let codes := a.map fun x => (convert 7 false false 0 divRne (f32 (f32Div x d))).1
    ((List.range b.k).map fun c => Config.gradSum codes q (batch.map fun e => e.x.getD c 0)) ++ [Config.meanF32 dy]

/-- Draws from the cluster's LFSR, one for each of a list of values, 32 shifts apart. [DESIGN CHOICE: log 82] -/
def withDraws (seed : Nat) (xs : List α) : List (α × Nat) × Nat :=
  let r := xs.foldl (fun (t : List (α × Nat) × Nat) x => let n := lfsrAfter 32 t.2; ((x, n) :: t.1, n)) ([], seed)
  (r.1.reverse, r.2)

/-- A master weight stored in BF16. -/
def storeW (h : HvHyper) (x : Nat × Nat) : Nat :=
  let y := f32 x.1
  (bf16.limit true (decide (y.num < 0)) (bf16.magnitude (if h.srW then divStoch x.2 else divRne) y.num.natAbs y.den)).1

/-- A row of the first moment stored in S8: its scale, its codes, and how many of them saturated under a clamped scale (R429). -/
def storeM (h : HvHyper) (tM : Nat) (row : List (Nat × Nat)) : Nat × List Nat × Nat :=
  let top := (row.map (·.1)).foldl maxMag ⟨0, 1⟩
  let q := if top.num == 0 then 0x38 else rowScaleUp (top.div ((Frac.ofInt 127).mul (f32 tM)))
  let d := f32Mul (toF32 ((e4m3.decode q).frac e4m3)) tM
  let cs := row.map fun x => if (f32 d).num == 0 then (0, false) else convert 2 false true 0 (if h.srM then divStoch x.2 else divRne) (f32 (f32Div x.1 d))
  (q, cs.map (·.1), (cs.filter (·.2)).length)

/-- The codebook index of a second-moment value, and whether it was clamped at 255 (R430, R431). -/
def storeV (h : HvHyper) (tV : Nat) (x : Nat × Nat) : Nat × Bool :=
  if (f32 x.1).num == 0 || (f32 tV).num == 0 then (0, false)
  else
    let u := ((f32 (Config.log2F32 (toWord (f32Div x.1 tV))).toNat).mul (Frac.ofInt 8)).add (Frac.ofInt 255)
    if u.lt ⟨1, 2⟩ then (0, false)
    else
      let n := u.num.natAbs
      let k := if h.srV then (n * 65536 / u.den + x.2 % 65536) / 65536 else divRne n u.den
      (max 1 (min 255 k), decide (255 < k))

/-- One optimiser step: the region after it, the LFSR, and the clamps of the second and first moment; none when a value is not
finite (R428–R431, R446). -/
def trainStep (b : HarvestBlock) (h : HvHyper) (first : Bool) (seed : Nat) (g : HvRegion) (batch : List ExSlot) :
    Option (HvRegion × Nat × Nat × Nat) :=
  let cols := b.k + 1
  let gs := gradients b g batch
  let news := (List.range (headParams b)).map fun i =>
    updateParam h (g.t + 1) (g.w.getD i 0 * 65536) (momentOne g cols i) (momentTwo g i) (gs.getD i 0)
  if news.any (·.isNone) then none
  else
    let xs := news.map fun x => x.getD (0, 0, 0)
    let tM := if first then powAbove (((xs.map (·.2.1)).foldl maxMag ⟨0, 1⟩).div ⟨127, 1⟩) else g.tM
    let tV := if first then powAbove ((xs.map (·.2.2)).foldl maxMag ⟨0, 1⟩) else g.tV
    let ws := withDraws seed (xs.map (·.1))
    let ms := withDraws ws.2 (xs.map (·.2.1))
    let vs := withDraws ms.2 (xs.map (·.2.2))
    let rows := (piecesOf cols (ms.1.length + 1) ms.1).map (storeM h tM)
    let ix := vs.1.map (storeV h tV)
    some ({ w := ws.1.map (storeW h), m := rows.flatMap fun r => r.2.1.map (· % 256), ms := rows.map (·.1), v := ix.map (·.1),
            tM := tM, tV := tV, t := g.t + 1 },
          vs.2, (ix.filter (·.2)).length, (rows.map (·.2.2)).sum)

/-- Where TRAIN stands: the region, the LFSR, the pass offset, steps of the session, clamps, and whether a value ceased to be
finite. -/
structure TrainAt where
  g : HvRegion
  seed : Nat
  off : Nat
  done : Nat
  clipV : Nat := 0
  clipM : Nat := 0
  nan : Bool := false

/-- Up to so many optimiser steps (R428). -/
def trainRun (s : State) (b : HarvestBlock) (cd : Nat) (h : HvHyper) (slots : List Nat) (batch passes : Nat) : Nat → TrainAt → TrainAt
  | 0, a => a
  | n + 1, a =>
    let per := slots.length / max 1 batch
    if a.nan || per == 0 || passes * per ≤ a.done then a
    else
      let i := a.done % per
      let draw := lfsrAfter 32 a.seed
      let off := if i == 0 then draw % slots.length else a.off
      let seed := if i == 0 then draw else a.seed
      let ids := (List.range batch).map fun x => slots.getD ((off + i * batch + x) % slots.length) 0
      match trainStep b h (a.done == 0) seed a.g (ids.map (exRead s b cd)) with
      | none => { a with nan := true }
      | some r => trainRun s b cd h slots batch passes n
          { g := r.1, seed := r.2.1, off := off, done := a.done + 1, clipV := a.clipV + r.2.2.1, clipM := a.clipM + r.2.2.2 }

/-- TRAIN: steps on a copy of the committed region, written back whole (R428). -/
def hvTrain (s : State) (b : HarvestBlock) (cd k steps : Nat) : State :=
  let total := hvWord s b cd hvTotalOff
  let fresh := hvWord s b cd hvSessionOff != s.hv.session.toNat
  let start : TrainAt := { g := hvRegion s b cd, seed := (s.cl cd k).lfsr.toNat, off := hvWord s b cd hvPassOff,
                           done := if fresh then 0 else hvWord s b cd hvDoneOff }
  let a := trainRun s b cd (hvHyper s b) (trainSlots s total) (hvBatch s b) (hvPasses s b) (min steps (hvSteps s b)) start
  let s1 := modCl s cd k fun c => { c with lfsr := toWord a.seed }
  if a.nan then logOnly (modHv s1 fun v => { v with nan := true }) (Die.ofCd cd) k 0 Code.harvestNan 2
  else
    let s2 := modHv s1 fun v => { v with clipV := satAdd 65535 v.clipV a.clipV, clipM := satAdd 65535 v.clipM a.clipM }
    let s3 := hvStore s2 b cd a.g
    hvPut (hvPut (hvPut s3 b cd hvSessionOff s.hv.session.toNat) b cd hvPassOff a.off) b cd hvDoneOff a.done

/-- Passes that the committed region has behind it in the session. -/
def hvPassesDone (s : State) (b : HarvestBlock) (cd : Nat) : Nat :=
  let per := (trainSlots s (hvWord s b cd hvTotalOff)).length / max 1 (hvBatch s b)
  if hvWord s b cd hvSessionOff != s.hv.session.toNat || per == 0 then 0 else hvWord s b cd hvDoneOff / per

/-! ### Validation and adoption (R432, R434) -/

/-- The length of a head segment: weights, row scales, tensor scale, biases. -/
def headLen (b : HarvestBlock) : Nat := b.r * b.k + b.r + 4 + 4 * b.r

/-- The candidate quantised as ADOPT writes it. -/
def candidateHead (b : HarvestBlock) (g : HvRegion) : List Byte := (List.range (headLen b)).map fun i => Config.quantHead b.r b.k g.w i

/-- The segment of a head: 0 is HEAD_A. -/
def headSegment (b : HarvestBlock) (sel : Bool) : Nat := if sel then b.headB else b.headA

/-- The head in service. -/
def servingHead (s : State) (b : HarvestBlock) (cd : Nat) : List Byte :=
  bytesAt s.mem (segment s cd (headSegment b (hvSel s b cd))).base (headLen b)

/-- The class a head predicts: the largest logit, ties to the lower class. -/
def predict (b : HarvestBlock) (head : List Byte) (e : ExSlot) : Nat :=
  ((List.range b.r).foldl (fun (t : Option (Nat × Int)) r =>
    let z := Config.quantLogit head r e.x e.xs
    match t with
    | some p => if p.2 < z then some (r, z) else t
    | none => some (r, z)) none).elim 0 (·.1)

/-- Top-1 in units of 0.01 percentage point. -/
def topOne (b : HarvestBlock) (head : List Byte) (es : List ExSlot) : Nat :=
  let n := max 1 es.length
  (2 * 10000 * (es.filter fun e => predict b head e == e.label).length + n) / (2 * n)

/-- VALIDATE: the candidate and the reference over the validation set; whether it passes (R432, R433). -/
def hvValidate (s : State) (b : HarvestBlock) (cd : Nat) : State :=
  let es := (valSlots s (hvWord s b cd hvTotalOff)).map (exRead s b cd)
  let cand := topOne b (candidateHead b (hvRegion s b cd)) es
  let ref := topOne b (servingHead s b cd) es
  modHv s fun v => { v with cand := cand, ref := ref, passed := some (decide (ref ≤ cand + rnat s 0x00040418)) }

/-- ADOPT: the candidate into the segment that HEAD_SEL does not name, its CRC, and HEAD_SEL inverted (R434). -/
def hvAdopt (s : State) (b : HarvestBlock) (cd : Nat) : State :=
  let sel := !hvSel s b cd
  let g := segment s cd (headSegment b sel)
  let s1 := sramEngine s cd g.base (candidateHead b (hvRegion s b cd)) .engine
  let crc := crc32c (bytesAt s1.mem g.base g.len)
  let s2 := hvPut s1 b cd (hvCrcOff + (if sel then 4 else 0)) crc
  let b0 := (ledgerByte s cd (64 * b.base)).toNat
  let s3 := ledgerLocal s2 cd b.base 0 [BitVec.ofNat 8 (b0 % 16 + b0 / 32 * 32 + (if sel then 16 else 0))]
  modHv s3 fun v => { v with adoptWritten := true }

/-! ### The programs at their entries (R438) -/

/-- Which Harvest program a descriptor of a die is. -/
inductive HvProg where
  | capture | train | validate | adopt
deriving DecidableEq, Repr

def hvProgOf (s : State) (cd desc : Nat) : Option (HarvestBlock × HvProg) :=
  match hvBlock s with
  | some b =>
    if hvCd s != some cd || (s.cdie cd).bank == 2 then none
    else if desc == b.capture then some (b, .capture)
    else if desc == b.train then some (b, .train)
    else if desc == b.validate then some (b, .validate)
    else if desc == b.adopt then some (b, .adopt)
    else none
  | none => none

/-- Does the season let CAPTURE run: in A2 on even epochs only, in A3 and WINTER not (Table 14.7)? -/
def captureSeason (s : State) : Bool :=
  match s.power.season with
  | .summer | .a1 => true
  | .a2 => s.seqr.epoch.toNat % 2 == 0
  | _ => false

/-- A Harvest program at its entry: it works only in the state it belongs to. -/
def hvRun (s : State) (cd k : Nat) (b : HarvestBlock) (p : HvProg) (i : HvInput) : State :=
  match p with
  | .capture => if (s.hv.state == .collect || s.hv.state == .done) && rb s 0x00040400 5 && captureSeason s then hvCapture s b cd i.captured else s
  | .train => if s.hv.state == .train then hvTrain s b cd k i.steps else s
  | .validate => if s.hv.state == .validate then hvValidate s b cd else s
  | .adopt => if s.hv.state == .adopt then hvAdopt s b cd else s

end Sys2Proof.Machine
end

