-- ==== Sys2Proof/Machine/DetOps.lean ====
section
/-! DEFINITION. The detect unit: head blocks, decoding, ranking, suppression, candidate lists (R388–R395). -/
namespace Sys2Proof.Machine

/-! ### The head block (Table 13.1) -/

/-- A level of a head block. -/
structure HeadLevel where
  tensor : Nat
  cluster : Nat
  stride : Nat
  fmt : Nat
  zp : Int
  boxScale : Nat
  logitScale : Nat
  reserved : Nat
  anchors : List (Nat × Nat)

/-- A head block. -/
structure HeadBlock where
  levels : Nat
  anchorMode : Bool
  agnostic : Bool
  obj : Bool
  classes : Nat
  a : Nat
  scoreT : Nat
  iouT : Nat
  keepMax : Nat
  preMax : Nat
  level : List HeadLevel

/-- The bytes of one anchor and of one cell. -/
def HeadBlock.stride (h : HeadBlock) : Nat := 4 + (if h.obj then 1 else 0) + h.classes
def HeadBlock.cell (h : HeadBlock) : Nat := h.a * h.stride

/-- The grid of a level. -/
def HeadLevel.w (l : HeadLevel) : Nat := 4096 / 2 ^ l.stride
def HeadLevel.h (l : HeadLevel) : Nat := 3072 / 2 ^ l.stride

/-- Bytes of a level's tensor. -/
def HeadBlock.bytes (h : HeadBlock) (l : HeadLevel) : Nat := l.w * l.h * h.cell

/-- Reads a level; ZP is signed for S8. -/
def readLevel (rd : Nat → Nat → Nat) (p i : Nat) : HeadLevel :=
  let c := rd (p + 20 + 16 * i) 4
  let f := bits c 11 8
  { tensor := rd (p + 16 + 16 * i) 4, cluster := bits c 1 0, stride := bits c 4 2, fmt := f
    zp := if f == 2 then toSigned 8 (bits c 23 16) else bits c 23 16
    boxScale := rd (p + 24 + 16 * i) 4, logitScale := rd (p + 28 + 16 * i) 4, reserved := bits c 31 24
    anchors := (List.range 8).map fun a => let x := rd (p + 80 + 32 * i + 4 * a) 4; (x % 65536, x / 65536) }

/-- Reads a head block; none when it lies outside Table 13.1 or a level outside its cluster (R417). -/
def readHead (rd : Nat → Nat → Nat) (p : Nat) : Option HeadBlock :=
  let n := rd p 1
  let mode := rd (p + 1) 1
  let h : HeadBlock :=
    { levels := n, anchorMode := mode % 4 == 1, agnostic := nbit mode 2, obj := nbit mode 3, classes := rd (p + 2) 1, a := rd (p + 3) 1
      scoreT := rd (p + 4) 2, iouT := rd (p + 6) 1, keepMax := rd (p + 8) 2, preMax := rd (p + 10) 2
      level := (List.range n).map (readLevel rd p) }
  let ok := decide (1 ≤ n) && decide (n ≤ 4) && decide (mode < 16) && decide (mode % 4 ≤ 1) && decide (1 ≤ h.classes) && decide (h.classes ≤ 32) &&
    decide (1 ≤ h.a) && (if h.anchorMode then decide (h.a ≤ 8) else h.a == 1) && decide (1 ≤ h.iouT) && rd (p + 7) 1 == 0 &&
    decide (1 ≤ h.keepMax) && decide (h.keepMax ≤ 256) && decide (1 ≤ h.preMax) && decide (h.preMax ≤ 4096) && rd (p + 12) 4 == 0 &&
    ((List.range 48).all fun i => rd (p + 208 + i) 1 == 0) && decide (h.cell ≤ 256) && decide (p + 256 ≤ 0xC00000) &&
    h.level.all fun l => decide (2 ≤ l.stride) && decide (l.stride ≤ 7) && (l.fmt == 1 || l.fmt == 2 || l.fmt == 6) && l.reserved == 0 &&
      decide (l.tensor + h.bytes l ≤ 0xC00000)
  if ok then some h else none

/-! ### Scores (R389) -/

/-- e^(1/64) in units of 2^-128. -/
def expStep : Nat :=
  ((List.range 24).foldl (fun (t : Nat × Nat) k => (t.1 + t.2, t.2 / (64 * (k + 1)))) (0, 2 ^ 128)).1

/-- e^(n/64) in units of 2^-128. -/
def expNth (n : Nat) : Nat := n.repeat (fun e => e * expStep / 2 ^ 128) (2 ^ 128)

/-- Entry i of the sigmoid table: 65,535 ÷ (1 + exp(−(2i − 1023)/64)), rounded half up. [DESIGN CHOICE: log 72] -/
def sigmoid (i : Nat) : Nat :=
  let f := 2 ^ 128
  let e := expNth ((2 * (i : Int) - 1023).natAbs)
  let num := 65535 * (if 1023 < 2 * i then e else f)
  (2 * num + (e + f)) / (2 * (e + f))

/-- A code's value in units of its level's scale. -/
def codeValue (l : HeadLevel) (code : Nat) : Frac :=
  if l.fmt == 6 then (match e4m3.decode code with | .nan => f32 (Config.nanTerm code) | v => v.frac e4m3)
  else Frac.ofInt (intOf l.fmt code - l.zp)

/-- The score of a logit code. -/
def scoreOf (l : HeadLevel) (code : Nat) : Nat :=
  let z := ((codeValue l code).mul (f32 l.logitScale)).add ⟨16, 1⟩
  sigmoid (clampInt 0 1023 ((z.num * 32) / (z.den : Int))).toNat

/-! ### Candidates -/

/-- A candidate: box in 1/8 pixel, score, class, level, anchor and cell. -/
structure Cand where
  x0 : Nat
  y0 : Nat
  x1 : Nat
  y1 : Nat
  score : Nat
  cls : Nat
  level : Nat
  anchor : Nat
  cell : Nat
deriving DecidableEq, Repr, Inhabited

/-- A coordinate stored: × 8, to nearest with ties to even, clipped. -/
def coord (top : Int) (x : Nat) : Nat := (clampInt 0 top ((f32 x).mul ⟨8, 1⟩).rne).toNat

/-- A term clamped to a range, in FP32. -/
def clamp32 (lo hi : Int) (x : Nat) : Nat :=
  if (f32 x).lt (Frac.ofInt lo) then toF32 (Frac.ofInt lo) else if (Frac.ofInt hi).lt (f32 x) then toF32 (Frac.ofInt hi) else x

/-- The box of a cell and anchor from its four terms, before storing (R390). [DEDUCED: log 77] -/
def boxOf (h : HeadBlock) (l : HeadLevel) (gx gy a : Nat) (t : List Nat) : List Nat :=
  let s := toF32 ⟨2 ^ l.stride, 1⟩
  let half (g : Nat) : Nat := toF32 ⟨2 * g + 1, 2⟩
  let term (i : Nat) : Nat := t.getD i 0
  if h.anchorMode then
    let cx := f32Mul (f32Add (half gx) (term 0)) s
    let cy := f32Mul (f32Add (half gy) (term 1)) s
    let size (anchor i : Nat) : Nat :=
      f32Mul (f32Mul (toF32 ⟨anchor, 1⟩) (Config.expF32 (toWord (clamp32 (-8) 4 (term i)))).toNat) (toF32 ⟨1, 2⟩)
    let w := size (l.anchors.getD a (0, 0)).1 2
    let hh := size (l.anchors.getD a (0, 0)).2 3
    [f32Sub cx w, f32Sub cy hh, f32Add cx w, f32Add cy hh]
  else
    let pos (i : Nat) : Nat := f32Mul (if (f32 (term i)).num < 0 then 0 else term i) s
    let cx := f32Mul (half gx) s
    let cy := f32Mul (half gy) s
    [f32Sub cx (pos 0), f32Sub cy (pos 1), f32Add cx (pos 2), f32Add cy (pos 3)]

/-- The class with the highest score, the lower index winning a tie. -/
def bestClass (scores : List Nat) : Nat × Nat :=
  scores.zipIdx.foldl (fun b x => if b.2 < x.1 then (x.2, x.1) else b) (0, scores.headD 0)

/-- What a cell and anchor give: a candidate, or a box dropped as zero-area. -/
def candOf (h : HeadBlock) (l : HeadLevel) (lv gx gy a : Nat) (byte : Nat → Nat) : Option (Option Cand) :=
  let cell := gy * l.w + gx
  let at_ := cell * h.cell + a * h.stride
  let skip := if h.obj then 5 else 4
  let c := bestClass ((List.range h.classes).map fun k => scoreOf l (byte (at_ + skip + k)))
  let score := if h.obj then (scoreOf l (byte (at_ + 4)) * c.2 + 32768) / 65536 else c.2
  if score < h.scoreT then none
  else
    let t := (List.range 4).map fun i => toF32 ((codeValue l (byte (at_ + i))).mul (f32 l.boxScale))
    let b := boxOf h l gx gy a t
    let x0 := coord 32768 (b.getD 0 0)
    let y0 := coord 24576 (b.getD 1 0)
    let x1 := coord 32768 (b.getD 2 0)
    let y1 := coord 24576 (b.getD 3 0)
    some (if x1 ≤ x0 || y1 ≤ y0 then none
      else some { x0 := x0, y0 := y0, x1 := x1, y1 := y1, score := score, cls := c.1, level := lv, anchor := a, cell := cell })

/-- The candidates of every level in the order level, cell, anchor. -/
def allCands (h : HeadBlock) (byte : HeadLevel → Nat → Nat) : List (Option Cand) :=
  h.level.zipIdx.flatMap fun l => (List.range l.1.h).flatMap fun gy => (List.range l.1.w).flatMap fun gx =>
    (List.range h.a).filterMap fun a => candOf h l.1 l.2 gx gy a (byte l.1)

/-- Ranking by score, highest first, ties in the order given (R391). -/
def rankCands (cs : List Cand) : List Cand := cs.mergeSort fun a b => decide (b.score ≤ a.score)

/-- Intersection and union areas. -/
def interArea (a b : Cand) : Nat :=
  (min a.x1 b.x1 - max a.x0 b.x0) * (min a.y1 b.y1 - max a.y0 b.y0)
def areaOf (a : Cand) : Nat := (a.x1 - a.x0) * (a.y1 - a.y0)
def unionArea (a b : Cand) : Nat := areaOf a + areaOf b - interArea a b

/-- Suppression in rank order: the kept candidates, and whether KEEP_MAX was met with one more to keep (R392). -/
def suppress (h : HeadBlock) (cs : List Cand) : List Cand × Bool :=
  cs.foldl (fun (t : List Cand × Bool) c =>
    if h.keepMax ≤ t.1.length then (t.1, true)
    else if t.1.any fun k => (h.agnostic || k.cls == c.cls) && decide (h.iouT * unionArea k c < 256 * interArea k c) then t
    else (t.1 ++ [c], t.2)) ([], false)

/-- The candidate list in bytes (Table 13.2). -/
def listBytes (epoch : Word) (pre : Nat) (kept : List Cand) (flags : Nat) : List Byte :=
  leBytes 4 epoch.toNat ++ leBytes 2 pre ++ leBytes 2 kept.length ++ leBytes 1 flags ++ List.replicate 55 0 ++
  kept.flatMap fun c => leBytes 2 c.x0 ++ leBytes 2 c.y0 ++ leBytes 2 c.x1 ++ leBytes 2 c.y1 ++ leBytes 2 c.score ++
    leBytes 1 c.cls ++ leBytes 1 (c.level + 4 * c.anchor) ++ leBytes 4 c.cell

/-! ### A detect entry (R302, R394, R395) -/

/-- The lowest cluster that a descriptor names. [DEDUCED: log 77] -/
def lowestOf (g : GroupDesc) : Nat := (groupNamed g).headD 0

/-- The list is written where the descriptor's INBUF says, and the entry ends. [DEDUCED: log 77] -/
def writeList (s : State) (cd : Nat) (g : GroupDesc) (bs : List Byte) : State :=
  let s1 := sramEngine s cd (sramBase cd (lowestOf g) + g.inbuf) bs .engine
  unitDone (modDet s1 cd fun d => { d with state := .idle, lists := d.lists + 1 }) (Die.ofCd cd) 5

/-- An entry that ends in an error with an empty list; the epoch is PARTIAL (R417). -/
def detectFails (s : State) (cd : Nat) (g : GroupDesc) (err : Nat) : State :=
  markPartial (writeList (modDet s cd fun d => { d with lastErr := err, keptNow := 0, rankedNow := 0 }) cd g (listBytes s.seqr.epoch 0 [] 0)) (Die.ofCd cd)

/-- The steps of an entry (R394). -/
def detectSteps (h : HeadBlock) (n kept : Nat) : Nat :=
  20000 + (h.level.map fun l => l.h * l.w * ((h.cell + 63) / 64)).sum + n + (n * (n - 1) + 7) / 8 + (64 + 16 * kept + 63) / 64

/-- Decodes, ranks, suppresses and writes the list (R388–R394). [DEDUCED: log 77] -/
def detectRun (s : State) (cd : Nat) (g : GroupDesc) : State :=
  let rd (k off n : Nat) : Nat := memNat s (sramBase cd k + off) n
  match readHead (rd (lowestOf g)) g.prog with
  | none => logOnly (detectFails s cd g 1) (Die.ofCd cd) 5 0 Code.headBad 2
  | some h =>
    let bad := (s.fab cd).poison.find? fun p =>
      h.level.any fun l => let a := sramBase cd l.cluster + l.tensor; decide (a < p + 8) && decide (p < a + h.bytes l)
    match bad with
    | some p => logOnly (detectFails s cd g 2) (Die.ofCd cd) 5 0 Code.memUncorr 2 (args4 [p])
    | none =>
      let all := allCands h fun l i => (byteAt s.mem (sramBase cd l.cluster + l.tensor + i)).toNat
      let cs := rankCands (all.filterMap id)
      let flat := (all.filter (·.isNone)).length
      let pre := cs.take h.preMax
      let r := suppress h pre
      let ovr := decide (h.preMax < cs.length)
      let s1 := modDet s cd fun d => { d with
        preOverflow := ovr, keepOverflow := r.2, lastErr := 0, steps := detectSteps h pre.length r.1.length
        rankedNow := pre.length, keptNow := r.1.length, zeroNow := satAdd 65535 d.zeroNow flat
        beyondNow := satAdd 65535 d.beyondNow (cs.length - pre.length) }
      writeList s1 cd g (listBytes s.seqr.epoch pre.length r.1 ((if ovr then 1 else 0) + (if r.2 then 2 else 0)))

/-- A running or waiting entry ends with KEPT 0 and ABORTED (R304, R416). -/
def detectAbort (s : State) (cd : Nat) : State :=
  match groupOf s cd (s.detUnit cd).desc with
  | some g => writeList (modDet s cd fun d => { d with lastErr := 3, keptNow := 0, rankedNow := 0 }) cd g (listBytes s.seqr.epoch 0 [] 4)
  | none => unitDone s (Die.ofCd cd) 5

/-- Does a group with FLAGS.HEAD still run or wait on the die (R395)? -/
def headBusy (s : State) (cd : Nat) : Bool :=
  (List.range 4).any fun k =>
    let u := unitOf s (Die.ofCd cd) k
    (u.busy.toList ++ u.queued.toList).any fun l => l.act == 0x10 && (match groupOf s cd l.arg.toNat with | some g => nbit g.flags 0 | none => false)

end Sys2Proof.Machine
end

