-- ==== Sys2Proof/Machine/TrackOps.lean ====
section
/-! DEFINITION. The tracker: its block, the track table in the ledger, matching, states and output items (R396–R401). -/
namespace Sys2Proof.Machine

/-! ### The tracker block (Table 13.3) -/

structure TrackBlock where
  base : Nat
  max : Nat
  confirmHits : Nat
  maxMisses : Nat
  gateIou : Nat
  gateCos : Nat
  wIou : Nat
  alpha : Nat
  gatePeer : Nat
  newT : Nat
  mask : Nat
  emb : Nat
  cand : Nat
  out : Nat
  rest : Nat

def readTracker (rd : Nat → Nat → Nat) (p : Nat) : TrackBlock :=
  { base := rd p 2, max := rd (p + 2) 1, confirmHits := rd (p + 3) 1, maxMisses := rd (p + 4) 1, gateIou := rd (p + 5) 1,
    gateCos := rd (p + 6) 1, wIou := rd (p + 7) 1, alpha := rd (p + 8) 1, gatePeer := rd (p + 9) 1, newT := rd (p + 10) 2,
    mask := rd (p + 12) 4, emb := rd (p + 16) 4, cand := rd (p + 20) 4, out := rd (p + 24) 4, rest := rd (p + 28) 4 }

/-- Is the block valid, with its table inside the ledger (R417)? -/
def TrackBlock.ok (b : TrackBlock) : Bool :=
  decide (1 ≤ b.max) && (b.confirmHits == 1 || b.confirmHits == 2) && decide (1 ≤ b.maxMisses) && b.rest == 0 &&
  decide (b.base + 1 + 2 * b.max ≤ 2048) && decide (b.emb ≤ 0xC00000) && decide (b.cand ≤ 0xC00000) && decide (b.out ≤ 0xC00000)

/-! ### The track table (Table 13.4) -/

/-- A track entry; an empty one has ID 0. -/
structure Track where
  id : Nat := 0
  state : Nat := 0
  cls : Nat := 0
  hits : Nat := 0
  misses : Nat := 0
  box : Cand := default
  vx : Int := 0
  vy : Int := 0
  first : Nat := 0
  last : Nat := 0
  score : Nat := 0
  emb : List Byte := List.replicate 97 0
  linked : Bool := false
deriving Inhabited

/-- A committed entry of the table; with a TAG that is not the running image's every entry is empty (R397). -/
def readTrack (s : State) (cd : Nat) (b : TrackBlock) (e : Nat) : Track :=
  let w (off n : Nat) : Nat := ledgerWord s cd (b.base + 1 + 2 * e) off n
  if ledgerWord s cd b.base 8 4 != runningTag s || w 0 4 == 0 then {}
  else
    { id := w 0 4, state := w 4 1, cls := w 5 1, hits := w 6 1, misses := w 7 1
      box := { x0 := w 8 2, y0 := w 10 2, x1 := w 12 2, y1 := w 14 2, score := w 28 2, cls := w 5 1, level := 0, anchor := 0, cell := 0 }
      vx := toSigned 16 (w 16 2), vy := toSigned 16 (w 18 2), first := w 20 4, last := w 24 4, score := w 28 2
      emb := (List.range 96).map (fun i => ledgerByte s cd (64 * (b.base + 1 + 2 * e) + 32 + i)) ++ [BitVec.ofNat 8 (w 30 1)]
      linked := nbit (w 31 1) 0 }

/-- An entry in bytes. -/
def trackBytes (t : Track) : List Byte :=
  if t.id == 0 then List.replicate 128 0
  else
    leBytes 4 t.id ++ leBytes 1 t.state ++ leBytes 1 t.cls ++ leBytes 1 t.hits ++ leBytes 1 t.misses ++
    leBytes 2 t.box.x0 ++ leBytes 2 t.box.y0 ++ leBytes 2 t.box.x1 ++ leBytes 2 t.box.y1 ++
    leBytes 2 (ofSigned 16 t.vx) ++ leBytes 2 (ofSigned 16 t.vy) ++ leBytes 4 t.first ++ leBytes 4 t.last ++ leBytes 2 t.score ++
    [t.emb.getD 96 0] ++ leBytes 1 (if t.linked then 1 else 0) ++ t.emb.take 96

/-- Writes an entry that is no longer what the ledger holds (R61). -/
def putTrack (s : State) (cd : Nat) (b : TrackBlock) (e : Nat) (t : Track) : State :=
  if trackBytes t == ledgerBytes s cd (b.base + 1 + 2 * e) 128 then s else ledgerStore s cd (b.base + 1 + 2 * e) 0 (trackBytes t)

/-! ### Candidates with their embeddings -/

/-- The candidates of the list at CAND when it is the epoch's (R317, R393). -/
def readCands (s : State) (cd k : Nat) (b : TrackBlock) : List (Cand × List Byte) :=
  let a := sramBase cd k + b.cand
  if toWord (memNat s a 4) != s.seqr.epoch || nbit (memNat s (a + 8) 1) 2 then []
  else (List.range (min 256 (memNat s (a + 6) 2))).map fun i =>
    let e := a + 64 + 16 * i
    let w (off n : Nat) : Nat := memNat s (e + off) n
    ({ x0 := w 0 2, y0 := w 2 2, x1 := w 4 2, y1 := w 6 2, score := w 8 2, cls := w 10 1, level := w 11 1 % 4, anchor := w 11 1 / 4 % 8, cell := w 12 4 },
     bytesAt s.mem (sramBase cd k + b.emb + 128 * i) 97)

/-- The epochs since a track was last matched, modulo 2^32. -/
def epochsSince (s : State) (t : Track) : Nat := (s.seqr.epoch - toWord t.last).toNat

/-- The predicted box, each coordinate within 0 to 65,535 (R398). [DEDUCED: log 79] -/
def predict8 (s : State) (t : Track) : Cand :=
  let d := epochsSince s t
  let mv (x : Nat) (v : Int) : Nat := (clampInt 0 65535 ((x : Int) + v * d)).toNat
  { t.box with x0 := mv t.box.x0 t.vx, x1 := mv t.box.x1 t.vx, y0 := mv t.box.y0 t.vy, y1 := mv t.box.y1 t.vy }

/-- IoU in FP32. [DEDUCED: log 79] -/
def iou32 (a b : Cand) : Nat := if unionArea a b == 0 then 0 else toF32 ⟨interArea a b, unionArea a b⟩

/-- n/256 in FP32. -/
def over256 (n : Nat) : Nat := toF32 ⟨n, 256⟩

/-- A gated pair with its cost (R398 steps 2, 3). -/
structure Pair where
  cost : Nat
  entry : Nat
  cand : Nat

/-- The gated pairs of an entry. -/
def pairsOf (b : TrackBlock) (e : Nat) (t : Track) (p : Cand) (cs : List (Cand × List Byte)) : List Pair :=
  cs.zipIdx.filterMap fun c =>
    if t.id == 0 || c.1.1.cls != t.cls || !nbit b.mask c.1.1.cls then none
    else
      let i := iou32 p c.1.1
      let x := Config.cosine t.emb c.1.2
      let ge (v g : Nat) : Bool := !((f32 v).lt ⟨g, 256⟩)
      if !(ge i b.gateIou || ge x b.gateCos) then none
      else
        let w := over256 b.wIou
        some ⟨f32Add (f32Mul w (f32Sub one32 i)) (f32Mul (f32Sub one32 w) (f32Sub one32 x)), e, c.2⟩

/-- Greedy matching in ascending cost; ties to the lower entry, then the lower candidate (R398 step 4). -/
def greedy (ps : List Pair) : List (Nat × Nat) :=
  let le (a b : Pair) : Bool :=
    let x := f32 a.cost
    let y := f32 b.cost
    x.lt y || (!(y.lt x) && (decide (a.entry < b.entry) || (a.entry == b.entry && decide (a.cand ≤ b.cand))))
  (ps.mergeSort le).foldl (fun m p => if m.any fun q => q.1 == p.entry || q.2 == p.cand then m else m ++ [(p.entry, p.cand)]) []

/-- A change over so many epochs, to nearest with ties to even, saturated; twice the change is given (R398 step 5). -/
def velocityOf (twice : Int) (n : Nat) : Int :=
  if n == 0 then Config.velocity twice else clampInt (-32768) 32767 (Frac.mk twice (2 * n)).rne

/-- A matched track (R398 step 5, R399). [DEDUCED: log 79] -/
def matchTrack (s : State) (b : TrackBlock) (t : Track) (c : Cand × List Byte) : Track :=
  let n := epochsSince s t
  let mid (lo hi lo' hi' : Nat) : Int := ((lo' + hi' : Nat) : Int) - (lo + hi : Nat)
  { t with
    box := c.1, score := c.1.score
    vx := velocityOf (mid t.box.x0 t.box.x1 c.1.x0 c.1.x1) n, vy := velocityOf (mid t.box.y0 t.box.y1 c.1.y0 c.1.y1) n
    hits := min 255 (t.hits + 1), misses := 0, last := s.seqr.epoch.toNat, state := 2
    emb := (List.range 97).map (Config.blend b.alpha t.emb c.2) }

/-- An output item (Table 16.5). -/
def itemBytes (id cls state flags kind : Nat) (box : Cand) (vx vy : Int) (score : Nat) (peer : List Byte) : List Byte :=
  leBytes 4 id ++ leBytes 1 cls ++ leBytes 1 state ++ leBytes 1 flags ++ leBytes 1 kind ++
  leBytes 2 box.x0 ++ leBytes 2 box.y0 ++ leBytes 2 box.x1 ++ leBytes 2 box.y1 ++ leBytes 2 (ofSigned 16 vx) ++ leBytes 2 (ofSigned 16 vy) ++
  leBytes 2 score ++ peer

/-- No peer. -/
def noPeer : List Byte := List.replicate 10 0

/-- A live track's item; NEW marks the first report of it. [DEDUCED: log 79] -/
def liveItem (t : Track) (box : Cand) (isNew : Bool) (peer : List Byte) : List Byte :=
  itemBytes t.id t.cls t.state ((if t.linked then 1 else 0) + (if isNew then 2 else 0)) 0 box t.vx t.vy t.score peer

/-- An unmatched track (R398 step 6, R399): the entry after, and its item. [DEDUCED: log 79] -/
def missTrack (s : State) (b : TrackBlock) (t : Track) : Track × List Byte :=
  let p := predict8 s t
  let n := min 255 (t.misses + 1)
  if t.state == 1 then ({}, itemBytes t.id t.cls 1 0 1 t.box t.vx t.vy t.score noPeer)
  else
    let t1 := { t with misses := n, state := 3 }
    if t.state == 3 && b.maxMisses ≤ n then ({}, itemBytes t.id t.cls 4 (if t.linked then 1 else 0) 0 p t.vx t.vy t.score noPeer)
    else (t1, liveItem t1 p false noPeer)

/-! ### New tracks (R398 step 7, R400) -/

/-- The best peer entry of a class: its cosine, MAC and TRACK_ID (R398, R518). -/
def bestPeer (s : State) (cd cls : Nat) (emb : List Byte) : Option (Nat × List Byte) :=
  match imageOf s with
  | none => none
  | some m =>
    if (peerDieOf s m).bind (·.cdIdx) != some cd then none
    else
      let item (e : Nat) : List Byte := ledgerBytes s cd (m.peerBase + 2 * e) 128
      ((List.range m.peerSlots).filter fun e =>
        let x := item e
        !((x.take 4 ++ (x.drop 24).take 6).all (· == 0)) && leAt x 4 1 == cls).foldl (fun best e =>
          let x := item e
          let c := Config.cosine (x.drop 32 ++ [x.getD 5 0]) emb
          let me := some (c, (x.drop 24).take 6 ++ x.take 4)
          match best with
          | some o => if (f32 o.1).lt (f32 c) then me else best
          | none => me) none

/-- The entry a new track takes: an empty one, else the COASTING entry with the most misses (R400). -/
def entryFor (ts : List Track) : Option Nat :=
  match ts.zipIdx.find? fun t => t.1.id == 0 with
  | some t => some t.2
  | none => (ts.zipIdx.foldl (fun (best : Option (Track × Nat)) t =>
      if t.1.state != 3 then best else match best with
        | some o => if o.1.misses < t.1.misses then some t else best
        | none => some t) none).map (·.2)

/-- The next ID that is not 0 and that no live entry holds. -/
def nextIdFrom (ts : List Track) : Nat → Nat → Nat
  | 0, n => n
  | fuel + 1, n => if n == 0 || ts.any fun t => t.id == n then nextIdFrom ts fuel ((n + 1) % 2 ^ 32) else n

/-- What the tracker has worked out so far. -/
structure TrackRun where
  ts : List Track
  items : List (List Byte)
  next : Nat
  started : Nat := 0
  ended : Nat := 0
  drops : Nat := 0

/-- A candidate that starts a track. -/
def startTrackOf (s : State) (cd : Nat) (b : TrackBlock) (r : TrackRun) (c : Cand × List Byte) : TrackRun :=
  match entryFor r.ts with
  | none => { r with drops := r.drops + 1 }
  | some e =>
    let id := nextIdFrom r.ts 257 r.next
    let peer := (bestPeer s cd c.1.cls c.2).filter fun p => !((f32 p.1).lt ⟨b.gatePeer, 256⟩)
    let out := r.ts.getD e {}
    let t : Track := { id := id, state := if b.confirmHits == 1 then 2 else 1, cls := c.1.cls, hits := 1, box := c.1, first := s.seqr.epoch.toNat,
                       last := s.seqr.epoch.toNat, score := c.1.score, emb := c.2, linked := peer.isSome }
    { r with
      ts := r.ts.set e t, next := (id + 1) % 2 ^ 32, started := r.started + 1, ended := if out.id != 0 then r.ended + 1 else r.ended
      items := r.items ++ [liveItem t c.1 true (match peer with | some p => p.2 | none => noPeer)] }

/-- The whole run over the committed table. -/
def trackAll (s : State) (cd : Nat) (b : TrackBlock) (cs : List (Cand × List Byte)) : TrackRun :=
  let old := (List.range b.max).map (readTrack s cd b)
  let ms := greedy (old.zipIdx.flatMap fun t => pairsOf b t.2 t.1 (predict8 s t.1) cs)
  let step (r : TrackRun) (t : Track × Nat) : TrackRun :=
    if t.1.id == 0 then { r with ts := r.ts ++ [t.1] }
    else match ms.find? fun m => m.1 == t.2 with
      | some m => let n := matchTrack s b t.1 (cs.getD m.2 default); { r with ts := r.ts ++ [n], items := r.items ++ [liveItem n n.box (t.1.state == 1) noPeer] }
      | none => let x := missTrack s b t.1
        { r with ts := r.ts ++ [x.1], items := r.items ++ [x.2], ended := if x.1.id == 0 then r.ended + 1 else r.ended }
  let r0 := old.zipIdx.foldl step { ts := [], items := [], next := ledgerWord s cd b.base 0 4 }
  (cs.zipIdx.filter fun c => !(ms.any fun m => m.2 == c.2) && nbit b.mask c.1.1.cls && decide (b.newT ≤ c.1.1.score)).foldl
    (fun r c => startTrackOf s cd b r c.1) r0

/-- The header line after a run: NEXT_ID, COUNT, TAG, LAST_EPOCH, FULL_DROPS. -/
def headerBytes (s : State) (cd : Nat) (b : TrackBlock) (r : TrackRun) : List Byte :=
  let drops := if ledgerWord s cd b.base 8 4 == runningTag s then ledgerWord s cd b.base 16 4 else 0
  leBytes 4 r.next ++ leBytes 2 ((r.ts.filter fun t => t.id != 0).length) ++ leBytes 2 0 ++ leBytes 4 (runningTag s) ++
  leBytes 4 s.seqr.epoch.toNat ++ leBytes 4 (drops + r.drops) ++ List.replicate 44 0

/-- The items leave as RECORD parcels, two to a parcel (R301, R401, R498). [DEDUCED: log 79] -/
def sendItems (s : State) (cd : Nat) (g : GroupDesc) (items : List (List Byte)) : State :=
  let ps := piecesOf 2 (items.length + 1) items
  ps.zipIdx.foldl (fun t p => sendParcel t (Die.ofCd cd)
    { src := 0, dst := g.outDst % 16, vc := 1, cls := 4, kind := 0, tag := g.outTag, last := p.2 + 1 == ps.length, payload := p.1.flatten }) s

/-- The tracker program at its entry on a cluster; none when its block is invalid (R396–R401). [DESIGN CHOICE: log 78] -/
def trackRun (s : State) (cd k : Nat) (g : GroupDesc) : Option State :=
  let b := readTracker (fun off n => memNat s (sramBase cd k + off) n) g.inbuf
  if !b.ok then none
  else
    let cs := if (s.cdie cd).aborted then [] else readCands s cd k b
    let r := trackAll s cd b cs
    let s1 := r.ts.zipIdx.foldl (fun t e => putTrack t cd b e.2 e.1) s
    let s2 := ledgerStore s1 cd b.base 0 (headerBytes s cd b r)
    let s3 := sramEngine s2 cd (sramBase cd k + b.out) r.items.flatten .engine
    let s4 := modDet s3 cd fun d => { d with
      liveNow := (r.ts.filter fun t => t.id != 0).length % 256, startedNow := min 255 (d.startedNow + r.started),
      endedNow := min 255 (d.endedNow + r.ended), fullNow := min 255 (d.fullNow + r.drops), nextIdNow := toWord r.next }
    some (if g.outKind == 3 then sendItems s4 cd g r.items else s4)

end Sys2Proof.Machine
end

