-- ==== Sys2Proof/Machine/Compute.lean ====
section
/-! DEFINITION. The commands of the compute dies: groups, streams, halos, aborts and cluster faults (chapters 10–12). -/
namespace Sys2Proof.Machine

/-! ### Entries on clusters (R300, R310, R314) -/

/-- Can a cluster take an entry? [DESIGN CHOICE: log 69] -/
def clusterUsable (c : Cluster) : Bool := !(c.state == .off || c.state == .disabled || c.state == .failed)

/-- Is an entry running on a cluster? -/
def clusterBusy (c : Cluster) : Bool := c.state == .running || c.state == .waitInput || c.state == .waitOutput

/-- A cluster's entry ends: its busy time and lateness enter the epoch's counts. -/
def endEntry (s : State) (cd k err : Nat) : State :=
  unitDone (modCl s cd k fun c => { c with
    state := .idle, lastErr := err, busyNow := c.busyNow + (s.now - c.started), lateNow := max c.lateNow c.late
    waitNow := if c.state == .waitInput || c.state == .waitOutput then c.waitNow + (s.now - c.waitFrom) else c.waitNow }) (Die.ofCd cd) k

/-- A cluster begins an entry of a descriptor. -/
def beginEntry (s : State) (cd k desc band : Nat) (l : Launched) : State :=
  modCl s cd k fun c => { c with
    state := .running, group := desc, band := band, started := s.now, late := s.now - l.arrived
    lateNow := max c.lateNow (s.now - l.arrived), lastErr := 0 }

/-- The RUN_GROUP action on a cluster (R300, R304, R310). -/
def startGroup (s : State) (d : Die) (k : Nat) (l : Launched) : State :=
  match d.cdIdx with
  | none => s
  | some cd =>
    if !clusterUsable (s.cl cd k) then missEntry (unitDone s d k) d
    else match groupOf s cd l.arg.toNat with
      | some g => if (s.cdie cd).aborted then unitDone s d k else beginEntry s cd k g.index g.bandFirst l
      | none => unitDone s d k

/-- The TRACK action runs now, unless the detect unit still works on its list (R303, R304). [DESIGN CHOICE: log 78] -/
def trackNow (s : State) (cd k : Nat) (g : GroupDesc) : State :=
  if (s.detUnit cd).state != .idle && (s.detUnit cd).state != .off then modCl s cd k fun c => { c with state := .waitInput, waitFrom := s.now }
  else match trackRun s cd k g with
    | some t => endEntry t cd k 0
    | none => jobFails s cd k ⟨2, none, 0⟩

/-- The TRACK action on a cluster. [DESIGN CHOICE: log 78] -/
def startTrack (s : State) (d : Die) (k : Nat) (l : Launched) : State :=
  match d.cdIdx with
  | none => s
  | some cd =>
    if !clusterUsable (s.cl cd k) then missEntry (unitDone s d k) d
    else match groupOf s cd l.arg.toNat with
      | some g => if (s.cdie cd).aborted && !nbit g.flags 1 then unitDone s d k else trackNow (beginEntry s cd k g.index g.bandFirst l) cd k g
      | none => unitDone s d k

/-- The units that RUN_GROUP and TRACK accept (Table 2.4). -/
def clusterUnit (u : Nat) : Bool := decide (u < 4) || u == 0xF

/-- RUN_GROUP (R47, R54, R300). -/
def execRunGroup (f : SbFrame) (s : State) : Res := onLaunch s f 0x10 Die.isCd clusterUnit startGroup

/-- TRACK (R47, R303, R396–R401). -/
def execTrack (f : SbFrame) (s : State) : Res := onLaunch s f 0x12 Die.isCd clusterUnit startTrack

/-! ### The input of a band (R299, R366–R370) -/

/-- What a band's halo allows: nothing to wait for, held rows until the commit, or waiting; a version too short is dropped. -/
inductive HaloNeed where
  | ready | held | wait | short (version : Nat)
deriving DecidableEq, Repr

/-- The halo of the next band that a group's first layer consumes (R366, R368, R370, R385). [DESIGN CHOICE: log 67] -/
def haloNeed (s : State) (cd : Nat) (g : GroupDesc) (l : Layer) (band : Nat) : HaloNeed :=
  let c := s.cdie cd
  if !l.haloConsume || l.haloRows == 0 || 23 ≤ band then .ready
  else if (match inBandOf c g.index (band + 1) with | some b => b.last | none => false) then .ready
  else
    let mine := c.halos.filter fun h => h.src == g.inSrc % 16 && h.tag == l.haloTag && h.band == band + 1 && !h.revoked
    match (mine.map (·.version)).max? with
    | none => .wait
    | some v => match mine.find? fun h => h.version == v with
      | none => .wait
      | some h =>
        if !h.last then .wait
        else if h.bytes < l.haloRows * mapBytes l.fmtIn l.win l.cin then .short v
        else if h.committed then .ready else .held

/-- Clusters wait for input. [DESIGN CHOICE: log 67] -/
def waitFor (s : State) (cd : Nat) (ks : List Nat) : State :=
  ks.foldl (fun t k => modCl t cd k fun c => if c.state == .running then { c with state := .waitInput, waitFrom := s.now } else c) s

/-- Clusters run again. -/
def runAgain (s : State) (cd : Nat) (ks : List Nat) : State :=
  ks.foldl (fun t k => modCl t cd k fun c =>
    if c.state == .waitInput || c.state == .waitOutput then { c with state := .running, waitNow := c.waitNow + (s.now - c.waitFrom) } else c) s

/-- Has the band's input arrived (R299, R300)? -/
def bandIn (s : State) (cd : Nat) (g : GroupDesc) (band : Nat) : Bool :=
  !(g.inKind == 0 || g.inKind == 1) || (match inBandOf (s.cdie cd) g.index band with | some b => b.last | none => false)

/-! ### The output of a band (R301, R366–R372) -/

/-- The bytes of so many output rows of a job from a map row on, those that the job made. -/
def outRowsOf (s : State) (cd k : Nat) (l : Layer) (j : LayerJob) (first n : Nat) : List (List Byte) :=
  let pitch := mapBytes l.fmtOut l.wOut l.cout
  ((List.range n).map (· + first)).filterMap fun y =>
    if j.outRow ≤ y && y < j.outRow + j.outRows then some (bytesAt s.mem (sramBase cd k + j.output + (y - j.outRow) * pitch) pitch) else none

/-- The entry of the launch table that a cluster runs. [DESIGN CHOICE: log 66] -/
def entryNow (s : State) (cd k : Nat) : Nat := match (unitOf s (Die.ofCd cd) k).busy with | some b => b.entry | none => 0

/-- The halo rows of a producer's band go out (R366, R367, R375). -/
def produceHalo (s : State) (cd k : Nat) (g : GroupDesc) (l : Layer) (j : LayerJob) (band : Nat) : State :=
  if !l.haloProduce || l.haloRows == 0 || band == 0 || g.outKind != 0 || !haloAgreed s cd (g.outDst % 16) then s
  else
    let rows := outRowsOf s cd k l j (band * (l.hOut / 24)) l.haloRows
    let n := compBits s cd g l.compMode l.fmtOut (mapBytes l.fmtOut l.wOut l.cout)
    sendHalo s cd g l.haloTag band n l.fmtOut (entryNow s cd k) l.haloSpec rows

/-- The final band leaves the group: COMMIT for its halo, then the rows (R301, R369, R371). [DESIGN CHOICE: log 67] -/
def sendBand (s : State) (cd k : Nat) (g : GroupDesc) (l : Layer) (j : LayerJob) (band : Nat) : State :=
  let h := if l.isGlobal then 1 else l.hOut / 24
  let rows := outRowsOf s cd k l j (if l.isGlobal then 0 else band * h) h
  match g.outKind with
  | 0 =>
    let s1 := if l.haloProduce then commitTx s cd g l.haloTag band (entryNow s cd k) else s
    let n := compBits s cd g l.compMode l.fmtOut (mapBytes l.fmtOut l.wOut l.cout)
    sendRows s1 cd { src := 0, dst := g.outDst % 16, vc := 1, cls := 1, kind := 0, tag := g.outTag, arg := band } n l.fmtOut rows
  | 3 =>
    let ps := piecesOf 64 (rows.flatten.length + 1) rows.flatten
    ps.zipIdx.foldl (fun t p => sendParcel t (Die.ofCd cd)
      { src := 0, dst := g.outDst % 16, vc := 1, cls := 4, kind := 0, tag := g.outTag, last := p.2 + 1 == ps.length, payload := p.1 }) s
  | _ => s

/-! ### A band processed (R300) -/

/-- Is a later entry of the epoch to run the same descriptor (R339)? -/
def laterEntry (s : State) (cd : Nat) (g : GroupDesc) (entry : Nat) : Bool :=
  (activeTable s).zipIdx.any fun e =>
    decide (entry < e.2) && entryIssues s e.1 && e.1.action == 0x10 && e.1.dieByte % 16 == (Die.ofCd cd).code && e.1.arg.toNat == g.index

/-- The clusters of a group move past a band; after BAND_LAST their entries end, once the monitored layers are evaluated. [DESIGN CHOICE: log 67] -/
def passBand (s : State) (cd : Nat) (ks : List Nat) (g : GroupDesc) (jobs : List LayerJob) (band : Nat) : State :=
  let s1 := ks.foldl (fun t k => modCl t cd k fun c => { c with band := band + 1 }) s
  if band < g.bandLast then s1
  else
    let k := ks.headD 0
    let s2 := if laterEntry s cd g (entryNow s cd k) then s1 else jobs.foldl (fun t j => evalAtEnd t cd k j) s1
    ks.foldl (fun t k => endEntry t cd k 0) s2

/-- The jobs of a band, its halo, its reruns and its output (R337–R342, R367–R372). [DESIGN CHOICE: log 66] -/
def bandWork (s : State) (cd : Nat) (ks : List Nat) (g : GroupDesc) (jobs wide : List LayerJob) (band : Nat) : State :=
  let k := ks.headD 0
  let r := runJobs (clearBandCounts s cd) cd ks jobs
  if !r.2 then r.1
  else
    let lastJob := jobs.getLastD default
    let s1 := produceHalo r.1 cd k g (layerAt r.1 cd k lastJob) lastJob band
    let again := evalReruns s1 cd k wide jobs
    let r2 := if again.2 then runJobs again.1 cd ks wide else (again.1, true)
    if !r2.2 then r2.1
    else
      let j := if again.2 then wide.getLastD default else lastJob
      let l := layerAt r2.1 cd k j
      let s3 := if again.2 then produceHalo r2.1 cd k g l j band else r2.1
      passBand (sendBand s3 cd k g l j band) cd ks g jobs band

/-- A band whose input is in: what its halo allows (R370, R385). -/
def bandHalo (s : State) (cd : Nat) (ks : List Nat) (g : GroupDesc) (jobs wide : List LayerJob) (band : Nat) : State :=
  let l := layerAt s cd (ks.headD 0) (jobs.headD default)
  match haloNeed s cd g l band with
  | .ready => bandWork (modComp (runAgain s cd ks) cd fun c => { c with waiting := false }) cd ks g jobs wide band
  | .held => modComp (waitFor s cd ks) cd fun c => { c with
      heldRows := (c.heldRows.filter fun e => e.1 != g.index) ++ [(g.index, l.heldRows)], waiting := true, waitBand := band + 1 }
  | .wait => modComp (waitFor s cd ks) cd fun c => { c with waiting := true, waitBand := band + 1 }
  | .short v => logOnly (modComp (waitFor s cd ks) cd fun c => { c with
      waiting := true, waitBand := band + 1
      halos := c.halos.map fun h => if h.src == g.inSrc % 16 && h.tag == l.haloTag && h.band == band + 1 && h.version == v then { h with revoked := true } else h })
      (Die.ofCd cd) 4 0 Code.haloShort 2

/-- How a program fails, as LAST_ERR (Table 10.10). [DESIGN CHOICE: log 74] -/
def faultErr : ProgFault → Option Nat
  | .none => Option.none
  | .ecc => some 3
  | _ => some 2

/-- A band of a running entry: a tracker, a Harvest program, or the layer jobs of a group. -/
def processBand (s : State) (cd cluster : Nat) (jobs wide : List LayerJob) (fault : ProgFault) (hv : HvInput) : State :=
  let c := s.cl cd cluster
  match groupOf s cd c.group, (unitOf s (Die.ofCd cd) cluster).busy with
  | some g, some b =>
    if !clusterBusy c then s
    else match faultErr fault with
      | some e => jobFails s cd cluster ⟨e, none, 0⟩
      | none =>
        if b.act == 0x12 then trackNow s cd cluster g
        else
          let ks := groupNamed g
          let together := ks.all fun k => let x := s.cl cd k; clusterBusy x && x.group == c.group && x.band == c.band
          if !together then s
          else match hvProgOf s cd g.index with
            | some p => ks.foldl (fun t k => endEntry t cd k 0) (hvRun s cd (ks.headD 0) p.1 p.2 hv)
            | none => if !bandIn s cd g c.band then waitFor s cd ks else bandHalo s cd ks g jobs wide c.band
  | _, _ => s

/-- GROUP_BAND_PROCESS (R300): the clusters of a group take a band together; the jobs are those its program runs for the band. -/
def execGroupBandProcess (cd cluster : Nat) (jobs wide : List LayerJob) (fault : ProgFault) (hv : HvInput) (s : State) : Res :=
  onUnit (cdOk s cd && decide (cluster < 4)) (processBand s cd cluster jobs wide fault hv)

/-! ### Streams, halos and their tokens -/

/-- A mask parcel for a crop request at the EYE (R402). -/
def takeMask (s : State) (x : Parcel) : State :=
  modGuard s fun g => { g with waiting := g.waiting.map fun r =>
    if r.index == x.tag - 0xF8 && !r.maskLast then { r with mask := r.mask ++ x.payload, maskLast := x.last } else r }

/-- A VC1 STREAM parcel at its die (R21, R299, R402, R406, R498). -/
def takeVc1 (s : State) (d : Die) (x : Parcel) : State :=
  match d.cdIdx with
  | some cd => takeStream s cd x
  | none =>
    if d == .svc then (if x.cls == 4 then takeRecordParcel s x else if x.cls == 3 then takeCropParcel s x else s)
    else if 0xF8 ≤ x.tag && x.tag ≤ 0xFB then takeMask s x else s

/-- HALO (R370, R372). -/
def execHalo (r : LinkRx) (s : State) : Res :=
  onParcel s r 4 0 fun s x => match r.port.die.cdIdx with | some cd => takeHalo s cd x | none => s

/-- A COMMIT or REVOKE token of the epoch at a compute die. -/
def onHaloToken (s : State) (f : SbFrame) (typ : Nat) (take : State → Nat → Nat → Nat → Nat → State) : Res :=
  onToken s f typ fun s w => match f.port.die.cdIdx with
    | some cd => if tokEp w == (s.die f.port.die).ep % 8 then take s cd (tokSrc w) (tokUnit w) (tokAct w) else s
    | none => s

/-- COMMIT (R371, R374, R384). -/
def execCommit (f : SbFrame) (s : State) : Res := onHaloToken s f 3 takeCommit

/-- REVOKE (R372, R374, R384). -/
def execRevoke (f : SbFrame) (s : State) : Res := onHaloToken s f 4 takeRevoke

/-! ### Aborts (R285, R304) -/

/-- A running or queued entry of a cluster ends, unless it is a TRACK entry with COAST. -/
def abortCluster (s : State) (cd k : Nat) : State :=
  let d := Die.ofCd cd
  let coasts (l : Launched) : Bool := l.act == 0x12 && (match groupOf s cd l.arg.toNat with | some g => nbit g.flags 1 | none => false)
  let s1 := modUnit s d k fun u => { u with queued := u.queued.filter coasts }
  match (unitOf s d k).busy with
  | some l => if coasts l then s1 else if clusterBusy (s.cl cd k) then endEntry s1 cd k 4 else unitDone s1 d k
  | none => s1

/-- A frame abort at a compute die (R304): after its EPOCH_DONE only ABORTED is set (Table 10.9). -/
def abortAt (s : State) (cd : Nat) : State :=
  let d := Die.ofCd cd
  if (s.die d).doneSent then modComp s cd fun c => { c with aborted := true }
  else
    let s1 := modComp s cd fun c => { c with aborted := true, aborts := c.aborts + 1, inputs := [],
                                             slots := c.slots.map fun q => { q with aborted := true } }
    let s2 := [0, 1, 2, 3].foldl (fun t k => abortCluster t cd k) (dropHalos s1 cd)
    let s3 := modUnit s2 d 5 fun u => { u with queued := none }
    if (unitOf s3 d 5).busy.isSome then detectAbort s3 cd else s3

/-- The compute dies that the active placement names. -/
def placedDies (s : State) : List Nat :=
  (fittedCds s).filter fun cd => (placementOf s s.seqr.bank).any (groupOn · cd)

/-- FRAME_ABORT at SVC: FRAME_MISSING once, and the message goes on to the dies of the placement that no stream reached (R285, R304). -/
def abortAtSvc (s : State) (x : Parcel) : State :=
  let cause := leAt x.payload 4 1
  let s1 := if cause == 0x10 then s
    else raiseFrom (modSeq s fun q => { q with frameReported := true }) .eye 1 0 Code.frameMissing 1 (args4 [cause])
  if cause == 6 then s1
  else ((placedDies s1).filter fun cd => !(streamDests s1).contains (Die.ofCd cd)).foldl (fun t cd => sendMsg t .svc (Die.ofCd cd) 4 x.payload) s1

/-- FRAME_ABORT (R285, R304). -/
def execFrameAbort (r : LinkRx) (s : State) : Res :=
  onMsg s r 4 fun s x => match r.port.die.cdIdx with
    | some cd => abortAt s cd
    | none => if r.port.die == .svc then abortAtSvc s x else s

/-! ### Cluster faults (Table 10.10) -/

/-- A stall of a running cluster: its entry ends without output; the third within 600 s makes it FAILED and its die unusable. [DESIGN CHOICE: log 69] -/
def stallCluster (s : State) (cd k : Nat) : State :=
  let d := Die.ofCd cd
  let c := s.cl cd k
  let times := (c.stallTimes.filter fun t => decide (s.now - t ≤ secNs 600)) ++ [s.now]
  let third := decide (3 ≤ times.length)
  let s1 := markPartial (endEntry s cd k 1) d
  let s2 := modCl s1 cd k fun c => { c with state := if third then .failed else .off, stalls := satAdd 255 c.stalls 1, stallTimes := times }
  let s3 := logOnly s2 d 4 0 Code.clusterStall (if third then 3 else 2) (args4 [k])
  if third then modDie s3 d fun x => { x with state := 6 } else s3

/-- CLUSTER_STALL (R315): no handshake for STALL_US while RUNNING. -/
def execClusterStall (cd cluster : Nat) (s : State) : Res :=
  onUnit (cdOk s cd && decide (cluster < 4))
    (if (s.cl cd cluster).state == .running && rb s (cdBase cd + 0x100000 * cluster) 1 then stallCluster s cd cluster else s)

/-- SPEED_MONITOR_SAMPLE (R295): the monitors' rates in M steps/s. -/
def execSpeedMonitorSample (cd : Nat) (msteps : List Nat) (s : State) : Res :=
  onUnit (cdOk s cd) ((msteps.take 4).zipIdx.foldl (fun t m => modCl t cd m.2 fun c => { c with speed := m.1 }) s)

/-- The minimum step rate at a VCORE in mV, in M steps/s (Table 10.3, R294). -/
def minRate (mv : Nat) : Nat :=
  let line (a b : Nat × Nat) : Nat := a.2 + (b.2 - a.2) * (mv - a.1) / (b.1 - a.1)
  if mv ≤ 500 then 260 else if mv ≤ 600 then line (500, 260) (600, 440) else if mv ≤ 680 then line (600, 440) (680, 630)
  else if mv ≤ 750 then line (680, 630) (750, 820) else if mv ≤ 850 then line (750, 820) (850, 970) else 970

/-- SPEED_LOW (R315): a cluster has been below the minimum for 1 s. -/
def execSpeedLow (cd cluster : Nat) (s : State) : Res :=
  onUnit (cdOk s cd && decide (cluster < 4))
    (let v := (s.cl cd cluster).speed
     if v < minRate s.power.vcoreSet then raiseOn s (Die.ofCd cd) 4 0 Code.speedLow 1 (args4 [cluster, v]) else s)

/-- An uncorrectable ECC error at an address of a cluster's SRAM: the word is poisoned, the running job ends (R206, R229). [DESIGN CHOICE: log 74] -/
def eccError (s : State) (cd k a : Nat) : State :=
  let d := Die.ofCd cd
  let w := a / 8 * 8
  let s1 := modFab s cd fun f => { f with eccUnc := satAdd 65535 f.eccUnc 1, poison := if f.poison.contains w then f.poison else f.poison ++ [w] }
  let s2 := match (List.range 64).find? fun i => let g := segment s cd i; g.valid && !g.upd && decide (g.base ≤ a) && decide (a < g.base + g.len) with
    | some i => modFab s1 cd fun f => { f with scrubFail := true, scrubFailSeg := i }
    | none => s1
  let s3 := markPartial (logOnly s2 d 4 0 Code.memUncorr 2 (args4 [a])) d
  if clusterBusy (s.cl cd k) then endEntry s3 cd k 3 else s3

/-- ECC_UNCORRECTABLE (R206). [DESIGN CHOICE: log 55] -/
def execEccUncorrectable (cd cluster : Nat) (addr : Word) (s : State) : Res :=
  onUnit (cdOk s cd && decide (cluster < 4)) (eccError s cd cluster addr.toNat)

/-! ### The detect unit's entries (R302, R395, R412, R417) -/

/-- The DETECT action: the unit waits for its heads; disabled, the token counts as missed; in an aborted epoch the entry ends. -/
def startDetect (s : State) (d : Die) (u : Nat) (l : Launched) : State :=
  match d.cdIdx with
  | none => s
  | some cd =>
    if !rb s (cdBase cd + 0x600000) 0 then missEntry (unitDone s d u) d
    else match groupOf s cd l.arg.toNat with
      | some g =>
        let s1 := modDet s cd fun x => { x with state := .waitHead, desc := g.index, lastErr := 0 }
        if (s.cdie cd).aborted then detectAbort s1 cd else s1
      | none => unitDone s d u

/-- DETECT (R47, R302). -/
def execDetect (f : SbFrame) (s : State) : Res := onLaunch s f 0x11 Die.isCd (· == 5) startDetect

/-- DETECT_START (R395): every HEAD group of the epoch has finished. -/
def execDetectStart (cd : Nat) (s : State) : Res :=
  onUnit (cdOk s cd) (
    if (s.detUnit cd).state != .waitHead || headBusy s cd then s
    else match groupOf s cd (s.detUnit cd).desc with
      | some g => detectRun (modDet s cd fun d => { d with state := .decode }) cd g
      | none => s)

/-- DETECT_STALL (R417): no progress for 200 µs. -/
def execDetectStall (cd : Nat) (s : State) : Res :=
  onUnit (cdOk s cd) (
    let x := s.detUnit cd
    if x.state == .off || x.state == .idle then s
    else match groupOf s cd x.desc with
      | some g => detectFails s cd g 5
      | none => s)

end Sys2Proof.Machine
end

