-- ==== Sys2Proof/Machine/GuardOps.lean ====
section
/-! DEFINITION. The egress guard's check of every parcel that leaves the EYE (R407–R409), and the EYE's crop limits. -/
namespace Sys2Proof.Machine

/-- EG_STATUS.CROP_LIMIT and SIZE_LIMIT (R412): CROP_CUT and SIZE_CUT count set bits of POLICY as applied. -/
def cropLimit (s : State) : Nat := min (rf s 0x01030000 4 2) (4 - s.guard.cropCut)
def sizeLimit (s : State) : Nat := 256 / 2 ^ max (rf s 0x01030000 6 5) s.guard.sizeCut

/-- How many bits are set in the low n bits of a number. -/
def bitsSet (v n : Nat) : Nat := ((List.range n).filter (nbit v)).length

/-- DEBUG_DISABLED as the guard applies it. [DESIGN CHOICE: log 46] -/
def debugClosed (s : State) : Bool := s.otp.debugEffective

/-- May a parcel leave the EYE by a port at all (Table 13.7, R22)?  Parcels of a compute die that the EYE only
forwards carry the class they came with. -/
def guardPermits (s : State) (port : Nat) (x : Parcel) : Bool :=
  match x.cls with
  | 2 => decide (port < 4) && x.dst == 4 + port
  | 3 => port == 4 && !s.guard.selftestFail
  | 4 => port == 4 && !s.guard.selftestFail
  | 5 => if port == 4 && x.src == Die.eye.code && x.vc == 5 then !debugClosed s && !s.guard.selftestFail else true
  | 0 => if x.vc == 2 || x.vc == 3 then decide (port < 4) else true
  | _ => false

/-- A refusal at the guard: counted, EGRESS_BLOCK logged, HEALTH once per epoch (R407, Table 13.13). -/
def guardRefuse (s : State) : State :=
  let s1 := modGuard s fun g => { g with parcelsRefused := satAdd 65535 g.parcelsRefused 1, blockRaised := true }
  if s.guard.blockRaised then logOnly s1 .eye 4 0 Code.egressBlock 2 else raiseOn s1 .eye 4 0 Code.egressBlock 2

/-- The parcels that a crop index may still send (R406, R408). -/
def cropLeft (s : State) (x : Parcel) : Nat := mget 0 s.guard.passed (x.tag - 0xE0)

/-- The guard's check of a parcel about to leave an EYE port: whether it is sent, and the state after. -/
def guardCheck (s : State) (port : Nat) (x : Parcel) : Bool × State :=
  if !guardPermits s port x then (false, guardRefuse s)
  else if x.cls == 3 && x.src == Die.eye.code then
    if debugClosed s && cropLeft s x == 0 then (false, guardRefuse s)
    else (true, modGuard s fun g => { g with passed := mset 0 g.passed (x.tag - 0xE0) (cropLeft s x - 1) })
  else if x.cls == 4 then
    if s.guard.budgetHit then (false, modGuard s fun g => { g with budgetDrop := g.budgetDrop + 1 })
    else if rnat s 0x01030008 < s.guard.used + x.plen then
      let s1 := modGuard s fun g => { g with budgetHit := true, budgetDrop := g.budgetDrop + 1 }
      (false, sendMsg s1 .eye .svc 6
        (leBytes 4 s.seqr.epoch.toNat ++ leBytes 4 s.guard.used ++ leBytes 4 1))
    else (true, modGuard s fun g => { g with used := g.used + x.plen })
  else (true, s)

end Sys2Proof.Machine
end

