-- ==== Sys2Proof/Machine/Crops.lean ====
section
/-! DEFINITION. Crop requests, masks, crops and redaction at the egress guard, and the VC1 streams of every die (chapter 13). -/
namespace Sys2Proof.Machine

/-! ### The request window (R403) -/

/-- The ROI_WINDOW action: requests are accepted from now until the window closes, and the entry ends. [DEDUCED: log 80] -/
def startRoiWindow (s : State) (d : Die) (u : Nat) (l : Launched) : State :=
  unitDone (modGuard s fun g => { g with windowOpen := true, windowArg := l.arg.toNat }) d u

/-- ROI_WINDOW (R47, R403). -/
def execRoiWindow (f : SbFrame) (s : State) : Res := onLaunch s f 9 (· == .eye) (· == 3) startRoiWindow

/-! ### The checks of a request (Table 13.6) -/

/-- Is a request's mask complete: LAST has come, and the bytes are ceil(W × H ÷ 128) (R402)? -/
def maskDone (r : CropReq) : Bool := r.maskLast && r.mask.length == (r.w * r.h + 127) / 128

/-- The first check of Table 13.6 that a request fails. [DEDUCED: log 80] -/
def cropRefusal (s : State) (r : CropReq) : Option Nat :=
  let size (n : Nat) : Bool := decide (16 ≤ n) && decide (n ≤ sizeLimit s) && n % 16 == 0
  let checks : List (Nat × Bool) :=
    [ (1, rb s 0x01030000 0 && !s.guard.selftestFail),
      (2, s.guard.windowOpen),
      (3, decide (s.guard.crops < cropLimit s)),
      (4, size r.w && size r.h),
      (5, decide (r.x + r.w ≤ 4096) && decide (r.y + r.h ≤ 3072)),
      (6, r.masked || !rb s 0x01030000 1),
      (7, s.eye.exposed && s.eye.rows == 3080 && !s.eye.frameMissing),
      (8, !s.guard.indices.contains r.index),
      (9, (s.port ⟨.eye, 4⟩).pstate == .up) ]
  (checks.find? fun c => !c.2).map (·.1)

/-- A refused request: counted, logged, and the result goes back to its sender (R403). -/
def refuseCrop (s : State) (r : CropReq) (cause : Nat) : State :=
  let s1 := modGuard s fun g => { g with cropsRefused := satAdd 65535 g.cropsRefused 1, lastCause := cause, lastIndex := r.index }
  let s2 := logOnly s1 .eye 4 0 Code.roiRefused 1 (args4 [r.index, cause])
  match Die.ofCode r.src with
  | some d => sendMsg s2 .eye d 5 (leBytes 4 s.seqr.epoch.toNat ++ leBytes 1 r.index ++ leBytes 1 cause ++ [0, 0])
  | none => s2

/-- A request that is whole is accepted or refused. -/
def judgeCrop (s : State) (r : CropReq) : State :=
  match cropRefusal s r with
  | some c => refuseCrop s r c
  | none => modGuard s fun g => { g with crops := g.crops + 1, indices := g.indices ++ [r.index], accepted := g.accepted ++ [r] }

/-- Requests whose masks have come are judged, in order. [DEDUCED: log 80] -/
def judgeWaiting (s : State) : State :=
  let whole := s.guard.waiting.filter maskDone
  whole.foldl judgeCrop (modGuard s fun g => { g with waiting := g.waiting.filter fun r => !maskDone r })

/-- The request that a parcel carries (R402). -/
def cropReqOf (x : Parcel) : CropReq :=
  let b (o n : Nat) : Nat := leAt x.payload o n
  { index := b 0 1 % 4, src := x.src, masked := nbit (b 1 1) 0, x := b 2 2, y := b 4 2, w := b 6 2, h := b 8 2, track := toWord (b 10 4) }

/-- A crop request at the EYE: with MASKED it waits for its mask, and otherwise it is judged at once. -/
def takeCropRequest (s : State) (x : Parcel) : State :=
  let r := cropReqOf x
  if r.masked then modGuard s fun g => { g with waiting := g.waiting ++ [r] } else judgeCrop s r

/-- A VC1 parcel at the EYE: a request, a mask, or nothing it knows. -/
def takeEyeStream (s : State) (x : Parcel) : State :=
  if x.tag == 0xF0 then takeCropRequest s x else judgeWaiting (takeVc1 s .eye x)

/-- CROP_REQUEST (R402, R403). -/
def execCropRequest (r : LinkRx) (s : State) : Res :=
  onParcel s r 1 0 fun s x => if r.port.die == .eye then takeEyeStream s x else s

/-- STREAM (R21, R171, R174, R299). -/
def execStream (r : LinkRx) (s : State) : Res :=
  onParcel s r 1 0 fun s x => if r.port.die == .eye then takeEyeStream s x else takeVc1 s r.port.die x

/-- ROI_WINDOW_CLOSE (R403, R416): the ARG offset has passed; a request whose mask is incomplete is refused NO_MASK. [DEDUCED: log 80] -/
def execRoiWindowClose (s : State) : Res :=
  .next (if s.guard.windowOpen then
      s.guard.waiting.foldl (fun t r => refuseCrop t r 6) (modGuard s fun g => { g with windowOpen := false, waiting := [] })
    else s)

/-! ### Cutting and redacting (R404–R406) -/

/-- The state whose line buffer holds the rows around a crop, black-corrected with the frame's table. -/
def cropLines (s : State) (y h : Nat) : State :=
  let rows := ((List.range (h + 16)).map fun (i : Nat) => mirror 3072 ((y + i : Nat) - 8 : Int)).eraseDups
  modIsp s fun i => { i with lines := rows.map fun r => (r, blackRowWith s (r + 8) (((i.blRows.find? fun b => b.1 == r + 8).map (·.2)).getD [0, 0])) }

/-- Is a pixel of a crop in a block to redact? -/
def redacted (r : CropReq) (y x : Nat) : Bool :=
  let b := y / 4 * (r.w / 4) + x / 4
  r.masked && nbit (r.mask.getD (b / 8) 0).toNat (b % 8)

/-- The rows of a crop after redaction, in interleaved R, G, B. -/
def cropRows (s : State) (r : CropReq) : List (List Byte) :=
  let t := cropLines s r.y r.h
  let red : List Byte := [BitVec.ofNat 8 (rf s 0x01030010 7 0), BitVec.ofNat 8 (rf s 0x01030010 15 8), BitVec.ofNat 8 (rf s 0x01030010 23 16)]
  (List.range r.h).map fun y => (List.range r.w).flatMap fun x =>
    if redacted r y x then red
    else let p := t4Of t (t3Of t (t2At t (r.y + y) (r.x + x))); [BitVec.ofNat 8 p.r, BitVec.ofNat 8 p.g, BitVec.ofNat 8 p.b]

/-- The payloads of a crop's parcels: the header, then the rows, each starting a new parcel (R406). -/
def cropPayloads (s : State) (r : CropReq) : List (List Byte) :=
  (leBytes 4 s.seqr.epoch.toNat ++ leBytes 1 r.index ++ [0, 0, 0] ++ leBytes 2 r.x ++ leBytes 2 r.y ++ leBytes 2 r.w ++ leBytes 2 r.h ++
    leBytes 4 r.track.toNat) :: (cropRows s r).flatMap fun row => piecesOf 64 (row.length + 1) row

/-- The crop at the head of the queue is cut, redacted and sent. -/
def sendCrop (s : State) (r : CropReq) : State :=
  let ps := cropPayloads s r
  let s1 := modGuard s fun g => { g with
    accepted := g.accepted.drop 1, passed := mset 0 g.passed r.index (1 + r.h * ((3 * r.w + 63) / 64)), delivered := g.delivered + 1 }
  ps.zipIdx.foldl (fun t p => sendParcel t .eye
    { src := 0, dst := 0, vc := 1, cls := 3, kind := 0, tag := 0xE0 + r.index, last := p.2 + 1 == ps.length, payload := p.1 }) s1

/-- CROP_PROCESS (R404–R406): the next accepted crop, in the order of acceptance. -/
def execCropProcess (s : State) : Res :=
  .next (match s.guard.accepted with
    | r :: _ => sendCrop s r
    | [] => s)

/-- ROI_RESULT (R403): the tracker's die takes the message; the spec gives it no effect there. -/
def execRoiResult (r : LinkRx) (s : State) : Res := onMsg s r 5 fun s _ => s

/-- EGRESS_BUDGET (R409): SVC drops what it has of records that the guard cut short. [DEDUCED: log 80] -/
def execEgressBudget (r : LinkRx) (s : State) : Res :=
  onMsg s r 6 fun s _ => if r.port.die == .svc then modRecs s fun b => { b with part := [] } else s

end Sys2Proof.Machine
end

