-- ==== Sys2Proof/Machine/TrainOps.lean ====
section
/-! DEFINITION. Training and spare steering of a port (R153–R157), and capability negotiation (R190–R194). -/
namespace Sys2Proof.Machine

/-! ### LANEMAP (R111, R157) -/

/-- The LANEMAP word of receive bundle b of a port: the row of the link's direction toward the port; 0 when the map
is ignored (R111, Table 4.14). -/
def lanemapRx (s : State) (p : PortId) (b : Nat) : Nat :=
  if !lanemapOk s then 0 else
  match portLink s.part p with
  | some (i, fst) => bits (mrow s (0x120 + 2 * i + (if fst then 1 else 0))).toNat (32 * b + 31) (32 * b)
  | none => 0

/-- Fields of spare s in a bundle word (R111). -/
def laneWire (w s : Nat) : Nat := bits w (8 * s + 5) (8 * s)
def laneUsed (w s : Nat) : Bool := nbit w (8 * s + 6)
def laneFaulty (w s : Nat) : Bool := nbit w (8 * s + 7)

/-- Does a lower spare already carry the same wire (Table 5.11)? -/
def laneDup (w s : Nat) : Bool := laneUsed w s && (List.range s).any fun t => laneUsed w t && laneWire w t == laneWire w s

/-- The assignments of a bundle word, duplicates apart: spare and wire. -/
def laneAssigned (w : Nat) : List (Nat × Nat) :=
  ((List.range 4).filter fun s => laneUsed w s && !laneDup w s).map fun s => (s, laneWire w s)

/-! ### Steering (R156) -/

/-- The wires of a mask, ascending. -/
def wiresOf (m : BitVec 64) : List Nat := (List.range 64).filter fun i => nbit m.toNat i

/-- A mask of wires. -/
def maskOf (ws : List Nat) : BitVec 64 := ws.foldl (fun m i => m ||| BitVec.ofNat 64 (2 ^ i)) 0

/-- Assigns wires to spares of G: LANEMAP's own first, then in ascending order (R156 rule 3). -/
def assignSpares (lane : List (Nat × Nat)) (g ws : List Nat) : List (Nat × Nat) :=
  let keep := lane.filter fun a => g.contains a.1 && ws.contains a.2
  let restW := ws.filter fun w => !(keep.map (·.2)).contains w
  let restS := g.filter fun s => !(keep.map (·.1)).contains s
  keep ++ restS.zip restW

/-- The state and assignments of a bundle from its fail set F and good spares G (R156). -/
def steer (lane : List (Nat × Nat)) (f : BitVec 64) (g : List Nat) (auxBad : Bool) : BState × List (Nat × Nat) :=
  let ws := wiresOf f
  let lo := ws.filter (· < 32)
  let hi := ws.filter (32 ≤ ·)
  if auxBad then (.off, [])
  else if ws.length ≤ g.length then (.full, assignSpares lane g ws)
  else if lo.length ≤ g.length then (.halfLo, assignSpares lane g lo)
  else if hi.length ≤ g.length then (.halfHi, assignSpares lane g hi)
  else (.off, [])

/-- The live map word: assignments, and SPARE_FAULTY of failed spares (R156). -/
def liveMap (as : List (Nat × Nat)) (faulty : List Nat) : Nat :=
  (as.map fun a => (a.2 + 0x40) * 2 ^ (8 * a.1)).sum + (faulty.map fun s => 0x80 * 2 ^ (8 * s)).sum

/-- The result of one bundle's training: the bundle, its LAST_FAIL cause (0 none), the wires newly failed that
LANEMAP does not name, and the assignments dropped. -/
structure BundleRes where
  b : RxBundle
  cause : Nat
  newWires : List Nat
  droppedSpares : List (Nat × Nat)
  dup : Bool

/-- Trains one receive bundle from what its receiver found (R153–R157); `keep` brings in the wires that have
failed since the reset. -/
def trainBundle (lanew : Nat) (old : RxBundle) (keep : Bool) (o : BundleObs) : BundleRes :=
  let lane := laneAssigned lanew
  let ever := (if keep then old.failedEver else 0) ||| o.data ||| o.verify
  let f := ever ||| maskOf (lane.map (·.2))
  let faulty := (List.range 4).filter fun s => o.spare.getLsbD s || laneFaulty lanew s
  let g := (List.range 4).filter fun s => !faulty.contains s
  let st := steer lane f g (o.clk || o.frame)
  let cause := if o.clk then 2 else if o.mismatch then 3 else if o.verifyAgain then 4 else 0
  let state := if cause != 0 || o.framed then .off else st.1
  let seen := if keep then old.drift else 0
  let seenS := if keep then old.driftSpare else 0
  let newWires := (wiresOf (o.data ||| o.verify)).filter fun w => !(lane.map (·.2)).contains w && !nbit seen.toNat w
  let dropped := lane.filter fun a => o.spare.getLsbD a.1 && !seenS.getLsbD a.1
  { b := { old with
      state := state
      map := toWord (liveMap st.2 faulty)
      fail := f
      failedEver := ever
      aux := BitVec.ofNat 6 (o.spare.toNat + 16 * b2n o.frame + 32 * b2n o.clk)
      eye := o.eye
      eyeWire := o.eyeWire
      vref := o.vref
      drift := seen ||| maskOf newWires
      driftSpare := seenS ||| BitVec.ofNat 4 ((dropped.map fun a => 2 ^ a.1).sum) },
    cause := cause, newWires := newWires, droppedSpares := dropped, dup := (List.range 4).any (laneDup lanew) }

/-- The spare that carries a wire in a live map, or 0xFF. -/
def carrier (map w : Nat) : Nat := ((List.range 4).find? fun s => laneUsed map s && laneWire map s == w).getD 0xFF

/-- LANE_DRIFT and LANEMAP_DUP of a bundle's training (R157, Table 20.12). -/
def driftLogs (s : State) (p : PortId) (bundle : Nat) (r : BundleRes) : State :=
  let m := r.b.map.toNat
  let one (s : State) (ev w : Nat) : State :=
    raiseOn s p.die edlUnit p.port Code.laneDrift 1
      (packArgs [(bundle, 1), (ev, 1), (w, 1), (carrier m w, 1), (m, 4)])
  let s1 := r.newWires.foldl (fun s w => one s 0 w) s
  let s2 := r.droppedSpares.foldl (fun s a => one s 1 a.2) s1
  if r.dup then raiseOn s2 p.die edlUnit p.port Code.lanemapDup 1 else s2

/-- The bundle state of a code 0 OFF, 1 FULL, 2 HALF_LO, 3 HALF_HI (R158). -/
def bstateOf : Nat → BState
  | 1 => .full | 2 => .halfLo | 3 => .halfHi | _ => .off
def bstateCode : BState → Nat
  | .off => 0 | .full => 1 | .halfLo => 2 | .halfHi => 3

/-- Has the port a second bundle (R140)? -/
def twoBundles (p : PortId) : Bool := !(p == ⟨.svc, 1⟩ || p == ⟨.eye, 4⟩)

/-- May a port train: its die is powered and out of reset, and its domain has not been switched off (R164)? -/
def portPowered (s : State) (p : PortId) : Bool :=
  !(s.port p).poweredOff &&
  (p.die == .svc || (let x := (s.die p.die).state; x != 0 && x != 1 && x != 6))

/-- Sends an LMW that expects an answer (R152). -/
def sendLmw (s : State) (p : PortId) (w : BitVec 48) : State :=
  sendSb (modPort s p fun e => { e with lmw := some w, lmwSends := 1 }) p w

/-- Sends a parcel of the link layer itself: NUL 0, CAP 1, AGREE 2, SOAK 3, INIT 4, RESUME 5. -/
def sendLink (s : State) (p : PortId) (what : Nat) (t : Trailer) (data : List Nat) : State :=
  modPort (emit s (.linkParcel p what t data)) p fun e => { e with sentTotal := e.sentTotal + 1 }

/-- The trailer of an unsequenced parcel (R180). -/
def plainTrailer (e : EdlPort) : Trailer :=
  { seq := 0, ack := (e.expected + 1023) % 1024, av := e.acceptedAny, nak := e.nakDue, u := true, cvc := 0,
    cnt := (vget e.freedOut 0).toNat % 16 }

/-- After training a port is handed to negotiation, or after a retrain sends RESUME (R184, R191). -/
def afterTraining (s : State) (p : PortId) : State :=
  let e := s.port p
  if e.pstate == .retraining && e.negStep == 0 then sendLink s p 5 { plainTrailer e with av := true } []
  else modPort s p fun e => { e with pstate := .negotiating, negStep := 1, answered := false, partner := none, agreeTries := 0,
                                     soakFails := 0, soakWrong := 0 }

/-- Training ended with a direction DOWN, or did not end: DEAD after a retrain (R184), else DOWN, retried while
retries are left (R166). -/
def trainFailed (s : State) (p : PortId) (cause : Nat) : State :=
  let e := s.port p
  if e.phy == .retraining then deadPort (raiseOn s p.die edlUnit p.port Code.linkDead 1) p cause
  else if e.lastFail == 5 || e.lastFail == 7 then
    if e.retries < 3 then modPort s p fun e => { e with phy := .down, pstate := .down, sbUp := false }
    else raiseOn (modPort s p fun e => { e with phy := .down, pstate := .down, sbUp := false, poweredOff := true })
      p.die edlUnit p.port (if e.lastFail == 5 then Code.sbLost else Code.linkSupply) 3
  else failPort s p cause

/-- The widths changed by a retrain: LINK_SUMMARY and HEALTH LINK_CHANGE (Table 5.11). -/
def widthChange (s : State) (p : PortId) (before : Nat × Nat) : State :=
  let e := s.port p
  let full := if twoBundles p then 3 else 2
  if (txWidth e, rxWidth e) == before then s else
  match portLink s.part p with
  | some (i, _) => linkChange s i (if txWidth e == full && rxWidth e == full then 1 else 2) 0
  | none => s

/-- LINK_TRAIN: the whole of a training from L1, or of a retrain from L3 (R153, R154). [DESIGN CHOICE: log 47] -/
def trainPort (s : State) (p : PortId) (o : TrainObs) : State :=
  let e := s.port p
  let re := e.phy == .retraining
  if !portPowered s p || e.pstate == .dead || e.pstate == .isolated || e.phy == .up || e.phy == .absent then s
  else if !o.present || (peerPort s.part p).isNone then
    if re then trainFailed s p 5 else
    let s1 := modPort s p fun e => { e with phy := .absent, pstate := .absent, poweredOff := true, step := 1 }
    match portLink s.part p with
    | some (i, _) => portLost (modBoot s1 fun b => { b with links := b.links.setIfInBounds i 5 }) p
    | none => s1
  else
    let s0 := modPort s p fun e => { e with trainCount := satAdd 255 e.trainCount 1 }
    if !o.sbUp || !o.reportOk then trainFailed (modPort s0 p fun e => { e with step := if o.sbUp then 8 else 2 }) p 1 else
    let r0 := trainBundle (lanemapRx s p 0) e.rx0 re o.rx0
    let r1 := trainBundle (lanemapRx s p 1) e.rx1 re o.rx1
    let b1 : RxBundle := if twoBundles p then r1.b else { r1.b with state := .off, map := 0, fail := 0, failedEver := 0, aux := 0 }
    let before := (txWidth e, rxWidth e)
    let cause := if r0.cause != 0 then r0.cause else if twoBundles p then r1.cause else 0
    let s1 := modPort s0 p fun e => { e with
      rx0 := r0.b
      rx1 := b1
      tx0 := { e.tx0 with state := bstateOf o.tx0, map := o.txMap0 }
      tx1 := { e.tx1 with state := if twoBundles p then bstateOf o.tx1 else .off, map := if twoBundles p then o.txMap1 else 0 }
      sbUp := true, step := 11, lmw := none, lmwSends := 0
      lastFail := if cause != 0 then cause else e.lastFail }
    let s2 := driftLogs s1 p 0 r0
    let s3 := if twoBundles p then driftLogs s2 p 1 r1 else s2
    if txWidth (s3.port p) == 0 || rxWidth (s3.port p) == 0 then trainFailed s3 p cause
    else
      let s4 := modPort s3 p fun e => { e with phy := .up }
      afterTraining (if re then widthChange s4 p before else s4) p

/-! ### Negotiation (R190–R194) -/

/-- CLASSES a port offers: those it accepts under Table 1.6, coded as Table 6.3. -/
def offeredClasses (p : PortId) : Nat :=
  match p.die with
  | .svc => if p.port == 0 then 0x31 else 0x39
  | .eye => if p.port < 4 then 0x23 else 0x21
  | _ => if p.port == 0 then 0x25 else if p.port == 3 then 0x21 else 0x37

/-- Table 6.5. -/
def ownCredits : List Nat := [16, 96, 32, 64, 32, 16]

/-- The CAP that a BX7720 port offers (Table 6.8). -/
def ownCaps (s : State) (p : PortId) : Caps :=
  let e := s.port p
  { spec := 0x12, seen := e.partner.isSome, die := p.die.code, port := p.port, bundles := if twoBundles p then 2 else 1,
    txw := txWidth e, rxw := rxWidth e, vcs := 0x3F, credit := ownCredits, maxRate := 400,
    comp := if p.die.isCd then 3 else 0, rcache := if p.die.isCd then 7 else if p.die == .eye then 1 else 0, tags := 256,
    classes := BitVec.ofNat 6 (offeredClasses p), replay := 512, vendor := 1, product := 0x7720 }

/-- Why the agreement cannot be formed (R192): 1 VERSION, 2 VC_MISSING, 3 WIDTH_MISMATCH; 0 none. -/
def agreeFault (own c : Caps) : Nat :=
  if own.spec / 16 != 1 || c.spec / 16 != 1 then 1
  else if !((own.vcs &&& c.vcs).getLsbD 0 && (own.vcs &&& c.vcs).getLsbD 5) then 2
  else if own.txw != c.rxw || own.rxw != c.txw then 3 else 0

/-- The AGREE payload that both ends compute (R192). -/
def agreePayload (own c : Caps) : Caps :=
  { own with
    spec := 0x10 + min (own.spec % 16) (c.spec % 16)
    bundles := min own.bundles c.bundles
    vcs := own.vcs &&& c.vcs
    credit := (own.credit.zip c.credit).map fun x => min x.1 x.2
    maxRate := min own.maxRate c.maxRate
    comp := own.comp &&& c.comp
    rcache := own.rcache &&& c.rcache
    tags := min own.tags c.tags
    classes := BitVec.ofNat 6 ((List.range 6).map (fun i => 2 ^ i * min (b2n (own.classes.getLsbD i)) (b2n (c.classes.getLsbD i)))).sum
    replay := min own.replay c.replay }

/-- Do two AGREE payloads match in bytes 0 and 4–23, the widths each from its own end (R191)? -/
def agreeMatch (a b : Caps) : Bool :=
  a.spec == b.spec && a.bundles == b.bundles && a.txw == b.rxw && a.rxw == b.txw && a.vcs == b.vcs && a.credit == b.credit &&
  a.maxRate == b.maxRate && a.comp == b.comp && a.rcache == b.rcache && a.tags == b.tags && a.classes == b.classes &&
  a.replay == b.replay

/-- What this end applies: the partner's credits, rate, tags, classes and replay to its transmitter (R192, R193). -/
def agreementOf (own c : Caps) : Agreement :=
  let minor := min (own.spec % 16) (c.spec % 16)
  { major := 1, minor := minor, vcs := if minor == 0 then (own.vcs &&& c.vcs) &&& 0x2F else own.vcs &&& c.vcs,
    comp := own.comp &&& c.comp, rcache := own.rcache &&& c.rcache, tags := if minor < 2 then min c.tags 64 else c.tags,
    classes := c.classes, replay := min c.replay 512, maxRate := min c.maxRate 400, bundles := min own.bundles c.bundles,
    credit := c.credit, compTx := minor != 0 && own.comp.getLsbD 1 && c.comp.getLsbD 0,
    compRx := minor != 0 && c.comp.getLsbD 1 && own.comp.getLsbD 0,
    readsOut := own.rcache.getLsbD 1 && c.rcache.getLsbD 0, readsIn := c.rcache.getLsbD 1 && own.rcache.getLsbD 0 }

/-- A negotiation step failed: the port is FAILED, NEG_FAIL logged at severity 2 with the cause (R191, R200):
1 VERSION, 2 VC_MISSING, 3 WIDTH_MISMATCH, 4 NEG_TIMEOUT, 5 AGREE_MISMATCH. [DESIGN CHOICE: log 48] -/
def negFail (s : State) (p : PortId) (cause : Nat) : State :=
  failPort (raiseOn (modPort s p fun e => { e with negStep := 0 }) p.die edlUnit p.port Code.negFail 2 (args4 [cause])) p 0

/-- A partner that reports another die ID than Table 1.1 gives: every port to that die is isolated, SITE_MISMATCH
logged, and the die FAILED (R83). [DESIGN CHOICE: log 48] -/
def siteMismatch (s : State) (p : PortId) (d : Die) : State :=
  let s1 := raise s 0xD 0 Code.siteMismatch 2
  let ports := (List.range 10).filterMap fun i => match linkEnds s.part i with
    | some (a, b) => if a.die == d then some b else if b.die == d then some a else none
    | none => none
  let s2 := (p :: ports).foldl (fun s q => modPort (switchRoutes s q) q fun e => { e with pstate := .isolated, negStep := 0 }) s1
  modDie s2 d fun x => { x with state := 6 }

/-- A CAP arrives (N1): the partner's offer is kept; with SEEN set the step ends and the agreement is formed. -/
def takeCap (s : State) (p : PortId) (c : Caps) : State :=
  let e := s.port p
  if e.pstate != .negotiating || e.negStep != 1 then s else
  let expect := (peerPort s.part p).map fun q => q.die
  match expect with
  | some d =>
    if d.code != c.die then siteMismatch s p d else
    let s1 := modPort s p fun e => { e with partner := some c }
    if !c.seen then s1 else
    let own := ownCaps s1 p
    let f := agreeFault own c
    if f != 0 then negFail s1 p f
    else modPort s1 p fun e => { e with negStep := 2, ag := agreementOf own c }
  | none => s

/-- An AGREE arrives (N2): it must match the one computed here; a second mismatch fails the port. -/
def takeAgree (s : State) (p : PortId) (c : Caps) : State :=
  let e := s.port p
  if e.pstate != .negotiating || e.negStep != 2 then s else
  match e.partner with
  | none => s
  | some q =>
    if agreeMatch (agreePayload (ownCaps s p) q) c then
      modPort s p fun e => { e with negStep := 3, answered := true, soakFails := 0, soakWrong := 0 }
    else if e.agreeTries == 0 then modPort s p fun e => { e with agreeTries := 1 }
    else negFail s p 5

/-- The DATA wires of a bundle that a W-wide direction uses, in order of j (R148). -/
def bundleWires (b : Nat) : BState → List (Nat × Nat)
  | .full => (List.range 64).map fun i => (b, i)
  | .halfLo => (List.range 32).map fun i => (b, i)
  | .halfHi => (List.range 32).map fun i => (b, 32 + i)
  | .off => []

/-- The wires in use of a receive direction, j ascending (Table 5.5). -/
def wiresInUse (b0 b1 : BState) : List (Nat × Nat) :=
  match b0, b1 with
  | .full, .full => bundleWires 0 .full ++ bundleWires 1 .full
  | .full, _ => bundleWires 0 .full
  | _, .full => bundleWires 1 .full
  | a, b => bundleWires 0 a ++ bundleWires 1 b

/-- The wires of a bundle that wrong soak bits name: payload bit n' is parcel bit 64 + n', on wire j = n mod W
(R194). -/
def soakWires (e : EdlPort) (b : Nat) : BitVec 64 :=
  let ws := wiresInUse e.rx0.state e.rx1.state
  let n := ws.length
  maskOf (((List.range 512).filter fun k => e.soakWrong.getLsbD k).filterMap fun k =>
    match ws[(64 + k) % max n 1]? with
    | some (c, w) => if c == b then some w else none
    | none => none)

/-- The end of the soak (R194): more than one CRC failure is SOAK_FAIL, which adds the wrong wires to the fail set
and requests a retrain; the second makes the port FAILED. -/
def endSoak (s : State) (p : PortId) : State :=
  let e := s.port p
  if e.pstate != .negotiating || e.negStep != 3 then s
  else if e.soakFails ≤ 1 then modPort s p fun e => { e with negStep := 4, answered := false }
  else if 1 ≤ e.soakFailed then
    failPort (raiseOn (modPort s p fun e => { e with negStep := 0 }) p.die edlUnit p.port Code.soakFail 2) p 0
  else
    let s1 := raiseOn s p.die edlUnit p.port Code.soakFail 1
    let w := lmwWord 6 0 0
    sendLmw (modPort s1 p fun e => { e with
      soakFailed := e.soakFailed + 1, pstate := .retraining, phy := .retraining, step := 3, negStep := 1
      rx0 := { e.rx0 with failedEver := e.rx0.failedEver ||| soakWires e 0 }
      rx1 := { e.rx1 with failedEver := e.rx1.failedEver ||| soakWires e 1 } }) p w

/-- INIT (R201): SEQ, EXPECTED, credits, LEC, replay buffer and NAK_PENDING are initialised, and the port is UP. -/
def initPort (e : EdlPort) : EdlPort :=
  { e with pstate := .up, negStep := 0, answered := true, nextSeq := 0, expected := 0, acceptedAny := false, nakPending := false,
           nakDue := false, ackDue := false, nulDue := false, replayBuf := [], replayQ := [], replayPoint := none,
           sentCnt := Vector.replicate 6 0, freedIn := Vector.replicate 6 0, freedOut := Vector.replicate 6 0,
           reported := Vector.replicate 6 0, lec := 0, good := 0, warnArmed := true, rtArmed := true, lecWarn := false,
           vc5Wait := 0 }

/-- LINK_SUMMARY of a link as firmware derives it from both ends (R161). -/
def derivedLink (s : State) (i : Nat) : Nat :=
  match linkEnds s.part i with
  | none => 4
  | some (a, b) =>
    let x := s.port a; let y := s.port b
    let full := if twoBundles a then 3 else 2
    if x.pstate == .isolated || y.pstate == .isolated then 3
    else if x.phy == .absent || y.phy == .absent then (if x.phy == .absent && y.phy == .absent then 4 else 5)
    else if x.phy == .down || y.phy == .down then (if x.trainCount == 0 && y.trainCount == 0 then 0 else 5)
    else if rxWidth x == 0 || rxWidth y == 0 then 0
    else if rxWidth x == full && rxWidth y == full then 1 else 2

/-- A port becomes UP, and its die, if it was TRAINING, is LOADING; a link that had FAILED and runs again shows its derived
state (R166, R161, Table 3.14). -/
def portUp (s : State) (p : PortId) : State :=
  let s1 := modDie (modPort s p initPort) p.die fun x => { x with state := if x.state == 2 then 3 else x.state }
  match portLink s1.part p with
  | some (i, _) =>
    if s1.boot.links[i]?.getD 0 == 5 then modBoot s1 fun b => { b with links := b.links.setIfInBounds i (derivedLink s1 i) } else s1
  | none => s1

end Sys2Proof.Machine
end

