-- ==== Sys2Proof/Machine/Edl.lean ====
section
/-! DEFINITION. The die-link commands: training and sideband words (chapter 05), parcel slots, errors, replay,
isolation and negotiation (chapter 06). -/
namespace Sys2Proof.Machine

/-! ### Training and link-management words -/

/-- LINK_TRAIN (R153). -/
def execLinkTrain (port : PortId) (o : TrainObs) (s : State) : Res := onUnit (portOk s port) (trainPort s port o)

/-- The failure cause of a training step that exceeds its time (Table 5.7). -/
def stepFail (step : Nat) : Nat :=
  if step == 3 then 2 else if step == 9 then 3 else if step == 10 then 4 else if step ≤ 2 || step == 8 then 1 else 0

/-- TRAIN_STEP_TIMEOUT (R153). [DESIGN CHOICE: log 47] -/
def execTrainStepTimeout (port : PortId) (s : State) : Res :=
  onUnit (portOk s port) (let e := s.port port
    if e.phy == .training || e.phy == .retraining then trainFailed s port (stepFail e.step) else s)

/-- Takes an LMW of one OP at a port; IDLE and reserved words, and words of another OP, change nothing more. -/
def onLmw (s : State) (f : SbFrame) (op : Nat) (g : State → BitVec 48 → State) : Res :=
  onUnit (portOk s f.port) (match sbTake s f with
    | (some w, s1) => if tokType w == op && !(s1.port f.port).sbDead then g s1 w else s1
    | (none, s1) => s1)

/-- The ARG and DATA of an LMW (Table 5.6). -/
def lmwArg (w : BitVec 48) : Nat := bits w.toNat 43 40
def lmwData (w : BitVec 48) : Nat := bits w.toNat 39 8

/-- LMW_HELLO (R153): with SEEN the sideband is up. -/
def execLmwHello (f : SbFrame) (s : State) : Res :=
  onLmw s f 1 fun s w =>
    let seen := nbit (lmwData w) 0
    if !portPowered s f.port then s else
    let s1 := modPort s f.port fun e => { e with
      helloSeen := true, sbUp := e.sbUp || seen
      phy := if e.phy == .down then .training else e.phy
      step := if seen && e.phy != .up && e.step < 3 then 3 else if e.phy == .down then 2 else e.step
      lmw := if seen then none else e.lmw }
    if (s.port f.port).sbUp then s1 else sendSb s1 f.port (lmwWord 1 0 1)

/-- LMW_STEP (R153): the step is repeated, and taken. -/
def execLmwStep (f : SbFrame) (s : State) : Res :=
  onLmw s f 2 fun s w =>
    let e := s.port f.port
    let n := bits (lmwData w) 3 0
    if e.phy != .training && e.phy != .retraining then s
    else if e.lmw == some w then modPort s f.port fun e => { e with lmw := none, lmwSends := 0, step := n }
    else sendSb (modPort s f.port fun e => { e with step := n }) f.port w

/-- A transmit bundle of a port changed. -/
def modTx (e : EdlPort) (b : Nat) (g : TxBundle → TxBundle) : EdlPort :=
  if b == 0 then { e with tx0 := g e.tx0 } else { e with tx1 := g e.tx1 }

/-- LMW_FAIL (R153): the receiver's failing wires, by chunk. -/
def execLmwFail (f : SbFrame) (s : State) : Res :=
  onLmw s f 3 fun s w =>
    let d := lmwData w
    modPort s f.port fun e => modTx e (bits (lmwArg w) 3 3) fun t =>
      match bits (lmwArg w) 1 0 with
      | 0 => { t with failData := (t.failData >>> 32) <<< 32 ||| BitVec.ofNat 64 d }
      | 1 => { t with failData := (t.failData &&& 0xFFFFFFFF) ||| BitVec.ofNat 64 (d * 2 ^ 32) }
      | 2 => { t with failAux := BitVec.ofNat 6 d }
      | _ => t

/-- LMW_STEER (R153): the transmitter applies the state and map it is told, and answers with the same word. -/
def execLmwSteer (f : SbFrame) (s : State) : Res :=
  onLmw s f 4 fun s w =>
    let a := lmwArg w
    let s1 := modPort s f.port fun e => modTx e (bits a 3 3) fun t =>
      { t with state := bstateOf (bits a 1 0), map := toWord (lmwData w) }
    sendSb s1 f.port (lmwWord 5 a (lmwData w))

/-- LMW_STEER_ACK (R153): compared with what was told; the third mismatch turns the bundle OFF. -/
def execLmwSteerAck (f : SbFrame) (s : State) : Res :=
  onLmw s f 5 fun s w =>
    let e := s.port f.port
    let b := bits (lmwArg w) 3 3
    let rx := if b == 0 then e.rx0 else e.rx1
    if rx.map.toNat == lmwData w && bstateCode rx.state == bits (lmwArg w) 1 0 then
      modPort s f.port fun e => { e with lmw := none, lmwSends := 0 }
    else
      let n := (if b == 0 then e.tx0.mismatches else e.tx1.mismatches) + 1
      let off (r : RxBundle) : RxBundle := if n < 3 then r else { r with state := .off }
      modPort s f.port fun e => { modTx e b (fun t => { t with mismatches := n }) with
        rx0 := if b == 0 then off e.rx0 else e.rx0
        rx1 := if b == 0 then e.rx1 else off e.rx1
        lastFail := if n < 3 then e.lastFail else 3 }

/-- LMW_RETRAIN (R184): the partner asks for a retrain; two requests make one (Table 5.11). -/
def execLmwRetrain (f : SbFrame) (s : State) : Res :=
  onLmw s f 6 fun s _ =>
    if (s.port f.port).phy == .retraining then modPort s f.port fun e => { e with lmw := none, lmwSends := 0 }
    else startRetrain s f.port

/-- LMW_RESEND (R152): sent again up to 8 times, then training ends with SB_TIMEOUT. -/
def execLmwResend (port : PortId) (s : State) : Res :=
  onUnit (portOk s port) (let e := s.port port
    match e.lmw with
    | none => s
    | some w =>
      if e.lmwSends < 9 then sendSb (modPort s port fun e => { e with lmwSends := e.lmwSends + 1 }) port w
      else trainFailed (modPort s port fun e => { e with lmw := none, lmwSends := 0 }) port 1)

/-- May a path write the registers of a port or a route table (R159, R196)? -/
def edlPathOk (s : State) : Path → Bool
  | .core => true
  | .bcp => true
  | _ => !inField s

/-- RETRAIN_REQUEST (R154, R159): on a port that is not UP the request is ignored. -/
def execRetrainRequest (path : Path) (port : PortId) (s : State) : Res :=
  onUnit (portOk s port) (
    if !edlPathOk s path then answer s path (portBase port + 4) .path
    else if !dieOpen s port.die then answer s path (portBase port + 4) .state
    else answer (if (s.port port).phy == .up then startRetrain s port else s) path (portBase port + 4) .ok)

/-- SB_LOST (R166). -/
def execSbLost (port : PortId) (s : State) : Res :=
  onUnit (portOk s port) (match (s.port port).pstate with
    | .up | .negotiating | .retraining | .sink | .isolated => downPort s port 5 Code.sbLost
    | _ => s)

/-- SB_RETRY (R166): training is tried again from L2, up to 3 times. -/
def execSbRetry (port : PortId) (s : State) : Res :=
  onUnit (portOk s port) (let e := s.port port
    if e.phy == .down && e.pstate == .down && (e.lastFail == 5 || e.lastFail == 7) && decide (e.retries < 3) && !e.poweredOff then
      sendLmw (modPort s port fun e => { e with phy := .training, step := 2, retries := e.retries + 1 }) port (lmwWord 1 0 0)
    else s)

/-- BUNDLE_CLK_LOST (R166): the bundle is taken as failed, and a retrain starts. -/
def execBundleClkLost (port : PortId) (bundle : Nat) (s : State) : Res :=
  onUnit (portOk s port && decide (bundle < 2)) (
    startRetrain (modPort s port fun e =>
      if bundle == 0 then { e with rx0 := { e.rx0 with aux := e.rx0.aux ||| 0x20 } }
      else { e with rx1 := { e.rx1 with aux := e.rx1.aux ||| 0x20 } }) port)

/-- LINK_SUPPLY_FAULT (R166): DOWN with SUPPLY, retried as for SB_LOST. -/
def execLinkSupplyFault (port : PortId) (s : State) : Res :=
  onUnit (portOk s port) (match (s.port port).pstate with
    | .up | .negotiating | .retraining | .sink | .isolated => downPort s port 7 Code.linkSupply
    | _ => s)

/-! ### The transmitter (R175–R181) -/

/-- Unacknowledged parcels a transmitter may have (R175, R192). -/
def ackWindow (e : EdlPort) : Nat := min 512 e.ag.replay

/-- Is a sequenced parcel ready on a VC (R175)? -/
def vcReady (e : EdlPort) (v : Nat) : Bool :=
  (vget e.txq v) != [] && decide (0 < creditOf e v) && decide (e.replayBuf.length < ackWindow e)

/-- The VC whose parcel leaves next: 0, 3, 2, 4, 1, 5, but VC5 ahead of VC1–VC4 once it has waited 63 slots
(R175). [DESIGN CHOICE: log 49] -/
def nextVc (e : EdlPort) : Option Nat :=
  if vcReady e 0 then some 0
  else if vcReady e 5 && decide (63 ≤ e.vc5Wait) then some 5
  else [3, 2, 4, 1, 5].find? (vcReady e)

/-- The VC whose freed count is reported next: in rotation, among those changed since their last report (R177). -/
def reportVc (e : EdlPort) : Nat :=
  (((List.range 6).map fun k => (e.reportNext + k) % 6).find? fun v => vget e.freedOut v != vget e.reported v).getD e.reportNext

/-- The trailer of a parcel that leaves now (R177, R180). -/
def trailerNow (e : EdlPort) (seq : Nat) (u : Bool) : Trailer :=
  let v := reportVc e
  { seq := seq, ack := (e.expected + 1023) % 1024, av := e.acceptedAny, nak := e.nakDue, u := u, cvc := v,
    cnt := (vget e.freedOut v).toNat % 16 }

/-- What sending a parcel with that trailer changes in the port. -/
def reportDone (e : EdlPort) : EdlPort :=
  let v := reportVc e
  { e with reported := e.reported.setIfInBounds v (vget e.freedOut v), reportNext := (v + 1) % 6, ackDue := false, nakDue := false,
           sentTotal := e.sentTotal + 1 }

/-- The first parcel of a VC leaves: it takes the next SEQ, a credit, and a replay entry (R176, R179). -/
def sendFirst (s : State) (p : PortId) (v : Nat) (x : Parcel) : State :=
  let e := s.port p
  let s1 := emit s (.parcel p x (trailerNow e e.nextSeq false))
  modPort s1 p fun e => { reportDone e with
    txq := vmod e.txq v List.tail, replayBuf := e.replayBuf ++ [(e.nextSeq, x)], nextSeq := (e.nextSeq + 1) % 1024,
    sentCnt := vmod e.sentCnt v (· + 1),
    vc5Wait := if v == 5 || (vget e.txq 5).isEmpty then 0 else e.vc5Wait + 1 }

/-- A sequenced parcel's turn: the EYE's guard checks it first (R407). -/
def sendSequenced (s : State) (p : PortId) (v : Nat) : State :=
  match vget (s.port p).txq v with
  | [] => s
  | x :: _ =>
    if p.die != .eye then sendFirst s p v x
    else match guardCheck s p.port x with
      | (true, s1) => sendFirst s1 p v x
      | (false, s1) => modPort s1 p fun e => { e with txq := e.txq.setIfInBounds v ((vget e.txq v).erase x) }

/-- A NUL leaves: it carries all six freed counts in full (R177). -/
def sendNul (s : State) (p : PortId) : State :=
  let e := s.port p
  let freed := e.freedOut.toList.map (·.toNat)
  modPort (emit s (.linkParcel p 0 (trailerNow e 0 true) freed)) p fun e =>
    { reportDone e with reported := e.freedOut, nulDue := false }

/-- A die's outbox sends its next entry as an EVENT parcel by the route to SVC when that port's VC0 is free
(R617). -/
def eventParcel (d : Die) (e : Event) : Parcel :=
  { src := d.code, dst := 0, vc := 0, cls := 0, kind := 0xA, plen := 20,
    payload := leBytes 1 e.die.code ++ leBytes 1 (e.unit + 16 * e.sub) ++ leBytes 2 e.code ++ leBytes 1 e.sev ++ leBytes 1 (flagsOf e) ++
      leBytes 2 e.rep ++ leBytes 12 e.args.toNat }

/-- [DESIGN CHOICE: log 108] -/
def feedOutbox (s : State) (p : PortId) : State :=
  if p.die == .svc || vget (s.port p).txq 0 != [] || routePort s p.die 0 != some p then s else
  match outboxTake s p.die with
  | none => s
  | some (e, s1) => enqueueParcel s1 p { eventParcel p.die e with ep := (s.die p.die).ep }

/-- One free slot of an UP port: a replay, a sequenced parcel by VC, or a due NUL (R175). -/
def slot (s : State) (p : PortId) : State :=
  let s := feedMerge (feedOutbox s p) p
  let e := s.port p
  if e.pstate != .up && e.pstate != .sink then s else
  match e.replayQ with
  | (q, x) :: rest =>
    let s1 := emit s (.parcel p x (trailerNow e q false))
    modPort s1 p fun e => { reportDone e with replayQ := rest, replayPoint := if rest == [] then none else e.replayPoint }
  | [] => match nextVc e with
    | some v => sendSequenced s p v
    | none => if e.nulDue then sendNul s p else s

/-- PARCEL_SLOT (R175). -/
def execParcelSlot (port : PortId) (s : State) : Res := onUnit (portOk s port) (drainCheck (slot s port) port.die)

/-- PARCEL_CRC_FAIL (R179, R183): discarded, a NAK, LEC + 8. -/
def execParcelCrcFail (port : PortId) (s : State) : Res :=
  onUnit (portOk s port) (let e := s.port port
    if e.pstate != .up && e.pstate != .sink then s
    else lecAdd (modPort s port fun e => nakNow { e with crcFail := e.crcFail + 1 }) port 8)

/-- The six full counts of a NUL (R177). -/
def takeCounts (s : State) (p : PortId) : List Nat → Nat → State
  | [], _ => s
  | n :: ns, v =>
    let r := takeFreed (s.port p) v (BitVec.ofNat 16 n)
    takeCounts (creditErr (modPort s p fun _ => r.1) p r.2) p ns (v + 1)

/-- NUL (R177). -/
def execNul (r : LinkRx) (freed : List Nat) (s : State) : Res :=
  onUnit (portOk s r.port) (
    if (s.port r.port).pstate != .up && (s.port r.port).pstate != .sink then s
    else takeCounts (takeTrailer s r.port { r.t with cvc := 7 }) r.port (freed.take 6) 0)

/-- NUL_DUE (R180). -/
def execNulDue (port : PortId) (s : State) : Res :=
  onUnit (portOk s port) (if (s.port port).pstate == .up then modPort s port fun e => { e with nulDue := true } else s)

/-- REPLAY_TIMEOUT (R181): every unacknowledged entry is replayed, and LEC rises by 16. -/
def execReplayTimeout (port : PortId) (s : State) : Res :=
  onUnit (portOk s port) (let e := s.port port
    if (e.pstate == .up || e.pstate == .sink) && e.replayBuf != [] then
      lecAdd (modPort s port fun e => { e with replayQ := e.replayBuf, replayPoint := none, replayTos := e.replayTos + 1 }) port 16
    else s)

/-- RESUME (R184): replay entries up to the partner's ACK are freed, the rest replayed, and the port is UP. -/
def execResume (r : LinkRx) (s : State) : Res :=
  onUnit (portOk s r.port) (let e := s.port r.port
    if e.pstate == .retraining && e.phy == .up then
      modPort s r.port fun e =>
        let e1 := if r.t.av then ackFree e r.t.ack else e
        { e1 with replayQ := e1.replayBuf, replayPoint := none, good := 0, answered := true, goodTotal := e1.goodTotal + 1,
                  pstate := if (s.die r.port.die).state == 7 then .sink else .up }
    else s)

/-- RESUME_TIMEOUT (R184): the port is DEAD. -/
def execResumeTimeout (port : PortId) (s : State) : Res :=
  onUnit (portOk s port) (let e := s.port port
    if e.pstate == .retraining && e.phy == .up then deadPort (raiseOn s port.die edlUnit port.port Code.linkDead 1) port e.lastFail
    else s)

/-- PORT_ISOLATE (R186, R196). -/
def execPortIsolate (path : Path) (port : PortId) (s : State) : Res :=
  onUnit (portOk s port) (
    if !edlPathOk s path then answer s path (portBase port + 0x104) .path
    else if !dieOpen s port.die then answer s path (portBase port + 0x104) .state
    else answer (isolatePort s port) path (portBase port + 0x104) .ok)

/-- ISOLATION_DETECT (R186): the sideband is seen without parcel slots for 2 µs. -/
def execIsolationDetect (port : PortId) (s : State) : Res :=
  onUnit (portOk s port) (if (s.port port).sbUp && (s.port port).pstate != .negotiating then isolatePort s port else s)

/-! ### Negotiation -/

/-- CAP (R191). -/
def execCap (port : PortId) (c : Caps) (s : State) : Res := onUnit (portOk s port) (takeCap s port c)

/-- AGREE (R192). -/
def execAgree (port : PortId) (c : Caps) (s : State) : Res := onUnit (portOk s port) (takeAgree s port c)

/-- SOAK (R191): CRC failures are counted, and the wrong payload bits kept. -/
def execSoak (port : PortId) (crcOk : Bool) (wrong : BitVec 512) (s : State) : Res :=
  onUnit (portOk s port) (
    if (s.port port).pstate != .negotiating || (s.port port).negStep != 3 || crcOk then s
    else modPort s port fun e => { e with soakFails := e.soakFails + 1, soakWrong := e.soakWrong ||| wrong })

/-- SOAK_END (R194). -/
def execSoakEnd (port : PortId) (s : State) : Res := onUnit (portOk s port) (endSoak s port)

/-- INIT (R201); the partner's soak count needs no action here. -/
def execInit (port : PortId) (_soakSeen : Nat) (s : State) : Res :=
  onUnit (portOk s port) (
    if (s.port port).pstate == .negotiating && (s.port port).negStep == 4 then portUp s port else s)

/-- NEG_TIMEOUT (R191): the step's maximum time has passed. -/
def execNegTimeout (port : PortId) (s : State) : Res :=
  onUnit (portOk s port) (let e := s.port port
    if e.pstate != .negotiating then s
    else if e.negStep == 2 then negFail s port 5
    else if e.negStep == 1 || e.negStep == 4 then negFail s port 4 else s)

/-- NEGOTIATION_RESEND (R191, R184): CAP, AGREE, INIT or RESUME is sent again until the answer arrives. -/
def execNegotiationResend (port : PortId) (s : State) : Res :=
  onUnit (portOk s port) (let e := s.port port
    if e.pstate == .retraining && e.phy == .up then sendLink s port 5 { plainTrailer e with av := true } []
    else if e.pstate != .negotiating then s
    else match e.negStep with
      | 1 => sendLink s port 1 (plainTrailer e) [b2n e.partner.isSome]
      | 2 => sendLink s port 2 (plainTrailer e) []
      | 4 => sendLink s port 4 (plainTrailer e) [min 255 e.soakFails]
      | _ => s)

end Sys2Proof.Machine
end

