-- ==== Sys2Proof/Machine/Field.lean ====
section
/-! DEFINITION. The commands of the field outputs, the tamper electrodes, the I²C controller, the flash and the
GPIOs (chapter 19). -/
namespace Sys2Proof.Machine

/-! ### Field outputs -/

/-- FO_SET, FO_CLEAR and FO_PULSE as launch actions; the bank is busy only while it applies them (R571). -/
def startFoSet (s : State) (d : Die) (u : Nat) (l : Launched) : State :=
  unitDone (foCommand s (foNamed s (wbits l.arg 3 0)) true none) d u
def startFoClear (s : State) (d : Die) (u : Nat) (l : Launched) : State :=
  unitDone (foCommand s (foNamed s (wbits l.arg 3 0)) false none) d u
/-- [DESIGN CHOICE: log 101] -/
def startFoPulse (s : State) (d : Die) (u : Nat) (l : Launched) : State :=
  let w := wbits l.arg 31 16
  unitDone (if w == 0 then s else foCommand s (foNamed s (wbits l.arg 3 0)) true (some (s.now + 1000 * w))) d u

/-- FO_PULSE (R571). -/
def execFoPulse (f : SbFrame) (s : State) : Res := onLaunch s f 0x20 (· == .svc) (· == 3) startFoPulse

/-- FO_SET (R571). -/
def execFoSet (f : SbFrame) (s : State) : Res := onLaunch s f 0x21 (· == .svc) (· == 3) startFoSet

/-- FO_CLEAR (R571). -/
def execFoClear (f : SbFrame) (s : State) : Res := onLaunch s f 0x22 (· == .svc) (· == 3) startFoClear

/-- FO_PULSE_END (R571): the outputs whose pulse ends with this one's return LOW. -/
def execFoPulseEnd (out : Nat) (s : State) : Res :=
  onUnit (out < 4) (match (foOut s out).pulseEnd with
    | none => s
    | some t => foCommand s ((List.range 4).filter fun n => (foOut s n).pulseEnd == some t) false none)

/-- May a path write this chapter's registers (R599)? -/
def fieldPathOk (s : State) : Path → Bool
  | .core | .bcp => true
  | .i2c | .jtag => !inField s

/-- A write of FO_OUT. -/
def foOutReg (s : State) (path : Path) (v : Word) : WriteRes :=
  if !fieldPathOk s path then (s, .path) else (foOutNow s v, .ok)

/-- FO_OUT_WRITE (R571). -/
def execFoOutWrite (path : Path) (v : Word) (s : State) : Res := .next (answerWrite path 0x000A0014 (foOutReg s path v))

/-- FO_FAULT_LATCH (R602, Table 19.9): a short is taken only in the state its condition names, a contention
between outputs of different pairs, a pair fault on a pair. -/
def execFoFaultLatch (kind : FoFault) (out other : Nat) (s : State) : Res :=
  onUnit (out < 4 && (kind != .contention || other < 4)) (
    match kind with
    | .shortHi => if foLevel s out == 0 then foLatch s 0 Code.foShortHi (foGroup s out) else s
    | .shortLo => if foLevel s out == 1 then foLatch s 1 Code.foShortLo (foGroup s out) else s
    | .contention =>
      if out != other && !(foGroup s out).contains other && foLevel s out + foLevel s other == 1 then
        foLatch s 2 Code.foContention [out, other] else s
    | .pair => if foPaired s out && foLevel s out != 2 then foLatch s 3 Code.foPair (foGroup s out) else s
    | .thermal => if foLevel s out != 2 then foLatch s 4 Code.foThermal (foGroup s out) else s)

/-- FO_OPEN_LOAD (R602): a report only. -/
def execFoOpenLoad (out : Nat) (s : State) : Res :=
  onUnit (out < 4) (
    if !rb s (0x000A0000 + 4 * out) 5 || foLevel s out != 1 then s else
    let first := !nbit (foOut s out).faults.toNat 5
    let s1 := modOut s out fun o => { o with faults := o.faults ||| 0x20 }
    if first then raise s1 3 0 Code.foOpen 1 else logOnly s1 .svc 3 0 Code.foOpen 1)

/-- FO_RETRY (R603). -/
def execFoRetry (out : Nat) (s : State) : Res := onUnit (out < 4) (foRetryNow s out)

/-- FO_RETRY_RESTORE (R603). -/
def execFoRetryRestore (out : Nat) (s : State) : Res :=
  onUnit (out < 4) (if (foOut s out).latched then s else modOut s out fun o => { o with used := 0, retrying := false })

/-- A write of FO_FAULT. -/
def foFaultReg (s : State) (path : Path) (v : Word) : WriteRes :=
  if !fieldPathOk s path then (s, .path) else (foFaultWrite s v, .ok)

/-- FO_FAULT_CLEAR (R603). -/
def execFoFaultClear (path : Path) (v : Word) (s : State) : Res := .next (answerWrite path 0x000A001C (foFaultReg s path v))

/-- FO_THERMAL_RELEASE (R603). -/
def execFoThermalRelease (out : Nat) (s : State) : Res :=
  onUnit (out < 4) (if (foOut s out).thermal then
    foRetryNow ((foGroup s out).foldl (fun t n => modOut t n fun o => { o with thermal := false }) s) out else s)

/-- FO_UVLO (R604). -/
def execFoUvlo (s : State) : Res :=
  .next (if s.fo.uvlo then s
    else foDrive s (raise (modFo s fun x => { x with uvlo := true, lockouts := satAdd 65535 x.lockouts 1 }) 3 0 Code.vfldLow 1))

/-- FO_UVLO_RECOVER (R604). -/
def execFoUvloRecover (s : State) : Res := .next (foDrive s (modFo s fun x => { x with uvlo := false }))

/-! ### Tamper electrodes -/

/-- An occlusion wakes the part from WINTER when TMP_CTRL.WAKE says so (R583). -/
def tamperWake (s : State) : State := if rb s 0x000B0000 3 then winterWake s else s

/-- The power-up decision, from 16 samples whose sum is 16 P_e (R577). [DESIGN CHOICE: log 102] -/
def teDecide (s : State) (e : Nat) : State :=
  let p : Int := 16 * ((teOf s e).samples.sum : Int)
  let f := 256 * teF s e
  if !teValid s e || decide (((p - f).natAbs : Int) ≤ teOccl s) then
    modTe s e fun x => { x with state := .normal, base := p, occRun := 0 }
  else
    let s1 := modTe s e fun x => { x with state := .occludedAtStart, base := f, since := s.now, clearRun := 0, clearSum := 0, persist := 0 }
    tamperWake (tamperRecord s1 1 e (256 * ((teOf s e).c : Int) - f) 0)

/-- A sample in NORMAL: tracking, or a run beyond OCCL_THRESH (R578). [DESIGN CHOICE: log 102] -/
def teNormal (s : State) (e : Nat) (d : Int) : State :=
  let tau := rf s 0x000B0010 31 16
  let x := teOf s e
  let moved := if (d.natAbs : Int) ≤ teClear s then x.base + divHalfUp d (20 * tau) else x.base
  let run := if teOccl s < (d.natAbs : Int) then x.occRun + 1 else 0
  if 20 ≤ run then
    let s1 := modTe s e fun x => { x with state := .occluded, occRun := 0, since := s.now, clearRun := 0, clearSum := 0, persist := 0 }
    tamperWake (tamperRecord s1 2 e d 0)
  else modTe s e fun x => { x with base := moved, occRun := run }

/-- A sample in an occluded state: 100 in a row within CLEAR_THRESH end it (R577, R578). -/
def teOccludedSample (s : State) (e : Nat) (d : Int) : State :=
  let x := teOf s e
  if teClear s < (d.natAbs : Int) then modTe s e fun x => { x with clearRun := 0, clearSum := 0 }
  else
    let sum := x.clearSum + x.c
    if x.clearRun + 1 < 100 then modTe s e fun x => { x with clearRun := x.clearRun + 1, clearSum := sum }
    else
      let sec := teSeconds s x
      let s1 := modTe s e fun x => { x with
        state := .normal, occRun := 0, clearRun := 0, clearSum := 0
        base := if x.state == .occludedAtStart then divHalfUp (256 * (sum : Int)) 100 else x.base }
      tamperRecord s1 3 e d sec

/-- A sample in FAULT: 100 in a row in range go back to START (Tables 19.3, 19.10). -/
def teFaultSample (s : State) (e : Nat) (inRange : Bool) : State :=
  let n := if inRange then (teOf s e).inRun + 1 else 0
  if n < 100 then modTe s e fun x => { x with inRun := n }
  else teStart (modTmp s fun t => { t with shield := false }) e

/-- TAMPER_SAMPLE (R575). -/
def execTamperSample (e : Nat) (c : Nat) (inRange : Bool) (s : State) : Res :=
  onUnit (e < 2) (
    if (teOf s e).state == .off then s else
    let s1 := modTe s e fun x => { x with c := c, samples := (c :: x.samples).take 16 }
    let d : Int := 256 * (c : Int) - (teOf s e).base
    match (teOf s e).state with
    | .off => s
    | .start => if (teOf s1 e).samples.length < 16 then s1 else teDecide s1 e
    | .normal => teNormal s1 e d
    | .occludedAtStart | .occluded => teOccludedSample s1 e d
    | .fault => teFaultSample s1 e inRange)

/-- Is an electrode occluded? -/
def teIsOccluded (x : Electrode) : Bool := x.state == .occluded || x.state == .occludedAtStart

/-- PERSISTENT_OCCLUSION (R579). -/
def execPersistentOcclusion (e : Nat) (s : State) : Res :=
  onUnit (e < 2) (
    let x := teOf s e
    if !teIsOccluded x then s
    else tamperRecord (modTe s e fun x => { x with persist := x.persist + 1 }) 4 e (256 * (x.c : Int) - x.base) (teSeconds s x))

/-- REBASELINE of one electrode (R580). [DESIGN CHOICE: log 102] -/
def teRebaseline (s : State) (e : Nat) : State :=
  let x := teOf s e
  if x.state == .normal || teIsOccluded x then
    let s1 := modTe s e fun y => { y with state := .normal, base := 16 * (y.samples.sum : Int), occRun := 0, clearRun := 0, clearSum := 0 }
    tamperRecord s1 5 e (256 * (x.c : Int) - x.base) (teSeconds s x)
  else s

/-- A write of TMP_CMD: acted on only with [31:16] = 0x7B5E. -/
def tmpCmdReg (s : State) (path : Path) (v : Word) : WriteRes :=
  if !fieldPathOk s path then (s, .path)
  else if wbits v 31 16 != 0x7B5E then (s, .ok)
  else ([0, 1].foldl (fun t e => if wbit v e then teRebaseline t e else t) s, .ok)

/-- TAMPER_REBASELINE (R580). -/
def execTamperRebaseline (path : Path) (v : Word) (s : State) : Res := .next (answerWrite path 0x000B0008 (tmpCmdReg s path v))

/-- An electrode goes to FAULT: no decisions. -/
def teToFault (s : State) (e : Nat) : State :=
  if (teOf s e).state == .off then s else modTe s e fun x => { x with state := .fault, inRun := 0, occRun := 0, clearRun := 0, clearSum := 0 }

/-- TAMPER_FAULT (R604). -/
def execTamperFault (e : Nat) (s : State) : Res :=
  onUnit (e < 2) (
    if (teOf s e).state == .off || (teOf s e).state == .fault then s
    else raise (teToFault s e) 8 0 Code.tamperFault 1)

/-- SHIELD_FAULT (R604). -/
def execShieldFault (s : State) : Res :=
  .next (
    if (teOf s 0).state == .off && (teOf s 1).state == .off then s
    else raise (teToFault (teToFault (modTmp s fun t => { t with shield := true }) 0) 1) 8 0 Code.tamperFault 2)

/-! ### The I²C controller (R587, R588) -/

/-- I2CM_TX as bytes. -/
def i2cTxBytes (s : State) (n : Nat) : List Byte :=
  ((List.range 8).flatMap fun i => leBytes 4 (rnat s (0x000C0010 + 4 * i))).take n

/-- I2CM_RX with bytes received from its start on. -/
def i2cRxStore (old : Vector Word 8) (bs : List Byte) : Vector Word 8 :=
  old.mapFinIdx fun i w _ => toWord (leNat ((bs.drop (4 * i)).take 4 ++ ((leBytes 4 w.toNat).drop ((bs.drop (4 * i)).take 4).length)))

/-- A transaction ends with a result. [DESIGN CHOICE: log 103] -/
def i2cEnd (s : State) (result losses : Nat) : State := modBus s fun x => { x with xfer := none, result := result, lastLosses := losses }

/-- One attempt of the transaction under way. -/
def i2cAttempt (s : State) (x : I2cXfer) (r : I2cResult) : State :=
  let s1 := emit s (.i2cController x.addr (i2cTxBytes s x.wlen) (if x.read then x.rlen else 0))
  match r with
  | .ok rx =>
    let s2 := if x.read then modBus s1 fun y => { y with rx := i2cRxStore y.rx (rx.take x.rlen) } else s1
    i2cEnd s2 0 x.losses
  | .nackAddr => i2cEnd s1 1 x.losses
  | .nackData => i2cEnd s1 2 x.losses
  | .lost bit _ =>
    let s2 := raise (modBus s1 fun y => { y with losses := satAdd 65535 y.losses 1 }) 9 0 Code.i2cArbLost 0 (args4 [x.addr, bit])
    if 4 ≤ x.losses + 1 then i2cEnd s2 3 (x.losses + 1)
    else modBus s2 fun y => { y with xfer := some { x with losses := x.losses + 1, waiting := false }, lastLosses := x.losses + 1 }

/-- The transaction that a value of I2CM_XFER names. -/
def i2cXferOf (v : Word) (waiting : Bool) : I2cXfer :=
  { addr := wbits v 6 0, read := wbit v 7, wlen := wbits v 13 8, rlen := wbits v 21 16, losses := 0, waiting := waiting }

/-- A write of I2CM_XFER, by the management core alone (R587, R599). [DESIGN CHOICE: log 103] -/
def i2cXferReg (s : State) (path : Path) (v : Word) (busFree : Bool) (r : I2cResult) : WriteRes :=
  if path != .core then (s, .path)
  else if wbits v 31 24 != 0xC2 then (s, .ok)
  else if 32 < wbits v 13 8 || (wbit v 7 && (wbits v 21 16 == 0 || 32 < wbits v 21 16)) then (s, .refused)
  else if !rb s 0x000C0000 10 || s.bus.xfer.isSome then (s, .refused)
  else if wbits v 6 0 == rf s 0x000C0000 6 0 then (i2cEnd s 5 0, .ok)
  else
    let x := i2cXferOf v (!busFree)
    let s1 := modBus s fun y => { y with xfer := some x, lastLosses := 0 }
    (if busFree then i2cAttempt s1 x r else s1, .ok)

/-- I2C_CONTROLLER_XFER (R587). -/
def execI2cControllerXfer (path : Path) (v : Word) (busFree : Bool) (r : I2cResult) (s : State) : Res :=
  .next (answerWrite path 0x000C0004 (i2cXferReg s path v busFree r))

/-- I2C_BUS_FREE (R587): a transaction that waited for the bus starts. -/
def execI2cBusFree (r : I2cResult) (s : State) : Res :=
  .next (match s.bus.xfer with
    | some x => if x.waiting then i2cAttempt s x r else s
    | none => s)

/-- I2C_ARB_RETRY (R588). -/
def execI2cArbRetry (r : I2cResult) (s : State) : Res :=
  .next (match s.bus.xfer with
    | some x => if x.losses != 0 && !x.waiting then i2cAttempt s x r else s
    | none => s)

/-- I2C_BUS_STUCK (R604): nine clocks and a STOP; a bus still held ends the transaction BUS_STUCK. -/
def execI2cBusStuck (freed : Bool) (s : State) : Res :=
  let s1 := raise (emit s .i2cClocks) 9 0 Code.i2cStuck 1
  .next (match s.bus.xfer with
    | some x => if freed then s1 else i2cEnd s1 4 x.losses
    | none => s1)

/-! ### Flash and GPIO -/

/-- FLASH_BUSY_TIMEOUT (R604): QSPI_ERR counts it; the operation that fails is the writer's own command. [DESIGN CHOICE: log 103] -/
def execFlashBusyTimeout (s : State) : Res := .next (modBus s fun x => { x with flashBusy := satAdd 65535 x.flashBusy 1 })

/-- Is a pin an input: by its MODE, GPIO6 as SYNC_IN, and not GPIO7 as SYNC_OUT (R594)? [DESIGN CHOICE: log 103] -/
def gpioInput (s : State) (pin : Nat) : Bool :=
  if pin == 7 && rb s 0x00040000 2 then false
  else if pin == 6 && rf s 0x00040000 1 0 == 2 then true
  else rf s (0x000C0300 + 4 * pin) 1 0 == 0

/-- Does an edge match GPIO_CFG.EVT? -/
def gpioMatch (s : State) (pin : Nat) (rising : Bool) : Bool := rb s (0x000C0300 + 4 * pin) (if rising then 4 else 5)

/-- GPIO_EDGE (R596). -/
def execGpioEdge (pin : Nat) (rising : Bool) (s : State) : Res :=
  onUnit (pin < 8) (
    let bit := BitVec.ofNat 8 (2 ^ pin)
    let s1 := modBus s fun x => { x with gpioIn := if rising then x.gpioIn ||| bit else x.gpioIn &&& ~~~bit }
    if !gpioInput s pin then s1 else
    let seen := nbit s.bus.gpioEvt.toNat pin
    let s2 := if !gpioMatch s pin rising then s1 else modBus s1 fun x => { x with
      gpioEvt := x.gpioEvt ||| bit
      gpioTs := x.gpioTs.setIfInBounds pin s.tb.ltime
      gpioLost := if seen then satAdd 65535 x.gpioLost 1 else x.gpioLost }
    if rb s (0x000C0300 + 4 * pin) 6 then winterWake s2 else s2)

end Sys2Proof.Machine
end

