-- ==== Sys2Proof/Machine/Net.lean ====
section
/-! DEFINITION. Ports, switch, PTP ports and addressing (R449–R455, R485). -/
namespace Sys2Proof.Machine

/-! ### Ports -/

/-- Do PHYs and switch run: from step 10 on, not in a halt or DECOMMISSIONED (R451)? -/
def netOn (s : State) : Bool := s.net.on && !s.power.halted && lcState s != 5

/-- Is the link of a port up; the internal port always is. -/
def portUpNet (s : State) (p : Nat) : Bool := if p == 0 then s.net.linkP0 else if p == 1 then s.net.linkP1 else true

/-- Is a port held down for flapping? [PRESUMED: log 86] -/
def portHeld (s : State) (p : Nat) : Bool := if p == 0 then s.net.held0 else s.net.held1

/-- Sets the link of a port. -/
def setLink (s : State) (p : Nat) (up fdx : Bool) : State :=
  modNet s fun n => if p == 0 then { n with linkP0 := up, fdxP0 := up && fdx } else { n with linkP1 := up, fdxP1 := up && fdx }

/-! ### Best master (R452) -/

/-- Is one announced data set better than another, in the order of the comparison? [PRESUMED: log 21] -/
def betterMaster (a b : MasterData) : Bool :=
  let ka := [a.priority1, a.clockClass, a.accuracy, a.variance, a.priority2, a.identity.toNat, a.stepsRemoved]
  let kb := [b.priority1, b.clockClass, b.accuracy, b.variance, b.priority2, b.identity.toNat, b.stepsRemoved]
  decide (ka < kb)

/-- The port toward the best master is the slave port. [PRESUMED: log 21] -/
def selectMaster (s : State) : State :=
  let m0 := if s.net.linkP0 then s.net.master0 else none
  let m1 := if s.net.linkP1 then s.net.master1 else none
  let port := match m0, m1 with
    | none, none => none
    | some _, none => some 0
    | none, some _ => some 1
    | some a, some c => if betterMaster c a then some 1 else some 0
  modNet s fun n => { n with slave := port, master0 := m0, master1 := m1 }

/-- ANNOUNCE_RECEIVE (R452): of the domain, with PTP enabled. -/
def execAnnounceReceive (port : Nat) (domain : Nat) (md : MasterData) (s : State) : Res :=
  onUnit (decide (port < 2)) (
    if !portUpNet s port || !rb s 0x00050000 5 || domain != rf s 0x00050000 14 8 then s
    else selectMaster (modNet s fun n => if port == 0 then { n with master0 := some md } else { n with master1 := some md }))

/-- ANNOUNCE_RECEIPT_TIMEOUT (R452): the chosen master is given up. -/
def execAnnounceReceiptTimeout (s : State) : Res :=
  .next (match s.net.slave with
    | none => s
    | some p => selectMaster (modNet s fun n => if p == 0 then { n with master0 := none } else { n with master1 := none }))

/-- PEER_DELAY_MEASURE (R453). -/
def execPeerDelayMeasure (port : Nat) (ns : Word) (s : State) : Res :=
  onUnit (decide (port < 2)) (
    if !portUpNet s port then s else modNet s fun n => if port == 0 then { n with pdelay0 := ns } else { n with pdelay1 := ns })

/-! ### Addressing (R455) -/

/-- Asks for a lease. -/
def askLease (s : State) : State := emit s (.dhcp false false)

/-- Takes a link-local address, which one being left open, and probes it. [PRESUMED: log 86] -/
def takeLinkLocal (s : State) : State :=
  let f := fresh s
  let ip := toWord (0xA9FE0000 + f.1 % 65536)
  emit (modNet f.2 fun n => { n with addr := .linkLocal, ip := ip, mask := 0xFFFF0000, gw := 0 }) (.arp ip)

/-- The static address, with IP_MODE = 1. -/
def takeStatic (s : State) : State :=
  modNet s fun n => { n with addr := .static, ip := rget s 0x00050014, mask := rget s 0x00050018, gw := rget s 0x0005001C }

/-- The address as IP_MODE says; DHCP begins at the first link-up. [PRESUMED: log 86] -/
def addrFollow (s : State) : State :=
  if !netOn s then s
  else if rb s 0x00050000 0 then takeStatic s
  else if s.net.addr == .static then
    let s1 := modNet s fun n => { n with addr := .none, ip := 0, mask := 0, gw := 0 }
    if s.net.everLinked then askLease s1 else s1
  else s

/-- A lease in use. -/
def takeLease (s : State) (l : Lease) : State := modNet s fun n => { n with addr := .dhcp, ip := l.ip, mask := l.mask, gw := l.gw }

/-- DHCP_LEASE_BOUND (R455): it replaces a link-local address. -/
def execDhcpLeaseBound (l : Lease) (s : State) : Res :=
  .next (if !netOn s || rb s 0x00050000 0 || !linked s then s else takeLease s l)

/-- DHCP_TIMEOUT (R455): no lease within 10 s, or the lease in use has expired. -/
def execDhcpTimeout (expired : Bool) (s : State) : Res :=
  .next (
    if !netOn s || rb s 0x00050000 0 || s.net.addr != (if expired then .dhcp else .none) then s
    else raise (takeLinkLocal s) 6 0 Code.addrLinkLocal 1)

/-- DHCP_RENEW (R455): T1 renews, T2 rebinds. -/
def execDhcpRenew (rebind : Bool) (answer : Option Lease) (s : State) : Res :=
  .next (
    if s.net.addr != .dhcp then s else
    let s1 := emit s (.dhcp true rebind)
    match answer with
    | some l => takeLease s1 l
    | none => s1)

/-- LEASE_RETRY (R455). -/
def execLeaseRetry (s : State) : Res := .next (if s.net.addr == .linkLocal then askLease s else s)

/-- ADDR_CONFLICT (R485): another link-local address. -/
def execAddrConflict (s : State) : Res :=
  .next (if s.net.addr == .linkLocal then raise (takeLinkLocal s) 6 0 Code.addrConflict 1 else s)

/-! ### Link changes (R485) -/

/-- With the last link gone the timebase goes to HOLDOVER and LINK_DOWN waits for a link (R485). -/
def linksGone (s : State) : State :=
  let s1 := match s.tb.state with
    | .locked => enterHoldover s
    | _ => s
  raise s1 6 0 Code.linkDown 1

/-- A link goes down. [PRESUMED: log 86] -/
def linkDownNow (s : State) (p : Nat) : State :=
  if !portUpNet s p then s else
  let s1 := selectMaster (setLink s p false false)
  if linked s1 then s1 else linksGone s1

/-- A link comes up: the first starts DHCP (R455). -/
def linkUpNow (s : State) (p : Nat) (fdx : Bool) : State :=
  let s1 := modNet (setLink s p true fdx) fun n => { n with everLinked := true }
  if s.net.everLinked || rb s 0x00050000 0 then s1 else askLease s1

/-- The changes of a port in the last 60 s, this one included. -/
def portChanges (s : State) (p : Nat) : List Nat :=
  (s.now :: (if p == 0 then s.net.chg0 else s.net.chg1)).filter fun t => decide (s.now < t + secNs 60)

/-- A link change is counted; more than 10 within 60 s hold the port down (R485). -/
def countChange (s : State) (p : Nat) : State :=
  let cs := portChanges s p
  let s1 := modNet s fun n =>
    if p == 0 then { n with chg0 := cs, linkChg0 := satAdd 65535 n.linkChg0 1 } else { n with chg1 := cs, linkChg1 := satAdd 65535 n.linkChg1 1 }
  if cs.length ≤ 10 then s1
  else
    let s2 := raise s1 6 0 Code.portFlap 1
    linkDownNow (modNet s2 fun n => if p == 0 then { n with held0 := true, chg0 := [] } else { n with held1 := true, chg1 := [] }) p

/-- PHY_LINK_CHANGE (R485). -/
def execPhyLinkChange (port : Nat) (up fdx : Bool) (s : State) : Res :=
  onUnit (decide (port < 2)) (
    if !netOn s || !rb s 0x00050000 (1 + port) || portHeld s port || portUpNet s port == up then s
    else countChange (if up then linkUpNow s port fdx else linkDownNow s port) port)

/-- PORT_HOLD_END (R485). -/
def execPortHoldEnd (port : Nat) (s : State) : Res :=
  onUnit (decide (port < 2)) (modNet s fun n => if port == 0 then { n with held0 := false } else { n with held1 := false })

/-- NET_CTRL takes effect at once (R482): a disabled port loses its link, IP_MODE its address. -/
def netFollow (s : State) : State :=
  addrFollow ([0, 1].foldl (fun t p => if rb t 0x00050000 (1 + p) then t else linkDownNow t p) s)

/-! ### The switch (R449, R450, R453) -/

/-- The egress queue of a frame (Table 15.2). -/
def queueOf (f : Frame) : Nat :=
  if f.ptp then 3
  else if f.inPort == 2 && f.udpSrc == some 48720 then 2
  else if f.inPort == 2 && f.udpSrc == some 48721 then 1
  else if f.inPort != 2 then match f.vlanPcp with
    | some pcp => pcp / 2 % 4
    | none => 0
  else 0

/-- The PCP of frames that the device originates, by queue (Table 15.2). -/
def pcpOf (q : Nat) : Nat := if q == 0 then 0 else 2 * q + 1

/-- The ports that a frame leaves by: that of a known address, else every other linked port. -/
def egressOf (s : State) (f : Frame) : List Nat :=
  let others := [0, 1, 2].filter fun p => p != f.inPort && portUpNet s p
  if nbit f.dst.toNat 40 then others
  else match s.net.table.find? (fun e => e.mac == f.dst) with
    | some e => others.filter (· == e.port)
    | none => others

/-- The address table learns a source; it holds 256 entries. [PRESUMED: log 86] -/
def learn (t : List AddrEntry) (f : Frame) : List AddrEntry :=
  let rest := t.filter fun e => e.mac != f.src
  if 256 ≤ rest.length then rest else rest ++ [⟨f.src, f.inPort⟩]

/-- What the transparent clock adds to a correction: the residence time, and for Sync the ingress port's peer
delay (R453). -/
def correctionOf (s : State) (f : Frame) : Nat :=
  if !rb s 0x00050000 6 || !f.ptpEvent || f.inPort == 2 then 0
  else f.residence + (if f.ptpSync then (if f.inPort == 0 then s.net.pdelay0 else s.net.pdelay1).toNat else 0)

/-- Counts a received frame. [PRESUMED: log 86] -/
def countRx (n : NetSt) (p : Nat) : NetSt :=
  if p == 0 then { n with rx0 := n.rx0 + 1 } else if p == 1 then { n with rx1 := n.rx1 + 1 } else { n with rx2 := n.rx2 + 1 }

/-- FRAME_FORWARD (R449). -/
def execFrameForward (f : Frame) (s : State) : Res :=
  onUnit (decide (f.inPort < 3)) (
    if !netOn s || !portUpNet s f.inPort then s
    else if !f.fcsOk || f.len < 64 || 1522 < f.len then modNet s fun n => { n with refusedFrames := satAdd 65535 n.refusedFrames 1 }
    else
      let s1 := modNet s fun n => countRx { n with table := learn n.table f } f.inPort
      if !f.room then modNet s1 fun n => { n with overflowDrops := satAdd 65535 n.overflowDrops 1 }
      else
        let q := queueOf f
        let g := if f.inPort == 2 && rb s 0x00050000 7 then { f with vlanPcp := some (pcpOf q) } else f
        emit s1 (.frame (egressOf s f) q g (correctionOf s f)))

/-- ADDRESS_TABLE_AGEING (R449). -/
def execAddressTableAgeing (mac : BitVec 48) (s : State) : Res :=
  .next (modNet s fun n => { n with table := n.table.filter fun e => e.mac != mac })

end Sys2Proof.Machine
end

