-- ==== Sys2Proof/Machine/Otp.lean ====
section
/-! DEFINITION. The OTP commands (chapter 04).  Each row of the table fixes OP; the other fields of the written
word are read as OTP_CMD defines them.  An operation runs to its end within its command, so BUSY never shows. -/
namespace Sys2Proof.Machine

/-- An OTP_CMD write on a path that R120 forbids is refused on the path too. -/
def otpAnswer (s0 s : State) (path : Path) : State :=
  answer s path 0x00020008 (if otpPathOk s0 path then .ok else .path)

/-- PROGRAM_ROW (R129). -/
def execProgramRow (path : Path) (cmd : Word) (a : OtpAnalog) (s : State) : Res :=
  .next (otpAnswer s (otpProgramRow s path cmd a) path)

/-- REINFORCE_ROW (R126). -/
def execReinforceRow (path : Path) (cmd : Word) (a : OtpAnalog) (s : State) : Res :=
  .next (otpAnswer s (otpReinforceRow s path cmd a) path)

/-- MARGIN_ROW (R126). -/
def execMarginRow (path : Path) (cmd : Word) (s : State) : Res := .next (otpAnswer s (otpMarginRow s path cmd) path)

/-- SCAN (R128). -/
def execScan (path : Path) (cmd : Word) (a : OtpAnalog) (s : State) : Res := .next (otpAnswer s (otpScan s path cmd a) path)

/-- ROLLBACK_RAISE (R124). -/
def execRollbackRaise (path : Path) (cmd : Word) (a : OtpAnalog) (s : State) : Res :=
  .next (otpAnswer s (otpRollbackRaise s path cmd a) path)

/-- POLICY_LOCK (R133). -/
def execPolicyLock (path : Path) (cmd : Word) (a : OtpAnalog) (s : State) : Res :=
  .next (otpAnswer s (otpPolicyLock s path cmd a) path)

/-- KWRAP_GEN (R123). -/
def execKwrapGen (path : Path) (cmd : Word) (a : OtpAnalog) (s : State) : Res :=
  .next (otpAnswer s (otpKwrapGen s path cmd a) path)

end Sys2Proof.Machine
end

