-- ==== Sys2Proof/Machine/ResetOps.lean ====
section
/-! DEFINITION. Die hold and release, die reset, and what a cold or warm reset leaves (Table 3.2, R81, R218). -/
namespace Sys2Proof.Machine

/-! ### A die's registers, memory and units -/

/-- The register window of a die (Table 24.1). -/
def dieWindow (d : Die) : Nat × Nat :=
  match d with
  | .svc => (0, 0x01000000)
  | .eye => (0x01000000, 0x02000000)
  | _ => let b := cdBase (d.cdIdx.getD 0); (b, b + 0x01000000)

/-- The memory of a die: SVC SRAM, the frame buffer, cluster SRAM (Table 7.1). -/
def dieMem (d : Die) : Nat × Nat :=
  match d with
  | .svc => (0x00400000, 0x00800000)
  | .eye => (0x01800000, 0x03000000)
  | _ => let b := sramBase (d.cdIdx.getD 0) 0; (b, b + 0x04000000)

/-- A die's registers at their reset values and its memory cleared. -/
def wipeDie (s : State) (d : Die) : State :=
  let s1 := rclear s (dieWindow d).1 (dieWindow d).2
  { s1 with mem := clearBytes s1.mem (dieMem d).1 (dieMem d).2 }

/-- A die's units as its power leaves them: everything they hold is lost. -/
def clearUnits (s : State) (d : Die) : State :=
  match d with
  | .svc => s
  | .eye => { s with eye := { tempNext := s.eye.tempNext }, isp := {}, guard := {} }
  | _ =>
    let n := d.cdIdx.getD 0
    let s1 := modLedger (modFab (modDet (modComp s n fun _ => {}) n fun _ => {}) n fun _ => {}) n fun _ => []
    { s1 with outboxes := s1.outboxes.setIfInBounds d.idx {} }

/-- The epoch's counts that SVC holds of a die, with everything of the die itself gone. [DESIGN CHOICE: log 34] -/
def lostDie (x : DieSt) (code : Nat) : DieSt := { state := code, out := true, late := x.late, missed := x.missed, ratio := x.ratio }

/-! ### Ports (Table 3.2) -/

/-- A port with its power lost; trainings are counted since the cold reset. -/
def portReset (e : EdlPort) : EdlPort := { trainCount := e.trainCount }

/-- The partner's end of a link whose other end has gone: DOWN, its parcels taking other routes (R188). [DESIGN CHOICE: log 34] -/
def partnerDown (s : State) (q : PortId) : State := modPort (portLost s q) q portReset

/-- A die's ports go down: the partners report the links FAILED; a season that switches the die off leaves the links
NOT_TRAINED and raises nothing (Table 3.2, R643). -/
def portsDown (s : State) (d : Die) (quiet : Bool) : State :=
  (portsOf d).foldl (fun t p =>
    let t1 := modPort t p portReset
    match peerPort t.part p, portLink t.part p with
    | some q, some (i, _) =>
      let t2 := partnerDown t1 q
      if quiet then modBoot t2 fun b => { b with links := b.links.setIfInBounds i 0 }
      else if (t2.boot.links[i]?.getD 0) == 4 then t2
      else linkChangeOnce t2 p 5 3
    | _, _ => t1) s

/-! ### Die hold (Table 3.2) -/

/-- DIE_HOLD's bit of a die. -/
def holdBit (d : Die) : Word := toWord (2 ^ d.code)

/-- Is a die held? -/
def held (s : State) (d : Die) : Bool := rb s 0x0001001C d.code

/-- Holds a die in reset: SRAM, ledger and runtime registers are lost, its ports go down.  With `off` its domains are switched
off by a season, by DORMANT or by a thermal stop (R643). [DESIGN CHOICE: log 34] -/
def holdDie (s : State) (d : Die) (off : Bool) : State :=
  let s1 := rput s 0x0001001C (rget s 0x0001001C ||| holdBit d)
  let s2 := clearUnits (wipeDie (portsDown s1 d off) d) d
  modDie s2 d fun x => lostDie x (if off then 0 else 1)

/-- Every other die held and switched off (R643, R644). -/
def holdAll (s : State) : State := ((fittedDies s).filter (· != .svc)).foldl (fun t d => holdDie t d true) s

/-! ### SITE and release (R81–R83) -/

/-- Does a compute die find SITE_BAD (R82)? -/
def siteBad (site : Nat) (mirrored : Bool) : Bool := site == 4 || site == 5 || 7 ≤ site || nbit site 2 != mirrored

/-- A compute die that never leaves reset: its links are FAILED and its DIE_STATE too (R82). -/
def siteBadNow (s : State) (cd : Nat) : State :=
  let d := Die.ofCd cd
  let s1 := logOnly (portsDown s d false) .svc 0xD 0 Code.siteBad 2
  modDie s1 d fun x => lostDie x 6

/-- A compute die reads SITE (R81). [DESIGN CHOICE: log 36] -/
def readSite (s : State) (cd site : Nat) (mirrored : Bool) : State :=
  let s1 := modBoot s fun b => { b with site := b.site.setIfInBounds cd (site % 8, true) }
  if siteBad site mirrored then siteBadNow s1 cd else s1

/-- The units of a die just released: the sensor calibrates, clusters and detect unit are IDLE (R254, R316). -/
def unitsOn (s : State) (d : Die) : State :=
  match d with
  | .svc => s
  | .eye => eyeRelease s
  | _ =>
    let n := d.cdIdx.getD 0
    modDet (modComp s n fun c => { c with clusters := c.clusters.map fun k => { k with state := .idle } }) n fun x => { x with state := .idle }

/-- Releases a die from hold: its ports train from L1, and its units start (R81, R167, R230). -/
def releaseDie (s : State) (d : Die) : State :=
  let s1 := rput s 0x0001001C (rget s 0x0001001C &&& ~~~(holdBit d))
  let s2 := (portsOf d).foldl (fun t p =>
    let t1 := modPort t p portReset
    match peerPort t.part p with
    | some q => modPort t1 q portReset
    | none => t1) s1
  unitsOn (modDie s2 d fun x => lostDie x 2) d

/-- The guard's self-test at the release of the EYE (Table 13.13). -/
def guardSelftest (s : State) (ok : Bool) : State := modGuard s fun g => { g with selftestFail := !ok }

/-- A die may be released at the level in force: at level 3 only the EYE and CD0 (R646). [DESIGN CHOICE: log 37] -/
def levelPermits (s : State) (d : Die) : Bool := decide (autumnLevel s < 3) || d == .eye || d == .cd0

/-! ### Die reset (R218) -/

/-- A port enters SINK, its protocol state kept. -/
def portSink (e : EdlPort) : EdlPort := if e.pstate == .up then { e with pstate := .sink } else e

/-- Reads outstanding at a die reset become reads of the old generation; those that wait are dropped. -/
def fabDieReset (f : Fabric) : Fabric :=
  { gen := (f.gen + 1) % 16, tags := f.tags.map fun t => { t with old := true }, poison := f.poison, held := f.held,
    ledgerEpoch := f.ledgerEpoch }

/-- SVC tells the other compute dies of the placement that a die of it has been reset (Table 10.9). -/
def resetAborts (s : State) (cd : Nat) : State :=
  if !(placedDies s).contains cd then s
  else ((placedDies s).filter (· != cd)).foldl (fun t n =>
    sendMsg t .svc (Die.ofCd n) 4 (leBytes 4 s.seqr.epoch.toNat ++ leBytes 1 0x10 ++ leBytes 1 (Die.ofCd cd).code ++ leBytes 2 0xFFFF)) s

/-- A die reset of a compute die (R218): SRAM, HELD bits, committed ledger lines, the EDL protocol state and routes are kept. -/
def dieResetNow (s : State) (cd site : Nat) (mirrored : Bool) : State :=
  let d := Die.ofCd cd
  let b := cdBase cd
  let s1 := rclear (rclear (rclear s b (b + 0x00500000)) (b + 0x00600000) (b + 0x00700000)) (b + 0x00700008) (b + 0x01000000)
  let s2 := modFab (modDet (modComp (ledgerMark s1 cd).2 cd fun _ => {}) cd fun _ => {}) cd fabDieReset
  let s3 := (portsOf d).foldl (fun t p => modPort t p portSink) s2
  let s4 := modDie s3 d fun x => lostDie x 7
  resetAborts (readSite (markPartial (unitsOn s4 d) d) cd site mirrored) cd

/-- A die that takes a die reset: a fitted compute die out of hold. -/
def mayDieReset (s : State) (cd : Nat) : Bool := dieOpen s (Die.ofCd cd)

/-! ### Cold and warm reset (Table 3.2) -/

/-- The bit of RESET_CAUSE of a cold reset (Table 3.13). -/
def coldBit : ColdCause → Nat
  | .por => 0 | .pin _ => 1 | .cmd => 2 | .wdtEscalated => 5 | .thermalStop => 6 | .vcoreLoss => 7

/-- The bit of RESET_CAUSE of a warm reset. -/
def warmBit : WarmCause → Nat
  | .cmd => 3 | .wdt => 4 | .slotRetry => 8 | .coreLockup => 9

/-- What the flash holds of Harvest through any reset (R435). -/
def hvReset (v : HarvestSt) : HarvestSt := { ckpt0 := v.ckpt0, ckpt1 := v.ckpt1, flushed := v.flushed, exLog := v.exLog }

/-- The OTP macro without what a cold reset loads again (R109, R138). -/
def otpCold (o : OtpSt) : OtpSt := { rows := o.rows, spares := o.spares, redir := o.redir, weak := o.weak }

/-- The OTP macro after a warm reset: the load and the locks are kept, OTP_STATUS is cleared (Table 4.13). -/
def otpWarm (o : OtpSt) : OtpSt :=
  { o with done := false, error := false, result := 0, pulses := 0, weakMask := 0, vsysOk := false, tempOk := false, pumpReady := false }

/-- The network after a warm reset: PHYs, switch and the timebase's ports are kept (Table 3.2). -/
def netWarm (n : NetSt) : NetSt :=
  { linkP0 := n.linkP0, fdxP0 := n.fdxP0, linkP1 := n.linkP1, fdxP1 := n.fdxP1, chg0 := n.chg0, chg1 := n.chg1
    held0 := n.held0, held1 := n.held1, everLinked := n.everLinked, on := n.on, table := n.table, master0 := n.master0
    master1 := n.master1, syncLog0 := n.syncLog0, slave := n.slave, pdelay0 := n.pdelay0, pdelay1 := n.pdelay1 }

/-- Power and heat after a warm reset: the thermal monitor and the energy accumulator go on (R657, Table 21.13). [DESIGN CHOICE: log 35] -/
def powerWarm (p : PowerSt) : PowerSt :=
  { tLevel := p.tLevel, tmax := p.tmax, hot := p.hot, sensors := p.sensors, riseRun := p.riseRun, fallRun := p.fallRun
    heldLevel := p.heldLevel, capLevel := max p.tLevel p.heldLevel, vcoreSent := p.vcoreSent, vout := p.vout, iout := p.iout, pout := p.pout, energyEst := p.energyEst
    energy := p.energy, secondUj := p.secondUj, secondSteps := p.secondSteps, tjPeak := p.tjPeak, tjPeakDie := p.tjPeakDie
    thermalStopped := p.thermalStopped, railFault := p.railFault }

/-- Start-up after a warm reset, from step 5: the strap, the watchdog's history and a cause found in step 14 are kept
while its slot's BOOT_SKIP bit stands (R80, R93). -/
def bootWarm (b : BootSt) (skip : Word) : BootSt :=
  let keep (slot c : Nat) : Nat := if wbit skip slot && (c == 0x0F || c == 0x10 || c == 0x13) then c else 0
  { phase := 5, causeA := keep 0 b.causeA, causeB := keep 1 b.causeB, strap := b.strap, resetCause := b.resetCause
    started := b.started, wdtResets := b.wdtResets }

/-- What every reset leaves: the queue, the part, what has left it, the flash, and the trouble log. [DESIGN CHOICE: log 3] -/
def resetCommon (s : State) (keepTrains : Bool) : State :=
  { State.reset with
    pending := s.pending, part := s.part, now := s.now, freeIdx := s.freeIdx, out := s.out, flash := s.flash, log := s.log
    hv := hvReset s.hv, fo := s.fo, bus := { gpioIn := s.bus.gpioIn }
    ports := if keepTrains then s.ports.map portReset else Vector.replicate 23 {} }

/-- A switch-over that was scheduled is cancelled by a reset and logged (Table 3.16). -/
def switchLost (s0 s : State) : State :=
  if s0.sw.state == 1 || s0.sw.state == 2 then raise s 6 0 Code.switchCancelled 1 else s

/-- A cold reset (Table 3.2).  Start-up begins with the RESET_N edge, or at once where no edge is awaited; `lost` says that the
log header does not check or VSYS did not stay up (R630). [DEDUCED: log 32] -/
def coldNow (s : State) (cause : Nat) (edge thermal lost : Bool) : State :=
  let s0 := foReset s true
  let s1 := { resetCommon s0 false with
    otp := otpCold s.otp
    boot := { resetCause := toWord cause, phase := if edge then 0 else 1, started := s.now }
    power := { thermalStopped := thermal, tjPeak := if thermal then s.power.tjPeak else 0,
               tjPeakDie := if thermal then s.power.tjPeakDie else 0 } }
  let s2 := switchLost s (logReset s1 cause lost true)
  if s.boot.alert then emit s2 (.alertN false) else s2

/-- A warm reset (Table 3.2): start-up runs again from the boot ROM at step 5, with VCORE at 0.75 V (R657). [DEDUCED: log 32] -/
def warmNow (s : State) (bit : Nat) : State :=
  let s0 := foReset s false
  let skip := rget s 0x0001000C
  let b := bootWarm s.boot skip
  let cause := b.resetCause ||| toWord (2 ^ bit)
  let s1 := { resetCommon s0 true with
    otp := otpWarm s.otp
    net := netWarm s.net
    tb := s.tb
    hk := { trimBad := s.hk.trimBad }
    lst := { policyOff := s.lst.policyOff }
    power := powerWarm s.power
    boot := { b with resetCause := cause } }
  sendVcore (switchLost s (logReset (rput s1 0x0001000C skip) cause.toNat false false)) 750

/-- A commanded reset: BYE goes out first (R514). -/
def coldCmd (s : State) : State := coldNow (sendBye s) 4 false false false
def warmCmd (s : State) : State := warmNow (sendBye s) 3

/-- Does a low of RESET_N reset the part: from 10 µs, never below 9.5 µs; between them the spec leaves it open (Table 3.2,
chapter 22)? [DESIGN CHOICE: log 33] -/
def pinResets (s : State) (lowNs : Nat) : Bool × State :=
  if 10000 ≤ lowNs then (true, s) else if lowNs < 9500 then (false, s)
  else let r := fresh s; (nbit r.1 0, r.2)

/-- HALT_OTP (30), HALT_POWER (31): only the always-on domain stays powered, ALERT_N is driven low (R77). -/
def haltNow (s : State) (code : Nat) : State :=
  let s1 := foReset (holdAll s) false
  let s2 := modPower (modBoot s1 fun b => { b with phase := code, alert := true, links := Vector.replicate 10 0 }) fun p => { p with halted := true }
  let s3 := { s2 with bcp := {}, recs := {}, peers := {}, seqr := {}, stage := {}, sw := {}, net := {} }
  emit (followSeason s3 s3) (.alertN true)

end Sys2Proof.Machine
end

