-- ==== Sys2Proof/Machine/Power.lean ====
section
/-! DEFINITION. Heat, power level, WINTER and power faults (chapter 21). -/
namespace Sys2Proof.Machine

/-! ### The thermal monitor (R639, R640) -/

/-- A signed byte of a TRIM row, for a die by its place in Table 21.9; 0 when the TRIM check word fails. -/
def trimByte (s : State) (row i : Nat) : Int := if s.hk.trimBad then 0 else toSigned 8 (bits (mrow s row).toNat (8 * i + 7) (8 * i))

/-- A reading in 1/4 °C corrected with its offset (1/8 °C) and gain (2^-10), in 1/4 °C; the rounding of a value between two steps
is left open (R639, Table 21.9). [DESIGN CHOICE: log 109] -/
def tjCorrect (s : State) (i : Nat) (t : Int) : Int :=
  let n := t * (1024 + trimByte s 0x039 i) + 512 * trimByte s 0x038 i
  if n % 1024 == 0 then n / 1024 else Config.tjRound n

/-- Is a die powered, so that an unchanging sensor is a fault? -/
def diePowered (s : State) (d : Die) : Bool := d == .svc || (let x := (s.die d).state; x != 0 && x != 1 && x != 8)

/-- One sensor takes a reading: outside −40–150 °C, or unchanged for 10 s while its die is powered, it is excluded
(Table 21.14). -/
def tjTake (x : TjSensor) (t : Int) (powered : Bool) : TjSensor :=
  let same := if powered && x.valid && x.t == t then x.same + 1 else 0
  let bad := x.fault || decide (t < -160) || decide (600 < t) || decide (10000 ≤ same)
  { t := if bad then x.t else t, valid := !bad, fault := bad, same := same }

/-- A junction temperature in 1/4 °C, rounded down, from a corrected HK-ADC code (Table 18.1). -/
def tjOfCode (y : Nat) : Int := (2 * ((y : Int) * 1200 - 500 * 4096)) / 4096

/-- The HK-ADC channel that stands in for an excluded sensor while a converter runs (Table 21.14). [DESIGN CHOICE: log 110] -/
def tjStandIn (s : State) (i : Nat) : Option Int :=
  if (hkConverting s.hk.a || hkConverting s.hk.b) && vget s.hk.count i != 0 then some (tjOfCode (wbits (vget s.hk.last i) 11 0)) else none

/-- Places of the fitted dies. -/
def fittedIdx (s : State) : List (Nat × Die) := (fittedDies s).map fun d => (d.idx, d)

/-- The temperatures that Tmax is taken over. -/
def tjReadings (s : State) : List (Int × Die) :=
  (fittedIdx s).filterMap fun x =>
    let t := vget s.power.sensors x.1
    if t.valid then some (t.t, x.2) else if t.fault then (tjStandIn s x.1).map fun v => (v, x.2) else none

/-- Sensors of fitted dies that are excluded. [DESIGN CHOICE: log 110] -/
def tjExcluded (s : State) : List Nat := ((fittedIdx s).map (·.1)).filter fun i => (vget s.power.sensors i).fault

/-- The level that excluded sensors hold until cold reset (Table 21.14). -/
def heldBy (s : State) : Nat :=
  let xs := tjExcluded s
  if 2 ≤ xs.length then 2 else if xs.any fun i => (tjStandIn s i).isNone then 1 else 0

/-- Entry thresholds of levels 1–3 and stop, and exit thresholds of levels 1–3, in 1/4 °C (Table 21.6). -/
def tjEnter : List Int := [360, 388, 408, 432]
def tjLeave : List Int := [340, 368, 388]

/-- Consecutive samples on the far side of each threshold. -/
def runsOf (rs : List Nat) (hit : List Bool) : List Nat := (rs.zip hit).map fun x => if x.2 then min 4 (x.1 + 1) else 0

/-- T_L from the runs: straight up to the highest level crossed, down one level for each exit threshold crossed (R640). [DESIGN CHOICE: log 110] -/
def tLevelFrom (l : Nat) (rise fall : List Nat) : Nat :=
  let up := ((List.range 3).filter fun k => 4 ≤ lget 0 rise k).foldl (fun m k => max m (k + 1)) l
  if l < up then up
  else l - ((List.range l).filter fun k => 4 ≤ lget 0 fall k).length

/-- A change of the AUTUMN level: a rise applies the cap at once (R642). -/
def levelChanged (s : State) : State :=
  let l := autumnLevel s
  if s.power.capLevel < l then applyCap (modPower s fun p => { p with capLevel := l }) else s

/-- Thermal stop (R642, Table 21.8): the dies, the management core and what Table 21.8 names are off; the switch forwards on. [DESIGN CHOICE: log 110] -/
def thermalStop (s : State) : State :=
  let s1 := holdAll { s with seqr := { s.seqr with armed := false, stopped := true }, bcp := {}, recs := {}, peers := {} }
  seasonTo (modPower s1 fun p => { p with stopClear := 0, next := none, winterReq := false }) .thermalStop

/-- The readings of one sample taken by the sensors; a sensor newly excluded is logged (Table 21.14). -/
def tjSample (s : State) (temps : List Int) : State :=
  (fittedIdx s).foldl (fun t x =>
    let old := vget t.power.sensors x.1
    let new := tjTake old (tjCorrect t x.1 (temps.getD x.1 0)) (diePowered t x.2)
    let t1 := modPower t fun p => { p with sensors := p.sensors.setIfInBounds x.1 new }
    if new.fault && !old.fault then raise t1 0xE 0 Code.sensorFault (if 2 ≤ (tjExcluded t1).length then 3 else 2) else t1) s

/-- Tmax and its die, and their peak since cold reset. -/
def tjMax (s : State) : State :=
  match tjReadings s with
  | [] => s
  | r :: rs =>
    let m := rs.foldl (fun (a : Int × Die) x => if a.1 < x.1 then x else a) r
    modPower s fun p => { p with
      tmax := m.1, hot := m.2.code
      tjPeak := if p.tjPeak < m.1 then m.1 else p.tjPeak
      tjPeakDie := if p.tjPeak < m.1 then m.2.code else p.tjPeakDie }

/-- TEMP defect entries follow the EYE sensor at the next equinox, 5 °C of hysteresis (R245). -/
def tempDefects (s : State) : State :=
  let e := vget s.power.sensors 1
  let top : Int := 4 * (rnat s 0x01000034 : Int)
  if !e.valid then s
  else modEye s fun y => { y with tempNext := if top ≤ e.t then true else if e.t < top - 20 then false else y.tempNext }

/-- The level after a sample (R640, Table 21.14). -/
def tjLevel (s : State) : State :=
  let t := s.power.tmax
  let rise := runsOf s.power.riseRun (tjEnter.map fun x => decide (x ≤ t))
  let fall := runsOf s.power.fallRun (tjLeave.map fun x => decide (t < x))
  let l := tLevelFrom s.power.tLevel rise fall
  let s1 := modPower s fun p => { p with
    riseRun := rise, fallRun := fall, tLevel := l, heldLevel := max p.heldLevel (heldBy s)
    stopClear := if t < 412 then p.stopClear + 1 else 0 }
  levelChanged (if l == s.power.tLevel then s1 else raise s1 0xE 0 Code.thermalLevel 1)

/-- THERMAL_SAMPLE (R639, R640): at 108 °C for 3 samples, from step 11 on, thermal stop. -/
def execThermalSample (temps : List Int) (s : State) : Res :=
  .next (if s.boot.phase == 0 then s else
    let s1 := tjLevel (tempDefects (tjMax (tjSample s temps)))
    if decide (3 ≤ lget 0 s1.power.riseRun 3) && decide (11 ≤ s1.boot.phase) && decide (s1.boot.phase ≤ 17) &&
       s1.power.season != .thermalStop && !s1.power.halted
    then thermalStop s1 else s1)

/-- THERMAL_STOP_EXIT (R642): Tmax has lain below 103 °C for 1 s. -/
def execThermalStopExit (s : State) : Res :=
  .next (if s.power.season == .thermalStop then coldNow s 64 false true false else s)

/-! ### The power level (R641) -/

/-- P_L moves, and the cap with it. [DESIGN CHOICE: log 110] -/
def pLevelTo (s : State) (l : Nat) : State := levelChanged (modPower s fun p => { p with pLevel := l })

/-- P_L rises by 1, to at most 3: POWER_LIMIT (Table 21.14). -/
def pLevelUp (s : State) : State :=
  if 3 ≤ s.power.pLevel then s else raise (pLevelTo s (s.power.pLevel + 1)) 0xE 0 Code.powerLimit 1

/-- POWER_LEVEL_EVAL (R641): once a second. -/
def execPowerLevelEval (s : State) : Res :=
  let cap := rnat s 0x00030030
  let w := s.power.pwr1s
  .next (
    if cap == 0 then pLevelTo (modPower s fun p => { p with overRun := 0, underRun := 0 }) 0
    else
      let ovr := if cap < w then s.power.overRun + 1 else 0
      let under := if 100 * w < 85 * cap then s.power.underRun + 1 else 0
      let s1 := modPower s fun p => { p with overRun := ovr % 3, underRun := under % 10 }
      if ovr == 3 then pLevelUp s1
      else if under == 10 then pLevelTo s1 (s.power.pLevel - 1)
      else s1)

/-! ### WINTER and SPRING (R644–R646) -/

/-- May a path write the power and season registers (R653)? -/
def powerPathOk (s : State) : Path → Bool
  | .core | .bcp => true
  | .i2c | .jtag => !inField s

/-- WINTER ends into SPRING by a command or the close of its window (R645). [DESIGN CHOICE: log 111] -/
def leaveWinter (s : State) : State := seasonTo (modPower s fun p => { p with wakeHold := none, winterReq := false, next := none }) .spring

/-- A write to SEASON_CMD (R651): with another key it does nothing. -/
def seasonCmdReg (s : State) (path : Path) (v : Word) : WriteRes :=
  if !powerPathOk s path then (s, .path)
  else if wbits v 31 16 != 0x5EA5 then (s, .ok)
  else match wbits v 1 0 with
    | 1 =>
      if s.power.season == .dormant || s.power.season == .spring then (s, .state)
      else if s.power.season == .winter || s.power.season == .thermalStop then (s, .ok)
      else (modPower s fun p => { p with winterReq := true }, .ok)
    | 2 =>
      if s.power.season == .winter then (leaveWinter (modPower s fun p => { p with windowLeft := p.windowOpen }), .ok) else (s, .ok)
    | _ => (s, .ok)

/-- SEASON_CMD_WINTER (R644, R651). -/
def execSeasonCmdWinter (path : Path) (v : Word) (s : State) : Res := .next (answerWrite path 0x00030008 (seasonCmdReg s path v))

/-- SEASON_CMD_LEAVE (R645). -/
def execSeasonCmdLeave (path : Path) (v : Word) (s : State) : Res := .next (answerWrite path 0x00030008 (seasonCmdReg s path v))

/-- SPRING_BRINGUP (R646): after WINTER, the dies that the level permits are released, and steps 12, 14 and 15 follow; the recogniser
stays resident. -/
def execSpringBringup (s : State) : Res :=
  .next (
    if s.power.season == .spring && s.boot.phase == 17 then
      let s1 := modSeq s fun q => { q with armed := false, released := false, ran := false, stopped := false, killed := false }
      let s2 := ((fittedDies s1).filter fun d => d != .svc && levelPermits s1 d).foldl releaseDie s1
      modBoot s2 fun b => { b with phase := 12, stepsDone := [13] }
    else s)

/-- WAKE_HOLD_EXPIRE (R645). -/
def execWakeHoldExpire (s : State) : Res := .next (modPower s fun p => { p with wakeHold := none })

/-- WINTER_WINDOW_CLOSE (R645). -/
def execWinterWindowClose (s : State) : Res :=
  let s1 := modPower s fun p => { p with windowOpen := false, windowLeft := false, wakeHold := none, deferred := false }
  .next (if s.power.season == .winter && s.power.windowOpen then leaveWinter s1 else s1)

/-- Entry to WINTER at the equinox (R644). [DESIGN CHOICE: log 25] -/
def enterWinter (s : State) : State :=
  let s1 := modSeq (sendBye s) fun q => { q with armed := false, released := false, stopped := true }
  seasonTo (holdAll (modPower s1 fun p => { p with winterReq := false, deferred := false })) .winter

/-- The minute of the TAI day (R422, R644). -/
def taiMinute (s : State) : Nat := s.tb.ltime.toNat / 60000000000 % 1440

/-- Is a minute in a window of so many minutes from a start? -/
def inWindow (now start len : Nat) : Bool := decide ((now + 1440 - start) % 1440 < len)

/-! ### Faults (R656) -/

/-- VCORE_FAULT (Table 21.14). [DESIGN CHOICE: log 104] -/
def vcoreFaultNow (s : State) : State := if s.power.voutBad then s else raise (modPower s fun p => { p with voutBad := true }) 0xE 0 Code.vcoreFault 2

/-- VCORE_FAULT: READ_VOUT has lain more than 3 % from the setting for 100 ms; the slack controller is held. -/
def execVcoreFault (s : State) : Res := .next (vcoreFaultNow s)

/-- RAIL_FAULT (Table 21.14): VANA or VSYS has been outside its range for 10 ms. -/
def execRailFault (_vana : Bool) (s : State) : Res :=
  .next (raise (modPower s fun p => { p with railFault := true }) 0xE 0 Code.railFault 2)

/-- VSYS_BROWNOUT (Table 21.14): cold reset, held until VSYS recovers; the log header does not outlive it (R630). [DESIGN CHOICE: log 35] -/
def execVsysBrownout (s : State) : Res := .next (coldNow s 0 true false true)

/-- The die of a switched domain (Table 21.4). -/
def domainDie (d : Nat) : Die := if d < 56 then Die.ofCd (d / 14) else if d < 63 then .eye else .svc

/-- A die that has become unusable (Table 1.10): its ports down, its DIE_STATE FAILED. [DESIGN CHOICE: log 110] -/
def failDie (s : State) (d : Die) : State := modDie (clearUnits (wipeDie (portsDown s d false) d) d) d fun x => lostDie x 6

/-- DOMAIN_POWER_FAULT (Table 21.14). -/
def execDomainPowerFault (d : Nat) (s : State) : Res :=
  onUnit (decide (d < 76) && fitted s (domainDie d)) (
    let s1 := modPower s fun p => { p with pdFault := p.pdFault ||| BitVec.ofNat 76 (2 ^ d) }
    let s2 := raise s1 0xE 0 Code.domainFault 2
    if domainDie d == .svc then s2 else failDie s2 (domainDie d))

/-- CLOCK_LOSS_HALT (R677): HALT_POWER. -/
def execClockLossHalt (s : State) : Res := .next (if s.power.halted then s else haltNow s 31)

end Sys2Proof.Machine
end

