-- ==== Sys2Proof/Machine/HvCtl.lean ====
section
/-! DEFINITION. Harvest as SVC runs it: commands, windows, the state table, checkpoints in flash, and restoring
(R422, R423, R434–R448). -/
namespace Sys2Proof.Machine

/-- Has an epoch number reached another, in the wrapping order of epoch numbers? -/
def epochReached (now target : Word) : Bool := decide ((now - target).toNat < 2 ^ 31)

/-! ### The block, its die and the area (R420, R435) -/

/-- The boot descriptor in use. -/
def descNow (s : State) : Option BootDesc := if s.boot.descCopy == 1 then s.flash.desc1 else s.flash.desc0

/-- Does a Harvest block keep the limits of Table 14.1 and R444? -/
def hvLimits (b : HarvestBlock) : Bool :=
  decide (2 ≤ b.r) && decide (b.r ≤ 128) && decide (1 ≤ b.k) && decide (b.k ≤ 128) && decide (hvEnd b ≤ 2048)

/-- HV_STATUS.OFF_CAUSE: no block, POLICY, an area below 11 MiB, or a die that is not fitted or a block beyond its limits. -/
def hvOffCause (s : State) : Nat :=
  match hvBlock s with
  | none => 1
  | some b =>
    if noHarvest s then 2
    else if (match descNow s with | some d => decide (d.hcpSize < 11 * 2 ^ 20) | none => true) then 3
    else match hvCd s with
      | some cd => if cdOk s cd && hvLimits b then 0 else 4
      | none => 4

/-- Raises HEALTH HARVEST_UNSUPPORTED for an area too small or a block that cannot run (R420, R435). -/
def hvSupport (s : State) : State := if 3 ≤ hvOffCause s then raise s 4 0 Code.harvestUnsupported 1 else s

/-! ### Commands (R423, R441) -/

/-- May a path write the Harvest registers (R443)? -/
def hvPathOk (s : State) : Path → Bool
  | .core | .bcp => true
  | .i2c | .jtag => !inField s

/-- Is a session running? -/
def hvRunning : HvState → Bool
  | .off | .collect | .done => false
  | _ => true

/-- A write to HV_CMD. -/
def hvCmdReg (s : State) (path : Path) (v : Word) : WriteRes :=
  if !hvPathOk s path then (s, .path)
  else if wbits v 31 16 != 0x4A57 then (raise s 4 0 Code.hvCmdBad 1, .ok)
  else match wbits v 1 0 with
    | 1 => if noHarvest s || !rb s 0x00040400 0 then (s, .policy) else (modHv s fun h => { h with startPending := true }, .ok)
    | 2 => (modHv s fun h => { h with cancelPending := hvRunning h.state }, .ok)
    | 3 => (modHv s fun h => { h with revertPending := true }, .ok)
    | _ => (s, .ok)

/-- HV_START (R423). -/
def execHvStart (path : Path) (v : Word) (s : State) : Res := .next (answerWrite path 0x00040408 (hvCmdReg s path v))
/-- HV_CANCEL (R423). -/
def execHvCancel (path : Path) (v : Word) (s : State) : Res := .next (answerWrite path 0x00040408 (hvCmdReg s path v))
/-- HV_REVERT_BASELINE (R434): carried out in the guard interval. -/
def execHvRevertBaseline (path : Path) (v : Word) (s : State) : Res := .next (answerWrite path 0x00040408 (hvCmdReg s path v))

/-! ### Writes of SVC in the guard interval -/

/-- A line with its committed value replaced. [DESIGN CHOICE: log 81] -/
def setCommitted (l : LedgerLine) (v : BitVec 512) : LedgerLine := if l.sel then { l with bank1 := v } else { l with bank0 := v }

/-- Whole lines of the region written as committed values, from a line on. -/
def hvLines (s : State) (cd : Nat) : Nat → List (BitVec 512) → State
  | _, [] => s
  | n, v :: vs => hvLines (modLine s cd n fun l => setCommitted l v) cd (n + 1) vs

/-- Bytes of the committed header replaced. [DESIGN CHOICE: log 81] -/
def hvHeader (s : State) (b : HarvestBlock) (cd off : Nat) (bs : List Byte) : State :=
  modLine s cd b.base fun l => setCommitted l (mergeBytes (committedOf l) off bs)

/-- Byte 0 of the header: STATE and HEAD_SEL (Table 14.3). -/
def hvByte0 (s : State) (b : HarvestBlock) (cd state : Nat) (sel : Bool) : State :=
  hvHeader s b cd 0 [BitVec.ofNat 8 ((ledgerByte s cd (64 * b.base)).toNat / 32 * 32 + 16 * b2n sel + state)]

/-- A head segment of the die's SRAM filled with bytes (R223, R434). -/
def putHead (s : State) (b : HarvestBlock) (cd : Nat) (sel : Bool) (bs : List Byte) : State :=
  memPut s (segment s cd (headSegment b sel)).base bs

/-- A head segment as the running image carries it in flash. -/
def imageHeadBytes (s : State) (b : HarvestBlock) : List Byte :=
  (List.range (headLen b)).map fun i => BitVec.ofNat 8 (Config.imageHead (runningTag s) i).toNat

/-- CRC-32C of a head segment. -/
def headCrc (s : State) (b : HarvestBlock) (cd : Nat) (sel : Bool) : Nat :=
  let g := segment s cd (headSegment b sel)
  crc32c (bytesAt s.mem g.base g.len)

/-- The baseline master weights: code × q_r × T in BF16, each row with its bias (R434). -/
def baselineWeights (b : HarvestBlock) (head : List Byte) : List Nat :=
  let t := f32 (leAt head (b.r * b.k + b.r) 4)
  (List.range b.r).flatMap fun r =>
    let q := (e4m3.decode (head.getD (b.r * b.k + r) 0).toNat).frac e4m3
    ((List.range b.k).map fun c =>
      (bf16.encode true (((Frac.ofInt (toSigned 8 (head.getD (r * b.k + c) 0).toNat)).mul q).mul t)).1) ++ [Config.headBias head r]

/-- Bytes cut into lines, the last filled up with zeros. -/
def linesOfBytes : Nat → List Byte → List (BitVec 512)
  | 0, _ => []
  | n + 1, bs => BitVec.ofNat 512 (leNat (bs.take 64)) :: linesOfBytes n (bs.drop 64)

/-- A checkpoint slot, and its change. -/
def ckptOf (v : HarvestSt) (i : Nat) : Ckpt := if i == 0 then v.ckpt0 else v.ckpt1
def modCkpt (v : HarvestSt) (i : Nat) (f : Ckpt → Ckpt) : HarvestSt :=
  if i == 0 then { v with ckpt0 := f v.ckpt0 } else { v with ckpt1 := f v.ckpt1 }

/-- The area header records a slot's state (R435). [DESIGN CHOICE: log 84] -/
def markCkpt (s : State) (i st : Nat) : State :=
  if (ckptOf s.hv i).state == st then s
  else emit (modHv s fun v => modCkpt v i fun c => { c with state := st }) (.flash (.area i st))

/-- The newest VALIDATED slot: of two, the later session's. -/
def ckptBest (v : HarvestSt) : Option Nat :=
  match v.ckpt0.state == 2, v.ckpt1.state == 2 with
  | true, true => some (if epochReached v.ckpt1.session v.ckpt0.session then 1 else 0)
  | true, false => some 0
  | false, true => some 1
  | false, false => none

/-- The master weights of the baseline, moments and t cleared (R434). -/
def baselineRegion (s : State) (b : HarvestBlock) (cd : Nat) : State :=
  let p := headParams b
  let s1 := hvLines s cd (hvMaster b) (linesOfBytes (linesFor (2 * p)) ((baselineWeights b (imageHeadBytes s b)).flatMap (leBytes 2)))
  let s2 := hvLines s1 cd (hvFirst b) (List.replicate (hvEnd b - hvFirst b) 0)
  hvHeader s2 b cd hvStepOff (leBytes 12 0)

/-- REVERT_BASELINE: both head segments from the running slot, HEAD_SEL 0, the baseline region under the running TAG, both
checkpoints EMPTY; EX_TOTAL is kept (R427, R434). -/
def revertNow (s : State) (b : HarvestBlock) (cd : Nat) : State :=
  let img := imageHeadBytes s b
  let s1 := baselineRegion (putHead (putHead s b cd false img) b cd true img) b cd
  let s2 := hvHeader s1 b cd hvTagOff (leBytes 4 (runningTag s))
  let s3 := hvHeader s2 b cd hvCrcOff (leBytes 4 (headCrc s2 b cd false) ++ leBytes 4 (headCrc s2 b cd true))
  let s4 := hvByte0 s3 b cd (bits (ledgerByte s cd (64 * b.base)).toNat 3 0) false
  modHv (markCkpt (markCkpt s4 0 0) 1 0) fun v => { v with headSel := false, writing := none }

/-- The region restored from the newest VALIDATED checkpoint, or from the baseline; HEAD_SEL, HEAD_CRC and EX_TOTAL are
kept (R433). [DESIGN CHOICE: log 84] -/
def restoreRegion (s : State) (b : HarvestBlock) (cd : Nat) : State :=
  match ckptBest s.hv with
  | none => baselineRegion s b cd
  | some i =>
    let c := ckptOf s.hv i
    let s1 := hvLines s cd (hvMaster b) (c.lines.drop 1)
    hvHeader s1 b cd hvStepOff ((leBytes 64 (c.lines.headD 0).toNat).drop hvStepOff |>.take 12)

/-! ### Checkpoints (R435–R437) -/

/-- The length of a checkpoint: header, region, head segment in whole lines, tag. -/
def ckptLen (b : HarvestBlock) : Nat := 64 + 64 * (hvEnd b - b.base) + 64 * linesFor (headLen b) + 16

/-- The slot that a checkpoint goes to: the first that is not VALIDATED. [DESIGN CHOICE: log 84] -/
def ckptSlot (v : HarvestSt) : Nat := if v.ckpt0.state == 2 then 1 else 0

/-- A checkpoint of the committed region begins: the slot holds it unmarked until it is written.  One that is to be VALIDATED
carries the header as adoption leaves it. [DESIGN CHOICE: log 84] -/
def beginCkpt (s : State) (b : HarvestBlock) (cd : Nat) (validated : Bool) : State :=
  let i := ckptSlot s.hv
  let head := candidateHead b (hvRegion s b cd)
  let lines := (List.range (hvEnd b - b.base)).map fun n => committedOf (ledgerLine s cd (b.base + n))
  let sel := !hvSel s b cd
  let h0 := lines.headD 0
  let b0 := bits h0.toNat 7 0
  let h1 := mergeBytes h0 0 [BitVec.ofNat 8 (b0 / 32 * 32 + b0 % 16 + 16 * b2n sel)]
  let h2 := mergeBytes h1 (hvCrcOff + 4 * b2n sel) (leBytes 4 (crc32c head))
  let c : Ckpt := { session := s.hv.session, tag := toWord (runningTag s), step := hvWord s b cd hvStepOff, cand := s.hv.cand,
                    ref := s.hv.ref, lines := if validated then h2 :: lines.drop 1 else lines, head := head, seeds := s.hv.seeds }
  let s1 := markCkpt s i 0
  modHv s1 fun v => { modCkpt v i (fun _ => c) with writing := some (i, 0, validated), flashRetries := 0 }

/-- How many slots chunk c of the exemplar log holds (Table 14.4). -/
def chunkSlots (c : Nat) : Nat := min 455 (65536 - 455 * c)

/-- The chunk of the log that is due in COLLECT: its first slot and its slots. [DESIGN CHOICE: log 84] -/
def chunkDue (s : State) (b : HarvestBlock) (cd : Nat) : Option (Nat × Nat) :=
  let at0 := s.hv.flushed % 65536
  let n := chunkSlots (at0 / 455)
  if s.hv.state == .collect && decide (s.hv.flushed + n ≤ hvWord s b cd hvTotalOff) then some (at0, n) else none

/-- What one write may still program in this epoch (R437). -/
def ckptRoom (v : HarvestSt) : Nat := 16384 - v.epochBytes

/-- A failed program or erase: three retries, then the session fails (R446). [DESIGN CHOICE: log 84] -/
def hvFlashFail (s : State) : State :=
  if s.hv.flashRetries < 3 then modHv s fun v => { v with flashRetries := v.flashRetries + 1 }
  else raise (modHv s fun v => { v with flashRetries := 0, writing := none, logPos := 0, flashFailed := hvRunning v.state }) 4 0
    Code.harvestFlash 1

/-- The next bytes of a checkpoint; after its last byte its slot is marked (R436). -/
def writeCkpt (s : State) (b : HarvestBlock) (slot done : Nat) (validated : Bool) : State :=
  let n := min (ckptRoom s.hv) (ckptLen b - done)
  if n == 0 then s
  else
    let s1 := emit (modHv s fun v => { v with epochBytes := v.epochBytes + n, flashRetries := 0,
                                              writing := some (slot, done + n, validated) }) (.flash (.checkpoint slot done n))
    if done + n < ckptLen b then s1
    else
      let s2 := markCkpt (modHv s1 fun v => { v with writing := none }) slot (if validated then 2 else 1)
      modHv s2 fun v => { v with events := v.events ++ [{ event := 2, slot := slot }] }

/-- The next bytes of the log chunk in hand; a whole chunk is recorded in the area header. -/
def writeLog (s : State) (b : HarvestBlock) (cd : Nat) (at0 n : Nat) : State :=
  let m := min (ckptRoom s.hv) (144 * n - s.hv.logPos)
  if m == 0 then s
  else
    let off := 144 * at0 + s.hv.logPos
    let bytes := bytesAt s.mem (exAddr b cd 0 + off) m
    let log := (bytes.zipIdx).foldl (fun l x => mset 0 l (off + x.2) x.1) s.hv.exLog
    let s1 := emit (modHv s fun v => { v with epochBytes := v.epochBytes + m, flashRetries := 0, exLog := log, logPos := v.logPos + m })
      (.flash (.checkpoint 2 off m))
    if s.hv.logPos + m < 144 * n then s1
    else emit (modHv s1 fun v => { v with logPos := 0, flushed := v.flushed + n }) (.flash (.area 2 (s.hv.flushed + n)))

/-- HARVEST_CHECKPOINT_WRITE (R436, R437): the writer programs what the epoch still allows of the checkpoint in hand, or in
COLLECT of the exemplar log. -/
def execHarvestCheckpointWrite (flashOk : Bool) (s : State) : Res :=
  match hvBlock s, hvCd s with
  | some b, some cd =>
    match s.hv.writing, chunkDue s b cd with
    | some w, _ => .next (if flashOk then writeCkpt s b w.1 w.2.1 w.2.2 else hvFlashFail (flashFailed s))
    | none, some c => .next (if flashOk then writeLog s b cd c.1 c.2 else hvFlashFail (flashFailed s))
    | none, none => .next s
  | _, _ => .next s

/-! ### Records (R439) -/

/-- The epoch number at which the open window ends, 0 with none. -/
def hvWindowEnd (s : State) : Word :=
  match s.hv.windowEpoch, s.hv.windowUntil with
  | some e, _ => e
  | none, some t => toWord (t.toNat / max 1 (periodNs s))
  | none, none => 0

/-- A HARVEST record of an event of Table 14.6; values the event does not carry are 0. [DESIGN CHOICE: log 85] -/
def hvRecord (s : State) (b : HarvestBlock) (cd : Nat) (e : HvEvent) : State :=
  let total := hvWord s b cd hvTotalOff
  let started := e.event == 1
  let scored := e.event == 5 || e.event == 6
  let carriesT := e.event == 2 || scored
  raiseRecord s (.harvest e.event e.outcome (if e.event == 2 then e.slot else 0) (seasonCode s.power.season)
    s.hv.session (if carriesT then toWord (hvWord s b cd hvStepOff) else 0)
    (if scored then s.hv.cand else 0) (if scored then s.hv.ref else 0) (if e.event == 5 then b2n (hvSel s b cd) else 0)
    (if started then toWord (trainSlots s total).length else 0) (if started then toWord (valSlots s total).length else 0)
    (if started then hvWindowEnd s else 0))

/-- Queues an event for the records of this equinox. -/
def hvEvent (s : State) (event : Nat) (outcome : Nat := 0) : State :=
  modHv s fun v => { v with events := v.events ++ [{ event := event, outcome := outcome }] }

/-! ### Windows (R422) -/

/-- Windows that end at this equinox close. [DESIGN CHOICE: log 83] -/
def closeWindows (s : State) : State :=
  modHv s fun v =>
    let u := match v.windowUntil with | some t => if t.toNat ≤ s.tb.ltime.toNat then none else some t | none => none
    let e := match v.windowEpoch with | some x => if epochReached s.seqr.epoch x then none else some x | none => none
    { v with windowUntil := u, windowEpoch := e, windowOpen := u.isSome || e.isSome }

/-- When a configured window that a minute lies in ends. -/
def configuredEnd (s : State) : DWord :=
  let minute := s.tb.ltime.toNat / 60000000000
  let into := (minute % 1440 + 1440 - rf s 0x0004040C 10 0) % 1440
  BitVec.ofNat 64 ((minute - into + rf s 0x0004040C 26 16) * 60000000000)

/-- Windows that open at this equinox; the Bool says that one did. [DESIGN CHOICE: log 83] -/
def openWindows (s : State) : Bool × State :=
  let conf := rb s 0x00040400 1 && timeValid s && s.hv.windowUntil.isNone &&
    inWindow (taiMinute s) (rf s 0x0004040C 10 0) (rf s 0x0004040C 26 16)
  let sched := s.hv.startPending && (rget s 0x00040410 == 0 || epochReached s.seqr.epoch (rget s 0x00040410))
  (conf || sched, modHv s fun v =>
    { v with windowUntil := if conf then some (configuredEnd s) else v.windowUntil,
             windowEpoch := if sched then some (s.seqr.epoch + rget s 0x00040414) else v.windowEpoch,
             startPending := v.startPending && !sched, windowOpen := v.windowOpen || conf || sched })

/-! ### The state table (R438) -/

/-- A session ends with an outcome; ADOPTED and ROLLED_BACK have events of their own. [DESIGN CHOICE: log 83] -/
def endSession (s : State) (outcome : Nat) : State :=
  let s1 := modHv s fun v => { v with state := .done, outcome := outcome, writing := none, cancelPending := false, flashFailed := false }
  hvEvent s1 (if outcome == 1 then 5 else if outcome == 2 then 6 else 7) outcome

/-- A slot that was marked VALIDATED for a candidate that is not adopted becomes EMPTY: the candidate is discarded. -/
def dropCandidate (s : State) : State :=
  match ckptBest s.hv with
  | some i => if (s.hv.state == .checkpoint || s.hv.state == .adopt || s.hv.state == .suspended) &&
      (ckptOf s.hv i).session == s.hv.session then markCkpt s i 0 else s
  | none => s

/-- A session that ends before its adoption commits. -/
def abandonSession (s : State) (outcome : Nat) : State := endSession (dropCandidate s) outcome

/-- A session starts: its number, the clusters' seeds from the random source, and TRAIN, or SKIPPED_FEW (R426, R431). -/
def startSession (s : State) (b : HarvestBlock) (cd : Nat) : State :=
  let total := hvWord s b cd hvTotalOff
  let s1 := modHv s fun v => { v with session := v.session + 1, trainEpochs := 0, passesDone := 0, seeds := [] }
  if exFilled total < rnat s 0x00040428 || (valSlots s total).length < 512 then endSession s1 4
  else
    let s2 := (List.range 4).foldl (fun t k =>
      let r := fresh t
      let w := if toWord r.1 == 0 then 1 else toWord r.1
      modHv (modCl r.2 cd k fun c => { c with lfsr := w }) fun v => { v with seeds := v.seeds ++ [w] }) s1
    hvEvent (modHv s2 fun v => { v with state := .train }) 1

/-- Epochs left of the window. -/
def windowLeft (s : State) : Nat :=
  let e := match s.hv.windowEpoch with | some x => (x - s.seqr.epoch).toNat | none => 0
  let u := match s.hv.windowUntil with | some t => (t.toNat - s.tb.ltime.toNat) / max 1 (periodNs s) | none => 0
  max e u

/-- The checkpoint of the session is VALIDATED. -/
def ckptReady (v : HarvestSt) : Bool :=
  v.writing.isNone && (match ckptBest v with | some i => (ckptOf v i).session == v.session | none => false)

/-- The adoption has committed: the older VALIDATED slot becomes EMPTY (R434). -/
def adopted (s : State) (sel : Bool) : State :=
  let s1 := match ckptBest s.hv with
    | some i => if (ckptOf s.hv (1 - i)).state == 2 then markCkpt s (1 - i) 0 else s
    | none => s
  endSession (modHv s1 fun v => { v with headSel := sel }) 1

/-- TRAIN at an equinox. -/
def trainStepEnd (s : State) (b : HarvestBlock) (cd : Nat) : State :=
  let s1 := modHv s fun v => { v with trainEpochs := v.trainEpochs + 1, passesDone := hvPassesDone s b cd }
  if hvPasses s b ≤ s1.hv.passesDone || windowLeft s ≤ 16 then modHv s1 fun v => { v with state := .validate, passed := none }
  else if s1.hv.trainEpochs % max 1 (rnat s 0x00040430) == 0 && s.hv.writing.isNone then beginCkpt s1 b cd false
  else s1

/-- The transitions of Table 14.5 that the committed values call for. [DESIGN CHOICE: log 83] -/
def hvTransition (s : State) (b : HarvestBlock) (cd : Nat) (opened : Bool) : State :=
  let v := s.hv
  if hvRunning v.state then
    if v.state == .adopt && hvSel s b cd != v.headSel then adopted s (hvSel s b cd)
    else if v.cancelPending then abandonSession s 3
    else if v.nan || v.flashFailed then
      let s1 := abandonSession s 7
      if v.nan then restoreRegion s1 b cd else s1
    else if v.state == .rollback then endSession (restoreRegion s b cd) 2
    else if !v.windowOpen then abandonSession s 5
    else match v.state with
      | .train => trainStepEnd s b cd
      | .validate =>
        match v.passed with
        | some true => beginCkpt (modHv s fun v => { v with state := .checkpoint }) b cd true
        | some false => modHv s fun v => { v with state := .rollback }
        | none => s
      | .checkpoint => if ckptReady v then modHv s fun v => { v with state := .adopt } else s
      | .suspended =>
        if s.power.season == .summer || s.power.season == .a1 then hvEvent (modHv s fun v => { v with state := v.before }) 4 else s
      | _ => s
  else match v.state with
    | .off => if rb s 0x00040400 0 && hvOffCause s == 0 then modHv s fun v => { v with state := .collect } else s
    | _ =>
      if opened then startSession s b cd
      else if v.state == .done && !v.windowOpen then modHv s fun v => { v with state := .collect } else s

/-- A state of Harvest from which the season's rule takes it (Table 14.7): A2 suspends TRAIN to ADOPT, A3 and WINTER end the
session ABORTED, SPRING and DORMANT leave Harvest OFF. -/
def hvSeason (s : State) : State :=
  match s.power.season with
  | .a2 =>
    match s.hv.state with
    | .train | .validate | .checkpoint | .adopt => hvEvent (modHv s fun v => { v with before := v.state, state := .suspended }) 3
    | _ => s
  | .a3 | .winter => if hvRunning s.hv.state then abandonSession s 6 else s
  | .summer | .a1 => s
  | _ =>
    let s1 := if hvRunning s.hv.state then abandonSession s 6 else s
    modHv s1 fun v => { v with state := .off }

/-- EN = 0 and NO_HARVEST leave Harvest OFF; a session that runs ends CANCELLED (Table 14.11). [DESIGN CHOICE: log 83] -/
def hvOff (s : State) : State :=
  let s1 := if hvRunning s.hv.state then abandonSession s 3 else s
  modHv s1 fun v => { v with state := .off, startPending := false, cancelPending := false, windowUntil := none, windowEpoch := none,
                             windowOpen := false }

/-- A region of another image: the session that runs ends ABORTED and the region is reset; REVERT_BASELINE raises REVERTED. -/
def hvRevert (s : State) (b : HarvestBlock) (cd : Nat) : State :=
  let stale := hvWord s b cd hvTagOff != runningTag s
  let s1 := if stale || s.hv.revertPending then
      revertNow (if hvRunning s.hv.state then abandonSession s (if stale then 6 else 3) else s) b cd else s
  if s.hv.revertPending then hvEvent (modHv s1 fun v => { v with revertPending := false }) 8 else s1

/-- STATE code of HV_STATUS. -/
def hvStateCode : HvState → Nat
  | .off => 0 | .collect => 1 | .train => 2 | .validate => 3 | .checkpoint => 4 | .adopt => 5 | .rollback => 6
  | .suspended => 7 | .done => 8

/-- The records of the events that this equinox commits. -/
def hvRecords (s : State) (b : HarvestBlock) (cd : Nat) : State :=
  s.hv.events.foldl (fun t e => hvRecord t b cd e) (modHv s fun v => { v with events := [] })

/-- The values that the registers report as committed, and what the next epoch starts from. -/
def hvLatch (s : State) (b : HarvestBlock) (cd : Nat) : State :=
  let s1 := hvByte0 s b cd (hvStateCode s.hv.state) (hvSel s b cd)
  modHv s1 fun v => { v with headSel := hvSel s b cd, exTotal := toWord (hvWord s b cd hvTotalOff),
                             step := toWord (hvWord s b cd hvStepOff), passed := none, nan := false, adoptWritten := false,
                             epochBytes := 0, offCause := hvOffCause s }

/-- Harvest at the EQUINOX of its die, after the ledger has committed (R422, R427, R438, R448). -/
def hvEquinox (s : State) (cd : Nat) : State :=
  match hvBlock s with
  | some b =>
    if hvCd s != some cd || !hvLimits b then s
    else
      let s1 := hvRevert s b cd
      let s2 := if !rb s1 0x00040400 0 || hvOffCause s1 != 0 then hvOff s1
        else
          let o := if s1.hv.state == .off then (false, closeWindows s1) else openWindows (closeWindows s1)
          hvSeason (hvTransition o.2 b cd (o.1 && !hvRunning s1.hv.state))
      hvLatch (hvRecords s2 b cd) b cd
  | none => modHv s fun v => { v with offCause := 1, state := .off }

/-- A discarded or forced epoch of the Harvest die: what its programs found is gone, and the epoch repeats (R445). -/
def hvDiscard (s : State) (cd : Nat) : State :=
  if hvCd s == some cd then modHv s fun v => { v with passed := none, nan := false, adoptWritten := false, epochBytes := 0 } else s

/-! ### At start-up (R447) -/

/-- A VALIDATED slot whose TAG is not the running image's is taken as EMPTY and logged (R446). -/
def checkCkpt (s : State) (i : Nat) : State :=
  let c := ckptOf s.hv i
  if c.state == 2 && c.tag != toWord (runningTag s) then
    raise (modHv s fun v => modCkpt v i fun c => { c with state := 0 }) 4 0 Code.ckptBad 1
  else s

/-- The region of a checkpoint as LEDGER_WRITE parcels, which commit at the first equinox. -/
def restoreLines (s : State) (cd : Nat) : Nat → List (BitVec 512) → State
  | _, [] => s
  | n, v :: vs => restoreLines (modLine s cd n fun l => mergeLine l v) cd (n + 1) vs

/-- The exemplar store from the log: the slots it holds. -/
def reloadStore (s : State) (b : HarvestBlock) (cd : Nat) : State :=
  s.hv.exLog.foldl (fun t e => { t with mem := mset 0 t.mem (exAddr b cd 0 + e.1) e.2 }) s

/-- Harvest restored in step 14. -/
def hvRestore (s : State) : State :=
  match hvBlock s, hvCd s with
  | some b, some cd =>
    if hvOffCause s == 2 then s
    else if hvOffCause s != 0 then hvSupport s
    else
      let img := imageHeadBytes s b
      let s1 := putHead (putHead (checkCkpt (checkCkpt s 0) 1) b cd false img) b cd true img
      let s2 := reloadStore s1 b cd
      match ckptBest s2.hv with
      | none =>
        let s3 := revertNow (hvHeader s2 b cd hvTotalOff (leBytes 4 s2.hv.flushed)) b cd
        modHv s3 fun v => { v with exTotal := toWord s2.hv.flushed }
      | some i =>
        let c := ckptOf s2.hv i
        let h := (c.lines.headD 0).toNat
        let sel := nbit h 4
        let s3 := putHead s2 b cd sel c.head
        let h1 := mergeBytes (BitVec.ofNat 512 h) (hvCrcOff + 4 * b2n (!sel)) (leBytes 4 (headCrc s3 b cd (!sel)))
        if headCrc s3 b cd sel == leAt (leBytes 64 h) (hvCrcOff + 4 * b2n sel) 4 then
          modHv (restoreLines s3 cd b.base (h1 :: c.lines.drop 1)) fun v =>
            { v with headSel := sel, session := c.session, cand := c.cand, ref := c.ref }
        else raise (revertNow s3 b cd) 4 0 Code.headCrcBad 2
  | _, _ => s

end Sys2Proof.Machine
end

