-- ==== Sys2Proof/Machine/RegRead.lean ====
section
/-! DEFINITION. What a read of a register shows: the live words of status registers and counters, and the 64-bit pairs
(R2–R9, chapter 24). -/
namespace Sys2Proof.Machine

/-- Fields laid into a word: value, lowest bit, width. -/
def layWord (fs : List (Nat × Nat × Nat)) : Nat := (fs.map fun f => f.1 % 2 ^ f.2.2 * 2 ^ f.2.1).sum

/-- An integer as so many bits. -/
def intBits (n : Nat) (x : Int) : Nat := (BitVec.ofInt n x).toNat

/-! ### Boot, OTP, power -/

/-- DIE_STATE code of a die; a die that is not fitted reads 8. [DESIGN CHOICE: log 12] -/
def dieStateCode (s : State) (d : Die) : Nat := if fitted s d then (s.die d).state else 8

/-- Watchdog resets within the last 600 s. -/
def wdtRecent (s : State) : Nat := min 3 (s.boot.wdtResets.filter fun t => decide (s.now < t + secNs 600)).length

/-- CHIP_ID, the word of Tables 0.1 and 24.6 (R1, R692): DEDUCED, since the field places of Table 0.2 would give 0xB000 as its low half. [DEDUCED: log 8] -/
def chipId (s : State) : Nat := if s.part == .bx7710 then 0x77100B00 else 0x77200B00

/-- Reset/boot and identity registers (R2, Tables 3.12–3.14). [DESIGN CHOICE: log 12] -/
def liveBoot (s : State) (a : Nat) : Option Nat :=
  let b := s.boot
  match a with
  | 0x00000000 => some (chipId s)
  | 0x00010000 => some (layWord [(b.phase, 0, 5), (b.slot, 5, 2), (b2n b.cfgDefaulted, 7, 1), (b.causeA, 8, 8), (b.causeB, 16, 8),
      (b.strap, 24, 2), (b.descCopy, 26, 1), (b.cfgCopy, 27, 1), (b.dormantCause, 28, 4)])
  | 0x00010004 => some b.resetCause.toNat
  | 0x00010010 => some (layWord (Die.all.map fun d => (dieStateCode s d, 4 * d.code, 4)))
  | 0x00010014 => some (layWord ((List.range 4).map fun n => ((vget b.site n).1 % 8 + 8 * b2n (vget b.site n).2, 4 * n, 4)))
  | 0x00010018 => some (linkSummary s)
  | 0x00010020 => some (layWord [(b.fwAbi, 0, 16), (b.sqiAbi, 16, 16)])
  | 0x00010024 => some (layWord [(b.recAbi, 0, 16), (b2n b.recEnabled, 16, 1), (b.recCause, 24, 8)])
  | 0x00010028 => some (layWord [(b.fwRollback, 0, 16), (b.sqiRollback, 16, 16)])
  | 0x0001002C => some b.bootTimeMs.toNat
  | 0x00010038 => some (wdtRecent s)
  | _ => none

/-- OTP registers (R132, Table 4.11). -/
def liveOtp (s : State) (a : Nat) : Option Nat :=
  let o := s.otp
  match a with
  | 0x00020000 => some (lcStatus s)
  | 0x00020004 => some (otpLock s)
  | 0x00020014 => some (layWord [(b2n o.done, 1, 1), (b2n o.error, 2, 1), (o.result, 8, 8), (min 255 o.pulses, 16, 8)])
  | 0x00020020 => some (layWord [(b2n o.vsysOk, 0, 1), (b2n o.tempOk, 1, 1), (b2n o.pumpReady, 2, 1)])
  | 0x00020024 => some (layWord [(fwCounter s, 0, 12), (sqiCounter s, 12, 12), (keyFloor s, 24, 3)])
  | 0x0002002C => some (o.policyEff % 1024)
  | _ =>
    if 0x00020040 ≤ a && a < 0x00020080 then
      let i := (a - 0x00020040) / 4
      some (layWord [((vget o.redir i).val, 0, 11), (b2n (vget o.spares i != 0), 11, 1)])
    else none

/-- Is a die powered, out of hold and not FAILED? -/
def dieOn (s : State) (d : Die) : Bool := fitted s d && (let x := (s.die d).state; x == 2 || x == 3 || x == 4 || x == 5 || x == 7)

/-- Is a switched domain on (Table 21.4)?  The OTP programming supply is on only within an operation. [DEDUCED: log 13] -/
def pdOn (s : State) (d : Nat) : Bool :=
  let awake := s.power.season != .thermalStop && !s.power.halted
  if d < 56 then
    let cd := d / 14
    let k := d % 14
    dieOn s (Die.ofCd cd) && (
      if k < 4 then clusterUsable (s.cl cd k)
      else if k < 9 then true
      else if k == 9 then (s.detUnit cd).state != .off
      else match (s.port ⟨Die.ofCd cd, k - 10⟩).phy with | .absent | .down => false | _ => true)
  else if d < 63 then
    dieOn s .eye && (
      if d == 56 then s.eye.state != .off && s.eye.state != .fault
      else if d < 59 then s.eye.state != .off && s.eye.state != .fault && (!rb s 0x01000000 1 || frameBusy s)
      else true)
  else match d with
    | 63 => awake && decide (5 ≤ s.boot.phase)
    | 64 | 65 => s.lst.state != .off
    | 66 => s.hk.a.state != .off
    | 67 => s.hk.b.state != .off
    | 68 => netOn s && rb s 0x00050000 1
    | 69 => netOn s && rb s 0x00050000 2
    | 70 => netOn s
    | 71 => foOn s
    | 72 => rb s 0x000B0000 0 && awake
    | 74 | 75 => awake
    | _ => false

/-- Power and season registers (R651, R652). -/
def livePower (s : State) (a : Nat) : Option Nat :=
  let p := s.power
  match a with
  | 0x00030000 => some (layWord [(seasonCode p.season, 0, 3), (thermalLevel s, 3, 2), (p.pLevel, 5, 2),
      (b2n (p.vcoreSet == capNow s), 7, 1), (b2n (p.vcoreSet == floorNow s), 8, 1), (b2n (tjExcluded s != []), 9, 1),
      (b2n p.voutBad, 10, 1), (b2n p.energyEst, 11, 1), (b2n p.wakeHold.isSome, 12, 1), (b2n p.deferred, 13, 1),
      (intBits 8 (p.tmax / 4), 16, 8), (p.hot, 24, 4)])
  | 0x0003000C => some (p.vcoreSet % 1024)
  | 0x00030020 => some (layWord [(p.vcoreSent, 0, 10), (p.vout, 16, 10)])
  | 0x00030024 => some p.iout
  | 0x00030028 => some p.pout
  | 0x0003002C => some p.pwr1s
  | 0x00030060 => some (layWord [(intBits 16 p.tjPeak, 0, 16), (p.tjPeakDie, 16, 4)])
  | 0x0003006C => some p.changes.toNat
  | 0x0003007C => some (layWord [(min 65535 p.raises, 0, 16), (min 65535 p.lowerings, 16, 16)])
  | _ =>
    if 0x00030040 ≤ a && a < 0x00030060 then
      match Die.ofCode ((a - 0x00030040) / 4) with
      | some d => if !fitted s d then some 0 else
          let x := vget p.sensors d.idx
          some (layWord [(intBits 16 x.t, 0, 16), (b2n x.valid, 16, 1), (b2n x.fault, 17, 1)])
      | none => some 0
    else if 0x00030070 ≤ a && a < 0x0003007C then some (vget p.autumnEpochs ((a - 0x00030070) / 4)).toNat
    else if 0x00030080 ≤ a && a < 0x0003008C then
      let j := (a - 0x00030080) / 4
      some (((List.range 32).map fun i => if 32 * j + i < 76 && pdOn s (32 * j + i) then 2 ^ i else 0).sum)
    else if 0x00030090 ≤ a && a < 0x0003009C then some (bits p.pdFault.toNat (32 * ((a - 0x00030090) / 4) + 31) (32 * ((a - 0x00030090) / 4)))
    else none

/-! ### Timebase, launches, Harvest -/

/-- TB_STATUS.STATE. -/
def tbStateCode : TbState → Nat
  | .free => 0 | .acquire => 1 | .locked => 2 | .holdover => 3 | .syncLocked => 4 | .syncLost => 5

/-- A word of a launch-table bank: an entry is 16 bytes (R47, R68); beyond the last entry it reads 0. -/
def launchBankWord (s : State) (a : Nat) : Nat :=
  let t := if a < 0x0004A000 then s.seqr.bankA else if a < 0x0004C000 then s.seqr.bankB else s.seqr.bankF
  let off := (a - 0x00048000) % 0x2000
  match t[off / 16]? with
  | some e =>
    match off % 16 / 4 with
    | 0 => e.offset.toNat
    | 1 => layWord [(e.dieByte, 0, 8), (e.unit, 8, 8), (e.action, 16, 8), (e.flags, 24, 8)]
    | 2 => e.slack.toNat
    | _ => e.arg.toNat
  | none => 0

/-- The rate correction in ppb: 2^-32 ns in each tick of 8 ns, rounded down. [DEDUCED: log 13] -/
def ratePpb (s : State) : Int := s.tb.rate * 125000000 / 4294967296

/-- Timebase, launch and Harvest registers (R66, R67, R441, R442). [DEDUCED: log 13] -/
def liveTimebase (s : State) (a : Nat) : Option Nat :=
  match a with
  | 0x00040004 => some (layWord [(tbStateCode s.tb.state, 0, 3), (b2n (timeValid s), 3, 1), (b2n s.seqr.armed, 4, 1),
      (b2n s.tb.stepPending.isSome, 5, 1), (b2n (s.tb.slew != 0), 6, 1)])
  | 0x00040018 => some (intBits 32 (ratePpb s))
  | 0x0004002C => some s.seqr.epoch.toNat
  | 0x00040030 => let f := s.seqr.last
    some (layWord [(b2n f.degraded, 0, 1), (b2n f.partialEp, 1, 1), (b2n f.skipped, 2, 1), (b2n f.eqxMiss, 3, 1),
      (b2n f.stepped, 4, 1), (min 65535 f.missed, 16, 16)])
  | 0x00040034 => some s.seqr.lateCount.toNat
  | 0x00040038 => some s.seqr.degradedCount.toNat
  | 0x0004003C => some s.seqr.partialCount.toNat
  | 0x00040080 => some s.seqr.bank
  | 0x00040404 => let v := s.hv
    some (layWord [(hvStateCode v.state, 0, 4), (v.outcome, 4, 4), (b2n v.windowOpen, 8, 1), (b2n v.headSel, 9, 1),
      ((ckptBest v).getD 3, 10, 2), (v.offCause, 12, 4)])
  | 0x0004041C => some (match hvBlock s with | some b => hvSteps s b | none => rnat s a)
  | 0x00040420 => some (match hvBlock s with | some b => hvPasses s b | none => rnat s a)
  | 0x00040424 => some (match hvBlock s with | some b => hvBatch s b | none => rnat s a)
  | 0x00040448 => some (layWord [(s.hv.cand, 0, 16), (s.hv.ref, 16, 16)])
  | 0x0004044C => some s.hv.exTotal.toNat
  | 0x00040450 => some s.hv.step.toNat
  | 0x00040454 => some (layWord [(s.hv.clipV, 0, 16), (s.hv.clipM, 16, 16)])
  | 0x00040458 => some s.hv.session.toNat
  | _ =>
    if 0x00040040 ≤ a && a < 0x00040080 then
      match Die.ofCode ((a - 0x00040040) / 4) with
      | some d => let l := vget s.seqr.lat d.idx; some (layWord [(l.1, 0, 12), (l.2, 16, 12)])
      | none => some 0
    else if 0x00048000 ≤ a && a < 0x0004E000 then some (launchBankWord s a)
    else none

/-! ### Network, BCP, records, peers -/

/-- PTP_PORTS state of a port: 0 disabled, 1 listening, 2 slave, 3 passive. [DEDUCED: log 13] -/
def ptpPortState (s : State) (p : Nat) : Nat :=
  if !rb s 0x00050000 5 || !portUpNet s p then 0
  else match s.net.slave with
    | none => 1
    | some q => if q == p then 2 else 3

/-- The grandmaster's clock identity. -/
def grandmaster (s : State) : DWord :=
  match s.net.slave with
  | some 0 => (s.net.master0.map (·.identity)).getD 0
  | some _ => (s.net.master1.map (·.identity)).getD 0
  | none => 0

/-- NET_STATUS.ADDR. -/
def addrCode : AddrKind → Nat
  | .none => 0 | .dhcp => 1 | .linkLocal => 2 | .static => 3

/-- OWNER_STATUS.STATE. -/
def electionCode : Election → Nat
  | .openSt => 0 | .contest => 1 | .owned => 2 | .succession => 3

/-- Lease remaining, in ms. -/
def leaseLeft (s : State) : Nat := if s.bcp.owner.isSome then (s.bcp.leaseEnd - s.now) / 1000000 else 0

/-- Network and BCP registers (R480, R481). -/
def liveNet (s : State) (a : Nat) : Option Nat :=
  let n := s.net
  let b := s.bcp
  match a with
  | 0x00050004 => some (layWord [(b2n n.linkP0, 0, 1), (b2n n.fdxP0, 1, 1), (b2n n.linkP1, 2, 1), (b2n n.fdxP1, 3, 1),
      (addrCode n.addr, 4, 2), ((n.slave.getD 3), 6, 2)])
  | 0x00050008 => some n.ip.toNat
  | 0x0005000C => some n.mask.toNat
  | 0x00050010 => some n.gw.toNat
  | 0x00050040 => some n.rx0.toNat
  | 0x00050044 => some n.rx1.toNat
  | 0x00050048 => some n.rx2.toNat
  | 0x00050050 => some (layWord [(n.overflowDrops, 0, 16), (n.refusedFrames, 16, 16)])
  | 0x00050054 => some (layWord [(n.linkChg0, 0, 16), (n.linkChg1, 16, 16)])
  | 0x00050060 => some (layWord [(ptpPortState s 0, 0, 2), (ptpPortState s 1, 2, 2), (intBits 8 n.syncLog0, 8, 8)])
  | 0x00050064 => some n.pdelay0.toNat
  | 0x00050068 => some n.pdelay1.toNat
  | 0x00060004 => some (layWord [(electionCode b.election, 0, 2), ((b.owner.map (·.level)).getD 0, 2, 2),
      ((b.owner.map (·.priority)).getD 0, 4, 8), (b2n b.storeKey.isSome, 12, 1), (b2n b.serviceKey.isSome, 13, 1),
      (b2n b.keystoreBad, 14, 1), (b2n b.configFull, 15, 1), (b.sessions.length, 16, 6)])
  | 0x00060010 => some (leaseLeft s)
  | 0x0006001C => some b.msgs.toNat
  | 0x00060020 => some b.authFail.toNat
  | 0x00060024 => some (layWord [(b.rateDrops, 0, 16), (b.malformed, 16, 16)])
  | 0x00060028 => some b.changes.toNat
  | 0x0006002C => some b.runtime.length
  | 0x00060040 => some (layWord [(s.sw.state, 0, 3), (if s.sw.state == 0 then 0 else if s.sw.live then 1 else 2, 3, 2), (s.sw.slot, 5, 1),
      (s.sw.lastCancel, 8, 8), (s.sw.chunks, 16, 16)])
  | 0x00060044 => some (layWord [(s.stage.status, 0, 2), (s.stage.slot, 2, 1), (s.stage.lastCause, 8, 8), (s.stage.units.length, 16, 16)])
  | _ => none

/-- A word of a peer-table entry. -/
def peerTabWord (s : State) (i w : Nat) : Nat :=
  match s.peers.table[i]? with
  | none => 0
  | some e => match w with
    | 0 => bits e.mac.toNat 31 0
    | 1 => layWord [(bits e.mac.toNat 47 32, 0, 16), (e.zone, 16, 16)]
    | 2 => e.ip.toNat
    | _ => layWord [(min 255 ((s.now - e.heard) / 1000000000), 0, 8), (1, 8, 1), (b2n (compatible s e), 9, 1)]

/-- Record and peer registers (R519, R520). -/
def liveRecords (s : State) (a : Nat) : Option Nat :=
  let r := s.recs
  let p := s.peers
  match a with
  | 0x00070004 => some (layWord [(r.queue.length, 0, 9), (b2n (r.queue.any (recHeld s)), 9, 1), (b2n r.budgetHit, 10, 1),
      (b2n r.arrivalHit, 11, 1), (b2n r.linkDrop, 12, 1)])
  | 0x00070020 => some r.seq
  | 0x00070024 => some r.used
  | 0x00070028 => some r.arrived
  | 0x00070038 => some r.dropped.toNat
  | 0x0007003C => some r.dgrams.toNat
  | 0x0007011C => some (layWord [(p.table.length, 0, 7), ((p.table.filter (compatible s)).length, 8, 7), (min 65535 p.stagedEpoch, 16, 16)])
  | 0x00070120 => some (layWord [(p.drop, 0, 16), (p.stageFull, 16, 16)])
  | 0x00070124 => some p.rx.toNat
  | 0x00070128 => some (layWord [(p.tx, 0, 24), (p.txOver, 24, 8)])
  | _ => if 0x00071000 ≤ a && a < 0x00071400 then some (peerTabWord s ((a - 0x00071000) / 16) (a % 16 / 4)) else none

/-! ### Audio, HK-ADC, field, buses, check units, log -/

/-- LST_STATUS.STATE. -/
def lstStateCode : LstState → Nat
  | .off => 0 | .start => 1 | .arming => 2 | .running => 3 | .test => 4 | .fault => 5

/-- Audio registers (R538, R539). -/
def liveAudio (s : State) (a : Nat) : Option Nat :=
  let l := s.lst
  match a with
  | 0x00080004 => some (layWord [(lstStateCode l.state, 0, 3), (b2n l.matchRunning, 3, 1), (l.mic0.status, 4, 2), (l.mic1.status, 6, 2),
      (b2n l.wakePending, 8, 1), (b2n l.policyOff, 9, 1), (b2n l.mic0.silent, 10, 1), (b2n l.mic1.silent, 11, 1)])
  | 0x00080030 => some (intBits 16 (l.mic0.floor / 16))
  | 0x00080034 => some (intBits 16 (l.mic1.floor / 16))
  | 0x00080038 => some (intBits 16 l.mic0.level)
  | 0x0008003C => some (intBits 16 l.mic1.level)
  | 0x00080040 => some (l.mic0.current % 4096)
  | 0x00080044 => some (l.mic1.current % 4096)
  | 0x00080048 => some l.wakes.toNat
  | 0x0008004C => some l.suppressed.toNat
  | 0x00080050 => some (layWord [(intBits 16 l.test0, 0, 16), (intBits 16 l.test1, 16, 16)])
  | 0x00080054 => some (layWord [(l.shorts, 0, 8), (l.opens, 8, 8), (l.clips, 16, 8), (l.silences, 24, 8)])
  | _ => none

/-- HK_STATUS state codes. -/
def hkStateCode : HkState → Nat
  | .off => 0 | .cal => 1 | .continuous => 2 | .idle => 3 | .starting => 4 | .scanning => 5 | .fault => 7

/-- Slices in use. -/
def hkSlices (c : HkConv) : Nat := if c.state == .off then 0 else slicesIn c

/-- HK-ADC registers (R561, R562). -/
def liveHk (s : State) (a : Nat) : Option Nat :=
  let h := s.hk
  match a with
  | 0x00090004 => some (layWord [(hkStateCode h.a.state, 0, 3), (hkStateCode h.b.state, 3, 3), (b2n h.xcFault, 6, 1), (b2n h.trimBad, 7, 1),
      (hkSlices h.a, 8, 4), (hkSlices h.b, 12, 4), (h.queue.length, 16, 7), (b2n h.a.urgent.isSome, 23, 1),
      (b2n h.b.urgent.isSome, 24, 1), (h.a.fault, 25, 3), (h.b.fault, 28, 3)])
  | 0x00090018 => some h.urgentRes.toNat
  | 0x00090024 => some h.qDrop
  | 0x00090028 => some (layWord [(h.xcMismatch, 0, 16), (h.xcPairs, 16, 16)])
  | 0x0009002C => some (layWord [(h.xcA, 0, 12), (h.xcB, 16, 12)])
  | 0x000903F4 => some h.hit.toNat
  | _ =>
    if 0x00090100 ≤ a && a < 0x00090160 then some (vget h.last ((a - 0x00090100) / 4)).toNat
    else if 0x00090380 ≤ a && a < 0x000903E0 then some (vget h.minmax ((a - 0x00090380) / 4)).toNat
    else none

/-- TMP_STATUS state codes. -/
def teStateCode : TeState → Nat
  | .off => 0 | .start => 1 | .normal => 2 | .occludedAtStart => 3 | .occluded => 4 | .fault => 7

/-- Field-output, tamper and bus registers (R597, R598).  FO_PIN's limit and readback bits are what the pins show, which the
spec leaves to the load. [DEDUCED: log 13] -/
def liveField (s : State) (a : Nat) (free : Nat) : Option Nat :=
  let t := s.tamper
  let b := s.bus
  match a with
  | 0x000A0014 => some (layWord ((List.range 4).map fun n => (b2n (foOut s n).cmd, n, 1)))
  | 0x000A0018 => some (layWord ((List.range 4).flatMap fun n => [(foLevel s n, 4 * n, 2), (free / 4 ^ n, 4 * n + 2, 2)]))
  | 0x000A001C => some (layWord ((List.range 4).map fun n => ((foOut s n).faults.toNat, 8 * n, 7)))
  | 0x000A0020 => some (layWord [(b2n s.fo.uvlo, 0, 1), (s.fo.lockouts, 16, 16)])
  | 0x000A0024 => some (layWord (((List.range 4).map fun n => (min 3 (foOut s n).used, 2 * n, 2)) ++ [(s.fo.latches, 16, 16)]))
  | 0x000B0004 => some (layWord [(teStateCode t.te0.state, 0, 3), (teStateCode t.te1.state, 3, 3), (b2n t.shield, 6, 1), (b2n t.fbInvalid, 7, 1)])
  | 0x000B0020 => some t.te0.c
  | 0x000B0024 => some t.te1.c
  | 0x000B0028 => some (intBits 32 (teCounts t.te0.base))
  | 0x000B002C => some (intBits 32 (teCounts t.te1.base))
  | 0x000B0038 => some (teSeconds s t.te0)
  | 0x000B003C => some (teSeconds s t.te1)
  | 0x000B0040 => some t.events.toNat
  | 0x000C0008 => some (layWord [(b2n b.xfer.isSome, 0, 1), (b.result, 1, 3), (b.lastLosses, 4, 4), (b.losses, 16, 16)])
  | 0x000C0104 => some (layWord [(b.pmStatus, 0, 16), (b2n b.pmAlert, 16, 1), (min 255 b.pmErrors, 24, 8)])
  | 0x000C0200 => some b.qspiInfo.toNat
  | 0x000C0204 => some (layWord [(b.flashFail, 0, 16), (b.flashBusy, 16, 16)])
  | 0x000C0324 => some b.gpioIn.toNat
  | 0x000C0328 => some (layWord [(b.gpioEvt.toNat, 0, 8), (b.gpioLost, 16, 16)])
  | _ => if 0x000C0030 ≤ a && a < 0x000C0050 then some (vget b.rx ((a - 0x000C0030) / 4)).toNat else none

/-- Check-unit and log registers (R624, R626); LOG_RD_IDX is the path's own. -/
def liveCheckLog (s : State) (path : Path) (a : Nat) : Option Nat :=
  let l := s.log
  if 0x000D0000 ≤ a && a < 0x000D0400 then
    let x := vget s.cv ((a - 0x000D0000) / 0x100)
    match a % 0x100 with
    | 0x04 => some (layWord [(b2n x.busy, 0, 1), (b2n x.done, 1, 1), (b2n x.mismatch, 2, 1), ((x.bound.map Path.idx).getD 0, 3, 2),
        (b2n x.pathErr, 5, 1), (b2n x.dmaErr, 6, 1)])
    | 0x08 => some x.value.toNat
    | 0x0C => some (cvResult x)
    | 0x28 => some x.bytes.toNat
    | 0x2C => some (min 65535 x.mismatches)
    | _ => none
  else match a with
    | 0x000E0004 => some (layWord [(b2n l.frozen, 0, 1), (l.intake.length, 1, 5), (b2n l.gap.isSome, 6, 1), (l.fatal.length, 7, 3),
        (b2n l.hdrCleared, 10, 1)])
    | 0x000E0008 => some l.total.toNat
    | 0x000E000C => some l.oldest.toNat
    | 0x000E0010 => some l.dropped
    | 0x000E0014 => some l.filtered
    | 0x000E0018 => some l.freezeIdx.toNat
    | 0x000E001C => some l.frozenDrop
    | 0x000E0024 => some (vget s.logRd path.idx).idx.toNat
    | _ => none

/-! ### EDL ports -/

/-- EDL_PHY_STATUS.STATE; a DEAD port reads DOWN (R703), and EYE ports 1 and 3 of the BX7710 ABSENT (R694). -/
def phyCode (s : State) (p : PortId) : Nat :=
  let e := s.port p
  if s.part == .bx7710 && p.die == .eye && (p.port == 1 || p.port == 3) then 2
  else if e.pstate == .dead then 0
  else match e.phy with | .down => 0 | .up => 1 | .absent => 2 | .training => 3 | .retraining => 4

/-- EDL_LINK_STATUS.PSTATE. -/
def pstateCode (s : State) (p : PortId) : Nat :=
  if s.part == .bx7710 && p.die == .eye && (p.port == 1 || p.port == 3) then 6
  else match (s.port p).pstate with
    | .down => 0 | .negotiating => 1 | .up => 2 | .retraining => 3 | .isolated => 4 | .dead => 5 | .absent => 6 | .sink => 7

/-- EDL_EYE_RX of a receive bundle. -/
def eyeWord (r : RxBundle) : Nat := layWord [(r.eye, 0, 8), (r.eyeWire, 8, 7), (r.vref, 16, 8)]

/-- A register of an EDL port (R158, R160, R195, R197). -/
def livePort (s : State) (p : PortId) (off : Nat) : Option Nat :=
  let e := s.port p
  match off with
  | 0x000 => some (layWord [(phyCode s p, 0, 3), (txWidth e, 3, 2), (rxWidth e, 5, 2), (bstateCode e.tx0.state, 7, 2),
      (bstateCode e.tx1.state, 9, 2), (bstateCode e.rx0.state, 11, 2), (bstateCode e.rx1.state, 13, 2), (b2n e.sbUp, 15, 1),
      (e.step, 16, 4), (min 255 e.trainCount, 20, 8), (e.lastFail, 28, 4)])
  | 0x010 => some e.tx0.map.toNat
  | 0x014 => some e.tx1.map.toNat
  | 0x018 => some e.rx0.map.toNat
  | 0x01C => some e.rx1.map.toNat
  | 0x030 => some e.rx0.aux.toNat
  | 0x034 => some e.rx1.aux.toNat
  | 0x038 => some (eyeWord e.rx0)
  | 0x03C => some (eyeWord e.rx1)
  | 0x040 => some (layWord [(min 65535 e.voteFails, 0, 16), (min 3 e.voteRun, 16, 2), (b2n e.sbDead, 18, 1), (min 255 e.chkFails, 24, 8)])
  | 0x100 => some (layWord [(pstateCode s p, 0, 3), (e.lec, 3, 9), (b2n e.lecWarn, 12, 1), (b2n e.rtArmed, 13, 1), (e.ag.minor, 16, 4),
      (e.ag.major, 20, 4), (e.ag.vcs.toNat, 24, 6), (b2n (e.ag.compTx || e.ag.compRx), 30, 1), (b2n (e.ag.readsOut || e.ag.readsIn), 31, 1)])
  | 0x108 => some (match e.partner with
      | some c => layWord [(c.die, 0, 4), (c.port, 4, 3), (c.spec, 8, 8), (c.vendor, 16, 16)]
      | none => 0)
  | 0x130 => some e.crcFail.toNat
  | 0x134 => some e.replayTos.toNat
  | 0x138 => some e.naks.toNat
  | 0x13C => some (layWord [(e.dropLo, 0, 16), (e.dropHi, 16, 16)])
  | 0x150 => some e.replayBuf.length
  | 0x154 => some e.lecMax
  | _ =>
    if 0x110 ≤ off && off < 0x128 then
      let v := (off - 0x110) / 4
      some (layWord [(min 255 (creditOf e v), 0, 8), (lget 0 e.ag.credit v, 8, 8), (lget 0 ownCredits v, 16, 8)])
    else none

/-! ### The EYE -/

/-- SENS_STATUS.STATE. -/
def sensCode : SensState → Nat
  | .off => 0 | .cal => 1 | .standby => 2 | .exposing => 3 | .reading => 4 | .fault => 7

/-- ISP_STATUS.STATE. -/
def ispCode : IspState → Nat
  | .idle => 0 | .armed => 1 | .running => 2 | .done => 3 | .aborted => 4

/-- Do written shadows of the EYE wait (ISP_STATUS.SHADOW_PENDING)? -/
def eyeShadows (s : State) : Bool := s.shadow.any fun e => decide (0x01010000 ≤ e.1) && decide (e.1 < 0x01030000)

/-- EYE registers (R247, R248, R279, R281, R412, R413). -/
def liveEye (s : State) (a : Nat) : Option Nat :=
  let y := s.eye
  let i := s.isp
  let g := s.guard
  match a with
  | 0x01000004 => some (layWord [(sensCode y.state, 0, 3), (b2n y.hdrActive, 3, 1), (b2n y.clamped, 4, 1), (b2n y.bankA, 5, 1),
      (b2n y.bankB, 6, 1), (b2n y.tempDefects, 7, 1), (y.faultCause, 8, 4), (y.lastMissing, 12, 4), (y.defectsUsed, 16, 9)])
  | 0x01000024 => some y.expLast
  | 0x01000028 => some y.expLastHdr
  | 0x0100002C => some y.frames.toNat
  | 0x01000030 => some y.missing.toNat
  | 0x01000038 => some (layWord [(y.defectBad, 0, 16), (y.defectOver, 16, 16)])
  | 0x01010004 => some (layWord [(ispCode i.state, 0, 3), (i.band, 3, 5), (i.cause, 8, 4), (b2n (eyeShadows s), 12, 1),
      (b2n i.blFallback, 13, 1), (b2n i.toneBypass, 14, 1)])
  | 0x010100A0 => some i.dynCount
  | 0x010100A4 => some i.dpcUnfixed
  | 0x010100A8 => some i.bandCount.toNat
  | 0x010100AC => some i.holdSkips.toNat
  | 0x01030004 => some (layWord [(cropLimit s, 0, 3), (sizeLimit s, 3, 9), (b2n (debugClosed s), 12, 1), (g.crops, 13, 3),
      (b2n g.windowOpen, 16, 1), (b2n g.budgetHit, 17, 1), (b2n g.selftestFail, 18, 1)])
  | 0x0103000C => some g.used
  | 0x01030014 => some (layWord [(g.cropsRefused, 0, 16), (g.parcelsRefused, 16, 16)])
  | 0x01030018 => some g.budgetDrop.toNat
  | 0x0103001C => some g.delivered.toNat
  | 0x01030020 => some (layWord [(g.lastCause, 0, 4), (g.lastIndex, 4, 2)])
  | _ => if 0x01010090 ≤ a && a < 0x010100A0 then some (lget 0 i.blMeas ((a - 0x01010090) / 4)) else none

/-! ### Compute dies -/

/-- CL_STATUS.STATE. -/
def clCode : ClState → Nat
  | .off => 0 | .idle => 1 | .running => 2 | .waitInput => 3 | .waitOutput => 4 | .disabled => 5 | .failed => 6

/-- A register of a cluster block (R309, R311, R345). -/
def liveCluster (s : State) (cd k off : Nat) : Option Nat :=
  let c := s.cl cd k
  match off with
  | 0x004 => some (layWord [(clCode c.state, 0, 3), (b2n (unitOf s (Die.ofCd cd) k).queued.isSome, 3, 1), (c.group, 4, 8), (c.lastErr, 12, 4),
      (min 255 c.stalls, 16, 8)])
  | 0x010 => some c.speed
  | 0x014 => some (c.epBusy / 1000)
  | 0x018 => some (c.epWait / 1000)
  | 0x01C => some c.epLate
  | 0x020 => some c.accSat.toNat
  | 0x040 => some c.lfsr.toNat
  | 0x044 => some (layWord [(min 65535 c.expHi, 0, 16), (min 65535 c.expLo, 16, 16)])
  | 0x048 => some c.xnan.toNat
  | 0x04C => some c.outSat.toNat
  | _ => none

/-- A register of a monitoring slot, of the last completed epoch (R345). -/
def liveSlot (q : QSlot) (off : Nat) : Option Nat :=
  match off with
  | 0x04 => some (layWord [(q.sqnr.toNat, 0, 16), (min 65535 q.samples, 16, 16)])
  | 0x18 => some (layWord [(q.maxPos, 0, 16), (q.maxNeg, 16, 16)])
  | 0x1C => some (layWord [(min 65535 q.satSamples, 0, 16), (min 255 q.reruns, 16, 8), (b2n q.below, 24, 1), (b2n q.adapted, 25, 1),
      (b2n q.adaptNone, 26, 1), (b2n q.rerunDone, 27, 1), (b2n q.rerunSkipped, 28, 1), (b2n q.countSat, 29, 1), (b2n q.nanSeen, 30, 1),
      (b2n q.aborted, 31, 1)])
  | _ => none

/-- DET_STATUS.STATE. -/
def detCode : DetState → Nat
  | .off => 0 | .idle => 1 | .waitHead => 2 | .decode => 3 | .suppress => 4 | .write => 5

/-- Fabric, placement, halo, detect and ledger registers of a compute die, by offset from CDn (R224, R225, R309, R311, R380,
R382, R412, R413, Table 2.15). -/
def liveFabric (s : State) (cd off : Nat) : Option Nat :=
  let f := s.fab cd
  let c := s.cdie cd
  let t := s.detUnit cd
  match off with
  | 0x00400008 => some (layWord [(b2n f.masterActive, 0, 1), (b2n (quiesced f), 1, 1), (b2n ((s.die (Die.ofCd cd)).state == 7), 2, 1),
      (b2n f.stuck, 3, 1), (f.gen, 4, 4), (outstanding f, 8, 9), (oldOutstanding f, 17, 9)])
  | 0x00400020 => some f.discards
  | 0x00400024 => some f.lostCount
  | 0x00400028 => some f.heldViol
  | 0x0040002C => some f.heldAddr.toNat
  | 0x00400030 => some (layWord [(min 65535 f.eccCorr, 0, 16), (min 65535 f.eccUnc, 16, 16)])
  | 0x00400104 => some (layWord [(f.scrubSeg, 0, 6), (b2n f.scrubFail, 6, 1), (f.scrubFailSeg, 8, 6), (f.scrubPasses, 16, 16)])
  | 0x00400200 => some (layWord [(c.bank, 0, 2), (min 255 c.groups, 2, 8), (b2n (cd == 0 && fReady s), 10, 1), (b2n c.aborted, 11, 1)])
  | 0x00400204 => some c.aborts.toNat
  | 0x00400208 => some (layWord [(c.handoverGot, 0, 16), (c.handoverNot, 16, 16)])
  | 0x00400300 => some (layWord [((c.heldRows.map (·.2)).sum, 0, 8), ((c.halos.filter fun h => !h.committed && !h.revoked).length, 8, 8),
      (c.waitBand, 16, 5), (b2n c.waiting, 21, 1)])
  | 0x00400304 => some c.count.sent.toNat
  | 0x00400308 => some c.count.commits.toNat
  | 0x0040030C => some c.count.implicit.toNat
  | 0x00400310 => some c.count.revokes.toNat
  | 0x00400314 => some c.count.discard.toNat
  | 0x00400320 => some (layWord [(min 255 c.count.maxErr, 0, 8), (min 65535 c.count.bad, 16, 16)])
  | 0x00600004 => some (layWord [(detCode t.state, 0, 3), (b2n t.preOverflow, 3, 1), (b2n t.keepOverflow, 4, 1), (t.lastErr, 5, 3)])
  | 0x00600008 => some (layWord [(t.ranked, 0, 16), (t.kept, 16, 16)])
  | 0x0060000C => some (layWord [(min 65535 t.zeroArea, 0, 16), (min 65535 t.beyondPre, 16, 16)])
  | 0x00600010 => some t.steps
  | 0x00600014 => some t.lists.toNat
  | 0x00600020 => some (layWord [(t.live, 0, 8), (t.started, 8, 8), (t.ended, 16, 8), (min 255 t.fullDrops, 24, 8)])
  | 0x00600024 => some t.nextId.toNat
  | 0x00700000 => some f.ledgerEpoch.toNat
  | 0x00700004 => some ((s.ledger cd).filter fun e => linePending e.2).length
  | _ =>
    if 0x00401000 ≤ off && off < 0x00401800 then liveSlot (vget c.slotsShown ((off - 0x00401000) / 32)) (off % 32) else none

/-! ### Reads -/

/-- The port of a die whose block holds an offset from the die's first port block. -/
def portAtBlock (d : Die) (off : Nat) : PortId := ⟨d, off / 0x1000⟩

/-- The live word of a register, none where the register file holds it. -/
def liveWord (s : State) (path : Path) (a free : Nat) : Option Nat :=
  match addrDie a with
  | none => none
  | some .svc =>
    match a / 0x10000 with
    | 0 | 1 => liveBoot s a
    | 2 => liveOtp s a
    | 3 => livePower s a
    | 4 => liveTimebase s a
    | 5 | 6 => liveNet s a
    | 7 => liveRecords s a
    | 8 => liveAudio s a
    | 9 => liveHk s a
    | 0xA | 0xB | 0xC => liveField s a free
    | 0xD | 0xE => liveCheckLog s path a
    | 0xF => if a % 0x10000 < 0x2000 then livePort s (portAtBlock .svc (a % 0x10000)) (a % 0x1000) else none
    | _ => none
  | some .eye =>
    if 0x01040000 ≤ a && a < 0x01045000 then livePort s (portAtBlock .eye (a % 0x10000)) (a % 0x1000) else liveEye s a
  | some d =>
    let cd := d.cdIdx.getD 0
    let off := a % 0x01000000
    if off < 0x00400000 then liveCluster s cd (off / 0x00100000) (off % 0x00100000)
    else if 0x00500000 ≤ off && off < 0x00504000 then livePort s (portAtBlock d (off % 0x00100000)) (off % 0x1000)
    else liveFabric s cd off

/-- Is a row of the OTP mirror hidden from a path: KWRAP always, private CUSTOMER rows under their read lock off the core
path (R121, R123)? -/
def rowHidden (s : State) (path : Path) (r : Nat) : Bool :=
  (decide (0x154 ≤ r) && decide (r ≤ 0x157)) || (decide (0x1F0 ≤ r) && s.otp.rl.getLsbD 7 && path != .core)

/-- The live 64-bit value of a pair, by the address of its LO word; none where the register file holds it. -/
def livePair (s : State) (path : Path) (a : Nat) : Option Nat :=
  match addrDie a with
  | none => none
  | some .svc =>
    if 0x00021000 ≤ a && a < 0x00022000 then
      let r := (a - 0x00021000) / 8
      some (if rowHidden s path r then 0 else (mrow s r).toNat)
    else if 0x00090200 ≤ a && a < 0x000902C0 then some (vget s.hk.count ((a - 0x00090200) / 8)).toNat
    else if 0x000C0340 ≤ a && a < 0x000C0380 then some (vget s.bus.gpioTs ((a - 0x000C0340) / 8)).toNat
    else if 0x000F0000 ≤ a && a < 0x000F2000 then none
    else match a with
      | 0x00020018 => some s.otp.weakMask.toNat
      | 0x00030038 => some s.power.energy.toNat
      | 0x00040008 => some s.tb.ltime.toNat
      | 0x00040010 => some (intBits 64 s.tb.offset)
      | 0x00050020 => some (ownMac s).toNat
      | 0x00050070 => some (grandmaster s).toNat
      | 0x00060008 => some (match s.bcp.owner with | some o => o.host.toNat | none => 0)
      | 0x00060014 => some (if s.bcp.election == .succession then s.bcp.successor.toNat else 0)
      | 0x00070030 => some s.recs.sent.toNat
      | _ => none
  | some .eye => none
  | some d =>
    let cd := d.cdIdx.getD 0
    let off := a % 0x01000000
    let f := s.fab cd
    if off < 0x00400000 then some (s.cl cd (off / 0x00100000)).steps.toNat
    else if 0x00401000 ≤ off && off < 0x00401800 then
      let q := vget (s.cdie cd).slotsShown ((off - 0x00401000) / 32)
      if off % 32 == 8 then some q.err else some q.sig
    else match off with
      | 0x00400010 => some f.hit.toNat
      | 0x00400018 => some f.miss.toNat
      | 0x00400318 => some (s.cdie cd).count.blocks.toNat
      | _ => none

/-- The pairs of an EDL port block. -/
def portPair (s : State) (a : Nat) : Option Nat :=
  let port : Option PortId :=
    match addrDie a with
    | some .svc => if 0x000F0000 ≤ a && a < 0x000F2000 then some (portAtBlock .svc (a % 0x10000)) else none
    | some .eye => if 0x01040000 ≤ a && a < 0x01045000 then some (portAtBlock .eye (a % 0x10000)) else none
    | some d => if 0x00500000 ≤ a % 0x01000000 && a % 0x01000000 < 0x00504000 then some (portAtBlock d (a % 0x00100000)) else none
    | none => none
  port.bind fun p =>
    let e := s.port p
    match a % 0x1000 with
    | 0x020 => some e.rx0.fail.toNat
    | 0x028 => some e.rx1.fail.toNat
    | 0x140 => some e.goodTotal.toNat
    | 0x148 => some e.sentTotal.toNat
    | _ => none

/-- The 64-bit value of a pair; one that the register file holds has its words at its own addresses. -/
def pairValue (s : State) (path : Path) (a : Nat) : Nat :=
  match portPair s a with
  | some v => v
  | none => (livePair s path a).getD (rnat s a + 2 ^ 32 * rnat s (a + 4))

/-- Does a read of a shadowed register return the value in effect (R247, R279)?  Elsewhere it returns the last value written
(Table 0.4). -/
def readsInForce (a : Nat) : Bool := decide (0x01000000 ≤ a) && decide (a < 0x01030000) && !(decide (0x01000100 ≤ a) && decide (a < 0x01000200))

/-- The word that a read of a single register shows. -/
def shownWord (s : State) (path : Path) (d : RegDef) (a free : Nat) : Word :=
  match liveWord s path a free with
  | some v => toWord v
  | none => d.shown (if readsInForce a then rget s a else rnext s a)

/-- A read of a register on a path, with what the read itself does: pair shadows (R6), queue reads (R557), LOG_RD_DATA (R622),
LINK_DROP, which clears as it is read (R519).  None at an address that names no register. -/
def regRead (s : State) (path : Path) (a : Nat) : Option (Word × State) :=
  if 0x00048000 ≤ a && a < 0x0004E000 && a % 4 == 0 then some (toWord (launchBankWord s a), s)
  else if 0x00070004 == a then
    some (toWord ((liveRecords s a).getD 0), modRecs s fun r => { r with linkDrop := false })
  else match regAt s.part a with
    | none => none
    | some (d, i) =>
      if d.pair == .hi || d.pair == .rwHi then some (hiShadow s path (a - 4), s)
      else if a == 0x0009001C then some (hkQLo s path)
      else if d.pair == .lo || d.pair == .rwLo then
        let v := pairValue s path a
        some (toWord v, setHiShadow s path a (toWord (v / 2 ^ 32)))
      else if d.base == 0x000E0040 then some (logRdData s path i false)
      else if a == 0x000A0018 then let f := fresh s; some (shownWord s path d a f.1, f.2)
      else some (shownWord s path d a 0, s)

/-- A read of a whole pair from one snapshot, which changes no shadow but carries out the LO word's action (R9).  None at an
address that is no pair's LO word. -/
def regRead64 (s : State) (path : Path) (a : Nat) : Option (Word × Word × State) :=
  match regAt s.part a with
  | some (d, _) =>
    if d.pair == .lo || d.pair == .rwLo then
      if a == 0x0009001C then let r := hkPop s; some (r.1.1, r.1.2, r.2)
      else let v := pairValue s path a; some (toWord v, toWord (v / 2 ^ 32), s)
    else none
  | none => none

end Sys2Proof.Machine
end

