-- ==== Sys2Proof/Machine/RegWrite.lean ====
section
/-! DEFINITION. A register write on an access path: who may write a register, what is refused, what waits for the
equinox, and what the write itself does (R4, R8, R689, and each chapter's configuration section). -/
namespace Sys2Proof.Machine

/-! ### Paths (R101, R120, R159, R196, R226, R346, R599, R627, R475) -/

/-- Registers that the management core alone writes: LFSR_SEED, I2CM_XFER, I2CM_TX and PM_CFG (R346, R599). -/
def coreOnly (a : Nat) : Bool :=
  a == 0x000C0004 || (decide (0x000C0010 ≤ a) && decide (a < 0x000C0030)) || a == 0x000C0100 ||
  ((addrDie a).any (·.isCd) && decide (a % 0x01000000 < 0x00400000) && a % 0x00100000 == 0x040)

/-- The segment table and SCRUB_CTRL, which the owner writes before FIELD only (R226). -/
def segTable (a : Nat) : Bool :=
  let off := a % 0x01000000
  (addrDie a).any (·.isCd) && (off == 0x00400100 || (decide (0x00400400 ≤ off) && decide (off < 0x00400800)))

/-- The check contexts (R627). -/
def cvRegister (a : Nat) : Bool := decide (0x000D0000 ≤ a) && decide (a < 0x000E0000)

/-- May a path write a register?  Over BCP a write comes from the owner. [DEDUCED: log 9] -/
def mayWrite (s : State) (path : Path) (a : Nat) : Bool :=
  if a == 0x000E0024 then true
  else if coreOnly a then path == .core
  else if cvRegister a then cvPathOk s path
  else match path with
    | .core => true
    | .bcp => a != 0x00040084 && !(segTable a && inField s)
    | .i2c | .jtag => !inField s

/-! ### Values that a chapter refuses -/

/-- Would a valid entry of the active table lie at or after the deadline of a period, in µs (R46)? -/
def entryBeyond (s : State) (period : Nat) : Bool :=
  (activeTable s).any fun e => nbit e.flags 0 && decide (1000 * period ≤ 1000 * rnat s 0x00040028 + e.offset.toNat)

/-- May the epoch period take a value (R46)? -/
def periodOk (s : State) (period : Nat) : Bool :=
  decide (((imageOf s).map (·.minPeriod)).getD 0 ≤ period) && !entryBeyond s period

/-- A stream configuration that R280 refuses. -/
def streamCfgOk (s : State) (i : Nat) (v : Word) : Bool :=
  let o := rnext s (streamCfg (1 - i))
  let dst := wbits v 11 8
  (wbits v 3 1 == 4) == (wbits v 5 4 == 2) &&
  (dst == 0 || (Die.ofCode dst).any (fitted s)) &&
  !(dst == 0 && debugDisabled s) &&
  !(wbit v 0 && wbit o 0 && dst == wbits o 11 8 && wbits v 3 1 == wbits o 3 1)

/-- Does a channel mask name only fitted channels (R565)? -/
def hkMaskOk (s : State) (m : Nat) : Bool := (List.range 24).all fun ch => !nbit m ch || hkChannel s ch

/-- Clearing a bit that only a state before FIELD lets clear (R693). -/
def lockedClear (s : State) (a i : Nat) (v : Word) : Bool := inField s && wbit (rnext s a) i && !wbit v i

/-- A route-table write to a port that is ISOLATED, DEAD or ABSENT (R196). -/
def routeRefused (s : State) (a : Nat) (v : Word) : Bool :=
  let bad (d : Die) (p : Nat) : Bool :=
    match (s.port ⟨d, p⟩).pstate with
    | .isolated | .dead | .absent => decide (p < d.portCount)
    | _ => false
  let inTable := match addrDie a with
    | some .svc => decide (0x000F8000 ≤ a) && decide (a < 0x00100000)
    | some .eye => decide (0x01048000 ≤ a) && decide (a < 0x01050000)
    | some _ => decide (0x00508000 ≤ a % 0x01000000) && decide (a % 0x01000000 < 0x00600000)
    | none => false
  match addrDie a with
  | some d => inTable && ((wbit v 3 && bad d (wbits v 2 0)) || (wbit v 7 && bad d (wbits v 6 4)))
  | none => false

/-- Does a chapter refuse the value for an SVC register? -/
def refusedSvc (s : State) (a : Nat) (v : Word) : Bool :=
  if 0x00090040 ≤ a && a < 0x00090080 then !hkMaskOk s (wbits v 23 0)
  else if 0x00090300 ≤ a && a < 0x00090360 then !hkChannel s ((a - 0x00090300) / 4)
  else match a with
    | 0x00010030 => lockedClear s a 16 v
    | 0x00040024 => !periodOk s v.toNat
    | 0x00090000 => !hkCtrlOk s v
    | 0x00090010 => !hkMaskOk s (wbits v 23 0)
    | 0x000A0010 => (List.range 2).any fun i => wbit v i != rb s a i && (foLevel s (2 * i) != 0 || foLevel s (2 * i + 1) != 0)
    | 0x000B000C => decide (wbits v 15 0 ≤ wbits v 31 16)
    | 0x000C0100 => lockedClear s a 2 v
    | _ => false

/-- Does a chapter refuse the value for a register of another die? -/
def refusedDie (s : State) (a : Nat) (v : Word) : Bool :=
  let off := a % 0x01000000
  let port := match addrDie a with
    | some .eye => decide (0x01040000 ≤ a) && decide (a < 0x01045000)
    | _ => decide (0x00500000 ≤ off) && decide (off < 0x00504000)
  if port then a % 0x1000 == 4 && wbit v 1 && inField s
  else if addrDie a == some .eye then match a with
    | 0x01000000 => wbits v 6 4 != 0 && inField s && debugClosed s
    | 0x01010080 => !streamCfgOk s 0 v
    | 0x01010084 => !streamCfgOk s 1 v
    | 0x01030000 => lockedClear s a 1 v
    | _ => false
  else if off < 0x00400000 then off % 0x00100000 == 0 && lockedClear s a 1 v
  else off == 0x00400000 && lockedClear s a 2 v

/-- Does a chapter refuse the value? -/
def refusedValue (s : State) (a : Nat) (v : Word) : Bool :=
  routeRefused s a v ||
  (if addrDie a == some .svc then
     (decide (0x000F0000 ≤ a) && decide (a < 0x000F2000) && a % 0x1000 == 4 && wbit v 1 && inField s) || refusedSvc s a v
   else refusedDie s a v)

/-! ### Shadows (R33, R247, R279, R346, R381, R412, R441, R521, R653) -/

/-- Does a write wait for the equinox? -/
def shadowed (a : Nat) : Bool :=
  match addrDie a with
  | some .svc => [0x00070000, 0x00070014, 0x00070018, 0x00040024, 0x00040028, 0x00030004, 0x00030010, 0x00030014, 0x00040400].contains a ||
      (decide (0x0004040C ≤ a) && decide (a ≤ 0x00040444))
  | some .eye => decide (a < 0x01030004)
  | some _ =>
    let off := a % 0x01000000
    off == 0x00400324 || off == 0x00400800 || (decide (0x00401000 ≤ off) && decide (off < 0x00401800) && off % 32 == 0)
  | none => false

/-- A write that enters a shadow, with the parts of it that act at once: in SVC every write while no epoch runs (Table 2.17 holds
writes that come during an epoch), a lower cap (R648); SHADOW_HOLD (R279), and on the EYE every write until the first EQUINOX token
after its release (R287). [DESIGN CHOICE: log 37] -/
def shadowWrite (s : State) (d : RegDef) (a : Nat) (v : Word) : State :=
  let w := d.written (rnext s a) v
  let s1 := rshadow s a w
  if addrDie a == some .eye then
    let s2 := if a == 0x01010000 then rputf s1 a 31 31 (b2n (wbit w 31)) else s1
    if !s.eye.fresh then s2
    else
      let s3 := rput s2 a w
      if a == 0x01000000 || (0x01000100 ≤ a && a < 0x01000200) then loadDefects s3 else s3
  else if addrDie a == some .svc && (!s.seqr.armed || (a == 0x00030010 && decide (w.toNat < rf s a 9 0))) then
    let s2 := rput s1 a w
    if a == 0x00030010 then applyCap s2 else s2
  else s1

/-! ### Writes that act -/

/-- The SITE straps that a compute die reads when a register write releases or resets it: as at the last reading; before the first,
as the part is built, which the spec leaves to the package. [DESIGN CHOICE: log 36] -/
def siteOf (s : State) (cd : Nat) : Nat × Bool × State :=
  let x := s.boot.site[cd]?.getD (0, false)
  if x.2 then (x.1, nbit x.1 2, s)
  else let f := fresh s; (f.1 % 8, nbit (f.1 / 8) 0, f.2)

/-- Releases a die by its DIE_HOLD bit; a compute die reads SITE first (R81), the EYE tests its guard (Table 13.13). [DESIGN CHOICE: log 36] -/
def releaseWith (s : State) (d : Die) (site : Nat) (mirrored guardOk : Bool) : State :=
  match d with
  | .svc => s
  | .eye => guardSelftest (releaseDie s .eye) guardOk
  | _ => let s1 := releaseDie s d
         readSite s1 (d.cdIdx.getD 0) site mirrored

/-- Releases a die with what it reads left to the package. -/
def releaseNow (s : State) (d : Die) : State :=
  match d with
  | .eye => let f := fresh s; releaseWith f.2 .eye 0 false (nbit f.1 0)
  | d => let x := siteOf s (d.cdIdx.getD 0); releaseWith x.2.2 d x.1 x.2.1 true

/-- DIE_HOLD: each bit set holds its die, each bit cleared releases it where the level in force permits the die (R102, R646). [DESIGN CHOICE: log 37] -/
def dieHoldWrite (s : State) (v : Word) : State :=
  ((fittedDies s).filter (· != .svc)).foldl (fun t d =>
    if wbit v d.code && !held t d then holdDie t d false
    else if !wbit v d.code && held t d && levelPermits t d then releaseNow t d
    else t) s

/-- WDT_KICK (R80, Table 3.14). -/
def wdtKickNow (s : State) (v : Word) : State :=
  if v == 0x0000A5C3 then modBoot s fun b => { b with wdtKicked := s.now } else raise s 0xD 0 Code.wdtKickBad 1

/-- RESET_CTRL (Table 3.14). -/
def resetCtrlNow (s : State) (v : Word) : State :=
  if wbits v 31 16 != 0x5A17 then s
  else match wbits v 1 0 with
    | 1 => warmCmd s
    | 2 => coldCmd s
    | _ => s

/-- The analog side of an OTP operation that a plain register write starts: the spec leaves it to the macro. [DESIGN CHOICE: log 43] -/
def otpAnalogOf (s : State) : OtpAnalog × State :=
  let f0 := fresh s
  let f1 := fresh f0.2
  let f2 := fresh f1.2
  let f3 := fresh f2.2
  let f4 := fresh f3.2
  let f5 := fresh f4.2
  ({ vsysOk := nbit f0.1 0, tempOk := nbit f0.1 1, pumpOk := nbit f0.1 2, stopAfter := if nbit f0.1 3 then some f1.1 else none,
     failing := BitVec.ofNat 64 f2.1, stillWeak := BitVec.ofNat 64 f3.1, badSpares := BitVec.ofNat 16 f4.1, pulses := f5.1 % 256 }, f5.2)

/-- LOOP of every port is cleared when the part enters FIELD (Table 5.11). -/
def clearLoops (s : State) : State :=
  ((fittedDies s).flatMap portsOf).foldl (fun t p => rputf t (portBase p + 4) 1 1 0) s

/-- A completed LC_ADVANCE to DECOMMISSIONED is followed by a cold reset, after which step 2 halts the part (R118); one to FIELD
clears LOOP. -/
def afterLcAdvance (s0 s : State) : State :=
  if lcState s0 != 5 && lcState s == 5 then coldNow s 0 false false false
  else if !inField s0 && inField s then clearLoops s else s

/-- OTP_CMD, by its OP (R132). -/
def otpCmdNow (s : State) (path : Path) (v : Word) : WriteRes :=
  let x := otpAnalogOf s
  match wbits v 3 0 with
  | 1 => (otpProgramRow x.2 path v x.1, .ok)
  | 2 => (otpReinforceRow x.2 path v x.1, .ok)
  | 3 => (otpMarginRow s path v, .ok)
  | 4 => (otpScan x.2 path v x.1, .ok)
  | 5 => (afterLcAdvance s (otpLcAdvance x.2 path v x.1), .ok)
  | 6 => (otpRollbackRaise x.2 path v x.1, .ok)
  | 7 => (otpPolicyLock x.2 path v x.1, .ok)
  | 8 => (otpKwrapGen x.2 path v x.1, .ok)
  | _ => (s, .refused)

/-- VCORE_SET (R648): without the slack controller VCORE follows it at once. -/
def vcoreSetNow (s : State) (v : Word) : State :=
  let s1 := modPower s fun p => { p with vcoreSet := wbits v 9 0 }
  if rb s 0x00030004 0 then s1
  else
    let s2 := modPower s1 fun p => { p with vcoreSet := clampVcore s1 p.vcoreSet }
    if summerOrAutumn s.power.season then sendVcore s2 s2.power.vcoreSet else s2

/-- A die reset by FAB_RESET (R218). -/
def fabResetNow (s : State) (cd : Nat) (v : Word) : State :=
  if wbits v 31 16 == 0xD1E5 && wbit v 0 then
    let x := siteOf s cd
    dieResetNow x.2.2 cd x.1 x.2.1
  else s

/-- The write of a port register: RETRAIN, LOOP, ISOLATE, REPLAY_TO (R158, R195). -/
def portWrite (s : State) (d : RegDef) (p : PortId) (a : Nat) (v : Word) : State :=
  let s1 := rput s a (d.written (rget s a) v)
  if a % 0x1000 == 4 then (if wbit v 0 && (s.port p).phy == .up then startRetrain s1 p else s1)
  else if a % 0x1000 == 0x104 then (if wbit v 0 then isolatePort s1 p else s1)
  else s1

/-- Stores a register and lets what follows it follow. -/
def storeThen (s : State) (d : RegDef) (a : Nat) (v : Word) (f : State → State) : WriteRes :=
  (f (rput s a (d.written (rget s a) v)), .ok)

/-- The write of a register of a check context. -/
def cvWrite (s : State) (path : Path) (d : RegDef) (c a : Nat) (v : Word) : WriteRes :=
  match a % 0x100 with
  | 0x00 => cvCtrlWrite s path c v
  | 0x04 => (modCv s c fun x => { x with
      done := x.done && !wbit v 1, mismatch := x.mismatch && !wbit v 2
      pathErr := x.pathErr && !wbit v 5, dmaErr := x.dmaErr && !wbit v 6 }, .ok)
  | 0x08 => cvStateWriteReg s path c v
  | 0x14 => cvDataWriteReg s path c 1 v
  | 0x18 => cvDataWriteReg s path c 2 v
  | 0x1C => cvDataWriteReg s path c 4 v
  | _ => storeThen s d a v id

/-- The write of an SVC register that is neither refused nor shadowed: reset, OTP, power and timebase. -/
def svcWriteLow (s : State) (path : Path) (d : RegDef) (a : Nat) (v : Word) : WriteRes :=
  match a with
  | 0x00010004 => (modBoot s fun b => { b with resetCause := b.resetCause &&& ~~~v }, .ok)
  | 0x00010008 => (resetCtrlNow s v, .ok)
  | 0x0001001C => (dieHoldWrite s v, .ok)
  | 0x00010034 => (wdtKickNow s v, .ok)
  | 0x00020004 => (lockSet s v.toNat, .ok)
  | 0x00020008 => otpCmdNow s path v
  | 0x00020014 => (modOtp s fun o => { o with done := o.done && !wbit v 1, error := o.error && !wbit v 2 }, .ok)
  | 0x00030008 => seasonCmdReg s path v
  | 0x0003000C => storeThen s d a v fun t => vcoreSetNow t v
  | 0x00040000 => storeThen s d a v fun t => if wbits v 1 0 == 0 && t.tb.state != .free then enterFree t else t
  | 0x00040408 => hvCmdReg s path v
  | _ => storeThen s d a v id

/-- The write of an SVC register of FIELD_IO, TAMPER, I2C, PMBUS, the trouble log or the SVC ports. -/
def svcWriteIo (s : State) (path : Path) (d : RegDef) (a : Nat) (v : Word) : WriteRes :=
  match a with
  | 0x000A0014 => foOutReg (rput s a (v &&& 0xF)) path v
  | 0x000A001C => foFaultReg s path v
  | 0x000B0000 => storeThen s d a v tmpFollow
  | 0x000B0008 => tmpCmdReg s path v
  | 0x000C0004 => i2cXferReg s path v false (.ok [])
  | 0x000C0328 => (modBus s fun b => { b with gpioEvt := b.gpioEvt &&& ~~~(v.setWidth 8) }, .ok)
  | 0x000E0020 => logCmdWrite s path v
  | 0x000E0024 => ({ s with logRd := vmod s.logRd path.idx fun r => { r with idx := v } }, .ok)
  | _ => if 0x000F0000 ≤ a && a < 0x000F2000 then (portWrite s d (portAtBlock .svc (a % 0x10000)) a v, .ok) else storeThen s d a v id

/-- The write of an SVC register that is neither refused nor shadowed: network to log. -/
def svcWriteHigh (s : State) (path : Path) (d : RegDef) (a : Nat) (v : Word) : WriteRes :=
  if 0x000A0000 ≤ a && a < 0x000A0010 then storeThen s d a v fun t => foDrive s t
  else if 0x000D0000 ≤ a && a < 0x000D0400 then cvWrite s path d ((a - 0x000D0000) / 0x100) a v
  else match a with
    | 0x00050000 => storeThen s d a v netFollow
    | 0x00050014 | 0x00050018 | 0x0005001C => storeThen s d a v addrFollow
    | 0x00080000 => lstCtrlReg s path v
    | 0x00090000 => hkCtrlWrite s v
    | 0x00090004 => (modHk s fun h => { h with xcFault := h.xcFault && !wbit v 6 }, .ok)
    | 0x00090014 => hkUrgentWrite s path v
    | 0x000903F0 => hkMmClrWrite s path v
    | 0x000903F4 => (modHk s fun h => { h with hit := h.hit &&& ~~~(v.setWidth 24) }, .ok)
    | _ => svcWriteIo s path d a v

/-- The write of a register of the EYE or a compute die that is neither refused nor shadowed. -/
def dieWrite (s : State) (path : Path) (d : RegDef) (x : Die) (a : Nat) (v : Word) : WriteRes :=
  match x.cdIdx with
  | none =>
    if 0x01040000 ≤ a && a < 0x01045000 then (portWrite s d (portAtBlock .eye (a % 0x10000)) a v, .ok)
    else storeThen s d a v id
  | some cd =>
    let off := a % 0x01000000
    if off < 0x00400000 && off % 0x00100000 == 0x040 then
      storeThen s d a v fun t => modCl t cd (off / 0x00100000) fun c => { c with lfsr := v }
    else if 0x00500000 ≤ off && off < 0x00504000 then (portWrite s d (portAtBlock x (off % 0x00100000)) a v, .ok)
    else match off with
      | 0x00400000 => fabCtrlReg s cd path v
      | 0x00400004 => (fabResetNow s cd v, .ok)
      | _ => storeThen s d a v id

/-! ### The write (R4, R8) -/

/-- A word that every check has let through. -/
def writeWord (s : State) (path : Path) (d : RegDef) (a : Nat) (v : Word) : WriteRes :=
  if shadowed a then (shadowWrite s d a v, .ok)
  else match addrDie a with
    | some .svc => if a < 0x00050000 then svcWriteLow s path d a v else svcWriteHigh s path d a v
    | some x => dieWrite s path d x a v
    | none => (s, .badAddr)

/-- A LO write of a writable pair goes into the path's staging shadow (R8). -/
def stageLo (s : State) (path : Path) (a : Nat) (v : Word) : State := { s with loStaged := mput s.loStaged (pairKey path a) v }

/-- A HI write of a writable pair writes both halves: the staged LO, or with none the current LO (R8). -/
def commitHi (s : State) (path : Path) (a : Nat) (v : Word) : State :=
  let lo := (mfind s.loStaged (pairKey path (a - 4))).getD (rget s (a - 4))
  let s1 := rput (rput s (a - 4) lo) a v
  { s1 with loStaged := s1.loStaged.filter fun e => e.1 != pairKey path (a - 4) }

/-- A register write at the die that holds the register, as its path brings it. -/
def regWriteHere (s : State) (path : Path) (a : Nat) (v : Word) : WriteRes :=
  match regAt s.part a with
  | none => (s, .badAddr)
  | some (d, _) =>
    if !mayWrite s path a then (s, .path)
    else if !d.writable then (s, .ok)
    else if !d.accepts v || refusedValue s a v then (s, .refused)
    else if d.pair == .rwLo then (stageLo s path a v, .ok)
    else if d.pair == .rwHi then (commitHi s path a v, .ok)
    else writeWord s path d a v

/-- A register write: one to another die needs the die open to SVC (R690). -/
def regWrite (s : State) (path : Path) (a : Nat) (v : Word) : WriteRes :=
  match regAt s.part a, addrDie a with
  | some _, some d => if d != .svc && !dieOpen s d then (s, .state) else regWriteHere s path a v
  | _, _ => (s, .badAddr)

end Sys2Proof.Machine
end

