-- ==== Sys2Proof/Machine/SlotCheck.lean ====
section
/-! DEFINITION. The checks of an image slot and of the recogniser: keys, signature, compatibility, launch tables and placements
(R48, R90–R95, R298, R313). -/
namespace Sys2Proof.Machine

/-! ### Launch tables (R48, Table 2.3, Table 2.4) -/

/-- The units of a die (Table 2.3). -/
def unitExists : Die → Nat → Bool
  | .svc, u => decide (u ≤ 4)
  | .eye, u => decide (u ≤ 3)
  | _, u => decide (u ≤ 6) || u == 0x0F

/-- The actions that a unit takes (Table 2.4). -/
def actionPermitted (d : Die) (u act : Nat) : Bool :=
  unitExists d u && (match d with
    | .svc => match act with
      | 0x20 | 0x21 | 0x22 => u == 3
      | 0x30 => u == 1 || u == 2
      | 0x40 => u == 0
      | 0x41 => u == 4
      | 0x7F => true
      | _ => false
    | .eye => match act with
      | 0x01 | 0x02 => u == 0
      | 0x08 => u == 1
      | 0x09 => u == 3
      | 0x7F => true
      | _ => false
    | _ => match act with
      | 0x10 | 0x12 => decide (u < 4) || u == 0x0F
      | 0x11 => u == 5
      | 0x7F => true
      | _ => false)

/-- Does a RUN_GROUP, DETECT or TRACK entry name a descriptor of its own die and clusters (R298)? -/
def entryPlaced (groups : List GroupDesc) (e : LaunchEntry) : Bool :=
  if e.action == 0x10 || e.action == 0x11 || e.action == 0x12 then
    match groups.find? (fun g => g.index == e.arg.toNat) with
    | none => false
    | some g =>
      g.dieByte % 16 == e.dieByte % 16 &&
      (if e.action == 0x11 then nbit g.flags 3
       else if e.unit == 0x0F then g.clusters % 16 == 15
       else nbit g.clusters e.unit)
  else true

/-- Two entries of action 0x01 or 0x02 that could issue in one epoch. -/
def exposeClash (a b : LaunchEntry) : Bool :=
  !((nbit a.flags 1 && nbit b.flags 2) || (nbit a.flags 2 && nbit b.flags 1))

/-- Is there a clash among the VALID exposure entries of a table? -/
def exposesClash : List LaunchEntry → Bool
  | [] => false
  | e :: es => es.any (exposeClash e) || exposesClash es

/-- Offsets in non-decreasing order. -/
def offsetsRise : List LaunchEntry → Bool
  | a :: b :: es => decide (a.offset.toNat ≤ b.offset.toNat) && offsetsRise (b :: es)
  | _ => true

/-- The checks of one entry (R48). -/
def entryOk (s : State) (groups : List GroupDesc) (e : LaunchEntry) : Bool :=
  decide (e.offset.toNat + 1000 * rnat s 0x00040028 < periodNs s) &&
  (match Die.ofCode (e.dieByte % 16) with
    | some d => fitted s d && actionPermitted d e.unit e.action
    | none => false) &&
  decide (e.dieByte < 16) && decide (e.flags < 8) && !(nbit e.flags 1 && nbit e.flags 2) && entryPlaced groups e

/-- A launch table that SVC may make active (R47, R48). -/
def tableOk (s : State) (groups : List GroupDesc) (t : List LaunchEntry) : Bool :=
  decide (1 ≤ t.length) && decide (t.length ≤ 512) && offsetsRise t && t.all (entryOk s groups) &&
  !exposesClash (t.filter fun e => nbit e.flags 0 && (e.action == 1 || e.action == 2))

/-! ### Placements (R298, R305, R313, Table 10.4) -/

/-- A descriptor within the ranges of Table 10.4, its dies fitted and its buffers in the region. -/
def groupOk (s : State) (g : GroupDesc) : Bool :=
  let onCd (c : Nat) : Bool := (Die.ofCode c).any fun d => d.isCd && fitted s d
  let there (c : Nat) : Bool := decide (c < 16) && (Die.ofCode c).any (fitted s)
  decide (g.index < 256) && decide (g.dieByte < 16) && onCd g.dieByte && decide (g.clusters < 16) && decide (g.flags < 16) &&
  decide (g.bandFirst ≤ 23) && decide (g.bandFirst ≤ g.bandLast) && decide (g.bandLast ≤ 23) &&
  decide (g.inKind ≤ 3) && decide (g.outKind ≤ 3) &&
  (decide (2 ≤ g.inKind) || there g.inSrc) && (!(g.outKind == 0 || g.outKind == 3) || there g.outDst) &&
  g.inbufLen % 64 == 0 && decide (g.prog < 0xC00000) && decide (g.inbuf + g.inbufLen ≤ 0xC00000)

/-- No two descriptors with one index. -/
def indicesDiffer : List GroupDesc → Bool
  | [] => true
  | g :: gs => !gs.any (fun h => h.index == g.index) && indicesDiffer gs

/-- A placement that passes R298; every descriptor of bank F names CD0 (R305). -/
def placementOk (s : State) (f : Bool) (gs : List GroupDesc) : Bool :=
  decide (gs.length ≤ 256) && gs.all (groupOk s) && indicesDiffer gs && (!f || gs.all fun g => g.dieByte == 4)

/-- Check 0x0E: both tables, both placements, and bank F there (R93). -/
def tablesOk (s : State) (m : SqiMeta) : Bool :=
  tableOk s m.groupsA m.launchA && placementOk s false m.groupsA && placementOk s true m.groupsF &&
  (match m.launchF with
    | some t => tableOk s m.groupsF t
    | none => false)

/-! ### Slot checks (R90–R94, Table 3.9) -/

/-- The part's bit in PARTS. -/
def partsBit (s : State) (c : Compat) : Bool := nbit c.parts (match s.part with | .bx7720 => 0 | .bx7710 => 1)

/-- CHIP_ID[15:0] of stepping B0. -/
def chipStep : Nat := 0x0B00

/-- A stepping outside a component's range. -/
def stepBad (c : Compat) : Bool := decide (chipStep < c.stepMin) || decide (c.stepMax < chipStep)

/-- Is a value in a range? -/
def within (x lo hi : Nat) : Bool := decide (lo ≤ x) && decide (x ≤ hi)

/-- Does the public key match the digest at KEY_INDEX? -/
def keyMatches (s : State) (f : SlotFacts) : Bool :=
  sha256 (beBytes 32 f.pubX.toNat ++ beBytes 32 f.pubY.toNat) == rowBytes s (0x140 + 4 * f.keyIndex) 4

/-- A rollback index below its counter; an index above 1536 passes a counter of 1536 (R125). -/
def rollbackBad (s : State) (f : SlotFacts) : Bool :=
  decide (f.fw.rollback < fwCounter s) || decide (f.sqi.rollback < sqiCounter s)

/-- The first of checks 0x01–0x0E that a slot fails, 0 when it passes them, by its state in the descriptor. [DESIGN CHOICE: log 39] -/
def slotCheck (s : State) (state : Nat) (f : SlotFacts) : Nat :=
  if state == 0 || !f.magicOk then 0x01
  else if !f.headerOk then 0x02
  else if 4 ≤ f.keyIndex || !digestUsable s f.keyIndex then 0x03
  else if !keyMatches s f then 0x04
  else if !ecdsaVerify f.pubX.toNat f.pubY.toNat f.sigR.toNat f.sigS.toNat f.headerHash.toNat then 0x05
  else if !partsBit s f.fw || !partsBit s f.sqi then 0x06
  else if stepBad f.fw || stepBad f.sqi then 0x07
  else if 3 < f.fw.flMin || 3 < f.sqi.flMin then 0x08
  else if !within f.sqi.ownAbi f.fw.peer1Min f.fw.peer1Max then 0x09
  else if !within f.fw.ownAbi f.sqi.peer1Min f.sqi.peer1Max then 0x0A
  else if rollbackBad s f then 0x0B
  else if f.fwHash != f.fwDigest then 0x0C
  else if f.metaHash != f.metaDigest then 0x0D
  else if !tablesOk s f.image then 0x0E
  else 0

/-- The recogniser's failure of R95: 1 absent, 2 hash, 3 part, stepping or feature level, 4 ABI; 0 when it passes. -/
def recogCause (s : State) (f : SlotFacts) : Nat :=
  if !f.recPresent then 1
  else if f.recHash != f.recDigest then 2
  else if !partsBit s f.recog || stepBad f.recog || 3 < f.recog.flMin then 3
  else if !within f.recog.ownAbi f.fw.peer2Min f.fw.peer2Max || !within f.fw.ownAbi f.recog.peer1Min f.recog.peer1Max then 4
  else 0

end Sys2Proof.Machine
end

