-- ==== Sys2Proof/Machine/BootOps.lean ====
section
/-! DEFINITION. Start-up: descriptors, configuration entries, key store, slot selection, DORMANT, and loading the dies
(R76, R85–R98, R220, R305, R467). -/
namespace Sys2Proof.Machine

/-- Goes on to a step of Table 3.1. -/
def bootTo (s : State) (n : Nat) : State := modBoot s fun b => { b with phase := n }

/-! ### Flash copies (R87, R467) -/

/-- Of two copies, which is used: the valid one, or of two valid ones the one with the higher GEN. [DESIGN CHOICE: log 39] -/
def copyUsed (g0 g1 : Option Nat) : Nat :=
  match g0, g1 with
  | some a, some b => if a < b then 1 else 0
  | none, some _ => 1
  | _, _ => 0

/-- Writes a descriptor to the copy not in use, with GEN increased by 1; it is in use from then on (R87). -/
def writeDesc (s : State) (f : BootDesc → BootDesc) : State :=
  match descNow s with
  | none => s
  | some d =>
    let d1 := { f d with gen := (d.gen + 1) % 2 ^ 32 }
    let n := 1 - s.boot.descCopy
    let s1 := modFlash s fun x => if n == 0 then { x with desc0 := some d1 } else { x with desc1 := some d1 }
    emit (modBoot s1 fun b => { b with descCopy := n }) (.flash (.desc n d1))

/-- A slot's state in a descriptor, and its change. -/
def descState (d : BootDesc) (slot : Nat) : Nat := if slot == 0 then d.stateA else d.stateB
def descSet (d : BootDesc) (slot st : Nat) : BootDesc := if slot == 0 then { d with stateA := st } else { d with stateB := st }

/-- The configuration copy in use. -/
def cfgNow (s : State) : Option CfgCopy := if s.boot.cfgCopy == 1 then s.flash.cfg1 else s.flash.cfg0

/-- Both keys from the key store beside the copy in use, or from the other's when that one's tag fails; a store that fails in
both leaves the part keyless (R467). [DESIGN CHOICE: log 38] -/
def loadKeys (s : State) : State :=
  let ks := (if s.boot.cfgCopy == 1 then [s.flash.cfg1, s.flash.cfg0] else [s.flash.cfg0, s.flash.cfg1]).filterMap fun c => c.bind (·.keys)
  match ks.find? (·.tagOk) with
  | some k => modBcp s fun b => { b with storeKey := k.store, serviceKey := k.service, kgen := k.kgen, keystoreBad := false }
  | none => modBcp s fun b => { b with storeKey := none, serviceKey := none, keystoreBad := !ks.isEmpty }

/-! ### DORMANT (R98) -/

/-- The part enters DORMANT: network, BCP, timebase, log and OTP run; no die leaves hold. [DESIGN CHOICE: log 38] -/
def dormantNow (s : State) (cause : Nat) : State :=
  let s1 := modBoot (loadKeys s) fun b => { b with phase := 24, dormantCause := cause, slot := 3 }
  addrFollow (seasonTo (modNet s1 fun n => { n with on := true }) .dormant)

/-! ### Configuration entries (R89) -/

/-- The word that an entry writes: its RW fields alone. -/
def entryWord (d : RegDef) (v : Word) : Word :=
  toWord ((d.fields.map fun f => if f.acc == .rw then f.place (wbits v f.hi f.lo) else 0).sum)

/-- Is the register one that an entry may change: with an RW field, and not the image selection? -/
def entryTakes (a : Nat) (d : RegDef) : Bool := d.fields.any (fun f => f.acc == .rw) && a != 0x0001000C

/-- One configuration entry.  An EPOCH_PERIOD below the image's minimum becomes that minimum. -/
def applyEntry (s : State) (e : Word × Word) : State :=
  let a := e.1.toNat
  let bad := raise s 0xD 0 Code.cfgEntryBad 1
  match regAt s.part a with
  | none => bad
  | some (d, _) =>
    if !entryTakes a d then bad
    else
      let least := ((imageOf s).map (·.minPeriod)).getD 0
      if a == 0x00040024 && e.2.toNat < least then
        raise (regWriteHere s .core a (toWord least)).1 0xD 0 Code.configAdjusted 1
      else (regWriteHere s .core a (entryWord d e.2)).1

/-- The entries of SVC's own blocks, in order, and those of other dies kept for later. [DESIGN CHOICE: log 39] -/
def applyConfig (s : State) : State :=
  let es := match cfgNow s with
    | some c => c.entries
    | none => []
  let s1 := (es.filter fun e => decide (e.1.toNat < 0x00100000)).foldl applyEntry s
  modImg s1 fun g => { g with dieEntries := es.filter fun e => decide (0x00100000 ≤ e.1.toNat) }

/-- The entries of one die, and those of the owner's runtime entries that firmware writes again after an EYE recovery (Table 2.18). -/
def applyDieEntries (s : State) (d : Die) : State :=
  (s.img.dieEntries.filter fun e => addrDie e.1.toNat == some d).foldl applyEntry s

/-- The second group in step 14: an entry of a die that is not READY, or of no die, is skipped and logged. -/
def applyReadyEntries (s : State) : State :=
  s.img.dieEntries.foldl (fun t e =>
    match addrDie e.1.toNat with
    | some d => if (t.die d).state == 4 then applyEntry t e else raise t 0xD 0 Code.cfgEntryBad 1
    | none => raise t 0xD 0 Code.cfgEntryBad 1) s

/-! ### Slots (R93, R96) -/

/-- A slot's cause with BOOT_SKIP: a cause found in step 14 before the reset, else SKIPPED. [DESIGN CHOICE: log 39] -/
def slotCause (s : State) (slot state : Nat) (f : SlotFacts) : Nat :=
  let c := slotCheck s state f
  if c != 0 then c
  else if rb s 0x0001000C slot then
    let k := if slot == 0 then s.boot.causeA else s.boot.causeB
    if k == 0 then 0x12 else k
  else 0

/-- Records a slot's cause. -/
def setCause (s : State) (slot cause : Nat) : State :=
  modBoot s fun b => if slot == 0 then { b with causeA := cause } else { b with causeB := cause }

/-- A slot runs: its image is the running image, its tables stand in the banks. -/
def runSlot (s : State) (slot : Nat) (f : SlotFacts) : State :=
  let s1 := modBoot s fun b => { b with
    phase := 9, slot := slot, fwAbi := f.fw.ownAbi, sqiAbi := f.sqi.ownAbi, fwRollback := f.fw.rollback, sqiRollback := f.sqi.rollback }
  modSeq (modImg s1 fun _ => { facts := some f }) fun q => { q with bankA := f.image.launchA, bankB := [], bankF := f.image.launchF.getD [], bank := 0, back := 0 }

/-- Step 8: the slot to run by Table 3.10.  With `late` the first candidate exceeded its time; Table 3.9 has no code for that, so
its cause is left open. [DESIGN CHOICE: log 39] -/
def chooseSlot (s : State) (a b : SlotFacts) (late : Bool) : State :=
  match descNow s with
  | none => dormantNow s 3
  | some d =>
    if s.boot.strap == 3 then dormantNow s 2 else
    let facts (n : Nat) : SlotFacts := if n == 0 then a else b
    let first := if s.boot.strap == 1 then 1 - d.preferred % 2 else d.preferred % 2
    let other := 1 - first
    let staged := descState d first == 1
    let s0 := modFlash s fun x => { x with slotA := some a, slotB := some b }
    let used := staged && decide (3 ≤ d.attempts)
    let s1 := if used then writeDesc s0 fun x => { descSet x first 3 with preferred := other }
              else if staged then writeDesc s0 fun x => { x with attempts := x.attempts + 1 } else s0
    let c1 := if used then 0x11 else slotCause s1 first (descState d first) (facts first)
    if c1 == 0 && !late then runSlot (setCause s1 first 0) first (facts first)
    else
      let f := fresh s1
      let s2 := if late && !used then setCause f.2 first (f.1 % 256) else setCause s1 first c1
      let c2 := slotCause s2 other (descState d other) (facts other)
      let s3 := setCause s2 other c2
      if c2 == 0 then raise (runSlot s3 other (facts other)) 0xD 0 Code.bootFallback 1 (args4 [s3.boot.causeA, s3.boot.causeB])
      else dormantNow s3 1

/-! ### Loading a die (R221, R220, R305, R346) -/

/-- The segment table of a die from an image: base, length with VALID, and UPD for the head segments of Harvest, CRC. -/
def loadSegments (s : State) (cd : Nat) (m : SqiMeta) : State :=
  let upd (i : Nat) : Bool := match m.harvest with
    | some b => b.dieCode == (Die.ofCd cd).code && (b.headA == i || b.headB == i)
    | none => false
  let s1 := rclear (modComp s cd fun c => { c with fChecked := [] }) (fabReg cd 0x400) (fabReg cd 0x800)
  ((m.segs.filter fun g => g.cd == cd).zipIdx).foldl (fun t x =>
    if 64 ≤ x.2 then t
    else rput (rput (rput t (fabReg cd (0x400 + 16 * x.2)) (toWord x.1.base))
      (fabReg cd (0x404 + 16 * x.2)) (toWord (x.1.len % 2 ^ 28 + 2 ^ 30 * b2n (upd x.2) + 2 ^ 31)))
      (fabReg cd (0x408 + 16 * x.2)) x.1.crc) s1

/-- The detect unit stays off when no descriptor of the active placement names it (R302). -/
def detFollow (s : State) (cd : Nat) : State :=
  let named := (placement s cd).any fun g => groupOn g cd && nbit g.flags 3
  modDet s cd fun x => { x with state := if !named then .off else if x.state == .off then .idle else x.state }

/-- The placement that a compute die runs. -/
def placeDie (s : State) (cd bank : Nat) : State :=
  let gs := placementOf s bank
  detFollow (modComp s cd fun c => { c with bank := bank, groups := min 255 (gs.filter fun g => groupOn g cd).length }) cd

/-- Firmware sets up a compute die whose weights are loaded: segment table, WPROT and EN, MASTER_EN where its placements read
remotely, monitoring slots, placement (R220, R231, R346). -/
def setupCd (s : State) (cd : Nat) : State :=
  match imageOf s with
  | none => s
  | some m =>
    let s1 := loadSegments s cd m
    let s2 := rput s1 (fabReg cd 0x100) (toWord (rnat s1 (fabReg cd 0x100) / 4 * 4 + 3))
    let s3 := if m.usesRemote.any fun p => p.1 == cd then fabCtrl s2 cd (rget s2 (fabReg cd 0) ||| 1) else s2
    let s4 := (m.qmon.filter fun q => q.1 == cd && decide (q.2.1 < 64)).foldl (fun t q => rshadow t (fabReg cd (0x1000 + 32 * q.2.1)) q.2.2) s3
    placeDie s4 cd s4.seqr.bank

/-- The entries of one row of the OTP defect map; none when its CRC-8 fails (Table 4.14, R110). [DESIGN CHOICE: log 39] -/
def defectRow (w : BitVec 64) : Option (List (BitVec 28)) :=
  let x := w.toNat
  if x == 0 then some [0, 0]
  else if crc8 (leBytes 7 x) == bits x 63 56 then some [BitVec.ofNat 28 (bits x 27 0), BitVec.ofNat 28 (bits x 55 28)]
  else none

/-- Firmware sets up the EYE: the entries of the OTP defect map, then the table is loaded; a row whose CRC-8 fails is ignored and
logged under a code that the spec does not name (R245, R254, Table 4.14). -/
def setupEye (s : State) : State :=
  let rows := (List.range 224).map fun i => defectRow (mrow s (0x040 + i))
  let s1 := (rows.filter (· == none)).foldl (fun t _ => let f := fresh t; logOnly f.2 .svc 0xC 0 (f.1 % 65536) 1) s
  loadDefects (modEye s1 fun y => { y with otpDefects := rows.flatMap fun r => r.getD [0, 0] })

/-- A die that has reported READY, as firmware sets it up: its units, then its configuration entries (R89). -/
def setupDie (s : State) (d : Die) : State :=
  match d with
  | .svc => s
  | .eye => applyDieEntries (setupEye s) .eye
  | _ => applyDieEntries (setupCd s (d.cdIdx.getD 0)) d

/-! ### Steps 12 to 14 -/

/-- A link's state after step 12: wiring that has not trained is FAILED, a link of a held die stays NOT_TRAINED (R84, R102). -/
def linkAfter (s : State) (i : Nat) : Nat :=
  match linkEnds s.part i with
  | none => 4
  | some (p, q) =>
    if (held s p.die && p.die != .svc) || (held s q.die && q.die != .svc) then 0
    else let c := derivedLink s i; if c == 0 then 5 else c

/-- Step 12 ends: SITE read, the guard tested, links in their states, routes loaded, LINK_START raised (R81–R85). -/
def linksDone (s : State) (sites : List (Nat × Bool)) (guardOk : Bool) : State :=
  let cds := (fittedCds s).filter fun cd => !held s (Die.ofCd cd)
  let s1 := cds.foldl (fun t cd => let x := sites.getD cd (4, false); readSite t cd x.1 x.2) s
  let s2 := if held s1 .eye then s1 else guardSelftest s1 guardOk
  let s3 := ((fittedDies s2).filter (· != .svc)).foldl (fun t d => modDie t d fun x => { x with state := if x.state == 2 then 6 else x.state }) s2
  let links := Vector.ofFn fun i : Fin 10 => linkAfter s3 i.val
  let s4 := modBoot s3 fun b => { b with links := links }
  let s5 := loadRoutes s4
  if s5.boot.links.toList.any fun c => c == 2 || c == 5 then raise s5 0xF 0 Code.linkStart 1 (args4 [linkSummary s5]) else s5

/-- Step 13: the recogniser is loaded, or the phrase matcher is disabled (R95). -/
def recogDone (s : State) (cause : Nat) (f : Option SlotFacts) : State :=
  match f with
  | some x =>
    if cause == 0 then
      modLst (modBoot s fun b => { b with recEnabled := true, recCause := 0, recAbi := x.recog.ownAbi }) fun l => { l with phrases := x.phrases.take 4 }
    else raise (modBoot s fun b => { b with recEnabled := false, recCause := cause }) 7 0 Code.recogniserDisabled 1 (args4 [cause])
  | none => raise (modBoot s fun b => { b with recEnabled := false, recCause := cause }) 7 0 Code.recogniserDisabled 1 (args4 [cause])

/-- A placement of the image reads across a port whose agreement has no remote reads (check 0x13, R193). -/
def linkCapsBad (s : State) : Bool :=
  match imageOf s with
  | none => false
  | some m => m.usesRemote.any fun x =>
    let e := s.port ⟨Die.ofCd x.1, x.2⟩
    cdOk s x.1 && decide (x.2 < 4) && e.pstate == .up && !e.ag.readsOut

/-- A check of step 14 fails: the slot's BOOT_SKIP bit is set and firmware commands a warm reset (R93). -/
def slotFails (s : State) (cause : Nat) : State :=
  if 1 < s.boot.slot then s
  else warmNow (rput (setCause s s.boot.slot cause) 0x0001000C (rget s 0x0001000C ||| toWord (2 ^ s.boot.slot))) 8

/-- Step 14 ends: every die that has trained is READY and set up, and Harvest is restored (R78, R221, R447). -/
def weightsDone (s : State) : State :=
  let s1 := ((fittedDies s).filter fun d => d != .svc && (s.die d).state == 3).foldl (fun t d => modDie t d fun x => { x with state := 4 }) s
  let s2 := (fittedCds s1).foldl (fun t cd => if (t.die (Die.ofCd cd)).state == 4 then setupCd t cd else t) s1
  let s3 := if (s2.die .eye).state == 4 then setupEye s2 else s2
  hvRestore (applyReadyEntries s3)

/-- Marks a step of 12 to 15 done; when all are, step 16 awaits arming.  After WINTER a timebase still LOCKED arms once step 14 ends (R646). -/
def stepDone (s : State) (n : Nat) : State :=
  let done := n :: s.boot.stepsDone.filter (· != n)
  let ready := done.contains 12 && done.contains 13 && done.contains 14 &&
    (done.contains 15 || (s.boot.firstDone && s.tb.state == .locked))
  if ready then modSeq (modBoot s fun b => { b with phase := 16, stepsDone := done }) fun q => { q with released := true }
  else modBoot s fun b => { b with stepsDone := done, phase := (([12, 13, 14, 15].find? fun k => !done.contains k)).getD 15 }

end Sys2Proof.Machine
end

