-- ==== Sys2Proof/Machine/BcpOps.lean ====
section
/-! DEFINITION. BCP: datagrams, tags, sessions, rates, responses, and the election with its notices (R456–R471). -/
namespace Sys2Proof.Machine

/-! ### Levels and tags (R457, R458) -/

/-- The level that a message's flags name: 0 NONE, 1 STORE, 2 SERVICE (Table 15.5). -/
def levelOf (m : BcpEnv) : Nat := if !m.auth then 0 else if m.skey then 2 else 1

/-- The key of a level. -/
def keyAt (s : State) (level : Nat) : Option (BitVec 256) :=
  match level with
  | 1 => s.bcp.storeKey
  | 2 => s.bcp.serviceKey
  | _ => none

/-- The header of Table 15.4. -/
def bcpHeader (version typ flags len : Nat) (seq sender : Word) : List Byte :=
  ascii "BC" ++ leBytes 1 version ++ leBytes 1 typ ++ leBytes 1 flags ++ [0] ++ leBytes 2 len ++ leBytes 4 seq.toNat ++ leBytes 4 sender.toNat

/-- The flags of a level: AUTH and SKEY. -/
def levelFlags (level : Nat) : Nat := (if level == 0 then 0 else 2) + (if level == 2 then 4 else 0)

/-- A nonce as the byte string that is tagged. -/
def nonceBytes (n : BitVec 128) : List Byte := beBytes 16 n.toNat

/-- The tag of R458. [PRESUMED: log 7] -/
def bcpTag (key : BitVec 256) (nonce : BitVec 128) (header payload : List Byte) : BitVec 128 :=
  hmac128 (keyBytes key) (nonceBytes nonce ++ header ++ payload)

/-- A request as the device answers it: whose it is, the nonce and key that tag the answer, and whether it is one of a session. -/
structure Ask where
  m : BcpEnv
  typ : Nat
  host : DWord
  nonce : BitVec 128
  key : Option (BitVec 256)
  live : Bool
deriving DecidableEq, Repr

/-- The session that a SENDER names. -/
def sessionOf (s : State) (sender : Word) : Option Session := s.bcp.sessions.find? fun x => x.host.setWidth 32 == sender

/-- The session of a host. -/
def sessionOfHost (s : State) (host : DWord) : Option Session := s.bcp.sessions.find? fun x => x.host == host

/-- A request of a host at its session, with the keys now held. -/
def askOf (s : State) (m : BcpEnv) (typ : Nat) (host : DWord) : Ask :=
  { m := m, typ := typ, host := host, nonce := ((sessionOfHost s host).map (·.nonce)).getD 0, key := keyAt s (levelOf m), live := true }

/-- Is a message accepted at its level, with a tag that checks?  A payload that does not match its type's layout is not given, so
whether its tag checks is left open. [DESIGN CHOICE: log 87] -/
def authOk (s : State) (m : BcpEnv) (typ : Nat) (payload : List Byte) (nonce : BitVec 128) : Bool × State :=
  match levelOf m, keyAt s (levelOf m) with
  | 0, _ => (!m.skey && s.bcp.storeKey.isNone, s)
  | l, some k =>
    if m.lenOk then (bcpTag k nonce (bcpHeader m.version typ (levelFlags l) payload.length m.seq m.sender) payload == m.tag, s)
    else let f := fresh s; (nbit f.1 0, f.2)
  | _, none => (false, s)

/-! ### Responses (R456, R460, R462) -/

/-- A datagram of the device: header, payload, tag. -/
def bcpDatagram (s : State) (typ flags : Nat) (seq : Word) (key : Option (BitVec 256)) (nonce : BitVec 128) (payload : List Byte) : List Byte :=
  let h := bcpHeader 1 typ flags payload.length seq ((ownMac s).setWidth 32)
  h ++ payload ++ (match key with
    | some k => beBytes 16 (bcpTag k nonce h payload).toNat
    | none => [])

/-- A datagram leaves for an address and port, if a PHY has link. -/
def bcpEmit (s : State) (ip : Word) (port : Nat) (bytes : List Byte) : State := if linked s then emit s (.udp 48720 ip port bytes) else s

/-- Changes a host's session. -/
def modSession (s : State) (host : DWord) (f : Session → Session) : State :=
  modBcp s fun b => { b with sessions := b.sessions.map fun x => if x.host == host then f x else x }

/-- BUSY and IN_PROGRESS are not kept (R460). [DESIGN CHOICE: log 88] -/
def keptStatus (status : Nat) : Bool := status != 0x06 && status != 0x15

/-- Keeps a response of an accepted request. [DESIGN CHOICE: log 88] -/
def keepAnswer (s : State) (a : Ask) (bytes : List Byte) : State :=
  modSession s a.host fun x => { x with kept := x.kept.map fun e => if e.1 == a.m.seq then (e.1, bytes) else e }

/-- Answers a request. -/
def reply (s : State) (a : Ask) (status : Nat) (body : List Byte) : State :=
  let d := bcpDatagram s (a.typ + 0x80) (1 + levelFlags (levelOf a.m)) a.m.seq a.key a.nonce (leBytes 2 status ++ body)
  bcpEmit (if a.live && keptStatus status then keepAnswer s a d else s) a.m.ip a.m.port d

/-- Coding of OWNER_STATUS.STATE. -/
def electionNum : Election → Nat
  | .openSt => 0 | .contest => 1 | .owned => 2 | .succession => 3

/-- The CLAIM and OWNER_QUERY body (Table 15.7). -/
def electionBody (s : State) : List Byte :=
  leBytes 1 (electionNum s.bcp.election) ++ leBytes 1 ((s.bcp.owner.map (·.level)).getD 0) ++
  leBytes 8 ((s.bcp.owner.map (·.host.toNat)).getD 0) ++ leBytes 1 ((s.bcp.owner.map (·.priority)).getD 0) ++ [0, 0, 0] ++ leBytes 4 (leaseLeft s)

/-- A failing response before anything was done: the type's own layout where R462 keeps it, else DETAIL 0. [DESIGN CHOICE: log 88] -/
def refuse (s : State) (a : Ask) (status : Nat) : State :=
  reply s a status (if a.typ == 0x10 then electionBody s else if a.typ == 0x03 then leBytes 6 0 else leBytes 2 0)

/-! ### Drops (R457, R458, R461, Table 15.15) -/

/-- AUTH_FLOOD, at most once per 10 s. -/
def floodLog (s : State) : State :=
  match s.bcp.lastFlood with
  | some t => if s.now < t + secNs 10 then s else raise (modBcp s fun b => { b with lastFlood := some s.now }) 6 0 Code.authFlood 1
  | none => raise (modBcp s fun b => { b with lastFlood := some s.now }) 6 0 Code.authFlood 1

/-- Drops a message whose tag fails. -/
def dropAuth (s : State) : State := floodLog (modBcp s fun b => { b with authFail := b.authFail + 1 })

/-- Drops a request beyond the rates. -/
def dropRate (s : State) : State := floodLog (modBcp s fun b => { b with rateDrops := satAdd 65535 b.rateDrops 1 })

/-- Drops a malformed datagram. -/
def dropMalformed (s : State) : State := modBcp s fun b => { b with malformed := satAdd 65535 b.malformed 1 }

/-- Counts a request among those of this second; false when the device already carries out 2000. [DESIGN CHOICE: log 88] -/
def rateAll (s : State) : Bool × State :=
  let t := s.now / secNs 1
  let n := if s.bcp.second == t then s.bcp.inSecond else 0
  (decide (n < 2000), if n < 2000 then modBcp s fun b => { b with second := t, inSecond := n + 1 } else s)

/-- Counts a session's request; false when the session already has 500. [DESIGN CHOICE: log 88] -/
def rateSession (s : State) (x : Session) : Bool × State :=
  let t := s.now / secNs 1
  let n := if x.second == t then x.inSecond else 0
  (decide (n < 500), if n < 500 then modSession s x.host fun y => { y with second := t, inSecond := n + 1 } else s)

/-! ### The owner (R465, R468–R471) -/

/-- Is a host the owner? -/
def isOwner (s : State) (host : DWord) : Bool := s.bcp.election == .owned && (s.bcp.owner.map (·.host)) == some host

/-- Each request carried out for the owner sets its lease to end 10 s later (R470). -/
def renewLease (s : State) (host : DWord) : State :=
  if isOwner s host then modBcp s fun b => { b with leaseEnd := s.now + secNs 10 } else s

/-- One OWNER_CHANGE notice to a host that holds a session (R471).  The SEQ of a notice is left open. [DESIGN CHOICE: log 88] -/
def notice (s : State) (cause : Nat) (new : Option Owner) (prev : DWord) (host : DWord) : State :=
  match sessionOfHost s host with
  | none => s
  | some x =>
    let f := fresh s
    let body := leBytes 1 cause ++ leBytes 1 ((new.map (·.level)).getD 0) ++ leBytes 1 ((new.map (·.priority)).getD 0) ++ [0] ++
      leBytes 8 ((new.map (·.host.toNat)).getD 0) ++ leBytes 8 prev.toNat ++ leBytes 4 s.seqr.epoch.toNat
    bcpEmit f.2 x.ip x.port (bcpDatagram f.2 0x14 (8 + levelFlags x.level) (toWord f.1) (keyAt s x.level) x.nonce body)

/-- Staging ends with its owner (Table 15.14). -/
def abandonStage (s : State) : State :=
  if s.stage.status == 1 || s.stage.status == 2 then raise (modStage s fun _ => {}) 6 0 Code.stageAbandoned 1 else s

/-- The owner changes: counted, logged, notified; a staging of the owner before is abandoned (R471, R484). -/
def ownerChanged (s : State) (prev new : Option Owner) (cause : Nat) : State :=
  let low (o : Option Owner) : Nat := match o with
    | some x => x.host.toNat % 2 ^ 32
    | none => 0
  let s1 := raise (modBcp s fun b => { b with changes := b.changes + 1 }) 6 0 Code.ownerChange 0
    (packArgs [(low prev, 4), (low new, 4), (cause, 1), ((new.map (·.level)).getD 0, 1), ((new.map (·.priority)).getD 0, 1)])
  let hosts := ((prev.toList ++ new.toList).map (·.host)).eraseDups
  let prevHost : DWord := match prev with
    | some x => x.host
    | none => 0
  let s2 := if rb s 0x00060000 0 then hosts.foldl (fun t h => notice t cause new prevHost h) s1 else s1
  abandonStage s2

/-- Nobody owns the part. [DESIGN CHOICE: log 90] -/
def toOpen (s : State) (prev : Option Owner) (cause : Nat) : State :=
  ownerChanged (modBcp s fun b => { b with election := .openSt, owner := none, prev := none, successor := 0, held := [], leaseEnd := 0 }) prev none cause

/-- A claim is granted, and the other held claims are answered OWNER_LIVE. [DESIGN CHOICE: log 90] -/
def grant (s : State) (c : HeldClaim) (prev : Option Owner) (cause : Nat) : State :=
  let others := s.bcp.held.filter fun h => h.host != c.host
  let o : Owner := { host := c.host, level := c.level, priority := c.priority }
  let s1 := modBcp s fun b => { b with election := .owned, owner := some o, prev := none, successor := 0, held := [], leaseEnd := s.now + secNs 10 }
  let s2 := reply s1 (askOf s1 c.m 0x10 c.host) 0 (electionBody s1)
  let s3 := others.foldl (fun t h => refuse t (askOf t h.m 0x10 h.host) 0x08) s2
  ownerChanged s3 prev (some o) cause

/-- Does claim x rank before claim y (R469)? -/
def ranksBefore (x y : HeldClaim) : Bool :=
  if x.level != y.level then decide (y.level < x.level)
  else if x.priority != y.priority then decide (y.priority < x.priority)
  else decide (x.host.toNat < y.host.toNat)

/-- The first of the held claims. [DESIGN CHOICE: log 90] -/
def bestClaim : List HeldClaim → Option HeldClaim
  | [] => none
  | c :: cs => match bestClaim cs with
    | none => some c
    | some d => if ranksBefore d c then some d else some c

/-- A CLAIM that has been accepted (Table 15.10). [DESIGN CHOICE: log 90] -/
def takeClaim (s : State) (a : Ask) (priority : Nat) : State :=
  let c : HeldClaim := { host := a.host, level := levelOf a.m, priority := priority % 256, m := a.m }
  let hold (s : State) : State := modBcp s fun b => { b with held := b.held ++ [c] }
  match s.bcp.election, s.bcp.owner with
  | .owned, some o =>
    if o.host == a.host then
      if o.level != c.level then refuse s a 0x02
      else let s1 := modBcp s fun b => { b with owner := some { o with priority := c.priority } }
           reply s1 a 0 (electionBody s1)
    else if c.level == 2 && o.level < 2 then grant s c (some o) 4
    else refuse s a 0x08
  | e, _ =>
    if s.bcp.held.any fun h => h.host == a.host then refuse s a 0x15
    else if e == .succession && a.host == s.bcp.successor then grant s c s.bcp.prev 6
    else if e == .succession && c.level == 2 && (s.bcp.prev.any fun o => decide (o.level < 2)) then grant s c s.bcp.prev 4
    else if e == .openSt then hold (modBcp s fun b => { b with election := .contest })
    else hold s

/-- The lease ends, or an owner that released is not succeeded: the election is open. [DESIGN CHOICE: log 90] -/
def lapse (s : State) : State := toOpen s s.bcp.owner 3

/-! ### The gate of a request (R457–R461, R465) -/

/-- BCP serves from step 10 on and in DORMANT, with a link on the port, never in a halt or in thermal stop (R98, R486, Table 21.7). -/
def bcpServes (s : State) (m : BcpEnv) : Bool :=
  netOn s && decide (10 ≤ s.boot.phase) && decide (s.boot.phase ≤ 24) && s.power.season != .thermalStop &&
  decide (m.phy < 2) && portUpNet s m.phy && !portHeld s m.phy && rb s 0x00050000 (1 + m.phy)

/-- The eight highest accepted SEQ values, the highest first. -/
def keepEight (k : List (Word × List Byte)) (seq : Word) : List (Word × List Byte) :=
  ((k.filter fun (e : Word × List Byte) => decide (seq < e.1)) ++ [(seq, [])] ++ (k.filter fun (e : Word × List Byte) => decide (e.1 < seq))).take 8

/-- A session hears from its host. [DESIGN CHOICE: log 87] -/
def hearFrom (s : State) (host : DWord) (m : BcpEnv) : State :=
  modSession s host fun x => { x with lastHeard := s.now, ip := m.ip, port := m.port, level := levelOf m }

/-- A request is accepted: counted, its SEQ taken, the owner's lease renewed. -/
def acceptAsk (s : State) (a : Ask) : State :=
  let s1 := modSession s a.host fun x => { x with
    highest := if x.highest < a.m.seq then a.m.seq else x.highest, kept := keepEight x.kept a.m.seq }
  renewLease (modBcp s1 fun b => { b with msgs := b.msgs + 1 }) a.host

/-- An owner-only request from the owner at the level of its claim; SET_KEY takes its level from R466. -/
def ownerGate (s : State) (a : Ask) (f : State → Ask → State) : State :=
  if !isOwner s a.host then refuse s a 0x01
  else if a.typ != 0x30 && (s.bcp.owner.map (·.level)) != some (levelOf a.m) then refuse s a 0x02
  else f s a

/-- A request of a session, by its SEQ and the rates. [DESIGN CHOICE: log 87] -/
def sessionGate (s : State) (x : Session) (a : Ask) (f : State → Ask → State) : State :=
  match x.kept.find? fun e => e.1 == a.m.seq with
  | some (_, b :: bs) => bcpEmit s a.m.ip a.m.port (b :: bs)
  | k =>
    if k.isNone && decide (a.m.seq ≤ x.highest) then refuse s a 0x0A
    else
      let r1 := rateAll s
      let r2 := rateSession r1.2 x
      if !r1.1 || !r2.1 then dropRate s else f (acceptAsk r2.2 a) a

/-- A request as it arrives, up to what its type does. [DESIGN CHOICE: log 87] -/
def onBcp (s : State) (m : BcpEnv) (typ : Nat) (payload : List Byte) (ownerOnly : Bool) (f : State → Ask → State) : Res :=
  .next (
    if !bcpServes s m then s
    else if !m.headerOk then dropMalformed s
    else
      let ses := sessionOf s m.sender
      let nonce : BitVec 128 := match ses with
        | some x => x.nonce
        | none => 0
      let ok := authOk s m typ payload nonce
      let host : DWord := match ses with
        | some x => x.host
        | none => 0
      let a : Ask := { m := m, typ := typ, host := host, nonce := nonce, key := keyAt s (levelOf m), live := false }
      if !ok.1 then dropAuth ok.2
      else if m.version != 1 then reply ok.2 a 0x07 (leBytes 2 1)
      else if !m.lenOk then reply ok.2 a 0x07 (leBytes 2 3)
      else match ses with
        | none => refuse ok.2 a 0x09
        | some x =>
          let s1 := hearFrom ok.2 x.host m
          sessionGate s1 x { a with live := true } (if ownerOnly then fun s a => ownerGate s a f else f))

end Sys2Proof.Machine
end

