-- ==== Sys2Proof/Machine/DieAccess.lean ====
section
/-! DEFINITION. How an access path reaches a word: SVC's own registers and SRAM at once, a die's registers over REG_REQ, a die's
memory over VC5 (R173, R203, R690, Table 7.1). -/
namespace Sys2Proof.Machine

/-- Where an access stands: ended with a word, or waiting for the die's response under a tag. -/
inductive Reach where
  | done (st : AccStatus) (v : Word) (s : State)
  | waits (tag : Nat) (s : State)
deriving DecidableEq, Repr

/-- Is an access path there at all?  JTAG is open only before FIELD, and DEBUG_DISABLE closes it; the I²C target is closed by
TGT_EN and by NO_I2C_TARGET (R584, Table 0.4). -/
def pathThere (s : State) : Path → Bool
  | .core | .bcp => true
  | .i2c => rb s 0x000C0000 7 && !noI2cTarget s
  | .jtag => !inField s && !s.otp.debugEffective

/-- May a path reach memory other than the results window: the core always, the others before FIELD only (Table 7.1)? [DESIGN CHOICE: log 11] -/
def memPathOk (s : State) (path : Path) : Bool := path == .core || (!inField s && !s.otp.debugEffective)

/-- Sends a die access and waits for its response: over REG_REQ, or for OP 3 as a READ on VC5 (R173, Table 7.1). [DESIGN CHOICE: log 10] -/
def startAccess (s : State) (d : Die) (path : Path) (a : Nat) (op : Nat) (v : Word) : Reach :=
  let tag := s.accessTag
  let s1 := { s with accessTag := (tag + 1) % 65536, accesses := s.accesses ++ [{ tag := tag, die := d, path := path, addr := toWord a, op := op, v := v }] }
  if op == 3 then
    .waits tag (sendParcel s1 .svc { src := 0, dst := d.code, vc := 5, cls := 5, kind := 1, tag := tag % 256,
                                     payload := leBytes 4 (a / 64 * 64) ++ [1, 0, 0, 0] })
  else
    .waits tag (sendMsg s1 .svc d 8 (leBytes 4 a ++ leBytes 1 op ++ leBytes 1 path.idx ++ leBytes 2 tag ++ leBytes 4 v.toNat ++ leBytes 4 0))

/-- A read that a die answers, if it is open to SVC (R690). -/
def viaDie (s : State) (d : Die) (path : Path) (a op : Nat) : Reach :=
  if dieOpen s d then startAccess s d path a op 0 else .done .state 0 s

/-- A write to a die's memory over VC5, posted. [DESIGN CHOICE: log 11] -/
def viaVc5 (s : State) (d : Die) (path : Path) (a : Nat) (v : Word) : Reach :=
  if !memPathOk s path then .done .path 0 s
  else if dieOpen s d then .done .ok 0 (sendMaint s d 1 a (leBytes 4 v.toNat))
  else .done .state 0 s

/-- A read of the word at an address on a path. -/
def reachRead (s : State) (path : Path) (a : Nat) : Reach :=
  match windowOf s a 4 with
  | .svc => if a % 4 != 0 then .done .badAddr 0 s else if memPathOk s path then .done .ok (toWord (leNat (svcBytes s a 4))) s else .done .path 0 s
  | .sram cd _ => if a % 4 != 0 then .done .badAddr 0 s else if memPathOk s path then viaDie s (Die.ofCd cd) path a 3 else .done .path 0 s
  | .frame => if a % 4 != 0 then .done .badAddr 0 s else if memPathOk s path then viaDie s .eye path a 3 else .done .path 0 s
  | .ledger cd => if a % 4 != 0 then .done .badAddr 0 s else if memPathOk s path then viaDie s (Die.ofCd cd) path a 0 else .done .path 0 s
  | .stats => if a % 4 != 0 then .done .badAddr 0 s else viaDie s .eye path a 0
  | .none =>
    match regAt s.part a, addrDie a with
    | some (d, _), some x =>
      if x == .svc || d.pair == .hi || d.pair == .rwHi then
        match regRead s path a with
        | some (v, s1) => .done .ok v s1
        | none => .done .badAddr 0 s
      else viaDie s x path a (if d.pair == .lo then 2 else 0)
    | _, _ =>
      match regRead s path a with
      | some (v, s1) => .done .ok v s1
      | none => .done .badAddr 0 s

/-- A write of the word at an address on a path; the results window and the ledger views are read only. -/
def reachWrite (s : State) (path : Path) (a : Nat) (v : Word) : Reach :=
  match windowOf s a 4 with
  | .svc => if a % 4 != 0 then .done .badAddr 0 s else if memPathOk s path then .done .ok 0 (memPut s a (leBytes 4 v.toNat)) else .done .path 0 s
  | .sram cd _ => if a % 4 != 0 then .done .badAddr 0 s else viaVc5 s (Die.ofCd cd) path a v
  | .frame => if a % 4 != 0 then .done .badAddr 0 s else viaVc5 s .eye path a v
  | .ledger _ | .stats => .done .refused 0 s
  | .none =>
    match regAt s.part a, addrDie a with
    | some _, some x =>
      if x == .svc then let r := regWrite s path a v; .done r.2 0 r.1
      else if dieOpen s x then startAccess s x path a 1 v
      else .done .state 0 s
    | _, _ => .done .badAddr 0 s

/-! ### A die serves a request (R173, Table 6.16) -/

/-- The path of a REG_REQ. -/
def pathOf : Nat → Path
  | 0 => .core | 1 => .bcp | 2 => .i2c | _ => .jtag

/-- The status of a REG_RESP for the end of an access. -/
def respStatus : AccStatus → Nat
  | .ok => 0 | .badAddr => 1 | .path => 3 | _ => 2

/-- What a die answers to a request: status, word and HI word, with the state after it. -/
def serveReg (s : State) (d : Die) (path : Path) (a op : Nat) (v : Word) : Nat × Word × Word × State :=
  let view : Bool := match windowOf s a 4 with
    | .ledger cd => d == Die.ofCd cd && a % 4 == 0
    | .stats => d == .eye && a % 4 == 0
    | _ => false
  if view then (if op == 1 then (2, 0, 0, s) else (0, toWord (leNat (windowBytes s a 4)), 0, s))
  else if addrDie a != some d then (1, 0, 0, s)
  else match regAt s.part a with
    | none => (1, 0, 0, s)
    | some (x, _) =>
      if op == 1 then let r := regWriteHere s path a v; (respStatus r.2, 0, 0, r.1)
      else if op == 2 then
        if x.pair == .lo then let p := pairValue s path a; (0, toWord p, toWord (p / 2 ^ 32), s) else (1, 0, 0, s)
      else (0, shownWord s path x a 0, 0, s)

/-- A die takes a REG_REQ and answers it. -/
def takeRegReq (s : State) (d : Die) (x : Parcel) : State :=
  let a := leAt x.payload 0 4
  let tag := leAt x.payload 6 2
  let r := serveReg s d (pathOf (leAt x.payload 5 1)) a (leAt x.payload 4 1) (toWord (leAt x.payload 8 4))
  sendMsg r.2.2.2 d .svc 9 (leBytes 4 a ++ leBytes 1 r.1 ++ leBytes 1 0 ++ leBytes 2 tag ++ leBytes 4 r.2.1.toNat ++ leBytes 4 r.2.2.1.toNat)

/-! ### The response -/

/-- The end of an access by the status of its REG_RESP. -/
def statusOf : Nat → AccStatus
  | 0 => .ok | 1 => .badAddr | 2 => .refused | _ => .path

/-- The access under way that a response answers, and the state without it. [DESIGN CHOICE: log 10] -/
def takeAccess (s : State) (p : DieAccess → Bool) : Option (DieAccess × State) :=
  match s.accesses.find? p with
  | some x => some (x, { s with accesses := s.accesses.filter fun y => !(y.tag == x.tag && y.die == x.die) })
  | none => none

end Sys2Proof.Machine
end

