-- ==== Sys2Proof/Machine/Bcp.lean ====
section
/-! DEFINITION. BCP sessions, register messages and ownership (R459, R464, R465, R468–R472). -/
namespace Sys2Proof.Machine

/-! ### Runtime entries (R472) and refusals of the BCP path (R482) -/

/-- Records an owner write as a runtime entry: the register's value after it, with the RW fields alone. -/
def noteRuntime (s : State) (a : Nat) (v : Word) : State :=
  match regAt s.part a with
  | none => s
  | some (d, _) =>
    if !d.fields.any (fun f => f.acc == .rw) then s
    else
      let e : Word × Word := (toWord a, entryWord d (if d.pair == .rwLo then v else rnext s a))
      if s.bcp.runtime.any fun x => x.1 == e.1 then modBcp s fun b => { b with runtime := b.runtime.map fun x => if x.1 == e.1 then e else x }
      else if s.bcp.runtime.length < 2046 then modBcp s fun b => { b with runtime := b.runtime ++ [e] }
      else modBcp s fun b => { b with configFull := true }

/-- A write that would disable the port its request came by, or the internal port's VLAN membership there (R482). -/
def cutsOff (s : State) (m : BcpEnv) (a : Nat) (v : Word) : Bool :=
  if a == 0x00050000 then !wbit v (1 + m.phy)
  else if a == 0x00050028 + 4 * m.phy then wbits v 11 0 != rf s 0x00050030 11 0
  else a == 0x00050030 && wbits v 11 0 != rf s (0x00050028 + 4 * m.phy) 11 0

/-! ### READ, WRITE, READ64 (R464) -/

/-- The status of an access's end (Table 15.8). -/
def statusNum : AccStatus → Nat
  | .ok => 0 | .refused => 4 | .badAddr => 3 | .state => 0xC | .busy => 6 | .path => 5 | .policy => 0xB

/-- What reaching a word gave: words read, a failure, or a wait for a die. -/
inductive BcpReach where
  | words (vs : List Word) (s : State)
  | fail (st : AccStatus) (s : State)
  | waits (tag : Nat) (s : State)
deriving DecidableEq, Repr

/-- A pair by READ64: SVC's own at once, a die's by one LO read (R9, R173). -/
def reach64 (s : State) (a : Nat) : BcpReach :=
  match regAt s.part a, addrDie a with
  | some (d, _), some x =>
    if d.pair != .lo && d.pair != .rwLo then .fail .badAddr s
    else if x == .svc then match regRead64 s .bcp a with
      | some (lo, hi, s1) => .words [lo, hi] s1
      | none => .fail .badAddr s
    else if dieOpen s x then match startAccess s x .bcp a 2 0 with
      | .waits t s1 => .waits t s1
      | .done st _ s1 => .fail st s1
    else .fail .state s
  | _, _ => .fail .badAddr s

/-- The address of the word in hand. -/
def BcpAccess.addr (x : BcpAccess) : Nat :=
  if x.typ == 0x03 then x.start.toNat + 4 * (x.count - x.left.length) else x.start.toNat + 4 * x.got.length

/-- What reaching one word gave. -/
def BcpReach.of : Reach → BcpReach
  | .done .ok v s => .words [v] s
  | .done st _ s => .fail st s
  | .waits t s => .waits t s

/-- Reaches the word in hand. -/
def reachWord (s : State) (x : BcpAccess) : BcpReach :=
  if x.typ == 0x04 then reach64 s x.addr
  else
    .of (if x.typ == 0x03 then
        (if cutsOff s x.m x.addr (x.left.headD 0) then .done .refused 0 s else reachWrite s .bcp x.addr (x.left.headD 0))
      else reachRead s .bcp x.addr)

/-- The word in hand is done. -/
def BcpAccess.next (x : BcpAccess) (vs : List Word) : BcpAccess :=
  if x.typ == 0x03 then { x with left := x.left.drop 1 } else { x with got := x.got ++ vs }

/-- Is every word done? -/
def BcpAccess.done (x : BcpAccess) : Bool :=
  if x.typ == 0x03 then x.left.isEmpty else decide ((if x.typ == 0x04 then 2 * x.count else x.count) ≤ x.got.length)

/-- A lease that ended during the owner's WRITE ends after it (Table 15.14). -/
def lapseAfter (s : State) (x : BcpAccess) : State :=
  if x.typ == 0x03 && isOwner s x.host && decide (s.bcp.leaseEnd ≤ s.now) then lapse s else s

/-- The response of a register message: what was done stands. [DESIGN CHOICE: log 89] -/
def bcpFinish (s : State) (x : BcpAccess) (status : Nat) : State :=
  let body :=
    if x.typ == 0x03 then leBytes 2 (x.count - x.left.length) ++ leBytes 4 (if status == 0 then 0 else x.addr)
    else leBytes 2 (if x.typ == 0x04 then x.got.length / 2 else x.got.length) ++ x.got.flatMap fun w => leBytes 4 w.toNat
  let s1 := modBcp s fun b => { b with access := none }
  lapseAfter (reply s1 (askOf s1 x.m x.typ x.host) status body) x

/-- Goes through the words; a write that resets the part ends its session and is not answered. [DESIGN CHOICE: log 89] -/
def bcpGo : Nat → State → BcpAccess → State
  | 0, s, x => bcpFinish s x 0
  | n + 1, s, x =>
    if x.done then bcpFinish s x 0
    else match reachWord s x with
      | .words vs s1 =>
        if (sessionOfHost s1 x.host).isNone then s1
        else bcpGo n (if x.typ == 0x03 then noteRuntime s1 x.addr (x.left.headD 0) else s1) (x.next vs)
      | .fail st s1 => bcpFinish s1 x (statusNum st)
      | .waits t s1 => modBcp s1 fun b => { b with access := some { x with tag := t } }

/-- A register message; while another waits for a die it finds BCP busy. -/
def bcpStart (s : State) (a : Ask) (start : Word) (count : Nat) (words : List Word) : State :=
  if s.bcp.access.isSome then refuse s a 0x06
  else bcpGo 257 s { m := a.m, host := a.host, typ := a.typ, start := start, count := count, got := [], left := words, tag := 0 }

/-- The die answers the access that BCP waits for. -/
def bcpResume (s : State) (x : BcpAccess) (st : AccStatus) (lo hi : Word) : State :=
  if st != .ok then bcpFinish s x (statusNum st)
  else
    let s1 := if x.typ == 0x03 then noteRuntime s x.addr (x.left.headD 0) else s
    bcpGo 257 (modBcp s1 fun b => { b with access := none }) (x.next (if x.typ == 0x04 then [lo, hi] else [lo]))

/-- A COUNT outside its range does not match the layout of its type: BAD_MSG, detail 3. [DESIGN CHOICE: log 89] -/
def countGate (s : State) (a : Ask) (ok : Bool) (f : State) : State := if ok then f else reply s a 0x07 (leBytes 2 3)

/-- READ. -/
def execRead (m : BcpEnv) (addr : Word) (count : Nat) (s : State) : Res :=
  onBcp s m 0x02 (leBytes 4 addr.toNat ++ leBytes 2 count ++ [0, 0]) false fun s a =>
    countGate s a (decide (1 ≤ count) && decide (count ≤ 256)) (bcpStart s a addr count [])

/-- WRITE: COUNT is the number of words that the message brings. -/
def execWrite (m : BcpEnv) (addr : Word) (words : List Word) (s : State) : Res :=
  onBcp s m 0x03 (leBytes 4 addr.toNat ++ leBytes 2 words.length ++ [0, 0] ++ words.flatMap fun w => leBytes 4 w.toNat) true fun s a =>
    countGate s a (decide (1 ≤ words.length) && decide (words.length ≤ 256)) (bcpStart s a addr words.length words)

/-- READ64. -/
def execRead64 (m : BcpEnv) (addr : Word) (count : Nat) (s : State) : Res :=
  onBcp s m 0x04 (leBytes 4 addr.toNat ++ leBytes 2 count ++ [0, 0]) false fun s a =>
    countGate s a (decide (1 ≤ count) && decide (count ≤ 16)) (bcpStart s a addr count [])

/-! ### Sessions (R459) -/

/-- The session idle longest that is not the owner's. -/
def idlest (s : State) (xs : List Session) : Option Session :=
  match xs.filter fun x => !isOwner s x.host with
  | [] => none
  | x :: rest => some (rest.foldl (fun a b => if b.lastHeard < a.lastHeard then b else a) x)

/-- The sessions with room for one more. -/
def sessionsFor (s : State) (host : DWord) : List Session :=
  let xs := s.bcp.sessions.filter fun x => x.host != host
  if xs.length < 32 then xs
  else match idlest s xs with
    | some y => xs.filter fun x => x.host != y.host
    | none => xs.drop 1

/-- A session opens with a fresh nonce, and HELLO is answered under 16 zero bytes. -/
def openSession (s : State) (a : Ask) (host : DWord) (hnonce : BitVec 128) : State :=
  let f := fresh s
  let n := BitVec.ofNat 128 f.1
  let x : Session := { host := host, nonce := n, level := levelOf a.m, ip := a.m.ip, port := a.m.port, highest := 0, kept := [],
                       lastHeard := s.now, second := 0, inSecond := 0 }
  let s1 := renewLease (modBcp f.2 fun b => { b with sessions := sessionsFor s host ++ [x], msgs := b.msgs + 1 }) host
  reply s1 a 0 (leBytes 2 0 ++ leBytes 8 (ownMac s).toNat ++ nonceBytes n ++ nonceBytes hnonce ++ leBytes 8 s.tb.ltime.toNat ++
    leBytes 4 s.seqr.epoch.toNat ++ leBytes 4 (chipId s) ++ leBytes 1 (b2n s.bcp.storeKey.isSome + 2 * b2n s.bcp.serviceKey.isSome) ++ [0, 0, 0])

/-- HELLO (R459). -/
def execHello (m : BcpEnv) (host : DWord) (hnonce : BitVec 128) (s : State) : Res :=
  .next (
    if !bcpServes s m then s
    else if !m.headerOk then dropMalformed s
    else
      let ok := authOk s m 0x01 (leBytes 8 host.toNat ++ nonceBytes hnonce) 0
      let a : Ask := { m := m, typ := 0x01, host := host, nonce := 0, key := keyAt s (levelOf m), live := false }
      if !ok.1 then dropAuth ok.2
      else if m.version != 1 then reply ok.2 a 0x07 (leBytes 2 1)
      else if !m.lenOk then reply ok.2 a 0x07 (leBytes 2 3)
      else
        let r := rateAll ok.2
        if !r.1 then dropRate ok.2
        else if s.bcp.sessions.any fun x => x.host != host && x.host.setWidth 32 == host.setWidth 32 then refuse r.2 a 0x16
        else openSession r.2 a host hnonce)

/-- SESSION_TIMEOUT (R459): 600 s without a message. -/
def execSessionTimeout (host : DWord) (s : State) : Res :=
  .next (modBcp s fun b => { b with sessions := b.sessions.filter fun x => x.host != host })

/-! ### Ownership (R468–R471) -/

/-- CLAIM. -/
def execClaim (m : BcpEnv) (priority : Nat) (s : State) : Res :=
  onBcp s m 0x10 (leBytes 1 priority ++ [0, 0, 0]) false fun s a => takeClaim s a priority

/-- HEARTBEAT. -/
def execHeartbeat (m : BcpEnv) (s : State) : Res :=
  onBcp s m 0x11 [] true fun s a => reply s a 0 (leBytes 2 0 ++ leBytes 4 (leaseLeft s) ++ leBytes 4 s.seqr.epoch.toNat)

/-- RELEASE: with a successor other than the releasing host, SUCCESSION. -/
def execRelease (m : BcpEnv) (successor : DWord) (s : State) : Res :=
  onBcp s m 0x12 (leBytes 8 successor.toNat) true fun s a =>
    let s1 := reply s a 0 []
    if successor == 0 || successor == a.host then toOpen s1 s1.bcp.owner 2
    else modBcp s1 fun b => { b with election := .succession, prev := b.owner, owner := none, successor := successor, held := [], leaseEnd := 0 }

/-- OWNER_QUERY. -/
def execOwnerQuery (m : BcpEnv) (s : State) : Res := onBcp s m 0x13 [] false fun s a => reply s a 0 (electionBody s)

/-- CONTEST_END (R469): 250 ms have passed. -/
def execContestEnd (s : State) : Res :=
  .next (if s.bcp.election != .contest then s else match bestClaim s.bcp.held with
    | some c => grant s c none 1
    | none => modBcp s fun b => { b with election := .openSt })

/-- SUCCESSION_END (R468): 2 s have passed. -/
def execSuccessionEnd (s : State) : Res :=
  .next (if s.bcp.election != .succession then s else match bestClaim s.bcp.held with
    | some c => grant s c s.bcp.prev 1
    | none => toOpen s s.bcp.prev 2)

/-- LEASE_EXPIRE (R470): 10 s have passed; a WRITE of the owner in progress is completed first. -/
def execLeaseExpire (s : State) : Res :=
  .next (if s.bcp.election != .owned then s
    else if s.bcp.access.any fun x => x.typ == 0x03 && isOwner s x.host then modBcp s fun b => { b with leaseEnd := s.now }
    else lapse s)

end Sys2Proof.Machine
end

