-- ==== Sys2Proof/Machine/Access.lean ====
section
/-! DEFINITION. Register access as commands: writes, pairs, the I²C target, and a die's answers (R4–R13, R173, R585, R586, R690). -/
namespace Sys2Proof.Machine

/-! ### The I²C target (R584–R586, R689) -/

/-- Is the part in a halt, where the target serves identity, reset/boot and OTP alone (R586)? [DESIGN CHOICE: log 103] -/
def tgtHalted (s : State) : Bool := s.power.halted || lcState s == 5

/-- The address the target answers at: the reset address in a halt (R586). [DESIGN CHOICE: log 103] -/
def tgtAddr (s : State) : Nat := if tgtHalted s then 0x3A else rf s 0x000C0000 6 0

/-- A word written through the target; in a halt none is. -/
def tgtWrite (s : State) (a : Nat) (v : Word) : Reach := if tgtHalted s then .done .state 0 s else reachWrite s .i2c a v

/-- A word read through the target; in a halt other blocks read 0. -/
def tgtRead (s : State) (a : Nat) : Reach := if tgtHalted s && decide (0x00030000 ≤ a) then .done .ok 0 s else reachRead s .i2c a

/-- The transaction ends: with a NACK on the word that was not written, or with the bytes read. -/
def tgtEnd (s : State) (x : I2cServe) (ack : Bool) : State := emit (modBus s fun b => { b with target := none }) (.i2cTarget ack x.got)

/-- The transaction goes through its words; a read that is not served returns 0 (R689). -/
def tgtGo : Nat → State → I2cServe → State
  | 0, s, x => tgtEnd s x true
  | n + 1, s, x =>
    match x.left with
    | w :: ws =>
      match tgtWrite s x.addr.toNat w with
      | .done .ok _ s1 => tgtGo n s1 { x with addr := x.addr + 4, left := ws }
      | .done _ _ s1 => tgtEnd s1 x false
      | .waits t s1 => modBus s1 fun b => { b with target := some { x with tag := t } }
    | [] =>
      if x.reads == 0 then tgtEnd s x true
      else match tgtRead s x.addr.toNat with
        | .done st v s1 => tgtGo n s1 { x with addr := x.addr + 4, reads := x.reads - 1, got := x.got ++ leBytes 4 (if st == .ok then v.toNat else 0) }
        | .waits t s1 => modBus s1 fun b => { b with target := some { x with tag := t } }

/-- How far a transaction may still go. -/
def I2cServe.fuel (x : I2cServe) : Nat := x.left.length + x.reads + 1

/-- A die answers the access that the target stretches the clock for. -/
def tgtResume (s : State) (x : I2cServe) (st : AccStatus) (v : Word) : State :=
  match x.left with
  | _ :: ws =>
    if st == .ok then tgtGo x.fuel s { x with addr := x.addr + 4, left := ws } else tgtEnd s x false
  | [] => tgtGo x.fuel s { x with addr := x.addr + 4, reads := x.reads - 1, got := x.got ++ leBytes 4 (if st == .ok then v.toNat else 0) }

/-- The whole words of the bytes written; a word left incomplete is discarded (R585). -/
def wordsOf (data : List Byte) : List Word := (List.range (data.length / 4)).map fun i => toWord (leAt data (4 * i) 4)

/-- I2C_TARGET_TRANSACTION (R585): another address is not the target's, and one it does not answer at is NACKed. -/
def execI2cTargetTransaction (dev : Nat) (addr : Word) (data : List Byte) (readWords : Nat) (s : State) : Res :=
  .next (
    if s.bus.target.isSome || dev != tgtAddr s then s
    else if noI2cTarget s || (!tgtHalted s && !rb s 0x000C0000 7) then emit s (.i2cTarget false [])
    else
      let x : I2cServe := { addr := addr, left := wordsOf data, reads := readWords, got := [], tag := 0 }
      tgtGo x.fuel s x)

/-! ### Reads and writes on a path -/

/-- Ends an access on its path: the answer, or over BCP the runtime entry of an owner's write. -/
def accessDone (s : State) (path : Path) (a : Nat) (write : Bool) (v : Word) (st : AccStatus) (lo hi : Word) : State :=
  if path == .bcp then (if write && st == .ok then noteRuntime s a v else s) else answer s path a st lo hi

/-- A read or write that its path brings. [DEDUCED: log 9] -/
def pathAccess (s : State) (path : Path) (a : Nat) (write : Bool) (v : Word) : State :=
  if !pathThere s path then answer s path a .path
  else match (if write then reachWrite s path a v else reachRead s path a) with
    | .done st w s1 => accessDone s1 path a write v st w 0
    | .waits _ s1 => s1

/-- REGISTER_WRITE (R4). -/
def execRegisterWrite (path : Path) (addr v : Word) (s : State) : Res := .next (pathAccess s path addr.toNat true v)

/-- PAIR_LO_READ (R6): the LO word, its HI word snapshotted for the path. -/
def execPairLoRead (path : Path) (addr : Word) (s : State) : Res := .next (pathAccess s path addr.toNat false 0)

/-- PAIR_LO_WRITE (R8): the LO word staged for the path. -/
def execPairLoWrite (path : Path) (addr v : Word) (s : State) : Res := .next (pathAccess s path addr.toNat true v)

/-- PAIR_HI_WRITE (R8): both halves at once. -/
def execPairHiWrite (path : Path) (addr v : Word) (s : State) : Res := .next (pathAccess s path addr.toNat true v)

/-! ### A die's side and its answers (R173, R690) -/

/-- REG_REQ (Table 6.16). -/
def execRegReq (r : LinkRx) (s : State) : Res :=
  onMsg s r 8 fun s x => if r.port.die == .svc then s else takeRegReq s r.port.die x

/-- An access ends: BCP or the I²C target goes on where it waits, a LO read leaves its HI word in the path's shadow (R6, R9). [DEDUCED: log 9] -/
def endAccess (s : State) (x : DieAccess) (st : AccStatus) (lo hi : Word) : State :=
  let read64 : Bool := match s.bcp.access with
    | some y => x.path == .bcp && y.tag == x.tag && y.typ == 0x04
    | none => false
  let s1 := if x.op == 2 && st == .ok && !read64 then setHiShadow s x.path x.addr.toNat hi else s
  match x.path, s1.bcp.access, s1.bus.target with
  | .bcp, some y, _ => if y.tag == x.tag then bcpResume s1 y st lo hi else accessDone s1 .bcp x.addr.toNat (x.op == 1) x.v st lo hi
  | .i2c, _, some y => if y.tag == x.tag then tgtResume s1 y st lo else accessDone s1 .i2c x.addr.toNat (x.op == 1) x.v st lo hi
  | p, _, _ => accessDone s1 p x.addr.toNat (x.op == 1) x.v st lo hi

/-- REG_RESP (Table 6.16): an answer to no access under way is dropped. -/
def execRegResp (r : LinkRx) (s : State) : Res :=
  onMsg s r 9 fun s x =>
    if r.port.die != .svc then s
    else match takeAccess s fun y => y.tag == leAt x.payload 6 2 && y.op != 3 && y.die.code == x.src with
      | some (y, s1) => endAccess s1 y (statusOf (leAt x.payload 4 1)) (toWord (leAt x.payload 8 4)) (toWord (leAt x.payload 12 4))
      | none => s

/-- VC5_READ_RESP (Table 7.1): the word lies at its place in the line; an error response is a read refused. -/
def execVc5ReadResp (r : LinkRx) (s : State) : Res :=
  onParcel s r 5 2 fun s x =>
    if r.port.die != .svc then s
    else match takeAccess s fun y => y.tag % 256 == x.tag && y.op == 3 && y.die.code == x.src with
      | some (y, s1) =>
        if x.arg % 2 == 1 || x.payload.isEmpty then endAccess s1 y .badAddr 0 0
        else endAccess s1 y .ok (toWord (leAt x.payload (y.addr.toNat % 64) 4)) 0
      | none => s

/-- REG_ACCESS_TIMEOUT (R690): 40 µs have passed for the oldest access. -/
def execRegAccessTimeout (s : State) : Res :=
  .next (match s.accesses with
    | [] => s
    | x :: rest => raise (endAccess (modAccesses s fun _ => rest) x .busy 0 0) 0xD 0 Code.regRefused 1)

end Sys2Proof.Machine
end

