-- ==== Sys2Proof/Machine/BcpStage.lean ====
section
/-! DEFINITION. Configuration commit, keys, image staging, the switch-over's scheduling, and the trouble-log messages of BCP (R466,
R467, R472–R475, R477–R479, R623–R625). -/
namespace Sys2Proof.Machine

/-! ### The configuration copy and the key store (R467, R472) -/

/-- The keys as a key store holds them. -/
def keysNow (s : State) : KeyStore := { tagOk := true, kgen := s.bcp.kgen, store := s.bcp.storeKey, service := s.bcp.serviceKey }

/-- Writes the copy not in use, GEN raised by 1; it is in use from then on.  Answers its GEN. -/
def writeCfg (s : State) (entries : List (Word × Word)) (ks : KeyStore) : Nat × State :=
  let gen := (((cfgNow s).map (·.gen)).getD 0 + 1) % 2 ^ 32
  let n := 1 - s.boot.cfgCopy
  let c : CfgCopy := { gen := gen, entries := entries, keys := some ks }
  (gen, emit (modBoot (modFlash s fun x => if n == 0 then { x with cfg0 := some c } else { x with cfg1 := some c }) fun b => { b with cfgCopy := n })
    (.flash (.cfg n c)))

/-- The entries of the copy in use. -/
def entriesNow (s : State) : List (Word × Word) := ((cfgNow s).map (·.entries)).getD []

/-- MERGE: present entries in order, each replaced by the runtime entry of its address, then the runtime entries that remain. -/
def mergedEntries (present runtime : List (Word × Word)) : List (Word × Word) :=
  (present.map fun e => (runtime.find? fun r => r.1 == e.1).getD e) ++ runtime.filter fun r => !present.any fun e => e.1 == r.1

/-- Does staging write the flash now?  Flash has one writer at a time (Table 15.14). -/
def flashTaken (s : State) : Bool := s.stage.status == 1 || s.stage.status == 2

/-- Staging, switch-over and CONFIG_COMMIT by season: STATE in WINTER, BUSY in SPRING (Table 15.14, R103). -/
def seasonGate (s : State) (a : Ask) (f : State) : State :=
  match s.power.season with
  | .winter => refuse s a 0x0C
  | .spring => refuse s a 0x06
  | _ => f

/-- CONFIG_COMMIT (R472).  A mode that the spec does not name is refused. [DESIGN CHOICE: log 91] -/
def configCommitNow (s : State) (a : Ask) (mode : Nat) (flashOk : Bool) : State :=
  seasonGate s a (
    if flashTaken s then refuse s a 0x06
    else if 2 < mode then refuse s a 0x04
    else
      let es := if mode == 0 then mergedEntries (entriesNow s) s.bcp.runtime else if mode == 1 then s.bcp.runtime else []
      if 2046 < es.length then refuse s a 0x04
      else if !flashOk then refuse (flashFailed s) a 0x11
      else
        let w := writeCfg s es (keysNow s)
        reply w.2 a 0 (leBytes 2 es.length ++ leBytes 4 w.1))

/-- CONFIG_COMMIT (R472). -/
def execConfigCommit (m : BcpEnv) (mode : Nat) (flashOk : Bool) (s : State) : Res :=
  onBcp s m 0x25 (leBytes 1 mode ++ [0, 0, 0]) true fun s a => configCommitNow s a mode flashOk

/-! ### SET_KEY (R466) -/

/-- The key that a KEY field carries: XORed under the held store key when a key of that slot is held. -/
def unwrapKey (s : State) (a : Ask) (slot : Nat) (key : BitVec 256) : BitVec 256 :=
  let held := if slot == 0 then s.bcp.storeKey else s.bcp.serviceKey
  match held, s.bcp.storeKey with
  | some _, some k => key ^^^ BitVec.ofNat 256 (beNat (hmac (keyBytes k) (nonceBytes a.nonce ++ ascii "BX7720-SETKEY" ++ leBytes 4 a.m.seq.toNat)))
  | _, _ => key

/-- Does R466 allow the operation? -/
def setKeyOk (s : State) (slot op : Nat) : Bool :=
  if slot == 0 then op == 0 && inField s else slot == 1 && decide (op < 2) && s.bcp.storeKey.isSome

/-- Setting the store key ends every session and any ownership; the notice goes out under the old key. -/
def storeKeySet (s : State) (k : BitVec 256) : State :=
  let s1 := if s.bcp.election == .openSt then s else toOpen s (if s.bcp.owner.isSome then s.bcp.owner else s.bcp.prev) 5
  modBcp s1 fun b => { b with storeKey := some k, sessions := [], held := [], election := .openSt }

/-- Setting or clearing the service key ends sessions and ownership at SERVICE level. -/
def serviceKeySet (s : State) (k : Option (BitVec 256)) : State :=
  let owns := s.bcp.election == .owned && s.bcp.owner.any fun o => o.level == 2
  let s1 := if owns then toOpen s s.bcp.owner 5 else s
  modBcp s1 fun b => { b with serviceKey := k, sessions := b.sessions.filter fun x => x.level != 2, held := b.held.filter fun h => h.level != 2 }

/-- SET_KEY: answered under the old key, then the new copy stands and the key with it. [DESIGN CHOICE: log 91] -/
def setKeyNow (s : State) (a : Ask) (slot op : Nat) (key : BitVec 256) (flashOk : Bool) : State :=
  if !setKeyOk s slot op then refuse s a 0x14
  else if flashTaken s then refuse s a 0x06
  else if !flashOk then refuse (flashFailed s) a 0x11
  else
    let k := unwrapKey s a slot key
    let ks : KeyStore := { tagOk := true, kgen := (s.bcp.kgen + 1) % 2 ^ 32, store := if slot == 0 then some k else s.bcp.storeKey,
                           service := if slot == 1 then (if op == 0 then some k else none) else s.bcp.serviceKey }
    let s1 := reply (modBcp (writeCfg s (entriesNow s) ks).2 fun b => { b with kgen := ks.kgen }) a 0 []
    if slot == 0 then storeKeySet s1 k else serviceKeySet s1 ks.service

/-- SET_KEY (R466). -/
def execSetKey (m : BcpEnv) (slot op : Nat) (key : BitVec 256) (flashOk : Bool) (s : State) : Res :=
  onBcp s m 0x30 (leBytes 1 slot ++ leBytes 1 op ++ [0, 0] ++ keyBytes key) true fun s a => setKeyNow s a slot op key flashOk

/-- KEYSTORE_BAD_REPORT (R467): every 10 s. [DESIGN CHOICE: log 92] -/
def execKeystoreBadReport (s : State) : Res := .next (if s.bcp.keystoreBad then raise s 6 0 Code.keystoreBad 2 else s)

/-! ### Image staging (R473, R474) -/

/-- The descriptor of Table 3.4's recommended layout, for a flash that holds none. -/
def descDefault : BootDesc :=
  { gen := 0, flash := 0, slotSizeA := 48 * 2 ^ 20, slotSizeB := 48 * 2 ^ 20, preferred := 0, stateA := 0, stateB := 0, attempts := 0,
    confirmS := 60, hcpSize := 31 * 2 ^ 20 }

/-- Writes a descriptor, the recommended one where the flash holds none. -/
def putDesc (s : State) (f : BootDesc → BootDesc) : State :=
  match descNow s with
  | some _ => writeDesc s f
  | none => writeDesc (modFlash s fun x => if s.boot.descCopy == 0 then { x with desc0 := some descDefault } else { x with desc1 := some descDefault }) f

/-- The size of a slot. -/
def slotSize (s : State) (slot : Nat) : Nat :=
  let d := (descNow s).getD descDefault
  if slot == 0 then d.slotSizeA else d.slotSizeB

/-- What a slot holds, as far as SVC has read it. -/
def slotFacts (s : State) (slot : Nat) : Option SlotFacts := if slot == 0 then s.flash.slotA else s.flash.slotB

/-- Sets what SVC knows of a slot. -/
def setFacts (s : State) (slot : Nat) (f : Option SlotFacts) : State :=
  modFlash s fun x => if slot == 0 then { x with slotA := f } else { x with slotB := f }

/-- Is a switch-over scheduled? -/
def switchDue (s : State) : Bool := (s.sw.state == 1 || s.sw.state == 2) && !s.sw.applied

/-- STAGE_BEGIN (R473).  A size outside its range is refused. [DESIGN CHOICE: log 91] -/
def stageBeginNow (s : State) (a : Ask) (slot size : Nat) (sha : BitVec 256) : State :=
  seasonGate s a (
    if !s.flash.sfdp then refuse s a 0x0C
    else if 1 < slot || slot == s.boot.slot || (switchDue s && s.sw.slot == slot) then refuse s a 0x0D
    else if size < 4096 || slotSize s slot < size then refuse s a 0x04
    else
      let s1 := setFacts (putDesc s fun d => descSet d slot 0) slot none
      reply (modStage s1 fun _ => { status := 1, slot := slot, size := size, sha := sha }) a 0 [])

/-- STAGE_BEGIN. -/
def execStageBegin (m : BcpEnv) (slot : Nat) (size : Nat) (sha : BitVec 256) (s : State) : Res :=
  onBcp s m 0x20 (leBytes 1 slot ++ [0, 0, 0] ++ leBytes 4 size ++ keyBytes sha) true fun s a => stageBeginNow s a slot size sha

/-- Bytes received of the stage: whole units, and the last one as far as SIZE goes. [DESIGN CHOICE: log 91] -/
def stageBytes (g : StageSt) : Nat := (g.units.map fun u => min 1024 (g.size - 1024 * u)).sum

/-- A unit of the stage as STAGE_DATA may carry it: a multiple of 1024, below 1024 bytes only at the end. -/
def stageUnitOk (g : StageSt) (offset len : Nat) : Bool :=
  offset % 1024 == 0 && decide (1 ≤ len) && decide (len ≤ 1024) && decide (offset + len ≤ g.size) && (len == 1024 || offset + len == g.size)

/-- STAGE_DATA (R473): how many buffers are free depends on the flash's pace, which is left open; with none, BUSY. -/
def stageDataNow (s : State) (a : Ask) (offset : Nat) (data : List Byte) (flashOk : Bool) : State :=
  seasonGate s a (
    if s.stage.status != 1 then refuse s a 0x0C
    else if !stageUnitOk s.stage offset data.length then refuse s a 0x04
    else
      let f := fresh s
      let free := f.1 % 9
      if free == 0 then refuse f.2 a 0x06
      else if !flashOk then refuse (modStage (putDesc (flashFailed f.2) fun d => descSet d s.stage.slot 3) fun _ => {}) a 0x11
      else
        let u := offset / 1024
        let g := s.stage
        let first := !g.units.any fun v => v / 64 == u / 64
        let s1 := if first then emit f.2 (.flash (.erase g.slot (u / 64))) else f.2
        let g1 := { g with units := if g.units.contains u then g.units else g.units ++ [u] }
        reply (modStage (emit s1 (.flash (.stage g.slot offset data))) fun _ => g1) a 0 (leBytes 2 free ++ leBytes 4 (stageBytes g1)))

/-- STAGE_DATA. -/
def execStageData (m : BcpEnv) (offset : Nat) (data : List Byte) (flashOk : Bool) (s : State) : Res :=
  onBcp s m 0x21 (leBytes 4 offset ++ leBytes 2 data.length ++ [0, 0] ++ data) true fun s a =>
    countGate s a (decide (1 ≤ data.length) && decide (data.length ≤ 1024)) (stageDataNow s a offset data flashOk)

/-- STAGE_END (R474): a repeat is answered IN_PROGRESS until the check ends, then with its result. [DESIGN CHOICE: log 91] -/
def stageEndNow (s : State) (a : Ask) : State :=
  seasonGate s a (
    match s.stage.status with
    | 1 => if stageBytes s.stage < s.stage.size then refuse s a 0x10
           else refuse (modStage s fun g => { g with status := 2 }) a 0x15
    | 2 => refuse s a 0x15
    | 3 => reply s a s.stage.result (leBytes 1 s.stage.lastCause ++ [0])
    | _ => refuse s a 0x0C)

/-- STAGE_END. -/
def execStageEnd (m : BcpEnv) (s : State) : Res := onBcp s m 0x22 [] true stageEndNow

/-- The check ends: HASH, CHECK with its cause, or the slot is STAGED (R474). -/
def stageChecked (s : State) (hashOk : Bool) (facts : SlotFacts) : State :=
  let g := s.stage
  if !hashOk then modStage s fun _ => { g with status := 3, result := 0x0F, lastCause := 0 }
  else
    let c := slotCheck s 1 facts
    let cause := if c != 0 then c else if facts.badChunk.isSome then 0x0F else 0
    let s1 := setFacts (putDesc s fun d => descSet d g.slot (if cause == 0 then 1 else 3)) g.slot (some facts)
    modStage s1 fun _ => { g with status := 3, result := if cause == 0 then 0 else 0x0E, lastCause := cause }

/-- STAGE_CHECK_DONE (R474). -/
def execStageCheckDone (hashOk : Bool) (facts : SlotFacts) (s : State) : Res :=
  .next (if s.stage.status == 2 then stageChecked s hashOk facts else s)

/-! ### Switch-over (R475–R479) -/

/-- The ranges of SRAM that an image uses on the dies: segments, input buffers, and the first line of each program, whose length no
descriptor gives. -/
def imageRanges (m : SqiMeta) : List (Nat × Nat) :=
  (m.segs.map fun g => (g.base, g.len)) ++
  (m.groupsA ++ m.groupsF).flatMap fun g =>
    let cd := ((Die.ofCode g.dieByte).bind (·.cdIdx)).getD 0
    ([0, 1, 2, 3].filter (nbit g.clusters ·)).flatMap fun k => [(sramBase cd k + g.inbuf, g.inbufLen), (sramBase cd k + g.prog, 64)]

/-- Do two ranges share a byte? -/
def rangesMeet (a b : Nat × Nat) : Bool := decide (a.1 < b.1 + b.2) && decide (b.1 < a.1 + a.2)

/-- Segments of an image on a die. -/
def segsOn (m : SqiMeta) (cd : Nat) : Nat := (m.segs.filter fun g => g.cd == cd).length

/-- Does a slot qualify for LIVE beside the running image (R478)? [DESIGN CHOICE: log 91] -/
def qualifies (s : State) (new run : SlotFacts) : Bool :=
  let named := ((new.image.groupsA ++ new.image.groupsF).filterMap fun g => Die.ofCode g.dieByte).eraseDups
  new.fwHash == run.fwHash &&
  (if new.recPresent || run.recPresent then new.recPresent && run.recPresent && new.recHash == run.recHash else true) &&
  (imageRanges new.image).all (fun a => !(imageRanges run.image).any (rangesMeet a)) &&
  [0, 1, 2, 3].all (fun cd => decide (segsOn new.image cd + segsOn run.image cd ≤ 64)) &&
  decide (new.image.minPeriod ≤ rnat s 0x00040024) &&
  named.all (fun d => (s.die d).state == 4 || (s.die d).state == 5) && s.seqr.bank != 2

/-- Does the slot qualify, as far as SVC has read both? -/
def liveOk (s : State) (slot : Nat) : Bool :=
  match slotFacts s slot, s.img.facts with
  | some n, some r => qualifies s n r
  | _, _ => false

/-- A RESTART switch-over: descriptor, then a warm reset (R476). -/
def restartInto (s : State) (slot : Nat) : State :=
  warmCmd (putDesc (modSwitch s fun w => { w with state := 3 }) fun d => { d with preferred := slot, attempts := 0 })

/-- Cancels a switch-over that has not taken effect (R479). [DESIGN CHOICE: log 91] -/
def cancelSwitch (s : State) (cause : Nat) : State :=
  if switchDue s then raise (rput (modSwitch s fun _ => { lastCancel := cause }) 0x00040084 0) 6 0 Code.switchCancelled 1 else s

/-- E names an epoch 2 to 2^30 ahead, or is 0 (R475). -/
def switchEpochOk (s : State) (e : Word) : Bool :=
  e == 0 || (decide (2 ≤ (e - s.seqr.epoch).toNat) && decide ((e - s.seqr.epoch).toNat ≤ 2 ^ 30))

/-- SWITCH (R475).  A mode that the spec does not name is refused. [DESIGN CHOICE: log 91] -/
def switchNow (s : State) (a : Ask) (slot mode : Nat) (e : Word) : State :=
  let st := (descNow s).map fun d => descState d slot
  seasonGate s a (
    if switchDue s || s.sw.applied then refuse s a 0x06
    else if 1 < slot || slot == s.boot.slot || !(st == some 1 || st == some 2) then refuse s a 0x0D
    else if 2 < mode then refuse s a 0x04
    else if s.power.season == .dormant then
      if flashTaken s then refuse s a 0x06
      else restartInto (reply s a 0 (leBytes 1 2 ++ [0] ++ leBytes 4 e.toNat)) slot
    else if !switchEpochOk s e then refuse s a 0x13
    else if mode == 1 && !liveOk s slot then refuse s a 0x12
    else
      let live := mode != 2 && liveOk s slot
      let s1 := rput (modSwitch s fun w => { state := if live then 1 else 2, live := live, slot := slot, e := e, lastCancel := w.lastCancel }) 0x00040084 e
      reply s1 a 0 (leBytes 1 (if live then 1 else 2) ++ [0] ++ leBytes 4 e.toNat))

/-- SWITCH. -/
def execSwitch (m : BcpEnv) (slot mode : Nat) (e : Word) (s : State) : Res :=
  onBcp s m 0x23 (leBytes 1 slot ++ leBytes 1 mode ++ [0, 0] ++ leBytes 4 e.toNat) true fun s a => switchNow s a slot mode e

/-- SWITCH_READY (R477): metadata checked again, tables loaded into the inactive bank, every chunk loaded; a hash that fails cancels. -/
def execSwitchReady (chunkOk : Bool) (s : State) : Res :=
  .next (
    if s.sw.state != 1 then s
    else match slotFacts s s.sw.slot with
      | none => cancelSwitch s 2
      | some f =>
        if !chunkOk || f.metaHash != f.metaDigest then cancelSwitch s 2
        else
          let s1 := modSeq s fun q => if q.bank == 0 then { q with bankB := f.image.launchA } else { q with bankA := f.image.launchA }
          modSwitch s1 fun w => { w with state := 2, chunks := f.image.chunks })

/-- SWITCH_CANCEL (R479): with none to cancel, STATE. -/
def execSwitchCancel (m : BcpEnv) (s : State) : Res :=
  onBcp s m 0x24 [] true fun s a => if switchDue s then reply (cancelSwitch s 4) a 0 [] else refuse s a 0x0C

/-! ### The trouble-log messages (R623–R625) -/

/-- Is index a before index b in serial order, window 2^31? -/
def before (a b : Word) : Bool := decide (1 ≤ (b - a).toNat) && decide ((b - a).toNat < 2 ^ 31)

/-- The records that LOG_READ returns (R624). -/
def logRange (l : LogSt) (start : Word) (count : Nat) : List LogRecord :=
  let from0 := if before start l.oldest then l.oldest else start
  ((List.range count).filter fun i => before (from0 + toWord i) l.total).filterMap fun i => l.find (from0 + toWord i)

/-- LOG_READ. [DESIGN CHOICE: log 92] -/
def execLogRead (m : BcpEnv) (start : Word) (count : Nat) (s : State) : Res :=
  onBcp s m 0x40 (leBytes 4 start.toNat ++ leBytes 2 count ++ [0, 0]) false fun s a =>
    countGate s a (decide (1 ≤ count) && decide (count ≤ 43)) (
      let rs := logRange s.log start count
      reply s a 0 (leBytes 2 rs.length ++ leBytes 4 s.log.total.toNat ++ leBytes 4 s.log.oldest.toNat ++ leBytes 4 0 ++ rs.flatMap (·.toBytes)))

/-- LOG_STATUS. -/
def execLogStatus (m : BcpEnv) (s : State) : Res :=
  onBcp s m 0x41 [] false fun s a =>
    reply s a 0 (leBytes 2 0 ++ leBytes 4 s.log.total.toNat ++ leBytes 4 s.log.oldest.toNat ++ leBytes 4 s.log.dropped ++
      leBytes 4 s.log.freezeIdx.toNat ++ leBytes 1 (b2n s.log.frozen) ++ [0, 0, 0])

/-- LOG_CLEAR: the index is the one that the LOG_CLEARED record takes. -/
def execLogClear (m : BcpEnv) (s : State) : Res :=
  onBcp s m 0x42 [] true fun s a =>
    reply (logClearNow s) a 0 (leBytes 2 0 ++ leBytes 4 s.log.total.toNat)

/-- LOG_UNFREEZE. -/
def execLogUnfreeze (m : BcpEnv) (s : State) : Res :=
  onBcp s m 0x43 [] true fun s a => if s.log.frozen then reply (logUnfreezeNow s) a 0 [] else refuse s a 0x0C

end Sys2Proof.Machine
end

