-- ==== Sys2Proof/Machine/Boot.lean ====
section
/-! DEFINITION. Start-up, resets, die hold and the life-cycle commands that reset the part (chapters 03, 04). -/
namespace Sys2Proof.Machine

/-! ### Cold and warm reset (R79, Table 3.2) -/

/-- COLD_RESET (R79): with PG_IN or RESET_N start-up awaits the RESET_N edge, with an internal cause it begins at once. -/
def execColdReset (cause : ColdCause) (logHeaderOk : Bool) (s : State) : Res :=
  .next (match cause with
    | .por => coldNow s 1 true false (!logHeaderOk)
    | .pin ns => let x := pinResets s ns; if x.1 then coldNow x.2 2 true false (!logHeaderOk) else x.2
    | .cmd => coldNow (sendBye s) 4 false false (!logHeaderOk)
    | .wdtEscalated => coldNow s 0x20 false false (!logHeaderOk)
    | .thermalStop => coldNow s 0x40 false true (!logHeaderOk)
    | .vcoreLoss => coldNow s 0x80 false false (!logHeaderOk))

/-- Does the management core run: from step 5 on, not in a halt or in thermal stop (R77, Table 21.8)? -/
def coreRuns (s : State) : Bool :=
  decide (5 ≤ s.boot.phase) && decide (s.boot.phase < 30) && !s.power.halted && s.power.season != .thermalStop

/-- A watchdog expiry: the third within 600 s is a cold reset (R80). -/
def wdtExpire (s : State) : State :=
  let recent := s.boot.wdtResets.filter fun t => decide (s.now < t + secNs 600)
  if 2 ≤ recent.length then coldNow s 0x20 false false false
  else warmNow (modBoot s fun b => { b with wdtResets := s.now :: recent }) 4

/-- WARM_RESET (R79). -/
def execWarmReset (cause : WarmCause) (s : State) : Res :=
  .next (if !coreRuns s then s else match cause with
    | .cmd => warmCmd s
    | .wdt => wdtExpire s
    | .slotRetry => warmNow s 8
    | .coreLockup => warmNow s 9)

/-- WATCHDOG_EXPIRY (R80): the watchdog runs from firmware entry on while it is enabled. -/
def execWatchdogExpiry (s : State) : Res :=
  .next (if rb s 0x00010030 16 && coreRuns s && decide (10 ≤ s.boot.phase) then wdtExpire s else s)

/-- WDT_KICK (R100). -/
def execWdtKick (path : Path) (v : Word) (s : State) : Res := .next (answerWrite path 0x00010034 (regWrite s path 0x00010034 v))

/-! ### Steps 1 to 11 (Table 3.1) -/

/-- STARTUP_SEQUENCE (R76): the RESET_N edge with PG_IN high. [DEDUCED, DESIGN CHOICE: log 32, 6] -/
def execStartupSequence (pgIn : Bool) (s : State) : Res :=
  .next (if s.boot.phase == 0 && pgIn then modBoot s fun b => { b with phase := 1, started := s.now } else s)

/-- A step's own marker, for steps that wait within themselves. -/
def marked (s : State) (n : Nat) : Bool := s.boot.stepsDone.contains n
def mark (s : State) (n : Nat) : State := modBoot s fun b => { b with stepsDone := [n] }

/-- Step 2 (R138, Table 4.14). -/
def stepOtp (s : State) (a : OtpAnalog) : State :=
  let s1 := otpLoad s a
  if otpHalts s1 then haltNow s1 30 else bootTo (tmpFollow s1) 3

/-- Step 4 ends in VCORE not good: one retry, then HALT_POWER. -/
def powerBad (s : State) : State :=
  if s.boot.pmRetried then haltNow s 31 else modBoot s fun b => { b with pmRetried := true }

/-- Step 4 (R97): HOLD stops here before FIELD; in FIELD it is NORMAL and is logged. [DESIGN CHOICE: log 38] -/
def stepPower (s : State) (good : Bool) : State :=
  if marked s 4 then s
  else if !good then powerBad s
  else
    let s1 := sendVcore s 750
    if s1.boot.strap != 2 then bootTo s1 5
    else if inField s1 then bootTo (logOnly s1 .svc 0xD 0 Code.strapIgnored 1) 5
    else mark s1 4

/-- The QSPI settings in force, as the descriptor sets them; what it leaves to SFDP is the flash's own. [DESIGN CHOICE: log 40] -/
def qspiOf (s : State) (d : BootDesc) : State :=
  let v := d.flash.toNat
  let f := fresh s
  let div := match bits v 5 2 with | 0 => 4 | 1 => f.1 / 64 % 16 | n => n
  let dummy := if bits v 13 8 == 0 then f.1 % 64 else bits v 13 8
  modBus f.2 fun b => { b with qspiInfo := toWord (bits v 1 0 + 4 * div + 2 ^ 8 * dummy + 2 ^ 16 * (f.1 / 1024)) }

/-- Step 6 (R87, R96). -/
def stepDesc (s : State) (c0 c1 : Option BootDesc) : State :=
  if c0.isNone && c1.isNone then dormantNow s (if s.boot.strap == 3 then 2 else 3)
  else
    let n := copyUsed (c0.map (·.gen)) (c1.map (·.gen))
    let s1 := modBoot (modFlash s fun x => { x with desc0 := c0, desc1 := c1 }) fun b => { b with descCopy := n, phase := 7 }
    match descNow s1 with
    | some d => qspiOf s1 d
    | none => s1

/-- Step 7 without a valid copy: every register keeps its reset value (R88). -/
def cfgDefaults (s : State) : State :=
  raise (modBoot (modFlash s fun x => { x with cfg0 := none, cfg1 := none }) fun b => { b with cfgDefaulted := true, cfgCopy := 0, phase := 8 })
    0xD 0 Code.configDefaulted 1

/-- Step 7 (R88). -/
def stepCfg (s : State) (c0 c1 : Option CfgCopy) : State :=
  if c0.isNone && c1.isNone then cfgDefaults s
  else modBoot (modFlash s fun x => { x with cfg0 := c0, cfg1 := c1 }) fun b =>
    { b with cfgDefaulted := false, cfgCopy := copyUsed (c0.map (·.gen)) (c1.map (·.gen)), phase := 8 }

/-- Step 9: configuration entries, key store, region locks, watchdog, firmware entry (Table 4.7, R80, R89, R467). -/
def stepEntries (s : State) : State :=
  let s1 := loadKeys (applyConfig s)
  let s2 := lockSet s1 (bootLocks s1)
  let s3 := modBoot (rput s2 0x00010030 (rget s2 0x00010030 ||| 0x00010000)) fun b => { b with wdtKicked := s.now, phase := 10 }
  let s4 := tmpRestart s3
  if rf s4 0x00040000 1 0 == 0 then enterFree s4 else s4

/-- Step 10: the PHYs, and the field outputs, listener and addresses that run from here on (R451, R455, R573). -/
def stepPhys (s : State) (ok : Bool) : State :=
  let s1 := modFo (modNet s fun n => { n with on := true }) fun x => { x with enabled := true }
  let s2 := addrFollow (lstPolicy (foFollow s s1))
  bootTo (if ok then s2 else raise s2 6 0 Code.phyFail 1) 11

/-- Step 11: the dies leave hold; at or above 108 °C only once Tj lies below 103 °C (Table 3.16). -/
def stepRelease (s : State) : State :=
  if 432 ≤ s.power.tmax || (marked s 11 && 412 ≤ s.power.tmax) then mark s 11
  else
    let s1 := ((fittedDies s).filter fun d => d != .svc && levelPermits s d).foldl releaseDie s
    modBoot s1 fun b => { b with phase := 12, stepsDone := [] }

/-- Steps 1 to 11 by what the step brought; anything else is of another step. [DESIGN CHOICE: log 40] -/
def stepEarly (s : State) (info : StepInfo) : State :=
  match s.boot.phase, info with
  | 1, .strap b => modBoot s fun x => { x with strap := b % 4, phase := 2 }
  | 2, .otp a => stepOtp s a
  | 3, .plain => bootTo s 4
  | 4, .power good => stepPower s good
  | 5, .sfdp ok => if ok then bootTo (modFlash s fun x => { x with sfdp := true }) 6 else dormantNow s 4
  | 6, .desc c0 c1 => stepDesc s c0 c1
  | 7, .cfg c0 c1 => stepCfg s c0 c1
  | 8, .slots a b => chooseSlot s a b (marked s 8)
  | 9, .plain => stepEntries s
  | 10, .phys ok => stepPhys s ok
  | 11, .plain => stepRelease s
  | _, _ => s

/-! ### Steps 12 to 15, in parallel -/

/-- Step 14 brings a bad chunk, or links that the image's placements cannot use, or the weights (R93). -/
def stepWeights (s : State) (bad : Option Nat) : State :=
  if bad.isSome then slotFails s 0x0F
  else if linkCapsBad s then slotFails s 0x13
  else stepDone (weightsDone s) 14

/-- Steps 12 to 15. -/
def stepLate (s : State) (info : StepInfo) : State :=
  match info with
  | .links sites guardOk => if marked s 12 then s else stepDone (linksDone s sites guardOk) 12
  | .recog f => if marked s 13 then s else stepDone (recogDone s (recogCause s f) (some f)) 13
  | .weights bad => if marked s 14 then s else stepWeights s bad
  | .plain => if marked s 15 then s else stepDone s 15
  | _ => s

/-- STARTUP_STEP_COMPLETE (R76). -/
def execStartupStepComplete (info : StepInfo) (s : State) : Res :=
  .next (if s.boot.phase < 12 then stepEarly s info else if s.boot.phase < 16 then stepLate s info else s)

/-! ### Timeouts (Table 3.1) -/

/-- SITE and MIRRORED_DIE of the four compute dies where no step brought them. [DESIGN CHOICE: log 40] -/
def sitesFree (s : State) : List (Nat × Bool) × State :=
  (List.range 4).foldl (fun x cd => let y := siteOf x.2 cd; (x.1 ++ [(y.1, y.2.1)], y.2.2)) ([], s)

/-- A step exceeds its maximum time. [DESIGN CHOICE: log 40] -/
def stepTimeout (s : State) : State :=
  match s.boot.phase with
  | 2 => haltNow s 30
  | 3 => haltNow s 31
  | 4 => if marked s 4 then s else powerBad s
  | 5 => dormantNow s 4
  | 6 => dormantNow s 3
  | 7 => cfgDefaults s
  | 8 => if marked s 8 then dormantNow s 1 else mark s 8
  | 10 => stepPhys s false
  | 12 => let x := sitesFree s
          let f := fresh x.2
          stepDone (linksDone f.2 x.1 (nbit f.1 0)) 12
  | 13 => let f := fresh s; stepDone (recogDone f.2 (f.1 % 256) none) 13
  | 14 => slotFails s 0x10
  | 15 => stepDone (modTb s fun t => { t with acqExpired := true }) 15
  | _ => s

/-- STARTUP_STEP_TIMEOUT (R76). -/
def execStartupStepTimeout (s : State) : Res := .next (stepTimeout s)

/-- DORMANT_REPORT (R98): every 10 s. -/
def execDormantReport (s : State) : Res :=
  .next (if s.boot.phase == 24 then raise s 0xD 0 Code.dormant 1 (args4 [s.boot.causeA, s.boot.causeB]) else s)

/-! ### Die hold and die reset -/

/-- DIE_HOLD's bit of a die written on a path; every other bit keeps its value. [DESIGN CHOICE: log 37] -/
def holdWrite (s : State) (path : Path) (d : Die) (f : State → State) : Res :=
  onUnit (d != .svc && fitted s d) (
    if mayWrite s path 0x0001001C then answer (f s) path 0x0001001C .ok else answer s path 0x0001001C .path)

/-- DIE_HOLD_SET (R79). -/
def execDieHoldSet (path : Path) (die : Die) (s : State) : Res :=
  holdWrite s path die fun s => if held s die then s else holdDie s die false

/-- DIE_HOLD_RELEASE (R81); the level in force may keep the die held (R646). -/
def execDieHoldRelease (path : Path) (die : Die) (site : Nat) (mirrored guardOk : Bool) (s : State) : Res :=
  holdWrite s path die fun s => if held s die && levelPermits s die then releaseWith s die site mirrored guardOk else s

/-- DIE_RESET (R218): FAB_RESET of the die, with the SITE it reads. -/
def execDieReset (path : Path) (cd : Nat) (site : Nat) (mirrored : Bool) (s : State) : Res :=
  onUnit (cdOk s cd) (
    if !dieOpen s (Die.ofCd cd) then answer s path (fabReg cd 4) .state
    else if !mayWrite s path (fabReg cd 4) then answer s path (fabReg cd 4) .path
    else answer (dieResetNow s cd site mirrored) path (fabReg cd 4) .ok)

/-! ### A die reports READY (R89, R220, Table 2.18) -/

/-- The owner's recorded runtime entries for the EYE blocks, written again when the EYE comes back in a run (R472, Table 2.18). [DESIGN CHOICE: log 41] -/
def eyeRuntime (s : State) : State :=
  if !s.seqr.ran then s
  else (s.bcp.runtime.filter fun e => addrDie e.1.toNat == some .eye).foldl (fun t e => (regWriteHere t .core e.1.toNat e.2).1) s

/-- SVC sets up a die that reports READY; after a hold its routes and the Harvest store of its die are written again. [DESIGN CHOICE: log 41] -/
def dieReadyNow (s : State) (d : Die) : State :=
  let lost := (s.die d).state == 3
  let s1 := setupDie (modDie s d fun x => { x with state := if x.state == 5 then 5 else 4 }) d
  let s2 := if d == .eye then eyeRuntime s1 else s1
  if lost then
    let s3 := loadRoutes s2
    if hvCd s3 == d.cdIdx && d.isCd then hvRestore s3 else s3
  else loadRoutesOf s2 d

/-- DIE_READY (R89). -/
def execDieReady (r : LinkRx) (s : State) : Res :=
  onMsg s r 7 fun s x => match Die.ofCode x.src with
    | some d => if r.port.die == .svc && d != .svc && fitted s d && leAt x.payload 0 1 == 4 then dieReadyNow s d else s
    | none => s

/-! ### The first epoch (R105) and slot confirmation (R106, R125) -/

/-- The season of the first epoch: SUMMER, or the AUTUMN level in force (R105). -/
def seasonOfLevel (l : Nat) : Season :=
  match l with | 0 => .summer | 1 => .a1 | 2 => .a2 | _ => .a3

/-- BOOT_REPORT: slot, both causes, recogniser state, LINK_SUMMARY, BOOT_TIME_MS (Table 20.12). -/
def bootReport (s : State) : State :=
  let ms := (s.now - s.boot.started) / 1000000
  let s1 := modBoot (rput s 0x0001000C 0) fun b => { b with bootTimeMs := toWord ms, firstDone := true }
  raise s1 0xD 0 Code.bootReport 0
    (packArgs [(s1.boot.slot, 1), (s1.boot.causeA, 1), (s1.boot.causeB, 1), (b2n s1.boot.recEnabled + 2 * (s1.boot.recCause % 128), 1), (linkSummary s1, 4), (ms, 4)])

/-- FIRST_EPOCH (R105): after WINTER the season alone follows (R646). -/
def execFirstEpoch (s : State) : Res :=
  .next (
    if s.boot.phase != 16 || !s.seqr.armed then s
    else
      let l := autumnLevel s
      let s1 := seasonTo (modPower s fun p => { p with capLevel := l }) (seasonOfLevel l)
      let s2 := modSeq s1 fun q => { q with ran := true, decimate := l == 2 }
      let s3 := (fittedDies s2).foldl (fun t d => modDie t d fun x => { x with state := if x.state == 4 then 5 else x.state }) s2
      let s4 := modBoot s3 fun b => { b with phase := 17, runSince := if b.firstDone then b.runSince else some s.now }
      let s5 := if s4.boot.firstDone then s4 else bootReport s4
      if s5.power.thermalStopped then
        raise (modPower s5 fun p => { p with thermalStopped := false }) 0xE 0 Code.thermalStopped 3 (packArgs [((s.power.tjPeak % 2 ^ 32).toNat, 4)])
      else s5)

/-- Raises one rollback counter to a slot's index, capped at 1536, when the index exceeds it (R125). -/
def autoRaise (s : State) (which index : Nat) : State :=
  let v := min 1536 index
  if v ≤ counterOf s which then s
  else
    let x := otpAnalogOf (rput s 0x0002000C (toWord v))
    otpRollbackRaise x.2 .core (toWord (0x0C7B0006 + 2 ^ 13 * which)) x.1

/-- SLOT_CONFIRM (R106): the equinox that follows CONFIRM_S seconds of running. -/
def execSlotConfirm (s : State) : Res :=
  .next (match descNow s, s.boot.runSince with
    | some d, some t =>
      if s.boot.phase == 17 && decide (s.boot.slot < 2) && descState d s.boot.slot == 1 && decide (t + secNs d.confirmS ≤ s.now) then
        let s1 := writeDesc s fun x => { descSet x s.boot.slot 2 with attempts := 0 }
        if rb s1 0x00020028 0 then autoRaise (autoRaise s1 0 s.boot.fwRollback) 1 s.boot.sqiRollback else s1
      else s
    | _, _ => s)

/-! ### Life cycle (R116, R118, R121, R37) -/

/-- LC_ADVANCE (R116, R117); to DECOMMISSIONED a cold reset follows (R118). [DESIGN CHOICE: log 35] -/
def execLcAdvance (path : Path) (cmd : Word) (a : OtpAnalog) (s : State) : Res :=
  .next (afterLcAdvance s (answer (otpLcAdvance s path cmd a) path 0x00020008 (if otpPathOk s path then .ok else .path)))

/-- OTP_LOCK_SET (R121). -/
def execOtpLockSet (path : Path) (v : Word) (s : State) : Res := .next (answerWrite path 0x00020004 (regWrite s path 0x00020004 v))

/-- A parcel of a raw-tap export or a frame-buffer readout on its way out of the EYE (R37, Table 13.7). [DESIGN CHOICE: log 55] -/
def exportParcel (x : Parcel) : Bool := x.src == 1 && x.vc == 5 && x.dst == 0 && (x.kind == 0 || x.kind == 2)

/-- DEBUG_DISABLE_EFFECT (R37): exports and readouts end at the parcel boundary and their remainder is discarded; an export stream
is disabled and its DEST reads 0x4 (Table 9.11); the event is logged under a code that the spec does not name. [DESIGN CHOICE: log 46] -/
def execDebugDisableEffect (s : State) : Res :=
  .next (
    if !debugDisabled s || s.otp.debugEffective then s
    else
      let s1 := modOtp s fun o => { o with debugEffective := true }
      let s2 := (List.range 2).foldl (fun t i =>
        if rf t (streamCfg i) 11 8 == 0 && rb t (streamCfg i) 0 then rputf (rputf t (streamCfg i) 0 0 0) (streamCfg i) 11 8 4 else t) s1
      let ended := (portsOf .eye).any fun p => (vget (s2.port p).txq 5).any exportParcel
      let s3 := (portsOf .eye).foldl (fun t p => modPort t p fun e => { e with txq := vmod e.txq 5 fun q => q.filter fun x => !exportParcel x }) s2
      if ended then let f := fresh s3; logOnly f.2 .eye 4 0 (f.1 % 65536) 1 else s3)

end Sys2Proof.Machine
end

