-- ==== Sys2Proof/Machine/Eye.lean ====
section
/-! DEFINITION. The commands of the sensor (chapter 08). -/
namespace Sys2Proof.Machine

/-- EXPOSE (R236). -/
def execExpose (f : SbFrame) (vpixOk : Bool) (s : State) : Res :=
  onLaunch s f 0x01 (· == .eye) (· == 0) (startExpose false vpixOk)

/-- EXPOSE_HDR (R237). -/
def execExposeHdr (f : SbFrame) (vpixOk : Bool) (s : State) : Res :=
  onLaunch s f 0x02 (· == .eye) (· == 0) (startExpose true vpixOk)

/-- SENSOR_CAL_DONE (R238): which of ADC_A and ADC_B is given when both banks fail is left open. [DESIGN CHOICE: log 59] -/
def execSensorCalDone (aOk bOk : Bool) (s : State) : Res :=
  .next (if s.eye.state != .cal then s else
    let s1 := modEye s fun y => { y with bankA := aOk, bankB := bOk, state := if aOk && bOk then .standby else .fault }
    if aOk && bOk then s1
    else if bOk then modEye s1 fun y => { y with faultCause := 1 }
    else if aOk then modEye s1 fun y => { y with faultCause := 2 }
    else let r := fresh s1; modEye r.2 fun y => { y with faultCause := 1 + r.1 % 2 })

/-- CAL_TIMEOUT (R253). -/
def execCalTimeout (s : State) : Res :=
  .next (if s.eye.state == .cal then modEye s fun y => { y with state := .fault, faultCause := 4 } else s)

/-- EXPOSURE_END (R235, R237, R251): the transfer into SB, after which the short exposure begins, or the last transfer,
after which readout begins once the banks are up. -/
def execExposureEnd (s : State) : Res :=
  .next (match s.eye.state, s.eye.plan with
    | .exposing, some p =>
      if p.hdr && p.phase == 0 then modEye s fun y => { y with plan := some { p with phase := 1 } }
      else modEye s fun y => { y with state := .reading, rows := 0, bankWait := waitsForBanks s p }
    | _, _ => s)

/-- BANK_POWER_UP (R251). -/
def execBankPowerUp (s : State) : Res := .next (modEye s fun y => { y with bankWait := false })

/-- ROW_CONVERTED (R240, R241, R243). -/
def execRowConverted (long short : List Nat) (s : State) : Res :=
  .next (if s.eye.state == .reading && !s.eye.bankWait then convertRow s long short else s)

/-- VPIX_FAULT (R253). -/
def execVpixFault (s : State) : Res :=
  .next (if frameBusy s then sensorMissing (logOnly s .eye 0 0 Code.pixelSupply 2) 3 else s)

/-- SEQ_CLOCK_LOST (R253): the third loss within 1 s makes the sequencer FAULT. -/
def execSeqClockLost (s : State) : Res :=
  .next (if s.eye.state == .off || s.eye.state == .fault then s else
    let s1 := if frameBusy s then sensorMissing s 4 else s
    let ls := s.now :: (s.eye.clkLosses.filter fun t => decide (s.now - t < 1000000000))
    if 3 ≤ ls.length then modEye s1 fun y => { y with state := .fault, faultCause := 3, relocking := false, clkLosses := ls }
    else modEye s1 fun y => { y with relocking := true, clkLosses := ls })

/-- SEQ_CLOCK_RELOCK (R253). -/
def execSeqClockRelock (s : State) : Res := .next (modEye s fun y => { y with relocking := false })

end Sys2Proof.Machine
end

