-- ==== Sys2Proof/Machine/Isp.lean ====
section
/-! DEFINITION. The commands of the image pipeline (chapter 09). -/
namespace Sys2Proof.Machine

/-- ISP_START (R273). -/
def execIspStart (f : SbFrame) (s : State) : Res := onLaunch s f 0x08 (· == .eye) (· == 1) startIsp

/-- ISP_ROW_PROCESS (R257, R285, R286): the watchdog checks each row delivered; the armed ISP takes the converted rows in
order. -/
def execIspRowProcess (len index : Nat) (frameEnd lineEcc toneEcc : Bool) (s : State) : Res :=
  .next (if !s.eye.exposed || s.eye.frameMissing then s
    else if s.isp.state != .armed && s.isp.state != .running then
      (if len != 4112 then abortFrame s 2 0 else if frameEnd && decide (index < 3079) then abortFrame s 3 0
       else if 3079 < index then abortFrame s 4 0 else s)
    else match rowCause s len index frameEnd lineEcc with
      | some c => abortFrame s c 0
      | none =>
        if s.eye.rows ≤ index then s else
        processRow (if toneEcc && !s.isp.toneBad then
          logOnly (modIsp s fun i => { i with toneBad := true, toneBypass := true }) .eye 1 0 Code.toneEcc 2 else s) index)

/-- FRAME_TIMEOUT (R285): the last row is not converted in time. [DESIGN CHOICE: log 65] -/
def execFrameTimeout (s : State) : Res := .next (if frameBusy s then abortFrame s 1 0 else s)

end Sys2Proof.Machine
end

