-- ==== Sys2Proof/Machine/Pmbus.lean ====
section
/-! DEFINITION. The VCORE regulator over PMBus: its alert, telemetry and the energy count (R590, R604, R649, Table 21.14). -/
namespace Sys2Proof.Machine

/-- Does PMBus reach the regulator: from step 4 on, outside a halt? -/
def pmOn (s : State) : Bool := decide (4 ≤ s.boot.phase) && !s.power.halted

/-- A transaction has failed after its three retries: PMBUS_FAULT, VCORE_FAULT; the regulator keeps its setting. [DESIGN CHOICE: log 104] -/
def pmFails (s : State) : State :=
  let s1 := modBus s fun b => { b with pmErrors := satAdd 255 b.pmErrors 4, pmFailed := true }
  if s.bus.pmFailed then s1 else vcoreFaultNow (raise s1 9 0 Code.pmbusFault 2)

/-- A transaction succeeds; after a failure the setting that waits is sent. [DESIGN CHOICE: log 104] -/
def pmWorks (s : State) : State :=
  if !s.bus.pmFailed then s
  else
    let s1 := modBus s fun b => { b with pmFailed := false }
    if s1.power.vcoreSent == 0 then s1 else sendVcore s1 (vcoreWanted s1)

/-- PM_ALERT (R590): STATUS_WORD is read; POWER_GOOD lost is a cold reset once VCORE is up, other faults are handled and cleared. [PRESUMED: log 105] -/
def execPmAlert (status : Nat) (busOk : Bool) (s : State) : Res :=
  .next (
    if !pmOn s then s
    else
      let s0 := modBus s fun b => { b with pmAlert := true }
      if !busOk then pmFails s0
      else
        let s1 := pmWorks (modBus s0 fun b => { b with pmStatus := status % 65536, pmAlert := false })
        let s2 := if nbit status 14 then pLevelUp s1 else s1
        if nbit status 11 && decide (5 ≤ s.boot.phase) then coldNow s1 0x80 false false false
        else if status % 65536 == 0 then s1 else emit s2 (.pmbus 0x03 0))

/-- AUX_MW in the season in force. -/
def auxMw (s : State) : Nat :=
  match s.power.season with
  | .winter | .dormant | .thermalStop => rf s 0x00030034 31 16
  | _ => rf s 0x00030034 15 0

/-- P_VCORE in mW: READ_POUT, or the product of the last good voltage and current. [DESIGN CHOICE: log 104] -/
def pVcore (s : State) : Nat := if s.power.energyEst then s.power.vout * s.power.iout / 1000 else s.power.pout

/-- 10 ms of energy, and PWR_1S each second. -/
def addEnergy (s : State) : State :=
  let uj := (pVcore s + auxMw s) * 10
  modPower s fun p =>
    let full := decide (99 ≤ p.secondSteps)
    { p with
      energy := p.energy + BitVec.ofNat 48 uj
      secondUj := if full then 0 else p.secondUj + uj
      secondSteps := if full then 0 else p.secondSteps + 1
      pwr1s := if full then (p.secondUj + uj) / 1000 else p.pwr1s }

/-- Does READ_VOUT lie within 3 % of the setting? [PRESUMED: log 105] -/
def voutAgrees (s : State) : Bool :=
  decide (100 * s.power.vout ≤ 103 * s.power.vcoreSent) && decide (97 * s.power.vcoreSent ≤ 100 * s.power.vout)

/-- VCORE_TELEMETRY (R649): every 10 ms; a reading that fails keeps the last. -/
def execVcoreTelemetry (vout iout pout : Option Nat) (s : State) : Res :=
  .next (
    if !pmOn s || s.power.vcoreSent == 0 then s
    else
      let failed := vout.isNone || iout.isNone || pout.isNone
      let s1 := if failed then pmFails s else pmWorks s
      let s2 := modPower s1 fun p => { p with
        vout := vout.getD p.vout, iout := iout.getD p.iout, pout := pout.getD p.pout, energyEst := pout.isNone }
      let s3 := if vout.isSome && voutAgrees s2 then modPower s2 fun p => { p with voutBad := false } else s2
      addEnergy s3)

end Sys2Proof.Machine
end

