-- ==== Sys2Proof/Machine/EquinoxOps.lean ====
section
/-! DEFINITION. The end of an epoch: drains, the guard interval, hand-over, what SVC evaluates at the equinox, and what an EQUINOX
token does on a die (R57–R63, R71–R75, R304–R307, R642–R648, R658). -/
namespace Sys2Proof.Machine

/-! ### The dies of an epoch -/

/-- Does a die take KILL and EQUINOX tokens: fitted, out of hold, ready or running? [DESIGN CHOICE: log 25] -/
def liveDie (s : State) (d : Die) : Bool := d != .svc && fitted s d && ((s.die d).state == 4 || (s.die d).state == 5)

/-- The dies that take KILL and EQUINOX tokens. [DESIGN CHOICE: log 25] -/
def liveDies (s : State) : List Die := (fittedDies s).filter (liveDie s)

/-- The compute dies that AUTUMN A3 switches off (R307, R313). [DESIGN CHOICE: log 27] -/
def upperCds (s : State) : List Die := (fittedDies s).filter fun d => d.isCd && d != .cd0

/-- Are they all READY (R307)? [DESIGN CHOICE: log 27] -/
def upperReady (s : State) : Bool := (upperCds s).all (liveDie s)

/-- The tracker's die of bank A, whose ledger the hand-over map names (R306, R313). -/
def trackerDie (s : State) : Die := if s.part == .bx7710 then .cd2 else .cd3

/-- Does an entry of the active table run a tracker on a die? -/
def runsTracker (s : State) (d : Die) : Bool := (activeTable s).any fun e => e.action == 0x12 && e.dieByte % 16 == d.code

/-! ### Drains on a die (Table 2.7) -/

/-- Crops accepted and not yet sent are discarded at KILL (R34). -/
def dropCrops (s : State) (d : Die) : State :=
  if d == .eye then modGuard s fun g => { g with accepted := [], waiting := [], windowOpen := false } else s

/-- KILL with DRAIN: an orderly drain. -/
def drainDie (s : State) (d : Die) : State :=
  if d == .svc || (s.die d).drainedSent then s
  else
    let s1 := dropCrops (refuseLaunches s d) d
    drainCheck (match d.cdIdx with | some cd => dropHalos s1 cd | none => eyeKill s1) d

/-- Step 2 of FORCE on a compute die: clusters and detect unit end without output. -/
def forceUnits (s : State) (cd : Nat) : State :=
  let d := Die.ofCd cd
  let s1 := [0, 1, 2, 3].foldl (fun t k => if clusterBusy (t.cl cd k) then endEntry t cd k 5 else unitDone t d k) s
  let busy := (unitOf s1 d 5).busy.isSome
  let s2 := modDet s1 cd fun x => { x with
    state := if busy then .idle else x.state, lastErr := if busy then 4 else x.lastErr, nextIdNow := x.nextId, liveNow := x.live }
  unitDone s2 d 5

/-- KILL with FORCE: abort and drain. -/
def forceDie (s : State) (d : Die) : State :=
  if d == .svc || (s.die d).drainedSent then s
  else
    let s1 := dropCrops (dropQueued (refuseLaunches s d) d) d
    match d.cdIdx with
    | some cd =>
      let s2 := dropHalos (forceReads (forceUnits s1 cd) cd) cd
      let m := ledgerMark (dropCache (dropOutbound s2 d) d) cd
      sendDrained (hvDiscard m.2 cd) d true m.1 (outbound s2 d)
    | none =>
      let s2 := unitDone (ispAborted (eyeKill s1)) .eye 3
      sendDrained (dropOutbound s2 d) d true 0 (outbound s2 d)

/-- The EPOCH_DONE message (Table 6.16). [DESIGN CHOICE: log 24] -/
def sendDone (s : State) (d : Die) : State :=
  let x := s.die d
  let aborted := match d.cdIdx with | some cd => (s.cdie cd).aborted | none => false
  sendMsg (modDie s d fun x => { x with doneSent := true }) d .svc 1
    (leBytes 4 s.seqr.epoch.toNat ++ leBytes 2 (min 65535 x.ratio) ++ leBytes 2 (min 65535 x.late) ++ leBytes 2 (min 65535 x.missed) ++
      [BitVec.ofNat 8 (b2n aborted), 0])

/-! ### The next epoch (R42, R71) -/

/-- The period that the next epoch has, in ns. -/
def nextPeriodNs (s : State) : Nat := (rnext s 0x00040024).toNat * 1000

/-- The instant at which the epoch in hand ends. -/
def epochEnd (s : State) : Nat := (s.tb.ltime.toNat / periodNs s + 1) * periodNs s

/-- The number of the next epoch: one more, or after a step or a change of period the first that starts at or after the end of
this one. [DESIGN CHOICE: log 19] -/
def nextEpoch (s : State) : Word :=
  if s.tb.stepPending.isNone && nextPeriodNs s == periodNs s then s.seqr.epoch + 1
  else
    let t := ((epochEnd s : Int) + s.tb.stepPending.getD 0).toNat
    toWord ((t + nextPeriodNs s - 1) / nextPeriodNs s)

/-- Until which epoch the sequencer is idle: after a backward step of up to two periods the first number not yet run. [DESIGN CHOICE: log 19] -/
def idleAfter (s : State) (new : Word) : Option Word :=
  let target := match s.tb.stepPending with
    | some x => if x < 0 && -(2 * periodNs s : Int) ≤ x then some ((s.seqr.idleUntil).getD (s.seqr.epoch + 1)) else none
    | none => if nextPeriodNs s == periodNs s then s.seqr.idleUntil else none
  target.filter fun t => !epochReached new t

/-- The deferred step and the change of period come into force, and the next epoch begins (Table 2.17). [DESIGN CHOICE: log 19] -/
def newEpoch (s : State) : State :=
  let new := nextEpoch s
  let idle := if s.seqr.ran then idleAfter s new else none
  let step := s.tb.stepPending
  let oldP := rget s 0x00040024
  let s1 := match step with | some x => modTb (stepTime s x) fun t => { t with stepPending := none } | none => s
  let s2 := rapply s1 0 0x01000000
  let s3 := modSeq s2 fun q => { q with epoch := new, closed := q.epoch, idleUntil := idle }
  let s4 := if step.isSome then raise s3 5 0 Code.timeStep 1 (args4 [s.seqr.epoch.toNat, new.toNat]) else s3
  if rget s4 0x00040024 == oldP then s4
  else raise s4 5 0 Code.epochPeriod 1 (args4 [oldP.toNat, rnat s4 0x00040024, s.seqr.epoch.toNat])

/-! ### Hand-over (R306) -/

/-- HANDOVER_CLEAR for the part of a range that lies inside the ledger. -/
def clearRange (s : State) (dst : Die) (first n : Nat) : State :=
  if first < 2048 && n != 0 then sendMsg s .svc dst 0xA (leBytes 2 first ++ leBytes 2 (min n (2048 - first)) ++ leBytes 4 0) else s

/-- The change of bank under way, changed. -/
def modHand (s : State) (f : HandOver → HandOver) : State := modSeq s fun q => { q with hand := q.hand.map f }

/-- Copies one range, or clears it when it cannot be copied whole. [DESIGN CHOICE: log 28] -/
def copyRange (src dst : Die) (s : State) (r : Nat × Nat × Nat) : State :=
  let (a, b, n) := r
  if liveDie s src && a + n ≤ 2048 && b + n ≤ 2048 then
    let s1 := (List.range n).foldl (fun t i =>
      sendParcel t .svc (ledgerParcel dst (b + i) (committedOf (ledgerLine t (src.cdIdx.getD 0) (a + i))))) s
    modHand s1 fun h => { h with copied := h.copied ++ [(b, n)], handed := h.handed + n }
  else modHand (clearRange s dst b n) fun h => { h with notHanded := h.notHanded + n }

/-- A change of bank begins with its hand-over: to CD0 for bank F, back for bank A. [DESIGN CHOICE: log 28] -/
def startHandover (s : State) (bank cause : Nat) : State :=
  let toF := bank == 2
  let src := if toF then trackerDie s else Die.cd0
  let dst := if toF then Die.cd0 else trackerDie s
  let ranges := match imageOf s with
    | some m => m.handover.map fun (r : HandRange) => if toF then (r.src, r.dst, r.count) else (r.dst, r.src, r.count)
    | none => []
  ranges.foldl (copyRange src dst) (modSeq s fun q => { q with hand := some { bank := bank, before := q.bank, cause := cause, dst := dst } })

/-- HEALTH PLACEMENT_CHANGE and PLC_HANDOVER of a change that has ended. -/
def reportHand (s : State) : State :=
  match s.seqr.hand with
  | none => s
  | some h =>
    let s1 := match h.dst.cdIdx with
      | some cd => modComp s cd fun c => { c with handoverGot := min 65535 h.handed, handoverNot := min 65535 h.notHanded }
      | none => s
    raise (modSeq s1 fun q => { q with hand := none }) 4 0 Code.placementChange 1
      (packArgs [(h.bank, 1), (h.before, 1), (h.cause, 1), (0, 1), (min 65535 h.handed, 2), (min 65535 h.notHanded, 2)])

/-- Is a parcel a write of a ledger line of a range on a die? -/
def writesRange (dst : Die) (r : Nat × Nat) (x : Parcel) : Bool :=
  x.kind == 9 && x.dst == dst.code && decide (r.1 ≤ x.arg) && decide (x.arg < r.1 + r.2)

/-- The commit fence: a range whose last line has not been written starts empty. -/
def fenceRange (dst : Die) (s : State) (r : Nat × Nat) : State :=
  let waits := (portsOf .svc).any fun p => (vget (s.port p).txq 0).any (writesRange dst r)
  if !waits then s
  else
    let s1 := (portsOf .svc).foldl (fun t p => modPort t p fun e => { e with txq := vmod e.txq 0 fun q => q.filter fun x => !writesRange dst r x }) s
    modHand (clearRange s1 dst r.1 r.2) fun h =>
      { h with copied := h.copied.filter (· != r), handed := h.handed - r.2, notHanded := h.notHanded + r.2 }

/-- The ranges that the fence cuts. [DESIGN CHOICE: log 28] -/
def fenceHand (s : State) : State :=
  match s.seqr.hand with
  | some h => if h.sent then s else h.copied.foldl (fenceRange h.dst) s
  | none => s

/-- A die reports its commit: a discard undoes what was handed over to it. [DESIGN CHOICE: log 28] -/
def handCommitted (s : State) (d : Die) (discard : Bool) : State :=
  match s.seqr.hand with
  | some h =>
    if h.dst != d || !h.sent then s
    else if discard then
      reportHand (modHand (modSeq s fun q => { q with owed := q.owed ++ h.copied.map fun r => (d, r.1, r.2) }) fun h =>
        { h with copied := [], handed := 0, notHanded := h.notHanded + h.handed })
    else reportHand s
  | none => s

/-! ### The guard interval (R36, R60, R526, R658) -/

/-- The season that the next EQUINOX token brings from the level (R642, R655): A3 stays until its dies are READY. [DESIGN CHOICE: log 27] -/
def nextSeason (s : State) (level : Nat) : Option Season :=
  if !s.seqr.ran || !summerOrAutumn s.power.season then none
  else if s.power.season == .a3 && decide (level < 3) && !upperReady s then some .a3
  else some (seasonOfLevel level)

/-- The bank that becomes active and why: bank F in A3 or with CD1–CD3 unusable, the one before when all are READY (R306, R307,
Table 10.9). [DESIGN CHOICE: log 27] -/
def nextBank (s : State) (level : Nat) : Option (Nat × Nat) :=
  if s.seqr.bank != 2 then
    if 3 ≤ level then some (2, 0) else if (upperCds s).any fun d => (s.die d).state == 6 then some (2, 2) else none
  else if level < 3 && upperReady s then some (s.seqr.back, 1)
  else none

/-- Is a switch-over of a mode READY and its epoch reached (R476, R477)? -/
def switchReached (s : State) (live : Bool) (new : Word) : Bool :=
  s.sw.state == 2 && s.sw.live == live && !s.sw.applied && (s.sw.e == 0 || epochReached new s.sw.e)

/-- A LIVE switch-over in its guard interval: segment tables and bank F are replaced, and the new image's peer area is to be
cleared (R477, R523). [DESIGN CHOICE: log 27] -/
def applyLive (s : State) : State :=
  if !switchReached s true (nextEpoch s) then s
  else match slotFacts s s.sw.slot with
    | none => s
    | some f =>
      let s1 := modImg (modSwitch s fun w => { w with applied := true }) fun g => { g with facts := some f }
      let s2 := ((fittedCds s1).filter fun cd => liveDie s1 (Die.ofCd cd)).foldl (fun t cd => loadSegments t cd f.image) s1
      clearPeerArea (modSeq s2 fun q => { q with bankF := f.image.launchF.getD [] }) f.image

/-- Ranges of a discarded hand-over are cleared (R306). [DESIGN CHOICE: log 28] -/
def clearOwed (s : State) : State :=
  s.seqr.owed.foldl (fun t r => clearRange t r.1 r.2.1 r.2.2) (modSeq s fun q => { q with owed := [] })

/-- The change of bank of this equinox; entry to bank F cancels a LIVE switch-over (R479). [DESIGN CHOICE: log 27] -/
def changeBank (s : State) (level : Nat) : State :=
  match nextBank s level with
  | none => s
  | some (b, c) => startHandover (if b == 2 && s.sw.live then cancelSwitch s 3 else s) b c

/-- What SVC does after the last DRAINED: OVERFLOW, the pending season, the switch-over, the hand-over, and the merge opens. [DESIGN CHOICE: log 27, 30] -/
def guardWork (s : State) : State :=
  let s1 := raiseOverflow (reportHand (modSeq s fun q => { q with guardDone := true }))
  let level := autumnLevel s1
  let s2 := if s1.seqr.ran then modPower s1 fun p => { p with capLevel := level, next := nextSeason s1 level } else s1
  openMerge (clearOwed (changeBank (applyLive s2) level))

/-- After the last DRAINED the guard work begins. -/
def drainsDone (s : State) : State :=
  if s.seqr.killed && !s.seqr.guardDone && (liveDies s).all (fun d => (s.die d).drainedSeen) then guardWork s else s

/-- A die's DRAINED with FORCED: the epoch is PARTIAL (R59, R416). -/
def forcedDrain (s : State) (d : Die) : State :=
  let s1 := modSeq (markPartial s d) fun q => { q with cur := { q.cur with forcedDies := q.cur.forcedDies ||| 2 ^ d.code } }
  let s2 := markQueuedPartial s1
  if runsTracker s2 d then retractTentative s2 else s2

/-- A die without DRAINED 100 µs after KILL (Table 2.18). [DESIGN CHOICE: log 30] -/
def stuckDie (s : State) (d : Die) : State :=
  let s1 := raiseFrom s d (if d.isCd then 4 else 5) 0 Code.drainStuck 2
  match d.cdIdx with
  | some cd => let x := siteOf s1 cd; markPartial (dieResetNow x.2.2 cd x.1 x.2.1) d
  | none => markPartial (releaseNow (holdDie s1 d false) d) d

/-! ### The epoch that ends (R59, R66, R705, Table 1.10) -/

/-- HEALTH records that an epoch calls for each time: a frame unreported or an EYE that is unusable, no compute, and a failed
guard self-test.  The cause of a frame that is missing for want of an EYE is left open. [DESIGN CHOICE: log 30] -/
def epochHealth (s : State) : State :=
  let eyeOk := liveDie s .eye && !(s.die .eye).out
  let s1 :=
    if s.seqr.frameReported then s
    else if !eyeOk then let f := fresh s; raiseFrom f.2 .eye 1 0 Code.frameMissing 1 (args4 [f.1 % 256])
    else if s.seqr.exposeIssued && !(s.die .eye).doneSeen then raiseFrom s .eye 1 0 Code.frameMissing 1 (args4 [8])
    else s
  let s2 := if !liveDie s .cd0 || (s.seqr.bank == 2 && !fReady s) then raise s1 4 0 Code.noCompute 2 else s1
  if eyeOk && s.guard.selftestFail then raiseFrom s2 .eye 4 0 Code.egressFault 2 else s2

/-- The flags and counts of the epoch that ends, summed over all dies. -/
def epochFlags (s : State) : EpochFlags :=
  let ds := fittedDies s
  { s.seqr.cur with
    skipped := s.seqr.issued == 0, stepped := s.tb.stepPending.isSome
    late := (ds.map fun d => (s.die d).late).sum, missed := (ds.map fun d => (s.die d).missed).sum
    ratio := (ds.map fun d => (s.die d).ratio).foldl max 0 }

/-- Which AUTUMN_EPOCHS counter a season counts in. [DESIGN CHOICE: log 30] -/
def autumnIdx : Season → Option Nat
  | .a1 => some 0 | .a2 => some 1 | .a3 => some 2 | _ => none

/-- The epoch in hand is closed: its flags stand in EPOCH_STATUS, and the counters count it. [DESIGN CHOICE: log 29] -/
def closeEpoch (s : State) : State :=
  let f := epochFlags s
  let s1 := modSeq s fun q => { q with
    last := f, cur := {}, summaryDue := true, issued := 0, frameReported := false, exposeIssued := false
    degradedCount := if f.degraded then q.degradedCount + 1 else q.degradedCount
    partialCount := if f.partialEp then q.partialCount + 1 else q.partialCount }
  match autumnIdx s.power.season with
  | some i => if f.skipped then s1 else modPower s1 fun p => { p with autumnEpochs := vmod p.autumnEpochs i (· + 1) }
  | none => s1

/-- HEALTH EPOCH_SUMMARY of the last epoch, if it calls for one (R59, Table 20.12). [DESIGN CHOICE: log 29] -/
def raiseSummary (s : State) : State :=
  if !s.seqr.summaryDue then s
  else
    let f := s.seqr.last
    let s1 := modSeq s fun q => { q with summaryDue := false }
    if !(f.degraded || f.partialEp || f.eqxMiss) then s1
    else raiseFor s1 s.seqr.closed 5 0 Code.epochSummary 1 (packArgs
      [(b2n f.degraded + 2 * b2n f.partialEp + 4 * b2n f.skipped + 8 * b2n f.eqxMiss + 16 * b2n f.stepped, 1), (0, 1), (f.dies, 2),
       (min 65535 f.late, 2), (min 65535 f.missed, 2), (f.forcedDies, 2), (min 65535 f.ratio, 2)])

/-- The summary goes out once every die has answered the EQUINOX or has missed it for good. [DESIGN CHOICE: log 29] -/
def summaryCheck (s : State) : State :=
  if (liveDies s).all fun d => (s.die d).committedSeen || decide (4 ≤ (s.die d).resends) then raiseSummary s else s

/-! ### The slack controller (R647, R648) -/

/-- FLOOR above CAP is raised once per reset. -/
def floorCheck (s : State) : State :=
  if capNow s < floorNow s && !s.power.floorAboveCap then
    raise (modPower s fun p => { p with floorAboveCap := true }) 0xE 0 Code.floorAboveCap 1
  else s

/-- The target before the clamp, and the count of low epochs. -/
def slackTarget (s : State) (f : EpochFlags) : Nat × Nat :=
  let set := s.power.vcoreSet
  let up := rf s 0x00030004 23 16
  let run := if f.ratio ≤ rf s 0x00030004 15 8 then s.power.downRun + 1 else 0
  if f.partialEp then (set + 2 * up, run)
  else if 128 < f.ratio then (set + up, run)
  else if rnat s 0x0003001C ≤ run then (set - rf s 0x00030004 31 24, 0)
  else (set, run)

/-- A raise wanted at CAP is logged at most once per 10 s. -/
def slackAtCap (s : State) (want : Nat) : State :=
  let soon := match s.power.slackAtCap with | some t => decide (s.now < t + secNs 10) | none => false
  if s.power.vcoreSet < want && s.power.vcoreSet == capNow s && !soon then
    raise (modPower s fun p => { p with slackAtCap := some s.now }) 0xE 0 Code.slackAtCap 1
  else s

/-- The new setting: each change is counted and logged. -/
def slackSet (s : State) (mv : Nat) : State :=
  let old := s.power.vcoreSet
  if mv == old then s
  else raise (modPower s fun p => { p with
    vcoreSet := mv, raises := if old < mv then satAdd 65535 p.raises 1 else p.raises
    lowerings := if mv < old then satAdd 65535 p.lowerings 1 else p.lowerings }) 0xE 0 Code.vcoreStep 0

/-- The slack controller at an equinox. [DESIGN CHOICE: log 30] -/
def slackStep (s : State) (f : EpochFlags) : State :=
  if !summerOrAutumn s.power.season then s
  else
    let s1 := floorCheck s
    if !rb s1 0x00030004 0 then modPower s1 fun p => { p with vcoreSet := clampVcore s1 p.vcoreSet }
    else if s1.power.voutBad || f.skipped then s1
    else
      let t := slackTarget s1 f
      slackSet (slackAtCap (modPower s1 fun p => { p with downRun := t.2 }) t.1) (clampVcore s1 t.1)

/-! ### WINTER (R644, R645) -/

/-- The configured window opens at this equinox. -/
def openWinter (s : State) : State :=
  if !s.power.windowOpen && rb s 0x00030064 31 && timeValid s && inWindow (taiMinute s) (rf s 0x00030064 10 0) (rf s 0x00030064 26 16) then
    modPower s fun p => { p with windowOpen := true, windowLeft := false }
  else s

/-- Does a Harvest session defer a configured entry? -/
def harvestDefers (s : State) : Bool :=
  s.hv.windowOpen && (match s.hv.state with | .train | .validate | .checkpoint | .adopt => true | _ => false)

/-- A session that its die's loss ends, with its record (Table 14.7). -/
def harvestLost (s : State) : State :=
  match hvBlock s, hvCd s with
  | some b, some cd => if hvRunning s.hv.state then hvRecords (abandonSession s 6) b cd else s
  | _, _ => s

/-- WINTER at this equinox: entered (the Bool), deferred, or not due. -/
def winterStep (s : State) : Bool × State :=
  let s1 := openWinter s
  let conf := s1.power.windowOpen && !s1.power.windowLeft && s1.power.wakeHold.isNone
  if s1.power.winterReq || (conf && !harvestDefers s1) then (true, enterWinter (cancelSwitch (harvestLost s1) 4))
  else if conf then
    (false, if s1.power.deferred then s1 else raise (modPower s1 fun p => { p with deferred := true }) 0xE 0 Code.winterDeferred 1)
  else (false, modPower s1 fun p => { p with deferred := false })

/-! ### Switch-over, bank, season (R477, R642, R307) -/

/-- A LIVE switch-over takes effect (R477). -/
def finishLive (s : State) : State :=
  match s.sw.applied, s.img.facts with
  | true, some f =>
    let s1 := modSeq s fun q => { q with bank := if q.bank == 0 then 1 else 0 }
    let s2 := modBoot s1 fun b => { b with
      slot := s.sw.slot, fwAbi := f.fw.ownAbi, sqiAbi := f.sqi.ownAbi, fwRollback := f.fw.rollback, sqiRollback := f.sqi.rollback
      runSince := some s.now }
    let s3 := writeDesc s2 fun d => { d with preferred := s.sw.slot, attempts := 0 }
    raise (rput (modSwitch s3 fun _ => { lastCancel := s.sw.lastCancel }) 0x00040084 0) 6 0 Code.switched 0
  | _, _ => s

/-- The new bank becomes active. -/
def takeBank (s : State) : State :=
  match s.seqr.hand with
  | none => s
  | some h =>
    if h.sent then s
    else
      let s1 := modSeq s fun q => { q with back := if h.bank == 2 then q.bank else q.back, bank := h.bank,
                                           hand := some { h with before := q.bank, sent := true } }
      if liveDie s1 h.dst then s1 else reportHand s1

/-- The pending season takes effect, with the decimation of the level in force (Table 21.7, Table 21.13). -/
def takeSeason (s : State) : State :=
  let s1 := match s.power.next with | some x => seasonTo (modPower s fun p => { p with next := none }) x | none => s
  modSeq s1 fun q => { q with decimate := s1.power.season == .a2 || (s1.power.season == .a3 && s1.power.capLevel == 2) }

/-- After the EQUINOX token A3 switches CD1–CD3 off; below level 3 they are released again (R307). -/
def upperFollow (s : State) : State :=
  if s.power.season != .a3 then s
  else (upperCds s).foldl (fun t d =>
    let x := (t.die d).state
    if 3 ≤ t.power.capLevel then
      (if x == 0 || x == 6 then t else holdDie (if hvCd t == d.cdIdx then harvestLost t else t) d true)
    else if x == 0 then releaseNow t d
    else t) s

/-! ### The tokens (R60, R63) -/

/-- What SVC keeps of every die starts afresh; a die that is ready again rejoins (R72). -/
def rejoin (s : State) : State :=
  (fittedDies s).foldl (fun t d =>
    let live := liveDie t d
    modDie t d fun x => { x with
      late := 0, missed := 0, ratio := 0, doneSeen := false, drainedSeen := false, committedSeen := false, discardSeen := false, resends := 0
      out := x.out && !live, state := if live && t.seqr.ran then 5 else x.state
      ep := if d == .svc then t.seqr.epoch.toNat % 8 else x.ep }) s

/-- Sends the EQUINOX token of the epoch in hand to a die. [DESIGN CHOICE: log 26] -/
def equinoxToken (s : State) (discard : Bool) (d : Die) : State := svcToken s d 5 0 (b2n discard) 0 (s.seqr.epoch.toNat % 8)

/-- Retrains that waited for the EQUINOX token start (Table 5.11). -/
def startRetrains (s : State) : State :=
  (((fittedDies s).flatMap portsOf).filter fun p => (s.port p).retrainDue).foldl startRetrain s

/-- The tokens go out, and SVC's own part of the equinox follows: the policy, the VCORE command, the dies of A3. [DESIGN CHOICE: log 25] -/
def sendTokens (s : State) : State :=
  let s1 := rejoin (modSeq s fun q => { q with killed := false, merging := false, guardDone := false })
  let s2 := (liveDies s1).foldl (fun t d => equinoxToken t false d) s1
  let s3 := lstPolicy (modOtp s2 fun o => { o with policyEff := restriction s2 })
  let s4 := if s3.power.vcoreSent == 0 then s3 else sendVcore s3 (vcoreWanted s3)
  summaryCheck (upperFollow (startRetrains s4))

/-- The equinox before the first epoch run: nothing is closed (R73, R74). -/
def firstEquinox (s : State) : State :=
  let s1 := if s.seqr.guardDone then s else guardWork s
  sendTokens (takeBank (newEpoch s1))

/-- The equinox that ends an epoch, in the order of R655 and R658. -/
def laterEquinox (s : State) : State :=
  let s0 := raiseSummary s
  let s1 := epochHealth (if s0.seqr.guardDone then s0 else guardWork s0)
  let s2 := newEpoch (recordsNewEpoch (closeEpoch s1))
  let s3 := if s2.sw.state == 1 && s2.sw.live && s2.sw.e != 0 && epochReached s2.seqr.epoch s2.sw.e then cancelSwitch s2 1 else s2
  if switchReached s3 false s3.seqr.epoch then restartInto (raiseSummary s3) s3.sw.slot
  else
    let w := winterStep (takeBank (finishLive s3))
    if w.1 then raiseSummary (reportHand (rejoin (modSeq w.2 fun q => { q with killed := false, merging := false, guardDone := false })))
    else sendTokens (takeSeason (slackStep w.2 s2.seqr.last))

end Sys2Proof.Machine
end

