-- ==== Sys2Proof/Machine/Seq.lean ====
section
/-! DEFINITION. The commands of an epoch's end: queued launches, drains, the guard interval and the equinox (chapter 02), and the
end of SINK (R219). -/
namespace Sys2Proof.Machine

/-! ### Queued launches (R54) -/

/-- What starts an action, by its code (Table 2.4). -/
def startOf (vpixOk : Bool) (act : Nat) : State → Die → Nat → Launched → State :=
  match act with
  | 0x01 => startExpose false vpixOk
  | 0x02 => startExpose true vpixOk
  | 0x08 => startIsp
  | 0x09 => startRoiWindow
  | 0x10 => startGroup
  | 0x11 => startDetect
  | 0x12 => startTrack
  | 0x20 => startFoPulse
  | 0x21 => startFoSet
  | 0x22 => startFoClear
  | 0x30 => startAdcScan
  | 0x40 => startFlush
  | 0x41 => startSoftEvent
  | _ => startMark

/-- LAUNCH_DEQUEUE (R54): a unit that is free starts its queued action; `vpixOk` is the pixel supply that an EXPOSE would find. -/
def execLaunchDequeue (die : Die) (unit : Nat) (vpixOk : Bool) (s : State) : Res :=
  onUnit (fitted s die && decide (unit < 16)) (
    let x := unitOf s die unit
    match x.busy, x.queued with
    | none, some l => startEntry (modUnit s die unit fun x => { x with queued := none }) die unit l (startOf vpixOk l.act)
    | _, _ => s)

/-! ### The deadline and the drains (R57–R59, R72) -/

/-- EQUINOX_DEADLINE (R57): held records are released (R504), crops not whole are dropped (Table 16.12), items staged so far may
merge (R36), and KILL goes to every die. -/
def execEquinoxDeadline (s : State) : Res :=
  .next (
    if !s.seqr.armed || !s.seqr.ran || s.seqr.killed then s
    else
      let s1 := modPeers (releaseRecords (cropsAtDeadline s)) fun p => { p with upTo := p.order }
      let s2 := modSeq s1 fun q => { q with killed := true, guardDone := false }
      drainsDone ((liveDies s2).foldl (fun t d => svcToken t d 2 0 (b2n (!(t.die d).doneSeen)) 0 (s.seqr.epoch.toNat % 8)) s2))

/-- KILL_DRAIN (R57, Table 2.7). -/
def execKillDrain (f : SbFrame) (s : State) : Res :=
  onToken s f 2 fun s w => if nbit (tokAct w) 0 then s else drainDie s f.port.die

/-- KILL_FORCE (R57, Table 2.7). -/
def execKillForce (f : SbFrame) (s : State) : Res :=
  onToken s f 2 fun s w => if nbit (tokAct w) 0 then forceDie s f.port.die else s

/-- EPOCH_DONE_SEND (R57): every entry of the die has finished, and no token is queued. [DESIGN CHOICE: log 24] -/
def execEpochDoneSend (die : Die) (s : State) : Res :=
  onUnit (die != .svc && fitted s die) (
    let x := s.die die
    if !liveDie s die || x.doneSent || x.refusing || !dieIdle s die then s else sendDone s die)

/-- The die that a control message at SVC came from. -/
def svcFrom (r : LinkRx) (x : Parcel) : Option Die := if r.port.die == .svc then Die.ofCode x.src else none

/-- EPOCH_DONE (R56). -/
def execEpochDone (r : LinkRx) (s : State) : Res :=
  onMsg s r 1 fun s x => match svcFrom r x with
    | some d => modDie s d fun x => { x with doneSeen := true }
    | none => s

/-- DRAINED (R59, R60). -/
def execDrained (r : LinkRx) (s : State) : Res :=
  onMsg s r 2 fun s x => match svcFrom r x with
    | some d =>
      if !s.seqr.killed || (s.die d).drainedSeen then s
      else
        let s1 := modDie s d fun x => { x with drainedSeen := true }
        drainsDone (if nbit (leAt x.payload 4 1) 0 then forcedDrain s1 d else s1)
    | none => s

/-- DRAIN_STUCK (R72): 100 µs have passed since KILL. -/
def execDrainStuck (die : Die) (s : State) : Res :=
  onUnit (die != .svc && fitted s die) (
    if s.seqr.killed && liveDie s die && !(s.die die).drainedSeen then drainsDone (stuckDie s die) else s)

/-- COMMIT_FENCE (R60): the merge stops, and a hand-over range not whole starts empty (R306). -/
def execCommitFence (s : State) : Res := .next (fenceHand (modSeq s fun q => { q with merging := false }))

/-! ### The equinox (R60, R63, R71–R75) -/

/-- EQUINOX_SEND (R60): 200 ns before the epoch end. -/
def execEquinoxSend (s : State) : Res :=
  .next (if !s.seqr.armed then s else if s.seqr.ran then laterEquinox s else firstEquinox s)

/-- A monitoring slot shows the epoch that ended and starts afresh (R351). -/
def latchSlot (s : State) (cd i : Nat) : State :=
  let q := vget (s.cdie cd).slots i
  let f := if q.samples == 0 || q.sqnr != 0x8000 then (0, s) else fresh s
  let v := if q.samples == 0 then 0x8000 else if q.sqnr != 0x8000 then q.sqnr else sqnrOf q.samples q.sig q.err f.1
  modComp f.2 cd fun c => { c with slotsShown := c.slotsShown.setIfInBounds i { q with sqnr := v }, slots := c.slots.setIfInBounds i {} }

/-- A cluster at an EQUINOX token: its epoch's values latch, a change of EN takes effect, and one that a stall reset is IDLE
(R310, R315, R317). -/
def latchCluster (en : Bool) (c : Cluster) : Cluster :=
  { c with
    epBusy := c.busyNow, epWait := c.waitNow, epLate := c.lateNow, busyNow := 0, waitNow := 0, lateNow := 0, acc := []
    state := if c.state == .failed then .failed else if !en then .disabled
      else if c.state == .off || c.state == .disabled then .idle else c.state }

/-- The compute side at an EQUINOX token (R317, R387). -/
def latchCompute (s : State) (cd : Nat) : State :=
  let en := Vector.ofFn fun k : Fin 4 => rb s (cdBase cd + 0x100000 * k.val) 0
  modComp ((List.range 64).foldl (fun t i => latchSlot t cd i) s) cd fun c => { c with
    clusters := Vector.zipWith latchCluster en c.clusters
    aborted := false, inputs := [], halos := [], haloTx := [], heldRows := [], waiting := false
    count := c.countNow, countNow := {} }

/-- The detect unit at an EQUINOX token (R413, R419). -/
def latchDet (d : DetSt) : DetSt :=
  { d with
    ranked := d.rankedNow, kept := d.keptNow, zeroArea := d.zeroNow, beyondPre := d.beyondNow, live := d.liveNow, started := d.startedNow
    ended := d.endedNow, fullDrops := d.fullNow, nextId := d.nextIdNow, preOverflow := d.preOverflow, rankedNow := 0, keptNow := 0
    zeroNow := 0, beyondNow := 0, startedNow := 0, endedNow := 0, fullNow := 0 }

/-- A discarded epoch's tracks are gone (R63). [DEDUCED: log 31] -/
def undoDet (d : DetSt) : DetSt := { d with nextIdNow := d.nextId, liveNow := d.live }

/-- The ledger of a compute die at an EQUINOX token: how many lines inverted SEL, and the state after (R63). [DEDUCED: log 31] -/
def ledgerEquinox (s : State) (cd : Nat) (discard : Bool) : Nat × State :=
  let s1 := if discard then modDet (hvDiscard (ledgerDiscard s cd) cd) cd undoDet else ledgerCommit s cd
  let s2 := modFab s1 cd fun f => { f with ledgerEpoch := s.seqr.closed }
  (if discard then 0 else ledgerInverted s cd, if discard then s2 else hvEquinox s2 cd)

/-- The steps of R75 on a compute die before it records EP. [DEDUCED: log 31] -/
def cdEquinox (s : State) (cd : Nat) (discard : Bool) : Nat × State :=
  let l := ledgerEquinox s cd discard
  let s1 := modDet (latchCompute (fabEquinox l.2 cd) cd) cd latchDet
  (l.1, placeDie (rapply s1 (cdBase cd) (cdBase cd + 0x01000000)) cd s.seqr.bank)

/-- The steps of R75 on the EYE before it records EP (R255, R288, R419). [DEDUCED: log 31] -/
def eyeEquinox (s : State) : State :=
  let s1 := rapply (imageEquinox s s.seqr.closed) 0x01030000 0x02000000
  modGuard s1 fun g => { g with
    crops := 0, used := 0, budgetHit := false, windowOpen := false, waiting := [], accepted := [], indices := [], passed := [], blockRaised := false
    cropCut := bitsSet (restriction s) 4, sizeCut := bitsSet (restriction s / 16) 2 }

/-- An EQUINOX token at its die, in the order of R75; COMMITTED reports it (Table 6.16). [DESIGN CHOICE: log 26] -/
def equinoxDie (s : State) (d : Die) (ep : Nat) (discard : Bool) : State :=
  if !liveDie s d then s
  else
    let r := match d.cdIdx with
      | some cd => cdEquinox s cd discard
      | none => (0, eyeEquinox s)
    let s1 := modDie r.2 d fun x => { x with ep := ep, refusing := false, doneSent := false, drainedSent := false }
    sendMsg s1 d .svc 3 (leBytes 4 s.seqr.closed.toNat ++ leBytes 2 r.1 ++ [BitVec.ofNat 8 (b2n discard), 0])

/-- EQUINOX (R63): ACT bit 0 clear. -/
def execEquinox (f : SbFrame) (s : State) : Res :=
  onToken s f 5 fun s w => if nbit (tokAct w) 0 then s else equinoxDie s f.port.die (tokEp w) false

/-- EQUINOX_DISCARD (R63): ACT bit 0 set. [DESIGN CHOICE: log 26] -/
def execEquinoxDiscard (f : SbFrame) (s : State) : Res :=
  onToken s f 5 fun s w => if nbit (tokAct w) 0 then equinoxDie s f.port.die (tokEp w) true else s

/-- COMMITTED (R63, R72). -/
def execCommitted (r : LinkRx) (s : State) : Res :=
  onMsg s r 3 fun s x => match svcFrom r x with
    | some d =>
      let discard := nbit (leAt x.payload 6 1) 0
      let s1 := modDie s d fun x => { x with committedSeen := true, discardSeen := discard }
      let s2 := if discard then mergeDiscarded s1 d else mergeCommitted s1 d
      summaryCheck (handCommitted s2 d discard)
    | none => s

/-- The EQUINOX is missed for good: EQX_MISS of the epoch it closed, and the new epoch is DEGRADED (R72). -/
def missEquinox (s : State) (d : Die) : State :=
  markDegraded (modSeq s fun q => { q with last := { q.last with eqxMiss := true, dies := q.last.dies ||| 2 ^ d.code } }) d

/-- EQUINOX_RESEND (R72): 2 µs without COMMITTED; after three resends the token goes out with ACT bit 0 set. -/
def execEquinoxResend (die : Die) (s : State) : Res :=
  onUnit (die != .svc && fitted s die) (
    let x := s.die die
    if s.seqr.killed || !s.seqr.armed || !liveDie s die || x.committedSeen || decide (4 ≤ x.resends) then s
    else
      let s1 := modDie s die fun x => { x with resends := x.resends + 1 }
      if x.resends < 3 then equinoxToken s1 false die
      else summaryCheck (missEquinox (equinoxToken s1 true die) die))

/-! ### The end of SINK (R219) -/

/-- A parcel held in SINK is delivered, and its buffer is freed. [DESIGN CHOICE: log 51] -/
def deliverHeld (cd : Nat) (s : State) (r : LinkRx) : State :=
  let d := Die.ofCd cd
  let x := r.p
  let s1 := freeBuffer s r.port x.vc
  if !parcelOk s r.port x then
    raiseOn (modPort s1 r.port dropLow) d edlUnit r.port.port Code.classDrop 1 (args4 [x.src, x.vc, x.cls])
  else match x.vc, x.kind with
    | 0, 9 => modLine s1 cd (x.arg % 2048) fun l => mergeLine l (BitVec.ofNat 512 (leNat x.payload))
    | 0, 8 =>
      if x.arg == 0xA then ledgerClear s1 cd (leAt x.payload 0 2) (leAt x.payload 2 2)
      else if x.arg == 4 then abortAt s1 cd
      else if x.arg == 8 then takeRegReq s1 d x
      else s1
    | 5, 0 => takeMaint s1 d x
    | 5, 1 => serveRead s1 d x 5 2
    | _, _ => s1

/-- SINK ends: held parcels are delivered in order, and the die reports READY; old responses are discarded from then on. -/
def sinkEnds (s : State) (cd : Nat) : State :=
  let d := Die.ofCd cd
  let held := (s.fab cd).sinkHeld
  let s1 := modFab s cd fun f => { f with sinkHeld := [], tags := f.tags.filter fun t => !t.old }
  let s2 := (portsOf d).foldl (fun t p => modPort t p fun e => if e.pstate == .sink then { e with pstate := .up } else e) s1
  let s3 := held.foldl (deliverHeld cd) (modDie s2 d fun x => { x with state := 4 })
  sendMsg s3 d .svc 7 (leBytes 1 4 ++ leBytes 1 (s3.fab cd).gen ++ [0, 0])

/-- SINK_END (R219). -/
def execSinkEnd (cd : Nat) (s : State) : Res :=
  onUnit (cdOk s cd) (if (s.die (Die.ofCd cd)).state == 7 then sinkEnds s cd else s)

end Sys2Proof.Machine
end

