-- ==== Sys2Proof/Machine/Dispatch.lean ====
section
/-! DEFINITION. Which meaning each command has. -/
namespace Sys2Proof.Machine

/-- The effect of a command on everything but the queue. -/
def exec (i : Instr) (s : State) : Host.Outcome State Fault Refusal :=
  match i with
  | .registerWrite path addr v => Sys2Proof.Machine.execRegisterWrite path addr v s
  | .pairLoRead path addr => Sys2Proof.Machine.execPairLoRead path addr s
  | .pairLoWrite path addr v => Sys2Proof.Machine.execPairLoWrite path addr v s
  | .pairHiWrite path addr v => Sys2Proof.Machine.execPairHiWrite path addr v s
  | .ptpSyncReceive port domain offset logInterval => Sys2Proof.Machine.execPtpSyncReceive port domain offset logInterval s
  | .syncTimeout => Sys2Proof.Machine.execSyncTimeout s
  | .announceReceive port domain md => Sys2Proof.Machine.execAnnounceReceive port domain md s
  | .announceReceiptTimeout => Sys2Proof.Machine.execAnnounceReceiptTimeout s
  | .peerDelayMeasure port ns => Sys2Proof.Machine.execPeerDelayMeasure port ns s
  | .syncInEdge highNs err => Sys2Proof.Machine.execSyncInEdge highNs err s
  | .syncInMissing => Sys2Proof.Machine.execSyncInMissing s
  | .syncOutPulse => Sys2Proof.Machine.execSyncOutPulse s
  | .acqTimeoutExpire => Sys2Proof.Machine.execAcqTimeoutExpire s
  | .sequencerArm => Sys2Proof.Machine.execSequencerArm s
  | .latencyMeasure die primary alternate => Sys2Proof.Machine.execLatencyMeasure die primary alternate s
  | .echo f => Sys2Proof.Machine.execEcho f s
  | .timeUnlockedReport => Sys2Proof.Machine.execTimeUnlockedReport s
  | .launchSend entry => Sys2Proof.Machine.execLaunchSend entry s
  | .launchDequeue die unit vpixOk => Sys2Proof.Machine.execLaunchDequeue die unit vpixOk s
  | .latenessExceedsSlack die unit => Sys2Proof.Machine.execLatenessExceedsSlack die unit s
  | .softEvent f => Sys2Proof.Machine.execSoftEvent f s
  | .mark f => Sys2Proof.Machine.execMark f s
  | .equinoxDeadline => Sys2Proof.Machine.execEquinoxDeadline s
  | .killDrain f => Sys2Proof.Machine.execKillDrain f s
  | .killForce f => Sys2Proof.Machine.execKillForce f s
  | .epochDoneSend die => Sys2Proof.Machine.execEpochDoneSend die s
  | .epochDone r => Sys2Proof.Machine.execEpochDone r s
  | .drained r => Sys2Proof.Machine.execDrained r s
  | .drainStuck die => Sys2Proof.Machine.execDrainStuck die s
  | .commitFence => Sys2Proof.Machine.execCommitFence s
  | .equinoxSend => Sys2Proof.Machine.execEquinoxSend s
  | .equinox f => Sys2Proof.Machine.execEquinox f s
  | .equinoxDiscard f => Sys2Proof.Machine.execEquinoxDiscard f s
  | .committed r => Sys2Proof.Machine.execCommitted r s
  | .equinoxResend die => Sys2Proof.Machine.execEquinoxResend die s
  | .ledgerLocalWrite die line off bytes => Sys2Proof.Machine.execLedgerLocalWrite die line off bytes s
  | .ledgerWrite r => Sys2Proof.Machine.execLedgerWrite r s
  | .handoverClear r => Sys2Proof.Machine.execHandoverClear r s
  | .coldReset cause logHeaderOk => Sys2Proof.Machine.execColdReset cause logHeaderOk s
  | .warmReset cause => Sys2Proof.Machine.execWarmReset cause s
  | .startupSequence pgIn => Sys2Proof.Machine.execStartupSequence pgIn s
  | .startupStepComplete info => Sys2Proof.Machine.execStartupStepComplete info s
  | .startupStepTimeout => Sys2Proof.Machine.execStartupStepTimeout s
  | .dormantReport => Sys2Proof.Machine.execDormantReport s
  | .watchdogExpiry => Sys2Proof.Machine.execWatchdogExpiry s
  | .wdtKick path v => Sys2Proof.Machine.execWdtKick path v s
  | .dieHoldSet path die => Sys2Proof.Machine.execDieHoldSet path die s
  | .dieHoldRelease path die site mirrored guardOk => Sys2Proof.Machine.execDieHoldRelease path die site mirrored guardOk s
  | .dieReset path cd site mirrored => Sys2Proof.Machine.execDieReset path cd site mirrored s
  | .sinkEnd cd => Sys2Proof.Machine.execSinkEnd cd s
  | .dieReady r => Sys2Proof.Machine.execDieReady r s
  | .firstEpoch => Sys2Proof.Machine.execFirstEpoch s
  | .slotConfirm => Sys2Proof.Machine.execSlotConfirm s
  | .programRow path cmd a => Sys2Proof.Machine.execProgramRow path cmd a s
  | .reinforceRow path cmd a => Sys2Proof.Machine.execReinforceRow path cmd a s
  | .marginRow path cmd => Sys2Proof.Machine.execMarginRow path cmd s
  | .scan path cmd a => Sys2Proof.Machine.execScan path cmd a s
  | .lcAdvance path cmd a => Sys2Proof.Machine.execLcAdvance path cmd a s
  | .rollbackRaise path cmd a => Sys2Proof.Machine.execRollbackRaise path cmd a s
  | .policyLock path cmd a => Sys2Proof.Machine.execPolicyLock path cmd a s
  | .kwrapGen path cmd a => Sys2Proof.Machine.execKwrapGen path cmd a s
  | .otpLockSet path v => Sys2Proof.Machine.execOtpLockSet path v s
  | .debugDisableEffect => Sys2Proof.Machine.execDebugDisableEffect s
  | .linkTrain port o => Sys2Proof.Machine.execLinkTrain port o s
  | .trainStepTimeout port => Sys2Proof.Machine.execTrainStepTimeout port s
  | .lmwHello f => Sys2Proof.Machine.execLmwHello f s
  | .lmwStep f => Sys2Proof.Machine.execLmwStep f s
  | .lmwFail f => Sys2Proof.Machine.execLmwFail f s
  | .lmwSteer f => Sys2Proof.Machine.execLmwSteer f s
  | .lmwSteerAck f => Sys2Proof.Machine.execLmwSteerAck f s
  | .lmwRetrain f => Sys2Proof.Machine.execLmwRetrain f s
  | .lmwResend port => Sys2Proof.Machine.execLmwResend port s
  | .retrainRequest path port => Sys2Proof.Machine.execRetrainRequest path port s
  | .sbLost port => Sys2Proof.Machine.execSbLost port s
  | .sbRetry port => Sys2Proof.Machine.execSbRetry port s
  | .bundleClkLost port bundle => Sys2Proof.Machine.execBundleClkLost port bundle s
  | .linkSupplyFault port => Sys2Proof.Machine.execLinkSupplyFault port s
  | .parcelSlot port => Sys2Proof.Machine.execParcelSlot port s
  | .parcelCrcFail port => Sys2Proof.Machine.execParcelCrcFail port s
  | .nul r freed => Sys2Proof.Machine.execNul r freed s
  | .nulDue port => Sys2Proof.Machine.execNulDue port s
  | .replayTimeout port => Sys2Proof.Machine.execReplayTimeout port s
  | .resume r => Sys2Proof.Machine.execResume r s
  | .resumeTimeout port => Sys2Proof.Machine.execResumeTimeout port s
  | .portIsolate path port => Sys2Proof.Machine.execPortIsolate path port s
  | .isolationDetect port => Sys2Proof.Machine.execIsolationDetect port s
  | .cap port c => Sys2Proof.Machine.execCap port c s
  | .agree port c => Sys2Proof.Machine.execAgree port c s
  | .soak port crcOk wrong => Sys2Proof.Machine.execSoak port crcOk wrong s
  | .soakEnd port => Sys2Proof.Machine.execSoakEnd port s
  | .init port soakSeen => Sys2Proof.Machine.execInit port soakSeen s
  | .negTimeout port => Sys2Proof.Machine.execNegTimeout port s
  | .negotiationResend port => Sys2Proof.Machine.execNegotiationResend port s
  | .regReq r => Sys2Proof.Machine.execRegReq r s
  | .regResp r => Sys2Proof.Machine.execRegResp r s
  | .regAccessTimeout => Sys2Proof.Machine.execRegAccessTimeout s
  | .vc5Write r => Sys2Proof.Machine.execVc5Write r s
  | .vc5Read r => Sys2Proof.Machine.execVc5Read r s
  | .vc5ReadResp r => Sys2Proof.Machine.execVc5ReadResp r s
  | .remoteLoad cd src lines dst nc => Sys2Proof.Machine.execRemoteLoad cd src lines dst nc s
  | .readRequest r => Sys2Proof.Machine.execReadRequest r s
  | .readResponse r => Sys2Proof.Machine.execReadResponse r s
  | .readTimeout cd tag => Sys2Proof.Machine.execReadTimeout cd tag s
  | .masterEnWrite path cd v => Sys2Proof.Machine.execMasterEnWrite path cd v s
  | .stuckTimeout cd => Sys2Proof.Machine.execStuckTimeout cd s
  | .remoteCacheDisable path cd => Sys2Proof.Machine.execRemoteCacheDisable path cd s
  | .scrubRead cd => Sys2Proof.Machine.execScrubRead cd s
  | .weightChunkRewrite cd seg chunks => Sys2Proof.Machine.execWeightChunkRewrite cd seg chunks s
  | .eccUncorrectable cd cluster addr => Sys2Proof.Machine.execEccUncorrectable cd cluster addr s
  | .expose f vpixOk => Sys2Proof.Machine.execExpose f vpixOk s
  | .exposeHdr f vpixOk => Sys2Proof.Machine.execExposeHdr f vpixOk s
  | .sensorCalDone aOk bOk => Sys2Proof.Machine.execSensorCalDone aOk bOk s
  | .calTimeout => Sys2Proof.Machine.execCalTimeout s
  | .exposureEnd => Sys2Proof.Machine.execExposureEnd s
  | .bankPowerUp => Sys2Proof.Machine.execBankPowerUp s
  | .rowConverted long short => Sys2Proof.Machine.execRowConverted long short s
  | .vpixFault => Sys2Proof.Machine.execVpixFault s
  | .seqClockLost => Sys2Proof.Machine.execSeqClockLost s
  | .seqClockRelock => Sys2Proof.Machine.execSeqClockRelock s
  | .ispStart f => Sys2Proof.Machine.execIspStart f s
  | .ispRowProcess len index frameEnd lineEcc toneEcc => Sys2Proof.Machine.execIspRowProcess len index frameEnd lineEcc toneEcc s
  | .frameTimeout => Sys2Proof.Machine.execFrameTimeout s
  | .runGroup f => Sys2Proof.Machine.execRunGroup f s
  | .stream r => Sys2Proof.Machine.execStream r s
  | .frameAbort r => Sys2Proof.Machine.execFrameAbort r s
  | .groupBandProcess cd cluster jobs wide fault hv => Sys2Proof.Machine.execGroupBandProcess cd cluster jobs wide fault hv s
  | .halo r => Sys2Proof.Machine.execHalo r s
  | .commit f => Sys2Proof.Machine.execCommit f s
  | .revoke f => Sys2Proof.Machine.execRevoke f s
  | .clusterStall cd cluster => Sys2Proof.Machine.execClusterStall cd cluster s
  | .speedMonitorSample cd msteps => Sys2Proof.Machine.execSpeedMonitorSample cd msteps s
  | .speedLow cd cluster => Sys2Proof.Machine.execSpeedLow cd cluster s
  | .detect f => Sys2Proof.Machine.execDetect f s
  | .detectStart cd => Sys2Proof.Machine.execDetectStart cd s
  | .detectStall cd => Sys2Proof.Machine.execDetectStall cd s
  | .track f => Sys2Proof.Machine.execTrack f s
  | .roiWindow f => Sys2Proof.Machine.execRoiWindow f s
  | .roiWindowClose => Sys2Proof.Machine.execRoiWindowClose s
  | .cropRequest r => Sys2Proof.Machine.execCropRequest r s
  | .cropProcess => Sys2Proof.Machine.execCropProcess s
  | .roiResult r => Sys2Proof.Machine.execRoiResult r s
  | .egressBudget r => Sys2Proof.Machine.execEgressBudget r s
  | .hvStart path v => Sys2Proof.Machine.execHvStart path v s
  | .hvCancel path v => Sys2Proof.Machine.execHvCancel path v s
  | .hvRevertBaseline path v => Sys2Proof.Machine.execHvRevertBaseline path v s
  | .harvestCheckpointWrite flashOk => Sys2Proof.Machine.execHarvestCheckpointWrite flashOk s
  | .hello m host hnonce => Sys2Proof.Machine.execHello m host hnonce s
  | .read m addr count => Sys2Proof.Machine.execRead m addr count s
  | .write m addr words => Sys2Proof.Machine.execWrite m addr words s
  | .read64 m addr count => Sys2Proof.Machine.execRead64 m addr count s
  | .claim m priority => Sys2Proof.Machine.execClaim m priority s
  | .heartbeat m => Sys2Proof.Machine.execHeartbeat m s
  | .release m successor => Sys2Proof.Machine.execRelease m successor s
  | .ownerQuery m => Sys2Proof.Machine.execOwnerQuery m s
  | .contestEnd => Sys2Proof.Machine.execContestEnd s
  | .leaseExpire => Sys2Proof.Machine.execLeaseExpire s
  | .successionEnd => Sys2Proof.Machine.execSuccessionEnd s
  | .sessionTimeout host => Sys2Proof.Machine.execSessionTimeout host s
  | .stageBegin m slot size sha => Sys2Proof.Machine.execStageBegin m slot size sha s
  | .stageData m offset data flashOk => Sys2Proof.Machine.execStageData m offset data flashOk s
  | .stageEnd m => Sys2Proof.Machine.execStageEnd m s
  | .stageCheckDone hashOk facts => Sys2Proof.Machine.execStageCheckDone hashOk facts s
  | .switch m slot mode e => Sys2Proof.Machine.execSwitch m slot mode e s
  | .switchReady chunkOk => Sys2Proof.Machine.execSwitchReady chunkOk s
  | .switchCancel m => Sys2Proof.Machine.execSwitchCancel m s
  | .configCommit m mode flashOk => Sys2Proof.Machine.execConfigCommit m mode flashOk s
  | .setKey m slot op key flashOk => Sys2Proof.Machine.execSetKey m slot op key flashOk s
  | .keystoreBadReport => Sys2Proof.Machine.execKeystoreBadReport s
  | .logRead m start count => Sys2Proof.Machine.execLogRead m start count s
  | .logStatus m => Sys2Proof.Machine.execLogStatus m s
  | .logClear m => Sys2Proof.Machine.execLogClear m s
  | .logUnfreeze m => Sys2Proof.Machine.execLogUnfreeze m s
  | .phyLinkChange port up fdx => Sys2Proof.Machine.execPhyLinkChange port up fdx s
  | .portHoldEnd port => Sys2Proof.Machine.execPortHoldEnd port s
  | .frameForward f => Sys2Proof.Machine.execFrameForward f s
  | .dhcpLeaseBound l => Sys2Proof.Machine.execDhcpLeaseBound l s
  | .dhcpTimeout expired => Sys2Proof.Machine.execDhcpTimeout expired s
  | .dhcpRenew rebind answer => Sys2Proof.Machine.execDhcpRenew rebind answer s
  | .leaseRetry => Sys2Proof.Machine.execLeaseRetry s
  | .addrConflict => Sys2Proof.Machine.execAddrConflict s
  | .addressTableAgeing mac => Sys2Proof.Machine.execAddressTableAgeing mac s
  | .flush f => Sys2Proof.Machine.execFlush f s
  | .recordParcel r => Sys2Proof.Machine.execRecordParcel r s
  | .roiEncode => Sys2Proof.Machine.execRoiEncode s
  | .datagramTimeout => Sys2Proof.Machine.execDatagramTimeout s
  | .datagramSend => Sys2Proof.Machine.execDatagramSend s
  | .statusReport => Sys2Proof.Machine.execStatusReport s
  | .announceSend => Sys2Proof.Machine.execAnnounceSend s
  | .peerAnnounce p a => Sys2Proof.Machine.execPeerAnnounce p a s
  | .peerEmbed p items => Sys2Proof.Machine.execPeerEmbed p items s
  | .peerBye p => Sys2Proof.Machine.execPeerBye p s
  | .peerAgeOut mac => Sys2Proof.Machine.execPeerAgeOut mac s
  | .audioFrame x0 x1 scores bias0 bias1 recogEcc => Sys2Proof.Machine.execAudioFrame x0 x1 scores bias0 bias1 recogEcc s
  | .listenerStartDone => Sys2Proof.Machine.execListenerStartDone s
  | .listenerSelftest path v => Sys2Proof.Machine.execListenerSelftest path v s
  | .selftestDone level0 level1 => Sys2Proof.Machine.execSelftestDone level0 level1 s
  | .micBiasShort mic => Sys2Proof.Machine.execMicBiasShort mic s
  | .micBiasRetry mic => Sys2Proof.Machine.execMicBiasRetry mic s
  | .micOpen mic => Sys2Proof.Machine.execMicOpen mic s
  | .micOpenCleared mic => Sys2Proof.Machine.execMicOpenCleared mic s
  | .micSilent mic => Sys2Proof.Machine.execMicSilent mic s
  | .modClockLost => Sys2Proof.Machine.execModClockLost s
  | .listenerWatchdog => Sys2Proof.Machine.execListenerWatchdog s
  | .adcScan f => Sys2Proof.Machine.execAdcScan f s
  | .hkCalibrate conv ok => Sys2Proof.Machine.execHkCalibrate conv ok s
  | .hkRefresh conv drifted => Sys2Proof.Machine.execHkRefresh conv drifted s
  | .hkConversion conv x => Sys2Proof.Machine.execHkConversion conv x s
  | .hkUrgent path v => Sys2Proof.Machine.execHkUrgent path v s
  | .hkQRead path => Sys2Proof.Machine.execHkQRead path s
  | .hkMmClr path v => Sys2Proof.Machine.execHkMmClr path v s
  | .xcPair a b => Sys2Proof.Machine.execXcPair a b s
  | .hkClockLost => Sys2Proof.Machine.execHkClockLost s
  | .foPulse f => Sys2Proof.Machine.execFoPulse f s
  | .foSet f => Sys2Proof.Machine.execFoSet f s
  | .foClear f => Sys2Proof.Machine.execFoClear f s
  | .foPulseEnd out => Sys2Proof.Machine.execFoPulseEnd out s
  | .foOutWrite path v => Sys2Proof.Machine.execFoOutWrite path v s
  | .foFaultLatch kind out other => Sys2Proof.Machine.execFoFaultLatch kind out other s
  | .foOpenLoad out => Sys2Proof.Machine.execFoOpenLoad out s
  | .foRetry out => Sys2Proof.Machine.execFoRetry out s
  | .foRetryRestore out => Sys2Proof.Machine.execFoRetryRestore out s
  | .foFaultClear path v => Sys2Proof.Machine.execFoFaultClear path v s
  | .foThermalRelease out => Sys2Proof.Machine.execFoThermalRelease out s
  | .foUvlo => Sys2Proof.Machine.execFoUvlo s
  | .foUvloRecover => Sys2Proof.Machine.execFoUvloRecover s
  | .tamperSample e c inRange => Sys2Proof.Machine.execTamperSample e c inRange s
  | .persistentOcclusion e => Sys2Proof.Machine.execPersistentOcclusion e s
  | .tamperRebaseline path v => Sys2Proof.Machine.execTamperRebaseline path v s
  | .tamperFault e => Sys2Proof.Machine.execTamperFault e s
  | .shieldFault => Sys2Proof.Machine.execShieldFault s
  | .i2cTargetTransaction dev addr data readWords => Sys2Proof.Machine.execI2cTargetTransaction dev addr data readWords s
  | .i2cControllerXfer path v busFree r => Sys2Proof.Machine.execI2cControllerXfer path v busFree r s
  | .i2cBusFree r => Sys2Proof.Machine.execI2cBusFree r s
  | .i2cArbRetry r => Sys2Proof.Machine.execI2cArbRetry r s
  | .i2cBusStuck freed => Sys2Proof.Machine.execI2cBusStuck freed s
  | .pmAlert status busOk => Sys2Proof.Machine.execPmAlert status busOk s
  | .vcoreTelemetry vout iout pout => Sys2Proof.Machine.execVcoreTelemetry vout iout pout s
  | .gpioEdge pin rising => Sys2Proof.Machine.execGpioEdge pin rising s
  | .flashBusyTimeout => Sys2Proof.Machine.execFlashBusyTimeout s
  | .cvStart path ctx ctrl => Sys2Proof.Machine.execCvStart path ctx ctrl s
  | .cvDataWrite path ctx bytes v => Sys2Proof.Machine.execCvDataWrite path ctx bytes v s
  | .cvStateWrite path ctx v => Sys2Proof.Machine.execCvStateWrite path ctx v s
  | .cvDmaGo path ctx ctrl => Sys2Proof.Machine.execCvDmaGo path ctx ctrl s
  | .cvDmaDone ctx eccError => Sys2Proof.Machine.execCvDmaDone ctx eccError s
  | .cvFinish path ctx ctrl => Sys2Proof.Machine.execCvFinish path ctx ctrl s
  | .checkEngineWatchdog => Sys2Proof.Machine.execCheckEngineWatchdog s
  | .logEvent e => Sys2Proof.Machine.execLogEvent e s
  | .logWrite => Sys2Proof.Machine.execLogWrite s
  | .logCmdClear path v => Sys2Proof.Machine.execLogCmdClear path v s
  | .logCmdUnfreeze path v => Sys2Proof.Machine.execLogCmdUnfreeze path v s
  | .logRdDataRead path w eccError => Sys2Proof.Machine.execLogRdDataRead path w eccError s
  | .logWriterWatchdog => Sys2Proof.Machine.execLogWriterWatchdog s
  | .event r => Sys2Proof.Machine.execEvent r s
  | .thermalSample temps => Sys2Proof.Machine.execThermalSample temps s
  | .thermalStopExit => Sys2Proof.Machine.execThermalStopExit s
  | .powerLevelEval => Sys2Proof.Machine.execPowerLevelEval s
  | .seasonCmdWinter path v => Sys2Proof.Machine.execSeasonCmdWinter path v s
  | .seasonCmdLeave path v => Sys2Proof.Machine.execSeasonCmdLeave path v s
  | .springBringup => Sys2Proof.Machine.execSpringBringup s
  | .wakeHoldExpire => Sys2Proof.Machine.execWakeHoldExpire s
  | .winterWindowClose => Sys2Proof.Machine.execWinterWindowClose s
  | .vcoreFault => Sys2Proof.Machine.execVcoreFault s
  | .railFault vana => Sys2Proof.Machine.execRailFault vana s
  | .vsysBrownout => Sys2Proof.Machine.execVsysBrownout s
  | .domainPowerFault d => Sys2Proof.Machine.execDomainPowerFault d s
  | .clockLossHalt => Sys2Proof.Machine.execClockLossHalt s

end Sys2Proof.Machine
end

