-- ==== Sys2Proof/Machine/Step.lean ====
section
/-! DEFINITION. One step: the command at the front of the queue; on an empty queue, a tick of the timebase. -/
namespace Sys2Proof.Machine

/-- One step (DESIGN CHOICE: on an empty queue 8 ns of LTIME pass, R41). [DESIGN CHOICE: log 1] -/
def step (s : State) : Host.Outcome State Fault Refusal :=
  match s.pending with
  | c :: cs => exec c { s with pending := cs }
  | [] => .next (tick s)

/-- The state with a table word's command in front: the table gives no bits, so a word spells none. [DESIGN CHOICE: log 6] -/
def State.withFetchWord (s : State) (nbits w : Nat) : State :=
  match Sys2Proof.decodeTableWord nbits w with
  | some c => { s with pending := c :: s.pending }
  | none => s

end Sys2Proof.Machine
end

