-- ==== Sys2Proof/WellFormed.lean ====
section
/-! DEFINITION. Which operands a command may carry: numbers of units the part has, and fields that fit their
widths. -/
namespace Sys2Proof

/-- The fields of a parcel fit Table 6.1. -/
def Parcel.wf (p : Parcel) : Bool :=
  p.src < 16 && p.dst < 16 && p.vc < 6 && p.cls < 16 && p.kind < 16 && p.gen < 16 && p.tag < 256 && p.ep < 16 &&
  p.plen ≤ 1024 && p.arg < 2 ^ 32 && p.payload.length == p.plen

/-- The fields of a trailer fit Table 6.2. -/
def Trailer.wf (t : Trailer) : Bool := t.seq < 1024 && t.ack < 1024 && t.cvc < 8 && t.cnt < 2 ^ 16

/-- A received parcel names a port that exists. -/
def LinkRx.wf (r : LinkRx) : Bool := r.port.valid && r.p.wf && r.t.wf

/-- A sideband frame names a port that exists. -/
def SbFrame.wf (f : SbFrame) : Bool := f.port.valid

/-- A command's operands name units the part has. -/
def Instr.wellFormed : Instr → Bool
  | .ptpSyncReceive p .. | .announceReceive p .. | .peerDelayMeasure p _ | .portHoldEnd p | .phyLinkChange p .. => p < 2
  | .frameForward f => f.inPort < 3
  | .launchSend n => n < 512
  | .latencyMeasure d p a => d != .svc && p.length == 16 && a.length == 16
  | .launchDequeue _ u _ | .latenessExceedsSlack _ u => u < 16
  | .epochDoneSend d | .drainStuck d | .equinoxResend d => d != .svc
  | .ledgerLocalWrite d l o bs => d.isCd && l < 2048 && o + bs.length ≤ 64
  | .dieReset _ cd .. | .sinkEnd cd | .remoteLoad cd .. | .masterEnWrite _ cd _ | .stuckTimeout cd
  | .remoteCacheDisable _ cd | .scrubRead cd | .speedMonitorSample cd _ | .detectStart cd | .detectStall cd => cd < 4
  | .dieHoldSet _ d | .dieHoldRelease _ d .. => d != .svc
  | .readTimeout cd tag => cd < 4 && tag < 256
  | .weightChunkRewrite cd seg _ => cd < 4 && seg < 64
  | .eccUncorrectable cd cl _ | .groupBandProcess cd cl .. | .clusterStall cd cl | .speedLow cd cl => cd < 4 && cl < 4
  | .linkTrain p _ | .trainStepTimeout p | .lmwResend p | .retrainRequest _ p | .sbLost p | .sbRetry p
  | .linkSupplyFault p | .parcelSlot p | .parcelCrcFail p | .nulDue p | .replayTimeout p | .resumeTimeout p
  | .portIsolate _ p | .isolationDetect p | .cap p _ | .agree p _ | .soak p .. | .soakEnd p | .init p _ | .negTimeout p
  | .negotiationResend p => p.valid
  | .bundleClkLost p b => p.valid && b < 2
  | .echo f | .softEvent f | .mark f | .killDrain f | .killForce f | .equinox f | .equinoxDiscard f | .lmwHello f
  | .lmwStep f | .lmwFail f | .lmwSteer f | .lmwSteerAck f | .lmwRetrain f | .expose f _ | .exposeHdr f _ | .ispStart f
  | .runGroup f | .commit f | .revoke f | .detect f | .track f | .roiWindow f | .flush f | .adcScan f | .foPulse f
  | .foSet f | .foClear f => f.wf
  | .handoverClear r | .epochDone r | .drained r | .committed r | .ledgerWrite r | .dieReady r | .resume r | .regReq r
  | .regResp r | .vc5Write r | .vc5Read r | .vc5ReadResp r | .readRequest r | .readResponse r | .stream r
  | .frameAbort r | .halo r | .cropRequest r | .roiResult r | .egressBudget r | .recordParcel r | .event r => r.wf
  | .nul r freed => r.wf && freed.length == 6
  | .micBiasShort m | .micBiasRetry m | .micOpen m | .micOpenCleared m | .micSilent m => m < 2
  | .foPulseEnd o | .foOpenLoad o | .foRetry o | .foRetryRestore o | .foThermalRelease o => o < 4
  | .foFaultLatch _ o q => o < 4 && q < 4
  | .tamperSample e .. | .persistentOcclusion e | .tamperFault e => e < 2
  | .gpioEdge p _ => p < 8
  | .cvStart _ c _ | .cvDataWrite _ c .. | .cvStateWrite _ c _ | .cvDmaGo _ c _ | .cvDmaDone c _ | .cvFinish _ c _ => c < 4
  | .logRdDataRead _ w _ => w < 8
  | .domainPowerFault d => d < 76
  | .thermalSample ts => ts.length == 6
  | .registerWrite .. | .pairLoRead .. | .pairLoWrite .. | .pairHiWrite .. | .syncTimeout | .announceReceiptTimeout
  | .syncInEdge .. | .syncInMissing | .syncOutPulse | .acqTimeoutExpire | .sequencerArm | .timeUnlockedReport
  | .equinoxDeadline | .commitFence | .equinoxSend | .coldReset .. | .warmReset _ | .startupSequence _
  | .startupStepComplete _ | .startupStepTimeout | .dormantReport | .watchdogExpiry | .wdtKick .. | .firstEpoch | .slotConfirm
  | .programRow .. | .reinforceRow .. | .marginRow .. | .scan .. | .lcAdvance .. | .rollbackRaise .. | .policyLock ..
  | .kwrapGen .. | .otpLockSet .. | .debugDisableEffect | .regAccessTimeout | .sensorCalDone .. | .calTimeout | .exposureEnd
  | .bankPowerUp | .rowConverted .. | .vpixFault | .seqClockLost | .seqClockRelock | .ispRowProcess .. | .frameTimeout
  | .roiWindowClose | .cropProcess | .hvStart .. | .hvCancel .. | .hvRevertBaseline .. | .harvestCheckpointWrite _
  | .hello .. | .read .. | .write .. | .read64 .. | .claim .. | .heartbeat _ | .release .. | .ownerQuery _ | .contestEnd
  | .leaseExpire | .successionEnd | .sessionTimeout _ | .stageBegin .. | .stageData .. | .stageEnd _ | .stageCheckDone ..
  | .switch .. | .switchReady _ | .switchCancel _ | .configCommit .. | .setKey .. | .keystoreBadReport | .logRead ..
  | .logStatus _ | .logClear _ | .logUnfreeze _ | .dhcpLeaseBound _ | .dhcpTimeout _ | .dhcpRenew .. | .leaseRetry
  | .addrConflict | .addressTableAgeing _ | .roiEncode | .datagramTimeout | .datagramSend | .statusReport | .announceSend
  | .peerAnnounce .. | .peerEmbed .. | .peerBye _ | .peerAgeOut _ | .audioFrame .. | .listenerStartDone
  | .listenerSelftest .. | .selftestDone .. | .modClockLost | .listenerWatchdog | .hkCalibrate .. | .hkRefresh ..
  | .hkConversion .. | .hkUrgent .. | .hkQRead _ | .hkMmClr .. | .xcPair .. | .hkClockLost | .foOutWrite .. | .foFaultClear ..
  | .foUvlo | .foUvloRecover | .tamperRebaseline .. | .shieldFault | .i2cTargetTransaction .. | .i2cControllerXfer ..
  | .i2cBusFree _ | .i2cArbRetry _ | .i2cBusStuck _ | .pmAlert .. | .vcoreTelemetry .. | .flashBusyTimeout
  | .checkEngineWatchdog | .logEvent _ | .logWrite | .logCmdClear .. | .logCmdUnfreeze .. | .logWriterWatchdog
  | .thermalStopExit | .powerLevelEval | .seasonCmdWinter .. | .seasonCmdLeave .. | .springBringup | .wakeHoldExpire
  | .winterWindowClose | .vcoreFault | .railFault _ | .vsysBrownout | .clockLossHalt => true

end Sys2Proof
end

