-- ==== Sys2Proof/Safety.lean ====
section
/-! DEFINITION. What a sound state of the block is, in the terms the statements use. -/
namespace Sys2Proof.Machine

/-- Memory is in its canonical form: addresses strictly rising, no byte listed that an unlisted address reads as. -/
def MemoryCanonical (s : State) : Prop := Memory.wf s.mem

/-- No ledger line of any die holds DX and DP both set (R61). -/
def CleanLedgers (l : Vector (List (Nat × LedgerLine)) 4) : Prop := ∀ cd, ∀ e ∈ vget l cd, ¬(e.2.dx = true ∧ e.2.dp = true)

/-- No ledger line of the part holds DX and DP both set (R61). -/
def NoDxWithDp (s : State) : Prop := CleanLedgers s.ledgers

/-- The bits programmed in one OTP macro are programmed in another: those of every physical row, spares from 512 on, and of every
copy of a redirection entry (R107, R108). -/
def OtpGrows (a b : OtpSt) : Prop :=
  (∀ p, physBits a p &&& ~~~(physBits b p) = 0) ∧
  ∀ k, (vget a.redir k).c0 &&& ~~~(vget b.redir k).c0 = 0 ∧ (vget a.redir k).c1 &&& ~~~(vget b.redir k).c1 = 0 ∧
    (vget a.redir k).c2 &&& ~~~(vget b.redir k).c2 = 0

/-- The trouble log keeps its sizes: 4096 records, 16 entries in the intake, 4 in the fatal queue (R613, R618). -/
def LogSized (l : LogSt) : Prop := l.ring.length ≤ 4096 ∧ l.intake.length ≤ 16 ∧ l.fatal.length ≤ 4

/-- Every event outbox holds at most 8 entries (R617). -/
def OutboxesSized (o : Vector Outbox 6) : Prop := ∀ d, (vget o d).entries.length ≤ 8

/-- Every command that waits in the queue is well formed. -/
def QueueWellFormed (s : State) : Prop := ∀ c ∈ s.pending, c.wellFormed = true

/-! ### Terms of the statements -/

/-- The SVC registers whose write does more than store the register. -/
def actsOnWrite (a : Nat) : Bool :=
  [0x00010004, 0x00010008, 0x0001001C, 0x00010034, 0x00020004, 0x00020008, 0x00020014, 0x00030008, 0x0003000C, 0x00040000, 0x00040408,
   0x00050000, 0x00050014, 0x00050018, 0x0005001C, 0x00080000, 0x00090000, 0x00090004, 0x00090014, 0x000903F0, 0x000903F4, 0x000A0014,
   0x000A001C, 0x000B0000, 0x000B0008, 0x000C0004, 0x000C0328, 0x000E0020, 0x000E0024].contains a ||
  (decide (0x000A0000 ≤ a) && decide (a < 0x000A0010)) || (decide (0x000D0000 ≤ a) && decide (a < 0x000D0400)) ||
  (decide (0x000F0000 ≤ a) && decide (a < 0x000F2000))

/-- A LAUNCH token for an action has been taken at a port by a die that takes launches, in its epoch, for a unit that is idle. -/
abbrev LaunchReady (s : State) (f : SbFrame) (act : Nat) (w : BitVec 48) (s1 : State) (e : LaunchEntry) : Prop :=
  portOk s f.port = true ∧ takeToken s f = (some w, s1) ∧ tokType w = 1 ∧ tokAct w = act ∧
  tokEp w = (s1.die f.port.die).ep % 8 ∧ takesLaunches s1 f.port.die = true ∧ (s1.die f.port.die).refusing = false ∧
  entryOf s1 (tokEntry w) = some e ∧ unitIdle (unitOf s1 f.port.die (tokUnit w % 16)) = true

/-- The entry a token launches, arrived now. -/
def launchedBy (s : State) (w : BitVec 48) (e : LaunchEntry) : Launched :=
  { act := tokAct w, entry := tokEntry w, arg := e.arg, slack := e.slack, arrived := s.now, late := false }

/-- The state with an entry running on a unit of a die, started with no lateness. -/
def running (s : State) (d : Die) (u : Nat) (l : Launched) : State :=
  noteLateness (modUnit s d u fun x => { x with busy := some l }) d 0 l.slack.toNat

/-- A request of a session as the device answers it. -/
def askNow (s : State) (m : BcpEnv) (typ : Nat) (x : Session) : Ask :=
  { m := m, typ := typ, host := x.host, nonce := x.nonce, key := keyAt s (levelOf m), live := true }

/-- The state in which an accepted request is carried out: the session has heard from its host, the rates are counted, the SEQ is taken. -/
def acceptedState (s : State) (m : BcpEnv) (typ : Nat) (x : Session) : State :=
  acceptAsk (rateSession (rateAll (hearFrom s x.host m)).2 x).2 (askNow s m typ x)

/-- BCP serves, and a request of a type and payload is a session's, well formed, authentic, new by its SEQ and within the rates. -/
abbrev BcpAccepts (s : State) (m : BcpEnv) (typ : Nat) (payload : List Byte) (x : Session) : Prop :=
  bcpServes s m = true ∧ m.headerOk = true ∧ m.version = 1 ∧ m.lenOk = true ∧ sessionOf s m.sender = some x ∧
  (authOk s m typ payload x.nonce).1 = true ∧ x.kept.find? (fun e => e.1 == m.seq) = none ∧ x.highest < m.seq ∧
  (rateAll (hearFrom s x.host m)).1 = true ∧ (rateSession (rateAll (hearFrom s x.host m)).2 x).1 = true

/-- The same for an owner-only request: its host owns the part, at the level of the request. -/
abbrev OwnerAsks (s : State) (m : BcpEnv) (typ : Nat) (payload : List Byte) (x : Session) : Prop :=
  BcpAccepts s m typ payload x ∧ isOwner s x.host = true ∧ s.bcp.owner.map (·.level) = some (levelOf m)

end Sys2Proof.Machine
end

