-- ==== Sys2Proof/Certificates/Slice0/Obligations.lean ====
section
/-! DEFINITION. The statements for the provers. -/

section
open Sys2Proof Sys2Proof.Machine

/-- A step runs the command in front of the queue on the queue's rest (spec/00_scope.md). Where no rule speaks it says the
model's choice: log entry 1. -/
def Obligations.StepRunsFrontCommand : Prop :=
  ∀ (c : Instr) (s : State), step { s with pending := c :: s.pending } = exec c s

/-- With no command waiting a step is one 8 ns tick of the timebase (spec/02_epochs_and_shared_time.md). Where no rule
speaks it says the model's choice: log entry 1. -/
def Obligations.IdleStepTicks : Prop :=
  (∀ (s : State), s.pending = [] →
      ∃ t, step s = .next t ∧ t = { s with tb := t.tb, now := s.now + 8 } ∧ t.tb.state = s.tb.state ∧ t.tb.rate = s.tb.rate ∧
        (s.tb.rate = 0 → s.tb.slew = 0 → s.tb.frac = 0 → t.tb = { s.tb with ltime := s.tb.ltime + 8 }))

/-- Every command answers a next state, or the fault that names a unit the part does not have; none is refused
(spec/00_scope.md). Where no rule speaks it says the model's choice: log entry 2. -/
def Obligations.EveryCommandAnswers : Prop :=
  ∀ (i : Instr) (s : State), (∃ t, exec i s = .next t) ∨ exec i s = .fault .noSuchUnit

/-- No command changes the queue, which part this is, or the clock that only ticks move (spec/00_scope.md). Where no rule
speaks it says the model's choice: log entry 1. -/
def Obligations.CommandsKeepQueueAndPart : Prop :=
  ∀ (i : Instr) (s t : State), exec i s = .next t → t.pending = s.pending ∧ t.part = s.part ∧ t.now = s.now

/-- Every step keeps memory in its canonical form: addresses strictly rising and no byte listed that reads 0 (R230). Where
no rule speaks it says the model's choice: log entry 3. -/
def Obligations.MemoryStaysCanonical : Prop :=
  ∀ (s t : State), MemoryCanonical s → step s = .next t → MemoryCanonical t

/-- No ledger line of any die ever has DX and DP set together (R61). -/
def Obligations.NoDxWithDpKept : Prop :=
  ∀ (s t : State), NoDxWithDp s → step s = .next t → NoDxWithDp t

/-- No step clears a programmed OTP bit, in a row, a spare or a redirection entry (R107, R108). Where no rule speaks it
says the model's choice: log entry 43. -/
def Obligations.OtpBitsNeverClear : Prop :=
  ∀ (s t : State), step s = .next t → OtpGrows s.otp t.otp

/-- The trouble log keeps at most 4096 records, 16 intake and 4 fatal entries, and every outbox at most 8 (R613, R617,
R618). -/
def Obligations.LogsKeepTheirSizes : Prop :=
  ∀ (s t : State), LogSized s.log ∧ OutboxesSized s.outboxes → step s = .next t → LogSized t.log ∧ OutboxesSized t.outboxes

/-- The state after reset meets the invariants: memory, ledgers, log and outboxes, and its queue is well formed (R61,
R230, R613, R617, R618). Where no rule speaks it says the model's choice: log entries 3, 4, 6. -/
def Obligations.ResetMeetsInvariants : Prop :=
  MemoryCanonical State.reset ∧ NoDxWithDp State.reset ∧ LogSized State.reset.log ∧ OutboxesSized State.reset.outboxes ∧
  QueueWellFormed State.reset

/-- A register write stores the writable fields or is refused whole; a pair reads and writes through the path's own
shadows (R4, R6, R8, R11). Where no rule speaks it says the model's choice: log entries 9, 14. -/
def Obligations.RegisterAccess : Prop :=
  (∀ (path : Path) (addr v : Word) (d : RegDef) (k : Nat) (s : State), path ≠ .bcp → pathThere s path = true → windowOf s
      addr.toNat 4 = .none → addrDie addr.toNat = some .svc → regAt s.part addr.toNat = some (d, k) → mayWrite s path
      addr.toNat = true → d.writable = true → d.pair = .single → d.accepts v = true → refusedValue s addr.toNat v = false →
      shadowed addr.toNat = false → actsOnWrite addr.toNat = false →
      exec (.registerWrite path addr v) s = .next { s with
          regs := mset (toWord (regDefault s.part addr.toNat)) s.regs addr.toNat (d.written (rget s addr.toNat) v),
          out := s.out ++ [.answer path (toWord addr.toNat) .ok 0 0] }) ∧
  (∀ (path : Path) (addr v : Word) (d : RegDef) (k : Nat) (s : State), path ≠ .bcp → pathThere s path = true → windowOf s
      addr.toNat 4 = .none → addrDie addr.toNat = some .svc → regAt s.part addr.toNat = some (d, k) → mayWrite s path
      addr.toNat = true → d.writable = true → d.accepts v = false ∨ refusedValue s addr.toNat v = true →
      exec (.registerWrite path addr v) s = .next { s with out := s.out ++ [.answer path (toWord addr.toNat) .refused 0 0] }) ∧
  (∀ (path : Path) (addr : Word) (d : RegDef) (k : Nat) (s : State), path ≠ .bcp → pathThere s path = true → windowOf s
      addr.toNat 4 = .none → addrDie addr.toNat = some .svc → regAt s.part addr.toNat = some (d, k) → d.pair = .lo → addr ≠
      0x0009001C → addr ≠ 0x00070004 → addr < 0x00048000 ∨ 0x0004E000 ≤ addr →
      exec (.pairLoRead path addr) s = .next { s with
          loRead := mset 0 s.loRead (pairKey path addr.toNat) (toWord (pairValue s path addr.toNat / 2 ^ 32)),
          out := s.out ++ [.answer path (toWord addr.toNat) .ok (toWord (pairValue s path addr.toNat)) 0] }) ∧
  (∀ (path : Path) (v : Word) (s : State), path ≠ .bcp → pathThere s path = true → mayWrite s path 0x0002000C = true →
      exec (.pairLoWrite path 0x0002000C v) s = .next { s with
          loStaged := mput s.loStaged (pairKey path 0x0002000C) v, out := s.out ++ [.answer path 0x0002000C .ok 0 0] }) ∧
  (∀ (path : Path) (v : Word) (s : State), path ≠ .bcp → pathThere s path = true → mayWrite s path 0x00020010 = true →
      ∃ t, exec (.pairHiWrite path 0x00020010 v) s = .next t ∧ t = { s with regs := t.regs, loStaged := t.loStaged, out := t.out } ∧
        t.regs = mset (toWord (regDefault s.part 0x00020010)) (mset (toWord (regDefault s.part 0x0002000C)) s.regs 0x0002000C
          ((mfind s.loStaged (pairKey path 0x0002000C)).getD (rget s 0x0002000C))) 0x00020010 v ∧
        t.loStaged = s.loStaged.filter (fun e => e.1 != pairKey path 0x0002000C) ∧ t.out = s.out ++ [.answer path 0x00020010 .ok 0 0]) ∧
  (∀ (p q : Path) (a b : Nat) (v : Word) (s : State), a < 2 ^ 32 → b < 2 ^ 32 → p ≠ q ∨ a ≠ b →
      hiShadow (setHiShadow s p a v) q b = hiShadow s q b)

/-- A die serves a REG_REQ with a REG_RESP; SVC completes the access on its answer, on VC5 data, or after 40 us without
one (R172, R173, R585, R690). Where no rule speaks it says the model's choice: log entry 10. -/
def Obligations.DieRegisterAccess : Prop :=
  (∀ (r : LinkRx) (x : Parcel) (s s1 : State), portOk s r.port = true → linkReceive s r = (some x, s1) → x.vc = 0 → x.kind = 8
      → x.arg = 8 → r.port.die ≠ .svc →
      exec (.regReq r) s = .next ((fun y : Nat × Word × Word × State =>
          sendMsg y.2.2.2 r.port.die .svc 9 (leBytes 4 (leAt x.payload 0 4) ++ leBytes 1 y.1 ++ leBytes 1 0 ++ leBytes 2 (leAt x.payload 6 2) ++
            leBytes 4 y.2.1.toNat ++ leBytes 4 y.2.2.1.toNat)) (serveReg s1 r.port.die (pathOf (leAt x.payload 5 1)) (leAt x.payload 0 4)
            (leAt x.payload 4 1) (toWord (leAt x.payload 8 4))))) ∧
  (∀ (r : LinkRx) (x : Parcel) (y : DieAccess) (s s1 s2 : State), portOk s r.port = true → linkReceive s r = (some x, s1) →
      x.vc = 0 → x.kind = 8 → x.arg = 9 → r.port.die = .svc → takeAccess s1 (fun y => y.tag == leAt x.payload 6 2 && y.op != 3
      && y.die.code == x.src) = some (y, s2) →
      exec (.regResp r) s = .next (endAccess s2 y (statusOf (leAt x.payload 4 1)) (toWord (leAt x.payload 8 4)) (toWord (leAt x.payload 12 4)))) ∧
  (∀ (r : LinkRx) (x : Parcel) (y : DieAccess) (s s1 s2 : State), portOk s r.port = true → linkReceive s r = (some x, s1) →
      x.vc = 5 → x.kind = 2 → x.arg % 2 = 0 → x.payload ≠ [] → r.port.die = .svc → takeAccess s1 (fun y => y.tag % 256 ==
      x.tag && y.op == 3 && y.die.code == x.src) = some (y, s2) →
      exec (.vc5ReadResp r) s = .next (endAccess s2 y .ok (toWord (leAt x.payload (y.addr.toNat % 64) 4)) 0)) ∧
  (∀ (x : DieAccess) (rest : List DieAccess) (s : State), s.accesses = x :: rest →
      exec .regAccessTimeout s = .next (raise (endAccess { s with accesses := rest } x .busy 0 0) 0xD 0 Code.regRefused 1)) ∧
  (∀ (addr : Word) (data : List Byte) (n : Nat) (s : State), s.bus.target = none → tgtHalted s = false → noI2cTarget s = false
      → rb s 0x000C0000 7 = true →
      exec (.i2cTargetTransaction (rf s 0x000C0000 6 0) addr data n) s =
          .next (tgtGo (data.length / 4 + n + 1) s { addr := addr, left := wordsOf data, reads := n, got := [], tag := 0 }))

/-- A Sync, its loss and SYNC_IN move the timebase through the states of Table 2.1 and remove the offset as R45 says (R44,
R45, R64, R72, R452). Where no rule speaks it says the model's choice: log entries 16, 17, 18. -/
def Obligations.SyncMovesTimebase : Prop :=
  (∀ (port domain : Nat) (off li : Int) (s : State), port < 2 → rf s 0x00040000 1 0 = 1 → rb s 0x00050000 5 = true → domain =
      rf s 0x00050000 14 8 → s.net.slave = some port → -7 ≤ li → li ≤ 1 →
      ∃ t, exec (.ptpSyncReceive port domain off li) s = .next t ∧
        t = { s with tb := t.tb, seqr := { s.seqr with unlocked := t.seqr.unlocked }, net := { s.net with syncLog0 := li } } ∧
        t.tb.offset = off ∧ t.tb.rate = Config.servoRate off s.tb.rate ∧
        t.tb.state = (match s.tb.state with
          | .locked => if 10000 < off.natAbs ∧ 3 ≤ s.tb.outBand then .acquire else .locked
          | .acquire => if off.natAbs ≤ 250 ∧ 15 ≤ s.tb.inBand then .locked else .acquire
          | _ => .acquire) ∧
        (s.tb.stepPending = none →
          if off.natAbs ≤ rnat s 0x0004001C * 1000 then t.tb.slew = -off * 2 ^ 32 ∧ t.tb.ltime = s.tb.ltime ∧ t.tb.stepPending = none
          else if s.seqr.armed = true then t.tb.stepPending = some (-off) ∧ t.tb.ltime = s.tb.ltime
          else t.tb.ltime = BitVec.ofInt 64 (s.tb.ltime.toNat - off) ∧ t.tb.stepPending = none)) ∧
  (∀ (s : State), s.tb.state = .locked ∨ s.tb.state = .acquire →
      exec .syncTimeout s = .next (if s.tb.state = .locked ∨ s.tb.everLocked = true then
            raise { s with tb := { s.tb with state := .holdover, rate := meanRate s.tb, slew := 0, inBand := 0, outBand := 0 } } 5 0
              Code.timeHoldover 1
          else { s with tb := { s.tb with state := .free, rate := 0, slew := 0, inBand := 0, outBand := 0 } })) ∧
  (∀ (highNs : Nat) (err : Int) (s : State), rf s 0x00040000 1 0 = 2 → 2000 ≤ highNs → s.tb.state = .syncLocked ∨ s.tb.state =
      .syncLost → err.natAbs ≤ 50000 →
      ∃ t, exec (.syncInEdge highNs err) s = .next t ∧ t = { s with tb := t.tb } ∧ t.tb.state = .syncLocked ∧ t.tb.offset = err ∧
        t.tb.rate = Config.servoRate err s.tb.rate ∧ t.tb.missing = 0) ∧
  (∀ (highNs : Nat) (err : Int) (s : State), rf s 0x00040000 1 0 = 2 → 2000 ≤ highNs → s.tb.state = .syncLocked ∨ s.tb.state =
      .syncLost → 50000 < err.natAbs →
      ∃ t, exec (.syncInEdge highNs err) s = .next t ∧ t = { s with tb := t.tb } ∧ t.tb.edgesIgnored = s.tb.edgesIgnored + 1 ∧
        t.tb.ltime = s.tb.ltime ∧ t.tb.rate = s.tb.rate ∧ t.tb.state = s.tb.state ∧
        (∀ a b : Int, s.tb.outside = [a, b] → (a - err).natAbs * 1000 ≤ periodNs s → (b - err).natAbs * 1000 ≤ periodNs s →
          t.tb.stepPending = some (-err))) ∧
  (∀ (highNs : Nat) (err : Int) (s : State), rf s 0x00040000 1 0 = 2 → 2000 ≤ highNs → s.tb.state ≠ .syncLocked → s.tb.state ≠
      .syncLost → s.seqr.armed = false →
      exec (.syncInEdge highNs err) s = .next { s with tb := { s.tb with
            state := .syncLocked, missing := 0, outside := [], slew := 0,
            ltime := BitVec.ofInt 64 (s.tb.ltime.toNat - syncPhase s) } }) ∧
  (∀ (s : State), s.tb.state = .syncLocked →
      exec .syncInMissing s =
          .next (raise { s with tb := { s.tb with state := .syncLost, missing := 3, slew := 0 } } 5 0 Code.syncLost 1)) ∧
  (∀ (s : State), rb s 0x00040000 2 = true → s.seqr.ran = true →
      exec .syncOutPulse s = .next { s with out := s.out ++ [.syncOut] })

/-- The sequencer arms when released and locked, or after ACQ_TIMEOUT with ARM_UNLOCKED; LAT_COMP is half the mean of 16
round trips (R51, R53, R70, R72, R73). Where no rule speaks it says the model's choice: log entries 19, 20. -/
def Obligations.SequencerArming : Prop :=
  (∀ (s : State),
      exec .acqTimeoutExpire s = .next { s with tb := { s.tb with acqExpired := true } }) ∧
  (∀ (s : State), s.seqr.released = true → s.seqr.armed = false → s.tb.state = .locked ∨ s.tb.state = .syncLocked ∨
      (s.tb.acqExpired = true ∧ rb s 0x00040000 3 = true) →
      exec .sequencerArm s = .next { s with seqr := { s.seqr with
            armed := true,
            epoch := toWord (firstEpochFrom s (s.tb.ltime.toNat + 2000000)) - 1,
            unlocked := decide (s.tb.state ≠ .locked ∧ s.tb.state ≠ .syncLocked) } }) ∧
  (∀ (s : State), s.seqr.armed = true → s.seqr.unlocked = true →
      exec .timeUnlockedReport s = .next (raise s 5 0 Code.timeUnlocked 1)) ∧
  (∀ (d : Die) (primary alternate : List Nat) (s : State), fitted s d = true → d ≠ .svc →
      exec (.latencyMeasure d primary alternate) s = .next { s with seqr := { s.seqr with
            remeasure := false,
            lat := s.seqr.lat.setIfInBounds d.idx
              (if primary.length < 16 then 0xFFF else min 0xFFE ((primary.take 16).sum / 16 / 2),
               if alternate.length < 16 then 0xFFF else min 0xFFE ((alternate.take 16).sum / 16 / 2)) } }) ∧
  (∀ (f : SbFrame) (w : BitVec 48) (s s1 : State) (p : PortId), portOk s f.port = true → takeToken s f = (some w, s1) → tokType
      w = 6 → f.port.die ≠ .svc → relayPort s1 f.port.die (tokSrc w) = some p →
      exec (.echo f) s = .next { s1 with out := s1.out ++ [.token p (tokenWord 6 (tokSrc w) f.port.die.code (tokUnit w) (tokAct w)
            (tokEntry w) (tokEp w))] })

/-- The sequencer sends a LAUNCH for each entry that issues; lateness beyond SLACK makes the epoch DEGRADED; plain actions
act at once (R47, R49, R53, R55, R504). Where no rule speaks it says the model's choice: log entries 22, 23. -/
def Obligations.LaunchesAtTheSequencer : Prop :=
  (∀ (i : Nat) (e : LaunchEntry) (d : Die) (p : PortId) (s : State), entryOf s i = some e → issuing s = true → entryIssues s e
      = true → Die.ofCode (e.dieByte % 16) = some d → d ≠ .svc → (s.die d).out = false → latNow s d ≠ 0xFFF → relayPort s .svc
      d.code = some p →
      exec (.launchSend i) s = .next { s with
          seqr := { s.seqr with issued := s.seqr.issued + 1, exposeIssued := s.seqr.exposeIssued || e.action == 1 || e.action == 2 },
          out := s.out ++ [.token p (tokenWord 1 d.code 0 e.unit e.action i (s.seqr.epoch.toNat % 8))] }) ∧
  (∀ (i : Nat) (e : LaunchEntry) (s : State), entryOf s i = some e → nbit e.flags 0 = false ∨ (nbit e.flags 1 = true ∧
      s.seqr.epoch.toNat % 2 = 1) ∨ (nbit e.flags 2 = true ∧ s.seqr.epoch.toNat % 2 = 0) →
      exec (.launchSend i) s = .next s) ∧
  (∀ (d : Die) (u : Nat) (l : Launched) (s : State), fitted s d = true → u < 16 → (unitOf s d u).queued = some l → l.late =
      false →
      exec (.latenessExceedsSlack d u) s = .next { s with
          dies := vmod (vmod s.dies d.idx fun x => { x with units := vmod x.units u fun y => { y with queued := some { l with late := true } } })
            d.idx fun x => { x with late := satAdd 65535 x.late 1 },
          seqr := { s.seqr with
            lateCount := s.seqr.lateCount + 1, cur := { s.seqr.cur with degraded := true, dies := s.seqr.cur.dies ||| 2 ^ d.code } } }) ∧
  (∀ (d : Die) (u : Nat) (l : Launched) (s : State), fitted s d = true → u < 16 → (unitOf s d u).queued = none → (unitOf s d
      u).busy = some l → l.late = false →
      exec (.latenessExceedsSlack d u) s = .next { s with
          dies := vmod (vmod s.dies d.idx fun x => { x with units := vmod x.units u fun y => { y with busy := some { l with late := true } } })
            d.idx fun x => { x with late := satAdd 65535 x.late 1 },
          seqr := { s.seqr with
            lateCount := s.seqr.lateCount + 1, cur := { s.seqr.cur with degraded := true, dies := s.seqr.cur.dies ||| 2 ^ d.code } } }) ∧
  (∀ (f : SbFrame) (w : BitVec 48) (s s1 : State) (e : LaunchEntry), LaunchReady s f 0x40 w s1 e → f.port.die = .svc → tokUnit
      w = 0 →
      exec (.flush f) s = .next (unitDone (flushNow (running s1 .svc 0 (launchedBy s1 w e))) .svc 0)) ∧
  (∀ (f : SbFrame) (w : BitVec 48) (s s1 : State) (e : LaunchEntry), LaunchReady s f 0x41 w s1 e → f.port.die = .svc → tokUnit
      w = 4 →
      exec (.softEvent f) s = .next (unitDone (emit (running s1 .svc 4 (launchedBy s1 w e)) (.softEvent e.arg.toNat)) .svc 4)) ∧
  (∀ (f : SbFrame) (w : BitVec 48) (s s1 : State) (e : LaunchEntry), LaunchReady s f 0x7F w s1 e → ¬(f.port.die.isCd = true ∧
      tokUnit w = 15) →
      exec (.mark f) s = .next (unitDone (raiseOn (running s1 f.port.die (tokUnit w % 16) (launchedBy s1 w e)) f.port.die
          (tokUnit w % 16) 0 Code.mark 0) f.port.die (tokUnit w % 16)))

/-- A LAUNCH token of another epoch is stale, one for a busy unit is queued, one that finds the queue full is missed (R52,
R54, R55). Where no rule speaks it says the model's choice: log entry 23. -/
def Obligations.LaunchTokenRules : Prop :=
  (∀ (f : SbFrame) (w : BitVec 48) (s s1 : State), portOk s f.port = true → takeToken s f = (some w, s1) → tokType w = 1 →
      tokAct w = 0x7F → tokEp w ≠ (s1.die f.port.die).ep % 8 →
      exec (.mark f) s = .next (missEntry (raiseOn s1 f.port.die (launchLogUnit f.port.die) 0 Code.launchStale 1) f.port.die)) ∧
  (∀ (f : SbFrame) (w : BitVec 48) (s s1 : State) (e : LaunchEntry) (l : Launched), portOk s f.port = true → takeToken s f =
      (some w, s1) → tokType w = 1 → tokAct w = 0x7F → tokEp w = (s1.die f.port.die).ep % 8 → takesLaunches s1 f.port.die =
      true → (s1.die f.port.die).refusing = false → entryOf s1 (tokEntry w) = some e → tokUnit w < 15 → (unitOf s1 f.port.die
      (tokUnit w)).busy = some l →
      exec (.mark f) s = .next (if (unitOf s1 f.port.die (tokUnit w)).queued = none then
            modUnit s1 f.port.die (tokUnit w) fun x => { x with queued := some (launchedBy s1 w e) }
          else missEntry (raiseOn s1 f.port.die (launchLogUnit f.port.die) 0 Code.launchOverrun 1) f.port.die))

/-- A ledger line's writes go to the pending bank, marking keeps merged bytes, and the equinox commits or discards as R61
and R63 say (R61, R63). -/
def Obligations.LedgerLineRules : Prop :=
  (∀ (l : LedgerLine) (off : Nat) (bs : List Byte) (k : Nat), off + bs.length ≤ 64 → k < 64 →
      committedOf (localWrite l off bs) = committedOf l ∧ (localWrite l off bs).dl = true ∧ (localWrite l off bs).dx = false ∧
        (localWrite l off bs).dp = l.dp ∧
        (pendingOf (localWrite l off bs)).extractLsb' (8 * k) 8 =
          if off ≤ k ∧ k < off + bs.length then bs.getD (k - off) 0
          else if l.dx = false ∧ (l.dl = true ∨ l.dp = true) then (pendingOf l).extractLsb' (8 * k) 8
          else (committedOf l).extractLsb' (8 * k) 8) ∧
  (∀ (l : LedgerLine) (v : BitVec 512),
      committedOf (mergeLine l v) = committedOf l ∧ pendingOf (mergeLine l v) = v ∧ (mergeLine l v).dp = true ∧ (mergeLine l v).dx = false ∧
        (l.dx = true → (mergeLine l v).dl = false) ∧ (l.dx = false → (mergeLine l v).dl = l.dl) ∧ (mergeLine l v).mm = BitVec.allOnes 64) ∧
  (∀ (l : LedgerLine) (k : Nat), k < 64 →
      committedOf (markLine l) = committedOf l ∧ (l.dl = false → markLine l = l) ∧
        (l.dl = true → l.dp = false → (markLine l).dx = true ∧ pendingOf (markLine l) = pendingOf l) ∧
        (l.dl = true → l.dp = true → (markLine l).dl = false ∧ (markLine l).dx = l.dx ∧
          (pendingOf (markLine l)).extractLsb' (8 * k) 8 =
            if l.mm.getLsbD k = true then (pendingOf l).extractLsb' (8 * k) 8 else (committedOf l).extractLsb' (8 * k) 8)) ∧
  (∀ (l : LedgerLine),
      committedOf (commitLine l) = (if (l.dl = true ∧ l.dx = false) ∨ l.dp = true then pendingOf l else committedOf l) ∧
        committedOf (discardLine l) = committedOf l ∧ pendingOf (discardLine l) = pendingOf l ∧
        (commitLine l).dl = false ∧ (commitLine l).dp = false ∧ (commitLine l).dx = false ∧ (commitLine l).mm = 0 ∧
        (discardLine l).dl = false ∧ (discardLine l).dp = false ∧ (discardLine l).dx = false ∧ (discardLine l).mm = 0)

/-- A local write, a LEDGER_WRITE parcel and a HANDOVER_CLEAR change the lines they name and no other (R61, R173). Where
no rule speaks it says the model's choice: log entry 2. -/
def Obligations.LedgerCommands : Prop :=
  (∀ (d : Die) (cd line off : Nat) (bs : List Byte) (s : State), d.cdIdx = some cd → fitted s d = true → line < 2048 → off +
      bs.length ≤ 64 →
      ∃ t, exec (.ledgerLocalWrite d line off bs) s = .next t ∧ t = { s with ledgers := t.ledgers } ∧
        ledgerLine t cd line = localWrite (ledgerLine s cd line) off bs ∧
        ∀ cd' line', (cd', line') ≠ (cd, line) → ledgerLine t cd' line' = ledgerLine s cd' line') ∧
  (∀ (r : LinkRx) (x : Parcel) (cd : Nat) (s s1 : State), portOk s r.port = true → linkReceive s r = (some x, s1) → x.vc = 0 →
      x.kind = 9 → x.arg < 2048 → r.port.die.cdIdx = some cd →
      ∃ t, exec (.ledgerWrite r) s = .next t ∧ t = { s1 with ledgers := t.ledgers } ∧
        ledgerLine t cd x.arg = mergeLine (ledgerLine s1 cd x.arg) (BitVec.ofNat 512 (leNat x.payload)) ∧
        ∀ cd' line', (cd', line') ≠ (cd, x.arg) → ledgerLine t cd' line' = ledgerLine s1 cd' line') ∧
  (∀ (r : LinkRx) (x : Parcel) (cd first count : Nat) (s s1 : State), portOk s r.port = true → linkReceive s r = (some x, s1) →
      x.vc = 0 → x.kind = 8 → x.arg = 0xA → r.port.die.cdIdx = some cd → leAt x.payload 0 2 = first → leAt x.payload 2 2 =
      count →
      ∃ t, exec (.handoverClear r) s = .next t ∧ t = { s1 with ledgers := t.ledgers } ∧
        (∀ line, first ≤ line → line < first + count → line < 2048 → ledgerLine t cd line = mergeLine (ledgerLine s1 cd line) 0) ∧
        (∀ line, line < first ∨ first + count ≤ line ∨ 2048 ≤ line → ledgerLine t cd line = ledgerLine s1 cd line) ∧
        ∀ cd' line, cd' ≠ cd → ledgerLine t cd' line = ledgerLine s1 cd' line)

/-- KILL at T_D, the drain of each die, its reports, and what SVC does with them (R54, R56, R57, R59, R60, R72, R219,
R504). Where no rule speaks it says the model's choice: log entries 24, 25, 51. -/
def Obligations.DrainOfTheEpoch : Prop :=
  (∀ (s : State), s.seqr.armed = true → s.seqr.ran = true → s.seqr.killed = false → (liveDies s).all (fun d => (s.die
      d).drainedSeen) = false →
      ∃ t u, exec .equinoxDeadline s = .next t ∧ u = releaseRecords (cropsAtDeadline s) ∧
        t = { u with peers := { u.peers with upTo := u.peers.order }, seqr := { u.seqr with killed := true, guardDone := false }, out := t.out } ∧
        t.out = u.out ++ (liveDies s).filterMap fun d => (relayPort s .svc d.code).map fun p =>
          .token p (tokenWord 2 d.code 0 0 (b2n (!(s.die d).doneSeen)) 0 (s.seqr.epoch.toNat % 8))) ∧
  (∀ (f : SbFrame) (w : BitVec 48) (s s1 : State), portOk s f.port = true → takeToken s f = (some w, s1) → tokType w = 2 →
      f.port.die ≠ .svc → (s1.die f.port.die).drainedSent = false →
      exec (.killDrain f) s = .next (if tokAct w % 2 = 1 then s1 else drainDie s1 f.port.die) ∧
        exec (.killForce f) s = .next (if tokAct w % 2 = 1 then forceDie s1 f.port.die else s1)) ∧
  (∀ (d : Die) (s : State), liveDie s d = true → (s.die d).doneSent = false → (s.die d).refusing = false → dieIdle s d = true →
      exec (.epochDoneSend d) s = .next (sendMsg (modDie s d fun x => { x with doneSent := true }) d .svc 1
          (leBytes 4 s.seqr.epoch.toNat ++ leBytes 2 (min 65535 (s.die d).ratio) ++ leBytes 2 (min 65535 (s.die d).late) ++
            leBytes 2 (min 65535 (s.die d).missed) ++
            [BitVec.ofNat 8 (b2n (match d.cdIdx with | some cd => (s.cdie cd).aborted | none => false)), 0]))) ∧
  (∀ (r : LinkRx) (x : Parcel) (d : Die) (s s1 : State), portOk s r.port = true → linkReceive s r = (some x, s1) → x.vc = 0 →
      x.kind = 8 → x.arg = 1 → r.port.die = .svc → Die.ofCode x.src = some d →
      exec (.epochDone r) s = .next { s1 with dies := vmod s1.dies d.idx fun y => { y with doneSeen := true } }) ∧
  (∀ (r : LinkRx) (x : Parcel) (d : Die) (s s1 : State), portOk s r.port = true → linkReceive s r = (some x, s1) → x.vc = 0 →
      x.kind = 8 → x.arg = 2 → r.port.die = .svc → Die.ofCode x.src = some d → s1.seqr.killed = true → (s1.die d).drainedSeen
      = false →
      exec (.drained r) s = .next (drainsDone (if leAt x.payload 4 1 % 2 = 1 then
            forcedDrain (modDie s1 d fun y => { y with drainedSeen := true }) d
          else modDie s1 d fun y => { y with drainedSeen := true }))) ∧
  (∀ (d : Die) (s : State), liveDie s d = true → s.seqr.killed = true → (s.die d).drainedSeen = false →
      exec (.drainStuck d) s = .next (drainsDone (stuckDie s d))) ∧
  (∀ (s : State),
      exec .commitFence s = .next (fenceHand { s with seqr := { s.seqr with merging := false } })) ∧
  (∀ (d : Die) (u : Nat) (v : Bool) (l : Launched) (s : State), fitted s d = true → u < 16 → (unitOf s d u).busy = none →
      (unitOf s d u).queued = some l →
      exec (.launchDequeue d u v) s = .next (startEntry (modUnit s d u fun x => { x with queued := none }) d u l (startOf v l.act))) ∧
  (∀ (cd : Nat) (s : State), cdOk s cd = true → (s.die (Die.ofCd cd)).state = 7 →
      exec (.sinkEnd cd) s = .next (sinkEnds s cd))

/-- An orderly drain refuses launches; a forced one marks its pending local ledger writes and reports DRAINED with FORCED
(R57, R61). Where no rule speaks it says the model's choice: log entry 2. -/
def Obligations.DrainSteps : Prop :=
  (∀ (cd : Nat) (s : State), cd < 4 → (s.die (Die.ofCd cd)).drainedSent = false →
      ((forceDie s (Die.ofCd cd)).die (Die.ofCd cd)).drainedSent = true ∧
        (forceDie s (Die.ofCd cd)).ledgers = vmod s.ledgers cd (mapLines markLine) ∧ ((forceDie s (Die.ofCd cd)).fab cd).cache = [] ∧
        ((drainDie s (Die.ofCd cd)).die (Die.ofCd cd)).refusing = true ∧ (drainDie s (Die.ofCd cd)).ledgers = s.ledgers)

/-- The EQUINOX token commits or discards a die's ledger, then the die records EP and takes launches again (R52, R63,
R75). Where no rule speaks it says the model's choice: log entries 26, 29, 31. -/
def Obligations.EquinoxCommits : Prop :=
  (∀ (f : SbFrame) (w : BitVec 48) (cd : Nat) (s s1 : State), portOk s f.port = true → takeToken s f = (some w, s1) → tokType w
      = 5 → f.port.die.cdIdx = some cd → liveDie s1 f.port.die = true → hvCd s1 ≠ some cd → tokAct w % 2 = 0 →
      ∃ t, exec (.equinox f) s = .next t ∧ t.ledgers = vmod s1.ledgers cd (mapLines commitLine) ∧
        (t.fab cd).ledgerEpoch = s1.seqr.closed ∧ (t.die f.port.die).ep = tokEp w ∧ (t.die f.port.die).refusing = false ∧
        (t.die f.port.die).drainedSent = false ∧ (t.die f.port.die).doneSent = false) ∧
  (∀ (f : SbFrame) (w : BitVec 48) (cd : Nat) (s s1 : State), portOk s f.port = true → takeToken s f = (some w, s1) → tokType w
      = 5 → f.port.die.cdIdx = some cd → liveDie s1 f.port.die = true → tokAct w % 2 = 1 →
      ∃ t, exec (.equinoxDiscard f) s = .next t ∧ t.ledgers = vmod s1.ledgers cd (mapLines discardLine) ∧
        (t.fab cd).ledgerEpoch = s1.seqr.closed ∧ (t.die f.port.die).ep = tokEp w ∧ (t.die f.port.die).refusing = false ∧
        (t.die f.port.die).drainedSent = false ∧ (t.die f.port.die).doneSent = false) ∧
  (∀ (f : SbFrame) (w : BitVec 48) (s s1 : State), portOk s f.port = true → takeToken s f = (some w, s1) → tokType w = 5 →
      f.port.die = .eye → liveDie s1 .eye = true → tokAct w % 2 = 0 →
      ∃ t, exec (.equinox f) s = .next t ∧ t.ledgers = s1.ledgers ∧ (t.die .eye).ep = tokEp w ∧ (t.die .eye).refusing = false ∧
        (t.die .eye).drainedSent = false ∧ (t.die .eye).doneSent = false) ∧
  (∀ (r : LinkRx) (x : Parcel) (d : Die) (s s1 : State), portOk s r.port = true → linkReceive s r = (some x, s1) → x.vc = 0 →
      x.kind = 8 → x.arg = 3 → r.port.die = .svc → Die.ofCode x.src = some d →
      exec (.committed r) s = .next (if leAt x.payload 6 1 % 2 = 1 then
            summaryCheck (handCommitted (mergeDiscarded (modDie s1 d fun y => { y with committedSeen := true, discardSeen := true }) d) d true)
          else summaryCheck (handCommitted (mergeCommitted (modDie s1 d fun y => { y with committedSeen := true, discardSeen := false }) d) d false)))

/-- SVC sends EQUINOX after its evaluations, resends it three times 2 us apart, then sends it with the discard bit (R60,
R63, R72). Where no rule speaks it says the model's choice: log entries 25, 27. -/
def Obligations.EquinoxSent : Prop :=
  (∀ (s : State), s.seqr.armed = true →
      exec .equinoxSend s = .next (if s.seqr.ran = true then laterEquinox s else firstEquinox s)) ∧
  (∀ (d : Die) (p : PortId) (s : State), liveDie s d = true → s.seqr.armed = true → s.seqr.killed = false → (s.die
      d).committedSeen = false → (s.die d).resends < 3 → relayPort s .svc d.code = some p →
      exec (.equinoxResend d) s = .next { s with
          dies := vmod s.dies d.idx fun x => { x with resends := x.resends + 1 },
          out := s.out ++ [.token p (tokenWord 5 d.code 0 0 0 0 (s.seqr.epoch.toNat % 8))] }) ∧
  (∀ (d : Die) (p : PortId) (s : State), liveDie s d = true → s.seqr.armed = true → s.seqr.killed = false → (s.die
      d).committedSeen = false → (s.die d).resends = 3 → relayPort s .svc d.code = some p →
      exec (.equinoxResend d) s = .next (summaryCheck { s with
          dies := vmod s.dies d.idx fun x => { x with resends := x.resends + 1 },
          out := s.out ++ [.token p (tokenWord 5 d.code 0 0 1 0 (s.seqr.epoch.toNat % 8))],
          seqr := { s.seqr with
            last := { s.seqr.last with eqxMiss := true, dies := s.seqr.last.dies ||| 2 ^ d.code },
            cur := { s.seqr.cur with degraded := true, dies := s.seqr.cur.dies ||| 2 ^ d.code } } }))

/-- Start-up begins at the RESET_N edge with PG_IN high and goes from step to step, each step's end or timeout as Table
3.1 has it (R76, R77, R97, R98). Where no rule speaks it says the model's choice: log entries 6, 38, 40. -/
def Obligations.StartupSteps : Prop :=
  (∀ (s : State), s.boot.phase = 0 →
      exec (.startupSequence true) s = .next { s with boot := { s.boot with phase := 1, started := s.now } }) ∧
  (∀ (pg : Bool) (s : State), s.boot.phase ≠ 0 ∨ pg = false →
      exec (.startupSequence pg) s = .next s) ∧
  (∀ (b : Nat) (s : State), s.boot.phase = 1 →
      exec (.startupStepComplete (.strap b)) s = .next { s with boot := { s.boot with phase := 2, strap := b % 4 } }) ∧
  (∀ (s : State), s.boot.phase = 4 → s.boot.stepsDone = [] → s.boot.strap ≠ 2 →
      exec (.startupStepComplete (.power true)) s =
          .next (bootTo (sendVcore s 750) 5)) ∧
  (∀ (s : State), s.boot.phase = 4 → s.boot.stepsDone = [] → s.boot.strap = 2 → inField s = true →
      exec (.startupStepComplete (.power true)) s = .next (bootTo (logOnly (sendVcore s 750) .svc 0xD 0 Code.strapIgnored 1) 5)) ∧
  (∀ (s : State), s.boot.phase = 4 → s.boot.stepsDone = [] → s.boot.pmRetried = true →
      ∃ t, exec (.startupStepComplete (.power false)) s = .next t ∧ t.boot.phase = 31 ∧ t.boot.alert = true ∧ t.power.halted = true ∧
        t.flash = s.flash) ∧
  (∀ (s : State), s.boot.phase = 5 →
      ∃ t, exec (.startupStepComplete (.sfdp false)) s = .next t ∧ t.boot.phase = 24 ∧ t.boot.dormantCause = 4 ∧ t.power.season = .dormant) ∧
  (∀ (s : State), s.boot.phase = 11 → 432 ≤ s.power.tmax →
      exec (.startupStepComplete .plain) s = .next { s with boot := { s.boot with stepsDone := [11] } }) ∧
  (∀ (s : State), s.boot.phase = 2 ∨ s.boot.phase = 3 →
      ∃ t, exec .startupStepTimeout s = .next t ∧ t.boot.phase = (if s.boot.phase = 2 then 30 else 31) ∧ t.boot.alert = true ∧ t.power.halted = true) ∧
  (∀ (s : State), s.boot.phase = 6 →
      ∃ t, exec .startupStepTimeout s = .next t ∧ t.boot.phase = 24 ∧ t.boot.dormantCause = 3 ∧ t.power.season = .dormant) ∧
  (∀ (s : State), s.boot.phase = 24 →
      exec .dormantReport s = .next (raise s 0xD 0 Code.dormant 1 (args4 [s.boot.causeA, s.boot.causeB])))

/-- What a cold and a warm reset keep and lose, and that the third watchdog expiry within 600 s is a cold reset (R79, R80,
R100). Where no rule speaks it says the model's choice: log entries 3, 4, 32, 35. -/
def Obligations.ResetsOfThePart : Prop :=
  (∀ (cause : ColdCause) (hdr : Bool) (s : State), cause = .por ∨ cause = .cmd ∨ cause = .wdtEscalated ∨ cause = .vcoreLoss ∨
      cause = .thermalStop ∨ cause = .pin 10000 →
      ∃ t, exec (.coldReset cause hdr) s = .next t ∧ t.pending = s.pending ∧ t.flash = s.flash ∧ t.hv.ckpt0 = s.hv.ckpt0 ∧
        t.hv.ckpt1 = s.hv.ckpt1 ∧ t.otp.rows = s.otp.rows ∧ t.otp.wl = 0 ∧ t.otp.rl = 0 ∧ t.mem = [] ∧ t.regs = [] ∧
        t.ledgers = Vector.replicate 4 [] ∧ t.bcp = {} ∧ t.boot.resetCause = toWord (2 ^ coldBit cause) ∧
        t.boot.phase = (if cause = .por ∨ cause = .pin 10000 then 0 else 1)) ∧
  (∀ (ns : Nat) (hdr : Bool) (s : State), ns < 9500 →
      exec (.coldReset (.pin ns) hdr) s = .next s) ∧
  (∀ (cause : WarmCause) (s : State), cause = .slotRetry ∨ cause = .coreLockup ∨ cause = .cmd → 5 ≤ s.boot.phase → s.boot.phase
      < 30 → s.power.halted = false → s.power.season ≠ .thermalStop →
      ∃ t, exec (.warmReset cause) s = .next t ∧ t.pending = s.pending ∧ t.flash = s.flash ∧ t.otp.wl = s.otp.wl ∧ t.otp.rl = s.otp.rl ∧
        t.otp.mirror = s.otp.mirror ∧ t.mem = [] ∧ t.ledgers = Vector.replicate 4 [] ∧ t.tb = s.tb ∧ t.bcp = {} ∧
        rget t 0x0001000C = rget s 0x0001000C ∧ t.boot.resetCause = s.boot.resetCause ||| toWord (2 ^ warmBit cause) ∧
        t.boot.phase = 5 ∧ t.boot.strap = s.boot.strap ∧ t.power.vcoreSent = 750) ∧
  (∀ (s : State) (a b : Nat), rb s 0x00010030 16 = true → 10 ≤ s.boot.phase → s.boot.phase < 30 → s.power.halted = false →
      s.power.season ≠ .thermalStop → s.boot.wdtResets = [a, b] →
      ∃ t, exec .watchdogExpiry s = .next t ∧
        (s.now < a + 600000000000 → s.now < b + 600000000000 → t.boot.phase = 1 ∧ t.boot.resetCause = 0x20) ∧
        (a + 600000000000 ≤ s.now → t.boot.phase = 5 ∧ t.boot.resetCause = s.boot.resetCause ||| 0x10)) ∧
  (∀ (v : Word) (s : State), v ≠ 0x0000A5C3 →
      exec (.wdtKick .core v) s = .next (answer (raise s 0xD 0 Code.wdtKickBad 1) .core 0x00010034 .ok) ∧
        exec (.wdtKick .core 0x0000A5C3) s = .next (answer { s with boot := { s.boot with wdtKicked := s.now } } .core 0x00010034 .ok))

/-- Holding, releasing and resetting a die, and what SVC does on its DIE_READY (R79, R81, R82, R89, R106, R218). Where no
rule speaks it says the model's choice: log entries 34, 36, 37. -/
def Obligations.HoldAndResetOfADie : Prop :=
  (∀ (d : Die) (s : State), d ≠ .svc → fitted s d = true → held s d = false →
      ∃ t, exec (.dieHoldSet .core d) s = .next t ∧ (t.die d).state = 1 ∧ (t.die d).out = true ∧
        (∀ a, (dieMem d).1 ≤ a → a < (dieMem d).2 → byteAt t.mem a = 0) ∧ (∀ cd, d.cdIdx = some cd → vget t.ledgers cd = [])) ∧
  (∀ (cd site : Nat) (m g : Bool) (s : State), cdOk s cd = true → held s (Die.ofCd cd) = true → levelPermits s (Die.ofCd cd) =
      true →
      ∃ t, exec (.dieHoldRelease .core (Die.ofCd cd) site m g) s = .next t ∧
        t = { s with
          regs := t.regs, shadow := t.shadow, out := t.out, seqr := t.seqr, dies := t.dies, boot := t.boot,
          ports := t.ports, eye := t.eye, isp := t.isp, comp := t.comp, det := t.det, guard := t.guard, recs := t.recs,
          log := t.log, outboxes := t.outboxes } ∧
        (t.die (Die.ofCd cd)).state = (if siteBad site m = true then 6 else 2) ∧
        (siteBad site m = false → t.boot.site[cd]? = some (site % 8, true))) ∧
  (∀ (cd site : Nat) (m : Bool) (s : State), cdOk s cd = true → dieOpen s (Die.ofCd cd) = true →
      ∃ t, exec (.dieReset .core cd site m) s = .next t ∧
        t = { s with
          regs := t.regs, shadow := t.shadow, out := t.out, seqr := t.seqr, dies := t.dies, ledgers := t.ledgers,
          boot := t.boot, ports := t.ports, fabs := t.fabs, eye := t.eye, isp := t.isp, comp := t.comp, det := t.det,
          recs := t.recs, log := t.log, outboxes := t.outboxes } ∧
        (t.die (Die.ofCd cd)).state = (if siteBad site m = true then 6 else 7) ∧
        t.mem = s.mem ∧ (t.fab cd).gen = ((s.fab cd).gen + 1) % 16 ∧ (t.fab cd).held = (s.fab cd).held ∧
        (siteBad site m = false → t.seqr.cur.partialEp = true)) ∧
  (∀ (r : LinkRx) (x : Parcel) (d : Die) (s s1 : State), portOk s r.port = true → linkReceive s r = (some x, s1) → x.vc = 0 →
      x.kind = 8 → x.arg = 7 → r.port.die = .svc → Die.ofCode x.src = some d → d ≠ .svc → fitted s1 d = true → leAt x.payload
      0 1 = 4 →
      exec (.dieReady r) s = .next (dieReadyNow s1 d)) ∧
  (∀ (d : BootDesc) (t0 : Nat) (s : State), descNow s = some d → s.boot.runSince = some t0 → s.boot.phase = 17 → s.boot.slot =
      0 → d.stateA = 1 → t0 + secNs d.confirmS ≤ s.now → rb s 0x00020028 0 = false →
      exec .slotConfirm s = .next (writeDesc s fun x => { x with stateA := 2, attempts := 0 }) ∧
        descNow (writeDesc s fun x => { x with stateA := 2, attempts := 0 }) = some { d with stateA := 2, attempts := 0, gen := (d.gen + 1) % 2 ^ 32 })

/-- The first epoch takes the part to RUN in SUMMER or the AUTUMN level in force and clears BOOT_SKIP (R105). Where no
rule speaks it says the model's choice: log entry 111. -/
def Obligations.FirstEpoch : Prop :=
  (∀ (s : State), s.boot.phase = 16 → s.seqr.armed = true → s.boot.firstDone = false → s.power.thermalStopped = false →
      ∃ t, exec .firstEpoch s = .next t ∧
        t = { s with
          freeIdx := t.freeIdx, regs := t.regs, out := t.out, seqr := t.seqr, dies := t.dies, boot := t.boot,
          recs := t.recs, lst := t.lst, hk := t.hk, fo := t.fo, tamper := t.tamper, log := t.log, power := t.power } ∧
        t.boot.phase = 17 ∧ t.seqr.ran = true ∧ t.boot.firstDone = true ∧ rget t 0x0001000C = 0 ∧
        t.boot.bootTimeMs = toWord ((s.now - s.boot.started) / 1000000) ∧
        t.power.season = (if autumnLevel s = 0 then .summer else if autumnLevel s = 1 then .a1 else if autumnLevel s = 2 then .a2 else .a3))

/-- Programming, margin checks, locks and life-cycle steps of the OTP; a write without the guard is refused (R37, R107,
R116, R121, R123, R126, R128, R129, R133). Where no rule speaks it says the model's choice: log entries 42, 43, 45. -/
def Obligations.OtpOperations : Prop :=
  (∀ (cmd : Word) (a : OtpAnalog) (s : State), wbits cmd 31 16 ≠ 0x0C7B →
      ∀ c ∈ [Instr.programRow .core cmd a, .reinforceRow .core cmd a, .scan .core cmd a, .lcAdvance .core cmd a, .rollbackRaise .core cmd a,
            .policyLock .core cmd a, .kwrapGen .core cmd a],
        exec c s = .next { s with
          otp := { s.otp with done := false, error := true, result := 0x0C, pulses := 0 }
          out := s.out ++ [.answer .core 0x00020008 .ok 0 0] }) ∧
  (∀ (cmd : Word) (a : OtpAnalog) (s : State), wbits cmd 31 16 = 0x0C7B → lcState s ≠ 5 → rowBarred s (wbits cmd 12 4) = false
      → (programStates (wbits cmd 12 4)).contains (lcState s) = true → s.otp.wl.getLsbD (regionOf (wbits cmd 12 4)) = false →
      condStop a = 0 → a.stopAfter = none → a.failing = 0 → a.stillWeak = 0 →
      ∃ t, exec (.programRow .core cmd a) s = .next t ∧
        t = { s with out := t.out, otp := t.otp, recs := t.recs, log := t.log } ∧
        otpRead t.otp (wbits cmd 12 4) = otpRead s.otp (wbits cmd 12 4) ||| otpData s ∧
        (∀ r, r < 512 → r ≠ wbits cmd 12 4 → otpRead t.otp r = otpRead s.otp r) ∧ t.otp.done = true ∧ t.otp.error = false ∧ t.otp.result = 0) ∧
  (∀ (cmd : Word) (s : State), lcState s ≠ 5 →
      ∃ t, exec (.marginRow .core cmd) s = .next t ∧
        t = { s with out := t.out, otp := t.otp, recs := t.recs, log := t.log } ∧
        t.otp.rows = s.otp.rows ∧ t.otp.spares = s.otp.spares ∧ t.otp.redir = s.otp.redir ∧
        t.otp.weakMask = (if 0x154 ≤ wbits cmd 12 4 ∧ wbits cmd 12 4 ≤ 0x157 then 0 else weakOf s.otp (wbits cmd 12 4))) ∧
  (∀ (cmd : Word) (a : OtpAnalog) (s : State), wbits cmd 31 16 = 0x0C7B → lcState s ≠ 5 → condStop a = 0 → a.stillWeak = 0 →
      ∃ t, exec (.reinforceRow .core cmd a) s = .next t ∧
        t = { s with out := t.out, otp := t.otp, recs := t.recs, log := t.log } ∧
        t.otp.rows = s.otp.rows ∧ t.otp.spares = s.otp.spares ∧ t.otp.redir = s.otp.redir ∧
        weakOf t.otp (wbits cmd 12 4) = 0 ∧ t.otp.result = 0) ∧
  (∀ (cmd : Word) (a : OtpAnalog) (s : State), wbits cmd 31 16 = 0x0C7B → lcState s ≠ 5 → condStop a = 0 → ∀ r ∈ programmedRows
      s.otp, weakOf s.otp r = 0 →
      ∃ t, exec (.scan .core cmd a) s = .next t ∧
        t = { s with out := t.out, otp := t.otp, recs := t.recs, log := t.log } ∧
        t.otp.rows = s.otp.rows ∧ t.otp.spares = s.otp.spares ∧ t.otp.redir = s.otp.redir ∧
        t.otp.done = true ∧ t.otp.result = 0) ∧
  (∀ (cmd : Word) (a : OtpAnalog) (n : Nat) (s : State), wbits cmd 31 16 = 0x0C7B → wbits cmd 15 13 = n → 1 ≤ n → n ≤ 3 → rnat
      s 0x0002000C = 0x4C430000 + n → s.otp.mirror = mirrorOf s.otp → lcState s = n - 1 → lcExitOk s n = true → condStop a = 0
      → a.stopAfter = none → a.failing = 0 →
      ∃ t, exec (.lcAdvance .core cmd a) s = .next t ∧ lcState t = n ∧ otpRead t.otp (0x0F + n) = BitVec.allOnes 64 ∧ t.otp.result = 0) ∧
  (∀ (cmd : Word) (a : OtpAnalog) (s : State), wbits cmd 31 16 = 0x0C7B → lcState s = 4 → taken s 0x173 = false → condStop a =
      0 →
      exec (.policyLock .core cmd a) s = .next (answer (otpEnd (programAll (otpBegin s a)
          ((fun w : BitVec 64 => [(0x170, w), (0x171, w), (0x172, w), (0x173, BitVec.allOnes 64)]) (BitVec.ofNat 64 (bits (rnat s 0x0002000C) 9 0)))))
          .core 0x00020008 .ok)) ∧
  (∀ (cmd : Word) (a : OtpAnalog) (s : State), wbits cmd 31 16 = 0x0C7B → lcState s = 3 → kwrapPresent s = false → condStop a =
      0 →
      ∃ t, exec (.kwrapGen .core cmd a) s = .next t ∧
        t = { s with freeIdx := t.freeIdx, out := t.out, otp := t.otp, recs := t.recs, log := t.log } ∧
        t.otp.done = true ∧ t.otp.rl.getLsbD 4 = true) ∧
  (∀ (cmd : Word) (a : OtpAnalog) (v : Nat) (s : State), wbits cmd 31 16 = 0x0C7B → wbits cmd 15 13 = 0 → v = bits (rnat s
      0x0002000C) 11 0 → 1 ≤ lcState s → lcState s ≤ 4 → fwCounter s < v → v ≤ 1536 → s.boot.slot = 3 ∨ v ≤ s.boot.fwRollback
      → condStop a = 0 →
      exec (.rollbackRaise .core cmd a) s = .next (answer (otpEnd (programAll (otpBegin s a)
          ((0x180 + (v - 1) / 64, BitVec.ofNat 64 (2 ^ ((v - 1) % 64))) :: fillRows 0x180 (fwCounter s) (v - 1)))) .core 0x00020008 .ok)) ∧
  (∀ (v : Word) (s : State), v &&& 0xFFFF0000 = 0 →
      exec (.otpLockSet .core v) s = .next (answer (lockSet s v.toNat) .core 0x00020004 .ok) ∧
        (lockSet s v.toNat).otp.wl &&& s.otp.wl = s.otp.wl ∧ (lockSet s v.toNat).otp.rl &&& s.otp.rl = s.otp.rl) ∧
  (∀ (s : State), debugDisabled s = true → s.otp.debugEffective = false →
      ∃ t, exec .debugDisableEffect s = .next t ∧
        t = { s with
          freeIdx := t.freeIdx, regs := t.regs, otp := t.otp, ports := t.ports, log := t.log, outboxes := t.outboxes } ∧
        t.otp.debugEffective = true ∧
        (∀ i, i < 2 → rf s (streamCfg i) 11 8 = 0 → rb s (streamCfg i) 0 = true → rb t (streamCfg i) 0 = false ∧ rf t (streamCfg i) 11 8 = 4))

/-- Each link-management word does to its port what Table 5.6 gives it, and one without its answer is sent again 8 times
(R152, R153, R184). Where no rule speaks it says the model's choice: log entry 47. -/
def Obligations.LinkManagementWords : Prop :=
  (∀ (f : SbFrame) (w : BitVec 48) (s s1 : State), portOk s f.port = true → sbTake s f = (some w, s1) → tokType w = 1 →
      (s1.port f.port).sbDead = false → nbit (lmwData w) 0 = true → portPowered s1 f.port = true → (s1.port f.port).sbUp =
      true → (s1.port f.port).phy = .up →
      exec (.lmwHello f) s = .next (modPort s1 f.port fun e => { e with helloSeen := true, sbUp := true, phy := .up, lmw := none })) ∧
  (∀ (f : SbFrame) (w : BitVec 48) (s s1 : State), portOk s f.port = true → sbTake s f = (some w, s1) → tokType w = 2 →
      (s1.port f.port).sbDead = false → (s1.port f.port).phy = .training → (s1.port f.port).lmw = none →
      exec (.lmwStep f) s = .next (sendSb (modPort s1 f.port fun e => { e with step := bits (lmwData w) 3 0 }) f.port w)) ∧
  (∀ (f : SbFrame) (w : BitVec 48) (s s1 : State), portOk s f.port = true → sbTake s f = (some w, s1) → tokType w = 3 →
      (s1.port f.port).sbDead = false → lmwArg w = 9 →
      ∃ t, exec (.lmwFail f) s = .next t ∧ t = { s1 with ports := t.ports } ∧ (t.port f.port).tx0 = (s1.port f.port).tx0 ∧
        (t.port f.port).tx1 = { (s1.port f.port).tx1 with
          failData := ((s1.port f.port).tx1.failData &&& 0xFFFFFFFF) ||| BitVec.ofNat 64 (lmwData w * 2 ^ 32) }) ∧
  (∀ (f : SbFrame) (w : BitVec 48) (s s1 : State), portOk s f.port = true → sbTake s f = (some w, s1) → tokType w = 4 →
      (s1.port f.port).sbDead = false →
      exec (.lmwSteer f) s = .next (sendSb (modPort s1 f.port fun e => modTx e (bits (lmwArg w) 3 3) fun t =>
          { t with state := bstateOf (bits (lmwArg w) 1 0), map := toWord (lmwData w) }) f.port (lmwWord 5 (lmwArg w) (lmwData w)))) ∧
  (∀ (f : SbFrame) (w : BitVec 48) (s s1 : State), portOk s f.port = true → sbTake s f = (some w, s1) → tokType w = 5 →
      (s1.port f.port).sbDead = false → bits (lmwArg w) 3 3 = 0 →
      exec (.lmwSteerAck f) s = .next (
          if (s1.port f.port).rx0.map.toNat = lmwData w ∧ bstateCode (s1.port f.port).rx0.state = bits (lmwArg w) 1 0 then
            modPort s1 f.port fun e => { e with lmw := none, lmwSends := 0 }
          else if (s1.port f.port).tx0.mismatches < 2 then
            modPort s1 f.port fun e => { e with tx0 := { e.tx0 with mismatches := (s1.port f.port).tx0.mismatches + 1 } }
          else modPort s1 f.port fun e => { e with
            tx0 := { e.tx0 with mismatches := (s1.port f.port).tx0.mismatches + 1 }, rx0 := { e.rx0 with state := .off }, lastFail := 3 })) ∧
  (∀ (f : SbFrame) (w : BitVec 48) (s s1 : State), portOk s f.port = true → sbTake s f = (some w, s1) → tokType w = 6 →
      (s1.port f.port).sbDead = false → (s1.port f.port).pstate = .up → (s1.port f.port).phy = .up → s1.seqr.killed = false →
      exec (.lmwRetrain f) s = .next (sendSb (modPort s1 f.port fun e => { e with
          pstate := .retraining, phy := .retraining, step := 3, retrainDue := false, answered := false, lmw := some (lmwWord 6 0 0)
          lmwSends := 1 }) f.port (lmwWord 6 0 0))) ∧
  (∀ (p : PortId) (w : BitVec 48) (s : State), portOk s p = true → (s.port p).lmw = some w →
      exec (.lmwResend p) s = .next (if (s.port p).lmwSends < 9 then
            sendSb (modPort s p fun e => { e with lmwSends := (s.port p).lmwSends + 1 }) p w
          else trainFailed (modPort s p fun e => { e with lmw := none, lmwSends := 0 }) p 1))

/-- A training brings the port to negotiation or fails it; a retrain is requested, and losses of sideband, clock and
supply take their course (R153, R154, R159, R164, R166). Where no rule speaks it says the model's choice: log entries
47, 48. -/
def Obligations.TrainingOfAPort : Prop :=
  (∀ (p : PortId) (o : TrainObs) (s : State), portOk s p = true → portPowered s p = false ∨ (s.port p).pstate = .dead ∨ (s.port
      p).pstate = .isolated ∨ (s.port p).phy = .up ∨ (s.port p).phy = .absent →
      exec (.linkTrain p o) s = .next s) ∧
  (∀ (p : PortId) (o : TrainObs) (s : State), portOk s p = true → portPowered s p = true → (s.port p).phy = .training → (s.port
      p).pstate = .down → o.present = false →
      ∃ t, exec (.linkTrain p o) s = .next t ∧
        t = { s with
          regs := t.regs, out := t.out, seqr := t.seqr, boot := t.boot, ports := t.ports, recs := t.recs, log := t.log,
          outboxes := t.outboxes } ∧
        (t.port p).phy = .absent ∧ (t.port p).pstate = .absent ∧ (t.port p).poweredOff = true) ∧
  (∀ (p q : PortId) (o : TrainObs) (s : State), portOk s p = true → portPowered s p = true → (s.port p).phy = .training →
      (s.port p).pstate = .down → (s.port p).lastFail = 0 → peerPort s.part p = some q → o.present = true → o.sbUp = false →
      ∃ t, exec (.linkTrain p o) s = .next t ∧
        t = { s with
          regs := t.regs, out := t.out, seqr := t.seqr, boot := t.boot, ports := t.ports, recs := t.recs, log := t.log,
          outboxes := t.outboxes } ∧
        (t.port p).phy = .down ∧ (t.port p).pstate = .down ∧ (t.port p).lastFail = 1 ∧
        (t.port p).poweredOff = true ∧ (t.port p).trainCount = satAdd 255 (s.port p).trainCount 1) ∧
  (∀ (p q : PortId) (o : TrainObs) (s : State), portOk s p = true → portPowered s p = true → (s.port p).phy = .training →
      (s.port p).pstate = .down → peerPort s.part p = some q → o.present = true → o.sbUp = true → o.reportOk = true → bstateOf
      o.tx0 ≠ .off → (trainBundle (lanemapRx s p 0) (s.port p).rx0 false o.rx0).b.state ≠ .off →
      ∃ t, exec (.linkTrain p o) s = .next t ∧
        t = { s with
          regs := t.regs, out := t.out, seqr := t.seqr, boot := t.boot, ports := t.ports, recs := t.recs, log := t.log,
          outboxes := t.outboxes } ∧
        (t.port p).phy = .up ∧ (t.port p).pstate = .negotiating ∧ (t.port p).negStep = 1 ∧
        (t.port p).sbUp = true ∧ (t.port p).rx0 = (trainBundle (lanemapRx s p 0) (s.port p).rx0 false o.rx0).b ∧
        (t.port p).tx0.state = bstateOf o.tx0 ∧ (t.port p).tx0.map = o.txMap0 ∧ (t.port p).trainCount = satAdd 255 (s.port p).trainCount 1) ∧
  (∀ (p : PortId) (s : State), portOk s p = true → (s.port p).phy = .training →
      exec (.trainStepTimeout p) s = .next (trainFailed s p (if (s.port p).step = 3 then 2 else if (s.port p).step = 9 then 3
          else if (s.port p).step = 10 then 4 else if (s.port p).step ≤ 2 ∨ (s.port p).step = 8 then 1 else 0))) ∧
  (∀ (p : PortId) (s : State), portOk s p = true → dieOpen s p.die = true → (s.port p).phy = .up → (s.port p).pstate = .up →
      exec (.retrainRequest .core p) s = .next (answer (if s.seqr.killed = true then modPort s p fun e => { e with retrainDue := true }
          else sendSb (modPort s p fun e => { e with
            pstate := .retraining, phy := .retraining, step := 3, retrainDue := false, answered := false, lmw := some (lmwWord 6 0 0)
            lmwSends := 1 }) p (lmwWord 6 0 0)) .core (portBase p + 4) .ok)) ∧
  (∀ (p : PortId) (s : State), portOk s p = true → (s.port p).pstate = .up →
      exec (.sbLost p) s = .next (downPort s p 5 Code.sbLost) ∧ exec (.linkSupplyFault p) s = .next (downPort s p 7 Code.linkSupply)) ∧
  (∀ (p : PortId) (s : State), portOk s p = true → (s.port p).pstate = .down → (s.port p).phy = .down → (s.port p).lastFail = 5
      → (s.port p).retries < 3 → (s.port p).poweredOff = false →
      exec (.sbRetry p) s = .next (sendSb (modPort s p fun e => { e with
          phy := .training, step := 2, retries := e.retries + 1, lmw := some (lmwWord 1 0 0), lmwSends := 1 }) p (lmwWord 1 0 0))) ∧
  (∀ (p : PortId) (s : State), portOk s p = true →
      exec (.bundleClkLost p 1) s = .next (startRetrain (modPort s p fun e => { e with rx1 := { e.rx1 with aux := e.rx1.aux ||| 0x20 } }) p))

/-- In-order delivery, the choice of the next parcel, errors, replay and the end of a retrain (R175, R177, R179, R180,
R181, R184). Where no rule speaks it says the model's choice: log entries 49, 50. -/
def Obligations.ParcelsOnALink : Prop :=
  (∀ (r : LinkRx) (x : Parcel) (s s1 : State), linkReceive s r = (some x, s1) → r.port.valid = true → (s.port r.port).expected
      < 1024 →
      x = r.p ∧ r.t.u = false ∧ r.t.seq % 1024 = (s.port r.port).expected % 1024) ∧
  (∀ (p : PortId) (s : State), portOk s p = true → (s.port p).pstate = .up → (s.port p).nakPending = false →
      exec (.parcelCrcFail p) s = .next (lecAdd (modPort s p fun e => { e with
          crcFail := e.crcFail + 1, nakPending := true, nakDue := true, nulDue := true, naks := e.naks + 1 }) p 8)) ∧
  (∀ (p : PortId) (v : Nat) (x : Parcel) (rest : List Parcel) (s : State), p.valid = true → p.die ≠ .eye → (s.port p).pstate =
      .up → (s.port p).replayQ = [] → feedMerge (feedOutbox s p) p = s → nextVc (s.port p) = some v → vget (s.port p).txq v =
      x :: rest →
      ∃ t, slot s p = t ∧ t.out = s.out ++ [.parcel p x (trailerNow (s.port p) (s.port p).nextSeq false)] ∧
        (t.port p).nextSeq = ((s.port p).nextSeq + 1) % 1024 ∧ (t.port p).replayBuf = (s.port p).replayBuf ++ [((s.port p).nextSeq, x)] ∧
        (vcReady (s.port p) 0 = true → v = 0) ∧ (vcReady (s.port p) 0 = false → vcReady (s.port p) 5 = true → 63 ≤ (s.port p).vc5Wait → v = 5) ∧
        (vcReady (s.port p) 0 = false → (s.port p).vc5Wait < 63 → vcReady (s.port p) 3 = true → v = 3)) ∧
  (∀ (p : PortId) (s : State), portOk s p = true →
      exec (.parcelSlot p) s = .next (drainCheck (slot s p) p.die)) ∧
  (∀ (p : PortId) (s : State), (s.port p).pstate = .up → (s.port p).replayQ = [] → feedMerge (feedOutbox s p) p = s → nextVc
      (s.port p) = none → (s.port p).nulDue = true →
      (slot s p).out = s.out ++ [.linkParcel p 0 (trailerNow (s.port p) 0 true) ((s.port p).freedOut.toList.map (·.toNat))]) ∧
  (∀ (r : LinkRx) (freed : List Nat) (s : State), portOk s r.port = true → (s.port r.port).pstate = .up →
      exec (.nul r freed) s = .next (takeCounts (takeTrailer s r.port { r.t with cvc := 7 }) r.port (freed.take 6) 0)) ∧
  (∀ (p : PortId) (s : State), portOk s p = true → (s.port p).pstate = .up →
      exec (.nulDue p) s = .next (modPort s p fun e => { e with nulDue := true }) ∧
        ((s.port p).replayBuf ≠ [] → exec (.replayTimeout p) s = .next (lecAdd (modPort s p fun e => { e with
          replayQ := e.replayBuf, replayPoint := none, replayTos := e.replayTos + 1 }) p 16))) ∧
  (∀ (r : LinkRx) (s : State), portOk s r.port = true → (s.port r.port).pstate = .retraining → (s.port r.port).phy = .up →
      (s.die r.port.die).state ≠ 7 → r.t.av = true →
      ∃ t, exec (.resume r) s = .next t ∧ t = { s with ports := t.ports } ∧ (t.port r.port).pstate = .up ∧
        (t.port r.port).replayBuf = (s.port r.port).replayBuf.filter (fun x => !decide ((r.t.ack + 1024 - x.1) % 1024 < 512)) ∧
        (t.port r.port).replayQ = (t.port r.port).replayBuf) ∧
  (∀ (p : PortId) (s : State), portOk s p = true → (s.port p).pstate = .retraining → (s.port p).phy = .up →
      exec (.resumeTimeout p) s = .next (deadPort (raiseOn s p.die edlUnit p.port Code.linkDead 1) p (s.port p).lastFail))

/-- Negotiation goes from CAP by AGREE and SOAK to INIT, each step's failure fails the port; isolation of a port (R186,
R191, R192, R194, R201). Where no rule speaks it says the model's choice: log entry 48. -/
def Obligations.NegotiationAndIsolation : Prop :=
  (∀ (p q : PortId) (c : Caps) (s : State), portOk s p = true → (s.port p).pstate = .negotiating → (s.port p).negStep = 1 →
      peerPort s.part p = some q → q.die.code = c.die → c.seen = true →
      exec (.cap p c) s = .next ((fun s1 => if agreeFault (ownCaps s1 p) c = 0 then
            modPort s1 p fun e => { e with negStep := 2, ag := agreementOf (ownCaps s1 p) c }
          else negFail s1 p (agreeFault (ownCaps s1 p) c)) (modPort s p fun e => { e with partner := some c }))) ∧
  (∀ (p : PortId) (c q : Caps) (s : State), portOk s p = true → (s.port p).pstate = .negotiating → (s.port p).negStep = 2 →
      (s.port p).partner = some q →
      exec (.agree p c) s = .next (if agreeMatch (agreePayload (ownCaps s p) q) c = true then
            modPort s p fun e => { e with negStep := 3, answered := true, soakFails := 0, soakWrong := 0 }
          else if (s.port p).agreeTries = 0 then modPort s p fun e => { e with agreeTries := 1 } else negFail s p 5)) ∧
  (∀ (p : PortId) (ok : Bool) (wrong : BitVec 512) (s : State), portOk s p = true → (s.port p).pstate = .negotiating → (s.port
      p).negStep = 3 →
      exec (.soak p ok wrong) s = .next (if ok = true then s else
          modPort s p fun e => { e with soakFails := e.soakFails + 1, soakWrong := e.soakWrong ||| wrong })) ∧
  (∀ (p : PortId) (s : State), portOk s p = true → (s.port p).pstate = .negotiating → (s.port p).negStep = 3 →
      ((s.port p).soakFails ≤ 1 → exec (.soakEnd p) s = .next (modPort s p fun e => { e with negStep := 4, answered := false })) ∧
        (1 < (s.port p).soakFails → 1 ≤ (s.port p).soakFailed → exec (.soakEnd p) s =
          .next (failPort (raiseOn (modPort s p fun e => { e with negStep := 0 }) p.die edlUnit p.port Code.soakFail 2) p 0))) ∧
  (∀ (p : PortId) (n : Nat) (s : State), portOk s p = true → (s.port p).pstate = .negotiating → (s.port p).negStep = 4 →
      ∃ t, exec (.init p n) s = .next t ∧
        t = { s with dies := t.dies, boot := t.boot, ports := t.ports } ∧
        (t.port p).pstate = .up ∧ (t.port p).nextSeq = 0 ∧ (t.port p).expected = 0 ∧ (t.port p).lec = 0 ∧
        (t.port p).replayBuf = [] ∧ (t.port p).acceptedAny = false ∧ (t.port p).sentCnt = Vector.replicate 6 0 ∧
        (t.port p).freedIn = Vector.replicate 6 0) ∧
  (∀ (p : PortId) (s : State), portOk s p = true → (s.port p).pstate = .negotiating →
      ((s.port p).negStep = 1 ∨ (s.port p).negStep = 4 → exec (.negTimeout p) s = .next (negFail s p 4)) ∧
        ((s.port p).negStep = 2 → exec (.negTimeout p) s = .next (negFail s p 5)) ∧
        ((s.port p).negStep = 1 → exec (.negotiationResend p) s = .next (sendLink s p 1 (plainTrailer (s.port p)) [b2n (s.port p).partner.isSome])) ∧
        ((s.port p).negStep = 2 → exec (.negotiationResend p) s = .next (sendLink s p 2 (plainTrailer (s.port p)) [])) ∧
        ((s.port p).negStep = 4 → exec (.negotiationResend p) s = .next (sendLink s p 4 (plainTrailer (s.port p)) [min 255 (s.port p).soakFails]))) ∧
  (∀ (p : PortId) (s : State), portOk s p = true → dieOpen s p.die = true →
      exec (.portIsolate .core p) s = .next (answer (isolatePort s p) .core (portBase p + 0x104) .ok) ∧
        ((s.port p).pstate = .isolated ∨ (s.port p).pstate = .dead ∨ (s.port p).pstate = .absent ∨ (s.port p).pstate = .down → isolatePort s p = s) ∧
        ((s.port p).pstate = .up → ((isolatePort s p).port p).pstate = .isolated)) ∧
  (∀ (p : PortId) (s : State), portOk s p = true → (s.port p).pstate ≠ .negotiating →
      exec (.isolationDetect p) s = .next (if (s.port p).sbUp = true then isolatePort s p else s))

/-- Maintenance parcels write and read a die's memory; remote reads are answered line by line, their lines held, or by one
error (R173, R209, R210, R211, R212, R214). Where no rule speaks it says the model's choice: log entries 50, 52, 53,
55. -/
def Obligations.MaintenanceAndReads : Prop :=
  (∀ (r : LinkRx) (x : Parcel) (cd cl : Nat) (s s1 : State), portOk s r.port = true → linkReceive s r = (some x, s1) → x.vc = 5
      → x.kind = 0 → windowOf s1 (leAt x.payload 0 4) (max 1 (x.payload.drop 4).length) = .sram cd cl → r.port.die = Die.ofCd
      cd →
      ∃ t, exec (.vc5Write r) s = .next t ∧ t = { s1 with mem := t.mem, fabs := t.fabs } ∧ (t.fab cd).held = (s1.fab cd).held ∧
        t.mem = storeBytes s1.mem (leAt x.payload 0 4) (x.payload.drop 4)) ∧
  (∀ (r : LinkRx) (x : Parcel) (s s1 : State), portOk s r.port = true → linkReceive s r = (some x, s1) → x.vc = 5 → x.kind = 1
      →
      exec (.vc5Read r) s = .next (serveRead s1 r.port.die x 5 2)) ∧
  (∀ (r : LinkRx) (x : Parcel) (cd cl : Nat) (s s1 : State), portOk s r.port = true → linkReceive s r = (some x, s1) → x.vc = 2
      → x.kind = 0 → r.port.die = Die.ofCd cd → leAt x.payload 0 4 % 64 = 0 → leAt x.payload 4 1 = 1 → windowOf s1 (leAt
      x.payload 0 4) 64 = .sram cd cl → poisonedAt s1 cd (leAt x.payload 0 4) 64 = false →
      exec (.readRequest r) s = .next (modFab (sendParcel s1 r.port.die {
            src := 0, dst := x.src, vc := 3, cls := 1, kind := 0, gen := x.gen, tag := x.tag
            last := true, arg := 0, payload := windowBytes s1 (leAt x.payload 0 4) 64 }) cd fun f => holdLine f (leAt x.payload 0 4))) ∧
  (∀ (r : LinkRx) (x : Parcel) (s s1 : State), portOk s r.port = true → linkReceive s r = (some x, s1) → x.vc = 2 → x.kind = 0
      → r.port.die ≠ .svc → leAt x.payload 0 4 % 64 ≠ 0 ∨ leAt x.payload 4 1 = 0 ∨ 16 < leAt x.payload 4 1 ∨ readServed s1
      r.port.die (leAt x.payload 0 4) (64 * leAt x.payload 4 1) false = false →
      ∃ cls, exec (.readRequest r) s = .next (sendParcel s1 r.port.die {
            src := 0, dst := x.src, vc := 3, cls := cls, kind := 0, gen := x.gen, tag := x.tag
            last := true, arg := 1, payload := [] })) ∧
  (∀ (r : LinkRx) (x : Parcel) (cd : Nat) (s s1 : State), portOk s r.port = true → linkReceive s r = (some x, s1) → x.vc = 3 →
      x.kind = 0 → r.port.die.cdIdx = some cd → ∀ t ∈ (s1.fab cd).tags, t.tag ≠ x.tag → x.gen = (s1.fab cd).gen →
      exec (.readResponse r) s = .next (logOnly (modFab s1 cd fun f => { f with discards := satAdd 0xFFFFFFFF f.discards 1 }) (Die.ofCd cd) 4 0 Code.tagUnknown 1)) ∧
  (∀ (r : LinkRx) (x : Parcel) (cd : Nat) (g : ReadTag) (s s1 : State), portOk s r.port = true → linkReceive s r = (some x, s1)
      → x.vc = 3 → x.kind = 0 → r.port.die.cdIdx = some cd → (s1.fab cd).tags = [g] → g.tag = x.tag → g.gen = x.gen →
      g.target.code = x.src → g.lost = false → g.old = false → g.discard = false → x.arg % 2 = 0 → x.last = false →
      exec (.readResponse r) s = .next (fillLine s1 cd g (g.addr + 64 * (x.arg / 2 % 16)) (padTo 64 x.payload))) ∧
  (∀ (cd : Nat) (g : ReadTag) (s : State), cdOk s cd = true → (s.fab cd).tags = [g] → tagOut g = true →
      ∃ t, exec (.readTimeout cd g.tag) s = .next t ∧
        t = { s with
          seqr := t.seqr, dies := t.dies, ports := t.ports, fabs := t.fabs, recs := t.recs, log := t.log,
          outboxes := t.outboxes } ∧
        (t.fab cd).lostCount = satAdd 0xFFFFFFFF (s.fab cd).lostCount 1 ∧ t.seqr.cur.partialEp = true ∧
        t.mem = s.mem) ∧
  (∀ (cd n : Nat) (src dst : Word) (d : Die) (s : State), cdOk s cd = true → (windowOf s (src.toNat / 64 * 64) 64).die = some d
      → d ≠ Die.ofCd cd → (s.fab cd).masterActive = true → (s.fab cd).waitq = [] → freeTag (s.fab cd) = some n → ((s.fab
      cd).tags.filter fun x => tagOut x && x.port == readPort s cd d).length < portTags s cd (readPort s cd d) →
      ∃ g : ReadTag, g = { tag := n, gen := (s.fab cd).gen, addr := src.toNat / 64 * 64, lines := 1, nc := true, target := d,
                                port := readPort s cd d, issued := s.now,
                                waiters := [{ line := src.toNat / 64 * 64, dst := dst.toNat, xfer := (s.fab cd).xferNext }] } ∧
        exec (.remoteLoad cd src 1 dst true) s = .next (sendRead (modFab s cd fun f => { f with
          xferNext := f.xferNext + 1, miss := f.miss + 1, tags := f.tags ++ [g] }) cd g)) ∧
  (∀ (cd lines : Nat) (src dst : Word) (nc : Bool) (s : State), cdOk s cd = true →
      ((windowOf s (src.toNat / 64 * 64) 64).die = none → exec (.remoteLoad cd src lines dst nc) s =
          .next (markPartial (logOnly s (Die.ofCd cd) 4 0 Code.remoteErr 2 (args4 [src.toNat / 64 * 64])) (Die.ofCd cd))) ∧
        ((windowOf s (src.toNat / 64 * 64) 64).die = some (Die.ofCd cd) → exec (.remoteLoad cd src lines dst nc) s = .next s))

/-- MASTER_EN clears MASTER_ACTIVE at once and sets it once nothing is outstanding; disabling the cache empties it;
scrubbing (R213, R215, R217, R222, R223, R224). Where no rule speaks it says the model's choice: log entry 54. -/
def Obligations.MasterControlAndScrub : Prop :=
  (∀ (cd : Nat) (v : Word) (s : State), cdOk s cd = true → dieOpen s (Die.ofCd cd) = true → inField s = false ∨ rb s (fabReg cd
      0) 2 = false ∨ wbit v 2 = true →
      ∃ t, exec (.masterEnWrite .core cd v) s = .next t ∧
        t = { s with regs := t.regs, out := t.out, seqr := t.seqr, fabs := t.fabs } ∧
        (wbit v 0 = false → (t.fab cd).masterActive = false ∧ (t.fab cd).waitq = []) ∧
        (wbit v 0 = true → outstanding (s.fab cd) = 0 → (t.fab cd).masterActive = true) ∧ (wbit v 1 = false → (t.fab cd).cache = []) ∧
        t.out = s.out ++ [.answer .core (toWord (fabReg cd 0)) .ok 0 0]) ∧
  (∀ (cd : Nat) (v : Word) (s : State), cdOk s cd = true → dieOpen s (Die.ofCd cd) = true → inField s = true → rb s (fabReg cd
      0) 2 = true → wbit v 2 = false →
      exec (.masterEnWrite .core cd v) s = .next { s with out := s.out ++ [.answer .core (toWord (fabReg cd 0)) .refused 0 0] }) ∧
  (∀ (cd : Nat) (s : State), cdOk s cd = true → dieOpen s (Die.ofCd cd) = true →
      ∃ t, exec (.remoteCacheDisable .core cd) s = .next t ∧
        t = { s with regs := t.regs, out := t.out, seqr := t.seqr, fabs := t.fabs } ∧
        (t.fab cd).cache = [] ∧ t.mem = s.mem) ∧
  (∀ (cd : Nat) (s : State), cdOk s cd = true → (s.fab cd).masterActive = false → outstanding (s.fab cd) ≠ 0 → (s.fab cd).stuck
      = false →
      ∃ t, exec (.stuckTimeout cd) s = .next t ∧
        t = { s with fabs := t.fabs, log := t.log, outboxes := t.outboxes } ∧
        (t.fab cd).stuck = true ∧ (t.fab cd).tags = (s.fab cd).tags) ∧
  (∀ (cd : Nat) (s : State), cdOk s cd = true →
      exec (.scrubRead cd) s = .next (if rb s (fabReg cd 0x100) 0 = true ∧ s.seqr.killed = false ∧ takesLaunches s (Die.ofCd cd) = true ∧ scrubSegs s cd ≠ [] then
          scrubEpoch s cd else s)) ∧
  (∀ (cd seg : Nat) (chunks : List (List Byte × Bool)) (s : State), cdOk s cd = true → seg < 64 →
      (s.seqr.merging = false ∨ (s.fab cd).scrubFail = false ∨ (s.fab cd).scrubFailSeg ≠ seg ∨ (∃ c ∈ chunks, c.2 = false) →
          exec (.weightChunkRewrite cd seg chunks) s = .next s) ∧
        (s.seqr.merging = true → (s.fab cd).scrubFail = true → (s.fab cd).scrubFailSeg = seg → (∀ c ∈ chunks, c.2 = true) →
          exec (.weightChunkRewrite cd seg chunks) s = .next (modFab (chunks.zipIdx.foldl (fun t c =>
            sendMaint t (Die.ofCd cd) 1093 ((segment s cd seg).base + 65536 * c.2) (c.1.1.take 65536)) s) cd fun f => { f with scrubRecheck := true })))

/-- EXPOSE and EXPOSE_HDR start an exposure or report a missing frame; the sensor's events move its state (R235, R236,
R237, R238, R251, R253, R254). Where no rule speaks it says the model's choice: log entries 57, 58. -/
def Obligations.SensorCommands : Prop :=
  (∀ (f : SbFrame) (w : BitVec 48) (e : LaunchEntry) (ns : Nat) (cl : Bool) (s s1 : State), LaunchReady s f 1 w s1 e →
      f.port.die = .eye → tokUnit w = 0 → s1.eye.state = .standby → s1.eye.relocking = false → rb s1 0x01000000 0 = false →
      singleTime (wMax s1 (rnat s1 0x01000014)) e.arg.toNat = some (ns, cl) →
      ∃ t, exec (.expose f true) s = .next t ∧
        t = { s with
          regs := t.regs, out := t.out, seqr := t.seqr, dies := t.dies, boot := t.boot, ports := t.ports, eye := t.eye,
          isp := t.isp, recs := t.recs, log := t.log, outboxes := t.outboxes } ∧
        t.eye.state = .exposing ∧ t.eye.hdrActive = false ∧ t.eye.clamped = cl ∧ t.eye.expLast = ns ∧
        t.eye.plan = some { hdr := false, timeNs := ns, shortUs := 0, k := 0, phase := 0, received := s1.now, begins := s1.tb.ltime + 1000 } ∧
        t.eye.exposed = true ∧ t.mem = s1.mem) ∧
  (∀ (w ns t : Nat) (cl : Bool), singleTime w ns = some (t, cl) →
      10000 ≤ t ∧ 60000 ≤ w ∧ (cl = false → 10000 ≤ ns ∧ 6 * ns ≤ w)) ∧
  (∀ (f : SbFrame) (w : BitVec 48) (e : LaunchEntry) (sh k : Nat) (cl : Bool) (s s1 : State), LaunchReady s f 2 w s1 e →
      f.port.die = .eye → tokUnit w = 0 → s1.eye.state = .standby → s1.eye.relocking = false → rb s1 0x01000000 0 = false →
      dualTime (wMax s1 (rnat s1 0x01000018)) (wbits e.arg 31 16) (wbits e.arg 15 0) = some (sh, k, cl) →
      ∃ t, exec (.exposeHdr f true) s = .next t ∧
        t = { s with
          regs := t.regs, out := t.out, seqr := t.seqr, dies := t.dies, boot := t.boot, ports := t.ports, eye := t.eye,
          isp := t.isp, recs := t.recs, log := t.log, outboxes := t.outboxes } ∧
        t.eye.state = .exposing ∧ t.eye.hdrActive = true ∧ t.eye.clamped = cl ∧
        t.eye.plan = some { hdr := true, timeNs := 0, shortUs := sh, k := k, phase := 0, received := s1.now, begins := s1.tb.ltime + 1000 } ∧
        1 ≤ k ∧ k ≤ 4 ∧ 10 ≤ sh) ∧
  (∀ (f : SbFrame) (w : BitVec 48) (e : LaunchEntry) (s s1 : State), LaunchReady s f 1 w s1 e → f.port.die = .eye → tokUnit w =
      0 → s1.eye.state = .off ∨ s1.eye.state = .cal ∨ s1.eye.state = .fault →
      ∃ t, exec (.expose f true) s = .next t ∧
        t = { s with
          regs := t.regs, out := t.out, seqr := t.seqr, dies := t.dies, boot := t.boot, ports := t.ports, eye := t.eye,
          isp := t.isp, recs := t.recs, log := t.log, outboxes := t.outboxes } ∧
        t.eye.frameMissing = true ∧ t.eye.lastMissing = 5 ∧ t.eye.missing = s1.eye.missing + 1 ∧
        t.eye.state = s1.eye.state) ∧
  (∀ (a b : Bool) (s : State), s.eye.state = .cal → a = true ∨ b = true →
      ∃ t, exec (.sensorCalDone a b) s = .next t ∧ t = { s with eye := { s.eye with
          bankA := a, bankB := b, state := if a = true ∧ b = true then .standby else .fault
          faultCause := if a = true ∧ b = true then s.eye.faultCause else if b = true then 1 else 2 } }) ∧
  (∀ (s : State), s.eye.state = .cal →
      exec .calTimeout s = .next { s with eye := { s.eye with state := .fault, faultCause := 4 } }) ∧
  (∀ (p : ExpPlan) (s : State), s.eye.state = .exposing → s.eye.plan = some p →
      exec .exposureEnd s = .next { s with eye := if p.hdr = true ∧ p.phase = 0 then { s.eye with plan := some { p with phase := 1 } }
          else { s.eye with state := .reading, rows := 0, bankWait := waitsForBanks s p } }) ∧
  (∀ (l m : List Nat) (s : State), s.eye.state = .reading → s.eye.bankWait = false →
      exec (.rowConverted l m) s = .next (convertRow s l m) ∧ exec .bankPowerUp s = .next s) ∧
  (∀ (s : State),
      exec .bankPowerUp s = .next { s with eye := { s.eye with bankWait := false } }) ∧
  (∀ (s : State), s.eye.state ≠ .exposing → s.eye.state ≠ .reading →
      exec (.rowConverted [] []) s = .next s ∧ exec .vpixFault s = .next s) ∧
  (∀ (s : State), s.eye.state = .exposing ∨ s.eye.state = .reading →
      ∃ t, exec .vpixFault s = .next t ∧
        t = { s with
          dies := t.dies, ports := t.ports, eye := t.eye, isp := t.isp, recs := t.recs, log := t.log,
          outboxes := t.outboxes } ∧
        t.eye.state = .standby ∧ t.eye.frameMissing = true ∧ t.eye.lastMissing = 3 ∧ t.isp.cause = 5) ∧
  (∀ (x y : Nat) (s : State), s.eye.state = .standby → s.eye.clkLosses = [x, y] → y ≤ x → x ≤ s.now →
      ∃ t, exec .seqClockLost s = .next t ∧
        t = { s with
          dies := t.dies, ports := t.ports, eye := t.eye, isp := t.isp, recs := t.recs, log := t.log,
          outboxes := t.outboxes } ∧
        (s.now < y + 1000000000 → t.eye.state = .fault ∧ t.eye.faultCause = 3) ∧
        (y + 1000000000 ≤ s.now → t.eye.state = .standby ∧ t.eye.relocking = true)) ∧
  (∀ (s : State), s.eye.relocking = true →
      exec .seqClockRelock s = .next { s with eye := { s.eye with relocking := false } })

/-- ISP_START arms the ISP for the epoch's frame, each delivered row is checked and processed in order, and companded
codes expand into their step (R241, R257, R258, R273, R285). Where no rule speaks it says the model's choice: log
entry 65. -/
def Obligations.ImagePipelineCommands : Prop :=
  (∀ (f : SbFrame) (w : BitVec 48) (e : LaunchEntry) (s s1 : State), LaunchReady s f 8 w s1 e → f.port.die = .eye → tokUnit w =
      1 → s1.eye.exposed = true →
      ∃ t, exec (.ispStart f) s = .next t ∧
        t = { s with
          regs := t.regs, out := t.out, seqr := t.seqr, dies := t.dies, boot := t.boot, ports := t.ports, isp := t.isp,
          recs := t.recs, log := t.log, outboxes := t.outboxes } ∧
        (s1.eye.frameMissing = true → t.isp.state = .aborted) ∧
        (s1.eye.frameMissing = false → t.isp.state = .armed ∧ t.isp.next = 0 ∧ t.isp.emitted = 0 ∧ t.isp.stat.pixels = 0 ∧
          t.isp.stat.src = rf s1 0x01020000 2 1)) ∧
  (∀ (f : SbFrame) (w : BitVec 48) (e : LaunchEntry) (s s1 : State), LaunchReady s f 8 w s1 e → f.port.die = .eye → tokUnit w =
      1 → s1.eye.exposed = false → (unitOf s1 .eye 0).queued = none →
      exec (.ispStart f) s = .next (unitDone (logOnly (running s1 .eye 1 (launchedBy s1 w e)) .eye 1 0 Code.ispNoFrame 1) .eye 1)) ∧
  (∀ (len index : Nat) (fe le te : Bool) (s : State), s.eye.exposed = true → s.eye.frameMissing = false → s.isp.state = .armed
      ∨ s.isp.state = .running →
      (len ≠ 4112 → exec (.ispRowProcess len index fe le te) s = .next (abortFrame s 2 0)) ∧
        (len = 4112 → fe = true → index < 3079 → exec (.ispRowProcess len index fe le te) s = .next (abortFrame s 3 0)) ∧
        (len = 4112 → fe = false → index ≠ s.isp.next → exec (.ispRowProcess len index fe le te) s = .next (abortFrame s 4 0)) ∧
        (len = 4112 → fe = false → index = s.isp.next → index ≤ 3079 → le = true → exec (.ispRowProcess len index fe le te) s = .next (abortFrame s 7 0)) ∧
        (len = 4112 → fe = false → index = s.isp.next → index ≤ 3079 → le = false → te = false → index < s.eye.rows →
          exec (.ispRowProcess len index fe le te) s = .next (processRow s index))) ∧
  (∀ (s : State), s.eye.state = .exposing ∨ s.eye.state = .reading →
      exec .frameTimeout s = .next (abortFrame s 1 0)) ∧
  (∀ (c v : Nat), c ≤ 3919 → v < 1024 →
      compand (expand c) = c ∧ compand v = v ∧ expand v = v)

/-- RUN_GROUP starts a placement group on its cluster, streams fill its input buffer, and bands run as their input and
halo allow (R47, R54, R299, R300, R304). Where no rule speaks it says the model's choice: log entries 66, 67, 68. -/
def Obligations.GroupsAndStreams : Prop :=
  (∀ (f : SbFrame) (w : BitVec 48) (e : LaunchEntry) (g : GroupDesc) (cd k : Nat) (s s1 : State), LaunchReady s f 0x10 w s1 e →
      f.port.die = Die.ofCd cd → cd < 4 → tokUnit w = k → k < 4 → clusterUsable (s1.cl cd k) = true → groupOf s1 cd
      e.arg.toNat = some g → (s1.cdie cd).aborted = false →
      ∃ t, exec (.runGroup f) s = .next t ∧ t = { s1 with dies := t.dies, comp := t.comp } ∧ (t.cl cd k).state = .running ∧
        (t.cl cd k).group = g.index ∧ (t.cl cd k).band = g.bandFirst ∧ (t.cl cd k).started = s1.now ∧ (t.cl cd k).lastErr = 0 ∧
        unitOf t (Die.ofCd cd) k = ⟨some (launchedBy s1 w e), none⟩) ∧
  (∀ (f : SbFrame) (w : BitVec 48) (e : LaunchEntry) (g : GroupDesc) (cd k : Nat) (s s1 : State), LaunchReady s f 0x10 w s1 e →
      f.port.die = Die.ofCd cd → cd < 4 → tokUnit w = k → k < 4 → clusterUsable (s1.cl cd k) = true → groupOf s1 cd
      e.arg.toNat = none ∨ (s1.cdie cd).aborted = true →
      ∃ t, exec (.runGroup f) s = .next t ∧ t = { s1 with dies := t.dies } ∧ unitOf t (Die.ofCd cd) k = ⟨none, none⟩ ∧ (t.die (Die.ofCd cd)).missed = (s1.die (Die.ofCd cd)).missed) ∧
  (∀ (f : SbFrame) (w : BitVec 48) (e : LaunchEntry) (cd k : Nat) (s s1 : State), LaunchReady s f 0x10 w s1 e → f.port.die =
      Die.ofCd cd → cd < 4 → tokUnit w = k → k < 4 → clusterUsable (s1.cl cd k) = false →
      ∃ t, exec (.runGroup f) s = .next t ∧
        t = { s with
          regs := t.regs, out := t.out, seqr := t.seqr, dies := t.dies, boot := t.boot, ports := t.ports, comp := t.comp,
          recs := t.recs, log := t.log, outboxes := t.outboxes } ∧
        unitOf t (Die.ofCd cd) k = ⟨none, none⟩ ∧
        (t.die (Die.ofCd cd)).missed = satAdd 65535 (s1.die (Die.ofCd cd)).missed 1 ∧ t.seqr.cur.degraded = true) ∧
  (∀ (r : LinkRx) (x : Parcel) (cd : Nat) (s s1 : State), portOk s r.port = true → linkReceive s r = (some x, s1) → x.vc = 1 →
      x.kind = 0 → r.port.die.cdIdx = some cd → streamMatch s1 cd x.src x.tag = none →
      exec (.stream r) s = .next (logOnly s1 (Die.ofCd cd) 4 0 Code.streamUnknown 1 (args4 [x.tag, x.src]))) ∧
  (∀ (r : LinkRx) (x : Parcel) (cd : Nat) (g : GroupDesc) (s s1 : State), portOk s r.port = true → linkReceive s r = (some x,
      s1) → x.vc = 1 → x.kind = 0 → x.comp = false → r.port.die.cdIdx = some cd → streamMatch s1 cd x.src x.tag = some g →
      g.inKind = 0 → (s1.cdie cd).aborted = false → inBandOf (s1.cdie cd) g.index x.arg = none →
      ∃ t, exec (.stream r) s = .next t ∧
        t = { s with
          freeIdx := t.freeIdx, regs := t.regs, out := t.out, seqr := t.seqr, boot := t.boot, ports := t.ports,
          fabs := t.fabs, mem := t.mem, comp := t.comp, guard := t.guard, recs := t.recs, peers := t.peers, log := t.log,
          outboxes := t.outboxes } ∧
        inBandOf (t.cdie cd) g.index x.arg = some { desc := g.index, band := x.arg, bytes := x.payload.length, last := x.last } ∧
        t.mem = (storeInput s1 cd g x.arg 0 x.payload .stream).mem ∧ t.regs = s1.regs ∧ (t.cdie cd).halos = (s1.cdie cd).halos) ∧
  (∀ (cd k : Nat) (jobs wide : List LayerJob) (hv : HvInput) (g : GroupDesc) (b : Launched) (s : State), cdOk s cd = true → k <
      4 → groupOf s cd (s.cl cd k).group = some g → (unitOf s (Die.ofCd cd) k).busy = some b → b.act ≠ 0x12 → g.clusters = 2 ^
      k → clusterBusy (s.cl cd k) = true → hvProgOf s cd g.index = none →
      (bandIn s cd g (s.cl cd k).band = false → exec (.groupBandProcess cd k jobs wide .none hv) s = .next (waitFor s cd [k])) ∧
        (bandIn s cd g (s.cl cd k).band = true → haloNeed s cd g (layerAt s cd k (jobs.headD default)) (s.cl cd k).band = .ready →
          exec (.groupBandProcess cd k jobs wide .none hv) s =
            .next (bandWork (modComp (runAgain s cd [k]) cd fun c => { c with waiting := false }) cd [k] g jobs wide (s.cl cd k).band))) ∧
  (∀ (cd k : Nat) (jobs wide : List LayerJob) (hv : HvInput) (g : GroupDesc) (b : Launched) (s : State), cdOk s cd = true → k <
      4 → groupOf s cd (s.cl cd k).group = some g → (unitOf s (Die.ofCd cd) k).busy = some b → clusterBusy (s.cl cd k) = true
      →
      ∃ t, exec (.groupBandProcess cd k jobs wide .badAddress hv) s = .next t ∧
        t = { s with
          freeIdx := t.freeIdx, out := t.out, seqr := t.seqr, dies := t.dies, ledgers := t.ledgers, ports := t.ports,
          fabs := t.fabs, mem := t.mem, comp := t.comp, det := t.det, hv := t.hv, recs := t.recs, log := t.log,
          outboxes := t.outboxes } ∧
        (t.cl cd k).state = .idle ∧ (t.cl cd k).lastErr = 2 ∧
        (unitOf t (Die.ofCd cd) k).busy = none ∧ t.seqr.cur.partialEp = true ∧ t.mem = s.mem) ∧
  (∀ (cd k : Nat) (jobs wide : List LayerJob) (fault : ProgFault) (hv : HvInput) (s : State), cdOk s cd = true → k < 4 →
      clusterBusy (s.cl cd k) = false →
      exec (.groupBandProcess cd k jobs wide fault hv) s = .next s) ∧
  (∀ (r : LinkRx) (x : Parcel) (cd : Nat) (s s1 : State), portOk s r.port = true → linkReceive s r = (some x, s1) → x.vc = 0 →
      x.kind = 8 → x.arg = 4 → r.port.die = Die.ofCd cd → cd < 4 →
      ∃ t, exec (.frameAbort r) s = .next t ∧ (t.cdie cd).aborted = true ∧
        ((s1.die (Die.ofCd cd)).doneSent = true → t = { s1 with comp := t.comp } ∧ (t.cdie cd).aborts = (s1.cdie cd).aborts) ∧
        ((s1.die (Die.ofCd cd)).doneSent = false → (t.cdie cd).aborts = (s1.cdie cd).aborts + 1 ∧ (t.cdie cd).inputs = [] ∧ (t.cdie cd).heldRows = [] ∧
          (∀ h ∈ (t.cdie cd).halos, h.committed = true)))

/-- A halo is held until its version is committed, by its COMMIT and its LAST parcel; a revoked or older version is
discarded (R52, R370, R371, R372, R384). Where no rule speaks it says the model's choice: log entry 75. -/
def Obligations.HalosAndTheirCommit : Prop :=
  (∀ (r : LinkRx) (x : Parcel) (cd : Nat) (g : GroupDesc) (s s1 : State), portOk s r.port = true → linkReceive s r = (some x,
      s1) → x.vc = 4 → x.kind = 0 → x.comp = false → r.port.die.cdIdx = some cd → haloMatch s1 cd x.src x.tag = some g →
      (s1.cdie cd).aborted = false → (s1.cdie cd).halos = [] →
      ∃ t, exec (.halo r) s = .next t ∧
        t = { s with
          regs := t.regs, out := t.out, seqr := t.seqr, boot := t.boot, ports := t.ports, fabs := t.fabs, mem := t.mem,
          comp := t.comp, recs := t.recs, log := t.log, outboxes := t.outboxes } ∧
        (t.cdie cd).halos = [{
            tag := x.tag, src := x.src, band := x.arg / 256, version := x.arg % 256, spec := x.spec
            bytes := x.payload.length, parcels := 1, last := x.last, committed := x.last && !x.spec }] ∧
        t.mem = (storeInput s1 cd g (x.arg / 256) 0 x.payload .halo).mem ∧ (t.cdie cd).inputs = (s1.cdie cd).inputs) ∧
  (∀ (r : LinkRx) (x : Parcel) (cd : Nat) (g : GroupDesc) (s s1 : State), portOk s r.port = true → linkReceive s r = (some x,
      s1) → x.vc = 4 → x.kind = 0 → r.port.die.cdIdx = some cd → haloMatch s1 cd x.src x.tag = some g → (s1.cdie cd).aborted =
      true → (s1.cdie cd).halos = [] →
      exec (.halo r) s = .next (discardHalo s1 cd 1)) ∧
  (∀ (f : SbFrame) (w : BitVec 48) (cd : Nat) (v : HaloVer) (s s1 : State), portOk s f.port = true → takeToken s f = (some w,
      s1) → tokType w = 3 → f.port.die.cdIdx = some cd → tokEp w = (s1.die f.port.die).ep % 8 → (s1.cdie cd).halos = [v] →
      v.src = tokSrc w → v.tag = tokUnit w → v.version = tokAct w → v.committed = false → v.revoked = false →
      ∃ t, exec (.commit f) s = .next t ∧ (t.cdie cd).halos = [{ v with commitSeen := true, committed := v.last }] ∧
        (t.cdie cd).countNow.commits = (s1.cdie cd).countNow.commits + (if v.last then 1 else 0) ∧ t = { s1 with comp := t.comp } ∧
        (v.last = false → (t.cdie cd).heldRows = (s1.cdie cd).heldRows)) ∧
  (∀ (f : SbFrame) (w : BitVec 48) (cd : Nat) (v : HaloVer) (s s1 : State), portOk s f.port = true → takeToken s f = (some w,
      s1) → tokType w = 4 → f.port.die.cdIdx = some cd → tokEp w = (s1.die f.port.die).ep % 8 → (s1.cdie cd).halos = [v] →
      v.src = tokSrc w → v.tag = tokUnit w → v.version = tokAct w → v.committed = false → v.revoked = false →
      ∃ t, exec (.revoke f) s = .next t ∧ (t.cdie cd).halos = [{ v with revoked := true }] ∧
        (t.cdie cd).countNow.revokes = (s1.cdie cd).countNow.revokes + 1 ∧ t = { s1 with comp := t.comp } ∧
        ∀ p i, (commitHalos (t.cdie cd) p i).halos = (t.cdie cd).halos) ∧
  (∀ (f : SbFrame) (w : BitVec 48) (cd : Nat) (s s1 : State), portOk s f.port = true → takeToken s f = (some w, s1) →
      f.port.die.cdIdx = some cd → tokEp w ≠ (s1.die f.port.die).ep % 8 →
      exec (.commit f) s = .next s1 ∧ exec (.revoke f) s = .next s1)

/-- A block of 32 codes decodes from its coded bytes to within the error that the coder reports, at most 2^(SHIFT−1), zero
at SHIFT 0 (R376, R377, R378). -/
def Obligations.CompressionError : Prop :=
  (∀ (n : Nat) (bs : List Byte), n = 3 ∨ n = 4 → bs.length = 32 →
      ∃ ys, decompBlock false (compBlock false n bs).1 = some ys ∧ ys.length = 32 ∧ (compBlock false n bs).1.length = 2 + 4 * n ∧
        (∀ i, i < 32 → (ys.getD i 0).toNat ≤ (bs.getD i 0).toNat + (compBlock false n bs).2 ∧ (bs.getD i 0).toNat ≤ (ys.getD i 0).toNat + (compBlock false n bs).2) ∧
        2 * (compBlock false n bs).2 ≤ 2 ^ (leAt (compBlock false n bs).1 1 1 % 16) ∧
        (leAt (compBlock false n bs).1 1 1 % 16 = 0 → ys = bs)) ∧
  (∀ (n : Nat) (bs : List Byte), n = 3 ∨ n = 4 → bs.length = 32 →
      ∃ ys, decompBlock true (compBlock true n bs).1 = some ys ∧ ys.length = 32 ∧
        ∀ i, i < 32 → ((ys.getD i 0) ^^^ 0x80).toNat ≤ ((bs.getD i 0) ^^^ 0x80).toNat + (compBlock true n bs).2 ∧
          ((bs.getD i 0) ^^^ 0x80).toNat ≤ ((ys.getD i 0) ^^^ 0x80).toNat + (compBlock true n bs).2)

/-- A stalled cluster is switched off, its third stall in 600 s makes the die unusable; a word with an uncorrectable error
is poisoned (R206, R294, R295, R315). Where no rule speaks it says the model's choice: log entries 69, 74. -/
def Obligations.ClusterFaults : Prop :=
  (∀ (cd k : Nat) (s : State), cdOk s cd = true → k < 4 → (s.cl cd k).state = .running → rb s (cdBase cd + 0x100000 * k) 1 =
      true → (s.cl cd k).stallTimes = [] →
      ∃ t, exec (.clusterStall cd k) s = .next t ∧
        t = { s with seqr := t.seqr, dies := t.dies, comp := t.comp, log := t.log, outboxes := t.outboxes } ∧
        (t.cl cd k).state = .off ∧ (t.cl cd k).lastErr = 1 ∧ (t.cl cd k).stallTimes = [s.now] ∧
        (t.cl cd k).stalls = satAdd 255 (s.cl cd k).stalls 1 ∧ (unitOf t (Die.ofCd cd) k).busy = none ∧ t.seqr.cur.partialEp = true ∧
        (t.die (Die.ofCd cd)).state = (s.die (Die.ofCd cd)).state ∧ t.mem = s.mem) ∧
  (∀ (cd k a b : Nat) (s : State), cdOk s cd = true → k < 4 → (s.cl cd k).state = .running → rb s (cdBase cd + 0x100000 * k) 1
      = true → (s.cl cd k).stallTimes = [a, b] → s.now ≤ a + 600000000000 → s.now ≤ b + 600000000000 →
      ∃ t, exec (.clusterStall cd k) s = .next t ∧
        t = { s with seqr := t.seqr, dies := t.dies, comp := t.comp, log := t.log, outboxes := t.outboxes } ∧
        (t.cl cd k).state = .failed ∧ (t.die (Die.ofCd cd)).state = 6) ∧
  (∀ (cd k : Nat) (s : State), cdOk s cd = true → k < 4 → (s.cl cd k).state ≠ .running ∨ rb s (cdBase cd + 0x100000 * k) 1 =
      false →
      exec (.clusterStall cd k) s = .next s) ∧
  (∀ (cd a b c d : Nat) (s : State), cdOk s cd = true →
      ∃ t, exec (.speedMonitorSample cd [a, b, c, d]) s = .next t ∧ (t.cl cd 0).speed = a ∧ (t.cl cd 1).speed = b ∧ (t.cl cd 2).speed = c ∧
        (t.cl cd 3).speed = d ∧ t = { s with comp := t.comp }) ∧
  (∀ (cd k : Nat) (s : State), cdOk s cd = true → k < 4 →
      (minRate s.power.vcoreSet ≤ (s.cl cd k).speed → exec (.speedLow cd k) s = .next s) ∧
        ((s.cl cd k).speed < minRate s.power.vcoreSet →
          exec (.speedLow cd k) s = .next (raiseOn s (Die.ofCd cd) 4 0 Code.speedLow 1 (args4 [k, (s.cl cd k).speed])))) ∧
  (∀ (m : Nat),
      260 ≤ minRate m ∧ minRate m ≤ 970 ∧ minRate 750 = 820 ∧ minRate 600 = 440 ∧ minRate 680 = 630 ∧ minRate m ≤ minRate (m + 1)) ∧
  (∀ (cd k : Nat) (a : Word) (s : State), cdOk s cd = true → k < 4 →
      ∃ t, exec (.eccUncorrectable cd k a) s = .next t ∧
        t = { s with
          seqr := t.seqr, dies := t.dies, fabs := t.fabs, comp := t.comp, log := t.log, outboxes := t.outboxes } ∧
        t.mem = s.mem ∧ a.toNat / 8 * 8 ∈ (t.fab cd).poison ∧ t.seqr.cur.partialEp = true ∧
        (t.fab cd).eccUnc = satAdd 65535 (s.fab cd).eccUnc 1 ∧
        (clusterBusy (s.cl cd k) = true → (t.cl cd k).lastErr = 3 ∧ (t.cl cd k).state = .idle ∧ (unitOf t (Die.ofCd cd) k).busy = none) ∧
        (clusterBusy (s.cl cd k) = false → t.comp = s.comp))

/-- DETECT waits for the heads and writes its list; an abort, a bad head block and a stall write an empty one; TRACK runs
the tracker (R302, R303, R304, R393, R395, R412, R417). Where no rule speaks it says the model's choice: log entries
77, 78. -/
def Obligations.DetectionAndTracking : Prop :=
  (∀ (f : SbFrame) (w : BitVec 48) (e : LaunchEntry) (g : GroupDesc) (cd : Nat) (s s1 : State), LaunchReady s f 0x11 w s1 e →
      f.port.die = Die.ofCd cd → cd < 4 → tokUnit w = 5 → rb s1 (cdBase cd + 0x600000) 0 = true → groupOf s1 cd e.arg.toNat =
      some g → (s1.cdie cd).aborted = false →
      ∃ t, exec (.detect f) s = .next t ∧ t = { s1 with dies := t.dies, det := t.det } ∧ (t.detUnit cd).state = .waitHead ∧ (t.detUnit cd).desc = g.index ∧
        (t.detUnit cd).lists = (s1.detUnit cd).lists ∧ unitOf t (Die.ofCd cd) 5 = ⟨some (launchedBy s1 w e), none⟩) ∧
  (∀ (f : SbFrame) (w : BitVec 48) (e : LaunchEntry) (cd : Nat) (s s1 : State), LaunchReady s f 0x11 w s1 e → f.port.die =
      Die.ofCd cd → cd < 4 → tokUnit w = 5 → rb s1 (cdBase cd + 0x600000) 0 = false →
      ∃ t, exec (.detect f) s = .next t ∧
        t = { s with
          regs := t.regs, out := t.out, seqr := t.seqr, dies := t.dies, boot := t.boot, ports := t.ports, fabs := t.fabs,
          mem := t.mem, det := t.det, recs := t.recs, log := t.log, outboxes := t.outboxes } ∧
        t.det = s1.det ∧ unitOf t (Die.ofCd cd) 5 = ⟨none, none⟩ ∧
        (t.die (Die.ofCd cd)).missed = satAdd 65535 (s1.die (Die.ofCd cd)).missed 1 ∧ t.seqr.cur.degraded = true) ∧
  (∀ (f : SbFrame) (w : BitVec 48) (e : LaunchEntry) (g : GroupDesc) (cd : Nat) (s s1 : State), LaunchReady s f 0x11 w s1 e →
      f.port.die = Die.ofCd cd → cd < 4 → tokUnit w = 5 → rb s1 (cdBase cd + 0x600000) 0 = true → groupOf s1 cd e.arg.toNat =
      some g → (s1.cdie cd).aborted = true →
      ∃ t, exec (.detect f) s = .next t ∧
        t = { s with
          regs := t.regs, out := t.out, seqr := t.seqr, dies := t.dies, boot := t.boot, ports := t.ports, fabs := t.fabs,
          mem := t.mem, det := t.det, recs := t.recs, log := t.log, outboxes := t.outboxes } ∧
        (t.detUnit cd).state = .idle ∧ (t.detUnit cd).lastErr = 3 ∧ (t.detUnit cd).keptNow = 0 ∧
        (t.detUnit cd).lists = (s1.detUnit cd).lists + 1 ∧ unitOf t (Die.ofCd cd) 5 = ⟨none, none⟩) ∧
  (∀ (cd : Nat) (g : GroupDesc) (s : State), cdOk s cd = true → groupOf s cd (s.detUnit cd).desc = some g →
      ((s.detUnit cd).state ≠ .waitHead ∨ headBusy s cd = true → exec (.detectStart cd) s = .next s) ∧
        ((s.detUnit cd).state = .waitHead → headBusy s cd = false → readHead (fun off n => memNat s (sramBase cd (lowestOf g) + off) n) g.prog = none →
          ∃ t, exec (.detectStart cd) s = .next t ∧
        t = { s with
          seqr := t.seqr, dies := t.dies, fabs := t.fabs, mem := t.mem, det := t.det, log := t.log, outboxes := t.outboxes } ∧
        (t.detUnit cd).state = .idle ∧ (t.detUnit cd).lastErr = 1 ∧ (t.detUnit cd).keptNow = 0 ∧
            (t.detUnit cd).lists = (s.detUnit cd).lists + 1 ∧ t.seqr.cur.partialEp = true ∧ t.ledgers = s.ledgers)) ∧
  (∀ (cd : Nat) (g : GroupDesc) (h : HeadBlock) (s : State), cdOk s cd = true → groupOf s cd (s.detUnit cd).desc = some g →
      (s.detUnit cd).state = .waitHead → headBusy s cd = false → readHead (fun off n => memNat s (sramBase cd (lowestOf g) +
      off) n) g.prog = some h → (s.fab cd).poison = [] →
      ∃ t, exec (.detectStart cd) s = .next t ∧
        t = { s with
          seqr := t.seqr, dies := t.dies, fabs := t.fabs, mem := t.mem, det := t.det, log := t.log, outboxes := t.outboxes } ∧
        (t.detUnit cd).state = .idle ∧ (t.detUnit cd).lastErr = 0 ∧
        (t.detUnit cd).rankedNow ≤ h.preMax ∧ (t.detUnit cd).keptNow ≤ h.keepMax ∧ (t.detUnit cd).keptNow ≤ (t.detUnit cd).rankedNow ∧
        (t.detUnit cd).lists = (s.detUnit cd).lists + 1 ∧ (t.detUnit cd).steps = detectSteps h (t.detUnit cd).rankedNow (t.detUnit cd).keptNow ∧
        unitOf t (Die.ofCd cd) 5 = ⟨none, (unitOf s (Die.ofCd cd) 5).queued⟩ ∧ t.seqr.cur.partialEp = s.seqr.cur.partialEp) ∧
  (∀ (cd : Nat) (g : GroupDesc) (s : State), cdOk s cd = true → groupOf s cd (s.detUnit cd).desc = some g →
      ((s.detUnit cd).state = .off ∨ (s.detUnit cd).state = .idle → exec (.detectStall cd) s = .next s) ∧
        ((s.detUnit cd).state ≠ .off → (s.detUnit cd).state ≠ .idle → ∃ t, exec (.detectStall cd) s = .next t ∧
        t = { s with
          seqr := t.seqr, dies := t.dies, fabs := t.fabs, mem := t.mem, det := t.det, log := t.log, outboxes := t.outboxes } ∧
        (t.detUnit cd).state = .idle ∧
          (t.detUnit cd).lastErr = 5 ∧ (t.detUnit cd).lists = (s.detUnit cd).lists + 1 ∧ (t.detUnit cd).keptNow = 0 ∧ t.seqr.cur.partialEp = true)) ∧
  (∀ (f : SbFrame) (w : BitVec 48) (e : LaunchEntry) (g : GroupDesc) (cd k : Nat) (s s1 u : State), LaunchReady s f 0x12 w s1 e
      → f.port.die = Die.ofCd cd → cd < 4 → tokUnit w = k → k < 4 → clusterUsable (s1.cl cd k) = true → groupOf s1 cd
      e.arg.toNat = some g → (s1.cdie cd).aborted = false → u = beginEntry (running s1 (Die.ofCd cd) k (launchedBy s1 w e)) cd
      k g.index g.bandFirst (launchedBy s1 w e) →
      ((s1.detUnit cd).state ≠ .idle → (s1.detUnit cd).state ≠ .off → exec (.track f) s =
          .next (modCl u cd k fun c => { c with state := .waitInput, waitFrom := s1.now })) ∧
        ((s1.detUnit cd).state = .idle → (readTracker (fun off n => memNat s1 (sramBase cd k + off) n) g.inbuf).ok = false →
          ∃ t, exec (.track f) s = .next t ∧
        t = { s with
          regs := t.regs, out := t.out, seqr := t.seqr, dies := t.dies, ledgers := t.ledgers, boot := t.boot,
          ports := t.ports, fabs := t.fabs, mem := t.mem, comp := t.comp, det := t.det, recs := t.recs, log := t.log,
          outboxes := t.outboxes } ∧
        (t.cl cd k).lastErr = 2 ∧ (t.cl cd k).state = .idle ∧ t.ledgers = s1.ledgers ∧ t.seqr.cur.partialEp = true) ∧
        ((s1.detUnit cd).state = .idle → (readTracker (fun off n => memNat s1 (sramBase cd k + off) n) g.inbuf).ok = true →
          ∃ v t, trackRun u cd k g = some v ∧ exec (.track f) s = .next t ∧ t = endEntry v cd k 0 ∧ (t.cl cd k).state = .idle ∧ (t.cl cd k).lastErr = 0))

/-- Suppression takes the ranked candidates in order; a kept candidate suppresses, a suppressed one does not; KEEP_MAX
ends it (R392). -/
def Obligations.SuppressionOfCandidates : Prop :=
  (∀ (h : HeadBlock) (cs : List Cand) (c : Cand),
      suppress h [] = ([], false) ∧
        (h.keepMax ≤ (suppress h cs).1.length → suppress h (cs ++ [c]) = ((suppress h cs).1, true)) ∧
        ((suppress h cs).1.length < h.keepMax →
          (∃ k ∈ (suppress h cs).1, (h.agnostic = true ∨ k.cls = c.cls) ∧ h.iouT * unionArea k c < 256 * interArea k c) →
          suppress h (cs ++ [c]) = suppress h cs) ∧
        ((suppress h cs).1.length < h.keepMax →
          (∀ k ∈ (suppress h cs).1, (h.agnostic = true ∨ k.cls = c.cls) → 256 * interArea k c ≤ h.iouT * unionArea k c) →
          suppress h (cs ++ [c]) = ((suppress h cs).1 ++ [c], (suppress h cs).2))) ∧
  (∀ (h : HeadBlock) (cs : List Cand),
      (suppress h cs).1.Sublist cs ∧ (suppress h cs).1.length ≤ h.keepMax ∧
        (suppress h cs).1.Pairwise fun k c => (h.agnostic = true ∨ k.cls = c.cls) → 256 * interArea k c ≤ h.iouT * unionArea k c) ∧
  (∀ (a b : Cand), a.x0 ≤ a.x1 → a.y0 ≤ a.y1 → b.x0 ≤ b.x1 → b.y0 ≤ b.y1 →
      interArea a b = ((max a.x0 b.x0 : Nat) |> fun l => min a.x1 b.x1 - l) * (min a.y1 b.y1 - max a.y0 b.y0) ∧
        unionArea a b + interArea a b = areaOf a + areaOf b ∧ interArea a b ≤ areaOf a ∧ interArea a b ≤ areaOf b ∧ areaOf a = (a.x1 - a.x0) * (a.y1 - a.y0) ∧
        interArea a b = interArea b a)

/-- Greedy matching uses each track and each candidate once, in ascending cost; a new track's ID is never 0 nor one that
is live (R391, R398, R400). Where no rule speaks it says the model's choice: log entry 79. -/
def Obligations.TrackMatchingAndIds : Prop :=
  (∀ (ps : List Pair),
      (greedy ps).Pairwise (fun a b => a.1 ≠ b.1 ∧ a.2 ≠ b.2) ∧ (∀ m ∈ greedy ps, ∃ p ∈ ps, p.entry = m.1 ∧ p.cand = m.2) ∧
        ∀ p ∈ ps, ∃ m ∈ greedy ps, m.1 = p.entry ∨ m.2 = p.cand) ∧
  (∀ (ts : List Track) (n : Nat), ts.length ≤ 255 → n < 4294967296 →
      nextIdFrom ts 257 n ≠ 0 ∧ nextIdFrom ts 257 n < 4294967296 ∧ (∀ t ∈ ts, t.id ≠ nextIdFrom ts 257 n) ∧
        (n ≠ 0 → (∀ t ∈ ts, t.id ≠ n) → nextIdFrom ts 257 n = n)) ∧
  (∀ (cs : List Cand) (a b : Cand),
      (rankCands cs).Perm cs ∧ (rankCands cs).Pairwise (fun x y => y.score ≤ x.score) ∧
        (a.score = b.score → [a, b].Sublist cs → [a, b].Sublist (rankCands cs)))

/-- The crop window opens and closes; requests are judged in the order of the checks; an accepted crop is cut, redacted
and sent once (R402, R403, R404, R406, R409, R416). Where no rule speaks it says the model's choice: log entry 80. -/
def Obligations.CropsAndTheirResults : Prop :=
  (∀ (f : SbFrame) (w : BitVec 48) (e : LaunchEntry) (s s1 : State), LaunchReady s f 9 w s1 e → f.port.die = .eye → tokUnit w =
      3 →
      ∃ t, exec (.roiWindow f) s = .next t ∧ t = { s1 with dies := t.dies, guard := t.guard } ∧ t.guard.windowOpen = true ∧ t.guard.windowArg = e.arg.toNat ∧
        t.guard.crops = s1.guard.crops ∧ unitOf t .eye 3 = ⟨none, none⟩) ∧
  (∀ (r : LinkRx) (x : Parcel) (s s1 : State), portOk s r.port = true → linkReceive s r = (some x, s1) → x.vc = 1 → x.kind = 0
      → x.tag = 0xF0 → r.port.die = .eye →
      ((cropReqOf x).masked = true → exec (.cropRequest r) s = .next { s1 with guard := { s1.guard with waiting := s1.guard.waiting ++ [cropReqOf x] } }) ∧
        ((cropReqOf x).masked = false → ∀ c, cropRefusal s1 (cropReqOf x) = some c → exec (.cropRequest r) s = .next (refuseCrop s1 (cropReqOf x) c)) ∧
        ((cropReqOf x).masked = false → cropRefusal s1 (cropReqOf x) = none → exec (.cropRequest r) s = .next { s1 with guard := { s1.guard with
            crops := s1.guard.crops + 1, indices := s1.guard.indices ++ [(cropReqOf x).index], accepted := s1.guard.accepted ++ [cropReqOf x] } }) ∧
        exec (.stream r) s = exec (.cropRequest r) s) ∧
  (∀ (q : CropReq) (s : State), s.guard.selftestFail = false →
      (cropRefusal s q = some 1 ↔ rb s 0x01030000 0 = false) ∧
        (cropRefusal s q = some 2 ↔ rb s 0x01030000 0 = true ∧ s.guard.windowOpen = false) ∧
        (cropRefusal s q = none → s.guard.windowOpen = true ∧ s.guard.crops < cropLimit s ∧ 16 ≤ q.w ∧ q.w ≤ sizeLimit s ∧ q.w % 16 = 0 ∧ 16 ≤ q.h ∧ q.h ≤ sizeLimit s ∧
          q.h % 16 = 0 ∧ q.x + q.w ≤ 4096 ∧ q.y + q.h ≤ 3072 ∧ (q.masked = true ∨ rb s 0x01030000 1 = false) ∧ s.eye.exposed = true ∧ s.eye.rows = 3080 ∧
          s.eye.frameMissing = false ∧ q.index ∉ s.guard.indices ∧ (s.port ⟨.eye, 4⟩).pstate = .up) ∧ cropLimit s ≤ 4 ∧ sizeLimit s ≤ 256) ∧
  (∀ (q : CropReq) (c : Nat) (s : State),
      (refuseCrop s q c).guard.cropsRefused = satAdd 65535 s.guard.cropsRefused 1 ∧ (refuseCrop s q c).guard.lastCause = c ∧
        (refuseCrop s q c).guard.lastIndex = q.index ∧ (refuseCrop s q c).guard.crops = s.guard.crops ∧ (refuseCrop s q c).guard.accepted = s.guard.accepted) ∧
  (∀ (s : State),
      (s.guard.windowOpen = false → exec .roiWindowClose s = .next s) ∧
        (s.guard.windowOpen = true → ∃ t, exec .roiWindowClose s = .next t ∧
        t = { s with ports := t.ports, guard := t.guard, recs := t.recs, log := t.log, outboxes := t.outboxes } ∧
        t.guard.windowOpen = false ∧ t.guard.waiting = [] ∧ t.guard.accepted = s.guard.accepted ∧
          (s.guard.waiting ≠ [] → t.guard.cropsRefused = satAdd 65535 s.guard.cropsRefused s.guard.waiting.length ∧ t.guard.lastCause = 6))) ∧
  (∀ (q : CropReq) (s : State),
      (s.guard.accepted = [] → exec .cropProcess s = .next s) ∧
        (s.guard.accepted = [q] → ∃ t, exec .cropProcess s = .next t ∧
        t = { s with
          ports := t.ports, isp := t.isp, guard := t.guard, recs := t.recs, log := t.log, outboxes := t.outboxes } ∧
        t.guard.accepted = [] ∧ t.guard.delivered = s.guard.delivered + 1 ∧
          t.guard.crops = s.guard.crops ∧ t.mem = s.mem ∧ t.regs = s.regs)) ∧
  (∀ (q : CropReq) (y x : Nat) (s : State), redacted q y x = true → y < q.h → x < q.w →
      ∃ row, (cropRows s q)[y]? = some row ∧ (row.drop (3 * x)).take 3 =
          [BitVec.ofNat 8 (rf s 0x01030010 7 0), BitVec.ofNat 8 (rf s 0x01030010 15 8), BitVec.ofNat 8 (rf s 0x01030010 23 16)]) ∧
  (∀ (r : LinkRx) (x : Parcel) (s s1 : State), portOk s r.port = true → linkReceive s r = (some x, s1) → x.vc = 0 → x.kind = 8
      →
      (x.arg = 5 → exec (.roiResult r) s = .next s1) ∧ (x.arg = 6 → r.port.die = .svc → exec (.egressBudget r) s = .next { s1 with recs := { s1.recs with part := [] } }))

/-- The guard never sends a PIXEL parcel on port 4, keeps the RECORD budget, and once debug is disabled no export and no
extra crop parcel (R22, R407, R408, R409). Where no rule speaks it says the model's choice: log entry 80. -/
def Obligations.EgressGuard : Prop :=
  (∀ (s : State) (p : Nat) (x : Parcel), (guardCheck s p x).1 = true →
      (x.cls = 2 → p < 4 ∧ x.dst = 4 + p) ∧ (x.cls = 3 ∨ x.cls = 4 → p = 4 ∧ s.guard.selftestFail = false) ∧ x.cls < 6 ∧
        (x.cls = 4 → s.guard.budgetHit = false ∧ s.guard.used + x.plen ≤ rnat s 0x01030008 ∧ (guardCheck s p x).2 = { s with guard := { s.guard with used := s.guard.used + x.plen } }) ∧
        (debugClosed s = true → x.cls = 5 → x.src = 1 → x.vc = 5 → p ≠ 4) ∧
        (debugClosed s = true → x.cls = 3 → x.src = 1 → mwf 0 s.guard.passed = true → 0 < cropLeft s x ∧ cropLeft (guardCheck s p x).2 x = cropLeft s x - 1)) ∧
  (∀ (s : State) (p : Nat) (x : Parcel), guardPermits s p x = false →
      (guardCheck s p x).1 = false ∧ (guardCheck s p x).2.guard.parcelsRefused = satAdd 65535 s.guard.parcelsRefused 1 ∧ (guardCheck s p x).2.guard.used = s.guard.used ∧
        (guardCheck s p x).2.mem = s.mem) ∧
  (∀ (s : State) (p : Nat) (x : Parcel), x.cls = 4 → p = 4 → s.guard.selftestFail = false → s.guard.budgetHit = true ∨ rnat s
      0x01030008 < s.guard.used + x.plen →
      (guardCheck s p x).1 = false ∧ (guardCheck s p x).2.guard.budgetHit = true ∧ (guardCheck s p x).2.guard.used = s.guard.used ∧
        (guardCheck s p x).2.guard.budgetDrop = s.guard.budgetDrop + 1)

/-- HV_CMD needs its key; START needs EN and no NO_HARVEST; the checkpoint writer programs at most 16,384 bytes an epoch;
the state table (R423, R436, R437, R438, R441, R443, R446). Where no rule speaks it says the model's choice: log
entries 83, 84. -/
def Obligations.HarvestCommandsAndStates : Prop :=
  (∀ (v : Word) (s : State),
      (wbits v 31 16 ≠ 0x4A57 → exec (.hvStart .core v) s = .next { raise s 4 0 Code.hvCmdBad 1 with
            out := (raise s 4 0 Code.hvCmdBad 1).out ++ [.answer .core 0x00040408 .ok 0 0] }) ∧
        (wbits v 31 16 = 0x4A57 → wbits v 1 0 = 1 → noHarvest s = true ∨ rb s 0x00040400 0 = false →
          exec (.hvStart .core v) s = .next { s with out := s.out ++ [.answer .core 0x00040408 .policy 0 0] }) ∧
        (wbits v 31 16 = 0x4A57 → wbits v 1 0 = 1 → noHarvest s = false → rb s 0x00040400 0 = true →
          exec (.hvStart .core v) s = .next { s with hv := { s.hv with startPending := true }, out := s.out ++ [.answer .core 0x00040408 .ok 0 0] }) ∧
        (wbits v 31 16 = 0x4A57 → wbits v 1 0 = 2 →
          exec (.hvCancel .core v) s = .next { s with hv := { s.hv with cancelPending := hvRunning s.hv.state }, out := s.out ++ [.answer .core 0x00040408 .ok 0 0] }) ∧
        (wbits v 31 16 = 0x4A57 → wbits v 1 0 = 3 →
          exec (.hvRevertBaseline .core v) s = .next { s with hv := { s.hv with revertPending := true }, out := s.out ++ [.answer .core 0x00040408 .ok 0 0] })) ∧
  (∀ (v : Word) (s : State), inField s = true →
      exec (.hvStart .i2c v) s = .next (answer s .i2c 0x00040408 .path) ∧ exec (.hvCancel .i2c v) s = .next (answer s .i2c 0x00040408 .path) ∧
        exec (.hvRevertBaseline .i2c v) s = .next (answer s .i2c 0x00040408 .path)) ∧
  (∀ (b : HarvestBlock) (cd slot done : Nat) (val : Bool) (s : State), hvBlock s = some b → hvCd s = some cd → s.hv.writing =
      some (slot, done, val) → s.hv.epochBytes < 16384 → done < ckptLen b →
      ∃ t, exec (.harvestCheckpointWrite true) s = .next t ∧
        t = { s with out := t.out, hv := t.hv, recs := t.recs, bus := t.bus, log := t.log } ∧
        t.hv.epochBytes ≤ 16384 ∧ t.hv.epochBytes = s.hv.epochBytes + min (16384 - s.hv.epochBytes) (ckptLen b - done) ∧
        t.mem = s.mem ∧ t.ledgers = s.ledgers ∧
        (done + (16384 - s.hv.epochBytes) < ckptLen b → t.hv.writing = some (slot, done + (16384 - s.hv.epochBytes), val) ∧ t.hv.ckpt0 = s.hv.ckpt0 ∧ t.hv.ckpt1 = s.hv.ckpt1) ∧
        (ckptLen b ≤ done + (16384 - s.hv.epochBytes) → t.hv.writing = none ∧ (ckptOf t.hv slot).state = if val then 2 else 1)) ∧
  (∀ (b : HarvestBlock) (cd : Nat) (w : Nat × Nat × Bool) (s : State), hvBlock s = some b → hvCd s = some cd → s.hv.writing =
      some w →
      (s.hv.epochBytes = 16384 → exec (.harvestCheckpointWrite true) s = .next s) ∧
        (s.hv.flashRetries < 3 → ∃ t, exec (.harvestCheckpointWrite false) s = .next t ∧
        t = { s with out := t.out, hv := t.hv, recs := t.recs, bus := t.bus, log := t.log } ∧
        t.hv = { s.hv with flashRetries := s.hv.flashRetries + 1 } ∧
          t.bus.flashFail = satAdd 65535 s.bus.flashFail 1) ∧
        (3 ≤ s.hv.flashRetries → ∃ t, exec (.harvestCheckpointWrite false) s = .next t ∧
        t = { s with out := t.out, hv := t.hv, recs := t.recs, bus := t.bus, log := t.log } ∧
        t.hv.writing = none ∧ t.hv.flashFailed = hvRunning s.hv.state)) ∧
  (∀ (b : Bool) (s : State), hvBlock s = none →
      exec (.harvestCheckpointWrite b) s = .next s) ∧
  (∀ (b : HarvestBlock) (cd : Nat) (o : Bool) (s : State), s.hv.windowOpen = true → s.hv.cancelPending = false → s.hv.nan =
      false → s.hv.flashFailed = false →
      (s.hv.state = .validate → s.hv.passed = some true → (hvTransition s b cd o).hv.state = .checkpoint) ∧
        (s.hv.state = .validate → s.hv.passed = some false → (hvTransition s b cd o).hv.state = .rollback) ∧
        (s.hv.state = .checkpoint → (hvTransition s b cd o).hv.state = if ckptReady s.hv then .adopt else .checkpoint) ∧
        (s.hv.state = .adopt → hvSel s b cd = s.hv.headSel → (hvTransition s b cd o).hv.state = .adopt) ∧
        (s.hv.state = .adopt → hvSel s b cd ≠ s.hv.headSel → (hvTransition s b cd o).hv.state = .done ∧ (hvTransition s b cd o).hv.outcome = 1))

/-- Best master, peer delay, DHCP with its fall-back, link changes with the flap hold, and the switch's learning, queues
and refusals (R449, R450, R452, R453, R455, R482, R485). Where no rule speaks it says the model's choice: log entries
21, 86. -/
def Obligations.NetworkCommands : Prop :=
  (∀ (md : MasterData) (s : State), s.net.linkP0 = true → s.net.linkP1 = true → rb s 0x00050000 5 = true →
      ∃ t, exec (.announceReceive 0 (rf s 0x00050000 14 8) md) s = .next t ∧ t = { s with net := t.net } ∧ t.net.master0 = some md ∧ t.net.master1 = s.net.master1 ∧
        (s.net.master1 = none → t.net.slave = some 0) ∧
        (∀ m1, s.net.master1 = some m1 → t.net.slave = if betterMaster m1 md then some 1 else some 0)) ∧
  (∀ (p d : Nat) (md : MasterData) (s : State), p < 2 → portUpNet s p = false ∨ rb s 0x00050000 5 = false ∨ d ≠ rf s 0x00050000
      14 8 →
      exec (.announceReceive p d md) s = .next s) ∧
  (∀ (s : State),
      (s.net.slave = none → exec .announceReceiptTimeout s = .next s) ∧
        (s.net.slave = some 0 → ∃ t, exec .announceReceiptTimeout s = .next t ∧ t.net.master0 = none ∧ t.net.slave ≠ some 0 ∧ t = { s with net := t.net }) ∧
        (s.net.slave = some 1 → ∃ t, exec .announceReceiptTimeout s = .next t ∧ t.net.master1 = none ∧ t.net.slave ≠ some 1 ∧ t = { s with net := t.net })) ∧
  (∀ (ns : Word) (s : State),
      (s.net.linkP0 = true → exec (.peerDelayMeasure 0 ns) s = .next { s with net := { s.net with pdelay0 := ns } }) ∧
        (s.net.linkP1 = true → exec (.peerDelayMeasure 1 ns) s = .next { s with net := { s.net with pdelay1 := ns } })) ∧
  (∀ (l : Lease) (s : State), netOn s = true → rb s 0x00050000 0 = false →
      (linked s = true → exec (.dhcpLeaseBound l) s = .next { s with net := { s.net with addr := .dhcp, ip := l.ip, mask := l.mask, gw := l.gw } }) ∧
        (s.net.addr = .none → ∃ t, exec (.dhcpTimeout false) s = .next t ∧
        t = { s with freeIdx := t.freeIdx, out := t.out, net := t.net, recs := t.recs, log := t.log } ∧
        t.net.addr = .linkLocal ∧ wbits t.net.ip 31 16 = 0xA9FE ∧ t.out = s.out ++ [.arp t.net.ip]) ∧
        (s.net.addr = .dhcp → ∃ t, exec (.dhcpTimeout true) s = .next t ∧
        t = { s with freeIdx := t.freeIdx, out := t.out, net := t.net, recs := t.recs, log := t.log } ∧
        t.net.addr = .linkLocal ∧ t.net.gw = 0)) ∧
  (∀ (l : Lease) (b : Bool) (s : State),
      (s.net.addr = .dhcp → exec (.dhcpRenew b (some l)) s = .next { s with
            out := s.out ++ [.dhcp true b], net := { s.net with addr := .dhcp, ip := l.ip, mask := l.mask, gw := l.gw } } ∧
          exec (.dhcpRenew b none) s = .next { s with out := s.out ++ [.dhcp true b] }) ∧
        (s.net.addr = .linkLocal → exec .leaseRetry s = .next { s with out := s.out ++ [.dhcp false false] } ∧
          ∃ t, exec .addrConflict s = .next t ∧
        t = { s with freeIdx := t.freeIdx, out := t.out, net := t.net, recs := t.recs, log := t.log } ∧
        t.net.addr = .linkLocal ∧ t.out = s.out ++ [.arp t.net.ip]) ∧
        (s.net.addr ≠ .linkLocal → exec .leaseRetry s = .next s ∧ exec .addrConflict s = .next s)) ∧
  (∀ (p : Nat) (up fdx : Bool) (s : State), p < 2 → netOn s = false ∨ rb s 0x00050000 (1 + p) = false ∨ portHeld s p = true ∨
      portUpNet s p = up →
      exec (.phyLinkChange p up fdx) s = .next s) ∧
  (∀ (fdx : Bool) (s : State), netOn s = true → rb s 0x00050000 2 = true → s.net.held1 = false → s.net.linkP1 = false →
      s.net.everLinked = true →
      ((portChanges s 1).length ≤ 10 → exec (.phyLinkChange 1 true fdx) s = .next { s with net := { s.net with
            linkP1 := true, fdxP1 := fdx, chg1 := portChanges s 1, linkChg1 := satAdd 65535 s.net.linkChg1 1 } }) ∧
        (10 < (portChanges s 1).length → ∃ t, exec (.phyLinkChange 1 true fdx) s = .next t ∧
        t = { s with out := t.out, tb := t.tb, net := t.net, recs := t.recs, log := t.log } ∧
        t.net.held1 = true ∧ t.net.linkP1 = false ∧
          t.net.linkChg1 = satAdd 65535 s.net.linkChg1 1 ∧ t.net.held0 = s.net.held0)) ∧
  (∀ (s : State),
      exec (.portHoldEnd 0) s = .next { s with net := { s.net with held0 := false } } ∧
        exec (.portHoldEnd 1) s = .next { s with net := { s.net with held1 := false } }) ∧
  (∀ (f : Frame) (s : State), netOn s = true → f.inPort < 3 → portUpNet s f.inPort = true →
      (f.fcsOk = false ∨ f.len < 64 ∨ 1522 < f.len → exec (.frameForward f) s = .next { s with net := { s.net with refusedFrames := satAdd 65535 s.net.refusedFrames 1 } }) ∧
        (f.fcsOk = true → 64 ≤ f.len → f.len ≤ 1522 → f.room = false → ∃ t, exec (.frameForward f) s = .next t ∧
        t = { s with out := t.out, net := t.net } ∧
        t.net.overflowDrops = satAdd 65535 s.net.overflowDrops 1 ∧
          t.out = s.out ∧ t.net.table = learn s.net.table f) ∧
        (f.fcsOk = true → 64 ≤ f.len → f.len ≤ 1522 → f.room = true → f.inPort < 2 → ∃ t, exec (.frameForward f) s = .next t ∧
        t = { s with out := t.out, net := t.net } ∧
        t.out = s.out ++ [.frame (egressOf s f) (queueOf f) f (correctionOf s f)] ∧ t.net.overflowDrops = s.net.overflowDrops ∧ t.net.table = learn s.net.table f)) ∧
  (∀ (f : Frame) (t : List AddrEntry), t.length ≤ 256 →
      (f.ptp = true → queueOf f = 3) ∧ queueOf f < 4 ∧ (learn t f).length ≤ 256) ∧
  (∀ (mac : BitVec 48) (s : State),
      ∃ t, exec (.addressTableAgeing mac) s = .next t ∧ t = { s with net := t.net } ∧ (∀ e ∈ t.net.table, e.mac ≠ mac) ∧
        (∀ e ∈ s.net.table, e.mac ≠ mac → e ∈ t.net.table))

/-- HELLO opens a session with a fresh nonce; READ, WRITE and READ64 answer for the words they reach; only the owner
writes (R457, R458, R459, R460, R462, R464, R465). Where no rule speaks it says the model's choice: log entries 7, 87,
88, 89. -/
def Obligations.SessionsAndRegisterMessages : Prop :=
  (∀ (m : BcpEnv) (host : DWord) (hn : BitVec 128) (s : State), bcpServes s m = true → m.headerOk = true → m.version = 1 →
      m.lenOk = true → (authOk s m 1 (leBytes 8 host.toNat ++ nonceBytes hn) 0).1 = true → (rateAll s).1 = true →
      s.bcp.sessions.any (fun x => x.host != host && x.host.setWidth 32 == host.setWidth 32) = false →
      ∃ t x, exec (.hello m host hn) s = .next t ∧ t.bcp.sessions.getLast? = some x ∧ x.host = host ∧ x.highest = 0 ∧ x.kept = [] ∧ x.ip = m.ip ∧ x.port = m.port ∧
        t.bcp.msgs = s.bcp.msgs + 1 ∧ (∀ y ∈ t.bcp.sessions.dropLast, y ∈ s.bcp.sessions ∧ y.host ≠ host) ∧
        (s.bcp.sessions.length ≤ 32 → t.bcp.sessions.length ≤ 32) ∧ t.bcp.owner = s.bcp.owner ∧ t.regs = s.regs) ∧
  (∀ (m : BcpEnv) (host : DWord) (hn : BitVec 128) (s : State), bcpServes s m = true → m.version = 1 → m.lenOk = true →
      (m.headerOk = false → exec (.hello m host hn) s = .next { s with bcp := { s.bcp with malformed := satAdd 65535 s.bcp.malformed 1 } }) ∧
        (m.headerOk = true → (authOk s m 1 (leBytes 8 host.toNat ++ nonceBytes hn) 0).1 = false → ∃ t, exec (.hello m host hn) s = .next t ∧
        t = { s with freeIdx := t.freeIdx, out := t.out, bcp := t.bcp, recs := t.recs, log := t.log } ∧
        t.bcp.authFail = s.bcp.authFail + 1 ∧ t.bcp.sessions = s.bcp.sessions ∧ t.out = s.out) ∧
        (m.headerOk = true → (authOk s m 1 (leBytes 8 host.toNat ++ nonceBytes hn) 0).1 = true → (rateAll s).1 = true →
          s.bcp.sessions.any (fun x => x.host != host && x.host.setWidth 32 == host.setWidth 32) = true →
          exec (.hello m host hn) s = .next (refuse (rateAll s).2 { m := m, typ := 1, host := host, nonce := 0, key := keyAt s (levelOf m), live := false } 0x16))) ∧
  (∀ (m : BcpEnv) (x : Session) (a v : Word) (s u : State), BcpAccepts s m 2 (leBytes 4 a.toNat ++ leBytes 2 1 ++ [0, 0]) x →
      s.bcp.access = none → reachRead (acceptedState s m 2 x) .bcp a.toNat = .done .ok v u → (sessionOfHost u x.host).isSome =
      true → u.bcp.access = none →
      exec (.read m a 1) s = .next (reply u (askOf u m 2 x.host) 0 (leBytes 2 1 ++ leBytes 4 v.toNat)) ∧
        exec (.read m a 0) s = .next (if (authOk s m 2 (leBytes 4 a.toNat ++ leBytes 2 0 ++ [0, 0]) x.nonce).1 = true then
          reply (acceptedState s m 2 x) (askNow s m 2 x) 7 (leBytes 2 3) else dropAuth s)) ∧
  (∀ (m : BcpEnv) (x : Session) (a lo hi : Word) (s u : State), BcpAccepts s m 4 (leBytes 4 a.toNat ++ leBytes 2 1 ++ [0, 0]) x
      → s.bcp.access = none → reach64 (acceptedState s m 4 x) a.toNat = .words [lo, hi] u → (sessionOfHost u x.host).isSome =
      true → u.bcp.access = none →
      exec (.read64 m a 1) s = .next (reply u (askOf u m 4 x.host) 0 (leBytes 2 1 ++ leBytes 4 lo.toNat ++ leBytes 4 hi.toNat))) ∧
  (∀ (m : BcpEnv) (x : Session) (a v w : Word) (s u : State), OwnerAsks s m 3 (leBytes 4 a.toNat ++ leBytes 2 1 ++ [0, 0] ++
      leBytes 4 v.toNat) x → s.bcp.access = none → cutsOff (acceptedState s m 3 x) m a.toNat v = false → reachWrite
      (acceptedState s m 3 x) .bcp a.toNat v = .done .ok w u → (sessionOfHost u x.host).isSome = true → u.bcp.access = none →
      isOwner u x.host = false ∨ u.now < u.bcp.leaseEnd →
      exec (.write m a [v]) s = .next (reply (noteRuntime u a.toNat v) (askOf (noteRuntime u a.toNat v) m 3 x.host) 0 (leBytes 2 1 ++ leBytes 4 0))) ∧
  (∀ (m : BcpEnv) (x : Session) (a v : Word) (s : State), BcpAccepts s m 3 (leBytes 4 a.toNat ++ leBytes 2 1 ++ [0, 0] ++
      leBytes 4 v.toNat) x →
      (isOwner s x.host = false → exec (.write m a [v]) s = .next (refuse (acceptedState s m 3 x) (askNow s m 3 x) 1)) ∧
        (isOwner s x.host = true → s.bcp.owner.map (·.level) ≠ some (levelOf m) → exec (.write m a [v]) s = .next (refuse (acceptedState s m 3 x) (askNow s m 3 x) 2)) ∧
        (refuse (acceptedState s m 3 x) (askNow s m 3 x) 1).regs = s.regs) ∧
  (∀ (m : BcpEnv) (x : Session) (b : Byte) (bs : List Byte) (s : State), bcpServes s m = true → m.headerOk = true → m.version =
      1 → m.lenOk = true → sessionOf s m.sender = some x → (authOk s m 0x13 [] x.nonce).1 = true →
      (x.kept.find? (fun e => e.1 == m.seq) = some (m.seq, b :: bs) → exec (.ownerQuery m) s = .next (bcpEmit (hearFrom s x.host m) m.ip m.port (b :: bs))) ∧
        (x.kept.find? (fun e => e.1 == m.seq) = none → m.seq ≤ x.highest → exec (.ownerQuery m) s = .next (refuse (hearFrom s x.host m) (askNow s m 0x13 x) 0x0A))) ∧
  (∀ (host : DWord) (s : State),
      ∃ t, exec (.sessionTimeout host) s = .next t ∧ t = { s with bcp := { s.bcp with sessions := t.bcp.sessions } } ∧
        (∀ y, y ∈ t.bcp.sessions ↔ y ∈ s.bcp.sessions ∧ y.host ≠ host))

/-- CLAIM, the contest's ranking, the lease, RELEASE and succession: who owns the part, and when (R468, R469, R470, R471,
R484). Where no rule speaks it says the model's choice: log entry 90. -/
def Obligations.OwnerElection : Prop :=
  (∀ (m : BcpEnv) (x : Session) (p : Nat) (s : State), BcpAccepts s m 0x10 (leBytes 1 p ++ [0, 0, 0]) x → p < 256 → s.bcp.held
      = [] → s.bcp.election = .openSt →
      ∃ t, exec (.claim m p) s = .next t ∧
        t = { s with freeIdx := t.freeIdx, out := t.out, bcp := t.bcp, stage := t.stage, recs := t.recs, log := t.log } ∧
        t.bcp.election = .contest ∧ t.bcp.held = [{ host := x.host, level := levelOf m, priority := p, m := m }] ∧
        t.bcp.owner = s.bcp.owner ∧ t.out = s.out) ∧
  (∀ (m : BcpEnv) (x : Session) (p : Nat) (o : Owner) (s : State), BcpAccepts s m 0x10 (leBytes 1 p ++ [0, 0, 0]) x → p < 256 →
      s.bcp.election = .owned → s.bcp.owner = some o →
      (o.host ≠ x.host → levelOf m ≠ 2 ∨ o.level = 2 → exec (.claim m p) s = .next (refuse (acceptedState s m 0x10 x) (askNow s m 0x10 x) 8)) ∧
        (o.host ≠ x.host → levelOf m = 2 → o.level < 2 → ∃ t, exec (.claim m p) s = .next t ∧
        t = { s with freeIdx := t.freeIdx, out := t.out, bcp := t.bcp, stage := t.stage, recs := t.recs, log := t.log } ∧
        t.bcp.owner = some { host := x.host, level := 2, priority := p } ∧
          t.bcp.election = .owned ∧ t.bcp.leaseEnd = s.now + 10000000000 ∧ t.bcp.changes = s.bcp.changes + 1) ∧
        (o.host = x.host → o.level ≠ levelOf m → exec (.claim m p) s = .next (refuse (acceptedState s m 0x10 x) (askNow s m 0x10 x) 2)) ∧
        (o.host = x.host → o.level = levelOf m → ∃ t, exec (.claim m p) s = .next t ∧
        t = { s with freeIdx := t.freeIdx, out := t.out, bcp := t.bcp, stage := t.stage, recs := t.recs, log := t.log } ∧
        t.bcp.owner = some { o with priority := p } ∧ t.bcp.changes = s.bcp.changes)) ∧
  (∀ (c : HeldClaim) (s : State), s.bcp.election = .contest → bestClaim s.bcp.held = some c →
      ∃ t, exec .contestEnd s = .next t ∧
        t = { s with freeIdx := t.freeIdx, out := t.out, bcp := t.bcp, stage := t.stage, recs := t.recs, log := t.log } ∧
        t.bcp.election = .owned ∧ t.bcp.owner = some { host := c.host, level := c.level, priority := c.priority } ∧
        t.bcp.held = [] ∧ t.bcp.leaseEnd = s.now + 10000000000 ∧ t.bcp.changes = s.bcp.changes + 1 ∧ t.regs = s.regs ∧ t.mem = s.mem) ∧
  (∀ (m : BcpEnv) (x : Session) (s : State),
      (OwnerAsks s m 0x11 [] x → exec (.heartbeat m) s = .next (reply (acceptedState s m 0x11 x) (askNow s m 0x11 x) 0
          (leBytes 2 0 ++ leBytes 4 (leaseLeft (acceptedState s m 0x11 x)) ++ leBytes 4 s.seqr.epoch.toNat)) ∧ leaseLeft (acceptedState s m 0x11 x) = 10000) ∧
        (BcpAccepts s m 0x13 [] x → exec (.ownerQuery m) s = .next (reply (acceptedState s m 0x13 x) (askNow s m 0x13 x) 0 (electionBody (acceptedState s m 0x13 x))))) ∧
  (∀ (m : BcpEnv) (x : Session) (s : State), OwnerAsks s m 0x11 [] x →
      ∃ t, exec (.heartbeat m) s = .next t ∧
        t = { s with freeIdx := t.freeIdx, out := t.out, bcp := t.bcp, recs := t.recs, log := t.log } ∧
        t.bcp.leaseEnd = s.now + 10000000000 ∧ t.bcp.owner = s.bcp.owner ∧ t.regs = s.regs) ∧
  (∀ (m : BcpEnv) (x : Session) (h : DWord) (s : State), OwnerAsks s m 0x12 (leBytes 8 h.toNat) x →
      (h = 0 ∨ h = x.host → ∃ t, exec (.release m h) s = .next t ∧
        t = { s with freeIdx := t.freeIdx, out := t.out, bcp := t.bcp, stage := t.stage, recs := t.recs, log := t.log } ∧
        t.bcp.election = .openSt ∧ t.bcp.owner = none ∧ t.bcp.changes = s.bcp.changes + 1) ∧
        (h ≠ 0 → h ≠ x.host → ∃ t, exec (.release m h) s = .next t ∧
        t = { s with freeIdx := t.freeIdx, out := t.out, bcp := t.bcp, stage := t.stage, recs := t.recs, log := t.log } ∧
        t.bcp.election = .succession ∧ t.bcp.owner = none ∧ t.bcp.prev = s.bcp.owner ∧ t.bcp.successor = h ∧
          t.bcp.held = [] ∧ t.bcp.changes = s.bcp.changes)) ∧
  (∀ (s : State),
      (s.bcp.election ≠ .owned → exec .leaseExpire s = .next s) ∧
        (s.bcp.election = .owned → s.bcp.access = none → ∃ t, exec .leaseExpire s = .next t ∧
        t = { s with freeIdx := t.freeIdx, out := t.out, bcp := t.bcp, stage := t.stage, recs := t.recs, log := t.log } ∧
        t.bcp.election = .openSt ∧ t.bcp.owner = none ∧ t.bcp.changes = s.bcp.changes + 1 ∧
          t.stage.status = if s.stage.status = 1 ∨ s.stage.status = 2 then 0 else s.stage.status) ∧
        (s.bcp.election = .succession → s.bcp.held = [] → ∃ t, exec .successionEnd s = .next t ∧
        t = { s with freeIdx := t.freeIdx, out := t.out, bcp := t.bcp, stage := t.stage, recs := t.recs, log := t.log } ∧
        t.bcp.election = .openSt ∧ t.bcp.changes = s.bcp.changes + 1) ∧
        (s.bcp.election ≠ .succession → exec .successionEnd s = .next s)) ∧
  (∀ (cs : List HeldClaim) (c : HeldClaim), bestClaim cs = some c →
      c ∈ cs ∧ ∀ d ∈ cs, d = c ∨ ranksBefore d c = false) ∧
  (∀ (a b c : HeldClaim),
      ranksBefore a a = false ∧ (ranksBefore a b = true → ranksBefore b a = false) ∧ (ranksBefore a b = true → ranksBefore b c = true → ranksBefore a c = true) ∧
        (b.level < a.level → ranksBefore a b = true) ∧ (a.level = b.level → b.priority < a.priority → ranksBefore a b = true) ∧
        (a.level = b.level → a.priority = b.priority → (ranksBefore a b = true ↔ a.host.toNat < b.host.toNat)))

/-- Staging writes a slot that does not run and checks it; a switch-over is scheduled to a STAGED or CONFIRMED slot, and
may be cancelled (R473, R474, R475, R477, R478, R479). Where no rule speaks it says the model's choice: log entry 91. -/
def Obligations.StagingAndSwitchOver : Prop :=
  (∀ (m : BcpEnv) (x : Session) (slot size : Nat) (sha : BitVec 256) (s : State), OwnerAsks s m 0x20 (leBytes 1 slot ++ [0, 0,
      0] ++ leBytes 4 size ++ keyBytes sha) x → s.power.season = .summer ∨ s.power.season = .a1 ∨ s.power.season = .dormant →
      s.flash.sfdp = true →
      (slot ≤ 1 → slot ≠ s.boot.slot → switchDue s = false ∨ s.sw.slot ≠ slot → 4096 ≤ size → size ≤ slotSize s slot → ∃ t d, exec (.stageBegin m slot size sha) s = .next t ∧
          t.stage = { status := 1, slot := slot, size := size, sha := sha } ∧ descNow t = some d ∧ descState d slot = 0 ∧ slotFacts t slot = none ∧ t.img = s.img) ∧
        (slot = s.boot.slot → exec (.stageBegin m slot size sha) s = .next (refuse (acceptedState s m 0x20 x) (askNow s m 0x20 x) 0x0D)) ∧
        (slot ≤ 1 → slot ≠ s.boot.slot → switchDue s = false → size < 4096 ∨ slotSize s slot < size →
          exec (.stageBegin m slot size sha) s = .next (refuse (acceptedState s m 0x20 x) (askNow s m 0x20 x) 4))) ∧
  (∀ (m : BcpEnv) (x : Session) (off : Nat) (data : List Byte) (s : State), OwnerAsks s m 0x21 (leBytes 4 off ++ leBytes 2
      data.length ++ [0, 0] ++ data) x → s.power.season = .summer → 1 ≤ data.length → data.length ≤ 1024 →
      (s.stage.status ≠ 1 → exec (.stageData m off data true) s = .next (refuse (acceptedState s m 0x21 x) (askNow s m 0x21 x) 0x0C)) ∧
        (s.stage.status = 1 → stageUnitOk s.stage off data.length = true → ∃ t, exec (.stageData m off data true) s = .next t ∧
        t = { s with
          freeIdx := t.freeIdx, out := t.out, boot := t.boot, flash := t.flash, bcp := t.bcp, stage := t.stage,
          recs := t.recs, bus := t.bus, log := t.log } ∧
        t.stage.status = 1 ∧ t.stage.size = s.stage.size ∧
          (t.stage.units = s.stage.units ∨ off / 1024 ∈ t.stage.units) ∧ (∀ u ∈ s.stage.units, u ∈ t.stage.units) ∧ t.freeIdx = s.freeIdx + 1)) ∧
  (∀ (m : BcpEnv) (x : Session) (s : State), OwnerAsks s m 0x22 [] x → s.power.season = .summer →
      (s.stage.status = 1 → stageBytes s.stage < s.stage.size → exec (.stageEnd m) s = .next (refuse (acceptedState s m 0x22 x) (askNow s m 0x22 x) 0x10)) ∧
        (s.stage.status = 1 → s.stage.size ≤ stageBytes s.stage → ∃ t, exec (.stageEnd m) s = .next t ∧
        t = { s with freeIdx := t.freeIdx, out := t.out, bcp := t.bcp, stage := t.stage, recs := t.recs, log := t.log } ∧
        t.stage = { s.stage with status := 2 }) ∧
        (s.stage.status = 3 → exec (.stageEnd m) s = .next (reply (acceptedState s m 0x22 x) (askNow s m 0x22 x) s.stage.result (leBytes 1 s.stage.lastCause ++ [0])))) ∧
  (∀ (f : SlotFacts) (s : State), s.stage.status = 2 → s.stage.slot ≤ 1 →
      (∃ t, exec (.stageCheckDone false f) s = .next t ∧
        t = { s with out := t.out, boot := t.boot, flash := t.flash, stage := t.stage } ∧
        t.stage.status = 3 ∧ t.stage.result = 0x0F ∧ t.flash = s.flash) ∧
        (slotCheck s 1 f = 0 → f.badChunk = none → ∃ t d, exec (.stageCheckDone true f) s = .next t ∧ t.stage.status = 3 ∧ t.stage.result = 0 ∧ descNow t = some d ∧
          descState d s.stage.slot = 1 ∧ slotFacts t s.stage.slot = some f) ∧
        (slotCheck s 1 f ≠ 0 → ∃ t d, exec (.stageCheckDone true f) s = .next t ∧ t.stage.result = 0x0E ∧ t.stage.lastCause = slotCheck s 1 f ∧ descNow t = some d ∧
          descState d s.stage.slot = 3)) ∧
  (∀ (m : BcpEnv) (x : Session) (slot mode : Nat) (e : Word) (d : BootDesc) (s : State), OwnerAsks s m 0x23 (leBytes 1 slot ++
      leBytes 1 mode ++ [0, 0] ++ leBytes 4 e.toNat) x → s.power.season = .summer ∨ s.power.season = .a1 → switchDue s = false
      → s.sw.applied = false → descNow s = some d → slot ≤ 1 → slot ≠ s.boot.slot → mode ≤ 2 →
      (descState d slot ≠ 1 → descState d slot ≠ 2 → exec (.switch m slot mode e) s = .next (refuse (acceptedState s m 0x23 x) (askNow s m 0x23 x) 0x0D)) ∧
        (descState d slot = 1 ∨ descState d slot = 2 → e ≠ 0 → (e - s.seqr.epoch).toNat < 2 ∨ 2 ^ 30 < (e - s.seqr.epoch).toNat →
          exec (.switch m slot mode e) s = .next (refuse (acceptedState s m 0x23 x) (askNow s m 0x23 x) 0x13)) ∧
        (descState d slot = 1 ∨ descState d slot = 2 → switchEpochOk s e = true → mode = 1 → liveOk s slot = false →
          exec (.switch m slot mode e) s = .next (refuse (acceptedState s m 0x23 x) (askNow s m 0x23 x) 0x12)) ∧
        (descState d slot = 1 ∨ descState d slot = 2 → switchEpochOk s e = true → mode ≠ 1 ∨ liveOk s slot = true → ∃ t, exec (.switch m slot mode e) s = .next t ∧
          t.sw.slot = slot ∧ t.sw.e = e ∧ t.sw.live = (decide (mode ≠ 2) && liveOk s slot) ∧ t.sw.state = (if t.sw.live then 1 else 2) ∧ t.sw.chunks = 0 ∧
          t.regs = (rput s 0x00040084 e).regs)) ∧
  (∀ (f : SlotFacts) (s : State), s.sw.state = 1 → s.sw.applied = false → slotFacts s s.sw.slot = some f →
      (f.metaHash = f.metaDigest → ∃ t, exec (.switchReady true) s = .next t ∧
        t = { s with regs := t.regs, seqr := t.seqr, sw := t.sw, recs := t.recs, log := t.log } ∧
        t.sw.state = 2 ∧ t.sw.chunks = f.image.chunks ∧
          (s.seqr.bank = 0 → t.seqr.bankB = f.image.launchA ∧ t.seqr.bankA = s.seqr.bankA) ∧ (s.seqr.bank = 1 → t.seqr.bankA = f.image.launchA ∧ t.seqr.bankB = s.seqr.bankB)) ∧
        (∃ t, exec (.switchReady false) s = .next t ∧
        t = { s with regs := t.regs, seqr := t.seqr, sw := t.sw, recs := t.recs, log := t.log } ∧
        t.sw.state = 0 ∧ t.sw.lastCancel = 2 ∧ t.seqr = s.seqr ∧ t.regs = (rput s 0x00040084 0).regs)) ∧
  (∀ (m : BcpEnv) (x : Session) (s : State), OwnerAsks s m 0x24 [] x →
      (switchDue s = true → ∃ t, exec (.switchCancel m) s = .next t ∧
        t = { s with
          freeIdx := t.freeIdx, regs := t.regs, out := t.out, bcp := t.bcp, sw := t.sw, recs := t.recs, log := t.log } ∧
        t.sw = { lastCancel := 4 } ∧ t.regs = (rput s 0x00040084 0).regs) ∧
        (switchDue s = false → exec (.switchCancel m) s = .next (refuse (acceptedState s m 0x24 x) (askNow s m 0x24 x) 0x0C)))

/-- CONFIG_COMMIT writes the copy not in use with GEN raised; SET_KEY obeys its rules and ends what it must; the trouble-
log messages (R466, R467, R472, R623, R624, R625). Where no rule speaks it says the model's choice: log entries 91,
92. -/
def Obligations.ConfigurationKeysAndLogMessages : Prop :=
  (∀ (m : BcpEnv) (x : Session) (mode : Nat) (s : State), OwnerAsks s m 0x25 (leBytes 1 mode ++ [0, 0, 0]) x → s.power.season =
      .summer → s.stage.status = 0 ∨ s.stage.status = 3 → mode ≤ 2 → s.bcp.runtime.length + (entriesNow s).length ≤ 2046 →
      (∃ t c, exec (.configCommit m mode true) s = .next t ∧ cfgNow t = some c ∧ t.boot.cfgCopy = 1 - s.boot.cfgCopy ∧
          c.entries = (if mode = 0 then mergedEntries (entriesNow s) s.bcp.runtime else if mode = 1 then s.bcp.runtime else []) ∧
          c.gen = (((cfgNow s).map (·.gen)).getD 0 + 1) % 4294967296 ∧ c.keys = some (keysNow s) ∧ t.bcp.runtime = s.bcp.runtime ∧ t.regs = s.regs) ∧
        (∃ t, exec (.configCommit m mode false) s = .next t ∧
        t = { s with
          freeIdx := t.freeIdx, out := t.out, boot := t.boot, flash := t.flash, bcp := t.bcp, recs := t.recs, bus := t.bus,
          log := t.log } ∧
        t.flash = s.flash ∧ t.boot = s.boot ∧ t.bus.flashFail = satAdd 65535 s.bus.flashFail 1)) ∧
  (∀ (m : BcpEnv) (x : Session) (op : Nat) (key : BitVec 256) (s : State), OwnerAsks s m 0x30 (leBytes 1 0 ++ leBytes 1 op ++
      [0, 0] ++ keyBytes key) x → s.stage.status = 0 →
      (inField s = false ∨ op ≠ 0 → exec (.setKey m 0 op key true) s = .next (refuse (acceptedState s m 0x30 x) (askNow s m 0x30 x) 0x14)) ∧
        (inField s = true → op = 0 → s.bcp.storeKey = none → ∃ t, exec (.setKey m 0 op key true) s = .next t ∧
        t = { s with
          freeIdx := t.freeIdx, out := t.out, boot := t.boot, flash := t.flash, bcp := t.bcp, stage := t.stage,
          recs := t.recs, bus := t.bus, log := t.log } ∧
        t.bcp.storeKey = some key ∧ t.bcp.sessions = [] ∧
          t.bcp.owner = none ∧ t.bcp.election = .openSt ∧ t.bcp.kgen = (s.bcp.kgen + 1) % 4294967296 ∧ t.bcp.serviceKey = s.bcp.serviceKey)) ∧
  (∀ (s : State),
      (s.bcp.keystoreBad = false → exec .keystoreBadReport s = .next s) ∧
        (s.bcp.keystoreBad = true → exec .keystoreBadReport s = .next (raise s 6 0 Code.keystoreBad 2))) ∧
  (∀ (m : BcpEnv) (x : Session) (start : Word) (n : Nat) (s : State), BcpAccepts s m 0x40 (leBytes 4 start.toNat ++ leBytes 2 n
      ++ [0, 0]) x → 1 ≤ n → n ≤ 43 →
      exec (.logRead m start n) s = .next (reply (acceptedState s m 0x40 x) (askNow s m 0x40 x) 0 (leBytes 2 (logRange s.log start n).length ++
          leBytes 4 s.log.total.toNat ++ leBytes 4 s.log.oldest.toNat ++ leBytes 4 0 ++ (logRange s.log start n).flatMap (·.toBytes))) ∧
        (logRange s.log start n).length ≤ n ∧ ∀ r ∈ logRange s.log start n, r ∈ s.log.ring) ∧
  (∀ (m : BcpEnv) (x : Session) (s : State), BcpAccepts s m 0x41 [] x →
      exec (.logStatus m) s = .next (reply (acceptedState s m 0x41 x) (askNow s m 0x41 x) 0 (leBytes 2 0 ++ leBytes 4 s.log.total.toNat ++
          leBytes 4 s.log.oldest.toNat ++ leBytes 4 s.log.dropped ++ leBytes 4 s.log.freezeIdx.toNat ++ leBytes 1 (b2n s.log.frozen) ++ [0, 0, 0]))) ∧
  (∀ (m : BcpEnv) (x : Session) (s : State), OwnerAsks s m 0x42 [] x →
      ∃ t, exec (.logClear m) s = .next t ∧
        t = { s with freeIdx := t.freeIdx, out := t.out, bcp := t.bcp, recs := t.recs, log := t.log } ∧
        t.log.base = s.log.total ∧ t.log.ring = s.log.ring ∧ t.log.total = s.log.total ∧ t.log.special.length = s.log.special.length + 1) ∧
  (∀ (m : BcpEnv) (x : Session) (s : State), OwnerAsks s m 0x43 [] x →
      (s.log.frozen = true → ∃ t, exec (.logUnfreeze m) s = .next t ∧
        t = { s with freeIdx := t.freeIdx, out := t.out, bcp := t.bcp, recs := t.recs, log := t.log } ∧
        t.log.frozen = false ∧ t.log.special.length = s.log.special.length + 1 ∧ t.log.ring = s.log.ring) ∧
        (s.log.frozen = false → exec (.logUnfreeze m) s = .next (refuse (acceptedState s m 0x43 x) (askNow s m 0x43 x) 0x0C)))

/-- RECORD parcels become records of their kind or REC_BAD; crops become ROI records; a closed datagram is sent once, its
SEQ counted (R488, R489, R494, R497, R498, R500, R506, R508). Where no rule speaks it says the model's choice: log
entry 94. -/
def Obligations.RecordsAndDatagrams : Prop :=
  (∀ (r : LinkRx) (x : Parcel) (s s1 : State), portOk s r.port = true → linkReceive s r = (some x, s1) → x.vc = 1 → x.kind = 0
      → x.cls = 4 → r.port.die = .svc → s1.recs.arrived + x.payload.length ≤ 65536 → 3 ≤ x.tag ∨ (x.tag = 0 ∧ x.payload.length
      ≠ 32 ∧ x.payload.length ≠ 64) →
      exec (.recordParcel r) s = .next (recBad { s1 with recs := { s1.recs with arrived := s1.recs.arrived + x.payload.length, arrivalHit := s1.recs.arrivalHit } }) ∧
        exec (.stream r) s = exec (.recordParcel r) s) ∧
  (∀ (r : LinkRx) (x : Parcel) (s s1 : State), portOk s r.port = true → linkReceive s r = (some x, s1) → x.vc = 1 → x.kind = 0
      → x.cls = 4 → r.port.die = .svc → s1.recs.arrived + x.payload.length ≤ 65536 → x.tag = 1 → x.last = false → s1.recs.part
      = [] → x.payload ≠ [] →
      ∃ t, exec (.recordParcel r) s = .next t ∧ t = { s1 with recs := { s1.recs with arrived := s1.recs.arrived + x.payload.length, part := [(256 + x.src, x.payload)] } }) ∧
  (∀ (b : List Byte) (body : List Byte) (s : State), s.eye.exposed = true → b = leBytes 1 2 ++ [0] ++ leBytes 2 16 ++ body →
      body.length = 16 →
      (takeBody s false b).mem = s.mem ∧ takeBody s false b = takeRecords s [{ ownRecord s (.zone body) with ltime := s.eye.exposedAt, tentative := false }] ∧
        takeBody s false (leBytes 1 7 ++ b.drop 1) = recBad s) ∧
  (∀ (s : State),
      (s.recs.crops.find? (fun c => c.complete) = none → exec .roiEncode s = .next s) ∧
        (∀ c, s.recs.crops.find? (fun c => c.complete) = some c → ∃ t, exec .roiEncode s = .next t ∧
        t = { s with recs := t.recs, log := t.log } ∧
        t.recs.crops = s.recs.crops.erase c ∧ t.mem = s.mem ∧ t.regs = s.regs)) ∧
  (∀ (c : CropIn) (q : Nat) (jpeg : List Byte) (s : State),
      (roiRecords s c q jpeg).length = (jpeg.length + 1399) / 1400 ∧ ∀ r ∈ roiRecords s c q jpeg, r.body.cls = 3 ∧ r.epoch = c.epoch ∧ r.len ≤ 1440) ∧
  (∀ (s : State),
      exec .datagramTimeout s = .next { s with recs := { s.recs with closed := s.recs.dgram != [] } }) ∧
  (∀ (s : State), s.recs.closed = false ∨ addressed s = false ∨ rb s 0x00070000 0 = false →
      exec .datagramSend s = .next s) ∧
  (∀ (s : State), s.recs.closed = true → addressed s = true → rb s 0x00070000 0 = true → rb s 0x00070000 1 = false →
      s.recs.queue = [] →
      (linked s = true → ∃ t, exec .datagramSend s = .next t ∧
        t = { s with out := t.out, recs := t.recs, log := t.log } ∧
        t.recs.seq = (s.recs.seq + s.recs.dgram.length) % 65536 ∧ t.recs.dgrams = s.recs.dgrams + 1 ∧
          t.recs.sent = s.recs.sent + BitVec.ofNat 64 s.recs.dgram.length ∧ t.recs.dgram = [] ∧ t.recs.closed = false ∧
          t.out = s.out ++ (recordDests s).map fun ip => .udp 48721 ip 48721 (recordDgram s s.recs.dgram false)) ∧
        (linked s = false → ∃ t, exec .datagramSend s = .next t ∧
        t = { s with out := t.out, recs := t.recs, log := t.log } ∧
        t.recs.seq = s.recs.seq ∧ t.recs.dgram = [] ∧ t.out = s.out ∧
          t.recs.dropped = s.recs.dropped + toWord s.recs.dgram.length ∧ (s.recs.dgram ≠ [] → t.recs.linkDrop = true))) ∧
  (∀ (s : State),
      (rb s 0x00070000 4 = false → exec .statusReport s = .next s) ∧
        (rb s 0x00070000 4 = true → ∃ t, exec .statusReport s = .next t ∧ t.recs.droppedSec = 0 ∧ t = { s with recs := t.recs })) ∧
  (∀ (r : Record) (s : State), r.body.typ = 9 →
      (admitZero s r).recs.dropped = s.recs.dropped ∧ (admitZero s r).recs.drops = s.recs.drops)

/-- ANNOUNCE goes out with the device's fields; peers enter by their zone, refresh, leave, and only compatible ones have
their items staged (R512, R513, R514, R517, R518, R524). Where no rule speaks it says the model's choice: log entry
96. -/
def Obligations.PeerExchange : Prop :=
  (∀ (s : State),
      (peersOn s = false → exec .announceSend s = .next s) ∧
        (peersOn s = true → linked s = true → exec .announceSend s = .next { s with
            out := s.out ++ [.udp 48721 (rget s 0x00070118) 48721 (peerDgram s 1 0 (announceBytes (ownAnnounce s)))]
            peers := { s.peers with lastAnnounce := some (ownAnnounce s), startDue := s.peers.startDue - 1 } }) ∧
        (announceBytes (ownAnnounce s)).length = 32) ∧
  (∀ (p : PeerMsg) (a : Announce) (items : List (List Byte)) (s : State),
      (rb s 0x00070100 0 = false ∨ s.power.season = .dormant → exec (.peerAnnounce p a) s = .next s ∧ exec (.peerEmbed p items) s = .next s ∧ exec (.peerBye p) s = .next s) ∧
        (rb s 0x00070100 0 = true → s.power.season ≠ .dormant → p.wellFormed = false →
          exec (.peerAnnounce p a) s = .next (peerDrop s) ∧ exec (.peerEmbed p items) s = .next (peerDrop s) ∧ exec (.peerBye p) s = .next (peerDrop s))) ∧
  (∀ (p : PeerMsg) (a : Announce) (s : State), rb s 0x00070100 0 = true → rb s 0x00070100 1 = false → s.power.season ≠ .dormant
      → p.wellFormed = true → p.mac ≠ ownMac s →
      (zoneAccepted s p.zone = true → peerOf s p.mac = none → s.peers.table.length < 64 → exec (.peerAnnounce p a) s = .next { s with peers := { s.peers with
            table := s.peers.table ++ [{ mac := p.mac, zone := p.zone, ip := p.ip, heard := s.now, embId := a.embId, embAccept := a.embAccept }] } }) ∧
        (zoneAccepted s p.zone = true → peerOf s p.mac = none → 64 ≤ s.peers.table.length → exec (.peerAnnounce p a) s = .next (peerDrop s)) ∧
        (zoneAccepted s p.zone = false → ∃ t, exec (.peerAnnounce p a) s = .next t ∧
        t = { s with recs := t.recs, peers := t.peers, log := t.log } ∧
        peerOf t p.mac = none ∧ t.peers.drop = satAdd 65535 s.peers.drop 1) ∧
        (∀ e, zoneAccepted s p.zone = true → peerOf s p.mac = some e → e.ip = p.ip → ∃ t, exec (.peerAnnounce p a) s = .next t ∧
        t = { s with recs := t.recs, peers := t.peers, log := t.log } ∧
        peerOf t p.mac = some { e with heard := s.now, zone := p.zone, embId := a.embId, embAccept := a.embAccept } ∧ t.peers.table.length = s.peers.table.length)) ∧
  (∀ (p : PeerMsg) (item : List Byte) (e : PeerEntry) (s : State), rb s 0x00070100 0 = true → rb s 0x00070100 1 = false →
      s.power.season ≠ .dormant → p.wellFormed = true → p.mac ≠ ownMac s → item.length = 128 →
      (peerOf s p.mac = none → exec (.peerEmbed p [item]) s = .next (peerDrop s)) ∧
        (peerOf s p.mac = some e → e.ip = p.ip → compatible s e = true → embAccept s = true → s.peers.staged.length < 512 → ∃ t, exec (.peerEmbed p [item]) s = .next t ∧
        t = { s with recs := t.recs, peers := t.peers, log := t.log } ∧
        t.peers.staged = s.peers.staged ++ [{ bytes := stampMac item p.mac, received := s.now, order := s.peers.order }] ∧ t.peers.rx = s.peers.rx + 1 ∧
          (stampMac item p.mac).length = 128 ∧ t.ledgers = s.ledgers) ∧
        (peerOf s p.mac = some e → compatible s e = false ∨ embAccept s = false → ∃ t, exec (.peerEmbed p [item]) s = .next t ∧
        t = { s with recs := t.recs, peers := t.peers, log := t.log } ∧
        t.peers.staged = s.peers.staged ∧ t.peers.drop = satAdd 65535 s.peers.drop 1)) ∧
  (∀ (p : PeerMsg) (s : State), rb s 0x00070100 0 = true → rb s 0x00070100 1 = false → s.power.season ≠ .dormant → p.wellFormed
      = true → p.mac ≠ ownMac s → (peerOf s p.mac).isSome = true →
      exec (.peerBye p) s = .next { s with peers := { s.peers with table := s.peers.table.filter fun e => e.mac != p.mac } } ∧
        exec (.peerAgeOut p.mac) s = exec (.peerBye p) s) ∧
  (∀ (mac : BitVec 48) (s : State),
      ∃ t, exec (.peerAgeOut mac) s = .next t ∧ peerOf t mac = none ∧ t = { s with peers := { s.peers with table := t.peers.table } }) ∧
  (∀ (d : Die) (m : SqiMeta) (x : Staged) (e : Nat) (s : State), itemKind x.bytes ≠ 2 → slotOf s.peers (itemMac x.bytes)
      (itemTrack x.bytes) = some e ∨ (slotOf s.peers (itemMac x.bytes) (itemTrack x.bytes) = none ∧ emptySlot s.peers
      m.peerSlots = some e) →
      mfind (mergeItem s d m x).peers.slots e = some { mac := itemMac x.bytes, track := itemTrack x.bytes, received := x.received, order := x.order } ∧
        (mergeItem s d m x).ledgers = s.ledgers)

/-- E of a frame is its level rounded half up between −100 and 0 dBFS; frames move the floor as quiet or loud, and a
firing raises one AUDIO_WAKE (R528, R529, R530, R535, R538). Where no rule speaks it says the model's choice: log
entry 97. -/
def Obligations.ListenerFrames : Prop :=
  (∀ (xs : List Int) (n : Nat), n < 1600 →
      (-(n : Int) ≤ frameLevel xs ↔ (160 * 2 ^ 30) ^ 320 ≤ (frameSum xs) ^ 320 * 10 ^ (1 + 2 * n)) ∧ -1600 ≤ frameLevel xs ∧ frameLevel xs ≤ 0) ∧
  (∀ (x0 x1 : List Int) (scores : List Nat) (b0 b1 : Nat) (ecc : Bool) (s : State), s.lst.state = .off →
      exec (.audioFrame x0 x1 scores b0 b1 ecc) s = .next s) ∧
  (∀ (x0 x1 : List Int) (scores : List Nat) (b0 b1 : Nat) (s : State), s.lst.state = .start ∨ s.lst.state = .test ∨ s.lst.state
      = .fault →
      exec (.audioFrame x0 x1 scores b0 b1 false) s = .next { s with lst := { s.lst with
            mic0 := { s.lst.mic0 with current := min b0 4095 }
            mic1 := { s.lst.mic1 with current := min b1 4095 } } }) ∧
  (∀ (x0 x1 : List Int) (scores : List Nat) (b0 b1 : Nat) (ecc : Bool) (s : State), s.lst.state = .running → rb s 0x00080000 8
      = false →
      ∃ t, exec (.audioFrame x0 x1 scores b0 b1 ecc) s = .next t ∧ t = { s with lst := t.lst, freeIdx := t.freeIdx, recs := t.recs, log := t.log } ∧
        t.lst.frames = s.lst.frames + 1 ∧ t.lst.state = .running) ∧
  (∀ (m : Nat) (e : Int) (s : State), m < 2 →
      ((micOf s m).frames = 99 → (micOf (micGather s m e) m).floor = divHalfUp (16 * ((micOf s m).sum + e)) 100) ∧
        (micOf (micGather s m e) m).frames = (micOf s m).frames + 1 ∧
        (16 * e < (micOf s m).floor + lstThresh s → (micOf (micDetect s m e) m).floor = floorMove (micOf s m).floor e (lstTau s) ∧ (micOf (micDetect s m e) m).loudRun = 0) ∧
        ((micOf s m).floor + lstThresh s ≤ 16 * e → (micOf (micDetect s m e) m).loudRun = (micOf s m).loudRun + 1 ∧
          ((micOf s m).loudRun < 200 → (micOf (micDetect s m e) m).floor = (micOf s m).floor) ∧
          (200 ≤ (micOf s m).loudRun → (micOf (micDetect s m e) m).floor = floorMove (micOf s m).floor e (lstTau s))) ∧
        micOf (micDetect s m e) (1 - m) = micOf s (1 - m)) ∧
  (∀ (s : State),
      ((∀ m, m < 2 → micHits s m = false) → fireEnergy s = s) ∧
        (micHits s 0 = true → micHits s 1 = false → (micOf s 0).refractUntil ≤ s.lst.frames → rb s 0x00080000 8 = false →
          ∃ t, fireEnergy s = raiseRecord t (.audioWake 0 0 (micOf s 0).loudMax (seasonCode s.power.season)) ∧ t.lst.wakes = s.lst.wakes + 1 ∧
          t.lst.mic0 = { s.lst.mic0 with refractUntil := s.lst.frames + lstRefract s } ∧ t.lst.mic1 = s.lst.mic1 ∧ t = { s with lst := t.lst }) ∧
        (micHits s 0 = true → micHits s 1 = false → s.lst.frames < (micOf s 0).refractUntil →
          fireEnergy s = { s with lst := { s.lst with suppressed := s.lst.suppressed + 1 } }))

/-- START leads to ARMING, a self-test back to ARMING; a short, an open input, silence, a lost clock and the watchdog have
the outcomes of Table 17.8 (R531, R538, R540, R544). Where no rule speaks it says the model's choice: log entries 2,
97, 98. -/
def Obligations.ListenerStatesAndFaults : Prop :=
  (∀ (s : State),
      exec .listenerStartDone s = .next (if s.lst.state = .start then { s with lst := { s.lst with state := .arming } } else s)) ∧
  (∀ (v : Word) (s : State), inField s = true →
      exec (.listenerSelftest .i2c v) s = .next (answer s .i2c 0x00080000 .path)) ∧
  (∀ (v : Word) (s : State), s.lst.state = .running → lstOn (rput s 0x00080000 ((v ||| 0x200) &&& 0x7DFF)) = true →
      ∃ t, exec (.listenerSelftest .bcp v) s = .next t ∧ t.lst.state = .test ∧ t.regs = (rput s 0x00080000 ((v ||| 0x200) &&& 0x7DFF)).regs ∧
        t = { s with regs := t.regs, lst := t.lst }) ∧
  (∀ (l0 l1 : Int) (s : State),
      (s.lst.state ≠ .test → exec (.selftestDone l0 l1) s = .next s) ∧
        (s.lst.state = .test → ∃ t, exec (.selftestDone l0 l1) s = .next t ∧ t = { s with lst := t.lst } ∧ t.lst.state = .arming ∧
          (micUsed s 0 = true → t.lst.test0 = l0) ∧ (micUsed s 1 = true → t.lst.test1 = l1) ∧ (micUsed s 1 = false → t.lst.test1 = s.lst.test1) ∧ t.lst.mic0.frames = 0)) ∧
  (∀ (m : Nat) (s : State), 2 ≤ m →
      exec (.micBiasShort m) s = .fault .noSuchUnit ∧ exec (.micBiasRetry m) s = .fault .noSuchUnit ∧ exec (.micOpen m) s = .fault .noSuchUnit ∧
        exec (.micOpenCleared m) s = .fault .noSuchUnit ∧ exec (.micSilent m) s = .fault .noSuchUnit) ∧
  (∀ (m : Nat) (s : State), m < 2 → micBiased s m = true →
      ∃ t, exec (.micBiasShort m) s = .next t ∧ t = { s with lst := t.lst, freeIdx := t.freeIdx, recs := t.recs, log := t.log } ∧
        (micOf t m).status = 2 ∧ (micOf t m).biasOff = true ∧ ((micOf t m).biasGone = true ↔ rf s 0x00080008 19 16 ≤ (micOf s m).retries) ∧
        t.lst.shorts = satAdd 255 s.lst.shorts 1 ∧ micOf t (1 - m) = micOf s (1 - m) ∧
        (s.lst.state = .running → micUsed s m = true → micUsed s (1 - m) = true → micFaulty (micOf s (1 - m)) = true → t.lst.state = .fault) ∧
        (micFaulty (micOf s (1 - m)) = false → micUsed s (1 - m) = true → t.lst.state = s.lst.state)) ∧
  (∀ (m : Nat) (s : State), m < 2 → s.lst.state ≠ .off → (micOf s m).biasOff = true → (micOf s m).biasGone = false →
      ∃ t, exec (.micBiasRetry m) s = .next t ∧ t = { s with lst := t.lst } ∧ (micOf t m).status = 0 ∧ (micOf t m).biasOff = false ∧
        (micOf t m).retries = (micOf s m).retries + 1 ∧ (s.lst.state ≠ .fault → (micOf t m).skip = 5 ∧ t.lst.state = s.lst.state) ∧
        (s.lst.state = .fault → micUsed s m = true → t.lst.state = .arming)) ∧
  (∀ (m : Nat) (s : State), m < 2 →
      (micBiased s m = true → (micOf s m).status ≠ 1 → ∃ t, exec (.micOpen m) s = .next t ∧ (micOf t m).status = 1 ∧ t.lst.opens = satAdd 255 s.lst.opens 1 ∧
          t = { s with lst := t.lst, freeIdx := t.freeIdx, recs := t.recs, log := t.log }) ∧
        ((micOf s m).status = 1 → s.lst.state ≠ .fault → ∃ t, exec (.micOpenCleared m) s = .next t ∧ t = { s with lst := t.lst } ∧ (micOf t m).status = 0 ∧
          t.lst.state = s.lst.state) ∧
        ((micOf s m).status ≠ 1 → exec (.micOpenCleared m) s = .next s) ∧
        (s.lst.state ≠ .off → (micOf s m).silent = false → ∃ t, exec (.micSilent m) s = .next t ∧ (micOf t m).silent = true ∧ (micOf t m).status = (micOf s m).status ∧
          t.lst.silences = satAdd 255 s.lst.silences 1 ∧ t.lst.state = s.lst.state ∧ t = { s with lst := t.lst, freeIdx := t.freeIdx, recs := t.recs, log := t.log })) ∧
  (∀ (s : State), s.lst.state ≠ .off →
      (((s.now :: s.lst.clkLosses).filter fun t => decide (s.now < t + secNs 60)).length < 3 → ∃ t, exec .modClockLost s = .next t ∧ t.lst.state = .start ∧
          t.lst.mic0 = micFresh s.lst.mic0 ∧ t.lst.frames = 0 ∧ t = { s with lst := t.lst, freeIdx := t.freeIdx, recs := t.recs, log := t.log }) ∧
        (3 ≤ ((s.now :: s.lst.clkLosses).filter fun t => decide (s.now < t + secNs 60)).length → ∃ t, exec .modClockLost s = .next t ∧ t.lst.state = .fault ∧
          t.lst.mic0 = s.lst.mic0 ∧ t = { s with lst := t.lst, freeIdx := t.freeIdx, recs := t.recs, log := t.log }) ∧
        (∃ t, exec .listenerWatchdog s = .next t ∧ t.lst.state = .start ∧ t.lst.mic1 = micFresh s.lst.mic1 ∧ t = { s with lst := t.lst, freeIdx := t.freeIdx, recs := t.recs, log := t.log }))

/-- A converter calibrates, scans its set channel by channel, serves urgent requests first; each conversion updates its
channel and may queue an entry (R548, R549, R551, R553, R555, R556, R557, R558, R559, R560, R567). Where no rule
speaks it says the model's choice: log entry 99. -/
def Obligations.HousekeepingConversions : Prop :=
  (∀ (k : Bank) (s : State),
      ((hkConv s k).state ≠ .cal → ∀ ok, exec (.hkCalibrate k ok) s = .next s) ∧
        ((hkConv s k).state = .cal → hkRunsPaced s k = false → ∃ t, exec (.hkCalibrate k true) s = .next t ∧ (hkConv t k).state = .continuous ∧ (hkConv t k).sliceOut = 0 ∧
          t = { s with hk := t.hk }) ∧
        ((hkConv s k).state = .cal → hkRunsPaced s k = true → (hkConv s k).chans = [] → (hkConv s k).burst = 0 → (hkConv s k).urgent = none →
          ∃ t, exec (.hkCalibrate k true) s = .next t ∧ (hkConv t k).state = .idle ∧ t = { s with hk := t.hk }) ∧
        ((hkConv s k).state = .cal → ∃ t, exec (.hkCalibrate k false) s = .next t ∧
        t = { s with dies := t.dies, recs := t.recs, hk := t.hk, log := t.log } ∧
        (hkConv t k).state = .fault ∧ (hkConv t k).fault = 1 ∧ t.hk.queue = s.hk.queue ∧ t.mem = s.mem)) ∧
  (∀ (f : SbFrame) (w : BitVec 48) (e : LaunchEntry) (s s1 : State), LaunchReady s f 0x30 w s1 e → f.port.die = .svc → tokUnit
      w = 1 → hkMode s1 = 0 →
      (hkPaced s1 .a = true → s1.hk.a.state = .idle → hkSetChans s1 .a (e.arg.toNat % 8) ≠ [] → ∃ t, exec (.adcScan f) s = .next t ∧
        t = { s with
          regs := t.regs, out := t.out, seqr := t.seqr, dies := t.dies, boot := t.boot, ports := t.ports, recs := t.recs,
          hk := t.hk, log := t.log, outboxes := t.outboxes } ∧
        t.hk.a.state = .starting ∧
          t.hk.a.chans = hkSetChans s1 .a (e.arg.toNat % 8) ∧ t.hk.a.passes + 1 = hkSetPasses s1 .a (e.arg.toNat % 8) ∧ t.hk.b = s1.hk.b ∧ t.mem = s1.mem ∧ t.regs = s1.regs) ∧
        (hkPaced s1 .a = false → ∃ t, exec (.adcScan f) s = .next t ∧
        t = { s with
          regs := t.regs, out := t.out, seqr := t.seqr, dies := t.dies, boot := t.boot, ports := t.ports, recs := t.recs,
          hk := t.hk, log := t.log, outboxes := t.outboxes } ∧
        t.hk = s1.hk ∧ (t.die .svc).missed = satAdd 65535 (s1.die .svc).missed 1 ∧ unitOf t .svc 1 = ⟨none, none⟩)) ∧
  (∀ (k : Bank) (x : Int) (s : State), hkConverting (hkConv s k) = false →
      exec (.hkConversion k x) s = .next s ∧ ∀ d, exec (.hkRefresh k d) s = .next s) ∧
  (∀ (k : Bank) (x : Int) (ch : Nat) (rest : List Nat) (s : State), (hkConv s k).state = .scanning ∨ (hkConv s k).state =
      .starting → hkMode s = 0 → (hkConv s k).urgent = none → (hkConv s k).chans = ch :: rest → ch < 24 →
      ∃ t, exec (.hkConversion k x) s = .next t ∧
        t = { s with dies := t.dies, recs := t.recs, hk := t.hk, log := t.log } ∧
        t.hk.count = vmod s.hk.count ch (· + 1) ∧ t.mem = s.mem ∧ t.regs = s.regs ∧
        (rest ≠ [] → (hkConv t k).state = .scanning ∧ (hkConv t k).chans = rest ∧ t.dies = s.dies) ∧
        (rest = [] → (hkConv s k).passes ≠ 0 → (hkConv t k).chans = hkSetChans s k (hkConv s k).set ∧ (hkConv t k).passes + 1 = (hkConv s k).passes) ∧
        (rest = [] → (hkConv s k).passes = 0 → (hkConv t k).state = .idle ∧ (unitOf t .svc (1 + k.idx)).busy = none)) ∧
  (∀ (k : Bank) (x : Int) (ch : Nat) (s : State), (hkConv s k).state = .continuous → hkMode s = 0 → (hkConv s k).urgent = some
      ch → (hkConv s k).slice = 0 → ch < 24 →
      ∃ t, exec (.hkConversion k x) s = .next t ∧
        t = { s with dies := t.dies, recs := t.recs, hk := t.hk, log := t.log } ∧
        (hkConv t k).urgent = none ∧ (hkConv t k).chans = (hkConv s k).chans ∧ t.hk.count = vmod s.hk.count ch (· + 1) ∧
        wbit t.hk.urgentRes 31 = true ∧ wbits t.hk.urgentRes 11 0 = (hkCorrect s k ch x).1 ∧ wbits t.hk.urgentRes 20 16 = ch ∧
        t.hk.queue.length = (if 64 ≤ s.hk.queue.length then s.hk.queue.length else s.hk.queue.length + 1)) ∧
  (∀ (k : Bank) (ch y : Nat) (clip urgent pair : Bool) (s : State), ch < 24 → y ≤ 4095 → wbit (rget s (0x00090300 + 4 * ch)) 31
      = false → urgent = false → wbit (rget s 0x00090010) ch = false → ch ≠ 10 → ch ≠ 18 →
      hkResult s k ch y clip urgent pair = { s with hk := { s.hk with
            last := s.hk.last.setIfInBounds ch (toWord (y + 2 ^ 12 * b2n clip + 2 ^ 13 * k.idx))
            count := vmod s.hk.count ch (· + 1)
            minmax := vmod s.hk.minmax ch (hkMinMax · y) } }) ∧
  (∀ (k : Bank) (ch : Nat) (x : Int) (s : State),
      (hkCorrect s k ch x).1 ≤ 4095 ∧ (hkTrimWord s k ch = 0 ∨ rb s 0x00090000 6 = false → 0 ≤ x → x ≤ 4095 → hkCorrect s k ch x = (x.toNat, false)) ∧
        (hkTrimWord s k ch = 0 ∨ rb s 0x00090000 6 = false → 4096 ≤ x → hkCorrect s k ch x = (4095, true))) ∧
  (∀ (k : Bank) (d : Nat) (s : State), hkConverting (hkConv s k) = true → d < 4 → nbit (hkConv s k).sliceOut.toNat d = false →
      ((hkConv s k).sliceOut = 0 → ∃ t, exec (.hkRefresh k (some d)) s = .next t ∧
        t = { s with dies := t.dies, recs := t.recs, hk := t.hk, log := t.log } ∧
        slicesIn (hkConv t k) = 3 ∧ (hkConv t k).state = (hkConv s k).state ∧ t.dies = s.dies) ∧
        ((hkConv s k).sliceOut ≠ 0 → ∃ t, exec (.hkRefresh k (some d)) s = .next t ∧
        t = { s with dies := t.dies, recs := t.recs, hk := t.hk, log := t.log } ∧
        (hkConv t k).state = .fault ∧ (hkConv t k).fault = 3) ∧
        exec (.hkRefresh k none) s = .next (modConv s k fun c => { c with refreshed := s.now })) ∧
  (∀ (a b : Int) (s : State), hkMode s = 2 → s.hk.a.state = .continuous → s.hk.b.state = .continuous → (((hkCorrect s .a (rf s
      0x00090000 28 24) a).1 : Int) - (hkCorrect s .b (rf s 0x00090000 28 24) b).1).natAbs ≤ rf s 0x00090008 23 16 →
      ∃ t, exec (.xcPair a b) s = .next t ∧
        t = { s with recs := t.recs, hk := t.hk, log := t.log } ∧
        t.hk.xcRun = 0 ∧ t.hk.xcMismatch = s.hk.xcMismatch ∧ t.hk.xcPairs = satAdd 65535 s.hk.xcPairs 1 ∧ t.hk.xcFault = s.hk.xcFault) ∧
  (∀ (a b : Int) (s : State), hkMode s = 2 → s.hk.a.state = .continuous → s.hk.b.state = .continuous → rf s 0x00090008 23 16 <
      (((hkCorrect s .a (rf s 0x00090000 28 24) a).1 : Int) - (hkCorrect s .b (rf s 0x00090000 28 24) b).1).natAbs →
      ∃ t, exec (.xcPair a b) s = .next t ∧
        t = { s with recs := t.recs, hk := t.hk, log := t.log } ∧
        t.hk.xcRun = s.hk.xcRun + 1 ∧ t.hk.xcMismatch = satAdd 65535 s.hk.xcMismatch 1 ∧
        (t.hk.xcFault = true ↔ s.hk.xcFault = true ∨ rf s 0x00090008 27 24 ≤ s.hk.xcRun + 1)) ∧
  (∀ (p : Path) (v : Word) (s : State),
      (s.hk.queue = [] → exec (.hkQRead p) s = .next (answer (setHiShadow s p 0x0009001C 0) p 0x0009001C .ok 0)) ∧
        (∀ e es, s.hk.queue = e :: es → exec (.hkQRead p) s = .next (answer (setHiShadow { s with hk := { s.hk with queue := es } } p 0x0009001C e.2) p 0x0009001C .ok e.1)) ∧
        (hkPathOk s p = true → exec (.hkMmClr p v) s = .next (answer { s with hk := { s.hk with
            minmax := s.hk.minmax.mapFinIdx fun i w _ => if wbit v i = true then 0x0FFF else w } } p 0x000903F0 .ok)) ∧
        (hkPathOk s p = false → exec (.hkMmClr p v) s = .next (answer s p 0x000903F0 .path) ∧ exec (.hkUrgent p v) s = .next (answer s p 0x00090014 .path))) ∧
  (∀ (p : Path) (v : Word) (s : State), hkPathOk s p = true → hkChannel s (wbits v 4 0) = true → wbits v 31 16 = 0x0A9C → wbit
      v 5 = false → s.hk.a.urgent = none → hkMode s ≠ 1 →
      ∃ t, exec (.hkUrgent p v) s = .next (answer t p 0x00090014 .ok) ∧ t = { s with hk := t.hk } ∧ t.hk.a.urgent = some (wbits v 4 0) ∧ wbit t.hk.urgentRes 31 = false ∧
        t.hk.a.state = (if s.hk.a.state = .idle then .starting else s.hk.a.state) ∧ t.hk.b = s.hk.b) ∧
  (∀ (s : State), s.hk.a.state = .off ∨ s.hk.a.state = .fault → s.hk.b.state = .off ∨ s.hk.b.state = .fault →
      exec .hkClockLost s = .next s) ∧
  (∀ (s : State), s.hk.a.state = .continuous → s.hk.b.state = .off →
      ∃ t, exec .hkClockLost s = .next t ∧
        t = { s with
          freeIdx := t.freeIdx, dies := t.dies, recs := t.recs, hk := t.hk, log := t.log, outboxes := t.outboxes } ∧
        (t.hk.a.state = .cal ∨ t.hk.a.state = .fault) ∧
        (t.hk.a.state = .fault ↔ 3 ≤ ((s.now :: s.hk.a.clkLosses).filter fun t => decide (s.now < t + secNs 60)).length) ∧ t.hk.b = s.hk.b ∧ t.hk.count = s.hk.count)

/-- FO_SET, FO_CLEAR, FO_PULSE and FO_OUT set the outputs a mask names, pairs together; a latch turns its outputs OFF
until a retry or a clear (R571, R572, R573, R602, R603, R604). Where no rule speaks it says the model's choice: log
entries 2, 100, 101. -/
def Obligations.FieldOutputs : Prop :=
  (∀ (s : State) (mask n : Nat), n < 4 →
      (n ∈ foNamed s mask ↔ nbit mask n = true ∨ foPaired s n = true ∧ nbit mask (foMate n) = true) ∧
        (foLevel s n = 2 ↔ (foOut s n).latched = true ∨ s.fo.uvlo = true) ∧
        (foOn s = false → (foOut s n).latched = false → s.fo.uvlo = false → foLevel s n = 0)) ∧
  (∀ (f : SbFrame) (w : BitVec 48) (e : LaunchEntry) (s s1 : State), LaunchReady s f 0x20 w s1 e → f.port.die = .svc → tokUnit
      w = 3 → foOn s1 = true → wbits e.arg 31 16 ≠ 0 →
      ∃ t, exec (.foPulse f) s = .next t ∧
        t = { s with
          regs := t.regs, out := t.out, seqr := t.seqr, dies := t.dies, boot := t.boot, ports := t.ports, recs := t.recs,
          fo := t.fo, log := t.log, outboxes := t.outboxes } ∧
        t.mem = s1.mem ∧ t.regs = s1.regs ∧ unitOf t .svc 3 = ⟨none, none⟩ ∧
        ∀ n, n < 4 → foOut t n = if n ∈ foNamed s1 (wbits e.arg 3 0) then { foOut s1 n with cmd := true, pulseEnd := some (s1.now + 1000 * wbits e.arg 31 16) } else foOut s1 n) ∧
  (∀ (f : SbFrame) (w : BitVec 48) (e : LaunchEntry) (s s1 : State), LaunchReady s f 0x21 w s1 e → f.port.die = .svc → tokUnit
      w = 3 → foOn s1 = true →
      ∃ t, exec (.foSet f) s = .next t ∧
        t = { s with
          regs := t.regs, out := t.out, seqr := t.seqr, dies := t.dies, boot := t.boot, ports := t.ports, recs := t.recs,
          fo := t.fo, log := t.log, outboxes := t.outboxes } ∧
        t.mem = s1.mem ∧ t.regs = s1.regs ∧ unitOf t .svc 3 = ⟨none, none⟩ ∧
        ∀ n, n < 4 → foOut t n = if n ∈ foNamed s1 (wbits e.arg 3 0) then { foOut s1 n with cmd := true, pulseEnd := none } else foOut s1 n) ∧
  (∀ (f : SbFrame) (w : BitVec 48) (e : LaunchEntry) (s s1 : State), LaunchReady s f 0x22 w s1 e → f.port.die = .svc → tokUnit
      w = 3 →
      ∃ t, exec (.foClear f) s = .next t ∧
        t = { s with
          regs := t.regs, out := t.out, seqr := t.seqr, dies := t.dies, boot := t.boot, ports := t.ports, recs := t.recs,
          fo := t.fo, log := t.log, outboxes := t.outboxes } ∧
        t.mem = s1.mem ∧ t.regs = s1.regs ∧ unitOf t .svc 3 = ⟨none, none⟩ ∧
        ∀ n, n < 4 → foOut t n = if foOn s1 = true ∧ n ∈ foNamed s1 (wbits e.arg 3 0) then { foOut s1 n with cmd := false, pulseEnd := none } else foOut s1 n) ∧
  (∀ (k : Nat) (s : State), k < 4 → foOn s = true →
      ((foOut s k).pulseEnd = none → exec (.foPulseEnd k) s = .next s) ∧
        (∀ e, (foOut s k).pulseEnd = some e → ∃ t, exec (.foPulseEnd k) s = .next t ∧ t = { s with fo := t.fo, out := t.out } ∧
          ∀ n, n < 4 → foOut t n = if (foOut s n).pulseEnd = some e then { foOut s n with cmd := false, pulseEnd := none } else foOut s n)) ∧
  (∀ (p : Path) (v : Word) (s : State),
      (fieldPathOk s p = false → exec (.foOutWrite p v) s = .next (answer s p 0x000A0014 .path)) ∧
        (fieldPathOk s p = true → foOn s = false → exec (.foOutWrite p v) s = .next (answer s p 0x000A0014 .ok)) ∧
        (fieldPathOk s p = true → foOn s = true → ∃ t, exec (.foOutWrite p v) s = .next (answer t p 0x000A0014 .ok) ∧ t = { s with fo := t.fo, out := t.out } ∧
          ∀ n, n < 4 → foOut t n = { foOut s n with cmd := decide (n ∈ foNamed s (wbits v 3 0)), pulseEnd := none })) ∧
  (∀ (k : Nat) (o : Nat) (s : State), k < 4 →
      (foLevel s k ≠ 0 → exec (.foFaultLatch .shortHi k o) s = .next s) ∧ (foLevel s k ≠ 1 → exec (.foFaultLatch .shortLo k o) s = .next s) ∧
        (foLevel s k = 0 → ∃ t, exec (.foFaultLatch .shortHi k o) s = .next t ∧
        t = { s with out := t.out, recs := t.recs, fo := t.fo, log := t.log, outboxes := t.outboxes } ∧
        t.fo.latches = satAdd 65535 s.fo.latches 1 ∧ t.mem = s.mem ∧ t.regs = s.regs ∧
          ∀ n, n < 4 → if n ∈ foGroup s k then (foOut t n).latched = true ∧ nbit (foOut t n).faults.toNat 0 = true ∧ foLevel t n = 2 ∧ (foOut t n).cmd = (foOut s n).cmd
            else foOut t n = foOut s n) ∧
        (foLevel s k ≠ 2 → ∃ t, exec (.foFaultLatch .thermal k o) s = .next t ∧
        t = { s with out := t.out, recs := t.recs, fo := t.fo, log := t.log, outboxes := t.outboxes } ∧
        (foOut t k).latched = true ∧ (foOut t k).thermal = true ∧ nbit (foOut t k).faults.toNat 4 = true)) ∧
  (∀ (k : Nat) (s : State), 4 ≤ k →
      exec (.foPulseEnd k) s = .fault .noSuchUnit ∧ exec (.foFaultLatch .shortLo k 0) s = .fault .noSuchUnit ∧ exec (.foOpenLoad k) s = .fault .noSuchUnit ∧
        exec (.foRetry k) s = .fault .noSuchUnit ∧ exec (.foRetryRestore k) s = .fault .noSuchUnit ∧ exec (.foThermalRelease k) s = .fault .noSuchUnit) ∧
  (∀ (k : Nat) (s : State), k < 4 →
      (rb s (0x000A0000 + 4 * k) 5 = false ∨ foLevel s k ≠ 1 → exec (.foOpenLoad k) s = .next s) ∧
        (rb s (0x000A0000 + 4 * k) 5 = true → foLevel s k = 1 → ∃ t, exec (.foOpenLoad k) s = .next t ∧
        t = { s with recs := t.recs, fo := t.fo, log := t.log, outboxes := t.outboxes } ∧
        (foOut t k).latched = (foOut s k).latched ∧
          nbit (foOut t k).faults.toNat 5 = true ∧ t.out = s.out) ∧
        ((foOut s k).latched = true → exec (.foRetryRestore k) s = .next s) ∧
        ((foOut s k).latched = false → ∃ t, exec (.foRetryRestore k) s = .next t ∧ t = { s with fo := t.fo } ∧ foOut t k = { foOut s k with used := 0, retrying := false })) ∧
  (∀ (k : Nat) (s : State), k < 4 → foPaired s k = false → (foOut s k).latched = true →
      (foRetries s k ≤ (foOut s k).used ∨ (foOut s k).thermal = true → exec (.foRetry k) s = .next s) ∧
        ((foOut s k).used < foRetries s k → (foOut s k).thermal = false → ∃ t, exec (.foRetry k) s = .next t ∧ t = { s with fo := t.fo, out := t.out } ∧
          foOut t k = { foOut s k with latched := false, retrying := true } ∧ ∀ n, n < 4 → n ≠ k → foOut t n = foOut s n) ∧
        ((foOut s k).used < foRetries s k → (foOut s k).thermal = true → ∃ t, exec (.foThermalRelease k) s = .next t ∧
        t = { s with out := t.out, fo := t.fo } ∧
        foOut t k = { foOut s k with latched := false, retrying := true, thermal := false }) ∧
        ((foOut s k).thermal = false → exec (.foThermalRelease k) s = .next s)) ∧
  (∀ (p : Path) (v : Word) (s : State), fieldPathOk s p = true →
      ∃ t, exec (.foFaultClear p v) s = .next (answer t p 0x000A001C .ok) ∧ t = { s with fo := t.fo, out := t.out } ∧
        ∀ n, n < 4 → (foOut t n).faults = (foOut s n).faults &&& ~~~BitVec.ofNat 7 (wbits v (8 * n + 6) (8 * n)) ∧ (foOut t n).cmd = (foOut s n).cmd ∧
          (((foOut s n).faults.toNat &&& wbits v (8 * n + 6) (8 * n)) % 32 ≠ 0 → (foOut t n).latched = false ∧ (foOut t n).used = 0) ∧
          (((foOut s n).faults.toNat &&& wbits v (8 * n + 6) (8 * n)) % 32 = 0 → (foOut t n).latched = (foOut s n).latched ∧ (foOut t n).used = (foOut s n).used)) ∧
  (∀ (s : State),
      (s.fo.uvlo = true → exec .foUvlo s = .next s) ∧
        (s.fo.uvlo = false → ∃ t, exec .foUvlo s = .next t ∧
        t = { s with out := t.out, recs := t.recs, fo := t.fo, log := t.log } ∧
        t.fo = { s.fo with uvlo := true, lockouts := satAdd 65535 s.fo.lockouts 1 } ∧ t.mem = s.mem ∧ t.regs = s.regs) ∧
        (∃ t, exec .foUvloRecover s = .next t ∧ t = { s with fo := { s.fo with uvlo := false }, out := t.out }))

/-- Electrodes track, report occlusion and clear; the I2C controller, flash timeout, GPIO edges and PMBus have their
stated results (R575, R577, R578, R579, R580, R587, R588, R590, R596, R599, R604, R649). Where no rule speaks it says
the model's choice: log entries 2, 102, 103, 104. -/
def Obligations.TamperBusesAndPins : Prop :=
  (∀ (k c : Nat) (r : Bool) (s : State), k < 2 →
      ((teOf s k).state = .off → exec (.tamperSample k c r) s = .next s) ∧
        ((teOf s k).state = .start → (teOf s k).samples.length < 15 → ∃ t, exec (.tamperSample k c r) s = .next t ∧ t = { s with tamper := t.tamper } ∧
          teOf t k = { teOf s k with c := c, samples := c :: (teOf s k).samples } ∧ teOf t (1 - k) = teOf s (1 - k)) ∧
        ((teOf s k).state = .start → (teOf s k).samples.length = 15 → teValid s k = true → ((16 * ((c + (teOf s k).samples.sum : Nat) : Int) - 256 * teF s k).natAbs : Int) ≤ teOccl s →
          ∃ t, exec (.tamperSample k c r) s = .next t ∧
        t = { s with
          freeIdx := t.freeIdx, out := t.out, dies := t.dies, recs := t.recs, lst := t.lst, hk := t.hk, fo := t.fo,
          tamper := t.tamper, log := t.log, power := t.power } ∧
        (teOf t k).state = .normal ∧ (teOf t k).base = 16 * ((c + (teOf s k).samples.sum : Nat) : Int) ∧ t.recs = s.recs) ∧
        ((teOf s k).state = .start → (teOf s k).samples.length = 15 → teValid s k = true → teOccl s < ((16 * ((c + (teOf s k).samples.sum : Nat) : Int) - 256 * teF s k).natAbs : Int) →
          rb s 0x000B0000 3 = false → ∃ t, exec (.tamperSample k c r) s = .next t ∧
        t = { s with
          freeIdx := t.freeIdx, out := t.out, dies := t.dies, recs := t.recs, lst := t.lst, hk := t.hk, fo := t.fo,
          tamper := t.tamper, log := t.log, power := t.power } ∧
        (teOf t k).state = .occludedAtStart ∧ (teOf t k).base = 256 * teF s k ∧
          t.tamper.events = s.tamper.events + 1)) ∧
  (∀ (k c : Nat) (r : Bool) (s : State), k < 2 → (teOf s k).state = .normal →
      (((256 * (c : Int) - (teOf s k).base).natAbs : Int) ≤ teClear s → teClear s ≤ teOccl s → ∃ t, exec (.tamperSample k c r) s = .next t ∧ t = { s with tamper := t.tamper } ∧
          (teOf t k).state = .normal ∧ (teOf t k).occRun = 0 ∧ (teOf t k).base = (teOf s k).base + divHalfUp (256 * (c : Int) - (teOf s k).base) (20 * rf s 0x000B0010 31 16)) ∧
        (teClear s < ((256 * (c : Int) - (teOf s k).base).natAbs : Int) → teOccl s < ((256 * (c : Int) - (teOf s k).base).natAbs : Int) → (teOf s k).occRun < 19 →
          ∃ t, exec (.tamperSample k c r) s = .next t ∧ t = { s with tamper := t.tamper } ∧ (teOf t k).base = (teOf s k).base ∧ (teOf t k).occRun = (teOf s k).occRun + 1) ∧
        (teOccl s < ((256 * (c : Int) - (teOf s k).base).natAbs : Int) → (teOf s k).occRun = 19 → rb s 0x000B0000 3 = false →
          ∃ t, exec (.tamperSample k c r) s = .next t ∧
        t = { s with
          freeIdx := t.freeIdx, out := t.out, dies := t.dies, recs := t.recs, lst := t.lst, hk := t.hk, fo := t.fo,
          tamper := t.tamper, log := t.log, power := t.power } ∧
        (teOf t k).state = .occluded ∧ (teOf t k).base = (teOf s k).base ∧ t.tamper.events = s.tamper.events + 1)) ∧
  (∀ (k c : Nat) (r : Bool) (s : State), k < 2 → (teOf s k).state = .occluded → ((256 * (c : Int) - (teOf s k).base).natAbs :
      Int) ≤ teClear s → (teOf s k).clearRun = 99 →
      ∃ t, exec (.tamperSample k c r) s = .next t ∧
        t = { s with
          freeIdx := t.freeIdx, out := t.out, dies := t.dies, recs := t.recs, lst := t.lst, hk := t.hk, fo := t.fo,
          tamper := t.tamper, log := t.log, power := t.power } ∧
        (teOf t k).state = .normal ∧ (teOf t k).base = (teOf s k).base ∧ t.tamper.events = s.tamper.events + 1 ∧ t.mem = s.mem) ∧
  (∀ (k : Nat) (s : State), k < 2 →
      (teIsOccluded (teOf s k) = false → exec (.persistentOcclusion k) s = .next s) ∧
        (teIsOccluded (teOf s k) = true → ∃ t, exec (.persistentOcclusion k) s = .next t ∧ t = { s with tamper := t.tamper, recs := t.recs } ∧
          teOf t k = { teOf s k with persist := (teOf s k).persist + 1 } ∧ t.tamper.events = s.tamper.events + 1) ∧
        ((teOf s k).state ≠ .off → (teOf s k).state ≠ .fault → ∃ t, exec (.tamperFault k) s = .next t ∧
        t = { s with recs := t.recs, tamper := t.tamper, log := t.log } ∧
        (teOf t k).state = .fault ∧ teOf t (1 - k) = teOf s (1 - k)) ∧
        ((teOf s k).state ≠ .off → ∃ t, exec .shieldFault s = .next t ∧
        t = { s with recs := t.recs, tamper := t.tamper, log := t.log } ∧
        t.tamper.shield = true ∧ (teOf t k).state = .fault)) ∧
  (∀ (v : Word) (s : State), wbits v 31 16 = 0x7B5E → wbit v 0 = true → wbit v 1 = false → s.tamper.te0.state = .occluded ∨
      s.tamper.te0.state = .occludedAtStart ∨ s.tamper.te0.state = .normal →
      ∃ t, exec (.tamperRebaseline .bcp v) s = .next t ∧
        t = { s with out := t.out, recs := t.recs, tamper := t.tamper } ∧
        t.tamper.te0.state = .normal ∧ t.tamper.te0.base = 16 * (s.tamper.te0.samples.sum : Int) ∧
        t.tamper.te1 = s.tamper.te1 ∧ t.tamper.events = s.tamper.events + 1 ∧ t.regs = s.regs) ∧
  (∀ (p : Path) (v : Word) (free : Bool) (r : I2cResult) (s : State),
      (p ≠ .core → exec (.i2cControllerXfer p v free r) s = .next (answer s p 0x000C0004 .path)) ∧
        (wbits v 31 24 ≠ 0xC2 → exec (.i2cControllerXfer .core v free r) s = .next (answer s .core 0x000C0004 .ok)) ∧
        (wbits v 31 24 = 0xC2 → rb s 0x000C0000 10 = false ∨ s.bus.xfer ≠ none → exec (.i2cControllerXfer .core v free r) s = .next (answer s .core 0x000C0004 .refused))) ∧
  (∀ (v : Word) (r : I2cResult) (s : State), wbits v 31 24 = 0xC2 → wbits v 13 8 ≤ 32 → wbit v 7 = false → rb s 0x000C0000 10 =
      true → s.bus.xfer = none →
      (wbits v 6 0 = rf s 0x000C0000 6 0 → exec (.i2cControllerXfer .core v true r) s = .next (answer { s with bus := { s.bus with xfer := none, result := 5, lastLosses := 0 } } .core 0x000C0004 .ok)) ∧
        (wbits v 6 0 ≠ rf s 0x000C0000 6 0 → exec (.i2cControllerXfer .core v false r) s =
          .next (answer { s with bus := { s.bus with xfer := some (i2cXferOf v true), lastLosses := 0 } } .core 0x000C0004 .ok)) ∧
        (wbits v 6 0 ≠ rf s 0x000C0000 6 0 → exec (.i2cControllerXfer .core v true (.ok [])) s =
          .next (answer { s with bus := { s.bus with xfer := none, result := 0, lastLosses := 0 }, out := s.out ++ [.i2cController (wbits v 6 0) (i2cTxBytes s (wbits v 13 8)) 0] } .core 0x000C0004 .ok))) ∧
  (∀ (x : I2cXfer) (r : I2cResult) (b : Nat) (o : Bool) (s : State), s.bus.xfer = some x →
      (x.waiting = true → exec (.i2cBusFree r) s = .next (i2cAttempt s x r) ∧ exec (.i2cArbRetry r) s = .next s) ∧
        (x.waiting = false → exec (.i2cBusFree r) s = .next s) ∧
        (x.waiting = false → x.losses ≠ 0 → x.losses < 3 → ∃ t, exec (.i2cArbRetry (.lost b o)) s = .next t ∧
        t = { s with out := t.out, recs := t.recs, bus := t.bus, log := t.log } ∧
        t.bus.losses = satAdd 65535 s.bus.losses 1 ∧
          t.bus.xfer = some { x with losses := x.losses + 1, waiting := false }) ∧
        (x.waiting = false → x.losses = 3 → ∃ t, exec (.i2cArbRetry (.lost b o)) s = .next t ∧
        t = { s with out := t.out, recs := t.recs, bus := t.bus, log := t.log } ∧
        t.bus.xfer = none ∧ t.bus.result = 3 ∧ t.bus.lastLosses = 4) ∧
        (∃ t, exec (.i2cBusStuck true) s = .next t ∧
        t = { s with out := t.out, recs := t.recs, bus := t.bus, log := t.log } ∧
        t.bus = s.bus ∧ t.out = s.out ++ [.i2cClocks]) ∧
        (∃ t, exec (.i2cBusStuck false) s = .next t ∧
        t = { s with out := t.out, recs := t.recs, bus := t.bus, log := t.log } ∧
        t.bus = { s.bus with xfer := none, result := 4, lastLosses := x.losses })) ∧
  (∀ (r : I2cResult) (s : State),
      (s.bus.xfer = none → exec (.i2cBusFree r) s = .next s ∧ exec (.i2cArbRetry r) s = .next s) ∧
        exec .flashBusyTimeout s = .next { s with bus := { s.bus with flashBusy := satAdd 65535 s.bus.flashBusy 1 } }) ∧
  (∀ (k : Nat) (up : Bool) (s : State), k < 8 → rb s (0x000C0300 + 4 * k) 6 = false →
      (gpioInput s k = false ∨ gpioMatch s k up = false → ∃ t, exec (.gpioEdge k up) s = .next t ∧ t = { s with bus := { s.bus with gpioIn := t.bus.gpioIn } } ∧
          nbit t.bus.gpioIn.toNat k = up) ∧
        (gpioInput s k = true → gpioMatch s k up = true → ∃ t, exec (.gpioEdge k up) s = .next t ∧ t = { s with bus := t.bus } ∧ nbit t.bus.gpioEvt.toNat k = true ∧
          t.bus.gpioTs = s.bus.gpioTs.setIfInBounds k s.tb.ltime ∧ t.bus.gpioLost = (if nbit s.bus.gpioEvt.toNat k = true then satAdd 65535 s.bus.gpioLost 1 else s.bus.gpioLost))) ∧
  (∀ (k c : Nat) (s : State), 8 ≤ k →
      exec (.gpioEdge k true) s = .fault .noSuchUnit ∧ exec (.tamperSample k c true) s = .fault .noSuchUnit ∧ exec (.persistentOcclusion k) s = .fault .noSuchUnit ∧
        exec (.tamperFault k) s = .fault .noSuchUnit) ∧
  (∀ (st : Nat) (s : State), pmOn s = true → s.bus.pmFailed = false → nbit st 14 = false → nbit st 11 = false →
      exec (.pmAlert st true) s = .next { s with
            bus := { s.bus with pmStatus := st % 65536, pmAlert := false }
            out := if st % 65536 = 0 then s.out else s.out ++ [.pmbus 0x03 0] } ∧
        (∃ t, exec (.pmAlert st false) s = .next t ∧ t.bus = { s.bus with pmErrors := satAdd 255 s.bus.pmErrors 4, pmFailed := true, pmAlert := true } ∧ t.power.voutBad = true)) ∧
  (∀ (v i p : Nat) (s : State), pmOn s = true → s.bus.pmFailed = false → s.power.vcoreSent ≠ 0 →
      ∃ t, exec (.vcoreTelemetry (some v) (some i) (some p)) s = .next t ∧ t = { s with power := t.power } ∧ t.power.vout = v ∧ t.power.iout = i ∧ t.power.pout = p ∧
        t.power.energy = s.power.energy + BitVec.ofNat 48 ((p + auxMw s) * 10)) ∧
  (∀ (st : Nat) (ok : Bool) (s : State), pmOn s = false →
      exec (.pmAlert st ok) s = .next s ∧ exec (.vcoreTelemetry none none none) s = .next s)

/-- The four algorithms give their check values, a computation fed in parts or saved and restored gives the same value,
and a finish compares it (R607, R608, R609, R610, R611, R627, R629). Where no rule speaks it says the model's choice:
log entries 2, 7, 106. -/
def Obligations.CheckContexts : Prop :=
  (∀ (k : Nat) (a b : List Byte) (s : State), k < 4 → (vget s.cv k).alg ≤ 3 → (vget s.cv k).value.toNat < 2 ^ crcWidth (vget
      s.cv k).alg →
      cvFeed (cvFeed s k a) k b = cvFeed s k (a ++ b) ∧ (vget (cvFeed s k a).cv k).value.toNat < 2 ^ crcWidth (vget s.cv k).alg ∧
        (vget (cvFeed s k a).cv k).bytes = (vget s.cv k).bytes + BitVec.ofNat 32 a.length) ∧
  (∀ (p : Path) (k : Nat) (v : Word) (s s1 : State), k < 4 → cvPathOk s p = true → wbit v 5 = false → wbit v 6 = false → s1 =
      rput s (cvBase k) ((v ||| 0x10) &&& 0x8F) →
      ∃ t, exec (.cvStart p k v) s = .next (answer t p (cvBase k) .ok) ∧ t = { s1 with cv := t.cv } ∧
        vget t.cv k = { vget s.cv k with
            alg := rf s1 (cvBase k) 1 0
            bound := some p
            value := toWord (crcInit (rf s1 (cvBase k) 1 0))
            bytes := 0
            busy := false
            done := false
            mismatch := false } ∧ ∀ j, j < 4 → j ≠ k → vget t.cv j = vget s.cv j) ∧
  (∀ (p : Path) (k n : Nat) (v : Word) (s : State), k < 4 →
      (cvPathOk s p = false → exec (.cvStart p k v) s = .next (answer s p (cvBase k) .path) ∧ exec (.cvDataWrite p k n v) s = .next (answer s p (cvDataAddr k n) .path) ∧
          exec (.cvStateWrite p k v) s = .next (answer s p (cvBase k + 0x08) .path) ∧ exec (.cvDmaGo p k v) s = .next (answer s p (cvBase k) .path) ∧
          exec (.cvFinish p k v) s = .next (answer s p (cvBase k) .path)) ∧
        (cvPathOk s p = true → (vget s.cv k).bound ≠ some p → ∃ t, exec (.cvDataWrite p k n v) s = .next (answer t p (cvDataAddr k n) .refused) ∧
          exec (.cvStateWrite p k v) s = .next (answer t p (cvBase k + 0x08) .refused) ∧ vget t.cv k = { vget s.cv k with pathErr := true } ∧ t.mem = s.mem ∧ t.regs = s.regs) ∧
        (cvPathOk s p = true → (vget s.cv k).bound = some p → (vget s.cv k).busy = true → ∃ t, exec (.cvDataWrite p k n v) s = .next (answer t p (cvDataAddr k n) .refused) ∧ t.cv = s.cv)) ∧
  (∀ (p : Path) (k : Nat) (v : Word) (s : State), k < 4 → cvPathOk s p = true → (vget s.cv k).bound = some p → (vget s.cv
      k).busy = false →
      exec (.cvDataWrite p k 1 v) s = .next (answer (cvFeed s k (leBytes 1 v.toNat)) p (cvBase k + 0x14) .ok) ∧
        exec (.cvDataWrite p k 2 v) s = .next (answer (cvFeed s k (leBytes 2 v.toNat)) p (cvBase k + 0x18) .ok) ∧
        exec (.cvDataWrite p k 4 v) s = .next (answer (cvFeed s k (leBytes 4 v.toNat)) p (cvBase k + 0x1C) .ok) ∧
        exec (.cvStateWrite p k v) s = .next (answer { s with cv := vmod s.cv k fun x => { x with value := toWord (v.toNat % 2 ^ crcWidth x.alg) } } p (cvBase k + 0x08) .ok)) ∧
  (∀ (p : Path) (k src len : Nat) (v : Word) (s s1 : State), k < 4 → cvPathOk s p = true → (vget s.cv k).bound = some p → (vget
      s.cv k).busy = false → wbit v 4 = false → wbit v 5 = false → s1 = rput s (cvBase k) ((v ||| 0x40) &&& 0x8F) → src = rnat
      s1 (cvBase k + 0x20) → len = rf s1 (cvBase k + 0x24) 22 0 →
      ∃ t, exec (.cvDmaGo p k v) s = .next (answer t p (cvBase k) .ok) ∧ t = { s1 with cv := t.cv } ∧
        (src % 4 ≠ 0 ∨ len = 0 ∨ src < 0x00400000 ∨ 0x00800000 < src + len → vget t.cv k = { vget s.cv k with dmaErr := true }) ∧
        (src % 4 = 0 → len ≠ 0 → 0x00400000 ≤ src → src + len ≤ 0x00800000 → vget t.cv k = { vget s.cv k with busy := true, runSrc := src, runLen := len })) ∧
  (∀ (k : Nat) (s : State), k < 4 → (vget s.cv k).busy = true → rb s (cvBase k) 7 = false →
      exec (.cvDmaDone k false) s = .next (cvFeed (modCv s k fun x => { x with busy := false }) k (svcBytes s (vget s.cv k).runSrc (vget s.cv k).runLen)) ∧
        (∃ t, exec (.cvDmaDone k true) s = .next t ∧
        t = { s with freeIdx := t.freeIdx, regs := t.regs, out := t.out, recs := t.recs, cv := t.cv, log := t.log } ∧
        (vget t.cv k).busy = false ∧ (vget t.cv k).dmaErr = true ∧ (vget t.cv k).done = (vget s.cv k).done)) ∧
  (∀ (k : Nat) (ecc : Bool) (s : State), k < 4 → (vget s.cv k).busy = false →
      exec (.cvDmaDone k ecc) s = .next s) ∧
  (∀ (p : Path) (k : Nat) (v : Word) (s s1 : State), k < 4 → cvPathOk s p = true → wbit v 4 = false → wbit v 6 = false → s1 =
      rput s (cvBase k) ((v ||| 0x20) &&& 0x8F) →
      ∃ t, exec (.cvFinish p k v) s = .next (answer t p (cvBase k) .ok) ∧ (vget t.cv k).done = true ∧ (vget t.cv k).value = (vget s.cv k).value ∧ t.mem = s.mem ∧
        (rb s1 (cvBase k) 2 = false ∨ cvResult (vget s.cv k) = rnat s1 (cvBase k + 0x10) % 2 ^ crcWidth (vget s.cv k).alg →
          t = modCv s1 k fun x => { x with done := true }) ∧
        (rb s1 (cvBase k) 2 = true → cvResult (vget s.cv k) ≠ rnat s1 (cvBase k + 0x10) % 2 ^ crcWidth (vget s.cv k).alg →
          (vget t.cv k).mismatch = true ∧ (vget t.cv k).mismatches = satAdd 65535 (vget s.cv k).mismatches 1 ∧
          (rb s1 (cvBase k) 3 = false → t.regs = s1.regs ∧ t.out = s.out) ∧
          (rb s1 (cvBase k) 3 = true → t.out = s.out ++ [.interrupt (rnat s1 0x000D0400 ||| 2 ^ k)]))) ∧
  (∀ (p : Path) (k : Nat) (v : Word) (s : State), 4 ≤ k →
      exec (.cvStart p k v) s = .fault .noSuchUnit ∧ exec (.cvDataWrite p k 1 v) s = .fault .noSuchUnit ∧ exec (.cvStateWrite p k v) s = .fault .noSuchUnit ∧
        exec (.cvDmaGo p k v) s = .fault .noSuchUnit ∧ exec (.cvDmaDone k false) s = .fault .noSuchUnit ∧ exec (.cvFinish p k v) s = .fault .noSuchUnit) ∧
  (∀ (s : State),
      ∃ t, exec .checkEngineWatchdog s = .next t ∧
        t = { s with
          freeIdx := t.freeIdx, regs := t.regs, shadow := t.shadow, cv := t.cv, log := t.log, outboxes := t.outboxes } ∧
        t.mem = s.mem ∧ ∀ k, k < 4 → vget t.cv k = { dmaErr := (vget s.cv k).busy })

/-- The intake queues, coalesces or counts every event it is given and loses none in silence; the writer gives each record
the next INDEX (R616, R617, R618, R619, R620, R621). Where no rule speaks it says the model's choice: log entries 107,
108. -/
def Obligations.TroubleLogIntakeAndWriter : Prop :=
  (∀ (q : List Event) (g : Option Gap) (e : Event),
      repSum (coalesce q g e).1 + ((coalesce q g e).2.1.map (·.count)).getD 0 = repSum q + (g.map (·.count)).getD 0 + e.rep ∧
        ((coalesce q g e).2.1.map (·.count)).getD 0 = (g.map (·.count)).getD 0 + (coalesce q g e).2.2 ∧ (coalesce q g e).1.length = q.length) ∧
  (∀ (l : LogSt),
      (l.total - l.oldest).toNat = min (l.total - l.base).toNat 4096 ∧ l.held l.total = false ∧
        (l.total ≠ l.base → l.held (l.total - 1) = true) ∧ (l.ring.length ≤ 4096 → ∀ e, (writeRecord l e).ring.length ≤ 4096)) ∧
  (∀ (e : Event) (s : State), fitted s e.die = true →
      (s.log.frozen = true → exec (.logEvent e) s = .next { s with log := { s.log with frozenDrop := satAdd 0xFFFFFFFF s.log.frozenDrop e.rep } }) ∧
        (s.log.frozen = false → e.code ≠ Code.logLost → e.sev < rf s 0x000E0000 2 1 →
          exec (.logEvent e) s = .next { s with log := { s.log with filtered := satAdd 0xFFFFFFFF s.log.filtered e.rep } }) ∧
        (s.log.frozen = false → (e.code = Code.logLost ∨ rf s 0x000E0000 2 1 ≤ e.sev) → e.sev = 3 → s.log.fatal.length < 4 →
          exec (.logEvent e) s = .next { s with log := { s.log with fatal := s.log.fatal ++ [stamp s e] } }) ∧
        (s.log.frozen = false → (e.code = Code.logLost ∨ rf s 0x000E0000 2 1 ≤ e.sev) → e.sev ≠ 3 → s.log.intake.length < 16 →
          exec (.logEvent e) s = .next { s with log := { s.log with intake := s.log.intake ++ [stamp s e] } }) ∧
        (s.log.frozen = false → (e.code = Code.logLost ∨ rf s 0x000E0000 2 1 ≤ e.sev) → e.sev ≠ 3 → 16 ≤ s.log.intake.length →
          exec (.logEvent e) s = .next { s with log := { s.log with
            intake := (coalesce s.log.intake s.log.gap (stamp s e)).1
            gap := (coalesce s.log.intake s.log.gap (stamp s e)).2.1
            dropped := satAdd 0xFFFFFFFF s.log.dropped (coalesce s.log.intake s.log.gap (stamp s e)).2.2 } })) ∧
  (∀ (s : State), s.log.special = [] → s.log.frozen = true ∨ s.log.fatal = [] ∧ s.log.intake = [] →
      exec .logWrite s = .next s) ∧
  (∀ (e : Event) (es : List Event) (s : State), s.log.special = [] → s.log.frozen = false → s.log.fatal = [] → s.log.intake = e
      :: es → e.sev ≠ 3 → e.code ≠ Code.logFrozen → s.log.post = none →
      (s.log.gap = none → exec .logWrite s = .next { s with log := { s.log with
            intake := es
            ring := ({ index := s.log.total, ev := e } :: s.log.ring).take 4096
            total := s.log.total + 1 } }) ∧
        (∀ g, s.log.gap = some g → ∃ t, exec .logWrite s = .next t ∧ t.log.gap = none ∧ t.log.total = s.log.total + 1 ∧
          t.log.intake = es ++ [lostOf g (!timeValid s)] ∧ (lostOf g (!timeValid s)).ltime = g.first ∧ t = { s with log := t.log })) ∧
  (∀ (e : Event) (es : List Event) (s : State), s.log.special = [] → s.log.frozen = false → s.log.fatal = e :: es → e.sev = 3 →
      e.code ≠ Code.logFrozen → s.log.post = none → rb s 0x000E0000 0 = true → rf s 0x000E0000 15 8 ≠ 0 →
      exec .logWrite s = .next { s with log := { s.log with
            fatal := es
            ring := ({ index := s.log.total, ev := { e with freeze := true } } :: s.log.ring).take 4096
            total := s.log.total + 1
            freezeIdx := s.log.total
            post := some (rf s 0x000E0000 15 8) } }) ∧
  (∀ (r : LinkRx) (x : Parcel) (s s1 : State), portOk s r.port = true → linkReceive s r = (some x, s1) → x.vc = 0 → x.kind =
      0xA →
      exec (.event r) s = .next (takeForwarded s1 (eventOf x.payload)) ∧
        ((eventOf x.payload).health = false → takeForwarded s1 (eventOf x.payload) = logArrive s1 { eventOf x.payload with fwd := true }))

/-- CLEAR moves the base to TOTAL and writes LOG_CLEARED first, UNFREEZE ends a freeze, a path reads through its own index
and snapshot (R620, R621, R622, R625, R627, R629). Where no rule speaks it says the model's choice: log entries 2,
107. -/
def Obligations.TroubleLogCommandsAndReads : Prop :=
  (∀ (p : Path) (v : Word) (s : State),
      (logPathOk s p = false → exec (.logCmdClear p v) s = .next (answer s p 0x000E0020 .path) ∧ exec (.logCmdUnfreeze p v) s = .next (answer s p 0x000E0020 .path)) ∧
        (logPathOk s p = true → wbits v 31 16 ≠ 0x10C6 → exec (.logCmdClear p v) s = .next (answer s p 0x000E0020 .ok) ∧ exec (.logCmdUnfreeze p v) s = .next (answer s p 0x000E0020 .ok)) ∧
        (logPathOk s p = true → s.log.frozen = false → exec (.logCmdUnfreeze p v) s = .next (answer s p 0x000E0020 .ok))) ∧
  (∀ (p : Path) (v : Word) (s : State), logPathOk s p = true → wbits v 31 16 = 0x10C6 →
      ∃ t e, exec (.logCmdClear p v) s = .next (answer t p 0x000E0020 .ok) ∧ t = { s with log := { s.log with base := s.log.total, special := e :: s.log.special } } ∧
        e.code = Code.logCleared ∧ e.args = args4 [s.log.oldest.toNat, s.log.total.toNat] ∧ t.log.oldest = t.log.total) ∧
  (∀ (p : Path) (v : Word) (s : State), logPathOk s p = true → wbits v 31 16 = 0x10C6 → s.log.frozen = true →
      ∃ t e, exec (.logCmdUnfreeze p v) s = .next (answer t p 0x000E0020 .ok) ∧ t = { s with log := { s.log with frozen := false, special := e :: s.log.special } } ∧
        e.code = Code.logUnfrozen ∧ e.args = args4 [s.log.frozenDrop]) ∧
  (∀ (p : Path) (i : Word) (r : LogRecord) (ecc : Bool) (s : State), (vget s.logRd p.idx).idx = i →
      (s.log.find i = some r → exec (.logRdDataRead p 0 false) s = .next (answer { s with logRd := s.logRd.setIfInBounds p.idx { vget s.logRd p.idx with snap := some r } } p 0x000E0040 .ok
          (toWord (leAt r.toBytes 0 4)))) ∧
        (s.log.find i = none → exec (.logRdDataRead p 0 ecc) s = .next (answer { s with logRd := s.logRd.setIfInBounds p.idx { vget s.logRd p.idx with snap := none } } p 0x000E0040 .ok 0)) ∧
        (∃ v, exec (.logRdDataRead p 7 ecc) s = .next (answer { s with logRd := s.logRd.setIfInBounds p.idx { vget s.logRd p.idx with idx := i + 1 } } p 0x000E005C .ok v))) ∧
  (∀ (p : Path) (w : Nat) (ecc : Bool) (s : State), 8 ≤ w →
      exec (.logRdDataRead p w ecc) s = .fault .noSuchUnit) ∧
  (∀ (s : State), s.log.frozen = false →
      ∃ t e, exec .logWriterWatchdog s = .next t ∧ t = { s with log := { s.log with special := [e], fatal := [], intake := [], gap := none } } ∧ e.code = Code.logLost ∧ e.sev = 1)

/-- T_L and P_L move by their runs and raise or lower the level; thermal stop, WINTER, SPRING, power faults and halts act
as Tables 21.7 and 21.14 say (R637, R640, R641, R642, R644, R645, R646, R651, R653, R656). Where no rule speaks it
says the model's choice: log entries 110, 111. -/
def Obligations.HeatPowerAndSeasons : Prop :=
  (∀ (l : Nat) (rise fall : List Nat), l ≤ 3 →
      tLevelFrom l rise fall ≤ 3 ∧ (4 ≤ lget 0 rise 2 → l < 3 → tLevelFrom l rise fall = 3) ∧
        ((∀ k, k < 3 → lget 0 rise k < 4) → tLevelFrom l rise fall = l - ((List.range l).filter fun k => decide (4 ≤ lget 0 fall k)).length) ∧
        ((∀ k, k < 3 → lget 0 rise k < 4) → (∀ k, k < 3 → lget 0 fall k < 4) → tLevelFrom l rise fall = l)) ∧
  (∀ (temps : List Int) (s s1 : State), s.boot.phase ≠ 0 → s1 = tempDefects (tjMax (tjSample s temps)) →
      (lget 0 (runsOf s1.power.riseRun (tjEnter.map fun x => decide (x ≤ s1.power.tmax))) 3 < 3 → ∃ t, exec (.thermalSample temps) s = .next t ∧ t.power.tLevel =
          tLevelFrom s1.power.tLevel (runsOf s1.power.riseRun (tjEnter.map fun x => decide (x ≤ s1.power.tmax))) (runsOf s1.power.fallRun (tjLeave.map fun x => decide (s1.power.tmax < x))) ∧
          t.power.tmax = s1.power.tmax ∧ t.power.season = s.power.season ∧ t.mem = s.mem ∧ t.seqr = s.seqr) ∧
        (3 ≤ lget 0 (runsOf s1.power.riseRun (tjEnter.map fun x => decide (x ≤ s1.power.tmax))) 3 → 11 ≤ s.boot.phase → s.boot.phase ≤ 17 → s.power.season ≠ .thermalStop → s.power.halted = false →
          ∃ t, exec (.thermalSample temps) s = .next t ∧ t.power.season = .thermalStop ∧ t.seqr.armed = false)) ∧
  (∀ (temps : List Int) (s : State), s.boot.phase = 0 →
      exec (.thermalSample temps) s = .next s) ∧
  (∀ (s : State),
      (s.power.season ≠ .thermalStop → exec .thermalStopExit s = .next s) ∧
        (s.power.season = .thermalStop → ∃ t, exec .thermalStopExit s = .next t ∧ t.boot.resetCause = 64 ∧ t.boot.phase = 1 ∧ t.power.season = .spring ∧ t.power.tjPeak = s.power.tjPeak ∧ t.mem = [] ∧
          t.flash = s.flash)) ∧
  (∀ (s : State),
      (rnat s 0x00030030 = 0 → ∃ t, exec .powerLevelEval s = .next t ∧
        t = { s with freeIdx := t.freeIdx, out := t.out, recs := t.recs, log := t.log, power := t.power } ∧
        t.power.pLevel = 0 ∧ t.power.season = s.power.season) ∧
        (rnat s 0x00030030 ≠ 0 → rnat s 0x00030030 < s.power.pwr1s → s.power.overRun = 2 → s.power.pLevel < 3 → ∃ t, exec .powerLevelEval s = .next t ∧
        t = { s with freeIdx := t.freeIdx, out := t.out, recs := t.recs, log := t.log, power := t.power } ∧
        t.power.pLevel = s.power.pLevel + 1 ∧ t.power.overRun = 0) ∧
        (rnat s 0x00030030 ≠ 0 → rnat s 0x00030030 < s.power.pwr1s → s.power.overRun < 2 → exec .powerLevelEval s = .next { s with power := { s.power with overRun := s.power.overRun + 1, underRun := 0 } }) ∧
        (rnat s 0x00030030 ≠ 0 → 100 * s.power.pwr1s < 85 * rnat s 0x00030030 → s.power.underRun = 9 → ∃ t, exec .powerLevelEval s = .next t ∧
        t = { s with freeIdx := t.freeIdx, out := t.out, recs := t.recs, log := t.log, power := t.power } ∧
        t.power.pLevel = s.power.pLevel - 1 ∧ t.power.underRun = 0)) ∧
  (∀ (p : Path) (v : Word) (s : State),
      (powerPathOk s p = false → exec (.seasonCmdWinter p v) s = .next (answer s p 0x00030008 .path) ∧ exec (.seasonCmdLeave p v) s = .next (answer s p 0x00030008 .path)) ∧
        (powerPathOk s p = true → wbits v 31 16 ≠ 0x5EA5 → exec (.seasonCmdWinter p v) s = .next (answer s p 0x00030008 .ok)) ∧
        (powerPathOk s p = true → wbits v 31 16 = 0x5EA5 → wbits v 1 0 = 1 → s.power.season = .dormant ∨ s.power.season = .spring → exec (.seasonCmdWinter p v) s = .next (answer s p 0x00030008 .state)) ∧
        (powerPathOk s p = true → wbits v 31 16 = 0x5EA5 → wbits v 1 0 = 1 → summerOrAutumn s.power.season = true →
          exec (.seasonCmdWinter p v) s = .next (answer { s with power := { s.power with winterReq := true } } p 0x00030008 .ok)) ∧
        (powerPathOk s p = true → wbits v 31 16 = 0x5EA5 → wbits v 1 0 = 2 → s.power.season ≠ .winter → exec (.seasonCmdLeave p v) s = .next (answer s p 0x00030008 .ok)) ∧
        (powerPathOk s p = true → wbits v 31 16 = 0x5EA5 → wbits v 1 0 = 2 → s.power.season = .winter → ∃ t, exec (.seasonCmdLeave p v) s = .next (answer t p 0x00030008 .ok) ∧ t.power.season = .spring ∧
          t.power.windowLeft = s.power.windowOpen ∧ t.power.wakeHold = none ∧ t.mem = s.mem ∧ t.regs = s.regs)) ∧
  (∀ (s : State),
      (¬(s.power.season = .spring ∧ s.boot.phase = 17) → exec .springBringup s = .next s) ∧
        (s.power.season = .spring → s.boot.phase = 17 → ∃ t, exec .springBringup s = .next t ∧
        t = { s with
          regs := t.regs, shadow := t.shadow, seqr := t.seqr, dies := t.dies, boot := t.boot, ports := t.ports,
          eye := t.eye, isp := t.isp, comp := t.comp, det := t.det } ∧
        t.boot.phase = 12 ∧ t.boot.stepsDone = [13] ∧ t.seqr.armed = false ∧ t.mem = s.mem ∧ t.power = s.power) ∧
        exec .wakeHoldExpire s = .next { s with power := { s.power with wakeHold := none } } ∧
        (s.power.season = .winter → s.power.windowOpen = true → ∃ t, exec .winterWindowClose s = .next t ∧
        t = { s with
          freeIdx := t.freeIdx, out := t.out, dies := t.dies, recs := t.recs, lst := t.lst, hk := t.hk, fo := t.fo,
          tamper := t.tamper, log := t.log, power := t.power } ∧
        t.power.season = .spring ∧ t.power.windowOpen = false) ∧
        (s.power.season ≠ .winter ∨ s.power.windowOpen = false → ∃ t, exec .winterWindowClose s = .next t ∧ t = { s with power := t.power } ∧ t.power.season = s.power.season ∧
          t.power.windowOpen = false ∧ t.power.wakeHold = none)) ∧
  (∀ (b : Bool) (s : State),
      (s.power.voutBad = true → exec .vcoreFault s = .next s) ∧
        (s.power.voutBad = false → ∃ t, exec .vcoreFault s = .next t ∧ t = { s with power := { s.power with voutBad := true }, recs := t.recs, log := t.log }) ∧
        (∃ t, exec (.railFault b) s = .next t ∧ t = { s with power := { s.power with railFault := true }, recs := t.recs, log := t.log }) ∧
        (∃ t, exec .vsysBrownout s = .next t ∧ t.mem = [] ∧ t.log.ring = [] ∧ t.log.total = 0 ∧ t.boot.phase = 1 ∧ t.flash = s.flash ∧ t.pending = s.pending) ∧
        (s.power.halted = true → exec .clockLossHalt s = .next s) ∧
        (s.power.halted = false → ∃ t, exec .clockLossHalt s = .next t ∧ t.boot.phase = 31 ∧ t.power.halted = true ∧ t.boot.alert = true ∧ t.flash = s.flash)) ∧
  (∀ (d : Nat) (s : State), d < 76 → fitted s (domainDie d) = true →
      ∃ t, exec (.domainPowerFault d) s = .next t ∧ t.power.pdFault = s.power.pdFault ||| BitVec.ofNat 76 (2 ^ d) ∧ (63 ≤ d → t.dies = s.dies ∧ t.mem = s.mem) ∧
        (d < 63 → (t.die (domainDie d)).state = 6)) ∧
  (∀ (d : Nat) (s : State), 76 ≤ d →
      exec (.domainPowerFault d) s = .fault .noSuchUnit)

end
end

