-- ==== Sys2Proof/Laws/Sparse.lean ====
section
/-! SUPPORT. Sparse maps and memory: reads after writes, and that every operation keeps the canonical form. -/
namespace Sys2Proof.Laws
open Sys2Proof Sys2Proof.Machine

variable {α : Type}

theorem mget_mput (d : α) (m : List (Nat × α)) (i j : Nat) (x : α) :
    mget d (mput m i x) j = if i = j then x else mget d m j := by
  induction m with
  | nil => simp [mput, mget]
  | cons e m ih =>
    obtain ⟨k, v⟩ := e
    simp only [mput]
    split
    · simp only [mget]
    · split
      · subst k
        simp only [mget]
        split <;> rfl
      · simp only [mget, ih]
        split
        · next h1 h2 h3 => rw [if_neg (by omega)]
        · rfl

theorem mget_merase_ne (d : α) (m : List (Nat × α)) (i j : Nat) (h : i ≠ j) : mget d (merase m i) j = mget d m j := by
  induction m with
  | nil => rfl
  | cons e m ih =>
    obtain ⟨k, v⟩ := e
    simp only [merase]
    split
    · subst k; simp [mget, h]
    · simp only [mget, ih]

/-- A value written at another key leaves a read alone. -/
theorem mget_mset_ne [DecidableEq α] (d : α) (m : List (Nat × α)) (i j : Nat) (x : α) (h : i ≠ j) :
    mget d (mset d m i x) j = mget d m j := by
  unfold mset
  split
  · exact mget_merase_ne d m i j h
  · rw [mget_mput, if_neg h]

theorem mwfFrom_mono [DecidableEq α] (d : α) (m : List (Nat × α)) (a b : Nat) (h : a ≤ b) (hm : mwfFrom d b m = true) :
    mwfFrom d a m = true := by
  cases m with
  | nil => rfl
  | cons e m =>
    obtain ⟨k, v⟩ := e
    simp only [mwfFrom, Bool.and_eq_true, decide_eq_true_eq] at hm ⊢
    exact ⟨⟨by omega, hm.1.2⟩, hm.2⟩

theorem mwfFrom_mput [DecidableEq α] (d : α) (m : List (Nat × α)) (b i : Nat) (x : α) (hx : x ≠ d) (hb : b ≤ i)
    (hm : mwfFrom d b m = true) : mwfFrom d b (mput m i x) = true := by
  induction m generalizing b with
  | nil => simp [mput, mwfFrom, hx, hb]
  | cons e m ih =>
    obtain ⟨k, v⟩ := e
    simp only [mwfFrom, Bool.and_eq_true, decide_eq_true_eq] at hm
    simp only [mput]
    split
    · simp only [mwfFrom, Bool.and_eq_true, decide_eq_true_eq]
      exact ⟨⟨hb, hx⟩, ⟨by omega, hm.1.2⟩, hm.2⟩
    · split
      · simp only [mwfFrom, Bool.and_eq_true, decide_eq_true_eq]
        exact ⟨⟨hb, hx⟩, by subst k; exact hm.2⟩
      · simp only [mwfFrom, Bool.and_eq_true, decide_eq_true_eq]
        exact ⟨⟨hm.1.1, hm.1.2⟩, ih (k + 1) (by omega) hm.2⟩

theorem mwfFrom_merase [DecidableEq α] (d : α) (m : List (Nat × α)) (b i : Nat) (hm : mwfFrom d b m = true) :
    mwfFrom d b (merase m i) = true := by
  induction m generalizing b with
  | nil => rfl
  | cons e m ih =>
    obtain ⟨k, v⟩ := e
    simp only [mwfFrom, Bool.and_eq_true, decide_eq_true_eq] at hm
    simp only [merase]
    split
    · exact mwfFrom_mono d m b (k + 1) (by omega) hm.2
    · simp only [mwfFrom, Bool.and_eq_true, decide_eq_true_eq]
      exact ⟨hm.1, ih (k + 1) hm.2⟩

theorem mwf_mset [DecidableEq α] (d : α) (m : List (Nat × α)) (i : Nat) (x : α) (hm : mwf d m = true) :
    mwf d (mset d m i x) = true := by
  unfold mset mwf at *
  split
  · exact mwfFrom_merase d m 0 i hm
  · next h => exact mwfFrom_mput d m 0 i x h (Nat.zero_le _) hm

theorem mget_mwfFrom [DecidableEq α] (d : α) (m : List (Nat × α)) (b i : Nat) (hm : mwfFrom d b m = true) (hi : i < b) :
    mget d m i = d := by
  induction m generalizing b with
  | nil => rfl
  | cons e m ih =>
    obtain ⟨k, v⟩ := e
    simp only [mwfFrom, Bool.and_eq_true, decide_eq_true_eq] at hm
    simp only [mget]
    rw [if_neg (by omega)]
    exact ih (k + 1) hm.2 (by omega)

theorem mget_merase_same [DecidableEq α] (d : α) (m : List (Nat × α)) (b i : Nat) (hm : mwfFrom d b m = true) :
    mget d (merase m i) i = d := by
  induction m generalizing b with
  | nil => rfl
  | cons e m ih =>
    obtain ⟨k, v⟩ := e
    simp only [mwfFrom, Bool.and_eq_true, decide_eq_true_eq] at hm
    simp only [merase]
    split
    · exact mget_mwfFrom d m (k + 1) i hm.2 (by omega)
    · next h =>
      simp only [mget, if_neg h]
      exact ih (k + 1) hm.2

/-- A read after a write to the same key of a map in canonical form gives the value written. -/
theorem mget_mset_same [DecidableEq α] (d : α) (m : List (Nat × α)) (i : Nat) (x : α) (hm : mwf d m = true) :
    mget d (mset d m i x) i = x := by
  unfold mset
  split
  · next h => rw [h]; exact mget_merase_same d m 0 i hm
  · rw [mget_mput, if_pos rfl]

/-- Every entry of a map with a key set is an entry of the map, or the entry set. -/
theorem mem_mput (m : List (Nat × α)) (i : Nat) (x : α) (e : Nat × α) (h : e ∈ mput m i x) : e ∈ m ∨ e = (i, x) := by
  induction m with
  | nil => simp only [mput, List.mem_singleton] at h; exact Or.inr h
  | cons a m ih =>
    obtain ⟨k, v⟩ := a
    simp only [mput] at h
    split at h
    · rcases List.mem_cons.1 h with h | h
      · exact Or.inr h
      · exact Or.inl h
    · split at h
      · rcases List.mem_cons.1 h with h | h
        · exact Or.inr h
        · exact Or.inl (List.mem_cons_of_mem _ h)
      · rcases List.mem_cons.1 h with h | h
        · exact Or.inl (h ▸ List.mem_cons_self ..)
        · rcases ih h with h | h
          · exact Or.inl (List.mem_cons_of_mem _ h)
          · exact Or.inr h

theorem mem_merase (m : List (Nat × α)) (i : Nat) (e : Nat × α) (h : e ∈ merase m i) : e ∈ m := by
  induction m with
  | nil => exact h
  | cons a m ih =>
    obtain ⟨k, v⟩ := a
    simp only [merase] at h
    split at h
    · exact List.mem_cons_of_mem _ h
    · rcases List.mem_cons.1 h with h | h
      · exact h ▸ List.mem_cons_self ..
      · exact List.mem_cons_of_mem _ (ih h)

theorem mem_mset [DecidableEq α] (d : α) (m : List (Nat × α)) (i : Nat) (x : α) (e : Nat × α) (h : e ∈ mset d m i x) :
    e ∈ m ∨ e = (i, x) := by
  unfold mset at h
  split at h
  · exact Or.inl (mem_merase m i e h)
  · exact mem_mput m i x e h

/-! ### Memory -/

/-- Storing bytes keeps the canonical form. -/
theorem storeBytes_wf (bs : List Byte) (m : List Host.Cell) (a : Nat) (h : Memory.wf m) : Memory.wf (storeBytes m a bs) := by
  induction bs generalizing m a with
  | nil => exact h
  | cons b bs ih => exact ih (mset 0 m a b) (a + 1) (mwf_mset 0 m a b h)

theorem mwfFrom_filter (p : Nat × Byte → Bool) (b : Nat) (m : List Host.Cell) (h : mwfFrom (0 : Byte) b m = true) :
    mwfFrom (0 : Byte) b (m.filter p) = true := by
  induction m generalizing b with
  | nil => rfl
  | cons e m ih =>
    obtain ⟨k, v⟩ := e
    simp only [mwfFrom, Bool.and_eq_true, decide_eq_true_eq] at h
    rw [List.filter_cons]
    split
    · simp only [mwfFrom, Bool.and_eq_true, decide_eq_true_eq]
      exact ⟨h.1, ih (k + 1) h.2⟩
    · exact mwfFrom_mono _ _ b (k + 1) (by omega) (ih (k + 1) h.2)

/-- Clearing a range keeps the canonical form. -/
theorem clearBytes_wf (m : List Host.Cell) (lo hi : Nat) (h : Memory.wf m) : Memory.wf (clearBytes m lo hi) :=
  mwfFrom_filter _ 0 m h

/-- A byte outside the stored range reads as before. -/
theorem byteAt_storeBytes_outside (bs : List Byte) (m : List Host.Cell) (a i : Nat) (h : i < a ∨ a + bs.length ≤ i) :
    byteAt (storeBytes m a bs) i = byteAt m i := by
  induction bs generalizing m a with
  | nil => rfl
  | cons b bs ih =>
    simp only [List.length_cons] at h
    rw [storeBytes, ih (mset 0 m a b) (a + 1) (by omega)]
    exact mget_mset_ne 0 m a i b (by omega)

/-- A byte of the stored range reads as stored. -/
theorem byteAt_storeBytes_inside (bs : List Byte) (m : List Host.Cell) (a i : Nat) (hm : Memory.wf m) (h : i < bs.length) :
    byteAt (storeBytes m a bs) (a + i) = bs.getD i 0 := by
  induction bs generalizing m a i with
  | nil => simp at h
  | cons b bs ih =>
    rw [storeBytes]
    cases i with
    | zero =>
      rw [byteAt_storeBytes_outside bs _ (a + 1) (a + 0) (by omega)]
      exact mget_mset_same 0 m a b hm
    | succ i =>
      have hw : Memory.wf (mset 0 m a b) := mwf_mset 0 m a b hm
      have := ih (mset 0 m a b) (a + 1) i hw (by simpa using h)
      rw [show a + (i + 1) = a + 1 + i by omega, this]
      rfl

/-! ### Vectors -/

theorem vget_vmod [Inhabited α] {n : Nat} (v : Vector α n) (i j : Nat) (f : α → α) :
    vget (vmod v i f) j = if i = j ∧ i < n then f (vget v i) else vget v j := by
  unfold vget vmod
  rw [Vector.getElem?_setIfInBounds]
  by_cases h : i = j
  · subst h
    by_cases hn : i < n
    · simp [hn, vget]
    · simp [hn]
  · simp [h]

/-- A change of one die's ledger that keeps its lines clean keeps every ledger clean. -/
theorem cleanLedgers_vmod {l : Vector (List (Nat × LedgerLine)) 4} {cd : Nat} {f : List (Nat × LedgerLine) → List (Nat × LedgerLine)}
    (h : CleanLedgers l) (hf : (∀ e ∈ vget l cd, ¬(e.2.dx = true ∧ e.2.dp = true)) → ∀ e ∈ f (vget l cd), ¬(e.2.dx = true ∧ e.2.dp = true)) :
    CleanLedgers (vmod l cd f) := by
  intro d e he
  rw [vget_vmod] at he
  split at he
  · exact hf (h cd) e he
  · exact h d e he

end Sys2Proof.Laws
end

