-- ==== Sys2Proof/Laws/Closure.lean ====
section
/-! SUPPORT. Closure of a predicate under the changes a meaning can make, by the fields of State changed: one lemma per
function (Laws/Keeps*.lean) then says once everything that function can do. -/
namespace Sys2Proof.Laws
open Sys2Proof.Machine

/-- What a reset leaves of the state before it: the queue, the part and the clock; memory and ledgers empty; OTP no bit lost. -/
structure Reset (s t : State) : Prop where
  pending : t.pending = s.pending
  part : t.part = s.part
  now : t.now = s.now
  mem : t.mem = []
  ledgers : t.ledgers = Vector.replicate 4 []
  otp : OtpGrows s.otp t.otp
  log : LogSized s.log → LogSized t.log
  outboxes : t.outboxes = Vector.replicate 6 {}

/-- Predicate P survives a change of every field whose bit is set in K (bit i is field i of State, in order); bit 60 is the
change that a reset makes.  A memory, ledger, OTP or log field changes only as its side condition allows. -/
structure Closed (K : Nat) (P : State → Prop) : Prop where
  set_freeIdx : K.testBit 3 = true → ∀ s x, P s → P { s with freeIdx := x }
  set_regs : K.testBit 4 = true → ∀ s x, P s → P { s with regs := x }
  set_shadow : K.testBit 5 = true → ∀ s x, P s → P { s with shadow := x }
  set_loRead : K.testBit 6 = true → ∀ s x, P s → P { s with loRead := x }
  set_loStaged : K.testBit 7 = true → ∀ s x, P s → P { s with loStaged := x }
  set_logRd : K.testBit 8 = true → ∀ s x, P s → P { s with logRd := x }
  set_out : K.testBit 9 = true → ∀ s x, P s → P { s with out := x }
  set_tb : K.testBit 10 = true → ∀ s x, P s → P { s with tb := x }
  set_seqr : K.testBit 11 = true → ∀ s x, P s → P { s with seqr := x }
  set_dies : K.testBit 12 = true → ∀ s x, P s → P { s with dies := x }
  set_ledgers : K.testBit 13 = true → ∀ s x, (CleanLedgers s.ledgers → CleanLedgers x) → P s → P { s with ledgers := x }
  set_boot : K.testBit 14 = true → ∀ s x, P s → P { s with boot := x }
  set_flash : K.testBit 15 = true → ∀ s x, P s → P { s with flash := x }
  set_img : K.testBit 16 = true → ∀ s x, P s → P { s with img := x }
  set_otp : K.testBit 17 = true → ∀ s x, OtpGrows s.otp x → P s → P { s with otp := x }
  set_ports : K.testBit 18 = true → ∀ s x, P s → P { s with ports := x }
  set_accesses : K.testBit 19 = true → ∀ s x, P s → P { s with accesses := x }
  set_accessTag : K.testBit 20 = true → ∀ s x, P s → P { s with accessTag := x }
  set_fabs : K.testBit 21 = true → ∀ s x, P s → P { s with fabs := x }
  set_mem : K.testBit 22 = true → ∀ s x, (Memory.wf s.mem → Memory.wf x) → P s → P { s with mem := x }
  set_eye : K.testBit 23 = true → ∀ s x, P s → P { s with eye := x }
  set_isp : K.testBit 24 = true → ∀ s x, P s → P { s with isp := x }
  set_comp : K.testBit 25 = true → ∀ s x, P s → P { s with comp := x }
  set_det : K.testBit 26 = true → ∀ s x, P s → P { s with det := x }
  set_guard : K.testBit 27 = true → ∀ s x, P s → P { s with guard := x }
  set_hv : K.testBit 28 = true → ∀ s x, P s → P { s with hv := x }
  set_net : K.testBit 29 = true → ∀ s x, P s → P { s with net := x }
  set_bcp : K.testBit 30 = true → ∀ s x, P s → P { s with bcp := x }
  set_stage : K.testBit 31 = true → ∀ s x, P s → P { s with stage := x }
  set_sw : K.testBit 32 = true → ∀ s x, P s → P { s with sw := x }
  set_recs : K.testBit 33 = true → ∀ s x, P s → P { s with recs := x }
  set_peers : K.testBit 34 = true → ∀ s x, P s → P { s with peers := x }
  set_lst : K.testBit 35 = true → ∀ s x, P s → P { s with lst := x }
  set_hk : K.testBit 36 = true → ∀ s x, P s → P { s with hk := x }
  set_fo : K.testBit 37 = true → ∀ s x, P s → P { s with fo := x }
  set_tamper : K.testBit 38 = true → ∀ s x, P s → P { s with tamper := x }
  set_bus : K.testBit 39 = true → ∀ s x, P s → P { s with bus := x }
  set_cv : K.testBit 40 = true → ∀ s x, P s → P { s with cv := x }
  set_log : K.testBit 41 = true → ∀ s x, (LogSized s.log → LogSized x) → P s → P { s with log := x }
  set_outboxes : K.testBit 42 = true → ∀ s x, (OutboxesSized s.outboxes → OutboxesSized x) → P s → P { s with outboxes := x }
  set_power : K.testBit 43 = true → ∀ s x, P s → P { s with power := x }
  reset : K.testBit 60 = true → ∀ s t, Reset s t → P s → P t

/-- Closure under more changes is closure under fewer. -/
theorem Closed.sub {K K' : Nat} {P : State → Prop} (c : Closed K P) (h : K' ||| K = K) : Closed K' P := by
  have key : ∀ i, K'.testBit i = true → K.testBit i = true := fun i hi => by
    rw [← h, Nat.testBit_or, hi, Bool.true_or]
  constructor
  · exact fun b => c.set_freeIdx (key _ b)
  · exact fun b => c.set_regs (key _ b)
  · exact fun b => c.set_shadow (key _ b)
  · exact fun b => c.set_loRead (key _ b)
  · exact fun b => c.set_loStaged (key _ b)
  · exact fun b => c.set_logRd (key _ b)
  · exact fun b => c.set_out (key _ b)
  · exact fun b => c.set_tb (key _ b)
  · exact fun b => c.set_seqr (key _ b)
  · exact fun b => c.set_dies (key _ b)
  · exact fun b => c.set_ledgers (key _ b)
  · exact fun b => c.set_boot (key _ b)
  · exact fun b => c.set_flash (key _ b)
  · exact fun b => c.set_img (key _ b)
  · exact fun b => c.set_otp (key _ b)
  · exact fun b => c.set_ports (key _ b)
  · exact fun b => c.set_accesses (key _ b)
  · exact fun b => c.set_accessTag (key _ b)
  · exact fun b => c.set_fabs (key _ b)
  · exact fun b => c.set_mem (key _ b)
  · exact fun b => c.set_eye (key _ b)
  · exact fun b => c.set_isp (key _ b)
  · exact fun b => c.set_comp (key _ b)
  · exact fun b => c.set_det (key _ b)
  · exact fun b => c.set_guard (key _ b)
  · exact fun b => c.set_hv (key _ b)
  · exact fun b => c.set_net (key _ b)
  · exact fun b => c.set_bcp (key _ b)
  · exact fun b => c.set_stage (key _ b)
  · exact fun b => c.set_sw (key _ b)
  · exact fun b => c.set_recs (key _ b)
  · exact fun b => c.set_peers (key _ b)
  · exact fun b => c.set_lst (key _ b)
  · exact fun b => c.set_hk (key _ b)
  · exact fun b => c.set_fo (key _ b)
  · exact fun b => c.set_tamper (key _ b)
  · exact fun b => c.set_bus (key _ b)
  · exact fun b => c.set_cv (key _ b)
  · exact fun b => c.set_log (key _ b)
  · exact fun b => c.set_outboxes (key _ b)
  · exact fun b => c.set_power (key _ b)
  · exact fun b => c.reset (key _ b)

theorem Closed.set_accesses_accessTag {K : Nat} {P : State → Prop} (c : Closed K P) (b0 : K.testBit 19 = true) (b1 : K.testBit 20 = true) (s : State) (x0 x1) (h : P s) :
    P { s with accesses := x0, accessTag := x1 } :=
  c.set_accessTag b1 _ x1 (c.set_accesses b0 _ x0 h)

theorem Closed.set_eye_isp {K : Nat} {P : State → Prop} (c : Closed K P) (b0 : K.testBit 23 = true) (b1 : K.testBit 24 = true) (s : State) (x0 x1) (h : P s) :
    P { s with eye := x0, isp := x1 } :=
  c.set_isp b1 _ x1 (c.set_eye b0 _ x0 h)

theorem Closed.set_eye_isp_guard {K : Nat} {P : State → Prop} (c : Closed K P) (b0 : K.testBit 23 = true) (b1 : K.testBit 24 = true) (b2 : K.testBit 27 = true) (s : State) (x0 x1 x2) (h : P s) :
    P { s with eye := x0, isp := x1, guard := x2 } :=
  c.set_guard b2 _ x2 (c.set_isp b1 _ x1 (c.set_eye b0 _ x0 h))

theorem Closed.set_img_sw {K : Nat} {P : State → Prop} (c : Closed K P) (b0 : K.testBit 16 = true) (b1 : K.testBit 32 = true) (s : State) (x0 x1) (h : P s) :
    P { s with img := x0, sw := x1 } :=
  c.set_sw b1 _ x1 (c.set_img b0 _ x0 h)

theorem Closed.set_regs_shadow {K : Nat} {P : State → Prop} (c : Closed K P) (b0 : K.testBit 4 = true) (b1 : K.testBit 5 = true) (s : State) (x0 x1) (h : P s) :
    P { s with regs := x0, shadow := x1 } :=
  c.set_shadow b1 _ x1 (c.set_regs b0 _ x0 h)

theorem Closed.set_seqr_bcp_recs_peers {K : Nat} {P : State → Prop} (c : Closed K P) (b0 : K.testBit 11 = true) (b1 : K.testBit 30 = true) (b2 : K.testBit 33 = true) (b3 : K.testBit 34 = true) (s : State) (x0 x1 x2 x3) (h : P s) :
    P { s with seqr := x0, bcp := x1, recs := x2, peers := x3 } :=
  c.set_peers b3 _ x3 (c.set_recs b2 _ x2 (c.set_bcp b1 _ x1 (c.set_seqr b0 _ x0 h)))

theorem Closed.set_seqr_net_bcp_stage_sw_recs_peers {K : Nat} {P : State → Prop} (c : Closed K P) (b0 : K.testBit 11 = true) (b1 : K.testBit 29 = true) (b2 : K.testBit 30 = true) (b3 : K.testBit 31 = true) (b4 : K.testBit 32 = true) (b5 : K.testBit 33 = true) (b6 : K.testBit 34 = true) (s : State) (x0 x1 x2 x3 x4 x5 x6) (h : P s) :
    P { s with seqr := x0, net := x1, bcp := x2, stage := x3, sw := x4, recs := x5, peers := x6 } :=
  c.set_peers b6 _ x6 (c.set_recs b5 _ x5 (c.set_sw b4 _ x4 (c.set_stage b3 _ x3 (c.set_bcp b2 _ x2 (c.set_net b1 _ x1 (c.set_seqr b0 _ x0 h))))))

theorem Closed.set_log_outboxes {K : Nat} {P : State → Prop} (c : Closed K P) (b0 : K.testBit 41 = true) (b1 : K.testBit 42 = true) (s : State)
    (x0 x1) (hx : LogSized s.log → LogSized x0) (hy : OutboxesSized s.outboxes → OutboxesSized x1) (h : P s) :
    P { s with log := x0, outboxes := x1 } :=
  c.set_outboxes b1 { s with log := x0 } x1 hy (c.set_log b0 s x0 hx h)

theorem outboxesSized_none : OutboxesSized (Vector.replicate 6 {}) := by
  intro d
  unfold vget
  rw [Vector.getElem?_replicate]
  split
  · exact Nat.zero_le _
  · exact Nat.zero_le _

theorem foldl_keeps {P : State → Prop} {α : Type} {f : State → α → State} (hf : ∀ t x, P t → P (f t x)) :
    ∀ (l : List α) (s : State), P s → P (l.foldl f s)
  | [], _, h => h
  | a :: l, s, h => foldl_keeps hf l (f s a) (hf s a h)

theorem snd_of {P : State → Prop} {α : Type} {x : α × State} {a : α} {b : State} (e : x = (a, b)) (h : P x.2) : P b := by
  rw [e] at h; exact h

theorem fst_of {P : State → Prop} {α : Type} {x : State × α} {a : α} {b : State} (e : x = (b, a)) (h : P x.1) : P b := by
  rw [e] at h; exact h

/-- Of whatever next state a command answers, P holds. -/
structure OnNext (P : State → Prop) (r : Res) : Prop where
  of : ∀ t, r = .next t → P t

theorem OnNext.next {P : State → Prop} {s : State} (h : P s) : OnNext P (.next s) := ⟨fun t e => by
  injection e with e; exact e ▸ h⟩

theorem OnNext.fault {P : State → Prop} {f : Fault} : OnNext P (.fault f) := ⟨fun t e => by cases e⟩

theorem OnNext.unit {P : State → Prop} {b : Bool} {s : State} (h : P s) : OnNext P (onUnit b s) := by
  unfold onUnit
  split
  · exact OnNext.next h
  · exact OnNext.fault

/-- Of whatever an option holds, Q holds. -/
structure OnSome {α : Type} (Q : α → Prop) (x : Option α) : Prop where
  of : ∀ y, x = some y → Q y

theorem OnSome.some {α : Type} {Q : α → Prop} {y : α} (h : Q y) : OnSome Q (some y) := ⟨fun z e => by
  injection e with e; exact e ▸ h⟩

theorem OnSome.none {α : Type} {Q : α → Prop} : OnSome Q none := ⟨fun z e => by cases e⟩

theorem some_of {P : State → Prop} {x : Option State} {b : State} (e : x = .some b) (h : OnSome P x) : P b := h.of b e

theorem some2_of {P : State → Prop} {α : Type} {x : Option (α × State)} {a : α} {b : State} (e : x = .some (a, b))
    (h : OnSome (fun y => P y.2) x) : P b := h.of (a, b) e

theorem some22_of {P : State → Prop} {α β : Type} {x : Option (α × β × State)} {a : α} {d : β} {b : State} (e : x = .some (a, d, b))
    (h : OnSome (fun y => P y.2.2) x) : P b := h.of (a, d, b) e

theorem foldl_keeps_fst {P : State → Prop} {α β : Type} {f : State × β → α → State × β} (hf : ∀ t x, P t.1 → P (f t x).1) :
    ∀ (l : List α) (s : State × β), P s.1 → P (l.foldl f s).1
  | [], _, h => h
  | a :: l, s, h => foldl_keeps_fst hf l (f s a) (hf s a h)

theorem foldl_keeps_snd {P : State → Prop} {α β : Type} {f : β × State → α → β × State} (hf : ∀ t x, P t.2 → P (f t x).2) :
    ∀ (l : List α) (s : β × State), P s.2 → P (l.foldl f s).2
  | [], _, h => h
  | a :: l, s, h => foldl_keeps_snd hf l (f s a) (hf s a h)

end Sys2Proof.Laws
end

