-- ==== Sys2Proof/Laws/KeepsOps.lean ====
section
/-! SUPPORT. What each function of Machine/Ops.lean can change: a predicate closed under its changes survives it. -/
namespace Sys2Proof.Laws
open Sys2Proof Sys2Proof.Machine

theorem rput_keeps {P : State → Prop} (c : Closed 0x10 P) (x1 : State) (x2) (x3) (h1 : P x1) :
    P (rput x1 x2 x3) := by
  unfold rput
  repeat' first
    | with_reducible assumption
    | with_reducible refine c.set_regs (by decide) _ _ ?_
    | dsimp -zeta only

theorem rputf_keeps {P : State → Prop} (c : Closed 0x10 P) (x1 : State) (x2) (x3) (x4) (x5) (h1 : P x1) :
    P (rputf x1 x2 x3 x4 x5) := by
  unfold rputf
  repeat' first
    | with_reducible assumption
    | with_reducible apply rput_keeps c
    | with_reducible refine fun _ => ?_
    | lift_lets -underBinder
    | (intro x; refine (fun hx : P x => ?_) ?_; clear_value x)
    | (intro x; refine (fun hx : P x.2 => ?_) ?_; clear_value x)
    | (intro x; refine (fun hx : P x.1 => ?_) ?_; clear_value x)
    | (intro x; refine (fun hx : P x.s => ?_) ?_; clear_value x)
    | (intro x; clear_value x)
    | dsimp -zeta only
    | dsimp -zeta +zetaDelta only
    | lift_lets
    | dsimp only

theorem rclear_keeps {P : State → Prop} (c : Closed 0x30 P) (x1 : State) (x2) (x3) (h1 : P x1) :
    P (rclear x1 x2 x3) := by
  unfold rclear
  repeat' first
    | with_reducible assumption
    | with_reducible refine c.set_regs_shadow (by decide) (by decide) _ _ _ ?_
    | intro _
    | dsimp -zeta only

theorem rshadow_keeps {P : State → Prop} (c : Closed 0x20 P) (x1 : State) (x2) (x3) (h1 : P x1) :
    P (rshadow x1 x2 x3) := by
  unfold rshadow
  repeat' first
    | with_reducible assumption
    | with_reducible refine c.set_shadow (by decide) _ _ ?_
    | dsimp -zeta only

theorem rapply_keeps {P : State → Prop} (c : Closed 0x30 P) (x1 : State) (x2) (x3) (h1 : P x1) :
    P (rapply x1 x2 x3) := by
  have c0 := c.sub (K' := 0x10) (by decide)
  unfold rapply
  exact c.set_shadow (by decide) _ _ (foldl_keeps (fun t x ht => rput_keeps c0 _ _ _ ht) _ _ h1)

theorem fresh_keeps {P : State → Prop} (c : Closed 0x8 P) (x1 : State) (h1 : P x1) :
    P (fresh x1).2 := by
  unfold fresh
  repeat' first
    | with_reducible assumption
    | with_reducible refine c.set_freeIdx (by decide) _ _ ?_
    | dsimp -zeta only

theorem emit_keeps {P : State → Prop} (c : Closed 0x200 P) (x1 : State) (x2) (h1 : P x1) :
    P (emit x1 x2) := by
  unfold emit
  repeat' first
    | with_reducible assumption
    | with_reducible refine c.set_out (by decide) _ _ ?_
    | dsimp -zeta only

theorem answer_keeps {P : State → Prop} (c : Closed 0x200 P) (x1 : State) (x2) (x3) (x4) (x5) (x6) (h1 : P x1) :
    P (answer x1 x2 x3 x4 x5 x6) := by
  unfold answer
  repeat' first
    | with_reducible assumption
    | with_reducible apply emit_keeps c
    | split
    | dsimp -zeta only

theorem setHiShadow_keeps {P : State → Prop} (c : Closed 0x40 P) (x1 : State) (x2) (x3) (x4) (h1 : P x1) :
    P (setHiShadow x1 x2 x3 x4) := by
  unfold setHiShadow
  repeat' first
    | with_reducible assumption
    | with_reducible refine c.set_loRead (by decide) _ _ ?_
    | dsimp -zeta only

theorem memPut_keeps {P : State → Prop} (c : Closed 0x400000 P) (x1 : State) (x2) (x3) (h1 : P x1) : P (memPut x1 x2 x3) := by
  refine c.set_mem (by decide) _ _ ?_ h1
  exact fun h => storeBytes_wf _ _ _ h

theorem modDie_keeps {P : State → Prop} (c : Closed 0x1000 P) (x1 : State) (x2) (x3) (h1 : P x1) :
    P (modDie x1 x2 x3) := by
  unfold modDie
  repeat' first
    | with_reducible assumption
    | with_reducible refine c.set_dies (by decide) _ _ ?_
    | intro _
    | dsimp -zeta only

theorem modPort_keeps {P : State → Prop} (c : Closed 0x40000 P) (x1 : State) (x2) (x3) (h1 : P x1) :
    P (modPort x1 x2 x3) := by
  unfold modPort
  repeat' first
    | with_reducible assumption
    | with_reducible refine c.set_ports (by decide) _ _ ?_
    | intro _
    | dsimp -zeta only

theorem modFab_keeps {P : State → Prop} (c : Closed 0x200000 P) (x1 : State) (x2) (x3) (h1 : P x1) :
    P (modFab x1 x2 x3) := by
  unfold modFab
  repeat' first
    | with_reducible assumption
    | with_reducible refine c.set_fabs (by decide) _ _ ?_
    | intro _
    | dsimp -zeta only

theorem modComp_keeps {P : State → Prop} (c : Closed 0x2000000 P) (x1 : State) (x2) (x3) (h1 : P x1) :
    P (modComp x1 x2 x3) := by
  unfold modComp
  repeat' first
    | with_reducible assumption
    | with_reducible refine c.set_comp (by decide) _ _ ?_
    | intro _
    | dsimp -zeta only

theorem modCl_keeps {P : State → Prop} (c : Closed 0x2000000 P) (x1 : State) (x2) (x3) (x4) (h1 : P x1) :
    P (modCl x1 x2 x3 x4) := by
  unfold modCl
  repeat' first
    | with_reducible assumption
    | with_reducible apply modComp_keeps c
    | intro _
    | dsimp -zeta only

theorem modDet_keeps {P : State → Prop} (c : Closed 0x4000000 P) (x1 : State) (x2) (x3) (h1 : P x1) :
    P (modDet x1 x2 x3) := by
  unfold modDet
  repeat' first
    | with_reducible assumption
    | with_reducible refine c.set_det (by decide) _ _ ?_
    | intro _
    | dsimp -zeta only

theorem modLedger_keeps {P : State → Prop} (c : Closed 0x2000 P) (x1 : State) (x2) (x3)
    (hx : (∀ e ∈ x1.ledger x2, ¬(e.2.dx = true ∧ e.2.dp = true)) → ∀ e ∈ x3 (x1.ledger x2), ¬(e.2.dx = true ∧ e.2.dp = true)) (h1 : P x1) :
    P (modLedger x1 x2 x3) := by
  refine c.set_ledgers (by decide) _ _ ?_ h1
  exact fun h => cleanLedgers_vmod h hx

theorem modEye_keeps {P : State → Prop} (c : Closed 0x800000 P) (x1 : State) (x2) (h1 : P x1) :
    P (modEye x1 x2) := by
  unfold modEye
  repeat' first
    | with_reducible assumption
    | with_reducible refine c.set_eye (by decide) _ _ ?_
    | intro _
    | dsimp -zeta only

theorem modIsp_keeps {P : State → Prop} (c : Closed 0x1000000 P) (x1 : State) (x2) (h1 : P x1) :
    P (modIsp x1 x2) := by
  unfold modIsp
  repeat' first
    | with_reducible assumption
    | with_reducible refine c.set_isp (by decide) _ _ ?_
    | intro _
    | dsimp -zeta only

theorem modGuard_keeps {P : State → Prop} (c : Closed 0x8000000 P) (x1 : State) (x2) (h1 : P x1) :
    P (modGuard x1 x2) := by
  unfold modGuard
  repeat' first
    | with_reducible assumption
    | with_reducible refine c.set_guard (by decide) _ _ ?_
    | intro _
    | dsimp -zeta only

theorem modHv_keeps {P : State → Prop} (c : Closed 0x10000000 P) (x1 : State) (x2) (h1 : P x1) :
    P (modHv x1 x2) := by
  unfold modHv
  repeat' first
    | with_reducible assumption
    | with_reducible refine c.set_hv (by decide) _ _ ?_
    | intro _
    | dsimp -zeta only

theorem modNet_keeps {P : State → Prop} (c : Closed 0x20000000 P) (x1 : State) (x2) (h1 : P x1) :
    P (modNet x1 x2) := by
  unfold modNet
  repeat' first
    | with_reducible assumption
    | with_reducible refine c.set_net (by decide) _ _ ?_
    | intro _
    | dsimp -zeta only

theorem modBcp_keeps {P : State → Prop} (c : Closed 0x40000000 P) (x1 : State) (x2) (h1 : P x1) :
    P (modBcp x1 x2) := by
  unfold modBcp
  repeat' first
    | with_reducible assumption
    | with_reducible refine c.set_bcp (by decide) _ _ ?_
    | intro _
    | dsimp -zeta only

theorem modRecs_keeps {P : State → Prop} (c : Closed 0x200000000 P) (x1 : State) (x2) (h1 : P x1) :
    P (modRecs x1 x2) := by
  unfold modRecs
  repeat' first
    | with_reducible assumption
    | with_reducible refine c.set_recs (by decide) _ _ ?_
    | intro _
    | dsimp -zeta only

theorem modPeers_keeps {P : State → Prop} (c : Closed 0x400000000 P) (x1 : State) (x2) (h1 : P x1) :
    P (modPeers x1 x2) := by
  unfold modPeers
  repeat' first
    | with_reducible assumption
    | with_reducible refine c.set_peers (by decide) _ _ ?_
    | intro _
    | dsimp -zeta only

theorem modLst_keeps {P : State → Prop} (c : Closed 0x800000000 P) (x1 : State) (x2) (h1 : P x1) :
    P (modLst x1 x2) := by
  unfold modLst
  repeat' first
    | with_reducible assumption
    | with_reducible refine c.set_lst (by decide) _ _ ?_
    | intro _
    | dsimp -zeta only

theorem modHk_keeps {P : State → Prop} (c : Closed 0x1000000000 P) (x1 : State) (x2) (h1 : P x1) :
    P (modHk x1 x2) := by
  unfold modHk
  repeat' first
    | with_reducible assumption
    | with_reducible refine c.set_hk (by decide) _ _ ?_
    | intro _
    | dsimp -zeta only

theorem modFo_keeps {P : State → Prop} (c : Closed 0x2000000000 P) (x1 : State) (x2) (h1 : P x1) :
    P (modFo x1 x2) := by
  unfold modFo
  repeat' first
    | with_reducible assumption
    | with_reducible refine c.set_fo (by decide) _ _ ?_
    | intro _
    | dsimp -zeta only

theorem modTmp_keeps {P : State → Prop} (c : Closed 0x4000000000 P) (x1 : State) (x2) (h1 : P x1) :
    P (modTmp x1 x2) := by
  unfold modTmp
  repeat' first
    | with_reducible assumption
    | with_reducible refine c.set_tamper (by decide) _ _ ?_
    | intro _
    | dsimp -zeta only

theorem modBus_keeps {P : State → Prop} (c : Closed 0x8000000000 P) (x1 : State) (x2) (h1 : P x1) :
    P (modBus x1 x2) := by
  unfold modBus
  repeat' first
    | with_reducible assumption
    | with_reducible refine c.set_bus (by decide) _ _ ?_
    | intro _
    | dsimp -zeta only

theorem modCv_keeps {P : State → Prop} (c : Closed 0x10000000000 P) (x1 : State) (x2) (x3) (h1 : P x1) :
    P (modCv x1 x2 x3) := by
  unfold modCv
  repeat' first
    | with_reducible assumption
    | with_reducible refine c.set_cv (by decide) _ _ ?_
    | intro _
    | dsimp -zeta only

theorem modLog_keeps {P : State → Prop} (c : Closed 0x20000000000 P) (x1 : State) (x2) (hx : LogSized x1.log → LogSized (x2 x1.log)) (h1 : P x1) :
    P (modLog x1 x2) := c.set_log (by decide) _ _ hx h1

theorem modPower_keeps {P : State → Prop} (c : Closed 0x80000000000 P) (x1 : State) (x2) (h1 : P x1) :
    P (modPower x1 x2) := by
  unfold modPower
  repeat' first
    | with_reducible assumption
    | with_reducible refine c.set_power (by decide) _ _ ?_
    | intro _
    | dsimp -zeta only

theorem modTb_keeps {P : State → Prop} (c : Closed 0x400 P) (x1 : State) (x2) (h1 : P x1) :
    P (modTb x1 x2) := by
  unfold modTb
  repeat' first
    | with_reducible assumption
    | with_reducible refine c.set_tb (by decide) _ _ ?_
    | intro _
    | dsimp -zeta only

theorem modSeq_keeps {P : State → Prop} (c : Closed 0x800 P) (x1 : State) (x2) (h1 : P x1) :
    P (modSeq x1 x2) := by
  unfold modSeq
  repeat' first
    | with_reducible assumption
    | with_reducible refine c.set_seqr (by decide) _ _ ?_
    | intro _
    | dsimp -zeta only

theorem modBoot_keeps {P : State → Prop} (c : Closed 0x4000 P) (x1 : State) (x2) (h1 : P x1) :
    P (modBoot x1 x2) := by
  unfold modBoot
  repeat' first
    | with_reducible assumption
    | with_reducible refine c.set_boot (by decide) _ _ ?_
    | intro _
    | dsimp -zeta only

theorem modFlash_keeps {P : State → Prop} (c : Closed 0x8000 P) (x1 : State) (x2) (h1 : P x1) :
    P (modFlash x1 x2) := by
  unfold modFlash
  repeat' first
    | with_reducible assumption
    | with_reducible refine c.set_flash (by decide) _ _ ?_
    | intro _
    | dsimp -zeta only

theorem modStage_keeps {P : State → Prop} (c : Closed 0x80000000 P) (x1 : State) (x2) (h1 : P x1) :
    P (modStage x1 x2) := by
  unfold modStage
  repeat' first
    | with_reducible assumption
    | with_reducible refine c.set_stage (by decide) _ _ ?_
    | intro _
    | dsimp -zeta only

theorem modSwitch_keeps {P : State → Prop} (c : Closed 0x100000000 P) (x1 : State) (x2) (h1 : P x1) :
    P (modSwitch x1 x2) := by
  unfold modSwitch
  repeat' first
    | with_reducible assumption
    | with_reducible refine c.set_sw (by decide) _ _ ?_
    | intro _
    | dsimp -zeta only

theorem modImg_keeps {P : State → Prop} (c : Closed 0x10000 P) (x1 : State) (x2) (h1 : P x1) :
    P (modImg x1 x2) := by
  unfold modImg
  repeat' first
    | with_reducible assumption
    | with_reducible refine c.set_img (by decide) _ _ ?_
    | intro _
    | dsimp -zeta only

theorem modAccesses_keeps {P : State → Prop} (c : Closed 0x80000 P) (x1 : State) (x2) (h1 : P x1) :
    P (modAccesses x1 x2) := by
  unfold modAccesses
  repeat' first
    | with_reducible assumption
    | with_reducible refine c.set_accesses (by decide) _ _ ?_
    | intro _
    | dsimp -zeta only

theorem modOtp_keeps {P : State → Prop} (c : Closed 0x20000 P) (x1 : State) (x2) (hx : OtpGrows x1.otp (x2 x1.otp)) (h1 : P x1) :
    P (modOtp x1 x2) := c.set_otp (by decide) _ _ hx h1

theorem flashFailed_keeps {P : State → Prop} (c : Closed 0x8000000000 P) (x1 : State) (h1 : P x1) :
    P (flashFailed x1) := by
  unfold flashFailed
  repeat' first
    | with_reducible assumption
    | with_reducible apply modBus_keeps c
    | intro _
    | dsimp -zeta only

end Sys2Proof.Laws
end

