-- ==== Sys2Proof/Laws/KeepsLogOps.lean ====
section
/-! SUPPORT. What each function of Machine/LogOps.lean can change: a predicate closed under its changes survives it. -/
namespace Sys2Proof.Laws
open Sys2Proof Sys2Proof.Machine

theorem coalesce_length (q : List Event) (g : Option Gap) (e : Event) : (coalesce q g e).1.length = q.length := by
  unfold coalesce
  split
  · next x hx =>
    split
    · have : q ≠ [] := by rintro rfl; simp at hx
      have := List.length_pos_iff.2 this
      simp; omega
    · rfl
  · rfl

theorem take_log_sized {l : LogSt} {e : Event} (h : LogSized l) : LogSized (writeRecord l e) := by
  obtain ⟨h1, h2, h3⟩ := h
  refine ⟨?_, h2, h3⟩
  simp only [writeRecord, List.length_take, List.length_cons]
  omega

theorem outboxesSized_set {o : Vector Outbox 6} {i : Nat} {b : Outbox} (h : OutboxesSized o) (hb : b.entries.length ≤ 8) :
    OutboxesSized (o.setIfInBounds i b) := by
  intro d
  unfold vget
  rw [Vector.getElem?_setIfInBounds]
  split
  · split
    · simpa using hb
    · exact Nat.zero_le _
  · exact h d

theorem logArrive_keeps {P : State → Prop} (c : Closed 0x20000000000 P) (x1 : State) (x2) (h1 : P x1) :
    P (logArrive x1 x2) := by
  have hc := coalesce_length x1.log.intake x1.log.gap (stamp x1 x2)
  unfold logArrive
  dsimp only
  repeat' first
    | assumption
    | with_reducible apply modLog_keeps c
    | split
  · exact id
  · exact id
  · next h => simp only [Bool.and_eq_true, decide_eq_true_eq] at h; exact fun ⟨a, b, d⟩ => ⟨a, b, by simp; omega⟩
  · exact fun ⟨a, b, d⟩ => ⟨a, by simp; omega, d⟩
  · exact fun ⟨a, b, d⟩ => ⟨a, by dsimp only; omega, d⟩

theorem logSpecial_keeps {P : State → Prop} (c : Closed 0x20000000000 P) (x1 : State) (x2) (x3) (h1 : P x1) :
    P (logSpecial x1 x2 x3) := by
  exact modLog_keeps c x1 (fun l => { l with special := _ }) (fun h => h) h1

theorem outboxArrive_keeps {P : State → Prop} (c : Closed 0x40000000000 P) (x1 : State) (x2) (x3) (h1 : P x1) :
    P (outboxArrive x1 x2 x3) := by
  have hc := coalesce_length (vget x1.outboxes x2.idx).entries (vget x1.outboxes x2.idx).gap (stamp x1 x3)
  unfold outboxArrive
  refine c.set_outboxes (by decide) _ _ (fun h => outboxesSized_set h ?_) h1
  dsimp only
  have := fun h : OutboxesSized x1.outboxes => h x2.idx
  split
  · simp; omega
  · have := h x2.idx; dsimp only; omega

theorem outboxTake_keeps {P : State → Prop} (c : Closed 0x40000000000 P) (x1 : State) (x2) (h1 : P x1) :
    OnSome (fun y => P y.2) (outboxTake x1 x2) := by
  unfold outboxTake
  dsimp only
  split
  · exact OnSome.none
  · next e es he =>
    apply OnSome.some
    refine c.set_outboxes (by decide) _ _ (fun h => outboxesSized_set h ?_) h1
    have := h x2.idx
    rw [he] at this
    simp only [List.length_cons] at this
    split <;> simp <;> omega

theorem logTake_keeps {P : State → Prop} (c : Closed 0x20000000000 P) (x1 : State) (h1 : P x1) :
    OnSome (fun y => P y.2) (logTake x1) := by
  unfold logTake
  split
  · refine OnSome.some ?_
    dsimp only
    exact modLog_keeps c x1 _ (fun h => h) h1
  · split
    · exact OnSome.none
    · split
      · next e es he =>
        refine OnSome.some ?_
        dsimp only
        refine modLog_keeps c x1 _ (fun ⟨a, b, d⟩ => ⟨a, b, ?_⟩) h1
        rw [he] at d
        simp only [List.length_cons] at d
        dsimp only; omega
      · split
        · exact OnSome.none
        · next e es he =>
          refine OnSome.some ?_
          dsimp only
          refine modLog_keeps c x1 _ (fun ⟨a, b, d⟩ => ?_) h1
          rw [he] at b
          simp only [List.length_cons] at b
          split
          · exact ⟨a, by dsimp only; omega, d⟩
          · exact ⟨a, by simp; omega, d⟩

theorem logPut_keeps {P : State → Prop} (c : Closed 0x20000000000 P) (x1 : State) (x2) (h1 : P x1) :
    P (logPut x1 x2).1 := by
  unfold logPut
  dsimp only
  have key : ∀ e, LogSized x1.log → LogSized (writeRecord x1.log e) := fun e h => take_log_sized h
  have stop : ∀ l : LogSt, LogSized l → LogSized (logStop l) := fun l h => ⟨h.1, Nat.zero_le _, Nat.zero_le _⟩
  repeat' first
    | assumption
    | with_reducible apply modLog_keeps c
    | split
  all_goals first
    | exact fun h => stop _ (key _ h)
    | exact fun h => key _ h

theorem logClearNow_keeps {P : State → Prop} (c : Closed 0x20000000000 P) (x1 : State) (h1 : P x1) :
    P (logClearNow x1) := by
  exact logSpecial_keeps c _ _ _ (modLog_keeps c x1 _ (fun h => h) h1)

theorem logUnfreezeNow_keeps {P : State → Prop} (c : Closed 0x20000000000 P) (x1 : State) (h1 : P x1) :
    P (logUnfreezeNow x1) := by
  exact logSpecial_keeps c _ _ _ (modLog_keeps c x1 _ (fun h => h) h1)

theorem logReset_keeps {P : State → Prop} (c : Closed 0x60000000000 P) (x1 : State) (x2) (x3) (x4) (h1 : P x1) :
    P (logReset x1 x2 x3 x4) := by
  have c1 := c.sub (K' := 0x20000000000) (by decide)
  unfold logReset
  refine logSpecial_keeps c1 _ _ _ (c.set_log_outboxes (by decide) (by decide) x1 _ _ ?_ (fun _ => outboxesSized_none) h1)
  rintro ⟨a, b, d⟩
  refine ⟨?_, Nat.zero_le _, Nat.zero_le _⟩
  dsimp only
  split
  · exact Nat.zero_le _
  · exact a

end Sys2Proof.Laws
end

