-- ==== Sys2Proof/Laws/KeepsRecOps.lean ====
section
/-! SUPPORT. What each function of Machine/RecOps.lean can change: a predicate closed under its changes survives it. -/
namespace Sys2Proof.Laws
open Sys2Proof Sys2Proof.Machine

theorem dropRecords_keeps {P : State → Prop} (c : Closed 0x200000000 P) (x1 : State) (x2) (x3) (h1 : P x1) :
    P (dropRecords x1 x2 x3) := by
  unfold dropRecords
  repeat' first
    | with_reducible assumption
    | with_reducible apply modRecs_keeps c
    | with_reducible apply foldl_keeps
    | with_reducible apply foldl_keeps_fst
    | with_reducible apply foldl_keeps_snd
    | intro _
    | dsimp -zeta only

theorem fillDgramN_keeps {P : State → Prop} (c : Closed 0x200000000 P) (x1) (x2 : State) (h2 : P x2) :
    P (fillDgramN x1 x2) := by
  fun_induction fillDgramN x1 x2
  all_goals repeat' first
    | with_reducible assumption
    | with_reducible apply modRecs_keeps c
    | intro _
    | split
    | with_reducible apply_assumption
    | dsimp -zeta only

theorem fillDgram_keeps {P : State → Prop} (c : Closed 0x200000000 P) (x1 : State) (h1 : P x1) :
    P (fillDgram x1) := by
  unfold fillDgram
  repeat' first
    | with_reducible assumption
    | with_reducible apply fillDgramN_keeps c
    | dsimp -zeta only

theorem recUse_keeps {P : State → Prop} (c : Closed 0x200000000 P) (x1 : State) (x2) (x3) (h1 : P x1) :
    P (recUse x1 x2 x3) := by
  unfold recUse
  repeat' first
    | with_reducible assumption
    | with_reducible apply modRecs_keeps c
    | intro _
    | split
    | dsimp -zeta only

theorem enqueue_keeps {P : State → Prop} (c : Closed 0x200000000 P) (x1 : State) (x2) (h1 : P x1) :
    P (enqueue x1 x2) := by
  unfold enqueue
  repeat' first
    | with_reducible assumption
    | with_reducible apply modRecs_keeps c
    | with_reducible apply fillDgram_keeps c
    | intro _
    | dsimp -zeta only

theorem admitZero_keeps {P : State → Prop} (c : Closed 0x200000000 P) (x1 : State) (x2) (h1 : P x1) :
    P (admitZero x1 x2) := by
  unfold admitZero
  repeat' first
    | with_reducible assumption
    | with_reducible apply dropRecords_keeps c
    | with_reducible apply enqueue_keeps c
    | with_reducible apply recUse_keeps c
    | with_reducible apply modRecs_keeps c
    | with_reducible apply foldl_keeps
    | with_reducible apply foldl_keeps_fst
    | with_reducible apply foldl_keeps_snd
    | intro _
    | split
    | dsimp -zeta only

theorem admitGroup_keeps {P : State → Prop} (c : Closed 0x200000000 P) (x1 : State) (x2) (h1 : P x1) :
    P (admitGroup x1 x2) := by
  unfold admitGroup
  repeat' first
    | with_reducible assumption
    | with_reducible apply dropRecords_keeps c
    | with_reducible apply enqueue_keeps c
    | with_reducible apply recUse_keeps c
    | with_reducible apply modRecs_keeps c
    | with_reducible refine fun _ => ?_
    | lift_lets -underBinder
    | (intro x; refine (fun hx : P x => ?_) ?_; clear_value x)
    | (intro x; refine (fun hx : P x.2 => ?_) ?_; clear_value x)
    | (intro x; refine (fun hx : P x.1 => ?_) ?_; clear_value x)
    | (intro x; refine (fun hx : P x.s => ?_) ?_; clear_value x)
    | (intro x; clear_value x)
    | intro _
    | split
    | dsimp -zeta only
    | dsimp -zeta +zetaDelta only
    | lift_lets
    | dsimp only

theorem markDegraded_keeps {P : State → Prop} (c : Closed 0x800 P) (x1 : State) (x2) (h1 : P x1) :
    P (markDegraded x1 x2) := by
  unfold markDegraded
  repeat' first
    | with_reducible assumption
    | with_reducible apply modSeq_keeps c
    | intro _
    | dsimp -zeta only

theorem takeRecords_keeps {P : State → Prop} (c : Closed 0x200000000 P) (x1 : State) (x2) (h1 : P x1) :
    P (takeRecords x1 x2) := by
  unfold takeRecords
  repeat' first
    | with_reducible assumption
    | with_reducible apply admitGroup_keeps c
    | with_reducible apply admitZero_keeps c
    | with_reducible apply foldl_keeps
    | with_reducible apply foldl_keeps_fst
    | with_reducible apply foldl_keeps_snd
    | intro _
    | split
    | dsimp -zeta only

theorem raiseRecord_keeps {P : State → Prop} (c : Closed 0x200000000 P) (x1 : State) (x2) (h1 : P x1) :
    P (raiseRecord x1 x2) := by
  unfold raiseRecord
  repeat' first
    | with_reducible assumption
    | with_reducible apply takeRecords_keeps c
    | dsimp -zeta only

theorem raiseHealth_keeps {P : State → Prop} (c : Closed 0x200000000 P) (x1 : State) (x2) (x3) (h1 : P x1) :
    P (raiseHealth x1 x2 x3) := by
  unfold raiseHealth
  repeat' first
    | with_reducible assumption
    | with_reducible apply takeRecords_keeps c
    | dsimp -zeta only

theorem raiseFor_keeps {P : State → Prop} (c : Closed 0x20200000000 P) (x1 : State) (x2) (x3) (x4) (x5) (x6) (x7) (h1 : P x1) :
    P (raiseFor x1 x2 x3 x4 x5 x6 x7) := by
  have c1 := c.sub (K' := 0x20000000000) (by decide)
  have c2 := c.sub (K' := 0x200000000) (by decide)
  unfold raiseFor
  repeat' first
    | with_reducible assumption
    | with_reducible apply logArrive_keeps c1
    | with_reducible apply raiseHealth_keeps c2
    | with_reducible refine fun _ => ?_
    | lift_lets -underBinder
    | (intro x; refine (fun hx : P x => ?_) ?_; clear_value x)
    | (intro x; refine (fun hx : P x.2 => ?_) ?_; clear_value x)
    | (intro x; refine (fun hx : P x.1 => ?_) ?_; clear_value x)
    | (intro x; refine (fun hx : P x.s => ?_) ?_; clear_value x)
    | (intro x; clear_value x)
    | split
    | dsimp -zeta only
    | dsimp -zeta +zetaDelta only
    | lift_lets
    | dsimp only

theorem raise_keeps {P : State → Prop} (c : Closed 0x20200000000 P) (x1 : State) (x2) (x3) (x4) (x5) (x6) (h1 : P x1) :
    P (raise x1 x2 x3 x4 x5 x6) := by
  unfold raise
  repeat' first
    | with_reducible assumption
    | with_reducible apply raiseFor_keeps c
    | dsimp -zeta only

theorem raiseFrom_keeps {P : State → Prop} (c : Closed 0x20200000000 P) (x1 : State) (x2) (x3) (x4) (x5) (x6) (x7) (h1 : P x1) :
    P (raiseFrom x1 x2 x3 x4 x5 x6 x7) := by
  have c1 := c.sub (K' := 0x20000000000) (by decide)
  have c2 := c.sub (K' := 0x200000000) (by decide)
  unfold raiseFrom
  repeat' first
    | with_reducible assumption
    | with_reducible apply logArrive_keeps c1
    | with_reducible apply raiseHealth_keeps c2
    | with_reducible refine fun _ => ?_
    | lift_lets -underBinder
    | (intro x; refine (fun hx : P x => ?_) ?_; clear_value x)
    | (intro x; refine (fun hx : P x.2 => ?_) ?_; clear_value x)
    | (intro x; refine (fun hx : P x.1 => ?_) ?_; clear_value x)
    | (intro x; refine (fun hx : P x.s => ?_) ?_; clear_value x)
    | (intro x; clear_value x)
    | split
    | dsimp -zeta only
    | dsimp -zeta +zetaDelta only
    | lift_lets
    | dsimp only

theorem raiseOn_keeps {P : State → Prop} (c : Closed 0x60200000000 P) (x1 : State) (x2) (x3) (x4) (x5) (x6) (x7) (h1 : P x1) :
    P (raiseOn x1 x2 x3 x4 x5 x6 x7) := by
  have c1 := c.sub (K' := 0x40000000000) (by decide)
  have c2 := c.sub (K' := 0x20200000000) (by decide)
  unfold raiseOn
  repeat' first
    | with_reducible assumption
    | with_reducible apply outboxArrive_keeps c1
    | with_reducible apply raise_keeps c2
    | split
    | dsimp -zeta only

theorem logOnly_keeps {P : State → Prop} (c : Closed 0x60000000000 P) (x1 : State) (x2) (x3) (x4) (x5) (x6) (x7) (h1 : P x1) :
    P (logOnly x1 x2 x3 x4 x5 x6 x7) := by
  have c1 := c.sub (K' := 0x20000000000) (by decide)
  have c2 := c.sub (K' := 0x40000000000) (by decide)
  unfold logOnly
  repeat' first
    | with_reducible assumption
    | with_reducible apply logArrive_keeps c1
    | with_reducible apply outboxArrive_keeps c2
    | with_reducible refine fun _ => ?_
    | lift_lets -underBinder
    | (intro x; refine (fun hx : P x => ?_) ?_; clear_value x)
    | (intro x; refine (fun hx : P x.2 => ?_) ?_; clear_value x)
    | (intro x; refine (fun hx : P x.1 => ?_) ?_; clear_value x)
    | (intro x; refine (fun hx : P x.s => ?_) ?_; clear_value x)
    | (intro x; clear_value x)
    | split
    | dsimp -zeta only
    | dsimp -zeta +zetaDelta only
    | lift_lets
    | dsimp only

theorem logWriteOne_keeps {P : State → Prop} (c : Closed 0x20200000000 P) (x1 : State) (h1 : P x1) :
    P (logWriteOne x1) := by
  have c1 := c.sub (K' := 0x20000000000) (by decide)
  have c2 := c.sub (K' := 0x200000000) (by decide)
  unfold logWriteOne
  repeat' first
    | with_reducible assumption
    | with_reducible apply logPut_keeps c1
    | with_reducible apply logTake_keeps c1
    | with_reducible apply raiseHealth_keeps c2
    | with_reducible refine fst_of (by assumption) ?_
    | with_reducible refine some2_of (by assumption) ?_
    | with_reducible refine fun _ => ?_
    | lift_lets -underBinder
    | (intro x; refine (fun hx : P x => ?_) ?_; clear_value x)
    | (intro x; refine (fun hx : P x.2 => ?_) ?_; clear_value x)
    | (intro x; refine (fun hx : P x.1 => ?_) ?_; clear_value x)
    | (intro x; refine (fun hx : P x.s => ?_) ?_; clear_value x)
    | (intro x; clear_value x)
    | split
    | dsimp -zeta only
    | dsimp -zeta +zetaDelta only
    | lift_lets
    | dsimp only

end Sys2Proof.Laws
end

