-- ==== Sys2Proof/Laws/KeepsOtpOps.lean ====
section
/-! SUPPORT. What each function of Machine/OtpOps.lean can change: a predicate closed under its changes survives it. -/
namespace Sys2Proof.Laws
open Sys2Proof Sys2Proof.Machine

theorem otpGrows_same {a b : OtpSt} (h1 : a.rows = b.rows) (h2 : a.spares = b.spares) (h3 : a.redir = b.redir) : OtpGrows a b := by
  refine ⟨fun p => ?_, fun k => ?_⟩
  · have : physBits b p = physBits a p := by unfold physBits; rw [h1, h2]
    rw [this]; exact BitVec.and_not_self _
  · rw [h3]; exact ⟨BitVec.and_not_self _, BitVec.and_not_self _, BitVec.and_not_self _⟩

theorem otpGrows_trans {a b d : OtpSt} (h : OtpGrows a b) (g : OtpGrows b d) : OtpGrows a d := by
  have step : ∀ {w : Nat} (x y z : BitVec w), x &&& ~~~y = 0 → y &&& ~~~z = 0 → x &&& ~~~z = 0 := by
    intro w x y z h g
    ext i hi
    have h' := congrArg (fun v => v.getLsbD i) h
    have g' := congrArg (fun v => v.getLsbD i) g
    simp [hi] at h' g' ⊢
    intro hx
    exact g' (h' hx)
  refine ⟨fun p => step _ _ _ (h.1 p) (g.1 p), fun k => ⟨?_, ?_, ?_⟩⟩
  · exact step _ _ _ (h.2 k).1 (g.2 k).1
  · exact step _ _ _ (h.2 k).2.1 (g.2 k).2.1
  · exact step _ _ _ (h.2 k).2.2 (g.2 k).2.2

theorem and_not_or (w : Nat) (x y : BitVec w) : x &&& ~~~(x ||| y) = 0 := by
  ext i hi
  simp
  intro h1 h2
  simp [h1] at h2

theorem mget_mset_grows (m : List (Nat × BitVec 64)) (p q : Nat) (v : BitVec 64) :
    mget 0 m q &&& ~~~(mget 0 (mset 0 m p (mget 0 m p ||| v)) q) = 0 := by
  by_cases h : p = q
  · subst h
    unfold mset
    split
    · next h0 =>
      have : mget 0 m p = 0 := by
        have := congrArg (fun x => x &&& mget 0 m p) h0
        ext i hi
        have h1 := congrArg (fun v => v.getLsbD i) h0
        simp [hi] at h1
        simp [h1.1]
      rw [this]; exact BitVec.zero_and
    · rw [mget_mput, if_pos rfl]; exact and_not_or _ _ _
  · rw [mget_mset_ne _ _ _ _ _ h]; exact BitVec.and_not_self _

theorem physSet_grows (o : OtpSt) (p : Nat) (v : BitVec 64) : OtpGrows o (physSet o p v) := by
  unfold physSet
  split
  · refine ⟨fun q => ?_, fun k => ⟨BitVec.and_not_self _, BitVec.and_not_self _, BitVec.and_not_self _⟩⟩
    unfold physBits
    split
    · exact mget_mset_grows o.rows p q v
    · exact BitVec.and_not_self _
  · refine ⟨fun q => ?_, fun k => ⟨BitVec.and_not_self _, BitVec.and_not_self _, BitVec.and_not_self _⟩⟩
    unfold physBits
    split
    · exact BitVec.and_not_self _
    · dsimp only
      rw [vget_vmod]
      split
      · next h => rw [h.1]; exact and_not_or _ _ _
      · exact BitVec.and_not_self _

theorem burnRedir_grows (o : OtpSt) (k v : Nat) : OtpGrows o (burnRedir o k v) := by
  unfold burnRedir
  refine ⟨fun p => ?_, fun j => ?_⟩
  · exact BitVec.and_not_self _
  · dsimp only
    rw [vget_vmod]
    split
    · next h => rw [← h.1]; exact ⟨and_not_or _ _ _, and_not_or _ _ _, and_not_or _ _ _⟩
    · exact ⟨BitVec.and_not_self _, BitVec.and_not_self _, BitVec.and_not_self _⟩

theorem foldl_burn_grows (v : Nat) : ∀ (l : List Nat) (o : OtpSt), OtpGrows o (l.foldl (fun o j => burnRedir o j v) o)
  | [], _ => otpGrows_same rfl rfl rfl
  | k :: l, o => otpGrows_trans (burnRedir_grows o k v) (foldl_burn_grows v l (burnRedir o k v))

theorem otpBegin_keeps {P : State → Prop} (s : State) (a : OtpAnalog) (h : P s) : P (otpBegin s a).s := h

theorem foldl_keeps_run {P : State → Prop} {α : Type} {f : OtpRun → α → OtpRun} (hf : ∀ t x, P t.s → P (f t x).s) :
    ∀ (l : List α) (u : OtpRun), P u.s → P (l.foldl f u).s
  | [], _, h => h
  | a :: l, u, h => foldl_keeps_run hf l (f u a) (hf u a h)

theorem redirectFrom_keeps {P : State → Prop} (c : Closed 0x20200020000 P) (x1 : OtpRun) (x2) (x3) (x4) (h1 : P x1.s) :
    P (redirectFrom x1 x2 x3 x4).s := by
  have c1 := c.sub (K' := 0x20000) (by decide)
  have c2 := c.sub (K' := 0x20200000000) (by decide)
  induction x4 generalizing x1 with
  | nil =>
    unfold redirectFrom
    dsimp only
    refine modOtp_keeps c1 _ _ ?_ ?_
    · apply otpGrows_same <;> rfl
    split
    · exact h1
    · exact raise_keeps c2 _ _ _ _ _ _ (raise_keeps c2 _ _ _ _ _ _ h1)
  | cons k ks ih =>
    unfold redirectFrom
    dsimp only
    split
    · refine ih _ ?_
      dsimp only
      exact modOtp_keeps c1 _ _ (burnRedir_grows _ _ _) h1
    · split
      · exact ih _ h1
      · split
        · refine ih _ ?_
          dsimp only
          exact modOtp_keeps c1 _ _ (otpGrows_trans (physSet_grows _ _ _) (burnRedir_grows _ _ _)) h1
        · dsimp only
          refine raise_keeps c2 _ _ _ _ _ _ (modOtp_keeps c1 _ _ ?_ h1)
          exact otpGrows_trans (otpGrows_trans (physSet_grows _ _ _) (burnRedir_grows _ _ _)) (foldl_burn_grows _ _ _)

theorem redirectRow_keeps {P : State → Prop} (c : Closed 0x20200020000 P) (x1 : OtpRun) (x2) (x3) (h1 : P x1.s) :
    P (redirectRow x1 x2 x3).s := by
  unfold redirectRow
  repeat' first
    | with_reducible assumption
    | with_reducible apply redirectFrom_keeps c
    | with_reducible apply foldl_keeps_run
    | dsimp -zeta only

theorem programBits_keeps {P : State → Prop} (c : Closed 0x20200020000 P) (x1 : OtpRun) (x2) (x3) (h1 : P x1.s) :
    P (programBits x1 x2 x3).s := by
  have c1 := c.sub (K' := 0x20000) (by decide)
  unfold programBits
  repeat' first
    | with_reducible assumption
    | with_reducible apply redirectRow_keeps c
    | with_reducible apply modOtp_keeps c1
    | with_reducible apply foldl_keeps_run
    | with_reducible refine fun _ => ?_
    | lift_lets -underBinder
    | (intro x; refine (fun hx : P x => ?_) ?_; clear_value x)
    | (intro x; refine (fun hx : P x.2 => ?_) ?_; clear_value x)
    | (intro x; refine (fun hx : P x.1 => ?_) ?_; clear_value x)
    | (intro x; refine (fun hx : P x.s => ?_) ?_; clear_value x)
    | (intro x; clear_value x)
    | intro _
    | split
    | (apply otpGrows_same <;> rfl)
    | exact physSet_grows _ _ _
    | exact burnRedir_grows _ _ _
    | dsimp -zeta only
    | dsimp -zeta +zetaDelta only
    | lift_lets
    | dsimp only

theorem marginMask_keeps {P : State → Prop} (c : Closed 0x20200020000 P) (x1 : State) (x2) (h1 : P x1) :
    P (marginMask x1 x2) := by
  have c1 := c.sub (K' := 0x20200000000) (by decide)
  have c2 := c.sub (K' := 0x20000) (by decide)
  unfold marginMask
  repeat' first
    | with_reducible assumption
    | with_reducible apply raise_keeps c1
    | with_reducible apply modOtp_keeps c2
    | with_reducible refine fun _ => ?_
    | lift_lets -underBinder
    | (intro x; refine (fun hx : P x => ?_) ?_; clear_value x)
    | (intro x; refine (fun hx : P x.2 => ?_) ?_; clear_value x)
    | (intro x; refine (fun hx : P x.1 => ?_) ?_; clear_value x)
    | (intro x; refine (fun hx : P x.s => ?_) ?_; clear_value x)
    | (intro x; clear_value x)
    | intro _
    | split
    | (apply otpGrows_same <;> rfl)
    | exact physSet_grows _ _ _
    | exact burnRedir_grows _ _ _
    | dsimp -zeta only
    | dsimp -zeta +zetaDelta only
    | lift_lets
    | dsimp only

theorem marginRow_keeps {P : State → Prop} (c : Closed 0x20200020000 P) (x1 : OtpRun) (x2) (h1 : P x1.s) :
    P (marginRow x1 x2).s := by
  have c1 := c.sub (K' := 0x20000) (by decide)
  unfold marginRow
  repeat' first
    | with_reducible assumption
    | with_reducible apply redirectRow_keeps c
    | with_reducible apply marginMask_keeps c
    | with_reducible apply modOtp_keeps c1
    | with_reducible apply foldl_keeps_run
    | with_reducible refine fun _ => ?_
    | lift_lets -underBinder
    | (intro x; refine (fun hx : P x => ?_) ?_; clear_value x)
    | (intro x; refine (fun hx : P x.2 => ?_) ?_; clear_value x)
    | (intro x; refine (fun hx : P x.1 => ?_) ?_; clear_value x)
    | (intro x; refine (fun hx : P x.s => ?_) ?_; clear_value x)
    | (intro x; clear_value x)
    | intro _
    | split
    | (apply otpGrows_same <;> rfl)
    | exact physSet_grows _ _ _
    | exact burnRedir_grows _ _ _
    | dsimp -zeta only
    | dsimp -zeta +zetaDelta only
    | lift_lets
    | dsimp only

theorem marginRows_keeps {P : State → Prop} (c : Closed 0x20200020000 P) (x1 : OtpRun) (x2) (h1 : P x1.s) :
    P (marginRows x1 x2).s := by
  unfold marginRows
  induction x2 generalizing x1 with
  | nil => exact h1
  | cons r rs ih => exact ih _ (marginRow_keeps c x1 r h1)

theorem otpEnd_keeps {P : State → Prop} (c : Closed 0x20000 P) (x1 : OtpRun) (h1 : P x1.s) :
    P (otpEnd x1) := by
  unfold otpEnd
  repeat' first
    | with_reducible assumption
    | with_reducible apply modOtp_keeps c
    | intro _
    | (apply otpGrows_same <;> rfl)
    | exact physSet_grows _ _ _
    | exact burnRedir_grows _ _ _
    | dsimp -zeta only

theorem otpRefuse_keeps {P : State → Prop} (c : Closed 0x20000 P) (x1 : State) (x2) (h1 : P x1) :
    P (otpRefuse x1 x2) := by
  unfold otpRefuse
  repeat' first
    | with_reducible assumption
    | with_reducible apply modOtp_keeps c
    | intro _
    | (apply otpGrows_same <;> rfl)
    | exact physSet_grows _ _ _
    | exact burnRedir_grows _ _ _
    | dsimp -zeta only

theorem otpProgramRow_keeps {P : State → Prop} (c : Closed 0x20200020000 P) (x1 : State) (x2) (x3) (x4) (h1 : P x1) :
    P (otpProgramRow x1 x2 x3 x4) := by
  have c1 := c.sub (K' := 0x20000) (by decide)
  unfold otpProgramRow
  repeat' first
    | with_reducible assumption
    | with_reducible apply otpRefuse_keeps c1
    | with_reducible apply otpEnd_keeps c1
    | with_reducible apply marginRow_keeps c
    | with_reducible apply programBits_keeps c
    | with_reducible apply otpBegin_keeps
    | with_reducible refine fun _ => ?_
    | lift_lets -underBinder
    | (intro x; refine (fun hx : P x => ?_) ?_; clear_value x)
    | (intro x; refine (fun hx : P x.2 => ?_) ?_; clear_value x)
    | (intro x; refine (fun hx : P x.1 => ?_) ?_; clear_value x)
    | (intro x; refine (fun hx : P x.s => ?_) ?_; clear_value x)
    | (intro x; clear_value x)
    | split
    | dsimp -zeta only
    | dsimp -zeta +zetaDelta only
    | lift_lets
    | dsimp only

theorem otpReinforceRow_keeps {P : State → Prop} (c : Closed 0x20200020000 P) (x1 : State) (x2) (x3) (x4) (h1 : P x1) :
    P (otpReinforceRow x1 x2 x3 x4) := by
  have c1 := c.sub (K' := 0x20000) (by decide)
  unfold otpReinforceRow
  repeat' first
    | with_reducible assumption
    | with_reducible apply otpRefuse_keeps c1
    | with_reducible apply otpEnd_keeps c1
    | with_reducible apply marginRow_keeps c
    | with_reducible apply otpBegin_keeps
    | split
    | dsimp -zeta only

theorem otpMarginRow_keeps {P : State → Prop} (c : Closed 0x20200020000 P) (x1 : State) (x2) (x3) (h1 : P x1) :
    P (otpMarginRow x1 x2 x3) := by
  have c1 := c.sub (K' := 0x20000) (by decide)
  unfold otpMarginRow
  repeat' first
    | with_reducible assumption
    | with_reducible apply marginMask_keeps c
    | with_reducible apply otpRefuse_keeps c1
    | with_reducible apply modOtp_keeps c1
    | with_reducible refine fun _ => ?_
    | lift_lets -underBinder
    | (intro x; refine (fun hx : P x => ?_) ?_; clear_value x)
    | (intro x; refine (fun hx : P x.2 => ?_) ?_; clear_value x)
    | (intro x; refine (fun hx : P x.1 => ?_) ?_; clear_value x)
    | (intro x; refine (fun hx : P x.s => ?_) ?_; clear_value x)
    | (intro x; clear_value x)
    | intro _
    | split
    | (apply otpGrows_same <;> rfl)
    | exact physSet_grows _ _ _
    | exact burnRedir_grows _ _ _
    | dsimp -zeta only
    | dsimp -zeta +zetaDelta only
    | lift_lets
    | dsimp only

theorem otpScan_keeps {P : State → Prop} (c : Closed 0x20200020000 P) (x1 : State) (x2) (x3) (x4) (h1 : P x1) :
    P (otpScan x1 x2 x3 x4) := by
  have c1 := c.sub (K' := 0x20000) (by decide)
  unfold otpScan
  repeat' first
    | with_reducible assumption
    | with_reducible apply otpRefuse_keeps c1
    | with_reducible apply otpEnd_keeps c1
    | with_reducible apply marginRows_keeps c
    | with_reducible apply otpBegin_keeps
    | split
    | dsimp -zeta only

theorem otpLcAdvance_keeps {P : State → Prop} (c : Closed 0x20200020000 P) (x1 : State) (x2) (x3) (x4) (h1 : P x1) :
    P (otpLcAdvance x1 x2 x3 x4) := by
  have c1 := c.sub (K' := 0x20000) (by decide)
  unfold otpLcAdvance
  repeat' first
    | with_reducible assumption
    | with_reducible apply otpRefuse_keeps c1
    | with_reducible apply otpEnd_keeps c1
    | with_reducible apply programBits_keeps c
    | with_reducible apply marginRows_keeps c
    | with_reducible apply otpBegin_keeps
    | with_reducible refine fun _ => ?_
    | lift_lets -underBinder
    | (intro x; refine (fun hx : P x => ?_) ?_; clear_value x)
    | (intro x; refine (fun hx : P x.2 => ?_) ?_; clear_value x)
    | (intro x; refine (fun hx : P x.1 => ?_) ?_; clear_value x)
    | (intro x; refine (fun hx : P x.s => ?_) ?_; clear_value x)
    | (intro x; clear_value x)
    | split
    | dsimp -zeta only
    | dsimp -zeta +zetaDelta only
    | lift_lets
    | dsimp only

theorem programAll_keeps {P : State → Prop} (c : Closed 0x20200020000 P) (x1 : OtpRun) (x2) (h1 : P x1.s) :
    P (programAll x1 x2).s := by
  unfold programAll
  repeat' first
    | with_reducible assumption
    | with_reducible apply programBits_keeps c
    | with_reducible apply foldl_keeps_run
    | with_reducible apply foldl_keeps
    | with_reducible apply foldl_keeps_fst
    | with_reducible apply foldl_keeps_snd
    | intro _
    | dsimp -zeta only

theorem raiseRun_keeps {P : State → Prop} (c : Closed 0x20200020000 P) (x1 : OtpRun) (x2) (x3) (x4) (h1 : P x1.s) :
    P (raiseRun x1 x2 x3 x4).s := by
  unfold raiseRun
  repeat' first
    | with_reducible assumption
    | with_reducible apply programAll_keeps c
    | with_reducible apply foldl_keeps_run
    | with_reducible refine fun _ => ?_
    | lift_lets -underBinder
    | (intro x; refine (fun hx : P x => ?_) ?_; clear_value x)
    | (intro x; refine (fun hx : P x.2 => ?_) ?_; clear_value x)
    | (intro x; refine (fun hx : P x.1 => ?_) ?_; clear_value x)
    | (intro x; refine (fun hx : P x.s => ?_) ?_; clear_value x)
    | (intro x; clear_value x)
    | intro _
    | split
    | dsimp -zeta only
    | dsimp -zeta +zetaDelta only
    | lift_lets
    | dsimp only

theorem otpRollbackRaise_keeps {P : State → Prop} (c : Closed 0x20200020008 P) (x1 : State) (x2) (x3) (x4) (h1 : P x1) :
    P (otpRollbackRaise x1 x2 x3 x4) := by
  have c1 := c.sub (K' := 0x8) (by decide)
  have c2 := c.sub (K' := 0x20200020000) (by decide)
  have c3 := c.sub (K' := 0x20000) (by decide)
  unfold otpRollbackRaise
  repeat' first
    | with_reducible assumption
    | with_reducible apply fresh_keeps c1
    | with_reducible apply raiseRun_keeps c2
    | with_reducible apply otpRefuse_keeps c3
    | with_reducible apply otpEnd_keeps c3
    | with_reducible apply otpBegin_keeps
    | with_reducible refine snd_of (by assumption) ?_
    | with_reducible refine fun _ => ?_
    | lift_lets -underBinder
    | (intro x; refine (fun hx : P x => ?_) ?_; clear_value x)
    | (intro x; refine (fun hx : P x.2 => ?_) ?_; clear_value x)
    | (intro x; refine (fun hx : P x.1 => ?_) ?_; clear_value x)
    | (intro x; refine (fun hx : P x.s => ?_) ?_; clear_value x)
    | (intro x; clear_value x)
    | split
    | dsimp -zeta only
    | dsimp -zeta +zetaDelta only
    | lift_lets
    | dsimp only

theorem otpPolicyLock_keeps {P : State → Prop} (c : Closed 0x20200020000 P) (x1 : State) (x2) (x3) (x4) (h1 : P x1) :
    P (otpPolicyLock x1 x2 x3 x4) := by
  have c1 := c.sub (K' := 0x20000) (by decide)
  unfold otpPolicyLock
  repeat' first
    | with_reducible assumption
    | with_reducible apply programAll_keeps c
    | with_reducible apply otpRefuse_keeps c1
    | with_reducible apply otpEnd_keeps c1
    | with_reducible apply otpBegin_keeps
    | with_reducible refine fun _ => ?_
    | lift_lets -underBinder
    | (intro x; refine (fun hx : P x => ?_) ?_; clear_value x)
    | (intro x; refine (fun hx : P x.2 => ?_) ?_; clear_value x)
    | (intro x; refine (fun hx : P x.1 => ?_) ?_; clear_value x)
    | (intro x; refine (fun hx : P x.s => ?_) ?_; clear_value x)
    | (intro x; clear_value x)
    | split
    | dsimp -zeta only
    | dsimp -zeta +zetaDelta only
    | lift_lets
    | dsimp only

theorem otpKwrapGen_keeps {P : State → Prop} (c : Closed 0x20200020008 P) (x1 : State) (x2) (x3) (x4) (h1 : P x1) :
    P (otpKwrapGen x1 x2 x3 x4) := by
  have c1 := c.sub (K' := 0x8) (by decide)
  have c2 := c.sub (K' := 0x20200020000) (by decide)
  have c3 := c.sub (K' := 0x20000) (by decide)
  unfold otpKwrapGen
  repeat' first
    | with_reducible assumption
    | with_reducible apply fresh_keeps c1
    | with_reducible apply programAll_keeps c2
    | with_reducible apply otpRefuse_keeps c3
    | with_reducible apply otpEnd_keeps c3
    | with_reducible apply modOtp_keeps c3
    | with_reducible apply otpBegin_keeps
    | with_reducible refine snd_of (by assumption) ?_
    | with_reducible refine fun _ => ?_
    | lift_lets -underBinder
    | (intro x; refine (fun hx : P x => ?_) ?_; clear_value x)
    | (intro x; refine (fun hx : P x.2 => ?_) ?_; clear_value x)
    | (intro x; refine (fun hx : P x.1 => ?_) ?_; clear_value x)
    | (intro x; refine (fun hx : P x.s => ?_) ?_; clear_value x)
    | (intro x; clear_value x)
    | intro _
    | split
    | (apply otpGrows_same <;> rfl)
    | exact physSet_grows _ _ _
    | exact burnRedir_grows _ _ _
    | dsimp -zeta only
    | dsimp -zeta +zetaDelta only
    | lift_lets
    | dsimp only

theorem lockSet_keeps {P : State → Prop} (c : Closed 0x20000 P) (x1 : State) (x2) (h1 : P x1) :
    P (lockSet x1 x2) := by
  unfold lockSet
  repeat' first
    | with_reducible assumption
    | with_reducible apply modOtp_keeps c
    | with_reducible refine fun _ => ?_
    | lift_lets -underBinder
    | (intro x; refine (fun hx : P x => ?_) ?_; clear_value x)
    | (intro x; refine (fun hx : P x.2 => ?_) ?_; clear_value x)
    | (intro x; refine (fun hx : P x.1 => ?_) ?_; clear_value x)
    | (intro x; refine (fun hx : P x.s => ?_) ?_; clear_value x)
    | (intro x; clear_value x)
    | intro _
    | (apply otpGrows_same <;> rfl)
    | exact physSet_grows _ _ _
    | exact burnRedir_grows _ _ _
    | dsimp -zeta only
    | dsimp -zeta +zetaDelta only
    | lift_lets
    | dsimp only

theorem completeRun_keeps {P : State → Prop} (c : Closed 0x20200020000 P) (x1 : State) (x2) (h1 : P x1) :
    P (completeRun x1 x2).s := by
  have c1 := c.sub (K' := 0x20200000000) (by decide)
  have c2 := c.sub (K' := 0x20000) (by decide)
  unfold completeRun
  repeat' first
    | with_reducible assumption
    | with_reducible apply programAll_keeps c
    | with_reducible apply raise_keeps c1
    | with_reducible apply modOtp_keeps c2
    | with_reducible apply otpBegin_keeps
    | with_reducible apply foldl_keeps_run
    | with_reducible refine fun _ => ?_
    | lift_lets -underBinder
    | (intro x; refine (fun hx : P x => ?_) ?_; clear_value x)
    | (intro x; refine (fun hx : P x.2 => ?_) ?_; clear_value x)
    | (intro x; refine (fun hx : P x.1 => ?_) ?_; clear_value x)
    | (intro x; refine (fun hx : P x.s => ?_) ?_; clear_value x)
    | (intro x; clear_value x)
    | intro _
    | split
    | (apply otpGrows_same <;> rfl)
    | exact physSet_grows _ _ _
    | exact burnRedir_grows _ _ _
    | dsimp -zeta only
    | dsimp -zeta +zetaDelta only
    | lift_lets
    | dsimp only

theorem bootMargins_keeps {P : State → Prop} (c : Closed 0x20200020000 P) (x1 : OtpRun) (x2) (x3) (h1 : P x1.s) :
    P (bootMargins x1 x2 x3).s := by
  have c1 := c.sub (K' := 0x20200000000) (by decide)
  induction x2 generalizing x1 x3 with
  | nil => exact h1
  | cons r rs ih =>
    unfold bootMargins
    split
    · exact ih _ _ (marginMask_keeps c _ _ h1)
    · refine ih _ _ ?_
      have hm := marginRow_keeps c x1 r h1
      split
      · dsimp only
        exact raise_keeps c1 _ _ _ _ _ _ hm
      · exact hm

theorem loadMirror_keeps {P : State → Prop} (c : Closed 0x20000 P) (x1 : State) (h1 : P x1) :
    P (loadMirror x1) := by
  unfold loadMirror
  repeat' first
    | with_reducible assumption
    | with_reducible apply modOtp_keeps c
    | intro _
    | (apply otpGrows_same <;> rfl)
    | exact physSet_grows _ _ _
    | exact burnRedir_grows _ _ _
    | dsimp -zeta only

theorem otpFaults_keeps {P : State → Prop} (c : Closed 0x21200000000 P) (x1 : State) (h1 : P x1) :
    P (otpFaults x1) := by
  have c1 := c.sub (K' := 0x20200000000) (by decide)
  have c2 := c.sub (K' := 0x1000000000) (by decide)
  unfold otpFaults
  repeat' first
    | with_reducible assumption
    | with_reducible apply raise_keeps c1
    | with_reducible apply modHk_keeps c2
    | with_reducible refine fun _ => ?_
    | (intro x; refine (fun hx : ∀ t a0 a1, P t → P (x t a0 a1) => ?_) ?_; clear_value x)
    | lift_lets -underBinder
    | (intro x; refine (fun hx : P x => ?_) ?_; clear_value x)
    | (intro x; refine (fun hx : P x.2 => ?_) ?_; clear_value x)
    | (intro x; refine (fun hx : P x.1 => ?_) ?_; clear_value x)
    | (intro x; refine (fun hx : P x.s => ?_) ?_; clear_value x)
    | (intro x; clear_value x)
    | with_reducible apply foldl_keeps
    | with_reducible apply foldl_keeps_fst
    | with_reducible apply foldl_keeps_snd
    | intro _
    | split
    | with_reducible apply_assumption
    | dsimp -zeta only
    | dsimp -zeta +zetaDelta only
    | lift_lets
    | dsimp only

theorem otpLoad_keeps {P : State → Prop} (c : Closed 0x21200020000 P) (x1 : State) (x2) (h1 : P x1) :
    P (otpLoad x1 x2) := by
  have c1 := c.sub (K' := 0x20000) (by decide)
  have c2 := c.sub (K' := 0x20200020000) (by decide)
  have c3 := c.sub (K' := 0x21200000000) (by decide)
  unfold otpLoad
  have hu := completeRun_keeps c2 _ x2 (loadMirror_keeps c1 _ h1)
  have res0 : ∀ u : OtpRun, P u.s → P ({ u with res := 0 } : OtpRun).s := fun u h => h
  have hv := fun l => bootMargins_keeps c2 _ l 2 (res0 _ hu)
  have key : ∀ t : State, P t → P (otpFaults (modOtp t fun o => { o with policyEff := restriction t, debugEffective := debugDisabled t })) :=
    fun t ht => otpFaults_keeps (c.sub (by decide)) _ (modOtp_keeps c1 t _ (otpGrows_same (b := { t.otp with policyEff := restriction t, debugEffective := debugDisabled t }) rfl rfl rfl) ht)
  exact key _ (loadMirror_keeps c1 _ (hv _))

end Sys2Proof.Laws
end

