-- ==== Sys2Proof/Laws/KeepsEdlOps.lean ====
section
/-! SUPPORT. What each function of Machine/EdlOps.lean can change: a predicate closed under its changes survives it. -/
namespace Sys2Proof.Laws
open Sys2Proof Sys2Proof.Machine

theorem linkChange_keeps {P : State → Prop} (c : Closed 0x20200004000 P) (x1 : State) (x2) (x3) (x4) (h1 : P x1) :
    P (linkChange x1 x2 x3 x4) := by
  have c1 := c.sub (K' := 0x20200000000) (by decide)
  have c2 := c.sub (K' := 0x4000) (by decide)
  unfold linkChange
  repeat' first
    | with_reducible assumption
    | with_reducible apply raise_keeps c1
    | with_reducible apply modBoot_keeps c2
    | with_reducible refine fun _ => ?_
    | lift_lets -underBinder
    | (intro x; refine (fun hx : P x => ?_) ?_; clear_value x)
    | (intro x; refine (fun hx : P x.2 => ?_) ?_; clear_value x)
    | (intro x; refine (fun hx : P x.1 => ?_) ?_; clear_value x)
    | (intro x; refine (fun hx : P x.s => ?_) ?_; clear_value x)
    | (intro x; clear_value x)
    | intro _
    | split
    | dsimp -zeta only
    | dsimp -zeta +zetaDelta only
    | lift_lets
    | dsimp only

theorem linkChangeOnce_keeps {P : State → Prop} (c : Closed 0x20200004000 P) (x1 : State) (x2) (x3) (x4) (h1 : P x1) :
    P (linkChangeOnce x1 x2 x3 x4) := by
  unfold linkChangeOnce
  repeat' first
    | with_reducible assumption
    | with_reducible apply linkChange_keeps c
    | split
    | dsimp -zeta only

theorem sendSb_keeps {P : State → Prop} (c : Closed 0x200 P) (x1 : State) (x2) (x3) (h1 : P x1) :
    P (sendSb x1 x2 x3) := by
  unfold sendSb
  repeat' first
    | with_reducible assumption
    | with_reducible apply emit_keeps c
    | dsimp -zeta only

theorem switchRoutes_keeps {P : State → Prop} (c : Closed 0x10 P) (x1 : State) (x2) (h1 : P x1) :
    P (switchRoutes x1 x2) := by
  unfold switchRoutes
  repeat' first
    | with_reducible assumption
    | with_reducible apply rput_keeps c
    | with_reducible refine fun _ => ?_
    | lift_lets -underBinder
    | (intro x; refine (fun hx : P x => ?_) ?_; clear_value x)
    | (intro x; refine (fun hx : P x.2 => ?_) ?_; clear_value x)
    | (intro x; refine (fun hx : P x.1 => ?_) ?_; clear_value x)
    | (intro x; refine (fun hx : P x.s => ?_) ?_; clear_value x)
    | (intro x; clear_value x)
    | with_reducible apply foldl_keeps
    | with_reducible apply foldl_keeps_fst
    | with_reducible apply foldl_keeps_snd
    | intro _
    | dsimp -zeta only
    | dsimp -zeta +zetaDelta only
    | lift_lets
    | dsimp only

theorem loadRoutesOf_keeps {P : State → Prop} (c : Closed 0x10 P) (x1 : State) (x2) (h1 : P x1) :
    P (loadRoutesOf x1 x2) := by
  unfold loadRoutesOf
  repeat' first
    | with_reducible assumption
    | with_reducible apply switchRoutes_keeps c
    | with_reducible apply rput_keeps c
    | with_reducible refine fun _ => ?_
    | lift_lets -underBinder
    | (intro x; refine (fun hx : P x => ?_) ?_; clear_value x)
    | (intro x; refine (fun hx : P x.2 => ?_) ?_; clear_value x)
    | (intro x; refine (fun hx : P x.1 => ?_) ?_; clear_value x)
    | (intro x; refine (fun hx : P x.s => ?_) ?_; clear_value x)
    | (intro x; clear_value x)
    | with_reducible apply foldl_keeps
    | with_reducible apply foldl_keeps_fst
    | with_reducible apply foldl_keeps_snd
    | intro _
    | split
    | dsimp -zeta only
    | dsimp -zeta +zetaDelta only
    | lift_lets
    | dsimp only

theorem loadRoutes_keeps {P : State → Prop} (c : Closed 0x10 P) (x1 : State) (h1 : P x1) :
    P (loadRoutes x1) := by
  unfold loadRoutes
  repeat' first
    | with_reducible assumption
    | with_reducible apply loadRoutesOf_keeps c
    | with_reducible apply foldl_keeps
    | with_reducible apply foldl_keeps_fst
    | with_reducible apply foldl_keeps_snd
    | intro _
    | dsimp -zeta only

theorem markPartial_keeps {P : State → Prop} (c : Closed 0x800 P) (x1 : State) (x2) (h1 : P x1) :
    P (markPartial x1 x2) := by
  unfold markPartial
  repeat' first
    | with_reducible assumption
    | with_reducible apply modSeq_keeps c
    | intro _
    | dsimp -zeta only

theorem enqueueParcel_keeps {P : State → Prop} (c : Closed 0x40000 P) (x1 : State) (x2) (x3) (h1 : P x1) :
    P (enqueueParcel x1 x2 x3) := by
  unfold enqueueParcel
  repeat' first
    | with_reducible assumption
    | with_reducible apply modPort_keeps c
    | intro _
    | dsimp -zeta only

theorem routeParcel_keeps {P : State → Prop} (c : Closed 0x60200040000 P) (x1 : State) (x2) (x3) (h1 : P x1) :
    P (routeParcel x1 x2 x3) := by
  have c1 := c.sub (K' := 0x60200000000) (by decide)
  have c2 := c.sub (K' := 0x40000) (by decide)
  unfold routeParcel
  repeat' first
    | with_reducible assumption
    | with_reducible apply raiseOn_keeps c1
    | with_reducible apply enqueueParcel_keeps c2
    | split
    | dsimp -zeta only

theorem sendParcel_keeps {P : State → Prop} (c : Closed 0x60200040000 P) (x1 : State) (x2) (x3) (h1 : P x1) :
    P (sendParcel x1 x2 x3) := by
  unfold sendParcel
  repeat' first
    | with_reducible assumption
    | with_reducible apply routeParcel_keeps c
    | dsimp -zeta only

theorem sendMsg_keeps {P : State → Prop} (c : Closed 0x60200040000 P) (x1 : State) (x2) (x3) (x4) (x5) (h1 : P x1) :
    P (sendMsg x1 x2 x3 x4 x5) := by
  unfold sendMsg
  repeat' first
    | with_reducible assumption
    | with_reducible apply sendParcel_keeps c
    | dsimp -zeta only

theorem reissue_keeps {P : State → Prop} (c : Closed 0x60200040800 P) (x1 : State) (x2) (h1 : P x1) :
    P (reissue x1 x2) := by
  have c1 := c.sub (K' := 0x40000) (by decide)
  have c2 := c.sub (K' := 0x800) (by decide)
  have c3 := c.sub (K' := 0x60200000000) (by decide)
  have c4 := c.sub (K' := 0x60200040000) (by decide)
  unfold reissue
  repeat' first
    | with_reducible assumption
    | with_reducible apply modPort_keeps c1
    | with_reducible apply markPartial_keeps c2
    | with_reducible apply raiseOn_keeps c3
    | with_reducible apply routeParcel_keeps c4
    | with_reducible refine fun _ => ?_
    | lift_lets -underBinder
    | (intro x; refine (fun hx : P x => ?_) ?_; clear_value x)
    | (intro x; refine (fun hx : P x.2 => ?_) ?_; clear_value x)
    | (intro x; refine (fun hx : P x.1 => ?_) ?_; clear_value x)
    | (intro x; refine (fun hx : P x.s => ?_) ?_; clear_value x)
    | (intro x; clear_value x)
    | with_reducible apply foldl_keeps
    | with_reducible apply foldl_keeps_fst
    | with_reducible apply foldl_keeps_snd
    | intro _
    | split
    | dsimp -zeta only
    | dsimp -zeta +zetaDelta only
    | lift_lets
    | dsimp only

theorem portLost_keeps {P : State → Prop} (c : Closed 0x60200040810 P) (x1 : State) (x2) (h1 : P x1) :
    P (portLost x1 x2) := by
  have c1 := c.sub (K' := 0x800) (by decide)
  have c2 := c.sub (K' := 0x60200040800) (by decide)
  have c3 := c.sub (K' := 0x10) (by decide)
  unfold portLost
  repeat' first
    | with_reducible assumption
    | with_reducible apply markPartial_keeps c1
    | with_reducible apply reissue_keeps c2
    | with_reducible apply modSeq_keeps c1
    | with_reducible apply switchRoutes_keeps c3
    | with_reducible refine fun _ => ?_
    | lift_lets -underBinder
    | (intro x; refine (fun hx : P x => ?_) ?_; clear_value x)
    | (intro x; refine (fun hx : P x.2 => ?_) ?_; clear_value x)
    | (intro x; refine (fun hx : P x.1 => ?_) ?_; clear_value x)
    | (intro x; refine (fun hx : P x.s => ?_) ?_; clear_value x)
    | (intro x; clear_value x)
    | intro _
    | split
    | dsimp -zeta only
    | dsimp -zeta +zetaDelta only
    | lift_lets
    | dsimp only

theorem isolatePort_keeps {P : State → Prop} (c : Closed 0x60200044810 P) (x1 : State) (x2) (h1 : P x1) :
    P (isolatePort x1 x2) := by
  have c1 := c.sub (K' := 0x40000) (by decide)
  have c2 := c.sub (K' := 0x60200000000) (by decide)
  have c3 := c.sub (K' := 0x60200040810) (by decide)
  have c4 := c.sub (K' := 0x20200004000) (by decide)
  unfold isolatePort
  repeat' first
    | with_reducible assumption
    | with_reducible apply modPort_keeps c1
    | with_reducible apply raiseOn_keeps c2
    | with_reducible apply portLost_keeps c3
    | with_reducible apply linkChangeOnce_keeps c4
    | with_reducible refine fun _ => ?_
    | lift_lets -underBinder
    | (intro x; refine (fun hx : P x => ?_) ?_; clear_value x)
    | (intro x; refine (fun hx : P x.2 => ?_) ?_; clear_value x)
    | (intro x; refine (fun hx : P x.1 => ?_) ?_; clear_value x)
    | (intro x; refine (fun hx : P x.s => ?_) ?_; clear_value x)
    | (intro x; clear_value x)
    | intro _
    | split
    | dsimp -zeta only
    | dsimp -zeta +zetaDelta only
    | lift_lets
    | dsimp only

theorem deadPort_keeps {P : State → Prop} (c : Closed 0x60200044810 P) (x1 : State) (x2) (x3) (h1 : P x1) :
    P (deadPort x1 x2 x3) := by
  have c1 := c.sub (K' := 0x40000) (by decide)
  have c2 := c.sub (K' := 0x60200040810) (by decide)
  have c3 := c.sub (K' := 0x20200004000) (by decide)
  unfold deadPort
  repeat' first
    | with_reducible assumption
    | with_reducible apply modPort_keeps c1
    | with_reducible apply portLost_keeps c2
    | with_reducible apply linkChangeOnce_keeps c3
    | with_reducible refine fun _ => ?_
    | lift_lets -underBinder
    | (intro x; refine (fun hx : P x => ?_) ?_; clear_value x)
    | (intro x; refine (fun hx : P x.2 => ?_) ?_; clear_value x)
    | (intro x; refine (fun hx : P x.1 => ?_) ?_; clear_value x)
    | (intro x; refine (fun hx : P x.s => ?_) ?_; clear_value x)
    | (intro x; clear_value x)
    | intro _
    | dsimp -zeta only
    | dsimp -zeta +zetaDelta only
    | lift_lets
    | dsimp only

theorem downPort_keeps {P : State → Prop} (c : Closed 0x60200044810 P) (x1 : State) (x2) (x3) (x4) (h1 : P x1) :
    P (downPort x1 x2 x3 x4) := by
  have c1 := c.sub (K' := 0x40000) (by decide)
  have c2 := c.sub (K' := 0x60200000000) (by decide)
  have c3 := c.sub (K' := 0x60200040810) (by decide)
  have c4 := c.sub (K' := 0x20200004000) (by decide)
  unfold downPort
  repeat' first
    | with_reducible assumption
    | with_reducible apply modPort_keeps c1
    | with_reducible apply raiseOn_keeps c2
    | with_reducible apply portLost_keeps c3
    | with_reducible apply linkChangeOnce_keeps c4
    | with_reducible refine fun _ => ?_
    | lift_lets -underBinder
    | (intro x; refine (fun hx : P x => ?_) ?_; clear_value x)
    | (intro x; refine (fun hx : P x.2 => ?_) ?_; clear_value x)
    | (intro x; refine (fun hx : P x.1 => ?_) ?_; clear_value x)
    | (intro x; refine (fun hx : P x.s => ?_) ?_; clear_value x)
    | (intro x; clear_value x)
    | intro _
    | dsimp -zeta only
    | dsimp -zeta +zetaDelta only
    | lift_lets
    | dsimp only

theorem failPort_keeps {P : State → Prop} (c : Closed 0x60200044810 P) (x1 : State) (x2) (x3) (h1 : P x1) :
    P (failPort x1 x2 x3) := by
  have c1 := c.sub (K' := 0x40000) (by decide)
  have c2 := c.sub (K' := 0x60200040810) (by decide)
  have c3 := c.sub (K' := 0x4000) (by decide)
  unfold failPort
  repeat' first
    | with_reducible assumption
    | with_reducible apply modPort_keeps c1
    | with_reducible apply portLost_keeps c2
    | with_reducible apply modBoot_keeps c3
    | with_reducible refine fun _ => ?_
    | lift_lets -underBinder
    | (intro x; refine (fun hx : P x => ?_) ?_; clear_value x)
    | (intro x; refine (fun hx : P x.2 => ?_) ?_; clear_value x)
    | (intro x; refine (fun hx : P x.1 => ?_) ?_; clear_value x)
    | (intro x; refine (fun hx : P x.s => ?_) ?_; clear_value x)
    | (intro x; clear_value x)
    | intro _
    | split
    | dsimp -zeta only
    | dsimp -zeta +zetaDelta only
    | lift_lets
    | dsimp only

theorem startRetrain_keeps {P : State → Prop} (c : Closed 0x40200 P) (x1 : State) (x2) (h1 : P x1) :
    P (startRetrain x1 x2) := by
  have c1 := c.sub (K' := 0x40000) (by decide)
  have c2 := c.sub (K' := 0x200) (by decide)
  unfold startRetrain
  repeat' first
    | with_reducible assumption
    | with_reducible apply modPort_keeps c1
    | with_reducible apply sendSb_keeps c2
    | with_reducible refine fun _ => ?_
    | lift_lets -underBinder
    | (intro x; refine (fun hx : P x => ?_) ?_; clear_value x)
    | (intro x; refine (fun hx : P x.2 => ?_) ?_; clear_value x)
    | (intro x; refine (fun hx : P x.1 => ?_) ?_; clear_value x)
    | (intro x; refine (fun hx : P x.s => ?_) ?_; clear_value x)
    | (intro x; clear_value x)
    | intro _
    | split
    | dsimp -zeta only
    | dsimp -zeta +zetaDelta only
    | lift_lets
    | dsimp only

theorem lecAdd_keeps {P : State → Prop} (c : Closed 0x60200044a10 P) (x1 : State) (x2) (x3) (h1 : P x1) :
    P (lecAdd x1 x2 x3) := by
  have c1 := c.sub (K' := 0x60200044810) (by decide)
  have c2 := c.sub (K' := 0x40000) (by decide)
  have c3 := c.sub (K' := 0x60200000000) (by decide)
  have c4 := c.sub (K' := 0x40200) (by decide)
  unfold lecAdd
  repeat' first
    | with_reducible assumption
    | with_reducible apply isolatePort_keeps c1
    | with_reducible apply modPort_keeps c2
    | with_reducible apply raiseOn_keeps c3
    | with_reducible apply startRetrain_keeps c4
    | with_reducible refine fun _ => ?_
    | lift_lets -underBinder
    | (intro x; refine (fun hx : P x => ?_) ?_; clear_value x)
    | (intro x; refine (fun hx : P x.2 => ?_) ?_; clear_value x)
    | (intro x; refine (fun hx : P x.1 => ?_) ?_; clear_value x)
    | (intro x; refine (fun hx : P x.s => ?_) ?_; clear_value x)
    | (intro x; clear_value x)
    | intro _
    | split
    | dsimp -zeta only
    | dsimp -zeta +zetaDelta only
    | lift_lets
    | dsimp only

theorem sbDie_keeps {P : State → Prop} (c : Closed 0x60200044810 P) (x1 : State) (x2) (h1 : P x1) :
    P (sbDie x1 x2) := by
  have c1 := c.sub (K' := 0x40000) (by decide)
  have c2 := c.sub (K' := 0x60200000000) (by decide)
  unfold sbDie
  repeat' first
    | with_reducible assumption
    | with_reducible apply modPort_keeps c1
    | with_reducible apply raiseOn_keeps c2
    | with_reducible apply deadPort_keeps c
    | with_reducible refine fun _ => ?_
    | lift_lets -underBinder
    | (intro x; refine (fun hx : P x => ?_) ?_; clear_value x)
    | (intro x; refine (fun hx : P x.2 => ?_) ?_; clear_value x)
    | (intro x; refine (fun hx : P x.1 => ?_) ?_; clear_value x)
    | (intro x; refine (fun hx : P x.s => ?_) ?_; clear_value x)
    | (intro x; clear_value x)
    | intro _
    | dsimp -zeta only
    | dsimp -zeta +zetaDelta only
    | lift_lets
    | dsimp only

theorem sbTake_keeps {P : State → Prop} (c : Closed 0x60200044810 P) (x1 : State) (x2) (h1 : P x1) :
    P (sbTake x1 x2).2 := by
  have c1 := c.sub (K' := 0x40000) (by decide)
  have c2 := c.sub (K' := 0x60200000000) (by decide)
  unfold sbTake
  repeat' first
    | with_reducible assumption
    | with_reducible apply modPort_keeps c1
    | with_reducible apply raiseOn_keeps c2
    | with_reducible apply sbDie_keeps c
    | with_reducible refine fun _ => ?_
    | lift_lets -underBinder
    | (intro x; refine (fun hx : P x => ?_) ?_; clear_value x)
    | (intro x; refine (fun hx : P x.2 => ?_) ?_; clear_value x)
    | (intro x; refine (fun hx : P x.1 => ?_) ?_; clear_value x)
    | (intro x; refine (fun hx : P x.s => ?_) ?_; clear_value x)
    | (intro x; clear_value x)
    | intro _
    | split
    | dsimp -zeta only
    | dsimp -zeta +zetaDelta only
    | lift_lets
    | dsimp only

theorem tokenBad_keeps {P : State → Prop} (c : Closed 0x60200000000 P) (x1 : State) (x2) (h1 : P x1) :
    P (tokenBad x1 x2) := by
  unfold tokenBad
  repeat' first
    | with_reducible assumption
    | with_reducible apply raiseOn_keeps c
    | dsimp -zeta only

theorem takeToken_keeps {P : State → Prop} (c : Closed 0x60200044a10 P) (x1 : State) (x2) (h1 : P x1) :
    P (takeToken x1 x2).2 := by
  have c1 := c.sub (K' := 0x60200000000) (by decide)
  have c2 := c.sub (K' := 0x60200044810) (by decide)
  have c3 := c.sub (K' := 0x200) (by decide)
  unfold takeToken
  repeat' first
    | with_reducible assumption
    | with_reducible apply raiseOn_keeps c1
    | with_reducible apply tokenBad_keeps c1
    | with_reducible apply sbTake_keeps c2
    | with_reducible apply sendSb_keeps c3
    | with_reducible refine snd_of (by assumption) ?_
    | split
    | dsimp -zeta only

theorem svcToken_keeps {P : State → Prop} (c : Closed 0x200 P) (x1 : State) (x2) (x3) (x4) (x5) (x6) (x7) (h1 : P x1) :
    P (svcToken x1 x2 x3 x4 x5 x6 x7) := by
  unfold svcToken
  repeat' first
    | with_reducible assumption
    | with_reducible apply sendSb_keeps c
    | split
    | dsimp -zeta only

theorem creditErr_keeps {P : State → Prop} (c : Closed 0x60200044a10 P) (x1 : State) (x2) (x3) (h1 : P x1) :
    P (creditErr x1 x2 x3) := by
  have c1 := c.sub (K' := 0x60200000000) (by decide)
  unfold creditErr
  repeat' first
    | with_reducible assumption
    | with_reducible apply lecAdd_keeps c
    | with_reducible apply raiseOn_keeps c1
    | split
    | dsimp -zeta only

theorem takeTrailer_keeps {P : State → Prop} (c : Closed 0x60200044a10 P) (x1 : State) (x2) (x3) (h1 : P x1) :
    P (takeTrailer x1 x2 x3) := by
  have c1 := c.sub (K' := 0x40000) (by decide)
  unfold takeTrailer
  repeat' first
    | with_reducible assumption
    | with_reducible apply modPort_keeps c1
    | with_reducible apply creditErr_keeps c
    | with_reducible refine fun _ => ?_
    | lift_lets -underBinder
    | (intro x; refine (fun hx : P x => ?_) ?_; clear_value x)
    | (intro x; refine (fun hx : P x.2 => ?_) ?_; clear_value x)
    | (intro x; refine (fun hx : P x.1 => ?_) ?_; clear_value x)
    | (intro x; refine (fun hx : P x.s => ?_) ?_; clear_value x)
    | (intro x; clear_value x)
    | intro _
    | split
    | dsimp -zeta only
    | dsimp -zeta +zetaDelta only
    | lift_lets
    | dsimp only

theorem freeBuffer_keeps {P : State → Prop} (c : Closed 0x40000 P) (x1 : State) (x2) (x3) (h1 : P x1) :
    P (freeBuffer x1 x2 x3) := by
  unfold freeBuffer
  repeat' first
    | with_reducible assumption
    | with_reducible apply modPort_keeps c
    | intro _
    | dsimp -zeta only

theorem sortParcel_keeps {P : State → Prop} (c : Closed 0x60200040000 P) (x1 : State) (x2) (x3) (h1 : P x1) :
    P (sortParcel x1 x2 x3).2 := by
  have c1 := c.sub (K' := 0x40000) (by decide)
  have c2 := c.sub (K' := 0x60200000000) (by decide)
  unfold sortParcel
  repeat' first
    | with_reducible assumption
    | with_reducible apply modPort_keeps c1
    | with_reducible apply raiseOn_keeps c2
    | with_reducible apply freeBuffer_keeps c1
    | with_reducible apply enqueueParcel_keeps c1
    | with_reducible refine fun _ => ?_
    | lift_lets -underBinder
    | (intro x; refine (fun hx : P x => ?_) ?_; clear_value x)
    | (intro x; refine (fun hx : P x.2 => ?_) ?_; clear_value x)
    | (intro x; refine (fun hx : P x.1 => ?_) ?_; clear_value x)
    | (intro x; refine (fun hx : P x.s => ?_) ?_; clear_value x)
    | (intro x; clear_value x)
    | split
    | dsimp -zeta only
    | dsimp -zeta +zetaDelta only
    | lift_lets
    | dsimp only

theorem sinkTake_keeps {P : State → Prop} (c : Closed 0x60200240000 P) (x1 : State) (x2) (h1 : P x1) :
    P (sinkTake x1 x2).2 := by
  have c1 := c.sub (K' := 0x40000) (by decide)
  have c2 := c.sub (K' := 0x60200040000) (by decide)
  have c3 := c.sub (K' := 0x200000) (by decide)
  unfold sinkTake
  repeat' first
    | with_reducible assumption
    | with_reducible apply modPort_keeps c1
    | with_reducible apply sortParcel_keeps c2
    | with_reducible apply modFab_keeps c3
    | with_reducible apply freeBuffer_keeps c1
    | with_reducible refine snd_of (by assumption) ?_
    | intro _
    | split
    | dsimp -zeta only

theorem linkReceive_keeps {P : State → Prop} (c : Closed 0x60200244a10 P) (x1 : State) (x2) (h1 : P x1) :
    P (linkReceive x1 x2).2 := by
  have c1 := c.sub (K' := 0x40000) (by decide)
  have c2 := c.sub (K' := 0x60200240000) (by decide)
  have c3 := c.sub (K' := 0x60200040000) (by decide)
  have c4 := c.sub (K' := 0x60200044a10) (by decide)
  unfold linkReceive
  repeat' first
    | with_reducible assumption
    | with_reducible apply modPort_keeps c1
    | with_reducible apply sinkTake_keeps c2
    | with_reducible apply sortParcel_keeps c3
    | with_reducible apply takeTrailer_keeps c4
    | with_reducible refine snd_of (by assumption) ?_
    | with_reducible refine fun _ => ?_
    | lift_lets -underBinder
    | (intro x; refine (fun hx : P x => ?_) ?_; clear_value x)
    | (intro x; refine (fun hx : P x.2 => ?_) ?_; clear_value x)
    | (intro x; refine (fun hx : P x.1 => ?_) ?_; clear_value x)
    | (intro x; refine (fun hx : P x.s => ?_) ?_; clear_value x)
    | (intro x; clear_value x)
    | intro _
    | split
    | dsimp -zeta only
    | dsimp -zeta +zetaDelta only
    | lift_lets
    | dsimp only

theorem onParcel_keeps {P : State → Prop} (c : Closed 0x60200244a10 P) (x1 : State) (x2) (x3) (x4) (x5 : State → Parcel → State) (h1 : P x1) (h5 : ∀ y0 y1, P y0 → P (x5 y0 y1)) :
    OnNext P (onParcel x1 x2 x3 x4 x5) := by
  unfold onParcel
  repeat' first
    | with_reducible assumption
    | with_reducible apply OnNext.unit
    | with_reducible apply OnNext.next
    | with_reducible apply OnNext.fault
    | with_reducible apply linkReceive_keeps c
    | with_reducible refine snd_of (by assumption) ?_
    | intro _
    | split
    | with_reducible apply_assumption
    | dsimp -zeta only

theorem onMsg_keeps {P : State → Prop} (c : Closed 0x60200244a10 P) (x1 : State) (x2) (x3) (x4 : State → Parcel → State) (h1 : P x1) (h4 : ∀ y0 y1, P y0 → P (x4 y0 y1)) :
    OnNext P (onMsg x1 x2 x3 x4) := by
  unfold onMsg
  repeat' first
    | with_reducible assumption
    | with_reducible apply OnNext.unit
    | with_reducible apply OnNext.next
    | with_reducible apply OnNext.fault
    | with_reducible apply onParcel_keeps c
    | intro _
    | split
    | with_reducible apply_assumption
    | dsimp -zeta only

theorem onToken_keeps {P : State → Prop} (c : Closed 0x60200044a10 P) (x1 : State) (x2) (x3) (x4 : State → BitVec 48 → State) (h1 : P x1) (h4 : ∀ y0 y1, P y0 → P (x4 y0 y1)) :
    OnNext P (onToken x1 x2 x3 x4) := by
  unfold onToken
  repeat' first
    | with_reducible assumption
    | with_reducible apply OnNext.unit
    | with_reducible apply OnNext.next
    | with_reducible apply OnNext.fault
    | with_reducible apply takeToken_keeps c
    | with_reducible refine snd_of (by assumption) ?_
    | intro _
    | split
    | with_reducible apply_assumption
    | dsimp -zeta only

end Sys2Proof.Laws
end

