-- ==== Sys2Proof/Laws/KeepsLedgerOps.lean ====
section
/-! SUPPORT. What each function of Machine/LedgerOps.lean can change: a predicate closed under its changes survives it. -/
namespace Sys2Proof.Laws
open Sys2Proof Sys2Proof.Machine

theorem localWrite_clean {l : LedgerLine} (h : ¬(l.dx = true ∧ l.dp = true)) (off : Nat) (bs : List Byte) :
    ¬((localWrite l off bs).dx = true ∧ (localWrite l off bs).dp = true) := by
  unfold localWrite startLine setPending
  cases hx : l.dx <;> cases hp : l.dp <;> cases hd : l.dl <;> cases hs : l.sel <;> simp_all

theorem mergeLine_clean {l : LedgerLine} (_ : ¬(l.dx = true ∧ l.dp = true)) (v : BitVec 512) :
    ¬((mergeLine l v).dx = true ∧ (mergeLine l v).dp = true) := by
  unfold mergeLine startLine setPending
  cases hx : l.dx <;> cases hp : l.dp <;> cases hd : l.dl <;> cases hs : l.sel <;> simp_all

theorem markLine_clean {l : LedgerLine} (h : ¬(l.dx = true ∧ l.dp = true)) :
    ¬((markLine l).dx = true ∧ (markLine l).dp = true) := by
  unfold markLine setPending
  cases hx : l.dx <;> cases hp : l.dp <;> cases hd : l.dl <;> cases hs : l.sel <;> simp_all

theorem mapLines_clean {f : LedgerLine → LedgerLine} (hf : ∀ l, ¬(l.dx = true ∧ l.dp = true) → ¬((f l).dx = true ∧ (f l).dp = true))
    {m : List (Nat × LedgerLine)} (h : ∀ e ∈ m, ¬(e.2.dx = true ∧ e.2.dp = true)) :
    ∀ e ∈ mapLines f m, ¬(e.2.dx = true ∧ e.2.dp = true) := by
  intro e he
  have hm := (List.mem_filter.1 he).1
  obtain ⟨a, ha, rfl⟩ := List.mem_map.1 hm
  exact hf a.2 (h a ha)

theorem mget_clean {m : List (Nat × LedgerLine)} (h : ∀ e ∈ m, ¬(e.2.dx = true ∧ e.2.dp = true)) (i : Nat) :
    ¬((mget {} m i).dx = true ∧ (mget {} m i).dp = true) := by
  induction m with
  | nil => simp [mget]
  | cons e m ih =>
    obtain ⟨k, v⟩ := e
    simp only [mget]
    split
    · exact h (k, v) (List.mem_cons_self ..)
    · exact ih fun e he => h e (List.mem_cons_of_mem _ he)

theorem modLine_keeps {P : State → Prop} (c : Closed 0x2000 P) (x1 : State) (x2) (x3) (x4)
    (hx : ∀ l, ¬(l.dx = true ∧ l.dp = true) → ¬((x4 l).dx = true ∧ (x4 l).dp = true)) (h1 : P x1) :
    P (modLine x1 x2 x3 x4) := by
  refine modLedger_keeps c _ _ _ (fun h e he => ?_) h1
  rcases mem_mset _ _ _ _ _ he with he | rfl
  · exact h e he
  · exact hx _ (mget_clean h x3)

theorem ledgerMark_keeps {P : State → Prop} (c : Closed 0x2000 P) (x1 : State) (x2) (h1 : P x1) :
    P (ledgerMark x1 x2).2 := by
  exact modLedger_keeps c _ _ _ (fun h => mapLines_clean (fun l hl => markLine_clean hl) h) h1

theorem ledgerCommit_keeps {P : State → Prop} (c : Closed 0x2000 P) (x1 : State) (x2) (h1 : P x1) :
    P (ledgerCommit x1 x2) := by
  exact modLedger_keeps c _ _ _ (fun h => mapLines_clean (fun l _ => by simp [commitLine]) h) h1

theorem ledgerDiscard_keeps {P : State → Prop} (c : Closed 0x2000 P) (x1 : State) (x2) (h1 : P x1) :
    P (ledgerDiscard x1 x2) := by
  exact modLedger_keeps c _ _ _ (fun h => mapLines_clean (fun l _ => by simp [discardLine]) h) h1

theorem ledgerLocal_keeps {P : State → Prop} (c : Closed 0x2000 P) (x1 : State) (x2) (x3) (x4) (x5) (h1 : P x1) :
    P (ledgerLocal x1 x2 x3 x4 x5) := by
  exact modLine_keeps c _ _ _ _ (fun l hl => localWrite_clean hl _ _) h1

theorem ledgerStore_keeps {P : State → Prop} (c : Closed 0x2000 P) (x1 : State) (x2) (x3) (x4) (x5) (h1 : P x1) :
    P (ledgerStore x1 x2 x3 x4 x5) := by
  fun_induction ledgerStore x1 x2 x3 x4 x5
  all_goals repeat' first
    | with_reducible assumption
    | with_reducible apply ledgerLocal_keeps c
    | with_reducible refine fun _ => ?_
    | lift_lets -underBinder
    | (intro x; refine (fun hx : P x => ?_) ?_; clear_value x)
    | (intro x; refine (fun hx : P x.2 => ?_) ?_; clear_value x)
    | (intro x; refine (fun hx : P x.1 => ?_) ?_; clear_value x)
    | (intro x; refine (fun hx : P x.s => ?_) ?_; clear_value x)
    | (intro x; clear_value x)
    | intro _
    | split
    | with_reducible apply_assumption
    | dsimp -zeta only
    | dsimp -zeta +zetaDelta only
    | lift_lets
    | dsimp only

theorem ledgerClear_keeps {P : State → Prop} (c : Closed 0x2000 P) (x1 : State) (x2) (x3) (x4) (h1 : P x1) :
    P (ledgerClear x1 x2 x3 x4) := by
  exact foldl_keeps (fun t i ht => modLine_keeps c _ _ _ _ (fun l hl => mergeLine_clean hl _) ht) _ _ h1

theorem execLedgerLocalWrite_keeps {P : State → Prop} (c : Closed 0x2000 P) (x1) (x2) (x3) (x4) (x5 : State) (h5 : P x5) :
    OnNext P (execLedgerLocalWrite x1 x2 x3 x4 x5) := by
  unfold execLedgerLocalWrite
  repeat' first
    | with_reducible assumption
    | with_reducible apply OnNext.unit
    | with_reducible apply OnNext.next
    | with_reducible apply OnNext.fault
    | with_reducible apply ledgerLocal_keeps c
    | dsimp -zeta only

theorem onCd_keeps {P : State → Prop} (_c : Closed 0x0 P) (x1) (x2 : State) (x3 : State → Nat → State) (h2 : P x2) (h3 : ∀ y0 y1, P y0 → P (x3 y0 y1)) :
    P (onCd x1 x2 x3) := by
  unfold onCd
  repeat' first
    | with_reducible assumption
    | intro _
    | split
    | with_reducible apply_assumption
    | dsimp -zeta only

theorem execLedgerWrite_keeps {P : State → Prop} (c : Closed 0x60200246a10 P) (x1) (x2 : State) (h2 : P x2) :
    OnNext P (execLedgerWrite x1 x2) := by
  have c1 := c.sub (K' := 0x2000) (by decide)
  have c2 := c.sub (K' := 0x0) (by decide)
  have c3 := c.sub (K' := 0x60200244a10) (by decide)
  unfold execLedgerWrite
  repeat' first
    | with_reducible assumption
    | with_reducible apply OnNext.unit
    | with_reducible apply OnNext.next
    | with_reducible apply OnNext.fault
    | with_reducible apply modLine_keeps c1
    | with_reducible apply onCd_keeps c2
    | with_reducible apply onParcel_keeps c3
    | exact mergeLine_clean ‹_› _
    | exact localWrite_clean ‹_› _ _
    | intro _
    | dsimp -zeta only

theorem execHandoverClear_keeps {P : State → Prop} (c : Closed 0x60200246a10 P) (x1) (x2 : State) (h2 : P x2) :
    OnNext P (execHandoverClear x1 x2) := by
  have c1 := c.sub (K' := 0x0) (by decide)
  have c2 := c.sub (K' := 0x60200244a10) (by decide)
  have c3 := c.sub (K' := 0x2000) (by decide)
  unfold execHandoverClear
  repeat' first
    | with_reducible assumption
    | with_reducible apply OnNext.unit
    | with_reducible apply OnNext.next
    | with_reducible apply OnNext.fault
    | with_reducible apply onCd_keeps c1
    | with_reducible apply onMsg_keeps c2
    | with_reducible apply ledgerClear_keeps c3
    | intro _
    | dsimp -zeta only

end Sys2Proof.Laws
end

