-- ==== Sys2Proof/Laws/KeepsPeerOps.lean ====
section
/-! SUPPORT. What each function of Machine/PeerOps.lean can change: a predicate closed under its changes survives it. -/
namespace Sys2Proof.Laws
open Sys2Proof Sys2Proof.Machine

theorem sendDgram_keeps {P : State → Prop} (c : Closed 0x20200000200 P) (x1 : State) (h1 : P x1) :
    P (sendDgram x1) := by
  have c1 := c.sub (K' := 0x200000000) (by decide)
  have c2 := c.sub (K' := 0x200) (by decide)
  have c3 := c.sub (K' := 0x20200000000) (by decide)
  unfold sendDgram
  repeat' first
    | with_reducible assumption
    | with_reducible apply dropRecords_keeps c1
    | with_reducible apply emit_keeps c2
    | with_reducible apply modRecs_keeps c1
    | with_reducible apply raise_keeps c3
    | with_reducible apply fillDgram_keeps c1
    | with_reducible refine fun _ => ?_
    | lift_lets -underBinder
    | (intro x; refine (fun hx : P x => ?_) ?_; clear_value x)
    | (intro x; refine (fun hx : P x.2 => ?_) ?_; clear_value x)
    | (intro x; refine (fun hx : P x.1 => ?_) ?_; clear_value x)
    | (intro x; refine (fun hx : P x.s => ?_) ?_; clear_value x)
    | (intro x; clear_value x)
    | with_reducible apply foldl_keeps
    | with_reducible apply foldl_keeps_fst
    | with_reducible apply foldl_keeps_snd
    | intro _
    | split
    | dsimp -zeta only
    | dsimp -zeta +zetaDelta only
    | lift_lets
    | dsimp only

theorem closeDgram_keeps {P : State → Prop} (c : Closed 0x200000000 P) (x1 : State) (h1 : P x1) :
    P (closeDgram x1) := by
  unfold closeDgram
  repeat' first
    | with_reducible assumption
    | with_reducible apply modRecs_keeps c
    | intro _
    | dsimp -zeta only

theorem sendPeer_keeps {P : State → Prop} (c : Closed 0x200 P) (x1 : State) (x2) (x3) (x4) (h1 : P x1) :
    P (sendPeer x1 x2 x3 x4) := by
  unfold sendPeer
  repeat' first
    | with_reducible assumption
    | with_reducible apply emit_keeps c
    | split
    | dsimp -zeta only

theorem sendBye_keeps {P : State → Prop} (c : Closed 0x200 P) (x1 : State) (h1 : P x1) :
    P (sendBye x1) := by
  unfold sendBye
  repeat' first
    | with_reducible assumption
    | with_reducible apply sendPeer_keeps c
    | split
    | dsimp -zeta only

theorem peerDrop_keeps {P : State → Prop} (c : Closed 0x400000000 P) (x1 : State) (h1 : P x1) :
    P (peerDrop x1) := by
  unfold peerDrop
  repeat' first
    | with_reducible assumption
    | with_reducible apply modPeers_keeps c
    | intro _
    | dsimp -zeta only

theorem peerGate_keeps {P : State → Prop} (c : Closed 0x20600000000 P) (x1 : State) (x2) (x3 : State → State) (h1 : P x1) (h3 : ∀ y0, P y0 → P (x3 y0)) :
    P (peerGate x1 x2 x3) := by
  have c1 := c.sub (K' := 0x400000000) (by decide)
  have c2 := c.sub (K' := 0x20200000000) (by decide)
  unfold peerGate
  repeat' first
    | with_reducible assumption
    | with_reducible apply modPeers_keeps c1
    | with_reducible apply peerDrop_keeps c1
    | with_reducible apply raise_keeps c2
    | intro _
    | split
    | with_reducible apply_assumption
    | dsimp -zeta only

theorem peerRemove_keeps {P : State → Prop} (c : Closed 0x400000000 P) (x1 : State) (x2) (h1 : P x1) :
    P (peerRemove x1 x2) := by
  unfold peerRemove
  repeat' first
    | with_reducible assumption
    | with_reducible apply modPeers_keeps c
    | intro _
    | dsimp -zeta only

theorem peerRefresh_keeps {P : State → Prop} (c : Closed 0x20600000000 P) (x1 : State) (x2) (h1 : P x1) :
    P (peerRefresh x1 x2) := by
  have c1 := c.sub (K' := 0x400000000) (by decide)
  have c2 := c.sub (K' := 0x20200000000) (by decide)
  unfold peerRefresh
  repeat' first
    | with_reducible assumption
    | with_reducible apply modPeers_keeps c1
    | with_reducible apply raise_keeps c2
    | with_reducible refine fun _ => ?_
    | lift_lets -underBinder
    | (intro x; refine (fun hx : P x => ?_) ?_; clear_value x)
    | (intro x; refine (fun hx : P x.2 => ?_) ?_; clear_value x)
    | (intro x; refine (fun hx : P x.1 => ?_) ?_; clear_value x)
    | (intro x; refine (fun hx : P x.s => ?_) ?_; clear_value x)
    | (intro x; clear_value x)
    | intro _
    | split
    | dsimp -zeta only
    | dsimp -zeta +zetaDelta only
    | lift_lets
    | dsimp only

theorem takeAnnounce_keeps {P : State → Prop} (c : Closed 0x20600000000 P) (x1 : State) (x2) (x3) (h1 : P x1) :
    P (takeAnnounce x1 x2 x3) := by
  have c1 := c.sub (K' := 0x400000000) (by decide)
  unfold takeAnnounce
  repeat' first
    | with_reducible assumption
    | with_reducible apply modPeers_keeps c1
    | with_reducible apply peerDrop_keeps c1
    | with_reducible apply peerRemove_keeps c1
    | with_reducible apply peerRefresh_keeps c
    | intro _
    | split
    | dsimp -zeta only

theorem stageItem_keeps {P : State → Prop} (c : Closed 0x20600000000 P) (x1 : State) (x2) (h1 : P x1) :
    P (stageItem x1 x2) := by
  have c1 := c.sub (K' := 0x400000000) (by decide)
  have c2 := c.sub (K' := 0x20200000000) (by decide)
  unfold stageItem
  repeat' first
    | with_reducible assumption
    | with_reducible apply modPeers_keeps c1
    | with_reducible apply raise_keeps c2
    | intro _
    | split
    | dsimp -zeta only

theorem embedDgrams_keeps {P : State → Prop} (c : Closed 0x200 P) (x1) (x2 : State) (x3) (h2 : P x2) :
    P (embedDgrams x1 x2 x3) := by
  fun_induction embedDgrams x1 x2 x3
  all_goals repeat' first
    | with_reducible assumption
    | with_reducible apply sendPeer_keeps c
    | intro _
    | with_reducible apply_assumption
    | dsimp -zeta only

theorem sendEmbeds_keeps {P : State → Prop} (c : Closed 0x600000200 P) (x1 : State) (h1 : P x1) :
    P (sendEmbeds x1) := by
  have c1 := c.sub (K' := 0x200) (by decide)
  have c2 := c.sub (K' := 0x400000000) (by decide)
  have c3 := c.sub (K' := 0x200000000) (by decide)
  unfold sendEmbeds
  repeat' first
    | with_reducible assumption
    | with_reducible apply embedDgrams_keeps c1
    | with_reducible apply modPeers_keeps c2
    | with_reducible apply modRecs_keeps c3
    | with_reducible refine fun _ => ?_
    | lift_lets -underBinder
    | (intro x; refine (fun hx : P x => ?_) ?_; clear_value x)
    | (intro x; refine (fun hx : P x.2 => ?_) ?_; clear_value x)
    | (intro x; refine (fun hx : P x.1 => ?_) ?_; clear_value x)
    | (intro x; refine (fun hx : P x.s => ?_) ?_; clear_value x)
    | (intro x; clear_value x)
    | intro _
    | split
    | dsimp -zeta only
    | dsimp -zeta +zetaDelta only
    | lift_lets
    | dsimp only

theorem releaseRecords_keeps {P : State → Prop} (c : Closed 0x600000200 P) (x1 : State) (h1 : P x1) :
    P (releaseRecords x1) := by
  have c1 := c.sub (K' := 0x200000000) (by decide)
  unfold releaseRecords
  repeat' first
    | with_reducible assumption
    | with_reducible apply sendEmbeds_keeps c
    | with_reducible apply modRecs_keeps c1
    | with_reducible apply fillDgram_keeps c1
    | intro _
    | split
    | dsimp -zeta only

theorem flushNow_keeps {P : State → Prop} (c : Closed 0x600000200 P) (x1 : State) (h1 : P x1) :
    P (flushNow x1) := by
  have c1 := c.sub (K' := 0x200000000) (by decide)
  unfold flushNow
  repeat' first
    | with_reducible assumption
    | with_reducible apply releaseRecords_keeps c
    | with_reducible apply closeDgram_keeps c1
    | dsimp -zeta only

theorem writeEntry_keeps {P : State → Prop} (c : Closed 0x60200040000 P) (x1 : State) (x2) (x3) (x4) (x5) (h1 : P x1) :
    P (writeEntry x1 x2 x3 x4 x5) := by
  unfold writeEntry
  repeat' first
    | with_reducible assumption
    | with_reducible apply sendParcel_keeps c
    | with_reducible refine fun _ => ?_
    | (intro x; refine (fun hx : ∀ t a0 a1, P t → P (x t a0 a1) => ?_) ?_; clear_value x)
    | lift_lets -underBinder
    | (intro x; refine (fun hx : P x => ?_) ?_; clear_value x)
    | (intro x; refine (fun hx : P x.2 => ?_) ?_; clear_value x)
    | (intro x; refine (fun hx : P x.1 => ?_) ?_; clear_value x)
    | (intro x; refine (fun hx : P x.s => ?_) ?_; clear_value x)
    | (intro x; clear_value x)
    | with_reducible apply_assumption
    | dsimp -zeta only
    | dsimp -zeta +zetaDelta only
    | lift_lets
    | dsimp only

theorem mergeItem_keeps {P : State → Prop} (c : Closed 0x60600040800 P) (x1 : State) (x2) (x3) (x4) (h1 : P x1) :
    P (mergeItem x1 x2 x3 x4) := by
  have c1 := c.sub (K' := 0x800) (by decide)
  have c2 := c.sub (K' := 0x400000000) (by decide)
  have c3 := c.sub (K' := 0x60200040000) (by decide)
  unfold mergeItem
  repeat' first
    | with_reducible assumption
    | with_reducible apply modSeq_keeps c1
    | with_reducible apply modPeers_keeps c2
    | with_reducible apply writeEntry_keeps c3
    | with_reducible refine fun _ => ?_
    | lift_lets -underBinder
    | (intro x; refine (fun hx : P x => ?_) ?_; clear_value x)
    | (intro x; refine (fun hx : P x.2 => ?_) ?_; clear_value x)
    | (intro x; refine (fun hx : P x.1 => ?_) ?_; clear_value x)
    | (intro x; refine (fun hx : P x.s => ?_) ?_; clear_value x)
    | (intro x; clear_value x)
    | intro _
    | split
    | dsimp -zeta only
    | dsimp -zeta +zetaDelta only
    | lift_lets
    | dsimp only

theorem feedMerge_keeps {P : State → Prop} (c : Closed 0x60600040800 P) (x1 : State) (x2) (h1 : P x1) :
    P (feedMerge x1 x2) := by
  have c1 := c.sub (K' := 0x400000000) (by decide)
  have c2 := c.sub (K' := 0x60200040000) (by decide)
  unfold feedMerge
  repeat' first
    | with_reducible assumption
    | with_reducible apply modPeers_keeps c1
    | with_reducible apply writeEntry_keeps c2
    | with_reducible apply mergeItem_keeps c
    | intro _
    | split
    | dsimp -zeta only

theorem openMerge_keeps {P : State → Prop} (c : Closed 0x400000800 P) (x1 : State) (h1 : P x1) :
    P (openMerge x1) := by
  have c1 := c.sub (K' := 0x800) (by decide)
  have c2 := c.sub (K' := 0x400000000) (by decide)
  unfold openMerge
  repeat' first
    | with_reducible assumption
    | with_reducible apply modSeq_keeps c1
    | with_reducible apply modPeers_keeps c2
    | with_reducible refine fun _ => ?_
    | lift_lets -underBinder
    | (intro x; refine (fun hx : P x => ?_) ?_; clear_value x)
    | (intro x; refine (fun hx : P x.2 => ?_) ?_; clear_value x)
    | (intro x; refine (fun hx : P x.1 => ?_) ?_; clear_value x)
    | (intro x; refine (fun hx : P x.s => ?_) ?_; clear_value x)
    | (intro x; clear_value x)
    | intro _
    | dsimp -zeta only
    | dsimp -zeta +zetaDelta only
    | lift_lets
    | dsimp only

theorem clearPeerArea_keeps {P : State → Prop} (c : Closed 0x400000000 P) (x1 : State) (x2) (h1 : P x1) :
    P (clearPeerArea x1 x2) := by
  unfold clearPeerArea
  repeat' first
    | with_reducible assumption
    | with_reducible apply modPeers_keeps c
    | intro _
    | dsimp -zeta only

theorem mergeCommitted_keeps {P : State → Prop} (c : Closed 0x400000800 P) (x1 : State) (x2) (h1 : P x1) :
    P (mergeCommitted x1 x2) := by
  have c1 := c.sub (K' := 0x800) (by decide)
  have c2 := c.sub (K' := 0x400000000) (by decide)
  unfold mergeCommitted
  repeat' first
    | with_reducible assumption
    | with_reducible apply modSeq_keeps c1
    | with_reducible apply modPeers_keeps c2
    | intro _
    | dsimp -zeta only

theorem mergeDiscarded_keeps {P : State → Prop} (c : Closed 0x400000800 P) (x1 : State) (x2) (h1 : P x1) :
    P (mergeDiscarded x1 x2) := by
  have c1 := c.sub (K' := 0x800) (by decide)
  have c2 := c.sub (K' := 0x400000000) (by decide)
  unfold mergeDiscarded
  repeat' first
    | with_reducible assumption
    | with_reducible apply modSeq_keeps c1
    | with_reducible apply modPeers_keeps c2
    | with_reducible refine fun _ => ?_
    | lift_lets -underBinder
    | (intro x; refine (fun hx : P x => ?_) ?_; clear_value x)
    | (intro x; refine (fun hx : P x.2 => ?_) ?_; clear_value x)
    | (intro x; refine (fun hx : P x.1 => ?_) ?_; clear_value x)
    | (intro x; refine (fun hx : P x.s => ?_) ?_; clear_value x)
    | (intro x; clear_value x)
    | intro _
    | dsimp -zeta only
    | dsimp -zeta +zetaDelta only
    | lift_lets
    | dsimp only

end Sys2Proof.Laws
end

