-- ==== Sys2Proof/Laws/KeepsLaunchOps.lean ====
section
/-! SUPPORT. What each function of Machine/LaunchOps.lean can change: a predicate closed under its changes survives it. -/
namespace Sys2Proof.Laws
open Sys2Proof Sys2Proof.Machine

theorem missEntry_keeps {P : State → Prop} (c : Closed 0x1800 P) (x1 : State) (x2) (h1 : P x1) :
    P (missEntry x1 x2) := by
  have c1 := c.sub (K' := 0x1000) (by decide)
  have c2 := c.sub (K' := 0x800) (by decide)
  unfold missEntry
  repeat' first
    | with_reducible assumption
    | with_reducible apply modDie_keeps c1
    | with_reducible apply markDegraded_keeps c2
    | intro _
    | dsimp -zeta only

theorem noteLateness_keeps {P : State → Prop} (c : Closed 0x1000 P) (x1 : State) (x2) (x3) (x4) (h1 : P x1) :
    P (noteLateness x1 x2 x3 x4) := by
  unfold noteLateness
  repeat' first
    | with_reducible assumption
    | with_reducible apply modDie_keeps c
    | intro _
    | dsimp -zeta only

theorem lateEntry_keeps {P : State → Prop} (c : Closed 0x1800 P) (x1 : State) (x2) (h1 : P x1) :
    P (lateEntry x1 x2) := by
  have c1 := c.sub (K' := 0x1000) (by decide)
  have c2 := c.sub (K' := 0x800) (by decide)
  unfold lateEntry
  repeat' first
    | with_reducible assumption
    | with_reducible apply modDie_keeps c1
    | with_reducible apply modSeq_keeps c2
    | with_reducible apply markDegraded_keeps c2
    | with_reducible refine fun _ => ?_
    | lift_lets -underBinder
    | (intro x; refine (fun hx : P x => ?_) ?_; clear_value x)
    | (intro x; refine (fun hx : P x.2 => ?_) ?_; clear_value x)
    | (intro x; refine (fun hx : P x.1 => ?_) ?_; clear_value x)
    | (intro x; refine (fun hx : P x.s => ?_) ?_; clear_value x)
    | (intro x; clear_value x)
    | intro _
    | dsimp -zeta only
    | dsimp -zeta +zetaDelta only
    | lift_lets
    | dsimp only

theorem modUnit_keeps {P : State → Prop} (c : Closed 0x1000 P) (x1 : State) (x2) (x3) (x4) (h1 : P x1) :
    P (modUnit x1 x2 x3 x4) := by
  unfold modUnit
  repeat' first
    | with_reducible assumption
    | with_reducible apply modDie_keeps c
    | intro _
    | dsimp -zeta only

theorem unitDone_keeps {P : State → Prop} (c : Closed 0x1000 P) (x1 : State) (x2) (x3) (h1 : P x1) :
    P (unitDone x1 x2 x3) := by
  unfold unitDone
  repeat' first
    | with_reducible assumption
    | with_reducible apply modUnit_keeps c
    | intro _
    | dsimp -zeta only

theorem startEntry_keeps {P : State → Prop} (c : Closed 0x1800 P) (x1 : State) (x2) (x3) (x4) (x5 : State → Die → Nat → Launched → State) (h1 : P x1) (h5 : ∀ y0 y1 y2 y3, P y0 → P (x5 y0 y1 y2 y3)) :
    P (startEntry x1 x2 x3 x4 x5) := by
  have c1 := c.sub (K' := 0x1000) (by decide)
  unfold startEntry
  repeat' first
    | with_reducible assumption
    | with_reducible apply lateEntry_keeps c
    | with_reducible apply modUnit_keeps c1
    | with_reducible apply noteLateness_keeps c1
    | with_reducible refine fun _ => ?_
    | lift_lets -underBinder
    | (intro x; refine (fun hx : P x => ?_) ?_; clear_value x)
    | (intro x; refine (fun hx : P x.2 => ?_) ?_; clear_value x)
    | (intro x; refine (fun hx : P x.1 => ?_) ?_; clear_value x)
    | (intro x; refine (fun hx : P x.s => ?_) ?_; clear_value x)
    | (intro x; clear_value x)
    | intro _
    | split
    | with_reducible apply_assumption
    | dsimp -zeta only
    | dsimp -zeta +zetaDelta only
    | lift_lets
    | dsimp only

theorem launchOne_keeps {P : State → Prop} (c : Closed 0x1800 P) (x1 : State) (x2) (x3) (x4 : State → Die → Nat → Launched → State) (x5) (h1 : P x1) (h4 : ∀ y0 y1 y2 y3, P y0 → P (x4 y0 y1 y2 y3)) :
    P (launchOne x1 x2 x3 x4 x5).2 := by
  have c1 := c.sub (K' := 0x1000) (by decide)
  unfold launchOne
  repeat' first
    | with_reducible assumption
    | with_reducible apply modUnit_keeps c1
    | with_reducible apply startEntry_keeps c
    | with_reducible refine fun _ => ?_
    | lift_lets -underBinder
    | (intro x; refine (fun hx : P x => ?_) ?_; clear_value x)
    | (intro x; refine (fun hx : P x.2 => ?_) ?_; clear_value x)
    | (intro x; refine (fun hx : P x.1 => ?_) ?_; clear_value x)
    | (intro x; refine (fun hx : P x.s => ?_) ?_; clear_value x)
    | (intro x; clear_value x)
    | intro _
    | split
    | with_reducible apply_assumption
    | dsimp -zeta only
    | dsimp -zeta +zetaDelta only
    | lift_lets
    | dsimp only

theorem launchAll_keeps {P : State → Prop} (c : Closed 0x60200001800 P) (x1 : State) (x2) (x3) (x4 : State → Die → Nat → Launched → State) (x5) (x6) (h1 : P x1) (h4 : ∀ y0 y1 y2 y3, P y0 → P (x4 y0 y1 y2 y3)) :
    P (launchAll x1 x2 x3 x4 x5 x6) := by
  have c1 := c.sub (K' := 0x60200000000) (by decide)
  have c2 := c.sub (K' := 0x1800) (by decide)
  fun_induction launchAll x1 x2 x3 x4 x5 x6
  all_goals repeat' first
    | with_reducible assumption
    | with_reducible apply raiseOn_keeps c1
    | with_reducible apply missEntry_keeps c2
    | with_reducible apply launchOne_keeps c2
    | with_reducible refine snd_of (by assumption) ?_
    | with_reducible refine fun _ => ?_
    | lift_lets -underBinder
    | (intro x; refine (fun hx : P x => ?_) ?_; clear_value x)
    | (intro x; refine (fun hx : P x.2 => ?_) ?_; clear_value x)
    | (intro x; refine (fun hx : P x.1 => ?_) ?_; clear_value x)
    | (intro x; refine (fun hx : P x.s => ?_) ?_; clear_value x)
    | (intro x; clear_value x)
    | intro _
    | split
    | with_reducible apply_assumption
    | dsimp -zeta only
    | dsimp -zeta +zetaDelta only
    | lift_lets
    | dsimp only

theorem takeLaunch_keeps {P : State → Prop} (c : Closed 0x60200001800 P) (x1 : State) (x2) (x3) (x4) (x5 : State → Die → Nat → Launched → State) (h1 : P x1) (h5 : ∀ y0 y1 y2 y3, P y0 → P (x5 y0 y1 y2 y3)) :
    P (takeLaunch x1 x2 x3 x4 x5) := by
  have c1 := c.sub (K' := 0x60200000000) (by decide)
  have c2 := c.sub (K' := 0x1800) (by decide)
  unfold takeLaunch
  repeat' first
    | with_reducible assumption
    | with_reducible apply launchAll_keeps c
    | with_reducible apply raiseOn_keeps c1
    | with_reducible apply missEntry_keeps c2
    | with_reducible refine fun _ => ?_
    | lift_lets -underBinder
    | (intro x; refine (fun hx : P x => ?_) ?_; clear_value x)
    | (intro x; refine (fun hx : P x.2 => ?_) ?_; clear_value x)
    | (intro x; refine (fun hx : P x.1 => ?_) ?_; clear_value x)
    | (intro x; refine (fun hx : P x.s => ?_) ?_; clear_value x)
    | (intro x; clear_value x)
    | intro _
    | split
    | with_reducible apply_assumption
    | dsimp -zeta only
    | dsimp -zeta +zetaDelta only
    | lift_lets
    | dsimp only

theorem onLaunch_keeps {P : State → Prop} (c : Closed 0x60200045a10 P) (x1 : State) (x2) (x3) (x4) (x5) (x6 : State → Die → Nat → Launched → State) (h1 : P x1) (h6 : ∀ y0 y1 y2 y3, P y0 → P (x6 y0 y1 y2 y3)) :
    OnNext P (onLaunch x1 x2 x3 x4 x5 x6) := by
  have c1 := c.sub (K' := 0x60200001800) (by decide)
  have c2 := c.sub (K' := 0x60200044a10) (by decide)
  unfold onLaunch
  repeat' first
    | with_reducible assumption
    | with_reducible apply OnNext.unit
    | with_reducible apply OnNext.next
    | with_reducible apply OnNext.fault
    | with_reducible apply takeLaunch_keeps c1
    | with_reducible apply onToken_keeps c2
    | intro _
    | split
    | with_reducible apply_assumption
    | dsimp -zeta only

theorem dropOutbound_keeps {P : State → Prop} (c : Closed 0x40000 P) (x1 : State) (x2) (h1 : P x1) :
    P (dropOutbound x1 x2) := by
  unfold dropOutbound
  repeat' first
    | with_reducible assumption
    | with_reducible apply modPort_keeps c
    | with_reducible apply foldl_keeps
    | with_reducible apply foldl_keeps_fst
    | with_reducible apply foldl_keeps_snd
    | intro _
    | dsimp -zeta only

theorem dropCache_keeps {P : State → Prop} (c : Closed 0x200000 P) (x1 : State) (x2) (h1 : P x1) :
    P (dropCache x1 x2) := by
  unfold dropCache
  repeat' first
    | with_reducible assumption
    | with_reducible apply modFab_keeps c
    | intro _
    | split
    | dsimp -zeta only

theorem sendDrained_keeps {P : State → Prop} (c : Closed 0x60200041000 P) (x1 : State) (x2) (x3) (x4) (x5) (h1 : P x1) :
    P (sendDrained x1 x2 x3 x4 x5) := by
  have c1 := c.sub (K' := 0x60200040000) (by decide)
  have c2 := c.sub (K' := 0x1000) (by decide)
  unfold sendDrained
  repeat' first
    | with_reducible assumption
    | with_reducible apply sendMsg_keeps c1
    | with_reducible apply modDie_keeps c2
    | with_reducible refine fun _ => ?_
    | lift_lets -underBinder
    | (intro x; refine (fun hx : P x => ?_) ?_; clear_value x)
    | (intro x; refine (fun hx : P x.2 => ?_) ?_; clear_value x)
    | (intro x; refine (fun hx : P x.1 => ?_) ?_; clear_value x)
    | (intro x; refine (fun hx : P x.s => ?_) ?_; clear_value x)
    | (intro x; clear_value x)
    | intro _
    | dsimp -zeta only
    | dsimp -zeta +zetaDelta only
    | lift_lets
    | dsimp only

theorem drainCheck_keeps {P : State → Prop} (c : Closed 0x60200241000 P) (x1 : State) (x2) (h1 : P x1) :
    P (drainCheck x1 x2) := by
  have c1 := c.sub (K' := 0x200000) (by decide)
  have c2 := c.sub (K' := 0x60200041000) (by decide)
  unfold drainCheck
  repeat' first
    | with_reducible assumption
    | with_reducible apply dropCache_keeps c1
    | with_reducible apply sendDrained_keeps c2
    | with_reducible refine fun _ => ?_
    | lift_lets -underBinder
    | (intro x; refine (fun hx : P x => ?_) ?_; clear_value x)
    | (intro x; refine (fun hx : P x.2 => ?_) ?_; clear_value x)
    | (intro x; refine (fun hx : P x.1 => ?_) ?_; clear_value x)
    | (intro x; refine (fun hx : P x.s => ?_) ?_; clear_value x)
    | (intro x; clear_value x)
    | split
    | dsimp -zeta only
    | dsimp -zeta +zetaDelta only
    | lift_lets
    | dsimp only

theorem refuseLaunches_keeps {P : State → Prop} (c : Closed 0x1000 P) (x1 : State) (x2) (h1 : P x1) :
    P (refuseLaunches x1 x2) := by
  unfold refuseLaunches
  repeat' first
    | with_reducible assumption
    | with_reducible apply modDie_keeps c
    | intro _
    | dsimp -zeta only

theorem dropQueued_keeps {P : State → Prop} (c : Closed 0x1800 P) (x1 : State) (x2) (h1 : P x1) :
    P (dropQueued x1 x2) := by
  have c1 := c.sub (K' := 0x1000) (by decide)
  unfold dropQueued
  repeat' first
    | with_reducible assumption
    | with_reducible apply missEntry_keeps c
    | with_reducible apply modUnit_keeps c1
    | with_reducible apply foldl_keeps
    | with_reducible apply foldl_keeps_fst
    | with_reducible apply foldl_keeps_snd
    | intro _
    | split
    | dsimp -zeta only

end Sys2Proof.Laws
end

