-- ==== Sys2Proof/Laws/KeepsCheck.lean ====
section
/-! SUPPORT. What each function of Machine/Check.lean can change: a predicate closed under its changes survives it. -/
namespace Sys2Proof.Laws
open Sys2Proof Sys2Proof.Machine

theorem answerWrite_keeps {P : State → Prop} (c : Closed 0x200 P) (x1) (x2) (x3 : WriteRes) (h3 : P x3.1) :
    P (answerWrite x1 x2 x3) := by
  unfold answerWrite
  repeat' first
    | with_reducible assumption
    | with_reducible apply answer_keeps c
    | dsimp -zeta only

theorem cvFinishNow_keeps {P : State → Prop} (c : Closed 0x30200000210 P) (x1 : State) (x2) (h1 : P x1) :
    P (cvFinishNow x1 x2) := by
  have c1 := c.sub (K' := 0x10) (by decide)
  have c2 := c.sub (K' := 0x200) (by decide)
  have c3 := c.sub (K' := 0x20200000000) (by decide)
  have c4 := c.sub (K' := 0x10000000000) (by decide)
  unfold cvFinishNow
  repeat' first
    | with_reducible assumption
    | with_reducible apply rput_keeps c1
    | with_reducible apply emit_keeps c2
    | with_reducible apply raise_keeps c3
    | with_reducible apply modCv_keeps c4
    | with_reducible refine fun _ => ?_
    | lift_lets -underBinder
    | (intro x; refine (fun hx : P x => ?_) ?_; clear_value x)
    | (intro x; refine (fun hx : P x.2 => ?_) ?_; clear_value x)
    | (intro x; refine (fun hx : P x.1 => ?_) ?_; clear_value x)
    | (intro x; refine (fun hx : P x.s => ?_) ?_; clear_value x)
    | (intro x; clear_value x)
    | intro _
    | split
    | dsimp -zeta only
    | dsimp -zeta +zetaDelta only
    | lift_lets
    | dsimp only

theorem cvFeed_keeps {P : State → Prop} (c : Closed 0x10000000000 P) (x1 : State) (x2) (x3) (h1 : P x1) :
    P (cvFeed x1 x2 x3) := by
  unfold cvFeed
  repeat' first
    | with_reducible assumption
    | with_reducible apply modCv_keeps c
    | with_reducible apply foldl_keeps
    | with_reducible apply foldl_keeps_fst
    | with_reducible apply foldl_keeps_snd
    | intro _
    | dsimp -zeta only

theorem cvStartNow_keeps {P : State → Prop} (c : Closed 0x10000000000 P) (x1 : State) (x2) (x3) (h1 : P x1) :
    P (cvStartNow x1 x2 x3) := by
  unfold cvStartNow
  repeat' first
    | with_reducible assumption
    | with_reducible apply modCv_keeps c
    | with_reducible refine fun _ => ?_
    | lift_lets -underBinder
    | (intro x; refine (fun hx : P x => ?_) ?_; clear_value x)
    | (intro x; refine (fun hx : P x.2 => ?_) ?_; clear_value x)
    | (intro x; refine (fun hx : P x.1 => ?_) ?_; clear_value x)
    | (intro x; refine (fun hx : P x.s => ?_) ?_; clear_value x)
    | (intro x; clear_value x)
    | intro _
    | split
    | dsimp -zeta only
    | dsimp -zeta +zetaDelta only
    | lift_lets
    | dsimp only

theorem cvRefuse_keeps {P : State → Prop} (c : Closed 0x30200000000 P) (x1 : State) (x2) (h1 : P x1) :
    P (cvRefuse x1 x2) := by
  have c1 := c.sub (K' := 0x20200000000) (by decide)
  have c2 := c.sub (K' := 0x10000000000) (by decide)
  unfold cvRefuse
  repeat' first
    | with_reducible assumption
    | with_reducible apply raise_keeps c1
    | with_reducible apply modCv_keeps c2
    | intro _
    | dsimp -zeta only

theorem cvDmaNow_keeps {P : State → Prop} (c : Closed 0x10000000000 P) (x1 : State) (x2) (h1 : P x1) :
    P (cvDmaNow x1 x2) := by
  unfold cvDmaNow
  repeat' first
    | with_reducible assumption
    | with_reducible apply modCv_keeps c
    | with_reducible refine fun _ => ?_
    | lift_lets -underBinder
    | (intro x; refine (fun hx : P x => ?_) ?_; clear_value x)
    | (intro x; refine (fun hx : P x.2 => ?_) ?_; clear_value x)
    | (intro x; refine (fun hx : P x.1 => ?_) ?_; clear_value x)
    | (intro x; refine (fun hx : P x.s => ?_) ?_; clear_value x)
    | (intro x; clear_value x)
    | intro _
    | split
    | dsimp -zeta only
    | dsimp -zeta +zetaDelta only
    | lift_lets
    | dsimp only

theorem cvCtrlWrite_keeps {P : State → Prop} (c : Closed 0x30200000210 P) (x1 : State) (x2) (x3) (x4) (h1 : P x1) :
    P (cvCtrlWrite x1 x2 x3 x4).1 := by
  have c1 := c.sub (K' := 0x10000000000) (by decide)
  have c2 := c.sub (K' := 0x30200000000) (by decide)
  have c3 := c.sub (K' := 0x10) (by decide)
  unfold cvCtrlWrite
  repeat' first
    | with_reducible assumption
    | with_reducible apply cvDmaNow_keeps c1
    | with_reducible apply cvRefuse_keeps c2
    | with_reducible apply cvStartNow_keeps c1
    | with_reducible apply rput_keeps c3
    | with_reducible apply cvFinishNow_keeps c
    | with_reducible refine fun _ => ?_
    | lift_lets -underBinder
    | (intro x; refine (fun hx : P x => ?_) ?_; clear_value x)
    | (intro x; refine (fun hx : P x.2 => ?_) ?_; clear_value x)
    | (intro x; refine (fun hx : P x.1 => ?_) ?_; clear_value x)
    | (intro x; refine (fun hx : P x.s => ?_) ?_; clear_value x)
    | (intro x; clear_value x)
    | split
    | dsimp -zeta only
    | dsimp -zeta +zetaDelta only
    | lift_lets
    | dsimp only

theorem cvGate_keeps {P : State → Prop} (c : Closed 0x30200000000 P) (x1 : State) (x2) (x3) (h1 : P x1) :
    OnSome P (cvGate x1 x2 x3) := by
  have c1 := c.sub (K' := 0x20200000000) (by decide)
  unfold cvGate
  repeat' first
    | with_reducible assumption
    | with_reducible apply OnSome.some
    | with_reducible exact OnSome.none
    | with_reducible apply cvRefuse_keeps c
    | with_reducible apply raise_keeps c1
    | split
    | dsimp -zeta only

theorem cvDataWriteReg_keeps {P : State → Prop} (c : Closed 0x30200000000 P) (x1 : State) (x2) (x3) (x4) (x5) (h1 : P x1) :
    P (cvDataWriteReg x1 x2 x3 x4 x5).1 := by
  have c1 := c.sub (K' := 0x10000000000) (by decide)
  unfold cvDataWriteReg
  repeat' first
    | with_reducible assumption
    | with_reducible apply cvGate_keeps c
    | with_reducible apply cvFeed_keeps c1
    | with_reducible refine some_of (by assumption) ?_
    | split
    | dsimp -zeta only

theorem cvStateWriteReg_keeps {P : State → Prop} (c : Closed 0x30200000000 P) (x1 : State) (x2) (x3) (x4) (h1 : P x1) :
    P (cvStateWriteReg x1 x2 x3 x4).1 := by
  have c1 := c.sub (K' := 0x10000000000) (by decide)
  unfold cvStateWriteReg
  repeat' first
    | with_reducible assumption
    | with_reducible apply cvGate_keeps c
    | with_reducible apply modCv_keeps c1
    | with_reducible refine some_of (by assumption) ?_
    | intro _
    | split
    | dsimp -zeta only

theorem execCvStart_keeps {P : State → Prop} (c : Closed 0x30200000210 P) (x1) (x2) (x3) (x4 : State) (h4 : P x4) :
    OnNext P (execCvStart x1 x2 x3 x4) := by
  have c1 := c.sub (K' := 0x200) (by decide)
  unfold execCvStart
  repeat' first
    | with_reducible assumption
    | with_reducible apply OnNext.unit
    | with_reducible apply OnNext.next
    | with_reducible apply OnNext.fault
    | with_reducible apply cvCtrlWrite_keeps c
    | with_reducible apply answerWrite_keeps c1
    | with_reducible refine fst_of (by assumption) ?_
    | dsimp -zeta only

theorem execCvDataWrite_keeps {P : State → Prop} (c : Closed 0x30200000200 P) (x1) (x2) (x3) (x4) (x5 : State) (h5 : P x5) :
    OnNext P (execCvDataWrite x1 x2 x3 x4 x5) := by
  have c1 := c.sub (K' := 0x30200000000) (by decide)
  have c2 := c.sub (K' := 0x200) (by decide)
  unfold execCvDataWrite
  repeat' first
    | with_reducible assumption
    | with_reducible apply OnNext.unit
    | with_reducible apply OnNext.next
    | with_reducible apply OnNext.fault
    | with_reducible apply cvDataWriteReg_keeps c1
    | with_reducible apply answerWrite_keeps c2
    | with_reducible refine fst_of (by assumption) ?_
    | split
    | dsimp -zeta only

theorem execCvStateWrite_keeps {P : State → Prop} (c : Closed 0x30200000200 P) (x1) (x2) (x3) (x4 : State) (h4 : P x4) :
    OnNext P (execCvStateWrite x1 x2 x3 x4) := by
  have c1 := c.sub (K' := 0x200) (by decide)
  have c2 := c.sub (K' := 0x30200000000) (by decide)
  unfold execCvStateWrite
  repeat' first
    | with_reducible assumption
    | with_reducible apply OnNext.unit
    | with_reducible apply OnNext.next
    | with_reducible apply OnNext.fault
    | with_reducible apply answerWrite_keeps c1
    | with_reducible apply cvStateWriteReg_keeps c2
    | with_reducible refine fst_of (by assumption) ?_
    | dsimp -zeta only

theorem execCvDmaGo_keeps {P : State → Prop} (c : Closed 0x30200000210 P) (x1) (x2) (x3) (x4 : State) (h4 : P x4) :
    OnNext P (execCvDmaGo x1 x2 x3 x4) := by
  have c1 := c.sub (K' := 0x200) (by decide)
  unfold execCvDmaGo
  repeat' first
    | with_reducible assumption
    | with_reducible apply OnNext.unit
    | with_reducible apply OnNext.next
    | with_reducible apply OnNext.fault
    | with_reducible apply cvCtrlWrite_keeps c
    | with_reducible apply answerWrite_keeps c1
    | with_reducible refine fst_of (by assumption) ?_
    | dsimp -zeta only

theorem cvDmaEnd_keeps {P : State → Prop} (c : Closed 0x30200000218 P) (x1 : State) (x2) (x3) (h1 : P x1) :
    P (cvDmaEnd x1 x2 x3) := by
  have c1 := c.sub (K' := 0x8) (by decide)
  have c2 := c.sub (K' := 0x30200000210) (by decide)
  have c3 := c.sub (K' := 0x20200000000) (by decide)
  have c4 := c.sub (K' := 0x10000000000) (by decide)
  unfold cvDmaEnd
  repeat' first
    | with_reducible assumption
    | with_reducible apply fresh_keeps c1
    | with_reducible apply cvFinishNow_keeps c2
    | with_reducible apply raise_keeps c3
    | with_reducible apply modCv_keeps c4
    | with_reducible apply cvFeed_keeps c4
    | with_reducible refine snd_of (by assumption) ?_
    | with_reducible refine fun _ => ?_
    | lift_lets -underBinder
    | (intro x; refine (fun hx : P x => ?_) ?_; clear_value x)
    | (intro x; refine (fun hx : P x.2 => ?_) ?_; clear_value x)
    | (intro x; refine (fun hx : P x.1 => ?_) ?_; clear_value x)
    | (intro x; refine (fun hx : P x.s => ?_) ?_; clear_value x)
    | (intro x; clear_value x)
    | intro _
    | split
    | dsimp -zeta only
    | dsimp -zeta +zetaDelta only
    | lift_lets
    | dsimp only

theorem execCvDmaDone_keeps {P : State → Prop} (c : Closed 0x30200000218 P) (x1) (x2) (x3 : State) (h3 : P x3) :
    OnNext P (execCvDmaDone x1 x2 x3) := by
  unfold execCvDmaDone
  repeat' first
    | with_reducible assumption
    | with_reducible apply OnNext.unit
    | with_reducible apply OnNext.next
    | with_reducible apply OnNext.fault
    | with_reducible apply cvDmaEnd_keeps c
    | dsimp -zeta only

theorem execCvFinish_keeps {P : State → Prop} (c : Closed 0x30200000210 P) (x1) (x2) (x3) (x4 : State) (h4 : P x4) :
    OnNext P (execCvFinish x1 x2 x3 x4) := by
  have c1 := c.sub (K' := 0x200) (by decide)
  unfold execCvFinish
  repeat' first
    | with_reducible assumption
    | with_reducible apply OnNext.unit
    | with_reducible apply OnNext.next
    | with_reducible apply OnNext.fault
    | with_reducible apply cvCtrlWrite_keeps c
    | with_reducible apply answerWrite_keeps c1
    | with_reducible refine fst_of (by assumption) ?_
    | dsimp -zeta only

theorem cvClear_keeps {P : State → Prop} (c : Closed 0x10000000030 P) (x1 : State) (h1 : P x1) :
    P (cvClear x1) := by
  have c1 := c.sub (K' := 0x30) (by decide)
  unfold cvClear
  repeat' first
    | with_reducible assumption
    | with_reducible apply rclear_keeps c1
    | with_reducible refine c.set_cv (by decide) _ _ ?_
    | dsimp -zeta only

theorem execCheckEngineWatchdog_keeps {P : State → Prop} (c : Closed 0x70000000038 P) (x1 : State) (h1 : P x1) :
    OnNext P (execCheckEngineWatchdog x1) := by
  have c1 := c.sub (K' := 0x8) (by decide)
  have c2 := c.sub (K' := 0x60000000000) (by decide)
  have c3 := c.sub (K' := 0x30) (by decide)
  unfold execCheckEngineWatchdog
  repeat' first
    | with_reducible assumption
    | with_reducible apply OnNext.unit
    | with_reducible apply OnNext.next
    | with_reducible apply OnNext.fault
    | with_reducible apply fresh_keeps c1
    | with_reducible apply logOnly_keeps c2
    | with_reducible apply rclear_keeps c3
    | with_reducible refine c.set_cv (by decide) _ _ ?_
    | with_reducible refine snd_of (by assumption) ?_
    | with_reducible refine fun _ => ?_
    | lift_lets -underBinder
    | (intro x; refine (fun hx : P x => ?_) ?_; clear_value x)
    | (intro x; refine (fun hx : P x.2 => ?_) ?_; clear_value x)
    | (intro x; refine (fun hx : P x.1 => ?_) ?_; clear_value x)
    | (intro x; refine (fun hx : P x.s => ?_) ?_; clear_value x)
    | (intro x; clear_value x)
    | intro _
    | dsimp -zeta only
    | dsimp -zeta +zetaDelta only
    | lift_lets
    | dsimp only

theorem execLogEvent_keeps {P : State → Prop} (c : Closed 0x20000000000 P) (x1) (x2 : State) (h2 : P x2) :
    OnNext P (execLogEvent x1 x2) := by
  unfold execLogEvent
  repeat' first
    | with_reducible assumption
    | with_reducible apply OnNext.unit
    | with_reducible apply OnNext.next
    | with_reducible apply OnNext.fault
    | with_reducible apply logArrive_keeps c
    | dsimp -zeta only

theorem execLogWrite_keeps {P : State → Prop} (c : Closed 0x20200000000 P) (x1 : State) (h1 : P x1) :
    OnNext P (execLogWrite x1) := by
  unfold execLogWrite
  repeat' first
    | with_reducible assumption
    | with_reducible apply OnNext.unit
    | with_reducible apply OnNext.next
    | with_reducible apply OnNext.fault
    | with_reducible apply logWriteOne_keeps c
    | dsimp -zeta only

theorem logCmdWrite_keeps {P : State → Prop} (c : Closed 0x20000000000 P) (x1 : State) (x2) (x3) (h1 : P x1) :
    P (logCmdWrite x1 x2 x3).1 := by
  unfold logCmdWrite
  repeat' first
    | with_reducible assumption
    | with_reducible apply logUnfreezeNow_keeps c
    | with_reducible apply logClearNow_keeps c
    | split
    | dsimp -zeta only

theorem execLogCmdClear_keeps {P : State → Prop} (c : Closed 0x20000000200 P) (x1) (x2) (x3 : State) (h3 : P x3) :
    OnNext P (execLogCmdClear x1 x2 x3) := by
  have c1 := c.sub (K' := 0x20000000000) (by decide)
  have c2 := c.sub (K' := 0x200) (by decide)
  unfold execLogCmdClear
  repeat' first
    | with_reducible assumption
    | with_reducible apply OnNext.unit
    | with_reducible apply OnNext.next
    | with_reducible apply OnNext.fault
    | with_reducible apply logCmdWrite_keeps c1
    | with_reducible apply answerWrite_keeps c2
    | with_reducible refine fst_of (by assumption) ?_
    | dsimp -zeta only

theorem execLogCmdUnfreeze_keeps {P : State → Prop} (c : Closed 0x20000000200 P) (x1) (x2) (x3 : State) (h3 : P x3) :
    OnNext P (execLogCmdUnfreeze x1 x2 x3) := by
  have c1 := c.sub (K' := 0x20000000000) (by decide)
  have c2 := c.sub (K' := 0x200) (by decide)
  unfold execLogCmdUnfreeze
  repeat' first
    | with_reducible assumption
    | with_reducible apply OnNext.unit
    | with_reducible apply OnNext.next
    | with_reducible apply OnNext.fault
    | with_reducible apply logCmdWrite_keeps c1
    | with_reducible apply answerWrite_keeps c2
    | with_reducible refine fst_of (by assumption) ?_
    | dsimp -zeta only

theorem logRdData_keeps {P : State → Prop} (c : Closed 0x100 P) (x1 : State) (x2) (x3) (x4) (h1 : P x1) :
    P (logRdData x1 x2 x3 x4).2 := by
  unfold logRdData
  repeat' first
    | with_reducible assumption
    | with_reducible refine c.set_logRd (by decide) _ _ ?_
    | with_reducible refine fun _ => ?_
    | lift_lets -underBinder
    | (intro x; refine (fun hx : P x => ?_) ?_; clear_value x)
    | (intro x; refine (fun hx : P x.2 => ?_) ?_; clear_value x)
    | (intro x; refine (fun hx : P x.1 => ?_) ?_; clear_value x)
    | (intro x; refine (fun hx : P x.s => ?_) ?_; clear_value x)
    | (intro x; clear_value x)
    | split
    | dsimp -zeta only
    | dsimp -zeta +zetaDelta only
    | lift_lets
    | dsimp only

theorem execLogRdDataRead_keeps {P : State → Prop} (c : Closed 0x300 P) (x1) (x2) (x3) (x4 : State) (h4 : P x4) :
    OnNext P (execLogRdDataRead x1 x2 x3 x4) := by
  have c1 := c.sub (K' := 0x200) (by decide)
  have c2 := c.sub (K' := 0x100) (by decide)
  unfold execLogRdDataRead
  repeat' first
    | with_reducible assumption
    | with_reducible apply OnNext.unit
    | with_reducible apply OnNext.next
    | with_reducible apply OnNext.fault
    | with_reducible apply answer_keeps c1
    | with_reducible apply logRdData_keeps c2
    | with_reducible refine snd_of (by assumption) ?_
    | with_reducible refine fun _ => ?_
    | lift_lets -underBinder
    | (intro x; refine (fun hx : P x => ?_) ?_; clear_value x)
    | (intro x; refine (fun hx : P x.2 => ?_) ?_; clear_value x)
    | (intro x; refine (fun hx : P x.1 => ?_) ?_; clear_value x)
    | (intro x; refine (fun hx : P x.s => ?_) ?_; clear_value x)
    | (intro x; clear_value x)
    | dsimp -zeta only
    | dsimp -zeta +zetaDelta only
    | lift_lets
    | dsimp only

theorem execLogWriterWatchdog_keeps {P : State → Prop} (c : Closed 0x20000000000 P) (x1 : State) (h1 : P x1) :
    OnNext P (execLogWriterWatchdog x1) := by
  unfold execLogWriterWatchdog
  refine OnNext.next ?_
  split
  · exact h1
  · exact modLog_keeps c x1 _ (fun h => ⟨h.1, Nat.zero_le _, Nat.zero_le _⟩) h1

theorem takeForwarded_keeps {P : State → Prop} (c : Closed 0x20200000000 P) (x1 : State) (x2) (h1 : P x1) :
    P (takeForwarded x1 x2) := by
  have c1 := c.sub (K' := 0x20000000000) (by decide)
  have c2 := c.sub (K' := 0x200000000) (by decide)
  unfold takeForwarded
  repeat' first
    | with_reducible assumption
    | with_reducible apply logArrive_keeps c1
    | with_reducible apply raiseHealth_keeps c2
    | with_reducible refine fun _ => ?_
    | lift_lets -underBinder
    | (intro x; refine (fun hx : P x => ?_) ?_; clear_value x)
    | (intro x; refine (fun hx : P x.2 => ?_) ?_; clear_value x)
    | (intro x; refine (fun hx : P x.1 => ?_) ?_; clear_value x)
    | (intro x; refine (fun hx : P x.s => ?_) ?_; clear_value x)
    | (intro x; clear_value x)
    | split
    | dsimp -zeta only
    | dsimp -zeta +zetaDelta only
    | lift_lets
    | dsimp only

theorem execEvent_keeps {P : State → Prop} (c : Closed 0x60200244a10 P) (x1) (x2 : State) (h2 : P x2) :
    OnNext P (execEvent x1 x2) := by
  have c1 := c.sub (K' := 0x20200000000) (by decide)
  unfold execEvent
  repeat' first
    | with_reducible assumption
    | with_reducible apply OnNext.unit
    | with_reducible apply OnNext.next
    | with_reducible apply OnNext.fault
    | with_reducible apply takeForwarded_keeps c1
    | with_reducible apply onParcel_keeps c
    | intro _
    | dsimp -zeta only

end Sys2Proof.Laws
end

