-- ==== Sys2Proof/Laws/KeepsEyeOps.lean ====
section
/-! SUPPORT. What each function of Machine/EyeOps.lean can change: a predicate closed under its changes survives it. -/
namespace Sys2Proof.Laws
open Sys2Proof Sys2Proof.Machine

theorem defTake_keeps {P : State → Prop} (c : Closed 0x60000800000 P) (x1 : State) (x2) (h1 : P x1) :
    P (defTake x1 x2) := by
  have c1 := c.sub (K' := 0x60000000000) (by decide)
  have c2 := c.sub (K' := 0x800000) (by decide)
  unfold defTake
  repeat' first
    | with_reducible assumption
    | with_reducible apply logOnly_keeps c1
    | with_reducible apply modEye_keeps c2
    | intro _
    | split
    | dsimp -zeta only

theorem loadDefects_keeps {P : State → Prop} (c : Closed 0x60000800000 P) (x1 : State) (h1 : P x1) :
    P (loadDefects x1) := by
  have c1 := c.sub (K' := 0x800000) (by decide)
  unfold loadDefects
  repeat' first
    | with_reducible assumption
    | with_reducible apply defTake_keeps c
    | with_reducible apply modEye_keeps c1
    | with_reducible apply foldl_keeps
    | with_reducible apply foldl_keeps_fst
    | with_reducible apply foldl_keeps_snd
    | intro _
    | dsimp -zeta only

theorem sendFrameAbort_keeps {P : State → Prop} (c : Closed 0x60200040000 P) (x1 : State) (x2) (x3) (h1 : P x1) :
    P (sendFrameAbort x1 x2 x3) := by
  unfold sendFrameAbort
  repeat' first
    | with_reducible assumption
    | with_reducible apply sendMsg_keeps c
    | with_reducible refine fun _ => ?_
    | lift_lets -underBinder
    | (intro x; refine (fun hx : P x => ?_) ?_; clear_value x)
    | (intro x; refine (fun hx : P x.2 => ?_) ?_; clear_value x)
    | (intro x; refine (fun hx : P x.1 => ?_) ?_; clear_value x)
    | (intro x; refine (fun hx : P x.s => ?_) ?_; clear_value x)
    | (intro x; clear_value x)
    | split
    | dsimp -zeta only
    | dsimp -zeta +zetaDelta only
    | lift_lets
    | dsimp only

theorem ispAborted_keeps {P : State → Prop} (c : Closed 0x1001000 P) (x1 : State) (h1 : P x1) :
    P (ispAborted x1) := by
  have c1 := c.sub (K' := 0x1000000) (by decide)
  have c2 := c.sub (K' := 0x1000) (by decide)
  unfold ispAborted
  repeat' first
    | with_reducible assumption
    | with_reducible apply modIsp_keeps c1
    | with_reducible apply unitDone_keeps c2
    | intro _
    | split
    | dsimp -zeta only

theorem abortFrame_keeps {P : State → Prop} (c : Closed 0x60201841000 P) (x1 : State) (x2) (x3) (h1 : P x1) :
    P (abortFrame x1 x2 x3) := by
  have c1 := c.sub (K' := 0x1001000) (by decide)
  have c2 := c.sub (K' := 0x1000000) (by decide)
  have c3 := c.sub (K' := 0x60200040000) (by decide)
  have c4 := c.sub (K' := 0x1000) (by decide)
  have c5 := c.sub (K' := 0x800000) (by decide)
  unfold abortFrame
  repeat' first
    | with_reducible assumption
    | with_reducible apply ispAborted_keeps c1
    | with_reducible apply modIsp_keeps c2
    | with_reducible apply sendFrameAbort_keeps c3
    | with_reducible apply unitDone_keeps c4
    | with_reducible apply modEye_keeps c5
    | with_reducible refine fun _ => ?_
    | lift_lets -underBinder
    | (intro x; refine (fun hx : P x => ?_) ?_; clear_value x)
    | (intro x; refine (fun hx : P x.2 => ?_) ?_; clear_value x)
    | (intro x; refine (fun hx : P x.1 => ?_) ?_; clear_value x)
    | (intro x; refine (fun hx : P x.s => ?_) ?_; clear_value x)
    | (intro x; clear_value x)
    | with_reducible apply foldl_keeps
    | with_reducible apply foldl_keeps_fst
    | with_reducible apply foldl_keeps_snd
    | intro _
    | split
    | dsimp -zeta only
    | dsimp -zeta +zetaDelta only
    | lift_lets
    | dsimp only

theorem sensorMissing_keeps {P : State → Prop} (c : Closed 0x60201841000 P) (x1 : State) (x2) (h1 : P x1) :
    P (sensorMissing x1 x2) := by
  unfold sensorMissing
  repeat' first
    | with_reducible assumption
    | with_reducible apply abortFrame_keeps c
    | dsimp -zeta only

theorem beginExposure_keeps {P : State → Prop} (c : Closed 0x60000800000 P) (x1 : State) (x2) (x3) (x4) (h1 : P x1) :
    P (beginExposure x1 x2 x3 x4) := by
  have c1 := c.sub (K' := 0x60000000000) (by decide)
  have c2 := c.sub (K' := 0x800000) (by decide)
  unfold beginExposure
  repeat' first
    | with_reducible assumption
    | with_reducible apply logOnly_keeps c1
    | with_reducible apply modEye_keeps c2
    | with_reducible refine fun _ => ?_
    | lift_lets -underBinder
    | (intro x; refine (fun hx : P x => ?_) ?_; clear_value x)
    | (intro x; refine (fun hx : P x.2 => ?_) ?_; clear_value x)
    | (intro x; refine (fun hx : P x.1 => ?_) ?_; clear_value x)
    | (intro x; refine (fun hx : P x.s => ?_) ?_; clear_value x)
    | (intro x; clear_value x)
    | intro _
    | split
    | dsimp -zeta only
    | dsimp -zeta +zetaDelta only
    | lift_lets
    | dsimp only

theorem startExpose_keeps {P : State → Prop} (c : Closed 0x60201841000 P) (x1) (x2) (x3 : State) (x4) (x5) (x6) (h3 : P x3) :
    P (startExpose x1 x2 x3 x4 x5 x6) := by
  have c1 := c.sub (K' := 0x60000000000) (by decide)
  have c2 := c.sub (K' := 0x60000800000) (by decide)
  have c3 := c.sub (K' := 0x800000) (by decide)
  unfold startExpose
  repeat' first
    | with_reducible assumption
    | with_reducible apply logOnly_keeps c1
    | with_reducible apply beginExposure_keeps c2
    | with_reducible apply modEye_keeps c3
    | with_reducible apply sensorMissing_keeps c
    | with_reducible refine fun _ => ?_
    | lift_lets -underBinder
    | (intro x; refine (fun hx : P x => ?_) ?_; clear_value x)
    | (intro x; refine (fun hx : P x.2 => ?_) ?_; clear_value x)
    | (intro x; refine (fun hx : P x.1 => ?_) ?_; clear_value x)
    | (intro x; refine (fun hx : P x.s => ?_) ?_; clear_value x)
    | (intro x; clear_value x)
    | intro _
    | split
    | dsimp -zeta only
    | dsimp -zeta +zetaDelta only
    | lift_lets
    | dsimp only

theorem freeCodes_keeps {P : State → Prop} (c : Closed 0x8 P) (x1 : State) (x2) (h1 : P x1) :
    P (freeCodes x1 x2).2 := by
  unfold freeCodes
  repeat' first
    | with_reducible assumption
    | with_reducible refine c.set_freeIdx (by decide) _ _ ?_
    | intro _
    | dsimp -zeta only

theorem deliverCodes_keeps {P : State → Prop} (c : Closed 0x8 P) (x1 : State) (x2) (h1 : P x1) :
    P (deliverCodes x1 x2).2 := by
  unfold deliverCodes
  repeat' first
    | with_reducible assumption
    | with_reducible apply freeCodes_keeps c
    | with_reducible refine snd_of (by assumption) ?_
    | intro _
    | split
    | dsimp -zeta only

theorem convertRow_keeps {P : State → Prop} (c : Closed 0xc01008 P) (x1 : State) (x2) (x3) (h1 : P x1) :
    P (convertRow x1 x2 x3) := by
  have c1 := c.sub (K' := 0x1000) (by decide)
  have c2 := c.sub (K' := 0x400000) (by decide)
  have c3 := c.sub (K' := 0x8) (by decide)
  have c4 := c.sub (K' := 0x800000) (by decide)
  unfold convertRow
  repeat' first
    | with_reducible assumption
    | with_reducible apply unitDone_keeps c1
    | with_reducible apply memPut_keeps c2
    | with_reducible apply deliverCodes_keeps c3
    | with_reducible apply modEye_keeps c4
    | with_reducible refine snd_of (by assumption) ?_
    | with_reducible refine fun _ => ?_
    | lift_lets -underBinder
    | (intro x; refine (fun hx : P x => ?_) ?_; clear_value x)
    | (intro x; refine (fun hx : P x.2 => ?_) ?_; clear_value x)
    | (intro x; refine (fun hx : P x.1 => ?_) ?_; clear_value x)
    | (intro x; refine (fun hx : P x.s => ?_) ?_; clear_value x)
    | (intro x; clear_value x)
    | intro _
    | split
    | dsimp -zeta only
    | dsimp -zeta +zetaDelta only
    | lift_lets
    | dsimp only

theorem eyeKill_keeps {P : State → Prop} (c : Closed 0x60201841000 P) (x1 : State) (h1 : P x1) :
    P (eyeKill x1) := by
  unfold eyeKill
  repeat' first
    | with_reducible assumption
    | with_reducible apply sensorMissing_keeps c
    | split
    | dsimp -zeta only

theorem eyeOff_keeps {P : State → Prop} (c : Closed 0x1801000 P) (x1 : State) (h1 : P x1) :
    P (eyeOff x1) := by
  have c1 := c.sub (K' := 0x1000000) (by decide)
  have c2 := c.sub (K' := 0x1000) (by decide)
  have c3 := c.sub (K' := 0x800000) (by decide)
  unfold eyeOff
  repeat' first
    | with_reducible assumption
    | with_reducible apply modIsp_keeps c1
    | with_reducible apply unitDone_keeps c2
    | with_reducible apply modEye_keeps c3
    | with_reducible refine fun _ => ?_
    | lift_lets -underBinder
    | (intro x; refine (fun hx : P x => ?_) ?_; clear_value x)
    | (intro x; refine (fun hx : P x.2 => ?_) ?_; clear_value x)
    | (intro x; refine (fun hx : P x.1 => ?_) ?_; clear_value x)
    | (intro x; refine (fun hx : P x.s => ?_) ?_; clear_value x)
    | (intro x; clear_value x)
    | intro _
    | split
    | dsimp -zeta only
    | dsimp -zeta +zetaDelta only
    | lift_lets
    | dsimp only

theorem eyeRelease_keeps {P : State → Prop} (c : Closed 0x1800030 P) (x1 : State) (h1 : P x1) :
    P (eyeRelease x1) := by
  have c1 := c.sub (K' := 0x30) (by decide)
  unfold eyeRelease
  repeat' first
    | with_reducible assumption
    | with_reducible apply rclear_keeps c1
    | with_reducible refine c.set_eye_isp (by decide) (by decide) _ _ _ ?_
    | dsimp -zeta only

end Sys2Proof.Laws
end

