-- ==== Sys2Proof/Laws/KeepsIspOps.lean ====
section
/-! SUPPORT. What each function of Machine/IspOps.lean can change: a predicate closed under its changes survives it. -/
namespace Sys2Proof.Laws
open Sys2Proof Sys2Proof.Machine

theorem meanOrFree_keeps {P : State → Prop} (c : Closed 0x8 P) (x1 : State) (x2) (h1 : P x1) :
    P (meanOrFree x1 x2).2 := by
  unfold meanOrFree
  repeat' first
    | with_reducible assumption
    | with_reducible apply fresh_keeps c
    | with_reducible refine snd_of (by assumption) ?_
    | split
    | dsimp -zeta only

theorem frameLevels_keeps {P : State → Prop} (c : Closed 0x1000008 P) (x1 : State) (h1 : P x1) :
    P (frameLevels x1) := by
  have c1 := c.sub (K' := 0x1000000) (by decide)
  have c2 := c.sub (K' := 0x8) (by decide)
  unfold frameLevels
  repeat' first
    | with_reducible assumption
    | with_reducible apply modIsp_keeps c1
    | with_reducible apply meanOrFree_keeps c2
    | with_reducible refine snd_of (by assumption) ?_
    | with_reducible refine fun _ => ?_
    | lift_lets -underBinder
    | (intro x; refine (fun hx : P x => ?_) ?_; clear_value x)
    | (intro x; refine (fun hx : P x.2 => ?_) ?_; clear_value x)
    | (intro x; refine (fun hx : P x.1 => ?_) ?_; clear_value x)
    | (intro x; refine (fun hx : P x.s => ?_) ?_; clear_value x)
    | (intro x; clear_value x)
    | with_reducible apply foldl_keeps
    | with_reducible apply foldl_keeps_fst
    | with_reducible apply foldl_keeps_snd
    | intro _
    | dsimp -zeta only
    | dsimp -zeta +zetaDelta only
    | lift_lets
    | dsimp only

theorem levelsKnown_keeps {P : State → Prop} (c : Closed 0x60001000008 P) (x1 : State) (h1 : P x1) :
    P (levelsKnown x1) := by
  have c1 := c.sub (K' := 0x1000000) (by decide)
  have c2 := c.sub (K' := 0x60000000000) (by decide)
  have c3 := c.sub (K' := 0x1000008) (by decide)
  unfold levelsKnown
  repeat' first
    | with_reducible assumption
    | with_reducible apply modIsp_keeps c1
    | with_reducible apply logOnly_keeps c2
    | with_reducible apply frameLevels_keeps c3
    | with_reducible refine fun _ => ?_
    | lift_lets -underBinder
    | (intro x; refine (fun hx : P x => ?_) ?_; clear_value x)
    | (intro x; refine (fun hx : P x.2 => ?_) ?_; clear_value x)
    | (intro x; refine (fun hx : P x.1 => ?_) ?_; clear_value x)
    | (intro x; refine (fun hx : P x.s => ?_) ?_; clear_value x)
    | (intro x; clear_value x)
    | intro _
    | split
    | dsimp -zeta only
    | dsimp -zeta +zetaDelta only
    | lift_lets
    | dsimp only

theorem filterRow_keeps {P : State → Prop} (c : Closed 0x1000000 P) (x1 : State) (x2) (h1 : P x1) :
    P (filterRow x1 x2) := by
  unfold filterRow
  repeat' first
    | with_reducible assumption
    | with_reducible apply modIsp_keeps c
    | with_reducible refine fun _ => ?_
    | lift_lets -underBinder
    | (intro x; refine (fun hx : P x => ?_) ?_; clear_value x)
    | (intro x; refine (fun hx : P x.2 => ?_) ?_; clear_value x)
    | (intro x; refine (fun hx : P x.1 => ?_) ?_; clear_value x)
    | (intro x; refine (fun hx : P x.s => ?_) ?_; clear_value x)
    | (intro x; clear_value x)
    | intro _
    | dsimp -zeta only
    | dsimp -zeta +zetaDelta only
    | lift_lets
    | dsimp only

theorem noRoute_keeps {P : State → Prop} (c : Closed 0x60201840000 P) (x1 : State) (x2) (h1 : P x1) :
    P (noRoute x1 x2) := by
  have c1 := c.sub (K' := 0x1000000) (by decide)
  have c2 := c.sub (K' := 0x60200040000) (by decide)
  have c3 := c.sub (K' := 0x800000) (by decide)
  unfold noRoute
  repeat' first
    | with_reducible assumption
    | with_reducible apply modIsp_keeps c1
    | with_reducible apply sendFrameAbort_keeps c2
    | with_reducible apply modEye_keeps c3
    | with_reducible refine fun _ => ?_
    | lift_lets -underBinder
    | (intro x; refine (fun hx : P x => ?_) ?_; clear_value x)
    | (intro x; refine (fun hx : P x.2 => ?_) ?_; clear_value x)
    | (intro x; refine (fun hx : P x.1 => ?_) ?_; clear_value x)
    | (intro x; refine (fun hx : P x.s => ?_) ?_; clear_value x)
    | (intro x; clear_value x)
    | intro _
    | split
    | dsimp -zeta only
    | dsimp -zeta +zetaDelta only
    | lift_lets
    | dsimp only

theorem emitRow_keeps {P : State → Prop} (c : Closed 0x60201840000 P) (x1 : State) (x2) (x3) (h1 : P x1) :
    P (emitRow x1 x2 x3) := by
  have c1 := c.sub (K' := 0x60200040000) (by decide)
  unfold emitRow
  repeat' first
    | with_reducible assumption
    | with_reducible apply sendParcel_keeps c1
    | with_reducible apply noRoute_keeps c
    | with_reducible refine fun _ => ?_
    | lift_lets -underBinder
    | (intro x; refine (fun hx : P x => ?_) ?_; clear_value x)
    | (intro x; refine (fun hx : P x.2 => ?_) ?_; clear_value x)
    | (intro x; refine (fun hx : P x.1 => ?_) ?_; clear_value x)
    | (intro x; refine (fun hx : P x.s => ?_) ?_; clear_value x)
    | (intro x; clear_value x)
    | with_reducible apply foldl_keeps
    | with_reducible apply foldl_keeps_fst
    | with_reducible apply foldl_keeps_snd
    | intro _
    | split
    | dsimp -zeta only
    | dsimp -zeta +zetaDelta only
    | lift_lets
    | dsimp only

theorem countRow_keeps {P : State → Prop} (c : Closed 0x1000000 P) (x1 : State) (x2) (h1 : P x1) :
    P (countRow x1 x2) := by
  unfold countRow
  repeat' first
    | with_reducible assumption
    | with_reducible apply modIsp_keeps c
    | with_reducible refine fun _ => ?_
    | lift_lets -underBinder
    | (intro x; refine (fun hx : P x => ?_) ?_; clear_value x)
    | (intro x; refine (fun hx : P x.2 => ?_) ?_; clear_value x)
    | (intro x; refine (fun hx : P x.1 => ?_) ?_; clear_value x)
    | (intro x; refine (fun hx : P x.s => ?_) ?_; clear_value x)
    | (intro x; clear_value x)
    | with_reducible apply foldl_keeps
    | with_reducible apply foldl_keeps_fst
    | with_reducible apply foldl_keeps_snd
    | intro _
    | split
    | dsimp -zeta only
    | dsimp -zeta +zetaDelta only
    | lift_lets
    | dsimp only

theorem finishRow_keeps {P : State → Prop} (c : Closed 0x60201840000 P) (x1 : State) (x2) (h1 : P x1) :
    P (finishRow x1 x2) := by
  have c1 := c.sub (K' := 0x1000000) (by decide)
  unfold finishRow
  repeat' first
    | with_reducible assumption
    | with_reducible apply modIsp_keeps c1
    | with_reducible apply emitRow_keeps c
    | with_reducible apply countRow_keeps c1
    | with_reducible refine fun _ => ?_
    | lift_lets -underBinder
    | (intro x; refine (fun hx : P x => ?_) ?_; clear_value x)
    | (intro x; refine (fun hx : P x.2 => ?_) ?_; clear_value x)
    | (intro x; refine (fun hx : P x.1 => ?_) ?_; clear_value x)
    | (intro x; refine (fun hx : P x.s => ?_) ?_; clear_value x)
    | (intro x; clear_value x)
    | intro _
    | split
    | dsimp -zeta only
    | dsimp -zeta +zetaDelta only
    | lift_lets
    | dsimp only

theorem frameStart_keeps {P : State → Prop} (c : Closed 0x1000000 P) (x1 : State) (h1 : P x1) :
    P (frameStart x1) := by
  unfold frameStart
  repeat' first
    | with_reducible assumption
    | with_reducible apply modIsp_keeps c
    | intro _
    | dsimp -zeta only

theorem startIsp_keeps {P : State → Prop} (c : Closed 0x60001001000 P) (x1 : State) (x2) (x3) (x4) (h1 : P x1) :
    P (startIsp x1 x2 x3 x4) := by
  have c1 := c.sub (K' := 0x1000000) (by decide)
  have c2 := c.sub (K' := 0x60000000000) (by decide)
  have c3 := c.sub (K' := 0x1000) (by decide)
  unfold startIsp
  repeat' first
    | with_reducible assumption
    | with_reducible apply modIsp_keeps c1
    | with_reducible apply logOnly_keeps c2
    | with_reducible apply unitDone_keeps c3
    | with_reducible apply frameStart_keeps c1
    | intro _
    | split
    | dsimp -zeta only

theorem processRow_keeps {P : State → Prop} (c : Closed 0x60201841008 P) (x1 : State) (x2) (h1 : P x1) :
    P (processRow x1 x2) := by
  have c1 := c.sub (K' := 0x1000000) (by decide)
  have c2 := c.sub (K' := 0x60001000008) (by decide)
  have c3 := c.sub (K' := 0x1000) (by decide)
  have c4 := c.sub (K' := 0x60201840000) (by decide)
  unfold processRow
  repeat' first
    | with_reducible assumption
    | with_reducible apply filterRow_keeps c1
    | with_reducible apply modIsp_keeps c1
    | with_reducible apply levelsKnown_keeps c2
    | with_reducible apply unitDone_keeps c3
    | with_reducible apply finishRow_keeps c4
    | with_reducible refine fun _ => ?_
    | lift_lets -underBinder
    | (intro x; refine (fun hx : P x => ?_) ?_; clear_value x)
    | (intro x; refine (fun hx : P x.2 => ?_) ?_; clear_value x)
    | (intro x; refine (fun hx : P x.1 => ?_) ?_; clear_value x)
    | (intro x; refine (fun hx : P x.s => ?_) ?_; clear_value x)
    | (intro x; clear_value x)
    | with_reducible apply foldl_keeps
    | with_reducible apply foldl_keeps_fst
    | with_reducible apply foldl_keeps_snd
    | intro _
    | split
    | dsimp -zeta only
    | dsimp -zeta +zetaDelta only
    | lift_lets
    | dsimp only

theorem imageEquinox_keeps {P : State → Prop} (c : Closed 0x60001800030 P) (x1 : State) (x2) (h1 : P x1) :
    P (imageEquinox x1 x2) := by
  have c1 := c.sub (K' := 0x1000000) (by decide)
  have c2 := c.sub (K' := 0x60000800000) (by decide)
  have c3 := c.sub (K' := 0x800000) (by decide)
  have c4 := c.sub (K' := 0x30) (by decide)
  unfold imageEquinox
  repeat' first
    | with_reducible assumption
    | with_reducible apply modIsp_keeps c1
    | with_reducible apply loadDefects_keeps c2
    | with_reducible apply modEye_keeps c3
    | with_reducible apply rapply_keeps c4
    | with_reducible refine fun _ => ?_
    | lift_lets -underBinder
    | (intro x; refine (fun hx : P x => ?_) ?_; clear_value x)
    | (intro x; refine (fun hx : P x.2 => ?_) ?_; clear_value x)
    | (intro x; refine (fun hx : P x.1 => ?_) ?_; clear_value x)
    | (intro x; refine (fun hx : P x.s => ?_) ?_; clear_value x)
    | (intro x; clear_value x)
    | intro _
    | split
    | dsimp -zeta only
    | dsimp -zeta +zetaDelta only
    | lift_lets
    | dsimp only

end Sys2Proof.Laws
end

