-- ==== Sys2Proof/Laws/KeepsFabOps.lean ====
section
/-! SUPPORT. What each function of Machine/FabOps.lean can change: a predicate closed under its changes survives it. -/
namespace Sys2Proof.Laws
open Sys2Proof Sys2Proof.Machine

theorem refuseWrite_keeps {P : State → Prop} (c : Closed 0x60000200800 P) (x1 : State) (x2) (x3) (x4) (x5) (h1 : P x1) :
    P (refuseWrite x1 x2 x3 x4 x5) := by
  have c1 := c.sub (K' := 0x800) (by decide)
  have c2 := c.sub (K' := 0x60000000000) (by decide)
  have c3 := c.sub (K' := 0x200000) (by decide)
  unfold refuseWrite
  repeat' first
    | with_reducible assumption
    | with_reducible apply markDegraded_keeps c1
    | with_reducible apply logOnly_keeps c2
    | with_reducible apply modFab_keeps c3
    | with_reducible refine fun _ => ?_
    | lift_lets -underBinder
    | (intro x; refine (fun hx : P x => ?_) ?_; clear_value x)
    | (intro x; refine (fun hx : P x.2 => ?_) ?_; clear_value x)
    | (intro x; refine (fun hx : P x.1 => ?_) ?_; clear_value x)
    | (intro x; refine (fun hx : P x.s => ?_) ?_; clear_value x)
    | (intro x; clear_value x)
    | intro _
    | split
    | dsimp -zeta only
    | dsimp -zeta +zetaDelta only
    | lift_lets
    | dsimp only

theorem sramPut_keeps {P : State → Prop} (c : Closed 0x600000 P) (x1 : State) (x2) (x3) (x4) (h1 : P x1) :
    P (sramPut x1 x2 x3 x4) := by
  have c1 := c.sub (K' := 0x200000) (by decide)
  have c2 := c.sub (K' := 0x400000) (by decide)
  unfold sramPut
  repeat' first
    | with_reducible assumption
    | with_reducible apply modFab_keeps c1
    | with_reducible apply memPut_keeps c2
    | intro _
    | dsimp -zeta only

theorem sramParcel_keeps {P : State → Prop} (c : Closed 0x60000600800 P) (x1 : State) (x2) (x3) (x4) (x5) (h1 : P x1) :
    P (sramParcel x1 x2 x3 x4 x5) := by
  have c1 := c.sub (K' := 0x60000200800) (by decide)
  have c2 := c.sub (K' := 0x600000) (by decide)
  unfold sramParcel
  repeat' first
    | with_reducible assumption
    | with_reducible apply refuseWrite_keeps c1
    | with_reducible apply sramPut_keeps c2
    | split
    | dsimp -zeta only

theorem sramEngine_keeps {P : State → Prop} (c : Closed 0x60000600800 P) (x1 : State) (x2) (x3) (x4) (x5) (h1 : P x1) :
    P (sramEngine x1 x2 x3 x4 x5) := by
  have c1 := c.sub (K' := 0x60000200800) (by decide)
  have c2 := c.sub (K' := 0x600000) (by decide)
  unfold sramEngine
  repeat' first
    | with_reducible assumption
    | with_reducible apply refuseWrite_keeps c1
    | with_reducible apply sramPut_keeps c2
    | with_reducible refine fun _ => ?_
    | lift_lets -underBinder
    | (intro x; refine (fun hx : P x => ?_) ?_; clear_value x)
    | (intro x; refine (fun hx : P x.2 => ?_) ?_; clear_value x)
    | (intro x; refine (fun hx : P x.1 => ?_) ?_; clear_value x)
    | (intro x; refine (fun hx : P x.s => ?_) ?_; clear_value x)
    | (intro x; clear_value x)
    | with_reducible apply foldl_keeps
    | with_reducible apply foldl_keeps_fst
    | with_reducible apply foldl_keeps_snd
    | intro _
    | split
    | dsimp -zeta only
    | dsimp -zeta +zetaDelta only
    | lift_lets
    | dsimp only

theorem sendRead_keeps {P : State → Prop} (c : Closed 0x60200040000 P) (x1 : State) (x2) (x3) (h1 : P x1) :
    P (sendRead x1 x2 x3) := by
  unfold sendRead
  repeat' first
    | with_reducible assumption
    | with_reducible apply sendParcel_keeps c
    | with_reducible refine fun _ => ?_
    | lift_lets -underBinder
    | (intro x; refine (fun hx : P x => ?_) ?_; clear_value x)
    | (intro x; refine (fun hx : P x.2 => ?_) ?_; clear_value x)
    | (intro x; refine (fun hx : P x.1 => ?_) ?_; clear_value x)
    | (intro x; refine (fun hx : P x.s => ?_) ?_; clear_value x)
    | (intro x; clear_value x)
    | dsimp -zeta only
    | dsimp -zeta +zetaDelta only
    | lift_lets
    | dsimp only

theorem issueOne_keeps {P : State → Prop} (c : Closed 0x60200240000 P) (x1 : State) (x2) (x3) (h1 : P x1) :
    P (issueOne x1 x2 x3) := by
  have c1 := c.sub (K' := 0x200000) (by decide)
  have c2 := c.sub (K' := 0x60200040000) (by decide)
  unfold issueOne
  repeat' first
    | with_reducible assumption
    | with_reducible apply modFab_keeps c1
    | with_reducible apply sendRead_keeps c2
    | with_reducible refine fun _ => ?_
    | lift_lets -underBinder
    | (intro x; refine (fun hx : P x => ?_) ?_; clear_value x)
    | (intro x; refine (fun hx : P x.2 => ?_) ?_; clear_value x)
    | (intro x; refine (fun hx : P x.1 => ?_) ?_; clear_value x)
    | (intro x; refine (fun hx : P x.s => ?_) ?_; clear_value x)
    | (intro x; clear_value x)
    | intro _
    | split
    | dsimp -zeta only
    | dsimp -zeta +zetaDelta only
    | lift_lets
    | dsimp only

theorem issueReads_keeps {P : State → Prop} (c : Closed 0x60200240000 P) (x1 : State) (x2) (h1 : P x1) :
    P (issueReads x1 x2) := by
  have c1 := c.sub (K' := 0x200000) (by decide)
  unfold issueReads
  repeat' first
    | with_reducible assumption
    | with_reducible apply modFab_keeps c1
    | with_reducible apply issueOne_keeps c
    | with_reducible apply foldl_keeps
    | with_reducible apply foldl_keeps_fst
    | with_reducible apply foldl_keeps_snd
    | intro _
    | dsimp -zeta only

theorem endTransfer_keeps {P : State → Prop} (c : Closed 0x200800 P) (x1 : State) (x2) (x3) (h1 : P x1) :
    P (endTransfer x1 x2 x3) := by
  have c1 := c.sub (K' := 0x800) (by decide)
  have c2 := c.sub (K' := 0x200000) (by decide)
  unfold endTransfer
  repeat' first
    | with_reducible assumption
    | with_reducible apply markPartial_keeps c1
    | with_reducible apply modFab_keeps c2
    | with_reducible refine fun _ => ?_
    | lift_lets -underBinder
    | (intro x; refine (fun hx : P x => ?_) ?_; clear_value x)
    | (intro x; refine (fun hx : P x.2 => ?_) ?_; clear_value x)
    | (intro x; refine (fun hx : P x.1 => ?_) ?_; clear_value x)
    | (intro x; refine (fun hx : P x.s => ?_) ?_; clear_value x)
    | (intro x; clear_value x)
    | intro _
    | dsimp -zeta only
    | dsimp -zeta +zetaDelta only
    | lift_lets
    | dsimp only

theorem masterFollow_keeps {P : State → Prop} (c : Closed 0x200000 P) (x1 : State) (x2) (h1 : P x1) :
    P (masterFollow x1 x2) := by
  unfold masterFollow
  repeat' first
    | with_reducible assumption
    | with_reducible apply modFab_keeps c
    | intro _
    | split
    | dsimp -zeta only

theorem masterClear_keeps {P : State → Prop} (c : Closed 0x200800 P) (x1 : State) (x2) (h1 : P x1) :
    P (masterClear x1 x2) := by
  have c1 := c.sub (K' := 0x800) (by decide)
  have c2 := c.sub (K' := 0x200000) (by decide)
  unfold masterClear
  repeat' first
    | with_reducible assumption
    | with_reducible apply markPartial_keeps c1
    | with_reducible apply modFab_keeps c2
    | with_reducible refine fun _ => ?_
    | lift_lets -underBinder
    | (intro x; refine (fun hx : P x => ?_) ?_; clear_value x)
    | (intro x; refine (fun hx : P x.2 => ?_) ?_; clear_value x)
    | (intro x; refine (fun hx : P x.1 => ?_) ?_; clear_value x)
    | (intro x; refine (fun hx : P x.s => ?_) ?_; clear_value x)
    | (intro x; clear_value x)
    | intro _
    | split
    | dsimp -zeta only
    | dsimp -zeta +zetaDelta only
    | lift_lets
    | dsimp only

theorem masterEn_keeps {P : State → Prop} (c : Closed 0x200800 P) (x1 : State) (x2) (x3) (h1 : P x1) :
    P (masterEn x1 x2 x3) := by
  have c1 := c.sub (K' := 0x200000) (by decide)
  unfold masterEn
  repeat' first
    | with_reducible assumption
    | with_reducible apply masterFollow_keeps c1
    | with_reducible apply masterClear_keeps c
    | split
    | dsimp -zeta only

theorem rcInvalidate_keeps {P : State → Prop} (c : Closed 0x200000 P) (x1 : State) (x2) (h1 : P x1) :
    P (rcInvalidate x1 x2) := by
  unfold rcInvalidate
  repeat' first
    | with_reducible assumption
    | with_reducible apply modFab_keeps c
    | intro _
    | dsimp -zeta only

theorem fabCtrl_keeps {P : State → Prop} (c : Closed 0x200810 P) (x1 : State) (x2) (x3) (h1 : P x1) :
    P (fabCtrl x1 x2 x3) := by
  have c1 := c.sub (K' := 0x200000) (by decide)
  have c2 := c.sub (K' := 0x10) (by decide)
  have c3 := c.sub (K' := 0x200800) (by decide)
  unfold fabCtrl
  repeat' first
    | with_reducible assumption
    | with_reducible apply rcInvalidate_keeps c1
    | with_reducible apply rput_keeps c2
    | with_reducible apply masterEn_keeps c3
    | with_reducible refine fun _ => ?_
    | lift_lets -underBinder
    | (intro x; refine (fun hx : P x => ?_) ?_; clear_value x)
    | (intro x; refine (fun hx : P x.2 => ?_) ?_; clear_value x)
    | (intro x; refine (fun hx : P x.1 => ?_) ?_; clear_value x)
    | (intro x; refine (fun hx : P x.s => ?_) ?_; clear_value x)
    | (intro x; clear_value x)
    | split
    | dsimp -zeta only
    | dsimp -zeta +zetaDelta only
    | lift_lets
    | dsimp only

theorem requestLine_keeps {P : State → Prop} (c : Closed 0x200000 P) (x1 : State) (x2) (x3) (x4) (x5) (h1 : P x1) :
    P (requestLine x1 x2 x3 x4 x5) := by
  unfold requestLine
  repeat' first
    | with_reducible assumption
    | with_reducible apply modFab_keeps c
    | with_reducible refine fun _ => ?_
    | lift_lets -underBinder
    | (intro x; refine (fun hx : P x => ?_) ?_; clear_value x)
    | (intro x; refine (fun hx : P x.2 => ?_) ?_; clear_value x)
    | (intro x; refine (fun hx : P x.1 => ?_) ?_; clear_value x)
    | (intro x; refine (fun hx : P x.s => ?_) ?_; clear_value x)
    | (intro x; clear_value x)
    | intro _
    | split
    | dsimp -zeta only
    | dsimp -zeta +zetaDelta only
    | lift_lets
    | dsimp only

theorem loadLine_keeps {P : State → Prop} (c : Closed 0x60000600800 P) (x1) (x2) (x3) (x4 : Bool × State) (x5) (h4 : P x4.2) :
    P (loadLine x1 x2 x3 x4 x5).2 := by
  have c1 := c.sub (K' := 0x200000) (by decide)
  have c2 := c.sub (K' := 0x200800) (by decide)
  unfold loadLine
  repeat' first
    | with_reducible assumption
    | with_reducible apply requestLine_keeps c1
    | with_reducible apply modFab_keeps c1
    | with_reducible apply endTransfer_keeps c2
    | with_reducible apply sramEngine_keeps c
    | with_reducible refine fun _ => ?_
    | lift_lets -underBinder
    | (intro x; refine (fun hx : P x => ?_) ?_; clear_value x)
    | (intro x; refine (fun hx : P x.2 => ?_) ?_; clear_value x)
    | (intro x; refine (fun hx : P x.1 => ?_) ?_; clear_value x)
    | (intro x; refine (fun hx : P x.s => ?_) ?_; clear_value x)
    | (intro x; clear_value x)
    | intro _
    | split
    | dsimp -zeta only
    | dsimp -zeta +zetaDelta only
    | lift_lets
    | dsimp only

theorem remoteLoad_keeps {P : State → Prop} (c : Closed 0x60200640800 P) (x1 : State) (x2) (x3) (x4) (x5) (x6) (h1 : P x1) :
    P (remoteLoad x1 x2 x3 x4 x5 x6) := by
  have c1 := c.sub (K' := 0x800) (by decide)
  have c2 := c.sub (K' := 0x60200240000) (by decide)
  have c3 := c.sub (K' := 0x60000600800) (by decide)
  have c4 := c.sub (K' := 0x60000000000) (by decide)
  have c5 := c.sub (K' := 0x200000) (by decide)
  unfold remoteLoad
  repeat' first
    | with_reducible assumption
    | with_reducible apply markPartial_keeps c1
    | with_reducible apply issueReads_keeps c2
    | with_reducible apply loadLine_keeps c3
    | with_reducible apply logOnly_keeps c4
    | with_reducible apply modFab_keeps c5
    | with_reducible refine snd_of (by assumption) ?_
    | with_reducible refine fun _ => ?_
    | lift_lets -underBinder
    | (intro x; refine (fun hx : P x => ?_) ?_; clear_value x)
    | (intro x; refine (fun hx : P x.2 => ?_) ?_; clear_value x)
    | (intro x; refine (fun hx : P x.1 => ?_) ?_; clear_value x)
    | (intro x; refine (fun hx : P x.s => ?_) ?_; clear_value x)
    | (intro x; clear_value x)
    | with_reducible apply foldl_keeps
    | with_reducible apply foldl_keeps_fst
    | with_reducible apply foldl_keeps_snd
    | intro _
    | split
    | dsimp -zeta only
    | dsimp -zeta +zetaDelta only
    | lift_lets
    | dsimp only

theorem serveRead_keeps {P : State → Prop} (c : Closed 0x60200240000 P) (x1 : State) (x2) (x3) (x4) (x5) (h1 : P x1) :
    P (serveRead x1 x2 x3 x4 x5) := by
  have c1 := c.sub (K' := 0x60200040000) (by decide)
  have c2 := c.sub (K' := 0x200000) (by decide)
  unfold serveRead
  repeat' first
    | with_reducible assumption
    | with_reducible apply sendParcel_keeps c1
    | with_reducible apply modFab_keeps c2
    | with_reducible refine fun _ => ?_
    | lift_lets -underBinder
    | (intro x; refine (fun hx : P x => ?_) ?_; clear_value x)
    | (intro x; refine (fun hx : P x.2 => ?_) ?_; clear_value x)
    | (intro x; refine (fun hx : P x.1 => ?_) ?_; clear_value x)
    | (intro x; refine (fun hx : P x.s => ?_) ?_; clear_value x)
    | (intro x; clear_value x)
    | with_reducible apply foldl_keeps
    | with_reducible apply foldl_keeps_fst
    | with_reducible apply foldl_keeps_snd
    | intro _
    | split
    | dsimp -zeta only
    | dsimp -zeta +zetaDelta only
    | lift_lets
    | dsimp only

theorem discardLineCount_keeps {P : State → Prop} (c : Closed 0x200000 P) (x1 : State) (x2) (h1 : P x1) :
    P (discardLineCount x1 x2) := by
  unfold discardLineCount
  repeat' first
    | with_reducible assumption
    | with_reducible apply modFab_keeps c
    | intro _
    | dsimp -zeta only

theorem setTag_keeps {P : State → Prop} (c : Closed 0x200000 P) (x1 : State) (x2) (x3) (x4) (h1 : P x1) :
    P (setTag x1 x2 x3 x4) := by
  unfold setTag
  repeat' first
    | with_reducible assumption
    | with_reducible apply modFab_keeps c
    | intro _
    | split
    | dsimp -zeta only

theorem readEnded_keeps {P : State → Prop} (c : Closed 0x60200241000 P) (x1 : State) (x2) (h1 : P x1) :
    P (readEnded x1 x2) := by
  have c1 := c.sub (K' := 0x60200240000) (by decide)
  have c2 := c.sub (K' := 0x200000) (by decide)
  unfold readEnded
  repeat' first
    | with_reducible assumption
    | with_reducible apply issueReads_keeps c1
    | with_reducible apply masterFollow_keeps c2
    | with_reducible apply drainCheck_keeps c
    | dsimp -zeta only

theorem fillLine_keeps {P : State → Prop} (c : Closed 0x60000600800 P) (x1 : State) (x2) (x3) (x4) (x5) (h1 : P x1) :
    P (fillLine x1 x2 x3 x4 x5) := by
  have c1 := c.sub (K' := 0x200000) (by decide)
  unfold fillLine
  repeat' first
    | with_reducible assumption
    | with_reducible apply modFab_keeps c1
    | with_reducible apply setTag_keeps c1
    | with_reducible apply sramEngine_keeps c
    | with_reducible refine fun _ => ?_
    | lift_lets -underBinder
    | (intro x; refine (fun hx : P x => ?_) ?_; clear_value x)
    | (intro x; refine (fun hx : P x.2 => ?_) ?_; clear_value x)
    | (intro x; refine (fun hx : P x.1 => ?_) ?_; clear_value x)
    | (intro x; refine (fun hx : P x.s => ?_) ?_; clear_value x)
    | (intro x; clear_value x)
    | with_reducible apply foldl_keeps
    | with_reducible apply foldl_keeps_fst
    | with_reducible apply foldl_keeps_snd
    | intro _
    | split
    | dsimp -zeta only
    | dsimp -zeta +zetaDelta only
    | lift_lets
    | dsimp only

theorem takeResponse_keeps {P : State → Prop} (c : Closed 0x60200641800 P) (x1 : State) (x2) (x3) (h1 : P x1) :
    P (takeResponse x1 x2 x3) := by
  have c1 := c.sub (K' := 0x200000) (by decide)
  have c2 := c.sub (K' := 0x60000000000) (by decide)
  have c3 := c.sub (K' := 0x60200241000) (by decide)
  have c4 := c.sub (K' := 0x60000600800) (by decide)
  have c5 := c.sub (K' := 0x200800) (by decide)
  unfold takeResponse
  repeat' first
    | with_reducible assumption
    | with_reducible apply discardLineCount_keeps c1
    | with_reducible apply logOnly_keeps c2
    | with_reducible apply readEnded_keeps c3
    | with_reducible apply fillLine_keeps c4
    | with_reducible apply endTransfer_keeps c5
    | with_reducible apply setTag_keeps c1
    | with_reducible refine fun _ => ?_
    | lift_lets -underBinder
    | (intro x; refine (fun hx : P x => ?_) ?_; clear_value x)
    | (intro x; refine (fun hx : P x.2 => ?_) ?_; clear_value x)
    | (intro x; refine (fun hx : P x.1 => ?_) ?_; clear_value x)
    | (intro x; refine (fun hx : P x.s => ?_) ?_; clear_value x)
    | (intro x; clear_value x)
    | intro _
    | split
    | dsimp -zeta only
    | dsimp -zeta +zetaDelta only
    | lift_lets
    | dsimp only

theorem loseRead_keeps {P : State → Prop} (c : Closed 0x60200241800 P) (x1 : State) (x2) (x3) (h1 : P x1) :
    P (loseRead x1 x2 x3) := by
  have c1 := c.sub (K' := 0x60000000000) (by decide)
  have c2 := c.sub (K' := 0x60200241000) (by decide)
  have c3 := c.sub (K' := 0x200000) (by decide)
  have c4 := c.sub (K' := 0x200800) (by decide)
  unfold loseRead
  repeat' first
    | with_reducible assumption
    | with_reducible apply logOnly_keeps c1
    | with_reducible apply readEnded_keeps c2
    | with_reducible apply modFab_keeps c3
    | with_reducible apply endTransfer_keeps c4
    | with_reducible apply setTag_keeps c3
    | with_reducible refine fun _ => ?_
    | lift_lets -underBinder
    | (intro x; refine (fun hx : P x => ?_) ?_; clear_value x)
    | (intro x; refine (fun hx : P x.2 => ?_) ?_; clear_value x)
    | (intro x; refine (fun hx : P x.1 => ?_) ?_; clear_value x)
    | (intro x; refine (fun hx : P x.s => ?_) ?_; clear_value x)
    | (intro x; clear_value x)
    | intro _
    | split
    | dsimp -zeta only
    | dsimp -zeta +zetaDelta only
    | lift_lets
    | dsimp only

theorem forceReads_keeps {P : State → Prop} (c : Closed 0x200000 P) (x1 : State) (x2) (h1 : P x1) :
    P (forceReads x1 x2) := by
  unfold forceReads
  repeat' first
    | with_reducible assumption
    | with_reducible apply modFab_keeps c
    | intro _
    | dsimp -zeta only

theorem scrubMismatch_keeps {P : State → Prop} (c : Closed 0x60200201000 P) (x1 : State) (x2) (x3) (x4) (h1 : P x1) :
    P (scrubMismatch x1 x2 x3 x4) := by
  have c1 := c.sub (K' := 0x1000) (by decide)
  have c2 := c.sub (K' := 0x60000000000) (by decide)
  have c3 := c.sub (K' := 0x200000) (by decide)
  have c4 := c.sub (K' := 0x20200000000) (by decide)
  unfold scrubMismatch
  repeat' first
    | with_reducible assumption
    | with_reducible apply modDie_keeps c1
    | with_reducible apply logOnly_keeps c2
    | with_reducible apply modFab_keeps c3
    | with_reducible apply raiseFrom_keeps c4
    | with_reducible refine fun _ => ?_
    | lift_lets -underBinder
    | (intro x; refine (fun hx : P x => ?_) ?_; clear_value x)
    | (intro x; refine (fun hx : P x.2 => ?_) ?_; clear_value x)
    | (intro x; refine (fun hx : P x.1 => ?_) ?_; clear_value x)
    | (intro x; refine (fun hx : P x.s => ?_) ?_; clear_value x)
    | (intro x; clear_value x)
    | intro _
    | split
    | dsimp -zeta only
    | dsimp -zeta +zetaDelta only
    | lift_lets
    | dsimp only

theorem scrubEnd_keeps {P : State → Prop} (c : Closed 0x60202201000 P) (x1 : State) (x2) (x3) (x4) (x5) (h1 : P x1) :
    P (scrubEnd x1 x2 x3 x4 x5) := by
  have c1 := c.sub (K' := 0x200000) (by decide)
  have c2 := c.sub (K' := 0x2000000) (by decide)
  have c3 := c.sub (K' := 0x60200201000) (by decide)
  unfold scrubEnd
  repeat' first
    | with_reducible assumption
    | with_reducible apply modFab_keeps c1
    | with_reducible apply modComp_keeps c2
    | with_reducible apply scrubMismatch_keeps c3
    | with_reducible refine fun _ => ?_
    | lift_lets -underBinder
    | (intro x; refine (fun hx : P x => ?_) ?_; clear_value x)
    | (intro x; refine (fun hx : P x.2 => ?_) ?_; clear_value x)
    | (intro x; refine (fun hx : P x.1 => ?_) ?_; clear_value x)
    | (intro x; refine (fun hx : P x.s => ?_) ?_; clear_value x)
    | (intro x; clear_value x)
    | intro _
    | split
    | dsimp -zeta only
    | dsimp -zeta +zetaDelta only
    | lift_lets
    | dsimp only

theorem scrubRun_keeps {P : State → Prop} (c : Closed 0x60202201000 P) (x1) (x2 : State) (x3) (x4) (h2 : P x2) :
    P (scrubRun x1 x2 x3 x4) := by
  have c1 := c.sub (K' := 0x200000) (by decide)
  fun_induction scrubRun x1 x2 x3 x4
  all_goals repeat' first
    | with_reducible assumption
    | with_reducible apply scrubEnd_keeps c
    | with_reducible apply modFab_keeps c1
    | with_reducible refine fun _ => ?_
    | lift_lets -underBinder
    | (intro x; refine (fun hx : P x => ?_) ?_; clear_value x)
    | (intro x; refine (fun hx : P x.2 => ?_) ?_; clear_value x)
    | (intro x; refine (fun hx : P x.1 => ?_) ?_; clear_value x)
    | (intro x; refine (fun hx : P x.s => ?_) ?_; clear_value x)
    | (intro x; clear_value x)
    | with_reducible apply foldl_keeps
    | with_reducible apply foldl_keeps_fst
    | with_reducible apply foldl_keeps_snd
    | intro _
    | split
    | with_reducible apply_assumption
    | dsimp -zeta only
    | dsimp -zeta +zetaDelta only
    | lift_lets
    | dsimp only

theorem scrubEpoch_keeps {P : State → Prop} (c : Closed 0x60202201000 P) (x1 : State) (x2) (h1 : P x1) :
    P (scrubEpoch x1 x2) := by
  have c1 := c.sub (K' := 0x200000) (by decide)
  unfold scrubEpoch
  repeat' first
    | with_reducible assumption
    | with_reducible apply scrubRun_keeps c
    | with_reducible apply modFab_keeps c1
    | with_reducible refine fun _ => ?_
    | lift_lets -underBinder
    | (intro x; refine (fun hx : P x => ?_) ?_; clear_value x)
    | (intro x; refine (fun hx : P x.2 => ?_) ?_; clear_value x)
    | (intro x; refine (fun hx : P x.1 => ?_) ?_; clear_value x)
    | (intro x; refine (fun hx : P x.s => ?_) ?_; clear_value x)
    | (intro x; clear_value x)
    | intro _
    | split
    | dsimp -zeta only
    | dsimp -zeta +zetaDelta only
    | lift_lets
    | dsimp only

theorem takeMaint_keeps {P : State → Prop} (c : Closed 0x600000 P) (x1 : State) (x2) (x3) (h1 : P x1) :
    P (takeMaint x1 x2 x3) := by
  have c1 := c.sub (K' := 0x400000) (by decide)
  unfold takeMaint
  repeat' first
    | with_reducible assumption
    | with_reducible apply memPut_keeps c1
    | with_reducible apply sramPut_keeps c
    | with_reducible refine fun _ => ?_
    | lift_lets -underBinder
    | (intro x; refine (fun hx : P x => ?_) ?_; clear_value x)
    | (intro x; refine (fun hx : P x.2 => ?_) ?_; clear_value x)
    | (intro x; refine (fun hx : P x.1 => ?_) ?_; clear_value x)
    | (intro x; refine (fun hx : P x.s => ?_) ?_; clear_value x)
    | (intro x; clear_value x)
    | intro _
    | split
    | dsimp -zeta only
    | dsimp -zeta +zetaDelta only
    | lift_lets
    | dsimp only

theorem sendMaint_keeps {P : State → Prop} (c : Closed 0x60200040000 P) (x1 : State) (x2) (x3) (x4) (x5) (h1 : P x1) :
    P (sendMaint x1 x2 x3 x4 x5) := by
  fun_induction sendMaint x1 x2 x3 x4 x5
  all_goals repeat' first
    | with_reducible assumption
    | with_reducible apply sendParcel_keeps c
    | with_reducible refine fun _ => ?_
    | lift_lets -underBinder
    | (intro x; refine (fun hx : P x => ?_) ?_; clear_value x)
    | (intro x; refine (fun hx : P x.2 => ?_) ?_; clear_value x)
    | (intro x; refine (fun hx : P x.1 => ?_) ?_; clear_value x)
    | (intro x; refine (fun hx : P x.s => ?_) ?_; clear_value x)
    | (intro x; clear_value x)
    | intro _
    | split
    | with_reducible apply_assumption
    | dsimp -zeta only
    | dsimp -zeta +zetaDelta only
    | lift_lets
    | dsimp only

theorem fabEquinox_keeps {P : State → Prop} (c : Closed 0x200000 P) (x1 : State) (x2) (h1 : P x1) :
    P (fabEquinox x1 x2) := by
  unfold fabEquinox
  repeat' first
    | with_reducible assumption
    | with_reducible apply modFab_keeps c
    | intro _
    | dsimp -zeta only

end Sys2Proof.Laws
end

