-- ==== Sys2Proof/Laws/KeepsFabric.lean ====
section
/-! SUPPORT. What each function of Machine/Fabric.lean can change: a predicate closed under its changes survives it. -/
namespace Sys2Proof.Laws
open Sys2Proof Sys2Proof.Machine

theorem execVc5Write_keeps {P : State → Prop} (c : Closed 0x60200644a10 P) (x1) (x2 : State) (h2 : P x2) :
    OnNext P (execVc5Write x1 x2) := by
  have c1 := c.sub (K' := 0x600000) (by decide)
  have c2 := c.sub (K' := 0x60200244a10) (by decide)
  unfold execVc5Write
  repeat' first
    | with_reducible assumption
    | with_reducible apply OnNext.unit
    | with_reducible apply OnNext.next
    | with_reducible apply OnNext.fault
    | with_reducible apply takeMaint_keeps c1
    | with_reducible apply onParcel_keeps c2
    | intro _
    | dsimp -zeta only

theorem execVc5Read_keeps {P : State → Prop} (c : Closed 0x60200244a10 P) (x1) (x2 : State) (h2 : P x2) :
    OnNext P (execVc5Read x1 x2) := by
  have c1 := c.sub (K' := 0x60200240000) (by decide)
  unfold execVc5Read
  repeat' first
    | with_reducible assumption
    | with_reducible apply OnNext.unit
    | with_reducible apply OnNext.next
    | with_reducible apply OnNext.fault
    | with_reducible apply serveRead_keeps c1
    | with_reducible apply onParcel_keeps c
    | intro _
    | dsimp -zeta only

theorem execRemoteLoad_keeps {P : State → Prop} (c : Closed 0x60200640800 P) (x1) (x2) (x3) (x4) (x5) (x6 : State) (h6 : P x6) :
    OnNext P (execRemoteLoad x1 x2 x3 x4 x5 x6) := by
  unfold execRemoteLoad
  repeat' first
    | with_reducible assumption
    | with_reducible apply OnNext.unit
    | with_reducible apply OnNext.next
    | with_reducible apply OnNext.fault
    | with_reducible apply remoteLoad_keeps c
    | dsimp -zeta only

theorem execReadRequest_keeps {P : State → Prop} (c : Closed 0x60200244a10 P) (x1) (x2 : State) (h2 : P x2) :
    OnNext P (execReadRequest x1 x2) := by
  have c1 := c.sub (K' := 0x60200240000) (by decide)
  unfold execReadRequest
  repeat' first
    | with_reducible assumption
    | with_reducible apply OnNext.unit
    | with_reducible apply OnNext.next
    | with_reducible apply OnNext.fault
    | with_reducible apply serveRead_keeps c1
    | with_reducible apply onParcel_keeps c
    | intro _
    | split
    | dsimp -zeta only

theorem execReadResponse_keeps {P : State → Prop} (c : Closed 0x60200645a10 P) (x1) (x2 : State) (h2 : P x2) :
    OnNext P (execReadResponse x1 x2) := by
  have c1 := c.sub (K' := 0x0) (by decide)
  have c2 := c.sub (K' := 0x60200641800) (by decide)
  have c3 := c.sub (K' := 0x60200244a10) (by decide)
  unfold execReadResponse
  repeat' first
    | with_reducible assumption
    | with_reducible apply OnNext.unit
    | with_reducible apply OnNext.next
    | with_reducible apply OnNext.fault
    | with_reducible apply onCd_keeps c1
    | with_reducible apply takeResponse_keeps c2
    | with_reducible apply onParcel_keeps c3
    | intro _
    | dsimp -zeta only

theorem execReadTimeout_keeps {P : State → Prop} (c : Closed 0x60200241800 P) (x1) (x2) (x3 : State) (h3 : P x3) :
    OnNext P (execReadTimeout x1 x2 x3) := by
  unfold execReadTimeout
  repeat' first
    | with_reducible assumption
    | with_reducible apply OnNext.unit
    | with_reducible apply OnNext.next
    | with_reducible apply OnNext.fault
    | with_reducible apply loseRead_keeps c
    | dsimp -zeta only

theorem fabCtrlReg_keeps {P : State → Prop} (c : Closed 0x200810 P) (x1 : State) (x2) (x3) (x4) (h1 : P x1) :
    P (fabCtrlReg x1 x2 x3 x4).1 := by
  unfold fabCtrlReg
  repeat' first
    | with_reducible assumption
    | with_reducible apply fabCtrl_keeps c
    | split
    | dsimp -zeta only

theorem execMasterEnWrite_keeps {P : State → Prop} (c : Closed 0x200a10 P) (x1) (x2) (x3) (x4 : State) (h4 : P x4) :
    OnNext P (execMasterEnWrite x1 x2 x3 x4) := by
  have c1 := c.sub (K' := 0x200) (by decide)
  have c2 := c.sub (K' := 0x200810) (by decide)
  unfold execMasterEnWrite
  repeat' first
    | with_reducible assumption
    | with_reducible apply OnNext.unit
    | with_reducible apply OnNext.next
    | with_reducible apply OnNext.fault
    | with_reducible apply answerWrite_keeps c1
    | with_reducible apply fabCtrlReg_keeps c2
    | with_reducible refine fst_of (by assumption) ?_
    | dsimp -zeta only

theorem execStuckTimeout_keeps {P : State → Prop} (c : Closed 0x60000200000 P) (x1) (x2 : State) (h2 : P x2) :
    OnNext P (execStuckTimeout x1 x2) := by
  have c1 := c.sub (K' := 0x60000000000) (by decide)
  have c2 := c.sub (K' := 0x200000) (by decide)
  unfold execStuckTimeout
  repeat' first
    | with_reducible assumption
    | with_reducible apply OnNext.unit
    | with_reducible apply OnNext.next
    | with_reducible apply OnNext.fault
    | with_reducible apply logOnly_keeps c1
    | with_reducible apply modFab_keeps c2
    | with_reducible refine fun _ => ?_
    | lift_lets -underBinder
    | (intro x; refine (fun hx : P x => ?_) ?_; clear_value x)
    | (intro x; refine (fun hx : P x.2 => ?_) ?_; clear_value x)
    | (intro x; refine (fun hx : P x.1 => ?_) ?_; clear_value x)
    | (intro x; refine (fun hx : P x.s => ?_) ?_; clear_value x)
    | (intro x; clear_value x)
    | with_reducible apply foldl_keeps
    | with_reducible apply foldl_keeps_fst
    | with_reducible apply foldl_keeps_snd
    | intro _
    | split
    | dsimp -zeta only
    | dsimp -zeta +zetaDelta only
    | lift_lets
    | dsimp only

theorem execRemoteCacheDisable_keeps {P : State → Prop} (c : Closed 0x200a10 P) (x1) (x2) (x3 : State) (h3 : P x3) :
    OnNext P (execRemoteCacheDisable x1 x2 x3) := by
  have c1 := c.sub (K' := 0x200) (by decide)
  have c2 := c.sub (K' := 0x200810) (by decide)
  unfold execRemoteCacheDisable
  repeat' first
    | with_reducible assumption
    | with_reducible apply OnNext.unit
    | with_reducible apply OnNext.next
    | with_reducible apply OnNext.fault
    | with_reducible apply answerWrite_keeps c1
    | with_reducible apply fabCtrlReg_keeps c2
    | with_reducible refine fst_of (by assumption) ?_
    | dsimp -zeta only

theorem execScrubRead_keeps {P : State → Prop} (c : Closed 0x60202201000 P) (x1) (x2 : State) (h2 : P x2) :
    OnNext P (execScrubRead x1 x2) := by
  unfold execScrubRead
  repeat' first
    | with_reducible assumption
    | with_reducible apply OnNext.unit
    | with_reducible apply OnNext.next
    | with_reducible apply OnNext.fault
    | with_reducible apply scrubEpoch_keeps c
    | split
    | dsimp -zeta only

theorem execWeightChunkRewrite_keeps {P : State → Prop} (c : Closed 0x60200240000 P) (x1) (x2) (x3) (x4 : State) (h4 : P x4) :
    OnNext P (execWeightChunkRewrite x1 x2 x3 x4) := by
  have c1 := c.sub (K' := 0x60200040000) (by decide)
  have c2 := c.sub (K' := 0x200000) (by decide)
  unfold execWeightChunkRewrite
  repeat' first
    | with_reducible assumption
    | with_reducible apply OnNext.unit
    | with_reducible apply OnNext.next
    | with_reducible apply OnNext.fault
    | with_reducible apply sendMaint_keeps c1
    | with_reducible apply modFab_keeps c2
    | with_reducible refine fun _ => ?_
    | lift_lets -underBinder
    | (intro x; refine (fun hx : P x => ?_) ?_; clear_value x)
    | (intro x; refine (fun hx : P x.2 => ?_) ?_; clear_value x)
    | (intro x; refine (fun hx : P x.1 => ?_) ?_; clear_value x)
    | (intro x; refine (fun hx : P x.s => ?_) ?_; clear_value x)
    | (intro x; clear_value x)
    | with_reducible apply foldl_keeps
    | with_reducible apply foldl_keeps_fst
    | with_reducible apply foldl_keeps_snd
    | intro _
    | split
    | dsimp -zeta only
    | dsimp -zeta +zetaDelta only
    | lift_lets
    | dsimp only

end Sys2Proof.Laws
end

