-- ==== Sys2Proof/Laws/KeepsHk.lean ====
section
/-! SUPPORT. What each function of Machine/Hk.lean can change: a predicate closed under its changes survives it. -/
namespace Sys2Proof.Laws
open Sys2Proof Sys2Proof.Machine

theorem modConv_keeps {P : State → Prop} (c : Closed 0x1000000000 P) (x1 : State) (x2) (x3) (h1 : P x1) :
    P (modConv x1 x2 x3) := by
  unfold modConv
  repeat' first
    | with_reducible assumption
    | with_reducible apply modHk_keeps c
    | intro _
    | split
    | dsimp -zeta only

theorem hkPlausibility_keeps {P : State → Prop} (c : Closed 0x21200000000 P) (x1 : State) (h1 : P x1) :
    P (hkPlausibility x1) := by
  have c1 := c.sub (K' := 0x20200000000) (by decide)
  have c2 := c.sub (K' := 0x1000000000) (by decide)
  unfold hkPlausibility
  repeat' first
    | with_reducible assumption
    | with_reducible apply raise_keeps c1
    | with_reducible apply modHk_keeps c2
    | intro _
    | split
    | dsimp -zeta only

theorem hkFault_keeps {P : State → Prop} (c : Closed 0x21200001000 P) (x1 : State) (x2) (x3) (h1 : P x1) :
    P (hkFault x1 x2 x3) := by
  have c1 := c.sub (K' := 0x1000000000) (by decide)
  have c2 := c.sub (K' := 0x1000) (by decide)
  have c3 := c.sub (K' := 0x21200000000) (by decide)
  have c4 := c.sub (K' := 0x20200000000) (by decide)
  unfold hkFault
  repeat' first
    | with_reducible assumption
    | with_reducible apply modConv_keeps c1
    | with_reducible apply unitDone_keeps c2
    | with_reducible apply hkPlausibility_keeps c3
    | with_reducible apply raise_keeps c4
    | with_reducible refine fun _ => ?_
    | lift_lets -underBinder
    | (intro x; refine (fun hx : P x => ?_) ?_; clear_value x)
    | (intro x; refine (fun hx : P x.2 => ?_) ?_; clear_value x)
    | (intro x; refine (fun hx : P x.1 => ?_) ?_; clear_value x)
    | (intro x; refine (fun hx : P x.s => ?_) ?_; clear_value x)
    | (intro x; clear_value x)
    | intro _
    | split
    | dsimp -zeta only
    | dsimp -zeta +zetaDelta only
    | lift_lets
    | dsimp only

theorem hkSettle_keeps {P : State → Prop} (c : Closed 0x1000000000 P) (x1 : State) (x2) (h1 : P x1) :
    P (hkSettle x1 x2) := by
  unfold hkSettle
  repeat' first
    | with_reducible assumption
    | with_reducible apply modConv_keeps c
    | with_reducible refine fun _ => ?_
    | lift_lets -underBinder
    | (intro x; refine (fun hx : P x => ?_) ?_; clear_value x)
    | (intro x; refine (fun hx : P x.2 => ?_) ?_; clear_value x)
    | (intro x; refine (fun hx : P x.1 => ?_) ?_; clear_value x)
    | (intro x; refine (fun hx : P x.s => ?_) ?_; clear_value x)
    | (intro x; clear_value x)
    | intro _
    | split
    | dsimp -zeta only
    | dsimp -zeta +zetaDelta only
    | lift_lets
    | dsimp only

theorem execHkCalibrate_keeps {P : State → Prop} (c : Closed 0x21200001000 P) (x1) (x2) (x3 : State) (h3 : P x3) :
    OnNext P (execHkCalibrate x1 x2 x3) := by
  have c1 := c.sub (K' := 0x1000000000) (by decide)
  unfold execHkCalibrate
  repeat' first
    | with_reducible assumption
    | with_reducible apply OnNext.unit
    | with_reducible apply OnNext.next
    | with_reducible apply OnNext.fault
    | with_reducible apply hkSettle_keeps c1
    | with_reducible apply modConv_keeps c1
    | with_reducible apply hkFault_keeps c
    | intro _
    | split
    | dsimp -zeta only

theorem execHkRefresh_keeps {P : State → Prop} (c : Closed 0x21200001000 P) (x1) (x2) (x3 : State) (h3 : P x3) :
    OnNext P (execHkRefresh x1 x2 x3) := by
  have c1 := c.sub (K' := 0x1000000000) (by decide)
  have c2 := c.sub (K' := 0x20200000000) (by decide)
  unfold execHkRefresh
  repeat' first
    | with_reducible assumption
    | with_reducible apply OnNext.unit
    | with_reducible apply OnNext.next
    | with_reducible apply OnNext.fault
    | with_reducible apply modConv_keeps c1
    | with_reducible apply hkFault_keeps c
    | with_reducible apply raise_keeps c2
    | with_reducible refine fun _ => ?_
    | lift_lets -underBinder
    | (intro x; refine (fun hx : P x => ?_) ?_; clear_value x)
    | (intro x; refine (fun hx : P x.2 => ?_) ?_; clear_value x)
    | (intro x; refine (fun hx : P x.1 => ?_) ?_; clear_value x)
    | (intro x; refine (fun hx : P x.s => ?_) ?_; clear_value x)
    | (intro x; clear_value x)
    | intro _
    | split
    | dsimp -zeta only
    | dsimp -zeta +zetaDelta only
    | lift_lets
    | dsimp only

theorem hkOff_keeps {P : State → Prop} (c : Closed 0x1000001000 P) (x1 : State) (x2) (h1 : P x1) :
    P (hkOff x1 x2) := by
  have c1 := c.sub (K' := 0x1000000000) (by decide)
  have c2 := c.sub (K' := 0x1000) (by decide)
  unfold hkOff
  repeat' first
    | with_reducible assumption
    | with_reducible apply modConv_keeps c1
    | with_reducible apply unitDone_keeps c2
    | intro _
    | dsimp -zeta only

theorem hkOn_keeps {P : State → Prop} (c : Closed 0x1000000000 P) (x1 : State) (x2) (h1 : P x1) :
    P (hkOn x1 x2) := by
  unfold hkOn
  repeat' first
    | with_reducible assumption
    | with_reducible apply modConv_keeps c
    | intro _
    | split
    | dsimp -zeta only

theorem hkApply_keeps {P : State → Prop} (c : Closed 0x1000001000 P) (x1 : State) (x2) (h1 : P x1) :
    P (hkApply x1 x2) := by
  have c1 := c.sub (K' := 0x1000000000) (by decide)
  unfold hkApply
  repeat' first
    | with_reducible assumption
    | with_reducible apply hkOn_keeps c1
    | with_reducible apply modConv_keeps c1
    | with_reducible apply hkOff_keeps c
    | intro _
    | split
    | dsimp -zeta only

theorem hkApplyBoth_keeps {P : State → Prop} (c : Closed 0x1000001000 P) (x1 : State) (h1 : P x1) :
    P (hkApplyBoth x1) := by
  unfold hkApplyBoth
  repeat' first
    | with_reducible assumption
    | with_reducible apply hkApply_keeps c
    | dsimp -zeta only

theorem hkCtrlWrite_keeps {P : State → Prop} (c : Closed 0x1000001010 P) (x1 : State) (x2) (h1 : P x1) :
    P (hkCtrlWrite x1 x2).1 := by
  have c1 := c.sub (K' := 0x1000001000) (by decide)
  have c2 := c.sub (K' := 0x10) (by decide)
  unfold hkCtrlWrite
  repeat' first
    | with_reducible assumption
    | with_reducible apply hkApplyBoth_keeps c1
    | with_reducible apply rput_keeps c2
    | split
    | dsimp -zeta only

theorem hkQueuePut_keeps {P : State → Prop} (c : Closed 0x21200000000 P) (x1 : State) (x2) (x3) (x4) (h1 : P x1) :
    P (hkQueuePut x1 x2 x3 x4) := by
  have c1 := c.sub (K' := 0x20200000000) (by decide)
  have c2 := c.sub (K' := 0x1000000000) (by decide)
  unfold hkQueuePut
  repeat' first
    | with_reducible assumption
    | with_reducible apply raise_keeps c1
    | with_reducible apply modHk_keeps c2
    | with_reducible refine fun _ => ?_
    | lift_lets -underBinder
    | (intro x; refine (fun hx : P x => ?_) ?_; clear_value x)
    | (intro x; refine (fun hx : P x.2 => ?_) ?_; clear_value x)
    | (intro x; refine (fun hx : P x.1 => ?_) ?_; clear_value x)
    | (intro x; refine (fun hx : P x.s => ?_) ?_; clear_value x)
    | (intro x; clear_value x)
    | intro _
    | split
    | dsimp -zeta only
    | dsimp -zeta +zetaDelta only
    | lift_lets
    | dsimp only

theorem hkReference_keeps {P : State → Prop} (c : Closed 0x21200000000 P) (x1 : State) (x2) (x3) (x4) (h1 : P x1) :
    P (hkReference x1 x2 x3 x4) := by
  have c1 := c.sub (K' := 0x20200000000) (by decide)
  have c2 := c.sub (K' := 0x1000000000) (by decide)
  unfold hkReference
  repeat' first
    | with_reducible assumption
    | with_reducible apply raise_keeps c1
    | with_reducible apply modHk_keeps c2
    | with_reducible refine fun _ => ?_
    | lift_lets -underBinder
    | (intro x; refine (fun hx : P x => ?_) ?_; clear_value x)
    | (intro x; refine (fun hx : P x.2 => ?_) ?_; clear_value x)
    | (intro x; refine (fun hx : P x.1 => ?_) ?_; clear_value x)
    | (intro x; refine (fun hx : P x.s => ?_) ?_; clear_value x)
    | (intro x; clear_value x)
    | intro _
    | split
    | dsimp -zeta only
    | dsimp -zeta +zetaDelta only
    | lift_lets
    | dsimp only

theorem hkResult_keeps {P : State → Prop} (c : Closed 0x21200000000 P) (x1 : State) (x2) (x3) (x4) (x5) (x6) (x7) (h1 : P x1) :
    P (hkResult x1 x2 x3 x4 x5 x6 x7) := by
  have c1 := c.sub (K' := 0x20200000000) (by decide)
  have c2 := c.sub (K' := 0x1000000000) (by decide)
  unfold hkResult
  repeat' first
    | with_reducible assumption
    | with_reducible apply hkQueuePut_keeps c
    | with_reducible apply hkReference_keeps c
    | with_reducible apply raise_keeps c1
    | with_reducible apply modHk_keeps c2
    | with_reducible refine fun _ => ?_
    | lift_lets -underBinder
    | (intro x; refine (fun hx : P x => ?_) ?_; clear_value x)
    | (intro x; refine (fun hx : P x.2 => ?_) ?_; clear_value x)
    | (intro x; refine (fun hx : P x.1 => ?_) ?_; clear_value x)
    | (intro x; refine (fun hx : P x.s => ?_) ?_; clear_value x)
    | (intro x; clear_value x)
    | intro _
    | split
    | dsimp -zeta only
    | dsimp -zeta +zetaDelta only
    | lift_lets
    | dsimp only

theorem hkSample_keeps {P : State → Prop} (c : Closed 0x21200000000 P) (x1 : State) (x2) (x3) (x4) (x5) (x6) (h1 : P x1) :
    P (hkSample x1 x2 x3 x4 x5 x6) := by
  unfold hkSample
  repeat' first
    | with_reducible assumption
    | with_reducible apply hkResult_keeps c
    | with_reducible refine fun _ => ?_
    | lift_lets -underBinder
    | (intro x; refine (fun hx : P x => ?_) ?_; clear_value x)
    | (intro x; refine (fun hx : P x.2 => ?_) ?_; clear_value x)
    | (intro x; refine (fun hx : P x.1 => ?_) ?_; clear_value x)
    | (intro x; refine (fun hx : P x.s => ?_) ?_; clear_value x)
    | (intro x; clear_value x)
    | dsimp -zeta only
    | dsimp -zeta +zetaDelta only
    | lift_lets
    | dsimp only

theorem hkAfter_keeps {P : State → Prop} (c : Closed 0x1000001000 P) (x1 : State) (x2) (h1 : P x1) :
    P (hkAfter x1 x2) := by
  have c1 := c.sub (K' := 0x1000000000) (by decide)
  have c2 := c.sub (K' := 0x1000) (by decide)
  unfold hkAfter
  repeat' first
    | with_reducible assumption
    | with_reducible apply modConv_keeps c1
    | with_reducible apply unitDone_keeps c2
    | with_reducible refine fun _ => ?_
    | lift_lets -underBinder
    | (intro x; refine (fun hx : P x => ?_) ?_; clear_value x)
    | (intro x; refine (fun hx : P x.2 => ?_) ?_; clear_value x)
    | (intro x; refine (fun hx : P x.1 => ?_) ?_; clear_value x)
    | (intro x; refine (fun hx : P x.s => ?_) ?_; clear_value x)
    | (intro x; clear_value x)
    | intro _
    | split
    | dsimp -zeta only
    | dsimp -zeta +zetaDelta only
    | lift_lets
    | dsimp only

theorem hkScanStep_hkScan_keeps {P : State → Prop} (c : Closed 0x21200001000 P) (x1) (x2) (x3 : State → State) (x4) (x5 : State) (h3 : ∀ y0, P y0 → P (x3 y0)) (h5 : P x5) :
    P (hkScanStep.hkScan x1 x2 x3 x4 x5) := by
  have c1 := c.sub (K' := 0x1000000000) (by decide)
  have c2 := c.sub (K' := 0x21200000000) (by decide)
  have c3 := c.sub (K' := 0x1000001000) (by decide)
  unfold hkScanStep.hkScan
  repeat' first
    | with_reducible assumption
    | with_reducible apply modConv_keeps c1
    | with_reducible apply hkSample_keeps c2
    | with_reducible apply hkAfter_keeps c3
    | with_reducible refine fun _ => ?_
    | (intro x; refine (fun hx : ∀ t , P t → P (x t ) => ?_) ?_; clear_value x)
    | lift_lets -underBinder
    | (intro x; refine (fun hx : P x => ?_) ?_; clear_value x)
    | (intro x; refine (fun hx : P x.2 => ?_) ?_; clear_value x)
    | (intro x; refine (fun hx : P x.1 => ?_) ?_; clear_value x)
    | (intro x; refine (fun hx : P x.s => ?_) ?_; clear_value x)
    | (intro x; clear_value x)
    | intro _
    | split
    | with_reducible apply_assumption
    | with_reducible apply_assumption
    | dsimp -zeta only
    | dsimp -zeta +zetaDelta only
    | lift_lets
    | dsimp only

theorem hkScanStep_keeps {P : State → Prop} (c : Closed 0x21200001000 P) (x1 : State) (x2) (x3) (h1 : P x1) :
    P (hkScanStep x1 x2 x3) := by
  have c1 := c.sub (K' := 0x1000000000) (by decide)
  have c2 := c.sub (K' := 0x21200000000) (by decide)
  have c3 := c.sub (K' := 0x1000001000) (by decide)
  unfold hkScanStep
  repeat' first
    | with_reducible assumption
    | with_reducible apply hkScanStep_hkScan_keeps c
    | with_reducible apply modConv_keeps c1
    | with_reducible apply hkSample_keeps c2
    | with_reducible apply hkAfter_keeps c3
    | with_reducible refine fun _ => ?_
    | (intro x; refine (fun hx : ∀ t , P t → P (x t ) => ?_) ?_; clear_value x)
    | lift_lets -underBinder
    | (intro x; refine (fun hx : P x => ?_) ?_; clear_value x)
    | (intro x; refine (fun hx : P x.2 => ?_) ?_; clear_value x)
    | (intro x; refine (fun hx : P x.1 => ?_) ?_; clear_value x)
    | (intro x; refine (fun hx : P x.s => ?_) ?_; clear_value x)
    | (intro x; clear_value x)
    | intro _
    | split
    | with_reducible apply_assumption
    | dsimp -zeta only
    | dsimp -zeta +zetaDelta only
    | lift_lets
    | dsimp only

theorem hkPairStep_keeps {P : State → Prop} (c : Closed 0x21200001000 P) (x1 : State) (x2) (x3) (h1 : P x1) :
    P (hkPairStep x1 x2 x3) := by
  have c1 := c.sub (K' := 0x1000000000) (by decide)
  have c2 := c.sub (K' := 0x21200000000) (by decide)
  have c3 := c.sub (K' := 0x1000) (by decide)
  unfold hkPairStep
  repeat' first
    | with_reducible assumption
    | with_reducible apply modConv_keeps c1
    | with_reducible apply hkSample_keeps c2
    | with_reducible apply unitDone_keeps c3
    | with_reducible refine fun _ => ?_
    | lift_lets -underBinder
    | (intro x; refine (fun hx : P x => ?_) ?_; clear_value x)
    | (intro x; refine (fun hx : P x.2 => ?_) ?_; clear_value x)
    | (intro x; refine (fun hx : P x.1 => ?_) ?_; clear_value x)
    | (intro x; refine (fun hx : P x.s => ?_) ?_; clear_value x)
    | (intro x; clear_value x)
    | intro _
    | split
    | dsimp -zeta only
    | dsimp -zeta +zetaDelta only
    | lift_lets
    | dsimp only

theorem execHkConversion_keeps {P : State → Prop} (c : Closed 0x21200001000 P) (x1) (x2) (x3 : State) (h3 : P x3) :
    OnNext P (execHkConversion x1 x2 x3) := by
  unfold execHkConversion
  repeat' first
    | with_reducible assumption
    | with_reducible apply OnNext.unit
    | with_reducible apply OnNext.next
    | with_reducible apply OnNext.fault
    | with_reducible apply hkScanStep_keeps c
    | with_reducible apply hkPairStep_keeps c
    | split
    | dsimp -zeta only

theorem startAdcScan_keeps {P : State → Prop} (c : Closed 0x21200001800 P) (x1 : State) (x2) (x3) (x4) (h1 : P x1) :
    P (startAdcScan x1 x2 x3 x4) := by
  have c1 := c.sub (K' := 0x1800) (by decide)
  have c2 := c.sub (K' := 0x1000000000) (by decide)
  have c3 := c.sub (K' := 0x1000) (by decide)
  have c4 := c.sub (K' := 0x20200000000) (by decide)
  unfold startAdcScan
  repeat' first
    | with_reducible assumption
    | with_reducible apply missEntry_keeps c1
    | with_reducible apply modConv_keeps c2
    | with_reducible apply unitDone_keeps c3
    | with_reducible apply raise_keeps c4
    | with_reducible refine fun _ => ?_
    | lift_lets -underBinder
    | (intro x; refine (fun hx : P x => ?_) ?_; clear_value x)
    | (intro x; refine (fun hx : P x.2 => ?_) ?_; clear_value x)
    | (intro x; refine (fun hx : P x.1 => ?_) ?_; clear_value x)
    | (intro x; refine (fun hx : P x.s => ?_) ?_; clear_value x)
    | (intro x; clear_value x)
    | intro _
    | split
    | dsimp -zeta only
    | dsimp -zeta +zetaDelta only
    | lift_lets
    | dsimp only

theorem execAdcScan_keeps {P : State → Prop} (c : Closed 0x61200045a10 P) (x1) (x2 : State) (h2 : P x2) :
    OnNext P (execAdcScan x1 x2) := by
  have c1 := c.sub (K' := 0x60200045a10) (by decide)
  have c2 := c.sub (K' := 0x21200001800) (by decide)
  unfold execAdcScan
  repeat' first
    | with_reducible assumption
    | with_reducible apply OnNext.unit
    | with_reducible apply OnNext.next
    | with_reducible apply OnNext.fault
    | with_reducible apply onLaunch_keeps c1
    | with_reducible apply startAdcScan_keeps c2
    | intro _
    | dsimp -zeta only

theorem hkUrgentWrite_keeps {P : State → Prop} (c : Closed 0x21200000000 P) (x1 : State) (x2) (x3) (h1 : P x1) :
    P (hkUrgentWrite x1 x2 x3).1 := by
  have c1 := c.sub (K' := 0x1000000000) (by decide)
  have c2 := c.sub (K' := 0x20200000000) (by decide)
  unfold hkUrgentWrite
  repeat' first
    | with_reducible assumption
    | with_reducible apply modConv_keeps c1
    | with_reducible apply raise_keeps c2
    | with_reducible apply modHk_keeps c1
    | with_reducible refine fun _ => ?_
    | lift_lets -underBinder
    | (intro x; refine (fun hx : P x => ?_) ?_; clear_value x)
    | (intro x; refine (fun hx : P x.2 => ?_) ?_; clear_value x)
    | (intro x; refine (fun hx : P x.1 => ?_) ?_; clear_value x)
    | (intro x; refine (fun hx : P x.s => ?_) ?_; clear_value x)
    | (intro x; clear_value x)
    | intro _
    | split
    | dsimp -zeta only
    | dsimp -zeta +zetaDelta only
    | lift_lets
    | dsimp only

theorem execHkUrgent_keeps {P : State → Prop} (c : Closed 0x21200000200 P) (x1) (x2) (x3 : State) (h3 : P x3) :
    OnNext P (execHkUrgent x1 x2 x3) := by
  have c1 := c.sub (K' := 0x21200000000) (by decide)
  have c2 := c.sub (K' := 0x200) (by decide)
  unfold execHkUrgent
  repeat' first
    | with_reducible assumption
    | with_reducible apply OnNext.unit
    | with_reducible apply OnNext.next
    | with_reducible apply OnNext.fault
    | with_reducible apply hkUrgentWrite_keeps c1
    | with_reducible apply answerWrite_keeps c2
    | with_reducible refine fst_of (by assumption) ?_
    | dsimp -zeta only

theorem hkPop_keeps {P : State → Prop} (c : Closed 0x1000000000 P) (x1 : State) (h1 : P x1) :
    P (hkPop x1).2 := by
  unfold hkPop
  repeat' first
    | with_reducible assumption
    | with_reducible apply modHk_keeps c
    | intro _
    | split
    | dsimp -zeta only

theorem hkQLo_keeps {P : State → Prop} (c : Closed 0x1000000040 P) (x1 : State) (x2) (h1 : P x1) :
    P (hkQLo x1 x2).2 := by
  have c1 := c.sub (K' := 0x40) (by decide)
  have c2 := c.sub (K' := 0x1000000000) (by decide)
  unfold hkQLo
  repeat' first
    | with_reducible assumption
    | with_reducible apply setHiShadow_keeps c1
    | with_reducible apply hkPop_keeps c2
    | with_reducible refine snd_of (by assumption) ?_
    | with_reducible refine fun _ => ?_
    | lift_lets -underBinder
    | (intro x; refine (fun hx : P x => ?_) ?_; clear_value x)
    | (intro x; refine (fun hx : P x.2 => ?_) ?_; clear_value x)
    | (intro x; refine (fun hx : P x.1 => ?_) ?_; clear_value x)
    | (intro x; refine (fun hx : P x.s => ?_) ?_; clear_value x)
    | (intro x; clear_value x)
    | dsimp -zeta only
    | dsimp -zeta +zetaDelta only
    | lift_lets
    | dsimp only

theorem execHkQRead_keeps {P : State → Prop} (c : Closed 0x1000000240 P) (x1) (x2 : State) (h2 : P x2) :
    OnNext P (execHkQRead x1 x2) := by
  have c1 := c.sub (K' := 0x1000000040) (by decide)
  have c2 := c.sub (K' := 0x200) (by decide)
  unfold execHkQRead
  repeat' first
    | with_reducible assumption
    | with_reducible apply OnNext.unit
    | with_reducible apply OnNext.next
    | with_reducible apply OnNext.fault
    | with_reducible apply hkQLo_keeps c1
    | with_reducible apply answer_keeps c2
    | with_reducible refine snd_of (by assumption) ?_
    | with_reducible refine fun _ => ?_
    | lift_lets -underBinder
    | (intro x; refine (fun hx : P x => ?_) ?_; clear_value x)
    | (intro x; refine (fun hx : P x.2 => ?_) ?_; clear_value x)
    | (intro x; refine (fun hx : P x.1 => ?_) ?_; clear_value x)
    | (intro x; refine (fun hx : P x.s => ?_) ?_; clear_value x)
    | (intro x; clear_value x)
    | dsimp -zeta only
    | dsimp -zeta +zetaDelta only
    | lift_lets
    | dsimp only

theorem hkMmClrWrite_keeps {P : State → Prop} (c : Closed 0x1000000000 P) (x1 : State) (x2) (x3) (h1 : P x1) :
    P (hkMmClrWrite x1 x2 x3).1 := by
  unfold hkMmClrWrite
  repeat' first
    | with_reducible assumption
    | with_reducible apply modHk_keeps c
    | intro _
    | split
    | dsimp -zeta only

theorem execHkMmClr_keeps {P : State → Prop} (c : Closed 0x1000000200 P) (x1) (x2) (x3 : State) (h3 : P x3) :
    OnNext P (execHkMmClr x1 x2 x3) := by
  have c1 := c.sub (K' := 0x200) (by decide)
  have c2 := c.sub (K' := 0x1000000000) (by decide)
  unfold execHkMmClr
  repeat' first
    | with_reducible assumption
    | with_reducible apply OnNext.unit
    | with_reducible apply OnNext.next
    | with_reducible apply OnNext.fault
    | with_reducible apply answerWrite_keeps c1
    | with_reducible apply hkMmClrWrite_keeps c2
    | with_reducible refine fst_of (by assumption) ?_
    | dsimp -zeta only

theorem execXcPair_keeps {P : State → Prop} (c : Closed 0x21200000000 P) (x1) (x2) (x3 : State) (h3 : P x3) :
    OnNext P (execXcPair x1 x2 x3) := by
  have c1 := c.sub (K' := 0x1000000000) (by decide)
  unfold execXcPair
  repeat' first
    | with_reducible assumption
    | with_reducible apply OnNext.unit
    | with_reducible apply OnNext.next
    | with_reducible apply OnNext.fault
    | with_reducible apply hkResult_keeps c
    | with_reducible apply hkPlausibility_keeps c
    | with_reducible apply modHk_keeps c1
    | with_reducible refine fun _ => ?_
    | lift_lets -underBinder
    | (intro x; refine (fun hx : P x => ?_) ?_; clear_value x)
    | (intro x; refine (fun hx : P x.2 => ?_) ?_; clear_value x)
    | (intro x; refine (fun hx : P x.1 => ?_) ?_; clear_value x)
    | (intro x; refine (fun hx : P x.s => ?_) ?_; clear_value x)
    | (intro x; clear_value x)
    | intro _
    | split
    | dsimp -zeta only
    | dsimp -zeta +zetaDelta only
    | lift_lets
    | dsimp only

theorem hkLoseClock_keeps {P : State → Prop} (c : Closed 0x61200001008 P) (x1 : State) (x2) (h1 : P x1) :
    P (hkLoseClock x1 x2) := by
  have c1 := c.sub (K' := 0x8) (by decide)
  have c2 := c.sub (K' := 0x60000000000) (by decide)
  have c3 := c.sub (K' := 0x1000000000) (by decide)
  have c4 := c.sub (K' := 0x1000) (by decide)
  have c5 := c.sub (K' := 0x21200001000) (by decide)
  unfold hkLoseClock
  repeat' first
    | with_reducible assumption
    | with_reducible apply fresh_keeps c1
    | with_reducible apply logOnly_keeps c2
    | with_reducible apply modConv_keeps c3
    | with_reducible apply unitDone_keeps c4
    | with_reducible apply hkFault_keeps c5
    | with_reducible refine snd_of (by assumption) ?_
    | with_reducible refine fun _ => ?_
    | lift_lets -underBinder
    | (intro x; refine (fun hx : P x => ?_) ?_; clear_value x)
    | (intro x; refine (fun hx : P x.2 => ?_) ?_; clear_value x)
    | (intro x; refine (fun hx : P x.1 => ?_) ?_; clear_value x)
    | (intro x; refine (fun hx : P x.s => ?_) ?_; clear_value x)
    | (intro x; clear_value x)
    | intro _
    | split
    | dsimp -zeta only
    | dsimp -zeta +zetaDelta only
    | lift_lets
    | dsimp only

theorem execHkClockLost_keeps {P : State → Prop} (c : Closed 0x61200001008 P) (x1 : State) (h1 : P x1) :
    OnNext P (execHkClockLost x1) := by
  unfold execHkClockLost
  repeat' first
    | with_reducible assumption
    | with_reducible apply OnNext.unit
    | with_reducible apply OnNext.next
    | with_reducible apply OnNext.fault
    | with_reducible apply hkLoseClock_keeps c
    | dsimp -zeta only

theorem hkReset_keeps {P : State → Prop} (c : Closed 0x1000000030 P) (x1 : State) (h1 : P x1) :
    P (hkReset x1) := by
  have c1 := c.sub (K' := 0x30) (by decide)
  have c2 := c.sub (K' := 0x1000000000) (by decide)
  unfold hkReset
  repeat' first
    | with_reducible assumption
    | with_reducible apply rclear_keeps c1
    | with_reducible apply modHk_keeps c2
    | intro _
    | dsimp -zeta only

end Sys2Proof.Laws
end

