-- ==== Sys2Proof/Laws/KeepsFieldOps.lean ====
section
/-! SUPPORT. What each function of Machine/FieldOps.lean can change: a predicate closed under its changes survives it. -/
namespace Sys2Proof.Laws
open Sys2Proof Sys2Proof.Machine

theorem modOut_keeps {P : State → Prop} (c : Closed 0x2000000000 P) (x1 : State) (x2) (x3) (h1 : P x1) :
    P (modOut x1 x2 x3) := by
  unfold modOut
  repeat' first
    | with_reducible assumption
    | with_reducible apply modFo_keeps c
    | intro _
    | dsimp -zeta only

theorem foDrive_keeps {P : State → Prop} (c : Closed 0x200 P) (x1 : State) (x2 : State) (h1 : P x1) (h2 : P x2) :
    P (foDrive x1 x2) := by
  unfold foDrive
  repeat' first
    | with_reducible assumption
    | with_reducible apply emit_keeps c
    | with_reducible apply foldl_keeps
    | with_reducible apply foldl_keeps_fst
    | with_reducible apply foldl_keeps_snd
    | intro _
    | split
    | dsimp -zeta only

theorem foCommand_keeps {P : State → Prop} (c : Closed 0x2000000200 P) (x1 : State) (x2) (x3) (x4) (h1 : P x1) :
    P (foCommand x1 x2 x3 x4) := by
  have c1 := c.sub (K' := 0x200) (by decide)
  have c2 := c.sub (K' := 0x2000000000) (by decide)
  unfold foCommand
  repeat' first
    | with_reducible assumption
    | with_reducible apply foDrive_keeps c1
    | with_reducible apply modOut_keeps c2
    | with_reducible apply foldl_keeps
    | with_reducible apply foldl_keeps_fst
    | with_reducible apply foldl_keeps_snd
    | intro _
    | split
    | dsimp -zeta only

theorem foFollow_keeps {P : State → Prop} (c : Closed 0x2000000200 P) (x1 : State) (x2 : State) (h1 : P x1) (h2 : P x2) :
    P (foFollow x1 x2) := by
  have c1 := c.sub (K' := 0x200) (by decide)
  have c2 := c.sub (K' := 0x2000000000) (by decide)
  unfold foFollow
  repeat' first
    | with_reducible assumption
    | with_reducible apply foDrive_keeps c1
    | with_reducible apply modFo_keeps c2
    | with_reducible refine fun _ => ?_
    | lift_lets -underBinder
    | (intro x; refine (fun hx : P x => ?_) ?_; clear_value x)
    | (intro x; refine (fun hx : P x.2 => ?_) ?_; clear_value x)
    | (intro x; refine (fun hx : P x.1 => ?_) ?_; clear_value x)
    | (intro x; refine (fun hx : P x.s => ?_) ?_; clear_value x)
    | (intro x; clear_value x)
    | intro _
    | split
    | dsimp -zeta only
    | dsimp -zeta +zetaDelta only
    | lift_lets
    | dsimp only

theorem foOutNow_keeps {P : State → Prop} (c : Closed 0x2000000200 P) (x1 : State) (x2) (h1 : P x1) :
    P (foOutNow x1 x2) := by
  unfold foOutNow
  repeat' first
    | with_reducible assumption
    | with_reducible apply foCommand_keeps c
    | with_reducible refine fun _ => ?_
    | lift_lets -underBinder
    | (intro x; refine (fun hx : P x => ?_) ?_; clear_value x)
    | (intro x; refine (fun hx : P x.2 => ?_) ?_; clear_value x)
    | (intro x; refine (fun hx : P x.1 => ?_) ?_; clear_value x)
    | (intro x; refine (fun hx : P x.s => ?_) ?_; clear_value x)
    | (intro x; clear_value x)
    | intro _
    | dsimp -zeta only
    | dsimp -zeta +zetaDelta only
    | lift_lets
    | dsimp only

theorem foLatchOne_keeps {P : State → Prop} (c : Closed 0x22200000000 P) (x1 : State) (x2) (x3) (h1 : P x1) :
    P (foLatchOne x1 x2 x3) := by
  have c1 := c.sub (K' := 0x2000000000) (by decide)
  have c2 := c.sub (K' := 0x20200000000) (by decide)
  unfold foLatchOne
  repeat' first
    | with_reducible assumption
    | with_reducible apply modOut_keeps c1
    | with_reducible apply raise_keeps c2
    | with_reducible refine fun _ => ?_
    | lift_lets -underBinder
    | (intro x; refine (fun hx : P x => ?_) ?_; clear_value x)
    | (intro x; refine (fun hx : P x.2 => ?_) ?_; clear_value x)
    | (intro x; refine (fun hx : P x.1 => ?_) ?_; clear_value x)
    | (intro x; refine (fun hx : P x.s => ?_) ?_; clear_value x)
    | (intro x; clear_value x)
    | intro _
    | split
    | dsimp -zeta only
    | dsimp -zeta +zetaDelta only
    | lift_lets
    | dsimp only

theorem foLatch_keeps {P : State → Prop} (c : Closed 0x62200000200 P) (x1 : State) (x2) (x3) (x4) (h1 : P x1) :
    P (foLatch x1 x2 x3 x4) := by
  have c1 := c.sub (K' := 0x200) (by decide)
  have c2 := c.sub (K' := 0x60000000000) (by decide)
  have c3 := c.sub (K' := 0x2000000000) (by decide)
  have c4 := c.sub (K' := 0x22200000000) (by decide)
  have c5 := c.sub (K' := 0x20200000000) (by decide)
  unfold foLatch
  repeat' first
    | with_reducible assumption
    | with_reducible apply foDrive_keeps c1
    | with_reducible apply logOnly_keeps c2
    | with_reducible apply modFo_keeps c3
    | with_reducible apply foLatchOne_keeps c4
    | with_reducible apply raise_keeps c5
    | with_reducible refine fun _ => ?_
    | lift_lets -underBinder
    | (intro x; refine (fun hx : P x => ?_) ?_; clear_value x)
    | (intro x; refine (fun hx : P x.2 => ?_) ?_; clear_value x)
    | (intro x; refine (fun hx : P x.1 => ?_) ?_; clear_value x)
    | (intro x; refine (fun hx : P x.s => ?_) ?_; clear_value x)
    | (intro x; clear_value x)
    | with_reducible apply foldl_keeps
    | with_reducible apply foldl_keeps_fst
    | with_reducible apply foldl_keeps_snd
    | intro _
    | split
    | dsimp -zeta only
    | dsimp -zeta +zetaDelta only
    | lift_lets
    | dsimp only

theorem foRetryNow_keeps {P : State → Prop} (c : Closed 0x2000000200 P) (x1 : State) (x2) (h1 : P x1) :
    P (foRetryNow x1 x2) := by
  have c1 := c.sub (K' := 0x200) (by decide)
  have c2 := c.sub (K' := 0x2000000000) (by decide)
  unfold foRetryNow
  repeat' first
    | with_reducible assumption
    | with_reducible apply foDrive_keeps c1
    | with_reducible apply modOut_keeps c2
    | with_reducible refine fun _ => ?_
    | lift_lets -underBinder
    | (intro x; refine (fun hx : P x => ?_) ?_; clear_value x)
    | (intro x; refine (fun hx : P x.2 => ?_) ?_; clear_value x)
    | (intro x; refine (fun hx : P x.1 => ?_) ?_; clear_value x)
    | (intro x; refine (fun hx : P x.s => ?_) ?_; clear_value x)
    | (intro x; clear_value x)
    | with_reducible apply foldl_keeps
    | with_reducible apply foldl_keeps_fst
    | with_reducible apply foldl_keeps_snd
    | intro _
    | split
    | dsimp -zeta only
    | dsimp -zeta +zetaDelta only
    | lift_lets
    | dsimp only

theorem foFaultWrite_keeps {P : State → Prop} (c : Closed 0x2000000200 P) (x1 : State) (x2) (h1 : P x1) :
    P (foFaultWrite x1 x2) := by
  have c1 := c.sub (K' := 0x200) (by decide)
  have c2 := c.sub (K' := 0x2000000000) (by decide)
  unfold foFaultWrite
  repeat' first
    | with_reducible assumption
    | with_reducible apply foDrive_keeps c1
    | with_reducible apply modOut_keeps c2
    | with_reducible refine fun _ => ?_
    | lift_lets -underBinder
    | (intro x; refine (fun hx : P x => ?_) ?_; clear_value x)
    | (intro x; refine (fun hx : P x.2 => ?_) ?_; clear_value x)
    | (intro x; refine (fun hx : P x.1 => ?_) ?_; clear_value x)
    | (intro x; refine (fun hx : P x.s => ?_) ?_; clear_value x)
    | (intro x; clear_value x)
    | with_reducible apply foldl_keeps
    | with_reducible apply foldl_keeps_fst
    | with_reducible apply foldl_keeps_snd
    | intro _
    | split
    | dsimp -zeta only
    | dsimp -zeta +zetaDelta only
    | lift_lets
    | dsimp only

theorem foReset_keeps {P : State → Prop} (c : Closed 0x2000000230 P) (x1 : State) (x2) (h1 : P x1) :
    P (foReset x1 x2) := by
  have c1 := c.sub (K' := 0x200) (by decide)
  have c2 := c.sub (K' := 0x2000000000) (by decide)
  have c3 := c.sub (K' := 0x30) (by decide)
  unfold foReset
  repeat' first
    | with_reducible assumption
    | with_reducible apply foDrive_keeps c1
    | with_reducible apply modFo_keeps c2
    | with_reducible apply rclear_keeps c3
    | with_reducible refine fun _ => ?_
    | lift_lets -underBinder
    | (intro x; refine (fun hx : P x => ?_) ?_; clear_value x)
    | (intro x; refine (fun hx : P x.2 => ?_) ?_; clear_value x)
    | (intro x; refine (fun hx : P x.1 => ?_) ?_; clear_value x)
    | (intro x; refine (fun hx : P x.s => ?_) ?_; clear_value x)
    | (intro x; clear_value x)
    | intro _
    | split
    | dsimp -zeta only
    | dsimp -zeta +zetaDelta only
    | lift_lets
    | dsimp only

theorem modTe_keeps {P : State → Prop} (c : Closed 0x4000000000 P) (x1 : State) (x2) (x3) (h1 : P x1) :
    P (modTe x1 x2 x3) := by
  unfold modTe
  repeat' first
    | with_reducible assumption
    | with_reducible apply modTmp_keeps c
    | intro _
    | split
    | dsimp -zeta only

theorem teStart_keeps {P : State → Prop} (c : Closed 0x24200000000 P) (x1 : State) (x2) (h1 : P x1) :
    P (teStart x1 x2) := by
  have c1 := c.sub (K' := 0x4000000000) (by decide)
  have c2 := c.sub (K' := 0x20200000000) (by decide)
  unfold teStart
  repeat' first
    | with_reducible assumption
    | with_reducible apply modTe_keeps c1
    | with_reducible apply modTmp_keeps c1
    | with_reducible apply raise_keeps c2
    | with_reducible refine fun _ => ?_
    | lift_lets -underBinder
    | (intro x; refine (fun hx : P x => ?_) ?_; clear_value x)
    | (intro x; refine (fun hx : P x.2 => ?_) ?_; clear_value x)
    | (intro x; refine (fun hx : P x.1 => ?_) ?_; clear_value x)
    | (intro x; refine (fun hx : P x.s => ?_) ?_; clear_value x)
    | (intro x; clear_value x)
    | intro _
    | split
    | dsimp -zeta only
    | dsimp -zeta +zetaDelta only
    | lift_lets
    | dsimp only

theorem teFollow_keeps {P : State → Prop} (c : Closed 0x24200000000 P) (x1 : State) (x2) (h1 : P x1) :
    P (teFollow x1 x2) := by
  have c1 := c.sub (K' := 0x4000000000) (by decide)
  unfold teFollow
  repeat' first
    | with_reducible assumption
    | with_reducible apply modTe_keeps c1
    | with_reducible apply teStart_keeps c
    | intro _
    | split
    | dsimp -zeta only

theorem tmpFollow_keeps {P : State → Prop} (c : Closed 0x24200000000 P) (x1 : State) (h1 : P x1) :
    P (tmpFollow x1) := by
  unfold tmpFollow
  repeat' first
    | with_reducible assumption
    | with_reducible apply teFollow_keeps c
    | dsimp -zeta only

theorem tmpRestart_keeps {P : State → Prop} (c : Closed 0x24200000000 P) (x1 : State) (h1 : P x1) :
    P (tmpRestart x1) := by
  unfold tmpRestart
  repeat' first
    | with_reducible assumption
    | with_reducible apply teStart_keeps c
    | with_reducible apply foldl_keeps
    | with_reducible apply foldl_keeps_fst
    | with_reducible apply foldl_keeps_snd
    | intro _
    | split
    | dsimp -zeta only

theorem tamperRecord_keeps {P : State → Prop} (c : Closed 0x4200000000 P) (x1 : State) (x2) (x3) (x4) (x5) (h1 : P x1) :
    P (tamperRecord x1 x2 x3 x4 x5) := by
  have c1 := c.sub (K' := 0x4000000000) (by decide)
  have c2 := c.sub (K' := 0x200000000) (by decide)
  unfold tamperRecord
  repeat' first
    | with_reducible assumption
    | with_reducible apply modTmp_keeps c1
    | with_reducible apply raiseRecord_keeps c2
    | intro _
    | dsimp -zeta only

end Sys2Proof.Laws
end

