-- ==== Sys2Proof/Laws/KeepsListenOps.lean ====
section
/-! SUPPORT. What each function of Machine/ListenOps.lean can change: a predicate closed under its changes survives it. -/
namespace Sys2Proof.Laws
open Sys2Proof Sys2Proof.Machine

theorem modMic_keeps {P : State → Prop} (c : Closed 0x800000000 P) (x1 : State) (x2) (x3) (h1 : P x1) :
    P (modMic x1 x2 x3) := by
  unfold modMic
  repeat' first
    | with_reducible assumption
    | with_reducible apply modLst_keeps c
    | intro _
    | split
    | dsimp -zeta only

theorem lstRestart_keeps {P : State → Prop} (c : Closed 0x800000000 P) (x1 : State) (h1 : P x1) :
    P (lstRestart x1) := by
  unfold lstRestart
  repeat' first
    | with_reducible assumption
    | with_reducible apply modLst_keeps c
    | intro _
    | split
    | dsimp -zeta only

theorem lstOff_keeps {P : State → Prop} (c : Closed 0x800000000 P) (x1 : State) (h1 : P x1) :
    P (lstOff x1) := by
  unfold lstOff
  repeat' first
    | with_reducible assumption
    | with_reducible apply modLst_keeps c
    | intro _
    | split
    | dsimp -zeta only

theorem lstFollow_keeps {P : State → Prop} (c : Closed 0x800000000 P) (x1 : State) (h1 : P x1) :
    P (lstFollow x1) := by
  unfold lstFollow
  repeat' first
    | with_reducible assumption
    | with_reducible apply lstRestart_keeps c
    | with_reducible apply modLst_keeps c
    | with_reducible apply lstOff_keeps c
    | intro _
    | split
    | dsimp -zeta only

theorem lstPolicy_keeps {P : State → Prop} (c : Closed 0x800000000 P) (x1 : State) (h1 : P x1) :
    P (lstPolicy x1) := by
  unfold lstPolicy
  repeat' first
    | with_reducible assumption
    | with_reducible apply lstFollow_keeps c
    | with_reducible apply modLst_keeps c
    | intro _
    | dsimp -zeta only

theorem micFault_keeps {P : State → Prop} (c : Closed 0x20200000008 P) (x1 : State) (x2) (x3) (h1 : P x1) :
    P (micFault x1 x2 x3) := by
  have c1 := c.sub (K' := 0x8) (by decide)
  have c2 := c.sub (K' := 0x20200000000) (by decide)
  unfold micFault
  repeat' first
    | with_reducible assumption
    | with_reducible apply fresh_keeps c1
    | with_reducible apply raise_keeps c2
    | with_reducible refine snd_of (by assumption) ?_
    | with_reducible refine fun _ => ?_
    | lift_lets -underBinder
    | (intro x; refine (fun hx : P x => ?_) ?_; clear_value x)
    | (intro x; refine (fun hx : P x.2 => ?_) ?_; clear_value x)
    | (intro x; refine (fun hx : P x.1 => ?_) ?_; clear_value x)
    | (intro x; refine (fun hx : P x.s => ?_) ?_; clear_value x)
    | (intro x; clear_value x)
    | dsimp -zeta only
    | dsimp -zeta +zetaDelta only
    | lift_lets
    | dsimp only

theorem lstFaultCheck_keeps {P : State → Prop} (c : Closed 0x20a00000008 P) (x1 : State) (x2) (h1 : P x1) :
    P (lstFaultCheck x1 x2) := by
  have c1 := c.sub (K' := 0x20200000008) (by decide)
  have c2 := c.sub (K' := 0x800000000) (by decide)
  unfold lstFaultCheck
  repeat' first
    | with_reducible assumption
    | with_reducible apply micFault_keeps c1
    | with_reducible apply modLst_keeps c2
    | intro _
    | split
    | dsimp -zeta only

theorem lstRecover_keeps {P : State → Prop} (c : Closed 0x800000000 P) (x1 : State) (x2) (h1 : P x1) :
    P (lstRecover x1 x2) := by
  unfold lstRecover
  repeat' first
    | with_reducible assumption
    | with_reducible apply modLst_keeps c
    | intro _
    | split
    | dsimp -zeta only

theorem lstReset_keeps {P : State → Prop} (c : Closed 0x800000030 P) (x1 : State) (h1 : P x1) :
    P (lstReset x1) := by
  have c1 := c.sub (K' := 0x800000000) (by decide)
  have c2 := c.sub (K' := 0x30) (by decide)
  unfold lstReset
  repeat' first
    | with_reducible assumption
    | with_reducible apply modLst_keeps c1
    | with_reducible apply rclear_keeps c2
    | intro _
    | dsimp -zeta only

end Sys2Proof.Laws
end

