-- ==== Sys2Proof/Laws/KeepsPowerOps.lean ====
section
/-! SUPPORT. What each function of Machine/PowerOps.lean can change: a predicate closed under its changes survives it. -/
namespace Sys2Proof.Laws
open Sys2Proof Sys2Proof.Machine

theorem voutCode_keeps {P : State → Prop} (c : Closed 0x8 P) (x1 : State) (x2) (h1 : P x1) :
    P (voutCode x1 x2).2 := by
  unfold voutCode
  repeat' first
    | with_reducible assumption
    | with_reducible apply fresh_keeps c
    | with_reducible refine snd_of (by assumption) ?_
    | with_reducible refine fun _ => ?_
    | lift_lets -underBinder
    | (intro x; refine (fun hx : P x => ?_) ?_; clear_value x)
    | (intro x; refine (fun hx : P x.2 => ?_) ?_; clear_value x)
    | (intro x; refine (fun hx : P x.1 => ?_) ?_; clear_value x)
    | (intro x; refine (fun hx : P x.s => ?_) ?_; clear_value x)
    | (intro x; clear_value x)
    | split
    | dsimp -zeta only
    | dsimp -zeta +zetaDelta only
    | lift_lets
    | dsimp only

theorem sendVcore_keeps {P : State → Prop} (c : Closed 0x80000000208 P) (x1 : State) (x2) (h1 : P x1) :
    P (sendVcore x1 x2) := by
  have c1 := c.sub (K' := 0x80000000000) (by decide)
  have c2 := c.sub (K' := 0x200) (by decide)
  have c3 := c.sub (K' := 0x8) (by decide)
  unfold sendVcore
  repeat' first
    | with_reducible assumption
    | with_reducible apply modPower_keeps c1
    | with_reducible apply emit_keeps c2
    | with_reducible apply voutCode_keeps c3
    | with_reducible refine snd_of (by assumption) ?_
    | with_reducible refine fun _ => ?_
    | lift_lets -underBinder
    | (intro x; refine (fun hx : P x => ?_) ?_; clear_value x)
    | (intro x; refine (fun hx : P x.2 => ?_) ?_; clear_value x)
    | (intro x; refine (fun hx : P x.1 => ?_) ?_; clear_value x)
    | (intro x; refine (fun hx : P x.s => ?_) ?_; clear_value x)
    | (intro x; clear_value x)
    | intro _
    | split
    | dsimp -zeta only
    | dsimp -zeta +zetaDelta only
    | lift_lets
    | dsimp only

theorem applyCap_keeps {P : State → Prop} (c : Closed 0x80000000208 P) (x1 : State) (h1 : P x1) :
    P (applyCap x1) := by
  have c1 := c.sub (K' := 0x80000000000) (by decide)
  unfold applyCap
  repeat' first
    | with_reducible assumption
    | with_reducible apply modPower_keeps c1
    | with_reducible apply sendVcore_keeps c
    | with_reducible refine fun _ => ?_
    | lift_lets -underBinder
    | (intro x; refine (fun hx : P x => ?_) ?_; clear_value x)
    | (intro x; refine (fun hx : P x.2 => ?_) ?_; clear_value x)
    | (intro x; refine (fun hx : P x.1 => ?_) ?_; clear_value x)
    | (intro x; refine (fun hx : P x.s => ?_) ?_; clear_value x)
    | (intro x; clear_value x)
    | intro _
    | split
    | dsimp -zeta only
    | dsimp -zeta +zetaDelta only
    | lift_lets
    | dsimp only

theorem followSeason_keeps {P : State → Prop} (c : Closed 0x27a00001200 P) (x1 : State) (x2 : State) (h1 : P x1) (h2 : P x2) :
    P (followSeason x1 x2) := by
  have c1 := c.sub (K' := 0x2000000200) (by decide)
  have c2 := c.sub (K' := 0x1000001000) (by decide)
  have c3 := c.sub (K' := 0x800000000) (by decide)
  have c4 := c.sub (K' := 0x24200000000) (by decide)
  unfold followSeason
  repeat' first
    | with_reducible assumption
    | with_reducible apply foFollow_keeps c1
    | with_reducible apply hkApplyBoth_keeps c2
    | with_reducible apply lstPolicy_keeps c3
    | with_reducible apply tmpFollow_keeps c4
    | dsimp -zeta only

theorem seasonTo_keeps {P : State → Prop} (c : Closed 0xa7a00001208 P) (x1 : State) (x2) (h1 : P x1) :
    P (seasonTo x1 x2) := by
  have c1 := c.sub (K' := 0x80000000000) (by decide)
  have c2 := c.sub (K' := 0x80000000208) (by decide)
  have c3 := c.sub (K' := 0x20200000000) (by decide)
  have c4 := c.sub (K' := 0x27a00001200) (by decide)
  unfold seasonTo
  repeat' first
    | with_reducible assumption
    | with_reducible apply modPower_keeps c1
    | with_reducible apply sendVcore_keeps c2
    | with_reducible apply raise_keeps c3
    | with_reducible apply followSeason_keeps c4
    | with_reducible refine fun _ => ?_
    | lift_lets -underBinder
    | (intro x; refine (fun hx : P x => ?_) ?_; clear_value x)
    | (intro x; refine (fun hx : P x.2 => ?_) ?_; clear_value x)
    | (intro x; refine (fun hx : P x.1 => ?_) ?_; clear_value x)
    | (intro x; refine (fun hx : P x.s => ?_) ?_; clear_value x)
    | (intro x; clear_value x)
    | intro _
    | split
    | dsimp -zeta only
    | dsimp -zeta +zetaDelta only
    | lift_lets
    | dsimp only

theorem winterWake_keeps {P : State → Prop} (c : Closed 0xa7a00001208 P) (x1 : State) (h1 : P x1) :
    P (winterWake x1) := by
  have c1 := c.sub (K' := 0x80000000000) (by decide)
  unfold winterWake
  repeat' first
    | with_reducible assumption
    | with_reducible apply modPower_keeps c1
    | with_reducible apply seasonTo_keeps c
    | intro _
    | split
    | dsimp -zeta only

end Sys2Proof.Laws
end

