-- ==== Sys2Proof/Laws/KeepsListener.lean ====
section
/-! SUPPORT. What each function of Machine/Listener.lean can change: a predicate closed under its changes survives it. -/
namespace Sys2Proof.Laws
open Sys2Proof Sys2Proof.Machine

theorem micSettings_keeps {P : State → Prop} (c : Closed 0x800000000 P) (x1 : State) (x2) (h1 : P x1) :
    P (micSettings x1 x2) := by
  unfold micSettings
  repeat' first
    | with_reducible assumption
    | with_reducible apply modMic_keeps c
    | with_reducible refine fun _ => ?_
    | lift_lets -underBinder
    | (intro x; refine (fun hx : P x => ?_) ?_; clear_value x)
    | (intro x; refine (fun hx : P x.2 => ?_) ?_; clear_value x)
    | (intro x; refine (fun hx : P x.1 => ?_) ?_; clear_value x)
    | (intro x; refine (fun hx : P x.s => ?_) ?_; clear_value x)
    | (intro x; clear_value x)
    | intro _
    | split
    | dsimp -zeta only
    | dsimp -zeta +zetaDelta only
    | lift_lets
    | dsimp only

theorem micClip_keeps {P : State → Prop} (c : Closed 0x20a00000008 P) (x1 : State) (x2) (x3) (h1 : P x1) :
    P (micClip x1 x2 x3) := by
  have c1 := c.sub (K' := 0x20200000008) (by decide)
  have c2 := c.sub (K' := 0x800000000) (by decide)
  unfold micClip
  repeat' first
    | with_reducible assumption
    | with_reducible apply micFault_keeps c1
    | with_reducible apply modMic_keeps c2
    | with_reducible apply modLst_keeps c2
    | with_reducible refine fun _ => ?_
    | lift_lets -underBinder
    | (intro x; refine (fun hx : P x => ?_) ?_; clear_value x)
    | (intro x; refine (fun hx : P x.2 => ?_) ?_; clear_value x)
    | (intro x; refine (fun hx : P x.1 => ?_) ?_; clear_value x)
    | (intro x; refine (fun hx : P x.s => ?_) ?_; clear_value x)
    | (intro x; clear_value x)
    | intro _
    | split
    | dsimp -zeta only
    | dsimp -zeta +zetaDelta only
    | lift_lets
    | dsimp only

theorem micDetect_keeps {P : State → Prop} (c : Closed 0x800000000 P) (x1 : State) (x2) (x3) (h1 : P x1) :
    P (micDetect x1 x2 x3) := by
  unfold micDetect
  repeat' first
    | with_reducible assumption
    | with_reducible apply modMic_keeps c
    | with_reducible refine fun _ => ?_
    | lift_lets -underBinder
    | (intro x; refine (fun hx : P x => ?_) ?_; clear_value x)
    | (intro x; refine (fun hx : P x.2 => ?_) ?_; clear_value x)
    | (intro x; refine (fun hx : P x.1 => ?_) ?_; clear_value x)
    | (intro x; refine (fun hx : P x.s => ?_) ?_; clear_value x)
    | (intro x; clear_value x)
    | intro _
    | split
    | dsimp -zeta only
    | dsimp -zeta +zetaDelta only
    | lift_lets
    | dsimp only

theorem micGather_keeps {P : State → Prop} (c : Closed 0x800000000 P) (x1 : State) (x2) (x3) (h1 : P x1) :
    P (micGather x1 x2 x3) := by
  unfold micGather
  repeat' first
    | with_reducible assumption
    | with_reducible apply modMic_keeps c
    | with_reducible refine fun _ => ?_
    | lift_lets -underBinder
    | (intro x; refine (fun hx : P x => ?_) ?_; clear_value x)
    | (intro x; refine (fun hx : P x.2 => ?_) ?_; clear_value x)
    | (intro x; refine (fun hx : P x.1 => ?_) ?_; clear_value x)
    | (intro x; refine (fun hx : P x.s => ?_) ?_; clear_value x)
    | (intro x; clear_value x)
    | intro _
    | split
    | dsimp -zeta only
    | dsimp -zeta +zetaDelta only
    | lift_lets
    | dsimp only

theorem micFrame_keeps {P : State → Prop} (c : Closed 0x20a00000008 P) (x1 : State) (x2) (x3) (h1 : P x1) :
    P (micFrame x1 x2 x3) := by
  have c1 := c.sub (K' := 0x800000000) (by decide)
  unfold micFrame
  repeat' first
    | with_reducible assumption
    | with_reducible apply micDetect_keeps c1
    | with_reducible apply modMic_keeps c1
    | with_reducible apply micClip_keeps c
    | with_reducible apply micSettings_keeps c1
    | with_reducible apply micGather_keeps c1
    | with_reducible refine fun _ => ?_
    | lift_lets -underBinder
    | (intro x; refine (fun hx : P x => ?_) ?_; clear_value x)
    | (intro x; refine (fun hx : P x.2 => ?_) ?_; clear_value x)
    | (intro x; refine (fun hx : P x.1 => ?_) ?_; clear_value x)
    | (intro x; refine (fun hx : P x.s => ?_) ?_; clear_value x)
    | (intro x; clear_value x)
    | intro _
    | split
    | dsimp -zeta only
    | dsimp -zeta +zetaDelta only
    | lift_lets
    | dsimp only

theorem audioWake_keeps {P : State → Prop} (c : Closed 0xa7a00001208 P) (x1 : State) (x2) (x3) (x4) (h1 : P x1) :
    P (audioWake x1 x2 x3 x4) := by
  have c1 := c.sub (K' := 0x800000000) (by decide)
  have c2 := c.sub (K' := 0x200000000) (by decide)
  unfold audioWake
  repeat' first
    | with_reducible assumption
    | with_reducible apply winterWake_keeps c
    | with_reducible apply modLst_keeps c1
    | with_reducible apply raiseRecord_keeps c2
    | with_reducible refine fun _ => ?_
    | lift_lets -underBinder
    | (intro x; refine (fun hx : P x => ?_) ?_; clear_value x)
    | (intro x; refine (fun hx : P x.2 => ?_) ?_; clear_value x)
    | (intro x; refine (fun hx : P x.1 => ?_) ?_; clear_value x)
    | (intro x; refine (fun hx : P x.s => ?_) ?_; clear_value x)
    | (intro x; clear_value x)
    | intro _
    | split
    | dsimp -zeta only
    | dsimp -zeta +zetaDelta only
    | lift_lets
    | dsimp only

theorem fireEnergy_keeps {P : State → Prop} (c : Closed 0xa7a00001208 P) (x1 : State) (h1 : P x1) :
    P (fireEnergy x1) := by
  have c1 := c.sub (K' := 0x800000000) (by decide)
  unfold fireEnergy
  repeat' first
    | with_reducible assumption
    | with_reducible apply modMic_keeps c1
    | with_reducible apply modLst_keeps c1
    | with_reducible apply audioWake_keeps c
    | with_reducible refine fun _ => ?_
    | lift_lets -underBinder
    | (intro x; refine (fun hx : P x => ?_) ?_; clear_value x)
    | (intro x; refine (fun hx : P x.2 => ?_) ?_; clear_value x)
    | (intro x; refine (fun hx : P x.1 => ?_) ?_; clear_value x)
    | (intro x; refine (fun hx : P x.s => ?_) ?_; clear_value x)
    | (intro x; clear_value x)
    | with_reducible apply foldl_keeps
    | with_reducible apply foldl_keeps_fst
    | with_reducible apply foldl_keeps_snd
    | intro _
    | split
    | dsimp -zeta only
    | dsimp -zeta +zetaDelta only
    | lift_lets
    | dsimp only

theorem matchFrame_keeps {P : State → Prop} (c : Closed 0xa7a00001208 P) (x1 : State) (x2) (h1 : P x1) :
    P (matchFrame x1 x2) := by
  have c1 := c.sub (K' := 0x800000000) (by decide)
  unfold matchFrame
  repeat' first
    | with_reducible assumption
    | with_reducible apply modLst_keeps c1
    | with_reducible apply audioWake_keeps c
    | with_reducible refine fun _ => ?_
    | lift_lets -underBinder
    | (intro x; refine (fun hx : P x => ?_) ?_; clear_value x)
    | (intro x; refine (fun hx : P x.2 => ?_) ?_; clear_value x)
    | (intro x; refine (fun hx : P x.1 => ?_) ?_; clear_value x)
    | (intro x; refine (fun hx : P x.s => ?_) ?_; clear_value x)
    | (intro x; clear_value x)
    | with_reducible apply foldl_keeps
    | with_reducible apply foldl_keeps_fst
    | with_reducible apply foldl_keeps_snd
    | intro _
    | split
    | dsimp -zeta only
    | dsimp -zeta +zetaDelta only
    | lift_lets
    | dsimp only

theorem recogError_keeps {P : State → Prop} (c : Closed 0x20a00000008 P) (x1 : State) (h1 : P x1) :
    P (recogError x1) := by
  have c1 := c.sub (K' := 0x20200000008) (by decide)
  have c2 := c.sub (K' := 0x800000000) (by decide)
  unfold recogError
  repeat' first
    | with_reducible assumption
    | with_reducible apply micFault_keeps c1
    | with_reducible apply modLst_keeps c2
    | intro _
    | split
    | dsimp -zeta only

theorem execAudioFrame_keeps {P : State → Prop} (c : Closed 0xa7a00001208 P) (x1) (x2) (x3) (x4) (x5) (x6) (x7 : State) (h7 : P x7) :
    OnNext P (execAudioFrame x1 x2 x3 x4 x5 x6 x7) := by
  have c1 := c.sub (K' := 0x20a00000008) (by decide)
  have c2 := c.sub (K' := 0x800000000) (by decide)
  unfold execAudioFrame
  repeat' first
    | with_reducible assumption
    | with_reducible apply OnNext.unit
    | with_reducible apply OnNext.next
    | with_reducible apply OnNext.fault
    | with_reducible apply recogError_keeps c1
    | with_reducible apply matchFrame_keeps c
    | with_reducible apply modMic_keeps c2
    | with_reducible apply modLst_keeps c2
    | with_reducible apply micFrame_keeps c1
    | with_reducible apply fireEnergy_keeps c
    | with_reducible refine fun _ => ?_
    | lift_lets -underBinder
    | (intro x; refine (fun hx : P x => ?_) ?_; clear_value x)
    | (intro x; refine (fun hx : P x.2 => ?_) ?_; clear_value x)
    | (intro x; refine (fun hx : P x.1 => ?_) ?_; clear_value x)
    | (intro x; refine (fun hx : P x.s => ?_) ?_; clear_value x)
    | (intro x; clear_value x)
    | with_reducible apply foldl_keeps
    | with_reducible apply foldl_keeps_fst
    | with_reducible apply foldl_keeps_snd
    | intro _
    | split
    | dsimp -zeta only
    | dsimp -zeta +zetaDelta only
    | lift_lets
    | dsimp only

theorem execListenerStartDone_keeps {P : State → Prop} (c : Closed 0x800000000 P) (x1 : State) (h1 : P x1) :
    OnNext P (execListenerStartDone x1) := by
  unfold execListenerStartDone
  repeat' first
    | with_reducible assumption
    | with_reducible apply OnNext.unit
    | with_reducible apply OnNext.next
    | with_reducible apply OnNext.fault
    | with_reducible apply modLst_keeps c
    | intro _
    | split
    | dsimp -zeta only

theorem lstCtrlNow_keeps {P : State → Prop} (c : Closed 0x800000010 P) (x1 : State) (x2) (h1 : P x1) :
    P (lstCtrlNow x1 x2) := by
  have c1 := c.sub (K' := 0x800000000) (by decide)
  have c2 := c.sub (K' := 0x10) (by decide)
  unfold lstCtrlNow
  repeat' first
    | with_reducible assumption
    | with_reducible apply lstFollow_keeps c1
    | with_reducible apply modLst_keeps c1
    | with_reducible apply rput_keeps c2
    | with_reducible refine fun _ => ?_
    | lift_lets -underBinder
    | (intro x; refine (fun hx : P x => ?_) ?_; clear_value x)
    | (intro x; refine (fun hx : P x.2 => ?_) ?_; clear_value x)
    | (intro x; refine (fun hx : P x.1 => ?_) ?_; clear_value x)
    | (intro x; refine (fun hx : P x.s => ?_) ?_; clear_value x)
    | (intro x; clear_value x)
    | intro _
    | split
    | dsimp -zeta only
    | dsimp -zeta +zetaDelta only
    | lift_lets
    | dsimp only

theorem lstCtrlReg_keeps {P : State → Prop} (c : Closed 0x800000010 P) (x1 : State) (x2) (x3) (h1 : P x1) :
    P (lstCtrlReg x1 x2 x3).1 := by
  unfold lstCtrlReg
  repeat' first
    | with_reducible assumption
    | with_reducible apply lstCtrlNow_keeps c
    | split
    | dsimp -zeta only

theorem execListenerSelftest_keeps {P : State → Prop} (c : Closed 0x800000210 P) (x1) (x2) (x3 : State) (h3 : P x3) :
    OnNext P (execListenerSelftest x1 x2 x3) := by
  have c1 := c.sub (K' := 0x800000010) (by decide)
  have c2 := c.sub (K' := 0x200) (by decide)
  unfold execListenerSelftest
  repeat' first
    | with_reducible assumption
    | with_reducible apply OnNext.unit
    | with_reducible apply OnNext.next
    | with_reducible apply OnNext.fault
    | with_reducible apply lstCtrlReg_keeps c1
    | with_reducible apply answerWrite_keeps c2
    | with_reducible refine fst_of (by assumption) ?_
    | dsimp -zeta only

theorem execSelftestDone_keeps {P : State → Prop} (c : Closed 0x800000000 P) (x1) (x2) (x3 : State) (h3 : P x3) :
    OnNext P (execSelftestDone x1 x2 x3) := by
  unfold execSelftestDone
  repeat' first
    | with_reducible assumption
    | with_reducible apply OnNext.unit
    | with_reducible apply OnNext.next
    | with_reducible apply OnNext.fault
    | with_reducible apply modLst_keeps c
    | intro _
    | split
    | dsimp -zeta only

theorem execMicBiasShort_keeps {P : State → Prop} (c : Closed 0x20a00000008 P) (x1) (x2 : State) (h2 : P x2) :
    OnNext P (execMicBiasShort x1 x2) := by
  have c1 := c.sub (K' := 0x20200000008) (by decide)
  have c2 := c.sub (K' := 0x800000000) (by decide)
  unfold execMicBiasShort
  repeat' first
    | with_reducible assumption
    | with_reducible apply OnNext.unit
    | with_reducible apply OnNext.next
    | with_reducible apply OnNext.fault
    | with_reducible apply lstFaultCheck_keeps c
    | with_reducible apply micFault_keeps c1
    | with_reducible apply modMic_keeps c2
    | with_reducible apply modLst_keeps c2
    | with_reducible refine fun _ => ?_
    | lift_lets -underBinder
    | (intro x; refine (fun hx : P x => ?_) ?_; clear_value x)
    | (intro x; refine (fun hx : P x.2 => ?_) ?_; clear_value x)
    | (intro x; refine (fun hx : P x.1 => ?_) ?_; clear_value x)
    | (intro x; refine (fun hx : P x.s => ?_) ?_; clear_value x)
    | (intro x; clear_value x)
    | intro _
    | split
    | dsimp -zeta only
    | dsimp -zeta +zetaDelta only
    | lift_lets
    | dsimp only

theorem execMicBiasRetry_keeps {P : State → Prop} (c : Closed 0x800000000 P) (x1) (x2 : State) (h2 : P x2) :
    OnNext P (execMicBiasRetry x1 x2) := by
  unfold execMicBiasRetry
  repeat' first
    | with_reducible assumption
    | with_reducible apply OnNext.unit
    | with_reducible apply OnNext.next
    | with_reducible apply OnNext.fault
    | with_reducible apply lstRecover_keeps c
    | with_reducible apply modMic_keeps c
    | intro _
    | split
    | dsimp -zeta only

theorem execMicOpen_keeps {P : State → Prop} (c : Closed 0x20a00000008 P) (x1) (x2 : State) (h2 : P x2) :
    OnNext P (execMicOpen x1 x2) := by
  have c1 := c.sub (K' := 0x20200000008) (by decide)
  have c2 := c.sub (K' := 0x800000000) (by decide)
  unfold execMicOpen
  repeat' first
    | with_reducible assumption
    | with_reducible apply OnNext.unit
    | with_reducible apply OnNext.next
    | with_reducible apply OnNext.fault
    | with_reducible apply lstFaultCheck_keeps c
    | with_reducible apply micFault_keeps c1
    | with_reducible apply modMic_keeps c2
    | with_reducible apply modLst_keeps c2
    | with_reducible refine fun _ => ?_
    | lift_lets -underBinder
    | (intro x; refine (fun hx : P x => ?_) ?_; clear_value x)
    | (intro x; refine (fun hx : P x.2 => ?_) ?_; clear_value x)
    | (intro x; refine (fun hx : P x.1 => ?_) ?_; clear_value x)
    | (intro x; refine (fun hx : P x.s => ?_) ?_; clear_value x)
    | (intro x; clear_value x)
    | intro _
    | split
    | dsimp -zeta only
    | dsimp -zeta +zetaDelta only
    | lift_lets
    | dsimp only

theorem execMicOpenCleared_keeps {P : State → Prop} (c : Closed 0x800000000 P) (x1) (x2 : State) (h2 : P x2) :
    OnNext P (execMicOpenCleared x1 x2) := by
  unfold execMicOpenCleared
  repeat' first
    | with_reducible assumption
    | with_reducible apply OnNext.unit
    | with_reducible apply OnNext.next
    | with_reducible apply OnNext.fault
    | with_reducible apply lstRecover_keeps c
    | with_reducible apply modMic_keeps c
    | intro _
    | split
    | dsimp -zeta only

theorem execMicSilent_keeps {P : State → Prop} (c : Closed 0x20a00000008 P) (x1) (x2 : State) (h2 : P x2) :
    OnNext P (execMicSilent x1 x2) := by
  have c1 := c.sub (K' := 0x20200000008) (by decide)
  have c2 := c.sub (K' := 0x800000000) (by decide)
  unfold execMicSilent
  repeat' first
    | with_reducible assumption
    | with_reducible apply OnNext.unit
    | with_reducible apply OnNext.next
    | with_reducible apply OnNext.fault
    | with_reducible apply micFault_keeps c1
    | with_reducible apply modMic_keeps c2
    | with_reducible apply modLst_keeps c2
    | intro _
    | split
    | dsimp -zeta only

theorem execModClockLost_keeps {P : State → Prop} (c : Closed 0x20a00000008 P) (x1 : State) (h1 : P x1) :
    OnNext P (execModClockLost x1) := by
  have c1 := c.sub (K' := 0x8) (by decide)
  have c2 := c.sub (K' := 0x800000000) (by decide)
  have c3 := c.sub (K' := 0x20200000008) (by decide)
  unfold execModClockLost
  repeat' first
    | with_reducible assumption
    | with_reducible apply OnNext.unit
    | with_reducible apply OnNext.next
    | with_reducible apply OnNext.fault
    | with_reducible apply fresh_keeps c1
    | with_reducible apply lstRestart_keeps c2
    | with_reducible apply micFault_keeps c3
    | with_reducible apply modLst_keeps c2
    | with_reducible refine snd_of (by assumption) ?_
    | with_reducible refine fun _ => ?_
    | lift_lets -underBinder
    | (intro x; refine (fun hx : P x => ?_) ?_; clear_value x)
    | (intro x; refine (fun hx : P x.2 => ?_) ?_; clear_value x)
    | (intro x; refine (fun hx : P x.1 => ?_) ?_; clear_value x)
    | (intro x; refine (fun hx : P x.s => ?_) ?_; clear_value x)
    | (intro x; clear_value x)
    | intro _
    | split
    | dsimp -zeta only
    | dsimp -zeta +zetaDelta only
    | lift_lets
    | dsimp only

theorem execListenerWatchdog_keeps {P : State → Prop} (c : Closed 0x20a00000008 P) (x1 : State) (h1 : P x1) :
    OnNext P (execListenerWatchdog x1) := by
  have c1 := c.sub (K' := 0x8) (by decide)
  have c2 := c.sub (K' := 0x800000000) (by decide)
  have c3 := c.sub (K' := 0x20200000008) (by decide)
  unfold execListenerWatchdog
  repeat' first
    | with_reducible assumption
    | with_reducible apply OnNext.unit
    | with_reducible apply OnNext.next
    | with_reducible apply OnNext.fault
    | with_reducible apply fresh_keeps c1
    | with_reducible apply lstRestart_keeps c2
    | with_reducible apply micFault_keeps c3
    | with_reducible refine snd_of (by assumption) ?_
    | with_reducible refine fun _ => ?_
    | lift_lets -underBinder
    | (intro x; refine (fun hx : P x => ?_) ?_; clear_value x)
    | (intro x; refine (fun hx : P x.2 => ?_) ?_; clear_value x)
    | (intro x; refine (fun hx : P x.1 => ?_) ?_; clear_value x)
    | (intro x; refine (fun hx : P x.s => ?_) ?_; clear_value x)
    | (intro x; clear_value x)
    | split
    | dsimp -zeta only
    | dsimp -zeta +zetaDelta only
    | lift_lets
    | dsimp only

end Sys2Proof.Laws
end

