-- ==== Sys2Proof/Laws/KeepsRecords.lean ====
section
/-! SUPPORT. What each function of Machine/Records.lean can change: a predicate closed under its changes survives it. -/
namespace Sys2Proof.Laws
open Sys2Proof Sys2Proof.Machine

theorem recBad_keeps {P : State → Prop} (c : Closed 0x20200000000 P) (x1 : State) (h1 : P x1) :
    P (recBad x1) := by
  unfold recBad
  repeat' first
    | with_reducible assumption
    | with_reducible apply raise_keeps c
    | dsimp -zeta only

theorem frameTime_keeps {P : State → Prop} (c : Closed 0x8 P) (x1 : State) (h1 : P x1) :
    P (frameTime x1).2 := by
  unfold frameTime
  repeat' first
    | with_reducible assumption
    | with_reducible apply fresh_keeps c
    | with_reducible refine snd_of (by assumption) ?_
    | with_reducible refine fun _ => ?_
    | lift_lets -underBinder
    | (intro x; refine (fun hx : P x => ?_) ?_; clear_value x)
    | (intro x; refine (fun hx : P x.2 => ?_) ?_; clear_value x)
    | (intro x; refine (fun hx : P x.1 => ?_) ?_; clear_value x)
    | (intro x; refine (fun hx : P x.s => ?_) ?_; clear_value x)
    | (intro x; clear_value x)
    | split
    | dsimp -zeta only
    | dsimp -zeta +zetaDelta only
    | lift_lets
    | dsimp only

theorem frameRecord_keeps {P : State → Prop} (c : Closed 0x8 P) (x1 : State) (x2) (x3) (h1 : P x1) :
    P (frameRecord x1 x2 x3).2 := by
  unfold frameRecord
  repeat' first
    | with_reducible assumption
    | with_reducible apply frameTime_keeps c
    | with_reducible refine snd_of (by assumption) ?_
    | with_reducible refine fun _ => ?_
    | lift_lets -underBinder
    | (intro x; refine (fun hx : P x => ?_) ?_; clear_value x)
    | (intro x; refine (fun hx : P x.2 => ?_) ?_; clear_value x)
    | (intro x; refine (fun hx : P x.1 => ?_) ?_; clear_value x)
    | (intro x; refine (fun hx : P x.s => ?_) ?_; clear_value x)
    | (intro x; clear_value x)
    | dsimp -zeta only
    | dsimp -zeta +zetaDelta only
    | lift_lets
    | dsimp only

theorem itemRecord_keeps {P : State → Prop} (c : Closed 0x20200000008 P) (x1 : State) (x2) (h1 : P x1) :
    P (itemRecord x1 x2).2 := by
  have c1 := c.sub (K' := 0x8) (by decide)
  have c2 := c.sub (K' := 0x20200000000) (by decide)
  unfold itemRecord
  repeat' first
    | with_reducible assumption
    | with_reducible apply fresh_keeps c1
    | with_reducible apply recBad_keeps c2
    | with_reducible apply frameRecord_keeps c1
    | with_reducible refine snd_of (by assumption) ?_
    | with_reducible refine fun _ => ?_
    | lift_lets -underBinder
    | (intro x; refine (fun hx : P x => ?_) ?_; clear_value x)
    | (intro x; refine (fun hx : P x.2 => ?_) ?_; clear_value x)
    | (intro x; refine (fun hx : P x.1 => ?_) ?_; clear_value x)
    | (intro x; refine (fun hx : P x.s => ?_) ?_; clear_value x)
    | (intro x; clear_value x)
    | split
    | dsimp -zeta only
    | dsimp -zeta +zetaDelta only
    | lift_lets
    | dsimp only

theorem takeRecord_keeps {P : State → Prop} (c : Closed 0x200000000 P) (x1 : State) (x2) (x3) (h1 : P x1) :
    P (takeRecord x1 x2 x3) := by
  unfold takeRecord
  repeat' first
    | with_reducible assumption
    | with_reducible apply dropRecords_keeps c
    | with_reducible apply takeRecords_keeps c
    | split
    | dsimp -zeta only

theorem takeItems_keeps {P : State → Prop} (c : Closed 0x20200000008 P) (x1 : State) (x2) (x3) (h1 : P x1) :
    P (takeItems x1 x2 x3) := by
  have c1 := c.sub (K' := 0x200000000) (by decide)
  induction x3 generalizing x1 with
  | nil => exact h1
  | cons b bs ih =>
    unfold takeItems
    refine ih _ ?_
    have hr := itemRecord_keeps (c.sub (by decide)) x1 b h1
    split
    · exact takeRecord_keeps c1 _ _ _ hr
    · exact hr

theorem setPart_keeps {P : State → Prop} (c : Closed 0x200000000 P) (x1 : State) (x2) (x3) (h1 : P x1) :
    P (setPart x1 x2 x3) := by
  unfold setPart
  repeat' first
    | with_reducible assumption
    | with_reducible apply modRecs_keeps c
    | intro _
    | dsimp -zeta only

theorem takeBody_keeps {P : State → Prop} (c : Closed 0x20200000008 P) (x1 : State) (x2) (x3) (h1 : P x1) :
    P (takeBody x1 x2 x3) := by
  have c1 := c.sub (K' := 0x20200000000) (by decide)
  have c2 := c.sub (K' := 0x8) (by decide)
  have c3 := c.sub (K' := 0x200000000) (by decide)
  unfold takeBody
  repeat' first
    | with_reducible assumption
    | with_reducible apply recBad_keeps c1
    | with_reducible apply frameRecord_keeps c2
    | with_reducible apply takeRecord_keeps c3
    | with_reducible refine snd_of (by assumption) ?_
    | with_reducible refine fun _ => ?_
    | lift_lets -underBinder
    | (intro x; refine (fun hx : P x => ?_) ?_; clear_value x)
    | (intro x; refine (fun hx : P x.2 => ?_) ?_; clear_value x)
    | (intro x; refine (fun hx : P x.1 => ?_) ?_; clear_value x)
    | (intro x; refine (fun hx : P x.s => ?_) ?_; clear_value x)
    | (intro x; clear_value x)
    | split
    | dsimp -zeta only
    | dsimp -zeta +zetaDelta only
    | lift_lets
    | dsimp only

theorem takeEmbeds_keeps {P : State → Prop} (c : Closed 0x600000200 P) (x1 : State) (x2) (h1 : P x1) :
    P (takeEmbeds x1 x2) := by
  have c1 := c.sub (K' := 0x200000000) (by decide)
  unfold takeEmbeds
  repeat' first
    | with_reducible assumption
    | with_reducible apply sendEmbeds_keeps c
    | with_reducible apply modRecs_keeps c1
    | with_reducible refine fun _ => ?_
    | lift_lets -underBinder
    | (intro x; refine (fun hx : P x => ?_) ?_; clear_value x)
    | (intro x; refine (fun hx : P x.2 => ?_) ?_; clear_value x)
    | (intro x; refine (fun hx : P x.1 => ?_) ?_; clear_value x)
    | (intro x; refine (fun hx : P x.s => ?_) ?_; clear_value x)
    | (intro x; clear_value x)
    | intro _
    | split
    | dsimp -zeta only
    | dsimp -zeta +zetaDelta only
    | lift_lets
    | dsimp only

theorem takeRecordParcel_keeps {P : State → Prop} (c : Closed 0x20600000208 P) (x1 : State) (x2) (h1 : P x1) :
    P (takeRecordParcel x1 x2) := by
  have c1 := c.sub (K' := 0x600000200) (by decide)
  have c2 := c.sub (K' := 0x20200000000) (by decide)
  have c3 := c.sub (K' := 0x20200000008) (by decide)
  have c4 := c.sub (K' := 0x200000000) (by decide)
  unfold takeRecordParcel
  repeat' first
    | with_reducible assumption
    | with_reducible apply takeEmbeds_keeps c1
    | with_reducible apply recBad_keeps c2
    | with_reducible apply takeBody_keeps c3
    | with_reducible apply setPart_keeps c4
    | with_reducible apply modRecs_keeps c4
    | with_reducible apply takeItems_keeps c3
    | with_reducible refine fun _ => ?_
    | lift_lets -underBinder
    | (intro x; refine (fun hx : P x => ?_) ?_; clear_value x)
    | (intro x; refine (fun hx : P x.2 => ?_) ?_; clear_value x)
    | (intro x; refine (fun hx : P x.1 => ?_) ?_; clear_value x)
    | (intro x; refine (fun hx : P x.s => ?_) ?_; clear_value x)
    | (intro x; clear_value x)
    | intro _
    | split
    | dsimp -zeta only
    | dsimp -zeta +zetaDelta only
    | lift_lets
    | dsimp only

theorem execRecordParcel_keeps {P : State → Prop} (c : Closed 0x60600244a18 P) (x1) (x2 : State) (h2 : P x2) :
    OnNext P (execRecordParcel x1 x2) := by
  have c1 := c.sub (K' := 0x20600000208) (by decide)
  have c2 := c.sub (K' := 0x60200244a10) (by decide)
  unfold execRecordParcel
  repeat' first
    | with_reducible assumption
    | with_reducible apply OnNext.unit
    | with_reducible apply OnNext.next
    | with_reducible apply OnNext.fault
    | with_reducible apply takeRecordParcel_keeps c1
    | with_reducible apply onParcel_keeps c2
    | intro _
    | split
    | dsimp -zeta only

theorem dropCrop_keeps {P : State → Prop} (c : Closed 0x200000000 P) (x1 : State) (x2) (h1 : P x1) :
    P (dropCrop x1 x2) := by
  unfold dropCrop
  repeat' first
    | with_reducible assumption
    | with_reducible apply modRecs_keeps c
    | intro _
    | dsimp -zeta only

theorem cropShort_keeps {P : State → Prop} (c : Closed 0x20200000000 P) (x1 : State) (x2) (h1 : P x1) :
    P (cropShort x1 x2) := by
  have c1 := c.sub (K' := 0x200000000) (by decide)
  unfold cropShort
  repeat' first
    | with_reducible assumption
    | with_reducible apply dropCrop_keeps c1
    | with_reducible apply raise_keeps c
    | dsimp -zeta only

theorem takeCropParcel_keeps {P : State → Prop} (c : Closed 0x20200000008 P) (x1 : State) (x2) (h1 : P x1) :
    P (takeCropParcel x1 x2) := by
  have c1 := c.sub (K' := 0x20200000000) (by decide)
  have c2 := c.sub (K' := 0x8) (by decide)
  have c3 := c.sub (K' := 0x200000000) (by decide)
  unfold takeCropParcel
  repeat' first
    | with_reducible assumption
    | with_reducible apply cropShort_keeps c1
    | with_reducible apply frameTime_keeps c2
    | with_reducible apply modRecs_keeps c3
    | with_reducible refine snd_of (by assumption) ?_
    | with_reducible refine fun _ => ?_
    | lift_lets -underBinder
    | (intro x; refine (fun hx : P x => ?_) ?_; clear_value x)
    | (intro x; refine (fun hx : P x.2 => ?_) ?_; clear_value x)
    | (intro x; refine (fun hx : P x.1 => ?_) ?_; clear_value x)
    | (intro x; refine (fun hx : P x.s => ?_) ?_; clear_value x)
    | (intro x; clear_value x)
    | intro _
    | split
    | dsimp -zeta only
    | dsimp -zeta +zetaDelta only
    | lift_lets
    | dsimp only

theorem cropsAtDeadline_keeps {P : State → Prop} (c : Closed 0x20200000000 P) (x1 : State) (h1 : P x1) :
    P (cropsAtDeadline x1) := by
  have c1 := c.sub (K' := 0x200000000) (by decide)
  unfold cropsAtDeadline
  repeat' first
    | with_reducible assumption
    | with_reducible apply cropShort_keeps c
    | with_reducible apply modRecs_keeps c1
    | with_reducible refine fun _ => ?_
    | lift_lets -underBinder
    | (intro x; refine (fun hx : P x => ?_) ?_; clear_value x)
    | (intro x; refine (fun hx : P x.2 => ?_) ?_; clear_value x)
    | (intro x; refine (fun hx : P x.1 => ?_) ?_; clear_value x)
    | (intro x; refine (fun hx : P x.s => ?_) ?_; clear_value x)
    | (intro x; clear_value x)
    | with_reducible apply foldl_keeps
    | with_reducible apply foldl_keeps_fst
    | with_reducible apply foldl_keeps_snd
    | intro _
    | dsimp -zeta only
    | dsimp -zeta +zetaDelta only
    | lift_lets
    | dsimp only

theorem encodeCrop_keeps {P : State → Prop} (c : Closed 0x20200000000 P) (x1 : State) (h1 : P x1) :
    P (encodeCrop x1) := by
  have c1 := c.sub (K' := 0x200000000) (by decide)
  unfold encodeCrop
  repeat' first
    | with_reducible assumption
    | with_reducible apply takeRecords_keeps c1
    | with_reducible apply dropCrop_keeps c1
    | with_reducible apply modRecs_keeps c1
    | with_reducible apply raise_keeps c
    | with_reducible refine fun _ => ?_
    | lift_lets -underBinder
    | (intro x; refine (fun hx : P x => ?_) ?_; clear_value x)
    | (intro x; refine (fun hx : P x.2 => ?_) ?_; clear_value x)
    | (intro x; refine (fun hx : P x.1 => ?_) ?_; clear_value x)
    | (intro x; refine (fun hx : P x.s => ?_) ?_; clear_value x)
    | (intro x; clear_value x)
    | intro _
    | split
    | dsimp -zeta only
    | dsimp -zeta +zetaDelta only
    | lift_lets
    | dsimp only

theorem execRoiEncode_keeps {P : State → Prop} (c : Closed 0x20200000000 P) (x1 : State) (h1 : P x1) :
    OnNext P (execRoiEncode x1) := by
  unfold execRoiEncode
  repeat' first
    | with_reducible assumption
    | with_reducible apply OnNext.unit
    | with_reducible apply OnNext.next
    | with_reducible apply OnNext.fault
    | with_reducible apply encodeCrop_keeps c
    | dsimp -zeta only

theorem execDatagramTimeout_keeps {P : State → Prop} (c : Closed 0x200000000 P) (x1 : State) (h1 : P x1) :
    OnNext P (execDatagramTimeout x1) := by
  unfold execDatagramTimeout
  repeat' first
    | with_reducible assumption
    | with_reducible apply OnNext.unit
    | with_reducible apply OnNext.next
    | with_reducible apply OnNext.fault
    | with_reducible apply closeDgram_keeps c
    | dsimp -zeta only

theorem execDatagramSend_keeps {P : State → Prop} (c : Closed 0x20200000200 P) (x1 : State) (h1 : P x1) :
    OnNext P (execDatagramSend x1) := by
  unfold execDatagramSend
  repeat' first
    | with_reducible assumption
    | with_reducible apply OnNext.unit
    | with_reducible apply OnNext.next
    | with_reducible apply OnNext.fault
    | with_reducible apply sendDgram_keeps c
    | dsimp -zeta only

theorem execStatusReport_keeps {P : State → Prop} (c : Closed 0x200000000 P) (x1 : State) (h1 : P x1) :
    OnNext P (execStatusReport x1) := by
  unfold execStatusReport
  repeat' first
    | with_reducible assumption
    | with_reducible apply OnNext.unit
    | with_reducible apply OnNext.next
    | with_reducible apply OnNext.fault
    | with_reducible apply modRecs_keeps c
    | with_reducible apply raiseHealth_keeps c
    | with_reducible refine fun _ => ?_
    | lift_lets -underBinder
    | (intro x; refine (fun hx : P x => ?_) ?_; clear_value x)
    | (intro x; refine (fun hx : P x.2 => ?_) ?_; clear_value x)
    | (intro x; refine (fun hx : P x.1 => ?_) ?_; clear_value x)
    | (intro x; refine (fun hx : P x.s => ?_) ?_; clear_value x)
    | (intro x; clear_value x)
    | intro _
    | split
    | dsimp -zeta only
    | dsimp -zeta +zetaDelta only
    | lift_lets
    | dsimp only

theorem execAnnounceSend_keeps {P : State → Prop} (c : Closed 0x400000200 P) (x1 : State) (h1 : P x1) :
    OnNext P (execAnnounceSend x1) := by
  have c1 := c.sub (K' := 0x400000000) (by decide)
  have c2 := c.sub (K' := 0x200) (by decide)
  unfold execAnnounceSend
  repeat' first
    | with_reducible assumption
    | with_reducible apply OnNext.unit
    | with_reducible apply OnNext.next
    | with_reducible apply OnNext.fault
    | with_reducible apply modPeers_keeps c1
    | with_reducible apply sendPeer_keeps c2
    | with_reducible refine fun _ => ?_
    | lift_lets -underBinder
    | (intro x; refine (fun hx : P x => ?_) ?_; clear_value x)
    | (intro x; refine (fun hx : P x.2 => ?_) ?_; clear_value x)
    | (intro x; refine (fun hx : P x.1 => ?_) ?_; clear_value x)
    | (intro x; refine (fun hx : P x.s => ?_) ?_; clear_value x)
    | (intro x; clear_value x)
    | intro _
    | split
    | dsimp -zeta only
    | dsimp -zeta +zetaDelta only
    | lift_lets
    | dsimp only

theorem execPeerAnnounce_keeps {P : State → Prop} (c : Closed 0x20600000000 P) (x1) (x2) (x3 : State) (h3 : P x3) :
    OnNext P (execPeerAnnounce x1 x2 x3) := by
  unfold execPeerAnnounce
  repeat' first
    | with_reducible assumption
    | with_reducible apply OnNext.unit
    | with_reducible apply OnNext.next
    | with_reducible apply OnNext.fault
    | with_reducible apply takeAnnounce_keeps c
    | with_reducible apply peerGate_keeps c
    | intro _
    | dsimp -zeta only

theorem execPeerEmbed_keeps {P : State → Prop} (c : Closed 0x20600000000 P) (x1) (x2) (x3 : State) (h3 : P x3) :
    OnNext P (execPeerEmbed x1 x2 x3) := by
  have c1 := c.sub (K' := 0x400000000) (by decide)
  unfold execPeerEmbed
  repeat' first
    | with_reducible assumption
    | with_reducible apply OnNext.unit
    | with_reducible apply OnNext.next
    | with_reducible apply OnNext.fault
    | with_reducible apply peerDrop_keeps c1
    | with_reducible apply stageItem_keeps c
    | with_reducible apply peerGate_keeps c
    | with_reducible apply peerRefresh_keeps c
    | with_reducible refine fun _ => ?_
    | lift_lets -underBinder
    | (intro x; refine (fun hx : P x => ?_) ?_; clear_value x)
    | (intro x; refine (fun hx : P x.2 => ?_) ?_; clear_value x)
    | (intro x; refine (fun hx : P x.1 => ?_) ?_; clear_value x)
    | (intro x; refine (fun hx : P x.s => ?_) ?_; clear_value x)
    | (intro x; clear_value x)
    | with_reducible apply foldl_keeps
    | with_reducible apply foldl_keeps_fst
    | with_reducible apply foldl_keeps_snd
    | intro _
    | split
    | dsimp -zeta only
    | dsimp -zeta +zetaDelta only
    | lift_lets
    | dsimp only

theorem execPeerBye_keeps {P : State → Prop} (c : Closed 0x20600000000 P) (x1) (x2 : State) (h2 : P x2) :
    OnNext P (execPeerBye x1 x2) := by
  have c1 := c.sub (K' := 0x400000000) (by decide)
  unfold execPeerBye
  repeat' first
    | with_reducible assumption
    | with_reducible apply OnNext.unit
    | with_reducible apply OnNext.next
    | with_reducible apply OnNext.fault
    | with_reducible apply peerDrop_keeps c1
    | with_reducible apply peerRemove_keeps c1
    | with_reducible apply peerGate_keeps c
    | intro _
    | split
    | dsimp -zeta only

theorem execPeerAgeOut_keeps {P : State → Prop} (c : Closed 0x400000000 P) (x1) (x2 : State) (h2 : P x2) :
    OnNext P (execPeerAgeOut x1 x2) := by
  unfold execPeerAgeOut
  repeat' first
    | with_reducible assumption
    | with_reducible apply OnNext.unit
    | with_reducible apply OnNext.next
    | with_reducible apply OnNext.fault
    | with_reducible apply peerRemove_keeps c
    | dsimp -zeta only

theorem raiseOverflow_keeps {P : State → Prop} (c : Closed 0x200000000 P) (x1 : State) (h1 : P x1) :
    P (raiseOverflow x1) := by
  unfold raiseOverflow
  repeat' first
    | with_reducible assumption
    | with_reducible apply takeRecords_keeps c
    | with_reducible apply modRecs_keeps c
    | with_reducible apply foldl_keeps
    | with_reducible apply foldl_keeps_fst
    | with_reducible apply foldl_keeps_snd
    | intro _
    | dsimp -zeta only

theorem recordsNewEpoch_keeps {P : State → Prop} (c : Closed 0x600000000 P) (x1 : State) (h1 : P x1) :
    P (recordsNewEpoch x1) := by
  have c1 := c.sub (K' := 0x400000000) (by decide)
  have c2 := c.sub (K' := 0x200000000) (by decide)
  unfold recordsNewEpoch
  repeat' first
    | with_reducible assumption
    | with_reducible apply modPeers_keeps c1
    | with_reducible apply modRecs_keeps c2
    | intro _
    | dsimp -zeta only

theorem markQueuedPartial_keeps {P : State → Prop} (c : Closed 0x200000000 P) (x1 : State) (h1 : P x1) :
    P (markQueuedPartial x1) := by
  unfold markQueuedPartial
  repeat' first
    | with_reducible assumption
    | with_reducible apply modRecs_keeps c
    | with_reducible refine fun _ => ?_
    | lift_lets -underBinder
    | (intro x; refine (fun hx : P x => ?_) ?_; clear_value x)
    | (intro x; refine (fun hx : P x.2 => ?_) ?_; clear_value x)
    | (intro x; refine (fun hx : P x.1 => ?_) ?_; clear_value x)
    | (intro x; refine (fun hx : P x.s => ?_) ?_; clear_value x)
    | (intro x; clear_value x)
    | intro _
    | split
    | dsimp -zeta only
    | dsimp -zeta +zetaDelta only
    | lift_lets
    | dsimp only

theorem retractTentative_keeps {P : State → Prop} (c : Closed 0x200000000 P) (x1 : State) (h1 : P x1) :
    P (retractTentative x1) := by
  unfold retractTentative
  repeat' first
    | with_reducible assumption
    | with_reducible apply raiseRecord_keeps c
    | with_reducible refine fun _ => ?_
    | lift_lets -underBinder
    | (intro x; refine (fun hx : P x => ?_) ?_; clear_value x)
    | (intro x; refine (fun hx : P x.2 => ?_) ?_; clear_value x)
    | (intro x; refine (fun hx : P x.1 => ?_) ?_; clear_value x)
    | (intro x; refine (fun hx : P x.s => ?_) ?_; clear_value x)
    | (intro x; clear_value x)
    | with_reducible apply foldl_keeps
    | with_reducible apply foldl_keeps_fst
    | with_reducible apply foldl_keeps_snd
    | intro _
    | dsimp -zeta only
    | dsimp -zeta +zetaDelta only
    | lift_lets
    | dsimp only

end Sys2Proof.Laws
end

