-- ==== Sys2Proof/Laws/KeepsHaloOps.lean ====
section
/-! SUPPORT. What each function of Machine/HaloOps.lean can change: a predicate closed under its changes survives it. -/
namespace Sys2Proof.Laws
open Sys2Proof Sys2Proof.Machine

theorem sendRows_keeps {P : State → Prop} (c : Closed 0x60202040000 P) (x1 : State) (x2) (x3) (x4) (x5) (x6) (h1 : P x1) :
    P (sendRows x1 x2 x3 x4 x5 x6) := by
  have c1 := c.sub (K' := 0x60200040000) (by decide)
  have c2 := c.sub (K' := 0x2000000) (by decide)
  unfold sendRows
  repeat' first
    | with_reducible assumption
    | with_reducible apply sendParcel_keeps c1
    | with_reducible apply modComp_keeps c2
    | with_reducible refine fun _ => ?_
    | lift_lets -underBinder
    | (intro x; refine (fun hx : P x => ?_) ?_; clear_value x)
    | (intro x; refine (fun hx : P x.2 => ?_) ?_; clear_value x)
    | (intro x; refine (fun hx : P x.1 => ?_) ?_; clear_value x)
    | (intro x; refine (fun hx : P x.s => ?_) ?_; clear_value x)
    | (intro x; clear_value x)
    | with_reducible apply foldl_keeps
    | with_reducible apply foldl_keeps_fst
    | with_reducible apply foldl_keeps_snd
    | intro _
    | dsimp -zeta only
    | dsimp -zeta +zetaDelta only
    | lift_lets
    | dsimp only

theorem storeInput_keeps {P : State → Prop} (c : Closed 0x60000600800 P) (x1 : State) (x2) (x3) (x4) (x5) (x6) (x7) (h1 : P x1) :
    P (storeInput x1 x2 x3 x4 x5 x6 x7) := by
  unfold storeInput
  repeat' first
    | with_reducible assumption
    | with_reducible apply sramParcel_keeps c
    | with_reducible refine fun _ => ?_
    | lift_lets -underBinder
    | (intro x; refine (fun hx : P x => ?_) ?_; clear_value x)
    | (intro x; refine (fun hx : P x.2 => ?_) ?_; clear_value x)
    | (intro x; refine (fun hx : P x.1 => ?_) ?_; clear_value x)
    | (intro x; refine (fun hx : P x.s => ?_) ?_; clear_value x)
    | (intro x; clear_value x)
    | with_reducible apply foldl_keeps
    | with_reducible apply foldl_keeps_fst
    | with_reducible apply foldl_keeps_snd
    | intro _
    | split
    | dsimp -zeta only
    | dsimp -zeta +zetaDelta only
    | lift_lets
    | dsimp only

theorem inputBytes_keeps {P : State → Prop} (c : Closed 0x60002000800 P) (x1 : State) (x2) (x3) (x4) (h1 : P x1) :
    P (inputBytes x1 x2 x3 x4).2 := by
  have c1 := c.sub (K' := 0x800) (by decide)
  have c2 := c.sub (K' := 0x60000000000) (by decide)
  have c3 := c.sub (K' := 0x2000000) (by decide)
  unfold inputBytes
  repeat' first
    | with_reducible assumption
    | with_reducible apply markDegraded_keeps c1
    | with_reducible apply logOnly_keeps c2
    | with_reducible apply modComp_keeps c3
    | with_reducible refine fun _ => ?_
    | lift_lets -underBinder
    | (intro x; refine (fun hx : P x => ?_) ?_; clear_value x)
    | (intro x; refine (fun hx : P x.2 => ?_) ?_; clear_value x)
    | (intro x; refine (fun hx : P x.1 => ?_) ?_; clear_value x)
    | (intro x; refine (fun hx : P x.s => ?_) ?_; clear_value x)
    | (intro x; clear_value x)
    | intro _
    | split
    | dsimp -zeta only
    | dsimp -zeta +zetaDelta only
    | lift_lets
    | dsimp only

theorem discardHalo_keeps {P : State → Prop} (c : Closed 0x2000000 P) (x1 : State) (x2) (x3) (h1 : P x1) :
    P (discardHalo x1 x2 x3) := by
  unfold discardHalo
  repeat' first
    | with_reducible assumption
    | with_reducible apply modComp_keeps c
    | intro _
    | dsimp -zeta only

theorem takeHalo_keeps {P : State → Prop} (c : Closed 0x60002600800 P) (x1 : State) (x2) (x3) (h1 : P x1) :
    P (takeHalo x1 x2 x3) := by
  have c1 := c.sub (K' := 0x60000600800) (by decide)
  have c2 := c.sub (K' := 0x60000000000) (by decide)
  have c3 := c.sub (K' := 0x2000000) (by decide)
  have c4 := c.sub (K' := 0x60002000800) (by decide)
  unfold takeHalo
  repeat' first
    | with_reducible assumption
    | with_reducible apply storeInput_keeps c1
    | with_reducible apply logOnly_keeps c2
    | with_reducible apply discardHalo_keeps c3
    | with_reducible apply inputBytes_keeps c4
    | with_reducible apply modComp_keeps c3
    | with_reducible refine snd_of (by assumption) ?_
    | with_reducible refine fun _ => ?_
    | lift_lets -underBinder
    | (intro x; refine (fun hx : P x => ?_) ?_; clear_value x)
    | (intro x; refine (fun hx : P x.2 => ?_) ?_; clear_value x)
    | (intro x; refine (fun hx : P x.1 => ?_) ?_; clear_value x)
    | (intro x; refine (fun hx : P x.s => ?_) ?_; clear_value x)
    | (intro x; clear_value x)
    | intro _
    | split
    | dsimp -zeta only
    | dsimp -zeta +zetaDelta only
    | lift_lets
    | dsimp only

theorem takeCommit_keeps {P : State → Prop} (c : Closed 0x2000000 P) (x1 : State) (x2) (x3) (x4) (x5) (h1 : P x1) :
    P (takeCommit x1 x2 x3 x4 x5) := by
  unfold takeCommit
  repeat' first
    | with_reducible assumption
    | with_reducible apply modComp_keeps c
    | with_reducible refine fun _ => ?_
    | lift_lets -underBinder
    | (intro x; refine (fun hx : P x => ?_) ?_; clear_value x)
    | (intro x; refine (fun hx : P x.2 => ?_) ?_; clear_value x)
    | (intro x; refine (fun hx : P x.1 => ?_) ?_; clear_value x)
    | (intro x; refine (fun hx : P x.s => ?_) ?_; clear_value x)
    | (intro x; clear_value x)
    | intro _
    | split
    | dsimp -zeta only
    | dsimp -zeta +zetaDelta only
    | lift_lets
    | dsimp only

theorem takeRevoke_keeps {P : State → Prop} (c : Closed 0x2000000 P) (x1 : State) (x2) (x3) (x4) (x5) (h1 : P x1) :
    P (takeRevoke x1 x2 x3 x4 x5) := by
  unfold takeRevoke
  repeat' first
    | with_reducible assumption
    | with_reducible apply modComp_keeps c
    | with_reducible refine fun _ => ?_
    | lift_lets -underBinder
    | (intro x; refine (fun hx : P x => ?_) ?_; clear_value x)
    | (intro x; refine (fun hx : P x.2 => ?_) ?_; clear_value x)
    | (intro x; refine (fun hx : P x.1 => ?_) ?_; clear_value x)
    | (intro x; refine (fun hx : P x.s => ?_) ?_; clear_value x)
    | (intro x; clear_value x)
    | intro _
    | split
    | dsimp -zeta only
    | dsimp -zeta +zetaDelta only
    | lift_lets
    | dsimp only

theorem implicitCommit_keeps {P : State → Prop} (c : Closed 0x2000000 P) (x1 : State) (x2) (x3) (x4) (x5) (h1 : P x1) :
    P (implicitCommit x1 x2 x3 x4 x5) := by
  unfold implicitCommit
  repeat' first
    | with_reducible assumption
    | with_reducible apply modComp_keeps c
    | with_reducible refine fun _ => ?_
    | lift_lets -underBinder
    | (intro x; refine (fun hx : P x => ?_) ?_; clear_value x)
    | (intro x; refine (fun hx : P x.2 => ?_) ?_; clear_value x)
    | (intro x; refine (fun hx : P x.1 => ?_) ?_; clear_value x)
    | (intro x; refine (fun hx : P x.s => ?_) ?_; clear_value x)
    | (intro x; clear_value x)
    | with_reducible apply foldl_keeps
    | with_reducible apply foldl_keeps_fst
    | with_reducible apply foldl_keeps_snd
    | intro _
    | split
    | dsimp -zeta only
    | dsimp -zeta +zetaDelta only
    | lift_lets
    | dsimp only

theorem takeStream_keeps {P : State → Prop} (c : Closed 0x60002600800 P) (x1 : State) (x2) (x3) (h1 : P x1) :
    P (takeStream x1 x2 x3) := by
  have c1 := c.sub (K' := 0x60000600800) (by decide)
  have c2 := c.sub (K' := 0x60000000000) (by decide)
  have c3 := c.sub (K' := 0x60002000800) (by decide)
  have c4 := c.sub (K' := 0x2000000) (by decide)
  unfold takeStream
  repeat' first
    | with_reducible assumption
    | with_reducible apply storeInput_keeps c1
    | with_reducible apply logOnly_keeps c2
    | with_reducible apply inputBytes_keeps c3
    | with_reducible apply implicitCommit_keeps c4
    | with_reducible apply modComp_keeps c4
    | with_reducible refine snd_of (by assumption) ?_
    | with_reducible refine fun _ => ?_
    | lift_lets -underBinder
    | (intro x; refine (fun hx : P x => ?_) ?_; clear_value x)
    | (intro x; refine (fun hx : P x.2 => ?_) ?_; clear_value x)
    | (intro x; refine (fun hx : P x.1 => ?_) ?_; clear_value x)
    | (intro x; refine (fun hx : P x.s => ?_) ?_; clear_value x)
    | (intro x; clear_value x)
    | intro _
    | split
    | dsimp -zeta only
    | dsimp -zeta +zetaDelta only
    | lift_lets
    | dsimp only

theorem dropHalos_keeps {P : State → Prop} (c : Closed 0x2000000 P) (x1 : State) (x2) (h1 : P x1) :
    P (dropHalos x1 x2) := by
  unfold dropHalos
  repeat' first
    | with_reducible assumption
    | with_reducible apply discardHalo_keeps c
    | with_reducible apply modComp_keeps c
    | with_reducible refine fun _ => ?_
    | lift_lets -underBinder
    | (intro x; refine (fun hx : P x => ?_) ?_; clear_value x)
    | (intro x; refine (fun hx : P x.2 => ?_) ?_; clear_value x)
    | (intro x; refine (fun hx : P x.1 => ?_) ?_; clear_value x)
    | (intro x; refine (fun hx : P x.s => ?_) ?_; clear_value x)
    | (intro x; clear_value x)
    | intro _
    | dsimp -zeta only
    | dsimp -zeta +zetaDelta only
    | lift_lets
    | dsimp only

theorem cdToken_keeps {P : State → Prop} (c : Closed 0x200 P) (x1 : State) (x2) (x3) (x4) (x5) (x6) (x7) (h1 : P x1) :
    P (cdToken x1 x2 x3 x4 x5 x6 x7) := by
  unfold cdToken
  repeat' first
    | with_reducible assumption
    | with_reducible apply sendSb_keeps c
    | split
    | dsimp -zeta only

theorem sendHalo_keeps {P : State → Prop} (c : Closed 0x60202040200 P) (x1 : State) (x2) (x3) (x4) (x5) (x6) (x7) (x8) (x9) (x10) (h1 : P x1) :
    P (sendHalo x1 x2 x3 x4 x5 x6 x7 x8 x9 x10) := by
  have c1 := c.sub (K' := 0x60202040000) (by decide)
  have c2 := c.sub (K' := 0x200) (by decide)
  have c3 := c.sub (K' := 0x2000000) (by decide)
  unfold sendHalo
  repeat' first
    | with_reducible assumption
    | with_reducible apply sendRows_keeps c1
    | with_reducible apply cdToken_keeps c2
    | with_reducible apply modComp_keeps c3
    | with_reducible refine fun _ => ?_
    | lift_lets -underBinder
    | (intro x; refine (fun hx : P x => ?_) ?_; clear_value x)
    | (intro x; refine (fun hx : P x.2 => ?_) ?_; clear_value x)
    | (intro x; refine (fun hx : P x.1 => ?_) ?_; clear_value x)
    | (intro x; refine (fun hx : P x.s => ?_) ?_; clear_value x)
    | (intro x; clear_value x)
    | intro _
    | split
    | dsimp -zeta only
    | dsimp -zeta +zetaDelta only
    | lift_lets
    | dsimp only

theorem commitTx_keeps {P : State → Prop} (c : Closed 0x200 P) (x1 : State) (x2) (x3) (x4) (x5) (x6) (h1 : P x1) :
    P (commitTx x1 x2 x3 x4 x5 x6) := by
  unfold commitTx
  repeat' first
    | with_reducible assumption
    | with_reducible apply cdToken_keeps c
    | with_reducible refine fun _ => ?_
    | lift_lets -underBinder
    | (intro x; refine (fun hx : P x => ?_) ?_; clear_value x)
    | (intro x; refine (fun hx : P x.2 => ?_) ?_; clear_value x)
    | (intro x; refine (fun hx : P x.1 => ?_) ?_; clear_value x)
    | (intro x; refine (fun hx : P x.s => ?_) ?_; clear_value x)
    | (intro x; clear_value x)
    | split
    | dsimp -zeta only
    | dsimp -zeta +zetaDelta only
    | lift_lets
    | dsimp only

end Sys2Proof.Laws
end

