-- ==== Sys2Proof/Laws/KeepsTime.lean ====
section
/-! SUPPORT. What each function of Machine/Time.lean can change: a predicate closed under its changes survives it. -/
namespace Sys2Proof.Laws
open Sys2Proof Sys2Proof.Machine

theorem stepTime_keeps {P : State → Prop} (c : Closed 0x400 P) (x1 : State) (x2) (h1 : P x1) :
    P (stepTime x1 x2) := by
  unfold stepTime
  repeat' first
    | with_reducible assumption
    | with_reducible apply modTb_keeps c
    | intro _
    | dsimp -zeta only

theorem removeOffset_keeps {P : State → Prop} (c : Closed 0x400 P) (x1 : State) (x2) (h1 : P x1) :
    P (removeOffset x1 x2) := by
  unfold removeOffset
  repeat' first
    | with_reducible assumption
    | with_reducible apply stepTime_keeps c
    | with_reducible apply modTb_keeps c
    | intro _
    | split
    | dsimp -zeta only

theorem enterHoldover_keeps {P : State → Prop} (c : Closed 0x20200000400 P) (x1 : State) (h1 : P x1) :
    P (enterHoldover x1) := by
  have c1 := c.sub (K' := 0x20200000000) (by decide)
  have c2 := c.sub (K' := 0x400) (by decide)
  unfold enterHoldover
  repeat' first
    | with_reducible assumption
    | with_reducible apply raise_keeps c1
    | with_reducible apply modTb_keeps c2
    | intro _
    | dsimp -zeta only

theorem enterFree_keeps {P : State → Prop} (c : Closed 0x400 P) (x1 : State) (h1 : P x1) :
    P (enterFree x1) := by
  unfold enterFree
  repeat' first
    | with_reducible assumption
    | with_reducible apply modTb_keeps c
    | intro _
    | dsimp -zeta only

theorem enterLocked_keeps {P : State → Prop} (c : Closed 0xc00 P) (x1 : State) (h1 : P x1) :
    P (enterLocked x1) := by
  have c1 := c.sub (K' := 0x800) (by decide)
  have c2 := c.sub (K' := 0x400) (by decide)
  unfold enterLocked
  repeat' first
    | with_reducible assumption
    | with_reducible apply modSeq_keeps c1
    | with_reducible apply modTb_keeps c2
    | intro _
    | dsimp -zeta only

theorem servo_keeps {P : State → Prop} (c : Closed 0x400 P) (x1 : State) (x2) (h1 : P x1) :
    P (servo x1 x2) := by
  unfold servo
  repeat' first
    | with_reducible assumption
    | with_reducible apply modTb_keeps c
    | with_reducible refine fun _ => ?_
    | lift_lets -underBinder
    | (intro x; refine (fun hx : P x => ?_) ?_; clear_value x)
    | (intro x; refine (fun hx : P x.2 => ?_) ?_; clear_value x)
    | (intro x; refine (fun hx : P x.1 => ?_) ?_; clear_value x)
    | (intro x; refine (fun hx : P x.s => ?_) ?_; clear_value x)
    | (intro x; clear_value x)
    | intro _
    | split
    | dsimp -zeta only
    | dsimp -zeta +zetaDelta only
    | lift_lets
    | dsimp only

theorem takeSync_keeps {P : State → Prop} (c : Closed 0xc00 P) (x1 : State) (x2) (h1 : P x1) :
    P (takeSync x1 x2) := by
  have c1 := c.sub (K' := 0x400) (by decide)
  unfold takeSync
  repeat' first
    | with_reducible assumption
    | with_reducible apply servo_keeps c1
    | with_reducible apply enterLocked_keeps c
    | with_reducible apply removeOffset_keeps c1
    | with_reducible apply modTb_keeps c1
    | with_reducible refine fun _ => ?_
    | lift_lets -underBinder
    | (intro x; refine (fun hx : P x => ?_) ?_; clear_value x)
    | (intro x; refine (fun hx : P x.2 => ?_) ?_; clear_value x)
    | (intro x; refine (fun hx : P x.1 => ?_) ?_; clear_value x)
    | (intro x; refine (fun hx : P x.s => ?_) ?_; clear_value x)
    | (intro x; clear_value x)
    | intro _
    | split
    | dsimp -zeta only
    | dsimp -zeta +zetaDelta only
    | lift_lets
    | dsimp only

theorem execPtpSyncReceive_keeps {P : State → Prop} (c : Closed 0x20000c00 P) (x1) (x2) (x3) (x4) (x5 : State) (h5 : P x5) :
    OnNext P (execPtpSyncReceive x1 x2 x3 x4 x5) := by
  have c1 := c.sub (K' := 0x20000000) (by decide)
  have c2 := c.sub (K' := 0xc00) (by decide)
  unfold execPtpSyncReceive
  repeat' first
    | with_reducible assumption
    | with_reducible apply OnNext.unit
    | with_reducible apply OnNext.next
    | with_reducible apply OnNext.fault
    | with_reducible apply modNet_keeps c1
    | with_reducible apply takeSync_keeps c2
    | intro _
    | split
    | dsimp -zeta only

theorem execSyncTimeout_keeps {P : State → Prop} (c : Closed 0x20200000400 P) (x1 : State) (h1 : P x1) :
    OnNext P (execSyncTimeout x1) := by
  have c1 := c.sub (K' := 0x400) (by decide)
  unfold execSyncTimeout
  repeat' first
    | with_reducible assumption
    | with_reducible apply OnNext.unit
    | with_reducible apply OnNext.next
    | with_reducible apply OnNext.fault
    | with_reducible apply enterFree_keeps c1
    | with_reducible apply enterHoldover_keeps c
    | split
    | dsimp -zeta only

theorem takeEdge_keeps {P : State → Prop} (c : Closed 0x400 P) (x1 : State) (x2) (h1 : P x1) :
    P (takeEdge x1 x2) := by
  unfold takeEdge
  repeat' first
    | with_reducible assumption
    | with_reducible apply servo_keeps c
    | with_reducible apply removeOffset_keeps c
    | with_reducible apply stepTime_keeps c
    | with_reducible apply modTb_keeps c
    | with_reducible refine fun _ => ?_
    | lift_lets -underBinder
    | (intro x; refine (fun hx : P x => ?_) ?_; clear_value x)
    | (intro x; refine (fun hx : P x.2 => ?_) ?_; clear_value x)
    | (intro x; refine (fun hx : P x.1 => ?_) ?_; clear_value x)
    | (intro x; refine (fun hx : P x.s => ?_) ?_; clear_value x)
    | (intro x; clear_value x)
    | intro _
    | split
    | dsimp -zeta only
    | dsimp -zeta +zetaDelta only
    | lift_lets
    | dsimp only

theorem execSyncInEdge_keeps {P : State → Prop} (c : Closed 0x400 P) (x1) (x2) (x3 : State) (h3 : P x3) :
    OnNext P (execSyncInEdge x1 x2 x3) := by
  unfold execSyncInEdge
  repeat' first
    | with_reducible assumption
    | with_reducible apply OnNext.unit
    | with_reducible apply OnNext.next
    | with_reducible apply OnNext.fault
    | with_reducible apply takeEdge_keeps c
    | split
    | dsimp -zeta only

theorem execSyncInMissing_keeps {P : State → Prop} (c : Closed 0x20200000400 P) (x1 : State) (h1 : P x1) :
    OnNext P (execSyncInMissing x1) := by
  have c1 := c.sub (K' := 0x20200000000) (by decide)
  have c2 := c.sub (K' := 0x400) (by decide)
  unfold execSyncInMissing
  repeat' first
    | with_reducible assumption
    | with_reducible apply OnNext.unit
    | with_reducible apply OnNext.next
    | with_reducible apply OnNext.fault
    | with_reducible apply raise_keeps c1
    | with_reducible apply modTb_keeps c2
    | intro _
    | split
    | dsimp -zeta only

theorem execSyncOutPulse_keeps {P : State → Prop} (c : Closed 0x200 P) (x1 : State) (h1 : P x1) :
    OnNext P (execSyncOutPulse x1) := by
  unfold execSyncOutPulse
  repeat' first
    | with_reducible assumption
    | with_reducible apply OnNext.unit
    | with_reducible apply OnNext.next
    | with_reducible apply OnNext.fault
    | with_reducible apply emit_keeps c
    | split
    | dsimp -zeta only

theorem execAcqTimeoutExpire_keeps {P : State → Prop} (c : Closed 0x400 P) (x1 : State) (h1 : P x1) :
    OnNext P (execAcqTimeoutExpire x1) := by
  unfold execAcqTimeoutExpire
  repeat' first
    | with_reducible assumption
    | with_reducible apply OnNext.unit
    | with_reducible apply OnNext.next
    | with_reducible apply OnNext.fault
    | with_reducible apply modTb_keeps c
    | intro _
    | dsimp -zeta only

theorem execSequencerArm_keeps {P : State → Prop} (c : Closed 0x800 P) (x1 : State) (h1 : P x1) :
    OnNext P (execSequencerArm x1) := by
  unfold execSequencerArm
  repeat' first
    | with_reducible assumption
    | with_reducible apply OnNext.unit
    | with_reducible apply OnNext.next
    | with_reducible apply OnNext.fault
    | with_reducible apply modSeq_keeps c
    | with_reducible refine fun _ => ?_
    | lift_lets -underBinder
    | (intro x; refine (fun hx : P x => ?_) ?_; clear_value x)
    | (intro x; refine (fun hx : P x.2 => ?_) ?_; clear_value x)
    | (intro x; refine (fun hx : P x.1 => ?_) ?_; clear_value x)
    | (intro x; refine (fun hx : P x.s => ?_) ?_; clear_value x)
    | (intro x; clear_value x)
    | intro _
    | split
    | dsimp -zeta only
    | dsimp -zeta +zetaDelta only
    | lift_lets
    | dsimp only

theorem execTimeUnlockedReport_keeps {P : State → Prop} (c : Closed 0x20200000000 P) (x1 : State) (h1 : P x1) :
    OnNext P (execTimeUnlockedReport x1) := by
  unfold execTimeUnlockedReport
  repeat' first
    | with_reducible assumption
    | with_reducible apply OnNext.unit
    | with_reducible apply OnNext.next
    | with_reducible apply OnNext.fault
    | with_reducible apply raise_keeps c
    | split
    | dsimp -zeta only

theorem execLatencyMeasure_keeps {P : State → Prop} (c : Closed 0x800 P) (x1) (x2) (x3) (x4 : State) (h4 : P x4) :
    OnNext P (execLatencyMeasure x1 x2 x3 x4) := by
  unfold execLatencyMeasure
  repeat' first
    | with_reducible assumption
    | with_reducible apply OnNext.unit
    | with_reducible apply OnNext.next
    | with_reducible apply OnNext.fault
    | with_reducible apply modSeq_keeps c
    | intro _
    | dsimp -zeta only

theorem execEcho_keeps {P : State → Prop} (c : Closed 0x60200044a10 P) (x1) (x2 : State) (h2 : P x2) :
    OnNext P (execEcho x1 x2) := by
  have c1 := c.sub (K' := 0x200) (by decide)
  unfold execEcho
  repeat' first
    | with_reducible assumption
    | with_reducible apply OnNext.unit
    | with_reducible apply OnNext.next
    | with_reducible apply OnNext.fault
    | with_reducible apply onToken_keeps c
    | with_reducible apply sendSb_keeps c1
    | with_reducible refine fun _ => ?_
    | lift_lets -underBinder
    | (intro x; refine (fun hx : P x => ?_) ?_; clear_value x)
    | (intro x; refine (fun hx : P x.2 => ?_) ?_; clear_value x)
    | (intro x; refine (fun hx : P x.1 => ?_) ?_; clear_value x)
    | (intro x; refine (fun hx : P x.s => ?_) ?_; clear_value x)
    | (intro x; clear_value x)
    | intro _
    | split
    | dsimp -zeta only
    | dsimp -zeta +zetaDelta only
    | lift_lets
    | dsimp only

theorem sendLaunch_keeps {P : State → Prop} (c : Closed 0x1a00 P) (x1 : State) (x2) (x3) (h1 : P x1) :
    P (sendLaunch x1 x2 x3) := by
  have c1 := c.sub (K' := 0x800) (by decide)
  have c2 := c.sub (K' := 0x200) (by decide)
  have c3 := c.sub (K' := 0x1800) (by decide)
  unfold sendLaunch
  repeat' first
    | with_reducible assumption
    | with_reducible apply modSeq_keeps c1
    | with_reducible apply svcToken_keeps c2
    | with_reducible apply missEntry_keeps c3
    | with_reducible refine fun _ => ?_
    | lift_lets -underBinder
    | (intro x; refine (fun hx : P x => ?_) ?_; clear_value x)
    | (intro x; refine (fun hx : P x.2 => ?_) ?_; clear_value x)
    | (intro x; refine (fun hx : P x.1 => ?_) ?_; clear_value x)
    | (intro x; refine (fun hx : P x.s => ?_) ?_; clear_value x)
    | (intro x; clear_value x)
    | intro _
    | split
    | dsimp -zeta only
    | dsimp -zeta +zetaDelta only
    | lift_lets
    | dsimp only

theorem execLaunchSend_keeps {P : State → Prop} (c : Closed 0x1a00 P) (x1) (x2 : State) (h2 : P x2) :
    OnNext P (execLaunchSend x1 x2) := by
  unfold execLaunchSend
  repeat' first
    | with_reducible assumption
    | with_reducible apply OnNext.unit
    | with_reducible apply OnNext.next
    | with_reducible apply OnNext.fault
    | with_reducible apply sendLaunch_keeps c
    | split
    | dsimp -zeta only

theorem execLatenessExceedsSlack_keeps {P : State → Prop} (c : Closed 0x1800 P) (x1) (x2) (x3 : State) (h3 : P x3) :
    OnNext P (execLatenessExceedsSlack x1 x2 x3) := by
  have c1 := c.sub (K' := 0x1000) (by decide)
  unfold execLatenessExceedsSlack
  repeat' first
    | with_reducible assumption
    | with_reducible apply OnNext.unit
    | with_reducible apply OnNext.next
    | with_reducible apply OnNext.fault
    | with_reducible apply lateEntry_keeps c
    | with_reducible apply modUnit_keeps c1
    | with_reducible refine fun _ => ?_
    | lift_lets -underBinder
    | (intro x; refine (fun hx : P x => ?_) ?_; clear_value x)
    | (intro x; refine (fun hx : P x.2 => ?_) ?_; clear_value x)
    | (intro x; refine (fun hx : P x.1 => ?_) ?_; clear_value x)
    | (intro x; refine (fun hx : P x.s => ?_) ?_; clear_value x)
    | (intro x; clear_value x)
    | intro _
    | split
    | dsimp -zeta only
    | dsimp -zeta +zetaDelta only
    | lift_lets
    | dsimp only

theorem startSoftEvent_keeps {P : State → Prop} (c : Closed 0x1200 P) (x1 : State) (x2) (x3) (x4) (h1 : P x1) :
    P (startSoftEvent x1 x2 x3 x4) := by
  have c1 := c.sub (K' := 0x200) (by decide)
  have c2 := c.sub (K' := 0x1000) (by decide)
  unfold startSoftEvent
  repeat' first
    | with_reducible assumption
    | with_reducible apply emit_keeps c1
    | with_reducible apply unitDone_keeps c2
    | dsimp -zeta only

theorem execSoftEvent_keeps {P : State → Prop} (c : Closed 0x60200045a10 P) (x1) (x2 : State) (h2 : P x2) :
    OnNext P (execSoftEvent x1 x2) := by
  have c1 := c.sub (K' := 0x1200) (by decide)
  unfold execSoftEvent
  repeat' first
    | with_reducible assumption
    | with_reducible apply OnNext.unit
    | with_reducible apply OnNext.next
    | with_reducible apply OnNext.fault
    | with_reducible apply onLaunch_keeps c
    | with_reducible apply startSoftEvent_keeps c1
    | dsimp -zeta only

theorem startMark_keeps {P : State → Prop} (c : Closed 0x60200001000 P) (x1 : State) (x2) (x3) (x4) (h1 : P x1) :
    P (startMark x1 x2 x3 x4) := by
  have c1 := c.sub (K' := 0x60200000000) (by decide)
  have c2 := c.sub (K' := 0x1000) (by decide)
  unfold startMark
  repeat' first
    | with_reducible assumption
    | with_reducible apply raiseOn_keeps c1
    | with_reducible apply unitDone_keeps c2
    | dsimp -zeta only

theorem execMark_keeps {P : State → Prop} (c : Closed 0x60200045a10 P) (x1) (x2 : State) (h2 : P x2) :
    OnNext P (execMark x1 x2) := by
  have c1 := c.sub (K' := 0x60200001000) (by decide)
  unfold execMark
  repeat' first
    | with_reducible assumption
    | with_reducible apply OnNext.unit
    | with_reducible apply OnNext.next
    | with_reducible apply OnNext.fault
    | with_reducible apply onLaunch_keeps c
    | with_reducible apply startMark_keeps c1
    | intro _
    | dsimp -zeta only

theorem startFlush_keeps {P : State → Prop} (c : Closed 0x600001200 P) (x1 : State) (x2) (x3) (x4) (h1 : P x1) :
    P (startFlush x1 x2 x3 x4) := by
  have c1 := c.sub (K' := 0x600000200) (by decide)
  have c2 := c.sub (K' := 0x1000) (by decide)
  unfold startFlush
  repeat' first
    | with_reducible assumption
    | with_reducible apply flushNow_keeps c1
    | with_reducible apply unitDone_keeps c2
    | dsimp -zeta only

theorem execFlush_keeps {P : State → Prop} (c : Closed 0x60600045a10 P) (x1) (x2 : State) (h2 : P x2) :
    OnNext P (execFlush x1 x2) := by
  have c1 := c.sub (K' := 0x60200045a10) (by decide)
  have c2 := c.sub (K' := 0x600001200) (by decide)
  unfold execFlush
  repeat' first
    | with_reducible assumption
    | with_reducible apply OnNext.unit
    | with_reducible apply OnNext.next
    | with_reducible apply OnNext.fault
    | with_reducible apply onLaunch_keeps c1
    | with_reducible apply startFlush_keeps c2
    | dsimp -zeta only

end Sys2Proof.Laws
end

