-- ==== Sys2Proof/Laws/KeepsJobOps.lean ====
section
/-! SUPPORT. What each function of Machine/JobOps.lean can change: a predicate closed under its changes survives it. -/
namespace Sys2Proof.Laws
open Sys2Proof Sys2Proof.Machine

theorem globalRun_keeps {P : State → Prop} (c : Closed 0x2000000 P) (x1 : State) (x2) (x3) (x4) (x5) (x6) (x7) (x8) (x9) (h1 : P x1) :
    P (globalRun x1 x2 x3 x4 x5 x6 x7 x8 x9).1 := by
  unfold globalRun
  repeat' first
    | with_reducible assumption
    | with_reducible apply modCl_keeps c
    | with_reducible refine fun _ => ?_
    | lift_lets -underBinder
    | (intro x; refine (fun hx : P x => ?_) ?_; clear_value x)
    | (intro x; refine (fun hx : P x.2 => ?_) ?_; clear_value x)
    | (intro x; refine (fun hx : P x.1 => ?_) ?_; clear_value x)
    | (intro x; refine (fun hx : P x.s => ?_) ?_; clear_value x)
    | (intro x; clear_value x)
    | with_reducible apply foldl_keeps
    | with_reducible apply foldl_keeps_fst
    | with_reducible apply foldl_keeps_snd
    | intro _
    | split
    | dsimp -zeta only
    | dsimp -zeta +zetaDelta only
    | lift_lets
    | dsimp only

theorem putAll_keeps {P : State → Prop} (c : Closed 0x60000600800 P) (x1 : State) (x2) (x3) (x4) (x5) (h1 : P x1) :
    P (putAll x1 x2 x3 x4 x5) := by
  unfold putAll
  repeat' first
    | with_reducible assumption
    | with_reducible apply sramEngine_keeps c
    | with_reducible apply foldl_keeps
    | with_reducible apply foldl_keeps_fst
    | with_reducible apply foldl_keeps_snd
    | intro _
    | dsimp -zeta only

theorem monitor_keeps {P : State → Prop} (c : Closed 0x2000000 P) (x1 : State) (x2) (x3) (x4) (x5) (h1 : P x1) :
    P (monitor x1 x2 x3 x4 x5) := by
  unfold monitor
  repeat' first
    | with_reducible assumption
    | with_reducible apply modComp_keeps c
    | with_reducible refine fun _ => ?_
    | lift_lets -underBinder
    | (intro x; refine (fun hx : P x => ?_) ?_; clear_value x)
    | (intro x; refine (fun hx : P x.2 => ?_) ?_; clear_value x)
    | (intro x; refine (fun hx : P x.1 => ?_) ?_; clear_value x)
    | (intro x; refine (fun hx : P x.s => ?_) ?_; clear_value x)
    | (intro x; clear_value x)
    | intro _
    | split
    | dsimp -zeta only
    | dsimp -zeta +zetaDelta only
    | lift_lets
    | dsimp only

theorem jobFails_keeps {P : State → Prop} (c : Closed 0x60002001800 P) (x1 : State) (x2) (x3) (x4) (h1 : P x1) :
    P (jobFails x1 x2 x3 x4) := by
  have c1 := c.sub (K' := 0x800) (by decide)
  have c2 := c.sub (K' := 0x2000000) (by decide)
  have c3 := c.sub (K' := 0x60000000000) (by decide)
  have c4 := c.sub (K' := 0x1000) (by decide)
  unfold jobFails
  repeat' first
    | with_reducible assumption
    | with_reducible apply markPartial_keeps c1
    | with_reducible apply modCl_keeps c2
    | with_reducible apply logOnly_keeps c3
    | with_reducible apply unitDone_keeps c4
    | with_reducible refine fun _ => ?_
    | lift_lets -underBinder
    | (intro x; refine (fun hx : P x => ?_) ?_; clear_value x)
    | (intro x; refine (fun hx : P x.2 => ?_) ?_; clear_value x)
    | (intro x; refine (fun hx : P x.1 => ?_) ?_; clear_value x)
    | (intro x; refine (fun hx : P x.s => ?_) ?_; clear_value x)
    | (intro x; clear_value x)
    | intro _
    | split
    | dsimp -zeta only
    | dsimp -zeta +zetaDelta only
    | lift_lets
    | dsimp only

theorem runJob_keeps {P : State → Prop} (c : Closed 0x60002601800 P) (x1 : State) (x2) (x3) (x4) (h1 : P x1) :
    P (runJob x1 x2 x3 x4).1 := by
  have c1 := c.sub (K' := 0x60000600800) (by decide)
  have c2 := c.sub (K' := 0x60002001800) (by decide)
  have c3 := c.sub (K' := 0x2000000) (by decide)
  have c4 := c.sub (K' := 0x60000000000) (by decide)
  unfold runJob
  repeat' first
    | with_reducible assumption
    | with_reducible apply putAll_keeps c1
    | with_reducible apply jobFails_keeps c2
    | with_reducible apply modCl_keeps c3
    | with_reducible apply logOnly_keeps c4
    | with_reducible apply monitor_keeps c3
    | with_reducible apply globalRun_keeps c3
    | with_reducible refine fst_of (by assumption) ?_
    | with_reducible refine fun _ => ?_
    | lift_lets -underBinder
    | (intro x; refine (fun hx : P x => ?_) ?_; clear_value x)
    | (intro x; refine (fun hx : P x.2 => ?_) ?_; clear_value x)
    | (intro x; refine (fun hx : P x.1 => ?_) ?_; clear_value x)
    | (intro x; refine (fun hx : P x.s => ?_) ?_; clear_value x)
    | (intro x; clear_value x)
    | with_reducible apply foldl_keeps
    | with_reducible apply foldl_keeps_fst
    | with_reducible apply foldl_keeps_snd
    | intro _
    | split
    | dsimp -zeta only
    | dsimp -zeta +zetaDelta only
    | lift_lets
    | dsimp only

theorem runJobs_keeps {P : State → Prop} (c : Closed 0x60002601800 P) (x1 : State) (x2) (x3) (x4) (h1 : P x1) :
    P (runJobs x1 x2 x3 x4).1 := by
  fun_induction runJobs x1 x2 x3 x4
  all_goals repeat' first
    | with_reducible assumption
    | with_reducible apply runJob_keeps c
    | with_reducible refine fst_of (by assumption) ?_
    | with_reducible refine fun _ => ?_
    | lift_lets -underBinder
    | (intro x; refine (fun hx : P x => ?_) ?_; clear_value x)
    | (intro x; refine (fun hx : P x.2 => ?_) ?_; clear_value x)
    | (intro x; refine (fun hx : P x.1 => ?_) ?_; clear_value x)
    | (intro x; refine (fun hx : P x.s => ?_) ?_; clear_value x)
    | (intro x; clear_value x)
    | intro _
    | split
    | with_reducible apply_assumption
    | dsimp -zeta only
    | dsimp -zeta +zetaDelta only
    | lift_lets
    | dsimp only

theorem logSqnrLow_keeps {P : State → Prop} (c : Closed 0x60000000000 P) (x1 : State) (x2) (x3) (x4) (x5) (h1 : P x1) :
    P (logSqnrLow x1 x2 x3 x4 x5) := by
  unfold logSqnrLow
  repeat' first
    | with_reducible assumption
    | with_reducible apply logOnly_keeps c
    | dsimp -zeta only

theorem adaptNow_keeps {P : State → Prop} (c : Closed 0x2002000 P) (x1 : State) (x2) (x3) (x4) (h1 : P x1) :
    P (adaptNow x1 x2 x3 x4) := by
  have c1 := c.sub (K' := 0x2000000) (by decide)
  have c2 := c.sub (K' := 0x2000) (by decide)
  unfold adaptNow
  repeat' first
    | with_reducible assumption
    | with_reducible apply modComp_keeps c1
    | with_reducible apply ledgerLocal_keeps c2
    | intro _
    | split
    | dsimp -zeta only

theorem evalAtEnd_keeps {P : State → Prop} (c : Closed 0x60002002008 P) (x1 : State) (x2) (x3) (x4) (h1 : P x1) :
    P (evalAtEnd x1 x2 x3 x4) := by
  have c1 := c.sub (K' := 0x8) (by decide)
  have c2 := c.sub (K' := 0x60000000000) (by decide)
  have c3 := c.sub (K' := 0x2000000) (by decide)
  have c4 := c.sub (K' := 0x2002000) (by decide)
  unfold evalAtEnd
  repeat' first
    | with_reducible assumption
    | with_reducible apply fresh_keeps c1
    | with_reducible apply logSqnrLow_keeps c2
    | with_reducible apply modComp_keeps c3
    | with_reducible apply adaptNow_keeps c4
    | with_reducible refine snd_of (by assumption) ?_
    | with_reducible refine fun _ => ?_
    | lift_lets -underBinder
    | (intro x; refine (fun hx : P x => ?_) ?_; clear_value x)
    | (intro x; refine (fun hx : P x.2 => ?_) ?_; clear_value x)
    | (intro x; refine (fun hx : P x.1 => ?_) ?_; clear_value x)
    | (intro x; refine (fun hx : P x.s => ?_) ?_; clear_value x)
    | (intro x; clear_value x)
    | intro _
    | split
    | dsimp -zeta only
    | dsimp -zeta +zetaDelta only
    | lift_lets
    | dsimp only

theorem evalReruns_keeps {P : State → Prop} (c : Closed 0x60002000008 P) (x1 : State) (x2) (x3) (x4) (x5) (h1 : P x1) :
    P (evalReruns x1 x2 x3 x4 x5).1 := by
  have c1 := c.sub (K' := 0x8) (by decide)
  have c2 := c.sub (K' := 0x60000000000) (by decide)
  have c3 := c.sub (K' := 0x2000000) (by decide)
  unfold evalReruns
  repeat' first
    | with_reducible assumption
    | with_reducible apply fresh_keeps c1
    | with_reducible apply logSqnrLow_keeps c2
    | with_reducible apply modComp_keeps c3
    | with_reducible refine snd_of (by assumption) ?_
    | with_reducible refine fun _ => ?_
    | lift_lets -underBinder
    | (intro x; refine (fun hx : P x => ?_) ?_; clear_value x)
    | (intro x; refine (fun hx : P x.2 => ?_) ?_; clear_value x)
    | (intro x; refine (fun hx : P x.1 => ?_) ?_; clear_value x)
    | (intro x; refine (fun hx : P x.s => ?_) ?_; clear_value x)
    | (intro x; clear_value x)
    | with_reducible apply foldl_keeps
    | with_reducible apply foldl_keeps_fst
    | with_reducible apply foldl_keeps_snd
    | intro _
    | split
    | dsimp -zeta only
    | dsimp -zeta +zetaDelta only
    | lift_lets
    | dsimp only

theorem clearBandCounts_keeps {P : State → Prop} (c : Closed 0x2000000 P) (x1 : State) (x2) (h1 : P x1) :
    P (clearBandCounts x1 x2) := by
  unfold clearBandCounts
  repeat' first
    | with_reducible assumption
    | with_reducible apply modComp_keeps c
    | intro _
    | dsimp -zeta only

end Sys2Proof.Laws
end

