-- ==== Sys2Proof/Laws/KeepsHvOps.lean ====
section
/-! SUPPORT. What each function of Machine/HvOps.lean can change: a predicate closed under its changes survives it. -/
namespace Sys2Proof.Laws
open Sys2Proof Sys2Proof.Machine

theorem hvPut_keeps {P : State → Prop} (c : Closed 0x2000 P) (x1 : State) (x2) (x3) (x4) (x5) (h1 : P x1) :
    P (hvPut x1 x2 x3 x4 x5) := by
  unfold hvPut
  repeat' first
    | with_reducible assumption
    | with_reducible apply ledgerLocal_keeps c
    | dsimp -zeta only

theorem hvStore_keeps {P : State → Prop} (c : Closed 0x2000 P) (x1 : State) (x2) (x3) (x4) (h1 : P x1) :
    P (hvStore x1 x2 x3 x4) := by
  unfold hvStore
  repeat' first
    | with_reducible assumption
    | with_reducible apply ledgerStore_keeps c
    | with_reducible apply hvPut_keeps c
    | with_reducible refine fun _ => ?_
    | lift_lets -underBinder
    | (intro x; refine (fun hx : P x => ?_) ?_; clear_value x)
    | (intro x; refine (fun hx : P x.2 => ?_) ?_; clear_value x)
    | (intro x; refine (fun hx : P x.1 => ?_) ?_; clear_value x)
    | (intro x; refine (fun hx : P x.s => ?_) ?_; clear_value x)
    | (intro x; clear_value x)
    | dsimp -zeta only
    | dsimp -zeta +zetaDelta only
    | lift_lets
    | dsimp only

theorem hvCapture_keeps {P : State → Prop} (c : Closed 0x60000602800 P) (x1 : State) (x2) (x3) (x4) (h1 : P x1) :
    P (hvCapture x1 x2 x3 x4) := by
  have c1 := c.sub (K' := 0x2000) (by decide)
  have c2 := c.sub (K' := 0x60000600800) (by decide)
  unfold hvCapture
  repeat' first
    | with_reducible assumption
    | with_reducible apply hvPut_keeps c1
    | with_reducible apply sramEngine_keeps c2
    | with_reducible refine fun _ => ?_
    | lift_lets -underBinder
    | (intro x; refine (fun hx : P x => ?_) ?_; clear_value x)
    | (intro x; refine (fun hx : P x.2 => ?_) ?_; clear_value x)
    | (intro x; refine (fun hx : P x.1 => ?_) ?_; clear_value x)
    | (intro x; refine (fun hx : P x.s => ?_) ?_; clear_value x)
    | (intro x; clear_value x)
    | with_reducible apply foldl_keeps
    | with_reducible apply foldl_keeps_fst
    | with_reducible apply foldl_keeps_snd
    | intro _
    | split
    | dsimp -zeta only
    | dsimp -zeta +zetaDelta only
    | lift_lets
    | dsimp only

theorem hvTrain_keeps {P : State → Prop} (c : Closed 0x60012002000 P) (x1 : State) (x2) (x3) (x4) (x5) (h1 : P x1) :
    P (hvTrain x1 x2 x3 x4 x5) := by
  have c1 := c.sub (K' := 0x2000) (by decide)
  have c2 := c.sub (K' := 0x2000000) (by decide)
  have c3 := c.sub (K' := 0x10000000) (by decide)
  have c4 := c.sub (K' := 0x60000000000) (by decide)
  unfold hvTrain
  repeat' first
    | with_reducible assumption
    | with_reducible apply hvStore_keeps c1
    | with_reducible apply modCl_keeps c2
    | with_reducible apply modHv_keeps c3
    | with_reducible apply logOnly_keeps c4
    | with_reducible apply hvPut_keeps c1
    | with_reducible refine fun _ => ?_
    | lift_lets -underBinder
    | (intro x; refine (fun hx : P x => ?_) ?_; clear_value x)
    | (intro x; refine (fun hx : P x.2 => ?_) ?_; clear_value x)
    | (intro x; refine (fun hx : P x.1 => ?_) ?_; clear_value x)
    | (intro x; refine (fun hx : P x.s => ?_) ?_; clear_value x)
    | (intro x; clear_value x)
    | intro _
    | split
    | dsimp -zeta only
    | dsimp -zeta +zetaDelta only
    | lift_lets
    | dsimp only

theorem hvValidate_keeps {P : State → Prop} (c : Closed 0x10000000 P) (x1 : State) (x2) (x3) (h1 : P x1) :
    P (hvValidate x1 x2 x3) := by
  unfold hvValidate
  repeat' first
    | with_reducible assumption
    | with_reducible apply modHv_keeps c
    | with_reducible refine fun _ => ?_
    | lift_lets -underBinder
    | (intro x; refine (fun hx : P x => ?_) ?_; clear_value x)
    | (intro x; refine (fun hx : P x.2 => ?_) ?_; clear_value x)
    | (intro x; refine (fun hx : P x.1 => ?_) ?_; clear_value x)
    | (intro x; refine (fun hx : P x.s => ?_) ?_; clear_value x)
    | (intro x; clear_value x)
    | intro _
    | dsimp -zeta only
    | dsimp -zeta +zetaDelta only
    | lift_lets
    | dsimp only

theorem hvAdopt_keeps {P : State → Prop} (c : Closed 0x60010602800 P) (x1 : State) (x2) (x3) (h1 : P x1) :
    P (hvAdopt x1 x2 x3) := by
  have c1 := c.sub (K' := 0x10000000) (by decide)
  have c2 := c.sub (K' := 0x2000) (by decide)
  have c3 := c.sub (K' := 0x60000600800) (by decide)
  unfold hvAdopt
  repeat' first
    | with_reducible assumption
    | with_reducible apply modHv_keeps c1
    | with_reducible apply hvPut_keeps c2
    | with_reducible apply ledgerLocal_keeps c2
    | with_reducible apply sramEngine_keeps c3
    | with_reducible refine fun _ => ?_
    | lift_lets -underBinder
    | (intro x; refine (fun hx : P x => ?_) ?_; clear_value x)
    | (intro x; refine (fun hx : P x.2 => ?_) ?_; clear_value x)
    | (intro x; refine (fun hx : P x.1 => ?_) ?_; clear_value x)
    | (intro x; refine (fun hx : P x.s => ?_) ?_; clear_value x)
    | (intro x; clear_value x)
    | intro _
    | split
    | dsimp -zeta only
    | dsimp -zeta +zetaDelta only
    | lift_lets
    | dsimp only

theorem hvRun_keeps {P : State → Prop} (c : Closed 0x60012602800 P) (x1 : State) (x2) (x3) (x4) (x5) (x6) (h1 : P x1) :
    P (hvRun x1 x2 x3 x4 x5 x6) := by
  have c1 := c.sub (K' := 0x60010602800) (by decide)
  have c2 := c.sub (K' := 0x60000602800) (by decide)
  have c3 := c.sub (K' := 0x60012002000) (by decide)
  have c4 := c.sub (K' := 0x10000000) (by decide)
  unfold hvRun
  repeat' first
    | with_reducible assumption
    | with_reducible apply hvAdopt_keeps c1
    | with_reducible apply hvCapture_keeps c2
    | with_reducible apply hvTrain_keeps c3
    | with_reducible apply hvValidate_keeps c4
    | split
    | dsimp -zeta only

end Sys2Proof.Laws
end

