-- ==== Sys2Proof/Laws/KeepsDetOps.lean ====
section
/-! SUPPORT. What each function of Machine/DetOps.lean can change: a predicate closed under its changes survives it. -/
namespace Sys2Proof.Laws
open Sys2Proof Sys2Proof.Machine

theorem writeList_keeps {P : State → Prop} (c : Closed 0x60004601800 P) (x1 : State) (x2) (x3) (x4) (h1 : P x1) :
    P (writeList x1 x2 x3 x4) := by
  have c1 := c.sub (K' := 0x4000000) (by decide)
  have c2 := c.sub (K' := 0x1000) (by decide)
  have c3 := c.sub (K' := 0x60000600800) (by decide)
  unfold writeList
  repeat' first
    | with_reducible assumption
    | with_reducible apply modDet_keeps c1
    | with_reducible apply unitDone_keeps c2
    | with_reducible apply sramEngine_keeps c3
    | with_reducible refine fun _ => ?_
    | lift_lets -underBinder
    | (intro x; refine (fun hx : P x => ?_) ?_; clear_value x)
    | (intro x; refine (fun hx : P x.2 => ?_) ?_; clear_value x)
    | (intro x; refine (fun hx : P x.1 => ?_) ?_; clear_value x)
    | (intro x; refine (fun hx : P x.s => ?_) ?_; clear_value x)
    | (intro x; clear_value x)
    | intro _
    | dsimp -zeta only
    | dsimp -zeta +zetaDelta only
    | lift_lets
    | dsimp only

theorem detectFails_keeps {P : State → Prop} (c : Closed 0x60004601800 P) (x1 : State) (x2) (x3) (x4) (h1 : P x1) :
    P (detectFails x1 x2 x3 x4) := by
  have c1 := c.sub (K' := 0x800) (by decide)
  have c2 := c.sub (K' := 0x4000000) (by decide)
  unfold detectFails
  repeat' first
    | with_reducible assumption
    | with_reducible apply markPartial_keeps c1
    | with_reducible apply writeList_keeps c
    | with_reducible apply modDet_keeps c2
    | intro _
    | dsimp -zeta only

theorem detectRun_keeps {P : State → Prop} (c : Closed 0x60004601800 P) (x1 : State) (x2) (x3) (h1 : P x1) :
    P (detectRun x1 x2 x3) := by
  have c1 := c.sub (K' := 0x60000000000) (by decide)
  have c2 := c.sub (K' := 0x4000000) (by decide)
  unfold detectRun
  repeat' first
    | with_reducible assumption
    | with_reducible apply logOnly_keeps c1
    | with_reducible apply detectFails_keeps c
    | with_reducible apply writeList_keeps c
    | with_reducible apply modDet_keeps c2
    | with_reducible refine fun _ => ?_
    | lift_lets -underBinder
    | (intro x; refine (fun hx : P x => ?_) ?_; clear_value x)
    | (intro x; refine (fun hx : P x.2 => ?_) ?_; clear_value x)
    | (intro x; refine (fun hx : P x.1 => ?_) ?_; clear_value x)
    | (intro x; refine (fun hx : P x.s => ?_) ?_; clear_value x)
    | (intro x; clear_value x)
    | intro _
    | split
    | simp only [id_eq]
    | dsimp -zeta only
    | dsimp -zeta +zetaDelta only
    | lift_lets
    | dsimp only

theorem detectAbort_keeps {P : State → Prop} (c : Closed 0x60004601800 P) (x1 : State) (x2) (h1 : P x1) :
    P (detectAbort x1 x2) := by
  have c1 := c.sub (K' := 0x4000000) (by decide)
  have c2 := c.sub (K' := 0x1000) (by decide)
  unfold detectAbort
  repeat' first
    | with_reducible assumption
    | with_reducible apply writeList_keeps c
    | with_reducible apply modDet_keeps c1
    | with_reducible apply unitDone_keeps c2
    | intro _
    | split
    | dsimp -zeta only

end Sys2Proof.Laws
end

