-- ==== Sys2Proof/Laws/KeepsTrackOps.lean ====
section
/-! SUPPORT. What each function of Machine/TrackOps.lean can change: a predicate closed under its changes survives it. -/
namespace Sys2Proof.Laws
open Sys2Proof Sys2Proof.Machine

theorem putTrack_keeps {P : State → Prop} (c : Closed 0x2000 P) (x1 : State) (x2) (x3) (x4) (x5) (h1 : P x1) :
    P (putTrack x1 x2 x3 x4 x5) := by
  unfold putTrack
  repeat' first
    | with_reducible assumption
    | with_reducible apply ledgerStore_keeps c
    | split
    | dsimp -zeta only

theorem sendItems_keeps {P : State → Prop} (c : Closed 0x60200040000 P) (x1 : State) (x2) (x3) (x4) (h1 : P x1) :
    P (sendItems x1 x2 x3 x4) := by
  unfold sendItems
  repeat' first
    | with_reducible assumption
    | with_reducible apply sendParcel_keeps c
    | with_reducible refine fun _ => ?_
    | lift_lets -underBinder
    | (intro x; refine (fun hx : P x => ?_) ?_; clear_value x)
    | (intro x; refine (fun hx : P x.2 => ?_) ?_; clear_value x)
    | (intro x; refine (fun hx : P x.1 => ?_) ?_; clear_value x)
    | (intro x; refine (fun hx : P x.s => ?_) ?_; clear_value x)
    | (intro x; clear_value x)
    | with_reducible apply foldl_keeps
    | with_reducible apply foldl_keeps_fst
    | with_reducible apply foldl_keeps_snd
    | intro _
    | dsimp -zeta only
    | dsimp -zeta +zetaDelta only
    | lift_lets
    | dsimp only

theorem trackRun_keeps {P : State → Prop} (c : Closed 0x60204642800 P) (x1 : State) (x2) (x3) (x4) (h1 : P x1) :
    OnSome P (trackRun x1 x2 x3 x4) := by
  have c1 := c.sub (K' := 0x2000) (by decide)
  have c2 := c.sub (K' := 0x4000000) (by decide)
  have c3 := c.sub (K' := 0x60200040000) (by decide)
  have c4 := c.sub (K' := 0x60000600800) (by decide)
  unfold trackRun
  repeat' first
    | with_reducible assumption
    | with_reducible apply OnSome.some
    | with_reducible exact OnSome.none
    | with_reducible apply ledgerStore_keeps c1
    | with_reducible apply putTrack_keeps c1
    | with_reducible apply modDet_keeps c2
    | with_reducible apply sendItems_keeps c3
    | with_reducible apply sramEngine_keeps c4
    | with_reducible refine fun _ => ?_
    | lift_lets -underBinder
    | (intro x; refine (fun hx : P x => ?_) ?_; clear_value x)
    | (intro x; refine (fun hx : P x.2 => ?_) ?_; clear_value x)
    | (intro x; refine (fun hx : P x.1 => ?_) ?_; clear_value x)
    | (intro x; refine (fun hx : P x.s => ?_) ?_; clear_value x)
    | (intro x; clear_value x)
    | with_reducible apply foldl_keeps
    | with_reducible apply foldl_keeps_fst
    | with_reducible apply foldl_keeps_snd
    | intro _
    | split
    | simp only [id_eq]
    | dsimp -zeta only
    | dsimp -zeta +zetaDelta only
    | lift_lets
    | dsimp only

end Sys2Proof.Laws
end

