-- ==== Sys2Proof/Laws/KeepsCompute.lean ====
section
/-! SUPPORT. What each function of Machine/Compute.lean can change: a predicate closed under its changes survives it. -/
namespace Sys2Proof.Laws
open Sys2Proof Sys2Proof.Machine

theorem endEntry_keeps {P : State → Prop} (c : Closed 0x2001000 P) (x1 : State) (x2) (x3) (x4) (h1 : P x1) :
    P (endEntry x1 x2 x3 x4) := by
  have c1 := c.sub (K' := 0x2000000) (by decide)
  have c2 := c.sub (K' := 0x1000) (by decide)
  unfold endEntry
  repeat' first
    | with_reducible assumption
    | with_reducible apply modCl_keeps c1
    | with_reducible apply unitDone_keeps c2
    | intro _
    | split
    | dsimp -zeta only

theorem beginEntry_keeps {P : State → Prop} (c : Closed 0x2000000 P) (x1 : State) (x2) (x3) (x4) (x5) (x6) (h1 : P x1) :
    P (beginEntry x1 x2 x3 x4 x5 x6) := by
  unfold beginEntry
  repeat' first
    | with_reducible assumption
    | with_reducible apply modCl_keeps c
    | intro _
    | dsimp -zeta only

theorem startGroup_keeps {P : State → Prop} (c : Closed 0x2001800 P) (x1 : State) (x2) (x3) (x4) (h1 : P x1) :
    P (startGroup x1 x2 x3 x4) := by
  have c1 := c.sub (K' := 0x1800) (by decide)
  have c2 := c.sub (K' := 0x1000) (by decide)
  have c3 := c.sub (K' := 0x2000000) (by decide)
  unfold startGroup
  repeat' first
    | with_reducible assumption
    | with_reducible apply missEntry_keeps c1
    | with_reducible apply unitDone_keeps c2
    | with_reducible apply beginEntry_keeps c3
    | split
    | dsimp -zeta only

theorem trackNow_keeps {P : State → Prop} (c : Closed 0x60206643800 P) (x1 : State) (x2) (x3) (x4) (h1 : P x1) :
    P (trackNow x1 x2 x3 x4) := by
  have c1 := c.sub (K' := 0x60002001800) (by decide)
  have c2 := c.sub (K' := 0x2000000) (by decide)
  have c3 := c.sub (K' := 0x60204642800) (by decide)
  have c4 := c.sub (K' := 0x2001000) (by decide)
  unfold trackNow
  repeat' first
    | with_reducible assumption
    | with_reducible apply jobFails_keeps c1
    | with_reducible apply modCl_keeps c2
    | with_reducible apply trackRun_keeps c3
    | with_reducible apply endEntry_keeps c4
    | with_reducible refine some_of (by assumption) ?_
    | intro _
    | split
    | dsimp -zeta only

theorem startTrack_keeps {P : State → Prop} (c : Closed 0x60206643800 P) (x1 : State) (x2) (x3) (x4) (h1 : P x1) :
    P (startTrack x1 x2 x3 x4) := by
  have c1 := c.sub (K' := 0x1800) (by decide)
  have c2 := c.sub (K' := 0x1000) (by decide)
  have c3 := c.sub (K' := 0x2000000) (by decide)
  unfold startTrack
  repeat' first
    | with_reducible assumption
    | with_reducible apply missEntry_keeps c1
    | with_reducible apply trackNow_keeps c
    | with_reducible apply unitDone_keeps c2
    | with_reducible apply beginEntry_keeps c3
    | split
    | dsimp -zeta only

theorem execRunGroup_keeps {P : State → Prop} (c : Closed 0x60202045a10 P) (x1) (x2 : State) (h2 : P x2) :
    OnNext P (execRunGroup x1 x2) := by
  have c1 := c.sub (K' := 0x2001800) (by decide)
  have c2 := c.sub (K' := 0x60200045a10) (by decide)
  unfold execRunGroup
  repeat' first
    | with_reducible assumption
    | with_reducible apply OnNext.unit
    | with_reducible apply OnNext.next
    | with_reducible apply OnNext.fault
    | with_reducible apply startGroup_keeps c1
    | with_reducible apply onLaunch_keeps c2
    | dsimp -zeta only

theorem execTrack_keeps {P : State → Prop} (c : Closed 0x60206647a10 P) (x1) (x2 : State) (h2 : P x2) :
    OnNext P (execTrack x1 x2) := by
  have c1 := c.sub (K' := 0x60206643800) (by decide)
  have c2 := c.sub (K' := 0x60200045a10) (by decide)
  unfold execTrack
  repeat' first
    | with_reducible assumption
    | with_reducible apply OnNext.unit
    | with_reducible apply OnNext.next
    | with_reducible apply OnNext.fault
    | with_reducible apply startTrack_keeps c1
    | with_reducible apply onLaunch_keeps c2
    | dsimp -zeta only

theorem waitFor_keeps {P : State → Prop} (c : Closed 0x2000000 P) (x1 : State) (x2) (x3) (h1 : P x1) :
    P (waitFor x1 x2 x3) := by
  unfold waitFor
  repeat' first
    | with_reducible assumption
    | with_reducible apply modCl_keeps c
    | with_reducible apply foldl_keeps
    | with_reducible apply foldl_keeps_fst
    | with_reducible apply foldl_keeps_snd
    | intro _
    | split
    | dsimp -zeta only

theorem runAgain_keeps {P : State → Prop} (c : Closed 0x2000000 P) (x1 : State) (x2) (x3) (h1 : P x1) :
    P (runAgain x1 x2 x3) := by
  unfold runAgain
  repeat' first
    | with_reducible assumption
    | with_reducible apply modCl_keeps c
    | with_reducible apply foldl_keeps
    | with_reducible apply foldl_keeps_fst
    | with_reducible apply foldl_keeps_snd
    | intro _
    | split
    | dsimp -zeta only

theorem produceHalo_keeps {P : State → Prop} (c : Closed 0x60202040200 P) (x1 : State) (x2) (x3) (x4) (x5) (x6) (x7) (h1 : P x1) :
    P (produceHalo x1 x2 x3 x4 x5 x6 x7) := by
  unfold produceHalo
  repeat' first
    | with_reducible assumption
    | with_reducible apply sendHalo_keeps c
    | with_reducible refine fun _ => ?_
    | lift_lets -underBinder
    | (intro x; refine (fun hx : P x => ?_) ?_; clear_value x)
    | (intro x; refine (fun hx : P x.2 => ?_) ?_; clear_value x)
    | (intro x; refine (fun hx : P x.1 => ?_) ?_; clear_value x)
    | (intro x; refine (fun hx : P x.s => ?_) ?_; clear_value x)
    | (intro x; clear_value x)
    | split
    | dsimp -zeta only
    | dsimp -zeta +zetaDelta only
    | lift_lets
    | dsimp only

theorem sendBand_keeps {P : State → Prop} (c : Closed 0x60202040200 P) (x1 : State) (x2) (x3) (x4) (x5) (x6) (x7) (h1 : P x1) :
    P (sendBand x1 x2 x3 x4 x5 x6 x7) := by
  have c1 := c.sub (K' := 0x60200040000) (by decide)
  have c2 := c.sub (K' := 0x60202040000) (by decide)
  have c3 := c.sub (K' := 0x200) (by decide)
  unfold sendBand
  repeat' first
    | with_reducible assumption
    | with_reducible apply sendParcel_keeps c1
    | with_reducible apply sendRows_keeps c2
    | with_reducible apply commitTx_keeps c3
    | with_reducible refine fun _ => ?_
    | lift_lets -underBinder
    | (intro x; refine (fun hx : P x => ?_) ?_; clear_value x)
    | (intro x; refine (fun hx : P x.2 => ?_) ?_; clear_value x)
    | (intro x; refine (fun hx : P x.1 => ?_) ?_; clear_value x)
    | (intro x; refine (fun hx : P x.s => ?_) ?_; clear_value x)
    | (intro x; clear_value x)
    | with_reducible apply foldl_keeps
    | with_reducible apply foldl_keeps_fst
    | with_reducible apply foldl_keeps_snd
    | intro _
    | split
    | dsimp -zeta only
    | dsimp -zeta +zetaDelta only
    | lift_lets
    | dsimp only

theorem passBand_keeps {P : State → Prop} (c : Closed 0x60002003008 P) (x1 : State) (x2) (x3) (x4) (x5) (x6) (h1 : P x1) :
    P (passBand x1 x2 x3 x4 x5 x6) := by
  have c1 := c.sub (K' := 0x2000000) (by decide)
  have c2 := c.sub (K' := 0x60002002008) (by decide)
  have c3 := c.sub (K' := 0x2001000) (by decide)
  unfold passBand
  repeat' first
    | with_reducible assumption
    | with_reducible apply modCl_keeps c1
    | with_reducible apply evalAtEnd_keeps c2
    | with_reducible apply endEntry_keeps c3
    | with_reducible refine fun _ => ?_
    | lift_lets -underBinder
    | (intro x; refine (fun hx : P x => ?_) ?_; clear_value x)
    | (intro x; refine (fun hx : P x.2 => ?_) ?_; clear_value x)
    | (intro x; refine (fun hx : P x.1 => ?_) ?_; clear_value x)
    | (intro x; refine (fun hx : P x.s => ?_) ?_; clear_value x)
    | (intro x; clear_value x)
    | with_reducible apply foldl_keeps
    | with_reducible apply foldl_keeps_fst
    | with_reducible apply foldl_keeps_snd
    | intro _
    | split
    | dsimp -zeta only
    | dsimp -zeta +zetaDelta only
    | lift_lets
    | dsimp only

theorem bandWork_keeps {P : State → Prop} (c : Closed 0x60202643a08 P) (x1 : State) (x2) (x3) (x4) (x5) (x6) (x7) (h1 : P x1) :
    P (bandWork x1 x2 x3 x4 x5 x6 x7) := by
  have c1 := c.sub (K' := 0x60002003008) (by decide)
  have c2 := c.sub (K' := 0x2000000) (by decide)
  have c3 := c.sub (K' := 0x60002601800) (by decide)
  have c4 := c.sub (K' := 0x60202040200) (by decide)
  have c5 := c.sub (K' := 0x60002000008) (by decide)
  unfold bandWork
  repeat' first
    | with_reducible assumption
    | with_reducible apply passBand_keeps c1
    | with_reducible apply clearBandCounts_keeps c2
    | with_reducible apply runJobs_keeps c3
    | with_reducible apply produceHalo_keeps c4
    | with_reducible apply sendBand_keeps c4
    | with_reducible apply evalReruns_keeps c5
    | with_reducible refine fst_of (by assumption) ?_
    | with_reducible refine fun _ => ?_
    | lift_lets -underBinder
    | (intro x; refine (fun hx : P x => ?_) ?_; clear_value x)
    | (intro x; refine (fun hx : P x.2 => ?_) ?_; clear_value x)
    | (intro x; refine (fun hx : P x.1 => ?_) ?_; clear_value x)
    | (intro x; refine (fun hx : P x.s => ?_) ?_; clear_value x)
    | (intro x; clear_value x)
    | split
    | dsimp -zeta only
    | dsimp -zeta +zetaDelta only
    | lift_lets
    | dsimp only

theorem bandHalo_keeps {P : State → Prop} (c : Closed 0x60202643a08 P) (x1 : State) (x2) (x3) (x4) (x5) (x6) (x7) (h1 : P x1) :
    P (bandHalo x1 x2 x3 x4 x5 x6 x7) := by
  have c1 := c.sub (K' := 0x60000000000) (by decide)
  have c2 := c.sub (K' := 0x2000000) (by decide)
  unfold bandHalo
  repeat' first
    | with_reducible assumption
    | with_reducible apply bandWork_keeps c
    | with_reducible apply logOnly_keeps c1
    | with_reducible apply runAgain_keeps c2
    | with_reducible apply modComp_keeps c2
    | with_reducible apply waitFor_keeps c2
    | with_reducible refine fun _ => ?_
    | lift_lets -underBinder
    | (intro x; refine (fun hx : P x => ?_) ?_; clear_value x)
    | (intro x; refine (fun hx : P x.2 => ?_) ?_; clear_value x)
    | (intro x; refine (fun hx : P x.1 => ?_) ?_; clear_value x)
    | (intro x; refine (fun hx : P x.s => ?_) ?_; clear_value x)
    | (intro x; clear_value x)
    | intro _
    | split
    | dsimp -zeta only
    | dsimp -zeta +zetaDelta only
    | lift_lets
    | dsimp only

theorem processBand_keeps {P : State → Prop} (c : Closed 0x60216643a08 P) (x1 : State) (x2) (x3) (x4) (x5) (x6) (x7) (h1 : P x1) :
    P (processBand x1 x2 x3 x4 x5 x6 x7) := by
  have c1 := c.sub (K' := 0x60202643a08) (by decide)
  have c2 := c.sub (K' := 0x60002001800) (by decide)
  have c3 := c.sub (K' := 0x60012602800) (by decide)
  have c4 := c.sub (K' := 0x60206643800) (by decide)
  have c5 := c.sub (K' := 0x2000000) (by decide)
  have c6 := c.sub (K' := 0x2001000) (by decide)
  unfold processBand
  repeat' first
    | with_reducible assumption
    | with_reducible apply bandHalo_keeps c1
    | with_reducible apply jobFails_keeps c2
    | with_reducible apply hvRun_keeps c3
    | with_reducible apply trackNow_keeps c4
    | with_reducible apply waitFor_keeps c5
    | with_reducible apply endEntry_keeps c6
    | with_reducible refine fun _ => ?_
    | lift_lets -underBinder
    | (intro x; refine (fun hx : P x => ?_) ?_; clear_value x)
    | (intro x; refine (fun hx : P x.2 => ?_) ?_; clear_value x)
    | (intro x; refine (fun hx : P x.1 => ?_) ?_; clear_value x)
    | (intro x; refine (fun hx : P x.s => ?_) ?_; clear_value x)
    | (intro x; clear_value x)
    | with_reducible apply foldl_keeps
    | with_reducible apply foldl_keeps_fst
    | with_reducible apply foldl_keeps_snd
    | intro _
    | split
    | dsimp -zeta only
    | dsimp -zeta +zetaDelta only
    | lift_lets
    | dsimp only

theorem execGroupBandProcess_keeps {P : State → Prop} (c : Closed 0x60216643a08 P) (x1) (x2) (x3) (x4) (x5) (x6) (x7 : State) (h7 : P x7) :
    OnNext P (execGroupBandProcess x1 x2 x3 x4 x5 x6 x7) := by
  unfold execGroupBandProcess
  repeat' first
    | with_reducible assumption
    | with_reducible apply OnNext.unit
    | with_reducible apply OnNext.next
    | with_reducible apply OnNext.fault
    | with_reducible apply processBand_keeps c
    | dsimp -zeta only

theorem takeMask_keeps {P : State → Prop} (c : Closed 0x8000000 P) (x1 : State) (x2) (h1 : P x1) :
    P (takeMask x1 x2) := by
  unfold takeMask
  repeat' first
    | with_reducible assumption
    | with_reducible apply modGuard_keeps c
    | intro _
    | split
    | dsimp -zeta only

theorem takeVc1_keeps {P : State → Prop} (c : Closed 0x6060a600a08 P) (x1 : State) (x2) (x3) (h1 : P x1) :
    P (takeVc1 x1 x2 x3) := by
  have c1 := c.sub (K' := 0x20200000008) (by decide)
  have c2 := c.sub (K' := 0x20600000208) (by decide)
  have c3 := c.sub (K' := 0x60002600800) (by decide)
  have c4 := c.sub (K' := 0x8000000) (by decide)
  unfold takeVc1
  repeat' first
    | with_reducible assumption
    | with_reducible apply takeCropParcel_keeps c1
    | with_reducible apply takeRecordParcel_keeps c2
    | with_reducible apply takeStream_keeps c3
    | with_reducible apply takeMask_keeps c4
    | split
    | dsimp -zeta only

theorem execHalo_keeps {P : State → Prop} (c : Closed 0x60202644a10 P) (x1) (x2 : State) (h2 : P x2) :
    OnNext P (execHalo x1 x2) := by
  have c1 := c.sub (K' := 0x60002600800) (by decide)
  have c2 := c.sub (K' := 0x60200244a10) (by decide)
  unfold execHalo
  repeat' first
    | with_reducible assumption
    | with_reducible apply OnNext.unit
    | with_reducible apply OnNext.next
    | with_reducible apply OnNext.fault
    | with_reducible apply takeHalo_keeps c1
    | with_reducible apply onParcel_keeps c2
    | intro _
    | split
    | dsimp -zeta only

theorem onHaloToken_keeps {P : State → Prop} (c : Closed 0x60200044a10 P) (x1 : State) (x2) (x3) (x4 : State → Nat → Nat → Nat → Nat → State) (h1 : P x1) (h4 : ∀ y0 y1 y2 y3 y4, P y0 → P (x4 y0 y1 y2 y3 y4)) :
    OnNext P (onHaloToken x1 x2 x3 x4) := by
  unfold onHaloToken
  repeat' first
    | with_reducible assumption
    | with_reducible apply OnNext.unit
    | with_reducible apply OnNext.next
    | with_reducible apply OnNext.fault
    | with_reducible apply onToken_keeps c
    | intro _
    | split
    | with_reducible apply_assumption
    | dsimp -zeta only

theorem execCommit_keeps {P : State → Prop} (c : Closed 0x60202044a10 P) (x1) (x2 : State) (h2 : P x2) :
    OnNext P (execCommit x1 x2) := by
  have c1 := c.sub (K' := 0x2000000) (by decide)
  have c2 := c.sub (K' := 0x60200044a10) (by decide)
  unfold execCommit
  repeat' first
    | with_reducible assumption
    | with_reducible apply OnNext.unit
    | with_reducible apply OnNext.next
    | with_reducible apply OnNext.fault
    | with_reducible apply takeCommit_keeps c1
    | with_reducible apply onHaloToken_keeps c2
    | dsimp -zeta only

theorem execRevoke_keeps {P : State → Prop} (c : Closed 0x60202044a10 P) (x1) (x2 : State) (h2 : P x2) :
    OnNext P (execRevoke x1 x2) := by
  have c1 := c.sub (K' := 0x2000000) (by decide)
  have c2 := c.sub (K' := 0x60200044a10) (by decide)
  unfold execRevoke
  repeat' first
    | with_reducible assumption
    | with_reducible apply OnNext.unit
    | with_reducible apply OnNext.next
    | with_reducible apply OnNext.fault
    | with_reducible apply takeRevoke_keeps c1
    | with_reducible apply onHaloToken_keeps c2
    | dsimp -zeta only

theorem abortCluster_keeps {P : State → Prop} (c : Closed 0x2001000 P) (x1 : State) (x2) (x3) (h1 : P x1) :
    P (abortCluster x1 x2 x3) := by
  have c1 := c.sub (K' := 0x1000) (by decide)
  unfold abortCluster
  repeat' first
    | with_reducible assumption
    | with_reducible apply modUnit_keeps c1
    | with_reducible apply unitDone_keeps c1
    | with_reducible apply endEntry_keeps c
    | with_reducible refine fun _ => ?_
    | lift_lets -underBinder
    | (intro x; refine (fun hx : P x => ?_) ?_; clear_value x)
    | (intro x; refine (fun hx : P x.2 => ?_) ?_; clear_value x)
    | (intro x; refine (fun hx : P x.1 => ?_) ?_; clear_value x)
    | (intro x; refine (fun hx : P x.s => ?_) ?_; clear_value x)
    | (intro x; clear_value x)
    | intro _
    | split
    | dsimp -zeta only
    | dsimp -zeta +zetaDelta only
    | lift_lets
    | dsimp only

theorem abortAt_keeps {P : State → Prop} (c : Closed 0x60006601800 P) (x1 : State) (x2) (h1 : P x1) :
    P (abortAt x1 x2) := by
  have c1 := c.sub (K' := 0x60004601800) (by decide)
  have c2 := c.sub (K' := 0x2001000) (by decide)
  have c3 := c.sub (K' := 0x1000) (by decide)
  have c4 := c.sub (K' := 0x2000000) (by decide)
  unfold abortAt
  repeat' first
    | with_reducible assumption
    | with_reducible apply detectAbort_keeps c1
    | with_reducible apply abortCluster_keeps c2
    | with_reducible apply modUnit_keeps c3
    | with_reducible apply modComp_keeps c4
    | with_reducible apply dropHalos_keeps c4
    | with_reducible refine fun _ => ?_
    | lift_lets -underBinder
    | (intro x; refine (fun hx : P x => ?_) ?_; clear_value x)
    | (intro x; refine (fun hx : P x.2 => ?_) ?_; clear_value x)
    | (intro x; refine (fun hx : P x.1 => ?_) ?_; clear_value x)
    | (intro x; refine (fun hx : P x.s => ?_) ?_; clear_value x)
    | (intro x; clear_value x)
    | with_reducible apply foldl_keeps
    | with_reducible apply foldl_keeps_fst
    | with_reducible apply foldl_keeps_snd
    | intro _
    | split
    | dsimp -zeta only
    | dsimp -zeta +zetaDelta only
    | lift_lets
    | dsimp only

theorem abortAtSvc_keeps {P : State → Prop} (c : Closed 0x60200040800 P) (x1 : State) (x2) (h1 : P x1) :
    P (abortAtSvc x1 x2) := by
  have c1 := c.sub (K' := 0x60200040000) (by decide)
  have c2 := c.sub (K' := 0x800) (by decide)
  have c3 := c.sub (K' := 0x20200000000) (by decide)
  unfold abortAtSvc
  repeat' first
    | with_reducible assumption
    | with_reducible apply sendMsg_keeps c1
    | with_reducible apply modSeq_keeps c2
    | with_reducible apply raiseFrom_keeps c3
    | with_reducible refine fun _ => ?_
    | lift_lets -underBinder
    | (intro x; refine (fun hx : P x => ?_) ?_; clear_value x)
    | (intro x; refine (fun hx : P x.2 => ?_) ?_; clear_value x)
    | (intro x; refine (fun hx : P x.1 => ?_) ?_; clear_value x)
    | (intro x; refine (fun hx : P x.s => ?_) ?_; clear_value x)
    | (intro x; clear_value x)
    | with_reducible apply foldl_keeps
    | with_reducible apply foldl_keeps_fst
    | with_reducible apply foldl_keeps_snd
    | intro _
    | split
    | dsimp -zeta only
    | dsimp -zeta +zetaDelta only
    | lift_lets
    | dsimp only

theorem execFrameAbort_keeps {P : State → Prop} (c : Closed 0x60206645a10 P) (x1) (x2 : State) (h2 : P x2) :
    OnNext P (execFrameAbort x1 x2) := by
  have c1 := c.sub (K' := 0x60200040800) (by decide)
  have c2 := c.sub (K' := 0x60006601800) (by decide)
  have c3 := c.sub (K' := 0x60200244a10) (by decide)
  unfold execFrameAbort
  repeat' first
    | with_reducible assumption
    | with_reducible apply OnNext.unit
    | with_reducible apply OnNext.next
    | with_reducible apply OnNext.fault
    | with_reducible apply abortAtSvc_keeps c1
    | with_reducible apply abortAt_keeps c2
    | with_reducible apply onMsg_keeps c3
    | intro _
    | split
    | dsimp -zeta only

theorem stallCluster_keeps {P : State → Prop} (c : Closed 0x60002001800 P) (x1 : State) (x2) (x3) (h1 : P x1) :
    P (stallCluster x1 x2 x3) := by
  have c1 := c.sub (K' := 0x800) (by decide)
  have c2 := c.sub (K' := 0x2000000) (by decide)
  have c3 := c.sub (K' := 0x1000) (by decide)
  have c4 := c.sub (K' := 0x60000000000) (by decide)
  have c5 := c.sub (K' := 0x2001000) (by decide)
  unfold stallCluster
  repeat' first
    | with_reducible assumption
    | with_reducible apply markPartial_keeps c1
    | with_reducible apply modCl_keeps c2
    | with_reducible apply modDie_keeps c3
    | with_reducible apply logOnly_keeps c4
    | with_reducible apply endEntry_keeps c5
    | with_reducible refine fun _ => ?_
    | lift_lets -underBinder
    | (intro x; refine (fun hx : P x => ?_) ?_; clear_value x)
    | (intro x; refine (fun hx : P x.2 => ?_) ?_; clear_value x)
    | (intro x; refine (fun hx : P x.1 => ?_) ?_; clear_value x)
    | (intro x; refine (fun hx : P x.s => ?_) ?_; clear_value x)
    | (intro x; clear_value x)
    | intro _
    | split
    | dsimp -zeta only
    | dsimp -zeta +zetaDelta only
    | lift_lets
    | dsimp only

theorem execClusterStall_keeps {P : State → Prop} (c : Closed 0x60002001800 P) (x1) (x2) (x3 : State) (h3 : P x3) :
    OnNext P (execClusterStall x1 x2 x3) := by
  unfold execClusterStall
  repeat' first
    | with_reducible assumption
    | with_reducible apply OnNext.unit
    | with_reducible apply OnNext.next
    | with_reducible apply OnNext.fault
    | with_reducible apply stallCluster_keeps c
    | split
    | dsimp -zeta only

theorem execSpeedMonitorSample_keeps {P : State → Prop} (c : Closed 0x2000000 P) (x1) (x2) (x3 : State) (h3 : P x3) :
    OnNext P (execSpeedMonitorSample x1 x2 x3) := by
  unfold execSpeedMonitorSample
  repeat' first
    | with_reducible assumption
    | with_reducible apply OnNext.unit
    | with_reducible apply OnNext.next
    | with_reducible apply OnNext.fault
    | with_reducible apply modCl_keeps c
    | with_reducible apply foldl_keeps
    | with_reducible apply foldl_keeps_fst
    | with_reducible apply foldl_keeps_snd
    | intro _
    | dsimp -zeta only

theorem execSpeedLow_keeps {P : State → Prop} (c : Closed 0x60200000000 P) (x1) (x2) (x3 : State) (h3 : P x3) :
    OnNext P (execSpeedLow x1 x2 x3) := by
  unfold execSpeedLow
  repeat' first
    | with_reducible assumption
    | with_reducible apply OnNext.unit
    | with_reducible apply OnNext.next
    | with_reducible apply OnNext.fault
    | with_reducible apply raiseOn_keeps c
    | with_reducible refine fun _ => ?_
    | lift_lets -underBinder
    | (intro x; refine (fun hx : P x => ?_) ?_; clear_value x)
    | (intro x; refine (fun hx : P x.2 => ?_) ?_; clear_value x)
    | (intro x; refine (fun hx : P x.1 => ?_) ?_; clear_value x)
    | (intro x; refine (fun hx : P x.s => ?_) ?_; clear_value x)
    | (intro x; clear_value x)
    | split
    | dsimp -zeta only
    | dsimp -zeta +zetaDelta only
    | lift_lets
    | dsimp only

theorem eccError_keeps {P : State → Prop} (c : Closed 0x60002201800 P) (x1 : State) (x2) (x3) (x4) (h1 : P x1) :
    P (eccError x1 x2 x3 x4) := by
  have c1 := c.sub (K' := 0x800) (by decide)
  have c2 := c.sub (K' := 0x60000000000) (by decide)
  have c3 := c.sub (K' := 0x200000) (by decide)
  have c4 := c.sub (K' := 0x2001000) (by decide)
  unfold eccError
  repeat' first
    | with_reducible assumption
    | with_reducible apply markPartial_keeps c1
    | with_reducible apply logOnly_keeps c2
    | with_reducible apply modFab_keeps c3
    | with_reducible apply endEntry_keeps c4
    | with_reducible refine fun _ => ?_
    | lift_lets -underBinder
    | (intro x; refine (fun hx : P x => ?_) ?_; clear_value x)
    | (intro x; refine (fun hx : P x.2 => ?_) ?_; clear_value x)
    | (intro x; refine (fun hx : P x.1 => ?_) ?_; clear_value x)
    | (intro x; refine (fun hx : P x.s => ?_) ?_; clear_value x)
    | (intro x; clear_value x)
    | intro _
    | split
    | dsimp -zeta only
    | dsimp -zeta +zetaDelta only
    | lift_lets
    | dsimp only

theorem execEccUncorrectable_keeps {P : State → Prop} (c : Closed 0x60002201800 P) (x1) (x2) (x3) (x4 : State) (h4 : P x4) :
    OnNext P (execEccUncorrectable x1 x2 x3 x4) := by
  unfold execEccUncorrectable
  repeat' first
    | with_reducible assumption
    | with_reducible apply OnNext.unit
    | with_reducible apply OnNext.next
    | with_reducible apply OnNext.fault
    | with_reducible apply eccError_keeps c
    | dsimp -zeta only

theorem startDetect_keeps {P : State → Prop} (c : Closed 0x60004601800 P) (x1 : State) (x2) (x3) (x4) (h1 : P x1) :
    P (startDetect x1 x2 x3 x4) := by
  have c1 := c.sub (K' := 0x1800) (by decide)
  have c2 := c.sub (K' := 0x4000000) (by decide)
  have c3 := c.sub (K' := 0x1000) (by decide)
  unfold startDetect
  repeat' first
    | with_reducible assumption
    | with_reducible apply detectAbort_keeps c
    | with_reducible apply missEntry_keeps c1
    | with_reducible apply modDet_keeps c2
    | with_reducible apply unitDone_keeps c3
    | with_reducible refine fun _ => ?_
    | lift_lets -underBinder
    | (intro x; refine (fun hx : P x => ?_) ?_; clear_value x)
    | (intro x; refine (fun hx : P x.2 => ?_) ?_; clear_value x)
    | (intro x; refine (fun hx : P x.1 => ?_) ?_; clear_value x)
    | (intro x; refine (fun hx : P x.s => ?_) ?_; clear_value x)
    | (intro x; clear_value x)
    | intro _
    | split
    | dsimp -zeta only
    | dsimp -zeta +zetaDelta only
    | lift_lets
    | dsimp only

theorem execDetect_keeps {P : State → Prop} (c : Closed 0x60204645a10 P) (x1) (x2 : State) (h2 : P x2) :
    OnNext P (execDetect x1 x2) := by
  have c1 := c.sub (K' := 0x60200045a10) (by decide)
  have c2 := c.sub (K' := 0x60004601800) (by decide)
  unfold execDetect
  repeat' first
    | with_reducible assumption
    | with_reducible apply OnNext.unit
    | with_reducible apply OnNext.next
    | with_reducible apply OnNext.fault
    | with_reducible apply onLaunch_keeps c1
    | with_reducible apply startDetect_keeps c2
    | dsimp -zeta only

theorem execDetectStart_keeps {P : State → Prop} (c : Closed 0x60004601800 P) (x1) (x2 : State) (h2 : P x2) :
    OnNext P (execDetectStart x1 x2) := by
  have c1 := c.sub (K' := 0x4000000) (by decide)
  unfold execDetectStart
  repeat' first
    | with_reducible assumption
    | with_reducible apply OnNext.unit
    | with_reducible apply OnNext.next
    | with_reducible apply OnNext.fault
    | with_reducible apply modDet_keeps c1
    | with_reducible apply detectRun_keeps c
    | intro _
    | split
    | dsimp -zeta only

theorem execDetectStall_keeps {P : State → Prop} (c : Closed 0x60004601800 P) (x1) (x2 : State) (h2 : P x2) :
    OnNext P (execDetectStall x1 x2) := by
  unfold execDetectStall
  repeat' first
    | with_reducible assumption
    | with_reducible apply OnNext.unit
    | with_reducible apply OnNext.next
    | with_reducible apply OnNext.fault
    | with_reducible apply detectFails_keeps c
    | with_reducible refine fun _ => ?_
    | lift_lets -underBinder
    | (intro x; refine (fun hx : P x => ?_) ?_; clear_value x)
    | (intro x; refine (fun hx : P x.2 => ?_) ?_; clear_value x)
    | (intro x; refine (fun hx : P x.1 => ?_) ?_; clear_value x)
    | (intro x; refine (fun hx : P x.s => ?_) ?_; clear_value x)
    | (intro x; clear_value x)
    | split
    | dsimp -zeta only
    | dsimp -zeta +zetaDelta only
    | lift_lets
    | dsimp only

end Sys2Proof.Laws
end

