-- ==== Sys2Proof/Laws/KeepsGuardOps.lean ====
section
/-! SUPPORT. What each function of Machine/GuardOps.lean can change: a predicate closed under its changes survives it. -/
namespace Sys2Proof.Laws
open Sys2Proof Sys2Proof.Machine

theorem guardRefuse_keeps {P : State → Prop} (c : Closed 0x60208000000 P) (x1 : State) (h1 : P x1) :
    P (guardRefuse x1) := by
  have c1 := c.sub (K' := 0x60000000000) (by decide)
  have c2 := c.sub (K' := 0x60200000000) (by decide)
  have c3 := c.sub (K' := 0x8000000) (by decide)
  unfold guardRefuse
  repeat' first
    | with_reducible assumption
    | with_reducible apply logOnly_keeps c1
    | with_reducible apply raiseOn_keeps c2
    | with_reducible apply modGuard_keeps c3
    | with_reducible refine fun _ => ?_
    | lift_lets -underBinder
    | (intro x; refine (fun hx : P x => ?_) ?_; clear_value x)
    | (intro x; refine (fun hx : P x.2 => ?_) ?_; clear_value x)
    | (intro x; refine (fun hx : P x.1 => ?_) ?_; clear_value x)
    | (intro x; refine (fun hx : P x.s => ?_) ?_; clear_value x)
    | (intro x; clear_value x)
    | intro _
    | split
    | dsimp -zeta only
    | dsimp -zeta +zetaDelta only
    | lift_lets
    | dsimp only

theorem guardCheck_keeps {P : State → Prop} (c : Closed 0x60208040000 P) (x1 : State) (x2) (x3) (h1 : P x1) :
    P (guardCheck x1 x2 x3).2 := by
  have c1 := c.sub (K' := 0x60200040000) (by decide)
  have c2 := c.sub (K' := 0x60208000000) (by decide)
  have c3 := c.sub (K' := 0x8000000) (by decide)
  unfold guardCheck
  repeat' first
    | with_reducible assumption
    | with_reducible apply sendMsg_keeps c1
    | with_reducible apply guardRefuse_keeps c2
    | with_reducible apply modGuard_keeps c3
    | with_reducible refine fun _ => ?_
    | lift_lets -underBinder
    | (intro x; refine (fun hx : P x => ?_) ?_; clear_value x)
    | (intro x; refine (fun hx : P x.2 => ?_) ?_; clear_value x)
    | (intro x; refine (fun hx : P x.1 => ?_) ?_; clear_value x)
    | (intro x; refine (fun hx : P x.s => ?_) ?_; clear_value x)
    | (intro x; clear_value x)
    | intro _
    | split
    | dsimp -zeta only
    | dsimp -zeta +zetaDelta only
    | lift_lets
    | dsimp only

end Sys2Proof.Laws
end

