-- ==== Sys2Proof/Laws/KeepsCrops.lean ====
section
/-! SUPPORT. What each function of Machine/Crops.lean can change: a predicate closed under its changes survives it. -/
namespace Sys2Proof.Laws
open Sys2Proof Sys2Proof.Machine

theorem startRoiWindow_keeps {P : State → Prop} (c : Closed 0x8001000 P) (x1 : State) (x2) (x3) (x4) (h1 : P x1) :
    P (startRoiWindow x1 x2 x3 x4) := by
  have c1 := c.sub (K' := 0x1000) (by decide)
  have c2 := c.sub (K' := 0x8000000) (by decide)
  unfold startRoiWindow
  repeat' first
    | with_reducible assumption
    | with_reducible apply unitDone_keeps c1
    | with_reducible apply modGuard_keeps c2
    | intro _
    | dsimp -zeta only

theorem execRoiWindow_keeps {P : State → Prop} (c : Closed 0x60208045a10 P) (x1) (x2 : State) (h2 : P x2) :
    OnNext P (execRoiWindow x1 x2) := by
  have c1 := c.sub (K' := 0x8001000) (by decide)
  have c2 := c.sub (K' := 0x60200045a10) (by decide)
  unfold execRoiWindow
  repeat' first
    | with_reducible assumption
    | with_reducible apply OnNext.unit
    | with_reducible apply OnNext.next
    | with_reducible apply OnNext.fault
    | with_reducible apply startRoiWindow_keeps c1
    | with_reducible apply onLaunch_keeps c2
    | dsimp -zeta only

theorem refuseCrop_keeps {P : State → Prop} (c : Closed 0x60208040000 P) (x1 : State) (x2) (x3) (h1 : P x1) :
    P (refuseCrop x1 x2 x3) := by
  have c1 := c.sub (K' := 0x60200040000) (by decide)
  have c2 := c.sub (K' := 0x60000000000) (by decide)
  have c3 := c.sub (K' := 0x8000000) (by decide)
  unfold refuseCrop
  repeat' first
    | with_reducible assumption
    | with_reducible apply sendMsg_keeps c1
    | with_reducible apply logOnly_keeps c2
    | with_reducible apply modGuard_keeps c3
    | with_reducible refine fun _ => ?_
    | lift_lets -underBinder
    | (intro x; refine (fun hx : P x => ?_) ?_; clear_value x)
    | (intro x; refine (fun hx : P x.2 => ?_) ?_; clear_value x)
    | (intro x; refine (fun hx : P x.1 => ?_) ?_; clear_value x)
    | (intro x; refine (fun hx : P x.s => ?_) ?_; clear_value x)
    | (intro x; clear_value x)
    | intro _
    | split
    | dsimp -zeta only
    | dsimp -zeta +zetaDelta only
    | lift_lets
    | dsimp only

theorem judgeCrop_keeps {P : State → Prop} (c : Closed 0x60208040000 P) (x1 : State) (x2) (h1 : P x1) :
    P (judgeCrop x1 x2) := by
  have c1 := c.sub (K' := 0x8000000) (by decide)
  unfold judgeCrop
  repeat' first
    | with_reducible assumption
    | with_reducible apply refuseCrop_keeps c
    | with_reducible apply modGuard_keeps c1
    | intro _
    | split
    | dsimp -zeta only

theorem judgeWaiting_keeps {P : State → Prop} (c : Closed 0x60208040000 P) (x1 : State) (h1 : P x1) :
    P (judgeWaiting x1) := by
  have c1 := c.sub (K' := 0x8000000) (by decide)
  unfold judgeWaiting
  repeat' first
    | with_reducible assumption
    | with_reducible apply judgeCrop_keeps c
    | with_reducible apply modGuard_keeps c1
    | with_reducible refine fun _ => ?_
    | lift_lets -underBinder
    | (intro x; refine (fun hx : P x => ?_) ?_; clear_value x)
    | (intro x; refine (fun hx : P x.2 => ?_) ?_; clear_value x)
    | (intro x; refine (fun hx : P x.1 => ?_) ?_; clear_value x)
    | (intro x; refine (fun hx : P x.s => ?_) ?_; clear_value x)
    | (intro x; clear_value x)
    | with_reducible apply foldl_keeps
    | with_reducible apply foldl_keeps_fst
    | with_reducible apply foldl_keeps_snd
    | intro _
    | dsimp -zeta only
    | dsimp -zeta +zetaDelta only
    | lift_lets
    | dsimp only

theorem takeCropRequest_keeps {P : State → Prop} (c : Closed 0x60208040000 P) (x1 : State) (x2) (h1 : P x1) :
    P (takeCropRequest x1 x2) := by
  have c1 := c.sub (K' := 0x8000000) (by decide)
  unfold takeCropRequest
  repeat' first
    | with_reducible assumption
    | with_reducible apply judgeCrop_keeps c
    | with_reducible apply modGuard_keeps c1
    | with_reducible refine fun _ => ?_
    | lift_lets -underBinder
    | (intro x; refine (fun hx : P x => ?_) ?_; clear_value x)
    | (intro x; refine (fun hx : P x.2 => ?_) ?_; clear_value x)
    | (intro x; refine (fun hx : P x.1 => ?_) ?_; clear_value x)
    | (intro x; refine (fun hx : P x.s => ?_) ?_; clear_value x)
    | (intro x; clear_value x)
    | intro _
    | split
    | dsimp -zeta only
    | dsimp -zeta +zetaDelta only
    | lift_lets
    | dsimp only

theorem takeEyeStream_keeps {P : State → Prop} (c : Closed 0x6060a640a08 P) (x1 : State) (x2) (h1 : P x1) :
    P (takeEyeStream x1 x2) := by
  have c1 := c.sub (K' := 0x60208040000) (by decide)
  have c2 := c.sub (K' := 0x6060a600a08) (by decide)
  unfold takeEyeStream
  repeat' first
    | with_reducible assumption
    | with_reducible apply takeCropRequest_keeps c1
    | with_reducible apply judgeWaiting_keeps c1
    | with_reducible apply takeVc1_keeps c2
    | split
    | dsimp -zeta only

theorem execCropRequest_keeps {P : State → Prop} (c : Closed 0x6060a644a18 P) (x1) (x2 : State) (h2 : P x2) :
    OnNext P (execCropRequest x1 x2) := by
  have c1 := c.sub (K' := 0x60200244a10) (by decide)
  have c2 := c.sub (K' := 0x6060a640a08) (by decide)
  unfold execCropRequest
  repeat' first
    | with_reducible assumption
    | with_reducible apply OnNext.unit
    | with_reducible apply OnNext.next
    | with_reducible apply OnNext.fault
    | with_reducible apply onParcel_keeps c1
    | with_reducible apply takeEyeStream_keeps c2
    | intro _
    | split
    | dsimp -zeta only

theorem execStream_keeps {P : State → Prop} (c : Closed 0x6060a644a18 P) (x1) (x2 : State) (h2 : P x2) :
    OnNext P (execStream x1 x2) := by
  have c1 := c.sub (K' := 0x6060a600a08) (by decide)
  have c2 := c.sub (K' := 0x60200244a10) (by decide)
  have c3 := c.sub (K' := 0x6060a640a08) (by decide)
  unfold execStream
  repeat' first
    | with_reducible assumption
    | with_reducible apply OnNext.unit
    | with_reducible apply OnNext.next
    | with_reducible apply OnNext.fault
    | with_reducible apply takeVc1_keeps c1
    | with_reducible apply onParcel_keeps c2
    | with_reducible apply takeEyeStream_keeps c3
    | intro _
    | split
    | dsimp -zeta only

theorem execRoiWindowClose_keeps {P : State → Prop} (c : Closed 0x60208040000 P) (x1 : State) (h1 : P x1) :
    OnNext P (execRoiWindowClose x1) := by
  have c1 := c.sub (K' := 0x8000000) (by decide)
  unfold execRoiWindowClose
  repeat' first
    | with_reducible assumption
    | with_reducible apply OnNext.unit
    | with_reducible apply OnNext.next
    | with_reducible apply OnNext.fault
    | with_reducible apply refuseCrop_keeps c
    | with_reducible apply modGuard_keeps c1
    | with_reducible apply foldl_keeps
    | with_reducible apply foldl_keeps_fst
    | with_reducible apply foldl_keeps_snd
    | intro _
    | split
    | dsimp -zeta only

theorem cropLines_keeps {P : State → Prop} (c : Closed 0x1000000 P) (x1 : State) (x2) (x3) (h1 : P x1) :
    P (cropLines x1 x2 x3) := by
  unfold cropLines
  repeat' first
    | with_reducible assumption
    | with_reducible apply modIsp_keeps c
    | with_reducible refine fun _ => ?_
    | lift_lets -underBinder
    | (intro x; refine (fun hx : P x => ?_) ?_; clear_value x)
    | (intro x; refine (fun hx : P x.2 => ?_) ?_; clear_value x)
    | (intro x; refine (fun hx : P x.1 => ?_) ?_; clear_value x)
    | (intro x; refine (fun hx : P x.s => ?_) ?_; clear_value x)
    | (intro x; clear_value x)
    | intro _
    | dsimp -zeta only
    | dsimp -zeta +zetaDelta only
    | lift_lets
    | dsimp only

-- no statement for Sys2Proof.Machine.cropRows

-- no statement for Sys2Proof.Machine.cropPayloads

theorem sendCrop_keeps {P : State → Prop} (c : Closed 0x60209040000 P) (x1 : State) (x2) (h1 : P x1) :
    P (sendCrop x1 x2) := by
  have c1 := c.sub (K' := 0x60200040000) (by decide)
  have c2 := c.sub (K' := 0x8000000) (by decide)
  unfold sendCrop
  repeat' first
    | with_reducible assumption
    | with_reducible apply sendParcel_keeps c1
    | with_reducible apply modGuard_keeps c2
    | with_reducible refine fun _ => ?_
    | lift_lets -underBinder
    | (intro x; refine (fun hx : P x => ?_) ?_; clear_value x)
    | (intro x; refine (fun hx : P x.2 => ?_) ?_; clear_value x)
    | (intro x; refine (fun hx : P x.1 => ?_) ?_; clear_value x)
    | (intro x; refine (fun hx : P x.s => ?_) ?_; clear_value x)
    | (intro x; clear_value x)
    | with_reducible apply foldl_keeps
    | with_reducible apply foldl_keeps_fst
    | with_reducible apply foldl_keeps_snd
    | intro _
    | dsimp -zeta only
    | dsimp -zeta +zetaDelta only
    | lift_lets
    | dsimp only

theorem execCropProcess_keeps {P : State → Prop} (c : Closed 0x60209040000 P) (x1 : State) (h1 : P x1) :
    OnNext P (execCropProcess x1) := by
  unfold execCropProcess
  repeat' first
    | with_reducible assumption
    | with_reducible apply OnNext.unit
    | with_reducible apply OnNext.next
    | with_reducible apply OnNext.fault
    | with_reducible apply sendCrop_keeps c
    | split
    | dsimp -zeta only

theorem execRoiResult_keeps {P : State → Prop} (c : Closed 0x60200244a10 P) (x1) (x2 : State) (h2 : P x2) :
    OnNext P (execRoiResult x1 x2) := by
  unfold execRoiResult
  repeat' first
    | with_reducible assumption
    | with_reducible apply OnNext.unit
    | with_reducible apply OnNext.next
    | with_reducible apply OnNext.fault
    | with_reducible apply onMsg_keeps c
    | intro _
    | dsimp -zeta only

theorem execEgressBudget_keeps {P : State → Prop} (c : Closed 0x60200244a10 P) (x1) (x2 : State) (h2 : P x2) :
    OnNext P (execEgressBudget x1 x2) := by
  have c1 := c.sub (K' := 0x200000000) (by decide)
  unfold execEgressBudget
  repeat' first
    | with_reducible assumption
    | with_reducible apply OnNext.unit
    | with_reducible apply OnNext.next
    | with_reducible apply OnNext.fault
    | with_reducible apply onMsg_keeps c
    | with_reducible apply modRecs_keeps c1
    | intro _
    | split
    | dsimp -zeta only

end Sys2Proof.Laws
end

