-- ==== Sys2Proof/Laws/KeepsTrainOps.lean ====
section
/-! SUPPORT. What each function of Machine/TrainOps.lean can change: a predicate closed under its changes survives it. -/
namespace Sys2Proof.Laws
open Sys2Proof Sys2Proof.Machine

theorem driftLogs_keeps {P : State → Prop} (c : Closed 0x60200000000 P) (x1 : State) (x2) (x3) (x4) (h1 : P x1) :
    P (driftLogs x1 x2 x3 x4) := by
  unfold driftLogs
  repeat' first
    | with_reducible assumption
    | with_reducible apply raiseOn_keeps c
    | with_reducible refine fun _ => ?_
    | (intro x; refine (fun hx : ∀ t a0 a1, P t → P (x t a0 a1) => ?_) ?_; clear_value x)
    | lift_lets -underBinder
    | (intro x; refine (fun hx : P x => ?_) ?_; clear_value x)
    | (intro x; refine (fun hx : P x.2 => ?_) ?_; clear_value x)
    | (intro x; refine (fun hx : P x.1 => ?_) ?_; clear_value x)
    | (intro x; refine (fun hx : P x.s => ?_) ?_; clear_value x)
    | (intro x; clear_value x)
    | with_reducible apply foldl_keeps
    | with_reducible apply foldl_keeps_fst
    | with_reducible apply foldl_keeps_snd
    | intro _
    | split
    | with_reducible apply_assumption
    | dsimp -zeta only
    | dsimp -zeta +zetaDelta only
    | lift_lets
    | dsimp only

theorem sendLmw_keeps {P : State → Prop} (c : Closed 0x40200 P) (x1 : State) (x2) (x3) (h1 : P x1) :
    P (sendLmw x1 x2 x3) := by
  have c1 := c.sub (K' := 0x40000) (by decide)
  have c2 := c.sub (K' := 0x200) (by decide)
  unfold sendLmw
  repeat' first
    | with_reducible assumption
    | with_reducible apply modPort_keeps c1
    | with_reducible apply sendSb_keeps c2
    | intro _
    | dsimp -zeta only

theorem sendLink_keeps {P : State → Prop} (c : Closed 0x40200 P) (x1 : State) (x2) (x3) (x4) (x5) (h1 : P x1) :
    P (sendLink x1 x2 x3 x4 x5) := by
  have c1 := c.sub (K' := 0x40000) (by decide)
  have c2 := c.sub (K' := 0x200) (by decide)
  unfold sendLink
  repeat' first
    | with_reducible assumption
    | with_reducible apply modPort_keeps c1
    | with_reducible apply emit_keeps c2
    | intro _
    | dsimp -zeta only

theorem afterTraining_keeps {P : State → Prop} (c : Closed 0x40200 P) (x1 : State) (x2) (h1 : P x1) :
    P (afterTraining x1 x2) := by
  have c1 := c.sub (K' := 0x40000) (by decide)
  unfold afterTraining
  repeat' first
    | with_reducible assumption
    | with_reducible apply sendLink_keeps c
    | with_reducible apply modPort_keeps c1
    | with_reducible refine fun _ => ?_
    | lift_lets -underBinder
    | (intro x; refine (fun hx : P x => ?_) ?_; clear_value x)
    | (intro x; refine (fun hx : P x.2 => ?_) ?_; clear_value x)
    | (intro x; refine (fun hx : P x.1 => ?_) ?_; clear_value x)
    | (intro x; refine (fun hx : P x.s => ?_) ?_; clear_value x)
    | (intro x; clear_value x)
    | intro _
    | split
    | dsimp -zeta only
    | dsimp -zeta +zetaDelta only
    | lift_lets
    | dsimp only

theorem trainFailed_keeps {P : State → Prop} (c : Closed 0x60200044810 P) (x1 : State) (x2) (x3) (h1 : P x1) :
    P (trainFailed x1 x2 x3) := by
  have c1 := c.sub (K' := 0x40000) (by decide)
  have c2 := c.sub (K' := 0x60200000000) (by decide)
  unfold trainFailed
  repeat' first
    | with_reducible assumption
    | with_reducible apply modPort_keeps c1
    | with_reducible apply raiseOn_keeps c2
    | with_reducible apply deadPort_keeps c
    | with_reducible apply failPort_keeps c
    | with_reducible refine fun _ => ?_
    | lift_lets -underBinder
    | (intro x; refine (fun hx : P x => ?_) ?_; clear_value x)
    | (intro x; refine (fun hx : P x.2 => ?_) ?_; clear_value x)
    | (intro x; refine (fun hx : P x.1 => ?_) ?_; clear_value x)
    | (intro x; refine (fun hx : P x.s => ?_) ?_; clear_value x)
    | (intro x; clear_value x)
    | intro _
    | split
    | dsimp -zeta only
    | dsimp -zeta +zetaDelta only
    | lift_lets
    | dsimp only

theorem widthChange_keeps {P : State → Prop} (c : Closed 0x20200004000 P) (x1 : State) (x2) (x3) (h1 : P x1) :
    P (widthChange x1 x2 x3) := by
  unfold widthChange
  repeat' first
    | with_reducible assumption
    | with_reducible apply linkChange_keeps c
    | with_reducible refine fun _ => ?_
    | lift_lets -underBinder
    | (intro x; refine (fun hx : P x => ?_) ?_; clear_value x)
    | (intro x; refine (fun hx : P x.2 => ?_) ?_; clear_value x)
    | (intro x; refine (fun hx : P x.1 => ?_) ?_; clear_value x)
    | (intro x; refine (fun hx : P x.s => ?_) ?_; clear_value x)
    | (intro x; clear_value x)
    | split
    | dsimp -zeta only
    | dsimp -zeta +zetaDelta only
    | lift_lets
    | dsimp only

theorem trainPort_keeps {P : State → Prop} (c : Closed 0x60200044a10 P) (x1 : State) (x2) (x3) (h1 : P x1) :
    P (trainPort x1 x2 x3) := by
  have c1 := c.sub (K' := 0x40200) (by decide)
  have c2 := c.sub (K' := 0x40000) (by decide)
  have c3 := c.sub (K' := 0x20200004000) (by decide)
  have c4 := c.sub (K' := 0x60200040810) (by decide)
  have c5 := c.sub (K' := 0x60200044810) (by decide)
  have c6 := c.sub (K' := 0x4000) (by decide)
  have c7 := c.sub (K' := 0x60200000000) (by decide)
  unfold trainPort
  repeat' first
    | with_reducible assumption
    | with_reducible apply afterTraining_keeps c1
    | with_reducible apply modPort_keeps c2
    | with_reducible apply widthChange_keeps c3
    | with_reducible apply portLost_keeps c4
    | with_reducible apply trainFailed_keeps c5
    | with_reducible apply modBoot_keeps c6
    | with_reducible apply driftLogs_keeps c7
    | with_reducible refine fun _ => ?_
    | lift_lets -underBinder
    | (intro x; refine (fun hx : P x => ?_) ?_; clear_value x)
    | (intro x; refine (fun hx : P x.2 => ?_) ?_; clear_value x)
    | (intro x; refine (fun hx : P x.1 => ?_) ?_; clear_value x)
    | (intro x; refine (fun hx : P x.s => ?_) ?_; clear_value x)
    | (intro x; clear_value x)
    | intro _
    | split
    | dsimp -zeta only
    | dsimp -zeta +zetaDelta only
    | lift_lets
    | dsimp only

theorem negFail_keeps {P : State → Prop} (c : Closed 0x60200044810 P) (x1 : State) (x2) (x3) (h1 : P x1) :
    P (negFail x1 x2 x3) := by
  have c1 := c.sub (K' := 0x40000) (by decide)
  have c2 := c.sub (K' := 0x60200000000) (by decide)
  unfold negFail
  repeat' first
    | with_reducible assumption
    | with_reducible apply modPort_keeps c1
    | with_reducible apply raiseOn_keeps c2
    | with_reducible apply failPort_keeps c
    | intro _
    | dsimp -zeta only

theorem siteMismatch_keeps {P : State → Prop} (c : Closed 0x20200041010 P) (x1 : State) (x2) (x3) (h1 : P x1) :
    P (siteMismatch x1 x2 x3) := by
  have c1 := c.sub (K' := 0x40000) (by decide)
  have c2 := c.sub (K' := 0x1000) (by decide)
  have c3 := c.sub (K' := 0x10) (by decide)
  have c4 := c.sub (K' := 0x20200000000) (by decide)
  unfold siteMismatch
  repeat' first
    | with_reducible assumption
    | with_reducible apply modPort_keeps c1
    | with_reducible apply modDie_keeps c2
    | with_reducible apply switchRoutes_keeps c3
    | with_reducible apply raise_keeps c4
    | with_reducible refine fun _ => ?_
    | lift_lets -underBinder
    | (intro x; refine (fun hx : P x => ?_) ?_; clear_value x)
    | (intro x; refine (fun hx : P x.2 => ?_) ?_; clear_value x)
    | (intro x; refine (fun hx : P x.1 => ?_) ?_; clear_value x)
    | (intro x; refine (fun hx : P x.s => ?_) ?_; clear_value x)
    | (intro x; clear_value x)
    | with_reducible apply foldl_keeps
    | with_reducible apply foldl_keeps_fst
    | with_reducible apply foldl_keeps_snd
    | intro _
    | split
    | dsimp -zeta only
    | dsimp -zeta +zetaDelta only
    | lift_lets
    | dsimp only

theorem takeCap_keeps {P : State → Prop} (c : Closed 0x60200045810 P) (x1 : State) (x2) (x3) (h1 : P x1) :
    P (takeCap x1 x2 x3) := by
  have c1 := c.sub (K' := 0x40000) (by decide)
  have c2 := c.sub (K' := 0x60200044810) (by decide)
  have c3 := c.sub (K' := 0x20200041010) (by decide)
  unfold takeCap
  repeat' first
    | with_reducible assumption
    | with_reducible apply modPort_keeps c1
    | with_reducible apply negFail_keeps c2
    | with_reducible apply siteMismatch_keeps c3
    | with_reducible refine fun _ => ?_
    | lift_lets -underBinder
    | (intro x; refine (fun hx : P x => ?_) ?_; clear_value x)
    | (intro x; refine (fun hx : P x.2 => ?_) ?_; clear_value x)
    | (intro x; refine (fun hx : P x.1 => ?_) ?_; clear_value x)
    | (intro x; refine (fun hx : P x.s => ?_) ?_; clear_value x)
    | (intro x; clear_value x)
    | intro _
    | split
    | dsimp -zeta only
    | dsimp -zeta +zetaDelta only
    | lift_lets
    | dsimp only

theorem takeAgree_keeps {P : State → Prop} (c : Closed 0x60200044810 P) (x1 : State) (x2) (x3) (h1 : P x1) :
    P (takeAgree x1 x2 x3) := by
  have c1 := c.sub (K' := 0x40000) (by decide)
  unfold takeAgree
  repeat' first
    | with_reducible assumption
    | with_reducible apply modPort_keeps c1
    | with_reducible apply negFail_keeps c
    | with_reducible refine fun _ => ?_
    | lift_lets -underBinder
    | (intro x; refine (fun hx : P x => ?_) ?_; clear_value x)
    | (intro x; refine (fun hx : P x.2 => ?_) ?_; clear_value x)
    | (intro x; refine (fun hx : P x.1 => ?_) ?_; clear_value x)
    | (intro x; refine (fun hx : P x.s => ?_) ?_; clear_value x)
    | (intro x; clear_value x)
    | intro _
    | split
    | dsimp -zeta only
    | dsimp -zeta +zetaDelta only
    | lift_lets
    | dsimp only

theorem endSoak_keeps {P : State → Prop} (c : Closed 0x60200044a10 P) (x1 : State) (x2) (h1 : P x1) :
    P (endSoak x1 x2) := by
  have c1 := c.sub (K' := 0x40000) (by decide)
  have c2 := c.sub (K' := 0x40200) (by decide)
  have c3 := c.sub (K' := 0x60200000000) (by decide)
  have c4 := c.sub (K' := 0x60200044810) (by decide)
  unfold endSoak
  repeat' first
    | with_reducible assumption
    | with_reducible apply modPort_keeps c1
    | with_reducible apply sendLmw_keeps c2
    | with_reducible apply raiseOn_keeps c3
    | with_reducible apply failPort_keeps c4
    | with_reducible refine fun _ => ?_
    | lift_lets -underBinder
    | (intro x; refine (fun hx : P x => ?_) ?_; clear_value x)
    | (intro x; refine (fun hx : P x.2 => ?_) ?_; clear_value x)
    | (intro x; refine (fun hx : P x.1 => ?_) ?_; clear_value x)
    | (intro x; refine (fun hx : P x.s => ?_) ?_; clear_value x)
    | (intro x; clear_value x)
    | intro _
    | split
    | dsimp -zeta only
    | dsimp -zeta +zetaDelta only
    | lift_lets
    | dsimp only

theorem portUp_keeps {P : State → Prop} (c : Closed 0x45000 P) (x1 : State) (x2) (h1 : P x1) :
    P (portUp x1 x2) := by
  have c1 := c.sub (K' := 0x40000) (by decide)
  have c2 := c.sub (K' := 0x1000) (by decide)
  have c3 := c.sub (K' := 0x4000) (by decide)
  unfold portUp
  repeat' first
    | with_reducible assumption
    | with_reducible apply modPort_keeps c1
    | with_reducible apply modDie_keeps c2
    | with_reducible apply modBoot_keeps c3
    | with_reducible refine fun _ => ?_
    | lift_lets -underBinder
    | (intro x; refine (fun hx : P x => ?_) ?_; clear_value x)
    | (intro x; refine (fun hx : P x.2 => ?_) ?_; clear_value x)
    | (intro x; refine (fun hx : P x.1 => ?_) ?_; clear_value x)
    | (intro x; refine (fun hx : P x.s => ?_) ?_; clear_value x)
    | (intro x; clear_value x)
    | intro _
    | split
    | dsimp -zeta only
    | dsimp -zeta +zetaDelta only
    | lift_lets
    | dsimp only

end Sys2Proof.Laws
end

