-- ==== Sys2Proof/Laws/KeepsEdl.lean ====
section
/-! SUPPORT. What each function of Machine/Edl.lean can change: a predicate closed under its changes survives it. -/
namespace Sys2Proof.Laws
open Sys2Proof Sys2Proof.Machine

theorem execLinkTrain_keeps {P : State → Prop} (c : Closed 0x60200044a10 P) (x1) (x2) (x3 : State) (h3 : P x3) :
    OnNext P (execLinkTrain x1 x2 x3) := by
  unfold execLinkTrain
  repeat' first
    | with_reducible assumption
    | with_reducible apply OnNext.unit
    | with_reducible apply OnNext.next
    | with_reducible apply OnNext.fault
    | with_reducible apply trainPort_keeps c
    | dsimp -zeta only

theorem execTrainStepTimeout_keeps {P : State → Prop} (c : Closed 0x60200044810 P) (x1) (x2 : State) (h2 : P x2) :
    OnNext P (execTrainStepTimeout x1 x2) := by
  unfold execTrainStepTimeout
  repeat' first
    | with_reducible assumption
    | with_reducible apply OnNext.unit
    | with_reducible apply OnNext.next
    | with_reducible apply OnNext.fault
    | with_reducible apply trainFailed_keeps c
    | with_reducible refine fun _ => ?_
    | lift_lets -underBinder
    | (intro x; refine (fun hx : P x => ?_) ?_; clear_value x)
    | (intro x; refine (fun hx : P x.2 => ?_) ?_; clear_value x)
    | (intro x; refine (fun hx : P x.1 => ?_) ?_; clear_value x)
    | (intro x; refine (fun hx : P x.s => ?_) ?_; clear_value x)
    | (intro x; clear_value x)
    | split
    | dsimp -zeta only
    | dsimp -zeta +zetaDelta only
    | lift_lets
    | dsimp only

theorem onLmw_keeps {P : State → Prop} (c : Closed 0x60200044810 P) (x1 : State) (x2) (x3) (x4 : State → BitVec 48 → State) (h1 : P x1) (h4 : ∀ y0 y1, P y0 → P (x4 y0 y1)) :
    OnNext P (onLmw x1 x2 x3 x4) := by
  unfold onLmw
  repeat' first
    | with_reducible assumption
    | with_reducible apply OnNext.unit
    | with_reducible apply OnNext.next
    | with_reducible apply OnNext.fault
    | with_reducible apply sbTake_keeps c
    | with_reducible refine snd_of (by assumption) ?_
    | intro _
    | split
    | with_reducible apply_assumption
    | dsimp -zeta only

theorem execLmwHello_keeps {P : State → Prop} (c : Closed 0x60200044a10 P) (x1) (x2 : State) (h2 : P x2) :
    OnNext P (execLmwHello x1 x2) := by
  have c1 := c.sub (K' := 0x40000) (by decide)
  have c2 := c.sub (K' := 0x200) (by decide)
  have c3 := c.sub (K' := 0x60200044810) (by decide)
  unfold execLmwHello
  repeat' first
    | with_reducible assumption
    | with_reducible apply OnNext.unit
    | with_reducible apply OnNext.next
    | with_reducible apply OnNext.fault
    | with_reducible apply modPort_keeps c1
    | with_reducible apply sendSb_keeps c2
    | with_reducible apply onLmw_keeps c3
    | with_reducible refine fun _ => ?_
    | lift_lets -underBinder
    | (intro x; refine (fun hx : P x => ?_) ?_; clear_value x)
    | (intro x; refine (fun hx : P x.2 => ?_) ?_; clear_value x)
    | (intro x; refine (fun hx : P x.1 => ?_) ?_; clear_value x)
    | (intro x; refine (fun hx : P x.s => ?_) ?_; clear_value x)
    | (intro x; clear_value x)
    | intro _
    | split
    | dsimp -zeta only
    | dsimp -zeta +zetaDelta only
    | lift_lets
    | dsimp only

theorem execLmwStep_keeps {P : State → Prop} (c : Closed 0x60200044a10 P) (x1) (x2 : State) (h2 : P x2) :
    OnNext P (execLmwStep x1 x2) := by
  have c1 := c.sub (K' := 0x40000) (by decide)
  have c2 := c.sub (K' := 0x200) (by decide)
  have c3 := c.sub (K' := 0x60200044810) (by decide)
  unfold execLmwStep
  repeat' first
    | with_reducible assumption
    | with_reducible apply OnNext.unit
    | with_reducible apply OnNext.next
    | with_reducible apply OnNext.fault
    | with_reducible apply modPort_keeps c1
    | with_reducible apply sendSb_keeps c2
    | with_reducible apply onLmw_keeps c3
    | with_reducible refine fun _ => ?_
    | lift_lets -underBinder
    | (intro x; refine (fun hx : P x => ?_) ?_; clear_value x)
    | (intro x; refine (fun hx : P x.2 => ?_) ?_; clear_value x)
    | (intro x; refine (fun hx : P x.1 => ?_) ?_; clear_value x)
    | (intro x; refine (fun hx : P x.s => ?_) ?_; clear_value x)
    | (intro x; clear_value x)
    | intro _
    | split
    | dsimp -zeta only
    | dsimp -zeta +zetaDelta only
    | lift_lets
    | dsimp only

theorem execLmwFail_keeps {P : State → Prop} (c : Closed 0x60200044810 P) (x1) (x2 : State) (h2 : P x2) :
    OnNext P (execLmwFail x1 x2) := by
  have c1 := c.sub (K' := 0x40000) (by decide)
  unfold execLmwFail
  repeat' first
    | with_reducible assumption
    | with_reducible apply OnNext.unit
    | with_reducible apply OnNext.next
    | with_reducible apply OnNext.fault
    | with_reducible apply modPort_keeps c1
    | with_reducible apply onLmw_keeps c
    | with_reducible refine fun _ => ?_
    | lift_lets -underBinder
    | (intro x; refine (fun hx : P x => ?_) ?_; clear_value x)
    | (intro x; refine (fun hx : P x.2 => ?_) ?_; clear_value x)
    | (intro x; refine (fun hx : P x.1 => ?_) ?_; clear_value x)
    | (intro x; refine (fun hx : P x.s => ?_) ?_; clear_value x)
    | (intro x; clear_value x)
    | intro _
    | split
    | dsimp -zeta only
    | dsimp -zeta +zetaDelta only
    | lift_lets
    | dsimp only

theorem execLmwSteer_keeps {P : State → Prop} (c : Closed 0x60200044a10 P) (x1) (x2 : State) (h2 : P x2) :
    OnNext P (execLmwSteer x1 x2) := by
  have c1 := c.sub (K' := 0x40000) (by decide)
  have c2 := c.sub (K' := 0x200) (by decide)
  have c3 := c.sub (K' := 0x60200044810) (by decide)
  unfold execLmwSteer
  repeat' first
    | with_reducible assumption
    | with_reducible apply OnNext.unit
    | with_reducible apply OnNext.next
    | with_reducible apply OnNext.fault
    | with_reducible apply modPort_keeps c1
    | with_reducible apply sendSb_keeps c2
    | with_reducible apply onLmw_keeps c3
    | with_reducible refine fun _ => ?_
    | lift_lets -underBinder
    | (intro x; refine (fun hx : P x => ?_) ?_; clear_value x)
    | (intro x; refine (fun hx : P x.2 => ?_) ?_; clear_value x)
    | (intro x; refine (fun hx : P x.1 => ?_) ?_; clear_value x)
    | (intro x; refine (fun hx : P x.s => ?_) ?_; clear_value x)
    | (intro x; clear_value x)
    | intro _
    | dsimp -zeta only
    | dsimp -zeta +zetaDelta only
    | lift_lets
    | dsimp only

theorem execLmwSteerAck_keeps {P : State → Prop} (c : Closed 0x60200044810 P) (x1) (x2 : State) (h2 : P x2) :
    OnNext P (execLmwSteerAck x1 x2) := by
  have c1 := c.sub (K' := 0x40000) (by decide)
  unfold execLmwSteerAck
  repeat' first
    | with_reducible assumption
    | with_reducible apply OnNext.unit
    | with_reducible apply OnNext.next
    | with_reducible apply OnNext.fault
    | with_reducible apply modPort_keeps c1
    | with_reducible apply onLmw_keeps c
    | with_reducible refine fun _ => ?_
    | lift_lets -underBinder
    | (intro x; refine (fun hx : P x => ?_) ?_; clear_value x)
    | (intro x; refine (fun hx : P x.2 => ?_) ?_; clear_value x)
    | (intro x; refine (fun hx : P x.1 => ?_) ?_; clear_value x)
    | (intro x; refine (fun hx : P x.s => ?_) ?_; clear_value x)
    | (intro x; clear_value x)
    | intro _
    | split
    | dsimp -zeta only
    | dsimp -zeta +zetaDelta only
    | lift_lets
    | dsimp only

theorem execLmwRetrain_keeps {P : State → Prop} (c : Closed 0x60200044a10 P) (x1) (x2 : State) (h2 : P x2) :
    OnNext P (execLmwRetrain x1 x2) := by
  have c1 := c.sub (K' := 0x40000) (by decide)
  have c2 := c.sub (K' := 0x40200) (by decide)
  have c3 := c.sub (K' := 0x60200044810) (by decide)
  unfold execLmwRetrain
  repeat' first
    | with_reducible assumption
    | with_reducible apply OnNext.unit
    | with_reducible apply OnNext.next
    | with_reducible apply OnNext.fault
    | with_reducible apply modPort_keeps c1
    | with_reducible apply startRetrain_keeps c2
    | with_reducible apply onLmw_keeps c3
    | intro _
    | split
    | dsimp -zeta only

theorem execLmwResend_keeps {P : State → Prop} (c : Closed 0x60200044a10 P) (x1) (x2 : State) (h2 : P x2) :
    OnNext P (execLmwResend x1 x2) := by
  have c1 := c.sub (K' := 0x40000) (by decide)
  have c2 := c.sub (K' := 0x200) (by decide)
  have c3 := c.sub (K' := 0x60200044810) (by decide)
  unfold execLmwResend
  repeat' first
    | with_reducible assumption
    | with_reducible apply OnNext.unit
    | with_reducible apply OnNext.next
    | with_reducible apply OnNext.fault
    | with_reducible apply modPort_keeps c1
    | with_reducible apply sendSb_keeps c2
    | with_reducible apply trainFailed_keeps c3
    | with_reducible refine fun _ => ?_
    | lift_lets -underBinder
    | (intro x; refine (fun hx : P x => ?_) ?_; clear_value x)
    | (intro x; refine (fun hx : P x.2 => ?_) ?_; clear_value x)
    | (intro x; refine (fun hx : P x.1 => ?_) ?_; clear_value x)
    | (intro x; refine (fun hx : P x.s => ?_) ?_; clear_value x)
    | (intro x; clear_value x)
    | intro _
    | split
    | dsimp -zeta only
    | dsimp -zeta +zetaDelta only
    | lift_lets
    | dsimp only

theorem execRetrainRequest_keeps {P : State → Prop} (c : Closed 0x40200 P) (x1) (x2) (x3 : State) (h3 : P x3) :
    OnNext P (execRetrainRequest x1 x2 x3) := by
  have c1 := c.sub (K' := 0x200) (by decide)
  unfold execRetrainRequest
  repeat' first
    | with_reducible assumption
    | with_reducible apply OnNext.unit
    | with_reducible apply OnNext.next
    | with_reducible apply OnNext.fault
    | with_reducible apply startRetrain_keeps c
    | with_reducible apply answer_keeps c1
    | split
    | dsimp -zeta only

theorem execSbLost_keeps {P : State → Prop} (c : Closed 0x60200044810 P) (x1) (x2 : State) (h2 : P x2) :
    OnNext P (execSbLost x1 x2) := by
  unfold execSbLost
  repeat' first
    | with_reducible assumption
    | with_reducible apply OnNext.unit
    | with_reducible apply OnNext.next
    | with_reducible apply OnNext.fault
    | with_reducible apply downPort_keeps c
    | split
    | dsimp -zeta only

theorem execSbRetry_keeps {P : State → Prop} (c : Closed 0x40200 P) (x1) (x2 : State) (h2 : P x2) :
    OnNext P (execSbRetry x1 x2) := by
  have c1 := c.sub (K' := 0x40000) (by decide)
  unfold execSbRetry
  repeat' first
    | with_reducible assumption
    | with_reducible apply OnNext.unit
    | with_reducible apply OnNext.next
    | with_reducible apply OnNext.fault
    | with_reducible apply modPort_keeps c1
    | with_reducible apply sendLmw_keeps c
    | with_reducible refine fun _ => ?_
    | lift_lets -underBinder
    | (intro x; refine (fun hx : P x => ?_) ?_; clear_value x)
    | (intro x; refine (fun hx : P x.2 => ?_) ?_; clear_value x)
    | (intro x; refine (fun hx : P x.1 => ?_) ?_; clear_value x)
    | (intro x; refine (fun hx : P x.s => ?_) ?_; clear_value x)
    | (intro x; clear_value x)
    | intro _
    | split
    | dsimp -zeta only
    | dsimp -zeta +zetaDelta only
    | lift_lets
    | dsimp only

theorem execBundleClkLost_keeps {P : State → Prop} (c : Closed 0x40200 P) (x1) (x2) (x3 : State) (h3 : P x3) :
    OnNext P (execBundleClkLost x1 x2 x3) := by
  have c1 := c.sub (K' := 0x40000) (by decide)
  unfold execBundleClkLost
  repeat' first
    | with_reducible assumption
    | with_reducible apply OnNext.unit
    | with_reducible apply OnNext.next
    | with_reducible apply OnNext.fault
    | with_reducible apply modPort_keeps c1
    | with_reducible apply startRetrain_keeps c
    | intro _
    | split
    | dsimp -zeta only

theorem execLinkSupplyFault_keeps {P : State → Prop} (c : Closed 0x60200044810 P) (x1) (x2 : State) (h2 : P x2) :
    OnNext P (execLinkSupplyFault x1 x2) := by
  unfold execLinkSupplyFault
  repeat' first
    | with_reducible assumption
    | with_reducible apply OnNext.unit
    | with_reducible apply OnNext.next
    | with_reducible apply OnNext.fault
    | with_reducible apply downPort_keeps c
    | split
    | dsimp -zeta only

theorem sendFirst_keeps {P : State → Prop} (c : Closed 0x40200 P) (x1 : State) (x2) (x3) (x4) (h1 : P x1) :
    P (sendFirst x1 x2 x3 x4) := by
  have c1 := c.sub (K' := 0x40000) (by decide)
  have c2 := c.sub (K' := 0x200) (by decide)
  unfold sendFirst
  repeat' first
    | with_reducible assumption
    | with_reducible apply modPort_keeps c1
    | with_reducible apply emit_keeps c2
    | with_reducible refine fun _ => ?_
    | lift_lets -underBinder
    | (intro x; refine (fun hx : P x => ?_) ?_; clear_value x)
    | (intro x; refine (fun hx : P x.2 => ?_) ?_; clear_value x)
    | (intro x; refine (fun hx : P x.1 => ?_) ?_; clear_value x)
    | (intro x; refine (fun hx : P x.s => ?_) ?_; clear_value x)
    | (intro x; clear_value x)
    | intro _
    | split
    | dsimp -zeta only
    | dsimp -zeta +zetaDelta only
    | lift_lets
    | dsimp only

theorem sendSequenced_keeps {P : State → Prop} (c : Closed 0x60208040200 P) (x1 : State) (x2) (x3) (h1 : P x1) :
    P (sendSequenced x1 x2 x3) := by
  have c1 := c.sub (K' := 0x40000) (by decide)
  have c2 := c.sub (K' := 0x40200) (by decide)
  have c3 := c.sub (K' := 0x60208040000) (by decide)
  unfold sendSequenced
  repeat' first
    | with_reducible assumption
    | with_reducible apply modPort_keeps c1
    | with_reducible apply sendFirst_keeps c2
    | with_reducible apply guardCheck_keeps c3
    | with_reducible refine snd_of (by assumption) ?_
    | intro _
    | split
    | dsimp -zeta only

theorem sendNul_keeps {P : State → Prop} (c : Closed 0x40200 P) (x1 : State) (x2) (h1 : P x1) :
    P (sendNul x1 x2) := by
  have c1 := c.sub (K' := 0x40000) (by decide)
  have c2 := c.sub (K' := 0x200) (by decide)
  unfold sendNul
  repeat' first
    | with_reducible assumption
    | with_reducible apply modPort_keeps c1
    | with_reducible apply emit_keeps c2
    | with_reducible refine fun _ => ?_
    | lift_lets -underBinder
    | (intro x; refine (fun hx : P x => ?_) ?_; clear_value x)
    | (intro x; refine (fun hx : P x.2 => ?_) ?_; clear_value x)
    | (intro x; refine (fun hx : P x.1 => ?_) ?_; clear_value x)
    | (intro x; refine (fun hx : P x.s => ?_) ?_; clear_value x)
    | (intro x; clear_value x)
    | intro _
    | dsimp -zeta only
    | dsimp -zeta +zetaDelta only
    | lift_lets
    | dsimp only

theorem feedOutbox_keeps {P : State → Prop} (c : Closed 0x40000040000 P) (x1 : State) (x2) (h1 : P x1) :
    P (feedOutbox x1 x2) := by
  have c1 := c.sub (K' := 0x40000000000) (by decide)
  have c2 := c.sub (K' := 0x40000) (by decide)
  unfold feedOutbox
  repeat' first
    | with_reducible assumption
    | with_reducible apply outboxTake_keeps c1
    | with_reducible apply enqueueParcel_keeps c2
    | with_reducible refine some2_of (by assumption) ?_
    | split
    | dsimp -zeta only

theorem slot_keeps {P : State → Prop} (c : Closed 0x60608040a00 P) (x1 : State) (x2) (h1 : P x1) :
    P (slot x1 x2) := by
  have c1 := c.sub (K' := 0x60208040200) (by decide)
  have c2 := c.sub (K' := 0x60600040800) (by decide)
  have c3 := c.sub (K' := 0x40000) (by decide)
  have c4 := c.sub (K' := 0x40200) (by decide)
  have c5 := c.sub (K' := 0x200) (by decide)
  have c6 := c.sub (K' := 0x40000040000) (by decide)
  unfold slot
  repeat' first
    | with_reducible assumption
    | with_reducible apply sendSequenced_keeps c1
    | with_reducible apply feedMerge_keeps c2
    | with_reducible apply modPort_keeps c3
    | with_reducible apply sendNul_keeps c4
    | with_reducible apply emit_keeps c5
    | with_reducible apply feedOutbox_keeps c6
    | with_reducible refine fun _ => ?_
    | lift_lets -underBinder
    | (intro x; refine (fun hx : P x => ?_) ?_; clear_value x)
    | (intro x; refine (fun hx : P x.2 => ?_) ?_; clear_value x)
    | (intro x; refine (fun hx : P x.1 => ?_) ?_; clear_value x)
    | (intro x; refine (fun hx : P x.s => ?_) ?_; clear_value x)
    | (intro x; clear_value x)
    | intro _
    | split
    | dsimp -zeta only
    | dsimp -zeta +zetaDelta only
    | lift_lets
    | dsimp only

theorem execParcelSlot_keeps {P : State → Prop} (c : Closed 0x60608241a00 P) (x1) (x2 : State) (h2 : P x2) :
    OnNext P (execParcelSlot x1 x2) := by
  have c1 := c.sub (K' := 0x60608040a00) (by decide)
  have c2 := c.sub (K' := 0x60200241000) (by decide)
  unfold execParcelSlot
  repeat' first
    | with_reducible assumption
    | with_reducible apply OnNext.unit
    | with_reducible apply OnNext.next
    | with_reducible apply OnNext.fault
    | with_reducible apply slot_keeps c1
    | with_reducible apply drainCheck_keeps c2
    | dsimp -zeta only

theorem execParcelCrcFail_keeps {P : State → Prop} (c : Closed 0x60200044a10 P) (x1) (x2 : State) (h2 : P x2) :
    OnNext P (execParcelCrcFail x1 x2) := by
  have c1 := c.sub (K' := 0x40000) (by decide)
  unfold execParcelCrcFail
  repeat' first
    | with_reducible assumption
    | with_reducible apply OnNext.unit
    | with_reducible apply OnNext.next
    | with_reducible apply OnNext.fault
    | with_reducible apply modPort_keeps c1
    | with_reducible apply lecAdd_keeps c
    | with_reducible refine fun _ => ?_
    | lift_lets -underBinder
    | (intro x; refine (fun hx : P x => ?_) ?_; clear_value x)
    | (intro x; refine (fun hx : P x.2 => ?_) ?_; clear_value x)
    | (intro x; refine (fun hx : P x.1 => ?_) ?_; clear_value x)
    | (intro x; refine (fun hx : P x.s => ?_) ?_; clear_value x)
    | (intro x; clear_value x)
    | intro _
    | split
    | dsimp -zeta only
    | dsimp -zeta +zetaDelta only
    | lift_lets
    | dsimp only

theorem takeCounts_keeps {P : State → Prop} (c : Closed 0x60200044a10 P) (x1 : State) (x2) (x3) (x4) (h1 : P x1) :
    P (takeCounts x1 x2 x3 x4) := by
  have c1 := c.sub (K' := 0x40000) (by decide)
  fun_induction takeCounts x1 x2 x3 x4
  all_goals repeat' first
    | with_reducible assumption
    | with_reducible apply modPort_keeps c1
    | with_reducible apply creditErr_keeps c
    | with_reducible refine fun _ => ?_
    | lift_lets -underBinder
    | (intro x; refine (fun hx : P x => ?_) ?_; clear_value x)
    | (intro x; refine (fun hx : P x.2 => ?_) ?_; clear_value x)
    | (intro x; refine (fun hx : P x.1 => ?_) ?_; clear_value x)
    | (intro x; refine (fun hx : P x.s => ?_) ?_; clear_value x)
    | (intro x; clear_value x)
    | intro _
    | with_reducible apply_assumption
    | dsimp -zeta only
    | dsimp -zeta +zetaDelta only
    | lift_lets
    | dsimp only

theorem execNul_keeps {P : State → Prop} (c : Closed 0x60200044a10 P) (x1) (x2) (x3 : State) (h3 : P x3) :
    OnNext P (execNul x1 x2 x3) := by
  unfold execNul
  repeat' first
    | with_reducible assumption
    | with_reducible apply OnNext.unit
    | with_reducible apply OnNext.next
    | with_reducible apply OnNext.fault
    | with_reducible apply takeTrailer_keeps c
    | with_reducible apply takeCounts_keeps c
    | split
    | dsimp -zeta only

theorem execNulDue_keeps {P : State → Prop} (c : Closed 0x40000 P) (x1) (x2 : State) (h2 : P x2) :
    OnNext P (execNulDue x1 x2) := by
  unfold execNulDue
  repeat' first
    | with_reducible assumption
    | with_reducible apply OnNext.unit
    | with_reducible apply OnNext.next
    | with_reducible apply OnNext.fault
    | with_reducible apply modPort_keeps c
    | intro _
    | split
    | dsimp -zeta only

theorem execReplayTimeout_keeps {P : State → Prop} (c : Closed 0x60200044a10 P) (x1) (x2 : State) (h2 : P x2) :
    OnNext P (execReplayTimeout x1 x2) := by
  have c1 := c.sub (K' := 0x40000) (by decide)
  unfold execReplayTimeout
  repeat' first
    | with_reducible assumption
    | with_reducible apply OnNext.unit
    | with_reducible apply OnNext.next
    | with_reducible apply OnNext.fault
    | with_reducible apply modPort_keeps c1
    | with_reducible apply lecAdd_keeps c
    | with_reducible refine fun _ => ?_
    | lift_lets -underBinder
    | (intro x; refine (fun hx : P x => ?_) ?_; clear_value x)
    | (intro x; refine (fun hx : P x.2 => ?_) ?_; clear_value x)
    | (intro x; refine (fun hx : P x.1 => ?_) ?_; clear_value x)
    | (intro x; refine (fun hx : P x.s => ?_) ?_; clear_value x)
    | (intro x; clear_value x)
    | intro _
    | split
    | dsimp -zeta only
    | dsimp -zeta +zetaDelta only
    | lift_lets
    | dsimp only

theorem execResume_keeps {P : State → Prop} (c : Closed 0x40000 P) (x1) (x2 : State) (h2 : P x2) :
    OnNext P (execResume x1 x2) := by
  unfold execResume
  repeat' first
    | with_reducible assumption
    | with_reducible apply OnNext.unit
    | with_reducible apply OnNext.next
    | with_reducible apply OnNext.fault
    | with_reducible apply modPort_keeps c
    | with_reducible refine fun _ => ?_
    | lift_lets -underBinder
    | (intro x; refine (fun hx : P x => ?_) ?_; clear_value x)
    | (intro x; refine (fun hx : P x.2 => ?_) ?_; clear_value x)
    | (intro x; refine (fun hx : P x.1 => ?_) ?_; clear_value x)
    | (intro x; refine (fun hx : P x.s => ?_) ?_; clear_value x)
    | (intro x; clear_value x)
    | intro _
    | split
    | dsimp -zeta only
    | dsimp -zeta +zetaDelta only
    | lift_lets
    | dsimp only

theorem execResumeTimeout_keeps {P : State → Prop} (c : Closed 0x60200044810 P) (x1) (x2 : State) (h2 : P x2) :
    OnNext P (execResumeTimeout x1 x2) := by
  have c1 := c.sub (K' := 0x60200000000) (by decide)
  unfold execResumeTimeout
  repeat' first
    | with_reducible assumption
    | with_reducible apply OnNext.unit
    | with_reducible apply OnNext.next
    | with_reducible apply OnNext.fault
    | with_reducible apply raiseOn_keeps c1
    | with_reducible apply deadPort_keeps c
    | with_reducible refine fun _ => ?_
    | lift_lets -underBinder
    | (intro x; refine (fun hx : P x => ?_) ?_; clear_value x)
    | (intro x; refine (fun hx : P x.2 => ?_) ?_; clear_value x)
    | (intro x; refine (fun hx : P x.1 => ?_) ?_; clear_value x)
    | (intro x; refine (fun hx : P x.s => ?_) ?_; clear_value x)
    | (intro x; clear_value x)
    | split
    | dsimp -zeta only
    | dsimp -zeta +zetaDelta only
    | lift_lets
    | dsimp only

theorem execPortIsolate_keeps {P : State → Prop} (c : Closed 0x60200044a10 P) (x1) (x2) (x3 : State) (h3 : P x3) :
    OnNext P (execPortIsolate x1 x2 x3) := by
  have c1 := c.sub (K' := 0x60200044810) (by decide)
  have c2 := c.sub (K' := 0x200) (by decide)
  unfold execPortIsolate
  repeat' first
    | with_reducible assumption
    | with_reducible apply OnNext.unit
    | with_reducible apply OnNext.next
    | with_reducible apply OnNext.fault
    | with_reducible apply isolatePort_keeps c1
    | with_reducible apply answer_keeps c2
    | split
    | dsimp -zeta only

theorem execIsolationDetect_keeps {P : State → Prop} (c : Closed 0x60200044810 P) (x1) (x2 : State) (h2 : P x2) :
    OnNext P (execIsolationDetect x1 x2) := by
  unfold execIsolationDetect
  repeat' first
    | with_reducible assumption
    | with_reducible apply OnNext.unit
    | with_reducible apply OnNext.next
    | with_reducible apply OnNext.fault
    | with_reducible apply isolatePort_keeps c
    | split
    | dsimp -zeta only

theorem execCap_keeps {P : State → Prop} (c : Closed 0x60200045810 P) (x1) (x2) (x3 : State) (h3 : P x3) :
    OnNext P (execCap x1 x2 x3) := by
  unfold execCap
  repeat' first
    | with_reducible assumption
    | with_reducible apply OnNext.unit
    | with_reducible apply OnNext.next
    | with_reducible apply OnNext.fault
    | with_reducible apply takeCap_keeps c
    | dsimp -zeta only

theorem execAgree_keeps {P : State → Prop} (c : Closed 0x60200044810 P) (x1) (x2) (x3 : State) (h3 : P x3) :
    OnNext P (execAgree x1 x2 x3) := by
  unfold execAgree
  repeat' first
    | with_reducible assumption
    | with_reducible apply OnNext.unit
    | with_reducible apply OnNext.next
    | with_reducible apply OnNext.fault
    | with_reducible apply takeAgree_keeps c
    | dsimp -zeta only

theorem execSoak_keeps {P : State → Prop} (c : Closed 0x40000 P) (x1) (x2) (x3) (x4 : State) (h4 : P x4) :
    OnNext P (execSoak x1 x2 x3 x4) := by
  unfold execSoak
  repeat' first
    | with_reducible assumption
    | with_reducible apply OnNext.unit
    | with_reducible apply OnNext.next
    | with_reducible apply OnNext.fault
    | with_reducible apply modPort_keeps c
    | intro _
    | split
    | dsimp -zeta only

theorem execSoakEnd_keeps {P : State → Prop} (c : Closed 0x60200044a10 P) (x1) (x2 : State) (h2 : P x2) :
    OnNext P (execSoakEnd x1 x2) := by
  unfold execSoakEnd
  repeat' first
    | with_reducible assumption
    | with_reducible apply OnNext.unit
    | with_reducible apply OnNext.next
    | with_reducible apply OnNext.fault
    | with_reducible apply endSoak_keeps c
    | dsimp -zeta only

theorem execInit_keeps {P : State → Prop} (c : Closed 0x45000 P) (x1) (x2) (x3 : State) (h3 : P x3) :
    OnNext P (execInit x1 x2 x3) := by
  unfold execInit
  repeat' first
    | with_reducible assumption
    | with_reducible apply OnNext.unit
    | with_reducible apply OnNext.next
    | with_reducible apply OnNext.fault
    | with_reducible apply portUp_keeps c
    | split
    | dsimp -zeta only

theorem execNegTimeout_keeps {P : State → Prop} (c : Closed 0x60200044810 P) (x1) (x2 : State) (h2 : P x2) :
    OnNext P (execNegTimeout x1 x2) := by
  unfold execNegTimeout
  repeat' first
    | with_reducible assumption
    | with_reducible apply OnNext.unit
    | with_reducible apply OnNext.next
    | with_reducible apply OnNext.fault
    | with_reducible apply negFail_keeps c
    | with_reducible refine fun _ => ?_
    | lift_lets -underBinder
    | (intro x; refine (fun hx : P x => ?_) ?_; clear_value x)
    | (intro x; refine (fun hx : P x.2 => ?_) ?_; clear_value x)
    | (intro x; refine (fun hx : P x.1 => ?_) ?_; clear_value x)
    | (intro x; refine (fun hx : P x.s => ?_) ?_; clear_value x)
    | (intro x; clear_value x)
    | split
    | dsimp -zeta only
    | dsimp -zeta +zetaDelta only
    | lift_lets
    | dsimp only

theorem execNegotiationResend_keeps {P : State → Prop} (c : Closed 0x40200 P) (x1) (x2 : State) (h2 : P x2) :
    OnNext P (execNegotiationResend x1 x2) := by
  unfold execNegotiationResend
  repeat' first
    | with_reducible assumption
    | with_reducible apply OnNext.unit
    | with_reducible apply OnNext.next
    | with_reducible apply OnNext.fault
    | with_reducible apply sendLink_keeps c
    | with_reducible refine fun _ => ?_
    | lift_lets -underBinder
    | (intro x; refine (fun hx : P x => ?_) ?_; clear_value x)
    | (intro x; refine (fun hx : P x.2 => ?_) ?_; clear_value x)
    | (intro x; refine (fun hx : P x.1 => ?_) ?_; clear_value x)
    | (intro x; refine (fun hx : P x.s => ?_) ?_; clear_value x)
    | (intro x; clear_value x)
    | split
    | dsimp -zeta only
    | dsimp -zeta +zetaDelta only
    | lift_lets
    | dsimp only

end Sys2Proof.Laws
end

