-- ==== Sys2Proof/Laws/KeepsField.lean ====
section
/-! SUPPORT. What each function of Machine/Field.lean can change: a predicate closed under its changes survives it. -/
namespace Sys2Proof.Laws
open Sys2Proof Sys2Proof.Machine

theorem startFoSet_keeps {P : State → Prop} (c : Closed 0x2000001200 P) (x1 : State) (x2) (x3) (x4) (h1 : P x1) :
    P (startFoSet x1 x2 x3 x4) := by
  have c1 := c.sub (K' := 0x2000000200) (by decide)
  have c2 := c.sub (K' := 0x1000) (by decide)
  unfold startFoSet
  repeat' first
    | with_reducible assumption
    | with_reducible apply foCommand_keeps c1
    | with_reducible apply unitDone_keeps c2
    | dsimp -zeta only

theorem startFoClear_keeps {P : State → Prop} (c : Closed 0x2000001200 P) (x1 : State) (x2) (x3) (x4) (h1 : P x1) :
    P (startFoClear x1 x2 x3 x4) := by
  have c1 := c.sub (K' := 0x2000000200) (by decide)
  have c2 := c.sub (K' := 0x1000) (by decide)
  unfold startFoClear
  repeat' first
    | with_reducible assumption
    | with_reducible apply foCommand_keeps c1
    | with_reducible apply unitDone_keeps c2
    | dsimp -zeta only

theorem startFoPulse_keeps {P : State → Prop} (c : Closed 0x2000001200 P) (x1 : State) (x2) (x3) (x4) (h1 : P x1) :
    P (startFoPulse x1 x2 x3 x4) := by
  have c1 := c.sub (K' := 0x2000000200) (by decide)
  have c2 := c.sub (K' := 0x1000) (by decide)
  unfold startFoPulse
  repeat' first
    | with_reducible assumption
    | with_reducible apply foCommand_keeps c1
    | with_reducible apply unitDone_keeps c2
    | with_reducible refine fun _ => ?_
    | lift_lets -underBinder
    | (intro x; refine (fun hx : P x => ?_) ?_; clear_value x)
    | (intro x; refine (fun hx : P x.2 => ?_) ?_; clear_value x)
    | (intro x; refine (fun hx : P x.1 => ?_) ?_; clear_value x)
    | (intro x; refine (fun hx : P x.s => ?_) ?_; clear_value x)
    | (intro x; clear_value x)
    | split
    | dsimp -zeta only
    | dsimp -zeta +zetaDelta only
    | lift_lets
    | dsimp only

theorem execFoPulse_keeps {P : State → Prop} (c : Closed 0x62200045a10 P) (x1) (x2 : State) (h2 : P x2) :
    OnNext P (execFoPulse x1 x2) := by
  have c1 := c.sub (K' := 0x2000001200) (by decide)
  have c2 := c.sub (K' := 0x60200045a10) (by decide)
  unfold execFoPulse
  repeat' first
    | with_reducible assumption
    | with_reducible apply OnNext.unit
    | with_reducible apply OnNext.next
    | with_reducible apply OnNext.fault
    | with_reducible apply startFoPulse_keeps c1
    | with_reducible apply onLaunch_keeps c2
    | dsimp -zeta only

theorem execFoSet_keeps {P : State → Prop} (c : Closed 0x62200045a10 P) (x1) (x2 : State) (h2 : P x2) :
    OnNext P (execFoSet x1 x2) := by
  have c1 := c.sub (K' := 0x60200045a10) (by decide)
  have c2 := c.sub (K' := 0x2000001200) (by decide)
  unfold execFoSet
  repeat' first
    | with_reducible assumption
    | with_reducible apply OnNext.unit
    | with_reducible apply OnNext.next
    | with_reducible apply OnNext.fault
    | with_reducible apply onLaunch_keeps c1
    | with_reducible apply startFoSet_keeps c2
    | dsimp -zeta only

theorem execFoClear_keeps {P : State → Prop} (c : Closed 0x62200045a10 P) (x1) (x2 : State) (h2 : P x2) :
    OnNext P (execFoClear x1 x2) := by
  have c1 := c.sub (K' := 0x60200045a10) (by decide)
  have c2 := c.sub (K' := 0x2000001200) (by decide)
  unfold execFoClear
  repeat' first
    | with_reducible assumption
    | with_reducible apply OnNext.unit
    | with_reducible apply OnNext.next
    | with_reducible apply OnNext.fault
    | with_reducible apply onLaunch_keeps c1
    | with_reducible apply startFoClear_keeps c2
    | dsimp -zeta only

theorem execFoPulseEnd_keeps {P : State → Prop} (c : Closed 0x2000000200 P) (x1) (x2 : State) (h2 : P x2) :
    OnNext P (execFoPulseEnd x1 x2) := by
  unfold execFoPulseEnd
  repeat' first
    | with_reducible assumption
    | with_reducible apply OnNext.unit
    | with_reducible apply OnNext.next
    | with_reducible apply OnNext.fault
    | with_reducible apply foCommand_keeps c
    | intro _
    | split
    | dsimp -zeta only

theorem foOutReg_keeps {P : State → Prop} (c : Closed 0x2000000200 P) (x1 : State) (x2) (x3) (h1 : P x1) :
    P (foOutReg x1 x2 x3).1 := by
  unfold foOutReg
  repeat' first
    | with_reducible assumption
    | with_reducible apply foOutNow_keeps c
    | split
    | dsimp -zeta only

theorem execFoOutWrite_keeps {P : State → Prop} (c : Closed 0x2000000200 P) (x1) (x2) (x3 : State) (h3 : P x3) :
    OnNext P (execFoOutWrite x1 x2 x3) := by
  have c1 := c.sub (K' := 0x200) (by decide)
  unfold execFoOutWrite
  repeat' first
    | with_reducible assumption
    | with_reducible apply OnNext.unit
    | with_reducible apply OnNext.next
    | with_reducible apply OnNext.fault
    | with_reducible apply foOutReg_keeps c
    | with_reducible apply answerWrite_keeps c1
    | with_reducible refine fst_of (by assumption) ?_
    | dsimp -zeta only

theorem execFoFaultLatch_keeps {P : State → Prop} (c : Closed 0x62200000200 P) (x1) (x2) (x3) (x4 : State) (h4 : P x4) :
    OnNext P (execFoFaultLatch x1 x2 x3 x4) := by
  unfold execFoFaultLatch
  repeat' first
    | with_reducible assumption
    | with_reducible apply OnNext.unit
    | with_reducible apply OnNext.next
    | with_reducible apply OnNext.fault
    | with_reducible apply foLatch_keeps c
    | split
    | dsimp -zeta only

theorem execFoOpenLoad_keeps {P : State → Prop} (c : Closed 0x62200000000 P) (x1) (x2 : State) (h2 : P x2) :
    OnNext P (execFoOpenLoad x1 x2) := by
  have c1 := c.sub (K' := 0x60000000000) (by decide)
  have c2 := c.sub (K' := 0x2000000000) (by decide)
  have c3 := c.sub (K' := 0x20200000000) (by decide)
  unfold execFoOpenLoad
  repeat' first
    | with_reducible assumption
    | with_reducible apply OnNext.unit
    | with_reducible apply OnNext.next
    | with_reducible apply OnNext.fault
    | with_reducible apply logOnly_keeps c1
    | with_reducible apply modOut_keeps c2
    | with_reducible apply raise_keeps c3
    | with_reducible refine fun _ => ?_
    | lift_lets -underBinder
    | (intro x; refine (fun hx : P x => ?_) ?_; clear_value x)
    | (intro x; refine (fun hx : P x.2 => ?_) ?_; clear_value x)
    | (intro x; refine (fun hx : P x.1 => ?_) ?_; clear_value x)
    | (intro x; refine (fun hx : P x.s => ?_) ?_; clear_value x)
    | (intro x; clear_value x)
    | intro _
    | split
    | dsimp -zeta only
    | dsimp -zeta +zetaDelta only
    | lift_lets
    | dsimp only

theorem execFoRetry_keeps {P : State → Prop} (c : Closed 0x2000000200 P) (x1) (x2 : State) (h2 : P x2) :
    OnNext P (execFoRetry x1 x2) := by
  unfold execFoRetry
  repeat' first
    | with_reducible assumption
    | with_reducible apply OnNext.unit
    | with_reducible apply OnNext.next
    | with_reducible apply OnNext.fault
    | with_reducible apply foRetryNow_keeps c
    | dsimp -zeta only

theorem execFoRetryRestore_keeps {P : State → Prop} (c : Closed 0x2000000000 P) (x1) (x2 : State) (h2 : P x2) :
    OnNext P (execFoRetryRestore x1 x2) := by
  unfold execFoRetryRestore
  repeat' first
    | with_reducible assumption
    | with_reducible apply OnNext.unit
    | with_reducible apply OnNext.next
    | with_reducible apply OnNext.fault
    | with_reducible apply modOut_keeps c
    | intro _
    | split
    | dsimp -zeta only

theorem foFaultReg_keeps {P : State → Prop} (c : Closed 0x2000000200 P) (x1 : State) (x2) (x3) (h1 : P x1) :
    P (foFaultReg x1 x2 x3).1 := by
  unfold foFaultReg
  repeat' first
    | with_reducible assumption
    | with_reducible apply foFaultWrite_keeps c
    | split
    | dsimp -zeta only

theorem execFoFaultClear_keeps {P : State → Prop} (c : Closed 0x2000000200 P) (x1) (x2) (x3 : State) (h3 : P x3) :
    OnNext P (execFoFaultClear x1 x2 x3) := by
  have c1 := c.sub (K' := 0x200) (by decide)
  unfold execFoFaultClear
  repeat' first
    | with_reducible assumption
    | with_reducible apply OnNext.unit
    | with_reducible apply OnNext.next
    | with_reducible apply OnNext.fault
    | with_reducible apply foFaultReg_keeps c
    | with_reducible apply answerWrite_keeps c1
    | with_reducible refine fst_of (by assumption) ?_
    | dsimp -zeta only

theorem execFoThermalRelease_keeps {P : State → Prop} (c : Closed 0x2000000200 P) (x1) (x2 : State) (h2 : P x2) :
    OnNext P (execFoThermalRelease x1 x2) := by
  have c1 := c.sub (K' := 0x2000000000) (by decide)
  unfold execFoThermalRelease
  repeat' first
    | with_reducible assumption
    | with_reducible apply OnNext.unit
    | with_reducible apply OnNext.next
    | with_reducible apply OnNext.fault
    | with_reducible apply modOut_keeps c1
    | with_reducible apply foRetryNow_keeps c
    | with_reducible apply foldl_keeps
    | with_reducible apply foldl_keeps_fst
    | with_reducible apply foldl_keeps_snd
    | intro _
    | split
    | dsimp -zeta only

theorem execFoUvlo_keeps {P : State → Prop} (c : Closed 0x22200000200 P) (x1 : State) (h1 : P x1) :
    OnNext P (execFoUvlo x1) := by
  have c1 := c.sub (K' := 0x200) (by decide)
  have c2 := c.sub (K' := 0x2000000000) (by decide)
  have c3 := c.sub (K' := 0x20200000000) (by decide)
  unfold execFoUvlo
  repeat' first
    | with_reducible assumption
    | with_reducible apply OnNext.unit
    | with_reducible apply OnNext.next
    | with_reducible apply OnNext.fault
    | with_reducible apply foDrive_keeps c1
    | with_reducible apply modFo_keeps c2
    | with_reducible apply raise_keeps c3
    | intro _
    | split
    | dsimp -zeta only

theorem execFoUvloRecover_keeps {P : State → Prop} (c : Closed 0x2000000200 P) (x1 : State) (h1 : P x1) :
    OnNext P (execFoUvloRecover x1) := by
  have c1 := c.sub (K' := 0x200) (by decide)
  have c2 := c.sub (K' := 0x2000000000) (by decide)
  unfold execFoUvloRecover
  repeat' first
    | with_reducible assumption
    | with_reducible apply OnNext.unit
    | with_reducible apply OnNext.next
    | with_reducible apply OnNext.fault
    | with_reducible apply foDrive_keeps c1
    | with_reducible apply modFo_keeps c2
    | intro _
    | dsimp -zeta only

theorem tamperWake_keeps {P : State → Prop} (c : Closed 0xa7a00001208 P) (x1 : State) (h1 : P x1) :
    P (tamperWake x1) := by
  unfold tamperWake
  repeat' first
    | with_reducible assumption
    | with_reducible apply winterWake_keeps c
    | split
    | dsimp -zeta only

theorem teDecide_keeps {P : State → Prop} (c : Closed 0xa7a00001208 P) (x1 : State) (x2) (h1 : P x1) :
    P (teDecide x1 x2) := by
  have c1 := c.sub (K' := 0x4000000000) (by decide)
  have c2 := c.sub (K' := 0x4200000000) (by decide)
  unfold teDecide
  repeat' first
    | with_reducible assumption
    | with_reducible apply modTe_keeps c1
    | with_reducible apply tamperRecord_keeps c2
    | with_reducible apply tamperWake_keeps c
    | with_reducible refine fun _ => ?_
    | lift_lets -underBinder
    | (intro x; refine (fun hx : P x => ?_) ?_; clear_value x)
    | (intro x; refine (fun hx : P x.2 => ?_) ?_; clear_value x)
    | (intro x; refine (fun hx : P x.1 => ?_) ?_; clear_value x)
    | (intro x; refine (fun hx : P x.s => ?_) ?_; clear_value x)
    | (intro x; clear_value x)
    | intro _
    | split
    | dsimp -zeta only
    | dsimp -zeta +zetaDelta only
    | lift_lets
    | dsimp only

theorem teNormal_keeps {P : State → Prop} (c : Closed 0xa7a00001208 P) (x1 : State) (x2) (x3) (h1 : P x1) :
    P (teNormal x1 x2 x3) := by
  have c1 := c.sub (K' := 0x4000000000) (by decide)
  have c2 := c.sub (K' := 0x4200000000) (by decide)
  unfold teNormal
  repeat' first
    | with_reducible assumption
    | with_reducible apply modTe_keeps c1
    | with_reducible apply tamperRecord_keeps c2
    | with_reducible apply tamperWake_keeps c
    | with_reducible refine fun _ => ?_
    | lift_lets -underBinder
    | (intro x; refine (fun hx : P x => ?_) ?_; clear_value x)
    | (intro x; refine (fun hx : P x.2 => ?_) ?_; clear_value x)
    | (intro x; refine (fun hx : P x.1 => ?_) ?_; clear_value x)
    | (intro x; refine (fun hx : P x.s => ?_) ?_; clear_value x)
    | (intro x; clear_value x)
    | intro _
    | split
    | dsimp -zeta only
    | dsimp -zeta +zetaDelta only
    | lift_lets
    | dsimp only

theorem teOccludedSample_keeps {P : State → Prop} (c : Closed 0x4200000000 P) (x1 : State) (x2) (x3) (h1 : P x1) :
    P (teOccludedSample x1 x2 x3) := by
  have c1 := c.sub (K' := 0x4000000000) (by decide)
  unfold teOccludedSample
  repeat' first
    | with_reducible assumption
    | with_reducible apply modTe_keeps c1
    | with_reducible apply tamperRecord_keeps c
    | with_reducible refine fun _ => ?_
    | lift_lets -underBinder
    | (intro x; refine (fun hx : P x => ?_) ?_; clear_value x)
    | (intro x; refine (fun hx : P x.2 => ?_) ?_; clear_value x)
    | (intro x; refine (fun hx : P x.1 => ?_) ?_; clear_value x)
    | (intro x; refine (fun hx : P x.s => ?_) ?_; clear_value x)
    | (intro x; clear_value x)
    | intro _
    | split
    | dsimp -zeta only
    | dsimp -zeta +zetaDelta only
    | lift_lets
    | dsimp only

theorem teFaultSample_keeps {P : State → Prop} (c : Closed 0x24200000000 P) (x1 : State) (x2) (x3) (h1 : P x1) :
    P (teFaultSample x1 x2 x3) := by
  have c1 := c.sub (K' := 0x4000000000) (by decide)
  unfold teFaultSample
  repeat' first
    | with_reducible assumption
    | with_reducible apply modTe_keeps c1
    | with_reducible apply teStart_keeps c
    | with_reducible apply modTmp_keeps c1
    | with_reducible refine fun _ => ?_
    | lift_lets -underBinder
    | (intro x; refine (fun hx : P x => ?_) ?_; clear_value x)
    | (intro x; refine (fun hx : P x.2 => ?_) ?_; clear_value x)
    | (intro x; refine (fun hx : P x.1 => ?_) ?_; clear_value x)
    | (intro x; refine (fun hx : P x.s => ?_) ?_; clear_value x)
    | (intro x; clear_value x)
    | intro _
    | split
    | dsimp -zeta only
    | dsimp -zeta +zetaDelta only
    | lift_lets
    | dsimp only

theorem execTamperSample_keeps {P : State → Prop} (c : Closed 0xa7a00001208 P) (x1) (x2) (x3) (x4 : State) (h4 : P x4) :
    OnNext P (execTamperSample x1 x2 x3 x4) := by
  have c1 := c.sub (K' := 0x4000000000) (by decide)
  have c2 := c.sub (K' := 0x4200000000) (by decide)
  have c3 := c.sub (K' := 0x24200000000) (by decide)
  unfold execTamperSample
  repeat' first
    | with_reducible assumption
    | with_reducible apply OnNext.unit
    | with_reducible apply OnNext.next
    | with_reducible apply OnNext.fault
    | with_reducible apply modTe_keeps c1
    | with_reducible apply teOccludedSample_keeps c2
    | with_reducible apply teFaultSample_keeps c3
    | with_reducible apply teNormal_keeps c
    | with_reducible apply teDecide_keeps c
    | with_reducible refine fun _ => ?_
    | lift_lets -underBinder
    | (intro x; refine (fun hx : P x => ?_) ?_; clear_value x)
    | (intro x; refine (fun hx : P x.2 => ?_) ?_; clear_value x)
    | (intro x; refine (fun hx : P x.1 => ?_) ?_; clear_value x)
    | (intro x; refine (fun hx : P x.s => ?_) ?_; clear_value x)
    | (intro x; clear_value x)
    | intro _
    | split
    | dsimp -zeta only
    | dsimp -zeta +zetaDelta only
    | lift_lets
    | dsimp only

theorem execPersistentOcclusion_keeps {P : State → Prop} (c : Closed 0x4200000000 P) (x1) (x2 : State) (h2 : P x2) :
    OnNext P (execPersistentOcclusion x1 x2) := by
  have c1 := c.sub (K' := 0x4000000000) (by decide)
  unfold execPersistentOcclusion
  repeat' first
    | with_reducible assumption
    | with_reducible apply OnNext.unit
    | with_reducible apply OnNext.next
    | with_reducible apply OnNext.fault
    | with_reducible apply modTe_keeps c1
    | with_reducible apply tamperRecord_keeps c
    | with_reducible refine fun _ => ?_
    | lift_lets -underBinder
    | (intro x; refine (fun hx : P x => ?_) ?_; clear_value x)
    | (intro x; refine (fun hx : P x.2 => ?_) ?_; clear_value x)
    | (intro x; refine (fun hx : P x.1 => ?_) ?_; clear_value x)
    | (intro x; refine (fun hx : P x.s => ?_) ?_; clear_value x)
    | (intro x; clear_value x)
    | intro _
    | split
    | dsimp -zeta only
    | dsimp -zeta +zetaDelta only
    | lift_lets
    | dsimp only

theorem teRebaseline_keeps {P : State → Prop} (c : Closed 0x4200000000 P) (x1 : State) (x2) (h1 : P x1) :
    P (teRebaseline x1 x2) := by
  have c1 := c.sub (K' := 0x4000000000) (by decide)
  unfold teRebaseline
  repeat' first
    | with_reducible assumption
    | with_reducible apply modTe_keeps c1
    | with_reducible apply tamperRecord_keeps c
    | with_reducible refine fun _ => ?_
    | lift_lets -underBinder
    | (intro x; refine (fun hx : P x => ?_) ?_; clear_value x)
    | (intro x; refine (fun hx : P x.2 => ?_) ?_; clear_value x)
    | (intro x; refine (fun hx : P x.1 => ?_) ?_; clear_value x)
    | (intro x; refine (fun hx : P x.s => ?_) ?_; clear_value x)
    | (intro x; clear_value x)
    | intro _
    | split
    | dsimp -zeta only
    | dsimp -zeta +zetaDelta only
    | lift_lets
    | dsimp only

theorem tmpCmdReg_keeps {P : State → Prop} (c : Closed 0x4200000000 P) (x1 : State) (x2) (x3) (h1 : P x1) :
    P (tmpCmdReg x1 x2 x3).1 := by
  unfold tmpCmdReg
  repeat' first
    | with_reducible assumption
    | with_reducible apply teRebaseline_keeps c
    | with_reducible apply foldl_keeps
    | with_reducible apply foldl_keeps_fst
    | with_reducible apply foldl_keeps_snd
    | intro _
    | split
    | dsimp -zeta only

theorem execTamperRebaseline_keeps {P : State → Prop} (c : Closed 0x4200000200 P) (x1) (x2) (x3 : State) (h3 : P x3) :
    OnNext P (execTamperRebaseline x1 x2 x3) := by
  have c1 := c.sub (K' := 0x200) (by decide)
  have c2 := c.sub (K' := 0x4200000000) (by decide)
  unfold execTamperRebaseline
  repeat' first
    | with_reducible assumption
    | with_reducible apply OnNext.unit
    | with_reducible apply OnNext.next
    | with_reducible apply OnNext.fault
    | with_reducible apply answerWrite_keeps c1
    | with_reducible apply tmpCmdReg_keeps c2
    | with_reducible refine fst_of (by assumption) ?_
    | dsimp -zeta only

theorem teToFault_keeps {P : State → Prop} (c : Closed 0x4000000000 P) (x1 : State) (x2) (h1 : P x1) :
    P (teToFault x1 x2) := by
  unfold teToFault
  repeat' first
    | with_reducible assumption
    | with_reducible apply modTe_keeps c
    | intro _
    | split
    | dsimp -zeta only

theorem execTamperFault_keeps {P : State → Prop} (c : Closed 0x24200000000 P) (x1) (x2 : State) (h2 : P x2) :
    OnNext P (execTamperFault x1 x2) := by
  have c1 := c.sub (K' := 0x4000000000) (by decide)
  have c2 := c.sub (K' := 0x20200000000) (by decide)
  unfold execTamperFault
  repeat' first
    | with_reducible assumption
    | with_reducible apply OnNext.unit
    | with_reducible apply OnNext.next
    | with_reducible apply OnNext.fault
    | with_reducible apply teToFault_keeps c1
    | with_reducible apply raise_keeps c2
    | split
    | dsimp -zeta only

theorem execShieldFault_keeps {P : State → Prop} (c : Closed 0x24200000000 P) (x1 : State) (h1 : P x1) :
    OnNext P (execShieldFault x1) := by
  have c1 := c.sub (K' := 0x4000000000) (by decide)
  have c2 := c.sub (K' := 0x20200000000) (by decide)
  unfold execShieldFault
  repeat' first
    | with_reducible assumption
    | with_reducible apply OnNext.unit
    | with_reducible apply OnNext.next
    | with_reducible apply OnNext.fault
    | with_reducible apply teToFault_keeps c1
    | with_reducible apply modTmp_keeps c1
    | with_reducible apply raise_keeps c2
    | intro _
    | split
    | dsimp -zeta only

theorem i2cEnd_keeps {P : State → Prop} (c : Closed 0x8000000000 P) (x1 : State) (x2) (x3) (h1 : P x1) :
    P (i2cEnd x1 x2 x3) := by
  unfold i2cEnd
  repeat' first
    | with_reducible assumption
    | with_reducible apply modBus_keeps c
    | intro _
    | dsimp -zeta only

theorem i2cAttempt_keeps {P : State → Prop} (c : Closed 0x28200000200 P) (x1 : State) (x2) (x3) (h1 : P x1) :
    P (i2cAttempt x1 x2 x3) := by
  have c1 := c.sub (K' := 0x8000000000) (by decide)
  have c2 := c.sub (K' := 0x200) (by decide)
  have c3 := c.sub (K' := 0x20200000000) (by decide)
  unfold i2cAttempt
  repeat' first
    | with_reducible assumption
    | with_reducible apply modBus_keeps c1
    | with_reducible apply i2cEnd_keeps c1
    | with_reducible apply emit_keeps c2
    | with_reducible apply raise_keeps c3
    | with_reducible refine fun _ => ?_
    | lift_lets -underBinder
    | (intro x; refine (fun hx : P x => ?_) ?_; clear_value x)
    | (intro x; refine (fun hx : P x.2 => ?_) ?_; clear_value x)
    | (intro x; refine (fun hx : P x.1 => ?_) ?_; clear_value x)
    | (intro x; refine (fun hx : P x.s => ?_) ?_; clear_value x)
    | (intro x; clear_value x)
    | intro _
    | split
    | dsimp -zeta only
    | dsimp -zeta +zetaDelta only
    | lift_lets
    | dsimp only

theorem i2cXferReg_keeps {P : State → Prop} (c : Closed 0x28200000200 P) (x1 : State) (x2) (x3) (x4) (x5) (h1 : P x1) :
    P (i2cXferReg x1 x2 x3 x4 x5).1 := by
  have c1 := c.sub (K' := 0x8000000000) (by decide)
  unfold i2cXferReg
  repeat' first
    | with_reducible assumption
    | with_reducible apply modBus_keeps c1
    | with_reducible apply i2cEnd_keeps c1
    | with_reducible apply i2cAttempt_keeps c
    | with_reducible refine fun _ => ?_
    | lift_lets -underBinder
    | (intro x; refine (fun hx : P x => ?_) ?_; clear_value x)
    | (intro x; refine (fun hx : P x.2 => ?_) ?_; clear_value x)
    | (intro x; refine (fun hx : P x.1 => ?_) ?_; clear_value x)
    | (intro x; refine (fun hx : P x.s => ?_) ?_; clear_value x)
    | (intro x; clear_value x)
    | intro _
    | split
    | dsimp -zeta only
    | dsimp -zeta +zetaDelta only
    | lift_lets
    | dsimp only

theorem execI2cControllerXfer_keeps {P : State → Prop} (c : Closed 0x28200000200 P) (x1) (x2) (x3) (x4) (x5 : State) (h5 : P x5) :
    OnNext P (execI2cControllerXfer x1 x2 x3 x4 x5) := by
  have c1 := c.sub (K' := 0x200) (by decide)
  unfold execI2cControllerXfer
  repeat' first
    | with_reducible assumption
    | with_reducible apply OnNext.unit
    | with_reducible apply OnNext.next
    | with_reducible apply OnNext.fault
    | with_reducible apply i2cXferReg_keeps c
    | with_reducible apply answerWrite_keeps c1
    | with_reducible refine fst_of (by assumption) ?_
    | dsimp -zeta only

theorem execI2cBusFree_keeps {P : State → Prop} (c : Closed 0x28200000200 P) (x1) (x2 : State) (h2 : P x2) :
    OnNext P (execI2cBusFree x1 x2) := by
  unfold execI2cBusFree
  repeat' first
    | with_reducible assumption
    | with_reducible apply OnNext.unit
    | with_reducible apply OnNext.next
    | with_reducible apply OnNext.fault
    | with_reducible apply i2cAttempt_keeps c
    | split
    | dsimp -zeta only

theorem execI2cArbRetry_keeps {P : State → Prop} (c : Closed 0x28200000200 P) (x1) (x2 : State) (h2 : P x2) :
    OnNext P (execI2cArbRetry x1 x2) := by
  unfold execI2cArbRetry
  repeat' first
    | with_reducible assumption
    | with_reducible apply OnNext.unit
    | with_reducible apply OnNext.next
    | with_reducible apply OnNext.fault
    | with_reducible apply i2cAttempt_keeps c
    | split
    | dsimp -zeta only

theorem execI2cBusStuck_keeps {P : State → Prop} (c : Closed 0x28200000200 P) (x1) (x2 : State) (h2 : P x2) :
    OnNext P (execI2cBusStuck x1 x2) := by
  have c1 := c.sub (K' := 0x8000000000) (by decide)
  have c2 := c.sub (K' := 0x200) (by decide)
  have c3 := c.sub (K' := 0x20200000000) (by decide)
  unfold execI2cBusStuck
  repeat' first
    | with_reducible assumption
    | with_reducible apply OnNext.unit
    | with_reducible apply OnNext.next
    | with_reducible apply OnNext.fault
    | with_reducible apply i2cEnd_keeps c1
    | with_reducible apply emit_keeps c2
    | with_reducible apply raise_keeps c3
    | with_reducible refine fun _ => ?_
    | lift_lets -underBinder
    | (intro x; refine (fun hx : P x => ?_) ?_; clear_value x)
    | (intro x; refine (fun hx : P x.2 => ?_) ?_; clear_value x)
    | (intro x; refine (fun hx : P x.1 => ?_) ?_; clear_value x)
    | (intro x; refine (fun hx : P x.s => ?_) ?_; clear_value x)
    | (intro x; clear_value x)
    | split
    | dsimp -zeta only
    | dsimp -zeta +zetaDelta only
    | lift_lets
    | dsimp only

theorem execFlashBusyTimeout_keeps {P : State → Prop} (c : Closed 0x8000000000 P) (x1 : State) (h1 : P x1) :
    OnNext P (execFlashBusyTimeout x1) := by
  unfold execFlashBusyTimeout
  repeat' first
    | with_reducible assumption
    | with_reducible apply OnNext.unit
    | with_reducible apply OnNext.next
    | with_reducible apply OnNext.fault
    | with_reducible apply modBus_keeps c
    | intro _
    | dsimp -zeta only

theorem execGpioEdge_keeps {P : State → Prop} (c : Closed 0xafa00001208 P) (x1) (x2) (x3 : State) (h3 : P x3) :
    OnNext P (execGpioEdge x1 x2 x3) := by
  have c1 := c.sub (K' := 0xa7a00001208) (by decide)
  have c2 := c.sub (K' := 0x8000000000) (by decide)
  unfold execGpioEdge
  repeat' first
    | with_reducible assumption
    | with_reducible apply OnNext.unit
    | with_reducible apply OnNext.next
    | with_reducible apply OnNext.fault
    | with_reducible apply winterWake_keeps c1
    | with_reducible apply modBus_keeps c2
    | with_reducible refine fun _ => ?_
    | lift_lets -underBinder
    | (intro x; refine (fun hx : P x => ?_) ?_; clear_value x)
    | (intro x; refine (fun hx : P x.2 => ?_) ?_; clear_value x)
    | (intro x; refine (fun hx : P x.1 => ?_) ?_; clear_value x)
    | (intro x; refine (fun hx : P x.s => ?_) ?_; clear_value x)
    | (intro x; clear_value x)
    | intro _
    | split
    | dsimp -zeta only
    | dsimp -zeta +zetaDelta only
    | lift_lets
    | dsimp only

end Sys2Proof.Laws
end

