-- ==== Sys2Proof/Laws/KeepsNet.lean ====
section
/-! SUPPORT. What each function of Machine/Net.lean can change: a predicate closed under its changes survives it. -/
namespace Sys2Proof.Laws
open Sys2Proof Sys2Proof.Machine

theorem setLink_keeps {P : State → Prop} (c : Closed 0x20000000 P) (x1 : State) (x2) (x3) (x4) (h1 : P x1) :
    P (setLink x1 x2 x3 x4) := by
  unfold setLink
  repeat' first
    | with_reducible assumption
    | with_reducible apply modNet_keeps c
    | intro _
    | split
    | dsimp -zeta only

theorem selectMaster_keeps {P : State → Prop} (c : Closed 0x20000000 P) (x1 : State) (h1 : P x1) :
    P (selectMaster x1) := by
  unfold selectMaster
  repeat' first
    | with_reducible assumption
    | with_reducible apply modNet_keeps c
    | with_reducible refine fun _ => ?_
    | lift_lets -underBinder
    | (intro x; refine (fun hx : P x => ?_) ?_; clear_value x)
    | (intro x; refine (fun hx : P x.2 => ?_) ?_; clear_value x)
    | (intro x; refine (fun hx : P x.1 => ?_) ?_; clear_value x)
    | (intro x; refine (fun hx : P x.s => ?_) ?_; clear_value x)
    | (intro x; clear_value x)
    | intro _
    | split
    | dsimp -zeta only
    | dsimp -zeta +zetaDelta only
    | lift_lets
    | dsimp only

theorem execAnnounceReceive_keeps {P : State → Prop} (c : Closed 0x20000000 P) (x1) (x2) (x3) (x4 : State) (h4 : P x4) :
    OnNext P (execAnnounceReceive x1 x2 x3 x4) := by
  unfold execAnnounceReceive
  repeat' first
    | with_reducible assumption
    | with_reducible apply OnNext.unit
    | with_reducible apply OnNext.next
    | with_reducible apply OnNext.fault
    | with_reducible apply modNet_keeps c
    | with_reducible apply selectMaster_keeps c
    | intro _
    | split
    | dsimp -zeta only

theorem execAnnounceReceiptTimeout_keeps {P : State → Prop} (c : Closed 0x20000000 P) (x1 : State) (h1 : P x1) :
    OnNext P (execAnnounceReceiptTimeout x1) := by
  unfold execAnnounceReceiptTimeout
  repeat' first
    | with_reducible assumption
    | with_reducible apply OnNext.unit
    | with_reducible apply OnNext.next
    | with_reducible apply OnNext.fault
    | with_reducible apply modNet_keeps c
    | with_reducible apply selectMaster_keeps c
    | intro _
    | split
    | dsimp -zeta only

theorem execPeerDelayMeasure_keeps {P : State → Prop} (c : Closed 0x20000000 P) (x1) (x2) (x3 : State) (h3 : P x3) :
    OnNext P (execPeerDelayMeasure x1 x2 x3) := by
  unfold execPeerDelayMeasure
  repeat' first
    | with_reducible assumption
    | with_reducible apply OnNext.unit
    | with_reducible apply OnNext.next
    | with_reducible apply OnNext.fault
    | with_reducible apply modNet_keeps c
    | intro _
    | split
    | dsimp -zeta only

theorem askLease_keeps {P : State → Prop} (c : Closed 0x200 P) (x1 : State) (h1 : P x1) :
    P (askLease x1) := by
  unfold askLease
  repeat' first
    | with_reducible assumption
    | with_reducible apply emit_keeps c
    | dsimp -zeta only

theorem takeLinkLocal_keeps {P : State → Prop} (c : Closed 0x20000208 P) (x1 : State) (h1 : P x1) :
    P (takeLinkLocal x1) := by
  have c1 := c.sub (K' := 0x8) (by decide)
  have c2 := c.sub (K' := 0x20000000) (by decide)
  have c3 := c.sub (K' := 0x200) (by decide)
  unfold takeLinkLocal
  repeat' first
    | with_reducible assumption
    | with_reducible apply fresh_keeps c1
    | with_reducible apply modNet_keeps c2
    | with_reducible apply emit_keeps c3
    | with_reducible refine snd_of (by assumption) ?_
    | with_reducible refine fun _ => ?_
    | lift_lets -underBinder
    | (intro x; refine (fun hx : P x => ?_) ?_; clear_value x)
    | (intro x; refine (fun hx : P x.2 => ?_) ?_; clear_value x)
    | (intro x; refine (fun hx : P x.1 => ?_) ?_; clear_value x)
    | (intro x; refine (fun hx : P x.s => ?_) ?_; clear_value x)
    | (intro x; clear_value x)
    | intro _
    | dsimp -zeta only
    | dsimp -zeta +zetaDelta only
    | lift_lets
    | dsimp only

theorem takeStatic_keeps {P : State → Prop} (c : Closed 0x20000000 P) (x1 : State) (h1 : P x1) :
    P (takeStatic x1) := by
  unfold takeStatic
  repeat' first
    | with_reducible assumption
    | with_reducible apply modNet_keeps c
    | intro _
    | dsimp -zeta only

theorem addrFollow_keeps {P : State → Prop} (c : Closed 0x20000200 P) (x1 : State) (h1 : P x1) :
    P (addrFollow x1) := by
  have c1 := c.sub (K' := 0x20000000) (by decide)
  have c2 := c.sub (K' := 0x200) (by decide)
  unfold addrFollow
  repeat' first
    | with_reducible assumption
    | with_reducible apply modNet_keeps c1
    | with_reducible apply takeStatic_keeps c1
    | with_reducible apply askLease_keeps c2
    | with_reducible refine fun _ => ?_
    | lift_lets -underBinder
    | (intro x; refine (fun hx : P x => ?_) ?_; clear_value x)
    | (intro x; refine (fun hx : P x.2 => ?_) ?_; clear_value x)
    | (intro x; refine (fun hx : P x.1 => ?_) ?_; clear_value x)
    | (intro x; refine (fun hx : P x.s => ?_) ?_; clear_value x)
    | (intro x; clear_value x)
    | intro _
    | split
    | dsimp -zeta only
    | dsimp -zeta +zetaDelta only
    | lift_lets
    | dsimp only

theorem takeLease_keeps {P : State → Prop} (c : Closed 0x20000000 P) (x1 : State) (x2) (h1 : P x1) :
    P (takeLease x1 x2) := by
  unfold takeLease
  repeat' first
    | with_reducible assumption
    | with_reducible apply modNet_keeps c
    | intro _
    | dsimp -zeta only

theorem execDhcpLeaseBound_keeps {P : State → Prop} (c : Closed 0x20000000 P) (x1) (x2 : State) (h2 : P x2) :
    OnNext P (execDhcpLeaseBound x1 x2) := by
  unfold execDhcpLeaseBound
  repeat' first
    | with_reducible assumption
    | with_reducible apply OnNext.unit
    | with_reducible apply OnNext.next
    | with_reducible apply OnNext.fault
    | with_reducible apply takeLease_keeps c
    | split
    | dsimp -zeta only

theorem execDhcpTimeout_keeps {P : State → Prop} (c : Closed 0x20220000208 P) (x1) (x2 : State) (h2 : P x2) :
    OnNext P (execDhcpTimeout x1 x2) := by
  have c1 := c.sub (K' := 0x20000208) (by decide)
  have c2 := c.sub (K' := 0x20200000000) (by decide)
  unfold execDhcpTimeout
  repeat' first
    | with_reducible assumption
    | with_reducible apply OnNext.unit
    | with_reducible apply OnNext.next
    | with_reducible apply OnNext.fault
    | with_reducible apply takeLinkLocal_keeps c1
    | with_reducible apply raise_keeps c2
    | split
    | dsimp -zeta only

theorem execDhcpRenew_keeps {P : State → Prop} (c : Closed 0x20000200 P) (x1) (x2) (x3 : State) (h3 : P x3) :
    OnNext P (execDhcpRenew x1 x2 x3) := by
  have c1 := c.sub (K' := 0x20000000) (by decide)
  have c2 := c.sub (K' := 0x200) (by decide)
  unfold execDhcpRenew
  repeat' first
    | with_reducible assumption
    | with_reducible apply OnNext.unit
    | with_reducible apply OnNext.next
    | with_reducible apply OnNext.fault
    | with_reducible apply takeLease_keeps c1
    | with_reducible apply emit_keeps c2
    | with_reducible refine fun _ => ?_
    | lift_lets -underBinder
    | (intro x; refine (fun hx : P x => ?_) ?_; clear_value x)
    | (intro x; refine (fun hx : P x.2 => ?_) ?_; clear_value x)
    | (intro x; refine (fun hx : P x.1 => ?_) ?_; clear_value x)
    | (intro x; refine (fun hx : P x.s => ?_) ?_; clear_value x)
    | (intro x; clear_value x)
    | split
    | dsimp -zeta only
    | dsimp -zeta +zetaDelta only
    | lift_lets
    | dsimp only

theorem execLeaseRetry_keeps {P : State → Prop} (c : Closed 0x200 P) (x1 : State) (h1 : P x1) :
    OnNext P (execLeaseRetry x1) := by
  unfold execLeaseRetry
  repeat' first
    | with_reducible assumption
    | with_reducible apply OnNext.unit
    | with_reducible apply OnNext.next
    | with_reducible apply OnNext.fault
    | with_reducible apply askLease_keeps c
    | split
    | dsimp -zeta only

theorem execAddrConflict_keeps {P : State → Prop} (c : Closed 0x20220000208 P) (x1 : State) (h1 : P x1) :
    OnNext P (execAddrConflict x1) := by
  have c1 := c.sub (K' := 0x20000208) (by decide)
  have c2 := c.sub (K' := 0x20200000000) (by decide)
  unfold execAddrConflict
  repeat' first
    | with_reducible assumption
    | with_reducible apply OnNext.unit
    | with_reducible apply OnNext.next
    | with_reducible apply OnNext.fault
    | with_reducible apply takeLinkLocal_keeps c1
    | with_reducible apply raise_keeps c2
    | split
    | dsimp -zeta only

theorem linksGone_keeps {P : State → Prop} (c : Closed 0x20200000400 P) (x1 : State) (h1 : P x1) :
    P (linksGone x1) := by
  have c1 := c.sub (K' := 0x20200000000) (by decide)
  unfold linksGone
  repeat' first
    | with_reducible assumption
    | with_reducible apply raise_keeps c1
    | with_reducible apply enterHoldover_keeps c
    | with_reducible refine fun _ => ?_
    | lift_lets -underBinder
    | (intro x; refine (fun hx : P x => ?_) ?_; clear_value x)
    | (intro x; refine (fun hx : P x.2 => ?_) ?_; clear_value x)
    | (intro x; refine (fun hx : P x.1 => ?_) ?_; clear_value x)
    | (intro x; refine (fun hx : P x.s => ?_) ?_; clear_value x)
    | (intro x; clear_value x)
    | split
    | dsimp -zeta only
    | dsimp -zeta +zetaDelta only
    | lift_lets
    | dsimp only

theorem linkDownNow_keeps {P : State → Prop} (c : Closed 0x20220000400 P) (x1 : State) (x2) (h1 : P x1) :
    P (linkDownNow x1 x2) := by
  have c1 := c.sub (K' := 0x20000000) (by decide)
  have c2 := c.sub (K' := 0x20200000400) (by decide)
  unfold linkDownNow
  repeat' first
    | with_reducible assumption
    | with_reducible apply setLink_keeps c1
    | with_reducible apply linksGone_keeps c2
    | with_reducible apply selectMaster_keeps c1
    | with_reducible refine fun _ => ?_
    | lift_lets -underBinder
    | (intro x; refine (fun hx : P x => ?_) ?_; clear_value x)
    | (intro x; refine (fun hx : P x.2 => ?_) ?_; clear_value x)
    | (intro x; refine (fun hx : P x.1 => ?_) ?_; clear_value x)
    | (intro x; refine (fun hx : P x.s => ?_) ?_; clear_value x)
    | (intro x; clear_value x)
    | split
    | dsimp -zeta only
    | dsimp -zeta +zetaDelta only
    | lift_lets
    | dsimp only

theorem linkUpNow_keeps {P : State → Prop} (c : Closed 0x20000200 P) (x1 : State) (x2) (x3) (h1 : P x1) :
    P (linkUpNow x1 x2 x3) := by
  have c1 := c.sub (K' := 0x20000000) (by decide)
  have c2 := c.sub (K' := 0x200) (by decide)
  unfold linkUpNow
  repeat' first
    | with_reducible assumption
    | with_reducible apply modNet_keeps c1
    | with_reducible apply setLink_keeps c1
    | with_reducible apply askLease_keeps c2
    | with_reducible refine fun _ => ?_
    | lift_lets -underBinder
    | (intro x; refine (fun hx : P x => ?_) ?_; clear_value x)
    | (intro x; refine (fun hx : P x.2 => ?_) ?_; clear_value x)
    | (intro x; refine (fun hx : P x.1 => ?_) ?_; clear_value x)
    | (intro x; refine (fun hx : P x.s => ?_) ?_; clear_value x)
    | (intro x; clear_value x)
    | intro _
    | split
    | dsimp -zeta only
    | dsimp -zeta +zetaDelta only
    | lift_lets
    | dsimp only

theorem countChange_keeps {P : State → Prop} (c : Closed 0x20220000400 P) (x1 : State) (x2) (h1 : P x1) :
    P (countChange x1 x2) := by
  have c1 := c.sub (K' := 0x20000000) (by decide)
  have c2 := c.sub (K' := 0x20200000000) (by decide)
  unfold countChange
  repeat' first
    | with_reducible assumption
    | with_reducible apply modNet_keeps c1
    | with_reducible apply linkDownNow_keeps c
    | with_reducible apply raise_keeps c2
    | with_reducible refine fun _ => ?_
    | lift_lets -underBinder
    | (intro x; refine (fun hx : P x => ?_) ?_; clear_value x)
    | (intro x; refine (fun hx : P x.2 => ?_) ?_; clear_value x)
    | (intro x; refine (fun hx : P x.1 => ?_) ?_; clear_value x)
    | (intro x; refine (fun hx : P x.s => ?_) ?_; clear_value x)
    | (intro x; clear_value x)
    | intro _
    | split
    | dsimp -zeta only
    | dsimp -zeta +zetaDelta only
    | lift_lets
    | dsimp only

theorem execPhyLinkChange_keeps {P : State → Prop} (c : Closed 0x20220000600 P) (x1) (x2) (x3) (x4 : State) (h4 : P x4) :
    OnNext P (execPhyLinkChange x1 x2 x3 x4) := by
  have c1 := c.sub (K' := 0x20220000400) (by decide)
  have c2 := c.sub (K' := 0x20000200) (by decide)
  unfold execPhyLinkChange
  repeat' first
    | with_reducible assumption
    | with_reducible apply OnNext.unit
    | with_reducible apply OnNext.next
    | with_reducible apply OnNext.fault
    | with_reducible apply countChange_keeps c1
    | with_reducible apply linkUpNow_keeps c2
    | with_reducible apply linkDownNow_keeps c1
    | split
    | dsimp -zeta only

theorem execPortHoldEnd_keeps {P : State → Prop} (c : Closed 0x20000000 P) (x1) (x2 : State) (h2 : P x2) :
    OnNext P (execPortHoldEnd x1 x2) := by
  unfold execPortHoldEnd
  repeat' first
    | with_reducible assumption
    | with_reducible apply OnNext.unit
    | with_reducible apply OnNext.next
    | with_reducible apply OnNext.fault
    | with_reducible apply modNet_keeps c
    | intro _
    | split
    | dsimp -zeta only

theorem netFollow_keeps {P : State → Prop} (c : Closed 0x20220000600 P) (x1 : State) (h1 : P x1) :
    P (netFollow x1) := by
  have c1 := c.sub (K' := 0x20000200) (by decide)
  have c2 := c.sub (K' := 0x20220000400) (by decide)
  unfold netFollow
  repeat' first
    | with_reducible assumption
    | with_reducible apply addrFollow_keeps c1
    | with_reducible apply linkDownNow_keeps c2
    | with_reducible apply foldl_keeps
    | with_reducible apply foldl_keeps_fst
    | with_reducible apply foldl_keeps_snd
    | intro _
    | split
    | dsimp -zeta only

theorem execFrameForward_keeps {P : State → Prop} (c : Closed 0x20000200 P) (x1) (x2 : State) (h2 : P x2) :
    OnNext P (execFrameForward x1 x2) := by
  have c1 := c.sub (K' := 0x20000000) (by decide)
  have c2 := c.sub (K' := 0x200) (by decide)
  unfold execFrameForward
  repeat' first
    | with_reducible assumption
    | with_reducible apply OnNext.unit
    | with_reducible apply OnNext.next
    | with_reducible apply OnNext.fault
    | with_reducible apply modNet_keeps c1
    | with_reducible apply emit_keeps c2
    | with_reducible refine fun _ => ?_
    | lift_lets -underBinder
    | (intro x; refine (fun hx : P x => ?_) ?_; clear_value x)
    | (intro x; refine (fun hx : P x.2 => ?_) ?_; clear_value x)
    | (intro x; refine (fun hx : P x.1 => ?_) ?_; clear_value x)
    | (intro x; refine (fun hx : P x.s => ?_) ?_; clear_value x)
    | (intro x; clear_value x)
    | intro _
    | split
    | dsimp -zeta only
    | dsimp -zeta +zetaDelta only
    | lift_lets
    | dsimp only

theorem execAddressTableAgeing_keeps {P : State → Prop} (c : Closed 0x20000000 P) (x1) (x2 : State) (h2 : P x2) :
    OnNext P (execAddressTableAgeing x1 x2) := by
  unfold execAddressTableAgeing
  repeat' first
    | with_reducible assumption
    | with_reducible apply OnNext.unit
    | with_reducible apply OnNext.next
    | with_reducible apply OnNext.fault
    | with_reducible apply modNet_keeps c
    | intro _
    | dsimp -zeta only

end Sys2Proof.Laws
end

