-- ==== Sys2Proof/Laws/KeepsOtp.lean ====
section
/-! SUPPORT. What each function of Machine/Otp.lean can change: a predicate closed under its changes survives it. -/
namespace Sys2Proof.Laws
open Sys2Proof Sys2Proof.Machine

theorem otpAnswer_keeps {P : State → Prop} (c : Closed 0x200 P) (x1 : State) (x2 : State) (x3) (h1 : P x1) (h2 : P x2) :
    P (otpAnswer x1 x2 x3) := by
  unfold otpAnswer
  repeat' first
    | with_reducible assumption
    | with_reducible apply answer_keeps c
    | split
    | dsimp -zeta only

theorem execProgramRow_keeps {P : State → Prop} (c : Closed 0x20200020200 P) (x1) (x2) (x3) (x4 : State) (h4 : P x4) :
    OnNext P (execProgramRow x1 x2 x3 x4) := by
  have c1 := c.sub (K' := 0x20200020000) (by decide)
  have c2 := c.sub (K' := 0x200) (by decide)
  unfold execProgramRow
  repeat' first
    | with_reducible assumption
    | with_reducible apply OnNext.unit
    | with_reducible apply OnNext.next
    | with_reducible apply OnNext.fault
    | with_reducible apply otpProgramRow_keeps c1
    | with_reducible apply otpAnswer_keeps c2
    | dsimp -zeta only

theorem execReinforceRow_keeps {P : State → Prop} (c : Closed 0x20200020200 P) (x1) (x2) (x3) (x4 : State) (h4 : P x4) :
    OnNext P (execReinforceRow x1 x2 x3 x4) := by
  have c1 := c.sub (K' := 0x20200020000) (by decide)
  have c2 := c.sub (K' := 0x200) (by decide)
  unfold execReinforceRow
  repeat' first
    | with_reducible assumption
    | with_reducible apply OnNext.unit
    | with_reducible apply OnNext.next
    | with_reducible apply OnNext.fault
    | with_reducible apply otpReinforceRow_keeps c1
    | with_reducible apply otpAnswer_keeps c2
    | dsimp -zeta only

theorem execMarginRow_keeps {P : State → Prop} (c : Closed 0x20200020200 P) (x1) (x2) (x3 : State) (h3 : P x3) :
    OnNext P (execMarginRow x1 x2 x3) := by
  have c1 := c.sub (K' := 0x20200020000) (by decide)
  have c2 := c.sub (K' := 0x200) (by decide)
  unfold execMarginRow
  repeat' first
    | with_reducible assumption
    | with_reducible apply OnNext.unit
    | with_reducible apply OnNext.next
    | with_reducible apply OnNext.fault
    | with_reducible apply otpMarginRow_keeps c1
    | with_reducible apply otpAnswer_keeps c2
    | dsimp -zeta only

theorem execScan_keeps {P : State → Prop} (c : Closed 0x20200020200 P) (x1) (x2) (x3) (x4 : State) (h4 : P x4) :
    OnNext P (execScan x1 x2 x3 x4) := by
  have c1 := c.sub (K' := 0x20200020000) (by decide)
  have c2 := c.sub (K' := 0x200) (by decide)
  unfold execScan
  repeat' first
    | with_reducible assumption
    | with_reducible apply OnNext.unit
    | with_reducible apply OnNext.next
    | with_reducible apply OnNext.fault
    | with_reducible apply otpScan_keeps c1
    | with_reducible apply otpAnswer_keeps c2
    | dsimp -zeta only

theorem execRollbackRaise_keeps {P : State → Prop} (c : Closed 0x20200020208 P) (x1) (x2) (x3) (x4 : State) (h4 : P x4) :
    OnNext P (execRollbackRaise x1 x2 x3 x4) := by
  have c1 := c.sub (K' := 0x20200020008) (by decide)
  have c2 := c.sub (K' := 0x200) (by decide)
  unfold execRollbackRaise
  repeat' first
    | with_reducible assumption
    | with_reducible apply OnNext.unit
    | with_reducible apply OnNext.next
    | with_reducible apply OnNext.fault
    | with_reducible apply otpRollbackRaise_keeps c1
    | with_reducible apply otpAnswer_keeps c2
    | dsimp -zeta only

theorem execPolicyLock_keeps {P : State → Prop} (c : Closed 0x20200020200 P) (x1) (x2) (x3) (x4 : State) (h4 : P x4) :
    OnNext P (execPolicyLock x1 x2 x3 x4) := by
  have c1 := c.sub (K' := 0x20200020000) (by decide)
  have c2 := c.sub (K' := 0x200) (by decide)
  unfold execPolicyLock
  repeat' first
    | with_reducible assumption
    | with_reducible apply OnNext.unit
    | with_reducible apply OnNext.next
    | with_reducible apply OnNext.fault
    | with_reducible apply otpPolicyLock_keeps c1
    | with_reducible apply otpAnswer_keeps c2
    | dsimp -zeta only

theorem execKwrapGen_keeps {P : State → Prop} (c : Closed 0x20200020208 P) (x1) (x2) (x3) (x4 : State) (h4 : P x4) :
    OnNext P (execKwrapGen x1 x2 x3 x4) := by
  have c1 := c.sub (K' := 0x20200020008) (by decide)
  have c2 := c.sub (K' := 0x200) (by decide)
  unfold execKwrapGen
  repeat' first
    | with_reducible assumption
    | with_reducible apply OnNext.unit
    | with_reducible apply OnNext.next
    | with_reducible apply OnNext.fault
    | with_reducible apply otpKwrapGen_keeps c1
    | with_reducible apply otpAnswer_keeps c2
    | dsimp -zeta only

end Sys2Proof.Laws
end

