-- ==== Sys2Proof/Laws/KeepsResetOps.lean ====
section
/-! SUPPORT. What each function of Machine/ResetOps.lean can change: a predicate closed under its changes survives it. -/
namespace Sys2Proof.Laws
open Sys2Proof Sys2Proof.Machine

theorem foReset_rest (s : State) (b : Bool) : (foReset s b).pending = s.pending ∧ (foReset s b).part = s.part ∧
    (foReset s b).now = s.now ∧ (foReset s b).otp = s.otp ∧ (foReset s b).log = s.log := by
  refine foReset_keeps (P := fun t => t.pending = s.pending ∧ t.part = s.part ∧ t.now = s.now ∧ t.otp = s.otp ∧ t.log = s.log)
    ?_ s b ⟨rfl, rfl, rfl, rfl, rfl⟩
  constructor <;> first
    | exact fun b => absurd b (by decide)
    | exact fun _ _ _ h => h

/-- What the common part of a reset leaves, with any fields but those that matter here replaced. -/
theorem reset_common (s s0 t : State) (k : Bool) (h0 : s0.pending = s.pending ∧ s0.part = s.part ∧ s0.now = s.now ∧
    s0.otp = s.otp ∧ s0.log = s.log) (hp : t.pending = (resetCommon s0 k).pending) (hq : t.part = (resetCommon s0 k).part)
    (hn : t.now = (resetCommon s0 k).now) (hm : t.mem = (resetCommon s0 k).mem) (hl : t.ledgers = (resetCommon s0 k).ledgers)
    (ho : OtpGrows s.otp t.otp) (hg : t.log = (resetCommon s0 k).log) (hx : t.outboxes = (resetCommon s0 k).outboxes) : Reset s t where
  pending := hp.trans h0.1
  part := hq.trans h0.2.1
  now := hn.trans h0.2.2.1
  mem := hm
  ledgers := hl
  otp := ho
  log := fun h => by rw [hg]; exact h0.2.2.2.2 ▸ h
  outboxes := hx

theorem otpCold_grows (o : OtpSt) : OtpGrows o (otpCold o) := otpGrows_same rfl rfl rfl
theorem otpWarm_grows (o : OtpSt) : OtpGrows o (otpWarm o) := otpGrows_same rfl rfl rfl

theorem wipeDie_keeps {P : State → Prop} (c : Closed 0x400030 P) (x1 : State) (x2) (h1 : P x1) :
    P (wipeDie x1 x2) := by
  have c1 := c.sub (K' := 0x30) (by decide)
  exact c.set_mem (by decide) _ _ (fun h => clearBytes_wf _ _ _ h) (rclear_keeps c1 _ _ _ h1)

theorem clearUnits_keeps {P : State → Prop} (c : Closed 0x4000fa02000 P) (x1 : State) (x2) (h1 : P x1) :
    P (clearUnits x1 x2) := by
  have c1 := c.sub (K' := 0x4000000) (by decide)
  have c2 := c.sub (K' := 0x200000) (by decide)
  have c3 := c.sub (K' := 0x2000000) (by decide)
  have c4 := c.sub (K' := 0x2000) (by decide)
  have key : ∀ n t, P t → P (modLedger (modFab (modDet (modComp t n fun _ => {}) n fun _ => {}) n fun _ => {}) n fun _ => []) :=
    fun n t h => modLedger_keeps c4 _ _ _ (fun _ e he => nomatch he) (modFab_keeps c2 _ _ _ (modDet_keeps c1 _ _ _ (modComp_keeps c3 _ _ _ h)))
  have key2 : ∀ t, P t → P { t with outboxes := t.outboxes.setIfInBounds x2.idx {} } :=
    fun t h => c.set_outboxes (by decide) _ _ (fun ho => outboxesSized_set ho (Nat.zero_le _)) h
  cases x2
  · exact h1
  · exact c.set_eye_isp_guard (by decide) (by decide) (by decide) _ _ _ _ h1
  all_goals exact key2 _ (key _ _ h1)

theorem partnerDown_keeps {P : State → Prop} (c : Closed 0x60200040810 P) (x1 : State) (x2) (h1 : P x1) :
    P (partnerDown x1 x2) := by
  have c1 := c.sub (K' := 0x40000) (by decide)
  unfold partnerDown
  repeat' first
    | with_reducible assumption
    | with_reducible apply modPort_keeps c1
    | with_reducible apply portLost_keeps c
    | dsimp -zeta only

theorem portsDown_keeps {P : State → Prop} (c : Closed 0x60200044810 P) (x1 : State) (x2) (x3) (h1 : P x1) :
    P (portsDown x1 x2 x3) := by
  have c1 := c.sub (K' := 0x40000) (by decide)
  have c2 := c.sub (K' := 0x60200040810) (by decide)
  have c3 := c.sub (K' := 0x20200004000) (by decide)
  have c4 := c.sub (K' := 0x4000) (by decide)
  unfold portsDown
  repeat' first
    | with_reducible assumption
    | with_reducible apply modPort_keeps c1
    | with_reducible apply partnerDown_keeps c2
    | with_reducible apply linkChangeOnce_keeps c3
    | with_reducible apply modBoot_keeps c4
    | with_reducible refine fun _ => ?_
    | lift_lets -underBinder
    | (intro x; refine (fun hx : P x => ?_) ?_; clear_value x)
    | (intro x; refine (fun hx : P x.2 => ?_) ?_; clear_value x)
    | (intro x; refine (fun hx : P x.1 => ?_) ?_; clear_value x)
    | (intro x; refine (fun hx : P x.s => ?_) ?_; clear_value x)
    | (intro x; clear_value x)
    | with_reducible apply foldl_keeps
    | with_reducible apply foldl_keeps_fst
    | with_reducible apply foldl_keeps_snd
    | intro _
    | split
    | dsimp -zeta only
    | dsimp -zeta +zetaDelta only
    | lift_lets
    | dsimp only

theorem holdDie_keeps {P : State → Prop} (c : Closed 0x6020fe47830 P) (x1 : State) (x2) (x3) (h1 : P x1) :
    P (holdDie x1 x2 x3) := by
  have c1 := c.sub (K' := 0x1000) (by decide)
  have c2 := c.sub (K' := 0x60200044810) (by decide)
  have c3 := c.sub (K' := 0x10) (by decide)
  have c4 := c.sub (K' := 0x4000fa02000) (by decide)
  have c5 := c.sub (K' := 0x400030) (by decide)
  unfold holdDie
  repeat' first
    | with_reducible assumption
    | with_reducible apply modDie_keeps c1
    | with_reducible apply portsDown_keeps c2
    | with_reducible apply rput_keeps c3
    | with_reducible apply clearUnits_keeps c4
    | with_reducible apply wipeDie_keeps c5
    | with_reducible refine fun _ => ?_
    | lift_lets -underBinder
    | (intro x; refine (fun hx : P x => ?_) ?_; clear_value x)
    | (intro x; refine (fun hx : P x.2 => ?_) ?_; clear_value x)
    | (intro x; refine (fun hx : P x.1 => ?_) ?_; clear_value x)
    | (intro x; refine (fun hx : P x.s => ?_) ?_; clear_value x)
    | (intro x; clear_value x)
    | intro _
    | split
    | dsimp -zeta only
    | dsimp -zeta +zetaDelta only
    | lift_lets
    | dsimp only

theorem holdAll_keeps {P : State → Prop} (c : Closed 0x6020fe47830 P) (x1 : State) (h1 : P x1) :
    P (holdAll x1) := by
  unfold holdAll
  repeat' first
    | with_reducible assumption
    | with_reducible apply holdDie_keeps c
    | with_reducible apply foldl_keeps
    | with_reducible apply foldl_keeps_fst
    | with_reducible apply foldl_keeps_snd
    | intro _
    | dsimp -zeta only

theorem siteBadNow_keeps {P : State → Prop} (c : Closed 0x60200045810 P) (x1 : State) (x2) (h1 : P x1) :
    P (siteBadNow x1 x2) := by
  have c1 := c.sub (K' := 0x1000) (by decide)
  have c2 := c.sub (K' := 0x60000000000) (by decide)
  have c3 := c.sub (K' := 0x60200044810) (by decide)
  unfold siteBadNow
  repeat' first
    | with_reducible assumption
    | with_reducible apply modDie_keeps c1
    | with_reducible apply logOnly_keeps c2
    | with_reducible apply portsDown_keeps c3
    | with_reducible refine fun _ => ?_
    | lift_lets -underBinder
    | (intro x; refine (fun hx : P x => ?_) ?_; clear_value x)
    | (intro x; refine (fun hx : P x.2 => ?_) ?_; clear_value x)
    | (intro x; refine (fun hx : P x.1 => ?_) ?_; clear_value x)
    | (intro x; refine (fun hx : P x.s => ?_) ?_; clear_value x)
    | (intro x; clear_value x)
    | intro _
    | dsimp -zeta only
    | dsimp -zeta +zetaDelta only
    | lift_lets
    | dsimp only

theorem readSite_keeps {P : State → Prop} (c : Closed 0x60200045810 P) (x1 : State) (x2) (x3) (x4) (h1 : P x1) :
    P (readSite x1 x2 x3 x4) := by
  have c1 := c.sub (K' := 0x4000) (by decide)
  unfold readSite
  repeat' first
    | with_reducible assumption
    | with_reducible apply siteBadNow_keeps c
    | with_reducible apply modBoot_keeps c1
    | with_reducible refine fun _ => ?_
    | lift_lets -underBinder
    | (intro x; refine (fun hx : P x => ?_) ?_; clear_value x)
    | (intro x; refine (fun hx : P x.2 => ?_) ?_; clear_value x)
    | (intro x; refine (fun hx : P x.1 => ?_) ?_; clear_value x)
    | (intro x; refine (fun hx : P x.s => ?_) ?_; clear_value x)
    | (intro x; clear_value x)
    | intro _
    | split
    | dsimp -zeta only
    | dsimp -zeta +zetaDelta only
    | lift_lets
    | dsimp only

theorem unitsOn_keeps {P : State → Prop} (c : Closed 0x7800030 P) (x1 : State) (x2) (h1 : P x1) :
    P (unitsOn x1 x2) := by
  have c1 := c.sub (K' := 0x4000000) (by decide)
  have c2 := c.sub (K' := 0x1800030) (by decide)
  have c3 := c.sub (K' := 0x2000000) (by decide)
  unfold unitsOn
  repeat' first
    | with_reducible assumption
    | with_reducible apply modDet_keeps c1
    | with_reducible apply eyeRelease_keeps c2
    | with_reducible apply modComp_keeps c3
    | with_reducible refine fun _ => ?_
    | lift_lets -underBinder
    | (intro x; refine (fun hx : P x => ?_) ?_; clear_value x)
    | (intro x; refine (fun hx : P x.2 => ?_) ?_; clear_value x)
    | (intro x; refine (fun hx : P x.1 => ?_) ?_; clear_value x)
    | (intro x; refine (fun hx : P x.s => ?_) ?_; clear_value x)
    | (intro x; clear_value x)
    | intro _
    | split
    | dsimp -zeta only
    | dsimp -zeta +zetaDelta only
    | lift_lets
    | dsimp only

theorem releaseDie_keeps {P : State → Prop} (c : Closed 0x7841030 P) (x1 : State) (x2) (h1 : P x1) :
    P (releaseDie x1 x2) := by
  have c1 := c.sub (K' := 0x40000) (by decide)
  have c2 := c.sub (K' := 0x1000) (by decide)
  have c3 := c.sub (K' := 0x10) (by decide)
  have c4 := c.sub (K' := 0x7800030) (by decide)
  unfold releaseDie
  repeat' first
    | with_reducible assumption
    | with_reducible apply modPort_keeps c1
    | with_reducible apply modDie_keeps c2
    | with_reducible apply rput_keeps c3
    | with_reducible apply unitsOn_keeps c4
    | with_reducible refine fun _ => ?_
    | lift_lets -underBinder
    | (intro x; refine (fun hx : P x => ?_) ?_; clear_value x)
    | (intro x; refine (fun hx : P x.2 => ?_) ?_; clear_value x)
    | (intro x; refine (fun hx : P x.1 => ?_) ?_; clear_value x)
    | (intro x; refine (fun hx : P x.s => ?_) ?_; clear_value x)
    | (intro x; clear_value x)
    | with_reducible apply foldl_keeps
    | with_reducible apply foldl_keeps_fst
    | with_reducible apply foldl_keeps_snd
    | intro _
    | split
    | dsimp -zeta only
    | dsimp -zeta +zetaDelta only
    | lift_lets
    | dsimp only

theorem guardSelftest_keeps {P : State → Prop} (c : Closed 0x8000000 P) (x1 : State) (x2) (h1 : P x1) :
    P (guardSelftest x1 x2) := by
  unfold guardSelftest
  repeat' first
    | with_reducible assumption
    | with_reducible apply modGuard_keeps c
    | intro _
    | dsimp -zeta only

theorem resetAborts_keeps {P : State → Prop} (c : Closed 0x60200040000 P) (x1 : State) (x2) (h1 : P x1) :
    P (resetAborts x1 x2) := by
  unfold resetAborts
  repeat' first
    | with_reducible assumption
    | with_reducible apply sendMsg_keeps c
    | with_reducible apply foldl_keeps
    | with_reducible apply foldl_keeps_fst
    | with_reducible apply foldl_keeps_snd
    | intro _
    | split
    | dsimp -zeta only

theorem dieResetNow_keeps {P : State → Prop} (c : Closed 0x60207a47830 P) (x1 : State) (x2) (x3) (x4) (h1 : P x1) :
    P (dieResetNow x1 x2 x3 x4) := by
  have c1 := c.sub (K' := 0x60200045810) (by decide)
  have c2 := c.sub (K' := 0x40000) (by decide)
  have c3 := c.sub (K' := 0x800) (by decide)
  have c4 := c.sub (K' := 0x1000) (by decide)
  have c5 := c.sub (K' := 0x4000000) (by decide)
  have c6 := c.sub (K' := 0x200000) (by decide)
  have c7 := c.sub (K' := 0x7800030) (by decide)
  have c8 := c.sub (K' := 0x2000000) (by decide)
  have c9 := c.sub (K' := 0x30) (by decide)
  have c10 := c.sub (K' := 0x2000) (by decide)
  have c11 := c.sub (K' := 0x60200040000) (by decide)
  unfold dieResetNow
  repeat' first
    | with_reducible assumption
    | with_reducible apply readSite_keeps c1
    | with_reducible apply modPort_keeps c2
    | with_reducible apply markPartial_keeps c3
    | with_reducible apply modDie_keeps c4
    | with_reducible apply modDet_keeps c5
    | with_reducible apply modFab_keeps c6
    | with_reducible apply unitsOn_keeps c7
    | with_reducible apply modComp_keeps c8
    | with_reducible apply rclear_keeps c9
    | with_reducible apply ledgerMark_keeps c10
    | with_reducible apply resetAborts_keeps c11
    | with_reducible refine snd_of (by assumption) ?_
    | with_reducible refine fun _ => ?_
    | lift_lets -underBinder
    | (intro x; refine (fun hx : P x => ?_) ?_; clear_value x)
    | (intro x; refine (fun hx : P x.2 => ?_) ?_; clear_value x)
    | (intro x; refine (fun hx : P x.1 => ?_) ?_; clear_value x)
    | (intro x; refine (fun hx : P x.s => ?_) ?_; clear_value x)
    | (intro x; clear_value x)
    | with_reducible apply foldl_keeps
    | with_reducible apply foldl_keeps_fst
    | with_reducible apply foldl_keeps_snd
    | intro _
    | dsimp -zeta only
    | dsimp -zeta +zetaDelta only
    | lift_lets
    | dsimp only

theorem switchLost_keeps {P : State → Prop} (c : Closed 0x20200000000 P) (x1 : State) (x2 : State) (h1 : P x1) (h2 : P x2) :
    P (switchLost x1 x2) := by
  unfold switchLost
  repeat' first
    | with_reducible assumption
    | with_reducible apply raise_keeps c
    | split
    | dsimp -zeta only

theorem coldNow_keeps {P : State → Prop} (c : Closed 0x10000e2200024230 P) (x1 : State) (x2) (x3) (x4) (x5) (h1 : P x1) :
    P (coldNow x1 x2 x3 x4 x5) := by
  have c1 := c.sub (K' := 0x60000000000) (by decide)
  have c3 := c.sub (K' := 0x200) (by decide)
  have c4 := c.sub (K' := 0x20200000000) (by decide)
  have h2 := c.reset (by decide) x1 _ (reset_common x1 (foReset x1 true)
    { resetCommon (foReset x1 true) false with
        otp := otpCold x1.otp
        boot := { resetCause := toWord x2, phase := if x3 then 0 else 1, started := x1.now }
        power := { thermalStopped := x4, tjPeak := if x4 then x1.power.tjPeak else 0, tjPeakDie := if x4 then x1.power.tjPeakDie else 0 } }
    false (foReset_rest _ _) rfl rfl rfl rfl rfl (otpCold_grows _) rfl rfl) h1
  have h3 := switchLost_keeps c4 x1 _ h1 (logReset_keeps c1 _ x2 x5 true h2)
  unfold coldNow
  dsimp only
  split
  · exact emit_keeps c3 _ _ h3
  · exact h3

theorem warmNow_keeps {P : State → Prop} (c : Closed 0x10000e3a20024238 P) (x1 : State) (x2) (h1 : P x1) :
    P (warmNow x1 x2) := by
  have c1 := c.sub (K' := 0x60000000000) (by decide)
  have c2 := c.sub (K' := 0x10) (by decide)
  have c4 := c.sub (K' := 0x80000000208) (by decide)
  have c5 := c.sub (K' := 0x20200000000) (by decide)
  have h2 := fun b : BootSt => c.reset (by decide) x1 _ (reset_common x1 (foReset x1 false)
    { resetCommon (foReset x1 false) true with
        otp := otpWarm x1.otp
        net := netWarm x1.net
        tb := x1.tb
        hk := { trimBad := x1.hk.trimBad }
        lst := { policyOff := x1.lst.policyOff }
        power := powerWarm x1.power
        boot := b }
    true (foReset_rest _ _) rfl rfl rfl rfl rfl (otpWarm_grows _) rfl rfl) h1
  unfold warmNow
  exact sendVcore_keeps c4 _ _ (switchLost_keeps c5 _ _ h1 (logReset_keeps c1 _ _ _ _ (rput_keeps c2 _ _ _ (h2 _))))

theorem coldCmd_keeps {P : State → Prop} (c : Closed 0x10000e2200024230 P) (x1 : State) (h1 : P x1) :
    P (coldCmd x1) := by
  have c1 := c.sub (K' := 0x200) (by decide)
  unfold coldCmd
  repeat' first
    | with_reducible assumption
    | with_reducible apply coldNow_keeps c
    | with_reducible apply sendBye_keeps c1
    | dsimp -zeta only

theorem warmCmd_keeps {P : State → Prop} (c : Closed 0x10000e3a20024238 P) (x1 : State) (h1 : P x1) :
    P (warmCmd x1) := by
  have c1 := c.sub (K' := 0x200) (by decide)
  unfold warmCmd
  repeat' first
    | with_reducible assumption
    | with_reducible apply warmNow_keeps c
    | with_reducible apply sendBye_keeps c1
    | dsimp -zeta only

theorem pinResets_keeps {P : State → Prop} (c : Closed 0x8 P) (x1 : State) (x2) (h1 : P x1) :
    P (pinResets x1 x2).2 := by
  unfold pinResets
  repeat' first
    | with_reducible assumption
    | with_reducible apply fresh_keeps c
    | with_reducible refine snd_of (by assumption) ?_
    | with_reducible refine fun _ => ?_
    | lift_lets -underBinder
    | (intro x; refine (fun hx : P x => ?_) ?_; clear_value x)
    | (intro x; refine (fun hx : P x.2 => ?_) ?_; clear_value x)
    | (intro x; refine (fun hx : P x.1 => ?_) ?_; clear_value x)
    | (intro x; refine (fun hx : P x.s => ?_) ?_; clear_value x)
    | (intro x; clear_value x)
    | split
    | dsimp -zeta only
    | dsimp -zeta +zetaDelta only
    | lift_lets
    | dsimp only

theorem haltNow_keeps {P : State → Prop} (c : Closed 0xe7fefe47a30 P) (x1 : State) (x2) (h1 : P x1) :
    P (haltNow x1 x2) := by
  have c1 := c.sub (K' := 0x80000000000) (by decide)
  have c2 := c.sub (K' := 0x2000000230) (by decide)
  have c3 := c.sub (K' := 0x200) (by decide)
  have c4 := c.sub (K' := 0x27a00001200) (by decide)
  have c5 := c.sub (K' := 0x6020fe47830) (by decide)
  have c6 := c.sub (K' := 0x4000) (by decide)
  unfold haltNow
  repeat' first
    | with_reducible assumption
    | with_reducible apply modPower_keeps c1
    | with_reducible apply foReset_keeps c2
    | with_reducible apply emit_keeps c3
    | with_reducible apply followSeason_keeps c4
    | with_reducible apply holdAll_keeps c5
    | with_reducible apply modBoot_keeps c6
    | with_reducible refine c.set_seqr_net_bcp_stage_sw_recs_peers (by decide) (by decide) (by decide) (by decide) (by decide) (by decide) (by decide) _ _ _ _ _ _ _ _ ?_
    | with_reducible refine fun _ => ?_
    | lift_lets -underBinder
    | (intro x; refine (fun hx : P x => ?_) ?_; clear_value x)
    | (intro x; refine (fun hx : P x.2 => ?_) ?_; clear_value x)
    | (intro x; refine (fun hx : P x.1 => ?_) ?_; clear_value x)
    | (intro x; refine (fun hx : P x.s => ?_) ?_; clear_value x)
    | (intro x; clear_value x)
    | intro _
    | dsimp -zeta only
    | dsimp -zeta +zetaDelta only
    | lift_lets
    | dsimp only

end Sys2Proof.Laws
end

