-- ==== Sys2Proof/Laws/KeepsPower.lean ====
section
/-! SUPPORT. What each function of Machine/Power.lean can change: a predicate closed under its changes survives it. -/
namespace Sys2Proof.Laws
open Sys2Proof Sys2Proof.Machine

theorem levelChanged_keeps {P : State → Prop} (c : Closed 0x80000000208 P) (x1 : State) (h1 : P x1) :
    P (levelChanged x1) := by
  have c1 := c.sub (K' := 0x80000000000) (by decide)
  unfold levelChanged
  repeat' first
    | with_reducible assumption
    | with_reducible apply modPower_keeps c1
    | with_reducible apply applyCap_keeps c
    | with_reducible refine fun _ => ?_
    | lift_lets -underBinder
    | (intro x; refine (fun hx : P x => ?_) ?_; clear_value x)
    | (intro x; refine (fun hx : P x.2 => ?_) ?_; clear_value x)
    | (intro x; refine (fun hx : P x.1 => ?_) ?_; clear_value x)
    | (intro x; refine (fun hx : P x.s => ?_) ?_; clear_value x)
    | (intro x; clear_value x)
    | intro _
    | split
    | dsimp -zeta only
    | dsimp -zeta +zetaDelta only
    | lift_lets
    | dsimp only

theorem thermalStop_keeps {P : State → Prop} (c : Closed 0xe7e4fe47a38 P) (x1 : State) (h1 : P x1) :
    P (thermalStop x1) := by
  have c1 := c.sub (K' := 0x80000000000) (by decide)
  have c2 := c.sub (K' := 0x6020fe47830) (by decide)
  have c3 := c.sub (K' := 0xa7a00001208) (by decide)
  unfold thermalStop
  repeat' first
    | with_reducible assumption
    | with_reducible apply modPower_keeps c1
    | with_reducible apply holdAll_keeps c2
    | with_reducible apply seasonTo_keeps c3
    | with_reducible refine c.set_seqr_bcp_recs_peers (by decide) (by decide) (by decide) (by decide) _ _ _ _ _ ?_
    | with_reducible refine fun _ => ?_
    | lift_lets -underBinder
    | (intro x; refine (fun hx : P x => ?_) ?_; clear_value x)
    | (intro x; refine (fun hx : P x.2 => ?_) ?_; clear_value x)
    | (intro x; refine (fun hx : P x.1 => ?_) ?_; clear_value x)
    | (intro x; refine (fun hx : P x.s => ?_) ?_; clear_value x)
    | (intro x; clear_value x)
    | intro _
    | dsimp -zeta only
    | dsimp -zeta +zetaDelta only
    | lift_lets
    | dsimp only

theorem tjSample_keeps {P : State → Prop} (c : Closed 0xa0200000000 P) (x1 : State) (x2) (h1 : P x1) :
    P (tjSample x1 x2) := by
  have c1 := c.sub (K' := 0x80000000000) (by decide)
  have c2 := c.sub (K' := 0x20200000000) (by decide)
  unfold tjSample
  repeat' first
    | with_reducible assumption
    | with_reducible apply modPower_keeps c1
    | with_reducible apply raise_keeps c2
    | with_reducible refine fun _ => ?_
    | lift_lets -underBinder
    | (intro x; refine (fun hx : P x => ?_) ?_; clear_value x)
    | (intro x; refine (fun hx : P x.2 => ?_) ?_; clear_value x)
    | (intro x; refine (fun hx : P x.1 => ?_) ?_; clear_value x)
    | (intro x; refine (fun hx : P x.s => ?_) ?_; clear_value x)
    | (intro x; clear_value x)
    | with_reducible apply foldl_keeps
    | with_reducible apply foldl_keeps_fst
    | with_reducible apply foldl_keeps_snd
    | intro _
    | split
    | dsimp -zeta only
    | dsimp -zeta +zetaDelta only
    | lift_lets
    | dsimp only

theorem tjMax_keeps {P : State → Prop} (c : Closed 0x80000000000 P) (x1 : State) (h1 : P x1) :
    P (tjMax x1) := by
  unfold tjMax
  repeat' first
    | with_reducible assumption
    | with_reducible apply modPower_keeps c
    | with_reducible refine fun _ => ?_
    | lift_lets -underBinder
    | (intro x; refine (fun hx : P x => ?_) ?_; clear_value x)
    | (intro x; refine (fun hx : P x.2 => ?_) ?_; clear_value x)
    | (intro x; refine (fun hx : P x.1 => ?_) ?_; clear_value x)
    | (intro x; refine (fun hx : P x.s => ?_) ?_; clear_value x)
    | (intro x; clear_value x)
    | with_reducible apply foldl_keeps
    | with_reducible apply foldl_keeps_fst
    | with_reducible apply foldl_keeps_snd
    | intro _
    | split
    | dsimp -zeta only
    | dsimp -zeta +zetaDelta only
    | lift_lets
    | dsimp only

theorem tempDefects_keeps {P : State → Prop} (c : Closed 0x800000 P) (x1 : State) (h1 : P x1) :
    P (tempDefects x1) := by
  unfold tempDefects
  repeat' first
    | with_reducible assumption
    | with_reducible apply modEye_keeps c
    | with_reducible refine fun _ => ?_
    | lift_lets -underBinder
    | (intro x; refine (fun hx : P x => ?_) ?_; clear_value x)
    | (intro x; refine (fun hx : P x.2 => ?_) ?_; clear_value x)
    | (intro x; refine (fun hx : P x.1 => ?_) ?_; clear_value x)
    | (intro x; refine (fun hx : P x.s => ?_) ?_; clear_value x)
    | (intro x; clear_value x)
    | intro _
    | split
    | dsimp -zeta only
    | dsimp -zeta +zetaDelta only
    | lift_lets
    | dsimp only

theorem tjLevel_keeps {P : State → Prop} (c : Closed 0xa0200000208 P) (x1 : State) (h1 : P x1) :
    P (tjLevel x1) := by
  have c1 := c.sub (K' := 0x80000000208) (by decide)
  have c2 := c.sub (K' := 0x80000000000) (by decide)
  have c3 := c.sub (K' := 0x20200000000) (by decide)
  unfold tjLevel
  repeat' first
    | with_reducible assumption
    | with_reducible apply levelChanged_keeps c1
    | with_reducible apply modPower_keeps c2
    | with_reducible apply raise_keeps c3
    | with_reducible refine fun _ => ?_
    | lift_lets -underBinder
    | (intro x; refine (fun hx : P x => ?_) ?_; clear_value x)
    | (intro x; refine (fun hx : P x.2 => ?_) ?_; clear_value x)
    | (intro x; refine (fun hx : P x.1 => ?_) ?_; clear_value x)
    | (intro x; refine (fun hx : P x.s => ?_) ?_; clear_value x)
    | (intro x; clear_value x)
    | intro _
    | split
    | dsimp -zeta only
    | dsimp -zeta +zetaDelta only
    | lift_lets
    | dsimp only

theorem execThermalSample_keeps {P : State → Prop} (c : Closed 0xe7e4fe47a38 P) (x1) (x2 : State) (h2 : P x2) :
    OnNext P (execThermalSample x1 x2) := by
  have c1 := c.sub (K' := 0x800000) (by decide)
  have c2 := c.sub (K' := 0xa0200000208) (by decide)
  have c3 := c.sub (K' := 0x80000000000) (by decide)
  have c4 := c.sub (K' := 0xa0200000000) (by decide)
  unfold execThermalSample
  repeat' first
    | with_reducible assumption
    | with_reducible apply OnNext.unit
    | with_reducible apply OnNext.next
    | with_reducible apply OnNext.fault
    | with_reducible apply tempDefects_keeps c1
    | with_reducible apply thermalStop_keeps c
    | with_reducible apply tjLevel_keeps c2
    | with_reducible apply tjMax_keeps c3
    | with_reducible apply tjSample_keeps c4
    | with_reducible refine fun _ => ?_
    | lift_lets -underBinder
    | (intro x; refine (fun hx : P x => ?_) ?_; clear_value x)
    | (intro x; refine (fun hx : P x.2 => ?_) ?_; clear_value x)
    | (intro x; refine (fun hx : P x.1 => ?_) ?_; clear_value x)
    | (intro x; refine (fun hx : P x.s => ?_) ?_; clear_value x)
    | (intro x; clear_value x)
    | split
    | dsimp -zeta only
    | dsimp -zeta +zetaDelta only
    | lift_lets
    | dsimp only

theorem execThermalStopExit_keeps {P : State → Prop} (c : Closed 0x10000e2200024230 P) (x1 : State) (h1 : P x1) :
    OnNext P (execThermalStopExit x1) := by
  unfold execThermalStopExit
  repeat' first
    | with_reducible assumption
    | with_reducible apply OnNext.unit
    | with_reducible apply OnNext.next
    | with_reducible apply OnNext.fault
    | with_reducible apply coldNow_keeps c
    | split
    | dsimp -zeta only

theorem pLevelTo_keeps {P : State → Prop} (c : Closed 0x80000000208 P) (x1 : State) (x2) (h1 : P x1) :
    P (pLevelTo x1 x2) := by
  have c1 := c.sub (K' := 0x80000000000) (by decide)
  unfold pLevelTo
  repeat' first
    | with_reducible assumption
    | with_reducible apply levelChanged_keeps c
    | with_reducible apply modPower_keeps c1
    | intro _
    | dsimp -zeta only

theorem pLevelUp_keeps {P : State → Prop} (c : Closed 0xa0200000208 P) (x1 : State) (h1 : P x1) :
    P (pLevelUp x1) := by
  have c1 := c.sub (K' := 0x80000000208) (by decide)
  have c2 := c.sub (K' := 0x20200000000) (by decide)
  unfold pLevelUp
  repeat' first
    | with_reducible assumption
    | with_reducible apply pLevelTo_keeps c1
    | with_reducible apply raise_keeps c2
    | split
    | dsimp -zeta only

theorem execPowerLevelEval_keeps {P : State → Prop} (c : Closed 0xa0200000208 P) (x1 : State) (h1 : P x1) :
    OnNext P (execPowerLevelEval x1) := by
  have c1 := c.sub (K' := 0x80000000208) (by decide)
  have c2 := c.sub (K' := 0x80000000000) (by decide)
  unfold execPowerLevelEval
  repeat' first
    | with_reducible assumption
    | with_reducible apply OnNext.unit
    | with_reducible apply OnNext.next
    | with_reducible apply OnNext.fault
    | with_reducible apply pLevelTo_keeps c1
    | with_reducible apply modPower_keeps c2
    | with_reducible apply pLevelUp_keeps c
    | with_reducible refine fun _ => ?_
    | lift_lets -underBinder
    | (intro x; refine (fun hx : P x => ?_) ?_; clear_value x)
    | (intro x; refine (fun hx : P x.2 => ?_) ?_; clear_value x)
    | (intro x; refine (fun hx : P x.1 => ?_) ?_; clear_value x)
    | (intro x; refine (fun hx : P x.s => ?_) ?_; clear_value x)
    | (intro x; clear_value x)
    | intro _
    | split
    | dsimp -zeta only
    | dsimp -zeta +zetaDelta only
    | lift_lets
    | dsimp only

theorem leaveWinter_keeps {P : State → Prop} (c : Closed 0xa7a00001208 P) (x1 : State) (h1 : P x1) :
    P (leaveWinter x1) := by
  have c1 := c.sub (K' := 0x80000000000) (by decide)
  unfold leaveWinter
  repeat' first
    | with_reducible assumption
    | with_reducible apply modPower_keeps c1
    | with_reducible apply seasonTo_keeps c
    | intro _
    | dsimp -zeta only

theorem seasonCmdReg_keeps {P : State → Prop} (c : Closed 0xa7a00001208 P) (x1 : State) (x2) (x3) (h1 : P x1) :
    P (seasonCmdReg x1 x2 x3).1 := by
  have c1 := c.sub (K' := 0x80000000000) (by decide)
  unfold seasonCmdReg
  repeat' first
    | with_reducible assumption
    | with_reducible apply modPower_keeps c1
    | with_reducible apply leaveWinter_keeps c
    | intro _
    | split
    | dsimp -zeta only

theorem execSeasonCmdWinter_keeps {P : State → Prop} (c : Closed 0xa7a00001208 P) (x1) (x2) (x3 : State) (h3 : P x3) :
    OnNext P (execSeasonCmdWinter x1 x2 x3) := by
  have c1 := c.sub (K' := 0x200) (by decide)
  unfold execSeasonCmdWinter
  repeat' first
    | with_reducible assumption
    | with_reducible apply OnNext.unit
    | with_reducible apply OnNext.next
    | with_reducible apply OnNext.fault
    | with_reducible apply seasonCmdReg_keeps c
    | with_reducible apply answerWrite_keeps c1
    | with_reducible refine fst_of (by assumption) ?_
    | dsimp -zeta only

theorem execSeasonCmdLeave_keeps {P : State → Prop} (c : Closed 0xa7a00001208 P) (x1) (x2) (x3 : State) (h3 : P x3) :
    OnNext P (execSeasonCmdLeave x1 x2 x3) := by
  have c1 := c.sub (K' := 0x200) (by decide)
  unfold execSeasonCmdLeave
  repeat' first
    | with_reducible assumption
    | with_reducible apply OnNext.unit
    | with_reducible apply OnNext.next
    | with_reducible apply OnNext.fault
    | with_reducible apply seasonCmdReg_keeps c
    | with_reducible apply answerWrite_keeps c1
    | with_reducible refine fst_of (by assumption) ?_
    | dsimp -zeta only

theorem execSpringBringup_keeps {P : State → Prop} (c : Closed 0x7845830 P) (x1 : State) (h1 : P x1) :
    OnNext P (execSpringBringup x1) := by
  have c1 := c.sub (K' := 0x7841030) (by decide)
  have c2 := c.sub (K' := 0x800) (by decide)
  have c3 := c.sub (K' := 0x4000) (by decide)
  unfold execSpringBringup
  repeat' first
    | with_reducible assumption
    | with_reducible apply OnNext.unit
    | with_reducible apply OnNext.next
    | with_reducible apply OnNext.fault
    | with_reducible apply releaseDie_keeps c1
    | with_reducible apply modSeq_keeps c2
    | with_reducible apply modBoot_keeps c3
    | with_reducible refine fun _ => ?_
    | lift_lets -underBinder
    | (intro x; refine (fun hx : P x => ?_) ?_; clear_value x)
    | (intro x; refine (fun hx : P x.2 => ?_) ?_; clear_value x)
    | (intro x; refine (fun hx : P x.1 => ?_) ?_; clear_value x)
    | (intro x; refine (fun hx : P x.s => ?_) ?_; clear_value x)
    | (intro x; clear_value x)
    | with_reducible apply foldl_keeps
    | with_reducible apply foldl_keeps_fst
    | with_reducible apply foldl_keeps_snd
    | intro _
    | split
    | dsimp -zeta only
    | dsimp -zeta +zetaDelta only
    | lift_lets
    | dsimp only

theorem execWakeHoldExpire_keeps {P : State → Prop} (c : Closed 0x80000000000 P) (x1 : State) (h1 : P x1) :
    OnNext P (execWakeHoldExpire x1) := by
  unfold execWakeHoldExpire
  repeat' first
    | with_reducible assumption
    | with_reducible apply OnNext.unit
    | with_reducible apply OnNext.next
    | with_reducible apply OnNext.fault
    | with_reducible apply modPower_keeps c
    | intro _
    | dsimp -zeta only

theorem execWinterWindowClose_keeps {P : State → Prop} (c : Closed 0xa7a00001208 P) (x1 : State) (h1 : P x1) :
    OnNext P (execWinterWindowClose x1) := by
  have c1 := c.sub (K' := 0x80000000000) (by decide)
  unfold execWinterWindowClose
  repeat' first
    | with_reducible assumption
    | with_reducible apply OnNext.unit
    | with_reducible apply OnNext.next
    | with_reducible apply OnNext.fault
    | with_reducible apply modPower_keeps c1
    | with_reducible apply leaveWinter_keeps c
    | with_reducible refine fun _ => ?_
    | lift_lets -underBinder
    | (intro x; refine (fun hx : P x => ?_) ?_; clear_value x)
    | (intro x; refine (fun hx : P x.2 => ?_) ?_; clear_value x)
    | (intro x; refine (fun hx : P x.1 => ?_) ?_; clear_value x)
    | (intro x; refine (fun hx : P x.s => ?_) ?_; clear_value x)
    | (intro x; clear_value x)
    | intro _
    | split
    | dsimp -zeta only
    | dsimp -zeta +zetaDelta only
    | lift_lets
    | dsimp only

theorem enterWinter_keeps {P : State → Prop} (c : Closed 0xe7a0fe47a38 P) (x1 : State) (h1 : P x1) :
    P (enterWinter x1) := by
  have c1 := c.sub (K' := 0x800) (by decide)
  have c2 := c.sub (K' := 0x80000000000) (by decide)
  have c3 := c.sub (K' := 0x6020fe47830) (by decide)
  have c4 := c.sub (K' := 0x200) (by decide)
  have c5 := c.sub (K' := 0xa7a00001208) (by decide)
  unfold enterWinter
  repeat' first
    | with_reducible assumption
    | with_reducible apply modSeq_keeps c1
    | with_reducible apply modPower_keeps c2
    | with_reducible apply holdAll_keeps c3
    | with_reducible apply sendBye_keeps c4
    | with_reducible apply seasonTo_keeps c5
    | with_reducible refine fun _ => ?_
    | lift_lets -underBinder
    | (intro x; refine (fun hx : P x => ?_) ?_; clear_value x)
    | (intro x; refine (fun hx : P x.2 => ?_) ?_; clear_value x)
    | (intro x; refine (fun hx : P x.1 => ?_) ?_; clear_value x)
    | (intro x; refine (fun hx : P x.s => ?_) ?_; clear_value x)
    | (intro x; clear_value x)
    | intro _
    | dsimp -zeta only
    | dsimp -zeta +zetaDelta only
    | lift_lets
    | dsimp only

theorem vcoreFaultNow_keeps {P : State → Prop} (c : Closed 0xa0200000000 P) (x1 : State) (h1 : P x1) :
    P (vcoreFaultNow x1) := by
  have c1 := c.sub (K' := 0x80000000000) (by decide)
  have c2 := c.sub (K' := 0x20200000000) (by decide)
  unfold vcoreFaultNow
  repeat' first
    | with_reducible assumption
    | with_reducible apply modPower_keeps c1
    | with_reducible apply raise_keeps c2
    | intro _
    | split
    | dsimp -zeta only

theorem execVcoreFault_keeps {P : State → Prop} (c : Closed 0xa0200000000 P) (x1 : State) (h1 : P x1) :
    OnNext P (execVcoreFault x1) := by
  unfold execVcoreFault
  repeat' first
    | with_reducible assumption
    | with_reducible apply OnNext.unit
    | with_reducible apply OnNext.next
    | with_reducible apply OnNext.fault
    | with_reducible apply vcoreFaultNow_keeps c
    | dsimp -zeta only

theorem execRailFault_keeps {P : State → Prop} (c : Closed 0xa0200000000 P) (x1) (x2 : State) (h2 : P x2) :
    OnNext P (execRailFault x1 x2) := by
  have c1 := c.sub (K' := 0x80000000000) (by decide)
  have c2 := c.sub (K' := 0x20200000000) (by decide)
  unfold execRailFault
  repeat' first
    | with_reducible assumption
    | with_reducible apply OnNext.unit
    | with_reducible apply OnNext.next
    | with_reducible apply OnNext.fault
    | with_reducible apply modPower_keeps c1
    | with_reducible apply raise_keeps c2
    | intro _
    | dsimp -zeta only

theorem execVsysBrownout_keeps {P : State → Prop} (c : Closed 0x10000e2200024230 P) (x1 : State) (h1 : P x1) :
    OnNext P (execVsysBrownout x1) := by
  unfold execVsysBrownout
  repeat' first
    | with_reducible assumption
    | with_reducible apply OnNext.unit
    | with_reducible apply OnNext.next
    | with_reducible apply OnNext.fault
    | with_reducible apply coldNow_keeps c
    | dsimp -zeta only

theorem failDie_keeps {P : State → Prop} (c : Closed 0x6020fe47830 P) (x1 : State) (x2) (h1 : P x1) :
    P (failDie x1 x2) := by
  have c1 := c.sub (K' := 0x1000) (by decide)
  have c2 := c.sub (K' := 0x60200044810) (by decide)
  have c3 := c.sub (K' := 0x4000fa02000) (by decide)
  have c4 := c.sub (K' := 0x400030) (by decide)
  unfold failDie
  repeat' first
    | with_reducible assumption
    | with_reducible apply modDie_keeps c1
    | with_reducible apply portsDown_keeps c2
    | with_reducible apply clearUnits_keeps c3
    | with_reducible apply wipeDie_keeps c4
    | intro _
    | dsimp -zeta only

theorem execDomainPowerFault_keeps {P : State → Prop} (c : Closed 0xe020fe47830 P) (x1) (x2 : State) (h2 : P x2) :
    OnNext P (execDomainPowerFault x1 x2) := by
  have c1 := c.sub (K' := 0x6020fe47830) (by decide)
  have c2 := c.sub (K' := 0x80000000000) (by decide)
  have c3 := c.sub (K' := 0x20200000000) (by decide)
  unfold execDomainPowerFault
  repeat' first
    | with_reducible assumption
    | with_reducible apply OnNext.unit
    | with_reducible apply OnNext.next
    | with_reducible apply OnNext.fault
    | with_reducible apply failDie_keeps c1
    | with_reducible apply modPower_keeps c2
    | with_reducible apply raise_keeps c3
    | with_reducible refine fun _ => ?_
    | lift_lets -underBinder
    | (intro x; refine (fun hx : P x => ?_) ?_; clear_value x)
    | (intro x; refine (fun hx : P x.2 => ?_) ?_; clear_value x)
    | (intro x; refine (fun hx : P x.1 => ?_) ?_; clear_value x)
    | (intro x; refine (fun hx : P x.s => ?_) ?_; clear_value x)
    | (intro x; clear_value x)
    | intro _
    | split
    | dsimp -zeta only
    | dsimp -zeta +zetaDelta only
    | lift_lets
    | dsimp only

theorem execClockLossHalt_keeps {P : State → Prop} (c : Closed 0xe7fefe47a30 P) (x1 : State) (h1 : P x1) :
    OnNext P (execClockLossHalt x1) := by
  unfold execClockLossHalt
  repeat' first
    | with_reducible assumption
    | with_reducible apply OnNext.unit
    | with_reducible apply OnNext.next
    | with_reducible apply OnNext.fault
    | with_reducible apply haltNow_keeps c
    | split
    | dsimp -zeta only

end Sys2Proof.Laws
end

