-- ==== Sys2Proof/Laws/KeepsHvCtl.lean ====
section
/-! SUPPORT. What each function of Machine/HvCtl.lean can change: a predicate closed under its changes survives it. -/
namespace Sys2Proof.Laws
open Sys2Proof Sys2Proof.Machine

theorem setCommitted_clean {l : LedgerLine} (h : ¬(l.dx = true ∧ l.dp = true)) (v : BitVec 512) :
    ¬((setCommitted l v).dx = true ∧ (setCommitted l v).dp = true) := by
  unfold setCommitted
  split <;> exact h

theorem hvSupport_keeps {P : State → Prop} (c : Closed 0x20200000000 P) (x1 : State) (h1 : P x1) :
    P (hvSupport x1) := by
  unfold hvSupport
  repeat' first
    | with_reducible assumption
    | with_reducible apply raise_keeps c
    | split
    | dsimp -zeta only

theorem hvCmdReg_keeps {P : State → Prop} (c : Closed 0x20210000000 P) (x1 : State) (x2) (x3) (h1 : P x1) :
    P (hvCmdReg x1 x2 x3).1 := by
  have c1 := c.sub (K' := 0x10000000) (by decide)
  have c2 := c.sub (K' := 0x20200000000) (by decide)
  unfold hvCmdReg
  repeat' first
    | with_reducible assumption
    | with_reducible apply modHv_keeps c1
    | with_reducible apply raise_keeps c2
    | intro _
    | split
    | dsimp -zeta only

theorem execHvStart_keeps {P : State → Prop} (c : Closed 0x20210000200 P) (x1) (x2) (x3 : State) (h3 : P x3) :
    OnNext P (execHvStart x1 x2 x3) := by
  have c1 := c.sub (K' := 0x20210000000) (by decide)
  have c2 := c.sub (K' := 0x200) (by decide)
  unfold execHvStart
  repeat' first
    | with_reducible assumption
    | with_reducible apply OnNext.unit
    | with_reducible apply OnNext.next
    | with_reducible apply OnNext.fault
    | with_reducible apply hvCmdReg_keeps c1
    | with_reducible apply answerWrite_keeps c2
    | with_reducible refine fst_of (by assumption) ?_
    | dsimp -zeta only

theorem execHvCancel_keeps {P : State → Prop} (c : Closed 0x20210000200 P) (x1) (x2) (x3 : State) (h3 : P x3) :
    OnNext P (execHvCancel x1 x2 x3) := by
  have c1 := c.sub (K' := 0x20210000000) (by decide)
  have c2 := c.sub (K' := 0x200) (by decide)
  unfold execHvCancel
  repeat' first
    | with_reducible assumption
    | with_reducible apply OnNext.unit
    | with_reducible apply OnNext.next
    | with_reducible apply OnNext.fault
    | with_reducible apply hvCmdReg_keeps c1
    | with_reducible apply answerWrite_keeps c2
    | with_reducible refine fst_of (by assumption) ?_
    | dsimp -zeta only

theorem execHvRevertBaseline_keeps {P : State → Prop} (c : Closed 0x20210000200 P) (x1) (x2) (x3 : State) (h3 : P x3) :
    OnNext P (execHvRevertBaseline x1 x2 x3) := by
  have c1 := c.sub (K' := 0x20210000000) (by decide)
  have c2 := c.sub (K' := 0x200) (by decide)
  unfold execHvRevertBaseline
  repeat' first
    | with_reducible assumption
    | with_reducible apply OnNext.unit
    | with_reducible apply OnNext.next
    | with_reducible apply OnNext.fault
    | with_reducible apply hvCmdReg_keeps c1
    | with_reducible apply answerWrite_keeps c2
    | with_reducible refine fst_of (by assumption) ?_
    | dsimp -zeta only

theorem hvLines_keeps {P : State → Prop} (c : Closed 0x2000 P) (x1 : State) (x2) (x3) (x4) (h1 : P x1) :
    P (hvLines x1 x2 x3 x4) := by
  induction x4 generalizing x1 x3 with
  | nil => exact h1
  | cons v vs ih => exact ih _ _ (modLine_keeps c _ _ _ _ (fun l hl => setCommitted_clean hl _) h1)

theorem hvHeader_keeps {P : State → Prop} (c : Closed 0x2000 P) (x1 : State) (x2) (x3) (x4) (x5) (h1 : P x1) :
    P (hvHeader x1 x2 x3 x4 x5) := by
  exact modLine_keeps c _ _ _ _ (fun l hl => setCommitted_clean hl _) h1

theorem hvByte0_keeps {P : State → Prop} (c : Closed 0x2000 P) (x1 : State) (x2) (x3) (x4) (x5) (h1 : P x1) :
    P (hvByte0 x1 x2 x3 x4 x5) := by
  unfold hvByte0
  repeat' first
    | with_reducible assumption
    | with_reducible apply hvHeader_keeps c
    | dsimp -zeta only

theorem putHead_keeps {P : State → Prop} (c : Closed 0x400000 P) (x1 : State) (x2) (x3) (x4) (x5) (h1 : P x1) :
    P (putHead x1 x2 x3 x4 x5) := by
  unfold putHead
  repeat' first
    | with_reducible assumption
    | with_reducible apply memPut_keeps c
    | intro _
    | dsimp -zeta only

theorem markCkpt_keeps {P : State → Prop} (c : Closed 0x10000200 P) (x1 : State) (x2) (x3) (h1 : P x1) :
    P (markCkpt x1 x2 x3) := by
  have c1 := c.sub (K' := 0x10000000) (by decide)
  have c2 := c.sub (K' := 0x200) (by decide)
  unfold markCkpt
  repeat' first
    | with_reducible assumption
    | with_reducible apply modHv_keeps c1
    | with_reducible apply emit_keeps c2
    | intro _
    | split
    | dsimp -zeta only

theorem baselineRegion_keeps {P : State → Prop} (c : Closed 0x2000 P) (x1 : State) (x2) (x3) (h1 : P x1) :
    P (baselineRegion x1 x2 x3) := by
  unfold baselineRegion
  repeat' first
    | with_reducible assumption
    | with_reducible apply hvLines_keeps c
    | with_reducible apply hvHeader_keeps c
    | with_reducible refine fun _ => ?_
    | lift_lets -underBinder
    | (intro x; refine (fun hx : P x => ?_) ?_; clear_value x)
    | (intro x; refine (fun hx : P x.2 => ?_) ?_; clear_value x)
    | (intro x; refine (fun hx : P x.1 => ?_) ?_; clear_value x)
    | (intro x; refine (fun hx : P x.s => ?_) ?_; clear_value x)
    | (intro x; clear_value x)
    | dsimp -zeta only
    | dsimp -zeta +zetaDelta only
    | lift_lets
    | dsimp only

theorem revertNow_keeps {P : State → Prop} (c : Closed 0x10402200 P) (x1 : State) (x2) (x3) (h1 : P x1) :
    P (revertNow x1 x2 x3) := by
  have c1 := c.sub (K' := 0x2000) (by decide)
  have c2 := c.sub (K' := 0x10000200) (by decide)
  have c3 := c.sub (K' := 0x10000000) (by decide)
  have c4 := c.sub (K' := 0x400000) (by decide)
  unfold revertNow
  repeat' first
    | with_reducible assumption
    | with_reducible apply hvByte0_keeps c1
    | with_reducible apply markCkpt_keeps c2
    | with_reducible apply modHv_keeps c3
    | with_reducible apply baselineRegion_keeps c1
    | with_reducible apply hvHeader_keeps c1
    | with_reducible apply putHead_keeps c4
    | with_reducible refine fun _ => ?_
    | lift_lets -underBinder
    | (intro x; refine (fun hx : P x => ?_) ?_; clear_value x)
    | (intro x; refine (fun hx : P x.2 => ?_) ?_; clear_value x)
    | (intro x; refine (fun hx : P x.1 => ?_) ?_; clear_value x)
    | (intro x; refine (fun hx : P x.s => ?_) ?_; clear_value x)
    | (intro x; clear_value x)
    | intro _
    | dsimp -zeta only
    | dsimp -zeta +zetaDelta only
    | lift_lets
    | dsimp only

theorem restoreRegion_keeps {P : State → Prop} (c : Closed 0x2000 P) (x1 : State) (x2) (x3) (h1 : P x1) :
    P (restoreRegion x1 x2 x3) := by
  unfold restoreRegion
  repeat' first
    | with_reducible assumption
    | with_reducible apply hvLines_keeps c
    | with_reducible apply baselineRegion_keeps c
    | with_reducible apply hvHeader_keeps c
    | with_reducible refine fun _ => ?_
    | lift_lets -underBinder
    | (intro x; refine (fun hx : P x => ?_) ?_; clear_value x)
    | (intro x; refine (fun hx : P x.2 => ?_) ?_; clear_value x)
    | (intro x; refine (fun hx : P x.1 => ?_) ?_; clear_value x)
    | (intro x; refine (fun hx : P x.s => ?_) ?_; clear_value x)
    | (intro x; clear_value x)
    | split
    | dsimp -zeta only
    | dsimp -zeta +zetaDelta only
    | lift_lets
    | dsimp only

theorem beginCkpt_keeps {P : State → Prop} (c : Closed 0x10000200 P) (x1 : State) (x2) (x3) (x4) (h1 : P x1) :
    P (beginCkpt x1 x2 x3 x4) := by
  have c1 := c.sub (K' := 0x10000000) (by decide)
  unfold beginCkpt
  repeat' first
    | with_reducible assumption
    | with_reducible apply markCkpt_keeps c
    | with_reducible apply modHv_keeps c1
    | with_reducible refine fun _ => ?_
    | lift_lets -underBinder
    | (intro x; refine (fun hx : P x => ?_) ?_; clear_value x)
    | (intro x; refine (fun hx : P x.2 => ?_) ?_; clear_value x)
    | (intro x; refine (fun hx : P x.1 => ?_) ?_; clear_value x)
    | (intro x; refine (fun hx : P x.s => ?_) ?_; clear_value x)
    | (intro x; clear_value x)
    | intro _
    | split
    | dsimp -zeta only
    | dsimp -zeta +zetaDelta only
    | lift_lets
    | dsimp only

theorem hvFlashFail_keeps {P : State → Prop} (c : Closed 0x20210000000 P) (x1 : State) (h1 : P x1) :
    P (hvFlashFail x1) := by
  have c1 := c.sub (K' := 0x10000000) (by decide)
  have c2 := c.sub (K' := 0x20200000000) (by decide)
  unfold hvFlashFail
  repeat' first
    | with_reducible assumption
    | with_reducible apply modHv_keeps c1
    | with_reducible apply raise_keeps c2
    | intro _
    | split
    | dsimp -zeta only

theorem writeCkpt_keeps {P : State → Prop} (c : Closed 0x10000200 P) (x1 : State) (x2) (x3) (x4) (x5) (h1 : P x1) :
    P (writeCkpt x1 x2 x3 x4 x5) := by
  have c1 := c.sub (K' := 0x10000000) (by decide)
  have c2 := c.sub (K' := 0x200) (by decide)
  unfold writeCkpt
  repeat' first
    | with_reducible assumption
    | with_reducible apply markCkpt_keeps c
    | with_reducible apply modHv_keeps c1
    | with_reducible apply emit_keeps c2
    | with_reducible refine fun _ => ?_
    | lift_lets -underBinder
    | (intro x; refine (fun hx : P x => ?_) ?_; clear_value x)
    | (intro x; refine (fun hx : P x.2 => ?_) ?_; clear_value x)
    | (intro x; refine (fun hx : P x.1 => ?_) ?_; clear_value x)
    | (intro x; refine (fun hx : P x.s => ?_) ?_; clear_value x)
    | (intro x; clear_value x)
    | intro _
    | split
    | dsimp -zeta only
    | dsimp -zeta +zetaDelta only
    | lift_lets
    | dsimp only

theorem writeLog_keeps {P : State → Prop} (c : Closed 0x10000200 P) (x1 : State) (x2) (x3) (x4) (x5) (h1 : P x1) :
    P (writeLog x1 x2 x3 x4 x5) := by
  have c1 := c.sub (K' := 0x10000000) (by decide)
  have c2 := c.sub (K' := 0x200) (by decide)
  unfold writeLog
  repeat' first
    | with_reducible assumption
    | with_reducible apply modHv_keeps c1
    | with_reducible apply emit_keeps c2
    | with_reducible refine fun _ => ?_
    | lift_lets -underBinder
    | (intro x; refine (fun hx : P x => ?_) ?_; clear_value x)
    | (intro x; refine (fun hx : P x.2 => ?_) ?_; clear_value x)
    | (intro x; refine (fun hx : P x.1 => ?_) ?_; clear_value x)
    | (intro x; refine (fun hx : P x.s => ?_) ?_; clear_value x)
    | (intro x; clear_value x)
    | with_reducible apply foldl_keeps
    | with_reducible apply foldl_keeps_fst
    | with_reducible apply foldl_keeps_snd
    | intro _
    | split
    | dsimp -zeta only
    | dsimp -zeta +zetaDelta only
    | lift_lets
    | dsimp only

theorem execHarvestCheckpointWrite_keeps {P : State → Prop} (c : Closed 0x28210000200 P) (x1) (x2 : State) (h2 : P x2) :
    OnNext P (execHarvestCheckpointWrite x1 x2) := by
  have c1 := c.sub (K' := 0x10000200) (by decide)
  have c2 := c.sub (K' := 0x20210000000) (by decide)
  have c3 := c.sub (K' := 0x8000000000) (by decide)
  unfold execHarvestCheckpointWrite
  repeat' first
    | with_reducible assumption
    | with_reducible apply OnNext.unit
    | with_reducible apply OnNext.next
    | with_reducible apply OnNext.fault
    | with_reducible apply writeCkpt_keeps c1
    | with_reducible apply hvFlashFail_keeps c2
    | with_reducible apply writeLog_keeps c1
    | with_reducible apply flashFailed_keeps c3
    | split
    | dsimp -zeta only

theorem hvRecord_keeps {P : State → Prop} (c : Closed 0x200000000 P) (x1 : State) (x2) (x3) (x4) (h1 : P x1) :
    P (hvRecord x1 x2 x3 x4) := by
  unfold hvRecord
  repeat' first
    | with_reducible assumption
    | with_reducible apply raiseRecord_keeps c
    | with_reducible refine fun _ => ?_
    | lift_lets -underBinder
    | (intro x; refine (fun hx : P x => ?_) ?_; clear_value x)
    | (intro x; refine (fun hx : P x.2 => ?_) ?_; clear_value x)
    | (intro x; refine (fun hx : P x.1 => ?_) ?_; clear_value x)
    | (intro x; refine (fun hx : P x.s => ?_) ?_; clear_value x)
    | (intro x; clear_value x)
    | split
    | dsimp -zeta only
    | dsimp -zeta +zetaDelta only
    | lift_lets
    | dsimp only

theorem hvEvent_keeps {P : State → Prop} (c : Closed 0x10000000 P) (x1 : State) (x2) (x3) (h1 : P x1) :
    P (hvEvent x1 x2 x3) := by
  unfold hvEvent
  repeat' first
    | with_reducible assumption
    | with_reducible apply modHv_keeps c
    | intro _
    | dsimp -zeta only

theorem closeWindows_keeps {P : State → Prop} (c : Closed 0x10000000 P) (x1 : State) (h1 : P x1) :
    P (closeWindows x1) := by
  unfold closeWindows
  repeat' first
    | with_reducible assumption
    | with_reducible apply modHv_keeps c
    | with_reducible refine fun _ => ?_
    | lift_lets -underBinder
    | (intro x; refine (fun hx : P x => ?_) ?_; clear_value x)
    | (intro x; refine (fun hx : P x.2 => ?_) ?_; clear_value x)
    | (intro x; refine (fun hx : P x.1 => ?_) ?_; clear_value x)
    | (intro x; refine (fun hx : P x.s => ?_) ?_; clear_value x)
    | (intro x; clear_value x)
    | intro _
    | split
    | dsimp -zeta only
    | dsimp -zeta +zetaDelta only
    | lift_lets
    | dsimp only

theorem openWindows_keeps {P : State → Prop} (c : Closed 0x10000000 P) (x1 : State) (h1 : P x1) :
    P (openWindows x1).2 := by
  unfold openWindows
  repeat' first
    | with_reducible assumption
    | with_reducible apply modHv_keeps c
    | with_reducible refine fun _ => ?_
    | lift_lets -underBinder
    | (intro x; refine (fun hx : P x => ?_) ?_; clear_value x)
    | (intro x; refine (fun hx : P x.2 => ?_) ?_; clear_value x)
    | (intro x; refine (fun hx : P x.1 => ?_) ?_; clear_value x)
    | (intro x; refine (fun hx : P x.s => ?_) ?_; clear_value x)
    | (intro x; clear_value x)
    | intro _
    | split
    | dsimp -zeta only
    | dsimp -zeta +zetaDelta only
    | lift_lets
    | dsimp only

theorem endSession_keeps {P : State → Prop} (c : Closed 0x10000000 P) (x1 : State) (x2) (h1 : P x1) :
    P (endSession x1 x2) := by
  unfold endSession
  repeat' first
    | with_reducible assumption
    | with_reducible apply modHv_keeps c
    | with_reducible apply hvEvent_keeps c
    | with_reducible refine fun _ => ?_
    | lift_lets -underBinder
    | (intro x; refine (fun hx : P x => ?_) ?_; clear_value x)
    | (intro x; refine (fun hx : P x.2 => ?_) ?_; clear_value x)
    | (intro x; refine (fun hx : P x.1 => ?_) ?_; clear_value x)
    | (intro x; refine (fun hx : P x.s => ?_) ?_; clear_value x)
    | (intro x; clear_value x)
    | intro _
    | split
    | dsimp -zeta only
    | dsimp -zeta +zetaDelta only
    | lift_lets
    | dsimp only

theorem dropCandidate_keeps {P : State → Prop} (c : Closed 0x10000200 P) (x1 : State) (h1 : P x1) :
    P (dropCandidate x1) := by
  unfold dropCandidate
  repeat' first
    | with_reducible assumption
    | with_reducible apply markCkpt_keeps c
    | split
    | dsimp -zeta only

theorem abandonSession_keeps {P : State → Prop} (c : Closed 0x10000200 P) (x1 : State) (x2) (h1 : P x1) :
    P (abandonSession x1 x2) := by
  have c1 := c.sub (K' := 0x10000000) (by decide)
  unfold abandonSession
  repeat' first
    | with_reducible assumption
    | with_reducible apply dropCandidate_keeps c
    | with_reducible apply endSession_keeps c1
    | dsimp -zeta only

theorem startSession_keeps {P : State → Prop} (c : Closed 0x12000008 P) (x1 : State) (x2) (x3) (h1 : P x1) :
    P (startSession x1 x2 x3) := by
  have c1 := c.sub (K' := 0x8) (by decide)
  have c2 := c.sub (K' := 0x2000000) (by decide)
  have c3 := c.sub (K' := 0x10000000) (by decide)
  unfold startSession
  repeat' first
    | with_reducible assumption
    | with_reducible apply fresh_keeps c1
    | with_reducible apply modCl_keeps c2
    | with_reducible apply modHv_keeps c3
    | with_reducible apply endSession_keeps c3
    | with_reducible apply hvEvent_keeps c3
    | with_reducible refine snd_of (by assumption) ?_
    | with_reducible refine fun _ => ?_
    | lift_lets -underBinder
    | (intro x; refine (fun hx : P x => ?_) ?_; clear_value x)
    | (intro x; refine (fun hx : P x.2 => ?_) ?_; clear_value x)
    | (intro x; refine (fun hx : P x.1 => ?_) ?_; clear_value x)
    | (intro x; refine (fun hx : P x.s => ?_) ?_; clear_value x)
    | (intro x; clear_value x)
    | with_reducible apply foldl_keeps
    | with_reducible apply foldl_keeps_fst
    | with_reducible apply foldl_keeps_snd
    | intro _
    | split
    | dsimp -zeta only
    | dsimp -zeta +zetaDelta only
    | lift_lets
    | dsimp only

theorem adopted_keeps {P : State → Prop} (c : Closed 0x10000200 P) (x1 : State) (x2) (h1 : P x1) :
    P (adopted x1 x2) := by
  have c1 := c.sub (K' := 0x10000000) (by decide)
  unfold adopted
  repeat' first
    | with_reducible assumption
    | with_reducible apply markCkpt_keeps c
    | with_reducible apply modHv_keeps c1
    | with_reducible apply endSession_keeps c1
    | with_reducible refine fun _ => ?_
    | lift_lets -underBinder
    | (intro x; refine (fun hx : P x => ?_) ?_; clear_value x)
    | (intro x; refine (fun hx : P x.2 => ?_) ?_; clear_value x)
    | (intro x; refine (fun hx : P x.1 => ?_) ?_; clear_value x)
    | (intro x; refine (fun hx : P x.s => ?_) ?_; clear_value x)
    | (intro x; clear_value x)
    | intro _
    | split
    | dsimp -zeta only
    | dsimp -zeta +zetaDelta only
    | lift_lets
    | dsimp only

theorem trainStepEnd_keeps {P : State → Prop} (c : Closed 0x10000200 P) (x1 : State) (x2) (x3) (h1 : P x1) :
    P (trainStepEnd x1 x2 x3) := by
  have c1 := c.sub (K' := 0x10000000) (by decide)
  unfold trainStepEnd
  repeat' first
    | with_reducible assumption
    | with_reducible apply modHv_keeps c1
    | with_reducible apply beginCkpt_keeps c
    | with_reducible refine fun _ => ?_
    | lift_lets -underBinder
    | (intro x; refine (fun hx : P x => ?_) ?_; clear_value x)
    | (intro x; refine (fun hx : P x.2 => ?_) ?_; clear_value x)
    | (intro x; refine (fun hx : P x.1 => ?_) ?_; clear_value x)
    | (intro x; refine (fun hx : P x.s => ?_) ?_; clear_value x)
    | (intro x; clear_value x)
    | intro _
    | split
    | dsimp -zeta only
    | dsimp -zeta +zetaDelta only
    | lift_lets
    | dsimp only

theorem hvTransition_keeps {P : State → Prop} (c : Closed 0x12002208 P) (x1 : State) (x2) (x3) (x4) (h1 : P x1) :
    P (hvTransition x1 x2 x3 x4) := by
  have c1 := c.sub (K' := 0x10000000) (by decide)
  have c2 := c.sub (K' := 0x2000) (by decide)
  have c3 := c.sub (K' := 0x10000200) (by decide)
  have c4 := c.sub (K' := 0x12000008) (by decide)
  unfold hvTransition
  repeat' first
    | with_reducible assumption
    | with_reducible apply modHv_keeps c1
    | with_reducible apply restoreRegion_keeps c2
    | with_reducible apply abandonSession_keeps c3
    | with_reducible apply startSession_keeps c4
    | with_reducible apply adopted_keeps c3
    | with_reducible apply endSession_keeps c1
    | with_reducible apply trainStepEnd_keeps c3
    | with_reducible apply beginCkpt_keeps c3
    | with_reducible apply hvEvent_keeps c1
    | with_reducible refine fun _ => ?_
    | lift_lets -underBinder
    | (intro x; refine (fun hx : P x => ?_) ?_; clear_value x)
    | (intro x; refine (fun hx : P x.2 => ?_) ?_; clear_value x)
    | (intro x; refine (fun hx : P x.1 => ?_) ?_; clear_value x)
    | (intro x; refine (fun hx : P x.s => ?_) ?_; clear_value x)
    | (intro x; clear_value x)
    | intro _
    | split
    | dsimp -zeta only
    | dsimp -zeta +zetaDelta only
    | lift_lets
    | dsimp only

theorem hvSeason_keeps {P : State → Prop} (c : Closed 0x10000200 P) (x1 : State) (h1 : P x1) :
    P (hvSeason x1) := by
  have c1 := c.sub (K' := 0x10000000) (by decide)
  unfold hvSeason
  repeat' first
    | with_reducible assumption
    | with_reducible apply modHv_keeps c1
    | with_reducible apply abandonSession_keeps c
    | with_reducible apply hvEvent_keeps c1
    | with_reducible refine fun _ => ?_
    | lift_lets -underBinder
    | (intro x; refine (fun hx : P x => ?_) ?_; clear_value x)
    | (intro x; refine (fun hx : P x.2 => ?_) ?_; clear_value x)
    | (intro x; refine (fun hx : P x.1 => ?_) ?_; clear_value x)
    | (intro x; refine (fun hx : P x.s => ?_) ?_; clear_value x)
    | (intro x; clear_value x)
    | intro _
    | split
    | dsimp -zeta only
    | dsimp -zeta +zetaDelta only
    | lift_lets
    | dsimp only

theorem hvOff_keeps {P : State → Prop} (c : Closed 0x10000200 P) (x1 : State) (h1 : P x1) :
    P (hvOff x1) := by
  have c1 := c.sub (K' := 0x10000000) (by decide)
  unfold hvOff
  repeat' first
    | with_reducible assumption
    | with_reducible apply modHv_keeps c1
    | with_reducible apply abandonSession_keeps c
    | with_reducible refine fun _ => ?_
    | lift_lets -underBinder
    | (intro x; refine (fun hx : P x => ?_) ?_; clear_value x)
    | (intro x; refine (fun hx : P x.2 => ?_) ?_; clear_value x)
    | (intro x; refine (fun hx : P x.1 => ?_) ?_; clear_value x)
    | (intro x; refine (fun hx : P x.s => ?_) ?_; clear_value x)
    | (intro x; clear_value x)
    | intro _
    | split
    | dsimp -zeta only
    | dsimp -zeta +zetaDelta only
    | lift_lets
    | dsimp only

theorem hvRevert_keeps {P : State → Prop} (c : Closed 0x10402200 P) (x1 : State) (x2) (x3) (h1 : P x1) :
    P (hvRevert x1 x2 x3) := by
  have c1 := c.sub (K' := 0x10000000) (by decide)
  have c2 := c.sub (K' := 0x10000200) (by decide)
  unfold hvRevert
  repeat' first
    | with_reducible assumption
    | with_reducible apply modHv_keeps c1
    | with_reducible apply abandonSession_keeps c2
    | with_reducible apply revertNow_keeps c
    | with_reducible apply hvEvent_keeps c1
    | with_reducible refine fun _ => ?_
    | lift_lets -underBinder
    | (intro x; refine (fun hx : P x => ?_) ?_; clear_value x)
    | (intro x; refine (fun hx : P x.2 => ?_) ?_; clear_value x)
    | (intro x; refine (fun hx : P x.1 => ?_) ?_; clear_value x)
    | (intro x; refine (fun hx : P x.s => ?_) ?_; clear_value x)
    | (intro x; clear_value x)
    | intro _
    | split
    | dsimp -zeta only
    | dsimp -zeta +zetaDelta only
    | lift_lets
    | dsimp only

theorem hvRecords_keeps {P : State → Prop} (c : Closed 0x210000000 P) (x1 : State) (x2) (x3) (h1 : P x1) :
    P (hvRecords x1 x2 x3) := by
  have c1 := c.sub (K' := 0x10000000) (by decide)
  have c2 := c.sub (K' := 0x200000000) (by decide)
  unfold hvRecords
  repeat' first
    | with_reducible assumption
    | with_reducible apply modHv_keeps c1
    | with_reducible apply hvRecord_keeps c2
    | with_reducible apply foldl_keeps
    | with_reducible apply foldl_keeps_fst
    | with_reducible apply foldl_keeps_snd
    | intro _
    | dsimp -zeta only

theorem hvLatch_keeps {P : State → Prop} (c : Closed 0x10002000 P) (x1 : State) (x2) (x3) (h1 : P x1) :
    P (hvLatch x1 x2 x3) := by
  have c1 := c.sub (K' := 0x2000) (by decide)
  have c2 := c.sub (K' := 0x10000000) (by decide)
  unfold hvLatch
  repeat' first
    | with_reducible assumption
    | with_reducible apply hvByte0_keeps c1
    | with_reducible apply modHv_keeps c2
    | with_reducible refine fun _ => ?_
    | lift_lets -underBinder
    | (intro x; refine (fun hx : P x => ?_) ?_; clear_value x)
    | (intro x; refine (fun hx : P x.2 => ?_) ?_; clear_value x)
    | (intro x; refine (fun hx : P x.1 => ?_) ?_; clear_value x)
    | (intro x; refine (fun hx : P x.s => ?_) ?_; clear_value x)
    | (intro x; clear_value x)
    | intro _
    | dsimp -zeta only
    | dsimp -zeta +zetaDelta only
    | lift_lets
    | dsimp only

theorem hvEquinox_keeps {P : State → Prop} (c : Closed 0x212402208 P) (x1 : State) (x2) (h1 : P x1) :
    P (hvEquinox x1 x2) := by
  have c1 := c.sub (K' := 0x10000000) (by decide)
  have c2 := c.sub (K' := 0x10002000) (by decide)
  have c3 := c.sub (K' := 0x12002208) (by decide)
  have c4 := c.sub (K' := 0x10402200) (by decide)
  have c5 := c.sub (K' := 0x210000000) (by decide)
  have c6 := c.sub (K' := 0x10000200) (by decide)
  unfold hvEquinox
  repeat' first
    | with_reducible assumption
    | with_reducible apply modHv_keeps c1
    | with_reducible apply hvLatch_keeps c2
    | with_reducible apply hvTransition_keeps c3
    | with_reducible apply hvRevert_keeps c4
    | with_reducible apply hvRecords_keeps c5
    | with_reducible apply closeWindows_keeps c1
    | with_reducible apply hvOff_keeps c6
    | with_reducible apply openWindows_keeps c1
    | with_reducible apply hvSeason_keeps c6
    | with_reducible refine snd_of (by assumption) ?_
    | with_reducible refine fun _ => ?_
    | lift_lets -underBinder
    | (intro x; refine (fun hx : P x => ?_) ?_; clear_value x)
    | (intro x; refine (fun hx : P x.2 => ?_) ?_; clear_value x)
    | (intro x; refine (fun hx : P x.1 => ?_) ?_; clear_value x)
    | (intro x; refine (fun hx : P x.s => ?_) ?_; clear_value x)
    | (intro x; clear_value x)
    | intro _
    | split
    | dsimp -zeta only
    | dsimp -zeta +zetaDelta only
    | lift_lets
    | dsimp only

theorem hvDiscard_keeps {P : State → Prop} (c : Closed 0x10000000 P) (x1 : State) (x2) (h1 : P x1) :
    P (hvDiscard x1 x2) := by
  unfold hvDiscard
  repeat' first
    | with_reducible assumption
    | with_reducible apply modHv_keeps c
    | intro _
    | split
    | dsimp -zeta only

theorem checkCkpt_keeps {P : State → Prop} (c : Closed 0x20210000000 P) (x1 : State) (x2) (h1 : P x1) :
    P (checkCkpt x1 x2) := by
  have c1 := c.sub (K' := 0x10000000) (by decide)
  have c2 := c.sub (K' := 0x20200000000) (by decide)
  unfold checkCkpt
  repeat' first
    | with_reducible assumption
    | with_reducible apply modHv_keeps c1
    | with_reducible apply raise_keeps c2
    | with_reducible refine fun _ => ?_
    | lift_lets -underBinder
    | (intro x; refine (fun hx : P x => ?_) ?_; clear_value x)
    | (intro x; refine (fun hx : P x.2 => ?_) ?_; clear_value x)
    | (intro x; refine (fun hx : P x.1 => ?_) ?_; clear_value x)
    | (intro x; refine (fun hx : P x.s => ?_) ?_; clear_value x)
    | (intro x; clear_value x)
    | intro _
    | split
    | dsimp -zeta only
    | dsimp -zeta +zetaDelta only
    | lift_lets
    | dsimp only

theorem restoreLines_keeps {P : State → Prop} (c : Closed 0x2000 P) (x1 : State) (x2) (x3) (x4) (h1 : P x1) :
    P (restoreLines x1 x2 x3 x4) := by
  induction x4 generalizing x1 x3 with
  | nil => exact h1
  | cons v vs ih => exact ih _ _ (modLine_keeps c _ _ _ _ (fun l hl => mergeLine_clean hl _) h1)

theorem reloadStore_keeps {P : State → Prop} (c : Closed 0x400000 P) (x1 : State) (x2) (x3) (h1 : P x1) :
    P (reloadStore x1 x2 x3) := by
  exact foldl_keeps (fun t e ht => c.set_mem (by decide) _ _ (fun hm => mwf_mset _ _ _ _ hm) ht) _ _ h1

theorem hvRestore_keeps {P : State → Prop} (c : Closed 0x20210402200 P) (x1 : State) (h1 : P x1) :
    P (hvRestore x1) := by
  have c1 := c.sub (K' := 0x20210000000) (by decide)
  have c2 := c.sub (K' := 0x10000000) (by decide)
  have c3 := c.sub (K' := 0x20200000000) (by decide)
  have c4 := c.sub (K' := 0x2000) (by decide)
  have c5 := c.sub (K' := 0x400000) (by decide)
  have c6 := c.sub (K' := 0x10402200) (by decide)
  unfold hvRestore
  repeat' first
    | with_reducible assumption
    | with_reducible apply checkCkpt_keeps c1
    | with_reducible apply modHv_keeps c2
    | with_reducible apply hvSupport_keeps c3
    | with_reducible apply hvHeader_keeps c4
    | with_reducible apply putHead_keeps c5
    | with_reducible apply restoreLines_keeps c4
    | with_reducible apply raise_keeps c3
    | with_reducible apply reloadStore_keeps c5
    | with_reducible apply revertNow_keeps c6
    | with_reducible refine fun _ => ?_
    | lift_lets -underBinder
    | (intro x; refine (fun hx : P x => ?_) ?_; clear_value x)
    | (intro x; refine (fun hx : P x.2 => ?_) ?_; clear_value x)
    | (intro x; refine (fun hx : P x.1 => ?_) ?_; clear_value x)
    | (intro x; refine (fun hx : P x.s => ?_) ?_; clear_value x)
    | (intro x; clear_value x)
    | intro _
    | split
    | dsimp -zeta only
    | dsimp -zeta +zetaDelta only
    | lift_lets
    | dsimp only

end Sys2Proof.Laws
end

