-- ==== Sys2Proof/Laws/KeepsRegRead.lean ====
section
/-! SUPPORT. What each function of Machine/RegRead.lean can change: a predicate closed under its changes survives it. -/
namespace Sys2Proof.Laws
open Sys2Proof Sys2Proof.Machine

theorem regRead_keeps {P : State → Prop} (c : Closed 0x1200000148 P) (x1 : State) (x2) (x3) (h1 : P x1) :
    OnSome (fun y => P y.2) (regRead x1 x2 x3) := by
  have c1 := c.sub (K' := 0x8) (by decide)
  have c2 := c.sub (K' := 0x1000000040) (by decide)
  have c3 := c.sub (K' := 0x40) (by decide)
  have c4 := c.sub (K' := 0x100) (by decide)
  have c5 := c.sub (K' := 0x200000000) (by decide)
  unfold regRead
  repeat' first
    | with_reducible assumption
    | with_reducible apply OnSome.some
    | with_reducible exact OnSome.none
    | with_reducible apply fresh_keeps c1
    | with_reducible apply hkQLo_keeps c2
    | with_reducible apply setHiShadow_keeps c3
    | with_reducible apply logRdData_keeps c4
    | with_reducible apply modRecs_keeps c5
    | with_reducible refine snd_of (by assumption) ?_
    | with_reducible refine fun _ => ?_
    | lift_lets -underBinder
    | (intro x; refine (fun hx : P x => ?_) ?_; clear_value x)
    | (intro x; refine (fun hx : P x.2 => ?_) ?_; clear_value x)
    | (intro x; refine (fun hx : P x.1 => ?_) ?_; clear_value x)
    | (intro x; refine (fun hx : P x.s => ?_) ?_; clear_value x)
    | (intro x; clear_value x)
    | intro _
    | split
    | dsimp -zeta only
    | dsimp -zeta +zetaDelta only
    | lift_lets
    | dsimp only

theorem regRead64_keeps {P : State → Prop} (c : Closed 0x1000000000 P) (x1 : State) (x2) (x3) (h1 : P x1) :
    OnSome (fun y => P y.2.2) (regRead64 x1 x2 x3) := by
  unfold regRead64
  repeat' first
    | with_reducible assumption
    | with_reducible apply OnSome.some
    | with_reducible exact OnSome.none
    | with_reducible apply hkPop_keeps c
    | with_reducible refine snd_of (by assumption) ?_
    | with_reducible refine fun _ => ?_
    | lift_lets -underBinder
    | (intro x; refine (fun hx : P x => ?_) ?_; clear_value x)
    | (intro x; refine (fun hx : P x.2 => ?_) ?_; clear_value x)
    | (intro x; refine (fun hx : P x.1 => ?_) ?_; clear_value x)
    | (intro x; refine (fun hx : P x.s => ?_) ?_; clear_value x)
    | (intro x; clear_value x)
    | split
    | dsimp -zeta only
    | dsimp -zeta +zetaDelta only
    | lift_lets
    | dsimp only

end Sys2Proof.Laws
end

