-- ==== Sys2Proof/Laws/KeepsRegWrite.lean ====
section
/-! SUPPORT. What each function of Machine/RegWrite.lean can change: a predicate closed under its changes survives it. -/
namespace Sys2Proof.Laws
open Sys2Proof Sys2Proof.Machine

theorem shadowWrite_keeps {P : State → Prop} (c : Closed 0xe0000800238 P) (x1 : State) (x2) (x3) (x4) (h1 : P x1) :
    P (shadowWrite x1 x2 x3 x4) := by
  have c1 := c.sub (K' := 0x10) (by decide)
  have c2 := c.sub (K' := 0x60000800000) (by decide)
  have c3 := c.sub (K' := 0x80000000208) (by decide)
  have c4 := c.sub (K' := 0x20) (by decide)
  unfold shadowWrite
  repeat' first
    | with_reducible assumption
    | with_reducible apply rput_keeps c1
    | with_reducible apply loadDefects_keeps c2
    | with_reducible apply rputf_keeps c1
    | with_reducible apply applyCap_keeps c3
    | with_reducible apply rshadow_keeps c4
    | with_reducible refine fun _ => ?_
    | lift_lets -underBinder
    | (intro x; refine (fun hx : P x => ?_) ?_; clear_value x)
    | (intro x; refine (fun hx : P x.2 => ?_) ?_; clear_value x)
    | (intro x; refine (fun hx : P x.1 => ?_) ?_; clear_value x)
    | (intro x; refine (fun hx : P x.s => ?_) ?_; clear_value x)
    | (intro x; clear_value x)
    | split
    | dsimp -zeta only
    | dsimp -zeta +zetaDelta only
    | lift_lets
    | dsimp only

theorem siteOf_keeps {P : State → Prop} (c : Closed 0x8 P) (x1 : State) (x2) (h1 : P x1) :
    P (siteOf x1 x2).2.2 := by
  unfold siteOf
  repeat' first
    | with_reducible assumption
    | with_reducible apply fresh_keeps c
    | with_reducible refine snd_of (by assumption) ?_
    | with_reducible refine fun _ => ?_
    | lift_lets -underBinder
    | (intro x; refine (fun hx : P x => ?_) ?_; clear_value x)
    | (intro x; refine (fun hx : P x.2 => ?_) ?_; clear_value x)
    | (intro x; refine (fun hx : P x.1 => ?_) ?_; clear_value x)
    | (intro x; refine (fun hx : P x.s => ?_) ?_; clear_value x)
    | (intro x; clear_value x)
    | split
    | dsimp -zeta only
    | dsimp -zeta +zetaDelta only
    | lift_lets
    | dsimp only

theorem releaseWith_keeps {P : State → Prop} (c : Closed 0x6020f845830 P) (x1 : State) (x2) (x3) (x4) (x5) (h1 : P x1) :
    P (releaseWith x1 x2 x3 x4 x5) := by
  have c1 := c.sub (K' := 0x60200045810) (by decide)
  have c2 := c.sub (K' := 0x7841030) (by decide)
  have c3 := c.sub (K' := 0x8000000) (by decide)
  unfold releaseWith
  repeat' first
    | with_reducible assumption
    | with_reducible apply readSite_keeps c1
    | with_reducible apply releaseDie_keeps c2
    | with_reducible apply guardSelftest_keeps c3
    | with_reducible refine fun _ => ?_
    | lift_lets -underBinder
    | (intro x; refine (fun hx : P x => ?_) ?_; clear_value x)
    | (intro x; refine (fun hx : P x.2 => ?_) ?_; clear_value x)
    | (intro x; refine (fun hx : P x.1 => ?_) ?_; clear_value x)
    | (intro x; refine (fun hx : P x.s => ?_) ?_; clear_value x)
    | (intro x; clear_value x)
    | split
    | dsimp -zeta only
    | dsimp -zeta +zetaDelta only
    | lift_lets
    | dsimp only

theorem releaseNow_keeps {P : State → Prop} (c : Closed 0x6020f845838 P) (x1 : State) (x2) (h1 : P x1) :
    P (releaseNow x1 x2) := by
  have c1 := c.sub (K' := 0x6020f845830) (by decide)
  have c2 := c.sub (K' := 0x8) (by decide)
  unfold releaseNow
  repeat' first
    | with_reducible assumption
    | with_reducible apply releaseWith_keeps c1
    | with_reducible apply siteOf_keeps c2
    | with_reducible apply fresh_keeps c2
    | with_reducible refine snd_of (by assumption) ?_
    | with_reducible refine fun _ => ?_
    | lift_lets -underBinder
    | (intro x; refine (fun hx : P x => ?_) ?_; clear_value x)
    | (intro x; refine (fun hx : P x.2 => ?_) ?_; clear_value x)
    | (intro x; refine (fun hx : P x.2.2 => ?_) ?_; clear_value x)
    | (intro x; refine (fun hx : P x.1 => ?_) ?_; clear_value x)
    | (intro x; refine (fun hx : P x.s => ?_) ?_; clear_value x)
    | (intro x; clear_value x)
    | split
    | dsimp -zeta only
    | dsimp -zeta +zetaDelta only
    | lift_lets
    | dsimp only

theorem dieHoldWrite_keeps {P : State → Prop} (c : Closed 0x6020fe47838 P) (x1 : State) (x2) (h1 : P x1) :
    P (dieHoldWrite x1 x2) := by
  have c1 := c.sub (K' := 0x6020f845838) (by decide)
  have c2 := c.sub (K' := 0x6020fe47830) (by decide)
  unfold dieHoldWrite
  repeat' first
    | with_reducible assumption
    | with_reducible apply releaseNow_keeps c1
    | with_reducible apply holdDie_keeps c2
    | with_reducible apply foldl_keeps
    | with_reducible apply foldl_keeps_fst
    | with_reducible apply foldl_keeps_snd
    | intro _
    | split
    | dsimp -zeta only

theorem wdtKickNow_keeps {P : State → Prop} (c : Closed 0x20200004000 P) (x1 : State) (x2) (h1 : P x1) :
    P (wdtKickNow x1 x2) := by
  have c1 := c.sub (K' := 0x20200000000) (by decide)
  have c2 := c.sub (K' := 0x4000) (by decide)
  unfold wdtKickNow
  repeat' first
    | with_reducible assumption
    | with_reducible apply raise_keeps c1
    | with_reducible apply modBoot_keeps c2
    | intro _
    | split
    | dsimp -zeta only

theorem resetCtrlNow_keeps {P : State → Prop} (c : Closed 0x10000e3a20024238 P) (x1 : State) (x2) (h1 : P x1) :
    P (resetCtrlNow x1 x2) := by
  have c1 := c.sub (K' := 0x10000e2200024230) (by decide)
  unfold resetCtrlNow
  repeat' first
    | with_reducible assumption
    | with_reducible apply warmCmd_keeps c
    | with_reducible apply coldCmd_keeps c1
    | split
    | dsimp -zeta only

theorem otpAnalogOf_keeps {P : State → Prop} (c : Closed 0x8 P) (x1 : State) (h1 : P x1) :
    P (otpAnalogOf x1).2 := by
  unfold otpAnalogOf
  repeat' first
    | with_reducible assumption
    | with_reducible apply fresh_keeps c
    | with_reducible refine snd_of (by assumption) ?_
    | with_reducible refine fun _ => ?_
    | lift_lets -underBinder
    | (intro x; refine (fun hx : P x => ?_) ?_; clear_value x)
    | (intro x; refine (fun hx : P x.2 => ?_) ?_; clear_value x)
    | (intro x; refine (fun hx : P x.1 => ?_) ?_; clear_value x)
    | (intro x; refine (fun hx : P x.s => ?_) ?_; clear_value x)
    | (intro x; clear_value x)
    | split
    | dsimp -zeta only
    | dsimp -zeta +zetaDelta only
    | lift_lets
    | dsimp only

theorem clearLoops_keeps {P : State → Prop} (c : Closed 0x10 P) (x1 : State) (h1 : P x1) :
    P (clearLoops x1) := by
  unfold clearLoops
  repeat' first
    | with_reducible assumption
    | with_reducible apply rputf_keeps c
    | with_reducible apply foldl_keeps
    | with_reducible apply foldl_keeps_fst
    | with_reducible apply foldl_keeps_snd
    | intro _
    | dsimp -zeta only

theorem afterLcAdvance_keeps {P : State → Prop} (c : Closed 0x10000e2200024230 P) (x1 : State) (x2 : State) (h1 : P x1) (h2 : P x2) :
    P (afterLcAdvance x1 x2) := by
  have c1 := c.sub (K' := 0x10) (by decide)
  unfold afterLcAdvance
  repeat' first
    | with_reducible assumption
    | with_reducible apply clearLoops_keeps c1
    | with_reducible apply coldNow_keeps c
    | split
    | dsimp -zeta only

theorem otpCmdNow_keeps {P : State → Prop} (c : Closed 0x10000e2200024238 P) (x1 : State) (x2) (x3) (h1 : P x1) :
    P (otpCmdNow x1 x2 x3).1 := by
  have c1 := c.sub (K' := 0x20200020000) (by decide)
  have c2 := c.sub (K' := 0x20200020008) (by decide)
  have c3 := c.sub (K' := 0x8) (by decide)
  have c4 := c.sub (K' := 0x10000e2200024230) (by decide)
  unfold otpCmdNow
  repeat' first
    | with_reducible assumption
    | with_reducible apply otpReinforceRow_keeps c1
    | with_reducible apply otpMarginRow_keeps c1
    | with_reducible apply otpKwrapGen_keeps c2
    | with_reducible apply otpAnalogOf_keeps c3
    | with_reducible apply otpPolicyLock_keeps c1
    | with_reducible apply otpRollbackRaise_keeps c2
    | with_reducible apply otpScan_keeps c1
    | with_reducible apply afterLcAdvance_keeps c4
    | with_reducible apply otpLcAdvance_keeps c1
    | with_reducible apply otpProgramRow_keeps c1
    | with_reducible refine snd_of (by assumption) ?_
    | with_reducible refine fun _ => ?_
    | lift_lets -underBinder
    | (intro x; refine (fun hx : P x => ?_) ?_; clear_value x)
    | (intro x; refine (fun hx : P x.2 => ?_) ?_; clear_value x)
    | (intro x; refine (fun hx : P x.1 => ?_) ?_; clear_value x)
    | (intro x; refine (fun hx : P x.s => ?_) ?_; clear_value x)
    | (intro x; clear_value x)
    | split
    | dsimp -zeta only
    | dsimp -zeta +zetaDelta only
    | lift_lets
    | dsimp only

theorem vcoreSetNow_keeps {P : State → Prop} (c : Closed 0x80000000208 P) (x1 : State) (x2) (h1 : P x1) :
    P (vcoreSetNow x1 x2) := by
  have c1 := c.sub (K' := 0x80000000000) (by decide)
  unfold vcoreSetNow
  repeat' first
    | with_reducible assumption
    | with_reducible apply modPower_keeps c1
    | with_reducible apply sendVcore_keeps c
    | with_reducible refine fun _ => ?_
    | lift_lets -underBinder
    | (intro x; refine (fun hx : P x => ?_) ?_; clear_value x)
    | (intro x; refine (fun hx : P x.2 => ?_) ?_; clear_value x)
    | (intro x; refine (fun hx : P x.1 => ?_) ?_; clear_value x)
    | (intro x; refine (fun hx : P x.s => ?_) ?_; clear_value x)
    | (intro x; clear_value x)
    | intro _
    | split
    | dsimp -zeta only
    | dsimp -zeta +zetaDelta only
    | lift_lets
    | dsimp only

theorem fabResetNow_keeps {P : State → Prop} (c : Closed 0x60207a47838 P) (x1 : State) (x2) (x3) (h1 : P x1) :
    P (fabResetNow x1 x2 x3) := by
  have c1 := c.sub (K' := 0x8) (by decide)
  have c2 := c.sub (K' := 0x60207a47830) (by decide)
  unfold fabResetNow
  repeat' first
    | with_reducible assumption
    | with_reducible apply siteOf_keeps c1
    | with_reducible apply dieResetNow_keeps c2
    | with_reducible refine snd_of (by assumption) ?_
    | with_reducible refine fun _ => ?_
    | lift_lets -underBinder
    | (intro x; refine (fun hx : P x => ?_) ?_; clear_value x)
    | (intro x; refine (fun hx : P x.2 => ?_) ?_; clear_value x)
    | (intro x; refine (fun hx : P x.2.2 => ?_) ?_; clear_value x)
    | (intro x; refine (fun hx : P x.1 => ?_) ?_; clear_value x)
    | (intro x; refine (fun hx : P x.s => ?_) ?_; clear_value x)
    | (intro x; clear_value x)
    | split
    | dsimp -zeta only
    | dsimp -zeta +zetaDelta only
    | lift_lets
    | dsimp only

theorem portWrite_keeps {P : State → Prop} (c : Closed 0x60200044a10 P) (x1 : State) (x2) (x3) (x4) (x5) (h1 : P x1) :
    P (portWrite x1 x2 x3 x4 x5) := by
  have c1 := c.sub (K' := 0x60200044810) (by decide)
  have c2 := c.sub (K' := 0x40200) (by decide)
  have c3 := c.sub (K' := 0x10) (by decide)
  unfold portWrite
  repeat' first
    | with_reducible assumption
    | with_reducible apply isolatePort_keeps c1
    | with_reducible apply startRetrain_keeps c2
    | with_reducible apply rput_keeps c3
    | with_reducible refine fun _ => ?_
    | lift_lets -underBinder
    | (intro x; refine (fun hx : P x => ?_) ?_; clear_value x)
    | (intro x; refine (fun hx : P x.2 => ?_) ?_; clear_value x)
    | (intro x; refine (fun hx : P x.1 => ?_) ?_; clear_value x)
    | (intro x; refine (fun hx : P x.s => ?_) ?_; clear_value x)
    | (intro x; clear_value x)
    | split
    | dsimp -zeta only
    | dsimp -zeta +zetaDelta only
    | lift_lets
    | dsimp only

theorem storeThen_keeps {P : State → Prop} (c : Closed 0x10 P) (x1 : State) (x2) (x3) (x4) (x5 : State → State) (h1 : P x1) (h5 : ∀ y0, P y0 → P (x5 y0)) :
    P (storeThen x1 x2 x3 x4 x5).1 := by
  unfold storeThen
  repeat' first
    | with_reducible assumption
    | with_reducible apply rput_keeps c
    | intro _
    | with_reducible apply_assumption
    | dsimp -zeta only

theorem cvWrite_keeps {P : State → Prop} (c : Closed 0x30200000210 P) (x1 : State) (x2) (x3) (x4) (x5) (x6) (h1 : P x1) :
    P (cvWrite x1 x2 x3 x4 x5 x6).1 := by
  have c1 := c.sub (K' := 0x30200000000) (by decide)
  have c2 := c.sub (K' := 0x10) (by decide)
  have c3 := c.sub (K' := 0x10000000000) (by decide)
  unfold cvWrite
  repeat' first
    | with_reducible assumption
    | with_reducible apply cvDataWriteReg_keeps c1
    | with_reducible apply storeThen_keeps c2
    | with_reducible apply cvCtrlWrite_keeps c
    | with_reducible apply cvStateWriteReg_keeps c1
    | with_reducible apply modCv_keeps c3
    | with_reducible refine fst_of (by assumption) ?_
    | intro _
    | split
    | simp only [id_eq]
    | dsimp -zeta only

theorem svcWriteLow_keeps {P : State → Prop} (c : Closed 0x10000e7a3fe67e38 P) (x1 : State) (x2) (x3) (x4) (x5) (h1 : P x1) :
    P (svcWriteLow x1 x2 x3 x4 x5).1 := by
  have c1 := c.sub (K' := 0x10) (by decide)
  have c2 := c.sub (K' := 0x6020fe47838) (by decide)
  have c3 := c.sub (K' := 0xa7a00001208) (by decide)
  have c4 := c.sub (K' := 0x80000000208) (by decide)
  have c5 := c.sub (K' := 0x400) (by decide)
  have c6 := c.sub (K' := 0x20210000000) (by decide)
  have c7 := c.sub (K' := 0x10000e2200024238) (by decide)
  have c8 := c.sub (K' := 0x20000) (by decide)
  have c9 := c.sub (K' := 0x20200004000) (by decide)
  have c10 := c.sub (K' := 0x4000) (by decide)
  have c11 := c.sub (K' := 0x10000e3a20024238) (by decide)
  unfold svcWriteLow
  repeat' split
  all_goals repeat' first
    | with_reducible assumption
    | with_reducible apply storeThen_keeps c1
    | with_reducible apply dieHoldWrite_keeps c2
    | with_reducible apply seasonCmdReg_keeps c3
    | with_reducible apply vcoreSetNow_keeps c4
    | with_reducible apply enterFree_keeps c5
    | with_reducible apply hvCmdReg_keeps c6
    | with_reducible apply otpCmdNow_keeps c7
    | with_reducible apply lockSet_keeps c8
    | with_reducible apply wdtKickNow_keeps c9
    | with_reducible apply modOtp_keeps c8
    | with_reducible apply modBoot_keeps c10
    | with_reducible apply resetCtrlNow_keeps c11
    | with_reducible refine fst_of (by assumption) ?_
    | intro _
    | split
    | (apply otpGrows_same <;> rfl)
    | exact physSet_grows _ _ _
    | exact burnRedir_grows _ _ _
    | simp only [id_eq]
    | dsimp -zeta only

theorem svcWriteIo_keeps {P : State → Prop} (c : Closed 0x6e200044b10 P) (x1 : State) (x2) (x3) (x4) (x5) (h1 : P x1) :
    P (svcWriteIo x1 x2 x3 x4 x5).1 := by
  have c1 := c.sub (K' := 0x28200000200) (by decide)
  have c2 := c.sub (K' := 0x10) (by decide)
  have c3 := c.sub (K' := 0x8000000000) (by decide)
  have c4 := c.sub (K' := 0x60200044a10) (by decide)
  have c5 := c.sub (K' := 0x20000000000) (by decide)
  have c6 := c.sub (K' := 0x2000000200) (by decide)
  have c7 := c.sub (K' := 0x24200000000) (by decide)
  have c8 := c.sub (K' := 0x4200000000) (by decide)
  unfold svcWriteIo
  split
  · exact foOutReg_keeps c6 _ _ _ (rput_keeps c2 _ _ _ h1)
  · exact foFaultReg_keeps c6 _ _ _ h1
  · exact storeThen_keeps c2 _ _ _ _ _ h1 (fun y hy => tmpFollow_keeps c7 _ hy)
  · exact tmpCmdReg_keeps c8 _ _ _ h1
  · exact i2cXferReg_keeps c1 _ _ _ _ _ h1
  · dsimp only
    exact modBus_keeps c3 _ _ h1
  · exact logCmdWrite_keeps c5 _ _ _ h1
  · exact c.set_logRd (by decide) _ _ h1
  · split
    · exact portWrite_keeps c4 _ _ _ _ _ h1
    · exact storeThen_keeps c2 _ _ _ _ _ h1 (fun y hy => hy)

theorem svcWriteHigh_keeps {P : State → Prop} (c : Closed 0x7fa20045f10 P) (x1 : State) (x2) (x3) (x4) (x5) (h1 : P x1) :
    P (svcWriteHigh x1 x2 x3 x4 x5).1 := by
  have c1 := c.sub (K' := 0x10) (by decide)
  have c2 := c.sub (K' := 0x20000200) (by decide)
  have c3 := c.sub (K' := 0x200) (by decide)
  have c4 := c.sub (K' := 0x20220000600) (by decide)
  have c5 := c.sub (K' := 0x800000010) (by decide)
  have c6 := c.sub (K' := 0x30200000210) (by decide)
  have c7 := c.sub (K' := 0x21200000000) (by decide)
  have c8 := c.sub (K' := 0x1000001010) (by decide)
  have c9 := c.sub (K' := 0x1000000000) (by decide)
  have c10 := c.sub (K' := 0x6e200044b10) (by decide)
  unfold svcWriteHigh
  repeat' split
  all_goals repeat' first
    | with_reducible assumption
    | with_reducible apply storeThen_keeps c1
    | with_reducible apply addrFollow_keeps c2
    | with_reducible apply foDrive_keeps c3
    | with_reducible apply netFollow_keeps c4
    | with_reducible apply lstCtrlReg_keeps c5
    | with_reducible apply cvWrite_keeps c6
    | with_reducible apply hkUrgentWrite_keeps c7
    | with_reducible apply hkCtrlWrite_keeps c8
    | with_reducible apply hkMmClrWrite_keeps c9
    | with_reducible apply svcWriteIo_keeps c10
    | with_reducible apply modHk_keeps c9
    | with_reducible refine fst_of (by assumption) ?_
    | intro _
    | split
    | dsimp -zeta only

theorem dieWrite_keeps {P : State → Prop} (c : Closed 0x60207a47a38 P) (x1 : State) (x2) (x3) (x4) (x5) (x6) (h1 : P x1) :
    P (dieWrite x1 x2 x3 x4 x5 x6).1 := by
  have c1 := c.sub (K' := 0x10) (by decide)
  have c2 := c.sub (K' := 0x2000000) (by decide)
  have c3 := c.sub (K' := 0x60200044a10) (by decide)
  have c4 := c.sub (K' := 0x200810) (by decide)
  have c5 := c.sub (K' := 0x60207a47838) (by decide)
  unfold dieWrite
  repeat' first
    | with_reducible assumption
    | with_reducible apply storeThen_keeps c1
    | with_reducible apply modCl_keeps c2
    | with_reducible apply portWrite_keeps c3
    | with_reducible apply fabCtrlReg_keeps c4
    | with_reducible apply fabResetNow_keeps c5
    | with_reducible refine fst_of (by assumption) ?_
    | with_reducible refine fun _ => ?_
    | lift_lets -underBinder
    | (intro x; refine (fun hx : P x => ?_) ?_; clear_value x)
    | (intro x; refine (fun hx : P x.2 => ?_) ?_; clear_value x)
    | (intro x; refine (fun hx : P x.1 => ?_) ?_; clear_value x)
    | (intro x; refine (fun hx : P x.s => ?_) ?_; clear_value x)
    | (intro x; clear_value x)
    | intro _
    | split
    | simp only [id_eq]
    | dsimp -zeta only
    | dsimp -zeta +zetaDelta only
    | lift_lets
    | dsimp only

theorem writeWord_keeps {P : State → Prop} (c : Closed 0x10000ffa3fe67f38 P) (x1 : State) (x2) (x3) (x4) (x5) (h1 : P x1) :
    P (writeWord x1 x2 x3 x4 x5).1 := by
  have c1 := c.sub (K' := 0x60207a47a38) (by decide)
  have c2 := c.sub (K' := 0x10000e7a3fe67e38) (by decide)
  have c3 := c.sub (K' := 0xe0000800238) (by decide)
  have c4 := c.sub (K' := 0x7fa20045f10) (by decide)
  unfold writeWord
  repeat' first
    | with_reducible assumption
    | with_reducible apply dieWrite_keeps c1
    | with_reducible apply svcWriteLow_keeps c2
    | with_reducible apply shadowWrite_keeps c3
    | with_reducible apply svcWriteHigh_keeps c4
    | with_reducible refine fst_of (by assumption) ?_
    | split
    | dsimp -zeta only

theorem stageLo_keeps {P : State → Prop} (c : Closed 0x80 P) (x1 : State) (x2) (x3) (x4) (h1 : P x1) :
    P (stageLo x1 x2 x3 x4) := by
  unfold stageLo
  repeat' first
    | with_reducible assumption
    | with_reducible refine c.set_loStaged (by decide) _ _ ?_
    | dsimp -zeta only

theorem commitHi_keeps {P : State → Prop} (c : Closed 0x90 P) (x1 : State) (x2) (x3) (x4) (h1 : P x1) :
    P (commitHi x1 x2 x3 x4) := by
  have c1 := c.sub (K' := 0x10) (by decide)
  unfold commitHi
  repeat' first
    | with_reducible assumption
    | with_reducible apply rput_keeps c1
    | with_reducible refine c.set_loStaged (by decide) _ _ ?_
    | with_reducible refine fun _ => ?_
    | lift_lets -underBinder
    | (intro x; refine (fun hx : P x => ?_) ?_; clear_value x)
    | (intro x; refine (fun hx : P x.2 => ?_) ?_; clear_value x)
    | (intro x; refine (fun hx : P x.1 => ?_) ?_; clear_value x)
    | (intro x; refine (fun hx : P x.s => ?_) ?_; clear_value x)
    | (intro x; clear_value x)
    | intro _
    | dsimp -zeta only
    | dsimp -zeta +zetaDelta only
    | lift_lets
    | dsimp only

theorem regWriteHere_keeps {P : State → Prop} (c : Closed 0x10000ffa3fe67fb8 P) (x1 : State) (x2) (x3) (x4) (h1 : P x1) :
    P (regWriteHere x1 x2 x3 x4).1 := by
  have c1 := c.sub (K' := 0x10000ffa3fe67f38) (by decide)
  have c2 := c.sub (K' := 0x80) (by decide)
  have c3 := c.sub (K' := 0x90) (by decide)
  unfold regWriteHere
  repeat' first
    | with_reducible assumption
    | with_reducible apply writeWord_keeps c1
    | with_reducible apply stageLo_keeps c2
    | with_reducible apply commitHi_keeps c3
    | with_reducible refine fst_of (by assumption) ?_
    | split
    | dsimp -zeta only

theorem regWrite_keeps {P : State → Prop} (c : Closed 0x10000ffa3fe67fb8 P) (x1 : State) (x2) (x3) (x4) (h1 : P x1) :
    P (regWrite x1 x2 x3 x4).1 := by
  unfold regWrite
  repeat' first
    | with_reducible assumption
    | with_reducible apply regWriteHere_keeps c
    | with_reducible refine fst_of (by assumption) ?_
    | split
    | dsimp -zeta only

end Sys2Proof.Laws
end

