-- ==== Sys2Proof/Laws/KeepsBootOps.lean ====
section
/-! SUPPORT. What each function of Machine/BootOps.lean can change: a predicate closed under its changes survives it. -/
namespace Sys2Proof.Laws
open Sys2Proof Sys2Proof.Machine

theorem bootTo_keeps {P : State → Prop} (c : Closed 0x4000 P) (x1 : State) (x2) (h1 : P x1) :
    P (bootTo x1 x2) := by
  unfold bootTo
  repeat' first
    | with_reducible assumption
    | with_reducible apply modBoot_keeps c
    | intro _
    | dsimp -zeta only

theorem writeDesc_keeps {P : State → Prop} (c : Closed 0xc200 P) (x1 : State) (x2) (h1 : P x1) :
    P (writeDesc x1 x2) := by
  have c1 := c.sub (K' := 0x200) (by decide)
  have c2 := c.sub (K' := 0x8000) (by decide)
  have c3 := c.sub (K' := 0x4000) (by decide)
  unfold writeDesc
  repeat' first
    | with_reducible assumption
    | with_reducible apply emit_keeps c1
    | with_reducible apply modFlash_keeps c2
    | with_reducible apply modBoot_keeps c3
    | with_reducible refine fun _ => ?_
    | lift_lets -underBinder
    | (intro x; refine (fun hx : P x => ?_) ?_; clear_value x)
    | (intro x; refine (fun hx : P x.2 => ?_) ?_; clear_value x)
    | (intro x; refine (fun hx : P x.1 => ?_) ?_; clear_value x)
    | (intro x; refine (fun hx : P x.s => ?_) ?_; clear_value x)
    | (intro x; clear_value x)
    | intro _
    | split
    | dsimp -zeta only
    | dsimp -zeta +zetaDelta only
    | lift_lets
    | dsimp only

theorem loadKeys_keeps {P : State → Prop} (c : Closed 0x40000000 P) (x1 : State) (h1 : P x1) :
    P (loadKeys x1) := by
  unfold loadKeys
  repeat' first
    | with_reducible assumption
    | with_reducible apply modBcp_keeps c
    | with_reducible refine fun _ => ?_
    | lift_lets -underBinder
    | (intro x; refine (fun hx : P x => ?_) ?_; clear_value x)
    | (intro x; refine (fun hx : P x.2 => ?_) ?_; clear_value x)
    | (intro x; refine (fun hx : P x.1 => ?_) ?_; clear_value x)
    | (intro x; refine (fun hx : P x.s => ?_) ?_; clear_value x)
    | (intro x; clear_value x)
    | intro _
    | split
    | dsimp -zeta only
    | dsimp -zeta +zetaDelta only
    | lift_lets
    | dsimp only

theorem dormantNow_keeps {P : State → Prop} (c : Closed 0xa7a60005208 P) (x1 : State) (x2) (h1 : P x1) :
    P (dormantNow x1 x2) := by
  have c1 := c.sub (K' := 0x40000000) (by decide)
  have c2 := c.sub (K' := 0x20000200) (by decide)
  have c3 := c.sub (K' := 0x20000000) (by decide)
  have c4 := c.sub (K' := 0x4000) (by decide)
  have c5 := c.sub (K' := 0xa7a00001208) (by decide)
  unfold dormantNow
  repeat' first
    | with_reducible assumption
    | with_reducible apply loadKeys_keeps c1
    | with_reducible apply addrFollow_keeps c2
    | with_reducible apply modNet_keeps c3
    | with_reducible apply modBoot_keeps c4
    | with_reducible apply seasonTo_keeps c5
    | with_reducible refine fun _ => ?_
    | lift_lets -underBinder
    | (intro x; refine (fun hx : P x => ?_) ?_; clear_value x)
    | (intro x; refine (fun hx : P x.2 => ?_) ?_; clear_value x)
    | (intro x; refine (fun hx : P x.1 => ?_) ?_; clear_value x)
    | (intro x; refine (fun hx : P x.s => ?_) ?_; clear_value x)
    | (intro x; clear_value x)
    | intro _
    | dsimp -zeta only
    | dsimp -zeta +zetaDelta only
    | lift_lets
    | dsimp only

theorem applyEntry_keeps {P : State → Prop} (c : Closed 0x10000ffa3fe67fb8 P) (x1 : State) (x2) (h1 : P x1) :
    P (applyEntry x1 x2) := by
  have c1 := c.sub (K' := 0x20200000000) (by decide)
  unfold applyEntry
  repeat' first
    | with_reducible assumption
    | with_reducible apply regWriteHere_keeps c
    | with_reducible apply raise_keeps c1
    | with_reducible refine fst_of (by assumption) ?_
    | with_reducible refine fun _ => ?_
    | lift_lets -underBinder
    | (intro x; refine (fun hx : P x => ?_) ?_; clear_value x)
    | (intro x; refine (fun hx : P x.2 => ?_) ?_; clear_value x)
    | (intro x; refine (fun hx : P x.1 => ?_) ?_; clear_value x)
    | (intro x; refine (fun hx : P x.s => ?_) ?_; clear_value x)
    | (intro x; clear_value x)
    | split
    | dsimp -zeta only
    | dsimp -zeta +zetaDelta only
    | lift_lets
    | dsimp only

theorem applyConfig_keeps {P : State → Prop} (c : Closed 0x10000ffa3fe77fb8 P) (x1 : State) (h1 : P x1) :
    P (applyConfig x1) := by
  have c1 := c.sub (K' := 0x10000ffa3fe67fb8) (by decide)
  unfold applyConfig
  exact c.set_img (by decide) _ _ (foldl_keeps (fun t e ht => applyEntry_keeps c1 _ _ ht) _ _ h1)

theorem applyDieEntries_keeps {P : State → Prop} (c : Closed 0x10000ffa3fe67fb8 P) (x1 : State) (x2) (h1 : P x1) :
    P (applyDieEntries x1 x2) := by
  unfold applyDieEntries
  repeat' first
    | with_reducible assumption
    | with_reducible apply applyEntry_keeps c
    | with_reducible apply foldl_keeps
    | with_reducible apply foldl_keeps_fst
    | with_reducible apply foldl_keeps_snd
    | intro _
    | dsimp -zeta only

theorem applyReadyEntries_keeps {P : State → Prop} (c : Closed 0x10000ffa3fe67fb8 P) (x1 : State) (h1 : P x1) :
    P (applyReadyEntries x1) := by
  have c1 := c.sub (K' := 0x20200000000) (by decide)
  refine foldl_keeps (fun t e ht => ?_) _ _ h1
  split
  · split
    · exact applyEntry_keeps c _ _ ht
    · exact raise_keeps c1 _ _ _ _ _ _ ht
  · exact raise_keeps c1 _ _ _ _ _ _ ht

theorem setCause_keeps {P : State → Prop} (c : Closed 0x4000 P) (x1 : State) (x2) (x3) (h1 : P x1) :
    P (setCause x1 x2 x3) := by
  unfold setCause
  repeat' first
    | with_reducible assumption
    | with_reducible apply modBoot_keeps c
    | intro _
    | split
    | dsimp -zeta only

theorem runSlot_keeps {P : State → Prop} (c : Closed 0x14800 P) (x1 : State) (x2) (x3) (h1 : P x1) :
    P (runSlot x1 x2 x3) := by
  have c1 := c.sub (K' := 0x800) (by decide)
  have c2 := c.sub (K' := 0x10000) (by decide)
  have c3 := c.sub (K' := 0x4000) (by decide)
  unfold runSlot
  repeat' first
    | with_reducible assumption
    | with_reducible apply modSeq_keeps c1
    | with_reducible apply modImg_keeps c2
    | with_reducible apply modBoot_keeps c3
    | with_reducible refine fun _ => ?_
    | lift_lets -underBinder
    | (intro x; refine (fun hx : P x => ?_) ?_; clear_value x)
    | (intro x; refine (fun hx : P x.2 => ?_) ?_; clear_value x)
    | (intro x; refine (fun hx : P x.1 => ?_) ?_; clear_value x)
    | (intro x; refine (fun hx : P x.s => ?_) ?_; clear_value x)
    | (intro x; clear_value x)
    | intro _
    | dsimp -zeta only
    | dsimp -zeta +zetaDelta only
    | lift_lets
    | dsimp only

theorem chooseSlot_keeps {P : State → Prop} (c : Closed 0xa7a6001da08 P) (x1 : State) (x2) (x3) (x4) (h1 : P x1) :
    P (chooseSlot x1 x2 x3 x4) := by
  have c1 := c.sub (K' := 0x14800) (by decide)
  have c2 := c.sub (K' := 0x4000) (by decide)
  have c3 := c.sub (K' := 0x8) (by decide)
  have c4 := c.sub (K' := 0xc200) (by decide)
  have c5 := c.sub (K' := 0xa7a60005208) (by decide)
  have c6 := c.sub (K' := 0x8000) (by decide)
  have c7 := c.sub (K' := 0x20200000000) (by decide)
  unfold chooseSlot
  repeat' first
    | with_reducible assumption
    | with_reducible apply runSlot_keeps c1
    | with_reducible apply setCause_keeps c2
    | with_reducible apply fresh_keeps c3
    | with_reducible apply writeDesc_keeps c4
    | with_reducible apply dormantNow_keeps c5
    | with_reducible apply modFlash_keeps c6
    | with_reducible apply raise_keeps c7
    | with_reducible refine snd_of (by assumption) ?_
    | with_reducible refine fun _ => ?_
    | lift_lets -underBinder
    | (intro x; refine (fun hx : P x => ?_) ?_; clear_value x)
    | (intro x; refine (fun hx : P x.2 => ?_) ?_; clear_value x)
    | (intro x; refine (fun hx : P x.1 => ?_) ?_; clear_value x)
    | (intro x; refine (fun hx : P x.s => ?_) ?_; clear_value x)
    | (intro x; clear_value x)
    | intro _
    | split
    | dsimp -zeta only
    | dsimp -zeta +zetaDelta only
    | lift_lets
    | dsimp only

theorem loadSegments_keeps {P : State → Prop} (c : Closed 0x2000030 P) (x1 : State) (x2) (x3) (h1 : P x1) :
    P (loadSegments x1 x2 x3) := by
  have c1 := c.sub (K' := 0x10) (by decide)
  have c2 := c.sub (K' := 0x2000000) (by decide)
  have c3 := c.sub (K' := 0x30) (by decide)
  unfold loadSegments
  repeat' first
    | with_reducible assumption
    | with_reducible apply rput_keeps c1
    | with_reducible apply modComp_keeps c2
    | with_reducible apply rclear_keeps c3
    | with_reducible refine fun _ => ?_
    | lift_lets -underBinder
    | (intro x; refine (fun hx : P x => ?_) ?_; clear_value x)
    | (intro x; refine (fun hx : P x.2 => ?_) ?_; clear_value x)
    | (intro x; refine (fun hx : P x.1 => ?_) ?_; clear_value x)
    | (intro x; refine (fun hx : P x.s => ?_) ?_; clear_value x)
    | (intro x; clear_value x)
    | with_reducible apply foldl_keeps
    | with_reducible apply foldl_keeps_fst
    | with_reducible apply foldl_keeps_snd
    | intro _
    | split
    | dsimp -zeta only
    | dsimp -zeta +zetaDelta only
    | lift_lets
    | dsimp only

theorem detFollow_keeps {P : State → Prop} (c : Closed 0x4000000 P) (x1 : State) (x2) (h1 : P x1) :
    P (detFollow x1 x2) := by
  unfold detFollow
  repeat' first
    | with_reducible assumption
    | with_reducible apply modDet_keeps c
    | with_reducible refine fun _ => ?_
    | lift_lets -underBinder
    | (intro x; refine (fun hx : P x => ?_) ?_; clear_value x)
    | (intro x; refine (fun hx : P x.2 => ?_) ?_; clear_value x)
    | (intro x; refine (fun hx : P x.1 => ?_) ?_; clear_value x)
    | (intro x; refine (fun hx : P x.s => ?_) ?_; clear_value x)
    | (intro x; clear_value x)
    | intro _
    | split
    | dsimp -zeta only
    | dsimp -zeta +zetaDelta only
    | lift_lets
    | dsimp only

theorem placeDie_keeps {P : State → Prop} (c : Closed 0x6000000 P) (x1 : State) (x2) (x3) (h1 : P x1) :
    P (placeDie x1 x2 x3) := by
  have c1 := c.sub (K' := 0x4000000) (by decide)
  have c2 := c.sub (K' := 0x2000000) (by decide)
  unfold placeDie
  repeat' first
    | with_reducible assumption
    | with_reducible apply detFollow_keeps c1
    | with_reducible apply modComp_keeps c2
    | with_reducible refine fun _ => ?_
    | lift_lets -underBinder
    | (intro x; refine (fun hx : P x => ?_) ?_; clear_value x)
    | (intro x; refine (fun hx : P x.2 => ?_) ?_; clear_value x)
    | (intro x; refine (fun hx : P x.1 => ?_) ?_; clear_value x)
    | (intro x; refine (fun hx : P x.s => ?_) ?_; clear_value x)
    | (intro x; clear_value x)
    | intro _
    | dsimp -zeta only
    | dsimp -zeta +zetaDelta only
    | lift_lets
    | dsimp only

theorem setupCd_keeps {P : State → Prop} (c : Closed 0x6200830 P) (x1 : State) (x2) (h1 : P x1) :
    P (setupCd x1 x2) := by
  have c1 := c.sub (K' := 0x200810) (by decide)
  have c2 := c.sub (K' := 0x6000000) (by decide)
  have c3 := c.sub (K' := 0x2000030) (by decide)
  have c4 := c.sub (K' := 0x10) (by decide)
  have c5 := c.sub (K' := 0x20) (by decide)
  unfold setupCd
  repeat' first
    | with_reducible assumption
    | with_reducible apply fabCtrl_keeps c1
    | with_reducible apply placeDie_keeps c2
    | with_reducible apply loadSegments_keeps c3
    | with_reducible apply rput_keeps c4
    | with_reducible apply rshadow_keeps c5
    | with_reducible refine fun _ => ?_
    | lift_lets -underBinder
    | (intro x; refine (fun hx : P x => ?_) ?_; clear_value x)
    | (intro x; refine (fun hx : P x.2 => ?_) ?_; clear_value x)
    | (intro x; refine (fun hx : P x.1 => ?_) ?_; clear_value x)
    | (intro x; refine (fun hx : P x.s => ?_) ?_; clear_value x)
    | (intro x; clear_value x)
    | with_reducible apply foldl_keeps
    | with_reducible apply foldl_keeps_fst
    | with_reducible apply foldl_keeps_snd
    | intro _
    | split
    | dsimp -zeta only
    | dsimp -zeta +zetaDelta only
    | lift_lets
    | dsimp only

theorem setupEye_keeps {P : State → Prop} (c : Closed 0x60000800008 P) (x1 : State) (h1 : P x1) :
    P (setupEye x1) := by
  have c1 := c.sub (K' := 0x8) (by decide)
  have c2 := c.sub (K' := 0x60000000000) (by decide)
  have c3 := c.sub (K' := 0x60000800000) (by decide)
  have c4 := c.sub (K' := 0x800000) (by decide)
  unfold setupEye
  repeat' first
    | with_reducible assumption
    | with_reducible apply fresh_keeps c1
    | with_reducible apply logOnly_keeps c2
    | with_reducible apply loadDefects_keeps c3
    | with_reducible apply modEye_keeps c4
    | with_reducible refine snd_of (by assumption) ?_
    | with_reducible refine fun _ => ?_
    | lift_lets -underBinder
    | (intro x; refine (fun hx : P x => ?_) ?_; clear_value x)
    | (intro x; refine (fun hx : P x.2 => ?_) ?_; clear_value x)
    | (intro x; refine (fun hx : P x.1 => ?_) ?_; clear_value x)
    | (intro x; refine (fun hx : P x.s => ?_) ?_; clear_value x)
    | (intro x; clear_value x)
    | with_reducible apply foldl_keeps
    | with_reducible apply foldl_keeps_fst
    | with_reducible apply foldl_keeps_snd
    | intro _
    | dsimp -zeta only
    | dsimp -zeta +zetaDelta only
    | lift_lets
    | dsimp only

theorem setupDie_keeps {P : State → Prop} (c : Closed 0x10000ffa3fe67fb8 P) (x1 : State) (x2) (h1 : P x1) :
    P (setupDie x1 x2) := by
  have c1 := c.sub (K' := 0x6200830) (by decide)
  have c2 := c.sub (K' := 0x60000800008) (by decide)
  unfold setupDie
  repeat' first
    | with_reducible assumption
    | with_reducible apply applyDieEntries_keeps c
    | with_reducible apply setupCd_keeps c1
    | with_reducible apply setupEye_keeps c2
    | split
    | dsimp -zeta only

theorem linksDone_keeps {P : State → Prop} (c : Closed 0x60208045810 P) (x1 : State) (x2) (x3) (h1 : P x1) :
    P (linksDone x1 x2 x3) := by
  have c1 := c.sub (K' := 0x60200045810) (by decide)
  have c2 := c.sub (K' := 0x1000) (by decide)
  have c3 := c.sub (K' := 0x10) (by decide)
  have c4 := c.sub (K' := 0x8000000) (by decide)
  have c5 := c.sub (K' := 0x20200000000) (by decide)
  have c6 := c.sub (K' := 0x4000) (by decide)
  unfold linksDone
  repeat' first
    | with_reducible assumption
    | with_reducible apply readSite_keeps c1
    | with_reducible apply modDie_keeps c2
    | with_reducible apply loadRoutes_keeps c3
    | with_reducible apply guardSelftest_keeps c4
    | with_reducible apply raise_keeps c5
    | with_reducible apply modBoot_keeps c6
    | with_reducible refine fun _ => ?_
    | lift_lets -underBinder
    | (intro x; refine (fun hx : P x => ?_) ?_; clear_value x)
    | (intro x; refine (fun hx : P x.2 => ?_) ?_; clear_value x)
    | (intro x; refine (fun hx : P x.1 => ?_) ?_; clear_value x)
    | (intro x; refine (fun hx : P x.s => ?_) ?_; clear_value x)
    | (intro x; clear_value x)
    | with_reducible apply foldl_keeps
    | with_reducible apply foldl_keeps_fst
    | with_reducible apply foldl_keeps_snd
    | intro _
    | split
    | dsimp -zeta only
    | dsimp -zeta +zetaDelta only
    | lift_lets
    | dsimp only

theorem recogDone_keeps {P : State → Prop} (c : Closed 0x20a00004000 P) (x1 : State) (x2) (x3) (h1 : P x1) :
    P (recogDone x1 x2 x3) := by
  have c1 := c.sub (K' := 0x800000000) (by decide)
  have c2 := c.sub (K' := 0x20200000000) (by decide)
  have c3 := c.sub (K' := 0x4000) (by decide)
  unfold recogDone
  repeat' first
    | with_reducible assumption
    | with_reducible apply modLst_keeps c1
    | with_reducible apply raise_keeps c2
    | with_reducible apply modBoot_keeps c3
    | intro _
    | split
    | dsimp -zeta only

theorem slotFails_keeps {P : State → Prop} (c : Closed 0x10000e3a20024238 P) (x1 : State) (x2) (h1 : P x1) :
    P (slotFails x1 x2) := by
  have c1 := c.sub (K' := 0x4000) (by decide)
  have c2 := c.sub (K' := 0x10) (by decide)
  unfold slotFails
  repeat' first
    | with_reducible assumption
    | with_reducible apply setCause_keeps c1
    | with_reducible apply rput_keeps c2
    | with_reducible apply warmNow_keeps c
    | split
    | dsimp -zeta only

theorem weightsDone_keeps {P : State → Prop} (c : Closed 0x10000ffa3fe67fb8 P) (x1 : State) (h1 : P x1) :
    P (weightsDone x1) := by
  have c1 := c.sub (K' := 0x1000) (by decide)
  have c2 := c.sub (K' := 0x20210402200) (by decide)
  have c3 := c.sub (K' := 0x6200830) (by decide)
  have c4 := c.sub (K' := 0x60000800008) (by decide)
  unfold weightsDone
  repeat' first
    | with_reducible assumption
    | with_reducible apply modDie_keeps c1
    | with_reducible apply applyReadyEntries_keeps c
    | with_reducible apply hvRestore_keeps c2
    | with_reducible apply setupCd_keeps c3
    | with_reducible apply setupEye_keeps c4
    | with_reducible refine fun _ => ?_
    | lift_lets -underBinder
    | (intro x; refine (fun hx : P x => ?_) ?_; clear_value x)
    | (intro x; refine (fun hx : P x.2 => ?_) ?_; clear_value x)
    | (intro x; refine (fun hx : P x.1 => ?_) ?_; clear_value x)
    | (intro x; refine (fun hx : P x.s => ?_) ?_; clear_value x)
    | (intro x; clear_value x)
    | with_reducible apply foldl_keeps
    | with_reducible apply foldl_keeps_fst
    | with_reducible apply foldl_keeps_snd
    | intro _
    | split
    | dsimp -zeta only
    | dsimp -zeta +zetaDelta only
    | lift_lets
    | dsimp only

theorem stepDone_keeps {P : State → Prop} (c : Closed 0x4800 P) (x1 : State) (x2) (h1 : P x1) :
    P (stepDone x1 x2) := by
  have c1 := c.sub (K' := 0x800) (by decide)
  have c2 := c.sub (K' := 0x4000) (by decide)
  unfold stepDone
  repeat' first
    | with_reducible assumption
    | with_reducible apply modSeq_keeps c1
    | with_reducible apply modBoot_keeps c2
    | with_reducible refine fun _ => ?_
    | lift_lets -underBinder
    | (intro x; refine (fun hx : P x => ?_) ?_; clear_value x)
    | (intro x; refine (fun hx : P x.2 => ?_) ?_; clear_value x)
    | (intro x; refine (fun hx : P x.1 => ?_) ?_; clear_value x)
    | (intro x; refine (fun hx : P x.s => ?_) ?_; clear_value x)
    | (intro x; clear_value x)
    | intro _
    | split
    | dsimp -zeta only
    | dsimp -zeta +zetaDelta only
    | lift_lets
    | dsimp only

end Sys2Proof.Laws
end

