-- ==== Sys2Proof/Laws/KeepsBcpOps.lean ====
section
/-! SUPPORT. What each function of Machine/BcpOps.lean can change: a predicate closed under its changes survives it. -/
namespace Sys2Proof.Laws
open Sys2Proof Sys2Proof.Machine

theorem authOk_keeps {P : State → Prop} (c : Closed 0x8 P) (x1 : State) (x2) (x3) (x4) (x5) (h1 : P x1) :
    P (authOk x1 x2 x3 x4 x5).2 := by
  unfold authOk
  repeat' first
    | with_reducible assumption
    | with_reducible apply fresh_keeps c
    | with_reducible refine snd_of (by assumption) ?_
    | with_reducible refine fun _ => ?_
    | lift_lets -underBinder
    | (intro x; refine (fun hx : P x => ?_) ?_; clear_value x)
    | (intro x; refine (fun hx : P x.2 => ?_) ?_; clear_value x)
    | (intro x; refine (fun hx : P x.1 => ?_) ?_; clear_value x)
    | (intro x; refine (fun hx : P x.s => ?_) ?_; clear_value x)
    | (intro x; clear_value x)
    | split
    | dsimp -zeta only
    | dsimp -zeta +zetaDelta only
    | lift_lets
    | dsimp only

theorem bcpEmit_keeps {P : State → Prop} (c : Closed 0x200 P) (x1 : State) (x2) (x3) (x4) (h1 : P x1) :
    P (bcpEmit x1 x2 x3 x4) := by
  unfold bcpEmit
  repeat' first
    | with_reducible assumption
    | with_reducible apply emit_keeps c
    | split
    | dsimp -zeta only

theorem modSession_keeps {P : State → Prop} (c : Closed 0x40000000 P) (x1 : State) (x2) (x3) (h1 : P x1) :
    P (modSession x1 x2 x3) := by
  unfold modSession
  repeat' first
    | with_reducible assumption
    | with_reducible apply modBcp_keeps c
    | intro _
    | split
    | dsimp -zeta only

theorem keepAnswer_keeps {P : State → Prop} (c : Closed 0x40000000 P) (x1 : State) (x2) (x3) (h1 : P x1) :
    P (keepAnswer x1 x2 x3) := by
  unfold keepAnswer
  repeat' first
    | with_reducible assumption
    | with_reducible apply modSession_keeps c
    | intro _
    | split
    | dsimp -zeta only

theorem reply_keeps {P : State → Prop} (c : Closed 0x40000200 P) (x1 : State) (x2) (x3) (x4) (h1 : P x1) :
    P (reply x1 x2 x3 x4) := by
  have c1 := c.sub (K' := 0x40000000) (by decide)
  have c2 := c.sub (K' := 0x200) (by decide)
  unfold reply
  repeat' first
    | with_reducible assumption
    | with_reducible apply keepAnswer_keeps c1
    | with_reducible apply bcpEmit_keeps c2
    | with_reducible refine fun _ => ?_
    | lift_lets -underBinder
    | (intro x; refine (fun hx : P x => ?_) ?_; clear_value x)
    | (intro x; refine (fun hx : P x.2 => ?_) ?_; clear_value x)
    | (intro x; refine (fun hx : P x.1 => ?_) ?_; clear_value x)
    | (intro x; refine (fun hx : P x.s => ?_) ?_; clear_value x)
    | (intro x; clear_value x)
    | split
    | dsimp -zeta only
    | dsimp -zeta +zetaDelta only
    | lift_lets
    | dsimp only

theorem refuse_keeps {P : State → Prop} (c : Closed 0x40000200 P) (x1 : State) (x2) (x3) (h1 : P x1) :
    P (refuse x1 x2 x3) := by
  unfold refuse
  repeat' first
    | with_reducible assumption
    | with_reducible apply reply_keeps c
    | split
    | dsimp -zeta only

theorem floodLog_keeps {P : State → Prop} (c : Closed 0x20240000000 P) (x1 : State) (h1 : P x1) :
    P (floodLog x1) := by
  have c1 := c.sub (K' := 0x40000000) (by decide)
  have c2 := c.sub (K' := 0x20200000000) (by decide)
  unfold floodLog
  repeat' first
    | with_reducible assumption
    | with_reducible apply modBcp_keeps c1
    | with_reducible apply raise_keeps c2
    | intro _
    | split
    | dsimp -zeta only

theorem dropAuth_keeps {P : State → Prop} (c : Closed 0x20240000000 P) (x1 : State) (h1 : P x1) :
    P (dropAuth x1) := by
  have c1 := c.sub (K' := 0x40000000) (by decide)
  unfold dropAuth
  repeat' first
    | with_reducible assumption
    | with_reducible apply modBcp_keeps c1
    | with_reducible apply floodLog_keeps c
    | intro _
    | dsimp -zeta only

theorem dropRate_keeps {P : State → Prop} (c : Closed 0x20240000000 P) (x1 : State) (h1 : P x1) :
    P (dropRate x1) := by
  have c1 := c.sub (K' := 0x40000000) (by decide)
  unfold dropRate
  repeat' first
    | with_reducible assumption
    | with_reducible apply modBcp_keeps c1
    | with_reducible apply floodLog_keeps c
    | intro _
    | dsimp -zeta only

theorem dropMalformed_keeps {P : State → Prop} (c : Closed 0x40000000 P) (x1 : State) (h1 : P x1) :
    P (dropMalformed x1) := by
  unfold dropMalformed
  repeat' first
    | with_reducible assumption
    | with_reducible apply modBcp_keeps c
    | intro _
    | dsimp -zeta only

theorem rateAll_keeps {P : State → Prop} (c : Closed 0x40000000 P) (x1 : State) (h1 : P x1) :
    P (rateAll x1).2 := by
  unfold rateAll
  repeat' first
    | with_reducible assumption
    | with_reducible apply modBcp_keeps c
    | with_reducible refine fun _ => ?_
    | lift_lets -underBinder
    | (intro x; refine (fun hx : P x => ?_) ?_; clear_value x)
    | (intro x; refine (fun hx : P x.2 => ?_) ?_; clear_value x)
    | (intro x; refine (fun hx : P x.1 => ?_) ?_; clear_value x)
    | (intro x; refine (fun hx : P x.s => ?_) ?_; clear_value x)
    | (intro x; clear_value x)
    | intro _
    | split
    | dsimp -zeta only
    | dsimp -zeta +zetaDelta only
    | lift_lets
    | dsimp only

theorem rateSession_keeps {P : State → Prop} (c : Closed 0x40000000 P) (x1 : State) (x2) (h1 : P x1) :
    P (rateSession x1 x2).2 := by
  unfold rateSession
  repeat' first
    | with_reducible assumption
    | with_reducible apply modSession_keeps c
    | with_reducible refine fun _ => ?_
    | lift_lets -underBinder
    | (intro x; refine (fun hx : P x => ?_) ?_; clear_value x)
    | (intro x; refine (fun hx : P x.2 => ?_) ?_; clear_value x)
    | (intro x; refine (fun hx : P x.1 => ?_) ?_; clear_value x)
    | (intro x; refine (fun hx : P x.s => ?_) ?_; clear_value x)
    | (intro x; clear_value x)
    | intro _
    | split
    | dsimp -zeta only
    | dsimp -zeta +zetaDelta only
    | lift_lets
    | dsimp only

theorem renewLease_keeps {P : State → Prop} (c : Closed 0x40000000 P) (x1 : State) (x2) (h1 : P x1) :
    P (renewLease x1 x2) := by
  unfold renewLease
  repeat' first
    | with_reducible assumption
    | with_reducible apply modBcp_keeps c
    | intro _
    | split
    | dsimp -zeta only

theorem notice_keeps {P : State → Prop} (c : Closed 0x208 P) (x1 : State) (x2) (x3) (x4) (x5) (h1 : P x1) :
    P (notice x1 x2 x3 x4 x5) := by
  have c1 := c.sub (K' := 0x8) (by decide)
  have c2 := c.sub (K' := 0x200) (by decide)
  unfold notice
  repeat' first
    | with_reducible assumption
    | with_reducible apply fresh_keeps c1
    | with_reducible apply bcpEmit_keeps c2
    | with_reducible refine snd_of (by assumption) ?_
    | with_reducible refine fun _ => ?_
    | lift_lets -underBinder
    | (intro x; refine (fun hx : P x => ?_) ?_; clear_value x)
    | (intro x; refine (fun hx : P x.2 => ?_) ?_; clear_value x)
    | (intro x; refine (fun hx : P x.1 => ?_) ?_; clear_value x)
    | (intro x; refine (fun hx : P x.s => ?_) ?_; clear_value x)
    | (intro x; clear_value x)
    | split
    | dsimp -zeta only
    | dsimp -zeta +zetaDelta only
    | lift_lets
    | dsimp only

theorem abandonStage_keeps {P : State → Prop} (c : Closed 0x20280000000 P) (x1 : State) (h1 : P x1) :
    P (abandonStage x1) := by
  have c1 := c.sub (K' := 0x20200000000) (by decide)
  unfold abandonStage
  split
  · exact raise_keeps c1 _ _ _ _ _ _ (c.set_stage (by decide) _ _ h1)
  · exact h1

theorem ownerChanged_keeps {P : State → Prop} (c : Closed 0x202c0000208 P) (x1 : State) (x2) (x3) (x4) (h1 : P x1) :
    P (ownerChanged x1 x2 x3 x4) := by
  have c1 := c.sub (K' := 0x208) (by decide)
  have c2 := c.sub (K' := 0x40000000) (by decide)
  have c3 := c.sub (K' := 0x20280000000) (by decide)
  have c4 := c.sub (K' := 0x20200000000) (by decide)
  unfold ownerChanged
  repeat' first
    | with_reducible assumption
    | with_reducible apply notice_keeps c1
    | with_reducible apply modBcp_keeps c2
    | with_reducible apply abandonStage_keeps c3
    | with_reducible apply raise_keeps c4
    | with_reducible refine fun _ => ?_
    | lift_lets -underBinder
    | (intro x; refine (fun hx : P x => ?_) ?_; clear_value x)
    | (intro x; refine (fun hx : P x.2 => ?_) ?_; clear_value x)
    | (intro x; refine (fun hx : P x.1 => ?_) ?_; clear_value x)
    | (intro x; refine (fun hx : P x.s => ?_) ?_; clear_value x)
    | (intro x; clear_value x)
    | with_reducible apply foldl_keeps
    | with_reducible apply foldl_keeps_fst
    | with_reducible apply foldl_keeps_snd
    | intro _
    | split
    | dsimp -zeta only
    | dsimp -zeta +zetaDelta only
    | lift_lets
    | dsimp only

theorem toOpen_keeps {P : State → Prop} (c : Closed 0x202c0000208 P) (x1 : State) (x2) (x3) (h1 : P x1) :
    P (toOpen x1 x2 x3) := by
  have c1 := c.sub (K' := 0x40000000) (by decide)
  unfold toOpen
  repeat' first
    | with_reducible assumption
    | with_reducible apply ownerChanged_keeps c
    | with_reducible apply modBcp_keeps c1
    | intro _
    | dsimp -zeta only

theorem grant_keeps {P : State → Prop} (c : Closed 0x202c0000208 P) (x1 : State) (x2) (x3) (x4) (h1 : P x1) :
    P (grant x1 x2 x3 x4) := by
  have c1 := c.sub (K' := 0x40000000) (by decide)
  have c2 := c.sub (K' := 0x40000200) (by decide)
  unfold grant
  repeat' first
    | with_reducible assumption
    | with_reducible apply ownerChanged_keeps c
    | with_reducible apply modBcp_keeps c1
    | with_reducible apply refuse_keeps c2
    | with_reducible apply reply_keeps c2
    | with_reducible refine fun _ => ?_
    | lift_lets -underBinder
    | (intro x; refine (fun hx : P x => ?_) ?_; clear_value x)
    | (intro x; refine (fun hx : P x.2 => ?_) ?_; clear_value x)
    | (intro x; refine (fun hx : P x.1 => ?_) ?_; clear_value x)
    | (intro x; refine (fun hx : P x.s => ?_) ?_; clear_value x)
    | (intro x; clear_value x)
    | with_reducible apply foldl_keeps
    | with_reducible apply foldl_keeps_fst
    | with_reducible apply foldl_keeps_snd
    | intro _
    | dsimp -zeta only
    | dsimp -zeta +zetaDelta only
    | lift_lets
    | dsimp only

theorem takeClaim_keeps {P : State → Prop} (c : Closed 0x202c0000208 P) (x1 : State) (x2) (x3) (h1 : P x1) :
    P (takeClaim x1 x2 x3) := by
  have c1 := c.sub (K' := 0x40000000) (by decide)
  have c2 := c.sub (K' := 0x40000200) (by decide)
  unfold takeClaim
  repeat' first
    | with_reducible assumption
    | with_reducible apply modBcp_keeps c1
    | with_reducible apply refuse_keeps c2
    | with_reducible apply grant_keeps c
    | with_reducible apply reply_keeps c2
    | with_reducible refine fun _ => ?_
    | (intro x; refine (fun hx : ∀ t , P t → P (x t ) => ?_) ?_; clear_value x)
    | lift_lets -underBinder
    | (intro x; refine (fun hx : P x => ?_) ?_; clear_value x)
    | (intro x; refine (fun hx : P x.2 => ?_) ?_; clear_value x)
    | (intro x; refine (fun hx : P x.1 => ?_) ?_; clear_value x)
    | (intro x; refine (fun hx : P x.s => ?_) ?_; clear_value x)
    | (intro x; clear_value x)
    | intro _
    | split
    | with_reducible apply_assumption
    | dsimp -zeta only
    | dsimp -zeta +zetaDelta only
    | lift_lets
    | dsimp only

theorem lapse_keeps {P : State → Prop} (c : Closed 0x202c0000208 P) (x1 : State) (h1 : P x1) :
    P (lapse x1) := by
  unfold lapse
  repeat' first
    | with_reducible assumption
    | with_reducible apply toOpen_keeps c
    | dsimp -zeta only

theorem hearFrom_keeps {P : State → Prop} (c : Closed 0x40000000 P) (x1 : State) (x2) (x3) (h1 : P x1) :
    P (hearFrom x1 x2 x3) := by
  unfold hearFrom
  repeat' first
    | with_reducible assumption
    | with_reducible apply modSession_keeps c
    | intro _
    | dsimp -zeta only

theorem acceptAsk_keeps {P : State → Prop} (c : Closed 0x40000000 P) (x1 : State) (x2) (h1 : P x1) :
    P (acceptAsk x1 x2) := by
  unfold acceptAsk
  repeat' first
    | with_reducible assumption
    | with_reducible apply renewLease_keeps c
    | with_reducible apply modBcp_keeps c
    | with_reducible apply modSession_keeps c
    | with_reducible refine fun _ => ?_
    | lift_lets -underBinder
    | (intro x; refine (fun hx : P x => ?_) ?_; clear_value x)
    | (intro x; refine (fun hx : P x.2 => ?_) ?_; clear_value x)
    | (intro x; refine (fun hx : P x.1 => ?_) ?_; clear_value x)
    | (intro x; refine (fun hx : P x.s => ?_) ?_; clear_value x)
    | (intro x; clear_value x)
    | intro _
    | split
    | dsimp -zeta only
    | dsimp -zeta +zetaDelta only
    | lift_lets
    | dsimp only

theorem ownerGate_keeps {P : State → Prop} (c : Closed 0x40000200 P) (x1 : State) (x2) (x3 : State → Ask → State) (h1 : P x1) (h3 : ∀ y0 y1, P y0 → P (x3 y0 y1)) :
    P (ownerGate x1 x2 x3) := by
  unfold ownerGate
  repeat' first
    | with_reducible assumption
    | with_reducible apply refuse_keeps c
    | intro _
    | split
    | with_reducible apply_assumption
    | dsimp -zeta only

theorem sessionGate_keeps {P : State → Prop} (c : Closed 0x20240000200 P) (x1 : State) (x2) (x3) (x4 : State → Ask → State) (h1 : P x1) (h4 : ∀ y0 y1, P y0 → P (x4 y0 y1)) :
    P (sessionGate x1 x2 x3 x4) := by
  have c1 := c.sub (K' := 0x40000000) (by decide)
  have c2 := c.sub (K' := 0x20240000000) (by decide)
  have c3 := c.sub (K' := 0x40000200) (by decide)
  have c4 := c.sub (K' := 0x200) (by decide)
  unfold sessionGate
  repeat' first
    | with_reducible assumption
    | with_reducible apply acceptAsk_keeps c1
    | with_reducible apply dropRate_keeps c2
    | with_reducible apply rateAll_keeps c1
    | with_reducible apply refuse_keeps c3
    | with_reducible apply rateSession_keeps c1
    | with_reducible apply bcpEmit_keeps c4
    | with_reducible refine snd_of (by assumption) ?_
    | with_reducible refine fun _ => ?_
    | lift_lets -underBinder
    | (intro x; refine (fun hx : P x => ?_) ?_; clear_value x)
    | (intro x; refine (fun hx : P x.2 => ?_) ?_; clear_value x)
    | (intro x; refine (fun hx : P x.1 => ?_) ?_; clear_value x)
    | (intro x; refine (fun hx : P x.s => ?_) ?_; clear_value x)
    | (intro x; clear_value x)
    | intro _
    | split
    | with_reducible apply_assumption
    | dsimp -zeta only
    | dsimp -zeta +zetaDelta only
    | lift_lets
    | dsimp only

theorem onBcp_keeps {P : State → Prop} (c : Closed 0x20240000208 P) (x1 : State) (x2) (x3) (x4) (x5) (x6 : State → Ask → State) (h1 : P x1) (h6 : ∀ y0 y1, P y0 → P (x6 y0 y1)) :
    OnNext P (onBcp x1 x2 x3 x4 x5 x6) := by
  have c1 := c.sub (K' := 0x20240000200) (by decide)
  have c2 := c.sub (K' := 0x40000000) (by decide)
  have c3 := c.sub (K' := 0x40000200) (by decide)
  have c4 := c.sub (K' := 0x20240000000) (by decide)
  have c5 := c.sub (K' := 0x8) (by decide)
  unfold onBcp
  repeat' first
    | with_reducible assumption
    | with_reducible apply OnNext.unit
    | with_reducible apply OnNext.next
    | with_reducible apply OnNext.fault
    | with_reducible apply sessionGate_keeps c1
    | with_reducible apply dropMalformed_keeps c2
    | with_reducible apply ownerGate_keeps c3
    | with_reducible apply hearFrom_keeps c2
    | with_reducible apply dropAuth_keeps c4
    | with_reducible apply refuse_keeps c3
    | with_reducible apply authOk_keeps c5
    | with_reducible apply reply_keeps c3
    | with_reducible refine snd_of (by assumption) ?_
    | with_reducible refine fun _ => ?_
    | lift_lets -underBinder
    | (intro x; refine (fun hx : P x => ?_) ?_; clear_value x)
    | (intro x; refine (fun hx : P x.2 => ?_) ?_; clear_value x)
    | (intro x; refine (fun hx : P x.1 => ?_) ?_; clear_value x)
    | (intro x; refine (fun hx : P x.s => ?_) ?_; clear_value x)
    | (intro x; clear_value x)
    | intro _
    | split
    | with_reducible apply_assumption
    | dsimp -zeta only
    | dsimp -zeta +zetaDelta only
    | lift_lets
    | dsimp only

end Sys2Proof.Laws
end

