-- ==== Sys2Proof/Laws/KeepsDieAccess.lean ====
section
/-! SUPPORT. What each function of Machine/DieAccess.lean can change: a predicate closed under its changes survives it. -/
namespace Sys2Proof.Laws
open Sys2Proof Sys2Proof.Machine

/-- Of whatever state an access path leaves, P holds. -/
structure OnReach (P : State → Prop) (r : Reach) : Prop where
  done_of : ∀ a v t, r = .done a v t → P t
  waits_of : ∀ n t, r = .waits n t → P t

theorem OnReach.done {P : State → Prop} {a : AccStatus} {v : Word} {s : State} (h : P s) : OnReach P (.done a v s) :=
  ⟨fun _ _ _ e => (by injection e with _ _ e; exact e ▸ h), fun _ _ e => (by cases e)⟩

theorem OnReach.waits {P : State → Prop} {n : Nat} {s : State} (h : P s) : OnReach P (.waits n s) :=
  ⟨fun _ _ _ e => (by cases e), fun _ _ e => (by injection e with _ e; exact e ▸ h)⟩

theorem done_of {P : State → Prop} {x : Reach} {a : AccStatus} {v : Word} {b : State} (e : x = .done a v b) (h : OnReach P x) : P b :=
  h.done_of _ _ _ e

theorem waits_of {P : State → Prop} {x : Reach} {n : Nat} {b : State} (e : x = .waits n b) (h : OnReach P x) : P b :=
  h.waits_of _ _ e

theorem startAccess_keeps {P : State → Prop} (c : Closed 0x602001c0000 P) (x1 : State) (x2) (x3) (x4) (x5) (x6) (h1 : P x1) :
    OnReach P (startAccess x1 x2 x3 x4 x5 x6) := by
  have c1 := c.sub (K' := 0x60200040000) (by decide)
  unfold startAccess
  repeat' first
    | with_reducible assumption
    | with_reducible apply OnReach.done
    | with_reducible apply OnReach.waits
    | with_reducible apply sendMsg_keeps c1
    | with_reducible apply sendParcel_keeps c1
    | with_reducible refine c.set_accesses_accessTag (by decide) (by decide) _ _ _ ?_
    | with_reducible refine fun _ => ?_
    | lift_lets -underBinder
    | (intro x; refine (fun hx : P x => ?_) ?_; clear_value x)
    | (intro x; refine (fun hx : P x.2 => ?_) ?_; clear_value x)
    | (intro x; refine (fun hx : P x.1 => ?_) ?_; clear_value x)
    | (intro x; refine (fun hx : P x.s => ?_) ?_; clear_value x)
    | (intro x; clear_value x)
    | split
    | dsimp -zeta only
    | dsimp -zeta +zetaDelta only
    | lift_lets
    | dsimp only

theorem viaDie_keeps {P : State → Prop} (c : Closed 0x602001c0000 P) (x1 : State) (x2) (x3) (x4) (x5) (h1 : P x1) :
    OnReach P (viaDie x1 x2 x3 x4 x5) := by
  unfold viaDie
  repeat' first
    | with_reducible assumption
    | with_reducible apply OnReach.done
    | with_reducible apply OnReach.waits
    | with_reducible apply startAccess_keeps c
    | with_reducible refine done_of (by assumption) ?_
    | with_reducible refine waits_of (by assumption) ?_
    | split
    | dsimp -zeta only

theorem viaVc5_keeps {P : State → Prop} (c : Closed 0x60200040000 P) (x1 : State) (x2) (x3) (x4) (x5) (h1 : P x1) :
    OnReach P (viaVc5 x1 x2 x3 x4 x5) := by
  unfold viaVc5
  repeat' first
    | with_reducible assumption
    | with_reducible apply OnReach.done
    | with_reducible apply OnReach.waits
    | with_reducible apply sendMaint_keeps c
    | split
    | dsimp -zeta only

theorem reachRead_keeps {P : State → Prop} (c : Closed 0x612001c0148 P) (x1 : State) (x2) (x3) (h1 : P x1) :
    OnReach P (reachRead x1 x2 x3) := by
  have c1 := c.sub (K' := 0x602001c0000) (by decide)
  have c2 := c.sub (K' := 0x1200000148) (by decide)
  unfold reachRead
  repeat' first
    | with_reducible assumption
    | with_reducible apply OnReach.done
    | with_reducible apply OnReach.waits
    | with_reducible apply viaDie_keeps c1
    | with_reducible apply regRead_keeps c2
    | with_reducible refine done_of (by assumption) ?_
    | with_reducible refine some2_of (by assumption) ?_
    | with_reducible refine waits_of (by assumption) ?_
    | split
    | dsimp -zeta only

theorem reachWrite_keeps {P : State → Prop} (c : Closed 0x10000ffa3ffe7fb8 P) (x1 : State) (x2) (x3) (x4) (h1 : P x1) :
    OnReach P (reachWrite x1 x2 x3 x4) := by
  have c1 := c.sub (K' := 0x10000ffa3fe67fb8) (by decide)
  have c2 := c.sub (K' := 0x400000) (by decide)
  have c3 := c.sub (K' := 0x60200040000) (by decide)
  have c4 := c.sub (K' := 0x602001c0000) (by decide)
  unfold reachWrite
  repeat' first
    | with_reducible assumption
    | with_reducible apply OnReach.done
    | with_reducible apply OnReach.waits
    | with_reducible apply regWrite_keeps c1
    | with_reducible apply memPut_keeps c2
    | with_reducible apply viaVc5_keeps c3
    | with_reducible apply startAccess_keeps c4
    | with_reducible refine done_of (by assumption) ?_
    | with_reducible refine fst_of (by assumption) ?_
    | with_reducible refine waits_of (by assumption) ?_
    | with_reducible refine fun _ => ?_
    | lift_lets -underBinder
    | (intro x; refine (fun hx : P x => ?_) ?_; clear_value x)
    | (intro x; refine (fun hx : P x.2 => ?_) ?_; clear_value x)
    | (intro x; refine (fun hx : P x.1 => ?_) ?_; clear_value x)
    | (intro x; refine (fun hx : P x.s => ?_) ?_; clear_value x)
    | (intro x; clear_value x)
    | intro _
    | split
    | dsimp -zeta only
    | dsimp -zeta +zetaDelta only
    | lift_lets
    | dsimp only

theorem serveReg_keeps {P : State → Prop} (c : Closed 0x10000ffa3fe67fb8 P) (x1 : State) (x2) (x3) (x4) (x5) (x6) (h1 : P x1) :
    P (serveReg x1 x2 x3 x4 x5 x6).2.2.2 := by
  unfold serveReg
  repeat' first
    | with_reducible assumption
    | with_reducible apply regWriteHere_keeps c
    | with_reducible refine fst_of (by assumption) ?_
    | with_reducible refine fun _ => ?_
    | lift_lets -underBinder
    | (intro x; refine (fun hx : P x => ?_) ?_; clear_value x)
    | (intro x; refine (fun hx : P x.2 => ?_) ?_; clear_value x)
    | (intro x; refine (fun hx : P x.1 => ?_) ?_; clear_value x)
    | (intro x; refine (fun hx : P x.s => ?_) ?_; clear_value x)
    | (intro x; clear_value x)
    | split
    | dsimp -zeta only
    | dsimp -zeta +zetaDelta only
    | lift_lets
    | dsimp only

theorem takeRegReq_keeps {P : State → Prop} (c : Closed 0x10000ffa3fe67fb8 P) (x1 : State) (x2) (x3) (h1 : P x1) :
    P (takeRegReq x1 x2 x3) := by
  have c1 := c.sub (K' := 0x60200040000) (by decide)
  unfold takeRegReq
  repeat' first
    | with_reducible assumption
    | with_reducible apply sendMsg_keeps c1
    | with_reducible apply serveReg_keeps c
    | with_reducible refine snd_of (by assumption) ?_
    | with_reducible refine fun _ => ?_
    | lift_lets -underBinder
    | (intro x; refine (fun hx : P x => ?_) ?_; clear_value x)
    | (intro x; refine (fun hx : P x.2 => ?_) ?_; clear_value x)
    | (intro x; refine (fun hx : P x.1 => ?_) ?_; clear_value x)
    | (intro x; refine (fun hx : P x.s => ?_) ?_; clear_value x)
    | (intro x; clear_value x)
    | dsimp -zeta only
    | dsimp -zeta +zetaDelta only
    | lift_lets
    | dsimp only

theorem takeAccess_keeps {P : State → Prop} (c : Closed 0x80000 P) (x1 : State) (x2) (h1 : P x1) :
    OnSome (fun y => P y.2) (takeAccess x1 x2) := by
  unfold takeAccess
  repeat' first
    | with_reducible assumption
    | with_reducible apply OnSome.some
    | with_reducible exact OnSome.none
    | with_reducible refine c.set_accesses (by decide) _ _ ?_
    | intro _
    | split
    | dsimp -zeta only

end Sys2Proof.Laws
end

