-- ==== Sys2Proof/Laws/KeepsBcp.lean ====
section
/-! SUPPORT. What each function of Machine/Bcp.lean can change: a predicate closed under its changes survives it. -/
namespace Sys2Proof.Laws
open Sys2Proof Sys2Proof.Machine

/-- Of whatever state a word of a message leaves, P holds. -/
structure OnBcp (P : State → Prop) (r : BcpReach) : Prop where
  words_of : ∀ a t, r = .words a t → P t
  fail_of : ∀ a t, r = .fail a t → P t
  waits_of : ∀ n t, r = .waits n t → P t

theorem OnBcp.words {P : State → Prop} {a} {s : State} (h : P s) : OnBcp P (.words a s) :=
  ⟨fun _ _ e => (by injection e with _ e; exact e ▸ h), fun _ _ e => (by cases e), fun _ _ e => (by cases e)⟩

theorem OnBcp.fail {P : State → Prop} {a} {s : State} (h : P s) : OnBcp P (.fail a s) :=
  ⟨fun _ _ e => (by cases e), fun _ _ e => (by injection e with _ e; exact e ▸ h), fun _ _ e => (by cases e)⟩

theorem OnBcp.waits {P : State → Prop} {a} {s : State} (h : P s) : OnBcp P (.waits a s) :=
  ⟨fun _ _ e => (by cases e), fun _ _ e => (by cases e), fun _ _ e => (by injection e with _ e; exact e ▸ h)⟩

theorem bwords_of {P : State → Prop} {x : BcpReach} {a} {b : State} (e : x = .words a b) (h : OnBcp P x) : P b := h.words_of _ _ e
theorem bfail_of {P : State → Prop} {x : BcpReach} {a} {b : State} (e : x = .fail a b) (h : OnBcp P x) : P b := h.fail_of _ _ e
theorem bwaits_of {P : State → Prop} {x : BcpReach} {a} {b : State} (e : x = .waits a b) (h : OnBcp P x) : P b := h.waits_of _ _ e

theorem OnBcp.of_reach {P : State → Prop} {r : Reach} (h : OnReach P r) : OnBcp P (BcpReach.of r) := by
  unfold BcpReach.of
  split
  · exact OnBcp.words (h.done_of _ _ _ rfl)
  · exact OnBcp.fail (h.done_of _ _ _ rfl)
  · exact OnBcp.waits (h.waits_of _ _ rfl)

theorem noteRuntime_keeps {P : State → Prop} (c : Closed 0x40000000 P) (x1 : State) (x2) (x3) (h1 : P x1) :
    P (noteRuntime x1 x2 x3) := by
  unfold noteRuntime
  repeat' first
    | with_reducible assumption
    | with_reducible apply modBcp_keeps c
    | with_reducible refine fun _ => ?_
    | lift_lets -underBinder
    | (intro x; refine (fun hx : P x => ?_) ?_; clear_value x)
    | (intro x; refine (fun hx : P x.2 => ?_) ?_; clear_value x)
    | (intro x; refine (fun hx : P x.1 => ?_) ?_; clear_value x)
    | (intro x; refine (fun hx : P x.s => ?_) ?_; clear_value x)
    | (intro x; clear_value x)
    | intro _
    | split
    | dsimp -zeta only
    | dsimp -zeta +zetaDelta only
    | lift_lets
    | dsimp only

theorem reach64_keeps {P : State → Prop} (c : Closed 0x612001c0000 P) (x1 : State) (x2) (h1 : P x1) :
    OnBcp P (reach64 x1 x2) := by
  have c1 := c.sub (K' := 0x1000000000) (by decide)
  have c2 := c.sub (K' := 0x602001c0000) (by decide)
  unfold reach64
  repeat' first
    | with_reducible assumption
    | with_reducible apply OnBcp.words
    | with_reducible apply OnBcp.fail
    | with_reducible apply OnBcp.waits
    | with_reducible apply regRead64_keeps c1
    | with_reducible apply startAccess_keeps c2
    | with_reducible refine done_of (by assumption) ?_
    | with_reducible refine some22_of (by assumption) ?_
    | with_reducible refine waits_of (by assumption) ?_
    | split
    | dsimp -zeta only

theorem reachWord_keeps {P : State → Prop} (c : Closed 0x10000ffa3ffe7ff8 P) (x1 : State) (x2) (h1 : P x1) :
    OnBcp P (reachWord x1 x2) := by
  have c1 := c.sub (K' := 0x10000ffa3ffe7fb8) (by decide)
  have c2 := c.sub (K' := 0x612001c0148) (by decide)
  have c3 := c.sub (K' := 0x612001c0000) (by decide)
  have key : ∀ b : Bool, OnReach P (if b then (if cutsOff x1 x2.m x2.addr (x2.left.headD 0) then Reach.done .refused 0 x1
      else reachWrite x1 .bcp x2.addr (x2.left.headD 0)) else reachRead x1 .bcp x2.addr) := by
    intro b
    split
    · split
      · exact OnReach.done h1
      · exact reachWrite_keeps c1 _ _ _ _ h1
    · exact reachRead_keeps c2 _ _ _ h1
  unfold reachWord
  split
  · exact reach64_keeps c3 _ _ h1
  · exact OnBcp.of_reach (key _)

theorem lapseAfter_keeps {P : State → Prop} (c : Closed 0x202c0000208 P) (x1 : State) (x2) (h1 : P x1) :
    P (lapseAfter x1 x2) := by
  unfold lapseAfter
  repeat' first
    | with_reducible assumption
    | with_reducible apply lapse_keeps c
    | split
    | dsimp -zeta only

theorem bcpFinish_keeps {P : State → Prop} (c : Closed 0x202c0000208 P) (x1 : State) (x2) (x3) (h1 : P x1) :
    P (bcpFinish x1 x2 x3) := by
  have c1 := c.sub (K' := 0x40000000) (by decide)
  have c2 := c.sub (K' := 0x40000200) (by decide)
  unfold bcpFinish
  repeat' first
    | with_reducible assumption
    | with_reducible apply lapseAfter_keeps c
    | with_reducible apply modBcp_keeps c1
    | with_reducible apply reply_keeps c2
    | with_reducible refine fun _ => ?_
    | lift_lets -underBinder
    | (intro x; refine (fun hx : P x => ?_) ?_; clear_value x)
    | (intro x; refine (fun hx : P x.2 => ?_) ?_; clear_value x)
    | (intro x; refine (fun hx : P x.1 => ?_) ?_; clear_value x)
    | (intro x; refine (fun hx : P x.s => ?_) ?_; clear_value x)
    | (intro x; clear_value x)
    | intro _
    | split
    | dsimp -zeta only
    | dsimp -zeta +zetaDelta only
    | lift_lets
    | dsimp only

theorem bcpGo_keeps {P : State → Prop} (c : Closed 0x10000ffafffe7ff8 P) (x1) (x2 : State) (x3) (h2 : P x2) :
    P (bcpGo x1 x2 x3) := by
  have c1 := c.sub (K' := 0x40000000) (by decide)
  have c2 := c.sub (K' := 0x10000ffa3ffe7ff8) (by decide)
  have c3 := c.sub (K' := 0x202c0000208) (by decide)
  induction x1 generalizing x2 x3 with
  | zero => exact bcpFinish_keeps c3 _ _ _ h2
  | succ n ih =>
    unfold bcpGo
    have hr := reachWord_keeps c2 x2 x3 h2
    split
    · exact bcpFinish_keeps c3 _ _ _ h2
    · split
      · rename_i e
        have hs := hr.words_of _ _ e
        split
        · exact hs
        · refine ih _ _ ?_
          split
          · exact noteRuntime_keeps c1 _ _ _ hs
          · exact hs
      · rename_i e
        exact bcpFinish_keeps c3 _ _ _ (hr.fail_of _ _ e)
      · rename_i e
        exact modBcp_keeps c1 _ _ (hr.waits_of _ _ e)

theorem bcpStart_keeps {P : State → Prop} (c : Closed 0x10000ffafffe7ff8 P) (x1 : State) (x2) (x3) (x4) (x5) (h1 : P x1) :
    P (bcpStart x1 x2 x3 x4 x5) := by
  have c1 := c.sub (K' := 0x40000200) (by decide)
  unfold bcpStart
  repeat' first
    | with_reducible assumption
    | with_reducible apply bcpGo_keeps c
    | with_reducible apply refuse_keeps c1
    | split
    | dsimp -zeta only

theorem bcpResume_keeps {P : State → Prop} (c : Closed 0x10000ffafffe7ff8 P) (x1 : State) (x2) (x3) (x4) (x5) (h1 : P x1) :
    P (bcpResume x1 x2 x3 x4 x5) := by
  have c1 := c.sub (K' := 0x40000000) (by decide)
  have c2 := c.sub (K' := 0x202c0000208) (by decide)
  unfold bcpResume
  repeat' first
    | with_reducible assumption
    | with_reducible apply bcpGo_keeps c
    | with_reducible apply modBcp_keeps c1
    | with_reducible apply bcpFinish_keeps c2
    | with_reducible apply noteRuntime_keeps c1
    | with_reducible refine fun _ => ?_
    | lift_lets -underBinder
    | (intro x; refine (fun hx : P x => ?_) ?_; clear_value x)
    | (intro x; refine (fun hx : P x.2 => ?_) ?_; clear_value x)
    | (intro x; refine (fun hx : P x.1 => ?_) ?_; clear_value x)
    | (intro x; refine (fun hx : P x.s => ?_) ?_; clear_value x)
    | (intro x; clear_value x)
    | intro _
    | split
    | dsimp -zeta only
    | dsimp -zeta +zetaDelta only
    | lift_lets
    | dsimp only

theorem countGate_keeps {P : State → Prop} (c : Closed 0x40000200 P) (x1 : State) (x2) (x3) (x4 : State) (h1 : P x1) (h4 : P x4) :
    P (countGate x1 x2 x3 x4) := by
  unfold countGate
  repeat' first
    | with_reducible assumption
    | with_reducible apply reply_keeps c
    | split
    | dsimp -zeta only

theorem execRead_keeps {P : State → Prop} (c : Closed 0x10000ffafffe7ff8 P) (x1) (x2) (x3) (x4 : State) (h4 : P x4) :
    OnNext P (execRead x1 x2 x3 x4) := by
  have c1 := c.sub (K' := 0x40000200) (by decide)
  have c2 := c.sub (K' := 0x20240000208) (by decide)
  unfold execRead
  repeat' first
    | with_reducible assumption
    | with_reducible apply OnNext.unit
    | with_reducible apply OnNext.next
    | with_reducible apply OnNext.fault
    | with_reducible apply countGate_keeps c1
    | with_reducible apply onBcp_keeps c2
    | with_reducible apply bcpStart_keeps c
    | intro _
    | dsimp -zeta only

theorem execWrite_keeps {P : State → Prop} (c : Closed 0x10000ffafffe7ff8 P) (x1) (x2) (x3) (x4 : State) (h4 : P x4) :
    OnNext P (execWrite x1 x2 x3 x4) := by
  have c1 := c.sub (K' := 0x40000200) (by decide)
  have c2 := c.sub (K' := 0x20240000208) (by decide)
  unfold execWrite
  repeat' first
    | with_reducible assumption
    | with_reducible apply OnNext.unit
    | with_reducible apply OnNext.next
    | with_reducible apply OnNext.fault
    | with_reducible apply countGate_keeps c1
    | with_reducible apply onBcp_keeps c2
    | with_reducible apply bcpStart_keeps c
    | intro _
    | dsimp -zeta only

theorem execRead64_keeps {P : State → Prop} (c : Closed 0x10000ffafffe7ff8 P) (x1) (x2) (x3) (x4 : State) (h4 : P x4) :
    OnNext P (execRead64 x1 x2 x3 x4) := by
  have c1 := c.sub (K' := 0x40000200) (by decide)
  have c2 := c.sub (K' := 0x20240000208) (by decide)
  unfold execRead64
  repeat' first
    | with_reducible assumption
    | with_reducible apply OnNext.unit
    | with_reducible apply OnNext.next
    | with_reducible apply OnNext.fault
    | with_reducible apply countGate_keeps c1
    | with_reducible apply onBcp_keeps c2
    | with_reducible apply bcpStart_keeps c
    | intro _
    | dsimp -zeta only

theorem openSession_keeps {P : State → Prop} (c : Closed 0x40000208 P) (x1 : State) (x2) (x3) (x4) (h1 : P x1) :
    P (openSession x1 x2 x3 x4) := by
  have c1 := c.sub (K' := 0x8) (by decide)
  have c2 := c.sub (K' := 0x40000000) (by decide)
  have c3 := c.sub (K' := 0x40000200) (by decide)
  unfold openSession
  repeat' first
    | with_reducible assumption
    | with_reducible apply fresh_keeps c1
    | with_reducible apply renewLease_keeps c2
    | with_reducible apply modBcp_keeps c2
    | with_reducible apply reply_keeps c3
    | with_reducible refine snd_of (by assumption) ?_
    | with_reducible refine fun _ => ?_
    | lift_lets -underBinder
    | (intro x; refine (fun hx : P x => ?_) ?_; clear_value x)
    | (intro x; refine (fun hx : P x.2 => ?_) ?_; clear_value x)
    | (intro x; refine (fun hx : P x.1 => ?_) ?_; clear_value x)
    | (intro x; refine (fun hx : P x.s => ?_) ?_; clear_value x)
    | (intro x; clear_value x)
    | intro _
    | dsimp -zeta only
    | dsimp -zeta +zetaDelta only
    | lift_lets
    | dsimp only

theorem execHello_keeps {P : State → Prop} (c : Closed 0x20240000208 P) (x1) (x2) (x3) (x4 : State) (h4 : P x4) :
    OnNext P (execHello x1 x2 x3 x4) := by
  have c1 := c.sub (K' := 0x20240000000) (by decide)
  have c2 := c.sub (K' := 0x40000208) (by decide)
  have c3 := c.sub (K' := 0x40000000) (by decide)
  have c4 := c.sub (K' := 0x40000200) (by decide)
  have c5 := c.sub (K' := 0x8) (by decide)
  unfold execHello
  repeat' first
    | with_reducible assumption
    | with_reducible apply OnNext.unit
    | with_reducible apply OnNext.next
    | with_reducible apply OnNext.fault
    | with_reducible apply dropRate_keeps c1
    | with_reducible apply openSession_keeps c2
    | with_reducible apply dropMalformed_keeps c3
    | with_reducible apply dropAuth_keeps c1
    | with_reducible apply rateAll_keeps c3
    | with_reducible apply refuse_keeps c4
    | with_reducible apply authOk_keeps c5
    | with_reducible apply reply_keeps c4
    | with_reducible refine snd_of (by assumption) ?_
    | with_reducible refine fun _ => ?_
    | lift_lets -underBinder
    | (intro x; refine (fun hx : P x => ?_) ?_; clear_value x)
    | (intro x; refine (fun hx : P x.2 => ?_) ?_; clear_value x)
    | (intro x; refine (fun hx : P x.1 => ?_) ?_; clear_value x)
    | (intro x; refine (fun hx : P x.s => ?_) ?_; clear_value x)
    | (intro x; clear_value x)
    | intro _
    | split
    | dsimp -zeta only
    | dsimp -zeta +zetaDelta only
    | lift_lets
    | dsimp only

theorem execSessionTimeout_keeps {P : State → Prop} (c : Closed 0x40000000 P) (x1) (x2 : State) (h2 : P x2) :
    OnNext P (execSessionTimeout x1 x2) := by
  unfold execSessionTimeout
  repeat' first
    | with_reducible assumption
    | with_reducible apply OnNext.unit
    | with_reducible apply OnNext.next
    | with_reducible apply OnNext.fault
    | with_reducible apply modBcp_keeps c
    | intro _
    | dsimp -zeta only

theorem execClaim_keeps {P : State → Prop} (c : Closed 0x202c0000208 P) (x1) (x2) (x3 : State) (h3 : P x3) :
    OnNext P (execClaim x1 x2 x3) := by
  have c1 := c.sub (K' := 0x20240000208) (by decide)
  unfold execClaim
  repeat' first
    | with_reducible assumption
    | with_reducible apply OnNext.unit
    | with_reducible apply OnNext.next
    | with_reducible apply OnNext.fault
    | with_reducible apply onBcp_keeps c1
    | with_reducible apply takeClaim_keeps c
    | intro _
    | dsimp -zeta only

theorem execHeartbeat_keeps {P : State → Prop} (c : Closed 0x20240000208 P) (x1) (x2 : State) (h2 : P x2) :
    OnNext P (execHeartbeat x1 x2) := by
  have c1 := c.sub (K' := 0x40000200) (by decide)
  unfold execHeartbeat
  repeat' first
    | with_reducible assumption
    | with_reducible apply OnNext.unit
    | with_reducible apply OnNext.next
    | with_reducible apply OnNext.fault
    | with_reducible apply onBcp_keeps c
    | with_reducible apply reply_keeps c1
    | intro _
    | dsimp -zeta only

theorem execRelease_keeps {P : State → Prop} (c : Closed 0x202c0000208 P) (x1) (x2) (x3 : State) (h3 : P x3) :
    OnNext P (execRelease x1 x2 x3) := by
  have c1 := c.sub (K' := 0x40000000) (by decide)
  have c2 := c.sub (K' := 0x20240000208) (by decide)
  have c3 := c.sub (K' := 0x40000200) (by decide)
  unfold execRelease
  repeat' first
    | with_reducible assumption
    | with_reducible apply OnNext.unit
    | with_reducible apply OnNext.next
    | with_reducible apply OnNext.fault
    | with_reducible apply toOpen_keeps c
    | with_reducible apply modBcp_keeps c1
    | with_reducible apply onBcp_keeps c2
    | with_reducible apply reply_keeps c3
    | with_reducible refine fun _ => ?_
    | lift_lets -underBinder
    | (intro x; refine (fun hx : P x => ?_) ?_; clear_value x)
    | (intro x; refine (fun hx : P x.2 => ?_) ?_; clear_value x)
    | (intro x; refine (fun hx : P x.1 => ?_) ?_; clear_value x)
    | (intro x; refine (fun hx : P x.s => ?_) ?_; clear_value x)
    | (intro x; clear_value x)
    | intro _
    | split
    | dsimp -zeta only
    | dsimp -zeta +zetaDelta only
    | lift_lets
    | dsimp only

theorem execOwnerQuery_keeps {P : State → Prop} (c : Closed 0x20240000208 P) (x1) (x2 : State) (h2 : P x2) :
    OnNext P (execOwnerQuery x1 x2) := by
  have c1 := c.sub (K' := 0x40000200) (by decide)
  unfold execOwnerQuery
  repeat' first
    | with_reducible assumption
    | with_reducible apply OnNext.unit
    | with_reducible apply OnNext.next
    | with_reducible apply OnNext.fault
    | with_reducible apply onBcp_keeps c
    | with_reducible apply reply_keeps c1
    | intro _
    | dsimp -zeta only

theorem execContestEnd_keeps {P : State → Prop} (c : Closed 0x202c0000208 P) (x1 : State) (h1 : P x1) :
    OnNext P (execContestEnd x1) := by
  have c1 := c.sub (K' := 0x40000000) (by decide)
  unfold execContestEnd
  repeat' first
    | with_reducible assumption
    | with_reducible apply OnNext.unit
    | with_reducible apply OnNext.next
    | with_reducible apply OnNext.fault
    | with_reducible apply modBcp_keeps c1
    | with_reducible apply grant_keeps c
    | intro _
    | split
    | dsimp -zeta only

theorem execSuccessionEnd_keeps {P : State → Prop} (c : Closed 0x202c0000208 P) (x1 : State) (h1 : P x1) :
    OnNext P (execSuccessionEnd x1) := by
  unfold execSuccessionEnd
  repeat' first
    | with_reducible assumption
    | with_reducible apply OnNext.unit
    | with_reducible apply OnNext.next
    | with_reducible apply OnNext.fault
    | with_reducible apply toOpen_keeps c
    | with_reducible apply grant_keeps c
    | split
    | dsimp -zeta only

theorem execLeaseExpire_keeps {P : State → Prop} (c : Closed 0x202c0000208 P) (x1 : State) (h1 : P x1) :
    OnNext P (execLeaseExpire x1) := by
  have c1 := c.sub (K' := 0x40000000) (by decide)
  unfold execLeaseExpire
  repeat' first
    | with_reducible assumption
    | with_reducible apply OnNext.unit
    | with_reducible apply OnNext.next
    | with_reducible apply OnNext.fault
    | with_reducible apply modBcp_keeps c1
    | with_reducible apply lapse_keeps c
    | intro _
    | split
    | dsimp -zeta only

end Sys2Proof.Laws
end

