-- ==== Sys2Proof/Laws/KeepsAccess.lean ====
section
/-! SUPPORT. What each function of Machine/Access.lean can change: a predicate closed under its changes survives it. -/
namespace Sys2Proof.Laws
open Sys2Proof Sys2Proof.Machine

theorem tgtWrite_keeps {P : State → Prop} (c : Closed 0x10000ffa3ffe7fb8 P) (x1 : State) (x2) (x3) (h1 : P x1) :
    OnReach P (tgtWrite x1 x2 x3) := by
  unfold tgtWrite
  repeat' first
    | with_reducible assumption
    | with_reducible apply OnReach.done
    | with_reducible apply OnReach.waits
    | with_reducible apply reachWrite_keeps c
    | with_reducible refine done_of (by assumption) ?_
    | with_reducible refine waits_of (by assumption) ?_
    | split
    | dsimp -zeta only

theorem tgtRead_keeps {P : State → Prop} (c : Closed 0x612001c0148 P) (x1 : State) (x2) (h1 : P x1) :
    OnReach P (tgtRead x1 x2) := by
  unfold tgtRead
  repeat' first
    | with_reducible assumption
    | with_reducible apply OnReach.done
    | with_reducible apply OnReach.waits
    | with_reducible apply reachRead_keeps c
    | with_reducible refine done_of (by assumption) ?_
    | with_reducible refine waits_of (by assumption) ?_
    | split
    | dsimp -zeta only

theorem tgtEnd_keeps {P : State → Prop} (c : Closed 0x8000000200 P) (x1 : State) (x2) (x3) (h1 : P x1) :
    P (tgtEnd x1 x2 x3) := by
  have c1 := c.sub (K' := 0x8000000000) (by decide)
  have c2 := c.sub (K' := 0x200) (by decide)
  unfold tgtEnd
  repeat' first
    | with_reducible assumption
    | with_reducible apply modBus_keeps c1
    | with_reducible apply emit_keeps c2
    | intro _
    | dsimp -zeta only

theorem tgtGo_keeps {P : State → Prop} (c : Closed 0x10000ffa3ffe7ff8 P) (x1) (x2 : State) (x3) (h2 : P x2) :
    P (tgtGo x1 x2 x3) := by
  have c1 := c.sub (K' := 0x8000000000) (by decide)
  induction x1 generalizing x2 x3 with
  | zero => exact tgtEnd_keeps (c.sub (by decide)) _ _ _ h2
  | succ n ih =>
    unfold tgtGo
    split
    · have hw := tgtWrite_keeps (c.sub (by decide)) x2 x3.addr.toNat ‹_› h2
      split
      · rename_i e; exact ih _ _ (hw.done_of _ _ _ e)
      · rename_i e; exact tgtEnd_keeps (c.sub (by decide)) _ _ _ (hw.done_of _ _ _ e)
      · rename_i e; exact modBus_keeps c1 _ _ (hw.waits_of _ _ e)
    · have hr := tgtRead_keeps (c.sub (by decide)) x2 x3.addr.toNat h2
      split
      · exact tgtEnd_keeps (c.sub (by decide)) _ _ _ h2
      · split
        · rename_i e; exact ih _ _ (hr.done_of _ _ _ e)
        · rename_i e; exact modBus_keeps c1 _ _ (hr.waits_of _ _ e)

theorem tgtResume_keeps {P : State → Prop} (c : Closed 0x10000ffa3ffe7ff8 P) (x1 : State) (x2) (x3) (x4) (h1 : P x1) :
    P (tgtResume x1 x2 x3 x4) := by
  have c1 := c.sub (K' := 0x8000000200) (by decide)
  unfold tgtResume
  repeat' first
    | with_reducible assumption
    | with_reducible apply tgtEnd_keeps c1
    | with_reducible apply tgtGo_keeps c
    | split
    | dsimp -zeta only

theorem execI2cTargetTransaction_keeps {P : State → Prop} (c : Closed 0x10000ffa3ffe7ff8 P) (x1) (x2) (x3) (x4) (x5 : State) (h5 : P x5) :
    OnNext P (execI2cTargetTransaction x1 x2 x3 x4 x5) := by
  have c1 := c.sub (K' := 0x200) (by decide)
  unfold execI2cTargetTransaction
  repeat' first
    | with_reducible assumption
    | with_reducible apply OnNext.unit
    | with_reducible apply OnNext.next
    | with_reducible apply OnNext.fault
    | with_reducible apply tgtGo_keeps c
    | with_reducible apply emit_keeps c1
    | with_reducible refine fun _ => ?_
    | lift_lets -underBinder
    | (intro x; refine (fun hx : P x => ?_) ?_; clear_value x)
    | (intro x; refine (fun hx : P x.2 => ?_) ?_; clear_value x)
    | (intro x; refine (fun hx : P x.1 => ?_) ?_; clear_value x)
    | (intro x; refine (fun hx : P x.s => ?_) ?_; clear_value x)
    | (intro x; clear_value x)
    | split
    | dsimp -zeta only
    | dsimp -zeta +zetaDelta only
    | lift_lets
    | dsimp only

theorem accessDone_keeps {P : State → Prop} (c : Closed 0x40000200 P) (x1 : State) (x2) (x3) (x4) (x5) (x6) (x7) (x8) (h1 : P x1) :
    P (accessDone x1 x2 x3 x4 x5 x6 x7 x8) := by
  have c1 := c.sub (K' := 0x200) (by decide)
  have c2 := c.sub (K' := 0x40000000) (by decide)
  unfold accessDone
  repeat' first
    | with_reducible assumption
    | with_reducible apply answer_keeps c1
    | with_reducible apply noteRuntime_keeps c2
    | split
    | dsimp -zeta only

theorem pathAccess_keeps {P : State → Prop} (c : Closed 0x10000ffa7ffe7ff8 P) (x1 : State) (x2) (x3) (x4) (x5) (h1 : P x1) :
    P (pathAccess x1 x2 x3 x4 x5) := by
  have c1 := c.sub (K' := 0x40000200) (by decide)
  have c2 := c.sub (K' := 0x10000ffa3ffe7fb8) (by decide)
  have c3 := c.sub (K' := 0x200) (by decide)
  have c4 := c.sub (K' := 0x612001c0148) (by decide)
  unfold pathAccess
  repeat' first
    | with_reducible assumption
    | with_reducible apply accessDone_keeps c1
    | with_reducible apply reachWrite_keeps c2
    | with_reducible apply answer_keeps c3
    | with_reducible apply reachRead_keeps c4
    | with_reducible refine done_of (by assumption) ?_
    | with_reducible refine waits_of (by assumption) ?_
    | split
    | dsimp -zeta only

theorem execRegisterWrite_keeps {P : State → Prop} (c : Closed 0x10000ffa7ffe7ff8 P) (x1) (x2) (x3) (x4 : State) (h4 : P x4) :
    OnNext P (execRegisterWrite x1 x2 x3 x4) := by
  unfold execRegisterWrite
  repeat' first
    | with_reducible assumption
    | with_reducible apply OnNext.unit
    | with_reducible apply OnNext.next
    | with_reducible apply OnNext.fault
    | with_reducible apply pathAccess_keeps c
    | dsimp -zeta only

theorem execPairLoRead_keeps {P : State → Prop} (c : Closed 0x10000ffa7ffe7ff8 P) (x1) (x2) (x3 : State) (h3 : P x3) :
    OnNext P (execPairLoRead x1 x2 x3) := by
  unfold execPairLoRead
  repeat' first
    | with_reducible assumption
    | with_reducible apply OnNext.unit
    | with_reducible apply OnNext.next
    | with_reducible apply OnNext.fault
    | with_reducible apply pathAccess_keeps c
    | dsimp -zeta only

theorem execPairLoWrite_keeps {P : State → Prop} (c : Closed 0x10000ffa7ffe7ff8 P) (x1) (x2) (x3) (x4 : State) (h4 : P x4) :
    OnNext P (execPairLoWrite x1 x2 x3 x4) := by
  unfold execPairLoWrite
  repeat' first
    | with_reducible assumption
    | with_reducible apply OnNext.unit
    | with_reducible apply OnNext.next
    | with_reducible apply OnNext.fault
    | with_reducible apply pathAccess_keeps c
    | dsimp -zeta only

theorem execPairHiWrite_keeps {P : State → Prop} (c : Closed 0x10000ffa7ffe7ff8 P) (x1) (x2) (x3) (x4 : State) (h4 : P x4) :
    OnNext P (execPairHiWrite x1 x2 x3 x4) := by
  unfold execPairHiWrite
  repeat' first
    | with_reducible assumption
    | with_reducible apply OnNext.unit
    | with_reducible apply OnNext.next
    | with_reducible apply OnNext.fault
    | with_reducible apply pathAccess_keeps c
    | dsimp -zeta only

theorem execRegReq_keeps {P : State → Prop} (c : Closed 0x10000ffa3fe67fb8 P) (x1) (x2 : State) (h2 : P x2) :
    OnNext P (execRegReq x1 x2) := by
  have c1 := c.sub (K' := 0x60200244a10) (by decide)
  unfold execRegReq
  repeat' first
    | with_reducible assumption
    | with_reducible apply OnNext.unit
    | with_reducible apply OnNext.next
    | with_reducible apply OnNext.fault
    | with_reducible apply takeRegReq_keeps c
    | with_reducible apply onMsg_keeps c1
    | intro _
    | split
    | dsimp -zeta only

theorem endAccess_keeps {P : State → Prop} (c : Closed 0x10000ffafffe7ff8 P) (x1 : State) (x2) (x3) (x4) (x5) (h1 : P x1) :
    P (endAccess x1 x2 x3 x4 x5) := by
  have c1 := c.sub (K' := 0x40000200) (by decide)
  have c2 := c.sub (K' := 0x40) (by decide)
  have c3 := c.sub (K' := 0x10000ffa3ffe7ff8) (by decide)
  unfold endAccess
  repeat' first
    | with_reducible assumption
    | with_reducible apply accessDone_keeps c1
    | with_reducible apply setHiShadow_keeps c2
    | with_reducible apply tgtResume_keeps c3
    | with_reducible apply bcpResume_keeps c
    | with_reducible refine fun _ => ?_
    | lift_lets -underBinder
    | (intro x; refine (fun hx : P x => ?_) ?_; clear_value x)
    | (intro x; refine (fun hx : P x.2 => ?_) ?_; clear_value x)
    | (intro x; refine (fun hx : P x.1 => ?_) ?_; clear_value x)
    | (intro x; refine (fun hx : P x.s => ?_) ?_; clear_value x)
    | (intro x; clear_value x)
    | split
    | dsimp -zeta only
    | dsimp -zeta +zetaDelta only
    | lift_lets
    | dsimp only

theorem execRegResp_keeps {P : State → Prop} (c : Closed 0x10000ffafffe7ff8 P) (x1) (x2 : State) (h2 : P x2) :
    OnNext P (execRegResp x1 x2) := by
  have c1 := c.sub (K' := 0x80000) (by decide)
  have c2 := c.sub (K' := 0x60200244a10) (by decide)
  unfold execRegResp
  repeat' first
    | with_reducible assumption
    | with_reducible apply OnNext.unit
    | with_reducible apply OnNext.next
    | with_reducible apply OnNext.fault
    | with_reducible apply takeAccess_keeps c1
    | with_reducible apply endAccess_keeps c
    | with_reducible apply onMsg_keeps c2
    | with_reducible refine some2_of (by assumption) ?_
    | intro _
    | split
    | dsimp -zeta only

theorem execVc5ReadResp_keeps {P : State → Prop} (c : Closed 0x10000ffafffe7ff8 P) (x1) (x2 : State) (h2 : P x2) :
    OnNext P (execVc5ReadResp x1 x2) := by
  have c1 := c.sub (K' := 0x80000) (by decide)
  have c2 := c.sub (K' := 0x60200244a10) (by decide)
  unfold execVc5ReadResp
  repeat' first
    | with_reducible assumption
    | with_reducible apply OnNext.unit
    | with_reducible apply OnNext.next
    | with_reducible apply OnNext.fault
    | with_reducible apply takeAccess_keeps c1
    | with_reducible apply endAccess_keeps c
    | with_reducible apply onParcel_keeps c2
    | with_reducible refine some2_of (by assumption) ?_
    | intro _
    | split
    | dsimp -zeta only

theorem execRegAccessTimeout_keeps {P : State → Prop} (c : Closed 0x10000ffafffe7ff8 P) (x1 : State) (h1 : P x1) :
    OnNext P (execRegAccessTimeout x1) := by
  have c1 := c.sub (K' := 0x80000) (by decide)
  have c2 := c.sub (K' := 0x20200000000) (by decide)
  unfold execRegAccessTimeout
  repeat' first
    | with_reducible assumption
    | with_reducible apply OnNext.unit
    | with_reducible apply OnNext.next
    | with_reducible apply OnNext.fault
    | with_reducible apply endAccess_keeps c
    | with_reducible apply modAccesses_keeps c1
    | with_reducible apply raise_keeps c2
    | intro _
    | split
    | dsimp -zeta only

end Sys2Proof.Laws
end

