-- ==== Sys2Proof/Laws/KeepsBcpStage.lean ====
section
/-! SUPPORT. What each function of Machine/BcpStage.lean can change: a predicate closed under its changes survives it. -/
namespace Sys2Proof.Laws
open Sys2Proof Sys2Proof.Machine

theorem writeCfg_keeps {P : State → Prop} (c : Closed 0xc200 P) (x1 : State) (x2) (x3) (h1 : P x1) :
    P (writeCfg x1 x2 x3).2 := by
  have c1 := c.sub (K' := 0x200) (by decide)
  have c2 := c.sub (K' := 0x8000) (by decide)
  have c3 := c.sub (K' := 0x4000) (by decide)
  unfold writeCfg
  repeat' first
    | with_reducible assumption
    | with_reducible apply emit_keeps c1
    | with_reducible apply modFlash_keeps c2
    | with_reducible apply modBoot_keeps c3
    | with_reducible refine fun _ => ?_
    | lift_lets -underBinder
    | (intro x; refine (fun hx : P x => ?_) ?_; clear_value x)
    | (intro x; refine (fun hx : P x.2 => ?_) ?_; clear_value x)
    | (intro x; refine (fun hx : P x.1 => ?_) ?_; clear_value x)
    | (intro x; refine (fun hx : P x.s => ?_) ?_; clear_value x)
    | (intro x; clear_value x)
    | intro _
    | split
    | dsimp -zeta only
    | dsimp -zeta +zetaDelta only
    | lift_lets
    | dsimp only

theorem seasonGate_keeps {P : State → Prop} (c : Closed 0x40000200 P) (x1 : State) (x2) (x3 : State) (h1 : P x1) (h3 : P x3) :
    P (seasonGate x1 x2 x3) := by
  unfold seasonGate
  repeat' first
    | with_reducible assumption
    | with_reducible apply refuse_keeps c
    | split
    | dsimp -zeta only

theorem configCommitNow_keeps {P : State → Prop} (c : Closed 0x804000c200 P) (x1 : State) (x2) (x3) (x4) (h1 : P x1) :
    P (configCommitNow x1 x2 x3 x4) := by
  have c1 := c.sub (K' := 0xc200) (by decide)
  have c2 := c.sub (K' := 0x40000200) (by decide)
  have c3 := c.sub (K' := 0x8000000000) (by decide)
  unfold configCommitNow
  repeat' first
    | with_reducible assumption
    | with_reducible apply writeCfg_keeps c1
    | with_reducible apply seasonGate_keeps c2
    | with_reducible apply flashFailed_keeps c3
    | with_reducible apply refuse_keeps c2
    | with_reducible apply reply_keeps c2
    | with_reducible refine snd_of (by assumption) ?_
    | with_reducible refine fun _ => ?_
    | lift_lets -underBinder
    | (intro x; refine (fun hx : P x => ?_) ?_; clear_value x)
    | (intro x; refine (fun hx : P x.2 => ?_) ?_; clear_value x)
    | (intro x; refine (fun hx : P x.1 => ?_) ?_; clear_value x)
    | (intro x; refine (fun hx : P x.s => ?_) ?_; clear_value x)
    | (intro x; clear_value x)
    | split
    | dsimp -zeta only
    | dsimp -zeta +zetaDelta only
    | lift_lets
    | dsimp only

theorem execConfigCommit_keeps {P : State → Prop} (c : Closed 0x2824000c208 P) (x1) (x2) (x3) (x4 : State) (h4 : P x4) :
    OnNext P (execConfigCommit x1 x2 x3 x4) := by
  have c1 := c.sub (K' := 0x804000c200) (by decide)
  have c2 := c.sub (K' := 0x20240000208) (by decide)
  unfold execConfigCommit
  repeat' first
    | with_reducible assumption
    | with_reducible apply OnNext.unit
    | with_reducible apply OnNext.next
    | with_reducible apply OnNext.fault
    | with_reducible apply configCommitNow_keeps c1
    | with_reducible apply onBcp_keeps c2
    | intro _
    | dsimp -zeta only

theorem storeKeySet_keeps {P : State → Prop} (c : Closed 0x202c0000208 P) (x1 : State) (x2) (h1 : P x1) :
    P (storeKeySet x1 x2) := by
  have c1 := c.sub (K' := 0x40000000) (by decide)
  unfold storeKeySet
  repeat' first
    | with_reducible assumption
    | with_reducible apply toOpen_keeps c
    | with_reducible apply modBcp_keeps c1
    | with_reducible refine fun _ => ?_
    | lift_lets -underBinder
    | (intro x; refine (fun hx : P x => ?_) ?_; clear_value x)
    | (intro x; refine (fun hx : P x.2 => ?_) ?_; clear_value x)
    | (intro x; refine (fun hx : P x.1 => ?_) ?_; clear_value x)
    | (intro x; refine (fun hx : P x.s => ?_) ?_; clear_value x)
    | (intro x; clear_value x)
    | intro _
    | split
    | dsimp -zeta only
    | dsimp -zeta +zetaDelta only
    | lift_lets
    | dsimp only

theorem serviceKeySet_keeps {P : State → Prop} (c : Closed 0x202c0000208 P) (x1 : State) (x2) (h1 : P x1) :
    P (serviceKeySet x1 x2) := by
  have c1 := c.sub (K' := 0x40000000) (by decide)
  unfold serviceKeySet
  repeat' first
    | with_reducible assumption
    | with_reducible apply toOpen_keeps c
    | with_reducible apply modBcp_keeps c1
    | with_reducible refine fun _ => ?_
    | lift_lets -underBinder
    | (intro x; refine (fun hx : P x => ?_) ?_; clear_value x)
    | (intro x; refine (fun hx : P x.2 => ?_) ?_; clear_value x)
    | (intro x; refine (fun hx : P x.1 => ?_) ?_; clear_value x)
    | (intro x; refine (fun hx : P x.s => ?_) ?_; clear_value x)
    | (intro x; clear_value x)
    | intro _
    | split
    | dsimp -zeta only
    | dsimp -zeta +zetaDelta only
    | lift_lets
    | dsimp only

theorem setKeyNow_keeps {P : State → Prop} (c : Closed 0x282c000c208 P) (x1 : State) (x2) (x3) (x4) (x5) (x6) (h1 : P x1) :
    P (setKeyNow x1 x2 x3 x4 x5 x6) := by
  have c1 := c.sub (K' := 0x202c0000208) (by decide)
  have c2 := c.sub (K' := 0xc200) (by decide)
  have c3 := c.sub (K' := 0x40000000) (by decide)
  have c4 := c.sub (K' := 0x8000000000) (by decide)
  have c5 := c.sub (K' := 0x40000200) (by decide)
  unfold setKeyNow
  repeat' first
    | with_reducible assumption
    | with_reducible apply storeKeySet_keeps c1
    | with_reducible apply writeCfg_keeps c2
    | with_reducible apply serviceKeySet_keeps c1
    | with_reducible apply modBcp_keeps c3
    | with_reducible apply flashFailed_keeps c4
    | with_reducible apply refuse_keeps c5
    | with_reducible apply reply_keeps c5
    | with_reducible refine snd_of (by assumption) ?_
    | with_reducible refine fun _ => ?_
    | lift_lets -underBinder
    | (intro x; refine (fun hx : P x => ?_) ?_; clear_value x)
    | (intro x; refine (fun hx : P x.2 => ?_) ?_; clear_value x)
    | (intro x; refine (fun hx : P x.1 => ?_) ?_; clear_value x)
    | (intro x; refine (fun hx : P x.s => ?_) ?_; clear_value x)
    | (intro x; clear_value x)
    | intro _
    | split
    | dsimp -zeta only
    | dsimp -zeta +zetaDelta only
    | lift_lets
    | dsimp only

theorem execSetKey_keeps {P : State → Prop} (c : Closed 0x282c000c208 P) (x1) (x2) (x3) (x4) (x5) (x6 : State) (h6 : P x6) :
    OnNext P (execSetKey x1 x2 x3 x4 x5 x6) := by
  have c1 := c.sub (K' := 0x20240000208) (by decide)
  unfold execSetKey
  repeat' first
    | with_reducible assumption
    | with_reducible apply OnNext.unit
    | with_reducible apply OnNext.next
    | with_reducible apply OnNext.fault
    | with_reducible apply onBcp_keeps c1
    | with_reducible apply setKeyNow_keeps c
    | intro _
    | dsimp -zeta only

theorem execKeystoreBadReport_keeps {P : State → Prop} (c : Closed 0x20200000000 P) (x1 : State) (h1 : P x1) :
    OnNext P (execKeystoreBadReport x1) := by
  unfold execKeystoreBadReport
  repeat' first
    | with_reducible assumption
    | with_reducible apply OnNext.unit
    | with_reducible apply OnNext.next
    | with_reducible apply OnNext.fault
    | with_reducible apply raise_keeps c
    | split
    | dsimp -zeta only

theorem putDesc_keeps {P : State → Prop} (c : Closed 0xc200 P) (x1 : State) (x2) (h1 : P x1) :
    P (putDesc x1 x2) := by
  have c1 := c.sub (K' := 0x8000) (by decide)
  unfold putDesc
  repeat' first
    | with_reducible assumption
    | with_reducible apply writeDesc_keeps c
    | with_reducible apply modFlash_keeps c1
    | intro _
    | split
    | dsimp -zeta only

theorem setFacts_keeps {P : State → Prop} (c : Closed 0x8000 P) (x1 : State) (x2) (x3) (h1 : P x1) :
    P (setFacts x1 x2 x3) := by
  unfold setFacts
  repeat' first
    | with_reducible assumption
    | with_reducible apply modFlash_keeps c
    | intro _
    | split
    | dsimp -zeta only

theorem stageBeginNow_keeps {P : State → Prop} (c : Closed 0xc000c200 P) (x1 : State) (x2) (x3) (x4) (x5) (h1 : P x1) :
    P (stageBeginNow x1 x2 x3 x4 x5) := by
  have c1 := c.sub (K' := 0xc200) (by decide)
  have c2 := c.sub (K' := 0x80000000) (by decide)
  have c3 := c.sub (K' := 0x40000200) (by decide)
  have c4 := c.sub (K' := 0x8000) (by decide)
  unfold stageBeginNow
  repeat' first
    | with_reducible assumption
    | with_reducible apply putDesc_keeps c1
    | with_reducible apply modStage_keeps c2
    | with_reducible apply seasonGate_keeps c3
    | with_reducible apply setFacts_keeps c4
    | with_reducible apply refuse_keeps c3
    | with_reducible apply reply_keeps c3
    | with_reducible refine fun _ => ?_
    | lift_lets -underBinder
    | (intro x; refine (fun hx : P x => ?_) ?_; clear_value x)
    | (intro x; refine (fun hx : P x.2 => ?_) ?_; clear_value x)
    | (intro x; refine (fun hx : P x.1 => ?_) ?_; clear_value x)
    | (intro x; refine (fun hx : P x.s => ?_) ?_; clear_value x)
    | (intro x; clear_value x)
    | intro _
    | split
    | dsimp -zeta only
    | dsimp -zeta +zetaDelta only
    | lift_lets
    | dsimp only

theorem execStageBegin_keeps {P : State → Prop} (c : Closed 0x202c000c208 P) (x1) (x2) (x3) (x4) (x5 : State) (h5 : P x5) :
    OnNext P (execStageBegin x1 x2 x3 x4 x5) := by
  have c1 := c.sub (K' := 0x20240000208) (by decide)
  have c2 := c.sub (K' := 0xc000c200) (by decide)
  unfold execStageBegin
  repeat' first
    | with_reducible assumption
    | with_reducible apply OnNext.unit
    | with_reducible apply OnNext.next
    | with_reducible apply OnNext.fault
    | with_reducible apply onBcp_keeps c1
    | with_reducible apply stageBeginNow_keeps c2
    | intro _
    | dsimp -zeta only

theorem stageDataNow_keeps {P : State → Prop} (c : Closed 0x80c000c208 P) (x1 : State) (x2) (x3) (x4) (x5) (h1 : P x1) :
    P (stageDataNow x1 x2 x3 x4 x5) := by
  have c1 := c.sub (K' := 0x8) (by decide)
  have c2 := c.sub (K' := 0xc200) (by decide)
  have c3 := c.sub (K' := 0x80000000) (by decide)
  have c4 := c.sub (K' := 0x40000200) (by decide)
  have c5 := c.sub (K' := 0x200) (by decide)
  have c6 := c.sub (K' := 0x8000000000) (by decide)
  unfold stageDataNow
  repeat' first
    | with_reducible assumption
    | with_reducible apply fresh_keeps c1
    | with_reducible apply putDesc_keeps c2
    | with_reducible apply modStage_keeps c3
    | with_reducible apply seasonGate_keeps c4
    | with_reducible apply emit_keeps c5
    | with_reducible apply flashFailed_keeps c6
    | with_reducible apply refuse_keeps c4
    | with_reducible apply reply_keeps c4
    | with_reducible refine snd_of (by assumption) ?_
    | with_reducible refine fun _ => ?_
    | lift_lets -underBinder
    | (intro x; refine (fun hx : P x => ?_) ?_; clear_value x)
    | (intro x; refine (fun hx : P x.2 => ?_) ?_; clear_value x)
    | (intro x; refine (fun hx : P x.1 => ?_) ?_; clear_value x)
    | (intro x; refine (fun hx : P x.s => ?_) ?_; clear_value x)
    | (intro x; clear_value x)
    | intro _
    | split
    | dsimp -zeta only
    | dsimp -zeta +zetaDelta only
    | lift_lets
    | dsimp only

theorem execStageData_keeps {P : State → Prop} (c : Closed 0x282c000c208 P) (x1) (x2) (x3) (x4) (x5 : State) (h5 : P x5) :
    OnNext P (execStageData x1 x2 x3 x4 x5) := by
  have c1 := c.sub (K' := 0x40000200) (by decide)
  have c2 := c.sub (K' := 0x80c000c208) (by decide)
  have c3 := c.sub (K' := 0x20240000208) (by decide)
  unfold execStageData
  repeat' first
    | with_reducible assumption
    | with_reducible apply OnNext.unit
    | with_reducible apply OnNext.next
    | with_reducible apply OnNext.fault
    | with_reducible apply countGate_keeps c1
    | with_reducible apply stageDataNow_keeps c2
    | with_reducible apply onBcp_keeps c3
    | intro _
    | dsimp -zeta only

theorem stageEndNow_keeps {P : State → Prop} (c : Closed 0xc0000200 P) (x1 : State) (x2) (h1 : P x1) :
    P (stageEndNow x1 x2) := by
  have c1 := c.sub (K' := 0x80000000) (by decide)
  have c2 := c.sub (K' := 0x40000200) (by decide)
  unfold stageEndNow
  repeat' first
    | with_reducible assumption
    | with_reducible apply modStage_keeps c1
    | with_reducible apply seasonGate_keeps c2
    | with_reducible apply refuse_keeps c2
    | with_reducible apply reply_keeps c2
    | intro _
    | split
    | dsimp -zeta only

theorem execStageEnd_keeps {P : State → Prop} (c : Closed 0x202c0000208 P) (x1) (x2 : State) (h2 : P x2) :
    OnNext P (execStageEnd x1 x2) := by
  have c1 := c.sub (K' := 0xc0000200) (by decide)
  have c2 := c.sub (K' := 0x20240000208) (by decide)
  unfold execStageEnd
  repeat' first
    | with_reducible assumption
    | with_reducible apply OnNext.unit
    | with_reducible apply OnNext.next
    | with_reducible apply OnNext.fault
    | with_reducible apply stageEndNow_keeps c1
    | with_reducible apply onBcp_keeps c2
    | dsimp -zeta only

theorem stageChecked_keeps {P : State → Prop} (c : Closed 0x8000c200 P) (x1 : State) (x2) (x3) (h1 : P x1) :
    P (stageChecked x1 x2 x3) := by
  have c1 := c.sub (K' := 0xc200) (by decide)
  have c2 := c.sub (K' := 0x80000000) (by decide)
  have c3 := c.sub (K' := 0x8000) (by decide)
  unfold stageChecked
  repeat' first
    | with_reducible assumption
    | with_reducible apply putDesc_keeps c1
    | with_reducible apply modStage_keeps c2
    | with_reducible apply setFacts_keeps c3
    | with_reducible refine fun _ => ?_
    | lift_lets -underBinder
    | (intro x; refine (fun hx : P x => ?_) ?_; clear_value x)
    | (intro x; refine (fun hx : P x.2 => ?_) ?_; clear_value x)
    | (intro x; refine (fun hx : P x.1 => ?_) ?_; clear_value x)
    | (intro x; refine (fun hx : P x.s => ?_) ?_; clear_value x)
    | (intro x; clear_value x)
    | intro _
    | split
    | dsimp -zeta only
    | dsimp -zeta +zetaDelta only
    | lift_lets
    | dsimp only

theorem execStageCheckDone_keeps {P : State → Prop} (c : Closed 0x8000c200 P) (x1) (x2) (x3 : State) (h3 : P x3) :
    OnNext P (execStageCheckDone x1 x2 x3) := by
  unfold execStageCheckDone
  repeat' first
    | with_reducible assumption
    | with_reducible apply OnNext.unit
    | with_reducible apply OnNext.next
    | with_reducible apply OnNext.fault
    | with_reducible apply stageChecked_keeps c
    | split
    | dsimp -zeta only

theorem restartInto_keeps {P : State → Prop} (c : Closed 0x10000e3b2002c238 P) (x1 : State) (x2) (h1 : P x1) :
    P (restartInto x1 x2) := by
  have c1 := c.sub (K' := 0x10000e3a20024238) (by decide)
  have c2 := c.sub (K' := 0xc200) (by decide)
  have c3 := c.sub (K' := 0x100000000) (by decide)
  unfold restartInto
  repeat' first
    | with_reducible assumption
    | with_reducible apply warmCmd_keeps c1
    | with_reducible apply putDesc_keeps c2
    | with_reducible apply modSwitch_keeps c3
    | intro _
    | dsimp -zeta only

theorem cancelSwitch_keeps {P : State → Prop} (c : Closed 0x20300000010 P) (x1 : State) (x2) (h1 : P x1) :
    P (cancelSwitch x1 x2) := by
  have c1 := c.sub (K' := 0x100000000) (by decide)
  have c2 := c.sub (K' := 0x10) (by decide)
  have c3 := c.sub (K' := 0x20200000000) (by decide)
  unfold cancelSwitch
  repeat' first
    | with_reducible assumption
    | with_reducible apply modSwitch_keeps c1
    | with_reducible apply rput_keeps c2
    | with_reducible apply raise_keeps c3
    | intro _
    | split
    | dsimp -zeta only

theorem switchNow_keeps {P : State → Prop} (c : Closed 0x10000e3b6002c238 P) (x1 : State) (x2) (x3) (x4) (x5) (h1 : P x1) :
    P (switchNow x1 x2 x3 x4 x5) := by
  have c1 := c.sub (K' := 0x10000e3b2002c238) (by decide)
  have c2 := c.sub (K' := 0x100000000) (by decide)
  have c3 := c.sub (K' := 0x40000200) (by decide)
  have c4 := c.sub (K' := 0x10) (by decide)
  unfold switchNow
  repeat' first
    | with_reducible assumption
    | with_reducible apply restartInto_keeps c1
    | with_reducible apply modSwitch_keeps c2
    | with_reducible apply seasonGate_keeps c3
    | with_reducible apply rput_keeps c4
    | with_reducible apply refuse_keeps c3
    | with_reducible apply reply_keeps c3
    | with_reducible refine fun _ => ?_
    | lift_lets -underBinder
    | (intro x; refine (fun hx : P x => ?_) ?_; clear_value x)
    | (intro x; refine (fun hx : P x.2 => ?_) ?_; clear_value x)
    | (intro x; refine (fun hx : P x.1 => ?_) ?_; clear_value x)
    | (intro x; refine (fun hx : P x.s => ?_) ?_; clear_value x)
    | (intro x; clear_value x)
    | intro _
    | split
    | dsimp -zeta only
    | dsimp -zeta +zetaDelta only
    | lift_lets
    | dsimp only

theorem execSwitch_keeps {P : State → Prop} (c : Closed 0x10000e3b6002c238 P) (x1) (x2) (x3) (x4) (x5 : State) (h5 : P x5) :
    OnNext P (execSwitch x1 x2 x3 x4 x5) := by
  have c1 := c.sub (K' := 0x20240000208) (by decide)
  unfold execSwitch
  repeat' first
    | with_reducible assumption
    | with_reducible apply OnNext.unit
    | with_reducible apply OnNext.next
    | with_reducible apply OnNext.fault
    | with_reducible apply switchNow_keeps c
    | with_reducible apply onBcp_keeps c1
    | intro _
    | dsimp -zeta only

theorem execSwitchReady_keeps {P : State → Prop} (c : Closed 0x20300000810 P) (x1) (x2 : State) (h2 : P x2) :
    OnNext P (execSwitchReady x1 x2) := by
  have c1 := c.sub (K' := 0x800) (by decide)
  have c2 := c.sub (K' := 0x100000000) (by decide)
  have c3 := c.sub (K' := 0x20300000010) (by decide)
  unfold execSwitchReady
  repeat' first
    | with_reducible assumption
    | with_reducible apply OnNext.unit
    | with_reducible apply OnNext.next
    | with_reducible apply OnNext.fault
    | with_reducible apply modSeq_keeps c1
    | with_reducible apply modSwitch_keeps c2
    | with_reducible apply cancelSwitch_keeps c3
    | with_reducible refine fun _ => ?_
    | lift_lets -underBinder
    | (intro x; refine (fun hx : P x => ?_) ?_; clear_value x)
    | (intro x; refine (fun hx : P x.2 => ?_) ?_; clear_value x)
    | (intro x; refine (fun hx : P x.1 => ?_) ?_; clear_value x)
    | (intro x; refine (fun hx : P x.s => ?_) ?_; clear_value x)
    | (intro x; clear_value x)
    | intro _
    | split
    | dsimp -zeta only
    | dsimp -zeta +zetaDelta only
    | lift_lets
    | dsimp only

theorem execSwitchCancel_keeps {P : State → Prop} (c : Closed 0x20340000218 P) (x1) (x2 : State) (h2 : P x2) :
    OnNext P (execSwitchCancel x1 x2) := by
  have c1 := c.sub (K' := 0x20240000208) (by decide)
  have c2 := c.sub (K' := 0x20300000010) (by decide)
  have c3 := c.sub (K' := 0x40000200) (by decide)
  unfold execSwitchCancel
  repeat' first
    | with_reducible assumption
    | with_reducible apply OnNext.unit
    | with_reducible apply OnNext.next
    | with_reducible apply OnNext.fault
    | with_reducible apply onBcp_keeps c1
    | with_reducible apply cancelSwitch_keeps c2
    | with_reducible apply refuse_keeps c3
    | with_reducible apply reply_keeps c3
    | intro _
    | split
    | dsimp -zeta only

theorem execLogRead_keeps {P : State → Prop} (c : Closed 0x20240000208 P) (x1) (x2) (x3) (x4 : State) (h4 : P x4) :
    OnNext P (execLogRead x1 x2 x3 x4) := by
  have c1 := c.sub (K' := 0x40000200) (by decide)
  unfold execLogRead
  repeat' first
    | with_reducible assumption
    | with_reducible apply OnNext.unit
    | with_reducible apply OnNext.next
    | with_reducible apply OnNext.fault
    | with_reducible apply countGate_keeps c1
    | with_reducible apply onBcp_keeps c
    | with_reducible apply reply_keeps c1
    | with_reducible refine fun _ => ?_
    | lift_lets -underBinder
    | (intro x; refine (fun hx : P x => ?_) ?_; clear_value x)
    | (intro x; refine (fun hx : P x.2 => ?_) ?_; clear_value x)
    | (intro x; refine (fun hx : P x.1 => ?_) ?_; clear_value x)
    | (intro x; refine (fun hx : P x.s => ?_) ?_; clear_value x)
    | (intro x; clear_value x)
    | intro _
    | dsimp -zeta only
    | dsimp -zeta +zetaDelta only
    | lift_lets
    | dsimp only

theorem execLogStatus_keeps {P : State → Prop} (c : Closed 0x20240000208 P) (x1) (x2 : State) (h2 : P x2) :
    OnNext P (execLogStatus x1 x2) := by
  have c1 := c.sub (K' := 0x40000200) (by decide)
  unfold execLogStatus
  repeat' first
    | with_reducible assumption
    | with_reducible apply OnNext.unit
    | with_reducible apply OnNext.next
    | with_reducible apply OnNext.fault
    | with_reducible apply onBcp_keeps c
    | with_reducible apply reply_keeps c1
    | intro _
    | dsimp -zeta only

theorem execLogClear_keeps {P : State → Prop} (c : Closed 0x20240000208 P) (x1) (x2 : State) (h2 : P x2) :
    OnNext P (execLogClear x1 x2) := by
  have c1 := c.sub (K' := 0x40000200) (by decide)
  have c2 := c.sub (K' := 0x20000000000) (by decide)
  unfold execLogClear
  repeat' first
    | with_reducible assumption
    | with_reducible apply OnNext.unit
    | with_reducible apply OnNext.next
    | with_reducible apply OnNext.fault
    | with_reducible apply onBcp_keeps c
    | with_reducible apply reply_keeps c1
    | with_reducible apply logClearNow_keeps c2
    | intro _
    | dsimp -zeta only

theorem execLogUnfreeze_keeps {P : State → Prop} (c : Closed 0x20240000208 P) (x1) (x2 : State) (h2 : P x2) :
    OnNext P (execLogUnfreeze x1 x2) := by
  have c1 := c.sub (K' := 0x20000000000) (by decide)
  have c2 := c.sub (K' := 0x40000200) (by decide)
  unfold execLogUnfreeze
  repeat' first
    | with_reducible assumption
    | with_reducible apply OnNext.unit
    | with_reducible apply OnNext.next
    | with_reducible apply OnNext.fault
    | with_reducible apply logUnfreezeNow_keeps c1
    | with_reducible apply onBcp_keeps c
    | with_reducible apply refuse_keeps c2
    | with_reducible apply reply_keeps c2
    | intro _
    | split
    | dsimp -zeta only

end Sys2Proof.Laws
end

