-- ==== Sys2Proof/Laws/KeepsBoot.lean ====
section
/-! SUPPORT. What each function of Machine/Boot.lean can change: a predicate closed under its changes survives it. -/
namespace Sys2Proof.Laws
open Sys2Proof Sys2Proof.Machine

theorem execColdReset_keeps {P : State → Prop} (c : Closed 0x10000e2200024238 P) (x1) (x2) (x3 : State) (h3 : P x3) :
    OnNext P (execColdReset x1 x2 x3) := by
  have c1 := c.sub (K' := 0x8) (by decide)
  have c2 := c.sub (K' := 0x10000e2200024230) (by decide)
  have c3 := c.sub (K' := 0x200) (by decide)
  unfold execColdReset
  repeat' first
    | with_reducible assumption
    | with_reducible apply OnNext.unit
    | with_reducible apply OnNext.next
    | with_reducible apply OnNext.fault
    | with_reducible apply pinResets_keeps c1
    | with_reducible apply coldNow_keeps c2
    | with_reducible apply sendBye_keeps c3
    | with_reducible refine snd_of (by assumption) ?_
    | with_reducible refine fun _ => ?_
    | lift_lets -underBinder
    | (intro x; refine (fun hx : P x => ?_) ?_; clear_value x)
    | (intro x; refine (fun hx : P x.2 => ?_) ?_; clear_value x)
    | (intro x; refine (fun hx : P x.1 => ?_) ?_; clear_value x)
    | (intro x; refine (fun hx : P x.s => ?_) ?_; clear_value x)
    | (intro x; clear_value x)
    | split
    | dsimp -zeta only
    | dsimp -zeta +zetaDelta only
    | lift_lets
    | dsimp only

theorem wdtExpire_keeps {P : State → Prop} (c : Closed 0x10000e3a20024238 P) (x1 : State) (h1 : P x1) :
    P (wdtExpire x1) := by
  have c1 := c.sub (K' := 0x10000e2200024230) (by decide)
  have c2 := c.sub (K' := 0x4000) (by decide)
  unfold wdtExpire
  repeat' first
    | with_reducible assumption
    | with_reducible apply warmNow_keeps c
    | with_reducible apply coldNow_keeps c1
    | with_reducible apply modBoot_keeps c2
    | with_reducible refine fun _ => ?_
    | lift_lets -underBinder
    | (intro x; refine (fun hx : P x => ?_) ?_; clear_value x)
    | (intro x; refine (fun hx : P x.2 => ?_) ?_; clear_value x)
    | (intro x; refine (fun hx : P x.1 => ?_) ?_; clear_value x)
    | (intro x; refine (fun hx : P x.s => ?_) ?_; clear_value x)
    | (intro x; clear_value x)
    | intro _
    | split
    | dsimp -zeta only
    | dsimp -zeta +zetaDelta only
    | lift_lets
    | dsimp only

theorem execWarmReset_keeps {P : State → Prop} (c : Closed 0x10000e3a20024238 P) (x1) (x2 : State) (h2 : P x2) :
    OnNext P (execWarmReset x1 x2) := by
  unfold execWarmReset
  repeat' first
    | with_reducible assumption
    | with_reducible apply OnNext.unit
    | with_reducible apply OnNext.next
    | with_reducible apply OnNext.fault
    | with_reducible apply warmCmd_keeps c
    | with_reducible apply wdtExpire_keeps c
    | with_reducible apply warmNow_keeps c
    | split
    | dsimp -zeta only

theorem execWatchdogExpiry_keeps {P : State → Prop} (c : Closed 0x10000e3a20024238 P) (x1 : State) (h1 : P x1) :
    OnNext P (execWatchdogExpiry x1) := by
  unfold execWatchdogExpiry
  repeat' first
    | with_reducible assumption
    | with_reducible apply OnNext.unit
    | with_reducible apply OnNext.next
    | with_reducible apply OnNext.fault
    | with_reducible apply wdtExpire_keeps c
    | split
    | dsimp -zeta only

theorem execWdtKick_keeps {P : State → Prop} (c : Closed 0x10000ffa3fe67fb8 P) (x1) (x2) (x3 : State) (h3 : P x3) :
    OnNext P (execWdtKick x1 x2 x3) := by
  have c1 := c.sub (K' := 0x200) (by decide)
  unfold execWdtKick
  repeat' first
    | with_reducible assumption
    | with_reducible apply OnNext.unit
    | with_reducible apply OnNext.next
    | with_reducible apply OnNext.fault
    | with_reducible apply regWrite_keeps c
    | with_reducible apply answerWrite_keeps c1
    | with_reducible refine fst_of (by assumption) ?_
    | dsimp -zeta only

theorem execStartupSequence_keeps {P : State → Prop} (c : Closed 0x4000 P) (x1) (x2 : State) (h2 : P x2) :
    OnNext P (execStartupSequence x1 x2) := by
  unfold execStartupSequence
  repeat' first
    | with_reducible assumption
    | with_reducible apply OnNext.unit
    | with_reducible apply OnNext.next
    | with_reducible apply OnNext.fault
    | with_reducible apply modBoot_keeps c
    | intro _
    | split
    | dsimp -zeta only

theorem mark_keeps {P : State → Prop} (c : Closed 0x4000 P) (x1 : State) (x2) (h1 : P x1) :
    P (mark x1 x2) := by
  unfold mark
  repeat' first
    | with_reducible assumption
    | with_reducible apply modBoot_keeps c
    | intro _
    | dsimp -zeta only

theorem stepOtp_keeps {P : State → Prop} (c : Closed 0xe7fefe67a30 P) (x1 : State) (x2) (h1 : P x1) :
    P (stepOtp x1 x2) := by
  have c1 := c.sub (K' := 0x21200020000) (by decide)
  have c2 := c.sub (K' := 0xe7fefe47a30) (by decide)
  have c3 := c.sub (K' := 0x4000) (by decide)
  have c4 := c.sub (K' := 0x24200000000) (by decide)
  unfold stepOtp
  repeat' first
    | with_reducible assumption
    | with_reducible apply otpLoad_keeps c1
    | with_reducible apply haltNow_keeps c2
    | with_reducible apply bootTo_keeps c3
    | with_reducible apply tmpFollow_keeps c4
    | with_reducible refine fun _ => ?_
    | lift_lets -underBinder
    | (intro x; refine (fun hx : P x => ?_) ?_; clear_value x)
    | (intro x; refine (fun hx : P x.2 => ?_) ?_; clear_value x)
    | (intro x; refine (fun hx : P x.1 => ?_) ?_; clear_value x)
    | (intro x; refine (fun hx : P x.s => ?_) ?_; clear_value x)
    | (intro x; clear_value x)
    | split
    | dsimp -zeta only
    | dsimp -zeta +zetaDelta only
    | lift_lets
    | dsimp only

theorem powerBad_keeps {P : State → Prop} (c : Closed 0xe7fefe47a30 P) (x1 : State) (h1 : P x1) :
    P (powerBad x1) := by
  have c1 := c.sub (K' := 0x4000) (by decide)
  unfold powerBad
  repeat' first
    | with_reducible assumption
    | with_reducible apply haltNow_keeps c
    | with_reducible apply modBoot_keeps c1
    | intro _
    | split
    | dsimp -zeta only

theorem stepPower_keeps {P : State → Prop} (c : Closed 0xe7fefe47a38 P) (x1 : State) (x2) (h1 : P x1) :
    P (stepPower x1 x2) := by
  have c1 := c.sub (K' := 0x60000000000) (by decide)
  have c2 := c.sub (K' := 0x80000000208) (by decide)
  have c3 := c.sub (K' := 0x4000) (by decide)
  have c4 := c.sub (K' := 0xe7fefe47a30) (by decide)
  unfold stepPower
  repeat' first
    | with_reducible assumption
    | with_reducible apply logOnly_keeps c1
    | with_reducible apply sendVcore_keeps c2
    | with_reducible apply mark_keeps c3
    | with_reducible apply bootTo_keeps c3
    | with_reducible apply powerBad_keeps c4
    | with_reducible refine fun _ => ?_
    | lift_lets -underBinder
    | (intro x; refine (fun hx : P x => ?_) ?_; clear_value x)
    | (intro x; refine (fun hx : P x.2 => ?_) ?_; clear_value x)
    | (intro x; refine (fun hx : P x.1 => ?_) ?_; clear_value x)
    | (intro x; refine (fun hx : P x.s => ?_) ?_; clear_value x)
    | (intro x; clear_value x)
    | split
    | dsimp -zeta only
    | dsimp -zeta +zetaDelta only
    | lift_lets
    | dsimp only

theorem qspiOf_keeps {P : State → Prop} (c : Closed 0x8000000008 P) (x1 : State) (x2) (h1 : P x1) :
    P (qspiOf x1 x2) := by
  have c1 := c.sub (K' := 0x8) (by decide)
  have c2 := c.sub (K' := 0x8000000000) (by decide)
  unfold qspiOf
  repeat' first
    | with_reducible assumption
    | with_reducible apply fresh_keeps c1
    | with_reducible apply modBus_keeps c2
    | with_reducible refine snd_of (by assumption) ?_
    | with_reducible refine fun _ => ?_
    | lift_lets -underBinder
    | (intro x; refine (fun hx : P x => ?_) ?_; clear_value x)
    | (intro x; refine (fun hx : P x.2 => ?_) ?_; clear_value x)
    | (intro x; refine (fun hx : P x.1 => ?_) ?_; clear_value x)
    | (intro x; refine (fun hx : P x.s => ?_) ?_; clear_value x)
    | (intro x; clear_value x)
    | intro _
    | split
    | dsimp -zeta only
    | dsimp -zeta +zetaDelta only
    | lift_lets
    | dsimp only

theorem stepDesc_keeps {P : State → Prop} (c : Closed 0xafa6000d208 P) (x1 : State) (x2) (x3) (h1 : P x1) :
    P (stepDesc x1 x2 x3) := by
  have c1 := c.sub (K' := 0xa7a60005208) (by decide)
  have c2 := c.sub (K' := 0x8000000008) (by decide)
  have c3 := c.sub (K' := 0x8000) (by decide)
  have c4 := c.sub (K' := 0x4000) (by decide)
  unfold stepDesc
  repeat' first
    | with_reducible assumption
    | with_reducible apply dormantNow_keeps c1
    | with_reducible apply qspiOf_keeps c2
    | with_reducible apply modFlash_keeps c3
    | with_reducible apply modBoot_keeps c4
    | with_reducible refine fun _ => ?_
    | lift_lets -underBinder
    | (intro x; refine (fun hx : P x => ?_) ?_; clear_value x)
    | (intro x; refine (fun hx : P x.2 => ?_) ?_; clear_value x)
    | (intro x; refine (fun hx : P x.1 => ?_) ?_; clear_value x)
    | (intro x; refine (fun hx : P x.s => ?_) ?_; clear_value x)
    | (intro x; clear_value x)
    | intro _
    | split
    | dsimp -zeta only
    | dsimp -zeta +zetaDelta only
    | lift_lets
    | dsimp only

theorem cfgDefaults_keeps {P : State → Prop} (c : Closed 0x2020000c000 P) (x1 : State) (h1 : P x1) :
    P (cfgDefaults x1) := by
  have c1 := c.sub (K' := 0x8000) (by decide)
  have c2 := c.sub (K' := 0x20200000000) (by decide)
  have c3 := c.sub (K' := 0x4000) (by decide)
  unfold cfgDefaults
  repeat' first
    | with_reducible assumption
    | with_reducible apply modFlash_keeps c1
    | with_reducible apply raise_keeps c2
    | with_reducible apply modBoot_keeps c3
    | intro _
    | dsimp -zeta only

theorem stepCfg_keeps {P : State → Prop} (c : Closed 0x2020000c000 P) (x1 : State) (x2) (x3) (h1 : P x1) :
    P (stepCfg x1 x2 x3) := by
  have c1 := c.sub (K' := 0x8000) (by decide)
  have c2 := c.sub (K' := 0x4000) (by decide)
  unfold stepCfg
  repeat' first
    | with_reducible assumption
    | with_reducible apply cfgDefaults_keeps c
    | with_reducible apply modFlash_keeps c1
    | with_reducible apply modBoot_keeps c2
    | intro _
    | split
    | dsimp -zeta only

theorem stepEntries_keeps {P : State → Prop} (c : Closed 0x10000ffa7fe77fb8 P) (x1 : State) (h1 : P x1) :
    P (stepEntries x1) := by
  have c1 := c.sub (K' := 0x40000000) (by decide)
  have c2 := c.sub (K' := 0x10000ffa3fe77fb8) (by decide)
  have c3 := c.sub (K' := 0x400) (by decide)
  have c4 := c.sub (K' := 0x10) (by decide)
  have c5 := c.sub (K' := 0x24200000000) (by decide)
  have c6 := c.sub (K' := 0x20000) (by decide)
  have c7 := c.sub (K' := 0x4000) (by decide)
  unfold stepEntries
  repeat' first
    | with_reducible assumption
    | with_reducible apply loadKeys_keeps c1
    | with_reducible apply applyConfig_keeps c2
    | with_reducible apply enterFree_keeps c3
    | with_reducible apply rput_keeps c4
    | with_reducible apply tmpRestart_keeps c5
    | with_reducible apply lockSet_keeps c6
    | with_reducible apply modBoot_keeps c7
    | with_reducible refine fun _ => ?_
    | lift_lets -underBinder
    | (intro x; refine (fun hx : P x => ?_) ?_; clear_value x)
    | (intro x; refine (fun hx : P x.2 => ?_) ?_; clear_value x)
    | (intro x; refine (fun hx : P x.1 => ?_) ?_; clear_value x)
    | (intro x; refine (fun hx : P x.s => ?_) ?_; clear_value x)
    | (intro x; clear_value x)
    | intro _
    | split
    | dsimp -zeta only
    | dsimp -zeta +zetaDelta only
    | lift_lets
    | dsimp only

theorem stepPhys_keeps {P : State → Prop} (c : Closed 0x22a20004200 P) (x1 : State) (x2) (h1 : P x1) :
    P (stepPhys x1 x2) := by
  have c1 := c.sub (K' := 0x20000200) (by decide)
  have c2 := c.sub (K' := 0x20000000) (by decide)
  have c3 := c.sub (K' := 0x2000000200) (by decide)
  have c4 := c.sub (K' := 0x2000000000) (by decide)
  have c5 := c.sub (K' := 0x4000) (by decide)
  have c6 := c.sub (K' := 0x20200000000) (by decide)
  have c7 := c.sub (K' := 0x800000000) (by decide)
  unfold stepPhys
  repeat' first
    | with_reducible assumption
    | with_reducible apply addrFollow_keeps c1
    | with_reducible apply modNet_keeps c2
    | with_reducible apply foFollow_keeps c3
    | with_reducible apply modFo_keeps c4
    | with_reducible apply bootTo_keeps c5
    | with_reducible apply raise_keeps c6
    | with_reducible apply lstPolicy_keeps c7
    | with_reducible refine fun _ => ?_
    | lift_lets -underBinder
    | (intro x; refine (fun hx : P x => ?_) ?_; clear_value x)
    | (intro x; refine (fun hx : P x.2 => ?_) ?_; clear_value x)
    | (intro x; refine (fun hx : P x.1 => ?_) ?_; clear_value x)
    | (intro x; refine (fun hx : P x.s => ?_) ?_; clear_value x)
    | (intro x; clear_value x)
    | intro _
    | split
    | dsimp -zeta only
    | dsimp -zeta +zetaDelta only
    | lift_lets
    | dsimp only

theorem stepRelease_keeps {P : State → Prop} (c : Closed 0x7845030 P) (x1 : State) (h1 : P x1) :
    P (stepRelease x1) := by
  have c1 := c.sub (K' := 0x7841030) (by decide)
  have c2 := c.sub (K' := 0x4000) (by decide)
  unfold stepRelease
  repeat' first
    | with_reducible assumption
    | with_reducible apply releaseDie_keeps c1
    | with_reducible apply mark_keeps c2
    | with_reducible apply modBoot_keeps c2
    | with_reducible refine fun _ => ?_
    | lift_lets -underBinder
    | (intro x; refine (fun hx : P x => ?_) ?_; clear_value x)
    | (intro x; refine (fun hx : P x.2 => ?_) ?_; clear_value x)
    | (intro x; refine (fun hx : P x.1 => ?_) ?_; clear_value x)
    | (intro x; refine (fun hx : P x.s => ?_) ?_; clear_value x)
    | (intro x; clear_value x)
    | with_reducible apply foldl_keeps
    | with_reducible apply foldl_keeps_fst
    | with_reducible apply foldl_keeps_snd
    | intro _
    | split
    | dsimp -zeta only
    | dsimp -zeta +zetaDelta only
    | lift_lets
    | dsimp only

theorem stepEarly_keeps {P : State → Prop} (c : Closed 0x10000fffffe7ffb8 P) (x1 : State) (x2) (h1 : P x1) :
    P (stepEarly x1 x2) := by
  have c1 := c.sub (K' := 0xafa6000d208) (by decide)
  have c2 := c.sub (K' := 0x22a20004200) (by decide)
  have c3 := c.sub (K' := 0xa7a60005208) (by decide)
  have c4 := c.sub (K' := 0x10000ffa7fe77fb8) (by decide)
  have c5 := c.sub (K' := 0x7845030) (by decide)
  have c6 := c.sub (K' := 0xa7a6001da08) (by decide)
  have c7 := c.sub (K' := 0x2020000c000) (by decide)
  have c8 := c.sub (K' := 0x8000) (by decide)
  have c9 := c.sub (K' := 0x4000) (by decide)
  have c10 := c.sub (K' := 0xe7fefe47a38) (by decide)
  have c11 := c.sub (K' := 0xe7fefe67a30) (by decide)
  unfold stepEarly
  repeat' first
    | with_reducible assumption
    | with_reducible apply stepDesc_keeps c1
    | with_reducible apply stepPhys_keeps c2
    | with_reducible apply dormantNow_keeps c3
    | with_reducible apply stepEntries_keeps c4
    | with_reducible apply stepRelease_keeps c5
    | with_reducible apply chooseSlot_keeps c6
    | with_reducible apply stepCfg_keeps c7
    | with_reducible apply modFlash_keeps c8
    | with_reducible apply bootTo_keeps c9
    | with_reducible apply modBoot_keeps c9
    | with_reducible apply stepPower_keeps c10
    | with_reducible apply stepOtp_keeps c11
    | intro _
    | split
    | dsimp -zeta only

theorem stepWeights_keeps {P : State → Prop} (c : Closed 0x10000ffa3fe67fb8 P) (x1 : State) (x2) (h1 : P x1) :
    P (stepWeights x1 x2) := by
  have c1 := c.sub (K' := 0x10000e3a20024238) (by decide)
  have c2 := c.sub (K' := 0x4800) (by decide)
  unfold stepWeights
  repeat' first
    | with_reducible assumption
    | with_reducible apply slotFails_keeps c1
    | with_reducible apply stepDone_keeps c2
    | with_reducible apply weightsDone_keeps c
    | split
    | dsimp -zeta only

theorem stepLate_keeps {P : State → Prop} (c : Closed 0x10000ffa3fe67fb8 P) (x1 : State) (x2) (h1 : P x1) :
    P (stepLate x1 x2) := by
  have c1 := c.sub (K' := 0x4800) (by decide)
  have c2 := c.sub (K' := 0x60208045810) (by decide)
  have c3 := c.sub (K' := 0x20a00004000) (by decide)
  unfold stepLate
  repeat' first
    | with_reducible assumption
    | with_reducible apply stepDone_keeps c1
    | with_reducible apply linksDone_keeps c2
    | with_reducible apply recogDone_keeps c3
    | with_reducible apply stepWeights_keeps c
    | split
    | dsimp -zeta only

theorem execStartupStepComplete_keeps {P : State → Prop} (c : Closed 0x10000fffffe7ffb8 P) (x1) (x2 : State) (h2 : P x2) :
    OnNext P (execStartupStepComplete x1 x2) := by
  have c1 := c.sub (K' := 0x10000ffa3fe67fb8) (by decide)
  unfold execStartupStepComplete
  repeat' first
    | with_reducible assumption
    | with_reducible apply OnNext.unit
    | with_reducible apply OnNext.next
    | with_reducible apply OnNext.fault
    | with_reducible apply stepLate_keeps c1
    | with_reducible apply stepEarly_keeps c
    | split
    | dsimp -zeta only

theorem sitesFree_keeps {P : State → Prop} (c : Closed 0x8 P) (x1 : State) (h1 : P x1) :
    P (sitesFree x1).2 := by
  unfold sitesFree
  refine foldl_keeps_snd (fun t x ht => ?_) _ _ h1
  exact siteOf_keeps c t.2 x ht

theorem stepTimeout_keeps {P : State → Prop} (c : Closed 0x10000e7fefe6fe38 P) (x1 : State) (h1 : P x1) :
    P (stepTimeout x1) := by
  have c1 := c.sub (K' := 0x10000e3a20024238) (by decide)
  have c2 := c.sub (K' := 0x8) (by decide)
  have c3 := c.sub (K' := 0x22a20004200) (by decide)
  have c4 := c.sub (K' := 0x4800) (by decide)
  have c5 := c.sub (K' := 0x60208045810) (by decide)
  have c6 := c.sub (K' := 0xe7fefe47a30) (by decide)
  have c7 := c.sub (K' := 0x2020000c000) (by decide)
  have c8 := c.sub (K' := 0x20a00004000) (by decide)
  have c9 := c.sub (K' := 0xa7a60005208) (by decide)
  have c10 := c.sub (K' := 0x4000) (by decide)
  have c11 := c.sub (K' := 0x400) (by decide)
  unfold stepTimeout
  repeat' first
    | with_reducible assumption
    | with_reducible apply slotFails_keeps c1
    | with_reducible apply fresh_keeps c2
    | with_reducible apply stepPhys_keeps c3
    | with_reducible apply stepDone_keeps c4
    | with_reducible apply linksDone_keeps c5
    | with_reducible apply haltNow_keeps c6
    | with_reducible apply cfgDefaults_keeps c7
    | with_reducible apply recogDone_keeps c8
    | with_reducible apply dormantNow_keeps c9
    | with_reducible apply sitesFree_keeps c2
    | with_reducible apply mark_keeps c10
    | with_reducible apply powerBad_keeps c6
    | with_reducible apply modTb_keeps c11
    | with_reducible refine snd_of (by assumption) ?_
    | with_reducible refine fun _ => ?_
    | lift_lets -underBinder
    | (intro x; refine (fun hx : P x => ?_) ?_; clear_value x)
    | (intro x; refine (fun hx : P x.2 => ?_) ?_; clear_value x)
    | (intro x; refine (fun hx : P x.1 => ?_) ?_; clear_value x)
    | (intro x; refine (fun hx : P x.s => ?_) ?_; clear_value x)
    | (intro x; clear_value x)
    | intro _
    | split
    | dsimp -zeta only
    | dsimp -zeta +zetaDelta only
    | lift_lets
    | dsimp only

theorem execStartupStepTimeout_keeps {P : State → Prop} (c : Closed 0x10000e7fefe6fe38 P) (x1 : State) (h1 : P x1) :
    OnNext P (execStartupStepTimeout x1) := by
  unfold execStartupStepTimeout
  repeat' first
    | with_reducible assumption
    | with_reducible apply OnNext.unit
    | with_reducible apply OnNext.next
    | with_reducible apply OnNext.fault
    | with_reducible apply stepTimeout_keeps c
    | dsimp -zeta only

theorem execDormantReport_keeps {P : State → Prop} (c : Closed 0x20200000000 P) (x1 : State) (h1 : P x1) :
    OnNext P (execDormantReport x1) := by
  unfold execDormantReport
  repeat' first
    | with_reducible assumption
    | with_reducible apply OnNext.unit
    | with_reducible apply OnNext.next
    | with_reducible apply OnNext.fault
    | with_reducible apply raise_keeps c
    | split
    | dsimp -zeta only

theorem holdWrite_keeps {P : State → Prop} (c : Closed 0x200 P) (x1 : State) (x2) (x3) (x4 : State → State) (h1 : P x1) (h4 : ∀ y0, P y0 → P (x4 y0)) :
    OnNext P (holdWrite x1 x2 x3 x4) := by
  unfold holdWrite
  repeat' first
    | with_reducible assumption
    | with_reducible apply OnNext.unit
    | with_reducible apply OnNext.next
    | with_reducible apply OnNext.fault
    | with_reducible apply answer_keeps c
    | intro _
    | split
    | with_reducible apply_assumption
    | dsimp -zeta only

theorem execDieHoldSet_keeps {P : State → Prop} (c : Closed 0x6020fe47a30 P) (x1) (x2) (x3 : State) (h3 : P x3) :
    OnNext P (execDieHoldSet x1 x2 x3) := by
  have c1 := c.sub (K' := 0x200) (by decide)
  have c2 := c.sub (K' := 0x6020fe47830) (by decide)
  unfold execDieHoldSet
  repeat' first
    | with_reducible assumption
    | with_reducible apply OnNext.unit
    | with_reducible apply OnNext.next
    | with_reducible apply OnNext.fault
    | with_reducible apply holdWrite_keeps c1
    | with_reducible apply holdDie_keeps c2
    | intro _
    | split
    | dsimp -zeta only

theorem execDieHoldRelease_keeps {P : State → Prop} (c : Closed 0x6020f845a30 P) (x1) (x2) (x3) (x4) (x5) (x6 : State) (h6 : P x6) :
    OnNext P (execDieHoldRelease x1 x2 x3 x4 x5 x6) := by
  have c1 := c.sub (K' := 0x6020f845830) (by decide)
  have c2 := c.sub (K' := 0x200) (by decide)
  unfold execDieHoldRelease
  repeat' first
    | with_reducible assumption
    | with_reducible apply OnNext.unit
    | with_reducible apply OnNext.next
    | with_reducible apply OnNext.fault
    | with_reducible apply releaseWith_keeps c1
    | with_reducible apply holdWrite_keeps c2
    | intro _
    | split
    | dsimp -zeta only

theorem execDieReset_keeps {P : State → Prop} (c : Closed 0x60207a47a30 P) (x1) (x2) (x3) (x4) (x5 : State) (h5 : P x5) :
    OnNext P (execDieReset x1 x2 x3 x4 x5) := by
  have c1 := c.sub (K' := 0x200) (by decide)
  have c2 := c.sub (K' := 0x60207a47830) (by decide)
  unfold execDieReset
  repeat' first
    | with_reducible assumption
    | with_reducible apply OnNext.unit
    | with_reducible apply OnNext.next
    | with_reducible apply OnNext.fault
    | with_reducible apply answer_keeps c1
    | with_reducible apply dieResetNow_keeps c2
    | split
    | dsimp -zeta only

theorem eyeRuntime_keeps {P : State → Prop} (c : Closed 0x10000ffa3fe67fb8 P) (x1 : State) (h1 : P x1) :
    P (eyeRuntime x1) := by
  unfold eyeRuntime
  repeat' first
    | with_reducible assumption
    | with_reducible apply regWriteHere_keeps c
    | with_reducible refine fst_of (by assumption) ?_
    | with_reducible apply foldl_keeps
    | with_reducible apply foldl_keeps_fst
    | with_reducible apply foldl_keeps_snd
    | intro _
    | split
    | dsimp -zeta only

theorem dieReadyNow_keeps {P : State → Prop} (c : Closed 0x10000ffa3fe67fb8 P) (x1 : State) (x2) (h1 : P x1) :
    P (dieReadyNow x1 x2) := by
  have c1 := c.sub (K' := 0x1000) (by decide)
  have c2 := c.sub (K' := 0x20210402200) (by decide)
  have c3 := c.sub (K' := 0x10) (by decide)
  unfold dieReadyNow
  repeat' first
    | with_reducible assumption
    | with_reducible apply modDie_keeps c1
    | with_reducible apply hvRestore_keeps c2
    | with_reducible apply eyeRuntime_keeps c
    | with_reducible apply loadRoutes_keeps c3
    | with_reducible apply loadRoutesOf_keeps c3
    | with_reducible apply setupDie_keeps c
    | with_reducible refine fun _ => ?_
    | lift_lets -underBinder
    | (intro x; refine (fun hx : P x => ?_) ?_; clear_value x)
    | (intro x; refine (fun hx : P x.2 => ?_) ?_; clear_value x)
    | (intro x; refine (fun hx : P x.1 => ?_) ?_; clear_value x)
    | (intro x; refine (fun hx : P x.s => ?_) ?_; clear_value x)
    | (intro x; clear_value x)
    | intro _
    | split
    | dsimp -zeta only
    | dsimp -zeta +zetaDelta only
    | lift_lets
    | dsimp only

theorem execDieReady_keeps {P : State → Prop} (c : Closed 0x10000ffa3fe67fb8 P) (x1) (x2 : State) (h2 : P x2) :
    OnNext P (execDieReady x1 x2) := by
  have c1 := c.sub (K' := 0x60200244a10) (by decide)
  unfold execDieReady
  repeat' first
    | with_reducible assumption
    | with_reducible apply OnNext.unit
    | with_reducible apply OnNext.next
    | with_reducible apply OnNext.fault
    | with_reducible apply dieReadyNow_keeps c
    | with_reducible apply onMsg_keeps c1
    | intro _
    | split
    | dsimp -zeta only

theorem bootReport_keeps {P : State → Prop} (c : Closed 0x20200004010 P) (x1 : State) (h1 : P x1) :
    P (bootReport x1) := by
  have c1 := c.sub (K' := 0x10) (by decide)
  have c2 := c.sub (K' := 0x20200000000) (by decide)
  have c3 := c.sub (K' := 0x4000) (by decide)
  unfold bootReport
  repeat' first
    | with_reducible assumption
    | with_reducible apply rput_keeps c1
    | with_reducible apply raise_keeps c2
    | with_reducible apply modBoot_keeps c3
    | with_reducible refine fun _ => ?_
    | lift_lets -underBinder
    | (intro x; refine (fun hx : P x => ?_) ?_; clear_value x)
    | (intro x; refine (fun hx : P x.2 => ?_) ?_; clear_value x)
    | (intro x; refine (fun hx : P x.1 => ?_) ?_; clear_value x)
    | (intro x; refine (fun hx : P x.s => ?_) ?_; clear_value x)
    | (intro x; clear_value x)
    | intro _
    | dsimp -zeta only
    | dsimp -zeta +zetaDelta only
    | lift_lets
    | dsimp only

theorem execFirstEpoch_keeps {P : State → Prop} (c : Closed 0xa7a00005a18 P) (x1 : State) (h1 : P x1) :
    OnNext P (execFirstEpoch x1) := by
  have c1 := c.sub (K' := 0x1000) (by decide)
  have c2 := c.sub (K' := 0x800) (by decide)
  have c3 := c.sub (K' := 0x80000000000) (by decide)
  have c4 := c.sub (K' := 0x20200004010) (by decide)
  have c5 := c.sub (K' := 0x20200000000) (by decide)
  have c6 := c.sub (K' := 0x4000) (by decide)
  have c7 := c.sub (K' := 0xa7a00001208) (by decide)
  unfold execFirstEpoch
  repeat' first
    | with_reducible assumption
    | with_reducible apply OnNext.unit
    | with_reducible apply OnNext.next
    | with_reducible apply OnNext.fault
    | with_reducible apply modDie_keeps c1
    | with_reducible apply modSeq_keeps c2
    | with_reducible apply modPower_keeps c3
    | with_reducible apply bootReport_keeps c4
    | with_reducible apply raise_keeps c5
    | with_reducible apply modBoot_keeps c6
    | with_reducible apply seasonTo_keeps c7
    | with_reducible refine fun _ => ?_
    | lift_lets -underBinder
    | (intro x; refine (fun hx : P x => ?_) ?_; clear_value x)
    | (intro x; refine (fun hx : P x.2 => ?_) ?_; clear_value x)
    | (intro x; refine (fun hx : P x.1 => ?_) ?_; clear_value x)
    | (intro x; refine (fun hx : P x.s => ?_) ?_; clear_value x)
    | (intro x; clear_value x)
    | with_reducible apply foldl_keeps
    | with_reducible apply foldl_keeps_fst
    | with_reducible apply foldl_keeps_snd
    | intro _
    | split
    | dsimp -zeta only
    | dsimp -zeta +zetaDelta only
    | lift_lets
    | dsimp only

theorem autoRaise_keeps {P : State → Prop} (c : Closed 0x20200020018 P) (x1 : State) (x2) (x3) (h1 : P x1) :
    P (autoRaise x1 x2 x3) := by
  have c1 := c.sub (K' := 0x8) (by decide)
  have c2 := c.sub (K' := 0x20200020008) (by decide)
  have c3 := c.sub (K' := 0x10) (by decide)
  unfold autoRaise
  repeat' first
    | with_reducible assumption
    | with_reducible apply otpAnalogOf_keeps c1
    | with_reducible apply otpRollbackRaise_keeps c2
    | with_reducible apply rput_keeps c3
    | with_reducible refine snd_of (by assumption) ?_
    | with_reducible refine fun _ => ?_
    | lift_lets -underBinder
    | (intro x; refine (fun hx : P x => ?_) ?_; clear_value x)
    | (intro x; refine (fun hx : P x.2 => ?_) ?_; clear_value x)
    | (intro x; refine (fun hx : P x.1 => ?_) ?_; clear_value x)
    | (intro x; refine (fun hx : P x.s => ?_) ?_; clear_value x)
    | (intro x; clear_value x)
    | split
    | dsimp -zeta only
    | dsimp -zeta +zetaDelta only
    | lift_lets
    | dsimp only

theorem execSlotConfirm_keeps {P : State → Prop} (c : Closed 0x2020002c218 P) (x1 : State) (h1 : P x1) :
    OnNext P (execSlotConfirm x1) := by
  have c1 := c.sub (K' := 0xc200) (by decide)
  have c2 := c.sub (K' := 0x20200020018) (by decide)
  unfold execSlotConfirm
  repeat' first
    | with_reducible assumption
    | with_reducible apply OnNext.unit
    | with_reducible apply OnNext.next
    | with_reducible apply OnNext.fault
    | with_reducible apply writeDesc_keeps c1
    | with_reducible apply autoRaise_keeps c2
    | with_reducible refine fun _ => ?_
    | lift_lets -underBinder
    | (intro x; refine (fun hx : P x => ?_) ?_; clear_value x)
    | (intro x; refine (fun hx : P x.2 => ?_) ?_; clear_value x)
    | (intro x; refine (fun hx : P x.1 => ?_) ?_; clear_value x)
    | (intro x; refine (fun hx : P x.s => ?_) ?_; clear_value x)
    | (intro x; clear_value x)
    | intro _
    | split
    | dsimp -zeta only
    | dsimp -zeta +zetaDelta only
    | lift_lets
    | dsimp only

theorem execLcAdvance_keeps {P : State → Prop} (c : Closed 0x10000e2200024230 P) (x1) (x2) (x3) (x4 : State) (h4 : P x4) :
    OnNext P (execLcAdvance x1 x2 x3 x4) := by
  have c1 := c.sub (K' := 0x200) (by decide)
  have c2 := c.sub (K' := 0x20200020000) (by decide)
  unfold execLcAdvance
  repeat' first
    | with_reducible assumption
    | with_reducible apply OnNext.unit
    | with_reducible apply OnNext.next
    | with_reducible apply OnNext.fault
    | with_reducible apply answer_keeps c1
    | with_reducible apply afterLcAdvance_keeps c
    | with_reducible apply otpLcAdvance_keeps c2
    | split
    | dsimp -zeta only

theorem execOtpLockSet_keeps {P : State → Prop} (c : Closed 0x10000ffa3fe67fb8 P) (x1) (x2) (x3 : State) (h3 : P x3) :
    OnNext P (execOtpLockSet x1 x2 x3) := by
  have c1 := c.sub (K' := 0x200) (by decide)
  unfold execOtpLockSet
  repeat' first
    | with_reducible assumption
    | with_reducible apply OnNext.unit
    | with_reducible apply OnNext.next
    | with_reducible apply OnNext.fault
    | with_reducible apply regWrite_keeps c
    | with_reducible apply answerWrite_keeps c1
    | with_reducible refine fst_of (by assumption) ?_
    | dsimp -zeta only

theorem execDebugDisableEffect_keeps {P : State → Prop} (c : Closed 0x60000060018 P) (x1 : State) (h1 : P x1) :
    OnNext P (execDebugDisableEffect x1) := by
  have c1 := c.sub (K' := 0x40000) (by decide)
  have c2 := c.sub (K' := 0x8) (by decide)
  have c3 := c.sub (K' := 0x60000000000) (by decide)
  have c4 := c.sub (K' := 0x10) (by decide)
  have c5 := c.sub (K' := 0x20000) (by decide)
  unfold execDebugDisableEffect
  repeat' first
    | with_reducible assumption
    | with_reducible apply OnNext.unit
    | with_reducible apply OnNext.next
    | with_reducible apply OnNext.fault
    | with_reducible apply modPort_keeps c1
    | with_reducible apply fresh_keeps c2
    | with_reducible apply logOnly_keeps c3
    | with_reducible apply rputf_keeps c4
    | with_reducible apply modOtp_keeps c5
    | with_reducible refine snd_of (by assumption) ?_
    | with_reducible refine fun _ => ?_
    | lift_lets -underBinder
    | (intro x; refine (fun hx : P x => ?_) ?_; clear_value x)
    | (intro x; refine (fun hx : P x.2 => ?_) ?_; clear_value x)
    | (intro x; refine (fun hx : P x.1 => ?_) ?_; clear_value x)
    | (intro x; refine (fun hx : P x.s => ?_) ?_; clear_value x)
    | (intro x; clear_value x)
    | with_reducible apply foldl_keeps
    | with_reducible apply foldl_keeps_fst
    | with_reducible apply foldl_keeps_snd
    | intro _
    | split
    | (apply otpGrows_same <;> rfl)
    | exact physSet_grows _ _ _
    | exact burnRedir_grows _ _ _
    | dsimp -zeta only
    | dsimp -zeta +zetaDelta only
    | lift_lets
    | dsimp only

end Sys2Proof.Laws
end

