-- ==== Sys2Proof/Laws/KeepsEye.lean ====
section
/-! SUPPORT. What each function of Machine/Eye.lean can change: a predicate closed under its changes survives it. -/
namespace Sys2Proof.Laws
open Sys2Proof Sys2Proof.Machine

theorem execExpose_keeps {P : State → Prop} (c : Closed 0x60201845a10 P) (x1) (x2) (x3 : State) (h3 : P x3) :
    OnNext P (execExpose x1 x2 x3) := by
  have c1 := c.sub (K' := 0x60200045a10) (by decide)
  have c2 := c.sub (K' := 0x60201841000) (by decide)
  unfold execExpose
  repeat' first
    | with_reducible assumption
    | with_reducible apply OnNext.unit
    | with_reducible apply OnNext.next
    | with_reducible apply OnNext.fault
    | with_reducible apply onLaunch_keeps c1
    | with_reducible apply startExpose_keeps c2
    | dsimp -zeta only

theorem execExposeHdr_keeps {P : State → Prop} (c : Closed 0x60201845a10 P) (x1) (x2) (x3 : State) (h3 : P x3) :
    OnNext P (execExposeHdr x1 x2 x3) := by
  have c1 := c.sub (K' := 0x60200045a10) (by decide)
  have c2 := c.sub (K' := 0x60201841000) (by decide)
  unfold execExposeHdr
  repeat' first
    | with_reducible assumption
    | with_reducible apply OnNext.unit
    | with_reducible apply OnNext.next
    | with_reducible apply OnNext.fault
    | with_reducible apply onLaunch_keeps c1
    | with_reducible apply startExpose_keeps c2
    | dsimp -zeta only

theorem execSensorCalDone_keeps {P : State → Prop} (c : Closed 0x800008 P) (x1) (x2) (x3 : State) (h3 : P x3) :
    OnNext P (execSensorCalDone x1 x2 x3) := by
  have c1 := c.sub (K' := 0x8) (by decide)
  have c2 := c.sub (K' := 0x800000) (by decide)
  unfold execSensorCalDone
  repeat' first
    | with_reducible assumption
    | with_reducible apply OnNext.unit
    | with_reducible apply OnNext.next
    | with_reducible apply OnNext.fault
    | with_reducible apply fresh_keeps c1
    | with_reducible apply modEye_keeps c2
    | with_reducible refine snd_of (by assumption) ?_
    | with_reducible refine fun _ => ?_
    | lift_lets -underBinder
    | (intro x; refine (fun hx : P x => ?_) ?_; clear_value x)
    | (intro x; refine (fun hx : P x.2 => ?_) ?_; clear_value x)
    | (intro x; refine (fun hx : P x.1 => ?_) ?_; clear_value x)
    | (intro x; refine (fun hx : P x.s => ?_) ?_; clear_value x)
    | (intro x; clear_value x)
    | intro _
    | split
    | dsimp -zeta only
    | dsimp -zeta +zetaDelta only

theorem execCalTimeout_keeps {P : State → Prop} (c : Closed 0x800000 P) (x1 : State) (h1 : P x1) :
    OnNext P (execCalTimeout x1) := by
  unfold execCalTimeout
  repeat' first
    | with_reducible assumption
    | with_reducible apply OnNext.unit
    | with_reducible apply OnNext.next
    | with_reducible apply OnNext.fault
    | with_reducible apply modEye_keeps c
    | intro _
    | split
    | dsimp -zeta only

theorem execExposureEnd_keeps {P : State → Prop} (c : Closed 0x800000 P) (x1 : State) (h1 : P x1) :
    OnNext P (execExposureEnd x1) := by
  unfold execExposureEnd
  repeat' first
    | with_reducible assumption
    | with_reducible apply OnNext.unit
    | with_reducible apply OnNext.next
    | with_reducible apply OnNext.fault
    | with_reducible apply modEye_keeps c
    | intro _
    | split
    | dsimp -zeta only

theorem execBankPowerUp_keeps {P : State → Prop} (c : Closed 0x800000 P) (x1 : State) (h1 : P x1) :
    OnNext P (execBankPowerUp x1) := by
  unfold execBankPowerUp
  repeat' first
    | with_reducible assumption
    | with_reducible apply OnNext.unit
    | with_reducible apply OnNext.next
    | with_reducible apply OnNext.fault
    | with_reducible apply modEye_keeps c
    | intro _
    | dsimp -zeta only

theorem execRowConverted_keeps {P : State → Prop} (c : Closed 0xc01008 P) (x1) (x2) (x3 : State) (h3 : P x3) :
    OnNext P (execRowConverted x1 x2 x3) := by
  unfold execRowConverted
  repeat' first
    | with_reducible assumption
    | with_reducible apply OnNext.unit
    | with_reducible apply OnNext.next
    | with_reducible apply OnNext.fault
    | with_reducible apply convertRow_keeps c
    | split
    | dsimp -zeta only

theorem execVpixFault_keeps {P : State → Prop} (c : Closed 0x60201841000 P) (x1 : State) (h1 : P x1) :
    OnNext P (execVpixFault x1) := by
  have c1 := c.sub (K' := 0x60000000000) (by decide)
  unfold execVpixFault
  repeat' first
    | with_reducible assumption
    | with_reducible apply OnNext.unit
    | with_reducible apply OnNext.next
    | with_reducible apply OnNext.fault
    | with_reducible apply logOnly_keeps c1
    | with_reducible apply sensorMissing_keeps c
    | split
    | dsimp -zeta only

theorem execSeqClockLost_keeps {P : State → Prop} (c : Closed 0x60201841000 P) (x1 : State) (h1 : P x1) :
    OnNext P (execSeqClockLost x1) := by
  have c1 := c.sub (K' := 0x800000) (by decide)
  unfold execSeqClockLost
  repeat' first
    | with_reducible assumption
    | with_reducible apply OnNext.unit
    | with_reducible apply OnNext.next
    | with_reducible apply OnNext.fault
    | with_reducible apply modEye_keeps c1
    | with_reducible apply sensorMissing_keeps c
    | with_reducible refine fun _ => ?_
    | lift_lets -underBinder
    | (intro x; refine (fun hx : P x => ?_) ?_; clear_value x)
    | (intro x; refine (fun hx : P x.2 => ?_) ?_; clear_value x)
    | (intro x; refine (fun hx : P x.1 => ?_) ?_; clear_value x)
    | (intro x; refine (fun hx : P x.s => ?_) ?_; clear_value x)
    | (intro x; clear_value x)
    | intro _
    | split
    | dsimp -zeta only
    | dsimp -zeta +zetaDelta only

theorem execSeqClockRelock_keeps {P : State → Prop} (c : Closed 0x800000 P) (x1 : State) (h1 : P x1) :
    OnNext P (execSeqClockRelock x1) := by
  unfold execSeqClockRelock
  repeat' first
    | with_reducible assumption
    | with_reducible apply OnNext.unit
    | with_reducible apply OnNext.next
    | with_reducible apply OnNext.fault
    | with_reducible apply modEye_keeps c
    | intro _
    | dsimp -zeta only

end Sys2Proof.Laws
end

