-- ==== Sys2Proof/Laws/KeepsIsp.lean ====
section
/-! SUPPORT. What each function of Machine/Isp.lean can change: a predicate closed under its changes survives it. -/
namespace Sys2Proof.Laws
open Sys2Proof Sys2Proof.Machine

theorem execIspStart_keeps {P : State → Prop} (c : Closed 0x60201045a10 P) (x1) (x2 : State) (h2 : P x2) :
    OnNext P (execIspStart x1 x2) := by
  have c1 := c.sub (K' := 0x60001001000) (by decide)
  have c2 := c.sub (K' := 0x60200045a10) (by decide)
  unfold execIspStart
  repeat' first
    | with_reducible assumption
    | with_reducible apply OnNext.unit
    | with_reducible apply OnNext.next
    | with_reducible apply OnNext.fault
    | with_reducible apply startIsp_keeps c1
    | with_reducible apply onLaunch_keeps c2
    | dsimp -zeta only

theorem execIspRowProcess_keeps {P : State → Prop} (c : Closed 0x60201841008 P) (x1) (x2) (x3) (x4) (x5) (x6 : State) (h6 : P x6) :
    OnNext P (execIspRowProcess x1 x2 x3 x4 x5 x6) := by
  have c1 := c.sub (K' := 0x1000000) (by decide)
  have c2 := c.sub (K' := 0x60000000000) (by decide)
  have c3 := c.sub (K' := 0x60201841000) (by decide)
  unfold execIspRowProcess
  repeat' first
    | with_reducible assumption
    | with_reducible apply OnNext.unit
    | with_reducible apply OnNext.next
    | with_reducible apply OnNext.fault
    | with_reducible apply modIsp_keeps c1
    | with_reducible apply logOnly_keeps c2
    | with_reducible apply processRow_keeps c
    | with_reducible apply abortFrame_keeps c3
    | intro _
    | split
    | dsimp -zeta only

theorem execFrameTimeout_keeps {P : State → Prop} (c : Closed 0x60201841000 P) (x1 : State) (h1 : P x1) :
    OnNext P (execFrameTimeout x1) := by
  unfold execFrameTimeout
  repeat' first
    | with_reducible assumption
    | with_reducible apply OnNext.unit
    | with_reducible apply OnNext.next
    | with_reducible apply OnNext.fault
    | with_reducible apply abortFrame_keeps c
    | split
    | dsimp -zeta only

end Sys2Proof.Laws
end

