-- ==== Sys2Proof/Laws/KeepsPmbus.lean ====
section
/-! SUPPORT. What each function of Machine/Pmbus.lean can change: a predicate closed under its changes survives it. -/
namespace Sys2Proof.Laws
open Sys2Proof Sys2Proof.Machine

theorem pmFails_keeps {P : State → Prop} (c : Closed 0xa8200000000 P) (x1 : State) (h1 : P x1) :
    P (pmFails x1) := by
  have c1 := c.sub (K' := 0x8000000000) (by decide)
  have c2 := c.sub (K' := 0xa0200000000) (by decide)
  have c3 := c.sub (K' := 0x20200000000) (by decide)
  unfold pmFails
  repeat' first
    | with_reducible assumption
    | with_reducible apply modBus_keeps c1
    | with_reducible apply vcoreFaultNow_keeps c2
    | with_reducible apply raise_keeps c3
    | with_reducible refine fun _ => ?_
    | lift_lets -underBinder
    | (intro x; refine (fun hx : P x => ?_) ?_; clear_value x)
    | (intro x; refine (fun hx : P x.2 => ?_) ?_; clear_value x)
    | (intro x; refine (fun hx : P x.1 => ?_) ?_; clear_value x)
    | (intro x; refine (fun hx : P x.s => ?_) ?_; clear_value x)
    | (intro x; clear_value x)
    | intro _
    | split
    | dsimp -zeta only
    | dsimp -zeta +zetaDelta only
    | lift_lets
    | dsimp only

theorem pmWorks_keeps {P : State → Prop} (c : Closed 0x88000000208 P) (x1 : State) (h1 : P x1) :
    P (pmWorks x1) := by
  have c1 := c.sub (K' := 0x8000000000) (by decide)
  have c2 := c.sub (K' := 0x80000000208) (by decide)
  unfold pmWorks
  repeat' first
    | with_reducible assumption
    | with_reducible apply modBus_keeps c1
    | with_reducible apply sendVcore_keeps c2
    | with_reducible refine fun _ => ?_
    | lift_lets -underBinder
    | (intro x; refine (fun hx : P x => ?_) ?_; clear_value x)
    | (intro x; refine (fun hx : P x.2 => ?_) ?_; clear_value x)
    | (intro x; refine (fun hx : P x.1 => ?_) ?_; clear_value x)
    | (intro x; refine (fun hx : P x.s => ?_) ?_; clear_value x)
    | (intro x; clear_value x)
    | intro _
    | split
    | dsimp -zeta only
    | dsimp -zeta +zetaDelta only
    | lift_lets
    | dsimp only

theorem execPmAlert_keeps {P : State → Prop} (c : Closed 0x10000ea200024238 P) (x1) (x2) (x3 : State) (h3 : P x3) :
    OnNext P (execPmAlert x1 x2 x3) := by
  have c1 := c.sub (K' := 0xa8200000000) (by decide)
  have c2 := c.sub (K' := 0x8000000000) (by decide)
  have c3 := c.sub (K' := 0x88000000208) (by decide)
  have c4 := c.sub (K' := 0x200) (by decide)
  have c5 := c.sub (K' := 0x10000e2200024230) (by decide)
  have c6 := c.sub (K' := 0xa0200000208) (by decide)
  unfold execPmAlert
  repeat' first
    | with_reducible assumption
    | with_reducible apply OnNext.unit
    | with_reducible apply OnNext.next
    | with_reducible apply OnNext.fault
    | with_reducible apply pmFails_keeps c1
    | with_reducible apply modBus_keeps c2
    | with_reducible apply pmWorks_keeps c3
    | with_reducible apply emit_keeps c4
    | with_reducible apply coldNow_keeps c5
    | with_reducible apply pLevelUp_keeps c6
    | with_reducible refine fun _ => ?_
    | lift_lets -underBinder
    | (intro x; refine (fun hx : P x => ?_) ?_; clear_value x)
    | (intro x; refine (fun hx : P x.2 => ?_) ?_; clear_value x)
    | (intro x; refine (fun hx : P x.1 => ?_) ?_; clear_value x)
    | (intro x; refine (fun hx : P x.s => ?_) ?_; clear_value x)
    | (intro x; clear_value x)
    | intro _
    | split
    | dsimp -zeta only
    | dsimp -zeta +zetaDelta only
    | lift_lets
    | dsimp only

theorem addEnergy_keeps {P : State → Prop} (c : Closed 0x80000000000 P) (x1 : State) (h1 : P x1) :
    P (addEnergy x1) := by
  unfold addEnergy
  repeat' first
    | with_reducible assumption
    | with_reducible apply modPower_keeps c
    | with_reducible refine fun _ => ?_
    | lift_lets -underBinder
    | (intro x; refine (fun hx : P x => ?_) ?_; clear_value x)
    | (intro x; refine (fun hx : P x.2 => ?_) ?_; clear_value x)
    | (intro x; refine (fun hx : P x.1 => ?_) ?_; clear_value x)
    | (intro x; refine (fun hx : P x.s => ?_) ?_; clear_value x)
    | (intro x; clear_value x)
    | intro _
    | split
    | dsimp -zeta only
    | dsimp -zeta +zetaDelta only
    | lift_lets
    | dsimp only

theorem execVcoreTelemetry_keeps {P : State → Prop} (c : Closed 0xa8200000208 P) (x1) (x2) (x3) (x4 : State) (h4 : P x4) :
    OnNext P (execVcoreTelemetry x1 x2 x3 x4) := by
  have c1 := c.sub (K' := 0xa8200000000) (by decide)
  have c2 := c.sub (K' := 0x80000000000) (by decide)
  have c3 := c.sub (K' := 0x88000000208) (by decide)
  unfold execVcoreTelemetry
  repeat' first
    | with_reducible assumption
    | with_reducible apply OnNext.unit
    | with_reducible apply OnNext.next
    | with_reducible apply OnNext.fault
    | with_reducible apply pmFails_keeps c1
    | with_reducible apply modPower_keeps c2
    | with_reducible apply pmWorks_keeps c3
    | with_reducible apply addEnergy_keeps c2
    | with_reducible refine fun _ => ?_
    | lift_lets -underBinder
    | (intro x; refine (fun hx : P x => ?_) ?_; clear_value x)
    | (intro x; refine (fun hx : P x.2 => ?_) ?_; clear_value x)
    | (intro x; refine (fun hx : P x.1 => ?_) ?_; clear_value x)
    | (intro x; refine (fun hx : P x.s => ?_) ?_; clear_value x)
    | (intro x; clear_value x)
    | intro _
    | split
    | dsimp -zeta only
    | dsimp -zeta +zetaDelta only
    | lift_lets
    | dsimp only

end Sys2Proof.Laws
end

