-- ==== Sys2Proof/Laws/KeepsEquinoxOps.lean ====
section
/-! SUPPORT. What each function of Machine/EquinoxOps.lean can change: a predicate closed under its changes survives it. -/
namespace Sys2Proof.Laws
open Sys2Proof Sys2Proof.Machine

theorem dropCrops_keeps {P : State → Prop} (c : Closed 0x8000000 P) (x1 : State) (x2) (h1 : P x1) :
    P (dropCrops x1 x2) := by
  unfold dropCrops
  repeat' first
    | with_reducible assumption
    | with_reducible apply modGuard_keeps c
    | intro _
    | split
    | dsimp -zeta only

theorem drainDie_keeps {P : State → Prop} (c : Closed 0x6020ba41000 P) (x1 : State) (x2) (h1 : P x1) :
    P (drainDie x1 x2) := by
  have c1 := c.sub (K' := 0x1000) (by decide)
  have c2 := c.sub (K' := 0x8000000) (by decide)
  have c3 := c.sub (K' := 0x2000000) (by decide)
  have c4 := c.sub (K' := 0x60200241000) (by decide)
  have c5 := c.sub (K' := 0x60201841000) (by decide)
  unfold drainDie
  repeat' first
    | with_reducible assumption
    | with_reducible apply refuseLaunches_keeps c1
    | with_reducible apply dropCrops_keeps c2
    | with_reducible apply dropHalos_keeps c3
    | with_reducible apply drainCheck_keeps c4
    | with_reducible apply eyeKill_keeps c5
    | with_reducible refine fun _ => ?_
    | lift_lets -underBinder
    | (intro x; refine (fun hx : P x => ?_) ?_; clear_value x)
    | (intro x; refine (fun hx : P x.2 => ?_) ?_; clear_value x)
    | (intro x; refine (fun hx : P x.1 => ?_) ?_; clear_value x)
    | (intro x; refine (fun hx : P x.s => ?_) ?_; clear_value x)
    | (intro x; clear_value x)
    | split
    | dsimp -zeta only
    | dsimp -zeta +zetaDelta only
    | lift_lets
    | dsimp only

theorem forceUnits_keeps {P : State → Prop} (c : Closed 0x6001000 P) (x1 : State) (x2) (h1 : P x1) :
    P (forceUnits x1 x2) := by
  have c1 := c.sub (K' := 0x4000000) (by decide)
  have c2 := c.sub (K' := 0x1000) (by decide)
  have c3 := c.sub (K' := 0x2001000) (by decide)
  unfold forceUnits
  repeat' first
    | with_reducible assumption
    | with_reducible apply modDet_keeps c1
    | with_reducible apply unitDone_keeps c2
    | with_reducible apply endEntry_keeps c3
    | with_reducible refine fun _ => ?_
    | lift_lets -underBinder
    | (intro x; refine (fun hx : P x => ?_) ?_; clear_value x)
    | (intro x; refine (fun hx : P x.2 => ?_) ?_; clear_value x)
    | (intro x; refine (fun hx : P x.1 => ?_) ?_; clear_value x)
    | (intro x; refine (fun hx : P x.s => ?_) ?_; clear_value x)
    | (intro x; clear_value x)
    | with_reducible apply foldl_keeps
    | with_reducible apply foldl_keeps_fst
    | with_reducible apply foldl_keeps_snd
    | intro _
    | split
    | dsimp -zeta only
    | dsimp -zeta +zetaDelta only
    | lift_lets
    | dsimp only

theorem forceDie_keeps {P : State → Prop} (c : Closed 0x6021fa43800 P) (x1 : State) (x2) (h1 : P x1) :
    P (forceDie x1 x2) := by
  have c1 := c.sub (K' := 0x6001000) (by decide)
  have c2 := c.sub (K' := 0x1001000) (by decide)
  have c3 := c.sub (K' := 0x40000) (by decide)
  have c4 := c.sub (K' := 0x10000000) (by decide)
  have c5 := c.sub (K' := 0x1000) (by decide)
  have c6 := c.sub (K' := 0x200000) (by decide)
  have c7 := c.sub (K' := 0x1800) (by decide)
  have c8 := c.sub (K' := 0x60200041000) (by decide)
  have c9 := c.sub (K' := 0x8000000) (by decide)
  have c10 := c.sub (K' := 0x2000000) (by decide)
  have c11 := c.sub (K' := 0x2000) (by decide)
  have c12 := c.sub (K' := 0x60201841000) (by decide)
  unfold forceDie
  repeat' first
    | with_reducible assumption
    | with_reducible apply forceUnits_keeps c1
    | with_reducible apply ispAborted_keeps c2
    | with_reducible apply dropOutbound_keeps c3
    | with_reducible apply hvDiscard_keeps c4
    | with_reducible apply refuseLaunches_keeps c5
    | with_reducible apply dropCache_keeps c6
    | with_reducible apply unitDone_keeps c5
    | with_reducible apply dropQueued_keeps c7
    | with_reducible apply sendDrained_keeps c8
    | with_reducible apply dropCrops_keeps c9
    | with_reducible apply forceReads_keeps c6
    | with_reducible apply dropHalos_keeps c10
    | with_reducible apply ledgerMark_keeps c11
    | with_reducible apply eyeKill_keeps c12
    | with_reducible refine snd_of (by assumption) ?_
    | with_reducible refine fun _ => ?_
    | lift_lets -underBinder
    | (intro x; refine (fun hx : P x => ?_) ?_; clear_value x)
    | (intro x; refine (fun hx : P x.2 => ?_) ?_; clear_value x)
    | (intro x; refine (fun hx : P x.1 => ?_) ?_; clear_value x)
    | (intro x; refine (fun hx : P x.s => ?_) ?_; clear_value x)
    | (intro x; clear_value x)
    | split
    | dsimp -zeta only
    | dsimp -zeta +zetaDelta only
    | lift_lets
    | dsimp only

theorem sendDone_keeps {P : State → Prop} (c : Closed 0x60200041000 P) (x1 : State) (x2) (h1 : P x1) :
    P (sendDone x1 x2) := by
  have c1 := c.sub (K' := 0x60200040000) (by decide)
  have c2 := c.sub (K' := 0x1000) (by decide)
  unfold sendDone
  repeat' first
    | with_reducible assumption
    | with_reducible apply sendMsg_keeps c1
    | with_reducible apply modDie_keeps c2
    | with_reducible refine fun _ => ?_
    | lift_lets -underBinder
    | (intro x; refine (fun hx : P x => ?_) ?_; clear_value x)
    | (intro x; refine (fun hx : P x.2 => ?_) ?_; clear_value x)
    | (intro x; refine (fun hx : P x.1 => ?_) ?_; clear_value x)
    | (intro x; refine (fun hx : P x.s => ?_) ?_; clear_value x)
    | (intro x; clear_value x)
    | intro _
    | split
    | dsimp -zeta only
    | dsimp -zeta +zetaDelta only
    | lift_lets
    | dsimp only

theorem newEpoch_keeps {P : State → Prop} (c : Closed 0x20200000c30 P) (x1 : State) (h1 : P x1) :
    P (newEpoch x1) := by
  have c1 := c.sub (K' := 0x800) (by decide)
  have c2 := c.sub (K' := 0x400) (by decide)
  have c3 := c.sub (K' := 0x20200000000) (by decide)
  have c4 := c.sub (K' := 0x30) (by decide)
  unfold newEpoch
  repeat' first
    | with_reducible assumption
    | with_reducible apply modSeq_keeps c1
    | with_reducible apply stepTime_keeps c2
    | with_reducible apply raise_keeps c3
    | with_reducible apply modTb_keeps c2
    | with_reducible apply rapply_keeps c4
    | with_reducible refine fun _ => ?_
    | lift_lets -underBinder
    | (intro x; refine (fun hx : P x => ?_) ?_; clear_value x)
    | (intro x; refine (fun hx : P x.2 => ?_) ?_; clear_value x)
    | (intro x; refine (fun hx : P x.1 => ?_) ?_; clear_value x)
    | (intro x; refine (fun hx : P x.s => ?_) ?_; clear_value x)
    | (intro x; clear_value x)
    | intro _
    | split
    | dsimp -zeta only
    | dsimp -zeta +zetaDelta only
    | lift_lets
    | dsimp only

theorem clearRange_keeps {P : State → Prop} (c : Closed 0x60200040000 P) (x1 : State) (x2) (x3) (x4) (h1 : P x1) :
    P (clearRange x1 x2 x3 x4) := by
  unfold clearRange
  repeat' first
    | with_reducible assumption
    | with_reducible apply sendMsg_keeps c
    | split
    | dsimp -zeta only

theorem modHand_keeps {P : State → Prop} (c : Closed 0x800 P) (x1 : State) (x2) (h1 : P x1) :
    P (modHand x1 x2) := by
  unfold modHand
  repeat' first
    | with_reducible assumption
    | with_reducible apply modSeq_keeps c
    | intro _
    | dsimp -zeta only

theorem copyRange_keeps {P : State → Prop} (c : Closed 0x60200040800 P) (x1) (x2) (x3 : State) (x4) (h3 : P x3) :
    P (copyRange x1 x2 x3 x4) := by
  have c1 := c.sub (K' := 0x60200040000) (by decide)
  have c2 := c.sub (K' := 0x800) (by decide)
  unfold copyRange
  repeat' first
    | with_reducible assumption
    | with_reducible apply sendParcel_keeps c1
    | with_reducible apply clearRange_keeps c1
    | with_reducible apply modHand_keeps c2
    | with_reducible refine fun _ => ?_
    | lift_lets -underBinder
    | (intro x; refine (fun hx : P x => ?_) ?_; clear_value x)
    | (intro x; refine (fun hx : P x.2 => ?_) ?_; clear_value x)
    | (intro x; refine (fun hx : P x.1 => ?_) ?_; clear_value x)
    | (intro x; refine (fun hx : P x.s => ?_) ?_; clear_value x)
    | (intro x; clear_value x)
    | with_reducible apply foldl_keeps
    | with_reducible apply foldl_keeps_fst
    | with_reducible apply foldl_keeps_snd
    | intro _
    | split
    | dsimp -zeta only
    | dsimp -zeta +zetaDelta only
    | lift_lets
    | dsimp only

theorem startHandover_keeps {P : State → Prop} (c : Closed 0x60200040800 P) (x1 : State) (x2) (x3) (h1 : P x1) :
    P (startHandover x1 x2 x3) := by
  have c1 := c.sub (K' := 0x800) (by decide)
  unfold startHandover
  repeat' first
    | with_reducible assumption
    | with_reducible apply modSeq_keeps c1
    | with_reducible apply copyRange_keeps c
    | with_reducible refine fun _ => ?_
    | lift_lets -underBinder
    | (intro x; refine (fun hx : P x => ?_) ?_; clear_value x)
    | (intro x; refine (fun hx : P x.2 => ?_) ?_; clear_value x)
    | (intro x; refine (fun hx : P x.1 => ?_) ?_; clear_value x)
    | (intro x; refine (fun hx : P x.s => ?_) ?_; clear_value x)
    | (intro x; clear_value x)
    | with_reducible apply foldl_keeps
    | with_reducible apply foldl_keeps_fst
    | with_reducible apply foldl_keeps_snd
    | intro _
    | split
    | dsimp -zeta only
    | dsimp -zeta +zetaDelta only
    | lift_lets
    | dsimp only

theorem reportHand_keeps {P : State → Prop} (c : Closed 0x20202000800 P) (x1 : State) (h1 : P x1) :
    P (reportHand x1) := by
  have c1 := c.sub (K' := 0x800) (by decide)
  have c2 := c.sub (K' := 0x2000000) (by decide)
  have c3 := c.sub (K' := 0x20200000000) (by decide)
  unfold reportHand
  repeat' first
    | with_reducible assumption
    | with_reducible apply modSeq_keeps c1
    | with_reducible apply modComp_keeps c2
    | with_reducible apply raise_keeps c3
    | with_reducible refine fun _ => ?_
    | lift_lets -underBinder
    | (intro x; refine (fun hx : P x => ?_) ?_; clear_value x)
    | (intro x; refine (fun hx : P x.2 => ?_) ?_; clear_value x)
    | (intro x; refine (fun hx : P x.1 => ?_) ?_; clear_value x)
    | (intro x; refine (fun hx : P x.s => ?_) ?_; clear_value x)
    | (intro x; clear_value x)
    | intro _
    | split
    | dsimp -zeta only
    | dsimp -zeta +zetaDelta only
    | lift_lets
    | dsimp only

theorem fenceRange_keeps {P : State → Prop} (c : Closed 0x60200040800 P) (x1) (x2 : State) (x3) (h2 : P x2) :
    P (fenceRange x1 x2 x3) := by
  have c1 := c.sub (K' := 0x40000) (by decide)
  have c2 := c.sub (K' := 0x60200040000) (by decide)
  have c3 := c.sub (K' := 0x800) (by decide)
  unfold fenceRange
  repeat' first
    | with_reducible assumption
    | with_reducible apply modPort_keeps c1
    | with_reducible apply clearRange_keeps c2
    | with_reducible apply modHand_keeps c3
    | with_reducible refine fun _ => ?_
    | lift_lets -underBinder
    | (intro x; refine (fun hx : P x => ?_) ?_; clear_value x)
    | (intro x; refine (fun hx : P x.2 => ?_) ?_; clear_value x)
    | (intro x; refine (fun hx : P x.1 => ?_) ?_; clear_value x)
    | (intro x; refine (fun hx : P x.s => ?_) ?_; clear_value x)
    | (intro x; clear_value x)
    | with_reducible apply foldl_keeps
    | with_reducible apply foldl_keeps_fst
    | with_reducible apply foldl_keeps_snd
    | intro _
    | split
    | dsimp -zeta only
    | dsimp -zeta +zetaDelta only
    | lift_lets
    | dsimp only

theorem fenceHand_keeps {P : State → Prop} (c : Closed 0x60200040800 P) (x1 : State) (h1 : P x1) :
    P (fenceHand x1) := by
  unfold fenceHand
  repeat' first
    | with_reducible assumption
    | with_reducible apply fenceRange_keeps c
    | with_reducible apply foldl_keeps
    | with_reducible apply foldl_keeps_fst
    | with_reducible apply foldl_keeps_snd
    | intro _
    | split
    | dsimp -zeta only

theorem handCommitted_keeps {P : State → Prop} (c : Closed 0x20202000800 P) (x1 : State) (x2) (x3) (h1 : P x1) :
    P (handCommitted x1 x2 x3) := by
  have c1 := c.sub (K' := 0x800) (by decide)
  unfold handCommitted
  repeat' first
    | with_reducible assumption
    | with_reducible apply modSeq_keeps c1
    | with_reducible apply reportHand_keeps c
    | with_reducible apply modHand_keeps c1
    | intro _
    | split
    | dsimp -zeta only

theorem applyLive_keeps {P : State → Prop} (c : Closed 0x502010830 P) (x1 : State) (h1 : P x1) :
    P (applyLive x1) := by
  have c1 := c.sub (K' := 0x800) (by decide)
  have c2 := c.sub (K' := 0x100000000) (by decide)
  have c3 := c.sub (K' := 0x2000030) (by decide)
  have c4 := c.sub (K' := 0x10000) (by decide)
  have c5 := c.sub (K' := 0x400000000) (by decide)
  unfold applyLive
  repeat' first
    | with_reducible assumption
    | with_reducible apply modSeq_keeps c1
    | with_reducible apply modSwitch_keeps c2
    | with_reducible apply loadSegments_keeps c3
    | with_reducible apply modImg_keeps c4
    | with_reducible apply clearPeerArea_keeps c5
    | with_reducible refine fun _ => ?_
    | lift_lets -underBinder
    | (intro x; refine (fun hx : P x => ?_) ?_; clear_value x)
    | (intro x; refine (fun hx : P x.2 => ?_) ?_; clear_value x)
    | (intro x; refine (fun hx : P x.1 => ?_) ?_; clear_value x)
    | (intro x; refine (fun hx : P x.s => ?_) ?_; clear_value x)
    | (intro x; clear_value x)
    | with_reducible apply foldl_keeps
    | with_reducible apply foldl_keeps_fst
    | with_reducible apply foldl_keeps_snd
    | intro _
    | split
    | dsimp -zeta only
    | dsimp -zeta +zetaDelta only
    | lift_lets
    | dsimp only

theorem clearOwed_keeps {P : State → Prop} (c : Closed 0x60200040800 P) (x1 : State) (h1 : P x1) :
    P (clearOwed x1) := by
  have c1 := c.sub (K' := 0x800) (by decide)
  have c2 := c.sub (K' := 0x60200040000) (by decide)
  unfold clearOwed
  repeat' first
    | with_reducible assumption
    | with_reducible apply modSeq_keeps c1
    | with_reducible apply clearRange_keeps c2
    | with_reducible apply foldl_keeps
    | with_reducible apply foldl_keeps_fst
    | with_reducible apply foldl_keeps_snd
    | intro _
    | dsimp -zeta only

theorem changeBank_keeps {P : State → Prop} (c : Closed 0x60300040810 P) (x1 : State) (x2) (h1 : P x1) :
    P (changeBank x1 x2) := by
  have c1 := c.sub (K' := 0x60200040800) (by decide)
  have c2 := c.sub (K' := 0x20300000010) (by decide)
  unfold changeBank
  repeat' first
    | with_reducible assumption
    | with_reducible apply startHandover_keeps c1
    | with_reducible apply cancelSwitch_keeps c2
    | split
    | dsimp -zeta only

theorem guardWork_keeps {P : State → Prop} (c : Closed 0xe0702050830 P) (x1 : State) (h1 : P x1) :
    P (guardWork x1) := by
  have c1 := c.sub (K' := 0x60200040800) (by decide)
  have c2 := c.sub (K' := 0x400000800) (by decide)
  have c3 := c.sub (K' := 0x800) (by decide)
  have c4 := c.sub (K' := 0x80000000000) (by decide)
  have c5 := c.sub (K' := 0x20202000800) (by decide)
  have c6 := c.sub (K' := 0x502010830) (by decide)
  have c7 := c.sub (K' := 0x60300040810) (by decide)
  have c8 := c.sub (K' := 0x200000000) (by decide)
  unfold guardWork
  repeat' first
    | with_reducible assumption
    | with_reducible apply clearOwed_keeps c1
    | with_reducible apply openMerge_keeps c2
    | with_reducible apply modSeq_keeps c3
    | with_reducible apply modPower_keeps c4
    | with_reducible apply reportHand_keeps c5
    | with_reducible apply applyLive_keeps c6
    | with_reducible apply changeBank_keeps c7
    | with_reducible apply raiseOverflow_keeps c8
    | with_reducible refine fun _ => ?_
    | lift_lets -underBinder
    | (intro x; refine (fun hx : P x => ?_) ?_; clear_value x)
    | (intro x; refine (fun hx : P x.2 => ?_) ?_; clear_value x)
    | (intro x; refine (fun hx : P x.1 => ?_) ?_; clear_value x)
    | (intro x; refine (fun hx : P x.s => ?_) ?_; clear_value x)
    | (intro x; clear_value x)
    | intro _
    | split
    | dsimp -zeta only
    | dsimp -zeta +zetaDelta only
    | lift_lets
    | dsimp only

theorem drainsDone_keeps {P : State → Prop} (c : Closed 0xe0702050830 P) (x1 : State) (h1 : P x1) :
    P (drainsDone x1) := by
  unfold drainsDone
  repeat' first
    | with_reducible assumption
    | with_reducible apply guardWork_keeps c
    | intro _
    | split
    | dsimp -zeta only

theorem forcedDrain_keeps {P : State → Prop} (c : Closed 0x200000800 P) (x1 : State) (x2) (h1 : P x1) :
    P (forcedDrain x1 x2) := by
  have c1 := c.sub (K' := 0x800) (by decide)
  have c2 := c.sub (K' := 0x200000000) (by decide)
  unfold forcedDrain
  repeat' first
    | with_reducible assumption
    | with_reducible apply markPartial_keeps c1
    | with_reducible apply modSeq_keeps c1
    | with_reducible apply retractTentative_keeps c2
    | with_reducible apply markQueuedPartial_keeps c2
    | with_reducible refine fun _ => ?_
    | lift_lets -underBinder
    | (intro x; refine (fun hx : P x => ?_) ?_; clear_value x)
    | (intro x; refine (fun hx : P x.2 => ?_) ?_; clear_value x)
    | (intro x; refine (fun hx : P x.1 => ?_) ?_; clear_value x)
    | (intro x; refine (fun hx : P x.s => ?_) ?_; clear_value x)
    | (intro x; clear_value x)
    | intro _
    | split
    | dsimp -zeta only
    | dsimp -zeta +zetaDelta only
    | lift_lets
    | dsimp only

theorem stuckDie_keeps {P : State → Prop} (c : Closed 0x6020fe47838 P) (x1 : State) (x2) (h1 : P x1) :
    P (stuckDie x1 x2) := by
  have c1 := c.sub (K' := 0x8) (by decide)
  have c2 := c.sub (K' := 0x800) (by decide)
  have c3 := c.sub (K' := 0x6020f845838) (by decide)
  have c4 := c.sub (K' := 0x20200000000) (by decide)
  have c5 := c.sub (K' := 0x60207a47830) (by decide)
  have c6 := c.sub (K' := 0x6020fe47830) (by decide)
  unfold stuckDie
  repeat' first
    | with_reducible assumption
    | with_reducible apply siteOf_keeps c1
    | with_reducible apply markPartial_keeps c2
    | with_reducible apply releaseNow_keeps c3
    | with_reducible apply raiseFrom_keeps c4
    | with_reducible apply dieResetNow_keeps c5
    | with_reducible apply holdDie_keeps c6
    | with_reducible refine snd_of (by assumption) ?_
    | with_reducible refine fun _ => ?_
    | lift_lets -underBinder
    | (intro x; refine (fun hx : P x => ?_) ?_; clear_value x)
    | (intro x; refine (fun hx : P x.2 => ?_) ?_; clear_value x)
    | (intro x; refine (fun hx : P x.2.2 => ?_) ?_; clear_value x)
    | (intro x; refine (fun hx : P x.1 => ?_) ?_; clear_value x)
    | (intro x; refine (fun hx : P x.s => ?_) ?_; clear_value x)
    | (intro x; clear_value x)
    | split
    | dsimp -zeta only
    | dsimp -zeta +zetaDelta only
    | lift_lets
    | dsimp only

theorem epochHealth_keeps {P : State → Prop} (c : Closed 0x20200000008 P) (x1 : State) (h1 : P x1) :
    P (epochHealth x1) := by
  have c1 := c.sub (K' := 0x8) (by decide)
  have c2 := c.sub (K' := 0x20200000000) (by decide)
  unfold epochHealth
  repeat' first
    | with_reducible assumption
    | with_reducible apply fresh_keeps c1
    | with_reducible apply raiseFrom_keeps c2
    | with_reducible apply raise_keeps c2
    | with_reducible refine snd_of (by assumption) ?_
    | with_reducible refine fun _ => ?_
    | lift_lets -underBinder
    | (intro x; refine (fun hx : P x => ?_) ?_; clear_value x)
    | (intro x; refine (fun hx : P x.2 => ?_) ?_; clear_value x)
    | (intro x; refine (fun hx : P x.1 => ?_) ?_; clear_value x)
    | (intro x; refine (fun hx : P x.s => ?_) ?_; clear_value x)
    | (intro x; clear_value x)
    | split
    | dsimp -zeta only
    | dsimp -zeta +zetaDelta only
    | lift_lets
    | dsimp only

theorem closeEpoch_keeps {P : State → Prop} (c : Closed 0x80000000800 P) (x1 : State) (h1 : P x1) :
    P (closeEpoch x1) := by
  have c1 := c.sub (K' := 0x800) (by decide)
  have c2 := c.sub (K' := 0x80000000000) (by decide)
  unfold closeEpoch
  repeat' first
    | with_reducible assumption
    | with_reducible apply modSeq_keeps c1
    | with_reducible apply modPower_keeps c2
    | with_reducible refine fun _ => ?_
    | lift_lets -underBinder
    | (intro x; refine (fun hx : P x => ?_) ?_; clear_value x)
    | (intro x; refine (fun hx : P x.2 => ?_) ?_; clear_value x)
    | (intro x; refine (fun hx : P x.1 => ?_) ?_; clear_value x)
    | (intro x; refine (fun hx : P x.s => ?_) ?_; clear_value x)
    | (intro x; clear_value x)
    | intro _
    | split
    | dsimp -zeta only
    | dsimp -zeta +zetaDelta only
    | lift_lets
    | dsimp only

theorem raiseSummary_keeps {P : State → Prop} (c : Closed 0x20200000800 P) (x1 : State) (h1 : P x1) :
    P (raiseSummary x1) := by
  have c1 := c.sub (K' := 0x800) (by decide)
  have c2 := c.sub (K' := 0x20200000000) (by decide)
  unfold raiseSummary
  repeat' first
    | with_reducible assumption
    | with_reducible apply modSeq_keeps c1
    | with_reducible apply raiseFor_keeps c2
    | with_reducible refine fun _ => ?_
    | lift_lets -underBinder
    | (intro x; refine (fun hx : P x => ?_) ?_; clear_value x)
    | (intro x; refine (fun hx : P x.2 => ?_) ?_; clear_value x)
    | (intro x; refine (fun hx : P x.1 => ?_) ?_; clear_value x)
    | (intro x; refine (fun hx : P x.s => ?_) ?_; clear_value x)
    | (intro x; clear_value x)
    | intro _
    | split
    | dsimp -zeta only
    | dsimp -zeta +zetaDelta only
    | lift_lets
    | dsimp only

theorem summaryCheck_keeps {P : State → Prop} (c : Closed 0x20200000800 P) (x1 : State) (h1 : P x1) :
    P (summaryCheck x1) := by
  unfold summaryCheck
  repeat' first
    | with_reducible assumption
    | with_reducible apply raiseSummary_keeps c
    | intro _
    | split
    | dsimp -zeta only

theorem floorCheck_keeps {P : State → Prop} (c : Closed 0xa0200000000 P) (x1 : State) (h1 : P x1) :
    P (floorCheck x1) := by
  have c1 := c.sub (K' := 0x80000000000) (by decide)
  have c2 := c.sub (K' := 0x20200000000) (by decide)
  unfold floorCheck
  repeat' first
    | with_reducible assumption
    | with_reducible apply modPower_keeps c1
    | with_reducible apply raise_keeps c2
    | intro _
    | split
    | dsimp -zeta only

theorem slackAtCap_keeps {P : State → Prop} (c : Closed 0xa0200000000 P) (x1 : State) (x2) (h1 : P x1) :
    P (slackAtCap x1 x2) := by
  have c1 := c.sub (K' := 0x80000000000) (by decide)
  have c2 := c.sub (K' := 0x20200000000) (by decide)
  unfold slackAtCap
  repeat' first
    | with_reducible assumption
    | with_reducible apply modPower_keeps c1
    | with_reducible apply raise_keeps c2
    | with_reducible refine fun _ => ?_
    | lift_lets -underBinder
    | (intro x; refine (fun hx : P x => ?_) ?_; clear_value x)
    | (intro x; refine (fun hx : P x.2 => ?_) ?_; clear_value x)
    | (intro x; refine (fun hx : P x.1 => ?_) ?_; clear_value x)
    | (intro x; refine (fun hx : P x.s => ?_) ?_; clear_value x)
    | (intro x; clear_value x)
    | intro _
    | split
    | dsimp -zeta only
    | dsimp -zeta +zetaDelta only
    | lift_lets
    | dsimp only

theorem slackSet_keeps {P : State → Prop} (c : Closed 0xa0200000000 P) (x1 : State) (x2) (h1 : P x1) :
    P (slackSet x1 x2) := by
  have c1 := c.sub (K' := 0x80000000000) (by decide)
  have c2 := c.sub (K' := 0x20200000000) (by decide)
  unfold slackSet
  repeat' first
    | with_reducible assumption
    | with_reducible apply modPower_keeps c1
    | with_reducible apply raise_keeps c2
    | with_reducible refine fun _ => ?_
    | lift_lets -underBinder
    | (intro x; refine (fun hx : P x => ?_) ?_; clear_value x)
    | (intro x; refine (fun hx : P x.2 => ?_) ?_; clear_value x)
    | (intro x; refine (fun hx : P x.1 => ?_) ?_; clear_value x)
    | (intro x; refine (fun hx : P x.s => ?_) ?_; clear_value x)
    | (intro x; clear_value x)
    | intro _
    | split
    | dsimp -zeta only
    | dsimp -zeta +zetaDelta only
    | lift_lets
    | dsimp only

theorem slackStep_keeps {P : State → Prop} (c : Closed 0xa0200000000 P) (x1 : State) (x2) (h1 : P x1) :
    P (slackStep x1 x2) := by
  have c1 := c.sub (K' := 0x80000000000) (by decide)
  unfold slackStep
  repeat' first
    | with_reducible assumption
    | with_reducible apply modPower_keeps c1
    | with_reducible apply floorCheck_keeps c
    | with_reducible apply slackSet_keeps c
    | with_reducible apply slackAtCap_keeps c
    | with_reducible refine fun _ => ?_
    | lift_lets -underBinder
    | (intro x; refine (fun hx : P x => ?_) ?_; clear_value x)
    | (intro x; refine (fun hx : P x.2 => ?_) ?_; clear_value x)
    | (intro x; refine (fun hx : P x.1 => ?_) ?_; clear_value x)
    | (intro x; refine (fun hx : P x.s => ?_) ?_; clear_value x)
    | (intro x; clear_value x)
    | intro _
    | split
    | dsimp -zeta only
    | dsimp -zeta +zetaDelta only
    | lift_lets
    | dsimp only

theorem openWinter_keeps {P : State → Prop} (c : Closed 0x80000000000 P) (x1 : State) (h1 : P x1) :
    P (openWinter x1) := by
  unfold openWinter
  repeat' first
    | with_reducible assumption
    | with_reducible apply modPower_keeps c
    | intro _
    | split
    | dsimp -zeta only

theorem harvestLost_keeps {P : State → Prop} (c : Closed 0x210000200 P) (x1 : State) (h1 : P x1) :
    P (harvestLost x1) := by
  have c1 := c.sub (K' := 0x10000200) (by decide)
  have c2 := c.sub (K' := 0x210000000) (by decide)
  unfold harvestLost
  repeat' first
    | with_reducible assumption
    | with_reducible apply abandonSession_keeps c1
    | with_reducible apply hvRecords_keeps c2
    | split
    | dsimp -zeta only

theorem winterStep_keeps {P : State → Prop} (c : Closed 0xe7b1fe47a38 P) (x1 : State) (h1 : P x1) :
    P (winterStep x1).2 := by
  have c1 := c.sub (K' := 0x80000000000) (by decide)
  have c2 := c.sub (K' := 0x20300000010) (by decide)
  have c3 := c.sub (K' := 0xe7a0fe47a38) (by decide)
  have c4 := c.sub (K' := 0x20200000000) (by decide)
  have c5 := c.sub (K' := 0x210000200) (by decide)
  unfold winterStep
  repeat' first
    | with_reducible assumption
    | with_reducible apply openWinter_keeps c1
    | with_reducible apply modPower_keeps c1
    | with_reducible apply cancelSwitch_keeps c2
    | with_reducible apply enterWinter_keeps c3
    | with_reducible apply raise_keeps c4
    | with_reducible apply harvestLost_keeps c5
    | with_reducible refine fun _ => ?_
    | lift_lets -underBinder
    | (intro x; refine (fun hx : P x => ?_) ?_; clear_value x)
    | (intro x; refine (fun hx : P x.2 => ?_) ?_; clear_value x)
    | (intro x; refine (fun hx : P x.1 => ?_) ?_; clear_value x)
    | (intro x; refine (fun hx : P x.s => ?_) ?_; clear_value x)
    | (intro x; clear_value x)
    | intro _
    | split
    | dsimp -zeta only
    | dsimp -zeta +zetaDelta only
    | lift_lets
    | dsimp only

theorem finishLive_keeps {P : State → Prop} (c : Closed 0x2030000ca10 P) (x1 : State) (h1 : P x1) :
    P (finishLive x1) := by
  have c1 := c.sub (K' := 0xc200) (by decide)
  have c2 := c.sub (K' := 0x800) (by decide)
  have c3 := c.sub (K' := 0x100000000) (by decide)
  have c4 := c.sub (K' := 0x10) (by decide)
  have c5 := c.sub (K' := 0x20200000000) (by decide)
  have c6 := c.sub (K' := 0x4000) (by decide)
  unfold finishLive
  repeat' first
    | with_reducible assumption
    | with_reducible apply writeDesc_keeps c1
    | with_reducible apply modSeq_keeps c2
    | with_reducible apply modSwitch_keeps c3
    | with_reducible apply rput_keeps c4
    | with_reducible apply raise_keeps c5
    | with_reducible apply modBoot_keeps c6
    | with_reducible refine fun _ => ?_
    | lift_lets -underBinder
    | (intro x; refine (fun hx : P x => ?_) ?_; clear_value x)
    | (intro x; refine (fun hx : P x.2 => ?_) ?_; clear_value x)
    | (intro x; refine (fun hx : P x.1 => ?_) ?_; clear_value x)
    | (intro x; refine (fun hx : P x.s => ?_) ?_; clear_value x)
    | (intro x; clear_value x)
    | intro _
    | split
    | dsimp -zeta only
    | dsimp -zeta +zetaDelta only
    | lift_lets
    | dsimp only

theorem takeBank_keeps {P : State → Prop} (c : Closed 0x20202000800 P) (x1 : State) (h1 : P x1) :
    P (takeBank x1) := by
  have c1 := c.sub (K' := 0x800) (by decide)
  unfold takeBank
  repeat' first
    | with_reducible assumption
    | with_reducible apply modSeq_keeps c1
    | with_reducible apply reportHand_keeps c
    | with_reducible refine fun _ => ?_
    | lift_lets -underBinder
    | (intro x; refine (fun hx : P x => ?_) ?_; clear_value x)
    | (intro x; refine (fun hx : P x.2 => ?_) ?_; clear_value x)
    | (intro x; refine (fun hx : P x.1 => ?_) ?_; clear_value x)
    | (intro x; refine (fun hx : P x.s => ?_) ?_; clear_value x)
    | (intro x; clear_value x)
    | intro _
    | split
    | dsimp -zeta only
    | dsimp -zeta +zetaDelta only
    | lift_lets
    | dsimp only

theorem takeSeason_keeps {P : State → Prop} (c : Closed 0xa7a00001a08 P) (x1 : State) (h1 : P x1) :
    P (takeSeason x1) := by
  have c1 := c.sub (K' := 0x800) (by decide)
  have c2 := c.sub (K' := 0x80000000000) (by decide)
  have c3 := c.sub (K' := 0xa7a00001208) (by decide)
  unfold takeSeason
  repeat' first
    | with_reducible assumption
    | with_reducible apply modSeq_keeps c1
    | with_reducible apply modPower_keeps c2
    | with_reducible apply seasonTo_keeps c3
    | with_reducible refine fun _ => ?_
    | lift_lets -underBinder
    | (intro x; refine (fun hx : P x => ?_) ?_; clear_value x)
    | (intro x; refine (fun hx : P x.2 => ?_) ?_; clear_value x)
    | (intro x; refine (fun hx : P x.1 => ?_) ?_; clear_value x)
    | (intro x; refine (fun hx : P x.s => ?_) ?_; clear_value x)
    | (intro x; clear_value x)
    | intro _
    | split
    | dsimp -zeta only
    | dsimp -zeta +zetaDelta only
    | lift_lets
    | dsimp only

theorem upperFollow_keeps {P : State → Prop} (c : Closed 0x6021fe47a38 P) (x1 : State) (h1 : P x1) :
    P (upperFollow x1) := by
  have c1 := c.sub (K' := 0x6020f845838) (by decide)
  have c2 := c.sub (K' := 0x6020fe47830) (by decide)
  have c3 := c.sub (K' := 0x210000200) (by decide)
  unfold upperFollow
  repeat' first
    | with_reducible assumption
    | with_reducible apply releaseNow_keeps c1
    | with_reducible apply holdDie_keeps c2
    | with_reducible apply harvestLost_keeps c3
    | with_reducible refine fun _ => ?_
    | lift_lets -underBinder
    | (intro x; refine (fun hx : P x => ?_) ?_; clear_value x)
    | (intro x; refine (fun hx : P x.2 => ?_) ?_; clear_value x)
    | (intro x; refine (fun hx : P x.1 => ?_) ?_; clear_value x)
    | (intro x; refine (fun hx : P x.s => ?_) ?_; clear_value x)
    | (intro x; clear_value x)
    | with_reducible apply foldl_keeps
    | with_reducible apply foldl_keeps_fst
    | with_reducible apply foldl_keeps_snd
    | intro _
    | split
    | dsimp -zeta only
    | dsimp -zeta +zetaDelta only
    | lift_lets
    | dsimp only

theorem rejoin_keeps {P : State → Prop} (c : Closed 0x1000 P) (x1 : State) (h1 : P x1) :
    P (rejoin x1) := by
  unfold rejoin
  repeat' first
    | with_reducible assumption
    | with_reducible apply modDie_keeps c
    | with_reducible refine fun _ => ?_
    | lift_lets -underBinder
    | (intro x; refine (fun hx : P x => ?_) ?_; clear_value x)
    | (intro x; refine (fun hx : P x.2 => ?_) ?_; clear_value x)
    | (intro x; refine (fun hx : P x.1 => ?_) ?_; clear_value x)
    | (intro x; refine (fun hx : P x.s => ?_) ?_; clear_value x)
    | (intro x; clear_value x)
    | with_reducible apply foldl_keeps
    | with_reducible apply foldl_keeps_fst
    | with_reducible apply foldl_keeps_snd
    | intro _
    | split
    | dsimp -zeta only
    | dsimp -zeta +zetaDelta only
    | lift_lets
    | dsimp only

theorem equinoxToken_keeps {P : State → Prop} (c : Closed 0x200 P) (x1 : State) (x2) (x3) (h1 : P x1) :
    P (equinoxToken x1 x2 x3) := by
  unfold equinoxToken
  repeat' first
    | with_reducible assumption
    | with_reducible apply svcToken_keeps c
    | dsimp -zeta only

theorem startRetrains_keeps {P : State → Prop} (c : Closed 0x40200 P) (x1 : State) (h1 : P x1) :
    P (startRetrains x1) := by
  unfold startRetrains
  repeat' first
    | with_reducible assumption
    | with_reducible apply startRetrain_keeps c
    | with_reducible apply foldl_keeps
    | with_reducible apply foldl_keeps_fst
    | with_reducible apply foldl_keeps_snd
    | intro _
    | dsimp -zeta only

theorem sendTokens_keeps {P : State → Prop} (c : Closed 0xe0a1fe67a38 P) (x1 : State) (h1 : P x1) :
    P (sendTokens x1) := by
  have c1 := c.sub (K' := 0x20200000800) (by decide)
  have c2 := c.sub (K' := 0x6021fe47a38) (by decide)
  have c3 := c.sub (K' := 0x40200) (by decide)
  have c4 := c.sub (K' := 0x800) (by decide)
  have c5 := c.sub (K' := 0x1000) (by decide)
  have c6 := c.sub (K' := 0x200) (by decide)
  have c7 := c.sub (K' := 0x80000000208) (by decide)
  have c8 := c.sub (K' := 0x20000) (by decide)
  have c9 := c.sub (K' := 0x800000000) (by decide)
  unfold sendTokens
  repeat' first
    | with_reducible assumption
    | with_reducible apply summaryCheck_keeps c1
    | with_reducible apply upperFollow_keeps c2
    | with_reducible apply startRetrains_keeps c3
    | with_reducible apply modSeq_keeps c4
    | with_reducible apply rejoin_keeps c5
    | with_reducible apply equinoxToken_keeps c6
    | with_reducible apply sendVcore_keeps c7
    | with_reducible apply modOtp_keeps c8
    | with_reducible apply lstPolicy_keeps c9
    | with_reducible refine fun _ => ?_
    | lift_lets -underBinder
    | (intro x; refine (fun hx : P x => ?_) ?_; clear_value x)
    | (intro x; refine (fun hx : P x.2 => ?_) ?_; clear_value x)
    | (intro x; refine (fun hx : P x.1 => ?_) ?_; clear_value x)
    | (intro x; refine (fun hx : P x.s => ?_) ?_; clear_value x)
    | (intro x; clear_value x)
    | with_reducible apply foldl_keeps
    | with_reducible apply foldl_keeps_fst
    | with_reducible apply foldl_keeps_snd
    | intro _
    | split
    | (apply otpGrows_same <;> rfl)
    | exact physSet_grows _ _ _
    | exact burnRedir_grows _ _ _
    | dsimp -zeta only
    | dsimp -zeta +zetaDelta only
    | lift_lets
    | dsimp only

theorem firstEquinox_keeps {P : State → Prop} (c : Closed 0xe0f1fe77e38 P) (x1 : State) (h1 : P x1) :
    P (firstEquinox x1) := by
  have c1 := c.sub (K' := 0x20200000c30) (by decide)
  have c2 := c.sub (K' := 0x20202000800) (by decide)
  have c3 := c.sub (K' := 0xe0a1fe67a38) (by decide)
  have c4 := c.sub (K' := 0xe0702050830) (by decide)
  unfold firstEquinox
  repeat' first
    | with_reducible assumption
    | with_reducible apply newEpoch_keeps c1
    | with_reducible apply takeBank_keeps c2
    | with_reducible apply sendTokens_keeps c3
    | with_reducible apply guardWork_keeps c4
    | with_reducible refine fun _ => ?_
    | lift_lets -underBinder
    | (intro x; refine (fun hx : P x => ?_) ?_; clear_value x)
    | (intro x; refine (fun hx : P x.2 => ?_) ?_; clear_value x)
    | (intro x; refine (fun hx : P x.1 => ?_) ?_; clear_value x)
    | (intro x; refine (fun hx : P x.s => ?_) ?_; clear_value x)
    | (intro x; clear_value x)
    | split
    | dsimp -zeta only
    | dsimp -zeta +zetaDelta only
    | lift_lets
    | dsimp only

theorem laterEquinox_keeps {P : State → Prop} (c : Closed 0x10000e7f3fe7fe38 P) (x1 : State) (h1 : P x1) :
    P (laterEquinox x1) := by
  have c1 := c.sub (K' := 0x10000e3b2002c238) (by decide)
  have c2 := c.sub (K' := 0x2030000ca10) (by decide)
  have c3 := c.sub (K' := 0x20200000800) (by decide)
  have c4 := c.sub (K' := 0x800) (by decide)
  have c5 := c.sub (K' := 0xa0200000000) (by decide)
  have c6 := c.sub (K' := 0x1000) (by decide)
  have c7 := c.sub (K' := 0x20200000c30) (by decide)
  have c8 := c.sub (K' := 0x20202000800) (by decide)
  have c9 := c.sub (K' := 0x20200000008) (by decide)
  have c10 := c.sub (K' := 0x20300000010) (by decide)
  have c11 := c.sub (K' := 0xa7a00001a08) (by decide)
  have c12 := c.sub (K' := 0xe0a1fe67a38) (by decide)
  have c13 := c.sub (K' := 0xe0702050830) (by decide)
  have c14 := c.sub (K' := 0x80000000800) (by decide)
  have c15 := c.sub (K' := 0xe7b1fe47a38) (by decide)
  have c16 := c.sub (K' := 0x600000000) (by decide)
  unfold laterEquinox
  repeat' first
    | with_reducible assumption
    | with_reducible apply restartInto_keeps c1
    | with_reducible apply finishLive_keeps c2
    | with_reducible apply raiseSummary_keeps c3
    | with_reducible apply modSeq_keeps c4
    | with_reducible apply slackStep_keeps c5
    | with_reducible apply rejoin_keeps c6
    | with_reducible apply newEpoch_keeps c7
    | with_reducible apply reportHand_keeps c8
    | with_reducible apply epochHealth_keeps c9
    | with_reducible apply takeBank_keeps c8
    | with_reducible apply cancelSwitch_keeps c10
    | with_reducible apply takeSeason_keeps c11
    | with_reducible apply sendTokens_keeps c12
    | with_reducible apply guardWork_keeps c13
    | with_reducible apply closeEpoch_keeps c14
    | with_reducible apply winterStep_keeps c15
    | with_reducible apply recordsNewEpoch_keeps c16
    | with_reducible refine snd_of (by assumption) ?_
    | with_reducible refine fun _ => ?_
    | lift_lets -underBinder
    | (intro x; refine (fun hx : P x => ?_) ?_; clear_value x)
    | (intro x; refine (fun hx : P x.2 => ?_) ?_; clear_value x)
    | (intro x; refine (fun hx : P x.1 => ?_) ?_; clear_value x)
    | (intro x; refine (fun hx : P x.s => ?_) ?_; clear_value x)
    | (intro x; clear_value x)
    | intro _
    | split
    | dsimp -zeta only
    | dsimp -zeta +zetaDelta only
    | lift_lets
    | dsimp only

end Sys2Proof.Laws
end

