-- ==== Sys2Proof/Laws/KeepsSeq.lean ====
section
/-! SUPPORT. What each function of Machine/Seq.lean can change: a predicate closed under its changes survives it. -/
namespace Sys2Proof.Laws
open Sys2Proof Sys2Proof.Machine

theorem startOf_keeps {P : State → Prop} (c : Closed 0x6360fe43a00 P) (x1) (x2) (x3 : State) (x4) (x5) (x6) (h3 : P x3) :
    P (startOf x1 x2 x3 x4 x5 x6) := by
  have c1 := c.sub (K' := 0x2001800) (by decide)
  have c2 := c.sub (K' := 0x60206643800) (by decide)
  have c3 := c.sub (K' := 0x2000001200) (by decide)
  have c4 := c.sub (K' := 0x60001001000) (by decide)
  have c5 := c.sub (K' := 0x8001000) (by decide)
  have c6 := c.sub (K' := 0x60004601800) (by decide)
  have c7 := c.sub (K' := 0x1200) (by decide)
  have c8 := c.sub (K' := 0x60201841000) (by decide)
  have c9 := c.sub (K' := 0x600001200) (by decide)
  have c10 := c.sub (K' := 0x60200001000) (by decide)
  have c11 := c.sub (K' := 0x21200001800) (by decide)
  unfold startOf
  repeat' first
    | with_reducible assumption
    | with_reducible apply startGroup_keeps c1
    | with_reducible apply startTrack_keeps c2
    | with_reducible apply startFoPulse_keeps c3
    | with_reducible apply startIsp_keeps c4
    | with_reducible apply startRoiWindow_keeps c5
    | with_reducible apply startDetect_keeps c6
    | with_reducible apply startSoftEvent_keeps c7
    | with_reducible apply startFoClear_keeps c3
    | with_reducible apply startExpose_keeps c8
    | with_reducible apply startFoSet_keeps c3
    | with_reducible apply startFlush_keeps c9
    | with_reducible apply startMark_keeps c10
    | with_reducible apply startAdcScan_keeps c11
    | intro _
    | split
    | dsimp -zeta only

theorem execLaunchDequeue_keeps {P : State → Prop} (c : Closed 0x6360fe43a00 P) (x1) (x2) (x3) (x4 : State) (h4 : P x4) :
    OnNext P (execLaunchDequeue x1 x2 x3 x4) := by
  have c1 := c.sub (K' := 0x1000) (by decide)
  have c2 := c.sub (K' := 0x1800) (by decide)
  unfold execLaunchDequeue
  repeat' first
    | with_reducible assumption
    | with_reducible apply OnNext.unit
    | with_reducible apply OnNext.next
    | with_reducible apply OnNext.fault
    | with_reducible apply modUnit_keeps c1
    | with_reducible apply startEntry_keeps c2
    | with_reducible apply startOf_keeps c
    | with_reducible refine fun _ => ?_
    | lift_lets -underBinder
    | (intro x; refine (fun hx : P x => ?_) ?_; clear_value x)
    | (intro x; refine (fun hx : P x.2 => ?_) ?_; clear_value x)
    | (intro x; refine (fun hx : P x.1 => ?_) ?_; clear_value x)
    | (intro x; refine (fun hx : P x.s => ?_) ?_; clear_value x)
    | (intro x; clear_value x)
    | intro _
    | split
    | dsimp -zeta only
    | dsimp -zeta +zetaDelta only
    | lift_lets
    | dsimp only

theorem execEquinoxDeadline_keeps {P : State → Prop} (c : Closed 0xe0702050a30 P) (x1 : State) (h1 : P x1) :
    OnNext P (execEquinoxDeadline x1) := by
  have c1 := c.sub (K' := 0xe0702050830) (by decide)
  have c2 := c.sub (K' := 0x20200000000) (by decide)
  have c3 := c.sub (K' := 0x600000200) (by decide)
  have c4 := c.sub (K' := 0x800) (by decide)
  have c5 := c.sub (K' := 0x400000000) (by decide)
  have c6 := c.sub (K' := 0x200) (by decide)
  unfold execEquinoxDeadline
  repeat' first
    | with_reducible assumption
    | with_reducible apply OnNext.unit
    | with_reducible apply OnNext.next
    | with_reducible apply OnNext.fault
    | with_reducible apply drainsDone_keeps c1
    | with_reducible apply cropsAtDeadline_keeps c2
    | with_reducible apply releaseRecords_keeps c3
    | with_reducible apply modSeq_keeps c4
    | with_reducible apply modPeers_keeps c5
    | with_reducible apply svcToken_keeps c6
    | with_reducible refine fun _ => ?_
    | lift_lets -underBinder
    | (intro x; refine (fun hx : P x => ?_) ?_; clear_value x)
    | (intro x; refine (fun hx : P x.2 => ?_) ?_; clear_value x)
    | (intro x; refine (fun hx : P x.1 => ?_) ?_; clear_value x)
    | (intro x; refine (fun hx : P x.s => ?_) ?_; clear_value x)
    | (intro x; clear_value x)
    | with_reducible apply foldl_keeps
    | with_reducible apply foldl_keeps_fst
    | with_reducible apply foldl_keeps_snd
    | intro _
    | split
    | dsimp -zeta only
    | dsimp -zeta +zetaDelta only
    | lift_lets
    | dsimp only

theorem execKillDrain_keeps {P : State → Prop} (c : Closed 0x6020ba45a10 P) (x1) (x2 : State) (h2 : P x2) :
    OnNext P (execKillDrain x1 x2) := by
  have c1 := c.sub (K' := 0x6020ba41000) (by decide)
  have c2 := c.sub (K' := 0x60200044a10) (by decide)
  unfold execKillDrain
  repeat' first
    | with_reducible assumption
    | with_reducible apply OnNext.unit
    | with_reducible apply OnNext.next
    | with_reducible apply OnNext.fault
    | with_reducible apply drainDie_keeps c1
    | with_reducible apply onToken_keeps c2
    | intro _
    | split
    | dsimp -zeta only

theorem execKillForce_keeps {P : State → Prop} (c : Closed 0x6021fa47a10 P) (x1) (x2 : State) (h2 : P x2) :
    OnNext P (execKillForce x1 x2) := by
  have c1 := c.sub (K' := 0x6021fa43800) (by decide)
  have c2 := c.sub (K' := 0x60200044a10) (by decide)
  unfold execKillForce
  repeat' first
    | with_reducible assumption
    | with_reducible apply OnNext.unit
    | with_reducible apply OnNext.next
    | with_reducible apply OnNext.fault
    | with_reducible apply forceDie_keeps c1
    | with_reducible apply onToken_keeps c2
    | intro _
    | split
    | dsimp -zeta only

theorem execEpochDoneSend_keeps {P : State → Prop} (c : Closed 0x60200041000 P) (x1) (x2 : State) (h2 : P x2) :
    OnNext P (execEpochDoneSend x1 x2) := by
  unfold execEpochDoneSend
  repeat' first
    | with_reducible assumption
    | with_reducible apply OnNext.unit
    | with_reducible apply OnNext.next
    | with_reducible apply OnNext.fault
    | with_reducible apply sendDone_keeps c
    | with_reducible refine fun _ => ?_
    | lift_lets -underBinder
    | (intro x; refine (fun hx : P x => ?_) ?_; clear_value x)
    | (intro x; refine (fun hx : P x.2 => ?_) ?_; clear_value x)
    | (intro x; refine (fun hx : P x.1 => ?_) ?_; clear_value x)
    | (intro x; refine (fun hx : P x.s => ?_) ?_; clear_value x)
    | (intro x; clear_value x)
    | split
    | dsimp -zeta only
    | dsimp -zeta +zetaDelta only
    | lift_lets
    | dsimp only

theorem execEpochDone_keeps {P : State → Prop} (c : Closed 0x60200245a10 P) (x1) (x2 : State) (h2 : P x2) :
    OnNext P (execEpochDone x1 x2) := by
  have c1 := c.sub (K' := 0x1000) (by decide)
  have c2 := c.sub (K' := 0x60200244a10) (by decide)
  unfold execEpochDone
  repeat' first
    | with_reducible assumption
    | with_reducible apply OnNext.unit
    | with_reducible apply OnNext.next
    | with_reducible apply OnNext.fault
    | with_reducible apply modDie_keeps c1
    | with_reducible apply onMsg_keeps c2
    | intro _
    | split
    | dsimp -zeta only

theorem execDrained_keeps {P : State → Prop} (c : Closed 0xe0702255a30 P) (x1) (x2 : State) (h2 : P x2) :
    OnNext P (execDrained x1 x2) := by
  have c1 := c.sub (K' := 0x200000800) (by decide)
  have c2 := c.sub (K' := 0xe0702050830) (by decide)
  have c3 := c.sub (K' := 0x1000) (by decide)
  have c4 := c.sub (K' := 0x60200244a10) (by decide)
  unfold execDrained
  repeat' first
    | with_reducible assumption
    | with_reducible apply OnNext.unit
    | with_reducible apply OnNext.next
    | with_reducible apply OnNext.fault
    | with_reducible apply forcedDrain_keeps c1
    | with_reducible apply drainsDone_keeps c2
    | with_reducible apply modDie_keeps c3
    | with_reducible apply onMsg_keeps c4
    | with_reducible refine fun _ => ?_
    | lift_lets -underBinder
    | (intro x; refine (fun hx : P x => ?_) ?_; clear_value x)
    | (intro x; refine (fun hx : P x.2 => ?_) ?_; clear_value x)
    | (intro x; refine (fun hx : P x.1 => ?_) ?_; clear_value x)
    | (intro x; refine (fun hx : P x.s => ?_) ?_; clear_value x)
    | (intro x; clear_value x)
    | intro _
    | split
    | dsimp -zeta only
    | dsimp -zeta +zetaDelta only
    | lift_lets
    | dsimp only

theorem execDrainStuck_keeps {P : State → Prop} (c : Closed 0xe070fe57838 P) (x1) (x2 : State) (h2 : P x2) :
    OnNext P (execDrainStuck x1 x2) := by
  have c1 := c.sub (K' := 0xe0702050830) (by decide)
  have c2 := c.sub (K' := 0x6020fe47838) (by decide)
  unfold execDrainStuck
  repeat' first
    | with_reducible assumption
    | with_reducible apply OnNext.unit
    | with_reducible apply OnNext.next
    | with_reducible apply OnNext.fault
    | with_reducible apply drainsDone_keeps c1
    | with_reducible apply stuckDie_keeps c2
    | split
    | dsimp -zeta only

theorem execCommitFence_keeps {P : State → Prop} (c : Closed 0x60200040800 P) (x1 : State) (h1 : P x1) :
    OnNext P (execCommitFence x1) := by
  have c1 := c.sub (K' := 0x800) (by decide)
  unfold execCommitFence
  repeat' first
    | with_reducible assumption
    | with_reducible apply OnNext.unit
    | with_reducible apply OnNext.next
    | with_reducible apply OnNext.fault
    | with_reducible apply fenceHand_keeps c
    | with_reducible apply modSeq_keeps c1
    | intro _
    | dsimp -zeta only

theorem execEquinoxSend_keeps {P : State → Prop} (c : Closed 0x10000e7f3fe7fe38 P) (x1 : State) (h1 : P x1) :
    OnNext P (execEquinoxSend x1) := by
  have c1 := c.sub (K' := 0xe0f1fe77e38) (by decide)
  unfold execEquinoxSend
  repeat' first
    | with_reducible assumption
    | with_reducible apply OnNext.unit
    | with_reducible apply OnNext.next
    | with_reducible apply OnNext.fault
    | with_reducible apply firstEquinox_keeps c1
    | with_reducible apply laterEquinox_keeps c
    | split
    | dsimp -zeta only

theorem latchSlot_keeps {P : State → Prop} (c : Closed 0x2000008 P) (x1 : State) (x2) (x3) (h1 : P x1) :
    P (latchSlot x1 x2 x3) := by
  have c1 := c.sub (K' := 0x8) (by decide)
  have c2 := c.sub (K' := 0x2000000) (by decide)
  unfold latchSlot
  repeat' first
    | with_reducible assumption
    | with_reducible apply fresh_keeps c1
    | with_reducible apply modComp_keeps c2
    | with_reducible refine snd_of (by assumption) ?_
    | with_reducible refine fun _ => ?_
    | lift_lets -underBinder
    | (intro x; refine (fun hx : P x => ?_) ?_; clear_value x)
    | (intro x; refine (fun hx : P x.2 => ?_) ?_; clear_value x)
    | (intro x; refine (fun hx : P x.1 => ?_) ?_; clear_value x)
    | (intro x; refine (fun hx : P x.s => ?_) ?_; clear_value x)
    | (intro x; clear_value x)
    | intro _
    | split
    | dsimp -zeta only
    | dsimp -zeta +zetaDelta only
    | lift_lets
    | dsimp only

theorem latchCompute_keeps {P : State → Prop} (c : Closed 0x2000008 P) (x1 : State) (x2) (h1 : P x1) :
    P (latchCompute x1 x2) := by
  have c1 := c.sub (K' := 0x2000000) (by decide)
  unfold latchCompute
  repeat' first
    | with_reducible assumption
    | with_reducible apply modComp_keeps c1
    | with_reducible apply latchSlot_keeps c
    | with_reducible refine fun _ => ?_
    | lift_lets -underBinder
    | (intro x; refine (fun hx : P x => ?_) ?_; clear_value x)
    | (intro x; refine (fun hx : P x.2 => ?_) ?_; clear_value x)
    | (intro x; refine (fun hx : P x.1 => ?_) ?_; clear_value x)
    | (intro x; refine (fun hx : P x.s => ?_) ?_; clear_value x)
    | (intro x; clear_value x)
    | with_reducible apply foldl_keeps
    | with_reducible apply foldl_keeps_fst
    | with_reducible apply foldl_keeps_snd
    | intro _
    | dsimp -zeta only
    | dsimp -zeta +zetaDelta only
    | lift_lets
    | dsimp only

theorem ledgerEquinox_keeps {P : State → Prop} (c : Closed 0x216602208 P) (x1 : State) (x2) (x3) (h1 : P x1) :
    P (ledgerEquinox x1 x2 x3).2 := by
  have c1 := c.sub (K' := 0x10000000) (by decide)
  have c2 := c.sub (K' := 0x212402208) (by decide)
  have c3 := c.sub (K' := 0x2000) (by decide)
  have c4 := c.sub (K' := 0x4000000) (by decide)
  have c5 := c.sub (K' := 0x200000) (by decide)
  unfold ledgerEquinox
  repeat' first
    | with_reducible assumption
    | with_reducible apply hvDiscard_keeps c1
    | with_reducible apply hvEquinox_keeps c2
    | with_reducible apply ledgerDiscard_keeps c3
    | with_reducible apply ledgerCommit_keeps c3
    | with_reducible apply modDet_keeps c4
    | with_reducible apply modFab_keeps c5
    | with_reducible refine fun _ => ?_
    | lift_lets -underBinder
    | (intro x; refine (fun hx : P x => ?_) ?_; clear_value x)
    | (intro x; refine (fun hx : P x.2 => ?_) ?_; clear_value x)
    | (intro x; refine (fun hx : P x.1 => ?_) ?_; clear_value x)
    | (intro x; refine (fun hx : P x.s => ?_) ?_; clear_value x)
    | (intro x; clear_value x)
    | intro _
    | split
    | dsimp -zeta only
    | dsimp -zeta +zetaDelta only
    | lift_lets
    | dsimp only

theorem cdEquinox_keeps {P : State → Prop} (c : Closed 0x216602238 P) (x1 : State) (x2) (x3) (h1 : P x1) :
    P (cdEquinox x1 x2 x3).2 := by
  have c1 := c.sub (K' := 0x216602208) (by decide)
  have c2 := c.sub (K' := 0x6000000) (by decide)
  have c3 := c.sub (K' := 0x4000000) (by decide)
  have c4 := c.sub (K' := 0x2000008) (by decide)
  have c5 := c.sub (K' := 0x30) (by decide)
  have c6 := c.sub (K' := 0x200000) (by decide)
  unfold cdEquinox
  repeat' first
    | with_reducible assumption
    | with_reducible apply ledgerEquinox_keeps c1
    | with_reducible apply placeDie_keeps c2
    | with_reducible apply modDet_keeps c3
    | with_reducible apply latchCompute_keeps c4
    | with_reducible apply rapply_keeps c5
    | with_reducible apply fabEquinox_keeps c6
    | with_reducible refine snd_of (by assumption) ?_
    | with_reducible refine fun _ => ?_
    | lift_lets -underBinder
    | (intro x; refine (fun hx : P x => ?_) ?_; clear_value x)
    | (intro x; refine (fun hx : P x.2 => ?_) ?_; clear_value x)
    | (intro x; refine (fun hx : P x.1 => ?_) ?_; clear_value x)
    | (intro x; refine (fun hx : P x.s => ?_) ?_; clear_value x)
    | (intro x; clear_value x)
    | dsimp -zeta only
    | dsimp -zeta +zetaDelta only
    | lift_lets
    | dsimp only

theorem eyeEquinox_keeps {P : State → Prop} (c : Closed 0x60009800030 P) (x1 : State) (h1 : P x1) :
    P (eyeEquinox x1) := by
  have c1 := c.sub (K' := 0x60001800030) (by decide)
  have c2 := c.sub (K' := 0x30) (by decide)
  have c3 := c.sub (K' := 0x8000000) (by decide)
  unfold eyeEquinox
  repeat' first
    | with_reducible assumption
    | with_reducible apply imageEquinox_keeps c1
    | with_reducible apply rapply_keeps c2
    | with_reducible apply modGuard_keeps c3
    | with_reducible refine fun _ => ?_
    | lift_lets -underBinder
    | (intro x; refine (fun hx : P x => ?_) ?_; clear_value x)
    | (intro x; refine (fun hx : P x.2 => ?_) ?_; clear_value x)
    | (intro x; refine (fun hx : P x.1 => ?_) ?_; clear_value x)
    | (intro x; refine (fun hx : P x.s => ?_) ?_; clear_value x)
    | (intro x; clear_value x)
    | intro _
    | dsimp -zeta only
    | dsimp -zeta +zetaDelta only
    | lift_lets
    | dsimp only

theorem equinoxDie_keeps {P : State → Prop} (c : Closed 0x6021fe43238 P) (x1 : State) (x2) (x3) (x4) (h1 : P x1) :
    P (equinoxDie x1 x2 x3 x4) := by
  have c1 := c.sub (K' := 0x216602238) (by decide)
  have c2 := c.sub (K' := 0x60200040000) (by decide)
  have c3 := c.sub (K' := 0x1000) (by decide)
  have c4 := c.sub (K' := 0x60009800030) (by decide)
  unfold equinoxDie
  repeat' first
    | with_reducible assumption
    | with_reducible apply cdEquinox_keeps c1
    | with_reducible apply sendMsg_keeps c2
    | with_reducible apply modDie_keeps c3
    | with_reducible apply eyeEquinox_keeps c4
    | with_reducible refine snd_of (by assumption) ?_
    | with_reducible refine fun _ => ?_
    | lift_lets -underBinder
    | (intro x; refine (fun hx : P x => ?_) ?_; clear_value x)
    | (intro x; refine (fun hx : P x.2 => ?_) ?_; clear_value x)
    | (intro x; refine (fun hx : P x.1 => ?_) ?_; clear_value x)
    | (intro x; refine (fun hx : P x.s => ?_) ?_; clear_value x)
    | (intro x; clear_value x)
    | intro _
    | split
    | dsimp -zeta only
    | dsimp -zeta +zetaDelta only
    | lift_lets
    | dsimp only

theorem execEquinox_keeps {P : State → Prop} (c : Closed 0x6021fe47a38 P) (x1) (x2 : State) (h2 : P x2) :
    OnNext P (execEquinox x1 x2) := by
  have c1 := c.sub (K' := 0x60200044a10) (by decide)
  have c2 := c.sub (K' := 0x6021fe43238) (by decide)
  unfold execEquinox
  repeat' first
    | with_reducible assumption
    | with_reducible apply OnNext.unit
    | with_reducible apply OnNext.next
    | with_reducible apply OnNext.fault
    | with_reducible apply onToken_keeps c1
    | with_reducible apply equinoxDie_keeps c2
    | intro _
    | split
    | dsimp -zeta only

theorem execEquinoxDiscard_keeps {P : State → Prop} (c : Closed 0x6021fe47a38 P) (x1) (x2 : State) (h2 : P x2) :
    OnNext P (execEquinoxDiscard x1 x2) := by
  have c1 := c.sub (K' := 0x60200044a10) (by decide)
  have c2 := c.sub (K' := 0x6021fe43238) (by decide)
  unfold execEquinoxDiscard
  repeat' first
    | with_reducible assumption
    | with_reducible apply OnNext.unit
    | with_reducible apply OnNext.next
    | with_reducible apply OnNext.fault
    | with_reducible apply onToken_keeps c1
    | with_reducible apply equinoxDie_keeps c2
    | intro _
    | split
    | dsimp -zeta only

theorem execCommitted_keeps {P : State → Prop} (c : Closed 0x60602245a10 P) (x1) (x2 : State) (h2 : P x2) :
    OnNext P (execCommitted x1 x2) := by
  have c1 := c.sub (K' := 0x20200000800) (by decide)
  have c2 := c.sub (K' := 0x400000800) (by decide)
  have c3 := c.sub (K' := 0x1000) (by decide)
  have c4 := c.sub (K' := 0x20202000800) (by decide)
  have c5 := c.sub (K' := 0x60200244a10) (by decide)
  unfold execCommitted
  repeat' first
    | with_reducible assumption
    | with_reducible apply OnNext.unit
    | with_reducible apply OnNext.next
    | with_reducible apply OnNext.fault
    | with_reducible apply summaryCheck_keeps c1
    | with_reducible apply mergeDiscarded_keeps c2
    | with_reducible apply modDie_keeps c3
    | with_reducible apply handCommitted_keeps c4
    | with_reducible apply mergeCommitted_keeps c2
    | with_reducible apply onMsg_keeps c5
    | with_reducible refine fun _ => ?_
    | lift_lets -underBinder
    | (intro x; refine (fun hx : P x => ?_) ?_; clear_value x)
    | (intro x; refine (fun hx : P x.2 => ?_) ?_; clear_value x)
    | (intro x; refine (fun hx : P x.1 => ?_) ?_; clear_value x)
    | (intro x; refine (fun hx : P x.s => ?_) ?_; clear_value x)
    | (intro x; clear_value x)
    | intro _
    | split
    | dsimp -zeta only
    | dsimp -zeta +zetaDelta only
    | lift_lets
    | dsimp only

theorem missEquinox_keeps {P : State → Prop} (c : Closed 0x800 P) (x1 : State) (x2) (h1 : P x1) :
    P (missEquinox x1 x2) := by
  unfold missEquinox
  repeat' first
    | with_reducible assumption
    | with_reducible apply modSeq_keeps c
    | with_reducible apply markDegraded_keeps c
    | intro _
    | dsimp -zeta only

theorem execEquinoxResend_keeps {P : State → Prop} (c : Closed 0x20200001a00 P) (x1) (x2 : State) (h2 : P x2) :
    OnNext P (execEquinoxResend x1 x2) := by
  have c1 := c.sub (K' := 0x20200000800) (by decide)
  have c2 := c.sub (K' := 0x1000) (by decide)
  have c3 := c.sub (K' := 0x200) (by decide)
  have c4 := c.sub (K' := 0x800) (by decide)
  unfold execEquinoxResend
  repeat' first
    | with_reducible assumption
    | with_reducible apply OnNext.unit
    | with_reducible apply OnNext.next
    | with_reducible apply OnNext.fault
    | with_reducible apply summaryCheck_keeps c1
    | with_reducible apply modDie_keeps c2
    | with_reducible apply equinoxToken_keeps c3
    | with_reducible apply missEquinox_keeps c4
    | with_reducible refine fun _ => ?_
    | lift_lets -underBinder
    | (intro x; refine (fun hx : P x => ?_) ?_; clear_value x)
    | (intro x; refine (fun hx : P x.2 => ?_) ?_; clear_value x)
    | (intro x; refine (fun hx : P x.1 => ?_) ?_; clear_value x)
    | (intro x; refine (fun hx : P x.s => ?_) ?_; clear_value x)
    | (intro x; clear_value x)
    | intro _
    | split
    | dsimp -zeta only
    | dsimp -zeta +zetaDelta only
    | lift_lets
    | dsimp only

theorem deliverHeld_keeps {P : State → Prop} (c : Closed 0x10000ffa3fe67fb8 P) (x1) (x2 : State) (x3) (h2 : P x2) :
    P (deliverHeld x1 x2 x3) := by
  have c1 := c.sub (K' := 0x40000) (by decide)
  have c2 := c.sub (K' := 0x2000) (by decide)
  have c3 := c.sub (K' := 0x60006601800) (by decide)
  have c4 := c.sub (K' := 0x60200000000) (by decide)
  have c5 := c.sub (K' := 0x600000) (by decide)
  have c6 := c.sub (K' := 0x60200240000) (by decide)
  unfold deliverHeld
  repeat' first
    | with_reducible assumption
    | with_reducible apply modPort_keeps c1
    | with_reducible apply modLine_keeps c2
    | with_reducible apply abortAt_keeps c3
    | with_reducible apply raiseOn_keeps c4
    | with_reducible apply takeMaint_keeps c5
    | with_reducible apply serveRead_keeps c6
    | with_reducible apply takeRegReq_keeps c
    | with_reducible apply ledgerClear_keeps c2
    | with_reducible apply freeBuffer_keeps c1
    | exact mergeLine_clean ‹_› _
    | exact localWrite_clean ‹_› _ _
    | with_reducible refine fun _ => ?_
    | lift_lets -underBinder
    | (intro x; refine (fun hx : P x => ?_) ?_; clear_value x)
    | (intro x; refine (fun hx : P x.2 => ?_) ?_; clear_value x)
    | (intro x; refine (fun hx : P x.1 => ?_) ?_; clear_value x)
    | (intro x; refine (fun hx : P x.s => ?_) ?_; clear_value x)
    | (intro x; clear_value x)
    | intro _
    | split
    | dsimp -zeta only
    | dsimp -zeta +zetaDelta only
    | lift_lets
    | dsimp only

theorem sinkEnds_keeps {P : State → Prop} (c : Closed 0x10000ffa3fe67fb8 P) (x1 : State) (x2) (h1 : P x1) :
    P (sinkEnds x1 x2) := by
  have c1 := c.sub (K' := 0x40000) (by decide)
  have c2 := c.sub (K' := 0x60200040000) (by decide)
  have c3 := c.sub (K' := 0x1000) (by decide)
  have c4 := c.sub (K' := 0x200000) (by decide)
  unfold sinkEnds
  repeat' first
    | with_reducible assumption
    | with_reducible apply modPort_keeps c1
    | with_reducible apply sendMsg_keeps c2
    | with_reducible apply modDie_keeps c3
    | with_reducible apply modFab_keeps c4
    | with_reducible apply deliverHeld_keeps c
    | with_reducible refine fun _ => ?_
    | lift_lets -underBinder
    | (intro x; refine (fun hx : P x => ?_) ?_; clear_value x)
    | (intro x; refine (fun hx : P x.2 => ?_) ?_; clear_value x)
    | (intro x; refine (fun hx : P x.1 => ?_) ?_; clear_value x)
    | (intro x; refine (fun hx : P x.s => ?_) ?_; clear_value x)
    | (intro x; clear_value x)
    | with_reducible apply foldl_keeps
    | with_reducible apply foldl_keeps_fst
    | with_reducible apply foldl_keeps_snd
    | intro _
    | split
    | dsimp -zeta only
    | dsimp -zeta +zetaDelta only
    | lift_lets
    | dsimp only

theorem execSinkEnd_keeps {P : State → Prop} (c : Closed 0x10000ffa3fe67fb8 P) (x1) (x2 : State) (h2 : P x2) :
    OnNext P (execSinkEnd x1 x2) := by
  unfold execSinkEnd
  repeat' first
    | with_reducible assumption
    | with_reducible apply OnNext.unit
    | with_reducible apply OnNext.next
    | with_reducible apply OnNext.fault
    | with_reducible apply sinkEnds_keeps c
    | split
    | dsimp -zeta only

end Sys2Proof.Laws
end

