-- ==== Sys2Proof/Laws/Exec.lean ====
section
/-! SUPPORT. What any command, and any step, can change: exec leaves the queue, the part and the clock as they are. -/
namespace Sys2Proof.Laws
open Sys2Proof Sys2Proof.Machine

/-- A predicate closed under every change a command makes survives every command. -/
theorem exec_keeps {P : State → Prop} (hc : Closed 0x10000ffffffffff8 P) (i : Instr) (s : State) (h : P s) : OnNext P (exec i s) := by
  cases i with
  | registerWrite path addr v => exact execRegisterWrite_keeps (hc.sub (K' := 0x10000ffa7ffe7ff8) (by decide)) path addr v s h
  | pairLoRead path addr => exact execPairLoRead_keeps (hc.sub (K' := 0x10000ffa7ffe7ff8) (by decide)) path addr s h
  | pairLoWrite path addr v => exact execPairLoWrite_keeps (hc.sub (K' := 0x10000ffa7ffe7ff8) (by decide)) path addr v s h
  | pairHiWrite path addr v => exact execPairHiWrite_keeps (hc.sub (K' := 0x10000ffa7ffe7ff8) (by decide)) path addr v s h
  | ptpSyncReceive port domain offset logInterval => exact execPtpSyncReceive_keeps (hc.sub (K' := 0x20000c00) (by decide)) port domain offset logInterval s h
  | syncTimeout => exact execSyncTimeout_keeps (hc.sub (K' := 0x20200000400) (by decide)) s h
  | announceReceive port domain md => exact execAnnounceReceive_keeps (hc.sub (K' := 0x20000000) (by decide)) port domain md s h
  | announceReceiptTimeout => exact execAnnounceReceiptTimeout_keeps (hc.sub (K' := 0x20000000) (by decide)) s h
  | peerDelayMeasure port ns => exact execPeerDelayMeasure_keeps (hc.sub (K' := 0x20000000) (by decide)) port ns s h
  | syncInEdge highNs err => exact execSyncInEdge_keeps (hc.sub (K' := 0x400) (by decide)) highNs err s h
  | syncInMissing => exact execSyncInMissing_keeps (hc.sub (K' := 0x20200000400) (by decide)) s h
  | syncOutPulse => exact execSyncOutPulse_keeps (hc.sub (K' := 0x200) (by decide)) s h
  | acqTimeoutExpire => exact execAcqTimeoutExpire_keeps (hc.sub (K' := 0x400) (by decide)) s h
  | sequencerArm => exact execSequencerArm_keeps (hc.sub (K' := 0x800) (by decide)) s h
  | latencyMeasure die primary alternate => exact execLatencyMeasure_keeps (hc.sub (K' := 0x800) (by decide)) die primary alternate s h
  | echo f => exact execEcho_keeps (hc.sub (K' := 0x60200044a10) (by decide)) f s h
  | timeUnlockedReport => exact execTimeUnlockedReport_keeps (hc.sub (K' := 0x20200000000) (by decide)) s h
  | launchSend entry => exact execLaunchSend_keeps (hc.sub (K' := 0x1a00) (by decide)) entry s h
  | launchDequeue die unit vpixOk => exact execLaunchDequeue_keeps (hc.sub (K' := 0x6360fe43a00) (by decide)) die unit vpixOk s h
  | latenessExceedsSlack die unit => exact execLatenessExceedsSlack_keeps (hc.sub (K' := 0x1800) (by decide)) die unit s h
  | softEvent f => exact execSoftEvent_keeps (hc.sub (K' := 0x60200045a10) (by decide)) f s h
  | mark f => exact execMark_keeps (hc.sub (K' := 0x60200045a10) (by decide)) f s h
  | equinoxDeadline => exact execEquinoxDeadline_keeps (hc.sub (K' := 0xe0702050a30) (by decide)) s h
  | killDrain f => exact execKillDrain_keeps (hc.sub (K' := 0x6020ba45a10) (by decide)) f s h
  | killForce f => exact execKillForce_keeps (hc.sub (K' := 0x6021fa47a10) (by decide)) f s h
  | epochDoneSend die => exact execEpochDoneSend_keeps (hc.sub (K' := 0x60200041000) (by decide)) die s h
  | epochDone r => exact execEpochDone_keeps (hc.sub (K' := 0x60200245a10) (by decide)) r s h
  | drained r => exact execDrained_keeps (hc.sub (K' := 0xe0702255a30) (by decide)) r s h
  | drainStuck die => exact execDrainStuck_keeps (hc.sub (K' := 0xe070fe57838) (by decide)) die s h
  | commitFence => exact execCommitFence_keeps (hc.sub (K' := 0x60200040800) (by decide)) s h
  | equinoxSend => exact execEquinoxSend_keeps (hc.sub (K' := 0x10000e7f3fe7fe38) (by decide)) s h
  | equinox f => exact execEquinox_keeps (hc.sub (K' := 0x6021fe47a38) (by decide)) f s h
  | equinoxDiscard f => exact execEquinoxDiscard_keeps (hc.sub (K' := 0x6021fe47a38) (by decide)) f s h
  | committed r => exact execCommitted_keeps (hc.sub (K' := 0x60602245a10) (by decide)) r s h
  | equinoxResend die => exact execEquinoxResend_keeps (hc.sub (K' := 0x20200001a00) (by decide)) die s h
  | ledgerLocalWrite die line off bytes => exact execLedgerLocalWrite_keeps (hc.sub (K' := 0x2000) (by decide)) die line off bytes s h
  | ledgerWrite r => exact execLedgerWrite_keeps (hc.sub (K' := 0x60200246a10) (by decide)) r s h
  | handoverClear r => exact execHandoverClear_keeps (hc.sub (K' := 0x60200246a10) (by decide)) r s h
  | coldReset cause logHeaderOk => exact execColdReset_keeps (hc.sub (K' := 0x10000e2200024238) (by decide)) cause logHeaderOk s h
  | warmReset cause => exact execWarmReset_keeps (hc.sub (K' := 0x10000e3a20024238) (by decide)) cause s h
  | startupSequence pgIn => exact execStartupSequence_keeps (hc.sub (K' := 0x4000) (by decide)) pgIn s h
  | startupStepComplete info => exact execStartupStepComplete_keeps (hc.sub (K' := 0x10000fffffe7ffb8) (by decide)) info s h
  | startupStepTimeout => exact execStartupStepTimeout_keeps (hc.sub (K' := 0x10000e7fefe6fe38) (by decide)) s h
  | dormantReport => exact execDormantReport_keeps (hc.sub (K' := 0x20200000000) (by decide)) s h
  | watchdogExpiry => exact execWatchdogExpiry_keeps (hc.sub (K' := 0x10000e3a20024238) (by decide)) s h
  | wdtKick path v => exact execWdtKick_keeps (hc.sub (K' := 0x10000ffa3fe67fb8) (by decide)) path v s h
  | dieHoldSet path die => exact execDieHoldSet_keeps (hc.sub (K' := 0x6020fe47a30) (by decide)) path die s h
  | dieHoldRelease path die site mirrored guardOk => exact execDieHoldRelease_keeps (hc.sub (K' := 0x6020f845a30) (by decide)) path die site mirrored guardOk s h
  | dieReset path cd site mirrored => exact execDieReset_keeps (hc.sub (K' := 0x60207a47a30) (by decide)) path cd site mirrored s h
  | sinkEnd cd => exact execSinkEnd_keeps (hc.sub (K' := 0x10000ffa3fe67fb8) (by decide)) cd s h
  | dieReady r => exact execDieReady_keeps (hc.sub (K' := 0x10000ffa3fe67fb8) (by decide)) r s h
  | firstEpoch => exact execFirstEpoch_keeps (hc.sub (K' := 0xa7a00005a18) (by decide)) s h
  | slotConfirm => exact execSlotConfirm_keeps (hc.sub (K' := 0x2020002c218) (by decide)) s h
  | programRow path cmd a => exact execProgramRow_keeps (hc.sub (K' := 0x20200020200) (by decide)) path cmd a s h
  | reinforceRow path cmd a => exact execReinforceRow_keeps (hc.sub (K' := 0x20200020200) (by decide)) path cmd a s h
  | marginRow path cmd => exact execMarginRow_keeps (hc.sub (K' := 0x20200020200) (by decide)) path cmd s h
  | scan path cmd a => exact execScan_keeps (hc.sub (K' := 0x20200020200) (by decide)) path cmd a s h
  | lcAdvance path cmd a => exact execLcAdvance_keeps (hc.sub (K' := 0x10000e2200024230) (by decide)) path cmd a s h
  | rollbackRaise path cmd a => exact execRollbackRaise_keeps (hc.sub (K' := 0x20200020208) (by decide)) path cmd a s h
  | policyLock path cmd a => exact execPolicyLock_keeps (hc.sub (K' := 0x20200020200) (by decide)) path cmd a s h
  | kwrapGen path cmd a => exact execKwrapGen_keeps (hc.sub (K' := 0x20200020208) (by decide)) path cmd a s h
  | otpLockSet path v => exact execOtpLockSet_keeps (hc.sub (K' := 0x10000ffa3fe67fb8) (by decide)) path v s h
  | debugDisableEffect => exact execDebugDisableEffect_keeps (hc.sub (K' := 0x60000060018) (by decide)) s h
  | linkTrain port o => exact execLinkTrain_keeps (hc.sub (K' := 0x60200044a10) (by decide)) port o s h
  | trainStepTimeout port => exact execTrainStepTimeout_keeps (hc.sub (K' := 0x60200044810) (by decide)) port s h
  | lmwHello f => exact execLmwHello_keeps (hc.sub (K' := 0x60200044a10) (by decide)) f s h
  | lmwStep f => exact execLmwStep_keeps (hc.sub (K' := 0x60200044a10) (by decide)) f s h
  | lmwFail f => exact execLmwFail_keeps (hc.sub (K' := 0x60200044810) (by decide)) f s h
  | lmwSteer f => exact execLmwSteer_keeps (hc.sub (K' := 0x60200044a10) (by decide)) f s h
  | lmwSteerAck f => exact execLmwSteerAck_keeps (hc.sub (K' := 0x60200044810) (by decide)) f s h
  | lmwRetrain f => exact execLmwRetrain_keeps (hc.sub (K' := 0x60200044a10) (by decide)) f s h
  | lmwResend port => exact execLmwResend_keeps (hc.sub (K' := 0x60200044a10) (by decide)) port s h
  | retrainRequest path port => exact execRetrainRequest_keeps (hc.sub (K' := 0x40200) (by decide)) path port s h
  | sbLost port => exact execSbLost_keeps (hc.sub (K' := 0x60200044810) (by decide)) port s h
  | sbRetry port => exact execSbRetry_keeps (hc.sub (K' := 0x40200) (by decide)) port s h
  | bundleClkLost port bundle => exact execBundleClkLost_keeps (hc.sub (K' := 0x40200) (by decide)) port bundle s h
  | linkSupplyFault port => exact execLinkSupplyFault_keeps (hc.sub (K' := 0x60200044810) (by decide)) port s h
  | parcelSlot port => exact execParcelSlot_keeps (hc.sub (K' := 0x60608241a00) (by decide)) port s h
  | parcelCrcFail port => exact execParcelCrcFail_keeps (hc.sub (K' := 0x60200044a10) (by decide)) port s h
  | nul r freed => exact execNul_keeps (hc.sub (K' := 0x60200044a10) (by decide)) r freed s h
  | nulDue port => exact execNulDue_keeps (hc.sub (K' := 0x40000) (by decide)) port s h
  | replayTimeout port => exact execReplayTimeout_keeps (hc.sub (K' := 0x60200044a10) (by decide)) port s h
  | resume r => exact execResume_keeps (hc.sub (K' := 0x40000) (by decide)) r s h
  | resumeTimeout port => exact execResumeTimeout_keeps (hc.sub (K' := 0x60200044810) (by decide)) port s h
  | portIsolate path port => exact execPortIsolate_keeps (hc.sub (K' := 0x60200044a10) (by decide)) path port s h
  | isolationDetect port => exact execIsolationDetect_keeps (hc.sub (K' := 0x60200044810) (by decide)) port s h
  | cap port c => exact execCap_keeps (hc.sub (K' := 0x60200045810) (by decide)) port c s h
  | agree port c => exact execAgree_keeps (hc.sub (K' := 0x60200044810) (by decide)) port c s h
  | soak port crcOk wrong => exact execSoak_keeps (hc.sub (K' := 0x40000) (by decide)) port crcOk wrong s h
  | soakEnd port => exact execSoakEnd_keeps (hc.sub (K' := 0x60200044a10) (by decide)) port s h
  | init port soakSeen => exact execInit_keeps (hc.sub (K' := 0x45000) (by decide)) port soakSeen s h
  | negTimeout port => exact execNegTimeout_keeps (hc.sub (K' := 0x60200044810) (by decide)) port s h
  | negotiationResend port => exact execNegotiationResend_keeps (hc.sub (K' := 0x40200) (by decide)) port s h
  | regReq r => exact execRegReq_keeps (hc.sub (K' := 0x10000ffa3fe67fb8) (by decide)) r s h
  | regResp r => exact execRegResp_keeps (hc.sub (K' := 0x10000ffafffe7ff8) (by decide)) r s h
  | regAccessTimeout => exact execRegAccessTimeout_keeps (hc.sub (K' := 0x10000ffafffe7ff8) (by decide)) s h
  | vc5Write r => exact execVc5Write_keeps (hc.sub (K' := 0x60200644a10) (by decide)) r s h
  | vc5Read r => exact execVc5Read_keeps (hc.sub (K' := 0x60200244a10) (by decide)) r s h
  | vc5ReadResp r => exact execVc5ReadResp_keeps (hc.sub (K' := 0x10000ffafffe7ff8) (by decide)) r s h
  | remoteLoad cd src lines dst nc => exact execRemoteLoad_keeps (hc.sub (K' := 0x60200640800) (by decide)) cd src lines dst nc s h
  | readRequest r => exact execReadRequest_keeps (hc.sub (K' := 0x60200244a10) (by decide)) r s h
  | readResponse r => exact execReadResponse_keeps (hc.sub (K' := 0x60200645a10) (by decide)) r s h
  | readTimeout cd tag => exact execReadTimeout_keeps (hc.sub (K' := 0x60200241800) (by decide)) cd tag s h
  | masterEnWrite path cd v => exact execMasterEnWrite_keeps (hc.sub (K' := 0x200a10) (by decide)) path cd v s h
  | stuckTimeout cd => exact execStuckTimeout_keeps (hc.sub (K' := 0x60000200000) (by decide)) cd s h
  | remoteCacheDisable path cd => exact execRemoteCacheDisable_keeps (hc.sub (K' := 0x200a10) (by decide)) path cd s h
  | scrubRead cd => exact execScrubRead_keeps (hc.sub (K' := 0x60202201000) (by decide)) cd s h
  | weightChunkRewrite cd seg chunks => exact execWeightChunkRewrite_keeps (hc.sub (K' := 0x60200240000) (by decide)) cd seg chunks s h
  | eccUncorrectable cd cluster addr => exact execEccUncorrectable_keeps (hc.sub (K' := 0x60002201800) (by decide)) cd cluster addr s h
  | expose f vpixOk => exact execExpose_keeps (hc.sub (K' := 0x60201845a10) (by decide)) f vpixOk s h
  | exposeHdr f vpixOk => exact execExposeHdr_keeps (hc.sub (K' := 0x60201845a10) (by decide)) f vpixOk s h
  | sensorCalDone aOk bOk => exact execSensorCalDone_keeps (hc.sub (K' := 0x800008) (by decide)) aOk bOk s h
  | calTimeout => exact execCalTimeout_keeps (hc.sub (K' := 0x800000) (by decide)) s h
  | exposureEnd => exact execExposureEnd_keeps (hc.sub (K' := 0x800000) (by decide)) s h
  | bankPowerUp => exact execBankPowerUp_keeps (hc.sub (K' := 0x800000) (by decide)) s h
  | rowConverted long short => exact execRowConverted_keeps (hc.sub (K' := 0xc01008) (by decide)) long short s h
  | vpixFault => exact execVpixFault_keeps (hc.sub (K' := 0x60201841000) (by decide)) s h
  | seqClockLost => exact execSeqClockLost_keeps (hc.sub (K' := 0x60201841000) (by decide)) s h
  | seqClockRelock => exact execSeqClockRelock_keeps (hc.sub (K' := 0x800000) (by decide)) s h
  | ispStart f => exact execIspStart_keeps (hc.sub (K' := 0x60201045a10) (by decide)) f s h
  | ispRowProcess len index frameEnd lineEcc toneEcc => exact execIspRowProcess_keeps (hc.sub (K' := 0x60201841008) (by decide)) len index frameEnd lineEcc toneEcc s h
  | frameTimeout => exact execFrameTimeout_keeps (hc.sub (K' := 0x60201841000) (by decide)) s h
  | runGroup f => exact execRunGroup_keeps (hc.sub (K' := 0x60202045a10) (by decide)) f s h
  | stream r => exact execStream_keeps (hc.sub (K' := 0x6060a644a18) (by decide)) r s h
  | frameAbort r => exact execFrameAbort_keeps (hc.sub (K' := 0x60206645a10) (by decide)) r s h
  | groupBandProcess cd cluster jobs wide fault hv => exact execGroupBandProcess_keeps (hc.sub (K' := 0x60216643a08) (by decide)) cd cluster jobs wide fault hv s h
  | halo r => exact execHalo_keeps (hc.sub (K' := 0x60202644a10) (by decide)) r s h
  | commit f => exact execCommit_keeps (hc.sub (K' := 0x60202044a10) (by decide)) f s h
  | revoke f => exact execRevoke_keeps (hc.sub (K' := 0x60202044a10) (by decide)) f s h
  | clusterStall cd cluster => exact execClusterStall_keeps (hc.sub (K' := 0x60002001800) (by decide)) cd cluster s h
  | speedMonitorSample cd msteps => exact execSpeedMonitorSample_keeps (hc.sub (K' := 0x2000000) (by decide)) cd msteps s h
  | speedLow cd cluster => exact execSpeedLow_keeps (hc.sub (K' := 0x60200000000) (by decide)) cd cluster s h
  | detect f => exact execDetect_keeps (hc.sub (K' := 0x60204645a10) (by decide)) f s h
  | detectStart cd => exact execDetectStart_keeps (hc.sub (K' := 0x60004601800) (by decide)) cd s h
  | detectStall cd => exact execDetectStall_keeps (hc.sub (K' := 0x60004601800) (by decide)) cd s h
  | track f => exact execTrack_keeps (hc.sub (K' := 0x60206647a10) (by decide)) f s h
  | roiWindow f => exact execRoiWindow_keeps (hc.sub (K' := 0x60208045a10) (by decide)) f s h
  | roiWindowClose => exact execRoiWindowClose_keeps (hc.sub (K' := 0x60208040000) (by decide)) s h
  | cropRequest r => exact execCropRequest_keeps (hc.sub (K' := 0x6060a644a18) (by decide)) r s h
  | cropProcess => exact execCropProcess_keeps (hc.sub (K' := 0x60209040000) (by decide)) s h
  | roiResult r => exact execRoiResult_keeps (hc.sub (K' := 0x60200244a10) (by decide)) r s h
  | egressBudget r => exact execEgressBudget_keeps (hc.sub (K' := 0x60200244a10) (by decide)) r s h
  | hvStart path v => exact execHvStart_keeps (hc.sub (K' := 0x20210000200) (by decide)) path v s h
  | hvCancel path v => exact execHvCancel_keeps (hc.sub (K' := 0x20210000200) (by decide)) path v s h
  | hvRevertBaseline path v => exact execHvRevertBaseline_keeps (hc.sub (K' := 0x20210000200) (by decide)) path v s h
  | harvestCheckpointWrite flashOk => exact execHarvestCheckpointWrite_keeps (hc.sub (K' := 0x28210000200) (by decide)) flashOk s h
  | hello m host hnonce => exact execHello_keeps (hc.sub (K' := 0x20240000208) (by decide)) m host hnonce s h
  | read m addr count => exact execRead_keeps (hc.sub (K' := 0x10000ffafffe7ff8) (by decide)) m addr count s h
  | write m addr words => exact execWrite_keeps (hc.sub (K' := 0x10000ffafffe7ff8) (by decide)) m addr words s h
  | read64 m addr count => exact execRead64_keeps (hc.sub (K' := 0x10000ffafffe7ff8) (by decide)) m addr count s h
  | claim m priority => exact execClaim_keeps (hc.sub (K' := 0x202c0000208) (by decide)) m priority s h
  | heartbeat m => exact execHeartbeat_keeps (hc.sub (K' := 0x20240000208) (by decide)) m s h
  | release m successor => exact execRelease_keeps (hc.sub (K' := 0x202c0000208) (by decide)) m successor s h
  | ownerQuery m => exact execOwnerQuery_keeps (hc.sub (K' := 0x20240000208) (by decide)) m s h
  | contestEnd => exact execContestEnd_keeps (hc.sub (K' := 0x202c0000208) (by decide)) s h
  | leaseExpire => exact execLeaseExpire_keeps (hc.sub (K' := 0x202c0000208) (by decide)) s h
  | successionEnd => exact execSuccessionEnd_keeps (hc.sub (K' := 0x202c0000208) (by decide)) s h
  | sessionTimeout host => exact execSessionTimeout_keeps (hc.sub (K' := 0x40000000) (by decide)) host s h
  | stageBegin m slot size sha => exact execStageBegin_keeps (hc.sub (K' := 0x202c000c208) (by decide)) m slot size sha s h
  | stageData m offset data flashOk => exact execStageData_keeps (hc.sub (K' := 0x282c000c208) (by decide)) m offset data flashOk s h
  | stageEnd m => exact execStageEnd_keeps (hc.sub (K' := 0x202c0000208) (by decide)) m s h
  | stageCheckDone hashOk facts => exact execStageCheckDone_keeps (hc.sub (K' := 0x8000c200) (by decide)) hashOk facts s h
  | switch m slot mode e => exact execSwitch_keeps (hc.sub (K' := 0x10000e3b6002c238) (by decide)) m slot mode e s h
  | switchReady chunkOk => exact execSwitchReady_keeps (hc.sub (K' := 0x20300000810) (by decide)) chunkOk s h
  | switchCancel m => exact execSwitchCancel_keeps (hc.sub (K' := 0x20340000218) (by decide)) m s h
  | configCommit m mode flashOk => exact execConfigCommit_keeps (hc.sub (K' := 0x2824000c208) (by decide)) m mode flashOk s h
  | setKey m slot op key flashOk => exact execSetKey_keeps (hc.sub (K' := 0x282c000c208) (by decide)) m slot op key flashOk s h
  | keystoreBadReport => exact execKeystoreBadReport_keeps (hc.sub (K' := 0x20200000000) (by decide)) s h
  | logRead m start count => exact execLogRead_keeps (hc.sub (K' := 0x20240000208) (by decide)) m start count s h
  | logStatus m => exact execLogStatus_keeps (hc.sub (K' := 0x20240000208) (by decide)) m s h
  | logClear m => exact execLogClear_keeps (hc.sub (K' := 0x20240000208) (by decide)) m s h
  | logUnfreeze m => exact execLogUnfreeze_keeps (hc.sub (K' := 0x20240000208) (by decide)) m s h
  | phyLinkChange port up fdx => exact execPhyLinkChange_keeps (hc.sub (K' := 0x20220000600) (by decide)) port up fdx s h
  | portHoldEnd port => exact execPortHoldEnd_keeps (hc.sub (K' := 0x20000000) (by decide)) port s h
  | frameForward f => exact execFrameForward_keeps (hc.sub (K' := 0x20000200) (by decide)) f s h
  | dhcpLeaseBound l => exact execDhcpLeaseBound_keeps (hc.sub (K' := 0x20000000) (by decide)) l s h
  | dhcpTimeout expired => exact execDhcpTimeout_keeps (hc.sub (K' := 0x20220000208) (by decide)) expired s h
  | dhcpRenew rebind answer => exact execDhcpRenew_keeps (hc.sub (K' := 0x20000200) (by decide)) rebind answer s h
  | leaseRetry => exact execLeaseRetry_keeps (hc.sub (K' := 0x200) (by decide)) s h
  | addrConflict => exact execAddrConflict_keeps (hc.sub (K' := 0x20220000208) (by decide)) s h
  | addressTableAgeing mac => exact execAddressTableAgeing_keeps (hc.sub (K' := 0x20000000) (by decide)) mac s h
  | flush f => exact execFlush_keeps (hc.sub (K' := 0x60600045a10) (by decide)) f s h
  | recordParcel r => exact execRecordParcel_keeps (hc.sub (K' := 0x60600244a18) (by decide)) r s h
  | roiEncode => exact execRoiEncode_keeps (hc.sub (K' := 0x20200000000) (by decide)) s h
  | datagramTimeout => exact execDatagramTimeout_keeps (hc.sub (K' := 0x200000000) (by decide)) s h
  | datagramSend => exact execDatagramSend_keeps (hc.sub (K' := 0x20200000200) (by decide)) s h
  | statusReport => exact execStatusReport_keeps (hc.sub (K' := 0x200000000) (by decide)) s h
  | announceSend => exact execAnnounceSend_keeps (hc.sub (K' := 0x400000200) (by decide)) s h
  | peerAnnounce p a => exact execPeerAnnounce_keeps (hc.sub (K' := 0x20600000000) (by decide)) p a s h
  | peerEmbed p items => exact execPeerEmbed_keeps (hc.sub (K' := 0x20600000000) (by decide)) p items s h
  | peerBye p => exact execPeerBye_keeps (hc.sub (K' := 0x20600000000) (by decide)) p s h
  | peerAgeOut mac => exact execPeerAgeOut_keeps (hc.sub (K' := 0x400000000) (by decide)) mac s h
  | audioFrame x0 x1 scores bias0 bias1 recogEcc => exact execAudioFrame_keeps (hc.sub (K' := 0xa7a00001208) (by decide)) x0 x1 scores bias0 bias1 recogEcc s h
  | listenerStartDone => exact execListenerStartDone_keeps (hc.sub (K' := 0x800000000) (by decide)) s h
  | listenerSelftest path v => exact execListenerSelftest_keeps (hc.sub (K' := 0x800000210) (by decide)) path v s h
  | selftestDone level0 level1 => exact execSelftestDone_keeps (hc.sub (K' := 0x800000000) (by decide)) level0 level1 s h
  | micBiasShort mic => exact execMicBiasShort_keeps (hc.sub (K' := 0x20a00000008) (by decide)) mic s h
  | micBiasRetry mic => exact execMicBiasRetry_keeps (hc.sub (K' := 0x800000000) (by decide)) mic s h
  | micOpen mic => exact execMicOpen_keeps (hc.sub (K' := 0x20a00000008) (by decide)) mic s h
  | micOpenCleared mic => exact execMicOpenCleared_keeps (hc.sub (K' := 0x800000000) (by decide)) mic s h
  | micSilent mic => exact execMicSilent_keeps (hc.sub (K' := 0x20a00000008) (by decide)) mic s h
  | modClockLost => exact execModClockLost_keeps (hc.sub (K' := 0x20a00000008) (by decide)) s h
  | listenerWatchdog => exact execListenerWatchdog_keeps (hc.sub (K' := 0x20a00000008) (by decide)) s h
  | adcScan f => exact execAdcScan_keeps (hc.sub (K' := 0x61200045a10) (by decide)) f s h
  | hkCalibrate conv ok => exact execHkCalibrate_keeps (hc.sub (K' := 0x21200001000) (by decide)) conv ok s h
  | hkRefresh conv drifted => exact execHkRefresh_keeps (hc.sub (K' := 0x21200001000) (by decide)) conv drifted s h
  | hkConversion conv x => exact execHkConversion_keeps (hc.sub (K' := 0x21200001000) (by decide)) conv x s h
  | hkUrgent path v => exact execHkUrgent_keeps (hc.sub (K' := 0x21200000200) (by decide)) path v s h
  | hkQRead path => exact execHkQRead_keeps (hc.sub (K' := 0x1000000240) (by decide)) path s h
  | hkMmClr path v => exact execHkMmClr_keeps (hc.sub (K' := 0x1000000200) (by decide)) path v s h
  | xcPair a b => exact execXcPair_keeps (hc.sub (K' := 0x21200000000) (by decide)) a b s h
  | hkClockLost => exact execHkClockLost_keeps (hc.sub (K' := 0x61200001008) (by decide)) s h
  | foPulse f => exact execFoPulse_keeps (hc.sub (K' := 0x62200045a10) (by decide)) f s h
  | foSet f => exact execFoSet_keeps (hc.sub (K' := 0x62200045a10) (by decide)) f s h
  | foClear f => exact execFoClear_keeps (hc.sub (K' := 0x62200045a10) (by decide)) f s h
  | foPulseEnd out => exact execFoPulseEnd_keeps (hc.sub (K' := 0x2000000200) (by decide)) out s h
  | foOutWrite path v => exact execFoOutWrite_keeps (hc.sub (K' := 0x2000000200) (by decide)) path v s h
  | foFaultLatch kind out other => exact execFoFaultLatch_keeps (hc.sub (K' := 0x62200000200) (by decide)) kind out other s h
  | foOpenLoad out => exact execFoOpenLoad_keeps (hc.sub (K' := 0x62200000000) (by decide)) out s h
  | foRetry out => exact execFoRetry_keeps (hc.sub (K' := 0x2000000200) (by decide)) out s h
  | foRetryRestore out => exact execFoRetryRestore_keeps (hc.sub (K' := 0x2000000000) (by decide)) out s h
  | foFaultClear path v => exact execFoFaultClear_keeps (hc.sub (K' := 0x2000000200) (by decide)) path v s h
  | foThermalRelease out => exact execFoThermalRelease_keeps (hc.sub (K' := 0x2000000200) (by decide)) out s h
  | foUvlo => exact execFoUvlo_keeps (hc.sub (K' := 0x22200000200) (by decide)) s h
  | foUvloRecover => exact execFoUvloRecover_keeps (hc.sub (K' := 0x2000000200) (by decide)) s h
  | tamperSample e c inRange => exact execTamperSample_keeps (hc.sub (K' := 0xa7a00001208) (by decide)) e c inRange s h
  | persistentOcclusion e => exact execPersistentOcclusion_keeps (hc.sub (K' := 0x4200000000) (by decide)) e s h
  | tamperRebaseline path v => exact execTamperRebaseline_keeps (hc.sub (K' := 0x4200000200) (by decide)) path v s h
  | tamperFault e => exact execTamperFault_keeps (hc.sub (K' := 0x24200000000) (by decide)) e s h
  | shieldFault => exact execShieldFault_keeps (hc.sub (K' := 0x24200000000) (by decide)) s h
  | i2cTargetTransaction dev addr data readWords => exact execI2cTargetTransaction_keeps (hc.sub (K' := 0x10000ffa3ffe7ff8) (by decide)) dev addr data readWords s h
  | i2cControllerXfer path v busFree r => exact execI2cControllerXfer_keeps (hc.sub (K' := 0x28200000200) (by decide)) path v busFree r s h
  | i2cBusFree r => exact execI2cBusFree_keeps (hc.sub (K' := 0x28200000200) (by decide)) r s h
  | i2cArbRetry r => exact execI2cArbRetry_keeps (hc.sub (K' := 0x28200000200) (by decide)) r s h
  | i2cBusStuck freed => exact execI2cBusStuck_keeps (hc.sub (K' := 0x28200000200) (by decide)) freed s h
  | pmAlert status busOk => exact execPmAlert_keeps (hc.sub (K' := 0x10000ea200024238) (by decide)) status busOk s h
  | vcoreTelemetry vout iout pout => exact execVcoreTelemetry_keeps (hc.sub (K' := 0xa8200000208) (by decide)) vout iout pout s h
  | gpioEdge pin rising => exact execGpioEdge_keeps (hc.sub (K' := 0xafa00001208) (by decide)) pin rising s h
  | flashBusyTimeout => exact execFlashBusyTimeout_keeps (hc.sub (K' := 0x8000000000) (by decide)) s h
  | cvStart path ctx ctrl => exact execCvStart_keeps (hc.sub (K' := 0x30200000210) (by decide)) path ctx ctrl s h
  | cvDataWrite path ctx bytes v => exact execCvDataWrite_keeps (hc.sub (K' := 0x30200000200) (by decide)) path ctx bytes v s h
  | cvStateWrite path ctx v => exact execCvStateWrite_keeps (hc.sub (K' := 0x30200000200) (by decide)) path ctx v s h
  | cvDmaGo path ctx ctrl => exact execCvDmaGo_keeps (hc.sub (K' := 0x30200000210) (by decide)) path ctx ctrl s h
  | cvDmaDone ctx eccError => exact execCvDmaDone_keeps (hc.sub (K' := 0x30200000218) (by decide)) ctx eccError s h
  | cvFinish path ctx ctrl => exact execCvFinish_keeps (hc.sub (K' := 0x30200000210) (by decide)) path ctx ctrl s h
  | checkEngineWatchdog => exact execCheckEngineWatchdog_keeps (hc.sub (K' := 0x70000000038) (by decide)) s h
  | logEvent e => exact execLogEvent_keeps (hc.sub (K' := 0x20000000000) (by decide)) e s h
  | logWrite => exact execLogWrite_keeps (hc.sub (K' := 0x20200000000) (by decide)) s h
  | logCmdClear path v => exact execLogCmdClear_keeps (hc.sub (K' := 0x20000000200) (by decide)) path v s h
  | logCmdUnfreeze path v => exact execLogCmdUnfreeze_keeps (hc.sub (K' := 0x20000000200) (by decide)) path v s h
  | logRdDataRead path w eccError => exact execLogRdDataRead_keeps (hc.sub (K' := 0x300) (by decide)) path w eccError s h
  | logWriterWatchdog => exact execLogWriterWatchdog_keeps (hc.sub (K' := 0x20000000000) (by decide)) s h
  | event r => exact execEvent_keeps (hc.sub (K' := 0x60200244a10) (by decide)) r s h
  | thermalSample temps => exact execThermalSample_keeps (hc.sub (K' := 0xe7e4fe47a38) (by decide)) temps s h
  | thermalStopExit => exact execThermalStopExit_keeps (hc.sub (K' := 0x10000e2200024230) (by decide)) s h
  | powerLevelEval => exact execPowerLevelEval_keeps (hc.sub (K' := 0xa0200000208) (by decide)) s h
  | seasonCmdWinter path v => exact execSeasonCmdWinter_keeps (hc.sub (K' := 0xa7a00001208) (by decide)) path v s h
  | seasonCmdLeave path v => exact execSeasonCmdLeave_keeps (hc.sub (K' := 0xa7a00001208) (by decide)) path v s h
  | springBringup => exact execSpringBringup_keeps (hc.sub (K' := 0x7845830) (by decide)) s h
  | wakeHoldExpire => exact execWakeHoldExpire_keeps (hc.sub (K' := 0x80000000000) (by decide)) s h
  | winterWindowClose => exact execWinterWindowClose_keeps (hc.sub (K' := 0xa7a00001208) (by decide)) s h
  | vcoreFault => exact execVcoreFault_keeps (hc.sub (K' := 0xa0200000000) (by decide)) s h
  | railFault vana => exact execRailFault_keeps (hc.sub (K' := 0xa0200000000) (by decide)) vana s h
  | vsysBrownout => exact execVsysBrownout_keeps (hc.sub (K' := 0x10000e2200024230) (by decide)) s h
  | domainPowerFault d => exact execDomainPowerFault_keeps (hc.sub (K' := 0xe020fe47830) (by decide)) d s h
  | clockLossHalt => exact execClockLossHalt_keeps (hc.sub (K' := 0xe7fefe47a30) (by decide)) s h

end Sys2Proof.Laws
end

