-- ==== Sys2Proof/Laws/Fields.lean ====
section
/-! SUPPORT. That one field keeps its value is closed under every change that leaves that field out. -/
namespace Sys2Proof.Laws
open Sys2Proof.Machine

theorem closed_pending (s : State) : Closed 0xffffffffff8 fun t => t.pending = s.pending := by
  constructor
  all_goals first
    | exact fun b => absurd b (by decide)
    | exact fun _ _ _ h => h
    | exact fun _ _ _ _ h => h

theorem closed_part (s : State) : Closed 0xffffffffff8 fun t => t.part = s.part := by
  constructor
  all_goals first
    | exact fun b => absurd b (by decide)
    | exact fun _ _ _ h => h
    | exact fun _ _ _ _ h => h

theorem closed_now (s : State) : Closed 0xffffffffff8 fun t => t.now = s.now := by
  constructor
  all_goals first
    | exact fun b => absurd b (by decide)
    | exact fun _ _ _ h => h
    | exact fun _ _ _ _ h => h

theorem closed_freeIdx (s : State) : Closed 0xffffffffff0 fun t => t.freeIdx = s.freeIdx := by
  constructor
  all_goals first
    | exact fun b => absurd b (by decide)
    | exact fun _ _ _ h => h
    | exact fun _ _ _ _ h => h

theorem closed_regs (s : State) : Closed 0xfffffffffe8 fun t => t.regs = s.regs := by
  constructor
  all_goals first
    | exact fun b => absurd b (by decide)
    | exact fun _ _ _ h => h
    | exact fun _ _ _ _ h => h

theorem closed_shadow (s : State) : Closed 0xfffffffffd8 fun t => t.shadow = s.shadow := by
  constructor
  all_goals first
    | exact fun b => absurd b (by decide)
    | exact fun _ _ _ h => h
    | exact fun _ _ _ _ h => h

theorem closed_loRead (s : State) : Closed 0xfffffffffb8 fun t => t.loRead = s.loRead := by
  constructor
  all_goals first
    | exact fun b => absurd b (by decide)
    | exact fun _ _ _ h => h
    | exact fun _ _ _ _ h => h

theorem closed_loStaged (s : State) : Closed 0xfffffffff78 fun t => t.loStaged = s.loStaged := by
  constructor
  all_goals first
    | exact fun b => absurd b (by decide)
    | exact fun _ _ _ h => h
    | exact fun _ _ _ _ h => h

theorem closed_logRd (s : State) : Closed 0xffffffffef8 fun t => t.logRd = s.logRd := by
  constructor
  all_goals first
    | exact fun b => absurd b (by decide)
    | exact fun _ _ _ h => h
    | exact fun _ _ _ _ h => h

theorem closed_out (s : State) : Closed 0xffffffffdf8 fun t => t.out = s.out := by
  constructor
  all_goals first
    | exact fun b => absurd b (by decide)
    | exact fun _ _ _ h => h
    | exact fun _ _ _ _ h => h

theorem closed_tb (s : State) : Closed 0xffffffffbf8 fun t => t.tb = s.tb := by
  constructor
  all_goals first
    | exact fun b => absurd b (by decide)
    | exact fun _ _ _ h => h
    | exact fun _ _ _ _ h => h

theorem closed_seqr (s : State) : Closed 0xffffffff7f8 fun t => t.seqr = s.seqr := by
  constructor
  all_goals first
    | exact fun b => absurd b (by decide)
    | exact fun _ _ _ h => h
    | exact fun _ _ _ _ h => h

theorem closed_dies (s : State) : Closed 0xfffffffeff8 fun t => t.dies = s.dies := by
  constructor
  all_goals first
    | exact fun b => absurd b (by decide)
    | exact fun _ _ _ h => h
    | exact fun _ _ _ _ h => h

theorem closed_ledgers (s : State) : Closed 0xfffffffdff8 fun t => t.ledgers = s.ledgers := by
  constructor
  all_goals first
    | exact fun b => absurd b (by decide)
    | exact fun _ _ _ h => h
    | exact fun _ _ _ _ h => h

theorem closed_boot (s : State) : Closed 0xfffffffbff8 fun t => t.boot = s.boot := by
  constructor
  all_goals first
    | exact fun b => absurd b (by decide)
    | exact fun _ _ _ h => h
    | exact fun _ _ _ _ h => h

theorem closed_flash (s : State) : Closed 0xfffffff7ff8 fun t => t.flash = s.flash := by
  constructor
  all_goals first
    | exact fun b => absurd b (by decide)
    | exact fun _ _ _ h => h
    | exact fun _ _ _ _ h => h

theorem closed_img (s : State) : Closed 0xffffffefff8 fun t => t.img = s.img := by
  constructor
  all_goals first
    | exact fun b => absurd b (by decide)
    | exact fun _ _ _ h => h
    | exact fun _ _ _ _ h => h

theorem closed_otp (s : State) : Closed 0xffffffdfff8 fun t => t.otp = s.otp := by
  constructor
  all_goals first
    | exact fun b => absurd b (by decide)
    | exact fun _ _ _ h => h
    | exact fun _ _ _ _ h => h

theorem closed_ports (s : State) : Closed 0xffffffbfff8 fun t => t.ports = s.ports := by
  constructor
  all_goals first
    | exact fun b => absurd b (by decide)
    | exact fun _ _ _ h => h
    | exact fun _ _ _ _ h => h

theorem closed_accesses (s : State) : Closed 0xffffff7fff8 fun t => t.accesses = s.accesses := by
  constructor
  all_goals first
    | exact fun b => absurd b (by decide)
    | exact fun _ _ _ h => h
    | exact fun _ _ _ _ h => h

theorem closed_accessTag (s : State) : Closed 0xfffffeffff8 fun t => t.accessTag = s.accessTag := by
  constructor
  all_goals first
    | exact fun b => absurd b (by decide)
    | exact fun _ _ _ h => h
    | exact fun _ _ _ _ h => h

theorem closed_fabs (s : State) : Closed 0xfffffdffff8 fun t => t.fabs = s.fabs := by
  constructor
  all_goals first
    | exact fun b => absurd b (by decide)
    | exact fun _ _ _ h => h
    | exact fun _ _ _ _ h => h

theorem closed_mem (s : State) : Closed 0xfffffbffff8 fun t => t.mem = s.mem := by
  constructor
  all_goals first
    | exact fun b => absurd b (by decide)
    | exact fun _ _ _ h => h
    | exact fun _ _ _ _ h => h

theorem closed_eye (s : State) : Closed 0xfffff7ffff8 fun t => t.eye = s.eye := by
  constructor
  all_goals first
    | exact fun b => absurd b (by decide)
    | exact fun _ _ _ h => h
    | exact fun _ _ _ _ h => h

theorem closed_isp (s : State) : Closed 0xffffefffff8 fun t => t.isp = s.isp := by
  constructor
  all_goals first
    | exact fun b => absurd b (by decide)
    | exact fun _ _ _ h => h
    | exact fun _ _ _ _ h => h

theorem closed_comp (s : State) : Closed 0xffffdfffff8 fun t => t.comp = s.comp := by
  constructor
  all_goals first
    | exact fun b => absurd b (by decide)
    | exact fun _ _ _ h => h
    | exact fun _ _ _ _ h => h

theorem closed_det (s : State) : Closed 0xffffbfffff8 fun t => t.det = s.det := by
  constructor
  all_goals first
    | exact fun b => absurd b (by decide)
    | exact fun _ _ _ h => h
    | exact fun _ _ _ _ h => h

theorem closed_guard (s : State) : Closed 0xffff7fffff8 fun t => t.guard = s.guard := by
  constructor
  all_goals first
    | exact fun b => absurd b (by decide)
    | exact fun _ _ _ h => h
    | exact fun _ _ _ _ h => h

theorem closed_hv (s : State) : Closed 0xfffeffffff8 fun t => t.hv = s.hv := by
  constructor
  all_goals first
    | exact fun b => absurd b (by decide)
    | exact fun _ _ _ h => h
    | exact fun _ _ _ _ h => h

theorem closed_net (s : State) : Closed 0xfffdffffff8 fun t => t.net = s.net := by
  constructor
  all_goals first
    | exact fun b => absurd b (by decide)
    | exact fun _ _ _ h => h
    | exact fun _ _ _ _ h => h

theorem closed_bcp (s : State) : Closed 0xfffbffffff8 fun t => t.bcp = s.bcp := by
  constructor
  all_goals first
    | exact fun b => absurd b (by decide)
    | exact fun _ _ _ h => h
    | exact fun _ _ _ _ h => h

theorem closed_stage (s : State) : Closed 0xfff7ffffff8 fun t => t.stage = s.stage := by
  constructor
  all_goals first
    | exact fun b => absurd b (by decide)
    | exact fun _ _ _ h => h
    | exact fun _ _ _ _ h => h

theorem closed_sw (s : State) : Closed 0xffefffffff8 fun t => t.sw = s.sw := by
  constructor
  all_goals first
    | exact fun b => absurd b (by decide)
    | exact fun _ _ _ h => h
    | exact fun _ _ _ _ h => h

theorem closed_recs (s : State) : Closed 0xffdfffffff8 fun t => t.recs = s.recs := by
  constructor
  all_goals first
    | exact fun b => absurd b (by decide)
    | exact fun _ _ _ h => h
    | exact fun _ _ _ _ h => h

theorem closed_peers (s : State) : Closed 0xffbfffffff8 fun t => t.peers = s.peers := by
  constructor
  all_goals first
    | exact fun b => absurd b (by decide)
    | exact fun _ _ _ h => h
    | exact fun _ _ _ _ h => h

theorem closed_lst (s : State) : Closed 0xff7fffffff8 fun t => t.lst = s.lst := by
  constructor
  all_goals first
    | exact fun b => absurd b (by decide)
    | exact fun _ _ _ h => h
    | exact fun _ _ _ _ h => h

theorem closed_hk (s : State) : Closed 0xfeffffffff8 fun t => t.hk = s.hk := by
  constructor
  all_goals first
    | exact fun b => absurd b (by decide)
    | exact fun _ _ _ h => h
    | exact fun _ _ _ _ h => h

theorem closed_fo (s : State) : Closed 0xfdffffffff8 fun t => t.fo = s.fo := by
  constructor
  all_goals first
    | exact fun b => absurd b (by decide)
    | exact fun _ _ _ h => h
    | exact fun _ _ _ _ h => h

theorem closed_tamper (s : State) : Closed 0xfbffffffff8 fun t => t.tamper = s.tamper := by
  constructor
  all_goals first
    | exact fun b => absurd b (by decide)
    | exact fun _ _ _ h => h
    | exact fun _ _ _ _ h => h

theorem closed_bus (s : State) : Closed 0xf7ffffffff8 fun t => t.bus = s.bus := by
  constructor
  all_goals first
    | exact fun b => absurd b (by decide)
    | exact fun _ _ _ h => h
    | exact fun _ _ _ _ h => h

theorem closed_cv (s : State) : Closed 0xefffffffff8 fun t => t.cv = s.cv := by
  constructor
  all_goals first
    | exact fun b => absurd b (by decide)
    | exact fun _ _ _ h => h
    | exact fun _ _ _ _ h => h

theorem closed_log (s : State) : Closed 0xdfffffffff8 fun t => t.log = s.log := by
  constructor
  all_goals first
    | exact fun b => absurd b (by decide)
    | exact fun _ _ _ h => h
    | exact fun _ _ _ _ h => h

theorem closed_outboxes (s : State) : Closed 0xbfffffffff8 fun t => t.outboxes = s.outboxes := by
  constructor
  all_goals first
    | exact fun b => absurd b (by decide)
    | exact fun _ _ _ h => h
    | exact fun _ _ _ _ h => h

theorem closed_power (s : State) : Closed 0x7fffffffff8 fun t => t.power = s.power := by
  constructor
  all_goals first
    | exact fun b => absurd b (by decide)
    | exact fun _ _ _ h => h
    | exact fun _ _ _ _ h => h

end Sys2Proof.Laws
end

