-- ==== Sys2Proof/Laws/SharedOps.lean ====
section
/-! SUPPORT. What the shared operations leave unchanged, field by field. -/
namespace Sys2Proof.Laws
open Sys2Proof Sys2Proof.Machine

@[simp] theorem emit_pending (x1 : State) (x2) : (emit x1 x2).pending = x1.pending :=
  emit_keeps ((closed_pending x1).sub (K' := 0x200) (by decide)) x1 x2 rfl
@[simp] theorem emit_part (x1 : State) (x2) : (emit x1 x2).part = x1.part :=
  emit_keeps ((closed_part x1).sub (K' := 0x200) (by decide)) x1 x2 rfl
@[simp] theorem emit_now (x1 : State) (x2) : (emit x1 x2).now = x1.now :=
  emit_keeps ((closed_now x1).sub (K' := 0x200) (by decide)) x1 x2 rfl
@[simp] theorem emit_freeIdx (x1 : State) (x2) : (emit x1 x2).freeIdx = x1.freeIdx :=
  emit_keeps ((closed_freeIdx x1).sub (K' := 0x200) (by decide)) x1 x2 rfl
@[simp] theorem emit_regs (x1 : State) (x2) : (emit x1 x2).regs = x1.regs :=
  emit_keeps ((closed_regs x1).sub (K' := 0x200) (by decide)) x1 x2 rfl
@[simp] theorem emit_shadow (x1 : State) (x2) : (emit x1 x2).shadow = x1.shadow :=
  emit_keeps ((closed_shadow x1).sub (K' := 0x200) (by decide)) x1 x2 rfl
@[simp] theorem emit_loRead (x1 : State) (x2) : (emit x1 x2).loRead = x1.loRead :=
  emit_keeps ((closed_loRead x1).sub (K' := 0x200) (by decide)) x1 x2 rfl
@[simp] theorem emit_loStaged (x1 : State) (x2) : (emit x1 x2).loStaged = x1.loStaged :=
  emit_keeps ((closed_loStaged x1).sub (K' := 0x200) (by decide)) x1 x2 rfl
@[simp] theorem emit_logRd (x1 : State) (x2) : (emit x1 x2).logRd = x1.logRd :=
  emit_keeps ((closed_logRd x1).sub (K' := 0x200) (by decide)) x1 x2 rfl
@[simp] theorem emit_tb (x1 : State) (x2) : (emit x1 x2).tb = x1.tb :=
  emit_keeps ((closed_tb x1).sub (K' := 0x200) (by decide)) x1 x2 rfl
@[simp] theorem emit_seqr (x1 : State) (x2) : (emit x1 x2).seqr = x1.seqr :=
  emit_keeps ((closed_seqr x1).sub (K' := 0x200) (by decide)) x1 x2 rfl
@[simp] theorem emit_dies (x1 : State) (x2) : (emit x1 x2).dies = x1.dies :=
  emit_keeps ((closed_dies x1).sub (K' := 0x200) (by decide)) x1 x2 rfl
@[simp] theorem emit_ledgers (x1 : State) (x2) : (emit x1 x2).ledgers = x1.ledgers :=
  emit_keeps ((closed_ledgers x1).sub (K' := 0x200) (by decide)) x1 x2 rfl
@[simp] theorem emit_boot (x1 : State) (x2) : (emit x1 x2).boot = x1.boot :=
  emit_keeps ((closed_boot x1).sub (K' := 0x200) (by decide)) x1 x2 rfl
@[simp] theorem emit_flash (x1 : State) (x2) : (emit x1 x2).flash = x1.flash :=
  emit_keeps ((closed_flash x1).sub (K' := 0x200) (by decide)) x1 x2 rfl
@[simp] theorem emit_img (x1 : State) (x2) : (emit x1 x2).img = x1.img :=
  emit_keeps ((closed_img x1).sub (K' := 0x200) (by decide)) x1 x2 rfl
@[simp] theorem emit_otp (x1 : State) (x2) : (emit x1 x2).otp = x1.otp :=
  emit_keeps ((closed_otp x1).sub (K' := 0x200) (by decide)) x1 x2 rfl
@[simp] theorem emit_ports (x1 : State) (x2) : (emit x1 x2).ports = x1.ports :=
  emit_keeps ((closed_ports x1).sub (K' := 0x200) (by decide)) x1 x2 rfl
@[simp] theorem emit_accesses (x1 : State) (x2) : (emit x1 x2).accesses = x1.accesses :=
  emit_keeps ((closed_accesses x1).sub (K' := 0x200) (by decide)) x1 x2 rfl
@[simp] theorem emit_accessTag (x1 : State) (x2) : (emit x1 x2).accessTag = x1.accessTag :=
  emit_keeps ((closed_accessTag x1).sub (K' := 0x200) (by decide)) x1 x2 rfl
@[simp] theorem emit_fabs (x1 : State) (x2) : (emit x1 x2).fabs = x1.fabs :=
  emit_keeps ((closed_fabs x1).sub (K' := 0x200) (by decide)) x1 x2 rfl
@[simp] theorem emit_mem (x1 : State) (x2) : (emit x1 x2).mem = x1.mem :=
  emit_keeps ((closed_mem x1).sub (K' := 0x200) (by decide)) x1 x2 rfl
@[simp] theorem emit_eye (x1 : State) (x2) : (emit x1 x2).eye = x1.eye :=
  emit_keeps ((closed_eye x1).sub (K' := 0x200) (by decide)) x1 x2 rfl
@[simp] theorem emit_isp (x1 : State) (x2) : (emit x1 x2).isp = x1.isp :=
  emit_keeps ((closed_isp x1).sub (K' := 0x200) (by decide)) x1 x2 rfl
@[simp] theorem emit_comp (x1 : State) (x2) : (emit x1 x2).comp = x1.comp :=
  emit_keeps ((closed_comp x1).sub (K' := 0x200) (by decide)) x1 x2 rfl
@[simp] theorem emit_det (x1 : State) (x2) : (emit x1 x2).det = x1.det :=
  emit_keeps ((closed_det x1).sub (K' := 0x200) (by decide)) x1 x2 rfl
@[simp] theorem emit_guard (x1 : State) (x2) : (emit x1 x2).guard = x1.guard :=
  emit_keeps ((closed_guard x1).sub (K' := 0x200) (by decide)) x1 x2 rfl
@[simp] theorem emit_hv (x1 : State) (x2) : (emit x1 x2).hv = x1.hv :=
  emit_keeps ((closed_hv x1).sub (K' := 0x200) (by decide)) x1 x2 rfl
@[simp] theorem emit_net (x1 : State) (x2) : (emit x1 x2).net = x1.net :=
  emit_keeps ((closed_net x1).sub (K' := 0x200) (by decide)) x1 x2 rfl
@[simp] theorem emit_bcp (x1 : State) (x2) : (emit x1 x2).bcp = x1.bcp :=
  emit_keeps ((closed_bcp x1).sub (K' := 0x200) (by decide)) x1 x2 rfl
@[simp] theorem emit_stage (x1 : State) (x2) : (emit x1 x2).stage = x1.stage :=
  emit_keeps ((closed_stage x1).sub (K' := 0x200) (by decide)) x1 x2 rfl
@[simp] theorem emit_sw (x1 : State) (x2) : (emit x1 x2).sw = x1.sw :=
  emit_keeps ((closed_sw x1).sub (K' := 0x200) (by decide)) x1 x2 rfl
@[simp] theorem emit_recs (x1 : State) (x2) : (emit x1 x2).recs = x1.recs :=
  emit_keeps ((closed_recs x1).sub (K' := 0x200) (by decide)) x1 x2 rfl
@[simp] theorem emit_peers (x1 : State) (x2) : (emit x1 x2).peers = x1.peers :=
  emit_keeps ((closed_peers x1).sub (K' := 0x200) (by decide)) x1 x2 rfl
@[simp] theorem emit_lst (x1 : State) (x2) : (emit x1 x2).lst = x1.lst :=
  emit_keeps ((closed_lst x1).sub (K' := 0x200) (by decide)) x1 x2 rfl
@[simp] theorem emit_hk (x1 : State) (x2) : (emit x1 x2).hk = x1.hk :=
  emit_keeps ((closed_hk x1).sub (K' := 0x200) (by decide)) x1 x2 rfl
@[simp] theorem emit_fo (x1 : State) (x2) : (emit x1 x2).fo = x1.fo :=
  emit_keeps ((closed_fo x1).sub (K' := 0x200) (by decide)) x1 x2 rfl
@[simp] theorem emit_tamper (x1 : State) (x2) : (emit x1 x2).tamper = x1.tamper :=
  emit_keeps ((closed_tamper x1).sub (K' := 0x200) (by decide)) x1 x2 rfl
@[simp] theorem emit_bus (x1 : State) (x2) : (emit x1 x2).bus = x1.bus :=
  emit_keeps ((closed_bus x1).sub (K' := 0x200) (by decide)) x1 x2 rfl
@[simp] theorem emit_cv (x1 : State) (x2) : (emit x1 x2).cv = x1.cv :=
  emit_keeps ((closed_cv x1).sub (K' := 0x200) (by decide)) x1 x2 rfl
@[simp] theorem emit_log (x1 : State) (x2) : (emit x1 x2).log = x1.log :=
  emit_keeps ((closed_log x1).sub (K' := 0x200) (by decide)) x1 x2 rfl
@[simp] theorem emit_outboxes (x1 : State) (x2) : (emit x1 x2).outboxes = x1.outboxes :=
  emit_keeps ((closed_outboxes x1).sub (K' := 0x200) (by decide)) x1 x2 rfl
@[simp] theorem emit_power (x1 : State) (x2) : (emit x1 x2).power = x1.power :=
  emit_keeps ((closed_power x1).sub (K' := 0x200) (by decide)) x1 x2 rfl

@[simp] theorem fresh_pending (x1 : State) : (fresh x1).2.pending = x1.pending :=
  fresh_keeps ((closed_pending x1).sub (K' := 0x8) (by decide)) x1 rfl
@[simp] theorem fresh_part (x1 : State) : (fresh x1).2.part = x1.part :=
  fresh_keeps ((closed_part x1).sub (K' := 0x8) (by decide)) x1 rfl
@[simp] theorem fresh_now (x1 : State) : (fresh x1).2.now = x1.now :=
  fresh_keeps ((closed_now x1).sub (K' := 0x8) (by decide)) x1 rfl
@[simp] theorem fresh_regs (x1 : State) : (fresh x1).2.regs = x1.regs :=
  fresh_keeps ((closed_regs x1).sub (K' := 0x8) (by decide)) x1 rfl
@[simp] theorem fresh_shadow (x1 : State) : (fresh x1).2.shadow = x1.shadow :=
  fresh_keeps ((closed_shadow x1).sub (K' := 0x8) (by decide)) x1 rfl
@[simp] theorem fresh_loRead (x1 : State) : (fresh x1).2.loRead = x1.loRead :=
  fresh_keeps ((closed_loRead x1).sub (K' := 0x8) (by decide)) x1 rfl
@[simp] theorem fresh_loStaged (x1 : State) : (fresh x1).2.loStaged = x1.loStaged :=
  fresh_keeps ((closed_loStaged x1).sub (K' := 0x8) (by decide)) x1 rfl
@[simp] theorem fresh_logRd (x1 : State) : (fresh x1).2.logRd = x1.logRd :=
  fresh_keeps ((closed_logRd x1).sub (K' := 0x8) (by decide)) x1 rfl
@[simp] theorem fresh_out (x1 : State) : (fresh x1).2.out = x1.out :=
  fresh_keeps ((closed_out x1).sub (K' := 0x8) (by decide)) x1 rfl
@[simp] theorem fresh_tb (x1 : State) : (fresh x1).2.tb = x1.tb :=
  fresh_keeps ((closed_tb x1).sub (K' := 0x8) (by decide)) x1 rfl
@[simp] theorem fresh_seqr (x1 : State) : (fresh x1).2.seqr = x1.seqr :=
  fresh_keeps ((closed_seqr x1).sub (K' := 0x8) (by decide)) x1 rfl
@[simp] theorem fresh_dies (x1 : State) : (fresh x1).2.dies = x1.dies :=
  fresh_keeps ((closed_dies x1).sub (K' := 0x8) (by decide)) x1 rfl
@[simp] theorem fresh_ledgers (x1 : State) : (fresh x1).2.ledgers = x1.ledgers :=
  fresh_keeps ((closed_ledgers x1).sub (K' := 0x8) (by decide)) x1 rfl
@[simp] theorem fresh_boot (x1 : State) : (fresh x1).2.boot = x1.boot :=
  fresh_keeps ((closed_boot x1).sub (K' := 0x8) (by decide)) x1 rfl
@[simp] theorem fresh_flash (x1 : State) : (fresh x1).2.flash = x1.flash :=
  fresh_keeps ((closed_flash x1).sub (K' := 0x8) (by decide)) x1 rfl
@[simp] theorem fresh_img (x1 : State) : (fresh x1).2.img = x1.img :=
  fresh_keeps ((closed_img x1).sub (K' := 0x8) (by decide)) x1 rfl
@[simp] theorem fresh_otp (x1 : State) : (fresh x1).2.otp = x1.otp :=
  fresh_keeps ((closed_otp x1).sub (K' := 0x8) (by decide)) x1 rfl
@[simp] theorem fresh_ports (x1 : State) : (fresh x1).2.ports = x1.ports :=
  fresh_keeps ((closed_ports x1).sub (K' := 0x8) (by decide)) x1 rfl
@[simp] theorem fresh_accesses (x1 : State) : (fresh x1).2.accesses = x1.accesses :=
  fresh_keeps ((closed_accesses x1).sub (K' := 0x8) (by decide)) x1 rfl
@[simp] theorem fresh_accessTag (x1 : State) : (fresh x1).2.accessTag = x1.accessTag :=
  fresh_keeps ((closed_accessTag x1).sub (K' := 0x8) (by decide)) x1 rfl
@[simp] theorem fresh_fabs (x1 : State) : (fresh x1).2.fabs = x1.fabs :=
  fresh_keeps ((closed_fabs x1).sub (K' := 0x8) (by decide)) x1 rfl
@[simp] theorem fresh_mem (x1 : State) : (fresh x1).2.mem = x1.mem :=
  fresh_keeps ((closed_mem x1).sub (K' := 0x8) (by decide)) x1 rfl
@[simp] theorem fresh_eye (x1 : State) : (fresh x1).2.eye = x1.eye :=
  fresh_keeps ((closed_eye x1).sub (K' := 0x8) (by decide)) x1 rfl
@[simp] theorem fresh_isp (x1 : State) : (fresh x1).2.isp = x1.isp :=
  fresh_keeps ((closed_isp x1).sub (K' := 0x8) (by decide)) x1 rfl
@[simp] theorem fresh_comp (x1 : State) : (fresh x1).2.comp = x1.comp :=
  fresh_keeps ((closed_comp x1).sub (K' := 0x8) (by decide)) x1 rfl
@[simp] theorem fresh_det (x1 : State) : (fresh x1).2.det = x1.det :=
  fresh_keeps ((closed_det x1).sub (K' := 0x8) (by decide)) x1 rfl
@[simp] theorem fresh_guard (x1 : State) : (fresh x1).2.guard = x1.guard :=
  fresh_keeps ((closed_guard x1).sub (K' := 0x8) (by decide)) x1 rfl
@[simp] theorem fresh_hv (x1 : State) : (fresh x1).2.hv = x1.hv :=
  fresh_keeps ((closed_hv x1).sub (K' := 0x8) (by decide)) x1 rfl
@[simp] theorem fresh_net (x1 : State) : (fresh x1).2.net = x1.net :=
  fresh_keeps ((closed_net x1).sub (K' := 0x8) (by decide)) x1 rfl
@[simp] theorem fresh_bcp (x1 : State) : (fresh x1).2.bcp = x1.bcp :=
  fresh_keeps ((closed_bcp x1).sub (K' := 0x8) (by decide)) x1 rfl
@[simp] theorem fresh_stage (x1 : State) : (fresh x1).2.stage = x1.stage :=
  fresh_keeps ((closed_stage x1).sub (K' := 0x8) (by decide)) x1 rfl
@[simp] theorem fresh_sw (x1 : State) : (fresh x1).2.sw = x1.sw :=
  fresh_keeps ((closed_sw x1).sub (K' := 0x8) (by decide)) x1 rfl
@[simp] theorem fresh_recs (x1 : State) : (fresh x1).2.recs = x1.recs :=
  fresh_keeps ((closed_recs x1).sub (K' := 0x8) (by decide)) x1 rfl
@[simp] theorem fresh_peers (x1 : State) : (fresh x1).2.peers = x1.peers :=
  fresh_keeps ((closed_peers x1).sub (K' := 0x8) (by decide)) x1 rfl
@[simp] theorem fresh_lst (x1 : State) : (fresh x1).2.lst = x1.lst :=
  fresh_keeps ((closed_lst x1).sub (K' := 0x8) (by decide)) x1 rfl
@[simp] theorem fresh_hk (x1 : State) : (fresh x1).2.hk = x1.hk :=
  fresh_keeps ((closed_hk x1).sub (K' := 0x8) (by decide)) x1 rfl
@[simp] theorem fresh_fo (x1 : State) : (fresh x1).2.fo = x1.fo :=
  fresh_keeps ((closed_fo x1).sub (K' := 0x8) (by decide)) x1 rfl
@[simp] theorem fresh_tamper (x1 : State) : (fresh x1).2.tamper = x1.tamper :=
  fresh_keeps ((closed_tamper x1).sub (K' := 0x8) (by decide)) x1 rfl
@[simp] theorem fresh_bus (x1 : State) : (fresh x1).2.bus = x1.bus :=
  fresh_keeps ((closed_bus x1).sub (K' := 0x8) (by decide)) x1 rfl
@[simp] theorem fresh_cv (x1 : State) : (fresh x1).2.cv = x1.cv :=
  fresh_keeps ((closed_cv x1).sub (K' := 0x8) (by decide)) x1 rfl
@[simp] theorem fresh_log (x1 : State) : (fresh x1).2.log = x1.log :=
  fresh_keeps ((closed_log x1).sub (K' := 0x8) (by decide)) x1 rfl
@[simp] theorem fresh_outboxes (x1 : State) : (fresh x1).2.outboxes = x1.outboxes :=
  fresh_keeps ((closed_outboxes x1).sub (K' := 0x8) (by decide)) x1 rfl
@[simp] theorem fresh_power (x1 : State) : (fresh x1).2.power = x1.power :=
  fresh_keeps ((closed_power x1).sub (K' := 0x8) (by decide)) x1 rfl

@[simp] theorem rput_pending (x1 : State) (x2) (x3) : (rput x1 x2 x3).pending = x1.pending :=
  rput_keeps ((closed_pending x1).sub (K' := 0x10) (by decide)) x1 x2 x3 rfl
@[simp] theorem rput_part (x1 : State) (x2) (x3) : (rput x1 x2 x3).part = x1.part :=
  rput_keeps ((closed_part x1).sub (K' := 0x10) (by decide)) x1 x2 x3 rfl
@[simp] theorem rput_now (x1 : State) (x2) (x3) : (rput x1 x2 x3).now = x1.now :=
  rput_keeps ((closed_now x1).sub (K' := 0x10) (by decide)) x1 x2 x3 rfl
@[simp] theorem rput_freeIdx (x1 : State) (x2) (x3) : (rput x1 x2 x3).freeIdx = x1.freeIdx :=
  rput_keeps ((closed_freeIdx x1).sub (K' := 0x10) (by decide)) x1 x2 x3 rfl
@[simp] theorem rput_shadow (x1 : State) (x2) (x3) : (rput x1 x2 x3).shadow = x1.shadow :=
  rput_keeps ((closed_shadow x1).sub (K' := 0x10) (by decide)) x1 x2 x3 rfl
@[simp] theorem rput_loRead (x1 : State) (x2) (x3) : (rput x1 x2 x3).loRead = x1.loRead :=
  rput_keeps ((closed_loRead x1).sub (K' := 0x10) (by decide)) x1 x2 x3 rfl
@[simp] theorem rput_loStaged (x1 : State) (x2) (x3) : (rput x1 x2 x3).loStaged = x1.loStaged :=
  rput_keeps ((closed_loStaged x1).sub (K' := 0x10) (by decide)) x1 x2 x3 rfl
@[simp] theorem rput_logRd (x1 : State) (x2) (x3) : (rput x1 x2 x3).logRd = x1.logRd :=
  rput_keeps ((closed_logRd x1).sub (K' := 0x10) (by decide)) x1 x2 x3 rfl
@[simp] theorem rput_out (x1 : State) (x2) (x3) : (rput x1 x2 x3).out = x1.out :=
  rput_keeps ((closed_out x1).sub (K' := 0x10) (by decide)) x1 x2 x3 rfl
@[simp] theorem rput_tb (x1 : State) (x2) (x3) : (rput x1 x2 x3).tb = x1.tb :=
  rput_keeps ((closed_tb x1).sub (K' := 0x10) (by decide)) x1 x2 x3 rfl
@[simp] theorem rput_seqr (x1 : State) (x2) (x3) : (rput x1 x2 x3).seqr = x1.seqr :=
  rput_keeps ((closed_seqr x1).sub (K' := 0x10) (by decide)) x1 x2 x3 rfl
@[simp] theorem rput_dies (x1 : State) (x2) (x3) : (rput x1 x2 x3).dies = x1.dies :=
  rput_keeps ((closed_dies x1).sub (K' := 0x10) (by decide)) x1 x2 x3 rfl
@[simp] theorem rput_ledgers (x1 : State) (x2) (x3) : (rput x1 x2 x3).ledgers = x1.ledgers :=
  rput_keeps ((closed_ledgers x1).sub (K' := 0x10) (by decide)) x1 x2 x3 rfl
@[simp] theorem rput_boot (x1 : State) (x2) (x3) : (rput x1 x2 x3).boot = x1.boot :=
  rput_keeps ((closed_boot x1).sub (K' := 0x10) (by decide)) x1 x2 x3 rfl
@[simp] theorem rput_flash (x1 : State) (x2) (x3) : (rput x1 x2 x3).flash = x1.flash :=
  rput_keeps ((closed_flash x1).sub (K' := 0x10) (by decide)) x1 x2 x3 rfl
@[simp] theorem rput_img (x1 : State) (x2) (x3) : (rput x1 x2 x3).img = x1.img :=
  rput_keeps ((closed_img x1).sub (K' := 0x10) (by decide)) x1 x2 x3 rfl
@[simp] theorem rput_otp (x1 : State) (x2) (x3) : (rput x1 x2 x3).otp = x1.otp :=
  rput_keeps ((closed_otp x1).sub (K' := 0x10) (by decide)) x1 x2 x3 rfl
@[simp] theorem rput_ports (x1 : State) (x2) (x3) : (rput x1 x2 x3).ports = x1.ports :=
  rput_keeps ((closed_ports x1).sub (K' := 0x10) (by decide)) x1 x2 x3 rfl
@[simp] theorem rput_accesses (x1 : State) (x2) (x3) : (rput x1 x2 x3).accesses = x1.accesses :=
  rput_keeps ((closed_accesses x1).sub (K' := 0x10) (by decide)) x1 x2 x3 rfl
@[simp] theorem rput_accessTag (x1 : State) (x2) (x3) : (rput x1 x2 x3).accessTag = x1.accessTag :=
  rput_keeps ((closed_accessTag x1).sub (K' := 0x10) (by decide)) x1 x2 x3 rfl
@[simp] theorem rput_fabs (x1 : State) (x2) (x3) : (rput x1 x2 x3).fabs = x1.fabs :=
  rput_keeps ((closed_fabs x1).sub (K' := 0x10) (by decide)) x1 x2 x3 rfl
@[simp] theorem rput_mem (x1 : State) (x2) (x3) : (rput x1 x2 x3).mem = x1.mem :=
  rput_keeps ((closed_mem x1).sub (K' := 0x10) (by decide)) x1 x2 x3 rfl
@[simp] theorem rput_eye (x1 : State) (x2) (x3) : (rput x1 x2 x3).eye = x1.eye :=
  rput_keeps ((closed_eye x1).sub (K' := 0x10) (by decide)) x1 x2 x3 rfl
@[simp] theorem rput_isp (x1 : State) (x2) (x3) : (rput x1 x2 x3).isp = x1.isp :=
  rput_keeps ((closed_isp x1).sub (K' := 0x10) (by decide)) x1 x2 x3 rfl
@[simp] theorem rput_comp (x1 : State) (x2) (x3) : (rput x1 x2 x3).comp = x1.comp :=
  rput_keeps ((closed_comp x1).sub (K' := 0x10) (by decide)) x1 x2 x3 rfl
@[simp] theorem rput_det (x1 : State) (x2) (x3) : (rput x1 x2 x3).det = x1.det :=
  rput_keeps ((closed_det x1).sub (K' := 0x10) (by decide)) x1 x2 x3 rfl
@[simp] theorem rput_guard (x1 : State) (x2) (x3) : (rput x1 x2 x3).guard = x1.guard :=
  rput_keeps ((closed_guard x1).sub (K' := 0x10) (by decide)) x1 x2 x3 rfl
@[simp] theorem rput_hv (x1 : State) (x2) (x3) : (rput x1 x2 x3).hv = x1.hv :=
  rput_keeps ((closed_hv x1).sub (K' := 0x10) (by decide)) x1 x2 x3 rfl
@[simp] theorem rput_net (x1 : State) (x2) (x3) : (rput x1 x2 x3).net = x1.net :=
  rput_keeps ((closed_net x1).sub (K' := 0x10) (by decide)) x1 x2 x3 rfl
@[simp] theorem rput_bcp (x1 : State) (x2) (x3) : (rput x1 x2 x3).bcp = x1.bcp :=
  rput_keeps ((closed_bcp x1).sub (K' := 0x10) (by decide)) x1 x2 x3 rfl
@[simp] theorem rput_stage (x1 : State) (x2) (x3) : (rput x1 x2 x3).stage = x1.stage :=
  rput_keeps ((closed_stage x1).sub (K' := 0x10) (by decide)) x1 x2 x3 rfl
@[simp] theorem rput_sw (x1 : State) (x2) (x3) : (rput x1 x2 x3).sw = x1.sw :=
  rput_keeps ((closed_sw x1).sub (K' := 0x10) (by decide)) x1 x2 x3 rfl
@[simp] theorem rput_recs (x1 : State) (x2) (x3) : (rput x1 x2 x3).recs = x1.recs :=
  rput_keeps ((closed_recs x1).sub (K' := 0x10) (by decide)) x1 x2 x3 rfl
@[simp] theorem rput_peers (x1 : State) (x2) (x3) : (rput x1 x2 x3).peers = x1.peers :=
  rput_keeps ((closed_peers x1).sub (K' := 0x10) (by decide)) x1 x2 x3 rfl
@[simp] theorem rput_lst (x1 : State) (x2) (x3) : (rput x1 x2 x3).lst = x1.lst :=
  rput_keeps ((closed_lst x1).sub (K' := 0x10) (by decide)) x1 x2 x3 rfl
@[simp] theorem rput_hk (x1 : State) (x2) (x3) : (rput x1 x2 x3).hk = x1.hk :=
  rput_keeps ((closed_hk x1).sub (K' := 0x10) (by decide)) x1 x2 x3 rfl
@[simp] theorem rput_fo (x1 : State) (x2) (x3) : (rput x1 x2 x3).fo = x1.fo :=
  rput_keeps ((closed_fo x1).sub (K' := 0x10) (by decide)) x1 x2 x3 rfl
@[simp] theorem rput_tamper (x1 : State) (x2) (x3) : (rput x1 x2 x3).tamper = x1.tamper :=
  rput_keeps ((closed_tamper x1).sub (K' := 0x10) (by decide)) x1 x2 x3 rfl
@[simp] theorem rput_bus (x1 : State) (x2) (x3) : (rput x1 x2 x3).bus = x1.bus :=
  rput_keeps ((closed_bus x1).sub (K' := 0x10) (by decide)) x1 x2 x3 rfl
@[simp] theorem rput_cv (x1 : State) (x2) (x3) : (rput x1 x2 x3).cv = x1.cv :=
  rput_keeps ((closed_cv x1).sub (K' := 0x10) (by decide)) x1 x2 x3 rfl
@[simp] theorem rput_log (x1 : State) (x2) (x3) : (rput x1 x2 x3).log = x1.log :=
  rput_keeps ((closed_log x1).sub (K' := 0x10) (by decide)) x1 x2 x3 rfl
@[simp] theorem rput_outboxes (x1 : State) (x2) (x3) : (rput x1 x2 x3).outboxes = x1.outboxes :=
  rput_keeps ((closed_outboxes x1).sub (K' := 0x10) (by decide)) x1 x2 x3 rfl
@[simp] theorem rput_power (x1 : State) (x2) (x3) : (rput x1 x2 x3).power = x1.power :=
  rput_keeps ((closed_power x1).sub (K' := 0x10) (by decide)) x1 x2 x3 rfl

@[simp] theorem rclear_pending (x1 : State) (x2) (x3) : (rclear x1 x2 x3).pending = x1.pending :=
  rclear_keeps ((closed_pending x1).sub (K' := 0x30) (by decide)) x1 x2 x3 rfl
@[simp] theorem rclear_part (x1 : State) (x2) (x3) : (rclear x1 x2 x3).part = x1.part :=
  rclear_keeps ((closed_part x1).sub (K' := 0x30) (by decide)) x1 x2 x3 rfl
@[simp] theorem rclear_now (x1 : State) (x2) (x3) : (rclear x1 x2 x3).now = x1.now :=
  rclear_keeps ((closed_now x1).sub (K' := 0x30) (by decide)) x1 x2 x3 rfl
@[simp] theorem rclear_freeIdx (x1 : State) (x2) (x3) : (rclear x1 x2 x3).freeIdx = x1.freeIdx :=
  rclear_keeps ((closed_freeIdx x1).sub (K' := 0x30) (by decide)) x1 x2 x3 rfl
@[simp] theorem rclear_loRead (x1 : State) (x2) (x3) : (rclear x1 x2 x3).loRead = x1.loRead :=
  rclear_keeps ((closed_loRead x1).sub (K' := 0x30) (by decide)) x1 x2 x3 rfl
@[simp] theorem rclear_loStaged (x1 : State) (x2) (x3) : (rclear x1 x2 x3).loStaged = x1.loStaged :=
  rclear_keeps ((closed_loStaged x1).sub (K' := 0x30) (by decide)) x1 x2 x3 rfl
@[simp] theorem rclear_logRd (x1 : State) (x2) (x3) : (rclear x1 x2 x3).logRd = x1.logRd :=
  rclear_keeps ((closed_logRd x1).sub (K' := 0x30) (by decide)) x1 x2 x3 rfl
@[simp] theorem rclear_out (x1 : State) (x2) (x3) : (rclear x1 x2 x3).out = x1.out :=
  rclear_keeps ((closed_out x1).sub (K' := 0x30) (by decide)) x1 x2 x3 rfl
@[simp] theorem rclear_tb (x1 : State) (x2) (x3) : (rclear x1 x2 x3).tb = x1.tb :=
  rclear_keeps ((closed_tb x1).sub (K' := 0x30) (by decide)) x1 x2 x3 rfl
@[simp] theorem rclear_seqr (x1 : State) (x2) (x3) : (rclear x1 x2 x3).seqr = x1.seqr :=
  rclear_keeps ((closed_seqr x1).sub (K' := 0x30) (by decide)) x1 x2 x3 rfl
@[simp] theorem rclear_dies (x1 : State) (x2) (x3) : (rclear x1 x2 x3).dies = x1.dies :=
  rclear_keeps ((closed_dies x1).sub (K' := 0x30) (by decide)) x1 x2 x3 rfl
@[simp] theorem rclear_ledgers (x1 : State) (x2) (x3) : (rclear x1 x2 x3).ledgers = x1.ledgers :=
  rclear_keeps ((closed_ledgers x1).sub (K' := 0x30) (by decide)) x1 x2 x3 rfl
@[simp] theorem rclear_boot (x1 : State) (x2) (x3) : (rclear x1 x2 x3).boot = x1.boot :=
  rclear_keeps ((closed_boot x1).sub (K' := 0x30) (by decide)) x1 x2 x3 rfl
@[simp] theorem rclear_flash (x1 : State) (x2) (x3) : (rclear x1 x2 x3).flash = x1.flash :=
  rclear_keeps ((closed_flash x1).sub (K' := 0x30) (by decide)) x1 x2 x3 rfl
@[simp] theorem rclear_img (x1 : State) (x2) (x3) : (rclear x1 x2 x3).img = x1.img :=
  rclear_keeps ((closed_img x1).sub (K' := 0x30) (by decide)) x1 x2 x3 rfl
@[simp] theorem rclear_otp (x1 : State) (x2) (x3) : (rclear x1 x2 x3).otp = x1.otp :=
  rclear_keeps ((closed_otp x1).sub (K' := 0x30) (by decide)) x1 x2 x3 rfl
@[simp] theorem rclear_ports (x1 : State) (x2) (x3) : (rclear x1 x2 x3).ports = x1.ports :=
  rclear_keeps ((closed_ports x1).sub (K' := 0x30) (by decide)) x1 x2 x3 rfl
@[simp] theorem rclear_accesses (x1 : State) (x2) (x3) : (rclear x1 x2 x3).accesses = x1.accesses :=
  rclear_keeps ((closed_accesses x1).sub (K' := 0x30) (by decide)) x1 x2 x3 rfl
@[simp] theorem rclear_accessTag (x1 : State) (x2) (x3) : (rclear x1 x2 x3).accessTag = x1.accessTag :=
  rclear_keeps ((closed_accessTag x1).sub (K' := 0x30) (by decide)) x1 x2 x3 rfl
@[simp] theorem rclear_fabs (x1 : State) (x2) (x3) : (rclear x1 x2 x3).fabs = x1.fabs :=
  rclear_keeps ((closed_fabs x1).sub (K' := 0x30) (by decide)) x1 x2 x3 rfl
@[simp] theorem rclear_mem (x1 : State) (x2) (x3) : (rclear x1 x2 x3).mem = x1.mem :=
  rclear_keeps ((closed_mem x1).sub (K' := 0x30) (by decide)) x1 x2 x3 rfl
@[simp] theorem rclear_eye (x1 : State) (x2) (x3) : (rclear x1 x2 x3).eye = x1.eye :=
  rclear_keeps ((closed_eye x1).sub (K' := 0x30) (by decide)) x1 x2 x3 rfl
@[simp] theorem rclear_isp (x1 : State) (x2) (x3) : (rclear x1 x2 x3).isp = x1.isp :=
  rclear_keeps ((closed_isp x1).sub (K' := 0x30) (by decide)) x1 x2 x3 rfl
@[simp] theorem rclear_comp (x1 : State) (x2) (x3) : (rclear x1 x2 x3).comp = x1.comp :=
  rclear_keeps ((closed_comp x1).sub (K' := 0x30) (by decide)) x1 x2 x3 rfl
@[simp] theorem rclear_det (x1 : State) (x2) (x3) : (rclear x1 x2 x3).det = x1.det :=
  rclear_keeps ((closed_det x1).sub (K' := 0x30) (by decide)) x1 x2 x3 rfl
@[simp] theorem rclear_guard (x1 : State) (x2) (x3) : (rclear x1 x2 x3).guard = x1.guard :=
  rclear_keeps ((closed_guard x1).sub (K' := 0x30) (by decide)) x1 x2 x3 rfl
@[simp] theorem rclear_hv (x1 : State) (x2) (x3) : (rclear x1 x2 x3).hv = x1.hv :=
  rclear_keeps ((closed_hv x1).sub (K' := 0x30) (by decide)) x1 x2 x3 rfl
@[simp] theorem rclear_net (x1 : State) (x2) (x3) : (rclear x1 x2 x3).net = x1.net :=
  rclear_keeps ((closed_net x1).sub (K' := 0x30) (by decide)) x1 x2 x3 rfl
@[simp] theorem rclear_bcp (x1 : State) (x2) (x3) : (rclear x1 x2 x3).bcp = x1.bcp :=
  rclear_keeps ((closed_bcp x1).sub (K' := 0x30) (by decide)) x1 x2 x3 rfl
@[simp] theorem rclear_stage (x1 : State) (x2) (x3) : (rclear x1 x2 x3).stage = x1.stage :=
  rclear_keeps ((closed_stage x1).sub (K' := 0x30) (by decide)) x1 x2 x3 rfl
@[simp] theorem rclear_sw (x1 : State) (x2) (x3) : (rclear x1 x2 x3).sw = x1.sw :=
  rclear_keeps ((closed_sw x1).sub (K' := 0x30) (by decide)) x1 x2 x3 rfl
@[simp] theorem rclear_recs (x1 : State) (x2) (x3) : (rclear x1 x2 x3).recs = x1.recs :=
  rclear_keeps ((closed_recs x1).sub (K' := 0x30) (by decide)) x1 x2 x3 rfl
@[simp] theorem rclear_peers (x1 : State) (x2) (x3) : (rclear x1 x2 x3).peers = x1.peers :=
  rclear_keeps ((closed_peers x1).sub (K' := 0x30) (by decide)) x1 x2 x3 rfl
@[simp] theorem rclear_lst (x1 : State) (x2) (x3) : (rclear x1 x2 x3).lst = x1.lst :=
  rclear_keeps ((closed_lst x1).sub (K' := 0x30) (by decide)) x1 x2 x3 rfl
@[simp] theorem rclear_hk (x1 : State) (x2) (x3) : (rclear x1 x2 x3).hk = x1.hk :=
  rclear_keeps ((closed_hk x1).sub (K' := 0x30) (by decide)) x1 x2 x3 rfl
@[simp] theorem rclear_fo (x1 : State) (x2) (x3) : (rclear x1 x2 x3).fo = x1.fo :=
  rclear_keeps ((closed_fo x1).sub (K' := 0x30) (by decide)) x1 x2 x3 rfl
@[simp] theorem rclear_tamper (x1 : State) (x2) (x3) : (rclear x1 x2 x3).tamper = x1.tamper :=
  rclear_keeps ((closed_tamper x1).sub (K' := 0x30) (by decide)) x1 x2 x3 rfl
@[simp] theorem rclear_bus (x1 : State) (x2) (x3) : (rclear x1 x2 x3).bus = x1.bus :=
  rclear_keeps ((closed_bus x1).sub (K' := 0x30) (by decide)) x1 x2 x3 rfl
@[simp] theorem rclear_cv (x1 : State) (x2) (x3) : (rclear x1 x2 x3).cv = x1.cv :=
  rclear_keeps ((closed_cv x1).sub (K' := 0x30) (by decide)) x1 x2 x3 rfl
@[simp] theorem rclear_log (x1 : State) (x2) (x3) : (rclear x1 x2 x3).log = x1.log :=
  rclear_keeps ((closed_log x1).sub (K' := 0x30) (by decide)) x1 x2 x3 rfl
@[simp] theorem rclear_outboxes (x1 : State) (x2) (x3) : (rclear x1 x2 x3).outboxes = x1.outboxes :=
  rclear_keeps ((closed_outboxes x1).sub (K' := 0x30) (by decide)) x1 x2 x3 rfl
@[simp] theorem rclear_power (x1 : State) (x2) (x3) : (rclear x1 x2 x3).power = x1.power :=
  rclear_keeps ((closed_power x1).sub (K' := 0x30) (by decide)) x1 x2 x3 rfl

@[simp] theorem raise_pending (x1 : State) (x2) (x3) (x4) (x5) (x6) : (raise x1 x2 x3 x4 x5 x6).pending = x1.pending :=
  raise_keeps ((closed_pending x1).sub (K' := 0x20200000000) (by decide)) x1 x2 x3 x4 x5 x6 rfl
@[simp] theorem raise_part (x1 : State) (x2) (x3) (x4) (x5) (x6) : (raise x1 x2 x3 x4 x5 x6).part = x1.part :=
  raise_keeps ((closed_part x1).sub (K' := 0x20200000000) (by decide)) x1 x2 x3 x4 x5 x6 rfl
@[simp] theorem raise_now (x1 : State) (x2) (x3) (x4) (x5) (x6) : (raise x1 x2 x3 x4 x5 x6).now = x1.now :=
  raise_keeps ((closed_now x1).sub (K' := 0x20200000000) (by decide)) x1 x2 x3 x4 x5 x6 rfl
@[simp] theorem raise_freeIdx (x1 : State) (x2) (x3) (x4) (x5) (x6) : (raise x1 x2 x3 x4 x5 x6).freeIdx = x1.freeIdx :=
  raise_keeps ((closed_freeIdx x1).sub (K' := 0x20200000000) (by decide)) x1 x2 x3 x4 x5 x6 rfl
@[simp] theorem raise_regs (x1 : State) (x2) (x3) (x4) (x5) (x6) : (raise x1 x2 x3 x4 x5 x6).regs = x1.regs :=
  raise_keeps ((closed_regs x1).sub (K' := 0x20200000000) (by decide)) x1 x2 x3 x4 x5 x6 rfl
@[simp] theorem raise_shadow (x1 : State) (x2) (x3) (x4) (x5) (x6) : (raise x1 x2 x3 x4 x5 x6).shadow = x1.shadow :=
  raise_keeps ((closed_shadow x1).sub (K' := 0x20200000000) (by decide)) x1 x2 x3 x4 x5 x6 rfl
@[simp] theorem raise_loRead (x1 : State) (x2) (x3) (x4) (x5) (x6) : (raise x1 x2 x3 x4 x5 x6).loRead = x1.loRead :=
  raise_keeps ((closed_loRead x1).sub (K' := 0x20200000000) (by decide)) x1 x2 x3 x4 x5 x6 rfl
@[simp] theorem raise_loStaged (x1 : State) (x2) (x3) (x4) (x5) (x6) : (raise x1 x2 x3 x4 x5 x6).loStaged = x1.loStaged :=
  raise_keeps ((closed_loStaged x1).sub (K' := 0x20200000000) (by decide)) x1 x2 x3 x4 x5 x6 rfl
@[simp] theorem raise_logRd (x1 : State) (x2) (x3) (x4) (x5) (x6) : (raise x1 x2 x3 x4 x5 x6).logRd = x1.logRd :=
  raise_keeps ((closed_logRd x1).sub (K' := 0x20200000000) (by decide)) x1 x2 x3 x4 x5 x6 rfl
@[simp] theorem raise_out (x1 : State) (x2) (x3) (x4) (x5) (x6) : (raise x1 x2 x3 x4 x5 x6).out = x1.out :=
  raise_keeps ((closed_out x1).sub (K' := 0x20200000000) (by decide)) x1 x2 x3 x4 x5 x6 rfl
@[simp] theorem raise_tb (x1 : State) (x2) (x3) (x4) (x5) (x6) : (raise x1 x2 x3 x4 x5 x6).tb = x1.tb :=
  raise_keeps ((closed_tb x1).sub (K' := 0x20200000000) (by decide)) x1 x2 x3 x4 x5 x6 rfl
@[simp] theorem raise_seqr (x1 : State) (x2) (x3) (x4) (x5) (x6) : (raise x1 x2 x3 x4 x5 x6).seqr = x1.seqr :=
  raise_keeps ((closed_seqr x1).sub (K' := 0x20200000000) (by decide)) x1 x2 x3 x4 x5 x6 rfl
@[simp] theorem raise_dies (x1 : State) (x2) (x3) (x4) (x5) (x6) : (raise x1 x2 x3 x4 x5 x6).dies = x1.dies :=
  raise_keeps ((closed_dies x1).sub (K' := 0x20200000000) (by decide)) x1 x2 x3 x4 x5 x6 rfl
@[simp] theorem raise_ledgers (x1 : State) (x2) (x3) (x4) (x5) (x6) : (raise x1 x2 x3 x4 x5 x6).ledgers = x1.ledgers :=
  raise_keeps ((closed_ledgers x1).sub (K' := 0x20200000000) (by decide)) x1 x2 x3 x4 x5 x6 rfl
@[simp] theorem raise_boot (x1 : State) (x2) (x3) (x4) (x5) (x6) : (raise x1 x2 x3 x4 x5 x6).boot = x1.boot :=
  raise_keeps ((closed_boot x1).sub (K' := 0x20200000000) (by decide)) x1 x2 x3 x4 x5 x6 rfl
@[simp] theorem raise_flash (x1 : State) (x2) (x3) (x4) (x5) (x6) : (raise x1 x2 x3 x4 x5 x6).flash = x1.flash :=
  raise_keeps ((closed_flash x1).sub (K' := 0x20200000000) (by decide)) x1 x2 x3 x4 x5 x6 rfl
@[simp] theorem raise_img (x1 : State) (x2) (x3) (x4) (x5) (x6) : (raise x1 x2 x3 x4 x5 x6).img = x1.img :=
  raise_keeps ((closed_img x1).sub (K' := 0x20200000000) (by decide)) x1 x2 x3 x4 x5 x6 rfl
@[simp] theorem raise_otp (x1 : State) (x2) (x3) (x4) (x5) (x6) : (raise x1 x2 x3 x4 x5 x6).otp = x1.otp :=
  raise_keeps ((closed_otp x1).sub (K' := 0x20200000000) (by decide)) x1 x2 x3 x4 x5 x6 rfl
@[simp] theorem raise_ports (x1 : State) (x2) (x3) (x4) (x5) (x6) : (raise x1 x2 x3 x4 x5 x6).ports = x1.ports :=
  raise_keeps ((closed_ports x1).sub (K' := 0x20200000000) (by decide)) x1 x2 x3 x4 x5 x6 rfl
@[simp] theorem raise_accesses (x1 : State) (x2) (x3) (x4) (x5) (x6) : (raise x1 x2 x3 x4 x5 x6).accesses = x1.accesses :=
  raise_keeps ((closed_accesses x1).sub (K' := 0x20200000000) (by decide)) x1 x2 x3 x4 x5 x6 rfl
@[simp] theorem raise_accessTag (x1 : State) (x2) (x3) (x4) (x5) (x6) : (raise x1 x2 x3 x4 x5 x6).accessTag = x1.accessTag :=
  raise_keeps ((closed_accessTag x1).sub (K' := 0x20200000000) (by decide)) x1 x2 x3 x4 x5 x6 rfl
@[simp] theorem raise_fabs (x1 : State) (x2) (x3) (x4) (x5) (x6) : (raise x1 x2 x3 x4 x5 x6).fabs = x1.fabs :=
  raise_keeps ((closed_fabs x1).sub (K' := 0x20200000000) (by decide)) x1 x2 x3 x4 x5 x6 rfl
@[simp] theorem raise_mem (x1 : State) (x2) (x3) (x4) (x5) (x6) : (raise x1 x2 x3 x4 x5 x6).mem = x1.mem :=
  raise_keeps ((closed_mem x1).sub (K' := 0x20200000000) (by decide)) x1 x2 x3 x4 x5 x6 rfl
@[simp] theorem raise_eye (x1 : State) (x2) (x3) (x4) (x5) (x6) : (raise x1 x2 x3 x4 x5 x6).eye = x1.eye :=
  raise_keeps ((closed_eye x1).sub (K' := 0x20200000000) (by decide)) x1 x2 x3 x4 x5 x6 rfl
@[simp] theorem raise_isp (x1 : State) (x2) (x3) (x4) (x5) (x6) : (raise x1 x2 x3 x4 x5 x6).isp = x1.isp :=
  raise_keeps ((closed_isp x1).sub (K' := 0x20200000000) (by decide)) x1 x2 x3 x4 x5 x6 rfl
@[simp] theorem raise_comp (x1 : State) (x2) (x3) (x4) (x5) (x6) : (raise x1 x2 x3 x4 x5 x6).comp = x1.comp :=
  raise_keeps ((closed_comp x1).sub (K' := 0x20200000000) (by decide)) x1 x2 x3 x4 x5 x6 rfl
@[simp] theorem raise_det (x1 : State) (x2) (x3) (x4) (x5) (x6) : (raise x1 x2 x3 x4 x5 x6).det = x1.det :=
  raise_keeps ((closed_det x1).sub (K' := 0x20200000000) (by decide)) x1 x2 x3 x4 x5 x6 rfl
@[simp] theorem raise_guard (x1 : State) (x2) (x3) (x4) (x5) (x6) : (raise x1 x2 x3 x4 x5 x6).guard = x1.guard :=
  raise_keeps ((closed_guard x1).sub (K' := 0x20200000000) (by decide)) x1 x2 x3 x4 x5 x6 rfl
@[simp] theorem raise_hv (x1 : State) (x2) (x3) (x4) (x5) (x6) : (raise x1 x2 x3 x4 x5 x6).hv = x1.hv :=
  raise_keeps ((closed_hv x1).sub (K' := 0x20200000000) (by decide)) x1 x2 x3 x4 x5 x6 rfl
@[simp] theorem raise_net (x1 : State) (x2) (x3) (x4) (x5) (x6) : (raise x1 x2 x3 x4 x5 x6).net = x1.net :=
  raise_keeps ((closed_net x1).sub (K' := 0x20200000000) (by decide)) x1 x2 x3 x4 x5 x6 rfl
@[simp] theorem raise_bcp (x1 : State) (x2) (x3) (x4) (x5) (x6) : (raise x1 x2 x3 x4 x5 x6).bcp = x1.bcp :=
  raise_keeps ((closed_bcp x1).sub (K' := 0x20200000000) (by decide)) x1 x2 x3 x4 x5 x6 rfl
@[simp] theorem raise_stage (x1 : State) (x2) (x3) (x4) (x5) (x6) : (raise x1 x2 x3 x4 x5 x6).stage = x1.stage :=
  raise_keeps ((closed_stage x1).sub (K' := 0x20200000000) (by decide)) x1 x2 x3 x4 x5 x6 rfl
@[simp] theorem raise_sw (x1 : State) (x2) (x3) (x4) (x5) (x6) : (raise x1 x2 x3 x4 x5 x6).sw = x1.sw :=
  raise_keeps ((closed_sw x1).sub (K' := 0x20200000000) (by decide)) x1 x2 x3 x4 x5 x6 rfl
@[simp] theorem raise_peers (x1 : State) (x2) (x3) (x4) (x5) (x6) : (raise x1 x2 x3 x4 x5 x6).peers = x1.peers :=
  raise_keeps ((closed_peers x1).sub (K' := 0x20200000000) (by decide)) x1 x2 x3 x4 x5 x6 rfl
@[simp] theorem raise_lst (x1 : State) (x2) (x3) (x4) (x5) (x6) : (raise x1 x2 x3 x4 x5 x6).lst = x1.lst :=
  raise_keeps ((closed_lst x1).sub (K' := 0x20200000000) (by decide)) x1 x2 x3 x4 x5 x6 rfl
@[simp] theorem raise_hk (x1 : State) (x2) (x3) (x4) (x5) (x6) : (raise x1 x2 x3 x4 x5 x6).hk = x1.hk :=
  raise_keeps ((closed_hk x1).sub (K' := 0x20200000000) (by decide)) x1 x2 x3 x4 x5 x6 rfl
@[simp] theorem raise_fo (x1 : State) (x2) (x3) (x4) (x5) (x6) : (raise x1 x2 x3 x4 x5 x6).fo = x1.fo :=
  raise_keeps ((closed_fo x1).sub (K' := 0x20200000000) (by decide)) x1 x2 x3 x4 x5 x6 rfl
@[simp] theorem raise_tamper (x1 : State) (x2) (x3) (x4) (x5) (x6) : (raise x1 x2 x3 x4 x5 x6).tamper = x1.tamper :=
  raise_keeps ((closed_tamper x1).sub (K' := 0x20200000000) (by decide)) x1 x2 x3 x4 x5 x6 rfl
@[simp] theorem raise_bus (x1 : State) (x2) (x3) (x4) (x5) (x6) : (raise x1 x2 x3 x4 x5 x6).bus = x1.bus :=
  raise_keeps ((closed_bus x1).sub (K' := 0x20200000000) (by decide)) x1 x2 x3 x4 x5 x6 rfl
@[simp] theorem raise_cv (x1 : State) (x2) (x3) (x4) (x5) (x6) : (raise x1 x2 x3 x4 x5 x6).cv = x1.cv :=
  raise_keeps ((closed_cv x1).sub (K' := 0x20200000000) (by decide)) x1 x2 x3 x4 x5 x6 rfl
@[simp] theorem raise_outboxes (x1 : State) (x2) (x3) (x4) (x5) (x6) : (raise x1 x2 x3 x4 x5 x6).outboxes = x1.outboxes :=
  raise_keeps ((closed_outboxes x1).sub (K' := 0x20200000000) (by decide)) x1 x2 x3 x4 x5 x6 rfl
@[simp] theorem raise_power (x1 : State) (x2) (x3) (x4) (x5) (x6) : (raise x1 x2 x3 x4 x5 x6).power = x1.power :=
  raise_keeps ((closed_power x1).sub (K' := 0x20200000000) (by decide)) x1 x2 x3 x4 x5 x6 rfl

@[simp] theorem raiseOn_pending (x1 : State) (x2) (x3) (x4) (x5) (x6) (x7) : (raiseOn x1 x2 x3 x4 x5 x6 x7).pending = x1.pending :=
  raiseOn_keeps ((closed_pending x1).sub (K' := 0x60200000000) (by decide)) x1 x2 x3 x4 x5 x6 x7 rfl
@[simp] theorem raiseOn_part (x1 : State) (x2) (x3) (x4) (x5) (x6) (x7) : (raiseOn x1 x2 x3 x4 x5 x6 x7).part = x1.part :=
  raiseOn_keeps ((closed_part x1).sub (K' := 0x60200000000) (by decide)) x1 x2 x3 x4 x5 x6 x7 rfl
@[simp] theorem raiseOn_now (x1 : State) (x2) (x3) (x4) (x5) (x6) (x7) : (raiseOn x1 x2 x3 x4 x5 x6 x7).now = x1.now :=
  raiseOn_keeps ((closed_now x1).sub (K' := 0x60200000000) (by decide)) x1 x2 x3 x4 x5 x6 x7 rfl
@[simp] theorem raiseOn_freeIdx (x1 : State) (x2) (x3) (x4) (x5) (x6) (x7) : (raiseOn x1 x2 x3 x4 x5 x6 x7).freeIdx = x1.freeIdx :=
  raiseOn_keeps ((closed_freeIdx x1).sub (K' := 0x60200000000) (by decide)) x1 x2 x3 x4 x5 x6 x7 rfl
@[simp] theorem raiseOn_regs (x1 : State) (x2) (x3) (x4) (x5) (x6) (x7) : (raiseOn x1 x2 x3 x4 x5 x6 x7).regs = x1.regs :=
  raiseOn_keeps ((closed_regs x1).sub (K' := 0x60200000000) (by decide)) x1 x2 x3 x4 x5 x6 x7 rfl
@[simp] theorem raiseOn_shadow (x1 : State) (x2) (x3) (x4) (x5) (x6) (x7) : (raiseOn x1 x2 x3 x4 x5 x6 x7).shadow = x1.shadow :=
  raiseOn_keeps ((closed_shadow x1).sub (K' := 0x60200000000) (by decide)) x1 x2 x3 x4 x5 x6 x7 rfl
@[simp] theorem raiseOn_loRead (x1 : State) (x2) (x3) (x4) (x5) (x6) (x7) : (raiseOn x1 x2 x3 x4 x5 x6 x7).loRead = x1.loRead :=
  raiseOn_keeps ((closed_loRead x1).sub (K' := 0x60200000000) (by decide)) x1 x2 x3 x4 x5 x6 x7 rfl
@[simp] theorem raiseOn_loStaged (x1 : State) (x2) (x3) (x4) (x5) (x6) (x7) : (raiseOn x1 x2 x3 x4 x5 x6 x7).loStaged = x1.loStaged :=
  raiseOn_keeps ((closed_loStaged x1).sub (K' := 0x60200000000) (by decide)) x1 x2 x3 x4 x5 x6 x7 rfl
@[simp] theorem raiseOn_logRd (x1 : State) (x2) (x3) (x4) (x5) (x6) (x7) : (raiseOn x1 x2 x3 x4 x5 x6 x7).logRd = x1.logRd :=
  raiseOn_keeps ((closed_logRd x1).sub (K' := 0x60200000000) (by decide)) x1 x2 x3 x4 x5 x6 x7 rfl
@[simp] theorem raiseOn_out (x1 : State) (x2) (x3) (x4) (x5) (x6) (x7) : (raiseOn x1 x2 x3 x4 x5 x6 x7).out = x1.out :=
  raiseOn_keeps ((closed_out x1).sub (K' := 0x60200000000) (by decide)) x1 x2 x3 x4 x5 x6 x7 rfl
@[simp] theorem raiseOn_tb (x1 : State) (x2) (x3) (x4) (x5) (x6) (x7) : (raiseOn x1 x2 x3 x4 x5 x6 x7).tb = x1.tb :=
  raiseOn_keeps ((closed_tb x1).sub (K' := 0x60200000000) (by decide)) x1 x2 x3 x4 x5 x6 x7 rfl
@[simp] theorem raiseOn_seqr (x1 : State) (x2) (x3) (x4) (x5) (x6) (x7) : (raiseOn x1 x2 x3 x4 x5 x6 x7).seqr = x1.seqr :=
  raiseOn_keeps ((closed_seqr x1).sub (K' := 0x60200000000) (by decide)) x1 x2 x3 x4 x5 x6 x7 rfl
@[simp] theorem raiseOn_dies (x1 : State) (x2) (x3) (x4) (x5) (x6) (x7) : (raiseOn x1 x2 x3 x4 x5 x6 x7).dies = x1.dies :=
  raiseOn_keeps ((closed_dies x1).sub (K' := 0x60200000000) (by decide)) x1 x2 x3 x4 x5 x6 x7 rfl
@[simp] theorem raiseOn_ledgers (x1 : State) (x2) (x3) (x4) (x5) (x6) (x7) : (raiseOn x1 x2 x3 x4 x5 x6 x7).ledgers = x1.ledgers :=
  raiseOn_keeps ((closed_ledgers x1).sub (K' := 0x60200000000) (by decide)) x1 x2 x3 x4 x5 x6 x7 rfl
@[simp] theorem raiseOn_boot (x1 : State) (x2) (x3) (x4) (x5) (x6) (x7) : (raiseOn x1 x2 x3 x4 x5 x6 x7).boot = x1.boot :=
  raiseOn_keeps ((closed_boot x1).sub (K' := 0x60200000000) (by decide)) x1 x2 x3 x4 x5 x6 x7 rfl
@[simp] theorem raiseOn_flash (x1 : State) (x2) (x3) (x4) (x5) (x6) (x7) : (raiseOn x1 x2 x3 x4 x5 x6 x7).flash = x1.flash :=
  raiseOn_keeps ((closed_flash x1).sub (K' := 0x60200000000) (by decide)) x1 x2 x3 x4 x5 x6 x7 rfl
@[simp] theorem raiseOn_img (x1 : State) (x2) (x3) (x4) (x5) (x6) (x7) : (raiseOn x1 x2 x3 x4 x5 x6 x7).img = x1.img :=
  raiseOn_keeps ((closed_img x1).sub (K' := 0x60200000000) (by decide)) x1 x2 x3 x4 x5 x6 x7 rfl
@[simp] theorem raiseOn_otp (x1 : State) (x2) (x3) (x4) (x5) (x6) (x7) : (raiseOn x1 x2 x3 x4 x5 x6 x7).otp = x1.otp :=
  raiseOn_keeps ((closed_otp x1).sub (K' := 0x60200000000) (by decide)) x1 x2 x3 x4 x5 x6 x7 rfl
@[simp] theorem raiseOn_ports (x1 : State) (x2) (x3) (x4) (x5) (x6) (x7) : (raiseOn x1 x2 x3 x4 x5 x6 x7).ports = x1.ports :=
  raiseOn_keeps ((closed_ports x1).sub (K' := 0x60200000000) (by decide)) x1 x2 x3 x4 x5 x6 x7 rfl
@[simp] theorem raiseOn_accesses (x1 : State) (x2) (x3) (x4) (x5) (x6) (x7) : (raiseOn x1 x2 x3 x4 x5 x6 x7).accesses = x1.accesses :=
  raiseOn_keeps ((closed_accesses x1).sub (K' := 0x60200000000) (by decide)) x1 x2 x3 x4 x5 x6 x7 rfl
@[simp] theorem raiseOn_accessTag (x1 : State) (x2) (x3) (x4) (x5) (x6) (x7) : (raiseOn x1 x2 x3 x4 x5 x6 x7).accessTag = x1.accessTag :=
  raiseOn_keeps ((closed_accessTag x1).sub (K' := 0x60200000000) (by decide)) x1 x2 x3 x4 x5 x6 x7 rfl
@[simp] theorem raiseOn_fabs (x1 : State) (x2) (x3) (x4) (x5) (x6) (x7) : (raiseOn x1 x2 x3 x4 x5 x6 x7).fabs = x1.fabs :=
  raiseOn_keeps ((closed_fabs x1).sub (K' := 0x60200000000) (by decide)) x1 x2 x3 x4 x5 x6 x7 rfl
@[simp] theorem raiseOn_mem (x1 : State) (x2) (x3) (x4) (x5) (x6) (x7) : (raiseOn x1 x2 x3 x4 x5 x6 x7).mem = x1.mem :=
  raiseOn_keeps ((closed_mem x1).sub (K' := 0x60200000000) (by decide)) x1 x2 x3 x4 x5 x6 x7 rfl
@[simp] theorem raiseOn_eye (x1 : State) (x2) (x3) (x4) (x5) (x6) (x7) : (raiseOn x1 x2 x3 x4 x5 x6 x7).eye = x1.eye :=
  raiseOn_keeps ((closed_eye x1).sub (K' := 0x60200000000) (by decide)) x1 x2 x3 x4 x5 x6 x7 rfl
@[simp] theorem raiseOn_isp (x1 : State) (x2) (x3) (x4) (x5) (x6) (x7) : (raiseOn x1 x2 x3 x4 x5 x6 x7).isp = x1.isp :=
  raiseOn_keeps ((closed_isp x1).sub (K' := 0x60200000000) (by decide)) x1 x2 x3 x4 x5 x6 x7 rfl
@[simp] theorem raiseOn_comp (x1 : State) (x2) (x3) (x4) (x5) (x6) (x7) : (raiseOn x1 x2 x3 x4 x5 x6 x7).comp = x1.comp :=
  raiseOn_keeps ((closed_comp x1).sub (K' := 0x60200000000) (by decide)) x1 x2 x3 x4 x5 x6 x7 rfl
@[simp] theorem raiseOn_det (x1 : State) (x2) (x3) (x4) (x5) (x6) (x7) : (raiseOn x1 x2 x3 x4 x5 x6 x7).det = x1.det :=
  raiseOn_keeps ((closed_det x1).sub (K' := 0x60200000000) (by decide)) x1 x2 x3 x4 x5 x6 x7 rfl
@[simp] theorem raiseOn_guard (x1 : State) (x2) (x3) (x4) (x5) (x6) (x7) : (raiseOn x1 x2 x3 x4 x5 x6 x7).guard = x1.guard :=
  raiseOn_keeps ((closed_guard x1).sub (K' := 0x60200000000) (by decide)) x1 x2 x3 x4 x5 x6 x7 rfl
@[simp] theorem raiseOn_hv (x1 : State) (x2) (x3) (x4) (x5) (x6) (x7) : (raiseOn x1 x2 x3 x4 x5 x6 x7).hv = x1.hv :=
  raiseOn_keeps ((closed_hv x1).sub (K' := 0x60200000000) (by decide)) x1 x2 x3 x4 x5 x6 x7 rfl
@[simp] theorem raiseOn_net (x1 : State) (x2) (x3) (x4) (x5) (x6) (x7) : (raiseOn x1 x2 x3 x4 x5 x6 x7).net = x1.net :=
  raiseOn_keeps ((closed_net x1).sub (K' := 0x60200000000) (by decide)) x1 x2 x3 x4 x5 x6 x7 rfl
@[simp] theorem raiseOn_bcp (x1 : State) (x2) (x3) (x4) (x5) (x6) (x7) : (raiseOn x1 x2 x3 x4 x5 x6 x7).bcp = x1.bcp :=
  raiseOn_keeps ((closed_bcp x1).sub (K' := 0x60200000000) (by decide)) x1 x2 x3 x4 x5 x6 x7 rfl
@[simp] theorem raiseOn_stage (x1 : State) (x2) (x3) (x4) (x5) (x6) (x7) : (raiseOn x1 x2 x3 x4 x5 x6 x7).stage = x1.stage :=
  raiseOn_keeps ((closed_stage x1).sub (K' := 0x60200000000) (by decide)) x1 x2 x3 x4 x5 x6 x7 rfl
@[simp] theorem raiseOn_sw (x1 : State) (x2) (x3) (x4) (x5) (x6) (x7) : (raiseOn x1 x2 x3 x4 x5 x6 x7).sw = x1.sw :=
  raiseOn_keeps ((closed_sw x1).sub (K' := 0x60200000000) (by decide)) x1 x2 x3 x4 x5 x6 x7 rfl
@[simp] theorem raiseOn_peers (x1 : State) (x2) (x3) (x4) (x5) (x6) (x7) : (raiseOn x1 x2 x3 x4 x5 x6 x7).peers = x1.peers :=
  raiseOn_keeps ((closed_peers x1).sub (K' := 0x60200000000) (by decide)) x1 x2 x3 x4 x5 x6 x7 rfl
@[simp] theorem raiseOn_lst (x1 : State) (x2) (x3) (x4) (x5) (x6) (x7) : (raiseOn x1 x2 x3 x4 x5 x6 x7).lst = x1.lst :=
  raiseOn_keeps ((closed_lst x1).sub (K' := 0x60200000000) (by decide)) x1 x2 x3 x4 x5 x6 x7 rfl
@[simp] theorem raiseOn_hk (x1 : State) (x2) (x3) (x4) (x5) (x6) (x7) : (raiseOn x1 x2 x3 x4 x5 x6 x7).hk = x1.hk :=
  raiseOn_keeps ((closed_hk x1).sub (K' := 0x60200000000) (by decide)) x1 x2 x3 x4 x5 x6 x7 rfl
@[simp] theorem raiseOn_fo (x1 : State) (x2) (x3) (x4) (x5) (x6) (x7) : (raiseOn x1 x2 x3 x4 x5 x6 x7).fo = x1.fo :=
  raiseOn_keeps ((closed_fo x1).sub (K' := 0x60200000000) (by decide)) x1 x2 x3 x4 x5 x6 x7 rfl
@[simp] theorem raiseOn_tamper (x1 : State) (x2) (x3) (x4) (x5) (x6) (x7) : (raiseOn x1 x2 x3 x4 x5 x6 x7).tamper = x1.tamper :=
  raiseOn_keeps ((closed_tamper x1).sub (K' := 0x60200000000) (by decide)) x1 x2 x3 x4 x5 x6 x7 rfl
@[simp] theorem raiseOn_bus (x1 : State) (x2) (x3) (x4) (x5) (x6) (x7) : (raiseOn x1 x2 x3 x4 x5 x6 x7).bus = x1.bus :=
  raiseOn_keeps ((closed_bus x1).sub (K' := 0x60200000000) (by decide)) x1 x2 x3 x4 x5 x6 x7 rfl
@[simp] theorem raiseOn_cv (x1 : State) (x2) (x3) (x4) (x5) (x6) (x7) : (raiseOn x1 x2 x3 x4 x5 x6 x7).cv = x1.cv :=
  raiseOn_keeps ((closed_cv x1).sub (K' := 0x60200000000) (by decide)) x1 x2 x3 x4 x5 x6 x7 rfl
@[simp] theorem raiseOn_power (x1 : State) (x2) (x3) (x4) (x5) (x6) (x7) : (raiseOn x1 x2 x3 x4 x5 x6 x7).power = x1.power :=
  raiseOn_keeps ((closed_power x1).sub (K' := 0x60200000000) (by decide)) x1 x2 x3 x4 x5 x6 x7 rfl

@[simp] theorem logOnly_pending (x1 : State) (x2) (x3) (x4) (x5) (x6) (x7) : (logOnly x1 x2 x3 x4 x5 x6 x7).pending = x1.pending :=
  logOnly_keeps ((closed_pending x1).sub (K' := 0x60000000000) (by decide)) x1 x2 x3 x4 x5 x6 x7 rfl
@[simp] theorem logOnly_part (x1 : State) (x2) (x3) (x4) (x5) (x6) (x7) : (logOnly x1 x2 x3 x4 x5 x6 x7).part = x1.part :=
  logOnly_keeps ((closed_part x1).sub (K' := 0x60000000000) (by decide)) x1 x2 x3 x4 x5 x6 x7 rfl
@[simp] theorem logOnly_now (x1 : State) (x2) (x3) (x4) (x5) (x6) (x7) : (logOnly x1 x2 x3 x4 x5 x6 x7).now = x1.now :=
  logOnly_keeps ((closed_now x1).sub (K' := 0x60000000000) (by decide)) x1 x2 x3 x4 x5 x6 x7 rfl
@[simp] theorem logOnly_freeIdx (x1 : State) (x2) (x3) (x4) (x5) (x6) (x7) : (logOnly x1 x2 x3 x4 x5 x6 x7).freeIdx = x1.freeIdx :=
  logOnly_keeps ((closed_freeIdx x1).sub (K' := 0x60000000000) (by decide)) x1 x2 x3 x4 x5 x6 x7 rfl
@[simp] theorem logOnly_regs (x1 : State) (x2) (x3) (x4) (x5) (x6) (x7) : (logOnly x1 x2 x3 x4 x5 x6 x7).regs = x1.regs :=
  logOnly_keeps ((closed_regs x1).sub (K' := 0x60000000000) (by decide)) x1 x2 x3 x4 x5 x6 x7 rfl
@[simp] theorem logOnly_shadow (x1 : State) (x2) (x3) (x4) (x5) (x6) (x7) : (logOnly x1 x2 x3 x4 x5 x6 x7).shadow = x1.shadow :=
  logOnly_keeps ((closed_shadow x1).sub (K' := 0x60000000000) (by decide)) x1 x2 x3 x4 x5 x6 x7 rfl
@[simp] theorem logOnly_loRead (x1 : State) (x2) (x3) (x4) (x5) (x6) (x7) : (logOnly x1 x2 x3 x4 x5 x6 x7).loRead = x1.loRead :=
  logOnly_keeps ((closed_loRead x1).sub (K' := 0x60000000000) (by decide)) x1 x2 x3 x4 x5 x6 x7 rfl
@[simp] theorem logOnly_loStaged (x1 : State) (x2) (x3) (x4) (x5) (x6) (x7) : (logOnly x1 x2 x3 x4 x5 x6 x7).loStaged = x1.loStaged :=
  logOnly_keeps ((closed_loStaged x1).sub (K' := 0x60000000000) (by decide)) x1 x2 x3 x4 x5 x6 x7 rfl
@[simp] theorem logOnly_logRd (x1 : State) (x2) (x3) (x4) (x5) (x6) (x7) : (logOnly x1 x2 x3 x4 x5 x6 x7).logRd = x1.logRd :=
  logOnly_keeps ((closed_logRd x1).sub (K' := 0x60000000000) (by decide)) x1 x2 x3 x4 x5 x6 x7 rfl
@[simp] theorem logOnly_out (x1 : State) (x2) (x3) (x4) (x5) (x6) (x7) : (logOnly x1 x2 x3 x4 x5 x6 x7).out = x1.out :=
  logOnly_keeps ((closed_out x1).sub (K' := 0x60000000000) (by decide)) x1 x2 x3 x4 x5 x6 x7 rfl
@[simp] theorem logOnly_tb (x1 : State) (x2) (x3) (x4) (x5) (x6) (x7) : (logOnly x1 x2 x3 x4 x5 x6 x7).tb = x1.tb :=
  logOnly_keeps ((closed_tb x1).sub (K' := 0x60000000000) (by decide)) x1 x2 x3 x4 x5 x6 x7 rfl
@[simp] theorem logOnly_seqr (x1 : State) (x2) (x3) (x4) (x5) (x6) (x7) : (logOnly x1 x2 x3 x4 x5 x6 x7).seqr = x1.seqr :=
  logOnly_keeps ((closed_seqr x1).sub (K' := 0x60000000000) (by decide)) x1 x2 x3 x4 x5 x6 x7 rfl
@[simp] theorem logOnly_dies (x1 : State) (x2) (x3) (x4) (x5) (x6) (x7) : (logOnly x1 x2 x3 x4 x5 x6 x7).dies = x1.dies :=
  logOnly_keeps ((closed_dies x1).sub (K' := 0x60000000000) (by decide)) x1 x2 x3 x4 x5 x6 x7 rfl
@[simp] theorem logOnly_ledgers (x1 : State) (x2) (x3) (x4) (x5) (x6) (x7) : (logOnly x1 x2 x3 x4 x5 x6 x7).ledgers = x1.ledgers :=
  logOnly_keeps ((closed_ledgers x1).sub (K' := 0x60000000000) (by decide)) x1 x2 x3 x4 x5 x6 x7 rfl
@[simp] theorem logOnly_boot (x1 : State) (x2) (x3) (x4) (x5) (x6) (x7) : (logOnly x1 x2 x3 x4 x5 x6 x7).boot = x1.boot :=
  logOnly_keeps ((closed_boot x1).sub (K' := 0x60000000000) (by decide)) x1 x2 x3 x4 x5 x6 x7 rfl
@[simp] theorem logOnly_flash (x1 : State) (x2) (x3) (x4) (x5) (x6) (x7) : (logOnly x1 x2 x3 x4 x5 x6 x7).flash = x1.flash :=
  logOnly_keeps ((closed_flash x1).sub (K' := 0x60000000000) (by decide)) x1 x2 x3 x4 x5 x6 x7 rfl
@[simp] theorem logOnly_img (x1 : State) (x2) (x3) (x4) (x5) (x6) (x7) : (logOnly x1 x2 x3 x4 x5 x6 x7).img = x1.img :=
  logOnly_keeps ((closed_img x1).sub (K' := 0x60000000000) (by decide)) x1 x2 x3 x4 x5 x6 x7 rfl
@[simp] theorem logOnly_otp (x1 : State) (x2) (x3) (x4) (x5) (x6) (x7) : (logOnly x1 x2 x3 x4 x5 x6 x7).otp = x1.otp :=
  logOnly_keeps ((closed_otp x1).sub (K' := 0x60000000000) (by decide)) x1 x2 x3 x4 x5 x6 x7 rfl
@[simp] theorem logOnly_ports (x1 : State) (x2) (x3) (x4) (x5) (x6) (x7) : (logOnly x1 x2 x3 x4 x5 x6 x7).ports = x1.ports :=
  logOnly_keeps ((closed_ports x1).sub (K' := 0x60000000000) (by decide)) x1 x2 x3 x4 x5 x6 x7 rfl
@[simp] theorem logOnly_accesses (x1 : State) (x2) (x3) (x4) (x5) (x6) (x7) : (logOnly x1 x2 x3 x4 x5 x6 x7).accesses = x1.accesses :=
  logOnly_keeps ((closed_accesses x1).sub (K' := 0x60000000000) (by decide)) x1 x2 x3 x4 x5 x6 x7 rfl
@[simp] theorem logOnly_accessTag (x1 : State) (x2) (x3) (x4) (x5) (x6) (x7) : (logOnly x1 x2 x3 x4 x5 x6 x7).accessTag = x1.accessTag :=
  logOnly_keeps ((closed_accessTag x1).sub (K' := 0x60000000000) (by decide)) x1 x2 x3 x4 x5 x6 x7 rfl
@[simp] theorem logOnly_fabs (x1 : State) (x2) (x3) (x4) (x5) (x6) (x7) : (logOnly x1 x2 x3 x4 x5 x6 x7).fabs = x1.fabs :=
  logOnly_keeps ((closed_fabs x1).sub (K' := 0x60000000000) (by decide)) x1 x2 x3 x4 x5 x6 x7 rfl
@[simp] theorem logOnly_mem (x1 : State) (x2) (x3) (x4) (x5) (x6) (x7) : (logOnly x1 x2 x3 x4 x5 x6 x7).mem = x1.mem :=
  logOnly_keeps ((closed_mem x1).sub (K' := 0x60000000000) (by decide)) x1 x2 x3 x4 x5 x6 x7 rfl
@[simp] theorem logOnly_eye (x1 : State) (x2) (x3) (x4) (x5) (x6) (x7) : (logOnly x1 x2 x3 x4 x5 x6 x7).eye = x1.eye :=
  logOnly_keeps ((closed_eye x1).sub (K' := 0x60000000000) (by decide)) x1 x2 x3 x4 x5 x6 x7 rfl
@[simp] theorem logOnly_isp (x1 : State) (x2) (x3) (x4) (x5) (x6) (x7) : (logOnly x1 x2 x3 x4 x5 x6 x7).isp = x1.isp :=
  logOnly_keeps ((closed_isp x1).sub (K' := 0x60000000000) (by decide)) x1 x2 x3 x4 x5 x6 x7 rfl
@[simp] theorem logOnly_comp (x1 : State) (x2) (x3) (x4) (x5) (x6) (x7) : (logOnly x1 x2 x3 x4 x5 x6 x7).comp = x1.comp :=
  logOnly_keeps ((closed_comp x1).sub (K' := 0x60000000000) (by decide)) x1 x2 x3 x4 x5 x6 x7 rfl
@[simp] theorem logOnly_det (x1 : State) (x2) (x3) (x4) (x5) (x6) (x7) : (logOnly x1 x2 x3 x4 x5 x6 x7).det = x1.det :=
  logOnly_keeps ((closed_det x1).sub (K' := 0x60000000000) (by decide)) x1 x2 x3 x4 x5 x6 x7 rfl
@[simp] theorem logOnly_guard (x1 : State) (x2) (x3) (x4) (x5) (x6) (x7) : (logOnly x1 x2 x3 x4 x5 x6 x7).guard = x1.guard :=
  logOnly_keeps ((closed_guard x1).sub (K' := 0x60000000000) (by decide)) x1 x2 x3 x4 x5 x6 x7 rfl
@[simp] theorem logOnly_hv (x1 : State) (x2) (x3) (x4) (x5) (x6) (x7) : (logOnly x1 x2 x3 x4 x5 x6 x7).hv = x1.hv :=
  logOnly_keeps ((closed_hv x1).sub (K' := 0x60000000000) (by decide)) x1 x2 x3 x4 x5 x6 x7 rfl
@[simp] theorem logOnly_net (x1 : State) (x2) (x3) (x4) (x5) (x6) (x7) : (logOnly x1 x2 x3 x4 x5 x6 x7).net = x1.net :=
  logOnly_keeps ((closed_net x1).sub (K' := 0x60000000000) (by decide)) x1 x2 x3 x4 x5 x6 x7 rfl
@[simp] theorem logOnly_bcp (x1 : State) (x2) (x3) (x4) (x5) (x6) (x7) : (logOnly x1 x2 x3 x4 x5 x6 x7).bcp = x1.bcp :=
  logOnly_keeps ((closed_bcp x1).sub (K' := 0x60000000000) (by decide)) x1 x2 x3 x4 x5 x6 x7 rfl
@[simp] theorem logOnly_stage (x1 : State) (x2) (x3) (x4) (x5) (x6) (x7) : (logOnly x1 x2 x3 x4 x5 x6 x7).stage = x1.stage :=
  logOnly_keeps ((closed_stage x1).sub (K' := 0x60000000000) (by decide)) x1 x2 x3 x4 x5 x6 x7 rfl
@[simp] theorem logOnly_sw (x1 : State) (x2) (x3) (x4) (x5) (x6) (x7) : (logOnly x1 x2 x3 x4 x5 x6 x7).sw = x1.sw :=
  logOnly_keeps ((closed_sw x1).sub (K' := 0x60000000000) (by decide)) x1 x2 x3 x4 x5 x6 x7 rfl
@[simp] theorem logOnly_recs (x1 : State) (x2) (x3) (x4) (x5) (x6) (x7) : (logOnly x1 x2 x3 x4 x5 x6 x7).recs = x1.recs :=
  logOnly_keeps ((closed_recs x1).sub (K' := 0x60000000000) (by decide)) x1 x2 x3 x4 x5 x6 x7 rfl
@[simp] theorem logOnly_peers (x1 : State) (x2) (x3) (x4) (x5) (x6) (x7) : (logOnly x1 x2 x3 x4 x5 x6 x7).peers = x1.peers :=
  logOnly_keeps ((closed_peers x1).sub (K' := 0x60000000000) (by decide)) x1 x2 x3 x4 x5 x6 x7 rfl
@[simp] theorem logOnly_lst (x1 : State) (x2) (x3) (x4) (x5) (x6) (x7) : (logOnly x1 x2 x3 x4 x5 x6 x7).lst = x1.lst :=
  logOnly_keeps ((closed_lst x1).sub (K' := 0x60000000000) (by decide)) x1 x2 x3 x4 x5 x6 x7 rfl
@[simp] theorem logOnly_hk (x1 : State) (x2) (x3) (x4) (x5) (x6) (x7) : (logOnly x1 x2 x3 x4 x5 x6 x7).hk = x1.hk :=
  logOnly_keeps ((closed_hk x1).sub (K' := 0x60000000000) (by decide)) x1 x2 x3 x4 x5 x6 x7 rfl
@[simp] theorem logOnly_fo (x1 : State) (x2) (x3) (x4) (x5) (x6) (x7) : (logOnly x1 x2 x3 x4 x5 x6 x7).fo = x1.fo :=
  logOnly_keeps ((closed_fo x1).sub (K' := 0x60000000000) (by decide)) x1 x2 x3 x4 x5 x6 x7 rfl
@[simp] theorem logOnly_tamper (x1 : State) (x2) (x3) (x4) (x5) (x6) (x7) : (logOnly x1 x2 x3 x4 x5 x6 x7).tamper = x1.tamper :=
  logOnly_keeps ((closed_tamper x1).sub (K' := 0x60000000000) (by decide)) x1 x2 x3 x4 x5 x6 x7 rfl
@[simp] theorem logOnly_bus (x1 : State) (x2) (x3) (x4) (x5) (x6) (x7) : (logOnly x1 x2 x3 x4 x5 x6 x7).bus = x1.bus :=
  logOnly_keeps ((closed_bus x1).sub (K' := 0x60000000000) (by decide)) x1 x2 x3 x4 x5 x6 x7 rfl
@[simp] theorem logOnly_cv (x1 : State) (x2) (x3) (x4) (x5) (x6) (x7) : (logOnly x1 x2 x3 x4 x5 x6 x7).cv = x1.cv :=
  logOnly_keeps ((closed_cv x1).sub (K' := 0x60000000000) (by decide)) x1 x2 x3 x4 x5 x6 x7 rfl
@[simp] theorem logOnly_power (x1 : State) (x2) (x3) (x4) (x5) (x6) (x7) : (logOnly x1 x2 x3 x4 x5 x6 x7).power = x1.power :=
  logOnly_keeps ((closed_power x1).sub (K' := 0x60000000000) (by decide)) x1 x2 x3 x4 x5 x6 x7 rfl

@[simp] theorem sendParcel_pending (x1 : State) (x2) (x3) : (sendParcel x1 x2 x3).pending = x1.pending :=
  sendParcel_keeps ((closed_pending x1).sub (K' := 0x60200040000) (by decide)) x1 x2 x3 rfl
@[simp] theorem sendParcel_part (x1 : State) (x2) (x3) : (sendParcel x1 x2 x3).part = x1.part :=
  sendParcel_keeps ((closed_part x1).sub (K' := 0x60200040000) (by decide)) x1 x2 x3 rfl
@[simp] theorem sendParcel_now (x1 : State) (x2) (x3) : (sendParcel x1 x2 x3).now = x1.now :=
  sendParcel_keeps ((closed_now x1).sub (K' := 0x60200040000) (by decide)) x1 x2 x3 rfl
@[simp] theorem sendParcel_freeIdx (x1 : State) (x2) (x3) : (sendParcel x1 x2 x3).freeIdx = x1.freeIdx :=
  sendParcel_keeps ((closed_freeIdx x1).sub (K' := 0x60200040000) (by decide)) x1 x2 x3 rfl
@[simp] theorem sendParcel_regs (x1 : State) (x2) (x3) : (sendParcel x1 x2 x3).regs = x1.regs :=
  sendParcel_keeps ((closed_regs x1).sub (K' := 0x60200040000) (by decide)) x1 x2 x3 rfl
@[simp] theorem sendParcel_shadow (x1 : State) (x2) (x3) : (sendParcel x1 x2 x3).shadow = x1.shadow :=
  sendParcel_keeps ((closed_shadow x1).sub (K' := 0x60200040000) (by decide)) x1 x2 x3 rfl
@[simp] theorem sendParcel_loRead (x1 : State) (x2) (x3) : (sendParcel x1 x2 x3).loRead = x1.loRead :=
  sendParcel_keeps ((closed_loRead x1).sub (K' := 0x60200040000) (by decide)) x1 x2 x3 rfl
@[simp] theorem sendParcel_loStaged (x1 : State) (x2) (x3) : (sendParcel x1 x2 x3).loStaged = x1.loStaged :=
  sendParcel_keeps ((closed_loStaged x1).sub (K' := 0x60200040000) (by decide)) x1 x2 x3 rfl
@[simp] theorem sendParcel_logRd (x1 : State) (x2) (x3) : (sendParcel x1 x2 x3).logRd = x1.logRd :=
  sendParcel_keeps ((closed_logRd x1).sub (K' := 0x60200040000) (by decide)) x1 x2 x3 rfl
@[simp] theorem sendParcel_out (x1 : State) (x2) (x3) : (sendParcel x1 x2 x3).out = x1.out :=
  sendParcel_keeps ((closed_out x1).sub (K' := 0x60200040000) (by decide)) x1 x2 x3 rfl
@[simp] theorem sendParcel_tb (x1 : State) (x2) (x3) : (sendParcel x1 x2 x3).tb = x1.tb :=
  sendParcel_keeps ((closed_tb x1).sub (K' := 0x60200040000) (by decide)) x1 x2 x3 rfl
@[simp] theorem sendParcel_seqr (x1 : State) (x2) (x3) : (sendParcel x1 x2 x3).seqr = x1.seqr :=
  sendParcel_keeps ((closed_seqr x1).sub (K' := 0x60200040000) (by decide)) x1 x2 x3 rfl
@[simp] theorem sendParcel_dies (x1 : State) (x2) (x3) : (sendParcel x1 x2 x3).dies = x1.dies :=
  sendParcel_keeps ((closed_dies x1).sub (K' := 0x60200040000) (by decide)) x1 x2 x3 rfl
@[simp] theorem sendParcel_ledgers (x1 : State) (x2) (x3) : (sendParcel x1 x2 x3).ledgers = x1.ledgers :=
  sendParcel_keeps ((closed_ledgers x1).sub (K' := 0x60200040000) (by decide)) x1 x2 x3 rfl
@[simp] theorem sendParcel_boot (x1 : State) (x2) (x3) : (sendParcel x1 x2 x3).boot = x1.boot :=
  sendParcel_keeps ((closed_boot x1).sub (K' := 0x60200040000) (by decide)) x1 x2 x3 rfl
@[simp] theorem sendParcel_flash (x1 : State) (x2) (x3) : (sendParcel x1 x2 x3).flash = x1.flash :=
  sendParcel_keeps ((closed_flash x1).sub (K' := 0x60200040000) (by decide)) x1 x2 x3 rfl
@[simp] theorem sendParcel_img (x1 : State) (x2) (x3) : (sendParcel x1 x2 x3).img = x1.img :=
  sendParcel_keeps ((closed_img x1).sub (K' := 0x60200040000) (by decide)) x1 x2 x3 rfl
@[simp] theorem sendParcel_otp (x1 : State) (x2) (x3) : (sendParcel x1 x2 x3).otp = x1.otp :=
  sendParcel_keeps ((closed_otp x1).sub (K' := 0x60200040000) (by decide)) x1 x2 x3 rfl
@[simp] theorem sendParcel_accesses (x1 : State) (x2) (x3) : (sendParcel x1 x2 x3).accesses = x1.accesses :=
  sendParcel_keeps ((closed_accesses x1).sub (K' := 0x60200040000) (by decide)) x1 x2 x3 rfl
@[simp] theorem sendParcel_accessTag (x1 : State) (x2) (x3) : (sendParcel x1 x2 x3).accessTag = x1.accessTag :=
  sendParcel_keeps ((closed_accessTag x1).sub (K' := 0x60200040000) (by decide)) x1 x2 x3 rfl
@[simp] theorem sendParcel_fabs (x1 : State) (x2) (x3) : (sendParcel x1 x2 x3).fabs = x1.fabs :=
  sendParcel_keeps ((closed_fabs x1).sub (K' := 0x60200040000) (by decide)) x1 x2 x3 rfl
@[simp] theorem sendParcel_mem (x1 : State) (x2) (x3) : (sendParcel x1 x2 x3).mem = x1.mem :=
  sendParcel_keeps ((closed_mem x1).sub (K' := 0x60200040000) (by decide)) x1 x2 x3 rfl
@[simp] theorem sendParcel_eye (x1 : State) (x2) (x3) : (sendParcel x1 x2 x3).eye = x1.eye :=
  sendParcel_keeps ((closed_eye x1).sub (K' := 0x60200040000) (by decide)) x1 x2 x3 rfl
@[simp] theorem sendParcel_isp (x1 : State) (x2) (x3) : (sendParcel x1 x2 x3).isp = x1.isp :=
  sendParcel_keeps ((closed_isp x1).sub (K' := 0x60200040000) (by decide)) x1 x2 x3 rfl
@[simp] theorem sendParcel_comp (x1 : State) (x2) (x3) : (sendParcel x1 x2 x3).comp = x1.comp :=
  sendParcel_keeps ((closed_comp x1).sub (K' := 0x60200040000) (by decide)) x1 x2 x3 rfl
@[simp] theorem sendParcel_det (x1 : State) (x2) (x3) : (sendParcel x1 x2 x3).det = x1.det :=
  sendParcel_keeps ((closed_det x1).sub (K' := 0x60200040000) (by decide)) x1 x2 x3 rfl
@[simp] theorem sendParcel_guard (x1 : State) (x2) (x3) : (sendParcel x1 x2 x3).guard = x1.guard :=
  sendParcel_keeps ((closed_guard x1).sub (K' := 0x60200040000) (by decide)) x1 x2 x3 rfl
@[simp] theorem sendParcel_hv (x1 : State) (x2) (x3) : (sendParcel x1 x2 x3).hv = x1.hv :=
  sendParcel_keeps ((closed_hv x1).sub (K' := 0x60200040000) (by decide)) x1 x2 x3 rfl
@[simp] theorem sendParcel_net (x1 : State) (x2) (x3) : (sendParcel x1 x2 x3).net = x1.net :=
  sendParcel_keeps ((closed_net x1).sub (K' := 0x60200040000) (by decide)) x1 x2 x3 rfl
@[simp] theorem sendParcel_bcp (x1 : State) (x2) (x3) : (sendParcel x1 x2 x3).bcp = x1.bcp :=
  sendParcel_keeps ((closed_bcp x1).sub (K' := 0x60200040000) (by decide)) x1 x2 x3 rfl
@[simp] theorem sendParcel_stage (x1 : State) (x2) (x3) : (sendParcel x1 x2 x3).stage = x1.stage :=
  sendParcel_keeps ((closed_stage x1).sub (K' := 0x60200040000) (by decide)) x1 x2 x3 rfl
@[simp] theorem sendParcel_sw (x1 : State) (x2) (x3) : (sendParcel x1 x2 x3).sw = x1.sw :=
  sendParcel_keeps ((closed_sw x1).sub (K' := 0x60200040000) (by decide)) x1 x2 x3 rfl
@[simp] theorem sendParcel_peers (x1 : State) (x2) (x3) : (sendParcel x1 x2 x3).peers = x1.peers :=
  sendParcel_keeps ((closed_peers x1).sub (K' := 0x60200040000) (by decide)) x1 x2 x3 rfl
@[simp] theorem sendParcel_lst (x1 : State) (x2) (x3) : (sendParcel x1 x2 x3).lst = x1.lst :=
  sendParcel_keeps ((closed_lst x1).sub (K' := 0x60200040000) (by decide)) x1 x2 x3 rfl
@[simp] theorem sendParcel_hk (x1 : State) (x2) (x3) : (sendParcel x1 x2 x3).hk = x1.hk :=
  sendParcel_keeps ((closed_hk x1).sub (K' := 0x60200040000) (by decide)) x1 x2 x3 rfl
@[simp] theorem sendParcel_fo (x1 : State) (x2) (x3) : (sendParcel x1 x2 x3).fo = x1.fo :=
  sendParcel_keeps ((closed_fo x1).sub (K' := 0x60200040000) (by decide)) x1 x2 x3 rfl
@[simp] theorem sendParcel_tamper (x1 : State) (x2) (x3) : (sendParcel x1 x2 x3).tamper = x1.tamper :=
  sendParcel_keeps ((closed_tamper x1).sub (K' := 0x60200040000) (by decide)) x1 x2 x3 rfl
@[simp] theorem sendParcel_bus (x1 : State) (x2) (x3) : (sendParcel x1 x2 x3).bus = x1.bus :=
  sendParcel_keeps ((closed_bus x1).sub (K' := 0x60200040000) (by decide)) x1 x2 x3 rfl
@[simp] theorem sendParcel_cv (x1 : State) (x2) (x3) : (sendParcel x1 x2 x3).cv = x1.cv :=
  sendParcel_keeps ((closed_cv x1).sub (K' := 0x60200040000) (by decide)) x1 x2 x3 rfl
@[simp] theorem sendParcel_power (x1 : State) (x2) (x3) : (sendParcel x1 x2 x3).power = x1.power :=
  sendParcel_keeps ((closed_power x1).sub (K' := 0x60200040000) (by decide)) x1 x2 x3 rfl

@[simp] theorem sendMsg_pending (x1 : State) (x2) (x3) (x4) (x5) : (sendMsg x1 x2 x3 x4 x5).pending = x1.pending :=
  sendMsg_keeps ((closed_pending x1).sub (K' := 0x60200040000) (by decide)) x1 x2 x3 x4 x5 rfl
@[simp] theorem sendMsg_part (x1 : State) (x2) (x3) (x4) (x5) : (sendMsg x1 x2 x3 x4 x5).part = x1.part :=
  sendMsg_keeps ((closed_part x1).sub (K' := 0x60200040000) (by decide)) x1 x2 x3 x4 x5 rfl
@[simp] theorem sendMsg_now (x1 : State) (x2) (x3) (x4) (x5) : (sendMsg x1 x2 x3 x4 x5).now = x1.now :=
  sendMsg_keeps ((closed_now x1).sub (K' := 0x60200040000) (by decide)) x1 x2 x3 x4 x5 rfl
@[simp] theorem sendMsg_freeIdx (x1 : State) (x2) (x3) (x4) (x5) : (sendMsg x1 x2 x3 x4 x5).freeIdx = x1.freeIdx :=
  sendMsg_keeps ((closed_freeIdx x1).sub (K' := 0x60200040000) (by decide)) x1 x2 x3 x4 x5 rfl
@[simp] theorem sendMsg_regs (x1 : State) (x2) (x3) (x4) (x5) : (sendMsg x1 x2 x3 x4 x5).regs = x1.regs :=
  sendMsg_keeps ((closed_regs x1).sub (K' := 0x60200040000) (by decide)) x1 x2 x3 x4 x5 rfl
@[simp] theorem sendMsg_shadow (x1 : State) (x2) (x3) (x4) (x5) : (sendMsg x1 x2 x3 x4 x5).shadow = x1.shadow :=
  sendMsg_keeps ((closed_shadow x1).sub (K' := 0x60200040000) (by decide)) x1 x2 x3 x4 x5 rfl
@[simp] theorem sendMsg_loRead (x1 : State) (x2) (x3) (x4) (x5) : (sendMsg x1 x2 x3 x4 x5).loRead = x1.loRead :=
  sendMsg_keeps ((closed_loRead x1).sub (K' := 0x60200040000) (by decide)) x1 x2 x3 x4 x5 rfl
@[simp] theorem sendMsg_loStaged (x1 : State) (x2) (x3) (x4) (x5) : (sendMsg x1 x2 x3 x4 x5).loStaged = x1.loStaged :=
  sendMsg_keeps ((closed_loStaged x1).sub (K' := 0x60200040000) (by decide)) x1 x2 x3 x4 x5 rfl
@[simp] theorem sendMsg_logRd (x1 : State) (x2) (x3) (x4) (x5) : (sendMsg x1 x2 x3 x4 x5).logRd = x1.logRd :=
  sendMsg_keeps ((closed_logRd x1).sub (K' := 0x60200040000) (by decide)) x1 x2 x3 x4 x5 rfl
@[simp] theorem sendMsg_out (x1 : State) (x2) (x3) (x4) (x5) : (sendMsg x1 x2 x3 x4 x5).out = x1.out :=
  sendMsg_keeps ((closed_out x1).sub (K' := 0x60200040000) (by decide)) x1 x2 x3 x4 x5 rfl
@[simp] theorem sendMsg_tb (x1 : State) (x2) (x3) (x4) (x5) : (sendMsg x1 x2 x3 x4 x5).tb = x1.tb :=
  sendMsg_keeps ((closed_tb x1).sub (K' := 0x60200040000) (by decide)) x1 x2 x3 x4 x5 rfl
@[simp] theorem sendMsg_seqr (x1 : State) (x2) (x3) (x4) (x5) : (sendMsg x1 x2 x3 x4 x5).seqr = x1.seqr :=
  sendMsg_keeps ((closed_seqr x1).sub (K' := 0x60200040000) (by decide)) x1 x2 x3 x4 x5 rfl
@[simp] theorem sendMsg_dies (x1 : State) (x2) (x3) (x4) (x5) : (sendMsg x1 x2 x3 x4 x5).dies = x1.dies :=
  sendMsg_keeps ((closed_dies x1).sub (K' := 0x60200040000) (by decide)) x1 x2 x3 x4 x5 rfl
@[simp] theorem sendMsg_ledgers (x1 : State) (x2) (x3) (x4) (x5) : (sendMsg x1 x2 x3 x4 x5).ledgers = x1.ledgers :=
  sendMsg_keeps ((closed_ledgers x1).sub (K' := 0x60200040000) (by decide)) x1 x2 x3 x4 x5 rfl
@[simp] theorem sendMsg_boot (x1 : State) (x2) (x3) (x4) (x5) : (sendMsg x1 x2 x3 x4 x5).boot = x1.boot :=
  sendMsg_keeps ((closed_boot x1).sub (K' := 0x60200040000) (by decide)) x1 x2 x3 x4 x5 rfl
@[simp] theorem sendMsg_flash (x1 : State) (x2) (x3) (x4) (x5) : (sendMsg x1 x2 x3 x4 x5).flash = x1.flash :=
  sendMsg_keeps ((closed_flash x1).sub (K' := 0x60200040000) (by decide)) x1 x2 x3 x4 x5 rfl
@[simp] theorem sendMsg_img (x1 : State) (x2) (x3) (x4) (x5) : (sendMsg x1 x2 x3 x4 x5).img = x1.img :=
  sendMsg_keeps ((closed_img x1).sub (K' := 0x60200040000) (by decide)) x1 x2 x3 x4 x5 rfl
@[simp] theorem sendMsg_otp (x1 : State) (x2) (x3) (x4) (x5) : (sendMsg x1 x2 x3 x4 x5).otp = x1.otp :=
  sendMsg_keeps ((closed_otp x1).sub (K' := 0x60200040000) (by decide)) x1 x2 x3 x4 x5 rfl
@[simp] theorem sendMsg_accesses (x1 : State) (x2) (x3) (x4) (x5) : (sendMsg x1 x2 x3 x4 x5).accesses = x1.accesses :=
  sendMsg_keeps ((closed_accesses x1).sub (K' := 0x60200040000) (by decide)) x1 x2 x3 x4 x5 rfl
@[simp] theorem sendMsg_accessTag (x1 : State) (x2) (x3) (x4) (x5) : (sendMsg x1 x2 x3 x4 x5).accessTag = x1.accessTag :=
  sendMsg_keeps ((closed_accessTag x1).sub (K' := 0x60200040000) (by decide)) x1 x2 x3 x4 x5 rfl
@[simp] theorem sendMsg_fabs (x1 : State) (x2) (x3) (x4) (x5) : (sendMsg x1 x2 x3 x4 x5).fabs = x1.fabs :=
  sendMsg_keeps ((closed_fabs x1).sub (K' := 0x60200040000) (by decide)) x1 x2 x3 x4 x5 rfl
@[simp] theorem sendMsg_mem (x1 : State) (x2) (x3) (x4) (x5) : (sendMsg x1 x2 x3 x4 x5).mem = x1.mem :=
  sendMsg_keeps ((closed_mem x1).sub (K' := 0x60200040000) (by decide)) x1 x2 x3 x4 x5 rfl
@[simp] theorem sendMsg_eye (x1 : State) (x2) (x3) (x4) (x5) : (sendMsg x1 x2 x3 x4 x5).eye = x1.eye :=
  sendMsg_keeps ((closed_eye x1).sub (K' := 0x60200040000) (by decide)) x1 x2 x3 x4 x5 rfl
@[simp] theorem sendMsg_isp (x1 : State) (x2) (x3) (x4) (x5) : (sendMsg x1 x2 x3 x4 x5).isp = x1.isp :=
  sendMsg_keeps ((closed_isp x1).sub (K' := 0x60200040000) (by decide)) x1 x2 x3 x4 x5 rfl
@[simp] theorem sendMsg_comp (x1 : State) (x2) (x3) (x4) (x5) : (sendMsg x1 x2 x3 x4 x5).comp = x1.comp :=
  sendMsg_keeps ((closed_comp x1).sub (K' := 0x60200040000) (by decide)) x1 x2 x3 x4 x5 rfl
@[simp] theorem sendMsg_det (x1 : State) (x2) (x3) (x4) (x5) : (sendMsg x1 x2 x3 x4 x5).det = x1.det :=
  sendMsg_keeps ((closed_det x1).sub (K' := 0x60200040000) (by decide)) x1 x2 x3 x4 x5 rfl
@[simp] theorem sendMsg_guard (x1 : State) (x2) (x3) (x4) (x5) : (sendMsg x1 x2 x3 x4 x5).guard = x1.guard :=
  sendMsg_keeps ((closed_guard x1).sub (K' := 0x60200040000) (by decide)) x1 x2 x3 x4 x5 rfl
@[simp] theorem sendMsg_hv (x1 : State) (x2) (x3) (x4) (x5) : (sendMsg x1 x2 x3 x4 x5).hv = x1.hv :=
  sendMsg_keeps ((closed_hv x1).sub (K' := 0x60200040000) (by decide)) x1 x2 x3 x4 x5 rfl
@[simp] theorem sendMsg_net (x1 : State) (x2) (x3) (x4) (x5) : (sendMsg x1 x2 x3 x4 x5).net = x1.net :=
  sendMsg_keeps ((closed_net x1).sub (K' := 0x60200040000) (by decide)) x1 x2 x3 x4 x5 rfl
@[simp] theorem sendMsg_bcp (x1 : State) (x2) (x3) (x4) (x5) : (sendMsg x1 x2 x3 x4 x5).bcp = x1.bcp :=
  sendMsg_keeps ((closed_bcp x1).sub (K' := 0x60200040000) (by decide)) x1 x2 x3 x4 x5 rfl
@[simp] theorem sendMsg_stage (x1 : State) (x2) (x3) (x4) (x5) : (sendMsg x1 x2 x3 x4 x5).stage = x1.stage :=
  sendMsg_keeps ((closed_stage x1).sub (K' := 0x60200040000) (by decide)) x1 x2 x3 x4 x5 rfl
@[simp] theorem sendMsg_sw (x1 : State) (x2) (x3) (x4) (x5) : (sendMsg x1 x2 x3 x4 x5).sw = x1.sw :=
  sendMsg_keeps ((closed_sw x1).sub (K' := 0x60200040000) (by decide)) x1 x2 x3 x4 x5 rfl
@[simp] theorem sendMsg_peers (x1 : State) (x2) (x3) (x4) (x5) : (sendMsg x1 x2 x3 x4 x5).peers = x1.peers :=
  sendMsg_keeps ((closed_peers x1).sub (K' := 0x60200040000) (by decide)) x1 x2 x3 x4 x5 rfl
@[simp] theorem sendMsg_lst (x1 : State) (x2) (x3) (x4) (x5) : (sendMsg x1 x2 x3 x4 x5).lst = x1.lst :=
  sendMsg_keeps ((closed_lst x1).sub (K' := 0x60200040000) (by decide)) x1 x2 x3 x4 x5 rfl
@[simp] theorem sendMsg_hk (x1 : State) (x2) (x3) (x4) (x5) : (sendMsg x1 x2 x3 x4 x5).hk = x1.hk :=
  sendMsg_keeps ((closed_hk x1).sub (K' := 0x60200040000) (by decide)) x1 x2 x3 x4 x5 rfl
@[simp] theorem sendMsg_fo (x1 : State) (x2) (x3) (x4) (x5) : (sendMsg x1 x2 x3 x4 x5).fo = x1.fo :=
  sendMsg_keeps ((closed_fo x1).sub (K' := 0x60200040000) (by decide)) x1 x2 x3 x4 x5 rfl
@[simp] theorem sendMsg_tamper (x1 : State) (x2) (x3) (x4) (x5) : (sendMsg x1 x2 x3 x4 x5).tamper = x1.tamper :=
  sendMsg_keeps ((closed_tamper x1).sub (K' := 0x60200040000) (by decide)) x1 x2 x3 x4 x5 rfl
@[simp] theorem sendMsg_bus (x1 : State) (x2) (x3) (x4) (x5) : (sendMsg x1 x2 x3 x4 x5).bus = x1.bus :=
  sendMsg_keeps ((closed_bus x1).sub (K' := 0x60200040000) (by decide)) x1 x2 x3 x4 x5 rfl
@[simp] theorem sendMsg_cv (x1 : State) (x2) (x3) (x4) (x5) : (sendMsg x1 x2 x3 x4 x5).cv = x1.cv :=
  sendMsg_keeps ((closed_cv x1).sub (K' := 0x60200040000) (by decide)) x1 x2 x3 x4 x5 rfl
@[simp] theorem sendMsg_power (x1 : State) (x2) (x3) (x4) (x5) : (sendMsg x1 x2 x3 x4 x5).power = x1.power :=
  sendMsg_keeps ((closed_power x1).sub (K' := 0x60200040000) (by decide)) x1 x2 x3 x4 x5 rfl

@[simp] theorem memPut_pending (x1 : State) (x2) (x3) : (memPut x1 x2 x3).pending = x1.pending :=
  memPut_keeps ((closed_pending x1).sub (K' := 0x400000) (by decide)) x1 x2 x3 rfl
@[simp] theorem memPut_part (x1 : State) (x2) (x3) : (memPut x1 x2 x3).part = x1.part :=
  memPut_keeps ((closed_part x1).sub (K' := 0x400000) (by decide)) x1 x2 x3 rfl
@[simp] theorem memPut_now (x1 : State) (x2) (x3) : (memPut x1 x2 x3).now = x1.now :=
  memPut_keeps ((closed_now x1).sub (K' := 0x400000) (by decide)) x1 x2 x3 rfl
@[simp] theorem memPut_freeIdx (x1 : State) (x2) (x3) : (memPut x1 x2 x3).freeIdx = x1.freeIdx :=
  memPut_keeps ((closed_freeIdx x1).sub (K' := 0x400000) (by decide)) x1 x2 x3 rfl
@[simp] theorem memPut_regs (x1 : State) (x2) (x3) : (memPut x1 x2 x3).regs = x1.regs :=
  memPut_keeps ((closed_regs x1).sub (K' := 0x400000) (by decide)) x1 x2 x3 rfl
@[simp] theorem memPut_shadow (x1 : State) (x2) (x3) : (memPut x1 x2 x3).shadow = x1.shadow :=
  memPut_keeps ((closed_shadow x1).sub (K' := 0x400000) (by decide)) x1 x2 x3 rfl
@[simp] theorem memPut_loRead (x1 : State) (x2) (x3) : (memPut x1 x2 x3).loRead = x1.loRead :=
  memPut_keeps ((closed_loRead x1).sub (K' := 0x400000) (by decide)) x1 x2 x3 rfl
@[simp] theorem memPut_loStaged (x1 : State) (x2) (x3) : (memPut x1 x2 x3).loStaged = x1.loStaged :=
  memPut_keeps ((closed_loStaged x1).sub (K' := 0x400000) (by decide)) x1 x2 x3 rfl
@[simp] theorem memPut_logRd (x1 : State) (x2) (x3) : (memPut x1 x2 x3).logRd = x1.logRd :=
  memPut_keeps ((closed_logRd x1).sub (K' := 0x400000) (by decide)) x1 x2 x3 rfl
@[simp] theorem memPut_out (x1 : State) (x2) (x3) : (memPut x1 x2 x3).out = x1.out :=
  memPut_keeps ((closed_out x1).sub (K' := 0x400000) (by decide)) x1 x2 x3 rfl
@[simp] theorem memPut_tb (x1 : State) (x2) (x3) : (memPut x1 x2 x3).tb = x1.tb :=
  memPut_keeps ((closed_tb x1).sub (K' := 0x400000) (by decide)) x1 x2 x3 rfl
@[simp] theorem memPut_seqr (x1 : State) (x2) (x3) : (memPut x1 x2 x3).seqr = x1.seqr :=
  memPut_keeps ((closed_seqr x1).sub (K' := 0x400000) (by decide)) x1 x2 x3 rfl
@[simp] theorem memPut_dies (x1 : State) (x2) (x3) : (memPut x1 x2 x3).dies = x1.dies :=
  memPut_keeps ((closed_dies x1).sub (K' := 0x400000) (by decide)) x1 x2 x3 rfl
@[simp] theorem memPut_ledgers (x1 : State) (x2) (x3) : (memPut x1 x2 x3).ledgers = x1.ledgers :=
  memPut_keeps ((closed_ledgers x1).sub (K' := 0x400000) (by decide)) x1 x2 x3 rfl
@[simp] theorem memPut_boot (x1 : State) (x2) (x3) : (memPut x1 x2 x3).boot = x1.boot :=
  memPut_keeps ((closed_boot x1).sub (K' := 0x400000) (by decide)) x1 x2 x3 rfl
@[simp] theorem memPut_flash (x1 : State) (x2) (x3) : (memPut x1 x2 x3).flash = x1.flash :=
  memPut_keeps ((closed_flash x1).sub (K' := 0x400000) (by decide)) x1 x2 x3 rfl
@[simp] theorem memPut_img (x1 : State) (x2) (x3) : (memPut x1 x2 x3).img = x1.img :=
  memPut_keeps ((closed_img x1).sub (K' := 0x400000) (by decide)) x1 x2 x3 rfl
@[simp] theorem memPut_otp (x1 : State) (x2) (x3) : (memPut x1 x2 x3).otp = x1.otp :=
  memPut_keeps ((closed_otp x1).sub (K' := 0x400000) (by decide)) x1 x2 x3 rfl
@[simp] theorem memPut_ports (x1 : State) (x2) (x3) : (memPut x1 x2 x3).ports = x1.ports :=
  memPut_keeps ((closed_ports x1).sub (K' := 0x400000) (by decide)) x1 x2 x3 rfl
@[simp] theorem memPut_accesses (x1 : State) (x2) (x3) : (memPut x1 x2 x3).accesses = x1.accesses :=
  memPut_keeps ((closed_accesses x1).sub (K' := 0x400000) (by decide)) x1 x2 x3 rfl
@[simp] theorem memPut_accessTag (x1 : State) (x2) (x3) : (memPut x1 x2 x3).accessTag = x1.accessTag :=
  memPut_keeps ((closed_accessTag x1).sub (K' := 0x400000) (by decide)) x1 x2 x3 rfl
@[simp] theorem memPut_fabs (x1 : State) (x2) (x3) : (memPut x1 x2 x3).fabs = x1.fabs :=
  memPut_keeps ((closed_fabs x1).sub (K' := 0x400000) (by decide)) x1 x2 x3 rfl
@[simp] theorem memPut_eye (x1 : State) (x2) (x3) : (memPut x1 x2 x3).eye = x1.eye :=
  memPut_keeps ((closed_eye x1).sub (K' := 0x400000) (by decide)) x1 x2 x3 rfl
@[simp] theorem memPut_isp (x1 : State) (x2) (x3) : (memPut x1 x2 x3).isp = x1.isp :=
  memPut_keeps ((closed_isp x1).sub (K' := 0x400000) (by decide)) x1 x2 x3 rfl
@[simp] theorem memPut_comp (x1 : State) (x2) (x3) : (memPut x1 x2 x3).comp = x1.comp :=
  memPut_keeps ((closed_comp x1).sub (K' := 0x400000) (by decide)) x1 x2 x3 rfl
@[simp] theorem memPut_det (x1 : State) (x2) (x3) : (memPut x1 x2 x3).det = x1.det :=
  memPut_keeps ((closed_det x1).sub (K' := 0x400000) (by decide)) x1 x2 x3 rfl
@[simp] theorem memPut_guard (x1 : State) (x2) (x3) : (memPut x1 x2 x3).guard = x1.guard :=
  memPut_keeps ((closed_guard x1).sub (K' := 0x400000) (by decide)) x1 x2 x3 rfl
@[simp] theorem memPut_hv (x1 : State) (x2) (x3) : (memPut x1 x2 x3).hv = x1.hv :=
  memPut_keeps ((closed_hv x1).sub (K' := 0x400000) (by decide)) x1 x2 x3 rfl
@[simp] theorem memPut_net (x1 : State) (x2) (x3) : (memPut x1 x2 x3).net = x1.net :=
  memPut_keeps ((closed_net x1).sub (K' := 0x400000) (by decide)) x1 x2 x3 rfl
@[simp] theorem memPut_bcp (x1 : State) (x2) (x3) : (memPut x1 x2 x3).bcp = x1.bcp :=
  memPut_keeps ((closed_bcp x1).sub (K' := 0x400000) (by decide)) x1 x2 x3 rfl
@[simp] theorem memPut_stage (x1 : State) (x2) (x3) : (memPut x1 x2 x3).stage = x1.stage :=
  memPut_keeps ((closed_stage x1).sub (K' := 0x400000) (by decide)) x1 x2 x3 rfl
@[simp] theorem memPut_sw (x1 : State) (x2) (x3) : (memPut x1 x2 x3).sw = x1.sw :=
  memPut_keeps ((closed_sw x1).sub (K' := 0x400000) (by decide)) x1 x2 x3 rfl
@[simp] theorem memPut_recs (x1 : State) (x2) (x3) : (memPut x1 x2 x3).recs = x1.recs :=
  memPut_keeps ((closed_recs x1).sub (K' := 0x400000) (by decide)) x1 x2 x3 rfl
@[simp] theorem memPut_peers (x1 : State) (x2) (x3) : (memPut x1 x2 x3).peers = x1.peers :=
  memPut_keeps ((closed_peers x1).sub (K' := 0x400000) (by decide)) x1 x2 x3 rfl
@[simp] theorem memPut_lst (x1 : State) (x2) (x3) : (memPut x1 x2 x3).lst = x1.lst :=
  memPut_keeps ((closed_lst x1).sub (K' := 0x400000) (by decide)) x1 x2 x3 rfl
@[simp] theorem memPut_hk (x1 : State) (x2) (x3) : (memPut x1 x2 x3).hk = x1.hk :=
  memPut_keeps ((closed_hk x1).sub (K' := 0x400000) (by decide)) x1 x2 x3 rfl
@[simp] theorem memPut_fo (x1 : State) (x2) (x3) : (memPut x1 x2 x3).fo = x1.fo :=
  memPut_keeps ((closed_fo x1).sub (K' := 0x400000) (by decide)) x1 x2 x3 rfl
@[simp] theorem memPut_tamper (x1 : State) (x2) (x3) : (memPut x1 x2 x3).tamper = x1.tamper :=
  memPut_keeps ((closed_tamper x1).sub (K' := 0x400000) (by decide)) x1 x2 x3 rfl
@[simp] theorem memPut_bus (x1 : State) (x2) (x3) : (memPut x1 x2 x3).bus = x1.bus :=
  memPut_keeps ((closed_bus x1).sub (K' := 0x400000) (by decide)) x1 x2 x3 rfl
@[simp] theorem memPut_cv (x1 : State) (x2) (x3) : (memPut x1 x2 x3).cv = x1.cv :=
  memPut_keeps ((closed_cv x1).sub (K' := 0x400000) (by decide)) x1 x2 x3 rfl
@[simp] theorem memPut_log (x1 : State) (x2) (x3) : (memPut x1 x2 x3).log = x1.log :=
  memPut_keeps ((closed_log x1).sub (K' := 0x400000) (by decide)) x1 x2 x3 rfl
@[simp] theorem memPut_outboxes (x1 : State) (x2) (x3) : (memPut x1 x2 x3).outboxes = x1.outboxes :=
  memPut_keeps ((closed_outboxes x1).sub (K' := 0x400000) (by decide)) x1 x2 x3 rfl
@[simp] theorem memPut_power (x1 : State) (x2) (x3) : (memPut x1 x2 x3).power = x1.power :=
  memPut_keeps ((closed_power x1).sub (K' := 0x400000) (by decide)) x1 x2 x3 rfl

@[simp] theorem reply_pending (x1 : State) (x2) (x3) (x4) : (reply x1 x2 x3 x4).pending = x1.pending :=
  reply_keeps ((closed_pending x1).sub (K' := 0x40000200) (by decide)) x1 x2 x3 x4 rfl
@[simp] theorem reply_part (x1 : State) (x2) (x3) (x4) : (reply x1 x2 x3 x4).part = x1.part :=
  reply_keeps ((closed_part x1).sub (K' := 0x40000200) (by decide)) x1 x2 x3 x4 rfl
@[simp] theorem reply_now (x1 : State) (x2) (x3) (x4) : (reply x1 x2 x3 x4).now = x1.now :=
  reply_keeps ((closed_now x1).sub (K' := 0x40000200) (by decide)) x1 x2 x3 x4 rfl
@[simp] theorem reply_freeIdx (x1 : State) (x2) (x3) (x4) : (reply x1 x2 x3 x4).freeIdx = x1.freeIdx :=
  reply_keeps ((closed_freeIdx x1).sub (K' := 0x40000200) (by decide)) x1 x2 x3 x4 rfl
@[simp] theorem reply_regs (x1 : State) (x2) (x3) (x4) : (reply x1 x2 x3 x4).regs = x1.regs :=
  reply_keeps ((closed_regs x1).sub (K' := 0x40000200) (by decide)) x1 x2 x3 x4 rfl
@[simp] theorem reply_shadow (x1 : State) (x2) (x3) (x4) : (reply x1 x2 x3 x4).shadow = x1.shadow :=
  reply_keeps ((closed_shadow x1).sub (K' := 0x40000200) (by decide)) x1 x2 x3 x4 rfl
@[simp] theorem reply_loRead (x1 : State) (x2) (x3) (x4) : (reply x1 x2 x3 x4).loRead = x1.loRead :=
  reply_keeps ((closed_loRead x1).sub (K' := 0x40000200) (by decide)) x1 x2 x3 x4 rfl
@[simp] theorem reply_loStaged (x1 : State) (x2) (x3) (x4) : (reply x1 x2 x3 x4).loStaged = x1.loStaged :=
  reply_keeps ((closed_loStaged x1).sub (K' := 0x40000200) (by decide)) x1 x2 x3 x4 rfl
@[simp] theorem reply_logRd (x1 : State) (x2) (x3) (x4) : (reply x1 x2 x3 x4).logRd = x1.logRd :=
  reply_keeps ((closed_logRd x1).sub (K' := 0x40000200) (by decide)) x1 x2 x3 x4 rfl
@[simp] theorem reply_tb (x1 : State) (x2) (x3) (x4) : (reply x1 x2 x3 x4).tb = x1.tb :=
  reply_keeps ((closed_tb x1).sub (K' := 0x40000200) (by decide)) x1 x2 x3 x4 rfl
@[simp] theorem reply_seqr (x1 : State) (x2) (x3) (x4) : (reply x1 x2 x3 x4).seqr = x1.seqr :=
  reply_keeps ((closed_seqr x1).sub (K' := 0x40000200) (by decide)) x1 x2 x3 x4 rfl
@[simp] theorem reply_dies (x1 : State) (x2) (x3) (x4) : (reply x1 x2 x3 x4).dies = x1.dies :=
  reply_keeps ((closed_dies x1).sub (K' := 0x40000200) (by decide)) x1 x2 x3 x4 rfl
@[simp] theorem reply_ledgers (x1 : State) (x2) (x3) (x4) : (reply x1 x2 x3 x4).ledgers = x1.ledgers :=
  reply_keeps ((closed_ledgers x1).sub (K' := 0x40000200) (by decide)) x1 x2 x3 x4 rfl
@[simp] theorem reply_boot (x1 : State) (x2) (x3) (x4) : (reply x1 x2 x3 x4).boot = x1.boot :=
  reply_keeps ((closed_boot x1).sub (K' := 0x40000200) (by decide)) x1 x2 x3 x4 rfl
@[simp] theorem reply_flash (x1 : State) (x2) (x3) (x4) : (reply x1 x2 x3 x4).flash = x1.flash :=
  reply_keeps ((closed_flash x1).sub (K' := 0x40000200) (by decide)) x1 x2 x3 x4 rfl
@[simp] theorem reply_img (x1 : State) (x2) (x3) (x4) : (reply x1 x2 x3 x4).img = x1.img :=
  reply_keeps ((closed_img x1).sub (K' := 0x40000200) (by decide)) x1 x2 x3 x4 rfl
@[simp] theorem reply_otp (x1 : State) (x2) (x3) (x4) : (reply x1 x2 x3 x4).otp = x1.otp :=
  reply_keeps ((closed_otp x1).sub (K' := 0x40000200) (by decide)) x1 x2 x3 x4 rfl
@[simp] theorem reply_ports (x1 : State) (x2) (x3) (x4) : (reply x1 x2 x3 x4).ports = x1.ports :=
  reply_keeps ((closed_ports x1).sub (K' := 0x40000200) (by decide)) x1 x2 x3 x4 rfl
@[simp] theorem reply_accesses (x1 : State) (x2) (x3) (x4) : (reply x1 x2 x3 x4).accesses = x1.accesses :=
  reply_keeps ((closed_accesses x1).sub (K' := 0x40000200) (by decide)) x1 x2 x3 x4 rfl
@[simp] theorem reply_accessTag (x1 : State) (x2) (x3) (x4) : (reply x1 x2 x3 x4).accessTag = x1.accessTag :=
  reply_keeps ((closed_accessTag x1).sub (K' := 0x40000200) (by decide)) x1 x2 x3 x4 rfl
@[simp] theorem reply_fabs (x1 : State) (x2) (x3) (x4) : (reply x1 x2 x3 x4).fabs = x1.fabs :=
  reply_keeps ((closed_fabs x1).sub (K' := 0x40000200) (by decide)) x1 x2 x3 x4 rfl
@[simp] theorem reply_mem (x1 : State) (x2) (x3) (x4) : (reply x1 x2 x3 x4).mem = x1.mem :=
  reply_keeps ((closed_mem x1).sub (K' := 0x40000200) (by decide)) x1 x2 x3 x4 rfl
@[simp] theorem reply_eye (x1 : State) (x2) (x3) (x4) : (reply x1 x2 x3 x4).eye = x1.eye :=
  reply_keeps ((closed_eye x1).sub (K' := 0x40000200) (by decide)) x1 x2 x3 x4 rfl
@[simp] theorem reply_isp (x1 : State) (x2) (x3) (x4) : (reply x1 x2 x3 x4).isp = x1.isp :=
  reply_keeps ((closed_isp x1).sub (K' := 0x40000200) (by decide)) x1 x2 x3 x4 rfl
@[simp] theorem reply_comp (x1 : State) (x2) (x3) (x4) : (reply x1 x2 x3 x4).comp = x1.comp :=
  reply_keeps ((closed_comp x1).sub (K' := 0x40000200) (by decide)) x1 x2 x3 x4 rfl
@[simp] theorem reply_det (x1 : State) (x2) (x3) (x4) : (reply x1 x2 x3 x4).det = x1.det :=
  reply_keeps ((closed_det x1).sub (K' := 0x40000200) (by decide)) x1 x2 x3 x4 rfl
@[simp] theorem reply_guard (x1 : State) (x2) (x3) (x4) : (reply x1 x2 x3 x4).guard = x1.guard :=
  reply_keeps ((closed_guard x1).sub (K' := 0x40000200) (by decide)) x1 x2 x3 x4 rfl
@[simp] theorem reply_hv (x1 : State) (x2) (x3) (x4) : (reply x1 x2 x3 x4).hv = x1.hv :=
  reply_keeps ((closed_hv x1).sub (K' := 0x40000200) (by decide)) x1 x2 x3 x4 rfl
@[simp] theorem reply_net (x1 : State) (x2) (x3) (x4) : (reply x1 x2 x3 x4).net = x1.net :=
  reply_keeps ((closed_net x1).sub (K' := 0x40000200) (by decide)) x1 x2 x3 x4 rfl
@[simp] theorem reply_stage (x1 : State) (x2) (x3) (x4) : (reply x1 x2 x3 x4).stage = x1.stage :=
  reply_keeps ((closed_stage x1).sub (K' := 0x40000200) (by decide)) x1 x2 x3 x4 rfl
@[simp] theorem reply_sw (x1 : State) (x2) (x3) (x4) : (reply x1 x2 x3 x4).sw = x1.sw :=
  reply_keeps ((closed_sw x1).sub (K' := 0x40000200) (by decide)) x1 x2 x3 x4 rfl
@[simp] theorem reply_recs (x1 : State) (x2) (x3) (x4) : (reply x1 x2 x3 x4).recs = x1.recs :=
  reply_keeps ((closed_recs x1).sub (K' := 0x40000200) (by decide)) x1 x2 x3 x4 rfl
@[simp] theorem reply_peers (x1 : State) (x2) (x3) (x4) : (reply x1 x2 x3 x4).peers = x1.peers :=
  reply_keeps ((closed_peers x1).sub (K' := 0x40000200) (by decide)) x1 x2 x3 x4 rfl
@[simp] theorem reply_lst (x1 : State) (x2) (x3) (x4) : (reply x1 x2 x3 x4).lst = x1.lst :=
  reply_keeps ((closed_lst x1).sub (K' := 0x40000200) (by decide)) x1 x2 x3 x4 rfl
@[simp] theorem reply_hk (x1 : State) (x2) (x3) (x4) : (reply x1 x2 x3 x4).hk = x1.hk :=
  reply_keeps ((closed_hk x1).sub (K' := 0x40000200) (by decide)) x1 x2 x3 x4 rfl
@[simp] theorem reply_fo (x1 : State) (x2) (x3) (x4) : (reply x1 x2 x3 x4).fo = x1.fo :=
  reply_keeps ((closed_fo x1).sub (K' := 0x40000200) (by decide)) x1 x2 x3 x4 rfl
@[simp] theorem reply_tamper (x1 : State) (x2) (x3) (x4) : (reply x1 x2 x3 x4).tamper = x1.tamper :=
  reply_keeps ((closed_tamper x1).sub (K' := 0x40000200) (by decide)) x1 x2 x3 x4 rfl
@[simp] theorem reply_bus (x1 : State) (x2) (x3) (x4) : (reply x1 x2 x3 x4).bus = x1.bus :=
  reply_keeps ((closed_bus x1).sub (K' := 0x40000200) (by decide)) x1 x2 x3 x4 rfl
@[simp] theorem reply_cv (x1 : State) (x2) (x3) (x4) : (reply x1 x2 x3 x4).cv = x1.cv :=
  reply_keeps ((closed_cv x1).sub (K' := 0x40000200) (by decide)) x1 x2 x3 x4 rfl
@[simp] theorem reply_log (x1 : State) (x2) (x3) (x4) : (reply x1 x2 x3 x4).log = x1.log :=
  reply_keeps ((closed_log x1).sub (K' := 0x40000200) (by decide)) x1 x2 x3 x4 rfl
@[simp] theorem reply_outboxes (x1 : State) (x2) (x3) (x4) : (reply x1 x2 x3 x4).outboxes = x1.outboxes :=
  reply_keeps ((closed_outboxes x1).sub (K' := 0x40000200) (by decide)) x1 x2 x3 x4 rfl
@[simp] theorem reply_power (x1 : State) (x2) (x3) (x4) : (reply x1 x2 x3 x4).power = x1.power :=
  reply_keeps ((closed_power x1).sub (K' := 0x40000200) (by decide)) x1 x2 x3 x4 rfl

end Sys2Proof.Laws
end

