-- ==== Sys2Proof/Laws/State.lean ====
section
/-! SUPPORT. What every update of one field of State leaves of the other fields. -/
namespace Sys2Proof.Machine

@[simp] theorem modDie_dies (s : State) (d : Die) (f : DieSt → DieSt) : (modDie s d f).dies = vmod s.dies d.idx f := rfl
@[simp] theorem modDie_pending (s : State) (d : Die) (f : DieSt → DieSt) : (modDie s d f).pending = s.pending := rfl
@[simp] theorem modDie_part (s : State) (d : Die) (f : DieSt → DieSt) : (modDie s d f).part = s.part := rfl
@[simp] theorem modDie_now (s : State) (d : Die) (f : DieSt → DieSt) : (modDie s d f).now = s.now := rfl
@[simp] theorem modDie_freeIdx (s : State) (d : Die) (f : DieSt → DieSt) : (modDie s d f).freeIdx = s.freeIdx := rfl
@[simp] theorem modDie_regs (s : State) (d : Die) (f : DieSt → DieSt) : (modDie s d f).regs = s.regs := rfl
@[simp] theorem modDie_shadow (s : State) (d : Die) (f : DieSt → DieSt) : (modDie s d f).shadow = s.shadow := rfl
@[simp] theorem modDie_loRead (s : State) (d : Die) (f : DieSt → DieSt) : (modDie s d f).loRead = s.loRead := rfl
@[simp] theorem modDie_loStaged (s : State) (d : Die) (f : DieSt → DieSt) : (modDie s d f).loStaged = s.loStaged := rfl
@[simp] theorem modDie_logRd (s : State) (d : Die) (f : DieSt → DieSt) : (modDie s d f).logRd = s.logRd := rfl
@[simp] theorem modDie_out (s : State) (d : Die) (f : DieSt → DieSt) : (modDie s d f).out = s.out := rfl
@[simp] theorem modDie_tb (s : State) (d : Die) (f : DieSt → DieSt) : (modDie s d f).tb = s.tb := rfl
@[simp] theorem modDie_seqr (s : State) (d : Die) (f : DieSt → DieSt) : (modDie s d f).seqr = s.seqr := rfl
@[simp] theorem modDie_ledgers (s : State) (d : Die) (f : DieSt → DieSt) : (modDie s d f).ledgers = s.ledgers := rfl
@[simp] theorem modDie_boot (s : State) (d : Die) (f : DieSt → DieSt) : (modDie s d f).boot = s.boot := rfl
@[simp] theorem modDie_flash (s : State) (d : Die) (f : DieSt → DieSt) : (modDie s d f).flash = s.flash := rfl
@[simp] theorem modDie_img (s : State) (d : Die) (f : DieSt → DieSt) : (modDie s d f).img = s.img := rfl
@[simp] theorem modDie_otp (s : State) (d : Die) (f : DieSt → DieSt) : (modDie s d f).otp = s.otp := rfl
@[simp] theorem modDie_ports (s : State) (d : Die) (f : DieSt → DieSt) : (modDie s d f).ports = s.ports := rfl
@[simp] theorem modDie_accesses (s : State) (d : Die) (f : DieSt → DieSt) : (modDie s d f).accesses = s.accesses := rfl
@[simp] theorem modDie_accessTag (s : State) (d : Die) (f : DieSt → DieSt) : (modDie s d f).accessTag = s.accessTag := rfl
@[simp] theorem modDie_fabs (s : State) (d : Die) (f : DieSt → DieSt) : (modDie s d f).fabs = s.fabs := rfl
@[simp] theorem modDie_mem (s : State) (d : Die) (f : DieSt → DieSt) : (modDie s d f).mem = s.mem := rfl
@[simp] theorem modDie_eye (s : State) (d : Die) (f : DieSt → DieSt) : (modDie s d f).eye = s.eye := rfl
@[simp] theorem modDie_isp (s : State) (d : Die) (f : DieSt → DieSt) : (modDie s d f).isp = s.isp := rfl
@[simp] theorem modDie_comp (s : State) (d : Die) (f : DieSt → DieSt) : (modDie s d f).comp = s.comp := rfl
@[simp] theorem modDie_det (s : State) (d : Die) (f : DieSt → DieSt) : (modDie s d f).det = s.det := rfl
@[simp] theorem modDie_guard (s : State) (d : Die) (f : DieSt → DieSt) : (modDie s d f).guard = s.guard := rfl
@[simp] theorem modDie_hv (s : State) (d : Die) (f : DieSt → DieSt) : (modDie s d f).hv = s.hv := rfl
@[simp] theorem modDie_net (s : State) (d : Die) (f : DieSt → DieSt) : (modDie s d f).net = s.net := rfl
@[simp] theorem modDie_bcp (s : State) (d : Die) (f : DieSt → DieSt) : (modDie s d f).bcp = s.bcp := rfl
@[simp] theorem modDie_stage (s : State) (d : Die) (f : DieSt → DieSt) : (modDie s d f).stage = s.stage := rfl
@[simp] theorem modDie_sw (s : State) (d : Die) (f : DieSt → DieSt) : (modDie s d f).sw = s.sw := rfl
@[simp] theorem modDie_recs (s : State) (d : Die) (f : DieSt → DieSt) : (modDie s d f).recs = s.recs := rfl
@[simp] theorem modDie_peers (s : State) (d : Die) (f : DieSt → DieSt) : (modDie s d f).peers = s.peers := rfl
@[simp] theorem modDie_lst (s : State) (d : Die) (f : DieSt → DieSt) : (modDie s d f).lst = s.lst := rfl
@[simp] theorem modDie_hk (s : State) (d : Die) (f : DieSt → DieSt) : (modDie s d f).hk = s.hk := rfl
@[simp] theorem modDie_fo (s : State) (d : Die) (f : DieSt → DieSt) : (modDie s d f).fo = s.fo := rfl
@[simp] theorem modDie_tamper (s : State) (d : Die) (f : DieSt → DieSt) : (modDie s d f).tamper = s.tamper := rfl
@[simp] theorem modDie_bus (s : State) (d : Die) (f : DieSt → DieSt) : (modDie s d f).bus = s.bus := rfl
@[simp] theorem modDie_cv (s : State) (d : Die) (f : DieSt → DieSt) : (modDie s d f).cv = s.cv := rfl
@[simp] theorem modDie_log (s : State) (d : Die) (f : DieSt → DieSt) : (modDie s d f).log = s.log := rfl
@[simp] theorem modDie_outboxes (s : State) (d : Die) (f : DieSt → DieSt) : (modDie s d f).outboxes = s.outboxes := rfl
@[simp] theorem modDie_power (s : State) (d : Die) (f : DieSt → DieSt) : (modDie s d f).power = s.power := rfl

@[simp] theorem modPort_ports (s : State) (p : PortId) (f : EdlPort → EdlPort) : (modPort s p f).ports = vmod s.ports p.idx f := rfl
@[simp] theorem modPort_pending (s : State) (p : PortId) (f : EdlPort → EdlPort) : (modPort s p f).pending = s.pending := rfl
@[simp] theorem modPort_part (s : State) (p : PortId) (f : EdlPort → EdlPort) : (modPort s p f).part = s.part := rfl
@[simp] theorem modPort_now (s : State) (p : PortId) (f : EdlPort → EdlPort) : (modPort s p f).now = s.now := rfl
@[simp] theorem modPort_freeIdx (s : State) (p : PortId) (f : EdlPort → EdlPort) : (modPort s p f).freeIdx = s.freeIdx := rfl
@[simp] theorem modPort_regs (s : State) (p : PortId) (f : EdlPort → EdlPort) : (modPort s p f).regs = s.regs := rfl
@[simp] theorem modPort_shadow (s : State) (p : PortId) (f : EdlPort → EdlPort) : (modPort s p f).shadow = s.shadow := rfl
@[simp] theorem modPort_loRead (s : State) (p : PortId) (f : EdlPort → EdlPort) : (modPort s p f).loRead = s.loRead := rfl
@[simp] theorem modPort_loStaged (s : State) (p : PortId) (f : EdlPort → EdlPort) : (modPort s p f).loStaged = s.loStaged := rfl
@[simp] theorem modPort_logRd (s : State) (p : PortId) (f : EdlPort → EdlPort) : (modPort s p f).logRd = s.logRd := rfl
@[simp] theorem modPort_out (s : State) (p : PortId) (f : EdlPort → EdlPort) : (modPort s p f).out = s.out := rfl
@[simp] theorem modPort_tb (s : State) (p : PortId) (f : EdlPort → EdlPort) : (modPort s p f).tb = s.tb := rfl
@[simp] theorem modPort_seqr (s : State) (p : PortId) (f : EdlPort → EdlPort) : (modPort s p f).seqr = s.seqr := rfl
@[simp] theorem modPort_dies (s : State) (p : PortId) (f : EdlPort → EdlPort) : (modPort s p f).dies = s.dies := rfl
@[simp] theorem modPort_ledgers (s : State) (p : PortId) (f : EdlPort → EdlPort) : (modPort s p f).ledgers = s.ledgers := rfl
@[simp] theorem modPort_boot (s : State) (p : PortId) (f : EdlPort → EdlPort) : (modPort s p f).boot = s.boot := rfl
@[simp] theorem modPort_flash (s : State) (p : PortId) (f : EdlPort → EdlPort) : (modPort s p f).flash = s.flash := rfl
@[simp] theorem modPort_img (s : State) (p : PortId) (f : EdlPort → EdlPort) : (modPort s p f).img = s.img := rfl
@[simp] theorem modPort_otp (s : State) (p : PortId) (f : EdlPort → EdlPort) : (modPort s p f).otp = s.otp := rfl
@[simp] theorem modPort_accesses (s : State) (p : PortId) (f : EdlPort → EdlPort) : (modPort s p f).accesses = s.accesses := rfl
@[simp] theorem modPort_accessTag (s : State) (p : PortId) (f : EdlPort → EdlPort) : (modPort s p f).accessTag = s.accessTag := rfl
@[simp] theorem modPort_fabs (s : State) (p : PortId) (f : EdlPort → EdlPort) : (modPort s p f).fabs = s.fabs := rfl
@[simp] theorem modPort_mem (s : State) (p : PortId) (f : EdlPort → EdlPort) : (modPort s p f).mem = s.mem := rfl
@[simp] theorem modPort_eye (s : State) (p : PortId) (f : EdlPort → EdlPort) : (modPort s p f).eye = s.eye := rfl
@[simp] theorem modPort_isp (s : State) (p : PortId) (f : EdlPort → EdlPort) : (modPort s p f).isp = s.isp := rfl
@[simp] theorem modPort_comp (s : State) (p : PortId) (f : EdlPort → EdlPort) : (modPort s p f).comp = s.comp := rfl
@[simp] theorem modPort_det (s : State) (p : PortId) (f : EdlPort → EdlPort) : (modPort s p f).det = s.det := rfl
@[simp] theorem modPort_guard (s : State) (p : PortId) (f : EdlPort → EdlPort) : (modPort s p f).guard = s.guard := rfl
@[simp] theorem modPort_hv (s : State) (p : PortId) (f : EdlPort → EdlPort) : (modPort s p f).hv = s.hv := rfl
@[simp] theorem modPort_net (s : State) (p : PortId) (f : EdlPort → EdlPort) : (modPort s p f).net = s.net := rfl
@[simp] theorem modPort_bcp (s : State) (p : PortId) (f : EdlPort → EdlPort) : (modPort s p f).bcp = s.bcp := rfl
@[simp] theorem modPort_stage (s : State) (p : PortId) (f : EdlPort → EdlPort) : (modPort s p f).stage = s.stage := rfl
@[simp] theorem modPort_sw (s : State) (p : PortId) (f : EdlPort → EdlPort) : (modPort s p f).sw = s.sw := rfl
@[simp] theorem modPort_recs (s : State) (p : PortId) (f : EdlPort → EdlPort) : (modPort s p f).recs = s.recs := rfl
@[simp] theorem modPort_peers (s : State) (p : PortId) (f : EdlPort → EdlPort) : (modPort s p f).peers = s.peers := rfl
@[simp] theorem modPort_lst (s : State) (p : PortId) (f : EdlPort → EdlPort) : (modPort s p f).lst = s.lst := rfl
@[simp] theorem modPort_hk (s : State) (p : PortId) (f : EdlPort → EdlPort) : (modPort s p f).hk = s.hk := rfl
@[simp] theorem modPort_fo (s : State) (p : PortId) (f : EdlPort → EdlPort) : (modPort s p f).fo = s.fo := rfl
@[simp] theorem modPort_tamper (s : State) (p : PortId) (f : EdlPort → EdlPort) : (modPort s p f).tamper = s.tamper := rfl
@[simp] theorem modPort_bus (s : State) (p : PortId) (f : EdlPort → EdlPort) : (modPort s p f).bus = s.bus := rfl
@[simp] theorem modPort_cv (s : State) (p : PortId) (f : EdlPort → EdlPort) : (modPort s p f).cv = s.cv := rfl
@[simp] theorem modPort_log (s : State) (p : PortId) (f : EdlPort → EdlPort) : (modPort s p f).log = s.log := rfl
@[simp] theorem modPort_outboxes (s : State) (p : PortId) (f : EdlPort → EdlPort) : (modPort s p f).outboxes = s.outboxes := rfl
@[simp] theorem modPort_power (s : State) (p : PortId) (f : EdlPort → EdlPort) : (modPort s p f).power = s.power := rfl

@[simp] theorem modFab_fabs (s : State) (cd : Nat) (f : Fabric → Fabric) : (modFab s cd f).fabs = vmod s.fabs cd f := rfl
@[simp] theorem modFab_pending (s : State) (cd : Nat) (f : Fabric → Fabric) : (modFab s cd f).pending = s.pending := rfl
@[simp] theorem modFab_part (s : State) (cd : Nat) (f : Fabric → Fabric) : (modFab s cd f).part = s.part := rfl
@[simp] theorem modFab_now (s : State) (cd : Nat) (f : Fabric → Fabric) : (modFab s cd f).now = s.now := rfl
@[simp] theorem modFab_freeIdx (s : State) (cd : Nat) (f : Fabric → Fabric) : (modFab s cd f).freeIdx = s.freeIdx := rfl
@[simp] theorem modFab_regs (s : State) (cd : Nat) (f : Fabric → Fabric) : (modFab s cd f).regs = s.regs := rfl
@[simp] theorem modFab_shadow (s : State) (cd : Nat) (f : Fabric → Fabric) : (modFab s cd f).shadow = s.shadow := rfl
@[simp] theorem modFab_loRead (s : State) (cd : Nat) (f : Fabric → Fabric) : (modFab s cd f).loRead = s.loRead := rfl
@[simp] theorem modFab_loStaged (s : State) (cd : Nat) (f : Fabric → Fabric) : (modFab s cd f).loStaged = s.loStaged := rfl
@[simp] theorem modFab_logRd (s : State) (cd : Nat) (f : Fabric → Fabric) : (modFab s cd f).logRd = s.logRd := rfl
@[simp] theorem modFab_out (s : State) (cd : Nat) (f : Fabric → Fabric) : (modFab s cd f).out = s.out := rfl
@[simp] theorem modFab_tb (s : State) (cd : Nat) (f : Fabric → Fabric) : (modFab s cd f).tb = s.tb := rfl
@[simp] theorem modFab_seqr (s : State) (cd : Nat) (f : Fabric → Fabric) : (modFab s cd f).seqr = s.seqr := rfl
@[simp] theorem modFab_dies (s : State) (cd : Nat) (f : Fabric → Fabric) : (modFab s cd f).dies = s.dies := rfl
@[simp] theorem modFab_ledgers (s : State) (cd : Nat) (f : Fabric → Fabric) : (modFab s cd f).ledgers = s.ledgers := rfl
@[simp] theorem modFab_boot (s : State) (cd : Nat) (f : Fabric → Fabric) : (modFab s cd f).boot = s.boot := rfl
@[simp] theorem modFab_flash (s : State) (cd : Nat) (f : Fabric → Fabric) : (modFab s cd f).flash = s.flash := rfl
@[simp] theorem modFab_img (s : State) (cd : Nat) (f : Fabric → Fabric) : (modFab s cd f).img = s.img := rfl
@[simp] theorem modFab_otp (s : State) (cd : Nat) (f : Fabric → Fabric) : (modFab s cd f).otp = s.otp := rfl
@[simp] theorem modFab_ports (s : State) (cd : Nat) (f : Fabric → Fabric) : (modFab s cd f).ports = s.ports := rfl
@[simp] theorem modFab_accesses (s : State) (cd : Nat) (f : Fabric → Fabric) : (modFab s cd f).accesses = s.accesses := rfl
@[simp] theorem modFab_accessTag (s : State) (cd : Nat) (f : Fabric → Fabric) : (modFab s cd f).accessTag = s.accessTag := rfl
@[simp] theorem modFab_mem (s : State) (cd : Nat) (f : Fabric → Fabric) : (modFab s cd f).mem = s.mem := rfl
@[simp] theorem modFab_eye (s : State) (cd : Nat) (f : Fabric → Fabric) : (modFab s cd f).eye = s.eye := rfl
@[simp] theorem modFab_isp (s : State) (cd : Nat) (f : Fabric → Fabric) : (modFab s cd f).isp = s.isp := rfl
@[simp] theorem modFab_comp (s : State) (cd : Nat) (f : Fabric → Fabric) : (modFab s cd f).comp = s.comp := rfl
@[simp] theorem modFab_det (s : State) (cd : Nat) (f : Fabric → Fabric) : (modFab s cd f).det = s.det := rfl
@[simp] theorem modFab_guard (s : State) (cd : Nat) (f : Fabric → Fabric) : (modFab s cd f).guard = s.guard := rfl
@[simp] theorem modFab_hv (s : State) (cd : Nat) (f : Fabric → Fabric) : (modFab s cd f).hv = s.hv := rfl
@[simp] theorem modFab_net (s : State) (cd : Nat) (f : Fabric → Fabric) : (modFab s cd f).net = s.net := rfl
@[simp] theorem modFab_bcp (s : State) (cd : Nat) (f : Fabric → Fabric) : (modFab s cd f).bcp = s.bcp := rfl
@[simp] theorem modFab_stage (s : State) (cd : Nat) (f : Fabric → Fabric) : (modFab s cd f).stage = s.stage := rfl
@[simp] theorem modFab_sw (s : State) (cd : Nat) (f : Fabric → Fabric) : (modFab s cd f).sw = s.sw := rfl
@[simp] theorem modFab_recs (s : State) (cd : Nat) (f : Fabric → Fabric) : (modFab s cd f).recs = s.recs := rfl
@[simp] theorem modFab_peers (s : State) (cd : Nat) (f : Fabric → Fabric) : (modFab s cd f).peers = s.peers := rfl
@[simp] theorem modFab_lst (s : State) (cd : Nat) (f : Fabric → Fabric) : (modFab s cd f).lst = s.lst := rfl
@[simp] theorem modFab_hk (s : State) (cd : Nat) (f : Fabric → Fabric) : (modFab s cd f).hk = s.hk := rfl
@[simp] theorem modFab_fo (s : State) (cd : Nat) (f : Fabric → Fabric) : (modFab s cd f).fo = s.fo := rfl
@[simp] theorem modFab_tamper (s : State) (cd : Nat) (f : Fabric → Fabric) : (modFab s cd f).tamper = s.tamper := rfl
@[simp] theorem modFab_bus (s : State) (cd : Nat) (f : Fabric → Fabric) : (modFab s cd f).bus = s.bus := rfl
@[simp] theorem modFab_cv (s : State) (cd : Nat) (f : Fabric → Fabric) : (modFab s cd f).cv = s.cv := rfl
@[simp] theorem modFab_log (s : State) (cd : Nat) (f : Fabric → Fabric) : (modFab s cd f).log = s.log := rfl
@[simp] theorem modFab_outboxes (s : State) (cd : Nat) (f : Fabric → Fabric) : (modFab s cd f).outboxes = s.outboxes := rfl
@[simp] theorem modFab_power (s : State) (cd : Nat) (f : Fabric → Fabric) : (modFab s cd f).power = s.power := rfl

@[simp] theorem modComp_comp (s : State) (cd : Nat) (f : Compute → Compute) : (modComp s cd f).comp = s.comp.setIfInBounds cd (f (s.cdie cd)) := rfl
@[simp] theorem modComp_pending (s : State) (cd : Nat) (f : Compute → Compute) : (modComp s cd f).pending = s.pending := rfl
@[simp] theorem modComp_part (s : State) (cd : Nat) (f : Compute → Compute) : (modComp s cd f).part = s.part := rfl
@[simp] theorem modComp_now (s : State) (cd : Nat) (f : Compute → Compute) : (modComp s cd f).now = s.now := rfl
@[simp] theorem modComp_freeIdx (s : State) (cd : Nat) (f : Compute → Compute) : (modComp s cd f).freeIdx = s.freeIdx := rfl
@[simp] theorem modComp_regs (s : State) (cd : Nat) (f : Compute → Compute) : (modComp s cd f).regs = s.regs := rfl
@[simp] theorem modComp_shadow (s : State) (cd : Nat) (f : Compute → Compute) : (modComp s cd f).shadow = s.shadow := rfl
@[simp] theorem modComp_loRead (s : State) (cd : Nat) (f : Compute → Compute) : (modComp s cd f).loRead = s.loRead := rfl
@[simp] theorem modComp_loStaged (s : State) (cd : Nat) (f : Compute → Compute) : (modComp s cd f).loStaged = s.loStaged := rfl
@[simp] theorem modComp_logRd (s : State) (cd : Nat) (f : Compute → Compute) : (modComp s cd f).logRd = s.logRd := rfl
@[simp] theorem modComp_out (s : State) (cd : Nat) (f : Compute → Compute) : (modComp s cd f).out = s.out := rfl
@[simp] theorem modComp_tb (s : State) (cd : Nat) (f : Compute → Compute) : (modComp s cd f).tb = s.tb := rfl
@[simp] theorem modComp_seqr (s : State) (cd : Nat) (f : Compute → Compute) : (modComp s cd f).seqr = s.seqr := rfl
@[simp] theorem modComp_dies (s : State) (cd : Nat) (f : Compute → Compute) : (modComp s cd f).dies = s.dies := rfl
@[simp] theorem modComp_ledgers (s : State) (cd : Nat) (f : Compute → Compute) : (modComp s cd f).ledgers = s.ledgers := rfl
@[simp] theorem modComp_boot (s : State) (cd : Nat) (f : Compute → Compute) : (modComp s cd f).boot = s.boot := rfl
@[simp] theorem modComp_flash (s : State) (cd : Nat) (f : Compute → Compute) : (modComp s cd f).flash = s.flash := rfl
@[simp] theorem modComp_img (s : State) (cd : Nat) (f : Compute → Compute) : (modComp s cd f).img = s.img := rfl
@[simp] theorem modComp_otp (s : State) (cd : Nat) (f : Compute → Compute) : (modComp s cd f).otp = s.otp := rfl
@[simp] theorem modComp_ports (s : State) (cd : Nat) (f : Compute → Compute) : (modComp s cd f).ports = s.ports := rfl
@[simp] theorem modComp_accesses (s : State) (cd : Nat) (f : Compute → Compute) : (modComp s cd f).accesses = s.accesses := rfl
@[simp] theorem modComp_accessTag (s : State) (cd : Nat) (f : Compute → Compute) : (modComp s cd f).accessTag = s.accessTag := rfl
@[simp] theorem modComp_fabs (s : State) (cd : Nat) (f : Compute → Compute) : (modComp s cd f).fabs = s.fabs := rfl
@[simp] theorem modComp_mem (s : State) (cd : Nat) (f : Compute → Compute) : (modComp s cd f).mem = s.mem := rfl
@[simp] theorem modComp_eye (s : State) (cd : Nat) (f : Compute → Compute) : (modComp s cd f).eye = s.eye := rfl
@[simp] theorem modComp_isp (s : State) (cd : Nat) (f : Compute → Compute) : (modComp s cd f).isp = s.isp := rfl
@[simp] theorem modComp_det (s : State) (cd : Nat) (f : Compute → Compute) : (modComp s cd f).det = s.det := rfl
@[simp] theorem modComp_guard (s : State) (cd : Nat) (f : Compute → Compute) : (modComp s cd f).guard = s.guard := rfl
@[simp] theorem modComp_hv (s : State) (cd : Nat) (f : Compute → Compute) : (modComp s cd f).hv = s.hv := rfl
@[simp] theorem modComp_net (s : State) (cd : Nat) (f : Compute → Compute) : (modComp s cd f).net = s.net := rfl
@[simp] theorem modComp_bcp (s : State) (cd : Nat) (f : Compute → Compute) : (modComp s cd f).bcp = s.bcp := rfl
@[simp] theorem modComp_stage (s : State) (cd : Nat) (f : Compute → Compute) : (modComp s cd f).stage = s.stage := rfl
@[simp] theorem modComp_sw (s : State) (cd : Nat) (f : Compute → Compute) : (modComp s cd f).sw = s.sw := rfl
@[simp] theorem modComp_recs (s : State) (cd : Nat) (f : Compute → Compute) : (modComp s cd f).recs = s.recs := rfl
@[simp] theorem modComp_peers (s : State) (cd : Nat) (f : Compute → Compute) : (modComp s cd f).peers = s.peers := rfl
@[simp] theorem modComp_lst (s : State) (cd : Nat) (f : Compute → Compute) : (modComp s cd f).lst = s.lst := rfl
@[simp] theorem modComp_hk (s : State) (cd : Nat) (f : Compute → Compute) : (modComp s cd f).hk = s.hk := rfl
@[simp] theorem modComp_fo (s : State) (cd : Nat) (f : Compute → Compute) : (modComp s cd f).fo = s.fo := rfl
@[simp] theorem modComp_tamper (s : State) (cd : Nat) (f : Compute → Compute) : (modComp s cd f).tamper = s.tamper := rfl
@[simp] theorem modComp_bus (s : State) (cd : Nat) (f : Compute → Compute) : (modComp s cd f).bus = s.bus := rfl
@[simp] theorem modComp_cv (s : State) (cd : Nat) (f : Compute → Compute) : (modComp s cd f).cv = s.cv := rfl
@[simp] theorem modComp_log (s : State) (cd : Nat) (f : Compute → Compute) : (modComp s cd f).log = s.log := rfl
@[simp] theorem modComp_outboxes (s : State) (cd : Nat) (f : Compute → Compute) : (modComp s cd f).outboxes = s.outboxes := rfl
@[simp] theorem modComp_power (s : State) (cd : Nat) (f : Compute → Compute) : (modComp s cd f).power = s.power := rfl

@[simp] theorem modDet_det (s : State) (cd : Nat) (f : DetSt → DetSt) : (modDet s cd f).det = vmod s.det cd f := rfl
@[simp] theorem modDet_pending (s : State) (cd : Nat) (f : DetSt → DetSt) : (modDet s cd f).pending = s.pending := rfl
@[simp] theorem modDet_part (s : State) (cd : Nat) (f : DetSt → DetSt) : (modDet s cd f).part = s.part := rfl
@[simp] theorem modDet_now (s : State) (cd : Nat) (f : DetSt → DetSt) : (modDet s cd f).now = s.now := rfl
@[simp] theorem modDet_freeIdx (s : State) (cd : Nat) (f : DetSt → DetSt) : (modDet s cd f).freeIdx = s.freeIdx := rfl
@[simp] theorem modDet_regs (s : State) (cd : Nat) (f : DetSt → DetSt) : (modDet s cd f).regs = s.regs := rfl
@[simp] theorem modDet_shadow (s : State) (cd : Nat) (f : DetSt → DetSt) : (modDet s cd f).shadow = s.shadow := rfl
@[simp] theorem modDet_loRead (s : State) (cd : Nat) (f : DetSt → DetSt) : (modDet s cd f).loRead = s.loRead := rfl
@[simp] theorem modDet_loStaged (s : State) (cd : Nat) (f : DetSt → DetSt) : (modDet s cd f).loStaged = s.loStaged := rfl
@[simp] theorem modDet_logRd (s : State) (cd : Nat) (f : DetSt → DetSt) : (modDet s cd f).logRd = s.logRd := rfl
@[simp] theorem modDet_out (s : State) (cd : Nat) (f : DetSt → DetSt) : (modDet s cd f).out = s.out := rfl
@[simp] theorem modDet_tb (s : State) (cd : Nat) (f : DetSt → DetSt) : (modDet s cd f).tb = s.tb := rfl
@[simp] theorem modDet_seqr (s : State) (cd : Nat) (f : DetSt → DetSt) : (modDet s cd f).seqr = s.seqr := rfl
@[simp] theorem modDet_dies (s : State) (cd : Nat) (f : DetSt → DetSt) : (modDet s cd f).dies = s.dies := rfl
@[simp] theorem modDet_ledgers (s : State) (cd : Nat) (f : DetSt → DetSt) : (modDet s cd f).ledgers = s.ledgers := rfl
@[simp] theorem modDet_boot (s : State) (cd : Nat) (f : DetSt → DetSt) : (modDet s cd f).boot = s.boot := rfl
@[simp] theorem modDet_flash (s : State) (cd : Nat) (f : DetSt → DetSt) : (modDet s cd f).flash = s.flash := rfl
@[simp] theorem modDet_img (s : State) (cd : Nat) (f : DetSt → DetSt) : (modDet s cd f).img = s.img := rfl
@[simp] theorem modDet_otp (s : State) (cd : Nat) (f : DetSt → DetSt) : (modDet s cd f).otp = s.otp := rfl
@[simp] theorem modDet_ports (s : State) (cd : Nat) (f : DetSt → DetSt) : (modDet s cd f).ports = s.ports := rfl
@[simp] theorem modDet_accesses (s : State) (cd : Nat) (f : DetSt → DetSt) : (modDet s cd f).accesses = s.accesses := rfl
@[simp] theorem modDet_accessTag (s : State) (cd : Nat) (f : DetSt → DetSt) : (modDet s cd f).accessTag = s.accessTag := rfl
@[simp] theorem modDet_fabs (s : State) (cd : Nat) (f : DetSt → DetSt) : (modDet s cd f).fabs = s.fabs := rfl
@[simp] theorem modDet_mem (s : State) (cd : Nat) (f : DetSt → DetSt) : (modDet s cd f).mem = s.mem := rfl
@[simp] theorem modDet_eye (s : State) (cd : Nat) (f : DetSt → DetSt) : (modDet s cd f).eye = s.eye := rfl
@[simp] theorem modDet_isp (s : State) (cd : Nat) (f : DetSt → DetSt) : (modDet s cd f).isp = s.isp := rfl
@[simp] theorem modDet_comp (s : State) (cd : Nat) (f : DetSt → DetSt) : (modDet s cd f).comp = s.comp := rfl
@[simp] theorem modDet_guard (s : State) (cd : Nat) (f : DetSt → DetSt) : (modDet s cd f).guard = s.guard := rfl
@[simp] theorem modDet_hv (s : State) (cd : Nat) (f : DetSt → DetSt) : (modDet s cd f).hv = s.hv := rfl
@[simp] theorem modDet_net (s : State) (cd : Nat) (f : DetSt → DetSt) : (modDet s cd f).net = s.net := rfl
@[simp] theorem modDet_bcp (s : State) (cd : Nat) (f : DetSt → DetSt) : (modDet s cd f).bcp = s.bcp := rfl
@[simp] theorem modDet_stage (s : State) (cd : Nat) (f : DetSt → DetSt) : (modDet s cd f).stage = s.stage := rfl
@[simp] theorem modDet_sw (s : State) (cd : Nat) (f : DetSt → DetSt) : (modDet s cd f).sw = s.sw := rfl
@[simp] theorem modDet_recs (s : State) (cd : Nat) (f : DetSt → DetSt) : (modDet s cd f).recs = s.recs := rfl
@[simp] theorem modDet_peers (s : State) (cd : Nat) (f : DetSt → DetSt) : (modDet s cd f).peers = s.peers := rfl
@[simp] theorem modDet_lst (s : State) (cd : Nat) (f : DetSt → DetSt) : (modDet s cd f).lst = s.lst := rfl
@[simp] theorem modDet_hk (s : State) (cd : Nat) (f : DetSt → DetSt) : (modDet s cd f).hk = s.hk := rfl
@[simp] theorem modDet_fo (s : State) (cd : Nat) (f : DetSt → DetSt) : (modDet s cd f).fo = s.fo := rfl
@[simp] theorem modDet_tamper (s : State) (cd : Nat) (f : DetSt → DetSt) : (modDet s cd f).tamper = s.tamper := rfl
@[simp] theorem modDet_bus (s : State) (cd : Nat) (f : DetSt → DetSt) : (modDet s cd f).bus = s.bus := rfl
@[simp] theorem modDet_cv (s : State) (cd : Nat) (f : DetSt → DetSt) : (modDet s cd f).cv = s.cv := rfl
@[simp] theorem modDet_log (s : State) (cd : Nat) (f : DetSt → DetSt) : (modDet s cd f).log = s.log := rfl
@[simp] theorem modDet_outboxes (s : State) (cd : Nat) (f : DetSt → DetSt) : (modDet s cd f).outboxes = s.outboxes := rfl
@[simp] theorem modDet_power (s : State) (cd : Nat) (f : DetSt → DetSt) : (modDet s cd f).power = s.power := rfl

@[simp] theorem modLedger_ledgers (s : State) (cd : Nat) (f : List (Nat × LedgerLine) → List (Nat × LedgerLine)) : (modLedger s cd f).ledgers = vmod s.ledgers cd f := rfl
@[simp] theorem modLedger_pending (s : State) (cd : Nat) (f : List (Nat × LedgerLine) → List (Nat × LedgerLine)) : (modLedger s cd f).pending = s.pending := rfl
@[simp] theorem modLedger_part (s : State) (cd : Nat) (f : List (Nat × LedgerLine) → List (Nat × LedgerLine)) : (modLedger s cd f).part = s.part := rfl
@[simp] theorem modLedger_now (s : State) (cd : Nat) (f : List (Nat × LedgerLine) → List (Nat × LedgerLine)) : (modLedger s cd f).now = s.now := rfl
@[simp] theorem modLedger_freeIdx (s : State) (cd : Nat) (f : List (Nat × LedgerLine) → List (Nat × LedgerLine)) : (modLedger s cd f).freeIdx = s.freeIdx := rfl
@[simp] theorem modLedger_regs (s : State) (cd : Nat) (f : List (Nat × LedgerLine) → List (Nat × LedgerLine)) : (modLedger s cd f).regs = s.regs := rfl
@[simp] theorem modLedger_shadow (s : State) (cd : Nat) (f : List (Nat × LedgerLine) → List (Nat × LedgerLine)) : (modLedger s cd f).shadow = s.shadow := rfl
@[simp] theorem modLedger_loRead (s : State) (cd : Nat) (f : List (Nat × LedgerLine) → List (Nat × LedgerLine)) : (modLedger s cd f).loRead = s.loRead := rfl
@[simp] theorem modLedger_loStaged (s : State) (cd : Nat) (f : List (Nat × LedgerLine) → List (Nat × LedgerLine)) : (modLedger s cd f).loStaged = s.loStaged := rfl
@[simp] theorem modLedger_logRd (s : State) (cd : Nat) (f : List (Nat × LedgerLine) → List (Nat × LedgerLine)) : (modLedger s cd f).logRd = s.logRd := rfl
@[simp] theorem modLedger_out (s : State) (cd : Nat) (f : List (Nat × LedgerLine) → List (Nat × LedgerLine)) : (modLedger s cd f).out = s.out := rfl
@[simp] theorem modLedger_tb (s : State) (cd : Nat) (f : List (Nat × LedgerLine) → List (Nat × LedgerLine)) : (modLedger s cd f).tb = s.tb := rfl
@[simp] theorem modLedger_seqr (s : State) (cd : Nat) (f : List (Nat × LedgerLine) → List (Nat × LedgerLine)) : (modLedger s cd f).seqr = s.seqr := rfl
@[simp] theorem modLedger_dies (s : State) (cd : Nat) (f : List (Nat × LedgerLine) → List (Nat × LedgerLine)) : (modLedger s cd f).dies = s.dies := rfl
@[simp] theorem modLedger_boot (s : State) (cd : Nat) (f : List (Nat × LedgerLine) → List (Nat × LedgerLine)) : (modLedger s cd f).boot = s.boot := rfl
@[simp] theorem modLedger_flash (s : State) (cd : Nat) (f : List (Nat × LedgerLine) → List (Nat × LedgerLine)) : (modLedger s cd f).flash = s.flash := rfl
@[simp] theorem modLedger_img (s : State) (cd : Nat) (f : List (Nat × LedgerLine) → List (Nat × LedgerLine)) : (modLedger s cd f).img = s.img := rfl
@[simp] theorem modLedger_otp (s : State) (cd : Nat) (f : List (Nat × LedgerLine) → List (Nat × LedgerLine)) : (modLedger s cd f).otp = s.otp := rfl
@[simp] theorem modLedger_ports (s : State) (cd : Nat) (f : List (Nat × LedgerLine) → List (Nat × LedgerLine)) : (modLedger s cd f).ports = s.ports := rfl
@[simp] theorem modLedger_accesses (s : State) (cd : Nat) (f : List (Nat × LedgerLine) → List (Nat × LedgerLine)) : (modLedger s cd f).accesses = s.accesses := rfl
@[simp] theorem modLedger_accessTag (s : State) (cd : Nat) (f : List (Nat × LedgerLine) → List (Nat × LedgerLine)) : (modLedger s cd f).accessTag = s.accessTag := rfl
@[simp] theorem modLedger_fabs (s : State) (cd : Nat) (f : List (Nat × LedgerLine) → List (Nat × LedgerLine)) : (modLedger s cd f).fabs = s.fabs := rfl
@[simp] theorem modLedger_mem (s : State) (cd : Nat) (f : List (Nat × LedgerLine) → List (Nat × LedgerLine)) : (modLedger s cd f).mem = s.mem := rfl
@[simp] theorem modLedger_eye (s : State) (cd : Nat) (f : List (Nat × LedgerLine) → List (Nat × LedgerLine)) : (modLedger s cd f).eye = s.eye := rfl
@[simp] theorem modLedger_isp (s : State) (cd : Nat) (f : List (Nat × LedgerLine) → List (Nat × LedgerLine)) : (modLedger s cd f).isp = s.isp := rfl
@[simp] theorem modLedger_comp (s : State) (cd : Nat) (f : List (Nat × LedgerLine) → List (Nat × LedgerLine)) : (modLedger s cd f).comp = s.comp := rfl
@[simp] theorem modLedger_det (s : State) (cd : Nat) (f : List (Nat × LedgerLine) → List (Nat × LedgerLine)) : (modLedger s cd f).det = s.det := rfl
@[simp] theorem modLedger_guard (s : State) (cd : Nat) (f : List (Nat × LedgerLine) → List (Nat × LedgerLine)) : (modLedger s cd f).guard = s.guard := rfl
@[simp] theorem modLedger_hv (s : State) (cd : Nat) (f : List (Nat × LedgerLine) → List (Nat × LedgerLine)) : (modLedger s cd f).hv = s.hv := rfl
@[simp] theorem modLedger_net (s : State) (cd : Nat) (f : List (Nat × LedgerLine) → List (Nat × LedgerLine)) : (modLedger s cd f).net = s.net := rfl
@[simp] theorem modLedger_bcp (s : State) (cd : Nat) (f : List (Nat × LedgerLine) → List (Nat × LedgerLine)) : (modLedger s cd f).bcp = s.bcp := rfl
@[simp] theorem modLedger_stage (s : State) (cd : Nat) (f : List (Nat × LedgerLine) → List (Nat × LedgerLine)) : (modLedger s cd f).stage = s.stage := rfl
@[simp] theorem modLedger_sw (s : State) (cd : Nat) (f : List (Nat × LedgerLine) → List (Nat × LedgerLine)) : (modLedger s cd f).sw = s.sw := rfl
@[simp] theorem modLedger_recs (s : State) (cd : Nat) (f : List (Nat × LedgerLine) → List (Nat × LedgerLine)) : (modLedger s cd f).recs = s.recs := rfl
@[simp] theorem modLedger_peers (s : State) (cd : Nat) (f : List (Nat × LedgerLine) → List (Nat × LedgerLine)) : (modLedger s cd f).peers = s.peers := rfl
@[simp] theorem modLedger_lst (s : State) (cd : Nat) (f : List (Nat × LedgerLine) → List (Nat × LedgerLine)) : (modLedger s cd f).lst = s.lst := rfl
@[simp] theorem modLedger_hk (s : State) (cd : Nat) (f : List (Nat × LedgerLine) → List (Nat × LedgerLine)) : (modLedger s cd f).hk = s.hk := rfl
@[simp] theorem modLedger_fo (s : State) (cd : Nat) (f : List (Nat × LedgerLine) → List (Nat × LedgerLine)) : (modLedger s cd f).fo = s.fo := rfl
@[simp] theorem modLedger_tamper (s : State) (cd : Nat) (f : List (Nat × LedgerLine) → List (Nat × LedgerLine)) : (modLedger s cd f).tamper = s.tamper := rfl
@[simp] theorem modLedger_bus (s : State) (cd : Nat) (f : List (Nat × LedgerLine) → List (Nat × LedgerLine)) : (modLedger s cd f).bus = s.bus := rfl
@[simp] theorem modLedger_cv (s : State) (cd : Nat) (f : List (Nat × LedgerLine) → List (Nat × LedgerLine)) : (modLedger s cd f).cv = s.cv := rfl
@[simp] theorem modLedger_log (s : State) (cd : Nat) (f : List (Nat × LedgerLine) → List (Nat × LedgerLine)) : (modLedger s cd f).log = s.log := rfl
@[simp] theorem modLedger_outboxes (s : State) (cd : Nat) (f : List (Nat × LedgerLine) → List (Nat × LedgerLine)) : (modLedger s cd f).outboxes = s.outboxes := rfl
@[simp] theorem modLedger_power (s : State) (cd : Nat) (f : List (Nat × LedgerLine) → List (Nat × LedgerLine)) : (modLedger s cd f).power = s.power := rfl

@[simp] theorem modEye_eye (s : State) (f : EyeSt → EyeSt) : (modEye s f).eye = f s.eye := rfl
@[simp] theorem modEye_pending (s : State) (f : EyeSt → EyeSt) : (modEye s f).pending = s.pending := rfl
@[simp] theorem modEye_part (s : State) (f : EyeSt → EyeSt) : (modEye s f).part = s.part := rfl
@[simp] theorem modEye_now (s : State) (f : EyeSt → EyeSt) : (modEye s f).now = s.now := rfl
@[simp] theorem modEye_freeIdx (s : State) (f : EyeSt → EyeSt) : (modEye s f).freeIdx = s.freeIdx := rfl
@[simp] theorem modEye_regs (s : State) (f : EyeSt → EyeSt) : (modEye s f).regs = s.regs := rfl
@[simp] theorem modEye_shadow (s : State) (f : EyeSt → EyeSt) : (modEye s f).shadow = s.shadow := rfl
@[simp] theorem modEye_loRead (s : State) (f : EyeSt → EyeSt) : (modEye s f).loRead = s.loRead := rfl
@[simp] theorem modEye_loStaged (s : State) (f : EyeSt → EyeSt) : (modEye s f).loStaged = s.loStaged := rfl
@[simp] theorem modEye_logRd (s : State) (f : EyeSt → EyeSt) : (modEye s f).logRd = s.logRd := rfl
@[simp] theorem modEye_out (s : State) (f : EyeSt → EyeSt) : (modEye s f).out = s.out := rfl
@[simp] theorem modEye_tb (s : State) (f : EyeSt → EyeSt) : (modEye s f).tb = s.tb := rfl
@[simp] theorem modEye_seqr (s : State) (f : EyeSt → EyeSt) : (modEye s f).seqr = s.seqr := rfl
@[simp] theorem modEye_dies (s : State) (f : EyeSt → EyeSt) : (modEye s f).dies = s.dies := rfl
@[simp] theorem modEye_ledgers (s : State) (f : EyeSt → EyeSt) : (modEye s f).ledgers = s.ledgers := rfl
@[simp] theorem modEye_boot (s : State) (f : EyeSt → EyeSt) : (modEye s f).boot = s.boot := rfl
@[simp] theorem modEye_flash (s : State) (f : EyeSt → EyeSt) : (modEye s f).flash = s.flash := rfl
@[simp] theorem modEye_img (s : State) (f : EyeSt → EyeSt) : (modEye s f).img = s.img := rfl
@[simp] theorem modEye_otp (s : State) (f : EyeSt → EyeSt) : (modEye s f).otp = s.otp := rfl
@[simp] theorem modEye_ports (s : State) (f : EyeSt → EyeSt) : (modEye s f).ports = s.ports := rfl
@[simp] theorem modEye_accesses (s : State) (f : EyeSt → EyeSt) : (modEye s f).accesses = s.accesses := rfl
@[simp] theorem modEye_accessTag (s : State) (f : EyeSt → EyeSt) : (modEye s f).accessTag = s.accessTag := rfl
@[simp] theorem modEye_fabs (s : State) (f : EyeSt → EyeSt) : (modEye s f).fabs = s.fabs := rfl
@[simp] theorem modEye_mem (s : State) (f : EyeSt → EyeSt) : (modEye s f).mem = s.mem := rfl
@[simp] theorem modEye_isp (s : State) (f : EyeSt → EyeSt) : (modEye s f).isp = s.isp := rfl
@[simp] theorem modEye_comp (s : State) (f : EyeSt → EyeSt) : (modEye s f).comp = s.comp := rfl
@[simp] theorem modEye_det (s : State) (f : EyeSt → EyeSt) : (modEye s f).det = s.det := rfl
@[simp] theorem modEye_guard (s : State) (f : EyeSt → EyeSt) : (modEye s f).guard = s.guard := rfl
@[simp] theorem modEye_hv (s : State) (f : EyeSt → EyeSt) : (modEye s f).hv = s.hv := rfl
@[simp] theorem modEye_net (s : State) (f : EyeSt → EyeSt) : (modEye s f).net = s.net := rfl
@[simp] theorem modEye_bcp (s : State) (f : EyeSt → EyeSt) : (modEye s f).bcp = s.bcp := rfl
@[simp] theorem modEye_stage (s : State) (f : EyeSt → EyeSt) : (modEye s f).stage = s.stage := rfl
@[simp] theorem modEye_sw (s : State) (f : EyeSt → EyeSt) : (modEye s f).sw = s.sw := rfl
@[simp] theorem modEye_recs (s : State) (f : EyeSt → EyeSt) : (modEye s f).recs = s.recs := rfl
@[simp] theorem modEye_peers (s : State) (f : EyeSt → EyeSt) : (modEye s f).peers = s.peers := rfl
@[simp] theorem modEye_lst (s : State) (f : EyeSt → EyeSt) : (modEye s f).lst = s.lst := rfl
@[simp] theorem modEye_hk (s : State) (f : EyeSt → EyeSt) : (modEye s f).hk = s.hk := rfl
@[simp] theorem modEye_fo (s : State) (f : EyeSt → EyeSt) : (modEye s f).fo = s.fo := rfl
@[simp] theorem modEye_tamper (s : State) (f : EyeSt → EyeSt) : (modEye s f).tamper = s.tamper := rfl
@[simp] theorem modEye_bus (s : State) (f : EyeSt → EyeSt) : (modEye s f).bus = s.bus := rfl
@[simp] theorem modEye_cv (s : State) (f : EyeSt → EyeSt) : (modEye s f).cv = s.cv := rfl
@[simp] theorem modEye_log (s : State) (f : EyeSt → EyeSt) : (modEye s f).log = s.log := rfl
@[simp] theorem modEye_outboxes (s : State) (f : EyeSt → EyeSt) : (modEye s f).outboxes = s.outboxes := rfl
@[simp] theorem modEye_power (s : State) (f : EyeSt → EyeSt) : (modEye s f).power = s.power := rfl

@[simp] theorem modIsp_isp (s : State) (f : IspSt → IspSt) : (modIsp s f).isp = f s.isp := rfl
@[simp] theorem modIsp_pending (s : State) (f : IspSt → IspSt) : (modIsp s f).pending = s.pending := rfl
@[simp] theorem modIsp_part (s : State) (f : IspSt → IspSt) : (modIsp s f).part = s.part := rfl
@[simp] theorem modIsp_now (s : State) (f : IspSt → IspSt) : (modIsp s f).now = s.now := rfl
@[simp] theorem modIsp_freeIdx (s : State) (f : IspSt → IspSt) : (modIsp s f).freeIdx = s.freeIdx := rfl
@[simp] theorem modIsp_regs (s : State) (f : IspSt → IspSt) : (modIsp s f).regs = s.regs := rfl
@[simp] theorem modIsp_shadow (s : State) (f : IspSt → IspSt) : (modIsp s f).shadow = s.shadow := rfl
@[simp] theorem modIsp_loRead (s : State) (f : IspSt → IspSt) : (modIsp s f).loRead = s.loRead := rfl
@[simp] theorem modIsp_loStaged (s : State) (f : IspSt → IspSt) : (modIsp s f).loStaged = s.loStaged := rfl
@[simp] theorem modIsp_logRd (s : State) (f : IspSt → IspSt) : (modIsp s f).logRd = s.logRd := rfl
@[simp] theorem modIsp_out (s : State) (f : IspSt → IspSt) : (modIsp s f).out = s.out := rfl
@[simp] theorem modIsp_tb (s : State) (f : IspSt → IspSt) : (modIsp s f).tb = s.tb := rfl
@[simp] theorem modIsp_seqr (s : State) (f : IspSt → IspSt) : (modIsp s f).seqr = s.seqr := rfl
@[simp] theorem modIsp_dies (s : State) (f : IspSt → IspSt) : (modIsp s f).dies = s.dies := rfl
@[simp] theorem modIsp_ledgers (s : State) (f : IspSt → IspSt) : (modIsp s f).ledgers = s.ledgers := rfl
@[simp] theorem modIsp_boot (s : State) (f : IspSt → IspSt) : (modIsp s f).boot = s.boot := rfl
@[simp] theorem modIsp_flash (s : State) (f : IspSt → IspSt) : (modIsp s f).flash = s.flash := rfl
@[simp] theorem modIsp_img (s : State) (f : IspSt → IspSt) : (modIsp s f).img = s.img := rfl
@[simp] theorem modIsp_otp (s : State) (f : IspSt → IspSt) : (modIsp s f).otp = s.otp := rfl
@[simp] theorem modIsp_ports (s : State) (f : IspSt → IspSt) : (modIsp s f).ports = s.ports := rfl
@[simp] theorem modIsp_accesses (s : State) (f : IspSt → IspSt) : (modIsp s f).accesses = s.accesses := rfl
@[simp] theorem modIsp_accessTag (s : State) (f : IspSt → IspSt) : (modIsp s f).accessTag = s.accessTag := rfl
@[simp] theorem modIsp_fabs (s : State) (f : IspSt → IspSt) : (modIsp s f).fabs = s.fabs := rfl
@[simp] theorem modIsp_mem (s : State) (f : IspSt → IspSt) : (modIsp s f).mem = s.mem := rfl
@[simp] theorem modIsp_eye (s : State) (f : IspSt → IspSt) : (modIsp s f).eye = s.eye := rfl
@[simp] theorem modIsp_comp (s : State) (f : IspSt → IspSt) : (modIsp s f).comp = s.comp := rfl
@[simp] theorem modIsp_det (s : State) (f : IspSt → IspSt) : (modIsp s f).det = s.det := rfl
@[simp] theorem modIsp_guard (s : State) (f : IspSt → IspSt) : (modIsp s f).guard = s.guard := rfl
@[simp] theorem modIsp_hv (s : State) (f : IspSt → IspSt) : (modIsp s f).hv = s.hv := rfl
@[simp] theorem modIsp_net (s : State) (f : IspSt → IspSt) : (modIsp s f).net = s.net := rfl
@[simp] theorem modIsp_bcp (s : State) (f : IspSt → IspSt) : (modIsp s f).bcp = s.bcp := rfl
@[simp] theorem modIsp_stage (s : State) (f : IspSt → IspSt) : (modIsp s f).stage = s.stage := rfl
@[simp] theorem modIsp_sw (s : State) (f : IspSt → IspSt) : (modIsp s f).sw = s.sw := rfl
@[simp] theorem modIsp_recs (s : State) (f : IspSt → IspSt) : (modIsp s f).recs = s.recs := rfl
@[simp] theorem modIsp_peers (s : State) (f : IspSt → IspSt) : (modIsp s f).peers = s.peers := rfl
@[simp] theorem modIsp_lst (s : State) (f : IspSt → IspSt) : (modIsp s f).lst = s.lst := rfl
@[simp] theorem modIsp_hk (s : State) (f : IspSt → IspSt) : (modIsp s f).hk = s.hk := rfl
@[simp] theorem modIsp_fo (s : State) (f : IspSt → IspSt) : (modIsp s f).fo = s.fo := rfl
@[simp] theorem modIsp_tamper (s : State) (f : IspSt → IspSt) : (modIsp s f).tamper = s.tamper := rfl
@[simp] theorem modIsp_bus (s : State) (f : IspSt → IspSt) : (modIsp s f).bus = s.bus := rfl
@[simp] theorem modIsp_cv (s : State) (f : IspSt → IspSt) : (modIsp s f).cv = s.cv := rfl
@[simp] theorem modIsp_log (s : State) (f : IspSt → IspSt) : (modIsp s f).log = s.log := rfl
@[simp] theorem modIsp_outboxes (s : State) (f : IspSt → IspSt) : (modIsp s f).outboxes = s.outboxes := rfl
@[simp] theorem modIsp_power (s : State) (f : IspSt → IspSt) : (modIsp s f).power = s.power := rfl

@[simp] theorem modGuard_guard (s : State) (f : GuardSt → GuardSt) : (modGuard s f).guard = f s.guard := rfl
@[simp] theorem modGuard_pending (s : State) (f : GuardSt → GuardSt) : (modGuard s f).pending = s.pending := rfl
@[simp] theorem modGuard_part (s : State) (f : GuardSt → GuardSt) : (modGuard s f).part = s.part := rfl
@[simp] theorem modGuard_now (s : State) (f : GuardSt → GuardSt) : (modGuard s f).now = s.now := rfl
@[simp] theorem modGuard_freeIdx (s : State) (f : GuardSt → GuardSt) : (modGuard s f).freeIdx = s.freeIdx := rfl
@[simp] theorem modGuard_regs (s : State) (f : GuardSt → GuardSt) : (modGuard s f).regs = s.regs := rfl
@[simp] theorem modGuard_shadow (s : State) (f : GuardSt → GuardSt) : (modGuard s f).shadow = s.shadow := rfl
@[simp] theorem modGuard_loRead (s : State) (f : GuardSt → GuardSt) : (modGuard s f).loRead = s.loRead := rfl
@[simp] theorem modGuard_loStaged (s : State) (f : GuardSt → GuardSt) : (modGuard s f).loStaged = s.loStaged := rfl
@[simp] theorem modGuard_logRd (s : State) (f : GuardSt → GuardSt) : (modGuard s f).logRd = s.logRd := rfl
@[simp] theorem modGuard_out (s : State) (f : GuardSt → GuardSt) : (modGuard s f).out = s.out := rfl
@[simp] theorem modGuard_tb (s : State) (f : GuardSt → GuardSt) : (modGuard s f).tb = s.tb := rfl
@[simp] theorem modGuard_seqr (s : State) (f : GuardSt → GuardSt) : (modGuard s f).seqr = s.seqr := rfl
@[simp] theorem modGuard_dies (s : State) (f : GuardSt → GuardSt) : (modGuard s f).dies = s.dies := rfl
@[simp] theorem modGuard_ledgers (s : State) (f : GuardSt → GuardSt) : (modGuard s f).ledgers = s.ledgers := rfl
@[simp] theorem modGuard_boot (s : State) (f : GuardSt → GuardSt) : (modGuard s f).boot = s.boot := rfl
@[simp] theorem modGuard_flash (s : State) (f : GuardSt → GuardSt) : (modGuard s f).flash = s.flash := rfl
@[simp] theorem modGuard_img (s : State) (f : GuardSt → GuardSt) : (modGuard s f).img = s.img := rfl
@[simp] theorem modGuard_otp (s : State) (f : GuardSt → GuardSt) : (modGuard s f).otp = s.otp := rfl
@[simp] theorem modGuard_ports (s : State) (f : GuardSt → GuardSt) : (modGuard s f).ports = s.ports := rfl
@[simp] theorem modGuard_accesses (s : State) (f : GuardSt → GuardSt) : (modGuard s f).accesses = s.accesses := rfl
@[simp] theorem modGuard_accessTag (s : State) (f : GuardSt → GuardSt) : (modGuard s f).accessTag = s.accessTag := rfl
@[simp] theorem modGuard_fabs (s : State) (f : GuardSt → GuardSt) : (modGuard s f).fabs = s.fabs := rfl
@[simp] theorem modGuard_mem (s : State) (f : GuardSt → GuardSt) : (modGuard s f).mem = s.mem := rfl
@[simp] theorem modGuard_eye (s : State) (f : GuardSt → GuardSt) : (modGuard s f).eye = s.eye := rfl
@[simp] theorem modGuard_isp (s : State) (f : GuardSt → GuardSt) : (modGuard s f).isp = s.isp := rfl
@[simp] theorem modGuard_comp (s : State) (f : GuardSt → GuardSt) : (modGuard s f).comp = s.comp := rfl
@[simp] theorem modGuard_det (s : State) (f : GuardSt → GuardSt) : (modGuard s f).det = s.det := rfl
@[simp] theorem modGuard_hv (s : State) (f : GuardSt → GuardSt) : (modGuard s f).hv = s.hv := rfl
@[simp] theorem modGuard_net (s : State) (f : GuardSt → GuardSt) : (modGuard s f).net = s.net := rfl
@[simp] theorem modGuard_bcp (s : State) (f : GuardSt → GuardSt) : (modGuard s f).bcp = s.bcp := rfl
@[simp] theorem modGuard_stage (s : State) (f : GuardSt → GuardSt) : (modGuard s f).stage = s.stage := rfl
@[simp] theorem modGuard_sw (s : State) (f : GuardSt → GuardSt) : (modGuard s f).sw = s.sw := rfl
@[simp] theorem modGuard_recs (s : State) (f : GuardSt → GuardSt) : (modGuard s f).recs = s.recs := rfl
@[simp] theorem modGuard_peers (s : State) (f : GuardSt → GuardSt) : (modGuard s f).peers = s.peers := rfl
@[simp] theorem modGuard_lst (s : State) (f : GuardSt → GuardSt) : (modGuard s f).lst = s.lst := rfl
@[simp] theorem modGuard_hk (s : State) (f : GuardSt → GuardSt) : (modGuard s f).hk = s.hk := rfl
@[simp] theorem modGuard_fo (s : State) (f : GuardSt → GuardSt) : (modGuard s f).fo = s.fo := rfl
@[simp] theorem modGuard_tamper (s : State) (f : GuardSt → GuardSt) : (modGuard s f).tamper = s.tamper := rfl
@[simp] theorem modGuard_bus (s : State) (f : GuardSt → GuardSt) : (modGuard s f).bus = s.bus := rfl
@[simp] theorem modGuard_cv (s : State) (f : GuardSt → GuardSt) : (modGuard s f).cv = s.cv := rfl
@[simp] theorem modGuard_log (s : State) (f : GuardSt → GuardSt) : (modGuard s f).log = s.log := rfl
@[simp] theorem modGuard_outboxes (s : State) (f : GuardSt → GuardSt) : (modGuard s f).outboxes = s.outboxes := rfl
@[simp] theorem modGuard_power (s : State) (f : GuardSt → GuardSt) : (modGuard s f).power = s.power := rfl

@[simp] theorem modHv_hv (s : State) (f : HarvestSt → HarvestSt) : (modHv s f).hv = f s.hv := rfl
@[simp] theorem modHv_pending (s : State) (f : HarvestSt → HarvestSt) : (modHv s f).pending = s.pending := rfl
@[simp] theorem modHv_part (s : State) (f : HarvestSt → HarvestSt) : (modHv s f).part = s.part := rfl
@[simp] theorem modHv_now (s : State) (f : HarvestSt → HarvestSt) : (modHv s f).now = s.now := rfl
@[simp] theorem modHv_freeIdx (s : State) (f : HarvestSt → HarvestSt) : (modHv s f).freeIdx = s.freeIdx := rfl
@[simp] theorem modHv_regs (s : State) (f : HarvestSt → HarvestSt) : (modHv s f).regs = s.regs := rfl
@[simp] theorem modHv_shadow (s : State) (f : HarvestSt → HarvestSt) : (modHv s f).shadow = s.shadow := rfl
@[simp] theorem modHv_loRead (s : State) (f : HarvestSt → HarvestSt) : (modHv s f).loRead = s.loRead := rfl
@[simp] theorem modHv_loStaged (s : State) (f : HarvestSt → HarvestSt) : (modHv s f).loStaged = s.loStaged := rfl
@[simp] theorem modHv_logRd (s : State) (f : HarvestSt → HarvestSt) : (modHv s f).logRd = s.logRd := rfl
@[simp] theorem modHv_out (s : State) (f : HarvestSt → HarvestSt) : (modHv s f).out = s.out := rfl
@[simp] theorem modHv_tb (s : State) (f : HarvestSt → HarvestSt) : (modHv s f).tb = s.tb := rfl
@[simp] theorem modHv_seqr (s : State) (f : HarvestSt → HarvestSt) : (modHv s f).seqr = s.seqr := rfl
@[simp] theorem modHv_dies (s : State) (f : HarvestSt → HarvestSt) : (modHv s f).dies = s.dies := rfl
@[simp] theorem modHv_ledgers (s : State) (f : HarvestSt → HarvestSt) : (modHv s f).ledgers = s.ledgers := rfl
@[simp] theorem modHv_boot (s : State) (f : HarvestSt → HarvestSt) : (modHv s f).boot = s.boot := rfl
@[simp] theorem modHv_flash (s : State) (f : HarvestSt → HarvestSt) : (modHv s f).flash = s.flash := rfl
@[simp] theorem modHv_img (s : State) (f : HarvestSt → HarvestSt) : (modHv s f).img = s.img := rfl
@[simp] theorem modHv_otp (s : State) (f : HarvestSt → HarvestSt) : (modHv s f).otp = s.otp := rfl
@[simp] theorem modHv_ports (s : State) (f : HarvestSt → HarvestSt) : (modHv s f).ports = s.ports := rfl
@[simp] theorem modHv_accesses (s : State) (f : HarvestSt → HarvestSt) : (modHv s f).accesses = s.accesses := rfl
@[simp] theorem modHv_accessTag (s : State) (f : HarvestSt → HarvestSt) : (modHv s f).accessTag = s.accessTag := rfl
@[simp] theorem modHv_fabs (s : State) (f : HarvestSt → HarvestSt) : (modHv s f).fabs = s.fabs := rfl
@[simp] theorem modHv_mem (s : State) (f : HarvestSt → HarvestSt) : (modHv s f).mem = s.mem := rfl
@[simp] theorem modHv_eye (s : State) (f : HarvestSt → HarvestSt) : (modHv s f).eye = s.eye := rfl
@[simp] theorem modHv_isp (s : State) (f : HarvestSt → HarvestSt) : (modHv s f).isp = s.isp := rfl
@[simp] theorem modHv_comp (s : State) (f : HarvestSt → HarvestSt) : (modHv s f).comp = s.comp := rfl
@[simp] theorem modHv_det (s : State) (f : HarvestSt → HarvestSt) : (modHv s f).det = s.det := rfl
@[simp] theorem modHv_guard (s : State) (f : HarvestSt → HarvestSt) : (modHv s f).guard = s.guard := rfl
@[simp] theorem modHv_net (s : State) (f : HarvestSt → HarvestSt) : (modHv s f).net = s.net := rfl
@[simp] theorem modHv_bcp (s : State) (f : HarvestSt → HarvestSt) : (modHv s f).bcp = s.bcp := rfl
@[simp] theorem modHv_stage (s : State) (f : HarvestSt → HarvestSt) : (modHv s f).stage = s.stage := rfl
@[simp] theorem modHv_sw (s : State) (f : HarvestSt → HarvestSt) : (modHv s f).sw = s.sw := rfl
@[simp] theorem modHv_recs (s : State) (f : HarvestSt → HarvestSt) : (modHv s f).recs = s.recs := rfl
@[simp] theorem modHv_peers (s : State) (f : HarvestSt → HarvestSt) : (modHv s f).peers = s.peers := rfl
@[simp] theorem modHv_lst (s : State) (f : HarvestSt → HarvestSt) : (modHv s f).lst = s.lst := rfl
@[simp] theorem modHv_hk (s : State) (f : HarvestSt → HarvestSt) : (modHv s f).hk = s.hk := rfl
@[simp] theorem modHv_fo (s : State) (f : HarvestSt → HarvestSt) : (modHv s f).fo = s.fo := rfl
@[simp] theorem modHv_tamper (s : State) (f : HarvestSt → HarvestSt) : (modHv s f).tamper = s.tamper := rfl
@[simp] theorem modHv_bus (s : State) (f : HarvestSt → HarvestSt) : (modHv s f).bus = s.bus := rfl
@[simp] theorem modHv_cv (s : State) (f : HarvestSt → HarvestSt) : (modHv s f).cv = s.cv := rfl
@[simp] theorem modHv_log (s : State) (f : HarvestSt → HarvestSt) : (modHv s f).log = s.log := rfl
@[simp] theorem modHv_outboxes (s : State) (f : HarvestSt → HarvestSt) : (modHv s f).outboxes = s.outboxes := rfl
@[simp] theorem modHv_power (s : State) (f : HarvestSt → HarvestSt) : (modHv s f).power = s.power := rfl

@[simp] theorem modNet_net (s : State) (f : NetSt → NetSt) : (modNet s f).net = f s.net := rfl
@[simp] theorem modNet_pending (s : State) (f : NetSt → NetSt) : (modNet s f).pending = s.pending := rfl
@[simp] theorem modNet_part (s : State) (f : NetSt → NetSt) : (modNet s f).part = s.part := rfl
@[simp] theorem modNet_now (s : State) (f : NetSt → NetSt) : (modNet s f).now = s.now := rfl
@[simp] theorem modNet_freeIdx (s : State) (f : NetSt → NetSt) : (modNet s f).freeIdx = s.freeIdx := rfl
@[simp] theorem modNet_regs (s : State) (f : NetSt → NetSt) : (modNet s f).regs = s.regs := rfl
@[simp] theorem modNet_shadow (s : State) (f : NetSt → NetSt) : (modNet s f).shadow = s.shadow := rfl
@[simp] theorem modNet_loRead (s : State) (f : NetSt → NetSt) : (modNet s f).loRead = s.loRead := rfl
@[simp] theorem modNet_loStaged (s : State) (f : NetSt → NetSt) : (modNet s f).loStaged = s.loStaged := rfl
@[simp] theorem modNet_logRd (s : State) (f : NetSt → NetSt) : (modNet s f).logRd = s.logRd := rfl
@[simp] theorem modNet_out (s : State) (f : NetSt → NetSt) : (modNet s f).out = s.out := rfl
@[simp] theorem modNet_tb (s : State) (f : NetSt → NetSt) : (modNet s f).tb = s.tb := rfl
@[simp] theorem modNet_seqr (s : State) (f : NetSt → NetSt) : (modNet s f).seqr = s.seqr := rfl
@[simp] theorem modNet_dies (s : State) (f : NetSt → NetSt) : (modNet s f).dies = s.dies := rfl
@[simp] theorem modNet_ledgers (s : State) (f : NetSt → NetSt) : (modNet s f).ledgers = s.ledgers := rfl
@[simp] theorem modNet_boot (s : State) (f : NetSt → NetSt) : (modNet s f).boot = s.boot := rfl
@[simp] theorem modNet_flash (s : State) (f : NetSt → NetSt) : (modNet s f).flash = s.flash := rfl
@[simp] theorem modNet_img (s : State) (f : NetSt → NetSt) : (modNet s f).img = s.img := rfl
@[simp] theorem modNet_otp (s : State) (f : NetSt → NetSt) : (modNet s f).otp = s.otp := rfl
@[simp] theorem modNet_ports (s : State) (f : NetSt → NetSt) : (modNet s f).ports = s.ports := rfl
@[simp] theorem modNet_accesses (s : State) (f : NetSt → NetSt) : (modNet s f).accesses = s.accesses := rfl
@[simp] theorem modNet_accessTag (s : State) (f : NetSt → NetSt) : (modNet s f).accessTag = s.accessTag := rfl
@[simp] theorem modNet_fabs (s : State) (f : NetSt → NetSt) : (modNet s f).fabs = s.fabs := rfl
@[simp] theorem modNet_mem (s : State) (f : NetSt → NetSt) : (modNet s f).mem = s.mem := rfl
@[simp] theorem modNet_eye (s : State) (f : NetSt → NetSt) : (modNet s f).eye = s.eye := rfl
@[simp] theorem modNet_isp (s : State) (f : NetSt → NetSt) : (modNet s f).isp = s.isp := rfl
@[simp] theorem modNet_comp (s : State) (f : NetSt → NetSt) : (modNet s f).comp = s.comp := rfl
@[simp] theorem modNet_det (s : State) (f : NetSt → NetSt) : (modNet s f).det = s.det := rfl
@[simp] theorem modNet_guard (s : State) (f : NetSt → NetSt) : (modNet s f).guard = s.guard := rfl
@[simp] theorem modNet_hv (s : State) (f : NetSt → NetSt) : (modNet s f).hv = s.hv := rfl
@[simp] theorem modNet_bcp (s : State) (f : NetSt → NetSt) : (modNet s f).bcp = s.bcp := rfl
@[simp] theorem modNet_stage (s : State) (f : NetSt → NetSt) : (modNet s f).stage = s.stage := rfl
@[simp] theorem modNet_sw (s : State) (f : NetSt → NetSt) : (modNet s f).sw = s.sw := rfl
@[simp] theorem modNet_recs (s : State) (f : NetSt → NetSt) : (modNet s f).recs = s.recs := rfl
@[simp] theorem modNet_peers (s : State) (f : NetSt → NetSt) : (modNet s f).peers = s.peers := rfl
@[simp] theorem modNet_lst (s : State) (f : NetSt → NetSt) : (modNet s f).lst = s.lst := rfl
@[simp] theorem modNet_hk (s : State) (f : NetSt → NetSt) : (modNet s f).hk = s.hk := rfl
@[simp] theorem modNet_fo (s : State) (f : NetSt → NetSt) : (modNet s f).fo = s.fo := rfl
@[simp] theorem modNet_tamper (s : State) (f : NetSt → NetSt) : (modNet s f).tamper = s.tamper := rfl
@[simp] theorem modNet_bus (s : State) (f : NetSt → NetSt) : (modNet s f).bus = s.bus := rfl
@[simp] theorem modNet_cv (s : State) (f : NetSt → NetSt) : (modNet s f).cv = s.cv := rfl
@[simp] theorem modNet_log (s : State) (f : NetSt → NetSt) : (modNet s f).log = s.log := rfl
@[simp] theorem modNet_outboxes (s : State) (f : NetSt → NetSt) : (modNet s f).outboxes = s.outboxes := rfl
@[simp] theorem modNet_power (s : State) (f : NetSt → NetSt) : (modNet s f).power = s.power := rfl

@[simp] theorem modBcp_bcp (s : State) (f : BcpSt → BcpSt) : (modBcp s f).bcp = f s.bcp := rfl
@[simp] theorem modBcp_pending (s : State) (f : BcpSt → BcpSt) : (modBcp s f).pending = s.pending := rfl
@[simp] theorem modBcp_part (s : State) (f : BcpSt → BcpSt) : (modBcp s f).part = s.part := rfl
@[simp] theorem modBcp_now (s : State) (f : BcpSt → BcpSt) : (modBcp s f).now = s.now := rfl
@[simp] theorem modBcp_freeIdx (s : State) (f : BcpSt → BcpSt) : (modBcp s f).freeIdx = s.freeIdx := rfl
@[simp] theorem modBcp_regs (s : State) (f : BcpSt → BcpSt) : (modBcp s f).regs = s.regs := rfl
@[simp] theorem modBcp_shadow (s : State) (f : BcpSt → BcpSt) : (modBcp s f).shadow = s.shadow := rfl
@[simp] theorem modBcp_loRead (s : State) (f : BcpSt → BcpSt) : (modBcp s f).loRead = s.loRead := rfl
@[simp] theorem modBcp_loStaged (s : State) (f : BcpSt → BcpSt) : (modBcp s f).loStaged = s.loStaged := rfl
@[simp] theorem modBcp_logRd (s : State) (f : BcpSt → BcpSt) : (modBcp s f).logRd = s.logRd := rfl
@[simp] theorem modBcp_out (s : State) (f : BcpSt → BcpSt) : (modBcp s f).out = s.out := rfl
@[simp] theorem modBcp_tb (s : State) (f : BcpSt → BcpSt) : (modBcp s f).tb = s.tb := rfl
@[simp] theorem modBcp_seqr (s : State) (f : BcpSt → BcpSt) : (modBcp s f).seqr = s.seqr := rfl
@[simp] theorem modBcp_dies (s : State) (f : BcpSt → BcpSt) : (modBcp s f).dies = s.dies := rfl
@[simp] theorem modBcp_ledgers (s : State) (f : BcpSt → BcpSt) : (modBcp s f).ledgers = s.ledgers := rfl
@[simp] theorem modBcp_boot (s : State) (f : BcpSt → BcpSt) : (modBcp s f).boot = s.boot := rfl
@[simp] theorem modBcp_flash (s : State) (f : BcpSt → BcpSt) : (modBcp s f).flash = s.flash := rfl
@[simp] theorem modBcp_img (s : State) (f : BcpSt → BcpSt) : (modBcp s f).img = s.img := rfl
@[simp] theorem modBcp_otp (s : State) (f : BcpSt → BcpSt) : (modBcp s f).otp = s.otp := rfl
@[simp] theorem modBcp_ports (s : State) (f : BcpSt → BcpSt) : (modBcp s f).ports = s.ports := rfl
@[simp] theorem modBcp_accesses (s : State) (f : BcpSt → BcpSt) : (modBcp s f).accesses = s.accesses := rfl
@[simp] theorem modBcp_accessTag (s : State) (f : BcpSt → BcpSt) : (modBcp s f).accessTag = s.accessTag := rfl
@[simp] theorem modBcp_fabs (s : State) (f : BcpSt → BcpSt) : (modBcp s f).fabs = s.fabs := rfl
@[simp] theorem modBcp_mem (s : State) (f : BcpSt → BcpSt) : (modBcp s f).mem = s.mem := rfl
@[simp] theorem modBcp_eye (s : State) (f : BcpSt → BcpSt) : (modBcp s f).eye = s.eye := rfl
@[simp] theorem modBcp_isp (s : State) (f : BcpSt → BcpSt) : (modBcp s f).isp = s.isp := rfl
@[simp] theorem modBcp_comp (s : State) (f : BcpSt → BcpSt) : (modBcp s f).comp = s.comp := rfl
@[simp] theorem modBcp_det (s : State) (f : BcpSt → BcpSt) : (modBcp s f).det = s.det := rfl
@[simp] theorem modBcp_guard (s : State) (f : BcpSt → BcpSt) : (modBcp s f).guard = s.guard := rfl
@[simp] theorem modBcp_hv (s : State) (f : BcpSt → BcpSt) : (modBcp s f).hv = s.hv := rfl
@[simp] theorem modBcp_net (s : State) (f : BcpSt → BcpSt) : (modBcp s f).net = s.net := rfl
@[simp] theorem modBcp_stage (s : State) (f : BcpSt → BcpSt) : (modBcp s f).stage = s.stage := rfl
@[simp] theorem modBcp_sw (s : State) (f : BcpSt → BcpSt) : (modBcp s f).sw = s.sw := rfl
@[simp] theorem modBcp_recs (s : State) (f : BcpSt → BcpSt) : (modBcp s f).recs = s.recs := rfl
@[simp] theorem modBcp_peers (s : State) (f : BcpSt → BcpSt) : (modBcp s f).peers = s.peers := rfl
@[simp] theorem modBcp_lst (s : State) (f : BcpSt → BcpSt) : (modBcp s f).lst = s.lst := rfl
@[simp] theorem modBcp_hk (s : State) (f : BcpSt → BcpSt) : (modBcp s f).hk = s.hk := rfl
@[simp] theorem modBcp_fo (s : State) (f : BcpSt → BcpSt) : (modBcp s f).fo = s.fo := rfl
@[simp] theorem modBcp_tamper (s : State) (f : BcpSt → BcpSt) : (modBcp s f).tamper = s.tamper := rfl
@[simp] theorem modBcp_bus (s : State) (f : BcpSt → BcpSt) : (modBcp s f).bus = s.bus := rfl
@[simp] theorem modBcp_cv (s : State) (f : BcpSt → BcpSt) : (modBcp s f).cv = s.cv := rfl
@[simp] theorem modBcp_log (s : State) (f : BcpSt → BcpSt) : (modBcp s f).log = s.log := rfl
@[simp] theorem modBcp_outboxes (s : State) (f : BcpSt → BcpSt) : (modBcp s f).outboxes = s.outboxes := rfl
@[simp] theorem modBcp_power (s : State) (f : BcpSt → BcpSt) : (modBcp s f).power = s.power := rfl

@[simp] theorem modRecs_recs (s : State) (f : RecSt → RecSt) : (modRecs s f).recs = f s.recs := rfl
@[simp] theorem modRecs_pending (s : State) (f : RecSt → RecSt) : (modRecs s f).pending = s.pending := rfl
@[simp] theorem modRecs_part (s : State) (f : RecSt → RecSt) : (modRecs s f).part = s.part := rfl
@[simp] theorem modRecs_now (s : State) (f : RecSt → RecSt) : (modRecs s f).now = s.now := rfl
@[simp] theorem modRecs_freeIdx (s : State) (f : RecSt → RecSt) : (modRecs s f).freeIdx = s.freeIdx := rfl
@[simp] theorem modRecs_regs (s : State) (f : RecSt → RecSt) : (modRecs s f).regs = s.regs := rfl
@[simp] theorem modRecs_shadow (s : State) (f : RecSt → RecSt) : (modRecs s f).shadow = s.shadow := rfl
@[simp] theorem modRecs_loRead (s : State) (f : RecSt → RecSt) : (modRecs s f).loRead = s.loRead := rfl
@[simp] theorem modRecs_loStaged (s : State) (f : RecSt → RecSt) : (modRecs s f).loStaged = s.loStaged := rfl
@[simp] theorem modRecs_logRd (s : State) (f : RecSt → RecSt) : (modRecs s f).logRd = s.logRd := rfl
@[simp] theorem modRecs_out (s : State) (f : RecSt → RecSt) : (modRecs s f).out = s.out := rfl
@[simp] theorem modRecs_tb (s : State) (f : RecSt → RecSt) : (modRecs s f).tb = s.tb := rfl
@[simp] theorem modRecs_seqr (s : State) (f : RecSt → RecSt) : (modRecs s f).seqr = s.seqr := rfl
@[simp] theorem modRecs_dies (s : State) (f : RecSt → RecSt) : (modRecs s f).dies = s.dies := rfl
@[simp] theorem modRecs_ledgers (s : State) (f : RecSt → RecSt) : (modRecs s f).ledgers = s.ledgers := rfl
@[simp] theorem modRecs_boot (s : State) (f : RecSt → RecSt) : (modRecs s f).boot = s.boot := rfl
@[simp] theorem modRecs_flash (s : State) (f : RecSt → RecSt) : (modRecs s f).flash = s.flash := rfl
@[simp] theorem modRecs_img (s : State) (f : RecSt → RecSt) : (modRecs s f).img = s.img := rfl
@[simp] theorem modRecs_otp (s : State) (f : RecSt → RecSt) : (modRecs s f).otp = s.otp := rfl
@[simp] theorem modRecs_ports (s : State) (f : RecSt → RecSt) : (modRecs s f).ports = s.ports := rfl
@[simp] theorem modRecs_accesses (s : State) (f : RecSt → RecSt) : (modRecs s f).accesses = s.accesses := rfl
@[simp] theorem modRecs_accessTag (s : State) (f : RecSt → RecSt) : (modRecs s f).accessTag = s.accessTag := rfl
@[simp] theorem modRecs_fabs (s : State) (f : RecSt → RecSt) : (modRecs s f).fabs = s.fabs := rfl
@[simp] theorem modRecs_mem (s : State) (f : RecSt → RecSt) : (modRecs s f).mem = s.mem := rfl
@[simp] theorem modRecs_eye (s : State) (f : RecSt → RecSt) : (modRecs s f).eye = s.eye := rfl
@[simp] theorem modRecs_isp (s : State) (f : RecSt → RecSt) : (modRecs s f).isp = s.isp := rfl
@[simp] theorem modRecs_comp (s : State) (f : RecSt → RecSt) : (modRecs s f).comp = s.comp := rfl
@[simp] theorem modRecs_det (s : State) (f : RecSt → RecSt) : (modRecs s f).det = s.det := rfl
@[simp] theorem modRecs_guard (s : State) (f : RecSt → RecSt) : (modRecs s f).guard = s.guard := rfl
@[simp] theorem modRecs_hv (s : State) (f : RecSt → RecSt) : (modRecs s f).hv = s.hv := rfl
@[simp] theorem modRecs_net (s : State) (f : RecSt → RecSt) : (modRecs s f).net = s.net := rfl
@[simp] theorem modRecs_bcp (s : State) (f : RecSt → RecSt) : (modRecs s f).bcp = s.bcp := rfl
@[simp] theorem modRecs_stage (s : State) (f : RecSt → RecSt) : (modRecs s f).stage = s.stage := rfl
@[simp] theorem modRecs_sw (s : State) (f : RecSt → RecSt) : (modRecs s f).sw = s.sw := rfl
@[simp] theorem modRecs_peers (s : State) (f : RecSt → RecSt) : (modRecs s f).peers = s.peers := rfl
@[simp] theorem modRecs_lst (s : State) (f : RecSt → RecSt) : (modRecs s f).lst = s.lst := rfl
@[simp] theorem modRecs_hk (s : State) (f : RecSt → RecSt) : (modRecs s f).hk = s.hk := rfl
@[simp] theorem modRecs_fo (s : State) (f : RecSt → RecSt) : (modRecs s f).fo = s.fo := rfl
@[simp] theorem modRecs_tamper (s : State) (f : RecSt → RecSt) : (modRecs s f).tamper = s.tamper := rfl
@[simp] theorem modRecs_bus (s : State) (f : RecSt → RecSt) : (modRecs s f).bus = s.bus := rfl
@[simp] theorem modRecs_cv (s : State) (f : RecSt → RecSt) : (modRecs s f).cv = s.cv := rfl
@[simp] theorem modRecs_log (s : State) (f : RecSt → RecSt) : (modRecs s f).log = s.log := rfl
@[simp] theorem modRecs_outboxes (s : State) (f : RecSt → RecSt) : (modRecs s f).outboxes = s.outboxes := rfl
@[simp] theorem modRecs_power (s : State) (f : RecSt → RecSt) : (modRecs s f).power = s.power := rfl

@[simp] theorem modPeers_peers (s : State) (f : PeerSt → PeerSt) : (modPeers s f).peers = f s.peers := rfl
@[simp] theorem modPeers_pending (s : State) (f : PeerSt → PeerSt) : (modPeers s f).pending = s.pending := rfl
@[simp] theorem modPeers_part (s : State) (f : PeerSt → PeerSt) : (modPeers s f).part = s.part := rfl
@[simp] theorem modPeers_now (s : State) (f : PeerSt → PeerSt) : (modPeers s f).now = s.now := rfl
@[simp] theorem modPeers_freeIdx (s : State) (f : PeerSt → PeerSt) : (modPeers s f).freeIdx = s.freeIdx := rfl
@[simp] theorem modPeers_regs (s : State) (f : PeerSt → PeerSt) : (modPeers s f).regs = s.regs := rfl
@[simp] theorem modPeers_shadow (s : State) (f : PeerSt → PeerSt) : (modPeers s f).shadow = s.shadow := rfl
@[simp] theorem modPeers_loRead (s : State) (f : PeerSt → PeerSt) : (modPeers s f).loRead = s.loRead := rfl
@[simp] theorem modPeers_loStaged (s : State) (f : PeerSt → PeerSt) : (modPeers s f).loStaged = s.loStaged := rfl
@[simp] theorem modPeers_logRd (s : State) (f : PeerSt → PeerSt) : (modPeers s f).logRd = s.logRd := rfl
@[simp] theorem modPeers_out (s : State) (f : PeerSt → PeerSt) : (modPeers s f).out = s.out := rfl
@[simp] theorem modPeers_tb (s : State) (f : PeerSt → PeerSt) : (modPeers s f).tb = s.tb := rfl
@[simp] theorem modPeers_seqr (s : State) (f : PeerSt → PeerSt) : (modPeers s f).seqr = s.seqr := rfl
@[simp] theorem modPeers_dies (s : State) (f : PeerSt → PeerSt) : (modPeers s f).dies = s.dies := rfl
@[simp] theorem modPeers_ledgers (s : State) (f : PeerSt → PeerSt) : (modPeers s f).ledgers = s.ledgers := rfl
@[simp] theorem modPeers_boot (s : State) (f : PeerSt → PeerSt) : (modPeers s f).boot = s.boot := rfl
@[simp] theorem modPeers_flash (s : State) (f : PeerSt → PeerSt) : (modPeers s f).flash = s.flash := rfl
@[simp] theorem modPeers_img (s : State) (f : PeerSt → PeerSt) : (modPeers s f).img = s.img := rfl
@[simp] theorem modPeers_otp (s : State) (f : PeerSt → PeerSt) : (modPeers s f).otp = s.otp := rfl
@[simp] theorem modPeers_ports (s : State) (f : PeerSt → PeerSt) : (modPeers s f).ports = s.ports := rfl
@[simp] theorem modPeers_accesses (s : State) (f : PeerSt → PeerSt) : (modPeers s f).accesses = s.accesses := rfl
@[simp] theorem modPeers_accessTag (s : State) (f : PeerSt → PeerSt) : (modPeers s f).accessTag = s.accessTag := rfl
@[simp] theorem modPeers_fabs (s : State) (f : PeerSt → PeerSt) : (modPeers s f).fabs = s.fabs := rfl
@[simp] theorem modPeers_mem (s : State) (f : PeerSt → PeerSt) : (modPeers s f).mem = s.mem := rfl
@[simp] theorem modPeers_eye (s : State) (f : PeerSt → PeerSt) : (modPeers s f).eye = s.eye := rfl
@[simp] theorem modPeers_isp (s : State) (f : PeerSt → PeerSt) : (modPeers s f).isp = s.isp := rfl
@[simp] theorem modPeers_comp (s : State) (f : PeerSt → PeerSt) : (modPeers s f).comp = s.comp := rfl
@[simp] theorem modPeers_det (s : State) (f : PeerSt → PeerSt) : (modPeers s f).det = s.det := rfl
@[simp] theorem modPeers_guard (s : State) (f : PeerSt → PeerSt) : (modPeers s f).guard = s.guard := rfl
@[simp] theorem modPeers_hv (s : State) (f : PeerSt → PeerSt) : (modPeers s f).hv = s.hv := rfl
@[simp] theorem modPeers_net (s : State) (f : PeerSt → PeerSt) : (modPeers s f).net = s.net := rfl
@[simp] theorem modPeers_bcp (s : State) (f : PeerSt → PeerSt) : (modPeers s f).bcp = s.bcp := rfl
@[simp] theorem modPeers_stage (s : State) (f : PeerSt → PeerSt) : (modPeers s f).stage = s.stage := rfl
@[simp] theorem modPeers_sw (s : State) (f : PeerSt → PeerSt) : (modPeers s f).sw = s.sw := rfl
@[simp] theorem modPeers_recs (s : State) (f : PeerSt → PeerSt) : (modPeers s f).recs = s.recs := rfl
@[simp] theorem modPeers_lst (s : State) (f : PeerSt → PeerSt) : (modPeers s f).lst = s.lst := rfl
@[simp] theorem modPeers_hk (s : State) (f : PeerSt → PeerSt) : (modPeers s f).hk = s.hk := rfl
@[simp] theorem modPeers_fo (s : State) (f : PeerSt → PeerSt) : (modPeers s f).fo = s.fo := rfl
@[simp] theorem modPeers_tamper (s : State) (f : PeerSt → PeerSt) : (modPeers s f).tamper = s.tamper := rfl
@[simp] theorem modPeers_bus (s : State) (f : PeerSt → PeerSt) : (modPeers s f).bus = s.bus := rfl
@[simp] theorem modPeers_cv (s : State) (f : PeerSt → PeerSt) : (modPeers s f).cv = s.cv := rfl
@[simp] theorem modPeers_log (s : State) (f : PeerSt → PeerSt) : (modPeers s f).log = s.log := rfl
@[simp] theorem modPeers_outboxes (s : State) (f : PeerSt → PeerSt) : (modPeers s f).outboxes = s.outboxes := rfl
@[simp] theorem modPeers_power (s : State) (f : PeerSt → PeerSt) : (modPeers s f).power = s.power := rfl

@[simp] theorem modLst_lst (s : State) (f : ListenSt → ListenSt) : (modLst s f).lst = f s.lst := rfl
@[simp] theorem modLst_pending (s : State) (f : ListenSt → ListenSt) : (modLst s f).pending = s.pending := rfl
@[simp] theorem modLst_part (s : State) (f : ListenSt → ListenSt) : (modLst s f).part = s.part := rfl
@[simp] theorem modLst_now (s : State) (f : ListenSt → ListenSt) : (modLst s f).now = s.now := rfl
@[simp] theorem modLst_freeIdx (s : State) (f : ListenSt → ListenSt) : (modLst s f).freeIdx = s.freeIdx := rfl
@[simp] theorem modLst_regs (s : State) (f : ListenSt → ListenSt) : (modLst s f).regs = s.regs := rfl
@[simp] theorem modLst_shadow (s : State) (f : ListenSt → ListenSt) : (modLst s f).shadow = s.shadow := rfl
@[simp] theorem modLst_loRead (s : State) (f : ListenSt → ListenSt) : (modLst s f).loRead = s.loRead := rfl
@[simp] theorem modLst_loStaged (s : State) (f : ListenSt → ListenSt) : (modLst s f).loStaged = s.loStaged := rfl
@[simp] theorem modLst_logRd (s : State) (f : ListenSt → ListenSt) : (modLst s f).logRd = s.logRd := rfl
@[simp] theorem modLst_out (s : State) (f : ListenSt → ListenSt) : (modLst s f).out = s.out := rfl
@[simp] theorem modLst_tb (s : State) (f : ListenSt → ListenSt) : (modLst s f).tb = s.tb := rfl
@[simp] theorem modLst_seqr (s : State) (f : ListenSt → ListenSt) : (modLst s f).seqr = s.seqr := rfl
@[simp] theorem modLst_dies (s : State) (f : ListenSt → ListenSt) : (modLst s f).dies = s.dies := rfl
@[simp] theorem modLst_ledgers (s : State) (f : ListenSt → ListenSt) : (modLst s f).ledgers = s.ledgers := rfl
@[simp] theorem modLst_boot (s : State) (f : ListenSt → ListenSt) : (modLst s f).boot = s.boot := rfl
@[simp] theorem modLst_flash (s : State) (f : ListenSt → ListenSt) : (modLst s f).flash = s.flash := rfl
@[simp] theorem modLst_img (s : State) (f : ListenSt → ListenSt) : (modLst s f).img = s.img := rfl
@[simp] theorem modLst_otp (s : State) (f : ListenSt → ListenSt) : (modLst s f).otp = s.otp := rfl
@[simp] theorem modLst_ports (s : State) (f : ListenSt → ListenSt) : (modLst s f).ports = s.ports := rfl
@[simp] theorem modLst_accesses (s : State) (f : ListenSt → ListenSt) : (modLst s f).accesses = s.accesses := rfl
@[simp] theorem modLst_accessTag (s : State) (f : ListenSt → ListenSt) : (modLst s f).accessTag = s.accessTag := rfl
@[simp] theorem modLst_fabs (s : State) (f : ListenSt → ListenSt) : (modLst s f).fabs = s.fabs := rfl
@[simp] theorem modLst_mem (s : State) (f : ListenSt → ListenSt) : (modLst s f).mem = s.mem := rfl
@[simp] theorem modLst_eye (s : State) (f : ListenSt → ListenSt) : (modLst s f).eye = s.eye := rfl
@[simp] theorem modLst_isp (s : State) (f : ListenSt → ListenSt) : (modLst s f).isp = s.isp := rfl
@[simp] theorem modLst_comp (s : State) (f : ListenSt → ListenSt) : (modLst s f).comp = s.comp := rfl
@[simp] theorem modLst_det (s : State) (f : ListenSt → ListenSt) : (modLst s f).det = s.det := rfl
@[simp] theorem modLst_guard (s : State) (f : ListenSt → ListenSt) : (modLst s f).guard = s.guard := rfl
@[simp] theorem modLst_hv (s : State) (f : ListenSt → ListenSt) : (modLst s f).hv = s.hv := rfl
@[simp] theorem modLst_net (s : State) (f : ListenSt → ListenSt) : (modLst s f).net = s.net := rfl
@[simp] theorem modLst_bcp (s : State) (f : ListenSt → ListenSt) : (modLst s f).bcp = s.bcp := rfl
@[simp] theorem modLst_stage (s : State) (f : ListenSt → ListenSt) : (modLst s f).stage = s.stage := rfl
@[simp] theorem modLst_sw (s : State) (f : ListenSt → ListenSt) : (modLst s f).sw = s.sw := rfl
@[simp] theorem modLst_recs (s : State) (f : ListenSt → ListenSt) : (modLst s f).recs = s.recs := rfl
@[simp] theorem modLst_peers (s : State) (f : ListenSt → ListenSt) : (modLst s f).peers = s.peers := rfl
@[simp] theorem modLst_hk (s : State) (f : ListenSt → ListenSt) : (modLst s f).hk = s.hk := rfl
@[simp] theorem modLst_fo (s : State) (f : ListenSt → ListenSt) : (modLst s f).fo = s.fo := rfl
@[simp] theorem modLst_tamper (s : State) (f : ListenSt → ListenSt) : (modLst s f).tamper = s.tamper := rfl
@[simp] theorem modLst_bus (s : State) (f : ListenSt → ListenSt) : (modLst s f).bus = s.bus := rfl
@[simp] theorem modLst_cv (s : State) (f : ListenSt → ListenSt) : (modLst s f).cv = s.cv := rfl
@[simp] theorem modLst_log (s : State) (f : ListenSt → ListenSt) : (modLst s f).log = s.log := rfl
@[simp] theorem modLst_outboxes (s : State) (f : ListenSt → ListenSt) : (modLst s f).outboxes = s.outboxes := rfl
@[simp] theorem modLst_power (s : State) (f : ListenSt → ListenSt) : (modLst s f).power = s.power := rfl

@[simp] theorem modHk_hk (s : State) (f : HkSt → HkSt) : (modHk s f).hk = f s.hk := rfl
@[simp] theorem modHk_pending (s : State) (f : HkSt → HkSt) : (modHk s f).pending = s.pending := rfl
@[simp] theorem modHk_part (s : State) (f : HkSt → HkSt) : (modHk s f).part = s.part := rfl
@[simp] theorem modHk_now (s : State) (f : HkSt → HkSt) : (modHk s f).now = s.now := rfl
@[simp] theorem modHk_freeIdx (s : State) (f : HkSt → HkSt) : (modHk s f).freeIdx = s.freeIdx := rfl
@[simp] theorem modHk_regs (s : State) (f : HkSt → HkSt) : (modHk s f).regs = s.regs := rfl
@[simp] theorem modHk_shadow (s : State) (f : HkSt → HkSt) : (modHk s f).shadow = s.shadow := rfl
@[simp] theorem modHk_loRead (s : State) (f : HkSt → HkSt) : (modHk s f).loRead = s.loRead := rfl
@[simp] theorem modHk_loStaged (s : State) (f : HkSt → HkSt) : (modHk s f).loStaged = s.loStaged := rfl
@[simp] theorem modHk_logRd (s : State) (f : HkSt → HkSt) : (modHk s f).logRd = s.logRd := rfl
@[simp] theorem modHk_out (s : State) (f : HkSt → HkSt) : (modHk s f).out = s.out := rfl
@[simp] theorem modHk_tb (s : State) (f : HkSt → HkSt) : (modHk s f).tb = s.tb := rfl
@[simp] theorem modHk_seqr (s : State) (f : HkSt → HkSt) : (modHk s f).seqr = s.seqr := rfl
@[simp] theorem modHk_dies (s : State) (f : HkSt → HkSt) : (modHk s f).dies = s.dies := rfl
@[simp] theorem modHk_ledgers (s : State) (f : HkSt → HkSt) : (modHk s f).ledgers = s.ledgers := rfl
@[simp] theorem modHk_boot (s : State) (f : HkSt → HkSt) : (modHk s f).boot = s.boot := rfl
@[simp] theorem modHk_flash (s : State) (f : HkSt → HkSt) : (modHk s f).flash = s.flash := rfl
@[simp] theorem modHk_img (s : State) (f : HkSt → HkSt) : (modHk s f).img = s.img := rfl
@[simp] theorem modHk_otp (s : State) (f : HkSt → HkSt) : (modHk s f).otp = s.otp := rfl
@[simp] theorem modHk_ports (s : State) (f : HkSt → HkSt) : (modHk s f).ports = s.ports := rfl
@[simp] theorem modHk_accesses (s : State) (f : HkSt → HkSt) : (modHk s f).accesses = s.accesses := rfl
@[simp] theorem modHk_accessTag (s : State) (f : HkSt → HkSt) : (modHk s f).accessTag = s.accessTag := rfl
@[simp] theorem modHk_fabs (s : State) (f : HkSt → HkSt) : (modHk s f).fabs = s.fabs := rfl
@[simp] theorem modHk_mem (s : State) (f : HkSt → HkSt) : (modHk s f).mem = s.mem := rfl
@[simp] theorem modHk_eye (s : State) (f : HkSt → HkSt) : (modHk s f).eye = s.eye := rfl
@[simp] theorem modHk_isp (s : State) (f : HkSt → HkSt) : (modHk s f).isp = s.isp := rfl
@[simp] theorem modHk_comp (s : State) (f : HkSt → HkSt) : (modHk s f).comp = s.comp := rfl
@[simp] theorem modHk_det (s : State) (f : HkSt → HkSt) : (modHk s f).det = s.det := rfl
@[simp] theorem modHk_guard (s : State) (f : HkSt → HkSt) : (modHk s f).guard = s.guard := rfl
@[simp] theorem modHk_hv (s : State) (f : HkSt → HkSt) : (modHk s f).hv = s.hv := rfl
@[simp] theorem modHk_net (s : State) (f : HkSt → HkSt) : (modHk s f).net = s.net := rfl
@[simp] theorem modHk_bcp (s : State) (f : HkSt → HkSt) : (modHk s f).bcp = s.bcp := rfl
@[simp] theorem modHk_stage (s : State) (f : HkSt → HkSt) : (modHk s f).stage = s.stage := rfl
@[simp] theorem modHk_sw (s : State) (f : HkSt → HkSt) : (modHk s f).sw = s.sw := rfl
@[simp] theorem modHk_recs (s : State) (f : HkSt → HkSt) : (modHk s f).recs = s.recs := rfl
@[simp] theorem modHk_peers (s : State) (f : HkSt → HkSt) : (modHk s f).peers = s.peers := rfl
@[simp] theorem modHk_lst (s : State) (f : HkSt → HkSt) : (modHk s f).lst = s.lst := rfl
@[simp] theorem modHk_fo (s : State) (f : HkSt → HkSt) : (modHk s f).fo = s.fo := rfl
@[simp] theorem modHk_tamper (s : State) (f : HkSt → HkSt) : (modHk s f).tamper = s.tamper := rfl
@[simp] theorem modHk_bus (s : State) (f : HkSt → HkSt) : (modHk s f).bus = s.bus := rfl
@[simp] theorem modHk_cv (s : State) (f : HkSt → HkSt) : (modHk s f).cv = s.cv := rfl
@[simp] theorem modHk_log (s : State) (f : HkSt → HkSt) : (modHk s f).log = s.log := rfl
@[simp] theorem modHk_outboxes (s : State) (f : HkSt → HkSt) : (modHk s f).outboxes = s.outboxes := rfl
@[simp] theorem modHk_power (s : State) (f : HkSt → HkSt) : (modHk s f).power = s.power := rfl

@[simp] theorem modFo_fo (s : State) (f : FoSt → FoSt) : (modFo s f).fo = f s.fo := rfl
@[simp] theorem modFo_pending (s : State) (f : FoSt → FoSt) : (modFo s f).pending = s.pending := rfl
@[simp] theorem modFo_part (s : State) (f : FoSt → FoSt) : (modFo s f).part = s.part := rfl
@[simp] theorem modFo_now (s : State) (f : FoSt → FoSt) : (modFo s f).now = s.now := rfl
@[simp] theorem modFo_freeIdx (s : State) (f : FoSt → FoSt) : (modFo s f).freeIdx = s.freeIdx := rfl
@[simp] theorem modFo_regs (s : State) (f : FoSt → FoSt) : (modFo s f).regs = s.regs := rfl
@[simp] theorem modFo_shadow (s : State) (f : FoSt → FoSt) : (modFo s f).shadow = s.shadow := rfl
@[simp] theorem modFo_loRead (s : State) (f : FoSt → FoSt) : (modFo s f).loRead = s.loRead := rfl
@[simp] theorem modFo_loStaged (s : State) (f : FoSt → FoSt) : (modFo s f).loStaged = s.loStaged := rfl
@[simp] theorem modFo_logRd (s : State) (f : FoSt → FoSt) : (modFo s f).logRd = s.logRd := rfl
@[simp] theorem modFo_out (s : State) (f : FoSt → FoSt) : (modFo s f).out = s.out := rfl
@[simp] theorem modFo_tb (s : State) (f : FoSt → FoSt) : (modFo s f).tb = s.tb := rfl
@[simp] theorem modFo_seqr (s : State) (f : FoSt → FoSt) : (modFo s f).seqr = s.seqr := rfl
@[simp] theorem modFo_dies (s : State) (f : FoSt → FoSt) : (modFo s f).dies = s.dies := rfl
@[simp] theorem modFo_ledgers (s : State) (f : FoSt → FoSt) : (modFo s f).ledgers = s.ledgers := rfl
@[simp] theorem modFo_boot (s : State) (f : FoSt → FoSt) : (modFo s f).boot = s.boot := rfl
@[simp] theorem modFo_flash (s : State) (f : FoSt → FoSt) : (modFo s f).flash = s.flash := rfl
@[simp] theorem modFo_img (s : State) (f : FoSt → FoSt) : (modFo s f).img = s.img := rfl
@[simp] theorem modFo_otp (s : State) (f : FoSt → FoSt) : (modFo s f).otp = s.otp := rfl
@[simp] theorem modFo_ports (s : State) (f : FoSt → FoSt) : (modFo s f).ports = s.ports := rfl
@[simp] theorem modFo_accesses (s : State) (f : FoSt → FoSt) : (modFo s f).accesses = s.accesses := rfl
@[simp] theorem modFo_accessTag (s : State) (f : FoSt → FoSt) : (modFo s f).accessTag = s.accessTag := rfl
@[simp] theorem modFo_fabs (s : State) (f : FoSt → FoSt) : (modFo s f).fabs = s.fabs := rfl
@[simp] theorem modFo_mem (s : State) (f : FoSt → FoSt) : (modFo s f).mem = s.mem := rfl
@[simp] theorem modFo_eye (s : State) (f : FoSt → FoSt) : (modFo s f).eye = s.eye := rfl
@[simp] theorem modFo_isp (s : State) (f : FoSt → FoSt) : (modFo s f).isp = s.isp := rfl
@[simp] theorem modFo_comp (s : State) (f : FoSt → FoSt) : (modFo s f).comp = s.comp := rfl
@[simp] theorem modFo_det (s : State) (f : FoSt → FoSt) : (modFo s f).det = s.det := rfl
@[simp] theorem modFo_guard (s : State) (f : FoSt → FoSt) : (modFo s f).guard = s.guard := rfl
@[simp] theorem modFo_hv (s : State) (f : FoSt → FoSt) : (modFo s f).hv = s.hv := rfl
@[simp] theorem modFo_net (s : State) (f : FoSt → FoSt) : (modFo s f).net = s.net := rfl
@[simp] theorem modFo_bcp (s : State) (f : FoSt → FoSt) : (modFo s f).bcp = s.bcp := rfl
@[simp] theorem modFo_stage (s : State) (f : FoSt → FoSt) : (modFo s f).stage = s.stage := rfl
@[simp] theorem modFo_sw (s : State) (f : FoSt → FoSt) : (modFo s f).sw = s.sw := rfl
@[simp] theorem modFo_recs (s : State) (f : FoSt → FoSt) : (modFo s f).recs = s.recs := rfl
@[simp] theorem modFo_peers (s : State) (f : FoSt → FoSt) : (modFo s f).peers = s.peers := rfl
@[simp] theorem modFo_lst (s : State) (f : FoSt → FoSt) : (modFo s f).lst = s.lst := rfl
@[simp] theorem modFo_hk (s : State) (f : FoSt → FoSt) : (modFo s f).hk = s.hk := rfl
@[simp] theorem modFo_tamper (s : State) (f : FoSt → FoSt) : (modFo s f).tamper = s.tamper := rfl
@[simp] theorem modFo_bus (s : State) (f : FoSt → FoSt) : (modFo s f).bus = s.bus := rfl
@[simp] theorem modFo_cv (s : State) (f : FoSt → FoSt) : (modFo s f).cv = s.cv := rfl
@[simp] theorem modFo_log (s : State) (f : FoSt → FoSt) : (modFo s f).log = s.log := rfl
@[simp] theorem modFo_outboxes (s : State) (f : FoSt → FoSt) : (modFo s f).outboxes = s.outboxes := rfl
@[simp] theorem modFo_power (s : State) (f : FoSt → FoSt) : (modFo s f).power = s.power := rfl

@[simp] theorem modTmp_tamper (s : State) (f : TamperSt → TamperSt) : (modTmp s f).tamper = f s.tamper := rfl
@[simp] theorem modTmp_pending (s : State) (f : TamperSt → TamperSt) : (modTmp s f).pending = s.pending := rfl
@[simp] theorem modTmp_part (s : State) (f : TamperSt → TamperSt) : (modTmp s f).part = s.part := rfl
@[simp] theorem modTmp_now (s : State) (f : TamperSt → TamperSt) : (modTmp s f).now = s.now := rfl
@[simp] theorem modTmp_freeIdx (s : State) (f : TamperSt → TamperSt) : (modTmp s f).freeIdx = s.freeIdx := rfl
@[simp] theorem modTmp_regs (s : State) (f : TamperSt → TamperSt) : (modTmp s f).regs = s.regs := rfl
@[simp] theorem modTmp_shadow (s : State) (f : TamperSt → TamperSt) : (modTmp s f).shadow = s.shadow := rfl
@[simp] theorem modTmp_loRead (s : State) (f : TamperSt → TamperSt) : (modTmp s f).loRead = s.loRead := rfl
@[simp] theorem modTmp_loStaged (s : State) (f : TamperSt → TamperSt) : (modTmp s f).loStaged = s.loStaged := rfl
@[simp] theorem modTmp_logRd (s : State) (f : TamperSt → TamperSt) : (modTmp s f).logRd = s.logRd := rfl
@[simp] theorem modTmp_out (s : State) (f : TamperSt → TamperSt) : (modTmp s f).out = s.out := rfl
@[simp] theorem modTmp_tb (s : State) (f : TamperSt → TamperSt) : (modTmp s f).tb = s.tb := rfl
@[simp] theorem modTmp_seqr (s : State) (f : TamperSt → TamperSt) : (modTmp s f).seqr = s.seqr := rfl
@[simp] theorem modTmp_dies (s : State) (f : TamperSt → TamperSt) : (modTmp s f).dies = s.dies := rfl
@[simp] theorem modTmp_ledgers (s : State) (f : TamperSt → TamperSt) : (modTmp s f).ledgers = s.ledgers := rfl
@[simp] theorem modTmp_boot (s : State) (f : TamperSt → TamperSt) : (modTmp s f).boot = s.boot := rfl
@[simp] theorem modTmp_flash (s : State) (f : TamperSt → TamperSt) : (modTmp s f).flash = s.flash := rfl
@[simp] theorem modTmp_img (s : State) (f : TamperSt → TamperSt) : (modTmp s f).img = s.img := rfl
@[simp] theorem modTmp_otp (s : State) (f : TamperSt → TamperSt) : (modTmp s f).otp = s.otp := rfl
@[simp] theorem modTmp_ports (s : State) (f : TamperSt → TamperSt) : (modTmp s f).ports = s.ports := rfl
@[simp] theorem modTmp_accesses (s : State) (f : TamperSt → TamperSt) : (modTmp s f).accesses = s.accesses := rfl
@[simp] theorem modTmp_accessTag (s : State) (f : TamperSt → TamperSt) : (modTmp s f).accessTag = s.accessTag := rfl
@[simp] theorem modTmp_fabs (s : State) (f : TamperSt → TamperSt) : (modTmp s f).fabs = s.fabs := rfl
@[simp] theorem modTmp_mem (s : State) (f : TamperSt → TamperSt) : (modTmp s f).mem = s.mem := rfl
@[simp] theorem modTmp_eye (s : State) (f : TamperSt → TamperSt) : (modTmp s f).eye = s.eye := rfl
@[simp] theorem modTmp_isp (s : State) (f : TamperSt → TamperSt) : (modTmp s f).isp = s.isp := rfl
@[simp] theorem modTmp_comp (s : State) (f : TamperSt → TamperSt) : (modTmp s f).comp = s.comp := rfl
@[simp] theorem modTmp_det (s : State) (f : TamperSt → TamperSt) : (modTmp s f).det = s.det := rfl
@[simp] theorem modTmp_guard (s : State) (f : TamperSt → TamperSt) : (modTmp s f).guard = s.guard := rfl
@[simp] theorem modTmp_hv (s : State) (f : TamperSt → TamperSt) : (modTmp s f).hv = s.hv := rfl
@[simp] theorem modTmp_net (s : State) (f : TamperSt → TamperSt) : (modTmp s f).net = s.net := rfl
@[simp] theorem modTmp_bcp (s : State) (f : TamperSt → TamperSt) : (modTmp s f).bcp = s.bcp := rfl
@[simp] theorem modTmp_stage (s : State) (f : TamperSt → TamperSt) : (modTmp s f).stage = s.stage := rfl
@[simp] theorem modTmp_sw (s : State) (f : TamperSt → TamperSt) : (modTmp s f).sw = s.sw := rfl
@[simp] theorem modTmp_recs (s : State) (f : TamperSt → TamperSt) : (modTmp s f).recs = s.recs := rfl
@[simp] theorem modTmp_peers (s : State) (f : TamperSt → TamperSt) : (modTmp s f).peers = s.peers := rfl
@[simp] theorem modTmp_lst (s : State) (f : TamperSt → TamperSt) : (modTmp s f).lst = s.lst := rfl
@[simp] theorem modTmp_hk (s : State) (f : TamperSt → TamperSt) : (modTmp s f).hk = s.hk := rfl
@[simp] theorem modTmp_fo (s : State) (f : TamperSt → TamperSt) : (modTmp s f).fo = s.fo := rfl
@[simp] theorem modTmp_bus (s : State) (f : TamperSt → TamperSt) : (modTmp s f).bus = s.bus := rfl
@[simp] theorem modTmp_cv (s : State) (f : TamperSt → TamperSt) : (modTmp s f).cv = s.cv := rfl
@[simp] theorem modTmp_log (s : State) (f : TamperSt → TamperSt) : (modTmp s f).log = s.log := rfl
@[simp] theorem modTmp_outboxes (s : State) (f : TamperSt → TamperSt) : (modTmp s f).outboxes = s.outboxes := rfl
@[simp] theorem modTmp_power (s : State) (f : TamperSt → TamperSt) : (modTmp s f).power = s.power := rfl

@[simp] theorem modBus_bus (s : State) (f : BusSt → BusSt) : (modBus s f).bus = f s.bus := rfl
@[simp] theorem modBus_pending (s : State) (f : BusSt → BusSt) : (modBus s f).pending = s.pending := rfl
@[simp] theorem modBus_part (s : State) (f : BusSt → BusSt) : (modBus s f).part = s.part := rfl
@[simp] theorem modBus_now (s : State) (f : BusSt → BusSt) : (modBus s f).now = s.now := rfl
@[simp] theorem modBus_freeIdx (s : State) (f : BusSt → BusSt) : (modBus s f).freeIdx = s.freeIdx := rfl
@[simp] theorem modBus_regs (s : State) (f : BusSt → BusSt) : (modBus s f).regs = s.regs := rfl
@[simp] theorem modBus_shadow (s : State) (f : BusSt → BusSt) : (modBus s f).shadow = s.shadow := rfl
@[simp] theorem modBus_loRead (s : State) (f : BusSt → BusSt) : (modBus s f).loRead = s.loRead := rfl
@[simp] theorem modBus_loStaged (s : State) (f : BusSt → BusSt) : (modBus s f).loStaged = s.loStaged := rfl
@[simp] theorem modBus_logRd (s : State) (f : BusSt → BusSt) : (modBus s f).logRd = s.logRd := rfl
@[simp] theorem modBus_out (s : State) (f : BusSt → BusSt) : (modBus s f).out = s.out := rfl
@[simp] theorem modBus_tb (s : State) (f : BusSt → BusSt) : (modBus s f).tb = s.tb := rfl
@[simp] theorem modBus_seqr (s : State) (f : BusSt → BusSt) : (modBus s f).seqr = s.seqr := rfl
@[simp] theorem modBus_dies (s : State) (f : BusSt → BusSt) : (modBus s f).dies = s.dies := rfl
@[simp] theorem modBus_ledgers (s : State) (f : BusSt → BusSt) : (modBus s f).ledgers = s.ledgers := rfl
@[simp] theorem modBus_boot (s : State) (f : BusSt → BusSt) : (modBus s f).boot = s.boot := rfl
@[simp] theorem modBus_flash (s : State) (f : BusSt → BusSt) : (modBus s f).flash = s.flash := rfl
@[simp] theorem modBus_img (s : State) (f : BusSt → BusSt) : (modBus s f).img = s.img := rfl
@[simp] theorem modBus_otp (s : State) (f : BusSt → BusSt) : (modBus s f).otp = s.otp := rfl
@[simp] theorem modBus_ports (s : State) (f : BusSt → BusSt) : (modBus s f).ports = s.ports := rfl
@[simp] theorem modBus_accesses (s : State) (f : BusSt → BusSt) : (modBus s f).accesses = s.accesses := rfl
@[simp] theorem modBus_accessTag (s : State) (f : BusSt → BusSt) : (modBus s f).accessTag = s.accessTag := rfl
@[simp] theorem modBus_fabs (s : State) (f : BusSt → BusSt) : (modBus s f).fabs = s.fabs := rfl
@[simp] theorem modBus_mem (s : State) (f : BusSt → BusSt) : (modBus s f).mem = s.mem := rfl
@[simp] theorem modBus_eye (s : State) (f : BusSt → BusSt) : (modBus s f).eye = s.eye := rfl
@[simp] theorem modBus_isp (s : State) (f : BusSt → BusSt) : (modBus s f).isp = s.isp := rfl
@[simp] theorem modBus_comp (s : State) (f : BusSt → BusSt) : (modBus s f).comp = s.comp := rfl
@[simp] theorem modBus_det (s : State) (f : BusSt → BusSt) : (modBus s f).det = s.det := rfl
@[simp] theorem modBus_guard (s : State) (f : BusSt → BusSt) : (modBus s f).guard = s.guard := rfl
@[simp] theorem modBus_hv (s : State) (f : BusSt → BusSt) : (modBus s f).hv = s.hv := rfl
@[simp] theorem modBus_net (s : State) (f : BusSt → BusSt) : (modBus s f).net = s.net := rfl
@[simp] theorem modBus_bcp (s : State) (f : BusSt → BusSt) : (modBus s f).bcp = s.bcp := rfl
@[simp] theorem modBus_stage (s : State) (f : BusSt → BusSt) : (modBus s f).stage = s.stage := rfl
@[simp] theorem modBus_sw (s : State) (f : BusSt → BusSt) : (modBus s f).sw = s.sw := rfl
@[simp] theorem modBus_recs (s : State) (f : BusSt → BusSt) : (modBus s f).recs = s.recs := rfl
@[simp] theorem modBus_peers (s : State) (f : BusSt → BusSt) : (modBus s f).peers = s.peers := rfl
@[simp] theorem modBus_lst (s : State) (f : BusSt → BusSt) : (modBus s f).lst = s.lst := rfl
@[simp] theorem modBus_hk (s : State) (f : BusSt → BusSt) : (modBus s f).hk = s.hk := rfl
@[simp] theorem modBus_fo (s : State) (f : BusSt → BusSt) : (modBus s f).fo = s.fo := rfl
@[simp] theorem modBus_tamper (s : State) (f : BusSt → BusSt) : (modBus s f).tamper = s.tamper := rfl
@[simp] theorem modBus_cv (s : State) (f : BusSt → BusSt) : (modBus s f).cv = s.cv := rfl
@[simp] theorem modBus_log (s : State) (f : BusSt → BusSt) : (modBus s f).log = s.log := rfl
@[simp] theorem modBus_outboxes (s : State) (f : BusSt → BusSt) : (modBus s f).outboxes = s.outboxes := rfl
@[simp] theorem modBus_power (s : State) (f : BusSt → BusSt) : (modBus s f).power = s.power := rfl

@[simp] theorem modCv_cv (s : State) (c : Nat) (f : CvCtx → CvCtx) : (modCv s c f).cv = vmod s.cv c f := rfl
@[simp] theorem modCv_pending (s : State) (c : Nat) (f : CvCtx → CvCtx) : (modCv s c f).pending = s.pending := rfl
@[simp] theorem modCv_part (s : State) (c : Nat) (f : CvCtx → CvCtx) : (modCv s c f).part = s.part := rfl
@[simp] theorem modCv_now (s : State) (c : Nat) (f : CvCtx → CvCtx) : (modCv s c f).now = s.now := rfl
@[simp] theorem modCv_freeIdx (s : State) (c : Nat) (f : CvCtx → CvCtx) : (modCv s c f).freeIdx = s.freeIdx := rfl
@[simp] theorem modCv_regs (s : State) (c : Nat) (f : CvCtx → CvCtx) : (modCv s c f).regs = s.regs := rfl
@[simp] theorem modCv_shadow (s : State) (c : Nat) (f : CvCtx → CvCtx) : (modCv s c f).shadow = s.shadow := rfl
@[simp] theorem modCv_loRead (s : State) (c : Nat) (f : CvCtx → CvCtx) : (modCv s c f).loRead = s.loRead := rfl
@[simp] theorem modCv_loStaged (s : State) (c : Nat) (f : CvCtx → CvCtx) : (modCv s c f).loStaged = s.loStaged := rfl
@[simp] theorem modCv_logRd (s : State) (c : Nat) (f : CvCtx → CvCtx) : (modCv s c f).logRd = s.logRd := rfl
@[simp] theorem modCv_out (s : State) (c : Nat) (f : CvCtx → CvCtx) : (modCv s c f).out = s.out := rfl
@[simp] theorem modCv_tb (s : State) (c : Nat) (f : CvCtx → CvCtx) : (modCv s c f).tb = s.tb := rfl
@[simp] theorem modCv_seqr (s : State) (c : Nat) (f : CvCtx → CvCtx) : (modCv s c f).seqr = s.seqr := rfl
@[simp] theorem modCv_dies (s : State) (c : Nat) (f : CvCtx → CvCtx) : (modCv s c f).dies = s.dies := rfl
@[simp] theorem modCv_ledgers (s : State) (c : Nat) (f : CvCtx → CvCtx) : (modCv s c f).ledgers = s.ledgers := rfl
@[simp] theorem modCv_boot (s : State) (c : Nat) (f : CvCtx → CvCtx) : (modCv s c f).boot = s.boot := rfl
@[simp] theorem modCv_flash (s : State) (c : Nat) (f : CvCtx → CvCtx) : (modCv s c f).flash = s.flash := rfl
@[simp] theorem modCv_img (s : State) (c : Nat) (f : CvCtx → CvCtx) : (modCv s c f).img = s.img := rfl
@[simp] theorem modCv_otp (s : State) (c : Nat) (f : CvCtx → CvCtx) : (modCv s c f).otp = s.otp := rfl
@[simp] theorem modCv_ports (s : State) (c : Nat) (f : CvCtx → CvCtx) : (modCv s c f).ports = s.ports := rfl
@[simp] theorem modCv_accesses (s : State) (c : Nat) (f : CvCtx → CvCtx) : (modCv s c f).accesses = s.accesses := rfl
@[simp] theorem modCv_accessTag (s : State) (c : Nat) (f : CvCtx → CvCtx) : (modCv s c f).accessTag = s.accessTag := rfl
@[simp] theorem modCv_fabs (s : State) (c : Nat) (f : CvCtx → CvCtx) : (modCv s c f).fabs = s.fabs := rfl
@[simp] theorem modCv_mem (s : State) (c : Nat) (f : CvCtx → CvCtx) : (modCv s c f).mem = s.mem := rfl
@[simp] theorem modCv_eye (s : State) (c : Nat) (f : CvCtx → CvCtx) : (modCv s c f).eye = s.eye := rfl
@[simp] theorem modCv_isp (s : State) (c : Nat) (f : CvCtx → CvCtx) : (modCv s c f).isp = s.isp := rfl
@[simp] theorem modCv_comp (s : State) (c : Nat) (f : CvCtx → CvCtx) : (modCv s c f).comp = s.comp := rfl
@[simp] theorem modCv_det (s : State) (c : Nat) (f : CvCtx → CvCtx) : (modCv s c f).det = s.det := rfl
@[simp] theorem modCv_guard (s : State) (c : Nat) (f : CvCtx → CvCtx) : (modCv s c f).guard = s.guard := rfl
@[simp] theorem modCv_hv (s : State) (c : Nat) (f : CvCtx → CvCtx) : (modCv s c f).hv = s.hv := rfl
@[simp] theorem modCv_net (s : State) (c : Nat) (f : CvCtx → CvCtx) : (modCv s c f).net = s.net := rfl
@[simp] theorem modCv_bcp (s : State) (c : Nat) (f : CvCtx → CvCtx) : (modCv s c f).bcp = s.bcp := rfl
@[simp] theorem modCv_stage (s : State) (c : Nat) (f : CvCtx → CvCtx) : (modCv s c f).stage = s.stage := rfl
@[simp] theorem modCv_sw (s : State) (c : Nat) (f : CvCtx → CvCtx) : (modCv s c f).sw = s.sw := rfl
@[simp] theorem modCv_recs (s : State) (c : Nat) (f : CvCtx → CvCtx) : (modCv s c f).recs = s.recs := rfl
@[simp] theorem modCv_peers (s : State) (c : Nat) (f : CvCtx → CvCtx) : (modCv s c f).peers = s.peers := rfl
@[simp] theorem modCv_lst (s : State) (c : Nat) (f : CvCtx → CvCtx) : (modCv s c f).lst = s.lst := rfl
@[simp] theorem modCv_hk (s : State) (c : Nat) (f : CvCtx → CvCtx) : (modCv s c f).hk = s.hk := rfl
@[simp] theorem modCv_fo (s : State) (c : Nat) (f : CvCtx → CvCtx) : (modCv s c f).fo = s.fo := rfl
@[simp] theorem modCv_tamper (s : State) (c : Nat) (f : CvCtx → CvCtx) : (modCv s c f).tamper = s.tamper := rfl
@[simp] theorem modCv_bus (s : State) (c : Nat) (f : CvCtx → CvCtx) : (modCv s c f).bus = s.bus := rfl
@[simp] theorem modCv_log (s : State) (c : Nat) (f : CvCtx → CvCtx) : (modCv s c f).log = s.log := rfl
@[simp] theorem modCv_outboxes (s : State) (c : Nat) (f : CvCtx → CvCtx) : (modCv s c f).outboxes = s.outboxes := rfl
@[simp] theorem modCv_power (s : State) (c : Nat) (f : CvCtx → CvCtx) : (modCv s c f).power = s.power := rfl

@[simp] theorem modLog_log (s : State) (f : LogSt → LogSt) : (modLog s f).log = f s.log := rfl
@[simp] theorem modLog_pending (s : State) (f : LogSt → LogSt) : (modLog s f).pending = s.pending := rfl
@[simp] theorem modLog_part (s : State) (f : LogSt → LogSt) : (modLog s f).part = s.part := rfl
@[simp] theorem modLog_now (s : State) (f : LogSt → LogSt) : (modLog s f).now = s.now := rfl
@[simp] theorem modLog_freeIdx (s : State) (f : LogSt → LogSt) : (modLog s f).freeIdx = s.freeIdx := rfl
@[simp] theorem modLog_regs (s : State) (f : LogSt → LogSt) : (modLog s f).regs = s.regs := rfl
@[simp] theorem modLog_shadow (s : State) (f : LogSt → LogSt) : (modLog s f).shadow = s.shadow := rfl
@[simp] theorem modLog_loRead (s : State) (f : LogSt → LogSt) : (modLog s f).loRead = s.loRead := rfl
@[simp] theorem modLog_loStaged (s : State) (f : LogSt → LogSt) : (modLog s f).loStaged = s.loStaged := rfl
@[simp] theorem modLog_logRd (s : State) (f : LogSt → LogSt) : (modLog s f).logRd = s.logRd := rfl
@[simp] theorem modLog_out (s : State) (f : LogSt → LogSt) : (modLog s f).out = s.out := rfl
@[simp] theorem modLog_tb (s : State) (f : LogSt → LogSt) : (modLog s f).tb = s.tb := rfl
@[simp] theorem modLog_seqr (s : State) (f : LogSt → LogSt) : (modLog s f).seqr = s.seqr := rfl
@[simp] theorem modLog_dies (s : State) (f : LogSt → LogSt) : (modLog s f).dies = s.dies := rfl
@[simp] theorem modLog_ledgers (s : State) (f : LogSt → LogSt) : (modLog s f).ledgers = s.ledgers := rfl
@[simp] theorem modLog_boot (s : State) (f : LogSt → LogSt) : (modLog s f).boot = s.boot := rfl
@[simp] theorem modLog_flash (s : State) (f : LogSt → LogSt) : (modLog s f).flash = s.flash := rfl
@[simp] theorem modLog_img (s : State) (f : LogSt → LogSt) : (modLog s f).img = s.img := rfl
@[simp] theorem modLog_otp (s : State) (f : LogSt → LogSt) : (modLog s f).otp = s.otp := rfl
@[simp] theorem modLog_ports (s : State) (f : LogSt → LogSt) : (modLog s f).ports = s.ports := rfl
@[simp] theorem modLog_accesses (s : State) (f : LogSt → LogSt) : (modLog s f).accesses = s.accesses := rfl
@[simp] theorem modLog_accessTag (s : State) (f : LogSt → LogSt) : (modLog s f).accessTag = s.accessTag := rfl
@[simp] theorem modLog_fabs (s : State) (f : LogSt → LogSt) : (modLog s f).fabs = s.fabs := rfl
@[simp] theorem modLog_mem (s : State) (f : LogSt → LogSt) : (modLog s f).mem = s.mem := rfl
@[simp] theorem modLog_eye (s : State) (f : LogSt → LogSt) : (modLog s f).eye = s.eye := rfl
@[simp] theorem modLog_isp (s : State) (f : LogSt → LogSt) : (modLog s f).isp = s.isp := rfl
@[simp] theorem modLog_comp (s : State) (f : LogSt → LogSt) : (modLog s f).comp = s.comp := rfl
@[simp] theorem modLog_det (s : State) (f : LogSt → LogSt) : (modLog s f).det = s.det := rfl
@[simp] theorem modLog_guard (s : State) (f : LogSt → LogSt) : (modLog s f).guard = s.guard := rfl
@[simp] theorem modLog_hv (s : State) (f : LogSt → LogSt) : (modLog s f).hv = s.hv := rfl
@[simp] theorem modLog_net (s : State) (f : LogSt → LogSt) : (modLog s f).net = s.net := rfl
@[simp] theorem modLog_bcp (s : State) (f : LogSt → LogSt) : (modLog s f).bcp = s.bcp := rfl
@[simp] theorem modLog_stage (s : State) (f : LogSt → LogSt) : (modLog s f).stage = s.stage := rfl
@[simp] theorem modLog_sw (s : State) (f : LogSt → LogSt) : (modLog s f).sw = s.sw := rfl
@[simp] theorem modLog_recs (s : State) (f : LogSt → LogSt) : (modLog s f).recs = s.recs := rfl
@[simp] theorem modLog_peers (s : State) (f : LogSt → LogSt) : (modLog s f).peers = s.peers := rfl
@[simp] theorem modLog_lst (s : State) (f : LogSt → LogSt) : (modLog s f).lst = s.lst := rfl
@[simp] theorem modLog_hk (s : State) (f : LogSt → LogSt) : (modLog s f).hk = s.hk := rfl
@[simp] theorem modLog_fo (s : State) (f : LogSt → LogSt) : (modLog s f).fo = s.fo := rfl
@[simp] theorem modLog_tamper (s : State) (f : LogSt → LogSt) : (modLog s f).tamper = s.tamper := rfl
@[simp] theorem modLog_bus (s : State) (f : LogSt → LogSt) : (modLog s f).bus = s.bus := rfl
@[simp] theorem modLog_cv (s : State) (f : LogSt → LogSt) : (modLog s f).cv = s.cv := rfl
@[simp] theorem modLog_outboxes (s : State) (f : LogSt → LogSt) : (modLog s f).outboxes = s.outboxes := rfl
@[simp] theorem modLog_power (s : State) (f : LogSt → LogSt) : (modLog s f).power = s.power := rfl

@[simp] theorem modPower_power (s : State) (f : PowerSt → PowerSt) : (modPower s f).power = f s.power := rfl
@[simp] theorem modPower_pending (s : State) (f : PowerSt → PowerSt) : (modPower s f).pending = s.pending := rfl
@[simp] theorem modPower_part (s : State) (f : PowerSt → PowerSt) : (modPower s f).part = s.part := rfl
@[simp] theorem modPower_now (s : State) (f : PowerSt → PowerSt) : (modPower s f).now = s.now := rfl
@[simp] theorem modPower_freeIdx (s : State) (f : PowerSt → PowerSt) : (modPower s f).freeIdx = s.freeIdx := rfl
@[simp] theorem modPower_regs (s : State) (f : PowerSt → PowerSt) : (modPower s f).regs = s.regs := rfl
@[simp] theorem modPower_shadow (s : State) (f : PowerSt → PowerSt) : (modPower s f).shadow = s.shadow := rfl
@[simp] theorem modPower_loRead (s : State) (f : PowerSt → PowerSt) : (modPower s f).loRead = s.loRead := rfl
@[simp] theorem modPower_loStaged (s : State) (f : PowerSt → PowerSt) : (modPower s f).loStaged = s.loStaged := rfl
@[simp] theorem modPower_logRd (s : State) (f : PowerSt → PowerSt) : (modPower s f).logRd = s.logRd := rfl
@[simp] theorem modPower_out (s : State) (f : PowerSt → PowerSt) : (modPower s f).out = s.out := rfl
@[simp] theorem modPower_tb (s : State) (f : PowerSt → PowerSt) : (modPower s f).tb = s.tb := rfl
@[simp] theorem modPower_seqr (s : State) (f : PowerSt → PowerSt) : (modPower s f).seqr = s.seqr := rfl
@[simp] theorem modPower_dies (s : State) (f : PowerSt → PowerSt) : (modPower s f).dies = s.dies := rfl
@[simp] theorem modPower_ledgers (s : State) (f : PowerSt → PowerSt) : (modPower s f).ledgers = s.ledgers := rfl
@[simp] theorem modPower_boot (s : State) (f : PowerSt → PowerSt) : (modPower s f).boot = s.boot := rfl
@[simp] theorem modPower_flash (s : State) (f : PowerSt → PowerSt) : (modPower s f).flash = s.flash := rfl
@[simp] theorem modPower_img (s : State) (f : PowerSt → PowerSt) : (modPower s f).img = s.img := rfl
@[simp] theorem modPower_otp (s : State) (f : PowerSt → PowerSt) : (modPower s f).otp = s.otp := rfl
@[simp] theorem modPower_ports (s : State) (f : PowerSt → PowerSt) : (modPower s f).ports = s.ports := rfl
@[simp] theorem modPower_accesses (s : State) (f : PowerSt → PowerSt) : (modPower s f).accesses = s.accesses := rfl
@[simp] theorem modPower_accessTag (s : State) (f : PowerSt → PowerSt) : (modPower s f).accessTag = s.accessTag := rfl
@[simp] theorem modPower_fabs (s : State) (f : PowerSt → PowerSt) : (modPower s f).fabs = s.fabs := rfl
@[simp] theorem modPower_mem (s : State) (f : PowerSt → PowerSt) : (modPower s f).mem = s.mem := rfl
@[simp] theorem modPower_eye (s : State) (f : PowerSt → PowerSt) : (modPower s f).eye = s.eye := rfl
@[simp] theorem modPower_isp (s : State) (f : PowerSt → PowerSt) : (modPower s f).isp = s.isp := rfl
@[simp] theorem modPower_comp (s : State) (f : PowerSt → PowerSt) : (modPower s f).comp = s.comp := rfl
@[simp] theorem modPower_det (s : State) (f : PowerSt → PowerSt) : (modPower s f).det = s.det := rfl
@[simp] theorem modPower_guard (s : State) (f : PowerSt → PowerSt) : (modPower s f).guard = s.guard := rfl
@[simp] theorem modPower_hv (s : State) (f : PowerSt → PowerSt) : (modPower s f).hv = s.hv := rfl
@[simp] theorem modPower_net (s : State) (f : PowerSt → PowerSt) : (modPower s f).net = s.net := rfl
@[simp] theorem modPower_bcp (s : State) (f : PowerSt → PowerSt) : (modPower s f).bcp = s.bcp := rfl
@[simp] theorem modPower_stage (s : State) (f : PowerSt → PowerSt) : (modPower s f).stage = s.stage := rfl
@[simp] theorem modPower_sw (s : State) (f : PowerSt → PowerSt) : (modPower s f).sw = s.sw := rfl
@[simp] theorem modPower_recs (s : State) (f : PowerSt → PowerSt) : (modPower s f).recs = s.recs := rfl
@[simp] theorem modPower_peers (s : State) (f : PowerSt → PowerSt) : (modPower s f).peers = s.peers := rfl
@[simp] theorem modPower_lst (s : State) (f : PowerSt → PowerSt) : (modPower s f).lst = s.lst := rfl
@[simp] theorem modPower_hk (s : State) (f : PowerSt → PowerSt) : (modPower s f).hk = s.hk := rfl
@[simp] theorem modPower_fo (s : State) (f : PowerSt → PowerSt) : (modPower s f).fo = s.fo := rfl
@[simp] theorem modPower_tamper (s : State) (f : PowerSt → PowerSt) : (modPower s f).tamper = s.tamper := rfl
@[simp] theorem modPower_bus (s : State) (f : PowerSt → PowerSt) : (modPower s f).bus = s.bus := rfl
@[simp] theorem modPower_cv (s : State) (f : PowerSt → PowerSt) : (modPower s f).cv = s.cv := rfl
@[simp] theorem modPower_log (s : State) (f : PowerSt → PowerSt) : (modPower s f).log = s.log := rfl
@[simp] theorem modPower_outboxes (s : State) (f : PowerSt → PowerSt) : (modPower s f).outboxes = s.outboxes := rfl

@[simp] theorem modTb_tb (s : State) (f : TbSt → TbSt) : (modTb s f).tb = f s.tb := rfl
@[simp] theorem modTb_pending (s : State) (f : TbSt → TbSt) : (modTb s f).pending = s.pending := rfl
@[simp] theorem modTb_part (s : State) (f : TbSt → TbSt) : (modTb s f).part = s.part := rfl
@[simp] theorem modTb_now (s : State) (f : TbSt → TbSt) : (modTb s f).now = s.now := rfl
@[simp] theorem modTb_freeIdx (s : State) (f : TbSt → TbSt) : (modTb s f).freeIdx = s.freeIdx := rfl
@[simp] theorem modTb_regs (s : State) (f : TbSt → TbSt) : (modTb s f).regs = s.regs := rfl
@[simp] theorem modTb_shadow (s : State) (f : TbSt → TbSt) : (modTb s f).shadow = s.shadow := rfl
@[simp] theorem modTb_loRead (s : State) (f : TbSt → TbSt) : (modTb s f).loRead = s.loRead := rfl
@[simp] theorem modTb_loStaged (s : State) (f : TbSt → TbSt) : (modTb s f).loStaged = s.loStaged := rfl
@[simp] theorem modTb_logRd (s : State) (f : TbSt → TbSt) : (modTb s f).logRd = s.logRd := rfl
@[simp] theorem modTb_out (s : State) (f : TbSt → TbSt) : (modTb s f).out = s.out := rfl
@[simp] theorem modTb_seqr (s : State) (f : TbSt → TbSt) : (modTb s f).seqr = s.seqr := rfl
@[simp] theorem modTb_dies (s : State) (f : TbSt → TbSt) : (modTb s f).dies = s.dies := rfl
@[simp] theorem modTb_ledgers (s : State) (f : TbSt → TbSt) : (modTb s f).ledgers = s.ledgers := rfl
@[simp] theorem modTb_boot (s : State) (f : TbSt → TbSt) : (modTb s f).boot = s.boot := rfl
@[simp] theorem modTb_flash (s : State) (f : TbSt → TbSt) : (modTb s f).flash = s.flash := rfl
@[simp] theorem modTb_img (s : State) (f : TbSt → TbSt) : (modTb s f).img = s.img := rfl
@[simp] theorem modTb_otp (s : State) (f : TbSt → TbSt) : (modTb s f).otp = s.otp := rfl
@[simp] theorem modTb_ports (s : State) (f : TbSt → TbSt) : (modTb s f).ports = s.ports := rfl
@[simp] theorem modTb_accesses (s : State) (f : TbSt → TbSt) : (modTb s f).accesses = s.accesses := rfl
@[simp] theorem modTb_accessTag (s : State) (f : TbSt → TbSt) : (modTb s f).accessTag = s.accessTag := rfl
@[simp] theorem modTb_fabs (s : State) (f : TbSt → TbSt) : (modTb s f).fabs = s.fabs := rfl
@[simp] theorem modTb_mem (s : State) (f : TbSt → TbSt) : (modTb s f).mem = s.mem := rfl
@[simp] theorem modTb_eye (s : State) (f : TbSt → TbSt) : (modTb s f).eye = s.eye := rfl
@[simp] theorem modTb_isp (s : State) (f : TbSt → TbSt) : (modTb s f).isp = s.isp := rfl
@[simp] theorem modTb_comp (s : State) (f : TbSt → TbSt) : (modTb s f).comp = s.comp := rfl
@[simp] theorem modTb_det (s : State) (f : TbSt → TbSt) : (modTb s f).det = s.det := rfl
@[simp] theorem modTb_guard (s : State) (f : TbSt → TbSt) : (modTb s f).guard = s.guard := rfl
@[simp] theorem modTb_hv (s : State) (f : TbSt → TbSt) : (modTb s f).hv = s.hv := rfl
@[simp] theorem modTb_net (s : State) (f : TbSt → TbSt) : (modTb s f).net = s.net := rfl
@[simp] theorem modTb_bcp (s : State) (f : TbSt → TbSt) : (modTb s f).bcp = s.bcp := rfl
@[simp] theorem modTb_stage (s : State) (f : TbSt → TbSt) : (modTb s f).stage = s.stage := rfl
@[simp] theorem modTb_sw (s : State) (f : TbSt → TbSt) : (modTb s f).sw = s.sw := rfl
@[simp] theorem modTb_recs (s : State) (f : TbSt → TbSt) : (modTb s f).recs = s.recs := rfl
@[simp] theorem modTb_peers (s : State) (f : TbSt → TbSt) : (modTb s f).peers = s.peers := rfl
@[simp] theorem modTb_lst (s : State) (f : TbSt → TbSt) : (modTb s f).lst = s.lst := rfl
@[simp] theorem modTb_hk (s : State) (f : TbSt → TbSt) : (modTb s f).hk = s.hk := rfl
@[simp] theorem modTb_fo (s : State) (f : TbSt → TbSt) : (modTb s f).fo = s.fo := rfl
@[simp] theorem modTb_tamper (s : State) (f : TbSt → TbSt) : (modTb s f).tamper = s.tamper := rfl
@[simp] theorem modTb_bus (s : State) (f : TbSt → TbSt) : (modTb s f).bus = s.bus := rfl
@[simp] theorem modTb_cv (s : State) (f : TbSt → TbSt) : (modTb s f).cv = s.cv := rfl
@[simp] theorem modTb_log (s : State) (f : TbSt → TbSt) : (modTb s f).log = s.log := rfl
@[simp] theorem modTb_outboxes (s : State) (f : TbSt → TbSt) : (modTb s f).outboxes = s.outboxes := rfl
@[simp] theorem modTb_power (s : State) (f : TbSt → TbSt) : (modTb s f).power = s.power := rfl

@[simp] theorem modSeq_seqr (s : State) (f : SeqSt → SeqSt) : (modSeq s f).seqr = f s.seqr := rfl
@[simp] theorem modSeq_pending (s : State) (f : SeqSt → SeqSt) : (modSeq s f).pending = s.pending := rfl
@[simp] theorem modSeq_part (s : State) (f : SeqSt → SeqSt) : (modSeq s f).part = s.part := rfl
@[simp] theorem modSeq_now (s : State) (f : SeqSt → SeqSt) : (modSeq s f).now = s.now := rfl
@[simp] theorem modSeq_freeIdx (s : State) (f : SeqSt → SeqSt) : (modSeq s f).freeIdx = s.freeIdx := rfl
@[simp] theorem modSeq_regs (s : State) (f : SeqSt → SeqSt) : (modSeq s f).regs = s.regs := rfl
@[simp] theorem modSeq_shadow (s : State) (f : SeqSt → SeqSt) : (modSeq s f).shadow = s.shadow := rfl
@[simp] theorem modSeq_loRead (s : State) (f : SeqSt → SeqSt) : (modSeq s f).loRead = s.loRead := rfl
@[simp] theorem modSeq_loStaged (s : State) (f : SeqSt → SeqSt) : (modSeq s f).loStaged = s.loStaged := rfl
@[simp] theorem modSeq_logRd (s : State) (f : SeqSt → SeqSt) : (modSeq s f).logRd = s.logRd := rfl
@[simp] theorem modSeq_out (s : State) (f : SeqSt → SeqSt) : (modSeq s f).out = s.out := rfl
@[simp] theorem modSeq_tb (s : State) (f : SeqSt → SeqSt) : (modSeq s f).tb = s.tb := rfl
@[simp] theorem modSeq_dies (s : State) (f : SeqSt → SeqSt) : (modSeq s f).dies = s.dies := rfl
@[simp] theorem modSeq_ledgers (s : State) (f : SeqSt → SeqSt) : (modSeq s f).ledgers = s.ledgers := rfl
@[simp] theorem modSeq_boot (s : State) (f : SeqSt → SeqSt) : (modSeq s f).boot = s.boot := rfl
@[simp] theorem modSeq_flash (s : State) (f : SeqSt → SeqSt) : (modSeq s f).flash = s.flash := rfl
@[simp] theorem modSeq_img (s : State) (f : SeqSt → SeqSt) : (modSeq s f).img = s.img := rfl
@[simp] theorem modSeq_otp (s : State) (f : SeqSt → SeqSt) : (modSeq s f).otp = s.otp := rfl
@[simp] theorem modSeq_ports (s : State) (f : SeqSt → SeqSt) : (modSeq s f).ports = s.ports := rfl
@[simp] theorem modSeq_accesses (s : State) (f : SeqSt → SeqSt) : (modSeq s f).accesses = s.accesses := rfl
@[simp] theorem modSeq_accessTag (s : State) (f : SeqSt → SeqSt) : (modSeq s f).accessTag = s.accessTag := rfl
@[simp] theorem modSeq_fabs (s : State) (f : SeqSt → SeqSt) : (modSeq s f).fabs = s.fabs := rfl
@[simp] theorem modSeq_mem (s : State) (f : SeqSt → SeqSt) : (modSeq s f).mem = s.mem := rfl
@[simp] theorem modSeq_eye (s : State) (f : SeqSt → SeqSt) : (modSeq s f).eye = s.eye := rfl
@[simp] theorem modSeq_isp (s : State) (f : SeqSt → SeqSt) : (modSeq s f).isp = s.isp := rfl
@[simp] theorem modSeq_comp (s : State) (f : SeqSt → SeqSt) : (modSeq s f).comp = s.comp := rfl
@[simp] theorem modSeq_det (s : State) (f : SeqSt → SeqSt) : (modSeq s f).det = s.det := rfl
@[simp] theorem modSeq_guard (s : State) (f : SeqSt → SeqSt) : (modSeq s f).guard = s.guard := rfl
@[simp] theorem modSeq_hv (s : State) (f : SeqSt → SeqSt) : (modSeq s f).hv = s.hv := rfl
@[simp] theorem modSeq_net (s : State) (f : SeqSt → SeqSt) : (modSeq s f).net = s.net := rfl
@[simp] theorem modSeq_bcp (s : State) (f : SeqSt → SeqSt) : (modSeq s f).bcp = s.bcp := rfl
@[simp] theorem modSeq_stage (s : State) (f : SeqSt → SeqSt) : (modSeq s f).stage = s.stage := rfl
@[simp] theorem modSeq_sw (s : State) (f : SeqSt → SeqSt) : (modSeq s f).sw = s.sw := rfl
@[simp] theorem modSeq_recs (s : State) (f : SeqSt → SeqSt) : (modSeq s f).recs = s.recs := rfl
@[simp] theorem modSeq_peers (s : State) (f : SeqSt → SeqSt) : (modSeq s f).peers = s.peers := rfl
@[simp] theorem modSeq_lst (s : State) (f : SeqSt → SeqSt) : (modSeq s f).lst = s.lst := rfl
@[simp] theorem modSeq_hk (s : State) (f : SeqSt → SeqSt) : (modSeq s f).hk = s.hk := rfl
@[simp] theorem modSeq_fo (s : State) (f : SeqSt → SeqSt) : (modSeq s f).fo = s.fo := rfl
@[simp] theorem modSeq_tamper (s : State) (f : SeqSt → SeqSt) : (modSeq s f).tamper = s.tamper := rfl
@[simp] theorem modSeq_bus (s : State) (f : SeqSt → SeqSt) : (modSeq s f).bus = s.bus := rfl
@[simp] theorem modSeq_cv (s : State) (f : SeqSt → SeqSt) : (modSeq s f).cv = s.cv := rfl
@[simp] theorem modSeq_log (s : State) (f : SeqSt → SeqSt) : (modSeq s f).log = s.log := rfl
@[simp] theorem modSeq_outboxes (s : State) (f : SeqSt → SeqSt) : (modSeq s f).outboxes = s.outboxes := rfl
@[simp] theorem modSeq_power (s : State) (f : SeqSt → SeqSt) : (modSeq s f).power = s.power := rfl

@[simp] theorem modBoot_boot (s : State) (f : BootSt → BootSt) : (modBoot s f).boot = f s.boot := rfl
@[simp] theorem modBoot_pending (s : State) (f : BootSt → BootSt) : (modBoot s f).pending = s.pending := rfl
@[simp] theorem modBoot_part (s : State) (f : BootSt → BootSt) : (modBoot s f).part = s.part := rfl
@[simp] theorem modBoot_now (s : State) (f : BootSt → BootSt) : (modBoot s f).now = s.now := rfl
@[simp] theorem modBoot_freeIdx (s : State) (f : BootSt → BootSt) : (modBoot s f).freeIdx = s.freeIdx := rfl
@[simp] theorem modBoot_regs (s : State) (f : BootSt → BootSt) : (modBoot s f).regs = s.regs := rfl
@[simp] theorem modBoot_shadow (s : State) (f : BootSt → BootSt) : (modBoot s f).shadow = s.shadow := rfl
@[simp] theorem modBoot_loRead (s : State) (f : BootSt → BootSt) : (modBoot s f).loRead = s.loRead := rfl
@[simp] theorem modBoot_loStaged (s : State) (f : BootSt → BootSt) : (modBoot s f).loStaged = s.loStaged := rfl
@[simp] theorem modBoot_logRd (s : State) (f : BootSt → BootSt) : (modBoot s f).logRd = s.logRd := rfl
@[simp] theorem modBoot_out (s : State) (f : BootSt → BootSt) : (modBoot s f).out = s.out := rfl
@[simp] theorem modBoot_tb (s : State) (f : BootSt → BootSt) : (modBoot s f).tb = s.tb := rfl
@[simp] theorem modBoot_seqr (s : State) (f : BootSt → BootSt) : (modBoot s f).seqr = s.seqr := rfl
@[simp] theorem modBoot_dies (s : State) (f : BootSt → BootSt) : (modBoot s f).dies = s.dies := rfl
@[simp] theorem modBoot_ledgers (s : State) (f : BootSt → BootSt) : (modBoot s f).ledgers = s.ledgers := rfl
@[simp] theorem modBoot_flash (s : State) (f : BootSt → BootSt) : (modBoot s f).flash = s.flash := rfl
@[simp] theorem modBoot_img (s : State) (f : BootSt → BootSt) : (modBoot s f).img = s.img := rfl
@[simp] theorem modBoot_otp (s : State) (f : BootSt → BootSt) : (modBoot s f).otp = s.otp := rfl
@[simp] theorem modBoot_ports (s : State) (f : BootSt → BootSt) : (modBoot s f).ports = s.ports := rfl
@[simp] theorem modBoot_accesses (s : State) (f : BootSt → BootSt) : (modBoot s f).accesses = s.accesses := rfl
@[simp] theorem modBoot_accessTag (s : State) (f : BootSt → BootSt) : (modBoot s f).accessTag = s.accessTag := rfl
@[simp] theorem modBoot_fabs (s : State) (f : BootSt → BootSt) : (modBoot s f).fabs = s.fabs := rfl
@[simp] theorem modBoot_mem (s : State) (f : BootSt → BootSt) : (modBoot s f).mem = s.mem := rfl
@[simp] theorem modBoot_eye (s : State) (f : BootSt → BootSt) : (modBoot s f).eye = s.eye := rfl
@[simp] theorem modBoot_isp (s : State) (f : BootSt → BootSt) : (modBoot s f).isp = s.isp := rfl
@[simp] theorem modBoot_comp (s : State) (f : BootSt → BootSt) : (modBoot s f).comp = s.comp := rfl
@[simp] theorem modBoot_det (s : State) (f : BootSt → BootSt) : (modBoot s f).det = s.det := rfl
@[simp] theorem modBoot_guard (s : State) (f : BootSt → BootSt) : (modBoot s f).guard = s.guard := rfl
@[simp] theorem modBoot_hv (s : State) (f : BootSt → BootSt) : (modBoot s f).hv = s.hv := rfl
@[simp] theorem modBoot_net (s : State) (f : BootSt → BootSt) : (modBoot s f).net = s.net := rfl
@[simp] theorem modBoot_bcp (s : State) (f : BootSt → BootSt) : (modBoot s f).bcp = s.bcp := rfl
@[simp] theorem modBoot_stage (s : State) (f : BootSt → BootSt) : (modBoot s f).stage = s.stage := rfl
@[simp] theorem modBoot_sw (s : State) (f : BootSt → BootSt) : (modBoot s f).sw = s.sw := rfl
@[simp] theorem modBoot_recs (s : State) (f : BootSt → BootSt) : (modBoot s f).recs = s.recs := rfl
@[simp] theorem modBoot_peers (s : State) (f : BootSt → BootSt) : (modBoot s f).peers = s.peers := rfl
@[simp] theorem modBoot_lst (s : State) (f : BootSt → BootSt) : (modBoot s f).lst = s.lst := rfl
@[simp] theorem modBoot_hk (s : State) (f : BootSt → BootSt) : (modBoot s f).hk = s.hk := rfl
@[simp] theorem modBoot_fo (s : State) (f : BootSt → BootSt) : (modBoot s f).fo = s.fo := rfl
@[simp] theorem modBoot_tamper (s : State) (f : BootSt → BootSt) : (modBoot s f).tamper = s.tamper := rfl
@[simp] theorem modBoot_bus (s : State) (f : BootSt → BootSt) : (modBoot s f).bus = s.bus := rfl
@[simp] theorem modBoot_cv (s : State) (f : BootSt → BootSt) : (modBoot s f).cv = s.cv := rfl
@[simp] theorem modBoot_log (s : State) (f : BootSt → BootSt) : (modBoot s f).log = s.log := rfl
@[simp] theorem modBoot_outboxes (s : State) (f : BootSt → BootSt) : (modBoot s f).outboxes = s.outboxes := rfl
@[simp] theorem modBoot_power (s : State) (f : BootSt → BootSt) : (modBoot s f).power = s.power := rfl

@[simp] theorem modFlash_flash (s : State) (f : FlashSt → FlashSt) : (modFlash s f).flash = f s.flash := rfl
@[simp] theorem modFlash_pending (s : State) (f : FlashSt → FlashSt) : (modFlash s f).pending = s.pending := rfl
@[simp] theorem modFlash_part (s : State) (f : FlashSt → FlashSt) : (modFlash s f).part = s.part := rfl
@[simp] theorem modFlash_now (s : State) (f : FlashSt → FlashSt) : (modFlash s f).now = s.now := rfl
@[simp] theorem modFlash_freeIdx (s : State) (f : FlashSt → FlashSt) : (modFlash s f).freeIdx = s.freeIdx := rfl
@[simp] theorem modFlash_regs (s : State) (f : FlashSt → FlashSt) : (modFlash s f).regs = s.regs := rfl
@[simp] theorem modFlash_shadow (s : State) (f : FlashSt → FlashSt) : (modFlash s f).shadow = s.shadow := rfl
@[simp] theorem modFlash_loRead (s : State) (f : FlashSt → FlashSt) : (modFlash s f).loRead = s.loRead := rfl
@[simp] theorem modFlash_loStaged (s : State) (f : FlashSt → FlashSt) : (modFlash s f).loStaged = s.loStaged := rfl
@[simp] theorem modFlash_logRd (s : State) (f : FlashSt → FlashSt) : (modFlash s f).logRd = s.logRd := rfl
@[simp] theorem modFlash_out (s : State) (f : FlashSt → FlashSt) : (modFlash s f).out = s.out := rfl
@[simp] theorem modFlash_tb (s : State) (f : FlashSt → FlashSt) : (modFlash s f).tb = s.tb := rfl
@[simp] theorem modFlash_seqr (s : State) (f : FlashSt → FlashSt) : (modFlash s f).seqr = s.seqr := rfl
@[simp] theorem modFlash_dies (s : State) (f : FlashSt → FlashSt) : (modFlash s f).dies = s.dies := rfl
@[simp] theorem modFlash_ledgers (s : State) (f : FlashSt → FlashSt) : (modFlash s f).ledgers = s.ledgers := rfl
@[simp] theorem modFlash_boot (s : State) (f : FlashSt → FlashSt) : (modFlash s f).boot = s.boot := rfl
@[simp] theorem modFlash_img (s : State) (f : FlashSt → FlashSt) : (modFlash s f).img = s.img := rfl
@[simp] theorem modFlash_otp (s : State) (f : FlashSt → FlashSt) : (modFlash s f).otp = s.otp := rfl
@[simp] theorem modFlash_ports (s : State) (f : FlashSt → FlashSt) : (modFlash s f).ports = s.ports := rfl
@[simp] theorem modFlash_accesses (s : State) (f : FlashSt → FlashSt) : (modFlash s f).accesses = s.accesses := rfl
@[simp] theorem modFlash_accessTag (s : State) (f : FlashSt → FlashSt) : (modFlash s f).accessTag = s.accessTag := rfl
@[simp] theorem modFlash_fabs (s : State) (f : FlashSt → FlashSt) : (modFlash s f).fabs = s.fabs := rfl
@[simp] theorem modFlash_mem (s : State) (f : FlashSt → FlashSt) : (modFlash s f).mem = s.mem := rfl
@[simp] theorem modFlash_eye (s : State) (f : FlashSt → FlashSt) : (modFlash s f).eye = s.eye := rfl
@[simp] theorem modFlash_isp (s : State) (f : FlashSt → FlashSt) : (modFlash s f).isp = s.isp := rfl
@[simp] theorem modFlash_comp (s : State) (f : FlashSt → FlashSt) : (modFlash s f).comp = s.comp := rfl
@[simp] theorem modFlash_det (s : State) (f : FlashSt → FlashSt) : (modFlash s f).det = s.det := rfl
@[simp] theorem modFlash_guard (s : State) (f : FlashSt → FlashSt) : (modFlash s f).guard = s.guard := rfl
@[simp] theorem modFlash_hv (s : State) (f : FlashSt → FlashSt) : (modFlash s f).hv = s.hv := rfl
@[simp] theorem modFlash_net (s : State) (f : FlashSt → FlashSt) : (modFlash s f).net = s.net := rfl
@[simp] theorem modFlash_bcp (s : State) (f : FlashSt → FlashSt) : (modFlash s f).bcp = s.bcp := rfl
@[simp] theorem modFlash_stage (s : State) (f : FlashSt → FlashSt) : (modFlash s f).stage = s.stage := rfl
@[simp] theorem modFlash_sw (s : State) (f : FlashSt → FlashSt) : (modFlash s f).sw = s.sw := rfl
@[simp] theorem modFlash_recs (s : State) (f : FlashSt → FlashSt) : (modFlash s f).recs = s.recs := rfl
@[simp] theorem modFlash_peers (s : State) (f : FlashSt → FlashSt) : (modFlash s f).peers = s.peers := rfl
@[simp] theorem modFlash_lst (s : State) (f : FlashSt → FlashSt) : (modFlash s f).lst = s.lst := rfl
@[simp] theorem modFlash_hk (s : State) (f : FlashSt → FlashSt) : (modFlash s f).hk = s.hk := rfl
@[simp] theorem modFlash_fo (s : State) (f : FlashSt → FlashSt) : (modFlash s f).fo = s.fo := rfl
@[simp] theorem modFlash_tamper (s : State) (f : FlashSt → FlashSt) : (modFlash s f).tamper = s.tamper := rfl
@[simp] theorem modFlash_bus (s : State) (f : FlashSt → FlashSt) : (modFlash s f).bus = s.bus := rfl
@[simp] theorem modFlash_cv (s : State) (f : FlashSt → FlashSt) : (modFlash s f).cv = s.cv := rfl
@[simp] theorem modFlash_log (s : State) (f : FlashSt → FlashSt) : (modFlash s f).log = s.log := rfl
@[simp] theorem modFlash_outboxes (s : State) (f : FlashSt → FlashSt) : (modFlash s f).outboxes = s.outboxes := rfl
@[simp] theorem modFlash_power (s : State) (f : FlashSt → FlashSt) : (modFlash s f).power = s.power := rfl

@[simp] theorem modStage_stage (s : State) (f : StageSt → StageSt) : (modStage s f).stage = f s.stage := rfl
@[simp] theorem modStage_pending (s : State) (f : StageSt → StageSt) : (modStage s f).pending = s.pending := rfl
@[simp] theorem modStage_part (s : State) (f : StageSt → StageSt) : (modStage s f).part = s.part := rfl
@[simp] theorem modStage_now (s : State) (f : StageSt → StageSt) : (modStage s f).now = s.now := rfl
@[simp] theorem modStage_freeIdx (s : State) (f : StageSt → StageSt) : (modStage s f).freeIdx = s.freeIdx := rfl
@[simp] theorem modStage_regs (s : State) (f : StageSt → StageSt) : (modStage s f).regs = s.regs := rfl
@[simp] theorem modStage_shadow (s : State) (f : StageSt → StageSt) : (modStage s f).shadow = s.shadow := rfl
@[simp] theorem modStage_loRead (s : State) (f : StageSt → StageSt) : (modStage s f).loRead = s.loRead := rfl
@[simp] theorem modStage_loStaged (s : State) (f : StageSt → StageSt) : (modStage s f).loStaged = s.loStaged := rfl
@[simp] theorem modStage_logRd (s : State) (f : StageSt → StageSt) : (modStage s f).logRd = s.logRd := rfl
@[simp] theorem modStage_out (s : State) (f : StageSt → StageSt) : (modStage s f).out = s.out := rfl
@[simp] theorem modStage_tb (s : State) (f : StageSt → StageSt) : (modStage s f).tb = s.tb := rfl
@[simp] theorem modStage_seqr (s : State) (f : StageSt → StageSt) : (modStage s f).seqr = s.seqr := rfl
@[simp] theorem modStage_dies (s : State) (f : StageSt → StageSt) : (modStage s f).dies = s.dies := rfl
@[simp] theorem modStage_ledgers (s : State) (f : StageSt → StageSt) : (modStage s f).ledgers = s.ledgers := rfl
@[simp] theorem modStage_boot (s : State) (f : StageSt → StageSt) : (modStage s f).boot = s.boot := rfl
@[simp] theorem modStage_flash (s : State) (f : StageSt → StageSt) : (modStage s f).flash = s.flash := rfl
@[simp] theorem modStage_img (s : State) (f : StageSt → StageSt) : (modStage s f).img = s.img := rfl
@[simp] theorem modStage_otp (s : State) (f : StageSt → StageSt) : (modStage s f).otp = s.otp := rfl
@[simp] theorem modStage_ports (s : State) (f : StageSt → StageSt) : (modStage s f).ports = s.ports := rfl
@[simp] theorem modStage_accesses (s : State) (f : StageSt → StageSt) : (modStage s f).accesses = s.accesses := rfl
@[simp] theorem modStage_accessTag (s : State) (f : StageSt → StageSt) : (modStage s f).accessTag = s.accessTag := rfl
@[simp] theorem modStage_fabs (s : State) (f : StageSt → StageSt) : (modStage s f).fabs = s.fabs := rfl
@[simp] theorem modStage_mem (s : State) (f : StageSt → StageSt) : (modStage s f).mem = s.mem := rfl
@[simp] theorem modStage_eye (s : State) (f : StageSt → StageSt) : (modStage s f).eye = s.eye := rfl
@[simp] theorem modStage_isp (s : State) (f : StageSt → StageSt) : (modStage s f).isp = s.isp := rfl
@[simp] theorem modStage_comp (s : State) (f : StageSt → StageSt) : (modStage s f).comp = s.comp := rfl
@[simp] theorem modStage_det (s : State) (f : StageSt → StageSt) : (modStage s f).det = s.det := rfl
@[simp] theorem modStage_guard (s : State) (f : StageSt → StageSt) : (modStage s f).guard = s.guard := rfl
@[simp] theorem modStage_hv (s : State) (f : StageSt → StageSt) : (modStage s f).hv = s.hv := rfl
@[simp] theorem modStage_net (s : State) (f : StageSt → StageSt) : (modStage s f).net = s.net := rfl
@[simp] theorem modStage_bcp (s : State) (f : StageSt → StageSt) : (modStage s f).bcp = s.bcp := rfl
@[simp] theorem modStage_sw (s : State) (f : StageSt → StageSt) : (modStage s f).sw = s.sw := rfl
@[simp] theorem modStage_recs (s : State) (f : StageSt → StageSt) : (modStage s f).recs = s.recs := rfl
@[simp] theorem modStage_peers (s : State) (f : StageSt → StageSt) : (modStage s f).peers = s.peers := rfl
@[simp] theorem modStage_lst (s : State) (f : StageSt → StageSt) : (modStage s f).lst = s.lst := rfl
@[simp] theorem modStage_hk (s : State) (f : StageSt → StageSt) : (modStage s f).hk = s.hk := rfl
@[simp] theorem modStage_fo (s : State) (f : StageSt → StageSt) : (modStage s f).fo = s.fo := rfl
@[simp] theorem modStage_tamper (s : State) (f : StageSt → StageSt) : (modStage s f).tamper = s.tamper := rfl
@[simp] theorem modStage_bus (s : State) (f : StageSt → StageSt) : (modStage s f).bus = s.bus := rfl
@[simp] theorem modStage_cv (s : State) (f : StageSt → StageSt) : (modStage s f).cv = s.cv := rfl
@[simp] theorem modStage_log (s : State) (f : StageSt → StageSt) : (modStage s f).log = s.log := rfl
@[simp] theorem modStage_outboxes (s : State) (f : StageSt → StageSt) : (modStage s f).outboxes = s.outboxes := rfl
@[simp] theorem modStage_power (s : State) (f : StageSt → StageSt) : (modStage s f).power = s.power := rfl

@[simp] theorem modSwitch_sw (s : State) (f : SwitchSt → SwitchSt) : (modSwitch s f).sw = f s.sw := rfl
@[simp] theorem modSwitch_pending (s : State) (f : SwitchSt → SwitchSt) : (modSwitch s f).pending = s.pending := rfl
@[simp] theorem modSwitch_part (s : State) (f : SwitchSt → SwitchSt) : (modSwitch s f).part = s.part := rfl
@[simp] theorem modSwitch_now (s : State) (f : SwitchSt → SwitchSt) : (modSwitch s f).now = s.now := rfl
@[simp] theorem modSwitch_freeIdx (s : State) (f : SwitchSt → SwitchSt) : (modSwitch s f).freeIdx = s.freeIdx := rfl
@[simp] theorem modSwitch_regs (s : State) (f : SwitchSt → SwitchSt) : (modSwitch s f).regs = s.regs := rfl
@[simp] theorem modSwitch_shadow (s : State) (f : SwitchSt → SwitchSt) : (modSwitch s f).shadow = s.shadow := rfl
@[simp] theorem modSwitch_loRead (s : State) (f : SwitchSt → SwitchSt) : (modSwitch s f).loRead = s.loRead := rfl
@[simp] theorem modSwitch_loStaged (s : State) (f : SwitchSt → SwitchSt) : (modSwitch s f).loStaged = s.loStaged := rfl
@[simp] theorem modSwitch_logRd (s : State) (f : SwitchSt → SwitchSt) : (modSwitch s f).logRd = s.logRd := rfl
@[simp] theorem modSwitch_out (s : State) (f : SwitchSt → SwitchSt) : (modSwitch s f).out = s.out := rfl
@[simp] theorem modSwitch_tb (s : State) (f : SwitchSt → SwitchSt) : (modSwitch s f).tb = s.tb := rfl
@[simp] theorem modSwitch_seqr (s : State) (f : SwitchSt → SwitchSt) : (modSwitch s f).seqr = s.seqr := rfl
@[simp] theorem modSwitch_dies (s : State) (f : SwitchSt → SwitchSt) : (modSwitch s f).dies = s.dies := rfl
@[simp] theorem modSwitch_ledgers (s : State) (f : SwitchSt → SwitchSt) : (modSwitch s f).ledgers = s.ledgers := rfl
@[simp] theorem modSwitch_boot (s : State) (f : SwitchSt → SwitchSt) : (modSwitch s f).boot = s.boot := rfl
@[simp] theorem modSwitch_flash (s : State) (f : SwitchSt → SwitchSt) : (modSwitch s f).flash = s.flash := rfl
@[simp] theorem modSwitch_img (s : State) (f : SwitchSt → SwitchSt) : (modSwitch s f).img = s.img := rfl
@[simp] theorem modSwitch_otp (s : State) (f : SwitchSt → SwitchSt) : (modSwitch s f).otp = s.otp := rfl
@[simp] theorem modSwitch_ports (s : State) (f : SwitchSt → SwitchSt) : (modSwitch s f).ports = s.ports := rfl
@[simp] theorem modSwitch_accesses (s : State) (f : SwitchSt → SwitchSt) : (modSwitch s f).accesses = s.accesses := rfl
@[simp] theorem modSwitch_accessTag (s : State) (f : SwitchSt → SwitchSt) : (modSwitch s f).accessTag = s.accessTag := rfl
@[simp] theorem modSwitch_fabs (s : State) (f : SwitchSt → SwitchSt) : (modSwitch s f).fabs = s.fabs := rfl
@[simp] theorem modSwitch_mem (s : State) (f : SwitchSt → SwitchSt) : (modSwitch s f).mem = s.mem := rfl
@[simp] theorem modSwitch_eye (s : State) (f : SwitchSt → SwitchSt) : (modSwitch s f).eye = s.eye := rfl
@[simp] theorem modSwitch_isp (s : State) (f : SwitchSt → SwitchSt) : (modSwitch s f).isp = s.isp := rfl
@[simp] theorem modSwitch_comp (s : State) (f : SwitchSt → SwitchSt) : (modSwitch s f).comp = s.comp := rfl
@[simp] theorem modSwitch_det (s : State) (f : SwitchSt → SwitchSt) : (modSwitch s f).det = s.det := rfl
@[simp] theorem modSwitch_guard (s : State) (f : SwitchSt → SwitchSt) : (modSwitch s f).guard = s.guard := rfl
@[simp] theorem modSwitch_hv (s : State) (f : SwitchSt → SwitchSt) : (modSwitch s f).hv = s.hv := rfl
@[simp] theorem modSwitch_net (s : State) (f : SwitchSt → SwitchSt) : (modSwitch s f).net = s.net := rfl
@[simp] theorem modSwitch_bcp (s : State) (f : SwitchSt → SwitchSt) : (modSwitch s f).bcp = s.bcp := rfl
@[simp] theorem modSwitch_stage (s : State) (f : SwitchSt → SwitchSt) : (modSwitch s f).stage = s.stage := rfl
@[simp] theorem modSwitch_recs (s : State) (f : SwitchSt → SwitchSt) : (modSwitch s f).recs = s.recs := rfl
@[simp] theorem modSwitch_peers (s : State) (f : SwitchSt → SwitchSt) : (modSwitch s f).peers = s.peers := rfl
@[simp] theorem modSwitch_lst (s : State) (f : SwitchSt → SwitchSt) : (modSwitch s f).lst = s.lst := rfl
@[simp] theorem modSwitch_hk (s : State) (f : SwitchSt → SwitchSt) : (modSwitch s f).hk = s.hk := rfl
@[simp] theorem modSwitch_fo (s : State) (f : SwitchSt → SwitchSt) : (modSwitch s f).fo = s.fo := rfl
@[simp] theorem modSwitch_tamper (s : State) (f : SwitchSt → SwitchSt) : (modSwitch s f).tamper = s.tamper := rfl
@[simp] theorem modSwitch_bus (s : State) (f : SwitchSt → SwitchSt) : (modSwitch s f).bus = s.bus := rfl
@[simp] theorem modSwitch_cv (s : State) (f : SwitchSt → SwitchSt) : (modSwitch s f).cv = s.cv := rfl
@[simp] theorem modSwitch_log (s : State) (f : SwitchSt → SwitchSt) : (modSwitch s f).log = s.log := rfl
@[simp] theorem modSwitch_outboxes (s : State) (f : SwitchSt → SwitchSt) : (modSwitch s f).outboxes = s.outboxes := rfl
@[simp] theorem modSwitch_power (s : State) (f : SwitchSt → SwitchSt) : (modSwitch s f).power = s.power := rfl

@[simp] theorem modImg_img (s : State) (f : ImageSt → ImageSt) : (modImg s f).img = f s.img := rfl
@[simp] theorem modImg_pending (s : State) (f : ImageSt → ImageSt) : (modImg s f).pending = s.pending := rfl
@[simp] theorem modImg_part (s : State) (f : ImageSt → ImageSt) : (modImg s f).part = s.part := rfl
@[simp] theorem modImg_now (s : State) (f : ImageSt → ImageSt) : (modImg s f).now = s.now := rfl
@[simp] theorem modImg_freeIdx (s : State) (f : ImageSt → ImageSt) : (modImg s f).freeIdx = s.freeIdx := rfl
@[simp] theorem modImg_regs (s : State) (f : ImageSt → ImageSt) : (modImg s f).regs = s.regs := rfl
@[simp] theorem modImg_shadow (s : State) (f : ImageSt → ImageSt) : (modImg s f).shadow = s.shadow := rfl
@[simp] theorem modImg_loRead (s : State) (f : ImageSt → ImageSt) : (modImg s f).loRead = s.loRead := rfl
@[simp] theorem modImg_loStaged (s : State) (f : ImageSt → ImageSt) : (modImg s f).loStaged = s.loStaged := rfl
@[simp] theorem modImg_logRd (s : State) (f : ImageSt → ImageSt) : (modImg s f).logRd = s.logRd := rfl
@[simp] theorem modImg_out (s : State) (f : ImageSt → ImageSt) : (modImg s f).out = s.out := rfl
@[simp] theorem modImg_tb (s : State) (f : ImageSt → ImageSt) : (modImg s f).tb = s.tb := rfl
@[simp] theorem modImg_seqr (s : State) (f : ImageSt → ImageSt) : (modImg s f).seqr = s.seqr := rfl
@[simp] theorem modImg_dies (s : State) (f : ImageSt → ImageSt) : (modImg s f).dies = s.dies := rfl
@[simp] theorem modImg_ledgers (s : State) (f : ImageSt → ImageSt) : (modImg s f).ledgers = s.ledgers := rfl
@[simp] theorem modImg_boot (s : State) (f : ImageSt → ImageSt) : (modImg s f).boot = s.boot := rfl
@[simp] theorem modImg_flash (s : State) (f : ImageSt → ImageSt) : (modImg s f).flash = s.flash := rfl
@[simp] theorem modImg_otp (s : State) (f : ImageSt → ImageSt) : (modImg s f).otp = s.otp := rfl
@[simp] theorem modImg_ports (s : State) (f : ImageSt → ImageSt) : (modImg s f).ports = s.ports := rfl
@[simp] theorem modImg_accesses (s : State) (f : ImageSt → ImageSt) : (modImg s f).accesses = s.accesses := rfl
@[simp] theorem modImg_accessTag (s : State) (f : ImageSt → ImageSt) : (modImg s f).accessTag = s.accessTag := rfl
@[simp] theorem modImg_fabs (s : State) (f : ImageSt → ImageSt) : (modImg s f).fabs = s.fabs := rfl
@[simp] theorem modImg_mem (s : State) (f : ImageSt → ImageSt) : (modImg s f).mem = s.mem := rfl
@[simp] theorem modImg_eye (s : State) (f : ImageSt → ImageSt) : (modImg s f).eye = s.eye := rfl
@[simp] theorem modImg_isp (s : State) (f : ImageSt → ImageSt) : (modImg s f).isp = s.isp := rfl
@[simp] theorem modImg_comp (s : State) (f : ImageSt → ImageSt) : (modImg s f).comp = s.comp := rfl
@[simp] theorem modImg_det (s : State) (f : ImageSt → ImageSt) : (modImg s f).det = s.det := rfl
@[simp] theorem modImg_guard (s : State) (f : ImageSt → ImageSt) : (modImg s f).guard = s.guard := rfl
@[simp] theorem modImg_hv (s : State) (f : ImageSt → ImageSt) : (modImg s f).hv = s.hv := rfl
@[simp] theorem modImg_net (s : State) (f : ImageSt → ImageSt) : (modImg s f).net = s.net := rfl
@[simp] theorem modImg_bcp (s : State) (f : ImageSt → ImageSt) : (modImg s f).bcp = s.bcp := rfl
@[simp] theorem modImg_stage (s : State) (f : ImageSt → ImageSt) : (modImg s f).stage = s.stage := rfl
@[simp] theorem modImg_sw (s : State) (f : ImageSt → ImageSt) : (modImg s f).sw = s.sw := rfl
@[simp] theorem modImg_recs (s : State) (f : ImageSt → ImageSt) : (modImg s f).recs = s.recs := rfl
@[simp] theorem modImg_peers (s : State) (f : ImageSt → ImageSt) : (modImg s f).peers = s.peers := rfl
@[simp] theorem modImg_lst (s : State) (f : ImageSt → ImageSt) : (modImg s f).lst = s.lst := rfl
@[simp] theorem modImg_hk (s : State) (f : ImageSt → ImageSt) : (modImg s f).hk = s.hk := rfl
@[simp] theorem modImg_fo (s : State) (f : ImageSt → ImageSt) : (modImg s f).fo = s.fo := rfl
@[simp] theorem modImg_tamper (s : State) (f : ImageSt → ImageSt) : (modImg s f).tamper = s.tamper := rfl
@[simp] theorem modImg_bus (s : State) (f : ImageSt → ImageSt) : (modImg s f).bus = s.bus := rfl
@[simp] theorem modImg_cv (s : State) (f : ImageSt → ImageSt) : (modImg s f).cv = s.cv := rfl
@[simp] theorem modImg_log (s : State) (f : ImageSt → ImageSt) : (modImg s f).log = s.log := rfl
@[simp] theorem modImg_outboxes (s : State) (f : ImageSt → ImageSt) : (modImg s f).outboxes = s.outboxes := rfl
@[simp] theorem modImg_power (s : State) (f : ImageSt → ImageSt) : (modImg s f).power = s.power := rfl

@[simp] theorem modAccesses_accesses (s : State) (f : List DieAccess → List DieAccess) : (modAccesses s f).accesses = f s.accesses := rfl
@[simp] theorem modAccesses_pending (s : State) (f : List DieAccess → List DieAccess) : (modAccesses s f).pending = s.pending := rfl
@[simp] theorem modAccesses_part (s : State) (f : List DieAccess → List DieAccess) : (modAccesses s f).part = s.part := rfl
@[simp] theorem modAccesses_now (s : State) (f : List DieAccess → List DieAccess) : (modAccesses s f).now = s.now := rfl
@[simp] theorem modAccesses_freeIdx (s : State) (f : List DieAccess → List DieAccess) : (modAccesses s f).freeIdx = s.freeIdx := rfl
@[simp] theorem modAccesses_regs (s : State) (f : List DieAccess → List DieAccess) : (modAccesses s f).regs = s.regs := rfl
@[simp] theorem modAccesses_shadow (s : State) (f : List DieAccess → List DieAccess) : (modAccesses s f).shadow = s.shadow := rfl
@[simp] theorem modAccesses_loRead (s : State) (f : List DieAccess → List DieAccess) : (modAccesses s f).loRead = s.loRead := rfl
@[simp] theorem modAccesses_loStaged (s : State) (f : List DieAccess → List DieAccess) : (modAccesses s f).loStaged = s.loStaged := rfl
@[simp] theorem modAccesses_logRd (s : State) (f : List DieAccess → List DieAccess) : (modAccesses s f).logRd = s.logRd := rfl
@[simp] theorem modAccesses_out (s : State) (f : List DieAccess → List DieAccess) : (modAccesses s f).out = s.out := rfl
@[simp] theorem modAccesses_tb (s : State) (f : List DieAccess → List DieAccess) : (modAccesses s f).tb = s.tb := rfl
@[simp] theorem modAccesses_seqr (s : State) (f : List DieAccess → List DieAccess) : (modAccesses s f).seqr = s.seqr := rfl
@[simp] theorem modAccesses_dies (s : State) (f : List DieAccess → List DieAccess) : (modAccesses s f).dies = s.dies := rfl
@[simp] theorem modAccesses_ledgers (s : State) (f : List DieAccess → List DieAccess) : (modAccesses s f).ledgers = s.ledgers := rfl
@[simp] theorem modAccesses_boot (s : State) (f : List DieAccess → List DieAccess) : (modAccesses s f).boot = s.boot := rfl
@[simp] theorem modAccesses_flash (s : State) (f : List DieAccess → List DieAccess) : (modAccesses s f).flash = s.flash := rfl
@[simp] theorem modAccesses_img (s : State) (f : List DieAccess → List DieAccess) : (modAccesses s f).img = s.img := rfl
@[simp] theorem modAccesses_otp (s : State) (f : List DieAccess → List DieAccess) : (modAccesses s f).otp = s.otp := rfl
@[simp] theorem modAccesses_ports (s : State) (f : List DieAccess → List DieAccess) : (modAccesses s f).ports = s.ports := rfl
@[simp] theorem modAccesses_accessTag (s : State) (f : List DieAccess → List DieAccess) : (modAccesses s f).accessTag = s.accessTag := rfl
@[simp] theorem modAccesses_fabs (s : State) (f : List DieAccess → List DieAccess) : (modAccesses s f).fabs = s.fabs := rfl
@[simp] theorem modAccesses_mem (s : State) (f : List DieAccess → List DieAccess) : (modAccesses s f).mem = s.mem := rfl
@[simp] theorem modAccesses_eye (s : State) (f : List DieAccess → List DieAccess) : (modAccesses s f).eye = s.eye := rfl
@[simp] theorem modAccesses_isp (s : State) (f : List DieAccess → List DieAccess) : (modAccesses s f).isp = s.isp := rfl
@[simp] theorem modAccesses_comp (s : State) (f : List DieAccess → List DieAccess) : (modAccesses s f).comp = s.comp := rfl
@[simp] theorem modAccesses_det (s : State) (f : List DieAccess → List DieAccess) : (modAccesses s f).det = s.det := rfl
@[simp] theorem modAccesses_guard (s : State) (f : List DieAccess → List DieAccess) : (modAccesses s f).guard = s.guard := rfl
@[simp] theorem modAccesses_hv (s : State) (f : List DieAccess → List DieAccess) : (modAccesses s f).hv = s.hv := rfl
@[simp] theorem modAccesses_net (s : State) (f : List DieAccess → List DieAccess) : (modAccesses s f).net = s.net := rfl
@[simp] theorem modAccesses_bcp (s : State) (f : List DieAccess → List DieAccess) : (modAccesses s f).bcp = s.bcp := rfl
@[simp] theorem modAccesses_stage (s : State) (f : List DieAccess → List DieAccess) : (modAccesses s f).stage = s.stage := rfl
@[simp] theorem modAccesses_sw (s : State) (f : List DieAccess → List DieAccess) : (modAccesses s f).sw = s.sw := rfl
@[simp] theorem modAccesses_recs (s : State) (f : List DieAccess → List DieAccess) : (modAccesses s f).recs = s.recs := rfl
@[simp] theorem modAccesses_peers (s : State) (f : List DieAccess → List DieAccess) : (modAccesses s f).peers = s.peers := rfl
@[simp] theorem modAccesses_lst (s : State) (f : List DieAccess → List DieAccess) : (modAccesses s f).lst = s.lst := rfl
@[simp] theorem modAccesses_hk (s : State) (f : List DieAccess → List DieAccess) : (modAccesses s f).hk = s.hk := rfl
@[simp] theorem modAccesses_fo (s : State) (f : List DieAccess → List DieAccess) : (modAccesses s f).fo = s.fo := rfl
@[simp] theorem modAccesses_tamper (s : State) (f : List DieAccess → List DieAccess) : (modAccesses s f).tamper = s.tamper := rfl
@[simp] theorem modAccesses_bus (s : State) (f : List DieAccess → List DieAccess) : (modAccesses s f).bus = s.bus := rfl
@[simp] theorem modAccesses_cv (s : State) (f : List DieAccess → List DieAccess) : (modAccesses s f).cv = s.cv := rfl
@[simp] theorem modAccesses_log (s : State) (f : List DieAccess → List DieAccess) : (modAccesses s f).log = s.log := rfl
@[simp] theorem modAccesses_outboxes (s : State) (f : List DieAccess → List DieAccess) : (modAccesses s f).outboxes = s.outboxes := rfl
@[simp] theorem modAccesses_power (s : State) (f : List DieAccess → List DieAccess) : (modAccesses s f).power = s.power := rfl

@[simp] theorem modOtp_otp (s : State) (f : OtpSt → OtpSt) : (modOtp s f).otp = f s.otp := rfl
@[simp] theorem modOtp_pending (s : State) (f : OtpSt → OtpSt) : (modOtp s f).pending = s.pending := rfl
@[simp] theorem modOtp_part (s : State) (f : OtpSt → OtpSt) : (modOtp s f).part = s.part := rfl
@[simp] theorem modOtp_now (s : State) (f : OtpSt → OtpSt) : (modOtp s f).now = s.now := rfl
@[simp] theorem modOtp_freeIdx (s : State) (f : OtpSt → OtpSt) : (modOtp s f).freeIdx = s.freeIdx := rfl
@[simp] theorem modOtp_regs (s : State) (f : OtpSt → OtpSt) : (modOtp s f).regs = s.regs := rfl
@[simp] theorem modOtp_shadow (s : State) (f : OtpSt → OtpSt) : (modOtp s f).shadow = s.shadow := rfl
@[simp] theorem modOtp_loRead (s : State) (f : OtpSt → OtpSt) : (modOtp s f).loRead = s.loRead := rfl
@[simp] theorem modOtp_loStaged (s : State) (f : OtpSt → OtpSt) : (modOtp s f).loStaged = s.loStaged := rfl
@[simp] theorem modOtp_logRd (s : State) (f : OtpSt → OtpSt) : (modOtp s f).logRd = s.logRd := rfl
@[simp] theorem modOtp_out (s : State) (f : OtpSt → OtpSt) : (modOtp s f).out = s.out := rfl
@[simp] theorem modOtp_tb (s : State) (f : OtpSt → OtpSt) : (modOtp s f).tb = s.tb := rfl
@[simp] theorem modOtp_seqr (s : State) (f : OtpSt → OtpSt) : (modOtp s f).seqr = s.seqr := rfl
@[simp] theorem modOtp_dies (s : State) (f : OtpSt → OtpSt) : (modOtp s f).dies = s.dies := rfl
@[simp] theorem modOtp_ledgers (s : State) (f : OtpSt → OtpSt) : (modOtp s f).ledgers = s.ledgers := rfl
@[simp] theorem modOtp_boot (s : State) (f : OtpSt → OtpSt) : (modOtp s f).boot = s.boot := rfl
@[simp] theorem modOtp_flash (s : State) (f : OtpSt → OtpSt) : (modOtp s f).flash = s.flash := rfl
@[simp] theorem modOtp_img (s : State) (f : OtpSt → OtpSt) : (modOtp s f).img = s.img := rfl
@[simp] theorem modOtp_ports (s : State) (f : OtpSt → OtpSt) : (modOtp s f).ports = s.ports := rfl
@[simp] theorem modOtp_accesses (s : State) (f : OtpSt → OtpSt) : (modOtp s f).accesses = s.accesses := rfl
@[simp] theorem modOtp_accessTag (s : State) (f : OtpSt → OtpSt) : (modOtp s f).accessTag = s.accessTag := rfl
@[simp] theorem modOtp_fabs (s : State) (f : OtpSt → OtpSt) : (modOtp s f).fabs = s.fabs := rfl
@[simp] theorem modOtp_mem (s : State) (f : OtpSt → OtpSt) : (modOtp s f).mem = s.mem := rfl
@[simp] theorem modOtp_eye (s : State) (f : OtpSt → OtpSt) : (modOtp s f).eye = s.eye := rfl
@[simp] theorem modOtp_isp (s : State) (f : OtpSt → OtpSt) : (modOtp s f).isp = s.isp := rfl
@[simp] theorem modOtp_comp (s : State) (f : OtpSt → OtpSt) : (modOtp s f).comp = s.comp := rfl
@[simp] theorem modOtp_det (s : State) (f : OtpSt → OtpSt) : (modOtp s f).det = s.det := rfl
@[simp] theorem modOtp_guard (s : State) (f : OtpSt → OtpSt) : (modOtp s f).guard = s.guard := rfl
@[simp] theorem modOtp_hv (s : State) (f : OtpSt → OtpSt) : (modOtp s f).hv = s.hv := rfl
@[simp] theorem modOtp_net (s : State) (f : OtpSt → OtpSt) : (modOtp s f).net = s.net := rfl
@[simp] theorem modOtp_bcp (s : State) (f : OtpSt → OtpSt) : (modOtp s f).bcp = s.bcp := rfl
@[simp] theorem modOtp_stage (s : State) (f : OtpSt → OtpSt) : (modOtp s f).stage = s.stage := rfl
@[simp] theorem modOtp_sw (s : State) (f : OtpSt → OtpSt) : (modOtp s f).sw = s.sw := rfl
@[simp] theorem modOtp_recs (s : State) (f : OtpSt → OtpSt) : (modOtp s f).recs = s.recs := rfl
@[simp] theorem modOtp_peers (s : State) (f : OtpSt → OtpSt) : (modOtp s f).peers = s.peers := rfl
@[simp] theorem modOtp_lst (s : State) (f : OtpSt → OtpSt) : (modOtp s f).lst = s.lst := rfl
@[simp] theorem modOtp_hk (s : State) (f : OtpSt → OtpSt) : (modOtp s f).hk = s.hk := rfl
@[simp] theorem modOtp_fo (s : State) (f : OtpSt → OtpSt) : (modOtp s f).fo = s.fo := rfl
@[simp] theorem modOtp_tamper (s : State) (f : OtpSt → OtpSt) : (modOtp s f).tamper = s.tamper := rfl
@[simp] theorem modOtp_bus (s : State) (f : OtpSt → OtpSt) : (modOtp s f).bus = s.bus := rfl
@[simp] theorem modOtp_cv (s : State) (f : OtpSt → OtpSt) : (modOtp s f).cv = s.cv := rfl
@[simp] theorem modOtp_log (s : State) (f : OtpSt → OtpSt) : (modOtp s f).log = s.log := rfl
@[simp] theorem modOtp_outboxes (s : State) (f : OtpSt → OtpSt) : (modOtp s f).outboxes = s.outboxes := rfl
@[simp] theorem modOtp_power (s : State) (f : OtpSt → OtpSt) : (modOtp s f).power = s.power := rfl

end Sys2Proof.Machine
end

