-- ==== Sys2Proof/Tests/Witnesses.lean ====
section
/-! SUPPORT. Every statement's hypotheses are met: for each clause a concrete state and operands. -/
namespace Sys2Proof.Tests
open Sys2Proof Sys2Proof.Machine
set_option Elab.async false
set_option linter.unusedVariables false

/-- An EYE whose tokens for SVC leave by its port 4. -/
def echoState : State := { State.reset with regs := [(0x01048000, 12)] }

/-- A frame whose three copies carry one word. -/
def frameOf (p : PortId) (w : BitVec 48) : SbFrame := ⟨p, w, w, w⟩

/-- A table with one VALID entry and one that is not, the sequencer running, and CD2 READY with a route from SVC. -/
def launchState : State := { State.reset with
  regs := [(0x000F8018, 8)]
  seqr := { armed := true, ran := true,
            bankA := [{ offset := 0, dieByte := 6, unit := 0, action := 0x10, flags := 1, slack := 0, arg := 0 },
                      { offset := 0, dieByte := 6, unit := 0, action := 0x10, flags := 0, slack := 0, arg := 0 }] }
  dies := Vector.replicate 6 { state := 5 } }

/-- CD2 with an entry queued on unit 0 and one running on units 0 and 1. -/
def lateState : State := { launchState with
  dies := Vector.replicate 6 {
    state := 5,
    units := #v[⟨some ⟨0x10, 0, 0, 0, 0, false⟩, some ⟨0x10, 0, 0, 0, 0, false⟩⟩, ⟨some ⟨0x10, 0, 0, 0, 0, false⟩, none⟩, {}, {}, {}, {}, {}, {},
                {}, {}, {}, {}, {}, {}, {}, {}] } }

/-- A LAUNCH token of entry 0 for a unit of a die, in epoch EP. -/
def launchToken (d : Die) (unit act ep : Nat) : BitVec 48 := tokenWord 1 d.code 0 unit act 0 ep

/-- Entry 0 of the table. -/
def entry0 : LaunchEntry := { offset := 0, dieByte := 6, unit := 0, action := 0x10, flags := 1, slack := 0, arg := 0 }

/-- The token of entry 0 for a unit, as a frame at a port of its die. -/
def launchFrame (p : PortId) (unit act ep : Nat) : SbFrame := frameOf p (launchToken p.die unit act ep)

/-- The state after the die has taken it. -/
def launched (s : State) (p : PortId) (unit act ep : Nat) : State := (takeToken s (launchFrame p unit act ep)).2

/-- A parcel in order at a port, its trailer acknowledging nothing. -/
def recv (p : PortId) (x : Parcel) : LinkRx := ⟨p, x, { seq := 0, ack := 0, av := false, nak := false, u := false, cvc := 7, cnt := 0 }⟩

/-- Every die READY and every port UP. -/
def upState : State := { launchState with ports := Vector.replicate 23 { pstate := .up, phy := .up } }

/-- The same in the guard interval. -/
def killedUp : State := { upState with seqr := { killed := true } }

/-- A LEDGER_WRITE of line 2047 of CD2, HANDOVER_CLEAR of lines from 2047 on, and the reports of CD2. -/
def ledgerP : Parcel := { src := 0, dst := 6, vc := 0, cls := 0, kind := 9, plen := 64, arg := 2047, payload := List.replicate 64 7 }
def clearP : Parcel := { src := 0, dst := 6, vc := 0, cls := 0, kind := 8, plen := 8, arg := 0xA, payload := [255, 7, 2, 0, 0, 0, 0, 0] }
def doneP (code : Nat) : Parcel := { src := 6, dst := 0, vc := 0, cls := 0, kind := 8, plen := (msgLen code).getD 0, arg := code, payload := List.replicate ((msgLen code).getD 0) 0 }

/-- Unit 15 of every die free with an entry queued. -/
def queuedState : State := { State.reset with
  dies := Vector.replicate 6 {
    state := 5,
    units := Vector.replicate 16 ⟨none, some ⟨0x7F, 0, 0, 0, 0, false⟩⟩ } }

/-- A REG_REQ to CD2 that reads its first register, and a VC5 response of CD2. -/
def regReqP : Parcel := { src := 0, dst := 6, vc := 0, cls := 0, kind := 8, plen := 16, arg := 8, payload := leBytes 4 0x12000000 ++ List.replicate 12 0 }
def vc5RespP : Parcel := { src := 6, dst := 0, vc := 5, cls := 5, kind := 2, plen := 64, payload := List.replicate 64 7 }

/-- An access of CD2 under way, by its operation. -/
def accessOf (op : Nat) : DieAccess := { tag := 0, die := .cd2, path := .core, addr := 0x12000000, op := op, v := 0 }
def accState (op : Nat) : State := { upState with accesses := [accessOf op] }


/-- A DIE_READY of CD2. -/
def readyP : Parcel := { doneP 7 with payload := [4, 0, 0, 0] }

/-- A descriptor whose slot A is STAGED and runs, after its confirmation time. -/
def desc0 : BootDesc := { (default : BootDesc) with stateA := 1, confirmS := 600 }
def confirmState : State := { State.reset with
  now := 600000000000, flash := { desc0 := some desc0 }, boot := { phase := 17, slot := 0, runSince := some 0 }, regs := [(0x00020028, 0)] }

/-- An analog side on which every condition holds and every pulse takes. -/
def goodOtp : OtpAnalog := { (default : OtpAnalog) with vsysOk := true, tempOk := true, pumpOk := true }

/-- Ports UP with their sideband; ports in training; ports after a retrain with three parcels unacknowledged; a port with one to send. -/
def sbState : State := { launchState with ports := Vector.replicate 23 { pstate := .up, phy := .up, sbUp := true, replayBuf := [(1, readyP)] } }
def trainState : State := { launchState with ports := Vector.replicate 23 { phy := .training, step := 8 } }
def resumeState : State := { launchState with ports := Vector.replicate 23 {
  pstate := .retraining, phy := .up, replayBuf := [(3, readyP), (4, readyP)] } }
def sendState : State := { launchState with ports := Vector.replicate 23 {
  pstate := .up, phy := .up, txq := #v[[readyP], [], [], [], [], []], ag := { credit := [16, 0, 0, 0, 0, 0] } } }

/-- A VC5 WRITE to the SRAM of CD2, a VC2 READ, a response line, and a read outstanding at CD2. -/
def maintP : Parcel := { src := 0, dst := 6, vc := 5, cls := 5, kind := 0, plen := 8, payload := leBytes 4 0x88000000 ++ [1, 2, 3, 4] }
def readP (a n : Nat) : Parcel := { src := 5, dst := 6, vc := 2, cls := 0, kind := 0, plen := 5, payload := leBytes 4 a ++ leBytes 1 n }
def respP : Parcel := { src := 5, dst := 6, vc := 3, cls := 1, kind := 0, last := false, plen := 64, payload := List.replicate 64 7 }
def tag0 : ReadTag := { tag := 0, gen := 0, addr := 0x84000000, lines := 2, nc := true, target := .cd1, port := 1, waiters := [], issued := 0 }
def readState : State := { upState with
  ports := Vector.replicate 23 { pstate := .up, phy := .up, ag := { readsOut := true, tags := 4 } }
  fabs := Vector.replicate 4 { masterActive := true }, regs := (cdBase 2 + 0x48000, 0x3FFF) :: upState.regs }
def scrubState : State := { launchState with seqr := { launchState.seqr with merging := true }, fabs := Vector.replicate 4 { scrubFail := true, scrubFailSeg := 63 } }
def tagState : State := { upState with fabs := Vector.replicate 4 { tags := [tag0] } }

/-- An entry with an ARG, and an EYE on standby that takes it: 20 us, and 100 us short with 400 us long. -/
def entryArg : LaunchEntry := { offset := 0, dieByte := 1, unit := 0, action := 1, flags := 1, slack := 0, arg := 20000 }
def entryHdr : LaunchEntry := { entryArg with action := 2, arg := 0x00640190 }
def eyeState : State := { launchState with
  regs := [(0x01000010, 0x10000), (0x01010008, 0x100000), (0x000F8018, 8)], seqr := { launchState.seqr with bankA := [entryArg] }
  eye := { state := .standby } }
def eyeHdrState : State := { eyeState with seqr := { launchState.seqr with bankA := [entryHdr] } }

/-- CD2 with a placement of one group on its cluster 1, idle and running; with a consumer group and its halo. -/
def groupD : GroupDesc := { (default : GroupDesc) with index := 0, dieByte := 6, clusters := 2, bandLast := 23, inTag := 3, inSrc := 1, inbufLen := 0x10000 }
def placed (g : GroupDesc) : ImageSt := { facts := some { (default : SlotFacts) with image := { (default : SqiMeta) with groupsA := [g] } } }
def groupState : State := { upState with img := placed groupD, comp := Vector.replicate 4 { clusters := Vector.replicate 4 { state := .idle } } }
def busyState : State := { groupState with
  comp := Vector.replicate 4 { clusters := Vector.replicate 4 { state := .running } }
  dies := Vector.replicate 6 { state := 5, units := Vector.replicate 16 ⟨some ⟨0x10, 0, 0, 0, 0, false⟩, none⟩ } }
def streamP (tag : Nat) : Parcel := { src := 1, dst := 6, vc := 1, cls := 1, kind := 0, tag := tag, plen := 64, last := true, payload := List.replicate 64 5 }
def haloD : GroupDesc := { groupD with inKind := 1, inSrc := 5 }
def haloP : Parcel := { src := 5, dst := 6, vc := 4, cls := 1, kind := 0, tag := 9, plen := 64, last := true, spec := true, arg := 48 + 256 * 6, payload := List.replicate 64 5 }
def haloState : State := { groupState with img := placed haloD }
def abortedState : State := { haloState with comp := Vector.replicate 4 { aborted := true } }
def haloV : HaloVer := { tag := 9, src := 5, band := 6, version := 48, spec := true, last := true }
def heldState : State := { haloState with comp := Vector.replicate 4 { halos := [haloV], heldRows := [(0, 1)] } }
def commitW : BitVec 48 := tokenWord 3 6 5 9 48 0 0
def revokeW : BitVec 48 := tokenWord 4 6 5 9 48 0 0
def staleW : BitVec 48 := tokenWord 3 6 5 9 48 0 1
def abortP : Parcel := { doneP 4 with src := 0, dst := 6, payload := [0, 0, 0, 0, 6, 0, 0, 0] }

/-- CD2's detect unit disabled, in an aborted epoch, waiting for its heads; and with a head block of one level at offset 0. -/
def noDetState : State := { groupState with regs := [(0x000F8018, 8), (cdBase 2 + 0x600000, 0)] }
def goneState : State := { groupState with comp := Vector.replicate 4 { aborted := true, clusters := Vector.replicate 4 { state := .idle } } }
def waitHeadState : State := { groupState with det := Vector.replicate 4 { state := .waitHead } }
def headBytes : List Byte := [1, 0, 1, 1, 0xFF, 0xFF, 128, 0, 1, 0, 1, 0, 0, 0, 0, 0] ++ [0, 1, 0, 0, 0x1C, 1, 0, 0, 0, 0, 0x80, 0x3D, 0, 0, 0x80, 0x3D]
def headState : State := { waitHeadState with mem := storeBytes [] (sramBase 2 1) headBytes }
def headOf (s : State) : HeadBlock := (readHead (fun off n => memNat s (sramBase 2 (lowestOf groupD) + off) n) groupD.prog).getD ⟨0, false, false, false, 0, 0, 0, 0, 0, 0, []⟩
theorem head_some : (readHead (fun off n => memNat headState (sramBase 2 (lowestOf groupD) + off) n) groupD.prog).isSome = true := by decide +kernel
theorem head_witness : cdOk headState 2 = true ∧ groupOf headState 2 (headState.detUnit 2).desc = some groupD ∧ (headState.detUnit 2).state = .waitHead ∧
    headBusy headState 2 = false ∧ readHead (fun off n => memNat headState (sramBase 2 (lowestOf groupD) + off) n) groupD.prog = some (headOf headState) ∧
    (headState.fab 2).poison = [] := by
  refine ⟨by decide +kernel, by decide +kernel, by decide +kernel, by decide +kernel, ?_, by decide +kernel⟩
  have h := head_some
  unfold headOf
  cases hh : readHead (fun off n => memNat headState (sramBase 2 (lowestOf groupD) + off) n) groupD.prog with
  | none => rw [hh] at h; exact absurd h (by decide)
  | some x => rfl

/-- An EYE whose frame is whole and whose window is open, and a request for a crop of 16 by 16 without a mask. -/
def cropState : State := { upState with
  regs := [(0x01030000, 0x11), (0x000F8018, 8)]
  eye := { exposed := true, rows := 3080 }, guard := { windowOpen := true, accepted := [{ (default : CropReq) with index := 1, w := 16, h := 16 }] } }
def cropP : Parcel := { src := 7, dst := 1, vc := 1, cls := 1, kind := 0, tag := 0xF0, plen := 16, last := true, payload := [0, 0, 0, 0, 0, 0, 16, 0, 16, 0, 0, 0, 0, 0, 0, 0] }

/-- An image with a Harvest block for CD2, and a checkpoint in hand. -/
def hvB : HarvestBlock := { (default : HarvestBlock) with dieCode := 6, r := 2, k := 2, capMax := 8, batch := 32 }
def hvState : State := { upState with
  img := { facts := some { (default : SlotFacts) with image := { (default : SqiMeta) with harvest := some hvB } } }, hv := { writing := some (0, 0, true) } }

/-- PHYs and switch on with both links up, no address yet. -/
def netState : State := { State.reset with
  net := { linkP0 := true, linkP1 := true, on := true, everLinked := true, master0 := some default, slave := some 0 }, boot := { phase := 17 }, power := { State.reset.power with season := .summer } }

/-- BCP served on P0 with no key held, a session of host 7 with one response kept, and the same with host 7 owner. -/
def envB (seq : Nat) : BcpEnv := { (default : BcpEnv) with headerOk := true, version := 1, lenOk := true, seq := toWord seq, sender := 7, port := 5000 }
def sesB : Session := { host := 7, nonce := 3, level := 0, ip := 0, port := 5000, highest := 0, kept := [], lastHeard := 0, second := 0, inSecond := 0 }
def bcpState : State := { netState with bcp := { sessions := [sesB] } }
def ownState : State := { netState with bcp := { sessions := [sesB], election := .owned, owner := some ⟨7, 0, 1⟩ } }
def readAfter : State := acceptedState bcpState (envB 1) 2 sesB
def read64After : State := match reach64 (acceptedState ownState (envB 1) 4 sesB) 0x00060008 with
  | .words _ u => u
  | _ => State.reset
def writeAfter : State := match reachWrite (acceptedState ownState (envB 1) 3 sesB) .bcp 0x00060000 0 with
  | .done _ _ u => u
  | _ => State.reset

/-- The owner's state with a flash and a descriptor, slot A running; and with slot B STAGED. -/
def stageState : State := { ownState with flash := { sfdp := true, desc0 := some { desc0 with slotSizeB := 0x100000 } }, boot := { phase := 17, slot := 0 } }
def switchState : State := { ownState with flash := { sfdp := true, desc0 := some { desc0 with stateB := 1 }, slotB := some default }, boot := { phase := 17, slot := 0 } }

/-- A record of zeros, a RECORD parcel at SVC; a closed datagram of one record with an address; a part whose zone is 1, and a message of zone 1. -/
def recZ : Record := { body := .zone (List.replicate 16 0), degraded := false, unsync := false, epoch := 0, ltime := 0 }
def entryZ : PeerEntry := { mac := 5, zone := 1, ip := 0, heard := 0, embId := 0, embAccept := false }
def recP (tag : Nat) (last : Bool) : Parcel := { src := 7, dst := 0, vc := 1, cls := 4, kind := 0, tag := tag, plen := 16, last := last, payload := List.replicate 16 0 }
def sendableState : State := { netState with net := { netState.net with addr := .dhcp }, recs := { dgram := [{ recZ with body := .zone (List.replicate 16 0) }], closed := true } }
def peerState : State := { netState with regs := [(0x00070104, 1)], net := { netState.net with addr := .dhcp } }
def peerP : PeerMsg := { (default : PeerMsg) with wellFormed := true, zone := 1, mac := 5 }

/-- The listener running with both inputs in use, the energy detector on, both floors set. -/
def lstState : State := { netState with regs := [(0x00080000, 0xF), (0x00080008, 0x20017), (0x0008000C, 0x808), (0x00080010, 0x05030A12)], lst := { state := .running, mic0 := { frames := 100 }, mic1 := { frames := 100 } } }
def lstAs (st : LstState) : State := { lstState with lst := { lstState.lst with state := st } }
def lstHit : State := { lstState with lst := { lstState.lst with mic0 := { lstState.lst.mic0 with loudRun := 3, loudMax := -768 } } }
def lstMics (x : Mic) : State := { lstState with lst := { lstState.lst with mic0 := x, mic1 := x } }

/-- HK-ADC-A paced and idle with set 0 of two channels over two passes, both in HK_QMASK; and with a converter in CAL, continuous, in a pair. -/
def hkState : State := { launchState with
  regs := [(0x00090000, 0x1C), (0x00090010, 0x20800), (0x00090040, 0x01020800), (0x000F8018, 8)], hk := { a := { state := .idle } } }
def hkAs (x : HkConv) : State := { hkState with hk := { a := x, b := { state := .continuous } } }
def xcState : State := { hkState with regs := [(0x00090000, 0xA00004E), (0x00090008, 0x10803E8)], hk := { a := { state := .continuous }, b := { state := .continuous } } }

/-- The field-output bank on in SUMMER; its entry of mask 5 and width 4000 µs; an output latched once; electrode 0 in a state. -/
def entryFo : LaunchEntry := { offset := 0, dieByte := 0, unit := 3, action := 0x20, flags := 1, slack := 0, arg := 0x0FA00005 }
def foState : State := { launchState with
  seqr := { launchState.seqr with bankA := [entryFo] }, fo := { enabled := true }, power := { State.reset.power with season := .summer }, boot := { phase := 17 } }
def foHas (o : FoOut) : State := { foState with fo := { enabled := true, outs := Vector.replicate 4 o } }
def foLatched : State := { foHas { latched := true, faults := 1 } with regs := [(0x000A0000, 7), (0x000A0004, 7), (0x000F8018, 8)] }
def teState (x : Electrode) : State := { foState with tamper := { te0 := x, te1 := x } }
def teOtp (x : Electrode) : State := { teState x with otp := { mirror := [(0x34, 1840), (0x35, 1840)] } }
def i2cState (x : Option I2cXfer) : State := { foState with regs := [(0x000C0000, 0x4BA), (0x000F8018, 8)], bus := { xfer := x } }
def vcState : State := { foState with power := { foState.power with vcoreSent := 750 } }

/-- Check context 1 bound to the core with the compare on and a value expected; the same with a run under way; the log with an entry queued. -/
def cvState : State := { foState with regs := [(0x000D0100, 4), (0x000D0110, 7), (0x000D0120, 0x00400000), (0x000D0124, 4)], cv := Vector.replicate 4 { alg := 0, bound := some .core, value := 0xFFFFFFFF } }
def cvBusy : State := { cvState with cv := Vector.replicate 4 { alg := 1, bound := some .core, busy := true, runSrc := 0x00400000, runLen := 4 } }
def logState (l : LogSt) : State := { foState with log := l, regs := [(0x000E0000, 0x201)] }
def evA : Event := { die := .cd1, unit := 4, code := 0x3104, sev := 2 }
def evF : Event := { evA with sev := 3 }
def eventP : Parcel := { src := 5, dst := 0, vc := 0, cls := 0, kind := 0xA, plen := 20, payload := [5, 4, 4, 0x31, 2, 0, 3, 0] ++ List.replicate 12 0 }

/-- Seasons, and a heat that stops the part. -/
def seasonState (x : Season) : State := { foState with power := { foState.power with season := x } }
def hotState : State := { seasonState .summer with power := { (seasonState .summer).power with riseRun := [4, 4, 4, 2], tmax := 440 } }
def fullReset : State := { seasonState .thermalStop with power := { (seasonState .thermalStop).power with tjPeak := 440 } }

/-- A claim, a SERVICE message with its tag under key 5, a crop that is whole, and a tracker block at the input buffer of group 0's cluster. -/
def claimB (level priority : Nat) : HeldClaim := { host := 7, level := level, priority := priority, m := envB 1 }
def envK : BcpEnv := { envB 1 with auth := true, skey := true, tag := bcpTag 5 3 (bcpHeader 1 0x10 (levelFlags 2) 4 1 7) [200, 0, 0, 0] }
def cropZ : CropIn := { crop := 0, track := 0, x := 0, y := 0, w := 16, h := 16, bytes := [], parcels := 0, complete := true, epoch := 0, ltime := 0 }
def trackState : State := { groupState with
  det := Vector.replicate 4 { state := .idle }, mem := storeBytes [] (sramBase 2 1 + groupD.inbuf) [0, 0, 4, 1, 3, 0] }

/-- A slot that passes every check: its key is the base point, whose digest the OTP holds, and its signature (R, S) has R = S, the
abscissa of the key, over a hash of 0, so that the verified point is the key itself; the launch tables hold one MARK. -/
def markE : LaunchEntry := { offset := 0, dieByte := 0, unit := 0, action := 0x7F, flags := 1, slack := 0, arg := 0 }
def compatZ : Compat := { (default : Compat) with parts := 1, stepMax := 0xFFFF }
def goodSlot : SlotFacts := { (default : SlotFacts) with
  magicOk := true, headerOk := true, fw := compatZ, sqi := compatZ
  pubX := 0x6b17d1f2e12c4247f8bce6e563a440f277037d812deb33a0f4a13945d898c296, pubY := 0x4fe342e2fe1a7f9b8ee7eb4a7c0f9e162bce33576b315ececbb6406837bf51f5
  sigR := 0x6b17d1f2e12c4247f8bce6e563a440f277037d812deb33a0f4a13945d898c296, sigS := 0x6b17d1f2e12c4247f8bce6e563a440f277037d812deb33a0f4a13945d898c296
  image := { (default : SqiMeta) with launchA := [markE], launchF := some [markE] } }
def slotState : State := { stageState with
  stage := { status := 2, slot := 1 }
  otp := { mirror := [(320, 0x362223ef7ddb75d8), (321, 0x803ebbb0c638c7ae), (322, 0x24dff4d80f5d2f14), (323, 0x9f0db5cbf5eed6fe), (336, 0xb509bbb0)] } }
theorem witness_IdleStepTicks_0 : ∃ (s : State),
      s.pending = [] :=
  ⟨State.reset, by decide +kernel⟩

theorem witness_RegisterAccess_0 : ∃ (path : Path) (addr v : Word) (d : RegDef) (k : Nat) (s : State),
      path ≠ .bcp ∧
      pathThere s path = true ∧
      windowOf s addr.toNat 4 = .none ∧
      addrDie addr.toNat = some .svc ∧
      regAt s.part addr.toNat = some (d, k) ∧
      mayWrite s path addr.toNat = true ∧
      d.writable = true ∧
      d.pair = .single ∧
      d.accepts v = true ∧
      refusedValue s addr.toNat v = false ∧
      shadowed addr.toNat = false ∧
      actsOnWrite addr.toNat = false :=
  ⟨.core, 0x0004001C, 10, ((regAt .bx7720 0x0004001C).getD (⟨0, 0, 0, "", [], .single⟩, 0)).1, ((regAt .bx7720 0x0004001C).getD (⟨0, 0, 0, "", [], .single⟩, 0)).2, State.reset, by decide +kernel⟩

theorem witness_RegisterAccess_1 : ∃ (path : Path) (addr v : Word) (d : RegDef) (k : Nat) (s : State),
      path ≠ .bcp ∧
      pathThere s path = true ∧
      windowOf s addr.toNat 4 = .none ∧
      addrDie addr.toNat = some .svc ∧
      regAt s.part addr.toNat = some (d, k) ∧
      mayWrite s path addr.toNat = true ∧
      d.writable = true ∧
      d.accepts v = false ∨ refusedValue s addr.toNat v = true :=
  ⟨.core, 0x0004001C, 9, ((regAt .bx7720 0x0004001C).getD (⟨0, 0, 0, "", [], .single⟩, 0)).1, ((regAt .bx7720 0x0004001C).getD (⟨0, 0, 0, "", [], .single⟩, 0)).2, State.reset, by decide +kernel⟩

theorem witness_RegisterAccess_2 : ∃ (path : Path) (addr : Word) (d : RegDef) (k : Nat) (s : State),
      path ≠ .bcp ∧
      pathThere s path = true ∧
      windowOf s addr.toNat 4 = .none ∧
      addrDie addr.toNat = some .svc ∧
      regAt s.part addr.toNat = some (d, k) ∧
      d.pair = .lo ∧
      addr ≠ 0x0009001C ∧
      addr ≠ 0x00070004 ∧
      addr < 0x00048000 ∨ 0x0004E000 ≤ addr :=
  ⟨.i2c, 0x00040008, ((regAt .bx7720 0x00040008).getD (⟨0, 0, 0, "", [], .single⟩, 0)).1, ((regAt .bx7720 0x00040008).getD (⟨0, 0, 0, "", [], .single⟩, 0)).2, { State.reset with regs := [(0x000C0000, 0x80)] }, by decide +kernel⟩

theorem witness_RegisterAccess_3 : ∃ (path : Path) (v : Word) (s : State),
      path ≠ .bcp ∧
      pathThere s path = true ∧
      mayWrite s path 0x0002000C = true :=
  ⟨.jtag, 7, State.reset, by decide +kernel⟩

theorem witness_RegisterAccess_4 : ∃ (path : Path) (v : Word) (s : State),
      path ≠ .bcp ∧
      pathThere s path = true ∧
      mayWrite s path 0x00020010 = true :=
  ⟨.core, 7, State.reset, by decide +kernel⟩

theorem witness_RegisterAccess_5 : ∃ (p q : Path) (a b : Nat) (v : Word) (s : State),
      a < 2 ^ 32 ∧
      b < 2 ^ 32 ∧
      p ≠ q ∨ a ≠ b :=
  ⟨.core, .jtag, 0x00040008, 0x00040008, 1, State.reset, by decide +kernel⟩

theorem witness_DieRegisterAccess_0 : ∃ (r : LinkRx) (x : Parcel) (s s1 : State),
      portOk s r.port = true ∧
      linkReceive s r = (some x, s1) ∧
      x.vc = 0 ∧
      x.kind = 8 ∧
      x.arg = 8 ∧
      r.port.die ≠ .svc :=
  ⟨recv ⟨.cd2, 3⟩ regReqP, regReqP, upState, (linkReceive upState (recv ⟨.cd2, 3⟩ regReqP)).2, by decide +kernel⟩

theorem witness_DieRegisterAccess_1 : ∃ (r : LinkRx) (x : Parcel) (y : DieAccess) (s s1 s2 : State),
      portOk s r.port = true ∧
      linkReceive s r = (some x, s1) ∧
      x.vc = 0 ∧
      x.kind = 8 ∧
      x.arg = 9 ∧
      r.port.die = .svc ∧
      takeAccess s1 (fun y => y.tag == leAt x.payload 6 2 && y.op != 3 && y.die.code == x.src) = some (y, s2) :=
  ⟨recv ⟨.svc, 0⟩ (doneP 9), doneP 9, accessOf 0, accState 0, (linkReceive (accState 0) (recv ⟨.svc, 0⟩ (doneP 9))).2, { (linkReceive (accState 0) (recv ⟨.svc, 0⟩ (doneP 9))).2 with accesses := [] }, by decide +kernel⟩

theorem witness_DieRegisterAccess_2 : ∃ (r : LinkRx) (x : Parcel) (y : DieAccess) (s s1 s2 : State),
      portOk s r.port = true ∧
      linkReceive s r = (some x, s1) ∧
      x.vc = 5 ∧
      x.kind = 2 ∧
      x.arg % 2 = 0 ∧
      x.payload ≠ [] ∧
      r.port.die = .svc ∧
      takeAccess s1 (fun y => y.tag % 256 == x.tag && y.op == 3 && y.die.code == x.src) = some (y, s2) :=
  ⟨recv ⟨.svc, 0⟩ vc5RespP, vc5RespP, accessOf 3, accState 3, (linkReceive (accState 3) (recv ⟨.svc, 0⟩ vc5RespP)).2, { (linkReceive (accState 3) (recv ⟨.svc, 0⟩ vc5RespP)).2 with accesses := [] }, by decide +kernel⟩

theorem witness_DieRegisterAccess_3 : ∃ (x : DieAccess) (rest : List DieAccess) (s : State),
      s.accesses = x :: rest :=
  ⟨accessOf 0, [], accState 0, by decide +kernel⟩

theorem witness_DieRegisterAccess_4 : ∃ (addr : Word) (data : List Byte) (n : Nat) (s : State),
      s.bus.target = none ∧
      tgtHalted s = false ∧
      noI2cTarget s = false ∧
      rb s 0x000C0000 7 = true :=
  ⟨0, [], 1, { State.reset with regs := [(0x000C0000, 0xBA)] }, by decide +kernel⟩

theorem witness_SyncMovesTimebase_0 : ∃ (port domain : Nat) (off li : Int) (s : State),
      port < 2 ∧
      rf s 0x00040000 1 0 = 1 ∧
      rb s 0x00050000 5 = true ∧
      domain = rf s 0x00050000 14 8 ∧
      s.net.slave = some port ∧
      -7 ≤ li ∧
      li ≤ 1 :=
  ⟨0, 0, 100, 0, { State.reset with regs := [(0x00040000, 1), (0x00050000, 0x20)], net := { slave := some 0 } }, by decide +kernel⟩

theorem witness_SyncMovesTimebase_1 : ∃ (s : State),
      s.tb.state = .locked ∨ s.tb.state = .acquire :=
  ⟨{ State.reset with tb := { state := .acquire } }, by decide +kernel⟩

theorem witness_SyncMovesTimebase_2 : ∃ (highNs : Nat) (err : Int) (s : State),
      rf s 0x00040000 1 0 = 2 ∧
      2000 ≤ highNs ∧
      s.tb.state = .syncLocked ∨ s.tb.state = .syncLost ∧
      err.natAbs ≤ 50000 :=
  ⟨2000, 50000, { State.reset with regs := [(0x00040000, 2)], tb := { state := .syncLost } }, by decide +kernel⟩

theorem witness_SyncMovesTimebase_3 : ∃ (highNs : Nat) (err : Int) (s : State),
      rf s 0x00040000 1 0 = 2 ∧
      2000 ≤ highNs ∧
      s.tb.state = .syncLocked ∨ s.tb.state = .syncLost ∧
      50000 < err.natAbs :=
  ⟨2000, 50001, { State.reset with regs := [(0x00040000, 2)], tb := { state := .syncLocked } }, by decide +kernel⟩

theorem witness_SyncMovesTimebase_4 : ∃ (highNs : Nat) (err : Int) (s : State),
      rf s 0x00040000 1 0 = 2 ∧
      2000 ≤ highNs ∧
      s.tb.state ≠ .syncLocked ∧
      s.tb.state ≠ .syncLost ∧
      s.seqr.armed = false :=
  ⟨2000, 0, { State.reset with regs := [(0x00040000, 2)] }, by decide +kernel⟩

theorem witness_SyncMovesTimebase_5 : ∃ (s : State),
      s.tb.state = .syncLocked :=
  ⟨{ State.reset with tb := { state := .syncLocked } }, by decide +kernel⟩

theorem witness_SyncMovesTimebase_6 : ∃ (s : State),
      rb s 0x00040000 2 = true ∧
      s.seqr.ran = true :=
  ⟨{ State.reset with regs := [(0x00040000, 4)], seqr := { ran := true } }, by decide +kernel⟩

theorem witness_SequencerArming_1 : ∃ (s : State),
      s.seqr.released = true ∧
      s.seqr.armed = false ∧
      s.tb.state = .locked ∨ s.tb.state = .syncLocked ∨ (s.tb.acqExpired = true ∧ rb s 0x00040000 3 = true) :=
  ⟨{ State.reset with seqr := { released := true }, tb := { acqExpired := true } }, by decide +kernel⟩

theorem witness_SequencerArming_2 : ∃ (s : State),
      s.seqr.armed = true ∧
      s.seqr.unlocked = true :=
  ⟨{ State.reset with seqr := { armed := true, unlocked := true } }, by decide +kernel⟩

theorem witness_SequencerArming_3 : ∃ (d : Die) (primary alternate : List Nat) (s : State),
      fitted s d = true ∧
      d ≠ .svc :=
  ⟨.cd2, [], [], State.reset, by decide +kernel⟩

theorem witness_SequencerArming_4 : ∃ (f : SbFrame) (w : BitVec 48) (s s1 : State) (p : PortId),
      portOk s f.port = true ∧
      takeToken s f = (some w, s1) ∧
      tokType w = 6 ∧
      f.port.die ≠ .svc ∧
      relayPort s1 f.port.die (tokSrc w) = some p :=
  ⟨⟨⟨.eye, 4⟩, tokenWord 6 1 0 0 0 0 0, tokenWord 6 1 0 0 0 0 0, tokenWord 6 1 0 0 0 0 0⟩, tokenWord 6 1 0 0 0 0 0, echoState, (takeToken echoState ⟨⟨.eye, 4⟩, tokenWord 6 1 0 0 0 0 0, tokenWord 6 1 0 0 0 0 0, tokenWord 6 1 0 0 0 0 0⟩).2, ⟨.eye, 4⟩, by decide +kernel⟩

theorem witness_LaunchesAtTheSequencer_0 : ∃ (i : Nat) (e : LaunchEntry) (d : Die) (p : PortId) (s : State),
      entryOf s i = some e ∧
      issuing s = true ∧
      entryIssues s e = true ∧
      Die.ofCode (e.dieByte % 16) = some d ∧
      d ≠ .svc ∧
      (s.die d).out = false ∧
      latNow s d ≠ 0xFFF ∧
      relayPort s .svc d.code = some p :=
  ⟨0, { offset := 0, dieByte := 6, unit := 0, action := 0x10, flags := 1, slack := 0, arg := 0 }, .cd2, ⟨.svc, 0⟩, launchState, by decide +kernel⟩

theorem witness_LaunchesAtTheSequencer_1 : ∃ (i : Nat) (e : LaunchEntry) (s : State),
      entryOf s i = some e ∧
      nbit e.flags 0 = false ∨ (nbit e.flags 1 = true ∧ s.seqr.epoch.toNat % 2 = 1) ∨ (nbit e.flags 2 = true ∧ s.seqr.epoch.toNat % 2 = 0) :=
  ⟨1, { offset := 0, dieByte := 6, unit := 0, action := 0x10, flags := 0, slack := 0, arg := 0 }, launchState, by decide +kernel⟩

theorem witness_LaunchesAtTheSequencer_2 : ∃ (d : Die) (u : Nat) (l : Launched) (s : State),
      fitted s d = true ∧
      u < 16 ∧
      (unitOf s d u).queued = some l ∧
      l.late = false :=
  ⟨.cd2, 0, { act := 0x10, entry := 0, arg := 0, slack := 0, arrived := 0, late := false }, lateState, by decide +kernel⟩

theorem witness_LaunchesAtTheSequencer_3 : ∃ (d : Die) (u : Nat) (l : Launched) (s : State),
      fitted s d = true ∧
      u < 16 ∧
      (unitOf s d u).queued = none ∧
      (unitOf s d u).busy = some l ∧
      l.late = false :=
  ⟨.cd2, 1, { act := 0x10, entry := 0, arg := 0, slack := 0, arrived := 0, late := false }, lateState, by decide +kernel⟩

theorem witness_LaunchesAtTheSequencer_4 : ∃ (f : SbFrame) (w : BitVec 48) (s s1 : State) (e : LaunchEntry),
      LaunchReady s f 0x40 w s1 e ∧
      f.port.die = .svc ∧
      tokUnit w = 0 :=
  ⟨launchFrame ⟨.svc, 0⟩ 0 0x40 0, launchToken .svc 0 0x40 0, launchState, launched launchState ⟨.svc, 0⟩ 0 0x40 0, entry0, by decide +kernel⟩

theorem witness_LaunchesAtTheSequencer_5 : ∃ (f : SbFrame) (w : BitVec 48) (s s1 : State) (e : LaunchEntry),
      LaunchReady s f 0x41 w s1 e ∧
      f.port.die = .svc ∧
      tokUnit w = 4 :=
  ⟨launchFrame ⟨.svc, 0⟩ 4 0x41 0, launchToken .svc 4 0x41 0, launchState, launched launchState ⟨.svc, 0⟩ 4 0x41 0, entry0, by decide +kernel⟩

theorem witness_LaunchesAtTheSequencer_6 : ∃ (f : SbFrame) (w : BitVec 48) (s s1 : State) (e : LaunchEntry),
      LaunchReady s f 0x7F w s1 e ∧
      ¬(f.port.die.isCd = true ∧ tokUnit w = 15) :=
  ⟨launchFrame ⟨.svc, 0⟩ 3 0x7F 0, launchToken .svc 3 0x7F 0, launchState, launched launchState ⟨.svc, 0⟩ 3 0x7F 0, entry0, by decide +kernel⟩

theorem witness_LaunchTokenRules_0 : ∃ (f : SbFrame) (w : BitVec 48) (s s1 : State),
      portOk s f.port = true ∧
      takeToken s f = (some w, s1) ∧
      tokType w = 1 ∧
      tokAct w = 0x7F ∧
      tokEp w ≠ (s1.die f.port.die).ep % 8 :=
  ⟨launchFrame ⟨.cd2, 3⟩ 3 0x7F 1, launchToken .cd2 3 0x7F 1, launchState, launched launchState ⟨.cd2, 3⟩ 3 0x7F 1, by decide +kernel⟩

theorem witness_LaunchTokenRules_1 : ∃ (f : SbFrame) (w : BitVec 48) (s s1 : State) (e : LaunchEntry) (l : Launched),
      portOk s f.port = true ∧
      takeToken s f = (some w, s1) ∧
      tokType w = 1 ∧
      tokAct w = 0x7F ∧
      tokEp w = (s1.die f.port.die).ep % 8 ∧
      takesLaunches s1 f.port.die = true ∧
      (s1.die f.port.die).refusing = false ∧
      entryOf s1 (tokEntry w) = some e ∧
      tokUnit w < 15 ∧
      (unitOf s1 f.port.die (tokUnit w)).busy = some l :=
  ⟨launchFrame ⟨.cd2, 3⟩ 1 0x7F 0, launchToken .cd2 1 0x7F 0, lateState, launched lateState ⟨.cd2, 3⟩ 1 0x7F 0, entry0, ⟨0x10, 0, 0, 0, 0, false⟩, by decide +kernel⟩

theorem witness_LedgerLineRules_0 : ∃ (l : LedgerLine) (off : Nat) (bs : List Byte) (k : Nat),
      off + bs.length ≤ 64 ∧
      k < 64 :=
  ⟨{}, 60, [1, 2, 3, 4], 63, by decide +kernel⟩

theorem witness_LedgerLineRules_2 : ∃ (l : LedgerLine) (k : Nat),
      k < 64 :=
  ⟨{}, 63, by decide +kernel⟩

theorem witness_LedgerCommands_0 : ∃ (d : Die) (cd line off : Nat) (bs : List Byte) (s : State),
      d.cdIdx = some cd ∧
      fitted s d = true ∧
      line < 2048 ∧
      off + bs.length ≤ 64 :=
  ⟨.cd2, 2, 2047, 60, [1, 2, 3, 4], State.reset, by decide +kernel⟩

theorem witness_LedgerCommands_1 : ∃ (r : LinkRx) (x : Parcel) (cd : Nat) (s s1 : State),
      portOk s r.port = true ∧
      linkReceive s r = (some x, s1) ∧
      x.vc = 0 ∧
      x.kind = 9 ∧
      x.arg < 2048 ∧
      r.port.die.cdIdx = some cd :=
  ⟨recv ⟨.cd2, 3⟩ ledgerP, ledgerP, 2, upState, (linkReceive upState (recv ⟨.cd2, 3⟩ ledgerP)).2, by decide +kernel⟩

theorem witness_LedgerCommands_2 : ∃ (r : LinkRx) (x : Parcel) (cd first count : Nat) (s s1 : State),
      portOk s r.port = true ∧
      linkReceive s r = (some x, s1) ∧
      x.vc = 0 ∧
      x.kind = 8 ∧
      x.arg = 0xA ∧
      r.port.die.cdIdx = some cd ∧
      leAt x.payload 0 2 = first ∧
      leAt x.payload 2 2 = count :=
  ⟨recv ⟨.cd2, 3⟩ clearP, clearP, 2, 2047, 2, upState, (linkReceive upState (recv ⟨.cd2, 3⟩ clearP)).2, by decide +kernel⟩

theorem witness_DrainOfTheEpoch_0 : ∃ (s : State),
      s.seqr.armed = true ∧
      s.seqr.ran = true ∧
      s.seqr.killed = false ∧
      (liveDies s).all (fun d => (s.die d).drainedSeen) = false :=
  ⟨{ launchState with peers := {} }, by decide +kernel⟩

theorem witness_DrainOfTheEpoch_1 : ∃ (f : SbFrame) (w : BitVec 48) (s s1 : State),
      portOk s f.port = true ∧
      takeToken s f = (some w, s1) ∧
      tokType w = 2 ∧
      f.port.die ≠ .svc ∧
      (s1.die f.port.die).drainedSent = false :=
  ⟨frameOf ⟨.cd2, 3⟩ (tokenWord 2 6 0 0 0 0 0), tokenWord 2 6 0 0 0 0 0, launchState, (takeToken launchState (frameOf ⟨.cd2, 3⟩ (tokenWord 2 6 0 0 0 0 0))).2, by decide +kernel⟩

theorem witness_DrainOfTheEpoch_2 : ∃ (d : Die) (s : State),
      liveDie s d = true ∧
      (s.die d).doneSent = false ∧
      (s.die d).refusing = false ∧
      dieIdle s d = true :=
  ⟨.eye, launchState, by decide +kernel⟩

theorem witness_DrainOfTheEpoch_3 : ∃ (r : LinkRx) (x : Parcel) (d : Die) (s s1 : State),
      portOk s r.port = true ∧
      linkReceive s r = (some x, s1) ∧
      x.vc = 0 ∧
      x.kind = 8 ∧
      x.arg = 1 ∧
      r.port.die = .svc ∧
      Die.ofCode x.src = some d :=
  ⟨recv ⟨.svc, 0⟩ (doneP 1), doneP 1, .cd2, upState, (linkReceive upState (recv ⟨.svc, 0⟩ (doneP 1))).2, by decide +kernel⟩

theorem witness_DrainOfTheEpoch_4 : ∃ (r : LinkRx) (x : Parcel) (d : Die) (s s1 : State),
      portOk s r.port = true ∧
      linkReceive s r = (some x, s1) ∧
      x.vc = 0 ∧
      x.kind = 8 ∧
      x.arg = 2 ∧
      r.port.die = .svc ∧
      Die.ofCode x.src = some d ∧
      s1.seqr.killed = true ∧
      (s1.die d).drainedSeen = false :=
  ⟨recv ⟨.svc, 0⟩ (doneP 2), doneP 2, .cd2, killedUp, (linkReceive killedUp (recv ⟨.svc, 0⟩ (doneP 2))).2, by decide +kernel⟩

theorem witness_DrainOfTheEpoch_5 : ∃ (d : Die) (s : State),
      liveDie s d = true ∧
      s.seqr.killed = true ∧
      (s.die d).drainedSeen = false :=
  ⟨.cd1, { launchState with seqr := { killed := true } }, by decide +kernel⟩

theorem witness_DrainOfTheEpoch_7 : ∃ (d : Die) (u : Nat) (v : Bool) (l : Launched) (s : State),
      fitted s d = true ∧
      u < 16 ∧
      (unitOf s d u).busy = none ∧
      (unitOf s d u).queued = some l :=
  ⟨.cd2, 15, true, ⟨0x7F, 0, 0, 0, 0, false⟩, queuedState, by decide +kernel⟩

theorem witness_DrainOfTheEpoch_8 : ∃ (cd : Nat) (s : State),
      cdOk s cd = true ∧
      (s.die (Die.ofCd cd)).state = 7 :=
  ⟨3, { State.reset with dies := Vector.replicate 6 { state := 7 } }, by decide +kernel⟩

theorem witness_DrainSteps_0 : ∃ (cd : Nat) (s : State),
      cd < 4 ∧
      (s.die (Die.ofCd cd)).drainedSent = false :=
  ⟨3, State.reset, by decide +kernel⟩

theorem witness_EquinoxCommits_0 : ∃ (f : SbFrame) (w : BitVec 48) (cd : Nat) (s s1 : State),
      portOk s f.port = true ∧
      takeToken s f = (some w, s1) ∧
      tokType w = 5 ∧
      f.port.die.cdIdx = some cd ∧
      liveDie s1 f.port.die = true ∧
      hvCd s1 ≠ some cd ∧
      tokAct w % 2 = 0 :=
  ⟨frameOf ⟨.cd3, 0⟩ (tokenWord 5 7 0 0 0 0 3), tokenWord 5 7 0 0 0 0 3, 3, launchState, (takeToken launchState (frameOf ⟨.cd3, 0⟩ (tokenWord 5 7 0 0 0 0 3))).2, by decide +kernel⟩

theorem witness_EquinoxCommits_1 : ∃ (f : SbFrame) (w : BitVec 48) (cd : Nat) (s s1 : State),
      portOk s f.port = true ∧
      takeToken s f = (some w, s1) ∧
      tokType w = 5 ∧
      f.port.die.cdIdx = some cd ∧
      liveDie s1 f.port.die = true ∧
      tokAct w % 2 = 1 :=
  ⟨frameOf ⟨.cd3, 0⟩ (tokenWord 5 7 0 0 1 0 3), tokenWord 5 7 0 0 1 0 3, 3, launchState, (takeToken launchState (frameOf ⟨.cd3, 0⟩ (tokenWord 5 7 0 0 1 0 3))).2, by decide +kernel⟩

theorem witness_EquinoxCommits_2 : ∃ (f : SbFrame) (w : BitVec 48) (s s1 : State),
      portOk s f.port = true ∧
      takeToken s f = (some w, s1) ∧
      tokType w = 5 ∧
      f.port.die = .eye ∧
      liveDie s1 .eye = true ∧
      tokAct w % 2 = 0 :=
  ⟨frameOf ⟨.eye, 4⟩ (tokenWord 5 1 0 0 0 0 3), tokenWord 5 1 0 0 0 0 3, launchState, (takeToken launchState (frameOf ⟨.eye, 4⟩ (tokenWord 5 1 0 0 0 0 3))).2, by decide +kernel⟩

theorem witness_EquinoxCommits_3 : ∃ (r : LinkRx) (x : Parcel) (d : Die) (s s1 : State),
      portOk s r.port = true ∧
      linkReceive s r = (some x, s1) ∧
      x.vc = 0 ∧
      x.kind = 8 ∧
      x.arg = 3 ∧
      r.port.die = .svc ∧
      Die.ofCode x.src = some d :=
  ⟨recv ⟨.svc, 0⟩ (doneP 3), doneP 3, .cd2, upState, (linkReceive upState (recv ⟨.svc, 0⟩ (doneP 3))).2, by decide +kernel⟩

theorem witness_EquinoxSent_0 : ∃ (s : State),
      s.seqr.armed = true :=
  ⟨{ State.reset with seqr := { armed := true } }, by decide +kernel⟩

theorem witness_EquinoxSent_1 : ∃ (d : Die) (p : PortId) (s : State),
      liveDie s d = true ∧
      s.seqr.armed = true ∧
      s.seqr.killed = false ∧
      (s.die d).committedSeen = false ∧
      (s.die d).resends < 3 ∧
      relayPort s .svc d.code = some p :=
  ⟨.cd2, ⟨.svc, 0⟩, launchState, by decide +kernel⟩

theorem witness_EquinoxSent_2 : ∃ (d : Die) (p : PortId) (s : State),
      liveDie s d = true ∧
      s.seqr.armed = true ∧
      s.seqr.killed = false ∧
      (s.die d).committedSeen = false ∧
      (s.die d).resends = 3 ∧
      relayPort s .svc d.code = some p :=
  ⟨.cd2, ⟨.svc, 0⟩, { launchState with dies := Vector.replicate 6 { state := 5, resends := 3 } }, by decide +kernel⟩

theorem witness_StartupSteps_0 : ∃ (s : State),
      s.boot.phase = 0 :=
  ⟨State.reset, by decide +kernel⟩

theorem witness_StartupSteps_1 : ∃ (pg : Bool) (s : State),
      s.boot.phase ≠ 0 ∨ pg = false :=
  ⟨false, State.reset, by decide +kernel⟩

theorem witness_StartupSteps_2 : ∃ (b : Nat) (s : State),
      s.boot.phase = 1 :=
  ⟨3, { State.reset with boot := { phase := 1 } }, by decide +kernel⟩

theorem witness_StartupSteps_3 : ∃ (s : State),
      s.boot.phase = 4 ∧
      s.boot.stepsDone = [] ∧
      s.boot.strap ≠ 2 :=
  ⟨{ State.reset with boot := { phase := 4 } }, by decide +kernel⟩

theorem witness_StartupSteps_4 : ∃ (s : State),
      s.boot.phase = 4 ∧
      s.boot.stepsDone = [] ∧
      s.boot.strap = 2 ∧
      inField s = true :=
  ⟨{ State.reset with boot := { phase := 4, strap := 2 }, otp := { mirror := [(0x13, 1)] } }, by decide +kernel⟩

theorem witness_StartupSteps_5 : ∃ (s : State),
      s.boot.phase = 4 ∧
      s.boot.stepsDone = [] ∧
      s.boot.pmRetried = true :=
  ⟨{ State.reset with boot := { phase := 4, pmRetried := true } }, by decide +kernel⟩

theorem witness_StartupSteps_6 : ∃ (s : State),
      s.boot.phase = 5 :=
  ⟨{ State.reset with boot := { phase := 5 } }, by decide +kernel⟩

theorem witness_StartupSteps_7 : ∃ (s : State),
      s.boot.phase = 11 ∧
      432 ≤ s.power.tmax :=
  ⟨{ State.reset with boot := { phase := 11 }, power := { tmax := 432 } }, by decide +kernel⟩

theorem witness_StartupSteps_8 : ∃ (s : State),
      s.boot.phase = 2 ∨ s.boot.phase = 3 :=
  ⟨{ State.reset with boot := { phase := 3 } }, by decide +kernel⟩

theorem witness_StartupSteps_9 : ∃ (s : State),
      s.boot.phase = 6 :=
  ⟨{ State.reset with boot := { phase := 6 } }, by decide +kernel⟩

theorem witness_StartupSteps_10 : ∃ (s : State),
      s.boot.phase = 24 :=
  ⟨{ State.reset with boot := { phase := 24 } }, by decide +kernel⟩

theorem witness_ResetsOfThePart_0 : ∃ (cause : ColdCause) (hdr : Bool) (s : State),
      cause = .por ∨ cause = .cmd ∨ cause = .wdtEscalated ∨ cause = .vcoreLoss ∨ cause = .thermalStop ∨ cause = .pin 10000 :=
  ⟨.cmd, true, State.reset, by decide +kernel⟩

theorem witness_ResetsOfThePart_1 : ∃ (ns : Nat) (hdr : Bool) (s : State),
      ns < 9500 :=
  ⟨9499, true, State.reset, by decide +kernel⟩

theorem witness_ResetsOfThePart_2 : ∃ (cause : WarmCause) (s : State),
      cause = .slotRetry ∨ cause = .coreLockup ∨ cause = .cmd ∧
      5 ≤ s.boot.phase ∧
      s.boot.phase < 30 ∧
      s.power.halted = false ∧
      s.power.season ≠ .thermalStop :=
  ⟨.slotRetry, { State.reset with boot := { phase := 17 } }, by decide +kernel⟩

theorem witness_ResetsOfThePart_3 : ∃ (s : State) (a b : Nat),
      rb s 0x00010030 16 = true ∧
      10 ≤ s.boot.phase ∧
      s.boot.phase < 30 ∧
      s.power.halted = false ∧
      s.power.season ≠ .thermalStop ∧
      s.boot.wdtResets = [a, b] :=
  ⟨{ State.reset with boot := { phase := 17, wdtResets := [0, 0] }, regs := [(0x00010030, 0x10000)] }, 0, 0, by decide +kernel⟩

theorem witness_ResetsOfThePart_4 : ∃ (v : Word) (s : State),
      v ≠ 0x0000A5C3 :=
  ⟨0, State.reset, by decide +kernel⟩

theorem witness_HoldAndResetOfADie_0 : ∃ (d : Die) (s : State),
      d ≠ .svc ∧
      fitted s d = true ∧
      held s d = false :=
  ⟨.cd3, { State.reset with regs := [(0x0001001C, 0)] }, by decide +kernel⟩

theorem witness_HoldAndResetOfADie_1 : ∃ (cd site : Nat) (m g : Bool) (s : State),
      cdOk s cd = true ∧
      held s (Die.ofCd cd) = true ∧
      levelPermits s (Die.ofCd cd) = true :=
  ⟨3, 3, false, true, { State.reset with regs := [(0x0001001C, 0x80)] }, by decide +kernel⟩

theorem witness_HoldAndResetOfADie_2 : ∃ (cd site : Nat) (m : Bool) (s : State),
      cdOk s cd = true ∧
      dieOpen s (Die.ofCd cd) = true :=
  ⟨3, 3, false, { State.reset with dies := Vector.replicate 6 { state := 5 } }, by decide +kernel⟩

theorem witness_HoldAndResetOfADie_3 : ∃ (r : LinkRx) (x : Parcel) (d : Die) (s s1 : State),
      portOk s r.port = true ∧
      linkReceive s r = (some x, s1) ∧
      x.vc = 0 ∧
      x.kind = 8 ∧
      x.arg = 7 ∧
      r.port.die = .svc ∧
      Die.ofCode x.src = some d ∧
      d ≠ .svc ∧
      fitted s1 d = true ∧
      leAt x.payload 0 1 = 4 :=
  ⟨recv ⟨.svc, 0⟩ readyP, readyP, .cd2, upState, (linkReceive upState (recv ⟨.svc, 0⟩ readyP)).2, by decide +kernel⟩

theorem witness_HoldAndResetOfADie_4 : ∃ (d : BootDesc) (t0 : Nat) (s : State),
      descNow s = some d ∧
      s.boot.runSince = some t0 ∧
      s.boot.phase = 17 ∧
      s.boot.slot = 0 ∧
      d.stateA = 1 ∧
      t0 + secNs d.confirmS ≤ s.now ∧
      rb s 0x00020028 0 = false :=
  ⟨desc0, 0, confirmState, by decide +kernel⟩

theorem witness_FirstEpoch_0 : ∃ (s : State),
      s.boot.phase = 16 ∧
      s.seqr.armed = true ∧
      s.boot.firstDone = false ∧
      s.power.thermalStopped = false :=
  ⟨{ State.reset with boot := { phase := 16 }, seqr := { armed := true } }, by decide +kernel⟩

theorem witness_OtpOperations_0 : ∃ (cmd : Word) (a : OtpAnalog) (s : State),
      wbits cmd 31 16 ≠ 0x0C7B :=
  ⟨1, default, State.reset, by decide +kernel⟩

theorem witness_OtpOperations_1 : ∃ (cmd : Word) (a : OtpAnalog) (s : State),
      wbits cmd 31 16 = 0x0C7B ∧
      lcState s ≠ 5 ∧
      rowBarred s (wbits cmd 12 4) = false ∧
      (programStates (wbits cmd 12 4)).contains (lcState s) = true ∧
      s.otp.wl.getLsbD (regionOf (wbits cmd 12 4)) = false ∧
      condStop a = 0 ∧
      a.stopAfter = none ∧
      a.failing = 0 ∧
      a.stillWeak = 0 :=
  ⟨0x0C7B1F11, goodOtp, { State.reset with otp := { mirror := [(0x11, 1)] }, regs := [(0x0002000C, 6)] }, by decide +kernel⟩

theorem witness_OtpOperations_2 : ∃ (cmd : Word) (s : State),
      lcState s ≠ 5 :=
  ⟨0x113, State.reset, by decide +kernel⟩

theorem witness_OtpOperations_3 : ∃ (cmd : Word) (a : OtpAnalog) (s : State),
      wbits cmd 31 16 = 0x0C7B ∧
      lcState s ≠ 5 ∧
      condStop a = 0 ∧
      a.stillWeak = 0 :=
  ⟨0x0C7B1132, goodOtp, { State.reset with otp := { rows := [(0x113, 5)], weak := [(0x113, 4)] } }, by decide +kernel⟩

theorem witness_OtpOperations_4 : ∃ (cmd : Word) (a : OtpAnalog) (s : State),
      wbits cmd 31 16 = 0x0C7B ∧
      lcState s ≠ 5 ∧
      condStop a = 0 ∧
      (∀ r ∈ programmedRows s.otp, weakOf s.otp r = 0) :=
  ⟨0x0C7B0004, goodOtp, { State.reset with otp := { rows := [(0x113, 5)] } }, by decide +kernel⟩

theorem witness_OtpOperations_5 : ∃ (cmd : Word) (a : OtpAnalog) (n : Nat) (s : State),
      wbits cmd 31 16 = 0x0C7B ∧
      wbits cmd 15 13 = n ∧
      1 ≤ n ∧
      n ≤ 3 ∧
      rnat s 0x0002000C = 0x4C430000 + n ∧
      s.otp.mirror = mirrorOf s.otp ∧
      lcState s = n - 1 ∧
      lcExitOk s n = true ∧
      condStop a = 0 ∧
      a.stopAfter = none ∧
      a.failing = 0 :=
  ⟨0x0C7B2005, goodOtp, 1, { State.reset with regs := [(0x0002000C, 0x4C430001)] }, by decide +kernel⟩

theorem witness_OtpOperations_6 : ∃ (cmd : Word) (a : OtpAnalog) (s : State),
      wbits cmd 31 16 = 0x0C7B ∧
      lcState s = 4 ∧
      taken s 0x173 = false ∧
      condStop a = 0 :=
  ⟨0x0C7B0007, goodOtp, { State.reset with otp := { mirror := [(0x13, 1)] } }, by decide +kernel⟩

theorem witness_OtpOperations_7 : ∃ (cmd : Word) (a : OtpAnalog) (s : State),
      wbits cmd 31 16 = 0x0C7B ∧
      lcState s = 3 ∧
      kwrapPresent s = false ∧
      condStop a = 0 :=
  ⟨0x0C7B0008, goodOtp, { State.reset with otp := { mirror := [(0x12, 1)] } }, by decide +kernel⟩

theorem witness_OtpOperations_8 : ∃ (cmd : Word) (a : OtpAnalog) (v : Nat) (s : State),
      wbits cmd 31 16 = 0x0C7B ∧
      wbits cmd 15 13 = 0 ∧
      v = bits (rnat s 0x0002000C) 11 0 ∧
      1 ≤ lcState s ∧
      lcState s ≤ 4 ∧
      fwCounter s < v ∧
      v ≤ 1536 ∧
      s.boot.slot = 3 ∨ v ≤ s.boot.fwRollback ∧
      condStop a = 0 :=
  ⟨0x0C7B0006, goodOtp, 3, { State.reset with otp := { mirror := [(0x12, 1)] }, regs := [(0x0002000C, 3)] }, by decide +kernel⟩

theorem witness_OtpOperations_9 : ∃ (v : Word) (s : State),
      v &&& 0xFFFF0000 = 0 :=
  ⟨0x90B7, State.reset, by decide +kernel⟩

theorem witness_OtpOperations_10 : ∃ (s : State),
      debugDisabled s = true ∧
      s.otp.debugEffective = false :=
  ⟨{ State.reset with otp := { mirror := [(0x15, 1)] }, regs := [(0x01010080, 1)] }, by decide +kernel⟩

theorem witness_LinkManagementWords_0 : ∃ (f : SbFrame) (w : BitVec 48) (s s1 : State),
      portOk s f.port = true ∧
      sbTake s f = (some w, s1) ∧
      tokType w = 1 ∧
      (s1.port f.port).sbDead = false ∧
      nbit (lmwData w) 0 = true ∧
      portPowered s1 f.port = true ∧
      (s1.port f.port).sbUp = true ∧
      (s1.port f.port).phy = .up :=
  ⟨frameOf ⟨.svc, 1⟩ (lmwWord 1 0 1), lmwWord 1 0 1, sbState, (sbTake sbState (frameOf ⟨.svc, 1⟩ (lmwWord 1 0 1))).2, by decide +kernel⟩

theorem witness_LinkManagementWords_1 : ∃ (f : SbFrame) (w : BitVec 48) (s s1 : State),
      portOk s f.port = true ∧
      sbTake s f = (some w, s1) ∧
      tokType w = 2 ∧
      (s1.port f.port).sbDead = false ∧
      (s1.port f.port).phy = .training ∧
      (s1.port f.port).lmw = none :=
  ⟨frameOf ⟨.svc, 1⟩ (lmwWord 2 0 8), lmwWord 2 0 8, trainState, (sbTake trainState (frameOf ⟨.svc, 1⟩ (lmwWord 2 0 8))).2, by decide +kernel⟩

theorem witness_LinkManagementWords_2 : ∃ (f : SbFrame) (w : BitVec 48) (s s1 : State),
      portOk s f.port = true ∧
      sbTake s f = (some w, s1) ∧
      tokType w = 3 ∧
      (s1.port f.port).sbDead = false ∧
      lmwArg w = 9 :=
  ⟨frameOf ⟨.eye, 3⟩ (lmwWord 3 9 5), lmwWord 3 9 5, trainState, (sbTake trainState (frameOf ⟨.eye, 3⟩ (lmwWord 3 9 5))).2, by decide +kernel⟩

theorem witness_LinkManagementWords_3 : ∃ (f : SbFrame) (w : BitVec 48) (s s1 : State),
      portOk s f.port = true ∧
      sbTake s f = (some w, s1) ∧
      tokType w = 4 ∧
      (s1.port f.port).sbDead = false :=
  ⟨frameOf ⟨.eye, 3⟩ (lmwWord 4 9 0x41), lmwWord 4 9 0x41, trainState, (sbTake trainState (frameOf ⟨.eye, 3⟩ (lmwWord 4 9 0x41))).2, by decide +kernel⟩

theorem witness_LinkManagementWords_4 : ∃ (f : SbFrame) (w : BitVec 48) (s s1 : State),
      portOk s f.port = true ∧
      sbTake s f = (some w, s1) ∧
      tokType w = 5 ∧
      (s1.port f.port).sbDead = false ∧
      bits (lmwArg w) 3 3 = 0 :=
  ⟨frameOf ⟨.eye, 3⟩ (lmwWord 5 1 0x41), lmwWord 5 1 0x41, trainState, (sbTake trainState (frameOf ⟨.eye, 3⟩ (lmwWord 5 1 0x41))).2, by decide +kernel⟩

theorem witness_LinkManagementWords_5 : ∃ (f : SbFrame) (w : BitVec 48) (s s1 : State),
      portOk s f.port = true ∧
      sbTake s f = (some w, s1) ∧
      tokType w = 6 ∧
      (s1.port f.port).sbDead = false ∧
      (s1.port f.port).pstate = .up ∧
      (s1.port f.port).phy = .up ∧
      s1.seqr.killed = false :=
  ⟨frameOf ⟨.svc, 1⟩ (lmwWord 6 0 0), lmwWord 6 0 0, sbState, (sbTake sbState (frameOf ⟨.svc, 1⟩ (lmwWord 6 0 0))).2, by decide +kernel⟩

theorem witness_LinkManagementWords_6 : ∃ (p : PortId) (w : BitVec 48) (s : State),
      portOk s p = true ∧
      (s.port p).lmw = some w :=
  ⟨⟨.svc, 1⟩, 5, { State.reset with ports := Vector.replicate 23 { lmw := some 5, lmwSends := 9 } }, by decide +kernel⟩

theorem witness_TrainingOfAPort_0 : ∃ (p : PortId) (o : TrainObs) (s : State),
      portOk s p = true ∧
      portPowered s p = false ∨ (s.port p).pstate = .dead ∨ (s.port p).pstate = .isolated ∨ (s.port p).phy = .up ∨ (s.port p).phy = .absent :=
  ⟨⟨.cd2, 3⟩, default, State.reset, by decide +kernel⟩

theorem witness_TrainingOfAPort_1 : ∃ (p : PortId) (o : TrainObs) (s : State),
      portOk s p = true ∧
      portPowered s p = true ∧
      (s.port p).phy = .training ∧
      (s.port p).pstate = .down ∧
      o.present = false :=
  ⟨⟨.svc, 1⟩, default, trainState, by decide +kernel⟩

theorem witness_TrainingOfAPort_2 : ∃ (p q : PortId) (o : TrainObs) (s : State),
      portOk s p = true ∧
      portPowered s p = true ∧
      (s.port p).phy = .training ∧
      (s.port p).pstate = .down ∧
      (s.port p).lastFail = 0 ∧
      peerPort s.part p = some q ∧
      o.present = true ∧
      o.sbUp = false :=
  ⟨⟨.svc, 1⟩, ⟨.eye, 4⟩, { (default : TrainObs) with present := true }, trainState, by decide +kernel⟩

theorem witness_TrainingOfAPort_3 : ∃ (p q : PortId) (o : TrainObs) (s : State),
      portOk s p = true ∧
      portPowered s p = true ∧
      (s.port p).phy = .training ∧
      (s.port p).pstate = .down ∧
      peerPort s.part p = some q ∧
      o.present = true ∧
      o.sbUp = true ∧
      o.reportOk = true ∧
      bstateOf o.tx0 ≠ .off ∧
      (trainBundle (lanemapRx s p 0) (s.port p).rx0 false o.rx0).b.state ≠ .off :=
  ⟨⟨.svc, 1⟩, ⟨.eye, 4⟩, { (default : TrainObs) with present := true, sbUp := true, reportOk := true, tx0 := 1 }, trainState, by decide +kernel⟩

theorem witness_TrainingOfAPort_4 : ∃ (p : PortId) (s : State),
      portOk s p = true ∧
      (s.port p).phy = .training :=
  ⟨⟨.svc, 1⟩, trainState, by decide +kernel⟩

theorem witness_TrainingOfAPort_5 : ∃ (p : PortId) (s : State),
      portOk s p = true ∧
      dieOpen s p.die = true ∧
      (s.port p).phy = .up ∧
      (s.port p).pstate = .up :=
  ⟨⟨.svc, 1⟩, sbState, by decide +kernel⟩

theorem witness_TrainingOfAPort_6 : ∃ (p : PortId) (s : State),
      portOk s p = true ∧
      (s.port p).pstate = .up :=
  ⟨⟨.svc, 1⟩, sbState, by decide +kernel⟩

theorem witness_TrainingOfAPort_7 : ∃ (p : PortId) (s : State),
      portOk s p = true ∧
      (s.port p).pstate = .down ∧
      (s.port p).phy = .down ∧
      (s.port p).lastFail = 5 ∧
      (s.port p).retries < 3 ∧
      (s.port p).poweredOff = false :=
  ⟨⟨.svc, 1⟩, { State.reset with ports := Vector.replicate 23 { lastFail := 5, retries := 2 } }, by decide +kernel⟩

theorem witness_TrainingOfAPort_8 : ∃ (p : PortId) (s : State),
      portOk s p = true :=
  ⟨⟨.eye, 3⟩, sbState, by decide +kernel⟩

theorem witness_ParcelsOnALink_0 : ∃ (r : LinkRx) (x : Parcel) (s s1 : State),
      linkReceive s r = (some x, s1) ∧
      r.port.valid = true ∧
      (s.port r.port).expected < 1024 :=
  ⟨recv ⟨.svc, 0⟩ readyP, readyP, upState, (linkReceive upState (recv ⟨.svc, 0⟩ readyP)).2, by decide +kernel⟩

theorem witness_ParcelsOnALink_1 : ∃ (p : PortId) (s : State),
      portOk s p = true ∧
      (s.port p).pstate = .up ∧
      (s.port p).nakPending = false :=
  ⟨⟨.svc, 1⟩, sbState, by decide +kernel⟩

theorem witness_ParcelsOnALink_2 : ∃ (p : PortId) (v : Nat) (x : Parcel) (rest : List Parcel) (s : State),
      p.valid = true ∧
      p.die ≠ .eye ∧
      (s.port p).pstate = .up ∧
      (s.port p).replayQ = [] ∧
      feedMerge (feedOutbox s p) p = s ∧
      nextVc (s.port p) = some v ∧
      vget (s.port p).txq v = x :: rest :=
  ⟨⟨.cd2, 3⟩, 0, readyP, [], sendState, by decide +kernel⟩

theorem witness_ParcelsOnALink_3 : ∃ (p : PortId) (s : State),
      portOk s p = true :=
  ⟨⟨.cd2, 3⟩, State.reset, by decide +kernel⟩

theorem witness_ParcelsOnALink_4 : ∃ (p : PortId) (s : State),
      (s.port p).pstate = .up ∧
      (s.port p).replayQ = [] ∧
      feedMerge (feedOutbox s p) p = s ∧
      nextVc (s.port p) = none ∧
      (s.port p).nulDue = true :=
  ⟨⟨.cd2, 3⟩, { State.reset with ports := Vector.replicate 23 { pstate := .up, nulDue := true } }, by decide +kernel⟩

theorem witness_ParcelsOnALink_5 : ∃ (r : LinkRx) (freed : List Nat) (s : State),
      portOk s r.port = true ∧
      (s.port r.port).pstate = .up :=
  ⟨recv ⟨.svc, 0⟩ readyP, [], upState, by decide +kernel⟩

theorem witness_ParcelsOnALink_6 : ∃ (p : PortId) (s : State),
      portOk s p = true ∧
      (s.port p).pstate = .up :=
  ⟨⟨.svc, 1⟩, sbState, by decide +kernel⟩

theorem witness_ParcelsOnALink_7 : ∃ (r : LinkRx) (s : State),
      portOk s r.port = true ∧
      (s.port r.port).pstate = .retraining ∧
      (s.port r.port).phy = .up ∧
      (s.die r.port.die).state ≠ 7 ∧
      r.t.av = true :=
  ⟨⟨⟨.svc, 1⟩, readyP, { seq := 0, ack := 3, av := true, nak := false, u := true, cvc := 7, cnt := 0 }⟩, resumeState, by decide +kernel⟩

theorem witness_ParcelsOnALink_8 : ∃ (p : PortId) (s : State),
      portOk s p = true ∧
      (s.port p).pstate = .retraining ∧
      (s.port p).phy = .up :=
  ⟨⟨.svc, 1⟩, resumeState, by decide +kernel⟩

theorem witness_NegotiationAndIsolation_0 : ∃ (p q : PortId) (c : Caps) (s : State),
      portOk s p = true ∧
      (s.port p).pstate = .negotiating ∧
      (s.port p).negStep = 1 ∧
      peerPort s.part p = some q ∧
      q.die.code = c.die ∧
      c.seen = true :=
  ⟨⟨.svc, 1⟩, ⟨.eye, 4⟩, { (default : Caps) with die := 1, seen := true }, { State.reset with ports := Vector.replicate 23 { pstate := .negotiating, negStep := 1 } }, by decide +kernel⟩

theorem witness_NegotiationAndIsolation_1 : ∃ (p : PortId) (c q : Caps) (s : State),
      portOk s p = true ∧
      (s.port p).pstate = .negotiating ∧
      (s.port p).negStep = 2 ∧
      (s.port p).partner = some q :=
  ⟨⟨.svc, 1⟩, default, default, { State.reset with ports := Vector.replicate 23 { pstate := .negotiating, negStep := 2, partner := some default } }, by decide +kernel⟩

theorem witness_NegotiationAndIsolation_2 : ∃ (p : PortId) (ok : Bool) (wrong : BitVec 512) (s : State),
      portOk s p = true ∧
      (s.port p).pstate = .negotiating ∧
      (s.port p).negStep = 3 :=
  ⟨⟨.svc, 1⟩, false, 7, { State.reset with ports := Vector.replicate 23 { pstate := .negotiating, negStep := 3 } }, by decide +kernel⟩

theorem witness_NegotiationAndIsolation_3 : ∃ (p : PortId) (s : State),
      portOk s p = true ∧
      (s.port p).pstate = .negotiating ∧
      (s.port p).negStep = 3 :=
  ⟨⟨.svc, 1⟩, { State.reset with ports := Vector.replicate 23 { pstate := .negotiating, negStep := 3, soakFails := 2, soakFailed := 1 } }, by decide +kernel⟩

theorem witness_NegotiationAndIsolation_4 : ∃ (p : PortId) (n : Nat) (s : State),
      portOk s p = true ∧
      (s.port p).pstate = .negotiating ∧
      (s.port p).negStep = 4 :=
  ⟨⟨.svc, 1⟩, 0, { State.reset with ports := Vector.replicate 23 { pstate := .negotiating, negStep := 4, lec := 9 } }, by decide +kernel⟩

theorem witness_NegotiationAndIsolation_5 : ∃ (p : PortId) (s : State),
      portOk s p = true ∧
      (s.port p).pstate = .negotiating :=
  ⟨⟨.svc, 1⟩, { State.reset with ports := Vector.replicate 23 { pstate := .negotiating, negStep := 4 } }, by decide +kernel⟩

theorem witness_NegotiationAndIsolation_6 : ∃ (p : PortId) (s : State),
      portOk s p = true ∧
      dieOpen s p.die = true :=
  ⟨⟨.svc, 1⟩, sbState, by decide +kernel⟩

theorem witness_NegotiationAndIsolation_7 : ∃ (p : PortId) (s : State),
      portOk s p = true ∧
      (s.port p).pstate ≠ .negotiating :=
  ⟨⟨.svc, 1⟩, sbState, by decide +kernel⟩

theorem witness_MaintenanceAndReads_0 : ∃ (r : LinkRx) (x : Parcel) (cd cl : Nat) (s s1 : State),
      portOk s r.port = true ∧
      linkReceive s r = (some x, s1) ∧
      x.vc = 5 ∧
      x.kind = 0 ∧
      windowOf s1 (leAt x.payload 0 4) (max 1 (x.payload.drop 4).length) = .sram cd cl ∧
      r.port.die = Die.ofCd cd :=
  ⟨recv ⟨.cd2, 3⟩ maintP, maintP, 2, 0, upState, (linkReceive upState (recv ⟨.cd2, 3⟩ maintP)).2, by decide +kernel⟩

theorem witness_MaintenanceAndReads_1 : ∃ (r : LinkRx) (x : Parcel) (s s1 : State),
      portOk s r.port = true ∧
      linkReceive s r = (some x, s1) ∧
      x.vc = 5 ∧
      x.kind = 1 :=
  ⟨recv ⟨.cd2, 3⟩ { maintP with kind := 1 }, { maintP with kind := 1 }, upState, (linkReceive upState (recv ⟨.cd2, 3⟩ { maintP with kind := 1 })).2, by decide +kernel⟩

theorem witness_MaintenanceAndReads_2 : ∃ (r : LinkRx) (x : Parcel) (cd cl : Nat) (s s1 : State),
      portOk s r.port = true ∧
      linkReceive s r = (some x, s1) ∧
      x.vc = 2 ∧
      x.kind = 0 ∧
      r.port.die = Die.ofCd cd ∧
      leAt x.payload 0 4 % 64 = 0 ∧
      leAt x.payload 4 1 = 1 ∧
      windowOf s1 (leAt x.payload 0 4) 64 = .sram cd cl ∧
      poisonedAt s1 cd (leAt x.payload 0 4) 64 = false :=
  ⟨recv ⟨.cd2, 1⟩ (readP 0x88000000 1), readP 0x88000000 1, 2, 0, upState, (linkReceive upState (recv ⟨.cd2, 1⟩ (readP 0x88000000 1))).2, by decide +kernel⟩

theorem witness_MaintenanceAndReads_3 : ∃ (r : LinkRx) (x : Parcel) (s s1 : State),
      portOk s r.port = true ∧
      linkReceive s r = (some x, s1) ∧
      x.vc = 2 ∧
      x.kind = 0 ∧
      r.port.die ≠ .svc ∧
      leAt x.payload 0 4 % 64 ≠ 0 ∨ leAt x.payload 4 1 = 0 ∨ 16 < leAt x.payload 4 1 ∨ readServed s1 r.port.die (leAt x.payload 0 4) (64 * leAt x.payload 4 1) false = false :=
  ⟨recv ⟨.cd2, 1⟩ (readP 0x88000000 17), readP 0x88000000 17, upState, (linkReceive upState (recv ⟨.cd2, 1⟩ (readP 0x88000000 17))).2, by decide +kernel⟩

theorem witness_MaintenanceAndReads_4 : ∃ (r : LinkRx) (x : Parcel) (cd : Nat) (s s1 : State),
      portOk s r.port = true ∧
      linkReceive s r = (some x, s1) ∧
      x.vc = 3 ∧
      x.kind = 0 ∧
      r.port.die.cdIdx = some cd ∧
      (∀ t ∈ (s1.fab cd).tags, t.tag ≠ x.tag) ∧
      x.gen = (s1.fab cd).gen :=
  ⟨recv ⟨.cd2, 1⟩ respP, respP, 2, upState, (linkReceive upState (recv ⟨.cd2, 1⟩ respP)).2, by decide +kernel⟩

theorem witness_MaintenanceAndReads_5 : ∃ (r : LinkRx) (x : Parcel) (cd : Nat) (g : ReadTag) (s s1 : State),
      portOk s r.port = true ∧
      linkReceive s r = (some x, s1) ∧
      x.vc = 3 ∧
      x.kind = 0 ∧
      r.port.die.cdIdx = some cd ∧
      (s1.fab cd).tags = [g] ∧
      g.tag = x.tag ∧
      g.gen = x.gen ∧
      g.target.code = x.src ∧
      g.lost = false ∧
      g.old = false ∧
      g.discard = false ∧
      x.arg % 2 = 0 ∧
      x.last = false :=
  ⟨recv ⟨.cd2, 1⟩ respP, respP, 2, tag0, tagState, (linkReceive tagState (recv ⟨.cd2, 1⟩ respP)).2, by decide +kernel⟩

theorem witness_MaintenanceAndReads_6 : ∃ (cd : Nat) (g : ReadTag) (s : State),
      cdOk s cd = true ∧
      (s.fab cd).tags = [g] ∧
      tagOut g = true :=
  ⟨2, tag0, tagState, by decide +kernel⟩

theorem witness_MaintenanceAndReads_7 : ∃ (cd n : Nat) (src dst : Word) (d : Die) (s : State),
      cdOk s cd = true ∧
      (windowOf s (src.toNat / 64 * 64) 64).die = some d ∧
      d ≠ Die.ofCd cd ∧
      (s.fab cd).masterActive = true ∧
      (s.fab cd).waitq = [] ∧
      freeTag (s.fab cd) = some n ∧
      ((s.fab cd).tags.filter fun x => tagOut x && x.port == readPort s cd d).length < portTags s cd (readPort s cd d) :=
  ⟨2, 0, 0x84000000, 0x88000000, .cd1, readState, by decide +kernel⟩

theorem witness_MaintenanceAndReads_8 : ∃ (cd lines : Nat) (src dst : Word) (nc : Bool) (s : State),
      cdOk s cd = true :=
  ⟨2, 1, 0, 0x88000000, false, State.reset, by decide +kernel⟩

theorem witness_MasterControlAndScrub_0 : ∃ (cd : Nat) (v : Word) (s : State),
      cdOk s cd = true ∧
      dieOpen s (Die.ofCd cd) = true ∧
      inField s = false ∨ rb s (fabReg cd 0) 2 = false ∨ wbit v 2 = true :=
  ⟨3, 1, { State.reset with dies := Vector.replicate 6 { state := 5 } }, by decide +kernel⟩

theorem witness_MasterControlAndScrub_1 : ∃ (cd : Nat) (v : Word) (s : State),
      cdOk s cd = true ∧
      dieOpen s (Die.ofCd cd) = true ∧
      inField s = true ∧
      rb s (fabReg cd 0) 2 = true ∧
      wbit v 2 = false :=
  ⟨3, 1, { State.reset with dies := Vector.replicate 6 { state := 5 }, otp := { mirror := [(0x13, 1)] }, regs := [(0x13400000, 4)] }, by decide +kernel⟩

theorem witness_MasterControlAndScrub_2 : ∃ (cd : Nat) (s : State),
      cdOk s cd = true ∧
      dieOpen s (Die.ofCd cd) = true :=
  ⟨0, { State.reset with dies := Vector.replicate 6 { state := 5 } }, by decide +kernel⟩

theorem witness_MasterControlAndScrub_3 : ∃ (cd : Nat) (s : State),
      cdOk s cd = true ∧
      (s.fab cd).masterActive = false ∧
      outstanding (s.fab cd) ≠ 0 ∧
      (s.fab cd).stuck = false :=
  ⟨2, tagState, by decide +kernel⟩

theorem witness_MasterControlAndScrub_4 : ∃ (cd : Nat) (s : State),
      cdOk s cd = true :=
  ⟨2, launchState, by decide +kernel⟩

theorem witness_MasterControlAndScrub_5 : ∃ (cd seg : Nat) (chunks : List (List Byte × Bool)) (s : State),
      cdOk s cd = true ∧
      seg < 64 :=
  ⟨2, 63, [([7], true)], scrubState, by decide +kernel⟩

theorem witness_SensorCommands_0 : ∃ (f : SbFrame) (w : BitVec 48) (e : LaunchEntry) (ns : Nat) (cl : Bool) (s s1 : State),
      LaunchReady s f 1 w s1 e ∧
      f.port.die = .eye ∧
      tokUnit w = 0 ∧
      s1.eye.state = .standby ∧
      s1.eye.relocking = false ∧
      rb s1 0x01000000 0 = false ∧
      singleTime (wMax s1 (rnat s1 0x01000014)) e.arg.toNat = some (ns, cl) :=
  ⟨launchFrame ⟨.eye, 4⟩ 0 1 0, launchToken .eye 0 1 0, entryArg, 20000, false, eyeState, launched eyeState ⟨.eye, 4⟩ 0 1 0, by decide +kernel⟩

theorem witness_SensorCommands_1 : ∃ (w ns t : Nat) (cl : Bool),
      singleTime w ns = some (t, cl) :=
  ⟨600000, 20000, 20000, false, by decide +kernel⟩

theorem witness_SensorCommands_2 : ∃ (f : SbFrame) (w : BitVec 48) (e : LaunchEntry) (sh k : Nat) (cl : Bool) (s s1 : State),
      LaunchReady s f 2 w s1 e ∧
      f.port.die = .eye ∧
      tokUnit w = 0 ∧
      s1.eye.state = .standby ∧
      s1.eye.relocking = false ∧
      rb s1 0x01000000 0 = false ∧
      dualTime (wMax s1 (rnat s1 0x01000018)) (wbits e.arg 31 16) (wbits e.arg 15 0) = some (sh, k, cl) :=
  ⟨launchFrame ⟨.eye, 4⟩ 0 2 0, launchToken .eye 0 2 0, entryHdr, 100, 2, false, eyeHdrState, launched eyeHdrState ⟨.eye, 4⟩ 0 2 0, by decide +kernel⟩

theorem witness_SensorCommands_3 : ∃ (f : SbFrame) (w : BitVec 48) (e : LaunchEntry) (s s1 : State),
      LaunchReady s f 1 w s1 e ∧
      f.port.die = .eye ∧
      tokUnit w = 0 ∧
      s1.eye.state = .off ∨ s1.eye.state = .cal ∨ s1.eye.state = .fault :=
  ⟨launchFrame ⟨.eye, 4⟩ 0 1 0, launchToken .eye 0 1 0, entryArg, { eyeState with eye := {} }, launched { eyeState with eye := {} } ⟨.eye, 4⟩ 0 1 0, by decide +kernel⟩

theorem witness_SensorCommands_4 : ∃ (a b : Bool) (s : State),
      s.eye.state = .cal ∧
      a = true ∨ b = true :=
  ⟨true, false, { State.reset with eye := { state := .cal } }, by decide +kernel⟩

theorem witness_SensorCommands_5 : ∃ (s : State),
      s.eye.state = .cal :=
  ⟨{ State.reset with eye := { state := .cal } }, by decide +kernel⟩

theorem witness_SensorCommands_6 : ∃ (p : ExpPlan) (s : State),
      s.eye.state = .exposing ∧
      s.eye.plan = some p :=
  ⟨default, { State.reset with eye := { state := .exposing, plan := some default } }, by decide +kernel⟩

theorem witness_SensorCommands_7 : ∃ (l m : List Nat) (s : State),
      s.eye.state = .reading ∧
      s.eye.bankWait = false :=
  ⟨[], [], { State.reset with eye := { state := .reading } }, by decide +kernel⟩

theorem witness_SensorCommands_9 : ∃ (s : State),
      s.eye.state ≠ .exposing ∧
      s.eye.state ≠ .reading :=
  ⟨State.reset, by decide +kernel⟩

theorem witness_SensorCommands_10 : ∃ (s : State),
      s.eye.state = .exposing ∨ s.eye.state = .reading :=
  ⟨{ State.reset with eye := { state := .reading } }, by decide +kernel⟩

theorem witness_SensorCommands_11 : ∃ (x y : Nat) (s : State),
      s.eye.state = .standby ∧
      s.eye.clkLosses = [x, y] ∧
      y ≤ x ∧
      x ≤ s.now :=
  ⟨1, 0, { State.reset with now := 1, eye := { state := .standby, clkLosses := [1, 0] } }, by decide +kernel⟩

theorem witness_SensorCommands_12 : ∃ (s : State),
      s.eye.relocking = true :=
  ⟨{ State.reset with eye := { relocking := true } }, by decide +kernel⟩

theorem witness_ImagePipelineCommands_0 : ∃ (f : SbFrame) (w : BitVec 48) (e : LaunchEntry) (s s1 : State),
      LaunchReady s f 8 w s1 e ∧
      f.port.die = .eye ∧
      tokUnit w = 1 ∧
      s1.eye.exposed = true :=
  ⟨launchFrame ⟨.eye, 4⟩ 1 8 0, launchToken .eye 1 8 0, entryArg, { eyeState with eye := { exposed := true } }, launched { eyeState with eye := { exposed := true } } ⟨.eye, 4⟩ 1 8 0, by decide +kernel⟩

theorem witness_ImagePipelineCommands_1 : ∃ (f : SbFrame) (w : BitVec 48) (e : LaunchEntry) (s s1 : State),
      LaunchReady s f 8 w s1 e ∧
      f.port.die = .eye ∧
      tokUnit w = 1 ∧
      s1.eye.exposed = false ∧
      (unitOf s1 .eye 0).queued = none :=
  ⟨launchFrame ⟨.eye, 4⟩ 1 8 0, launchToken .eye 1 8 0, entryArg, eyeState, launched eyeState ⟨.eye, 4⟩ 1 8 0, by decide +kernel⟩

theorem witness_ImagePipelineCommands_2 : ∃ (len index : Nat) (fe le te : Bool) (s : State),
      s.eye.exposed = true ∧
      s.eye.frameMissing = false ∧
      s.isp.state = .armed ∨ s.isp.state = .running :=
  ⟨4112, 0, false, false, false, { State.reset with eye := { exposed := true, rows := 1 }, isp := { state := .armed } }, by decide +kernel⟩

theorem witness_ImagePipelineCommands_3 : ∃ (s : State),
      s.eye.state = .exposing ∨ s.eye.state = .reading :=
  ⟨{ State.reset with eye := { state := .reading } }, by decide +kernel⟩

theorem witness_ImagePipelineCommands_4 : ∃ (c v : Nat),
      c ≤ 3919 ∧
      v < 1024 :=
  ⟨3919, 1023, by decide +kernel⟩

theorem witness_GroupsAndStreams_0 : ∃ (f : SbFrame) (w : BitVec 48) (e : LaunchEntry) (g : GroupDesc) (cd k : Nat) (s s1 : State),
      LaunchReady s f 0x10 w s1 e ∧
      f.port.die = Die.ofCd cd ∧
      cd < 4 ∧
      tokUnit w = k ∧
      k < 4 ∧
      clusterUsable (s1.cl cd k) = true ∧
      groupOf s1 cd e.arg.toNat = some g ∧
      (s1.cdie cd).aborted = false :=
  ⟨launchFrame ⟨.cd2, 3⟩ 1 0x10 0, launchToken .cd2 1 0x10 0, entry0, groupD, 2, 1, groupState, launched groupState ⟨.cd2, 3⟩ 1 0x10 0, by decide +kernel⟩

theorem witness_GroupsAndStreams_1 : ∃ (f : SbFrame) (w : BitVec 48) (e : LaunchEntry) (g : GroupDesc) (cd k : Nat) (s s1 : State),
      LaunchReady s f 0x10 w s1 e ∧
      f.port.die = Die.ofCd cd ∧
      cd < 4 ∧
      tokUnit w = k ∧
      k < 4 ∧
      clusterUsable (s1.cl cd k) = true ∧
      groupOf s1 cd e.arg.toNat = none ∨ (s1.cdie cd).aborted = true :=
  ⟨launchFrame ⟨.cd2, 3⟩ 1 0x10 0, launchToken .cd2 1 0x10 0, entry0, groupD, 2, 1, { groupState with img := {} }, launched { groupState with img := {} } ⟨.cd2, 3⟩ 1 0x10 0, by decide +kernel⟩

theorem witness_GroupsAndStreams_2 : ∃ (f : SbFrame) (w : BitVec 48) (e : LaunchEntry) (cd k : Nat) (s s1 : State),
      LaunchReady s f 0x10 w s1 e ∧
      f.port.die = Die.ofCd cd ∧
      cd < 4 ∧
      tokUnit w = k ∧
      k < 4 ∧
      clusterUsable (s1.cl cd k) = false :=
  ⟨launchFrame ⟨.cd2, 3⟩ 1 0x10 0, launchToken .cd2 1 0x10 0, entry0, 2, 1, launchState, launched launchState ⟨.cd2, 3⟩ 1 0x10 0, by decide +kernel⟩

theorem witness_GroupsAndStreams_3 : ∃ (r : LinkRx) (x : Parcel) (cd : Nat) (s s1 : State),
      portOk s r.port = true ∧
      linkReceive s r = (some x, s1) ∧
      x.vc = 1 ∧
      x.kind = 0 ∧
      r.port.die.cdIdx = some cd ∧
      streamMatch s1 cd x.src x.tag = none :=
  ⟨recv ⟨.cd2, 1⟩ (streamP 9), streamP 9, 2, groupState, (linkReceive groupState (recv ⟨.cd2, 1⟩ (streamP 9))).2, by decide +kernel⟩

theorem witness_GroupsAndStreams_4 : ∃ (r : LinkRx) (x : Parcel) (cd : Nat) (g : GroupDesc) (s s1 : State),
      portOk s r.port = true ∧
      linkReceive s r = (some x, s1) ∧
      x.vc = 1 ∧
      x.kind = 0 ∧
      x.comp = false ∧
      r.port.die.cdIdx = some cd ∧
      streamMatch s1 cd x.src x.tag = some g ∧
      g.inKind = 0 ∧
      (s1.cdie cd).aborted = false ∧
      inBandOf (s1.cdie cd) g.index x.arg = none :=
  ⟨recv ⟨.cd2, 1⟩ (streamP 3), streamP 3, 2, groupD, groupState, (linkReceive groupState (recv ⟨.cd2, 1⟩ (streamP 3))).2, by decide +kernel⟩

theorem witness_GroupsAndStreams_5 : ∃ (cd k : Nat) (jobs wide : List LayerJob) (hv : HvInput) (g : GroupDesc) (b : Launched) (s : State),
      cdOk s cd = true ∧
      k < 4 ∧
      groupOf s cd (s.cl cd k).group = some g ∧
      (unitOf s (Die.ofCd cd) k).busy = some b ∧
      b.act ≠ 0x12 ∧
      g.clusters = 2 ^ k ∧
      clusterBusy (s.cl cd k) = true ∧
      hvProgOf s cd g.index = none :=
  ⟨2, 1, [], [], default, groupD, ⟨0x10, 0, 0, 0, 0, false⟩, busyState, by decide +kernel⟩

theorem witness_GroupsAndStreams_6 : ∃ (cd k : Nat) (jobs wide : List LayerJob) (hv : HvInput) (g : GroupDesc) (b : Launched) (s : State),
      cdOk s cd = true ∧
      k < 4 ∧
      groupOf s cd (s.cl cd k).group = some g ∧
      (unitOf s (Die.ofCd cd) k).busy = some b ∧
      clusterBusy (s.cl cd k) = true :=
  ⟨2, 1, [], [], default, groupD, ⟨0x10, 0, 0, 0, 0, false⟩, busyState, by decide +kernel⟩

theorem witness_GroupsAndStreams_7 : ∃ (cd k : Nat) (jobs wide : List LayerJob) (fault : ProgFault) (hv : HvInput) (s : State),
      cdOk s cd = true ∧
      k < 4 ∧
      clusterBusy (s.cl cd k) = false :=
  ⟨2, 1, [], [], .ecc, default, groupState, by decide +kernel⟩

theorem witness_GroupsAndStreams_8 : ∃ (r : LinkRx) (x : Parcel) (cd : Nat) (s s1 : State),
      portOk s r.port = true ∧
      linkReceive s r = (some x, s1) ∧
      x.vc = 0 ∧
      x.kind = 8 ∧
      x.arg = 4 ∧
      r.port.die = Die.ofCd cd ∧
      cd < 4 :=
  ⟨recv ⟨.cd2, 3⟩ abortP, abortP, 2, busyState, (linkReceive busyState (recv ⟨.cd2, 3⟩ abortP)).2, by decide +kernel⟩

theorem witness_HalosAndTheirCommit_0 : ∃ (r : LinkRx) (x : Parcel) (cd : Nat) (g : GroupDesc) (s s1 : State),
      portOk s r.port = true ∧
      linkReceive s r = (some x, s1) ∧
      x.vc = 4 ∧
      x.kind = 0 ∧
      x.comp = false ∧
      r.port.die.cdIdx = some cd ∧
      haloMatch s1 cd x.src x.tag = some g ∧
      (s1.cdie cd).aborted = false ∧
      (s1.cdie cd).halos = [] :=
  ⟨recv ⟨.cd2, 1⟩ haloP, haloP, 2, haloD, haloState, (linkReceive haloState (recv ⟨.cd2, 1⟩ haloP)).2, by decide +kernel⟩

theorem witness_HalosAndTheirCommit_1 : ∃ (r : LinkRx) (x : Parcel) (cd : Nat) (g : GroupDesc) (s s1 : State),
      portOk s r.port = true ∧
      linkReceive s r = (some x, s1) ∧
      x.vc = 4 ∧
      x.kind = 0 ∧
      r.port.die.cdIdx = some cd ∧
      haloMatch s1 cd x.src x.tag = some g ∧
      (s1.cdie cd).aborted = true ∧
      (s1.cdie cd).halos = [] :=
  ⟨recv ⟨.cd2, 1⟩ haloP, haloP, 2, haloD, abortedState, (linkReceive abortedState (recv ⟨.cd2, 1⟩ haloP)).2, by decide +kernel⟩

theorem witness_HalosAndTheirCommit_2 : ∃ (f : SbFrame) (w : BitVec 48) (cd : Nat) (v : HaloVer) (s s1 : State),
      portOk s f.port = true ∧
      takeToken s f = (some w, s1) ∧
      tokType w = 3 ∧
      f.port.die.cdIdx = some cd ∧
      tokEp w = (s1.die f.port.die).ep % 8 ∧
      (s1.cdie cd).halos = [v] ∧
      v.src = tokSrc w ∧
      v.tag = tokUnit w ∧
      v.version = tokAct w ∧
      v.committed = false ∧
      v.revoked = false :=
  ⟨frameOf ⟨.cd2, 3⟩ commitW, commitW, 2, haloV, heldState, (takeToken heldState (frameOf ⟨.cd2, 3⟩ commitW)).2, by decide +kernel⟩

theorem witness_HalosAndTheirCommit_3 : ∃ (f : SbFrame) (w : BitVec 48) (cd : Nat) (v : HaloVer) (s s1 : State),
      portOk s f.port = true ∧
      takeToken s f = (some w, s1) ∧
      tokType w = 4 ∧
      f.port.die.cdIdx = some cd ∧
      tokEp w = (s1.die f.port.die).ep % 8 ∧
      (s1.cdie cd).halos = [v] ∧
      v.src = tokSrc w ∧
      v.tag = tokUnit w ∧
      v.version = tokAct w ∧
      v.committed = false ∧
      v.revoked = false :=
  ⟨frameOf ⟨.cd2, 3⟩ revokeW, revokeW, 2, haloV, heldState, (takeToken heldState (frameOf ⟨.cd2, 3⟩ revokeW)).2, by decide +kernel⟩

theorem witness_HalosAndTheirCommit_4 : ∃ (f : SbFrame) (w : BitVec 48) (cd : Nat) (s s1 : State),
      portOk s f.port = true ∧
      takeToken s f = (some w, s1) ∧
      f.port.die.cdIdx = some cd ∧
      tokEp w ≠ (s1.die f.port.die).ep % 8 :=
  ⟨frameOf ⟨.cd2, 3⟩ staleW, staleW, 2, heldState, (takeToken heldState (frameOf ⟨.cd2, 3⟩ staleW)).2, by decide +kernel⟩

theorem witness_CompressionError_0 : ∃ (n : Nat) (bs : List Byte),
      n = 3 ∨ n = 4 ∧
      bs.length = 32 :=
  ⟨3, List.replicate 32 7, by decide +kernel⟩

theorem witness_CompressionError_1 : ∃ (n : Nat) (bs : List Byte),
      n = 3 ∨ n = 4 ∧
      bs.length = 32 :=
  ⟨4, List.replicate 32 0x85, by decide +kernel⟩

theorem witness_ClusterFaults_0 : ∃ (cd k : Nat) (s : State),
      cdOk s cd = true ∧
      k < 4 ∧
      (s.cl cd k).state = .running ∧
      rb s (cdBase cd + 0x100000 * k) 1 = true ∧
      (s.cl cd k).stallTimes = [] :=
  ⟨2, 1, busyState, by decide +kernel⟩

theorem witness_ClusterFaults_1 : ∃ (cd k a b : Nat) (s : State),
      cdOk s cd = true ∧
      k < 4 ∧
      (s.cl cd k).state = .running ∧
      rb s (cdBase cd + 0x100000 * k) 1 = true ∧
      (s.cl cd k).stallTimes = [a, b] ∧
      s.now ≤ a + 600000000000 ∧
      s.now ≤ b + 600000000000 :=
  ⟨2, 1, 0, 0, { busyState with comp := Vector.replicate 4 { clusters := Vector.replicate 4 { state := .running, stallTimes := [0, 0] } } }, by decide +kernel⟩

theorem witness_ClusterFaults_2 : ∃ (cd k : Nat) (s : State),
      cdOk s cd = true ∧
      k < 4 ∧
      (s.cl cd k).state ≠ .running ∨ rb s (cdBase cd + 0x100000 * k) 1 = false :=
  ⟨2, 1, State.reset, by decide +kernel⟩

theorem witness_ClusterFaults_3 : ∃ (cd a b c d : Nat) (s : State),
      cdOk s cd = true :=
  ⟨2, 900, 901, 902, 903, State.reset, by decide +kernel⟩

theorem witness_ClusterFaults_4 : ∃ (cd k : Nat) (s : State),
      cdOk s cd = true ∧
      k < 4 :=
  ⟨2, 1, State.reset, by decide +kernel⟩

theorem witness_ClusterFaults_6 : ∃ (cd k : Nat) (a : Word) (s : State),
      cdOk s cd = true ∧
      k < 4 :=
  ⟨2, 1, 0x88000007, busyState, by decide +kernel⟩

theorem witness_DetectionAndTracking_0 : ∃ (f : SbFrame) (w : BitVec 48) (e : LaunchEntry) (g : GroupDesc) (cd : Nat) (s s1 : State),
      LaunchReady s f 0x11 w s1 e ∧
      f.port.die = Die.ofCd cd ∧
      cd < 4 ∧
      tokUnit w = 5 ∧
      rb s1 (cdBase cd + 0x600000) 0 = true ∧
      groupOf s1 cd e.arg.toNat = some g ∧
      (s1.cdie cd).aborted = false :=
  ⟨launchFrame ⟨.cd2, 3⟩ 5 0x11 0, launchToken .cd2 5 0x11 0, entry0, groupD, 2, groupState, launched groupState ⟨.cd2, 3⟩ 5 0x11 0, by decide +kernel⟩

theorem witness_DetectionAndTracking_1 : ∃ (f : SbFrame) (w : BitVec 48) (e : LaunchEntry) (cd : Nat) (s s1 : State),
      LaunchReady s f 0x11 w s1 e ∧
      f.port.die = Die.ofCd cd ∧
      cd < 4 ∧
      tokUnit w = 5 ∧
      rb s1 (cdBase cd + 0x600000) 0 = false :=
  ⟨launchFrame ⟨.cd2, 3⟩ 5 0x11 0, launchToken .cd2 5 0x11 0, entry0, 2, noDetState, launched noDetState ⟨.cd2, 3⟩ 5 0x11 0, by decide +kernel⟩

theorem witness_DetectionAndTracking_2 : ∃ (f : SbFrame) (w : BitVec 48) (e : LaunchEntry) (g : GroupDesc) (cd : Nat) (s s1 : State),
      LaunchReady s f 0x11 w s1 e ∧
      f.port.die = Die.ofCd cd ∧
      cd < 4 ∧
      tokUnit w = 5 ∧
      rb s1 (cdBase cd + 0x600000) 0 = true ∧
      groupOf s1 cd e.arg.toNat = some g ∧
      (s1.cdie cd).aborted = true :=
  ⟨launchFrame ⟨.cd2, 3⟩ 5 0x11 0, launchToken .cd2 5 0x11 0, entry0, groupD, 2, goneState, launched goneState ⟨.cd2, 3⟩ 5 0x11 0, by decide +kernel⟩

theorem witness_DetectionAndTracking_3 : ∃ (cd : Nat) (g : GroupDesc) (s : State),
      cdOk s cd = true ∧
      groupOf s cd (s.detUnit cd).desc = some g :=
  ⟨2, groupD, waitHeadState, by decide +kernel⟩

theorem witness_DetectionAndTracking_4 : ∃ (cd : Nat) (g : GroupDesc) (h : HeadBlock) (s : State),
      cdOk s cd = true ∧
      groupOf s cd (s.detUnit cd).desc = some g ∧
      (s.detUnit cd).state = .waitHead ∧
      headBusy s cd = false ∧
      readHead (fun off n => memNat s (sramBase cd (lowestOf g) + off) n) g.prog = some h ∧
      (s.fab cd).poison = [] :=
  ⟨2, groupD, headOf headState, headState, head_witness⟩

theorem witness_DetectionAndTracking_5 : ∃ (cd : Nat) (g : GroupDesc) (s : State),
      cdOk s cd = true ∧
      groupOf s cd (s.detUnit cd).desc = some g :=
  ⟨2, groupD, waitHeadState, by decide +kernel⟩

theorem witness_DetectionAndTracking_6 : ∃ (f : SbFrame) (w : BitVec 48) (e : LaunchEntry) (g : GroupDesc) (cd k : Nat) (s s1 u : State),
      LaunchReady s f 0x12 w s1 e ∧
      f.port.die = Die.ofCd cd ∧
      cd < 4 ∧
      tokUnit w = k ∧
      k < 4 ∧
      clusterUsable (s1.cl cd k) = true ∧
      groupOf s1 cd e.arg.toNat = some g ∧
      (s1.cdie cd).aborted = false ∧
      u = beginEntry (running s1 (Die.ofCd cd) k (launchedBy s1 w e)) cd k g.index g.bandFirst (launchedBy s1 w e) :=
  ⟨launchFrame ⟨.cd2, 3⟩ 1 0x12 0, launchToken .cd2 1 0x12 0, entry0, groupD, 2, 1, groupState, launched groupState ⟨.cd2, 3⟩ 1 0x12 0, beginEntry (running (launched groupState ⟨.cd2, 3⟩ 1 0x12 0) (Die.ofCd 2) 1 (launchedBy (launched groupState ⟨.cd2, 3⟩ 1 0x12 0) (launchToken .cd2 1 0x12 0) entry0)) 2 1 0 0 (launchedBy (launched groupState ⟨.cd2, 3⟩ 1 0x12 0) (launchToken .cd2 1 0x12 0) entry0), by decide +kernel⟩

theorem witness_SuppressionOfCandidates_2 : ∃ (a b : Cand),
      a.x0 ≤ a.x1 ∧
      a.y0 ≤ a.y1 ∧
      b.x0 ≤ b.x1 ∧
      b.y0 ≤ b.y1 :=
  ⟨default, default, by decide +kernel⟩

theorem witness_TrackMatchingAndIds_1 : ∃ (ts : List Track) (n : Nat),
      ts.length ≤ 255 ∧
      n < 4294967296 :=
  ⟨[{ id := 0xFFFFFFFF }], 0xFFFFFFFF, by decide +kernel⟩

theorem witness_CropsAndTheirResults_0 : ∃ (f : SbFrame) (w : BitVec 48) (e : LaunchEntry) (s s1 : State),
      LaunchReady s f 9 w s1 e ∧
      f.port.die = .eye ∧
      tokUnit w = 3 :=
  ⟨launchFrame ⟨.eye, 4⟩ 3 9 0, launchToken .eye 3 9 0, entryArg, eyeState, launched eyeState ⟨.eye, 4⟩ 3 9 0, by decide +kernel⟩

theorem witness_CropsAndTheirResults_1 : ∃ (r : LinkRx) (x : Parcel) (s s1 : State),
      portOk s r.port = true ∧
      linkReceive s r = (some x, s1) ∧
      x.vc = 1 ∧
      x.kind = 0 ∧
      x.tag = 0xF0 ∧
      r.port.die = .eye :=
  ⟨recv ⟨.eye, 3⟩ cropP, cropP, cropState, (linkReceive cropState (recv ⟨.eye, 3⟩ cropP)).2, by decide +kernel⟩

theorem witness_CropsAndTheirResults_2 : ∃ (q : CropReq) (s : State),
      s.guard.selftestFail = false :=
  ⟨default, cropState, by decide +kernel⟩

theorem witness_CropsAndTheirResults_6 : ∃ (q : CropReq) (y x : Nat) (s : State),
      redacted q y x = true ∧
      y < q.h ∧
      x < q.w :=
  ⟨{ (default : CropReq) with w := 16, h := 16, masked := true, mask := [255, 255] }, 0, 0, State.reset, by decide +kernel⟩

theorem witness_CropsAndTheirResults_7 : ∃ (r : LinkRx) (x : Parcel) (s s1 : State),
      portOk s r.port = true ∧
      linkReceive s r = (some x, s1) ∧
      x.vc = 0 ∧
      x.kind = 8 :=
  ⟨recv ⟨.svc, 0⟩ (doneP 6), doneP 6, upState, (linkReceive upState (recv ⟨.svc, 0⟩ (doneP 6))).2, by decide +kernel⟩

theorem witness_EgressGuard_0 : ∃ (s : State) (p : Nat) (x : Parcel),
      (guardCheck s p x).1 = true :=
  ⟨upState, 4, { readyP with src := 1, cls := 4, vc := 1, kind := 0 }, by decide +kernel⟩

theorem witness_EgressGuard_1 : ∃ (s : State) (p : Nat) (x : Parcel),
      guardPermits s p x = false :=
  ⟨upState, 4, { readyP with cls := 2 }, by decide +kernel⟩

theorem witness_EgressGuard_2 : ∃ (s : State) (p : Nat) (x : Parcel),
      x.cls = 4 ∧
      p = 4 ∧
      s.guard.selftestFail = false ∧
      s.guard.budgetHit = true ∨ rnat s 0x01030008 < s.guard.used + x.plen :=
  ⟨{ upState with guard := { budgetHit := true } }, 4, { readyP with cls := 4 }, by decide +kernel⟩

theorem witness_HarvestCommandsAndStates_1 : ∃ (v : Word) (s : State),
      inField s = true :=
  ⟨0x4A570001, { State.reset with otp := { mirror := [(0x13, 1)] } }, by decide +kernel⟩

theorem witness_HarvestCommandsAndStates_2 : ∃ (b : HarvestBlock) (cd slot done : Nat) (val : Bool) (s : State),
      hvBlock s = some b ∧
      hvCd s = some cd ∧
      s.hv.writing = some (slot, done, val) ∧
      s.hv.epochBytes < 16384 ∧
      done < ckptLen b :=
  ⟨hvB, 2, 0, 0, true, hvState, by decide +kernel⟩

theorem witness_HarvestCommandsAndStates_3 : ∃ (b : HarvestBlock) (cd : Nat) (w : Nat × Nat × Bool) (s : State),
      hvBlock s = some b ∧
      hvCd s = some cd ∧
      s.hv.writing = some w :=
  ⟨hvB, 2, (0, 0, true), hvState, by decide +kernel⟩

theorem witness_HarvestCommandsAndStates_4 : ∃ (b : Bool) (s : State),
      hvBlock s = none :=
  ⟨true, State.reset, by decide +kernel⟩

theorem witness_HarvestCommandsAndStates_5 : ∃ (b : HarvestBlock) (cd : Nat) (o : Bool) (s : State),
      s.hv.windowOpen = true ∧
      s.hv.cancelPending = false ∧
      s.hv.nan = false ∧
      s.hv.flashFailed = false :=
  ⟨hvB, 2, false, { hvState with hv := { state := .validate, windowOpen := true, passed := some true } }, by decide +kernel⟩

theorem witness_NetworkCommands_0 : ∃ (md : MasterData) (s : State),
      s.net.linkP0 = true ∧
      s.net.linkP1 = true ∧
      rb s 0x00050000 5 = true :=
  ⟨default, netState, by decide +kernel⟩

theorem witness_NetworkCommands_1 : ∃ (p d : Nat) (md : MasterData) (s : State),
      p < 2 ∧
      portUpNet s p = false ∨ rb s 0x00050000 5 = false ∨ d ≠ rf s 0x00050000 14 8 :=
  ⟨1, 0, default, State.reset, by decide +kernel⟩

theorem witness_NetworkCommands_4 : ∃ (l : Lease) (s : State),
      netOn s = true ∧
      rb s 0x00050000 0 = false :=
  ⟨default, netState, by decide +kernel⟩

theorem witness_NetworkCommands_6 : ∃ (p : Nat) (up fdx : Bool) (s : State),
      p < 2 ∧
      netOn s = false ∨ rb s 0x00050000 (1 + p) = false ∨ portHeld s p = true ∨ portUpNet s p = up :=
  ⟨1, true, true, netState, by decide +kernel⟩

theorem witness_NetworkCommands_7 : ∃ (fdx : Bool) (s : State),
      netOn s = true ∧
      rb s 0x00050000 2 = true ∧
      s.net.held1 = false ∧
      s.net.linkP1 = false ∧
      s.net.everLinked = true :=
  ⟨true, { netState with net := { netState.net with linkP1 := false } }, by decide +kernel⟩

theorem witness_NetworkCommands_9 : ∃ (f : Frame) (s : State),
      netOn s = true ∧
      f.inPort < 3 ∧
      portUpNet s f.inPort = true :=
  ⟨{ (default : Frame) with fcsOk := true, len := 64, room := true }, netState, by decide +kernel⟩

theorem witness_NetworkCommands_10 : ∃ (f : Frame) (t : List AddrEntry),
      t.length ≤ 256 :=
  ⟨default, [], by decide +kernel⟩

theorem witness_SessionsAndRegisterMessages_0 : ∃ (m : BcpEnv) (host : DWord) (hn : BitVec 128) (s : State),
      bcpServes s m = true ∧
      m.headerOk = true ∧
      m.version = 1 ∧
      m.lenOk = true ∧
      (authOk s m 1 (leBytes 8 host.toNat ++ nonceBytes hn) 0).1 = true ∧
      (rateAll s).1 = true ∧
      s.bcp.sessions.any (fun x => x.host != host && x.host.setWidth 32 == host.setWidth 32) = false :=
  ⟨envB 1, 7, 9, bcpState, by decide +kernel⟩

theorem witness_SessionsAndRegisterMessages_1 : ∃ (m : BcpEnv) (host : DWord) (hn : BitVec 128) (s : State),
      bcpServes s m = true ∧
      m.version = 1 ∧
      m.lenOk = true :=
  ⟨envB 1, 0x100000007, 9, bcpState, by decide +kernel⟩

theorem witness_SessionsAndRegisterMessages_2 : ∃ (m : BcpEnv) (x : Session) (a v : Word) (s u : State),
      BcpAccepts s m 2 (leBytes 4 a.toNat ++ leBytes 2 1 ++ [0, 0]) x ∧
      s.bcp.access = none ∧
      reachRead (acceptedState s m 2 x) .bcp a.toNat = .done .ok v u ∧
      (sessionOfHost u x.host).isSome = true ∧
      u.bcp.access = none :=
  ⟨envB 1, sesB, 0, 0x77200B00, bcpState, readAfter, by decide +kernel⟩

theorem witness_SessionsAndRegisterMessages_3 : ∃ (m : BcpEnv) (x : Session) (a lo hi : Word) (s u : State),
      BcpAccepts s m 4 (leBytes 4 a.toNat ++ leBytes 2 1 ++ [0, 0]) x ∧
      s.bcp.access = none ∧
      reach64 (acceptedState s m 4 x) a.toNat = .words [lo, hi] u ∧
      (sessionOfHost u x.host).isSome = true ∧
      u.bcp.access = none :=
  ⟨envB 1, sesB, 0x00060008, 7, 0, ownState, read64After, by decide +kernel⟩

theorem witness_SessionsAndRegisterMessages_4 : ∃ (m : BcpEnv) (x : Session) (a v w : Word) (s u : State),
      OwnerAsks s m 3 (leBytes 4 a.toNat ++ leBytes 2 1 ++ [0, 0] ++ leBytes 4 v.toNat) x ∧
      s.bcp.access = none ∧
      cutsOff (acceptedState s m 3 x) m a.toNat v = false ∧
      reachWrite (acceptedState s m 3 x) .bcp a.toNat v = .done .ok w u ∧
      (sessionOfHost u x.host).isSome = true ∧
      u.bcp.access = none ∧
      isOwner u x.host = false ∨ u.now < u.bcp.leaseEnd :=
  ⟨envB 1, sesB, 0x00060000, 0, 0, ownState, writeAfter, by decide +kernel⟩

theorem witness_SessionsAndRegisterMessages_5 : ∃ (m : BcpEnv) (x : Session) (a v : Word) (s : State),
      BcpAccepts s m 3 (leBytes 4 a.toNat ++ leBytes 2 1 ++ [0, 0] ++ leBytes 4 v.toNat) x :=
  ⟨envB 1, sesB, 0, 0, bcpState, by decide +kernel⟩

theorem witness_SessionsAndRegisterMessages_6 : ∃ (m : BcpEnv) (x : Session) (b : Byte) (bs : List Byte) (s : State),
      bcpServes s m = true ∧
      m.headerOk = true ∧
      m.version = 1 ∧
      m.lenOk = true ∧
      sessionOf s m.sender = some x ∧
      (authOk s m 0x13 [] x.nonce).1 = true :=
  ⟨envB 0, sesB, 1, [], bcpState, by decide +kernel⟩

theorem witness_OwnerElection_0 : ∃ (m : BcpEnv) (x : Session) (p : Nat) (s : State),
      BcpAccepts s m 0x10 (leBytes 1 p ++ [0, 0, 0]) x ∧
      p < 256 ∧
      s.bcp.held = [] ∧
      s.bcp.election = .openSt :=
  ⟨envB 1, sesB, 200, bcpState, by decide +kernel⟩

theorem witness_OwnerElection_1 : ∃ (m : BcpEnv) (x : Session) (p : Nat) (o : Owner) (s : State),
      BcpAccepts s m 0x10 (leBytes 1 p ++ [0, 0, 0]) x ∧
      p < 256 ∧
      s.bcp.election = .owned ∧
      s.bcp.owner = some o :=
  ⟨envB 1, sesB, 200, ⟨7, 0, 1⟩, ownState, by decide +kernel⟩

theorem witness_OwnerElection_2 : ∃ (c : HeldClaim) (s : State),
      s.bcp.election = .contest ∧
      bestClaim s.bcp.held = some c :=
  ⟨{ host := 7, level := 0, priority := 1, m := envB 1 }, { bcpState with bcp := { bcpState.bcp with election := .contest, held := [{ host := 7, level := 0, priority := 1, m := envB 1 }] } }, by decide +kernel⟩

theorem witness_OwnerElection_4 : ∃ (m : BcpEnv) (x : Session) (s : State),
      OwnerAsks s m 0x11 [] x :=
  ⟨envB 1, sesB, ownState, by decide +kernel⟩

theorem witness_OwnerElection_5 : ∃ (m : BcpEnv) (x : Session) (h : DWord) (s : State),
      OwnerAsks s m 0x12 (leBytes 8 h.toNat) x :=
  ⟨envB 1, sesB, 9, ownState, by decide +kernel⟩

theorem witness_OwnerElection_7 : ∃ (cs : List HeldClaim) (c : HeldClaim),
      bestClaim cs = some c :=
  ⟨[{ host := 7, level := 0, priority := 1, m := envB 1 }, { host := 6, level := 0, priority := 1, m := envB 1 }], { host := 6, level := 0, priority := 1, m := envB 1 }, by decide +kernel⟩

theorem witness_StagingAndSwitchOver_0 : ∃ (m : BcpEnv) (x : Session) (slot size : Nat) (sha : BitVec 256) (s : State),
      OwnerAsks s m 0x20 (leBytes 1 slot ++ [0, 0, 0] ++ leBytes 4 size ++ keyBytes sha) x ∧
      s.power.season = .summer ∨ s.power.season = .a1 ∨ s.power.season = .dormant ∧
      s.flash.sfdp = true :=
  ⟨envB 1, sesB, 1, 4096, 0, stageState, by decide +kernel⟩

theorem witness_StagingAndSwitchOver_1 : ∃ (m : BcpEnv) (x : Session) (off : Nat) (data : List Byte) (s : State),
      OwnerAsks s m 0x21 (leBytes 4 off ++ leBytes 2 data.length ++ [0, 0] ++ data) x ∧
      s.power.season = .summer ∧
      1 ≤ data.length ∧
      data.length ≤ 1024 :=
  ⟨envB 1, sesB, 0, [7], { stageState with stage := { status := 1, size := 1 } }, by decide +kernel⟩

theorem witness_StagingAndSwitchOver_2 : ∃ (m : BcpEnv) (x : Session) (s : State),
      OwnerAsks s m 0x22 [] x ∧
      s.power.season = .summer :=
  ⟨envB 1, sesB, { stageState with stage := { status := 1, size := 1024, units := [0] } }, by decide +kernel⟩

theorem witness_StagingAndSwitchOver_3 : ∃ (f : SlotFacts) (s : State),
      s.stage.status = 2 ∧
      s.stage.slot ≤ 1 :=
  ⟨default, { stageState with stage := { status := 2, slot := 1 } }, by decide +kernel⟩

theorem witness_StagingAndSwitchOver_4 : ∃ (m : BcpEnv) (x : Session) (slot mode : Nat) (e : Word) (d : BootDesc) (s : State),
      OwnerAsks s m 0x23 (leBytes 1 slot ++ leBytes 1 mode ++ [0, 0] ++ leBytes 4 e.toNat) x ∧
      s.power.season = .summer ∨ s.power.season = .a1 ∧
      switchDue s = false ∧
      s.sw.applied = false ∧
      descNow s = some d ∧
      slot ≤ 1 ∧
      slot ≠ s.boot.slot ∧
      mode ≤ 2 :=
  ⟨envB 1, sesB, 1, 2, 0, { desc0 with stateB := 1 }, switchState, by decide +kernel⟩

theorem witness_StagingAndSwitchOver_5 : ∃ (f : SlotFacts) (s : State),
      s.sw.state = 1 ∧
      s.sw.applied = false ∧
      slotFacts s s.sw.slot = some f :=
  ⟨default, { switchState with sw := { state := 1, slot := 1 } }, by decide +kernel⟩

theorem witness_StagingAndSwitchOver_6 : ∃ (m : BcpEnv) (x : Session) (s : State),
      OwnerAsks s m 0x24 [] x :=
  ⟨envB 1, sesB, switchState, by decide +kernel⟩

theorem witness_ConfigurationKeysAndLogMessages_0 : ∃ (m : BcpEnv) (x : Session) (mode : Nat) (s : State),
      OwnerAsks s m 0x25 (leBytes 1 mode ++ [0, 0, 0]) x ∧
      s.power.season = .summer ∧
      s.stage.status = 0 ∨ s.stage.status = 3 ∧
      mode ≤ 2 ∧
      s.bcp.runtime.length + (entriesNow s).length ≤ 2046 :=
  ⟨envB 1, sesB, 0, stageState, by decide +kernel⟩

theorem witness_ConfigurationKeysAndLogMessages_1 : ∃ (m : BcpEnv) (x : Session) (op : Nat) (key : BitVec 256) (s : State),
      OwnerAsks s m 0x30 (leBytes 1 0 ++ leBytes 1 op ++ [0, 0] ++ keyBytes key) x ∧
      s.stage.status = 0 :=
  ⟨envB 1, sesB, 0, 9, { stageState with otp := { mirror := [(0x13, 1)] } }, by decide +kernel⟩

theorem witness_ConfigurationKeysAndLogMessages_3 : ∃ (m : BcpEnv) (x : Session) (start : Word) (n : Nat) (s : State),
      BcpAccepts s m 0x40 (leBytes 4 start.toNat ++ leBytes 2 n ++ [0, 0]) x ∧
      1 ≤ n ∧
      n ≤ 43 :=
  ⟨envB 1, sesB, 0, 43, stageState, by decide +kernel⟩

theorem witness_ConfigurationKeysAndLogMessages_4 : ∃ (m : BcpEnv) (x : Session) (s : State),
      BcpAccepts s m 0x41 [] x :=
  ⟨envB 1, sesB, stageState, by decide +kernel⟩

theorem witness_ConfigurationKeysAndLogMessages_5 : ∃ (m : BcpEnv) (x : Session) (s : State),
      OwnerAsks s m 0x42 [] x :=
  ⟨envB 1, sesB, stageState, by decide +kernel⟩

theorem witness_ConfigurationKeysAndLogMessages_6 : ∃ (m : BcpEnv) (x : Session) (s : State),
      OwnerAsks s m 0x43 [] x :=
  ⟨envB 1, sesB, stageState, by decide +kernel⟩

theorem witness_RecordsAndDatagrams_0 : ∃ (r : LinkRx) (x : Parcel) (s s1 : State),
      portOk s r.port = true ∧
      linkReceive s r = (some x, s1) ∧
      x.vc = 1 ∧
      x.kind = 0 ∧
      x.cls = 4 ∧
      r.port.die = .svc ∧
      s1.recs.arrived + x.payload.length ≤ 65536 ∧
      3 ≤ x.tag ∨ (x.tag = 0 ∧ x.payload.length ≠ 32 ∧ x.payload.length ≠ 64) :=
  ⟨recv ⟨.svc, 0⟩ (recP 9 false), recP 9 false, upState, (linkReceive upState (recv ⟨.svc, 0⟩ (recP 9 false))).2, by decide +kernel⟩

theorem witness_RecordsAndDatagrams_1 : ∃ (r : LinkRx) (x : Parcel) (s s1 : State),
      portOk s r.port = true ∧
      linkReceive s r = (some x, s1) ∧
      x.vc = 1 ∧
      x.kind = 0 ∧
      x.cls = 4 ∧
      r.port.die = .svc ∧
      s1.recs.arrived + x.payload.length ≤ 65536 ∧
      x.tag = 1 ∧
      x.last = false ∧
      s1.recs.part = [] ∧
      x.payload ≠ [] :=
  ⟨recv ⟨.svc, 0⟩ (recP 1 false), recP 1 false, upState, (linkReceive upState (recv ⟨.svc, 0⟩ (recP 1 false))).2, by decide +kernel⟩

theorem witness_RecordsAndDatagrams_2 : ∃ (b : List Byte) (body : List Byte) (s : State),
      s.eye.exposed = true ∧
      b = leBytes 1 2 ++ [0] ++ leBytes 2 16 ++ body ∧
      body.length = 16 :=
  ⟨leBytes 1 2 ++ [0] ++ leBytes 2 16 ++ List.replicate 16 0, List.replicate 16 0, { State.reset with eye := { exposed := true } }, by decide +kernel⟩

theorem witness_RecordsAndDatagrams_6 : ∃ (s : State),
      s.recs.closed = false ∨ addressed s = false ∨ rb s 0x00070000 0 = false :=
  ⟨State.reset, by decide +kernel⟩

theorem witness_RecordsAndDatagrams_7 : ∃ (s : State),
      s.recs.closed = true ∧
      addressed s = true ∧
      rb s 0x00070000 0 = true ∧
      rb s 0x00070000 1 = false ∧
      s.recs.queue = [] :=
  ⟨sendableState, by decide +kernel⟩

theorem witness_RecordsAndDatagrams_9 : ∃ (r : Record) (s : State),
      r.body.typ = 9 :=
  ⟨{ recZ with body := .overflow [] 0 false false false false }, State.reset, by decide +kernel⟩

theorem witness_PeerExchange_2 : ∃ (p : PeerMsg) (a : Announce) (s : State),
      rb s 0x00070100 0 = true ∧
      rb s 0x00070100 1 = false ∧
      s.power.season ≠ .dormant ∧
      p.wellFormed = true ∧
      p.mac ≠ ownMac s :=
  ⟨peerP, default, peerState, by decide +kernel⟩

theorem witness_PeerExchange_3 : ∃ (p : PeerMsg) (item : List Byte) (e : PeerEntry) (s : State),
      rb s 0x00070100 0 = true ∧
      rb s 0x00070100 1 = false ∧
      s.power.season ≠ .dormant ∧
      p.wellFormed = true ∧
      p.mac ≠ ownMac s ∧
      item.length = 128 :=
  ⟨peerP, List.replicate 128 0, entryZ, peerState, by decide +kernel⟩

theorem witness_PeerExchange_4 : ∃ (p : PeerMsg) (s : State),
      rb s 0x00070100 0 = true ∧
      rb s 0x00070100 1 = false ∧
      s.power.season ≠ .dormant ∧
      p.wellFormed = true ∧
      p.mac ≠ ownMac s ∧
      (peerOf s p.mac).isSome = true :=
  ⟨peerP, { peerState with peers := { table := [{ mac := 5, zone := 1, ip := 0, heard := 0, embId := 0, embAccept := false }] } }, by decide +kernel⟩

theorem witness_PeerExchange_6 : ∃ (d : Die) (m : SqiMeta) (x : Staged) (e : Nat) (s : State),
      itemKind x.bytes ≠ 2 ∧
      slotOf s.peers (itemMac x.bytes) (itemTrack x.bytes) = some e ∨ (slotOf s.peers (itemMac x.bytes) (itemTrack x.bytes) = none ∧ emptySlot s.peers m.peerSlots = some e) :=
  ⟨.cd2, { (default : SqiMeta) with peerSlots := 4 }, { bytes := [], received := 0, order := 0 }, 0, peerState, by decide +kernel⟩

theorem witness_ListenerFrames_0 : ∃ (xs : List Int) (n : Nat),
      n < 1600 :=
  ⟨List.replicate 160 8192, 192, by decide +kernel⟩

theorem witness_ListenerFrames_1 : ∃ (x0 x1 : List Int) (scores : List Nat) (b0 b1 : Nat) (ecc : Bool) (s : State),
      s.lst.state = .off :=
  ⟨[], [], [], 0, 0, false, State.reset, by decide +kernel⟩

theorem witness_ListenerFrames_2 : ∃ (x0 x1 : List Int) (scores : List Nat) (b0 b1 : Nat) (s : State),
      s.lst.state = .start ∨ s.lst.state = .test ∨ s.lst.state = .fault :=
  ⟨[], [], [], 100, 5000, lstAs .test, by decide +kernel⟩

theorem witness_ListenerFrames_3 : ∃ (x0 x1 : List Int) (scores : List Nat) (b0 b1 : Nat) (ecc : Bool) (s : State),
      s.lst.state = .running ∧
      rb s 0x00080000 8 = false :=
  ⟨List.replicate 160 100, List.replicate 160 100, [], 0, 0, false, lstState, by decide +kernel⟩

theorem witness_ListenerFrames_4 : ∃ (m : Nat) (e : Int) (s : State),
      m < 2 :=
  ⟨1, -800, lstState, by decide +kernel⟩

theorem witness_ListenerStatesAndFaults_1 : ∃ (v : Word) (s : State),
      inField s = true :=
  ⟨1, { State.reset with otp := { mirror := [(0x13, 1)] } }, by decide +kernel⟩

theorem witness_ListenerStatesAndFaults_2 : ∃ (v : Word) (s : State),
      s.lst.state = .running ∧
      lstOn (rput s 0x00080000 ((v ||| 0x200) &&& 0x7DFF)) = true :=
  ⟨0xF, lstState, by decide +kernel⟩

theorem witness_ListenerStatesAndFaults_4 : ∃ (m : Nat) (s : State),
      2 ≤ m :=
  ⟨2, State.reset, by decide +kernel⟩

theorem witness_ListenerStatesAndFaults_5 : ∃ (m : Nat) (s : State),
      m < 2 ∧
      micBiased s m = true :=
  ⟨0, lstState, by decide +kernel⟩

theorem witness_ListenerStatesAndFaults_6 : ∃ (m : Nat) (s : State),
      m < 2 ∧
      s.lst.state ≠ .off ∧
      (micOf s m).biasOff = true ∧
      (micOf s m).biasGone = false :=
  ⟨1, lstMics { status := 2, biasOff := true }, by decide +kernel⟩

theorem witness_ListenerStatesAndFaults_7 : ∃ (m : Nat) (s : State),
      m < 2 :=
  ⟨0, lstState, by decide +kernel⟩

theorem witness_ListenerStatesAndFaults_8 : ∃ (s : State),
      s.lst.state ≠ .off :=
  ⟨lstState, by decide +kernel⟩

theorem witness_HousekeepingConversions_1 : ∃ (f : SbFrame) (w : BitVec 48) (e : LaunchEntry) (s s1 : State),
      LaunchReady s f 0x30 w s1 e ∧
      f.port.die = .svc ∧
      tokUnit w = 1 ∧
      hkMode s1 = 0 :=
  ⟨launchFrame ⟨.svc, 0⟩ 1 0x30 0, launchToken .svc 1 0x30 0, entry0, hkState, launched hkState ⟨.svc, 0⟩ 1 0x30 0, by decide +kernel⟩

theorem witness_HousekeepingConversions_2 : ∃ (k : Bank) (x : Int) (s : State),
      hkConverting (hkConv s k) = false :=
  ⟨.a, 100, hkState, by decide +kernel⟩

theorem witness_HousekeepingConversions_3 : ∃ (k : Bank) (x : Int) (ch : Nat) (rest : List Nat) (s : State),
      (hkConv s k).state = .scanning ∨ (hkConv s k).state = .starting ∧
      hkMode s = 0 ∧
      (hkConv s k).urgent = none ∧
      (hkConv s k).chans = ch :: rest ∧
      ch < 24 :=
  ⟨.a, 100, 11, [17], hkAs { state := .starting, chans := [11, 17], passes := 1 }, by decide +kernel⟩

theorem witness_HousekeepingConversions_4 : ∃ (k : Bank) (x : Int) (ch : Nat) (s : State),
      (hkConv s k).state = .continuous ∧
      hkMode s = 0 ∧
      (hkConv s k).urgent = some ch ∧
      (hkConv s k).slice = 0 ∧
      ch < 24 :=
  ⟨.a, 100, 17, hkAs { state := .continuous, urgent := some 17 }, by decide +kernel⟩

theorem witness_HousekeepingConversions_5 : ∃ (k : Bank) (ch y : Nat) (clip urgent pair : Bool) (s : State),
      ch < 24 ∧
      y ≤ 4095 ∧
      wbit (rget s (0x00090300 + 4 * ch)) 31 = false ∧
      urgent = false ∧
      wbit (rget s 0x00090010) ch = false ∧
      ch ≠ 10 ∧
      ch ≠ 18 :=
  ⟨.b, 12, 2724, false, false, false, hkState, by decide +kernel⟩

theorem witness_HousekeepingConversions_7 : ∃ (k : Bank) (d : Nat) (s : State),
      hkConverting (hkConv s k) = true ∧
      d < 4 ∧
      nbit (hkConv s k).sliceOut.toNat d = false :=
  ⟨.a, 2, hkAs { state := .continuous }, by decide +kernel⟩

theorem witness_HousekeepingConversions_8 : ∃ (a b : Int) (s : State),
      hkMode s = 2 ∧
      s.hk.a.state = .continuous ∧
      s.hk.b.state = .continuous ∧
      (((hkCorrect s .a (rf s 0x00090000 28 24) a).1 : Int) - (hkCorrect s .b (rf s 0x00090000 28 24) b).1).natAbs ≤ rf s 0x00090008 23 16 :=
  ⟨3413, 3415, xcState, by decide +kernel⟩

theorem witness_HousekeepingConversions_9 : ∃ (a b : Int) (s : State),
      hkMode s = 2 ∧
      s.hk.a.state = .continuous ∧
      s.hk.b.state = .continuous ∧
      rf s 0x00090008 23 16 < (((hkCorrect s .a (rf s 0x00090000 28 24) a).1 : Int) - (hkCorrect s .b (rf s 0x00090000 28 24) b).1).natAbs :=
  ⟨3413, 3515, xcState, by decide +kernel⟩

theorem witness_HousekeepingConversions_11 : ∃ (p : Path) (v : Word) (s : State),
      hkPathOk s p = true ∧
      hkChannel s (wbits v 4 0) = true ∧
      wbits v 31 16 = 0x0A9C ∧
      wbit v 5 = false ∧
      s.hk.a.urgent = none ∧
      hkMode s ≠ 1 :=
  ⟨.core, 0x0A9C0011, hkState, by decide +kernel⟩

theorem witness_HousekeepingConversions_12 : ∃ (s : State),
      s.hk.a.state = .off ∨ s.hk.a.state = .fault ∧
      s.hk.b.state = .off ∨ s.hk.b.state = .fault :=
  ⟨State.reset, by decide +kernel⟩

theorem witness_HousekeepingConversions_13 : ∃ (s : State),
      s.hk.a.state = .continuous ∧
      s.hk.b.state = .off :=
  ⟨{ xcState with hk := { a := { state := .continuous } } }, by decide +kernel⟩

theorem witness_FieldOutputs_0 : ∃ (s : State) (mask n : Nat),
      n < 4 :=
  ⟨foState, 5, 2, by decide +kernel⟩

theorem witness_FieldOutputs_1 : ∃ (f : SbFrame) (w : BitVec 48) (e : LaunchEntry) (s s1 : State),
      LaunchReady s f 0x20 w s1 e ∧
      f.port.die = .svc ∧
      tokUnit w = 3 ∧
      foOn s1 = true ∧
      wbits e.arg 31 16 ≠ 0 :=
  ⟨launchFrame ⟨.svc, 0⟩ 3 0x20 0, launchToken .svc 3 0x20 0, entryFo, foState, launched foState ⟨.svc, 0⟩ 3 0x20 0, by decide +kernel⟩

theorem witness_FieldOutputs_2 : ∃ (f : SbFrame) (w : BitVec 48) (e : LaunchEntry) (s s1 : State),
      LaunchReady s f 0x21 w s1 e ∧
      f.port.die = .svc ∧
      tokUnit w = 3 ∧
      foOn s1 = true :=
  ⟨launchFrame ⟨.svc, 0⟩ 3 0x21 0, launchToken .svc 3 0x21 0, entryFo, foState, launched foState ⟨.svc, 0⟩ 3 0x21 0, by decide +kernel⟩

theorem witness_FieldOutputs_3 : ∃ (f : SbFrame) (w : BitVec 48) (e : LaunchEntry) (s s1 : State),
      LaunchReady s f 0x22 w s1 e ∧
      f.port.die = .svc ∧
      tokUnit w = 3 :=
  ⟨launchFrame ⟨.svc, 0⟩ 3 0x22 0, launchToken .svc 3 0x22 0, entryFo, foHas { cmd := true }, launched (foHas { cmd := true }) ⟨.svc, 0⟩ 3 0x22 0, by decide +kernel⟩

theorem witness_FieldOutputs_4 : ∃ (k : Nat) (s : State),
      k < 4 ∧
      foOn s = true :=
  ⟨0, foHas { cmd := true, pulseEnd := some 4 }, by decide +kernel⟩

theorem witness_FieldOutputs_6 : ∃ (k : Nat) (o : Nat) (s : State),
      k < 4 :=
  ⟨1, 0, foState, by decide +kernel⟩

theorem witness_FieldOutputs_7 : ∃ (k : Nat) (s : State),
      4 ≤ k :=
  ⟨4, State.reset, by decide +kernel⟩

theorem witness_FieldOutputs_8 : ∃ (k : Nat) (s : State),
      k < 4 :=
  ⟨0, foState, by decide +kernel⟩

theorem witness_FieldOutputs_9 : ∃ (k : Nat) (s : State),
      k < 4 ∧
      foPaired s k = false ∧
      (foOut s k).latched = true :=
  ⟨0, foLatched, by decide +kernel⟩

theorem witness_FieldOutputs_10 : ∃ (p : Path) (v : Word) (s : State),
      fieldPathOk s p = true :=
  ⟨.core, 0x101, foLatched, by decide +kernel⟩

theorem witness_TamperBusesAndPins_0 : ∃ (k c : Nat) (r : Bool) (s : State),
      k < 2 :=
  ⟨0, 2562, true, teOtp { state := .start, samples := List.replicate 15 2562 }, by decide +kernel⟩

theorem witness_TamperBusesAndPins_1 : ∃ (k c : Nat) (r : Bool) (s : State),
      k < 2 ∧
      (teOf s k).state = .normal :=
  ⟨1, 5000, true, teOtp { state := .normal, occRun := 19 }, by decide +kernel⟩

theorem witness_TamperBusesAndPins_2 : ∃ (k c : Nat) (r : Bool) (s : State),
      k < 2 ∧
      (teOf s k).state = .occluded ∧
      ((256 * (c : Int) - (teOf s k).base).natAbs : Int) ≤ teClear s ∧
      (teOf s k).clearRun = 99 :=
  ⟨0, 5, true, teOtp { state := .occluded, clearRun := 99 }, by decide +kernel⟩

theorem witness_TamperBusesAndPins_3 : ∃ (k : Nat) (s : State),
      k < 2 :=
  ⟨1, teState { state := .occluded }, by decide +kernel⟩

theorem witness_TamperBusesAndPins_4 : ∃ (v : Word) (s : State),
      wbits v 31 16 = 0x7B5E ∧
      wbit v 0 = true ∧
      wbit v 1 = false ∧
      s.tamper.te0.state = .occluded ∨ s.tamper.te0.state = .occludedAtStart ∨ s.tamper.te0.state = .normal :=
  ⟨0x7B5E0001, teState { state := .occluded }, by decide +kernel⟩

theorem witness_TamperBusesAndPins_6 : ∃ (v : Word) (r : I2cResult) (s : State),
      wbits v 31 24 = 0xC2 ∧
      wbits v 13 8 ≤ 32 ∧
      wbit v 7 = false ∧
      rb s 0x000C0000 10 = true ∧
      s.bus.xfer = none :=
  ⟨0xC2000250, .nackAddr, i2cState none, by decide +kernel⟩

theorem witness_TamperBusesAndPins_7 : ∃ (x : I2cXfer) (r : I2cResult) (b : Nat) (o : Bool) (s : State),
      s.bus.xfer = some x :=
  ⟨{ (default : I2cXfer) with losses := 3 }, .nackAddr, 5, true, i2cState (some { (default : I2cXfer) with losses := 3 }), by decide +kernel⟩

theorem witness_TamperBusesAndPins_9 : ∃ (k : Nat) (up : Bool) (s : State),
      k < 8 ∧
      rb s (0x000C0300 + 4 * k) 6 = false :=
  ⟨3, true, foState, by decide +kernel⟩

theorem witness_TamperBusesAndPins_10 : ∃ (k c : Nat) (s : State),
      8 ≤ k :=
  ⟨8, 0, State.reset, by decide +kernel⟩

theorem witness_TamperBusesAndPins_11 : ∃ (st : Nat) (s : State),
      pmOn s = true ∧
      s.bus.pmFailed = false ∧
      nbit st 14 = false ∧
      nbit st 11 = false :=
  ⟨4, foState, by decide +kernel⟩

theorem witness_TamperBusesAndPins_12 : ∃ (v i p : Nat) (s : State),
      pmOn s = true ∧
      s.bus.pmFailed = false ∧
      s.power.vcoreSent ≠ 0 :=
  ⟨750, 9000, 6750, vcState, by decide +kernel⟩

theorem witness_TamperBusesAndPins_13 : ∃ (st : Nat) (ok : Bool) (s : State),
      pmOn s = false :=
  ⟨0, true, State.reset, by decide +kernel⟩

theorem witness_CheckContexts_0 : ∃ (k : Nat) (a b : List Byte) (s : State),
      k < 4 ∧
      (vget s.cv k).alg ≤ 3 ∧
      (vget s.cv k).value.toNat < 2 ^ crcWidth (vget s.cv k).alg :=
  ⟨1, [0x31, 0x32], [0x33], cvState, by decide +kernel⟩

theorem witness_CheckContexts_1 : ∃ (p : Path) (k : Nat) (v : Word) (s s1 : State),
      k < 4 ∧
      cvPathOk s p = true ∧
      wbit v 5 = false ∧
      wbit v 6 = false ∧
      s1 = rput s (cvBase k) ((v ||| 0x10) &&& 0x8F) :=
  ⟨.core, 2, 1, cvState, rput cvState (cvBase 2) ((1 ||| 0x10) &&& 0x8F), by decide +kernel⟩

theorem witness_CheckContexts_2 : ∃ (p : Path) (k n : Nat) (v : Word) (s : State),
      k < 4 :=
  ⟨.i2c, 0, 1, 5, cvState, by decide +kernel⟩

theorem witness_CheckContexts_3 : ∃ (p : Path) (k : Nat) (v : Word) (s : State),
      k < 4 ∧
      cvPathOk s p = true ∧
      (vget s.cv k).bound = some p ∧
      (vget s.cv k).busy = false :=
  ⟨.core, 1, 0x12345678, cvState, by decide +kernel⟩

theorem witness_CheckContexts_4 : ∃ (p : Path) (k src len : Nat) (v : Word) (s s1 : State),
      k < 4 ∧
      cvPathOk s p = true ∧
      (vget s.cv k).bound = some p ∧
      (vget s.cv k).busy = false ∧
      wbit v 4 = false ∧
      wbit v 5 = false ∧
      s1 = rput s (cvBase k) ((v ||| 0x40) &&& 0x8F) ∧
      src = rnat s1 (cvBase k + 0x20) ∧
      len = rf s1 (cvBase k + 0x24) 22 0 :=
  ⟨.core, 1, 0x00400000, 4, 0, cvState, rput cvState (cvBase 1) ((0 ||| 0x40) &&& 0x8F), by decide +kernel⟩

theorem witness_CheckContexts_5 : ∃ (k : Nat) (s : State),
      k < 4 ∧
      (vget s.cv k).busy = true ∧
      rb s (cvBase k) 7 = false :=
  ⟨1, cvBusy, by decide +kernel⟩

theorem witness_CheckContexts_6 : ∃ (k : Nat) (ecc : Bool) (s : State),
      k < 4 ∧
      (vget s.cv k).busy = false :=
  ⟨1, true, cvState, by decide +kernel⟩

theorem witness_CheckContexts_7 : ∃ (p : Path) (k : Nat) (v : Word) (s s1 : State),
      k < 4 ∧
      cvPathOk s p = true ∧
      wbit v 4 = false ∧
      wbit v 6 = false ∧
      s1 = rput s (cvBase k) ((v ||| 0x20) &&& 0x8F) :=
  ⟨.core, 1, 4, cvState, rput cvState (cvBase 1) ((4 ||| 0x20) &&& 0x8F), by decide +kernel⟩

theorem witness_CheckContexts_8 : ∃ (p : Path) (k : Nat) (v : Word) (s : State),
      4 ≤ k :=
  ⟨.core, 4, 0, State.reset, by decide +kernel⟩

theorem witness_TroubleLogIntakeAndWriter_2 : ∃ (e : Event) (s : State),
      fitted s e.die = true :=
  ⟨evA, State.reset, by decide +kernel⟩

theorem witness_TroubleLogIntakeAndWriter_3 : ∃ (s : State),
      s.log.special = [] ∧
      s.log.frozen = true ∨ s.log.fatal = [] ∧ s.log.intake = [] :=
  ⟨logState {}, by decide +kernel⟩

theorem witness_TroubleLogIntakeAndWriter_4 : ∃ (e : Event) (es : List Event) (s : State),
      s.log.special = [] ∧
      s.log.frozen = false ∧
      s.log.fatal = [] ∧
      s.log.intake = e :: es ∧
      e.sev ≠ 3 ∧
      e.code ≠ Code.logFrozen ∧
      s.log.post = none :=
  ⟨evA, [], logState { intake := [evA], gap := some ⟨1, 5, 5⟩ }, by decide +kernel⟩

theorem witness_TroubleLogIntakeAndWriter_5 : ∃ (e : Event) (es : List Event) (s : State),
      s.log.special = [] ∧
      s.log.frozen = false ∧
      s.log.fatal = e :: es ∧
      e.sev = 3 ∧
      e.code ≠ Code.logFrozen ∧
      s.log.post = none ∧
      rb s 0x000E0000 0 = true ∧
      rf s 0x000E0000 15 8 ≠ 0 :=
  ⟨evF, [], logState { fatal := [evF] }, by decide +kernel⟩

theorem witness_TroubleLogIntakeAndWriter_6 : ∃ (r : LinkRx) (x : Parcel) (s s1 : State),
      portOk s r.port = true ∧
      linkReceive s r = (some x, s1) ∧
      x.vc = 0 ∧
      x.kind = 0xA :=
  ⟨recv ⟨.svc, 0⟩ eventP, eventP, upState, (linkReceive upState (recv ⟨.svc, 0⟩ eventP)).2, by decide +kernel⟩

theorem witness_TroubleLogCommandsAndReads_1 : ∃ (p : Path) (v : Word) (s : State),
      logPathOk s p = true ∧
      wbits v 31 16 = 0x10C6 :=
  ⟨.core, 0x10C60001, logState { frozen := true }, by decide +kernel⟩

theorem witness_TroubleLogCommandsAndReads_2 : ∃ (p : Path) (v : Word) (s : State),
      logPathOk s p = true ∧
      wbits v 31 16 = 0x10C6 ∧
      s.log.frozen = true :=
  ⟨.bcp, 0x10C60002, logState { frozen := true }, by decide +kernel⟩

theorem witness_TroubleLogCommandsAndReads_3 : ∃ (p : Path) (i : Word) (r : LogRecord) (ecc : Bool) (s : State),
      (vget s.logRd p.idx).idx = i :=
  ⟨.jtag, 0, default, false, logState {}, by decide +kernel⟩

theorem witness_TroubleLogCommandsAndReads_4 : ∃ (p : Path) (w : Nat) (ecc : Bool) (s : State),
      8 ≤ w :=
  ⟨.core, 8, false, State.reset, by decide +kernel⟩

theorem witness_TroubleLogCommandsAndReads_5 : ∃ (s : State),
      s.log.frozen = false :=
  ⟨logState { intake := [evA] }, by decide +kernel⟩

theorem witness_HeatPowerAndSeasons_0 : ∃ (l : Nat) (rise fall : List Nat),
      l ≤ 3 :=
  ⟨2, [4, 4, 3, 0], [0, 4, 4], by decide +kernel⟩

theorem witness_HeatPowerAndSeasons_1 : ∃ (temps : List Int) (s s1 : State),
      s.boot.phase ≠ 0 ∧
      s1 = tempDefects (tjMax (tjSample s temps)) :=
  ⟨List.replicate 6 440, hotState, tempDefects (tjMax (tjSample hotState (List.replicate 6 440))), by decide +kernel⟩

theorem witness_HeatPowerAndSeasons_2 : ∃ (temps : List Int) (s : State),
      s.boot.phase = 0 :=
  ⟨[], State.reset, by decide +kernel⟩

theorem witness_HeatPowerAndSeasons_8 : ∃ (d : Nat) (s : State),
      d < 76 ∧
      fitted s (domainDie d) = true :=
  ⟨5, foState, by decide +kernel⟩

theorem witness_HeatPowerAndSeasons_9 : ∃ (d : Nat) (s : State),
      76 ≤ d :=
  ⟨76, State.reset, by decide +kernel⟩

end Sys2Proof.Tests
end

