-- ==== Sys2Proof/Tests/Cases.lean ====
section
/-! SUPPORT. Every case of a statement's clause is met: a concrete state and operands for each implication inside a clause. -/
namespace Sys2Proof.Tests
open Sys2Proof Sys2Proof.Machine
set_option Elab.async false
set_option linter.unusedVariables false

theorem case_IdleStepTicks_0_0 : ∃ (s : State),
      s.pending = [] ∧
      s.tb.rate = 0 ∧
      s.tb.slew = 0 ∧
      s.tb.frac = 0 :=
  ⟨State.reset, by decide +kernel⟩

theorem case_SyncMovesTimebase_0_0 : ∃ (port : Nat) (domain : Nat) (off : Int) (li : Int) (s : State),
      port < 2 ∧
      rf s 0x00040000 1 0 = 1 ∧
      rb s 0x00050000 5 = true ∧
      domain = rf s 0x00050000 14 8 ∧
      s.net.slave = some port ∧
      -7 ≤ li ∧
      li ≤ 1 ∧
      s.tb.stepPending = none :=
  ⟨0, 0, 100, 0, { State.reset with regs := [(0x00040000, 1), (0x00050000, 0x20)], net := { slave := some 0 } }, by decide +kernel⟩

theorem case_SyncMovesTimebase_3_0 : ∃ (highNs : Nat) (err : Int) (s : State) (a : Int) (b : Int),
      rf s 0x00040000 1 0 = 2 ∧
      2000 ≤ highNs ∧
      (s.tb.state = .syncLocked ∨ s.tb.state = .syncLost) ∧
      50000 < err.natAbs ∧
      s.tb.outside = [a, b] ∧
      (a - err).natAbs * 1000 ≤ periodNs s ∧
      (b - err).natAbs * 1000 ≤ periodNs s :=
  ⟨2000, 50001, { State.reset with regs := [(0x00040000, 2)], tb := { state := .syncLocked, outside := [50001, 50001] } }, 50001, 50001, by decide +kernel⟩

theorem case_LedgerLineRules_1_0 : ∃ (l : LedgerLine) (v : BitVec 512),
      l.dx = true :=
  ⟨{ dx := true }, 0, by decide +kernel⟩

theorem case_LedgerLineRules_1_1 : ∃ (l : LedgerLine) (v : BitVec 512),
      l.dx = false :=
  ⟨default, default, by decide +kernel⟩

theorem case_LedgerLineRules_2_0 : ∃ (l : LedgerLine) (k : Nat),
      k < 64 ∧
      l.dl = false :=
  ⟨{}, 63, by decide +kernel⟩

theorem case_LedgerLineRules_2_1 : ∃ (l : LedgerLine) (k : Nat),
      k < 64 ∧
      l.dl = true ∧
      l.dp = false :=
  ⟨{ dl := true }, 63, by decide +kernel⟩

theorem case_LedgerLineRules_2_2 : ∃ (l : LedgerLine) (k : Nat),
      k < 64 ∧
      l.dl = true ∧
      l.dp = true :=
  ⟨{ dl := true, dp := true }, 63, by decide +kernel⟩

theorem case_ResetsOfThePart_3_0 : ∃ (s : State) (a : Nat) (b : Nat),
      rb s 0x00010030 16 = true ∧
      10 ≤ s.boot.phase ∧
      s.boot.phase < 30 ∧
      s.power.halted = false ∧
      s.power.season ≠ .thermalStop ∧
      s.boot.wdtResets = [a, b] ∧
      s.now < a + 600000000000 ∧
      s.now < b + 600000000000 :=
  ⟨{ State.reset with boot := { phase := 17, wdtResets := [0, 0] }, regs := [(0x00010030, 0x10000)] }, 0, 0, by decide +kernel⟩

theorem case_ResetsOfThePart_3_1 : ∃ (s : State) (a : Nat) (b : Nat),
      rb s 0x00010030 16 = true ∧
      10 ≤ s.boot.phase ∧
      s.boot.phase < 30 ∧
      s.power.halted = false ∧
      s.power.season ≠ .thermalStop ∧
      s.boot.wdtResets = [a, b] ∧
      a + 600000000000 ≤ s.now :=
  ⟨{ ({ State.reset with boot := { phase := 17, wdtResets := [0, 0] }, regs := [(0x00010030, 0x10000)] }) with now := 1000000000000 }, 0, 0, by decide +kernel⟩

theorem case_HoldAndResetOfADie_0_0 : ∃ (d : Die) (s : State) (a : Nat),
      d ≠ .svc ∧
      fitted s d = true ∧
      held s d = false ∧
      (dieMem d).1 ≤ a ∧
      a < (dieMem d).2 :=
  ⟨.cd3, { State.reset with regs := [(0x0001001C, 0)] }, (dieMem .cd3).1, by decide +kernel⟩

theorem case_HoldAndResetOfADie_0_1 : ∃ (d : Die) (s : State) (cd : Nat),
      d ≠ .svc ∧
      fitted s d = true ∧
      held s d = false ∧
      d.cdIdx = some cd :=
  ⟨.cd3, { State.reset with regs := [(0x0001001C, 0)] }, 3, by decide +kernel⟩

theorem case_HoldAndResetOfADie_1_0 : ∃ (cd : Nat) (site : Nat) (m : Bool) (g : Bool) (s : State),
      cdOk s cd = true ∧
      held s (Die.ofCd cd) = true ∧
      levelPermits s (Die.ofCd cd) = true ∧
      siteBad site m = false :=
  ⟨3, 3, false, true, { State.reset with regs := [(0x0001001C, 0x80)] }, by decide +kernel⟩

theorem case_HoldAndResetOfADie_2_0 : ∃ (cd : Nat) (site : Nat) (m : Bool) (s : State),
      cdOk s cd = true ∧
      dieOpen s (Die.ofCd cd) = true ∧
      siteBad site m = false :=
  ⟨3, 3, false, { State.reset with dies := Vector.replicate 6 { state := 5 } }, by decide +kernel⟩

theorem case_OtpOperations_1_0 : ∃ (cmd : Word) (a : OtpAnalog) (s : State) (r : _),
      wbits cmd 31 16 = 0x0C7B ∧
      lcState s ≠ 5 ∧
      rowBarred s (wbits cmd 12 4) = false ∧
      (programStates (wbits cmd 12 4)).contains (lcState s) = true ∧
      s.otp.wl.getLsbD (regionOf (wbits cmd 12 4)) = false ∧
      condStop a = 0 ∧
      a.stopAfter = none ∧
      a.failing = 0 ∧
      a.stillWeak = 0 ∧
      r < 512 ∧
      r ≠ wbits cmd 12 4 :=
  ⟨0x0C7B1F11, goodOtp, { State.reset with otp := { mirror := [(0x11, 1)] }, regs := [(0x0002000C, 6)] }, default, by decide +kernel⟩

theorem case_OtpOperations_10_0 : ∃ (s : State) (i : _),
      debugDisabled s = true ∧
      s.otp.debugEffective = false ∧
      i < 2 ∧
      rf s (streamCfg i) 11 8 = 0 ∧
      rb s (streamCfg i) 0 = true :=
  ⟨{ State.reset with otp := { mirror := [(0x15, 1)] }, regs := [(0x01010080, 1)] }, default, by decide +kernel⟩

theorem case_ParcelsOnALink_2_0 : ∃ (p : PortId) (v : Nat) (x : Parcel) (rest : List Parcel) (s : State),
      p.valid = true ∧
      p.die ≠ .eye ∧
      (s.port p).pstate = .up ∧
      (s.port p).replayQ = [] ∧
      feedMerge (feedOutbox s p) p = s ∧
      nextVc (s.port p) = some v ∧
      vget (s.port p).txq v = x :: rest ∧
      vcReady (s.port p) 0 = true :=
  ⟨⟨.cd2, 3⟩, 0, readyP, [], sendState, by decide +kernel⟩

theorem case_ParcelsOnALink_2_1 : ∃ (p : PortId) (v : Nat) (x : Parcel) (rest : List Parcel) (s : State),
      p.valid = true ∧
      p.die ≠ .eye ∧
      (s.port p).pstate = .up ∧
      (s.port p).replayQ = [] ∧
      feedMerge (feedOutbox s p) p = s ∧
      nextVc (s.port p) = some v ∧
      vget (s.port p).txq v = x :: rest ∧
      vcReady (s.port p) 0 = false ∧
      vcReady (s.port p) 5 = true ∧
      63 ≤ (s.port p).vc5Wait :=
  ⟨⟨.cd2, 3⟩, 5, readyP, [], { launchState with ports := Vector.replicate 23 { pstate := .up, phy := .up, txq := #v[[], [], [], [], [], [readyP]], ag := { credit := [0, 0, 0, 0, 0, 16] }, vc5Wait := 63 } }, by decide +kernel⟩

theorem case_ParcelsOnALink_2_2 : ∃ (p : PortId) (v : Nat) (x : Parcel) (rest : List Parcel) (s : State),
      p.valid = true ∧
      p.die ≠ .eye ∧
      (s.port p).pstate = .up ∧
      (s.port p).replayQ = [] ∧
      feedMerge (feedOutbox s p) p = s ∧
      nextVc (s.port p) = some v ∧
      vget (s.port p).txq v = x :: rest ∧
      vcReady (s.port p) 0 = false ∧
      (s.port p).vc5Wait < 63 ∧
      vcReady (s.port p) 3 = true :=
  ⟨⟨.cd2, 3⟩, 3, readyP, [], { launchState with ports := Vector.replicate 23 { pstate := .up, phy := .up, txq := #v[[], [], [], [readyP], [], []], ag := { credit := [0, 0, 0, 16, 0, 0] } } }, by decide +kernel⟩

theorem case_ParcelsOnALink_6_0 : ∃ (p : PortId) (s : State),
      portOk s p = true ∧
      (s.port p).pstate = .up ∧
      (s.port p).replayBuf ≠ [] :=
  ⟨⟨.svc, 1⟩, sbState, by decide +kernel⟩

theorem case_NegotiationAndIsolation_3_0 : ∃ (p : PortId) (s : State),
      portOk s p = true ∧
      (s.port p).pstate = .negotiating ∧
      (s.port p).negStep = 3 ∧
      (s.port p).soakFails ≤ 1 :=
  ⟨⟨.svc, 1⟩, (modPort ({ State.reset with ports := Vector.replicate 23 { pstate := .negotiating, negStep := 3, soakFails := 2, soakFailed := 1 } }) (⟨.svc, 1⟩) fun e => { (e) with soakFails := 1 }), by decide +kernel⟩

theorem case_NegotiationAndIsolation_3_1 : ∃ (p : PortId) (s : State),
      portOk s p = true ∧
      (s.port p).pstate = .negotiating ∧
      (s.port p).negStep = 3 ∧
      1 < (s.port p).soakFails ∧
      1 ≤ (s.port p).soakFailed :=
  ⟨⟨.svc, 1⟩, { State.reset with ports := Vector.replicate 23 { pstate := .negotiating, negStep := 3, soakFails := 2, soakFailed := 1 } }, by decide +kernel⟩

theorem case_NegotiationAndIsolation_5_0 : ∃ (p : PortId) (s : State),
      portOk s p = true ∧
      (s.port p).pstate = .negotiating ∧
      ((s.port p).negStep = 1 ∨ (s.port p).negStep = 4) :=
  ⟨⟨.svc, 1⟩, { State.reset with ports := Vector.replicate 23 { pstate := .negotiating, negStep := 4 } }, by decide +kernel⟩

theorem case_NegotiationAndIsolation_5_1 : ∃ (p : PortId) (s : State),
      portOk s p = true ∧
      (s.port p).pstate = .negotiating ∧
      (s.port p).negStep = 2 :=
  ⟨⟨.svc, 1⟩, (modPort ({ State.reset with ports := Vector.replicate 23 { pstate := .negotiating, negStep := 4 } }) (⟨.svc, 1⟩) fun e => { (e) with negStep := 2 }), by decide +kernel⟩

theorem case_NegotiationAndIsolation_5_2 : ∃ (p : PortId) (s : State),
      portOk s p = true ∧
      (s.port p).pstate = .negotiating ∧
      (s.port p).negStep = 1 :=
  ⟨⟨.svc, 1⟩, (modPort ({ State.reset with ports := Vector.replicate 23 { pstate := .negotiating, negStep := 4 } }) (⟨.svc, 1⟩) fun e => { (e) with negStep := 1 }), by decide +kernel⟩

theorem case_NegotiationAndIsolation_5_3 : ∃ (p : PortId) (s : State),
      portOk s p = true ∧
      (s.port p).pstate = .negotiating ∧
      (s.port p).negStep = 2 :=
  ⟨⟨.svc, 1⟩, (modPort ({ State.reset with ports := Vector.replicate 23 { pstate := .negotiating, negStep := 4 } }) (⟨.svc, 1⟩) fun e => { (e) with negStep := 2 }), by decide +kernel⟩

theorem case_NegotiationAndIsolation_5_4 : ∃ (p : PortId) (s : State),
      portOk s p = true ∧
      (s.port p).pstate = .negotiating ∧
      (s.port p).negStep = 4 :=
  ⟨⟨.svc, 1⟩, { State.reset with ports := Vector.replicate 23 { pstate := .negotiating, negStep := 4 } }, by decide +kernel⟩

theorem case_NegotiationAndIsolation_6_0 : ∃ (p : PortId) (s : State),
      portOk s p = true ∧
      dieOpen s p.die = true ∧
      ((s.port p).pstate = .isolated ∨ (s.port p).pstate = .dead ∨ (s.port p).pstate = .absent ∨ (s.port p).pstate = .down) :=
  ⟨⟨.svc, 1⟩, (modPort (sbState) (⟨.svc, 1⟩) fun e => { (e) with pstate := .isolated }), by decide +kernel⟩

theorem case_NegotiationAndIsolation_6_1 : ∃ (p : PortId) (s : State),
      portOk s p = true ∧
      dieOpen s p.die = true ∧
      (s.port p).pstate = .up :=
  ⟨⟨.svc, 1⟩, sbState, by decide +kernel⟩

theorem case_MaintenanceAndReads_8_0 : ∃ (cd : Nat) (lines : Nat) (src : Word) (dst : Word) (nc : Bool) (s : State),
      cdOk s cd = true ∧
      (windowOf s (src.toNat / 64 * 64) 64).die = none :=
  ⟨2, 1, 0, 0x88000000, false, State.reset, by decide +kernel⟩

theorem case_MaintenanceAndReads_8_1 : ∃ (cd : Nat) (lines : Nat) (src : Word) (dst : Word) (nc : Bool) (s : State),
      cdOk s cd = true ∧
      (windowOf s (src.toNat / 64 * 64) 64).die = some (Die.ofCd cd) :=
  ⟨2, 1, 0x88000000, 0x88001000, false, State.reset, by decide +kernel⟩

theorem case_MasterControlAndScrub_0_0 : ∃ (cd : Nat) (v : Word) (s : State),
      cdOk s cd = true ∧
      dieOpen s (Die.ofCd cd) = true ∧
      (inField s = false ∨ rb s (fabReg cd 0) 2 = false ∨ wbit v 2 = true) ∧
      wbit v 0 = false :=
  ⟨3, 0, { State.reset with dies := Vector.replicate 6 { state := 5 } }, by decide +kernel⟩

theorem case_MasterControlAndScrub_0_1 : ∃ (cd : Nat) (v : Word) (s : State),
      cdOk s cd = true ∧
      dieOpen s (Die.ofCd cd) = true ∧
      (inField s = false ∨ rb s (fabReg cd 0) 2 = false ∨ wbit v 2 = true) ∧
      wbit v 0 = true ∧
      outstanding (s.fab cd) = 0 :=
  ⟨3, 1, { State.reset with dies := Vector.replicate 6 { state := 5 } }, by decide +kernel⟩

theorem case_MasterControlAndScrub_0_2 : ∃ (cd : Nat) (v : Word) (s : State),
      cdOk s cd = true ∧
      dieOpen s (Die.ofCd cd) = true ∧
      (inField s = false ∨ rb s (fabReg cd 0) 2 = false ∨ wbit v 2 = true) ∧
      wbit v 1 = false :=
  ⟨3, 1, { State.reset with dies := Vector.replicate 6 { state := 5 } }, by decide +kernel⟩

theorem case_MasterControlAndScrub_5_0 : ∃ (cd : Nat) (seg : Nat) (chunks : List (List Byte × Bool)) (s : State),
      cdOk s cd = true ∧
      seg < 64 ∧
      (s.seqr.merging = false ∨ (s.fab cd).scrubFail = false ∨ (s.fab cd).scrubFailSeg ≠ seg ∨ (∃ c ∈ chunks, c.2 = false)) :=
  ⟨2, 63, [([7], true)], { (scrubState) with seqr := { (scrubState).seqr with merging := false } }, by decide +kernel⟩

theorem case_MasterControlAndScrub_5_1 : ∃ (cd : Nat) (seg : Nat) (chunks : List (List Byte × Bool)) (s : State),
      cdOk s cd = true ∧
      seg < 64 ∧
      s.seqr.merging = true ∧
      (s.fab cd).scrubFail = true ∧
      (s.fab cd).scrubFailSeg = seg ∧
      ((∀ c ∈ chunks, c.2 = true)) :=
  ⟨2, 63, [([7], true)], scrubState, by decide +kernel⟩

theorem case_SensorCommands_1_0 : ∃ (w : Nat) (ns : Nat) (t : Nat) (cl : Bool),
      singleTime w ns = some (t, cl) ∧
      cl = false :=
  ⟨600000, 20000, 20000, false, by decide +kernel⟩

theorem case_SensorCommands_11_0 : ∃ (x : Nat) (y : Nat) (s : State),
      s.eye.state = .standby ∧
      s.eye.clkLosses = [x, y] ∧
      y ≤ x ∧
      x ≤ s.now ∧
      s.now < y + 1000000000 :=
  ⟨1, 0, { State.reset with now := 1, eye := { state := .standby, clkLosses := [1, 0] } }, by decide +kernel⟩

theorem case_SensorCommands_11_1 : ∃ (x : Nat) (y : Nat) (s : State),
      s.eye.state = .standby ∧
      s.eye.clkLosses = [x, y] ∧
      y ≤ x ∧
      x ≤ s.now ∧
      y + 1000000000 ≤ s.now :=
  ⟨1, 0, { ({ State.reset with now := 1, eye := { state := .standby, clkLosses := [1, 0] } }) with now := 0 + 1000000000 }, by decide +kernel⟩

theorem case_ImagePipelineCommands_0_0 : ∃ (f : SbFrame) (w : BitVec 48) (e : LaunchEntry) (s : State) (s1 : State),
      LaunchReady s f 8 w s1 e ∧
      f.port.die = .eye ∧
      tokUnit w = 1 ∧
      s1.eye.exposed = true ∧
      s1.eye.frameMissing = true :=
  ⟨launchFrame ⟨.eye, 4⟩ 1 8 0, launchToken .eye 1 8 0, entryArg, { eyeState with eye := { exposed := true, frameMissing := true } }, launched { eyeState with eye := { exposed := true, frameMissing := true } } ⟨.eye, 4⟩ 1 8 0, by decide +kernel⟩

theorem case_ImagePipelineCommands_0_1 : ∃ (f : SbFrame) (w : BitVec 48) (e : LaunchEntry) (s : State) (s1 : State),
      LaunchReady s f 8 w s1 e ∧
      f.port.die = .eye ∧
      tokUnit w = 1 ∧
      s1.eye.exposed = true ∧
      s1.eye.frameMissing = false :=
  ⟨launchFrame ⟨.eye, 4⟩ 1 8 0, launchToken .eye 1 8 0, entryArg, { eyeState with eye := { exposed := true } }, launched { eyeState with eye := { exposed := true } } ⟨.eye, 4⟩ 1 8 0, by decide +kernel⟩

theorem case_ImagePipelineCommands_2_0 : ∃ (len : Nat) (index : Nat) (fe : Bool) (le : Bool) (te : Bool) (s : State),
      s.eye.exposed = true ∧
      s.eye.frameMissing = false ∧
      (s.isp.state = .armed ∨ s.isp.state = .running) ∧
      len ≠ 4112 :=
  ⟨4113, 0, false, false, false, { State.reset with eye := { exposed := true, rows := 1 }, isp := { state := .armed } }, by decide +kernel⟩

theorem case_ImagePipelineCommands_2_1 : ∃ (len : Nat) (index : Nat) (fe : Bool) (le : Bool) (te : Bool) (s : State),
      s.eye.exposed = true ∧
      s.eye.frameMissing = false ∧
      (s.isp.state = .armed ∨ s.isp.state = .running) ∧
      len = 4112 ∧
      fe = true ∧
      index < 3079 :=
  ⟨4112, 0, true, true, true, { State.reset with eye := { exposed := true, rows := 1 }, isp := { state := .armed } }, by decide +kernel⟩

theorem case_ImagePipelineCommands_2_2 : ∃ (len : Nat) (index : Nat) (fe : Bool) (le : Bool) (te : Bool) (s : State),
      s.eye.exposed = true ∧
      s.eye.frameMissing = false ∧
      (s.isp.state = .armed ∨ s.isp.state = .running) ∧
      len = 4112 ∧
      fe = false ∧
      index ≠ s.isp.next :=
  ⟨4112, 1, false, false, false, { State.reset with eye := { exposed := true, rows := 1 }, isp := { state := .armed } }, by decide +kernel⟩

theorem case_ImagePipelineCommands_2_3 : ∃ (len : Nat) (index : Nat) (fe : Bool) (le : Bool) (te : Bool) (s : State),
      s.eye.exposed = true ∧
      s.eye.frameMissing = false ∧
      (s.isp.state = .armed ∨ s.isp.state = .running) ∧
      len = 4112 ∧
      fe = false ∧
      index = s.isp.next ∧
      index ≤ 3079 ∧
      le = true :=
  ⟨4112, 0, false, true, false, { State.reset with eye := { exposed := true, rows := 1 }, isp := { state := .armed } }, by decide +kernel⟩

theorem case_ImagePipelineCommands_2_4 : ∃ (len : Nat) (index : Nat) (fe : Bool) (le : Bool) (te : Bool) (s : State),
      s.eye.exposed = true ∧
      s.eye.frameMissing = false ∧
      (s.isp.state = .armed ∨ s.isp.state = .running) ∧
      len = 4112 ∧
      fe = false ∧
      index = s.isp.next ∧
      index ≤ 3079 ∧
      le = false ∧
      te = false ∧
      index < s.eye.rows :=
  ⟨4112, 0, false, false, false, { State.reset with eye := { exposed := true, rows := 1 }, isp := { state := .armed } }, by decide +kernel⟩

theorem case_GroupsAndStreams_5_0 : ∃ (cd : Nat) (k : Nat) (jobs : List LayerJob) (wide : List LayerJob) (hv : HvInput) (g : GroupDesc) (b : Launched) (s : State),
      cdOk s cd = true ∧
      k < 4 ∧
      groupOf s cd (s.cl cd k).group = some g ∧
      (unitOf s (Die.ofCd cd) k).busy = some b ∧
      b.act ≠ 0x12 ∧
      g.clusters = 2 ^ k ∧
      clusterBusy (s.cl cd k) = true ∧
      hvProgOf s cd g.index = none ∧
      bandIn s cd g (s.cl cd k).band = false :=
  ⟨2, 1, [], [], default, groupD, ⟨0x10, 0, 0, 0, 0, false⟩, busyState, by decide +kernel⟩

theorem case_GroupsAndStreams_5_1 : ∃ (cd : Nat) (k : Nat) (jobs : List LayerJob) (wide : List LayerJob) (hv : HvInput) (g : GroupDesc) (b : Launched) (s : State),
      cdOk s cd = true ∧
      k < 4 ∧
      groupOf s cd (s.cl cd k).group = some g ∧
      (unitOf s (Die.ofCd cd) k).busy = some b ∧
      b.act ≠ 0x12 ∧
      g.clusters = 2 ^ k ∧
      clusterBusy (s.cl cd k) = true ∧
      hvProgOf s cd g.index = none ∧
      bandIn s cd g (s.cl cd k).band = true ∧
      haloNeed s cd g (layerAt s cd k (jobs.headD default)) (s.cl cd k).band = .ready :=
  ⟨2, 1, [], [], default, groupD, ⟨0x10, 0, 0, 0, 0, false⟩, { busyState with comp := Vector.replicate 4 { clusters := Vector.replicate 4 { state := .running }, inputs := [⟨0, 0, 64, true⟩] } }, by decide +kernel⟩

theorem case_GroupsAndStreams_8_0 : ∃ (r : LinkRx) (x : Parcel) (cd : Nat) (s : State) (s1 : State),
      portOk s r.port = true ∧
      linkReceive s r = (some x, s1) ∧
      x.vc = 0 ∧
      x.kind = 8 ∧
      x.arg = 4 ∧
      r.port.die = Die.ofCd cd ∧
      cd < 4 ∧
      (s1.die (Die.ofCd cd)).doneSent = true :=
  ⟨recv ⟨.cd2, 3⟩ abortP, abortP, 2, { busyState with dies := Vector.replicate 6 { state := 5, doneSent := true } }, (linkReceive { busyState with dies := Vector.replicate 6 { state := 5, doneSent := true } } (recv ⟨.cd2, 3⟩ abortP)).2, by decide +kernel⟩

theorem case_GroupsAndStreams_8_1 : ∃ (r : LinkRx) (x : Parcel) (cd : Nat) (s : State) (s1 : State),
      portOk s r.port = true ∧
      linkReceive s r = (some x, s1) ∧
      x.vc = 0 ∧
      x.kind = 8 ∧
      x.arg = 4 ∧
      r.port.die = Die.ofCd cd ∧
      cd < 4 ∧
      (s1.die (Die.ofCd cd)).doneSent = false :=
  ⟨recv ⟨.cd2, 3⟩ abortP, abortP, 2, busyState, (linkReceive busyState (recv ⟨.cd2, 3⟩ abortP)).2, by decide +kernel⟩

theorem case_HalosAndTheirCommit_2_0 : ∃ (f : SbFrame) (w : BitVec 48) (cd : Nat) (v : HaloVer) (s : State) (s1 : State),
      portOk s f.port = true ∧
      takeToken s f = (some w, s1) ∧
      tokType w = 3 ∧
      f.port.die.cdIdx = some cd ∧
      tokEp w = (s1.die f.port.die).ep % 8 ∧
      (s1.cdie cd).halos = [v] ∧
      v.src = tokSrc w ∧
      v.tag = tokUnit w ∧
      v.version = tokAct w ∧
      v.committed = false ∧
      v.revoked = false ∧
      v.last = false :=
  ⟨frameOf ⟨.cd2, 3⟩ commitW, commitW, 2, { haloV with last := false }, { haloState with comp := Vector.replicate 4 { halos := [{ haloV with last := false }] } }, (takeToken { haloState with comp := Vector.replicate 4 { halos := [{ haloV with last := false }] } } (frameOf ⟨.cd2, 3⟩ commitW)).2, by decide +kernel⟩

theorem case_CompressionError_0_0 : ∃ (n : Nat) (bs : List Byte) (i : _),
      (n = 3 ∨ n = 4) ∧
      bs.length = 32 ∧
      i < 32 :=
  ⟨3, List.replicate 32 7, default, by decide +kernel⟩

theorem case_CompressionError_0_1 : ∃ (n : Nat) (bs : List Byte),
      (n = 3 ∨ n = 4) ∧
      bs.length = 32 ∧
      leAt (compBlock false n bs).1 1 1 % 16 = 0 :=
  ⟨3, List.replicate 32 7, by decide +kernel⟩

theorem case_ClusterFaults_4_0 : ∃ (cd : Nat) (k : Nat) (s : State),
      cdOk s cd = true ∧
      k < 4 ∧
      minRate s.power.vcoreSet ≤ (s.cl cd k).speed :=
  ⟨2, 1, (modCl (State.reset) 2 1 fun e => { (e) with speed := 1000000000000 }), by decide +kernel⟩

theorem case_ClusterFaults_4_1 : ∃ (cd : Nat) (k : Nat) (s : State),
      cdOk s cd = true ∧
      k < 4 ∧
      (s.cl cd k).speed < minRate s.power.vcoreSet :=
  ⟨2, 1, State.reset, by decide +kernel⟩

theorem case_ClusterFaults_6_0 : ∃ (cd : Nat) (k : Nat) (a : Word) (s : State),
      cdOk s cd = true ∧
      k < 4 ∧
      clusterBusy (s.cl cd k) = true :=
  ⟨2, 1, 0x88000007, busyState, by decide +kernel⟩

theorem case_ClusterFaults_6_1 : ∃ (cd : Nat) (k : Nat) (a : Word) (s : State),
      cdOk s cd = true ∧
      k < 4 ∧
      clusterBusy (s.cl cd k) = false :=
  ⟨2, 1, 0x88000007, echoState, by decide +kernel⟩

theorem case_DetectionAndTracking_3_0 : ∃ (cd : Nat) (g : GroupDesc) (s : State),
      cdOk s cd = true ∧
      groupOf s cd (s.detUnit cd).desc = some g ∧
      ((s.detUnit cd).state ≠ .waitHead ∨ headBusy s cd = true) :=
  ⟨2, groupD, (modDet (waitHeadState) 2 fun e => { (e) with state := .idle }), by decide +kernel⟩

theorem case_DetectionAndTracking_3_1 : ∃ (cd : Nat) (g : GroupDesc) (s : State),
      cdOk s cd = true ∧
      groupOf s cd (s.detUnit cd).desc = some g ∧
      (s.detUnit cd).state = .waitHead ∧
      headBusy s cd = false ∧
      readHead (fun off n => memNat s (sramBase cd (lowestOf g) + off) n) g.prog = none :=
  ⟨2, groupD, waitHeadState, by decide +kernel⟩

theorem case_DetectionAndTracking_5_0 : ∃ (cd : Nat) (g : GroupDesc) (s : State),
      cdOk s cd = true ∧
      groupOf s cd (s.detUnit cd).desc = some g ∧
      ((s.detUnit cd).state = .off ∨ (s.detUnit cd).state = .idle) :=
  ⟨2, groupD, (modDet (waitHeadState) 2 fun e => { (e) with state := .off }), by decide +kernel⟩

theorem case_DetectionAndTracking_5_1 : ∃ (cd : Nat) (g : GroupDesc) (s : State),
      cdOk s cd = true ∧
      groupOf s cd (s.detUnit cd).desc = some g ∧
      (s.detUnit cd).state ≠ .off ∧
      (s.detUnit cd).state ≠ .idle :=
  ⟨2, groupD, waitHeadState, by decide +kernel⟩

theorem case_DetectionAndTracking_6_0 : ∃ (f : SbFrame) (w : BitVec 48) (e : LaunchEntry) (g : GroupDesc) (cd : Nat) (k : Nat) (s : State) (s1 : State) (u : State),
      LaunchReady s f 0x12 w s1 e ∧
      f.port.die = Die.ofCd cd ∧
      cd < 4 ∧
      tokUnit w = k ∧
      k < 4 ∧
      clusterUsable (s1.cl cd k) = true ∧
      groupOf s1 cd e.arg.toNat = some g ∧
      (s1.cdie cd).aborted = false ∧
      u = beginEntry (running s1 (Die.ofCd cd) k (launchedBy s1 w e)) cd k g.index g.bandFirst (launchedBy s1 w e) ∧
      (s1.detUnit cd).state ≠ .idle ∧
      (s1.detUnit cd).state ≠ .off :=
  ⟨launchFrame ⟨.cd2, 3⟩ 1 0x12 0, launchToken .cd2 1 0x12 0, entry0, groupD, 2, 1, { groupState with det := Vector.replicate 4 { state := .waitHead } }, launched { groupState with det := Vector.replicate 4 { state := .waitHead } } ⟨.cd2, 3⟩ 1 0x12 0, beginEntry (running (launched { groupState with det := Vector.replicate 4 { state := .waitHead } } ⟨.cd2, 3⟩ 1 0x12 0) (Die.ofCd 2) 1 (launchedBy (launched { groupState with det := Vector.replicate 4 { state := .waitHead } } ⟨.cd2, 3⟩ 1 0x12 0) (launchToken .cd2 1 0x12 0) entry0)) 2 1 0 0 (launchedBy (launched { groupState with det := Vector.replicate 4 { state := .waitHead } } ⟨.cd2, 3⟩ 1 0x12 0) (launchToken .cd2 1 0x12 0) entry0), by decide +kernel⟩

theorem case_DetectionAndTracking_6_1 : ∃ (f : SbFrame) (w : BitVec 48) (e : LaunchEntry) (g : GroupDesc) (cd : Nat) (k : Nat) (s : State) (s1 : State) (u : State),
      LaunchReady s f 0x12 w s1 e ∧
      f.port.die = Die.ofCd cd ∧
      cd < 4 ∧
      tokUnit w = k ∧
      k < 4 ∧
      clusterUsable (s1.cl cd k) = true ∧
      groupOf s1 cd e.arg.toNat = some g ∧
      (s1.cdie cd).aborted = false ∧
      u = beginEntry (running s1 (Die.ofCd cd) k (launchedBy s1 w e)) cd k g.index g.bandFirst (launchedBy s1 w e) ∧
      (s1.detUnit cd).state = .idle ∧
      (readTracker (fun off n => memNat s1 (sramBase cd k + off) n) g.inbuf).ok = false :=
  ⟨launchFrame ⟨.cd2, 3⟩ 1 0x12 0, launchToken .cd2 1 0x12 0, entry0, groupD, 2, 1, { groupState with det := Vector.replicate 4 { state := .idle } }, launched { groupState with det := Vector.replicate 4 { state := .idle } } ⟨.cd2, 3⟩ 1 0x12 0, beginEntry (running (launched { groupState with det := Vector.replicate 4 { state := .idle } } ⟨.cd2, 3⟩ 1 0x12 0) (Die.ofCd 2) 1 (launchedBy (launched { groupState with det := Vector.replicate 4 { state := .idle } } ⟨.cd2, 3⟩ 1 0x12 0) (launchToken .cd2 1 0x12 0) entry0)) 2 1 0 0 (launchedBy (launched { groupState with det := Vector.replicate 4 { state := .idle } } ⟨.cd2, 3⟩ 1 0x12 0) (launchToken .cd2 1 0x12 0) entry0), by decide +kernel⟩

theorem case_DetectionAndTracking_6_2 : ∃ (f : SbFrame) (w : BitVec 48) (e : LaunchEntry) (g : GroupDesc) (cd : Nat) (k : Nat) (s : State) (s1 : State) (u : State),
      LaunchReady s f 0x12 w s1 e ∧
      f.port.die = Die.ofCd cd ∧
      cd < 4 ∧
      tokUnit w = k ∧
      k < 4 ∧
      clusterUsable (s1.cl cd k) = true ∧
      groupOf s1 cd e.arg.toNat = some g ∧
      (s1.cdie cd).aborted = false ∧
      u = beginEntry (running s1 (Die.ofCd cd) k (launchedBy s1 w e)) cd k g.index g.bandFirst (launchedBy s1 w e) ∧
      (s1.detUnit cd).state = .idle ∧
      (readTracker (fun off n => memNat s1 (sramBase cd k + off) n) g.inbuf).ok = true :=
  ⟨launchFrame ⟨.cd2, 3⟩ 1 0x12 0, launchToken .cd2 1 0x12 0, entry0, groupD, 2, 1, trackState, launched trackState ⟨.cd2, 3⟩ 1 0x12 0, beginEntry (running (launched trackState ⟨.cd2, 3⟩ 1 0x12 0) (Die.ofCd 2) 1 (launchedBy (launched trackState ⟨.cd2, 3⟩ 1 0x12 0) (launchToken .cd2 1 0x12 0) entry0)) 2 1 0 0 (launchedBy (launched trackState ⟨.cd2, 3⟩ 1 0x12 0) (launchToken .cd2 1 0x12 0) entry0), by decide +kernel⟩

theorem case_SuppressionOfCandidates_0_0 : ∃ (h : HeadBlock) (cs : List Cand) (c : Cand),
      h.keepMax ≤ (suppress h cs).1.length :=
  ⟨⟨0, false, false, false, 0, 0, 0, 0, 0, 0, []⟩, [], default, by decide +kernel⟩

theorem case_SuppressionOfCandidates_0_1 : ∃ (h : HeadBlock) (cs : List Cand) (c : Cand),
      (suppress h cs).1.length < h.keepMax ∧
      ((∃ k ∈ (suppress h cs).1, (h.agnostic = true ∨ k.cls = c.cls) ∧ h.iouT * unionArea k c < 256 * interArea k c)) :=
  ⟨⟨0, false, false, false, 0, 0, 0, 128, 5, 5, []⟩, [⟨0, 0, 8, 8, 9, 1, 0, 0, 0⟩], ⟨0, 0, 8, 8, 9, 1, 0, 0, 0⟩, by decide +kernel⟩

theorem case_SuppressionOfCandidates_0_2 : ∃ (h : HeadBlock) (cs : List Cand) (c : Cand),
      (suppress h cs).1.length < h.keepMax ∧
      ((∀ k ∈ (suppress h cs).1, (h.agnostic = true ∨ k.cls = c.cls) → 256 * interArea k c ≤ h.iouT * unionArea k c)) :=
  ⟨⟨0, false, false, false, 0, 0, 0, 128, 5, 5, []⟩, [⟨0, 0, 8, 8, 9, 1, 0, 0, 0⟩], ⟨8, 8, 16, 16, 9, 1, 0, 0, 0⟩, by decide +kernel⟩

theorem case_TrackMatchingAndIds_1_0 : ∃ (ts : List Track) (n : Nat),
      ts.length ≤ 255 ∧
      n < 4294967296 ∧
      n ≠ 0 ∧
      ((∀ t ∈ ts, t.id ≠ n)) :=
  ⟨[{ id := 1 }], 2, by decide +kernel⟩

theorem case_TrackMatchingAndIds_2_0 : ∃ (cs : List Cand) (a : Cand) (b : Cand),
      a.score = b.score ∧
      [a, b].Sublist cs :=
  ⟨[⟨0, 0, 8, 8, 9, 1, 0, 0, 0⟩, ⟨8, 8, 16, 16, 9, 1, 0, 0, 0⟩], ⟨0, 0, 8, 8, 9, 1, 0, 0, 0⟩, ⟨8, 8, 16, 16, 9, 1, 0, 0, 0⟩, by decide +kernel⟩

theorem case_CropsAndTheirResults_1_0 : ∃ (r : LinkRx) (x : Parcel) (s : State) (s1 : State),
      portOk s r.port = true ∧
      linkReceive s r = (some x, s1) ∧
      x.vc = 1 ∧
      x.kind = 0 ∧
      x.tag = 0xF0 ∧
      r.port.die = .eye ∧
      (cropReqOf x).masked = true :=
  ⟨recv ⟨.eye, 3⟩ { cropP with payload := [0, 1, 0, 0, 0, 0, 16, 0, 16, 0, 0, 0, 0, 0, 0, 0] }, { cropP with payload := [0, 1, 0, 0, 0, 0, 16, 0, 16, 0, 0, 0, 0, 0, 0, 0] }, cropState, (linkReceive cropState (recv ⟨.eye, 3⟩ { cropP with payload := [0, 1, 0, 0, 0, 0, 16, 0, 16, 0, 0, 0, 0, 0, 0, 0] })).2, by decide +kernel⟩

theorem case_CropsAndTheirResults_1_1 : ∃ (r : LinkRx) (x : Parcel) (s : State) (s1 : State) (c : Nat),
      portOk s r.port = true ∧
      linkReceive s r = (some x, s1) ∧
      x.vc = 1 ∧
      x.kind = 0 ∧
      x.tag = 0xF0 ∧
      r.port.die = .eye ∧
      (cropReqOf x).masked = false ∧
      cropRefusal s1 (cropReqOf x) = some c :=
  ⟨recv ⟨.eye, 3⟩ cropP, cropP, { cropState with guard := {} }, (linkReceive { cropState with guard := {} } (recv ⟨.eye, 3⟩ cropP)).2, 2, by decide +kernel⟩

theorem case_CropsAndTheirResults_1_2 : ∃ (r : LinkRx) (x : Parcel) (s : State) (s1 : State),
      portOk s r.port = true ∧
      linkReceive s r = (some x, s1) ∧
      x.vc = 1 ∧
      x.kind = 0 ∧
      x.tag = 0xF0 ∧
      r.port.die = .eye ∧
      (cropReqOf x).masked = false ∧
      cropRefusal s1 (cropReqOf x) = none :=
  ⟨recv ⟨.eye, 3⟩ cropP, cropP, cropState, (linkReceive cropState (recv ⟨.eye, 3⟩ cropP)).2, by decide +kernel⟩

theorem case_CropsAndTheirResults_2_0 : ∃ (q : CropReq) (s : State),
      s.guard.selftestFail = false ∧
      cropRefusal s q = none :=
  ⟨{ (default : CropReq) with index := 2, w := 16, h := 16 }, cropState, by decide +kernel⟩

theorem case_CropsAndTheirResults_4_0 : ∃ (s : State),
      s.guard.windowOpen = false :=
  ⟨{ (cropState) with guard := { (cropState).guard with windowOpen := false } }, by decide +kernel⟩

theorem case_CropsAndTheirResults_4_1 : ∃ (s : State),
      s.guard.windowOpen = true :=
  ⟨cropState, by decide +kernel⟩

theorem case_CropsAndTheirResults_4_2 : ∃ (s : State),
      s.guard.windowOpen = true ∧
      s.guard.waiting ≠ [] :=
  ⟨{ (cropState) with guard := { (cropState).guard with waiting := [default] } }, by decide +kernel⟩

theorem case_CropsAndTheirResults_5_0 : ∃ (q : CropReq) (s : State),
      s.guard.accepted = [] :=
  ⟨default, { (cropState) with guard := { (cropState).guard with accepted := [] } }, by decide +kernel⟩

theorem case_CropsAndTheirResults_5_1 : ∃ (q : CropReq) (s : State),
      s.guard.accepted = [q] :=
  ⟨default, { (cropState) with guard := { (cropState).guard with accepted := [default] } }, by decide +kernel⟩

theorem case_CropsAndTheirResults_7_0 : ∃ (r : LinkRx) (x : Parcel) (s : State) (s1 : State),
      portOk s r.port = true ∧
      linkReceive s r = (some x, s1) ∧
      x.vc = 0 ∧
      x.kind = 8 ∧
      x.arg = 5 :=
  ⟨recv ⟨.cd2, 3⟩ { doneP 5 with src := 1, dst := 6 }, { doneP 5 with src := 1, dst := 6 }, upState, (linkReceive upState (recv ⟨.cd2, 3⟩ { doneP 5 with src := 1, dst := 6 })).2, by decide +kernel⟩

theorem case_CropsAndTheirResults_7_1 : ∃ (r : LinkRx) (x : Parcel) (s : State) (s1 : State),
      portOk s r.port = true ∧
      linkReceive s r = (some x, s1) ∧
      x.vc = 0 ∧
      x.kind = 8 ∧
      x.arg = 6 ∧
      r.port.die = .svc :=
  ⟨recv ⟨.svc, 0⟩ (doneP 6), doneP 6, upState, (linkReceive upState (recv ⟨.svc, 0⟩ (doneP 6))).2, by decide +kernel⟩

theorem case_EgressGuard_0_0 : ∃ (s : State) (p : Nat) (x : Parcel),
      (guardCheck s p x).1 = true ∧
      x.cls = 2 :=
  ⟨upState, 0, { readyP with src := 1, dst := 4, cls := 2, vc := 1, kind := 0 }, by decide +kernel⟩

theorem case_EgressGuard_0_1 : ∃ (s : State) (p : Nat) (x : Parcel),
      (guardCheck s p x).1 = true ∧
      (x.cls = 3 ∨ x.cls = 4) :=
  ⟨upState, 4, { readyP with src := 1, cls := 4, vc := 1, kind := 0 }, by decide +kernel⟩

theorem case_EgressGuard_0_2 : ∃ (s : State) (p : Nat) (x : Parcel),
      (guardCheck s p x).1 = true ∧
      x.cls = 4 :=
  ⟨upState, 4, { readyP with src := 1, cls := 4, vc := 1, kind := 0 }, by decide +kernel⟩

theorem case_EgressGuard_0_3 : ∃ (s : State) (p : Nat) (x : Parcel),
      (guardCheck s p x).1 = true ∧
      debugClosed s = true ∧
      x.cls = 5 ∧
      x.src = 1 ∧
      x.vc = 5 :=
  ⟨{ upState with otp := { mirror := [(0x13, 1)], debugEffective := true } }, 3, { readyP with src := 1, cls := 5, vc := 5 }, by decide +kernel⟩

theorem case_EgressGuard_0_4 : ∃ (s : State) (p : Nat) (x : Parcel),
      (guardCheck s p x).1 = true ∧
      debugClosed s = true ∧
      x.cls = 3 ∧
      x.src = 1 ∧
      mwf 0 s.guard.passed = true :=
  ⟨{ upState with otp := { mirror := [(0x13, 1)], debugEffective := true }, guard := { passed := [(0, 1)] } }, 4, { readyP with src := 1, cls := 3, vc := 1, tag := 0xE0 }, by decide +kernel⟩

theorem case_HarvestCommandsAndStates_0_0 : ∃ (v : Word) (s : State),
      wbits v 31 16 ≠ 0x4A57 :=
  ⟨0, State.reset, by decide +kernel⟩

theorem case_HarvestCommandsAndStates_0_1 : ∃ (v : Word) (s : State),
      wbits v 31 16 = 0x4A57 ∧
      wbits v 1 0 = 1 ∧
      (noHarvest s = true ∨ rb s 0x00040400 0 = false) :=
  ⟨((((0) ||| (0x4A57) * (2^16))) ||| (1) * (2^0)), State.reset, by decide +kernel⟩

theorem case_HarvestCommandsAndStates_0_2 : ∃ (v : Word) (s : State),
      wbits v 31 16 = 0x4A57 ∧
      wbits v 1 0 = 1 ∧
      noHarvest s = false ∧
      rb s 0x00040400 0 = true :=
  ⟨((((0) ||| (0x4A57) * (2^16))) ||| (1) * (2^0)), (rput (State.reset) 0x00040400 0xFFFFFFFF), by decide +kernel⟩

theorem case_HarvestCommandsAndStates_0_3 : ∃ (v : Word) (s : State),
      wbits v 31 16 = 0x4A57 ∧
      wbits v 1 0 = 2 :=
  ⟨((((0) ||| (0x4A57) * (2^16))) ||| (2) * (2^0)), State.reset, by decide +kernel⟩

theorem case_HarvestCommandsAndStates_0_4 : ∃ (v : Word) (s : State),
      wbits v 31 16 = 0x4A57 ∧
      wbits v 1 0 = 3 :=
  ⟨((((0) ||| (0x4A57) * (2^16))) ||| (3) * (2^0)), State.reset, by decide +kernel⟩

theorem case_HarvestCommandsAndStates_2_0 : ∃ (b : HarvestBlock) (cd : Nat) (slot : Nat) (done : Nat) (val : Bool) (s : State),
      hvBlock s = some b ∧
      hvCd s = some cd ∧
      s.hv.writing = some (slot, done, val) ∧
      s.hv.epochBytes < 16384 ∧
      done < ckptLen b ∧
      done + (16384 - s.hv.epochBytes) < ckptLen b :=
  ⟨hvB, 2, 0, 0, true, { hvState with hv := { hvState.hv with epochBytes := 16383 } }, by decide +kernel⟩

theorem case_HarvestCommandsAndStates_2_1 : ∃ (b : HarvestBlock) (cd : Nat) (slot : Nat) (done : Nat) (val : Bool) (s : State),
      hvBlock s = some b ∧
      hvCd s = some cd ∧
      s.hv.writing = some (slot, done, val) ∧
      s.hv.epochBytes < 16384 ∧
      done < ckptLen b ∧
      ckptLen b ≤ done + (16384 - s.hv.epochBytes) :=
  ⟨hvB, 2, 0, 0, true, hvState, by decide +kernel⟩

theorem case_HarvestCommandsAndStates_3_0 : ∃ (b : HarvestBlock) (cd : Nat) (w : Nat × Nat × Bool) (s : State),
      hvBlock s = some b ∧
      hvCd s = some cd ∧
      s.hv.writing = some w ∧
      s.hv.epochBytes = 16384 :=
  ⟨hvB, 2, (0, 0, true), { (hvState) with hv := { (hvState).hv with epochBytes := 16384 } }, by decide +kernel⟩

theorem case_HarvestCommandsAndStates_3_1 : ∃ (b : HarvestBlock) (cd : Nat) (w : Nat × Nat × Bool) (s : State),
      hvBlock s = some b ∧
      hvCd s = some cd ∧
      s.hv.writing = some w ∧
      s.hv.flashRetries < 3 :=
  ⟨hvB, 2, (0, 0, true), hvState, by decide +kernel⟩

theorem case_HarvestCommandsAndStates_3_2 : ∃ (b : HarvestBlock) (cd : Nat) (w : Nat × Nat × Bool) (s : State),
      hvBlock s = some b ∧
      hvCd s = some cd ∧
      s.hv.writing = some w ∧
      3 ≤ s.hv.flashRetries :=
  ⟨hvB, 2, (0, 0, true), { (hvState) with hv := { (hvState).hv with flashRetries := 3 } }, by decide +kernel⟩

theorem case_HarvestCommandsAndStates_5_0 : ∃ (b : HarvestBlock) (cd : Nat) (o : Bool) (s : State),
      s.hv.windowOpen = true ∧
      s.hv.cancelPending = false ∧
      s.hv.nan = false ∧
      s.hv.flashFailed = false ∧
      s.hv.state = .validate ∧
      s.hv.passed = some true :=
  ⟨hvB, 2, false, { hvState with hv := { state := .validate, windowOpen := true, passed := some true } }, by decide +kernel⟩

theorem case_HarvestCommandsAndStates_5_1 : ∃ (b : HarvestBlock) (cd : Nat) (o : Bool) (s : State),
      s.hv.windowOpen = true ∧
      s.hv.cancelPending = false ∧
      s.hv.nan = false ∧
      s.hv.flashFailed = false ∧
      s.hv.state = .validate ∧
      s.hv.passed = some false :=
  ⟨hvB, 2, false, { ({ hvState with hv := { state := .validate, windowOpen := true, passed := some true } }) with hv := { ({ hvState with hv := { state := .validate, windowOpen := true, passed := some true } }).hv with passed := some false } }, by decide +kernel⟩

theorem case_HarvestCommandsAndStates_5_2 : ∃ (b : HarvestBlock) (cd : Nat) (o : Bool) (s : State),
      s.hv.windowOpen = true ∧
      s.hv.cancelPending = false ∧
      s.hv.nan = false ∧
      s.hv.flashFailed = false ∧
      s.hv.state = .checkpoint :=
  ⟨hvB, 2, false, { ({ hvState with hv := { state := .validate, windowOpen := true, passed := some true } }) with hv := { ({ hvState with hv := { state := .validate, windowOpen := true, passed := some true } }).hv with state := .checkpoint } }, by decide +kernel⟩

theorem case_HarvestCommandsAndStates_5_3 : ∃ (b : HarvestBlock) (cd : Nat) (o : Bool) (s : State),
      s.hv.windowOpen = true ∧
      s.hv.cancelPending = false ∧
      s.hv.nan = false ∧
      s.hv.flashFailed = false ∧
      s.hv.state = .adopt ∧
      hvSel s b cd = s.hv.headSel :=
  ⟨hvB, 2, false, { ({ hvState with hv := { state := .validate, windowOpen := true, passed := some true } }) with hv := { ({ hvState with hv := { state := .validate, windowOpen := true, passed := some true } }).hv with state := .adopt } }, by decide +kernel⟩

theorem case_HarvestCommandsAndStates_5_4 : ∃ (b : HarvestBlock) (cd : Nat) (o : Bool) (s : State),
      s.hv.windowOpen = true ∧
      s.hv.cancelPending = false ∧
      s.hv.nan = false ∧
      s.hv.flashFailed = false ∧
      s.hv.state = .adopt ∧
      hvSel s b cd ≠ s.hv.headSel :=
  ⟨hvB, 2, false, { ({ ({ hvState with hv := { state := .validate, windowOpen := true, passed := some true } }) with hv := { ({ hvState with hv := { state := .validate, windowOpen := true, passed := some true } }).hv with state := .adopt } }) with hv := { ({ ({ hvState with hv := { state := .validate, windowOpen := true, passed := some true } }) with hv := { ({ hvState with hv := { state := .validate, windowOpen := true, passed := some true } }).hv with state := .adopt } }).hv with headSel := true } }, by decide +kernel⟩

theorem case_NetworkCommands_0_0 : ∃ (md : MasterData) (s : State),
      s.net.linkP0 = true ∧
      s.net.linkP1 = true ∧
      rb s 0x00050000 5 = true ∧
      s.net.master1 = none :=
  ⟨default, netState, by decide +kernel⟩

theorem case_NetworkCommands_0_1 : ∃ (md : MasterData) (s : State) (m1 : MasterData),
      s.net.linkP0 = true ∧
      s.net.linkP1 = true ∧
      rb s 0x00050000 5 = true ∧
      s.net.master1 = some m1 :=
  ⟨default, { netState with net := { netState.net with master1 := some default } }, default, by decide +kernel⟩

theorem case_NetworkCommands_2_0 : ∃ (s : State),
      s.net.slave = none :=
  ⟨{ (netState) with net := { (netState).net with slave := none } }, by decide +kernel⟩

theorem case_NetworkCommands_2_1 : ∃ (s : State),
      s.net.slave = some 0 :=
  ⟨netState, by decide +kernel⟩

theorem case_NetworkCommands_2_2 : ∃ (s : State),
      s.net.slave = some 1 :=
  ⟨{ (netState) with net := { (netState).net with slave := some 1 } }, by decide +kernel⟩

theorem case_NetworkCommands_3_0 : ∃ (ns : Word) (s : State),
      s.net.linkP0 = true :=
  ⟨100, netState, by decide +kernel⟩

theorem case_NetworkCommands_3_1 : ∃ (ns : Word) (s : State),
      s.net.linkP1 = true :=
  ⟨100, netState, by decide +kernel⟩

theorem case_NetworkCommands_4_0 : ∃ (l : Lease) (s : State),
      netOn s = true ∧
      rb s 0x00050000 0 = false ∧
      linked s = true :=
  ⟨default, netState, by decide +kernel⟩

theorem case_NetworkCommands_4_1 : ∃ (l : Lease) (s : State),
      netOn s = true ∧
      rb s 0x00050000 0 = false ∧
      s.net.addr = .none :=
  ⟨default, netState, by decide +kernel⟩

theorem case_NetworkCommands_4_2 : ∃ (l : Lease) (s : State),
      netOn s = true ∧
      rb s 0x00050000 0 = false ∧
      s.net.addr = .dhcp :=
  ⟨default, { (netState) with net := { (netState).net with addr := .dhcp } }, by decide +kernel⟩

theorem case_NetworkCommands_5_0 : ∃ (l : Lease) (b : Bool) (s : State),
      s.net.addr = .dhcp :=
  ⟨default, true, { ({ netState with net := { netState.net with addr := .linkLocal } }) with net := { ({ netState with net := { netState.net with addr := .linkLocal } }).net with addr := .dhcp } }, by decide +kernel⟩

theorem case_NetworkCommands_5_1 : ∃ (l : Lease) (b : Bool) (s : State),
      s.net.addr = .linkLocal :=
  ⟨default, true, { netState with net := { netState.net with addr := .linkLocal } }, by decide +kernel⟩

theorem case_NetworkCommands_5_2 : ∃ (l : Lease) (b : Bool) (s : State),
      s.net.addr ≠ .linkLocal :=
  ⟨default, true, echoState, by decide +kernel⟩

theorem case_NetworkCommands_7_0 : ∃ (fdx : Bool) (s : State),
      netOn s = true ∧
      rb s 0x00050000 2 = true ∧
      s.net.held1 = false ∧
      s.net.linkP1 = false ∧
      s.net.everLinked = true ∧
      (portChanges s 1).length ≤ 10 :=
  ⟨true, { netState with net := { netState.net with linkP1 := false } }, by decide +kernel⟩

theorem case_NetworkCommands_7_1 : ∃ (fdx : Bool) (s : State),
      netOn s = true ∧
      rb s 0x00050000 2 = true ∧
      s.net.held1 = false ∧
      s.net.linkP1 = false ∧
      s.net.everLinked = true ∧
      10 < (portChanges s 1).length :=
  ⟨true, { netState with net := { netState.net with linkP1 := false, chg1 := List.replicate 10 0 } }, by decide +kernel⟩

theorem case_NetworkCommands_9_0 : ∃ (f : Frame) (s : State),
      netOn s = true ∧
      f.inPort < 3 ∧
      portUpNet s f.inPort = true ∧
      (f.fcsOk = false ∨ f.len < 64 ∨ 1522 < f.len) :=
  ⟨{ ({ (default : Frame) with fcsOk := true, len := 64, room := true }) with fcsOk := false }, netState, by decide +kernel⟩

theorem case_NetworkCommands_9_1 : ∃ (f : Frame) (s : State),
      netOn s = true ∧
      f.inPort < 3 ∧
      portUpNet s f.inPort = true ∧
      f.fcsOk = true ∧
      64 ≤ f.len ∧
      f.len ≤ 1522 ∧
      f.room = false :=
  ⟨{ ({ (default : Frame) with fcsOk := true, len := 64, room := true }) with room := false }, netState, by decide +kernel⟩

theorem case_NetworkCommands_9_2 : ∃ (f : Frame) (s : State),
      netOn s = true ∧
      f.inPort < 3 ∧
      portUpNet s f.inPort = true ∧
      f.fcsOk = true ∧
      64 ≤ f.len ∧
      f.len ≤ 1522 ∧
      f.room = true ∧
      f.inPort < 2 :=
  ⟨{ (default : Frame) with fcsOk := true, len := 64, room := true }, netState, by decide +kernel⟩

theorem case_NetworkCommands_10_0 : ∃ (f : Frame) (t : List AddrEntry),
      t.length ≤ 256 ∧
      f.ptp = true :=
  ⟨{ (default : Frame) with ptp := true }, [], by decide +kernel⟩

theorem case_NetworkCommands_11_0 : ∃ (mac : BitVec 48) (s : State) (e : AddrEntry),
      e ∈ s.net.table ∧
      e.mac ≠ mac :=
  ⟨0, { netState with net := { netState.net with table := [⟨1, 0⟩] } }, ⟨1, 0⟩, by decide +kernel⟩

theorem case_SessionsAndRegisterMessages_0_0 : ∃ (m : BcpEnv) (host : DWord) (hn : BitVec 128) (s : State),
      bcpServes s m = true ∧
      m.headerOk = true ∧
      m.version = 1 ∧
      m.lenOk = true ∧
      (authOk s m 1 (leBytes 8 host.toNat ++ nonceBytes hn) 0).1 = true ∧
      (rateAll s).1 = true ∧
      s.bcp.sessions.any (fun x => x.host != host && x.host.setWidth 32 == host.setWidth 32) = false ∧
      s.bcp.sessions.length ≤ 32 :=
  ⟨envB 1, 7, 9, bcpState, by decide +kernel⟩

theorem case_SessionsAndRegisterMessages_1_0 : ∃ (m : BcpEnv) (host : DWord) (hn : BitVec 128) (s : State),
      bcpServes s m = true ∧
      m.version = 1 ∧
      m.lenOk = true ∧
      m.headerOk = false :=
  ⟨{ (envB 1) with headerOk := false }, 0x100000007, 9, bcpState, by decide +kernel⟩

theorem case_SessionsAndRegisterMessages_1_1 : ∃ (m : BcpEnv) (host : DWord) (hn : BitVec 128) (s : State),
      bcpServes s m = true ∧
      m.version = 1 ∧
      m.lenOk = true ∧
      m.headerOk = true ∧
      (authOk s m 1 (leBytes 8 host.toNat ++ nonceBytes hn) 0).1 = false :=
  ⟨envB 1, 0x100000007, 9, { bcpState with bcp := { bcpState.bcp with storeKey := some 5 } }, by decide +kernel⟩

theorem case_SessionsAndRegisterMessages_1_2 : ∃ (m : BcpEnv) (host : DWord) (hn : BitVec 128) (s : State),
      bcpServes s m = true ∧
      m.version = 1 ∧
      m.lenOk = true ∧
      m.headerOk = true ∧
      (authOk s m 1 (leBytes 8 host.toNat ++ nonceBytes hn) 0).1 = true ∧
      (rateAll s).1 = true ∧
      s.bcp.sessions.any (fun x => x.host != host && x.host.setWidth 32 == host.setWidth 32) = true :=
  ⟨envB 1, 0x100000007, 9, bcpState, by decide +kernel⟩

theorem case_SessionsAndRegisterMessages_5_0 : ∃ (m : BcpEnv) (x : Session) (a : Word) (v : Word) (s : State),
      BcpAccepts s m 3 (leBytes 4 a.toNat ++ leBytes 2 1 ++ [0, 0] ++ leBytes 4 v.toNat) x ∧
      isOwner s x.host = false :=
  ⟨envB 1, sesB, 0, 0, bcpState, by decide +kernel⟩

theorem case_SessionsAndRegisterMessages_5_1 : ∃ (m : BcpEnv) (x : Session) (a : Word) (v : Word) (s : State),
      BcpAccepts s m 3 (leBytes 4 a.toNat ++ leBytes 2 1 ++ [0, 0] ++ leBytes 4 v.toNat) x ∧
      isOwner s x.host = true ∧
      s.bcp.owner.map (·.level) ≠ some (levelOf m) :=
  ⟨envB 1, sesB, 0, 0, { ownState with bcp := { ownState.bcp with owner := some ⟨7, 1, 1⟩ } }, by decide +kernel⟩

theorem case_SessionsAndRegisterMessages_6_0 : ∃ (m : BcpEnv) (x : Session) (b : Byte) (bs : List Byte) (s : State),
      bcpServes s m = true ∧
      m.headerOk = true ∧
      m.version = 1 ∧
      m.lenOk = true ∧
      sessionOf s m.sender = some x ∧
      (authOk s m 0x13 [] x.nonce).1 = true ∧
      x.kept.find? (fun e => e.1 == m.seq) = some (m.seq, b :: bs) :=
  ⟨envB 0, { sesB with kept := [(0, [1])] }, 1, [], { bcpState with bcp := { sessions := [{ sesB with kept := [(0, [1])] }] } }, by decide +kernel⟩

theorem case_SessionsAndRegisterMessages_6_1 : ∃ (m : BcpEnv) (x : Session) (b : Byte) (bs : List Byte) (s : State),
      bcpServes s m = true ∧
      m.headerOk = true ∧
      m.version = 1 ∧
      m.lenOk = true ∧
      sessionOf s m.sender = some x ∧
      (authOk s m 0x13 [] x.nonce).1 = true ∧
      x.kept.find? (fun e => e.1 == m.seq) = none ∧
      m.seq ≤ x.highest :=
  ⟨envB 0, sesB, 1, [], bcpState, by decide +kernel⟩

theorem case_OwnerElection_1_0 : ∃ (m : BcpEnv) (x : Session) (p : Nat) (o : Owner) (s : State),
      BcpAccepts s m 0x10 (leBytes 1 p ++ [0, 0, 0]) x ∧
      p < 256 ∧
      s.bcp.election = .owned ∧
      s.bcp.owner = some o ∧
      o.host ≠ x.host ∧
      (levelOf m ≠ 2 ∨ o.level = 2) :=
  ⟨envB 1, sesB, 200, ⟨8, 0, 1⟩, { ownState with bcp := { ownState.bcp with owner := some ⟨8, 0, 1⟩ } }, by decide +kernel⟩

theorem case_OwnerElection_1_1 : ∃ (m : BcpEnv) (x : Session) (p : Nat) (o : Owner) (s : State),
      BcpAccepts s m 0x10 (leBytes 1 p ++ [0, 0, 0]) x ∧
      p < 256 ∧
      s.bcp.election = .owned ∧
      s.bcp.owner = some o ∧
      o.host ≠ x.host ∧
      levelOf m = 2 ∧
      o.level < 2 :=
  ⟨envK, sesB, 200, ⟨8, 0, 1⟩, { ownState with bcp := { ownState.bcp with owner := some ⟨8, 0, 1⟩, serviceKey := some 5 } }, by decide +kernel⟩

theorem case_OwnerElection_1_2 : ∃ (m : BcpEnv) (x : Session) (p : Nat) (o : Owner) (s : State),
      BcpAccepts s m 0x10 (leBytes 1 p ++ [0, 0, 0]) x ∧
      p < 256 ∧
      s.bcp.election = .owned ∧
      s.bcp.owner = some o ∧
      o.host = x.host ∧
      o.level ≠ levelOf m :=
  ⟨envB 1, sesB, 200, ⟨7, 1, 1⟩, { ownState with bcp := { ownState.bcp with owner := some ⟨7, 1, 1⟩ } }, by decide +kernel⟩

theorem case_OwnerElection_1_3 : ∃ (m : BcpEnv) (x : Session) (p : Nat) (o : Owner) (s : State),
      BcpAccepts s m 0x10 (leBytes 1 p ++ [0, 0, 0]) x ∧
      p < 256 ∧
      s.bcp.election = .owned ∧
      s.bcp.owner = some o ∧
      o.host = x.host ∧
      o.level = levelOf m :=
  ⟨envB 1, sesB, 200, ⟨7, 0, 1⟩, ownState, by decide +kernel⟩

theorem case_OwnerElection_3_0 : ∃ (m : BcpEnv) (x : Session) (s : State),
      OwnerAsks s m 0x11 [] x :=
  ⟨envB 1, sesB, ownState, by decide +kernel⟩

theorem case_OwnerElection_3_1 : ∃ (m : BcpEnv) (x : Session) (s : State),
      BcpAccepts s m 0x13 [] x :=
  ⟨envB 1, sesB, ownState, by decide +kernel⟩

theorem case_OwnerElection_5_0 : ∃ (m : BcpEnv) (x : Session) (h : DWord) (s : State),
      OwnerAsks s m 0x12 (leBytes 8 h.toNat) x ∧
      (h = 0 ∨ h = x.host) :=
  ⟨envB 1, sesB, 0, ownState, by decide +kernel⟩

theorem case_OwnerElection_5_1 : ∃ (m : BcpEnv) (x : Session) (h : DWord) (s : State),
      OwnerAsks s m 0x12 (leBytes 8 h.toNat) x ∧
      h ≠ 0 ∧
      h ≠ x.host :=
  ⟨envB 1, sesB, 9, ownState, by decide +kernel⟩

theorem case_OwnerElection_6_0 : ∃ (s : State),
      s.bcp.election ≠ .owned :=
  ⟨{ (ownState) with bcp := { (ownState).bcp with election := .openSt } }, by decide +kernel⟩

theorem case_OwnerElection_6_1 : ∃ (s : State),
      s.bcp.election = .owned ∧
      s.bcp.access = none :=
  ⟨ownState, by decide +kernel⟩

theorem case_OwnerElection_6_2 : ∃ (s : State),
      s.bcp.election = .succession ∧
      s.bcp.held = [] :=
  ⟨{ (ownState) with bcp := { (ownState).bcp with election := .succession } }, by decide +kernel⟩

theorem case_OwnerElection_6_3 : ∃ (s : State),
      s.bcp.election ≠ .succession :=
  ⟨ownState, by decide +kernel⟩

theorem case_OwnerElection_8_0 : ∃ (a : HeldClaim) (b : HeldClaim) (c : HeldClaim),
      ranksBefore a b = true :=
  ⟨claimB 2 1, claimB 1 1, claimB 0 1, by decide +kernel⟩

theorem case_OwnerElection_8_1 : ∃ (a : HeldClaim) (b : HeldClaim) (c : HeldClaim),
      ranksBefore a b = true ∧
      ranksBefore b c = true :=
  ⟨claimB 2 1, claimB 1 1, claimB 0 1, by decide +kernel⟩

theorem case_OwnerElection_8_2 : ∃ (a : HeldClaim) (b : HeldClaim) (c : HeldClaim),
      b.level < a.level :=
  ⟨claimB 2 1, claimB 1 1, claimB 0 1, by decide +kernel⟩

theorem case_OwnerElection_8_3 : ∃ (a : HeldClaim) (b : HeldClaim) (c : HeldClaim),
      a.level = b.level ∧
      b.priority < a.priority :=
  ⟨claimB 2 5, claimB 2 4, claimB 0 1, by decide +kernel⟩

theorem case_OwnerElection_8_4 : ∃ (a : HeldClaim) (b : HeldClaim) (c : HeldClaim),
      a.level = b.level ∧
      a.priority = b.priority :=
  ⟨claimB 2 5, claimB 2 5, claimB 0 1, by decide +kernel⟩

theorem case_StagingAndSwitchOver_0_0 : ∃ (m : BcpEnv) (x : Session) (slot : Nat) (size : Nat) (sha : BitVec 256) (s : State),
      OwnerAsks s m 0x20 (leBytes 1 slot ++ [0, 0, 0] ++ leBytes 4 size ++ keyBytes sha) x ∧
      (s.power.season = .summer ∨ s.power.season = .a1 ∨ s.power.season = .dormant) ∧
      s.flash.sfdp = true ∧
      slot ≤ 1 ∧
      slot ≠ s.boot.slot ∧
      (switchDue s = false ∨ s.sw.slot ≠ slot) ∧
      4096 ≤ size ∧
      size ≤ slotSize s slot :=
  ⟨envB 1, sesB, 1, 4096, 0, stageState, by decide +kernel⟩

theorem case_StagingAndSwitchOver_0_1 : ∃ (m : BcpEnv) (x : Session) (slot : Nat) (size : Nat) (sha : BitVec 256) (s : State),
      OwnerAsks s m 0x20 (leBytes 1 slot ++ [0, 0, 0] ++ leBytes 4 size ++ keyBytes sha) x ∧
      (s.power.season = .summer ∨ s.power.season = .a1 ∨ s.power.season = .dormant) ∧
      s.flash.sfdp = true ∧
      slot = s.boot.slot :=
  ⟨envB 1, sesB, 0, 4096, 0, stageState, by decide +kernel⟩

theorem case_StagingAndSwitchOver_0_2 : ∃ (m : BcpEnv) (x : Session) (slot : Nat) (size : Nat) (sha : BitVec 256) (s : State),
      OwnerAsks s m 0x20 (leBytes 1 slot ++ [0, 0, 0] ++ leBytes 4 size ++ keyBytes sha) x ∧
      (s.power.season = .summer ∨ s.power.season = .a1 ∨ s.power.season = .dormant) ∧
      s.flash.sfdp = true ∧
      slot ≤ 1 ∧
      slot ≠ s.boot.slot ∧
      switchDue s = false ∧
      (size < 4096 ∨ slotSize s slot < size) :=
  ⟨envB 1, sesB, 0, 4096, 0, { (stageState) with boot := { (stageState).boot with slot := 1 } }, by decide +kernel⟩

theorem case_StagingAndSwitchOver_1_0 : ∃ (m : BcpEnv) (x : Session) (off : Nat) (data : List Byte) (s : State),
      OwnerAsks s m 0x21 (leBytes 4 off ++ leBytes 2 data.length ++ [0, 0] ++ data) x ∧
      s.power.season = .summer ∧
      1 ≤ data.length ∧
      data.length ≤ 1024 ∧
      s.stage.status ≠ 1 :=
  ⟨envB 1, sesB, 0, [7], { ({ stageState with stage := { status := 1, size := 1 } }) with stage := { ({ stageState with stage := { status := 1, size := 1 } }).stage with status := 2 } }, by decide +kernel⟩

theorem case_StagingAndSwitchOver_1_1 : ∃ (m : BcpEnv) (x : Session) (off : Nat) (data : List Byte) (s : State),
      OwnerAsks s m 0x21 (leBytes 4 off ++ leBytes 2 data.length ++ [0, 0] ++ data) x ∧
      s.power.season = .summer ∧
      1 ≤ data.length ∧
      data.length ≤ 1024 ∧
      s.stage.status = 1 ∧
      stageUnitOk s.stage off data.length = true :=
  ⟨envB 1, sesB, 0, [7], { stageState with stage := { status := 1, size := 1 } }, by decide +kernel⟩

theorem case_StagingAndSwitchOver_2_0 : ∃ (m : BcpEnv) (x : Session) (s : State),
      OwnerAsks s m 0x22 [] x ∧
      s.power.season = .summer ∧
      s.stage.status = 1 ∧
      stageBytes s.stage < s.stage.size :=
  ⟨envB 1, sesB, { ({ stageState with stage := { status := 1, size := 1024, units := [0] } }) with stage := { ({ stageState with stage := { status := 1, size := 1024, units := [0] } }).stage with size := 1000000000000 } }, by decide +kernel⟩

theorem case_StagingAndSwitchOver_2_1 : ∃ (m : BcpEnv) (x : Session) (s : State),
      OwnerAsks s m 0x22 [] x ∧
      s.power.season = .summer ∧
      s.stage.status = 1 ∧
      s.stage.size ≤ stageBytes s.stage :=
  ⟨envB 1, sesB, { stageState with stage := { status := 1, size := 1024, units := [0] } }, by decide +kernel⟩

theorem case_StagingAndSwitchOver_2_2 : ∃ (m : BcpEnv) (x : Session) (s : State),
      OwnerAsks s m 0x22 [] x ∧
      s.power.season = .summer ∧
      s.stage.status = 3 :=
  ⟨envB 1, sesB, { ({ stageState with stage := { status := 1, size := 1024, units := [0] } }) with stage := { ({ stageState with stage := { status := 1, size := 1024, units := [0] } }).stage with status := 3 } }, by decide +kernel⟩

theorem case_StagingAndSwitchOver_3_0 : ∃ (f : SlotFacts) (s : State),
      s.stage.status = 2 ∧
      s.stage.slot ≤ 1 ∧
      slotCheck s 1 f = 0 ∧
      f.badChunk = none :=
  ⟨goodSlot, slotState, by decide +kernel⟩

theorem case_StagingAndSwitchOver_3_1 : ∃ (f : SlotFacts) (s : State),
      s.stage.status = 2 ∧
      s.stage.slot ≤ 1 ∧
      slotCheck s 1 f ≠ 0 :=
  ⟨default, { stageState with stage := { status := 2, slot := 1 } }, by decide +kernel⟩

theorem case_StagingAndSwitchOver_4_0 : ∃ (m : BcpEnv) (x : Session) (slot : Nat) (mode : Nat) (e : Word) (d : BootDesc) (s : State),
      OwnerAsks s m 0x23 (leBytes 1 slot ++ leBytes 1 mode ++ [0, 0] ++ leBytes 4 e.toNat) x ∧
      (s.power.season = .summer ∨ s.power.season = .a1) ∧
      switchDue s = false ∧
      s.sw.applied = false ∧
      descNow s = some d ∧
      slot ≤ 1 ∧
      slot ≠ s.boot.slot ∧
      mode ≤ 2 ∧
      descState d slot ≠ 1 ∧
      descState d slot ≠ 2 :=
  ⟨envB 1, sesB, 1, 2, 0, { desc0 with stateB := 0 }, { switchState with flash := { sfdp := true, desc0 := some { desc0 with stateB := 0 }, slotB := some default } }, by decide +kernel⟩

theorem case_StagingAndSwitchOver_4_1 : ∃ (m : BcpEnv) (x : Session) (slot : Nat) (mode : Nat) (e : Word) (d : BootDesc) (s : State),
      OwnerAsks s m 0x23 (leBytes 1 slot ++ leBytes 1 mode ++ [0, 0] ++ leBytes 4 e.toNat) x ∧
      (s.power.season = .summer ∨ s.power.season = .a1) ∧
      switchDue s = false ∧
      s.sw.applied = false ∧
      descNow s = some d ∧
      slot ≤ 1 ∧
      slot ≠ s.boot.slot ∧
      mode ≤ 2 ∧
      (descState d slot = 1 ∨ descState d slot = 2) ∧
      e ≠ 0 ∧
      ((e - s.seqr.epoch).toNat < 2 ∨ 2 ^ 30 < (e - s.seqr.epoch).toNat) :=
  ⟨envB 1, sesB, 1, 2, 1, { desc0 with stateB := 1 }, switchState, by decide +kernel⟩

theorem case_StagingAndSwitchOver_4_2 : ∃ (m : BcpEnv) (x : Session) (slot : Nat) (mode : Nat) (e : Word) (d : BootDesc) (s : State),
      OwnerAsks s m 0x23 (leBytes 1 slot ++ leBytes 1 mode ++ [0, 0] ++ leBytes 4 e.toNat) x ∧
      (s.power.season = .summer ∨ s.power.season = .a1) ∧
      switchDue s = false ∧
      s.sw.applied = false ∧
      descNow s = some d ∧
      slot ≤ 1 ∧
      slot ≠ s.boot.slot ∧
      mode ≤ 2 ∧
      (descState d slot = 1 ∨ descState d slot = 2) ∧
      switchEpochOk s e = true ∧
      mode = 1 ∧
      liveOk s slot = false :=
  ⟨envB 1, sesB, 1, 1, 0, { desc0 with stateB := 1 }, switchState, by decide +kernel⟩

theorem case_StagingAndSwitchOver_4_3 : ∃ (m : BcpEnv) (x : Session) (slot : Nat) (mode : Nat) (e : Word) (d : BootDesc) (s : State),
      OwnerAsks s m 0x23 (leBytes 1 slot ++ leBytes 1 mode ++ [0, 0] ++ leBytes 4 e.toNat) x ∧
      (s.power.season = .summer ∨ s.power.season = .a1) ∧
      switchDue s = false ∧
      s.sw.applied = false ∧
      descNow s = some d ∧
      slot ≤ 1 ∧
      slot ≠ s.boot.slot ∧
      mode ≤ 2 ∧
      (descState d slot = 1 ∨ descState d slot = 2) ∧
      switchEpochOk s e = true ∧
      (mode ≠ 1 ∨ liveOk s slot = true) :=
  ⟨envB 1, sesB, 1, 2, 0, { desc0 with stateB := 1 }, switchState, by decide +kernel⟩

theorem case_StagingAndSwitchOver_5_0 : ∃ (f : SlotFacts) (s : State),
      s.sw.state = 1 ∧
      s.sw.applied = false ∧
      slotFacts s s.sw.slot = some f ∧
      f.metaHash = f.metaDigest :=
  ⟨default, { switchState with sw := { state := 1, slot := 1 } }, by decide +kernel⟩

theorem case_StagingAndSwitchOver_5_1 : ∃ (f : SlotFacts) (s : State),
      s.sw.state = 1 ∧
      s.sw.applied = false ∧
      slotFacts s s.sw.slot = some f ∧
      f.metaHash = f.metaDigest ∧
      s.seqr.bank = 0 :=
  ⟨default, { switchState with sw := { state := 1, slot := 1 } }, by decide +kernel⟩

theorem case_StagingAndSwitchOver_5_2 : ∃ (f : SlotFacts) (s : State),
      s.sw.state = 1 ∧
      s.sw.applied = false ∧
      slotFacts s s.sw.slot = some f ∧
      f.metaHash = f.metaDigest ∧
      s.seqr.bank = 1 :=
  ⟨default, { ({ switchState with sw := { state := 1, slot := 1 } }) with seqr := { ({ switchState with sw := { state := 1, slot := 1 } }).seqr with bank := 1 } }, by decide +kernel⟩

theorem case_StagingAndSwitchOver_6_0 : ∃ (m : BcpEnv) (x : Session) (s : State),
      OwnerAsks s m 0x24 [] x ∧
      switchDue s = true :=
  ⟨envB 1, sesB, { switchState with sw := { state := 1 } }, by decide +kernel⟩

theorem case_StagingAndSwitchOver_6_1 : ∃ (m : BcpEnv) (x : Session) (s : State),
      OwnerAsks s m 0x24 [] x ∧
      switchDue s = false :=
  ⟨envB 1, sesB, switchState, by decide +kernel⟩

theorem case_ConfigurationKeysAndLogMessages_1_0 : ∃ (m : BcpEnv) (x : Session) (op : Nat) (key : BitVec 256) (s : State),
      OwnerAsks s m 0x30 (leBytes 1 0 ++ leBytes 1 op ++ [0, 0] ++ keyBytes key) x ∧
      s.stage.status = 0 ∧
      (inField s = false ∨ op ≠ 0) :=
  ⟨envB 1, sesB, 1, 9, { stageState with otp := { mirror := [(0x13, 1)] } }, by decide +kernel⟩

theorem case_ConfigurationKeysAndLogMessages_1_1 : ∃ (m : BcpEnv) (x : Session) (op : Nat) (key : BitVec 256) (s : State),
      OwnerAsks s m 0x30 (leBytes 1 0 ++ leBytes 1 op ++ [0, 0] ++ keyBytes key) x ∧
      s.stage.status = 0 ∧
      inField s = true ∧
      op = 0 ∧
      s.bcp.storeKey = none :=
  ⟨envB 1, sesB, 0, 9, { stageState with otp := { mirror := [(0x13, 1)] } }, by decide +kernel⟩

theorem case_ConfigurationKeysAndLogMessages_2_0 : ∃ (s : State),
      s.bcp.keystoreBad = false :=
  ⟨State.reset, by decide +kernel⟩

theorem case_ConfigurationKeysAndLogMessages_2_1 : ∃ (s : State),
      s.bcp.keystoreBad = true :=
  ⟨{ (State.reset) with bcp := { (State.reset).bcp with keystoreBad := true } }, by decide +kernel⟩

theorem case_ConfigurationKeysAndLogMessages_6_0 : ∃ (m : BcpEnv) (x : Session) (s : State),
      OwnerAsks s m 0x43 [] x ∧
      s.log.frozen = true :=
  ⟨envB 1, sesB, { (stageState) with log := { (stageState).log with frozen := true } }, by decide +kernel⟩

theorem case_ConfigurationKeysAndLogMessages_6_1 : ∃ (m : BcpEnv) (x : Session) (s : State),
      OwnerAsks s m 0x43 [] x ∧
      s.log.frozen = false :=
  ⟨envB 1, sesB, stageState, by decide +kernel⟩

theorem case_RecordsAndDatagrams_3_0 : ∃ (s : State),
      s.recs.crops.find? (fun c => c.complete) = none :=
  ⟨State.reset, by decide +kernel⟩

theorem case_RecordsAndDatagrams_3_1 : ∃ (s : State) (c : CropIn),
      s.recs.crops.find? (fun c => c.complete) = some c :=
  ⟨{ State.reset with recs := { crops := [cropZ] } }, cropZ, by decide +kernel⟩

theorem case_RecordsAndDatagrams_7_0 : ∃ (s : State),
      s.recs.closed = true ∧
      addressed s = true ∧
      rb s 0x00070000 0 = true ∧
      rb s 0x00070000 1 = false ∧
      s.recs.queue = [] ∧
      linked s = true :=
  ⟨sendableState, by decide +kernel⟩

theorem case_RecordsAndDatagrams_7_1 : ∃ (s : State),
      s.recs.closed = true ∧
      addressed s = true ∧
      rb s 0x00070000 0 = true ∧
      rb s 0x00070000 1 = false ∧
      s.recs.queue = [] ∧
      linked s = false :=
  ⟨{ sendableState with net := { sendableState.net with linkP0 := false, linkP1 := false } }, by decide +kernel⟩

theorem case_RecordsAndDatagrams_7_2 : ∃ (s : State),
      s.recs.closed = true ∧
      addressed s = true ∧
      rb s 0x00070000 0 = true ∧
      rb s 0x00070000 1 = false ∧
      s.recs.queue = [] ∧
      linked s = false ∧
      s.recs.dgram ≠ [] :=
  ⟨{ sendableState with net := { sendableState.net with linkP0 := false, linkP1 := false } }, by decide +kernel⟩

theorem case_RecordsAndDatagrams_8_0 : ∃ (s : State),
      rb s 0x00070000 4 = false :=
  ⟨(rput (State.reset) 0x00070000 0), by decide +kernel⟩

theorem case_RecordsAndDatagrams_8_1 : ∃ (s : State),
      rb s 0x00070000 4 = true :=
  ⟨State.reset, by decide +kernel⟩

theorem case_PeerExchange_0_0 : ∃ (s : State),
      peersOn s = false :=
  ⟨echoState, by decide +kernel⟩

theorem case_PeerExchange_0_1 : ∃ (s : State),
      peersOn s = true ∧
      linked s = true :=
  ⟨peerState, by decide +kernel⟩

theorem case_PeerExchange_1_0 : ∃ (p : PeerMsg) (a : Announce) (items : List (List Byte)) (s : State),
      (rb s 0x00070100 0 = false ∨ s.power.season = .dormant) :=
  ⟨default, default, [], (rput (peerState) 0x00070100 0), by decide +kernel⟩

theorem case_PeerExchange_1_1 : ∃ (p : PeerMsg) (a : Announce) (items : List (List Byte)) (s : State),
      rb s 0x00070100 0 = true ∧
      s.power.season ≠ .dormant ∧
      p.wellFormed = false :=
  ⟨default, default, [], peerState, by decide +kernel⟩

theorem case_PeerExchange_2_0 : ∃ (p : PeerMsg) (a : Announce) (s : State),
      rb s 0x00070100 0 = true ∧
      rb s 0x00070100 1 = false ∧
      s.power.season ≠ .dormant ∧
      p.wellFormed = true ∧
      p.mac ≠ ownMac s ∧
      zoneAccepted s p.zone = true ∧
      peerOf s p.mac = none ∧
      s.peers.table.length < 64 :=
  ⟨peerP, default, peerState, by decide +kernel⟩

theorem case_PeerExchange_2_1 : ∃ (p : PeerMsg) (a : Announce) (s : State),
      rb s 0x00070100 0 = true ∧
      rb s 0x00070100 1 = false ∧
      s.power.season ≠ .dormant ∧
      p.wellFormed = true ∧
      p.mac ≠ ownMac s ∧
      zoneAccepted s p.zone = true ∧
      peerOf s p.mac = none ∧
      64 ≤ s.peers.table.length :=
  ⟨peerP, default, { peerState with peers := { table := List.replicate 64 { entryZ with mac := 9 } } }, by decide +kernel⟩

theorem case_PeerExchange_2_2 : ∃ (p : PeerMsg) (a : Announce) (s : State),
      rb s 0x00070100 0 = true ∧
      rb s 0x00070100 1 = false ∧
      s.power.season ≠ .dormant ∧
      p.wellFormed = true ∧
      p.mac ≠ ownMac s ∧
      zoneAccepted s p.zone = false :=
  ⟨peerP, default, echoState, by decide +kernel⟩

theorem case_PeerExchange_2_3 : ∃ (p : PeerMsg) (a : Announce) (s : State) (e : PeerEntry),
      rb s 0x00070100 0 = true ∧
      rb s 0x00070100 1 = false ∧
      s.power.season ≠ .dormant ∧
      p.wellFormed = true ∧
      p.mac ≠ ownMac s ∧
      zoneAccepted s p.zone = true ∧
      peerOf s p.mac = some e ∧
      e.ip = p.ip :=
  ⟨peerP, default, { peerState with peers := { table := [entryZ] } }, entryZ, by decide +kernel⟩

theorem case_PeerExchange_3_0 : ∃ (p : PeerMsg) (item : List Byte) (e : PeerEntry) (s : State),
      rb s 0x00070100 0 = true ∧
      rb s 0x00070100 1 = false ∧
      s.power.season ≠ .dormant ∧
      p.wellFormed = true ∧
      p.mac ≠ ownMac s ∧
      item.length = 128 ∧
      peerOf s p.mac = none :=
  ⟨peerP, List.replicate 128 0, entryZ, peerState, by decide +kernel⟩

theorem case_PeerExchange_3_1 : ∃ (p : PeerMsg) (item : List Byte) (e : PeerEntry) (s : State),
      rb s 0x00070100 0 = true ∧
      rb s 0x00070100 1 = false ∧
      s.power.season ≠ .dormant ∧
      p.wellFormed = true ∧
      p.mac ≠ ownMac s ∧
      item.length = 128 ∧
      peerOf s p.mac = some e ∧
      e.ip = p.ip ∧
      compatible s e = true ∧
      embAccept s = true ∧
      s.peers.staged.length < 512 :=
  ⟨peerP, List.replicate 128 0, { entryZ with embId := 3, embAccept := true }, { peerState with peers := { table := [{ entryZ with embId := 3, embAccept := true }] }, img := { facts := some { (default : SlotFacts) with image := { (default : SqiMeta) with embId := 3 } } } }, by decide +kernel⟩

theorem case_PeerExchange_3_2 : ∃ (p : PeerMsg) (item : List Byte) (e : PeerEntry) (s : State),
      rb s 0x00070100 0 = true ∧
      rb s 0x00070100 1 = false ∧
      s.power.season ≠ .dormant ∧
      p.wellFormed = true ∧
      p.mac ≠ ownMac s ∧
      item.length = 128 ∧
      peerOf s p.mac = some e ∧
      (compatible s e = false ∨ embAccept s = false) :=
  ⟨peerP, List.replicate 128 0, entryZ, { peerState with peers := { table := [entryZ] } }, by decide +kernel⟩

theorem case_ListenerFrames_4_0 : ∃ (m : Nat) (e : Int) (s : State),
      m < 2 ∧
      (micOf s m).frames = 99 :=
  ⟨1, -800, (modMic (lstState) 1 fun e => { (e) with frames := 99 }), by decide +kernel⟩

theorem case_ListenerFrames_4_1 : ∃ (m : Nat) (e : Int) (s : State),
      m < 2 ∧
      16 * e < (micOf s m).floor + lstThresh s :=
  ⟨1, -800, lstState, by decide +kernel⟩

theorem case_ListenerFrames_4_2 : ∃ (m : Nat) (e : Int) (s : State),
      m < 2 ∧
      (micOf s m).floor + lstThresh s ≤ 16 * e :=
  ⟨1, 5000, lstState, by decide +kernel⟩

theorem case_ListenerFrames_4_3 : ∃ (m : Nat) (e : Int) (s : State),
      m < 2 ∧
      (micOf s m).floor + lstThresh s ≤ 16 * e ∧
      (micOf s m).loudRun < 200 :=
  ⟨1, 5000, lstState, by decide +kernel⟩

theorem case_ListenerFrames_4_4 : ∃ (m : Nat) (e : Int) (s : State),
      m < 2 ∧
      (micOf s m).floor + lstThresh s ≤ 16 * e ∧
      200 ≤ (micOf s m).loudRun :=
  ⟨1, -100, lstMics { frames := 100, loudRun := 200, floor := -20000 }, by decide +kernel⟩

theorem case_ListenerFrames_5_0 : ∃ (s : State),
      micHits s 0 = false ∧
      micHits s 1 = false :=
  ⟨State.reset, by decide +kernel⟩

theorem case_ListenerFrames_5_1 : ∃ (s : State),
      micHits s 0 = true ∧
      micHits s 1 = false ∧
      (micOf s 0).refractUntil ≤ s.lst.frames ∧
      rb s 0x00080000 8 = false :=
  ⟨lstHit, by decide +kernel⟩

theorem case_ListenerFrames_5_2 : ∃ (s : State),
      micHits s 0 = true ∧
      micHits s 1 = false ∧
      s.lst.frames < (micOf s 0).refractUntil :=
  ⟨{ lstState with lst := { lstState.lst with mic0 := { lstState.lst.mic0 with loudRun := 3, loudMax := -768, refractUntil := 100 } } }, by decide +kernel⟩

theorem case_ListenerStatesAndFaults_3_0 : ∃ (l0 : Int) (l1 : Int) (s : State),
      s.lst.state ≠ .test :=
  ⟨0, 0, State.reset, by decide +kernel⟩

theorem case_ListenerStatesAndFaults_3_1 : ∃ (l0 : Int) (l1 : Int) (s : State),
      s.lst.state = .test :=
  ⟨0, 0, { (State.reset) with lst := { (State.reset).lst with state := .test } }, by decide +kernel⟩

theorem case_ListenerStatesAndFaults_3_2 : ∃ (l0 : Int) (l1 : Int) (s : State),
      s.lst.state = .test ∧
      micUsed s 0 = true :=
  ⟨0, 0, { (State.reset) with lst := { (State.reset).lst with state := .test } }, by decide +kernel⟩

theorem case_ListenerStatesAndFaults_3_3 : ∃ (l0 : Int) (l1 : Int) (s : State),
      s.lst.state = .test ∧
      micUsed s 1 = true :=
  ⟨0, 0, lstAs .test, by decide +kernel⟩

theorem case_ListenerStatesAndFaults_3_4 : ∃ (l0 : Int) (l1 : Int) (s : State),
      s.lst.state = .test ∧
      micUsed s 1 = false :=
  ⟨0, 0, { (State.reset) with lst := { (State.reset).lst with state := .test } }, by decide +kernel⟩

theorem case_ListenerStatesAndFaults_5_0 : ∃ (m : Nat) (s : State),
      m < 2 ∧
      micBiased s m = true ∧
      s.lst.state = .running ∧
      micUsed s m = true ∧
      micUsed s (1 - m) = true ∧
      micFaulty (micOf s (1 - m)) = true :=
  ⟨0, { lstState with lst := { lstState.lst with mic1 := { frames := 100, status := 1 } } }, by decide +kernel⟩

theorem case_ListenerStatesAndFaults_5_1 : ∃ (m : Nat) (s : State),
      m < 2 ∧
      micBiased s m = true ∧
      micFaulty (micOf s (1 - m)) = false ∧
      micUsed s (1 - m) = true :=
  ⟨0, lstState, by decide +kernel⟩

theorem case_ListenerStatesAndFaults_6_0 : ∃ (m : Nat) (s : State),
      m < 2 ∧
      s.lst.state ≠ .off ∧
      (micOf s m).biasOff = true ∧
      (micOf s m).biasGone = false ∧
      s.lst.state ≠ .fault :=
  ⟨1, lstMics { status := 2, biasOff := true }, by decide +kernel⟩

theorem case_ListenerStatesAndFaults_6_1 : ∃ (m : Nat) (s : State),
      m < 2 ∧
      s.lst.state ≠ .off ∧
      (micOf s m).biasOff = true ∧
      (micOf s m).biasGone = false ∧
      s.lst.state = .fault ∧
      micUsed s m = true :=
  ⟨1, { (lstMics { status := 2, biasOff := true }) with lst := { (lstMics { status := 2, biasOff := true }).lst with state := .fault } }, by decide +kernel⟩

theorem case_ListenerStatesAndFaults_7_0 : ∃ (m : Nat) (s : State),
      m < 2 ∧
      micBiased s m = true ∧
      (micOf s m).status ≠ 1 :=
  ⟨0, lstState, by decide +kernel⟩

theorem case_ListenerStatesAndFaults_7_1 : ∃ (m : Nat) (s : State),
      m < 2 ∧
      (micOf s m).status = 1 ∧
      s.lst.state ≠ .fault :=
  ⟨0, (modMic (lstState) 0 fun e => { (e) with status := 1 }), by decide +kernel⟩

theorem case_ListenerStatesAndFaults_7_2 : ∃ (m : Nat) (s : State),
      m < 2 ∧
      (micOf s m).status ≠ 1 :=
  ⟨0, lstState, by decide +kernel⟩

theorem case_ListenerStatesAndFaults_7_3 : ∃ (m : Nat) (s : State),
      m < 2 ∧
      s.lst.state ≠ .off ∧
      (micOf s m).silent = false :=
  ⟨0, lstState, by decide +kernel⟩

theorem case_ListenerStatesAndFaults_8_0 : ∃ (s : State),
      s.lst.state ≠ .off ∧
      ((s.now :: s.lst.clkLosses).filter fun t => decide (s.now < t + secNs 60)).length < 3 :=
  ⟨lstState, by decide +kernel⟩

theorem case_ListenerStatesAndFaults_8_1 : ∃ (s : State),
      s.lst.state ≠ .off ∧
      3 ≤ ((s.now :: s.lst.clkLosses).filter fun t => decide (s.now < t + secNs 60)).length :=
  ⟨{ lstState with lst := { lstState.lst with clkLosses := [0, 0] } }, by decide +kernel⟩

theorem case_HousekeepingConversions_0_0 : ∃ (k : Bank) (s : State),
      (hkConv s k).state ≠ .cal :=
  ⟨.a, State.reset, by decide +kernel⟩

theorem case_HousekeepingConversions_0_1 : ∃ (k : Bank) (s : State),
      (hkConv s k).state = .cal ∧
      hkRunsPaced s k = false :=
  ⟨.a, (modConv (State.reset) .a fun e => { (e) with state := .cal }), by decide +kernel⟩

theorem case_HousekeepingConversions_0_2 : ∃ (k : Bank) (s : State),
      (hkConv s k).state = .cal ∧
      hkRunsPaced s k = true ∧
      (hkConv s k).chans = [] ∧
      (hkConv s k).burst = 0 ∧
      (hkConv s k).urgent = none :=
  ⟨.a, hkAs { state := .cal }, by decide +kernel⟩

theorem case_HousekeepingConversions_0_3 : ∃ (k : Bank) (s : State),
      (hkConv s k).state = .cal :=
  ⟨.a, (modConv (State.reset) .a fun e => { (e) with state := .cal }), by decide +kernel⟩

theorem case_HousekeepingConversions_1_0 : ∃ (f : SbFrame) (w : BitVec 48) (e : LaunchEntry) (s : State) (s1 : State),
      LaunchReady s f 0x30 w s1 e ∧
      f.port.die = .svc ∧
      tokUnit w = 1 ∧
      hkMode s1 = 0 ∧
      hkPaced s1 .a = true ∧
      s1.hk.a.state = .idle ∧
      hkSetChans s1 .a (e.arg.toNat % 8) ≠ [] :=
  ⟨launchFrame ⟨.svc, 0⟩ 1 0x30 0, launchToken .svc 1 0x30 0, entry0, hkState, launched hkState ⟨.svc, 0⟩ 1 0x30 0, by decide +kernel⟩

theorem case_HousekeepingConversions_1_1 : ∃ (f : SbFrame) (w : BitVec 48) (e : LaunchEntry) (s : State) (s1 : State),
      LaunchReady s f 0x30 w s1 e ∧
      f.port.die = .svc ∧
      tokUnit w = 1 ∧
      hkMode s1 = 0 ∧
      hkPaced s1 .a = false :=
  ⟨launchFrame ⟨.svc, 0⟩ 1 0x30 0, launchToken .svc 1 0x30 0, entry0, launchState, launched launchState ⟨.svc, 0⟩ 1 0x30 0, by decide +kernel⟩

theorem case_HousekeepingConversions_3_0 : ∃ (k : Bank) (x : Int) (ch : Nat) (rest : List Nat) (s : State),
      ((hkConv s k).state = .scanning ∨ (hkConv s k).state = .starting) ∧
      hkMode s = 0 ∧
      (hkConv s k).urgent = none ∧
      (hkConv s k).chans = ch :: rest ∧
      ch < 24 ∧
      rest ≠ [] :=
  ⟨.a, 100, 11, [17], hkAs { state := .starting, chans := [11, 17], passes := 1 }, by decide +kernel⟩

theorem case_HousekeepingConversions_3_1 : ∃ (k : Bank) (x : Int) (ch : Nat) (rest : List Nat) (s : State),
      ((hkConv s k).state = .scanning ∨ (hkConv s k).state = .starting) ∧
      hkMode s = 0 ∧
      (hkConv s k).urgent = none ∧
      (hkConv s k).chans = ch :: rest ∧
      ch < 24 ∧
      rest = [] ∧
      (hkConv s k).passes ≠ 0 :=
  ⟨.a, 100, 11, [], hkAs { state := .starting, chans := [11], passes := 1 }, by decide +kernel⟩

theorem case_HousekeepingConversions_3_2 : ∃ (k : Bank) (x : Int) (ch : Nat) (rest : List Nat) (s : State),
      ((hkConv s k).state = .scanning ∨ (hkConv s k).state = .starting) ∧
      hkMode s = 0 ∧
      (hkConv s k).urgent = none ∧
      (hkConv s k).chans = ch :: rest ∧
      ch < 24 ∧
      rest = [] ∧
      (hkConv s k).passes = 0 :=
  ⟨.a, 100, 11, [], hkAs { state := .starting, chans := [11], passes := 0 }, by decide +kernel⟩

theorem case_HousekeepingConversions_6_0 : ∃ (k : Bank) (ch : Nat) (x : Int) (s : State),
      (hkTrimWord s k ch = 0 ∨ rb s 0x00090000 6 = false) ∧
      0 ≤ x ∧
      x ≤ 4095 :=
  ⟨.a, 0, 0, State.reset, by decide +kernel⟩

theorem case_HousekeepingConversions_6_1 : ∃ (k : Bank) (ch : Nat) (x : Int) (s : State),
      (hkTrimWord s k ch = 0 ∨ rb s 0x00090000 6 = false) ∧
      4096 ≤ x :=
  ⟨.a, 0, 4096, State.reset, by decide +kernel⟩

theorem case_HousekeepingConversions_7_0 : ∃ (k : Bank) (d : Nat) (s : State),
      hkConverting (hkConv s k) = true ∧
      d < 4 ∧
      nbit (hkConv s k).sliceOut.toNat d = false ∧
      (hkConv s k).sliceOut = 0 :=
  ⟨.a, 2, hkAs { state := .continuous }, by decide +kernel⟩

theorem case_HousekeepingConversions_7_1 : ∃ (k : Bank) (d : Nat) (s : State),
      hkConverting (hkConv s k) = true ∧
      d < 4 ∧
      nbit (hkConv s k).sliceOut.toNat d = false ∧
      (hkConv s k).sliceOut ≠ 0 :=
  ⟨.a, 2, (modConv (hkAs { state := .continuous }) .a fun e => { (e) with sliceOut := 1 }), by decide +kernel⟩

theorem case_HousekeepingConversions_10_0 : ∃ (p : Path) (v : Word) (s : State),
      s.hk.queue = [] :=
  ⟨.core, 0, State.reset, by decide +kernel⟩

theorem case_HousekeepingConversions_10_1 : ∃ (p : Path) (v : Word) (s : State) (e : Word × Word) (es : List (Word × Word)),
      s.hk.queue = e :: es :=
  ⟨.core, 0, { State.reset with hk := { queue := [(1, 2)] } }, (1, 2), [], by decide +kernel⟩

theorem case_HousekeepingConversions_10_2 : ∃ (p : Path) (v : Word) (s : State),
      hkPathOk s p = true :=
  ⟨.core, 0, State.reset, by decide +kernel⟩

theorem case_HousekeepingConversions_10_3 : ∃ (p : Path) (v : Word) (s : State),
      hkPathOk s p = false :=
  ⟨.jtag, 0, { State.reset with otp := { mirror := [(0x13, 1)] } }, by decide +kernel⟩

theorem case_FieldOutputs_0_0 : ∃ (s : State) (mask : Nat) (n : Nat),
      n < 4 ∧
      foOn s = false ∧
      (foOut s n).latched = false ∧
      s.fo.uvlo = false :=
  ⟨echoState, 5, 2, by decide +kernel⟩

theorem case_FieldOutputs_4_0 : ∃ (k : Nat) (s : State),
      k < 4 ∧
      foOn s = true ∧
      (foOut s k).pulseEnd = none :=
  ⟨0, (modOut (foHas { cmd := true, pulseEnd := some 4 }) 0 fun e => { (e) with pulseEnd := none }), by decide +kernel⟩

theorem case_FieldOutputs_5_0 : ∃ (p : Path) (v : Word) (s : State),
      fieldPathOk s p = false :=
  ⟨.jtag, 0, { State.reset with otp := { mirror := [(0x13, 1)] } }, by decide +kernel⟩

theorem case_FieldOutputs_5_1 : ∃ (p : Path) (v : Word) (s : State),
      fieldPathOk s p = true ∧
      foOn s = false :=
  ⟨.core, 0, State.reset, by decide +kernel⟩

theorem case_FieldOutputs_6_0 : ∃ (k : Nat) (o : Nat) (s : State),
      k < 4 ∧
      foLevel s k ≠ 0 :=
  ⟨1, 0, foLatched, by decide +kernel⟩

theorem case_FieldOutputs_6_1 : ∃ (k : Nat) (o : Nat) (s : State),
      k < 4 ∧
      foLevel s k ≠ 1 :=
  ⟨1, 0, foState, by decide +kernel⟩

theorem case_FieldOutputs_6_3 : ∃ (k : Nat) (o : Nat) (s : State),
      k < 4 ∧
      foLevel s k ≠ 2 :=
  ⟨1, 0, foState, by decide +kernel⟩

theorem case_FieldOutputs_8_0 : ∃ (k : Nat) (s : State),
      k < 4 ∧
      (rb s (0x000A0000 + 4 * k) 5 = false ∨ foLevel s k ≠ 1) :=
  ⟨0, foState, by decide +kernel⟩

theorem case_FieldOutputs_8_1 : ∃ (k : Nat) (s : State),
      k < 4 ∧
      rb s (0x000A0000 + 4 * k) 5 = true ∧
      foLevel s k = 1 :=
  ⟨0, { foHas { cmd := true } with regs := [(0x000A0000, 0x21), (0x000F8018, 8)] }, by decide +kernel⟩

theorem case_FieldOutputs_8_2 : ∃ (k : Nat) (s : State),
      k < 4 ∧
      (foOut s k).latched = true :=
  ⟨0, (modOut (foState) 0 fun e => { (e) with latched := true }), by decide +kernel⟩

theorem case_FieldOutputs_8_3 : ∃ (k : Nat) (s : State),
      k < 4 ∧
      (foOut s k).latched = false :=
  ⟨0, foState, by decide +kernel⟩

theorem case_FieldOutputs_9_0 : ∃ (k : Nat) (s : State),
      k < 4 ∧
      foPaired s k = false ∧
      (foOut s k).latched = true ∧
      (foRetries s k ≤ (foOut s k).used ∨ (foOut s k).thermal = true) :=
  ⟨0, (modOut (foLatched) 0 fun e => { (e) with used := 1000000000000 }), by decide +kernel⟩

theorem case_FieldOutputs_9_2 : ∃ (k : Nat) (s : State),
      k < 4 ∧
      foPaired s k = false ∧
      (foOut s k).latched = true ∧
      (foOut s k).used < foRetries s k ∧
      (foOut s k).thermal = true :=
  ⟨0, (modOut (foLatched) 0 fun e => { (e) with thermal := true }), by decide +kernel⟩

theorem case_FieldOutputs_9_3 : ∃ (k : Nat) (s : State),
      k < 4 ∧
      foPaired s k = false ∧
      (foOut s k).latched = true ∧
      (foOut s k).thermal = false :=
  ⟨0, foLatched, by decide +kernel⟩

theorem case_FieldOutputs_11_0 : ∃ (s : State),
      s.fo.uvlo = true :=
  ⟨{ (State.reset) with fo := { (State.reset).fo with uvlo := true } }, by decide +kernel⟩

theorem case_FieldOutputs_11_1 : ∃ (s : State),
      s.fo.uvlo = false :=
  ⟨State.reset, by decide +kernel⟩

theorem case_TamperBusesAndPins_0_0 : ∃ (k : Nat) (c : Nat) (r : Bool) (s : State),
      k < 2 ∧
      (teOf s k).state = .off :=
  ⟨0, 2562, true, (modTe (teOtp { state := .start, samples := List.replicate 15 2562 }) 0 fun e => { (e) with state := .off }), by decide +kernel⟩

theorem case_TamperBusesAndPins_0_1 : ∃ (k : Nat) (c : Nat) (r : Bool) (s : State),
      k < 2 ∧
      (teOf s k).state = .start ∧
      (teOf s k).samples.length < 15 :=
  ⟨0, 2562, true, (modTe (teOtp { state := .start, samples := List.replicate 15 2562 }) 0 fun e => { (e) with samples := (List.replicate 14 default) }), by decide +kernel⟩

theorem case_TamperBusesAndPins_0_2 : ∃ (k : Nat) (c : Nat) (r : Bool) (s : State),
      k < 2 ∧
      (teOf s k).state = .start ∧
      (teOf s k).samples.length = 15 ∧
      teValid s k = true ∧
      ((16 * ((c + (teOf s k).samples.sum : Nat) : Int) - 256 * teF s k).natAbs : Int) ≤ teOccl s :=
  ⟨0, 1840, true, teOtp { state := .start, samples := List.replicate 15 1840 }, by decide +kernel⟩

theorem case_TamperBusesAndPins_0_3 : ∃ (k : Nat) (c : Nat) (r : Bool) (s : State),
      k < 2 ∧
      (teOf s k).state = .start ∧
      (teOf s k).samples.length = 15 ∧
      teValid s k = true ∧
      teOccl s < ((16 * ((c + (teOf s k).samples.sum : Nat) : Int) - 256 * teF s k).natAbs : Int) ∧
      rb s 0x000B0000 3 = false :=
  ⟨0, 9000, true, { teOtp { state := .start, samples := List.replicate 15 9000 } with regs := [(0x000B0000, 3)] }, by decide +kernel⟩

theorem case_TamperBusesAndPins_1_0 : ∃ (k : Nat) (c : Nat) (r : Bool) (s : State),
      k < 2 ∧
      (teOf s k).state = .normal ∧
      ((256 * (c : Int) - (teOf s k).base).natAbs : Int) ≤ teClear s ∧
      teClear s ≤ teOccl s :=
  ⟨1, 0, true, teOtp { state := .normal, occRun := 19 }, by decide +kernel⟩

theorem case_TamperBusesAndPins_1_1 : ∃ (k : Nat) (c : Nat) (r : Bool) (s : State),
      k < 2 ∧
      (teOf s k).state = .normal ∧
      teClear s < ((256 * (c : Int) - (teOf s k).base).natAbs : Int) ∧
      teOccl s < ((256 * (c : Int) - (teOf s k).base).natAbs : Int) ∧
      (teOf s k).occRun < 19 :=
  ⟨1, 5000, true, teOtp { state := .normal, occRun := 18 }, by decide +kernel⟩

theorem case_TamperBusesAndPins_1_2 : ∃ (k : Nat) (c : Nat) (r : Bool) (s : State),
      k < 2 ∧
      (teOf s k).state = .normal ∧
      teOccl s < ((256 * (c : Int) - (teOf s k).base).natAbs : Int) ∧
      (teOf s k).occRun = 19 ∧
      rb s 0x000B0000 3 = false :=
  ⟨1, 5000, true, { teOtp { state := .normal, occRun := 19 } with regs := [(0x000B0000, 3)] }, by decide +kernel⟩

theorem case_TamperBusesAndPins_3_0 : ∃ (k : Nat) (s : State),
      k < 2 ∧
      teIsOccluded (teOf s k) = false :=
  ⟨1, echoState, by decide +kernel⟩

theorem case_TamperBusesAndPins_3_1 : ∃ (k : Nat) (s : State),
      k < 2 ∧
      teIsOccluded (teOf s k) = true :=
  ⟨1, teState { state := .occluded }, by decide +kernel⟩

theorem case_TamperBusesAndPins_3_2 : ∃ (k : Nat) (s : State),
      k < 2 ∧
      (teOf s k).state ≠ .off ∧
      (teOf s k).state ≠ .fault :=
  ⟨1, teState { state := .occluded }, by decide +kernel⟩

theorem case_TamperBusesAndPins_3_3 : ∃ (k : Nat) (s : State),
      k < 2 ∧
      (teOf s k).state ≠ .off :=
  ⟨1, teState { state := .occluded }, by decide +kernel⟩

theorem case_TamperBusesAndPins_5_0 : ∃ (p : Path) (v : Word) (free : Bool) (r : I2cResult) (s : State),
      p ≠ .core :=
  ⟨.bcp, 0, false, .nackAddr, State.reset, by decide +kernel⟩

theorem case_TamperBusesAndPins_5_1 : ∃ (p : Path) (v : Word) (free : Bool) (r : I2cResult) (s : State),
      wbits v 31 24 ≠ 0xC2 :=
  ⟨.core, 0, false, default, State.reset, by decide +kernel⟩

theorem case_TamperBusesAndPins_5_2 : ∃ (p : Path) (v : Word) (free : Bool) (r : I2cResult) (s : State),
      wbits v 31 24 = 0xC2 ∧
      (rb s 0x000C0000 10 = false ∨ s.bus.xfer ≠ none) :=
  ⟨.core, ((0) ||| (0xC2) * (2^24)), false, default, State.reset, by decide +kernel⟩

theorem case_TamperBusesAndPins_6_0 : ∃ (v : Word) (r : I2cResult) (s : State),
      wbits v 31 24 = 0xC2 ∧
      wbits v 13 8 ≤ 32 ∧
      wbit v 7 = false ∧
      rb s 0x000C0000 10 = true ∧
      s.bus.xfer = none ∧
      wbits v 6 0 = rf s 0x000C0000 6 0 :=
  ⟨0xC200023A, .nackAddr, i2cState none, by decide +kernel⟩

theorem case_TamperBusesAndPins_6_1 : ∃ (v : Word) (r : I2cResult) (s : State),
      wbits v 31 24 = 0xC2 ∧
      wbits v 13 8 ≤ 32 ∧
      wbit v 7 = false ∧
      rb s 0x000C0000 10 = true ∧
      s.bus.xfer = none ∧
      wbits v 6 0 ≠ rf s 0x000C0000 6 0 :=
  ⟨0xC2000250, .nackAddr, i2cState none, by decide +kernel⟩

theorem case_TamperBusesAndPins_6_2 : ∃ (v : Word) (r : I2cResult) (s : State),
      wbits v 31 24 = 0xC2 ∧
      wbits v 13 8 ≤ 32 ∧
      wbit v 7 = false ∧
      rb s 0x000C0000 10 = true ∧
      s.bus.xfer = none ∧
      wbits v 6 0 ≠ rf s 0x000C0000 6 0 :=
  ⟨0xC2000250, .nackAddr, i2cState none, by decide +kernel⟩

theorem case_TamperBusesAndPins_7_0 : ∃ (x : I2cXfer) (r : I2cResult) (b : Nat) (o : Bool) (s : State),
      s.bus.xfer = some x ∧
      x.waiting = true :=
  ⟨{ ({ (default : I2cXfer) with losses := 3 }) with waiting := true }, .nackAddr, 5, true, i2cState (some { ({ (default : I2cXfer) with losses := 3 }) with waiting := true }), by decide +kernel⟩

theorem case_TamperBusesAndPins_7_1 : ∃ (x : I2cXfer) (r : I2cResult) (b : Nat) (o : Bool) (s : State),
      s.bus.xfer = some x ∧
      x.waiting = false :=
  ⟨{ (default : I2cXfer) with losses := 3 }, .nackAddr, 5, true, i2cState (some { (default : I2cXfer) with losses := 3 }), by decide +kernel⟩

theorem case_TamperBusesAndPins_7_2 : ∃ (x : I2cXfer) (r : I2cResult) (b : Nat) (o : Bool) (s : State),
      s.bus.xfer = some x ∧
      x.waiting = false ∧
      x.losses ≠ 0 ∧
      x.losses < 3 :=
  ⟨{ ({ (default : I2cXfer) with losses := 3 }) with losses := 1 }, .nackAddr, 5, true, i2cState (some { ({ (default : I2cXfer) with losses := 3 }) with losses := 1 }), by decide +kernel⟩

theorem case_TamperBusesAndPins_7_3 : ∃ (x : I2cXfer) (r : I2cResult) (b : Nat) (o : Bool) (s : State),
      s.bus.xfer = some x ∧
      x.waiting = false ∧
      x.losses = 3 :=
  ⟨{ (default : I2cXfer) with losses := 3 }, .nackAddr, 5, true, i2cState (some { (default : I2cXfer) with losses := 3 }), by decide +kernel⟩

theorem case_TamperBusesAndPins_8_0 : ∃ (r : I2cResult) (s : State),
      s.bus.xfer = none :=
  ⟨default, State.reset, by decide +kernel⟩

theorem case_TamperBusesAndPins_9_0 : ∃ (k : Nat) (up : Bool) (s : State),
      k < 8 ∧
      rb s (0x000C0300 + 4 * k) 6 = false ∧
      (gpioInput s k = false ∨ gpioMatch s k up = false) :=
  ⟨3, true, foState, by decide +kernel⟩

theorem case_TamperBusesAndPins_9_1 : ∃ (k : Nat) (up : Bool) (s : State),
      k < 8 ∧
      rb s (0x000C0300 + 4 * k) 6 = false ∧
      gpioInput s k = true ∧
      gpioMatch s k up = true :=
  ⟨3, true, { foState with regs := [(0x000C030C, 0x30), (0x000F8018, 8)] }, by decide +kernel⟩

theorem case_CheckContexts_2_0 : ∃ (p : Path) (k : Nat) (n : Nat) (v : Word) (s : State),
      k < 4 ∧
      cvPathOk s p = false :=
  ⟨.i2c, 0, 1, 5, cvState, by decide +kernel⟩

theorem case_CheckContexts_2_1 : ∃ (p : Path) (k : Nat) (n : Nat) (v : Word) (s : State),
      k < 4 ∧
      cvPathOk s p = true ∧
      (vget s.cv k).bound ≠ some p :=
  ⟨.core, 0, 1, 5, foState, by decide +kernel⟩

theorem case_CheckContexts_2_2 : ∃ (p : Path) (k : Nat) (n : Nat) (v : Word) (s : State),
      k < 4 ∧
      cvPathOk s p = true ∧
      (vget s.cv k).bound = some p ∧
      (vget s.cv k).busy = true :=
  ⟨.core, 0, 1, 5, cvBusy, by decide +kernel⟩

theorem case_CheckContexts_4_0 : ∃ (p : Path) (k : Nat) (src : Nat) (len : Nat) (v : Word) (s : State) (s1 : State),
      k < 4 ∧
      cvPathOk s p = true ∧
      (vget s.cv k).bound = some p ∧
      (vget s.cv k).busy = false ∧
      wbit v 4 = false ∧
      wbit v 5 = false ∧
      s1 = rput s (cvBase k) ((v ||| 0x40) &&& 0x8F) ∧
      src = rnat s1 (cvBase k + 0x20) ∧
      len = rf s1 (cvBase k + 0x24) 22 0 ∧
      (src % 4 ≠ 0 ∨ len = 0 ∨ src < 0x00400000 ∨ 0x00800000 < src + len) :=
  ⟨.core, 1, 0x00400002, 4, 0, { cvState with regs := [(0x000D0100, 4), (0x000D0120, 0x00400002), (0x000D0124, 4)] }, rput { cvState with regs := [(0x000D0100, 4), (0x000D0120, 0x00400002), (0x000D0124, 4)] } (cvBase 1) ((0 ||| 0x40) &&& 0x8F), by decide +kernel⟩

theorem case_CheckContexts_4_1 : ∃ (p : Path) (k : Nat) (src : Nat) (len : Nat) (v : Word) (s : State) (s1 : State),
      k < 4 ∧
      cvPathOk s p = true ∧
      (vget s.cv k).bound = some p ∧
      (vget s.cv k).busy = false ∧
      wbit v 4 = false ∧
      wbit v 5 = false ∧
      s1 = rput s (cvBase k) ((v ||| 0x40) &&& 0x8F) ∧
      src = rnat s1 (cvBase k + 0x20) ∧
      len = rf s1 (cvBase k + 0x24) 22 0 ∧
      src % 4 = 0 ∧
      len ≠ 0 ∧
      0x00400000 ≤ src ∧
      src + len ≤ 0x00800000 :=
  ⟨.core, 1, 0x00400000, 4, 0, cvState, rput cvState (cvBase 1) ((0 ||| 0x40) &&& 0x8F), by decide +kernel⟩

theorem case_CheckContexts_7_0 : ∃ (p : Path) (k : Nat) (v : Word) (s : State) (s1 : State),
      k < 4 ∧
      cvPathOk s p = true ∧
      wbit v 4 = false ∧
      wbit v 6 = false ∧
      s1 = rput s (cvBase k) ((v ||| 0x20) &&& 0x8F) ∧
      (rb s1 (cvBase k) 2 = false ∨ cvResult (vget s.cv k) = rnat s1 (cvBase k + 0x10) % 2 ^ crcWidth (vget s.cv k).alg) :=
  ⟨.core, 1, 0, cvState, rput cvState (cvBase 1) ((0 ||| 0x20) &&& 0x8F), by decide +kernel⟩

theorem case_CheckContexts_7_1 : ∃ (p : Path) (k : Nat) (v : Word) (s : State) (s1 : State),
      k < 4 ∧
      cvPathOk s p = true ∧
      wbit v 4 = false ∧
      wbit v 6 = false ∧
      s1 = rput s (cvBase k) ((v ||| 0x20) &&& 0x8F) ∧
      rb s1 (cvBase k) 2 = true ∧
      cvResult (vget s.cv k) ≠ rnat s1 (cvBase k + 0x10) % 2 ^ crcWidth (vget s.cv k).alg :=
  ⟨.core, 1, 4, cvState, rput cvState (cvBase 1) ((4 ||| 0x20) &&& 0x8F), by decide +kernel⟩

theorem case_CheckContexts_7_2 : ∃ (p : Path) (k : Nat) (v : Word) (s : State) (s1 : State),
      k < 4 ∧
      cvPathOk s p = true ∧
      wbit v 4 = false ∧
      wbit v 6 = false ∧
      s1 = rput s (cvBase k) ((v ||| 0x20) &&& 0x8F) ∧
      rb s1 (cvBase k) 2 = true ∧
      cvResult (vget s.cv k) ≠ rnat s1 (cvBase k + 0x10) % 2 ^ crcWidth (vget s.cv k).alg ∧
      rb s1 (cvBase k) 3 = false :=
  ⟨.core, 1, 4, cvState, rput cvState (cvBase 1) ((4 ||| 0x20) &&& 0x8F), by decide +kernel⟩

theorem case_CheckContexts_7_3 : ∃ (p : Path) (k : Nat) (v : Word) (s : State) (s1 : State),
      k < 4 ∧
      cvPathOk s p = true ∧
      wbit v 4 = false ∧
      wbit v 6 = false ∧
      s1 = rput s (cvBase k) ((v ||| 0x20) &&& 0x8F) ∧
      rb s1 (cvBase k) 2 = true ∧
      cvResult (vget s.cv k) ≠ rnat s1 (cvBase k + 0x10) % 2 ^ crcWidth (vget s.cv k).alg ∧
      rb s1 (cvBase k) 3 = true :=
  ⟨.core, 1, 12, cvState, rput cvState (cvBase 1) ((12 ||| 0x20) &&& 0x8F), by decide +kernel⟩

theorem case_TroubleLogIntakeAndWriter_1_0 : ∃ (l : LogSt),
      l.total ≠ l.base :=
  ⟨{ total := 1 }, by decide +kernel⟩

theorem case_TroubleLogIntakeAndWriter_1_1 : ∃ (l : LogSt),
      l.ring.length ≤ 4096 :=
  ⟨default, by decide +kernel⟩

theorem case_TroubleLogIntakeAndWriter_2_0 : ∃ (e : Event) (s : State),
      fitted s e.die = true ∧
      s.log.frozen = true :=
  ⟨evA, { (State.reset) with log := { (State.reset).log with frozen := true } }, by decide +kernel⟩

theorem case_TroubleLogIntakeAndWriter_2_1 : ∃ (e : Event) (s : State),
      fitted s e.die = true ∧
      s.log.frozen = false ∧
      e.code ≠ Code.logLost ∧
      e.sev < rf s 0x000E0000 2 1 :=
  ⟨evA, { State.reset with regs := [(0x000E0000, 6)] }, by decide +kernel⟩

theorem case_TroubleLogIntakeAndWriter_2_2 : ∃ (e : Event) (s : State),
      fitted s e.die = true ∧
      s.log.frozen = false ∧
      ((e.code = Code.logLost ∨ rf s 0x000E0000 2 1 ≤ e.sev)) ∧
      e.sev = 3 ∧
      s.log.fatal.length < 4 :=
  ⟨{ (evA) with sev := 3 }, State.reset, by decide +kernel⟩

theorem case_TroubleLogIntakeAndWriter_2_3 : ∃ (e : Event) (s : State),
      fitted s e.die = true ∧
      s.log.frozen = false ∧
      ((e.code = Code.logLost ∨ rf s 0x000E0000 2 1 ≤ e.sev)) ∧
      e.sev ≠ 3 ∧
      s.log.intake.length < 16 :=
  ⟨evA, State.reset, by decide +kernel⟩

theorem case_TroubleLogIntakeAndWriter_2_4 : ∃ (e : Event) (s : State),
      fitted s e.die = true ∧
      s.log.frozen = false ∧
      ((e.code = Code.logLost ∨ rf s 0x000E0000 2 1 ≤ e.sev)) ∧
      e.sev ≠ 3 ∧
      16 ≤ s.log.intake.length :=
  ⟨evA, { State.reset with log := { intake := List.replicate 16 evA } }, by decide +kernel⟩

theorem case_TroubleLogIntakeAndWriter_4_0 : ∃ (e : Event) (es : List Event) (s : State),
      s.log.special = [] ∧
      s.log.frozen = false ∧
      s.log.fatal = [] ∧
      s.log.intake = e :: es ∧
      e.sev ≠ 3 ∧
      e.code ≠ Code.logFrozen ∧
      s.log.post = none ∧
      s.log.gap = none :=
  ⟨evA, [], { (logState { intake := [evA], gap := some ⟨1, 5, 5⟩ }) with log := { (logState { intake := [evA], gap := some ⟨1, 5, 5⟩ }).log with gap := none } }, by decide +kernel⟩

theorem case_TroubleLogIntakeAndWriter_4_1 : ∃ (e : Event) (es : List Event) (s : State) (g : Gap),
      s.log.special = [] ∧
      s.log.frozen = false ∧
      s.log.fatal = [] ∧
      s.log.intake = e :: es ∧
      e.sev ≠ 3 ∧
      e.code ≠ Code.logFrozen ∧
      s.log.post = none ∧
      s.log.gap = some g :=
  ⟨evA, [], logState { intake := [evA], gap := some ⟨1, 5, 5⟩ }, ⟨1, 5, 5⟩, by decide +kernel⟩

theorem case_TroubleLogIntakeAndWriter_6_0 : ∃ (r : LinkRx) (x : Parcel) (s : State) (s1 : State),
      portOk s r.port = true ∧
      linkReceive s r = (some x, s1) ∧
      x.vc = 0 ∧
      x.kind = 0xA ∧
      (eventOf x.payload).health = false :=
  ⟨recv ⟨.svc, 0⟩ eventP, eventP, upState, (linkReceive upState (recv ⟨.svc, 0⟩ eventP)).2, by decide +kernel⟩

theorem case_TroubleLogCommandsAndReads_0_0 : ∃ (p : Path) (v : Word) (s : State),
      logPathOk s p = false :=
  ⟨.jtag, 0, { State.reset with otp := { mirror := [(0x13, 1)] } }, by decide +kernel⟩

theorem case_TroubleLogCommandsAndReads_0_1 : ∃ (p : Path) (v : Word) (s : State),
      logPathOk s p = true ∧
      wbits v 31 16 ≠ 0x10C6 :=
  ⟨.core, 0, State.reset, by decide +kernel⟩

theorem case_TroubleLogCommandsAndReads_0_2 : ∃ (p : Path) (v : Word) (s : State),
      logPathOk s p = true ∧
      s.log.frozen = false :=
  ⟨.core, 0, State.reset, by decide +kernel⟩

theorem case_TroubleLogCommandsAndReads_3_0 : ∃ (p : Path) (i : Word) (r : LogRecord) (ecc : Bool) (s : State),
      (vget s.logRd p.idx).idx = i ∧
      s.log.find i = some r :=
  ⟨.jtag, 0, default, false, logState { total := 1, ring := [default] }, by decide +kernel⟩

theorem case_TroubleLogCommandsAndReads_3_1 : ∃ (p : Path) (i : Word) (r : LogRecord) (ecc : Bool) (s : State),
      (vget s.logRd p.idx).idx = i ∧
      s.log.find i = none :=
  ⟨.jtag, 0, default, false, logState {}, by decide +kernel⟩

theorem case_HeatPowerAndSeasons_0_0 : ∃ (l : Nat) (rise : List Nat) (fall : List Nat),
      l ≤ 3 ∧
      4 ≤ lget 0 rise 2 ∧
      l < 3 :=
  ⟨2, [0, 0, 4, 0], [0, 0, 0], by decide +kernel⟩

theorem case_HeatPowerAndSeasons_0_1 : ∃ (l : Nat) (rise : List Nat) (fall : List Nat),
      l ≤ 3 ∧
      lget 0 rise 0 < 4 ∧
      lget 0 rise 1 < 4 ∧
      lget 0 rise 2 < 4 :=
  ⟨2, [0, 3, 3, 0], [0, 4, 4], by decide +kernel⟩

theorem case_HeatPowerAndSeasons_0_2 : ∃ (l : Nat) (rise : List Nat) (fall : List Nat),
      l ≤ 3 ∧
      lget 0 rise 0 < 4 ∧
      lget 0 rise 1 < 4 ∧
      lget 0 rise 2 < 4 ∧
      lget 0 fall 0 < 4 ∧
      lget 0 fall 1 < 4 ∧
      lget 0 fall 2 < 4 :=
  ⟨2, [0, 3, 3, 0], [0, 3, 3], by decide +kernel⟩

theorem case_HeatPowerAndSeasons_1_0 : ∃ (temps : List Int) (s : State) (s1 : State),
      s.boot.phase ≠ 0 ∧
      s1 = tempDefects (tjMax (tjSample s temps)) ∧
      lget 0 (runsOf s1.power.riseRun (tjEnter.map fun x => decide (x ≤ s1.power.tmax))) 3 < 3 :=
  ⟨List.replicate 6 440, confirmState, tempDefects (tjMax (tjSample confirmState (List.replicate 6 440))), by decide +kernel⟩

theorem case_HeatPowerAndSeasons_1_1 : ∃ (temps : List Int) (s : State) (s1 : State),
      s.boot.phase ≠ 0 ∧
      s1 = tempDefects (tjMax (tjSample s temps)) ∧
      3 ≤ lget 0 (runsOf s1.power.riseRun (tjEnter.map fun x => decide (x ≤ s1.power.tmax))) 3 ∧
      11 ≤ s.boot.phase ∧
      s.boot.phase ≤ 17 ∧
      s.power.season ≠ .thermalStop ∧
      s.power.halted = false :=
  ⟨List.replicate 6 440, hotState, tempDefects (tjMax (tjSample hotState (List.replicate 6 440))), by decide +kernel⟩

theorem case_HeatPowerAndSeasons_3_0 : ∃ (s : State),
      s.power.season ≠ .thermalStop :=
  ⟨State.reset, by decide +kernel⟩

theorem case_HeatPowerAndSeasons_3_1 : ∃ (s : State),
      s.power.season = .thermalStop :=
  ⟨{ (State.reset) with power := { (State.reset).power with season := .thermalStop } }, by decide +kernel⟩

theorem case_HeatPowerAndSeasons_4_0 : ∃ (s : State),
      rnat s 0x00030030 = 0 :=
  ⟨State.reset, by decide +kernel⟩

theorem case_HeatPowerAndSeasons_4_1 : ∃ (s : State),
      rnat s 0x00030030 ≠ 0 ∧
      rnat s 0x00030030 < s.power.pwr1s ∧
      s.power.overRun = 2 ∧
      s.power.pLevel < 3 :=
  ⟨{ foState with regs := [(0x00030030, 10000)], power := { foState.power with pwr1s := 20000, overRun := 2 } }, by decide +kernel⟩

theorem case_HeatPowerAndSeasons_4_2 : ∃ (s : State),
      rnat s 0x00030030 ≠ 0 ∧
      rnat s 0x00030030 < s.power.pwr1s ∧
      s.power.overRun < 2 :=
  ⟨{ foState with regs := [(0x00030030, 10000)], power := { foState.power with pwr1s := 20000 } }, by decide +kernel⟩

theorem case_HeatPowerAndSeasons_4_3 : ∃ (s : State),
      rnat s 0x00030030 ≠ 0 ∧
      100 * s.power.pwr1s < 85 * rnat s 0x00030030 ∧
      s.power.underRun = 9 :=
  ⟨{ foState with regs := [(0x00030030, 10000)], power := { foState.power with underRun := 9 } }, by decide +kernel⟩

theorem case_HeatPowerAndSeasons_5_0 : ∃ (p : Path) (v : Word) (s : State),
      powerPathOk s p = false :=
  ⟨.jtag, 0, { State.reset with otp := { mirror := [(0x13, 1)] } }, by decide +kernel⟩

theorem case_HeatPowerAndSeasons_5_1 : ∃ (p : Path) (v : Word) (s : State),
      powerPathOk s p = true ∧
      wbits v 31 16 ≠ 0x5EA5 :=
  ⟨.core, 0, State.reset, by decide +kernel⟩

theorem case_HeatPowerAndSeasons_5_2 : ∃ (p : Path) (v : Word) (s : State),
      powerPathOk s p = true ∧
      wbits v 31 16 = 0x5EA5 ∧
      wbits v 1 0 = 1 ∧
      (s.power.season = .dormant ∨ s.power.season = .spring) :=
  ⟨.core, ((((0) ||| (0x5EA5) * (2^16))) ||| (1) * (2^0)), State.reset, by decide +kernel⟩

theorem case_HeatPowerAndSeasons_5_3 : ∃ (p : Path) (v : Word) (s : State),
      powerPathOk s p = true ∧
      wbits v 31 16 = 0x5EA5 ∧
      wbits v 1 0 = 1 ∧
      summerOrAutumn s.power.season = true :=
  ⟨.core, 0x5EA50001, seasonState .summer, by decide +kernel⟩

theorem case_HeatPowerAndSeasons_5_4 : ∃ (p : Path) (v : Word) (s : State),
      powerPathOk s p = true ∧
      wbits v 31 16 = 0x5EA5 ∧
      wbits v 1 0 = 2 ∧
      s.power.season ≠ .winter :=
  ⟨.core, ((((0) ||| (0x5EA5) * (2^16))) ||| (2) * (2^0)), State.reset, by decide +kernel⟩

theorem case_HeatPowerAndSeasons_5_5 : ∃ (p : Path) (v : Word) (s : State),
      powerPathOk s p = true ∧
      wbits v 31 16 = 0x5EA5 ∧
      wbits v 1 0 = 2 ∧
      s.power.season = .winter :=
  ⟨.core, ((((0) ||| (0x5EA5) * (2^16))) ||| (2) * (2^0)), { (State.reset) with power := { (State.reset).power with season := .winter } }, by decide +kernel⟩

theorem case_HeatPowerAndSeasons_6_0 : ∃ (s : State),
      ¬(s.power.season = .spring ∧ s.boot.phase = 17) :=
  ⟨State.reset, by decide +kernel⟩

theorem case_HeatPowerAndSeasons_6_1 : ∃ (s : State),
      s.power.season = .spring ∧
      s.boot.phase = 17 :=
  ⟨{ (State.reset) with boot := { (State.reset).boot with phase := 17 } }, by decide +kernel⟩

theorem case_HeatPowerAndSeasons_6_2 : ∃ (s : State),
      s.power.season = .winter ∧
      s.power.windowOpen = true :=
  ⟨{ ({ (State.reset) with power := { (State.reset).power with season := .winter } }) with power := { ({ (State.reset) with power := { (State.reset).power with season := .winter } }).power with windowOpen := true } }, by decide +kernel⟩

theorem case_HeatPowerAndSeasons_6_3 : ∃ (s : State),
      (s.power.season ≠ .winter ∨ s.power.windowOpen = false) :=
  ⟨State.reset, by decide +kernel⟩

theorem case_HeatPowerAndSeasons_7_0 : ∃ (b : Bool) (s : State),
      s.power.voutBad = true :=
  ⟨false, { (State.reset) with power := { (State.reset).power with voutBad := true } }, by decide +kernel⟩

theorem case_HeatPowerAndSeasons_7_1 : ∃ (b : Bool) (s : State),
      s.power.voutBad = false :=
  ⟨false, State.reset, by decide +kernel⟩

theorem case_HeatPowerAndSeasons_7_2 : ∃ (b : Bool) (s : State),
      s.power.halted = true :=
  ⟨false, { (State.reset) with power := { (State.reset).power with halted := true } }, by decide +kernel⟩

theorem case_HeatPowerAndSeasons_7_3 : ∃ (b : Bool) (s : State),
      s.power.halted = false :=
  ⟨false, State.reset, by decide +kernel⟩

theorem case_HeatPowerAndSeasons_8_0 : ∃ (d : Nat) (s : State),
      d < 76 ∧
      fitted s (domainDie d) = true ∧
      63 ≤ d :=
  ⟨63, foState, by decide +kernel⟩

theorem case_HeatPowerAndSeasons_8_1 : ∃ (d : Nat) (s : State),
      d < 76 ∧
      fitted s (domainDie d) = true ∧
      d < 63 :=
  ⟨5, foState, by decide +kernel⟩

end Sys2Proof.Tests
end

