-- ==== Sys2Proof/Tests/Slice0.lean ====
section
/-! SUPPORT. Tests of the model: WellFormed refuses an ill-formed term of each check, and the worked examples and tables of the spec. -/
namespace Sys2Proof.Tests
open Sys2Proof Sys2Proof.Machine
set_option Elab.async false

/-! ### Well-formed and ill-formed commands -/

/-- A parcel within Table 6.1. -/
def okParcel : Parcel := { src := 0, dst := 6, vc := 1, cls := 1, kind := 0, tag := 0, plen := 2, arg := 0, payload := [1, 2] }
def okTrailer : Trailer := { seq := 0, ack := 0, av := false, nak := false, u := false, cvc := 7, cnt := 0 }
def okRx : LinkRx := ⟨⟨.svc, 0⟩, okParcel, okTrailer⟩

theorem test_wf_parcel : okParcel.wf = true ∧ { okParcel with src := 16 }.wf = false ∧ { okParcel with vc := 6 }.wf = false ∧
    { okParcel with cls := 16 }.wf = false ∧ { okParcel with tag := 256 }.wf = false ∧ { okParcel with plen := 3 }.wf = false := by decide
theorem test_wf_trailer : okTrailer.wf = true ∧ { okTrailer with seq := 1024 }.wf = false ∧ { okTrailer with ack := 1024 }.wf = false ∧
    { okTrailer with cvc := 8 }.wf = false ∧ { okTrailer with cnt := 65536 }.wf = false := by decide
theorem test_wf_received : (Instr.stream okRx).wellFormed = true ∧ (Instr.stream { okRx with port := ⟨.svc, 2⟩ }).wellFormed = false ∧
    (Instr.nul okRx (List.replicate 5 0)).wellFormed = false := by decide
theorem test_wf_frames : (Instr.runGroup ⟨⟨.cd0, 3⟩, 0, 0, 0⟩).wellFormed = true ∧ (Instr.runGroup ⟨⟨.cd0, 4⟩, 0, 0, 0⟩).wellFormed = false := by decide
theorem test_wf_ports : (Instr.nulDue ⟨.eye, 4⟩).wellFormed = true ∧ (Instr.nulDue ⟨.eye, 5⟩).wellFormed = false ∧
    (Instr.bundleClkLost ⟨.eye, 4⟩ 2).wellFormed = false ∧ (Instr.portHoldEnd 2).wellFormed = false := by decide
theorem test_wf_launch : (Instr.launchSend 511).wellFormed = true ∧ (Instr.launchSend 512).wellFormed = false ∧
    (Instr.latenessExceedsSlack .cd0 16).wellFormed = false ∧ (Instr.epochDoneSend .svc).wellFormed = false ∧
    (Instr.latencyMeasure .svc (List.replicate 16 0) (List.replicate 16 0)).wellFormed = false ∧
    (Instr.latencyMeasure .eye [] (List.replicate 16 0)).wellFormed = false := by decide
theorem test_wf_ledger : (Instr.ledgerLocalWrite .cd1 2047 60 [1, 2, 3, 4]).wellFormed = true ∧ (Instr.ledgerLocalWrite .eye 0 0 []).wellFormed = false ∧
    (Instr.ledgerLocalWrite .cd1 2048 0 []).wellFormed = false ∧ (Instr.ledgerLocalWrite .cd1 0 62 [1, 2, 3]).wellFormed = false := by decide
theorem test_wf_dies : (Instr.sinkEnd 3).wellFormed = true ∧ (Instr.sinkEnd 4).wellFormed = false ∧ (Instr.dieHoldSet .core .svc).wellFormed = false ∧
    (Instr.readTimeout 0 256).wellFormed = false ∧ (Instr.weightChunkRewrite 0 64 []).wellFormed = false ∧ (Instr.clusterStall 0 4).wellFormed = false := by decide
theorem test_wf_units : (Instr.micOpen 2).wellFormed = false ∧ (Instr.foRetry 4).wellFormed = false ∧ (Instr.foFaultLatch .pair 0 4).wellFormed = false ∧
    (Instr.tamperFault 2).wellFormed = false ∧ (Instr.gpioEdge 8 true).wellFormed = false ∧ (Instr.cvDmaDone 4 false).wellFormed = false ∧
    (Instr.logRdDataRead .core 8 false).wellFormed = false ∧ (Instr.domainPowerFault 76).wellFormed = false ∧
    (Instr.thermalSample []).wellFormed = false := by decide

/-! ### The queue -/

/-- The queue is empty after reset. -/
theorem test_reset_queue : State.reset.pending = [] := rfl
/-- A step takes the command at the front. -/
theorem test_step_front : step { State.reset with pending := [.wakeHoldExpire, .logWrite] } = exec .wakeHoldExpire { State.reset with pending := [.logWrite] } := rfl
/-- No row of the table has bits. -/
theorem test_no_words : decodeTableWord 16 5 = none := rfl

/-! ### Registers (chapter 24) -/

/-- Identity values of Table 24.6. -/
theorem test_identity : chipId State.reset = 0x77200B00 ∧ chipId { State.reset with part := .bx7710 } = 0x77100B00 ∧
    regDefault .bx7720 0x0001001C = 0xF2 ∧ regDefault .bx7710 0x0001001C = 0x52 := by decide +kernel
/-- The addresses of the worked example of chapter 24: QMON_SQNR of slot 5 of CD2, and EDL_LINK_STATUS of CD3's CCW port. -/
theorem test_addresses : (regAt .bx7720 0x124010A4).map (fun r => (r.1.name, r.2)) = some ("QMON_SQNR", 5) ∧
    (regAt .bx7720 0x13502100).map (fun r => r.1.name) = some "EDL_LINK_STATUS" ∧ (regAt .bx7710 0x13502100).isNone = true ∧
    (regAt .bx7720 0x00050058).isNone = true ∧ (regAt .bx7720 0x12510000).isNone = true ∧ (regAt .bx7720 0x12508040).isNone = true := by decide +kernel
/-- Reset values named in Tables 18.6, 19.7, 21.11 and the table of R651. -/
theorem test_reset_values : rnat State.reset 0x0009000C = 64 ∧ rnat State.reset 0x000B000C = 0x00190032 ∧ rnat State.reset 0x000C0000 = 0xBA ∧
    rnat State.reset 0x00030034 = 0x012C02BC ∧ rf State.reset 0x00030004 23 16 = 20 := by decide +kernel

/-! ### Codes and checks (chapter 20) -/

/-- The codes that R616 spells out. -/
theorem test_codes : Code.frameMissing = 0x4001 ∧ Code.epochSummary = 0x1005 ∧ Code.foShortHi = 0x8001 ∧ Code.remoteHeldWrite = 0x3104 ∧
    Code.logLost = 0xB101 ∧ Code.tokenBad = 0x1100 ∧ Code.seasonChange = 0xC001 ∧ Code.vcoreStep = 0xC100 := by decide
/-- The check values of Table 20.1 over the bytes "123456789". -/
theorem test_crc : crcOf 0 ((List.range 9).map fun i => BitVec.ofNat 8 (0x31 + i)) = 0xCBF43926 ∧ crcOf 1 ((List.range 9).map fun i => BitVec.ofNat 8 (0x31 + i)) = 0xE3069283 ∧
    crcOf 2 ((List.range 9).map fun i => BitVec.ofNat 8 (0x31 + i)) = 0x29B1 ∧ crcOf 3 ((List.range 9).map fun i => BitVec.ofNat 8 (0x31 + i)) = 0xF4 := by decide +kernel
/-- Table 20.6: with the queue full, E19 to E25 coalesce into E18 with REPEAT 8, and the unlike TOKEN_BAD opens a gap of 1. -/
theorem test_coalesce :
    let e : Event := { die := .cd1, unit := 4, code := 0x3104, sev := 2 }
    ((List.range 7).foldl (fun (q : List Event) _ => (coalesce q none e).1) [e]).map (fun x => (x.rep, x.coalesced)) = [(8, true)] ∧
    (coalesce [e] none { e with die := .eye, code := 0x1100 }).2.1.map (·.count) = some 1 := by decide

/-! ### Numbers -/

/-- The worked example of chapter 13: T[586] = 59,714. -/
theorem test_sigmoid : sigmoid 586 = 59714 ∧ sigmoid 511 + sigmoid 512 = 65535 := by decide +kernel
/-- The worked example of chapter 11: 0.03125 × 1.25 × 17/16 = 0.04150390625. -/
theorem test_adapt : adaptScale 0x3D000000 ⟨5, 4⟩ = some 0x3D2A0000 := by decide +kernel
/-- The worked example of chapter 8: short 500 µs and long 4000 µs fit a window of 7 ms with k = 3, and are not clamped. -/
theorem test_dual_exposure : dualTime 42000000 500 4000 = some (500, 3, false) := by decide +kernel
/-- The worked example of chapter 5: bundle 1 with wires 17, 40, 41, 44 and 45 failed and SPARE[2] failed is HALF_LO with map word 0x0080_0051. -/
theorem test_steer : steer [(0, 17)] (maskOf [17, 40, 41, 44, 45]) [0, 1, 3] false = (.halfLo, [(0, 17)]) ∧ liveMap [(0, 17)] [2] = 0x00800051 := by decide +kernel
/-- The worked examples of chapter 18: channel 11 and channel 17 with their trims. -/
theorem test_hk_correct :
    let s : State := { State.reset with regs := [(0x00090000, 0x40), (0x0009042C, 0x1FA03), (0x00090444, 0x102FF)] }
    hkCorrect s .a 11 2731 = (2724, false) ∧ hkCorrect s .a 17 2733 = (2735, false) ∧ hkCorrect s .a 17 4200 = (4095, true) := by decide +kernel
/-- R528: a full-scale square wave reads 0, silence −1600. -/
theorem test_frame_level : frameLevel (List.replicate 160 32767) = 0 ∧ frameLevel (List.replicate 160 0) = -1600 := by decide +kernel
/-- Table 21.10: four samples at 90 °C give level 1, at 102 °C level 3 at once; four below 92 °C take level 2 to 1. -/
theorem test_thermal_level : tLevelFrom 0 [4, 0, 0, 0] [0, 0, 0] = 1 ∧ tLevelFrom 0 [4, 4, 4, 0] [0, 0, 0] = 3 ∧ tLevelFrom 2 [4, 0, 0, 0] [0, 4, 4] = 1 ∧
    tLevelFrom 2 [0, 0, 0, 0] [4, 4, 4] = 0 ∧ tLevelFrom 2 [4, 3, 0, 0] [0, 3, 4] = 2 := by decide

/-! ### Single commands -/

/-- Table 19.11: P_0 = 2562 against F_0 = 2150 is OCCLUDED_AT_START with the factory baseline. -/
theorem test_occluded_at_start :
    let s : State := { State.reset with
      otp := { mirror := [(0x34, 1840)] }, regs := [(0x000B0000, 7), (0x000B0030, 310)]
      tamper := { te0 := { state := .start, samples := List.replicate 15 2562 } } }
    (match exec (.tamperSample 0 2562 true) s with | .next t => (t.tamper.te0.state, t.tamper.te0.base) | _ => (.off, 0)) = (.occludedAtStart, 2150 * 256) := by decide +kernel
/-- A pair names both its outputs (R572). -/
theorem test_fo_pair : foNamed { State.reset with regs := [(0x000A0010, 1)] } 1 = [0, 1] ∧ foNamed State.reset 1 = [0] := by decide +kernel
/-- OLDEST after 5000 records since the base (R620). -/
theorem test_oldest : ({ total := 5000 } : LogSt).oldest = 904 ∧ ({ total := 5 } : LogSt).oldest = 0 ∧ ({ total := 3, base := 0xFFFFFFFE } : LogSt).oldest = 0xFFFFFFFE := by decide
/-- The urgent conversion is taken before the scan on slice 0 (R555). -/
theorem test_urgent_first :
    let s : State := { State.reset with regs := [(0x00090000, 4), (0x00090040, 6)], hk := { a := { state := .continuous, urgent := some 7 } } }
    (match exec (.hkConversion .a 100) s with | .next t => (vget t.hk.count 7, vget t.hk.count 1, t.hk.queue.length) | _ => (0, 0, 9)) = (1, 0, 1) := by decide +kernel
/-- A stop for a unit that does not exist, by its name. -/
theorem test_no_unit : exec (.gpioEdge 8 true) State.reset = .fault .noSuchUnit := rfl

end Sys2Proof.Tests
end

section
/-! PROOF. Register access on a path: an SVC register is reached at once, what a write of it stores or stages, and what the
read of a pair's LO word shadows (R4, R6, R8). -/
namespace Sys2Proof.Proofs
open Sys2Proof Sys2Proof.Machine Sys2Proof.Laws

/-! ### Paths other than BCP answer their accesses -/

section Reaching
variable {s : State} {path : Path} {a : Nat} {v : Word} {d : RegDef} {k : Nat}

theorem accessDone_of_ne_bcp (hp : path ≠ .bcp) (write : Bool) (st : AccStatus) (lo hi : Word) :
    accessDone s path a write v st lo hi = emit s (.answer path (toWord a) st lo hi) := by
  simp only [accessDone, answer, beq_iff_eq, hp, ↓reduceIte]

/-- A write of an SVC register does not leave SVC. -/
theorem reachWrite_svc (hw : windowOf s a 4 = .none) (hd : addrDie a = some .svc) (hr : regAt s.part a = some (d, k)) :
    reachWrite s path a v = .done (regWriteHere s path a v).2 0 (regWriteHere s path a v).1 := by
  simp only [reachWrite, regWrite, hw, hd, hr, BEq.rfl, ↓reduceIte, bne_self_eq_false, Bool.false_and, Bool.false_eq_true,
    BitVec.ofNat_eq_ofNat]

/-- A read of an SVC register does not leave SVC. -/
theorem reachRead_svc (hw : windowOf s a 4 = .none) (hd : addrDie a = some .svc) (hr : regAt s.part a = some (d, k))
    {w : Word} {t : State} (h : regRead s path a = some (w, t)) : reachRead s path a = .done .ok w t := by
  simp only [reachRead, hw, hd, hr, h, BEq.rfl, Bool.true_or, ↓reduceIte]

theorem pathAccess_write_svc (hp : path ≠ .bcp) (ht : pathThere s path = true) (hw : windowOf s a 4 = .none)
    (hd : addrDie a = some .svc) (hr : regAt s.part a = some (d, k)) {t : State} {st : AccStatus}
    (h : regWriteHere s path a v = (t, st)) :
    pathAccess s path a true v = emit t (.answer path (toWord a) st 0 0) := by
  simp only [pathAccess, ht, Bool.not_true, Bool.false_eq_true, ↓reduceIte, reachWrite_svc hw hd hr, h, accessDone_of_ne_bcp hp]

theorem pathAccess_read_svc (hp : path ≠ .bcp) (ht : pathThere s path = true) (hw : windowOf s a 4 = .none)
    (hd : addrDie a = some .svc) (hr : regAt s.part a = some (d, k)) {w : Word} {t : State} (h : regRead s path a = some (w, t)) :
    pathAccess s path a false v = emit t (.answer path (toWord a) .ok w 0) := by
  simp only [pathAccess, ht, Bool.not_true, Bool.false_eq_true, ↓reduceIte, reachRead_svc hw hd hr h, accessDone_of_ne_bcp hp]

/-! ### What a write does at its register -/

/-- A refused value changes nothing (R4). -/
theorem regWriteHere_refused (hr : regAt s.part a = some (d, k)) (hm : mayWrite s path a = true) (hwr : d.writable = true)
    (hv : d.accepts v = false ∨ refusedValue s a v = true) : regWriteHere s path a v = (s, .refused) := by
  have hbad : (!d.accepts v || refusedValue s a v) = true := by
    rwa [Bool.or_eq_true, Bool.not_eq_true']
  simp only [regWriteHere, hr, hm, hwr, hbad, Bool.not_true, Bool.false_eq_true, ↓reduceIte]

/-- An accepted value goes on by the register's place in a pair (R4, R8). -/
theorem regWriteHere_accepted (hr : regAt s.part a = some (d, k)) (hm : mayWrite s path a = true) (hwr : d.writable = true)
    (ha : d.accepts v = true) (hn : refusedValue s a v = false) :
    regWriteHere s path a v =
      if d.pair = .rwLo then (stageLo s path a v, .ok)
      else if d.pair = .rwHi then (commitHi s path a v, .ok)
      else writeWord s path d a v := by
  simp only [regWriteHere, hr, hm, hwr, ha, hn, Bool.not_true, Bool.or_self, Bool.false_eq_true, beq_iff_eq, ↓reduceIte]

/-- Registers that act alone lie outside the blocks of the field outputs, the check contexts and the SVC ports. -/
theorem outside_blocks_of_not_acts (ha : actsOnWrite a = false) :
    (decide (0x000A0000 ≤ a) && decide (a < 0x000A0010)) = false ∧ (decide (0x000D0000 ≤ a) && decide (a < 0x000D0400)) = false ∧
      (decide (0x000F0000 ≤ a) && decide (a < 0x000F2000)) = false := by
  rw [actsOnWrite, Bool.or_eq_false_iff, Bool.or_eq_false_iff, Bool.or_eq_false_iff] at ha
  obtain ⟨⟨⟨-, hfo⟩, hcv⟩, hport⟩ := ha
  exact ⟨hfo, hcv, hport⟩

theorem svcWriteLow_of_not_acts (ha : actsOnWrite a = false) : svcWriteLow s path d a v = storeThen s d a v id := by
  unfold svcWriteLow
  split
  case h_12 => rfl
  all_goals exact absurd ha (by decide)

theorem svcWriteIo_of_not_acts (ha : actsOnWrite a = false) : svcWriteIo s path d a v = storeThen s d a v id := by
  obtain ⟨-, -, hport⟩ := outside_blocks_of_not_acts ha
  unfold svcWriteIo
  split
  case h_9 => rw [hport, if_neg Bool.false_ne_true]
  all_goals exact absurd ha (by decide)

theorem svcWriteHigh_of_not_acts (ha : actsOnWrite a = false) : svcWriteHigh s path d a v = storeThen s d a v id := by
  obtain ⟨hfo, hcv, -⟩ := outside_blocks_of_not_acts ha
  unfold svcWriteHigh
  rw [hfo, hcv, if_neg Bool.false_ne_true, if_neg Bool.false_ne_true]
  split
  case h_11 => exact svcWriteIo_of_not_acts ha
  all_goals exact absurd ha (by decide)

/-- An SVC register with no shadow and no action of its own only stores its writable fields. -/
theorem writeWord_of_not_acts (hd : addrDie a = some .svc) (hs : shadowed a = false) (ha : actsOnWrite a = false) :
    writeWord s path d a v = (rput s a (d.written (rget s a) v), .ok) := by
  simp only [writeWord, hd, hs, svcWriteLow_of_not_acts ha, svcWriteHigh_of_not_acts ha, storeThen, id_eq, ite_self,
    Bool.false_eq_true, ↓reduceIte]

/-! ### Pairs -/

/-- A read of a pair's LO word shows the low word and shadows the high one (R6); the launch banks, REC_STATUS and HK_Q read
by rules of their own. -/
theorem regRead_pairLo (hr : regAt s.part a = some (d, k)) (hpair : d.pair = .lo) (hq : a ≠ 0x0009001C) (hrec : a ≠ 0x00070004)
    (hbank : a < 0x00048000 ∨ 0x0004E000 ≤ a) :
    regRead s path a = some (toWord (pairValue s path a), setHiShadow s path a (toWord (pairValue s path a / 2 ^ 32))) := by
  have hout : ¬ (0x00048000 ≤ a ∧ a < 0x0004E000) := by omega
  simp only [regRead, hr, hpair, hq, hrec.symm, hout, Bool.and_eq_true, Bool.or_eq_true, decide_eq_true_eq, beq_iff_eq,
    false_and, reduceCtorEq, or_self, BEq.rfl, Bool.true_or, ↓reduceIte]

end Reaching

/-- Two pairs on two paths have two places in the shadows. -/
theorem pairKey_ne {p q : Path} {a b : Nat} (ha : a < 2 ^ 32) (hb : b < 2 ^ 32) (h : p ≠ q ∨ a ≠ b) :
    pairKey p a ≠ pairKey q b := by
  have hidx : p.idx = q.idx → p = q := by cases p <;> cases q <;> decide
  intro heq
  unfold pairKey at heq
  rcases h with h | h
  · exact h (hidx (by omega))
  · omega

theorem hiShadow_setHiShadow_ne {p q : Path} {a b : Nat} (v : Word) (s : State) (h : pairKey p a ≠ pairKey q b) :
    hiShadow (setHiShadow s p a v) q b = hiShadow s q b :=
  mget_mset_ne 0 s.loRead (pairKey p a) (pairKey q b) v h

/-! ### OTP_DATA -/

theorem regAt_otpDataLo (p : Part) : regAt p 0x0002000C = some (pairRwLo 0x0002000C 8 1 "OTP_DATA_LO", 0) := by
  cases p <;> rfl

theorem regAt_otpDataHi (p : Part) : regAt p 0x00020010 = some (pairRwHi 0x00020010 8 1 "OTP_DATA_HI", 0) := by
  cases p <;> rfl

theorem accepts_pairRwLo (a stride count : Nat) (name : String) (v : Word) : (pairRwLo a stride count name).accepts v = true := by
  simp only [RegDef.accepts, pairRwLo, rw, FieldDef.inRange, List.all_cons, List.all_nil, Nat.mod_one, BEq.rfl, Bool.true_or,
    Bool.and_self, Bool.or_true]

theorem accepts_pairRwHi (a stride count : Nat) (name : String) (v : Word) : (pairRwHi a stride count name).accepts v = true := by
  simp only [RegDef.accepts, pairRwHi, rw, FieldDef.inRange, List.all_cons, List.all_nil, Nat.mod_one, BEq.rfl, Bool.true_or,
    Bool.and_self, Bool.or_true]

/-- OTP_DATA_LO takes every value into the path's staging shadow (R8). -/
theorem regWriteHere_otpDataLo {s : State} {path : Path} (v : Word) (hm : mayWrite s path 0x0002000C = true) :
    regWriteHere s path 0x0002000C v = (stageLo s path 0x0002000C v, .ok) := by
  have hn : refusedValue s 0x0002000C v = false := rfl
  rw [regWriteHere_accepted (regAt_otpDataLo s.part) hm rfl (accepts_pairRwLo ..) hn]
  rfl

/-- OTP_DATA_HI takes every value and writes both halves (R8). -/
theorem regWriteHere_otpDataHi {s : State} {path : Path} (v : Word) (hm : mayWrite s path 0x00020010 = true) :
    regWriteHere s path 0x00020010 v = (commitHi s path 0x00020010 v, .ok) := by
  have hn : refusedValue s 0x00020010 v = false := rfl
  rw [regWriteHere_accepted (regAt_otpDataHi s.part) hm rfl (accepts_pairRwHi ..) hn]
  rfl

/-! ### The obligation -/

/-- Settles O10: each access of an SVC register ends at once on its path, with what the register's place in a pair, its range and
its chapter make of the word; shadows of different pairs and paths lie at different keys. -/
theorem registerAccess : Obligations.RegisterAccess := by
  unfold Obligations.RegisterAccess
  refine ⟨?store, ?refuse, ?loRead, ?loWrite, ?hiWrite, ?frame⟩
  case store =>
    intro path addr v d k s hp ht hw hd hr hm hwr hsingle hacc hn hsh hact
    have hhere : regWriteHere s path addr.toNat v = (rput s addr.toNat (d.written (rget s addr.toNat) v), .ok) := by
      rw [regWriteHere_accepted hr hm hwr hacc hn]
      simp only [hsingle, reduceCtorEq, ↓reduceIte, writeWord_of_not_acts hd hsh hact]
    exact congrArg Host.Outcome.next (pathAccess_write_svc hp ht hw hd hr hhere)
  case refuse =>
    intro path addr v d k s hp ht hw hd hr hm hwr hbad
    exact congrArg Host.Outcome.next (pathAccess_write_svc hp ht hw hd hr (regWriteHere_refused hr hm hwr hbad))
  case loRead =>
    intro path addr d k s hp ht hw hd hr hpair hq hrec hbank
    have hq' : addr.toNat ≠ 0x0009001C := fun h => hq (BitVec.eq_of_toNat_eq h)
    have hrec' : addr.toNat ≠ 0x00070004 := fun h => hrec (BitVec.eq_of_toNat_eq h)
    exact congrArg Host.Outcome.next
      (pathAccess_read_svc hp ht hw hd hr (regRead_pairLo hr hpair hq' hrec' hbank))
  case loWrite =>
    intro path v s hp ht hm
    exact congrArg Host.Outcome.next
      (pathAccess_write_svc hp ht rfl rfl (regAt_otpDataLo s.part) (regWriteHere_otpDataLo v hm))
  case hiWrite =>
    intro path v s hp ht hm
    exact ⟨_, congrArg Host.Outcome.next
      (pathAccess_write_svc hp ht rfl rfl (regAt_otpDataHi s.part) (regWriteHere_otpDataHi v hm)), rfl, rfl, rfl, rfl⟩
  case frame =>
    intro p q a b v s ha hb h
    exact hiShadow_setHiShadow_ne v s (pairKey_ne ha hb h)

end Sys2Proof.Proofs
end

section
/-! PROOF. SCAN over rows of which one is weak: the obligation asks only that some programmed row is not weak, and the
scan still redirects the weak one (R126, R128). -/
namespace Sys2Proof.Proofs
open Sys2Proof Sys2Proof.Machine Sys2Proof.Laws

/-- What SCAN leaves in the OTP is what its operation leaves; the answer on the path changes nothing there. -/
theorem otp_of_exec_scan {path : Path} {cmd : Word} {a : OtpAnalog} {s t : State} (h : exec (.scan path cmd a) s = .next t) :
    t.otp = (otpScan s path cmd a).otp := by
  have hexec : Host.Outcome.next (otpAnswer s (otpScan s path cmd a) path) = .next t := h
  rw [← Host.Outcome.next.inj hexec]
  exact answer_keeps ((closed_otp (otpScan s path cmd a)).sub (K' := 0x200) (by decide)) _ path _ _ _ _ rfl

/-- A blank part but for rows 0 and 1, each with bit 0 programmed; the bit of row 1 is weak. -/
def rowOneWeak : State := { State.reset with otp := { rows := [(0, 1), (1, 1)], weak := [(1, 1)] } }

/-- Conditions and pump hold, and no weak bit ever gains its margin (R126). -/
def pulsesInVain : OtpAnalog :=
  { vsysOk := true, tempOk := true, pumpOk := true, stopAfter := none, failing := 0, stillWeak := BitVec.allOnes 64,
    badSpares := 0, pulses := 3 }

theorem rowOneWeak_rows : programmedRows rowOneWeak.otp = [0, 1] := by decide +kernel

theorem rowOneWeak_weakOf : weakOf rowOneWeak.otp 0 = 0 ∧ weakOf rowOneWeak.otp 1 = 1 := by decide +kernel

/-- The scan redirects row 1 and ends REDIRECTED (R126). -/
theorem scan_rowOneWeak : (otpScan rowOneWeak .core 0x0C7B0004 pulsesInVain).otp.result = 7 := by decide +kernel

/-- Refutes O26 at its SCAN clause: ∀ r ∈ programmedRows, weakOf r = 0 → … scopes over the conclusion, so one row without weak
bits would be enough for the result OK. Row 0 of this part has none, row 1 does, and the scan ends REDIRECTED. -/
theorem not_otpOperations : ¬ Obligations.OtpOperations := by
  unfold Obligations.OtpOperations
  rintro ⟨-, -, -, -, hscan, -⟩
  have hrow : 0 ∈ programmedRows rowOneWeak.otp := by rw [rowOneWeak_rows]; exact List.mem_cons_self
  obtain ⟨t, hexec, -, -, -, -, -, hok⟩ :=
    hscan 0x0C7B0004 pulsesInVain rowOneWeak (by decide) (by decide) (by decide) 0 hrow rowOneWeak_weakOf.1
  rw [otp_of_exec_scan hexec, scan_rowOneWeak] at hok
  exact absurd hok (by decide)

end Sys2Proof.Proofs
end

section
/-! PROOF. The egress guard: which classes a port takes, what the check answers for each, and what a refusal changes
(R22, R407-R409, Table 13.7). -/
namespace Sys2Proof.Proofs
open Sys2Proof Sys2Proof.Machine Sys2Proof.Laws

section Guard
variable {s : State} {p : Nat} {x : Parcel}

/-! ### What a port takes (Table 13.7) -/

theorem guardPermits_pixel (hcls : x.cls = 2) : guardPermits s p x = true ↔ p < 4 ∧ x.dst = 4 + p := by
  simp only [guardPermits, hcls, Bool.and_eq_true, decide_eq_true_eq, beq_iff_eq]

theorem guardPermits_redacted_or_record (hcls : x.cls = 3 ∨ x.cls = 4) :
    guardPermits s p x = true ↔ p = 4 ∧ s.guard.selftestFail = false := by
  rcases hcls with hcls | hcls <;>
    simp only [guardPermits, hcls, Bool.and_eq_true, beq_iff_eq, Bool.not_eq_true']

/-- With debug disabled the EYE's own MAINT parcel on VC5 has no way out by port 4 (R22). -/
theorem guardPermits_maint_closed (hd : debugClosed s = true) (hcls : x.cls = 5) (hsrc : x.src = 1) (hvc : x.vc = 5) :
    guardPermits s 4 x = false := by
  simp only [guardPermits, hcls, hsrc, hvc, hd, Die.code, BEq.rfl, Bool.and_self, Bool.not_true, Bool.false_and, ↓reduceIte]

theorem cls_lt_six_of_guardPermits (h : guardPermits s p x = true) : x.cls < 6 := by
  unfold guardPermits at h
  split at h
  case h_6 => exact absurd h Bool.false_ne_true
  all_goals omega

/-! ### What the check answers -/

theorem guardCheck_of_not_permits (h : guardPermits s p x = false) : guardCheck s p x = (false, guardRefuse s) := by
  simp only [guardCheck, h, Bool.not_false, ↓reduceIte]

theorem guardPermits_of_sent (h : (guardCheck s p x).1 = true) : guardPermits s p x = true := by
  cases hp : guardPermits s p x with
  | true => rfl
  | false =>
    rw [guardCheck_of_not_permits hp] at h
    exact absurd h Bool.false_ne_true

/-- A REDACTED parcel of the EYE takes one from its crop's count; with debug disabled a count of 0 refuses it (R406, R408). -/
theorem guardCheck_redacted (hp : guardPermits s p x = true) (hcls : x.cls = 3) (hsrc : x.src = 1) :
    guardCheck s p x =
      if debugClosed s = true ∧ cropLeft s x = 0 then (false, guardRefuse s)
      else (true, modGuard s fun g => { g with passed := mset 0 g.passed (x.tag - 0xE0) (cropLeft s x - 1) }) := by
  simp only [guardCheck, hp, hcls, hsrc, Die.code, Bool.not_true, Bool.false_eq_true, BEq.rfl, Bool.and_self,
    Bool.and_eq_true, beq_iff_eq, ↓reduceIte]

/-- A RECORD parcel is measured against EG_BUDGET, and dropped once the budget is hit (R409). -/
theorem guardCheck_record (hp : guardPermits s p x = true) (hcls : x.cls = 4) :
    guardCheck s p x =
      if s.guard.budgetHit = true then (false, modGuard s fun g => { g with budgetDrop := g.budgetDrop + 1 })
      else if rnat s 0x01030008 < s.guard.used + x.plen then
        (false, sendMsg (modGuard s fun g => { g with budgetHit := true, budgetDrop := g.budgetDrop + 1 }) .eye .svc 6
          (leBytes 4 s.seqr.epoch.toNat ++ leBytes 4 s.guard.used ++ leBytes 4 1))
      else (true, modGuard s fun g => { g with used := g.used + x.plen }) := by
  simp only [guardCheck, hp, hcls, Bool.not_true, Bool.false_eq_true, Nat.reduceBEq, Bool.false_and, BEq.rfl, ↓reduceIte]

/-! ### What a refusal changes -/

theorem guardRefuse_guard (s : State) : (guardRefuse s).guard =
    { s.guard with parcelsRefused := satAdd 65535 s.guard.parcelsRefused 1, blockRaised := true } := by
  unfold guardRefuse
  split <;> simp only [logOnly_guard, raiseOn_guard, modGuard_guard]

theorem guardRefuse_mem (s : State) : (guardRefuse s).mem = s.mem := by
  unfold guardRefuse
  split <;> simp only [logOnly_mem, raiseOn_mem, modGuard_mem]

/-! ### What is let out -/

/-- A RECORD parcel is let out only before the budget is hit and within it, and its length is all that the state takes. -/
theorem record_sent (hcls : x.cls = 4) (h : (guardCheck s p x).1 = true) :
    s.guard.budgetHit = false ∧ s.guard.used + x.plen ≤ rnat s 0x01030008 ∧
      (guardCheck s p x).2 = modGuard s fun g => { g with used := g.used + x.plen } := by
  have hp := guardPermits_of_sent h
  rw [guardCheck_record hp hcls] at h ⊢
  split at h
  · exact absurd h Bool.false_ne_true
  split at h
  · exact absurd h Bool.false_ne_true
  next hhit hover =>
    rw [if_neg hhit, if_neg hover]
    exact ⟨Bool.eq_false_iff.mpr hhit, Nat.le_of_not_lt hover, rfl⟩

/-- With debug disabled a REDACTED parcel of the EYE is let out only on its crop's count, which it takes down by one. -/
theorem redacted_sent_closed (hd : debugClosed s = true) (hcls : x.cls = 3) (hsrc : x.src = 1)
    (hwf : mwf 0 s.guard.passed = true) (h : (guardCheck s p x).1 = true) :
    0 < cropLeft s x ∧ cropLeft (guardCheck s p x).2 x = cropLeft s x - 1 := by
  have hp := guardPermits_of_sent h
  rw [guardCheck_redacted hp hcls hsrc] at h ⊢
  split at h
  · exact absurd h Bool.false_ne_true
  next hleft =>
    rw [if_neg hleft]
    exact ⟨Nat.pos_of_ne_zero fun h0 => hleft ⟨hd, h0⟩, mget_mset_same 0 s.guard.passed _ _ hwf⟩

/-- A RECORD parcel beyond the budget sets BUDGET_HIT, and one after that is dropped as well; each drop is counted (R409). -/
theorem record_dropped (hp : guardPermits s p x = true) (hcls : x.cls = 4)
    (h : s.guard.budgetHit = true ∨ rnat s 0x01030008 < s.guard.used + x.plen) :
    (guardCheck s p x).1 = false ∧
      (guardCheck s p x).2.guard = { s.guard with budgetHit := true, budgetDrop := s.guard.budgetDrop + 1 } := by
  rw [guardCheck_record hp hcls]
  by_cases hhit : s.guard.budgetHit = true
  · rw [if_pos hhit, ← hhit]
    exact ⟨rfl, rfl⟩
  · rw [if_neg hhit, if_pos (h.resolve_left hhit)]
    exact ⟨rfl, sendMsg_guard ..⟩

end Guard

/-- Settles O43: what is let out is permitted by its class and port, and the two classes that the guard counts, REDACTED and
RECORD, are let out only within their counts; a refusal changes the guard's counters and the log alone. -/
theorem egressGuard : Obligations.EgressGuard := by
  unfold Obligations.EgressGuard
  refine ⟨?sent, ?refused, ?dropped⟩
  case sent =>
    intro s p x h
    have hp := guardPermits_of_sent h
    refine ⟨fun hcls => (guardPermits_pixel hcls).mp hp, fun hcls => (guardPermits_redacted_or_record hcls).mp hp,
      cls_lt_six_of_guardPermits hp, fun hcls => record_sent hcls h, ?_,
      fun hd hcls hsrc hwf => redacted_sent_closed hd hcls hsrc hwf h⟩
    rintro hd hcls hsrc hvc rfl
    exact absurd hp (Bool.eq_false_iff.mp (guardPermits_maint_closed hd hcls hsrc hvc))
  case refused =>
    intro s p x hp
    rw [guardCheck_of_not_permits hp, guardRefuse_guard]
    exact ⟨rfl, rfl, rfl, guardRefuse_mem s⟩
  case dropped =>
    intro s p x hcls hport hself h
    have hp := (guardPermits_redacted_or_record (.inr hcls)).mpr ⟨hport, hself⟩
    obtain ⟨hout, hguard⟩ := record_dropped hp hcls h
    rw [hguard]
    exact ⟨hout, rfl, rfl, rfl⟩

end Sys2Proof.Proofs
end

section
/-! PROOF. What VCORE's setting, a change of season, a halt and the entry into DORMANT leave, each said once
(R77, R98, R634, R642). -/
namespace Sys2Proof.Proofs
open Sys2Proof Sys2Proof.Machine Sys2Proof.Laws

/-! ### A setting of VCORE (R634) -/

@[simp] theorem sendVcore_boot (s : State) (mv : Nat) : (sendVcore s mv).boot = s.boot :=
  sendVcore_keeps ((closed_boot s).sub (by decide)) s mv rfl

@[simp] theorem sendVcore_otp (s : State) (mv : Nat) : (sendVcore s mv).otp = s.otp :=
  sendVcore_keeps ((closed_otp s).sub (by decide)) s mv rfl

theorem voutCode_power (s : State) (mv : Nat) : (voutCode s mv).2.power = s.power := by
  unfold voutCode
  dsimp only
  split
  · rfl
  · exact fresh_power s

/-- Of the power state a setting changes VCORE's alone, and with PMBus failed not even that. -/
theorem sendVcore_power (s : State) (mv : Nat) :
    (sendVcore s mv).power = { s.power with vcoreSent := if s.bus.pmFailed = true then s.power.vcoreSent else mv } := by
  unfold sendVcore
  cases hb : s.bus.pmFailed with
  | true => rfl
  | false =>
    by_cases hm : mv = s.power.vcoreSent
    · simp only [hm, BEq.rfl, Bool.or_true, Bool.false_eq_true, ↓reduceIte]
    · simp only [beq_iff_eq, hm, Bool.false_or, Bool.false_eq_true, ↓reduceIte, emit_power, modPower_power, voutCode_power]

/-- The life-cycle state is read from the loaded rows alone. -/
theorem inField_of_otp {s t : State} (h : t.otp = s.otp) : inField t = inField s := by
  unfold inField lcState taken mrow
  rw [h]

/-! ### A change of season (R642) -/

theorem seasonTo_boot (s : State) (x : Season) : (seasonTo s x).boot = s.boot :=
  seasonTo_keeps ((closed_boot s).sub (by decide)) s x rfl

theorem foDrive_power (s0 s : State) : (foDrive s0 s).power = s.power := by
  refine foldl_keeps (P := fun t => t.power = s.power) (fun t n h => ?_) _ _ rfl
  split
  · exact h
  · exact (emit_power ..).trans h

theorem foFollow_power (s0 s : State) : (foFollow s0 s).power = s.power := by
  unfold foFollow
  dsimp only
  rw [foDrive_power]
  split <;> rfl

/-- The units that follow their domains leave the power state, whatever it was before. -/
theorem followSeason_power (s0 s : State) : (followSeason s0 s).power = s.power :=
  calc (followSeason s0 s).power
      = (foFollow s0 (hkApplyBoth s)).power :=
        lstPolicy_keeps ((closed_power _).sub (by decide)) _ (tmpFollow_keeps ((closed_power _).sub (by decide)) _ rfl)
    _ = (hkApplyBoth s).power := foFollow_power ..
    _ = s.power := hkApplyBoth_keeps ((closed_power s).sub (by decide)) s rfl

/-- Of the power state a change of season moves the season, its count and VCORE. -/
theorem seasonTo_power (s : State) (x : Season) :
    ∃ n mv, (seasonTo s x).power = { s.power with season := x, changes := n, vcoreSent := mv } := by
  unfold seasonTo
  split
  · next h => exact ⟨s.power.changes, s.power.vcoreSent, by rw [← eq_of_beq h]⟩
  · dsimp only
    have hraise : (if (x == Season.thermalStop) = true
        then followSeason s (modPower s fun p => { p with season := x, changes := p.changes + 1 })
        else raise (followSeason s (modPower s fun p => { p with season := x, changes := p.changes + 1 })) 0xE 0
          Code.seasonChange 1).power = { s.power with season := x, changes := s.power.changes + 1 } := by
      split
      · rw [followSeason_power]; rfl
      · rw [raise_power, followSeason_power]; rfl
    split
    · exact ⟨_, _, hraise⟩
    · rw [sendVcore_power, hraise]
      exact ⟨_, _, rfl⟩

/-- After a change of season that season is in force. -/
theorem seasonTo_season (s : State) (x : Season) : (seasonTo s x).power.season = x := by
  obtain ⟨_, _, h⟩ := seasonTo_power s x
  rw [h]

/-! ### A halt and DORMANT (R77, R98) -/

section Closing
variable (s : State) (code cause : Nat)

theorem haltNow_flash : (haltNow s code).flash = s.flash :=
  haltNow_keeps ((closed_flash s).sub (by decide)) s code rfl

/-- A halt ends start-up at its code with ALERT_N low, and only the always-on domain stays powered. -/
theorem haltNow_halts : (haltNow s code).boot.phase = code ∧ (haltNow s code).boot.alert = true ∧
    (haltNow s code).power.halted = true := by
  unfold haltNow
  dsimp only
  rw [emit_boot, emit_power, followSeason_power, followSeason_keeps ((closed_boot _).sub (by decide)) _ _ rfl rfl]
  exact ⟨rfl, rfl, rfl⟩

/-- DORMANT keeps its cause and is the season in force. -/
theorem dormantNow_dormant : (dormantNow s cause).boot.phase = 24 ∧ (dormantNow s cause).boot.dormantCause = cause ∧
    (dormantNow s cause).power.season = .dormant := by
  unfold dormantNow
  dsimp only
  rw [addrFollow_keeps ((closed_boot _).sub (by decide)) _ rfl, addrFollow_keeps ((closed_power _).sub (by decide)) _ rfl,
    seasonTo_boot, seasonTo_season]
  exact ⟨rfl, rfl, rfl⟩

end Closing
end Sys2Proof.Proofs
end

section
/-! PROOF. The steps of start-up: where each step's end or timeout takes the part (Table 3.1). -/
namespace Sys2Proof.Proofs
open Sys2Proof Sys2Proof.Machine Sys2Proof.Laws

section Steps
variable {s : State}

theorem marked_of_none (h : s.boot.stepsDone = []) (n : Nat) : marked s n = false := by
  unfold marked
  rw [h]
  rfl

/-! ### Which step runs -/

theorem exec_startupSequence (pg : Bool) (s : State) : exec (.startupSequence pg) s = execStartupSequence pg s := rfl

theorem exec_startupStepTimeout (s : State) : exec .startupStepTimeout s = .next (stepTimeout s) := rfl

theorem exec_dormantReport (s : State) : exec .dormantReport s = execDormantReport s := rfl

/-- Before step 12 the steps run one by one. -/
theorem exec_startupStepComplete_early {n : Nat} (h : s.boot.phase = n) (hn : n < 12) (info : StepInfo) :
    exec (.startupStepComplete info) s = .next (stepEarly s info) :=
  congrArg Host.Outcome.next (if_pos (h ▸ hn))

theorem stepEarly_strap (h : s.boot.phase = 1) (b : Nat) :
    stepEarly s (.strap b) = modBoot s fun x => { x with strap := b % 4, phase := 2 } := by
  unfold stepEarly; rw [h]; rfl

theorem stepEarly_power (h : s.boot.phase = 4) (good : Bool) : stepEarly s (.power good) = stepPower s good := by
  unfold stepEarly; rw [h]; rfl

theorem stepEarly_sfdp_not_read (h : s.boot.phase = 5) : stepEarly s (.sfdp false) = dormantNow s 4 := by
  unfold stepEarly; rw [h]; rfl

theorem stepEarly_release (h : s.boot.phase = 11) : stepEarly s .plain = stepRelease s := by
  unfold stepEarly; rw [h]; rfl

/-! ### What a step does -/

/-- Step 4 with VCORE good goes on, but for the HOLD strap before FIELD (R97). -/
theorem stepPower_good (hm : s.boot.stepsDone = []) (hs : s.boot.strap ≠ 2) :
    stepPower s true = bootTo (sendVcore s 750) 5 := by
  simp only [stepPower, marked_of_none hm, sendVcore_boot, bne_iff_ne, ne_eq, hs, not_false_eq_true, Bool.false_eq_true,
    Bool.not_true, ↓reduceIte]

theorem stepPower_hold_in_field (hm : s.boot.stepsDone = []) (hs : s.boot.strap = 2) (hf : inField s = true) :
    stepPower s true = bootTo (logOnly (sendVcore s 750) .svc 0xD 0 Code.strapIgnored 1) 5 := by
  simp only [stepPower, marked_of_none hm, sendVcore_boot, hs, bne_self_eq_false, inField_of_otp (sendVcore_otp s 750), hf,
    Bool.false_eq_true, Bool.not_true, ↓reduceIte]

/-- Step 4 with VCORE not good a second time halts the part. -/
theorem stepPower_bad_again (hm : s.boot.stepsDone = []) (hr : s.boot.pmRetried = true) :
    stepPower s false = haltNow s 31 := by
  simp only [stepPower, powerBad, marked_of_none hm, hr, Bool.false_eq_true, Bool.not_false, ↓reduceIte]

/-- Step 11 keeps the dies held while the part is hot (Table 3.16). -/
theorem stepRelease_hot (h : 432 ≤ s.power.tmax) : stepRelease s = mark s 11 :=
  if_pos (by rw [decide_eq_true h, Bool.true_or])

end Steps

/-- Settles O22, step by step: which step runs, and what that step, a halt or DORMANT leaves. -/
theorem startupSteps : Obligations.StartupSteps := by
  unfold Obligations.StartupSteps
  refine ⟨?edge, ?noEdge, ?strap, ?power, ?hold, ?powerBad, ?sfdp, ?hot, ?haltTimeout, ?descTimeout, ?report⟩
  case edge =>
    intro s h
    rw [exec_startupSequence, execStartupSequence, h]
    rfl
  case noEdge =>
    intro pg s h
    have hno : ¬ (s.boot.phase == 0 && pg) = true := by
      rw [Bool.and_eq_true, beq_iff_eq]
      rintro ⟨h0, rfl⟩
      exact h.elim (· h0) Bool.noConfusion
    rw [exec_startupSequence, execStartupSequence, if_neg hno]
  case strap =>
    intro b s h
    rw [exec_startupStepComplete_early h (by decide), stepEarly_strap h]
    rfl
  case power =>
    intro s h hm hs
    rw [exec_startupStepComplete_early h (by decide), stepEarly_power h, stepPower_good hm hs]
  case hold =>
    intro s h hm hs hf
    rw [exec_startupStepComplete_early h (by decide), stepEarly_power h, stepPower_hold_in_field hm hs hf]
  case powerBad =>
    intro s h hm hr
    rw [exec_startupStepComplete_early h (by decide), stepEarly_power h, stepPower_bad_again hm hr]
    obtain ⟨hphase, halert, hhalted⟩ := haltNow_halts s 31
    exact ⟨_, rfl, hphase, halert, hhalted, haltNow_flash s 31⟩
  case sfdp =>
    intro s h
    rw [exec_startupStepComplete_early h (by decide), stepEarly_sfdp_not_read h]
    exact ⟨_, rfl, dormantNow_dormant s 4⟩
  case hot =>
    intro s h hot
    rw [exec_startupStepComplete_early h (by decide), stepEarly_release h, stepRelease_hot hot]
    rfl
  case haltTimeout =>
    rintro s (h | h)
    · rw [exec_startupStepTimeout, stepTimeout, h]
      exact ⟨_, rfl, haltNow_halts s 30⟩
    · rw [exec_startupStepTimeout, stepTimeout, h]
      exact ⟨_, rfl, haltNow_halts s 31⟩
  case descTimeout =>
    intro s h
    rw [exec_startupStepTimeout, stepTimeout, h]
    exact ⟨_, rfl, dormantNow_dormant s 3⟩
  case report =>
    intro s h
    rw [exec_dormantReport, execDormantReport, h]
    rfl

end Sys2Proof.Proofs
end

section
/-! PROOF. What a cold and a warm reset of the part leave (Table 3.2), and which of the two an expiry of the watchdog is (R80). -/
namespace Sys2Proof.Proofs
open Sys2Proof Sys2Proof.Machine Sys2Proof.Laws

/-! ### The state a reset starts from, before LOG_RESET and what follows it -/

@[simp] theorem foReset_pending (s : State) (cold : Bool) : (foReset s cold).pending = s.pending :=
  foReset_keeps ((closed_pending s).sub (by decide)) s cold rfl
@[simp] theorem foReset_part (s : State) (cold : Bool) : (foReset s cold).part = s.part :=
  foReset_keeps ((closed_part s).sub (by decide)) s cold rfl
@[simp] theorem foReset_flash (s : State) (cold : Bool) : (foReset s cold).flash = s.flash :=
  foReset_keeps ((closed_flash s).sub (by decide)) s cold rfl
@[simp] theorem foReset_hv (s : State) (cold : Bool) : (foReset s cold).hv = s.hv :=
  foReset_keeps ((closed_hv s).sub (by decide)) s cold rfl

/-- What a cold reset leaves before the log restarts. -/
def coldStart (s : State) (cause : Nat) (edge thermal : Bool) : State :=
  { resetCommon (foReset s true) false with
    otp := otpCold s.otp
    boot := { resetCause := toWord cause, phase := if edge then 0 else 1, started := s.now }
    power := { thermalStopped := thermal, tjPeak := if thermal then s.power.tjPeak else 0,
               tjPeakDie := if thermal then s.power.tjPeakDie else 0 } }

/-- What a warm reset leaves before BOOT_SKIP is written back and the log restarts. -/
def warmStart (s : State) (bit : Nat) : State :=
  let b := bootWarm s.boot (rget s 0x0001000C)
  { resetCommon (foReset s false) true with
    otp := otpWarm s.otp
    net := netWarm s.net
    tb := s.tb
    hk := { trimBad := s.hk.trimBad }
    lst := { policyOff := s.lst.policyOff }
    power := powerWarm s.power
    boot := { b with resetCause := b.resetCause ||| toWord (2 ^ bit) } }

/-- Whatever was scheduled before, a cancelled switch-over touches the log and the records alone. -/
theorem switchLost_keeps_right {P : State → Prop} (c : Closed 0x20200000000 P) (s0 : State) {s : State} (h : P s) :
    P (switchLost s0 s) := by
  unfold switchLost
  split
  · exact raise_keeps c _ _ _ _ _ _ h
  · exact h

/-- After its start a cold reset touches the log, the events, the records and what leaves the part alone. -/
theorem coldNow_of_start {P : State → Prop} (c : Closed 0x60200000200 P) {s : State} {cause : Nat} {edge thermal lost : Bool}
    (h : P (coldStart s cause edge thermal)) : P (coldNow s cause edge thermal lost) := by
  have hlog : P (switchLost s (logReset (coldStart s cause edge thermal) cause lost true)) :=
    switchLost_keeps_right (c.sub (by decide)) s (logReset_keeps (c.sub (by decide)) _ _ _ _ h)
  have hcold : coldNow s cause edge thermal lost =
      if s.boot.alert = true then emit (switchLost s (logReset (coldStart s cause edge thermal) cause lost true)) (.alertN false)
      else switchLost s (logReset (coldStart s cause edge thermal) cause lost true) := rfl
  rw [hcold]
  split
  · exact emit_keeps (c.sub (by decide)) _ _ hlog
  · exact hlog

/-- After its start a warm reset writes BOOT_SKIP back and sends VCORE; else it touches what a cold one does. -/
theorem warmNow_of_start {P : State → Prop} (c : Closed 0xe0200000208 P) {s : State} {bit : Nat}
    (h : P (rput (warmStart s bit) 0x0001000C (rget s 0x0001000C))) : P (warmNow s bit) :=
  sendVcore_keeps (c.sub (by decide)) _ _
    (switchLost_keeps_right (c.sub (by decide)) s (logReset_keeps (c.sub (by decide)) _ _ _ _ h))

/-! ### A cold reset, field by field (Table 3.2) -/

section Cold
variable (s : State) (cause : Nat) (edge thermal lost : Bool)

@[simp] theorem coldNow_pending : (coldNow s cause edge thermal lost).pending = s.pending :=
  (coldNow_of_start ((closed_pending (coldStart s cause edge thermal)).sub (by decide)) rfl).trans (foReset_pending s true)

@[simp] theorem coldNow_flash : (coldNow s cause edge thermal lost).flash = s.flash :=
  (coldNow_of_start ((closed_flash (coldStart s cause edge thermal)).sub (by decide)) rfl).trans (foReset_flash s true)

/-- Of Harvest the checkpoints and the exemplar log stand in flash. -/
@[simp] theorem coldNow_hv : (coldNow s cause edge thermal lost).hv = hvReset s.hv :=
  (coldNow_of_start ((closed_hv (coldStart s cause edge thermal)).sub (by decide)) rfl).trans
    (congrArg hvReset (foReset_hv s true))

@[simp] theorem coldNow_otp : (coldNow s cause edge thermal lost).otp = otpCold s.otp :=
  coldNow_of_start ((closed_otp (coldStart s cause edge thermal)).sub (by decide)) rfl

@[simp] theorem coldNow_mem : (coldNow s cause edge thermal lost).mem = [] :=
  coldNow_of_start ((closed_mem (coldStart s cause edge thermal)).sub (by decide)) rfl

@[simp] theorem coldNow_regs : (coldNow s cause edge thermal lost).regs = [] :=
  coldNow_of_start ((closed_regs (coldStart s cause edge thermal)).sub (by decide)) rfl

@[simp] theorem coldNow_ledgers : (coldNow s cause edge thermal lost).ledgers = Vector.replicate 4 [] :=
  coldNow_of_start ((closed_ledgers (coldStart s cause edge thermal)).sub (by decide)) rfl

@[simp] theorem coldNow_bcp : (coldNow s cause edge thermal lost).bcp = {} :=
  coldNow_of_start ((closed_bcp (coldStart s cause edge thermal)).sub (by decide)) rfl

@[simp] theorem coldNow_boot : (coldNow s cause edge thermal lost).boot =
    { resetCause := toWord cause, phase := if edge then 0 else 1, started := s.now } :=
  coldNow_of_start ((closed_boot (coldStart s cause edge thermal)).sub (by decide)) rfl

end Cold

/-! ### A warm reset, field by field (Table 3.2) -/

section Warm
variable (s : State) (bit : Nat)

@[simp] theorem warmNow_pending : (warmNow s bit).pending = s.pending :=
  (warmNow_of_start ((closed_pending (warmStart s bit)).sub (by decide)) rfl).trans (foReset_pending s false)

@[simp] theorem warmNow_part : (warmNow s bit).part = s.part :=
  (warmNow_of_start ((closed_part (warmStart s bit)).sub (by decide)) rfl).trans (foReset_part s false)

@[simp] theorem warmNow_flash : (warmNow s bit).flash = s.flash :=
  (warmNow_of_start ((closed_flash (warmStart s bit)).sub (by decide)) rfl).trans (foReset_flash s false)

@[simp] theorem warmNow_otp : (warmNow s bit).otp = otpWarm s.otp :=
  warmNow_of_start ((closed_otp (warmStart s bit)).sub (by decide)) rfl

@[simp] theorem warmNow_mem : (warmNow s bit).mem = [] :=
  warmNow_of_start ((closed_mem (warmStart s bit)).sub (by decide)) rfl

@[simp] theorem warmNow_ledgers : (warmNow s bit).ledgers = Vector.replicate 4 [] :=
  warmNow_of_start ((closed_ledgers (warmStart s bit)).sub (by decide)) rfl

@[simp] theorem warmNow_tb : (warmNow s bit).tb = s.tb :=
  warmNow_of_start ((closed_tb (warmStart s bit)).sub (by decide)) rfl

@[simp] theorem warmNow_bcp : (warmNow s bit).bcp = {} :=
  warmNow_of_start ((closed_bcp (warmStart s bit)).sub (by decide)) rfl

@[simp] theorem warmNow_boot : (warmNow s bit).boot = (warmStart s bit).boot :=
  warmNow_of_start ((closed_boot (warmStart s bit)).sub (by decide)) rfl

/-- Start-up runs again from step 5 with the strap as it was and one more cause (R79). -/
theorem warmNow_boot_step5 : (warmNow s bit).boot.phase = 5 ∧ (warmNow s bit).boot.strap = s.boot.strap ∧
    (warmNow s bit).boot.resetCause = s.boot.resetCause ||| toWord (2 ^ bit) := by
  rw [warmNow_boot]
  exact ⟨rfl, rfl, rfl⟩

/-- PMBus works again after the reset, so VCORE's 0.75 V is sent (R657). -/
theorem warmNow_vcoreSent : (warmNow s bit).power.vcoreSent = 750 := by
  have hbus : (switchLost s (logReset (rput (warmStart s bit) 0x0001000C (rget s 0x0001000C))
      (warmStart s bit).boot.resetCause.toNat false false)).bus = (warmStart s bit).bus :=
    switchLost_keeps_right ((closed_bus _).sub (by decide)) s (logReset_keeps ((closed_bus _).sub (by decide)) _ _ _ _ rfl)
  have hwarm : warmNow s bit = sendVcore (switchLost s (logReset (rput (warmStart s bit) 0x0001000C (rget s 0x0001000C))
      (warmStart s bit).boot.resetCause.toNat false false)) 750 := rfl
  rw [hwarm, sendVcore_power, hbus]
  rfl

/-- BOOT_SKIP alone of the registers is written back. -/
theorem warmNow_bootSkip : rget (warmNow s bit) 0x0001000C = rget s 0x0001000C := by
  have hregs : (warmNow s bit).regs = (rput (warmStart s bit) 0x0001000C (rget s 0x0001000C)).regs :=
    warmNow_of_start ((closed_regs _).sub (by decide)) rfl
  have hpart : (warmStart s bit).part = s.part := foReset_part s false
  unfold rget
  rw [hregs, warmNow_part]
  unfold rput
  rw [hpart]
  exact mget_mset_same _ [] 0x0001000C _ rfl

end Warm

/-! ### BYE before a commanded reset (R514) -/

/-- The part as a reset finds it: a commanded one sends BYE first. -/
def afterBye (bye : Bool) (s : State) : State := if bye = true then sendBye s else s

theorem afterBye_keeps {P : State → Prop} (c : Closed 0x200 P) (bye : Bool) {s : State} (h : P s) : P (afterBye bye s) := by
  cases bye with
  | true => exact sendBye_keeps c s h
  | false => exact h

section Bye
variable (bye : Bool) (s : State)

@[simp] theorem afterBye_pending : (afterBye bye s).pending = s.pending := afterBye_keeps ((closed_pending s).sub (by decide)) bye rfl
@[simp] theorem afterBye_part : (afterBye bye s).part = s.part := afterBye_keeps ((closed_part s).sub (by decide)) bye rfl
@[simp] theorem afterBye_regs : (afterBye bye s).regs = s.regs := afterBye_keeps ((closed_regs s).sub (by decide)) bye rfl
@[simp] theorem afterBye_tb : (afterBye bye s).tb = s.tb := afterBye_keeps ((closed_tb s).sub (by decide)) bye rfl
@[simp] theorem afterBye_boot : (afterBye bye s).boot = s.boot := afterBye_keeps ((closed_boot s).sub (by decide)) bye rfl
@[simp] theorem afterBye_flash : (afterBye bye s).flash = s.flash := afterBye_keeps ((closed_flash s).sub (by decide)) bye rfl
@[simp] theorem afterBye_otp : (afterBye bye s).otp = s.otp := afterBye_keeps ((closed_otp s).sub (by decide)) bye rfl
@[simp] theorem afterBye_hv : (afterBye bye s).hv = s.hv := afterBye_keeps ((closed_hv s).sub (by decide)) bye rfl

@[simp] theorem afterBye_rget (a : Nat) : rget (afterBye bye s) a = rget s a := by
  unfold rget
  rw [afterBye_part, afterBye_regs]

end Bye

/-! ### The two commands -/

theorem exec_coldReset (cause : ColdCause) (hdr : Bool) (s : State) :
    exec (.coldReset cause hdr) s = execColdReset cause hdr s := rfl

theorem exec_warmReset (cause : WarmCause) (s : State) : exec (.warmReset cause) s = execWarmReset cause s := rfl

theorem exec_watchdogExpiry (s : State) : exec .watchdogExpiry s = execWatchdogExpiry s := rfl

/-- Each of the six causes is one cold reset, at once or from the edge, after BYE for the commanded one. -/
theorem exec_coldReset_eq (cause : ColdCause) (hdr : Bool) (s : State)
    (h : cause = .por ∨ cause = .cmd ∨ cause = .wdtEscalated ∨ cause = .vcoreLoss ∨ cause = .thermalStop ∨ cause = .pin 10000) :
    exec (.coldReset cause hdr) s = .next (coldNow (afterBye (cause == .cmd) s) (2 ^ coldBit cause)
      (decide (cause = .por ∨ cause = .pin 10000)) (decide (cause = .thermalStop)) (!hdr)) := by
  rw [exec_coldReset]
  rcases h with rfl | rfl | rfl | rfl | rfl | rfl <;> rfl

theorem coreRuns_of {s : State} (h5 : 5 ≤ s.boot.phase) (h30 : s.boot.phase < 30) (hh : s.power.halted = false)
    (ht : s.power.season ≠ .thermalStop) : coreRuns s = true := by
  simp only [coreRuns, h5, h30, hh, bne_iff_ne.mpr ht, decide_true, Bool.not_false, Bool.and_self]

/-- Each warm cause but the watchdog's is one warm reset, after BYE for the commanded one. -/
theorem exec_warmReset_eq {cause : WarmCause} {s : State} (hrun : coreRuns s = true)
    (h : cause = .slotRetry ∨ cause = .coreLockup ∨ cause = .cmd) :
    exec (.warmReset cause) s = .next (warmNow (afterBye (cause == .cmd) s) (warmBit cause)) := by
  rw [exec_warmReset]
  unfold execWarmReset
  rw [hrun]
  rcases h with rfl | rfl | rfl <;> rfl

/-! ### The watchdog (R80, R100) -/

/-- The watchdog resets that lie within 600 s of an expiry. -/
def recentExpiries (s : State) : List Nat := s.boot.wdtResets.filter fun t => decide (s.now < t + secNs 600)

theorem two_recent {s : State} {a b : Nat} (h : s.boot.wdtResets = [a, b]) (ha : s.now < a + 600000000000)
    (hb : s.now < b + 600000000000) : 2 ≤ (recentExpiries s).length := by
  simp only [recentExpiries, h, secNs, ha, hb, decide_true, List.filter_cons_of_pos, List.filter_nil, List.length_cons,
    List.length_nil, Nat.reduceMul, Nat.reduceAdd, Nat.le_refl]

/-- With the older of two expiries past its 600 s at most one is recent. -/
theorem not_two_recent {s : State} {a b : Nat} (h : s.boot.wdtResets = [a, b]) (ha : a + 600000000000 ≤ s.now) :
    (recentExpiries s).length < 2 := by
  have hout : ¬ s.now < a + 600000000000 := by omega
  have hrecent : recentExpiries s = [b].filter fun t => decide (s.now < t + secNs 600) := by
    rw [recentExpiries, h, List.filter_cons_of_neg (by rw [decide_eq_true_eq]; exact hout)]
  rw [hrecent]
  exact Nat.lt_succ_of_le (List.length_filter_le _ [b])

theorem wdtExpire_cold {s : State} (h : 2 ≤ (recentExpiries s).length) : wdtExpire s = coldNow s 0x20 false false false :=
  if_pos h

theorem wdtExpire_warm {s : State} (h : (recentExpiries s).length < 2) :
    wdtExpire s = warmNow (modBoot s fun b => { b with wdtResets := s.now :: recentExpiries s }) 4 :=
  if_neg (Nat.not_le.mpr h)

theorem exec_watchdogExpiry_runs {s : State} (hen : rb s 0x00010030 16 = true) (hrun : coreRuns s = true)
    (h10 : 10 ≤ s.boot.phase) : exec .watchdogExpiry s = .next (wdtExpire s) := by
  rw [exec_watchdogExpiry, execWatchdogExpiry, hen, hrun, decide_eq_true h10]
  rfl

theorem regAt_wdtKick (p : Part) : regAt p 0x00010034 = some (reg 0x00010034 "WDT_KICK" [wo 31 0], 0) := by
  cases p <;> rfl

/-- WDT_KICK takes every word from the core; what the word does is its own (Table 3.14). -/
theorem regWrite_wdtKick (s : State) (v : Word) : regWrite s .core 0x00010034 v = (wdtKickNow s v, .ok) := by
  have hreg := regAt_wdtKick s.part
  have hacc : (reg 0x00010034 "WDT_KICK" [wo 31 0]).accepts v = true := rfl
  have hval : refusedValue s 0x00010034 v = false := rfl
  have hhere := regWriteHere_accepted (path := .core) hreg rfl rfl hacc hval
  unfold regWrite
  rw [hreg]
  exact hhere

theorem exec_wdtKick (v : Word) (s : State) :
    exec (.wdtKick .core v) s = .next (answer (wdtKickNow s v) .core 0x00010034 .ok) :=
  congrArg (fun r => Host.Outcome.next (answerWrite .core 0x00010034 r)) (regWrite_wdtKick s v)

/-- Settles O23: each cause is one cold or one warm reset, whose fields stand in the lemmas above; of two earlier watchdog
resets both or at most one are recent. -/
theorem resetsOfThePart : Obligations.ResetsOfThePart := by
  unfold Obligations.ResetsOfThePart
  refine ⟨?cold, ?shortLow, ?warm, ?watchdog, ?kick⟩
  case cold =>
    intro cause hdr s h
    refine ⟨_, exec_coldReset_eq cause hdr s h, ?_⟩
    simp only [coldNow_pending, coldNow_flash, coldNow_hv, coldNow_otp, coldNow_mem, coldNow_regs, coldNow_ledgers, coldNow_bcp,
      coldNow_boot, afterBye_pending, afterBye_flash, afterBye_hv, afterBye_otp, hvReset, otpCold, decide_eq_true_eq, and_self]
  case shortLow =>
    intro ns hdr s (h : ns < 9500)
    have hpin : pinResets s ns = (false, s) := by
      unfold pinResets
      rw [if_neg (by omega), if_pos h]
    rw [exec_coldReset, execColdReset, hpin]
    rfl
  case warm =>
    intro cause s h h5 h30 hh ht
    obtain ⟨hphase, hstrap, hcause⟩ := warmNow_boot_step5 (afterBye (cause == .cmd) s) (warmBit cause)
    rw [afterBye_boot] at hstrap hcause
    refine ⟨_, exec_warmReset_eq (coreRuns_of h5 h30 hh ht) h, ?_⟩
    simp only [warmNow_pending, warmNow_flash, warmNow_otp, warmNow_mem, warmNow_ledgers, warmNow_tb, warmNow_bcp,
      warmNow_bootSkip, warmNow_vcoreSent, afterBye_pending, afterBye_flash, afterBye_otp, afterBye_tb, afterBye_rget,
      hphase, hstrap, hcause, otpWarm, and_self]
  case watchdog =>
    intro s a b hen h10 h30 hh ht hab
    refine ⟨_, exec_watchdogExpiry_runs hen (coreRuns_of (by omega) h30 hh ht) h10, ?_, ?_⟩
    · intro ha hb
      rw [wdtExpire_cold (two_recent hab ha hb), coldNow_boot]
      exact ⟨rfl, rfl⟩
    · intro ha
      rw [wdtExpire_warm (not_two_recent hab ha)]
      obtain ⟨hphase, -, hcause⟩ := warmNow_boot_step5 (modBoot s fun b => { b with wdtResets := s.now :: recentExpiries s }) 4
      exact ⟨hphase, hcause⟩
  case kick =>
    intro v s hv
    rw [exec_wdtKick, exec_wdtKick, wdtKickNow, if_neg (by simpa using hv)]
    exact ⟨rfl, rfl⟩

end Sys2Proof.Proofs
end

section
/-! PROOF. Holding, releasing and resetting a die, SVC's answer to DIE_READY, and the confirmation of a slot
(R79, R81, R82, R89, R106, R218). -/
namespace Sys2Proof.Proofs
open Sys2Proof Sys2Proof.Machine Sys2Proof.Laws

/-! ### What a release and a die reset may touch -/

/-- Nothing of the part differs from s but what a release from hold may change. -/
def ReleaseFrame (s t : State) : Prop :=
  t = { s with
    regs := t.regs, shadow := t.shadow, out := t.out, seqr := t.seqr, dies := t.dies, boot := t.boot, ports := t.ports,
    eye := t.eye, isp := t.isp, comp := t.comp, det := t.det, guard := t.guard, recs := t.recs, log := t.log,
    outboxes := t.outboxes }

/-- Nothing of the part differs from s but what a die reset may change. -/
def DieResetFrame (s t : State) : Prop :=
  t = { s with
    regs := t.regs, shadow := t.shadow, out := t.out, seqr := t.seqr, dies := t.dies, ledgers := t.ledgers, boot := t.boot,
    ports := t.ports, fabs := t.fabs, eye := t.eye, isp := t.isp, comp := t.comp, det := t.det, recs := t.recs,
    log := t.log, outboxes := t.outboxes }

theorem closed_releaseFrame (s : State) : Closed 0x6020f845a30 (ReleaseFrame s) := by
  unfold ReleaseFrame
  constructor
  all_goals first
    | exact fun b => absurd b Bool.false_ne_true
    | (intro _ t x h; rw [h])
    | (intro _ t x _ h; rw [h])

theorem closed_dieResetFrame (s : State) : Closed 0x60207a47a30 (DieResetFrame s) := by
  unfold DieResetFrame
  constructor
  all_goals first
    | exact fun b => absurd b Bool.false_ne_true
    | (intro _ t x h; rw [h])
    | (intro _ t x _ h; rw [h])

/-! ### Reading one die's entry -/

theorem die_modDie (s : State) (d : Die) (f : DieSt → DieSt) : (modDie s d f).die d = f (s.die d) := by
  have hd : d.idx < 6 := by cases d <;> decide
  exact (vget_vmod s.dies d.idx d.idx f).trans (if_pos ⟨rfl, hd⟩)

theorem die_of_dies {s t : State} (h : t.dies = s.dies) (d : Die) : t.die d = s.die d := congrArg (vget · d.idx) h

theorem fab_modFab {cd : Nat} (h : cd < 4) (s : State) (f : Fabric → Fabric) : (modFab s cd f).fab cd = f (s.fab cd) :=
  (vget_vmod s.fabs cd cd f).trans (if_pos ⟨rfl, h⟩)

theorem fab_of_fabs {s t : State} (h : t.fabs = s.fabs) (cd : Nat) : t.fab cd = s.fab cd := congrArg (vget · cd) h

theorem eq_of_lt_four {cd : Nat} (h : cd < 4) : cd = 0 ∨ cd = 1 ∨ cd = 2 ∨ cd = 3 := by omega

theorem ofCd_ne_svc (cd : Nat) : Die.ofCd cd ≠ .svc := by
  unfold Die.ofCd
  split <;> decide

theorem and_of_cdOk {s : State} {cd : Nat} (h : cdOk s cd = true) : cd < 4 ∧ fitted s (Die.ofCd cd) = true := by
  rwa [cdOk, Bool.and_eq_true, decide_eq_true_eq] at h

/-! ### Hold (Table 3.2) -/

/-- Each byte of a cleared range reads 0. -/
theorem byteAt_clearBytes_inside (m : List Host.Cell) {lo hi a : Nat} (hlo : lo ≤ a) (hhi : a < hi) :
    byteAt (clearBytes m lo hi) a = 0 := by
  unfold byteAt clearBytes
  induction m with
  | nil => rfl
  | cons e m ih =>
    obtain ⟨k, v⟩ := e
    rw [List.filter_cons]
    split
    · next hk =>
      have hne : k ≠ a := by
        rw [Bool.or_eq_true, decide_eq_true_eq, decide_eq_true_eq] at hk
        omega
      rw [mget, if_neg hne, ih]
    · exact ih

theorem holdDie_mem (s : State) (d : Die) (off : Bool) :
    (holdDie s d off).mem = clearBytes s.mem (dieMem d).1 (dieMem d).2 := by
  have hdown : (portsDown (rput s 0x0001001C (rget s 0x0001001C ||| holdBit d)) d off).mem = s.mem :=
    portsDown_keeps ((closed_mem s).sub (by decide)) _ _ _ rfl
  have hunits : ∀ t : State, (clearUnits t d).mem = t.mem := fun t =>
    clearUnits_keeps ((closed_mem t).sub (by decide)) _ _ rfl
  unfold holdDie
  dsimp only
  rw [modDie_mem, hunits, ← hdown]
  rfl

theorem clearUnits_ledger {d : Die} {cd : Nat} (h : d.cdIdx = some cd) (s : State) :
    vget (clearUnits s d).ledgers cd = [] := by
  have hmod : ∀ (t : State) (n : Nat), n < 4 → vget (modLedger t n fun _ => []).ledgers n = [] := fun t n hn =>
    (vget_vmod t.ledgers n n _).trans (if_pos ⟨rfl, hn⟩)
  cases d <;> cases h <;> exact hmod _ _ (by decide)

/-! ### Release (R81, R82) -/

/-- A compute die whose SITE is bad is FAILED; any other stays in the state it is in. -/
theorem readSite_state (s : State) (cd site : Nat) (mirrored : Bool) :
    ((readSite s cd site mirrored).die (Die.ofCd cd)).state =
      if siteBad site mirrored = true then 6 else (s.die (Die.ofCd cd)).state := by
  unfold readSite
  dsimp only
  split
  · exact congrArg DieSt.state (die_modDie ..)
  · rfl

theorem readSite_good {site : Nat} {mirrored : Bool} (h : siteBad site mirrored = false) (s : State) (cd : Nat) :
    readSite s cd site mirrored = modBoot s fun b => { b with site := b.site.setIfInBounds cd (site % 8, true) } := by
  unfold readSite
  dsimp only
  rw [h, if_neg Bool.false_ne_true]

theorem releaseDie_state (s : State) (d : Die) : ((releaseDie s d).die d).state = 2 := by
  unfold releaseDie
  dsimp only
  rw [die_of_dies (unitsOn_keeps ((closed_dies _).sub (by decide)) _ _ rfl), die_modDie]
  rfl

/-- A compute die released from hold reads SITE. -/
theorem releaseWith_cd {cd : Nat} (h : cd < 4) (s : State) (site : Nat) (mirrored guardOk : Bool) :
    releaseWith s (Die.ofCd cd) site mirrored guardOk = readSite (releaseDie s (Die.ofCd cd)) cd site mirrored := by
  rcases eq_of_lt_four h with rfl | rfl | rfl | rfl <;> rfl

/-! ### Die reset (R218) -/

/-- A die at its die reset, before it reads SITE. -/
def dieRestart (s : State) (cd : Nat) : State :=
  let d := Die.ofCd cd
  let b := cdBase cd
  let s1 := rclear (rclear (rclear s b (b + 0x00500000)) (b + 0x00600000) (b + 0x00700000)) (b + 0x00700008) (b + 0x01000000)
  let s2 := modFab (modDet (modComp (ledgerMark s1 cd).2 cd fun _ => {}) cd fun _ => {}) cd fabDieReset
  let s3 := (portsOf d).foldl (fun t p => modPort t p portSink) s2
  markPartial (unitsOn (modDie s3 d fun x => lostDie x 7) d) d

theorem dieResetNow_eq (s : State) (cd site : Nat) (mirrored : Bool) :
    dieResetNow s cd site mirrored = resetAborts (readSite (dieRestart s cd) cd site mirrored) cd := rfl

theorem dieRestart_state (s : State) (cd : Nat) : ((dieRestart s cd).die (Die.ofCd cd)).state = 7 := by
  unfold dieRestart
  dsimp only
  rw [die_of_dies (markPartial_keeps ((closed_dies _).sub (by decide)) _ _ rfl),
    die_of_dies (unitsOn_keeps ((closed_dies _).sub (by decide)) _ _ rfl), die_modDie]
  rfl

theorem dieRestart_fab {cd : Nat} (h : cd < 4) (s : State) : (dieRestart s cd).fab cd = fabDieReset (s.fab cd) := by
  unfold dieRestart
  dsimp only
  rw [fab_of_fabs (markPartial_keeps ((closed_fabs _).sub (by decide)) _ _ rfl),
    fab_of_fabs (unitsOn_keeps ((closed_fabs _).sub (by decide)) _ _ rfl),
    fab_of_fabs (modDie_fabs ..),
    fab_of_fabs (foldl_keeps (fun t p ht => modPort_keeps ((closed_fabs _).sub (by decide)) t p portSink ht) _ _ rfl),
    fab_modFab h]
  rfl

theorem dieRestart_partial (s : State) (cd : Nat) : (dieRestart s cd).seqr.cur.partialEp = true := rfl

/-! ### What is left when a reset die's siblings are told -/

theorem dieResetNow_state (s : State) (cd site : Nat) (mirrored : Bool) :
    ((dieResetNow s cd site mirrored).die (Die.ofCd cd)).state = if siteBad site mirrored = true then 6 else 7 := by
  rw [dieResetNow_eq, die_of_dies (resetAborts_keeps ((closed_dies _).sub (by decide)) _ _ rfl), readSite_state,
    dieRestart_state]

theorem dieResetNow_fab {cd : Nat} (h : cd < 4) (s : State) (site : Nat) (mirrored : Bool) :
    (dieResetNow s cd site mirrored).fab cd = fabDieReset (s.fab cd) := by
  rw [dieResetNow_eq, fab_of_fabs (resetAborts_keeps ((closed_fabs _).sub (by decide)) _ _ rfl),
    fab_of_fabs (readSite_keeps ((closed_fabs _).sub (by decide)) _ _ _ _ rfl), dieRestart_fab h]

theorem dieResetNow_mem (s : State) (cd site : Nat) (mirrored : Bool) : (dieResetNow s cd site mirrored).mem = s.mem :=
  dieResetNow_keeps ((closed_mem s).sub (by decide)) s cd site mirrored rfl

/-- A die that comes back with a good SITE makes the epoch PARTIAL. -/
theorem dieResetNow_partial {site : Nat} {mirrored : Bool} (h : siteBad site mirrored = false) (s : State) (cd : Nat) :
    (dieResetNow s cd site mirrored).seqr.cur.partialEp = true := by
  rw [dieResetNow_eq, resetAborts_keeps ((closed_seqr _).sub (by decide)) _ _ rfl, readSite_good h]
  rfl

/-! ### The commands on the core's path -/

section Answer
variable (s : State) (path : Path) (a : Nat) (st : AccStatus) (lo hi : Word)

@[simp] theorem answer_dies : (answer s path a st lo hi).dies = s.dies :=
  answer_keeps ((closed_dies s).sub (by decide)) s path a st lo hi rfl
@[simp] theorem answer_mem : (answer s path a st lo hi).mem = s.mem :=
  answer_keeps ((closed_mem s).sub (by decide)) s path a st lo hi rfl
@[simp] theorem answer_ledgers : (answer s path a st lo hi).ledgers = s.ledgers :=
  answer_keeps ((closed_ledgers s).sub (by decide)) s path a st lo hi rfl
@[simp] theorem answer_boot : (answer s path a st lo hi).boot = s.boot :=
  answer_keeps ((closed_boot s).sub (by decide)) s path a st lo hi rfl
@[simp] theorem answer_fabs : (answer s path a st lo hi).fabs = s.fabs :=
  answer_keeps ((closed_fabs s).sub (by decide)) s path a st lo hi rfl
@[simp] theorem answer_seqr : (answer s path a st lo hi).seqr = s.seqr :=
  answer_keeps ((closed_seqr s).sub (by decide)) s path a st lo hi rfl

end Answer

theorem exec_dieHoldSet (path : Path) (d : Die) (s : State) : exec (.dieHoldSet path d) s = execDieHoldSet path d s := rfl

theorem exec_dieHoldRelease (path : Path) (d : Die) (site : Nat) (m g : Bool) (s : State) :
    exec (.dieHoldRelease path d site m g) s = execDieHoldRelease path d site m g s := rfl

theorem exec_dieReset (path : Path) (cd site : Nat) (m : Bool) (s : State) :
    exec (.dieReset path cd site m) s = execDieReset path cd site m s := rfl

theorem exec_dieReady (r : LinkRx) (s : State) : exec (.dieReady r) s = execDieReady r s := rfl

theorem exec_slotConfirm (s : State) : exec .slotConfirm s = execSlotConfirm s := rfl

/-- On the core's path DIE_HOLD's bit of a fitted die is always written. -/
theorem holdWrite_core {s : State} {d : Die} (hd : d ≠ .svc) (hf : fitted s d = true) (f : State → State) :
    holdWrite s .core d f = .next (answer (f s) .core 0x0001001C .ok) := by
  have hm : mayWrite s .core 0x0001001C = true := rfl
  unfold holdWrite
  rw [hf, hm, bne_iff_ne.mpr hd]
  rfl

theorem exec_dieHoldSet_core {s : State} {d : Die} (hd : d ≠ .svc) (hf : fitted s d = true) (hh : held s d = false) :
    exec (.dieHoldSet .core d) s = .next (answer (holdDie s d false) .core 0x0001001C .ok) := by
  rw [exec_dieHoldSet, execDieHoldSet, holdWrite_core hd hf, hh, if_neg Bool.false_ne_true]

theorem exec_dieHoldRelease_core {s : State} {cd : Nat} (hcd : cdOk s cd = true) (hheld : held s (Die.ofCd cd) = true)
    (hlevel : levelPermits s (Die.ofCd cd) = true) (site : Nat) (m g : Bool) :
    exec (.dieHoldRelease .core (Die.ofCd cd) site m g) s =
      .next (answer (readSite (releaseDie s (Die.ofCd cd)) cd site m) .core 0x0001001C .ok) := by
  obtain ⟨hlt, hfit⟩ := and_of_cdOk hcd
  rw [exec_dieHoldRelease, execDieHoldRelease, holdWrite_core (ofCd_ne_svc cd) hfit, hheld, hlevel, releaseWith_cd hlt]
  rfl

theorem mayWrite_core_fabReset {cd : Nat} (h : cd < 4) (s : State) : mayWrite s .core (fabReg cd 4) = true := by
  rcases eq_of_lt_four h with rfl | rfl | rfl | rfl <;> rfl

theorem exec_dieReset_core {s : State} {cd : Nat} (hcd : cdOk s cd = true) (hopen : dieOpen s (Die.ofCd cd) = true)
    (site : Nat) (m : Bool) :
    exec (.dieReset .core cd site m) s = .next (answer (dieResetNow s cd site m) .core (fabReg cd 4) .ok) := by
  obtain ⟨hlt, -⟩ := and_of_cdOk hcd
  rw [exec_dieReset, execDieReset, hcd, hopen, mayWrite_core_fabReset hlt]
  rfl

/-- A control message of the code a command names takes its effect after the link layer. -/
theorem onMsg_taken {s s1 : State} {r : LinkRx} {x : Parcel} {code : Nat} (hp : portOk s r.port = true)
    (hr : linkReceive s r = (some x, s1)) (hvc : x.vc = 0) (hk : x.kind = 8) (ha : x.arg = code) (f : State → Parcel → State) :
    onMsg s r code f = .next (f s1 x) := by
  simp only [onMsg, onParcel, onUnit, hp, hr, hvc, hk, ha, BEq.rfl, Bool.and_self, ↓reduceIte]

/-! ### The confirmation of a slot (R87, R106) -/

/-- A descriptor goes to the copy not in use with the next GEN, and is in use from then on. -/
theorem descNow_writeDesc {s : State} {d : BootDesc} (h : descNow s = some d) (f : BootDesc → BootDesc) :
    descNow (writeDesc s f) = some { f d with gen := (d.gen + 1) % 2 ^ 32 } := by
  unfold writeDesc
  rw [h]
  dsimp only [descNow, emit, modBoot, modFlash]
  by_cases hn : 1 - s.boot.descCopy = 0
  · rw [hn]; rfl
  · rw [show 1 - s.boot.descCopy = 1 by omega]; rfl

theorem writeDesc_rb (s : State) (f : BootDesc → BootDesc) (a i : Nat) : rb (writeDesc s f) a i = rb s a i := by
  unfold writeDesc
  split <;> rfl

/-- Settles O24: each command is one operation answered on its path, which may change its frame alone; SVC's answer to
DIE_READY and the confirmation of a slot are their own equations. -/
theorem holdAndResetOfADie : Obligations.HoldAndResetOfADie := by
  unfold Obligations.HoldAndResetOfADie
  refine ⟨?hold, ?release, ?reset, ?ready, ?confirm⟩
  case hold =>
    intro d s hd hf hh
    have hdie : ((answer (holdDie s d false) .core 0x0001001C .ok).die d) = lostDie _ 1 :=
      (die_of_dies (answer_dies ..) d).trans (die_modDie ..)
    refine ⟨_, exec_dieHoldSet_core hd hf hh, congrArg DieSt.state hdie, congrArg DieSt.out hdie, fun a hlo hhi => ?_,
      fun cd hcd => ?_⟩
    · rw [answer_mem, holdDie_mem, byteAt_clearBytes_inside s.mem hlo hhi]
    · rw [answer_ledgers]
      exact clearUnits_ledger hcd _
  case release =>
    intro cd site m g s hcd hheld hlevel
    have hexec := exec_dieHoldRelease_core hcd hheld hlevel site m g
    obtain ⟨hlt, -⟩ := and_of_cdOk hcd
    refine ⟨_, hexec, (execDieHoldRelease_keeps (closed_releaseFrame s) .core (Die.ofCd cd) site m g s rfl).of _ hexec, ?_,
      fun hgood => ?_⟩
    · rw [die_of_dies (answer_dies ..), readSite_state, releaseDie_state]
    · rw [answer_boot, readSite_good hgood]
      exact (Vector.getElem?_setIfInBounds ..).trans ((if_pos rfl).trans (if_pos hlt))
  case reset =>
    intro cd site m s hcd hopen
    have hexec := exec_dieReset_core hcd hopen site m
    obtain ⟨hlt, -⟩ := and_of_cdOk hcd
    have hfab : (answer (dieResetNow s cd site m) .core (fabReg cd 4) .ok).fab cd = fabDieReset (s.fab cd) :=
      (fab_of_fabs (answer_fabs ..) cd).trans (dieResetNow_fab hlt s site m)
    refine ⟨_, hexec, (execDieReset_keeps (closed_dieResetFrame s) .core cd site m s rfl).of _ hexec, ?_, ?_,
      (congrArg Fabric.gen hfab :), (congrArg Fabric.held hfab :), fun hgood => ?_⟩
    · rw [die_of_dies (answer_dies ..), dieResetNow_state]
    · rw [answer_mem, dieResetNow_mem]
    · rw [answer_seqr, dieResetNow_partial hgood]
  case ready =>
    intro r x d s s1 hp hr hvc hk ha hport hsrc hd hf hstate
    rw [exec_dieReady, execDieReady, onMsg_taken hp hr hvc hk ha, hsrc]
    simp only [hport, bne_iff_ne.mpr hd, hf, hstate, BEq.rfl, Bool.and_self, ↓reduceIte]
  case confirm =>
    intro d t0 s hdesc hrun hphase hslot hstaged hlate hraise
    refine ⟨?_, descNow_writeDesc hdesc _⟩
    rw [exec_slotConfirm, execSlotConfirm, hdesc, hrun]
    dsimp only
    rw [hphase, hslot, descState, hstaged, decide_eq_true hlate, writeDesc_rb, hraise]
    rfl

end Sys2Proof.Proofs
end

section
/-! PROOF. The first epoch: what it leaves, and that it clears one listed value of BOOT_SKIP alone, so that a register map
that lists BOOT_SKIP twice keeps the second (R105). -/
namespace Sys2Proof.Proofs
open Sys2Proof Sys2Proof.Machine Sys2Proof.Laws

/-! ### The part enters RUN -/

/-- The season of the first epoch: SUMMER or the AUTUMN level in force. -/
def firstSeason (s : State) : State :=
  seasonTo (modPower s fun p => { p with capLevel := autumnLevel s }) (seasonOfLevel (autumnLevel s))

/-- The sequencer and the dies run. -/
def runDies (s : State) : State :=
  let s1 := modSeq (firstSeason s) fun q => { q with ran := true, decimate := autumnLevel s == 2 }
  (fittedDies s1).foldl (fun t d => modDie t d fun x => { x with state := if x.state == 4 then 5 else x.state }) s1

/-- The part in RUN, before BOOT_REPORT. -/
def runEntered (s : State) : State :=
  modBoot (runDies s) fun b => { b with phase := 17, runSince := if b.firstDone then b.runSince else some s.now }

section Run
variable (s : State)

/-- Of the dies a step to RUN changes their states alone. -/
theorem runDies_of_season {P : State → Prop} (c : Closed 0x1000 P)
    (h : P (modSeq (firstSeason s) fun q => { q with ran := true, decimate := autumnLevel s == 2 })) : P (runDies s) :=
  foldl_keeps (fun t d ht => modDie_keeps c t d _ ht) _ _ h

theorem firstSeason_season : (firstSeason s).power.season =
    if autumnLevel s = 0 then .summer else if autumnLevel s = 1 then .a1 else if autumnLevel s = 2 then .a2 else .a3 := by
  unfold firstSeason
  rw [seasonTo_season]
  unfold seasonOfLevel
  split
  · next h => rw [h]; rfl
  · next h => rw [h]; rfl
  · next h => rw [h]; rfl
  · next h0 h1 h2 => rw [if_neg h0, if_neg h1, if_neg h2]

theorem firstSeason_thermalStopped : (firstSeason s).power.thermalStopped = s.power.thermalStopped := by
  obtain ⟨n, mv, h⟩ := seasonTo_power (modPower s fun p => { p with capLevel := autumnLevel s }) (seasonOfLevel (autumnLevel s))
  unfold firstSeason
  rw [h]
  rfl

theorem runEntered_regs : (runEntered s).regs = s.regs :=
  runDies_of_season s ((closed_regs s).sub (by decide)) (seasonTo_keeps ((closed_regs s).sub (by decide)) _ _ rfl)

theorem runEntered_now : (runEntered s).now = s.now :=
  runDies_of_season s ((closed_now s).sub (by decide)) (seasonTo_keeps ((closed_now s).sub (by decide)) _ _ rfl)

theorem runEntered_power : (runEntered s).power = (firstSeason s).power :=
  runDies_of_season s ((closed_power (firstSeason s)).sub (by decide)) rfl

theorem runEntered_ran : (runEntered s).seqr.ran = true :=
  congrArg SeqSt.ran (runDies_of_season s ((closed_seqr (modSeq (firstSeason s) _)).sub (by decide)) rfl :)

theorem runEntered_boot : (runEntered s).boot =
    { s.boot with phase := 17, runSince := if s.boot.firstDone then s.boot.runSince else some s.now } := by
  have hdies : (runDies s).boot = s.boot :=
    (runDies_of_season s ((closed_boot (firstSeason s)).sub (by decide)) rfl).trans (seasonTo_boot _ _)
  unfold runEntered
  rw [modBoot_boot, hdies]

/-! ### BOOT_REPORT -/

theorem bootReport_boot : (bootReport s).boot =
    { s.boot with bootTimeMs := toWord ((s.now - s.boot.started) / 1000000), firstDone := true } := by
  unfold bootReport
  exact raise_boot ..

theorem bootReport_power : (bootReport s).power = s.power := bootReport_keeps ((closed_power s).sub (by decide)) s rfl

theorem bootReport_seqr : (bootReport s).seqr = s.seqr := bootReport_keeps ((closed_seqr s).sub (by decide)) s rfl

/-- Writing BOOT_SKIP's reset value 0 takes its first listed value out of the register map. -/
theorem rget_bootReport_bootSkip :
    rget (bootReport s) 0x0001000C = mget 0 (merase s.regs 0x0001000C) 0x0001000C := by
  have hregs : (bootReport s).regs = (rput s 0x0001000C 0).regs := by
    unfold bootReport
    exact raise_regs ..
  have hpart : (bootReport s).part = s.part := bootReport_keeps ((closed_part s).sub (by decide)) s rfl
  have hreset : toWord (regDefault s.part 0x0001000C) = 0 := by
    cases s.part <;> rfl
  unfold rget
  rw [hregs, hpart]
  unfold rput mset
  rw [hreset, if_pos rfl]

end Run

/-! ### The command -/

theorem exec_firstEpoch (s : State) : exec .firstEpoch s = execFirstEpoch s := rfl

/-- BOOT_REPORT follows where this is the first epoch since the reset and no thermal stop came before. -/
theorem exec_firstEpoch_eq {s : State} (h16 : s.boot.phase = 16) (harm : s.seqr.armed = true)
    (hfirst : s.boot.firstDone = false) (hstop : s.power.thermalStopped = false) :
    exec .firstEpoch s = .next (bootReport (runEntered s)) := by
  have hstop' : (bootReport (runEntered s)).power.thermalStopped = false := by
    rw [bootReport_power, runEntered_power, firstSeason_thermalStopped, hstop]
  have hfirst' : (runEntered s).boot.firstDone = false := by rw [runEntered_boot, ← hfirst]
  have hexec : execFirstEpoch s = .next (
      if (s.boot.phase != 16 || !s.seqr.armed) = true then s
      else
        let s5 := if (runEntered s).boot.firstDone = true then runEntered s else bootReport (runEntered s)
        if s5.power.thermalStopped = true then
          raise (modPower s5 fun p => { p with thermalStopped := false }) 0xE 0 Code.thermalStopped 3
            (packArgs [((s.power.tjPeak % 2 ^ 32).toNat, 4)])
        else s5) := rfl
  rw [exec_firstEpoch, hexec, h16, harm, hfirst']
  dsimp only
  rw [if_neg (by decide), if_neg Bool.false_ne_true, if_neg (by rw [hstop']; decide)]

/-- Start-up done and the sequencer armed, in a register map that lists BOOT_SKIP twice. -/
def bootSkipTwice : State :=
  { State.reset with
    boot := { phase := 16 }, seqr := { armed := true }, regs := [(0x0001000C, 1), (0x0001000C, 1)] }

/-- Refutes O25 at BOOT_SKIP: the statement takes every register map, also one that is not in canonical form, and writing
the reset value 0 takes only the first of two listed values away. -/
theorem not_firstEpoch : ¬ Obligations.FirstEpoch := by
  unfold Obligations.FirstEpoch
  intro h
  obtain ⟨t, hexec, -, -, -, -, hskip, -, -⟩ := h bootSkipTwice rfl rfl rfl rfl
  have ht : bootReport (runEntered bootSkipTwice) = t :=
    Host.Outcome.next.inj ((exec_firstEpoch_eq rfl rfl rfl rfl).symm.trans hexec)
  rw [← ht, rget_bootReport_bootSkip, runEntered_regs] at hskip
  exact absurd hskip (by decide)

/-! ### What holds where no register is listed twice -/

theorem mget_of_not_mem {α : Type} (d : α) {m : List (Nat × α)} {i : Nat} (h : i ∉ m.map Prod.fst) : mget d m i = d := by
  induction m with
  | nil => rfl
  | cons e m ih =>
    obtain ⟨k, v⟩ := e
    rw [List.map_cons, List.mem_cons, not_or] at h
    rw [mget, if_neg (Ne.symm h.1), ih h.2]

/-- A key listed once is gone once erased. -/
theorem mget_merase_of_nodup {α : Type} (d : α) {m : List (Nat × α)} (i : Nat) (h : (m.map Prod.fst).Nodup) :
    mget d (merase m i) i = d := by
  induction m with
  | nil => rfl
  | cons e m ih =>
    obtain ⟨k, v⟩ := e
    rw [List.map_cons, List.nodup_cons] at h
    obtain ⟨hnew, hrest⟩ := h
    rw [merase]
    split
    · next hk => exact mget_of_not_mem d (hk ▸ hnew)
    · next hk => rw [mget, if_neg hk, ih hrest]

/-- Nothing of the part differs from s but what the first epoch may change. -/
def FirstEpochFrame (s t : State) : Prop :=
  t = { s with
    freeIdx := t.freeIdx, regs := t.regs, out := t.out, seqr := t.seqr, dies := t.dies, boot := t.boot, recs := t.recs,
    lst := t.lst, hk := t.hk, fo := t.fo, tamper := t.tamper, log := t.log, power := t.power }

theorem closed_firstEpochFrame (s : State) : Closed 0xa7a00005a18 (FirstEpochFrame s) := by
  unfold FirstEpochFrame
  constructor
  all_goals first
    | exact fun b => absurd b Bool.false_ne_true
    | (intro _ t x h; rw [h])
    | (intro _ t x _ h; rw [h])

/-- What O25 states does hold of every register map that lists no register twice. -/
theorem firstEpoch_of_keys_nodup {s : State} (hkeys : (s.regs.map Prod.fst).Nodup) (h16 : s.boot.phase = 16)
    (harm : s.seqr.armed = true) (hfirst : s.boot.firstDone = false) (hstop : s.power.thermalStopped = false) :
    ∃ t, exec .firstEpoch s = .next t ∧ FirstEpochFrame s t ∧ t.boot.phase = 17 ∧ t.seqr.ran = true ∧
      t.boot.firstDone = true ∧ rget t 0x0001000C = 0 ∧
      t.boot.bootTimeMs = toWord ((s.now - s.boot.started) / 1000000) ∧
      t.power.season =
        if autumnLevel s = 0 then .summer else if autumnLevel s = 1 then .a1 else if autumnLevel s = 2 then .a2 else .a3 := by
  have hexec := exec_firstEpoch_eq h16 harm hfirst hstop
  have hframe := (execFirstEpoch_keeps (closed_firstEpochFrame s) s rfl).of _ hexec
  refine ⟨_, hexec, hframe, ?_⟩
  rw [bootReport_boot, bootReport_power, bootReport_seqr, rget_bootReport_bootSkip, runEntered_regs, runEntered_boot,
    runEntered_now, runEntered_power, runEntered_ran, firstSeason_season]
  exact ⟨rfl, rfl, rfl, mget_merase_of_nodup 0 _ hkeys, rfl, rfl⟩

/-- The part after start-up, its register map listing BOOT_SKIP once, meets these conditions. -/
theorem firstEpoch_of_keys_nodup_met : ∃ s : State, (s.regs.map Prod.fst).Nodup ∧ s.boot.phase = 16 ∧ s.seqr.armed = true ∧
    s.boot.firstDone = false ∧ s.power.thermalStopped = false :=
  ⟨{ bootSkipTwice with regs := [(0x0001000C, 1)] }, by decide, rfl, rfl, rfl, rfl⟩

end Sys2Proof.Proofs
end

section
/-! PROOF. The OTP macro only gains bits: growth from a given macro is closed under every change a command makes, so a step,
which is one command or one tick, keeps it (R107, R108). -/
namespace Sys2Proof.Proofs
open Sys2Proof Sys2Proof.Machine Sys2Proof.Laws

theorem otpGrows_refl (o : OtpSt) : OtpGrows o o := otpGrows_same rfl rfl rfl

/-- A change of the macro that loses no bit keeps growth from s by transitivity, and so does a reset, which keeps the macro's
bits; every other change leaves the macro alone. -/
theorem closed_otpGrows (s : State) : Closed 0x10000ffffffffff8 fun t => OtpGrows s.otp t.otp := by
  constructor
  case set_otp => exact fun _ _ _ grows h => otpGrows_trans h grows
  case reset => exact fun _ _ _ kept h => otpGrows_trans h kept.otp
  case set_ledgers | set_mem | set_log | set_outboxes => exact fun _ _ _ _ h => h
  all_goals exact fun _ _ _ h => h

/-- No command clears a programmed OTP bit. -/
theorem exec_otpGrows (i : Instr) {s t : State} (h : exec i s = .next t) : OtpGrows s.otp t.otp :=
  (exec_keeps (closed_otpGrows s) i s (otpGrows_refl s.otp)).of t h

@[simp] theorem tick_otp (s : State) : (tick s).otp = s.otp := rfl

/-- A step is the command in front, run with the rest of the queue, or on an empty queue a tick. -/
theorem step_next_cases {s t : State} (h : step s = .next t) :
    (∃ i rest, s.pending = i :: rest ∧ exec i { s with pending := rest } = .next t) ∨ (s.pending = [] ∧ t = tick s) := by
  unfold step at h
  split at h
  case h_1 i rest hq => exact .inl ⟨i, rest, hq, h⟩
  case h_2 hq =>
    injection h with ht
    exact .inr ⟨hq, ht.symm⟩

/-- Settles O7: the command in front runs on a state with the same macro, and a tick leaves the macro as it is. -/
theorem otpBitsNeverClear : Obligations.OtpBitsNeverClear := by
  unfold Obligations.OtpBitsNeverClear
  intro s t h
  obtain ⟨i, rest, _, hexec⟩ | ⟨_, rfl⟩ := step_next_cases h
  · exact exec_otpGrows i (s := { s with pending := rest }) hexec
  · rw [tick_otp]
    exact otpGrows_refl s.otp

end Sys2Proof.Proofs
end

section
/-! PROOF. The ports of the die links: what an operation leaves of a port's entry, what each link-management word does to it
(R152, R153, R184), and how a training, a retrain and a loss of sideband, clock or supply end (R153, R154, R159, R164, R166). -/
namespace Sys2Proof.Proofs
open Sys2Proof Sys2Proof.Machine Sys2Proof.Laws

/-! ### Reading one port's entry -/

theorem idx_lt_of_valid {p : PortId} (h : p.valid = true) : p.idx < 23 := by
  obtain ⟨d, n⟩ := p
  rw [PortId.valid, decide_eq_true_eq] at h
  cases d <;> simp only [PortId.idx, Die.portCount] at h ⊢ <;> omega

theorem idx_lt_of_portOk {s : State} {p : PortId} (h : portOk s p = true) : p.idx < 23 :=
  idx_lt_of_valid (Bool.and_eq_true_iff.mp h).1

theorem port_modPort {p : PortId} (h : p.idx < 23) (s : State) (f : EdlPort → EdlPort) :
    (modPort s p f).port p = f (s.port p) :=
  (vget_vmod s.ports p.idx p.idx f).trans (if_pos ⟨rfl, h⟩)

theorem port_of_ports {s t : State} (h : t.ports = s.ports) (p : PortId) : t.port p = s.port p := congrArg (vget · p.idx) h

/-- A change of an entry is what it does to the entry that stands there. -/
theorem modPort_congr {s : State} {p : PortId} {f g : EdlPort → EdlPort} (h : f (s.port p) = g (s.port p)) :
    modPort s p f = modPort s p g :=
  congrArg (fun e => { s with ports := s.ports.setIfInBounds p.idx e }) h

theorem modPort_modPort {p : PortId} (h : p.idx < 23) (s : State) (f g : EdlPort → EdlPort) :
    modPort (modPort s p f) p g = modPort s p fun e => g (f e) := by
  have hports : (s.ports.setIfInBounds p.idx (f (s.port p))).setIfInBounds p.idx (g ((modPort s p f).port p)) =
      s.ports.setIfInBounds p.idx (g (f (s.port p))) := by
    rw [Vector.setIfInBounds_setIfInBounds, port_modPort h]
  exact congrArg (fun v => { s with ports := v }) hports

theorem ports_ite_markPartial (c : Prop) [Decidable c] (s : State) (d : Die) :
    (if c then markPartial s d else s).ports = s.ports := by
  split <;> rfl

/-! ### The loss of a port touches queues alone (R186–R188) -/

/-- Entry b of a port is entry a but for the parcels that wait to be sent, replayed or acknowledged. -/
def SameButQueues (a b : EdlPort) : Prop :=
  b = { a with replayBuf := b.replayBuf, replayQ := b.replayQ, replayPoint := b.replayPoint, txq := b.txq }

theorem SameButQueues.trans {a b c : EdlPort} (h : SameButQueues a b) (h' : SameButQueues b c) : SameButQueues a c := by
  unfold SameButQueues at *
  rw [h', h]

section Loss
variable {e : EdlPort} {p : PortId} {s : State}

theorem SameButQueues.modPort (h : SameButQueues e (s.port p)) (q : PortId) {f : EdlPort → EdlPort}
    (hf : ∀ x, SameButQueues x (f x)) : SameButQueues e ((modPort s q f).port p) := by
  unfold State.port Machine.modPort at *
  rw [vget_vmod]
  split
  · next hq =>
    rw [hq.1]
    exact h.trans (hf _)
  · exact h

theorem SameButQueues.of_ports {t : State} (h : SameButQueues e (s.port p)) (ht : t.ports = s.ports) :
    SameButQueues e (t.port p) := by rwa [port_of_ports ht]

theorem SameButQueues.routeParcel (h : SameButQueues e (s.port p)) (d : Die) (x : Parcel) :
    SameButQueues e ((routeParcel s d x).port p) := by
  unfold Machine.routeParcel
  split
  · exact h.modPort _ fun _ => rfl
  · exact h.of_ports (raiseOn_ports ..)

theorem SameButQueues.reissue (h : SameButQueues e (s.port p)) (q : PortId) : SameButQueues e ((reissue s q).port p) := by
  unfold Machine.reissue
  dsimp only
  refine SameButQueues.of_ports ?_ (ports_ite_markPartial ..)
  refine foldl_keeps (P := fun t => SameButQueues e (t.port p)) (fun t x ht => ht.routeParcel q.die x) _ _ ?_
  refine foldl_keeps (P := fun t => SameButQueues e (t.port p)) (fun t x ht => ?_) _ _ (h.modPort q fun _ => rfl)
  split
  · exact ht.modPort _ fun _ => rfl
  · exact ht.of_ports (raiseOn_ports ..)

/-- A lost port keeps its state: its parcels take other routes, and routes switch. -/
theorem SameButQueues.portLost (h : SameButQueues e (s.port p)) (q : PortId) : SameButQueues e ((portLost s q).port p) := by
  have hroutes := h.of_ports (switchRoutes_keeps ((closed_ports s).sub (by decide)) s q rfl)
  unfold Machine.portLost
  dsimp only
  split <;> exact (hroutes.reissue q).of_ports rfl

end Loss

/-! ### Link-management words (Table 5.6) -/

theorem onUnit_portOk {s : State} {p : PortId} (h : portOk s p = true) (t : State) : onUnit (portOk s p) t = .next t := if_pos h

/-- A word of the OP a command names, which passed vote and CHK at a port whose sideband lives, takes its effect. -/
theorem onLmw_taken {f : SbFrame} {w : BitVec 48} {s s1 : State} {op : Nat} (hp : portOk s f.port = true)
    (hs : sbTake s f = (some w, s1)) (hop : tokType w = op) (hd : (s1.port f.port).sbDead = false)
    (g : State → BitVec 48 → State) : onLmw s f op g = .next (g s1 w) := by
  unfold onLmw
  rw [onUnit_portOk hp, hs]
  dsimp only
  rw [hop, hd, if_pos (by rw [BEq.rfl]; rfl)]

theorem exec_lmwHello (f : SbFrame) (s : State) : exec (.lmwHello f) s = execLmwHello f s := rfl
theorem exec_lmwStep (f : SbFrame) (s : State) : exec (.lmwStep f) s = execLmwStep f s := rfl
theorem exec_lmwFail (f : SbFrame) (s : State) : exec (.lmwFail f) s = execLmwFail f s := rfl
theorem exec_lmwSteer (f : SbFrame) (s : State) : exec (.lmwSteer f) s = execLmwSteer f s := rfl
theorem exec_lmwSteerAck (f : SbFrame) (s : State) : exec (.lmwSteerAck f) s = execLmwSteerAck f s := rfl
theorem exec_lmwRetrain (f : SbFrame) (s : State) : exec (.lmwRetrain f) s = execLmwRetrain f s := rfl
theorem exec_lmwResend (p : PortId) (s : State) : exec (.lmwResend p) s = execLmwResend p s := rfl

/-- The entry of a port that has sent RETRAIN. -/
def retrainingPort (e : EdlPort) : EdlPort :=
  { e with pstate := .retraining, phy := .retraining, step := 3, retrainDue := false, answered := false,
           lmw := some (lmwWord 6 0 0), lmwSends := 1 }

/-- A retrain of an UP port starts with RETRAIN to the partner, or in the guard interval is marked due (R154, R184). -/
theorem startRetrain_of_up {s : State} {p : PortId} (h : (s.port p).pstate = .up) :
    startRetrain s p = if s.seqr.killed = true then modPort s p fun e => { e with retrainDue := true }
      else sendSb (modPort s p retrainingPort) p (lmwWord 6 0 0) := by
  unfold startRetrain
  dsimp only
  rw [h]
  rfl

/-- Settles O27: each word is taken, and its effect on the port is the model's own, with the tests that the clause's
hypotheses decide taken out. -/
theorem linkManagementWords : Obligations.LinkManagementWords := by
  unfold Obligations.LinkManagementWords
  refine ⟨?hello, ?step, ?fail, ?steer, ?ack, ?retrain, ?resend⟩
  case hello =>
    intro f w s s1 hp hs ht hd hseen hpow hsb hphy
    rw [exec_lmwHello, execLmwHello, onLmw_taken hp hs ht hd, hpow, hsb, hseen]
    refine congrArg Host.Outcome.next (modPort_congr ?_)
    rw [hphy, Bool.or_true]
    rfl
  case step =>
    intro f w s s1 hp hs ht hd hphy hlmw
    rw [exec_lmwStep, execLmwStep, onLmw_taken hp hs ht hd]
    dsimp only
    rw [hphy, hlmw]
    rfl
  case fail =>
    intro f w s s1 hp hs ht hd harg
    rw [exec_lmwFail, execLmwFail, onLmw_taken hp hs ht hd, harg]
    refine ⟨_, rfl, rfl, ?_, ?_⟩
    all_goals
      rw [port_modPort (idx_lt_of_portOk hp)]
      rfl
  case steer =>
    intro f w s s1 hp hs ht hd
    rw [exec_lmwSteer, execLmwSteer, onLmw_taken hp hs ht hd]
  case ack =>
    intro f w s s1 hp hs ht hd hb
    rw [exec_lmwSteerAck, execLmwSteerAck, onLmw_taken hp hs ht hd, hb]
    simp only [BEq.rfl, ↓reduceIte, Bool.and_eq_true, beq_iff_eq, modTx]
    split
    · rfl
    · split
      · next hn => rw [if_pos (Nat.lt_of_succ_lt_succ hn)]
      · next hn => rw [if_neg (mt Nat.succ_lt_succ hn)]
  case retrain =>
    intro f w s s1 hp hs ht hd hup hphy hk
    rw [exec_lmwRetrain, execLmwRetrain, onLmw_taken hp hs ht hd, hphy, startRetrain_of_up hup, hk]
    rfl
  case resend =>
    intro p w s hp hlmw
    rw [exec_lmwResend, execLmwResend, onUnit_portOk hp]
    dsimp only
    rw [hlmw]
    rfl

/-! ### Training (R153, R154) -/

/-- Nothing of the part differs from s but what a training may change. -/
def TrainingFrame (s t : State) : Prop :=
  t = { s with
    regs := t.regs, out := t.out, seqr := t.seqr, boot := t.boot, ports := t.ports, recs := t.recs, log := t.log,
    outboxes := t.outboxes }

theorem closed_trainingFrame (s : State) : Closed 0x60200044a10 (TrainingFrame s) := by
  unfold TrainingFrame
  constructor
  all_goals first
    | exact fun b => absurd b Bool.false_ne_true
    | (intro _ t x h; rw [h])
    | (intro _ t x _ h; rw [h])

section Training
variable {s : State} {p : PortId} {o : TrainObs}

theorem exec_linkTrain (hp : portOk s p = true) (o : TrainObs) : exec (.linkTrain p o) s = .next (trainPort s p o) :=
  onUnit_portOk hp _

theorem trainPort_frame (hp : portOk s p = true) (o : TrainObs) : TrainingFrame s (trainPort s p o) :=
  (execLinkTrain_keeps (closed_trainingFrame s) p o s rfl).of _ (exec_linkTrain hp o)

theorem trainPort_of_untrainable (h : portPowered s p = false ∨ (s.port p).pstate = .dead ∨ (s.port p).pstate = .isolated ∨
    (s.port p).phy = .up ∨ (s.port p).phy = .absent) : trainPort s p o = s := by
  unfold trainPort
  dsimp only
  rw [if_pos]
  simpa only [Bool.or_eq_true, Bool.not_eq_true', beq_iff_eq, or_assoc] using h

/-- The entry of a port without a partner. -/
def absentPort (e : EdlPort) : EdlPort := { e with phy := .absent, pstate := .absent, poweredOff := true, step := 1 }

theorem trainPort_absent_port (hp : portOk s p = true) (hpow : portPowered s p = true) (hphy : (s.port p).phy = .training)
    (hdown : (s.port p).pstate = .down) (habs : o.present = false) :
    SameButQueues (absentPort (s.port p)) ((trainPort s p o).port p) := by
  have hi := idx_lt_of_portOk hp
  unfold trainPort
  dsimp only
  rw [hpow, hphy, hdown, habs, if_neg (by decide), Bool.not_false, Bool.true_or, if_pos rfl, if_neg (by decide)]
  split
  · refine SameButQueues.portLost ?_ p
    rw [port_of_ports (modBoot_ports ..), port_modPort hi]
    rfl
  · rw [port_modPort hi]
    rfl

/-- The entry of a port FAILED with a cause. -/
def failedPort (cause : Nat) (e : EdlPort) : EdlPort :=
  { e with pstate := .down, phy := .down, sbUp := false, poweredOff := true,
           lastFail := if cause == 0 then e.lastFail else cause }

theorem failPort_port (hp : p.idx < 23) (cause : Nat) :
    SameButQueues (failedPort cause (s.port p)) ((failPort s p cause).port p) := by
  unfold failPort
  dsimp only
  refine SameButQueues.portLost ?_ p
  split
  · rw [port_of_ports (modBoot_ports ..), port_modPort hp]
    rfl
  · rw [port_modPort hp]
    rfl

/-- A training that fails for the first time makes the port FAILED. -/
theorem trainFailed_of_first (hphy : (s.port p).phy = .training) (hlast : (s.port p).lastFail = 0) (cause : Nat) :
    trainFailed s p cause = failPort s p cause := by
  unfold trainFailed
  dsimp only
  rw [hphy, hlast]
  rfl

/-- The entry of a port whose training is counted. -/
def countedPort (e : EdlPort) : EdlPort := { e with trainCount := satAdd 255 e.trainCount 1 }

theorem trainPort_no_sideband {q : PortId} (hpow : portPowered s p = true) (hphy : (s.port p).phy = .training)
    (hdown : (s.port p).pstate = .down) (hq : peerPort s.part p = some q) (hpres : o.present = true) (hsb : o.sbUp = false) :
    trainPort s p o = trainFailed (modPort (modPort s p countedPort) p fun e => { e with step := 2 }) p 1 := by
  unfold trainPort
  dsimp only
  rw [hpow, hphy, hdown, hq, hpres, hsb]
  rfl

theorem trainPort_no_sideband_port {q : PortId} (hp : portOk s p = true) (hpow : portPowered s p = true)
    (hphy : (s.port p).phy = .training) (hdown : (s.port p).pstate = .down) (hlast : (s.port p).lastFail = 0)
    (hq : peerPort s.part p = some q) (hpres : o.present = true) (hsb : o.sbUp = false) :
    SameButQueues (failedPort 1 { countedPort (s.port p) with step := 2 }) ((trainPort s p o).port p) := by
  have hi := idx_lt_of_portOk hp
  have hport : (modPort (modPort s p countedPort) p fun e => { e with step := 2 }).port p =
      { countedPort (s.port p) with step := 2 } := by rw [port_modPort hi, port_modPort hi]
  rw [trainPort_no_sideband hpow hphy hdown hq hpres hsb,
    trainFailed_of_first (by rw [hport]; exact hphy) (by rw [hport]; exact hlast), ← hport]
  exact failPort_port hi 1

/-- What a first training of a port, which keeps no earlier failures, finds of its receive bundle 0. -/
def firstRx0 (s : State) (p : PortId) (o : TrainObs) : BundleRes := trainBundle (lanemapRx s p 0) (s.port p).rx0 false o.rx0

/-- What a first training of a port finds of its receive bundle 1. -/
def firstRx1 (s : State) (p : PortId) (o : TrainObs) : BundleRes := trainBundle (lanemapRx s p 1) (s.port p).rx1 false o.rx1

/-- The failure cause of a first training: that of bundle 0, else that of bundle 1. -/
def firstCause (s : State) (p : PortId) (o : TrainObs) : Nat :=
  if (firstRx0 s p o).cause != 0 then (firstRx0 s p o).cause else if twoBundles p then (firstRx1 s p o).cause else 0

/-- The bundles of a port entry after a first training of the port. -/
def trainedPort (s : State) (p : PortId) (o : TrainObs) (e : EdlPort) : EdlPort :=
  { e with
    rx0 := (firstRx0 s p o).b
    rx1 := if twoBundles p then (firstRx1 s p o).b
      else { (firstRx1 s p o).b with state := .off, map := 0, fail := 0, failedEver := 0, aux := 0 }
    tx0 := { e.tx0 with state := bstateOf o.tx0, map := o.txMap0 }
    tx1 := { e.tx1 with state := if twoBundles p then bstateOf o.tx1 else .off, map := if twoBundles p then o.txMap1 else 0 }
    sbUp := true, step := 11, lmw := none, lmwSends := 0
    lastFail := if firstCause s p o != 0 then firstCause s p o else e.lastFail }

/-- A part whose port has ended its first training, the drift of its lanes logged. -/
def trained (s : State) (p : PortId) (o : TrainObs) : State :=
  let s2 := driftLogs (modPort (modPort s p countedPort) p (trainedPort s p o)) p 0 (firstRx0 s p o)
  if twoBundles p then driftLogs s2 p 1 (firstRx1 s p o) else s2

theorem trainPort_of_first {q : PortId} (hpow : portPowered s p = true) (hphy : (s.port p).phy = .training)
    (hdown : (s.port p).pstate = .down) (hq : peerPort s.part p = some q) (hpres : o.present = true) (hsb : o.sbUp = true)
    (hrep : o.reportOk = true) :
    trainPort s p o =
      if txWidth ((trained s p o).port p) == 0 || rxWidth ((trained s p o).port p) == 0 then
        trainFailed (trained s p o) p (firstCause s p o)
      else afterTraining (modPort (trained s p o) p fun e => { e with phy := .up }) p := by
  unfold trainPort
  dsimp only
  rw [hpow, hphy, hdown, hq, hpres, hsb, hrep]
  rfl

theorem trained_port (hp : portOk s p = true) : (trained s p o).port p = trainedPort s p o (countedPort (s.port p)) := by
  have hi := idx_lt_of_portOk hp
  have hlogs : ∀ (t : State) (b : Nat) (r : BundleRes), (driftLogs t p b r).port p = t.port p := fun t b r =>
    port_of_ports (driftLogs_keeps ((closed_ports t).sub (by decide)) t p b r rfl) p
  unfold trained
  dsimp only
  split
  · rw [hlogs, hlogs, port_modPort hi, port_modPort hi]
  · rw [hlogs, port_modPort hi, port_modPort hi]

/-- One bundle that is not OFF gives its direction a width. -/
theorem widthOf_ne_zero {b0 : BState} (h : b0 ≠ .off) (b1 : BState) : widthOf b0 b1 ≠ 0 := by
  cases b0
  case off => exact absurd rfl h
  all_goals cases b1 <;> exact Nat.succ_ne_zero _

/-- The entry of a port handed to negotiation. -/
def negotiatingPort (e : EdlPort) : EdlPort :=
  { e with pstate := .negotiating, negStep := 1, answered := false, partner := none, agreeTries := 0, soakFails := 0,
           soakWrong := 0 }

theorem afterTraining_of_down (h : (s.port p).pstate = .down) : afterTraining s p = modPort s p negotiatingPort := by
  unfold afterTraining
  dsimp only
  rw [h]
  rfl

/-- A first training that leaves bundle 0 in both directions hands the port to negotiation. -/
theorem trainPort_good_port {q : PortId} (hp : portOk s p = true) (hpow : portPowered s p = true)
    (hphy : (s.port p).phy = .training) (hdown : (s.port p).pstate = .down) (hq : peerPort s.part p = some q)
    (hpres : o.present = true) (hsb : o.sbUp = true) (hrep : o.reportOk = true) (htx : bstateOf o.tx0 ≠ .off)
    (hrx : (firstRx0 s p o).b.state ≠ .off) :
    (trainPort s p o).port p = negotiatingPort { trainedPort s p o (countedPort (s.port p)) with phy := .up } := by
  have hi := idx_lt_of_portOk hp
  have htrained := trained_port (o := o) hp
  have htw : txWidth ((trained s p o).port p) ≠ 0 := by
    rw [htrained]
    exact widthOf_ne_zero htx _
  have hrw : rxWidth ((trained s p o).port p) ≠ 0 := by
    rw [htrained]
    exact widthOf_ne_zero hrx _
  have hup : (modPort (trained s p o) p fun e => { e with phy := .up }).port p =
      { trainedPort s p o (countedPort (s.port p)) with phy := .up } := by rw [port_modPort hi, htrained]
  rw [trainPort_of_first hpow hphy hdown hq hpres hsb hrep, beq_false_of_ne htw, beq_false_of_ne hrw,
    if_neg (by decide), afterTraining_of_down (by rw [hup]; exact hdown), port_modPort hi, hup]

end Training

/-! ### Time-outs, requests and losses (R154, R159, R166) -/

section Losses
variable {s : State} {p : PortId}

theorem exec_trainStepTimeout (p : PortId) (s : State) : exec (.trainStepTimeout p) s = execTrainStepTimeout p s := rfl
theorem exec_retrainRequest (path : Path) (p : PortId) (s : State) :
    exec (.retrainRequest path p) s = execRetrainRequest path p s := rfl
theorem exec_sbLost (p : PortId) (s : State) : exec (.sbLost p) s = execSbLost p s := rfl
theorem exec_linkSupplyFault (p : PortId) (s : State) : exec (.linkSupplyFault p) s = execLinkSupplyFault p s := rfl
theorem exec_sbRetry (p : PortId) (s : State) : exec (.sbRetry p) s = execSbRetry p s := rfl
theorem exec_bundleClkLost (p : PortId) (b : Nat) (s : State) : exec (.bundleClkLost p b) s = execBundleClkLost p b s := rfl

/-- The causes of Table 5.7. -/
theorem stepFail_eq (n : Nat) :
    stepFail n = if n = 3 then 2 else if n = 9 then 3 else if n = 10 then 4 else if n ≤ 2 ∨ n = 8 then 1 else 0 := by
  simp only [stepFail, beq_iff_eq, Bool.or_eq_true, decide_eq_true_eq]

theorem exec_retrainRequest_core (hp : portOk s p = true) (hopen : dieOpen s p.die = true) :
    exec (.retrainRequest .core p) s =
      .next (answer (if (s.port p).phy == .up then startRetrain s p else s) .core (portBase p + 4) .ok) := by
  rw [exec_retrainRequest, execRetrainRequest, onUnit_portOk hp, hopen]
  rfl

end Losses

/-- Settles O28: a training's end is read off the port's entry, which the loss of the port keeps but for its queues; the
other commands are one operation each. -/
theorem trainingOfAPort : Obligations.TrainingOfAPort := by
  unfold Obligations.TrainingOfAPort
  refine ⟨?idle, ?absent, ?noSideband, ?good, ?timeout, ?request, ?lost, ?retry, ?clock⟩
  case idle =>
    intro p o s hp h
    rw [exec_linkTrain hp, trainPort_of_untrainable h]
  case absent =>
    intro p o s hp hpow hphy hdown habs
    have hport := trainPort_absent_port hp hpow hphy hdown habs
    exact ⟨_, exec_linkTrain hp o, trainPort_frame hp o, (congrArg EdlPort.phy hport :), (congrArg EdlPort.pstate hport :),
      (congrArg EdlPort.poweredOff hport :)⟩
  case noSideband =>
    intro p q o s hp hpow hphy hdown hlast hq hpres hsb
    have hport := trainPort_no_sideband_port hp hpow hphy hdown hlast hq hpres hsb
    exact ⟨_, exec_linkTrain hp o, trainPort_frame hp o, (congrArg EdlPort.phy hport :), (congrArg EdlPort.pstate hport :),
      (congrArg EdlPort.lastFail hport :), (congrArg EdlPort.poweredOff hport :), (congrArg EdlPort.trainCount hport :)⟩
  case good =>
    intro p q o s hp hpow hphy hdown hq hpres hsb hrep htx hrx
    refine ⟨_, exec_linkTrain hp o, trainPort_frame hp o, ?_⟩
    rw [trainPort_good_port hp hpow hphy hdown hq hpres hsb hrep htx hrx]
    exact ⟨rfl, rfl, rfl, rfl, rfl, rfl, rfl, rfl⟩
  case timeout =>
    intro p s hp hphy
    rw [exec_trainStepTimeout, execTrainStepTimeout, onUnit_portOk hp, ← stepFail_eq]
    dsimp only
    rw [hphy]
    rfl
  case request =>
    intro p s hp hopen hphy hup
    rw [exec_retrainRequest_core hp hopen, hphy, startRetrain_of_up hup]
    rfl
  case lost =>
    intro p s hp hup
    rw [exec_sbLost, execSbLost, exec_linkSupplyFault, execLinkSupplyFault, onUnit_portOk hp, onUnit_portOk hp, hup]
    exact ⟨rfl, rfl⟩
  case retry =>
    intro p s hp hdown hphy hlast hret hoff
    rw [exec_sbRetry, execSbRetry, onUnit_portOk hp]
    dsimp only
    rw [hphy, hdown, hlast, decide_eq_true hret, hoff, if_pos (by decide), sendLmw, modPort_modPort (idx_lt_of_portOk hp)]
  case clock =>
    intro p s hp
    rw [exec_bundleClkLost, execBundleClkLost, hp]
    rfl

end Sys2Proof.Proofs
end

section
/-! PROOF. Parcels on a link: what the sequence check delivers, which VC a free slot serves and what leaves in it, and how errors,
time-outs and RESUME lead to a replay (R175–R184). -/
namespace Sys2Proof.Proofs
open Sys2Proof Sys2Proof.Machine Sys2Proof.Laws

/-! ### Receiving (R171, R174, R179) -/

section Receiving
variable {s s1 : State} {r : LinkRx} {p : PortId} {x y : Parcel}

/-- What the sort leaves for the die is the parcel that came. -/
theorem eq_of_sortParcel (h : sortParcel s p x = (some y, s1)) : y = x := by
  unfold sortParcel at h
  dsimp only at h
  split at h
  · cases h
  split at h
  · cases h
  split at h
  · cases h
    rfl
  split at h
  · cases h
  split at h <;> cases h

/-- In SINK too the die gets the parcel that came, or none. -/
theorem eq_of_sinkTake (h : sinkTake s r = (some y, s1)) : y = r.p := by
  unfold sinkTake at h
  split at h
  · exact eq_of_sortParcel h
  split at h <;> cases h

/-- A parcel is delivered only when it is sequenced and no step ahead of or behind EXPECTED. -/
theorem inOrder_of_linkReceive (h : linkReceive s r = (some x, s1)) :
    x = r.p ∧ r.t.u = false ∧ (r.t.seq + 1024 - (s.port r.port).expected) % 1024 = 0 := by
  unfold linkReceive at h
  dsimp only at h
  split at h
  · cases h
  split at h
  · cases h
  next hu =>
    split at h
    · next hd =>
      refine ⟨?_, Bool.eq_false_iff.mpr hu, beq_iff_eq.mp hd⟩
      split at h
      · exact eq_of_sinkTake h
      · exact eq_of_sortParcel h
    · split at h <;> cases h

end Receiving

/-! ### The choice of the VC (R175) -/

section Choice
variable {e : EdlPort} {v : Nat}

theorem nextVc_eq_zero (h0 : vcReady e 0 = true) (hv : nextVc e = some v) : v = 0 := by
  rw [nextVc, h0, if_pos rfl] at hv
  exact (Option.some.inj hv).symm

/-- VC5 goes ahead of VC1–VC4 once it has waited 63 slots. -/
theorem nextVc_eq_five (h0 : vcReady e 0 = false) (h5 : vcReady e 5 = true) (hw : 63 ≤ e.vc5Wait)
    (hv : nextVc e = some v) : v = 5 := by
  rw [nextVc, h0, h5, decide_eq_true hw, if_neg Bool.false_ne_true, Bool.and_self, if_pos rfl] at hv
  exact (Option.some.inj hv).symm

theorem nextVc_eq_three (h0 : vcReady e 0 = false) (hw : e.vc5Wait < 63) (h3 : vcReady e 3 = true)
    (hv : nextVc e = some v) : v = 3 := by
  rw [nextVc, h0, decide_eq_false (Nat.not_le.mpr hw), if_neg Bool.false_ne_true, Bool.and_false,
    if_neg Bool.false_ne_true, List.find?_cons_of_pos h3] at hv
  exact (Option.some.inj hv).symm

end Choice

/-! ### A free slot (R175–R177) -/

section Slot
variable {s : State} {p : PortId} {v : Nat} {x : Parcel} {rest : List Parcel}

/-- With nothing to feed in and nothing to replay, the slot serves the VC whose turn it is. -/
theorem slot_of_nextVc (hup : (s.port p).pstate = .up) (hq : (s.port p).replayQ = []) (hfed : feedMerge (feedOutbox s p) p = s)
    (hv : nextVc (s.port p) = some v) : slot s p = sendSequenced s p v := by
  unfold slot
  dsimp only
  rw [hfed, hup, hq, hv]
  rfl

/-- With no VC ready, a due NUL takes the slot. -/
theorem slot_of_nulDue (hup : (s.port p).pstate = .up) (hq : (s.port p).replayQ = []) (hfed : feedMerge (feedOutbox s p) p = s)
    (hv : nextVc (s.port p) = none) (hn : (s.port p).nulDue = true) : slot s p = sendNul s p := by
  unfold slot
  dsimp only
  rw [hfed, hup, hq, hv]
  exact if_pos hn

/-- At a die without the guard the first parcel of the VC leaves. -/
theorem sendSequenced_of_ne_eye (hd : p.die ≠ .eye) (hx : vget (s.port p).txq v = x :: rest) :
    sendSequenced s p v = sendFirst s p v x := by
  unfold sendSequenced
  rw [hx]
  exact if_pos (bne_iff_ne.mpr hd)

theorem sendFirst_out : (sendFirst s p v x).out = s.out ++ [.parcel p x (trailerNow (s.port p) (s.port p).nextSeq false)] := rfl

theorem sendNul_out : (sendNul s p).out =
    s.out ++ [.linkParcel p 0 (trailerNow (s.port p) 0 true) ((s.port p).freedOut.toList.map (·.toNat))] := rfl

/-- The parcel that leaves takes the next SEQ and a replay entry. -/
theorem sendFirst_port (hp : p.idx < 23) : ((sendFirst s p v x).port p).nextSeq = ((s.port p).nextSeq + 1) % 1024 ∧
    ((sendFirst s p v x).port p).replayBuf = (s.port p).replayBuf ++ [((s.port p).nextSeq, x)] := by
  unfold sendFirst
  dsimp only
  rw [port_modPort hp]
  exact ⟨rfl, rfl⟩

end Slot

/-! ### Errors, NULs, replay and the end of a retrain (R177–R184) -/

theorem exec_parcelSlot (p : PortId) (s : State) : exec (.parcelSlot p) s = execParcelSlot p s := rfl
theorem exec_parcelCrcFail (p : PortId) (s : State) : exec (.parcelCrcFail p) s = execParcelCrcFail p s := rfl
theorem exec_nul (r : LinkRx) (freed : List Nat) (s : State) : exec (.nul r freed) s = execNul r freed s := rfl
theorem exec_nulDue (p : PortId) (s : State) : exec (.nulDue p) s = execNulDue p s := rfl
theorem exec_replayTimeout (p : PortId) (s : State) : exec (.replayTimeout p) s = execReplayTimeout p s := rfl
theorem exec_resume (r : LinkRx) (s : State) : exec (.resume r) s = execResume r s := rfl
theorem exec_resumeTimeout (p : PortId) (s : State) : exec (.resumeTimeout p) s = execResumeTimeout p s := rfl

/-- A failure while no NAK is on its way makes one due (R179). -/
theorem nakNow_of_not_pending {e : EdlPort} (h : e.nakPending = false) :
    nakNow e = { e with nakPending := true, nakDue := true, nulDue := true, naks := e.naks + 1 } := by
  unfold nakNow
  rw [h]
  rfl

/-- The entry of a port that RESUME with an ACK brings UP: what the ACK leaves is replayed (R184). -/
def resumedPort (ack : Nat) (e : EdlPort) : EdlPort :=
  { ackFree e ack with
    replayQ := (ackFree e ack).replayBuf, replayPoint := none, good := 0, answered := true, goodTotal := e.goodTotal + 1, pstate := .up }

theorem exec_resume_eq {s : State} {r : LinkRx} (hp : portOk s r.port = true) (hre : (s.port r.port).pstate = .retraining)
    (hphy : (s.port r.port).phy = .up) (hstate : (s.die r.port.die).state ≠ 7) (hav : r.t.av = true) :
    exec (.resume r) s = .next (modPort s r.port (resumedPort r.t.ack)) := by
  rw [exec_resume, execResume, onUnit_portOk hp]
  dsimp only
  rw [hre, hphy, hav, beq_false_of_ne hstate]
  rfl

/-- Settles O29: delivery is read off the sequence check, the slot's parcel off the choice of the VC; every other command is one
change of the port's entry, with the tests that the clause's hypotheses decide taken out. -/
theorem parcelsOnALink : Obligations.ParcelsOnALink := by
  unfold Obligations.ParcelsOnALink
  refine ⟨?order, ?crc, ?sequenced, ?slot, ?nulSent, ?nul, ?timers, ?resume, ?resumeTimeout⟩
  case order =>
    intro r x s s1 h _ hlt
    obtain ⟨hx, hu, hd⟩ := inOrder_of_linkReceive h
    exact ⟨hx, hu, by omega⟩
  case crc =>
    intro p s hp hup hn
    rw [exec_parcelCrcFail, execParcelCrcFail, onUnit_portOk hp]
    dsimp only
    rw [hup]
    exact congrArg (fun t => Host.Outcome.next (lecAdd t p 8)) (modPort_congr (nakNow_of_not_pending hn))
  case sequenced =>
    intro p v x rest s hp hd hup hq hfed hv hx
    obtain ⟨hseq, hbuf⟩ := sendFirst_port (s := s) (v := v) (x := x) (idx_lt_of_valid hp)
    refine ⟨_, ?_, sendFirst_out, hseq, hbuf, fun h0 => nextVc_eq_zero h0 hv, fun h0 h5 hw => nextVc_eq_five h0 h5 hw hv,
      fun h0 hw h3 => nextVc_eq_three h0 hw h3 hv⟩
    rw [slot_of_nextVc hup hq hfed hv, sendSequenced_of_ne_eye hd hx]
  case slot =>
    intro p s hp
    rw [exec_parcelSlot, execParcelSlot, onUnit_portOk hp]
  case nulSent =>
    intro p s hup hq hfed hv hn
    rw [slot_of_nulDue hup hq hfed hv hn, sendNul_out]
  case nul =>
    intro r freed s hp hup
    rw [exec_nul, execNul, onUnit_portOk hp, hup]
    rfl
  case timers =>
    intro p s hp hup
    refine ⟨?_, fun hbuf => ?_⟩
    · rw [exec_nulDue, execNulDue, onUnit_portOk hp, hup]
      rfl
    · rw [exec_replayTimeout, execReplayTimeout, onUnit_portOk hp]
      dsimp only
      rw [hup, bne_iff_ne.mpr hbuf]
      rfl
  case resume =>
    intro r s hp hre hphy hstate hav
    refine ⟨_, exec_resume_eq hp hre hphy hstate hav, rfl, ?_⟩
    rw [port_modPort (idx_lt_of_portOk hp)]
    exact ⟨rfl, rfl, rfl⟩
  case resumeTimeout =>
    intro p s hp hre hphy
    rw [exec_resumeTimeout, execResumeTimeout, onUnit_portOk hp]
    dsimp only
    rw [hre, hphy]
    rfl

end Sys2Proof.Proofs
end

section
/-! PROOF. Access to the registers of a die: the die's answer to REG_REQ, and how an access ends at SVC (R172, R173, R585). -/
namespace Sys2Proof.Proofs
open Sys2Proof Sys2Proof.Machine Sys2Proof.Laws

/-- A parcel of the VC and kind a command names takes its effect after the link layer. -/
theorem onParcel_taken {s s1 : State} {r : LinkRx} {x : Parcel} {vc kind : Nat} (hp : portOk s r.port = true)
    (hr : linkReceive s r = (some x, s1)) (hvc : x.vc = vc) (hk : x.kind = kind) (f : State → Parcel → State) :
    onParcel s r vc kind f = .next (f s1 x) := by
  simp only [onParcel, onUnit, hp, hr, hvc, hk, BEq.rfl, Bool.and_self, ↓reduceIte]

theorem exec_regReq (r : LinkRx) (s : State) : exec (.regReq r) s = execRegReq r s := rfl
theorem exec_regResp (r : LinkRx) (s : State) : exec (.regResp r) s = execRegResp r s := rfl
theorem exec_vc5ReadResp (r : LinkRx) (s : State) : exec (.vc5ReadResp r) s = execVc5ReadResp r s := rfl
theorem exec_regAccessTimeout (s : State) : exec .regAccessTimeout s = execRegAccessTimeout s := rfl
theorem exec_i2cTargetTransaction (dev : Nat) (addr : Word) (data : List Byte) (n : Nat) (s : State) :
    exec (.i2cTargetTransaction dev addr data n) s = execI2cTargetTransaction dev addr data n s := rfl

theorem wordsOf_length (data : List Byte) : (wordsOf data).length = data.length / 4 := by
  rw [wordsOf, List.length_map, List.length_range]

/-- Out of a halt the target answers at its configured address (R585). -/
theorem tgtAddr_of_running {s : State} (h : tgtHalted s = false) : tgtAddr s = rf s 0x000C0000 6 0 := by
  rw [tgtAddr, h, if_neg Bool.false_ne_true]

/-- Settles O11: the parcel passes the link layer, and the command's effect on it is the model's own, with the tests that the
clause's hypotheses decide taken out. -/
theorem dieRegisterAccess : Obligations.DieRegisterAccess := by
  unfold Obligations.DieRegisterAccess
  refine ⟨?request, ?response, ?data, ?timeout, ?target⟩
  case request =>
    intro r x s s1 hp hr hvc hk ha hd
    rw [exec_regReq, execRegReq, onMsg_taken hp hr hvc hk ha, if_neg (mt beq_iff_eq.mp hd)]
    rfl
  case response =>
    intro r x y s s1 s2 hp hr hvc hk ha hd ht
    rw [exec_regResp, execRegResp, onMsg_taken hp hr hvc hk ha, hd, if_neg (by decide), ht]
  case data =>
    intro r x y s s1 s2 hp hr hvc hk ha hne hd ht
    have hgood : ¬ (x.arg % 2 == 1 || x.payload.isEmpty) = true := by
      rw [ha, List.isEmpty_eq_false_iff.mpr hne]
      decide
    rw [exec_vc5ReadResp, execVc5ReadResp, onParcel_taken hp hr hvc hk, hd, if_neg (by decide), ht]
    dsimp only
    rw [if_neg hgood]
  case timeout =>
    intro x rest s h
    rw [exec_regAccessTimeout, execRegAccessTimeout, h]
    rfl
  case target =>
    intro addr data n s hfree hrun hpolicy hen
    rw [exec_i2cTargetTransaction, execI2cTargetTransaction, tgtAddr_of_running hrun, hfree, hrun, hpolicy, hen,
      if_neg (by rw [bne_self_eq_false]; decide), if_neg (by decide)]
    dsimp only [I2cServe.fuel]
    rw [wordsOf_length]

end Sys2Proof.Proofs
end

section
/-! PROOF. Negotiation and isolation: what each parcel and time-out of the steps N1 to N4 makes of the port, and what isolation
leaves of it (R186–R201). -/
namespace Sys2Proof.Proofs
open Sys2Proof Sys2Proof.Machine Sys2Proof.Laws

section Negotiating
variable {s : State} {p : PortId}

theorem exec_cap (p : PortId) (c : Caps) (s : State) : exec (.cap p c) s = execCap p c s := rfl
theorem exec_agree (p : PortId) (c : Caps) (s : State) : exec (.agree p c) s = execAgree p c s := rfl
theorem exec_soak (p : PortId) (ok : Bool) (wrong : BitVec 512) (s : State) :
    exec (.soak p ok wrong) s = execSoak p ok wrong s := rfl
theorem exec_soakEnd (p : PortId) (s : State) : exec (.soakEnd p) s = execSoakEnd p s := rfl
theorem exec_init (p : PortId) (n : Nat) (s : State) : exec (.init p n) s = execInit p n s := rfl
theorem exec_negTimeout (p : PortId) (s : State) : exec (.negTimeout p) s = execNegTimeout p s := rfl
theorem exec_negotiationResend (p : PortId) (s : State) : exec (.negotiationResend p) s = execNegotiationResend p s := rfl
theorem exec_portIsolate (path : Path) (p : PortId) (s : State) : exec (.portIsolate path p) s = execPortIsolate path p s := rfl
theorem exec_isolationDetect (p : PortId) (s : State) : exec (.isolationDetect p) s = execIsolationDetect p s := rfl

/-! ### Steps N1 to N3 (R191–R194) -/

/-- The state in which the partner's offer is kept. -/
def offered (s : State) (p : PortId) (c : Caps) : State := modPort s p fun e => { e with partner := some c }

/-- A CAP with SEEN of the die that belongs there ends step N1: with a fault the port fails, else the agreement is formed. -/
theorem takeCap_of_seen {q : PortId} {c : Caps} (hneg : (s.port p).pstate = .negotiating) (hstep : (s.port p).negStep = 1)
    (hq : peerPort s.part p = some q) (hdie : q.die.code = c.die) (hseen : c.seen = true) :
    takeCap s p c =
      if agreeFault (ownCaps (offered s p c) p) c = 0 then
        modPort (offered s p c) p fun e => { e with negStep := 2, ag := agreementOf (ownCaps (offered s p c) p) c }
      else negFail (offered s p c) p (agreeFault (ownCaps (offered s p c) p) c) := by
  unfold takeCap
  dsimp only
  rw [hneg, hstep, hq, if_neg (by decide)]
  dsimp only [Option.map]
  rw [hdie, hseen, if_neg (by rw [bne_self_eq_false]; decide), if_neg (by decide)]
  unfold offered
  split
  · next hf => rw [if_neg (bne_iff_ne.mp hf)]
  · next hf => rw [if_pos (Decidable.not_not.mp (mt bne_iff_ne.mpr hf))]

/-- An AGREE ends step N2 when it matches; the second that does not fails the port. -/
theorem takeAgree_of_partner {c q : Caps} (hneg : (s.port p).pstate = .negotiating) (hstep : (s.port p).negStep = 2)
    (hq : (s.port p).partner = some q) :
    takeAgree s p c =
      if agreeMatch (agreePayload (ownCaps s p) q) c = true then
        modPort s p fun e => { e with negStep := 3, answered := true, soakFails := 0, soakWrong := 0 }
      else if (s.port p).agreeTries = 0 then modPort s p fun e => { e with agreeTries := 1 } else negFail s p 5 := by
  unfold takeAgree
  dsimp only
  rw [hneg, hstep, hq, if_neg (by decide)]
  simp only [beq_iff_eq]

theorem endSoak_of_good (hneg : (s.port p).pstate = .negotiating) (hstep : (s.port p).negStep = 3)
    (hf : (s.port p).soakFails ≤ 1) : endSoak s p = modPort s p fun e => { e with negStep := 4, answered := false } := by
  unfold endSoak
  dsimp only
  rw [hneg, hstep, if_neg (by decide), if_pos hf]

/-- A second soak with more than one failure makes the port FAILED. -/
theorem endSoak_of_second_bad (hneg : (s.port p).pstate = .negotiating) (hstep : (s.port p).negStep = 3)
    (hf : 1 < (s.port p).soakFails) (hagain : 1 ≤ (s.port p).soakFailed) :
    endSoak s p =
      failPort (raiseOn (modPort s p fun e => { e with negStep := 0 }) p.die edlUnit p.port Code.soakFail 2) p 0 := by
  unfold endSoak
  dsimp only
  rw [hneg, hstep, if_neg (by decide), if_neg (Nat.not_le.mpr hf), if_pos hagain]

/-! ### Step N4: the port comes UP (R201) -/

/-- A port that comes UP changes its entry, its die's state and its link's state in LINK_SUMMARY. -/
theorem portUp_frame (s : State) (p : PortId) :
    portUp s p = { s with dies := (portUp s p).dies, boot := (portUp s p).boot, ports := (portUp s p).ports } := by
  unfold portUp
  dsimp only
  split
  · split <;> rfl
  · rfl

/-- The entry of a port that comes UP is the initialised one. -/
theorem portUp_port (hp : p.idx < 23) : (portUp s p).port p = initPort (s.port p) := by
  have hports : (portUp s p).ports = (modPort s p initPort).ports := by
    unfold portUp
    dsimp only
    split
    · split <;> rfl
    · rfl
  rw [port_of_ports hports, port_modPort hp]

/-! ### Isolation (R186) -/

/-- A link's change of state is a report of SVC's. -/
theorem linkChangeOnce_ports (s : State) (p : PortId) (new cause : Nat) : (linkChangeOnce s p new cause).ports = s.ports :=
  linkChangeOnce_keeps ((closed_ports s).sub (by decide)) s p new cause rfl

theorem isolatePort_of_idle (h : (s.port p).pstate = .isolated ∨ (s.port p).pstate = .dead ∨ (s.port p).pstate = .absent ∨
    (s.port p).pstate = .down) : isolatePort s p = s := by
  unfold isolatePort
  rcases h with h | h | h | h
  all_goals rw [h]

/-- The entry of a port that isolation finds UP. -/
def isolatedPort (e : EdlPort) : EdlPort :=
  { e with pstate := .isolated, phy := if e.phy == .retraining then .up else e.phy, retrainDue := false, nakPending := false }

/-- An UP port that is isolated keeps its entry but for its queues, the end of a retrain and of a NAK. -/
theorem isolatePort_up_port (hp : p.idx < 23) (hup : (s.port p).pstate = .up) :
    SameButQueues (isolatedPort (s.port p)) ((isolatePort s p).port p) := by
  unfold isolatePort
  rw [hup]
  dsimp only
  refine SameButQueues.of_ports ?_ (linkChangeOnce_ports ..)
  refine SameButQueues.portLost ?_ p
  rw [port_of_ports (raiseOn_ports ..), port_modPort hp]
  rfl

end Negotiating

/-- Settles O30: each command is one equation of the port's step, with the tests that the clause's hypotheses decide taken out; an
UP or isolated port is read off its entry. -/
theorem negotiationAndIsolation : Obligations.NegotiationAndIsolation := by
  unfold Obligations.NegotiationAndIsolation
  refine ⟨?cap, ?agree, ?soak, ?soakEnd, ?init, ?timers, ?isolate, ?detect⟩
  case cap =>
    intro p q c s hp hneg hstep hq hdie hseen
    rw [exec_cap, execCap, onUnit_portOk hp, takeCap_of_seen hneg hstep hq hdie hseen]
    rfl
  case agree =>
    intro p c q s hp hneg hstep hq
    rw [exec_agree, execAgree, onUnit_portOk hp, takeAgree_of_partner hneg hstep hq]
  case soak =>
    intro p ok wrong s hp hneg hstep
    rw [exec_soak, execSoak, onUnit_portOk hp, hneg, hstep]
    rfl
  case soakEnd =>
    intro p s hp hneg hstep
    rw [exec_soakEnd, execSoakEnd, onUnit_portOk hp]
    exact ⟨fun hf => by rw [endSoak_of_good hneg hstep hf], fun hf hagain => by rw [endSoak_of_second_bad hneg hstep hf hagain]⟩
  case init =>
    intro p n s hp hneg hstep
    refine ⟨portUp s p, ?_, portUp_frame s p, ?_⟩
    · rw [exec_init, execInit, onUnit_portOk hp, hneg, hstep]
      rfl
    · rw [portUp_port (idx_lt_of_portOk hp)]
      exact ⟨rfl, rfl, rfl, rfl, rfl, rfl, rfl, rfl⟩
  case timers =>
    intro p s hp hneg
    rw [exec_negTimeout, execNegTimeout, exec_negotiationResend, execNegotiationResend, onUnit_portOk hp, onUnit_portOk hp]
    dsimp only
    rw [hneg]
    refine ⟨?_, fun h => by rw [h]; rfl, fun h => by rw [h]; rfl, fun h => by rw [h]; rfl, fun h => by rw [h]; rfl⟩
    rintro (h | h)
    all_goals
      rw [h]
      rfl
  case isolate =>
    intro p s hp hopen
    refine ⟨?_, isolatePort_of_idle, fun hup => (congrArg EdlPort.pstate (isolatePort_up_port (idx_lt_of_portOk hp) hup) :)⟩
    rw [exec_portIsolate, execPortIsolate, onUnit_portOk hp, hopen]
    rfl
  case detect =>
    intro p s hp hneg
    rw [exec_isolationDetect, execIsolationDetect, onUnit_portOk hp, bne_iff_ne.mpr hneg, Bool.and_true]

end Sys2Proof.Proofs
end

section
/-! PROOF. A response at its requester: the obligation asks only that some tag of the die is not the response's, and a die with
two reads outstanding still takes the answer to one of them (R209, R211). -/
namespace Sys2Proof.Proofs
open Sys2Proof Sys2Proof.Machine Sys2Proof.Laws

section Response
variable {s s1 : State} {r : LinkRx} {x : Parcel} {cd : Nat}

/-- A RESP that the link layer delivers to a compute die is taken by its fabric. -/
theorem exec_readResponse_taken (hp : portOk s r.port = true) (hr : linkReceive s r = (some x, s1)) (hvc : x.vc = 3)
    (hk : x.kind = 0) (hcd : r.port.die.cdIdx = some cd) : exec (.readResponse r) s = .next (takeResponse s1 cd x) := by
  have hexec : exec (.readResponse r) s = onParcel s r 3 0 fun s x => onCd r s fun s cd => takeResponse s cd x := rfl
  rw [hexec, onParcel_taken hp hr hvc hk, onCd, hcd]

/-- What O31 means to state does hold: a response with a tag of none of the die's reads is counted and logged
(witness_MaintenanceAndReads_4 meets these conditions). -/
theorem exec_readResponse_of_unknown_tag (hp : portOk s r.port = true) (hr : linkReceive s r = (some x, s1)) (hvc : x.vc = 3)
    (hk : x.kind = 0) (hcd : r.port.die.cdIdx = some cd) (htag : ∀ t ∈ (s1.fab cd).tags, t.tag ≠ x.tag)
    (hgen : x.gen = (s1.fab cd).gen) :
    exec (.readResponse r) s = .next (logOnly (modFab s1 cd fun f => { f with discards := satAdd 0xFFFFFFFF f.discards 1 })
      (Die.ofCd cd) 4 0 Code.tagUnknown 1) := by
  have hnone : (s1.fab cd).tags.find? (fun t => t.tag == x.tag && t.gen == x.gen && t.target.code == x.src) = none := by
    refine List.find?_eq_none.mpr fun t ht hmatch => htag t ht ?_
    simp only [Bool.and_eq_true, beq_iff_eq] at hmatch
    obtain ⟨⟨hsame, -⟩, -⟩ := hmatch
    exact hsame
  rw [exec_readResponse_taken hp hr hvc hk hcd, takeResponse, hnone, hgen]
  dsimp only
  rw [BEq.rfl, if_pos rfl]
  rfl

end Response

/-- A read of CD2 to CD1 under a tag. -/
def readUnder (tag : Nat) : ReadTag :=
  { tag := tag, gen := 0, addr := 0x84000000, lines := 2, nc := true, target := .cd1, port := 1, waiters := [], issued := 0 }

/-- Every port UP, and CD2 with reads outstanding under tags 1 and 0. -/
def twoReads : State :=
  { State.reset with
    ports := Vector.replicate 23 { pstate := .up }, fabs := Vector.replicate 4 { tags := [readUnder 1, readUnder 0] } }

/-- The first line that CD1 answers to the read under tag 0. -/
def firstLine : Parcel :=
  { src := 5, dst := 6, vc := 3, cls := 1, kind := 0, last := false, plen := 64, payload := List.replicate 64 7 }

/-- That line as CD2's port 1 receives it. -/
def firstLineRx : LinkRx :=
  ⟨⟨.cd2, 1⟩, firstLine, { seq := 0, ack := 0, av := false, nak := false, u := false, cvc := 7, cnt := 0 }⟩

/-- CD2 after the link layer has delivered it. -/
def twoReadsDelivered : State := (linkReceive twoReads firstLineRx).2

theorem linkReceive_firstLine : linkReceive twoReads firstLineRx = (some firstLine, twoReadsDelivered) :=
  Prod.ext (by decide +kernel) rfl

theorem twoReadsDelivered_fab : twoReadsDelivered.fab 2 = { tags := [readUnder 1, readUnder 0] } := by decide +kernel

/-- The line is wanted, so nothing is counted as discarded. -/
theorem takeResponse_firstLine_discards : ((takeResponse twoReadsDelivered 2 firstLine).fab 2).discards = 0 := by decide +kernel

/-- Refutes O31 at its TAG_UNKNOWN clause: ∀ t ∈ tags, t.tag ≠ x.tag → … scopes over the conclusion, so one read with another
tag would be enough for the response to be unknown. CD2 has a read under tag 1 here, and one under tag 0, which the line that
arrives answers. -/
theorem not_maintenanceAndReads : ¬ Obligations.MaintenanceAndReads := by
  unfold Obligations.MaintenanceAndReads
  rintro ⟨-, -, -, -, hunknown, -⟩
  have hread : readUnder 1 ∈ (twoReadsDelivered.fab 2).tags := by
    rw [twoReadsDelivered_fab]
    exact List.mem_cons_self
  have hgen : firstLine.gen = (twoReadsDelivered.fab 2).gen := by rw [twoReadsDelivered_fab]; rfl
  have hlog := hunknown firstLineRx firstLine 2 twoReads twoReadsDelivered rfl linkReceive_firstLine rfl rfl rfl (readUnder 1) hread
    (by decide) hgen
  have hstate := Host.Outcome.next.inj ((exec_readResponse_taken rfl linkReceive_firstLine rfl rfl rfl).symm.trans hlog)
  have hcount : ((takeResponse twoReadsDelivered 2 firstLine).fab 2).discards = 1 := by
    rw [hstate, fab_of_fabs (logOnly_fabs ..), fab_modFab (by decide), twoReadsDelivered_fab]
    rfl
  rw [takeResponse_firstLine_discards] at hcount
  exact absurd hcount (by decide)

end Sys2Proof.Proofs
end

section
/-! PROOF. Memory stays in its canonical form: the form is closed under every change a command makes, so a step, which is one
command or one tick, keeps it (R230). -/
namespace Sys2Proof.Proofs
open Sys2Proof Sys2Proof.Machine Sys2Proof.Laws

theorem memoryCanonical_of_empty {s : State} (h : s.mem = []) : MemoryCanonical s := by
  unfold MemoryCanonical
  rw [h]
  rfl

/-- A change of memory keeps its form by its side condition, and a reset leaves memory empty; every other change leaves memory
alone. -/
theorem closed_memoryCanonical : Closed 0x10000ffffffffff8 MemoryCanonical := by
  constructor
  case set_mem => exact fun _ _ _ kept h => kept h
  case reset => exact fun _ _ _ kept _ => memoryCanonical_of_empty kept.mem
  case set_ledgers | set_otp | set_log | set_outboxes => exact fun _ _ _ _ h => h
  all_goals exact fun _ _ _ h => h

/-- No command leaves the form. -/
theorem exec_memoryCanonical (i : Instr) {s t : State} (hs : MemoryCanonical s) (h : exec i s = .next t) : MemoryCanonical t :=
  (exec_keeps closed_memoryCanonical i s hs).of t h

@[simp] theorem tick_mem (s : State) : (tick s).mem = s.mem := rfl

/-- Settles O5: the command in front runs on a state with the same memory, and a tick leaves memory as it is. -/
theorem memoryStaysCanonical : Obligations.MemoryStaysCanonical := by
  unfold Obligations.MemoryStaysCanonical
  intro s t hs h
  obtain ⟨i, rest, _, hexec⟩ | ⟨_, rfl⟩ := step_next_cases h
  · exact exec_memoryCanonical i (s := { s with pending := rest }) hs hexec
  · unfold MemoryCanonical
    rwa [tick_mem]

end Sys2Proof.Proofs
end

section
/-! PROOF. A compute die's fabric: what a write of FAB_CTRL makes of MASTER_ACTIVE, of the reads that wait and of the remote cache,
and the commands that scrub the resident segments (R213, R215, R217, R222–R224). -/
namespace Sys2Proof.Proofs
open Sys2Proof Sys2Proof.Machine Sys2Proof.Laws

/-! ### Bits of a register word -/

theorem wbit_eq_getLsbD (v : Word) (i : Nat) : wbit v i = v.getLsbD i := by
  unfold wbit nbit
  rw [← BitVec.testBit_toNat, Nat.testBit_eq_decide_div_mod_eq]
  rfl

/-- Taking the low three bits of a word leaves bit 0. -/
theorem wbit_lowBits_zero (v : Word) : wbit (toWord (wbits v 2 0)) 0 = wbit v 0 := by
  unfold wbits bits toWord wbit nbit
  rw [BitVec.toNat_ofNat]
  congr 1
  omega

/-- A register set to a value that is not its reset value reads it. -/
theorem rget_rput_of_ne_default {s : State} {a : Nat} {v : Word} (h : v ≠ toWord (regDefault s.part a)) :
    rget (rput s a v) a = v := by
  unfold rget rput mset
  rw [if_neg h, mget_mput, if_pos rfl]

/-! ### FAB_CTRL (R213, R215) -/

section FabCtrl
variable {s : State} {cd : Nat} {v : Word}

/-- MASTER_EN is 0 after reset, on a die that the part has and at the address of one it has not. -/
theorem wbit_fabCtrl_default (h : cd < 4) (p : Part) : wbit (toWord (regDefault p (fabReg cd 0))) 0 = false := by
  rcases eq_of_lt_four h with rfl | rfl | rfl | rfl <;> cases p <;> rfl

/-- A MASTER_EN written 1 reads 1, whatever the register map listed before. -/
theorem rb_rput_masterEn (h : cd < 4) (hv : wbit v 0 = true) :
    rb (rput s (fabReg cd 0) (toWord (wbits v 2 0))) (fabReg cd 0) 0 = true := by
  have hset : wbit (toWord (wbits v 2 0)) 0 = true := by rw [wbit_lowBits_zero, hv]
  have hne : toWord (wbits v 2 0) ≠ toWord (regDefault s.part (fabReg cd 0)) := fun heq => by
    rw [heq, wbit_fabCtrl_default h] at hset
    exact absurd hset Bool.false_ne_true
  unfold rb
  rw [rget_rput_of_ne_default hne, hset]

/-- A fabric whose master is cleared: nothing waits, and what is outstanding will be discarded. -/
def clearedFabric (f : Fabric) : Fabric :=
  { f with
    masterActive := false, stuck := false, waitq := [], tags := f.tags.map fun t => { t with discard := true, waiters := [] } }

theorem masterClear_fab (h : cd < 4) (s : State) : (masterClear s cd).fab cd = clearedFabric (s.fab cd) := by
  unfold masterClear
  dsimp only
  split
  · exact fab_modFab h s clearedFabric
  · exact fab_modFab h s clearedFabric

theorem masterFollow_fab (h : cd < 4) (s : State) : (masterFollow s cd).fab cd =
    { s.fab cd with masterActive := (rb s (fabReg cd 0) 0 && outstanding (s.fab cd) == 0) || (s.fab cd).masterActive } := by
  unfold masterFollow
  split
  · next hf => rw [fab_modFab h, hf, Bool.true_or]
  · next hf => rw [eq_false_of_ne_true hf, Bool.false_or]

theorem masterEn_cache (h : cd < 4) (s : State) (on : Bool) : ((masterEn s cd on).fab cd).cache = (s.fab cd).cache := by
  unfold masterEn
  split
  · rw [masterFollow_fab h]
  · rw [masterClear_fab h]
    rfl

/-- The state in which a write of FAB_CTRL has reached the register and the cache. -/
def fabCtrlStored (s : State) (cd : Nat) (v : Word) : State :=
  if wbit v 1 then rput s (fabReg cd 0) (toWord (wbits v 2 0))
  else rcInvalidate (rput s (fabReg cd 0) (toWord (wbits v 2 0))) cd

theorem fabCtrl_eq : fabCtrl s cd v = masterEn (fabCtrlStored s cd v) cd (wbit v 0) := rfl

theorem fabCtrlStored_fab (h : cd < 4) :
    (fabCtrlStored s cd v).fab cd = { s.fab cd with cache := if wbit v 1 then (s.fab cd).cache else [] } := by
  unfold fabCtrlStored
  split
  · next hv => exact fab_of_fabs (rput_fabs ..) cd
  · next hv => exact (fab_modFab h _ _).trans (by rw [fab_of_fabs (rput_fabs ..)])

theorem rb_rcInvalidate (s : State) (cd a i : Nat) : rb (rcInvalidate s cd) a i = rb s a i := rfl

theorem rb_fabCtrlStored (h : cd < 4) (hv : wbit v 0 = true) : rb (fabCtrlStored s cd v) (fabReg cd 0) 0 = true := by
  unfold fabCtrlStored
  split
  · exact rb_rput_masterEn h hv
  · rw [rb_rcInvalidate, rb_rput_masterEn h hv]

/-- MASTER_EN 0 clears MASTER_ACTIVE at once, and no read waits any more (R215). -/
theorem fabCtrl_off (h : cd < 4) (hv : wbit v 0 = false) :
    ((fabCtrl s cd v).fab cd).masterActive = false ∧ ((fabCtrl s cd v).fab cd).waitq = [] := by
  rw [fabCtrl_eq, hv, masterEn, if_neg Bool.false_ne_true, masterClear_fab h]
  exact ⟨rfl, rfl⟩

/-- MASTER_EN 1 sets MASTER_ACTIVE where no read is outstanding (R215). -/
theorem fabCtrl_on (h : cd < 4) (hv : wbit v 0 = true) (hout : outstanding (s.fab cd) = 0) :
    ((fabCtrl s cd v).fab cd).masterActive = true := by
  have hsame : outstanding ((fabCtrlStored s cd v).fab cd) = 0 := by rw [fabCtrlStored_fab h, ← hout]; rfl
  rw [fabCtrl_eq, hv, masterEn, if_pos rfl, masterFollow_fab h, rb_fabCtrlStored h hv, hsame]
  rfl

/-- RC_EN 0 empties the remote cache (R213). -/
theorem fabCtrl_cache (h : cd < 4) (hv : wbit v 1 = false) : ((fabCtrl s cd v).fab cd).cache = [] := by
  rw [fabCtrl_eq, masterEn_cache h, fabCtrlStored_fab h, hv]
  rfl

end FabCtrl

/-! ### The commands -/

section Commands
variable {s : State} {cd : Nat}

theorem onUnit_cdOk (h : cdOk s cd = true) (t : State) : onUnit (cdOk s cd) t = .next t := if_pos h

/-- A command that names a compute die and one of n units or segments of it takes its effect where both exist. -/
theorem onUnit_cdOk_lt {k n : Nat} (h : cdOk s cd = true) (hk : k < n) (t : State) :
    onUnit (cdOk s cd && decide (k < n)) t = .next t := if_pos (by rw [h, decide_eq_true hk]; rfl)

theorem exec_masterEnWrite (path : Path) (cd : Nat) (v : Word) (s : State) :
    exec (.masterEnWrite path cd v) s = execMasterEnWrite path cd v s := rfl
theorem exec_remoteCacheDisable (path : Path) (cd : Nat) (s : State) :
    exec (.remoteCacheDisable path cd) s = execRemoteCacheDisable path cd s := rfl
theorem exec_stuckTimeout (cd : Nat) (s : State) : exec (.stuckTimeout cd) s = execStuckTimeout cd s := rfl
theorem exec_scrubRead (cd : Nat) (s : State) : exec (.scrubRead cd) s = execScrubRead cd s := rfl
theorem exec_weightChunkRewrite (cd seg : Nat) (chunks : List (List Byte × Bool)) (s : State) :
    exec (.weightChunkRewrite cd seg chunks) s = execWeightChunkRewrite cd seg chunks s := rfl

/-- On the core's path a write of FAB_CTRL to an open die is taken, unless it clears HELD_CHECK in FIELD (R224). -/
theorem fabCtrlReg_core (hopen : dieOpen s (Die.ofCd cd) = true) (v : Word) :
    fabCtrlReg s cd .core v =
      if inField s = true ∧ rb s (fabReg cd 0) 2 = true ∧ wbit v 2 = false then (s, .refused) else (fabCtrl s cd v, .ok) := by
  unfold fabCtrlReg
  rw [hopen, fabPathOk, if_neg (by decide), if_neg (by decide)]
  simp only [Bool.and_eq_true, Bool.not_eq_true', and_assoc]

theorem fabCtrlReg_core_taken (hopen : dieOpen s (Die.ofCd cd) = true) {v : Word}
    (hheld : inField s = false ∨ rb s (fabReg cd 0) 2 = false ∨ wbit v 2 = true) :
    fabCtrlReg s cd .core v = (fabCtrl s cd v, .ok) := by
  rw [fabCtrlReg_core hopen]
  refine if_neg ?_
  rintro ⟨hfield, hcheck, hclear⟩
  rcases hheld with h | h | h
  · exact Bool.false_ne_true (h.symm.trans hfield)
  · exact Bool.false_ne_true (h.symm.trans hcheck)
  · exact Bool.false_ne_true (hclear.symm.trans h)

/-- Nothing of the part differs from s but what a write of FAB_CTRL may change. -/
def FabCtrlFrame (s t : State) : Prop :=
  t = { s with regs := t.regs, out := t.out, seqr := t.seqr, fabs := t.fabs }

theorem closed_fabCtrlFrame (s : State) : Closed 0x200a10 (FabCtrlFrame s) := by
  unfold FabCtrlFrame
  constructor
  all_goals first
    | exact fun b => absurd b Bool.false_ne_true
    | (intro _ t x h; rw [h])

theorem fabCtrl_answered_frame (s : State) (path : Path) (cd : Nat) (v : Word) :
    FabCtrlFrame s (answer (fabCtrl s cd v) path (fabReg cd 0) .ok) :=
  answer_keeps ((closed_fabCtrlFrame s).sub (by decide)) _ _ _ _ _ _
    (fabCtrl_keeps ((closed_fabCtrlFrame s).sub (by decide)) s cd v rfl)

/-- Nothing of the part differs from s but what STUCK_TIMEOUT may change. -/
def StuckFrame (s t : State) : Prop := t = { s with fabs := t.fabs, log := t.log, outboxes := t.outboxes }

theorem closed_stuckFrame (s : State) : Closed 0x60000200000 (StuckFrame s) := by
  unfold StuckFrame
  constructor
  all_goals first
    | exact fun b => absurd b Bool.false_ne_true
    | (intro _ t x h; rw [h])
    | (intro _ t x _ h; rw [h])

/-- A port's log entry of the reads that are stuck there. -/
def logStuck (s : State) (cd : Nat) (t : State) (p : Nat) : State :=
  let n := ((s.fab cd).tags.filter fun x => tagOut x && x.port == p).length
  if n == 0 then t else logOnly t (Die.ofCd cd) 4 0 Code.stuckReq 2 (args4 [p, n])

theorem logStuck_fabs (s : State) (cd : Nat) (t : State) (p : Nat) : (logStuck s cd t p).fabs = t.fabs := by
  unfold logStuck
  dsimp only
  split
  · rfl
  · exact logOnly_fabs ..

/-- STUCK_TIMEOUT of a die that is neither active nor quiesced sets STUCK and logs each port with reads outstanding (R217). -/
theorem exec_stuckTimeout_of_waiting (hcd : cdOk s cd = true) (hoff : (s.fab cd).masterActive = false)
    (hout : outstanding (s.fab cd) ≠ 0) (hnew : (s.fab cd).stuck = false) :
    exec (.stuckTimeout cd) s =
      .next ((List.range 4).foldl (logStuck s cd) (modFab s cd fun f => { f with stuck := true })) := by
  have hq : quiesced (s.fab cd) = false := by
    unfold quiesced
    rw [beq_eq_false_iff_ne.mpr hout, Bool.and_false]
  rw [exec_stuckTimeout, execStuckTimeout, onUnit_cdOk hcd]
  dsimp only
  rw [hoff, hq, hnew, if_neg (by decide)]
  rfl

/-- When WEIGHT_CHUNK_REWRITE does nothing: outside the merge interval, for a segment that has not failed, or with a chunk whose
hash fails (R223). -/
theorem rewriteBarred_iff {seg : Nat} {chunks : List (List Byte × Bool)} {f : Fabric} :
    (!s.seqr.merging || !(f.scrubFail && f.scrubFailSeg == seg) || chunks.any fun c => !c.2) = true ↔
      s.seqr.merging = false ∨ f.scrubFail = false ∨ f.scrubFailSeg ≠ seg ∨ ∃ c ∈ chunks, c.2 = false := by
  simp only [Bool.or_eq_true, Bool.not_eq_true', Bool.and_eq_false_iff, beq_eq_false_iff_ne, List.any_eq_true, or_assoc, ne_eq]

end Commands

/-- Settles O32: a write of FAB_CTRL is the register's effect answered on its path, where HELD_CHECK allows it; the other commands
are their own equations. -/
theorem masterControlAndScrub : Obligations.MasterControlAndScrub := by
  unfold Obligations.MasterControlAndScrub
  refine ⟨?write, ?refused, ?disable, ?stuck, ?scrub, ?rewrite⟩
  case write =>
    intro cd v s hcd hopen hheld
    obtain ⟨hlt, -⟩ := and_of_cdOk hcd
    refine ⟨answer (fabCtrl s cd v) .core (fabReg cd 0) .ok, ?_, fabCtrl_answered_frame s .core cd v, ?_⟩
    · rw [exec_masterEnWrite, execMasterEnWrite, onUnit_cdOk hcd, fabCtrlReg_core_taken hopen hheld]
      rfl
    · have hout : (fabCtrl s cd v).out = s.out := fabCtrl_keeps ((closed_out s).sub (by decide)) s cd v rfl
      rw [fab_of_fabs (answer_fabs ..)]
      exact ⟨fabCtrl_off hlt, fabCtrl_on hlt, fabCtrl_cache hlt, congrArg (· ++ _) hout⟩
  case refused =>
    intro cd v s hcd hopen hfield hcheck hclear
    rw [exec_masterEnWrite, execMasterEnWrite, onUnit_cdOk hcd, fabCtrlReg_core hopen, if_pos ⟨hfield, hcheck, hclear⟩]
    rfl
  case disable =>
    intro cd s hcd hopen
    obtain ⟨hlt, -⟩ := and_of_cdOk hcd
    have hkept : wbit (rget s (fabReg cd 0) &&& ~~~2) 2 = rb s (fabReg cd 0) 2 := by
      rw [rb, wbit_eq_getLsbD, wbit_eq_getLsbD, BitVec.getLsbD_and, show (~~~2 : Word).getLsbD 2 = true from rfl, Bool.and_true]
    have hoff : wbit (rget s (fabReg cd 0) &&& ~~~2) 1 = false := by
      rw [wbit_eq_getLsbD, BitVec.getLsbD_and, show (~~~2 : Word).getLsbD 1 = false from rfl, Bool.and_false]
    have hheld : inField s = false ∨ rb s (fabReg cd 0) 2 = false ∨ wbit (rget s (fabReg cd 0) &&& ~~~2) 2 = true := by
      rw [hkept]
      exact .inr (Bool.eq_false_or_eq_true _).symm
    refine ⟨answer (fabCtrl s cd (rget s (fabReg cd 0) &&& ~~~2)) .core (fabReg cd 0) .ok, ?_, fabCtrl_answered_frame .., ?_⟩
    · rw [exec_remoteCacheDisable, execRemoteCacheDisable, onUnit_cdOk hcd, fabCtrlReg_core_taken hopen hheld]
      rfl
    · rw [fab_of_fabs (answer_fabs ..), answer_mem]
      exact ⟨fabCtrl_cache hlt hoff, fabCtrl_keeps ((closed_mem s).sub (by decide)) s cd _ rfl⟩
  case stuck =>
    intro cd s hcd hoff hout hnew
    obtain ⟨hlt, -⟩ := and_of_cdOk hcd
    have hexec := exec_stuckTimeout_of_waiting hcd hoff hout hnew
    refine ⟨_, hexec, (execStuckTimeout_keeps (closed_stuckFrame s) cd s rfl).of _ hexec, ?_⟩
    have hfabs := foldl_keeps (P := fun t => t.fabs = (modFab s cd fun f => { f with stuck := true }).fabs)
      (fun t p ht => (logStuck_fabs s cd t p).trans ht) (List.range 4) _ rfl
    rw [fab_of_fabs hfabs, fab_modFab hlt]
    exact ⟨rfl, rfl⟩
  case scrub =>
    intro cd s hcd
    rw [exec_scrubRead, execScrubRead, onUnit_cdOk hcd]
    simp only [Bool.and_eq_true, Bool.not_eq_true', bne_iff_ne, and_assoc]
  case rewrite =>
    intro cd seg chunks s hcd hseg
    rw [exec_weightChunkRewrite, execWeightChunkRewrite, onUnit_cdOk_lt hcd hseg]
    refine ⟨fun h => congrArg Host.Outcome.next (if_pos ?_), fun hmerge hfail hsame hgood => congrArg Host.Outcome.next (if_neg ?_)⟩
    · rwa [rewriteBarred_iff]
    · rw [rewriteBarred_iff]
      rintro (h | h | h | ⟨c, hc, h⟩)
      · exact Bool.false_ne_true (h.symm.trans hmerge)
      · exact Bool.false_ne_true (h.symm.trans hfail)
      · exact h hsame
      · exact Bool.false_ne_true (h.symm.trans (hgood c hc))

end Sys2Proof.Proofs
end

section
/-! PROOF. Faults of a compute die's clusters: what a stall, a speed below the minimum rate and an uncorrectable error leave of the
cluster, its unit and its die (R206, R294, R295, R315). -/
namespace Sys2Proof.Proofs
open Sys2Proof Sys2Proof.Machine Sys2Proof.Laws

/-! ### Reading one cluster and one unit -/

section Reading
variable {s : State} {cd k : Nat}

theorem cdie_modComp (h : cd < 4) (s : State) (f : Compute → Compute) : (modComp s cd f).cdie cd = f (s.cdie cd) := by
  unfold State.cdie
  rw [modComp_comp, Vector.getElem?_setIfInBounds, if_pos rfl, if_pos h, Option.getD_some]
  rfl

theorem cdie_of_comp {t : State} (h : t.comp = s.comp) (cd : Nat) : t.cdie cd = s.cdie cd := by
  unfold State.cdie
  rw [h]

theorem cl_of_comp {t : State} (h : t.comp = s.comp) (cd k : Nat) : t.cl cd k = s.cl cd k := by
  unfold State.cl
  rw [cdie_of_comp h]

theorem cl_modCl (hcd : cd < 4) (s : State) (k j : Nat) (f : Cluster → Cluster) :
    (modCl s cd k f).cl cd j = if k = j ∧ k < 4 then f (s.cl cd k) else s.cl cd j := by
  unfold State.cl modCl
  rw [cdie_modComp hcd]
  exact vget_vmod ..

theorem cl_modCl_same (hcd : cd < 4) (hk : k < 4) (s : State) (f : Cluster → Cluster) :
    (modCl s cd k f).cl cd k = f (s.cl cd k) := by
  rw [cl_modCl hcd, if_pos ⟨rfl, hk⟩]

theorem unitOf_of_dies {t : State} (h : t.dies = s.dies) (d : Die) (u : Nat) : unitOf t d u = unitOf s d u := by
  unfold unitOf
  rw [die_of_dies h]

theorem unitOf_modUnit (hu : k < 16) (s : State) (d : Die) (f : UnitSt → UnitSt) : unitOf (modUnit s d k f) d k = f (unitOf s d k) := by
  unfold unitOf modUnit
  rw [die_modDie]
  exact (vget_vmod ..).trans (if_pos ⟨rfl, hu⟩)

end Reading

/-! ### The end of an entry -/

section EndEntry
variable {s : State} {cd k : Nat}

/-- A cluster whose entry has ended with a LAST_ERR. -/
def endedCluster (now err : Nat) (c : Cluster) : Cluster :=
  { c with
    state := .idle, lastErr := err, busyNow := c.busyNow + (now - c.started), lateNow := max c.lateNow c.late
    waitNow := if c.state == .waitInput || c.state == .waitOutput then c.waitNow + (now - c.waitFrom) else c.waitNow }

theorem endEntry_eq (s : State) (cd k err : Nat) :
    endEntry s cd k err = unitDone (modCl s cd k (endedCluster s.now err)) (Die.ofCd cd) k := rfl

theorem endEntry_cl (hcd : cd < 4) (hk : k < 4) (s : State) (err : Nat) :
    (endEntry s cd k err).cl cd k = endedCluster s.now err (s.cl cd k) := by
  rw [endEntry_eq, cl_of_comp (unitDone_keeps ((closed_comp _).sub (by decide)) _ _ _ rfl), cl_modCl_same hcd hk]

theorem endEntry_unit (hk : k < 4) (s : State) (err : Nat) : (unitOf (endEntry s cd k err) (Die.ofCd cd) k).busy = none := by
  rw [endEntry_eq, unitDone, unitOf_modUnit (by omega)]

theorem endEntry_dieState (s : State) (cd k err : Nat) :
    ((endEntry s cd k err).die (Die.ofCd cd)).state = (s.die (Die.ofCd cd)).state := by
  rw [endEntry_eq, unitDone, modUnit, die_modDie]
  rfl

theorem endEntry_seqr (s : State) (cd k err : Nat) : (endEntry s cd k err).seqr = s.seqr :=
  endEntry_keeps ((closed_seqr s).sub (by decide)) s cd k err rfl

end EndEntry

/-! ### Stalls (R315) -/

section Stall
variable {s : State} {cd k : Nat}

/-- The stalls of a cluster within 600 s, the one now among them. -/
def recentStalls (s : State) (cd k : Nat) : List Nat :=
  ((s.cl cd k).stallTimes.filter fun t => decide (s.now - t ≤ secNs 600)) ++ [s.now]

/-- Is a stall now the third within 600 s? -/
def thirdStall (s : State) (cd k : Nat) : Bool := decide (3 ≤ (recentStalls s cd k).length)

/-- A cluster that has stalled, its entry ended. -/
def stalledCluster (third : Bool) (times : List Nat) (c : Cluster) : Cluster :=
  { c with state := if third then .failed else .off, stalls := satAdd 255 c.stalls 1, stallTimes := times }

/-- The state after a stall, before its log entry and the loss of the die. -/
def stallEnded (s : State) (cd k : Nat) : State :=
  modCl (markPartial (endEntry s cd k 1) (Die.ofCd cd)) cd k (stalledCluster (thirdStall s cd k) (recentStalls s cd k))

/-- The same with its log entry. -/
def stallLogged (s : State) (cd k : Nat) : State :=
  logOnly (stallEnded s cd k) (Die.ofCd cd) 4 0 Code.clusterStall (if thirdStall s cd k then 3 else 2) (args4 [k])

theorem stallCluster_eq (s : State) (cd k : Nat) :
    stallCluster s cd k =
      if thirdStall s cd k then modDie (stallLogged s cd k) (Die.ofCd cd) fun x => { x with state := 6 } else stallLogged s cd k := rfl

theorem stallLogged_dies (s : State) (cd k : Nat) : (stallLogged s cd k).dies = (endEntry s cd k 1).dies :=
  logOnly_dies ..

theorem stallCluster_comp (s : State) (cd k : Nat) : (stallCluster s cd k).comp = (stallEnded s cd k).comp := by
  rw [stallCluster_eq]
  split
  · exact logOnly_comp ..
  · exact logOnly_comp ..

theorem stallCluster_cl (hcd : cd < 4) (hk : k < 4) : (stallCluster s cd k).cl cd k =
    stalledCluster (thirdStall s cd k) (recentStalls s cd k) (endedCluster s.now 1 (s.cl cd k)) := by
  rw [cl_of_comp (stallCluster_comp s cd k), stallEnded, cl_modCl_same hcd hk,
    cl_of_comp (markPartial_keeps ((closed_comp _).sub (by decide)) _ _ rfl), endEntry_cl hcd hk]

theorem stallCluster_dieState : ((stallCluster s cd k).die (Die.ofCd cd)).state =
    if thirdStall s cd k then 6 else (s.die (Die.ofCd cd)).state := by
  rw [stallCluster_eq]
  split
  · rw [die_modDie]
  · rw [die_of_dies (stallLogged_dies s cd k), endEntry_dieState]

theorem stallCluster_unit (hk : k < 4) : (unitOf (stallCluster s cd k) (Die.ofCd cd) k).busy = none := by
  have hlogged : (unitOf (stallLogged s cd k) (Die.ofCd cd) k).busy = none := by
    rw [unitOf_of_dies (stallLogged_dies s cd k), endEntry_unit hk]
  rw [stallCluster_eq]
  split
  · unfold unitOf at hlogged ⊢
    rwa [die_modDie]
  · exact hlogged

theorem stallCluster_partial (s : State) (cd k : Nat) : (stallCluster s cd k).seqr.cur.partialEp = true := by
  have hlogged : (stallLogged s cd k).seqr = (stallEnded s cd k).seqr := logOnly_seqr ..
  rw [stallCluster_eq]
  split
  · rw [modDie_seqr, hlogged]
    rfl
  · rw [hlogged]
    rfl

theorem recentStalls_of_first (h : (s.cl cd k).stallTimes = []) : recentStalls s cd k = [s.now] := by
  unfold recentStalls
  rw [h]
  rfl

theorem recentStalls_of_two {a b : Nat} (h : (s.cl cd k).stallTimes = [a, b]) (ha : s.now ≤ a + 600000000000)
    (hb : s.now ≤ b + 600000000000) : recentStalls s cd k = [a, b, s.now] := by
  have ha' : s.now - a ≤ secNs 600 := by unfold secNs; omega
  have hb' : s.now - b ≤ secNs 600 := by unfold secNs; omega
  unfold recentStalls
  simp only [h, List.filter_cons, ha', hb', decide_true, ↓reduceIte, List.filter_nil, List.cons_append, List.nil_append]

end Stall

/-! ### Uncorrectable errors (R206) -/

section Ecc
variable {s : State} {cd k a : Nat}

/-- A fabric in which the word of an address is poisoned and the error counted. -/
def poisonedFabric (w : Nat) (f : Fabric) : Fabric :=
  { f with eccUnc := satAdd 65535 f.eccUnc 1, poison := if f.poison.contains w then f.poison else f.poison ++ [w] }

theorem mem_poison_poisonedFabric (w : Nat) (f : Fabric) : w ∈ (poisonedFabric w f).poison := by
  unfold poisonedFabric
  dsimp only
  split
  · next h => exact List.contains_iff_mem.mp h
  · exact List.mem_append_right _ List.mem_cons_self

/-- The resident segment that holds an address. -/
def residentSegment (s : State) (cd a : Nat) : Option Nat :=
  (List.range 64).find? fun i =>
    let g := segment s cd i
    g.valid && !g.upd && decide (g.base ≤ a) && decide (a < g.base + g.len)

/-- The state with the word poisoned, and the resident segment that holds it failed. -/
def eccPoisoned (s : State) (cd a : Nat) : State :=
  match residentSegment s cd a with
  | some i => modFab (modFab s cd (poisonedFabric (a / 8 * 8))) cd fun f => { f with scrubFail := true, scrubFailSeg := i }
  | none => modFab s cd (poisonedFabric (a / 8 * 8))

/-- The same with the error logged and the epoch PARTIAL. -/
def eccNoted (s : State) (cd a : Nat) : State :=
  markPartial (logOnly (eccPoisoned s cd a) (Die.ofCd cd) 4 0 Code.memUncorr 2 (args4 [a])) (Die.ofCd cd)

theorem eccError_eq (s : State) (cd k a : Nat) :
    eccError s cd k a = if clusterBusy (s.cl cd k) then endEntry (eccNoted s cd a) cd k 3 else eccNoted s cd a := rfl

theorem eccPoisoned_comp (s : State) (cd a : Nat) : (eccPoisoned s cd a).comp = s.comp := by
  unfold eccPoisoned
  split <;> rfl

theorem eccNoted_comp (s : State) (cd a : Nat) : (eccNoted s cd a).comp = s.comp :=
  (logOnly_comp ..).trans (eccPoisoned_comp s cd a)

theorem eccPoisoned_fab (hcd : cd < 4) : a / 8 * 8 ∈ ((eccPoisoned s cd a).fab cd).poison ∧
    ((eccPoisoned s cd a).fab cd).eccUnc = satAdd 65535 (s.fab cd).eccUnc 1 := by
  unfold eccPoisoned
  split
  · rw [fab_modFab hcd, fab_modFab hcd]
    exact ⟨mem_poison_poisonedFabric _ _, rfl⟩
  · rw [fab_modFab hcd]
    exact ⟨mem_poison_poisonedFabric _ _, rfl⟩

theorem eccError_fabs (s : State) (cd k a : Nat) : (eccError s cd k a).fabs = (eccPoisoned s cd a).fabs := by
  have hnoted : (eccNoted s cd a).fabs = (eccPoisoned s cd a).fabs := logOnly_fabs ..
  rw [eccError_eq]
  split
  · exact (endEntry_keeps ((closed_fabs _).sub (by decide)) _ cd k 3 rfl).trans hnoted
  · exact hnoted

theorem eccError_partial (s : State) (cd k a : Nat) : (eccError s cd k a).seqr.cur.partialEp = true := by
  rw [eccError_eq]
  split
  · rw [endEntry_seqr]
    rfl
  · rfl

/-- The entry that runs on the cluster ends with LAST_ERR 3. -/
theorem eccError_of_busy (hcd : cd < 4) (hk : k < 4) (h : clusterBusy (s.cl cd k) = true) :
    ((eccError s cd k a).cl cd k).lastErr = 3 ∧ ((eccError s cd k a).cl cd k).state = .idle ∧
      (unitOf (eccError s cd k a) (Die.ofCd cd) k).busy = none := by
  rw [eccError_eq, if_pos h, endEntry_cl hcd hk]
  exact ⟨rfl, rfl, endEntry_unit hk _ _⟩

theorem eccError_comp_of_not_busy (h : clusterBusy (s.cl cd k) = false) : (eccError s cd k a).comp = s.comp := by
  rw [eccError_eq, if_neg (by rw [h]; exact Bool.false_ne_true), eccNoted_comp]

end Ecc

/-! ### The minimum step rate (Table 10.3) -/

/-- The line of Table 10.3 that a core voltage lies on. -/
theorem minRate_line (m : Nat) :
    (m ≤ 500 ∧ minRate m = 260) ∨
    (500 < m ∧ m ≤ 600 ∧ minRate m = 260 + 180 * (m - 500) / 100) ∨
    (600 < m ∧ m ≤ 680 ∧ minRate m = 440 + 190 * (m - 600) / 80) ∨
    (680 < m ∧ m ≤ 750 ∧ minRate m = 630 + 190 * (m - 680) / 70) ∨
    (750 < m ∧ m ≤ 850 ∧ minRate m = 820 + 150 * (m - 750) / 100) ∨
    (850 < m ∧ minRate m = 970) := by
  unfold minRate
  dsimp only
  repeat' split
  all_goals omega

/-- The rate lies between Table 10.3's ends. -/
theorem minRate_bounds (m : Nat) : 260 ≤ minRate m ∧ minRate m ≤ 970 := by
  have hline := minRate_line m
  omega

/-- A higher core voltage never lowers the rate: each line of Table 10.3 rises, and ends where the next begins. -/
theorem minRate_mono (m : Nat) : minRate m ≤ minRate (m + 1) := by
  have hline := minRate_line m
  have hnext := minRate_line (m + 1)
  omega

/-! ### The commands -/

section Commands
variable {s : State} {cd k : Nat}

theorem exec_clusterStall (cd k : Nat) (s : State) : exec (.clusterStall cd k) s = execClusterStall cd k s := rfl
theorem exec_speedMonitorSample (cd : Nat) (rates : List Nat) (s : State) :
    exec (.speedMonitorSample cd rates) s = execSpeedMonitorSample cd rates s := rfl
theorem exec_speedLow (cd k : Nat) (s : State) : exec (.speedLow cd k) s = execSpeedLow cd k s := rfl
theorem exec_eccUncorrectable (cd k : Nat) (a : Word) (s : State) :
    exec (.eccUncorrectable cd k a) s = execEccUncorrectable cd k a s := rfl

/-- Nothing of the part differs from s but what a stall may change. -/
def StallFrame (s t : State) : Prop :=
  t = { s with seqr := t.seqr, dies := t.dies, comp := t.comp, log := t.log, outboxes := t.outboxes }

theorem closed_stallFrame (s : State) : Closed 0x60002001800 (StallFrame s) := by
  unfold StallFrame
  constructor
  all_goals first
    | exact fun b => absurd b Bool.false_ne_true
    | (intro _ t x h; rw [h])
    | (intro _ t x _ h; rw [h])

/-- Nothing of the part differs from s but what an uncorrectable error may change. -/
def EccFrame (s t : State) : Prop :=
  t = { s with seqr := t.seqr, dies := t.dies, fabs := t.fabs, comp := t.comp, log := t.log, outboxes := t.outboxes }

theorem closed_eccFrame (s : State) : Closed 0x60002201800 (EccFrame s) := by
  unfold EccFrame
  constructor
  all_goals first
    | exact fun b => absurd b Bool.false_ne_true
    | (intro _ t x h; rw [h])
    | (intro _ t x _ h; rw [h])

theorem exec_clusterStall_eq (hcd : cdOk s cd = true) (hk : k < 4) :
    exec (.clusterStall cd k) s =
      .next (if (s.cl cd k).state = .running ∧ rb s (cdBase cd + 0x100000 * k) 1 = true then stallCluster s cd k else s) := by
  rw [exec_clusterStall, execClusterStall, onUnit_cdOk_lt hcd hk]
  simp only [Bool.and_eq_true, beq_iff_eq]

theorem exec_speedLow_eq (hcd : cdOk s cd = true) (hk : k < 4) :
    exec (.speedLow cd k) s =
      .next (if (s.cl cd k).speed < minRate s.power.vcoreSet then
        raiseOn s (Die.ofCd cd) 4 0 Code.speedLow 1 (args4 [k, (s.cl cd k).speed]) else s) := by
  rw [exec_speedLow, execSpeedLow, onUnit_cdOk_lt hcd hk]

/-- A cluster with its monitor's rate. -/
def sampledCluster (rate : Nat) (c : Cluster) : Cluster := { c with speed := rate }

/-- Four samples, one to each cluster in turn. -/
def sampledFour (s : State) (cd a b c d : Nat) : State :=
  modCl (modCl (modCl (modCl s cd 0 (sampledCluster a)) cd 1 (sampledCluster b)) cd 2 (sampledCluster c)) cd 3 (sampledCluster d)

theorem exec_speedMonitorSample_four (hcd : cdOk s cd = true) (a b c d : Nat) :
    exec (.speedMonitorSample cd [a, b, c, d]) s = .next (sampledFour s cd a b c d) := by
  rw [exec_speedMonitorSample, execSpeedMonitorSample, onUnit_cdOk hcd]
  rfl

theorem sampledFour_frame (s : State) (cd a b c d : Nat) :
    sampledFour s cd a b c d = { s with comp := (sampledFour s cd a b c d).comp } := by
  unfold sampledFour modCl modComp
  rfl

theorem sampledFour_speeds (hcd : cd < 4) (a b c d : Nat) :
    ((sampledFour s cd a b c d).cl cd 0).speed = a ∧ ((sampledFour s cd a b c d).cl cd 1).speed = b ∧
      ((sampledFour s cd a b c d).cl cd 2).speed = c ∧ ((sampledFour s cd a b c d).cl cd 3).speed = d := by
  simp only [sampledFour, cl_modCl hcd, sampledCluster, Nat.reduceEqDiff, Nat.reduceLT, and_self, and_true, ↓reduceIte]

end Commands

/-- Settles O38: a stall, an uncorrectable error and a sample are the model's own operations, read off one cluster, its unit and its
die; the rates of Table 10.3 are linear arithmetic. -/
theorem clusterFaults : Obligations.ClusterFaults := by
  unfold Obligations.ClusterFaults
  refine ⟨?stall, ?third, ?noStall, ?sample, ?low, ?rates, ?ecc⟩
  case stall =>
    intro cd k s hcd hk hrun hon hnone
    obtain ⟨hlt, -⟩ := and_of_cdOk hcd
    have hthird : thirdStall s cd k = false := by
      unfold thirdStall
      rw [recentStalls_of_first hnone]
      rfl
    refine ⟨stallCluster s cd k, by rw [exec_clusterStall_eq hcd hk, if_pos ⟨hrun, hon⟩],
      stallCluster_keeps (closed_stallFrame s) s cd k rfl, ?_⟩
    rw [stallCluster_cl hlt hk, stallCluster_dieState, hthird, recentStalls_of_first hnone]
    exact ⟨rfl, rfl, rfl, rfl, stallCluster_unit hk, stallCluster_partial s cd k, rfl,
      stallCluster_keeps ((closed_mem s).sub (by decide)) s cd k rfl⟩
  case third =>
    intro cd k a b s hcd hk hrun hon htwo ha hb
    obtain ⟨hlt, -⟩ := and_of_cdOk hcd
    have hthird : thirdStall s cd k = true := by
      unfold thirdStall
      rw [recentStalls_of_two htwo ha hb]
      rfl
    refine ⟨stallCluster s cd k, by rw [exec_clusterStall_eq hcd hk, if_pos ⟨hrun, hon⟩],
      stallCluster_keeps (closed_stallFrame s) s cd k rfl, ?_⟩
    rw [stallCluster_cl hlt hk, stallCluster_dieState, hthird]
    exact ⟨rfl, rfl⟩
  case noStall =>
    intro cd k s hcd hk hidle
    rw [exec_clusterStall_eq hcd hk, if_neg]
    rintro ⟨hrun, hon⟩
    rcases hidle with h | h
    · exact h hrun
    · exact Bool.false_ne_true (h.symm.trans hon)
  case sample =>
    intro cd a b c d s hcd
    obtain ⟨hlt, -⟩ := and_of_cdOk hcd
    obtain ⟨h0, h1, h2, h3⟩ := sampledFour_speeds (s := s) hlt a b c d
    exact ⟨_, exec_speedMonitorSample_four hcd a b c d, h0, h1, h2, h3, sampledFour_frame s cd a b c d⟩
  case low =>
    intro cd k s hcd hk
    rw [exec_speedLow_eq hcd hk]
    exact ⟨fun h => by rw [if_neg (Nat.not_lt.mpr h)], fun h => by rw [if_pos h]⟩
  case rates =>
    intro m
    obtain ⟨hlow, hhigh⟩ := minRate_bounds m
    exact ⟨hlow, hhigh, rfl, rfl, rfl, minRate_mono m⟩
  case ecc =>
    intro cd k a s hcd hk
    obtain ⟨hlt, -⟩ := and_of_cdOk hcd
    obtain ⟨hpoison, hcount⟩ := eccPoisoned_fab (s := s) (a := a.toNat) hlt
    refine ⟨eccError s cd k a.toNat, ?_, eccError_keeps (closed_eccFrame s) s cd k _ rfl, ?_⟩
    · rw [exec_eccUncorrectable, execEccUncorrectable, onUnit_cdOk_lt hcd hk]
    · rw [fab_of_fabs (eccError_fabs s cd k a.toNat)]
      exact ⟨eccError_keeps ((closed_mem s).sub (by decide)) s cd k _ rfl, hpoison, eccError_partial s cd k _, hcount,
        eccError_of_busy hlt hk, eccError_comp_of_not_busy⟩

end Sys2Proof.Proofs
end

section
/-! PROOF. A LAUNCH token at a unit that is idle: its entry runs there from its arrival, without lateness (R52, R54, R55). -/
namespace Sys2Proof.Proofs
open Sys2Proof Sys2Proof.Machine Sys2Proof.Laws

/-- A token of the type a command names, delivered to its die, takes its effect. -/
theorem onToken_taken {f : SbFrame} {w : BitVec 48} {s s1 : State} {typ : Nat} (hp : portOk s f.port = true)
    (ht : takeToken s f = (some w, s1)) (htyp : tokType w = typ) (g : State → BitVec 48 → State) :
    onToken s f typ g = .next (g s1 w) := by
  unfold onToken
  rw [onUnit_portOk hp, ht]
  dsimp only
  rw [htyp, if_pos BEq.rfl]

/-- An entry that starts as it arrives has no lateness. -/
theorem startEntry_of_arrived {s : State} {l : Launched} (harrived : l.arrived = s.now) (hlate : l.late = false) (d : Die)
    (u : Nat) (start : State → Die → Nat → Launched → State) : startEntry s d u l start = start (running s d u l) d u l := by
  have hself : ({ l with late := false } : Launched) = l := by rw [← hlate]
  have hnot : decide (l.slack.toNat < 0) = false := rfl
  unfold startEntry running
  dsimp only
  rw [harrived, Nat.sub_self, hlate, hnot, Bool.and_false, Bool.or_false, if_neg Bool.false_ne_true, ← harrived, hself]

/-- An entry that reaches one idle unit starts on it, and no queue is full. -/
theorem launchAll_of_idle {s : State} {d : Die} {u : Nat} (h : unitIdle (unitOf s d u) = true) (l : Launched)
    (start : State → Die → Nat → Launched → State) : launchAll s d l start [u] false = startEntry s d u l start := by
  obtain ⟨hbusy, hqueued⟩ := Bool.and_eq_true_iff.mp h
  have hone : launchOne s d l start u = (false, startEntry s d u l start) := by
    unfold launchOne
    dsimp only
    rw [Option.isNone_iff_eq_none.mp hbusy, Option.isNone_iff_eq_none.mp hqueued]
  unfold launchAll
  rw [hone]
  rfl

/-- A LAUNCH token for one idle unit of a die that takes its action runs its entry on that unit. -/
theorem onLaunch_ready {s s1 : State} {f : SbFrame} {act : Nat} {w : BitVec 48} {e : LaunchEntry}
    (h : LaunchReady s f act w s1 e) {okDie : Die → Bool} {okUnit : Nat → Bool} (hdie : okDie f.port.die = true)
    (hunit : okUnit (tokUnit w) = true) {u : Nat} (hu : tokUnit w % 16 = u)
    (hnamed : unitsNamed f.port.die (tokUnit w) = [u]) (start : State → Die → Nat → Launched → State) :
    onLaunch s f act okDie okUnit start =
      .next (start (running s1 f.port.die u (launchedBy s1 w e)) f.port.die u (launchedBy s1 w e)) := by
  obtain ⟨hport, htake, htyp, hact, hep, htakes, hrefusing, hentry, hidle⟩ := h
  rw [hu] at hidle
  unfold onLaunch
  rw [onToken_taken hport htake htyp, hact, hdie, if_pos (by rw [BEq.rfl]; rfl)]
  unfold takeLaunch
  rw [hep, bne_self_eq_false, if_neg Bool.false_ne_true, htakes, hrefusing, if_neg (by decide), hunit, if_neg (by decide),
    hentry, hnamed]
  dsimp only
  rw [launchAll_of_idle hidle]
  exact congrArg Host.Outcome.next (startEntry_of_arrived rfl rfl ..)

/-! ### Reading the state with an entry running -/

section Running
variable (s : State) (d : Die) (u : Nat) (l : Launched)

theorem rb_running (a i : Nat) : rb (running s d u l) a i = rb s a i := rfl
theorem rnat_running (a : Nat) : rnat (running s d u l) a = rnat s a := rfl

/-- An entry on one unit of a die leaves its other units as they are. -/
theorem unitOf_running_of_ne {v : Nat} (h : u ≠ v) : unitOf (running s d u l) d v = unitOf s d v := by
  unfold running noteLateness modUnit unitOf
  rw [die_modDie, die_modDie]
  exact (vget_vmod ..).trans (if_neg fun hsame => h hsame.1)

end Running

end Sys2Proof.Proofs
end

section
/-! PROOF. The sensor: how a frame begins, how it is lost, and what the sensor's own events make of its state (R235–R238, R251,
R253, R254, R285). -/
namespace Sys2Proof.Proofs
open Sys2Proof Sys2Proof.Machine Sys2Proof.Laws

/-! ### What the commands may touch -/

/-- Nothing of the part differs from s but what EXPOSE and EXPOSE_HDR may change. -/
def ExposeFrame (s t : State) : Prop :=
  t = { s with
    regs := t.regs, out := t.out, seqr := t.seqr, dies := t.dies, boot := t.boot, ports := t.ports, eye := t.eye,
    isp := t.isp, recs := t.recs, log := t.log, outboxes := t.outboxes }

/-- Nothing of the part differs from s but what a missing frame may change. -/
def MissingFrame (s t : State) : Prop :=
  t = { s with
    dies := t.dies, ports := t.ports, eye := t.eye, isp := t.isp, recs := t.recs, log := t.log, outboxes := t.outboxes }

theorem closed_exposeFrame (s : State) : Closed 0x60201845a10 (ExposeFrame s) := by
  unfold ExposeFrame
  constructor
  all_goals first
    | exact fun b => absurd b Bool.false_ne_true
    | (intro _ t x h; rw [h])
    | (intro _ t x _ h; rw [h])

theorem closed_missingFrame (s : State) : Closed 0x60201841000 (MissingFrame s) := by
  unfold MissingFrame
  constructor
  all_goals first
    | exact fun b => absurd b Bool.false_ne_true
    | (intro _ t x h; rw [h])
    | (intro _ t x _ h; rw [h])

/-! ### A missing frame (R253, R285) -/

/-- The sensor without its frame, for a LAST_MISSING cause. -/
def missingEye (sensor : Nat) (y : EyeSt) : EyeSt :=
  { y with
    state := if y.state == .exposing || y.state == .reading then .standby else y.state
    plan := none, bankWait := false, frameMissing := true, lastMissing := sensor, missing := y.missing + 1 }

/-- The ISP without its frame, for a cause of Table 9.9. -/
def missingIsp (cause : Nat) (i : IspSt) : IspSt :=
  { i with cause := cause, state := if i.state == .armed || i.state == .running then .aborted else i.state }

/-- The abort messages leave the sensor as it is. -/
theorem abortFrame_eye (s : State) (cause sensor : Nat) : (abortFrame s cause sensor).eye = missingEye sensor s.eye :=
  foldl_keeps (fun t d ht => sendFrameAbort_keeps ((closed_eye _).sub (by decide)) t d cause ht) _ _ rfl

/-- The abort messages leave the ISP as it is. -/
theorem abortFrame_isp (s : State) (cause sensor : Nat) : (abortFrame s cause sensor).isp = missingIsp cause s.isp :=
  foldl_keeps (fun t d ht => sendFrameAbort_keeps ((closed_isp _).sub (by decide)) t d cause ht) _ _ rfl

theorem missingEye_state_of_busy {y : EyeSt} (h : y.state = .exposing ∨ y.state = .reading) (sensor : Nat) :
    (missingEye sensor y).state = .standby := by
  rcases h with h | h
  · rw [missingEye, h]; rfl
  · rw [missingEye, h]; rfl

theorem missingEye_state_of_down {y : EyeSt} (h : y.state = .off ∨ y.state = .cal ∨ y.state = .fault) (sensor : Nat) :
    (missingEye sensor y).state = y.state := by
  rcases h with h | h | h
  · rw [missingEye, h]; rfl
  · rw [missingEye, h]; rfl
  · rw [missingEye, h]; rfl

theorem frameBusy_iff {s : State} : frameBusy s = true ↔ s.eye.state = .exposing ∨ s.eye.state = .reading := by
  unfold frameBusy
  rw [Bool.or_eq_true, beq_iff_eq, beq_iff_eq]

/-! ### Exposure times (R236, R237) -/

/-- An applied time is at least 10 µs in a window of at least as much; a time that was not clamped is the requested one. -/
theorem singleTime_bounds {w ns t : Nat} {cl : Bool} (h : singleTime w ns = some (t, cl)) :
    10000 ≤ t ∧ 60000 ≤ w ∧ (cl = false → 10000 ≤ ns ∧ 6 * ns ≤ w) := by
  unfold singleTime at h
  split at h
  · cases h
  · next hw =>
    injection h with h
    obtain ⟨rfl, rfl⟩ := Prod.mk.inj h
    refine ⟨by omega, by omega, fun hcl => ?_⟩
    have hsame := bne_eq_false_iff_eq.mp hcl
    omega

/-- An applied dual time has k from 1 to 4 and a short time of at least 10 µs. -/
theorem dualTime_bounds {w s0 l0 sh k : Nat} {cl : Bool} (h : dualTime w s0 l0 = some (sh, k, cl)) :
    1 ≤ k ∧ k ≤ 4 ∧ 10 ≤ sh := by
  unfold dualTime at h
  dsimp only at h
  rw [Option.ite_none_left_eq_some] at h
  obtain ⟨hlong, hpair⟩ := h
  injection hpair with hpair
  obtain ⟨rfl, hrest⟩ := Prod.mk.inj hpair
  obtain ⟨rfl, -⟩ := Prod.mk.inj hrest
  exact ⟨Nat.le_max_left .., Nat.max_le.mpr ⟨by decide, Nat.min_le_left ..⟩, Nat.not_lt.mp hlong⟩

/-- The longest window follows from registers alone. -/
theorem wMax_running (s : State) (d : Die) (u : Nat) (l : Launched) (rc : Nat) : wMax (running s d u l) rc = wMax s rc := by
  unfold wMax
  rw [rnat_running, rnat_running]

/-! ### The beginning of an exposure (R235, R253, R254) -/

/-- A sensor that an EXPOSE has reached: the epoch has a frame, which begins 1 µs from now. -/
def exposedEye (s : State) (y : EyeSt) : EyeSt := { y with exposed := true, exposedAt := s.tb.ltime + 1000, frameMissing := false }

/-- A sensor that exposes as a plan says. -/
def exposingEye (p : ExpPlan) (cl : Bool) (y : EyeSt) : EyeSt :=
  { y with
    state := .exposing, plan := some p, hdrActive := p.hdr, clamped := cl, bankWait := false, rows := 0
    expLast := if p.hdr then y.expLast else p.timeNs
    expLastHdr := if p.hdr then p.shortUs % 65536 + 65536 * p.k else y.expLastHdr }

theorem beginExposure_eye (s : State) (p : ExpPlan) (cl : Bool) (args : BitVec 96) :
    (beginExposure s p cl args).eye = exposingEye p cl s.eye := by
  unfold beginExposure
  dsimp only
  split
  · exact logOnly_eye ..
  · rfl

theorem exposeRefusal_of_standby {s : State} (hstate : s.eye.state = .standby) (hlock : s.eye.relocking = false) :
    exposeRefusal s true = none := by
  unfold exposeRefusal
  rw [hstate, hlock]
  rfl

theorem exposeRefusal_of_down {s : State} (h : s.eye.state = .off ∨ s.eye.state = .cal ∨ s.eye.state = .fault) (vpixOk : Bool) :
    exposeRefusal s vpixOk = some 5 := by
  unfold exposeRefusal
  rcases h with h | h | h
  · rw [h]
  · rw [h]
  · rw [h]

section Start
variable {s : State} {l : Launched} (d : Die) (u : Nat)

/-- EXPOSE at a sensor that may expose begins the exposure of a time that fits. -/
theorem startExpose_single_eye (hok : exposeRefusal s true = none) (hreg : rb s 0x01000000 0 = false) {ns : Nat} {cl : Bool}
    (hfit : singleTime (wMax s (rnat s 0x01000014)) l.arg.toNat = some (ns, cl)) :
    (startExpose false true s d u l).eye =
      exposingEye { hdr := false, timeNs := ns, shortUs := 0, k := 0, phase := 0, received := s.now, begins := s.tb.ltime + 1000 }
        cl (exposedEye s s.eye) := by
  unfold startExpose
  simp only [hok, hreg, Bool.false_eq_true, ↓reduceIte, hfit]
  exact beginExposure_eye ..

/-- EXPOSE_HDR at a sensor that may expose begins the exposure of the times that fit. -/
theorem startExpose_dual_eye (hok : exposeRefusal s true = none) (hreg : rb s 0x01000000 0 = false) {sh k : Nat} {cl : Bool}
    (hfit : dualTime (wMax s (rnat s 0x01000018)) (wbits l.arg 31 16) (wbits l.arg 15 0) = some (sh, k, cl)) :
    (startExpose true true s d u l).eye =
      exposingEye { hdr := true, timeNs := 0, shortUs := sh, k := k, phase := 0, received := s.now, begins := s.tb.ltime + 1000 }
        cl (exposedEye s s.eye) := by
  unfold startExpose
  simp only [hok, hreg, Bool.false_eq_true, ↓reduceIte, hfit]
  exact beginExposure_eye ..

/-- A refused exposure is a missing frame; only a lost pixel supply is logged. -/
theorem startExpose_refused_eye {vpixOk : Bool} {c : Nat} (h : exposeRefusal s vpixOk = some c) (hdr : Bool) :
    (startExpose hdr vpixOk s d u l).eye = missingEye c (exposedEye s s.eye) := by
  unfold startExpose
  simp only [h]
  refine (abortFrame_eye ..).trans (congrArg (missingEye c) ?_)
  split
  · exact logOnly_eye ..
  · rfl

end Start

/-! ### The launches -/

section Launches
variable {s s1 : State} {f : SbFrame} {w : BitVec 48} {e : LaunchEntry}

theorem exec_expose (f : SbFrame) (vpixOk : Bool) (s : State) : exec (.expose f vpixOk) s = execExpose f vpixOk s := rfl
theorem exec_exposeHdr (f : SbFrame) (vpixOk : Bool) (s : State) : exec (.exposeHdr f vpixOk) s = execExposeHdr f vpixOk s := rfl

theorem exec_expose_ready (h : LaunchReady s f 1 w s1 e) (hdie : f.port.die = .eye) (hunit : tokUnit w = 0) (vpixOk : Bool) :
    exec (.expose f vpixOk) s =
      .next (startExpose false vpixOk (running s1 .eye 0 (launchedBy s1 w e)) .eye 0 (launchedBy s1 w e)) := by
  rw [exec_expose, execExpose,
    onLaunch_ready h (u := 0) (by rw [hdie]; rfl) (by rw [hunit]; rfl) (by rw [hunit]) (by rw [hdie, hunit]; rfl), hdie]

theorem exec_exposeHdr_ready (h : LaunchReady s f 2 w s1 e) (hdie : f.port.die = .eye) (hunit : tokUnit w = 0) (vpixOk : Bool) :
    exec (.exposeHdr f vpixOk) s =
      .next (startExpose true vpixOk (running s1 .eye 0 (launchedBy s1 w e)) .eye 0 (launchedBy s1 w e)) := by
  rw [exec_exposeHdr, execExposeHdr,
    onLaunch_ready h (u := 0) (by rw [hdie]; rfl) (by rw [hunit]; rfl) (by rw [hunit]) (by rw [hdie, hunit]; rfl), hdie]

end Launches

/-! ### The sensor's events -/

section Events
variable {s : State}

theorem exec_sensorCalDone (a b : Bool) (s : State) : exec (.sensorCalDone a b) s = execSensorCalDone a b s := rfl
theorem exec_calTimeout (s : State) : exec .calTimeout s = execCalTimeout s := rfl
theorem exec_exposureEnd (s : State) : exec .exposureEnd s = execExposureEnd s := rfl
theorem exec_bankPowerUp (s : State) : exec .bankPowerUp s = execBankPowerUp s := rfl
theorem exec_rowConverted (l m : List Nat) (s : State) : exec (.rowConverted l m) s = execRowConverted l m s := rfl
theorem exec_vpixFault (s : State) : exec .vpixFault s = execVpixFault s := rfl
theorem exec_seqClockLost (s : State) : exec .seqClockLost s = execSeqClockLost s := rfl
theorem exec_seqClockRelock (s : State) : exec .seqClockRelock s = execSeqClockRelock s := rfl

/-- A sensor whose calibration has ended, by what became of its converters. -/
def calibratedEye (a b : Bool) (y : EyeSt) : EyeSt :=
  { y with
    bankA := a, bankB := b, state := if a = true ∧ b = true then .standby else .fault
    faultCause := if a = true ∧ b = true then y.faultCause else if b = true then 1 else 2 }

theorem exec_sensorCalDone_of_cal {a b : Bool} (hcal : s.eye.state = .cal) (hgood : a = true ∨ b = true) :
    exec (.sensorCalDone a b) s = .next (modEye s (calibratedEye a b)) := by
  rw [exec_sensorCalDone, execSensorCalDone, hcal, if_neg (by decide)]
  match a, b, hgood with
  | true, true, _ => rfl
  | true, false, _ => rfl
  | false, true, _ => rfl

theorem exec_calTimeout_of_cal (hcal : s.eye.state = .cal) :
    exec .calTimeout s = .next { s with eye := { s.eye with state := .fault, faultCause := 4 } } := by
  rw [exec_calTimeout, execCalTimeout, hcal, if_pos BEq.rfl]
  rfl

/-- A sensor at the end of an exposure: the short one of an HDR frame follows the long one, readout any other. -/
def exposureEndEye (s : State) (p : ExpPlan) (y : EyeSt) : EyeSt :=
  if p.hdr = true ∧ p.phase = 0 then { y with plan := some { p with phase := 1 } }
  else { y with state := .reading, rows := 0, bankWait := waitsForBanks s p }

theorem exec_exposureEnd_of_exposing {p : ExpPlan} (hstate : s.eye.state = .exposing) (hplan : s.eye.plan = some p) :
    exec .exposureEnd s = .next (modEye s (exposureEndEye s p)) := by
  rw [exec_exposureEnd, execExposureEnd, hstate, hplan]
  dsimp only
  unfold exposureEndEye
  by_cases hlong : p.hdr = true ∧ p.phase = 0
  · rw [if_pos (by rwa [Bool.and_eq_true, beq_iff_eq])]
    simp only [if_pos hlong]
  · rw [if_neg (by rwa [Bool.and_eq_true, beq_iff_eq])]
    simp only [if_neg hlong]

theorem exec_rowConverted_of_reading (hstate : s.eye.state = .reading) (hbanks : s.eye.bankWait = false) (l m : List Nat) :
    exec (.rowConverted l m) s = .next (convertRow s l m) := by
  rw [exec_rowConverted, execRowConverted, hstate, hbanks]
  rfl

theorem exec_rowConverted_of_not_reading (hstate : s.eye.state ≠ .reading) (l m : List Nat) :
    exec (.rowConverted l m) s = .next s := by
  rw [exec_rowConverted, execRowConverted, beq_eq_false_iff_ne.mpr hstate, Bool.false_and, if_neg Bool.false_ne_true]

/-- The end of the converters' power-up changes nothing where nothing waits for it. -/
theorem exec_bankPowerUp_of_up (hbanks : s.eye.bankWait = false) : exec .bankPowerUp s = .next s := by
  have hself : ({ s.eye with bankWait := false } : EyeSt) = s.eye := by rw [← hbanks]
  rw [exec_bankPowerUp, execBankPowerUp, modEye, hself]

theorem exec_vpixFault_of_busy (hbusy : s.eye.state = .exposing ∨ s.eye.state = .reading) :
    exec .vpixFault s = .next (sensorMissing (logOnly s .eye 0 0 Code.pixelSupply 2) 3) := by
  rw [exec_vpixFault, execVpixFault, if_pos (frameBusy_iff.mpr hbusy)]

theorem exec_vpixFault_of_idle (hidle : ¬(s.eye.state = .exposing ∨ s.eye.state = .reading)) : exec .vpixFault s = .next s := by
  rw [exec_vpixFault, execVpixFault, if_neg (mt frameBusy_iff.mp hidle)]

/-- The losses of the sequencer's clock within 1 s, the one now first. -/
def recentClockLosses (s : State) : List Nat := s.now :: s.eye.clkLosses.filter fun t => decide (s.now - t < 1000000000)

/-- A sensor whose sequencer has lost its clock. -/
def clockLostEye (losses : List Nat) (y : EyeSt) : EyeSt :=
  if 3 ≤ losses.length then { y with state := .fault, faultCause := 3, relocking := false, clkLosses := losses }
  else { y with relocking := true, clkLosses := losses }

theorem exec_seqClockLost_of_standby (hstate : s.eye.state = .standby) :
    exec .seqClockLost s = .next (modEye s (clockLostEye (recentClockLosses s))) := by
  have hidle : frameBusy s = false := by rw [frameBusy, hstate]; rfl
  rw [exec_seqClockLost, execSeqClockLost, hstate, if_neg (by decide), hidle]
  unfold clockLostEye recentClockLosses
  dsimp only
  split
  · simp only [Bool.false_eq_true, ↓reduceIte]
  · simp only [Bool.false_eq_true, ↓reduceIte]

/-- With the older of two losses within 1 s, the loss now is the third. -/
theorem recentClockLosses_third {x y : Nat} (h : s.eye.clkLosses = [x, y]) (hxy : y ≤ x) (hy : s.now < y + 1000000000) :
    recentClockLosses s = [s.now, x, y] := by
  have hx' : s.now - x < 1000000000 := by omega
  have hy' : s.now - y < 1000000000 := by omega
  unfold recentClockLosses
  simp only [h, List.filter_cons, hx', hy', decide_true, ↓reduceIte, List.filter_nil]

/-- With the older of two losses 1 s ago or more, the loss now is the second at most. -/
theorem recentClockLosses_length_le {x y : Nat} (h : s.eye.clkLosses = [x, y]) (hy : y + 1000000000 ≤ s.now) :
    (recentClockLosses s).length ≤ 2 := by
  have hy' : ¬s.now - y < 1000000000 := by omega
  unfold recentClockLosses
  simp only [h, List.filter_cons, hy', decide_false, Bool.false_eq_true, ↓reduceIte, List.filter_nil, List.length_cons]
  split
  · exact Nat.le_refl 2
  · exact Nat.le_succ 1

end Events

/-- Settles O33: a launch begins an exposure or loses the frame, both read off the sensor alone; each of the sensor's events is
one equation. -/
theorem sensorCommands : Obligations.SensorCommands := by
  unfold Obligations.SensorCommands
  refine ⟨?single, fun w ns t cl => singleTime_bounds, ?dual, ?down, ?cal, fun s => exec_calTimeout_of_cal, ?ends,
    fun l m s hstate hbanks => ⟨exec_rowConverted_of_reading hstate hbanks l m, exec_bankPowerUp_of_up hbanks⟩, fun s => rfl, ?idle,
    ?supply, ?clock, fun s _ => rfl⟩
  case single =>
    intro f w e ns cl s s1 hready hdie hunit hstate hlock hreg hfit
    have hexec := exec_expose_ready hready hdie hunit true
    have heye := startExpose_single_eye (s := running s1 .eye 0 (launchedBy s1 w e)) (l := launchedBy s1 w e) .eye 0
      (exposeRefusal_of_standby hstate hlock) (by rwa [rb_running]) (by rwa [wMax_running, rnat_running])
    refine ⟨_, hexec, (execExpose_keeps (closed_exposeFrame s) f true s rfl).of _ hexec, ?_⟩
    rw [heye]
    exact ⟨rfl, rfl, rfl, rfl, rfl, rfl, startExpose_keeps ((closed_mem s1).sub (by decide)) _ _ _ _ _ _ rfl⟩
  case dual =>
    intro f w e sh k cl s s1 hready hdie hunit hstate hlock hreg hfit
    have hexec := exec_exposeHdr_ready hready hdie hunit true
    have heye := startExpose_dual_eye (s := running s1 .eye 0 (launchedBy s1 w e)) (l := launchedBy s1 w e) .eye 0
      (exposeRefusal_of_standby hstate hlock) (by rwa [rb_running]) (by rwa [wMax_running, rnat_running])
    refine ⟨_, hexec, (execExposeHdr_keeps (closed_exposeFrame s) f true s rfl).of _ hexec, ?_⟩
    rw [heye]
    exact ⟨rfl, rfl, rfl, rfl, dualTime_bounds hfit⟩
  case down =>
    intro f w e s s1 hready hdie hunit hdown
    have hexec := exec_expose_ready hready hdie hunit true
    have heye := startExpose_refused_eye (s := running s1 .eye 0 (launchedBy s1 w e)) (l := launchedBy s1 w e) .eye 0
      (exposeRefusal_of_down hdown true) false
    refine ⟨_, hexec, (execExpose_keeps (closed_exposeFrame s) f true s rfl).of _ hexec, ?_⟩
    rw [heye]
    exact ⟨rfl, rfl, rfl, missingEye_state_of_down hdown 5⟩
  case cal =>
    intro a b s hcal hgood
    exact ⟨_, exec_sensorCalDone_of_cal hcal hgood, rfl⟩
  case ends =>
    intro p s hstate hplan
    exact exec_exposureEnd_of_exposing hstate hplan
  case idle =>
    intro s hexp hread
    exact ⟨exec_rowConverted_of_not_reading hread [] [], exec_vpixFault_of_idle fun h => h.elim hexp hread⟩
  case supply =>
    intro s hbusy
    have hexec := exec_vpixFault_of_busy hbusy
    refine ⟨_, hexec, (execVpixFault_keeps (closed_missingFrame s) s rfl).of _ hexec, ?_⟩
    unfold sensorMissing
    rw [abortFrame_eye, abortFrame_isp, logOnly_eye]
    exact ⟨missingEye_state_of_busy hbusy 3, rfl, rfl, rfl⟩
  case clock =>
    intro x y s hstate hlosses hxy _
    refine ⟨_, exec_seqClockLost_of_standby hstate, rfl, fun hnow => ?_, fun hnow => ?_⟩
    · rw [modEye_eye, recentClockLosses_third hlosses hxy hnow]
      exact ⟨rfl, rfl⟩
    · have htwo := recentClockLosses_length_le hlosses hnow
      rw [modEye_eye, clockLostEye, if_neg (by omega)]
      exact ⟨hstate, rfl⟩

end Sys2Proof.Proofs
end

section
/-! PROOF. The image pipeline: how a frame is armed, what the watchdog makes of a delivered row, and the companded codes (R241,
R257, R258, R273, R285). -/
namespace Sys2Proof.Proofs
open Sys2Proof Sys2Proof.Machine Sys2Proof.Laws

/-! ### ISP_START (R273) -/

/-- Nothing of the part differs from s but what ISP_START may change. -/
def IspStartFrame (s t : State) : Prop :=
  t = { s with
    regs := t.regs, out := t.out, seqr := t.seqr, dies := t.dies, boot := t.boot, ports := t.ports, isp := t.isp,
    recs := t.recs, log := t.log, outboxes := t.outboxes }

theorem closed_ispStartFrame (s : State) : Closed 0x60201045a10 (IspStartFrame s) := by
  unfold IspStartFrame
  constructor
  all_goals first
    | exact fun b => absurd b Bool.false_ne_true
    | (intro _ t x h; rw [h])
    | (intro _ t x _ h; rw [h])

section Start
variable {s : State} (d : Die) (u : Nat) (l : Launched)

theorem startIsp_of_frame (hexposed : s.eye.exposed = true) (hframe : s.eye.frameMissing = false) :
    startIsp s d u l = frameStart s := by
  unfold startIsp
  rw [hexposed, hframe]
  rfl

theorem startIsp_of_missing (hexposed : s.eye.exposed = true) (hmissing : s.eye.frameMissing = true) :
    startIsp s d u l = unitDone (modIsp s fun i => { i with state := .aborted }) .eye 1 := by
  unfold startIsp
  rw [hexposed, hmissing]
  rfl

theorem startIsp_of_none (hexposed : s.eye.exposed = false) (hqueued : (unitOf s .eye 0).queued = none) :
    startIsp s d u l = unitDone (logOnly s .eye 1 0 Code.ispNoFrame 1) .eye 1 := by
  unfold startIsp
  rw [hexposed, hqueued]
  rfl

end Start

theorem exec_ispStart (f : SbFrame) (s : State) : exec (.ispStart f) s = execIspStart f s := rfl

theorem exec_ispStart_ready {s s1 : State} {f : SbFrame} {w : BitVec 48} {e : LaunchEntry} (h : LaunchReady s f 8 w s1 e)
    (hdie : f.port.die = .eye) (hunit : tokUnit w = 1) :
    exec (.ispStart f) s = .next (startIsp (running s1 .eye 1 (launchedBy s1 w e)) .eye 1 (launchedBy s1 w e)) := by
  rw [exec_ispStart, execIspStart,
    onLaunch_ready h (u := 1) (by rw [hdie]; rfl) (by rw [hunit]; rfl) (by rw [hunit]) (by rw [hdie, hunit]; rfl), hdie]

/-! ### The watchdog's checks of a delivered row (R285) -/

section Rows
variable {s : State} {len index : Nat} {fe le : Bool}

theorem rowCause_of_length (hlen : len ≠ 4112) : rowCause s len index fe le = some 2 := by
  rw [rowCause, if_pos (bne_iff_ne.mpr hlen)]

theorem rowCause_of_early_end (hend : index < 3079) : rowCause s 4112 index true le = some 3 := by
  rw [rowCause, if_neg (by decide), decide_eq_true hend, Bool.and_self, if_pos rfl]

theorem rowCause_of_order (hindex : index ≠ s.isp.next) : rowCause s 4112 index false le = some 4 := by
  rw [rowCause, if_neg (by decide), Bool.false_and, if_neg Bool.false_ne_true, bne_iff_ne.mpr hindex, Bool.true_or, if_pos rfl]

/-- A row that is complete and in its order shows no cause but an error of the line buffer. -/
theorem rowCause_of_next (hindex : index = s.isp.next) (hlast : index ≤ 3079) :
    rowCause s 4112 index false le = if le = true then some 7 else none := by
  rw [rowCause, if_neg (by decide), Bool.false_and, if_neg Bool.false_ne_true, ← hindex, bne_self_eq_false, Bool.false_or,
    decide_eq_false (Nat.not_lt.mpr hlast), if_neg Bool.false_ne_true]

theorem exec_ispRowProcess (len index : Nat) (fe le te : Bool) (s : State) :
    exec (.ispRowProcess len index fe le te) s = execIspRowProcess len index fe le te s := rfl

/-- Has the ISP a frame of the epoch in hand? -/
def ispHasFrame (s : State) : Prop :=
  s.eye.exposed = true ∧ s.eye.frameMissing = false ∧ (s.isp.state = .armed ∨ s.isp.state = .running)

/-- A frame in hand is neither skipped nor idle. -/
theorem guards_of_ispHasFrame (h : ispHasFrame s) : (!s.eye.exposed || s.eye.frameMissing) = false ∧
    (s.isp.state != .armed && s.isp.state != .running) = false := by
  obtain ⟨hexposed, hframe, hstate⟩ := h
  refine ⟨by rw [hexposed, hframe]; rfl, ?_⟩
  rcases hstate with hstate | hstate
  · rw [hstate]; rfl
  · rw [hstate]; rfl

/-- A row that shows a cause aborts the frame in hand. -/
theorem exec_ispRowProcess_of_cause (h : ispHasFrame s) {c : Nat} (hcause : rowCause s len index fe le = some c) (te : Bool) :
    exec (.ispRowProcess len index fe le te) s = .next (abortFrame s c 0) := by
  obtain ⟨hskip, hidle⟩ := guards_of_ispHasFrame h
  rw [exec_ispRowProcess, execIspRowProcess, hskip, hidle, hcause, if_neg Bool.false_ne_true, if_neg Bool.false_ne_true]

/-- A row that shows no cause and has been converted is processed. -/
theorem exec_ispRowProcess_of_good (h : ispHasFrame s) (hcause : rowCause s len index fe le = none) (hrow : index < s.eye.rows) :
    exec (.ispRowProcess len index fe le false) s = .next (processRow s index) := by
  obtain ⟨hskip, hidle⟩ := guards_of_ispHasFrame h
  rw [exec_ispRowProcess, execIspRowProcess, hskip, hidle, hcause, if_neg Bool.false_ne_true, if_neg Bool.false_ne_true]
  exact congrArg Host.Outcome.next (if_neg (Nat.not_le.mpr hrow))

end Rows

theorem exec_frameTimeout_of_busy {s : State} (hbusy : s.eye.state = .exposing ∨ s.eye.state = .reading) :
    exec .frameTimeout s = .next (abortFrame s 1 0) := by
  have hexec : exec .frameTimeout s = execFrameTimeout s := rfl
  rw [hexec, execFrameTimeout, if_pos (frameBusy_iff.mpr hbusy)]

/-! ### Companded codes (R241, R258) -/

theorem compand_of_lt {v : Nat} (h : v < 1024) : compand v = v := if_pos h

theorem expand_of_lt {c : Nat} (h : c < 1024) : expand c = c := if_pos h

/-- The segment of Table 8.4 that a code lies in, with the middle of its step; up to 3919 no code saturates. -/
theorem expand_segment {c : Nat} (h : c ≤ 3919) :
    (c < 1024 ∧ expand c = c) ∨
    (1024 ≤ c ∧ c < 2048 ∧ expand c = 1024 + 2 * (c - 1024) + 1) ∨
    (2048 ≤ c ∧ c < 3072 ∧ expand c = 3072 + 8 * (c - 2048) + 4) ∨
    (3072 ≤ c ∧ expand c = 11264 + 64 * (c - 3072) + 32) := by
  unfold expand
  repeat' split
  all_goals omega

theorem compand_expand {c : Nat} (h : c ≤ 3919) : compand (expand c) = c := by
  have hseg := expand_segment h
  unfold compand
  repeat' split
  all_goals omega

/-- Settles O34: ISP_START is one of three starts, a delivered row goes as the first cause it shows says, and each segment of
Table 8.4 expands into itself. -/
theorem imagePipelineCommands : Obligations.ImagePipelineCommands := by
  unfold Obligations.ImagePipelineCommands
  refine ⟨?armed, ?none, ?row, fun s => exec_frameTimeout_of_busy,
    fun c v hc hv => ⟨compand_expand hc, compand_of_lt hv, expand_of_lt hv⟩⟩
  case armed =>
    intro f w e s s1 hready hdie hunit hexposed
    have hexec := exec_ispStart_ready hready hdie hunit
    refine ⟨_, hexec, (execIspStart_keeps (closed_ispStartFrame s) f s rfl).of _ hexec, fun hmissing => ?_, fun hframe => ?_⟩
    · rw [startIsp_of_missing (s := running s1 .eye 1 (launchedBy s1 w e)) _ _ _ hexposed hmissing]
      rfl
    · rw [startIsp_of_frame (s := running s1 .eye 1 (launchedBy s1 w e)) _ _ _ hexposed hframe]
      exact ⟨rfl, rfl, rfl, rfl, rfl⟩
  case none =>
    intro f w e s s1 hready hdie hunit hexposed hqueued
    rw [exec_ispStart_ready hready hdie hunit]
    refine congrArg Host.Outcome.next (startIsp_of_none .eye 1 _ hexposed ?_)
    rwa [unitOf_running_of_ne _ _ _ _ Nat.one_ne_zero]
  case row =>
    intro len index fe le te s hexposed hframe hstate
    have hhas : ispHasFrame s := ⟨hexposed, hframe, hstate⟩
    refine ⟨fun hlen => exec_ispRowProcess_of_cause hhas (rowCause_of_length hlen) te, ?_, ?_, ?_, ?_⟩
    · rintro rfl rfl hend
      exact exec_ispRowProcess_of_cause hhas (rowCause_of_early_end hend) te
    · rintro rfl rfl hindex
      exact exec_ispRowProcess_of_cause hhas (rowCause_of_order hindex) te
    · rintro rfl rfl hindex hlast rfl
      exact exec_ispRowProcess_of_cause hhas (rowCause_of_next hindex hlast) te
    · rintro rfl rfl hindex hlast rfl rfl hrow
      exact exec_ispRowProcess_of_good hhas (rowCause_of_next hindex hlast) hrow

end Sys2Proof.Proofs
end

section
/-! PROOF. The detect unit and the tracker: how an entry of the detect unit begins, is listed, fails or stalls, and what TRACK makes
of a cluster (R302–R304, R393, R395, R412, R417). -/
namespace Sys2Proof.Proofs
open Sys2Proof Sys2Proof.Machine Sys2Proof.Laws

/-! ### Reading the detect unit, a launched unit and a descriptor -/

section Reading
variable {s : State} {cd : Nat}

theorem detUnit_modDet (hcd : cd < 4) (s : State) (f : DetSt → DetSt) : (modDet s cd f).detUnit cd = f (s.detUnit cd) :=
  (vget_vmod s.det cd cd f).trans (if_pos ⟨rfl, hcd⟩)

theorem detUnit_of_det {t : State} (h : t.det = s.det) (cd : Nat) : t.detUnit cd = s.detUnit cd := congrArg (vget · cd) h

theorem cdIdx_ofCd (hcd : cd < 4) : (Die.ofCd cd).cdIdx = some cd := by
  rcases eq_of_lt_four hcd with rfl | rfl | rfl | rfl
  all_goals rfl

theorem isCd_ofCd (cd : Nat) : (Die.ofCd cd).isCd = true := by
  unfold Die.ofCd
  split
  all_goals rfl

/-- A descriptor is found again by the index it carries. -/
theorem groupOf_index {i : Nat} {g : GroupDesc} (h : groupOf s cd i = some g) : groupOf s cd g.index = some g := by
  have hindex : g.index = i := beq_iff_eq.mp (List.find?_some (p := fun d : GroupDesc => d.index == i) h)
  rw [hindex, h]

/-- A UNIT number below that of all clusters names one unit. -/
theorem unitsNamed_of_lt {u : Nat} (hu : u < 0xF) (d : Die) : unitsNamed d u = [u] := by
  have hall : (u == 0xF) = false := beq_eq_false_iff_ne.mpr (by omega)
  rw [unitsNamed, hall, Bool.and_false, if_neg Bool.false_ne_true, Nat.mod_eq_of_lt (by omega)]

theorem unitOf_unitDone {u : Nat} (hu : u < 16) (s : State) (d : Die) :
    unitOf (unitDone s d u) d u = ⟨none, (unitOf s d u).queued⟩ := unitOf_modUnit hu s d _

/-- An entry that a token starts runs on its unit with nothing queued. -/
theorem unitOf_running_of_ready {s1 : State} {f : SbFrame} {act u : Nat} {w : BitVec 48} {e : LaunchEntry} {d : Die}
    (h : LaunchReady s f act w s1 e) (hdie : f.port.die = d) (hunit : tokUnit w = u) (hu : u < 16) (l : Launched) :
    unitOf (running s1 d u l) d u = ⟨some l, none⟩ := by
  obtain ⟨-, -, -, -, -, -, -, -, hidle⟩ := h
  rw [hdie, hunit, Nat.mod_eq_of_lt hu] at hidle
  obtain ⟨-, hqueued⟩ := Bool.and_eq_true_iff.mp hidle
  have hratio : unitOf (running s1 d u l) d u = unitOf (modUnit s1 d u fun x => { x with busy := some l }) d u := by
    unfold running noteLateness unitOf
    rw [die_modDie]
  rw [hratio, unitOf_modUnit hu, Option.isNone_iff_eq_none.mp hqueued]

end Reading

/-! ### What an entry that starts leaves of its die -/

section Running
variable (s : State) (d : Die) (u : Nat) (l : Launched)

theorem running_det : (running s d u l).det = s.det := rfl
theorem detUnit_running (cd : Nat) : (running s d u l).detUnit cd = s.detUnit cd := rfl

theorem die_running_missed : ((running s d u l).die d).missed = (s.die d).missed := by
  unfold running noteLateness modUnit
  rw [die_modDie, die_modDie]

/-- An entry that has begun on the detect unit has touched its die and the unit alone. -/
theorem modDet_running_frame (cd : Nat) (f : DetSt → DetSt) : modDet (running s d u l) cd f =
    { s with dies := (modDet (running s d u l) cd f).dies, det := (modDet (running s d u l) cd f).det } := rfl

end Running

/-! ### A list written (R302) -/

section Listing
variable {s : State} {cd : Nat}

/-- A refused line of an engine's result leaves the epoch as whole as it was. -/
theorem sramEngine_partialEp (s : State) (cd a : Nat) (bs : List Byte) (w : Writer) :
    (sramEngine s cd a bs w).seqr.cur.partialEp = s.seqr.cur.partialEp := by
  have hrefused (t : State) (b : Nat) (resident : Bool) :
      (refuseWrite t cd b w resident).seqr.cur.partialEp = t.seqr.cur.partialEp := by
    cases resident
    · exact congrArg (·.cur.partialEp) (logOnly_seqr ..)
    · exact congrArg (·.cur.partialEp) (logOnly_seqr ..)
  refine foldl_keeps (P := fun t => t.seqr.cur.partialEp = s.seqr.cur.partialEp) (fun t line ht => ?_) _ _ rfl
  dsimp only
  split
  · rw [hrefused, ht]
  · split
    · rw [hrefused, ht]
    · exact ht

/-- A detect unit whose list is written. -/
def listedUnit (x : DetSt) : DetSt := { x with state := .idle, lists := x.lists + 1 }

theorem writeList_detUnit (hcd : cd < 4) (s : State) (g : GroupDesc) (bs : List Byte) :
    (writeList s cd g bs).detUnit cd = listedUnit (s.detUnit cd) := by
  unfold writeList
  rw [detUnit_of_det (unitDone_keeps ((closed_det _).sub (by decide)) _ _ _ rfl), detUnit_modDet hcd,
    detUnit_of_det (sramEngine_keeps ((closed_det s).sub (by decide)) s _ _ _ _ rfl)]
  rfl

theorem writeList_unit (s : State) (cd : Nat) (g : GroupDesc) (bs : List Byte) :
    unitOf (writeList s cd g bs) (Die.ofCd cd) 5 = ⟨none, (unitOf s (Die.ofCd cd) 5).queued⟩ := by
  unfold writeList
  rw [unitOf_unitDone (by decide), unitOf_of_dies (modDet_dies ..),
    unitOf_of_dies (sramEngine_keeps ((closed_dies s).sub (by decide)) s _ _ _ _ rfl)]

theorem writeList_partialEp (s : State) (cd : Nat) (g : GroupDesc) (bs : List Byte) :
    (writeList s cd g bs).seqr.cur.partialEp = s.seqr.cur.partialEp := sramEngine_partialEp ..

/-- A detect unit whose entry ends with a LAST_ERR and nothing kept. -/
def emptiedUnit (err : Nat) (x : DetSt) : DetSt := { x with lastErr := err, keptNow := 0, rankedNow := 0 }

theorem detectFails_detUnit (hcd : cd < 4) (s : State) (g : GroupDesc) (err : Nat) :
    (detectFails s cd g err).detUnit cd = listedUnit (emptiedUnit err (s.detUnit cd)) := by
  unfold detectFails
  rw [detUnit_of_det (markPartial_keeps ((closed_det _).sub (by decide)) _ _ rfl), writeList_detUnit hcd, detUnit_modDet hcd]
  rfl

theorem detectFails_partialEp (s : State) (cd : Nat) (g : GroupDesc) (err : Nat) :
    (detectFails s cd g err).seqr.cur.partialEp = true := rfl

theorem detectAbort_of_group {g : GroupDesc} (h : groupOf s cd (s.detUnit cd).desc = some g) :
    detectAbort s cd = writeList (modDet s cd (emptiedUnit 3)) cd g (listBytes s.seqr.epoch 0 [] 4) := by
  unfold detectAbort
  rw [h]
  rfl

end Listing

/-! ### Suppression keeps no more than KEEP_MAX, nor more than it is given (R392) -/

section Suppression
variable (h : HeadBlock)

/-- Suppression at the next candidate in rank order. -/
def suppressNext (t : List Cand × Bool) (c : Cand) : List Cand × Bool :=
  if h.keepMax ≤ t.1.length then (t.1, true)
  else if t.1.any fun k => (h.agnostic || k.cls == c.cls) && decide (h.iouT * unionArea k c < 256 * interArea k c) then t
  else (t.1 ++ [c], t.2)

theorem suppress_eq_foldl (cs : List Cand) : suppress h cs = cs.foldl (suppressNext h) ([], false) := rfl

/-- A candidate is kept only where there is room for it. -/
theorem suppressNext_kept (t : List Cand × Bool) (c : Cand) :
    (suppressNext h t c).1 = t.1 ∨ t.1.length < h.keepMax ∧ (suppressNext h t c).1 = t.1 ++ [c] := by
  unfold suppressNext
  split
  · exact .inl rfl
  · next hroom =>
    split
    · exact .inl rfl
    · exact .inr ⟨Nat.not_le.mp hroom, rfl⟩

theorem foldl_suppressNext_length (cs : List Cand) (t : List Cand × Bool) (ht : t.1.length ≤ h.keepMax) :
    (cs.foldl (suppressNext h) t).1.length ≤ h.keepMax ∧ (cs.foldl (suppressNext h) t).1.length ≤ t.1.length + cs.length := by
  induction cs generalizing t with
  | nil => exact ⟨ht, Nat.le_refl _⟩
  | cons c cs ih =>
    have hnext : (suppressNext h t c).1.length ≤ h.keepMax ∧ (suppressNext h t c).1.length ≤ t.1.length + 1 := by
      rcases suppressNext_kept h t c with hsame | ⟨hroom, hkept⟩
      · rw [hsame]
        exact ⟨ht, Nat.le_succ _⟩
      · rw [hkept, List.length_append, List.length_singleton]
        exact ⟨hroom, Nat.le_refl _⟩
    obtain ⟨hmax, hgiven⟩ := ih _ hnext.1
    rw [List.foldl_cons, List.length_cons]
    exact ⟨hmax, by omega⟩

theorem suppress_length_le (cs : List Cand) : (suppress h cs).1.length ≤ h.keepMax ∧ (suppress h cs).1.length ≤ cs.length := by
  obtain ⟨hmax, hgiven⟩ := foldl_suppressNext_length h cs ([], false) (Nat.zero_le _)
  rw [suppress_eq_foldl]
  exact ⟨hmax, by simpa using hgiven⟩

end Suppression

/-! ### The run of an entry (R388–R394, R417) -/

section Run
variable {s : State} {cd : Nat} {g : GroupDesc} {h : HeadBlock}

/-- The head block of a descriptor, in the SRAM of the lowest cluster it names. -/
def headOf (s : State) (cd : Nat) (g : GroupDesc) : Option HeadBlock :=
  readHead (fun off n => memNat s (sramBase cd (lowestOf g) + off) n) g.prog

/-- What the cells and anchors of every level give. -/
def decodedOf (s : State) (cd : Nat) (h : HeadBlock) : List (Option Cand) :=
  allCands h fun l i => (byteAt s.mem (sramBase cd l.cluster + l.tensor + i)).toNat

/-- The candidates in rank order. -/
def rankedOf (s : State) (cd : Nat) (h : HeadBlock) : List Cand := rankCands ((decodedOf s cd h).filterMap id)

/-- The candidates that suppression sees: PRE_MAX of them. -/
def seenOf (s : State) (cd : Nat) (h : HeadBlock) : List Cand := (rankedOf s cd h).take h.preMax

/-- A detect unit that has ranked and suppressed its candidates. -/
def suppressedUnit (s : State) (cd : Nat) (h : HeadBlock) (x : DetSt) : DetSt :=
  { x with
    preOverflow := decide (h.preMax < (rankedOf s cd h).length), keepOverflow := (suppress h (seenOf s cd h)).2, lastErr := 0
    steps := detectSteps h (seenOf s cd h).length (suppress h (seenOf s cd h)).1.length
    rankedNow := (seenOf s cd h).length, keptNow := (suppress h (seenOf s cd h)).1.length
    zeroNow := satAdd 65535 x.zeroNow ((decodedOf s cd h).filter (·.isNone)).length
    beyondNow := satAdd 65535 x.beyondNow ((rankedOf s cd h).length - (seenOf s cd h).length) }

theorem detectRun_of_bad (hhead : headOf s cd g = none) :
    detectRun s cd g = logOnly (detectFails s cd g 1) (Die.ofCd cd) 5 0 Code.headBad 2 := by
  unfold headOf at hhead
  unfold detectRun
  simp only [hhead]

/-- With no word poisoned the entry ends with its list. -/
theorem detectRun_of_head (hhead : headOf s cd g = some h) (hpoison : (s.fab cd).poison = []) :
    detectRun s cd g = writeList (modDet s cd (suppressedUnit s cd h)) cd g
      (listBytes s.seqr.epoch (seenOf s cd h).length (suppress h (seenOf s cd h)).1
        ((if h.preMax < (rankedOf s cd h).length then 1 else 0) + (if (suppress h (seenOf s cd h)).2 then 2 else 0))) := by
  unfold headOf at hhead
  unfold detectRun
  simp only [hhead, hpoison, List.find?_nil, decide_eq_true_eq]
  rfl

end Run

/-! ### The unit's commands -/

section DetectCommands
variable {s : State} {cd : Nat} {g : GroupDesc}

/-- Nothing of the part differs from s but what DETECT may change. -/
def DetectFrame (s t : State) : Prop :=
  t = { s with
    regs := t.regs, out := t.out, seqr := t.seqr, dies := t.dies, boot := t.boot, ports := t.ports, fabs := t.fabs,
    mem := t.mem, det := t.det, recs := t.recs, log := t.log, outboxes := t.outboxes }

theorem closed_detectFrame (s : State) : Closed 0x60204645a10 (DetectFrame s) := by
  unfold DetectFrame
  constructor
  all_goals first
    | exact fun b => absurd b Bool.false_ne_true
    | (intro _ t x h; rw [h])
    | (intro _ t x _ h; rw [h])

/-- Nothing of the part differs from s but what an entry of the detect unit may change. -/
def DetectEntryFrame (s t : State) : Prop :=
  t = { s with
    seqr := t.seqr, dies := t.dies, fabs := t.fabs, mem := t.mem, det := t.det, log := t.log, outboxes := t.outboxes }

theorem closed_detectEntryFrame (s : State) : Closed 0x60004601800 (DetectEntryFrame s) := by
  unfold DetectEntryFrame
  constructor
  all_goals first
    | exact fun b => absurd b Bool.false_ne_true
    | (intro _ t x h; rw [h])
    | (intro _ t x _ h; rw [h])

theorem exec_detect (f : SbFrame) (s : State) : exec (.detect f) s = execDetect f s := rfl
theorem exec_detectStart (cd : Nat) (s : State) : exec (.detectStart cd) s = execDetectStart cd s := rfl
theorem exec_detectStall (cd : Nat) (s : State) : exec (.detectStall cd) s = execDetectStall cd s := rfl

theorem exec_detect_ready {s1 : State} {f : SbFrame} {w : BitVec 48} {e : LaunchEntry} (h : LaunchReady s f 0x11 w s1 e)
    (hdie : f.port.die = Die.ofCd cd) (hunit : tokUnit w = 5) :
    exec (.detect f) s =
      .next (startDetect (running s1 (Die.ofCd cd) 5 (launchedBy s1 w e)) (Die.ofCd cd) 5 (launchedBy s1 w e)) := by
  rw [exec_detect, execDetect,
    onLaunch_ready h (u := 5) (by rw [hdie, isCd_ofCd]) (by rw [hunit]; rfl) (by rw [hunit])
      (by rw [hunit, unitsNamed_of_lt (by decide)]), hdie]

/-- A detect unit whose entry of a descriptor waits for the heads. -/
def waitingUnit (g : GroupDesc) (x : DetSt) : DetSt := { x with state := .waitHead, desc := g.index, lastErr := 0 }

section Start
variable {u : Nat} {l : Launched} (hcd : cd < 4)
include hcd

theorem startDetect_of_disabled (hoff : rb s (cdBase cd + 0x600000) 0 = false) :
    startDetect s (Die.ofCd cd) u l = missEntry (unitDone s (Die.ofCd cd) u) (Die.ofCd cd) := by
  unfold startDetect
  simp only [cdIdx_ofCd hcd, hoff, Bool.not_false, if_true]

theorem startDetect_of_enabled (hon : rb s (cdBase cd + 0x600000) 0 = true) (hgroup : groupOf s cd l.arg.toNat = some g)
    (habort : (s.cdie cd).aborted = false) : startDetect s (Die.ofCd cd) u l = modDet s cd (waitingUnit g) := by
  unfold startDetect
  simp only [cdIdx_ofCd hcd, hon, hgroup, habort, Bool.not_true, Bool.false_eq_true, if_false]
  rfl

/-- In an aborted epoch the entry ends at once, with an empty list. -/
theorem startDetect_of_aborted (hon : rb s (cdBase cd + 0x600000) 0 = true) (hgroup : groupOf s cd l.arg.toNat = some g)
    (habort : (s.cdie cd).aborted = true) : startDetect s (Die.ofCd cd) u l =
      writeList (modDet (modDet s cd (waitingUnit g)) cd (emptiedUnit 3)) cd g (listBytes s.seqr.epoch 0 [] 4) := by
  have hdesc : groupOf (modDet s cd (waitingUnit g)) cd ((modDet s cd (waitingUnit g)).detUnit cd).desc = some g := by
    rw [detUnit_modDet hcd]
    exact groupOf_index hgroup
  unfold startDetect
  simp only [cdIdx_ofCd hcd, hon, hgroup, habort, Bool.not_true, Bool.false_eq_true, if_false, if_true]
  exact detectAbort_of_group hdesc

end Start

theorem missEntry_degraded (s : State) (d : Die) : (missEntry s d).seqr.cur.degraded = true := rfl

theorem missed_unitDone_det (u : Nat) (s : State) (d : Die) : (missEntry (unitDone s d u) d).det = s.det :=
  missEntry_keeps ((closed_det s).sub (by decide)) _ d (unitDone_keeps ((closed_det s).sub (by decide)) s d u rfl)

/-- A token that a disabled unit misses is counted, and its unit is idle again. -/
theorem missed_unitDone {u : Nat} (hu : u < 16) (s : State) (d : Die) :
    unitOf (missEntry (unitDone s d u) d) d u = ⟨none, (unitOf s d u).queued⟩ ∧
      ((missEntry (unitDone s d u) d).die d).missed = satAdd 65535 (s.die d).missed 1 := by
  have hdie : (missEntry (unitDone s d u) d).die d =
      { (unitDone s d u).die d with missed := satAdd 65535 ((unitDone s d u).die d).missed 1 } := by
    unfold missEntry
    rw [die_of_dies (markDegraded_keeps ((closed_dies _).sub (by decide)) _ _ rfl), die_modDie]
  constructor
  · unfold unitOf
    rw [hdie]
    exact unitOf_unitDone hu s d
  · rw [hdie, unitDone, modUnit, die_modDie]

theorem exec_detectStart_of_not_ready (hcd : cdOk s cd = true) (h : (s.detUnit cd).state ≠ .waitHead ∨ headBusy s cd = true) :
    exec (.detectStart cd) s = .next s := by
  rw [exec_detectStart, execDetectStart, onUnit_cdOk hcd, if_pos (by rwa [Bool.or_eq_true, bne_iff_ne])]

/-- A detect unit at work on its levels. -/
def decodingUnit (x : DetSt) : DetSt := { x with state := .decode }

theorem exec_detectStart_of_ready (hcd : cdOk s cd = true) (hgroup : groupOf s cd (s.detUnit cd).desc = some g)
    (hwait : (s.detUnit cd).state = .waitHead) (hbusy : headBusy s cd = false) :
    exec (.detectStart cd) s = .next (detectRun (modDet s cd decodingUnit) cd g) := by
  rw [exec_detectStart, execDetectStart, onUnit_cdOk hcd, hwait, hbusy, if_neg (by decide), hgroup]
  rfl

theorem exec_detectStall_of_resting (hcd : cdOk s cd = true) (h : (s.detUnit cd).state = .off ∨ (s.detUnit cd).state = .idle) :
    exec (.detectStall cd) s = .next s := by
  rw [exec_detectStall, execDetectStall, onUnit_cdOk hcd]
  exact congrArg Host.Outcome.next (if_pos (by rwa [Bool.or_eq_true, beq_iff_eq, beq_iff_eq]))

theorem exec_detectStall_of_working (hcd : cdOk s cd = true) (hgroup : groupOf s cd (s.detUnit cd).desc = some g)
    (hoff : (s.detUnit cd).state ≠ .off) (hidle : (s.detUnit cd).state ≠ .idle) :
    exec (.detectStall cd) s = .next (detectFails s cd g 5) := by
  rw [exec_detectStall, execDetectStall, onUnit_cdOk hcd]
  dsimp only
  rw [beq_eq_false_iff_ne.mpr hoff, beq_eq_false_iff_ne.mpr hidle, hgroup]
  rfl

end DetectCommands

/-! ### TRACK (R303, R396, R417) -/

section Track
variable {s : State} {cd k : Nat} {g : GroupDesc}

/-- Nothing of the part differs from s but what TRACK may change. -/
def TrackFrame (s t : State) : Prop :=
  t = { s with
    regs := t.regs, out := t.out, seqr := t.seqr, dies := t.dies, ledgers := t.ledgers, boot := t.boot, ports := t.ports,
    fabs := t.fabs, mem := t.mem, comp := t.comp, det := t.det, recs := t.recs, log := t.log, outboxes := t.outboxes }

theorem closed_trackFrame (s : State) : Closed 0x60206647a10 (TrackFrame s) := by
  unfold TrackFrame
  constructor
  all_goals first
    | exact fun b => absurd b Bool.false_ne_true
    | (intro _ t x h; rw [h])
    | (intro _ t x _ h; rw [h])

/-- The tracker block of a descriptor, in a cluster's SRAM. -/
def trackerOf (s : State) (cd k : Nat) (g : GroupDesc) : TrackBlock :=
  readTracker (fun off n => memNat s (sramBase cd k + off) n) g.inbuf

theorem trackRun_of_invalid (hbad : (trackerOf s cd k g).ok = false) : trackRun s cd k g = none := by
  unfold trackerOf at hbad
  unfold trackRun
  simp only [hbad, Bool.not_false, if_true]

theorem trackRun_of_valid (hok : (trackerOf s cd k g).ok = true) : ∃ t, trackRun s cd k g = some t := by
  unfold trackerOf at hok
  unfold trackRun
  simp only [hok, Bool.not_true, Bool.false_eq_true, if_false]
  exact ⟨_, rfl⟩

theorem trackNow_of_working (hidle : (s.detUnit cd).state ≠ .idle) (hoff : (s.detUnit cd).state ≠ .off) :
    trackNow s cd k g = modCl s cd k fun c => { c with state := .waitInput, waitFrom := s.now } := by
  unfold trackNow
  rw [bne_iff_ne.mpr hidle, bne_iff_ne.mpr hoff]
  rfl

theorem trackNow_of_invalid (hidle : (s.detUnit cd).state = .idle) (hbad : (trackerOf s cd k g).ok = false) :
    trackNow s cd k g = jobFails s cd k ⟨2, none, 0⟩ := by
  unfold trackNow
  rw [hidle, trackRun_of_invalid hbad]
  rfl

theorem trackNow_of_run (hidle : (s.detUnit cd).state = .idle) {t : State} (hrun : trackRun s cd k g = some t) :
    trackNow s cd k g = endEntry t cd k 0 := by
  unfold trackNow
  rw [hidle, hrun]
  rfl

/-- A job that fails leaves its cluster idle, with its LAST_ERR. -/
theorem jobFails_cl (hcd : cd < 4) (hk : k < 4) (s : State) (e : JobErr) :
    ((jobFails s cd k e).cl cd k).lastErr = e.err ∧ ((jobFails s cd k e).cl cd k).state = .idle := by
  unfold jobFails
  dsimp only
  rw [cl_of_comp (markPartial_keeps ((closed_comp _).sub (by decide)) _ _ rfl),
    cl_of_comp (unitDone_keeps ((closed_comp _).sub (by decide)) _ _ _ rfl), cl_modCl_same hcd hk]
  exact ⟨rfl, rfl⟩

theorem jobFails_partialEp (s : State) (cd k : Nat) (e : JobErr) : (jobFails s cd k e).seqr.cur.partialEp = true := rfl

theorem exec_track (f : SbFrame) (s : State) : exec (.track f) s = execTrack f s := rfl

theorem startTrack_of_usable {l : Launched} (hcd : cd < 4) (husable : clusterUsable (s.cl cd k) = true)
    (hgroup : groupOf s cd l.arg.toNat = some g) (habort : (s.cdie cd).aborted = false) :
    startTrack s (Die.ofCd cd) k l = trackNow (beginEntry s cd k g.index g.bandFirst l) cd k g := by
  unfold startTrack
  simp only [cdIdx_ofCd hcd, husable, hgroup, habort, Bool.not_true, Bool.false_and, Bool.false_eq_true, if_false]

/-- A cluster on which TRACK has begun. -/
def trackBegun (s : State) (cd k : Nat) (g : GroupDesc) (l : Launched) : State :=
  beginEntry (running s (Die.ofCd cd) k l) cd k g.index g.bandFirst l

theorem exec_track_ready {s1 : State} {f : SbFrame} {w : BitVec 48} {e : LaunchEntry} (h : LaunchReady s f 0x12 w s1 e)
    (hdie : f.port.die = Die.ofCd cd) (hcd : cd < 4) (hunit : tokUnit w = k) (hk : k < 4)
    (husable : clusterUsable (s1.cl cd k) = true) (hgroup : groupOf s1 cd e.arg.toNat = some g)
    (habort : (s1.cdie cd).aborted = false) :
    exec (.track f) s = .next (trackNow (trackBegun s1 cd k g (launchedBy s1 w e)) cd k g) := by
  rw [exec_track, execTrack,
    onLaunch_ready h (u := k) (by rw [hdie, isCd_ofCd]) (by rw [hunit, clusterUnit, decide_eq_true hk, Bool.true_or])
      (by rw [hunit, Nat.mod_eq_of_lt (by omega)]) (by rw [hunit, unitsNamed_of_lt (by omega)]), hdie]
  exact congrArg Host.Outcome.next (startTrack_of_usable (s := running s1 (Die.ofCd cd) k (launchedBy s1 w e)) hcd husable
    hgroup habort)

theorem trackBegun_detUnit (s : State) (cd k : Nat) (g : GroupDesc) (l : Launched) :
    (trackBegun s cd k g l).detUnit cd = s.detUnit cd := rfl

theorem trackBegun_tracker (s : State) (cd k : Nat) (g : GroupDesc) (l : Launched) :
    trackerOf (trackBegun s cd k g l) cd k g = trackerOf s cd k g := rfl

theorem trackBegun_ledgers (s : State) (cd k : Nat) (g : GroupDesc) (l : Launched) :
    (trackBegun s cd k g l).ledgers = s.ledgers := rfl

end Track

/-- Settles O39: a token starts the unit in one of three ways; a start ends in the list of what was seen and kept, or like a stall
and an abort in an empty one; TRACK waits, fails its job or ends after the tracker's run. -/
theorem detectionAndTracking : Obligations.DetectionAndTracking := by
  unfold Obligations.DetectionAndTracking
  refine ⟨?waits, ?missed, ?aborted, ?badHead, ?listed, ?stall, ?track⟩
  case waits =>
    intro f w e g cd s s1 hready hdie hcd hunit hon hgroup habort
    have hexec := exec_detect_ready hready hdie hunit
    rw [startDetect_of_enabled (s := running s1 (Die.ofCd cd) 5 (launchedBy s1 w e)) (l := launchedBy s1 w e) hcd hon hgroup
      habort] at hexec
    refine ⟨_, hexec, modDet_running_frame .., ?_⟩
    rw [detUnit_modDet hcd, detUnit_running, unitOf_of_dies (modDet_dies ..),
      unitOf_running_of_ready hready hdie hunit (by decide)]
    exact ⟨rfl, rfl, rfl, rfl⟩
  case missed =>
    intro f w e cd s s1 hready hdie hcd hunit hoff
    have hexec := exec_detect_ready hready hdie hunit
    rw [startDetect_of_disabled (s := running s1 (Die.ofCd cd) 5 (launchedBy s1 w e)) hcd hoff] at hexec
    refine ⟨_, hexec, (execDetect_keeps (closed_detectFrame s) f s rfl).of _ hexec, ?_⟩
    obtain ⟨hunits, hmissed⟩ := missed_unitDone (u := 5) (by decide) (running s1 (Die.ofCd cd) 5 (launchedBy s1 w e)) (Die.ofCd cd)
    rw [missed_unitDone_det, running_det, hunits, hmissed, unitOf_running_of_ready hready hdie hunit (by decide),
      die_running_missed]
    exact ⟨rfl, rfl, rfl, missEntry_degraded ..⟩
  case aborted =>
    intro f w e g cd s s1 hready hdie hcd hunit hon hgroup habort
    have hexec := exec_detect_ready hready hdie hunit
    rw [startDetect_of_aborted (s := running s1 (Die.ofCd cd) 5 (launchedBy s1 w e)) (l := launchedBy s1 w e) hcd hon hgroup
      habort] at hexec
    refine ⟨_, hexec, (execDetect_keeps (closed_detectFrame s) f s rfl).of _ hexec, ?_⟩
    rw [writeList_detUnit hcd, detUnit_modDet hcd, detUnit_modDet hcd, detUnit_running, writeList_unit,
      unitOf_of_dies (modDet_dies ..), unitOf_of_dies (modDet_dies ..), unitOf_running_of_ready hready hdie hunit (by decide)]
    exact ⟨rfl, rfl, rfl, rfl, rfl⟩
  case badHead =>
    intro cd g s hcd hgroup
    obtain ⟨hlt, -⟩ := and_of_cdOk hcd
    refine ⟨exec_detectStart_of_not_ready hcd, fun hwait hbusy hbad => ?_⟩
    refine ⟨_, exec_detectStart_of_ready hcd hgroup hwait hbusy,
      detectRun_keeps (closed_detectEntryFrame s) _ cd g rfl, ?_⟩
    rw [detectRun_of_bad (s := modDet s cd decodingUnit) hbad, detUnit_of_det (logOnly_det ..), detectFails_detUnit hlt,
      detUnit_modDet hlt, logOnly_seqr, logOnly_ledgers]
    exact ⟨rfl, rfl, rfl, rfl, detectFails_partialEp .., detectFails_keeps ((closed_ledgers s).sub (by decide)) _ cd g 1 rfl⟩
  case listed =>
    intro cd g h s hcd hgroup hwait hbusy hhead hpoison
    obtain ⟨hlt, -⟩ := and_of_cdOk hcd
    refine ⟨_, exec_detectStart_of_ready hcd hgroup hwait hbusy,
      detectRun_keeps (closed_detectEntryFrame s) _ cd g rfl, ?_⟩
    obtain ⟨hmax, hseen⟩ := suppress_length_le h (seenOf (modDet s cd decodingUnit) cd h)
    rw [detectRun_of_head (s := modDet s cd decodingUnit) hhead hpoison, writeList_detUnit hlt, detUnit_modDet hlt,
      detUnit_modDet hlt, writeList_unit, writeList_partialEp]
    exact ⟨rfl, rfl, List.length_take_le .., hmax, hseen, rfl, rfl, rfl, rfl⟩
  case stall =>
    intro cd g s hcd hgroup
    obtain ⟨hlt, -⟩ := and_of_cdOk hcd
    refine ⟨exec_detectStall_of_resting hcd, fun hoff hidle => ?_⟩
    refine ⟨_, exec_detectStall_of_working hcd hgroup hoff hidle,
      detectFails_keeps (closed_detectEntryFrame s) s cd g 5 rfl, ?_⟩
    rw [detectFails_detUnit hlt]
    exact ⟨rfl, rfl, rfl, rfl, detectFails_partialEp ..⟩
  case track =>
    intro f w e g cd k s s1 u hready hdie hcd hunit hk husable hgroup habort hu
    have hexec : exec (.track f) s = .next (trackNow u cd k g) :=
      hu ▸ exec_track_ready hready hdie hcd hunit hk husable hgroup habort
    have hdet : u.detUnit cd = s1.detUnit cd := hu ▸ trackBegun_detUnit ..
    have hblock : trackerOf u cd k g = trackerOf s1 cd k g := hu ▸ trackBegun_tracker ..
    have hledgers : u.ledgers = s1.ledgers := hu ▸ trackBegun_ledgers ..
    have hnow : u.now = s1.now := hu ▸ rfl
    refine ⟨fun hidle hoff => ?_, fun hidle hbad => ?_, fun hidle hok => ?_⟩
    · rw [hexec, trackNow_of_working (by rwa [hdet]) (by rwa [hdet]), hnow]
    · rw [← hdet] at hidle
      rw [trackNow_of_invalid hidle (by rw [hblock]; exact hbad)] at hexec
      obtain ⟨herr, hstate⟩ := jobFails_cl hcd hk u ⟨2, none, 0⟩
      exact ⟨_, hexec, (execTrack_keeps (closed_trackFrame s) f s rfl).of _ hexec, herr, hstate,
        jobFails_keeps ((closed_ledgers s1).sub (by decide)) u cd k _ hledgers, jobFails_partialEp ..⟩
    · rw [← hdet] at hidle
      obtain ⟨v, hrun⟩ := trackRun_of_valid (s := u) (k := k) (g := g) (by rw [hblock]; exact hok)
      rw [trackNow_of_run hidle hrun] at hexec
      refine ⟨v, _, hrun, hexec, rfl, ?_⟩
      rw [endEntry_cl hcd hk]
      exact ⟨rfl, rfl⟩

end Sys2Proof.Proofs
end

section
/-! PROOF. Fixed-rate compression: a coded block carries MIN, SHIFT and N in its header and one digit for each element in its
body, and the decoder restores each element to the middle of the step it lies in (R376–R378). -/
namespace Sys2Proof.Proofs
open Sys2Proof Sys2Proof.Machine

/-! ### Bytes, digits and extremes of a list -/

theorem leNat_leBytes (k x : Nat) : leNat (leBytes k x) = x % 256 ^ k := by
  induction k generalizing x with
  | zero => rw [pow_zero, Nat.mod_one]; rfl
  | succ k ih => rw [leBytes, leNat, ih, BitVec.toNat_ofNat, pow_succ' 256, Nat.mod_mul]

theorem length_leBytes (k x : Nat) : (leBytes k x).length = k := by
  induction k generalizing x with
  | zero => rfl
  | succ k ih => rw [leBytes, List.length_cons, ih]

theorem ofDigits_div_pow_mod {b : Nat} {ds : List Nat} (hds : ∀ d ∈ ds, d < b) {i : Nat} (hi : i < ds.length) :
    Nat.ofDigits b ds / b ^ i % b = ds[i] := by
  have hdigit : ds[i] < b := hds _ (List.getElem_mem hi)
  rw [Nat.ofDigits_div_pow_eq_ofDigits_drop i (by omega) ds hds, List.drop_eq_getElem_cons hi, Nat.ofDigits_cons,
    Nat.add_mul_mod_self_left, Nat.mod_eq_of_lt hdigit]

theorem foldl_max_le_iff {l : List Nat} {a c : Nat} : l.foldl max a ≤ c ↔ a ≤ c ∧ ∀ x ∈ l, x ≤ c := by
  induction l generalizing a with
  | nil => simp
  | cons x xs ih => rw [List.foldl_cons, ih, max_le_iff, List.forall_mem_cons, and_assoc]

theorem le_foldl_min_iff {l : List Nat} {a c : Nat} : c ≤ l.foldl min a ↔ c ≤ a ∧ ∀ x ∈ l, c ≤ x := by
  induction l generalizing a with
  | nil => simp
  | cons x xs ih => rw [List.foldl_cons, ih, le_min_iff, List.forall_mem_cons, and_assoc]

/-! ### Offset codes -/

/-- A code as the coder takes it: an S8 code offset by 0x80 (R376). -/
def offsetCode (signed : Bool) (b : Byte) : Nat := if signed then b.toNat ^^^ 0x80 else b.toNat

/-- The code of an offset code. -/
def codeOfOffset (signed : Bool) (x : Nat) : Byte := BitVec.ofNat 8 (if signed then x ^^^ 0x80 else x)

theorem offsetCode_false (b : Byte) : offsetCode false b = b.toNat := rfl

theorem offsetCode_true (b : Byte) : offsetCode true b = (b ^^^ 0x80).toNat := (BitVec.toNat_xor b 0x80).symm

theorem offsetCode_lt (signed : Bool) (b : Byte) : offsetCode signed b < 256 := by
  cases signed with
  | false => exact b.isLt
  | true => exact offsetCode_true b ▸ (b ^^^ 0x80).isLt

theorem offsetCode_codeOfOffset (signed : Bool) {x : Nat} (hx : x < 256) : offsetCode signed (codeOfOffset signed x) = x := by
  cases signed with
  | false => exact Nat.mod_eq_of_lt hx
  | true =>
    have hxor : x ^^^ 0x80 < 2 ^ 8 := Nat.xor_lt_two_pow hx (by decide)
    change (x ^^^ 0x80) % 2 ^ 8 ^^^ 0x80 = x
    rw [Nat.mod_eq_of_lt hxor, Nat.xor_xor_cancel_right]

/-! ### The coder's steps (R376) -/

/-- MIN of a block. -/
def blockMin (signed : Bool) (bs : List Byte) : Nat := (bs.map (offsetCode signed)).foldl min 255

/-- The largest offset code of a block. -/
def blockMax (signed : Bool) (bs : List Byte) : Nat := (bs.map (offsetCode signed)).foldl max 0

/-- SHIFT of a block. -/
def blockShift (signed : Bool) (n : Nat) (bs : List Byte) : Nat := compShift n (blockMax signed bs - blockMin signed bs)

/-- What a block stores of an element. -/
def storedCode (signed : Bool) (n : Nat) (bs : List Byte) (b : Byte) : Nat :=
  (offsetCode signed b - blockMin signed bs) / 2 ^ blockShift signed n bs

/-- The decoder's h. -/
def halfStep (sh : Nat) : Nat := if sh == 0 then 0 else 2 ^ (sh - 1)

/-- The offset code the decoder restores from what a block stores of an element. -/
def restored (signed : Bool) (n : Nat) (bs : List Byte) (b : Byte) : Nat :=
  min 255 (blockMin signed bs + storedCode signed n bs b * 2 ^ blockShift signed n bs + halfStep (blockShift signed n bs))

theorem blockMin_lt (signed : Bool) (bs : List Byte) : blockMin signed bs < 256 :=
  Nat.lt_succ_of_le (le_foldl_min_iff.mp le_rfl).1

theorem blockMax_lt (signed : Bool) (bs : List Byte) : blockMax signed bs < 256 := by
  refine Nat.lt_succ_of_le (foldl_max_le_iff.mpr ⟨Nat.zero_le _, fun x hx => ?_⟩)
  obtain ⟨b, -, rfl⟩ := List.mem_map.mp hx
  exact Nat.le_of_lt_succ (offsetCode_lt signed b)

theorem blockMin_le {signed : Bool} {bs : List Byte} {b : Byte} (hb : b ∈ bs) : blockMin signed bs ≤ offsetCode signed b :=
  (le_foldl_min_iff.mp le_rfl).2 _ (List.mem_map_of_mem hb)

theorem le_blockMax {signed : Bool} {bs : List Byte} {b : Byte} (hb : b ∈ bs) : offsetCode signed b ≤ blockMax signed bs :=
  (foldl_max_le_iff.mp le_rfl).2 _ (List.mem_map_of_mem hb)

/-- The search of the shift ends at 8 - N or before: a byte shifted so far has N bits. -/
theorem compShift_spec {n r : Nat} (hn : n ≤ 8) (hr : r < 256) : compShift n r ≤ 8 - n ∧ r / 2 ^ compShift n r < 2 ^ n := by
  have hfits : r / 2 ^ (8 - n) < 2 ^ n := by
    rw [Nat.div_lt_iff_lt_mul (Nat.two_pow_pos _), ← pow_add, Nat.add_sub_cancel' hn]
    exact hr
  unfold compShift
  cases hfind : (List.range 9).find? fun s => decide (r / 2 ^ s < 2 ^ n) with
  | none =>
    have hnone := List.find?_range_eq_none.mp hfind (8 - n) (by omega)
    simp only [hfits, decide_true, Bool.not_true, Bool.false_eq_true] at hnone
  | some sh =>
    obtain ⟨hsh, -, hfirst⟩ := List.find?_range_eq_some.mp hfind
    refine ⟨Nat.le_of_not_lt fun hlt => ?_, of_decide_eq_true hsh⟩
    have hearlier := hfirst _ hlt
    simp only [hfits, decide_true, Bool.not_true, Bool.false_eq_true] at hearlier

theorem blockShift_spec (signed : Bool) {n : Nat} (bs : List Byte) (hn : n ≤ 8) :
    blockShift signed n bs ≤ 8 - n ∧ (blockMax signed bs - blockMin signed bs) / 2 ^ blockShift signed n bs < 2 ^ n :=
  compShift_spec hn (Nat.lt_of_le_of_lt (Nat.sub_le ..) (blockMax_lt signed bs))

theorem storedCode_lt {signed : Bool} {n : Nat} {bs : List Byte} {b : Byte} (hn : n ≤ 8) (hb : b ∈ bs) :
    storedCode signed n bs b < 2 ^ n :=
  Nat.lt_of_le_of_lt (Nat.div_le_div_right (Nat.sub_le_sub_right (le_blockMax hb) _)) (blockShift_spec signed bs hn).2

theorem two_mul_halfStep_le (sh : Nat) : 2 * halfStep sh ≤ 2 ^ sh := by
  cases sh with
  | zero => decide
  | succ k => exact (pow_succ' 2 k).ge

theorem le_two_mul_halfStep {sh r : Nat} (hr : r < 2 ^ sh) : r ≤ 2 * halfStep sh := by
  cases sh with
  | zero => omega
  | succ k => exact (pow_succ' 2 k ▸ hr).le

/-- An element and the middle of the step it lies in are at most half a step apart, the cut at 255 bringing them no further. -/
theorem restored_close {signed : Bool} {n : Nat} {bs : List Byte} {b : Byte} (hb : b ∈ bs) :
    offsetCode signed b ≤ restored signed n bs b + halfStep (blockShift signed n bs) ∧
      restored signed n bs b ≤ offsetCode signed b + halfStep (blockShift signed n bs) := by
  have hmin := blockMin_le (signed := signed) hb
  have hlt := offsetCode_lt signed b
  have hdiv := Nat.div_add_mod' (offsetCode signed b - blockMin signed bs) (2 ^ blockShift signed n bs)
  have hrem := le_two_mul_halfStep
    (Nat.mod_lt (offsetCode signed b - blockMin signed bs) (Nat.two_pow_pos (blockShift signed n bs)))
  unfold restored storedCode
  omega

/-! ### The coded block (R377) -/

theorem compBlock_bytes (signed : Bool) (n : Nat) (bs : List Byte) :
    (compBlock signed n bs).1 = BitVec.ofNat 8 (blockMin signed bs) :: BitVec.ofNat 8 (blockShift signed n bs + 16 * n) ::
      leBytes (4 * n) (Nat.ofDigits (2 ^ n) (bs.map (storedCode signed n bs))) := by
  have hdigits : Nat.ofDigits (2 ^ n) (bs.map (storedCode signed n bs)) =
      ((bs.map (storedCode signed n bs)).zipIdx.map fun q => q.1 * 2 ^ (n * q.2)).sum := by
    rw [Nat.ofDigits_eq_sum_mapIdx, List.mapIdx_eq_zipIdx_map]
    simp only [← pow_mul]
  have hstored : bs.map (storedCode signed n bs) =
      (bs.map (offsetCode signed)).map fun x => (x - blockMin signed bs) / 2 ^ blockShift signed n bs := by
    rw [List.map_map]
    rfl
  rw [hdigits, hstored]
  rfl

/-- The error that the coder reports is the least bound on how far an element lies from what is restored of it. -/
theorem compBlock_error_le_iff {signed : Bool} {n : Nat} {bs : List Byte} {c : Nat} :
    (compBlock signed n bs).2 ≤ c ↔
      ∀ b ∈ bs, offsetCode signed b ≤ restored signed n bs b + c ∧ restored signed n bs b ≤ offsetCode signed b + c := by
  have herr : (compBlock signed n bs).2 =
      (bs.map fun b => (offsetCode signed b - restored signed n bs b) + (restored signed n bs b - offsetCode signed b)).foldl max 0 := by
    unfold compBlock
    simp only [List.map_map, List.zip_map']
    rfl
  rw [herr, foldl_max_le_iff, List.forall_mem_map]
  constructor
  · rintro ⟨-, h⟩ b hb
    have := h b hb
    omega
  · refine fun h => ⟨Nat.zero_le c, fun b hb => ?_⟩
    have := h b hb
    omega

theorem compBlock_length (signed : Bool) (n : Nat) (bs : List Byte) : (compBlock signed n bs).1.length = 2 + 4 * n := by
  rw [compBlock_bytes, List.length_cons, List.length_cons, length_leBytes]
  omega

theorem compBlock_header0 (signed : Bool) (n : Nat) (bs : List Byte) : leAt (compBlock signed n bs).1 0 1 = blockMin signed bs := by
  rw [compBlock_bytes]
  exact Nat.mod_eq_of_lt (blockMin_lt signed bs)

theorem compBlock_header1 (signed : Bool) {n : Nat} (bs : List Byte) (hn : n = 3 ∨ n = 4) :
    leAt (compBlock signed n bs).1 1 1 = blockShift signed n bs + 16 * n := by
  have hshift := (blockShift_spec signed bs (n := n) (by omega)).1
  rw [compBlock_bytes]
  exact Nat.mod_eq_of_lt (by omega)

theorem compBlock_body {signed : Bool} {n : Nat} {bs : List Byte} (hpos : n ≠ 0) (hn : n ≤ 8) (hlen : bs.length = 32) :
    leNat ((compBlock signed n bs).1.drop 2) = Nat.ofDigits (2 ^ n) (bs.map (storedCode signed n bs)) := by
  have hpow : (2 ^ n) ^ 32 = 256 ^ (4 * n) := by
    rw [show 256 = 2 ^ 8 from rfl, ← pow_mul, ← pow_mul]
    congr 1
    omega
  have hfits : Nat.ofDigits (2 ^ n) (bs.map (storedCode signed n bs)) < 256 ^ (4 * n) := by
    rw [← hpow, ← hlen, ← List.length_map (storedCode signed n bs)]
    exact Nat.ofDigits_lt_base_pow_length (Nat.one_lt_two_pow hpos) (List.forall_mem_map.mpr fun b hb => storedCode_lt hn hb)
  rw [compBlock_bytes]
  exact (leNat_leBytes ..).trans (Nat.mod_eq_of_lt hfits)

/-! ### The decoder (R376, R378) -/

theorem decompBlock_of_header {signed : Bool} {bs : List Byte} {sh n : Nat} (hheader : leAt bs 1 1 = sh + 16 * n)
    (hn : n = 3 ∨ n = 4) (hsh : sh ≤ 8 - n) :
    decompBlock signed bs = some ((List.range 32).map fun i => codeOfOffset signed
      (min 255 (leAt bs 0 1 + leNat (bs.drop 2) / 2 ^ (n * i) % 2 ^ n * 2 ^ sh + halfStep sh))) := by
  have hshift : leAt bs 1 1 % 16 = sh := by omega
  have hbits : leAt bs 1 1 / 16 = n := by omega
  unfold decompBlock
  rw [hshift, hbits, if_neg (by rcases hn with rfl | rfl <;> simpa using hsh)]
  rfl

theorem decompBlock_compBlock {signed : Bool} {n : Nat} {bs : List Byte} (hn : n = 3 ∨ n = 4) (hlen : bs.length = 32) :
    decompBlock signed (compBlock signed n bs).1 = some (bs.map fun b => codeOfOffset signed (restored signed n bs b)) := by
  have hn8 : n ≤ 8 := by omega
  rw [decompBlock_of_header (compBlock_header1 signed bs hn) hn (blockShift_spec signed bs hn8).1, compBlock_header0,
    compBlock_body (by omega) hn8 hlen]
  refine congrArg some (List.ext_getElem (by simp [hlen]) fun i _ hi => ?_)
  rw [List.length_map] at hi
  have hdigit : Nat.ofDigits (2 ^ n) (bs.map (storedCode signed n bs)) / 2 ^ (n * i) % 2 ^ n = storedCode signed n bs bs[i] := by
    rw [pow_mul, ofDigits_div_pow_mod (List.forall_mem_map.mpr fun b hb => storedCode_lt hn8 hb) (by rwa [List.length_map]),
      List.getElem_map]
  rw [List.getElem_map, List.getElem_map, List.getElem_range, hdigit]
  rfl

/-! ### The error (R376) -/

theorem restored_lt (signed : Bool) (n : Nat) (bs : List Byte) (b : Byte) : restored signed n bs b < 256 :=
  Nat.lt_succ_of_le (Nat.min_le_left ..)

theorem two_mul_compBlock_error_le (signed : Bool) {n : Nat} (bs : List Byte) (hn : n = 3 ∨ n = 4) :
    2 * (compBlock signed n bs).2 ≤ 2 ^ (leAt (compBlock signed n bs).1 1 1 % 16) := by
  have hshift := (blockShift_spec signed bs (n := n) (by omega)).1
  have hfield : leAt (compBlock signed n bs).1 1 1 % 16 = blockShift signed n bs := by
    rw [compBlock_header1 signed bs hn]
    omega
  rw [hfield]
  calc 2 * (compBlock signed n bs).2 ≤ 2 * halfStep (blockShift signed n bs) :=
        Nat.mul_le_mul_left 2 (compBlock_error_le_iff.mpr fun _ => restored_close)
    _ ≤ 2 ^ blockShift signed n bs := two_mul_halfStep_le _

/-- A block decodes from its coded bytes, each element to within the error that the coder reports. -/
theorem compBlock_decodes (signed : Bool) {n : Nat} {bs : List Byte} (hn : n = 3 ∨ n = 4) (hlen : bs.length = 32) :
    ∃ ys, decompBlock signed (compBlock signed n bs).1 = some ys ∧ ys.length = 32 ∧ ∀ i, i < 32 →
      offsetCode signed (ys.getD i 0) ≤ offsetCode signed (bs.getD i 0) + (compBlock signed n bs).2 ∧
        offsetCode signed (bs.getD i 0) ≤ offsetCode signed (ys.getD i 0) + (compBlock signed n bs).2 := by
  refine ⟨_, decompBlock_compBlock hn hlen, by rw [List.length_map, hlen], fun i hi => ?_⟩
  rw [← hlen] at hi
  rw [List.getD_eq_getElem _ _ hi, List.getD_eq_getElem _ _ (by rwa [List.length_map]), List.getElem_map,
    offsetCode_codeOfOffset signed (restored_lt ..)]
  exact (compBlock_error_le_iff.mp le_rfl _ (List.getElem_mem hi)).symm

/-- Settles O37: the body of a block holds its stored codes as digits, so the decoder restores each element as the coder's error
foresees, and an element is never further than half a step from the middle of its step. -/
theorem compressionError : Obligations.CompressionError := by
  unfold Obligations.CompressionError
  refine ⟨fun n bs hn hlen => ?unsigned, fun n bs hn hlen => ?signed⟩
  case unsigned =>
    obtain ⟨ys, hdecodes, hys, hclose⟩ := compBlock_decodes false hn hlen
    simp only [offsetCode_false] at hclose
    have hhalf := two_mul_compBlock_error_le false bs hn
    refine ⟨ys, hdecodes, hys, compBlock_length .., hclose, hhalf, fun hshift => ?_⟩
    rw [hshift] at hhalf
    refine List.ext_getElem (hys.trans hlen.symm) fun i hiy hib => BitVec.eq_of_toNat_eq ?_
    obtain ⟨hle, hge⟩ := hclose i (hys ▸ hiy)
    rw [List.getD_eq_getElem _ _ hiy, List.getD_eq_getElem _ _ hib] at hle hge
    omega
  case signed =>
    simp only [← offsetCode_true]
    exact compBlock_decodes true hn hlen

end Sys2Proof.Proofs
end

section
/-! PROOF. What holds of every command and every step, whichever command it is: it answers, it leaves the queue, the part and the
clock, and it keeps the sizes of the log and of the outboxes (R613, R617, R618). -/
namespace Sys2Proof.Proofs
open Sys2Proof Sys2Proof.Machine Sys2Proof.Laws

/-- Settles O1: the queue with c in front is read off by the step. -/
theorem stepRunsFrontCommand : Obligations.StepRunsFrontCommand := by
  unfold Obligations.StepRunsFrontCommand
  intro c s
  unfold step
  rfl

theorem step_of_idle {s : State} (h : s.pending = []) : step s = .next (tick s) := by
  unfold step
  rw [h]

/-- With no rate correction, nothing to slew and no fraction held, a tick is 8 ns (R41). -/
theorem tickTb_free_running {s : State} (hrate : s.tb.rate = 0) (hslew : s.tb.slew = 0) (hfrac : s.tb.frac = 0) :
    tickTb s = { s.tb with ltime := s.tb.ltime + 8 } := by
  have hstep (top : Int) (h : 0 ≤ top) : clampInt (-top) top 0 = 0 := by
    unfold clampInt
    omega
  have htotal : (8 * 2 ^ 32 + 0 + 0 + ((0 : BitVec 32).toNat : Int)).toNat = 8 * 2 ^ 32 := rfl
  unfold tickTb
  dsimp only
  rw [hrate, hslew, hfrac, hstep _ (by positivity), htotal]
  rfl

/-- Settles O2: an idle step is a tick, and with no rate, no slew and no fraction a tick adds 8 ns to LTIME. -/
theorem idleStepTicks : Obligations.IdleStepTicks := by
  unfold Obligations.IdleStepTicks
  intro s hidle
  exact ⟨tick s, step_of_idle hidle, rfl, rfl, rfl, tickTb_free_running⟩

/-- A command answers: with a next state, or with the fault that names a unit the part does not have. -/
def Answers (r : Res) : Prop := (∃ t, r = .next t) ∨ r = .fault .noSuchUnit

theorem Answers.next (t : State) : Answers (.next t) := .inl ⟨t, rfl⟩

theorem Answers.unit (ok : Bool) (t : State) : Answers (onUnit ok t) := by
  cases ok with
  | true => exact .next t
  | false => exact .inr rfl

/-- Where a checkpoint is written, an exemplar is stored, or neither is due, the writer answers a next state. -/
theorem execHarvestCheckpointWrite_answers (ok : Bool) (s : State) : Answers (execHarvestCheckpointWrite ok s) := by
  unfold execHarvestCheckpointWrite
  split
  · split
    · exact .next _
    · exact .next _
    · exact .next _
  · exact .next _

/-- Each command either answers a next state whatever it finds, or asks first whether its unit is there. -/
theorem exec_answers (i : Instr) (s : State) : Answers (exec i s) := by
  cases i with
  | harvestCheckpointWrite ok => exact execHarvestCheckpointWrite_answers ok s
  | registerWrite | pairLoRead | pairLoWrite | pairHiWrite | syncTimeout | announceReceiptTimeout | syncInEdge 
  | syncInMissing | syncOutPulse | acqTimeoutExpire | sequencerArm | timeUnlockedReport | launchSend | equinoxDeadline 
  | commitFence | equinoxSend | coldReset | warmReset | startupSequence | startupStepComplete | startupStepTimeout 
  | dormantReport | watchdogExpiry | wdtKick | firstEpoch | slotConfirm | programRow | reinforceRow | marginRow | scan 
  | lcAdvance | rollbackRaise | policyLock | kwrapGen | otpLockSet | debugDisableEffect | regAccessTimeout | sensorCalDone 
  | calTimeout | exposureEnd | bankPowerUp | rowConverted | vpixFault | seqClockLost | seqClockRelock | ispRowProcess 
  | frameTimeout | roiWindowClose | cropProcess | hvStart | hvCancel | hvRevertBaseline | hello | read | write | read64 
  | claim | heartbeat | release | ownerQuery | contestEnd | leaseExpire | successionEnd | sessionTimeout | stageBegin 
  | stageData | stageEnd | stageCheckDone | switch | switchReady | switchCancel | configCommit | setKey | keystoreBadReport
  | logRead | logStatus | logClear | logUnfreeze | dhcpLeaseBound | dhcpTimeout | dhcpRenew | leaseRetry | addrConflict 
  | addressTableAgeing | roiEncode | datagramTimeout | datagramSend | statusReport | announceSend | peerAnnounce | peerEmbed
  | peerBye | peerAgeOut | audioFrame | listenerStartDone | listenerSelftest | selftestDone | modClockLost 
  | listenerWatchdog | hkCalibrate | hkRefresh | hkConversion | hkUrgent | hkQRead | hkMmClr | xcPair | hkClockLost 
  | foOutWrite | foFaultClear | foUvlo | foUvloRecover | tamperRebaseline | shieldFault | i2cTargetTransaction 
  | i2cControllerXfer | i2cBusFree | i2cArbRetry | i2cBusStuck | pmAlert | vcoreTelemetry | flashBusyTimeout 
  | checkEngineWatchdog | logWrite | logCmdClear | logCmdUnfreeze | logWriterWatchdog | thermalSample | thermalStopExit 
  | powerLevelEval | seasonCmdWinter | seasonCmdLeave | springBringup | wakeHoldExpire | winterWindowClose | vcoreFault 
  | railFault | vsysBrownout | clockLossHalt =>
    exact .next _
  | ptpSyncReceive | announceReceive | peerDelayMeasure | latencyMeasure | echo | launchDequeue | latenessExceedsSlack 
  | softEvent | mark | killDrain | killForce | epochDoneSend | epochDone | drained | drainStuck | equinox | equinoxDiscard 
  | committed | equinoxResend | ledgerLocalWrite | ledgerWrite | handoverClear | dieHoldSet | dieHoldRelease | dieReset 
  | sinkEnd | dieReady | linkTrain | trainStepTimeout | lmwHello | lmwStep | lmwFail | lmwSteer | lmwSteerAck | lmwRetrain 
  | lmwResend | retrainRequest | sbLost | sbRetry | bundleClkLost | linkSupplyFault | parcelSlot | parcelCrcFail | nul 
  | nulDue | replayTimeout | resume | resumeTimeout | portIsolate | isolationDetect | cap | agree | soak | soakEnd | init 
  | negTimeout | negotiationResend | regReq | regResp | vc5Write | vc5Read | vc5ReadResp | remoteLoad | readRequest 
  | readResponse | readTimeout | masterEnWrite | stuckTimeout | remoteCacheDisable | scrubRead | weightChunkRewrite 
  | eccUncorrectable | expose | exposeHdr | ispStart | runGroup | stream | frameAbort | groupBandProcess | halo | commit 
  | revoke | clusterStall | speedMonitorSample | speedLow | detect | detectStart | detectStall | track | roiWindow 
  | cropRequest | roiResult | egressBudget | phyLinkChange | portHoldEnd | frameForward | flush | recordParcel 
  | micBiasShort | micBiasRetry | micOpen | micOpenCleared | micSilent | adcScan | foPulse | foSet | foClear | foPulseEnd 
  | foFaultLatch | foOpenLoad | foRetry | foRetryRestore | foThermalRelease | tamperSample | persistentOcclusion 
  | tamperFault | gpioEdge | cvStart | cvDataWrite | cvStateWrite | cvDmaGo | cvDmaDone | cvFinish | logEvent 
  | logRdDataRead | event | domainPowerFault =>
    exact .unit _ _

/-- Settles O3. -/
theorem everyCommandAnswers : Obligations.EveryCommandAnswers := exec_answers

/-- The queue, the part and the clock of t are those of s. -/
def SameQueueAndPart (s t : State) : Prop := t.pending = s.pending ∧ t.part = s.part ∧ t.now = s.now

/-- No field a command may change is one of the three, and a reset keeps them. -/
theorem closed_sameQueueAndPart (s : State) : Closed 0x10000ffffffffff8 (SameQueueAndPart s) := by
  constructor
  case reset =>
    intro _ t u kept ⟨hpending, hpart, hnow⟩
    exact ⟨kept.pending.trans hpending, kept.part.trans hpart, kept.now.trans hnow⟩
  case set_ledgers | set_otp | set_mem | set_log | set_outboxes => exact fun _ _ _ _ h => h
  all_goals exact fun _ _ _ h => h

/-- Settles O4: the three fields are out of reach of every change a command makes. -/
theorem commandsKeepQueueAndPart : Obligations.CommandsKeepQueueAndPart := by
  unfold Obligations.CommandsKeepQueueAndPart
  intro i s t h
  exact (exec_keeps (closed_sameQueueAndPart s) i s ⟨rfl, rfl, rfl⟩).of t h

/-- The log and the outboxes keep their sizes. -/
def LogsSized (s : State) : Prop := LogSized s.log ∧ OutboxesSized s.outboxes

/-- A change of the log or of the outboxes keeps their sizes, and so does a reset, which empties the outboxes (R613, R617, R618). -/
theorem closed_logsSized : Closed 0x10000ffffffffff8 LogsSized := by
  constructor
  case set_log => exact fun _ _ _ sized ⟨hlog, hboxes⟩ => ⟨sized hlog, hboxes⟩
  case set_outboxes => exact fun _ _ _ sized ⟨hlog, hboxes⟩ => ⟨hlog, sized hboxes⟩
  case reset => exact fun _ _ _ kept ⟨hlog, _⟩ => ⟨kept.log hlog, kept.outboxes ▸ outboxesSized_none⟩
  case set_ledgers | set_otp | set_mem => exact fun _ _ _ _ h => h
  all_goals exact fun _ _ _ h => h

/-- Settles O8: the command in front keeps the sizes, and a tick leaves the log and the outboxes as they are. -/
theorem logsKeepTheirSizes : Obligations.LogsKeepTheirSizes := by
  unfold Obligations.LogsKeepTheirSizes
  intro s t hsized h
  obtain ⟨i, rest, _, hexec⟩ | ⟨_, rfl⟩ := step_next_cases h
  · exact (exec_keeps closed_logsSized i { s with pending := rest } hsized).of t hexec
  · exact hsized

end Sys2Proof.Proofs
end

section
/-! PROOF. Suppression: what one more candidate adds to the kept ones, that a kept candidate is kept for good, and the areas of two
boxes as exact integers (R392). -/
namespace Sys2Proof.Proofs
open Sys2Proof Sys2Proof.Machine Sys2Proof.Laws

/-- What lets candidate c stand beside a kept candidate k (R392). -/
def Tolerates (h : HeadBlock) (k c : Cand) : Prop :=
  (h.agnostic = true ∨ k.cls = c.cls) → 256 * interArea k c ≤ h.iouT * unionArea k c

/-- The test of a candidate against the kept ones fails exactly when each of them lets it stand. -/
theorem any_suppresses_eq_false_iff (h : HeadBlock) (kept : List Cand) (c : Cand) :
    (kept.any fun k => (h.agnostic || k.cls == c.cls) && decide (h.iouT * unionArea k c < 256 * interArea k c)) = false ↔
      ∀ k ∈ kept, Tolerates h k c := by
  simp [List.any_eq_false, Tolerates]

theorem suppressNext_of_full (h : HeadBlock) {t : List Cand × Bool} (c : Cand) (hfull : h.keepMax ≤ t.1.length) :
    suppressNext h t c = (t.1, true) := if_pos hfull

theorem suppressNext_of_suppressed (h : HeadBlock) {t : List Cand × Bool} {c : Cand} (hroom : t.1.length < h.keepMax)
    (hsup : ¬∀ k ∈ t.1, Tolerates h k c) : suppressNext h t c = t := by
  unfold suppressNext
  rw [if_neg (Nat.not_le.mpr hroom), if_pos (by rwa [← any_suppresses_eq_false_iff, Bool.not_eq_false] at hsup)]

theorem suppressNext_of_tolerated (h : HeadBlock) {t : List Cand × Bool} {c : Cand} (hroom : t.1.length < h.keepMax)
    (htol : ∀ k ∈ t.1, Tolerates h k c) : suppressNext h t c = (t.1 ++ [c], t.2) := by
  unfold suppressNext
  rw [if_neg (Nat.not_le.mpr hroom), (any_suppresses_eq_false_iff h t.1 c).mpr htol, if_neg Bool.false_ne_true]

theorem suppress_append_one (h : HeadBlock) (cs : List Cand) (c : Cand) :
    suppress h (cs ++ [c]) = suppressNext h (suppress h cs) c := by
  simp only [suppress_eq_foldl, List.foldl_append, List.foldl_cons, List.foldl_nil]

/-- The kept candidates are some of those given, in their order, and each lets those after it stand. -/
theorem suppress_kept (h : HeadBlock) (cs : List Cand) :
    (suppress h cs).1.Sublist cs ∧ (suppress h cs).1.Pairwise (Tolerates h) := by
  induction cs using List.reverseRecOn with
  | nil => exact ⟨.slnil, .nil⟩
  | append_singleton cs c ih =>
    obtain ⟨hsub, hpair⟩ := ih
    rw [suppress_append_one]
    by_cases hfull : h.keepMax ≤ (suppress h cs).1.length
    · rw [suppressNext_of_full h c hfull]
      exact ⟨hsub.trans (List.sublist_append_left _ _), hpair⟩
    · have hroom := Nat.not_le.mp hfull
      by_cases htol : ∀ k ∈ (suppress h cs).1, Tolerates h k c
      · rw [suppressNext_of_tolerated h hroom htol]
        refine ⟨hsub.append (List.Sublist.refl _), List.pairwise_append.mpr ⟨hpair, List.pairwise_singleton _ _, ?_⟩⟩
        intro k hk d hd
        rw [List.mem_singleton.mp hd]
        exact htol k hk
      · rw [suppressNext_of_suppressed h hroom htol]
        exact ⟨hsub.trans (List.sublist_append_left _ _), hpair⟩

/-! ### The areas of two boxes -/

theorem interArea_comm (a b : Cand) : interArea a b = interArea b a := by
  unfold interArea
  simp only [min_comm, max_comm]

theorem interArea_le_left (a b : Cand) : interArea a b ≤ areaOf a := by
  unfold interArea areaOf
  exact Nat.mul_le_mul (by omega) (by omega)

theorem unionArea_add_interArea (a b : Cand) : unionArea a b + interArea a b = areaOf a + areaOf b := by
  have hle := interArea_le_left a b
  unfold unionArea
  omega

/-- Settles O40, candidate by candidate: a full list, a suppressed candidate, and a candidate that every kept one lets stand. -/
theorem suppressionOfCandidates : Obligations.SuppressionOfCandidates := by
  unfold Obligations.SuppressionOfCandidates
  refine ⟨fun h cs c => ?_, fun h cs => ?_, fun a b _ _ _ _ => ?_⟩
  · refine ⟨rfl, fun hfull => ?_, fun hroom hsup => ?_, fun hroom htol => ?_⟩
    · rw [suppress_append_one, suppressNext_of_full h c hfull]
    · obtain ⟨k, hk, hclass, hover⟩ := hsup
      rw [suppress_append_one, suppressNext_of_suppressed h hroom fun htol => Nat.not_le.mpr hover (htol k hk hclass)]
    · rw [suppress_append_one, suppressNext_of_tolerated h hroom htol]
  · obtain ⟨hsub, hpair⟩ := suppress_kept h cs
    exact ⟨hsub, (suppress_length_le h cs).1, hpair⟩
  · exact ⟨rfl, unionArea_add_interArea a b, interArea_le_left a b, interArea_comm a b ▸ interArea_le_left b a, rfl,
      interArea_comm a b⟩

end Sys2Proof.Proofs
end

section
/-! PROOF. Matching of tracks: the pairs in ascending cost are taken while their entry and their candidate are free, and the number of
a new track is the first of 257 in a row that is neither 0 nor live (R391, R398, R400). -/
namespace Sys2Proof.Proofs
open Sys2Proof Sys2Proof.Machine Sys2Proof.Laws

/-- One more pair of the matching, taken when its entry and its candidate are free (R398). -/
def matchNext (m : List (Nat × Nat)) (p : Pair) : List (Nat × Nat) :=
  if m.any fun q => q.1 == p.entry || q.2 == p.cand then m else m ++ [(p.entry, p.cand)]

/-- The matching runs over the given pairs in some order, that of their cost. -/
theorem greedy_eq_foldl (ps : List Pair) : ∃ qs : List Pair, qs.Perm ps ∧ greedy ps = qs.foldl matchNext [] :=
  ⟨_, List.mergeSort_perm _ _, rfl⟩

/-- A pair is taken, or it leaves the matching as it is because its entry or its candidate is taken. -/
theorem matchNext_cases (m : List (Nat × Nat)) (p : Pair) :
    ((∃ q ∈ m, q.1 = p.entry ∨ q.2 = p.cand) ∧ matchNext m p = m) ∨
      ((∀ q ∈ m, q.1 ≠ p.entry ∧ q.2 ≠ p.cand) ∧ matchNext m p = m ++ [(p.entry, p.cand)]) := by
  unfold matchNext
  split
  · next hany => exact .inl ⟨by simpa using hany, rfl⟩
  · next hnone => exact .inr ⟨by simpa using hnone, rfl⟩

/-- No entry and no candidate is used twice, only given pairs are taken, and each given pair meets a taken one. -/
theorem foldl_matchNext (ps : List Pair) :
    (ps.foldl matchNext []).Pairwise (fun a b => a.1 ≠ b.1 ∧ a.2 ≠ b.2) ∧
      (∀ m ∈ ps.foldl matchNext [], ∃ p ∈ ps, p.entry = m.1 ∧ p.cand = m.2) ∧
      ∀ p ∈ ps, ∃ m ∈ ps.foldl matchNext [], m.1 = p.entry ∨ m.2 = p.cand := by
  induction ps using List.reverseRecOn with
  | nil => simp
  | append_singleton ps p ih =>
    obtain ⟨honce, hgiven, hmet⟩ := ih
    rw [List.foldl_append, List.foldl_cons, List.foldl_nil]
    obtain ⟨⟨q, hq, htaken⟩, hsame⟩ | ⟨hfree, hnext⟩ := matchNext_cases (ps.foldl matchNext []) p
    · rw [hsame]
      refine ⟨honce, fun m hm => ?_, fun r hr => ?_⟩
      · obtain ⟨r, hr, heq⟩ := hgiven m hm
        exact ⟨r, List.mem_append_left _ hr, heq⟩
      · obtain hr | hr := List.mem_append.mp hr
        · exact hmet r hr
        · exact ⟨q, hq, List.mem_singleton.mp hr ▸ htaken⟩
    · rw [hnext]
      refine ⟨List.pairwise_append.mpr ⟨honce, List.pairwise_singleton _ _, ?_⟩, fun m hm => ?_, fun r hr => ?_⟩
      · intro a ha b hb
        rw [List.mem_singleton.mp hb]
        exact hfree a ha
      · obtain hm | hm := List.mem_append.mp hm
        · obtain ⟨r, hr, heq⟩ := hgiven m hm
          exact ⟨r, List.mem_append_left _ hr, heq⟩
        · exact ⟨p, List.mem_append_right _ (List.mem_singleton_self p), by rw [List.mem_singleton.mp hm]; exact ⟨rfl, rfl⟩⟩
      · obtain hr | hr := List.mem_append.mp hr
        · obtain ⟨m, hm, heq⟩ := hmet r hr
          exact ⟨m, List.mem_append_left _ hm, heq⟩
        · exact ⟨_, List.mem_append_right _ (List.mem_singleton_self _), .inl (by rw [List.mem_singleton.mp hr])⟩

/-! ### The number of a new track -/

/-- A number that a new track does not get: 0, or that of a live track (R400). -/
def IdTaken (ts : List Track) (n : Nat) : Prop := n = 0 ∨ ∃ t ∈ ts, t.id = n

theorem idTaken_iff (ts : List Track) (n : Nat) : (n == 0 || ts.any fun t => t.id == n) = true ↔ IdTaken ts n := by
  simp [IdTaken]

theorem nextIdFrom_of_free {ts : List Track} {n : Nat} (h : ¬IdTaken ts n) (k : Nat) : nextIdFrom ts (k + 1) n = n := by
  unfold nextIdFrom
  rw [if_neg (mt (idTaken_iff ts n).mp h)]

/-- The search finds a free number, unless as many numbers in a row as it may try are all taken. -/
theorem nextIdFrom_free_or_all_taken (ts : List Track) (k n : Nat) (hn : n < 2 ^ 32) :
    (nextIdFrom ts k n < 2 ^ 32 ∧ ¬IdTaken ts (nextIdFrom ts k n)) ∨ ∀ i < k, IdTaken ts ((n + i) % 2 ^ 32) := by
  induction k generalizing n with
  | zero => exact .inr fun i hi => absurd hi (Nat.not_lt_zero i)
  | succ k ih =>
    by_cases hn0 : IdTaken ts n
    · have hstep : nextIdFrom ts (k + 1) n = nextIdFrom ts k ((n + 1) % 2 ^ 32) := by
        rw [nextIdFrom, if_pos ((idTaken_iff ts n).mpr hn0)]
      rw [hstep]
      refine (ih _ (Nat.mod_lt _ (by decide))).imp id fun hall i hi => ?_
      cases i with
      | zero => rwa [Nat.add_zero, Nat.mod_eq_of_lt hn]
      | succ i =>
        have hshift : (n + (i + 1)) % 2 ^ 32 = ((n + 1) % 2 ^ 32 + i) % 2 ^ 32 := by omega
        exact hshift ▸ hall i (by omega)
    · rw [nextIdFrom_of_free hn0]
      exact .inl ⟨hn, hn0⟩

/-- 257 numbers in a row are not all taken by 0 and 255 tracks. -/
theorem exists_free_of_few {ts : List Track} (hts : ts.length ≤ 255) (n : Nat) : ∃ i < 257, ¬IdTaken ts ((n + i) % 2 ^ 32) := by
  by_contra hall
  push Not at hall
  have hinj : Set.InjOn (fun i => (n + i) % 2 ^ 32) (Finset.range 257 : Set Nat) := by
    intro i hi j hj hij
    simp only [Finset.coe_range, Set.mem_Iio] at hi hj hij
    omega
  have hsub : (Finset.range 257).image (fun i => (n + i) % 2 ^ 32) ⊆ (0 :: ts.map (·.id)).toFinset := by
    intro m hm
    obtain ⟨i, hi, rfl⟩ := Finset.mem_image.mp hm
    have htaken := hall i (Finset.mem_range.mp hi)
    simpa [IdTaken] using htaken
  have hcard := Finset.card_le_card hsub
  have hfew := List.toFinset_card_le (0 :: ts.map (·.id))
  rw [Finset.card_image_of_injOn hinj, Finset.card_range] at hcard
  rw [List.length_cons, List.length_map] at hfew
  omega

theorem nextIdFrom_free {ts : List Track} (hts : ts.length ≤ 255) {n : Nat} (hn : n < 2 ^ 32) :
    nextIdFrom ts 257 n < 2 ^ 32 ∧ ¬IdTaken ts (nextIdFrom ts 257 n) := by
  obtain ⟨i, hi, hfree⟩ := exists_free_of_few hts n
  exact (nextIdFrom_free_or_all_taken ts 257 n hn).resolve_right fun hall => hfree (hall i hi)

/-- Settles O41: the matching over the pairs sorted by cost, the pigeonhole of the numbers, and the stable sort of the ranking. -/
theorem trackMatchingAndIds : Obligations.TrackMatchingAndIds := by
  unfold Obligations.TrackMatchingAndIds
  refine ⟨fun ps => ?_, fun ts n hts hn => ?_, fun cs a b => ?_⟩
  · obtain ⟨qs, hperm, heq⟩ := greedy_eq_foldl ps
    obtain ⟨honce, hgiven, hmet⟩ := foldl_matchNext qs
    rw [heq]
    refine ⟨honce, fun m hm => ?_, fun p hp => hmet p (hperm.mem_iff.mpr hp)⟩
    obtain ⟨p, hp, hm⟩ := hgiven m hm
    exact ⟨p, hperm.mem_iff.mp hp, hm⟩
  · obtain ⟨hlt, hfree⟩ := nextIdFrom_free hts hn
    exact ⟨fun h0 => hfree (.inl h0), hlt, fun t ht heq => hfree (.inr ⟨t, ht, heq⟩), fun h0 hnone =>
      nextIdFrom_of_free (fun htaken => htaken.elim h0 fun ⟨t, ht, heq⟩ => hnone t ht heq) 256⟩
  · have htrans (x y z : Cand) (h1 : decide (y.score ≤ x.score) = true) (h2 : decide (z.score ≤ y.score) = true) :
        decide (z.score ≤ x.score) = true := by
      simp only [decide_eq_true_eq] at *
      omega
    have htotal (x y : Cand) : (decide (y.score ≤ x.score) || decide (x.score ≤ y.score)) = true := by
      simp only [Bool.or_eq_true, decide_eq_true_eq]
      omega
    have hsorted := List.pairwise_mergeSort htrans htotal cs
    exact ⟨List.mergeSort_perm _ _, hsorted.imp of_decide_eq_true, fun heq hsub =>
      List.pair_sublist_mergeSort htrans htotal (decide_eq_true (Nat.le_of_eq heq.symm)) hsub⟩

end Sys2Proof.Proofs
end

section
/-! PROOF. Frames: that a command changes only the fields of State it may change, stated once for every set of fields. -/
namespace Sys2Proof.Proofs
open Sys2Proof Sys2Proof.Machine Sys2Proof.Laws

/-- The state s with the fields of t whose bits are set in K, bit i being field i of State as in Closed. -/
def mixed (K : Nat) (s t : State) : State :=
  { s with
    freeIdx := bif K.testBit 3 then t.freeIdx else s.freeIdx,
    regs := bif K.testBit 4 then t.regs else s.regs,
    shadow := bif K.testBit 5 then t.shadow else s.shadow,
    loRead := bif K.testBit 6 then t.loRead else s.loRead,
    loStaged := bif K.testBit 7 then t.loStaged else s.loStaged,
    logRd := bif K.testBit 8 then t.logRd else s.logRd,
    out := bif K.testBit 9 then t.out else s.out,
    tb := bif K.testBit 10 then t.tb else s.tb,
    seqr := bif K.testBit 11 then t.seqr else s.seqr,
    dies := bif K.testBit 12 then t.dies else s.dies,
    ledgers := bif K.testBit 13 then t.ledgers else s.ledgers,
    boot := bif K.testBit 14 then t.boot else s.boot,
    flash := bif K.testBit 15 then t.flash else s.flash,
    img := bif K.testBit 16 then t.img else s.img,
    otp := bif K.testBit 17 then t.otp else s.otp,
    ports := bif K.testBit 18 then t.ports else s.ports,
    accesses := bif K.testBit 19 then t.accesses else s.accesses,
    accessTag := bif K.testBit 20 then t.accessTag else s.accessTag,
    fabs := bif K.testBit 21 then t.fabs else s.fabs,
    mem := bif K.testBit 22 then t.mem else s.mem,
    eye := bif K.testBit 23 then t.eye else s.eye,
    isp := bif K.testBit 24 then t.isp else s.isp,
    comp := bif K.testBit 25 then t.comp else s.comp,
    det := bif K.testBit 26 then t.det else s.det,
    guard := bif K.testBit 27 then t.guard else s.guard,
    hv := bif K.testBit 28 then t.hv else s.hv,
    net := bif K.testBit 29 then t.net else s.net,
    bcp := bif K.testBit 30 then t.bcp else s.bcp,
    stage := bif K.testBit 31 then t.stage else s.stage,
    sw := bif K.testBit 32 then t.sw else s.sw,
    recs := bif K.testBit 33 then t.recs else s.recs,
    peers := bif K.testBit 34 then t.peers else s.peers,
    lst := bif K.testBit 35 then t.lst else s.lst,
    hk := bif K.testBit 36 then t.hk else s.hk,
    fo := bif K.testBit 37 then t.fo else s.fo,
    tamper := bif K.testBit 38 then t.tamper else s.tamper,
    bus := bif K.testBit 39 then t.bus else s.bus,
    cv := bif K.testBit 40 then t.cv else s.cv,
    log := bif K.testBit 41 then t.log else s.log,
    outboxes := bif K.testBit 42 then t.outboxes else s.outboxes,
    power := bif K.testBit 43 then t.power else s.power }

/-- Nothing of the part differs between s and t but the fields whose bits are set in K. -/
def SameBut (K : Nat) (s t : State) : Prop := t = mixed K s t

theorem cond_cond_same {α : Type} (b : Bool) (x y : α) : (bif b then (bif b then x else y) else y) = bif b then x else y := by
  cases b with
  | true => rfl
  | false => rfl

theorem SameBut.refl (K : Nat) (s : State) : SameBut K s s := by
  unfold SameBut mixed
  simp only [Bool.cond_self]

/-- A frame is closed under the changes of its own fields. -/
theorem closed_sameBut (K : Nat) (s : State) (hreset : K.testBit 60 = false) : Closed K (SameBut K s) := by
  unfold SameBut
  constructor
  case reset => exact fun b => absurd (hreset.symm.trans b) Bool.false_ne_true
  case set_ledgers | set_otp | set_mem | set_log | set_outboxes =>
    intro b t x _ h
    rw [h]
    simp only [mixed, b, cond_true, cond_cond_same]
  all_goals
    intro b t x h
    rw [h]
    simp only [mixed, b, cond_true, cond_cond_same]

end Sys2Proof.Proofs
end

section
/-! PROOF. Crops: the window of requests, the checks of a request in their order, its refusal or acceptance, and what cutting and
redacting a crop leave (R402–R406, R409, R416). -/
namespace Sys2Proof.Proofs
open Sys2Proof Sys2Proof.Machine Sys2Proof.Laws

theorem exec_roiWindow (f : SbFrame) (s : State) : exec (.roiWindow f) s = execRoiWindow f s := rfl
theorem exec_cropRequest (r : LinkRx) (s : State) : exec (.cropRequest r) s = execCropRequest r s := rfl
theorem exec_stream (r : LinkRx) (s : State) : exec (.stream r) s = execStream r s := rfl
theorem exec_roiWindowClose (s : State) : exec .roiWindowClose s = execRoiWindowClose s := rfl
theorem exec_cropProcess (s : State) : exec .cropProcess s = execCropProcess s := rfl
theorem exec_roiResult (r : LinkRx) (s : State) : exec (.roiResult r) s = execRoiResult r s := rfl
theorem exec_egressBudget (r : LinkRx) (s : State) : exec (.egressBudget r) s = execEgressBudget r s := rfl

/-! ### The window -/

theorem exec_roiWindow_ready {s s1 : State} {f : SbFrame} {w : BitVec 48} {e : LaunchEntry} (h : LaunchReady s f 9 w s1 e)
    (hdie : f.port.die = .eye) (hunit : tokUnit w = 3) :
    exec (.roiWindow f) s = .next (startRoiWindow (running s1 .eye 3 (launchedBy s1 w e)) .eye 3 (launchedBy s1 w e)) := by
  rw [exec_roiWindow, execRoiWindow, onLaunch_ready h (u := 3) (by rw [hdie]; rfl) (by rw [hunit]; rfl) (by rw [hunit])
    (by rw [hunit, unitsNamed_of_lt (by decide)]), hdie]

/-- A request is refused at the guard with its cause; the crops of the epoch stay as they are. -/
theorem refuseCrop_guard (s : State) (q : CropReq) (c : Nat) :
    (refuseCrop s q c).guard =
      { s.guard with cropsRefused := satAdd 65535 s.guard.cropsRefused 1, lastCause := c, lastIndex := q.index } := by
  unfold refuseCrop
  dsimp only
  split
  · rw [sendMsg_guard, logOnly_guard]
    rfl
  · rw [logOnly_guard]
    rfl

theorem satAdd_satAdd (top a m n : Nat) : satAdd top (satAdd top a m) n = satAdd top a (m + n) := by
  unfold satAdd
  omega

/-- Refusing the requests that wait, one after the other, counts each and gives each the same cause. -/
theorem foldl_refuseCrop_guard (c : Nat) (qs : List CropReq) (s : State) :
    ∃ i, (qs.foldl (fun t q => refuseCrop t q c) s).guard =
      if qs = [] then s.guard
      else { s.guard with cropsRefused := satAdd 65535 s.guard.cropsRefused qs.length, lastCause := c, lastIndex := i } := by
  induction qs generalizing s with
  | nil => exact ⟨0, rfl⟩
  | cons q qs ih =>
    obtain ⟨i, hrest⟩ := ih (refuseCrop s q c)
    rw [List.foldl_cons, hrest, refuseCrop_guard]
    by_cases hqs : qs = []
    · refine ⟨q.index, ?_⟩
      rw [if_pos hqs, if_neg (List.cons_ne_nil q qs), hqs]
      rfl
    · refine ⟨i, ?_⟩
      rw [if_neg hqs, if_neg (List.cons_ne_nil q qs), List.length_cons, Nat.add_comm, ← satAdd_satAdd]

/-- A window that closes empties the list of waiting requests, each refused with NO_MASK. -/
theorem exec_roiWindowClose_of_open {s : State} (hopen : s.guard.windowOpen = true) :
    ∃ t, exec .roiWindowClose s = .next t ∧ SameBut 0x60208040000 s t ∧ t.guard.windowOpen = false ∧ t.guard.waiting = [] ∧
      t.guard.accepted = s.guard.accepted ∧ (s.guard.waiting ≠ [] →
        t.guard.cropsRefused = satAdd 65535 s.guard.cropsRefused s.guard.waiting.length ∧ t.guard.lastCause = 6) := by
  have hexec : exec .roiWindowClose s = .next (s.guard.waiting.foldl (fun t r => refuseCrop t r 6)
      (modGuard s fun g => { g with windowOpen := false, waiting := [] })) := by
    rw [exec_roiWindowClose, execRoiWindowClose, if_pos hopen]
  obtain ⟨i, hguard⟩ := foldl_refuseCrop_guard 6 s.guard.waiting (modGuard s fun g => { g with windowOpen := false, waiting := [] })
  refine ⟨_, hexec, (execRoiWindowClose_keeps (closed_sameBut _ s rfl) s (SameBut.refl _ s)).of _ hexec, ?_⟩
  rw [hguard]
  by_cases hnone : s.guard.waiting = []
  · rw [if_pos hnone]
    exact ⟨rfl, rfl, rfl, fun h => absurd hnone h⟩
  · rw [if_neg hnone]
    exact ⟨rfl, rfl, rfl, fun _ => ⟨rfl, rfl⟩⟩

/-! ### Requests -/

/-- At the EYE a request that arrives is taken, whichever of the two commands brings it. -/
theorem exec_cropRequest_taken {r : LinkRx} {x : Parcel} {s s1 : State} (hp : portOk s r.port = true)
    (hr : linkReceive s r = (some x, s1)) (hvc : x.vc = 1) (hk : x.kind = 0) (htag : x.tag = 0xF0) (heye : r.port.die = .eye) :
    exec (.cropRequest r) s = .next (takeCropRequest s1 x) ∧ exec (.stream r) s = exec (.cropRequest r) s := by
  rw [exec_cropRequest, execCropRequest, exec_stream, execStream, onParcel_taken hp hr hvc hk, onParcel_taken hp hr hvc hk, heye]
  unfold takeEyeStream
  rw [htag]
  exact ⟨rfl, rfl⟩

theorem judgeCrop_of_refused {s : State} {q : CropReq} {c : Nat} (h : cropRefusal s q = some c) : judgeCrop s q = refuseCrop s q c := by
  unfold judgeCrop
  rw [h]

theorem judgeCrop_of_accepted {s : State} {q : CropReq} (h : cropRefusal s q = none) :
    judgeCrop s q = { s with guard := { s.guard with
      crops := s.guard.crops + 1, indices := s.guard.indices ++ [q.index], accepted := s.guard.accepted ++ [q] } } := by
  unfold judgeCrop
  rw [h]
  rfl

theorem takeCropRequest_of_masked {s : State} {x : Parcel} (h : (cropReqOf x).masked = true) :
    takeCropRequest s x = { s with guard := { s.guard with waiting := s.guard.waiting ++ [cropReqOf x] } } := by
  unfold takeCropRequest
  rw [if_pos h]
  rfl

theorem takeCropRequest_of_plain {s : State} {x : Parcel} (h : (cropReqOf x).masked = false) :
    takeCropRequest s x = judgeCrop s (cropReqOf x) := by
  unfold takeCropRequest
  dsimp only
  rw [h, if_neg Bool.false_ne_true]

/-- The first failing check of a list of checks is the head's exactly when the head fails. -/
theorem firstFailing_cons (c : Nat × Bool) (cs : List (Nat × Bool)) :
    (((c :: cs).find? fun c => !c.2).map (·.1)) = if c.2 = true then ((cs.find? fun c => !c.2).map (·.1)) else some c.1 := by
  cases h : c.2 with
  | true => simp [h]
  | false => simp [h]

/-- An accepted request has passed every check of Table 13.6. -/
theorem cropRefusal_eq_none {s : State} {q : CropReq} (h : cropRefusal s q = none) :
    s.guard.windowOpen = true ∧ s.guard.crops < cropLimit s ∧ 16 ≤ q.w ∧ q.w ≤ sizeLimit s ∧ q.w % 16 = 0 ∧ 16 ≤ q.h ∧
      q.h ≤ sizeLimit s ∧ q.h % 16 = 0 ∧ q.x + q.w ≤ 4096 ∧ q.y + q.h ≤ 3072 ∧ (q.masked = true ∨ rb s 0x01030000 1 = false) ∧
      s.eye.exposed = true ∧ s.eye.rows = 3080 ∧ s.eye.frameMissing = false ∧ q.index ∉ s.guard.indices ∧
      (s.port ⟨.eye, 4⟩).pstate = .up := by
  unfold cropRefusal at h
  simp only [Option.map_eq_none_iff, List.find?_eq_none, List.forall_mem_cons, Bool.not_eq_true', Bool.not_eq_false,
    Bool.and_eq_true, Bool.or_eq_true, decide_eq_true_eq, decide_eq_false_iff_not, beq_iff_eq, List.contains_eq_mem] at h
  tauto

/-- Which checks come first: SELFTEST and EN, then the window. -/
theorem cropRefusal_first {s : State} (q : CropReq) (hself : s.guard.selftestFail = false) :
    (cropRefusal s q = some 1 ↔ rb s 0x01030000 0 = false) ∧
      (cropRefusal s q = some 2 ↔ rb s 0x01030000 0 = true ∧ s.guard.windowOpen = false) := by
  have hlater (cs : List (Nat × Bool)) (n : Nat) (h : ∀ c ∈ cs, c.1 ≠ n) : ((cs.find? fun c => !c.2).map (·.1)) ≠ some n := by
    intro hsome
    obtain ⟨c, hc, rfl⟩ := Option.map_eq_some_iff.mp hsome
    exact h c (List.mem_of_find?_eq_some hc) rfl
  unfold cropRefusal
  dsimp only
  rw [firstFailing_cons, firstFailing_cons, hself]
  dsimp only
  cases hon : rb s 0x01030000 0 with
  | false => simp
  | true =>
    cases hopen : s.guard.windowOpen with
    | false => simp
    | true =>
      simp only [Bool.not_false, Bool.and_true, if_true, Bool.true_eq_false, iff_false, and_false]
      exact ⟨hlater _ 1 (by simp), hlater _ 2 (by simp)⟩

theorem cropLimit_le (s : State) : cropLimit s ≤ 4 := by
  unfold cropLimit
  omega

theorem sizeLimit_le (s : State) : sizeLimit s ≤ 256 := Nat.div_le_self _ _

/-! ### Crops that leave -/

/-- The crop at the head leaves the queue as its parcels are sent; what the guard has accepted stays counted. -/
theorem sendCrop_guard (s : State) (q : CropReq) :
    (sendCrop s q).guard = { s.guard with
      accepted := s.guard.accepted.drop 1, passed := mset 0 s.guard.passed q.index (1 + q.h * ((3 * q.w + 63) / 64)),
      delivered := s.guard.delivered + 1 } := by
  have hsent (ps : List (List Byte × Nat)) (x : List Byte × Nat → Parcel) (t : State) :
      (ps.foldl (fun t p => sendParcel t .eye (x p)) t).guard = t.guard :=
    foldl_keeps (P := fun u => u.guard = t.guard) (fun u p hu => (sendParcel_guard u _ _).trans hu) ps t rfl
  unfold sendCrop
  dsimp only
  rw [hsent]
  rfl

theorem exec_cropProcess_of_accepted {s : State} {q : CropReq} {qs : List CropReq} (h : s.guard.accepted = q :: qs) :
    exec .cropProcess s = .next (sendCrop s q) := by
  rw [exec_cropProcess, execCropProcess, h]

/-- The k-th piece of a list made of pieces of one length. -/
theorem take_drop_flatMap {α β : Type} (f : α → List β) (n : Nat) (hf : ∀ a, (f a).length = n) (as : List α) {k : Nat}
    (hk : k < as.length) : ((as.flatMap f).drop (n * k)).take n = f as[k] := by
  induction as generalizing k with
  | nil => exact absurd hk (Nat.not_lt_zero k)
  | cons a as ih =>
    rw [List.flatMap_cons]
    cases k with
    | zero => rw [Nat.mul_zero, List.drop_zero, List.take_left' (hf a), List.getElem_cons_zero]
    | succ k =>
      have hdrop : n * (k + 1) = (f a).length + n * k := by rw [hf, Nat.mul_succ, Nat.add_comm]
      rw [hdrop, List.drop_length_add_append, ih (Nat.lt_of_succ_lt_succ hk), List.getElem_cons_succ]

/-- A redacted pixel carries the colour of REDACT in its row (R405). -/
theorem cropRows_redacted {s : State} {q : CropReq} {y x : Nat} (hred : redacted q y x = true) (hy : y < q.h) (hx : x < q.w) :
    ∃ row, (cropRows s q)[y]? = some row ∧ (row.drop (3 * x)).take 3 =
      [BitVec.ofNat 8 (rf s 0x01030010 7 0), BitVec.ofNat 8 (rf s 0x01030010 15 8), BitVec.ofNat 8 (rf s 0x01030010 23 16)] := by
  unfold cropRows
  dsimp only
  refine ⟨_, by rw [List.getElem?_map, List.getElem?_range hy, Option.map_some], ?_⟩
  rw [take_drop_flatMap (k := x)]
  · rw [List.getElem_range, if_pos hred]
  · intro x
    split
    · rfl
    · rfl
  · rwa [List.length_range]

/-- Settles O42: the window's two ends, the request's checks, its refusal, the crop at the head of the queue and its redaction. -/
theorem cropsAndTheirResults : Obligations.CropsAndTheirResults := by
  unfold Obligations.CropsAndTheirResults
  refine ⟨fun f w e s s1 h hdie hunit => ?_, fun r x s s1 hp hr hvc hk htag heye => ?_, fun q s hself => ?_, fun q c s => ?_,
    fun s => ?_, fun q s => ?_, fun q y x s hred hy hx => cropRows_redacted hred hy hx, fun r x s s1 hp hr hvc hk => ?_⟩
  · have hframe := startRoiWindow_keeps (closed_sameBut 0x8001000 s1 rfl) (running s1 .eye 3 (launchedBy s1 w e)) .eye 3
      (launchedBy s1 w e) rfl
    refine ⟨_, exec_roiWindow_ready h hdie hunit, hframe, rfl, rfl, rfl, ?_⟩
    unfold startRoiWindow
    rw [unitOf_unitDone (by decide)]
    exact congrArg (fun x : UnitSt => (⟨none, x.queued⟩ : UnitSt)) (unitOf_running_of_ready h hdie hunit (by decide) _)
  · obtain ⟨htaken, hstream⟩ := exec_cropRequest_taken hp hr hvc hk htag heye
    refine ⟨fun hmask => ?_, fun hplain c hc => ?_, fun hplain hc => ?_, hstream⟩
    · rw [htaken, takeCropRequest_of_masked hmask]
    · rw [htaken, takeCropRequest_of_plain hplain, judgeCrop_of_refused hc]
    · rw [htaken, takeCropRequest_of_plain hplain, judgeCrop_of_accepted hc]
  · obtain ⟨hfirst, hsecond⟩ := cropRefusal_first q hself
    exact ⟨hfirst, hsecond, cropRefusal_eq_none, cropLimit_le s, sizeLimit_le s⟩
  · rw [refuseCrop_guard]
    exact ⟨rfl, rfl, rfl, rfl, rfl⟩
  · refine ⟨fun hclosed => ?_, exec_roiWindowClose_of_open⟩
    rw [exec_roiWindowClose, execRoiWindowClose, hclosed, if_neg Bool.false_ne_true]
  · refine ⟨fun hnone => ?_, fun hone => ?_⟩
    · rw [exec_cropProcess, execCropProcess, hnone]
    · refine ⟨_, exec_cropProcess_of_accepted hone, sendCrop_keeps (closed_sameBut 0x60209040000 s rfl) s q (SameBut.refl _ s), ?_⟩
      rw [sendCrop_guard, hone]
      exact ⟨rfl, rfl, rfl, sendCrop_keeps ((closed_mem s).sub (by decide)) s q rfl,
        sendCrop_keeps ((closed_regs s).sub (by decide)) s q rfl⟩
  · refine ⟨fun harg => ?_, fun harg hsvc => ?_⟩
    · rw [exec_roiResult, execRoiResult, onMsg_taken hp hr hvc hk harg]
    · rw [exec_egressBudget, execEgressBudget, onMsg_taken hp hr hvc hk harg, hsvc]
      rfl

end Sys2Proof.Proofs
end

section
/-! PROOF. Harvest as SVC runs it: what a write of HV_CMD leaves, how far the checkpoint writer gets in an epoch and what a flash
failure does to it, and the transitions of the state table (R423, R436–R438, R441, R443, R446). -/
namespace Sys2Proof.Proofs
open Sys2Proof Sys2Proof.Machine Sys2Proof.Laws

theorem exec_hvStart (p : Path) (v : Word) (s : State) :
    exec (.hvStart p v) s = .next (answer (hvCmdReg s p v).1 p 0x00040408 (hvCmdReg s p v).2) := rfl
theorem exec_hvCancel (p : Path) (v : Word) (s : State) :
    exec (.hvCancel p v) s = .next (answer (hvCmdReg s p v).1 p 0x00040408 (hvCmdReg s p v).2) := rfl
theorem exec_hvRevertBaseline (p : Path) (v : Word) (s : State) :
    exec (.hvRevertBaseline p v) s = .next (answer (hvCmdReg s p v).1 p 0x00040408 (hvCmdReg s p v).2) := rfl
theorem exec_harvestCheckpointWrite (ok : Bool) (s : State) :
    exec (.harvestCheckpointWrite ok) s = execHarvestCheckpointWrite ok s := rfl

/-! ### The command register -/

theorem hvCmdReg_of_wrong_key {v : Word} (h : wbits v 31 16 ≠ 0x4A57) (s : State) :
    hvCmdReg s .core v = (raise s 4 0 Code.hvCmdBad 1, .ok) := by
  unfold hvCmdReg
  rw [show hvPathOk s .core = true from rfl, Bool.not_true, if_neg Bool.false_ne_true, if_pos (bne_iff_ne.mpr h)]

/-- With its key a command is read by its OP field: START by the policy, CANCEL by whether a session runs, REVERT_BASELINE. -/
theorem hvCmdReg_of_key {v : Word} (h : wbits v 31 16 = 0x4A57) (s : State) :
    (wbits v 1 0 = 1 → hvCmdReg s .core v =
      if noHarvest s || !rb s 0x00040400 0 then (s, .policy) else (modHv s fun h => { h with startPending := true }, .ok)) ∧
    (wbits v 1 0 = 2 → hvCmdReg s .core v = (modHv s fun h => { h with cancelPending := hvRunning h.state }, .ok)) ∧
    (wbits v 1 0 = 3 → hvCmdReg s .core v = (modHv s fun h => { h with revertPending := true }, .ok)) := by
  have hpath : hvPathOk s .core = true := rfl
  unfold hvCmdReg
  rw [hpath, Bool.not_true, if_neg Bool.false_ne_true, h, bne_self_eq_false, if_neg Bool.false_ne_true]
  exact ⟨fun hop => by simp only [hop], fun hop => by simp only [hop], fun hop => by simp only [hop]⟩

theorem hvCmdReg_of_i2c_in_field {s : State} (h : inField s = true) (v : Word) : hvCmdReg s .i2c v = (s, .path) := by
  have hpath : hvPathOk s .i2c = false := congrArg not h
  unfold hvCmdReg
  rw [hpath, Bool.not_false, if_pos rfl]

/-! ### The checkpoint writer -/

section Writer
variable {s : State} {b : HarvestBlock} {cd : Nat} {w : Nat × Nat × Bool}

/-- With a checkpoint in hand the writer programs its next bytes, or flash fails. -/
theorem exec_harvestCheckpointWrite_of_writing (hb : hvBlock s = some b) (hcd : hvCd s = some cd) (hw : s.hv.writing = some w)
    (ok : Bool) : exec (.harvestCheckpointWrite ok) s =
      .next (if ok then writeCkpt s b w.1 w.2.1 w.2.2 else hvFlashFail (flashFailed s)) := by
  rw [exec_harvestCheckpointWrite, execHarvestCheckpointWrite, hb, hcd]
  dsimp only
  rw [hw]

theorem exec_harvestCheckpointWrite_frame {ok : Bool} {t : State} (h : exec (.harvestCheckpointWrite ok) s = .next t) :
    SameBut 0x28210000200 s t :=
  (execHarvestCheckpointWrite_keeps (closed_sameBut _ s rfl) ok s (SameBut.refl _ s)).of t h

theorem writeCkpt_of_no_room (h : s.hv.epochBytes = 16384) (slot done : Nat) (val : Bool) : writeCkpt s b slot done val = s := by
  unfold writeCkpt ckptRoom
  dsimp only
  rw [h, Nat.sub_self, Nat.zero_min, if_pos BEq.rfl]

/-- The checkpoint with its next n bytes programmed. -/
def ckptAdvanced (v : HarvestSt) (slot done n : Nat) (val : Bool) : HarvestSt :=
  { v with epochBytes := v.epochBytes + n, flashRetries := 0, writing := some (slot, done + n, val) }

/-- The bytes that a write programs: what the epoch allows of what is left (R437). -/
def ckptStep (v : HarvestSt) (b : HarvestBlock) (done : Nat) : Nat := min (16384 - v.epochBytes) (ckptLen b - done)

/-- While bytes are left after it, a write only advances the checkpoint. -/
theorem writeCkpt_hv_of_left {slot done : Nat} (val : Bool) (hroom : s.hv.epochBytes < 16384)
    (hleft : done + (16384 - s.hv.epochBytes) < ckptLen b) :
    (writeCkpt s b slot done val).hv = ckptAdvanced s.hv slot done (16384 - s.hv.epochBytes) val := by
  have hstep : min (ckptRoom s.hv) (ckptLen b - done) = 16384 - s.hv.epochBytes := by
    unfold ckptRoom
    omega
  unfold writeCkpt
  rw [hstep]
  dsimp only
  rw [if_neg (by rw [beq_iff_eq]; omega), if_pos hleft]
  rfl

theorem markCkpt_hv (s : State) (i st : Nat) :
    (markCkpt s i st).hv = if (ckptOf s.hv i).state = st then s.hv else modCkpt s.hv i fun c => { c with state := st } := by
  unfold markCkpt
  simp only [beq_iff_eq]
  split
  · rfl
  · rfl

theorem ckptOf_modCkpt (v : HarvestSt) (i : Nat) (f : Ckpt → Ckpt) : ckptOf (modCkpt v i f) i = f (ckptOf v i) := by
  unfold ckptOf modCkpt
  split
  · rfl
  · rfl

/-- A slot that is marked has the state it is marked with, and nothing else of the session changes. -/
theorem markCkpt_marked (s : State) (i st : Nat) :
    (ckptOf (markCkpt s i st).hv i).state = st ∧ (markCkpt s i st).hv.epochBytes = s.hv.epochBytes ∧
      (markCkpt s i st).hv.writing = s.hv.writing ∧ (markCkpt s i st).hv.state = s.hv.state := by
  rw [markCkpt_hv]
  split
  · next h => exact ⟨h, rfl, rfl, rfl⟩
  · unfold ckptOf modCkpt
    split
    · exact ⟨rfl, rfl, rfl, rfl⟩
    · exact ⟨rfl, rfl, rfl, rfl⟩

/-- The write of the last byte ends the checkpoint and marks its slot. -/
theorem writeCkpt_hv_of_last {slot done : Nat} (val : Bool) (hdone : done < ckptLen b)
    (hlast : ckptLen b ≤ done + (16384 - s.hv.epochBytes)) :
    (writeCkpt s b slot done val).hv.writing = none ∧
      (ckptOf (writeCkpt s b slot done val).hv slot).state = (if val then 2 else 1) ∧
      (writeCkpt s b slot done val).hv.epochBytes = s.hv.epochBytes + (ckptLen b - done) := by
  have hstep : min (ckptRoom s.hv) (ckptLen b - done) = ckptLen b - done := by
    unfold ckptRoom
    omega
  unfold writeCkpt
  rw [hstep]
  dsimp only
  rw [if_neg (by rw [beq_iff_eq]; omega), if_neg (by omega)]
  obtain ⟨hstate, hbytes, hwriting, -⟩ := markCkpt_marked
    (modHv (emit (modHv s fun v => ckptAdvanced v slot done (ckptLen b - done) val)
      (.flash (.checkpoint slot done (ckptLen b - done)))) fun v => { v with writing := none }) slot (if val then 2 else 1)
  exact ⟨hwriting, hstate, hbytes⟩

theorem hvFlashFail_hv_of_retry (h : s.hv.flashRetries < 3) :
    (hvFlashFail (flashFailed s)).hv = { s.hv with flashRetries := s.hv.flashRetries + 1 } := by
  unfold hvFlashFail
  rw [if_pos (show (flashFailed s).hv.flashRetries < 3 from h)]
  rfl

theorem hvFlashFail_hv_of_last (h : 3 ≤ s.hv.flashRetries) :
    (hvFlashFail (flashFailed s)).hv =
      { s.hv with flashRetries := 0, writing := none, logPos := 0, flashFailed := hvRunning s.hv.state } := by
  unfold hvFlashFail
  rw [if_neg (show ¬(flashFailed s).hv.flashRetries < 3 from Nat.not_lt.mpr h), raise_hv]
  rfl

theorem hvFlashFail_bus (s : State) : (hvFlashFail s).bus = s.bus := by
  unfold hvFlashFail
  split
  · rfl
  · rw [raise_bus]
    rfl

end Writer

/-! ### The state table -/

theorem hvTransition_of_adopted {s : State} {b : HarvestBlock} {cd : Nat} (h : s.hv.state = .adopt)
    (hsel : hvSel s b cd ≠ s.hv.headSel) (o : Bool) : hvTransition s b cd o = adopted s (hvSel s b cd) := by
  unfold hvTransition
  dsimp only
  rw [h, if_pos (show hvRunning .adopt = true from rfl), if_pos (by rw [BEq.rfl, Bool.true_and, bne_iff_ne]; exact hsel)]

/-- With the window open and nothing to stop it, a session goes on as its state says (Table 14.5). -/
theorem hvTransition_of_quiet {s : State} {b : HarvestBlock} {cd : Nat} (hopen : s.hv.windowOpen = true)
    (hcancel : s.hv.cancelPending = false) (hnan : s.hv.nan = false) (hflash : s.hv.flashFailed = false)
    (hsel : s.hv.state = .adopt → hvSel s b cd = s.hv.headSel) (o : Bool) :
    (s.hv.state = .validate → s.hv.passed = some true →
        hvTransition s b cd o = beginCkpt (modHv s fun v => { v with state := .checkpoint }) b cd true) ∧
      (s.hv.state = .validate → s.hv.passed = some false → hvTransition s b cd o = modHv s fun v => { v with state := .rollback }) ∧
      (s.hv.state = .checkpoint → hvTransition s b cd o = if ckptReady s.hv then modHv s fun v => { v with state := .adopt } else s) ∧
      (s.hv.state = .adopt → hvTransition s b cd o = s) := by
  refine ⟨fun h hpass => ?_, fun h hpass => ?_, fun h => ?_, fun h => ?_⟩
  · simp [hvTransition, h, hopen, hcancel, hnan, hflash, hvRunning, hpass]
  · simp [hvTransition, h, hopen, hcancel, hnan, hflash, hvRunning, hpass]
  · simp [hvTransition, h, hopen, hcancel, hnan, hflash, hvRunning]
  · simp [hvTransition, h, hopen, hcancel, hnan, hflash, hvRunning, hsel h]

/-- A checkpoint that begins leaves the session's state. -/
theorem beginCkpt_state (s : State) (b : HarvestBlock) (cd : Nat) (val : Bool) : (beginCkpt s b cd val).hv.state = s.hv.state := by
  obtain ⟨-, -, -, hstate⟩ := markCkpt_marked s (ckptSlot s.hv) 0
  rw [← hstate]
  unfold beginCkpt modHv modCkpt
  dsimp only
  split
  · rfl
  · rfl

theorem adopted_done (s : State) (sel : Bool) : (adopted s sel).hv.state = .done ∧ (adopted s sel).hv.outcome = 1 := ⟨rfl, rfl⟩

/-- Settles O44: the command register, the writer within its epoch, its failures, and the transitions. -/
theorem harvestCommandsAndStates : Obligations.HarvestCommandsAndStates := by
  unfold Obligations.HarvestCommandsAndStates
  refine ⟨fun v s => ?_, fun v s hfield => ?_, fun b cd slot done val s hb hcd hw hroom hdone => ?_,
    fun b cd w s hb hcd hw => ?_, fun ok s hnone => ?_, fun b cd o s hopen hcancel hnan hflash => ?_⟩
  · refine ⟨fun hkey => ?_, fun hkey hop hno => ?_, fun hkey hop hyes hen => ?_, fun hkey hop => ?_, fun hkey hop => ?_⟩
    · rw [exec_hvStart, hvCmdReg_of_wrong_key hkey]
      rfl
    · have hpolicy : (noHarvest s || !rb s 0x00040400 0) = true := by simpa using hno
      rw [exec_hvStart, (hvCmdReg_of_key hkey s).1 hop, if_pos hpolicy]
      rfl
    · have hgranted : ¬(noHarvest s || !rb s 0x00040400 0) = true := by simp [hyes, hen]
      rw [exec_hvStart, (hvCmdReg_of_key hkey s).1 hop, if_neg hgranted]
      rfl
    · rw [exec_hvCancel, (hvCmdReg_of_key hkey s).2.1 hop]
      rfl
    · rw [exec_hvRevertBaseline, (hvCmdReg_of_key hkey s).2.2 hop]
      rfl
  · rw [exec_hvStart, exec_hvCancel, exec_hvRevertBaseline, hvCmdReg_of_i2c_in_field hfield]
    exact ⟨rfl, rfl, rfl⟩
  · have hexec := exec_harvestCheckpointWrite_of_writing hb hcd hw true
    have hframe := exec_harvestCheckpointWrite_frame hexec
    rw [if_pos rfl] at hexec hframe
    have hmem := (execHarvestCheckpointWrite_keeps ((closed_mem s).sub (by decide)) true s rfl).of _ hexec
    have hledgers := (execHarvestCheckpointWrite_keeps ((closed_ledgers s).sub (by decide)) true s rfl).of _ hexec
    refine ⟨_, hexec, hframe, ?_⟩
    by_cases hleft : done + (16384 - s.hv.epochBytes) < ckptLen b
    · have hhv := writeCkpt_hv_of_left (slot := slot) val hroom hleft
      dsimp only at hhv ⊢
      rw [hhv]
      unfold ckptAdvanced
      dsimp only
      exact ⟨by omega, by omega, hmem, hledgers, fun _ => ⟨rfl, rfl, rfl⟩, fun hlast => absurd hleft (Nat.not_lt.mpr hlast)⟩
    · have hlast := Nat.not_lt.mp hleft
      obtain ⟨hwriting, hstate, hbytes⟩ := writeCkpt_hv_of_last (slot := slot) val hdone hlast
      dsimp only at hwriting hstate hbytes ⊢
      rw [hbytes]
      exact ⟨by omega, by omega, hmem, hledgers, fun h => absurd h hleft, fun _ => ⟨hwriting, hstate⟩⟩
  · have hfail := exec_harvestCheckpointWrite_of_writing hb hcd hw false
    have hframe := exec_harvestCheckpointWrite_frame hfail
    rw [if_neg Bool.false_ne_true] at hfail hframe
    refine ⟨fun hfull => ?_, fun hretry => ?_, fun hretries => ?_⟩
    · rw [exec_harvestCheckpointWrite_of_writing hb hcd hw true, if_pos rfl, writeCkpt_of_no_room hfull]
    · exact ⟨_, hfail, hframe, hvFlashFail_hv_of_retry hretry, by rw [hvFlashFail_bus]; rfl⟩
    · refine ⟨_, hfail, hframe, ?_⟩
      rw [hvFlashFail_hv_of_last hretries]
      exact ⟨rfl, rfl⟩
  · rw [exec_harvestCheckpointWrite, execHarvestCheckpointWrite, hnone]
  · by_cases hsel : s.hv.state = .adopt → hvSel s b cd = s.hv.headSel
    · obtain ⟨hpassed, hfailed, hcheckpoint, hadopt⟩ := hvTransition_of_quiet hopen hcancel hnan hflash hsel o
      refine ⟨fun h hpass => ?_, fun h hpass => ?_, fun h => ?_, fun h _ => ?_, fun h hne => absurd (hsel h) hne⟩
      · rw [hpassed h hpass]
        exact beginCkpt_state ..
      · rw [hfailed h hpass]
        rfl
      · rw [hcheckpoint h]
        split
        · rfl
        · exact h
      · rw [hadopt h]
        exact h
    · push Not at hsel
      obtain ⟨h, hne⟩ := hsel
      rw [hvTransition_of_adopted h hne]
      refine ⟨fun h' => ?_, fun h' => ?_, fun h' => ?_, fun _ heq => absurd heq hne, fun _ _ => adopted_done s _⟩
      · exact absurd (h.symm.trans h') (by decide)
      · exact absurd (h.symm.trans h') (by decide)
      · exact absurd (h.symm.trans h') (by decide)

end Sys2Proof.Proofs
end

section
/-! PROOF. The network: the best master, the peer delays, the address and its lease, a port's link changes and its hold, and what the
switch makes of a frame (R449–R455, R482, R485). -/
namespace Sys2Proof.Proofs
open Sys2Proof Sys2Proof.Machine Sys2Proof.Laws

theorem exec_announceReceive (p d : Nat) (md : MasterData) (s : State) :
    exec (.announceReceive p d md) s = execAnnounceReceive p d md s := rfl
theorem exec_announceReceiptTimeout (s : State) : exec .announceReceiptTimeout s = execAnnounceReceiptTimeout s := rfl
theorem exec_peerDelayMeasure (p : Nat) (ns : Word) (s : State) :
    exec (.peerDelayMeasure p ns) s = execPeerDelayMeasure p ns s := rfl
theorem exec_dhcpLeaseBound (l : Lease) (s : State) : exec (.dhcpLeaseBound l) s = execDhcpLeaseBound l s := rfl
theorem exec_dhcpTimeout (b : Bool) (s : State) : exec (.dhcpTimeout b) s = execDhcpTimeout b s := rfl
theorem exec_dhcpRenew (b : Bool) (l : Option Lease) (s : State) : exec (.dhcpRenew b l) s = execDhcpRenew b l s := rfl
theorem exec_leaseRetry (s : State) : exec .leaseRetry s = execLeaseRetry s := rfl
theorem exec_addrConflict (s : State) : exec .addrConflict s = execAddrConflict s := rfl
theorem exec_phyLinkChange (p : Nat) (up fdx : Bool) (s : State) : exec (.phyLinkChange p up fdx) s = execPhyLinkChange p up fdx s := rfl
theorem exec_portHoldEnd (p : Nat) (s : State) : exec (.portHoldEnd p) s = execPortHoldEnd p s := rfl
theorem exec_frameForward (f : Sys2Proof.Frame) (s : State) : exec (.frameForward f) s = execFrameForward f s := rfl
theorem exec_addressTableAgeing (mac : BitVec 48) (s : State) : exec (.addressTableAgeing mac) s = execAddressTableAgeing mac s := rfl

/-- A command for a unit that is there. -/
theorem onUnit_of {ok : Bool} (h : ok = true) (s : State) : onUnit ok s = .next s := if_pos h

/-! ### The best master -/

/-- With both links up each port's announced master counts, and the better one's port is the slave. -/
theorem selectMaster_of_linked {s : State} (h0 : s.net.linkP0 = true) (h1 : s.net.linkP1 = true) :
    (selectMaster s).net.master0 = s.net.master0 ∧ (selectMaster s).net.master1 = s.net.master1 ∧
      (∀ m0, s.net.master0 = some m0 → s.net.master1 = none → (selectMaster s).net.slave = some 0) ∧
      (∀ m0 m1, s.net.master0 = some m0 → s.net.master1 = some m1 →
        (selectMaster s).net.slave = if betterMaster m1 m0 then some 1 else some 0) := by
  unfold selectMaster
  dsimp only [modNet_net]
  rw [h0, h1, if_pos rfl, if_pos rfl]
  exact ⟨rfl, rfl, fun m0 h0 h1 => by rw [h0, h1], fun m0 m1 h0 h1 => by rw [h0, h1]⟩

/-- A port without an announced master is not the slave port. -/
theorem selectMaster_given_up (s : State) :
    (s.net.master0 = none → (selectMaster s).net.master0 = none ∧ (selectMaster s).net.slave ≠ some 0) ∧
      (s.net.master1 = none → (selectMaster s).net.master1 = none ∧ (selectMaster s).net.slave ≠ some 1) := by
  unfold selectMaster
  dsimp only [modNet_net]
  refine ⟨fun h => ?_, fun h => ?_⟩
  · rw [h, ite_self]
    refine ⟨rfl, ?_⟩
    split <;> simp_all
  · rw [h, ite_self]
    refine ⟨rfl, ?_⟩
    split <;> simp_all

theorem exec_announceReceiptTimeout_of_slave {s : State} {p : Nat} (h : s.net.slave = some p) :
    exec .announceReceiptTimeout s = .next (selectMaster
      (modNet s fun n => if p == 0 then { n with master0 := none } else { n with master1 := none })) := by
  rw [exec_announceReceiptTimeout, execAnnounceReceiptTimeout, h]

/-! ### Addresses -/

/-- A link-local address lies in 169.254/16 and is probed (R455). -/
theorem takeLinkLocal_net (s : State) :
    (takeLinkLocal s).net.addr = .linkLocal ∧ wbits (takeLinkLocal s).net.ip 31 16 = 0xA9FE ∧ (takeLinkLocal s).net.gw = 0 ∧
      (takeLinkLocal s).out = s.out ++ [.arp (takeLinkLocal s).net.ip] := by
  refine ⟨rfl, ?_, rfl, rfl⟩
  have hip : (takeLinkLocal s).net.ip = toWord (0xA9FE0000 + (fresh s).1 % 65536) := rfl
  rw [hip]
  generalize (fresh s).1 = n
  unfold wbits bits toWord
  rw [BitVec.toNat_ofNat]
  omega

/-- A link-local address is taken and the event raised with it. -/
theorem raise_takeLinkLocal (s : State) (d u : Nat) (c : Nat) (sev : Nat) :
    (raise (takeLinkLocal s) d u c sev).net.addr = .linkLocal ∧ wbits (raise (takeLinkLocal s) d u c sev).net.ip 31 16 = 0xA9FE ∧
      (raise (takeLinkLocal s) d u c sev).net.gw = 0 ∧
      (raise (takeLinkLocal s) d u c sev).out = s.out ++ [.arp (raise (takeLinkLocal s) d u c sev).net.ip] := by
  rw [raise_net, raise_out]
  exact takeLinkLocal_net s

/-! ### Link changes -/

theorem linksGone_net (s : State) : (linksGone s).net = s.net := by
  unfold linksGone
  dsimp only
  rw [raise_net]
  split
  · exact enterHoldover_keeps ((closed_net s).sub (by decide)) s rfl
  · rfl

/-- A link that goes down loses its port and nothing of the other's hold or counters. -/
theorem linkDownNow_one_net {s : State} (hup : s.net.linkP1 = true) :
    (linkDownNow s 1).net.linkP1 = false ∧ (linkDownNow s 1).net.held1 = s.net.held1 ∧
      (linkDownNow s 1).net.held0 = s.net.held0 ∧ (linkDownNow s 1).net.linkChg1 = s.net.linkChg1 := by
  have hport : portUpNet s 1 = true := hup
  unfold linkDownNow
  rw [hport, Bool.not_true, if_neg Bool.false_ne_true]
  dsimp only
  split
  · exact ⟨rfl, rfl, rfl, rfl⟩
  · rw [linksGone_net]
    exact ⟨rfl, rfl, rfl, rfl⟩

section PortOne
variable {s : State} (fdx : Bool)

/-- The network after port 1 has come up and its change has been counted. -/
def portOneUp (s : State) (fdx : Bool) : NetSt :=
  { s.net with linkP1 := true, fdxP1 := fdx, chg1 := portChanges s 1, linkChg1 := satAdd 65535 s.net.linkChg1 1 }

theorem linkUpNow_one (hever : s.net.everLinked = true) :
    linkUpNow s 1 fdx = { s with net := { s.net with linkP1 := true, fdxP1 := fdx } } := by
  have hstate : linkUpNow s 1 fdx = { s with net := { s.net with linkP1 := true, fdxP1 := fdx, everLinked := true } } := by
    unfold linkUpNow
    rw [hever, Bool.true_or, if_pos rfl]
    rfl
  rw [hstate, ← hever]

/-- Port 1 comes up: its change is counted, and the eleventh within 60 s takes it down again and holds it. -/
theorem exec_phyLinkChange_one (hon : netOn s = true) (hen : rb s 0x00050000 2 = true) (hheld : s.net.held1 = false)
    (hdown : s.net.linkP1 = false) (hever : s.net.everLinked = true) :
    exec (.phyLinkChange 1 true fdx) s = .next (
      if (portChanges s 1).length ≤ 10 then { s with net := portOneUp s fdx }
      else linkDownNow (modNet (raise { s with net := portOneUp s fdx } 6 0 Code.portFlap 1) fun n =>
        { n with held1 := true, chg1 := [] }) 1) := by
  have hport : portUpNet s 1 = false := hdown
  have hhold : portHeld s 1 = false := hheld
  rw [exec_phyLinkChange, execPhyLinkChange, onUnit_of (by decide), hon, hport, hhold, if_neg (by rw [hen]; decide), if_pos rfl,
    linkUpNow_one fdx hever]
  rfl

end PortOne

theorem exec_phyLinkChange_idle {p : Nat} {up : Bool} {s : State} (hp : p < 2) (fdx : Bool)
    (h : netOn s = false ∨ rb s 0x00050000 (1 + p) = false ∨ portHeld s p = true ∨ portUpNet s p = up) :
    exec (.phyLinkChange p up fdx) s = .next s := by
  rw [exec_phyLinkChange, execPhyLinkChange, onUnit_of (decide_eq_true hp), if_pos]
  simpa [or_assoc] using h

/-! ### Frames at the switch -/

theorem learn_length {t : List AddrEntry} (f : Sys2Proof.Frame) (h : t.length ≤ 256) : (learn t f).length ≤ 256 := by
  have hrest := List.length_filter_le (fun e : AddrEntry => e.mac != f.src) t
  unfold learn
  dsimp only
  split
  · exact hrest.trans h
  · next hroom =>
    rw [List.length_append, List.length_singleton]
    exact Nat.lt_of_not_le hroom

theorem queueOf_lt (f : Sys2Proof.Frame) : queueOf f < 4 := by
  unfold queueOf
  split_ifs
  · decide
  · decide
  · decide
  · split
    · exact Nat.mod_lt _ (by decide)
    · decide
  · decide

section Switch
variable {s : State} {f : Sys2Proof.Frame} (hon : netOn s = true) (hin : f.inPort < 3) (hup : portUpNet s f.inPort = true)
include hon hin hup

theorem exec_frameForward_of_bad (hbad : f.fcsOk = false ∨ f.len < 64 ∨ 1522 < f.len) :
    exec (.frameForward f) s = .next { s with net := { s.net with refusedFrames := satAdd 65535 s.net.refusedFrames 1 } } := by
  rw [exec_frameForward, execFrameForward, onUnit_of (decide_eq_true hin), hon, hup, if_neg (by decide),
    if_pos (by simpa [or_assoc] using hbad)]
  rfl

/-- A good frame is counted and its source learned; then it leaves, or is dropped for want of room. -/
theorem exec_frameForward_of_good (hfcs : f.fcsOk = true) (hmin : 64 ≤ f.len) (hmax : f.len ≤ 1522) :
    exec (.frameForward f) s = .next (
      if !f.room then modNet (modNet s fun n => countRx { n with table := learn n.table f } f.inPort) fun n =>
        { n with overflowDrops := satAdd 65535 n.overflowDrops 1 }
      else emit (modNet s fun n => countRx { n with table := learn n.table f } f.inPort) (.frame (egressOf s f) (queueOf f)
        (if f.inPort == 2 && rb s 0x00050000 7 then { f with vlanPcp := some (pcpOf (queueOf f)) } else f) (correctionOf s f))) := by
  rw [exec_frameForward, execFrameForward, onUnit_of (decide_eq_true hin), hon, hup, if_neg (by decide),
    if_neg (by simp [hfcs, hmin, hmax])]

end Switch

/-- Counting a received frame changes the receive counters alone. -/
theorem countRx_keeps (n : NetSt) (p : Nat) :
    (countRx n p).table = n.table ∧ (countRx n p).overflowDrops = n.overflowDrops := by
  unfold countRx
  split_ifs
  · exact ⟨rfl, rfl⟩
  · exact ⟨rfl, rfl⟩
  · exact ⟨rfl, rfl⟩

/-- Settles O45, command by command. -/
theorem networkCommands : Obligations.NetworkCommands := by
  unfold Obligations.NetworkCommands
  refine ⟨fun md s h0 h1 hptp => ?_, fun p d md s hp hno => ?_, fun s => ?_, fun ns s => ?_, fun l s hon hdhcp => ?_,
    fun l b s => ?_, fun p up fdx s hp hno => exec_phyLinkChange_idle hp fdx hno, fun fdx s hon hen hheld hdown hever => ?_,
    fun s => ⟨rfl, rfl⟩, fun f s hon hin hup => ?_, fun f t ht => ?_, fun mac s => ?_⟩
  · have hport : portUpNet s 0 = true := h0
    have hexec : exec (.announceReceive 0 (rf s 0x00050000 14 8) md) s =
        .next (selectMaster (modNet s fun n => { n with master0 := some md })) := by
      rw [exec_announceReceive, execAnnounceReceive, onUnit_of (by decide), hport, hptp, bne_self_eq_false, if_neg (by decide)]
      rfl
    obtain ⟨hm0, hm1, hfirst, hboth⟩ := selectMaster_of_linked (s := modNet s fun n => { n with master0 := some md }) h0 h1
    exact ⟨_, hexec, (execAnnounceReceive_keeps (closed_sameBut 0x20000000 s rfl) _ _ _ s (SameBut.refl _ s)).of _ hexec, hm0, hm1,
      hfirst md rfl, fun m1 => hboth md m1 rfl⟩
  · rw [exec_announceReceive, execAnnounceReceive, onUnit_of (decide_eq_true hp), if_pos (by simpa [or_assoc] using hno)]
  · refine ⟨fun h => ?_, fun h => ?_, fun h => ?_⟩
    · rw [exec_announceReceiptTimeout, execAnnounceReceiptTimeout, h]
    · have hexec := exec_announceReceiptTimeout_of_slave h
      obtain ⟨hgone, hother⟩ := (selectMaster_given_up (modNet s fun n => { n with master0 := none })).1 rfl
      exact ⟨_, hexec, hgone, hother,
        (execAnnounceReceiptTimeout_keeps (closed_sameBut 0x20000000 s rfl) s (SameBut.refl _ s)).of _ hexec⟩
    · have hexec := exec_announceReceiptTimeout_of_slave h
      obtain ⟨hgone, hother⟩ := (selectMaster_given_up (modNet s fun n => { n with master1 := none })).2 rfl
      exact ⟨_, hexec, hgone, hother,
        (execAnnounceReceiptTimeout_keeps (closed_sameBut 0x20000000 s rfl) s (SameBut.refl _ s)).of _ hexec⟩
  · refine ⟨fun h0 => ?_, fun h1 => ?_⟩
    · rw [exec_peerDelayMeasure, execPeerDelayMeasure, onUnit_of (by decide), show portUpNet s 0 = true from h0]
      rfl
    · rw [exec_peerDelayMeasure, execPeerDelayMeasure, onUnit_of (by decide), show portUpNet s 1 = true from h1]
      rfl
  · have htimeout (expired : Bool) (h : s.net.addr = if expired then .dhcp else .none) :
        exec (.dhcpTimeout expired) s = .next (raise (takeLinkLocal s) 6 0 Code.addrLinkLocal 1) := by
      rw [exec_dhcpTimeout, execDhcpTimeout, hon, hdhcp, h, bne_self_eq_false, if_neg (by decide)]
    obtain ⟨haddr, hip, hgw, hout⟩ := raise_takeLinkLocal s 6 0 Code.addrLinkLocal 1
    refine ⟨fun hlink => ?_, fun hnone => ?_, fun hlease => ?_⟩
    · rw [exec_dhcpLeaseBound, execDhcpLeaseBound, hon, hdhcp, hlink]
      rfl
    · exact ⟨_, htimeout false hnone, (execDhcpTimeout_keeps (closed_sameBut 0x20220000208 s rfl) _ s (SameBut.refl _ s)).of _
        (htimeout false hnone), haddr, hip, hout⟩
    · exact ⟨_, htimeout true hlease, (execDhcpTimeout_keeps (closed_sameBut 0x20220000208 s rfl) _ s (SameBut.refl _ s)).of _
        (htimeout true hlease), haddr, hgw⟩
  · refine ⟨fun h => ?_, fun h => ?_, fun h => ?_⟩
    · rw [exec_dhcpRenew, execDhcpRenew, exec_dhcpRenew, execDhcpRenew, h]
      exact ⟨rfl, rfl⟩
    · have hconflict : exec .addrConflict s = .next (raise (takeLinkLocal s) 6 0 Code.addrConflict 1) := by
        rw [exec_addrConflict, execAddrConflict, h, if_pos BEq.rfl]
      obtain ⟨haddr, -, -, hout⟩ := raise_takeLinkLocal s 6 0 Code.addrConflict 1
      rw [exec_leaseRetry, execLeaseRetry, h, if_pos BEq.rfl]
      exact ⟨rfl, _, hconflict, (execAddrConflict_keeps (closed_sameBut 0x20220000208 s rfl) s (SameBut.refl _ s)).of _ hconflict,
        haddr, hout⟩
    · rw [exec_leaseRetry, execLeaseRetry, exec_addrConflict, execAddrConflict, if_neg (mt beq_iff_eq.mp h),
        if_neg (mt beq_iff_eq.mp h)]
      exact ⟨rfl, rfl⟩
  · have hexec := exec_phyLinkChange_one fdx hon hen hheld hdown hever
    have hframe := (execPhyLinkChange_keeps (closed_sameBut 0x20220000600 s rfl) _ _ _ s (SameBut.refl _ s)).of _ hexec
    refine ⟨fun hfew => ?_, fun hmany => ?_⟩
    · rw [hexec, if_pos hfew]
      rfl
    · rw [if_neg (Nat.not_le.mpr hmany)] at hexec hframe
      obtain ⟨hlink, hheld1, hheld0, hchg⟩ := linkDownNow_one_net (s := modNet
        (raise { s with net := portOneUp s fdx } 6 0 Code.portFlap 1) fun n => { n with held1 := true, chg1 := [] })
        (by rw [modNet_net, raise_net]; rfl)
      rw [modNet_net, raise_net] at hheld1 hheld0 hchg
      exact ⟨_, hexec, hframe, hheld1, hlink, hchg, hheld0⟩
  · refine ⟨exec_frameForward_of_bad hon hin hup, fun hfcs hmin hmax hroom => ?_, fun hfcs hmin hmax hroom hport => ?_⟩
    · have hexec := exec_frameForward_of_good hon hin hup hfcs hmin hmax
      rw [hroom, Bool.not_false, if_pos rfl] at hexec
      obtain ⟨htable, hdrops⟩ := countRx_keeps { s.net with table := learn s.net.table f } f.inPort
      exact ⟨_, hexec, (execFrameForward_keeps (closed_sameBut 0x20000200 s rfl) _ s (SameBut.refl _ s)).of _ hexec,
        congrArg (satAdd 65535 · 1) hdrops, rfl, htable⟩
    · have hexec := exec_frameForward_of_good hon hin hup hfcs hmin hmax
      rw [hroom, Bool.not_true, if_neg Bool.false_ne_true, if_neg (by simp; omega)] at hexec
      obtain ⟨htable, hdrops⟩ := countRx_keeps { s.net with table := learn s.net.table f } f.inPort
      exact ⟨_, hexec, (execFrameForward_keeps (closed_sameBut 0x20000200 s rfl) _ s (SameBut.refl _ s)).of _ hexec, rfl, hdrops,
        htable⟩
  · refine ⟨fun hptp => ?_, queueOf_lt f, learn_length f ht⟩
    unfold queueOf
    rw [hptp, if_pos rfl]
  · refine ⟨_, rfl, rfl, fun e he => ?_, fun e he hne => List.mem_filter.mpr ⟨he, bne_iff_ne.mpr hne⟩⟩
    exact bne_iff_ne.mp (List.mem_filter.mp he).2

end Sys2Proof.Proofs
end

section
/-! PROOF. BCP: what a request passes on its way to its meaning, what its acceptance leaves of the state, and what an answer leaves
(R457–R462, R465, R470). -/
namespace Sys2Proof.Proofs
open Sys2Proof Sys2Proof.Machine Sys2Proof.Laws

/-! ### The record of sessions and rates -/

/-- Of BCP's state nothing differs between b and c but the sessions, the counts of requests and the end of the lease. -/
def SameButSessions (b c : BcpSt) : Prop :=
  c = { b with sessions := c.sessions, second := c.second, inSecond := c.inSecond, msgs := c.msgs, leaseEnd := c.leaseEnd }

theorem SameButSessions.refl (b : BcpSt) : SameButSessions b b := rfl

theorem SameButSessions.trans {b c d : BcpSt} (h : SameButSessions b c) (h' : SameButSessions c d) : SameButSessions b d := by
  unfold SameButSessions at *
  rw [h', h]

/-- What the election, the keys and the configuration read of BCP's state is what it was. -/
theorem SameButSessions.fields {b c : BcpSt} (h : SameButSessions b c) :
    c.election = b.election ∧ c.owner = b.owner ∧ c.prev = b.prev ∧ c.successor = b.successor ∧ c.held = b.held ∧
      c.changes = b.changes ∧ c.authFail = b.authFail ∧ c.storeKey = b.storeKey ∧ c.serviceKey = b.serviceKey ∧ c.kgen = b.kgen ∧
      c.runtime = b.runtime ∧ c.access = b.access := by
  rw [h]
  exact ⟨rfl, rfl, rfl, rfl, rfl, rfl, rfl, rfl, rfl, rfl, rfl, rfl⟩

theorem modSession_bcp (s : State) (host : DWord) (f : Session → Session) : SameButSessions s.bcp (modSession s host f).bcp := rfl

theorem rateAll_bcp (s : State) : SameButSessions s.bcp (rateAll s).2.bcp := by
  unfold rateAll
  dsimp only
  generalize (if s.bcp.second == s.now / secNs 1 then s.bcp.inSecond else 0) = n
  split
  · exact rfl
  · exact rfl

theorem rateSession_bcp (s : State) (x : Session) : SameButSessions s.bcp (rateSession s x).2.bcp := by
  unfold rateSession
  dsimp only
  generalize (if x.second == s.now / secNs 1 then x.inSecond else 0) = n
  split
  · exact modSession_bcp ..
  · exact .refl _

theorem renewLease_bcp (s : State) (host : DWord) : SameButSessions s.bcp (renewLease s host).bcp := by
  unfold renewLease
  split
  · exact rfl
  · exact rfl

theorem renewLease_of_owner {s : State} {host : DWord} (h : isOwner s host = true) :
    (renewLease s host).bcp.leaseEnd = s.now + secNs 10 := by
  unfold renewLease
  rw [if_pos h]
  rfl

/-- The state in which a request has been counted and its SEQ taken. -/
def askCounted (s : State) (a : Ask) : State :=
  modBcp (modSession s a.host fun x => { x with
    highest := if x.highest < a.m.seq then a.m.seq else x.highest, kept := keepEight x.kept a.m.seq }) fun b => { b with msgs := b.msgs + 1 }

theorem acceptAsk_eq (s : State) (a : Ask) : acceptAsk s a = renewLease (askCounted s a) a.host := rfl

theorem askCounted_bcp (s : State) (a : Ask) : SameButSessions s.bcp (askCounted s a).bcp := rfl

theorem acceptAsk_bcp (s : State) (a : Ask) : SameButSessions s.bcp (acceptAsk s a).bcp := by
  rw [acceptAsk_eq]
  exact (askCounted_bcp s a).trans (renewLease_bcp _ a.host)

section Accepted
variable (s : State) (m : BcpEnv) (typ : Nat) (x : Session)

theorem acceptedState_bcp : SameButSessions s.bcp (acceptedState s m typ x).bcp :=
  (modSession_bcp s x.host _).trans ((rateAll_bcp _).trans ((rateSession_bcp _ x).trans (acceptAsk_bcp _ _)))

/-- A request that is accepted changes BCP's state and nothing else. -/
theorem acceptedState_eq : acceptedState s m typ x = { s with bcp := (acceptedState s m typ x).bcp } :=
  acceptAsk_keeps (closed_sameBut 0x40000000 s rfl) _ _ (rateSession_keeps (closed_sameBut 0x40000000 s rfl) _ _
    (rateAll_keeps (closed_sameBut 0x40000000 s rfl) _ (hearFrom_keeps (closed_sameBut 0x40000000 s rfl) s _ _ (SameBut.refl _ s))))

theorem acceptedState_out : (acceptedState s m typ x).out = s.out := by rw [acceptedState_eq]
theorem acceptedState_now : (acceptedState s m typ x).now = s.now := by rw [acceptedState_eq]
theorem acceptedState_regs : (acceptedState s m typ x).regs = s.regs := by rw [acceptedState_eq]
theorem acceptedState_mem : (acceptedState s m typ x).mem = s.mem := by rw [acceptedState_eq]
theorem acceptedState_seqr : (acceptedState s m typ x).seqr = s.seqr := by rw [acceptedState_eq]
theorem acceptedState_log : (acceptedState s m typ x).log = s.log := by rw [acceptedState_eq]
theorem acceptedState_stage : (acceptedState s m typ x).stage = s.stage := by rw [acceptedState_eq]
theorem acceptedState_power : (acceptedState s m typ x).power = s.power := by rw [acceptedState_eq]
theorem acceptedState_flash : (acceptedState s m typ x).flash = s.flash := by rw [acceptedState_eq]
theorem acceptedState_boot : (acceptedState s m typ x).boot = s.boot := by rw [acceptedState_eq]
theorem acceptedState_sw : (acceptedState s m typ x).sw = s.sw := by rw [acceptedState_eq]

theorem acceptedState_election : (acceptedState s m typ x).bcp.election = s.bcp.election := (acceptedState_bcp s m typ x).fields.1
theorem acceptedState_owner : (acceptedState s m typ x).bcp.owner = s.bcp.owner := (acceptedState_bcp s m typ x).fields.2.1

theorem isOwner_of_bcp {t u : State} (he : t.bcp.election = u.bcp.election) (ho : t.bcp.owner = u.bcp.owner) (host : DWord) :
    isOwner t host = isOwner u host := by
  unfold isOwner
  rw [he, ho]

theorem isOwner_acceptedState (host : DWord) : isOwner (acceptedState s m typ x) host = isOwner s host :=
  isOwner_of_bcp (acceptedState_election s m typ x) (acceptedState_owner s m typ x) host

/-- The owner's request sets its lease to end 10 s later (R470). -/
theorem acceptedState_leaseEnd (h : isOwner s x.host = true) : (acceptedState s m typ x).bcp.leaseEnd = s.now + 10000000000 := by
  have hbefore := (modSession_bcp s x.host _).trans ((rateAll_bcp (hearFrom s x.host m)).trans (rateSession_bcp _ x))
  obtain ⟨helection, howner, -⟩ := (hbefore.trans (askCounted_bcp _ (askNow s m typ x))).fields
  have hnow : (rateSession (rateAll (hearFrom s x.host m)).2 x).2.now = s.now :=
    rateSession_keeps ((closed_now s).sub (by decide)) _ _ (rateAll_keeps ((closed_now s).sub (by decide)) _ rfl)
  have hown : isOwner (askCounted (rateSession (rateAll (hearFrom s x.host m)).2 x).2 (askNow s m typ x)) x.host = true :=
    (isOwner_of_bcp helection howner _).trans h
  have hcounted : (askCounted (rateSession (rateAll (hearFrom s x.host m)).2 x).2 (askNow s m typ x)).now = s.now := hnow
  have hten : secNs 10 = 10000000000 := rfl
  have hlease := renewLease_of_owner hown
  rw [hcounted, hten] at hlease
  exact hlease

end Accepted

/-! ### The gate -/

/-- A message whose layout is read needs no free value to be authentic or not. -/
theorem authOk_state (s : State) {m : BcpEnv} (h : m.lenOk = true) (typ : Nat) (payload : List Byte) (nonce : BitVec 128) :
    (authOk s m typ payload nonce).2 = s := by
  unfold authOk
  split
  · rfl
  · rw [if_pos h]
  · rfl

section Gate
variable {s : State} {m : BcpEnv} {typ : Nat} {payload : List Byte} {x : Session} (f : State → Ask → State)

/-- A request of a session that BCP serves, whole and authentic, comes to the gate of its session. -/
theorem onBcp_of_authentic (hserves : bcpServes s m = true) (hheader : m.headerOk = true) (hversion : m.version = 1)
    (hlen : m.lenOk = true) (hses : sessionOf s m.sender = some x) (hauth : (authOk s m typ payload x.nonce).1 = true) (own : Bool) :
    onBcp s m typ payload own f = .next (sessionGate (hearFrom s x.host m) x (askNow s m typ x)
      (if own then fun s a => ownerGate s a f else f)) := by
  unfold onBcp
  rw [hserves, hheader, hses]
  dsimp only
  rw [hauth, hversion, hlen, authOk_state s hlen]
  rfl

/-- A SEQ that is new and above the highest, within the rates, is accepted. -/
theorem sessionGate_of_new {t : State} {a : Ask} (hnew : x.kept.find? (fun e => e.1 == a.m.seq) = none) (hseq : x.highest < a.m.seq)
    (hall : (rateAll t).1 = true) (hone : (rateSession (rateAll t).2 x).1 = true) :
    sessionGate t x a f = f (acceptAsk (rateSession (rateAll t).2 x).2 a) a := by
  unfold sessionGate
  rw [hnew]
  dsimp only
  rw [hall, hone, if_neg (by simpa using hseq)]
  rfl

theorem onBcp_accepted (h : BcpAccepts s m typ payload x) :
    onBcp s m typ payload false f = .next (f (acceptedState s m typ x) (askNow s m typ x)) := by
  obtain ⟨hserves, hheader, hversion, hlen, hses, hauth, hnew, hseq, hall, hone⟩ := h
  rw [onBcp_of_authentic f hserves hheader hversion hlen hses hauth, sessionGate_of_new _ hnew hseq hall hone]
  rfl

theorem onBcp_accepted_gated (h : BcpAccepts s m typ payload x) :
    onBcp s m typ payload true f = .next (ownerGate (acceptedState s m typ x) (askNow s m typ x) f) := by
  obtain ⟨hserves, hheader, hversion, hlen, hses, hauth, hnew, hseq, hall, hone⟩ := h
  rw [onBcp_of_authentic f hserves hheader hversion hlen hses hauth, sessionGate_of_new _ hnew hseq hall hone]
  rfl

theorem onBcp_not_owner (h : BcpAccepts s m typ payload x) (hown : isOwner s x.host = false) :
    onBcp s m typ payload true f = .next (refuse (acceptedState s m typ x) (askNow s m typ x) 1) := by
  have hgate : isOwner (acceptedState s m typ x) (askNow s m typ x).host = false := (isOwner_acceptedState ..).trans hown
  rw [onBcp_accepted_gated f h]
  unfold ownerGate
  rw [hgate, Bool.not_false, if_pos rfl]

theorem onBcp_wrong_level (h : BcpAccepts s m typ payload x) (htyp : typ ≠ 0x30) (hown : isOwner s x.host = true)
    (hlevel : s.bcp.owner.map (·.level) ≠ some (levelOf m)) :
    onBcp s m typ payload true f = .next (refuse (acceptedState s m typ x) (askNow s m typ x) 2) := by
  have hgate : isOwner (acceptedState s m typ x) (askNow s m typ x).host = true := (isOwner_acceptedState ..).trans hown
  rw [onBcp_accepted_gated f h]
  unfold ownerGate
  rw [hgate, acceptedState_owner, Bool.not_true, if_neg Bool.false_ne_true,
    if_pos (Bool.and_eq_true_iff.mpr ⟨bne_iff_ne.mpr (show (askNow s m typ x).typ ≠ 0x30 from htyp),
      bne_iff_ne.mpr (show _ ≠ some (levelOf (askNow s m typ x).m) from hlevel)⟩)]

/-- An owner's request at the level of its claim comes to its meaning. -/
theorem onBcp_owner (h : OwnerAsks s m typ payload x) :
    onBcp s m typ payload true f = .next (f (acceptedState s m typ x) (askNow s m typ x)) := by
  obtain ⟨haccepts, hown, hlevel⟩ := h
  have hgate : isOwner (acceptedState s m typ x) (askNow s m typ x).host = true := (isOwner_acceptedState ..).trans hown
  have hsame : ((acceptedState s m typ x).bcp.owner.map (·.level) != some (levelOf (askNow s m typ x).m)) = false := by
    rw [acceptedState_owner, hlevel]
    exact bne_self_eq_false _
  rw [onBcp_accepted_gated f haccepts]
  unfold ownerGate
  rw [hgate, Bool.not_true, if_neg Bool.false_ne_true, hsame, Bool.and_false, if_neg Bool.false_ne_true]

end Gate

/-! ### Answers -/

section Answers
variable (s : State) (a : Ask) (status : Nat) (body : List Byte)

theorem bcpEmit_bcp (ip : Word) (port : Nat) (bs : List Byte) : (bcpEmit s ip port bs).bcp = s.bcp := by
  unfold bcpEmit
  split
  · rfl
  · rfl

/-- An answer changes BCP's state only in that its session may keep it. -/
theorem reply_bcp : (reply s a status body).bcp = { s.bcp with sessions := (reply s a status body).bcp.sessions } := by
  unfold reply
  dsimp only
  rw [bcpEmit_bcp]
  split
  · rfl
  · rfl

/-- An answer that belongs to no session leaves BCP's state. -/
theorem reply_bcp_of_no_session (h : a.live = false) : (reply s a status body).bcp = s.bcp := by
  unfold reply
  dsimp only
  rw [bcpEmit_bcp, h, Bool.false_and, if_neg Bool.false_ne_true]

theorem refuse_bcp : (refuse s a status).bcp = { s.bcp with sessions := (refuse s a status).bcp.sessions } := reply_bcp s a status _

theorem refuse_regs : (refuse s a status).regs = s.regs := reply_regs ..

end Answers

end Sys2Proof.Proofs
end

section
/-! PROOF. Sessions and register messages: how a session opens and ends, what is dropped and what is refused, and how a message of one
word or pair is carried out and answered (R457–R465). -/
namespace Sys2Proof.Proofs
open Sys2Proof Sys2Proof.Machine Sys2Proof.Laws

theorem exec_hello (m : BcpEnv) (host : DWord) (hn : BitVec 128) (s : State) : exec (.hello m host hn) s = execHello m host hn s := rfl
theorem exec_read (m : BcpEnv) (a : Word) (n : Nat) (s : State) : exec (.read m a n) s = execRead m a n s := rfl
theorem exec_read64 (m : BcpEnv) (a : Word) (n : Nat) (s : State) : exec (.read64 m a n) s = execRead64 m a n s := rfl
theorem exec_write (m : BcpEnv) (a : Word) (ws : List Word) (s : State) : exec (.write m a ws) s = execWrite m a ws s := rfl
theorem exec_ownerQuery (m : BcpEnv) (s : State) : exec (.ownerQuery m) s = execOwnerQuery m s := rfl
theorem exec_sessionTimeout (host : DWord) (s : State) : exec (.sessionTimeout host) s = execSessionTimeout host s := rfl

/-- A request of a session whose tag fails is dropped. -/
theorem onBcp_of_unauthentic {s : State} {m : BcpEnv} {typ : Nat} {payload : List Byte} {x : Session} (hserves : bcpServes s m = true)
    (hheader : m.headerOk = true) (hlen : m.lenOk = true) (hses : sessionOf s m.sender = some x)
    (hauth : (authOk s m typ payload x.nonce).1 = false) (own : Bool) (f : State → Ask → State) :
    onBcp s m typ payload own f = .next (dropAuth s) := by
  unfold onBcp
  rw [hserves, hheader, hses]
  dsimp only
  rw [hauth, authOk_state s hlen]
  rfl

/-! ### HELLO -/

/-- The request that a HELLO is: of no session yet. -/
def helloAsk (s : State) (m : BcpEnv) (host : DWord) : Ask :=
  { m := m, typ := 1, host := host, nonce := 0, key := keyAt s (levelOf m), live := false }

/-- Of the sessions to choose from, the idlest is one. -/
theorem idlest_mem {s : State} {xs : List Session} {y : Session} (h : idlest s xs = some y) : y ∈ xs := by
  unfold idlest at h
  split at h
  · exact absurd h (by simp)
  · next x rest heq =>
    have hfold (zs : List Session) (z : Session) :
        zs.foldl (fun a b => if b.lastHeard < a.lastHeard then b else a) z ∈ z :: zs := by
      induction zs generalizing z with
      | nil => exact List.mem_singleton_self z
      | cons b zs ih =>
        rw [List.foldl_cons]
        split
        · exact List.mem_cons_of_mem z (ih b)
        · exact List.mem_cons.mpr ((List.mem_cons.mp (ih z)).imp_right (List.mem_cons_of_mem b))
    have hy := hfold rest x
    rw [Option.some.inj h, ← heq] at hy
    exact (List.mem_filter.mp hy).1

/-- The sessions that stay are sessions of other hosts, and with one more they are at most 32. -/
theorem sessionsFor_spec (s : State) (host : DWord) :
    (∀ y ∈ sessionsFor s host, y ∈ s.bcp.sessions ∧ y.host ≠ host) ∧
      (s.bcp.sessions.length ≤ 32 → (sessionsFor s host).length < 32) := by
  have hfilter : ∀ y ∈ s.bcp.sessions.filter (fun x => x.host != host), y ∈ s.bcp.sessions ∧ y.host ≠ host := fun y hy =>
    ⟨(List.mem_filter.mp hy).1, bne_iff_ne.mp (List.mem_filter.mp hy).2⟩
  have hlen := List.length_filter_le (fun x : Session => x.host != host) s.bcp.sessions
  unfold sessionsFor
  dsimp only
  split
  · next hroom => exact ⟨hfilter, fun _ => hroom⟩
  · next hfull =>
    split
    · next y hy =>
      refine ⟨fun z hz => hfilter z (List.mem_filter.mp hz).1, fun hmost => Nat.lt_of_lt_of_le ?_ (hlen.trans hmost)⟩
      exact List.length_filter_lt_length_iff_exists.mpr ⟨y, idlest_mem hy, by simp⟩
    · refine ⟨fun z hz => hfilter z (List.mem_of_mem_drop hz), fun hmost => ?_⟩
      rw [List.length_drop]
      omega

/-- A session that opens: its host's, at the newest place, with SEQ 0 and no response kept. -/
theorem openSession_bcp (s : State) {a : Ask} (hlive : a.live = false) (host : DWord) (hn : BitVec 128) :
    ∃ x : Session, (openSession s a host hn).bcp.sessions = sessionsFor s host ++ [x] ∧ x.host = host ∧ x.highest = 0 ∧ x.kept = [] ∧
      x.ip = a.m.ip ∧ x.port = a.m.port ∧ (openSession s a host hn).bcp.msgs = s.bcp.msgs + 1 ∧
      (openSession s a host hn).bcp.owner = s.bcp.owner := by
  unfold openSession
  dsimp only
  rw [reply_bcp_of_no_session _ _ _ _ hlive]
  unfold renewLease
  split
  · exact ⟨_, rfl, rfl, rfl, rfl, rfl, rfl, rfl, rfl⟩
  · exact ⟨_, rfl, rfl, rfl, rfl, rfl, rfl, rfl, rfl⟩

section Hello
variable {s : State} {m : BcpEnv} {host : DWord} {hn : BitVec 128} (hserves : bcpServes s m = true) (hversion : m.version = 1)
  (hlen : m.lenOk = true)
include hserves hversion hlen

/-- A HELLO that is served is dropped by its header or its tag; else the rate, a shared low word or the session decides. -/
theorem exec_hello_served (hheader : m.headerOk = true) :
    exec (.hello m host hn) s = .next (
      if (authOk s m 1 (leBytes 8 host.toNat ++ nonceBytes hn) 0).1 = false then dropAuth s
      else if (rateAll s).1 = false then dropRate s
      else if (s.bcp.sessions.any fun x => x.host != host && x.host.setWidth 32 == host.setWidth 32) = true then
        refuse (rateAll s).2 (helloAsk s m host) 0x16
      else openSession (rateAll s).2 (helloAsk s m host) host hn) := by
  rw [exec_hello, execHello, hserves, hheader, hversion, hlen]
  dsimp only
  rw [authOk_state s hlen]
  simp only [Bool.not_true, Bool.false_eq_true, if_false, Bool.not_eq_true', bne_self_eq_false]
  rfl

end Hello

theorem exec_hello_malformed {s : State} {m : BcpEnv} (hserves : bcpServes s m = true) (hheader : m.headerOk = false) (host : DWord)
    (hn : BitVec 128) :
    exec (.hello m host hn) s = .next { s with bcp := { s.bcp with malformed := satAdd 65535 s.bcp.malformed 1 } } := by
  rw [exec_hello, execHello, hserves, hheader]
  rfl

/-- A dropped message is counted; nothing leaves, and no session changes. -/
theorem dropAuth_spec (s : State) : (dropAuth s).bcp.authFail = s.bcp.authFail + 1 ∧ (dropAuth s).bcp.sessions = s.bcp.sessions ∧
    (dropAuth s).out = s.out := by
  have hflood (t : State) : (floodLog t).bcp.authFail = t.bcp.authFail ∧ (floodLog t).bcp.sessions = t.bcp.sessions := by
    unfold floodLog
    split
    · split
      · exact ⟨rfl, rfl⟩
      · rw [raise_bcp]
        exact ⟨rfl, rfl⟩
    · rw [raise_bcp]
      exact ⟨rfl, rfl⟩
  obtain ⟨hcount, hses⟩ := hflood (modBcp s fun b => { b with authFail := b.authFail + 1 })
  exact ⟨hcount, hses, dropAuth_keeps ((closed_out s).sub (by decide)) s rfl⟩

theorem rateAll_sessions (s : State) : (rateAll s).2.bcp.sessions = s.bcp.sessions ∧ (rateAll s).2.bcp.msgs = s.bcp.msgs ∧
    (rateAll s).2.bcp.owner = s.bcp.owner := by
  unfold rateAll
  dsimp only
  generalize (if s.bcp.second == s.now / secNs 1 then s.bcp.inSecond else 0) = n
  split
  · exact ⟨rfl, rfl, rfl⟩
  · exact ⟨rfl, rfl, rfl⟩

/-! ### Register messages -/

/-- An access of a register message to a number of words, before its first. -/
def accessOf (m : BcpEnv) (host : DWord) (typ : Nat) (a : Word) (n : Nat) (ws : List Word) : BcpAccess :=
  { m := m, host := host, typ := typ, start := a, count := n, got := [], left := ws, tag := 0 }

theorem bcpStart_of_free {s : State} (h : s.bcp.access = none) (a : Ask) (start : Word) (n : Nat) (ws : List Word) :
    bcpStart s a start n ws = bcpGo 257 s (accessOf a.m a.host a.typ start n ws) := by
  unfold bcpStart
  rw [h]
  rfl

/-- A message whose one access reaches its words is answered after them. -/
theorem bcpGo_of_one {s u : State} {x : BcpAccess} {vs : List Word} (hmore : x.done = false) (hreach : reachWord s x = .words vs u)
    (hses : (sessionOfHost u x.host).isSome = true) (hdone : (x.next vs).done = true) (n : Nat) :
    bcpGo (n + 2) s x = bcpFinish (if x.typ == 0x03 then noteRuntime u x.addr (x.left.headD 0) else u) (x.next vs) 0 := by
  rw [bcpGo, hmore, if_neg Bool.false_ne_true, hreach]
  dsimp only
  rw [Option.isNone_eq_false_iff.mpr hses, if_neg Bool.false_ne_true, bcpGo, hdone, if_pos rfl]

theorem modBcp_access_of_none {s : State} (h : s.bcp.access = none) : (modBcp s fun b => { b with access := none }) = s := by
  unfold modBcp
  rw [← h]

/-- A message that only reads ends with its answer. -/
theorem bcpFinish_of_read {u : State} {x : BcpAccess} (htyp : (x.typ == 0x03) = false) (hacc : u.bcp.access = none) (status : Nat) :
    bcpFinish u x status = reply u (askOf u x.m x.typ x.host) status
      (leBytes 2 (if x.typ == 0x04 then x.got.length / 2 else x.got.length) ++ x.got.flatMap fun w => leBytes 4 w.toNat) := by
  unfold bcpFinish lapseAfter
  rw [modBcp_access_of_none hacc, htyp]
  rfl

/-- A message that wrote all its words ends with its answer, and then its owner's lease may end. -/
theorem bcpFinish_of_write {t : State} {y : BcpAccess} (htyp : (y.typ == 0x03) = true) (hacc : t.bcp.access = none) :
    bcpFinish t y 0 =
      lapseAfter (reply t (askOf t y.m y.typ y.host) 0 (leBytes 2 (y.count - y.left.length) ++ leBytes 4 0)) y := by
  unfold bcpFinish
  rw [modBcp_access_of_none hacc, htyp]
  rfl

section Message
variable {m : BcpEnv} {x : Session} {s u : State} {a v w lo hi : Word}

theorem acceptedState_access (typ : Nat) : (acceptedState s m typ x).bcp.access = s.bcp.access :=
  (acceptedState_bcp s m typ x).fields.2.2.2.2.2.2.2.2.2.2.2

/-- A READ of one word that is reached is answered with it. -/
theorem bcpGo_read (hreach : reachRead s .bcp a.toNat = .done .ok v u) {host : DWord}
    (hses : (sessionOfHost u host).isSome = true) (hacc : u.bcp.access = none) (n : Nat) :
    bcpGo (n + 2) s (accessOf m host 2 a 1 []) = reply u (askOf u m 2 host) 0 (leBytes 2 1 ++ leBytes 4 v.toNat) := by
  have hword : reachWord s (accessOf m host 2 a 1 []) = .words [v] u := congrArg BcpReach.of hreach
  rw [bcpGo_of_one rfl hword hses rfl]
  refine (bcpFinish_of_read rfl hacc 0).trans ?_
  exact congrArg (fun bs => reply u (askOf u m 2 host) 0 (leBytes 2 1 ++ bs)) (List.append_nil _)

/-- A READ64 of one pair that is reached is answered with its two words. -/
theorem bcpGo_read64 (hreach : reach64 s a.toNat = .words [lo, hi] u) {host : DWord}
    (hses : (sessionOfHost u host).isSome = true) (hacc : u.bcp.access = none) (n : Nat) :
    bcpGo (n + 2) s (accessOf m host 4 a 1 []) =
      reply u (askOf u m 4 host) 0 (leBytes 2 1 ++ leBytes 4 lo.toNat ++ leBytes 4 hi.toNat) := by
  have hword : reachWord s (accessOf m host 4 a 1 []) = .words [lo, hi] u := hreach
  rw [bcpGo_of_one rfl hword hses rfl]
  refine (bcpFinish_of_read rfl hacc 0).trans ?_
  have hgot : ((accessOf m host 4 a 1 []).next [lo, hi]).got = [lo, hi] := rfl
  have hone : [lo, hi].length / 2 = 1 := by simp only [List.length_cons, List.length_nil, Nat.reduceAdd, Nat.reduceDiv]
  have hbody : [lo, hi].flatMap (fun w => leBytes 4 w.toNat) = leBytes 4 lo.toNat ++ leBytes 4 hi.toNat := by
    rw [List.flatMap_cons, List.flatMap_cons, List.flatMap_nil, List.append_nil]
  rw [List.append_assoc, ← hbody, hgot, hone]
  rfl

theorem noteRuntime_bcp (s : State) (a : Nat) (v : Word) :
    (noteRuntime s a v).bcp.access = s.bcp.access ∧ (noteRuntime s a v).bcp.election = s.bcp.election ∧
      (noteRuntime s a v).bcp.owner = s.bcp.owner ∧ (noteRuntime s a v).bcp.leaseEnd = s.bcp.leaseEnd := by
  unfold noteRuntime
  split
  · exact ⟨rfl, rfl, rfl, rfl⟩
  · dsimp only
    split_ifs <;> exact ⟨rfl, rfl, rfl, rfl⟩

/-- While the lease of its owner runs, or for another host, an answer ends no lease. -/
theorem lapseAfter_of_live {t : State} {y : BcpAccess} (h : isOwner t y.host = false ∨ t.now < t.bcp.leaseEnd) :
    lapseAfter t y = t := by
  unfold lapseAfter
  refine if_neg fun hlapse => ?_
  simp only [Bool.and_eq_true, decide_eq_true_eq] at hlapse
  obtain ⟨⟨-, hown⟩, hended⟩ := hlapse
  rcases h with hother | hlive
  · exact absurd (hother.symm.trans hown) Bool.false_ne_true
  · exact absurd hended (Nat.not_le.mpr hlive)

/-- A WRITE of one word that is reached is recorded and answered. -/
theorem bcpGo_write {host : DWord} (hcut : cutsOff s m a.toNat v = false) (hreach : reachWrite s .bcp a.toNat v = .done .ok w u)
    (hses : (sessionOfHost u host).isSome = true) (hacc : u.bcp.access = none)
    (hlive : isOwner u host = false ∨ u.now < u.bcp.leaseEnd) (n : Nat) :
    bcpGo (n + 2) s (accessOf m host 3 a 1 [v]) =
      reply (noteRuntime u a.toNat v) (askOf (noteRuntime u a.toNat v) m 3 host) 0 (leBytes 2 1 ++ leBytes 4 0) := by
  have hword : reachWord s (accessOf m host 3 a 1 [v]) = .words [w] u := by
    have hends : reachWord s (accessOf m host 3 a 1 [v]) =
        .of (if cutsOff s m a.toNat v then .done .refused 0 s else reachWrite s .bcp a.toNat v) := rfl
    rw [hends, hcut, if_neg Bool.false_ne_true, hreach]
    rfl
  obtain ⟨haccess, helection, howner, hlease⟩ := noteRuntime_bcp u a.toNat v
  have hnow : (noteRuntime u a.toNat v).now = u.now := noteRuntime_keeps ((closed_now u).sub (by decide)) u _ _ rfl
  rw [bcpGo_of_one rfl hword hses rfl]
  refine (bcpFinish_of_write (t := noteRuntime u a.toNat v) rfl (haccess.trans hacc)).trans (lapseAfter_of_live ?_)
  rw [reply_now, reply_bcp]
  refine hlive.imp (fun hother => ?_) fun hrunning => ?_
  · exact (isOwner_of_bcp (by rw [reply_bcp]; exact helection) (by rw [reply_bcp]; exact howner) host).trans hother
  · rw [← hnow, ← hlease] at hrunning
    exact hrunning

end Message

/-- Settles O46: HELLO by its gates, the messages by the word they reach, and the SEQ of a repeated request. -/
theorem sessionsAndRegisterMessages : Obligations.SessionsAndRegisterMessages := by
  unfold Obligations.SessionsAndRegisterMessages
  refine ⟨fun m host hn s hserves hheader hversion hlen hauth hrate hfree => ?_, fun m host hn s hserves hversion hlen => ?_,
    fun m x a v s u h hacc hreach hses hu => ?_, fun m x a lo hi s u h hacc hreach hses hu => ?_,
    fun m x a v w s u h hacc hcut hreach hses hu hlive => ?_, fun m x a v s h => ?_,
    fun m x b bs s hserves hheader hversion hlen hses hauth => ?_, fun host s => ?_⟩
  · have hexec := exec_hello_served (host := host) (hn := hn) hserves hversion hlen hheader
    rw [hauth, hrate, hfree, if_neg (by decide), if_neg (by decide), if_neg Bool.false_ne_true] at hexec
    obtain ⟨x, hsessions, hhost, hhighest, hkept, hip, hport, hmsgs, howner⟩ :=
      openSession_bcp (rateAll s).2 (a := helloAsk s m host) rfl host hn
    obtain ⟨hsame, hcount, hown⟩ := rateAll_sessions s
    obtain ⟨hothers, hroom⟩ := sessionsFor_spec (rateAll s).2 host
    rw [hsame] at hothers hroom
    refine ⟨_, x, hexec, ?_, hhost, hhighest, hkept, hip, hport, hmsgs.trans (congrArg (· + 1) hcount), ?_, fun hmost => ?_,
      howner.trans hown, (execHello_keeps ((closed_regs s).sub (by decide)) _ _ _ s rfl).of _ hexec⟩
    · rw [hsessions, List.getLast?_concat]
    · rw [hsessions, List.dropLast_concat]
      exact hothers
    · rw [hsessions, List.length_append, List.length_singleton]
      exact hroom hmost
  · refine ⟨fun hheader => exec_hello_malformed hserves hheader host hn, fun hheader hauth => ?_, fun hheader hauth hrate hshared => ?_⟩
    · have hexec := exec_hello_served (host := host) (hn := hn) hserves hversion hlen hheader
      rw [hauth, if_pos rfl] at hexec
      obtain ⟨hcount, hsessions, hout⟩ := dropAuth_spec s
      exact ⟨_, hexec, (execHello_keeps (closed_sameBut 0x20240000208 s rfl) _ _ _ s (SameBut.refl _ s)).of _ hexec, hcount, hsessions,
        hout⟩
    · rw [exec_hello_served hserves hversion hlen hheader, hauth, hrate, hshared]
      rfl
  · refine ⟨?_, ?_⟩
    · rw [exec_read, execRead, onBcp_accepted _ h]
      refine congrArg Host.Outcome.next ?_
      unfold countGate
      rw [if_pos (by decide), bcpStart_of_free ((acceptedState_access 2).trans hacc)]
      exact bcpGo_read hreach hses hu 255
    · obtain ⟨hserves, hheader, hversion, hlen, hsession, hauth, hnew, hseq, hall, hone⟩ := h
      by_cases hzero : (authOk s m 2 (leBytes 4 a.toNat ++ leBytes 2 0 ++ [0, 0]) x.nonce).1 = true
      · rw [exec_read, execRead, if_pos hzero,
          onBcp_accepted _ ⟨hserves, hheader, hversion, hlen, hsession, hzero, hnew, hseq, hall, hone⟩]
        rfl
      · rw [exec_read, execRead, if_neg hzero, onBcp_of_unauthentic hserves hheader hlen hsession (Bool.not_eq_true _ ▸ hzero)]
  · rw [exec_read64, execRead64, onBcp_accepted _ h]
    refine congrArg Host.Outcome.next ?_
    unfold countGate
    rw [if_pos (by decide), bcpStart_of_free ((acceptedState_access 4).trans hacc)]
    exact bcpGo_read64 hreach hses hu 255
  · have hpay : leBytes 4 a.toNat ++ leBytes 2 [v].length ++ [0, 0] ++ [v].flatMap (fun w => leBytes 4 w.toNat) =
        leBytes 4 a.toNat ++ leBytes 2 1 ++ [0, 0] ++ leBytes 4 v.toNat := congrArg _ (List.append_nil _)
    rw [exec_write, execWrite, hpay, onBcp_owner _ h]
    refine congrArg Host.Outcome.next ?_
    unfold countGate
    rw [if_pos (show (decide (1 ≤ [v].length) && decide ([v].length ≤ 256)) = true from rfl),
      bcpStart_of_free ((acceptedState_access 3).trans hacc)]
    exact bcpGo_write hcut hreach hses hu hlive 255
  · have hpay : leBytes 4 a.toNat ++ leBytes 2 [v].length ++ [0, 0] ++ [v].flatMap (fun w => leBytes 4 w.toNat) =
        leBytes 4 a.toNat ++ leBytes 2 1 ++ [0, 0] ++ leBytes 4 v.toNat := congrArg _ (List.append_nil _)
    rw [exec_write, execWrite, hpay]
    exact ⟨fun hown => onBcp_not_owner _ h hown, fun hown hlevel => onBcp_wrong_level _ h (by decide) hown hlevel,
      (refuse_regs ..).trans (acceptedState_regs ..)⟩
  · rw [exec_ownerQuery, execOwnerQuery, onBcp_of_authentic _ hserves hheader hversion hlen hses hauth]
    unfold sessionGate
    refine ⟨fun hkept => ?_, fun hnew hseq => ?_⟩
    · rw [show (askNow s m 0x13 x).m.seq = m.seq from rfl, hkept]
      rfl
    · rw [show (askNow s m 0x13 x).m.seq = m.seq from rfl, hnew]
      dsimp only
      rw [if_pos (by simpa using hseq)]
  · refine ⟨_, rfl, rfl, fun y => ?_⟩
    exact List.mem_filter.trans (and_congr_right fun _ => bne_iff_ne)

end Sys2Proof.Proofs
end

section
/-! PROOF. The election of the owner: the ranking of claims, what a change of owner leaves, and the messages and timers that make one
(R468–R471, R484). -/
namespace Sys2Proof.Proofs
open Sys2Proof Sys2Proof.Machine Sys2Proof.Laws

/-! ### The ranking -/

section Ranking
variable {a b c : HeldClaim}

/-- One claim ranks before another by level, then priority, then lower host ID. -/
theorem ranksBefore_iff : ranksBefore a b = true ↔
    b.level < a.level ∨ a.level = b.level ∧ (b.priority < a.priority ∨
      a.priority = b.priority ∧ a.host.toNat < b.host.toNat) := by
  unfold ranksBefore
  by_cases hlevel : a.level = b.level
  · by_cases hpriority : a.priority = b.priority
    · simp [hlevel, hpriority]
    · simp [hlevel, hpriority]
  · simp [hlevel]

theorem ranksBefore_irrefl (a : HeldClaim) : ranksBefore a a = false := by
  rw [Bool.eq_false_iff, Ne, ranksBefore_iff]
  omega

theorem ranksBefore_asymm (h : ranksBefore a b = true) : ranksBefore b a = false := by
  rw [Bool.eq_false_iff, Ne, ranksBefore_iff]
  rw [ranksBefore_iff] at h
  omega

theorem ranksBefore_trans (h : ranksBefore a b = true) (h' : ranksBefore b c = true) : ranksBefore a c = true := by
  rw [ranksBefore_iff] at *
  omega

/-- A claim behind one that nothing in hand ranks before is behind what ranks before neither. -/
theorem not_ranksBefore_trans (h : ranksBefore b a = false) (h' : ranksBefore c b = false) : ranksBefore c a = false := by
  rw [Bool.eq_false_iff, Ne, ranksBefore_iff] at *
  omega

/-- The claim chosen is one of those held, and none ranks before it. -/
theorem bestClaim_spec : ∀ {cs : List HeldClaim} {c : HeldClaim}, bestClaim cs = some c → c ∈ cs ∧ ∀ d ∈ cs, ranksBefore d c = false
  | [], _, h => absurd h.symm (Option.some_ne_none _)
  | x :: xs, c, h => by
    rw [bestClaim] at h
    cases hbest : bestClaim xs with
    | none =>
      rw [hbest, Option.some.injEq] at h
      subst h
      have hnil : xs = [] := by
        cases xs with
        | nil => rfl
        | cons y ys =>
          rw [bestClaim] at hbest
          split at hbest
          · exact absurd hbest (Option.some_ne_none _)
          · split_ifs at hbest
      subst hnil
      exact ⟨List.mem_singleton_self _, fun d hd => by rw [List.mem_singleton.mp hd, ranksBefore_irrefl]⟩
    | some d =>
      obtain ⟨hmem, hrest⟩ := bestClaim_spec hbest
      rw [hbest] at h
      dsimp only at h
      split_ifs at h with hfirst
      · rw [Option.some.injEq] at h
        subst h
        refine ⟨List.mem_cons_of_mem _ hmem, fun e he => ?_⟩
        rcases List.mem_cons.mp he with rfl | he
        · exact ranksBefore_asymm hfirst
        · exact hrest e he
      · rw [Option.some.injEq] at h
        subst h
        refine ⟨List.mem_cons_self, fun e he => ?_⟩
        rcases List.mem_cons.mp he with rfl | he
        · exact ranksBefore_irrefl _
        · exact not_ranksBefore_trans (Bool.not_eq_true _ ▸ hfirst) (hrest e he)

end Ranking

/-! ### A change of owner -/

theorem notice_bcp (s : State) (cause : Nat) (new : Option Owner) (prev host : DWord) : (notice s cause new prev host).bcp = s.bcp := by
  unfold notice
  split
  · rfl
  · exact (bcpEmit_bcp ..).trans (fresh_bcp s)

theorem notice_stage (s : State) (cause : Nat) (new : Option Owner) (prev host : DWord) :
    (notice s cause new prev host).stage = s.stage :=
  notice_keeps ((closed_stage s).sub (by decide)) s _ _ _ _ rfl

theorem abandonStage_bcp (s : State) : (abandonStage s).bcp = s.bcp := by
  unfold abandonStage
  split
  · exact raise_bcp ..
  · rfl

theorem abandonStage_status (s : State) :
    (abandonStage s).stage.status = if s.stage.status = 1 ∨ s.stage.status = 2 then 0 else s.stage.status := by
  unfold abandonStage
  by_cases h : s.stage.status = 1 ∨ s.stage.status = 2
  · rw [if_pos h, if_pos (by simpa using h), raise_stage]
    rfl
  · rw [if_neg h, if_neg (by simpa using h)]

/-- A change of owner is counted, and changes nothing else of BCP's state. -/
theorem ownerChanged_bcp (s : State) (prev new : Option Owner) (cause : Nat) :
    (ownerChanged s prev new cause).bcp = { s.bcp with changes := s.bcp.changes + 1 } := by
  unfold ownerChanged
  dsimp only
  rw [abandonStage_bcp]
  split
  · refine foldl_keeps (P := fun t => t.bcp = _) (fun t h ht => (notice_bcp ..).trans ht) _ _ ?_
    exact raise_bcp ..
  · exact raise_bcp ..

/-- A stage in progress ends with its owner (R473). -/
theorem ownerChanged_status (s : State) (prev new : Option Owner) (cause : Nat) :
    (ownerChanged s prev new cause).stage.status = if s.stage.status = 1 ∨ s.stage.status = 2 then 0 else s.stage.status := by
  unfold ownerChanged
  dsimp only
  rw [abandonStage_status]
  generalize hlow : raise _ 6 0 Code.ownerChange 0 _ = r
  have hr : r.stage = s.stage := by rw [← hlow, raise_stage, modBcp_stage]
  split
  · have hfold : ∀ (l : List DWord) (f : State → DWord → State), (∀ t h, (f t h).stage = t.stage) → (l.foldl f r).stage = s.stage :=
      fun l f hf => foldl_keeps (P := fun t => t.stage = s.stage) (fun t h ht => (hf t h).trans ht) l r hr
    rw [hfold _ _ fun t h => notice_stage ..]
  · rw [hr]

theorem toOpen_bcp (s : State) (prev : Option Owner) (cause : Nat) :
    (toOpen s prev cause).bcp =
      { s.bcp with election := .openSt, owner := none, prev := none, successor := 0, held := [], leaseEnd := 0, changes := s.bcp.changes + 1 } :=
  ownerChanged_bcp ..

theorem toOpen_status (s : State) (prev : Option Owner) (cause : Nat) :
    (toOpen s prev cause).stage.status = if s.stage.status = 1 ∨ s.stage.status = 2 then 0 else s.stage.status :=
  ownerChanged_status ..

/-- A claim that is granted owns the part, its lease ends 10 s later, and no claim is held. -/
theorem grant_bcp (s : State) (c : HeldClaim) (prev : Option Owner) (cause : Nat) :
    (grant s c prev cause).bcp.election = .owned ∧
      (grant s c prev cause).bcp.owner = some { host := c.host, level := c.level, priority := c.priority } ∧
      (grant s c prev cause).bcp.held = [] ∧ (grant s c prev cause).bcp.leaseEnd = s.now + 10000000000 ∧
      (grant s c prev cause).bcp.changes = s.bcp.changes + 1 := by
  have hten : secNs 10 = 10000000000 := rfl
  unfold grant
  dsimp only
  rw [hten]
  generalize hs1 : modBcp s _ = s1
  have hgranted : s1.bcp = { s.bcp with
      election := .owned, owner := some { host := c.host, level := c.level, priority := c.priority }, prev := none,
      successor := 0, held := [], leaseEnd := s.now + 10000000000 } := by rw [← hs1, modBcp_bcp]
  generalize hs3 : List.foldl _ _ _ = s3
  have hanswered : s3.bcp = { s1.bcp with sessions := s3.bcp.sessions } := by
    rw [← hs3]
    refine foldl_keeps (P := fun t => t.bcp = { s1.bcp with sessions := t.bcp.sessions }) (fun t h ht => ?_) _ _ (reply_bcp ..)
    rw [refuse_bcp, ht]
  rw [ownerChanged_bcp, hanswered, hgranted]
  exact ⟨rfl, rfl, rfl, rfl, rfl⟩

/-! ### The messages -/

theorem exec_claim (m : BcpEnv) (p : Nat) (s : State) : exec (.claim m p) s = execClaim m p s := rfl
theorem exec_contestEnd (s : State) : exec .contestEnd s = execContestEnd s := rfl
theorem exec_heartbeat (m : BcpEnv) (s : State) : exec (.heartbeat m) s = execHeartbeat m s := rfl
theorem exec_release (m : BcpEnv) (h : DWord) (s : State) : exec (.release m h) s = execRelease m h s := rfl
theorem exec_leaseExpire (s : State) : exec .leaseExpire s = execLeaseExpire s := rfl
theorem exec_successionEnd (s : State) : exec .successionEnd s = execSuccessionEnd s := rfl

theorem claim_next (m : BcpEnv) (p : Nat) {s t : State} (h : BcpAccepts s m 0x10 (leBytes 1 p ++ [0, 0, 0]) x)
    (ht : takeClaim (acceptedState s m 0x10 x) (askNow s m 0x10 x) p = t) : exec (.claim m p) s = .next t := by
  rw [exec_claim, execClaim, onBcp_accepted _ h, ht]

/-- A claim in OPEN is held and opens the contest. -/
theorem takeClaim_of_open {u : State} {a : Ask} {p : Nat} (hopen : u.bcp.election = .openSt) (hheld : u.bcp.held = []) (hp : p < 256) :
    takeClaim u a p = modBcp u fun b =>
      { b with election := .contest, held := [{ host := a.host, level := levelOf a.m, priority := p, m := a.m }] } := by
  have hopens : modBcp (modBcp u fun b => { b with election := .contest }) (fun b => { b with
        held := b.held ++ [{ host := a.host, level := levelOf a.m, priority := p % 256, m := a.m }] }) =
      modBcp u fun b =>
        { b with election := .contest, held := [{ host := a.host, level := levelOf a.m, priority := p, m := a.m }] } := by
    rw [Nat.mod_eq_of_lt hp]
    unfold modBcp
    dsimp only
    rw [hheld, List.nil_append]
  rw [← hopens]
  unfold takeClaim
  rw [hopen, hheld]
  cases u.bcp.owner with
  | none => rfl
  | some o => rfl

section Owned
variable {u : State} {a : Ask} {p : Nat} {o : Owner} (howned : u.bcp.election = .owned) (ho : u.bcp.owner = some o)
include howned ho

/-- Another's claim on an owned part is OWNER_LIVE unless SERVICE claims it of a lower owner. -/
theorem takeClaim_of_other_refused (hhost : o.host ≠ a.host) (hlevel : levelOf a.m ≠ 2 ∨ o.level = 2) :
    takeClaim u a p = refuse u a 8 := by
  unfold takeClaim
  rw [howned, ho]
  dsimp only
  rw [if_neg (by simpa using hhost), if_neg]
  simp only [Bool.and_eq_true, beq_iff_eq, decide_eq_true_eq]
  omega

theorem takeClaim_of_service (hhost : o.host ≠ a.host) (hlevel : levelOf a.m = 2) (hlow : o.level < 2) :
    takeClaim u a p = grant u { host := a.host, level := levelOf a.m, priority := p % 256, m := a.m } (some o) 4 := by
  unfold takeClaim
  rw [howned, ho]
  dsimp only
  rw [if_neg (by simpa using hhost), if_pos]
  rw [hlevel]
  simpa using hlow

theorem takeClaim_of_own_other_level (hhost : o.host = a.host) (hlevel : o.level ≠ levelOf a.m) : takeClaim u a p = refuse u a 2 := by
  unfold takeClaim
  rw [howned, ho]
  dsimp only
  rw [if_pos (by simpa using hhost), if_pos (by simpa using hlevel)]

theorem takeClaim_of_own (hhost : o.host = a.host) (hlevel : o.level = levelOf a.m) :
    (takeClaim u a p).bcp.owner = some { o with priority := p % 256 } ∧ (takeClaim u a p).bcp.changes = u.bcp.changes := by
  unfold takeClaim
  rw [howned, ho]
  dsimp only
  rw [if_pos (by simpa using hhost), if_neg (by simpa using hlevel), reply_bcp]
  exact ⟨rfl, rfl⟩

end Owned

/-- The owner's message leaves it 10 s of its lease. -/
theorem leaseLeft_acceptedState {s : State} {m : BcpEnv} {typ : Nat} {x : Session} (h : isOwner s x.host = true) :
    leaseLeft (acceptedState s m typ x) = 10000 := by
  have howner : (acceptedState s m typ x).bcp.owner.isSome = true := by
    rw [acceptedState_owner]
    unfold isOwner at h
    simp only [Bool.and_eq_true, beq_iff_eq, Option.map_eq_some_iff] at h
    obtain ⟨-, o, ho, -⟩ := h
    rw [ho]
    rfl
  unfold leaseLeft
  rw [if_pos howner, acceptedState_leaseEnd s m typ x h, acceptedState_now, Nat.add_sub_cancel_left]

theorem acceptedState_changes (s : State) (m : BcpEnv) (typ : Nat) (x : Session) :
    (acceptedState s m typ x).bcp.changes = s.bcp.changes := (acceptedState_bcp s m typ x).fields.2.2.2.2.2.1

theorem acceptedState_held (s : State) (m : BcpEnv) (typ : Nat) (x : Session) :
    (acceptedState s m typ x).bcp.held = s.bcp.held := (acceptedState_bcp s m typ x).fields.2.2.2.2.1

/-- Settles O47: each message and timer by what a change of owner leaves, and the ranking as an order. -/
theorem ownerElection : Obligations.OwnerElection := by
  unfold Obligations.OwnerElection
  refine ⟨fun m x p s h hp hheld hopen => ?_, fun m x p o s h hp howned ho => ?_, fun c s hcontest hbest => ?_,
    fun m x s => ⟨fun h => ?_, fun h => ?_⟩, fun m x s h => ?_, fun m x h s hask => ?_, fun s => ?_, fun cs c h => ?_, fun a b c => ?_⟩
  · have htake := takeClaim_of_open (a := askNow s m 0x10 x) ((acceptedState_election s m 0x10 x).trans hopen)
      ((acceptedState_held s m 0x10 x).trans hheld) hp
    have hexec := claim_next m p h htake
    exact ⟨_, hexec, (execClaim_keeps (closed_sameBut 0x202c0000208 s rfl) _ _ s (SameBut.refl _ s)).of _ hexec, rfl, rfl,
      acceptedState_owner s m 0x10 x, acceptedState_out s m 0x10 x⟩
  · have hstate := (acceptedState_election s m 0x10 x).trans howned
    have howner := (acceptedState_owner s m 0x10 x).trans ho
    refine ⟨fun hhost hlevel => ?_, fun hhost hlevel hlow => ?_, fun hhost hlevel => ?_, fun hhost hlevel => ?_⟩
    · exact claim_next m p h (takeClaim_of_other_refused hstate howner hhost hlevel)
    · have hexec := claim_next m p h (takeClaim_of_service hstate howner hhost hlevel hlow)
      obtain ⟨helection, hnew, -, hlease, hchanges⟩ := grant_bcp (acceptedState s m 0x10 x)
        { host := x.host, level := levelOf m, priority := p % 256, m := m } (some o) 4
      have howns : (some { host := x.host, level := levelOf m, priority := p % 256 } : Option Owner) =
          some { host := x.host, level := 2, priority := p } := by rw [hlevel, Nat.mod_eq_of_lt hp]
      rw [acceptedState_now] at hlease
      rw [acceptedState_changes] at hchanges
      exact ⟨_, hexec, (execClaim_keeps (closed_sameBut 0x202c0000208 s rfl) _ _ s (SameBut.refl _ s)).of _ hexec,
        hnew.trans howns, helection, hlease, hchanges⟩
    · exact claim_next m p h (takeClaim_of_own_other_level hstate howner hhost hlevel)
    · have hexec := claim_next m p h rfl
      obtain ⟨hnew, hchanges⟩ := takeClaim_of_own (a := askNow s m 0x10 x) (p := p) hstate howner hhost hlevel
      rw [Nat.mod_eq_of_lt hp] at hnew
      exact ⟨_, hexec, (execClaim_keeps (closed_sameBut 0x202c0000208 s rfl) _ _ s (SameBut.refl _ s)).of _ hexec, hnew,
        hchanges.trans (acceptedState_changes s m 0x10 x)⟩
  · have hexec : exec .contestEnd s = .next (grant s c none 1) := by
      rw [exec_contestEnd, execContestEnd, hcontest, hbest]
      rfl
    have hframe := (execContestEnd_keeps (closed_sameBut 0x202c0000208 s rfl) s (SameBut.refl _ s)).of _ hexec
    obtain ⟨helection, hnew, hheld, hlease, hchanges⟩ := grant_bcp s c none 1
    exact ⟨_, hexec, hframe, helection, hnew, hheld, hlease, hchanges,
      (execContestEnd_keeps ((closed_regs s).sub (by decide)) s rfl).of _ hexec,
      (execContestEnd_keeps ((closed_mem s).sub (by decide)) s rfl).of _ hexec⟩
  · rw [exec_heartbeat, execHeartbeat, onBcp_owner _ h, acceptedState_seqr]
    exact ⟨rfl, leaseLeft_acceptedState h.2.1⟩
  · rw [exec_ownerQuery, execOwnerQuery, onBcp_accepted _ h]
  · have hexec := exec_heartbeat m s
    rw [execHeartbeat, onBcp_owner _ h] at hexec
    refine ⟨_, hexec, (execHeartbeat_keeps (closed_sameBut 0x20240000208 s rfl) _ s (SameBut.refl _ s)).of _ hexec, ?_, ?_,
      (execHeartbeat_keeps ((closed_regs s).sub (by decide)) _ s rfl).of _ hexec⟩
    · rw [reply_bcp]
      exact acceptedState_leaseEnd s m 0x11 x h.2.1
    · rw [reply_bcp]
      exact acceptedState_owner s m 0x11 x
  · have hexec := exec_release m h s
    rw [execRelease, onBcp_owner _ hask] at hexec
    dsimp only at hexec
    have hframe := (execRelease_keeps (closed_sameBut 0x202c0000208 s rfl) _ _ s (SameBut.refl _ s)).of _ hexec
    refine ⟨fun hself => ?_, fun hzero hother => ?_⟩
    · rw [if_pos (show (h == 0 || h == (askNow s m 0x12 x).host) = true by simpa [askNow] using hself)] at hexec hframe
      refine ⟨_, hexec, hframe, ?_⟩
      rw [toOpen_bcp, reply_bcp, acceptedState_changes]
      exact ⟨rfl, rfl, rfl⟩
    · rw [if_neg (by simpa using ⟨hzero, hother⟩)] at hexec hframe
      refine ⟨_, hexec, hframe, ?_⟩
      rw [modBcp_bcp, reply_bcp]
      exact ⟨rfl, rfl, acceptedState_owner s m 0x12 x, rfl, rfl, acceptedState_changes s m 0x12 x⟩
  · refine ⟨fun hnot => ?_, fun howned haccess => ?_, fun hsuccession hheld => ?_, fun hnot => ?_⟩
    · rw [exec_leaseExpire, execLeaseExpire, if_pos (by simpa using hnot)]
    · have hexec : exec .leaseExpire s = .next (lapse s) := by
        rw [exec_leaseExpire, execLeaseExpire, if_neg (by simpa using howned), haccess]
        rfl
      have hframe := (execLeaseExpire_keeps (closed_sameBut 0x202c0000208 s rfl) s (SameBut.refl _ s)).of _ hexec
      refine ⟨_, hexec, hframe, ?_⟩
      rw [lapse, toOpen_bcp, toOpen_status]
      exact ⟨rfl, rfl, rfl, rfl⟩
    · have hexec : exec .successionEnd s = .next (toOpen s s.bcp.prev 2) := by
        rw [exec_successionEnd, execSuccessionEnd, if_neg (by simpa using hsuccession), hheld]
        rfl
      have hframe := (execSuccessionEnd_keeps (closed_sameBut 0x202c0000208 s rfl) s (SameBut.refl _ s)).of _ hexec
      refine ⟨_, hexec, hframe, ?_⟩
      rw [toOpen_bcp]
      exact ⟨rfl, rfl⟩
    · rw [exec_successionEnd, execSuccessionEnd, if_pos (by simpa using hnot)]
  · obtain ⟨hmem, hfirst⟩ := bestClaim_spec h
    exact ⟨hmem, fun d hd => .inr (hfirst d hd)⟩
  · refine ⟨ranksBefore_irrefl a, ranksBefore_asymm, ranksBefore_trans, fun hlevel => ranksBefore_iff.mpr (.inl hlevel),
      fun hlevel hpriority => ranksBefore_iff.mpr (.inr ⟨hlevel, .inl hpriority⟩), fun hlevel hpriority => ?_⟩
    rw [ranksBefore_iff]
    omega

end Sys2Proof.Proofs
end

section
/-! PROOF. Image staging: the check of a stage in a state that uses neither copy of the boot descriptor (R473, R474). -/
namespace Sys2Proof.Proofs
open Sys2Proof Sys2Proof.Machine Sys2Proof.Laws

theorem exec_stageCheckDone (ok : Bool) (f : SlotFacts) (s : State) : exec (.stageCheckDone ok f) s = execStageCheckDone ok f s := rfl

/-- A state whose copy in use is neither 0 nor 1, with no descriptor in copy 0, holds none after one was to be written: the
recommended one goes into copy 1, and copy 0 is read. -/
theorem descNow_putDesc_of_neither {s : State} (hcopy : s.boot.descCopy = 2) (hnone : s.flash.desc0 = none) (f : BootDesc → BootDesc) :
    descNow (putDesc s f) = none := by
  have hbefore : descNow s = none := by
    unfold descNow
    rw [hcopy]
    exact hnone
  have hafter : ∀ g : FlashSt → FlashSt, (g s.flash).desc0 = none → descNow (modFlash s g) = none := fun g hg => by
    unfold descNow
    rw [modFlash_boot, hcopy]
    exact hg
  unfold putDesc
  rw [hbefore, hcopy]
  dsimp only
  unfold writeDesc
  rw [hafter _ (by simpa using hnone)]
  exact hafter _ (by simpa using hnone)

/-- A stage of slot 0 waits for its check, and the copy of the boot descriptor in use is neither 0 nor 1. -/
def neitherCopy : State := { State.reset with boot := { descCopy := 2 }, stage := { status := 2 } }

/-- Refutes O48 at the check of a stage: a check that fails marks the slot FAILED in the boot descriptor, but in this state, which
no command reaches and the statement does not exclude, the model then reads none. The image here has no magic number. -/
theorem not_stagingAndSwitchOver : ¬ Obligations.StagingAndSwitchOver := by
  unfold Obligations.StagingAndSwitchOver
  rintro ⟨-, -, -, hcheck, -⟩
  have hcause : slotCheck neitherCopy 1 default = 1 := rfl
  obtain ⟨t, d, hexec, -, -, hdesc, -⟩ := (hcheck default neitherCopy rfl (by decide)).2.2 (by rw [hcause]; decide)
  have hnone : descNow (stageChecked neitherCopy true default) = none := by
    unfold stageChecked
    exact descNow_putDesc_of_neither (s := neitherCopy) rfl rfl fun d => descSet d 0 3
  have ht : stageChecked neitherCopy true default = t := Host.Outcome.next.inj hexec
  rw [← ht, hnone] at hdesc
  exact absurd hdesc.symm (Option.some_ne_none d)

end Sys2Proof.Proofs
end

section
/-! PROOF. CONFIG_COMMIT, SET_KEY and the trouble-log messages of BCP (R466, R467, R472, R623–R625). -/
namespace Sys2Proof.Proofs
open Sys2Proof Sys2Proof.Machine Sys2Proof.Laws

theorem exec_configCommit (m : BcpEnv) (mode : Nat) (ok : Bool) (s : State) :
    exec (.configCommit m mode ok) s = execConfigCommit m mode ok s := rfl
theorem exec_setKey (m : BcpEnv) (slot op : Nat) (key : BitVec 256) (ok : Bool) (s : State) :
    exec (.setKey m slot op key ok) s = execSetKey m slot op key ok s := rfl
theorem exec_logRead (m : BcpEnv) (start : Word) (n : Nat) (s : State) : exec (.logRead m start n) s = execLogRead m start n s := rfl
theorem exec_logStatus (m : BcpEnv) (s : State) : exec (.logStatus m) s = execLogStatus m s := rfl
theorem exec_logClear (m : BcpEnv) (s : State) : exec (.logClear m) s = execLogClear m s := rfl
theorem exec_logUnfreeze (m : BcpEnv) (s : State) : exec (.logUnfreeze m) s = execLogUnfreeze m s := rfl
theorem exec_keystoreBadReport (s : State) : exec .keystoreBadReport s = execKeystoreBadReport s := rfl

/-! ### What acceptance leaves of the keys and the configuration -/

section Accepted
variable (s : State) (m : BcpEnv) (typ : Nat) (x : Session)

theorem acceptedState_bus : (acceptedState s m typ x).bus = s.bus := by rw [acceptedState_eq]

theorem inField_acceptedState : inField (acceptedState s m typ x) = inField s := by rw [acceptedState_eq]; rfl

theorem cfgNow_acceptedState : cfgNow (acceptedState s m typ x) = cfgNow s := by rw [acceptedState_eq]; rfl

theorem entriesNow_acceptedState : entriesNow (acceptedState s m typ x) = entriesNow s := by
  unfold entriesNow
  rw [cfgNow_acceptedState]

theorem acceptedState_storeKey : (acceptedState s m typ x).bcp.storeKey = s.bcp.storeKey :=
  (acceptedState_bcp s m typ x).fields.2.2.2.2.2.2.2.1

theorem acceptedState_serviceKey : (acceptedState s m typ x).bcp.serviceKey = s.bcp.serviceKey :=
  (acceptedState_bcp s m typ x).fields.2.2.2.2.2.2.2.2.1

theorem acceptedState_kgen : (acceptedState s m typ x).bcp.kgen = s.bcp.kgen :=
  (acceptedState_bcp s m typ x).fields.2.2.2.2.2.2.2.2.2.1

theorem acceptedState_runtime : (acceptedState s m typ x).bcp.runtime = s.bcp.runtime :=
  (acceptedState_bcp s m typ x).fields.2.2.2.2.2.2.2.2.2.2.1

theorem keysNow_acceptedState : keysNow (acceptedState s m typ x) = keysNow s := by
  unfold keysNow
  rw [acceptedState_kgen, acceptedState_storeKey, acceptedState_serviceKey]

theorem flashTaken_acceptedState (h : s.stage.status = 0 ∨ s.stage.status = 3) : flashTaken (acceptedState s m typ x) = false := by
  unfold flashTaken
  rw [acceptedState_stage]
  rcases h with h | h
  · rw [h]; rfl
  · rw [h]; rfl

end Accepted

/-! ### The configuration copy -/

/-- The configuration copy that a write of the entries and keys leaves. -/
def cfgAfter (s : State) (entries : List (Word × Word)) (ks : KeyStore) : CfgCopy :=
  { gen := (((cfgNow s).map (·.gen)).getD 0 + 1) % 2 ^ 32, entries := entries, keys := some ks }

/-- The copy written is the other one, and it is in use from then on. -/
theorem writeCfg_spec (s : State) (entries : List (Word × Word)) (ks : KeyStore) :
    cfgNow (writeCfg s entries ks).2 = some (cfgAfter s entries ks) ∧
      (writeCfg s entries ks).2.boot.cfgCopy = 1 - s.boot.cfgCopy ∧ (writeCfg s entries ks).2.bcp = s.bcp := by
  refine ⟨?_, rfl, rfl⟩
  have hcopy : 1 - s.boot.cfgCopy = 0 ∨ 1 - s.boot.cfgCopy = 1 := by omega
  have hread : cfgNow (writeCfg s entries ks).2 =
      if (1 - s.boot.cfgCopy) == 1 then (writeCfg s entries ks).2.flash.cfg1 else (writeCfg s entries ks).2.flash.cfg0 := rfl
  have hflash : (writeCfg s entries ks).2.flash = if (1 - s.boot.cfgCopy) == 0 then { s.flash with cfg0 := some (cfgAfter s entries ks) }
      else { s.flash with cfg1 := some (cfgAfter s entries ks) } := rfl
  rw [hread, hflash]
  rcases hcopy with h | h
  · rw [h]; rfl
  · rw [h]; rfl

theorem cfgNow_reply (s : State) (a : Ask) (status : Nat) (body : List Byte) : cfgNow (reply s a status body) = cfgNow s := by
  unfold cfgNow
  rw [reply_boot, reply_flash]

theorem mergedEntries_length (present runtime : List (Word × Word)) :
    (mergedEntries present runtime).length ≤ runtime.length + present.length := by
  have hnew := List.length_filter_le (fun r : Word × Word => !present.any fun e => e.1 == r.1) runtime
  unfold mergedEntries
  rw [List.length_append, List.length_map]
  omega

/-- The entries that CONFIG_COMMIT writes: merged, the runtime ones, or none. -/
def committed (s : State) (mode : Nat) : List (Word × Word) :=
  if mode = 0 then mergedEntries (entriesNow s) s.bcp.runtime else if mode = 1 then s.bcp.runtime else []

theorem committed_acceptedState (s : State) (m : BcpEnv) (typ : Nat) (x : Session) (mode : Nat) :
    committed (acceptedState s m typ x) mode = committed s mode := by
  unfold committed
  rw [entriesNow_acceptedState, acceptedState_runtime]

theorem committed_length {s : State} (h : s.bcp.runtime.length + (entriesNow s).length ≤ 2046) (mode : Nat) :
    (committed s mode).length ≤ 2046 := by
  have hmerged := mergedEntries_length (entriesNow s) s.bcp.runtime
  unfold committed
  split_ifs
  · omega
  · omega
  · exact Nat.zero_le _

/-- CONFIG_COMMIT past its refusals: a flash failure, or the copy written and the answer. -/
theorem configCommitNow_of_free {u : State} {mode : Nat} (hseason : u.power.season = .summer) (hfree : flashTaken u = false)
    (hmode : mode ≤ 2) (hlen : (committed u mode).length ≤ 2046) (a : Ask) (ok : Bool) :
    configCommitNow u a mode ok = if !ok then refuse (flashFailed u) a 0x11
      else reply (writeCfg u (committed u mode) (keysNow u)).2 a 0
        (leBytes 2 (committed u mode).length ++ leBytes 4 (writeCfg u (committed u mode) (keysNow u)).1) := by
  have hentries : (if mode == 0 then mergedEntries (entriesNow u) u.bcp.runtime else if mode == 1 then u.bcp.runtime else []) =
      committed u mode := by
    unfold committed
    simp only [beq_iff_eq]
  unfold configCommitNow seasonGate
  rw [hseason, hfree, hentries, if_neg Bool.false_ne_true, if_neg (Nat.not_lt.mpr hmode)]
  dsimp only
  rw [if_neg (Nat.not_lt.mpr hlen)]

/-! ### The store key -/

theorem unwrapKey_of_none {s : State} (h : s.bcp.storeKey = none) (a : Ask) (key : BitVec 256) : unwrapKey s a 0 key = key := by
  unfold unwrapKey
  rw [h]
  rfl

/-- Setting the store key ends every session and any ownership, and changes no other key. -/
theorem storeKeySet_bcp (s : State) (k : BitVec 256) (howned : s.bcp.election = .owned) :
    (storeKeySet s k).bcp.storeKey = some k ∧ (storeKeySet s k).bcp.sessions = [] ∧ (storeKeySet s k).bcp.owner = none ∧
      (storeKeySet s k).bcp.election = .openSt ∧ (storeKeySet s k).bcp.kgen = s.bcp.kgen ∧
      (storeKeySet s k).bcp.serviceKey = s.bcp.serviceKey := by
  unfold storeKeySet
  dsimp only
  rw [if_neg (by rw [howned]; decide), modBcp_bcp, toOpen_bcp]
  exact ⟨rfl, rfl, rfl, rfl, rfl, rfl⟩

/-- SET_KEY of a key that the rules allow, with the flash free and working, as the two changes it is. -/
theorem setKeyNow_of_first {u : State} (hfield : inField u = true) (hnone : u.bcp.storeKey = none) (hfree : flashTaken u = false)
    (a : Ask) (key : BitVec 256) : ∃ v, setKeyNow u a 0 0 key true = storeKeySet v key ∧
      v.bcp = { u.bcp with kgen := (u.bcp.kgen + 1) % 4294967296, sessions := v.bcp.sessions } := by
  have hok : setKeyOk u 0 0 = true := hfield
  unfold setKeyNow
  rw [hok, hfree, Bool.not_true, if_neg Bool.false_ne_true, if_neg Bool.false_ne_true, unwrapKey_of_none hnone]
  refine ⟨_, rfl, ?_⟩
  rw [reply_bcp, modBcp_bcp, (writeCfg_spec ..).2.2]
  rfl

theorem setKeyNow_of_not_allowed {u : State} {op : Nat} (h : inField u = false ∨ op ≠ 0) (a : Ask) (key : BitVec 256) :
    setKeyNow u a 0 op key true = refuse u a 0x14 := by
  have hnot : setKeyOk u 0 op = false := by
    rcases h with hfield | hop
    · exact (congrArg (op == 0 && ·) hfield).trans (Bool.and_false _)
    · exact (congrArg (· && inField u) (beq_eq_false_iff_ne.mpr hop)).trans (Bool.false_and _)
  unfold setKeyNow
  rw [hnot, Bool.not_false, if_pos rfl]

/-! ### The trouble log -/

theorem logRange_length (l : LogSt) (start : Word) (n : Nat) : (logRange l start n).length ≤ n := by
  unfold logRange
  exact (List.length_filterMap_le ..).trans ((List.length_filter_le ..).trans (List.length_range.le))

theorem mem_ring_of_find {l : LogSt} {i : Word} {r : LogRecord} (h : l.find i = some r) : r ∈ l.ring := by
  unfold LogSt.find at h
  split_ifs at h
  exact List.mem_of_find?_eq_some h

/-- Every record that LOG_READ returns is one of the ring. -/
theorem mem_ring_of_logRange {l : LogSt} {start : Word} {n : Nat} {r : LogRecord} (h : r ∈ logRange l start n) : r ∈ l.ring := by
  unfold logRange at h
  obtain ⟨i, -, hfind⟩ := List.mem_filterMap.mp h
  exact mem_ring_of_find hfind

theorem logClearNow_log (s : State) :
    (logClearNow s).log.base = s.log.total ∧ (logClearNow s).log.ring = s.log.ring ∧ (logClearNow s).log.total = s.log.total ∧
      (logClearNow s).log.special.length = s.log.special.length + 1 := by
  unfold logClearNow logSpecial
  exact ⟨rfl, rfl, rfl, rfl⟩

theorem logUnfreezeNow_log (s : State) :
    (logUnfreezeNow s).log.frozen = false ∧ (logUnfreezeNow s).log.special.length = s.log.special.length + 1 ∧
      (logUnfreezeNow s).log.ring = s.log.ring := by
  unfold logUnfreezeNow logSpecial
  exact ⟨rfl, rfl, rfl⟩

/-- Settles O49: the copy that is written, the key that is set, and the log's messages. -/
theorem configurationKeysAndLogMessages : Obligations.ConfigurationKeysAndLogMessages := by
  unfold Obligations.ConfigurationKeysAndLogMessages
  refine ⟨fun m x mode s h hseason hstage hmode hlen => ?_, fun m x op key s h hstage => ⟨fun hnot => ?_, fun hfield hop hnone => ?_⟩,
    fun s => ⟨fun hgood => ?_, fun hbad => ?_⟩, fun m x start n s h hone hmost => ⟨?_, logRange_length .., fun r => mem_ring_of_logRange⟩,
    fun m x s h => ?_, fun m x s h => ?_, fun m x s h => ⟨fun hfrozen => ?_, fun hnot => ?_⟩⟩
  · have hcommitted := committed_acceptedState s m 0x25 x mode
    have hruns := configCommitNow_of_free (u := acceptedState s m 0x25 x) (mode := mode)
      ((congrArg PowerSt.season (acceptedState_power s m 0x25 x)).trans hseason)
      (flashTaken_acceptedState s m 0x25 x hstage) hmode (hcommitted ▸ committed_length hlen mode) (askNow s m 0x25 x)
    have hexec : ∀ ok, exec (.configCommit m mode ok) s =
        .next (configCommitNow (acceptedState s m 0x25 x) (askNow s m 0x25 x) mode ok) := fun ok => by
      rw [exec_configCommit, execConfigCommit, onBcp_owner _ h]
    refine ⟨?_, ?_⟩
    · have hnow := (hexec true).trans (congrArg Host.Outcome.next (hruns true))
      rw [Bool.not_true, if_neg Bool.false_ne_true] at hnow
      obtain ⟨hcfg, hcopy, hbcp⟩ := writeCfg_spec (acceptedState s m 0x25 x) (committed (acceptedState s m 0x25 x) mode)
        (keysNow (acceptedState s m 0x25 x))
      refine ⟨_, _, hnow, (cfgNow_reply ..).trans hcfg, ?_, hcommitted, ?_, ?_, ?_,
        (execConfigCommit_keeps ((closed_regs s).sub (by decide)) _ _ _ s rfl).of _ hnow⟩
      · rw [reply_boot, hcopy, acceptedState_boot]
      · unfold cfgAfter
        rw [cfgNow_acceptedState]
        rfl
      · unfold cfgAfter
        rw [keysNow_acceptedState]
      · rw [reply_bcp, hbcp, acceptedState_runtime]
    · have hnow := (hexec false).trans (congrArg Host.Outcome.next (hruns false))
      rw [Bool.not_false, if_pos rfl] at hnow
      refine ⟨_, hnow, (execConfigCommit_keeps (closed_sameBut 0x2824000c208 s rfl) _ _ _ s (SameBut.refl _ s)).of _ hnow, ?_, ?_, ?_⟩
      · exact (reply_flash ..).trans (acceptedState_flash s m 0x25 x)
      · exact (reply_boot ..).trans (acceptedState_boot s m 0x25 x)
      · exact (congrArg BusSt.flashFail (reply_bus ..)).trans
          (congrArg (fun b : BusSt => satAdd 65535 b.flashFail 1) (acceptedState_bus s m 0x25 x))
  · rw [exec_setKey, execSetKey, onBcp_owner _ h, setKeyNow_of_not_allowed (hnot.imp_left (inField_acceptedState s m 0x30 x).trans)]
  · subst hop
    have hexec := exec_setKey m 0 0 key true s
    rw [execSetKey, onBcp_owner _ h] at hexec
    obtain ⟨v, hset, hv⟩ := setKeyNow_of_first ((inField_acceptedState s m 0x30 x).trans hfield)
      ((acceptedState_storeKey s m 0x30 x).trans hnone) (flashTaken_acceptedState s m 0x30 x (.inl hstage)) (askNow s m 0x30 x) key
    rw [hset] at hexec
    have howned : v.bcp.election = .owned := by
      have hown := h.2.1
      unfold isOwner at hown
      rw [hv]
      exact (acceptedState_election s m 0x30 x).trans (beq_iff_eq.mp (Bool.and_eq_true_iff.mp hown).1)
    obtain ⟨hkey, hsessions, howner, helection, hkgen, hservice⟩ := storeKeySet_bcp v key howned
    rw [hv] at hkgen hservice
    exact ⟨_, hexec, (execSetKey_keeps (closed_sameBut 0x282c000c208 s rfl) _ _ _ _ _ s (SameBut.refl _ s)).of _ hexec, hkey, hsessions,
      howner, helection, hkgen.trans (by rw [← acceptedState_kgen s m 0x30 x]), hservice.trans (acceptedState_serviceKey s m 0x30 x)⟩
  · rw [exec_keystoreBadReport, execKeystoreBadReport, hgood, if_neg Bool.false_ne_true]
  · rw [exec_keystoreBadReport, execKeystoreBadReport, hbad, if_pos rfl]
  · rw [exec_logRead, execLogRead, onBcp_accepted _ h]
    unfold countGate
    rw [if_pos (by simpa using ⟨hone, hmost⟩), acceptedState_log]
  · rw [exec_logStatus, execLogStatus, onBcp_accepted _ h, acceptedState_log]
  · have hexec := exec_logClear m s
    rw [execLogClear, onBcp_owner _ h] at hexec
    refine ⟨_, hexec, (execLogClear_keeps (closed_sameBut 0x20240000208 s rfl) _ s (SameBut.refl _ s)).of _ hexec, ?_⟩
    rw [reply_log]
    have hlog := logClearNow_log (acceptedState s m 0x42 x)
    rw [acceptedState_log] at hlog
    exact hlog
  · have hexec := exec_logUnfreeze m s
    rw [execLogUnfreeze, onBcp_owner _ h] at hexec
    rw [acceptedState_log, hfrozen, if_pos rfl] at hexec
    refine ⟨_, hexec, (execLogUnfreeze_keeps (closed_sameBut 0x20240000208 s rfl) _ s (SameBut.refl _ s)).of _ hexec, ?_⟩
    rw [reply_log]
    have hlog := logUnfreezeNow_log (acceptedState s m 0x43 x)
    rw [acceptedState_log] at hlog
    exact hlog
  · rw [exec_logUnfreeze, execLogUnfreeze, onBcp_owner _ h, acceptedState_log, hnot]
    rfl

end Sys2Proof.Proofs
end

section
/-! PROOF. The record builder: what admission leaves of its state, what a RECORD parcel becomes, crops, and datagrams
(R488, R489, R494, R497, R498, R500, R506, R508). -/
namespace Sys2Proof.Proofs
open Sys2Proof Sys2Proof.Machine Sys2Proof.Laws

theorem exec_recordParcel (r : LinkRx) (s : State) : exec (.recordParcel r) s = execRecordParcel r s := rfl
theorem exec_roiEncode (s : State) : exec .roiEncode s = .next (encodeCrop s) := rfl
theorem exec_datagramTimeout (s : State) : exec .datagramTimeout s = .next (closeDgram s) := rfl
theorem exec_datagramSend (s : State) : exec .datagramSend s = .next (sendDgram s) := rfl
theorem exec_statusReport (s : State) : exec .statusReport s = execStatusReport s := rfl

/-! ### Admission -/

/-- Of the builder's state nothing differs between b and c but its queue and the open datagram. -/
def SameButQueue (b c : RecSt) : Prop := c = { b with queue := c.queue, dgram := c.dgram, closed := c.closed }

theorem SameButQueue.refl (b : RecSt) : SameButQueue b b := rfl

theorem SameButQueue.trans {b c d : RecSt} (h : SameButQueue b c) (h' : SameButQueue c d) : SameButQueue b d := by
  unfold SameButQueue at *
  rw [h', h]

theorem SameButQueue.fields {b c : RecSt} (h : SameButQueue b c) : c.dropped = b.dropped ∧ c.drops = b.drops ∧ c.crops = b.crops := by
  rw [h]
  exact ⟨rfl, rfl, rfl⟩

theorem fillDgramN_recs : ∀ (n : Nat) (s : State), SameButQueue s.recs (fillDgramN n s).recs
  | 0, s => .refl _
  | n + 1, s => by
    unfold fillDgramN
    split
    · exact .refl _
    · split
      · exact .refl _
      · split
        · exact SameButQueue.trans (c := { s.recs with queue := _, dgram := _ }) rfl (fillDgramN_recs n _)
        · rfl

theorem enqueue_recs (s : State) (rs : List Record) : SameButQueue s.recs (enqueue s rs).recs :=
  SameButQueue.trans (c := { s.recs with queue := s.recs.queue ++ rs }) rfl (fillDgramN_recs 91 _)

/-- With nothing queued, filling the datagram does nothing. -/
theorem fillDgram_of_empty {s : State} (h : s.recs.queue = []) : fillDgram s = s := by
  unfold fillDgram fillDgramN
  rw [h]
  split
  · rfl
  · rfl

theorem recUse_crops (s : State) (ep : Word) (f : Nat → Nat) : (recUse s ep f).recs.crops = s.recs.crops := by
  unfold recUse
  split
  · rfl
  · rfl

theorem dropRecords_crops (s : State) (rs : List Record) (w : DropWhy) : (dropRecords s rs w).recs.crops = s.recs.crops := rfl

theorem enqueue_crops (s : State) (rs : List Record) : (enqueue s rs).recs.crops = s.recs.crops := (enqueue_recs s rs).fields.2.2

theorem admitZero_crops (s : State) (r : Record) : (admitZero s r).recs.crops = s.recs.crops := by
  unfold admitZero
  split
  · exact enqueue_crops ..
  · split
    · rfl
    · refine (enqueue_crops ..).trans ?_
      exact foldl_keeps (P := fun t => t.recs.crops = s.recs.crops) (fun t g ht => (recUse_crops ..).trans ht) _ _ rfl

theorem admitGroup_crops (s : State) (rs : List Record) : (admitGroup s rs).recs.crops = s.recs.crops := by
  unfold admitGroup
  split
  · rfl
  · split
    · rfl
    · dsimp only
      split
      · rfl
      · refine (enqueue_crops ..).trans ((recUse_crops ..).trans ?_)
        split
        · rfl
        · rfl

/-- Admission leaves the crops. -/
theorem takeRecords_crops (s : State) (rs : List Record) : (takeRecords s rs).recs.crops = s.recs.crops := by
  unfold takeRecords
  split
  · rfl
  · split_ifs
    · rfl
    · rfl
    · rfl
    · exact foldl_keeps (P := fun t => t.recs.crops = s.recs.crops) (fun t r ht => (admitZero_crops ..).trans ht) _ _ rfl
    · exact admitGroup_crops ..

theorem logArrive_recs (s : State) (e : Event) : (logArrive s e).recs = s.recs :=
  logArrive_keeps ((closed_recs s).sub (by decide)) s e rfl

theorem raise_crops (s : State) (unit sub code sev : Nat) (args : BitVec 96) : (raise s unit sub code sev args).recs.crops = s.recs.crops := by
  unfold raise raiseFor raiseHealth
  dsimp only
  split
  · exact (takeRecords_crops ..).trans (congrArg RecSt.crops (logArrive_recs ..))
  · exact congrArg RecSt.crops (logArrive_recs ..)

/-! ### RECORD parcels -/

/-- The bytes of a RECORD parcel count as arrived. -/
def countArrived (s : State) (n : Nat) : State :=
  { s with recs := { s.recs with arrived := s.recs.arrived + n, arrivalHit := s.recs.arrivalHit } }

/-- Within the arrival limit, a RECORD parcel is read by its TAG; an unknown one and tracker items of another length are REC_BAD. -/
theorem takeRecordParcel_bad {s : State} {x : Parcel} (hlimit : s.recs.arrived + x.payload.length ≤ 65536)
    (hbad : 3 ≤ x.tag ∨ (x.tag = 0 ∧ x.payload.length ≠ 32 ∧ x.payload.length ≠ 64)) :
    takeRecordParcel s x = recBad (countArrived s x.payload.length) := by
  have hover : decide (65536 < s.recs.arrived + x.payload.length) = false := decide_eq_false (Nat.not_lt.mpr hlimit)
  unfold takeRecordParcel
  dsimp only
  simp only [hover, Bool.or_false, Bool.false_eq_true, if_false]
  rcases hbad with htag | ⟨htag, hone, htwo⟩
  · obtain ⟨k, hk⟩ : ∃ k, x.tag = k + 3 := ⟨x.tag - 3, by omega⟩
    rw [hk]
    rfl
  · rw [htag]
    rw [if_neg (by simpa using hone), if_neg (by simpa using htwo)]
    rfl

/-- The first part of an image-built body is kept until its LAST. -/
theorem takeRecordParcel_part {s : State} {x : Parcel} (hlimit : s.recs.arrived + x.payload.length ≤ 65536) (htag : x.tag = 1)
    (hlast : x.last = false) (hpart : s.recs.part = []) (hpayload : x.payload ≠ []) :
    takeRecordParcel s x =
      { s with recs := { s.recs with arrived := s.recs.arrived + x.payload.length, part := [(256 + x.src, x.payload)] } } := by
  have hover : decide (65536 < s.recs.arrived + x.payload.length) = false := decide_eq_false (Nat.not_lt.mpr hlimit)
  have hkey : 256 * 1 + x.src = 256 + x.src := rfl
  unfold takeRecordParcel
  dsimp only
  simp only [hover, htag, hlast, Bool.or_false, Bool.false_eq_true, if_false]
  unfold setPart partOf modRecs
  dsimp only
  rw [hpart, htag, hkey]
  unfold mset
  rw [show mget [] [] (256 + x.src) = ([] : List Byte) from rfl, List.nil_append, if_neg hpayload]
  rfl

theorem takeVc1_record {s : State} {x : Parcel} (h : x.cls = 4) : takeVc1 s .svc x = takeRecordParcel s x := by
  unfold takeVc1
  rw [h]
  rfl

section Parcel
variable {r : LinkRx} {x : Parcel} {s s1 : State} (hp : portOk s r.port = true) (hr : linkReceive s r = (some x, s1)) (hvc : x.vc = 1)
  (hkind : x.kind = 0) (hcls : x.cls = 4) (hdie : r.port.die = .svc)
include hp hr hvc hkind hcls hdie

theorem exec_recordParcel_taken : exec (.recordParcel r) s = .next (takeRecordParcel s1 x) := by
  rw [exec_recordParcel, execRecordParcel, onParcel_taken hp hr hvc hkind, hcls, hdie]
  rfl

theorem exec_stream_record : exec (.stream r) s = .next (takeRecordParcel s1 x) := by
  rw [exec_stream, execStream, onParcel_taken hp hr hvc hkind, hdie, ← takeVc1_record hcls]
  rfl

end Parcel

/-- A zone body of an exposed epoch is a record of the frame. -/
theorem takeBody_zone {s : State} (hexposed : s.eye.exposed = true) {body : List Byte} (hlen : body.length = 16) :
    takeBody s false (leBytes 1 2 ++ [0] ++ leBytes 2 16 ++ body) =
      takeRecords s [{ ownRecord s (.zone body) with ltime := s.eye.exposedAt, tentative := false }] := by
  have hbytes : leBytes 1 2 ++ [0] ++ leBytes 2 16 ++ body = 2#8 :: 0#8 :: 16#8 :: 0#8 :: body := rfl
  have htime : frameTime s = (s.eye.exposedAt, s) := by
    unfold frameTime
    rw [hexposed, if_pos rfl]
  have hhead : (leAt (2#8 :: 0#8 :: 16#8 :: 0#8 :: body) 0 1 == 2 && (leAt (2#8 :: 0#8 :: 16#8 :: 0#8 :: body) 1 1 == 0 &&
      leAt (2#8 :: 0#8 :: 16#8 :: 0#8 :: body) 2 2 == 16 &&
      (List.drop 4 (2#8 :: 0#8 :: 16#8 :: 0#8 :: body)).length == 16)) = true := by
    rw [show List.drop 4 (2#8 :: 0#8 :: 16#8 :: 0#8 :: body) = body from rfl, hlen]
    rfl
  rw [hbytes]
  unfold takeBody frameRecord
  rw [htime]
  dsimp only
  rw [if_pos hhead]
  rfl

/-- A body of no known kind is REC_BAD. -/
theorem takeBody_unknown (s : State) (rest : List Byte) : takeBody s false (7#8 :: rest) = recBad s := by
  have hkind : leAt (7#8 :: rest) 0 1 = 7 := rfl
  unfold takeBody
  dsimp only
  rw [hkind]
  rfl

/-! ### Crops -/

/-- The encoder takes the complete crop and no other. -/
theorem encodeCrop_crops {s : State} {c : CropIn} (h : s.recs.crops.find? (fun c => c.complete) = some c) :
    (encodeCrop s).recs.crops = s.recs.crops.erase c := by
  unfold encodeCrop
  rw [h]
  dsimp only
  split_ifs
  · exact takeRecords_crops ..
  · exact takeRecords_crops ..
  · exact raise_crops ..

/-- A ROI record with at most 1400 bytes of its JPEG is at most 1440 bytes. -/
theorem roi_len_le {r : Record} {crop seg segs q : Nat} {tr : Word} {x y w h n : Nat} {data : List Byte}
    (hbody : r.body = .roi crop seg segs q tr x y w h n data) (hdata : data.length ≤ 1400) : r.len ≤ 1440 := by
  unfold Record.len RecBody.toBytes
  rw [hbody]
  simp only [List.length_append, length_leBytes]
  omega

/-! ### Datagrams -/

theorem sendDgram_of_not_due {s : State} (h : s.recs.closed = false ∨ addressed s = false ∨ rb s 0x00070000 0 = false) :
    sendDgram s = s := by
  unfold sendDgram
  dsimp only
  rw [if_pos]
  rcases h with h | h | h
  · rw [h]; rfl
  · rw [h]; simp
  · rw [h]; simp

theorem emits_out (f : Word → Output) : ∀ (ips : List Word) (s : State),
    ips.foldl (fun t ip => emit t (f ip)) s = { s with out := s.out ++ ips.map f }
  | [], s => by rw [List.map_nil, List.append_nil]; rfl
  | ip :: ips, s => by
    rw [List.foldl_cons, emits_out f ips, List.map_cons, List.append_cons]
    rfl

section Send
variable {s : State} (hclosed : s.recs.closed = true) (haddr : addressed s = true) (hon : rb s 0x00070000 0 = true)
include hclosed haddr hon

/-- With no link the records of the datagram are discarded as LINK. -/
theorem sendDgram_of_no_link (hqueue : s.recs.queue = []) (hlink : linked s = false) :
    sendDgram s = dropRecords (modRecs s fun b => { b with dgram := [], closed := false }) s.recs.dgram { link := true } := by
  unfold sendDgram
  rw [hclosed, haddr, hon, hlink]
  have hempty : (dropRecords (modRecs s fun b => { b with dgram := [], closed := false }) s.recs.dgram { link := true }).recs.queue = [] :=
    hqueue
  exact fillDgram_of_empty hempty

/-- An unauthenticated datagram goes to each address, and SEQ and the counts move by its records. -/
theorem sendDgram_of_linked (hauth : rb s 0x00070000 1 = false) (hqueue : s.recs.queue = []) (hlink : linked s = true) :
    sendDgram s = { s with
      out := s.out ++ (recordDests s).map fun ip => .udp 48721 ip 48721 (recordDgram s s.recs.dgram false)
      recs := { s.recs with
        dgram := [], closed := false, seq := (s.recs.seq + s.recs.dgram.length) % 65536,
        sent := s.recs.sent + BitVec.ofNat 64 s.recs.dgram.length, dgrams := s.recs.dgrams + 1,
        tent := tentAfter s s.recs.dgram } } := by
  have htagged : tagged s false "BX7720-REC" (recordDgram s s.recs.dgram) = recordDgram s s.recs.dgram false := rfl
  unfold sendDgram
  rw [hclosed, haddr, hon, hlink, hauth]
  dsimp only
  rw [htagged]
  simp only [Bool.not_true, Bool.or_false, Bool.false_eq_true, if_false, Bool.false_and]
  rw [emits_out]
  exact fillDgram_of_empty hqueue

end Send

/-- Settles O50: what a parcel becomes, what the encoder takes, and when a datagram closes and is sent. -/
theorem recordsAndDatagrams : Obligations.RecordsAndDatagrams := by
  unfold Obligations.RecordsAndDatagrams
  refine ⟨fun r x s s1 hp hr hvc hkind hcls hdie hlimit hbad => ?_,
    fun r x s s1 hp hr hvc hkind hcls hdie hlimit htag hlast hpart hpayload => ?_, fun b body s hexposed hb hlen => ?_, fun s => ?_,
    fun c q jpeg s => ?_, fun s => rfl, fun s h => ?_, fun s hclosed haddr hon hauth hqueue => ⟨fun hlink => ?_, fun hlink => ?_⟩,
    fun s => ⟨fun hoff => ?_, fun hon => ?_⟩, fun r s htyp => ?_⟩
  · refine ⟨?_, ?_⟩
    · rw [exec_recordParcel_taken hp hr hvc hkind hcls hdie, takeRecordParcel_bad hlimit hbad]
      rfl
    · rw [exec_recordParcel_taken hp hr hvc hkind hcls hdie, exec_stream_record hp hr hvc hkind hcls hdie]
  · exact ⟨_, exec_recordParcel_taken hp hr hvc hkind hcls hdie, takeRecordParcel_part hlimit htag hlast hpart hpayload⟩
  · subst hb
    have hzone := takeBody_zone hexposed hlen
    refine ⟨?_, hzone, takeBody_unknown ..⟩
    rw [hzone]
    exact takeRecords_keeps ((closed_mem s).sub (by decide)) s _ rfl
  · refine ⟨fun hnone => ?_, fun c hsome => ?_⟩
    · rw [exec_roiEncode, encodeCrop, hnone]
    · have hexec := exec_roiEncode s
      exact ⟨_, hexec, (execRoiEncode_keeps (closed_sameBut 0x20200000000 s rfl) s (SameBut.refl _ s)).of _ hexec,
        encodeCrop_crops hsome, (execRoiEncode_keeps ((closed_mem s).sub (by decide)) s rfl).of _ hexec,
        (execRoiEncode_keeps ((closed_regs s).sub (by decide)) s rfl).of _ hexec⟩
  · unfold roiRecords
    dsimp only
    refine ⟨by rw [List.length_map, List.length_range], fun r hr => ?_⟩
    obtain ⟨i, -, rfl⟩ := List.mem_map.mp hr
    exact ⟨rfl, rfl, roi_len_le rfl (List.length_take_le ..)⟩
  · rw [exec_datagramSend, sendDgram_of_not_due h]
  · have hexec := exec_datagramSend s
    refine ⟨_, hexec, (execDatagramSend_keeps (closed_sameBut 0x20200000200 s rfl) s (SameBut.refl _ s)).of _ hexec, ?_⟩
    rw [sendDgram_of_linked hclosed haddr hon hauth hqueue hlink]
    exact ⟨rfl, rfl, rfl, rfl, rfl, rfl⟩
  · have hexec := exec_datagramSend s
    refine ⟨_, hexec, (execDatagramSend_keeps (closed_sameBut 0x20200000200 s rfl) s (SameBut.refl _ s)).of _ hexec, ?_⟩
    rw [sendDgram_of_no_link hclosed haddr hon hqueue hlink]
    refine ⟨rfl, rfl, rfl, rfl, fun hrecords => ?_⟩
    exact (congrArg (s.recs.linkDrop || ·) (bne_iff_ne.mpr hrecords)).trans (Bool.or_true _)
  · rw [exec_statusReport, execStatusReport, hoff]
    rfl
  · have hexec := exec_statusReport s
    rw [execStatusReport, hon, Bool.not_true, if_neg Bool.false_ne_true] at hexec
    exact ⟨_, hexec, rfl, (execStatusReport_keeps (closed_sameBut 0x200000000 s rfl) s (SameBut.refl _ s)).of _ hexec⟩
  · have hadmit : admitZero s r = enqueue s [r] := by
      unfold admitZero
      rw [htyp]
      rfl
    obtain ⟨hdropped, hdrops, -⟩ := (enqueue_recs s [r]).fields
    rw [hadmit]
    exact ⟨hdropped, hdrops⟩

end Sys2Proof.Proofs
end

section
/-! PROOF. Peer exchange: the peer table, what a datagram of a peer changes, and the merge of an item (R512–R514, R517, R518,
R524). -/
namespace Sys2Proof.Proofs
open Sys2Proof Sys2Proof.Machine Sys2Proof.Laws

theorem exec_announceSend (s : State) : exec .announceSend s = execAnnounceSend s := rfl
theorem exec_peerAnnounce (p : PeerMsg) (a : Announce) (s : State) :
    exec (.peerAnnounce p a) s = .next (peerGate s p fun s => takeAnnounce s p a) := rfl
theorem exec_peerEmbed (p : PeerMsg) (items : List (List Byte)) (s : State) : exec (.peerEmbed p items) s = execPeerEmbed p items s := rfl
theorem exec_peerBye (p : PeerMsg) (s : State) :
    exec (.peerBye p) s = .next (peerGate s p fun s => if (peerOf s p.mac).isSome then peerRemove s p.mac else peerDrop s) := rfl
theorem exec_peerAgeOut (mac : BitVec 48) (s : State) : exec (.peerAgeOut mac) s = .next (peerRemove s mac) := rfl

/-! ### The gate -/

section Gate
variable {s : State} {p : PeerMsg} (f : State → State)

theorem peerGate_of_off (h : rb s 0x00070100 0 = false ∨ s.power.season = .dormant) : peerGate s p f = s := by
  unfold peerGate
  rw [if_pos]
  rcases h with h | h
  · rw [h]; rfl
  · rw [h]; exact Bool.or_true _

theorem peerGate_of_malformed (hon : rb s 0x00070100 0 = true) (hseason : s.power.season ≠ .dormant) (hform : p.wellFormed = false) :
    peerGate s p f = peerDrop s := by
  unfold peerGate
  rw [if_neg (by simp [hon, hseason]), hform, Bool.not_false, Bool.true_or, if_pos rfl]

/-- A well-formed datagram of another device passes where no tag is asked for. -/
theorem peerGate_of_passing (hon : rb s 0x00070100 0 = true) (hauth : rb s 0x00070100 1 = false) (hseason : s.power.season ≠ .dormant)
    (hform : p.wellFormed = true) (hmac : p.mac ≠ ownMac s) : peerGate s p f = f s := by
  unfold peerGate
  rw [if_neg (by simp [hon, hseason]), hform, hauth, if_neg (by simp), if_neg (by simpa using hmac)]

end Gate

/-! ### The table -/

theorem announceBytes_length {a : Announce} (h : a.zones.length = 8) : (announceBytes a).length = 32 := by
  have hzones : ∀ zs : List Nat, (zs.flatMap (leBytes 2)).length = 2 * zs.length := fun zs => by
    rw [List.length_flatMap]
    simp only [length_leBytes, List.map_const', List.sum_replicate, smul_eq_mul]
    omega
  unfold announceBytes
  simp only [List.length_append, length_leBytes, hzones, h]

theorem acceptZones_length (s : State) : (acceptZones s).length = 8 := rfl

/-- A MAC that has been removed is in the table no more. -/
theorem peerOf_peerRemove (s : State) (mac : BitVec 48) : peerOf (peerRemove s mac) mac = none := by
  refine List.find?_eq_none.mpr fun e he => ?_
  have hkept : e.mac ≠ mac := by simpa using (List.mem_filter.mp he).2
  simpa using hkept

/-- An update of a MAC's entry that leaves the MAC is what is found of it afterwards. -/
theorem find_mac_map (mac : BitVec 48) (f : PeerEntry → PeerEntry) (hf : ∀ e, (f e).mac = e.mac) : ∀ l : List PeerEntry,
    (l.map fun e => if e.mac == mac then f e else e).find? (fun e => e.mac == mac) = (l.find? fun e => e.mac == mac).map f
  | [] => rfl
  | e :: l => by
    rw [List.map_cons, List.find?_cons, List.find?_cons]
    by_cases h : (e.mac == mac) = true
    · rw [if_pos h, hf, h]
      rfl
    · have hfalse : (e.mac == mac) = false := Bool.not_eq_true _ ▸ h
      rw [if_neg h, hfalse]
      exact find_mac_map mac f hf l

section Refresh
variable {s : State} {p : PeerMsg} {e : PeerEntry}

/-- A datagram of a table peer from the address it had sets when it was last heard. -/
theorem peerRefresh_of_same_ip (h : peerOf s p.mac = some e) (hip : e.ip = p.ip) :
    peerRefresh s p = modPeers s fun q => { q with
      table := q.table.map fun x => if x.mac == p.mac then { x with heard := s.now, ip := p.ip } else x } := by
  unfold peerRefresh
  rw [h]
  dsimp only
  rw [hip]
  exact if_pos (beq_self_eq_true _)

/-- A refresh changes the table of peers and nothing else of the exchange. -/
theorem peerRefresh_peers (s : State) (p : PeerMsg) :
    (peerRefresh s p).peers = { s.peers with table := (peerRefresh s p).peers.table } := by
  unfold peerRefresh
  split
  · rfl
  · dsimp only
    split
    · rfl
    · rw [raise_peers]
      rfl

/-- An ANNOUNCE of a table peer in an accepted zone renews its entry. -/
theorem takeAnnounce_of_known {a : Announce} (hzone : zoneAccepted s p.zone = true) (h : peerOf s p.mac = some e) (hip : e.ip = p.ip) :
    peerOf (takeAnnounce s p a) p.mac = some { e with heard := s.now, zone := p.zone, embId := a.embId, embAccept := a.embAccept } ∧
      (takeAnnounce s p a).peers.table.length = s.peers.table.length := by
  unfold takeAnnounce
  rw [hzone, h, Bool.not_true, if_neg Bool.false_ne_true, peerRefresh_of_same_ip h hip]
  refine ⟨?_, ?_⟩
  · have hrefreshed := find_mac_map p.mac (fun x => { x with heard := s.now, ip := p.ip }) (fun _ => rfl) s.peers.table
    have hrenewed := find_mac_map p.mac (fun x => { x with zone := p.zone, embId := a.embId, embAccept := a.embAccept }) (fun _ => rfl)
      (s.peers.table.map fun x => if x.mac == p.mac then { x with heard := s.now, ip := p.ip } else x)
    have hfound : s.peers.table.find? (fun e => e.mac == p.mac) = some e := h
    refine hrenewed.trans ?_
    rw [hrefreshed, hfound, ← hip]
    rfl
  · exact (List.length_map _).trans (List.length_map _)

end Refresh

/-! ### EMBED items and the merge -/

theorem stampMac_length {item : List Byte} (h : item.length = 128) (mac : BitVec 48) : (stampMac item mac).length = 128 := by
  unfold stampMac macBytes beBytes
  simp only [List.length_append, List.length_take, List.length_drop, List.length_reverse, length_leBytes, h]
  rfl

theorem stageItem_of_room {s : State} (h : s.peers.staged.length < 512) (item : List Byte) :
    stageItem s item = modPeers s fun p => { p with
      staged := p.staged ++ [{ bytes := item, received := s.now, order := p.order }], order := p.order + 1,
      stagedEpoch := p.stagedEpoch + 1, rx := p.rx + 1 } := by
  unfold stageItem
  rw [if_neg (Nat.not_le.mpr h)]

theorem mfind_mput {α : Type} (i : Nat) (x : α) : ∀ m : List (Nat × α), mfind (mput m i x) i = some x
  | [] => by rw [mput, mfind, if_pos rfl]
  | (k, v) :: m => by
    rw [mput]
    split_ifs with hlt heq
    · rw [mfind, if_pos rfl]
    · rw [mfind, if_pos rfl]
    · rw [mfind, if_neg heq, mfind_mput i x m]

theorem writeEntry_peers (s : State) (d : Die) (base e : Nat) (b : List Byte) : (writeEntry s d base e b).peers = s.peers :=
  writeEntry_keeps ((closed_peers s).sub (by decide)) s d base e b rfl

theorem writeEntry_ledgers (s : State) (d : Die) (base e : Nat) (b : List Byte) : (writeEntry s d base e b).ledgers = s.ledgers :=
  writeEntry_keeps ((closed_ledgers s).sub (by decide)) s d base e b rfl

/-- An item that is kept takes the entry of its MAC and TRACK_ID, else the lowest empty one. -/
theorem mergeItem_of_entry {s : State} {d : Die} {m : SqiMeta} {x : Staged} {e : Nat} (hkind : itemKind x.bytes ≠ 2)
    (hentry : slotOf s.peers (itemMac x.bytes) (itemTrack x.bytes) = some e ∨
      (slotOf s.peers (itemMac x.bytes) (itemTrack x.bytes) = none ∧ emptySlot s.peers m.peerSlots = some e)) :
    (mergeItem s d m x).peers = { s.peers with
        slots := mput s.peers.slots e { mac := itemMac x.bytes, track := itemTrack x.bytes, received := x.received, order := x.order } } ∧
      (mergeItem s d m x).ledgers = s.ledgers := by
  have htaken : (slotOf s.peers (itemMac x.bytes) (itemTrack x.bytes) <|> emptySlot s.peers m.peerSlots <|> oldestSlot s.peers) = some e := by
    rcases hentry with hhit | ⟨hnone, hempty⟩
    · rw [hhit]
      rfl
    · rw [hnone, hempty]
      rfl
  unfold mergeItem
  dsimp only
  rw [if_neg (by simpa using hkind), htaken]
  dsimp only
  rw [writeEntry_peers, writeEntry_ledgers]
  exact ⟨rfl, rfl⟩

/-- Settles O51: the gate of a peer's datagram, then the table, the staged items and the merge. -/
theorem peerExchange : Obligations.PeerExchange := by
  unfold Obligations.PeerExchange
  refine ⟨fun s => ⟨fun hoff => ?_, fun hon hlink => ?_, announceBytes_length (acceptZones_length s)⟩,
    fun p a items s => ⟨fun hoff => ?_, fun hon hseason hform => ?_⟩, fun p a s hon hauth hseason hform hmac => ?_,
    fun p item e s hon hauth hseason hform hmac hitem => ?_, fun p s hon hauth hseason hform hmac hknown => ?_,
    fun mac s => ⟨_, exec_peerAgeOut mac s, peerOf_peerRemove s mac, rfl⟩, fun d m x e s hkind hentry => ?_⟩
  · rw [exec_announceSend, execAnnounceSend, hoff]
    rfl
  · rw [exec_announceSend, execAnnounceSend, hon]
    unfold sendPeer
    rw [hlink]
    rfl
  · rw [exec_peerAnnounce, exec_peerEmbed, execPeerEmbed, exec_peerBye, peerGate_of_off _ hoff, peerGate_of_off _ hoff, peerGate_of_off _ hoff]
    exact ⟨rfl, rfl, rfl⟩
  · rw [exec_peerAnnounce, exec_peerEmbed, execPeerEmbed, exec_peerBye, peerGate_of_malformed _ hon hseason hform,
      peerGate_of_malformed _ hon hseason hform, peerGate_of_malformed _ hon hseason hform]
    exact ⟨rfl, rfl, rfl⟩
  · have hexec := exec_peerAnnounce p a s
    rw [peerGate_of_passing _ hon hauth hseason hform hmac] at hexec
    have hframe := (execPeerAnnounce_keeps (closed_sameBut 0x20600000000 s rfl) p a s (SameBut.refl _ s)).of _ hexec
    refine ⟨fun hzone hnone hroom => ?_, fun hzone hnone hfull => ?_, fun hzone => ⟨_, hexec, hframe, ?_⟩, fun e hzone hsome hip => ?_⟩
    · rw [hexec, takeAnnounce, hzone, hnone, Bool.not_true, if_neg Bool.false_ne_true]
      dsimp only
      rw [if_pos hroom]
      rfl
    · rw [hexec, takeAnnounce, hzone, hnone, Bool.not_true, if_neg Bool.false_ne_true]
      dsimp only
      rw [if_neg (Nat.not_lt.mpr hfull)]
    · rw [takeAnnounce, hzone, Bool.not_false, if_pos rfl]
      exact ⟨peerOf_peerRemove s p.mac, rfl⟩
    · exact ⟨_, hexec, hframe, takeAnnounce_of_known hzone hsome hip⟩
  · have hfits : ([item].any (fun i => i.length != 128) || decide (11 < [item].length)) = false := by
      simp [hitem]
    have hexec := exec_peerEmbed p [item] s
    rw [execPeerEmbed, peerGate_of_passing _ hon hauth hseason hform hmac, hfits, if_neg Bool.false_ne_true] at hexec
    have hframe := fun t => (execPeerEmbed_keeps (closed_sameBut 0x20600000000 s rfl) p [item] s (SameBut.refl _ s)).of t
    obtain hpeers := peerRefresh_peers s p
    refine ⟨fun hnone => ?_, fun hsome hip hcompatible haccept hroom => ?_, fun hsome hnot => ?_⟩
    · rw [hexec, hnone]
    · rw [hsome] at hexec
      dsimp only at hexec
      rw [hcompatible, haccept] at hexec
      have hnow : (peerRefresh s p).now = s.now := peerRefresh_keeps ((closed_now s).sub (by decide)) s p rfl
      have hledgers : (peerRefresh s p).ledgers = s.ledgers := peerRefresh_keeps ((closed_ledgers s).sub (by decide)) s p rfl
      have hstage := stageItem_of_room (s := peerRefresh s p) (by rw [hpeers]; exact hroom) (stampMac item p.mac)
      have hone : exec (.peerEmbed p [item]) s = .next (stageItem (peerRefresh s p) (stampMac item p.mac)) := hexec
      refine ⟨_, hone, hframe _ hone, ?_, ?_, stampMac_length hitem p.mac, ?_⟩
      · rw [hstage, modPeers_peers, hpeers, hnow]
      · rw [hstage, modPeers_peers, hpeers]
      · rw [hstage, modPeers_ledgers, hledgers]
    · have hdrops : (!compatible s e || !embAccept s) = true := by
        rcases hnot with h | h
        · rw [h]; rfl
        · rw [h]; exact Bool.or_true _
      rw [hsome] at hexec
      dsimp only at hexec
      rw [hdrops, if_pos rfl] at hexec
      refine ⟨_, hexec, hframe _ hexec, ?_⟩
      unfold peerDrop
      rw [modPeers_peers, hpeers]
      exact ⟨rfl, rfl⟩
  · rw [exec_peerBye, exec_peerAgeOut, peerGate_of_passing _ hon hauth hseason hform hmac, hknown, if_pos rfl]
    exact ⟨rfl, rfl⟩
  · obtain ⟨hpeers, hledgers⟩ := mergeItem_of_entry (d := d) hkind hentry
    refine ⟨?_, hledgers⟩
    rw [hpeers]
    exact mfind_mput ..

end Sys2Proof.Proofs
end

section
/-! PROOF. The listener's states and the faults of its inputs (R531, R538, R540, R544, Table 17.8). -/
namespace Sys2Proof.Proofs
open Sys2Proof Sys2Proof.Machine Sys2Proof.Laws

theorem exec_listenerStartDone (s : State) : exec .listenerStartDone s = execListenerStartDone s := rfl
theorem exec_listenerSelftest (p : Path) (v : Word) (s : State) :
    exec (.listenerSelftest p v) s = .next (answerWrite p 0x00080000 (lstCtrlReg s p (v ||| 0x200))) := rfl
theorem exec_selftestDone (l0 l1 : Int) (s : State) : exec (.selftestDone l0 l1) s = execSelftestDone l0 l1 s := rfl
theorem exec_micBiasShort (m : Nat) (s : State) : exec (.micBiasShort m) s = execMicBiasShort m s := rfl
theorem exec_micBiasRetry (m : Nat) (s : State) : exec (.micBiasRetry m) s = execMicBiasRetry m s := rfl
theorem exec_micOpen (m : Nat) (s : State) : exec (.micOpen m) s = execMicOpen m s := rfl
theorem exec_micOpenCleared (m : Nat) (s : State) : exec (.micOpenCleared m) s = execMicOpenCleared m s := rfl
theorem exec_micSilent (m : Nat) (s : State) : exec (.micSilent m) s = execMicSilent m s := rfl
theorem exec_modClockLost (s : State) : exec .modClockLost s = execModClockLost s := rfl
theorem exec_listenerWatchdog (s : State) : exec .listenerWatchdog s = execListenerWatchdog s := rfl

/-! ### One input -/

section Input
variable (s : State) (m : Nat)

@[simp] theorem micOf_modMic (f : Mic → Mic) : micOf (modMic s m f) m = f (micOf s m) := by
  unfold micOf modMic
  by_cases h : (m == 0) = true
  · simp only [h, if_true]
    rfl
  · simp only [h, Bool.false_eq_true, if_false]
    rfl

theorem micOf_modMic_other (h : m < 2) (f : Mic → Mic) : micOf (modMic s m f) (1 - m) = micOf s (1 - m) := by
  obtain rfl | rfl : m = 0 ∨ m = 1 := by omega
  · rfl
  · rfl

theorem micOf_of_lst {s t : State} (h0 : t.lst.mic0 = s.lst.mic0) (h1 : t.lst.mic1 = s.lst.mic1) (m : Nat) : micOf t m = micOf s m := by
  unfold micOf
  rw [h0, h1]

theorem modMic_lst (f : Mic → Mic) : (modMic s m f).lst = { s.lst with mic0 := (modMic s m f).lst.mic0, mic1 := (modMic s m f).lst.mic1 } := by
  unfold modMic
  dsimp only [modLst_lst]
  split
  · rfl
  · rfl

theorem micUsed_of_regs {s t : State} (h : t.regs = s.regs) (hpart : t.part = s.part) (m : Nat) : micUsed t m = micUsed s m := by
  unfold micUsed rb rget
  rw [h, hpart]

theorem micFault_lst (sev : Nat) : (micFault s m sev).lst = s.lst := micFault_keeps ((closed_lst s).sub (by decide)) s m sev rfl

theorem micUsed_micFault (sev k : Nat) : micUsed (micFault s m sev) k = micUsed s k :=
  micUsed_of_regs (micFault_keeps ((closed_regs s).sub (by decide)) s m sev rfl)
    (micFault_keeps ((closed_part s).sub (by decide)) s m sev rfl) k

end Input

/-! ### Every input in use faulty -/

/-- Does a running listener have no working input among those in use? -/
def allFaulty (s : State) : Bool :=
  s.lst.state == .running && micsUsed s != [] && (micsUsed s).all fun k => micFaulty (micOf s k)

theorem lstFaultCheck_lst (s : State) (m : Nat) :
    (lstFaultCheck s m).lst = if allFaulty s then { s.lst with state := .fault } else s.lst := by
  unfold lstFaultCheck allFaulty
  split
  · exact micFault_lst ..
  · rfl

theorem micOf_lstFaultCheck (s : State) (m k : Nat) : micOf (lstFaultCheck s m) k = micOf s k := by
  refine micOf_of_lst ?_ ?_ k
  · rw [lstFaultCheck_lst]
    split <;> rfl
  · rw [lstFaultCheck_lst]
    split <;> rfl

theorem mem_micsUsed {s : State} {k : Nat} : k ∈ micsUsed s ↔ k < 2 ∧ micUsed s k = true := by
  unfold micsUsed
  rw [List.mem_filter, List.mem_cons, List.mem_singleton]
  exact and_congr_left fun _ => by omega

theorem allFaulty_of_working {s : State} {k : Nat} (hk : k < 2) (hused : micUsed s k = true) (hworks : micFaulty (micOf s k) = false) :
    allFaulty s = false := by
  unfold allFaulty
  rw [Bool.and_eq_false_iff]
  refine .inr (Bool.eq_false_iff.mpr fun hall => ?_)
  exact absurd (hworks.symm.trans (List.all_eq_true.mp hall k (mem_micsUsed.mpr ⟨hk, hused⟩))) Bool.false_ne_true

theorem allFaulty_of_all {s : State} {m : Nat} (hm : m < 2) (hrunning : s.lst.state = .running) (hused : micUsed s m = true)
    (hfaulty : ∀ k, k < 2 → micFaulty (micOf s k) = true) : allFaulty s = true := by
  have hsome : micsUsed s ≠ [] := List.ne_nil_of_mem (mem_micsUsed.mpr ⟨hm, hused⟩)
  unfold allFaulty
  rw [hrunning, bne_iff_ne.mpr hsome]
  exact List.all_eq_true.mpr fun k hk => hfaulty k (mem_micsUsed.mp hk).1

/-! ### Recovery -/

/-- Outside FAULT an input that recovers leaves the others' state. -/
theorem lstRecover_of_not_fault {s : State} (h : s.lst.state ≠ .fault) (m : Nat) : lstRecover s m = s := by
  unfold lstRecover
  rw [if_neg (by simp [h])]

theorem micOf_lstRecover (s : State) (m : Nat) : micOf (lstRecover s m) m = micOf s m ∨ micOf (lstRecover s m) m = micFresh (micOf s m) := by
  unfold lstRecover
  split
  · refine .inr ?_
    unfold micOf
    dsimp only [modLst_lst]
    split
    · rfl
    · rfl
  · exact .inl rfl

theorem micFresh_of_working {x : Mic} (h : x.status = 0) :
    (micFresh x).status = 0 ∧ (micFresh x).biasOff = x.biasOff ∧ (micFresh x).retries = x.retries := by
  refine ⟨?_, rfl, rfl⟩
  unfold micFresh micFaulty
  rw [h]
  rfl

theorem lstRecover_of_fault {s : State} {m : Nat} (h : s.lst.state = .fault) (hused : micUsed s m = true) :
    (lstRecover s m).lst.state = .arming := by
  unfold lstRecover
  rw [h, hused]
  rfl

/-! ### The faults -/

/-- A fault of an input that is counted, reported, and may end the listener's run. -/
def faultOf (s : State) (m : Nat) (f : Mic → Mic) (g : ListenSt → ListenSt) : State :=
  lstFaultCheck (micFault (modLst (modMic s m f) g) m 1) m

section Fault
variable {s : State} {m : Nat} {f : Mic → Mic} {g : ListenSt → ListenSt} (hm : m < 2)
  (hg : ∀ l, (g l).mic0 = l.mic0 ∧ (g l).mic1 = l.mic1 ∧ (g l).state = l.state)
include hg

theorem micOf_reported (k : Nat) : micOf (micFault (modLst (modMic s m f) g) m 1) k = micOf (modMic s m f) k := by
  refine micOf_of_lst ?_ ?_ k
  · rw [micFault_lst]
    exact (hg _).1
  · rw [micFault_lst]
    exact (hg _).2.1

theorem micOf_faultOf : micOf (faultOf s m f g) m = f (micOf s m) := by
  unfold faultOf
  rw [micOf_lstFaultCheck, micOf_reported hg, micOf_modMic]

theorem state_reported : (micFault (modLst (modMic s m f) g) m 1).lst.state = s.lst.state := by
  rw [micFault_lst]
  refine (hg _).2.2.trans ?_
  rw [modMic_lst]

include hm

theorem micOf_faultOf_other : micOf (faultOf s m f g) (1 - m) = micOf s (1 - m) := by
  unfold faultOf
  rw [micOf_lstFaultCheck, micOf_reported hg, micOf_modMic_other s m hm]

theorem faultOf_state_of_working (hused : micUsed s (1 - m) = true) (hworks : micFaulty (micOf s (1 - m)) = false) :
    (faultOf s m f g).lst.state = s.lst.state := by
  have hstays : allFaulty (micFault (modLst (modMic s m f) g) m 1) = false := by
    refine allFaulty_of_working (k := 1 - m) (by omega) ?_ ?_
    · exact (micUsed_micFault ..).trans hused
    · rw [micOf_reported hg, micOf_modMic_other s m hm]
      exact hworks
  unfold faultOf
  rw [lstFaultCheck_lst, hstays, if_neg Bool.false_ne_true, state_reported hg]

theorem faultOf_state_of_faulty (hrunning : s.lst.state = .running) (hused : micUsed s m = true)
    (hnew : micFaulty (f (micOf s m)) = true) (hother : micFaulty (micOf s (1 - m)) = true) :
    (faultOf s m f g).lst.state = .fault := by
  have hends : allFaulty (micFault (modLst (modMic s m f) g) m 1) = true := by
    refine allFaulty_of_all hm ((state_reported hg).trans hrunning) ?_ fun k hk => ?_
    · exact (micUsed_micFault ..).trans hused
    · rw [micOf_reported hg]
      obtain rfl | rfl : k = m ∨ k = 1 - m := by omega
      · rw [micOf_modMic]
        exact hnew
      · rw [micOf_modMic_other s m hm]
        exact hother
  unfold faultOf
  rw [lstFaultCheck_lst, hends, if_pos rfl]

end Fault

/-- What a fault leaves of the counts is what counting leaves of them. -/
theorem faultOf_count {α : Type} (s : State) (m : Nat) (f : Mic → Mic) (g : ListenSt → ListenSt) (c : ListenSt → α)
    (hc : ∀ (l : ListenSt) (st : LstState), c { l with state := st } = c l) :
    c (faultOf s m f g).lst = c (g (modMic s m f).lst) := by
  unfold faultOf
  rw [lstFaultCheck_lst, micFault_lst]
  split
  · exact hc ..
  · rfl

theorem lstRestart_lst (s : State) : (lstRestart s).lst = { s.lst with
    state := .start, mic0 := micFresh s.lst.mic0, mic1 := micFresh s.lst.mic1, frames := 0, matchUntil := 0, matchRefract := 0 } := rfl

/-- The losses of the clock that count: this one and those of the last 60 s. -/
def lossesNow (s : State) : List Nat := (s.now :: s.lst.clkLosses).filter fun t => decide (s.now < t + secNs 60)

theorem exec_modClockLost_on {s : State} (h : s.lst.state ≠ .off) :
    exec .modClockLost s = .next (
      let f := fresh (modLst s fun l => { l with clkLosses := lossesNow s })
      if 3 ≤ (lossesNow s).length then micFault (modLst f.2 fun l => { l with state := .fault }) f.1 2
      else micFault (lstRestart f.2) f.1 1) := by
  rw [exec_modClockLost, execModClockLost, if_neg (by simpa using h)]
  rfl

/-- Settles O53: START, TEST, the faults of an input and those of the listener. -/
theorem listenerStatesAndFaults : Obligations.ListenerStatesAndFaults := by
  unfold Obligations.ListenerStatesAndFaults
  refine ⟨fun s => ?_, fun v s hfield => ?_, fun v s hrunning hon => ?_, fun l0 l1 s => ⟨fun hnot => ?_, fun htest => ?_⟩,
    fun m s hm => ?_, fun m s hm hbiased => ?_, fun m s hm hstate hoff hgone => ?_,
    fun m s hm => ⟨fun hbiased hclosed => ?_, fun hopen hstate => ?_, fun hclosed => ?_, fun hstate hsilent => ?_⟩,
    fun s hstate => ⟨fun hfew => ?_, fun hmany => ?_, ?_⟩⟩
  · rw [exec_listenerStartDone, execListenerStartDone]
    simp only [beq_iff_eq]
    rfl
  · have hpath : lstPathOk s .i2c = false := congrArg not hfield
    rw [exec_listenerSelftest, lstCtrlReg, hpath, Bool.not_false, if_pos rfl]
    rfl
  · have hfollow : lstFollow (rput s 0x00080000 ((v ||| 0x200) &&& 0x7DFF)) = rput s 0x00080000 ((v ||| 0x200) &&& 0x7DFF) := by
      have hrun : ((rput s 0x00080000 ((v ||| 0x200) &&& 0x7DFF)).lst.state == .off) = false := by
        rw [show (rput s 0x00080000 ((v ||| 0x200) &&& 0x7DFF)).lst = s.lst from rfl, hrunning]
        rfl
      unfold lstFollow
      rw [hon, Bool.not_true, if_neg Bool.false_ne_true, hrun, if_neg Bool.false_ne_true]
    have hbit : wbit (v ||| 0x200) 9 = true := by
      rw [wbit_eq_getLsbD, BitVec.getLsbD_or]
      exact Bool.or_true _
    have hexec : exec (.listenerSelftest .bcp v) s = .next (lstCtrlNow s (v ||| 0x200)) := rfl
    have hrun : ((rput s 0x00080000 ((v ||| 0x200) &&& 0x7DFF)).lst.state == .running) = true := by
      rw [show (rput s 0x00080000 ((v ||| 0x200) &&& 0x7DFF)).lst = s.lst from rfl, hrunning]
      rfl
    unfold lstCtrlNow at hexec
    dsimp only at hexec
    rw [hfollow, hbit, hrun, Bool.and_self, if_pos rfl] at hexec
    exact ⟨_, hexec, rfl, rfl, rfl⟩
  · rw [exec_selftestDone, execSelftestDone, if_pos (by simpa using hnot)]
  · have hexec := exec_selftestDone l0 l1 s
    rw [execSelftestDone, if_neg (by simpa using htest)] at hexec
    exact ⟨_, hexec, rfl, rfl, fun hused => if_pos hused, fun hused => if_pos hused, fun hused => if_neg (by rw [hused]; decide), rfl⟩
  · have hnone : decide (m < 2) = false := decide_eq_false (Nat.not_lt.mpr hm)
    rw [exec_micBiasShort, exec_micBiasRetry, exec_micOpen, exec_micOpenCleared, exec_micSilent, execMicBiasShort, execMicBiasRetry,
      execMicOpen, execMicOpenCleared, execMicSilent, hnone]
    exact ⟨rfl, rfl, rfl, rfl, rfl⟩
  · have hg : ∀ l : ListenSt, ({ l with shorts := satAdd 255 l.shorts 1 } : ListenSt).mic0 = l.mic0 ∧
        ({ l with shorts := satAdd 255 l.shorts 1 } : ListenSt).mic1 = l.mic1 ∧
        ({ l with shorts := satAdd 255 l.shorts 1 } : ListenSt).state = l.state := fun _ => ⟨rfl, rfl, rfl⟩
    have hexec : exec (.micBiasShort m) s = .next (faultOf s m
        (fun x => { x with status := 2, biasOff := true, biasGone := decide (rf s 0x00080008 19 16 ≤ (micOf s m).retries), loudRun := 0 })
        fun l => { l with shorts := satAdd 255 l.shorts 1 }) := by
      rw [exec_micBiasShort, execMicBiasShort, onUnit_of (decide_eq_true hm), hbiased]
      rfl
    refine ⟨_, hexec, (execMicBiasShort_keeps (closed_sameBut 0x20a00000008 s rfl) m s (SameBut.refl _ s)).of _ hexec, ?_, ?_, ?_, ?_,
      micOf_faultOf_other hm hg, fun hrunning hused _ hother => faultOf_state_of_faulty hm hg hrunning hused rfl hother,
      fun hworks hused => faultOf_state_of_working hm hg hused hworks⟩
    · rw [micOf_faultOf hg]
    · rw [micOf_faultOf hg]
    · rw [micOf_faultOf hg]
      exact decide_eq_true_iff
    · rw [faultOf_count _ _ _ _ (·.shorts) fun _ _ => rfl, modMic_lst]
  · have hrecovers : (s.lst.state == .off || !(micOf s m).biasOff || (micOf s m).biasGone) = false := by
      rw [hoff, hgone]
      simpa using hstate
    have hexec := exec_micBiasRetry m s
    rw [execMicBiasRetry, onUnit_of (decide_eq_true hm), hrecovers, if_neg Bool.false_ne_true] at hexec
    have hframe := (execMicBiasRetry_keeps (closed_sameBut 0x800000000 s rfl) m s (SameBut.refl _ s)).of _ hexec
    generalize hback : modMic s m (fun x => { x with status := 0, biasOff := false, retries := x.retries + 1, skip := 5, loudRun := 0 }) = u
      at hexec hframe
    have hmic : micOf u m = { micOf s m with status := 0, biasOff := false, retries := (micOf s m).retries + 1, skip := 5, loudRun := 0 } := by
      rw [← hback, micOf_modMic]
    have hlst : u.lst.state = s.lst.state := by rw [← hback, modMic_lst]
    have hregs : u.regs = s.regs := by rw [← hback]; rfl
    have hpart : u.part = s.part := by rw [← hback]; rfl
    obtain ⟨hstatus, hbias, hretries⟩ := micFresh_of_working (x := micOf u m) (by rw [hmic])
    have hafter : (micOf (lstRecover u m) m).status = 0 ∧ (micOf (lstRecover u m) m).biasOff = false ∧
        (micOf (lstRecover u m) m).retries = (micOf s m).retries + 1 := by
      rcases micOf_lstRecover u m with h | h
      · rw [h, hmic]
        exact ⟨rfl, rfl, rfl⟩
      · rw [h, hstatus, hbias, hretries, hmic]
        exact ⟨rfl, rfl, rfl⟩
    refine ⟨_, hexec, hframe, hafter.1, hafter.2.1, hafter.2.2, fun hnot => ?_, fun hfault hused => ?_⟩
    · rw [lstRecover_of_not_fault (by rw [hlst]; exact hnot), hmic]
      exact ⟨rfl, hlst⟩
    · exact lstRecover_of_fault (hlst.trans hfault) ((micUsed_of_regs hregs hpart m).trans hused)
  · have hg : ∀ l : ListenSt, ({ l with opens := satAdd 255 l.opens 1 } : ListenSt).mic0 = l.mic0 ∧
        ({ l with opens := satAdd 255 l.opens 1 } : ListenSt).mic1 = l.mic1 ∧
        ({ l with opens := satAdd 255 l.opens 1 } : ListenSt).state = l.state := fun _ => ⟨rfl, rfl, rfl⟩
    have hexec : exec (.micOpen m) s = .next (faultOf s m (fun x => { x with status := 1, loudRun := 0 })
        fun l => { l with opens := satAdd 255 l.opens 1 }) := by
      rw [exec_micOpen, execMicOpen, onUnit_of (decide_eq_true hm), hbiased, if_neg (by simpa using hclosed)]
      rfl
    refine ⟨_, hexec, ?_, ?_, (execMicOpen_keeps (closed_sameBut 0x20a00000008 s rfl) m s (SameBut.refl _ s)).of _ hexec⟩
    · rw [micOf_faultOf hg]
    · rw [faultOf_count _ _ _ _ (·.opens) fun _ _ => rfl, modMic_lst]
  · have hexec := exec_micOpenCleared m s
    have hlst : (modMic s m fun x => { x with status := 0 }).lst.state = s.lst.state := by rw [modMic_lst]
    rw [execMicOpenCleared, onUnit_of (decide_eq_true hm), if_neg (by simpa using hopen), lstRecover_of_not_fault (by rw [hlst]; exact hstate)]
      at hexec
    refine ⟨_, hexec, (execMicOpenCleared_keeps (closed_sameBut 0x800000000 s rfl) m s (SameBut.refl _ s)).of _ hexec, ?_, hlst⟩
    rw [micOf_modMic]
  · rw [exec_micOpenCleared, execMicOpenCleared, onUnit_of (decide_eq_true hm), if_pos (by simpa using hclosed)]
  · have hexec := exec_micSilent m s
    rw [execMicSilent, onUnit_of (decide_eq_true hm), hsilent, Bool.or_false, if_neg (by simpa using hstate)] at hexec
    have hframe := (execMicSilent_keeps (closed_sameBut 0x20a00000008 s rfl) m s (SameBut.refl _ s)).of _ hexec
    have hmic : micOf (micFault (modLst (modMic s m fun x => { x with silent := true })
        fun l => { l with silences := satAdd 255 l.silences 1 }) m 1) m = { micOf s m with silent := true } := by
      rw [micOf_reported (g := fun l : ListenSt => { l with silences := satAdd 255 l.silences 1 }) fun _ => ⟨rfl, rfl, rfl⟩, micOf_modMic]
    refine ⟨_, hexec, ?_, ?_, ?_, ?_, hframe⟩
    · rw [hmic]
    · rw [hmic]
    · rw [micFault_lst, modLst_lst, modMic_lst]
    · rw [micFault_lst, modLst_lst, modMic_lst]
  · have hlosses : ¬ 3 ≤ (lossesNow s).length := Nat.not_le.mpr hfew
    have hexec := exec_modClockLost_on hstate
    dsimp only at hexec
    rw [if_neg hlosses] at hexec
    have hframe := (execModClockLost_keeps (closed_sameBut 0x20a00000008 s rfl) s (SameBut.refl _ s)).of _ hexec
    refine ⟨_, hexec, ?_, ?_, ?_, hframe⟩
    · rw [micFault_lst, lstRestart_lst]
    · rw [micFault_lst, lstRestart_lst, fresh_lst, modLst_lst]
    · rw [micFault_lst, lstRestart_lst]
  · have hlosses : 3 ≤ (lossesNow s).length := hmany
    have hexec := exec_modClockLost_on hstate
    dsimp only at hexec
    rw [if_pos hlosses] at hexec
    have hframe := (execModClockLost_keeps (closed_sameBut 0x20a00000008 s rfl) s (SameBut.refl _ s)).of _ hexec
    refine ⟨_, hexec, ?_, ?_, hframe⟩
    · rw [micFault_lst, modLst_lst]
    · rw [micFault_lst, modLst_lst, fresh_lst, modLst_lst]
  · have hexec := exec_listenerWatchdog s
    rw [execListenerWatchdog, if_neg (by simpa using hstate)] at hexec
    have hframe := (execListenerWatchdog_keeps (closed_sameBut 0x20a00000008 s rfl) s (SameBut.refl _ s)).of _ hexec
    refine ⟨_, hexec, ?_, ?_, hframe⟩
    · rw [micFault_lst, lstRestart_lst]
    · rw [micFault_lst, lstRestart_lst, fresh_lst]

end Sys2Proof.Proofs
end

section
/-! PROOF. The listener's frames: the level as a search over an increasing bound, the detectors, and what a frame leaves
(R528–R530, R535, R538). -/
namespace Sys2Proof.Proofs
open Sys2Proof Sys2Proof.Machine Sys2Proof.Laws

theorem exec_audioFrame (x0 x1 : List Int) (scores : List Nat) (b0 b1 : Nat) (ecc : Bool) (s : State) :
    exec (.audioFrame x0 x1 scores b0 b1 ecc) s = execAudioFrame x0 x1 scores b0 b1 ecc s := rfl

/-! ### The level -/

section Level
variable {sum : Nat}

theorem levelAtLeast_iff (n : Nat) : levelAtLeast sum n = true ↔ (160 * 2 ^ 30) ^ 320 ≤ sum ^ 320 * 10 ^ (1 + 2 * n) := by
  unfold levelAtLeast
  exact decide_eq_true_iff

/-- A level that is at least −n is at least −m for a larger m. -/
theorem levelAtLeast_mono {n m : Nat} (hle : n ≤ m) (h : levelAtLeast sum n = true) : levelAtLeast sum m = true := by
  rw [levelAtLeast_iff] at *
  exact h.trans (Nat.mul_le_mul_left _ (Nat.pow_le_pow_right (by decide) (by omega)))

theorem levelSearch_bounds : ∀ k lo : Nat, lo ≤ levelSearch sum k lo ∧ levelSearch sum k lo < lo + 2 ^ k
  | 0, lo => ⟨le_refl lo, Nat.lt_succ_self lo⟩
  | k + 1, lo => by
    rw [levelSearch, Nat.pow_succ]
    split
    · have hbelow := levelSearch_bounds k lo
      omega
    · have habove := levelSearch_bounds k (lo + 2 ^ k)
      omega

/-- The search finds the smallest n for which the level is at least −n. -/
theorem levelSearch_le_iff : ∀ (k lo n : Nat), lo ≤ n → n + 1 < lo + 2 ^ k →
    (levelSearch sum k lo ≤ n ↔ levelAtLeast sum n = true)
  | 0, lo, n, hlo, hhi => by rw [Nat.pow_zero] at hhi; omega
  | k + 1, lo, n, hlo, hhi => by
    have hpos : 1 ≤ 2 ^ k := Nat.one_le_two_pow
    rw [Nat.pow_succ] at hhi
    rw [levelSearch]
    split
    next hmid =>
      by_cases hn : n + 1 < lo + 2 ^ k
      · exact levelSearch_le_iff k lo n hlo hn
      · have hbelow := levelSearch_bounds (sum := sum) k lo
        exact ⟨fun _ => levelAtLeast_mono (by omega) hmid, fun _ => by omega⟩
    next hmid =>
      by_cases hn : lo + 2 ^ k ≤ n
      · exact levelSearch_le_iff k (lo + 2 ^ k) n hn (by omega)
      · have habove := levelSearch_bounds (sum := sum) k (lo + 2 ^ k)
        exact ⟨fun hle => by omega, fun hleast => absurd (levelAtLeast_mono (by omega) hleast) hmid⟩

end Level

theorem frameLevel_bounds (xs : List Int) : -1600 ≤ frameLevel xs ∧ frameLevel xs ≤ 0 := by
  unfold frameLevel
  omega

theorem frameLevel_ge_iff (xs : List Int) {n : Nat} (hn : n < 1600) :
    -(n : Int) ≤ frameLevel xs ↔ (160 * 2 ^ 30) ^ 320 ≤ (frameSum xs) ^ 320 * 10 ^ (1 + 2 * n) := by
  have hsearch := levelSearch_le_iff (sum := frameSum xs) 11 0 n (Nat.zero_le n) (by omega)
  rw [← levelAtLeast_iff, ← hsearch]
  unfold frameLevel
  omega

/-! ### What a frame leaves -/

/-- What frames keep: a predicate that no change of the listener but to its frame count and state ends, nor a record or a report, and
that says no input may end WINTER. -/
structure RunClosed (P : State → Prop) : Prop where
  mod : ∀ t g, (∀ l : ListenSt, (g l).frames = l.frames ∧ (g l).state = l.state) → P t → P (modLst t g)
  report : ∀ t b, P t → P (raiseRecord t b)
  fault : ∀ t m sev, P t → P (micFault t m sev)
  quiet : ∀ t, P t → rb t 0x00080000 8 = false

/-- Nothing but the listener, records, the log and a free value differs, the count of frames is n, and the listener runs. -/
def RunningAt (s : State) (n : Nat) (t : State) : Prop :=
  SameBut 0x20a00000008 s t ∧ t.lst.frames = n ∧ t.lst.state = .running

section Closed
variable {P : State → Prop} (c : RunClosed P) {t : State}
include c

theorem modMic_runs (h : P t) (m : Nat) (f : Mic → Mic) : P (modMic t m f) := by
  refine c.mod t _ (fun l => ?_) h
  split
  · exact ⟨rfl, rfl⟩
  · exact ⟨rfl, rfl⟩

theorem micClip_runs (h : P t) (m : Nat) (xs : List Int) : P (micClip t m xs) := by
  unfold micClip
  dsimp only
  split_ifs
  · exact c.fault _ _ _ (c.mod _ _ (fun _ => ⟨rfl, rfl⟩) (modMic_runs c h m _))
  · exact modMic_runs c h m _
  · exact modMic_runs c h m _
  · exact modMic_runs c h m _
  · exact modMic_runs c h m _

theorem micFrame_runs (h : P t) (m : Nat) (xs : List Int) : P (micFrame t m xs) := by
  have hclip := micClip_runs c (modMic_runs c (modMic_runs c h m (fun x =>
      let dg : Int := (micGain t m : Int) - x.gain
      let x1 := if dg == 0 then x else
        { x with gain := micGain t m, floor := x.floor + 768 * dg, sum := x.sum + 48 * dg * (x.frames : Int), loudRun := 0 }
      if micBias t m == x.bias && micBiasEn t m == x.biasEn then x1
      else { x1 with bias := micBias t m, biasEn := micBiasEn t m, skip := 5, loudRun := 0 })) m fun x => { x with
    level := frameLevel xs, silent := x.silent && decide (frameLevel xs ≤ -1440), history := (frameLevel xs :: x.history).take 150 }) m xs
  unfold micFrame
  dsimp only
  split_ifs
  · exact modMic_runs c hclip m _
  · exact modMic_runs c hclip m _
  · exact modMic_runs c hclip m _
  · exact modMic_runs c hclip m _

theorem recogError_runs (h : P t) : P (recogError t) := by
  unfold recogError
  split
  · exact c.fault _ _ _ (c.mod _ _ (fun _ => ⟨rfl, rfl⟩) h)
  · exact h

theorem audioWake_runs (h : P t) (phrase m : Nat) (level : Int) : P (audioWake t phrase m level) := by
  unfold audioWake
  dsimp only
  rw [c.quiet t h, Bool.false_and, if_neg Bool.false_ne_true]
  exact c.report _ _ (c.mod _ _ (fun _ => ⟨rfl, rfl⟩) h)

theorem fireEnergy_runs (h : P t) : P (fireEnergy t) := by
  unfold fireEnergy
  dsimp only
  split
  · exact c.mod _ _ (fun _ => ⟨rfl, rfl⟩) h
  · refine audioWake_runs c ?_ _ _ _
    refine foldl_keeps (P := P) (fun u m hu => ?_) _ _ ?_
    · exact modMic_runs c hu m _
    · exact c.mod _ _ (fun _ => ⟨rfl, rfl⟩) h

theorem matchFrame_runs (h : P t) (scores : List Nat) : P (matchFrame t scores) := by
  unfold matchFrame
  extract_lets m u
  have hwindow : P u := by
    unfold u
    split
    · exact h
    · exact c.mod _ _ (fun _ => ⟨rfl, rfl⟩) h
  clear_value u
  split
  · exact hwindow
  · split
    · exact hwindow
    · split
      · exact c.mod _ _ (fun _ => ⟨rfl, rfl⟩) hwindow
      · refine audioWake_runs c ?_ _ _ _
        exact c.mod _ _ (fun _ => ⟨rfl, rfl⟩) hwindow

end Closed

theorem raiseRecord_lst (s : State) (b : RecBody) : (raiseRecord s b).lst = s.lst :=
  raiseRecord_keeps ((closed_lst s).sub (by decide)) s b rfl

theorem rb_of_sameBut {s t : State} (h : SameBut 0x20a00000008 s t) (a i : Nat) : rb t a i = rb s a i := by
  have hsame : t = { s with lst := t.lst, freeIdx := t.freeIdx, recs := t.recs, log := t.log } := h
  rw [hsame]
  rfl

theorem runClosed_runningAt {s : State} (hquiet : rb s 0x00080000 8 = false) (n : Nat) : RunClosed (RunningAt s n) where
  mod := fun t g hg ⟨hsame, hframes, hstate⟩ => ⟨modLst_keeps ((closed_sameBut 0x20a00000008 s rfl).sub (by decide)) t g hsame,
    (hg t.lst).1.trans hframes, (hg t.lst).2.trans hstate⟩
  report := fun t b ⟨hsame, hframes, hstate⟩ => ⟨raiseRecord_keeps ((closed_sameBut 0x20a00000008 s rfl).sub (by decide)) t b hsame,
    (congrArg ListenSt.frames (raiseRecord_lst t b)).trans hframes, (congrArg ListenSt.state (raiseRecord_lst t b)).trans hstate⟩
  fault := fun t m sev ⟨hsame, hframes, hstate⟩ => ⟨micFault_keeps ((closed_sameBut 0x20a00000008 s rfl).sub (by decide)) t m sev hsame,
    (congrArg ListenSt.frames (micFault_lst t m sev)).trans hframes, (congrArg ListenSt.state (micFault_lst t m sev)).trans hstate⟩
  quiet := fun t h => (rb_of_sameBut h.1 _ _).trans hquiet

/-- A frame in RUNNING counts one frame and leaves the listener running. -/
theorem audioFrame_running {s : State} (hrunning : s.lst.state = .running) (hquiet : rb s 0x00080000 8 = false) (x0 x1 : List Int)
    (scores : List Nat) (b0 b1 : Nat) (ecc : Bool) :
    ∃ t, exec (.audioFrame x0 x1 scores b0 b1 ecc) s = .next t ∧ RunningAt s (s.lst.frames + 1) t := by
  have hexec := exec_audioFrame x0 x1 scores b0 b1 ecc s
  unfold execAudioFrame at hexec
  dsimp only at hexec
  rw [hrunning] at hexec
  refine ⟨_, hexec, ?_⟩
  have c := runClosed_runningAt hquiet s.lst.frames
  have hs : RunningAt s s.lst.frames s := ⟨SameBut.refl _ s, rfl, hrunning⟩
  have hcurrents := modMic_runs c (modMic_runs c hs 0 fun x => { x with current := min b0 4095 }) 1 fun x => { x with current := min b1 4095 }
  have hrecog : RunningAt s s.lst.frames (if ecc then recogError (modMic (modMic s 0 fun x => { x with current := min b0 4095 }) 1 fun x =>
      { x with current := min b1 4095 }) else modMic (modMic s 0 fun x => { x with current := min b0 4095 }) 1 fun x =>
      { x with current := min b1 4095 }) := by
    split
    · exact recogError_runs c hcurrents
    · exact hcurrents
  obtain ⟨hsame, hframes, hstate⟩ := hrecog
  have hcounted : ∀ u, SameBut 0x20a00000008 s u → u.lst.frames = s.lst.frames → u.lst.state = .running →
      RunningAt s (s.lst.frames + 1) (modLst u fun l => { l with frames := l.frames + 1 }) := fun u hu hn hst =>
    ⟨modLst_keeps ((closed_sameBut 0x20a00000008 s rfl).sub (by decide)) u _ hu, congrArg (· + 1) hn, hst⟩
  have c' := runClosed_runningAt hquiet (s.lst.frames + 1)
  refine matchFrame_runs c' (fireEnergy_runs c' ?_) _
  refine foldl_keeps (P := RunningAt s (s.lst.frames + 1)) (fun u m hu => micFrame_runs c' hu m _) _ _ ?_
  exact hcounted _ hsame hframes hstate

/-! ### The detectors and their firing -/

theorem hits_of_first {s : State} (h0 : micHits s 0 = true) (h1 : micHits s 1 = false) : [0, 1].filter (micHits s) = [0] := by
  rw [List.filter_cons, if_pos h0, List.filter_cons, if_neg (by rw [h1]; decide), List.filter_nil]

theorem fireEnergy_of_none {s : State} (h : ∀ m, m < 2 → micHits s m = false) : fireEnergy s = s := by
  have hhits : [0, 1].filter (micHits s) = [] := by
    rw [List.filter_cons, if_neg (by rw [h 0 (by decide)]; decide), List.filter_cons, if_neg (by rw [h 1 (by decide)]; decide),
      List.filter_nil]
  unfold fireEnergy
  rw [hhits]
  have hnone : ∀ l : ListenSt, { l with suppressed := l.suppressed + toWord 0 } = l := fun l => by
    rw [show l.suppressed + toWord 0 = l.suppressed from BitVec.add_zero _]
  exact congrArg (fun l => { s with lst := l }) (hnone s.lst)

section Fire
variable {s : State} (h0 : micHits s 0 = true) (h1 : micHits s 1 = false)
include h0 h1

/-- An input that reaches HOLD outside REFRACT raises one AUDIO_WAKE with its level. -/
theorem fireEnergy_of_first (hopen : (micOf s 0).refractUntil ≤ s.lst.frames) (hquiet : rb s 0x00080000 8 = false) :
    fireEnergy s = raiseRecord { s with lst := { s.lst with
      suppressed := s.lst.suppressed + 0#32, wakes := s.lst.wakes + 1
      mic0 := { s.lst.mic0 with refractUntil := s.lst.frames + lstRefract s } } }
      (.audioWake 0 0 (micOf s 0).loudMax (seasonCode s.power.season)) := by
  have hone : [0].filter (fun m => decide ((micOf s m).refractUntil ≤ s.lst.frames)) = [0] := by
    rw [List.filter_cons, if_pos (by simpa using hopen), List.filter_nil]
  unfold fireEnergy
  rw [hits_of_first h0 h1]
  dsimp only
  rw [hone]
  unfold audioWake
  dsimp only
  refine if_neg fun hwake => ?_
  exact absurd (hquiet.symm.trans (Bool.and_eq_true_iff.mp hwake).1) Bool.false_ne_true

/-- Within REFRACT it is counted as suppressed. -/
theorem fireEnergy_of_refract (hopen : s.lst.frames < (micOf s 0).refractUntil) :
    fireEnergy s = { s with lst := { s.lst with suppressed := s.lst.suppressed + 1 } } := by
  have hnone : [0].filter (fun m => decide ((micOf s m).refractUntil ≤ s.lst.frames)) = [] := by
    rw [List.filter_cons, if_neg (by simpa using hopen), List.filter_nil]
  unfold fireEnergy
  rw [hits_of_first h0 h1]
  dsimp only
  rw [hnone]
  rfl

end Fire

/-- A quiet frame moves the floor and ends the loud run. -/
theorem micDetect_of_quiet {s : State} {m : Nat} {e : Int} (h : 16 * e < (micOf s m).floor + lstThresh s) :
    micOf (micDetect s m e) m = { micOf s m with floor := floorMove (micOf s m).floor e (lstTau s), loudRun := 0 } := by
  unfold micDetect
  rw [micOf_modMic, if_pos h]

/-- A loud frame counts, and moves the floor once 200 loud frames have passed. -/
theorem micDetect_of_loud {s : State} {m : Nat} {e : Int} (h : (micOf s m).floor + lstThresh s ≤ 16 * e) :
    (micOf (micDetect s m e) m).loudRun = (micOf s m).loudRun + 1 ∧
      (micOf (micDetect s m e) m).floor =
        if 200 < (micOf s m).loudRun + 1 then floorMove (micOf s m).floor e (lstTau s) else (micOf s m).floor := by
  unfold micDetect
  rw [micOf_modMic, if_neg (not_lt.mpr h)]
  exact ⟨rfl, rfl⟩

theorem micGather_mic (s : State) (m : Nat) (e : Int) :
    (micOf (micGather s m e) m).frames = (micOf s m).frames + 1 ∧
      (micOf (micGather s m e) m).floor =
        if ((micOf s m).frames + 1) == 100 then divHalfUp (16 * ((micOf s m).sum + e)) 100 else (micOf s m).floor := by
  unfold micGather
  rw [micOf_modMic]
  exact ⟨rfl, rfl⟩

/-- Settles O52: the level by its search, what every frame leaves, the floor, and the firing. -/
theorem listenerFrames : Obligations.ListenerFrames := by
  unfold Obligations.ListenerFrames
  refine ⟨fun xs n hn => ⟨frameLevel_ge_iff xs hn, frameLevel_bounds xs⟩, fun x0 x1 scores b0 b1 ecc s hoff => ?_,
    fun x0 x1 scores b0 b1 s hstate => ?_, fun x0 x1 scores b0 b1 ecc s hrunning hquiet => ?_, fun m e s hm => ?_,
    fun s => ⟨fireEnergy_of_none, fun h0 h1 hopen hquiet => ?_, fun h0 h1 hrefract => fireEnergy_of_refract h0 h1 hrefract⟩⟩
  · rw [exec_audioFrame, execAudioFrame, hoff]
    rfl
  · rw [exec_audioFrame, execAudioFrame]
    rcases hstate with h | h | h
    · rw [h]; rfl
    · rw [h]; rfl
    · rw [h]; rfl
  · obtain ⟨t, hexec, hsame, hframes, hstate⟩ := audioFrame_running hrunning hquiet x0 x1 scores b0 b1 ecc
    exact ⟨t, hexec, hsame, hframes, hstate⟩
  · obtain ⟨hframes, hfloor⟩ := micGather_mic s m e
    refine ⟨fun hlast => ?_, hframes, fun hquiet => ?_, fun hloud => ?_, micOf_modMic_other s m hm _⟩
    · rw [hfloor, hlast]
      rfl
    · rw [micDetect_of_quiet hquiet]
      exact ⟨rfl, rfl⟩
    · obtain ⟨hrun, hmoved⟩ := micDetect_of_loud hloud
      exact ⟨hrun, fun hfew => by rw [hmoved, if_neg (by omega)], fun hmany => by rw [hmoved, if_pos (by omega)]⟩
  · exact ⟨_, fireEnergy_of_first h0 h1 hopen hquiet, rfl, rfl, rfl, rfl⟩

end Sys2Proof.Proofs
end

section
/-! PROOF. The housekeeping converters: what a conversion, a fault and a settled state leave of the block (R548, R549, R556, R557,
R559, R560, R567). -/
namespace Sys2Proof.Proofs
open Sys2Proof Sys2Proof.Machine Sys2Proof.Laws

/-! ### One converter -/

section Converter
variable (s : State) (k : Bank) (f : HkConv → HkConv)

@[simp] theorem hkConv_modConv : hkConv (modConv s k f) k = f (hkConv s k) := by
  cases k
  · rfl
  · rfl

theorem hkConv_of_hk {s t : State} (ha : t.hk.a = s.hk.a) (hb : t.hk.b = s.hk.b) (k : Bank) : hkConv t k = hkConv s k := by
  cases k
  · exact ha
  · exact hb

/-- A change of a converter changes the two converters only. -/
theorem modConv_hk : (modConv s k f).hk = { s.hk with a := (modConv s k f).hk.a, b := (modConv s k f).hk.b } := by
  cases k
  · rfl
  · rfl

theorem modConv_eq : modConv s k f = { s with hk := (modConv s k f).hk } := rfl

theorem unitDone_hk (d : Die) (u : Nat) : (unitDone s d u).hk = s.hk := rfl

theorem hkConv_unitDone (d : Die) (u : Nat) : hkConv (unitDone s d u) k = hkConv s k := rfl

end Converter

/-! ### Corrected codes -/

section Correct
variable (s : State) (k : Bank) (ch : Nat) (x : Int)

theorem hkCorrect_fst_le : (hkCorrect s k ch x).1 ≤ 4095 := by
  unfold hkCorrect clampInt
  dsimp only
  omega

/-- With zero trims, or with trimming off, the corrected code is the code clipped to 0 to 4095. -/
theorem hkCorrect_of_no_trim (h : hkTrimWord s k ch = 0 ∨ rb s 0x00090000 6 = false) :
    hkCorrect s k ch x = ((clampInt 0 4095 x).toNat, decide (x < 0) || decide (4095 < x)) := by
  unfold hkCorrect
  dsimp only
  rcases h with h | h
  · rw [h]
    split
    · have hzero : ((x - toSigned 8 0) * (4096 + toSigned 8 (0 / 256)) + 2048) / 4096 = x := by
        rw [show toSigned 8 0 = 0 from rfl]
        omega
      rw [hzero]
    · rfl
  · rw [if_neg (by rw [h]; decide)]

/-- The correction reads the registers, the OTP and TRIM_BAD. -/
theorem hkCorrect_of_hk {s t : State} (ht : t = { s with hk := t.hk }) (hbad : t.hk.trimBad = s.hk.trimBad) :
    hkCorrect t k ch x = hkCorrect s k ch x := by
  have htrim : hkTrimWord t k ch = hkTrimWord s k ch := by
    unfold hkTrimWord
    rw [hbad, ht]
    rfl
  have hon : rb t 0x00090000 6 = rb s 0x00090000 6 := by
    rw [ht]
    rfl
  unfold hkCorrect
  rw [htrim, hon]

end Correct

/-! ### The effects of one conversion -/

/-- Placing an entry changes the queue and its count of drops only; a full queue keeps its entries. -/
theorem hkQueuePut_hk (s : State) (k : Bank) (w0 w1 : Word) :
    (hkQueuePut s k w0 w1).hk = { s.hk with queue := (hkQueuePut s k w0 w1).hk.queue, qDrop := (hkQueuePut s k w0 w1).hk.qDrop } ∧
      (hkQueuePut s k w0 w1).hk.queue.length = if 64 ≤ s.hk.queue.length then s.hk.queue.length else s.hk.queue.length + 1 := by
  unfold hkQueuePut
  by_cases hfull : 64 ≤ s.hk.queue.length
  · rw [if_pos hfull, if_pos hfull]
    exact ⟨rfl, rfl⟩
  · rw [if_neg hfull, if_neg hfull]
    dsimp only
    split
    · rw [raise_hk]
      exact ⟨rfl, List.length_append⟩
    · exact ⟨rfl, List.length_append⟩

theorem hkReference_hk (s : State) (k : Bank) (ch y : Nat) :
    (hkReference s k ch y).hk = { s.hk with refRaised := (hkReference s k ch y).hk.refRaised } := by
  unfold hkReference
  extract_lets bad due
  split
  · rw [raise_hk]
    rfl
  · rfl

/-- The word of an urgent result. -/
def urgentWord (k : Bank) (ch y : Nat) (clip : Bool) : Word := toWord (y + 2 ^ 12 * b2n clip + 2 ^ 16 * ch + 2 ^ 21 * k.idx + 2 ^ 31)

section Result
variable (s : State) (k : Bank) (ch y : Nat) (clip urgent pair : Bool)

/-- A conversion counts for its channel and leaves the converters, the pairs and the trims. -/
theorem hkResult_hk : (hkResult s k ch y clip urgent pair).hk = { s.hk with
    last := (hkResult s k ch y clip urgent pair).hk.last, count := vmod s.hk.count ch (· + 1)
    minmax := (hkResult s k ch y clip urgent pair).hk.minmax, hit := (hkResult s k ch y clip urgent pair).hk.hit
    urgentRes := if urgent then urgentWord k ch y clip else s.hk.urgentRes
    queue := (hkResult s k ch y clip urgent pair).hk.queue, qDrop := (hkResult s k ch y clip urgent pair).hk.qDrop
    refRaised := (hkResult s k ch y clip urgent pair).hk.refRaised } := by
  unfold hkResult
  extract_lets lim first s1 s2 w0 s3
  have h1 : s1.hk = { s.hk with
      last := s1.hk.last, count := vmod s.hk.count ch (· + 1), minmax := s1.hk.minmax, hit := s1.hk.hit
      urgentRes := if urgent then urgentWord k ch y clip else s.hk.urgentRes } := rfl
  have h2 : s2.hk = s1.hk := by
    unfold s2
    split
    · rw [raise_hk]
    · rfl
  have h3 : s3.hk = { s2.hk with queue := s3.hk.queue, qDrop := s3.hk.qDrop } := by
    unfold s3
    split
    · exact (hkQueuePut_hk ..).1
    · rfl
  clear_value s3 s2 s1
  rw [hkReference_hk, h3, h2, h1]

/-- An urgent conversion queues its entry where there is room. -/
theorem hkResult_urgent_queue : (hkResult s k ch y clip true pair).hk.queue.length =
    if 64 ≤ s.hk.queue.length then s.hk.queue.length else s.hk.queue.length + 1 := by
  unfold hkResult
  extract_lets lim first s1 s2 w0 s3
  have h2 : s2.hk.queue = s.hk.queue := by
    unfold s2
    split
    · rw [raise_hk]
      rfl
    · rfl
  have h3 : s3 = hkQueuePut s2 k (toWord w0) (toWord s.tb.ltime.toNat) := if_pos rfl
  rw [hkReference_hk, h3, (hkQueuePut_hk ..).2, h2]

/-- A conversion that is not queued, of a channel without limits that is no reference, raises nothing. -/
theorem hkResult_of_plain (hlimit : wbit (rget s (0x00090300 + 4 * ch)) 31 = false) (hqueue : wbit (rget s 0x00090010) ch = false)
    (h10 : ch ≠ 10) (h18 : ch ≠ 18) : hkResult s k ch y clip false pair = { s with hk := { s.hk with
      last := s.hk.last.setIfInBounds ch (toWord (y + 2 ^ 12 * b2n clip + 2 ^ 13 * k.idx))
      count := vmod s.hk.count ch (· + 1)
      minmax := vmod s.hk.minmax ch (hkMinMax · y) } } := by
  have hlim : hkLimit s ch y = false := by
    unfold hkLimit
    dsimp only
    rw [hlimit, Bool.false_and]
  have href : ∀ t : State, hkReference t k ch y = t := fun t => by
    unfold hkReference
    extract_lets bad due
    have hgood : bad = false := by
      unfold bad
      rw [beq_eq_false_iff_ne.mpr h10, beq_eq_false_iff_ne.mpr h18]
      rfl
    rw [hgood, Bool.false_and, if_neg Bool.false_ne_true]
  unfold hkResult
  rw [hlim, hqueue]
  exact href _

theorem hkSample_eq (x : Int) : hkSample s k ch x urgent pair = hkResult s k ch (hkCorrect s k ch x).1 (hkCorrect s k ch x).2 urgent pair := rfl

theorem hkConv_hkResult (j : Bank) : hkConv (hkResult s k ch y clip urgent pair) j = hkConv s j :=
  hkConv_of_hk (by rw [hkResult_hk]) (by rw [hkResult_hk]) j

theorem hkResult_dies : (hkResult s k ch y clip urgent pair).dies = s.dies :=
  hkResult_keeps ((closed_dies s).sub (by decide)) s _ _ _ _ _ _ rfl

end Result

/-- The result word of an urgent request names its channel and code and is valid. -/
theorem urgentWord_fields {ch y : Nat} (hch : ch < 24) (hy : y ≤ 4095) (k : Bank) (clip : Bool) :
    wbit (urgentWord k ch y clip) 31 = true ∧ wbits (urgentWord k ch y clip) 11 0 = y ∧ wbits (urgentWord k ch y clip) 20 16 = ch := by
  have hclip : b2n clip ≤ 1 := by cases clip <;> decide
  have hbank : k.idx ≤ 1 := by cases k <;> decide
  have hword : (urgentWord k ch y clip).toNat = y + 2 ^ 12 * b2n clip + 2 ^ 16 * ch + 2 ^ 21 * k.idx + 2 ^ 31 := by
    unfold urgentWord toWord
    rw [BitVec.toNat_ofNat]
    omega
  unfold wbit wbits nbit bits
  rw [hword]
  simp only [beq_iff_eq]
  omega

/-! ### Faults and states -/

theorem hkPlausibility_hk (s : State) : (hkPlausibility s).hk = { s.hk with xcFault := true } := by
  unfold hkPlausibility
  split
  next h => rw [← h]
  next => rw [raise_hk]; rfl

/-- A converter in FAULT as its fault leaves it. -/
def faulted (cause : Nat) (c : HkConv) : HkConv := { c with state := .fault, fault := cause, chans := [], passes := 0, burst := 0 }

/-- A fault of a converter changes it, and may raise the plausibility fault. -/
theorem hkFault_hk (s : State) (k : Bank) (cause : Nat) :
    (hkFault s k cause).hk = { (modConv s k (faulted cause)).hk with xcFault := (hkFault s k cause).hk.xcFault } := by
  unfold hkFault
  extract_lets s1 s2
  have h2 : s2.hk = s1.hk := raise_hk ..
  split
  · rw [hkPlausibility_hk, h2]
    rfl
  · rw [h2]
    rfl

theorem hkConv_hkFault (s : State) (k : Bank) (cause : Nat) : hkConv (hkFault s k cause) k = faulted cause (hkConv s k) := by
  rw [← hkConv_modConv s k (faulted cause)]
  exact hkConv_of_hk (by rw [hkFault_hk]) (by rw [hkFault_hk]) k

/-- A converter in the state it is ready for. -/
theorem hkConv_hkSettle (s : State) (k : Bank) : (hkConv (hkSettle s k) k).state = hkReady s k ∧
    (hkConv (hkSettle s k) k).sliceOut = (hkConv s k).sliceOut := by
  unfold hkSettle
  dsimp only
  rw [hkConv_modConv]
  exact ⟨rfl, rfl⟩

end Sys2Proof.Proofs
end

section
/-! PROOF. The commands of the housekeeping converters (R548, R551, R553, R555–R560, R567). -/
namespace Sys2Proof.Proofs
open Sys2Proof Sys2Proof.Machine Sys2Proof.Laws

theorem exec_hkCalibrate (k : Bank) (ok : Bool) (s : State) : exec (.hkCalibrate k ok) s = execHkCalibrate k ok s := rfl
theorem exec_hkRefresh (k : Bank) (d : Option Nat) (s : State) : exec (.hkRefresh k d) s = execHkRefresh k d s := rfl
theorem exec_hkConversion (k : Bank) (x : Int) (s : State) : exec (.hkConversion k x) s = execHkConversion k x s := rfl
theorem exec_adcScan (f : SbFrame) (s : State) : exec (.adcScan f) s = execAdcScan f s := rfl
theorem exec_hkUrgent (p : Path) (v : Word) (s : State) :
    exec (.hkUrgent p v) s = .next (answerWrite p 0x00090014 (hkUrgentWrite s p v)) := rfl
theorem exec_hkQRead (p : Path) (s : State) : exec (.hkQRead p) s = .next (answer (hkQLo s p).2 p 0x0009001C .ok (hkQLo s p).1) := rfl
theorem exec_hkMmClr (p : Path) (v : Word) (s : State) :
    exec (.hkMmClr p v) s = .next (answerWrite p 0x000903F0 (hkMmClrWrite s p v)) := rfl
theorem exec_xcPair (a b : Int) (s : State) : exec (.xcPair a b) s = execXcPair a b s := rfl
theorem exec_hkClockLost (s : State) : exec .hkClockLost s = .next (hkLoseClock (hkLoseClock s .a) .b) := rfl

/-! ### Calibration -/

/-- What a calibration that succeeds sets before the converter settles. -/
def calibrated (s : State) (k : Bank) : State := modConv s k fun c => { c with refreshed := s.now, slice := 0, sliceOut := 0, fault := 0 }

theorem hkCalibrate_ok {s : State} {k : Bank} (h : (hkConv s k).state = .cal) :
    exec (.hkCalibrate k true) s = .next (hkSettle (calibrated s k) k) := by
  rw [exec_hkCalibrate, execHkCalibrate, h]
  rfl

theorem hkRunsPaced_calibrated (s : State) (k : Bank) : hkRunsPaced (calibrated s k) k = hkRunsPaced s k := rfl

/-! ### Scans -/

theorem running_hk (s : State) (d : Die) (u : Nat) (l : Launched) : (running s d u l).hk = s.hk := rfl

/-- ADC_SCAN of a converter that is idle and paced takes its set. -/
theorem startAdcScan_of_idle {s : State} {l : Launched} (hmode : hkMode s = 0) (hpaced : hkPaced s .a = true) (hidle : s.hk.a.state = .idle)
    (hsome : hkSetChans s .a (l.arg.toNat % 8) ≠ []) :
    (startAdcScan s .svc 1 l).hk = { s.hk with a := { s.hk.a with
      state := .starting, slice := 0, set := l.arg.toNat % 8, chans := hkSetChans s .a (l.arg.toNat % 8)
      passes := hkSetPasses s .a (l.arg.toNat % 8) - 1 } } := by
  have hruns : hkRunsPaced s .a = true := by
    unfold hkRunsPaced
    rw [hmode]
    exact hpaced
  have hconv : hkConv s .a = s.hk.a := rfl
  unfold startAdcScan
  dsimp only
  rw [show (if (1 : Nat) == 1 then Bank.a else Bank.b) = Bank.a from rfl, hruns, hconv, hidle, hmode]
  rw [if_neg (by decide), if_neg (show ¬ ((0 : Nat) == 1) = true by decide), if_neg (show ¬ ((0 : Nat) == 1) = true by decide),
    if_neg (show ¬ ((0 : Nat) != 1 && hkSetChans s .a (l.arg.toNat % 8) == []) = true by simpa using hsome)]
  rfl

/-- On a converter that is not paced it is missed. -/
theorem startAdcScan_of_not_paced {s : State} (l : Launched) (hmode : hkMode s = 0) (hpaced : hkPaced s .a = false) :
    startAdcScan s .svc 1 l = unitDone (raise (missEntry s .svc) 1 0 Code.adcNotPaced 1) .svc 1 := by
  have hruns : hkRunsPaced s .a = false := by
    unfold hkRunsPaced
    rw [hmode]
    exact hpaced
  unfold startAdcScan
  dsimp only
  rw [show (if (1 : Nat) == 1 then Bank.a else Bank.b) = Bank.a from rfl, hruns]
  rfl

/-- The count of missed entries of a die is moved by its launches that are missed only. -/
theorem missed_of_not_paced (s : State) : (((unitDone (raise (missEntry s .svc) 1 0 Code.adcNotPaced 1) .svc 1)).die .svc).missed =
    satAdd 65535 (s.die .svc).missed 1 := by
  have hdies : ∀ t u : State, t.dies = u.dies → t.die .svc = u.die .svc := fun t u h => by
    unfold State.die
    rw [h]
  unfold unitDone modUnit
  rw [die_modDie]
  dsimp only
  rw [hdies (raise (missEntry s .svc) 1 0 Code.adcNotPaced 1) (missEntry s .svc) (raise_dies ..)]
  exact congrArg DieSt.missed (die_modDie s .svc _)

/-! ### Conversions -/

theorem hkSetChans_of_regs {s t : State} (hregs : t.regs = s.regs) (hpart : t.part = s.part) (k : Bank) (set : Nat) :
    hkSetChans t k set = hkSetChans s k set := by
  unfold hkSetChans hkSetWord rget
  rw [hregs, hpart]

/-- A converter that starts scanning is scanning at its first conversion. -/
theorem starting_scans {s : State} {k : Bank} (h : (hkConv s k).state = .scanning ∨ (hkConv s k).state = .starting) :
    (if (hkConv s k).state == .starting then modConv s k fun c => { c with state := .scanning } else s) =
      modConv s k fun c => { c with state := .scanning } := by
  rcases h with h | h
  · rw [h, if_neg (by decide)]
    cases k
    · have ha : s.hk.a.state = .scanning := h
      show s = { s with hk := { s.hk with a := { s.hk.a with state := .scanning } } }
      rw [← ha]
    · have hb : s.hk.b.state = .scanning := h
      show s = { s with hk := { s.hk with b := { s.hk.b with state := .scanning } } }
      rw [← hb]
  · rw [h, if_pos (by decide)]

/-- The state in which a conversion is taken: the converter changed, then on to its next slice. -/
def converted (s : State) (k : Bank) (f : HkConv → HkConv) : State :=
  modConv (modConv s k f) k fun c => { c with slice := nextSlice c c.slice }

section Converted
variable (s : State) (k : Bank) (f : HkConv → HkConv)

theorem hkConv_converted : hkConv (converted s k f) k = { f (hkConv s k) with slice := nextSlice (f (hkConv s k)) (f (hkConv s k)).slice } := by
  unfold converted
  rw [hkConv_modConv, hkConv_modConv]

theorem converted_hk : (converted s k f).hk = { s.hk with a := (converted s k f).hk.a, b := (converted s k f).hk.b } := by
  unfold converted
  rw [modConv_hk, modConv_hk]

theorem hkCorrect_converted (ch : Nat) (x : Int) : hkCorrect (converted s k f) k ch x = hkCorrect s k ch x :=
  hkCorrect_of_hk k ch x rfl (by rw [converted_hk])

end Converted

/-- The conversion of the first channel of a scan. -/
theorem hkScanStep_of_scan {s : State} {k : Bank} {x : Int} {ch : Nat} {rest : List Nat}
    (hstate : (hkConv s k).state = .scanning ∨ (hkConv s k).state = .starting) (hurgent : (hkConv s k).urgent = none)
    (hchans : (hkConv s k).chans = ch :: rest) :
    hkScanStep s k x = hkAfter (hkSample (converted (modConv s k fun c => { c with state := .scanning }) k fun c => { c with chans := rest })
      k ch x false false) k := by
  unfold hkScanStep
  dsimp only
  rw [starting_scans hstate, hkConv_modConv, hurgent]
  dsimp only
  unfold hkScanStep.hkScan
  rw [hchans]
  rfl

/-- The conversion of an urgent request in CONTINUOUS, on slice 0. -/
theorem hkScanStep_of_urgent {s : State} {k : Bank} {x : Int} {ch : Nat} (hstate : (hkConv s k).state = .continuous)
    (hurgent : (hkConv s k).urgent = some ch) (hslice : (hkConv s k).slice = 0) :
    hkScanStep s k x = hkAfter (hkSample (converted s k fun c => { c with urgent := none }) k ch x true false) k := by
  unfold hkScanStep
  dsimp only
  rw [hstate, if_neg (by decide), hurgent, hslice]
  rfl

section After
variable {s : State} {k : Bank}

theorem hkAfter_of_continuous (h : (hkConv s k).state = .continuous) : hkAfter s k = s := by
  unfold hkAfter
  dsimp only
  rw [h]
  rfl

theorem hkAfter_of_rest (h : (hkConv s k).state = .scanning) (hchans : (hkConv s k).chans ≠ []) : hkAfter s k = s := by
  unfold hkAfter
  dsimp only
  rw [h, if_neg (by decide), if_pos (by simpa using hchans)]

theorem hkAfter_of_passes (h : (hkConv s k).state = .scanning) (hchans : (hkConv s k).chans = []) (hpasses : (hkConv s k).passes ≠ 0) :
    hkAfter s k = modConv s k fun c => { c with chans := hkSetChans s k c.set, passes := c.passes - 1 } := by
  unfold hkAfter
  dsimp only
  rw [h, if_neg (by decide), hchans, if_neg (by decide), if_pos (by simpa using hpasses)]

theorem hkAfter_of_end (h : (hkConv s k).state = .scanning) (hchans : (hkConv s k).chans = []) (hpasses : (hkConv s k).passes = 0)
    (hurgent : (hkConv s k).urgent = none) :
    hkAfter s k = modConv (unitDone s .svc (hkUnit k)) k fun c => { c with state := .idle } := by
  unfold hkAfter
  dsimp only
  rw [h, if_neg (by decide), hchans, if_neg (by decide), hpasses, if_neg (by decide), hurgent]
  rfl

end After

theorem hkConversion_of_scan_mode {s : State} {k : Bank} (hconverts : hkConverting (hkConv s k) = true) (hmode : hkMode s = 0) (x : Int) :
    exec (.hkConversion k x) s = .next (hkScanStep s k x) := by
  rw [exec_hkConversion, execHkConversion, hconverts, hmode]
  rfl

theorem hkSample_hk (s : State) (k : Bank) (ch : Nat) (x : Int) (urgent pair : Bool) :
    (hkSample s k ch x urgent pair).hk.count = vmod s.hk.count ch (· + 1) ∧
      (hkSample s k ch x urgent pair).hk.urgentRes =
        (if urgent then urgentWord k ch (hkCorrect s k ch x).1 (hkCorrect s k ch x).2 else s.hk.urgentRes) := by
  rw [hkSample_eq, hkResult_hk]
  exact ⟨rfl, rfl⟩

/-! ### Pairs and clocks -/

theorem hkResult_xc (s : State) (k : Bank) (ch y : Nat) (clip urgent pair : Bool) :
    (hkResult s k ch y clip urgent pair).hk.xcRun = s.hk.xcRun ∧ (hkResult s k ch y clip urgent pair).hk.xcMismatch = s.hk.xcMismatch ∧
      (hkResult s k ch y clip urgent pair).hk.xcPairs = s.hk.xcPairs ∧ (hkResult s k ch y clip urgent pair).hk.xcFault = s.hk.xcFault := by
  rw [hkResult_hk]
  exact ⟨rfl, rfl, rfl, rfl⟩

/-- The losses of a converter's slot clock that count: this one and those of the last 60 s. -/
def slotLosses (s : State) (c : HkConv) : List Nat := (s.now :: c.clkLosses).filter fun t => decide (s.now < t + secNs 60)

theorem hkLoseClock_of_off {s : State} {k : Bank} (h : (hkConv s k).state = .off ∨ (hkConv s k).state = .fault) : hkLoseClock s k = s := by
  unfold hkLoseClock
  dsimp only
  rcases h with h | h
  · rw [h]; rfl
  · rw [h]; rfl

/-- What the loss of the slot clock leaves of a converter that runs: FAULT at the third, else CAL. -/
def lostClock (s : State) (c : HkConv) : HkConv :=
  if 3 ≤ (slotLosses s c).length then faulted 2 { c with clkLosses := slotLosses s c }
  else { c with clkLosses := slotLosses s c, state := .cal, chans := [], passes := 0, burst := 0 }

theorem lostClock_state (s : State) (c : HkConv) :
    ((lostClock s c).state = .cal ∨ (lostClock s c).state = .fault) ∧ ((lostClock s c).state = .fault ↔ 3 ≤ (slotLosses s c).length) := by
  unfold lostClock
  split
  next h => exact ⟨.inr rfl, fun _ => h, fun _ => rfl⟩
  next h => exact ⟨.inl rfl, fun hcal => absurd hcal (fun h => HkState.noConfusion h), fun hmany => absurd hmany h⟩

theorem hkConv_modConv_other : ∀ {j k : Bank}, j ≠ k → ∀ (s : State) (f : HkConv → HkConv), hkConv (modConv s k f) j = hkConv s j
  | .a, .a, h, _, _ => absurd rfl h
  | .a, .b, _, _, _ => rfl
  | .b, .a, _, _, _ => rfl
  | .b, .b, h, _, _ => absurd rfl h

/-- A converter that runs and loses its slot clock; the other one and the counts stay. -/
theorem hkLoseClock_spec {s : State} {k : Bank} (hoff : (hkConv s k).state ≠ .off) (hfault : (hkConv s k).state ≠ .fault) :
    hkConv (hkLoseClock s k) k = lostClock s (hkConv s k) ∧ (∀ j, j ≠ k → hkConv (hkLoseClock s k) j = hkConv s j) ∧
      (hkLoseClock s k).hk.count = s.hk.count := by
  unfold hkLoseClock
  extract_lets c ls s1 f s2
  have hls : ls = slotLosses s (hkConv s k) := rfl
  have h1 : hkConv s1 k = { hkConv s k with clkLosses := slotLosses s (hkConv s k) } := by
    rw [← hls]
    exact hkConv_modConv ..
  have hother : ∀ j, j ≠ k → hkConv s1 j = hkConv s j := fun j hj => hkConv_modConv_other hj s _
  have hcount : s1.hk.count = s.hk.count := by
    unfold s1
    rw [modConv_hk]
  rw [if_neg (by simp [c, hoff, hfault]), hls]
  unfold lostClock
  clear_value s1
  split
  · refine ⟨?_, fun j hj => ?_, ?_⟩
    · rw [hkConv_hkFault, h1]
    · refine (hkConv_of_hk ?_ ?_ j).trans ((hkConv_modConv_other hj s1 (faulted 2)).trans (hother j hj))
      · rw [hkFault_hk]
      · rw [hkFault_hk]
    · rw [hkFault_hk, modConv_hk]
      exact hcount
  · have hlog : (logOnly s2 .svc (hkUnit k) 0 (f.1 % 65536) 2).hk = s2.hk := logOnly_hk ..
    have hlost : ∀ j, hkConv (logOnly s2 .svc (hkUnit k) 0 (f.1 % 65536) 2) j = hkConv s2 j := fun j =>
      hkConv_of_hk (congrArg HkSt.a hlog) (congrArg HkSt.b hlog) j
    have hfresh : ∀ j, hkConv (unitDone f.2 .svc (hkUnit k)) j = hkConv s1 j := fun j => hkConv_of_hk rfl rfl j
    refine ⟨?_, fun j hj => ?_, ?_⟩
    · rw [hlost, hkConv_modConv, hfresh, h1]
    · rw [hlost, hkConv_modConv_other hj, hfresh, hother j hj]
    · rw [hlog, modConv_hk]
      exact hcount

theorem missed_running (s : State) (d : Die) (u : Nat) (l : Launched) : ((running s d u l).die d).missed = (s.die d).missed := by
  unfold running noteLateness modUnit
  rw [die_modDie, die_modDie]

/-- A launch that is missed leaves the unit with nothing queued. -/
theorem unitOf_missed (s : State) (code : Nat) : unitOf (raise (missEntry s .svc) 1 0 code 1) .svc 1 = unitOf s .svc 1 := by
  have hdies : ∀ t u : State, t.dies = u.dies → t.die .svc = u.die .svc := fun t u h => by
    unfold State.die
    rw [h]
  unfold unitOf
  rw [hdies (raise (missEntry s .svc) 1 0 code 1) (missEntry s .svc) (raise_dies ..)]
  show vget ((modDie s .svc fun x => { x with missed := satAdd 65535 x.missed 1 }).die .svc).units 1 = _
  rw [die_modDie]

/-! ### Slices -/

/-- The state in which a drifting slice has been excluded and reported. -/
def sliceExcluded (s : State) (k : Bank) (d : Nat) : State :=
  raise (modConv (modConv s k fun c => { c with refreshed := s.now }) k fun c => { c with sliceOut := c.sliceOut ||| BitVec.ofNat 4 (2 ^ d) })
    (hkUnit k) 0 Code.adcSlice 2

theorem hkConv_sliceExcluded (s : State) (k : Bank) (d : Nat) : hkConv (sliceExcluded s k d) k =
    { hkConv s k with refreshed := s.now, sliceOut := (hkConv s k).sliceOut ||| BitVec.ofNat 4 (2 ^ d) } := by
  have hhk : (sliceExcluded s k d).hk = _ := raise_hk ..
  refine (hkConv_of_hk (congrArg HkSt.a hhk) (congrArg HkSt.b hhk) k).trans ?_
  rw [hkConv_modConv, hkConv_modConv]

theorem hkRefresh_drifted {s : State} {k : Bank} {d : Nat} (hconverts : hkConverting (hkConv s k) = true) (hd : d < 4)
    (hin : nbit (hkConv s k).sliceOut.toNat d = false) : exec (.hkRefresh k (some d)) s = .next (
      if (hkConv s k).sliceOut == 0 then sliceExcluded s k d else hkFault (sliceExcluded s k d) k 3) := by
  rw [exec_hkRefresh, execHkRefresh]
  dsimp only
  rw [hconverts, Bool.not_true, if_neg Bool.false_ne_true, hin, Bool.or_false, if_neg (by simpa using hd)]
  rfl

/-! ### Pairs -/

/-- What a CROSS-CHECK pair counts. -/
def pairCounted (ya yb : Nat) (bad : Bool) (h : HkSt) : HkSt :=
  { h with
    xcA := ya, xcB := yb, xcPairs := satAdd 65535 h.xcPairs 1
    xcMismatch := if bad then satAdd 65535 h.xcMismatch 1 else h.xcMismatch
    xcRun := if bad then h.xcRun + 1 else 0 }

/-- Does a pair lie beyond the tolerance of CROSS-CHECK? -/
def pairBad (s : State) (a b : Int) : Bool :=
  decide (rf s 0x00090008 23 16 < (((hkCorrect s .a (rf s 0x00090000 28 24) a).1 : Int) - (hkCorrect s .b (rf s 0x00090000 28 24) b).1).natAbs)

/-- The results of a CROSS-CHECK pair, counted. -/
def pairTaken (s : State) (a b : Int) : State :=
  let ch := rf s 0x00090000 28 24
  let ya := hkCorrect s .a ch a
  let yb := hkCorrect s .b ch b
  modHk (hkResult (hkResult s .a ch ya.1 ya.2 false true) .b ch yb.1 yb.2 false true) (pairCounted ya.1 yb.1 (pairBad s a b))

theorem exec_xcPair_on {s : State} (hmode : hkMode s = 2) (ha : s.hk.a.state = .continuous) (hb : s.hk.b.state = .continuous) (a b : Int) :
    exec (.xcPair a b) s = .next (if pairBad s a b && decide (rf s 0x00090008 27 24 ≤ (pairTaken s a b).hk.xcRun) then
      hkPlausibility (pairTaken s a b) else pairTaken s a b) := by
  have hon : (hkMode s != 2 || !hkConverting s.hk.a || !hkConverting s.hk.b) = false := by
    unfold hkConverting
    rw [hmode, ha, hb]
    rfl
  rw [exec_xcPair, execXcPair, hon]
  rfl

theorem pairTaken_xc (s : State) (a b : Int) :
    (pairTaken s a b).hk.xcRun = (if pairBad s a b then s.hk.xcRun + 1 else 0) ∧
      (pairTaken s a b).hk.xcMismatch = (if pairBad s a b then satAdd 65535 s.hk.xcMismatch 1 else s.hk.xcMismatch) ∧
      (pairTaken s a b).hk.xcPairs = satAdd 65535 s.hk.xcPairs 1 ∧ (pairTaken s a b).hk.xcFault = s.hk.xcFault := by
  unfold pairTaken
  extract_lets ch ya yb
  obtain ⟨hrun, hmismatch, hpairs, hfault⟩ := hkResult_xc (hkResult s .a ch ya.1 ya.2 false true) .b ch yb.1 yb.2 false true
  obtain ⟨hrun', hmismatch', hpairs', hfault'⟩ := hkResult_xc s .a ch ya.1 ya.2 false true
  rw [modHk_hk]
  unfold pairCounted
  rw [hrun, hmismatch, hpairs, hfault, hrun', hmismatch', hpairs', hfault']
  exact ⟨rfl, rfl, rfl, rfl⟩

/-- One slice of four is out after the first that drifts. -/
theorem slicesIn_of_first {d : Nat} (hd : d < 4) : 4 - slicesIn.bitsOf ((0#4 ||| BitVec.ofNat 4 (2 ^ d))).toNat = 3 := by
  interval_cases d <;> rfl

/-- The state of a scan's conversion once its result is taken. -/
theorem scanSample_spec {s u : State} {k : Bank} {ch : Nat} {rest : List Nat} {x : Int}
    (hu : hkSample (converted (modConv s k fun c => { c with state := .scanning }) k fun c => { c with chans := rest }) k ch x false false = u) :
    hkConv u k = { hkConv s k with
        state := .scanning, chans := rest
        slice := nextSlice { hkConv s k with state := .scanning, chans := rest } (hkConv s k).slice } ∧
      u.hk.count = vmod s.hk.count ch (· + 1) ∧ u.dies = s.dies ∧ u.regs = s.regs ∧ u.part = s.part := by
  rw [← hu]
  refine ⟨?_, ?_, ?_, ?_, ?_⟩
  · rw [hkSample_eq, hkConv_hkResult, hkConv_converted, hkConv_modConv]
  · rw [(hkSample_hk ..).1, converted_hk, modConv_hk]
  · exact hkSample_keeps ((closed_dies s).sub (by decide)) _ _ _ _ _ _ rfl
  · exact hkSample_keeps ((closed_regs s).sub (by decide)) _ _ _ _ _ _ rfl
  · exact hkSample_keeps ((closed_part s).sub (by decide)) _ _ _ _ _ _ rfl

theorem hkAfter_count (s : State) (k : Bank) : (hkAfter s k).hk.count = s.hk.count := by
  unfold hkAfter
  dsimp only
  split_ifs
  · rfl
  · rfl
  · rw [modConv_hk]
  · rfl
  · rw [modConv_hk]
    rfl

/-- An urgent request held by converter A, no result of it yet. -/
def urgentHeld (s : State) (ch : Nat) : State :=
  modHk (modConv s .a fun c => { c with urgent := some ch }) fun h => { h with urgentRes := h.urgentRes &&& 0x7FFFFFFF }

/-- Settles O54: calibration and scans, conversions by mode, slices, pairs, the queue, urgent requests and the slot clock. -/
theorem housekeepingConversions : Obligations.HousekeepingConversions := by
  unfold Obligations.HousekeepingConversions
  refine ⟨fun k s => ⟨fun hnot ok => ?_, fun hcal hruns => ?_, fun hcal hruns hchans hburst hurgent => ?_, fun hcal => ?_⟩,
    fun f w e s s1 h hdie hunit hmode => ⟨fun hpaced hidle hsome => ?_, fun hpaced => ?_⟩, fun k x s hnot => ⟨?_, fun d => ?_⟩,
    fun k x ch rest s hstate hmode hurgent hchans hch => ?_, fun k x ch s hstate hmode hurgent hslice hch => ?_,
    fun k ch y clip urgent pair s hch hy hlimit hurgent hqueue h10 h18 => ?_,
    fun k ch x s => ⟨hkCorrect_fst_le s k ch x, fun htrim hlow hhigh => ?_, fun htrim hhigh => ?_⟩,
    fun k d s hconverts hd hin => ⟨fun hnone => ?_, fun hsome => ?_, ?_⟩, fun a b s hmode ha hb hgood => ?_,
    fun a b s hmode ha hb hbad => ?_, fun p v s => ⟨fun hempty => ?_, fun e es hqueue => ?_, fun hpath => ?_, fun hpath => ?_⟩,
    fun p v s hpath hchannel hkey hbank hfree hmode => ?_, fun s ha hb => ?_, fun s ha hb => ?_⟩
  · rw [exec_hkCalibrate, execHkCalibrate, if_pos (by simpa using hnot)]
  · obtain ⟨hsettled, hslices⟩ := hkConv_hkSettle (calibrated s k) k
    refine ⟨_, hkCalibrate_ok hcal, hsettled.trans ?_, hslices.trans ?_, rfl⟩
    · unfold hkReady
      dsimp only
      rw [hkRunsPaced_calibrated, hruns]
      rfl
    · unfold calibrated
      rw [hkConv_modConv]
  · obtain ⟨hsettled, -⟩ := hkConv_hkSettle (calibrated s k) k
    refine ⟨_, hkCalibrate_ok hcal, hsettled.trans ?_, rfl⟩
    unfold hkReady
    dsimp only
    rw [hkRunsPaced_calibrated, hruns]
    unfold calibrated
    rw [hkConv_modConv, hchans, hburst, hurgent]
    rfl
  · have hexec : exec (.hkCalibrate k false) s = .next (hkFault s k 1) := by
      rw [exec_hkCalibrate, execHkCalibrate, hcal]
      rfl
    have hframe := (execHkCalibrate_keeps (closed_sameBut 0x21200001000 s rfl) k false s (SameBut.refl _ s)).of _ hexec
    refine ⟨_, hexec, hframe, ?_, ?_, ?_, (execHkCalibrate_keeps ((closed_mem s).sub (by decide)) k false s rfl).of _ hexec⟩
    · rw [hkConv_hkFault]
      rfl
    · rw [hkConv_hkFault]
      rfl
    · rw [hkFault_hk, modConv_hk]
  · have hexec : exec (.adcScan f) s = .next (startAdcScan (running s1 .svc 1 (launchedBy s1 w e)) .svc 1 (launchedBy s1 w e)) := by
      rw [exec_adcScan, execAdcScan, onLaunch_ready h (u := 1) (by rw [hdie]; rfl) (by rw [hunit]; rfl) (by rw [hunit])
        (by rw [hdie, hunit]; rfl), hdie]
    have hhk := startAdcScan_of_idle (s := running s1 .svc 1 (launchedBy s1 w e)) (l := launchedBy s1 w e) hmode hpaced hidle hsome
    refine ⟨_, hexec, (execAdcScan_keeps (closed_sameBut 0x61200045a10 s rfl) f s (SameBut.refl _ s)).of _ hexec, ?_, ?_, ?_, ?_, ?_, ?_⟩
    · rw [hhk]
    · rw [hhk]
      rfl
    · rw [hhk]
      exact Nat.sub_add_cancel (Nat.le_add_left 1 _)
    · rw [hhk]
      rfl
    · exact startAdcScan_keeps ((closed_mem s1).sub (by decide)) _ _ _ _ rfl
    · exact startAdcScan_keeps ((closed_regs s1).sub (by decide)) _ _ _ _ rfl
  · have hexec : exec (.adcScan f) s = .next (startAdcScan (running s1 .svc 1 (launchedBy s1 w e)) .svc 1 (launchedBy s1 w e)) := by
      rw [exec_adcScan, execAdcScan, onLaunch_ready h (u := 1) (by rw [hdie]; rfl) (by rw [hunit]; rfl) (by rw [hunit])
        (by rw [hdie, hunit]; rfl), hdie]
    have hframe := (execAdcScan_keeps (closed_sameBut 0x61200045a10 s rfl) f s (SameBut.refl _ s)).of _ hexec
    have hmissed := startAdcScan_of_not_paced (s := running s1 .svc 1 (launchedBy s1 w e)) (launchedBy s1 w e) hmode hpaced
    rw [hmissed] at hexec hframe
    refine ⟨_, hexec, hframe, ?_, ?_, ?_⟩
    · rw [unitDone_hk, raise_hk]
      rfl
    · rw [missed_of_not_paced, missed_running]
    · rw [unitOf_unitDone (by decide), unitOf_missed, unitOf_running_of_ready h hdie hunit (by decide)]
  · rw [exec_hkConversion, execHkConversion, hnot]
    rfl
  · rw [exec_hkRefresh, execHkRefresh]
    dsimp only
    rw [hnot]
    rfl
  · have hconverts : hkConverting (hkConv s k) = true := by
      unfold hkConverting
      rcases hstate with h | h
      · rw [h]; rfl
      · rw [h]; rfl
    have hexec := hkConversion_of_scan_mode hconverts hmode x
    rw [hkScanStep_of_scan hstate hurgent hchans] at hexec
    have hframe := (execHkConversion_keeps (closed_sameBut 0x21200001000 s rfl) k x s (SameBut.refl _ s)).of _ hexec
    have hmem := (execHkConversion_keeps ((closed_mem s).sub (by decide)) k x s rfl).of _ hexec
    have hregs := (execHkConversion_keeps ((closed_regs s).sub (by decide)) k x s rfl).of _ hexec
    generalize hu : hkSample (converted (modConv s k fun c => { c with state := .scanning }) k fun c => { c with chans := rest }) k ch x false false = u
      at hexec hframe hmem hregs
    obtain ⟨hconv, hcount, hdies, huregs, hupart⟩ := scanSample_spec hu
    have hafter := hkAfter_count u k
    refine ⟨_, hexec, hframe, hafter.trans hcount, hmem, hregs, fun hrest => ?_, fun hrest hpasses => ?_, fun hrest hpasses => ?_⟩
    · rw [hkAfter_of_rest (by rw [hconv]) (by rw [hconv]; exact hrest), hconv]
      exact ⟨rfl, rfl, hdies⟩
    · rw [hkAfter_of_passes (by rw [hconv]) (by rw [hconv]; exact hrest) (by rw [hconv]; exact hpasses), hkConv_modConv, hconv]
      exact ⟨hkSetChans_of_regs huregs hupart k _, Nat.sub_add_cancel (Nat.one_le_iff_ne_zero.mpr hpasses)⟩
    · rw [hkAfter_of_end (by rw [hconv]) (by rw [hconv]; exact hrest) (by rw [hconv]; exact hpasses) (by rw [hconv]; exact hurgent),
        hkConv_modConv]
      refine ⟨rfl, ?_⟩
      exact congrArg UnitSt.busy (unitOf_unitDone (by cases k <;> decide) u .svc)
  · have hconverts : hkConverting (hkConv s k) = true := by
      unfold hkConverting
      rw [hstate]
      rfl
    have hexec := hkConversion_of_scan_mode hconverts hmode x
    have hconv : hkConv (hkSample (converted s k fun c => { c with urgent := none }) k ch x true false) k =
        { hkConv s k with urgent := none, slice := nextSlice { hkConv s k with urgent := none } (hkConv s k).slice } := by
      rw [hkSample_eq, hkConv_hkResult, hkConv_converted]
    rw [hkScanStep_of_urgent hstate hurgent hslice, hkAfter_of_continuous (by rw [hconv]; exact hstate)] at hexec
    have hframe := (execHkConversion_keeps (closed_sameBut 0x21200001000 s rfl) k x s (SameBut.refl _ s)).of _ hexec
    obtain ⟨hcount, hres⟩ := hkSample_hk (converted s k fun c => { c with urgent := none }) k ch x true false
    rw [if_pos rfl, hkCorrect_converted] at hres
    obtain ⟨hvalid, hcode, hnamed⟩ := urgentWord_fields hch (hkCorrect_fst_le s k ch x) k (hkCorrect s k ch x).2
    refine ⟨_, hexec, hframe, ?_, ?_, ?_, ?_, ?_, ?_, ?_⟩
    · rw [hconv]
    · rw [hconv]
    · rw [hcount, converted_hk]
    · rw [hres]
      exact hvalid
    · rw [hres]
      exact hcode
    · rw [hres]
      exact hnamed
    · rw [hkSample_eq, hkResult_urgent_queue, converted_hk]
  · subst hurgent
    exact hkResult_of_plain s k ch y clip pair hlimit hqueue h10 h18
  · rw [hkCorrect_of_no_trim s k ch x htrim]
    unfold clampInt
    simp only [Prod.mk.injEq, Bool.or_eq_false_iff, decide_eq_false_iff_not]
    omega
  · rw [hkCorrect_of_no_trim s k ch x htrim]
    unfold clampInt
    simp only [Prod.mk.injEq, Bool.or_eq_true, decide_eq_true_eq]
    omega
  · have hexec := hkRefresh_drifted hconverts hd hin
    rw [hnone, if_pos (by decide)] at hexec
    have hframe := (execHkRefresh_keeps (closed_sameBut 0x21200001000 s rfl) k (some d) s (SameBut.refl _ s)).of _ hexec
    refine ⟨_, hexec, hframe, ?_, ?_, raise_dies ..⟩
    · unfold slicesIn
      rw [hkConv_sliceExcluded, hnone]
      exact slicesIn_of_first hd
    · rw [hkConv_sliceExcluded]
  · have hexec := hkRefresh_drifted hconverts hd hin
    rw [if_neg (by simpa using hsome)] at hexec
    have hframe := (execHkRefresh_keeps (closed_sameBut 0x21200001000 s rfl) k (some d) s (SameBut.refl _ s)).of _ hexec
    refine ⟨_, hexec, hframe, ?_, ?_⟩
    · rw [hkConv_hkFault]
      rfl
    · rw [hkConv_hkFault]
      rfl
  · rw [exec_hkRefresh, execHkRefresh]
    dsimp only
    rw [hconverts]
    rfl
  · have hwithin : pairBad s a b = false := decide_eq_false (Nat.not_lt.mpr hgood)
    have hexec := exec_xcPair_on hmode ha hb a b
    rw [hwithin, Bool.false_and, if_neg Bool.false_ne_true] at hexec
    have hframe := (execXcPair_keeps (closed_sameBut 0x21200000000 s rfl) a b s (SameBut.refl _ s)).of _ hexec
    obtain ⟨hrun, hmismatch, hpairs, hfault⟩ := pairTaken_xc s a b
    rw [hwithin, if_neg Bool.false_ne_true] at hrun hmismatch
    exact ⟨_, hexec, hframe, hrun, hmismatch, hpairs, hfault⟩
  · have hbeyond : pairBad s a b = true := decide_eq_true hbad
    have hexec := exec_xcPair_on hmode ha hb a b
    have hframe := fun t => (execXcPair_keeps (closed_sameBut 0x21200000000 s rfl) a b s (SameBut.refl _ s)).of t
    obtain ⟨hrun, hmismatch, hpairs, hfault⟩ := pairTaken_xc s a b
    rw [hbeyond, if_pos rfl] at hrun hmismatch
    rw [hbeyond, Bool.true_and, hrun] at hexec
    by_cases hlast : rf s 0x00090008 27 24 ≤ s.hk.xcRun + 1
    · rw [if_pos (decide_eq_true hlast)] at hexec
      refine ⟨_, hexec, hframe _ hexec, ?_, ?_, ?_⟩
      · rw [hkPlausibility_hk]
        exact hrun
      · rw [hkPlausibility_hk]
        exact hmismatch
      · rw [hkPlausibility_hk]
        exact ⟨fun _ => .inr hlast, fun _ => rfl⟩
    · rw [if_neg (by simpa using hlast)] at hexec
      refine ⟨_, hexec, hframe _ hexec, hrun, hmismatch, ?_⟩
      rw [hfault]
      exact ⟨.inl, fun h => h.resolve_right hlast⟩
  · rw [exec_hkQRead, hkQLo, hkPop, hempty]
  · rw [exec_hkQRead, hkQLo, hkPop, hqueue]
    rfl
  · rw [exec_hkMmClr, hkMmClrWrite, hpath]
    rfl
  · rw [exec_hkMmClr, exec_hkUrgent, hkMmClrWrite, hkUrgentWrite, hpath]
    exact ⟨rfl, rfl⟩
  · have hbusy : ((hkConv s .a).urgent.isSome || hkMode s == 1) = false := by
      rw [show (hkConv s .a).urgent = none from hfree, beq_eq_false_iff_ne.mpr hmode]
      rfl
    have hwrite : hkUrgentWrite s p v = (if s.hk.a.state == .idle then
        modConv (urgentHeld s (wbits v 4 0)) .a fun c => { c with state := .starting, slice := 0 } else urgentHeld s (wbits v 4 0), .ok) := by
      unfold hkUrgentWrite
      dsimp only
      rw [hbank, hpath, hchannel, hkey]
      rw [show (if false = true then Bank.b else Bank.a) = Bank.a from rfl, hbusy]
      rfl
    have hexec := exec_hkUrgent p v s
    rw [hwrite] at hexec
    have hres : wbit (s.hk.urgentRes &&& 0x7FFFFFFF) 31 = false := by
      rw [wbit_eq_getLsbD, BitVec.getLsbD_and]
      exact Bool.and_false _
    by_cases hidle : s.hk.a.state = .idle
    · rw [if_pos (beq_iff_eq.mpr hidle)] at hexec
      exact ⟨_, hexec, rfl, rfl, hres, (if_pos hidle).symm, rfl⟩
    · rw [if_neg (by simpa using hidle)] at hexec
      exact ⟨_, hexec, rfl, rfl, hres, (if_neg hidle).symm, rfl⟩
  · rw [exec_hkClockLost, hkLoseClock_of_off (k := .a) ha, hkLoseClock_of_off (k := .b) hb]
  · have hexec := exec_hkClockLost s
    obtain ⟨hlost, hother, hcount⟩ := hkLoseClock_spec (s := s) (k := .a) (fun h => HkState.noConfusion (ha.symm.trans h))
      fun h => HkState.noConfusion (ha.symm.trans h)
    have hb' : hkConv (hkLoseClock s .a) .b = hkConv s .b := hother .b (by decide)
    rw [hkLoseClock_of_off (s := hkLoseClock s .a) (k := .b) (.inl (hb'.symm ▸ hb))] at hexec
    have hframe := (execHkClockLost_keeps (closed_sameBut 0x61200001008 s rfl) s (SameBut.refl _ s)).of _ hexec
    have hlost' : (hkLoseClock s .a).hk.a = lostClock s s.hk.a := hlost
    obtain ⟨hstate, hfault⟩ := lostClock_state s s.hk.a
    refine ⟨_, hexec, hframe, ?_, ?_, hb', hcount⟩
    · rw [hlost']
      exact hstate
    · rw [hlost']
      exact hfault

end Sys2Proof.Proofs
end

section
/-! PROOF. The field outputs: what a change of some outputs leaves of each, and the commands that make one (R571–R573, R602–R604). -/
namespace Sys2Proof.Proofs
open Sys2Proof Sys2Proof.Machine Sys2Proof.Laws

theorem exec_foPulse (f : SbFrame) (s : State) : exec (.foPulse f) s = execFoPulse f s := rfl
theorem exec_foSet (f : SbFrame) (s : State) : exec (.foSet f) s = execFoSet f s := rfl
theorem exec_foClear (f : SbFrame) (s : State) : exec (.foClear f) s = execFoClear f s := rfl
theorem exec_foPulseEnd (k : Nat) (s : State) : exec (.foPulseEnd k) s = execFoPulseEnd k s := rfl
theorem exec_foOutWrite (p : Path) (v : Word) (s : State) :
    exec (.foOutWrite p v) s = .next (answerWrite p 0x000A0014 (foOutReg s p v)) := rfl
theorem exec_foFaultLatch (kind : FoFault) (k o : Nat) (s : State) : exec (.foFaultLatch kind k o) s = execFoFaultLatch kind k o s := rfl
theorem exec_foOpenLoad (k : Nat) (s : State) : exec (.foOpenLoad k) s = execFoOpenLoad k s := rfl
theorem exec_foRetry (k : Nat) (s : State) : exec (.foRetry k) s = onUnit (k < 4) (foRetryNow s k) := rfl
theorem exec_foRetryRestore (k : Nat) (s : State) : exec (.foRetryRestore k) s = execFoRetryRestore k s := rfl
theorem exec_foFaultClear (p : Path) (v : Word) (s : State) :
    exec (.foFaultClear p v) s = .next (answerWrite p 0x000A001C (foFaultReg s p v)) := rfl
theorem exec_foThermalRelease (k : Nat) (s : State) : exec (.foThermalRelease k) s = execFoThermalRelease k s := rfl
theorem exec_foUvlo (s : State) : exec .foUvlo s = execFoUvlo s := rfl
theorem exec_foUvloRecover (s : State) : exec .foUvloRecover s = .next (foDrive s (modFo s fun x => { x with uvlo := false })) := rfl

/-! ### Outputs and pins -/

theorem foOut_of_fo {s t : State} (h : t.fo = s.fo) (n : Nat) : foOut t n = foOut s n := by
  unfold foOut
  rw [h]

theorem foOut_modOut_same {n : Nat} (hn : n < 4) (s : State) (f : FoOut → FoOut) : foOut (modOut s n f) n = f (foOut s n) := by
  refine (vget_vmod s.fo.outs n n f).trans ?_
  rw [if_pos ⟨rfl, hn⟩]
  rfl

theorem foOut_modOut_other {m n : Nat} (h : m ≠ n) (s : State) (f : FoOut → FoOut) : foOut (modOut s n f) m = foOut s m := by
  refine (vget_vmod s.fo.outs n m f).trans ?_
  rw [if_neg fun heq => h heq.1.symm]
  rfl

/-- Driving the pins changes what leaves the part and nothing else. -/
theorem foDrive_eq (s0 s : State) : foDrive s0 s = { s with out := (foDrive s0 s).out } := by
  refine foldl_keeps (P := SameBut 0x200 s) (fun t n ht => ?_) (List.range 4) s (SameBut.refl _ s)
  split
  · exact ht
  · exact emit_keeps (closed_sameBut 0x200 s rfl) t _ ht

theorem foDrive_fo (s0 s : State) : (foDrive s0 s).fo = s.fo := by rw [foDrive_eq]

theorem foOut_foDrive (s0 s : State) (n : Nat) : foOut (foDrive s0 s) n = foOut s n := foOut_of_fo (foDrive_fo s0 s) n

theorem mem_foNamed {s : State} {mask n : Nat} :
    n ∈ foNamed s mask ↔ n < 4 ∧ (nbit mask n = true ∨ foPaired s n = true ∧ nbit mask (foMate n) = true) := by
  unfold foNamed
  rw [List.mem_filter, List.mem_range, Bool.or_eq_true, Bool.and_eq_true]

theorem foNamed_nodup (s : State) (mask : Nat) : (foNamed s mask).Nodup := List.nodup_range.filter _

theorem foLevel_eq_two {s : State} {n : Nat} : foLevel s n = 2 ↔ (foOut s n).latched = true ∨ s.fo.uvlo = true := by
  have hcmd : b2n (foOut s n).cmd ≠ 2 := by
    cases (foOut s n).cmd
    · decide
    · decide
  unfold foLevel
  rw [← Bool.or_eq_true]
  split_ifs with h h'
  · exact ⟨fun _ => h, fun _ => rfl⟩
  · exact ⟨fun hzero => absurd hzero (by decide), fun hoff => absurd hoff h⟩
  · exact ⟨fun htwo => absurd htwo hcmd, fun hoff => absurd hoff h⟩

/-! ### A change of some outputs -/

/-- A change of the outputs in a list, one by one: each of them is related to what it was, and the others stay. -/
theorem foOut_foldl {step : State → Nat → State} {R : Nat → FoOut → FoOut → Prop}
    (hother : ∀ t n m, m ≠ n → foOut (step t n) m = foOut t m) (hown : ∀ t n, n < 4 → R n (foOut t n) (foOut (step t n) n)) :
    ∀ (ns : List Nat) (s : State), ns.Nodup → (∀ n ∈ ns, n < 4) → ∀ m,
      (m ∈ ns → R m (foOut s m) (foOut (ns.foldl step s) m)) ∧ (m ∉ ns → foOut (ns.foldl step s) m = foOut s m)
  | [], _, _, _, _ => ⟨fun hm => absurd hm List.not_mem_nil, fun _ => rfl⟩
  | n :: ns, s, hnodup, hlt, m => by
    obtain ⟨hnew, hrest⟩ := List.nodup_cons.mp hnodup
    obtain ⟨hin, hout⟩ := foOut_foldl hother hown ns (step s n) hrest (fun k hk => hlt k (List.mem_cons_of_mem _ hk)) m
    rw [List.foldl_cons]
    refine ⟨fun hm => ?_, fun hm => ?_⟩
    · rcases List.mem_cons.mp hm with rfl | hm
      · rw [hout hnew]
        exact hown s m (hlt m List.mem_cons_self)
      · have hne : m ≠ n := fun heq => hnew (heq ▸ hm)
        rw [← hother s n m hne]
        exact hin hm
    · obtain ⟨hne, hm'⟩ := not_or.mp (fun h => hm (List.mem_cons.mpr h))
      rw [hout hm', hother s n m hne]

/-- The same for a change of each output by a function of its own. -/
theorem foOut_foldl_modOut (g : Nat → FoOut → FoOut) {ns : List Nat} (hnodup : ns.Nodup) (hlt : ∀ n ∈ ns, n < 4) (s : State) (m : Nat) :
    foOut (ns.foldl (fun t n => modOut t n (g n)) s) m = if m ∈ ns then g m (foOut s m) else foOut s m := by
  obtain ⟨hin, hout⟩ := foOut_foldl (R := fun n a b => b = g n a) (fun t n m hne => foOut_modOut_other hne t _)
    (fun t n hn => foOut_modOut_same hn t _) ns s hnodup hlt m
  split
  next hm => exact hin hm
  next hm => exact hout hm

theorem foCommand_of_on {s : State} (h : foOn s = true) (ns : List Nat) (cmd : Bool) (pulseEnd : Option Nat) :
    foCommand s ns cmd pulseEnd =
      foDrive s (ns.foldl (fun t n => modOut t n fun o => { o with cmd := cmd, pulseEnd := pulseEnd }) s) := by
  unfold foCommand
  rw [h]
  rfl

theorem foCommand_of_off {s : State} (h : foOn s = false) (ns : List Nat) (cmd : Bool) (pulseEnd : Option Nat) :
    foCommand s ns cmd pulseEnd = s := by
  unfold foCommand
  rw [h]
  rfl

/-- With the domain on a command sets the outputs named and leaves the others. -/
theorem foOut_foCommand {s : State} (h : foOn s = true) {ns : List Nat} (hnodup : ns.Nodup) (hlt : ∀ n ∈ ns, n < 4) (cmd : Bool)
    (pulseEnd : Option Nat) (m : Nat) : foOut (foCommand s ns cmd pulseEnd) m =
      if m ∈ ns then { foOut s m with cmd := cmd, pulseEnd := pulseEnd } else foOut s m := by
  rw [foCommand_of_on h, foOut_foDrive]
  exact foOut_foldl_modOut (fun _ o => { o with cmd := cmd, pulseEnd := pulseEnd }) hnodup hlt s m

theorem foOut_foCommand_named {s : State} (h : foOn s = true) (mask : Nat) (cmd : Bool) (pulseEnd : Option Nat) (m : Nat) :
    foOut (foCommand s (foNamed s mask) cmd pulseEnd) m =
      if m ∈ foNamed s mask then { foOut s m with cmd := cmd, pulseEnd := pulseEnd } else foOut s m :=
  foOut_foCommand h (foNamed_nodup s mask) (fun _ hn => (mem_foNamed.mp hn).1) cmd pulseEnd m

theorem foOut_unitDone (s : State) (d : Die) (u n : Nat) : foOut (unitDone s d u) n = foOut s n := rfl

/-- A command of the outputs leaves the units. -/
theorem unitOf_foCommand (s : State) (ns : List Nat) (cmd : Bool) (pulseEnd : Option Nat) (d : Die) (u : Nat) :
    unitOf (foCommand s ns cmd pulseEnd) d u = unitOf s d u := by
  have hdies : (foCommand s ns cmd pulseEnd).dies = s.dies := foCommand_keeps ((closed_dies s).sub (by decide)) s _ _ _ rfl
  unfold unitOf State.die
  rw [hdies]

/-! ### Launches -/

section Launch
variable {f : SbFrame} {w : BitVec 48} {e : LaunchEntry} {s s1 : State} {act : Nat} (h : LaunchReady s f act w s1 e)
  (hdie : f.port.die = .svc) (hunit : tokUnit w = 3)
include h hdie hunit

theorem onLaunch_outputs (start : State → Die → Nat → Launched → State) :
    onLaunch s f act (· == .svc) (· == 3) start =
      .next (start (running s1 .svc 3 (launchedBy s1 w e)) .svc 3 (launchedBy s1 w e)) := by
  rw [onLaunch_ready h (u := 3) (by rw [hdie]; rfl) (by rw [hunit]; rfl) (by rw [hunit]) (by rw [hdie, hunit]; rfl), hdie]

theorem unitOf_commanded (ns : List Nat) (cmd : Bool) (pulseEnd : Option Nat) :
    unitOf (unitDone (foCommand (running s1 .svc 3 (launchedBy s1 w e)) ns cmd pulseEnd) .svc 3) .svc 3 = ⟨none, none⟩ := by
  rw [unitOf_unitDone (by decide), unitOf_foCommand, unitOf_running_of_ready h hdie hunit (by decide)]

end Launch

theorem commanded_mem (s1 : State) (l : Launched) (ns : List Nat) (cmd : Bool) (pulseEnd : Option Nat) :
    (unitDone (foCommand (running s1 .svc 3 l) ns cmd pulseEnd) .svc 3).mem = s1.mem ∧
      (unitDone (foCommand (running s1 .svc 3 l) ns cmd pulseEnd) .svc 3).regs = s1.regs :=
  ⟨foCommand_keeps ((closed_mem s1).sub (by decide)) (running s1 .svc 3 l) ns cmd pulseEnd rfl,
    foCommand_keeps ((closed_regs s1).sub (by decide)) (running s1 .svc 3 l) ns cmd pulseEnd rfl⟩

theorem foOut_commanded {s1 : State} (hon : foOn s1 = true) (l : Launched) (mask : Nat) (cmd : Bool) (pulseEnd : Option Nat) (n : Nat) :
    foOut (unitDone (foCommand (running s1 .svc 3 l) (foNamed s1 mask) cmd pulseEnd) .svc 3) n =
      if n ∈ foNamed s1 mask then { foOut s1 n with cmd := cmd, pulseEnd := pulseEnd } else foOut s1 n :=
  foOut_foCommand_named (s := running s1 .svc 3 l) hon mask cmd pulseEnd n

theorem foOut_not_commanded {s1 : State} (hoff : foOn s1 = false) (l : Launched) (ns : List Nat) (cmd : Bool) (pulseEnd : Option Nat)
    (n : Nat) : foOut (unitDone (foCommand (running s1 .svc 3 l) ns cmd pulseEnd) .svc 3) n = foOut s1 n := by
  rw [foOut_unitDone, foCommand_of_off (s := running s1 .svc 3 l) hoff]
  rfl

/-- The three launches, each as the command it is. -/
theorem startFo_running (s1 : State) (w : BitVec 48) (e : LaunchEntry) :
    startFoSet (running s1 .svc 3 (launchedBy s1 w e)) .svc 3 (launchedBy s1 w e) =
        unitDone (foCommand (running s1 .svc 3 (launchedBy s1 w e)) (foNamed s1 (wbits e.arg 3 0)) true none) .svc 3 ∧
      startFoClear (running s1 .svc 3 (launchedBy s1 w e)) .svc 3 (launchedBy s1 w e) =
        unitDone (foCommand (running s1 .svc 3 (launchedBy s1 w e)) (foNamed s1 (wbits e.arg 3 0)) false none) .svc 3 ∧
      (wbits e.arg 31 16 ≠ 0 → startFoPulse (running s1 .svc 3 (launchedBy s1 w e)) .svc 3 (launchedBy s1 w e) =
        unitDone (foCommand (running s1 .svc 3 (launchedBy s1 w e)) (foNamed s1 (wbits e.arg 3 0)) true
          (some (s1.now + 1000 * wbits e.arg 31 16))) .svc 3) := by
  refine ⟨rfl, rfl, fun hwidth => ?_⟩
  have hzero : ¬ (wbits (launchedBy s1 w e).arg 31 16 == 0) = true := by
    rw [show (launchedBy s1 w e).arg = e.arg from rfl]
    simpa using hwidth
  unfold startFoPulse
  dsimp only
  rw [if_neg hzero]
  rfl

/-! ### A write of FO_OUT -/

theorem foOn_foCommand (s : State) (ns : List Nat) (cmd : Bool) (pulseEnd : Option Nat) :
    foOn (foCommand s ns cmd pulseEnd) = foOn s := by
  have henabled : ∀ (l : List Nat) (g : FoOut → FoOut), (l.foldl (fun t n => modOut t n g) s).fo.enabled = s.fo.enabled := fun l g =>
    foldl_keeps (P := fun t => t.fo.enabled = s.fo.enabled) (f := fun t n => modOut t n g) (fun _ _ ht => ht) l s rfl
  have hpower : (foCommand s ns cmd pulseEnd).power = s.power := foCommand_keeps ((closed_power s).sub (by decide)) s _ _ _ rfl
  have hfo : (foCommand s ns cmd pulseEnd).fo.enabled = s.fo.enabled := by
    unfold foCommand
    split
    · rfl
    · rw [foDrive_fo]
      exact henabled _ _
  unfold foOn hkPowered
  rw [hpower, hfo]

/-- A write of FO_OUT sets each output to what the mask names. -/
theorem foOut_foOutNow {s : State} (h : foOn s = true) (v : Word) {n : Nat} (hn : n < 4) :
    foOut (foOutNow s v) n = { foOut s n with cmd := decide (n ∈ foNamed s (wbits v 3 0)), pulseEnd := none } := by
  have hlow : ((List.range 4).filter fun n => !(foNamed s (wbits v 3 0)).contains n).Nodup := List.nodup_range.filter _
  have hlt : ∀ m ∈ (List.range 4).filter (fun n => !(foNamed s (wbits v 3 0)).contains n), m < 4 := fun m hm =>
    List.mem_range.mp (List.mem_filter.mp hm).1
  unfold foOutNow
  dsimp only
  rw [foOut_foCommand ((foOn_foCommand ..).trans h) (foNamed_nodup s _) (fun _ hm => (mem_foNamed.mp hm).1), foOut_foCommand h hlow hlt]
  by_cases hm : n ∈ foNamed s (wbits v 3 0)
  · rw [if_pos hm, if_neg (by simp [hm]), decide_eq_true hm]
  · rw [if_neg hm, if_pos (by simp [hm, hn]), decide_eq_false hm]

/-! ### Latches -/

theorem nbit_fault {bit : Nat} (h : bit < 6) (faults : BitVec 7) (exhausted : Bool) :
    nbit (faults ||| BitVec.ofNat 7 (2 ^ bit + (if exhausted then 64 else 0))).toNat bit = true := by
  have hnew : (BitVec.ofNat 7 (2 ^ bit + (if exhausted then 64 else 0))).toNat.testBit bit = true := by
    cases exhausted
    · interval_cases bit <;> rfl
    · interval_cases bit <;> rfl
  have hbit : ∀ x i, nbit x i = x.testBit i := fun x i => by
    rw [Nat.testBit_eq_decide_div_mod_eq]
    rfl
  rw [hbit, BitVec.toNat_or, Nat.testBit_or, hnew, Bool.or_true]

/-- What a latch leaves of an output. -/
def Latched (bit : Nat) (a b : FoOut) : Prop :=
  b.latched = true ∧ nbit b.faults.toNat bit = true ∧ b.cmd = a.cmd ∧ b.thermal = (a.thermal || bit == 4)

theorem foOut_foLatchOne_same {bit n : Nat} (hbit : bit < 6) (hn : n < 4) (s : State) :
    Latched bit (foOut s n) (foOut (foLatchOne s bit n) n) := by
  unfold foLatchOne
  extract_lets o used exhausted s1
  have hs1 : Latched bit (foOut s n) (foOut s1 n) := by
    unfold s1
    rw [foOut_modOut_same hn]
    exact ⟨rfl, nbit_fault hbit _ exhausted, rfl, rfl⟩
  split
  · rw [foOut_of_fo (raise_fo ..)]
    exact hs1
  · exact hs1

theorem foOut_foLatchOne_other {m n : Nat} (h : m ≠ n) (s : State) (bit : Nat) : foOut (foLatchOne s bit n) m = foOut s m := by
  unfold foLatchOne
  extract_lets o used exhausted s1
  split
  · rw [foOut_of_fo (raise_fo ..)]
    exact foOut_modOut_other h s _
  · exact foOut_modOut_other h s _

theorem foLatchOne_latches (s : State) (bit n : Nat) : (foLatchOne s bit n).fo.latches = s.fo.latches := by
  unfold foLatchOne
  extract_lets o used exhausted s1
  split
  · rw [raise_fo]
    rfl
  · rfl

/-- A latch turns the outputs named OFF and counts once. -/
theorem foLatch_spec {bit : Nat} (hbit : bit < 6) {ns : List Nat} (hnodup : ns.Nodup) (hlt : ∀ n ∈ ns, n < 4) (s : State) (code : Nat) :
    (foLatch s bit code ns).fo.latches = satAdd 65535 s.fo.latches 1 ∧ ∀ m,
      (m ∈ ns → Latched bit (foOut s m) (foOut (foLatch s bit code ns) m)) ∧ (m ∉ ns → foOut (foLatch s bit code ns) m = foOut s m) := by
  unfold foLatch
  extract_lets first s1 s2
  have h2 : s2.fo = s1.fo := by
    unfold s2
    split
    · rw [raise_fo]
    · rw [logOnly_fo]
  have hsame : ∀ m, foOut s2 m = foOut s m := fun m => (foOut_of_fo h2 m).trans rfl
  refine ⟨?_, fun m => ?_⟩
  · rw [foDrive_fo]
    refine foldl_keeps (P := fun t => t.fo.latches = satAdd 65535 s.fo.latches 1) (fun t n ht => (foLatchOne_latches t bit n).trans ht) ns s2 ?_
    rw [h2]
    rfl
  · rw [foOut_foDrive, ← hsame m]
    exact foOut_foldl (R := fun _ => Latched bit) (fun t n m hne => foOut_foLatchOne_other hne t bit)
      (fun t n hn => foOut_foLatchOne_same hbit hn t) ns s2 hnodup hlt m

theorem foGroup_spec (s : State) {k : Nat} (hk : k < 4) : (foGroup s k).Nodup ∧ (∀ n ∈ foGroup s k, n < 4) ∧ k ∈ foGroup s k := by
  have hmate : foMate k < 4 ∧ k ≠ foMate k := by
    unfold foMate
    split
    next h => rw [beq_iff_eq] at h; omega
    next h => rw [beq_iff_eq] at h; omega
  unfold foGroup
  split
  · refine ⟨by simp [hmate.2], fun n hn => ?_, List.mem_cons_self⟩
    rcases List.mem_cons.mp hn with rfl | hn
    · exact hk
    · rw [List.mem_singleton.mp hn]
      exact hmate.1
  · exact ⟨List.nodup_singleton k, fun n hn => List.mem_singleton.mp hn ▸ hk, List.mem_singleton_self k⟩

/-! ### Retries -/

theorem foRetryNow_of_single {s : State} {k : Nat} (hk : k < 4) (hsingle : foPaired s k = false) (hlatched : (foOut s k).latched = true) :
    ((foRetries s k ≤ (foOut s k).used ∨ (foOut s k).thermal = true) → foRetryNow s k = s) ∧
      ((foOut s k).used < foRetries s k → (foOut s k).thermal = false →
        foOut (foRetryNow s k) k = { foOut s k with latched := false, retrying := true } ∧
          ∀ n, n ≠ k → foOut (foRetryNow s k) n = foOut s n) := by
  have hgroup : foGroup s k = [k] := by
    unfold foGroup
    rw [hsingle]
    rfl
  have hok : [k].all (foRetryOk s) = (decide ((foOut s k).used < foRetries s k) && !(foOut s k).thermal) := by
    rw [List.all_cons, List.all_nil, Bool.and_true]
    unfold foRetryOk
    rw [hlatched]
    rfl
  unfold foRetryNow
  dsimp only
  rw [hgroup, hlatched, hok]
  refine ⟨fun hnot => if_pos ?_, fun hleft hcool => ?_⟩
  · rcases hnot with h | h
    · rw [decide_eq_false (Nat.not_lt.mpr h)]
      rfl
    · rw [h, Bool.not_true, Bool.and_false]
      rfl
  · rw [if_neg (by rw [decide_eq_true hleft, hcool]; decide)]
    have heach : ∀ n, foOut ([k].foldl (fun t k => modOut t k fun o => if o.latched then { o with latched := false, retrying := true } else o) s) n =
        if n ∈ [k] then (if (foOut s n).latched then { foOut s n with latched := false, retrying := true } else foOut s n) else foOut s n := fun n =>
      foOut_foldl_modOut (fun _ o => if o.latched then { o with latched := false, retrying := true } else o) (List.nodup_singleton k)
        (fun n hn => List.mem_singleton.mp hn ▸ hk) s n
    refine ⟨?_, fun n hne => ?_⟩
    · rw [foOut_foDrive, heach, if_pos (List.mem_singleton_self k), hlatched, if_pos rfl]
    · rw [foOut_foDrive, heach, if_neg (by simpa using hne)]

/-- A write of FO_FAULT clears the bits written, and an output whose latch it clears is released. -/
def faultCleared (v : Word) (n : Nat) (o : FoOut) : FoOut :=
  let m := wbits v (8 * n + 6) (8 * n)
  let o1 := { o with faults := o.faults &&& ~~~BitVec.ofNat 7 m }
  if (o.faults.toNat &&& m) % 32 != 0 then { o1 with latched := false, thermal := false, used := 0, retrying := false } else o1

theorem foOut_foFaultWrite (s : State) (v : Word) {n : Nat} (hn : n < 4) : foOut (foFaultWrite s v) n = faultCleared v n (foOut s n) := by
  refine (foOut_foDrive ..).trans ?_
  refine (foOut_foldl_modOut (faultCleared v) List.nodup_range (fun n hn => List.mem_range.mp hn) s n).trans ?_
  rw [if_pos (List.mem_range.mpr hn)]

theorem faultCleared_spec (v : Word) (n : Nat) (o : FoOut) :
    (faultCleared v n o).faults = o.faults &&& ~~~BitVec.ofNat 7 (wbits v (8 * n + 6) (8 * n)) ∧ (faultCleared v n o).cmd = o.cmd ∧
      ((o.faults.toNat &&& wbits v (8 * n + 6) (8 * n)) % 32 ≠ 0 → (faultCleared v n o).latched = false ∧ (faultCleared v n o).used = 0) ∧
      ((o.faults.toNat &&& wbits v (8 * n + 6) (8 * n)) % 32 = 0 →
        (faultCleared v n o).latched = o.latched ∧ (faultCleared v n o).used = o.used) := by
  unfold faultCleared
  dsimp only
  by_cases h : (o.faults.toNat &&& wbits v (8 * n + 6) (8 * n)) % 32 = 0
  · rw [h, if_neg (by decide)]
    exact ⟨rfl, rfl, fun hne => absurd rfl hne, fun _ => ⟨rfl, rfl⟩⟩
  · rw [if_pos (bne_iff_ne.mpr h)]
    exact ⟨rfl, rfl, fun _ => ⟨rfl, rfl⟩, fun heq => absurd heq h⟩

/-- The thermal stage of an output that is not paired has cooled. -/
theorem foThermal_of_single {s : State} {k : Nat} (hk : k < 4) (hsingle : foPaired s k = false) :
    foOut ((foGroup s k).foldl (fun t n => modOut t n fun o => { o with thermal := false }) s) k = { foOut s k with thermal := false } := by
  have hgroup : foGroup s k = [k] := by
    unfold foGroup
    rw [hsingle]
    rfl
  rw [hgroup]
  exact foOut_modOut_same hk s _

/-- Settles O55: the outputs named and their pins, the commands, the latches, and what releases them. -/
theorem fieldOutputs : Obligations.FieldOutputs := by
  unfold Obligations.FieldOutputs
  refine ⟨fun s mask n hn => ⟨mem_foNamed.trans (and_iff_right hn), foLevel_eq_two, fun hoff hlatched huvlo => ?_⟩,
    fun f w e s s1 h hdie hunit hon hwidth => ?_, fun f w e s s1 h hdie hunit hon => ?_, fun f w e s s1 h hdie hunit => ?_,
    fun k s hk hon => ⟨fun hnone => ?_, fun e hsome => ?_⟩, fun p v s => ⟨fun hpath => ?_, fun hpath hoff => ?_, fun hpath hon => ?_⟩,
    fun k o s hk => ⟨fun hnot => ?_, fun hnot => ?_, fun hlow => ?_, fun hdriven => ?_⟩, fun k s hk => ?_,
    fun k s hk => ⟨fun hnot => ?_, fun hen hhigh => ?_, fun hlatched => ?_, fun hfree => ?_⟩,
    fun k s hk hsingle hlatched => ⟨fun hnot => ?_, fun hleft hcool => ?_, fun hleft hhot => ?_, fun hcool => ?_⟩, fun p v s hpath => ?_,
    fun s => ⟨fun hlow => ?_, fun hhigh => ?_, ?_⟩⟩
  · unfold foLevel
    rw [hoff, hlatched, huvlo]
    rfl
  · have hexec := exec_foPulse f s
    rw [execFoPulse, onLaunch_outputs h hdie hunit] at hexec
    rw [(startFo_running s1 w e).2.2 hwidth] at hexec
    obtain ⟨hmem, hregs⟩ := commanded_mem s1 (launchedBy s1 w e) (foNamed s1 (wbits e.arg 3 0)) true (some (s1.now + 1000 * wbits e.arg 31 16))
    exact ⟨_, hexec, (execFoPulse_keeps (closed_sameBut 0x62200045a10 s rfl) f s (SameBut.refl _ s)).of _ hexec, hmem, hregs,
      unitOf_commanded h hdie hunit _ _ _, fun n _ => foOut_commanded hon _ _ true _ n⟩
  · have hexec := exec_foSet f s
    rw [execFoSet, onLaunch_outputs h hdie hunit, (startFo_running s1 w e).1] at hexec
    obtain ⟨hmem, hregs⟩ := commanded_mem s1 (launchedBy s1 w e) (foNamed s1 (wbits e.arg 3 0)) true none
    exact ⟨_, hexec, (execFoSet_keeps (closed_sameBut 0x62200045a10 s rfl) f s (SameBut.refl _ s)).of _ hexec, hmem, hregs,
      unitOf_commanded h hdie hunit _ _ _, fun n _ => foOut_commanded hon _ _ true _ n⟩
  · have hexec := exec_foClear f s
    rw [execFoClear, onLaunch_outputs h hdie hunit, (startFo_running s1 w e).2.1] at hexec
    obtain ⟨hmem, hregs⟩ := commanded_mem s1 (launchedBy s1 w e) (foNamed s1 (wbits e.arg 3 0)) false none
    refine ⟨_, hexec, (execFoClear_keeps (closed_sameBut 0x62200045a10 s rfl) f s (SameBut.refl _ s)).of _ hexec, hmem, hregs,
      unitOf_commanded h hdie hunit _ _ _, fun n hn => ?_⟩
    by_cases hon : foOn s1 = true
    · simp only [hon, true_and]
      exact foOut_commanded hon _ _ false none n
    · rw [if_neg fun hboth => hon hboth.1]
      exact foOut_not_commanded (Bool.not_eq_true _ ▸ hon) _ _ false none n
  · rw [exec_foPulseEnd, execFoPulseEnd, onUnit_of (decide_eq_true hk), hnone]
  · have hexec := exec_foPulseEnd k s
    rw [execFoPulseEnd, onUnit_of (decide_eq_true hk), hsome] at hexec
    refine ⟨_, hexec, (execFoPulseEnd_keeps (closed_sameBut 0x2000000200 s rfl) k s (SameBut.refl _ s)).of _ hexec, fun n hn => ?_⟩
    refine (foOut_foCommand hon (List.nodup_range.filter _) (fun m hm => List.mem_range.mp (List.mem_filter.mp hm).1) false none n).trans ?_
    simp only [List.mem_filter, List.mem_range, hn, true_and, beq_iff_eq]
  · rw [exec_foOutWrite, foOutReg, hpath]
    rfl
  · rw [exec_foOutWrite, foOutReg, hpath, foOutNow, foCommand_of_off hoff, foCommand_of_off hoff]
    rfl
  · have hexec := exec_foOutWrite p v s
    rw [foOutReg, hpath] at hexec
    exact ⟨foOutNow s v, hexec, foOutNow_keeps (closed_sameBut 0x2000000200 s rfl) s v (SameBut.refl _ s),
      fun n hn => foOut_foOutNow hon v hn⟩
  · rw [exec_foFaultLatch, execFoFaultLatch, onUnit_of (by rw [decide_eq_true hk]; rfl)]
    rw [if_neg (by simpa using hnot)]
  · rw [exec_foFaultLatch, execFoFaultLatch, onUnit_of (by rw [decide_eq_true hk]; rfl)]
    rw [if_neg (by simpa using hnot)]
  · obtain ⟨hnodup, hlt, -⟩ := foGroup_spec s hk
    obtain ⟨hlatches, heach⟩ := foLatch_spec (bit := 0) (by decide) hnodup hlt s Code.foShortHi
    have hexec := exec_foFaultLatch .shortHi k o s
    rw [execFoFaultLatch, onUnit_of (by rw [decide_eq_true hk]; rfl)] at hexec
    rw [if_pos (beq_iff_eq.mpr hlow)] at hexec
    refine ⟨_, hexec, (execFoFaultLatch_keeps (closed_sameBut 0x62200000200 s rfl) .shortHi k o s (SameBut.refl _ s)).of _ hexec, hlatches,
      (execFoFaultLatch_keeps ((closed_mem s).sub (by decide)) .shortHi k o s rfl).of _ hexec,
      (execFoFaultLatch_keeps ((closed_regs s).sub (by decide)) .shortHi k o s rfl).of _ hexec, fun n hn => ?_⟩
    split
    next hm =>
      obtain ⟨hlatched, hbit, hcmd, -⟩ := (heach n).1 hm
      exact ⟨hlatched, hbit, foLevel_eq_two.mpr (.inl hlatched), hcmd⟩
    next hm => exact (heach n).2 hm
  · obtain ⟨hnodup, hlt, hself⟩ := foGroup_spec s hk
    obtain ⟨-, heach⟩ := foLatch_spec (bit := 4) (by decide) hnodup hlt s Code.foThermal
    obtain ⟨hlatched, hbit, -, hthermal⟩ := (heach k).1 hself
    have hexec := exec_foFaultLatch .thermal k o s
    rw [execFoFaultLatch, onUnit_of (by rw [decide_eq_true hk]; rfl)] at hexec
    rw [if_pos (bne_iff_ne.mpr hdriven)] at hexec
    exact ⟨_, hexec, (execFoFaultLatch_keeps (closed_sameBut 0x62200000200 s rfl) .thermal k o s (SameBut.refl _ s)).of _ hexec, hlatched,
      hthermal.trans (Bool.or_true _), hbit⟩
  · have hnone : decide (k < 4) = false := decide_eq_false (Nat.not_lt.mpr hk)
    rw [exec_foPulseEnd, exec_foFaultLatch, exec_foOpenLoad, exec_foRetry, exec_foRetryRestore, exec_foThermalRelease, execFoPulseEnd,
      execFoFaultLatch, execFoOpenLoad, execFoRetryRestore, execFoThermalRelease, hnone]
    exact ⟨rfl, rfl, rfl, rfl, rfl, rfl⟩
  · rw [exec_foOpenLoad, execFoOpenLoad, onUnit_of (decide_eq_true hk), if_pos]
    rcases hnot with h | h
    · rw [h]
      rfl
    · rw [bne_iff_ne.mpr h, Bool.or_true]
  · have hexec := exec_foOpenLoad k s
    rw [execFoOpenLoad, onUnit_of (decide_eq_true hk), hen, hhigh] at hexec
    have hframe := (execFoOpenLoad_keeps (closed_sameBut 0x62200000000 s rfl) k s (SameBut.refl _ s)).of
    generalize hmod : modOut s k (fun o => { o with faults := o.faults ||| 0x20 }) = u at hexec
    have hout : foOut u k = { foOut s k with faults := (foOut s k).faults ||| 0x20 } := by
      rw [← hmod, foOut_modOut_same hk]
    have hafter : ∀ t : State, t.fo = u.fo → (foOut t k).latched = (foOut s k).latched ∧ nbit (foOut t k).faults.toNat 5 = true := fun t ht => by
      rw [foOut_of_fo ht, hout]
      exact ⟨rfl, nbit_fault (bit := 5) (by decide) (foOut s k).faults false⟩
    have hdone : ∀ t : State, t.fo = u.fo → t.out = u.out → exec (.foOpenLoad k) s = .next t →
        ∃ t, exec (.foOpenLoad k) s = .next t ∧ t = { s with recs := t.recs, fo := t.fo, log := t.log, outboxes := t.outboxes } ∧
          (foOut t k).latched = (foOut s k).latched ∧ nbit (foOut t k).faults.toNat 5 = true ∧ t.out = s.out := fun t hfo hsent ht => by
      obtain ⟨hlatched, hbit⟩ := hafter t hfo
      exact ⟨t, ht, hframe _ ht, hlatched, hbit, hsent.trans (by rw [← hmod]; rfl)⟩
    by_cases hfirst : nbit (foOut s k).faults.toNat 5 = true
    · rw [hfirst] at hexec
      exact hdone (logOnly u .svc 3 0 Code.foOpen 1) (logOnly_fo ..) (logOnly_out ..) hexec
    · rw [eq_false_of_ne_true hfirst] at hexec
      exact hdone (raise u 3 0 Code.foOpen 1) (raise_fo ..) (raise_out ..) hexec
  · rw [exec_foRetryRestore, execFoRetryRestore, onUnit_of (decide_eq_true hk), if_pos hlatched]
  · have hexec := exec_foRetryRestore k s
    rw [execFoRetryRestore, onUnit_of (decide_eq_true hk), hfree, if_neg Bool.false_ne_true] at hexec
    exact ⟨_, hexec, rfl, foOut_modOut_same hk s _⟩
  · rw [exec_foRetry, onUnit_of (decide_eq_true hk), (foRetryNow_of_single hk hsingle hlatched).1 hnot]
  · have hexec := exec_foRetry k s
    rw [onUnit_of (decide_eq_true hk)] at hexec
    obtain ⟨hself, hothers⟩ := (foRetryNow_of_single hk hsingle hlatched).2 hleft hcool
    exact ⟨_, hexec, foRetryNow_keeps (closed_sameBut 0x2000000200 s rfl) s k (SameBut.refl _ s), hself, fun n _ hne => hothers n hne⟩
  · have hexec := exec_foThermalRelease k s
    rw [execFoThermalRelease, onUnit_of (decide_eq_true hk), if_pos hhot] at hexec
    have hcooled := foThermal_of_single hk hsingle
    generalize hcool : (foGroup s k).foldl (fun t n => modOut t n fun o => { o with thermal := false }) s = u at hexec hcooled
    have hregs : SameBut 0x2000000000 s u := by
      rw [← hcool]
      exact foldl_keeps (P := SameBut 0x2000000000 s) (fun t n ht => modFo_keeps (closed_sameBut 0x2000000000 s rfl) t _ ht) _ _ (SameBut.refl _ s)
    have hu : u = { s with fo := u.fo } := hregs
    have hpaired : foPaired u k = false := by
      rw [hu]
      exact hsingle
    have hretries : foRetries u k = foRetries s k := by
      rw [hu]
      rfl
    obtain ⟨hself, -⟩ := (foRetryNow_of_single hk hpaired (by rw [hcooled]; exact hlatched)).2
      (by rw [hcooled, hretries]; exact hleft) (by rw [hcooled])
    exact ⟨_, hexec, (execFoThermalRelease_keeps (closed_sameBut 0x2000000200 s rfl) k s (SameBut.refl _ s)).of _ hexec,
      hself.trans (by rw [hcooled])⟩
  · rw [exec_foThermalRelease, execFoThermalRelease, onUnit_of (decide_eq_true hk), hcool, if_neg Bool.false_ne_true]
  · have hexec := exec_foFaultClear p v s
    rw [foFaultReg, hpath] at hexec
    refine ⟨foFaultWrite s v, hexec, foFaultWrite_keeps (closed_sameBut 0x2000000200 s rfl) s v (SameBut.refl _ s), fun n hn => ?_⟩
    rw [foOut_foFaultWrite s v hn]
    exact faultCleared_spec v n (foOut s n)
  · rw [exec_foUvlo, execFoUvlo, hlow, if_pos rfl]
  · have hexec := exec_foUvlo s
    rw [execFoUvlo, hhigh, if_neg Bool.false_ne_true] at hexec
    refine ⟨_, hexec, (execFoUvlo_keeps (closed_sameBut 0x22200000200 s rfl) s (SameBut.refl _ s)).of _ hexec, ?_,
      (execFoUvlo_keeps ((closed_mem s).sub (by decide)) s rfl).of _ hexec,
      (execFoUvlo_keeps ((closed_regs s).sub (by decide)) s rfl).of _ hexec⟩
    rw [foDrive_fo, raise_fo]
    rfl
  · exact ⟨_, exec_foUvloRecover s, foDrive_eq ..⟩

end Sys2Proof.Proofs
end

section
/-! PROOF. The tamper electrodes: what a sample, a record and a fault leave of each (R575–R580, R604). -/
namespace Sys2Proof.Proofs
open Sys2Proof Sys2Proof.Machine Sys2Proof.Laws

theorem exec_tamperSample (k c : Nat) (r : Bool) (s : State) : exec (.tamperSample k c r) s = execTamperSample k c r s := rfl
theorem exec_persistentOcclusion (k : Nat) (s : State) : exec (.persistentOcclusion k) s = execPersistentOcclusion k s := rfl
theorem exec_tamperFault (k : Nat) (s : State) : exec (.tamperFault k) s = execTamperFault k s := rfl
theorem exec_shieldFault (s : State) : exec .shieldFault s = execShieldFault s := rfl
theorem exec_tamperRebaseline (p : Path) (v : Word) (s : State) :
    exec (.tamperRebaseline p v) s = .next (answerWrite p 0x000B0008 (tmpCmdReg s p v)) := rfl

/-! ### One electrode -/

section Electrode
variable (s : State) (e : Nat) (f : Electrode → Electrode)

@[simp] theorem teOf_modTe : teOf (modTe s e f) e = f (teOf s e) := by
  unfold teOf modTe
  by_cases h : (e == 0) = true
  · simp only [h, if_true]
    rfl
  · simp only [h, Bool.false_eq_true, if_false]
    rfl

theorem teOf_modTe_other (he : e < 2) : teOf (modTe s e f) (1 - e) = teOf s (1 - e) := by
  obtain rfl | rfl : e = 0 ∨ e = 1 := by omega
  · rfl
  · rfl

theorem teOf_of_tamper {s t : State} (h0 : t.tamper.te0 = s.tamper.te0) (h1 : t.tamper.te1 = s.tamper.te1) (e : Nat) :
    teOf t e = teOf s e := by
  unfold teOf
  rw [h0, h1]

theorem modTe_tamper : (modTe s e f).tamper =
    { s.tamper with te0 := (modTe s e f).tamper.te0, te1 := (modTe s e f).tamper.te1 } := by
  unfold modTe
  dsimp only [modTmp_tamper]
  split
  · rfl
  · rfl

end Electrode

/-! ### Records -/

/-- A TAMPER record counts one event and leaves the electrodes. -/
theorem tamperRecord_tamper (s : State) (event e : Nat) (d : Int) (duration : Nat) :
    (tamperRecord s event e d duration).tamper = { s.tamper with events := s.tamper.events + 1 } :=
  raiseRecord_keeps ((closed_tamper (modTmp s fun t => { t with events := t.events + 1 })).sub (by decide)) _ _ rfl

theorem teOf_tamperRecord (s : State) (event e : Nat) (d : Int) (duration k : Nat) :
    teOf (tamperRecord s event e d duration) k = teOf s k :=
  teOf_of_tamper (by rw [tamperRecord_tamper]) (by rw [tamperRecord_tamper]) k

theorem tamperWake_of_off {s : State} (h : rb s 0x000B0000 3 = false) : tamperWake s = s := by
  unfold tamperWake
  rw [if_neg (by rw [h]; decide)]

/-- The wake of an occlusion is read from the registers, which a record of it leaves. -/
theorem rb_tamperRecord (s : State) (event e : Nat) (d : Int) (duration a i : Nat) :
    rb (tamperRecord s event e d duration) a i = rb s a i := by
  have hregs : (tamperRecord s event e d duration).regs = s.regs := tamperRecord_keeps ((closed_regs s).sub (by decide)) s _ _ _ _ rfl
  have hpart : (tamperRecord s event e d duration).part = s.part := tamperRecord_keeps ((closed_part s).sub (by decide)) s _ _ _ _ rfl
  unfold rb rget
  rw [hregs, hpart]

/-- A change of an electrode that is recorded as an event: no wake follows where TMP_CTRL.WAKE is 0. -/
theorem changed_recorded {s : State} {k : Nat} {f : Electrode → Electrode} (hwake : rb s 0x000B0000 3 = false) (event e : Nat) (d : Int)
    (duration : Nat) : teOf (tamperWake (tamperRecord (modTe s k f) event e d duration)) k = f (teOf s k) ∧
      (tamperWake (tamperRecord (modTe s k f) event e d duration)).tamper.events = s.tamper.events + 1 := by
  have hoff : rb (tamperRecord (modTe s k f) event e d duration) 0x000B0000 3 = false := (rb_tamperRecord ..).trans hwake
  rw [tamperWake_of_off hoff, teOf_tamperRecord, teOf_modTe, tamperRecord_tamper, modTe_tamper]
  exact ⟨rfl, rfl⟩

theorem recorded_spec (s : State) (k : Nat) (f : Electrode → Electrode) (event e : Nat) (d : Int) (duration : Nat) :
    teOf (tamperRecord (modTe s k f) event e d duration) k = f (teOf s k) ∧
      (tamperRecord (modTe s k f) event e d duration).tamper.events = s.tamper.events + 1 := by
  rw [teOf_tamperRecord, teOf_modTe, tamperRecord_tamper, modTe_tamper]
  exact ⟨rfl, rfl⟩

/-! ### Samples -/

/-- The state in which a sample has been taken. -/
def sampled (s : State) (k c : Nat) : State := modTe s k fun x => { x with c := c, samples := (c :: x.samples).take 16 }

theorem teOf_sampled (s : State) (k c : Nat) :
    teOf (sampled s k c) k = { teOf s k with c := c, samples := (c :: (teOf s k).samples).take 16 } := teOf_modTe ..

section Sample
variable {k c : Nat} {r : Bool} {s : State} (hk : k < 2)
include hk

theorem tamperSample_of_off (h : (teOf s k).state = .off) : exec (.tamperSample k c r) s = .next s := by
  rw [exec_tamperSample, execTamperSample, onUnit_of (decide_eq_true hk), if_pos (beq_iff_eq.mpr h)]

theorem tamperSample_of_start (h : (teOf s k).state = .start) : exec (.tamperSample k c r) s =
    .next (if (teOf (sampled s k c) k).samples.length < 16 then sampled s k c else teDecide (sampled s k c) k) := by
  rw [exec_tamperSample, execTamperSample, onUnit_of (decide_eq_true hk), h]
  rfl

theorem tamperSample_of_normal (h : (teOf s k).state = .normal) :
    exec (.tamperSample k c r) s = .next (teNormal (sampled s k c) k (256 * (c : Int) - (teOf s k).base)) := by
  rw [exec_tamperSample, execTamperSample, onUnit_of (decide_eq_true hk), h]
  rfl

theorem tamperSample_of_occluded (h : (teOf s k).state = .occluded) :
    exec (.tamperSample k c r) s = .next (teOccludedSample (sampled s k c) k (256 * (c : Int) - (teOf s k).base)) := by
  rw [exec_tamperSample, execTamperSample, onUnit_of (decide_eq_true hk), h]
  rfl

end Sample

/-- What a decision reads besides the electrode is in the registers, the OTP and TRIM_BAD, which a sample leaves. -/
theorem sampled_reads (s : State) (k c : Nat) : teValid (sampled s k c) k = teValid s k ∧ teF (sampled s k c) k = teF s k ∧
    teOccl (sampled s k c) = teOccl s ∧ teClear (sampled s k c) = teClear s ∧ (∀ a i, rb (sampled s k c) a i = rb s a i) ∧
    (∀ a hi lo, rf (sampled s k c) a hi lo = rf s a hi lo) ∧ (sampled s k c).tamper.events = s.tamper.events := by
  refine ⟨rfl, rfl, rfl, rfl, fun _ _ => rfl, fun _ _ _ => rfl, ?_⟩
  unfold sampled
  rw [modTe_tamper]

section Decide
variable {s : State} {k c : Nat} (hlen : (teOf s k).samples.length = 15)
include hlen

theorem samples_of_last : (teOf (sampled s k c) k).samples = c :: (teOf s k).samples := by
  rw [teOf_sampled]
  exact List.take_of_length_le (by rw [List.length_cons, hlen])

/-- The sixteenth sample decides NORMAL within OCCL_THRESH of the factory baseline. -/
theorem teDecide_normal (hvalid : teValid s k = true)
    (hwithin : ((16 * ((c + (teOf s k).samples.sum : Nat) : Int) - 256 * teF s k).natAbs : Int) ≤ teOccl s) :
    teDecide (sampled s k c) k = modTe (sampled s k c) k fun x =>
      { x with state := .normal, base := 16 * ((c + (teOf s k).samples.sum : Nat) : Int), occRun := 0 } := by
  obtain ⟨hv, hf, ho, -⟩ := sampled_reads s k c
  unfold teDecide
  rw [samples_of_last hlen, List.sum_cons, hv, hf, ho]
  exact if_pos (by rw [hvalid]; exact decide_eq_true hwithin)

/-- Beyond it the electrode is OCCLUDED_AT_START with the factory baseline, and recorded. -/
theorem teDecide_occluded (hvalid : teValid s k = true)
    (hbeyond : teOccl s < ((16 * ((c + (teOf s k).samples.sum : Nat) : Int) - 256 * teF s k).natAbs : Int)) :
    ∃ d, teDecide (sampled s k c) k = tamperWake (tamperRecord (modTe (sampled s k c) k fun x =>
      { x with state := .occludedAtStart, base := 256 * teF s k, since := s.now, clearRun := 0, clearSum := 0, persist := 0 }) 1 k d 0) := by
  obtain ⟨hv, hf, ho, -⟩ := sampled_reads s k c
  have hnot : ¬ (!teValid s k || decide (((16 * ((c + (teOf s k).samples.sum : Nat) : Int) - 256 * teF s k).natAbs : Int) ≤ teOccl s)) = true := by
    rw [hvalid]
    simpa using hbeyond
  unfold teDecide
  rw [samples_of_last hlen, List.sum_cons, hv, hf, ho]
  exact ⟨_, if_neg hnot⟩

end Decide

/-- The base of the electrode in NORMAL: a sample within CLEAR_THRESH moves it, one beyond OCCL_THRESH lengthens the run. -/
theorem teNormal_eq (s : State) (k : Nat) (d : Int) : teNormal s k d =
    if 20 ≤ (if teOccl s < (d.natAbs : Int) then (teOf s k).occRun + 1 else 0) then
      tamperWake (tamperRecord (modTe s k fun x =>
        { x with state := .occluded, occRun := 0, since := s.now, clearRun := 0, clearSum := 0, persist := 0 }) 2 k d 0)
    else modTe s k fun x => { x with
      base := if (d.natAbs : Int) ≤ teClear s then (teOf s k).base + divHalfUp d (20 * rf s 0x000B0010 31 16) else (teOf s k).base
      occRun := if teOccl s < (d.natAbs : Int) then (teOf s k).occRun + 1 else 0 } := rfl

/-- The last of 100 samples within CLEAR_THRESH ends OCCLUDED with the baseline kept. -/
theorem teOccludedSample_clears {s : State} {k : Nat} {d : Int} (hwithin : (d.natAbs : Int) ≤ teClear s)
    (hrun : (teOf s k).clearRun = 99) (hstate : (teOf s k).state = .occluded) :
    (teOf (teOccludedSample s k d) k).state = .normal ∧ (teOf (teOccludedSample s k d) k).base = (teOf s k).base ∧
      (teOccludedSample s k d).tamper.events = s.tamper.events + 1 := by
  unfold teOccludedSample
  dsimp only
  rw [if_neg (not_lt.mpr hwithin), hrun, if_neg (by decide), (recorded_spec ..).1, (recorded_spec ..).2, hstate]
  exact ⟨rfl, rfl, rfl⟩

/-! ### Faults and the baseline -/

theorem teOf_teToFault {s : State} {e : Nat} (h : (teOf s e).state ≠ .off) : (teOf (teToFault s e) e).state = .fault := by
  unfold teToFault
  rw [if_neg (by simpa using h), teOf_modTe]

theorem teOf_teToFault_other {e : Nat} (he : e < 2) (s : State) : teOf (teToFault s e) (1 - e) = teOf s (1 - e) := by
  unfold teToFault
  split
  · rfl
  · exact teOf_modTe_other s e _ he

theorem teToFault_shield (s : State) (e : Nat) : (teToFault s e).tamper.shield = s.tamper.shield := by
  unfold teToFault
  split
  · rfl
  · rw [modTe_tamper]

theorem teOf_raise (s : State) (unit sub code sev : Nat) (args : BitVec 96) (e : Nat) : teOf (raise s unit sub code sev args) e = teOf s e :=
  teOf_of_tamper (by rw [raise_tamper]) (by rw [raise_tamper]) e

/-- REBASELINE of an electrode that is NORMAL or occluded takes the mean of its samples. -/
theorem teRebaseline_tamper {s : State} {e : Nat} (h : ((teOf s e).state == .normal || teIsOccluded (teOf s e)) = true) :
    (teOf (teRebaseline s e) e).state = .normal ∧ (teOf (teRebaseline s e) e).base = 16 * ((teOf s e).samples.sum : Int) ∧
      (teRebaseline s e).tamper.events = s.tamper.events + 1 ∧ (e < 2 → teOf (teRebaseline s e) (1 - e) = teOf s (1 - e)) := by
  unfold teRebaseline
  dsimp only
  rw [if_pos h, (recorded_spec ..).1, (recorded_spec ..).2]
  refine ⟨rfl, rfl, rfl, fun he => ?_⟩
  rw [teOf_tamperRecord, teOf_modTe_other s e _ he]

end Sys2Proof.Proofs
end

section
/-! PROOF. The I²C controller, the flash, the GPIOs and PMBus (R587, R588, R590, R596, R599, R604, R649), and with the electrodes all of
chapter 19's commands. -/
namespace Sys2Proof.Proofs
open Sys2Proof Sys2Proof.Machine Sys2Proof.Laws

theorem exec_i2cControllerXfer (p : Path) (v : Word) (free : Bool) (r : I2cResult) (s : State) :
    exec (.i2cControllerXfer p v free r) s = .next (answerWrite p 0x000C0004 (i2cXferReg s p v free r)) := rfl
theorem exec_i2cBusFree (r : I2cResult) (s : State) : exec (.i2cBusFree r) s = execI2cBusFree r s := rfl
theorem exec_i2cArbRetry (r : I2cResult) (s : State) : exec (.i2cArbRetry r) s = execI2cArbRetry r s := rfl
theorem exec_i2cBusStuck (freed : Bool) (s : State) : exec (.i2cBusStuck freed) s = execI2cBusStuck freed s := rfl
theorem exec_gpioEdge (k : Nat) (up : Bool) (s : State) : exec (.gpioEdge k up) s = execGpioEdge k up s := rfl
theorem exec_pmAlert (st : Nat) (ok : Bool) (s : State) : exec (.pmAlert st ok) s = execPmAlert st ok s := rfl
theorem exec_vcoreTelemetry (v i p : Option Nat) (s : State) : exec (.vcoreTelemetry v i p) s = execVcoreTelemetry v i p s := rfl

/-! ### The I²C controller -/

section Xfer
variable {v : Word} {r : I2cResult} {s : State} (hkey : wbits v 31 24 = 0xC2)
include hkey

/-- A transaction of a core with its magic, off or while one is under way, is refused. -/
theorem i2cXferReg_of_busy (h : rb s 0x000C0000 10 = false ∨ s.bus.xfer ≠ none) (free : Bool) :
    i2cXferReg s .core v free r = (s, .refused) := by
  have hbusy : (!rb s 0x000C0000 10 || s.bus.xfer.isSome) = true := by
    rcases h with h | h
    · rw [h]; rfl
    · rw [Option.isSome_iff_ne_none.mpr h]
      exact Bool.or_true _
  unfold i2cXferReg
  rw [hkey, if_neg (by decide), if_neg (by decide), hbusy]
  split
  · rfl
  · exact if_pos rfl

section Ready
variable (hlen : wbits v 13 8 ≤ 32) (hwrite : wbit v 7 = false) (hon : rb s 0x000C0000 10 = true) (hfree : s.bus.xfer = none)
include hlen hwrite hon hfree

theorem i2cXferReg_of_ready (free : Bool) : i2cXferReg s .core v free r =
    if wbits v 6 0 == rf s 0x000C0000 6 0 then (i2cEnd s 5 0, .ok)
    else (if free then i2cAttempt (modBus s fun y => { y with xfer := some (i2cXferOf v (!free)), lastLosses := 0 }) (i2cXferOf v (!free)) r
      else modBus s fun y => { y with xfer := some (i2cXferOf v (!free)), lastLosses := 0 }, .ok) := by
  have hfits : (decide (32 < wbits v 13 8) || (wbit v 7 && (wbits v 21 16 == 0 || decide (32 < wbits v 21 16)))) = false := by
    rw [decide_eq_false (Nat.not_lt.mpr hlen), hwrite]
    rfl
  unfold i2cXferReg
  rw [hkey, if_neg (by decide), if_neg (by decide), if_neg (by rw [hfits]; decide), hon, hfree]
  rfl

end Ready
end Xfer

/-- A loss of arbitration before the fourth is counted and waits for its retry. -/
theorem i2cAttempt_lost (s : State) (x : I2cXfer) (b : Nat) (o : Bool) : (i2cAttempt s x (.lost b o)).bus =
    if 4 ≤ x.losses + 1 then { s.bus with losses := satAdd 65535 s.bus.losses 1, xfer := none, result := 3, lastLosses := x.losses + 1 }
    else { s.bus with
      losses := satAdd 65535 s.bus.losses 1, xfer := some { x with losses := x.losses + 1, waiting := false }
      lastLosses := x.losses + 1 } := by
  unfold i2cAttempt
  dsimp only
  split
  · unfold i2cEnd
    rw [modBus_bus, raise_bus]
    rfl
  · rw [modBus_bus, raise_bus]
    rfl

theorem i2cArbRetry_of_lost {s : State} {x : I2cXfer} (hx : s.bus.xfer = some x) (hwaiting : x.waiting = false) (hlosses : x.losses ≠ 0)
    (r : I2cResult) : exec (.i2cArbRetry r) s = .next (i2cAttempt s x r) := by
  rw [exec_i2cArbRetry, execI2cArbRetry, hx]
  dsimp only
  rw [if_pos (by rw [bne_iff_ne.mpr hlosses, hwaiting]; rfl)]

/-! ### GPIO edges -/

theorem nbit_eq_getLsbD {w : Nat} (v : BitVec w) (i : Nat) : nbit v.toNat i = v.getLsbD i := by
  unfold nbit
  rw [BitVec.getLsbD, Nat.testBit_eq_decide_div_mod_eq]
  rfl

theorem getLsbD_pin {k : Nat} (hk : k < 8) : (BitVec.ofNat 8 (2 ^ k)).getLsbD k = true := by
  interval_cases k <;> rfl

/-- The level of a pin after an edge. -/
theorem gpioIn_after {k : Nat} (hk : k < 8) (v : BitVec 8) (up : Bool) :
    nbit (if up then v ||| BitVec.ofNat 8 (2 ^ k) else v &&& ~~~BitVec.ofNat 8 (2 ^ k)).toNat k = up := by
  rw [nbit_eq_getLsbD]
  cases up
  · rw [if_neg Bool.false_ne_true, BitVec.getLsbD_and, BitVec.getLsbD_not, getLsbD_pin hk]
    simp
  · rw [if_pos rfl, BitVec.getLsbD_or, getLsbD_pin hk, Bool.or_true]

/-- The state in which an edge has moved its pin's level. -/
def pinMoved (s : State) (k : Nat) (up : Bool) : State :=
  modBus s fun x => { x with gpioIn := if up then x.gpioIn ||| BitVec.ofNat 8 (2 ^ k) else x.gpioIn &&& ~~~BitVec.ofNat 8 (2 ^ k) }

/-- The state in which a matching edge has set its bit and time stamp. -/
def edgeStored (s : State) (k : Nat) : State :=
  modBus s fun x => { x with
    gpioEvt := x.gpioEvt ||| BitVec.ofNat 8 (2 ^ k), gpioTs := x.gpioTs.setIfInBounds k s.tb.ltime
    gpioLost := if nbit s.bus.gpioEvt.toNat k then satAdd 65535 x.gpioLost 1 else x.gpioLost }

/-! ### PMBus -/

theorem pmWorks_of_good {s : State} (h : s.bus.pmFailed = false) : pmWorks s = s := by
  unfold pmWorks
  rw [h]
  rfl

/-- A transaction that fails for the first time is VCORE_FAULT. -/
theorem pmFails_spec {s : State} (h : s.bus.pmFailed = false) :
    (pmFails s).bus = { s.bus with pmErrors := satAdd 255 s.bus.pmErrors 4, pmFailed := true } ∧ (pmFails s).power.voutBad = true := by
  have hfault : ∀ u : State, (vcoreFaultNow u).bus = u.bus ∧ (vcoreFaultNow u).power.voutBad = true := fun u => by
    unfold vcoreFaultNow
    split
    next hbad => exact ⟨rfl, hbad⟩
    next => rw [raise_bus, raise_power]; exact ⟨rfl, rfl⟩
  unfold pmFails
  dsimp only
  rw [if_neg (by rw [h]; decide), (hfault _).1, raise_bus]
  exact ⟨rfl, (hfault _).2⟩

theorem addEnergy_power (s : State) : (addEnergy s).power = { s.power with
    energy := s.power.energy + BitVec.ofNat 48 ((pVcore s + auxMw s) * 10), secondUj := (addEnergy s).power.secondUj
    secondSteps := (addEnergy s).power.secondSteps, pwr1s := (addEnergy s).power.pwr1s } := rfl

/-- The readings of the regulator, stored. -/
def readingsStored (s : State) (v i p : Nat) : State := modPower s fun x => { x with vout := v, iout := i, pout := p, energyEst := false }

theorem telemetry_taken {s : State} (hon : pmOn s = true) (hgood : s.bus.pmFailed = false) (hsent : s.power.vcoreSent ≠ 0) (v i p : Nat) :
    ∃ t, exec (.vcoreTelemetry (some v) (some i) (some p)) s = .next t ∧ t = { s with power := t.power } ∧ t.power.vout = v ∧
      t.power.iout = i ∧ t.power.pout = p ∧ t.power.energy = s.power.energy + BitVec.ofNat 48 ((p + auxMw s) * 10) := by
  have hexec : exec (.vcoreTelemetry (some v) (some i) (some p)) s = .next (addEnergy (
      if (some v).isSome && voutAgrees (readingsStored s v i p) then modPower (readingsStored s v i p) fun x => { x with voutBad := false }
      else readingsStored s v i p)) := by
    rw [exec_vcoreTelemetry, execVcoreTelemetry, hon, beq_eq_false_iff_ne.mpr hsent, pmWorks_of_good hgood]
    rfl
  split at hexec
  · exact ⟨_, hexec, rfl, rfl, rfl, rfl, rfl⟩
  · exact ⟨_, hexec, rfl, rfl, rfl, rfl, rfl⟩

/-- Settles O56: the electrodes by state, then the buses, the pins and the regulator. -/
theorem tamperBusesAndPins : Obligations.TamperBusesAndPins := by
  unfold Obligations.TamperBusesAndPins
  refine ⟨fun k c r s hk => ⟨tamperSample_of_off hk, fun hstart hfew => ?_, fun hstart hlen hvalid hwithin => ?_,
      fun hstart hlen hvalid hbeyond hwake => ?_⟩,
    fun k c r s hk hnormal => ⟨fun hwithin hthresh => ?_, fun houtside hbeyond hrun => ?_, fun hbeyond hrun hwake => ?_⟩,
    fun k c r s hk hoccluded hwithin hrun => ?_, fun k s hk => ⟨fun hnot => ?_, fun hocc => ?_, fun hoff hfault => ?_, fun hoff => ?_⟩,
    fun v s hkey h0 h1 hstate => ?_, fun p v free r s => ⟨fun hpath => ?_, fun hkey => ?_, fun hkey hbusy => ?_⟩,
    fun v r s hkey hlen hwrite hon hfree => ⟨fun hown => ?_, fun hother => ?_, fun hother => ?_⟩,
    fun x r b o s hx => ⟨fun hwaiting => ?_, fun hwaiting => ?_, fun hwaiting hsome hfew => ?_, fun hwaiting hthree => ?_, ?_, ?_⟩,
    fun r s => ⟨fun hnone => ?_, rfl⟩, fun k up s hk hsleep => ⟨fun hnot => ?_, fun hinput hmatch => ?_⟩, fun k c s hk => ?_,
    fun st s hon hgood h14 h11 => ⟨?_, ?_⟩, fun v i p s hon hgood hsent => ?_, fun st ok s hoff => ?_⟩
  · have hexec := tamperSample_of_start (c := c) (r := r) hk hstart
    have hall : (c :: (teOf s k).samples).take 16 = c :: (teOf s k).samples :=
      List.take_of_length_le (by rw [List.length_cons]; omega)
    rw [if_pos (by rw [teOf_sampled, hall, List.length_cons]; omega)] at hexec
    refine ⟨_, hexec, rfl, ?_, teOf_modTe_other s k _ hk⟩
    rw [teOf_sampled, hall]
  · have hexec := tamperSample_of_start (c := c) (r := r) hk hstart
    rw [if_neg (by rw [samples_of_last hlen, List.length_cons, hlen]; decide), teDecide_normal hlen hvalid hwithin] at hexec
    refine ⟨_, hexec, (execTamperSample_keeps (closed_sameBut 0xa7a00001208 s rfl) k c r s (SameBut.refl _ s)).of _ hexec, ?_, ?_, rfl⟩
    · rw [teOf_modTe]
    · rw [teOf_modTe]
  · obtain ⟨d, hdecide⟩ := teDecide_occluded (c := c) hlen hvalid hbeyond
    obtain ⟨-, -, -, -, hrb, -, hevents⟩ := sampled_reads s k c
    have hexec := tamperSample_of_start (c := c) (r := r) hk hstart
    rw [if_neg (by rw [samples_of_last hlen, List.length_cons, hlen]; decide), hdecide] at hexec
    have hframe := (execTamperSample_keeps (closed_sameBut 0xa7a00001208 s rfl) k c r s (SameBut.refl _ s)).of _ hexec
    obtain ⟨hte, hcount⟩ := changed_recorded (s := sampled s k c) (k := k) (f := fun x =>
      { x with state := .occludedAtStart, base := 256 * teF s k, since := s.now, clearRun := 0, clearSum := 0, persist := 0 })
      ((hrb _ _).trans hwake) 1 k d 0
    refine ⟨_, hexec, hframe, ?_, ?_, hcount.trans (by rw [hevents])⟩
    · rw [hte]
    · rw [hte]
  · obtain ⟨-, -, ho, hc, -, hrf, -⟩ := sampled_reads s k c
    have hexec := tamperSample_of_normal (c := c) (r := r) hk hnormal
    have hno : ¬ teOccl s < ((256 * (c : Int) - (teOf s k).base).natAbs : Int) := not_lt.mpr (hwithin.trans hthresh)
    rw [teNormal_eq, ho, hc, if_neg hno, if_neg (by decide), if_pos hwithin, hrf] at hexec
    refine ⟨_, hexec, rfl, ?_, ?_, ?_⟩
    · rw [teOf_modTe, teOf_sampled]
      exact hnormal
    · rw [teOf_modTe]
    · rw [teOf_modTe, teOf_sampled]
  · obtain ⟨-, -, ho, hc, -, -, -⟩ := sampled_reads s k c
    have hexec := tamperSample_of_normal (c := c) (r := r) hk hnormal
    rw [teNormal_eq, ho, hc, if_pos hbeyond, if_neg (not_le.mpr houtside), teOf_sampled, if_neg (by dsimp only; omega)] at hexec
    refine ⟨_, hexec, rfl, ?_, ?_⟩
    · rw [teOf_modTe]
    · rw [teOf_modTe]
  · obtain ⟨-, -, ho, -, hrb, -, hevents⟩ := sampled_reads s k c
    have hexec := tamperSample_of_normal (c := c) (r := r) hk hnormal
    rw [teNormal_eq, ho, if_pos hbeyond, teOf_sampled, if_pos (by dsimp only; omega)] at hexec
    have hframe := (execTamperSample_keeps (closed_sameBut 0xa7a00001208 s rfl) k c r s (SameBut.refl _ s)).of _ hexec
    obtain ⟨hte, hcount⟩ := changed_recorded (s := sampled s k c) (k := k) (f := fun x =>
      { x with state := .occluded, occRun := 0, since := (sampled s k c).now, clearRun := 0, clearSum := 0, persist := 0 })
      ((hrb _ _).trans hwake) 2 k (256 * (c : Int) - (teOf s k).base) 0
    refine ⟨_, hexec, hframe, ?_, ?_, hcount.trans (by rw [hevents])⟩
    · rw [hte]
    · rw [hte, teOf_sampled]
  · obtain ⟨-, -, -, hc, -, -, hevents⟩ := sampled_reads s k c
    have hexec := tamperSample_of_occluded (c := c) (r := r) hk hoccluded
    obtain ⟨hstate, hbase, hcount⟩ := teOccludedSample_clears (s := sampled s k c) (k := k) (d := 256 * (c : Int) - (teOf s k).base)
      (by rw [hc]; exact hwithin) (by rw [teOf_sampled]; exact hrun) (by rw [teOf_sampled]; exact hoccluded)
    rw [teOf_sampled] at hbase
    rw [hevents] at hcount
    exact ⟨_, hexec, (execTamperSample_keeps (closed_sameBut 0xa7a00001208 s rfl) k c r s (SameBut.refl _ s)).of _ hexec, hstate, hbase,
      hcount, (execTamperSample_keeps ((closed_mem s).sub (by decide)) k c r s rfl).of _ hexec⟩
  · rw [exec_persistentOcclusion, execPersistentOcclusion, onUnit_of (decide_eq_true hk)]
    dsimp only
    rw [hnot]
    rfl
  · have hexec := exec_persistentOcclusion k s
    rw [execPersistentOcclusion, onUnit_of (decide_eq_true hk)] at hexec
    dsimp only at hexec
    rw [hocc, Bool.not_true, if_neg Bool.false_ne_true] at hexec
    obtain ⟨hte, hcount⟩ := recorded_spec s k (fun x => { x with persist := x.persist + 1 }) 4 k (256 * ((teOf s k).c : Int) - (teOf s k).base)
      (teSeconds s (teOf s k))
    exact ⟨_, hexec, (execPersistentOcclusion_keeps (closed_sameBut 0x4200000000 s rfl) k s (SameBut.refl _ s)).of _ hexec, hte, hcount⟩
  · have hexec := exec_tamperFault k s
    rw [execTamperFault, onUnit_of (decide_eq_true hk), if_neg (by simp [hoff, hfault])] at hexec
    refine ⟨_, hexec, (execTamperFault_keeps (closed_sameBut 0x24200000000 s rfl) k s (SameBut.refl _ s)).of _ hexec, ?_, ?_⟩
    · rw [teOf_raise]
      exact teOf_teToFault hoff
    · rw [teOf_raise]
      exact teOf_teToFault_other hk s
  · have hexec := exec_shieldFault s
    have hsome : ((teOf s 0).state == .off && (teOf s 1).state == .off) = false := by
      obtain rfl | rfl : k = 0 ∨ k = 1 := by omega
      · rw [beq_eq_false_iff_ne.mpr hoff, Bool.false_and]
      · rw [beq_eq_false_iff_ne.mpr hoff, Bool.and_false]
    rw [execShieldFault, hsome, if_neg Bool.false_ne_true] at hexec
    refine ⟨_, hexec, (execShieldFault_keeps (closed_sameBut 0x24200000000 s rfl) s (SameBut.refl _ s)).of _ hexec, ?_, ?_⟩
    · rw [raise_tamper, teToFault_shield, teToFault_shield]
      rfl
    · rw [teOf_raise]
      obtain rfl | rfl : k = 0 ∨ k = 1 := by omega
      · rw [teOf_teToFault_other (e := 1) (by decide) (teToFault (modTmp s fun t => { t with shield := true }) 0)]
        exact teOf_teToFault hoff
      · refine teOf_teToFault ?_
        rw [teOf_teToFault_other (e := 0) (by decide) (modTmp s fun t => { t with shield := true })]
        exact hoff
  · have hready : ((teOf s 0).state == .normal || teIsOccluded (teOf s 0)) = true := by
      unfold teIsOccluded
      rcases hstate with h | h | h
      · rw [show (teOf s 0).state = .occluded from h]; rfl
      · rw [show (teOf s 0).state = .occludedAtStart from h]; rfl
      · rw [show (teOf s 0).state = .normal from h]; rfl
    have hexec : exec (.tamperRebaseline .bcp v) s = .next (teRebaseline s 0) := by
      rw [exec_tamperRebaseline, tmpCmdReg, hkey]
      simp only [List.foldl_cons, List.foldl_nil, h0, h1]
      rfl
    obtain ⟨hnormal, hbase, hcount, hother⟩ := teRebaseline_tamper (s := s) (e := 0) hready
    exact ⟨_, hexec, (execTamperRebaseline_keeps (closed_sameBut 0x4200000200 s rfl) .bcp v s (SameBut.refl _ s)).of _ hexec, hnormal,
      hbase, hother (by decide), hcount, (execTamperRebaseline_keeps ((closed_regs s).sub (by decide)) .bcp v s rfl).of _ hexec⟩
  · rw [exec_i2cControllerXfer, i2cXferReg, if_pos (bne_iff_ne.mpr hpath)]
    rfl
  · rw [exec_i2cControllerXfer, i2cXferReg, if_neg (by decide), if_pos (bne_iff_ne.mpr hkey)]
    rfl
  · rw [exec_i2cControllerXfer, i2cXferReg_of_busy hkey hbusy]
    rfl
  · rw [exec_i2cControllerXfer, i2cXferReg_of_ready hkey hlen hwrite hon hfree, if_pos (beq_iff_eq.mpr hown)]
    rfl
  · rw [exec_i2cControllerXfer, i2cXferReg_of_ready hkey hlen hwrite hon hfree, if_neg (by simpa using hother)]
    rfl
  · rw [exec_i2cControllerXfer, i2cXferReg_of_ready hkey hlen hwrite hon hfree, if_neg (by simpa using hother), if_pos rfl]
    unfold i2cAttempt i2cXferOf
    dsimp only
    rw [hwrite]
    rfl
  · rw [exec_i2cBusFree, execI2cBusFree, exec_i2cArbRetry, execI2cArbRetry, hx]
    dsimp only
    rw [hwaiting, if_pos rfl, Bool.not_true, Bool.and_false, if_neg Bool.false_ne_true]
    exact ⟨rfl, rfl⟩
  · rw [exec_i2cBusFree, execI2cBusFree, hx]
    dsimp only
    rw [hwaiting, if_neg Bool.false_ne_true]
  · have hexec := i2cArbRetry_of_lost hx hwaiting hsome (.lost b o)
    have hbus := i2cAttempt_lost s x b o
    rw [if_neg (by omega)] at hbus
    refine ⟨_, hexec, (execI2cArbRetry_keeps (closed_sameBut 0x28200000200 s rfl) _ s (SameBut.refl _ s)).of _ hexec, ?_, ?_⟩
    · rw [hbus]
    · rw [hbus]
  · have hexec := i2cArbRetry_of_lost hx hwaiting (by omega) (.lost b o)
    have hbus := i2cAttempt_lost s x b o
    rw [if_pos (by omega), hthree] at hbus
    refine ⟨_, hexec, (execI2cArbRetry_keeps (closed_sameBut 0x28200000200 s rfl) _ s (SameBut.refl _ s)).of _ hexec, ?_, ?_, ?_⟩
    · rw [hbus]
    · rw [hbus]
    · rw [hbus]
  · have hexec := exec_i2cBusStuck true s
    rw [execI2cBusStuck, hx] at hexec
    exact ⟨_, hexec, (execI2cBusStuck_keeps (closed_sameBut 0x28200000200 s rfl) _ s (SameBut.refl _ s)).of _ hexec, raise_bus .., raise_out ..⟩
  · have hexec := exec_i2cBusStuck false s
    rw [execI2cBusStuck, hx] at hexec
    refine ⟨_, hexec, (execI2cBusStuck_keeps (closed_sameBut 0x28200000200 s rfl) _ s (SameBut.refl _ s)).of _ hexec, ?_⟩
    exact congrArg (fun y : BusSt => { y with xfer := none, result := 4, lastLosses := x.losses }) (raise_bus ..)
  · rw [exec_i2cBusFree, execI2cBusFree, exec_i2cArbRetry, execI2cArbRetry, hnone]
    exact ⟨rfl, rfl⟩
  · have hexec : exec (.gpioEdge k up) s = .next (pinMoved s k up) := by
      rw [exec_gpioEdge, execGpioEdge, onUnit_of (decide_eq_true hk)]
      dsimp only
      rw [hsleep, if_neg Bool.false_ne_true]
      rcases hnot with h | h
      · rw [h]; rfl
      · rw [h]; exact congrArg Host.Outcome.next (ite_self _)
    exact ⟨_, hexec, rfl, gpioIn_after hk s.bus.gpioIn up⟩
  · have hexec : exec (.gpioEdge k up) s = .next (edgeStored (pinMoved s k up) k) := by
      rw [exec_gpioEdge, execGpioEdge, onUnit_of (decide_eq_true hk)]
      dsimp only
      rw [hsleep, if_neg Bool.false_ne_true, hinput, hmatch]
      rfl
    refine ⟨_, hexec, rfl, ?_, rfl, rfl⟩
    exact (nbit_eq_getLsbD ..).trans ((BitVec.getLsbD_or ..).trans (by rw [getLsbD_pin hk, Bool.or_true]))
  · have hnone : decide (k < 8) = false := decide_eq_false (Nat.not_lt.mpr hk)
    have hnone2 : decide (k < 2) = false := decide_eq_false (by omega)
    rw [exec_gpioEdge, execGpioEdge, exec_tamperSample, execTamperSample, exec_persistentOcclusion, execPersistentOcclusion,
      exec_tamperFault, execTamperFault, hnone, hnone2]
    exact ⟨rfl, rfl, rfl, rfl⟩
  · rw [exec_pmAlert, execPmAlert, hon, Bool.not_true, if_neg Bool.false_ne_true]
    dsimp only
    rw [if_neg Bool.false_ne_true,
      pmWorks_of_good (s := modBus (modBus s fun b => { b with pmAlert := true }) fun b => { b with pmStatus := st % 65536, pmAlert := false }) hgood]
    rw [h14, h11, Bool.false_and, if_neg Bool.false_ne_true, if_neg Bool.false_ne_true]
    by_cases hzero : st % 65536 = 0
    · rw [if_pos (beq_iff_eq.mpr hzero), if_pos hzero]
      rfl
    · rw [if_neg (by simpa using hzero), if_neg hzero]
      rfl
  · have hexec : exec (.pmAlert st false) s = .next (pmFails (modBus s fun b => { b with pmAlert := true })) := by
      rw [exec_pmAlert, execPmAlert, hon]
      rfl
    obtain ⟨hbus, hbad⟩ := pmFails_spec (s := modBus s fun b => { b with pmAlert := true }) hgood
    exact ⟨_, hexec, hbus, hbad⟩
  · obtain ⟨t, hexec, hframe, hvout, hiout, hpout, henergy⟩ := telemetry_taken hon hgood hsent v i p
    exact ⟨t, hexec, hframe, hvout, hiout, hpout, henergy⟩
  · rw [exec_pmAlert, execPmAlert, exec_vcoreTelemetry, execVcoreTelemetry, hoff]
    exact ⟨rfl, rfl⟩

end Sys2Proof.Proofs
end

section
/-! PROOF. The trouble log's intake and its writer (R616 to R621). -/
namespace Sys2Proof.Proofs
open Sys2Proof Sys2Proof.Machine Sys2Proof.Laws

theorem exec_logEvent (e : Event) (s : State) : exec (.logEvent e) s = onUnit (fitted s e.die) (logArrive s e) := rfl
theorem exec_logWrite (s : State) : exec .logWrite s = .next (logWriteOne s) := rfl
theorem exec_event (r : LinkRx) (s : State) : exec (.event r) s = onParcel s r 0 0xA fun s x => takeForwarded s (eventOf x.payload) := rfl

/-! ### The intake of a full queue (R619) -/

/-- The events that a gap, if one is open, stands for. -/
def gapCount (g : Option Gap) : Nat := (g.map (·.count)).getD 0

theorem gapCount_extendGap (g : Option Gap) (n : Nat) (t : DWord) : gapCount (some (extendGap g n t)) = gapCount g + n := by
  cases g with
  | none => exact (Nat.zero_add n).symm
  | some g => rfl

theorem repSum_dropLast_append {q : List Event} {x : Event} (h : q.getLast? = some x) (y : Event) :
    repSum (q.dropLast ++ [y]) + x.rep = repSum q + y.rep := by
  obtain ⟨ys, rfl⟩ := List.getLast?_eq_some_iff.mp h
  simp only [repSum, List.dropLast_concat, List.map_append, List.sum_append, List.map_cons, List.map_nil, List.sum_cons, List.sum_nil]
  omega

/-- What a full queue does not take stands in the gap. -/
theorem gapCount_coalesce (q : List Event) (g : Option Gap) (e : Event) :
    gapCount (coalesce q g e).2.1 = gapCount g + (coalesce q g e).2.2 := by
  unfold coalesce
  split
  · split
    · dsimp only
      split
      · next hleft => rw [eq_of_beq hleft]; rfl
      · exact gapCount_extendGap ..
    · exact gapCount_extendGap ..
  · exact gapCount_extendGap ..

/-- Each event that arrives stands in an entry or is left for the gap. -/
theorem repSum_coalesce (q : List Event) (g : Option Gap) (e : Event) :
    repSum (coalesce q g e).1 + (coalesce q g e).2.2 = repSum q + e.rep := by
  unfold coalesce
  split
  · next x hx =>
    split
    · have hsum := repSum_dropLast_append hx { x with rep := min 65535 (x.rep + e.rep), coalesced := true }
      dsimp only at hsum ⊢
      omega
    · rfl
  · rfl

/-! ### The indices (R620) -/

theorem toNat_toWord_of_lt {n : Nat} (h : n < 2 ^ 32) : (toWord n).toNat = n := by
  rw [toWord, BitVec.toNat_ofNat]
  exact Nat.mod_eq_of_lt h

theorem total_sub_oldest_toNat (l : LogSt) : (l.total - l.oldest).toNat = min (l.total - l.base).toNat 4096 := by
  have hsub : l.total - l.oldest = toWord (min (l.total - l.base).toNat 4096) := by
    unfold LogSt.oldest
    exact sub_sub_cancel _ _
  rw [hsub]
  exact toNat_toWord_of_lt (by omega)

/-- The next index is not held yet. -/
theorem held_total (l : LogSt) : l.held l.total = false := by
  unfold LogSt.held
  rw [BitVec.sub_self]
  rfl

/-- The last record written is held unless the log was cleared after it. -/
theorem held_last {l : LogSt} (h : l.total ≠ l.base) : l.held (l.total - 1) = true := by
  have hpos : 0 < (l.total - l.base).toNat := by
    refine Nat.pos_of_ne_zero fun h0 => h ?_
    exact sub_eq_zero.mp (BitVec.eq_of_toNat_eq h0)
  have hone : (l.total - (l.total - 1)).toNat = 1 := by
    rw [sub_sub_cancel]
    rfl
  unfold LogSt.held
  dsimp only
  rw [total_sub_oldest_toNat, hone, Bool.and_eq_true, decide_eq_true_eq, decide_eq_true_eq]
  exact ⟨le_rfl, by omega⟩

theorem writeRecord_ring_length (l : LogSt) (e : Event) : (writeRecord l e).ring.length ≤ 4096 := by
  unfold writeRecord
  exact List.length_take_le ..

/-! ### An event arrives (R618, R619, R621) -/

section Arrive
variable {s : State} {e : Event}

theorem logArrive_of_frozen (h : s.log.frozen = true) :
    logArrive s e = { s with log := { s.log with frozenDrop := satAdd 0xFFFFFFFF s.log.frozenDrop e.rep } } := by
  unfold logArrive
  exact if_pos h

variable (hfrozen : s.log.frozen = false)
include hfrozen

theorem logArrive_of_low (hcode : e.code ≠ Code.logLost) (hsev : e.sev < rf s 0x000E0000 2 1) :
    logArrive s e = { s with log := { s.log with filtered := satAdd 0xFFFFFFFF s.log.filtered e.rep } } := by
  unfold logArrive
  refine (if_neg (by simp [hfrozen])).trans (if_pos ?_)
  change (e.code != Code.logLost && decide (e.sev < rf s 0x000E0000 2 1)) = true
  rw [bne_iff_ne.mpr hcode, decide_eq_true hsev]
  rfl

variable (htaken : e.code = Code.logLost ∨ rf s 0x000E0000 2 1 ≤ e.sev)
include htaken

/-- LOG_LOST, and any event that is not below MIN_SEV, goes to a queue. -/
theorem logArrive_of_taken : logArrive s e =
    if (e.sev == 3 && decide (s.log.fatal.length < 4)) = true then { s with log := { s.log with fatal := s.log.fatal ++ [stamp s e] } }
    else if s.log.intake.length < 16 then { s with log := { s.log with intake := s.log.intake ++ [stamp s e] } }
    else { s with log := { s.log with
            intake := (coalesce s.log.intake s.log.gap (stamp s e)).1
            gap := (coalesce s.log.intake s.log.gap (stamp s e)).2.1
            dropped := satAdd 0xFFFFFFFF s.log.dropped (coalesce s.log.intake s.log.gap (stamp s e)).2.2 } } := by
  have hpass : ¬ (e.code != Code.logLost && decide (e.sev < rf s 0x000E0000 2 1)) = true := by
    rw [Bool.and_eq_true, bne_iff_ne, decide_eq_true_eq, not_and, not_lt]
    exact fun hne => htaken.resolve_left hne
  unfold logArrive
  exact (if_neg (by simp [hfrozen])).trans (if_neg hpass)

theorem logArrive_of_fatal (hsev : e.sev = 3) (hroom : s.log.fatal.length < 4) :
    logArrive s e = { s with log := { s.log with fatal := s.log.fatal ++ [stamp s e] } } := by
  rw [logArrive_of_taken hfrozen htaken]
  exact if_pos (by rw [hsev, decide_eq_true hroom]; rfl)

variable (hsev : e.sev ≠ 3)
include hsev

theorem logArrive_of_room (hroom : s.log.intake.length < 16) :
    logArrive s e = { s with log := { s.log with intake := s.log.intake ++ [stamp s e] } } := by
  rw [logArrive_of_taken hfrozen htaken, if_neg (by rw [beq_false_of_ne hsev]; exact Bool.false_ne_true), if_pos hroom]

theorem logArrive_of_full (hfull : 16 ≤ s.log.intake.length) :
    logArrive s e = { s with log := { s.log with
            intake := (coalesce s.log.intake s.log.gap (stamp s e)).1
            gap := (coalesce s.log.intake s.log.gap (stamp s e)).2.1
            dropped := satAdd 0xFFFFFFFF s.log.dropped (coalesce s.log.intake s.log.gap (stamp s e)).2.2 } } := by
  rw [logArrive_of_taken hfrozen htaken, if_neg (by rw [beq_false_of_ne hsev]; exact Bool.false_ne_true), if_neg (not_lt.mpr hfull)]

end Arrive

/-! ### The writer (R618, R621) -/

theorem countDown_of_none {l : LogSt} (h : l.post = none) : { l with post := l.post.map (· - 1) } = l := by
  cases l
  subst h
  rfl

/-- An entry that is no LOG_FROZEN, with no freeze under way, is written with the next index. -/
theorem logPut_of_plain {s : State} {e : Event} (hsev : e.sev ≠ 3) (hcode : e.code ≠ Code.logFrozen) (hpost : s.log.post = none) :
    logPut s e = ({ s with log := writeRecord s.log e }, false) := by
  unfold logPut
  dsimp only
  rw [beq_false_of_ne hsev, Bool.false_and, Bool.false_and, Bool.false_and, if_neg Bool.false_ne_true, if_neg Bool.false_ne_true,
    beq_false_of_ne hcode, Bool.false_and, Bool.false_and, if_neg Bool.false_ne_true]
  rw [countDown_of_none (l := writeRecord s.log e) hpost]
  refine (if_neg ?_).trans rfl
  change ¬ (s.log.post == some 0) = true
  rw [hpost]
  exact Bool.false_ne_true

/-- A fatal record with FREEZE_EN begins the count of the records that may still follow. -/
theorem logPut_of_freezing {s : State} {e : Event} (hsev : e.sev = 3) (hcode : e.code ≠ Code.logFrozen) (hpost : s.log.post = none)
    (hfrozen : s.log.frozen = false) (hen : rb s 0x000E0000 0 = true) (hcount : rf s 0x000E0000 15 8 ≠ 0) :
    logPut s e = ({ s with log := { writeRecord s.log { e with freeze := true } with
      freezeIdx := s.log.total, post := some (rf s 0x000E0000 15 8) } }, false) := by
  have hfz : (e.sev == 3 && s.log.post.isNone && !s.log.frozen && rb s 0x000E0000 0) = true := by
    rw [hsev, hpost, hfrozen, hen]
    rfl
  unfold logPut
  dsimp only
  rw [hfz, if_pos rfl, if_pos rfl, beq_false_of_ne hcode, Bool.false_and, Bool.false_and, if_neg Bool.false_ne_true]
  refine (if_neg ?_).trans rfl
  rw [beq_iff_eq, Option.some_inj]
  exact hcount

/-- A step of the writer that takes an entry writes it; a freeze that it completes is also told. -/
theorem logWriteOne_of_quiet {s s1 t : State} {e : Event} (htake : logTake s = some (e, s1)) (hput : logPut s1 e = (t, false)) :
    logWriteOne s = t := by
  unfold logWriteOne
  rw [htake]
  dsimp only
  rw [hput]
  rfl

theorem logWriteOne_of_none {s : State} (h : logTake s = none) : logWriteOne s = s := by
  unfold logWriteOne
  rw [h]

section Take
variable {s : State} (hspecial : s.log.special = [])
include hspecial

theorem logTake_of_idle (h : s.log.frozen = true ∨ s.log.fatal = [] ∧ s.log.intake = []) : logTake s = none := by
  unfold logTake
  rw [hspecial]
  dsimp only
  obtain hfrozen | ⟨hfatal, hintake⟩ := h
  · exact if_pos hfrozen
  · split
    · rfl
    · rw [hfatal, hintake]

variable (hfrozen : s.log.frozen = false)
include hfrozen

theorem logTake_of_fatal {e : Event} {es : List Event} (hfatal : s.log.fatal = e :: es) :
    logTake s = some (e, { s with log := { s.log with fatal := es } }) := by
  unfold logTake
  rw [hspecial]
  dsimp only
  rw [if_neg (by simp [hfrozen]), hfatal]
  rfl

variable {e : Event} {es : List Event} (hfatal : s.log.fatal = []) (hintake : s.log.intake = e :: es)
include hfatal hintake

theorem logTake_of_intake (hgap : s.log.gap = none) : logTake s = some (e, { s with log := { s.log with intake := es } }) := by
  unfold logTake
  rw [hspecial]
  dsimp only
  rw [if_neg (by simp [hfrozen]), hfatal, hintake]
  dsimp only [modLog]
  rw [hgap, hfatal]

theorem logTake_of_gap {g : Gap} (hgap : s.log.gap = some g) :
    logTake s = some (e, { s with log := { s.log with intake := es ++ [lostOf g (!timeValid s)], gap := none } }) := by
  unfold logTake
  rw [hspecial]
  dsimp only
  rw [if_neg (by simp [hfrozen]), hfatal, hintake]
  dsimp only [modLog]
  rw [hgap, hfatal]

end Take

/-! ### Events of other dies (R617) -/

theorem takeForwarded_of_quiet {s : State} {e : Event} (h : e.health = false) :
    takeForwarded s e = logArrive s { e with fwd := true } := by
  unfold takeForwarded
  dsimp only
  rw [h, if_neg Bool.false_ne_true]

/-- Settles O58: the intake and the writer, clause by clause. -/
theorem troubleLogIntakeAndWriter : Obligations.TroubleLogIntakeAndWriter := by
  unfold Obligations.TroubleLogIntakeAndWriter
  refine ⟨?_, ?_, ?_, ?_, ?_, ?_, ?_⟩
  · intro q g e
    have hgap := gapCount_coalesce q g e
    have hsum := repSum_coalesce q g e
    unfold gapCount at hgap
    exact ⟨by omega, hgap, coalesce_length q g e⟩
  · intro l
    exact ⟨total_sub_oldest_toNat l, held_total l, held_last, fun _ e => writeRecord_ring_length l e⟩
  · intro e s hfit
    rw [exec_logEvent, onUnit_of hfit]
    refine ⟨fun h => congrArg _ (logArrive_of_frozen h), fun h hc hs => congrArg _ (logArrive_of_low h hc hs),
      fun h ht hs hr => congrArg _ (logArrive_of_fatal h ht hs hr),
      fun h ht hs hr => congrArg _ (logArrive_of_room h ht hs hr),
      fun h ht hs hr => congrArg _ (logArrive_of_full h ht hs hr)⟩
  · intro s hspecial hidle
    rw [exec_logWrite, logWriteOne_of_none (logTake_of_idle hspecial hidle)]
  · intro e es s hspecial hfrozen hfatal hintake hsev hcode hpost
    rw [exec_logWrite]
    refine ⟨fun hgap => ?_, fun g hgap => ?_⟩
    · rw [logWriteOne_of_quiet (logTake_of_intake hspecial hfrozen hfatal hintake hgap) (logPut_of_plain hsev hcode hpost)]
      rfl
    · rw [logWriteOne_of_quiet (logTake_of_gap hspecial hfrozen hfatal hintake hgap) (logPut_of_plain hsev hcode hpost)]
      exact ⟨_, rfl, rfl, rfl, rfl, rfl, rfl⟩
  · intro e es s hspecial hfrozen hfatal hsev hcode hpost hen hcount
    rw [exec_logWrite, logWriteOne_of_quiet (logTake_of_fatal hspecial hfrozen hfatal)
      (logPut_of_freezing hsev hcode hpost hfrozen hen hcount)]
    rfl
  · intro r x s s1 hport hrecv hvc hkind
    refine ⟨?_, takeForwarded_of_quiet⟩
    rw [exec_event, onParcel, onUnit_of hport, hrecv]
    dsimp only
    rw [hvc, hkind]
    rfl

end Sys2Proof.Proofs
end

section
/-! PROOF. The commands of the trouble log and its reads by path (R620, R621, R622, R625, R627, R629). -/
namespace Sys2Proof.Proofs
open Sys2Proof Sys2Proof.Machine Sys2Proof.Laws

theorem exec_logCmdClear (p : Path) (v : Word) (s : State) :
    exec (.logCmdClear p v) s = .next (answerWrite p 0x000E0020 (logCmdWrite s p (v &&& 0xFFFFFFFC ||| 1))) := rfl
theorem exec_logCmdUnfreeze (p : Path) (v : Word) (s : State) :
    exec (.logCmdUnfreeze p v) s = .next (answerWrite p 0x000E0020 (logCmdWrite s p (v &&& 0xFFFFFFFC ||| 2))) := rfl
theorem exec_logRdDataRead (p : Path) (w : Nat) (ecc : Bool) (s : State) : exec (.logRdDataRead p w ecc) s =
    onUnit (decide (w < 8)) (answer (logRdData s p w ecc).2 p (0x000E0040 + 4 * w) .ok (logRdData s p w ecc).1) := rfl
theorem exec_logWriterWatchdog (s : State) : exec .logWriterWatchdog s = execLogWriterWatchdog s := rfl

/-! ### LOG_CMD (Table 20.7) -/

theorem wbits_eq_extractLsb' (v : Word) (hi lo : Nat) : wbits v hi lo = (v.extractLsb' lo (hi - lo + 1)).toNat := by
  rw [BitVec.extractLsb'_toNat, Nat.shiftRight_eq_div_pow]
  rfl

/-- The key of a write does not depend on its OP. -/
theorem wbits_key_of_op (v : Word) {op : Word} (h : op = 1 ∨ op = 2) : wbits (v &&& 0xFFFFFFFC ||| op) 31 16 = wbits v 31 16 := by
  rw [wbits_eq_extractLsb', wbits_eq_extractLsb']
  refine congrArg BitVec.toNat (BitVec.eq_of_getElem_eq fun i hi => ?_)
  rw [BitVec.getElem_extractLsb', BitVec.getElem_extractLsb', BitVec.getLsbD_or, BitVec.getLsbD_and]
  rcases h with rfl | rfl
  all_goals
    change i < 16 at hi
    interval_cases i <;> simp

theorem wbits_op (v : Word) {op : Word} (h : op = 1 ∨ op = 2) : wbits (v &&& 0xFFFFFFFC ||| op) 1 0 = op.toNat := by
  have hop : (v &&& 0xFFFFFFFC ||| op).extractLsb' 0 2 = op.extractLsb' 0 2 := by
    refine BitVec.eq_of_getElem_eq fun i hi => ?_
    rw [BitVec.getElem_extractLsb', BitVec.getElem_extractLsb', BitVec.getLsbD_or, BitVec.getLsbD_and]
    interval_cases i <;> simp
  rw [wbits_eq_extractLsb', hop]
  rcases h with rfl | rfl <;> rfl

section Command
variable {s : State} {p : Path} {v : Word}

theorem logCmdWrite_of_path (h : logPathOk s p = false) : logCmdWrite s p v = (s, .path) := by
  unfold logCmdWrite
  rw [h]
  rfl

variable (hpath : logPathOk s p = true)
include hpath

theorem logCmdWrite_of_key (hkey : wbits v 31 16 ≠ 0x10C6) : logCmdWrite s p v = (s, .ok) := by
  unfold logCmdWrite
  rw [hpath, if_neg (by decide), if_pos (bne_iff_ne.mpr hkey)]

theorem logCmdWrite_unfreeze_of_running (hop : wbits v 1 0 = 2) (hfrozen : s.log.frozen = false) : logCmdWrite s p v = (s, .ok) := by
  unfold logCmdWrite
  rw [hpath, hop, hfrozen, if_neg (by decide)]
  exact ite_self _

variable (hkey : wbits v 31 16 = 0x10C6)
include hkey

theorem logCmdWrite_clear (hop : wbits v 1 0 = 1) : logCmdWrite s p v = (logClearNow s, .ok) := by
  unfold logCmdWrite
  rw [hpath, hkey, hop]
  rfl

theorem logCmdWrite_unfreeze (hop : wbits v 1 0 = 2) (hfrozen : s.log.frozen = true) : logCmdWrite s p v = (logUnfreezeNow s, .ok) := by
  unfold logCmdWrite
  rw [hpath, hkey, hop, hfrozen]
  rfl

end Command

/-- With the base at TOTAL nothing is held, and OLDEST is TOTAL. -/
theorem oldest_of_base {l : LogSt} (h : l.base = l.total) : l.oldest = l.total := by
  unfold LogSt.oldest
  rw [h, BitVec.sub_self]
  exact BitVec.sub_zero _

/-! ### LOG_RD_DATA (R622) -/

section Read
variable (s : State) (p : Path) (ecc : Bool)

theorem logRdData_first : logRdData s p 0 ecc =
    (((logSnap s (vget s.logRd p.idx).idx ecc).map fun r => toWord (leAt r.toBytes 0 4)).getD 0,
      { s with logRd := s.logRd.setIfInBounds p.idx { vget s.logRd p.idx with snap := logSnap s (vget s.logRd p.idx).idx ecc } }) := by
  unfold logRdData
  dsimp only
  rw [if_pos (show (0 == 0) = true from rfl), if_neg (show ¬ (0 == 7) = true by decide)]
  dsimp only
  cases logSnap s (vget s.logRd p.idx).idx ecc <;> rfl

theorem logRdData_last_state : (logRdData s p 7 ecc).2 =
    { s with logRd := s.logRd.setIfInBounds p.idx { vget s.logRd p.idx with idx := (vget s.logRd p.idx).idx + 1 } } := rfl

variable {s}

theorem logSnap_of_held {i : Word} {r : LogRecord} (h : s.log.find i = some r) : logSnap s i false = some r := by
  unfold logSnap
  rw [h]
  rfl

theorem logSnap_of_not_held {i : Word} (h : s.log.find i = none) : logSnap s i ecc = none := by
  unfold logSnap
  rw [h]

end Read

/-- Settles O59: the commands of the log, its reads by path and its watchdog. -/
theorem troubleLogCommandsAndReads : Obligations.TroubleLogCommandsAndReads := by
  unfold Obligations.TroubleLogCommandsAndReads
  have hkeyClear (v : Word) := wbits_key_of_op v (Or.inl rfl)
  have hkeyUnfreeze (v : Word) := wbits_key_of_op v (Or.inr rfl)
  have hopClear (v : Word) : wbits (v &&& 0xFFFFFFFC ||| 1) 1 0 = 1 := wbits_op v (Or.inl rfl)
  have hopUnfreeze (v : Word) : wbits (v &&& 0xFFFFFFFC ||| 2) 1 0 = 2 := wbits_op v (Or.inr rfl)
  refine ⟨?_, ?_, ?_, ?_, ?_, ?_⟩
  · intro p v s
    rw [exec_logCmdClear, exec_logCmdUnfreeze]
    refine ⟨fun hpath => ?_, fun hpath hkey => ?_, fun hpath hfrozen => ?_⟩
    · rw [logCmdWrite_of_path hpath, logCmdWrite_of_path hpath]
      exact ⟨rfl, rfl⟩
    · rw [logCmdWrite_of_key hpath ((hkeyClear v).trans_ne hkey), logCmdWrite_of_key hpath ((hkeyUnfreeze v).trans_ne hkey)]
      exact ⟨rfl, rfl⟩
    · rw [logCmdWrite_unfreeze_of_running hpath (hopUnfreeze v) hfrozen]
      rfl
  · intro p v s hpath hkey
    rw [exec_logCmdClear, logCmdWrite_clear hpath ((hkeyClear v).trans hkey) (hopClear v)]
    exact ⟨_, _, rfl, rfl, rfl, rfl, oldest_of_base rfl⟩
  · intro p v s hpath hkey hfrozen
    rw [exec_logCmdUnfreeze, logCmdWrite_unfreeze hpath ((hkeyUnfreeze v).trans hkey) (hopUnfreeze v) hfrozen]
    exact ⟨_, _, rfl, rfl, rfl, rfl⟩
  · intro p i r ecc s hidx
    subst hidx
    refine ⟨fun hfind => ?_, fun hfind => ?_, ?_⟩
    · rw [exec_logRdDataRead, logRdData_first, logSnap_of_held hfind]
      rfl
    · rw [exec_logRdDataRead, logRdData_first, logSnap_of_not_held ecc hfind]
      rfl
    · rw [exec_logRdDataRead, logRdData_last_state]
      exact ⟨_, rfl⟩
  · intro p w ecc s hw
    rw [exec_logRdDataRead, decide_eq_false (by omega)]
    rfl
  · intro s hfrozen
    rw [exec_logWriterWatchdog, execLogWriterWatchdog]
    dsimp only
    rw [if_neg (show ¬ (s.log.frozen && s.log.special.isEmpty) = true by rw [hfrozen]; exact Bool.false_ne_true)]
    exact ⟨_, _, rfl, rfl, rfl, rfl⟩

end Sys2Proof.Proofs
end

section
/-! PROOF. The check contexts (R607 to R612, R627, R629). -/
namespace Sys2Proof.Proofs
open Sys2Proof Sys2Proof.Machine Sys2Proof.Laws

theorem exec_cvStart (p : Path) (k : Nat) (v : Word) (s : State) : exec (.cvStart p k v) s =
    onUnit (decide (k < 4)) (answerWrite p (cvBase k) (cvCtrlWrite s p k (v ||| 0x10))) := rfl
theorem exec_cvDmaGo (p : Path) (k : Nat) (v : Word) (s : State) : exec (.cvDmaGo p k v) s =
    onUnit (decide (k < 4)) (answerWrite p (cvBase k) (cvCtrlWrite s p k (v ||| 0x40))) := rfl
theorem exec_cvFinish (p : Path) (k : Nat) (v : Word) (s : State) : exec (.cvFinish p k v) s =
    onUnit (decide (k < 4)) (answerWrite p (cvBase k) (cvCtrlWrite s p k (v ||| 0x20))) := rfl
theorem exec_cvDataWrite (p : Path) (k n : Nat) (v : Word) (s : State) : exec (.cvDataWrite p k n v) s =
    onUnit (decide (k < 4)) (answerWrite p (cvDataAddr k n) (cvDataWriteReg s p k (if n == 1 then 1 else if n == 2 then 2 else 4) v)) := rfl
theorem exec_cvStateWrite (p : Path) (k : Nat) (v : Word) (s : State) : exec (.cvStateWrite p k v) s =
    onUnit (decide (k < 4)) (answerWrite p (cvBase k + 0x08) (cvStateWriteReg s p k v)) := rfl
theorem exec_cvDmaDone (k : Nat) (ecc : Bool) (s : State) : exec (.cvDmaDone k ecc) s = onUnit (decide (k < 4)) (cvDmaEnd s k ecc) := rfl
theorem exec_checkEngineWatchdog (s : State) : exec .checkEngineWatchdog s = execCheckEngineWatchdog s := rfl

/-! ### The algorithms keep to their width -/

theorem iter_lt {f : Nat → Nat} {b : Nat} (hf : ∀ x, x < b → f x < b) : ∀ (n x : Nat), x < b → iter f n x < b
  | 0, _, h => h
  | n + 1, x, h => iter_lt hf n (f x) (hf x h)

theorem crcBitR_lt {poly v : Nat} (hpoly : poly < 2 ^ 32) (h : v < 2 ^ 32) : crcBitR poly v < 2 ^ 32 := by
  unfold crcBitR
  split
  · exact Nat.xor_lt_two_pow (by omega) hpoly
  · omega

theorem crcBit_lt {w poly v : Nat} (hpoly : poly < 2 ^ w) : crcBit w poly v < 2 ^ w := by
  have hmod : 2 * v % 2 ^ w < 2 ^ w := Nat.mod_lt _ (Nat.two_pow_pos w)
  unfold crcBit
  split
  · exact Nat.xor_lt_two_pow hmod hpoly
  · exact hmod

theorem crcByteR_lt {poly v : Nat} (hpoly : poly < 2 ^ 32) (h : v < 2 ^ 32) (b : Byte) : crcByteR poly v b < 2 ^ 32 :=
  iter_lt (fun _ => crcBitR_lt hpoly) _ _ (Nat.xor_lt_two_pow h (b.isLt.trans (by decide)))

theorem crcByte_lt {w poly v : Nat} (hw : 8 ≤ w) (hpoly : poly < 2 ^ w) (h : v < 2 ^ w) (b : Byte) : crcByte w poly v b < 2 ^ w := by
  refine iter_lt (fun _ _ => crcBit_lt hpoly) _ _ (Nat.xor_lt_two_pow h ?_)
  calc b.toNat * 2 ^ (w - 8) < 2 ^ 8 * 2 ^ (w - 8) := Nat.mul_lt_mul_of_pos_right b.isLt (Nat.two_pow_pos _)
    _ = 2 ^ w := by rw [← Nat.pow_add, Nat.add_sub_cancel' hw]

theorem crcFeed_lt {alg v : Nat} (h : v < 2 ^ crcWidth alg) (b : Byte) : crcFeed alg v b < 2 ^ crcWidth alg := by
  unfold crcFeed
  split
  · exact crcByteR_lt (by decide) h b
  · exact crcByteR_lt (by decide) h b
  · exact crcByte_lt (by decide) (by decide) h b
  · next h0 h1 h2 =>
    have hwidth : crcWidth alg = 8 := by
      unfold crcWidth
      split
      · exact absurd rfl h0
      · exact absurd rfl h1
      · exact absurd rfl h2
      · rfl
    rw [hwidth] at h ⊢
    exact crcByte_lt le_rfl (by decide) h b

theorem crcWidth_le (alg : Nat) : crcWidth alg ≤ 32 := by
  unfold crcWidth
  split <;> decide

/-- Bytes fed keep a running value within its width. -/
theorem foldl_crcFeed_lt {alg v : Nat} (h : v < 2 ^ crcWidth alg) (bs : List Byte) : bs.foldl (crcFeed alg) v < 2 ^ crcWidth alg :=
  List.foldlRecOn (motive := fun v => v < 2 ^ crcWidth alg) bs _ h fun _ hv b _ => crcFeed_lt hv b

theorem toNat_toWord_crc {alg v : Nat} (h : v < 2 ^ crcWidth alg) : (toWord v).toNat = v :=
  toNat_toWord_of_lt (h.trans_le (Nat.pow_le_pow_right (by decide) (crcWidth_le alg)))

/-! ### One context -/

/-- The context after bytes were fed (R608). -/
def fedCtx (x : CvCtx) (bs : List Byte) : CvCtx :=
  { x with value := toWord (bs.foldl (crcFeed x.alg) x.value.toNat), bytes := x.bytes + toWord bs.length }

theorem cvFeed_eq (s : State) (k : Nat) (bs : List Byte) : cvFeed s k bs = modCv s k fun x => fedCtx x bs := rfl

theorem fedCtx_append {x : CvCtx} (h : x.value.toNat < 2 ^ crcWidth x.alg) (a b : List Byte) :
    fedCtx (fedCtx x a) b = fedCtx x (a ++ b) := by
  have hvalue := toNat_toWord_crc (foldl_crcFeed_lt h a)
  unfold fedCtx
  dsimp only
  rw [hvalue, List.foldl_append, List.length_append, BitVec.add_assoc]
  congr 2
  exact (BitVec.ofNat_add ..).symm

theorem vget_modCv_same {k : Nat} (hk : k < 4) (s : State) (f : CvCtx → CvCtx) : vget (modCv s k f).cv k = f (vget s.cv k) := by
  exact (vget_vmod ..).trans (if_pos ⟨rfl, hk⟩)

theorem vget_modCv_of_ne {k j : Nat} (h : j ≠ k) (s : State) (f : CvCtx → CvCtx) : vget (modCv s k f).cv j = vget s.cv j :=
  (vget_vmod ..).trans (if_neg fun hkj => h hkj.1.symm)

theorem modCv_modCv {k : Nat} (hk : k < 4) (s : State) (f g : CvCtx → CvCtx) :
    modCv (modCv s k f) k g = modCv s k fun x => g (f x) := by
  have hget := vget_modCv_same hk s f
  unfold modCv vmod at hget ⊢
  dsimp only at hget ⊢
  rw [hget, Vector.setIfInBounds_setIfInBounds]

theorem cvFeed_cvFeed {k : Nat} (hk : k < 4) {s : State} (h : (vget s.cv k).value.toNat < 2 ^ crcWidth (vget s.cv k).alg) (a b : List Byte) :
    cvFeed (cvFeed s k a) k b = cvFeed s k (a ++ b) := by
  rw [cvFeed_eq, cvFeed_eq, modCv_modCv hk, cvFeed_eq]
  unfold modCv vmod
  dsimp only
  rw [fedCtx_append h]

/-! ### CV_CTRL, CV_DATA and CV_STATE (R608 to R611) -/

theorem wbit_or (v w : Word) (i : Nat) : wbit (v ||| w) i = (wbit v i || wbit w i) := by
  rw [wbit_eq_getLsbD, wbit_eq_getLsbD, wbit_eq_getLsbD, BitVec.getLsbD_or]

theorem wbit_or_of_set {v w : Word} {i : Nat} (h : wbit w i = true) : wbit (v ||| w) i = true := by
  rw [wbit_or, h, Bool.or_true]

theorem wbit_or_of_clear {v w : Word} {i : Nat} (hv : wbit v i = false) (hw : wbit w i = false) : wbit (v ||| w) i = false := by
  rw [wbit_or, hv, hw, Bool.or_false]

section Write
variable {s : State} {p : Path} {k : Nat} {v : Word}

theorem cvCtrlWrite_of_path (h : cvPathOk s p = false) : cvCtrlWrite s p k v = (s, .path) := by
  unfold cvCtrlWrite
  rw [h]
  rfl

theorem cvDataWriteReg_of_path (h : cvPathOk s p = false) (n : Nat) : cvDataWriteReg s p k n v = (s, .path) := by
  unfold cvDataWriteReg
  rw [h]
  rfl

theorem cvStateWriteReg_of_path (h : cvPathOk s p = false) : cvStateWriteReg s p k v = (s, .path) := by
  unfold cvStateWriteReg
  rw [h]
  rfl

theorem cvGate_of_unbound (h : (vget s.cv k).bound ≠ some p) : cvGate s p k = some (cvRefuse s k) := by
  unfold cvGate
  exact if_pos (bne_iff_ne.mpr h)

theorem cvGate_of_busy (h : (vget s.cv k).bound = some p) (hbusy : (vget s.cv k).busy = true) :
    cvGate s p k = some (raise s 0xA 0 Code.cvPath 1) := by
  unfold cvGate
  rw [if_neg (by simp [h]), if_pos hbusy]

theorem cvGate_of_idle (h : (vget s.cv k).bound = some p) (hbusy : (vget s.cv k).busy = false) : cvGate s p k = none := by
  unfold cvGate
  rw [if_neg (by simp [h]), if_neg (by simp [hbusy])]

variable (hpath : cvPathOk s p = true)
include hpath

theorem cvDataWriteReg_of_gate {t : State} (h : cvGate s p k = some t) (n : Nat) : cvDataWriteReg s p k n v = (t, .refused) := by
  unfold cvDataWriteReg
  rw [hpath, h]
  rfl

theorem cvStateWriteReg_of_gate {t : State} (h : cvGate s p k = some t) : cvStateWriteReg s p k v = (t, .refused) := by
  unfold cvStateWriteReg
  rw [hpath, h]
  rfl

theorem cvDataWriteReg_of_open (h : cvGate s p k = none) (n : Nat) : cvDataWriteReg s p k n v = (cvFeed s k (leBytes n v.toNat), .ok) := by
  unfold cvDataWriteReg
  rw [hpath, h]
  rfl

theorem cvStateWriteReg_of_open (h : cvGate s p k = none) : cvStateWriteReg s p k v =
    (modCv s k fun x => { x with value := toWord (v.toNat % 2 ^ crcWidth x.alg) }, .ok) := by
  unfold cvStateWriteReg
  rw [hpath, h]
  rfl

/-- A write that only starts stores the fields and binds the context. -/
theorem cvCtrlWrite_of_start (h4 : wbit v 4 = true) (h5 : wbit v 5 = false) (h6 : wbit v 6 = false) :
    cvCtrlWrite s p k v = (cvStartNow (rput s (cvBase k) (v &&& 0x8F)) p k, .ok) := by
  unfold cvCtrlWrite
  rw [hpath, h4, h5, h6]
  rfl

/-- A write that only begins a run, on the path bound. -/
theorem cvCtrlWrite_of_dma (hbound : (vget s.cv k).bound = some p) (h4 : wbit v 4 = false) (h5 : wbit v 5 = false) (h6 : wbit v 6 = true) :
    cvCtrlWrite s p k v = (cvDmaNow (rput s (cvBase k) (v &&& 0x8F)) k, .ok) := by
  unfold cvCtrlWrite
  rw [hpath, hbound, h4, h5, h6, bne_self_eq_false]
  rfl

/-- A write that only finishes. -/
theorem cvCtrlWrite_of_finish (h4 : wbit v 4 = false) (h5 : wbit v 5 = true) (h6 : wbit v 6 = false) :
    cvCtrlWrite s p k v = (cvFinishNow (rput s (cvBase k) (v &&& 0x8F)) k, .ok) := by
  unfold cvCtrlWrite
  rw [hpath, h4, h5, h6]
  rfl

end Write

/-! ### Runs (R610) -/

section Dma
variable {s : State} {k : Nat} (hbusy : (vget s.cv k).busy = false)
include hbusy

/-- A run whose source is misaligned, outside SVC SRAM or of no length does not start. -/
theorem cvDmaNow_of_bad
    (h : rnat s (cvBase k + 0x20) % 4 ≠ 0 ∨ rf s (cvBase k + 0x24) 22 0 = 0 ∨ rnat s (cvBase k + 0x20) < 0x00400000 ∨
      0x00800000 < rnat s (cvBase k + 0x20) + rf s (cvBase k + 0x24) 22 0) :
    cvDmaNow s k = modCv s k fun x => { x with dmaErr := true } := by
  unfold cvDmaNow
  dsimp only
  rw [if_neg (by simp [hbusy]), if_pos]
  simpa [or_assoc] using h

theorem cvDmaNow_of_good (halign : rnat s (cvBase k + 0x20) % 4 = 0) (hlen : rf s (cvBase k + 0x24) 22 0 ≠ 0)
    (hlow : 0x00400000 ≤ rnat s (cvBase k + 0x20)) (hhigh : rnat s (cvBase k + 0x20) + rf s (cvBase k + 0x24) 22 0 ≤ 0x00800000) :
    cvDmaNow s k = modCv s k fun x => { x with busy := true, runSrc := rnat s (cvBase k + 0x20), runLen := rf s (cvBase k + 0x24) 22 0 } := by
  unfold cvDmaNow
  dsimp only
  rw [if_neg (by simp [hbusy]), if_neg]
  simp [halign, hlen, hlow, hhigh]

theorem cvDmaEnd_of_idle (ecc : Bool) : cvDmaEnd s k ecc = s := by
  unfold cvDmaEnd
  dsimp only
  rw [if_pos (by simp [hbusy])]

end Dma

theorem cvDmaEnd_of_good {s : State} {k : Nat} (hbusy : (vget s.cv k).busy = true) (hfinish : rb s (cvBase k) 7 = false) :
    cvDmaEnd s k false =
      cvFeed (modCv s k fun x => { x with busy := false }) k (svcBytes s (vget s.cv k).runSrc (vget s.cv k).runLen) := by
  unfold cvDmaEnd
  dsimp only
  rw [hbusy, hfinish]
  rfl

/-! ### FINISH (R611) -/

section Finish
variable {s : State} {k : Nat}

/-- A context that does not compare, or whose result is as wanted, is done. -/
theorem cvFinishNow_of_match
    (h : rb s (cvBase k) 2 = false ∨ cvResult (vget s.cv k) = rnat s (cvBase k + 0x10) % 2 ^ crcWidth (vget s.cv k).alg) :
    cvFinishNow s k = modCv s k fun x => { x with done := true } := by
  unfold cvFinishNow
  dsimp only
  rw [if_pos]
  simpa using h

/-- The state in which a failed compare is counted and reported. -/
def mismatched (s : State) (k : Nat) : State :=
  raise (modCv s k fun x => { x with done := true, mismatch := true, mismatches := satAdd 65535 x.mismatches 1 })
    0xA 0 Code.checkMismatch 1 (args4 [k, rnat s (cvBase k + 0x10), cvResult (vget s.cv k)])

theorem cvFinishNow_of_mismatch (hk : k < 4) (hcmp : rb s (cvBase k) 2 = true)
    (hdiff : cvResult (vget s.cv k) ≠ rnat s (cvBase k + 0x10) % 2 ^ crcWidth (vget s.cv k).alg) :
    cvFinishNow s k = if rb s (cvBase k) 3 = true then
        emit (rput (mismatched s k) 0x000D0400 (toWord (rnat (mismatched s k) 0x000D0400 ||| 2 ^ k)))
          (.interrupt (rnat (mismatched s k) 0x000D0400 ||| 2 ^ k))
      else mismatched s k := by
  unfold cvFinishNow
  dsimp only
  rw [if_neg (by simp [hcmp, hdiff]), modCv_modCv hk]
  rfl

theorem vget_mismatched (hk : k < 4) : vget (mismatched s k).cv k =
    { vget s.cv k with done := true, mismatch := true, mismatches := satAdd 65535 (vget s.cv k).mismatches 1 } := by
  unfold mismatched
  rw [raise_cv]
  exact vget_modCv_same hk ..

/-- The interrupts pending are those of before the report. -/
theorem rnat_mismatched (a : Nat) : rnat (mismatched s k) a = rnat s a := by
  unfold rnat rget mismatched
  rw [raise_regs, raise_part]
  rfl

/-- The state after a failed compare is that of its report, but for the interrupt. -/
theorem cvFinishNow_mismatch_spec (hk : k < 4) (hcmp : rb s (cvBase k) 2 = true)
    (hdiff : cvResult (vget s.cv k) ≠ rnat s (cvBase k + 0x10) % 2 ^ crcWidth (vget s.cv k).alg) :
    (cvFinishNow s k).cv = (mismatched s k).cv ∧ (cvFinishNow s k).mem = s.mem ∧
      (rb s (cvBase k) 3 = false → (cvFinishNow s k).regs = s.regs ∧ (cvFinishNow s k).out = s.out) ∧
      (rb s (cvBase k) 3 = true → (cvFinishNow s k).out = s.out ++ [.interrupt (rnat s 0x000D0400 ||| 2 ^ k)]) := by
  have hreported : (mismatched s k).mem = s.mem ∧ (mismatched s k).regs = s.regs ∧ (mismatched s k).out = s.out :=
    ⟨raise_mem .., raise_regs .., raise_out ..⟩
  obtain ⟨hmem, hregs, hout⟩ := hreported
  rw [cvFinishNow_of_mismatch hk hcmp hdiff, rnat_mismatched]
  split
  · next hirq =>
    refine ⟨rfl, hmem, fun h => absurd (hirq.symm.trans h) Bool.noConfusion, fun _ => ?_⟩
    exact congrArg (· ++ _) hout
  · next hirq => exact ⟨rfl, hmem, fun _ => ⟨hregs, hout⟩, fun h => absurd h hirq⟩

end Finish

/-! ### The engine -/

/-- An uncorrectable error ends the run, which neither finishes nor stays busy. -/
theorem cvDmaEnd_of_error {s : State} {k : Nat} (hk : k < 4) (hbusy : (vget s.cv k).busy = true) :
    (vget (cvDmaEnd s k true).cv k).busy = false ∧ (vget (cvDmaEnd s k true).cv k).dmaErr = true ∧
      (vget (cvDmaEnd s k true).cv k).done = (vget s.cv k).done := by
  unfold cvDmaEnd
  dsimp only
  rw [if_neg (by simp [hbusy]), if_pos rfl, raise_cv, cvFeed_eq, vget_modCv_same hk, fresh_cv]
  unfold fedCtx
  dsimp only
  rw [vget_modCv_same hk]
  exact ⟨rfl, rfl, rfl⟩

theorem checkEngineWatchdog_cv {s t : State} (h : exec .checkEngineWatchdog s = .next t) :
    t.cv = (s.cv.map (·.busy)).map fun b => { dmaErr := b } := by
  obtain rfl := Host.Outcome.next.inj h
  exact logArrive_keeps ((closed_cv _).sub (by decide)) _ _ rfl

theorem vget_watchdog {s : State} {k : Nat} (hk : k < 4) :
    vget ((s.cv.map (·.busy)).map fun b => ({ dmaErr := b } : CvCtx)) k = { dmaErr := (vget s.cv k).busy } := by
  unfold vget
  rw [Vector.getElem?_map, Vector.getElem?_map, Vector.getElem?_eq_getElem hk]
  rfl

/-- Settles O57: the computation, the registers of a context, its runs, its finish and the engine's watchdog. -/
theorem checkContexts : Obligations.CheckContexts := by
  unfold Obligations.CheckContexts
  refine ⟨?_, ?_, ?_, ?_, ?_, ?_, ?_, ?_, ?_, ?_⟩
  · intro k a b s hk _ hvalue
    have hfed : vget (cvFeed s k a).cv k = fedCtx (vget s.cv k) a := vget_modCv_same hk ..
    have hlt := foldl_crcFeed_lt hvalue a
    rw [hfed]
    exact ⟨cvFeed_cvFeed hk hvalue a b, (toNat_toWord_crc hlt).symm ▸ hlt, rfl⟩
  · intro p k v s s1 hk hpath h5 h6 hs1
    rw [exec_cvStart, onUnit_of (decide_eq_true hk), cvCtrlWrite_of_start hpath (wbit_or_of_set rfl) (wbit_or_of_clear h5 rfl)
      (wbit_or_of_clear h6 rfl), ← hs1]
    refine ⟨_, rfl, rfl, ?_, fun j _ hj => ?_⟩
    · refine (vget_modCv_same hk ..).trans ?_
      rw [hs1, rput_cv]
    · refine (vget_modCv_of_ne hj ..).trans ?_
      rw [hs1, rput_cv]
  · intro p k n v s hk
    rw [exec_cvStart, exec_cvDataWrite, exec_cvStateWrite, exec_cvDmaGo, exec_cvFinish]
    rw [onUnit_of (decide_eq_true hk), onUnit_of (decide_eq_true hk), onUnit_of (decide_eq_true hk), onUnit_of (decide_eq_true hk),
      onUnit_of (decide_eq_true hk)]
    refine ⟨fun hpath => ?_, fun hpath hbound => ?_, fun hpath hbound hbusy => ?_⟩
    · rw [cvCtrlWrite_of_path hpath, cvCtrlWrite_of_path hpath, cvCtrlWrite_of_path hpath, cvDataWriteReg_of_path hpath,
        cvStateWriteReg_of_path hpath]
      exact ⟨rfl, rfl, rfl, rfl, rfl⟩
    · rw [cvDataWriteReg_of_gate hpath (cvGate_of_unbound hbound), cvStateWriteReg_of_gate hpath (cvGate_of_unbound hbound)]
      refine ⟨_, rfl, rfl, ?_, raise_mem .., raise_regs ..⟩
      unfold cvRefuse
      rw [raise_cv]
      exact vget_modCv_same hk ..
    · rw [cvDataWriteReg_of_gate hpath (cvGate_of_busy hbound hbusy)]
      exact ⟨_, rfl, raise_cv ..⟩
  · intro p k v s hk hpath hbound hbusy
    have hgate := cvGate_of_idle hbound hbusy
    rw [exec_cvDataWrite, exec_cvDataWrite, exec_cvDataWrite, exec_cvStateWrite, cvStateWriteReg_of_open hpath hgate,
      cvDataWriteReg_of_open hpath hgate, cvDataWriteReg_of_open hpath hgate, cvDataWriteReg_of_open hpath hgate,
      decide_eq_true hk]
    exact ⟨rfl, rfl, rfl, rfl⟩
  · intro p k src len v s s1 hk hpath hbound hbusy h4 h5 hs1 hsrc hlen
    have hcv : s1.cv = s.cv := by rw [hs1, rput_cv]
    have hidle : (vget s1.cv k).busy = false := by rw [hcv, hbusy]
    rw [exec_cvDmaGo, onUnit_of (decide_eq_true hk), cvCtrlWrite_of_dma hpath hbound (wbit_or_of_clear h4 rfl)
      (wbit_or_of_clear h5 rfl) (wbit_or_of_set rfl), ← hs1, hsrc, hlen]
    refine ⟨_, rfl, ?_, fun hbad => ?_, fun halign hne hlow hhigh => ?_⟩
    · exact (cvDmaNow_keeps (closed_sameBut 0x10000000000 s1 rfl) s1 k (SameBut.refl _ s1))
    · rw [cvDmaNow_of_bad hidle hbad, vget_modCv_same hk, hcv]
    · rw [cvDmaNow_of_good hidle halign hne hlow hhigh, vget_modCv_same hk, hcv]
  · intro k s hk hbusy hfinish
    have hexec (ecc : Bool) : exec (.cvDmaDone k ecc) s = .next (cvDmaEnd s k ecc) := by
      rw [exec_cvDmaDone, onUnit_of (decide_eq_true hk)]
    refine ⟨by rw [hexec, cvDmaEnd_of_good hbusy hfinish], _, hexec true, ?_, cvDmaEnd_of_error hk hbusy⟩
    exact (cvDmaEnd_keeps (closed_sameBut 0x30200000218 s rfl) s k true (SameBut.refl _ s))
  · intro k ecc s hk hbusy
    rw [exec_cvDmaDone, onUnit_of (decide_eq_true hk), cvDmaEnd_of_idle hbusy]
  · intro p k v s s1 hk hpath h4 h6 hs1
    have hcv : s1.cv = s.cv := by rw [hs1, rput_cv]
    rw [exec_cvFinish, onUnit_of (decide_eq_true hk), cvCtrlWrite_of_finish hpath (wbit_or_of_clear h4 rfl)
      (wbit_or_of_set rfl) (wbit_or_of_clear h6 rfl), ← hs1, ← hcv]
    have hmem : s1.mem = s.mem := by rw [hs1, rput_mem]
    have hout : s1.out = s.out := by rw [hs1, rput_out]
    rw [← hmem, ← hout]
    by_cases hmatch : rb s1 (cvBase k) 2 = false ∨ cvResult (vget s1.cv k) = rnat s1 (cvBase k + 0x10) % 2 ^ crcWidth (vget s1.cv k).alg
    · have hctx := vget_modCv_same hk s1 fun x => { x with done := true }
      rw [cvFinishNow_of_match hmatch]
      refine ⟨_, rfl, by rw [hctx], by rw [hctx], rfl, fun _ => rfl, fun hcmp hdiff => ?_⟩
      exact absurd hmatch (not_or.mpr ⟨ne_of_eq_of_ne hcmp Bool.noConfusion, hdiff⟩)
    · obtain ⟨hcmp, hdiff⟩ := not_or.mp hmatch
      obtain ⟨hcv', hmem', hirqOff, hirqOn⟩ := cvFinishNow_mismatch_spec hk (eq_true_of_ne_false hcmp) hdiff
      have hctx := (congrArg (vget · k) hcv').trans (vget_mismatched hk)
      refine ⟨_, rfl, by rw [hctx], by rw [hctx], hmem', fun h => absurd h hmatch, fun _ _ => ⟨by rw [hctx], by rw [hctx], hirqOff, hirqOn⟩⟩
  · intro p k v s hk
    rw [exec_cvStart, exec_cvDataWrite, exec_cvStateWrite, exec_cvDmaGo, exec_cvDmaDone, exec_cvFinish, decide_eq_false (by omega)]
    exact ⟨rfl, rfl, rfl, rfl, rfl, rfl⟩
  · intro s
    have hexec := exec_checkEngineWatchdog s
    have hframe := execCheckEngineWatchdog_keeps (closed_sameBut 0x70000000038 s rfl) s (SameBut.refl _ s)
    refine ⟨_, hexec, hframe.of _ hexec, ?_, fun k hk => ?_⟩
    · exact execCheckEngineWatchdog_keeps ((closed_mem s).sub (by decide)) s rfl |>.of _ hexec
    · rw [checkEngineWatchdog_cv hexec, vget_watchdog hk]

end Sys2Proof.Proofs
end

section
/-! PROOF. Heat, power and seasons: the brown-out of VSYS (R656, Table 21.14). -/
namespace Sys2Proof.Proofs
open Sys2Proof Sys2Proof.Machine Sys2Proof.Laws

theorem exec_vsysBrownout (s : State) : exec .vsysBrownout s = .next (coldNow s 0 true false true) := rfl

/-- A brown-out holds the part in reset until VSYS recovers: the boot sequence stands before its step 1. -/
theorem vsysBrownout_phase {s t : State} (h : exec .vsysBrownout s = .next t) : t.boot.phase = 0 := by
  obtain rfl := Host.Outcome.next.inj ((exec_vsysBrownout s).symm.trans h)
  rw [coldNow_boot]
  rfl

/-- Refutes O60 at the brown-out of VSYS: the statement puts the part at step 1 after it, where the model leaves step 0, held until
VSYS recovers; the state after reset, like every other, shows it. -/
theorem not_heatPowerAndSeasons : ¬ Obligations.HeatPowerAndSeasons := by
  unfold Obligations.HeatPowerAndSeasons
  rintro ⟨-, -, -, -, -, -, -, hfaults, -, -⟩
  obtain ⟨-, -, -, ⟨t, hexec, -, -, -, hphase, -, -⟩, -, -⟩ := hfaults false State.reset
  exact absurd ((vsysBrownout_phase hexec).symm.trans hphase) (by decide)

end Sys2Proof.Proofs
end

section
/-! PROOF. The ledgers stay clean: that no line holds DX and DP both set is closed under every change a command makes, so a step,
which is one command or one tick, keeps it (R61); and the state after reset meets the invariants. -/
namespace Sys2Proof.Proofs
open Sys2Proof Sys2Proof.Machine Sys2Proof.Laws

theorem cleanLedgers_of_empty : CleanLedgers (Vector.replicate 4 []) := by
  intro cd e he
  have hnone : vget (Vector.replicate 4 ([] : List (Nat × LedgerLine))) cd = [] := by
    unfold vget
    rw [Vector.getElem?_replicate]
    split
    · rfl
    · rfl
  rw [hnone] at he
  exact absurd he List.not_mem_nil

/-- A change of the ledgers keeps them clean by its side condition, and a reset leaves them empty; every other change leaves the
ledgers alone. -/
theorem closed_noDxWithDp : Closed 0x10000ffffffffff8 NoDxWithDp := by
  constructor
  case set_ledgers => exact fun _ _ _ clean h => clean h
  case reset =>
    intro _ s t kept _
    unfold NoDxWithDp
    rw [kept.ledgers]
    exact cleanLedgers_of_empty
  case set_otp | set_mem | set_log | set_outboxes => exact fun _ _ _ _ h => h
  all_goals exact fun _ _ _ h => h

/-- No command sets DX and DP together (R61). -/
theorem exec_noDxWithDp (i : Instr) {s t : State} (hs : NoDxWithDp s) (h : exec i s = .next t) : NoDxWithDp t :=
  (exec_keeps closed_noDxWithDp i s hs).of t h

@[simp] theorem tick_ledgers (s : State) : (tick s).ledgers = s.ledgers := rfl

/-- Settles O6: the command in front runs on a state with the same ledgers, and a tick leaves the ledgers as they are. -/
theorem noDxWithDpKept : Obligations.NoDxWithDpKept := by
  unfold Obligations.NoDxWithDpKept
  intro s t hs h
  obtain ⟨i, rest, _, hexec⟩ | ⟨_, rfl⟩ := step_next_cases h
  · exact exec_noDxWithDp i (s := { s with pending := rest }) hs hexec
  · unfold NoDxWithDp
    rwa [tick_ledgers]

theorem logSized_of_empty : LogSized {} := ⟨Nat.zero_le _, Nat.zero_le _, Nat.zero_le _⟩

/-- Settles O9: memory, ledgers, log and outboxes are empty after reset, and no command waits. -/
theorem resetMeetsInvariants : Obligations.ResetMeetsInvariants := by
  unfold Obligations.ResetMeetsInvariants
  refine ⟨memoryCanonical_of_empty rfl, cleanLedgers_of_empty, logSized_of_empty, outboxesSized_none, ?queue⟩
  intro c hc
  exact absurd hc List.not_mem_nil

end Sys2Proof.Proofs
end

section
/-! PROOF. Ledger lines: the bytes that writes and marks leave, and what each line operation does to the two banks and the flags
(R61, R63). -/
namespace Sys2Proof.Proofs
open Sys2Proof Sys2Proof.Machine Sys2Proof.Laws

/-! ### The bytes of a line -/

/-- The byte at an offset of a line. -/
abbrev lineByte (v : BitVec 512) (k : Nat) : Byte := v.extractLsb' (8 * k) 8

theorem getLsbD_lineByte (v : BitVec 512) (k : Nat) {r : Nat} (hr : r < 8) : (lineByte v k).getLsbD r = v.getLsbD (8 * k + r) := by
  rw [BitVec.getLsbD_extractLsb', decide_eq_true hr, Bool.true_and]

/-- Bit r of byte k of a little-endian number. -/
theorem testBit_leNat (bs : List Byte) (k : Nat) {r : Nat} (hr : r < 8) :
    (leNat bs).testBit (8 * k + r) = (bs.getD k 0).getLsbD r := by
  induction bs generalizing k with
  | nil => exact (Nat.zero_testBit _).trans BitVec.getLsbD_zero.symm
  | cons b bs ih =>
    have hcons : leNat (b :: bs) = 2 ^ 8 * leNat bs + b.toNat := Nat.add_comm ..
    rw [hcons, Nat.testBit_two_pow_mul_add _ b.isLt]
    cases k with
    | zero => rw [if_pos (by omega), Nat.mul_zero, Nat.zero_add]; rfl
    | succ k => rw [if_neg (by omega), show 8 * (k + 1) + r - 8 = 8 * k + r by omega, ih]; rfl

theorem leNat_append (as bs : List Byte) : leNat (as ++ bs) = leNat as + 2 ^ (8 * as.length) * leNat bs := by
  induction as with
  | nil => simp [leNat]
  | cons a as ih =>
    rw [List.cons_append, leNat, ih, leNat, List.length_cons, Nat.mul_succ, Nat.pow_add]
    ring

theorem getLsbD_byteBits {off n k r : Nat} (hk : k < 64) (hr : r < 8) :
    (byteBits off n).getLsbD (8 * k + r) = decide (off ≤ k ∧ k < off + n) := by
  rw [byteBits, BitVec.getLsbD_ofNat, decide_eq_true (by omega : 8 * k + r < 512), Bool.true_and, Nat.testBit_mul_two_pow,
    Nat.testBit_two_pow_sub_one, Bool.eq_iff_iff]
  simp only [Bool.and_eq_true, decide_eq_true_eq]
  omega

/-- Bytes merged over a line replace those they cover and no other. -/
theorem lineByte_mergeBytes {off k : Nat} {bs : List Byte} (hk : k < 64) (v : BitVec 512) :
    lineByte (mergeBytes v off bs) k = if off ≤ k ∧ k < off + bs.length then bs.getD (k - off) 0 else lineByte v k := by
  refine BitVec.eq_of_getLsbD_eq fun r hr => ?_
  have hlt : 8 * k + r < 512 := by omega
  rw [getLsbD_lineByte _ _ hr, mergeBytes, BitVec.getLsbD_or, BitVec.getLsbD_and, BitVec.getLsbD_and, BitVec.getLsbD_not,
    getLsbD_byteBits hk hr, decide_eq_true hlt]
  by_cases hin : off ≤ k ∧ k < off + bs.length
  · have hbyte : (BitVec.ofNat 512 (leNat bs * 2 ^ (8 * off))).getLsbD (8 * k + r) = (bs.getD (k - off) 0).getLsbD r := by
      rw [BitVec.getLsbD_ofNat, decide_eq_true hlt, Nat.testBit_mul_two_pow, decide_eq_true (by omega),
        show 8 * k + r - 8 * off = 8 * (k - off) + r by omega, testBit_leNat _ _ hr]
      rfl
    rw [hbyte, if_pos hin, decide_eq_true hin]
    simp only [Bool.not_true, Bool.and_false, Bool.false_or, Bool.and_true]
  · rw [if_neg hin, decide_eq_false hin, getLsbD_lineByte _ _ hr]
    simp only [Bool.not_false, Bool.and_true, Bool.and_false, Bool.or_false]

/-- The bytes that a merge mask keeps, as the bytes of a number. -/
def maskByte (mm : BitVec 64) (k : Nat) : Byte := if nbit mm.toNat k then 255 else 0

theorem sum_maskBytes (mm : BitVec 64) (n : Nat) :
    ((List.range n).map fun k => if nbit mm.toNat k then 255 * 2 ^ (8 * k) else 0).sum = leNat ((List.range n).map (maskByte mm)) := by
  induction n with
  | zero => rfl
  | succ n ih =>
    have hlast : leNat [maskByte mm n] = if nbit mm.toNat n then 255 else 0 := by
      unfold maskByte
      split <;> rfl
    rw [List.range_succ, List.map_append, List.sum_append, ih, List.map_append, leNat_append, List.map_cons, List.map_nil,
      List.map_cons, List.map_nil, hlast, List.length_map, List.length_range, List.sum_singleton]
    split <;> ring

/-- A mask bit covers every bit of its byte. -/
theorem getLsbD_maskBits (mm : BitVec 64) {k r : Nat} (hk : k < 64) (hr : r < 8) :
    (maskBits mm).getLsbD (8 * k + r) = mm.getLsbD k := by
  have hbyte : ((List.range 64).map (maskByte mm)).getD k 0 = maskByte mm k := by
    rw [List.getD_eq_getElem _ _ (by rwa [List.length_map, List.length_range]), List.getElem_map, List.getElem_range]
  have hones : ∀ r < 8, (255 : Byte).getLsbD r = true := by decide
  have hbit : nbit mm.toNat k = mm.getLsbD k := by
    rw [nbit, BitVec.getLsbD, Nat.testBit_eq_decide_div_mod_eq]
    rfl
  rw [maskBits, sum_maskBytes, BitVec.getLsbD_ofNat, decide_eq_true (by omega), Bool.true_and, testBit_leNat _ _ hr, hbyte, maskByte,
    hbit]
  cases mm.getLsbD k with
  | true => exact hones r hr
  | false => exact BitVec.getLsbD_zero

theorem lineByte_masked (v u : BitVec 512) (mm : BitVec 64) {k : Nat} (hk : k < 64) :
    lineByte ((v &&& maskBits mm) ||| (u &&& ~~~(maskBits mm))) k = if mm.getLsbD k = true then lineByte v k else lineByte u k := by
  refine BitVec.eq_of_getLsbD_eq fun r hr => ?_
  rw [getLsbD_lineByte _ _ hr, BitVec.getLsbD_or, BitVec.getLsbD_and, BitVec.getLsbD_and, BitVec.getLsbD_not,
    getLsbD_maskBits mm hk hr, decide_eq_true (by omega : 8 * k + r < 512)]
  cases mm.getLsbD k with
  | true =>
    rw [if_pos rfl, getLsbD_lineByte _ _ hr]
    simp only [Bool.and_true, Bool.not_true, Bool.and_false, Bool.or_false]
  | false =>
    rw [if_neg Bool.false_ne_true, getLsbD_lineByte _ _ hr]
    simp only [Bool.and_false, Bool.not_false, Bool.and_true, Bool.false_or]

/-! ### The banks and flags of a line -/

section Line
variable (l : LedgerLine) (v : BitVec 512)

@[simp] theorem setPending_committed : committedOf (setPending l v) = committedOf l := by
  unfold committedOf setPending
  cases l.sel <;> simp

@[simp] theorem setPending_pending : pendingOf (setPending l v) = v := by
  unfold pendingOf setPending
  cases l.sel <;> simp

@[simp] theorem setPending_dl : (setPending l v).dl = l.dl := by unfold setPending; split <;> rfl
@[simp] theorem setPending_dp : (setPending l v).dp = l.dp := by unfold setPending; split <;> rfl
@[simp] theorem setPending_dx : (setPending l v).dx = l.dx := by unfold setPending; split <;> rfl
@[simp] theorem setPending_mm : (setPending l v).mm = l.mm := by unfold setPending; split <;> rfl

/-- Has the line been written in this epoch, and not marked for discard? -/
def LineWritten : Prop := l.dx = false ∧ (l.dl = true ∨ l.dp = true)

/-- The line that a write finds: of a line marked for discard its committed value, without DX and DL; of a line that has been
written the line itself; of any other its committed value (R61). -/
theorem startLine_cases :
    (l.dx = true ∧ startLine l = { setPending l (committedOf l) with dx := false, dl := false }) ∨
      (LineWritten l ∧ startLine l = l) ∨
      (l.dx = false ∧ ¬LineWritten l ∧ startLine l = setPending l (committedOf l)) := by
  unfold startLine LineWritten
  cases hx : l.dx with
  | true => exact .inl ⟨rfl, rfl⟩
  | false =>
    refine .inr ?_
    by_cases h : (l.dl || l.dp) = true
    · exact .inl ⟨⟨rfl, Bool.or_eq_true_iff.mp h⟩, by rw [if_neg Bool.false_ne_true, if_pos h]⟩
    · refine .inr ⟨rfl, fun hw => h (Bool.or_eq_true_iff.mpr hw.2), ?_⟩
      rw [if_neg Bool.false_ne_true, if_neg h]

@[simp] theorem startLine_committed : committedOf (startLine l) = committedOf l := by
  obtain ⟨-, h⟩ | ⟨-, h⟩ | ⟨-, -, h⟩ := startLine_cases l
  · rw [h]; exact setPending_committed l _
  · rw [h]
  · rw [h, setPending_committed]

@[simp] theorem startLine_dx : (startLine l).dx = false := by
  obtain ⟨-, h⟩ | ⟨⟨hx, -⟩, h⟩ | ⟨hx, -, h⟩ := startLine_cases l
  · rw [h]
  · rw [h, hx]
  · rw [h, setPending_dx, hx]

@[simp] theorem startLine_dp : (startLine l).dp = l.dp := by
  obtain ⟨-, h⟩ | ⟨-, h⟩ | ⟨-, -, h⟩ := startLine_cases l
  · rw [h]; exact setPending_dp l _
  · rw [h]
  · rw [h, setPending_dp]

/-- DL of a line marked for discard is cleared; that of any other stands. -/
theorem startLine_dl : (startLine l).dl = (!l.dx && l.dl) := by
  obtain ⟨hx, h⟩ | ⟨⟨hx, -⟩, h⟩ | ⟨hx, -, h⟩ := startLine_cases l
  · rw [h, hx]; rfl
  · rw [h, hx]; rfl
  · rw [h, hx, setPending_dl]; rfl

theorem startLine_pending_of_written (hw : LineWritten l) : pendingOf (startLine l) = pendingOf l := by
  obtain ⟨hx, -⟩ | ⟨-, h⟩ | ⟨-, hnot, -⟩ := startLine_cases l
  · exact absurd (hw.1.symm.trans hx) Bool.false_ne_true
  · rw [h]
  · exact absurd hw hnot

theorem startLine_pending_of_not_written (hw : ¬LineWritten l) : pendingOf (startLine l) = committedOf l := by
  obtain ⟨-, h⟩ | ⟨hyes, -⟩ | ⟨-, -, h⟩ := startLine_cases l
  · rw [h]; exact setPending_pending l _
  · exact absurd hyes hw
  · rw [h, setPending_pending]

theorem localWrite_committed (off : Nat) (bs : List Byte) : committedOf (localWrite l off bs) = committedOf l :=
  (setPending_committed (startLine l) _).trans (startLine_committed l)

theorem localWrite_pending (off : Nat) (bs : List Byte) :
    pendingOf (localWrite l off bs) = mergeBytes (pendingOf (startLine l)) off bs := setPending_pending (startLine l) _

theorem localWrite_dl (off : Nat) (bs : List Byte) : (localWrite l off bs).dl = true := rfl

theorem localWrite_dx (off : Nat) (bs : List Byte) : (localWrite l off bs).dx = false :=
  (setPending_dx (startLine l) _).trans (startLine_dx l)

theorem localWrite_dp (off : Nat) (bs : List Byte) : (localWrite l off bs).dp = l.dp :=
  (setPending_dp (startLine l) _).trans (startLine_dp l)

theorem mergeLine_committed : committedOf (mergeLine l v) = committedOf l :=
  (setPending_committed (startLine l) v).trans (startLine_committed l)

theorem mergeLine_pending : pendingOf (mergeLine l v) = v := setPending_pending (startLine l) v

theorem mergeLine_dx : (mergeLine l v).dx = false := (setPending_dx (startLine l) v).trans (startLine_dx l)

theorem mergeLine_dl : (mergeLine l v).dl = (!l.dx && l.dl) := (setPending_dl (startLine l) v).trans (startLine_dl l)

theorem markLine_of_clean (h : l.dl = false) : markLine l = l := by
  rw [markLine, h]
  rfl

theorem markLine_of_local (hl : l.dl = true) (hp : l.dp = false) : markLine l = { l with dx := true } := by
  rw [markLine, hl, hp]
  rfl

/-- A line with merged bytes is rebuilt from those bytes and the committed ones. -/
theorem markLine_of_merged (hl : l.dl = true) (hp : l.dp = true) :
    markLine l =
      { setPending l ((pendingOf l &&& maskBits l.mm) ||| (committedOf l &&& ~~~(maskBits l.mm))) with dl := false } := by
  rw [markLine, hl, hp]
  rfl

theorem markLine_committed : committedOf (markLine l) = committedOf l := by
  cases hl : l.dl with
  | false => rw [markLine_of_clean l hl]
  | true =>
    cases hp : l.dp with
    | false => rw [markLine_of_local l hl hp]; rfl
    | true => rw [markLine_of_merged l hl hp]; exact setPending_committed l _

/-- A commit swaps the banks of a line that is written and not marked, or merged. -/
theorem commitLine_committed :
    committedOf (commitLine l) = if (l.dl = true ∧ l.dx = false) ∨ l.dp = true then pendingOf l else committedOf l := by
  have hswap : ((l.dl && !l.dx) || l.dp) = decide ((l.dl = true ∧ l.dx = false) ∨ l.dp = true) := by
    rw [Bool.eq_iff_iff]
    simp only [Bool.or_eq_true, Bool.and_eq_true, Bool.not_eq_true', decide_eq_true_eq]
  unfold committedOf commitLine pendingOf
  dsimp only
  rw [hswap]
  by_cases h : (l.dl = true ∧ l.dx = false) ∨ l.dp = true
  · rw [decide_eq_true h, if_pos rfl, if_pos h]
    cases l.sel <;> rfl
  · rw [decide_eq_false h, if_neg Bool.false_ne_true, if_neg h]

end Line

/-- Settles O16: a write starts from the committed line or goes on from the pending one, and its bytes are merged over that; a mark
keeps the bytes of the merge mask; at the equinox the banks are swapped or kept. -/
theorem ledgerLineRules : Obligations.LedgerLineRules := by
  unfold Obligations.LedgerLineRules
  refine ⟨?write, ?merge, ?mark, ?equinox⟩
  case write =>
    intro l off bs k _ hk
    refine ⟨localWrite_committed l off bs, localWrite_dl l off bs, localWrite_dx l off bs, localWrite_dp l off bs, ?_⟩
    rw [localWrite_pending]
    refine (lineByte_mergeBytes hk _).trans (if_congr Iff.rfl rfl ?_)
    by_cases hw : LineWritten l
    · rw [startLine_pending_of_written l hw]
      exact (if_pos hw).symm
    · rw [startLine_pending_of_not_written l hw]
      exact (if_neg hw).symm
  case merge =>
    intro l v
    refine ⟨mergeLine_committed l v, mergeLine_pending l v, rfl, mergeLine_dx l v, fun hx => ?_, fun hx => ?_, rfl⟩
    · rw [mergeLine_dl, hx]; rfl
    · rw [mergeLine_dl, hx]; rfl
  case mark =>
    intro l k hk
    refine ⟨markLine_committed l, markLine_of_clean l, fun hl hp => ?_, fun hl hp => ?_⟩
    · rw [markLine_of_local l hl hp]
      exact ⟨rfl, rfl⟩
    · rw [markLine_of_merged l hl hp]
      refine ⟨rfl, setPending_dx l _, ?_⟩
      exact (congrArg (lineByte · k) (setPending_pending l _)).trans (lineByte_masked _ _ l.mm hk)
  case equinox =>
    intro l
    exact ⟨commitLine_committed l, rfl, rfl, rfl, rfl, rfl, rfl, rfl, rfl, rfl, rfl⟩

end Sys2Proof.Proofs
end

section
/-! PROOF. The commands that write ledger lines: a local write, a LEDGER_WRITE parcel and a HANDOVER_CLEAR (R61, R173). -/
namespace Sys2Proof.Proofs
open Sys2Proof Sys2Proof.Machine Sys2Proof.Laws

theorem exec_ledgerLocalWrite (d : Die) (line off : Nat) (bs : List Byte) (s : State) :
    exec (.ledgerLocalWrite d line off bs) s = execLedgerLocalWrite d line off bs s := rfl
theorem exec_ledgerWrite (r : LinkRx) (s : State) : exec (.ledgerWrite r) s = execLedgerWrite r s := rfl
theorem exec_handoverClear (r : LinkRx) (s : State) : exec (.handoverClear r) s = execHandoverClear r s := rfl

theorem cdIdx_lt {d : Die} {cd : Nat} (h : d.cdIdx = some cd) : cd < 4 := by
  cases d <;> cases h <;> decide

theorem isCd_of_cdIdx {d : Die} {cd : Nat} (h : d.cdIdx = some cd) : d.isCd = true := by
  cases d <;> cases h <;> rfl

/-! ### Reading one line -/

section Lines
variable {s : State} {cd line : Nat}

theorem modLine_frame (s : State) (cd line : Nat) (f : LedgerLine → LedgerLine) :
    modLine s cd line f = { s with ledgers := (modLine s cd line f).ledgers } := rfl

/-- The line that is changed; a line that is written is not all zero, so it stands in the ledger's list. -/
theorem ledgerLine_modLine_same (hcd : cd < 4) {f : LedgerLine → LedgerLine} (hf : f (ledgerLine s cd line) ≠ {}) :
    ledgerLine (modLine s cd line f) cd line = f (ledgerLine s cd line) := by
  have hledger : (modLine s cd line f).ledger cd = mset {} (s.ledger cd) line (f (ledgerLine s cd line)) :=
    (vget_vmod s.ledgers cd cd _).trans (if_pos ⟨rfl, hcd⟩)
  rw [ledgerLine, hledger, mset, if_neg hf, mget_mput, if_pos rfl]

theorem ledgerLine_modLine_other (f : LedgerLine → LedgerLine) {cd' line' : Nat} (h : (cd', line') ≠ (cd, line)) :
    ledgerLine (modLine s cd line f) cd' line' = ledgerLine s cd' line' := by
  have hledger : (modLine s cd line f).ledger cd' =
      if cd = cd' ∧ cd < 4 then mset {} (s.ledger cd) line (f (mget {} (s.ledger cd) line)) else s.ledger cd' :=
    vget_vmod s.ledgers cd cd' _
  rw [ledgerLine, hledger]
  split
  · next hsame =>
    obtain ⟨rfl, -⟩ := hsame
    exact mget_mset_ne _ _ _ _ _ fun heq => h (by rw [heq])
  · rfl

theorem localWrite_ne_zero (l : LedgerLine) (off : Nat) (bs : List Byte) : localWrite l off bs ≠ {} :=
  fun h => absurd (congrArg LedgerLine.dl h) (by rw [localWrite_dl]; decide)

theorem mergeLine_ne_zero (l : LedgerLine) (v : BitVec 512) : mergeLine l v ≠ {} :=
  fun h => absurd (congrArg LedgerLine.dp h) (show ¬ true = false by decide)

/-- Lines of a list become pending zeros. -/
def clearLines (cd : Nat) (lines : List Nat) (s : State) : State :=
  lines.foldl (fun t line => modLine t cd line fun l => mergeLine l 0) s

/-- The lines of a range that lie within the ledger. -/
def linesWithin (first count : Nat) : List Nat :=
  ((List.range count).filter fun i => decide (first + i < 2048)).map fun i => first + i

theorem ledgerClear_eq (s : State) (cd first count : Nat) :
    ledgerClear s cd first count = clearLines cd (linesWithin first count) s := by
  rw [clearLines, linesWithin, List.foldl_map]
  rfl

theorem mem_linesWithin {first count line : Nat} :
    line ∈ linesWithin first count ↔ first ≤ line ∧ line < first + count ∧ line < 2048 := by
  simp only [linesWithin, List.mem_map, List.mem_filter, List.mem_range, decide_eq_true_eq]
  constructor
  · rintro ⟨i, ⟨hcount, hwithin⟩, rfl⟩
    omega
  · rintro ⟨hfirst, hcount, hwithin⟩
    exact ⟨line - first, ⟨by omega, by omega⟩, by omega⟩

theorem linesWithin_nodup (first count : Nat) : (linesWithin first count).Nodup :=
  (List.nodup_range.filter _).map fun _ _ h => Nat.add_left_cancel h

theorem clearLines_frame (cd : Nat) (lines : List Nat) (s : State) :
    clearLines cd lines s = { s with ledgers := (clearLines cd lines s).ledgers } := by
  induction lines generalizing s with
  | nil => rfl
  | cons line lines ih => exact ih _

theorem ledgerLine_clearLines_outside {lines : List Nat} {cd' line' : Nat} (h : cd' ≠ cd ∨ line' ∉ lines) :
    ledgerLine (clearLines cd lines s) cd' line' = ledgerLine s cd' line' := by
  induction lines generalizing s with
  | nil => rfl
  | cons line lines ih =>
    have hne : (cd', line') ≠ (cd, line) := by
      rintro ⟨⟩
      exact h.elim (fun hcd => hcd rfl) fun hline => hline List.mem_cons_self
    exact (ih (h.imp_right fun hline hmem => hline (List.mem_cons_of_mem _ hmem))).trans (ledgerLine_modLine_other _ hne)

/-- Each line of a list without repetitions is cleared once. -/
theorem ledgerLine_clearLines_inside (hcd : cd < 4) {lines : List Nat} (hnodup : lines.Nodup) (h : line ∈ lines) :
    ledgerLine (clearLines cd lines s) cd line = mergeLine (ledgerLine s cd line) 0 := by
  induction lines generalizing s with
  | nil => exact absurd h List.not_mem_nil
  | cons first lines ih =>
    obtain ⟨hfirst, hrest⟩ := List.nodup_cons.mp hnodup
    rcases List.mem_cons.mp h with rfl | hmem
    · exact (ledgerLine_clearLines_outside (.inr hfirst)).trans (ledgerLine_modLine_same hcd (mergeLine_ne_zero _ _))
    · have hne : line ≠ first := fun heq => hfirst (heq ▸ hmem)
      refine (ih hrest hmem).trans (congrArg (mergeLine · 0) (ledgerLine_modLine_other _ ?_))
      exact fun heq => hne (congrArg Prod.snd heq)

end Lines

theorem onCd_taken {r : LinkRx} {cd : Nat} (h : r.port.die.cdIdx = some cd) (s : State) (f : State → Nat → State) :
    onCd r s f = f s cd := by
  rw [onCd, h]

/-- Settles O17: one line is changed, or each line of a range once; every other line of every ledger stands. -/
theorem ledgerCommands : Obligations.LedgerCommands := by
  unfold Obligations.LedgerCommands
  refine ⟨?write, ?parcel, ?clear⟩
  case write =>
    intro d cd line off bs s hcd hfit hline hlen
    have hexec : exec (.ledgerLocalWrite d line off bs) s = .next (modLine s cd line fun l => localWrite l off bs) := by
      have hall : bs.take (64 - off) = bs := List.take_of_length_le (by omega)
      rw [exec_ledgerLocalWrite, execLedgerLocalWrite, isCd_of_cdIdx hcd, hfit, decide_eq_true hline, hcd, hall]
      rfl
    exact ⟨_, hexec, rfl, ledgerLine_modLine_same (cdIdx_lt hcd) (localWrite_ne_zero _ _ _), fun _ _ => ledgerLine_modLine_other _⟩
  case parcel =>
    intro r x cd s s1 hp hr hvc hk hline hcd
    have hexec : exec (.ledgerWrite r) s =
        .next (modLine s1 cd x.arg fun l => mergeLine l (BitVec.ofNat 512 (leNat x.payload))) := by
      rw [exec_ledgerWrite, execLedgerWrite, onParcel_taken hp hr hvc hk, onCd_taken hcd, Nat.mod_eq_of_lt hline]
    exact ⟨_, hexec, rfl, ledgerLine_modLine_same (cdIdx_lt hcd) (mergeLine_ne_zero _ _), fun _ _ => ledgerLine_modLine_other _⟩
  case clear =>
    intro r x cd first count s s1 hp hr hvc hk harg hcd hfirst hcount
    have hexec : exec (.handoverClear r) s = .next (clearLines cd (linesWithin first count) s1) := by
      rw [exec_handoverClear, execHandoverClear, onMsg_taken hp hr hvc hk harg, onCd_taken hcd, hfirst, hcount, ledgerClear_eq]
    refine ⟨_, hexec, clearLines_frame cd _ s1, fun line hlo hhi hwithin => ?_, fun line hout => ?_, fun cd' line hne => ?_⟩
    · exact ledgerLine_clearLines_inside (cdIdx_lt hcd) (linesWithin_nodup first count) (mem_linesWithin.mpr ⟨hlo, hhi, hwithin⟩)
    · refine ledgerLine_clearLines_outside (.inr fun hmem => ?_)
      obtain ⟨hlo, hhi, hwithin⟩ := mem_linesWithin.mp hmem
      omega
    · exact ledgerLine_clearLines_outside (.inl hne)

end Sys2Proof.Proofs
end

section
/-! PROOF. The timebase: how an offset is removed, and what a Sync, its loss and SYNC_IN make of the states of Table 2.1 (R44, R45,
R64). -/
namespace Sys2Proof.Proofs
open Sys2Proof Sys2Proof.Machine Sys2Proof.Laws

/-! ### An offset removed (R45) -/

section Offset
variable {s : State} {off : Int}

/-- Removing an offset sets the slew, LTIME and the step that waits, and nothing else. -/
theorem removeOffset_frame (s : State) (off : Int) : removeOffset s off =
    { s with tb := { s.tb with
        slew := (removeOffset s off).tb.slew, ltime := (removeOffset s off).tb.ltime
        stepPending := (removeOffset s off).tb.stepPending } } := by
  unfold removeOffset
  split
  · rfl
  · split
    · rfl
    · split
      · rfl
      · rfl

theorem removeOffset_of_small (hnone : s.tb.stepPending = none) (h : off.natAbs ≤ rnat s 0x0004001C * 1000) :
    removeOffset s off = modTb s fun t => { t with slew := -off * 2 ^ 32 } := by
  rw [removeOffset, hnone, if_neg (by decide), if_pos h]

theorem removeOffset_of_armed (hnone : s.tb.stepPending = none) (h : ¬off.natAbs ≤ rnat s 0x0004001C * 1000)
    (harmed : s.seqr.armed = true) : removeOffset s off = modTb s fun t => { t with stepPending := some (-off), slew := 0 } := by
  rw [removeOffset, hnone, if_neg (by decide), if_neg h, if_pos harmed]

theorem removeOffset_of_unarmed (hnone : s.tb.stepPending = none) (h : ¬off.natAbs ≤ rnat s 0x0004001C * 1000)
    (harmed : ¬s.seqr.armed = true) : removeOffset s off = stepTime s (-off) := by
  rw [removeOffset, hnone, if_neg (by decide), if_neg h, if_neg harmed]

end Offset

/-! ### A Sync (R44) -/

section Sync
variable {s : State} {off : Int}

/-- The state of Table 2.1 that an accepted Sync leads to. -/
def syncState (t : TbSt) (off : Int) : TbState :=
  match t.state with
  | .locked => if 10000 < off.natAbs ∧ 3 ≤ t.outBand then .acquire else .locked
  | .acquire => if off.natAbs ≤ 250 ∧ 15 ≤ t.inBand then .locked else .acquire
  | _ => .acquire

/-- Beyond the servo's correction an accepted Sync moves only the state, its two counts, the note that LOCKED was reached, and the
wish to report unlocked time. -/
theorem takeSync_eq (s : State) (off : Int) : ∃ (ins outs : Nat) (ever unlocked : Bool), takeSync s off =
    { removeOffset (servo s off) off with
      tb := { (removeOffset (servo s off) off).tb with state := syncState s.tb off, inBand := ins, outBand := outs, everLocked := ever }
      seqr := { s.seqr with unlocked := unlocked } } := by
  have hseqr : (removeOffset (servo s off) off).seqr = s.seqr := by
    rw [removeOffset_frame]
    rfl
  have hstate : (removeOffset (servo s off) off).tb.state = s.tb.state := by
    rw [removeOffset_frame]
    rfl
  unfold takeSync syncState
  dsimp only
  generalize removeOffset (servo s off) off = u at hseqr hstate ⊢
  rw [← hseqr]
  cases hs : s.tb.state with
  | locked =>
    dsimp only
    by_cases h : 10000 < off.natAbs ∧ 3 ≤ s.tb.outBand
    · rw [if_pos h, if_pos h.1, if_pos (by omega)]
      exact ⟨0, 0, _, _, rfl⟩
    · rw [if_neg h, if_neg (by split <;> omega), ← hs, ← hstate]
      exact ⟨_, _, _, _, rfl⟩
  | acquire =>
    dsimp only
    by_cases h : off.natAbs ≤ 250 ∧ 15 ≤ s.tb.inBand
    · rw [if_pos h, if_pos h.1, if_pos (by omega)]
      exact ⟨0, 0, true, false, rfl⟩
    · rw [if_neg h, if_neg (by split <;> omega), ← hs, ← hstate]
      exact ⟨_, _, _, _, rfl⟩
  | free | holdover | syncLocked | syncLost => exact ⟨_, _, _, _, rfl⟩

theorem exec_ptpSyncReceive (port domain : Nat) (off li : Int) (s : State) :
    exec (.ptpSyncReceive port domain off li) s = execPtpSyncReceive port domain off li s := rfl

/-- A Sync is accepted from the slave port, in the domain, with PTP chosen and enabled and an interval of 2^-7 s to 2 s (R452). -/
theorem exec_ptpSyncReceive_accepted {port domain : Nat} {li : Int} (hport : port < 2) (hsource : rf s 0x00040000 1 0 = 1)
    (hon : rb s 0x00050000 5 = true) (hdomain : domain = rf s 0x00050000 14 8) (hslave : s.net.slave = some port) (hlo : -7 ≤ li)
    (hhi : li ≤ 1) : exec (.ptpSyncReceive port domain off li) s = .next (takeSync (modNet s fun n => { n with syncLog0 := li }) off) := by
  rw [exec_ptpSyncReceive, execPtpSyncReceive, onUnit, if_pos (decide_eq_true hport), hsource, hon, ← hdomain, hslave,
    decide_eq_true hlo, decide_eq_true hhi]
  simp only [BEq.rfl, Bool.and_self, if_true]

end Sync

/-! ### Syncs missed (R44) -/

theorem exec_syncTimeout (s : State) : exec .syncTimeout s = execSyncTimeout s := rfl

/-! ### Edges of SYNC_IN (R64) -/

section Edge
variable {s : State} {err : Int}

theorem exec_syncInEdge (highNs : Nat) (err : Int) (s : State) : exec (.syncInEdge highNs err) s = execSyncInEdge highNs err s := rfl
theorem exec_syncInMissing (s : State) : exec .syncInMissing s = execSyncInMissing s := rfl
theorem exec_syncOutPulse (s : State) : exec .syncOutPulse s = execSyncOutPulse s := rfl

/-- An edge of SYNC_IN counts once the input has been high for 2 us and SOURCE is SYNC_IN. -/
theorem exec_syncInEdge_valid {highNs : Nat} (hsource : rf s 0x00040000 1 0 = 2) (hhigh : 2000 ≤ highNs) :
    exec (.syncInEdge highNs err) s = .next (takeEdge s err) := by
  rw [exec_syncInEdge, execSyncInEdge, hsource, decide_eq_true hhigh]
  rfl

/-- An edge within 50 us of its instant disciplines the timebase. -/
theorem takeEdge_of_inside (hstate : s.tb.state = .syncLocked ∨ s.tb.state = .syncLost) (h : err.natAbs ≤ 50000) :
    takeEdge s err = removeOffset (servo (modTb s fun t => { t with state := .syncLocked, missing := 0, outside := [] }) err) err := by
  unfold takeEdge
  rcases hstate with hs | hs
  · rw [hs]
    exact if_pos h
  · rw [hs]
    exact if_pos h

/-- The errors of the last three edges outside the window, this one first (R72). -/
def edgesOutside (t : TbSt) (err : Int) : List Int := (err :: t.outside).take 3

/-- Are they three, each within a thousandth of the period of this one? -/
def edgesAgree (s : State) (err : Int) : Bool :=
  (edgesOutside s.tb err).length == 3 && (edgesOutside s.tb err).all fun e => decide ((e - err).natAbs * 1000 ≤ periodNs s)

/-- The timebase after an edge outside the window: it is noted, and the third of three alike makes a step wait. -/
def edgeNoted (s : State) (err : Int) : TbSt :=
  if edgesAgree s err then { s.tb with edgesIgnored := s.tb.edgesIgnored + 1, outside := [], stepPending := some (-err) }
  else { s.tb with edgesIgnored := s.tb.edgesIgnored + 1, outside := edgesOutside s.tb err }

theorem takeEdge_of_outside (hstate : s.tb.state = .syncLocked ∨ s.tb.state = .syncLost) (h : 50000 < err.natAbs) :
    takeEdge s err = { s with tb := edgeNoted s err } := by
  have hout : ¬err.natAbs ≤ 50000 := by omega
  unfold takeEdge edgeNoted
  cases hagree : edgesAgree s err with
  | true =>
    rcases hstate with hs | hs
    all_goals
      rw [hs]
      exact (if_neg hout).trans (if_pos hagree)
  | false =>
    rcases hstate with hs | hs
    all_goals
      rw [hs]
      exact (if_neg hout).trans (if_neg (ne_true_of_eq_false hagree))

theorem edgesAgree_of_two {a b : Int} (h : s.tb.outside = [a, b]) (ha : (a - err).natAbs * 1000 ≤ periodNs s)
    (hb : (b - err).natAbs * 1000 ≤ periodNs s) : edgesAgree s err = true := by
  have hself : (err - err).natAbs * 1000 ≤ periodNs s := by rw [Int.sub_self]; exact Nat.zero_le _
  unfold edgesAgree edgesOutside
  rw [h]
  simp only [List.take_succ_cons, List.take_zero, List.length_cons, List.length_nil, List.all_cons, List.all_nil, decide_eq_true hself,
    decide_eq_true ha, decide_eq_true hb, BEq.rfl, Bool.and_self]

/-- The first valid edge before arming sets the phase of LTIME. -/
theorem takeEdge_first (hlocked : s.tb.state ≠ .syncLocked) (hlost : s.tb.state ≠ .syncLost) (harmed : s.seqr.armed = false) :
    takeEdge s err = stepTime (modTb s fun t => { t with state := .syncLocked, missing := 0, outside := [] }) (-syncPhase s) := by
  unfold takeEdge
  split
  case h_1 h => exact absurd h hlocked
  case h_2 h => exact absurd h hlost
  case h_3 => rw [harmed, if_neg Bool.false_ne_true]

end Edge

/-- Settles O12: a Sync's correction and its state apart, then its loss, then the edges of SYNC_IN by their error. -/
theorem syncMovesTimebase : Obligations.SyncMovesTimebase := by
  unfold Obligations.SyncMovesTimebase
  refine ⟨?sync, ?loss, ?inside, ?outside, ?first, ?missing, ?pulse⟩
  case sync =>
    intro port domain off li s hport hsource hon hdomain hslave hlo hhi
    obtain ⟨ins, outs, ever, unlocked, htake⟩ := takeSync_eq (modNet s fun n => { n with syncLog0 := li }) off
    refine ⟨_, exec_ptpSyncReceive_accepted hport hsource hon hdomain hslave hlo hhi, ?_⟩
    rw [htake]
    generalize hfrom : servo (modNet s fun n => { n with syncLog0 := li }) off = u
    refine ⟨?_, ?_, ?_, rfl, fun hnone => ?_⟩
    · rw [removeOffset_frame, ← hfrom]; rfl
    · rw [removeOffset_frame, ← hfrom]; rfl
    · rw [removeOffset_frame, ← hfrom]; rfl
    · have hwait : u.tb.stepPending = none := by rw [← hfrom]; exact hnone
      have hthresh : rnat u 0x0004001C = rnat s 0x0004001C := by rw [← hfrom]; rfl
      have hseqr : u.seqr = s.seqr := by rw [← hfrom]; rfl
      have hltime : u.tb.ltime = s.tb.ltime := by rw [← hfrom]; rfl
      split
      · next hsmall =>
        rw [removeOffset_of_small hwait (by rwa [hthresh])]
        exact ⟨rfl, hltime, hwait⟩
      · next hlarge =>
        split
        · next harmed =>
          rw [removeOffset_of_armed hwait (by rwa [hthresh]) (by rwa [hseqr])]
          exact ⟨rfl, hltime⟩
        · next harmed =>
          rw [removeOffset_of_unarmed hwait (by rwa [hthresh]) (by rwa [hseqr]), ← hltime]
          exact ⟨rfl, hwait⟩
  case loss =>
    intro s hstate
    rw [exec_syncTimeout, execSyncTimeout]
    rcases hstate with hs | hs
    · rw [hs]
      exact congrArg Host.Outcome.next (if_pos (.inl rfl)).symm
    · rw [hs]
      cases hever : s.tb.everLocked with
      | true => exact congrArg Host.Outcome.next (if_pos (.inr rfl)).symm
      | false => exact congrArg Host.Outcome.next (if_neg (by decide)).symm
  case inside =>
    intro highNs err s hsource hhigh hstate herr
    refine ⟨_, exec_syncInEdge_valid hsource hhigh, ?_⟩
    rw [takeEdge_of_inside hstate herr, removeOffset_frame]
    exact ⟨rfl, rfl, rfl, rfl, rfl⟩
  case outside =>
    intro highNs err s hsource hhigh hstate herr
    refine ⟨_, exec_syncInEdge_valid hsource hhigh, ?_⟩
    rw [takeEdge_of_outside hstate herr, edgeNoted]
    cases hagree : edgesAgree s err with
    | true => exact ⟨rfl, rfl, rfl, rfl, rfl, fun _ _ _ _ _ => rfl⟩
    | false =>
      refine ⟨rfl, rfl, rfl, rfl, rfl, fun a b htwo ha hb => ?_⟩
      exact absurd (hagree.symm.trans (edgesAgree_of_two htwo ha hb)) Bool.false_ne_true
  case first =>
    intro highNs err s hsource hhigh hlocked hlost harmed
    rw [exec_syncInEdge_valid hsource hhigh, takeEdge_first hlocked hlost harmed]
    rfl
  case missing =>
    intro s hs
    rw [exec_syncInMissing, execSyncInMissing, hs]
    rfl
  case pulse =>
    intro s hout hran
    rw [exec_syncOutPulse, execSyncOutPulse, hout, hran]
    rfl

end Sys2Proof.Proofs
end

section
/-! PROOF. The sequencer: when it arms, the latency it measures, and the tokens that dies return (R51, R53, R72, R73). -/
namespace Sys2Proof.Proofs
open Sys2Proof Sys2Proof.Machine Sys2Proof.Laws

theorem exec_acqTimeoutExpire (s : State) : exec .acqTimeoutExpire s = execAcqTimeoutExpire s := rfl
theorem exec_sequencerArm (s : State) : exec .sequencerArm s = execSequencerArm s := rfl
theorem exec_timeUnlockedReport (s : State) : exec .timeUnlockedReport s = execTimeUnlockedReport s := rfl
theorem exec_latencyMeasure (d : Die) (primary alternate : List Nat) (s : State) :
    exec (.latencyMeasure d primary alternate) s = execLatencyMeasure d primary alternate s := rfl
theorem exec_echo (f : SbFrame) (s : State) : exec (.echo f) s = execEcho f s := rfl

/-- The sequencer may arm once it is released, on locked time or past ACQ_TIMEOUT with ARM_UNLOCKED (R73). -/
theorem mayArm_of {s : State} (hreleased : s.seqr.released = true) (harmed : s.seqr.armed = false)
    (htime : s.tb.state = .locked ∨ s.tb.state = .syncLocked ∨ (s.tb.acqExpired = true ∧ rb s 0x00040000 3 = true)) :
    mayArm s = true := by
  simp only [mayArm, hreleased, harmed, Bool.not_false, Bool.true_and, Bool.or_eq_true, Bool.and_eq_true, beq_iff_eq]
  exact htime.elim (fun h => .inl (.inl h)) fun h => h.elim (fun h => .inl (.inr h)) .inr

theorem not_locked_eq_decide (x : TbState) : (!(x == .locked || x == .syncLocked)) = decide (x ≠ .locked ∧ x ≠ .syncLocked) := by
  cases x <;> rfl

/-- LAT_COMP is half the mean of 16 round trips, kept below 0xFFF. -/
theorem latOf_eq (rtts : List Nat) :
    latOf rtts = if rtts.length < 16 then 0xFFF else min 0xFFE ((rtts.take 16).sum / 16 / 2) := by
  rw [latOf, Nat.div_div_eq_div_mul]

/-- Settles O13, command by command. -/
theorem sequencerArming : Obligations.SequencerArming := by
  unfold Obligations.SequencerArming
  refine ⟨fun s => rfl, ?arm, ?unlocked, ?latency, ?echo⟩
  case arm =>
    intro s hreleased harmed htime
    rw [exec_sequencerArm, execSequencerArm, if_pos (mayArm_of hreleased harmed htime), ← not_locked_eq_decide]
    rfl
  case unlocked =>
    intro s harmed hunlocked
    rw [exec_timeUnlockedReport, execTimeUnlockedReport, harmed, hunlocked]
    rfl
  case latency =>
    intro d primary alternate s hfit hsvc
    rw [exec_latencyMeasure, execLatencyMeasure, hfit, bne_iff_ne.mpr hsvc, latOf_eq, latOf_eq]
    rfl
  case echo =>
    intro f w s s1 p hport htake htyp hsvc hroute
    rw [exec_echo, execEcho, onToken_taken hport htake htyp]
    dsimp only
    rw [beq_eq_false_iff_ne.mpr hsvc, hroute]
    rfl

end Sys2Proof.Proofs
end

section
/-! PROOF. Launches: what the sequencer sends, lateness, the plain actions, and the tokens that are stale or find their unit taken
(R47, R49, R52, R54, R55, R504). -/
namespace Sys2Proof.Proofs
open Sys2Proof Sys2Proof.Machine Sys2Proof.Laws

theorem exec_launchSend (i : Nat) (s : State) : exec (.launchSend i) s = execLaunchSend i s := rfl
theorem exec_latenessExceedsSlack (d : Die) (u : Nat) (s : State) :
    exec (.latenessExceedsSlack d u) s = execLatenessExceedsSlack d u s := rfl
theorem exec_softEvent (f : SbFrame) (s : State) : exec (.softEvent f) s = execSoftEvent f s := rfl
theorem exec_mark (f : SbFrame) (s : State) : exec (.mark f) s = execMark f s := rfl
theorem exec_flush (f : SbFrame) (s : State) : exec (.flush f) s = execFlush f s := rfl

theorem nbit_zero (n : Nat) : nbit n 0 = decide (n % 2 = 1) := by
  rw [nbit, Nat.pow_zero, Nat.div_one]
  rfl

/-! ### Tokens that SVC sends -/

section Send
variable {s : State} {d : Die} {p : PortId}

/-- A token to a die leaves by the port of the die's route. -/
theorem svcToken_routed (hsvc : d ≠ .svc) (hroute : relayPort s .svc d.code = some p) (typ unit act entry ep : Nat) :
    svcToken s d typ unit act entry ep = { s with out := s.out ++ [.token p (tokenWord typ d.code 0 unit act entry ep)] } := by
  rw [svcToken, beq_eq_false_iff_ne.mpr hsvc, if_neg Bool.false_ne_true, hroute]
  rfl

/-- An entry is sent to a die that takes part, by a measured path that works. -/
theorem sendLaunch_routed {i : Nat} {e : LaunchEntry} (hdie : Die.ofCode (e.dieByte % 16) = some d) (hsvc : d ≠ .svc)
    (hout : (s.die d).out = false) (hlat : latNow s d ≠ 0xFFF) (hroute : relayPort s .svc d.code = some p) :
    sendLaunch s i e = { s with
      seqr := { s.seqr with issued := s.seqr.issued + 1, exposeIssued := s.seqr.exposeIssued || e.action == 1 || e.action == 2 }
      out := s.out ++ [.token p (tokenWord 1 d.code 0 e.unit e.action i (s.seqr.epoch.toNat % 8))] } := by
  unfold sendLaunch
  dsimp only
  rw [hdie]
  dsimp only
  rw [beq_eq_false_iff_ne.mpr hsvc, hout, beq_eq_false_iff_ne.mpr hlat, hroute]
  exact svcToken_routed (s := modSeq (modSeq s _) _) hsvc hroute ..

/-- An entry without VALID, or for the epochs of the other parity, does not issue (Table 2.2). -/
theorem entryIssues_of_flags {e : LaunchEntry} (h : nbit e.flags 0 = false ∨ (nbit e.flags 1 = true ∧ s.seqr.epoch.toNat % 2 = 1) ∨
    (nbit e.flags 2 = true ∧ s.seqr.epoch.toNat % 2 = 0)) : entryIssues s e = false := by
  unfold entryIssues
  rw [nbit_zero s.seqr.epoch.toNat]
  rcases h with h | ⟨h, hodd⟩ | ⟨h, heven⟩
  · rw [h]; rfl
  · rw [h, hodd]
    simp only [decide_true, Bool.and_self, Bool.not_true, Bool.and_false, Bool.false_and]
  · rw [h, heven]
    simp only [zero_ne_one, decide_false, Bool.not_false, Bool.and_self, Bool.not_true, Bool.and_false, Bool.false_and]

end Send

/-! ### Tokens at their die -/

section Token
variable {s s1 : State} {f : SbFrame} {w : BitVec 48} {act : Nat} {okDie : Die → Bool} {okUnit : Nat → Bool}
  {start : State → Die → Nat → Launched → State}

/-- A LAUNCH token of an action at a die that takes the action. -/
theorem onLaunch_taken (hport : portOk s f.port = true) (htake : takeToken s f = (some w, s1)) (htyp : tokType w = 1)
    (hact : tokAct w = act) (hdie : okDie f.port.die = true) :
    onLaunch s f act okDie okUnit start = .next (takeLaunch s1 f.port.die w okUnit start) := by
  rw [onLaunch, onToken_taken hport htake htyp, hact, hdie, BEq.rfl]
  rfl

/-- The token of another epoch is stale (R52). -/
theorem takeLaunch_of_stale {d : Die} (hep : tokEp w ≠ (s.die d).ep % 8) :
    takeLaunch s d w okUnit start = missEntry (raiseOn s d (launchLogUnit d) 0 Code.launchStale 1) d := by
  rw [takeLaunch, if_pos (bne_iff_ne.mpr hep)]

/-- A token of the epoch in hand brings its entry to the units it names. -/
theorem takeLaunch_of_entry {d : Die} {e : LaunchEntry} (hep : tokEp w = (s.die d).ep % 8) (htakes : takesLaunches s d = true)
    (hrefusing : (s.die d).refusing = false) (hunit : okUnit (tokUnit w) = true) (hentry : entryOf s (tokEntry w) = some e) :
    takeLaunch s d w okUnit start = launchAll s d (launchedBy s w e) start (unitsNamed d (tokUnit w)) false := by
  rw [takeLaunch, hep, bne_self_eq_false, if_neg Bool.false_ne_true, htakes, hrefusing, if_neg (by decide), hunit,
    if_neg (by decide), hentry]
  rfl

/-- An entry for a unit that runs another is queued, or finds the queue full. -/
theorem launchAll_of_busy {d : Die} {u : Nat} {l r : Launched} (hbusy : (unitOf s d u).busy = some r) :
    launchAll s d l start [u] false = if (unitOf s d u).queued = none then modUnit s d u fun x => { x with queued := some l }
      else missEntry (raiseOn s d (launchLogUnit d) 0 Code.launchOverrun 1) d := by
  unfold launchAll launchOne
  dsimp only
  rw [hbusy]
  cases hqueued : (unitOf s d u).queued with
  | none => rfl
  | some _ => rfl

end Token

theorem unitsNamed_of_one {d : Die} {u : Nat} (h : ¬(d.isCd = true ∧ u = 15)) : unitsNamed d u = [u % 16] := by
  rw [unitsNamed, if_neg]
  rwa [Bool.and_eq_true, beq_iff_eq]

/-- A late entry is counted in LATE_COUNT and in its die, and the epoch is DEGRADED (R55). -/
theorem lateEntry_eq (s : State) (d : Die) : lateEntry s d = { s with
    dies := vmod s.dies d.idx fun x => { x with late := satAdd 65535 x.late 1 }
    seqr := { s.seqr with
      lateCount := s.seqr.lateCount + 1, cur := { s.seqr.cur with degraded := true, dies := s.seqr.cur.dies ||| 2 ^ d.code } } } := rfl

/-- Settles O14: the entry is sent or not by the sequencer, late entries are counted, and each plain action is its own start on the
running unit. -/
theorem launchesAtTheSequencer : Obligations.LaunchesAtTheSequencer := by
  unfold Obligations.LaunchesAtTheSequencer
  refine ⟨?send, ?silent, ?lateQueued, ?lateBusy, ?flush, ?soft, ?mark⟩
  case send =>
    intro i e d p s hentry hissuing hissues hdie hsvc hout hlat hroute
    rw [exec_launchSend, execLaunchSend, hentry]
    dsimp only
    rw [hissuing, hissues, Bool.and_self, if_pos rfl, sendLaunch_routed hdie hsvc hout hlat hroute]
  case silent =>
    intro i e s hentry hflags
    rw [exec_launchSend, execLaunchSend, hentry]
    dsimp only
    rw [entryIssues_of_flags hflags, Bool.and_false, if_neg Bool.false_ne_true]
  case lateQueued =>
    intro d u l s hfit hu hqueued hlate
    rw [exec_latenessExceedsSlack, execLatenessExceedsSlack, hfit, decide_eq_true hu]
    dsimp only
    rw [hqueued]
    dsimp only
    rw [hlate, lateEntry_eq]
    rfl
  case lateBusy =>
    intro d u l s hfit hu hqueued hbusy hlate
    rw [exec_latenessExceedsSlack, execLatenessExceedsSlack, hfit, decide_eq_true hu]
    dsimp only
    rw [hqueued, hbusy]
    dsimp only
    rw [hlate, lateEntry_eq]
    rfl
  case flush =>
    intro f w s s1 e hready hdie hunit
    rw [exec_flush, execFlush, onLaunch_ready hready (u := 0) (by rw [hdie]; rfl) (by rw [hunit]; rfl) (by rw [hunit])
      (by rw [hunit, unitsNamed_of_lt (by decide)]), hdie]
    rfl
  case soft =>
    intro f w s s1 e hready hdie hunit
    rw [exec_softEvent, execSoftEvent, onLaunch_ready hready (u := 4) (by rw [hdie]; rfl) (by rw [hunit]; rfl) (by rw [hunit])
      (by rw [hunit, unitsNamed_of_lt (by decide)]), hdie]
    rfl
  case mark =>
    intro f w s s1 e hready hone
    rw [exec_mark, execMark, onLaunch_ready hready (u := tokUnit w % 16) rfl rfl rfl (unitsNamed_of_one hone), startMark, Nat.mod_mod]

/-- Settles O15: the epoch of a token is looked at first, then the unit and its queue. -/
theorem launchTokenRules : Obligations.LaunchTokenRules := by
  unfold Obligations.LaunchTokenRules
  refine ⟨?stale, ?busy⟩
  case stale =>
    intro f w s s1 hport htake htyp hact hep
    rw [exec_mark, execMark, onLaunch_taken hport htake htyp hact rfl, takeLaunch_of_stale hep]
  case busy =>
    intro f w s s1 e l hport htake htyp hact hep htakes hrefusing hentry hunit hbusy
    rw [exec_mark, execMark, onLaunch_taken hport htake htyp hact rfl, takeLaunch_of_entry hep htakes hrefusing rfl hentry,
      unitsNamed_of_lt hunit, launchAll_of_busy hbusy]

end Sys2Proof.Proofs
end

section
/-! PROOF. The drain of a die: the steps of Table 2.7, KILL, the reports, and what SVC does with them (R57, R59, R60, R72). -/
namespace Sys2Proof.Proofs
open Sys2Proof Sys2Proof.Machine Sys2Proof.Laws

theorem exec_equinoxDeadline (s : State) : exec .equinoxDeadline s = execEquinoxDeadline s := rfl
theorem exec_killDrain (f : SbFrame) (s : State) : exec (.killDrain f) s = execKillDrain f s := rfl
theorem exec_killForce (f : SbFrame) (s : State) : exec (.killForce f) s = execKillForce f s := rfl
theorem exec_epochDoneSend (d : Die) (s : State) : exec (.epochDoneSend d) s = execEpochDoneSend d s := rfl
theorem exec_epochDone (r : LinkRx) (s : State) : exec (.epochDone r) s = execEpochDone r s := rfl
theorem exec_drained (r : LinkRx) (s : State) : exec (.drained r) s = execDrained r s := rfl
theorem exec_drainStuck (d : Die) (s : State) : exec (.drainStuck d) s = execDrainStuck d s := rfl
theorem exec_commitFence (s : State) : exec .commitFence s = execCommitFence s := rfl
theorem exec_launchDequeue (d : Die) (u : Nat) (v : Bool) (s : State) :
    exec (.launchDequeue d u v) s = execLaunchDequeue d u v s := rfl
theorem exec_sinkEnd (cd : Nat) (s : State) : exec (.sinkEnd cd) s = execSinkEnd cd s := rfl

/-! ### The steps of a die's drain -/

section Drain
variable {s : State} {d : Die} {cd : Nat}

theorem liveDie_guards (h : liveDie s d = true) : d ≠ .svc ∧ fitted s d = true := by
  obtain ⟨⟨hsvc, hfit⟩, -⟩ := (Bool.and_eq_true_iff.mp h).imp_left Bool.and_eq_true_iff.mp
  exact ⟨bne_iff_ne.mp hsvc, hfit⟩

theorem sendDrained_die (s : State) (d : Die) (forced : Bool) (marked dropped : Nat) :
    (sendDrained s d forced marked dropped).die d = { s.die d with drainedSent := true } := by
  unfold sendDrained
  rw [die_of_dies (sendMsg_dies ..), die_modDie]

/-- Whether or not an orderly drain ends now, its die goes on refusing launches. -/
theorem drainCheck_refusing (s : State) (d : Die) : ((drainCheck s d).die d).refusing = (s.die d).refusing := by
  unfold drainCheck
  dsimp only
  split
  · rfl
  · rw [sendDrained_die, die_of_dies (dropCache_keeps ((closed_dies s).sub (by decide)) s d rfl)]

/-- A die between its refusal of launches and the end of its orderly drain (steps 1 to 3 of DRAIN). -/
def drainBegun (s : State) (d : Die) : State :=
  let s1 := dropCrops (refuseLaunches s d) d
  match d.cdIdx with
  | some cd => dropHalos s1 cd
  | none => eyeKill s1

theorem drainDie_eq (hsvc : d ≠ .svc) (h : (s.die d).drainedSent = false) : drainDie s d = drainCheck (drainBegun s d) d := by
  rw [drainDie, h, beq_eq_false_iff_ne.mpr hsvc, Bool.or_self, if_neg Bool.false_ne_true]
  rfl

theorem drainBegun_refusing (hcd : d.cdIdx = some cd) : ((drainBegun s d).die d).refusing = true := by
  unfold drainBegun
  dsimp only
  rw [hcd]
  dsimp only
  rw [die_of_dies (dropHalos_keeps ((closed_dies _).sub (by decide)) _ cd rfl),
    die_of_dies (dropCrops_keeps ((closed_dies _).sub (by decide)) _ d rfl), refuseLaunches, die_modDie]

/-- A compute die whose units, reads and halos have been dropped (steps 1 to 4 of FORCE). -/
def forceBegun (s : State) (d : Die) (cd : Nat) : State :=
  dropHalos (forceReads (forceUnits (dropCrops (dropQueued (refuseLaunches s d) d) d) cd) cd) cd

/-- The same with its outbound queues and its remote cache emptied (steps 5 and 6). -/
def forceEmptied (s : State) (d : Die) (cd : Nat) : State := dropCache (dropOutbound (forceBegun s d cd) d) d

theorem forceDie_eq (hsvc : d ≠ .svc) (hcd : d.cdIdx = some cd) (h : (s.die d).drainedSent = false) :
    forceDie s d = sendDrained (hvDiscard (ledgerMark (forceEmptied s d cd) cd).2 cd) d true (ledgerMark (forceEmptied s d cd) cd).1
      (outbound (forceBegun s d cd) d) := by
  rw [forceDie, h, beq_eq_false_iff_ne.mpr hsvc, Bool.or_self, if_neg Bool.false_ne_true]
  dsimp only
  rw [hcd]
  rfl

/-- No step before the marks touches a ledger. -/
theorem forceEmptied_ledgers (s : State) (d : Die) (cd : Nat) : (forceEmptied s d cd).ledgers = s.ledgers := by
  have hc := closed_ledgers s
  exact dropCache_keeps (hc.sub (by decide)) _ d <| dropOutbound_keeps (hc.sub (by decide)) _ d <|
    dropHalos_keeps (hc.sub (by decide)) _ cd <| forceReads_keeps (hc.sub (by decide)) _ cd <|
    forceUnits_keeps (hc.sub (by decide)) _ cd <| dropCrops_keeps (hc.sub (by decide)) _ d <|
    dropQueued_keeps (hc.sub (by decide)) _ d <| modDie_ledgers ..

theorem forceEmptied_cache (hcd : d.cdIdx = some cd) : ((forceEmptied s d cd).fab cd).cache = [] := by
  unfold forceEmptied dropCache
  rw [hcd]
  dsimp only
  rw [fab_modFab (cdIdx_lt hcd)]

theorem forceDie_ledgers (hsvc : d ≠ .svc) (hcd : d.cdIdx = some cd) (h : (s.die d).drainedSent = false) :
    (forceDie s d).ledgers = vmod s.ledgers cd (mapLines markLine) := by
  rw [forceDie_eq hsvc hcd h, sendDrained_keeps ((closed_ledgers _).sub (by decide)) _ _ _ _ _ rfl,
    hvDiscard_keeps ((closed_ledgers _).sub (by decide)) _ cd rfl, ← forceEmptied_ledgers s d cd]
  rfl

theorem forceDie_cache (hsvc : d ≠ .svc) (hcd : d.cdIdx = some cd) (h : (s.die d).drainedSent = false) :
    ((forceDie s d).fab cd).cache = [] := by
  rw [forceDie_eq hsvc hcd h, fab_of_fabs (sendDrained_keeps ((closed_fabs _).sub (by decide)) _ _ _ _ _ rfl),
    fab_of_fabs (hvDiscard_keeps ((closed_fabs _).sub (by decide)) _ cd rfl)]
  exact forceEmptied_cache hcd

end Drain

/-- Settles O19: FORCE marks the ledger, empties the cache and reports; DRAIN refuses launches and leaves the ledgers. -/
theorem drainSteps : Obligations.DrainSteps := by
  unfold Obligations.DrainSteps
  intro cd s hcd hsent
  have hsvc := ofCd_ne_svc cd
  have hidx := cdIdx_ofCd hcd
  refine ⟨?_, forceDie_ledgers hsvc hidx hsent, forceDie_cache hsvc hidx hsent, ?_, ?_⟩
  · rw [forceDie_eq hsvc hidx hsent, sendDrained_die]
  · rw [drainDie_eq hsvc hsent, drainCheck_refusing, drainBegun_refusing hidx]
  · exact drainDie_keeps ((closed_ledgers s).sub (by decide)) s _ rfl

/-! ### KILL at T_D (R57) -/

section Kill
variable {s : State}

/-- The KILL tokens of a list of dies, each to a die by its route, with FORCE to one that has not sent EPOCH_DONE. -/
def killTokens (s : State) (ds : List Die) : List Output :=
  ds.filterMap fun d => (relayPort s .svc d.code).map fun p =>
    .token p (tokenWord 2 d.code 0 0 (b2n (!(s.die d).doneSeen)) 0 (s.seqr.epoch.toNat % 8))

/-- The state once outputs have left the part. -/
def emitAll (s : State) (os : List Output) : State := { s with out := s.out ++ os }

theorem emitAll_nil (s : State) : emitAll s [] = s := by
  rw [emitAll, List.append_nil]

theorem emitAll_append (s : State) (as bs : List Output) : emitAll (emitAll s as) bs = emitAll s (as ++ bs) := by
  unfold emitAll
  dsimp only
  rw [List.append_assoc]

/-- The token to a die, where a route leads to it. -/
def tokenTo (s : State) (d : Die) (typ unit act entry ep : Nat) : List Output :=
  ((relayPort s .svc d.code).map fun p => .token p (tokenWord typ d.code 0 unit act entry ep)).toList

theorem svcToken_eq_emitAll (s : State) {d : Die} (hsvc : d ≠ .svc) (typ unit act entry ep : Nat) :
    svcToken s d typ unit act entry ep = emitAll s (tokenTo s d typ unit act entry ep) := by
  unfold tokenTo
  cases hroute : relayPort s .svc d.code with
  | some p => exact svcToken_routed hsvc hroute ..
  | none =>
    rw [svcToken, beq_eq_false_iff_ne.mpr hsvc, if_neg Bool.false_ne_true, hroute]
    exact (emitAll_nil s).symm

/-- A KILL token to a die, in the epoch of a number. -/
def killToken (ep : Nat) (t : State) (d : Die) : State := svcToken t d 2 0 (b2n (!(t.die d).doneSeen)) 0 ep

theorem killTokens_cons (s : State) (d : Die) (ds : List Die) : killTokens s (d :: ds) =
    tokenTo s d 2 0 (b2n (!(s.die d).doneSeen)) 0 (s.seqr.epoch.toNat % 8) ++ killTokens s ds := by
  unfold killTokens tokenTo
  rw [List.filterMap_cons]
  cases relayPort s .svc d.code <;> rfl

/-- KILL to one die after another emits their tokens in turn; routes and reports stand as they were. -/
theorem foldl_killToken (ds : List Die) (hds : ∀ d ∈ ds, d ≠ .svc) (t : State) :
    ds.foldl (killToken (t.seqr.epoch.toNat % 8)) t = emitAll t (killTokens t ds) := by
  induction ds generalizing t with
  | nil => exact (emitAll_nil t).symm
  | cons d ds ih =>
    obtain ⟨hsvc, hrest⟩ := List.forall_mem_cons.mp hds
    rw [List.foldl_cons, killToken, svcToken_eq_emitAll t hsvc, killTokens_cons, ← emitAll_append]
    exact ih hrest (emitAll t _)

/-- What is released and dropped at the deadline, and what may merge from then on (R36, R504). -/
def deadlineState (s : State) : State :=
  let u := releaseRecords (cropsAtDeadline s)
  { u with peers := { u.peers with upTo := u.peers.order }, seqr := { u.seqr with killed := true, guardDone := false } }

/-- The records' release touches nothing that says which die is live, how it is reached and what it has reported. -/
theorem deadline_dies (s : State) : (releaseRecords (cropsAtDeadline s)).dies = s.dies :=
  releaseRecords_keeps ((closed_dies s).sub (by decide)) _ (cropsAtDeadline_keeps ((closed_dies s).sub (by decide)) s rfl)
theorem deadline_part (s : State) : (releaseRecords (cropsAtDeadline s)).part = s.part :=
  releaseRecords_keeps ((closed_part s).sub (by decide)) _ (cropsAtDeadline_keeps ((closed_part s).sub (by decide)) s rfl)
theorem deadline_regs (s : State) : (releaseRecords (cropsAtDeadline s)).regs = s.regs :=
  releaseRecords_keeps ((closed_regs s).sub (by decide)) _ (cropsAtDeadline_keeps ((closed_regs s).sub (by decide)) s rfl)
theorem deadline_ports (s : State) : (releaseRecords (cropsAtDeadline s)).ports = s.ports :=
  releaseRecords_keeps ((closed_ports s).sub (by decide)) _ (cropsAtDeadline_keeps ((closed_ports s).sub (by decide)) s rfl)
theorem deadline_seqr (s : State) : (releaseRecords (cropsAtDeadline s)).seqr = s.seqr :=
  releaseRecords_keeps ((closed_seqr s).sub (by decide)) _ (cropsAtDeadline_keeps ((closed_seqr s).sub (by decide)) s rfl)


theorem deadline_die (s : State) (d : Die) : (deadlineState s).die d = s.die d := die_of_dies (deadline_dies s) d

theorem liveDies_congr {t : State} (hpart : t.part = s.part) (hdies : t.dies = s.dies) : liveDies t = liveDies s := by
  unfold liveDies fittedDies liveDie fitted State.die
  rw [hpart, hdies]

theorem relayPort_congr {t : State} (hpart : t.part = s.part) (hregs : t.regs = s.regs) (hports : t.ports = s.ports) (d : Die)
    (dst : Nat) : relayPort t d dst = relayPort s d dst := by
  unfold relayPort routePort rb rf rget State.port
  rw [hpart, hregs, hports]

theorem ne_svc_of_mem_liveDies {d : Die} (h : d ∈ liveDies s) : d ≠ .svc := (liveDie_guards (List.mem_filter.mp h).2).1

/-- KILL goes to the live dies, and no die's drain is over before it has begun. -/
theorem exec_equinoxDeadline_of_undrained (harmed : s.seqr.armed = true) (hran : s.seqr.ran = true)
    (hkilled : s.seqr.killed = false) (hdrained : (liveDies s).all (fun d => (s.die d).drainedSeen) = false) :
    exec .equinoxDeadline s = .next (emitAll (deadlineState s) (killTokens s (liveDies s))) := by
  have hlive : liveDies (deadlineState s) = liveDies s := liveDies_congr (deadline_part s) (deadline_dies s)
  have hepoch : (deadlineState s).seqr.epoch = s.seqr.epoch := by
    have hseqr : (releaseRecords (cropsAtDeadline s)).seqr.epoch = s.seqr.epoch := by rw [deadline_seqr]
    exact hseqr
  have htokens : killTokens (deadlineState s) (liveDies s) = killTokens s (liveDies s) := by
    unfold killTokens
    rw [hepoch]
    simp only [relayPort_congr (t := deadlineState s) (deadline_part s) (deadline_regs s) (deadline_ports s), deadline_die]
  have hkill : (liveDies s).foldl (killToken (s.seqr.epoch.toNat % 8)) (deadlineState s) =
      emitAll (deadlineState s) (killTokens s (liveDies s)) := by
    rw [← htokens, ← hepoch]
    exact foldl_killToken (liveDies s) (fun d => ne_svc_of_mem_liveDies) _
  have hnot : ((liveDies (emitAll (deadlineState s) (killTokens s (liveDies s)))).all fun d =>
      ((emitAll (deadlineState s) (killTokens s (liveDies s))).die d).drainedSeen) = false := by
    rw [← hdrained, ← hlive]
    exact List.all_congr rfl fun d => congrArg DieSt.drainedSeen (deadline_die s d)
  have hguards : (!s.seqr.armed || !s.seqr.ran || s.seqr.killed) = false := by
    rw [harmed, hran, hkilled]
    rfl
  rw [exec_equinoxDeadline, execEquinoxDeadline, hguards, if_neg Bool.false_ne_true]
  change Host.Outcome.next (drainsDone ((liveDies (deadlineState s)).foldl (killToken (s.seqr.epoch.toNat % 8)) (deadlineState s))) = _
  rw [hlive, hkill, drainsDone, hnot, Bool.and_false, if_neg Bool.false_ne_true]

end Kill

/-! ### Reports -/

theorem svcFrom_of {r : LinkRx} {x : Parcel} {d : Die} (hport : r.port.die = .svc) (hsrc : Die.ofCode x.src = some d) :
    svcFrom r x = some d := by
  rw [svcFrom, hport]
  exact hsrc

/-- Settles O18: KILL is the fold of its tokens, and each report and each end is the model's own operation behind its guards. -/
theorem drainOfTheEpoch : Obligations.DrainOfTheEpoch := by
  unfold Obligations.DrainOfTheEpoch
  refine ⟨?kill, ?drain, ?done, ?doneSeen, ?drained, ?stuck, fun s => rfl, ?dequeue, ?sink⟩
  case kill =>
    intro s harmed hran hkilled hdrained
    exact ⟨_, _, exec_equinoxDeadline_of_undrained harmed hran hkilled hdrained, rfl, rfl, rfl⟩
  case drain =>
    intro f w s s1 hport htake htyp hsvc hsent
    constructor
    · rw [exec_killDrain, execKillDrain, onToken_taken hport htake htyp, nbit_zero]
      simp only [decide_eq_true_eq]
    · rw [exec_killForce, execKillForce, onToken_taken hport htake htyp, nbit_zero]
      simp only [decide_eq_true_eq]
  case done =>
    intro d s hlive hsent hrefusing hidle
    obtain ⟨hsvc, hfit⟩ := liveDie_guards hlive
    rw [exec_epochDoneSend, execEpochDoneSend, onUnit_of (by rw [bne_iff_ne.mpr hsvc, hfit]; rfl)]
    dsimp only
    rw [hlive, hsent, hrefusing, hidle]
    rfl
  case doneSeen =>
    intro r x d s s1 hport hrecv hvc hkind harg hdie hsrc
    rw [exec_epochDone, execEpochDone, onMsg_taken hport hrecv hvc hkind harg, svcFrom_of hdie hsrc]
    rfl
  case drained =>
    intro r x d s s1 hport hrecv hvc hkind harg hdie hsrc hkilled hseen
    rw [exec_drained, execDrained, onMsg_taken hport hrecv hvc hkind harg, svcFrom_of hdie hsrc]
    dsimp only
    rw [hkilled, hseen, nbit_zero]
    simp only [Bool.not_true, Bool.or_self, Bool.false_eq_true, if_false, decide_eq_true_eq]
  case stuck =>
    intro d s hlive hkilled hseen
    obtain ⟨hsvc, hfit⟩ := liveDie_guards hlive
    rw [exec_drainStuck, execDrainStuck, onUnit_of (by rw [bne_iff_ne.mpr hsvc, hfit]; rfl), hkilled, hlive, hseen]
    rfl
  case dequeue =>
    intro d u v l s hfit hu hbusy hqueued
    rw [exec_launchDequeue, execLaunchDequeue, onUnit_of (by rw [hfit, decide_eq_true hu]; rfl)]
    dsimp only
    rw [hbusy, hqueued]
  case sink =>
    intro cd s hcd hstate
    rw [exec_sinkEnd, execSinkEnd, onUnit_cdOk hcd, hstate]
    rfl

end Sys2Proof.Proofs
end

section
/-! PROOF. The equinox: what an EQUINOX token leaves of a die's ledger and of the die, what SVC notes of it, and what SVC sends (R52,
R60, R63, R72, R75). -/
namespace Sys2Proof.Proofs
open Sys2Proof Sys2Proof.Machine Sys2Proof.Laws

theorem exec_equinox (f : SbFrame) (s : State) : exec (.equinox f) s = execEquinox f s := rfl
theorem exec_equinoxDiscard (f : SbFrame) (s : State) : exec (.equinoxDiscard f) s = execEquinoxDiscard f s := rfl
theorem exec_committed (r : LinkRx) (s : State) : exec (.committed r) s = execCommitted r s := rfl
theorem exec_equinoxSend (s : State) : exec .equinoxSend s = execEquinoxSend s := rfl
theorem exec_equinoxResend (d : Die) (s : State) : exec (.equinoxResend d) s = execEquinoxResend d s := rfl

/-! ### The token at its die -/

section Die
variable {s : State} {d : Die} {cd ep : Nat}

/-- A die without Harvest's region runs no transition of Harvest. -/
theorem hvEquinox_of_other (h : hvCd s ≠ some cd) :
    hvEquinox s cd = s ∨ hvEquinox s cd = modHv s fun v => { v with offCause := 1, state := .off } := by
  unfold hvEquinox
  cases hvBlock s with
  | none => exact .inr rfl
  | some b =>
    have hother : (hvCd s != some cd || !hvLimits b) = true := by rw [bne_iff_ne.mpr h, Bool.true_or]
    exact .inl (if_pos hother)

/-- The epoch that a die's ledger has been settled for (R63). -/
def settledFabric (epoch : Word) (f : Fabric) : Fabric := { f with ledgerEpoch := epoch }

theorem ledgerEquinox_discard (s : State) (cd : Nat) : (ledgerEquinox s cd true).2 =
    modFab (modDet (hvDiscard (ledgerDiscard s cd) cd) cd undoDet) cd (settledFabric s.seqr.closed) := rfl

theorem ledgerEquinox_commit (s : State) (cd : Nat) : (ledgerEquinox s cd false).2 =
    hvEquinox (modFab (ledgerCommit s cd) cd (settledFabric s.seqr.closed)) cd := rfl

/-- A ledger that is discarded. -/
theorem ledgerEquinox_discard_ledgers (s : State) (cd : Nat) :
    (ledgerEquinox s cd true).2.ledgers = vmod s.ledgers cd (mapLines discardLine) := by
  rw [ledgerEquinox_discard]
  exact hvDiscard_keeps ((closed_ledgers _).sub (by decide)) (ledgerDiscard s cd) cd rfl

theorem ledgerEquinox_discard_epoch (hcd : cd < 4) (s : State) :
    ((ledgerEquinox s cd true).2.fab cd).ledgerEpoch = s.seqr.closed := by
  rw [ledgerEquinox_discard, fab_modFab hcd]
  rfl

/-- A ledger that commits, on a die without Harvest's region. -/
theorem ledgerEquinox_commit_ledgers (h : hvCd s ≠ some cd) :
    (ledgerEquinox s cd false).2.ledgers = vmod s.ledgers cd (mapLines commitLine) := by
  rw [ledgerEquinox_commit]
  rcases hvEquinox_of_other (s := modFab (ledgerCommit s cd) cd (settledFabric s.seqr.closed)) h with heq | heq
  · rw [heq]; rfl
  · rw [heq]; rfl

theorem ledgerEquinox_commit_epoch (hcd : cd < 4) (h : hvCd s ≠ some cd) :
    ((ledgerEquinox s cd false).2.fab cd).ledgerEpoch = s.seqr.closed := by
  have hfab : ((modFab (ledgerCommit s cd) cd (settledFabric s.seqr.closed)).fab cd).ledgerEpoch = s.seqr.closed := by
    rw [fab_modFab hcd]
    rfl
  rw [ledgerEquinox_commit]
  rcases hvEquinox_of_other (s := modFab (ledgerCommit s cd) cd (settledFabric s.seqr.closed)) h with heq | heq
  · rw [heq]; exact hfab
  · rw [heq]; exact hfab

/-- What follows the ledger on a compute die leaves the ledgers (R75). -/
theorem cdEquinox_ledgers (s : State) (cd : Nat) (discard : Bool) :
    (cdEquinox s cd discard).2.ledgers = (ledgerEquinox s cd discard).2.ledgers := by
  have hc := closed_ledgers (ledgerEquinox s cd discard).2
  exact placeDie_keeps (hc.sub (by decide)) _ cd _ <| rapply_keeps (hc.sub (by decide)) _ _ _ <|
    (modDet_ledgers _ cd latchDet).trans <| latchCompute_keeps (hc.sub (by decide)) _ cd <|
    fabEquinox_keeps (hc.sub (by decide)) _ cd rfl

/-- It leaves LEDGER_EPOCH as well. -/
theorem cdEquinox_epoch (hcd : cd < 4) (s : State) (discard : Bool) :
    ((cdEquinox s cd discard).2.fab cd).ledgerEpoch = ((ledgerEquinox s cd discard).2.fab cd).ledgerEpoch := by
  have hc := closed_fabs (fabEquinox (ledgerEquinox s cd discard).2 cd)
  have hfabs : (cdEquinox s cd discard).2.fabs = (fabEquinox (ledgerEquinox s cd discard).2 cd).fabs :=
    placeDie_keeps (hc.sub (by decide)) _ cd _ <| rapply_keeps (hc.sub (by decide)) _ _ _ <|
      (modDet_fabs _ cd latchDet).trans <| latchCompute_keeps (hc.sub (by decide)) _ cd rfl
  rw [fab_of_fabs hfabs, fabEquinox, fab_modFab hcd]

/-- A die that has recorded EP takes launches again, its drain marks cleared (R52, R75). -/
def readyDie (ep : Nat) (x : DieSt) : DieSt := { x with ep := ep, refusing := false, doneSent := false, drainedSent := false }

/-- The end of R75 on a die: EP is recorded, and COMMITTED reports. -/
def equinoxReported (s : State) (d : Die) (ep : Nat) (discard : Bool) (r : Nat × State) : State :=
  sendMsg (modDie r.2 d (readyDie ep)) d .svc 3 (leBytes 4 s.seqr.closed.toNat ++ leBytes 2 r.1 ++ [BitVec.ofNat 8 (b2n discard), 0])

theorem equinoxDie_cd (hlive : liveDie s d = true) (hcd : d.cdIdx = some cd) (ep : Nat) (discard : Bool) :
    equinoxDie s d ep discard = equinoxReported s d ep discard (cdEquinox s cd discard) := by
  unfold equinoxDie
  rw [hlive, hcd]
  rfl

theorem equinoxDie_eye (hlive : liveDie s .eye = true) (ep : Nat) (discard : Bool) :
    equinoxDie s .eye ep discard = equinoxReported s .eye ep discard (0, eyeEquinox s) := by
  unfold equinoxDie
  rw [hlive]
  rfl

theorem equinoxReported_die (s : State) (d : Die) (ep : Nat) (discard : Bool) (r : Nat × State) :
    (equinoxReported s d ep discard r).die d = readyDie ep (r.2.die d) := by
  rw [equinoxReported, die_of_dies (sendMsg_dies ..), die_modDie]

theorem equinoxReported_ledgers (s : State) (d : Die) (ep : Nat) (discard : Bool) (r : Nat × State) :
    (equinoxReported s d ep discard r).ledgers = r.2.ledgers := sendMsg_ledgers ..

theorem equinoxReported_fab (s : State) (d : Die) (ep : Nat) (discard : Bool) (r : Nat × State) (cd : Nat) :
    (equinoxReported s d ep discard r).fab cd = r.2.fab cd := fab_of_fabs (sendMsg_fabs ..) cd

theorem eyeEquinox_ledgers (s : State) : (eyeEquinox s).ledgers = s.ledgers := by
  have hc := closed_ledgers s
  exact rapply_keeps (hc.sub (by decide)) _ _ _ <| imageEquinox_keeps (hc.sub (by decide)) s _ rfl

/-- What an EQUINOX token that settles a die's ledger leaves: the ledger as settled, its epoch, and the die ready. -/
theorem equinoxDie_settles (hlive : liveDie s d = true) (hcd : d.cdIdx = some cd) (ep : Nat) {discard : Bool}
    {l : Vector (List (Nat × LedgerLine)) 4} (hledgers : (ledgerEquinox s cd discard).2.ledgers = l)
    (hepoch : ((ledgerEquinox s cd discard).2.fab cd).ledgerEpoch = s.seqr.closed) :
    (equinoxDie s d ep discard).ledgers = l ∧ ((equinoxDie s d ep discard).fab cd).ledgerEpoch = s.seqr.closed ∧
      ((equinoxDie s d ep discard).die d).ep = ep ∧ ((equinoxDie s d ep discard).die d).refusing = false ∧
      ((equinoxDie s d ep discard).die d).drainedSent = false ∧ ((equinoxDie s d ep discard).die d).doneSent = false := by
  rw [equinoxDie_cd hlive hcd, equinoxReported_ledgers, equinoxReported_fab, equinoxReported_die, cdEquinox_ledgers,
    cdEquinox_epoch (cdIdx_lt hcd), hepoch]
  exact ⟨hledgers, rfl, rfl, rfl, rfl, rfl⟩

end Die

/-! ### The commands of a die -/

section Commands
variable {s s1 : State} {f : SbFrame} {w : BitVec 48}

theorem exec_equinox_taken (hport : portOk s f.port = true) (htake : takeToken s f = (some w, s1)) (htyp : tokType w = 5)
    (hact : tokAct w % 2 = 0) : exec (.equinox f) s = .next (equinoxDie s1 f.port.die (tokEp w) false) := by
  rw [exec_equinox, execEquinox, onToken_taken hport htake htyp, nbit_zero, hact, if_neg (by decide)]

theorem exec_equinoxDiscard_taken (hport : portOk s f.port = true) (htake : takeToken s f = (some w, s1)) (htyp : tokType w = 5)
    (hact : tokAct w % 2 = 1) : exec (.equinoxDiscard f) s = .next (equinoxDie s1 f.port.die (tokEp w) true) := by
  rw [exec_equinoxDiscard, execEquinoxDiscard, onToken_taken hport htake htyp, nbit_zero, hact, if_pos (by decide)]

end Commands

/-- Settles O20: the ledger is settled, and the steps after it leave it so; the EYE has no ledger; SVC notes the report. -/
theorem equinoxCommits : Obligations.EquinoxCommits := by
  unfold Obligations.EquinoxCommits
  refine ⟨?commit, ?discard, ?eye, ?noted⟩
  case commit =>
    intro f w cd s s1 hport htake htyp hcd hlive hhv hact
    exact ⟨_, exec_equinox_taken hport htake htyp hact, equinoxDie_settles hlive hcd _ (ledgerEquinox_commit_ledgers hhv)
      (ledgerEquinox_commit_epoch (cdIdx_lt hcd) hhv)⟩
  case discard =>
    intro f w cd s s1 hport htake htyp hcd hlive hact
    exact ⟨_, exec_equinoxDiscard_taken hport htake htyp hact, equinoxDie_settles hlive hcd _ (ledgerEquinox_discard_ledgers s1 cd)
      (ledgerEquinox_discard_epoch (cdIdx_lt hcd) s1)⟩
  case eye =>
    intro f w s s1 hport htake htyp hdie hlive hact
    refine ⟨_, exec_equinox_taken hport htake htyp hact, ?_⟩
    rw [hdie, equinoxDie_eye hlive, equinoxReported_ledgers, equinoxReported_die]
    exact ⟨eyeEquinox_ledgers s1, rfl, rfl, rfl, rfl⟩
  case noted =>
    intro r x d s s1 hport hrecv hvc hkind harg hdie hsrc
    rw [exec_committed, execCommitted, onMsg_taken hport hrecv hvc hkind harg, svcFrom_of hdie hsrc]
    dsimp only
    rw [nbit_zero]
    by_cases hodd : leAt x.payload 6 1 % 2 = 1
    · rw [if_pos hodd, decide_eq_true hodd, if_pos rfl]
    · rw [if_neg hodd, decide_eq_false hodd, if_neg Bool.false_ne_true]

/-! ### The tokens that SVC sends (R60, R72) -/

section Resend
variable {s : State} {d : Die} {p : PortId}

/-- While a die owes its COMMITTED, a resend is counted and the token goes out: the fourth with ACT bit 0 set. -/
theorem exec_equinoxResend_of_owing (hlive : liveDie s d = true) (harmed : s.seqr.armed = true) (hkilled : s.seqr.killed = false)
    (hseen : (s.die d).committedSeen = false) (hresends : (s.die d).resends < 4) :
    exec (.equinoxResend d) s = .next (
      let s1 := modDie s d fun x => { x with resends := x.resends + 1 }
      if (s.die d).resends < 3 then equinoxToken s1 false d else summaryCheck (missEquinox (equinoxToken s1 true d) d)) := by
  obtain ⟨hsvc, hfit⟩ := liveDie_guards hlive
  rw [exec_equinoxResend, execEquinoxResend, onUnit_of (by rw [bne_iff_ne.mpr hsvc, hfit]; rfl)]
  dsimp only
  rw [hkilled, harmed, hlive, hseen, decide_eq_false (by omega)]
  rfl

/-- The token to a die whose resend has been counted. -/
theorem equinoxToken_routed (hsvc : d ≠ .svc) (hroute : relayPort s .svc d.code = some p) (f : DieSt → DieSt) (discard : Bool) :
    equinoxToken (modDie s d f) discard d = { s with
      dies := vmod s.dies d.idx f
      out := s.out ++ [.token p (tokenWord 5 d.code 0 0 (b2n discard) 0 (s.seqr.epoch.toNat % 8))] } :=
  svcToken_routed (s := modDie s d f) hsvc hroute ..

end Resend

/-- Settles O21: which equinox runs, and the token that each resend sends. -/
theorem equinoxSent : Obligations.EquinoxSent := by
  unfold Obligations.EquinoxSent
  refine ⟨?send, ?resend, ?miss⟩
  case send =>
    intro s harmed
    rw [exec_equinoxSend, execEquinoxSend, harmed]
    rfl
  case resend =>
    intro d p s hlive harmed hkilled hseen hresends hroute
    rw [exec_equinoxResend_of_owing hlive harmed hkilled hseen (by omega)]
    dsimp only
    rw [if_pos hresends, equinoxToken_routed (liveDie_guards hlive).1 hroute]
    rfl
  case miss =>
    intro d p s hlive harmed hkilled hseen hresends hroute
    rw [exec_equinoxResend_of_owing hlive harmed hkilled hseen (by omega)]
    dsimp only
    rw [if_neg (by omega), equinoxToken_routed (liveDie_guards hlive).1 hroute]
    rfl

end Sys2Proof.Proofs
end

section
/-! PROOF. Placement groups: how an entry starts on a cluster, how streams fill the input buffer, how a band is taken, and what a
frame abort leaves (R299, R300, R304). -/
namespace Sys2Proof.Proofs
open Sys2Proof Sys2Proof.Machine Sys2Proof.Laws

theorem exec_runGroup (f : SbFrame) (s : State) : exec (.runGroup f) s = execRunGroup f s := rfl
theorem exec_groupBandProcess (cd k : Nat) (jobs wide : List LayerJob) (fault : ProgFault) (hv : HvInput) (s : State) :
    exec (.groupBandProcess cd k jobs wide fault hv) s = execGroupBandProcess cd k jobs wide fault hv s := rfl
theorem exec_frameAbort (r : LinkRx) (s : State) : exec (.frameAbort r) s = execFrameAbort r s := rfl

/-! ### RUN_GROUP (R300, R304) -/

section Start
variable {s s1 : State} {cd k : Nat} {g : GroupDesc} {l : Launched}

theorem exec_runGroup_ready {f : SbFrame} {w : BitVec 48} {e : LaunchEntry} (h : LaunchReady s f 0x10 w s1 e)
    (hdie : f.port.die = Die.ofCd cd) (hunit : tokUnit w = k) (hk : k < 4) :
    exec (.runGroup f) s =
      .next (startGroup (running s1 (Die.ofCd cd) k (launchedBy s1 w e)) (Die.ofCd cd) k (launchedBy s1 w e)) := by
  rw [exec_runGroup, execRunGroup,
    onLaunch_ready h (u := k) (by rw [hdie, isCd_ofCd]) (by rw [hunit, clusterUnit, decide_eq_true hk, Bool.true_or])
      (by rw [hunit, Nat.mod_eq_of_lt (by omega)]) (by rw [hunit, unitsNamed_of_lt (by omega)]), hdie]

section Usable
variable (hcd : cd < 4)
include hcd

/-- On a cluster that is off, disabled or FAILED the entry is missed. -/
theorem startGroup_of_unusable (h : clusterUsable (s.cl cd k) = false) :
    startGroup s (Die.ofCd cd) k l = missEntry (unitDone s (Die.ofCd cd) k) (Die.ofCd cd) := by
  unfold startGroup
  simp only [cdIdx_ofCd hcd, h, Bool.not_false, if_true]

theorem startGroup_of_usable (h : clusterUsable (s.cl cd k) = true) (hgroup : groupOf s cd l.arg.toNat = some g)
    (habort : (s.cdie cd).aborted = false) :
    startGroup s (Die.ofCd cd) k l = beginEntry s cd k g.index g.bandFirst l := by
  unfold startGroup
  simp only [cdIdx_ofCd hcd, h, hgroup, habort, Bool.not_true, Bool.false_eq_true, if_false]

/-- With a descriptor that the placement does not hold, or in an aborted epoch, the entry ends at once. -/
theorem startGroup_ends (h : clusterUsable (s.cl cd k) = true)
    (hend : groupOf s cd l.arg.toNat = none ∨ (s.cdie cd).aborted = true) :
    startGroup s (Die.ofCd cd) k l = unitDone s (Die.ofCd cd) k := by
  unfold startGroup
  simp only [cdIdx_ofCd hcd, h, Bool.not_true, Bool.false_eq_true, if_false]
  cases hgroup : groupOf s cd l.arg.toNat with
  | none => rfl
  | some g =>
    have habort : (s.cdie cd).aborted = true := hend.resolve_left fun hnone => nomatch hgroup.symm.trans hnone
    exact if_pos habort

end Usable

/-- A cluster that begins an entry. -/
def begunCluster (now desc band : Nat) (l : Launched) (c : Cluster) : Cluster :=
  { c with
    state := .running, group := desc, band := band, started := now, late := now - l.arrived
    lateNow := max c.lateNow (now - l.arrived), lastErr := 0 }

theorem beginEntry_cl (hcd : cd < 4) (hk : k < 4) (s : State) (desc band : Nat) (l : Launched) :
    (beginEntry s cd k desc band l).cl cd k = begunCluster s.now desc band l (s.cl cd k) := cl_modCl_same hcd hk s _

theorem unitOf_beginEntry (s : State) (desc band : Nat) (l : Launched) (d : Die) (u : Nat) :
    unitOf (beginEntry s cd k desc band l) d u = unitOf s d u := rfl

end Start

/-! ### STREAM (R299) -/

section Stream
variable {s s1 : State} {cd : Nat} {g : GroupDesc} {x : Parcel}

theorem ne_eye_of_cdIdx {d : Die} (h : d.cdIdx = some cd) : d ≠ .eye := by
  rintro rfl
  cases h

theorem exec_stream_taken {r : LinkRx} (hport : portOk s r.port = true) (hrecv : linkReceive s r = (some x, s1)) (hvc : x.vc = 1)
    (hkind : x.kind = 0) (hcd : r.port.die.cdIdx = some cd) : exec (.stream r) s = .next (takeStream s1 cd x) := by
  rw [exec_stream, execStream, onParcel_taken hport hrecv hvc hkind, beq_eq_false_iff_ne.mpr (ne_eye_of_cdIdx hcd), if_neg Bool.false_ne_true, takeVc1, hcd]

theorem takeStream_of_unknown (h : streamMatch s cd x.src x.tag = none) :
    takeStream s cd x = logOnly s (Die.ofCd cd) 4 0 Code.streamUnknown 1 (args4 [x.tag, x.src]) := by
  rw [takeStream, h]

theorem inputBytes_plain (h : x.comp = false) : inputBytes s cd g x = (x.payload, s) := by
  rw [inputBytes, h]
  rfl

/-- The first plain parcel of a band of a stream that has no halo. -/
theorem takeStream_first (hmatch : streamMatch s cd x.src x.tag = some g) (habort : (s.cdie cd).aborted = false)
    (hplain : x.comp = false) (hkind : g.inKind = 0) (hfirst : inBandOf (s.cdie cd) g.index x.arg = none) :
    takeStream s cd x = modComp (storeInput s cd g x.arg 0 x.payload .stream) cd fun c =>
      countInput c g.index x.arg x.payload.length x.last := by
  unfold takeStream
  rw [hmatch]
  dsimp only
  rw [habort, if_neg Bool.false_ne_true, hfirst, inputBytes_plain hplain, hkind]
  rfl

/-- The first arrival of a band stands alone for it. -/
theorem inBandOf_countInput {c : Compute} {desc band : Nat} (h : inBandOf c desc band = none) (n : Nat) (last : Bool) :
    inBandOf (countInput c desc band n last) desc band = some { desc := desc, band := band, bytes := n, last := last } := by
  have hothers : (c.inputs.filter fun b => !(b.desc == desc && b.band == band)).find? (fun b => b.desc == desc && b.band == band) =
      none := by
    rw [List.find?_eq_none]
    intro b hb hsame
    have hnot := (List.mem_filter.mp hb).2
    rw [hsame] at hnot
    exact Bool.false_ne_true hnot
  rw [countInput, h, inBandOf, List.find?_append, hothers, Option.none_or, Option.getD_none]
  simp only [List.find?_cons, BEq.rfl, Bool.and_self, Nat.zero_add, Bool.false_or]

theorem storeInput_cdie (s : State) (cd : Nat) (g : GroupDesc) (band n : Nat) (bs : List Byte) (w : Writer) (cd' : Nat) :
    (storeInput s cd g band n bs w).cdie cd' = s.cdie cd' :=
  cdie_of_comp (storeInput_keeps ((closed_comp s).sub (by decide)) s cd g band n bs w rfl) cd'

theorem storeInput_regs (s : State) (cd : Nat) (g : GroupDesc) (band n : Nat) (bs : List Byte) (w : Writer) :
    (storeInput s cd g band n bs w).regs = s.regs := storeInput_keeps ((closed_regs s).sub (by decide)) s cd g band n bs w rfl

end Stream

/-! ### GROUP_BAND_PROCESS (R300) -/

section Band
variable {s : State} {cd k : Nat} {g : GroupDesc} {b : Launched} {jobs wide : List LayerJob} {hv : HvInput}

theorem exec_groupBandProcess_fitted (hcd : cdOk s cd = true) (hk : k < 4) (fault : ProgFault) :
    exec (.groupBandProcess cd k jobs wide fault hv) s = .next (processBand s cd k jobs wide fault hv) := by
  rw [exec_groupBandProcess, execGroupBandProcess, onUnit_cdOk_lt hcd hk]

/-- A group of one cluster. -/
theorem groupNamed_of_one (hk : k < 4) (h : g.clusters = 2 ^ k) : groupNamed g = [k] := by
  rw [groupNamed, h]
  rcases eq_of_lt_four hk with rfl | rfl | rfl | rfl
  all_goals rfl

/-- A cluster without a running entry takes no band. -/
theorem processBand_of_resting (h : clusterBusy (s.cl cd k) = false) (fault : ProgFault) : processBand s cd k jobs wide fault hv = s := by
  unfold processBand
  dsimp only
  rw [h]
  split
  · rfl
  · rfl

/-- A program fault ends the entry. -/
theorem processBand_of_fault (hgroup : groupOf s cd (s.cl cd k).group = some g) (hbusy : (unitOf s (Die.ofCd cd) k).busy = some b)
    (hrun : clusterBusy (s.cl cd k) = true) {fault : ProgFault} {e : Nat} (hfault : faultErr fault = some e) :
    processBand s cd k jobs wide fault hv = jobFails s cd k ⟨e, none, 0⟩ := by
  unfold processBand
  dsimp only
  rw [hgroup, hbusy]
  dsimp only
  rw [hrun, Bool.not_true, if_neg Bool.false_ne_true, hfault]

/-- A band of a group of one cluster waits for its input, or goes by its halo. -/
theorem processBand_of_one (hk : k < 4) (hgroup : groupOf s cd (s.cl cd k).group = some g)
    (hbusy : (unitOf s (Die.ofCd cd) k).busy = some b) (hact : b.act ≠ 0x12) (hone : g.clusters = 2 ^ k)
    (hrun : clusterBusy (s.cl cd k) = true) (hprog : hvProgOf s cd g.index = none) :
    processBand s cd k jobs wide .none hv =
      if bandIn s cd g (s.cl cd k).band = false then waitFor s cd [k] else bandHalo s cd [k] g jobs wide (s.cl cd k).band := by
  unfold processBand
  dsimp only
  rw [hgroup, hbusy]
  dsimp only [faultErr]
  rw [hrun, Bool.not_true, if_neg Bool.false_ne_true, beq_eq_false_iff_ne.mpr hact, if_neg Bool.false_ne_true,
    groupNamed_of_one hk hone, hprog, List.all_cons, List.all_nil, hrun, BEq.rfl, BEq.rfl, Bool.and_self, Bool.and_self,
    Bool.and_self, Bool.not_true, if_neg Bool.false_ne_true]
  dsimp only
  simp only [Bool.not_eq_true']

theorem bandHalo_of_ready {ks : List Nat} {band : Nat}
    (h : haloNeed s cd g (layerAt s cd (ks.headD 0) (jobs.headD default)) band = .ready) :
    bandHalo s cd ks g jobs wide band =
      bandWork (modComp (runAgain s cd ks) cd fun c => { c with waiting := false }) cd ks g jobs wide band := by
  unfold bandHalo
  dsimp only
  rw [h]

theorem jobFails_unit (hk : k < 4) (s : State) (cd : Nat) (e : JobErr) : (unitOf (jobFails s cd k e) (Die.ofCd cd) k).busy = none := by
  unfold jobFails
  dsimp only
  rw [unitOf_of_dies (markPartial_keeps ((closed_dies _).sub (by decide)) _ _ rfl), unitOf_unitDone (by omega)]

end Band

/-! ### FRAME_ABORT (R304) -/

section Abort
variable {s : State} {cd : Nat} {c : Compute}

/-- The compute side of a die is that of c but for the clusters. -/
def SameButClusters (c : Compute) (t : State) (cd : Nat) : Prop := ∃ cls, t.cdie cd = { c with clusters := cls }

theorem SameButClusters.of_comp {t : State} (h : SameButClusters c s cd) (hcomp : t.comp = s.comp) : SameButClusters c t cd := by
  unfold SameButClusters
  rwa [cdie_of_comp hcomp]

theorem SameButClusters.modCl (hcd : cd < 4) (h : SameButClusters c s cd) (k : Nat) (f : Cluster → Cluster) :
    SameButClusters c (modCl s cd k f) cd := by
  obtain ⟨cls, hcls⟩ := h
  unfold SameButClusters Machine.modCl
  rw [cdie_modComp hcd, hcls]
  exact ⟨_, rfl⟩

/-- The end of an entry of a cluster touches clusters alone. -/
theorem SameButClusters.abortCluster (hcd : cd < 4) (h : SameButClusters c s cd) (k : Nat) :
    SameButClusters c (abortCluster s cd k) cd := by
  unfold Machine.abortCluster
  dsimp only
  split
  · split
    · exact h.of_comp (modUnit_keeps ((closed_comp s).sub (by decide)) s _ k _ rfl)
    · split
      · rw [endEntry_eq]
        refine SameButClusters.of_comp ?_ (unitDone_keeps ((closed_comp _).sub (by decide)) _ _ k rfl)
        exact (h.of_comp (modUnit_keeps ((closed_comp s).sub (by decide)) s _ k _ rfl)).modCl hcd k _
      · exact h.of_comp (unitDone_keeps ((closed_comp s).sub (by decide)) _ _ k (modUnit_keeps ((closed_comp s).sub (by decide)) s _ k _ rfl))
  · exact h.of_comp (modUnit_keeps ((closed_comp s).sub (by decide)) s _ k _ rfl)

/-- The compute side of a die as an abort leaves it: what was received is dropped, and every halo that is not committed (R304). -/
def abortedCompute (c : Compute) : Compute :=
  { c with
    aborted := true, aborts := c.aborts + 1, inputs := [], slots := c.slots.map fun q => { q with aborted := true }
    halos := c.halos.filter (·.committed), heldRows := [], waiting := false
    countNow := { c.countNow with
      discard := c.countNow.discard + toWord (((c.halos.filter fun h => !h.committed && !h.revoked).map (·.parcels)).sum) } }

theorem abortAt_of_done (h : (s.die (Die.ofCd cd)).doneSent = true) :
    abortAt s cd = modComp s cd fun c => { c with aborted := true } := by
  unfold abortAt
  dsimp only
  rw [h, if_pos rfl]

/-- Before EPOCH_DONE an abort drops what was received and ends the entries. -/
theorem abortAt_cdie (hcd : cd < 4) (h : (s.die (Die.ofCd cd)).doneSent = false) :
    SameButClusters (abortedCompute (s.cdie cd)) (abortAt s cd) cd := by
  unfold abortAt
  dsimp only
  rw [h, if_neg Bool.false_ne_true]
  generalize hdropped : dropHalos _ cd = t
  have hstart : SameButClusters (abortedCompute (s.cdie cd)) t cd := by
    refine ⟨(s.cdie cd).clusters, ?_⟩
    rw [← hdropped, dropHalos, cdie_modComp hcd, discardHalo, cdie_modComp hcd, cdie_modComp hcd]
    rfl
  have hclusters : SameButClusters (abortedCompute (s.cdie cd)) ([0, 1, 2, 3].foldl (fun t k => abortCluster t cd k) t) cd :=
    foldl_keeps (P := fun u => SameButClusters (abortedCompute (s.cdie cd)) u cd) (fun u k hu => hu.abortCluster hcd k) _ _ hstart
  have hqueue := hclusters.of_comp (t := modUnit ([0, 1, 2, 3].foldl (fun t k => abortCluster t cd k) t) (Die.ofCd cd) 5
    fun u => { u with queued := none }) rfl
  split
  · exact hqueue.of_comp (detectAbort_keeps ((closed_comp _).sub (by decide)) _ cd rfl)
  · exact hqueue

theorem exec_frameAbort_taken {s1 : State} {r : LinkRx} {x : Parcel} (hport : portOk s r.port = true)
    (hrecv : linkReceive s r = (some x, s1)) (hvc : x.vc = 0) (hkind : x.kind = 8) (harg : x.arg = 4)
    (hdie : r.port.die = Die.ofCd cd) (hcd : cd < 4) : exec (.frameAbort r) s = .next (abortAt s1 cd) := by
  rw [exec_frameAbort, execFrameAbort, onMsg_taken hport hrecv hvc hkind harg, hdie, cdIdx_ofCd hcd]

end Abort

/-- Settles O35: a token starts its entry, ends it or is missed; a stream is stored and counted; a band waits, is worked on or fails;
an abort sets ABORTED and drops what may be dropped. -/
theorem groupsAndStreams : Obligations.GroupsAndStreams := by
  unfold Obligations.GroupsAndStreams
  refine ⟨?start, ?ends, ?missed, ?unknown, ?stored, ?band, ?fault, ?resting, ?abort⟩
  case start =>
    intro f w e g cd k s s1 hready hdie hcd hunit hk husable hgroup habort
    refine ⟨beginEntry (running s1 (Die.ofCd cd) k (launchedBy s1 w e)) cd k g.index g.bandFirst (launchedBy s1 w e), ?_, rfl, ?_⟩
    · rw [exec_runGroup_ready hready hdie hunit hk]
      exact congrArg Host.Outcome.next (startGroup_of_usable (s := running s1 (Die.ofCd cd) k (launchedBy s1 w e)) hcd husable hgroup habort)
    · rw [beginEntry_cl hcd hk, unitOf_beginEntry]
      exact ⟨rfl, rfl, rfl, rfl, rfl, unitOf_running_of_ready hready hdie hunit (by omega) _⟩
  case ends =>
    intro f w e g cd k s s1 hready hdie hcd hunit hk husable hend
    refine ⟨unitDone (running s1 (Die.ofCd cd) k (launchedBy s1 w e)) (Die.ofCd cd) k, ?_, rfl, ?_, ?_⟩
    · rw [exec_runGroup_ready hready hdie hunit hk]
      exact congrArg Host.Outcome.next (startGroup_ends (s := running s1 (Die.ofCd cd) k (launchedBy s1 w e)) hcd husable hend)
    · rw [unitOf_unitDone (by omega), unitOf_running_of_ready hready hdie hunit (by omega)]
    · rw [unitDone, modUnit, die_modDie]
      exact die_running_missed ..
  case missed =>
    intro f w e cd k s s1 hready hdie hcd hunit hk husable
    have hexec : exec (.runGroup f) s = .next (missEntry (unitDone (running s1 (Die.ofCd cd) k (launchedBy s1 w e)) (Die.ofCd cd) k)
        (Die.ofCd cd)) := by
      rw [exec_runGroup_ready hready hdie hunit hk]
      exact congrArg Host.Outcome.next (startGroup_of_unusable (s := running s1 (Die.ofCd cd) k (launchedBy s1 w e)) hcd husable)
    obtain ⟨hidle, hcount⟩ := missed_unitDone (u := k) (by omega) (running s1 (Die.ofCd cd) k (launchedBy s1 w e)) (Die.ofCd cd)
    refine ⟨_, hexec, (execRunGroup_keeps (closed_sameBut 0x60202045a10 s rfl) f s (SameBut.refl _ s)).of _ hexec, ?_, ?_,
      missEntry_degraded _ _⟩
    · rw [hidle, unitOf_running_of_ready hready hdie hunit (by omega)]
    · rw [hcount, die_running_missed]
  case unknown =>
    intro r x cd s s1 hport hrecv hvc hkind hcd hmatch
    rw [exec_stream_taken hport hrecv hvc hkind hcd, takeStream_of_unknown hmatch]
  case stored =>
    intro r x cd g s s1 hport hrecv hvc hkind hplain hcd hmatch hin habort hfirst
    have hexec := (exec_stream_taken hport hrecv hvc hkind hcd).trans
      (congrArg Host.Outcome.next (takeStream_first hmatch habort hplain hin hfirst))
    refine ⟨_, hexec, (execStream_keeps (closed_sameBut 0x6060a644a18 s rfl) r s (SameBut.refl _ s)).of _ hexec, ?_⟩
    rw [cdie_modComp (cdIdx_lt hcd), storeInput_cdie]
    exact ⟨inBandOf_countInput hfirst _ _, rfl, storeInput_regs .., rfl⟩
  case band =>
    intro cd k jobs wide hv g b s hcd hk hgroup hbusy hact hone hrun hprog
    rw [exec_groupBandProcess_fitted hcd hk, processBand_of_one hk hgroup hbusy hact hone hrun hprog]
    refine ⟨fun hin => by rw [if_pos hin], fun hin hready => ?_⟩
    rw [if_neg (by rw [hin]; decide), bandHalo_of_ready (ks := [k]) hready]
  case fault =>
    intro cd k jobs wide hv g b s hcd hk hgroup hbusy hrun
    have hexec := (exec_groupBandProcess_fitted (jobs := jobs) (wide := wide) (hv := hv) hcd hk .badAddress).trans
      (congrArg Host.Outcome.next (processBand_of_fault hgroup hbusy hrun (e := 2) rfl))
    obtain ⟨hlt, -⟩ := and_of_cdOk hcd
    obtain ⟨herr, hidle⟩ := jobFails_cl hlt hk s ⟨2, none, 0⟩
    exact ⟨_, hexec, (execGroupBandProcess_keeps (closed_sameBut 0x60216643a08 s rfl) cd k _ _ _ _ s (SameBut.refl _ s)).of _ hexec,
      hidle, herr, jobFails_unit hk s cd _, jobFails_partialEp .., jobFails_keeps ((closed_mem s).sub (by decide)) s cd k _ rfl⟩
  case resting =>
    intro cd k jobs wide fault hv s hcd hk hrest
    rw [exec_groupBandProcess_fitted hcd hk, processBand_of_resting hrest]
  case abort =>
    intro r x cd s s1 hport hrecv hvc hkind harg hdie hcd
    refine ⟨_, exec_frameAbort_taken hport hrecv hvc hkind harg hdie hcd, ?_⟩
    cases hdone : (s1.die (Die.ofCd cd)).doneSent with
    | true =>
      rw [abortAt_of_done hdone, cdie_modComp hcd]
      exact ⟨rfl, fun _ => ⟨rfl, rfl⟩, fun h => absurd h (by decide)⟩
    | false =>
      obtain ⟨cls, hcls⟩ := abortAt_cdie hcd hdone
      rw [hcls]
      exact ⟨rfl, fun h => absurd h (by decide), fun _ => ⟨rfl, rfl, rfl, fun h hh => (List.mem_filter.mp hh).2⟩⟩

end Sys2Proof.Proofs
end

section
/-! PROOF. Halo versions at their consumer: the parcels that bring one, and the tokens that commit and revoke it (R370, R371, R372). -/
namespace Sys2Proof.Proofs
open Sys2Proof Sys2Proof.Machine Sys2Proof.Laws

theorem exec_halo (r : LinkRx) (s : State) : exec (.halo r) s = execHalo r s := rfl
theorem exec_commit (f : SbFrame) (s : State) : exec (.commit f) s = execCommit f s := rfl
theorem exec_revoke (f : SbFrame) (s : State) : exec (.revoke f) s = execRevoke f s := rfl

/-! ### HALO parcels (R370) -/

section Parcel
variable {s s1 : State} {cd : Nat} {g : GroupDesc} {x : Parcel}

theorem exec_halo_taken {r : LinkRx} (hport : portOk s r.port = true) (hrecv : linkReceive s r = (some x, s1)) (hvc : x.vc = 4)
    (hkind : x.kind = 0) (hcd : r.port.die.cdIdx = some cd) : exec (.halo r) s = .next (takeHalo s1 cd x) := by
  rw [exec_halo, execHalo, onParcel_taken hport hrecv hvc hkind, hcd]

/-- In an aborted epoch the parcel is discarded and counted. -/
theorem takeHalo_of_aborted (hmatch : haloMatch s cd x.src x.tag = some g) (habort : (s.cdie cd).aborted = true)
    (hnone : (s.cdie cd).halos = []) : takeHalo s cd x = discardHalo s cd 1 := by
  unfold takeHalo
  rw [hmatch]
  dsimp only
  rw [hnone, List.any_nil, if_neg Bool.false_ne_true, habort, if_pos rfl]

/-- The version that a first parcel records; a version that is final and not speculative is committed by its LAST (R370). -/
def firstVersion (x : Parcel) : HaloVer :=
  { tag := x.tag, src := x.src, band := x.arg / 256, version := x.arg % 256, spec := x.spec
    bytes := x.payload.length, parcels := 1, last := x.last, committed := x.last && !x.spec }

/-- The compute side of a die with the first version of a halo. -/
def versionRecorded (desc : Nat) (x : Parcel) (c : Compute) : Compute :=
  { c with
    halos := [firstVersion x]
    heldRows := if x.last && !x.spec then c.heldRows.filter fun e => e.1 != desc else c.heldRows }

/-- With no halo there is nothing to revoke. -/
theorem revokeHalos_none {c : Compute} (h : c.halos = []) (p : HaloVer → Bool) (desc : Option Nat) : revokeHalos c p desc = c := by
  have hcount : c.countNow.revokes + toWord 0 = c.countNow.revokes := BitVec.add_zero _
  have hsame : { c with halos := [] } = c := by rw [← h]
  unfold revokeHalos
  rw [h]
  dsimp only [List.filter_nil, List.length_nil, List.map_nil]
  rw [hcount, if_pos BEq.rfl]
  exact hsame

theorem modComp_congr {f h : Compute → Compute} (heq : f (s.cdie cd) = h (s.cdie cd)) : modComp s cd f = modComp s cd h := by
  unfold modComp
  rw [heq]

theorem takeHalo_first (hmatch : haloMatch s cd x.src x.tag = some g) (habort : (s.cdie cd).aborted = false)
    (hnone : (s.cdie cd).halos = []) (hplain : x.comp = false) :
    takeHalo s cd x = modComp (storeInput s cd g (x.arg / 256) 0 x.payload .halo) cd (versionRecorded g.index x) := by
  have hnewest : newestOf (s.cdie cd) x.src x.tag (x.arg / 256) = none := by
    unfold newestOf
    rw [hnone]
    rfl
  unfold takeHalo
  rw [hmatch]
  dsimp only
  rw [hnewest, hnone, List.any_nil, if_neg Bool.false_ne_true, habort, if_neg Bool.false_ne_true, List.find?_nil, inputBytes_plain hplain]
  refine (if_neg (by simp)).trans (modComp_congr ?_)
  rw [storeInput_cdie, revokeHalos_none hnone, versionRecorded, firstVersion]
  simp only [Option.getD_none, hnone, releaseHeld, List.filter_nil, List.nil_append, Bool.false_or, Nat.zero_add, Bool.false_eq_true,
    if_false]
  cases hfinal : x.last && !x.spec with
  | true => simp only [HaloVer.same, List.map_cons, List.map_nil, BEq.rfl, Bool.and_self, if_true]
  | false => simp only [Bool.false_eq_true, if_false]

end Parcel

/-! ### COMMIT and REVOKE tokens (R371, R372) -/

section Token
variable {s s1 : State} {cd : Nat} {f : SbFrame} {w : BitVec 48} {v : HaloVer} {typ : Nat}
  {take : State → Nat → Nat → Nat → Nat → State}

/-- A token of the epoch in hand takes its effect at a compute die. -/
theorem onHaloToken_taken (hport : portOk s f.port = true) (htake : takeToken s f = (some w, s1)) (htyp : tokType w = typ)
    (hcd : f.port.die.cdIdx = some cd) (hep : tokEp w = (s1.die f.port.die).ep % 8) :
    onHaloToken s f typ take = .next (take s1 cd (tokSrc w) (tokUnit w) (tokAct w)) := by
  rw [onHaloToken, onToken_taken hport htake htyp, hcd]
  dsimp only
  rw [hep, if_pos BEq.rfl]

/-- A token of another epoch does nothing (R52). -/
theorem onHaloToken_stale (hport : portOk s f.port = true) (htake : takeToken s f = (some w, s1))
    (hcd : f.port.die.cdIdx = some cd) (hep : tokEp w ≠ (s1.die f.port.die).ep % 8) : onHaloToken s f typ take = .next s1 := by
  rw [onHaloToken, onToken, onUnit_portOk hport, htake, hcd]
  dsimp only
  rw [beq_eq_false_iff_ne.mpr hep, if_neg Bool.false_ne_true, ite_self]

/-- A version once revoked is never committed. -/
theorem commitHalos_of_revoked {c : Compute} (h : c.halos = [{ v with revoked := true }]) (p : HaloVer → Bool) (implicit : Bool) :
    (commitHalos c p implicit).halos = c.halos := by
  unfold commitHalos
  dsimp only
  rw [h]
  simp only [List.map_cons, List.map_nil, Bool.not_true, Bool.and_false, Bool.false_and, Bool.false_eq_true, if_false]

/-- A token names a version by its source, its tag and its number (R371). -/
theorem named_of {src tag ver : Nat} (hsrc : v.src = src) (htag : v.tag = tag) (hver : v.version = ver) :
    (v.src == src && v.tag == tag && v.version == ver) = true := by
  rw [hsrc, htag, hver, BEq.rfl, BEq.rfl, BEq.rfl, Bool.and_self, Bool.and_self]

/-- A version that is held and named is committed once its LAST parcel has come, and then counted. -/
theorem commitHalos_single {c : Compute} {p : HaloVer → Bool} (h : c.halos = [v]) (hp : p v = true) (hopen : v.committed = false)
    (hvalid : v.revoked = false) :
    (commitHalos c p false).halos = [{ v with committed := v.last }] ∧
      (commitHalos c p false).countNow.commits = c.countNow.commits + (if v.last then 1 else 0) := by
  have hdue : (p v && !v.committed && !v.revoked && v.last) = v.last := by rw [hp, hopen, hvalid]; rfl
  unfold commitHalos
  dsimp only
  simp only [h, List.filter_cons, List.map_cons, hdue]
  by_cases hlast : v.last = true
  · simp only [if_pos hlast]
    rw [hlast]
    exact ⟨rfl, rfl⟩
  · have hsame : v = { v with committed := v.last } :=
      congrArg (fun b => { v with committed := b }) (hopen.trans (Bool.eq_false_of_not_eq_true hlast).symm)
    simp only [if_neg hlast]
    exact ⟨congrArg (fun h => [h]) hsame, rfl⟩

/-- A version that is held, named and not committed is revoked, and counted. -/
theorem revokeHalos_single {c : Compute} {p : HaloVer → Bool} (h : c.halos = [v]) (hp : p v = true) (hopen : v.committed = false)
    (hvalid : v.revoked = false) (desc : Option Nat) :
    (revokeHalos c p desc).halos = [{ v with revoked := true }] ∧
      (revokeHalos c p desc).countNow.revokes = c.countNow.revokes + 1 := by
  have hdue : (p v && !v.committed && !v.revoked) = true := by rw [hp, hopen, hvalid]; rfl
  unfold revokeHalos
  dsimp only
  simp only [h, List.filter_cons, List.map_cons, hdue]
  exact ⟨rfl, rfl⟩

/-- A COMMIT notes itself at the version it names, commits it and releases its rows once the LAST parcel has come (R371). -/
theorem takeCommit_single {src tag ver : Nat} (hcd : cd < 4) (hheld : (s.cdie cd).halos = [v]) (hsrc : v.src = src)
    (htag : v.tag = tag) (hver : v.version = ver) (hopen : v.committed = false) (hvalid : v.revoked = false) :
    ((takeCommit s cd src tag ver).cdie cd).halos = [{ v with commitSeen := true, committed := v.last }] ∧
      ((takeCommit s cd src tag ver).cdie cd).countNow.commits = (s.cdie cd).countNow.commits + (if v.last then 1 else 0) ∧
      (v.last = false → ((takeCommit s cd src tag ver).cdie cd).heldRows = (s.cdie cd).heldRows) := by
  have hnamed := named_of hsrc htag hver
  obtain ⟨hhalos, hcount⟩ := commitHalos_single (v := { v with commitSeen := true })
    (c := { s.cdie cd with halos := [{ v with commitSeen := true }] })
    (p := fun h => h.src == src && h.tag == tag && h.version == ver) rfl hnamed hopen hvalid
  unfold takeCommit
  dsimp only
  rw [cdie_modComp hcd]
  simp only [hheld, List.any_cons, hnamed, if_true, List.map_cons, List.map_nil, hhalos, List.any_nil, Bool.or_false, Bool.true_and]
  cases hlast : v.last with
  | false =>
    rw [hlast] at hhalos hcount
    exact ⟨hhalos, hcount, fun _ => rfl⟩
  | true =>
    rw [hlast] at hhalos hcount
    refine ⟨?_, ?_, fun h => absurd h (by decide)⟩ <;> rw [if_pos rfl] <;> split
    · exact hhalos
    · exact hhalos
    · exact hcount
    · exact hcount

/-- A REVOKE revokes the version it names (R372). -/
theorem takeRevoke_single {src tag ver : Nat} (hcd : cd < 4) (hheld : (s.cdie cd).halos = [v]) (hsrc : v.src = src)
    (htag : v.tag = tag) (hver : v.version = ver) (hopen : v.committed = false) (hvalid : v.revoked = false) :
    ((takeRevoke s cd src tag ver).cdie cd).halos = [{ v with revoked := true }] ∧
      ((takeRevoke s cd src tag ver).cdie cd).countNow.revokes = (s.cdie cd).countNow.revokes + 1 := by
  have hnamed := named_of hsrc htag hver
  unfold takeRevoke
  dsimp only
  rw [cdie_modComp hcd]
  simp only [hheld, List.any_cons, hnamed, Bool.true_or, if_true]
  exact revokeHalos_single rfl hnamed hopen hvalid _

end Token

/-- Settles O36: a first parcel records its version, an abort discards it; a COMMIT waits for the LAST parcel, a version revoked is
never committed, and a token of another epoch does nothing. -/
theorem halosAndTheirCommit : Obligations.HalosAndTheirCommit := by
  unfold Obligations.HalosAndTheirCommit
  refine ⟨?first, ?aborted, ?commit, ?revoke, ?stale⟩
  case first =>
    intro r x cd g s s1 hport hrecv hvc hkind hplain hcd hmatch habort hnone
    have hexec := (exec_halo_taken hport hrecv hvc hkind hcd).trans
      (congrArg Host.Outcome.next (takeHalo_first hmatch habort hnone hplain))
    refine ⟨_, hexec, (execHalo_keeps (closed_sameBut 0x60202644a10 s rfl) r s (SameBut.refl _ s)).of _ hexec, ?_, rfl, ?_⟩
    · rw [cdie_modComp (cdIdx_lt hcd)]
      rfl
    · rw [cdie_modComp (cdIdx_lt hcd), storeInput_cdie]
      rfl
  case aborted =>
    intro r x cd g s s1 hport hrecv hvc hkind hcd hmatch habort hnone
    rw [exec_halo_taken hport hrecv hvc hkind hcd, takeHalo_of_aborted hmatch habort hnone]
  case commit =>
    intro f w cd v s s1 hport htake htyp hcd hep hheld hsrc htag hver hopen hvalid
    obtain ⟨hhalos, hcount, hrows⟩ := takeCommit_single (cdIdx_lt hcd) hheld hsrc htag hver hopen hvalid
    exact ⟨_, (exec_commit f s).trans (onHaloToken_taken hport htake htyp hcd hep), hhalos, hcount, rfl, hrows⟩
  case revoke =>
    intro f w cd v s s1 hport htake htyp hcd hep hheld hsrc htag hver hopen hvalid
    obtain ⟨hhalos, hcount⟩ := takeRevoke_single (cdIdx_lt hcd) hheld hsrc htag hver hopen hvalid
    refine ⟨_, (exec_revoke f s).trans (onHaloToken_taken hport htake htyp hcd hep), hhalos, hcount, rfl, ?_⟩
    exact commitHalos_of_revoked hhalos
  case stale =>
    intro f w cd s s1 hport htake hcd hep
    rw [exec_commit, exec_revoke]
    exact ⟨onHaloToken_stale hport htake hcd hep, onHaloToken_stale hport htake hcd hep⟩

end Sys2Proof.Proofs
end
